-- ==== Sys2Proof/Word.lean ====
section
/-! DEFINITION. The word types of the machine: bytes and the widths the manual's fields and registers have. -/

namespace Sys2Proof

abbrev Byte := BitVec 8
abbrev W16 := BitVec 16
abbrev W32 := BitVec 32
abbrev W64 := BitVec 64

/-- A table of numbered records: (number, record) pairs. A number that is not listed stands for the table's
default record (its value at reset). `Tab.wf` says the canonical form. -/
abbrev Tab (α : Type) := List (Nat × α)

end Sys2Proof
end

