-- ==== Sys2Proof/Syntax.lean ====
section
/-! DEFINITION. The commands of the block: one constructor for each row of spec/opcode_table.json, in its order. -/

namespace Sys2Proof

/-- A mailbox command: the seat that issues it, the seat's mailbox, the command header of R389, the 224-byte body and
the 3.5 KiB payload window of R385. -/
structure Cmd where
  seat : Nat
  mbox : Nat
  hdr : BitVec 256
  body : BitVec 1792
  payload : BitVec 28672
  deriving DecidableEq, Repr

/-- A torus packet: the header of R327 and up to 512 payload bytes. -/
structure Packet where
  hdr : BitVec 256
  payload : BitVec 4096
  deriving DecidableEq, Repr

/-- What carried a MESSAGE from another chip (R328): the torus port it arrived on and the header of its last packet. -/
structure Carrier where
  port : Nat
  pkt : BitVec 256
  deriving DecidableEq, Repr

/-- A MESSAGE from another chip: what carried it, and the first of its contents, which the command's operand names. -/
structure Msg (α : Type) extends Carrier where
  val : α
  deriving DecidableEq, Repr

/-- The other side of a mirror pair in MIRROR_COMPARE (R376): its role and the digest of its configuration. -/
structure MirPeer where
  role : Nat
  digest : BitVec 256
  deriving DecidableEq, Repr

/-- What carried a DISPATCH packet (R328): the torus port and the header of its last packet; none for a dispatch packet of
this device's own clusters. -/
abbrev Via := Option (Nat × BitVec 256)

/-- An access over the Avkin link (R23, R384): a read, a write of `len` bytes, or an atomic (R331's AOP codes). -/
inductive Access where
  | read (addr : W64) (len : Nat)
  | write (addr : W64) (len : Nat) (data : BitVec 512)
  deriving DecidableEq, Repr

/-- An access that reaches an external queue of a bank group (R61): queue, seat, byte offset in the ingot, length. -/
structure ExtReq where
  queue : Nat
  seat : Nat
  off : Nat
  len : Nat
  write : Bool
  data : BitVec 512
  deriving DecidableEq, Repr

/-- One item of a mirror journal (R377). A `riser` item is a write into a riser set in a turn of a binding; while a pair
synchronises (R376), the pages of runs and held sets. -/
inductive JournalItem where
  | riser (binding turn off : Nat) (bytes : List Byte)
  | entry (slot : Nat) (word : BitVec 1024)
  | runRecord (binding pool idx : Nat) (word : BitVec 128)
  | index (off : Nat) (word : BitVec 256)
  | stake (n : Nat) (word : BitVec 512)
  | shadow (addr : Nat) (bytes : List Byte)
  | flush (src dst : Nat) (tiles : Nat)
  | turnBlock (binding : Nat) (word : BitVec 192)
  deriving DecidableEq, Repr

/-- One entry of the composition that a slice's leader scatters (R360, R370): the length-table entry, and what the member's
rows need of the request that the leader alone holds: the draft's nodes, the structured mask's header and address, the
riser sets by column and first slot. -/
structure SliceEnt where
  len : BitVec 128
  draft : List (Nat × Nat)
  smask : BitVec 512
  maskAt : Nat
  sets : List (Nat × Nat)
  deriving DecidableEq, Repr

/-- A block or header that a close reads (R153, R308, R317). -/
inductive BlockRead where
  | sampling
  | mask
  | grammar
  | draft
  deriving DecidableEq, Repr

/-- What a fetch or tile move that is given up was for (R256). -/
inductive Lost where
  | oneRequest (binding slot : Nat)
  | weightTile (binding : Nat)
  | splitPartial (core : Nat)
  | parkCopy (slot col : Nat)
  | returnCopy (slot col : Nat)
  | placeCopy (obj : Nat)
  | promptRead (slot : Nat)
  | consRead (slot : Nat)
  | blockRead (slot : Nat) (what : BlockRead)
  deriving DecidableEq, Repr

/-- The commands. -/
inductive Instr where
  | admitReq (c : Cmd)
  | feed (c : Cmd)
  | cancel (c : Cmd)
  | pause (c : Cmd)
  | resume (c : Cmd)
  | placeCreate (c : Cmd)
  | placeMove (c : Cmd)
  | placeFlush (c : Cmd)
  | placeDrop (c : Cmd)
  | placeDestroy (c : Cmd)
  | bindLoad (c : Cmd)
  | variantAdd (c : Cmd)
  | variantRemove (c : Cmd)
  | bindClear (c : Cmd)
  | unbind (c : Cmd)
  | mould (c : Cmd)
  | stakeAssign (c : Cmd)
  | stakeUpdate (c : Cmd)
  | stakeRelease (c : Cmd)
  | seatSetWindow (c : Cmd)
  | seatSetQuota (c : Cmd)
  | seatSetConfig (c : Cmd)
  | seatSetAttach (c : Cmd)
  | seatSetDetach (c : Cmd)
  | seatSetRisers (c : Cmd)
  | seatReset (c : Cmd)
  | plan (c : Cmd)
  | sliceForm (c : Cmd)
  | sliceDissolve (c : Cmd)
  | sliceHold (c : Cmd)
  | sliceContinue (c : Cmd)
  | sliceReset (c : Cmd)
  | sliceCut (c : Cmd)
  | sliceUncut (c : Cmd)
  | mirrorPair (c : Cmd)
  | mirrorUnpair (c : Cmd)
  | mirrorTakeover (c : Cmd)
  | tally (c : Cmd)
  | ident (c : Cmd)
  | attest (c : Cmd)
  | probeChallenge (c : Cmd)
  | probeUnlock (c : Cmd)
  | probeSelect (c : Cmd)
  | probeOff (c : Cmd)
  | mbCtrlOwnSet (behalf seat mbox : Nat)
  | mailboxGrant
  | longCommandPrepared (seat mbox : Nat)
  | heldCommandApply
  | govLimitWrite (behalf ingot : Nat) (value : W64)
  | tierCfgWrite (behalf : Nat) (value : W64)
  | timeCfgWrite (behalf : Nat) (value : W64)
  | controlSpaceWrite (behalf off len : Nat) (data : BitVec 512)
  | avkinAccess (behalf : Nat) (acc : Access)
  | fabricLoad (port : Nat) (p : Packet)
  | fabricStore (port : Nat) (p : Packet)
  | fabricAtomic (port : Nat) (p : Packet)
  | bulkGet (port : Nat) (p : Packet)
  | bulkData (port : Nat) (p : Packet)
  | fabricAck (port : Nat) (p : Packet)
  | fabricResponse (port : Nat) (p : Packet)
  | fence (unit : Nat)
  | packetForward (port : Nat) (p : Packet)
  | linkTrained (port : Nat)
  | linkTrainingLost (port : Nat)
  | linkid (port : Nat) (rec : BitVec 256)
  | linkPacketError (port : Nat) (seq : Nat) (crcOk : Bool)
  | torusTrainingAttempt (port : Nat) (ok : Bool)
  | channelBurstCrcError (ingot channel : Nat) (data : BitVec 512) (crc : W16)
  | laneTest
  | spareRetrainDone (ingot channel : Nat) (ok : Bool)
  | laneHandover (ingot channel : Nat)
  | linkLaneRetrain (link : Nat) (ok : Bool)
  | linkForced (link : Nat) (ok : Bool)
  | timeSyncExchange (t1 t2 t3 t4 : Nat) (parentHops : Nat)
  | refresh (ingot bg : Nat)
  | hmScrubRead (base : Nat)
  | govSensorSample (ingot : Nat) (readings : List (Option Int))
  | govIntervalEnd (ingot microwatt : Nat)
  | externalAccess (ingot bg : Nat) (arrivals : List ExtReq)
  | deferredWriteDrain (ingot page : Nat)
  | lockExpiry (ingot page : Nat)
  | desc (ingot : Nat) (via : Via) (hdr : BitVec 128) (d : BitVec 256)
  | descMasked (ingot : Nat) (via : Via) (hdr : BitVec 128) (d : BitVec 256) (mask : BitVec 128)
  | query (ingot : Nat) (via : Via) (hdr : BitVec 128) (words : List W32)
  | close (ingot : Nat) (via : Via) (hdr : BitVec 128)
  | dispatchRelease (ingot : Nat) (via : Via) (hdr : BitVec 128)
  | descriptorStart (p : Nat)
  | rowStreamBeat (p : Nat)
  | pipNop (p : Nat)
  | pipEnd (p : Nat)
  | pipAdd (p : Nat)
  | pipSub (p : Nat)
  | pipAnd (p : Nat)
  | pipOr (p : Nat)
  | pipXor (p : Nat)
  | pipShl (p : Nat)
  | pipShr (p : Nat)
  | pipMul (p : Nat)
  | pipAddi (p : Nat)
  | pipAndi (p : Nat)
  | pipShri (p : Nat)
  | pipShli (p : Nat)
  | pipLui (p : Nat)
  | pipLdw (p : Nat)
  | pipStw (p : Nat)
  | pipFadd (p : Nat)
  | pipFsub (p : Nat)
  | pipFmul (p : Nat)
  | pipFmax (p : Nat)
  | pipFexp2 (p : Nat)
  | pipBeq (p : Nat)
  | pipBne (p : Nat)
  | pipBlt (p : Nat)
  | pipBge (p : Nat)
  | pipRep (p : Nat)
  | pipRstr (p : Nat)
  | pipStb (p : Nat)
  | pipMac (p : Nat)
  | pipScx (p : Nat)
  | pipVzero (p : Nat)
  | pipVadd (p : Nat)
  | pipVmul (p : Nat)
  | pipVfma (p : Nat)
  | pipVmax (p : Nat)
  | pipVadds (p : Nat)
  | pipVmuls (p : Nat)
  | pipVexp2 (p : Nat)
  | pipVrmax (p : Nat)
  | pipVrsum (p : Nat)
  | pipVmsk (p : Nat)
  | pipVld (p : Nat)
  | pipVst (p : Nat)
  | pipEmit (p : Nat)
  | resultRecord (ingot : Nat)
  | mergedTriple (cluster : Nat) (hdr : BitVec 256) (payload : List W32)
  | clusterPathPartial (cluster layer entry group row head : Nat) (col : Option Nat)
  | headOutput (cluster layer entry group row head : Nat)
  | mergeTimeout (cluster : Nat) (ingot tag : Nat)
  | attentionWalk (cluster layer entry group : Nat)
  | pipWeightProduct (cluster : Nat) (record : Nat)
  | tileMove (core : Nat) (src dst : W64) (tiles : Nat) (ring : Bool)
  | ringFillComplete (core : Nat)
  | mxMma (core : Nat) (w : BitVec 256)
  | mxStat (core : Nat) (w : BitVec 256)
  | mxSetstat (core : Nat) (w : BitVec 256)
  | spillDrain (core : Nat)
  | mmaFinish (core : Nat)
  | epilogue (core : Nat)
  | vxCvt (core : Nat) (w : BitVec 256)
  | vxAdd (core : Nat) (w : BitVec 256)
  | vxSub (core : Nat) (w : BitVec 256)
  | vxMul (core : Nat) (w : BitVec 256)
  | vxAxpy (core : Nat) (w : BitVec 256)
  | vxMax (core : Nat) (w : BitVec 256)
  | vxMin (core : Nat) (w : BitVec 256)
  | vxClamp (core : Nat) (w : BitVec 256)
  | vxRelu (core : Nat) (w : BitVec 256)
  | vxSilu (core : Nat) (w : BitVec 256)
  | vxGelut (core : Nat) (w : BitVec 256)
  | vxExp2 (core : Nat) (w : BitVec 256)
  | vxRsqrt (core : Nat) (w : BitVec 256)
  | vxDiv (core : Nat) (w : BitVec 256)
  | vxSelect (core : Nat) (w : BitVec 256)
  | vxRowsum (core : Nat) (w : BitVec 256)
  | vxRowssq (core : Nat) (w : BitVec 256)
  | vxRowmax (core : Nat) (w : BitVec 256)
  | vxRowamax (core : Nat) (w : BitVec 256)
  | vxRms (core : Nat) (w : BitVec 256)
  | vxRot (core : Nat) (w : BitVec 256)
  | vxQuant (core : Nat) (w : BitVec 256)
  | vxMerge (core : Nat) (w : BitVec 256)
  | vxFinal (core : Nat) (w : BitVec 256)
  | splitPartialAdd (core : Nat) (base arrival result : Nat) (parts : Nat) (wide : Bool)
  | splitTimeout (core : Nat)
  | collPut (engine : Nat) (step : BitVec 512)
  | collWait (engine : Nat) (step : BitVec 512)
  | collAllreduce (engine : Nat) (step : BitVec 512) (inputs : List (List Byte))
  | collAllgather (engine : Nat) (step : BitVec 512) (inputs : List (List Byte))
  | collBcast (engine : Nat) (step : BitVec 512) (data : List Byte)
  | collTimeout (engine : Nat)
  | provisionalCompose (b : Nat)
  | slotGrant
  | gatherComplete
  | leadInStart
  | layersComplete
  | diceRowDraw (row : Nat)
  | sampleComplete
  | commitSection (b : Nat)
  | ringWriteLost (slot k : Nat)
  | releasePhase (b : Nat)
  | weightReread (b ingot off seat : Nat) (ok : Bool)
  | flushComplete (b slot col lane : Nat)
  | seedCopyComplete (slot lane : Nat)
  | pauseTailComplete (slot : Nat)
  | pauseTailRetry (slot : Nat)
  | parkCopyComplete (slot col : Nat)
  | returnCopyComplete (slot col : Nat)
  | evictionNotice (slot : Msg Nat)
  | parkSpaceRelease (owner : Msg Nat) (id : Nat)
  | parkReleaseAck (id : Msg Nat)
  | parkReleaseTimeout (id : Nat)
  | ownerChange (oldChip : Msg Nat) (newChip seat : Nat)
  | movePassEnd (obj : Nat)
  | placeOperationEnd (obj : Nat)
  | fetchLate (b tier fcs : Nat)
  | fetchTimeout (what : Lost) (status : Nat)
  | expiryCheck (b : Nat)
  | consPoll (slot : Nat)
  | requestDone (slot : Nat)
  | seatResetComplete (seat : Nat)
  | barrierGather (via : Carrier) (rec : BitVec 512)
  | barrierScatter (rec : Msg (BitVec 512)) (entries : List SliceEnt)
  | barrierTimeout (b : Nat)
  | formResend
  | formTimeout
  | mirrorCompare (seat : Msg Nat) (peer : MirPeer)
  | mirrorPairTimeout (seat : Nat)
  | mirrorSyncComplete (seat : Nat)
  | mirrorJournal (seat : Msg Nat) (items : List JournalItem)
  | sealRecord (seat : Msg Nat) (binding turn : Nat)
  | sealAck (seat : Msg Nat) (binding turn : Nat)
  | sealTimeout (seat : Nat)
  | rstNAssert
  | rstNRelease (romOk : Bool)
  | bootStageFuse (ok : Bool)
  | bootStageAvkin (lanes : BitVec 16)
  | bootStageFetch
  | bootHeaderPoll
  | bootStageVerify
  | bootStageRollback (good : Nat)
  | bootStageFirmware (ok : Bool) (failed : List (Nat × Nat × Nat))
  | bootStageLinks (ok : Bool)
  | bootStageReady
  | railLoss
  | pllUnlock
  | dieSensorRead (temps : List (Option Int))
  | smbusBlockRead (code : Nat) (pecOk : Bool)
  | smbusAlertResponse (won : Bool)
  | smbusWrite
  | jtagTapReset
  | jtagBypass
  | jtagIdcode
  | jtagSamplePreload
  | jtagExtest
  | jtagExtestPulse
  | jtagExtestTrain
  | jtagClamp
  | jtagHighz
  | enginesDrained (b : Nat)
  | issueBudgetExhausted (p : Nat)
  | parkHostTakeRun (owner : Msg Nat) (seat slot col tiles : Nat)
  | prbClkEdge (events : Byte)
  deriving DecidableEq, Repr

end Sys2Proof
end

