-- ==== Sys2Proof/Config.lean ====
section
/-! DEFINITION. What one part fixes and the manual does not give, and the free values: constants without a body, so
that nothing can be proved of the value they have. -/

namespace Sys2Proof.Config

/-- The n-th free byte: a value the manual leaves undefined after which the machine goes on (R81, R95; log entry 7). -/
opaque freeByte : Nat → Byte

/-- The n-th free word: a number the manual leaves open. -/
opaque freeWord : Nat → BitVec 64

/-- The n-th free bit, for a choice the manual leaves open. -/
opaque freeBit : Nat → Bool

/-- The n-th free list of memory cells, for a write of which the manual gives neither place nor bytes. -/
opaque freeCells : Nat → List (Nat × Byte)

/-- The payload of the n-th MESSAGE packet whose layout the manual does not give (R328; log entry 96). -/
opaque messageBody : Nat → BitVec 4096

/-- The 32 bytes that the n-th PROBE CHALLENGE draws (R466). -/
opaque challenge : Nat → BitVec 256

/-- The prefix-index key of a seat and share group under the secret drawn at the n-th power-on (R129). -/
opaque prefixKey : Nat → Nat → Nat → BitVec 128

end Sys2Proof.Config
end

