-- ==== Sys2Proof/Machine/Tab.lean ====
section
/-! DEFINITION. Tables in canonical form, bit fields of a register, bytes of a value (R3). -/

namespace Sys2Proof.Machine

/-- The record of number `k`; `d` is what an unlisted number holds. -/
def Tab.get {α : Type} (t : Tab α) (d : α) (k : Nat) : α :=
  match t with
  | [] => d
  | (k', v) :: rest => if k' = k then v else Tab.get rest d k

/-- The table without any entry for `k`. -/
def Tab.erase {α : Type} (t : Tab α) (k : Nat) : Tab α := t.filter (fun e => e.1 != k)

/-- Puts an entry before the first one with a larger number. -/
def Tab.insert {α : Type} (t : Tab α) (k : Nat) (v : α) : Tab α :=
  match t with
  | [] => [(k, v)]
  | (k', v') :: rest => if k < k' then (k, v) :: (k', v') :: rest else (k', v') :: Tab.insert rest k v

/-- Writes a record; writing the default removes the entry. -/
def Tab.set {α : Type} [DecidableEq α] (t : Tab α) (d : α) (k : Nat) (v : α) : Tab α :=
  if v = d then Tab.erase t k else Tab.insert (Tab.erase t k) k v

/-- Applies `f` to the record of number `k`. -/
def Tab.upd {α : Type} [DecidableEq α] (t : Tab α) (d : α) (k : Nat) (f : α → α) : Tab α :=
  Tab.set t d k (f (Tab.get t d k))

/-- The canonical form: numbers strictly rising, no entry equal to the default. -/
def Tab.wf {α : Type} [DecidableEq α] (t : Tab α) (d : α) : Bool :=
  match t with
  | [] => true
  | (k, v) :: rest => decide (v ≠ d) && rest.all (fun e => decide (k < e.1)) && Tab.wf rest d

/-- A bit field: its lowest bit and its width. -/
structure Fld where
  lo : Nat
  w : Nat
  deriving DecidableEq, Repr

/-- The field's value. -/
def Fld.get {n : Nat} (f : Fld) (x : BitVec n) : Nat := (x.extractLsb' f.lo f.w).toNat

/-- The register with the field set to `v` (cut to the field's width). -/
def Fld.set {n : Nat} (f : Fld) (x : BitVec n) (v : Nat) : BitVec n :=
  (x &&& ~~~(((BitVec.allOnes f.w).setWidth n) <<< f.lo)) ||| (((BitVec.ofNat f.w v).setWidth n) <<< f.lo)

/-- The field's value as a flag. -/
def Fld.on {n : Nat} (f : Fld) (x : BitVec n) : Bool := f.get x != 0

/-- The field as a two's complement number. -/
def Fld.getInt {n : Nat} (f : Fld) (x : BitVec n) : Int := (x.extractLsb' f.lo f.w).toInt

/-- Sets several fields, left to right. -/
def setAll {n : Nat} (x : BitVec n) (l : List (Fld × Nat)) : BitVec n :=
  l.foldl (fun a e => e.1.set a e.2) x

/-- No RSV field of the list holds a 1. -/
def rsvZero {n : Nat} (l : List Fld) (x : BitVec n) : Bool := l.all (fun f => f.get x == 0)

/-- True as 1, false as 0. -/
def b2n (b : Bool) : Nat := if b then 1 else 0

/-- Bytes of a number, least significant first (R3). -/
def bytesOf (v : Nat) : Nat → List Byte
  | 0 => []
  | k + 1 => BitVec.ofNat 8 v :: bytesOf (v / 256) k

/-- The number that bytes spell, least significant first (R3). -/
def ofBytes : List Byte → Nat
  | [] => 0
  | b :: rest => b.toNat + 256 * ofBytes rest

/-- Ceiling of a quotient. -/
def cdiv (a b : Nat) : Nat := (a + b - 1) / b

end Sys2Proof.Machine
end

