-- ==== Sys2Proof/Machine/Layout.lean ====
section
/-! DEFINITION. The bit places of every register, structure and command body of the manual, one namespace a table,
each name the table's own. `rsv` lists the table's RSV fields. -/

namespace Sys2Proof.Machine

/- R17 (01_architecture.md) -/
namespace LAddr
def SPACE : Fld := ⟨52, 1⟩
def CHIP : Fld := ⟨40, 12⟩
def OFFSET : Fld := ⟨0, 40⟩
def rsv : List Fld := [⟨53, 11⟩]
end LAddr

/- R32 (02_turn.md) -/
namespace LTurnBlk
def TURN : Fld := ⟨0, 64⟩
def COMMIT_TIME : Fld := ⟨64, 64⟩
def PHASE : Fld := ⟨128, 3⟩
def PATH : Fld := ⟨131, 1⟩
def TOKENS : Fld := ⟨132, 9⟩
def REQS : Fld := ⟨141, 9⟩
def LAYER : Fld := ⟨150, 8⟩
def FAULTED : Fld := ⟨158, 1⟩
def rsv : List Fld := [⟨159, 33⟩]
end LTurnBlk

/- R44 (02_turn.md) -/
namespace LLenEnt
def SLOT : Fld := ⟨0, 14⟩
def KIND : Fld := ⟨14, 2⟩
def QTOK : Fld := ⟨16, 9⟩
def KVLEN : Fld := ⟨32, 20⟩
def ROW : Fld := ⟨52, 8⟩
def SAMPLE : Fld := ⟨60, 1⟩
def PTBASE : Fld := ⟨64, 64⟩
def rsv : List Fld := [⟨25, 7⟩, ⟨61, 3⟩]
end LLenEnt

/- R78 (03_ingots.md) -/
namespace LGovSt
def DUTY : Fld := ⟨0, 11⟩
def TEMP : Fld := ⟨16, 8⟩
def HOT_DIE : Fld := ⟨24, 4⟩
def POWER : Fld := ⟨32, 10⟩
def MODE : Fld := ⟨48, 2⟩
def SENSOR_FAULT : Fld := ⟨50, 1⟩
def rsv : List Fld := [⟨11, 5⟩, ⟨28, 4⟩, ⟨42, 6⟩, ⟨51, 13⟩]
end LGovSt

/- R78 (03_ingots.md) -/
namespace LGovLim
def P_LIMIT : Fld := ⟨0, 8⟩
def T_LIMIT : Fld := ⟨8, 8⟩
def rsv : List Fld := [⟨16, 48⟩]
end LGovLim

/- R84 (04_pip_core.md) -/
namespace LPipWord
def OP : Fld := ⟨26, 6⟩
def A : Fld := ⟨22, 4⟩
def B : Fld := ⟨18, 4⟩
def C : Fld := ⟨14, 4⟩
def X : Fld := ⟨0, 14⟩
def IMM : Fld := ⟨0, 18⟩
def rsv : List Fld := []
end LPipWord

/- R93 (04_pip_core.md) -/
namespace LDesc
def KIND : Fld := ⟨0, 2⟩
def FMT : Fld := ⟨2, 3⟩
def PROG : Fld := ⟨5, 4⟩
def SEAT : Fld := ⟨9, 6⟩
def WRITE : Fld := ⟨15, 1⟩
def PAGE : Fld := ⟨16, 22⟩
def INGOT : Fld := ⟨38, 4⟩
def PAGE_SEQ : Fld := ⟨48, 16⟩
def SLOT : Fld := ⟨64, 14⟩
def QROW0 : Fld := ⟨78, 8⟩
def NQ : Fld := ⟨86, 5⟩
def HEAD0 : Fld := ⟨91, 7⟩
def VALID : Fld := ⟨98, 8⟩
def TPP : Fld := ⟨106, 3⟩
def KOFF : Fld := ⟨112, 8⟩
def VOFF : Fld := ⟨120, 8⟩
def KSOFF : Fld := ⟨128, 8⟩
def VSOFF : Fld := ⟨136, 8⟩
def DIMQ : Fld := ⟨144, 4⟩
def QID : Fld := ⟨148, 8⟩
def ISSUER : Fld := ⟨156, 12⟩
def CLUSTER : Fld := ⟨168, 5⟩
def TAG : Fld := ⟨176, 16⟩
def COL0 : Fld := ⟨192, 20⟩
def ROW0 : Fld := ⟨212, 20⟩
def ROWB : Fld := ⟨232, 5⟩
def COLS : Fld := ⟨237, 10⟩
def rsv : List Fld := [⟨42, 6⟩, ⟨109, 3⟩, ⟨173, 3⟩, ⟨247, 9⟩]
end LDesc

/- R98 (04_pip_core.md) -/
namespace LRec
def PAGE_SEQ : Fld := ⟨0, 16⟩
def STATUS : Fld := ⟨16, 16⟩
def TAG : Fld := ⟨32, 16⟩
def SLOT : Fld := ⟨48, 14⟩
def EMPTY : Fld := ⟨62, 1⟩
def KIND : Fld := ⟨63, 1⟩
def QROW : Fld := ⟨64, 8⟩
def HEAD : Fld := ⟨72, 7⟩
def M : Fld := ⟨96, 32⟩
def L : Fld := ⟨128, 32⟩
def rsv : List Fld := [⟨79, 17⟩, ⟨160, 96⟩]
end LRec

/- R100 (04_pip_core.md) -/
namespace LPipImg
def LEN : Fld := ⟨0, 11⟩
def SIGNED : Fld := ⟨11, 1⟩
def WRITES : Fld := ⟨12, 1⟩
def VERSION : Fld := ⟨16, 16⟩
def rsv : List Fld := [⟨13, 3⟩, ⟨32, 96⟩]
end LPipImg

/- R111 (05_kv_pages.md) -/
namespace LPtHdr
def COLS : Fld := ⟨0, 17⟩
def LEN : Fld := ⟨32, 20⟩
def HELD : Fld := ⟨52, 1⟩
def RISER : Fld := ⟨64, 19⟩
def VARIANT : Fld := ⟨96, 10⟩
def VAR_ON : Fld := ⟨106, 1⟩
def GROUP : Fld := ⟨107, 12⟩
def SHARE_ON : Fld := ⟨119, 1⟩
def CHAIN : Fld := ⟨128, 64⟩
def rsv : List Fld := [⟨17, 15⟩, ⟨53, 11⟩, ⟨83, 13⟩, ⟨120, 8⟩, ⟨192, 320⟩]
end LPtHdr

/- R112 (05_kv_pages.md) -/
namespace LPtEnt
def ADDR : Fld := ⟨0, 39⟩
def POOL : Fld := ⟨39, 4⟩
def KIND : Fld := ⟨43, 2⟩
def FILL : Fld := ⟨45, 7⟩
def rsv : List Fld := [⟨52, 12⟩]
end LPtEnt

/- R115 (05_kv_pages.md) -/
namespace LRunRec
def REFCNT : Fld := ⟨0, 16⟩
def PINNED : Fld := ⟨16, 1⟩
def INDEXED : Fld := ⟨17, 1⟩
def RESERVED : Fld := ⟨18, 1⟩
def DEFER : Fld := ⟨19, 1⟩
def LASTREAD : Fld := ⟨64, 64⟩
def rsv : List Fld := [⟨20, 12⟩, ⟨32, 32⟩]
end LRunRec

/- R130 (05_kv_pages.md) -/
namespace LIdx
def HASH : Fld := ⟨0, 64⟩
def RUN : Fld := ⟨64, 39⟩
def PARENT : Fld := ⟨103, 39⟩
def PSTART : Fld := ⟨142, 1⟩
def BINDING : Fld := ⟨143, 4⟩
def GROUP : Fld := ⟨147, 18⟩
def VALID : Fld := ⟨165, 1⟩
def rsv : List Fld := [⟨166, 90⟩]
end LIdx

/- R146 (06_attention.md) -/
namespace LTag
def GROUP : Fld := ⟨0, 5⟩
def ENTRY : Fld := ⟨5, 8⟩
def PARITY : Fld := ⟨13, 1⟩
def rsv : List Fld := [⟨14, 2⟩]
end LTag

/- R152 (06_attention.md) -/
namespace LSMask
def TURN : Fld := ⟨0, 64⟩
def SPAN_BASE : Fld := ⟨64, 32⟩
def SPAN_LEN : Fld := ⟨96, 32⟩
def ROW_BASE : Fld := ⟨128, 32⟩
def ROWS : Fld := ⟨160, 32⟩
def BELOW : Fld := ⟨192, 1⟩
def rsv : List Fld := [⟨193, 319⟩]
end LSMask

/- R155 (06_attention.md) -/
namespace LDisp
def TYPE : Fld := ⟨0, 4⟩
def INGOT : Fld := ⟨4, 4⟩
def ISSUER : Fld := ⟨8, 12⟩
def CLUSTER : Fld := ⟨20, 5⟩
def TAG : Fld := ⟨32, 16⟩
def COUNT : Fld := ⟨48, 16⟩
def LAYER : Fld := ⟨64, 8⟩
def rsv : List Fld := [⟨25, 7⟩, ⟨72, 56⟩]
end LDisp

/- R163 (06_attention.md) -/
namespace LMrg
def FIRST_SEQ : Fld := ⟨0, 16⟩
def KIND : Fld := ⟨63, 1⟩
def INGOT : Fld := ⟨79, 4⟩
def CHIP : Fld := ⟨83, 12⟩
def MERGED : Fld := ⟨95, 1⟩
def COUNT : Fld := ⟨160, 16⟩
def rsv : List Fld := [⟨176, 80⟩]
end LMrg

/- R182 (07_matrix_cores.md) -/
namespace LMx
def OP : Fld := ⟨0, 4⟩
def FMTA : Fld := ⟨4, 2⟩
def FMTB : Fld := ⟨6, 2⟩
def WIDE : Fld := ⟨8, 1⟩
def INIT : Fld := ⟨9, 1⟩
def SPRUE : Fld := ⟨10, 1⟩
def FIN : Fld := ⟨11, 1⟩
def SLOT0 : Fld := ⟨12, 10⟩
def MB : Fld := ⟨22, 4⟩
def NB : Fld := ⟨26, 6⟩
def KS : Fld := ⟨32, 16⟩
def SEED : Fld := ⟨64, 32⟩
def ABASE : Fld := ⟨96, 15⟩
def ASTRIDE : Fld := ⟨111, 15⟩
def BBASE : Fld := ⟨128, 15⟩
def BRING : Fld := ⟨143, 7⟩
def BFIRST : Fld := ⟨150, 7⟩
def SENT0 : Fld := ⟨157, 8⟩
def MOULD : Fld := ⟨165, 8⟩
def rsv : List Fld := [⟨48, 16⟩, ⟨126, 2⟩, ⟨173, 83⟩]
end LMx

/- R188 (07_matrix_cores.md) -/
namespace LSlotSt
def SINCE : Fld := ⟨0, 13⟩
def OVF : Fld := ⟨13, 1⟩
def NANF : Fld := ⟨14, 1⟩
def SPRUE : Fld := ⟨15, 1⟩
def SENT : Fld := ⟨16, 8⟩
def WIDE : Fld := ⟨24, 1⟩
def rsv : List Fld := [⟨25, 7⟩]
end LSlotSt

/- R201 (08_moulds_vector.md) -/
namespace LMouldHd
def NUMBER : Fld := ⟨0, 8⟩
def NSTAGE : Fld := ⟨8, 4⟩
def ROWN : Fld := ⟨16, 11⟩
def EPS : Fld := ⟨32, 32⟩
def rsv : List Fld := [⟨12, 4⟩, ⟨27, 5⟩, ⟨64, 64⟩]
end LMouldHd

/- R202 (08_moulds_vector.md) -/
namespace LStg
def KIND : Fld := ⟨0, 5⟩
def SUB : Fld := ⟨5, 3⟩
def FMT : Fld := ⟨8, 2⟩
def BASE : Fld := ⟨10, 15⟩
def PITCH : Fld := ⟨25, 15⟩
def P0 : Fld := ⟨64, 32⟩
def P1 : Fld := ⟨96, 32⟩
def rsv : List Fld := [⟨40, 24⟩]
end LStg

/- R220 (08_moulds_vector.md) -/
namespace LVx
def OP : Fld := ⟨0, 8⟩
def FA : Fld := ⟨8, 3⟩
def FB : Fld := ⟨11, 3⟩
def FD : Fld := ⟨14, 3⟩
def BMODE : Fld := ⟨17, 2⟩
def ROWS : Fld := ⟨19, 13⟩
def COLS : Fld := ⟨32, 16⟩
def AADDR : Fld := ⟨64, 20⟩
def BADDR : Fld := ⟨84, 20⟩
def DADDR : Fld := ⟨104, 20⟩
def APITCH : Fld := ⟨128, 16⟩
def BPITCH : Fld := ⟨144, 16⟩
def DPITCH : Fld := ⟨160, 16⟩
def IMM : Fld := ⟨192, 32⟩
def IMM2 : Fld := ⟨224, 32⟩
def rsv : List Fld := [⟨48, 16⟩, ⟨124, 4⟩, ⟨176, 16⟩]
end LVx

/- R233 (09_tiers.md) -/
namespace LObj
def KIND : Fld := ⟨0, 4⟩
def STATE : Fld := ⟨4, 3⟩
def SEAT : Fld := ⟨8, 6⟩
def BINDING : Fld := ⟨14, 4⟩
def BOUND : Fld := ⟨18, 1⟩
def SHARED : Fld := ⟨19, 1⟩
def WTIER : Fld := ⟨20, 3⟩
def BTIER : Fld := ⟨23, 3⟩
def TILES : Fld := ⟨32, 32⟩
def WORK : Fld := ⟨64, 64⟩
def BACK : Fld := ⟨128, 64⟩
def DIRTY : Fld := ⟨192, 32⟩
def BORROWED : Fld := ⟨224, 32⟩
def DONE : Fld := ⟨256, 32⟩
def STATUS : Fld := ⟨288, 16⟩
def rsv : List Fld := [⟨7, 1⟩, ⟨26, 6⟩, ⟨304, 208⟩]
end LObj

/- R234 (09_tiers.md) -/
namespace LPlace
def OP : Fld := ⟨0, 4⟩
def KIND : Fld := ⟨4, 4⟩
def OBJECT : Fld := ⟨8, 12⟩
def BINDING : Fld := ⟨20, 4⟩
def BOUND : Fld := ⟨24, 1⟩
def SHARED : Fld := ⟨25, 1⟩
def FILL : Fld := ⟨26, 1⟩
def BACK_ON : Fld := ⟨27, 1⟩
def NOTIFY : Fld := ⟨28, 1⟩
def VECTOR : Fld := ⟨29, 2⟩
def TILES : Fld := ⟨32, 32⟩
def ADDR : Fld := ⟨64, 64⟩
def BACKADDR : Fld := ⟨128, 64⟩
def rsv : List Fld := [⟨31, 1⟩, ⟨192, 64⟩]
end LPlace

/- R257 (09_tiers.md) -/
namespace LTierCfg
def TIMEOUT : Fld := ⟨0, 10⟩
def PARK_HOST : Fld := ⟨16, 1⟩
def rsv : List Fld := [⟨10, 6⟩, ⟨17, 47⟩]
end LTierCfg

/- R262 (10_requests.md) -/
namespace LEnt
def STATE : Fld := ⟨0, 4⟩
def END : Fld := ⟨4, 3⟩
def DETAIL : Fld := ⟨7, 3⟩
def BINDING : Fld := ⟨10, 4⟩
def SEAT : Fld := ⟨14, 6⟩
def STAKE : Fld := ⟨20, 12⟩
def PRIO : Fld := ⟨32, 3⟩
def VARIANT : Fld := ⟨35, 10⟩
def VAR_ON : Fld := ⟨45, 1⟩
def SHARE_ON : Fld := ⟨46, 1⟩
def GROUP : Fld := ⟨47, 12⟩
def MASK_ON : Fld := ⟨59, 1⟩
def HOLD : Fld := ⟨60, 1⟩
def FORK : Fld := ⟨61, 1⟩
def IRQ_ON : Fld := ⟨62, 1⟩
def LEN : Fld := ⟨64, 20⟩
def PDONE : Fld := ⟨84, 20⟩
def PAVAIL : Fld := ⟨104, 20⟩
def NEXT_ON : Fld := ⟨124, 1⟩
def FINAL : Fld := ⟨125, 1⟩
def PTBASE : Fld := ⟨128, 64⟩
def PBASE : Fld := ⟨192, 64⟩
def PCAP : Fld := ⟨256, 20⟩
def FORKPOS : Fld := ⟨276, 20⟩
def PARENT : Fld := ⟨296, 14⟩
def VECTOR : Fld := ⟨310, 2⟩
def TTFT_TGT : Fld := ⟨320, 32⟩
def TBT_TGT : Fld := ⟨352, 32⟩
def DEADLINE : Fld := ⟨384, 64⟩
def SEED : Fld := ⟨448, 64⟩
def RING : Fld := ⟨512, 64⟩
def SMASK : Fld := ⟨576, 64⟩
def SAMPLE : Fld := ⟨640, 64⟩
def COLS : Fld := ⟨704, 17⟩
def SLOT : Fld := ⟨721, 14⟩
def T_ADMIT : Fld := ⟨768, 64⟩
def T_LAST : Fld := ⟨832, 64⟩
def T_EXPIRE : Fld := ⟨896, 64⟩
def NEXT : Fld := ⟨960, 32⟩
def DELIVERED : Fld := ⟨992, 32⟩
def rsv : List Fld := [⟨63, 1⟩, ⟨126, 2⟩, ⟨312, 8⟩, ⟨735, 33⟩]
end LEnt

/- R273 (10_requests.md) -/
namespace LPause
def SLOT : Fld := ⟨0, 14⟩
def TTL : Fld := ⟨14, 32⟩
def HOST : Fld := ⟨46, 12⟩
def HOST_ON : Fld := ⟨58, 1⟩
def PARK : Fld := ⟨59, 12⟩
def PARK_ON : Fld := ⟨71, 1⟩
def rsv : List Fld := [⟨72, 56⟩]
end LPause

/- R280 (10_requests.md) -/
namespace LRingHd
def PROD : Fld := ⟨0, 32⟩
def END : Fld := ⟨32, 3⟩
def CONS : Fld := ⟨512, 32⟩
def rsv : List Fld := [⟨35, 477⟩, ⟨544, 480⟩]
end LRingHd

/- R281 (10_requests.md) -/
namespace LRingEnt
def TOKEN : Fld := ⟨0, 32⟩
def POS : Fld := ⟨32, 20⟩
def TIME : Fld := ⟨64, 48⟩
def HAS_TOKEN : Fld := ⟨112, 1⟩
def END : Fld := ⟨113, 1⟩
def STATUS : Fld := ⟨114, 3⟩
def FIRST : Fld := ⟨117, 1⟩
def DRAFT : Fld := ⟨118, 1⟩
def HOLD : Fld := ⟨119, 1⟩
def PHASE : Fld := ⟨120, 1⟩
def rsv : List Fld := [⟨52, 12⟩, ⟨121, 7⟩]
end LRingEnt

/- R290 (11_scheduling.md) -/
namespace LStake
def ON : Fld := ⟨0, 1⟩
def SEAT : Fld := ⟨1, 6⟩
def PF_WT : Fld := ⟨8, 8⟩
def RATE : Fld := ⟨16, 20⟩
def BURST : Fld := ⟨64, 24⟩
def LEVEL : Fld := ⟨128, 64⟩
def T_REFILL : Fld := ⟨192, 64⟩
def CHARGED : Fld := ⟨256, 64⟩
def LEFTOVER : Fld := ⟨320, 64⟩
def rsv : List Fld := [⟨7, 1⟩, ⟨36, 28⟩, ⟨88, 40⟩, ⟨384, 128⟩]
end LStake

/- R294 (11_scheduling.md) -/
namespace LStakeCmd
def OP : Fld := ⟨0, 4⟩
def STAKE : Fld := ⟨4, 12⟩
def SEAT : Fld := ⟨16, 6⟩
def PF_WT : Fld := ⟨22, 8⟩
def RATE : Fld := ⟨32, 20⟩
def BURST : Fld := ⟨64, 24⟩
def rsv : List Fld := [⟨30, 2⟩, ⟨52, 12⟩, ⟨88, 168⟩]
end LStakeCmd

/- R306 (12_sampling.md) -/
namespace LSamp
def TEMP : Fld := ⟨0, 32⟩
def TOPK : Fld := ⟨32, 11⟩
def TOPP : Fld := ⟨64, 32⟩
def ALLOW : Fld := ⟨96, 2⟩
def ALLOW_N : Fld := ⟨98, 10⟩
def GRAMMAR : Fld := ⟨108, 1⟩
def DRAFT : Fld := ⟨109, 2⟩
def AADDR : Fld := ⟨128, 64⟩
def GADDR : Fld := ⟨192, 64⟩
def DADDR : Fld := ⟨256, 64⟩
def rsv : List Fld := [⟨43, 21⟩, ⟨111, 17⟩, ⟨320, 192⟩]
end LSamp

/- R307 (12_sampling.md) -/
namespace LGram
def TURN : Fld := ⟨0, 64⟩
def ROWS : Fld := ⟨64, 7⟩
def rsv : List Fld := [⟨71, 441⟩]
end LGram

/- R316 (12_sampling.md) -/
namespace LDraft
def TURN : Fld := ⟨0, 64⟩
def N : Fld := ⟨64, 7⟩
def rsv : List Fld := [⟨71, 441⟩]
end LDraft

/- R327 (13_fabric.md) -/
namespace LPkt
def TYPE : Fld := ⟨0, 4⟩
def CLASS : Fld := ⟨4, 2⟩
def VC : Fld := ⟨6, 1⟩
def DEST : Fld := ⟨8, 12⟩
def SRC : Fld := ⟨20, 12⟩
def STAG : Fld := ⟨32, 12⟩
def SEAT : Fld := ⟨44, 6⟩
def PLEN : Fld := ⟨50, 4⟩
def SIZE : Fld := ⟨54, 2⟩
def AOP : Fld := ⟨56, 3⟩
def UNIT : Fld := ⟨64, 16⟩
def SEQ : Fld := ⟨80, 16⟩
def ADDR : Fld := ⟨96, 40⟩
def STATUS : Fld := ⟨144, 16⟩
def BLEN : Fld := ⟨160, 9⟩
def DATA : Fld := ⟨192, 64⟩
def rsv : List Fld := [⟨7, 1⟩, ⟨59, 5⟩, ⟨136, 8⟩, ⟨169, 23⟩]
end LPkt

/- R336 (13_fabric.md) -/
namespace LRoute
def ROUTE_X : Fld := ⟨0, 8⟩
def ROUTE_Y : Fld := ⟨8, 32⟩
def ROUTE_Z : Fld := ⟨64, 128⟩
def rsv : List Fld := [⟨40, 24⟩]
end LRoute

/- R343 (13_fabric.md) -/
namespace LLink
def TYPE : Fld := ⟨0, 4⟩
def PORT : Fld := ⟨4, 3⟩
def VALID : Fld := ⟨7, 1⟩
def CHIP : Fld := ⟨8, 12⟩
def MODE : Fld := ⟨20, 2⟩
def YLEN : Fld := ⟨22, 5⟩
def ZLEN : Fld := ⟨27, 7⟩
def DIGEST : Fld := ⟨64, 64⟩
def rsv : List Fld := [⟨34, 30⟩, ⟨128, 128⟩]
end LLink

/- R345 (13_fabric.md) -/
namespace LPlanRec
def DIGEST : Fld := ⟨0, 64⟩
def X : Fld := ⟨64, 2⟩
def Y : Fld := ⟨66, 4⟩
def USED : Fld := ⟨70, 6⟩
def rsv : List Fld := [⟨76, 52⟩]
end LPlanRec

/- R348 (13_fabric.md) -/
namespace LFabId
def CHIP : Fld := ⟨0, 12⟩
def VALID : Fld := ⟨12, 1⟩
def MODE : Fld := ⟨13, 2⟩
def YLEN : Fld := ⟨16, 5⟩
def ZLEN : Fld := ⟨21, 7⟩
def STAG : Fld := ⟨28, 12⟩
def rsv : List Fld := [⟨15, 1⟩, ⟨40, 24⟩]
end LFabId

/- R348 (13_fabric.md) -/
namespace LPortSt
def STATE : Fld := ⟨0, 3⟩
def SWAP_WITH : Fld := ⟨3, 3⟩
def HELD : Fld := ⟨6, 1⟩
def NB_CHIP : Fld := ⟨8, 12⟩
def NB_VALID : Fld := ⟨20, 1⟩
def NB_PORT : Fld := ⟨21, 3⟩
def NB_MODE : Fld := ⟨24, 2⟩
def NB_DIGEST : Fld := ⟨64, 64⟩
def rsv : List Fld := [⟨7, 1⟩, ⟨26, 38⟩]
end LPortSt

/- R349 (13_fabric.md) -/
namespace LColl
def OP : Fld := ⟨0, 4⟩
def AXIS : Fld := ⟨4, 2⟩
def FMT : Fld := ⟨6, 1⟩
def PEER : Fld := ⟨8, 12⟩
def UNITS : Fld := ⟨64, 32⟩
def SRC : Fld := ⟨128, 40⟩
def DST : Fld := ⟨168, 40⟩
def FLAG : Fld := ⟨256, 40⟩
def MASK : Fld := ⟨320, 64⟩
def rsv : List Fld := [⟨7, 1⟩, ⟨20, 44⟩, ⟨96, 32⟩, ⟨208, 48⟩, ⟨296, 24⟩, ⟨384, 128⟩]
end LColl

/- R356 (14_slices.md) -/
namespace LSliceCmd
def OP : Fld := ⟨0, 4⟩
def STAG : Fld := ⟨4, 12⟩
def X0 : Fld := ⟨16, 2⟩
def Y0 : Fld := ⟨18, 4⟩
def Z0 : Fld := ⟨22, 6⟩
def NX : Fld := ⟨32, 3⟩
def NY : Fld := ⟨35, 5⟩
def NZ : Fld := ⟨40, 7⟩
def WRAP : Fld := ⟨47, 3⟩
def BINDINGS : Fld := ⟨64, 16⟩
def CUT_Y : Fld := ⟨80, 4⟩
def rsv : List Fld := [⟨28, 4⟩, ⟨50, 14⟩, ⟨84, 172⟩]
end LSliceCmd

/- R368 (14_slices.md) -/
namespace LTimeCfg
def ROOT : Fld := ⟨0, 12⟩
def ENABLE : Fld := ⟨12, 1⟩
def rsv : List Fld := [⟨13, 51⟩]
end LTimeCfg

/- R368 (14_slices.md) -/
namespace LTimeSt
def LOCKED : Fld := ⟨0, 1⟩
def IS_ROOT : Fld := ⟨1, 1⟩
def PARENT : Fld := ⟨2, 3⟩
def HOPS : Fld := ⟨5, 6⟩
def OFFSET : Fld := ⟨16, 16⟩
def RATE : Fld := ⟨32, 16⟩
def rsv : List Fld := [⟨11, 5⟩, ⟨48, 16⟩]
end LTimeSt

/- R369 (14_slices.md) -/
namespace LSync
def CODE : Fld := ⟨0, 8⟩
def BINDING : Fld := ⟨8, 4⟩
def STAG : Fld := ⟨12, 12⟩
def FORM : Fld := ⟨24, 1⟩
def ABANDON : Fld := ⟨25, 1⟩
def HOLD : Fld := ⟨26, 1⟩
def RESET : Fld := ⟨27, 1⟩
def CONTINUE : Fld := ⟨28, 1⟩
def FAIL : Fld := ⟨29, 1⟩
def TURN : Fld := ⟨64, 64⟩
def TIME : Fld := ⟨128, 64⟩
def DIGEST : Fld := ⟨192, 64⟩
def MEMBERS : Fld := ⟨256, 16⟩
def rsv : List Fld := [⟨30, 34⟩, ⟨272, 240⟩]
end LSync

/- R375 (14_slices.md) -/
namespace LMirCmd
def OP : Fld := ⟨0, 4⟩
def SEAT : Fld := ⟨4, 6⟩
def PEER : Fld := ⟨10, 12⟩
def ROLE : Fld := ⟨22, 1⟩
def rsv : List Fld := [⟨23, 233⟩]
end LMirCmd

/- R381 (14_slices.md) -/
namespace LSliceSt
def STATE : Fld := ⟨0, 3⟩
def LEADER : Fld := ⟨3, 1⟩
def LEADER_CHIP : Fld := ⟨8, 12⟩
def LAST_STATUS : Fld := ⟨20, 16⟩
def X0 : Fld := ⟨64, 2⟩
def Y0 : Fld := ⟨66, 4⟩
def Z0 : Fld := ⟨70, 6⟩
def NX : Fld := ⟨76, 3⟩
def NY : Fld := ⟨79, 5⟩
def NZ : Fld := ⟨84, 7⟩
def WRAP : Fld := ⟨91, 3⟩
def BINDINGS : Fld := ⟨96, 16⟩
def CUT : Fld := ⟨112, 16⟩
def rsv : List Fld := [⟨4, 4⟩, ⟨36, 28⟩, ⟨94, 2⟩]
end LSliceSt

/- R381 (14_slices.md) -/
namespace LMirSt
def STATE : Fld := ⟨0, 3⟩
def ROLE : Fld := ⟨3, 1⟩
def PEER_LOST : Fld := ⟨4, 1⟩
def PEER : Fld := ⟨8, 12⟩
def LAST_STATUS : Fld := ⟨20, 16⟩
def SEAL_TIME : Fld := ⟨64, 64⟩
def rsv : List Fld := [⟨5, 3⟩, ⟨36, 28⟩]
end LMirSt

/- R386 (15_mailboxes.md) -/
namespace LMbCtrl
def OWN : Fld := ⟨0, 1⟩
def ACTIVE : Fld := ⟨1, 1⟩
def HELD : Fld := ⟨2, 1⟩
def SEQ : Fld := ⟨16, 16⟩
def rsv : List Fld := [⟨3, 13⟩, ⟨32, 32⟩]
end LMbCtrl

/- R389 (15_mailboxes.md) -/
namespace LCmdHd
def OPCODE : Fld := ⟨0, 16⟩
def IRQ : Fld := ⟨16, 1⟩
def VECTOR : Fld := ⟨17, 2⟩
def TAG : Fld := ⟨64, 64⟩
def rsv : List Fld := [⟨19, 45⟩, ⟨128, 128⟩]
end LCmdHd

/- R390 (15_mailboxes.md) -/
namespace LRspHd
def STATUS : Fld := ⟨0, 16⟩
def OPCODE : Fld := ⟨16, 16⟩
def SEQ : Fld := ⟨32, 16⟩
def WASHELD : Fld := ⟨48, 1⟩
def TAG : Fld := ⟨64, 64⟩
def APPLIED : Fld := ⟨128, 64⟩
def BTURN : Fld := ⟨192, 64⟩
def rsv : List Fld := [⟨49, 15⟩]
end LRspHd

/- R396 (15_mailboxes.md) -/
namespace LIrq
def MBOX : Fld := ⟨0, 4⟩
def RING : Fld := ⟨4, 1⟩
def PLACE : Fld := ⟨5, 1⟩
def EVENT : Fld := ⟨6, 1⟩
def rsv : List Fld := [⟨7, 57⟩]
end LIrq

/- R397 (15_mailboxes.md) -/
namespace LEv
def PORT : Fld := ⟨0, 1⟩
def SLICE : Fld := ⟨1, 1⟩
def MIRROR : Fld := ⟨2, 1⟩
def FAULTED : Fld := ⟨3, 1⟩
def THERMAL : Fld := ⟨4, 1⟩
def rsv : List Fld := [⟨5, 59⟩]
end LEv

/- R399 (15_mailboxes.md) -/
namespace LBindCmd
def OP : Fld := ⟨0, 4⟩
def BINDING : Fld := ⟨4, 4⟩
def VARIANT : Fld := ⟨8, 10⟩
def VLEN : Fld := ⟨18, 17⟩
def VPT : Fld := ⟨64, 64⟩
def rsv : List Fld := [⟨35, 29⟩]
end LBindCmd

/- R400 (15_mailboxes.md) -/
namespace LBindRec
def LAYERS : Fld := ⟨0, 8⟩
def G : Fld := ⟨8, 6⟩
def HQ : Fld := ⟨14, 8⟩
def D : Fld := ⟨22, 9⟩
def TPP : Fld := ⟨31, 3⟩
def KVFMT : Fld := ⟨34, 1⟩
def CLASS : Fld := ⟨35, 1⟩
def MROT : Fld := ⟨36, 1⟩
def SMASK : Fld := ⟨37, 1⟩
def STEP_WIDTH : Fld := ⟨38, 9⟩
def PIP_TOKENS : Fld := ⟨47, 5⟩
def SPRUE_INT : Fld := ⟨52, 13⟩
def VOCAB : Fld := ⟨65, 19⟩
def DRAFT_MISS : Fld := ⟨84, 4⟩
def DRAFT_REST : Fld := ⟨88, 10⟩
def LEADIN : Fld := ⟨98, 5⟩
def NPOOL : Fld := ⟨103, 4⟩
def NIMG : Fld := ⟨107, 2⟩
def NEND : Fld := ⟨109, 5⟩
def WOBJ : Fld := ⟨116, 12⟩
def LPROG : Fld := ⟨128, 64⟩
def LPLEN : Fld := ⟨192, 32⟩
def NMOULD : Fld := ⟨224, 8⟩
def LOBJ : Fld := ⟨232, 12⟩
def MOULDS : Fld := ⟨256, 64⟩
def rsv : List Fld := [⟨114, 2⟩, ⟨244, 12⟩, ⟨320, 192⟩]
end LBindRec

/- R411 (16_seats.md) -/
namespace LSeatCfg
def ENABLED : Fld := ⟨0, 1⟩
def PIP_OWN : Fld := ⟨1, 1⟩
def FABRIC_OPEN : Fld := ⟨2, 1⟩
def RESETTING : Fld := ⟨3, 1⟩
def SHARE : Fld := ⟨8, 9⟩
def W_ING : Fld := ⟨20, 4⟩
def W_FAB : Fld := ⟨24, 4⟩
def EVENT_VEC : Fld := ⟨28, 2⟩
def rsv : List Fld := [⟨4, 4⟩, ⟨17, 3⟩, ⟨30, 34⟩]
end LSeatCfg

/- R412 (16_seats.md) -/
namespace LSeatBnd
def ATTACHED : Fld := ⟨0, 16⟩
def OWNS : Fld := ⟨16, 16⟩
def rsv : List Fld := [⟨32, 32⟩]
end LSeatBnd

/- R414 (16_seats.md) -/
namespace LWin
def VALID : Fld := ⟨0, 1⟩
def WRITE : Fld := ⟨1, 1⟩
def BASE : Fld := ⟨14, 39⟩
def TILES : Fld := ⟨64, 40⟩
def rsv : List Fld := [⟨2, 12⟩, ⟨53, 11⟩, ⟨104, 24⟩]
end LWin

/- R417 (16_seats.md) -/
namespace LSeatSet
def OP : Fld := ⟨0, 4⟩
def SEAT : Fld := ⟨4, 6⟩
def TIER : Fld := ⟨10, 3⟩
def INDEX : Fld := ⟨13, 3⟩
def BINDING : Fld := ⟨16, 4⟩
def rsv : List Fld := [⟨20, 44⟩]
end LSeatSet

/- R429 (17_boot_identity.md) -/
namespace LBootSt
def STAGE : Fld := ⟨0, 4⟩
def CAUSE : Fld := ⟨4, 8⟩
def SOURCE : Fld := ⟨12, 2⟩
def SVN : Fld := ⟨16, 6⟩
def COUNTER : Fld := ⟨22, 6⟩
def rsv : List Fld := [⟨14, 2⟩, ⟨28, 36⟩]
end LBootSt

/- R431 (17_boot_identity.md) -/
namespace LFwHd
def MAGIC : Fld := ⟨0, 32⟩
def HVER : Fld := ⟨32, 8⟩
def SVN : Fld := ⟨40, 6⟩
def ADVANCE : Fld := ⟨46, 1⟩
def FW_VERSION : Fld := ⟨64, 64⟩
def LENGTH : Fld := ⟨128, 32⟩
def ENTRY : Fld := ⟨160, 32⟩
def rsv : List Fld := [⟨47, 17⟩, ⟨192, 320⟩]
end LFwHd

/- R436 (17_boot_identity.md) -/
namespace LIdent
def KIND : Fld := ⟨0, 2⟩
def INDEX : Fld := ⟨2, 8⟩
def LOT : Fld := ⟨16, 40⟩
def WAFER : Fld := ⟨56, 5⟩
def DIE_X : Fld := ⟨64, 8⟩
def DIE_Y : Fld := ⟨72, 8⟩
def rsv : List Fld := [⟨10, 6⟩, ⟨61, 3⟩, ⟨80, 48⟩]
end LIdent

/- R463 (18_package.md) -/
namespace LSbFault
def PLL_UNLOCK : Fld := ⟨0, 1⟩
def DIE_TRIP : Fld := ⟨1, 1⟩
def TRIP_DIE : Fld := ⟨2, 3⟩
def ING_TRIP : Fld := ⟨6, 1⟩
def ING_HOT : Fld := ⟨7, 1⟩
def HALTED : Fld := ⟨8, 1⟩
def DEBUG : Fld := ⟨9, 1⟩
def AVKIN_X8 : Fld := ⟨10, 1⟩
def ING_TRIP_MASK : Fld := ⟨16, 16⟩
def rsv : List Fld := [⟨5, 1⟩, ⟨11, 5⟩, ⟨32, 32⟩]
end LSbFault

/- R465 (18_package.md) -/
namespace LProbe
def OP : Fld := ⟨0, 4⟩
def KIND : Fld := ⟨4, 4⟩
def INDEX : Fld := ⟨8, 13⟩
def rsv : List Fld := [⟨21, 235⟩]
end LProbe

/- R484 (19_reliability.md) -/
namespace LLaneSt
def SPARE : Fld := ⟨0, 6⟩
def DOWN : Fld := ⟨6, 1⟩
def DERATED : Fld := ⟨7, 1⟩
def STEPS : Fld := ⟨8, 6⟩
def FAILED : Fld := ⟨14, 6⟩
def LOST : Fld := ⟨20, 1⟩
def TRAIN_TEMP : Fld := ⟨24, 8⟩
def RETRAINS : Fld := ⟨32, 16⟩
def rsv : List Fld := [⟨21, 3⟩, ⟨48, 16⟩]
end LLaneSt

/- R484 (19_reliability.md) -/
namespace LLinkHl
def TRAIN_TEMP : Fld := ⟨0, 8⟩
def DERATED : Fld := ⟨8, 1⟩
def NEXT : Fld := ⟨9, 4⟩
def TRAINING : Fld := ⟨13, 1⟩
def RETRAINS : Fld := ⟨32, 16⟩
def rsv : List Fld := [⟨14, 18⟩, ⟨48, 16⟩]
end LLinkHl

/- R486 (19_reliability.md) -/
namespace LErr
def TIME : Fld := ⟨0, 64⟩
def ADDR : Fld := ⟨64, 64⟩
def CLASS : Fld := ⟨128, 4⟩
def PATH : Fld := ⟨132, 3⟩
def SEAT : Fld := ⟨135, 6⟩
def BINDING : Fld := ⟨141, 4⟩
def BOUND : Fld := ⟨145, 1⟩
def REREAD_OK : Fld := ⟨146, 1⟩
def rsv : List Fld := [⟨147, 109⟩]
end LErr

end Sys2Proof.Machine
end

