-- ==== Sys2Proof/Machine/State.lean ====
section
/-! DEFINITION. The state of the block as plain data, why a step stops, and the state that reset leaves. -/

namespace Sys2Proof.Machine

/-- Why the machine stops. Both are safe stops: the manual says the device's state is not defined from here on. -/
inductive Fault where
  /-- Any command after a supply rail was lost while RST_N was released; only RST_N assertion leaves it (R448). Safe. -/
  | undefinedRailLoss
  /-- Any command after the root PLL lost its lock: every domain stops until RST_N assertion (R454). Safe. -/
  | clocksUndefined
  deriving DecidableEq, Repr

/-- Why a command has no meaning. -/
inductive Refusal where
  /-- The command is not modelled (raised by no meaning). Safe. -/
  | notModelled (mnemonic : String)
  deriving DecidableEq, Repr

/-- What the device puts on one of its interfaces. -/
inductive Out where
  /-- An interrupt message over the Avkin link (R396). -/
  | irq (msg : BitVec 128)
  /-- A boot message over the Avkin link (R429). -/
  | boot (msg : BitVec 128)
  /-- The answer to an Avkin access: its status and data (R23, R384). -/
  | avkin (status : Nat) (data : List Byte)
  /-- A torus packet that leaves on a port (R327 to R342). -/
  | packet (port : Nat) (p : Packet)
  /-- A LINKID record that leaves on a port (R343). -/
  | linkid (port : Nat) (rec : BitVec 256)
  /-- A request to replay from a packet number (R476). -/
  | replay (port seq : Nat)
  /-- A record of the slice tree, a gather or a scatter, handed to the router in a MESSAGE to a chip (R369 to R372). -/
  | sync (chip : Nat) (rec : BitVec 512)
  /-- What a member's rows use of the composition that follows a commit scatter, beside its length-table entries (R369, R370;
  log entry 77). -/
  | formEntries (chip : Nat) (entries : List SliceEnt)
  /-- What a MESSAGE in the mirror class says to the partner (R376 to R380; log entry 96). -/
  | mirror (chip seat code arg : Nat) (rec : BitVec 256)
  /-- Journal items that MESSAGEs carry to the mirror partner (R377; log entry 96). -/
  | journal (chip seat : Nat) (items : List JournalItem)
  /-- What a MESSAGE about park space says to another chip (log entry 96): 1 take a run, 2 release, 3 eviction notice, 4 acknowledgement,
  5 owner change, 6 run taken, 7 run refused. -/
  | park (chip code arg1 arg2 : Nat)
  /-- A merged triple to a cluster of a chip (R162, R163). -/
  | triple (chip cluster : Nat) (hdr : BitVec 256) (payload : List W32)
  /-- A status that ends a fetch, a split partial or a fabric request for a unit. -/
  | done (unit seq status : Nat) (data : List Byte)
  /-- The SMBus target's answer: bytes sent, or no acknowledge (R462, R463). -/
  | smbus (ack : Bool) (data : List Byte)
  /-- What the JTAG scan register delivers (R464). -/
  | jtag (reg : Nat) (value : Nat)
  /-- A dispatch packet to an ingot of a chip (R155 to R157, R162, R168): header, body words. One to this device's own ingot
  crosses the base dies; one to another chip is handed to the router in DISPATCH packets. -/
  | dispatch (chip ingot : Nat) (hdr : BitVec 128) (words : List W32)
  /-- The replay of a burst on an ingot channel (R58). -/
  | burstReplay (ingot channel : Nat)
  /-- An external access to an ingot completes with its status and data (R61, R66 to R73). -/
  | ext (ingot : Nat) (r : ExtReq) (status : Nat) (data : List Byte)
  deriving DecidableEq, Repr

/-- How a stored word's codeword stands (R71, R72, R469): one wrong bit or symbol, or more than the code corrects. -/
inductive WordErr where
  | ok
  | corr
  | uncorr
  deriving DecidableEq, Repr

/-- The one-time fuses (R428 to R440, R464 to R466). -/
structure Fuses where
  /-- The 216 identity records of R436. -/
  ident : Tab (BitVec 128)
  /-- KEY_HASH (R432). -/
  keyHash : BitVec 256
  /-- The rollback counter's fuses, one a step (R434). -/
  rollback : BitVec 63
  /-- DEBUG_KEY_HASH (R466). -/
  debugKeyHash : BitVec 256
  /-- VENDSIG, the vendor's signature over the identity digest and the attestation key (R438). -/
  vendSig : BitVec 3072
  /-- The public attestation key's modulus (R438). -/
  attKey : BitVec 3072
  /-- The private half of the attestation key, its exponent, which the signing service alone reads (R439). -/
  attExp : BitVec 3072
  deriving DecidableEq, Repr

/-- The pins and what the pins' logic holds (R444 to R468). -/
structure Pins where
  /-- True while RST_N is low. -/
  rstLow : Bool
  railLost : Bool
  pllUnlock : Bool
  /-- The straps and BOOT_SEL as driven, in the places of SB_STRAPS (R444, R462). -/
  straps : BitVec 64
  /-- The straps latched at RST_N release. -/
  latched : BitVec 64
  /-- SB_FAULT (R463). -/
  sbFault : BitVec 64
  /-- SB_ALERT_N driven low. -/
  alert : Bool
  /-- The last temperature of compute dies 0 to 3 and base dies 4 to 7, as SB_TEMP_DIE's byte (R458, R462). -/
  dieTemp : Tab Nat
  /-- The TAP's instruction (R464). -/
  jtagInst : Nat
  /-- The boundary scan register (R464). -/
  bsr : Nat
  /-- True while the boundary register drives the pins. -/
  jtagDrive : Bool
  /-- PROBE SELECT's source, or none (R467). -/
  probeSel : Option (Nat × Nat)
  /-- PRB[7:0] (R468). -/
  prb : Byte
  /-- The counts of the source's events at the previous edge of PRB_CLK (R467). -/
  probeSeen : List (Option Nat)
  deriving DecidableEq, Repr

/-- Root clock and fabric time (R2, R364 to R368). -/
structure Clock where
  ticks : Nat
  /-- Units of fabric time below 1 ns, 54 x 10^8 to the ns. -/
  frac : Nat
  time : W64
  cfg : W64
  status : W64
  /-- Good time exchanges in succession, and the time of the last one. -/
  good : Nat
  lastGood : Nat
  /-- An exchange has been made since RST_N or the last change of ROOT (R366). -/
  synced : Bool
  deriving DecidableEq, Repr

/-- Boot (R428 to R440). -/
structure Boot where
  status : W64
  /-- Root ticks at the end of stage 3 (R430). -/
  stage3End : Nat
  /-- The banker's private copy of the image, its byte i under i (R428, R432). -/
  copy : Tab Byte
  /-- The copy's header (R431). -/
  header : BitVec 512
  /-- The copy's key block (R431), under which pip images are signed too (R100). -/
  keyBlock : BitVec 4096
  measure : BitVec 256
  fwVersion : W64
  /-- The tick at which the ingot interfaces completed training: the ingots' pc count starts there (R60). -/
  pcStart : Nat
  /-- Stage LINKS has read the straps and begun discovery (R428). -/
  links : Bool
  deriving DecidableEq, Repr

/-- One mailbox (R385, R386). -/
structure Mbox where
  req : BitVec 2048
  rsp : BitVec 2048
  payload : BitVec 28672
  ctrl : W64
  deriving DecidableEq, Repr

def Mbox.reset : Mbox := ⟨0#2048, 0#2048, 0#28672, 0#64⟩

/-- One seat's register block and interrupt status (R396, R410 to R414, R427). -/
structure Seat where
  cfg : W64
  bnd : W64
  /-- Q_REQ, Q_RISER, Q_T1 to Q_T4, in the order of R410. -/
  quota : Tab Nat
  usage : Tab Nat
  /-- Window register i of tier t under number 8t + i. -/
  win : Tab (BitVec 128)
  ctr : Tab W64
  irq : W64
  deriving DecidableEq, Repr

/-- A request's pause as a PAUSE asks for it (R273, R274). -/
structure PauseAsk where
  ttl : Nat
  host : Option Nat
  park : Option Nat
  deriving DecidableEq, Repr

/-- Where a parked run lies (R249 to R251): on a host chip under an id, or in a PARK object at a tile offset. -/
inductive ParkPlace where
  | host (chip id addr : Nat)
  | obj (record tile : Nat)
  deriving DecidableEq, Repr

/-- A park copy or a return copy of one run (R251, R252). `pool` and `idx` number the pool run; `due` is the fabric time at
which the copy is given up (R256, R257). -/
structure RunCopy where
  col : Nat
  pool : Nat
  idx : Nat
  place : ParkPlace
  fill : Nat
  kind : Nat
  done : Bool
  due : Nat
  /-- Tiles whose copy has been issued, and the status of the first that failed (R258, R256). -/
  next : Nat
  failed : Nat
  deriving DecidableEq, Repr

/-- Where the entries of a seed come from (R126): a run's first page, or a held set's first slot. -/
inductive SeedSrc where
  | run (addr : Nat)
  | set (slot : Nat)
  deriving DecidableEq, Repr

/-- A seed that a request's first composition must make (R126). -/
structure Seed where
  src : SeedSrc
  col : Nat
  count : Nat
  /-- A fork's parent, whose held set is the source that the fork's first composition finds (R136). -/
  fork : Option Nat
  deriving DecidableEq, Repr

/-- The tail of a pause (R125). -/
inductive Tail where
  | none
  /-- No run was free; tried again by R125. -/
  | wants
  | writing (pool idx k : Nat)
  deriving DecidableEq, Repr

/-- The scheduling state of a request that no address space holds (R284, R286, R322), and what it waits for. -/
structure ReqX where
  tRef : Nat
  firstDue : Bool
  zeroCount : Nat
  restLimit : Nat
  cons : W32
  /-- PROD of the ring's device line (R280). -/
  prod : W32
  held : Option Nat
  chain : W64
  /-- Page-table entries, length and count increments that the next commit point makes visible (R113, R138). -/
  ptDue : List (Nat × W64)
  lenDue : Option Nat
  refDue : List (Nat × Nat)
  seed : Option Seed
  /-- The parent's run that a fork holds until its first turn commits (R136): pool and number. -/
  forkHold : Option (Nat × Nat)
  /-- 1 CANCEL, 2 SEAT_RESET: waiting for its point of effect (R264). -/
  cancelDue : Nat
  pauseDue : Option PauseAsk
  faultDue : Nat
  tail : Tail
  /-- The targets of the pause in effect. -/
  ask : Option PauseAsk
  parks : List RunCopy
  parked : List RunCopy
  /-- Parked runs that a RESUME has not yet given a pool run, and copies in progress (R252). -/
  returns : List RunCopy
  /-- The end entry that waits for a free ring entry (R279). -/
  endWait : Option (BitVec 128)
  /-- Releases of park space on other chips that no acknowledgement has completed (R489). -/
  releases : List Nat
  /-- Ring writes of the last point at which the ring was written: key of the first byte, the bytes before. -/
  ringUndo : List (Nat × List Byte)
  /-- An expiry found at a close, for the turn's commit point: DETAIL, 0 none (R276). -/
  expireDue : Nat
  /-- The tail of a pause has been written: column LEN ÷ TPP holds a KIND 2 run (R125, R126). -/
  tailRun : Bool
  /-- The request is ended by R256 and counted under TIER_FAULT. -/
  tierHit : Bool
  /-- Runs that the request held at its end: pool and number (R279). -/
  ends : List (Nat × Nat)
  /-- The status with which a read of the prompt area for the slot's next ADMIT record has failed, 0 none (R256, R268). -/
  promptLost : Nat
  /-- The next read of CONS has been given up (R256, R284). -/
  consLost : Bool
  /-- Reads of the next close that have been given up (R153, R256, R308, R317). -/
  lostReads : List BlockRead
  deriving DecidableEq, Repr

def ReqX.reset : ReqX :=
  ⟨0, false, 0, 0, 0#32, 0#32, none, 0#64, [], none, [], none, none, 0, none, 0, .none, none, [], [], [], none, [], [], 0, false, false, [], 0, false, []⟩

/-- One entry of a composed turn (R38, R44, R121, R306, R316 to R319). -/
structure TEnt where
  /-- The length-table entry of R44. -/
  len : BitVec 128
  /-- The sampling block as the close read it (R315). -/
  samp : BitVec 512
  /-- Draft nodes 1, 2, ...: token and parent (R316). -/
  draft : List (Nat × Nat)
  /-- Query tokens, row by row. -/
  toks : List Nat
  /-- Riser sets of the entry: column and first slot (R121). -/
  sets : List (Nat × Nat)
  /-- Reserved runs: column, pool, number (R121). -/
  runs : List (Nat × Nat × Nat)
  /-- Draws of the sampled rows in row order: none until drawn; the inner none is an empty set (R313). -/
  draws : List (Option (Option Nat))
  /-- DETAIL of a FAULT that awaits the commit point; 0 none (R54, R97, R315). -/
  fault : Nat
  /-- The entry's request is seeded in this turn (R126). -/
  seeded : Bool
  /-- The structured mask's header as the close read it (R153), and its address. -/
  smask : BitVec 512
  maskAt : Nat
  /-- On a slice member, the leader's riser sets of the entry: column and first slot (R360). -/
  far : List (Nat × Nat)
  deriving DecidableEq, Repr

/-- A copy of one riser set lane by lane (R124 flush, R125 tail, R126 seed). `lane` is the next lane to complete. -/
structure Copy where
  slot : Nat
  col : Nat
  src : SeedSrc
  dst : SeedSrc
  count : Nat
  /-- Lanes whose copy has completed. -/
  doneLanes : List Nat
  /-- Lanes whose copy has been issued, and is still to be performed in a deferral buffer or on another chip (R124). -/
  heldLanes : List Nat
  /-- The source set is freed when the copy ends. -/
  freeSet : Bool
  /-- Status of the first lane that failed on another chip (R256). -/
  failed : Nat
  deriving DecidableEq, Repr

/-- An installed variant (R140). `vlen` 0: not installed. -/
structure Var where
  vlen : Nat
  vpt : Nat
  deriving DecidableEq, Repr

/-- A pool's free list (R117): runs given back, head first; the first run never taken; runs above it that a variant
holds (R140). -/
structure FreeList where
  back : List Nat
  fresh : Nat
  skip : List Nat
  deriving DecidableEq, Repr

/-- One binding. -/
structure Bind where
  loaded : Bool
  seat : Nat
  /-- The turn block (R32). -/
  blk : BitVec 192
  /-- The bind record (R400). -/
  brec : BitVec 8192
  /-- Counters by their place in TALLY's binding section (R405). -/
  ctr : Tab W64
  variants : Tab Var
  moulds : Tab (BitVec 1152)
  /-- The moulds that govern the turn composed last (R206). -/
  turnMoulds : Tab (BitVec 1152)
  free : Tab FreeList
  /-- Run records: number idx of pool p under 2^24 p + idx (R115). -/
  runs : Tab (BitVec 128)
  /-- First tiles of the four logit areas (R309). -/
  logit : List Nat
  /-- First tiles of the four lead-in areas (R43, R402). -/
  leadArea : List Nat
  /-- Program slots of images 0 to NIMG (R101). -/
  images : List Nat
  turn : List TEnt
  /-- PROVISIONAL_COMPOSE's path: 0 none, 1 matrix, 2 pip (R39, R43). -/
  prov : Nat
  /-- A lead-in stream for this binding's next turn has been started (R43). -/
  leadin : Bool
  flushes : List Copy
  seeds : List Copy
  tails : List Copy
  /-- Steps 1 to 3 of the commit section are done and the slice's barrier is awaited (R51). -/
  waitBarrier : Bool
  /-- Release of the last turn is outstanding (R52). -/
  relDue : Bool
  /-- The turn's weight tiles all read (R43). -/
  weightsRead : Bool
  /-- Gather or commit flags the leader's next scatter carries: HOLD 1, RESET 2 (R357, R373). -/
  marks : Nat
  /-- The composed turn has a decoding entry of negative slack (R36). -/
  neg : Bool
  /-- Runs whose count has fallen to 0 and that the Release phase frees: pool, number (R139). -/
  drops : List (Nat × Nat)
  /-- Riser WRITEs that epilogues of this turn have ended (R166, R213): first lane, lanes, values or keys, rows. -/
  wrote : List (Nat × Nat × Bool × Nat)
  /-- The fabric time up to which the stall counters have counted (R255), and that at which a fetch of the turn's Gather is
  given up (R256, R257). -/
  stallTo : Nat
  fetchDue : Nat
  /-- Run records that hold an uncorrectable word (R471), and whether the banker has read them since. -/
  badRuns : List (Nat × Bool)
  deriving DecidableEq, Repr

def Bind.reset : Bind :=
  ⟨false, 0, 0#192, 0#8192, [], [], [], [], [], [], [], [], [], [], 0, false, [], [], [], false, false, false, 0, false, [],
   [], 0, 0, []⟩

/-- A run that this device holds parked for another device or for itself (R247, R250). -/
structure ParkRun where
  id : Nat
  owner : Nat
  seat : Nat
  slot : Nat
  col : Nat
  tile : Nat
  tiles : Nat
  stamp : Nat
  deriving DecidableEq, Repr

/-- What an object's operation holds beside its record (R235 to R243). -/
structure ObjX where
  op : Nat
  notify : Bool
  vector : Nat
  /-- The new range of a MOVE. -/
  target : Nat
  /-- Tiles drawn from the shared pools of T1 and T2 (R246). -/
  pool1 : Nat
  pool2 : Nat
  pass : Nat
  marks : List Nat
  failed : Nat
  /-- Old ranges of a WEIGHT object switched in use, address and tiles, kept until the following commit point (R240). -/
  oldRanges : List (Nat × Nat)
  switchWait : Bool
  /-- Writes that wait at the old range (R241, R243): key of the first byte, bytes. -/
  waiting : List (Nat × List Byte)
  park : List ParkRun
  /-- Tiles that the pass or the write-back in progress has still to copy, in order: first tile and count (R241 to R244). -/
  todo : List (Nat × Nat)
  /-- A MOVE copies the backing copy (R235, R473). -/
  fromBack : Bool
  /-- The fabric time at which the tile in flight is given up (R256, R257). -/
  due : Nat
  /-- The operation's place in the order in which the move queues accepted theirs (R244). -/
  order : Nat
  deriving DecidableEq, Repr

def ObjX.reset : ObjX := ⟨0, false, 0, 0, 0, 0, 0, [], 0, [], false, [], [], [], false, 0, 0⟩

/-- The execution slot (R35, R36). -/
structure ExecSlot where
  holder : Option Nat
  /-- An abandoned turn's engines still drain (R54). -/
  draining : Option Nat
  ptrHigh : Nat
  ptrLow : Nat
  /-- The binding to which the slot goes, decided as it fell free or as the first binding became COMPOSED (R36). -/
  next : Option Nat
  deriving DecidableEq, Repr

/-- One entry of the error log (R486). -/
abbrev ErrEnt := BitVec 256

/-- A response that follows the device's own writes (R407): its mailbox, WAS_HELD, BTURN, APPLIED and status, and the key of the
4 KiB that it awaits. -/
structure LateRsp where
  mbox : Nat
  held : Bool
  bturn : Nat
  applied : Nat
  status : Nat
  key : Nat
  deriving DecidableEq, Repr

/-- The banker's own registers. -/
structure Banker where
  ptr : Nat
  /-- Held commands' mailboxes (R394). -/
  held : List Nat
  /-- Mailboxes that have been granted and not yet answered, in grant order (R394). -/
  granted : List Nat
  /-- Mailboxes whose long command is in preparation or waits for a core, in grant order (R393). -/
  prep : List Nat
  /-- Applied commands whose responses await what they write (R407). -/
  late : List LateRsp
  commands : W64
  /-- APPLIED of the last command (R393). -/
  lastApplied : Nat
  ageClock : W64
  tierCfg : W64
  riserSlots : Nat
  /-- Riser sets in use: first slot and length. -/
  riserSets : List (Nat × Nat)
  events : W64
  ctr : Tab W64
  collTimeout : W64
  errLog : List ErrEnt
  /-- The PROBE challenge that awaits UNLOCK, and the authorisation (R466). -/
  challenge : Option (BitVec 256)
  debug : Bool
  /-- Challenges drawn since power-on. -/
  drawn : Nat
  /-- Power-ons: the number of the prefix secret (R129). -/
  epoch : Nat
  nextParkId : Nat
  /-- Operations that the move queues have accepted (R244). -/
  nextMove : Nat
  deriving DecidableEq, Repr

/-- What an access that waits for a memory is for, and so how it completes (R61, R254). -/
inductive ExtSrc where
  /-- EXTERNAL_ACCESS: it completes at the ingot's interface. -/
  | interface
  /-- An access of the Avkin link. -/
  | avkin
  /-- A request that a torus packet carries (R330 to R333). -/
  | packet (p : Packet)
  /-- A pip's store to its page (R92). -/
  | store
  /-- The write-back of one corrected word (R73, R469). -/
  | correct
  /-- A read of the patrol scrub of holding memory (R475). -/
  | scrub
  /-- The grants of a copy whose data has moved in its command's step (R61, R254; log entry 67). -/
  | mover
  /-- A tile mover's write that a full deferral buffer holds at the head of queue 1 (R68). -/
  | blocked
  deriving DecidableEq, Repr

/-- An access that waits for a memory. `left`: the 64-byte grants still to come before it is performed (R59). -/
structure ExtEnt where
  req : ExtReq
  src : ExtSrc
  left : Nat
  deriving DecidableEq, Repr

/-- A seat admission stage (R416): the higher class's pointer, its grants in a row to that seat, the lower class's
pointer, what waits, oldest first, and the cycle from which it admits again. -/
structure Stage (α : Type) where
  ptrHigh : Nat
  run : Nat
  ptrLow : Nat
  waiting : List α
  free : Nat
  deriving DecidableEq, Repr

def Stage.reset {α : Type} : Stage α := ⟨0, 0, 0, [], 0⟩

/-- A request at a holding-memory port: its class, its requester's number, its first byte's key (R254). -/
structure HmReq where
  cls : Nat
  num : Nat
  key : Nat
  ent : ExtEnt
  deriving DecidableEq, Repr

/-- A base die's holding-memory port (R254): the requests presented, oldest first, each class's pointer, the late grants
(hc count and class), and the hc count from which it grants again. -/
structure HmPort where
  waits : List HmReq
  ptrs : Tab Nat
  past : List (Nat × Nat)
  freeAt : Nat
  deriving DecidableEq, Repr

def HmPort.reset : HmPort := ⟨[], [], [], 0⟩

/-- One bank group of an ingot (R59 to R63, R474). -/
structure BankGroup where
  /-- External queues 0 to 4, oldest access first (R61). -/
  queues : Tab (List ExtEnt)
  ptr : Nat
  /-- The pc count from which the resource grants again, and the one at which its last refresh ends (R60, R64). -/
  freeAt : Nat
  refreshTo : Nat
  /-- External pc of late: the first pc of a grant and its length (R62). -/
  ext : List (Nat × Nat)
  /-- The next row pair to refresh and the patrol-scrub cursor, bytes within the bank group (R60, R474). -/
  refreshRow : Nat
  scrub : Nat
  /-- Pip grants of the governor's interval (R75): the interval's number and the count. -/
  duty : Nat × Nat
  deriving DecidableEq, Repr

def BankGroup.reset : BankGroup := ⟨[], 0, 0, 0, [], 0, 0, (0, 0)⟩

/-- One lock on a page (R65, R70): its issuer, cluster, layer, and the pc count of the acceptance. -/
structure Lock where
  chip : Nat
  cluster : Nat
  since : Nat
  deriving DecidableEq, Repr

/-- One write in the deferral buffer (R67). `ready`: its page's last lock is released (R69). -/
structure Deferred where
  page : Nat
  off : Nat
  bytes : List Byte
  ready : Bool
  deriving DecidableEq, Repr

/-- A query-buffer entry (R157): the remote binding (ISSUER, QID) if any, its words, a count of its writes, and the
accepted descriptors yet to start from it (R158). -/
structure QEnt where
  bound : Option (Nat × Nat)
  words : List W32
  version : Nat
  waiting : Nat
  /-- The pc count at which the remote binding was made (R70, R157). -/
  since : Nat
  deriving DecidableEq, Repr

def QEnt.reset : QEnt := ⟨none, [], 0, 0, 0⟩

/-- A record in a merge slot (R159, R160): header and payload, and the descriptor's order in its group. -/
structure Rec where
  hdr : BitVec 256
  payload : List W32
  deriving DecidableEq, Repr

/-- One descriptor of a merge group: PAGE_SEQ, the heads whose records are folded, its records, its failure status, and
whether its pip has ended it. -/
structure GDesc where
  seq : Nat
  qrow : Nat
  head0 : Nat
  nq : Nat
  slot : Nat
  folded : List Nat
  recs : List Rec
  status : Nat
  ended : Bool
  deriving DecidableEq, Repr

/-- A merge group (R160): its issuer, its descriptors in acceptance order, the CLOSE's COUNT. -/
structure MGroup where
  chip : Nat
  cluster : Nat
  tag : Nat
  descs : List GDesc
  close : Option Nat
  /-- Rows sent so far, in the order of R162. -/
  sent : Nat
  deriving DecidableEq, Repr

/-- A packet that waits in the crucible's intake (R156 to R159): the torus packet's header where it came over the fabric,
the dispatch header, descriptor or nothing, mask, words. -/
structure Intake where
  via : Option (BitVec 256)
  hdr : BitVec 128
  desc : BitVec 256
  mask : Option (BitVec 128)
  words : List W32
  deriving DecidableEq, Repr

/-- A descriptor accepted for a pip (R95): its bits, its mask words, its query-buffer entry, whether it is run once more
after E_UNCORR (R472). -/
structure PDesc where
  desc : BitVec 256
  mask : Option (BitVec 128)
  qent : Nat
  again : Bool
  deriving DecidableEq, Repr

/-- A row stream (R90): page offset, beats, stride in beats, beats already requested. -/
structure Stream where
  off : Nat
  count : Nat
  stride : Nat
  next : Nat
  deriving DecidableEq, Repr

/-- One pip (R80, R81, R90, R95). A DMEM byte `none` holds no defined value: it reads as a free byte. -/
structure Pip where
  queue : List PDesc
  running : Bool
  cur : PDesc
  g : Tab W32
  v : Tab W32
  pc : Nat
  base : Nat
  len : Nat
  dmem : Tab (Option Byte)
  freeBase : Nat
  /-- Beats in stream order; `none` is an uncorrectable beat. -/
  fifo : List (List Byte)
  streams : List Stream
  /-- REP: first word, length, passes left. -/
  rep : Option (Nat × Nat × Nat)
  emitted : BitVec 16
  budget : Nat
  /-- QID, ISSUER and version of the last input area written (R95). -/
  last : Option (Nat × Nat × Nat)
  /-- The pc count at which the record emitted last has left (R89, R99). -/
  leaveTo : Nat
  deriving DecidableEq, Repr

def Pip.reset : Pip :=
  ⟨[], false, ⟨0#256, none, 0, false⟩, [], [], 0, 0, 0, [], 0, [], [], none, 0#16, 0, none, 0⟩

/-- The pips' instruction memory is one for all (R100, R101): a slot's base, length, digest and WRITES, and the bindings that use it;
without one it is free, and keeps its base and length for the accepted descriptors that still name it. -/
structure PipSlot where
  base : Nat
  len : Nat
  digest : BitVec 256
  writes : Bool
  version : Nat
  uses : List Nat
  deriving DecidableEq, Repr

/-- One ingot with its crucible. -/
structure Ingot where
  gov : W64
  limit : W64
  duty : Nat
  /-- Readings of the interval so far: die and degrees (R74, R77). -/
  readings : List (Nat × Nat)
  ctr : Tab W64
  bgs : Tab BankGroup
  /-- Locks by page index (R65). -/
  locks : Tab (List Lock)
  defer : List Deferred
  qbuf : Tab QEnt
  groups : List MGroup
  slotsUsed : Nat
  intake : List Intake
  /-- The intake's pointer in each of its two classes (R24, R156). -/
  intakePtr : Tab Nat
  /-- Records sent by pips and not yet at the merge tree, oldest first: pip, ISSUER, CLUSTER, record; the merge tree's pointer over
  the pips (R24, R160). -/
  recs : List (Nat × Nat × Nat × Rec)
  mergePtr : Nat
  lanes : Tab W64
  /-- Tries of a channel's burst so far; a channel's retraining in progress: its lane and attempt. -/
  tries : Tab Nat
  retrain : Tab (Nat × Nat)
  /-- Replays of a channel since the last lane test (R479). -/
  replays : Tab Nat
  /-- Seat admission stages of queues 2 and 3, whose accesses wait with their bank groups (R416). -/
  stages : Tab (Stage (Nat × ExtEnt))
  deriving DecidableEq, Repr

/-- A partial of one row and head at its cluster (R165, R167). `place`: 0 and 1 the halves of the merge inbox, 2 its fold
area (R164), 3 a partial of the cluster path. -/
structure Partial where
  layer : Nat
  entry : Nat
  group : Nat
  row : Nat
  head : Nat
  first : Nat
  empty : Bool
  m : W32
  l : W32
  o : List W32
  place : Nat
  deriving DecidableEq, Repr

/-- A group of descriptors that a walking cluster has closed and whose triples it awaits (R164, R168, R170): the half
that they fill, the token rows and heads still to come, when its CLOSE was sent. -/
structure Await where
  layer : Nat
  entry : Nat
  group : Nat
  chip : Nat
  ingot : Nat
  tag : Nat
  half : Nat
  rows : List (Nat × Nat)
  closed : Nat
  /-- tier_timeout in ns as it stood then (R257). -/
  limit : Nat
  deriving DecidableEq, Repr

/-- A pair's walk (R148, R164): its next batch. -/
structure Walk where
  layer : Nat
  entry : Nat
  group : Nat
  next : Nat
  deriving DecidableEq, Repr

/-- One cluster's attention state (R164 to R168). -/
structure Cluster where
  inbox : List Partial
  awaits : List Await
  walks : List Walk
  /-- Crucibles used and not yet sent their RELEASE: layer, chip, ingot (R168). -/
  used : List (Nat × Nat × Nat)
  /-- Crucibles that a layer's weight products have used and that await their RELEASE: layer, ingot (R65). -/
  weights : List (Nat × Nat)
  /-- Numbers of the layer program's weight-product records issued in this turn (R401). -/
  products : List Nat
  /-- The layer walked last and the half that its next batch uses (R164). -/
  layer : Nat
  half : Nat
  /-- The layer of the weight-product record whose descriptors the control core issued last (R32, R401). -/
  wlayer : Nat
  /-- Head outputs produced: layer, row, head (R167, R168). -/
  heads : List (Nat × Nat × Nat)
  /-- Lane pages fetched on the cluster path: layer, entry, group, column (R172). -/
  fetched : List (Nat × Nat × Nat × Nat)
  /-- The half for which the control core waits (R164). -/
  wants : Option Nat
  /-- The copy for which the control core waits: entry, lane, and whether for a riser partial (R124, R126). -/
  copyWait : Option (Nat × Nat × Bool)
  /-- The entry that the last QUERY of each QID served (R155, R169). -/
  served : Tab Nat
  deriving DecidableEq, Repr

/-- A matrix instruction in progress (R184, R185): its words, BUSED at its first step, block steps done, and whether
its finishing of R195 has been done. -/
structure MxRun where
  w : BitVec 256
  binding : Nat
  b0 : W32
  pos : Nat
  finished : Bool
  /-- The layer of its layer-program record, which LAYER takes at the first block step (R32, R401). -/
  layer : Option Nat
  deriving DecidableEq, Repr

/-- One block in the spill latch (R193): slot, sprue entry, elements (hi then lo in wide mode). -/
structure Latch where
  entry : Nat
  wide : Bool
  data : List W32
  deriving DecidableEq, Repr

/-- A split reduction that a core's vector engine has been given (R196), and its next partial. -/
structure Split where
  base : Nat
  arrival : Nat
  result : Nat
  parts : Nat
  next : Nat
  deriving DecidableEq, Repr

/-- One core. -/
structure Core where
  bfill : W32
  bused : W32
  status : Tab W32
  latch : List Latch
  run : Option MxRun
  /-- Tiles of ring fills in flight, oldest first, each with the fabric request it awaits: destination, class, SEQ (R181). -/
  fills : List (Option (Nat × Nat × Nat))
  split : Option Split
  ctr : Tab W64
  /-- Tiles that ring fills have read in this turn (R43). -/
  moved : Nat
  /-- A matrix instruction that waits for the hazards of R190 to clear, and its binding (R200). -/
  haz : Option (BitVec 256 × Nat)
  /-- Tile moves from other chips that have not ended (R190): destination, bytes, fabric requests. -/
  moves : List (Nat × Nat × List (Nat × Nat × Nat))
  /-- Numbers of the layer-program records of the core whose work has begun in this turn (R401). -/
  done : List Nat
  /-- A weight tile's request to another chip has ended with E_NOROUTE, E_LINK or E_TIMEOUT (R256). -/
  lost : Bool
  deriving DecidableEq, Repr

def Core.reset : Core := ⟨0#32, 0#32, [], [], none, [], none, [], 0, none, [], [], false⟩

/-- One torus port, or the Avkin link as port 6 (R324, R348, R476 to R484). -/
structure Port where
  state : BitVec 128
  health : W64
  trained : Bool
  /-- The last LINKID received, if any (R343). -/
  seen : Option (BitVec 256)
  ctr : Tab W64
  /-- The sequence number expected next, tries of the packet in error, and replays since the last lane test. -/
  expect : Nat
  tries : Nat
  replays : Nat
  lastReplays : Nat
  /-- When the pass's lane began to wait, in ns (R482); failed attempts of that lane (R483). -/
  laneSince : Nat
  laneFails : Nat
  /-- When full training was last attempted (R477). -/
  attempt : Nat
  /-- Packets queued for the port's output with their router input port, oldest first (R340, R342). -/
  queue : List (Nat × Packet)
  /-- The fc count up to which a packet holds the output, each class's pointer, and for each class that presents a
  packet the grants in a row to classes above it (R25, R342). -/
  busy : Nat
  ptrs : Tab Nat
  above : Tab Nat
  deriving DecidableEq, Repr

def Port.reset : Port := ⟨0#128, 0#64, false, none, [], 0, 0, 0, 0, 0, 0, 0, [], 0, [], []⟩

/-- What a request of this device to another chip serves (R169, R237, R251, R252, R256). -/
inductive Job where
  /-- A control core's dispatch packet: an entry of a binding's turn. -/
  | entry (binding entry : Nat)
  /-- A tile of an object's operation. -/
  | tile (obj tile : Nat)
  /-- A run that a request parks, and one that comes back. -/
  | park (slot col : Nat)
  | back (slot col : Nat)
  /-- A lane of a flush, a seed or a pause's tail. -/
  | lane (binding slot col lane : Nat)
  /-- What a command of a mailbox writes before it answers (R407). -/
  | reply (mbox : Nat)
  deriving DecidableEq, Repr

/-- One request of a unit of this device that the fabric has not completed (R330, R334, R335). -/
structure FabReq where
  unit : Nat
  dest : Nat
  cls : Nat
  seq : Nat
  posted : Bool
  /-- BULK_GET: the local key written next and the bytes still to come (R333). -/
  dst : Nat
  left : Nat
  /-- Packets of the operation, the last of which has this SEQ (R333). -/
  span : Nat
  status : Nat
  /-- Fabric time of its issue, and tier_timeout in ns as it stood then (R256, R257). -/
  issued : Nat
  limit : Nat
  /-- What the request serves, if its end is to be noted there. -/
  serves : Option Job
  deriving DecidableEq, Repr

/-- A fence in progress (R335): its unit and the worst status so far. -/
structure FenceX where
  unit : Nat
  status : Nat
  deriving DecidableEq, Repr

/-- A bulk put arriving (R333): source, unit, class, next address, bytes still to come, the first failure. -/
structure BulkIn where
  src : Nat
  unit : Nat
  cls : Nat
  left : Nat
  status : Nat
  deriving DecidableEq, Repr

/-- One collective step in progress at a base die's engine (R349 to R351); `failed`: a request of it completed with
another status than success. -/
structure CollRun where
  step : BitVec 512
  since : Nat
  failed : Bool
  deriving DecidableEq, Repr

/-- The barrier of one slice binding on this device (R370 to R373). -/
structure Barrier where
  arrived : Bool
  members : Nat
  flags : Nat
  /-- Ports whose child's GATHER has come. -/
  got : List Nat
  sentAt : Nat
  arrivedAt : Nat
  sent : Bool
  deriving DecidableEq, Repr

def Barrier.reset : Barrier := ⟨false, 0, 0, [], 0, 0, false⟩

/-- A request that its unit may not issue yet (R330, R335): the request, its packet, whether it is to be awaited. -/
structure HeldReq where
  req : FabReq
  pkt : Packet
  tracked : Bool
  deriving DecidableEq, Repr

/-- The fabric, the slice and the collectives. -/
structure Fabric where
  fabId : W64
  routes : BitVec 192
  ports : Tab Port
  /-- The records of the PLAN in force and its YLEN (R345). -/
  plan : List (BitVec 128)
  ctr : Tab W64
  outstanding : List FabReq
  /-- The next SEQ of a unit to a destination in a class (R327), under ((unit x 4,096) + destination) x 4 + class. -/
  seqs : Tab Nat
  fences : List FenceX
  bulkIn : List BulkIn
  coll : Tab (Option CollRun)
  /-- Numbers of the layer program's collective steps that have begun in this turn (R401). -/
  collDone : List Nat
  slice : BitVec 128
  sliceCtr : Tab W64
  /-- The applied FORM body (R358), when it was applied and last sent; formation records received: port, digest,
  members. -/
  formBody : BitVec 256
  formAt : Nat
  formSent : Nat
  formGot : List (Nat × Nat × Nat)
  barriers : Tab Barrier
  /-- Ports that have gathered a reset's completion (R373). -/
  resetGot : List Nat
  resetMembers : Nat
  /-- Has the reset's completion been gathered or scattered from here (R373)? -/
  resetSent : Bool
  /-- Park-space releases sent and not acknowledged: id, request slot, time sent (R489). -/
  releases : List (Nat × Nat × Nat)
  /-- Arrival words of cluster memories: key, and fabric time by which every bit is to be set, tier_timeout after the first (R196,
  R197, R257). -/
  arrivals : List (Nat × Nat)
  /-- Tiles of T0 that tile moves of this turn have written and no split reduction has taken as a partial yet: key, fabric time by
  which the others are to follow (R196, R197). -/
  placed : List (Nat × Nat)
  /-- Requests that wait for a fence or for the bound of R330, oldest first. -/
  held : List HeldReq
  /-- The base dies' seat admission stages of bulk-class packets (R416). -/
  stages : Tab (Stage Packet)
  deriving DecidableEq, Repr

/-- A seal sent and not acknowledged: its binding and turn, when it was sent, the writes it holds back (R378). -/
structure SealWait where
  binding : Nat
  turn : Nat
  sent : Nat
  writes : List (Nat × List Byte)
  /-- Vectors that the turn's ring writes raise, once they are performed (R282). -/
  raises : List Nat
  deriving DecidableEq, Repr

/-- One seat's mirror pair (R375 to R382). -/
structure Mirror where
  state : BitVec 128
  since : Nat
  ctr : Tab W64
  /-- Journal items received and not yet sealed (R377, R378). -/
  journal : List JournalItem
  /-- A commit of a binding of the seat is under way: what the host would see is held back (R378). -/
  hold : Bool
  /-- Page-table and ring writes so held: key of the first byte, bytes. -/
  shadows : List (Nat × List Byte)
  /-- Seals that await their acknowledgement. -/
  sealing : List SealWait
  /-- The partner's shadows of each binding's last sealed turn (R377, R380). -/
  sealed : Tab (List (Nat × List Byte))
  /-- Vectors that the commit under way raises. -/
  raises : List Nat
  /-- The two sides have compared the seat's configuration and agree (R376). -/
  paired : Bool
  deriving DecidableEq, Repr

def Mirror.reset : Mirror := ⟨0#128, 0, [], [], false, [], [], [], [], false⟩

/-- The state of the block. -/
structure State where
  /-- Commands waiting, first in, first out. -/
  pending : List Instr
  fuses : Fuses
  pins : Pins
  clk : Clock
  boot : Boot
  /-- The bytes of every memory (Machine/Ops.lean, `Memory`). -/
  mem : Tab Byte
  wordErr : Tab WordErr
  dirty : Tab Bool
  seats : Tab Seat
  mboxes : Tab Mbox
  bank : Banker
  reqs : Tab (BitVec 1024)
  reqx : Tab ReqX
  objs : Tab (BitVec 512)
  objx : Tab ObjX
  stakes : Tab (BitVec 512)
  /-- Histogram blocks: word w of seat s's under 128 s + w, of stake t's under 2^20 + 128 t + w (R302). -/
  hist : Tab W64
  binds : Tab Bind
  slot : ExecSlot
  /-- Pip instruction memory, one for all pips, and its 16 slots (R100, R101). -/
  imem : Tab W32
  pipSlots : Tab PipSlot
  ingots : Tab Ingot
  /-- The holding-memory ports of base dies 0 to 3 (R254). -/
  hm : Tab HmPort
  pips : Tab Pip
  cores : Tab Core
  clusters : Tab Cluster
  fab : Fabric
  mirrors : Tab Mirror
  /-- What the device has put on its interfaces, newest first. -/
  out : List Out
  /-- The model's own: free values taken so far (log entry 7). -/
  free : Nat
  deriving DecidableEq, Repr

/-- A seat's register block at reset, seats 1 to 63 (R411 to R414): weights 1, all else 0. -/
def Seat.reset : Seat := ⟨0x1100000#64, 0#64, [], [], [], [], 0#64⟩

/-- Window 0 of each tier of seat 0 at reset: VALID, WRITE, the tier's whole range (R415). -/
def seat0Windows : Tab (BitVec 128) :=
  [(0, setAll 0#128 [(LWin.VALID, 1), (LWin.WRITE, 1), (LWin.BASE, 0xC200000000 / 16384), (LWin.TILES, 131072)]),
   (8, setAll 0#128 [(LWin.VALID, 1), (LWin.WRITE, 1), (LWin.BASE, 0xC000000000 / 16384), (LWin.TILES, 524288)]),
   (16, setAll 0#128 [(LWin.VALID, 1), (LWin.WRITE, 1), (LWin.BASE, 0), (LWin.TILES, 50331648)]),
   (24, setAll 0#128 [(LWin.VALID, 1), (LWin.WRITE, 1), (LWin.BASE, 0), (LWin.TILES, 2 ^ 38)]),
   (32, setAll 0#128 [(LWin.VALID, 1), (LWin.WRITE, 1), (LWin.BASE, 2 ^ 38), (LWin.TILES, 2 ^ 30)])]

/-- Seat 0 at reset (R411, R413, R415). -/
def Seat.reset0 : Seat :=
  ⟨setAll 0x1100000#64 [(LSeatCfg.ENABLED, 1), (LSeatCfg.SHARE, 256)], 0#64,
   [(0, 16384), (1, 262144), (2, 249856), (3, 50331648), (4, 2 ^ 40 - 1), (5, 1073741824)], [], seat0Windows, [], 0#64⟩

/-- LANE_STATE at reset (R484): SPARE 33, DOWN 1, FAILED 63. -/
def laneReset : W64 := setAll 0#64 [(LLaneSt.SPARE, 33), (LLaneSt.DOWN, 1), (LLaneSt.FAILED, 63)]

/-- An ingot at reset (R75, R78, R79). -/
def Ingot.reset : Ingot :=
  ⟨LGovSt.DUTY.set 0#64 1024, setAll 0#64 [(LGovLim.P_LIMIT, 32), (LGovLim.T_LIMIT, 95)], 1024, [], [], [], [], [], [],
   [], 0, [], [], [], 0, [], [], [], [], []⟩

def Cluster.reset : Cluster := ⟨[], [], [], [], [], [], 0, 0, 0, [], [], none, none, []⟩

/-- The banker at reset (R119, R257). -/
def Banker.reset : Banker :=
  ⟨0, [], [], [], [], 0#64, 0, 0#64, LTierCfg.TIMEOUT.set 0#64 50, 262144, [], 0#64, [], 0#64, [], none, false, 0, 0, 0, 0⟩

/-- The fabric at reset (R336, R348, R381). -/
def Fabric.reset : Fabric :=
  ⟨0#64, 0#192, [], [], [], [], [], [], [], [], [], 0#128, [], 0#256, 0, 0, [], [], [], 0, false, [], [], [], [], []⟩

/-- Identity record r of a part whose fuses hold nothing the manual does not give (R436; log entry 4): KIND and INDEX
by the record's place, WAFER 1. -/
def identRec (r : Nat) : BitVec 128 :=
  if r < 4 then setAll 0#128 [(LIdent.KIND, 0), (LIdent.INDEX, r), (LIdent.WAFER, 1)]
  else if r < 8 then setAll 0#128 [(LIdent.KIND, 1), (LIdent.INDEX, r - 4), (LIdent.WAFER, 1)]
  else if r < 24 then setAll 0#128 [(LIdent.KIND, 2), (LIdent.INDEX, r - 8), (LIdent.WAFER, 1)]
  else setAll 0#128 [(LIdent.KIND, 3), (LIdent.INDEX, r - 24), (LIdent.WAFER, 1)]

/-- The fuses before any is read or burned by a command (log entry 4). -/
def Fuses.reset : Fuses :=
  ⟨(List.range 216).map (fun r => (r, identRec r)), 0#256, 0#63, 0#256, 0#3072, 0#3072, 0#3072⟩

/-- The pins while RST_N is low (R446, R452, R463). -/
def Pins.reset : Pins := ⟨true, false, false, 0#64, 0#64, 0#64, false, [], 1, 0, false, none, 0#8, []⟩

/-- Fabric time and its registers at reset (R364, R368): ENABLE 1, PARENT 7. -/
def Clock.reset : Clock := ⟨0, 0, 0#64, LTimeCfg.ENABLE.set 0#64 1, LTimeSt.PARENT.set 0#64 7, 0, 0, false⟩

/-- BOOT_STATUS at reset: STAGE 1, SOURCE 3 (R429). -/
def Boot.reset : Boot := ⟨setAll 0#64 [(LBootSt.STAGE, 1), (LBootSt.SOURCE, 3)], 0, [], 0#512, 0#4096, 0#256, 0#64, 0, false⟩

/-- The machine with RST_N low (log entry 2). Nothing survives RST_N but the fuses (R448). -/
def State.reset : State where
  pending := []
  fuses := Fuses.reset
  pins := Pins.reset
  clk := Clock.reset
  boot := Boot.reset
  mem := []
  wordErr := []
  dirty := []
  seats := [(0, Seat.reset0)]
  mboxes := []
  bank := Banker.reset
  reqs := []
  reqx := []
  objs := []
  objx := []
  stakes := []
  hist := []
  binds := []
  slot := ⟨none, none, 0, 0, none⟩
  imem := []
  pipSlots := []
  ingots := []
  hm := []
  pips := []
  cores := []
  clusters := []
  fab := Fabric.reset
  mirrors := []
  out := []
  free := 0

end Sys2Proof.Machine
end

