-- ==== Sys2Proof/Machine/Ops.lean ====
section
/-! DEFINITION. The named operations: when a step acts, records by number, addresses, windows, memory. -/

namespace Sys2Proof.Machine

/-! ## Status codes (R408) -/

namespace St
def ok : Nat := 0
def opcode : Nat := 0x1
def range : Nat := 0x2
def addr : Nat := 0x3
def window : Nat := 0x4
def denied : Nat := 0x5
def busy : Nat := 0x6
def state : Nat := 0x7
def noobj : Nat := 0x8
def notactive : Nat := 0x9
def quota : Nat := 0xA
def nospace : Nat := 0xB
def overlap : Nat := 0xC
def reflimit : Nat := 0xD
def faulted : Nat := 0xE
def auth : Nat := 0xF
def timeout : Nat := 0x10
def noroute : Nat := 0x100
def link : Nat := 0x101
def packet : Nat := 0x102
def notinplan : Nat := 0x103
def slice : Nat := 0x104
def mirror : Nat := 0x105
def uncorr : Nat := 0x200
def thermal : Nat := 0x201
def desc : Nat := 0x300
def pipill : Nat := 0x301
def pipmem : Nat := 0x302
def piptime : Nat := 0x303
def pipcount : Nat := 0x304
def pipverify : Nat := 0x305
def pipfull : Nat := 0x306
def signature : Nat := 0x307
def mxinstr : Nat := 0x400
def vxinstr : Nat := 0x401
def mould : Nat := 0x402
def rowsplit : Nat := 0x403
end St

/-- The first failed check's status of a list in order, or success (R408). -/
def firstFail : List (Bool × Nat) → Nat
  | [] => St.ok
  | (bad, st) :: rest => if bad then st else firstFail rest

/-! ## When a step acts -/

/-- What must run for a step to act. -/
inductive Needs where
  /-- The banker's firmware: STAGE READY (R428, R435). -/
  | banker
  /-- An arithmetic unit: READY, and no die thermal trip (R460). -/
  | arith
  /-- An ingot: its interface trained (R60, R428), no die trip for any class but refresh (R460). -/
  | ingot
  /-- Refresh of an ingot, which a die trip does not stop (R460). -/
  | refresh
  /-- A torus or Avkin link: transmitters not idle (R452, R460). -/
  | link
  /-- Out of reset only. -/
  | power
  deriving DecidableEq, Repr

/-- STAGE of BOOT_STATUS (R429). -/
def stage (s : State) : Nat := LBootSt.STAGE.get s.boot.status

def dieTrip (s : State) : Bool := LSbFault.DIE_TRIP.on s.pins.sbFault

/-- Does what `n` needs run? -/
def ready (s : State) (n : Needs) : Bool :=
  !s.pins.rstLow &&
  match n with
  | .banker => stage s == 9
  | .arith => stage s == 9 && !dieTrip s
  | .ingot => (stage s == 8 || stage s == 9) && !dieTrip s
  | .refresh => stage s == 8 || stage s == 9
  | .link => (stage s == 8 || stage s == 9) && !dieTrip s
  | .power => true

/-- A step that the device makes or takes: undefined after a rail loss (R448) or a loss of lock (R454); no effect where
what it needs does not run. -/
def act (n : Needs) (f : State → State) (s : State) : Host.Outcome State Fault Refusal :=
  if s.pins.railLost then .fault .undefinedRailLoss
  else if s.pins.pllUnlock then .fault .clocksUndefined
  else if ready s n then .next (f s) else .next s

/-- A step whose event occurs only under a condition: where it does not hold, nothing changes (R265). -/
def when (c : State → Bool) (f : State → State) (s : State) : State := if c s then f s else s

/-! ## Records by number -/

def State.bind (s : State) (b : Nat) : Bind := Tab.get s.binds Bind.reset b
def State.setBind (s : State) (b : Nat) (x : Bind) : State := { s with binds := Tab.set s.binds Bind.reset b x }
def State.updBind (s : State) (b : Nat) (f : Bind → Bind) : State := s.setBind b (f (s.bind b))
def State.seat (s : State) (n : Nat) : Seat := Tab.get s.seats Seat.reset n
def State.setSeat (s : State) (n : Nat) (x : Seat) : State := { s with seats := Tab.set s.seats Seat.reset n x }
def State.updSeat (s : State) (n : Nat) (f : Seat → Seat) : State := s.setSeat n (f (s.seat n))
def State.mbox (s : State) (n : Nat) : Mbox := Tab.get s.mboxes Mbox.reset n
def State.setMbox (s : State) (n : Nat) (x : Mbox) : State := { s with mboxes := Tab.set s.mboxes Mbox.reset n x }
def State.req (s : State) (n : Nat) : BitVec 1024 := Tab.get s.reqs 0#1024 n
def State.setReq (s : State) (n : Nat) (x : BitVec 1024) : State := { s with reqs := Tab.set s.reqs 0#1024 n x }
def State.updReq (s : State) (n : Nat) (l : List (Fld × Nat)) : State := s.setReq n (setAll (s.req n) l)
def State.rx (s : State) (n : Nat) : ReqX := Tab.get s.reqx ReqX.reset n
def State.setRx (s : State) (n : Nat) (x : ReqX) : State := { s with reqx := Tab.set s.reqx ReqX.reset n x }
def State.updRx (s : State) (n : Nat) (f : ReqX → ReqX) : State := s.setRx n (f (s.rx n))
def State.obj (s : State) (n : Nat) : BitVec 512 := Tab.get s.objs 0#512 n
def State.setObj (s : State) (n : Nat) (x : BitVec 512) : State := { s with objs := Tab.set s.objs 0#512 n x }
def State.updObj (s : State) (n : Nat) (l : List (Fld × Nat)) : State := s.setObj n (setAll (s.obj n) l)
def State.ox (s : State) (n : Nat) : ObjX := Tab.get s.objx ObjX.reset n
def State.setOx (s : State) (n : Nat) (x : ObjX) : State := { s with objx := Tab.set s.objx ObjX.reset n x }
def State.updOx (s : State) (n : Nat) (f : ObjX → ObjX) : State := s.setOx n (f (s.ox n))
def State.stake (s : State) (n : Nat) : BitVec 512 := Tab.get s.stakes 0#512 n
def State.setStake (s : State) (n : Nat) (x : BitVec 512) : State := { s with stakes := Tab.set s.stakes 0#512 n x }
def State.ingot (s : State) (i : Nat) : Ingot := Tab.get s.ingots Ingot.reset i
def State.setIngot (s : State) (i : Nat) (x : Ingot) : State := { s with ingots := Tab.set s.ingots Ingot.reset i x }
def State.updIngot (s : State) (i : Nat) (f : Ingot → Ingot) : State := s.setIngot i (f (s.ingot i))
def State.pip (s : State) (p : Nat) : Pip := Tab.get s.pips Pip.reset p
def State.setPip (s : State) (p : Nat) (x : Pip) : State := { s with pips := Tab.set s.pips Pip.reset p x }
def State.core (s : State) (k : Nat) : Core := Tab.get s.cores Core.reset k
def State.setCore (s : State) (k : Nat) (x : Core) : State := { s with cores := Tab.set s.cores Core.reset k x }
def State.updCore (s : State) (k : Nat) (f : Core → Core) : State := s.setCore k (f (s.core k))
def State.cluster (s : State) (c : Nat) : Cluster := Tab.get s.clusters Cluster.reset c
def State.setCluster (s : State) (c : Nat) (x : Cluster) : State :=
  { s with clusters := Tab.set s.clusters Cluster.reset c x }
def State.port (s : State) (p : Nat) : Port := Tab.get s.fab.ports Port.reset p
def State.setPort (s : State) (p : Nat) (x : Port) : State :=
  { s with fab := { s.fab with ports := Tab.set s.fab.ports Port.reset p x } }
def State.updPort (s : State) (p : Nat) (f : Port → Port) : State := s.setPort p (f (s.port p))
def State.mir (s : State) (n : Nat) : Mirror := Tab.get s.mirrors Mirror.reset n
def State.setMir (s : State) (n : Nat) (x : Mirror) : State := { s with mirrors := Tab.set s.mirrors Mirror.reset n x }
def State.hmPort (s : State) (d : Nat) : HmPort := Tab.get s.hm HmPort.reset d
def State.setHmPort (s : State) (d : Nat) (x : HmPort) : State := { s with hm := Tab.set s.hm HmPort.reset d x }
def State.updHmPort (s : State) (d : Nat) (f : HmPort → HmPort) : State := s.setHmPort d (f (s.hmPort d))
def bankGroup (s : State) (i bg : Nat) : BankGroup := Tab.get (s.ingot i).bgs BankGroup.reset bg
def setBankGroup (s : State) (i bg : Nat) (x : BankGroup) : State :=
  s.updIngot i (fun g => { g with bgs := Tab.set g.bgs BankGroup.reset bg x })
def updBankGroup (s : State) (i bg : Nat) (f : BankGroup → BankGroup) : State :=
  setBankGroup s i bg (f (bankGroup s i bg))
def State.emit (s : State) (o : Out) : State := { s with out := o :: s.out }

/-- Adds to a counter, wrapping (R79). -/
def ctrAdd (t : Tab W64) (k n : Nat) : Tab W64 := Tab.set t 0#64 k (Tab.get t 0#64 k + BitVec.ofNat 64 n)

def State.countBind (s : State) (b k n : Nat) : State := s.updBind b (fun x => { x with ctr := ctrAdd x.ctr k n })
def State.countSeat (s : State) (t k n : Nat) : State := s.updSeat t (fun x => { x with ctr := ctrAdd x.ctr k n })
def State.countIngot (s : State) (i k n : Nat) : State := s.updIngot i (fun x => { x with ctr := ctrAdd x.ctr k n })
def State.countCore (s : State) (c k n : Nat) : State := s.updCore c (fun x => { x with ctr := ctrAdd x.ctr k n })
def State.countPort (s : State) (p k n : Nat) : State := s.updPort p (fun x => { x with ctr := ctrAdd x.ctr k n })
/-- Device counters: R260's by place 0 to 7; base die counters of R485 by device-page offset. -/
def State.countDev (s : State) (k n : Nat) : State := { s with bank := { s.bank with ctr := ctrAdd s.bank.ctr k n } }

/-! ## Fabric time and the pc count -/

/-- Fabric time in ns (R364). -/
def now (s : State) : Nat := s.clk.time.toNat

/-- The pc count of the ingots: root ticks over 8 since their training (R2, R60). -/
def pcNow (s : State) : Nat := (s.clk.ticks - s.boot.pcStart) / 8

/-- The hc count of holding memory: root ticks over 5 (R2). -/
def hcNow (s : State) : Nat := s.clk.ticks / 5

/-- tier_timeout in ns (R257). -/
def tierTimeout (s : State) : Nat := LTierCfg.TIMEOUT.get s.bank.tierCfg * 1000000

/-! ## Chip number and addresses (R16 to R22) -/

/-- This device's chip number; 0 before discovery (R21). -/
def ownChip (s : State) : Nat := if LFabId.VALID.on s.fab.fabId then LFabId.CHIP.get s.fab.fabId else 0

def haveChip (s : State) : Bool := LFabId.VALID.on s.fab.fabId

def ingotSize : Nat := 0xC00000000
def hmBase : Nat := 0xC000000000
def sramBase : Nat := 0xC200000000
def ctlBase : Nat := 0xFF00000000

/-- The tier of a local offset: 0, 1 or 2; 7 control space; 8 reserved (R18, R19). -/
def tierOfOffset (off : Nat) : Nat :=
  if off < hmBase then 2
  else if off < sramBase then 1
  else if off < sramBase + 0x80000000 then
    let r := (off - sramBase) % 0x4000000
    if r < 0x1000000 then (if r % 0x200000 < 0x180000 then 0 else 8)
    else if r < 0x2400000 then 0 else 8
  else if off < ctlBase then 8
  else if off < 2 ^ 40 then 7 else 8

/-- Where an address points. -/
inductive Place where
  | here (off : Nat)
  | chip (chip off : Nat)
  | companion (off : Nat)
  deriving DecidableEq, Repr

def placeOf (s : State) (a : Nat) : Place :=
  if a / 2 ^ 52 % 2 = 1 then .companion (a % 2 ^ 44)
  else if a / 2 ^ 40 % 4096 = ownChip s then .here (a % 2 ^ 40) else .chip (a / 2 ^ 40 % 4096) (a % 2 ^ 40)

/-- Does the address lie in another chip's memory? -/
def isRemote (s : State) (a : Nat) : Bool :=
  match placeOf s a with
  | .chip _ _ => true
  | _ => false

/-- Tier of an address (R14, R232); 7 control space, 8 reserved. -/
def tierOf (s : State) (a : Nat) : Nat :=
  match placeOf s a with
  | .here off => tierOfOffset off
  | .chip _ _ => 3
  | .companion _ => 4

/-- The memory key of an address: this device's offset; the companion window from 2^52; other chips from 2^53. -/
def keyOf (s : State) (a : Nat) : Nat :=
  match placeOf s a with
  | .here off => off
  | .chip c off => 2 ^ 53 + c * 2 ^ 40 + off
  | .companion off => 2 ^ 52 + off

/-- The end of the stretch of memory, free of reserved offsets, that holds a local offset (R18, R19). -/
def liveEnd (off : Nat) : Nat :=
  if off < sramBase then sramBase + 0x180000
  else if off < sramBase + 0x80000000 then
    let r := (off - sramBase) % 0x4000000
    off - r + (if r < 0x1000000 then r / 0x200000 * 0x200000 + 0x180000 else 0x2400000)
  else if off < ctlBase then 0 else 2 ^ 40

/-- R20 and R21 for an access of `len` bytes. -/
def addrStatus (s : State) (a len : Nat) : Nat :=
  if a / 2 ^ 53 ≠ 0 then St.addr
  else if a / 2 ^ 52 % 2 = 1 then
    (if a / 2 ^ 44 % 256 ≠ 0 || decide (a % 2 ^ 44 + len > 2 ^ 44) then St.addr else St.ok)
  else
    match placeOf s a with
    | .here off =>
      if tierOfOffset off ≥ 8 || decide (off + len > liveEnd off) then St.addr else St.ok
    | .chip _ off =>
      if tierOfOffset off ≥ 7 || decide (off + len > liveEnd off) then St.addr
      else if haveChip s then St.ok else St.noroute
    | .companion _ => St.ok

/-- R22: natural alignment up to 8 bytes; 64 for bulk. -/
def misaligned (a len : Nat) : Bool := !([1, 2, 4, 8].contains (min len 8)) || decide (a % (min len 8) ≠ 0)

/-! ## Windows (R23, R414, R415) and device-owned areas (R46, R118, R163, R207, R309) -/

def seatEnabled (s : State) (n : Nat) : Bool := LSeatCfg.ENABLED.on (s.seat n).cfg

/-- The address a window of the tier is matched against: the offset alone for the local tiers. -/
def windowAddr (tier a : Nat) : Nat := if tier < 3 then a % 2 ^ 40 else a % 2 ^ 53

def windowCovers (w : BitVec 128) (write : Bool) (a len : Nat) : Bool :=
  LWin.VALID.on w && (!write || LWin.WRITE.on w) &&
  decide (LWin.BASE.get w * 16384 ≤ a) && decide (a + len ≤ (LWin.BASE.get w + LWin.TILES.get w) * 16384)

/-- Every byte lies in one window of the tier (R415). -/
def inWindows (s : State) (n : Nat) (write : Bool) (a len : Nat) : Bool :=
  seatEnabled s n && decide (a < 2 ^ 53) &&
  (List.range 8).any (fun i =>
    windowCovers (Tab.get (s.seat n).win 0#128 (8 * tierOf s a + i)) write (windowAddr (tierOf s a) a) len)

/-- Do two ranges share a byte? -/
def overlaps (a la b lb : Nat) : Bool := decide (a < b + lb) && decide (b < a + la) && decide (0 < la) && decide (0 < lb)

/-- Bytes of each base die's holding memory before its remainder area (R118). -/
def hmFixed (s : State) : Nat := s.bank.riserSlots / 4 * 16384 + 0x3000000

def bdBase (n : Nat) : Nat := hmBase + n * 0x80000000

/-- Tiles of one logit area (R309). -/
def logitTiles (r : BitVec 8192) : Nat := cdiv (LBindRec.STEP_WIDTH.get r) 4 * cdiv (LBindRec.VOCAB.get r) 8192

def loadedBinds (s : State) : List Nat := (List.range 16).filter (fun b => (s.bind b).loaded)

/-- Does the range touch an area that the device owns? -/
def ownedArea (s : State) (off len : Nat) : Bool :=
  (List.range 32).any (fun c => overlaps off len (sramBase + c * 0x4000000 + 0x1F7E800) 0x81800) ||
  (List.range 4).any (fun n => overlaps off len (bdBase n) (hmFixed s)) ||
  (loadedBinds s).any (fun b => (s.bind b).logit.any (fun t =>
    overlaps off len (t * 16384) (logitTiles (s.bind b).brec * 16384)))

/-- A range within the seat's windows, for writing where the device writes it, and outside the areas it owns (R23, R46). -/
def inSeatFor (write : Bool) (s : State) (seat a len : Nat) : Bool :=
  inWindows s seat write a len &&
  (match placeOf s a with
    | .here off => !ownedArea s off len
    | _ => true)

/-- A range that may be read for the seat. -/
def inSeat (s : State) (seat a len : Nat) : Bool := inSeatFor false s seat a len

/-- R20 to R23 for one access of a seat: the status with which it completes, or success. The windows are checked
before the access is issued, so before a chip number without a route. -/
def accessStatus (s : State) (n : Nat) (write : Bool) (a len : Nat) : Nat :=
  firstFail [
    (misaligned a len, St.addr),
    (addrStatus s a len == St.addr, St.addr),
    (tierOf s a == 7, St.addr),
    (!inSeatFor write s n a len, St.window),
    (true, addrStatus s a len)]

/-- The same for a move, aligned to 64 bytes (R22). -/
def moveStatus (s : State) (n : Nat) (write : Bool) (a len : Nat) : Nat :=
  if a % 64 ≠ 0 || len % 64 ≠ 0 then St.addr else accessStatus s n write a len

/-- Reads of a structure by 8-byte words (R20 to R23): windows, alignment, route. -/
def wordsStatus (s : State) (n a len : Nat) : Nat :=
  firstFail [(!inSeat s n a len, St.window), (a % 8 != 0, St.addr), (true, addrStatus s a len)]

/-- Counts a window refusal (R427). -/
def State.noteWindow (s : State) (n st : Nat) : State := if st = St.window then s.countSeat n 0x310 1 else s

/-! ## Memory -/

/-- The canonical form of the memory: keys strictly rising, no byte equal to what an unlisted key reads as, 0. -/
abbrev Memory.wf (m : Tab Byte) : Prop := Tab.wf m 0#8 = true

def memByte (s : State) (k : Nat) : Byte := Tab.get s.mem 0#8 k

def readBytes (s : State) (k n : Nat) : List Byte := (List.range n).map (fun i => memByte s (k + i))

/-- A little-endian number of n bytes (R3). -/
def readNat (s : State) (k n : Nat) : Nat := ofBytes (readBytes s k n)

def readWord (s : State) (k : Nat) : W64 := BitVec.ofNat 64 (readNat s k 8)

/-- The bytes of 32-bit words in order (R3). -/
def wordsBytes (l : List W32) : List Byte := l.flatMap (fun w => bytesOf w.toNat 4)

/-- Writes bytes from a key on. -/
def memPut (m : Tab Byte) (k : Nat) : List Byte → Tab Byte
  | [] => m
  | b :: rest => memPut (Tab.set m 0#8 k b) (k + 1) rest

/-- The codewords of the words that a write of whole words replaces are fresh (R470). -/
def freshWords (e : Tab WordErr) (k n : Nat) : Tab WordErr :=
  e.filter (fun x => !(decide (k ≤ x.1 * 8) && decide (x.1 * 8 + 8 ≤ k + n)))

/-- Is a word of the range uncorrectable? -/
def uncorrAt (s : State) (k n : Nat) : Bool :=
  s.wordErr.any (fun x => x.2 == .uncorr && overlaps (x.1 * 8) 8 k n)

/-- Would a partial write meet an uncorrectable word (R72, R470)? -/
def partialUncorr (s : State) (k n : Nat) : Bool :=
  s.wordErr.any (fun x => x.2 == .uncorr && overlaps (x.1 * 8) 8 k n &&
    !(decide (k ≤ x.1 * 8) && decide (x.1 * 8 + 8 ≤ k + n)))

/-- Sets the dirty bits of the tiles of T1 and T2 that a write touches (R242). -/
def dirtyMark (d : Tab Bool) (k n : Nat) : Tab Bool :=
  if n = 0 || k ≥ sramBase then d
  else (List.range ((k + n - 1) / 16384 - k / 16384 + 1)).foldl (fun t i => Tab.set t false (k / 16384 + i) true) d

/-- Objects whose old working range a write meets while a MOVE copies it (R241). -/
def objTiles (s : State) (n : Nat) : Nat := LObj.TILES.get (s.obj n)
def objWorkKey (s : State) (n : Nat) : Nat := keyOf s (LObj.WORK.get (s.obj n))

/-- Does the object hold back writes at its working range: a DROP, or a MOVE's fifth pass (R241, R243)? -/
def holdsWrites (s : State) (n : Nat) : Bool :=
  (LObj.STATE.get (s.obj n) == 4 && LObj.WTIER.get (s.obj n) != LObj.BTIER.get (s.obj n)) ||
  (LObj.STATE.get (s.obj n) == 2 && (s.ox n).op == 2 && (s.ox n).pass ≥ 5)

def holderOf (s : State) (k n : Nat) : Option Nat :=
  (s.objx.map (·.1)).find? (fun o => holdsWrites s o && overlaps k n (objWorkKey s o) (objTiles s o * 16384))

/-- Does a list of runs of tiles hold a tile? -/
def hasTile (l : List (Nat × Nat)) (t : Nat) : Bool := l.any (fun r => decide (r.1 ≤ t) && decide (t < r.1 + r.2))

/-- Marks tiles of objects being moved that are written after their copy in the pass has begun (R241). -/
def markMoves (s : State) (k n : Nat) : State :=
  (s.objx.map (·.1)).foldl (fun s o =>
    if LObj.STATE.get (s.obj o) == 2 && (s.ox o).op == 2 && overlaps k n (objWorkKey s o) (objTiles s o * 16384) then
      s.updOx o (fun x => { x with marks :=
        (List.range (objTiles s o)).filter (fun t => x.marks.contains t ||
          (overlaps k n (objWorkKey s o + t * 16384) 16384 && !hasTile x.todo t)) })
    else s) s

/-- Stores bytes with their consequences: dirty bits, fresh codewords. -/
def rawWrite (s : State) (k : Nat) (bs : List Byte) : State :=
  { s with mem := memPut s.mem k bs, wordErr := freshWords s.wordErr k bs.length, dirty := dirtyMark s.dirty k bs.length }

/-- A write performed at a memory: it waits where a MOVE or DROP holds its range (R241, R243). -/
def writeMem (s : State) (k : Nat) (bs : List Byte) : State :=
  match holderOf s k bs.length with
  | some o => s.updOx o (fun x => { x with waiting := x.waiting ++ [(k, bs)] })
  | none => markMoves (rawWrite s k bs) k bs.length

/-- Copies a range. Only listed bytes move: an unlisted byte reads 0 at both ends. -/
def memCopy (m : Tab Byte) (src dst n : Nat) : Tab Byte :=
  ((m.filter (fun e => decide (src ≤ e.1) && decide (e.1 < src + n))).map (fun e => (e.1 - src + dst, e.2))).foldl
    (fun t e => Tab.set t 0#8 e.1 e.2)
    (m.filter (fun e => !(decide (dst ≤ e.1) && decide (e.1 < dst + n))))

/-- Copies a range as one write; it waits where a MOVE or DROP holds its range (R241, R243). -/
def copyMem (s : State) (src dst n : Nat) : State :=
  match holderOf s dst n with
  | some o => s.updOx o (fun x => { x with waiting := x.waiting ++ [(dst, readBytes s src n)] })
  | none => markMoves { s with mem := memCopy s.mem src dst n, wordErr := freshWords s.wordErr dst n,
                               dirty := dirtyMark s.dirty dst n } dst n

/-! ## One grant of a shared resource (R24) -/

/-- The first requester at or after the pointer, wrapping. -/
def pick (present : Nat → Bool) (ptr n : Nat) : Option Nat :=
  ((List.range n).map (fun i => (ptr + i) % n)).find? present

/-- One class's grant: the winner and the class's next pointer. -/
def grant (present : Nat → Bool) (ptr n : Nat) : Option (Nat × Nat) :=
  (pick present ptr n).map (fun w => (w, (w + 1) % n))

end Sys2Proof.Machine
end

