-- ==== Sys2Proof/Machine/Flags.lean ====
section
/-! DEFINITION. Every status flag the device raises: interrupt causes, device events, SB_FAULT and its alert, the
stack's modes, the error log. -/

namespace Sys2Proof.Machine

/-- The 16-byte interrupt message of R396. -/
def irqMsg (s : State) (n v cause : Nat) : BitVec 128 :=
  BitVec.ofNat 128 (n % 64 + v % 4 * 64 + cause % 128 * 256 + now s * 2 ^ 64)

/-- Raises vector v of a seat for causes given as IRQ_STATUS bits; a disabled seat raises none (R396, R426). -/
def raise (s : State) (n v cause : Nat) : State :=
  if seatEnabled s n then
    (s.updSeat n (fun x => { x with irq := x.irq ||| BitVec.ofNat 64 (cause % 128) })).emit (.irq (irqMsg s n v cause))
  else s

/-- A device event: its EVENTS bit, and seat 0's device-event vector (R397, R426). -/
def deviceEvent (s : State) (f : Fld) : State :=
  raise { s with bank := { s.bank with events := f.set s.bank.events 1 } } 0 (LSeatCfg.EVENT_VEC.get (s.seat 0).cfg) 64

/-- Writes SB_FAULT; SB_ALERT_N is asserted when a bit changes (R461, R463). -/
def setSbFault (s : State) (w : W64) : State :=
  { s with pins := { s.pins with sbFault := w, alert := s.pins.alert || decide (w ≠ s.pins.sbFault) } }

def setSbBits (s : State) (l : List (Fld × Nat)) : State := setSbFault s (setAll s.pins.sbFault l)

/-- FAULT_N is low (R452, R459). -/
def faultN (s : State) : Bool :=
  !s.pins.rstLow && (LSbFault.PLL_UNLOCK.on s.pins.sbFault || LSbFault.DIE_TRIP.on s.pins.sbFault ||
    LSbFault.ING_TRIP.on s.pins.sbFault || LSbFault.HALTED.on s.pins.sbFault)

/-- The flags of SB_FAULT that follow the ingots' MODE fields (R463). -/
def sbIngots (s : State) : State :=
  let modes := (List.range 16).map (fun i => LGovSt.MODE.get (s.ingot i).gov)
  setSbBits s [(LSbFault.ING_TRIP, b2n (modes.contains 3)), (LSbFault.ING_HOT, b2n (modes.contains 2)),
    (LSbFault.ING_TRIP_MASK, ((List.range 16).map (fun i => if modes.getD i 0 = 3 then 2 ^ i else 0)).foldl (· + ·) 0)]

/-- Puts one entry into the error log (R486). -/
def logError (s : State) (addr cls path seat : Nat) (binding : Option Nat) (reread : Bool) : State :=
  { s with bank := { s.bank with errLog := s.bank.errLog ++ [setAll 0#256 [
      (LErr.TIME, now s), (LErr.ADDR, addr), (LErr.CLASS, cls), (LErr.PATH, path), (LErr.SEAT, seat),
      (LErr.BINDING, binding.getD 0), (LErr.BOUND, b2n binding.isSome), (LErr.REREAD_OK, b2n reread)]] } }

/-- Device address of an offset of this device (R17). -/
def devAddr (s : State) (k : Nat) : Nat := ownChip s * 2 ^ 40 + k

/-- The counter of an uncorrectable word by its memory (R469). -/
def countUncorr (s : State) (k : Nat) : State :=
  match tierOfOffset k with
  | 2 => s.countIngot (k / ingotSize) 0x090 1
  | 1 => s.countDev (0x208 + (k - hmBase) / 0x80000000 * 0x40) 1
  | 0 => s.countDev (0x218 + (k - sramBase) / 0x20000000 * 0x40) 1
  | _ => s

/-- The uncorrectable words of a range: the keys of their first bytes. -/
def badWords (s : State) (k n : Nat) : List Nat :=
  (s.wordErr.filter (fun x => x.2 == .uncorr && overlaps (x.1 * 8) 8 k n)).map (fun x => x.1 * 8)

/-- The correctable words of a range. -/
def corrWords (s : State) (k n : Nat) : List Nat :=
  (s.wordErr.filter (fun x => x.2 == .corr && overlaps (x.1 * 8) 8 k n)).map (fun x => x.1 * 8)

/-- What a read of a range counts and logs for each uncorrectable word of this device in it (R79, R469, R486): `path` as
in R486. -/
def noteUncorr (s : State) (k n path seat : Nat) (binding : Option Nat) : State :=
  (badWords s k n).foldl (fun s w =>
    if tierOfOffset w ≤ 2 then logError (countUncorr s w) (devAddr s w) (3 - tierOfOffset w) path seat binding false else s) s

/-- The same, of its words alone, with the log left to a later re-read (R472). -/
def countBad (s : State) (k n : Nat) : State := (badWords s k n).foldl countUncorr s

/-- A read that finds an uncorrectable word in its range counts and logs it; any other read does not. -/
def noteBad (s : State) (k n path seat : Nat) (binding : Option Nat) : State := noteUncorr s k n path seat binding

/-- Counts the correctable words of a range by their memory (R73, R79, R469). `pip`: found on a pip read. -/
def countCorr (s : State) (k n : Nat) (pip : Bool) : State :=
  (corrWords s k n).foldl (fun s w =>
    match tierOfOffset w with
    | 2 => s.countIngot (w / ingotSize) (if pip then 0x088 else 0x080) 1
    | 1 => s.countDev (0x200 + (w - hmBase) / 0x80000000 * 0x40) 1
    | 0 => s.countDev (0x210 + (w - sramBase) / 0x20000000 * 0x40) 1
    | _ => s) s

/-- Words of a range read back free of correctable errors from here on. -/
def clearCorr (s : State) (k n : Nat) : State :=
  { s with wordErr := s.wordErr.filter (fun x => !(x.2 == .corr && overlaps (x.1 * 8) 8 k n)) }

/-- The write-back of a corrected word of an ingot enters external queue 4 of its bank group (R61, R73). -/
def queueFix (s : State) (w : Nat) : State :=
  let off := w % ingotSize
  let e : ExtEnt := ⟨⟨4, 0, off, 8, true, 0#512⟩, .correct, 1⟩
  updBankGroup s (w / ingotSize) (off / 16384 % 384) (fun x =>
    { x with queues := Tab.set x.queues [] 4 (Tab.get x.queues [] 4 ++ [e]) })

/-- The write-back of a corrected word of holding memory is presented by the patrol-scrub requester (R254, R469). -/
def scrubFix (s : State) (w : Nat) : State :=
  s.updHmPort ((w - hmBase) / 0x80000000) (fun x =>
    { x with waits := x.waits ++ [⟨5, 0, w, ⟨⟨0, 0, 0, 8, true, 0#512⟩, .correct, 1⟩⟩] })

/-- Writes corrected words back: in an ingot through queue 4, in holding memory by the patrol-scrub requester, in SRAM
within the access that found them (R469). -/
def rewrite (s : State) (k n : Nat) : State :=
  (corrWords s k n).foldl (fun s w =>
    match tierOfOffset w with
    | 2 => queueFix s w
    | 1 => scrubFix s w
    | _ => clearCorr s w 8) s

/-- Correctable words met by a read: counted and written back (R73, R469). -/
def noteCorr (s : State) (k n : Nat) (pip : Bool) : State := rewrite (countCorr s k n pip) k n

end Sys2Proof.Machine
end

