-- ==== Sys2Proof/Machine/Hash.lean ====
section
/-! DEFINITION. The named functions the manual uses: SHA-256 and RSASSA-PKCS1-v1_5 (R432, R433, R437), SipHash-2-4
(R129), CRC-16 and CRC-32 (R58, R476). The manual names them and states their parameters; their text is the public
standards' (log entry 9, PRESUMED). -/

namespace Sys2Proof.Machine

/-- The thirty-two-bit pieces of a row of hexadecimal digits, the row's first piece in its top bits. -/
def rowWords (row : BitVec 256) : List W32 := (List.range 8).map (fun i => row.extractLsb' (224 - 32 * i) 32)

/-- FIPS 180-4's round constants, eight to a row in their order (log entry 9). -/
def shaRows : List (BitVec 256) := [
  0x428a2f9871374491b5c0fbcfe9b5dba53956c25b59f111f1923f82a4ab1c5ed5#256,
  0xd807aa9812835b01243185be550c7dc372be5d7480deb1fe9bdc06a7c19bf174#256,
  0xe49b69c1efbe47860fc19dc6240ca1cc2de92c6f4a7484aa5cb0a9dc76f988da#256,
  0x983e5152a831c66db00327c8bf597fc7c6e00bf3d5a7914706ca635114292967#256,
  0x27b70a852e1b21384d2c6dfc53380d13650a7354766a0abb81c2c92e92722c85#256,
  0xa2bfe8a1a81a664bc24b8b70c76c51a3d192e819d6990624f40e3585106aa070#256,
  0x19a4c1161e376c082748774c34b0bcb5391c0cb34ed8aa4a5b9cca4f682e6ff3#256,
  0x748f82ee78a5636f84c878148cc7020890befffaa4506cebbef9a3f7c67178f2#256]

/-- The constant of each round. -/
def shaK : List W32 := shaRows.flatMap rowWords

/-- FIPS 180-4's initial hash value (log entry 9). -/
def shaInit : List W32 := rowWords
  0x6a09e667bb67ae853c6ef372a54ff53a510e527f9b05688c1f83d9ab5be0cd19#256

/-- The message schedule, newest word first, extended by `n` words. -/
def shaExtend : Nat → List W32 → List W32
  | 0, w => w
  | n + 1, w =>
    let a := w.getD 14 0#32
    let b := w.getD 1 0#32
    let s0 := a.rotateRight 7 ^^^ a.rotateRight 18 ^^^ (a >>> 3)
    let s1 := b.rotateRight 17 ^^^ b.rotateRight 19 ^^^ (b >>> 10)
    shaExtend n ((w.getD 15 0#32 + s0 + w.getD 6 0#32 + s1) :: w)

/-- One round on the eight working words. -/
def shaRound (v : List W32) (kw : W32 × W32) : List W32 :=
  match v with
  | [a, b, c, d, e, f, g, h] =>
    let s1 := e.rotateRight 6 ^^^ e.rotateRight 11 ^^^ e.rotateRight 25
    let t1 := h + s1 + ((e &&& f) ^^^ (~~~e &&& g)) + kw.1 + kw.2
    let s0 := a.rotateRight 2 ^^^ a.rotateRight 13 ^^^ a.rotateRight 22
    let t2 := s0 + ((a &&& b) ^^^ (a &&& c) ^^^ (b &&& c))
    [t1 + t2, a, b, c, d + t1, e, f, g]
  | _ => v

/-- The four-byte words of a byte list, most significant byte first. -/
def beWords : List Byte → List W32
  | a :: b :: c :: d :: rest => (a ++ b ++ c ++ d) :: beWords rest
  | _ => []

/-- One 64-byte block. -/
def shaBlock (h : List W32) (blk : List Byte) : List W32 :=
  let w := (shaExtend 48 (beWords blk).reverse).reverse
  let v := (shaK.zip w).foldl shaRound h
  (h.zip v).map (fun p => p.1 + p.2)

/-- The blocks of a padded message. -/
def shaBlocks : Nat → List W32 → List Byte → List W32
  | 0, h, _ => h
  | n + 1, h, m => shaBlocks n (shaBlock h (m.take 64)) (m.drop 64)

/-- SHA-256 of a byte list, as the 32 digest bytes. -/
def sha256 (m : List Byte) : List Byte :=
  let l := m.length
  let z := (119 - l % 64) % 64
  let p := m ++ [0x80#8] ++ List.replicate z 0#8 ++ (bytesOf (8 * l) 8).reverse
  (shaBlocks (p.length / 64) shaInit p).flatMap (fun w => (bytesOf w.toNat 4).reverse)

/-- SHA-256 as one 256-bit value stored least significant byte first (R3): byte 0 of the digest in bits 7..0. -/
def sha256Nat (m : List Byte) : BitVec 256 := BitVec.ofNat 256 (ofBytes (sha256 m))

/-- One round of SipHash. -/
def sipRound (v : W64 × W64 × W64 × W64) : W64 × W64 × W64 × W64 :=
  let (v0, v1, v2, v3) := v
  let v0 := v0 + v1
  let v1 := v1.rotateLeft 13 ^^^ v0
  let v0 := v0.rotateLeft 32
  let v2 := v2 + v3
  let v3 := v3.rotateLeft 16 ^^^ v2
  let v0 := v0 + v3
  let v3 := v3.rotateLeft 21 ^^^ v0
  let v2 := v2 + v1
  let v1 := v1.rotateLeft 17 ^^^ v2
  let v2 := v2.rotateLeft 32
  (v0, v1, v2, v3)

/-- The 8-byte words of a message, the last one padded and holding the length. -/
def sipWords (len : Nat) : Nat → List Byte → List W64
  | 0, m => [BitVec.ofNat 64 (ofBytes m + (len % 256) * 2 ^ 56)]
  | n + 1, m => BitVec.ofNat 64 (ofBytes (m.take 8)) :: sipWords len n (m.drop 8)

/-- SipHash-2-4 under a 128-bit key (R129). -/
def sipHash (k : BitVec 128) (m : List Byte) : W64 :=
  let k0 := k.extractLsb' 0 64
  let k1 := k.extractLsb' 64 64
  let v := (k0 ^^^ 0x736f6d6570736575#64, k1 ^^^ 0x646f72616e646f6d#64,
            k0 ^^^ 0x6c7967656e657261#64, k1 ^^^ 0x7465646279746573#64)
  let v := (sipWords m.length (m.length / 8) m).foldl (fun v w =>
    let (a, b, c, d) := v
    let (a, b, c, d) := sipRound (sipRound (a, b, c, d ^^^ w))
    (a ^^^ w, b, c, d)) v
  let (a, b, c, d) := v
  let (a, b, c, d) := sipRound (sipRound (sipRound (sipRound (a, b, c ^^^ 0xff#64, d))))
  a ^^^ b ^^^ c ^^^ d

/-- x^65537 mod n: sixteen squarings and one product. -/
def powE (n x : Nat) : Nat :=
  let sq := (List.range 16).foldl (fun a _ => a * a % n) (x % n)
  sq * (x % n) % n

/-- The RSASSA-PKCS1-v1_5 encoding of a SHA-256 digest in 384 octets, most significant octet first. -/
def pkcsEncode (digest : List Byte) : List Byte :=
  [0x00#8, 0x01#8] ++ List.replicate 330 0xFF#8 ++ [0x00#8,
    0x30#8, 0x31#8, 0x30#8, 0x0d#8, 0x06#8, 0x09#8, 0x60#8, 0x86#8, 0x48#8, 0x01#8,
    0x65#8, 0x03#8, 0x04#8, 0x02#8, 0x01#8, 0x05#8, 0x00#8, 0x04#8, 0x20#8] ++ digest

/-- Verifies an RSA-3072 signature; modulus and signature are stored least significant byte first (R433). -/
def rsaVerify (modulus sig : Nat) (digest : List Byte) : Bool :=
  decide (sig < modulus) && powE modulus sig == ofBytes (pkcsEncode digest).reverse

/-- x^d mod n for a 3,072-bit d, from its most significant bit down. -/
def powMod (n x d : Nat) : Nat :=
  (List.range 3072).foldl (fun a i => a * a % n * (if d.testBit (3071 - i) then x % n else 1) % n) 1

/-- The RSA-3072 signature of a digest under a modulus and a private exponent (R433). -/
def rsaSign (modulus d : Nat) (digest : List Byte) : Nat := powMod modulus (ofBytes (pkcsEncode digest).reverse) d

/-- The key block of R431: modulus, exponent 65,537 and every other byte 0. -/
def keyBlockOk (k : BitVec 4096) : Bool := (k.extractLsb' 3072 1024).toNat == 65537

/-- A CRC step for one bit, most significant bit of the register first. -/
def crcBit {w : Nat} (poly : BitVec w) (c : BitVec w) (b : Bool) : BitVec w :=
  if c.msb != b then (c <<< 1) ^^^ poly else c <<< 1

/-- The bits of a value from bit 0 up. -/
def bitsLow {n : Nat} (x : BitVec n) : List Bool := (List.range n).map (fun i => x.getLsbD i)

/-- CRC-16 of an ingot-channel burst (R58). -/
def crc16 (x : BitVec 512) : W16 := (bitsLow x).foldl (crcBit 0x8BB7#16) 0xFFFF#16

/-- CRC-32 of a packet's header and payload (R476). -/
def crc32 (bits : List Bool) : W32 := bits.foldl (crcBit 0x04C11DB7#32) 0xFFFFFFFF#32

end Sys2Proof.Machine
end

