-- ==== Sys2Proof/Machine/Kv.lean ====
section
/-! DEFINITION. KV geometry, page tables, pools and run records, riser sets, the prefix index, release (05_kv_pages.md). -/

namespace Sys2Proof.Machine

/-! ## Geometry (R104 to R107) -/

def gLayers (r : BitVec 8192) : Nat := LBindRec.LAYERS.get r
def gG (r : BitVec 8192) : Nat := LBindRec.G.get r
def gHQ (r : BitVec 8192) : Nat := LBindRec.HQ.get r
def gD (r : BitVec 8192) : Nat := LBindRec.D.get r
def gTpp (r : BitVec 8192) : Nat := 8 * 2 ^ LBindRec.TPP.get r
def gKv4 (r : BitVec 8192) : Bool := LBindRec.KVFMT.on r
/-- Lanes (R104). -/
def gLanes (r : BitVec 8192) : Nat := gLayers r * gG r
/-- Scale blocks of one token in one lane. -/
def gBlocks (r : BitVec 8192) : Nat := if gKv4 r then gD r / 16 else gD r / 32
/-- Chunk width W. -/
def gChunk (r : BitVec 8192) : Nat := if gKv4 r then min (gTpp r) 64 else min (gTpp r) 32
/-- VOFF, KSOFF, VSOFF in 64-byte units (R106). -/
def gVoff (r : BitVec 8192) : Nat := gTpp r * gD r / (if gKv4 r then 128 else 64)
def gKsoff (r : BitVec 8192) : Nat := 2 * gVoff r
def gVsoff (r : BitVec 8192) : Nat := gKsoff r + cdiv (gTpp r * gBlocks r) 64

/-- Half-byte offset of a key element in its page (R106). -/
def keyNib (r : BitVec 8192) (t d : Nat) : Nat :=
  let w := gChunk r
  (if gKv4 r then 1 else 2) * (t / w * w * gD r + d * w + t % w)

/-- Half-byte offset of a value element in its page. -/
def valNib (r : BitVec 8192) (t d : Nat) : Nat :=
  128 * gVoff r + (if gKv4 r then 1 else 2) * (t * gD r + d)

def keyScaleOff (r : BitVec 8192) (t b : Nat) : Nat := 64 * gKsoff r + b * gTpp r + t
def valScaleOff (r : BitVec 8192) (t b : Nat) : Nat := 64 * gVsoff r + b * gTpp r + t

/-- One half-byte of memory. -/
def readNib (s : State) (k nib : Nat) : Nat :=
  let b := (memByte s (k + nib / 2)).toNat
  if nib % 2 = 0 then b % 16 else b / 16

def writeNib (s : State) (k nib v : Nat) : State :=
  let b := (memByte s (k + nib / 2)).toNat
  writeMem s (k + nib / 2) [BitVec.ofNat 8 (if nib % 2 = 0 then b / 16 * 16 + v % 16 else b % 16 + v % 16 * 16)]

/-- An element's stored code: a byte, or a half-byte for KV4. -/
def readElem (s : State) (r : BitVec 8192) (k nib : Nat) : Nat :=
  if gKv4 r then readNib s k nib else (memByte s (k + nib / 2)).toNat

/-! ## Pools and run records (R114 to R117, R138, R139) -/

def poolCount (r : BitVec 8192) : Nat := LBindRec.NPOOL.get r + 1
def poolBase (r : BitVec 8192) (p : Nat) : Nat := (r.extractLsb' ((64 + 16 * p) * 8) 64).toNat
def poolRuns (r : BitVec 8192) (p : Nat) : Nat := (r.extractLsb' ((64 + 16 * p) * 8 + 64) 32).toNat
def imageAddr (r : BitVec 8192) (k : Nat) : Nat := (r.extractLsb' ((320 + 8 * k) * 8) 64).toNat
def endTokens (r : BitVec 8192) : List Nat :=
  (List.range (LBindRec.NEND.get r)).map (fun i => (r.extractLsb' ((352 + 4 * i) * 8) 32).toNat)

def runBytes (r : BitVec 8192) : Nat := gLanes r * 16384
def runAddr (r : BitVec 8192) (p i : Nat) : Nat := poolBase r p + i * runBytes r
def runKey (p i : Nat) : Nat := p * 2 ^ 24 + i

/-- The pool and number of the run at an address. -/
def findRun (r : BitVec 8192) (a : Nat) : Option (Nat × Nat) :=
  ((List.range (poolCount r)).find? (fun p =>
    decide (poolBase r p ≤ a) && decide (a < poolBase r p + poolRuns r p * runBytes r))).bind (fun p =>
      if runBytes r = 0 then none else some (p, (a - poolBase r p) / runBytes r))

def runRec (x : Bind) (p i : Nat) : BitVec 128 := Tab.get x.runs 0#128 (runKey p i)
def setRunRec (x : Bind) (p i : Nat) (w : BitVec 128) : Bind := { x with runs := Tab.set x.runs 0#128 (runKey p i) w }
def updRunRec (x : Bind) (p i : Nat) (l : List (Fld × Nat)) : Bind := setRunRec x p i (setAll (runRec x p i) l)

/-- Does the run's record hold an uncorrectable word (R471)? -/
def runBad (x : Bind) (p i : Nat) : Bool := x.badRuns.any (fun e => e.1 == runKey p i)

/-- The banker reads a run's record (R471). -/
def readRun (x : Bind) (p i : Nat) : Bind :=
  { x with badRuns := x.badRuns.map (fun e => if e.1 = runKey p i then (e.1, true) else e) }

/-- A record written whole is encoded afresh (R71, R470). -/
def freshRun (x : Bind) (p i : Nat) : Bind := { x with badRuns := x.badRuns.filter (fun e => e.1 != runKey p i) }

def freeList (x : Bind) (p : Nat) : FreeList := Tab.get x.free ⟨[], 0, []⟩ p
def setFree (x : Bind) (p : Nat) (f : FreeList) : Bind := { x with free := Tab.set x.free ⟨[], 0, []⟩ p f }

/-- The first run never taken and not held by a variant. The manual gives a free list's first order nowhere: ascending run
numbers (DESIGN CHOICE, log entry 73). -/
def freshOf (f : FreeList) : Nat :=
  (((List.range (f.skip.length + 1)).map (· + f.fresh)).find? (fun i => !f.skip.contains i)).getD f.fresh

/-- The head of a pool's free list. -/
def freeHead (x : Bind) (p : Nat) : Option Nat :=
  match (freeList x p).back with
  | i :: _ => some i
  | [] => if freshOf (freeList x p) < poolRuns x.brec p then some (freshOf (freeList x p)) else none

def takeHead (x : Bind) (p : Nat) : Bind :=
  let f := freeList x p
  match f.back with
  | _ :: rest => setFree x p { f with back := rest }
  | [] => setFree x p { f with fresh := freshOf f + 1 }

def giveBack (x : Bind) (p i : Nat) : Bind := setFree x p { freeList x p with back := i :: (freeList x p).back }

/-- Takes run i off the free list for a variant (R140). -/
def pinFree (x : Bind) (p i : Nat) : Bind :=
  let f := freeList x p
  if f.back.contains i then setFree x p { f with back := f.back.filter (· != i) }
  else if i ≥ f.fresh && !f.skip.contains i then setFree x p { f with skip := i :: f.skip } else x

/-- The base die under which a local pool's ingot lies; none for a pool of another chip. -/
def poolDie (s : State) (r : BitVec 8192) (p : Nat) : Option Nat :=
  match placeOf s (poolBase r p) with
  | .here off => if off < hmBase then some (off / ingotSize / 4) else none
  | _ => none

/-- Pools in the search order of R117 for a request whose riser set lies on base die `bd`. -/
def poolOrder (s : State) (r : BitVec 8192) (bd : Option Nat) : List Nat :=
  let all := List.range (poolCount r)
  let near := all.filter (fun p => bd.isSome && poolDie s r p == bd)
  near ++ all.filter (fun p => !near.contains p)

/-- Takes one run with RESERVED set and LASTREAD `turn` (R116, R117); none where every pool is empty. -/
def allocRun (s : State) (b : Nat) (bd : Option Nat) (turn : Nat) : Option (State × Nat × Nat) :=
  let x := s.bind b
  match (poolOrder s x.brec bd).find? (fun p => (freeHead x p).isSome) with
  | none => none
  | some p =>
    match freeHead x p with
    | none => none
    | some i =>
      some (s.setBind b (updRunRec (freshRun (takeHead x p) p i) p i
        [(LRunRec.REFCNT, 0), (LRunRec.PINNED, 0), (LRunRec.INDEXED, 0), (LRunRec.DEFER, 0), (LRunRec.RESERVED, 1),
         (LRunRec.LASTREAD, turn)]), p, i)

/-! ## The prefix index (R118, R129 to R135) -/

/-- First byte of the index area of base die n. -/
def idxArea (s : State) (n : Nat) : Nat := bdBase n + s.bank.riserSlots / 4 * 16384

/-- Key of entry i of the bucket of a hash. -/
def idxKey (s : State) (h : W64) (i : Nat) : Nat :=
  idxArea s (h.toNat / 2 ^ 16 % 4) + h.toNat % 2 ^ 16 * 256 + i * 32

def idxRead (s : State) (k : Nat) : BitVec 256 := BitVec.ofNat 256 (readNat s k 32)

/-- An entry that its read finds usable and VALID. -/
def idxValid (s : State) (k : Nat) : Bool := !uncorrAt s k 32 && LIdx.VALID.on (idxRead s k)

/-- Keys of the index entries that memory lists at all. -/
def idxListed (s : State) : List Nat :=
  (List.range 4).flatMap (fun n =>
    ((s.mem.filter (fun e => decide (idxArea s n ≤ e.1) && decide (e.1 < idxArea s n + 0x1000000))).map
      (fun e => idxArea s n + (e.1 - idxArea s n) / 32 * 32)).eraseDups)

/-- Removes the entries that name a run (R135). -/
def idxRemove (s : State) (b addr : Nat) : State :=
  (idxListed s).foldl (fun s k =>
    if idxValid s k && LIdx.RUN.get (idxRead s k) == addr / 16384 && LIdx.BINDING.get (idxRead s k) == b then
      rawWrite s k (bytesOf 0 32)
    else s) s

/-- The chain's start value (R129). -/
def chainStart (varOn : Bool) (variant : Nat) : W64 := BitVec.ofNat 64 (if varOn then variant else 0x7FF)

/-- One link of the chain (R129). -/
def chainNext (s : State) (seat group : Nat) (prev : W64) (toks : List Nat) : W64 :=
  sipHash (Config.prefixKey s.bank.epoch seat group)
    (bytesOf prev.toNat 8 ++ toks.flatMap (fun t => bytesOf t 4))

/-- The token values of a page's or slot's lane-0 token area (R106). -/
def tokenArea (s : State) (k tpp : Nat) : List Nat := (List.range tpp).map (fun t => readNat s (k + 0x3E00 + 4 * t) 4)

/-! ## Release (R139) -/

/-- Binding turn and phase (R32). -/
def bTurn (x : Bind) : Nat := LTurnBlk.TURN.get x.blk
def bPhase (x : Bind) : Nat := LTurnBlk.PHASE.get x.blk
def bFaulted (x : Bind) : Bool := LTurnBlk.FAULTED.on x.blk

/-- A turn lies between its close and its commit point (R264): phases 1 to 5 of a binding not FAULTED. -/
def inFlight (s : State) (b : Nat) : Bool :=
  let x := s.bind b
  !bFaulted x && decide (1 ≤ bPhase x) && decide (bPhase x ≤ 5)

/-- A run that the Release phase examines, or no longer. -/
def addDrop (x : Bind) (p i : Nat) : Bind := if x.drops.contains (p, i) then x else { x with drops := x.drops ++ [(p, i)] }
def dropGone (x : Bind) (p i : Nat) : Bind := { x with drops := x.drops.filter (· != (p, i)) }

/-- Is the run in nobody's hands? -/
def runLoose (x : Bind) (p i : Nat) : Bool :=
  let w := runRec x p i
  !LRunRec.PINNED.on w && !LRunRec.RESERVED.on w && LRunRec.REFCNT.get w == 0

/-- Frees a run whose count is 0 if its last reader has committed, else sets DEFER (R139). A run with a bad record is retired
(R471). -/
def releaseRun (s : State) (b p i : Nat) : State :=
  let x := readRun (s.bind b) p i
  let w := runRec x p i
  if !runLoose x p i || runBad x p i then s.setBind b (dropGone x p i)
  else if LRunRec.LASTREAD.get w ≤ bTurn x then
    s.setBind b (dropGone (giveBack (setRunRec x p i 0#128) p i) p i)
  else if LRunRec.DEFER.on w then s.setBind b (addDrop x p i)
  else (s.setBind b (addDrop (updRunRec x p i [(LRunRec.DEFER, 1)]) p i)).countBind b 10 1

/-- A run that nobody holds is released at once, or by the Release phase of the turn in flight (R139). -/
def looseRun (s : State) (b p i : Nat) : State :=
  if inFlight s b then s.updBind b (fun x => addDrop x p i) else releaseRun s b p i

/-- Frees a reserved run that was not used (R123). -/
def unreserve (s : State) (b p i : Nat) : State :=
  looseRun (s.updBind b (fun x => updRunRec x p i [(LRunRec.RESERVED, 0), (LRunRec.REFCNT, 0)])) b p i

/-- Takes a run's entry out of the prefix index (R135). -/
def unindex (s : State) (b p i : Nat) : State :=
  let x := s.bind b
  if LRunRec.INDEXED.on (runRec x p i) then
    (idxRemove s b (runAddr x.brec p i)).updBind b (fun y => updRunRec y p i [(LRunRec.INDEXED, 0)])
  else s

/-- Lowers a count by 1; at 0 the index entry goes, and the run is released at once where no turn is in flight
(R135, R138, R139). -/
def refDrop (s : State) (b p i : Nat) : State :=
  let x := readRun (s.bind b) p i
  let c := LRunRec.REFCNT.get (runRec x p i) - 1
  let s := s.setBind b (updRunRec x p i [(LRunRec.REFCNT, c)])
  if c = 0 then looseRun (unindex s b p i) b p i else s

def refAdd (s : State) (b p i n : Nat) : State :=
  s.updBind b (fun x => updRunRec (readRun x p i) p i [(LRunRec.REFCNT, LRunRec.REFCNT.get (runRec x p i) + n)])

/-! ## Riser sets (R119 to R121) -/

def dieSlots (s : State) : Nat := s.bank.riserSlots / 4
def slotDie (s : State) (slot : Nat) : Nat := slot / dieSlots s
/-- Key of a riser slot's first byte (R119). -/
def riserKey (s : State) (slot : Nat) : Nat := bdBase (slot / dieSlots s) + slot % dieSlots s * 16384

/-- The lowest run of n free slots from `lo`, below `hi`, among the sets in use. -/
def gapFrom (sets : List (Nat × Nat)) (n hi : Nat) : Nat → Nat → Option Nat
  | 0, _ => none
  | fuel + 1, lo =>
    if lo + n > hi then none
    else
      match sets.find? (fun e => overlaps lo n e.1 e.2) with
      | some e => gapFrom sets n hi fuel (e.1 + e.2)
      | none => some lo

/-- Key of a run's page of one lane as a reader waits for it: the riser slot while the flush into it is open (R124). -/
def laneKey (s : State) (b addr lane : Nat) : Nat :=
  match (s.bind b).flushes.find? (fun c => c.dst == .run addr && !c.doneLanes.contains lane) with
  | some c => match c.src with
    | .set f => riserKey s (f + lane)
    | .run a => keyOf s a + lane * 16384
  | none => keyOf s addr + lane * 16384

/-- Allocates n slots for a request by R120's two rules, charging its seat; none where no die or quota has them. -/
def allocSet (s : State) (slot seat n : Nat) : Option (State × Nat) :=
  if n = 0 then none
  else if Tab.get (s.seat seat).usage 0 1 + n > Tab.get (s.seat seat).quota 0 1 then none
  else
    ((List.range 4).findSome? (fun i =>
      gapFrom s.bank.riserSets n (((slot + i) % 4 + 1) * dieSlots s) (s.bank.riserSets.length + 1)
        ((slot + i) % 4 * dieSlots s))).map (fun f =>
      ({ s with bank := { s.bank with riserSets := (f, n) :: s.bank.riserSets } }.updSeat seat (fun x =>
        { x with usage := Tab.upd x.usage 0 1 (· + n) }), f))

def freeSet (s : State) (seat f : Nat) : State :=
  match s.bank.riserSets.find? (fun e => e.1 == f) with
  | none => s
  | some (_, n) =>
    { s with bank := { s.bank with riserSets := s.bank.riserSets.filter (fun e => e.1 != f) } }.updSeat seat (fun x =>
      { x with usage := Tab.upd x.usage 0 1 (· - n) })

/-! ## Page tables (R111 to R113) -/

/-- A write that the host can see of a mirrored seat's turn waits for the seal (R378). -/
def hostWrite (s : State) (seat k : Nat) (bs : List Byte) : State :=
  let m := s.mir seat
  if m.hold && decide (2 ^ 52 ≤ k) then
    s.setMir seat { m with shadows := m.shadows ++ [(k, bs)] }
  else writeMem s k bs

def ptKey (s : State) (e : BitVec 1024) : Nat := keyOf s (LEnt.PTBASE.get e)

/-- A byte of a page table as the device has written it: a write that waits for its seal stands (R378). -/
def tableByte (s : State) (seat k : Nat) : Byte :=
  let m := s.mir seat
  match (m.sealing.flatMap (·.writes) ++ m.shadows).reverse.find? (fun w => decide (w.1 ≤ k) && decide (k < w.1 + w.2.length)) with
  | some w => w.2.getD (k - w.1) 0#8
  | none => memByte s k

def ptEntry (s : State) (e : BitVec 1024) (j : Nat) : W64 :=
  BitVec.ofNat 64 (ofBytes ((List.range 8).map (fun i => tableByte s (LEnt.SEAT.get e) (ptKey s e + 64 + 8 * j + i))))

/-- A page-table entry (R112). -/
def ptMake (addr pool kind fill : Nat) : W64 :=
  setAll 0#64 [(LPtEnt.ADDR, addr / 16384), (LPtEnt.POOL, pool), (LPtEnt.KIND, kind), (LPtEnt.FILL, fill)]

/-- Device address of a page-table entry's run: bits [52:14] are ADDR. -/
def ptAddr (w : W64) : Nat := LPtEnt.ADDR.get w * 16384

/-- Runs of KIND 1 and 2 that a request's table names, by column: its full columns, and the tail of its pause. -/
def heldRuns (s : State) (slot : Nat) : List (Nat × Nat × Nat × W64) :=
  let e := s.req slot
  let r := (s.bind (LEnt.BINDING.get e)).brec
  (List.range (LEnt.LEN.get e / gTpp r + b2n (s.rx slot).tailRun)).filterMap (fun j =>
    let w := ptEntry s e j
    if LPtEnt.KIND.get w = 1 || LPtEnt.KIND.get w = 2 then
      (findRun r (ptAddr w)).map (fun pi => (j, pi.1, pi.2, w))
    else none)

/-- DETAIL of the FAULT that a request awaits: its own, or 1 where its table names a run whose bad record the banker has read
(R471); 0 none. -/
def dueFault (s : State) (slot : Nat) : Nat :=
  if (s.rx slot).faultDue ≠ 0 then (s.rx slot).faultDue
  else
    let bad := ((s.bind (LEnt.BINDING.get (s.req slot))).badRuns.filter (·.2)).map (·.1)
    if bad.isEmpty then 0 else b2n ((heldRuns s slot).any (fun r => bad.contains (runKey r.2.1 r.2.2.1)))

/-- The lower of 524,288 and COLS x TPP (R127). -/
def lenBound (e : BitVec 1024) (r : BitVec 8192) : Nat := min 524288 (LEnt.COLS.get e * gTpp r)

/-- Copies committed entries below `count` of one lane from a page to a page (R106, R123, R126). -/
def copyEntries (s : State) (r : BitVec 8192) (src dst count : Nat) : State :=
  (List.range count).foldl (fun s t =>
    let s := (List.range (gD r)).foldl (fun s d =>
      if gKv4 r then
        writeNib (writeNib s dst (keyNib r t d) (readNib s src (keyNib r t d))) dst (valNib r t d)
          (readNib s src (valNib r t d))
      else
        writeMem (writeMem s (dst + keyNib r t d / 2) [memByte s (src + keyNib r t d / 2)]) (dst + valNib r t d / 2)
          [memByte s (src + valNib r t d / 2)]) s
    let s := (List.range (gBlocks r)).foldl (fun s b =>
      writeMem (writeMem s (dst + keyScaleOff r t b) [memByte s (src + keyScaleOff r t b)]) (dst + valScaleOff r t b)
        [memByte s (src + valScaleOff r t b)]) s
    writeMem s (dst + 0x3E00 + 4 * t) (readBytes s (src + 0x3E00 + 4 * t) 4)) s

/-- Copies one entry t of one lane to entry t' of a page (R123, draft trees). -/
def copyEntry (s : State) (r : BitVec 8192) (src t dst t' : Nat) : State :=
  let s := (List.range (gD r)).foldl (fun s d =>
    if gKv4 r then
      writeNib (writeNib s dst (keyNib r t' d) (readNib s src (keyNib r t d))) dst (valNib r t' d)
        (readNib s src (valNib r t d))
    else
      writeMem (writeMem s (dst + keyNib r t' d / 2) [memByte s (src + keyNib r t d / 2)]) (dst + valNib r t' d / 2)
        [memByte s (src + valNib r t d / 2)]) s
  let s := (List.range (gBlocks r)).foldl (fun s b =>
    writeMem (writeMem s (dst + keyScaleOff r t' b) [memByte s (src + keyScaleOff r t b)]) (dst + valScaleOff r t' b)
      [memByte s (src + valScaleOff r t b)]) s
  writeMem s (dst + 0x3E00 + 4 * t') (readBytes s (src + 0x3E00 + 4 * t) 4)

end Sys2Proof.Machine
end

