-- ==== Sys2Proof/Machine/Operands.lean ====
section
/-! DEFINITION. Operand forms: a mailbox command's header, body and payload, what it concerns, its response, and how
the banker applies one (15_mailboxes.md); the instruction words' fields of the pips and engines. -/

namespace Sys2Proof.Machine

/-- What a command answers (R390): its status, its response body, its payload window if it writes it; the key of 4 KiB that are
still to be written before it answers (R407). -/
structure Rsp where
  status : Nat
  body : List Byte
  payload : Option (BitVec 28672)
  writes : Option Nat
  deriving DecidableEq, Repr

def Rsp.of (st : Nat) : Rsp := ⟨st, [], none, none⟩

/-- A command's meaning: the state it leaves and its answer. -/
abbrev CmdOp := Cmd → State → State × Rsp

def cmdMb (c : Cmd) : Nat := 4 * c.seat + c.mbox
def cmdOpcode (c : Cmd) : Nat := LCmdHd.OPCODE.get c.hdr

/-- Is a body bit at or above n set? -/
def bodyAbove (c : Cmd) (n : Nat) : Bool := c.body >>> n != 0#1792

/-- Bytes of the payload window. -/
def payBytes (c : Cmd) (off n : Nat) : List Byte := (List.range n).map (fun i => c.payload.extractLsb' (8 * (off + i)) 8)
def payBits (c : Cmd) (off bits : Nat) : Nat := (c.payload.extractLsb' (8 * off) bits).toNat

/-- The command that a mailbox holds (R385, R389). -/
def cmdOf (s : State) (m : Nat) : Cmd :=
  ⟨m / 4, m % 4, (s.mbox m).req.extractLsb' 0 256, (s.mbox m).req.extractLsb' 256 1792, (s.mbox m).payload⟩

/-- The binding of a request slot that is not FREE. -/
def slotBinding (s : State) (slot : Nat) : List Nat :=
  if LEnt.STATE.get (s.req slot) = 0 then [] else [LEnt.BINDING.get (s.req slot)]

/-- Record i of an ADMIT: 96 bytes (R266). -/
def admitRec (c : Cmd) (i : Nat) : BitVec 1024 := (c.payload.extractLsb' (768 * i) 768).setWidth 1024

/-- The bindings a command concerns (R394, R398). -/
def concerns (s : State) (c : Cmd) : List Nat :=
  let slot := (c.body.extractLsb' 0 14).toNat
  match cmdOpcode c with
  | 0x0001 => (List.range (min 32 (c.body.extractLsb' 0 6).toNat)).map (fun i => LEnt.BINDING.get (admitRec c i))
  | 0x0002 | 0x0003 | 0x0004 | 0x0005 => slotBinding s slot
  | 0x0011 => [LBindCmd.BINDING.get c.body]
  | 0x0012 | 0x0013 => [(c.body.extractLsb' 0 4).toNat]
  | 0x0020 | 0x0021 | 0x0022 | 0x0040 => List.range 16
  | 0x0031 =>
    if [3, 4, 5].contains (LSliceCmd.OP.get c.body) then
      (List.range 16).filter (fun b => (LSliceSt.BINDINGS.get s.fab.slice).testBit b)
    else []
  | 0x0032 => (List.range 16).filter (fun b => (LSeatBnd.ATTACHED.get (s.seat (LMirCmd.SEAT.get c.body)).bnd).testBit b)
  | _ => []

/-- Is a binding between the start of its commit section and the close of its next composition (R50)? The section does not
begin while the Release of the turn before is outstanding (R52). -/
def inCommit (s : State) (b : Nat) : Bool := bPhase (s.bind b) == 5 && !bFaulted (s.bind b) && !(s.bind b).relDue

/-- R394: must the command be held? -/
def mustHold (s : State) (c : Cmd) : Bool := (concerns s c).any (inCommit s)

/-- A partner's seat in STANDBY (R378). -/
def standby (s : State) (n : Nat) : Bool := LMirSt.STATE.get (s.mir n).state == 4

/-- BTURN of a command's response, taken at its application (R390): the TURN of the one binding it concerns. -/
def bturnOf (s : State) (c : Cmd) : Nat :=
  match (concerns s c).eraseDups with
  | [b] => bTurn (s.bind b)
  | _ => 0

/-- Writes the response, advances SEQ, clears OWN, ACTIVE and HELD, raises the vector (R388, R390). `bt` is BTURN, `applied`
APPLIED. -/
def respondAt (s : State) (c : Cmd) (held : Bool) (bt applied : Nat) (r : Rsp) : State :=
  let m := s.mbox (cmdMb c)
  let seq := (LMbCtrl.SEQ.get m.ctrl + 1) % 65536
  let hd : BitVec 256 := setAll 0#256 [(LRspHd.STATUS, r.status), (LRspHd.OPCODE, cmdOpcode c), (LRspHd.SEQ, seq),
    (LRspHd.WASHELD, b2n held), (LRspHd.TAG, LCmdHd.TAG.get c.hdr), (LRspHd.APPLIED, applied), (LRspHd.BTURN, bt)]
  let m' : Mbox := { m with rsp := BitVec.ofNat 2048 (hd.toNat + ofBytes r.body * 2 ^ 256),
                            payload := r.payload.getD m.payload,
                            ctrl := setAll m.ctrl [(LMbCtrl.SEQ, seq), (LMbCtrl.OWN, 0), (LMbCtrl.ACTIVE, 0), (LMbCtrl.HELD, 0)] }
  let s := s.setMbox (cmdMb c) m'
  let s := { s with bank := { s.bank with granted := s.bank.granted.erase (cmdMb c) } }
  if LCmdHd.IRQ.on c.hdr then raise s c.seat (LCmdHd.VECTOR.get c.hdr) (2 ^ c.mbox) else s

/-- The response of the command applied last. -/
def respond (s : State) (c : Cmd) (held : Bool) (bt : Nat) (r : Rsp) : State := respondAt s c held bt s.bank.lastApplied r

/-- A response that follows the device's own writes (R407). -/
def answerLater (s : State) (c : Cmd) (held : Bool) (bt k : Nat) (r : Rsp) : State :=
  { s with bank := { s.bank with late := s.bank.late ++ [⟨cmdMb c, held, bt, s.bank.lastApplied, r.status, k⟩] } }

/-- The instant of an application: APPLIED rises strictly from command to command (R393; log entry 14). -/
def applyTime (s : State) : State :=
  { s with bank := { s.bank with lastApplied := max (now s) (s.bank.lastApplied + 1) } }

/-- The seats that a command concerns (R378): the one it is issued for; of seat 0's commands, the one that SEAT_SET or
SEAT_RESET names, the one that an ASSIGN of STAKE names, and the one that the named stake belongs to. -/
def concernedSeats (s : State) (c : Cmd) : List Nat :=
  c.seat :: (if c.seat ≠ 0 then [] else
    match cmdOpcode c with
    | 0x0020 => LStake.SEAT.get (s.stake (LStakeCmd.STAKE.get c.body)) ::
        (if LStakeCmd.OP.get c.body = 1 then [LStakeCmd.SEAT.get c.body] else [])
    | 0x0021 => [LSeatSet.SEAT.get c.body]
    | 0x0022 => [(c.body.extractLsb' 0 6).toNat]
    | _ => [])

/-- The checks ahead of every command: its header (R391), its seat (R411), a STANDBY partner's seat (R378). -/
def headerStatus (s : State) (c : Cmd) : Nat :=
  firstFail [(!rsvZero LCmdHd.rsv c.hdr, St.range), (!seatEnabled s c.seat, St.denied),
    ((concernedSeats s c).any (standby s) && cmdOpcode c != 0x0032, St.state)]

/-- Applies one command and completes it (R388, R390, R391). -/
def applyCmd (op : CmdOp) (c : Cmd) (held : Bool) (s : State) : State :=
  let s := applyTime s
  let s := { s with bank := { s.bank with commands := s.bank.commands + 1 } }
  let bt := bturnOf s c
  if headerStatus s c ≠ St.ok then respond s c held bt (Rsp.of (headerStatus s c))
  else
    let r := op c s
    match r.2.writes with
    | none => respond r.1 c held bt r.2
    | some k => answerLater r.1 c held bt k r.2

/-- Puts a command into its mailbox with OWN set (R385, R386). -/
def present (s : State) (c : Cmd) : State :=
  s.setMbox (cmdMb c) { s.mbox (cmdMb c) with
    req := BitVec.ofNat 2048 (c.hdr.toNat + c.body.toNat * 2 ^ 256),
    payload := c.payload,
    ctrl := setAll (s.mbox (cmdMb c)).ctrl [(LMbCtrl.OWN, 1)] }

/-- A mailbox is granted: ACTIVE is set and the pointer moves on (R24, R386, R392). -/
def grantMb (s : State) (m : Nat) : State :=
  let s := s.setMbox m { s.mbox m with ctrl := LMbCtrl.ACTIVE.set (s.mbox m).ctrl 1 }
  { s with bank := { s.bank with ptr := (m + 1) % 256, granted := s.bank.granted ++ [m] } }

/-- The first held command, in grant order, whose hold has ended (R394). -/
def nextHeld (s : State) : Option Nat := s.bank.granted.find? (fun m => s.bank.held.contains m && !mustHold s (cmdOf s m))

/-- A held command whose hold has ended is applied before any later grant (R394). -/
def heldReady (s : State) : Bool := (nextHeld s).isSome

/-- A mailbox is a requester while OWN is 1 and it has not been granted (R392). -/
def requests (s : State) (m : Nat) : Bool :=
  LMbCtrl.OWN.on (s.mbox m).ctrl && !LMbCtrl.ACTIVE.on (s.mbox m).ctrl

/-- The mailbox that the service grants next, if any; held commands come first (R394). -/
def nextGrant (s : State) : Option Nat :=
  if heldReady s then none else (grant (requests s) s.bank.ptr 256).map (·.1)

/-- A long command (R393): BIND with OP LOAD or VARIANT_ADD, MOULD, PLAN, ATTEST. -/
def isLong (c : Cmd) : Bool :=
  match cmdOpcode c with
  | 0x0011 => LBindCmd.OP.get c.body == 1 || LBindCmd.OP.get c.body == 2
  | 0x0013 | 0x0030 | 0x0042 => true
  | _ => false

/-- Holds a granted command (R394). -/
def holdCmd (s : State) (m : Nat) : State :=
  let s := s.setMbox m { s.mbox m with ctrl := LMbCtrl.HELD.set (s.mbox m).ctrl 1 }
  { s with bank := { s.bank with held := s.bank.held ++ [m] } }

/-- Applies a granted command now or holds it (R394). -/
def applyOrHold (op : CmdOp) (c : Cmd) (s : State) : State :=
  if mustHold s c then holdCmd s (cmdMb c) else applyCmd op c false s

/-- A granted command of a row: applied or held; a long one while the three preparation cores are busy waits for one
(R393). -/
def serveRow (op : CmdOp) (c : Cmd) (s : State) : State :=
  if isLong c && decide (3 ≤ s.bank.prep.length) then { s with bank := { s.bank with prep := s.bank.prep ++ [cmdMb c] } }
  else applyOrHold op c s

/-- A row that is one mailbox command: it reaches its mailbox, and where the service grants that mailbox next (R24, R392,
R394) it is granted, and applied or held; else it waits in its mailbox for MAILBOX_GRANT. The row's own opcode and OP
(`sub`) must be in the words; the mailbox must be the host's (R387). -/
def cmdRow (opcode : Nat) (sub : Cmd → Bool) (op : CmdOp) (c : Cmd) : State → Host.Outcome State Fault Refusal :=
  act .banker (when
    (fun s => decide (c.seat < 64) && decide (c.mbox < 4) && cmdOpcode c == opcode && sub c &&
      !LMbCtrl.OWN.on (s.mbox (cmdMb c)).ctrl)
    (fun s => if nextGrant (present s c) = some (cmdMb c) then serveRow op c (grantMb (present s c) (cmdMb c)) else present s c))

/-- Operand fields of a pip word (R84). -/
def pipOp (w : W32) : Nat := LPipWord.OP.get w
def pipA (w : W32) : Nat := LPipWord.A.get w
def pipB (w : W32) : Nat := LPipWord.B.get w
def pipC (w : W32) : Nat := LPipWord.C.get w
def pipX (w : W32) : Nat := LPipWord.X.get w
/-- sext(X) and sext(IMM). -/
def pipSextX (w : W32) : W32 := (w.extractLsb' 0 14).signExtend 32
def pipSextImm (w : W32) : W32 := (w.extractLsb' 0 18).signExtend 32
def pipImm (w : W32) : Nat := LPipWord.IMM.get w

/-- A pip word as R84 and R85 allow it (the checks of E_PIPILL and E_PIPVERIFY). -/
def pipWordOk (w : W32) : Bool :=
  let a := pipA w
  let b := pipB w
  let c := pipC w
  let x := pipX w
  let noA := a == 0
  let noB := b == 0
  let noC := c == 0
  let noX := x == 0
  match pipOp w with
  | 0x01 | 0x02 => noA && noB && noC && noX
  | 0x04 | 0x05 | 0x06 | 0x07 | 0x08 | 0x09 | 0x0A | 0x0B | 0x13 | 0x14 | 0x15 | 0x16 => noX
  | 0x0C | 0x0D | 0x11 | 0x12 => true
  | 0x0E | 0x0F => decide (pipImm w < 32)
  | 0x10 => noB
  | 0x17 => noC && noX
  | 0x18 | 0x19 | 0x1A | 0x1B => noC
  | 0x1C => noB && noC && x % 256 != 0
  | 0x20 => noC && decide (1 ≤ x) && decide (x ≤ 512)
  | 0x21 => noC && noX
  | 0x24 => decide (a < 8) && noC && decide (x / 4 % 8 < 3) && (x / 32 % 2 == 0 || x / 4 % 8 == 2) &&
      (x / 4 % 8 != 1 || a % 2 == 0) && x / 64 % 16 == 0
  | 0x25 => decide (a < 8) && noB && noC && decide (x < 4)
  | 0x26 => decide (a < 8) && noB && noC && noX
  | 0x27 | 0x28 | 0x29 | 0x2A => decide (a < 8) && decide (b < 8) && decide (c < 8) && noX
  | 0x2B | 0x2C | 0x30 => decide (a < 8) && decide (b < 8) && noX
  | 0x2D => decide (a < 8) && decide (b < 8) && noC && noX
  | 0x2E | 0x2F => decide (b < 8) && noC && noX
  | 0x31 | 0x32 => decide (a < 8) && noC
  | 0x38 => decide (1 ≤ x) && decide (x ≤ 16)
  | _ => false

end Sys2Proof.Machine
end

