-- ==== Sys2Proof/Machine/Ingot.lean ====
section
/-! DEFINITION. Ingots: where a byte lives, locked pages and the deferral buffer, accesses from outside as they reach a
memory (03_ingots.md, 19_reliability.md). -/

namespace Sys2Proof.Machine

/-! ## Where a byte lives (R55, R56) -/

/-- The page of an ingot offset, its bank group, and the pip of a page. -/
def offPage (off : Nat) : Nat := off / 16384
def pageBg (page : Nat) : Nat := page % 384
def pagePip (ingot page : Nat) : Nat := ingot * 384 + page % 384
def pageKey (ingot page : Nat) : Nat := ingot * ingotSize + page * 16384
def ingotPages : Nat := 3145728

/-- A storage location of an ingot (R55). -/
structure Loc where
  die : Nat
  bg : Nat
  bank : Nat
  row : Nat
  col : Nat
  channel : Nat
  deriving DecidableEq, Repr

/-- Where the byte at an ingot offset is stored (R55, R56). -/
def locOf (off : Nat) : Loc :=
  let q := pageBg (offPage off)
  { die := q / 32, bg := q % 32, bank := off / 2048 % 4, row := 2 * (offPage off / 384) + off / 8192 % 2,
    col := off % 2048, channel := q % 96 }

def isT2 (k : Nat) : Bool := decide (k < hmBase)

/-! ## Locks and the deferral buffer (R65 to R70) -/

def pageLocks (x : Ingot) (page : Nat) : List Lock := Tab.get x.locks [] page
def pageLocked (x : Ingot) (page : Nat) : Bool := !(pageLocks x page).isEmpty

/-- Distinct holders of a page's locks (R65). -/
def lockHolders (x : Ingot) (page : Nat) : List (Nat × Nat) :=
  ((pageLocks x page).map (fun l => (l.chip, l.cluster))).eraseDups

/-- May an issuer lock the page: it holds it already, or fewer than 15 others do? -/
def canLock (x : Ingot) (page chip cluster : Nat) : Bool :=
  (lockHolders x page).contains (chip, cluster) || decide ((lockHolders x page).length < 15)

/-- A lock on a page; writes deferred on it that were ready are external writes to a locked page again (R67; DEDUCED, log
entry 99). -/
def addLock (x : Ingot) (page : Nat) (l : Lock) : Ingot :=
  { x with locks := Tab.set x.locks [] page (pageLocks x page ++ [l]),
           defer := x.defer.map (fun d => if d.page = page then { d with ready := false } else d) }

/-- Keeps the locks that `p` accepts; the writes deferred on a page whose last lock goes become ready (R69). -/
def keepLocks (x : Ingot) (p : Nat → Lock → Bool) : Ingot :=
  let locks := x.locks.filterMap (fun e =>
    let l := e.2.filter (p e.1)
    if l.isEmpty then none else some (e.1, l))
  { x with locks := locks,
           defer := x.defer.map (fun d => if (Tab.get locks [] d.page).isEmpty then { d with ready := true } else d) }

/-- The bytes an external read returns: the deferred write last placed where one overlaps (R67). -/
def viewByte (s : State) (k : Nat) : Byte :=
  if isT2 k then
    let off := k % ingotSize
    match ((s.ingot (k / ingotSize)).defer.filter (fun d =>
        d.page == offPage off && decide (d.off ≤ off % 16384) && decide (off % 16384 < d.off + d.bytes.length))).getLast? with
    | some d => d.bytes.getD (off % 16384 - d.off) 0#8
    | none => memByte s k
  else memByte s k

def viewBytes (s : State) (k n : Nat) : List Byte := (List.range n).map (fun i => viewByte s (k + i))

/-- The number in a range as an external read sees it. -/
def viewNat (s : State) (k n : Nat) : Nat := ofBytes (viewBytes s k n)

/-- Is the whole range in the deferral buffer, so that it is served from there? -/
def viewDeferred (s : State) (k n : Nat) : Bool :=
  (List.range n).all (fun i =>
    let off := (k + i) % ingotSize
    (s.ingot ((k + i) / ingotSize)).defer.any (fun d =>
      d.page == offPage off && decide (d.off ≤ off % 16384) && decide (off % 16384 < d.off + d.bytes.length)))

/-- Are uncorrectable words among those that an external read of a range meets at the bank: words that no deferred write covers
whole (R67, R73)? -/
def uncorrSeen (s : State) (k n : Nat) : Bool := (badWords s k n).any (fun w => !(isT2 w && viewDeferred s w 8))

/-- A write cut where 64-byte blocks begin. -/
def pieces (k : Nat) (bs : List Byte) : Nat → List (Nat × List Byte)
  | 0 => []
  | n + 1 =>
    if bs.isEmpty then []
    else (k, bs.take (64 - k % 64)) :: pieces (k + (64 - k % 64)) (bs.drop (64 - k % 64)) n

def piecesOf (k : Nat) (bs : List Byte) : List (Nat × List Byte) := pieces k bs (bs.length / 64 + 2)

def lockedAt (s : State) (k : Nat) : Bool :=
  isT2 k && pageLocked (s.ingot (k / ingotSize)) (offPage (k % ingotSize))

/-- Does the deferral buffer have room for one write of at most 64 bytes within a page: a pip's store (R68, R89)? -/
def deferRoomOne (s : State) (k : Nat) : Bool := !lockedAt s k || decide ((s.ingot (k / ingotSize)).defer.length < 512)

/-- Does the deferral buffer have room for the pieces of a write to locked pages (R68)? -/
def deferRoom (s : State) (k : Nat) (bs : List Byte) : Bool :=
  (List.range 16).all (fun i =>
    decide ((s.ingot i).defer.length +
      ((piecesOf k bs).filter (fun e => lockedAt s e.1 && e.1 / ingotSize == i)).length ≤ 512))

/-- The bytes of the words that a range touches. -/
def wordSpan (k n : Nat) : Nat := (k % 8 + n + 7) / 8 * 8

/-- A write performed at a memory. One that fills no whole words reads, corrects and re-encodes the words it touches,
and is not performed over an uncorrectable one (R71, R72, R470). -/
def memWrite (s : State) (k : Nat) (bs : List Byte) (seat : Nat) : State × Nat :=
  let lo := k / 8 * 8
  let n := wordSpan k bs.length
  if partialUncorr s k bs.length then (noteUncorr s lo n 0 seat none, St.uncorr)
  else if k % 8 = 0 && bs.length % 8 == 0 then (writeMem s k bs, St.ok)
  else (writeMem (clearCorr (countCorr s lo n false) lo n) k bs, St.ok)

/-- Puts an access at the end of an external queue (R61). -/
def pushExt (s : State) (i bg : Nat) (e : ExtEnt) : State :=
  updBankGroup s i bg (fun x =>
    { x with queues := Tab.set x.queues [] e.req.queue (Tab.get x.queues [] e.req.queue ++ [e]) })

/-- The grants that an access to a range of a page of T2 takes in a queue of its bank group, beside its data (R59, R61). -/
def pushPart (s : State) (q k n : Nat) (write : Bool) : State :=
  pushExt s (k / ingotSize) (pageBg (offPage (k % ingotSize)))
    ⟨⟨q, 0, k % ingotSize, n, write, 0#512⟩, .mover, cdiv n 64⟩

/-- Performs, in order, the ready writes deferred on a page ahead of a tile mover's write to it; each takes its external grant
(R69, R72, R79). -/
def drainPage (s : State) (ingot page : Nat) : State :=
  let ds := (s.ingot ingot).defer.filter (fun d => d.page == page && d.ready)
  let s := s.updIngot ingot (fun x => { x with defer := x.defer.filter (fun d => !(d.page == page && d.ready)) })
  ds.foldl (fun s d =>
    (memWrite (pushPart s 1 (pageKey ingot page + d.off) d.bytes.length true) (pageKey ingot page + d.off) d.bytes 0).1) s

/-- Places a write in the deferral buffer (R67). -/
def deferWrite (s : State) (i page off : Nat) (bs : List Byte) : State :=
  (s.updIngot i (fun x => { x with defer := x.defer ++ [⟨page, off, bs, false⟩] })).countIngot i 0x068 1

/-- One write of at most 64 bytes from outside, within a page: deferred on a locked page, else performed after the page's
ready writes. -/
def writePiece (s : State) (k : Nat) (bs : List Byte) (seat : Nat) : State :=
  if isT2 k then
    let i := k / ingotSize
    let page := offPage (k % ingotSize)
    if pageLocked (s.ingot i) page then deferWrite s i page (k % 16384) bs
    else (memWrite (drainPage s i page) k bs seat).1
  else (memWrite s k bs seat).1

/-! ## External accesses as a whole (R58, R66, R67, R71 to R73, R76, R483) -/

def govMode (s : State) (i : Nat) : Nat := LGovSt.MODE.get (s.ingot i).gov
def chanLost (s : State) (i bg : Nat) : Bool := LLaneSt.LOST.on (Tab.get (s.ingot i).lanes laneReset (bg % 96))

/-- The first keys of the pages of T2 that a range touches. -/
def pagesOf (k n : Nat) : List Nat :=
  if isT2 k && n != 0 then (List.range ((k + n - 1) / 16384 - k / 16384 + 1)).map (fun j => (k / 16384 + j) * 16384) else []

/-- Can a page not be reached: its stack has tripped (R76), or its channel is lost (R483)? -/
def pageStatus (s : State) (k n : Nat) : Nat :=
  firstFail [
    ((pagesOf k n).any (fun p => govMode s (p / ingotSize) == 3), St.thermal),
    ((pagesOf k n).any (fun p => chanLost s (p / ingotSize) (pageBg (offPage (p % ingotSize)))), St.link)]

/-- Why an access that a seat's windows allow cannot be performed at its memory. -/
def extStatus (s : State) (k n : Nat) (write : Bool) : Nat :=
  firstFail [
    (pageStatus s k n != St.ok, pageStatus s k n),
    (if write then partialUncorr s k n && !lockedAt s k else uncorrSeen s k n, St.uncorr)]

/-- Reads by address from outside: status, data, and the state with what the decoder counted and rewrote. A read served
from the deferral buffer meets no decoder. -/
def extRead (s : State) (k n seat : Nat) : State × Nat × List Byte :=
  let st := extStatus s k n false
  if st = St.uncorr then (noteUncorr s k n 0 seat none, st, [])
  else if st ≠ St.ok then (s, st, [])
  else (if isT2 k && viewDeferred s k n then s else noteCorr s k n false, st, viewBytes s k n)

/-- Writes by address from outside; a caller has checked `deferRoom`. -/
def extWrite (s : State) (k : Nat) (bs : List Byte) (seat : Nat) : State × Nat :=
  let st := extStatus s k bs.length true
  if st = St.uncorr then (noteUncorr s (k / 8 * 8) (wordSpan k bs.length) 0 seat none, st)
  else if st ≠ St.ok then (s, st)
  else ((piecesOf k bs).foldl (fun s e => writePiece s e.1 e.2 seat) s, st)

/-! ## Copies by a tile mover (R61, R66 to R69, R79): the data moves at once, its grants come in their turn (log entry 67) -/

/-- Does a write of a range meet a full deferral buffer (R68)? -/
def moverWaits (s : State) (dst n : Nat) : Bool :=
  (pagesOf dst n).any (lockedAt s) && !deferRoom s dst (readBytes s dst n)

/-- Has the range no page that is locked or has deferred writes? -/
def noDefer (s : State) (k n : Nat) : Bool :=
  (pagesOf k n).all (fun p =>
    !lockedAt s p && !(s.ingot (p / ingotSize)).defer.any (fun d => d.page == offPage (p % ingotSize)))

/-- Why a tile mover cannot read one range and write another of this device (R76, R483). -/
def moverStatus (s : State) (src dst n : Nat) : Nat :=
  firstFail [(pageStatus s src n != St.ok, pageStatus s src n), (pageStatus s dst n != St.ok, pageStatus s dst n)]

/-- The parts of a range page by page: first key and length. -/
def pageParts (k n : Nat) : List (Nat × Nat) :=
  (pagesOf k n).map (fun p => (max k p, min (k + n) (p + 16384) - max k p))

def isT1 (k : Nat) : Bool := decide (hmBase ≤ k) && decide (k < sramBase)
def hmDie (k : Nat) : Nat := (k - hmBase) / 0x80000000

/-- The grants of an access to a range of T2 in an external queue, page by page, but for what the deferral buffer takes (R61, R67). -/
def pushPages (s : State) (q k n : Nat) (write : Bool) : State :=
  ((pageParts k n).filter (fun e => !(write && lockedAt s e.1))).foldl (fun s e => pushPart s q e.1 e.2 write) s

/-- The grants of a copy's access to a range: in T2 in queue 0 or 1, but for what the deferral buffer takes (R61, R67); in T1 at
the port of its base die, as class and requester `who` of R254. -/
def pushGrants (s : State) (who : Nat × Nat) (k n : Nat) (write : Bool) : State :=
  if isT1 k then
    s.updHmPort (hmDie k) (fun x => { x with waits := x.waits ++
      [⟨who.1, if who.1 = 1 then b2n (!write) else who.2, k, ⟨⟨0, 0, 0, n, write, 0#512⟩, .mover, 1⟩⟩] })
  else pushPages s (b2n write) k n write

/-- A tile mover's write that a full deferral buffer holds stands at the head of queue 1, once (R68). -/
def blockMover (s : State) (dst n : Nat) : State :=
  match (pagesOf dst n).find? (lockedAt s) with
  | none => s
  | some p =>
    let k := max dst p
    let i := k / ingotSize
    let bg := pageBg (offPage (k % ingotSize))
    let e : ExtEnt := ⟨⟨1, 0, k % ingotSize, n, true, 0#512⟩, .blocked, 1⟩
    if (Tab.get (bankGroup s i bg).queues [] 1).contains e then s else pushExt s i bg e

/-- A write of whole words from outside of any length; it is not performed at an ingot that has tripped or a channel that is
lost (R76, R483). -/
def moverWrite (s : State) (who : Nat × Nat) (dst : Nat) (bs : List Byte) : State :=
  if pageStatus s dst bs.length ≠ St.ok then s
  else
    let s := pushGrants s who dst bs.length true
    if noDefer s dst bs.length then writeMem s dst bs
    else (piecesOf dst bs).foldl (fun s e => writePiece s e.1 e.2 0) s

/-- A tile mover copies a range: it reads what external reads see, and its writes to locked pages are deferred. -/
def moverCopy (s : State) (who : Nat × Nat) (src dst n : Nat) : State :=
  if moverStatus s src dst n ≠ St.ok then s
  else
    let s := pushGrants (pushGrants s who src n false) who dst n true
    if noDefer s src n && noDefer s dst n then copyMem s src dst n
    else (piecesOf dst (viewBytes s src n)).foldl (fun s e => writePiece s e.1 e.2 0) s

end Sys2Proof.Machine
end

