-- ==== Sys2Proof/Machine/Fabric.lean ====
section
/-! DEFINITION. The torus: coordinates, live coordinates, the comparison of ports, route tables, packets and their way
(13_fabric.md, 14_slices.md). -/

namespace Sys2Proof.Machine

/-! ## Identity digest (R436, R437) -/

def identBytes (s : State) : List Byte :=
  (List.range 216).flatMap (fun r => bytesOf (Tab.get s.fuses.ident 0#128 r).toNat 16)

/-- The identity hash: SHA-256 of the 216 records. -/
def identHash (s : State) : BitVec 256 := sha256Nat (identBytes s)

/-- The identity digest: the hash's first 8 bytes. -/
def identDigest (s : State) : Nat := (identHash s).toNat % 2 ^ 64

/-! ## Coordinates (R324, R326, R353, R362, R363) -/

/-- A chip number's coordinate on axis a: 0 X, 1 Y, 2 Z. -/
def coord (chip a : Nat) : Nat := match a with
  | 0 => chip % 4
  | 1 => chip / 4 % 16
  | _ => chip / 64 % 64

/-- The chip number with another coordinate on axis a. -/
def withCoord (chip a v : Nat) : Nat := chip - coord chip a * [1, 4, 64].getD a 1 + v * [1, 4, 64].getD a 1

def ringLen (s : State) (a : Nat) : Nat := match a with
  | 0 => 4
  | 1 => LFabId.YLEN.get s.fab.fabId
  | _ => LFabId.ZLEN.get s.fab.fabId

def cutMask (s : State) : Nat := LSliceSt.CUT.get s.fab.slice

/-- The live coordinates of an axis, ascending. -/
def liveCoords (s : State) (a : Nat) : List Nat :=
  (List.range (ringLen s a)).filter (fun v => a != 1 || !(cutMask s).testBit v)

/-- Place of a coordinate among the live ones. -/
def livePos (l : List Nat) (v : Nat) : Option Nat := if l.contains v then some (l.idxOf v) else none

def portAxis (p : Nat) : Nat := p / 2
def portPlus (p : Nat) : Bool := p % 2 == 0
/-- The port of axis a in a direction. -/
def portOf (a : Nat) (plus : Bool) : Nat := 2 * a + b2n (!plus)
/-- The port that faces port p at the neighbour (R324). -/
def peerPort (p : Nat) : Nat := if p % 2 = 0 then p + 1 else p - 1
/-- The base die of a port (R324). -/
def portDie (p : Nat) : Nat := 1 + p / 2

/-- The chip that port p is to reach: the next live coordinate in its direction (R324, R362). -/
def neighbour (s : State) (p : Nat) : Option Nat :=
  let l := liveCoords s (portAxis p)
  (livePos l (coord (ownChip s) (portAxis p))).map (fun i =>
    withCoord (ownChip s) (portAxis p) (l.getD ((i + (if portPlus p then 1 else l.length - 1)) % l.length) 0))

/-- Does port p face a cut coordinate (R362)? -/
def facesCut (s : State) (p : Nat) : Bool :=
  let n := ringLen s 1
  portAxis p == 1 && n != 0 &&
  (cutMask s).testBit ((coord (ownChip s) 1 + (if portPlus p then 1 else n - 1)) % n)

/-! ## Discovery (R343 to R348) -/

def fabMode (s : State) : Nat := LFabId.MODE.get s.fab.fabId

/-- The PLAN record of a device: by digest, by place. -/
def planByDigest (s : State) (d : Nat) : Option (BitVec 128) := s.fab.plan.find? (fun r => LPlanRec.DIGEST.get r == d)
def planAt (s : State) (chip : Nat) : Option (BitVec 128) :=
  s.fab.plan.find? (fun r => LPlanRec.X.get r == coord chip 0 && LPlanRec.Y.get r == coord chip 1)

/-- Is the port marked as used (R346)? -/
def portUsed (s : State) (p : Nat) : Bool :=
  match fabMode s with
  | 1 => match planAt s (ownChip s) with
    | some r => (LPlanRec.USED.get r).testBit p
    | none => false
  | 2 => portAxis p == 0 || decide (1 < ringLen s (portAxis p))
  | _ => false

/-- The pair a used port expects: the neighbour's identity (digest in plan mode, chip in strap mode) and port; none on a
device without a place. -/
def expectedPair (s : State) (p : Nat) : Option (Nat × Nat) :=
  ((neighbour s p).filter (fun _ => haveChip s)).bind (fun c =>
    if fabMode s = 1 then (planAt s c).map (fun r => (LPlanRec.DIGEST.get r, peerPort p)) else some (c, peerPort p))

/-- What a port observes: the LINKID's identity and PORT. In strap mode a record of another mode or other ring lengths
identifies no device. -/
def observedPair (s : State) (p : Nat) : Option (Nat × Nat) :=
  ((s.port p).seen).bind (fun r =>
    if fabMode s = 1 then some (LLink.DIGEST.get r, LLink.PORT.get r)
    else if LLink.MODE.get r = 2 && LLink.YLEN.get r == ringLen s 1 && LLink.ZLEN.get r == ringLen s 2 then
      some (LLink.CHIP.get r, LLink.PORT.get r)
    else none)

/-- Another used port whose expected pair this port observes, and which observes this port's (R346). -/
def swapWith (s : State) (p : Nat) : Option Nat :=
  (List.range 6).find? (fun q => q != p && portUsed s q && (observedPair s p).isSome &&
    observedPair s p == expectedPair s q && (observedPair s q).isSome && observedPair s q == expectedPair s p)

/-- STATE and SWAP_WITH of a port by R346 and R362. A trained port that has no LINKID yet, or before any mode is set,
is TRAINED. -/
def portCompare (s : State) (p : Nat) : Nat × Nat :=
  let t := (s.port p).trained
  if fabMode s = 0 then (b2n t, 0)
  else if !portUsed s p then (if t then 4 else 0, 0)
  else if !t then (if facesCut s p then 0 else 3, 0)
  else
    match (s.port p).seen with
    | none => (1, 0)
    | some r =>
      if (observedPair s p).isSome && observedPair s p == expectedPair s p then (2, 0)
      else
        match swapWith s p with
        | some q => (5, q)
        | none => if fabMode s = 1 && (planByDigest s (LLink.DIGEST.get r)).isNone then (7, 0) else (6, 0)

def portState (s : State) (p : Nat) : Nat := LPortSt.STATE.get (s.port p).state
def isMatch (s : State) (p : Nat) : Bool := portState s p == 2

/-- PORT_STATE of a port (R348): held while it is trained and not MATCH, and before any place is known (R344, R346). -/
def portStateOf (s : State) (p : Nat) : BitVec 128 :=
  let c := portCompare s p
  let r := (s.port p).seen.getD 0#256
  setAll 0#128 [(LPortSt.STATE, c.1), (LPortSt.SWAP_WITH, c.2), (LPortSt.HELD, b2n (fabMode s == 0 || ((s.port p).trained && c.1 != 2))),
    (LPortSt.NB_CHIP, LLink.CHIP.get r), (LPortSt.NB_VALID, LLink.VALID.get r), (LPortSt.NB_PORT, LLink.PORT.get r),
    (LPortSt.NB_MODE, LLink.MODE.get r), (LPortSt.NB_DIGEST, LLink.DIGEST.get r)]

/-! ## Route tables (R336, R337, R359, R363) -/

/-- The entry for coordinate d over a list of live coordinates, from own coordinate c (R337). `ok`: a port is MATCH. -/
def ringEntry (l : List Nat) (c d : Nat) (a : Nat) (ok : Nat → Bool) : Nat :=
  match livePos l c, livePos l d with
  | some i, some j =>
    let n := l.length
    if i = j then 3
    else
      let plusNear := decide ((j + n - i) % n ≤ (i + n - j) % n)
      if ok (portOf a plusNear) then (if plusNear then 1 else 2)
      else if ok (portOf a (!plusNear)) then (if plusNear then 2 else 1) else 0
  | _, _ => 0

def sliceState (s : State) : Nat := LSliceSt.STATE.get s.fab.slice

def blockOrigin (w : BitVec 128) (a : Nat) : Nat := match a with
  | 0 => LSliceSt.X0.get w
  | 1 => LSliceSt.Y0.get w
  | _ => LSliceSt.Z0.get w

def blockLen (w : BitVec 128) (a : Nat) : Nat := match a with
  | 0 => LSliceSt.NX.get w
  | 1 => LSliceSt.NY.get w
  | _ => LSliceSt.NZ.get w

/-- The coordinates of a block on an axis: consecutive live ones from its origin, wrapping (R353). -/
def blockCoords (s : State) (w : BitVec 128) (a : Nat) : List Nat :=
  let l := liveCoords s a
  match livePos l (blockOrigin w a) with
  | some i => (List.range (blockLen w a)).map (fun k => l.getD ((i + k) % l.length) 0)
  | none => []

def blockWraps (w : BitVec 128) (a : Nat) : Bool := (LSliceSt.WRAP.get w).testBit a

/-- The entry for coordinate d on axis a (R337; in a slice that does not wrap the axis, R359). -/
def routeEntry (s : State) (a d : Nat) : Nat :=
  let c := coord (ownChip s) a
  let blk := blockCoords s s.fab.slice a
  if sliceState s != 0 && !blockWraps s.fab.slice a && blk.contains d && blk.contains c then
    (if d = c then 3 else if blk.idxOf c < blk.idxOf d then 1 else 2)
  else ringEntry (liveCoords s a) c d a (isMatch s)

/-- All three tables (R336); all 0 before discovery completes. -/
def routesOf (s : State) : BitVec 192 :=
  if haveChip s then
    BitVec.ofNat 192 (
      ((List.range 4).map (fun c => routeEntry s 0 c * 4 ^ c)).foldl (· + ·) 0 +
      ((List.range 16).map (fun c => routeEntry s 1 c * 4 ^ c)).foldl (· + ·) 0 * 2 ^ 8 +
      ((List.range 64).map (fun c => routeEntry s 2 c * 4 ^ c)).foldl (· + ·) 0 * 2 ^ 64)
  else 0#192

/-- The held entry for a coordinate. -/
def routeAt (s : State) (a d : Nat) : Nat :=
  (s.fab.routes.extractLsb' ([0, 8, 64].getD a 0 + 2 * d) 2).toNat

def setRoutes (s : State) : State := { s with fab := { s.fab with routes := routesOf s } }

/-! ## Packets (R327 to R342) -/

/-- Does a TYPE have a response, and which: 6 ACK, 7 RESPONSE (R328)? -/
def respType (t : Nat) : Option Nat :=
  if t = 1 || t = 3 || t = 4 then some 7 else if t = 2 || t = 5 || t = 8 || t = 9 then some 6 else none

/-- A UNIT of the kinds of R327 with a number that R12, and the one banker and the one Avkin link, allow. -/
def unitOk (u : Nat) : Bool :=
  match u / 4096 with
  | 0 => decide (u < 256)
  | 1 => decide (u % 4096 < 32)
  | 2 => decide (u % 4096 < 4)
  | 3 => u % 4096 == 0
  | 4 => u % 4096 == 0
  | _ => false

/-- A field out of range (R327, R331). -/
def pktRange (p : Packet) : Bool :=
  let t := LPkt.TYPE.get p.hdr
  decide (LPkt.PLEN.get p.hdr ≤ 8) &&
  (t == 1 || t == 2 || LPkt.SIZE.get p.hdr == 0) &&
  (if t = 3 then decide (LPkt.AOP.get p.hdr < 4) else LPkt.AOP.get p.hdr == 0) &&
  (t == 6 || t == 7 || LPkt.STATUS.get p.hdr == 0) &&
  (if t = 4 then decide (1 ≤ LPkt.BLEN.get p.hdr) && decide (LPkt.BLEN.get p.hdr ≤ 256)
   else if t = 5 then decide (LPkt.BLEN.get p.hdr ≤ 256) else LPkt.BLEN.get p.hdr == 0) &&
  unitOk (LPkt.UNIT.get p.hdr)

/-- A packet that a router discards (R329); LINKID is never forwarded. -/
def pktBad (p : Packet) : Bool :=
  let t := LPkt.TYPE.get p.hdr
  decide (t = 0) || decide (t > 9) || !rsvZero LPkt.rsv p.hdr || !pktRange p

/-- The response or ACK to a packet (R328, R334, R339): same class, tag, unit and number, back to its source. Its SRC is the
packet's DEST, also where a router on the way answers in its place: the requester knows a request by unit, destination, class
and SEQ (R330; DEDUCED, log entry 98). -/
def answerTo (q : Packet) (status : Nat) (data : Nat) (plen : Nat) (payload : BitVec 4096) : Option Packet :=
  (respType (LPkt.TYPE.get q.hdr)).map (fun t =>
    ⟨setAll 0#256 [(LPkt.TYPE, t), (LPkt.CLASS, LPkt.CLASS.get q.hdr), (LPkt.DEST, LPkt.SRC.get q.hdr),
      (LPkt.SRC, LPkt.DEST.get q.hdr),
      (LPkt.STAG, LPkt.STAG.get q.hdr), (LPkt.SEAT, LPkt.SEAT.get q.hdr), (LPkt.PLEN, plen),
      (LPkt.UNIT, LPkt.UNIT.get q.hdr), (LPkt.SEQ, LPkt.SEQ.get q.hdr), (LPkt.ADDR, LPkt.ADDR.get q.hdr),
      (LPkt.STATUS, status), (LPkt.DATA, data)], payload⟩)

/-- The first axis on which two chips differ. -/
def firstAxis (a b : Nat) : Option Nat := (List.range 3).find? (fun k => coord a k != coord b k)

/-- The port by which a packet leaves (R338): straight on along its axis, or by the route table; a port that is not MATCH
carries none (R340, R347). `from`: the port it arrived on, 6 for this device's own. -/
def outPort (s : State) (src dest : Nat) : Option Nat :=
  ((firstAxis dest (ownChip s)).bind (fun a =>
    if decide (src < 6) && portAxis src == a then some (peerPort src)
    else
      match routeAt s a (coord dest a) with
      | 1 => some (portOf a true)
      | 2 => some (portOf a false)
      | _ => none)).filter (isMatch s)

/-- The virtual channel on the next hop (R341, R363): 0 on entering an axis, 1 from the dateline on. -/
def nextVc (s : State) (p : Packet) (src out : Nat) : Nat :=
  let l := liveCoords s (portAxis out)
  let c := coord (ownChip s) (portAxis out)
  let cross := if portPlus out then l.getLast? == some c else l.head? == some c
  if cross then 1 else if decide (src < 6) && portAxis src == portAxis out then LPkt.VC.get p.hdr else 0

/-- The base die of a unit (R10, R12, R327). -/
def unitDie (u : Nat) : Nat :=
  match u / 4096 with
  | 0 => u % 4096 / 64
  | 1 => u % 4096 / 8
  | 2 => u % 4
  | _ => 0

/-- The base die of the memory that an offset of this device names. -/
def memoryDie (off : Nat) : Nat :=
  if off < hmBase then off / ingotSize / 4
  else if off < sramBase then (off - hmBase) / 0x80000000
  else (off - sramBase) / 0x20000000 % 4

/-- The base die from which a packet of this device leaves: its unit's; of a response or an ACK, which carry the request's ADDR, the
memory's (R12, R328, R416). -/
def packetDie (p : Packet) : Nat :=
  if LPkt.TYPE.get p.hdr = 6 || LPkt.TYPE.get p.hdr = 7 then memoryDie (LPkt.ADDR.get p.hdr) else unitDie (LPkt.UNIT.get p.hdr)

/-- The router input port, at an output, of a packet that arrived on port `src` or comes from base die `die` (R342): 0 this base die,
1 to 3 the others ascending, 4 and 5 the base die's plus and minus links. -/
def routerInput (src die out : Nat) : Nat :=
  let own := portDie out
  if decide (src < 6) && portDie src == own then 4 + src % 2
  else
    let d := if src < 6 then portDie src else die
    if d = own then 0 else if d < own then d + 1 else d

/-- A chip that packets of this device can reach now. -/
def reachable (s : State) (chip : Nat) : Bool := chip == ownChip s || (haveChip s && (outPort s 6 chip).isSome)

/-- Is there a route to an address (R338)? -/
def routed (s : State) (a : Nat) : Bool :=
  match placeOf s a with
  | .chip c _ => reachable s c
  | _ => true

/-! ## Seat admission stages (R416) -/

/-- One admission over what waits in a stage: what is admitted, and the stage after it. -/
def admitOneOf {α : Type} [DecidableEq α] (seatOf : α → Nat) (w : Nat → Nat) (st : Stage α) : Option (α × Stage α) :=
  let hi := st.waiting.filter (fun x => decide (1 ≤ w (seatOf x)))
  let cls := if hi.isEmpty then st.waiting else hi
  match pick (fun n => cls.any (fun x => seatOf x == n)) (if hi.isEmpty then st.ptrLow else st.ptrHigh) 64 with
  | none => none
  | some n =>
    (cls.find? (fun x => seatOf x == n)).map (fun x =>
      let rest := st.waiting.erase x
      let run := if n = st.ptrHigh then st.run + 1 else 1
      let next : Stage α :=
        if hi.isEmpty then { st with waiting := rest, ptrLow := (n + 1) % 64 }
        else if run ≥ w n || !rest.any (fun y => seatOf y == n) then { st with waiting := rest, ptrHigh := (n + 1) % 64, run := 0 }
        else { st with waiting := rest, ptrHigh := n, run := run }
      (x, next))

/-- Puts a packet into a port's output queue (R342). -/
def queuePacket (s : State) (src out : Nat) (p : Packet) : State :=
  s.updPort out (fun x => { x with queue := x.queue ++
    [(routerInput src (packetDie p) out, { p with hdr := LPkt.VC.set p.hdr (nextVc s p src out) })] })

/-- The port at whose router a packet without a route counts: the one it arrived on; for a packet of this device, the plus port
of the axis that it was to enter (R340, R352; the manual does not say which: DESIGN CHOICE, log entry 97). -/
def lostPort (s : State) (p : Packet) (src : Nat) : Nat :=
  if src < 6 then src
  else match firstAxis (LPkt.DEST.get p.hdr) (ownChip s) with
    | none => src
    | some a => portOf a true

/-- Counts a packet that the router drops (R340, R352). -/
def countNoroute (s : State) (src : Nat) (p : Packet) : State := s.countPort (lostPort s p src) 0x028 1

def bulkStage (s : State) (d : Nat) : Stage Packet := Tab.get s.fab.stages Stage.reset d
def setBulkStage (s : State) (d : Nat) (x : Stage Packet) : State :=
  { s with fab := { s.fab with stages := Tab.set s.fab.stages Stage.reset d x } }

/-- A bulk-class packet waits in its base die's stage (R416). -/
def stagePacket (s : State) (d : Nat) (p : Packet) : State :=
  setBulkStage s d { bulkStage s d with waiting := (bulkStage s d).waiting ++ [p] }

/-- Sends an answer of this device on its way, in the bulk class through its base die's stage (R416); one without a route is lost,
and counted. An answer to this device's own chip needs no link. -/
def sendPacket (s : State) (p : Packet) : State :=
  match outPort s 6 (LPkt.DEST.get p.hdr) with
  | some out => if LPkt.CLASS.get p.hdr = 3 then stagePacket s (packetDie p) p else queuePacket s 6 out p
  | none => if LPkt.DEST.get p.hdr = ownChip s then s else countNoroute s 6 p

/-- Sends the answer to a packet, if its type has one. -/
def answer (s : State) (q : Packet) (status : Nat) (data : Nat) : State :=
  match answerTo q status data 0 0#4096 with
  | some a => sendPacket s a
  | none => s

/- Places of the counters of a binding in the order of TALLY (R405). -/
namespace BC
def riserShort : Nat := 0
def runShort : Nat := 1
def flushes : Nat := 2
def flushWait : Nat := 3
def idxHit : Nat := 4
def idxMiss : Nat := 5
def idxCollide : Nat := 6
def idxReflimit : Nat := 7
def idxFull : Nat := 8
def idxDup : Nat := 9
def runDeferred : Nat := 10
def attnDesc : Nat := 11
def attnRemote : Nat := 12
def colFetched : Nat := 13
def maskLate : Nat := 14
def emptyRows : Nat := 15
def mergeTimeout : Nat := 16
def colMissing : Nat := 17
def inboxWait : Nat := 18
def stallT1 : Nat := 19
def stallRelease : Nat := 23
def tierFault : Nat := 24
def parkRefused : Nat := 25
def evictExpired : Nat := 26
def admitted : Nat := 27
def endEos : Nat := 28
def ringFull : Nat := 33
def draftCut : Nat := 34
def ringBad : Nat := 35
def promptWait : Nat := 36
def holdPauses : Nat := 37
def closes : Nat := 38
def negSlack : Nat := 39
def overBudget : Nat := 40
def shareCap : Nat := 41
def leftoverTokens : Nat := 42
def widthOut : Nat := 43
def sampledRows : Nat := 44
def sampleBad : Nat := 45
def grammarLate : Nat := 46
def maskEmpty : Nat := 47
def nanLogit : Nat := 48
def toppWide : Nat := 49
def draftLate : Nat := 50
def draftBad : Nat := 51
def draftTokens : Nat := 52
def draftAccepted : Nat := 53
def draftZero : Nat := 54
def draftSuspend : Nat := 55
def leadDiscard : Nat := 56
def abandons : Nat := 57
end BC

/-! ## Requests of this device's units that end (R330, R334, R335) -/

/-- Device counters of R260 by place. -/
def dcMoveTiles : Nat := 0
def dcWbTiles : Nat := 1
def dcDropClean : Nat := 2
def dcMoveHold : Nat := 3
def dcSharedDraw : Nat := 4
def dcParkIn : Nat := 5
def dcParkEvict : Nat := 6
def dcParkStale : Nat := 7

def entSlot (e : TEnt) : Nat := LLenEnt.SLOT.get e.len

/-- Marks a FAULT of one entry for the commit point; the first mark stays. -/
def TEnt.fail (e : TEnt) (detail : Nat) : TEnt := if e.fault = 0 then { e with fault := detail } else e

/-- A request that R256 ends is counted under TIER_FAULT, once. -/
def countTier (s : State) (b slot : Nat) : State :=
  if (s.rx slot).tierHit then s else (s.updRx slot (fun x => { x with tierHit := true })).countBind b BC.tierFault 1


def ownTag (s : State) : Nat := LFabId.STAG.get s.fab.fabId

def seqSlot (unit dest cls : Nat) : Nat := (unit * 4096 + dest) * 4 + cls

/-- The SEQ x lies at or below y, modulo 65,536. -/
def seqLe (x y : Nat) : Bool := decide ((y + 65536 - x % 65536) % 65536 < 32768)

/-- Fences whose unit has nothing outstanding complete (R335). -/
def settleFences (s : State) : State :=
  let ended := s.fab.fences.filter (fun f => !s.fab.outstanding.any (fun r => r.unit == f.unit))
  let s := { s with fab := { s.fab with fences := s.fab.fences.filter (fun f =>
    s.fab.outstanding.any (fun r => r.unit == f.unit)) } }
  ended.foldl (fun s f => s.emit (.done f.unit 0x10000 f.status [])) s

/-- A fabric engine's step in progress learns that a request of it failed (R351). -/
def noteColl (t : Tab (Option CollRun)) (r : FabReq) (status : Nat) : Tab (Option CollRun) :=
  if status = St.ok || r.serves.isSome then t
  else t.map (fun e => (e.1, if r.unit = 0x2000 + e.1 then e.2.map (fun x => { x with failed := true }) else e.2))

/-- Is a request's status one with which R256 gives it up? -/
def givenUp (status : Nat) : Bool := [St.noroute, St.link, St.timeout].contains status

/-- A tile move whose request failed brings no tile (R181); a weight tile's that is given up is noted (R256). -/
def lostTiles (s : State) (r : FabReq) (status : Nat) : State :=
  let q := (r.dest, r.cls, r.seq)
  let x := s.core r.unit
  if x.fills.contains (some q) || x.moves.any (fun m => m.2.2.contains q) then
    s.updCore r.unit (fun x => { x with
      fills := x.fills.filter (· != some q), moves := x.moves.filter (fun m => !m.2.2.contains q),
      lost := x.lost || (x.fills.contains (some q) && givenUp status) })
  else s

/-- DETAIL of the FAULT of an entry whose dispatch packet completes with a status of failure (R94, R169, R170, R256). -/
def servedDetail (status : Nat) : Nat := if givenUp status then 2 else 1

/-- A dispatch packet of a control core has failed: the request that it served ends with FAULT at the commit point, under
TIER_FAULT where the fabric lost it (R169, R256). -/
def failServed (s : State) (b en status : Nat) : State :=
  match (s.bind b).turn[en]? with
  | none => s
  | some e =>
    if e.fault ≠ 0 then s
    else
      let d := servedDetail status
      let s := s.updBind b (fun x => { x with turn := x.turn.map (fun f => if entSlot f == entSlot e then f.fail d else f) })
      if d = 2 then countTier s b (entSlot e) else s

/-- A tile's copy that the fabric ends with E_NOROUTE or E_LINK has been given up: STATUS takes E_TIMEOUT (R237, R256). -/
def tileFailure (status : Nat) : Nat := if status = St.noroute || status = St.link then St.timeout else status

def firstStatus (old new' : Nat) : Nat := if old = St.ok then new' else old

/-- An operation issues no further tile (R237). -/
def failTile (s : State) (n st : Nat) : State :=
  s.updOx n (fun x => { x with failed := firstStatus x.failed (tileFailure st), todo := [] })

def failRun (col status : Nat) (l : List RunCopy) : List RunCopy :=
  l.map (fun r => if r.col == col then { r with failed := firstStatus r.failed status } else r)

def failCopy (slot col status : Nat) (l : List Copy) : List Copy :=
  l.map (fun c => if c.slot == slot && c.col == col then { c with failed := firstStatus c.failed status } else c)

/-- A response takes the first status of failure of what it awaits. -/
def failReply (mb status : Nat) (l : List LateRsp) : List LateRsp :=
  l.map (fun r => if r.mbox == mb then { r with status := firstStatus r.status status } else r)

/-- A request to another chip that served a copy, an entry or a response has failed. -/
def jobFail (s : State) (j : Job) (status : Nat) : State :=
  match j with
  | .entry b en => failServed s b en status
  | .tile o _ => failTile s o status
  | .park slot col => s.updRx slot (fun x => { x with parks := failRun col status x.parks })
  | .back slot col => s.updRx slot (fun x => { x with returns := failRun col status x.returns })
  | .lane b slot col _ => s.updBind b (fun x => { x with
      flushes := failCopy slot col status x.flushes, seeds := failCopy slot col status x.seeds, tails := failCopy slot col status x.tails })
  | .reply mb => { s with bank := { s.bank with late := failReply mb status s.bank.late } }

/-- Does a request to another chip still serve a job? -/
def jobOpen (s : State) (p : Job → Bool) : Bool :=
  s.fab.outstanding.any (fun r => r.serves.any p) || s.fab.held.any (fun h => h.req.serves.any p)

/-- One tile of an object's operation is complete at its destination (R237, R244, R260): it counts, and its request's
tier_timeout starts anew. -/
def tileDone (s : State) (n : Nat) : State :=
  ((s.countDev (if (s.ox n).op ≥ 3 then dcWbTiles else dcMoveTiles) 1).updObj n [(LObj.DONE, LObj.DONE.get (s.obj n) + 1)]).updOx n
    (fun x => { x with due := now s + tierTimeout s })

/-- The last request to another chip that served a tile is complete: a tile fetched from T3 comes clean, for T3 has no dirty bits
(R242). -/
def jobDone (s : State) (r : FabReq) (j : Job) : State :=
  match j with
  | .tile o _ =>
    if (!r.posted && decide (2 ^ 53 ≤ r.dst)) || jobOpen s (· == j) then s else
    let s := if !r.posted && decide (r.dst < sramBase) then { s with dirty := Tab.set s.dirty false (r.dst / 16384) false } else s
    tileDone s o
  | _ => s

/-- A request of a unit completes; a fence of the unit keeps the first failure. -/
def completeReq (s : State) (r : FabReq) (status : Nat) (data : List Byte) : State :=
  let fences := s.fab.fences.map (fun f => if f.unit = r.unit && f.status == St.ok then { f with status := status } else f)
  let s := { s with fab := { s.fab with outstanding := s.fab.outstanding.erase r, fences := fences,
                                        coll := noteColl s.fab.coll r status } }
  let s := match r.serves with
    | none => if status = St.ok then s else lostTiles s r status
    | some j => if status = St.ok then jobDone s r j else jobFail s j status
  settleFences (s.emit (.done r.unit r.seq status data))

/-- The outstanding request that a packet of this device belongs to: a put's last packet alone is awaited (R333). -/
def ownRequest (s : State) (p : Packet) : Option FabReq :=
  s.fab.outstanding.find? (fun r => r.unit == LPkt.UNIT.get p.hdr && r.dest == LPkt.DEST.get p.hdr &&
    r.cls == LPkt.CLASS.get p.hdr && (respType (LPkt.TYPE.get p.hdr) == some (if r.posted then 6 else 7)) &&
    (if r.posted then seqLe (LPkt.SEQ.get p.hdr) r.seq else r.seq == LPkt.SEQ.get p.hdr))

/-- Drops a packet that has no route or whose port left MATCH (R340): counted at the router and answered to SRC, where that is
this device by the end of its unit's request. -/
def dropPacket (s : State) (port : Nat) (p : Packet) (status : Nat) : State :=
  let s := countNoroute s port p
  if LPkt.SRC.get p.hdr = ownChip s then
    match ownRequest s p with
    | some r => completeReq s r status []
    | none => s
  else answer s p status 0

/-! ## Bulk-class packets of this device's units (R416) -/

def fabricWeight (s : State) (n : Nat) : Nat := LSeatCfg.W_FAB.get (s.seat n).cfg
/-- The fabric clock's count (R2). -/
def fcNow (s : State) : Nat := s.clk.ticks / 4

/-- A stage that has admitted none in this fc admits one packet onto the router; one that has lost its route is dropped. -/
def admitBulk (s : State) (d : Nat) : State :=
  if fcNow s < (bulkStage s d).free then s
  else
    match admitOneOf (fun p => LPkt.SEAT.get p.hdr) (fabricWeight s) (bulkStage s d) with
    | none => s
    | some (p, st) =>
      let s := setBulkStage s d { st with free := fcNow s + 1 }
      match outPort s 6 (LPkt.DEST.get p.hdr) with
      | some out => queuePacket s 6 out p
      | none => dropPacket s 6 p St.noroute

/-- A packet of a unit that has a route goes to its output: in the bulk class through its base die's stage. -/
def launchPacket (s : State) (out : Nat) (p : Packet) : State :=
  if LPkt.CLASS.get p.hdr = 3 then
    admitBulk (stagePacket s (packetDie p) p) (packetDie p)
  else queuePacket s 6 out p

/-! ## Requests that this device's units issue (R327, R330, R334, R335) -/

/-- May a unit issue now: no fence of it waits, and posted requests stay below R330's bound? -/
def mayIssue (s : State) (unit dest cls : Nat) (posted : Bool) : Bool :=
  !s.fab.fences.any (fun f => f.unit == unit) &&
  !(posted && decide (32768 ≤
    ((s.fab.outstanding.filter (fun r => r.unit == unit && r.dest == dest && r.cls == cls && r.posted)).map (·.span)).foldl (· + ·) 0))

/-- Do requests of the same unit, destination and class wait already (R334)? -/
def flowHeld (l : List HeldReq) (unit dest cls : Nat) : Bool :=
  l.any (fun h => h.req.unit == unit && h.req.dest == dest && h.req.cls == cls)

/-- A request leaves its unit. Of a put's packets the last alone is awaited (R333). -/
def launch (s : State) (h : HeldReq) : State :=
  let r : FabReq := { h.req with issued := now s, limit := tierTimeout s }
  let s := if h.tracked then { s with fab := { s.fab with outstanding := s.fab.outstanding ++ [r] } } else s
  match if haveChip s then outPort s 6 r.dest else none with
  | some out => launchPacket s out h.pkt
  | none =>
    let s := countNoroute s 6 h.pkt
    if h.tracked then completeReq s r St.noroute [] else s

/-- Issues one request to another chip, of whose operation it is the `span`-th packet; `posted` ones count against R330's
bound. What a unit may not issue yet waits. `mk` fills the packet's own fields. -/
def issueAs (s : State) (serves : Option Job) (tracked : Bool) (span unit dest cls seat : Nat) (posted : Bool)
    (dst left : Nat) (mk : List (Fld × Nat)) (payload : BitVec 4096) : State :=
  let n := Tab.get s.fab.seqs 0 (seqSlot unit dest cls)
  let p : Packet := ⟨setAll 0#256 ([(LPkt.CLASS, cls), (LPkt.DEST, dest), (LPkt.SRC, ownChip s), (LPkt.STAG, ownTag s),
    (LPkt.SEAT, seat), (LPkt.UNIT, unit), (LPkt.SEQ, n)] ++ mk), payload⟩
  let h : HeldReq := ⟨⟨unit, dest, cls, n, posted, dst, left, span, St.ok, now s, tierTimeout s, serves⟩, p, tracked⟩
  let s := { s with fab := { s.fab with seqs := Tab.set s.fab.seqs 0 (seqSlot unit dest cls) ((n + 1) % 65536) } }
  if mayIssue s unit dest cls posted && !flowHeld s.fab.held unit dest cls then launch s h
  else { s with fab := { s.fab with held := s.fab.held ++ [h] } }

/-- Issues one request that is awaited. -/
def issue (s : State) (unit dest cls seat : Nat) (posted : Bool) (dst left : Nat) (mk : List (Fld × Nat))
    (payload : BitVec 4096) : State :=
  issueAs s none true 1 unit dest cls seat posted dst left mk payload

/-- The oldest request of every flow that waits is issued where its unit may issue now (R330, R335). -/
def launchHeld (s : State) : State :=
  s.fab.held.foldl (fun s h =>
    if mayIssue s h.req.unit h.req.dest h.req.cls h.req.posted && !flowHeld (s.fab.held.takeWhile (· != h)) h.req.unit h.req.dest h.req.cls
    then launch { s with fab := { s.fab with held := s.fab.held.erase h } } h
    else s) s

/-- The units of 64 bytes that packet i of a run of bytes carries, 512 bytes a packet (R328). -/
def partUnits (bytes i : Nat) : Nat := cdiv (min 512 (bytes - 512 * i)) 64

/-- The DISPATCH packets (TYPE 8) or MESSAGE packets (TYPE 9) that carry bytes in order: each is one posted request (R328). -/
def sendParts (s : State) (serves : Option Job) (type unit dest cls seat : Nat) (data : List Byte) : State :=
  (List.range (max 1 (cdiv data.length 512))).foldl (fun s i =>
    issueAs s serves true 1 unit dest cls seat true 0 0 [(LPkt.TYPE, type), (LPkt.PLEN, partUnits data.length i)]
      (BitVec.ofNat 4096 (ofBytes ((data.drop (512 * i)).take 512)))) s

/-- The banker's UNIT (R327). -/
def bankerUnit : Nat := 0x3000

/-- A MESSAGE of the banker of so many bytes whose layout the manual does not give: its payload is free (R328; log entry 96). -/
def message (s : State) (dest cls seat bytes : Nat) : State :=
  (List.range (max 1 (cdiv bytes 512))).foldl (fun s i =>
    let t := issueAs s none true 1 bankerUnit dest cls seat true 0 0 [(LPkt.TYPE, 9), (LPkt.PLEN, partUnits bytes i)]
      (Config.messageBody s.free)
    { t with free := s.free + 1 }) s

/-! ## Port state changes (R347, R362, R379) -/

/-- Issues the writes that seals hold back, and raises their vectors (R282, R378). -/
def heldOut (s : State) (seat : Nat) (l : List SealWait) : State :=
  (l.flatMap (·.raises)).foldl (fun s v => raise s seat v 16) ((l.flatMap (·.writes)).foldl (fun s w => writeMem s w.1 w.2) s)

/-- A mirror pair loses its neighbour (R379): the primary is DEGRADED and issues its held writes, the partner sets
PEER_LOST. -/
def mirrorLost (s : State) (n : Nat) : State :=
  let m := s.mir n
  match LMirSt.STATE.get m.state with
  | 3 =>
    let s := heldOut s n m.sealing
    let s := s.setMir n { m with state := LMirSt.STATE.set m.state 5, ctr := ctrAdd m.ctr 0x028 1, sealing := [] }
    deviceEvent s LEv.MIRROR
  | 4 =>
    if LMirSt.PEER_LOST.on m.state then s
    else deviceEvent (s.setMir n { m with state := LMirSt.PEER_LOST.set m.state 1 }) LEv.MIRROR
  | _ => s

/-- The port towards a mirror peer (R376): an X neighbour. -/
def peerPortTo (s : State) (peer : Nat) : Nat := if coord peer 0 == (coord (ownChip s) 0 + 1) % 4 then 0 else 1

/-- Port p has left MATCH: its queued packets are dropped (R340, R477), time loses its parent (R366), mirror pairs over
it are lost (R379). -/
def leaveMatch (s : State) (p status : Nat) : State :=
  let q := (s.port p).queue
  let s := s.updPort p (fun x => { x with queue := [], busy := 0, above := [] })
  let s := q.foldl (fun s e => dropPacket s p e.2 status) s
  let s := if LTimeSt.PARENT.get s.clk.status == p then
      { s with clk := { s.clk with status := LTimeSt.LOCKED.set s.clk.status 0, good := 0 } } else s
  (s.mirrors.map (·.1)).foldl (fun s n =>
    if portAxis p == 0 && peerPortTo s (LMirSt.PEER.get (s.mir n).state) == p then mirrorLost s n else s) s

/-! ## Fabric time's parent (R365, R368) -/

def isRoot (s : State) : Bool := haveChip s && ownChip s == LTimeCfg.ROOT.get s.clk.cfg

/-- The parent port; none at the root, without ENABLE, or where the entry's port is not MATCH. -/
def timeParent (s : State) : Option Nat :=
  if !haveChip s || !LTimeCfg.ENABLE.on s.clk.cfg then none
  else
    (firstAxis (ownChip s) (LTimeCfg.ROOT.get s.clk.cfg)).bind (fun a =>
      let out := match ringEntry (liveCoords s a) (coord (ownChip s) a) (coord (LTimeCfg.ROOT.get s.clk.cfg) a) a (isMatch s) with
        | 1 => some (portOf a true)
        | 2 => some (portOf a false)
        | _ => none
      out.filter (isMatch s))

/-- TIME_STATUS's IS_ROOT, PARENT and HOPS after a change of ports, chip number or TIME_CFG (R365, R368). -/
def setTimeParent (s : State) : State :=
  let p := timeParent s
  let hops := if p.isNone then 0 else LTimeSt.HOPS.get s.clk.status
  let w := setAll s.clk.status [(LTimeSt.IS_ROOT, b2n (isRoot s)), (LTimeSt.PARENT, p.getD 7), (LTimeSt.HOPS, hops)]
  { s with clk := { s.clk with status := if p.isNone then LTimeSt.LOCKED.set w 0 else w } }

/-! ## The comparison as a whole -/

/-- Compares every port again (R346, R347). `count`: discovery is over, so each change counts and raises the event.
`status`: what packets of a port that leaves MATCH end with. -/
def comparePorts (s : State) (count : Bool) (status : Nat) : State :=
  let news := (List.range 6).map (fun p => (p, portStateOf s p))
  let changed := news.filter (fun e => LPortSt.STATE.get e.2 != portState s e.1)
  let left := changed.filter (fun e => isMatch s e.1)
  let s := news.foldl (fun s e => s.updPort e.1 (fun x => { x with state := e.2 })) s
  let s := setRoutes s
  let s := left.foldl (fun s e => leaveMatch s e.1 status) s
  let s := setTimeParent s
  if count then changed.foldl (fun s e => deviceEvent (s.countPort e.1 0x040 1) LEv.PORT) s else s

/-- This device's LINKID on a port (R343). -/
def linkidOf (s : State) (p : Nat) : BitVec 256 :=
  let f := s.fab.fabId
  setAll 0#256 [(LLink.TYPE, 0xA), (LLink.PORT, p), (LLink.VALID, LFabId.VALID.get f), (LLink.CHIP, LFabId.CHIP.get f),
    (LLink.MODE, LFabId.MODE.get f), (LLink.YLEN, LFabId.YLEN.get f), (LLink.ZLEN, LFabId.ZLEN.get f),
    (LLink.DIGEST, identDigest s)]

/-- Sends a LINKID record, a packet of the link (R328, R343, R352). -/
def sendLinkid (s : State) (p : Nat) : State := (s.countPort p 0x010 1).emit (.linkid p (linkidOf s p))

/-- Sends LINKID on every trained port: CHIP, VALID or MODE has changed (R343). -/
def sendLinkids (s : State) : State :=
  (List.range 6).foldl (fun s p => if (s.port p).trained then sendLinkid s p else s) s

/-! ## One grant of a class-ordered resource with the 7-of-8 bound (R24, R342) -/

/-- The class to grant among those present, 0 highest: the lowest class that 7 grants in a row have passed over, else
the highest present. -/
def classGrant (present : Nat → Bool) (above : Tab Nat) (n : Nat) : Option Nat :=
  match (List.range n).reverse.find? (fun c => present c && decide (Tab.get above 0 c ≥ 7)) with
  | some c => some c
  | none => (List.range n).find? present

/-- Grants in a row to higher classes, after a grant to class g. -/
def aboveAfter (present : Nat → Bool) (above : Tab Nat) (n g : Nat) : Tab Nat :=
  (List.range n).foldl (fun t c => Tab.set t 0 c (if present c && decide (g < c) then Tab.get above 0 c + 1 else 0)) above

/-- Bytes a packet holds the link for: header, payload, trailer, and one idle unit on a derated link (R327, R479). -/
def linkBytes (x : Port) (p : Packet) : Nat :=
  40 + 64 * LPkt.PLEN.get p.hdr + (if LLinkHl.DERATED.on x.health then 64 else 0)

def pktClass (e : Nat × Packet) : Nat := LPkt.CLASS.get e.2.hdr

/-- One fc at a port's output (R342): a free output of a MATCH port sends the packet that R24 grants. -/
def linkTick (s : State) (p fc : Nat) : State :=
  let x := s.port p
  if !isMatch s p || decide (fc < x.busy) then s
  else
    let present := fun c => x.queue.any (fun e => pktClass e == c)
    match classGrant present x.above 4 with
    | none => s
    | some c =>
      match grant (fun r => x.queue.any (fun e => pktClass e == c && e.1 == r)) (Tab.get x.ptrs 0 c) 6 with
      | none => s
      | some (r, ptr) =>
        match x.queue.find? (fun e => pktClass e == c && e.1 == r) with
        | none => s
        | some e =>
          let s := s.setPort p { x with queue := x.queue.erase e, busy := fc + cdiv (linkBytes x e.2) 160,
                                        ptrs := Tab.set x.ptrs 0 c ptr, above := aboveAfter present x.above 4 c,
                                        ctr := ctrAdd x.ctr 0x010 1 }
          s.emit (.packet p e.2)

end Sys2Proof.Machine
end

