-- ==== Sys2Proof/Machine/Lanes.lean ====
section
/-! DEFINITION. Links and channels: training, discovery's events, packet and burst errors, retraining passes
(13_fabric.md, 18_package.md, 19_reliability.md). -/

namespace Sys2Proof.Machine

/-! ## Temperatures and health -/

/-- A die's last temperature as its byte (R462): 0x80 with no valid reading. Dies 4 to 7 are the base dies. -/
def dieByte (s : State) (d : Nat) : Nat := Tab.get s.pins.dieTemp 0x80 d

/-- The base die whose temperature a link takes (R478): the port's, or base die 0 for the Avkin link, link 6. -/
def linkDie (p : Nat) : Nat := if p < 6 then portDie p else 0
def linkTemp (s : State) (p : Nat) : Nat := dieByte s (4 + linkDie p)

def signed8 (v : Nat) : Int := (BitVec.ofNat 8 v).toInt

/-- More than 8 degrees apart. -/
def drifted (a b : Int) : Bool := decide (a - b > 8) || decide (b - a > 8)

/-- A register field raised by 1 that holds at its highest value (R484). -/
def Fld.bump {n : Nat} (f : Fld) (x : BitVec n) : BitVec n := f.set x (min (2 ^ f.w - 1) (f.get x + 1))

/-- Records TRAIN_TEMP at the end of a training (R478). -/
def trainPort (s : State) (p : Nat) : State :=
  s.updPort p (fun x =>
    { x with trained := true, seen := none, expect := 0, tries := 0, replays := 0, laneFails := 0,
             health := setAll x.health [(LLinkHl.TRAIN_TEMP, linkTemp s p), (LLinkHl.TRAINING, 0),
               (LLinkHl.DERATED, 0), (LLinkHl.NEXT, 0)] })

/-- Discovery is over for this device: it has a mode (R344, R347). -/
def discovered (s : State) : Bool := fabMode s != 0

/-- LINK_TRAINED: TRAIN_TEMP is recorded, LINKID sent, the port compared (R343, R346, R478). Link 6 is the Avkin link,
whose retraining ends here (R477). -/
def linkTrained (p : Nat) (s : State) : State :=
  let s := trainPort s p
  if p < 6 then comparePorts (sendLinkid s p) (discovered s) St.noroute else s

def execLinkTrained (port : Nat) (s : State) : Host.Outcome State Fault Refusal :=
  act .link (when (fun s => decide (port < 7) && !(s.port port).trained) (linkTrained port)) s

/-- LINK_TRAINING_LOST (R347). -/
def trainingLost (p : Nat) (s : State) : State :=
  comparePorts (s.updPort p (fun x => { x with trained := false, seen := none })) (discovered s) St.noroute

def execLinkTrainingLost (port : Nat) (s : State) : Host.Outcome State Fault Refusal :=
  act .link (when (fun s => decide (port < 6) && (s.port port).trained) (trainingLost port)) s

/-- A LINKID record as R343 allows it; a sender without a mode has no ring lengths to report. -/
def linkidOk (w : BitVec 256) : Bool :=
  LLink.TYPE.get w == 0xA && rsvZero LLink.rsv w && decide (LLink.PORT.get w < 6) && decide (LLink.MODE.get w < 3) &&
  (LLink.MODE.get w == 0 || (decide (1 ≤ LLink.YLEN.get w) && decide (LLink.YLEN.get w ≤ 16) &&
    decide (1 ≤ LLink.ZLEN.get w) && decide (LLink.ZLEN.get w ≤ 64)))

/-- LINKID: a malformed record is discarded (R329); another sets the port's observation (R346). -/
def linkidArrives (p : Nat) (w : BitVec 256) (s : State) : State :=
  let s := s.countPort p 0x018 1
  if linkidOk w then comparePorts (s.updPort p (fun x => { x with seen := some w })) (discovered s) St.noroute
  else s.countPort p 0x038 1

def execLinkid (port : Nat) (rec : BitVec 256) (s : State) : Host.Outcome State Fault Refusal :=
  act .link (when (fun s => decide (port < 6) && (s.port port).trained) (linkidArrives port rec)) s

/-! ## Packet errors (R476, R477) -/

/-- A link fails (R477): the error log, LINK_FAIL; a torus port loses training, drops what is queued on it, and is to
train anew at once; the Avkin link retrains. -/
def linkFail (s : State) (p : Nat) : State :=
  let s := logError (s.countPort p 0x058 1) p 5 5 0 none false
  let s := s.updPort p (fun x =>
    { x with trained := false, seen := none, tries := 0, attempt := now s,
             health := setAll x.health [(LLinkHl.TRAINING, 1), (LLinkHl.DERATED, 0), (LLinkHl.NEXT, 0)] })
  if p < 6 then comparePorts s (discovered s) St.link else s

/-- LINK_PACKET_ERROR: the packet is discarded. Where it is the expected one, or the first of a gap, it is a failed try and a
replay is asked for, the eighth failing the link; a later one than the packet that a replay was asked for is replayed behind
it. -/
def packetError (p seq : Nat) (s : State) : State :=
  let x := s.port p
  let again := x.tries ≠ 0 && seq % 4096 ≠ x.expect
  if !again && x.tries + 1 ≥ 8 then linkFail s p
  else
    let s := (s.setPort p { x with tries := if again then x.tries else x.tries + 1, replays := x.replays + 1 }).countPort p 0x050 1
    if again then s else s.emit (.replay p x.expect)

def execLinkPacketError (port seq : Nat) (crcOk : Bool) (s : State) : Host.Outcome State Fault Refusal :=
  act .link (when (fun s => decide (port < 7) && (s.port port).trained && !(crcOk && seq % 4096 == (s.port port).expect))
    (packetError port seq)) s

/-- A packet received in order (R352, R476). -/
def received (s : State) (p : Nat) : State :=
  (s.updPort p (fun x => { x with expect := (x.expect + 1) % 4096, tries := 0 })).countPort p 0x018 1

/-- So many packets received in order. -/
def receivedPackets (s : State) (p n : Nat) : State :=
  (s.updPort p (fun x => { x with expect := (x.expect + n) % 4096, tries := 0 })).countPort p 0x018 n

/-- TORUS_TRAINING_ATTEMPT (R477): at once and every 100 ms after; on success LINKID is exchanged again. -/
def trainingAttempt (p : Nat) (ok : Bool) (s : State) : State :=
  if ok then linkTrained p s else s.updPort p (fun x => { x with attempt := now s + 100000000 })

def execTorusTrainingAttempt (port : Nat) (ok : Bool) (s : State) : Host.Outcome State Fault Refusal :=
  act .link (when (fun s => decide (port < 6) && LLinkHl.TRAINING.on (s.port port).health &&
    decide ((s.port port).attempt ≤ now s)) (trainingAttempt port ok)) s

/-! ## Ingot channels (R58, R478 to R484) -/

def laneWord (s : State) (i c : Nat) : W64 := Tab.get (s.ingot i).lanes laneReset c
def setLaneWord (s : State) (i c : Nat) (w : W64) : State :=
  s.updIngot i (fun x => { x with lanes := Tab.set x.lanes laneReset c w })

/-- A trigger of R479 on a channel: a pass begins, its spare retraining at once; none while one runs; after a lane
failure the channel is derated only (R483). -/
def startPass (s : State) (i c : Nat) : State :=
  let w := laneWord s i c
  if LLaneSt.LOST.on w || LLaneSt.DERATED.on w then s
  else if LLaneSt.FAILED.get w ≠ 63 then setLaneWord s i c (LLaneSt.DERATED.set w 1)
  else
    let s := setLaneWord s i c (setAll w [(LLaneSt.DERATED, 1), (LLaneSt.STEPS, 0)])
    (s.updIngot i (fun x => { x with retrain := Tab.set x.retrain (64, 0) c (LLaneSt.SPARE.get w, 0) })).countIngot i 0x118 1

/-- The test of one channel (R479). -/
def testChannel (s : State) (i c : Nat) : State :=
  let w := laneWord s i c
  let temp := LGovSt.TEMP.get (s.ingot i).gov
  let hit := drifted (temp : Int) (LLaneSt.TRAIN_TEMP.get w : Int) || decide (Tab.get (s.ingot i).replays 0 c > 16)
  if hit then startPass s i c else s

/-- The test of one link (R479); link 6 is the Avkin link. -/
def testLink (s : State) (p : Nat) : State :=
  let x := s.port p
  let hit := (linkTemp s p != 0x80 && drifted (signed8 (linkTemp s p)) (signed8 (LLinkHl.TRAIN_TEMP.get x.health))) ||
    decide (x.replays > 16)
  let s := s.updPort p (fun x => { x with replays := 0 })
  if hit && x.trained && !LLinkHl.DERATED.on x.health then
    s.updPort p (fun x => { x with health := setAll x.health [(LLinkHl.DERATED, 1), (LLinkHl.NEXT, 0)],
                                   laneSince := now s, laneFails := 0 })
  else s

/-- LANE_TEST: every channel and link. -/
def laneTest (s : State) : State :=
  let s := (List.range 16).foldl (fun s i =>
    ((List.range 96).foldl (fun s c => testChannel s i c) s).updIngot i (fun x => { x with replays := [] })) s
  (List.range 7).foldl testLink s

def execLaneTest (s : State) : Host.Outcome State Fault Refusal := act .refresh laneTest s

/-- A lane of a channel fails (R483): the first leaves the spare over it and stops the walk, a second loses the
channel. -/
def laneFail (s : State) (i c lane : Nat) : State :=
  let w := laneWord s i c
  let s := logError s (i * 96 + c) 6 5 0 none false
  let s := s.updIngot i (fun x => { x with retrain := Tab.erase x.retrain c })
  if LLaneSt.FAILED.get w = 63 then
    setLaneWord s i c (setAll w [(LLaneSt.FAILED, lane), (LLaneSt.DERATED, 0), (LLaneSt.STEPS, 0)])
  else
    logError ((setLaneWord s i c (LLaneSt.LOST.set w 1)).countIngot i 0x128 1) (i * 96 + c) 7 5 0 none false

/-- SPARE_RETRAIN_DONE (R481, R483): the offline lane has retrained, and after the 33rd hand-over the pass ends; or the
attempt failed, the third in a row failing the lane. -/
def spareDone (i c : Nat) (ok : Bool) (s : State) : State :=
  let w := laneWord s i c
  let r := Tab.get (s.ingot i).retrain (64, 0) c
  if ok then
    let s := s.updIngot i (fun x => { x with retrain := Tab.erase x.retrain c })
    let w := LLaneSt.RETRAINS.bump w
    if LLaneSt.STEPS.get w = 33 then
      setLaneWord s i c (setAll w [(LLaneSt.STEPS, 0), (LLaneSt.DERATED, 0), (LLaneSt.DOWN, 1 - LLaneSt.DOWN.get w),
        (LLaneSt.TRAIN_TEMP, LGovSt.TEMP.get (s.ingot i).gov)])
    else setLaneWord s i c w
  else if r.2 + 1 ≥ 3 then laneFail s i c r.1
  else s.updIngot i (fun x => { x with retrain := Tab.set x.retrain (64, 0) c (r.1, r.2 + 1) })

def execSpareRetrainDone (ingot channel : Nat) (ok : Bool) (s : State) : Host.Outcome State Fault Refusal :=
  act .refresh (when (fun s => decide (ingot < 16) && decide (channel < 96) &&
    Tab.get (s.ingot ingot).retrain (64, 0) channel != (64, 0)) (spareDone ingot channel ok)) s

/-- A quiet window (R480). -/
def quiet (s : State) : Bool := s.slot.holder.isNone

/-- LANE_HANDOVER (R481): the lane next to the spare in the walk's direction becomes the spare and retrains. -/
def handover (i c : Nat) (s : State) : State :=
  let w := laneWord s i c
  let next := if LLaneSt.DOWN.on w then LLaneSt.SPARE.get w - 1 else LLaneSt.SPARE.get w + 1
  let s := setLaneWord s i c (setAll w [(LLaneSt.SPARE, next), (LLaneSt.STEPS, LLaneSt.STEPS.get w + 1)])
  (s.updIngot i (fun x => { x with retrain := Tab.set x.retrain (64, 0) c (next, 0) })).countIngot i 0x110 1

def handoverOk (i c : Nat) (s : State) : Bool :=
  let w := laneWord s i c
  decide (i < 16) && decide (c < 96) && quiet s && LLaneSt.DERATED.on w && !LLaneSt.LOST.on w &&
  LLaneSt.FAILED.get w == 63 && decide (LLaneSt.STEPS.get w < 33) &&
  Tab.get (s.ingot i).retrain (64, 0) c == (64, 0) &&
  (if LLaneSt.DOWN.on w then decide (0 < LLaneSt.SPARE.get w) else decide (LLaneSt.SPARE.get w < 33))

def execLaneHandover (ingot channel : Nat) (s : State) : Host.Outcome State Fault Refusal :=
  act .refresh (when (handoverOk ingot channel) (handover ingot channel)) s

/-! ## Link lanes (R482, R483) -/

/-- Lanes of a link (R324, R456). -/
def linkLanes (s : State) (p : Nat) : Nat := if p < 6 then 8 else if LSbFault.AVKIN_X8.on s.pins.sbFault then 8 else 16

/-- One attempt at the pass's next lane: the pass ends after the last; the third failure fails lane and link. -/
def linkLane (p : Nat) (ok : Bool) (s : State) : State :=
  let x := s.port p
  if ok then
    let h := LLinkHl.RETRAINS.bump x.health
    let n := LLinkHl.NEXT.get h + 1
    let h := if n ≥ linkLanes s p then
        setAll h [(LLinkHl.NEXT, 0), (LLinkHl.DERATED, 0), (LLinkHl.TRAIN_TEMP, linkTemp s p)]
      else LLinkHl.NEXT.set h n
    (s.setPort p { x with health := h, laneFails := 0, laneSince := now s }).countPort p 0x060 1
  else if x.laneFails + 1 ≥ 3 then linkFail (logError s p 6 5 0 none false) p
  else s.setPort p { x with laneFails := x.laneFails + 1 }

def execLinkLaneRetrain (link : Nat) (ok : Bool) (s : State) : Host.Outcome State Fault Refusal :=
  act .link (when (fun s => decide (link < 7) && quiet s && LLinkHl.DERATED.on (s.port link).health &&
    (s.port link).trained) (linkLane link ok)) s

/-- LINK_FORCED: 100 ms without a quiet window. -/
def execLinkForced (link : Nat) (ok : Bool) (s : State) : Host.Outcome State Fault Refusal :=
  act .link (when (fun s => decide (link < 6) && LLinkHl.DERATED.on (s.port link).health && (s.port link).trained &&
    decide ((s.port link).laneSince + 100000000 ≤ now s)) (fun s => linkLane link ok (s.countPort link 0x068 1))) s

/-! ## Fabric time (R364 to R366) -/

/-- The offset of an exchange in units of 0.25 ns. -/
def syncOffset (t1 t2 t3 t4 : Nat) : Int := 2 * (((t2 : Int) - t1) - ((t4 : Int) - t3))

/-- The rate after an exchange: moved towards zero offset by an amount the manual does not give, within 200 ppm
(a free value, log entry 7). -/
def syncRate (old off : Int) (free : Nat) : Int :=
  if off = 0 then old
  else if off > 0 then old + ((free % ((20000 - old).toNat + 1) : Nat) : Int)
  else old - ((free % ((old + 20000).toNat + 1) : Nat) : Int)

/-- A signed field, saturated. -/
def satInt (w : Nat) (v : Int) : Int := max (-(2 ^ (w - 1) : Nat)) (min v ((2 ^ (w - 1) : Nat) - 1))

/-- TIME_SYNC_EXCHANGE. -/
def timeSync (t1 t2 t3 t4 parentHops : Nat) (s : State) : State :=
  let c := s.clk
  let off := syncOffset t1 t2 t3 t4
  let rate := syncRate (LTimeSt.RATE.getInt c.status) off (Config.freeWord s.free).toNat
  let small := decide (-16 ≤ off) && decide (off ≤ 16)
  let good := if small then c.good + 1 else 0
  let locked := if decide (off < -400) || decide (400 < off) then 0 else if good ≥ 3 then 1 else LTimeSt.LOCKED.get c.status
  let first := !c.synced && (loadedBinds s).isEmpty
  let w := setAll c.status [(LTimeSt.LOCKED, locked), (LTimeSt.HOPS, parentHops + 1),
    (LTimeSt.OFFSET, (satInt 16 off % 65536).toNat), (LTimeSt.RATE, (rate % 65536).toNat)]
  { s with free := s.free + 1,
           clk := { c with status := w, good := good, lastGood := if small then now s else c.lastGood, synced := true,
                           time := if first then BitVec.ofInt 64 ((c.time.toNat : Int) + off / 4) else c.time } }

/-- The child's part of an exchange: a MESSAGE of the control class to its parent, whose time stamps have no given layout (log
entry 96). -/
def askTime (s : State) : State :=
  match (timeParent s).bind (neighbour s) with
  | some n => message s n 0 0 64
  | none => s

def execTimeSyncExchange (t1 t2 t3 t4 : Nat) (parentHops : Nat) (s : State) : Host.Outcome State Fault Refusal :=
  act .link (when (fun s => (timeParent s).isSome) (fun s => timeSync t1 t2 t3 t4 parentHops (askTime s))) s

end Sys2Proof.Machine
end

