-- ==== Sys2Proof/Machine/Packets.lean ====
section
/-! DEFINITION. Fabric requests: those that arrive from other chips, those this device's units issue, fences, forwarding
(13_fabric.md, 14_slices.md). -/

namespace Sys2Proof.Machine

/-! ## The check of a request from another chip (R361) -/

/-- Does a chip lie inside this device's slice block? -/
def inBlock (s : State) (chip : Nat) : Bool :=
  sliceState s != 0 && (List.range 3).all (fun a => (blockCoords s s.fab.slice a).contains (coord chip a))

/-- Riser accesses of slice members to the leader's riser slots, in the collective class and within the seat's windows (R360,
R361): these alone reach an area that the device owns. -/
def sliceRiser (s : State) (p : Packet) (write : Bool) (off len : Nat) : Bool :=
  LSliceSt.LEADER.on s.fab.slice && LPkt.CLASS.get p.hdr == 2 && inBlock s (LPkt.SRC.get p.hdr) &&
  inWindows s (LPkt.SEAT.get p.hdr) write (ownChip s * 2 ^ 40 + off) len && (List.range 4).any (fun n => decide (bdBase n ≤ off) && decide (off + len ≤ bdBase n + s.bank.riserSlots / 4 * 16384))

/-- R20 to R23 and R361 for the bytes a request touches. -/
def remoteStatus (s : State) (p : Packet) (write : Bool) (off len : Nat) : Nat :=
  let n := LPkt.SEAT.get p.hdr
  let a := ownChip s * 2 ^ 40 + off
  if sliceRiser s p write off len then St.ok
  else firstFail [
    (addrStatus s a len != St.ok, addrStatus s a len),
    (tierOf s a == 7, St.addr),
    (!(inBlock s (LPkt.SRC.get p.hdr) || LSeatCfg.FABRIC_OPEN.on (s.seat n).cfg), St.window),
    (accessStatus s n write a len != St.ok, accessStatus s n write a len)]

/-- Counts a packet of a seat refused by R361, under the seat and under WINDOW_REMOTE (R382, R427). -/
def noteRefused (s : State) (seat st : Nat) : State :=
  if st = St.window then
    let s := s.noteWindow seat st
    { s with fab := { s.fab with sliceCtr := ctrAdd s.fab.sliceCtr 0x028 1 } }
  else s

/-- Counts a packet's refusal by R361. -/
def noteRemote (s : State) (p : Packet) (st : Nat) : State := noteRefused s (LPkt.SEAT.get p.hdr) st

/-! ## Order of a unit's requests (R334) -/

/-- The packets that wait for a memory of this device. -/
def waitingPackets (s : State) : List Packet :=
  let pkt := fun (e : ExtEnt) => match e.src with
    | .packet p => [p]
    | _ => []
  (s.ingots.flatMap (fun i => i.2.stages.flatMap (fun x => x.2.waiting.flatMap (fun y => pkt y.2)) ++
    i.2.bgs.flatMap (fun b => b.2.queues.flatMap (fun q => q.2.flatMap pkt)))) ++
  s.hm.flatMap (fun x => x.2.waits.flatMap (fun r => pkt r.ent))

/-- The headers of dispatch packets of other chips that wait in the intakes of this device's ingots but one (R156). -/
def waitingDispatch (s : State) (but : Option Nat) : List (BitVec 256) :=
  (s.ingots.filter (fun i => some i.1 != but)).flatMap (fun i => i.2.intake.filterMap (·.via))

/-- Are two packets of one unit and class of one chip? -/
def sameFlow (h g : BitVec 256) : Bool :=
  LPkt.SRC.get h == LPkt.SRC.get g && LPkt.UNIT.get h == LPkt.UNIT.get g && LPkt.CLASS.get h == LPkt.CLASS.get g

/-- Requests of one unit and class are performed in issue order (R334): does an earlier one still wait? A dispatch packet is
taken in behind those of its own ingot's intake (R156). -/
def flowWaits (p : Packet) (intake : Option Nat) (s : State) : Bool :=
  (waitingPackets s).any (fun q => sameFlow q.hdr p.hdr) || (waitingDispatch s intake).any (fun h => sameFlow h p.hdr)

/-! ## Arriving requests -/

/-- A packet for this device arrives in order on an open port. -/
def arrives (s : State) (port : Nat) (p : Packet) : Bool :=
  decide (port < 6) && isMatch s port && LPkt.DEST.get p.hdr == ownChip s

/-- A malformed packet is discarded, counted, and answered where its type has a response (R329). -/
def discard (s : State) (port : Nat) (p : Packet) : State := answer (s.countPort port 0x038 1) p St.packet 0

/-- The row of one packet type: the guard, the receipt, the discard, the effect. -/
def packetRow (type : Nat) (port : Nat) (p : Packet) (wait : State → Bool) (f : State → State) :
    State → Host.Outcome State Fault Refusal :=
  act .link (when (fun s => arrives s port p && LPkt.TYPE.get p.hdr == type && !wait s)
    (fun s => if pktBad p then discard (received s port) port p else f (received s port)))

/-- A packet of a type and class that carries a dispatch packet or a message for this device; `intake`: the ingot of a dispatch
packet. -/
def carried (s : State) (port type cls : Nat) (intake : Option Nat) (h : BitVec 256) : Bool :=
  arrives s port ⟨h, 0#4096⟩ && LPkt.TYPE.get h == type && LPkt.CLASS.get h == cls && !pktBad ⟨h, 0#4096⟩ &&
  !flowWaits ⟨h, 0#4096⟩ intake s

/-- The row of a MESSAGE of n bytes (R328, R330, R334): its packets are received, what it says takes effect where `guard` lets
it, and it is acknowledged. -/
def messageRow (d : Needs) (port cls n : Nat) (h : BitVec 256) (guard : State → Bool) (f : State → State) :
    State → Host.Outcome State Fault Refusal :=
  act d (when (fun s => carried s port 9 cls none h)
    (fun s =>
      let s := receivedPackets s port (max 1 (cdiv n 512))
      answer (if guard s then f s else s) ⟨h, 0#4096⟩ St.ok 0))

def pktOff (p : Packet) : Nat := LPkt.ADDR.get p.hdr
def pktSize (p : Packet) : Nat := 2 ^ LPkt.SIZE.get p.hdr
def pktBytes (p : Packet) (n : Nat) : List Byte := (List.range n).map (fun i => p.payload.extractLsb' (8 * i) 8)
def pktSeat (p : Packet) : Nat := LPkt.SEAT.get p.hdr

/-- Does the packet's request write? -/
def pktWrites (p : Packet) : Bool := [2, 3, 5].contains (LPkt.TYPE.get p.hdr)

/-- Bytes that a request touches (R327, R331, R333). -/
def pktSpan (p : Packet) : Nat :=
  match LPkt.TYPE.get p.hdr with
  | 3 => 8
  | 4 => LPkt.BLEN.get p.hdr * 64
  | 5 => LPkt.PLEN.get p.hdr * 64
  | _ => pktSize p

/-- What a store or a bulk put writes; an atomic's place in the deferral buffer. -/
def pktStored (p : Packet) : List Byte :=
  match LPkt.TYPE.get p.hdr with
  | 2 => bytesOf (LPkt.DATA.get p.hdr) (pktSize p)
  | 3 => bytesOf 0 8
  | _ => pktBytes p (pktSpan p)

/-- The new value of an atomic's word; none: nothing is written (R331). -/
def atomicNew (aop old data swap : Nat) : Option Nat :=
  match aop with
  | 0 => some ((old + data) % 2 ^ 64)
  | 1 => some data
  | 2 => if old = data then some swap else none
  | _ => some (old ||| data)

/-- The word at a key is an arrival word whose bits are all to be set by a fabric time (R196, R197). -/
def awaitBits (s : State) (k due : Nat) : State :=
  { s with fab := { s.fab with arrivals := s.fab.arrivals.filter (fun a => a.1 != k) ++ [(k, due)] } }

/-- An atomic OR on a word of cluster memory; the first bit of an arrival word starts the time of the others (R196, R197). -/
def noteArrival (s : State) (k old new' : Nat) : State :=
  if old = 0 && new' != 0 && tierOfOffset k == 0 && k < hmBase + 2 ^ 40 then awaitBits s k (now s + tierTimeout s) else s

/-- An atomic on one 8-byte word as one access (R331, R332): state, status, old value. Where it writes the word itself, the
write re-encodes what it corrected. -/
def atomicAt (s : State) (k seat aop data swap : Nat) : State × Nat × Nat :=
  let st := extStatus s k 8 false
  if st = St.uncorr then (noteUncorr s k 8 0 seat none, st, 0)
  else if st ≠ St.ok then (s, st, 0)
  else
    let old := ofBytes (viewBytes s k 8)
    match atomicNew aop old data swap with
    | some v =>
      let t := extWrite (if lockedAt s k then noteCorr s k 8 false else countCorr s k 8 false) k (bytesOf v 8) seat
      (if aop = 3 then noteArrival t.1 k old v else t.1, t.2, old)
    | none => (noteCorr s k 8 false, St.ok, old)

/-- An OR of bits into a word by a unit of this device. -/
def orWord (s : State) (k bits : Nat) : State :=
  let old := ofBytes (viewBytes s k 8)
  noteArrival (moverWrite s (2, 0) k (bytesOf (old ||| bits) 8)) k old (old ||| bits)

/-- The RESPONSE packets of a bulk get, at most 512 bytes each, in ascending address: each part is read as its packet is made, and
the first that fails ends the operation with its status (R333). -/
def getParts (s : State) (p : Packet) : Nat → Nat → State
  | 0, _ => s
  | n + 1, off =>
    let r := extRead s (pktOff p + off) (min 512 (pktSpan p - off)) (pktSeat p)
    if r.2.1 ≠ St.ok then answer r.1 p r.2.1 0
    else
      let s := match answerTo p St.ok 0 (r.2.2.length / 64) (BitVec.ofNat 4096 (ofBytes r.2.2)) with
        | some a => sendPacket r.1 a
        | none => r.1
      getParts s p n (off + 512)

/-- Is this the bulk put of a packet's unit? -/
def sameBulk (p : Packet) (x : BulkIn) : Bool :=
  x.src == LPkt.SRC.get p.hdr && x.unit == LPkt.UNIT.get p.hdr && x.cls == LPkt.CLASS.get p.hdr

def setBulks (s : State) (l : List BulkIn) : State := { s with fab := { s.fab with bulkIn := l } }

/-- The bulk put that a packet belongs to: its first packet carries BLEN (R333). -/
def bulkOf (s : State) (p : Packet) : Option BulkIn :=
  if LPkt.BLEN.get p.hdr ≠ 0 then
    some ⟨LPkt.SRC.get p.hdr, LPkt.UNIT.get p.hdr, LPkt.CLASS.get p.hdr, LPkt.BLEN.get p.hdr * 64, St.ok⟩
  else s.fab.bulkIn.find? (sameBulk p)

/-- One packet of a bulk put has been performed or has failed: the ACK follows the operation's last unit, with the status
of the first failure (R333). -/
def bulkLand (p : Packet) (x : BulkIn) (s : State) (status : Nat) : State :=
  let st := if x.status ≠ St.ok then x.status else status
  let rest := s.fab.bulkIn.filter (fun y => !sameBulk p y)
  if x.left ≤ pktSpan p then answer (setBulks s rest) p st 0
  else setBulks s ({ x with left := x.left - pktSpan p, status := st } :: rest)

/-- Ends a request with a status of failure: answered, or noted in its bulk put. -/
def failPacket (s : State) (p : Packet) (st : Nat) : State :=
  if LPkt.TYPE.get p.hdr = 5 then
    match bulkOf s p with
    | some x => bulkLand p x s st
    | none => answer s p st 0
  else answer s p st 0

/-- Performs a request at its memory and answers it (R330 to R333). -/
def performPacket (s : State) (p : Packet) : State :=
  match LPkt.TYPE.get p.hdr with
  | 1 =>
    let r := extRead s (pktOff p) (pktSpan p) (pktSeat p)
    answer r.1 p r.2.1 (ofBytes r.2.2)
  | 2 =>
    let r := extWrite s (pktOff p) (pktStored p) (pktSeat p)
    answer r.1 p r.2 0
  | 3 =>
    let r := atomicAt s (pktOff p) (pktSeat p) (LPkt.AOP.get p.hdr) (LPkt.DATA.get p.hdr) (ofBytes (pktBytes p 8))
    answer r.1 p r.2.1 r.2.2
  | 4 => getParts s p (cdiv (pktSpan p) 512) 0
  | _ =>
    match bulkOf s p with
    | none => answer s p St.packet 0
    | some x =>
      let r := if x.status ≠ St.ok then (s, x.status) else extWrite s (pktOff p) (pktStored p) (pktSeat p)
      bulkLand p x r.1 r.2

/-! ## Requests of this device's units (R327, R330, R334, R335) -/

/-- Bulk puts of a range, 16 KiB operations of 512-byte packets (R333). -/
def putPackets (s : State) (serves : Option Job) (unit dest cls seat off : Nat) (data : List Byte) : State :=
  (List.range (cdiv data.length 512)).foldl (fun s i =>
    let part := (data.drop (512 * i)).take 512
    let first := decide (i % 32 = 0)
    let last := decide (i % 32 = 31) || decide (512 * (i + 1) ≥ data.length)
    let mk := [(LPkt.TYPE, 5), (LPkt.PLEN, part.length / 64), (LPkt.ADDR, off + 512 * i),
      (LPkt.BLEN, if first then min 256 ((data.length - 512 * i) / 64) else 0)]
    issueAs s serves last (i % 32 + 1) unit dest cls seat true 0 0 mk (BitVec.ofNat 4096 (ofBytes part))) s

/-- A bulk get of at most 16 KiB of another chip's memory (R333). -/
def getRange (s : State) (serves : Option Job) (unit chip seat off dst n : Nat) : State :=
  issueAs s serves true 1 unit chip 3 seat false dst n
    [(LPkt.TYPE, 4), (LPkt.ADDR, off), (LPkt.BLEN, n / 64), (LPkt.DATA, dst % 2 ^ 40)] 0#4096

/-! ## Tile moves of the base dies' fabric engines (R15, R244) -/

/-- The base die that performs a tile move: the one on the destination's side, or on the source's where the destination is in T3
or T4 (R244). -/
def moveDie (src dst : Nat) : Nat :=
  let die := fun k => if isT2 k then some (k / ingotSize / 4) else if isT1 k then some (hmDie k) else none
  (die dst).getD ((die src).getD 0)

/-- Is an address another chip's? -/
def farAddr (s : State) (a : Nat) : Bool := match placeOf s a with
  | .chip _ _ => true
  | _ => false

/-- Issues one tile's copy between two device addresses, in a move queue and as class and requester `who` of a holding-memory
port: this device's memory and the companion's directly, memory of another chip by bulk requests to its owner in the bulk class
(R15, R244, R254). What leaves for another chip stands in the cells that this device keeps of it too (log entry 37). -/
def moveTile (s : State) (job : Job) (who : Nat × Nat) (seat src dst : Nat) : State :=
  let k := keyOf s src
  let d := keyOf s dst
  let unit := 0x2000 + moveDie k d
  match placeOf s src, placeOf s dst with
  | .chip f off, _ => getRange s (some job) unit f seat off d 16384
  | _, .chip f off =>
    let bs := viewBytes s k 16384
    let s := pushGrants (noteCorr s k 16384 false) who k 16384 false
    putPackets (writeMem s d bs) (some job) unit f 3 seat off bs
  | _, _ => moverCopy (noteCorr s k 16384 false) who k d 16384

/-- Ends, with a status, requests that have lasted their tier_timeout: a fence over them ends too (R256, R335). -/
def giveUpRequests (s : State) (p : FabReq → Bool) (status : Nat) : State :=
  (s.fab.outstanding.filter (fun r => p r && decide (r.issued + r.limit ≤ now s))).foldl (fun s r => completeReq s r status []) s

/-- The same for those that serve a job. -/
def giveUpJobs (s : State) (p : Job → Bool) (status : Nat) : State := giveUpRequests s (fun r => r.serves.any p) status

/-- A posted request of the flow that an ACK names. -/
def ackFlow (p : Packet) (r : FabReq) : Bool :=
  r.posted && r.unit == LPkt.UNIT.get p.hdr && r.dest == LPkt.SRC.get p.hdr && r.cls == LPkt.CLASS.get p.hdr

/-- Does an ACK of failure name an earlier packet of the request's operation (R333)? -/
def ackInside (p : Packet) (r : FabReq) : Bool :=
  LPkt.STATUS.get p.hdr != St.ok && !seqLe r.seq (LPkt.SEQ.get p.hdr) &&
  decide ((r.seq + 65536 - LPkt.SEQ.get p.hdr) % 65536 < r.span)

/-- FABRIC_ACK (R330): every posted request up to its SEQ completes; a put of which an earlier packet has failed ends with that
failure's status (R333). -/
def fabricAck (p : Packet) (s : State) : State :=
  let hit := s.fab.outstanding.filter (fun r => ackFlow p r && (seqLe r.seq (LPkt.SEQ.get p.hdr) || ackInside p r))
  hit.foldl (fun s r => completeReq s r
    (if r.seq = LPkt.SEQ.get p.hdr || ackInside p r then LPkt.STATUS.get p.hdr else St.ok) []) s

def execFabricAck (port : Nat) (p : Packet) (s : State) : Host.Outcome State Fault Refusal :=
  packetRow 6 port p (fun _ => false) (fabricAck p) s

/-- The request that a response answers. -/
def responseOf (s : State) (p : Packet) : Option FabReq :=
  s.fab.outstanding.find? (fun r => !r.posted && r.unit == LPkt.UNIT.get p.hdr &&
    r.dest == LPkt.SRC.get p.hdr && r.cls == LPkt.CLASS.get p.hdr && r.seq == LPkt.SEQ.get p.hdr)

/-- A part of a bulk get whose bytes meet a full deferral buffer waits at its port (R68): where it would be written. -/
def responseWaits (p : Packet) (s : State) : Option (Nat × Nat) :=
  (responseOf s p).bind (fun r =>
    let n := min r.left (LPkt.PLEN.get p.hdr * 64)
    if moverWaits s r.dst n then some (r.dst, n) else none)

/-- FABRIC_RESPONSE (R328, R333): a load's or atomic's value, or one part of a bulk get, written as it arrives. -/
def fabricResponse (p : Packet) (s : State) : State :=
  match responseOf s p with
  | none => s
  | some r =>
    let st := LPkt.STATUS.get p.hdr
    if r.left = 0 then completeReq s r st (if st = St.ok then bytesOf (LPkt.DATA.get p.hdr) 8 else [])
    else if st ≠ St.ok then completeReq s r st []
    else if pageStatus s r.dst (min r.left (LPkt.PLEN.get p.hdr * 64)) ≠ St.ok then
      completeReq s r (pageStatus s r.dst (min r.left (LPkt.PLEN.get p.hdr * 64))) []
    else
      let n := min r.left (LPkt.PLEN.get p.hdr * 64)
      let s := moverWrite s (4, 3 * unitDie r.unit) r.dst (pktBytes p n)
      -- a tile on its way between two other chips goes on
      let s := if r.serves.isSome && decide (2 ^ 53 ≤ r.dst) then
          putPackets s r.serves r.unit ((r.dst - 2 ^ 53) / 2 ^ 40) 3 (pktSeat p) (r.dst % 2 ^ 40) (pktBytes p n)
        else s
      if r.left ≤ n then completeReq s r St.ok []
      else { s with fab := { s.fab with outstanding := s.fab.outstanding.map (fun q =>
        if q = r then { q with dst := q.dst + n, left := q.left - n } else q) } }

def execFabricResponse (port : Nat) (p : Packet) (s : State) : Host.Outcome State Fault Refusal :=
  act .link (when (fun s => arrives s port p && LPkt.TYPE.get p.hdr == 7)
    (fun s =>
      match responseWaits p s with
      | some w => blockMover s w.1 w.2
      | none => if pktBad p then discard (received s port) port p else fabricResponse p (received s port))) s

/-- FENCE (R335). -/
def fence (unit : Nat) (s : State) : State :=
  settleFences { s with fab := { s.fab with fences := s.fab.fences ++ [⟨unit, St.ok⟩] } }

/-- A fence follows the requests that its unit has yet to issue. -/
def execFence (unit : Nat) (s : State) : Host.Outcome State Fault Refusal :=
  act .banker (when (fun s => decide (unit < 5 * 4096) && !s.fab.fences.any (fun f => f.unit == unit) &&
    !s.fab.held.any (fun h => h.req.unit == unit)) (fence unit)) s

/-! ## Forwarding (R338 to R342) -/

/-- A packet for this device that the router discards and no row of its TYPE takes in: one of a reserved TYPE, or a DISPATCH or
MESSAGE packet with a nonzero RSV bit or a field out of range (R329). -/
def strayed (s : State) (p : Packet) : Bool :=
  let t := LPkt.TYPE.get p.hdr
  LPkt.DEST.get p.hdr == ownChip s && pktBad p && (t == 0 || decide (8 ≤ t))

/-- PACKET_FORWARD: a packet that arrived on a torus link and is not taken in here. -/
def forward (port : Nat) (p : Packet) (s : State) : State :=
  if pktBad p then discard s port p
  else if LPkt.STAG.get p.hdr ≠ ownTag s then dropPacket (s.countPort port 0x030 1) port p St.noroute
  else
    match outPort s port (LPkt.DEST.get p.hdr) with
    | some out => queuePacket s port out p
    | none => dropPacket s port p St.noroute

def execPacketForward (port : Nat) (p : Packet) (s : State) : Host.Outcome State Fault Refusal :=
  act .link (when (fun s => decide (port < 6) && isMatch s port && (LPkt.DEST.get p.hdr != ownChip s || strayed s p))
    (fun s => forward port p (received s port))) s

end Sys2Proof.Machine
end

