-- ==== Sys2Proof/Machine/Banks.lean ====
section
/-! DEFINITION. Shared memories: the bank groups of the ingots and the ports of holding memory, the accesses that wait for
them, refresh and scrub, the duty governor (03_ingots.md, 09_tiers.md, 13_fabric.md, 16_seats.md, 19_reliability.md). -/

namespace Sys2Proof.Machine

/-! ## An access that waits: what it touches, how it is performed, how it ends -/

/-- Does the bank group's pip present a request: beats are wanted and the FIFO has room (R90)? -/
def pipPresents (s : State) (p : Nat) : Bool :=
  (s.pip p).running && decide ((s.pip p).fifo.length < 8) && (s.pip p).streams.any (fun t => decide (t.next < t.count))

def extKey (i : Nat) (r : ExtReq) : Nat := i * ingotSize + r.off
def extBytes (r : ExtReq) : List Byte := bytesOf r.data.toNat r.len

/-- The bytes that an access writes. -/
def entBytes (e : ExtEnt) : List Byte :=
  match e.src with
  | .packet p => pktStored p
  | _ => extBytes e.req

def isAtomic (e : ExtEnt) : Bool :=
  match e.src with
  | .packet p => LPkt.TYPE.get p.hdr == 3
  | _ => false

/-- Less than whole aligned words (R72). -/
def isPartial (r : ExtReq) : Bool := decide (r.off % 8 ≠ 0) || decide (r.len % 8 ≠ 0)

/-- pc that an external grant of the access holds its bank group (R59). -/
def entPc (e : ExtEnt) : Nat := if isAtomic e || (e.req.write && isPartial e.req) then 4 else 2

/-- A write-back of a corrected word: it is deferred on a locked page (R67), else the word is re-encoded in place. -/
def correctWord (s : State) (k : Nat) : State :=
  if lockedAt s k then deferWrite s (k / ingotSize) (offPage (k % ingotSize)) (k % 16384) (readBytes s k 8)
  else clearCorr s k 8

/-- Is the word among those that the error log holds (R474)? -/
def logged (s : State) (w : Nat) : Bool :=
  s.bank.errLog.any (fun e => LErr.ADDR.get e == devAddr s w && decide (LErr.CLASS.get e ≤ 3))

/-- Logs what a scrub read found, but for words that the log holds already (R474). -/
def scrubLog (s : State) (cls : Nat) (l : List Nat) : State :=
  l.foldl (fun s w => if logged s w then s else logError s (devAddr s w) cls 2 0 none false) s

/-- A patrol-scrub read of 256 bytes of holding memory; a pass ends with its base die's last bytes (R475). -/
def hmScrub (base : Nat) (s : State) : State :=
  let n := (base - hmBase) / 0x80000000
  let corr := corrWords s base 256
  let bad := badWords s base 256
  let s := (s.countDev (0x200 + n * 0x40) corr.length).countDev (0x208 + n * 0x40) bad.length
  let s := scrubLog (corr.foldl scrubFix s) 2 bad
  if (base - hmBase) % 0x80000000 + 256 = 0x80000000 then s.countDev (0x220 + n * 0x40) 1 else s

/-- Performs an access at its memory and completes it. -/
def performEnt (s : State) (k : Nat) (e : ExtEnt) : State :=
  match e.src with
  | .interface =>
    if e.req.write then
      let t := extWrite s k (extBytes e.req) e.req.seat
      t.1.emit (.ext (k / ingotSize) e.req t.2 [])
    else
      let t := extRead s k e.req.len e.req.seat
      t.1.emit (.ext (k / ingotSize) e.req t.2.1 t.2.2)
  | .avkin =>
    if e.req.write then
      let t := extWrite s k (extBytes e.req) e.req.seat
      t.1.emit (.avkin t.2 [])
    else
      let t := extRead s k e.req.len e.req.seat
      t.1.emit (.avkin t.2.1 t.2.2)
  | .packet p => performPacket s p
  | .store => writePiece s k (extBytes e.req) e.req.seat
  | .correct => correctWord s k
  | .scrub => hmScrub k s
  | .mover => s
  | .blocked => s

/-- Ends an access without performing it. -/
def failEnt (s : State) (i : Nat) (e : ExtEnt) (st : Nat) : State :=
  match e.src with
  | .interface => s.emit (.ext i e.req st [])
  | .avkin => s.emit (.avkin st [])
  | .packet p => failPacket s p st
  | _ => s

/-! ## The bank group as a shared resource (R59 to R64, R68) -/

/-- Ext pc granted in the 64 pc that end with pc `e` (R62). -/
def extPcIn (l : List (Nat × Nat)) (e : Nat) : Nat :=
  (l.map (fun g => (List.range g.2).countP (fun i => decide (e < g.1 + i + 64) && decide (g.1 + i ≤ e)))).foldl (· + ·) 0

/-- A refresh of the bank group is due at this pc count. -/
def refreshDue (s : State) (i bg : Nat) : Bool :=
  let pc := pcNow s
  if govMode s i ≥ 2 then pc % 1024 == 32 * (bg % 32) else pc % 2048 == 64 * (bg % 32)

/-- Does every piece of a write lie on a locked page? -/
def allLocked (s : State) (k : Nat) (bs : List Byte) : Bool := (piecesOf k bs).all (fun p => lockedAt s p.1)

/-- Does a write wait at its memory for the end of a MOVE or DROP (R241, R243)? -/
def heldByMove (s : State) (k : Nat) (e : ExtEnt) : Bool :=
  e.req.write && e.src != .mover && (holderOf s k e.req.len).isSome

/-- Room in the deferral buffer for an access's write: a pip's store is one write, any other is cut into blocks (R67). -/
def roomFor (s : State) (i : Nat) (e : ExtEnt) : Bool :=
  if e.src = .store then deferRoomOne s (extKey i e.req) else deferRoom s (extKey i e.req) (entBytes e)

/-- Does an access need no slot of its bank group: its channel is lost, or the deferral buffer takes or serves it (R67)? -/
def slotless (s : State) (i : Nat) (e : ExtEnt) : Bool :=
  let k := extKey i e.req
  e.src != .mover && !heldByMove s k e &&
  ((chanLost s i (pageBg (offPage e.req.off)) && e.req.queue != 4) ||
  (if e.req.write then
      (if e.src = .store then lockedAt s k else allLocked s k (entBytes e)) && roomFor s i e && (!isAtomic e || viewDeferred s k 8)
    else viewDeferred s k e.req.len))

/-- Is the head of a queue held by a full deferral buffer (R68)? -/
def heldByBuffer (s : State) (i : Nat) (e : ExtEnt) : Bool :=
  e.req.write && e.src != .mover && !roomFor s i e

/-- Performs a queue's access; its burst on the bank group's channel is good, so that no try of it counts on (R58). -/
def performQueued (s : State) (i : Nat) (e : ExtEnt) : State :=
  let c := pageBg (offPage e.req.off) % 96
  let s := if Tab.get (s.ingot i).tries 0 c = 0 then s else s.updIngot i (fun x => { x with tries := Tab.erase x.tries c })
  performEnt s (extKey i e.req) e

/-- Performs the accesses at queue heads that need no slot, at most n of them. -/
def performSlotless (i bg : Nat) : Nat → State → State
  | 0, s => s
  | n + 1, s =>
    match (List.range 5).find? (fun q =>
        match Tab.get (bankGroup s i bg).queues [] q with
        | e :: _ => slotless s i e
        | [] => false) with
    | none => s
    | some q =>
      match Tab.get (bankGroup s i bg).queues [] q with
      | e :: rest =>
        performSlotless i bg n
          (performQueued (updBankGroup s i bg (fun x => { x with queues := Tab.set x.queues [] q rest })) i e)
      | [] => s

/-- External grants of late enough to count towards the limit of R62 at pc count `pc`. -/
def nearExt (x : BankGroup) (pc : Nat) : List (Nat × Nat) := x.ext.filter (fun g => decide (pc < g.1 + g.2 + 64))

/-- Would an external grant of n pc at this pc pass the limit that the presenting pip sets (R62)? -/
def overLimit (s : State) (i bg n : Nat) : Bool :=
  pipPresents s (i * 384 + bg) &&
    decide (extPcIn ((pcNow s, n) :: nearExt (bankGroup s i bg) (pcNow s)) (pcNow s + n - 1) > 48)

/-- Does the bank group make no external grant in this pc: it is held, refresh is due, or the stack has tripped (R24, R59,
R60, R76)? -/
def bankBusy (s : State) (i bg : Nat) : Bool :=
  decide (pcNow s < (bankGroup s i bg).freeAt) || refreshDue s i bg || govMode s i == 3

/-- The bank group is held by an external grant of n pc from this pc on. -/
def holdExt (s : State) (i bg n : Nat) : State :=
  (updBankGroup s i bg (fun x =>
    { x with freeAt := pcNow s + n, ext := (pcNow s, n) :: nearExt x (pcNow s) })).countIngot i 0x060 1

/-- The first write of the deferral buffer that `p` accepts is performed by an external grant (R69). One that fills no whole
words and finds its word uncorrectable is dropped: it completed when it was placed (R67), and R72 leaves the word (DESIGN
CHOICE, log entry 102). As which requester of the
class it counts is not stated: it counts as none, and the class's pointer stays (DESIGN CHOICE, log entry 68). -/
def grantDeferred (s : State) (i : Nat) (p : Deferred → Bool) : State :=
  match (s.ingot i).defer.find? p with
  | none => s
  | some d =>
    let n := if d.off % 8 = 0 && d.bytes.length % 8 == 0 then 2 else 4
    if overLimit s i (pageBg d.page) n then s
    else
      let s := holdExt s i (pageBg d.page) n
      let s := s.updIngot i (fun x => { x with defer := x.defer.erase d })
      (memWrite s (pageKey i d.page + d.off) d.bytes 0).1

/-- One grant of the external class (R24, R59, R61, R62): the ready writes of the deferral buffer go first and move no
pointer (R69; log entry 68); then the queues' heads by the class's pointer. -/
def grantExt (s : State) (i bg : Nat) : State :=
  let x := bankGroup s i bg
  if bankBusy s i bg then s
  else if (s.ingot i).defer.any (fun d => d.ready && pageBg d.page == bg) then
    grantDeferred s i (fun d => d.ready && pageBg d.page == bg)
  else
    let ready := fun q => match Tab.get x.queues [] q with
      | e :: _ => !heldByBuffer s i e && !heldByMove s (extKey i e.req) e
      | [] => false
    match grant ready x.ptr 5 with
    | none => s
    | some (q, ptr) =>
      match Tab.get x.queues [] q with
      | [] => s
      | e :: rest =>
        if overLimit s i bg (entPc e) then s
        else
          let s := updBankGroup (holdExt s i bg (entPc e)) i bg (fun y => { y with ptr := ptr })
          if e.left ≤ 1 then
            performQueued (updBankGroup s i bg (fun y => { y with queues := Tab.set y.queues [] q rest })) i e
          else
            updBankGroup s i bg (fun y => { y with queues := Tab.set y.queues [] q ({ e with left := e.left - 1 } :: rest) })

/-- Accesses that wait in the queues of a bank group. -/
def waitingAt (s : State) (i bg : Nat) : Nat :=
  ((List.range 5).map (fun q => (Tab.get (bankGroup s i bg).queues [] q).length)).foldl (· + ·) 0

/-- What needs no slot is performed, and the external class makes one grant if the bank group is free. -/
def bankServe (s : State) (i bg : Nat) : State := grantExt (performSlotless i bg (waitingAt s i bg) s) i bg

/-! ## The seat admission stages of queues 2 and 3 (R416) -/

def ingotWeight (s : State) (n : Nat) : Nat := LSeatCfg.W_ING.get (s.seat n).cfg

def stageOf (s : State) (i q : Nat) : Stage (Nat × ExtEnt) := Tab.get (s.ingot i).stages Stage.reset q
def setStage (s : State) (i q : Nat) (x : Stage (Nat × ExtEnt)) : State :=
  s.updIngot i (fun g => { g with stages := Tab.set g.stages Stage.reset q x })

/-- A stage that has admitted none in this pc admits one access, and its bank group is served. -/
def admitStage (s : State) (i q : Nat) : State :=
  if pcNow s < (stageOf s i q).free then s
  else
    match admitOneOf (fun x => x.2.req.seat) (ingotWeight s) (stageOf s i q) with
    | none => s
    | some ((bg, e), st) => bankServe (pushExt (setStage s i q { st with free := pcNow s + 1 }) i bg e) i bg

/-- An access reaches its crucible: in a thermal trip it completes at once (R76); else it enters its queue, those of the
Avkin link and the fabric through their stage (R61, R416). -/
def enqueueExt (s : State) (i bg : Nat) (e : ExtEnt) : State :=
  if govMode s i = 3 then failEnt s i e St.thermal
  else if e.req.queue = 2 || e.req.queue = 3 then
    let st := stageOf s i e.req.queue
    admitStage (setStage s i e.req.queue { st with waiting := st.waiting ++ [(bg, e)] }) i e.req.queue
  else pushExt s i bg e

/-! ## The holding-memory port as a shared resource (R24, R28, R254) -/

/-- Requesters of each class, in R254's order. -/
def hmSizes : List Nat := [1, 2, 32, 7, 12, 1]

/-- hc granted, of the n hc that end with hc count h, to classes that `p` accepts; a grant of 2 hc stands twice. -/
def hmPast (x : HmPort) (h n : Nat) (p : Nat → Bool) : Nat := x.past.countP (fun g => decide (h < g.1 + n) && p g.2)

/-- May the class be granted in hc h, by the bounds of R254's last column? -/
def hmAllowed (x : HmPort) (h c : Nat) : Bool :=
  let has := fun d => x.waits.any (fun r => r.cls == d)
  !(c == 0 && decide (hmPast x h 32 (· == 0) ≥ 1)) &&
  !(c == 1 && has 2 && decide (hmPast x h 64 (· == 1) ≥ 32)) &&
  !(decide (c < 4) && has 4 && decide (hmPast x h 64 (fun d => decide (d < 4)) ≥ 60)) &&
  !(decide (c < 5) && has 5 && decide (hmPast x h 256 (fun d => decide (d < 5)) ≥ 255))

/-- One hc of a base die's port: the highest class present that its bound allows, its requester by the class's pointer. An
atomic is one grant of 2 hc (R332). -/
def hmGrant (s : State) (d : Nat) : State :=
  let x := s.hmPort d
  let h := hcNow s
  if h < x.freeAt then s
  else
    let here := fun (r : HmReq) => !heldByMove s r.key r.ent
    match (List.range 6).find? (fun c => x.waits.any (fun r => r.cls == c && here r) && hmAllowed x h c) with
    | none => s
    | some c =>
      match grant (fun n => x.waits.any (fun r => r.cls == c && r.num == n && here r)) (Tab.get x.ptrs 0 c) (hmSizes.getD c 1) with
      | none => s
      | some (n, ptr) =>
        match x.waits.find? (fun r => r.cls == c && r.num == n && here r) with
        | none => s
        | some r =>
          let late := x.past.filter (fun g => decide (h < g.1 + 256))
          performEnt (s.setHmPort d { x with waits := x.waits.erase r, ptrs := Tab.set x.ptrs 0 c ptr,
                                             past := (if isAtomic r.ent then [(h + 1, c), (h, c)] else [(h, c)]) ++ late,
                                             freeAt := h + if isAtomic r.ent then 2 else 1 })
            r.key r.ent

/-- Presents a request at a base die's port; a port that is free in this hc makes its grant. -/
def hmPresent (s : State) (d : Nat) (r : HmReq) : State :=
  hmGrant (s.updHmPort d (fun x => { x with waits := x.waits ++ [r] })) d

/-- An access of the Avkin link (requester 0) or of torus port p (p + 1) goes to its memory: through the external queues in
T2, through the port in T1 (R61, R254, R330), at once elsewhere. Of one that reaches into a second page, that page's bank group
makes the grants of its part (R59). -/
def serveAt (s : State) (k num : Nat) (e : ExtEnt) : State :=
  if isT2 k then
    let n := min e.req.len (16384 - k % 16384)
    let e' := if n < e.req.len then { e with left := cdiv n 64 } else e
    let s := if n < e.req.len && isT2 (k + n) then pushPart s e.req.queue (k + n) (e.req.len - n) e.req.write else s
    enqueueExt s (k / ingotSize) (pageBg (offPage (k % ingotSize))) e'
  else if isT1 k then hmPresent s (hmDie k) ⟨3, num, k, e⟩
  else performEnt s k e

/-- HM_SCRUB_READ (R254, R475): the patrol-scrub requester presents the read of 256 bytes. -/
def execHmScrubRead (base : Nat) (s : State) : Host.Outcome State Fault Refusal :=
  act .refresh (when (fun _ => decide (hmBase ≤ base) && decide (base < sramBase) && decide (base % 256 = 0))
    (fun s => hmPresent s (hmDie base) ⟨5, 0, base, ⟨⟨0, 0, 0, 256, false, 0#512⟩, .scrub, 1⟩⟩)) s

/-! ## External accesses as commands -/

/-- An access that can be in an ingot at all: queue, length, alignment, within one page (R22, R55). -/
def extOk (bg : Nat) (r : ExtReq) : Bool :=
  decide (r.queue < 5) && decide (1 ≤ r.len) && decide (r.len ≤ 64) && decide (r.seat < 64) &&
  decide (r.off + r.len ≤ ingotSize) && offPage r.off == offPage (r.off + r.len - 1) && pageBg (offPage r.off) == bg

/-- One arrival: a misaligned access completes with E_ADDR (R22), any other reaches its queue. -/
def extArrive (i bg : Nat) (s : State) (r : ExtReq) : State :=
  if misaligned r.off r.len then s.emit (.ext i r St.addr []) else enqueueExt s i bg ⟨r, .interface, 1⟩

/-- EXTERNAL_ACCESS: the arrivals enter their queues, and the bank group is served. -/
def externalAccess (i bg : Nat) (arrivals : List ExtReq) (s : State) : State :=
  bankServe ((arrivals.filter (extOk bg)).foldl (extArrive i bg) s) i bg

def ingotOk (i : Nat) : Bool := decide (i < 16)
def bgOk (i bg : Nat) : Bool := decide (i < 16) && decide (bg < 384)

def execExternalAccess (ingot bg : Nat) (arrivals : List ExtReq) (s : State) : Host.Outcome State Fault Refusal :=
  act .ingot (when (fun _ => bgOk ingot bg) (externalAccess ingot bg arrivals)) s

/-- DEFERRED_WRITE_DRAIN (R69): the first ready write of the page is performed by an external grant, outside the queues'
pointer (DESIGN CHOICE, log entry 68). -/
def deferredDrain (i page : Nat) (s : State) : State := grantDeferred s i (fun d => d.page == page && d.ready)

def execDeferredWriteDrain (ingot page : Nat) (s : State) : Host.Outcome State Fault Refusal :=
  act .ingot (when (fun s => ingotOk ingot && !bankBusy s ingot (pageBg page)) (deferredDrain ingot page)) s

/-! ## Burst errors of an ingot channel (R58) -/

/-- The bank group and queue whose head is taken for the access that a failing burst of the channel belongs to: the lowest queue
of the channel's lowest bank group where one waits. The manual does not say which of several it is, and a burst of an access
that waits in no queue ends none (DESIGN CHOICE, log entry 101). -/
def channelHead (s : State) (i c : Nat) : Option (Nat × Nat) :=
  (((s.ingot i).bgs.map (·.1)).filter (fun bg => bg % 96 == c)).findSome? (fun bg =>
    ((List.range 4).find? (fun q => !(Tab.get (bankGroup s i bg).queues [] q).isEmpty)).map (fun q => (bg, q)))

/-- The access at the head completes with E_LINK. -/
def failHead (s : State) (i c : Nat) : State :=
  match channelHead s i c with
  | none => s
  | some (bg, q) =>
    match Tab.get (bankGroup s i bg).queues [] q with
    | [] => s
    | e :: rest => failEnt (updBankGroup s i bg (fun x => { x with queues := Tab.set x.queues [] q rest })) i e St.link

/-- A burst whose CRC does not match: a replay, or on the eighth try E_LINK, the count, the log and a retraining pass. -/
def burstError (i c : Nat) (s : State) : State :=
  let tries := Tab.get (s.ingot i).tries 0 c + 1
  if tries < 8 then
    ((s.updIngot i (fun x => { x with tries := Tab.set x.tries 0 c tries,
                                      replays := Tab.upd x.replays 0 c (· + 1) })).countIngot i 0x098 1).emit (.burstReplay i c)
  else
    let s := (s.updIngot i (fun x => { x with tries := Tab.set x.tries 0 c 0 })).countIngot i 0x0A0 1
    let s := logError s (i * 96 + c) 4 0 0 none false
    failHead (startPass (s.emit (.done i c St.link [])) i c) i c

/-- CHANNEL_BURST_CRC_ERROR (R58): a burst with a wrong CRC; one with the right CRC ends the tries of its channel. -/
def execChannelBurstCrcError (ingot channel : Nat) (data : BitVec 512) (crc : W16) (s : State) :
    Host.Outcome State Fault Refusal :=
  act .refresh (when (fun _ => decide (ingot < 16) && decide (channel < 96)) (fun s =>
    if crc16 data = crc then s.updIngot ingot (fun x => { x with tries := Tab.erase x.tries channel })
    else burstError ingot channel s)) s

/-! ## Requests that torus packets carry (R330 to R334) -/

/-- The request of a packet is checked and goes to its memory (R22, R330, R361). -/
def takeRequest (port : Nat) (p : Packet) (s : State) : State :=
  let n := pktSpan p
  let bulk := LPkt.TYPE.get p.hdr == 4 || LPkt.TYPE.get p.hdr == 5
  let st := remoteStatus s p (pktWrites p) (pktOff p) n
  if LPkt.TYPE.get p.hdr = 5 && (bulkOf s p).isNone then answer s p St.packet 0
  else if bulk && pktOff p % 64 != 0 then failPacket s p St.addr
  else if !bulk && misaligned (pktOff p) n then answer s p St.addr 0
  else if st ≠ St.ok then failPacket (noteRemote s p st) p st
  else serveAt s (pktOff p) (port + 1)
    ⟨⟨3, pktSeat p, pktOff p % ingotSize, n, pktWrites p, 0#512⟩, .packet p, cdiv n 64⟩

/-- FABRIC_LOAD (R330). -/
def execFabricLoad (port : Nat) (p : Packet) (s : State) : Host.Outcome State Fault Refusal :=
  packetRow 1 port p (flowWaits p none) (takeRequest port p) s

/-- FABRIC_STORE (R330). -/
def execFabricStore (port : Nat) (p : Packet) (s : State) : Host.Outcome State Fault Refusal :=
  packetRow 2 port p (flowWaits p none) (takeRequest port p) s

/-- FABRIC_ATOMIC (R331, R332). -/
def execFabricAtomic (port : Nat) (p : Packet) (s : State) : Host.Outcome State Fault Refusal :=
  packetRow 3 port p (flowWaits p none) (takeRequest port p) s

/-- BULK_GET (R333). -/
def execBulkGet (port : Nat) (p : Packet) (s : State) : Host.Outcome State Fault Refusal :=
  packetRow 4 port p (flowWaits p none) (takeRequest port p) s

/-- BULK_DATA (R333): the payload is written at ADDR. -/
def execBulkData (port : Nat) (p : Packet) (s : State) : Host.Outcome State Fault Refusal :=
  packetRow 5 port p (flowWaits p none) (takeRequest port p) s

/-! ## Locks that expire (R70) -/

/-- pc in 100 ms. -/
def lockLife : Nat := 67500000

/-- LOCK_EXPIRY (R70): locks of the page and remote query-buffer bindings 100 ms old end. -/
def lockExpire (i page : Nat) (s : State) : State :=
  let old := fun (since : Nat) => decide (since + lockLife ≤ pcNow s)
  let n := ((pageLocks (s.ingot i) page).filter (fun l => old l.since)).length
  let unbind := fun (e : Nat × QEnt) =>
    if e.2.bound.isSome && old e.2.since then (e.1, { e.2 with bound := none }) else e
  (s.updIngot i (fun x =>
    let y := keepLocks x (fun pg l => pg != page || !old l.since)
    { y with qbuf := y.qbuf.map unbind })).countIngot i 0x078 n

/-! ## Refresh and patrol scrub (R60, R76, R474) -/

/-- The 256 bytes at the scrub cursor pass the decoder; the cursor moves on (R474). -/
def scrub (i bg : Nat) (s : State) : State :=
  let c := (bankGroup s i bg).scrub
  let k := pageKey i (c / 64 * 384 + bg) + c % 64 * 256
  let corr := corrWords s k 256
  let bad := badWords s k 256
  let s := (s.countIngot i 0x100 corr.length).countIngot i 0x108 bad.length
  let s := scrubLog (corr.foldl queueFix (s.countIngot i 0x090 bad.length)) 1 bad
  let s := updBankGroup s i bg (fun x => { x with scrub := (c + 1) % 524288 })
  if bg = 0 && c + 1 = 524288 then s.countIngot i 0x0F8 1 else s

/-- REFRESH (R59, R60): two rows of each bank, 54 pc, with the patrol scrub's read. Where an external grant, which R59 lets
nothing interrupt, still holds the bank group, the 54 pc begin as it ends: the manual says no more (DESIGN CHOICE, log
entry 100). -/
def refresh (i bg : Nat) (s : State) : State :=
  let x := bankGroup s i bg
  scrub i bg (setBankGroup s i bg { x with freeAt := max x.freeAt (pcNow s) + 54, refreshTo := max x.freeAt (pcNow s) + 54,
                                           refreshRow := (x.refreshRow + 2) % 16384 })

def execRefresh (ingot bg : Nat) (s : State) : Host.Outcome State Fault Refusal :=
  act .refresh (when (fun s => bgOk ingot bg && refreshDue s ingot bg) (refresh ingot bg)) s

/-! ## The duty governor (R74 to R78) -/

/-- A sensor's reading; none counts as 96 degrees (R77). -/
def sensorTemp (r : Option Int) : Nat := match r with
  | some t => t.toNat
  | none => 96

/-- GOV_SENSOR_SAMPLE: one reading of each DRAM die of the ingot. -/
def govSample (i : Nat) (readings : List (Option Int)) (s : State) : State :=
  let l := (List.range 12).map (fun d => (d, readings.getD d none))
  s.updIngot i (fun x =>
    let gov := if l.any (fun e => e.2.isNone) then LGovSt.SENSOR_FAULT.set x.gov 1 else x.gov
    { x with readings := x.readings ++ l.map (fun e => (e.1, sensorTemp e.2)), gov := gov })

def execGovSensorSample (ingot : Nat) (readings : List (Option Int)) (s : State) : Host.Outcome State Fault Refusal :=
  act .refresh (when (fun s => ingotOk ingot && decide (pcNow s % 256 = 0)) (govSample ingot readings)) s

/-- The interval's temperature and its lowest-numbered die; an interval without a reading is one without a valid one. -/
def hottest (l : List (Nat × Nat)) : Nat × Nat :=
  let l := if l.isEmpty then (List.range 12).map (fun d => (d, 96)) else l
  let t := (l.map (·.2)).foldl max 0
  (((l.filter (fun e => e.2 == t)).map (·.1)).foldl min 11, t)

/-- D for the next interval (R75); power in units of 0.125 W. -/
def nextDuty (d p t plim tlim : Nat) : Nat :=
  if p > 8 * plim || decide (t > tlim) then max 64 (d - 64)
  else if p + 8 ≤ 8 * plim && decide (t + 2 ≤ tlim) then min 1024 (d + 16) else d

/-- MODE for the next interval (R76, R78). -/
def nextMode (mode t d : Nat) : Nat :=
  if decide (t > 105) || (mode == 3 && t == 105) then 3
  else if decide (t > 100) || (decide (mode ≥ 2) && t == 100) then 2
  else if d = 1024 then 0 else 1

/-- Every waiting external access of an ingot completes with E_THERMAL (R76). -/
def tripQueues (s : State) (i : Nat) : State :=
  let x := s.ingot i
  let all := x.bgs.flatMap (fun e => (List.range 5).flatMap (fun q => Tab.get e.2.queues [] q)) ++
    x.stages.flatMap (fun e => e.2.waiting.map (·.2))
  let s := s.setIngot i { x with bgs := x.bgs.map (fun e => (e.1, { e.2 with queues := [] })),
                                 stages := x.stages.map (fun e => (e.1, { e.2 with waiting := [] })) }
  all.foldl (fun s e => failEnt s i e St.thermal) s

/-- GOV_INTERVAL_END. A power above the POWER field's 1,023 units shows as 1,023: the manual does not say what the field holds
then (R74; DESIGN CHOICE, log entry 84). -/
def govEnd (i microwatt : Nat) (s : State) : State :=
  let x := s.ingot i
  let p := min 1023 (cdiv microwatt 125000)
  let h := hottest x.readings
  let d := nextDuty x.duty (cdiv microwatt 125000) h.2 (LGovLim.P_LIMIT.get x.limit) (LGovLim.T_LIMIT.get x.limit)
  let m := nextMode (LGovSt.MODE.get x.gov) h.2 d
  let old := LGovSt.MODE.get x.gov
  let gov := setAll x.gov [(LGovSt.DUTY, if m ≥ 2 then 0 else d), (LGovSt.TEMP, h.2), (LGovSt.HOT_DIE, h.1),
    (LGovSt.POWER, p), (LGovSt.MODE, m)]
  let s := s.setIngot i { x with duty := d, readings := [], gov := gov }
  let s := if m = 3 then tripQueues s i else s
  let s := sbIngots s
  if m ≥ 2 && m != old then deviceEvent s LEv.THERMAL else s

def execGovIntervalEnd (ingot microwatt : Nat) (s : State) : Host.Outcome State Fault Refusal :=
  act .refresh (when (fun s => ingotOk ingot && decide (pcNow s % 1024 = 0)) (govEnd ingot microwatt)) s

end Sys2Proof.Machine
end

