-- ==== Sys2Proof/Machine/Fp.lean ====
section
/-! DEFINITION. The number formats and the arithmetic of the pips, the matrix engines, the vector engines and the
dice units: exact results on dyadic numbers, rounded once (R82, R83, R174, R224, R229, R230). -/

namespace Sys2Proof.Machine

/-- A decoded number: a NaN with the FP32 word that supplied it, an infinity, or (−1)^neg · m · 2^e. -/
inductive Num where
  | nan (src : W32)
  | inf (neg : Bool)
  | fin (neg : Bool) (m : Nat) (e : Int)
  deriving DecidableEq, Repr

/-- The default quiet NaN (R178, R229). -/
def qnan : W32 := 0x7FC00000#32

/-- The magnitude bits of m · 2^e (plus something smaller when `st`) in the format with `p` significant bits and
least exponent `emin`, rounded to nearest even. -/
def packNE (p : Nat) (emin : Int) (m : Nat) (e : Int) (st : Bool) : Nat :=
  let m1 := if st then m * 2 ^ (p + 2) else m
  let e1 : Int := if st then e - (p + 2) else e
  if m1 = 0 then 0 else
  let q : Int := max (e1 + (Nat.log2 m1 + 1) - p) emin
  let k :=
    if q ≤ e1 then m1 * 2 ^ (e1 - q).toNat
    else
      let sh := (q - e1).toNat
      let r := m1 % 2 ^ sh
      let h := 2 ^ (sh - 1)
      let k0 := m1 / 2 ^ sh
      if r > h ∨ (r = h ∧ (st ∨ k0 % 2 = 1)) then k0 + 1 else k0
  (q - emin).toNat * 2 ^ (p - 1) + k

/-- The magnitude bits of m · 2^e truncated toward zero (R176). -/
def packTZ (p : Nat) (emin : Int) (m : Nat) (e : Int) : Nat :=
  if m = 0 then 0 else
  let q : Int := max (e + (Nat.log2 m + 1) - p) emin
  let k := if q ≤ e then m * 2 ^ (e - q).toNat else m / 2 ^ (q - e).toNat
  (q - emin).toNat * 2 ^ (p - 1) + k

/-- Decodes a floating word of `ebits` exponent bits and `mbits` mantissa bits with infinities and NaNs. -/
def decIeee (ebits mbits : Nat) (x : Nat) (src : W32) : Num :=
  let neg := x / 2 ^ (ebits + mbits) % 2 = 1
  let ex := x / 2 ^ mbits % 2 ^ ebits
  let fr := x % 2 ^ mbits
  let emin : Int := 2 - (2 ^ (ebits - 1) : Int) - mbits
  if ex = 2 ^ ebits - 1 then (if fr = 0 then .inf neg else .nan src)
  else if ex = 0 then .fin neg fr emin
  else .fin neg (2 ^ mbits + fr) (emin + (ex - 1 : Int))

/-- FP32. -/
def dec32 (x : W32) : Num := decIeee 8 23 x.toNat x

/-- BF16: the upper half of an FP32 value (R82). -/
def decBf16 (x : Nat) : Num := dec32 (BitVec.ofNat 32 (x % 65536 * 65536))

/-- FP64; a NaN stands as the default one. -/
def dec64 (x : W64) : Num := decIeee 11 52 x.toNat qnan

/-- FP8 E4M3 (R82): no infinities; S.1111.111 is NaN. -/
def decE4m3 (x : Nat) : Num :=
  let neg := x / 128 % 2 = 1
  let ex := x / 8 % 16
  let fr := x % 8
  if x % 128 = 127 then .nan (if neg then 0xFFC00000#32 else qnan)
  else if ex = 0 then .fin neg fr (-9)
  else .fin neg (8 + fr) (-9 + (ex - 1 : Int))

/-- FP4 E2M1 (R82). -/
def decE2m1 (x : Nat) : Num :=
  let neg := x / 8 % 2 = 1
  let ex := x / 2 % 4
  let fr := x % 2
  if ex = 0 then .fin neg fr (-1) else .fin neg (2 + fr) (-1 + (ex - 1 : Int))

/-- E8 scale (R82): 2^(b − 127); byte 255 is NaN. -/
def decE8 (x : Nat) : Num := if x % 256 = 255 then .nan qnan else .fin false 1 ((x % 256 : Nat) - 127 : Int)

/-- FP32 word of a sign and magnitude bits. -/
def sign32 (neg : Bool) (mag : Nat) : W32 := BitVec.ofNat 32 (if neg then 2 ^ 31 + mag else mag)

/-- Rounds to FP32, round to nearest even, overflow to infinity (R83, R229); a NaN is quieted (R229). -/
def enc32 (x : Num) (st : Bool := false) : W32 :=
  match x with
  | .nan s => s ||| 0x00400000#32
  | .inf neg => sign32 neg 0x7F800000
  | .fin neg m e => sign32 neg (min (packNE 24 (-149) m e st) 0x7F800000)

/-- Rounds to FP64, infinities as IEEE, NaN as R194 states. -/
def enc64 (x : Num) : W64 :=
  match x with
  | .nan _ => 0x7FF8000000000000#64
  | .inf neg => BitVec.ofNat 64 ((if neg then 2 ^ 63 else 0) + 0x7FF0000000000000)
  | .fin neg m e => BitVec.ofNat 64 ((if neg then 2 ^ 63 else 0) + min (packNE 53 (-1074) m e false) 0x7FF0000000000000)

def Num.isNan : Num → Bool
  | .nan _ => true
  | _ => false

def Num.isInf : Num → Bool
  | .inf _ => true
  | _ => false

def Num.isZero : Num → Bool
  | .fin _ m _ => m == 0
  | _ => false

def Num.neg : Num → Num
  | .nan s => .nan s
  | .inf n => .inf (!n)
  | .fin n m e => .fin (!n) m e

def Num.abs : Num → Num
  | .nan s => .nan s
  | .inf _ => .inf false
  | .fin _ m e => .fin false m e

def Num.isNeg : Num → Bool
  | .nan _ => false
  | .inf n => n
  | .fin n _ _ => n

/-- The signed integer m scaled to exponent `q ≤ e`. -/
def scaleTo (neg : Bool) (m : Nat) (e q : Int) : Int :=
  let v : Int := (m * 2 ^ (e - q).toNat : Nat)
  if neg then -v else v

/-- The exact number of a signed integer times 2^q. -/
def ofScaled (v : Int) (q : Int) : Num := .fin (decide (v < 0)) v.natAbs q

/-- Exact sum. ∞ − ∞ gives the default NaN; an exact zero is +0.0 unless both addends are −0.0 (R229). The pips use it too,
of which R83 names neither the NaN that propagates, here the first operand's, nor that of an invalid operation, here
0x7FC00000 as on the vector engine (DESIGN CHOICE, log entry 87). -/
def Num.add (a b : Num) : Num :=
  match a, b with
  | .nan s, _ => .nan s
  | _, .nan s => .nan s
  | .inf x, .inf y => if x = y then .inf x else .nan qnan
  | .inf x, _ => .inf x
  | _, .inf y => .inf y
  | .fin na ma ea, .fin nb mb eb =>
    let q := min ea eb
    let v := scaleTo na ma ea q + scaleTo nb mb eb q
    if v = 0 then .fin (na && nb && ma == 0 && mb == 0) 0 q else ofScaled v q

/-- Exact product; 0 × ∞ gives the default NaN (R229). -/
def Num.mul (a b : Num) : Num :=
  match a, b with
  | .nan s, _ => .nan s
  | _, .nan s => .nan s
  | .inf x, .inf y => .inf (x != y)
  | .inf x, .fin nb mb _ => if mb = 0 then .nan qnan else .inf (x != nb)
  | .fin na ma _, .inf y => if ma = 0 then .nan qnan else .inf (na != y)
  | .fin na ma ea, .fin nb mb eb => .fin (na != nb) (ma * mb) (ea + eb)

/-- a < b for two numbers that are no NaN. -/
def Num.lt (a b : Num) : Bool :=
  match a, b with
  | .nan _, _ => false
  | _, .nan _ => false
  | .inf x, .inf y => x && !y
  | .inf x, .fin .. => x
  | .fin .., .inf y => !y
  | .fin na ma ea, .fin nb mb eb =>
    let q := min ea eb
    decide (scaleTo na ma ea q < scaleTo nb mb eb q)

/-- a = b in value. -/
def Num.same (a b : Num) : Bool := !a.isNan && !b.isNan && !(a.lt b) && !(b.lt a)

def f32Add (a b : W32) : W32 := enc32 ((dec32 a).add (dec32 b))
def f32Neg (a : W32) : W32 := a ^^^ 0x80000000#32

/-- a − b; a NaN operand is passed on as it is, not negated (R229). -/
def f32Sub (a b : W32) : W32 := enc32 ((dec32 a).add (dec32 b).neg)
def f32Mul (a b : W32) : W32 := enc32 ((dec32 a).mul (dec32 b))

/-- fma(a, b, c): the product exact, one rounding (R83, R222). The first NaN of the operand order `a, c, b`
that AXPY has, or of `a, b, c`, supplies the result: the caller orders the operands. -/
def f32Fma (a b c : W32) : W32 := enc32 (((dec32 a).mul (dec32 b)).add (dec32 c))

/-- fma on decoded numbers. -/
def numFma (a b : Num) (c : W32) : W32 := enc32 ((a.mul b).add (dec32 c))

/-- Maximum; NaN if either is NaN; +0.0 above −0.0 (R229). -/
def f32Max (a b : W32) : W32 :=
  let x := dec32 a
  let y := dec32 b
  if x.isNan then enc32 x else if y.isNan then enc32 y
  else if x.isZero && y.isZero then (if x.isNeg then b else a)
  else if x.lt y then b else a

/-- Minimum; NaN if either is NaN; −0.0 below +0.0 (R229). -/
def f32Min (a b : W32) : W32 :=
  let x := dec32 a
  let y := dec32 b
  if x.isNan then enc32 x else if y.isNan then enc32 y
  else if x.isZero && y.isZero then (if x.isNeg then a else b)
  else if y.lt x then b else a

/-- a ÷ b, correctly rounded (R224, R229). -/
def f32Div (a b : W32) : W32 :=
  match dec32 a, dec32 b with
  | .nan s, _ => enc32 (.nan s)
  | _, .nan s => enc32 (.nan s)
  | .inf _, .inf _ => qnan
  | .inf x, .fin nb _ _ => enc32 (.inf (x != nb))
  | .fin na _ _, .inf y => enc32 (.fin (na != y) 0 0)
  | .fin na ma ea, .fin nb mb eb =>
    if mb = 0 then (if ma = 0 then qnan else enc32 (.inf (na != nb)))
    else
      let k := 64 + Nat.log2 mb
      let q := ma * 2 ^ k / mb
      enc32 (.fin (na != nb) q (ea - eb - k)) (ma * 2 ^ k % mb != 0)

/-- The integer square root of `x`, bit by bit from bit `k`. -/
def isqrtFrom (x : Nat) : Nat → Nat → Nat
  | 0, r => if (r + 1) * (r + 1) ≤ x then r + 1 else r
  | k + 1, r =>
    let c := r + 2 ^ (k + 1)
    isqrtFrom x k (if c * c ≤ x then c else r)

def isqrt (x : Nat) : Nat := isqrtFrom x (Nat.log2 x / 2 + 1) 0

/-- 1 ÷ √a, correctly rounded (R224, R229). -/
def f32Rsqrt (a : W32) : W32 :=
  match dec32 a with
  | .nan s => enc32 (.nan s)
  | .inf true => qnan
  | .inf false => 0#32
  | .fin n m e =>
    if m = 0 then enc32 (.inf n) else if n then qnan
    else
      let m2 := if e % 2 = 0 then m else 2 * m
      let h : Int := if e % 2 = 0 then e / 2 else (e - 1) / 2
      let k := 64 + Nat.log2 m2
      let q := isqrt (2 ^ (2 * k) / m2)
      enc32 (.fin false q (-h - k)) (q * q * m2 != 2 ^ (2 * k))

/- Fixed-point real arithmetic with `fixP` fraction bits, for the functions that R224, R225 and R312 ask for
correctly rounded. Log entry 8: 512 fraction bits decide every rounding (UNVERIFIED). -/

def fixP : Nat := 512
def fixOne : Int := 2 ^ fixP
def fixMul (a b : Int) : Int := a * b / fixOne
def fixDiv (a b : Int) : Int := a * fixOne / b

/-- Σ over n terms of x^(2k+1) / (2k+1), alternating when `alt`. -/
def fixOdd (alt : Bool) (x2 : Int) : Nat → Nat → Int → Int
  | 0, _, _ => 0
  | n + 1, k, pw =>
    let t := pw / (2 * k + 1 : Nat)
    (if alt && k % 2 == 1 then -t else t) + fixOdd alt x2 n (k + 1) (fixMul pw x2)

/-- ln 2 = 2 artanh(1/3). -/
def fixLn2 : Int := let x := fixOne / 3; 2 * fixOdd false (fixMul x x) 180 0 x

/-- π = 16 arctan(1/5) − 4 arctan(1/239). -/
def fixPi : Int :=
  let a := fixOne / 5
  let b := fixOne / 239
  16 * fixOdd true (fixMul a a) 130 0 a - 4 * fixOdd true (fixMul b b) 40 0 b

/-- Σ x^k / k!, from the term `t` of index `k`. -/
def fixExpSum (x : Int) : Nat → Nat → Int → Int
  | 0, _, t => t
  | n + 1, k, t => t + fixExpSum x n (k + 1) (fixMul t x / (k + 1 : Nat))

/-- e^x for 0 ≤ x < 1. -/
def fixExp01 (x : Int) : Int := fixExpSum x 110 0 fixOne

/-- The dyadic number (−1)^neg · m · 2^e in fixed point, rounded down. -/
def toFix (neg : Bool) (m : Nat) (e : Int) : Int :=
  let v : Int := if neg then -(m : Int) else m
  if 0 ≤ e + fixP then v * 2 ^ (e + fixP).toNat else v / 2 ^ (-(e + fixP)).toNat

/-- 2^x of a fixed-point x as (mantissa in fixed point, exponent, exact). -/
def fixExp2 (x : Int) : Int × Int × Bool :=
  let n := x / fixOne
  let f := x % fixOne
  (fixExp01 (fixMul f fixLn2), n, f == 0)

/-- exp2 (R83, R224, R229). -/
def f32Exp2 (a : W32) : W32 :=
  match dec32 a with
  | .nan s => enc32 (.nan s)
  | .inf true => 0#32
  | .inf false => 0x7F800000#32
  | .fin n m e =>
    if !n && !(Num.lt (.fin n m e) (.fin false 128 0)) then 0x7F800000#32
    else if Num.lt (.fin n m e) (.fin true 200 0) then 0#32
    else
      let (y, k, ex) := fixExp2 (toFix n m e)
      enc32 (.fin false y.toNat (k - fixP)) (!ex && m != 0)

/-- e^x of a fixed-point x as (mantissa in fixed point, exponent). -/
def fixExp (x : Int) : Int × Int :=
  let n := fixDiv x fixLn2 / fixOne
  (fixExp01 (x - n * fixLn2), n)

/-- e^x in FP32, correctly rounded (R313). -/
def f32Exp (a : W32) : W32 :=
  match dec32 a with
  | .nan s => enc32 (.nan s)
  | .inf true => 0#32
  | .inf false => 0x7F800000#32
  | .fin n m e =>
    if m = 0 then 0x3F800000#32
    else if Num.lt (.fin n m e) (.fin true 200 0) then 0#32
    else if Num.lt (.fin false 200 0) (.fin n m e) then 0x7F800000#32
    else
      let (y, k) := fixExp (toFix n m e)
      enc32 (.fin false y.toNat (k - fixP)) true

/-- 1 ÷ (1 + e^−x) for a fixed-point x with |x| < 1,000, rounded to FP32. -/
def fixSigma (x : Int) : W32 :=
  if x = 0 then 0x3F000000#32 else
  let (y, k) := fixExp (-(x.natAbs : Int))
  let t := if 0 ≤ k then y * 2 ^ k.toNat else y / 2 ^ (-k).toNat
  let r := if 0 < x then fixDiv fixOne (fixOne + t)
           else (y * 2 ^ (2 * fixP)) / (fixOne + t)
  if 0 < x then enc32 (.fin false r.toNat (-(fixP : Int))) true
  else enc32 (.fin false r.toNat (k - 2 * fixP)) true

/-- σ of R224. -/
def f32Sigma (a : W32) : W32 :=
  match dec32 a with
  | .nan s => enc32 (.nan s)
  | .inf true => 0#32
  | .inf false => 0x3F800000#32
  | .fin n m e =>
    if Num.lt (.fin false 200 0) (.fin false m e) then (if n then 0#32 else 0x3F800000#32)
    else fixSigma (toFix n m e)

/-- g of R224: 0.5 × (1 + tanh u) is 1 ÷ (1 + e^−2u). -/
def f32GeluG (a : W32) : W32 :=
  match dec32 a with
  | .nan s => enc32 (.nan s)
  | .inf true => 0#32
  | .inf false => 0x3F800000#32
  | .fin n m e =>
    if Num.lt (.fin false 20 0) (.fin false m e) then (if n then 0#32 else 0x3F800000#32)
    else
      let x := toFix n m e
      let c : Int := isqrt (2 * fixOne * fixOne * fixOne / fixPi).toNat
      let u := fixMul c (x + 44715 * fixMul x (fixMul x x) / 1000000)
      fixSigma (2 * u)

/-- a × σ(a), a × g(a) (R222, R229). -/
def f32Silu (a : W32) : W32 := if dec32 a = .inf true then 0x80000000#32 else f32Mul a (f32Sigma a)
def f32Gelu (a : W32) : W32 := if dec32 a = .inf true then 0x80000000#32 else f32Mul a (f32GeluG a)

/-- Σ (−1)^k x^(2k+d) / (2k+d)!, from the term `t` of index `k`. -/
def fixTrig (x2 : Int) (d : Nat) : Nat → Nat → Int → Int
  | 0, _, t => t
  | n + 1, k, t => t + fixTrig x2 d n (k + 1) (-(fixMul t x2) / (((2 * k + d + 1) * (2 * k + d + 2) : Nat) : Int))

/-- cos and sin of 2π · phase ÷ 2^48, each correctly rounded (R225). -/
def f32CosSin (phase : Nat) : W32 × W32 :=
  let ph : Nat := phase % 2 ^ 48
  let quad : Nat := ph / 2 ^ 46
  let r : Nat := ph % 2 ^ 46
  let x := 2 * fixPi * (r : Int) / 2 ^ 48
  let x2 := fixMul x x
  let c := if r = 0 then 0x3F800000#32 else enc32 (.fin false (fixTrig x2 0 90 0 fixOne).toNat (-(fixP : Int))) true
  let s := if r = 0 then 0#32 else enc32 (.fin false (fixTrig x2 1 90 0 x).toNat (-(fixP : Int))) true
  match quad with
  | 0 => (c, s)
  | 1 => (if r = 0 then 0#32 else f32Neg s, c)
  | 2 => (f32Neg c, if r = 0 then 0#32 else f32Neg s)
  | _ => (s, f32Neg c)

/-- ln of m · 2^−k (m > 0) in fixed point. -/
def fixLn (m : Nat) (k : Int) : Int :=
  let b := Nat.log2 m
  let y : Int := ((m : Int) * fixOne) / 2 ^ b
  let z := fixDiv (y - fixOne) (y + fixOne)
  2 * fixOdd false (fixMul z z) 180 0 z + ((b : Int) - k) * fixLn2

/-- fp32_nearest(−ln(−ln((x + 0.5) ÷ 2^32))) (R312). -/
def f32Gumbel (x : W32) : W32 :=
  let a := -(fixLn (2 * x.toNat + 1) 33)
  let g := -(fixLn a.toNat fixP)
  enc32 (.fin (decide (g < 0)) g.natAbs (-(fixP : Int))) true

/-- FP32 to BF16 (R230). -/
def toBf16 (a : W32) : Nat :=
  match dec32 a with
  | .nan s => (s.toNat / 65536) ||| 0x40
  | .inf n => (if n then 0x8000 else 0) + 0x7F80
  | .fin n m e => (if n then 0x8000 else 0) + min (packNE 8 (-133) m e false) 0x7F7F

/-- A number to FP8 E4M3 (R230). -/
def numToE4m3 (a : Num) : Nat :=
  match a with
  | .nan s => (if s.toNat / 2 ^ 31 = 1 then 0x80 else 0) + 0x7F
  | .inf n => (if n then 0x80 else 0) + 0x7E
  | .fin n m e => (if n then 0x80 else 0) + min (packNE 4 (-9) m e false) 0x7E

def toE4m3 (a : W32) : Nat := numToE4m3 (dec32 a)

/-- The E2M1 magnitude nearest to num ÷ den, ties to the even mantissa, cut at 6 (R110, R230). -/
def nearE2m1 (m : Nat) (e : Int) : Nat := min (packNE 2 (-1) m e false) 7

/-- FP32 to FP4 E2M1, unscaled (R230). -/
def toE2m1 (a : W32) : Nat :=
  match dec32 a with
  | .nan _ => 0
  | .inf n => (if n then 8 else 0) + 7
  | .fin n m e => (if n then 8 else 0) + nearE2m1 m e

/-- The larger magnitude of two finite inputs; NaN and infinity do not count (R109, R110). -/
def amax (xs : List W32) : Num :=
  xs.foldl (fun a x => match dec32 x with
    | .fin _ m e => if Num.lt a (.fin false m e) then .fin false m e else a
    | _ => a) (.fin false 0 0)

/-- The least e with a ≤ 448 · 2^e, that is ⌈log2(a ÷ 448)⌉, for a > 0. -/
def ceilLog448 (m : Nat) (e : Int) : Int :=
  let g : Int := e + (Nat.log2 m : Int) - 10
  if !(Num.lt (.fin false 448 g) (.fin false m e)) then g
  else if !(Num.lt (.fin false 448 (g + 1)) (.fin false m e)) then g + 1
  else if !(Num.lt (.fin false 448 (g + 2)) (.fin false m e)) then g + 2
  else g + 3

/-- The exponent e of a KV8 block (R109). -/
def kv8Exp (xs : List W32) : Int :=
  match amax xs with
  | .fin _ m e => if m = 0 then -127 else max (-127) (min 127 (ceilLog448 m e))
  | _ => -127

/-- KV8 block: the scale byte and the element bytes (R109). -/
def kv8Block (xs : List W32) : Nat × List Nat :=
  let e := kv8Exp xs
  ((e + 127).toNat, xs.map (fun x => numToE4m3 (match dec32 x with
    | .fin n m ex => .fin n m (ex - e)
    | y => y)))

/-- The smallest E4M3 byte whose value is not below the number, cut at 448 (R110). -/
def ceilE4m3 (x : Num) : Nat :=
  ((List.range 0x7F).find? (fun b => !(Num.lt (decE4m3 b) x))).getD 0x7E

/-- The scale byte of a KV4 block (R110). For a block without a finite value the manual gives no a: it takes 0 (DESIGN CHOICE, log
entry 108). -/
def kv4Scale (xs : List W32) : Nat :=
  let a := amax xs
  if a.isZero then 0 else ceilE4m3 (dec32 (f32Div (enc32 a) 0x40C00000#32))

/-- x ÷ s for a positive finite s, nearest E2M1 with ties to the even mantissa (R110). -/
def quotE2m1 (x : W32) (s : Num) : Nat :=
  match dec32 x, s with
  | .nan _, _ => 0
  | .inf n, _ => (if n then 8 else 0) + 7
  | .fin n m e, .fin _ ms es =>
    let q := m * 2 ^ 64 / ms
    (if n then 8 else 0) + min (packNE 2 (-1) q (e - es - 64) (m * 2 ^ 64 % ms != 0)) 7
  | _, _ => 0

/-- KV4 block: the scale byte and the element codes (R110). -/
def kv4Block (xs : List W32) : Nat × List Nat :=
  if xs.any (fun x => (dec32 x).isNan) then (0x7F, xs.map (fun _ => 0))
  else
    let sb := kv4Scale xs
    let s := decE4m3 sb
    if s.isZero then (0, xs.map (fun _ => 0)) else (sb, xs.map (fun x => quotE2m1 x s))

/-- Adds adjacent results level by level, rounding each sum (R87, R175, R223). -/
def pairUp (f : W32 → W32 → W32) : List W32 → List W32
  | a :: b :: rest => f a b :: pairUp f rest
  | l => l

def treeFold (f : W32 → W32 → W32) : Nat → List W32 → List W32
  | 0, l => l
  | k + 1, l => treeFold f k (pairUp f l)

/-- The fixed tree over 2^k values. -/
def tree (f : W32 → W32 → W32) (k : Nat) (l : List W32) : W32 := (treeFold f k l).headD 0#32

/-- mix of R177. -/
def mix32 (x : W32) : W32 :=
  let x := x ^^^ (x >>> 16)
  let x := x * 0x7FEB352D#32
  let x := x ^^^ (x >>> 15)
  let x := x * 0x846CA68B#32
  x ^^^ (x >>> 16)

end Sys2Proof.Machine
end

