-- ==== Sys2Proof/Machine/Life.lean ====
section
/-! DEFINITION. A request's life: its states, its token ring, pauses, parks, returns and its end (10_requests.md,
09_tiers.md). -/

namespace Sys2Proof.Machine

/-! ## Page-table writes (R111 to R113) -/

/-- The packet by which a page table on another chip is written: an entry by a STORE, the header by a BULK_DATA of one unit
(R15, R327; its class: DESIGN CHOICE, log entry 37). -/
def tablePacket (s : State) (seat chip off : Nat) (bs : List Byte) : State :=
  let w := ofBytes bs
  if bs.length = 8 then
    issueAs s none true 1 bankerUnit chip 3 seat true 0 0
      [(LPkt.TYPE, 2), (LPkt.SIZE, 3), (LPkt.ADDR, off), (LPkt.DATA, w)] 0#4096
  else
    issueAs s none true 1 bankerUnit chip 3 seat true 0 0
      [(LPkt.TYPE, 5), (LPkt.PLEN, 1), (LPkt.ADDR, off), (LPkt.BLEN, 1)] (BitVec.ofNat 4096 w)

/-- A write of a page table for the request's seat; one that R20 to R23 refuse is not performed, and a window's refusal counts
(R409, R427). A table on another chip is written there, and in the cells kept of it here (log entry 37). -/
def tableWrite (s : State) (e : BitVec 1024) (off : Nat) (bs : List Byte) : State :=
  let seat := LEnt.SEAT.get e
  let a := LEnt.PTBASE.get e + off
  let st := accessStatus s seat true a bs.length
  if st ≠ St.ok then s.noteWindow seat st
  else
    let s := hostWrite s seat (ptKey s e + off) bs
    match placeOf s a with
    | .chip chip o => tablePacket s seat chip o bs
    | _ => s

def ptWrite (s : State) (e : BitVec 1024) (j : Nat) (w : W64) : State := tableWrite s e (64 + 8 * j) (bytesOf w.toNat 8)

/-- Writes the page-table header from the entry and its scheduling state (R111). -/
def ptHeader (s : State) (slot : Nat) : State :=
  let e := s.req slot
  let x := s.rx slot
  tableWrite s e 0 (bytesOf (setAll (0#512) [
    (LPtHdr.COLS, LEnt.COLS.get e), (LPtHdr.LEN, LEnt.LEN.get e), (LPtHdr.HELD, b2n x.held.isSome),
    (LPtHdr.RISER, x.held.getD 0), (LPtHdr.VARIANT, LEnt.VARIANT.get e), (LPtHdr.VAR_ON, LEnt.VAR_ON.get e),
    (LPtHdr.GROUP, LEnt.GROUP.get e), (LPtHdr.SHARE_ON, LEnt.SHARE_ON.get e), (LPtHdr.CHAIN, x.chain.toNat)]).toNat 64)

/- Request states (R263). -/
namespace RS
def free : Nat := 0
def queued : Nat := 1
def prefill : Nat := 2
def decode : Nat := 3
def pausing : Nat := 4
def paused : Nat := 5
def resuming : Nat := 6
def ending : Nat := 7
def done : Nat := 8
end RS

def rState (s : State) (slot : Nat) : Nat := LEnt.STATE.get (s.req slot)
def rBind (s : State) (slot : Nat) : Nat := LEnt.BINDING.get (s.req slot)
def rSeat (s : State) (slot : Nat) : Nat := LEnt.SEAT.get (s.req slot)
def rActive (s : State) (slot : Nat) : Bool := decide (1 ≤ rState s slot) && decide (rState s slot ≤ 6)

/-- Slots in use that satisfy a test, ascending. -/
def slotsWhere (s : State) (p : Nat → Bool) : List Nat := (s.reqs.map (·.1)).filter p

def bindSlots (s : State) (b : Nat) : List Nat := slotsWhere s (fun n => rState s n != 0 && rBind s n == b)

/-! ## Token rings (R280 to R284, R490) -/

def ringKey (s : State) (slot : Nat) : Nat := keyOf s (LEnt.RING.get (s.req slot))

/-- d of R283 before its cut to 64. -/
def ringUsed (s : State) (slot : Nat) : Nat := ((s.rx slot).prod - (s.rx slot).cons).toNat

/-- Free entries of the ring (R283). -/
def ringRoom (s : State) (slot : Nat) : Nat := 64 - min 64 (ringUsed s slot)

/-- Counts a ring read that finds d above 64 (R283, R285). -/
def ringCheck (s : State) (slot : Nat) : State :=
  if ringUsed s slot > 64 then s.countBind (rBind s slot) BC.ringBad 1 else s

/-- Reads CONS; a read that is refused, given up or fails keeps the last value and counts (R284). -/
def readCons (s : State) (slot : Nat) : State :=
  let e := s.req slot
  let a := LEnt.RING.get e + 64
  if (s.rx slot).consLost then
    (s.updRx slot (fun x => { x with consLost := false })).countBind (LEnt.BINDING.get e) BC.ringBad 1
  else if accessStatus s (LEnt.SEAT.get e) false a 4 ≠ St.ok || uncorrAt s (keyOf s a) 4 then
    ((noteBad s (keyOf s a) 4 0 (LEnt.SEAT.get e) (some (LEnt.BINDING.get e))).countBind (LEnt.BINDING.get e) BC.ringBad 1).noteWindow
      (LEnt.SEAT.get e) (accessStatus s (LEnt.SEAT.get e) false a 4)
  else ringCheck (s.updRx slot (fun x => { x with cons := BitVec.ofNat 32 (readNat s (keyOf s a) 4) })) slot

/-- A lost ring write ends its request with FAULT at the next commit point (R490). -/
def ringLost (s : State) (slot : Nat) : State :=
  let s := s.countBind (rBind s slot) BC.ringBad 1
  if rActive s slot then s.updRx slot (fun x => { x with faultDue := 2 }) else s

/-- One write to a ring, if the seat's windows allow it; what stood there is kept for a loss (R490). After a die thermal
trip no ring is written (R460). -/
def ringStore (s : State) (slot k : Nat) (bs : List Byte) : State :=
  let e := s.req slot
  if dieTrip s then s
  else if inSeatFor true s (LEnt.SEAT.get e) (LEnt.RING.get e + k) bs.length &&
      addrStatus s (LEnt.RING.get e + k) bs.length == St.ok then
    let key := keyOf s (LEnt.RING.get e + k)
    (hostWrite s (LEnt.SEAT.get e) key bs).updRx slot (fun x =>
      { x with ringUndo := x.ringUndo ++ [(key, readBytes s key bs.length)] })
  else ringLost (if inSeatFor true s (LEnt.SEAT.get e) (LEnt.RING.get e + k) bs.length then s
      else s.noteWindow (LEnt.SEAT.get e) St.window) slot

/-- Writes the next entry and moves PROD (R281, R282). -/
def ringPut (s : State) (slot : Nat) (w : BitVec 128) : State :=
  let x := (s.rx slot).prod.toNat
  let s := ringStore s slot (128 + 16 * (x % 64)) (bytesOf (LRingEnt.PHASE.set w (b2n (x / 64 % 2 == 0))).toNat 16)
  s.updRx slot (fun r => { r with prod := r.prod + 1 })

/-- Writes the header's device line (R280): END once the end is recorded. -/
def ringHeader (s : State) (slot : Nat) (ended : Nat) : State :=
  ringStore s slot 0 (bytesOf ((s.rx slot).prod.toNat + ended * 2 ^ 32) 64)

/-- An end-only entry (R281). -/
def endEntry (st time : Nat) : BitVec 128 :=
  setAll 0#128 [(LRingEnt.TIME, time % 2 ^ 48), (LRingEnt.END, 1), (LRingEnt.STATUS, st)]

/-- Writes the waiting end-only entry and the header where the ring has room (R279, R282). -/
def ringEnd (s : State) (slot : Nat) : State :=
  match (s.rx slot).endWait with
  | none => s
  | some w =>
    if ringRoom s slot = 0 then s
    else
      let s := ringPut s slot w
      let s := ringHeader s slot (LEnt.END.get (s.req slot))
      s.updRx slot (fun x => { x with endWait := none })

/-! ## Park space (R249 to R253, R489) -/

/-- The lowest tile offset of an object at which n tiles are free among its parked runs. -/
def parkGap (s : State) (o n : Nat) : Option Nat :=
  let used := (s.ox o).park.map (fun r => (r.tile, r.tiles))
  gapFrom used n (objTiles s o) (used.length + 1) 0

/-- A MESSAGE about park space: what it says, and its packet to another chip (R328; log entry 96). -/
def tellPark (s : State) (chip code arg1 arg2 seat : Nat) : State :=
  let s := s.emit (.park chip code arg1 arg2)
  if chip = ownChip s then s else message s chip 0 seat 64

/-- Frees a run's park space: locally, or by a message to its host (R252, R489). -/
def parkRelease (s : State) (slot : Nat) (r : RunCopy) : State :=
  match r.place with
  | .obj o t => s.updOx o (fun x => { x with park := x.park.filter (fun p => p.tile != t) })
  | .host chip id _ =>
    let n := gLanes (s.bind (rBind s slot)).brec
    let s := s.updSeat (rSeat s slot) (fun x => { x with usage := Tab.upd x.usage 0 4 (· - n) })
    let s := { s with fab := { s.fab with releases := s.fab.releases ++ [(id, slot, now s)] } }
    tellPark (s.updRx slot (fun x => { x with releases := id :: x.releases })) chip 2 id 0 (rSeat s slot)

/-- Address of a parked run. -/
def parkAddr (s : State) (r : ParkPlace) : Nat :=
  match r with
  | .obj o t => LObj.WORK.get (s.obj o) + t * 16384
  | .host _ _ a => a

/-- Tries the targets of a pause for one run (R249, R250): the host chip, then the PARK object. Whether the host takes
the run, and where, is the host's choice: a free bit and a free address (log entry 30). A T3 quota that does not admit the run
counts as a refused charge (R427). -/
def parkTry (s : State) (slot : Nat) (ask : PauseAsk) (col p i fill kind : Nat) : State :=
  let b := rBind s slot
  let n := gLanes (s.bind b).brec
  let seat := s.seat (rSeat s slot)
  let asks := match ask.host with
    | some _ => decide (Tab.get seat.usage 0 4 + n ≤ Tab.get seat.quota 0 4)
    | none => false
  let told := tellPark s (ask.host.getD 0) 1 col slot (rSeat s slot)
  let hostOk := asks && Config.freeBit told.free
  let s := if asks then { told with free := told.free + 1 } else if ask.host.isSome then s.countSeat (rSeat s slot) 0x308 1 else s
  if hostOk then
    let chip := ask.host.getD 0
    let id := s.bank.nextParkId
    let a := chip * 2 ^ 40 + (Config.freeWord s.free).toNat % 2 ^ 40 / 16384 * 16384
    let s := { s with free := s.free + 1, bank := { s.bank with nextParkId := id + 1 } }
    let s := s.updSeat (rSeat s slot) (fun x => { x with usage := Tab.upd x.usage 0 4 (· + n) })
    s.updRx slot (fun x => { x with parks := x.parks ++ [⟨col, p, i, .host chip id a, fill, kind, false, now s + tierTimeout s, 0, 0⟩] })
  else
    match ask.park.bind (fun o => (parkGap s o n).map (fun t => (o, t))) with
    | some (o, t) =>
      let s := s.updOx o (fun x => { x with park := x.park ++ [⟨0, ownChip s, rSeat s slot, slot, col, t, n, 0⟩] })
      s.updRx slot (fun x => { x with parks := x.parks ++ [⟨col, p, i, .obj o t, fill, kind, false, now s + tierTimeout s, 0, 0⟩] })
    | none =>
      if ask.host.isSome || ask.park.isSome then s.countBind b BC.parkRefused 1 else s

/-- PAUSING becomes PAUSED when the tail and every copy have completed and switched (R274). -/
def pauseCheck (s : State) (slot : Nat) : State :=
  if rState s slot = RS.pausing && (s.rx slot).tail == .none && (s.rx slot).parks.isEmpty then
    s.updReq slot [(LEnt.STATE, RS.paused)]
  else s

/-- Switches finished park copies: ADDR takes the park address, POOL 0; the pool run loses its reference (R251). -/
def parkSwitch (s : State) (slot : Nat) : State :=
  let fin := (s.rx slot).parks.filter (·.done)
  let s := fin.foldl (fun s r =>
    let s := ptWrite s (s.req slot) r.col (ptMake (parkAddr s r.place) 0 r.kind r.fill)
    let s := refDrop s (rBind s slot) r.pool r.idx
    let s := unindex s (rBind s slot) r.pool r.idx
    s.updRx slot (fun x => { x with parked := x.parked ++ [r] })) s
  pauseCheck (s.updRx slot (fun x => { x with parks := x.parks.filter (fun r => !r.done) })) slot

/-! ## Pauses (R125, R273, R274) -/

/-- Allocates the tail's run, or notes that none is free (R125). Its LASTREAD, which the manual gives for runs that a close reserves
alone, is the binding's TURN (DESIGN CHOICE, log entry 109). -/
def tailAlloc (s : State) (slot : Nat) : State :=
  let b := rBind s slot
  let r := (s.bind b).brec
  match (s.rx slot).held with
  | none => s
  | some f =>
    match allocRun s b (some (slotDie s f)) (bTurn (s.bind b)) with
    | some (s', p, i) =>
      let s := s'.updBind b (fun x => { updRunRec x p i [(LRunRec.REFCNT, 1)] with
        tails := x.tails ++ [⟨slot, LEnt.LEN.get (s.req slot) / gTpp r, .set f, .run (runAddr r p i),
          LEnt.LEN.get (s.req slot) % gTpp r, [], [], true, 0⟩] })
      s.updRx slot (fun x => { x with tail := .writing p i (LEnt.LEN.get (s.req slot) % gTpp r) })
    | none =>
      if (s.rx slot).tail == .wants then s
      else (s.countBind b BC.runShort 1).updRx slot (fun x => { x with tail := .wants })

/-- Frees a request's held set and clears HELD (R123, R125); one that a flush still reads is freed as the flush ends (R124). -/
def dropHeld (s : State) (slot : Nat) : State :=
  match (s.rx slot).held with
  | none => s
  | some f =>
    let b := rBind s slot
    let reads := fun (c : Copy) => c.src == .set f
    let s := if (s.bind b).flushes.any reads then
        s.updBind b (fun x => { x with flushes := x.flushes.map (fun c => if reads c then { c with freeSet := true } else c) })
      else freeSet s (rSeat s slot) f
    s.updRx slot (fun x => { x with held := none })

/-- A pause takes effect (R274). -/
def pauseEffect (s : State) (slot : Nat) (ask : PauseAsk) : State :=
  let e := s.req slot
  let b := LEnt.BINDING.get e
  let st := LEnt.STATE.get e
  let detail := if st = RS.queued then 0 else if st = RS.prefill then 1 else if st = RS.decode then 2 else LEnt.DETAIL.get e
  let k := LEnt.LEN.get e % gTpp (s.bind b).brec
  let s := s.updReq slot [(LEnt.DETAIL, detail), (LEnt.STATE, RS.pausing),
    (LEnt.T_EXPIRE, if ask.ttl = 0 then 0 else now s + ask.ttl * 1000000)]
  let s := s.updRx slot (fun x => { x with pauseDue := none, ask := some ask })
  let runs := (heldRuns s slot).filter (fun r =>
    LRunRec.REFCNT.get (runRec (s.bind b) r.2.1 r.2.2.1) == 1)
  let s := runs.foldl (fun s r => parkTry s slot ask r.1 r.2.1 r.2.2.1 (LPtEnt.FILL.get r.2.2.2) (LPtEnt.KIND.get r.2.2.2)) s
  let s := if k = 0 then dropHeld s slot else tailAlloc s slot
  pauseCheck (ptHeader s slot) slot

/-- The tail write has completed: KIND 2 with FILL k; RESERVED clears; the set is freed; the run is parked (R125, R249). -/
def tailDone (s : State) (slot p i k : Nat) : State :=
  let e := s.req slot
  let b := LEnt.BINDING.get e
  let r := (s.bind b).brec
  let col := LEnt.LEN.get e / gTpp r
  let s := ptWrite s e col (ptMake (runAddr r p i) p 2 k)
  let s := s.updBind b (fun x => { updRunRec x p i [(LRunRec.RESERVED, 0)] with tails := x.tails.filter (fun t => t.slot != slot) })
  let s := dropHeld s slot
  let s := s.updRx slot (fun x => { x with tail := .none, tailRun := true })
  let s := match (s.rx slot).ask with
    | some ask => if LRunRec.REFCNT.get (runRec (s.bind b) p i) = 1 then parkTry s slot ask col p i k 2 else s
    | none => s
  pauseCheck (ptHeader s slot) slot

/-! ## Returns (R252, R275) -/

/-- Allocates pool runs for parked runs at the close of turn `turn`'s composition, as many as there are (R116, R252). -/
def returnAlloc (s : State) (slot turn : Nat) : State :=
  (s.rx slot).parked.foldl (fun s r =>
    if (s.rx slot).returns.any (fun q => q.col == r.col) then s
    else
      match allocRun s (rBind s slot) ((s.rx slot).held.map (slotDie s)) turn with
      | some (s', p, i) =>
        s'.updRx slot (fun x => { x with returns := x.returns ++ [{ r with pool := p, idx := i, done := false, due := now s + tierTimeout s, next := 0, failed := 0 }] })
      | none => s) s

/-- The state in which a request leaves RESUMING (R275). -/
def resumeTo (e : BitVec 1024) : Nat :=
  if LEnt.DETAIL.get e = 2 then (if LEnt.PAVAIL.get e > LEnt.PDONE.get e then RS.prefill else RS.decode)
  else if LEnt.DETAIL.get e = 1 then RS.prefill else RS.queued

/-- The seed that a resumed request's KIND 2 column needs (R126). -/
def resumeSeed (s : State) (slot : Nat) : Option Seed :=
  let e := s.req slot
  let r := (s.bind (LEnt.BINDING.get e)).brec
  let j := LEnt.LEN.get e / gTpp r
  let w := ptEntry s e j
  if (s.rx slot).tailRun then
    some ⟨.run (ptAddr w), j, LEnt.LEN.get e % gTpp r, none⟩
  else none

/-- A RESUMING request whose runs are all back switches and leaves (R252, R275). -/
def resumeSwitch (s : State) (slot : Nat) : State :=
  let x := s.rx slot
  if rState s slot = RS.resuming && x.returns.length == x.parked.length && x.returns.all (·.done) then
    let b := rBind s slot
    let s := x.returns.foldl (fun s r =>
      let s := ptWrite s (s.req slot) r.col (ptMake (runAddr (s.bind b).brec r.pool r.idx) r.pool r.kind r.fill)
      s.updBind b (fun y => updRunRec y r.pool r.idx [(LRunRec.REFCNT, 1), (LRunRec.RESERVED, 0)])) s
    let s := x.parked.foldl (fun s r => parkRelease s slot r) s
    let s := s.updReq slot [(LEnt.STATE, resumeTo (s.req slot)), (LEnt.DETAIL, 0)]
    s.updRx slot (fun y => { y with returns := [], parked := [], seed := (resumeSeed s slot).or y.seed })
  else s

/-! ## The end (R272, R277, R279) -/

/-- Ends an active request whose table names the runs `runs`: END and DETAIL, its counter, everything it held, and the
header of its page table without a held set (R111, R123, R125, R138, R272, R277). -/
def endWith (s : State) (slot st detail time : Nat) (recorded : Bool) (runs : List (Nat × Nat × Nat × W64)) : State :=
  let b := rBind s slot
  let x := s.rx slot
  let gone := runs.map (fun r => (r.2.1, r.2.2.1)) ++ x.forkHold.toList ++ x.returns.map (fun r => (r.pool, r.idx)) ++
    (match x.tail with
      | .writing p i _ => [(p, i)]
      | _ => [])
  let s := s.countBind b (BC.endEos + st - 1) 1
  let s := runs.foldl (fun s r => refDrop s b r.2.1 r.2.2.1) s
  let s := match x.forkHold with
    | some (p, i) => if x.refDue.contains (p, i) then s else refDrop s b p i
    | none => s
  let s := match x.tail with
    | .writing p i _ => (unreserve s b p i).updBind b (fun y => { y with tails := y.tails.filter (fun t => t.slot != slot) })
    | _ => s
  let s := x.returns.foldl (fun s r => unreserve s b r.pool r.idx) s
  let s := (x.parked ++ x.parks).foldl (fun s r => parkRelease s slot r) s
  let s := s.updBind b (fun y => { y with seeds := y.seeds.filter (fun t => t.slot != slot) })
  let s := dropHeld s slot
  let s := s.updReq slot [(LEnt.STATE, RS.ending), (LEnt.END, st), (LEnt.DETAIL, detail)]
  let s := ptHeader s slot
  s.updRx slot (fun y => { y with
    ptDue := [], lenDue := none, refDue := [], seed := none, forkHold := none, cancelDue := 0, pauseDue := none, faultDue := 0, expireDue := 0,
    tail := .none, tailRun := false, ask := none, parks := [], parked := [], returns := [], ends := y.ends ++ gone,
    endWait := if recorded then none else some (endEntry st time) })

/-- Ends an active request with the runs that its table names. -/
def endReq (s : State) (slot st detail time : Nat) (recorded : Bool) : State :=
  endWith s slot st detail time recorded (heldRuns s slot)

/-- Raises a vector for ring writes, or holds it with them until the seal of a mirrored seat (R282, R378). -/
def ringVector (s : State) (seat v : Nat) : State :=
  if (s.mir seat).hold then s.setMir seat { s.mir seat with raises := (s.mir seat).raises ++ [v] } else raise s seat v 16

/-- Raises the vector of a request with IRQ_ON for its ring (R282). -/
def ringRaise (s : State) (slot : Nat) : State :=
  let e := s.req slot
  if LEnt.IRQ_ON.on e then ringVector s (LEnt.SEAT.get e) (LEnt.VECTOR.get e) else s

/-- Ends a request at an application: its end-only entry is written at once where there is room (R264, R279). -/
def endNow (s : State) (slot st detail : Nat) : State :=
  let s := readCons ((endReq s slot st detail (now s) false).updRx slot (fun x => { x with ringUndo := [] })) slot
  let n := (s.rx slot).prod
  let s := ringEnd s slot
  if (s.rx slot).prod = n then s else ringRaise s slot

/-- A FAULT that takes effect at the binding's next commit point, or at once where no turn is in flight (R264). -/
def faultReq (s : State) (slot detail : Nat) : State :=
  if !rActive s slot then s
  else if inFlight s (rBind s slot) then
    s.updRx slot (fun x => if x.faultDue = 0 then { x with faultDue := detail } else x)
  else endNow s slot 4 detail

/-- Has every run that the request held at its end been released or deferred (R139, R279)? -/
def runsReleased (s : State) (slot : Nat) : Bool :=
  let x := s.bind (rBind s slot)
  (s.rx slot).ends.all (fun e => !x.drops.contains e || LRunRec.DEFER.on (runRec x e.1 e.2))

/-- Is every release that the request's end started complete: runs, park space, sets that a flush still reads (R139, R279)? -/
def releasesOver (s : State) (slot : Nat) : Bool :=
  (s.rx slot).releases.isEmpty && runsReleased s slot &&
  !(s.bind (rBind s slot)).flushes.any (fun c => c.slot == slot && c.freeSet)

/-- Frees an entry: FREE, and the seat's count falls (R263, R279). -/
def freeEntry (s : State) (slot : Nat) : State :=
  let seat := rSeat s slot
  (({ s with reqs := Tab.set s.reqs 0#1024 slot 0#1024, reqx := Tab.set s.reqx ReqX.reset slot ReqX.reset }).updSeat seat
    (fun x => { x with usage := Tab.upd x.usage 0 0 (· - 1) }))

end Sys2Proof.Machine
end

