-- ==== Sys2Proof/Machine/Tree.lean ====
section
/-! DEFINITION. The tree of a slice, its sync records and its commit barriers (14_slices.md, R355, R369, R370). -/

namespace Sys2Proof.Machine

/-- The leader's chip: ⌊N ÷ 2⌋ live coordinates after the origin on each axis (R355). -/
def leaderOf (s : State) : Nat :=
  (List.range 3).foldl (fun c a =>
    withCoord c a ((blockCoords s s.fab.slice a).getD ((blockCoords s s.fab.slice a).length / 2) 0)) (ownChip s)

def isLeader (s : State) : Bool := LSliceSt.LEADER.on s.fab.slice

/-- A member's step towards the leader: axis and direction, by R359 and R370. -/
def treeStep (s : State) (chip : Nat) : Option (Nat × Bool) :=
  match firstAxis chip (leaderOf s) with
  | none => none
  | some a =>
    let blk := blockCoords s s.fab.slice a
    let c := coord chip a
    let d := coord (leaderOf s) a
    if blockWraps s.fab.slice a then some (a, ringEntry (liveCoords s a) c d a (fun _ => true) == 1)
    else some (a, decide (blk.idxOf c < blk.idxOf d))

/-- The port towards this member's parent. -/
def treeParent (s : State) : Option Nat := (treeStep s (ownChip s)).map (fun x => portOf x.1 x.2)

/-- Ports towards this member's children, with their chips. -/
def treeKids (s : State) : List (Nat × Nat) :=
  (List.range 6).filterMap (fun p =>
    match neighbour s p with
    | none => none
    | some n =>
      if n ≠ ownChip s && inBlock s n && treeStep s n == some (portAxis p, !portPlus p) then some (p, n) else none)

/-- The member that follows a coordinate of an axis on the way to the leader. -/
def treeNext (s : State) (chip a : Nat) (plus : Bool) : Nat :=
  let l := liveCoords s a
  withCoord chip a (l.getD ((l.idxOf (coord chip a) + (if plus then 1 else l.length - 1)) % l.length) 0)

/-- Does a chip's way to the leader pass through another within so many hops? -/
def passes (s : State) (target : Nat) : Nat → Nat → Bool
  | 0, chip => chip == target
  | n + 1, chip => chip == target ||
    match treeStep s chip with
    | some (a, plus) => passes s target n (treeNext s chip a plus)
    | none => false

/-- Members whose records reach the leader through a member, itself among them (R370): all of those behind it on its axis, for every
coordinate on the axes before. -/
def subtree (s : State) (chip : Nat) : Nat :=
  match treeStep s chip with
  | none => blockLen s.fab.slice 0 * blockLen s.fab.slice 1 * blockLen s.fab.slice 2
  | some (a, _) =>
    ((blockCoords s s.fab.slice a).filter (fun c => passes s chip 64 (withCoord chip a c))).length *
    ((List.range a).map (blockLen s.fab.slice)).foldl (· * ·) 1

/-- Devices of the slice. -/
def sliceSize (s : State) : Nat := blockLen s.fab.slice 0 * blockLen s.fab.slice 1 * blockLen s.fab.slice 2

def sliceTag (s : State) : Nat := LFabId.STAG.get s.fab.fabId

/-- A sync record (R369). -/
def syncRec (s : State) (code b : Nat) (l : List (Fld × Nat)) : BitVec 512 :=
  setAll 0#512 ([(LSync.CODE, code), (LSync.BINDING, b), (LSync.STAG, sliceTag s)] ++ l)

/-- The bytes of a barrier message: its record, and behind a commit scatter the closed turn's length-table entries, up to a whole
unit of 64 bytes (R369). -/
def syncBytes (w : BitVec 512) (entries : List SliceEnt) : List Byte :=
  let l := entries.flatMap (fun e => bytesOf e.len.toNat 16)
  bytesOf w.toNat 64 ++ l ++ List.replicate (64 * cdiv l.length 64 - l.length) 0

/-- Sends a barrier message one hop, in the control class (R369); a port that is not MATCH carries none (R347). -/
def sendSync (s : State) (port chip : Nat) (w : BitVec 512) (entries : List SliceEnt) : State :=
  if !isMatch s port then s else sendParts (s.emit (.sync chip w)) none 9 bankerUnit chip 0 0 (syncBytes w entries)

/-- Sends a record to the parent. -/
def toParent (s : State) (w : BitVec 512) : State :=
  match (treeParent s).bind (fun p => (neighbour s p).map (fun n => (p, n))) with
  | some (p, n) => sendSync s p n w []
  | none => s

/-- Sends a scatter down the tree, with the composition that follows a commit's (R369, R370). -/
def toKids (s : State) (w : BitVec 512) (entries : List SliceEnt) : State :=
  (treeKids s).foldl (fun s k =>
    let s := sendSync s k.1 k.2 w entries
    if entries.isEmpty then s else s.emit (.formEntries k.2 entries)) s

def barrierOf (s : State) (b : Nat) : Barrier := Tab.get s.fab.barriers Barrier.reset b
def setBarrier (s : State) (b : Nat) (x : Barrier) : State :=
  { s with fab := { s.fab with barriers := Tab.set s.fab.barriers Barrier.reset b x } }

/-- Has every child's GATHER come? -/
def kidsIn (s : State) (b : Nat) : Bool := (treeKids s).all (fun k => (barrierOf s b).got.contains k.1)

/-- A member's GATHER to its parent (R370): flags ORed, members summed. -/
def sendGather (s : State) (b : Nat) (abandon : Nat) : State :=
  let x := barrierOf s b
  let s := setBarrier s b { x with sent := true, sentAt := now s }
  toParent s (syncRec s 0x10 b [(LSync.ABANDON, max abandon x.flags), (LSync.TURN, bTurn (s.bind b) + 1),
    (LSync.MEMBERS, x.members + 1)])

/-- This device's arrival at a barrier; a member sends its GATHER when its children's have come (R370). -/
def barrierArrive (s : State) (b : Nat) (abandon : Nat) : State :=
  let x := barrierOf s b
  let s := setBarrier s b { x with arrived := true, arrivedAt := now s, flags := max abandon x.flags }
  if !isLeader s && kidsIn s b && !x.sent then sendGather s b 0 else s

/-- A leader's barrier that lets the turn commit (R370). -/
def barrierFull (s : State) (b : Nat) : Bool :=
  let x := barrierOf s b
  x.arrived && x.flags == 0 && x.members + 1 == sliceSize s

/-- A slice device counter. -/
def countSlice (s : State) (k : Nat) : State := { s with fab := { s.fab with sliceCtr := ctrAdd s.fab.sliceCtr k 1 } }

end Sys2Proof.Machine
end

