-- ==== Sys2Proof/Machine/Close.lean ====
section
/-! DEFINITION. The close of a composition: expiries, candidates, the four passes, the checks and reservations of each
entry (02_turn.md, 11_scheduling.md, 12_sampling.md; R121, R153, R276, R283). -/

namespace Sys2Proof.Machine

/-! ## Stakes (R291) -/

/-- A field set to a two's complement number. -/
def Fld.setInt {n : Nat} (f : Fld) (x : BitVec n) (v : Int) : BitVec n := f.set x (v % (2 ^ f.w : Nat)).toNat

/-- A refill at time t (R291). -/
def refillRec (w : BitVec 512) (t : Nat) : BitVec 512 :=
  let gain : Nat := LStake.RATE.get w * (t - LStake.T_REFILL.get w) * 65536 / 1000000000
  let level : Int := min (LStake.LEVEL.getInt w + gain) (LStake.BURST.get w * 65536 : Nat)
  LStake.T_REFILL.set (LStake.LEVEL.setInt w level) t

def refill (s : State) (n t : Nat) : State := s.setStake n (refillRec (s.stake n) t)

/-! ## What a candidate offers (R270, R287, R306, R316 to R318) -/

/-- One candidate of a close. -/
structure Cand where
  slot : Nat
  dec : Bool
  due : Option Nat
  /-- Positions offered; for a decoding candidate 1 and its draft. -/
  offer : Nat
  draft : List (Nat × Nat)
  /-- The sampling block, if it can be read. -/
  samp : Option (BitVec 512)
  deriving DecidableEq, Repr

/-- Can the seat's block be read at the close (R20 to R23, R73, R76, R483)? -/
def canRead (s : State) (seat a len : Nat) : Bool :=
  accessStatus s seat false a len == St.ok && extStatus s (keyOf s a) len false == St.ok

def readBits (s : State) (n a bytes : Nat) : BitVec n := BitVec.ofNat n (viewNat s (keyOf s a) bytes)

/-- Is a read of the close given up (R256)? -/
def readLost (s : State) (slot : Nat) (what : BlockRead) : Bool := (s.rx slot).lostReads.contains what

def sampBlock (s : State) (slot : Nat) (e : BitVec 1024) : Option (BitVec 512) :=
  if !readLost s slot .sampling && canRead s (LEnt.SEAT.get e) (LEnt.SAMPLE.get e) 64 then some (readBits s 512 (LEnt.SAMPLE.get e) 64) else none

/-- Bytes of one bitmap (R306). -/
def bitmapStride (r : BitVec 8192) : Nat := cdiv (LBindRec.VOCAB.get r) 512 * 64

/-- The first check of R308. -/
def sampGood (s : State) (e : BitVec 1024) (r : BitVec 8192) (w : BitVec 512) : Bool :=
  let seat := LEnt.SEAT.get e
  LEnt.SAMPLE.get e % 64 == 0 && rsvZero LSamp.rsv w && decide (LSamp.TEMP.get w < 0x7F800000) && decide (LSamp.TOPK.get w ≤ 1024) &&
  decide (1 ≤ LSamp.TOPP.get w) && decide (LSamp.TOPP.get w ≤ 0x3F800000) && decide (LSamp.ALLOW.get w ≤ 2) &&
  (if LSamp.ALLOW.get w = 2 then decide (1 ≤ LSamp.ALLOW_N.get w) && decide (LSamp.ALLOW_N.get w ≤ 512)
    else LSamp.ALLOW_N.get w == 0) &&
  decide (LSamp.DRAFT.get w ≤ 2) &&
  (LSamp.AADDR.get w % 64 == 0) && (LSamp.GADDR.get w % 64 == 0) && (LSamp.DADDR.get w % 64 == 0) &&
  (LSamp.ALLOW.get w != 0 || LSamp.AADDR.get w == 0) && (LSamp.GRAMMAR.on w || LSamp.GADDR.get w == 0) &&
  (LSamp.DRAFT.get w != 0 || LSamp.DADDR.get w == 0) &&
  inSeat s seat (LEnt.SAMPLE.get e) 64 &&
  (LSamp.ALLOW.get w == 0 || inSeat s seat (LSamp.AADDR.get w)
    (if LSamp.ALLOW.get w = 1 then bitmapStride r else 4 * LSamp.ALLOW_N.get w)) &&
  (!LSamp.GRAMMAR.on w || inSeat s seat (LSamp.GADDR.get w) 64)

/-- ROWS of the grammar mask, if the second check of R308 passes. -/
def grammarRows (s : State) (slot : Nat) (e : BitVec 1024) (r : BitVec 8192) (turn : Nat) (w : BitVec 512) : Option Nat :=
  let a := LSamp.GADDR.get w
  if readLost s slot .grammar || !canRead s (LEnt.SEAT.get e) a 64 then none
  else
    let h := readBits s 512 a 64
    let rows := LGram.ROWS.get h
    if LGram.TURN.get h = turn && rsvZero LGram.rsv h && decide (1 ≤ rows) && decide (rows ≤ 64) &&
        inSeat s (LEnt.SEAT.get e) a (64 + rows * bitmapStride r) then some rows else none

/-- Entry i, counted from 1, of a draft block: token, parent, and whether its RSV bits are 0 (R316). -/
def draftEntry (s : State) (a kind i : Nat) : Nat × Nat × Bool :=
  if kind = 1 then (viewNat s (keyOf s (a + 64 + 4 * (i - 1))) 4, i - 1, true)
  else
    let v := viewNat s (keyOf s (a + 64 + 8 * (i - 1))) 8
    (v % 2 ^ 32, v / 2 ^ 32 % 64, v / 2 ^ 38 == 0)

/-- A draft by the tests of R317: its nodes, and the counter that a test raises. -/
def draftOf (s : State) (slot : Nat) (e : BitVec 1024) (r : BitVec 8192) (turn restLimit : Nat) (w : BitVec 512) :
    List (Nat × Nat) × Option Nat :=
  let kind := LSamp.DRAFT.get w
  let a := LSamp.DADDR.get w
  let seat := LEnt.SEAT.get e
  if kind = 0 || kind = 3 then ([], none)
  else if turn ≤ restLimit then ([], none)
  else if kind = 2 && !LBindRec.CLASS.on r then ([], some BC.draftBad)
  else if readLost s slot .draft || !canRead s seat a 64 then ([], some BC.draftBad)
  else
    let h := readBits s 512 a 64
    let n := LDraft.N.get h
    let count := if kind = 1 then n else n - 1
    let nOk := if kind = 1 then decide (1 ≤ n) && decide (n ≤ 8) else decide (2 ≤ n) && decide (n ≤ 64)
    let size := if kind = 1 then 64 + 4 * count else 64 + 8 * count
    if nOk && !(accessStatus s seat false a size == St.ok && !uncorrAt s (keyOf s a) size) then ([], some BC.draftBad)
    else if LDraft.TURN.get h ≠ turn then ([], some BC.draftLate)
    else
      let ents := (List.range count).map (fun i => draftEntry s a kind (i + 1))
      let ok := nOk && rsvZero LDraft.rsv h &&
        (List.range count).all (fun i =>
          let x := ents.getD i (0, 0, false)
          x.2.2 && decide (x.1 < LBindRec.VOCAB.get r) && decide (x.2.1 < i + 1))
      if ok then (ents.map (fun x => (x.1, x.2.1)), none) else ([], some BC.draftBad)

/-- Depths of nodes 0, 1, ... of a draft. -/
def nodeDepths (d : List (Nat × Nat)) : List Nat := d.foldl (fun ds n => ds ++ [ds.getD n.2 0 + 1]) [0]

/-- The draft without its nodes of depth f or more, renumbered (R318). -/
def cutDepth (f : Nat) (d : List (Nat × Nat)) : List (Nat × Nat) :=
  let ds := nodeDepths d
  let keep := (List.range d.length).filter (fun i => decide (ds.getD (i + 1) 0 < f))
  let number := fun old => if old = 0 then 0 else (keep.filter (fun i => decide (i + 1 ≤ old))).length
  keep.map (fun i => ((d.getD i (0, 0)).1, number (d.getD i (0, 0)).2))

/-- Prompt positions left, NEXT among them, and those not withheld (R270). -/
def prefillTotal (e : BitVec 1024) : Nat := LEnt.NEXT_ON.get e + (LEnt.PAVAIL.get e - LEnt.PDONE.get e)
def prefillOffer (e : BitVec 1024) : Nat := prefillTotal e - (if LEnt.FINAL.on e then 0 else 1)

/-- The due time of R287. -/
def dueTime (s : State) (slot : Nat) (dec : Bool) : Option Nat :=
  let e := s.req slot
  let x := s.rx slot
  if x.firstDue && LEnt.TTFT_TGT.get e != 0 then some (x.tRef + LEnt.TTFT_TGT.get e * 1000)
  else if dec && !x.firstDue && LEnt.TBT_TGT.get e != 0 then some (LEnt.T_LAST.get e + LEnt.TBT_TGT.get e * 1000)
  else none

/-- Reads CONS and what the candidate offers (R284, R288); counts what R270 and R317 count. -/
def candOf (turn : Nat) (s : State) (slot : Nat) : State × Option Cand :=
  let e := s.req slot
  let b := LEnt.BINDING.get e
  let r := (s.bind b).brec
  let st := LEnt.STATE.get e
  if (s.rx slot).expireDue ≠ 0 then (s, none)
  else if st = RS.decode then
    let s := readCons s slot
    let w := sampBlock s slot e
    let (d, cnt) := match w with
      | some w => draftOf s slot e r turn (s.rx slot).restLimit w
      | none => ([], none)
    let s := match cnt with
      | some k => s.countBind b k 1
      | none => s
    let d := d.take (lenBound e r - LEnt.LEN.get e - 1)
    (s, some ⟨slot, true, dueTime s slot true, 1 + d.length, d, w⟩)
  else if st = RS.queued || st = RS.prefill then
    if prefillOffer e = 0 then
      (if st = RS.prefill && prefillTotal e = 1 then s.countBind b BC.promptWait 1 else s, none)
    else
      let s := readCons s slot
      (s, some ⟨slot, false, dueTime s slot false, min (prefillOffer e) (lenBound e r - LEnt.LEN.get e), [], sampBlock s slot e⟩)
  else (s, none)

/-- Order of two lists of keys. -/
def keyLe : List Nat → List Nat → Bool
  | a :: as, b :: bs => decide (a < b) || (a == b && keyLe as bs)
  | _, _ => true

def insertBy (key : Cand → List Nat) (c : Cand) : List Cand → List Cand
  | [] => [c]
  | d :: rest => if keyLe (key c) (key d) then c :: d :: rest else d :: insertBy key c rest

/-- R289's keys. -/
def candKey (s : State) (c : Cand) : List Nat :=
  let e := s.req c.slot
  [b2n c.due.isNone, c.due.getD 0, 7 - LEnt.PRIO.get e, if c.dec then LEnt.T_LAST.get e else (s.rx c.slot).tRef, c.slot]

def orderCands (s : State) (l : List Cand) : List Cand := l.foldr (insertBy (candKey s)) []

/-! ## Reservations (R120, R121) -/

/-- An entry as it is formed. -/
structure Form where
  cand : Cand
  q : Nat
  draft : List (Nat × Nat)
  completes : Bool
  sets : List (Nat × Nat)
  runs : List (Nat × Nat × Nat)
  /-- A check of R298 shortened it. -/
  capped : Bool
  smask : BitVec 512
  deriving DecidableEq, Repr

/-- Why a reservation fails: sets, runs. -/
inductive Short where
  | sets (quota : Bool)
  | runs
  deriving DecidableEq, Repr

/-- Reserves the sets of columns not yet in the list (R120, R121). -/
def reserveSets (slot : Nat) (n : Nat) : List Nat → State × List (Nat × Nat) → Except Short (State × List (Nat × Nat))
  | [], acc => .ok acc
  | col :: rest, (s, sets) =>
    if sets.any (fun x => x.1 == col) then reserveSets slot n rest (s, sets)
    else
      match allocSet s slot (rSeat s slot) n with
      | some (s', f) => reserveSets slot n rest (s', sets ++ [(col, f)])
      | none =>
        .error (.sets (decide (Tab.get (s.seat (rSeat s slot)).usage 0 1 + n > Tab.get (s.seat (rSeat s slot)).quota 0 1)))

/-- Reserves the runs of columns not yet in the list. -/
def reserveRuns (slot b turn : Nat) (bd : Option Nat) :
    List Nat → State × List (Nat × Nat × Nat) → Except Short (State × List (Nat × Nat × Nat))
  | [], acc => .ok acc
  | col :: rest, (s, runs) =>
    if runs.any (fun x => x.1 == col) then reserveRuns slot b turn bd rest (s, runs)
    else
      match allocRun s b bd turn with
      | some (s', p, i) => reserveRuns slot b turn bd rest (s', runs ++ [(col, p, i)])
      | none => .error .runs

/-- What an entry of Q tokens at K needs beyond what it has (R121). -/
def reserveFor (s : State) (slot turn q : Nat) (sets : List (Nat × Nat)) (runs : List (Nat × Nat × Nat)) :
    Except Short (State × List (Nat × Nat) × List (Nat × Nat × Nat)) :=
  let e := s.req slot
  let b := LEnt.BINDING.get e
  let r := (s.bind b).brec
  let t := gTpp r
  let k := LEnt.LEN.get e
  let cols := (List.range ((k + q - 1) / t - k / t + 1)).map (· + k / t)
  let full := (List.range ((k + q) / t - k / t)).map (· + k / t)
  match reserveSets slot (gLanes r) cols (s, sets) with
  | .error x => .error x
  | .ok (s, sets) =>
    match reserveRuns slot b turn ((sets.head?).map (fun x => slotDie s x.2)) full (s, runs) with
    | .error x => .error x
    | .ok (s, runs) => .ok (s, sets, runs)

/-- What a shortening run of attempts found. -/
structure Reserved where
  s : State
  q : Nat
  sets : List (Nat × Nat)
  runs : List (Nat × Nat × Nat)
  shortSets : Bool
  shortQuota : Bool
  shortRuns : Bool
  deriving DecidableEq, Repr

/-- Shortens until the reservation is made; at 0 nothing is reserved. -/
def reserveDown (s : State) (slot turn : Nat) (sets : List (Nat × Nat)) (runs : List (Nat × Nat × Nat))
    (a b c : Bool) : Nat → Reserved
  | 0 => ⟨s, 0, sets, runs, a, b, c⟩
  | q + 1 =>
    match reserveFor s slot turn (q + 1) sets runs with
    | .ok (s', sets', runs') => ⟨s', q + 1, sets', runs', a, b, c⟩
    | .error (.sets quota) => reserveDown s slot turn sets runs true (b || quota) c q
    | .error .runs => reserveDown s slot turn sets runs a b true q

/-- Makes the reservation of an entry and counts what fell short (R121, R143, R427). A request without a held set gets
it here. -/
def reserve (s : State) (slot turn q : Nat) (sets : List (Nat × Nat)) (runs : List (Nat × Nat × Nat)) : Reserved :=
  let b := rBind s slot
  let sets := match sets, (s.rx slot).held with
    | [], some f => [(LEnt.LEN.get (s.req slot) / gTpp (s.bind b).brec, f)]
    | l, _ => l
  let x := reserveDown s slot turn sets runs false false false q
  let s := x.s
  let s := if x.shortSets then s.countBind b BC.riserShort 1 else s
  let s := if x.shortQuota then s.countSeat (rSeat s slot) 0x308 1 else s
  let s := if x.shortRuns then s.countBind b BC.runShort 1 else s
  { x with s := s }

/-! ## The checks of R298 -/

/-- The structured-mask check of R153: the header kept, or none where it fails. -/
def maskCheck (s : State) (slot : Nat) (e : BitVec 1024) (turn q : Nat) : Option (BitVec 512) :=
  if !LEnt.MASK_ON.on e then some 0#512
  else
    let a := LEnt.SMASK.get e
    if readLost s slot .mask || !canRead s (LEnt.SEAT.get e) a 64 then none
    else
      let h := readBits s 512 a 64
      let k := LEnt.LEN.get e
      if (LSMask.TURN.get h == 0 || LSMask.TURN.get h == turn) && rsvZero LSMask.rsv h &&
          decide (LSMask.SPAN_BASE.get h ≤ 524287) && decide (1 ≤ LSMask.SPAN_LEN.get h) &&
          decide (LSMask.SPAN_LEN.get h ≤ 524288) && decide (LSMask.ROW_BASE.get h ≤ 524287) &&
          decide (1 ≤ LSMask.ROWS.get h) && decide (LSMask.ROWS.get h ≤ 524288) &&
          decide (LSMask.ROW_BASE.get h ≤ k) && decide (k + q ≤ LSMask.ROW_BASE.get h + LSMask.ROWS.get h) &&
          inSeat s (LEnt.SEAT.get e) a (64 + LSMask.ROWS.get h * (cdiv (LSMask.SPAN_LEN.get h) 512 * 64))
      then some h else none

/-- Forms a decoding entry of at most `want` query tokens (R153, R308, R283, R121). -/
def formDec (turn : Nat) (s : State) (c : Cand) (want : Nat) : State × Option Form :=
  let e := s.req c.slot
  let b := LEnt.BINDING.get e
  let r := (s.bind b).brec
  let d := c.draft.take (want - 1)
  match maskCheck s c.slot e turn (1 + d.length) with
  | none => (s.countBind b BC.maskLate 1, none)
  | some h =>
    match c.samp with
    | none => (s.countBind b BC.sampleBad 1, none)
    | some w =>
      if !sampGood s e r w then (s.countBind b BC.sampleBad 1, none)
      else
        let rows := if LSamp.GRAMMAR.on w then grammarRows s c.slot e r turn w else some 256
        match rows with
        | none => (s.countBind b BC.grammarLate 1, none)
        | some rows =>
          let (s, d) := if 1 + d.length > rows then (s.countBind b BC.draftCut 1, d.take (rows - 1)) else (s, d)
          let f := ringRoom s c.slot
          if f = 0 then (s.countBind b BC.ringFull 1, none)
          else
            let d' := cutDepth f d
            let s := if d'.length < d.length then s.countBind b BC.draftCut 1 else s
            let x := reserve s c.slot turn (1 + d'.length) [] []
            if x.q = 0 then (x.s, none)
            else (x.s, some ⟨c, x.q, d'.take (x.q - 1), true, x.sets, x.runs, false, h⟩)

/-- Counts a candidate that a check of R298 leaves out; a chunk that only fails to grow stays in the turn and is not. -/
def leaveOut (s : State) (b k : Nat) (prev : Option Form) : State := if prev.isNone then s.countBind b k 1 else s

/-- Forms or grows a prefill chunk to `want` positions. A growth that a check refuses leaves the chunk as it was. -/
def formPre (turn : Nat) (s : State) (c : Cand) (want : Nat) (prev : Option Form) : State × Option Form :=
  let e := s.req c.slot
  let b := LEnt.BINDING.get e
  let r := (s.bind b).brec
  let stay : Option Form := prev.map (fun f => { f with capped := true })
  match maskCheck s c.slot e turn want with
  | none => (leaveOut s b BC.maskLate prev, stay)
  | some h =>
    let full := LEnt.FINAL.on e && want == prefillTotal e
    let good := match c.samp with
      | some w => sampGood s e r w
      | none => false
    if full && !good then (leaveOut s b BC.sampleBad prev, stay)
    else
      let w := c.samp.getD 0#512
      let late := full && LSamp.GRAMMAR.on w && (grammarRows s c.slot e r turn w).isNone
      let s := if late then s.countBind b BC.grammarLate 1 else s
      let want := if late then want - 1 else want
      let full := full && !late
      let low := match prev with
        | some f => f.q
        | none => 0
      if want ≤ low then (s, stay)
      else
        if full && ringRoom s c.slot == 0 then (leaveOut s b BC.ringFull prev, stay)
        else
          let x := match prev with
            | some f => reserve s c.slot turn want f.sets f.runs
            | none => reserve s c.slot turn want [] []
          if x.q = 0 then (x.s, stay)
          else (x.s, some ⟨c, x.q, [], full && x.q == want, x.sets, x.runs, late || decide (x.q < want), h⟩)

/-! ## The four passes (R296, R297) -/

/-- A composition in progress. -/
structure Comp where
  s : State
  w : Nat
  forms : List Form
  /-- Slots that a check of R298 left out. -/
  out : List Nat
  /-- Share width used, by seat; units charged provisionally, by stake (R292, R296). -/
  share : Tab Nat
  spent : Tab Nat
  leftover : Nat
  deriving DecidableEq, Repr

def shareLeft (b : Nat) (c : Comp) (seat : Nat) : Nat :=
  LBindRec.STEP_WIDTH.get (c.s.bind b).brec * LSeatCfg.SHARE.get (c.s.seat seat).cfg / 256 - Tab.get c.share 0 seat

/-- In budget: the working copy of the stake's level is above 0 (R292). -/
def inBudget (c : Comp) (stake : Nat) : Bool :=
  decide (LStake.LEVEL.getInt (c.s.stake stake) - (Tab.get c.spent 0 stake : Nat) > 0)

/-- A budgeted pass's test of a candidate (R297): counted and passed over, or not. -/
def budgeted (b : Nat) (c : Comp) (x : Cand) : Comp × Bool :=
  let e := c.s.req x.slot
  if !inBudget c (LEnt.STAKE.get e) then ({ c with s := c.s.countBind b BC.overBudget 1 }, false)
  else if shareLeft b c (LEnt.SEAT.get e) = 0 then ({ c with s := c.s.countBind b BC.shareCap 1 }, false)
  else (c, decide (c.w ≥ 1))

/-- Enters a formed entry, or notes that a check left the candidate out. -/
def enter (c : Comp) (x : Cand) (budget : Bool) (res : State × Option Form) : Comp :=
  match res with
  | (s, none) => { c with s := s, out := x.slot :: c.out }
  | (s, some f) =>
    let e := s.req x.slot
    let charge := if x.dec then 65536
      else f.q * LStake.PF_WT.get (s.stake (LEnt.STAKE.get e)) * 4096 + (if f.completes then 65536 else 0)
    let s := if budget then s
      else s.setStake (LEnt.STAKE.get e) (LStake.LEFTOVER.set (s.stake (LEnt.STAKE.get e))
        (LStake.LEFTOVER.get (s.stake (LEnt.STAKE.get e)) + f.q))
    { c with s := s, w := c.w - f.q, forms := c.forms ++ [f],
             share := if budget then Tab.upd c.share 0 (LEnt.SEAT.get e) (· + f.q) else c.share,
             spent := if budget then Tab.upd c.spent 0 (LEnt.STAKE.get e) (· + charge) else c.spent,
             leftover := if budget then c.leftover else c.leftover + f.q }

def taken (c : Comp) (x : Cand) : Bool := c.out.contains x.slot || c.forms.any (fun f => f.cand.slot == x.slot)

def pass1 (b turn : Nat) (c : Comp) (x : Cand) : Comp :=
  match budgeted b c x with
  | (c, false) => c
  | (c, true) =>
    enter c x true (formDec turn c.s x (min x.offer (min c.w (shareLeft b c (rSeat c.s x.slot)))))

def pass2 (b turn : Nat) (c : Comp) (x : Cand) : Comp :=
  match budgeted b c x with
  | (c, false) => c
  | (c, true) =>
    enter c x true (formPre turn c.s x (min x.offer (min c.w (shareLeft b c (rSeat c.s x.slot)))) none)

def pass3 (turn : Nat) (c : Comp) (x : Cand) : Comp :=
  if taken c x || c.w == 0 then c else enter c x false (formDec turn c.s x (min x.offer c.w))

/-- Grows one pass-2 chunk (R297). -/
def grow (turn : Nat) (c : Comp) (f : Form) : Comp :=
  if c.w == 0 || f.capped || f.cand.offer == f.q then c
  else
    match formPre turn c.s f.cand (min f.cand.offer (f.q + c.w)) (some f) with
    | (s, none) => { c with s := s }
    | (s, some g) =>
      let k := LEnt.STAKE.get (s.req f.cand.slot)
      let add := g.q - f.q
      let s := if add = 0 then s
        else s.setStake k (LStake.LEFTOVER.set (s.stake k) (LStake.LEFTOVER.get (s.stake k) + add))
      { c with s := s, w := c.w - add, leftover := c.leftover + add,
               forms := c.forms.map (fun h => if h.cand.slot == f.cand.slot then g else h) }

def pass4 (turn : Nat) (c : Comp) (x : Cand) : Comp :=
  if taken c x || c.w == 0 then c else enter c x false (formPre turn c.s x (min x.offer c.w) none)

/-- The due time of an entry lies before the close (R36, R287). -/
def negSlack (t : Nat) (f : Form) : Bool :=
  match f.cand.due with
  | some u => f.cand.dec && decide (u < t)
  | none => false

/-- A close has met the reads given up (R256). -/
def dropReads (s : State) (b : Nat) : State :=
  ((bindSlots s b).filter (fun n => !(s.rx n).lostReads.isEmpty)).foldl (fun s n => s.updRx n (fun x => { x with lostReads := [] })) s

/-- Walks the candidates of a binding for the given turn number (R288, R297). -/
def composePasses (s : State) (b turn : Nat) : Comp :=
  let (s, cands) := (bindSlots s b).foldl (fun acc n =>
    match candOf turn acc.1 n with
    | (s, some c) => (s, acc.2 ++ [c])
    | (s, none) => (s, acc.2)) (s, ([] : List Cand))
  let s := ((cands.map (fun c => LEnt.STAKE.get (s.req c.slot))).eraseDups).foldl (fun s n => refill s n (now s)) s
  let dec := orderCands s (cands.filter (·.dec))
  let pre := orderCands s (cands.filter (fun c => !c.dec))
  let c : Comp := ⟨s, LBindRec.STEP_WIDTH.get (s.bind b).brec, [], [], [], [], 0⟩
  let c := dec.foldl (pass1 b turn) c
  let c := pre.foldl (pass2 b turn) c
  let chunks := c.forms.filter (fun f => !f.cand.dec)
  let c := dec.foldl (pass3 turn) c
  let c := chunks.foldl (grow turn) c
  let c := pre.foldl (pass4 turn) c
  let out := (cands.filter (fun x => !taken c x)).length
  { c with s := dropReads ((c.s.countBind b BC.widthOut out).countBind b BC.leftoverTokens c.leftover) b }

/-- Query tokens of the entries formed. -/
def formTokens (l : List Form) : Nat := (l.map (·.q)).foldl (· + ·) 0

/-- The weight-product path of a turn (R41): true for the pips. -/
def pipPath (r : BitVec 8192) (tokens : Nat) : Bool := decide (tokens ≤ LBindRec.PIP_TOKENS.get r)

/-- Length-table entries in the order of R299, ROW by R45. -/
def lengthTable (s : State) : Nat → List Form → List TEnt
  | _, [] => []
  | row, f :: rest =>
    let e := s.req f.cand.slot
    let kind := if !f.cand.dec then 1 else if f.draft.isEmpty then 0
      else if LSamp.DRAFT.get (f.cand.samp.getD 0#512) = 2 then 3 else 2
    let w : BitVec 128 := setAll 0#128 [(LLenEnt.SLOT, f.cand.slot), (LLenEnt.KIND, kind), (LLenEnt.QTOK, f.q),
      (LLenEnt.KVLEN, LEnt.LEN.get e), (LLenEnt.ROW, row), (LLenEnt.SAMPLE, b2n f.completes),
      (LLenEnt.PTBASE, LEnt.PTBASE.get e)]
    ⟨w, f.cand.samp.getD 0#512, f.draft, [], f.sets, f.runs, [], 0, (s.rx f.cand.slot).seed.isSome, f.smask,
      LEnt.SMASK.get e, []⟩ ::
      lengthTable s (row + f.q) rest

/-! ## The close (R40, R276, R31) -/

/-- Is the binding a slice binding (R355), and does this device compose its turns (R360, R373)? -/
def sliceBinding (s : State) (b : Nat) : Bool :=
  LSliceSt.STATE.get s.fab.slice != 0 && (LSliceSt.BINDINGS.get s.fab.slice).testBit b

def composes (s : State) (b : Nat) : Bool :=
  (s.bind b).loaded && !bFaulted (s.bind b) &&
  (!sliceBinding s b || (LSliceSt.LEADER.on s.fab.slice && LSliceSt.STATE.get s.fab.slice == 2))

/-- Sets expiries found at this close (R276): DETAIL 2 DEADLINE, 1 T_EXPIRE. -/
def markExpired (s : State) (slot : Nat) : State :=
  let e := s.req slot
  let d := if LEnt.DEADLINE.get e ≠ 0 && decide (LEnt.DEADLINE.get e ≤ now s) then 2
    else if LEnt.T_EXPIRE.get e ≠ 0 && decide (LEnt.T_EXPIRE.get e ≤ now s) then 1 else 0
  if rActive s slot && d ≠ 0 then s.updRx slot (fun x => { x with expireDue := d }) else s

/-- Ends at once every request of the binding whose expiry is due (R276). -/
def endExpired (s : State) (b : Nat) : State :=
  (bindSlots s b).foldl (fun s n =>
    if rActive s n && (s.rx n).expireDue != 0 then endNow s n 5 (s.rx n).expireDue else s) s

/-- The turn counter's limit (R31). -/
def endLimit (s : State) (b : Nat) : State :=
  (bindSlots s b).foldl (fun s n =>
    if rState s n == RS.prefill || rState s n == RS.decode then endNow s n 4 4 else s) s

/-- The turn block of a binding with no composition (R32, R39); PATH stays that of its newest turn. -/
def idleBlk (w : BitVec 192) : BitVec 192 :=
  setAll w [(LTurnBlk.PHASE, 0), (LTurnBlk.TOKENS, 0), (LTurnBlk.REQS, 0), (LTurnBlk.LAYER, 0)]

/-- Where a seed's entries stand as its copy is issued. A fork within its parent's held set finds that column in the set
that the parent holds now, or in the run that the parent's table names since (R126, R136); where the parent holds neither
any more, in the slots that held it at the ADMIT (DESIGN CHOICE, log entry 74). -/
def seedSource (s : State) (slot : Nat) (sd : Seed) : SeedSrc :=
  match sd.fork with
  | none => sd.src
  | some p =>
    let e := s.req p
    if !rActive s p || decide (LEnt.T_ADMIT.get e ≥ LEnt.T_ADMIT.get (s.req slot)) then sd.src
    else if sd.col < LEnt.LEN.get e / gTpp (s.bind (LEnt.BINDING.get e)).brec || (s.rx p).tailRun then
      .run (ptAddr (ptEntry s e sd.col))
    else ((s.rx p).held.map SeedSrc.set).getD sd.src

/-- The seed copy that a request's first composition issues (R126). -/
def startSeed (s : State) (b : Nat) (e : TEnt) : State :=
  let slot := LLenEnt.SLOT.get e.len
  match (s.rx slot).seed, e.sets.head? with
  | some sd, some (_, f) =>
    s.updBind b (fun x => { x with seeds := x.seeds ++ [⟨slot, sd.col, seedSource s slot sd, .set f, sd.count, [], [], false, 0⟩] })
  | _, _ => s

/-- Runs for parked runs of RESUMING requests (R252). -/
def allocReturns (s : State) (b : Nat) : State :=
  (bindSlots s b).foldl (fun s n => if rState s n = RS.resuming then returnAlloc s n (bTurn (s.bind b) + 1) else s) s

/-- Counts and logs the uncorrectable words that a close meets in its requests' blocks (R471), and counts the reads of
them that R23 refuses (R427): sampling block, structured-mask header, grammar header, draft block. -/
def noteBlocks (s : State) (b : Nat) : State :=
  ((bindSlots s b).filter (rActive s)).foldl (fun s n =>
    let e := s.req n
    let seat := LEnt.SEAT.get e
    let note := fun (s : State) (on : Bool) (a : Nat) =>
      if on then (noteBad s (keyOf s a) 64 0 seat (some b)).noteWindow seat (accessStatus s seat false a 64) else s
    let s := note (note s true (LEnt.SAMPLE.get e)) (LEnt.MASK_ON.on e) (LEnt.SMASK.get e)
    match sampBlock s n e with
    | some w => note (note s (LSamp.GRAMMAR.on w) (LSamp.GADDR.get w))
        (LSamp.DRAFT.get w != 0 && LEnt.STATE.get e == RS.decode) (LSamp.DADDR.get w)
    | none => s) s

/-! ## The slot (R35, R36) -/

/-- A binding that waits for the slot, in the higher or the lower class; a HELD slice starts no Gather, while a slice that resets
brings its turns to their commit points (R373). -/
def waitsSlot (s : State) (high : Bool) (b : Nat) : Bool :=
  bPhase (s.bind b) == 1 && !bFaulted (s.bind b) && (s.bind b).neg == high &&
  (!sliceBinding s b || sliceState s == 2 || sliceState s == 4)

/-- The bindings that the grant is made among: the one chosen already, or every one that is COMPOSED. -/
def slotCands (s : State) (high : Bool) (b : Nat) : Bool :=
  waitsSlot s high b &&
  match s.slot.next with
  | some n => n == b || !(waitsSlot s true n || waitsSlot s false n)
  | none => true

/-- The grant of R36: the winner and the pointers after it. -/
def slotGrant (s : State) : Option (Nat × Nat × Nat) :=
  match grant (slotCands s true) s.slot.ptrHigh 16 with
  | some (b, p) => some (b, p, s.slot.ptrLow)
  | none => (grant (slotCands s false) s.slot.ptrLow 16).map (fun x => (x.1, s.slot.ptrHigh, x.2))

/-- A free slot goes, as it falls free, to the grant of R36 among the COMPOSED bindings, or later to the first to become
COMPOSED: SLOT_GRANT performs that choice. -/
def settleSlot (s : State) : State :=
  if s.slot.holder.isNone && s.slot.draining.isNone then
    { s with slot := { s.slot with next := (slotGrant s).map (·.1) } }
  else s

/-! ## The close -/

/-- The close of a binding's next composition (R40). -/
def closeTurn (s : State) (b : Nat) : State :=
  if !composes s b then s
  else if bTurn (s.bind b) = 2 ^ 64 - 1 then endLimit (s.updBind b (fun x => { x with blk := idleBlk x.blk, turn := [] })) b
  else
    let s := allocReturns ((bindSlots s b).foldl markExpired s) b
    let c := composePasses s b (bTurn (s.bind b) + 1)
    let s := c.s
    if c.forms.isEmpty then
      (endExpired s b).updBind b (fun x => { x with blk := idleBlk x.blk, turn := [] })
    else
      let s := noteBlocks s b
      let ents := lengthTable s 0 c.forms
      let neg := c.forms.any (negSlack (now s))
      let tokens := formTokens c.forms
      let s := c.forms.foldl (fun s f => s.updRx f.cand.slot (fun x => { x with held := (f.sets.head?).map (·.2) })) s
      let s := s.updBind b (fun x => { x with
        blk := setAll x.blk [(LTurnBlk.PHASE, 1), (LTurnBlk.PATH, b2n (pipPath x.brec tokens)), (LTurnBlk.TOKENS, tokens),
          (LTurnBlk.REQS, ents.length), (LTurnBlk.LAYER, 0)],
        turn := ents, neg := neg, weightsRead := false, turnMoulds := x.moulds })
      let s := ents.foldl (fun s e => startSeed s b e) s
      let s := s.countBind b BC.closes 1
      settleSlot (if neg then s.countBind b BC.negSlack 1 else s)

/-- What the leader scatters of an entry. Beside the length-table entry, which alone the manual says follows the record, it
carries what R150 to R154 and R360 have a member's rows use of the request (DESIGN CHOICE, log entry 77). -/
def sliceEnt (e : TEnt) : SliceEnt := ⟨e.len, e.draft, e.smask, e.maskAt, e.sets⟩

/-- A composition that the leader has closed from IDLE goes to the members in a scatter of its own, whose TURN is that of the last
commit and whose TIME is 0: no commit scatter carries it (R360; DESIGN CHOICE, log entry 104). -/
def scatterTurn (s : State) (b : Nat) : State :=
  if sliceBinding s b && !(s.bind b).turn.isEmpty then
    toKids s (syncRec s 0x11 b [(LSync.TURN, bTurn (s.bind b)), (LSync.MEMBERS, 1)]) ((s.bind b).turn.map sliceEnt)
  else s

/-- At the end of a command's service, an IDLE binding closes if a request of it is schedulable (R39, R40), or if its
turn counter stands at its limit (R31). A composition that no request can enter allocates returns all the same (R252;
DEDUCED, log entry 75). -/
def closeIdle (s : State) (b : Nat) : State :=
  let s := if composes s b && bPhase (s.bind b) == 0 then allocReturns s b else s
  if !(composes s b && bPhase (s.bind b) == 0) then s
  else if bTurn (s.bind b) == 2 ^ 64 - 1 || !(composePasses s b (bTurn (s.bind b) + 1)).forms.isEmpty then
    scatterTurn (closeTurn s b) b
  else dropReads s b

end Sys2Proof.Machine
end

