-- ==== Sys2Proof/Machine/Requests.lean ====
section
/-! DEFINITION. ADMIT, FEED, CANCEL, PAUSE and RESUME (10_requests.md; prefix lookup of R132, forks of R136). -/

namespace Sys2Proof.Machine

/-! ## The prefix lookup (R132) -/

/-- Increments of R138 due to a run and not yet applied. -/
def dueRefs (s : State) (b p i : Nat) : Nat :=
  ((s.reqx.filter (fun e => rBind s e.1 == b)).map (fun e => (e.2.refDue.filter (· == (p, i))).length)).foldl (· + ·) 0

/-- What a lookup has found so far. -/
structure Match where
  s : State
  /-- Columns and runs matched, first column first: column, pool, number. -/
  runs : List (Nat × Nat × Nat)
  chain : W64
  status : Nat
  deriving DecidableEq, Repr

/-- Token values of a column: a variant's positions hold 0xFFFF_FFFF, the others come from the prompt area. -/
def columnTokens (s : State) (e : BitVec 1024) (t vlen j : Nat) : List Nat :=
  (List.range t).map (fun i =>
    let p := j * t + i
    if p < vlen then 0xFFFFFFFF
    else viewNat s (keyOf s (LEnt.PBASE.get e) + 4 * ((p - vlen) % LEnt.PCAP.get e)) 4)

/-- Why the prompt area's tokens of a column cannot be read, or success (R20, R21, R268): the first failure, in the order of the
positions. -/
def promptStatus (s : State) (e : BitVec 1024) (t vlen j : Nat) : Nat :=
  let word := fun (i : Nat) =>
    let a := LEnt.PBASE.get e + 4 * ((j * t + i - vlen) % LEnt.PCAP.get e)
    firstFail [(addrStatus s a 4 != St.ok, addrStatus s a 4), (!routed s a, St.noroute), (true, extStatus s (keyOf s a) 4 false)]
  if (s.rx (LEnt.SLOT.get e)).promptLost ≠ 0 then (s.rx (LEnt.SLOT.get e)).promptLost
  else (((List.range t).filter (fun i => decide (vlen ≤ j * t + i))).map word).find? (· != St.ok) |>.getD St.ok

/-- Does the parent field of an index entry name the column before (R130, R132)? -/
def parentMatches (w : BitVec 256) (first : Bool) (start : Nat) (prev : Nat) : Bool :=
  if first then LIdx.PSTART.on w && LIdx.PARENT.get w % 2 ^ 11 == start
  else !LIdx.PSTART.on w && LIdx.PARENT.get w == prev / 16384

/-- Tries the entries of one bucket from entry i on. -/
def bucketMatch (b seatGroup start t : Nat) (h : W64) (toks : List Nat) (first : Bool) (prev : Nat) :
    Nat → Nat → State → State × Option (Nat × Nat)
  | 0, _, s => (s, none)
  | fuel + 1, i, s =>
    let k := idxKey s h i
    let w := idxRead s k
    let next := bucketMatch b seatGroup start t h toks first prev fuel (i + 1)
    if !idxValid s k || LIdx.HASH.get w != h.toNat || LIdx.BINDING.get w != b || LIdx.GROUP.get w != seatGroup then next s
    else
      let a := LIdx.RUN.get w * 16384
      match findRun (s.bind b).brec a with
      | none => next s
      | some (p, n) =>
        if uncorrAt s (laneKey s b a 0 + 0x3E00) (4 * t) then next s
        else if !parentMatches w first start prev || tokenArea s (laneKey s b a 0) t != toks then
          next (s.countBind b BC.idxCollide 1)
        else if LRunRec.REFCNT.get (runRec (s.bind b) p n) + dueRefs s b p n ≥ 65535 then
          next (s.countBind b BC.idxReflimit 1)
        else (s, some (p, n))

/-- Matches columns from j on. -/
def matchCols (e : BitVec 1024) (b seat t vlen last start : Nat) : Nat → Nat → Match → Match
  | 0, _, m => m
  | fuel + 1, j, m =>
    if (j + 1) * t - 1 ≥ last then m
    else if promptStatus m.s e t vlen j ≠ St.ok then { m with status := promptStatus m.s e t vlen j }
    else
      let toks := columnTokens m.s e t vlen j
      let h := chainNext m.s seat (LEnt.GROUP.get e) m.chain toks
      let prev := match m.runs.getLast? with
        | some (_, p, i) => runAddr (m.s.bind b).brec p i
        | none => 0
      match bucketMatch b (seat * 4096 + LEnt.GROUP.get e) start t h toks m.runs.isEmpty prev 8 0 m.s with
      | (s, none) => { m with s := s.countBind b BC.idxMiss 1 }
      | (s, some (p, i)) =>
        matchCols e b seat t vlen last start fuel (j + 1)
          { m with s := s.countBind b BC.idxHit 1, runs := m.runs ++ [(j, p, i)], chain := h }

/-! ## Admission (R266 to R268) -/

def attached (s : State) (seat b : Nat) : Bool := (LSeatBnd.ATTACHED.get (s.seat seat).bnd).testBit b

def variantOf (s : State) (e : BitVec 1024) : Var :=
  if LEnt.VAR_ON.on e then Tab.get (s.bind (LEnt.BINDING.get e)).variants ⟨0, 0⟩ (LEnt.VARIANT.get e) else ⟨0, 0⟩

/-- Columns of a fork parent wholly below f: column, page-table entry, run if it is counted (R136). Of a parked run the
manual names no entry for the fork: it inherits the parked address, and there is no count to raise (DESIGN CHOICE, log
entry 76). -/
def forkCols (s : State) (e : BitVec 1024) : List (Nat × W64 × Option (Nat × Nat)) :=
  let r := (s.bind (LEnt.BINDING.get e)).brec
  let p := s.req (LEnt.PARENT.get e)
  (List.range (LEnt.FORKPOS.get e / gTpp r)).map (fun j =>
    let w := ptEntry s p j
    (j, w, if LPtEnt.KIND.get w = 1 || LPtEnt.KIND.get w = 2 then findRun r (ptAddr w) else none))

/-- The seed of the column that holds f, and the run it holds (R126, R136). A parent that was paused before its own seed was copied
has neither a run nor a set there: the fork takes the source of the parent's seed. -/
def forkSeed (s : State) (e : BitVec 1024) : Option (Seed × Option (Nat × Nat)) :=
  let r := (s.bind (LEnt.BINDING.get e)).brec
  let t := gTpp r
  let p := s.req (LEnt.PARENT.get e)
  let f := LEnt.FORKPOS.get e
  let w := ptEntry s p (f / t)
  if f % t = 0 then none
  else if f / t < LEnt.LEN.get p / t || (s.rx (LEnt.PARENT.get e)).tailRun then
    some (⟨.run (ptAddr w), f / t, f % t, none⟩, if LPtEnt.KIND.get w = 3 then none else findRun r (ptAddr w))
  else
    match (s.rx (LEnt.PARENT.get e)).held, (s.rx (LEnt.PARENT.get e)).seed with
    | some h, _ => some (⟨.set h, f / t, f % t, some (LEnt.PARENT.get e)⟩, none)
    | none, some sd => some (⟨sd.src, f / t, f % t, sd.fork⟩, (s.rx (LEnt.PARENT.get e)).forkHold)
    | none, none => none

/-- The chain of a fork's inherited columns (R111, R129): it is its own, so it starts anew over their token values. -/
def forkChain (s : State) (seat : Nat) (e : BitVec 1024) : W64 :=
  let b := LEnt.BINDING.get e
  let t := gTpp (s.bind b).brec
  (List.range (LEnt.FORKPOS.get e / t)).foldl (fun h j => chainNext s seat (LEnt.GROUP.get e) h
    (tokenArea s (laneKey s b (ptAddr (ptEntry s (s.req (LEnt.PARENT.get e)) j)) 0) t)) (chainStart false 0)

/-- Would a fork take any count above its limit (R136)? -/
def forkOver (s : State) (e : BitVec 1024) : Bool :=
  let b := LEnt.BINDING.get e
  let hold := match forkSeed s e with
    | some (_, some x) => [x]
    | _ => []
  ((forkCols s e).filterMap (fun c => c.2.2) ++ hold).any (fun x =>
    decide (LRunRec.REFCNT.get (runRec (s.bind b) x.1 x.2) + dueRefs s b x.1 x.2 ≥ 65535))

/-- Does an address lie in companion memory? -/
def space1 (a : Nat) : Bool := a / 2 ^ 52 % 2 == 1

/-- Are all of a request's host structures in companion memory (R376, R378)? -/
def hostOnly (e : BitVec 1024) : Bool :=
  space1 (LEnt.PTBASE.get e) && space1 (LEnt.PBASE.get e) && space1 (LEnt.SAMPLE.get e) && space1 (LEnt.RING.get e) &&
  (!LEnt.MASK_ON.on e || space1 (LEnt.SMASK.get e))

/-- The checks of R267 and, ahead of them, R424 and R360; R378's for a mirrored seat beside the other E_RANGE tests. -/
def admitStatus (s : State) (seat : Nat) (e : BitVec 1024) : Nat :=
  let b := LEnt.BINDING.get e
  let x := s.bind b
  let r := x.brec
  let slot := LEnt.SLOT.get e
  let par := LEnt.PARENT.get e
  let pe := s.req par
  let vlen := (variantOf s e).vlen
  firstFail [
    (LSeatCfg.RESETTING.on (s.seat seat).cfg, St.busy),
    (sliceBinding s b && !LSliceSt.LEADER.on s.fab.slice, St.state),
    (!rsvZero LEnt.rsv e || LEnt.STATE.get e != 0 || LEnt.END.get e != 0 || LEnt.DETAIL.get e != 0 ||
      LEnt.SEAT.get e != 0 || LEnt.LEN.get e != 0 || LEnt.PDONE.get e != 0 || LEnt.NEXT_ON.on e ||
      !x.loaded || !attached s seat b || (LEnt.VAR_ON.on e && vlen == 0) ||
      (LEnt.FORK.on e && (LEnt.VAR_ON.on e || LEnt.SHARE_ON.on e)) ||
      (LEnt.MASK_ON.on e && !LBindRec.SMASK.on r) || (!LEnt.MASK_ON.on e && LEnt.SMASK.get e != 0) ||
      decide (LEnt.PCAP.get e < 16) || decide (LEnt.PCAP.get e > 524288) || LEnt.PCAP.get e % 16 != 0 ||
      LEnt.PAVAIL.get e == 0 || decide (LEnt.PAVAIL.get e > LEnt.PCAP.get e) ||
      LEnt.COLS.get e == 0 || decide (LEnt.COLS.get e > 65536) || !space1 (LEnt.RING.get e) ||
      (LMirSt.STATE.get (s.mir seat).state != 0 && !hostOnly e), St.range),
    (bFaulted x, St.faulted),
    (!(LStake.ON.on (s.stake (LEnt.STAKE.get e)) && LStake.SEAT.get (s.stake (LEnt.STAKE.get e)) == seat) ||
      (LEnt.FORK.on e && LEnt.STATE.get pe != 0 && (LEnt.BINDING.get pe != b || LEnt.SEAT.get pe != seat)), St.denied),
    ((rState s slot == RS.done && rSeat s slot != seat) ||
      !inSeatFor true s seat (LEnt.PTBASE.get e) (64 + 8 * LEnt.COLS.get e) ||
      !inSeat s seat (LEnt.PBASE.get e) (4 * LEnt.PCAP.get e) || !inSeatFor true s seat (LEnt.RING.get e) 1152 ||
      !inSeat s seat (LEnt.SAMPLE.get e) 64 || (LEnt.MASK_ON.on e && !inSeat s seat (LEnt.SMASK.get e) 64), St.window),
    (rState s slot != RS.free && rState s slot != RS.done, St.busy),
    (LEnt.PTBASE.get e % 64 != 0 || LEnt.PBASE.get e % 64 != 0 || LEnt.RING.get e % 128 != 0, St.addr),
    (decide ((if LEnt.FORK.on e then LEnt.FORKPOS.get e else vlen) + LEnt.PAVAIL.get e > lenBound e r), St.range),
    (LEnt.FORK.on e && !([RS.prefill, RS.decode, RS.pausing, RS.paused].contains (LEnt.STATE.get pe)), St.notactive),
    (LEnt.FORK.on e && decide (LEnt.FORKPOS.get e > LEnt.LEN.get pe), St.range),
    (LEnt.FORK.on e && forkOver s e, St.reflimit),
    (rState s slot == RS.free && decide (Tab.get (s.seat seat).usage 0 0 + 1 > Tab.get (s.seat seat).quota 0 0), St.quota)]

/-- Makes page-table entries, a length and count increments visible, now or at the commit point (R113, R138). -/
def lateOrNow (s : State) (slot : Nat) (pts : List (Nat × W64)) (len : Nat) (refs : List (Nat × Nat)) : State :=
  let b := rBind s slot
  if inFlight s b then s.updRx slot (fun x => { x with ptDue := pts, lenDue := some len, refDue := refs })
  else
    let s := pts.foldl (fun s x => ptWrite s (s.req slot) x.1 x.2) s
    let s := refs.foldl (fun s x => refAdd s b x.1 x.2 1) s
    ptHeader (s.updReq slot [(LEnt.LEN, len)]) slot

/-- A request whose ring write was lost ends at once where no turn is in flight (R490). -/
def settleLost (s : State) (slot : Nat) : State :=
  if rActive s slot && (s.rx slot).faultDue != 0 && !inFlight s (rBind s slot) then endNow s slot 4 (s.rx slot).faultDue
  else s

/-- An accepted record's set-up (R268). -/
def admitSetup (s : State) (seat : Nat) (e : BitVec 1024) (m : Match) : State :=
  let b := LEnt.BINDING.get e
  let slot := LEnt.SLOT.get e
  let r := (s.bind b).brec
  let t := gTpp r
  let v := variantOf s e
  let fork := LEnt.FORK.on e
  let base := if fork then LEnt.FORKPOS.get e else v.vlen
  let len := match m.runs.getLast? with
    | some (j, _, _) => (j + 1) * t
    | none => base
  let varCols := (List.range (v.vlen / t)).map (fun j =>
    (j, LPtEnt.KIND.set (BitVec.ofNat 64 (viewNat s (keyOf s (v.vpt + 8 * j)) 8)) 3))
  let hits := m.runs.map (fun x => (x.1, ptMake (runAddr r x.2.1 x.2.2) x.2.1 1 0))
  let inherited := if fork then forkCols s e else []
  let fs := if fork then forkSeed s e else none
  let hold := fs.bind (·.2)
  let seed : Option Seed :=
    if fork then fs.map (·.1)
    else if v.vlen % t ≠ 0 && m.runs.isEmpty then
      some ⟨.run (ptAddr (BitVec.ofNat 64 (viewNat s (keyOf s (v.vpt + 8 * (v.vlen / t))) 8))), v.vlen / t, v.vlen % t, none⟩
    else none
  let reuse := rState s slot == RS.done
  let chain := if fork then forkChain s seat e else m.chain
  let s := s.setReq slot (setAll e [(LEnt.STATE, RS.queued), (LEnt.SEAT, seat), (LEnt.T_ADMIT, now s), (LEnt.LEN, 0),
    (LEnt.PDONE, len - base)])
  let s := s.setRx slot { ReqX.reset with tRef := now s, firstDue := true, chain := chain, seed := seed, forkHold := hold }
  let s := if reuse then s else s.updSeat seat (fun x => { x with usage := Tab.upd x.usage 0 0 (· + 1) })
  let refs := m.runs.map (fun x => (x.2.1, x.2.2)) ++ inherited.filterMap (fun c => c.2.2) ++ hold.toList
  let s := lateOrNow s slot (varCols ++ inherited.map (fun c => (c.1, c.2.1)) ++ hits) len refs
  let s := ringHeader s slot 0
  settleLost (s.countBind b BC.admitted 1) slot

/-- Applies one record: its status. -/
def admitOne (s : State) (seat : Nat) (e : BitVec 1024) : State × Nat :=
  let st := admitStatus s seat e
  if st ≠ St.ok then
    let s := if LSeatCfg.RESETTING.on (s.seat seat).cfg then s.countSeat seat 0x318 1
      else if st = St.quota then s.countSeat seat 0x308 1 else s
    (s, st)
  else
    let b := LEnt.BINDING.get e
    let t := gTpp (s.bind b).brec
    let v := variantOf s e
    let start : Match := ⟨s, [], chainStart (LEnt.VAR_ON.on e) (LEnt.VARIANT.get e), St.ok⟩
    let m := if LEnt.SHARE_ON.on e then
        matchCols e b seat t v.vlen (v.vlen + LEnt.PAVAIL.get e - 1)
          (if LEnt.VAR_ON.on e then LEnt.VARIANT.get e else 0x7FF) 65536 (v.vlen / t) start
      else start
    if m.status ≠ St.ok then (s.updRx (LEnt.SLOT.get e) (fun x => { x with promptLost := 0 }), m.status)
    else (admitSetup m.s seat e m, St.ok)

/-- Closes every IDLE binding of a list (R40). -/
def closeAll (s : State) (l : List Nat) : State := l.eraseDups.foldl closeIdle s

/-- ADMIT (R266). -/
def opAdmit : CmdOp := fun c s =>
  let n := (c.body.extractLsb' 0 6).toNat
  if n = 0 || n > 32 || bodyAbove c 6 then (s, Rsp.of St.range)
  else
    let recs := (List.range n).map (admitRec c)
    let (s, sts) := recs.foldl (fun acc e =>
      let (s, st) := admitOne acc.1 c.seat e
      (s, acc.2 ++ [st])) (s, ([] : List Nat))
    (closeAll s (recs.map (fun e => LEnt.BINDING.get e)),
      ⟨(sts.find? (· != 0)).getD 0, sts.flatMap (fun st => bytesOf st 2), none, none⟩)

/-! ## FEED, CANCEL, PAUSE, RESUME -/

/-- The request slot that a command's body names. -/
def bodySlot (c : Cmd) : Nat := (c.body.extractLsb' 0 14).toNat

/-- Does a slot in use belong to another seat (R263)? -/
def otherSeat (s : State) (c : Cmd) : Bool := rState s (bodySlot c) != RS.free && rSeat s (bodySlot c) != c.seat

/-- R360: a slice binding's requests are commanded on the leader alone. -/
def notLeader (s : State) (c : Cmd) : Bool :=
  rState s (bodySlot c) != RS.free && sliceBinding s (rBind s (bodySlot c)) && !LSliceSt.LEADER.on s.fab.slice

def feedStatus (s : State) (c : Cmd) : Nat :=
  let slot := bodySlot c
  let e := s.req slot
  let n := (c.body.extractLsb' 14 20).toNat
  let fin := c.body.getLsbD 34
  let st := LEnt.STATE.get e
  firstFail [
    (bodyAbove c 35 || (n == 0 && !fin), St.range),
    (otherSeat s c, St.window),
    (notLeader s c, St.state),
    (!rActive s slot, St.notactive),
    (st == RS.decode || ((st == RS.queued || st == RS.prefill) && LEnt.FINAL.on e), St.state),
    (decide (LEnt.PAVAIL.get e + n - LEnt.PDONE.get e > LEnt.PCAP.get e) ||
      decide (LEnt.LEN.get e + LEnt.NEXT_ON.get e + LEnt.PAVAIL.get e + n - LEnt.PDONE.get e >
        lenBound e (s.bind (LEnt.BINDING.get e)).brec), St.range)]

/-- FEED (R271, R286). -/
def opFeed : CmdOp := fun c s =>
  let slot := bodySlot c
  if feedStatus s c ≠ St.ok then (s, Rsp.of (feedStatus s c))
  else
    let fin := c.body.getLsbD 34
    let r := Rsp.of St.ok
    let s := s.updReq slot [(LEnt.PAVAIL, LEnt.PAVAIL.get (s.req slot) + (c.body.extractLsb' 14 20).toNat), (LEnt.FINAL, b2n fin)]
    let s := if fin then s.updRx slot (fun x => { x with tRef := now s, firstDue := true }) else s
    (closeIdle s (rBind s slot), r)

def cancelStatus (s : State) (c : Cmd) : Nat :=
  firstFail [(bodyAbove c 14, St.range), (otherSeat s c, St.window), (notLeader s c, St.state),
    (!rActive s (bodySlot c), St.notactive)]

/-- CANCEL (R272, R264). -/
def opCancel : CmdOp := fun c s =>
  let slot := bodySlot c
  if cancelStatus s c ≠ St.ok then (s, Rsp.of (cancelStatus s c))
  else
    let r := Rsp.of St.ok
    if inFlight s (rBind s slot) then
      (s.updRx slot (fun x => if x.cancelDue = 2 then x else { x with cancelDue := 1 }), r)
    else
      let s := endNow s slot 3 1
      (closeAll s (loadedBinds s), r)

def pauseAsk (c : Cmd) : PauseAsk :=
  ⟨LPause.TTL.get c.body, if LPause.HOST_ON.on c.body then some (LPause.HOST.get c.body) else none,
    if LPause.PARK_ON.on c.body then some (LPause.PARK.get c.body) else none⟩

def pauseStatus (s : State) (c : Cmd) : Nat :=
  let slot := bodySlot c
  let o := s.obj (LPause.PARK.get c.body)
  firstFail [
    (!rsvZero LPause.rsv c.body || bodyAbove c 128 || (LPause.PARK_ON.on c.body &&
      !(LObj.KIND.get o == 4 && LObj.STATE.get o == 1 && LObj.SEAT.get o == c.seat)), St.range),
    (otherSeat s c, St.window),
    (notLeader s c, St.state),
    (!rActive s slot, St.notactive),
    (rState s slot == RS.pausing || rState s slot == RS.resuming, St.busy)]

/-- PAUSE (R273, R274). -/
def opPause : CmdOp := fun c s =>
  let slot := bodySlot c
  if pauseStatus s c ≠ St.ok then (s, Rsp.of (pauseStatus s c))
  else
    let r := Rsp.of St.ok
    if inFlight s (rBind s slot) then (s.updRx slot (fun x => { x with pauseDue := some (pauseAsk c) }), r)
    else
      let s := pauseEffect s slot (pauseAsk c)
      (closeAll s (loadedBinds s), r)

def resumeStatus (s : State) (c : Cmd) : Nat :=
  let slot := bodySlot c
  firstFail [
    (bodyAbove c 14, St.range), (otherSeat s c, St.window), (notLeader s c, St.state), (!rActive s slot, St.notactive),
    (rState s slot == RS.pausing, St.busy),
    (rState s slot != RS.paused, St.state)]

/-- RESUME (R275, R252, R286). -/
def opResume : CmdOp := fun c s =>
  let slot := bodySlot c
  if resumeStatus s c ≠ St.ok then (s, Rsp.of (resumeStatus s c))
  else
    let b := rBind s slot
    let r := Rsp.of St.ok
    let s := s.updReq slot [(LEnt.T_EXPIRE, 0), (LEnt.STATE, RS.resuming)]
    let s := s.updRx slot (fun x => { x with tRef := now s, firstDue := true, pauseDue := none, ask := none })
    if inFlight s b then (s, r)
    else (closeIdle (resumeSwitch s slot) b, r)

/-! ## The rows -/

def execAdmitReq (c : Cmd) (s : State) : Host.Outcome State Fault Refusal := cmdRow 0x0001 (fun _ => true) opAdmit c s
def execFeed (c : Cmd) (s : State) : Host.Outcome State Fault Refusal := cmdRow 0x0002 (fun _ => true) opFeed c s
def execCancel (c : Cmd) (s : State) : Host.Outcome State Fault Refusal := cmdRow 0x0003 (fun _ => true) opCancel c s
def execPause (c : Cmd) (s : State) : Host.Outcome State Fault Refusal := cmdRow 0x0004 (fun _ => true) opPause c s
def execResume (c : Cmd) (s : State) : Host.Outcome State Fault Refusal := cmdRow 0x0005 (fun _ => true) opResume c s

end Sys2Proof.Machine
end

