-- ==== Sys2Proof/Machine/Place.lean ====
section
/-! DEFINITION. PLACE: the object table, charges and the shared pool, copies, write-backs and drops (09_tiers.md). -/

namespace Sys2Proof.Machine

/-! ## Quotas and the shared pool (R245, R246, R248) -/

/-- Tiles of a local tier (R245). -/
def tierTiles (s : State) (tier : Nat) : Nat :=
  if tier = 2 then 50331648 else if tier = 1 then 4 * (0x80000000 - hmFixed s) / 16384 else 0

def objList (s : State) : List Nat := (s.objs.map (·.1)).filter (fun n => LObj.KIND.get (s.obj n) != 0)

/-- Tiles an object has drawn from a tier's shared pool. -/
def objPool (x : ObjX) (tier : Nat) : Nat := if tier = 1 then x.pool1 else if tier = 2 then x.pool2 else 0

def setPool (x : ObjX) (tier v : Nat) : ObjX :=
  if tier = 1 then { x with pool1 := v } else if tier = 2 then { x with pool2 := v } else x

def sumNat (l : List Nat) : Nat := l.foldl (· + ·) 0

/-- Tiles of runs parked in this device's PARKHOST objects of a tier. -/
def parkedTiles (s : State) (tier : Nat) : Nat :=
  sumNat ((objList s).map (fun n =>
    if LObj.KIND.get (s.obj n) = 5 && LObj.WTIER.get (s.obj n) == tier then sumNat ((s.ox n).park.map (·.tiles)) else 0))

/-- A seat's usage of one kind as its register shows it: in T1 and T2, runs of its requests parked in this device's own
PARKHOST objects count too (R245, R410). -/
def usageShown (s : State) (seat k : Nat) : Nat :=
  Tab.get (s.seat seat).usage 0 k + (if k = 2 || k = 3 then
    sumNat ((objList s).map (fun n => if LObj.KIND.get (s.obj n) = 5 && LObj.WTIER.get (s.obj n) + 1 == k then
      sumNat (((s.ox n).park.filter (fun r => r.owner == ownChip s && r.seat == seat)).map (·.tiles)) else 0))
    else 0)

/-- Sum of the quotas of one kind over all seats. -/
def quotaSum (s : State) (k : Nat) : Nat := sumNat ((List.range 64).map (fun n => Tab.get (s.seat n).quota 0 k))

/-- Free tiles of a tier's shared pool (R246). -/
def poolFree (s : State) (tier : Nat) : Nat :=
  tierTiles s tier - quotaSum s (tier + 1) - sumNat ((objList s).map (fun n => objPool (s.ox n) tier)) - parkedTiles s tier

/-- A seat's tiles of a tier that its quota carries. -/
def quotaUsed (s : State) (seat tier : Nat) : Nat :=
  Tab.get (s.seat seat).usage 0 (tier + 1) -
    sumNat ((objList s).map (fun n => if LObj.SEAT.get (s.obj n) = seat then objPool (s.ox n) tier else 0))

/-- Parked requests of a tier's PARKHOST objects: (oldest stamp, owner chip, slot), in order of arrival (R248). -/
def parkedReqs (s : State) (tier : Nat) : List (Nat × Nat × Nat) :=
  let runs := (objList s).flatMap (fun n =>
    if LObj.KIND.get (s.obj n) = 5 && LObj.WTIER.get (s.obj n) == tier then (s.ox n).park else [])
  let byArrival := runs.foldr (fun r l =>
    (l.takeWhile (fun q => decide (q.stamp < r.stamp || (q.stamp = r.stamp && q.id < r.id)))) ++ [r] ++
      (l.dropWhile (fun q => decide (q.stamp < r.stamp || (q.stamp = r.stamp && q.id < r.id))))) []
  byArrival.foldl (fun l r => if l.any (fun q => q.2.1 == r.owner && q.2.2 == r.slot) then l
    else l ++ [(r.stamp, r.owner, r.slot)]) []

/-- The seat of a parked request (R245). -/
def parkedSeat (s : State) (owner slot : Nat) : Nat :=
  (((objList s).flatMap (fun n => (s.ox n).park)).find? (fun r => r.owner == owner && r.slot == slot)).elim 0 (·.seat)

/-- Evicts one parked request: its runs are freed, its owner is told (R248). -/
def evictReq (s : State) (owner slot : Nat) : State :=
  let seat := parkedSeat s owner slot
  let s := (objList s).foldl (fun s n =>
    if LObj.KIND.get (s.obj n) = 5 then
      s.updOx n (fun x => { x with park := x.park.filter (fun r => !(r.owner == owner && r.slot == slot)) })
    else s) s
  tellPark (s.countDev dcParkEvict 1) owner 3 slot 0 seat

/-- Evicts until a tier's shared pool has n free tiles; evicts nothing if all evictions would not do (R248). -/
def makeRoom (s : State) (tier n : Nat) (but : Option (Nat × Nat)) : Option State :=
  let l := (parkedReqs s tier).filter (fun q => some (q.2.1, q.2.2) != but)
  let all := l.foldl (fun s q => evictReq s q.2.1 q.2.2) s
  if poolFree s tier ≥ n then some s
  else if poolFree all tier < n then none
  else some (l.foldl (fun s q => if poolFree s tier ≥ n then s else evictReq s q.2.1 q.2.2) s)

/-- Charges an object's tiles of a tier to its seat and, if it may borrow, to the shared pool; the status where it
cannot (R246). -/
def charge (s : State) (n seat tier tiles : Nat) (shared : Bool) : Except Nat State :=
  let free := Tab.get (s.seat seat).quota 0 (tier + 1) - quotaUsed s seat tier
  let short := tiles - free
  let add := fun (s : State) => s.updSeat seat (fun x => { x with usage := Tab.upd x.usage 0 (tier + 1) (· + tiles) })
  if short = 0 then .ok (add s)
  else if !shared || tier ≥ 3 then .error St.quota
  else
    match makeRoom s tier short none with
    | none => .error St.nospace
    | some s => .ok ((add s).updOx n (fun x => setPool x tier (objPool x tier + short)) |>.countDev dcSharedDraw short)

/-- Frees an object's tiles of a tier, the shared pool's first (R246). -/
def unchargeTiles (s : State) (n seat tier tiles : Nat) : State :=
  let s := s.updSeat seat (fun x => { x with usage := Tab.upd x.usage 0 (tier + 1) (· - tiles) })
  s.updOx n (fun x => setPool x tier (objPool x tier - tiles))

/-! ## The record as it reads (R233) -/

def tileDirty (s : State) (key t : Nat) : Bool := Tab.get s.dirty false (key / 16384 + t)

/-- Does the working copy have dirty bits? -/
def tracked (w : BitVec 512) : Bool := LObj.WTIER.get w == 1 || LObj.WTIER.get w == 2

/-- Ranges of an object's working copy, first key and tiles: a lead-in object lies on the four base dies (R402). -/
def workRanges (s : State) (n : Nat) : List (Nat × Nat) :=
  if LObj.KIND.get (s.obj n) = 6 then
    (s.bind (LObj.BINDING.get (s.obj n))).leadArea.map (fun a => (a * 16384, objTiles s n / 4))
  else [(objWorkKey s n, objTiles s n)]

/-- Tiles of the working copy whose dirty bit is set, ascending. -/
def dirtyTiles (s : State) (n : Nat) : List Nat :=
  (workRanges s n).flatMap (fun r =>
    (s.dirty.filter (fun e => decide (r.1 / 16384 ≤ e.1) && decide (e.1 < r.1 / 16384 + r.2))).map (fun e => e.1 - r.1 / 16384))

/-- The record with its counted fields. -/
def objView (s : State) (n : Nat) : BitVec 512 :=
  let w := s.obj n
  if LObj.KIND.get w = 0 then 0#512
  else setAll w [(LObj.DIRTY, if tracked w then (dirtyTiles s n).length else 0xFFFFFFFF),
    (LObj.BORROWED, (s.ox n).pool1 + (s.ox n).pool2)]

/-! ## The checks of R236 -/

/-- Is the object in use (R239)? -/
def inUse (s : State) (n : Nat) : Bool :=
  let w := s.obj n
  [1, 3, 6].contains (LObj.KIND.get w) && LObj.BOUND.on w && (s.bind (LObj.BINDING.get w)).loaded

/-- Ranges of an object's copies, first key and tiles: working, backing, the new one of a MOVE. -/
def copyRanges (s : State) (n : Nat) : List (Nat × Nat) :=
  let w := s.obj n
  let t := objTiles s n
  workRanges s n ++ (if LObj.BTIER.get w = 0 then [] else [(keyOf s (LObj.BACK.get w), t)]) ++
    (if LObj.STATE.get w = 2 && (s.ox n).op = 2 then [(keyOf s (s.ox n).target, t)] else [])

/-- Old ranges that stay charged after a switch in use (R240). -/
def oldRanges (s : State) (n : Nat) : List (Nat × Nat) := (s.ox n).oldRanges.map (fun r => (keyOf s r.1, r.2))

/-- All ranges that an object holds. -/
def objRanges (s : State) (n : Nat) : List (Nat × Nat) := copyRanges s n ++ oldRanges s n

/-- Does a range meet one of a list? -/
def meetsRange (s : State) (a t : Nat) (l : List (Nat × Nat)) : Bool :=
  l.any (fun r => overlaps (keyOf s a) (t * 16384) r.1 (r.2 * 16384))

/-- Does a range overlap a copy of another object (R236, step 6)? -/
def meetsOther (s : State) (n a t : Nat) : Bool :=
  (objList s).any (fun m => m != n && meetsRange s a t (copyRanges s m))

/-- Does a range touch an old range that R240 keeps? -/
def meetsKept (s : State) (a t : Nat) : Bool := (objList s).any (fun m => meetsRange s a t (oldRanges s m))

/-- Tiers that a kind's working copy may lie in, and its backing copy (R232). -/
def workTiers : Nat → List Nat
  | 1 => [2]
  | 2 => [1, 2, 3, 4]
  | 3 => [2]
  | 4 => [4]
  | 5 => [1, 2]
  | 6 => [1]
  | _ => []

/-- The tier that a range of tiles lies in as a placed copy may: in T3 the ingot and holding memory of another chip; 8, which no
kind allows, for one that leaves its tier or touches reserved offsets (R232, R236). -/
def placeTier (s : State) (a tiles : Nat) : Nat :=
  let last := a + tiles * 16384 - 1
  let memory := fun (off : Nat) => tierOfOffset off == 1 || tierOfOffset off == 2
  if addrStatus s a (tiles * 16384) = St.addr || tierOf s a ≠ tierOf s last then 8
  else match placeOf s a, placeOf s last with
    | .chip _ off, .chip _ off' => if memory off && memory off' then 3 else 8
    | _, _ => tierOf s a

def backOk (kind wt bt : Nat) : Bool :=
  match kind with
  | 1 => bt == 3 || bt == 4
  | 2 => decide (wt < bt) && decide (bt ≤ 4)
  | _ => false

/-- A working address of the wrong form for its kind (R236, step 4). -/
def badPlace (s : State) (kind a tiles : Nat) : Bool :=
  a % 16384 != 0 || decide (a / 2 ^ 53 ≠ 0) || !(workTiers kind).contains (placeTier s a tiles) ||
  (kind == 3 && keyOf s a / ingotSize != (keyOf s a + tiles * 16384 - 1) / ingotSize)

/-- Does a body field that OP does not use hold a nonzero value, or a field hold a reserved one? -/
def placeForm (c : Cmd) : Bool :=
  let w := c.body
  let op := LPlace.OP.get w
  let zero := fun (l : List Fld) => l.all (fun f => f.get w == 0)
  rsvZero LPlace.rsv w && !bodyAbove c 256 && decide (1 ≤ op) && decide (op ≤ 5) &&
  (LPlace.NOTIFY.on w || zero [LPlace.VECTOR]) && (LPlace.BOUND.on w || zero [LPlace.BINDING]) &&
  (if op = 1 then
    decide (1 ≤ LPlace.KIND.get w) && decide (LPlace.KIND.get w ≤ 6) && decide (1 ≤ LPlace.TILES.get w) &&
    decide (LPlace.TILES.get w ≤ 1073741824) && (LPlace.BACK_ON.on w || zero [LPlace.FILL, LPlace.BACKADDR])
  else
    zero [LPlace.KIND, LPlace.BINDING, LPlace.BOUND, LPlace.SHARED, LPlace.FILL, LPlace.BACK_ON, LPlace.TILES,
      LPlace.BACKADDR] && (op == 2 || zero [LPlace.ADDR]))

/-- Steps 1 to 7 of R236. -/
def placeStatus (s : State) (c : Cmd) : Nat :=
  let w := c.body
  let op := LPlace.OP.get w
  let n := LPlace.OBJECT.get w
  let o := s.obj n
  let x := s.ox n
  let kind := if op = 1 then LPlace.KIND.get w else LObj.KIND.get o
  let tiles := if op = 1 then LPlace.TILES.get w else LObj.TILES.get o
  let a := LPlace.ADDR.get w
  let ba := LPlace.BACKADDR.get w
  let backOn := LPlace.BACK_ON.on w
  let moves := op == 1 || op == 2
  firstFail [
    (!placeForm c, St.range),
    (op != 1 && kind == 0, St.noobj),
    (op == 1 && LObj.KIND.get o != 0, St.busy),
    (op != 1 && LObj.SEAT.get o != c.seat, St.window),
    (op == 1 && ((kind == 5 && c.seat != 0) || kind == 6), St.denied),
    (moves && (badPlace s kind a tiles || (op == 1 && backOn &&
      (ba % 16384 != 0 || decide (ba / 2 ^ 53 ≠ 0) || !backOk kind (tierOf s a) (placeTier s ba tiles)))), St.range),
    (op == 2 && ((LObj.BTIER.get o != 0 && a == LObj.BACK.get o) ||
      (kind == 1 && inUse s n && (tierOf s a != 2 || (LObj.BTIER.get o == 0 && bFaulted (s.bind (LObj.BINDING.get o))))) ||
      (LObj.BTIER.get o != 0 && !backOk kind (tierOf s a) (LObj.BTIER.get o))), St.range),
    ((op == 3 || op == 4) && LObj.BTIER.get o == 0, St.range),
    ((moves && !inSeat s c.seat a (tiles * 16384)) || (op == 1 && backOn && !inSeat s c.seat ba (tiles * 16384)), St.window),
    ((moves && meetsOther s n a tiles) || (op == 1 && backOn && (meetsOther s n ba tiles ||
      overlaps (keyOf s a) (tiles * 16384) (keyOf s ba) (tiles * 16384))) ||
      (op == 2 && (overlaps (keyOf s a) (tiles * 16384) (objWorkKey s n) (tiles * 16384) ||
        (LObj.BTIER.get o != 0 && overlaps (keyOf s a) (tiles * 16384) (keyOf s (LObj.BACK.get o)) (tiles * 16384)))),
      St.overlap),
    ((op == 2 || op == 4 || op == 5) && LObj.STATE.get o != 1 && LObj.STATE.get o != 5, St.busy),
    (op == 3 && LObj.STATE.get o != 1, St.busy),
    (inUse s n && (op == 4 || op == 5 || (op == 2 && kind != 1)), St.busy),
    ((kind == 4 || kind == 5) && (op == 2 || op == 4 || op == 5) && !x.park.isEmpty, St.busy),
    ((moves && meetsKept s a tiles) || (op == 1 && backOn && meetsKept s ba tiles), St.busy)]

/-! ## Copies and completion (R237, R242, R243, R258) -/

/-- Ends an object's operation (R237). -/
def endOp (s : State) (n st : Nat) : State :=
  let x := s.ox n
  let w := s.obj n
  let s := s.updObj n [(LObj.STATE, if st = St.ok then 1 else 5), (LObj.STATUS, st)]
  let s := s.updOx n (fun x => { x with op := 0, target := 0, pass := 0, marks := [], failed := 0, switchWait := false,
                                        waiting := [], todo := [] })
  let s := x.waiting.foldl (fun s e => writeMem s e.1 e.2) s
  if x.notify then raise s (LObj.SEAT.get w) x.vector 32 else s

/-- Why one tile's copy fails when it is issued (R237, R258), or success. -/
def tileStatus (s : State) (seat src dst : Nat) : Nat :=
  firstFail [
    (moveStatus s seat false src 16384 != St.ok, moveStatus s seat false src 16384),
    (moveStatus s seat true dst 16384 != St.ok, moveStatus s seat true dst 16384),
    (moverStatus s (keyOf s src) (keyOf s dst) 16384 != St.ok, moverStatus s (keyOf s src) (keyOf s dst) 16384),
    (uncorrAt s (keyOf s src) 16384, St.uncorr)]

/-- A WEIGHT object whose binding is FAULTED is reloaded from its backing copy (R473). -/
def reloads (s : State) (n : Nat) : Bool :=
  LObj.KIND.get (s.obj n) == 1 && inUse s n && bFaulted (s.bind (LObj.BINDING.get (s.obj n)))

/-- Where an object's operation copies from and to, and whether it copies the backing copy: a CREATE's fill, a MOVE, a
write-back. -/
def opEnds (s : State) (n : Nat) : Nat × Nat × Bool :=
  let w := s.obj n
  match (s.ox n).op with
  | 1 => (LObj.BACK.get w, LObj.WORK.get w, true)
  | 2 => (if (s.ox n).fromBack then LObj.BACK.get w else LObj.WORK.get w, (s.ox n).target, (s.ox n).fromBack)
  | _ => (LObj.WORK.get w, LObj.BACK.get w, false)

/-- The move queue of an object's operation: 1 for copies, 2 for write-backs (R244). -/
def moveQueue (s : State) (n : Nat) : Nat := if (s.ox n).op ≥ 3 then 2 else 1

/-- The base die whose queue copies an operation's next tile. -/
def nextDie (s : State) (n : Nat) : Option Nat :=
  ((s.ox n).todo.head?).map (fun x =>
    moveDie (keyOf s ((opEnds s n).1 + x.1 * 16384)) (keyOf s ((opEnds s n).2.1 + x.1 * 16384)))

/-- Must an operation's next tile wait: for an operation that the same move queue accepted before it, or with 32 tiles in flight
to other chips in the queue (R244)? -/
def queueWaits (s : State) (n : Nat) : Bool :=
  s.objx.any (fun e => decide (e.2.order < (s.ox n).order) && !e.2.todo.isEmpty && moveQueue s e.1 == moveQueue s n &&
    nextDie s e.1 == nextDie s n) ||
  decide (32 ≤ ((s.fab.outstanding ++ s.fab.held.map (·.req)).filter (fun r => match r.serves with
    | some (.tile o _) => some r.unit == (nextDie s n).map (0x2000 + ·) && moveQueue s o == moveQueue s n
    | _ => false)).length)

/-- Is a tile of an object's operation in flight to or from another chip? -/
def tilesOpen (s : State) (n : Nat) : Bool := jobOpen s (fun j => match j with
  | .tile o _ => o == n
  | _ => false)

/-- Issues one tile of an object's operation, checked by R23 as it is issued (R237, R258). Its dirty bits: a write-back
clears the source's as it issues the read (R243); a copy of the working copy takes its source tile's, a copy of the backing
copy none (R242). -/
def copyTile (s : State) (n t : Nat) : State :=
  let w := s.obj n
  let seat := LObj.SEAT.get w
  let (src, dst, back) := opEnds s n
  let k := keyOf s (src + t * 16384)
  let d := keyOf s (dst + t * 16384)
  let st := tileStatus s seat (src + t * 16384) (dst + t * 16384)
  if st = St.uncorr then failTile (noteBad s k 16384 4 seat none) n st
  else if st ≠ St.ok then failTile (s.noteWindow seat st) n st
  else
    let wb := decide ((s.ox n).op ≥ 3)
    let dirty := !back && decide (k < sramBase) && Tab.get s.dirty false (k / 16384)
    let s := if wb && tracked w then { s with dirty := Tab.set s.dirty false (k / 16384) false } else s
    let s := moveTile s (.tile n t) (4, 3 * moveDie k d + moveQueue s n) seat (src + t * 16384) (dst + t * 16384)
    if farAddr s (src + t * 16384) || farAddr s (dst + t * 16384) then s
    else tileDone (if !wb && d < sramBase then { s with dirty := Tab.set s.dirty false (d / 16384) dirty } else s) n

/-- The next tile of an object's operation is issued, in ascending order (R244), unless it must wait in its move queue or for room
in a deferral buffer (R68). -/
def copyNext (s : State) (n : Nat) : State :=
  match (s.ox n).todo with
  | [] => s
  | (t, k) :: rest =>
    let d := keyOf s ((opEnds s n).2.1 + t * 16384)
    if queueWaits s n then s
    else if moverWaits s d 16384 then blockMover s d 16384
    else copyTile (s.updOx n (fun x => { x with todo := if k ≤ 1 then rest else (t + 1, k - 1) :: rest })) n t

def copyTimes (n : Nat) : Nat → State → State
  | 0, s => s
  | k + 1, s => copyTimes n k (copyNext s n)

/-- The tiles of an operation still to copy are issued, as far as its queue lets them. -/
def copyRest (s : State) (n : Nat) : State := copyTimes n (sumNat ((s.ox n).todo.map (·.2))) s

/-- One tile of each object's operation in progress (R244). -/
def placeWork (s : State) : State :=
  ((s.objx.filter (fun e => !e.2.todo.isEmpty)).map (·.1)).foldl copyNext s

/-- Switches WORK to the new range; frees the old one unless it is the backing copy or stays charged (R235, R240). -/
def moveSwitch (s : State) (n : Nat) (keepOld : Bool) : State :=
  let w := s.obj n
  let x := s.ox n
  let old := LObj.WORK.get w
  let ot := LObj.WTIER.get w
  let tiles := LObj.TILES.get w
  let isBack := LObj.BTIER.get w != 0 && LObj.BACK.get w == old
  let s := s.updObj n [(LObj.WORK, x.target), (LObj.WTIER, tierOf s x.target)]
  let s := if isBack then s
    else if keepOld then s.updOx n (fun y => { y with oldRanges := y.oldRanges ++ [(old, tiles)] })
    else if LObj.KIND.get w = 5 then s
    else unchargeTiles s n (LObj.SEAT.get w) ot tiles
  endOp s n St.ok

/-- Gives up a MOVE: the new range is freed, the old working copy stays (R237). -/
def moveFail (s : State) (n st : Nat) : State :=
  let w := s.obj n
  let s := if LObj.KIND.get w = 5 then s
    else unchargeTiles s n (LObj.SEAT.get w) (tierOf s (s.ox n).target) (LObj.TILES.get w)
  endOp s n st

/-- The tiles that a FLUSH or DROP writes back: those dirty at its application, in ascending order; the clean ones are
counted (R243). -/
def writeBack (s : State) (n : Nat) : State :=
  let w := s.obj n
  let dirty := dirtyTiles s n
  let todo := if tracked w then dirty.map (fun t => (t, 1)) else [(0, LObj.TILES.get w)]
  let s := if tracked w then s.countDev dcDropClean (LObj.TILES.get w - dirty.length) else s
  (s.updObj n [(LObj.DONE, 0)]).updOx n (fun x => { x with todo := todo })

/-- Clears the dirty bits of a range of T1 or T2. -/
def clearDirty (s : State) (key tiles : Nat) : State :=
  { s with dirty := s.dirty.filter (fun e => !(decide (key / 16384 ≤ e.1) && decide (e.1 < key / 16384 + tiles))) }

/-- The end of a DROP that succeeded (R235, R243). -/
def dropEnd (s : State) (n : Nat) : State :=
  let w := s.obj n
  let s := unchargeTiles s n (LObj.SEAT.get w) (LObj.WTIER.get w) (LObj.TILES.get w)
  let s := s.updObj n [(LObj.WORK, LObj.BACK.get w), (LObj.WTIER, LObj.BTIER.get w)]
  let s := if LObj.BTIER.get w = 1 || LObj.BTIER.get w = 2 then clearDirty s (keyOf s (LObj.BACK.get w)) (LObj.TILES.get w) else s
  endOp s n St.ok

/-! ## The operations (R235) -/

/-- Frees the old ranges that R240 has kept. -/
def freeKept (s : State) (n : Nat) : State :=
  ((s.ox n).oldRanges.foldl (fun s r => unchargeTiles s n (LObj.SEAT.get (s.obj n)) (tierOf s r.1) r.2) s).updOx n
    (fun x => { x with oldRanges := [] })

/-- Notes the operation's notification, its place in the move queues and when its first tile is given up. -/
def startOp (s : State) (n op : Nat) (c : Cmd) : State :=
  let m := s.bank.nextMove
  let s := { s with bank := { s.bank with nextMove := m + 1 } }
  s.updOx n (fun x => { x with
    op := op, notify := LPlace.NOTIFY.on c.body, vector := LPlace.VECTOR.get c.body, pass := 0, marks := [], failed := 0,
    waiting := [], todo := [], due := now s + tierTimeout s, order := m })

/-- CREATE (R235, R242). -/
def placeCreate (s : State) (c : Cmd) : State × Nat :=
  let w := c.body
  let n := LPlace.OBJECT.get w
  let kind := LPlace.KIND.get w
  let tiles := LPlace.TILES.get w
  let shared := LPlace.SHARED.on w
  let wt := tierOf s (LPlace.ADDR.get w)
  let bt := if LPlace.BACK_ON.on w then tierOf s (LPlace.BACKADDR.get w) else 0
  let rec0 : BitVec 512 := setAll 0#512 [(LObj.KIND, kind), (LObj.STATE, 1), (LObj.SEAT, c.seat),
    (LObj.BINDING, LPlace.BINDING.get w), (LObj.BOUND, LPlace.BOUND.get w), (LObj.SHARED, LPlace.SHARED.get w),
    (LObj.WTIER, wt), (LObj.BTIER, bt), (LObj.TILES, tiles), (LObj.WORK, LPlace.ADDR.get w),
    (LObj.BACK, if bt = 0 then 0 else LPlace.BACKADDR.get w)]
  let charged : Except Nat State :=
    if kind = 5 then .ok (s.setObj n rec0)
    else
      match charge (s.setObj n rec0) n c.seat wt tiles shared with
      | .error st => .error st
      | .ok s => if bt = 0 then .ok s else charge s n c.seat bt tiles shared
  match charged with
  | .error st => ((if st = St.quota then s.countSeat c.seat 0x308 1 else s), st)
  | .ok s =>
    let s := startOp s n 1 c
    if LPlace.FILL.on w then ((s.updObj n [(LObj.STATE, 2)]).updOx n (fun x => { x with todo := [(0, tiles)] }), St.ok)
    else
      let s := if wt = 1 || wt = 2 then clearDirty s (keyOf s (LPlace.ADDR.get w)) tiles else s
      (endOp s n St.ok, St.ok)

/-- MOVE: the first pass copies every tile from now on (R235, R241): of the backing copy where that is the working copy or
the object is reloaded (R473). -/
def placeMove (s : State) (c : Cmd) : State × Nat :=
  let n := LPlace.OBJECT.get c.body
  let w := s.obj n
  let a := LPlace.ADDR.get c.body
  let charged := if LObj.KIND.get w = 5 then .ok s
    else charge s n (LObj.SEAT.get w) (tierOf s a) (LObj.TILES.get w) (LObj.SHARED.on w)
  match charged with
  | .error st => ((if st = St.quota then s.countSeat c.seat 0x308 1 else s), st)
  | .ok s =>
    let s := (startOp s n 2 c).updOx n (fun x => { x with
      target := a, pass := 1, todo := [(0, LObj.TILES.get w)],
      fromBack := LObj.BTIER.get w != 0 && (LObj.BACK.get w == LObj.WORK.get w || reloads s n) })
    (s.updObj n [(LObj.STATE, 2), (LObj.DONE, 0)], St.ok)

/-- FLUSH (R243). -/
def placeFlush (s : State) (c : Cmd) : State × Nat :=
  let n := LPlace.OBJECT.get c.body
  let s := startOp s n 3 c
  if LObj.WORK.get (s.obj n) = LObj.BACK.get (s.obj n) then (endOp s n St.ok, St.ok)
  else (writeBack (s.updObj n [(LObj.STATE, 3)]) n, St.ok)

/-- DROP (R243). -/
def placeDrop (s : State) (c : Cmd) : State × Nat :=
  let n := LPlace.OBJECT.get c.body
  let s := startOp s n 4 c
  if LObj.WORK.get (s.obj n) = LObj.BACK.get (s.obj n) then (endOp s n St.ok, St.ok)
  else
    let clean := (dirtyTiles s n).isEmpty && tracked (s.obj n)
    let s := writeBack (s.updObj n [(LObj.STATE, 4)]) n
    if clean then (dropEnd s n, St.ok) else (s, St.ok)

/-- DESTROY: every range is freed and the record cleared; its end is notified (R235, R237). -/
def placeDestroy (s : State) (c : Cmd) : State :=
  let n := LPlace.OBJECT.get c.body
  let w := s.obj n
  let seat := LObj.SEAT.get w
  let t := LObj.TILES.get w
  let s := if LObj.KIND.get w = 5 then s else unchargeTiles s n seat (LObj.WTIER.get w) t
  let s := if LObj.BTIER.get w = 0 || LObj.WORK.get w = LObj.BACK.get w then s
    else unchargeTiles s n seat (LObj.BTIER.get w) t
  let s := ((freeKept s n).setObj n 0#512).setOx n ObjX.reset
  if LPlace.NOTIFY.on c.body then raise s seat (LPlace.VECTOR.get c.body) 32 else s

/-- PLACE (R234 to R237). -/
def opPlace : CmdOp := fun c s =>
  let st := placeStatus s c
  if st ≠ St.ok then (s, Rsp.of st)
  else
    let (s, st) := match LPlace.OP.get c.body with
      | 1 => placeCreate s c
      | 2 => placeMove s c
      | 3 => placeFlush s c
      | 4 => placeDrop s c
      | _ => (placeDestroy s c, St.ok)
    (s, Rsp.of st)

/-! ## Passes and ends (R237, R240, R241) -/

/-- The binding that keeps a WEIGHT object in use. -/
def useBind (s : State) (n : Nat) : Nat := LObj.BINDING.get (s.obj n)

/-- The end of a pass of a MOVE: its last tiles are copied. -/
def movePassEnd (s : State) (n : Nat) : State :=
  let s := copyRest s n
  let x := s.ox n
  if !x.todo.isEmpty || tilesOpen s n then s
  else if x.failed ≠ 0 then moveFail s n x.failed
  else if LObj.KIND.get (s.obj n) = 1 && inUse s n then
    (if inFlight s (useBind s n) then s.updOx n (fun y => { y with switchWait := true }) else moveSwitch s n true)
  else if x.marks.isEmpty || x.pass ≥ 5 then moveSwitch s n false
  else s.updOx n (fun y => { y with pass := x.pass + 1, marks := [], todo := x.marks.map (fun t => (t, 1)) })

def moving (s : State) (n : Nat) : Bool :=
  LObj.STATE.get (s.obj n) == 2 && (s.ox n).op == 2 && !(s.ox n).switchWait

/-- The end of a CREATE's fill, a FLUSH or a DROP: its last tiles are copied. -/
def placeEnd (s : State) (n : Nat) : State :=
  let s := copyRest s n
  if !(s.ox n).todo.isEmpty || tilesOpen s n then s
  else if (s.ox n).failed ≠ 0 then endOp s n (s.ox n).failed
  else if LObj.STATE.get (s.obj n) = 4 then dropEnd s n
  else endOp s n St.ok

def placing (s : State) (n : Nat) : Bool :=
  (LObj.STATE.get (s.obj n) == 2 && (s.ox n).op == 1) || LObj.STATE.get (s.obj n) == 3 || LObj.STATE.get (s.obj n) == 4

/-- The WEIGHT objects of a binding. -/
def weightObjects (s : State) (b : Nat) : List Nat :=
  (objList s).filter (fun n => LObj.KIND.get (s.obj n) == 1 && LObj.BOUND.on (s.obj n) && useBind s n == b)

/-- The finished copies of a binding's WEIGHT objects switch: at a commit point, or once no turn is in flight (R240). -/
def switchObjects (s : State) (b : Nat) : State :=
  (weightObjects s b).foldl (fun s n => if (s.ox n).switchWait then moveSwitch s n true else s) s

/-- What a commit point of a binding does to its WEIGHT objects: old ranges kept so far are freed, a finished copy
switches (R240). -/
def commitObjects (s : State) (b : Nat) : State := switchObjects ((weightObjects s b).foldl freeKept s) b

/-! ## The rows -/

/-- The body's OP is the row's. -/
def bodyOp (k : Nat) (c : Cmd) : Bool := (c.body.extractLsb' 0 4).toNat == k

def execPlaceCreate (c : Cmd) (s : State) : Host.Outcome State Fault Refusal := cmdRow 0x0010 (bodyOp 1) opPlace c s
def execPlaceMove (c : Cmd) (s : State) : Host.Outcome State Fault Refusal := cmdRow 0x0010 (bodyOp 2) opPlace c s
def execPlaceFlush (c : Cmd) (s : State) : Host.Outcome State Fault Refusal := cmdRow 0x0010 (bodyOp 3) opPlace c s
def execPlaceDrop (c : Cmd) (s : State) : Host.Outcome State Fault Refusal := cmdRow 0x0010 (bodyOp 4) opPlace c s
def execPlaceDestroy (c : Cmd) (s : State) : Host.Outcome State Fault Refusal := cmdRow 0x0010 (bodyOp 5) opPlace c s

/-- MOVE_PASS_END (R241). -/
def execMovePassEnd (obj : Nat) (s : State) : Host.Outcome State Fault Refusal :=
  act .banker (when (fun s => moving s obj) (fun s => movePassEnd s obj)) s

/-- PLACE_OPERATION_END (R237). -/
def execPlaceOperationEnd (obj : Nat) (s : State) : Host.Outcome State Fault Refusal :=
  act .banker (when (fun s => placing s obj) (fun s => placeEnd s obj)) s

end Sys2Proof.Machine
end

