-- ==== Sys2Proof/Machine/Engine.lean ====
section
/-! DEFINITION. Operand forms of the matrix and vector instructions, mould stages and collective steps, and the checks
that BIND and MOULD make of them (R173 to R183, R201 to R205, R219 to R221, R349, R401). -/

namespace Sys2Proof.Machine

/-! ## Matrix instructions (R173, R179 to R183) -/

def scratchBytes : Nat := 0x180000

/-- Bits of an element of a matrix format: 0 FP8, 1 FP4, 2 BF16. -/
def mxBits : Nat → Nat
  | 0 => 8
  | 1 => 4
  | _ => 16

/-- The format pairs of R173. -/
def mxPair (a b : Nat) : Bool := (a == 0 && b == 0) || (a == 1 && b == 1) || (a == 0 && b == 1) || (a == 2 && b == 2)

def mxM (w : BitVec 256) : Nat := 16 * (LMx.MB.get w + 1)
def mxN (w : BitVec 256) : Nat := 16 * (LMx.NB.get w + 1)
def mxBlocks (w : BitVec 256) : Nat := (LMx.MB.get w + 1) * (LMx.NB.get w + 1)
/-- Trees per step, K per step, K. -/
def mxTrees (w : BitVec 256) : Nat := if LMx.FMTA.get w = 1 then 2 else 1
def mxKstep (w : BitVec 256) : Nat := 16 * mxTrees w
def mxK (w : BitVec 256) : Nat := LMx.KS.get w * mxKstep w
/-- Rows of K that a B tile holds (R180). -/
def mxKt (w : BitVec 256) : Nat := 4096 / mxBits (LMx.FMTB.get w)
/-- Bytes of one row of A, and of the whole A region. -/
def mxRowBytes (w : BitVec 256) : Nat := mxK w * mxBits (LMx.FMTA.get w) / 8
def mxABytes (w : BitVec 256) : Nat := (mxM w - 1) * LMx.ASTRIDE.get w * 64 + mxRowBytes w
def mxRing (w : BitVec 256) : Nat × Nat := (LMx.BBASE.get w * 64, LMx.BRING.get w * 16384)

/-- Every check of R183 but the last; `mould n` says whether mould n is loaded. -/
def mxOk (mould : Nat → Bool) (w : BitVec 256) : Bool :=
  let slots := if LMx.WIDE.on w then 512 else 1024
  rsvZero LMx.rsv w && decide (LMx.SLOT0.get w + mxBlocks w ≤ slots) &&
  (if LMx.OP.get w = 1 then
    mxPair (LMx.FMTA.get w) (LMx.FMTB.get w) && decide (1 ≤ LMx.KS.get w) && decide (1 ≤ LMx.ASTRIDE.get w) &&
    decide (LMx.ASTRIDE.get w ≤ 24576) && decide (mxRowBytes w ≤ LMx.ASTRIDE.get w * 64) &&
    (LMx.BBASE.get w % 256 == 0) && decide (1 ≤ LMx.BRING.get w) && decide (LMx.BRING.get w ≤ 96) &&
    decide (LMx.BFIRST.get w < LMx.BRING.get w) &&
    (!LMx.SPRUE.on w || decide (LMx.SENT0.get w + mxBlocks w ≤ 256)) &&
    decide (LMx.ABASE.get w * 64 + mxABytes w ≤ scratchBytes) &&
    decide ((mxRing w).1 + (mxRing w).2 ≤ scratchBytes) &&
    !overlaps (LMx.ABASE.get w * 64) (mxABytes w) (mxRing w).1 (mxRing w).2 &&
    (LMx.MOULD.get w == 0 || mould (LMx.MOULD.get w))
  else
    (LMx.OP.get w == 2 || LMx.OP.get w == 3) &&
    [LMx.FMTA, LMx.FMTB, LMx.INIT, LMx.SPRUE, LMx.FIN, LMx.KS, LMx.SEED, LMx.ASTRIDE, LMx.BBASE, LMx.BRING, LMx.BFIRST,
      LMx.SENT0, LMx.MOULD].all (fun f => f.get w == 0) &&
    decide (LMx.ABASE.get w * 64 + 4 * mxBlocks w ≤ scratchBytes))

/-! ## Vector instructions (R219 to R222) -/

def vxOps : List Nat := [0x01, 0x02, 0x03, 0x04, 0x05, 0x06, 0x07, 0x08, 0x09, 0x0A, 0x0B, 0x0C, 0x0D, 0x0E, 0x0F, 0x10,
  0x11, 0x12, 0x13, 0x14, 0x15, 0x16, 0x18, 0x19]

/-- Bits of an element of a vector format: 0 FP32, 1 BF16, 2 FP8, 3 FP4, 4 a mask bit, 5 KV8, 6 KV4. -/
def vxBits : Nat → Nat
  | 0 => 32
  | 1 => 16
  | 2 => 8
  | 3 => 4
  | 4 => 1
  | 5 => 8
  | 6 => 4
  | _ => 32

/-- Operations that read B. -/
def vxReadsB (op : Nat) : Bool := [0x02, 0x03, 0x04, 0x05, 0x06, 0x07, 0x0E, 0x0F, 0x15, 0x18].contains op

/-- Operations that write one element per row. -/
def vxRowOp (op : Nat) : Bool := [0x10, 0x11, 0x12, 0x13].contains op

/-- The rotary control word (R225): its width D, its rotated width R, PAIR; is it well formed? -/
def rotD (c : Nat) : Nat := c % 512
def rotR (c : Nat) : Nat := c / 512 % 512
def rotPair (c : Nat) : Bool := c / 2 ^ 18 % 2 == 1
def rotOk (c : Nat) : Bool :=
  decide (32 ≤ rotD c) && decide (rotD c ≤ 256) && rotD c % 32 == 0 && decide (2 ≤ rotR c) && decide (rotR c ≤ rotD c) &&
  rotR c % 2 == 0 && decide (c < 2 ^ 19)

/-- Bytes of a row of n elements. -/
def rowBytes (fmt n : Nat) : Nat := cdiv (n * vxBits fmt) 8

/-- Bytes of a record row of MERGE and FINAL (R226). -/
def recBytes (w : BitVec 256) : Nat := 32 + 128 * (LVx.COLS.get w / 32)

/-- Rows of a stream (R219): the first byte, how many rows, their pitch and length in bytes. -/
structure Rows where
  start : Nat
  count : Nat
  pitch : Nat
  len : Nat
  deriving DecidableEq, Repr

/-- First byte and length of each row. -/
def rowRanges (r : Rows) : List (Nat × Nat) := (List.range r.count).map (fun i => (r.start + i * r.pitch, r.len))

/-- Do two streams share a byte? For each row of the one, the first row of the other that ends above it is tried. -/
def rowsMeet (a b : Rows) : Bool :=
  (List.range a.count).any (fun i =>
    let x := a.start + i * a.pitch
    let j := if x < b.start + b.len then 0 else (x - b.start - b.len) / b.pitch + 1
    decide (j < b.count) && decide (b.start + j * b.pitch < x + a.len) && decide (0 < a.len) && decide (0 < b.len))

/-- Are two streams the same bytes, row by row? -/
def rowsSame (a b : Rows) : Bool :=
  a.start == b.start && a.count == b.count && a.len == b.len && (decide (a.count ≤ 1) || a.pitch == b.pitch)

/-- Streams A, B (of no row where the operation reads none) and D. -/
def vxA (w : BitVec 256) : Rows :=
  ⟨LVx.AADDR.get w * 64, LVx.ROWS.get w, LVx.APITCH.get w * 64,
    if [0x18, 0x19].contains (LVx.OP.get w) then recBytes w else rowBytes (LVx.FA.get w) (LVx.COLS.get w)⟩

def vxB (w : BitVec 256) : Rows :=
  let op := LVx.OP.get w
  let start := LVx.BADDR.get w * 64
  let tile := fun len => (⟨start, LVx.ROWS.get w, LVx.BPITCH.get w * 64, len⟩ : Rows)
  let one := fun len => (⟨start, 1, 0, len⟩ : Rows)
  if !vxReadsB op then ⟨start, 0, 0, 0⟩
  else if op = 0x15 then one (rotR (LVx.IMM2.get w) / 2 * 8)
  else if op = 0x18 then tile (recBytes w)
  else match LVx.BMODE.get w with
    | 0 => tile (rowBytes (LVx.FB.get w) (LVx.COLS.get w))
    | 1 => one (rowBytes (LVx.FB.get w) (LVx.COLS.get w))
    | 2 => one (rowBytes (LVx.FB.get w) (LVx.ROWS.get w))
    | _ => ⟨start, 0, 0, 0⟩

/-- Scale bytes of one row of a KV8 or KV4 block row, and their pitch (R212). -/
def scaleBytes (fmt n : Nat) : Nat := cdiv n (if fmt = 6 then 16 else 32)
def scaleRow (fmt n : Nat) : Nat := cdiv (scaleBytes fmt n) 64 * 64

/-- D; QUANT writes the scale rows behind the element rows (R212). -/
def vxD (w : BitVec 256) : List Rows :=
  let op := LVx.OP.get w
  let start := LVx.DADDR.get w * 64
  let rows := LVx.ROWS.get w
  let pitch := LVx.DPITCH.get w * 64
  let cols := LVx.COLS.get w
  if vxRowOp op then [⟨start, 1, 0, 4 * rows⟩]
  else if op = 0x18 then [⟨start, rows, pitch, recBytes w⟩]
  else ⟨start, rows, pitch, rowBytes (LVx.FD.get w) cols⟩ ::
    (if op = 0x16 then [⟨start + rows * pitch, rows, scaleRow (LVx.FD.get w) cols, scaleBytes (LVx.FD.get w) cols⟩] else [])

/-- Does a range of the cluster's span lie in the spaces of R219 for local core k: its scratchpad, its accumulator memory,
the cluster memory and the sprue buffer that follows it? -/
def inSpaces (k lo len : Nat) : Bool :=
  let inside := fun (a e : Nat) => decide (a ≤ lo) && decide (lo + len ≤ e)
  inside (k * 0x200000) (k * 0x200000 + scratchBytes) ||
  inside (0x1000000 + k * 0x100000) (if k = 7 then 0x2400000 else 0x1100000 + k * 0x100000) || inside 0x1800000 0x2400000

/-- The form checks of R221 for local core k: OP, formats, RSV fields, spaces, pitches, overlap. -/
def vxForm (k : Nat) (w : BitVec 256) : Bool :=
  let op := LVx.OP.get w
  let fa := LVx.FA.get w
  let fb := LVx.FB.get w
  let fd := LVx.FD.get w
  let cols := LVx.COLS.get w
  let rows := LVx.ROWS.get w
  let record := op == 0x18 || op == 0x19
  let clear := fun (r : Rows) => (vxD w).all (fun d => !rowsMeet d r) || ((vxD w).length == 1 && (vxD w).all (rowsSame r))
  vxOps.contains op && decide (fa ≤ 3) && decide (fb ≤ 4) && (op == 0x0F) == (fb == 4) &&
  (if op = 0x01 then decide (fd ≤ 3) else if op = 0x16 then fd == 5 || fd == 6 else fd == 0) &&
  rsvZero LVx.rsv w && decide (1 ≤ rows) && decide (rows ≤ 4096) && decide (1 ≤ cols) &&
  (op != 0x15 || rotOk (LVx.IMM2.get w)) && (!record || cols % 32 == 0) &&
  ((vxA w :: vxB w :: vxD w).flatMap rowRanges).all (fun r => inSpaces k r.1 r.2) &&
  decide ((vxA w).len ≤ LVx.APITCH.get w * 64) &&
  (!(vxReadsB op && op != 0x15 && (op == 0x18 || LVx.BMODE.get w == 0)) || decide ((vxB w).len ≤ LVx.BPITCH.get w * 64)) &&
  (vxRowOp op || decide ((if op = 0x18 then recBytes w else rowBytes fd cols) ≤ LVx.DPITCH.get w * 64)) &&
  clear (vxA w) && clear (vxB w)

/-- Device address of a relative offset in a cluster's span. -/
def spanAddr (s : State) (cluster off : Nat) : Nat := ownChip s * 2 ^ 40 + sramBase + cluster * 0x4000000 + off

/-- The window check of R221 for a seat. -/
def vxWindows (s : State) (seat cluster : Nat) (w : BitVec 256) : Bool :=
  let ok := fun write (l : List Rows) => (l.flatMap rowRanges).all (fun r => inWindows s seat write (spanAddr s cluster r.1) r.2)
  ok false [vxA w, vxB w] && ok true (vxD w)

/-! ## Moulds (R201 to R205) -/

def mouldHead (m : BitVec 1152) : BitVec 128 := m.extractLsb' 0 128
def mouldNumber (m : BitVec 1152) : Nat := LMouldHd.NUMBER.get (mouldHead m)
/-- The stages in list order. -/
def mouldStages (m : BitVec 1152) : List (BitVec 128) :=
  (List.range (LMouldHd.NSTAGE.get (mouldHead m))).map (fun i => m.extractLsb' (128 + 128 * i) 128)

def stKind (w : BitVec 128) : Nat := LStg.KIND.get w
def isPrologue (w : BitVec 128) : Bool := stKind w == 1 || stKind w == 2 || stKind w == 3
def isRowStage (w : BitVec 128) : Bool := stKind w == 0x10 || stKind w == 0x11

/-- Are the fields that a stage's kind does not use 0? The list names those it uses. -/
def onlyUses (w : BitVec 128) (used : List Fld) : Bool :=
  [LStg.SUB, LStg.FMT, LStg.BASE, LStg.PITCH, LStg.P0, LStg.P1].all (fun f => used.contains f || f.get w == 0)

/-- A stage entry by the rows of R202 and R203. -/
def stageOk (w : BitVec 128) : Bool :=
  let sub := LStg.SUB.get w
  rsvZero LStg.rsv w && decide (LStg.FMT.get w ≤ 1) &&
  match stKind w with
  | 0x01 => onlyUses w [LStg.SUB, LStg.BASE]
  | 0x02 => onlyUses w [LStg.P0]
  | 0x03 => onlyUses w [LStg.P0, LStg.BASE] && decide (LStg.P0.get w < 2 ^ 19)
  | 0x08 => onlyUses w [LStg.BASE, LStg.FMT]
  | 0x09 => (sub == 0 && onlyUses w [LStg.P0]) || ((sub == 1 || sub == 2) && onlyUses w [LStg.SUB, LStg.BASE])
  | 0x0A => (decide (sub ≤ 2) && onlyUses w [LStg.SUB]) || (sub == 3 && onlyUses w [LStg.SUB, LStg.P0, LStg.P1])
  | 0x0B => onlyUses w [LStg.P0] && decide (LStg.P0.get w < 1024)
  | 0x0C => onlyUses w [LStg.BASE, LStg.PITCH, LStg.FMT]
  | 0x0D => onlyUses w [LStg.P0, LStg.BASE] && decide (LStg.P0.get w < 2 ^ 19)
  | 0x10 => onlyUses w []
  | 0x11 => onlyUses w [LStg.BASE]
  | 0x18 => decide (sub ≤ 3) && onlyUses w [LStg.SUB]
  | 0x19 => (sub == 0 && onlyUses w [LStg.BASE, LStg.PITCH]) ||
      (sub == 1 && onlyUses w [LStg.SUB, LStg.P0, LStg.PITCH] && LStg.P0.get w % 64 == 0) ||
      ((sub == 2 || sub == 3) && onlyUses w [LStg.SUB, LStg.P0, LStg.P1] && decide (LStg.P0.get w < 2 ^ 13) &&
        decide (LStg.P1.get w < 512))
  | _ => false

/-- The checks of R204. -/
def mouldStatus (r : BitVec 8192) (m : BitVec 1152) : Nat :=
  let h := mouldHead m
  let st := mouldStages m
  let epi := st.filter (fun w => !isPrologue w)
  let count := fun (p : BitVec 128 → Bool) => (st.filter p).length
  let hasWrite := count (fun w => stKind w == 0x19)
  let rowStage := st.any isRowStage
  let afterQ := (epi.dropWhile (fun w => stKind w != 0x18)).drop 1
  let riser := epi.any (fun w => stKind w == 0x19 && decide (LStg.SUB.get w ≥ 2))
  let kv := if LBindRec.KVFMT.on r then 3 else 2
  firstFail [
    (!rsvZero LMouldHd.rsv h || decide (LMouldHd.NSTAGE.get h < 1) || decide (LMouldHd.NSTAGE.get h > 8) ||
      mouldNumber m == 0 || LMouldHd.ROWN.get h % 16 != 0 || !st.all stageOk, St.mould),
    (rowStage && (LMouldHd.ROWN.get h == 0 || decide (LMouldHd.ROWN.get h > 1024)), St.rowsplit),
    (decide (count (fun w => stKind w == 0x18) > 1) || decide (hasWrite > 1) ||
      decide (count (fun w => stKind w == 1 && LStg.SUB.get w % 2 == 0) > 1) ||
      decide (count (fun w => stKind w == 1 && LStg.SUB.get w % 2 == 1) > 1) ||
      (epi.any (fun w => stKind w == 0x18) && !(afterQ.any (fun w => stKind w == 0x19))) ||
      (hasWrite == 1 && (epi.getLast?.map stKind) != some 0x19) ||
      (epi.any (fun w => stKind w == 0x18) && afterQ.length != 1) ||
      (riser && !(epi.any (fun w => stKind w == 0x18 && LStg.SUB.get w == kv))) ||
      (!rowStage && (LMouldHd.ROWN.get h != 0)) ||
      (!(st.any (fun w => stKind w == 0x10)) && LMouldHd.EPS.get h != 0), St.mould)]

/-- The bytes per element that a QUANT leaves, in bits; FP32 without one. -/
def quantBits : Option Nat → Nat
  | none => 32
  | some 0 => 16
  | some 1 => 8
  | some 2 => 8
  | _ => 4

/-- SUB of the mould's QUANT stage. -/
def mouldQuant (m : BitVec 1152) : Option Nat :=
  ((mouldStages m).find? (fun w => stKind w == 0x18)).map (fun w => LStg.SUB.get w)

/-- Bytes that a WRITE of an M x N output takes from its destination on (R212). -/
def writeBytes (q : Option Nat) (mRows n pitch : Nat) : Nat :=
  match q with
  | some 2 => mRows * pitch * 64 + mRows * (cdiv (cdiv n 32) 64 * 64)
  | some 3 => mRows * pitch * 64 + mRows * (cdiv (cdiv n 16) 64 * 64)
  | q => (mRows - 1) * pitch * 64 + n * quantBits q / 8

/-- A DEQ stage's block. -/
def deqBlock (w : BitVec 128) : Nat := if LStg.SUB.get w / 4 % 2 = 0 then 16 else 32

/-- Scratchpad ranges that a stage reads or writes for an instruction. -/
def stageRanges (q : Option Nat) (x : BitVec 256) (w : BitVec 128) : List (Nat × Nat) :=
  let base := LStg.BASE.get w * 64
  let mRows := mxM x
  let n := mxN x
  let f := if LStg.FMT.get w = 1 then 2 else 4
  match stKind w with
  | 0x01 => [(base, mxK x / deqBlock w * (if LStg.SUB.get w % 2 = 0 then mRows else n))]
  | 0x03 | 0x0D => [(base, rotR (LStg.P0.get w) / 2 * 8)]
  | 0x08 => [(base, n * f)]
  | 0x09 => if LStg.SUB.get w = 1 then [(base, 4 * n)] else if LStg.SUB.get w = 2 then [(base, 4 * mRows)] else []
  | 0x0C => [(base, (mRows - 1) * LStg.PITCH.get w * 64 + n * f)]
  | 0x11 => [(base, 4 * mRows)]
  | 0x19 => if LStg.SUB.get w = 0 then [(base, writeBytes q mRows n (LStg.PITCH.get w))] else []
  | _ => []

/-- Does a WRITE to cluster memory, of an instruction on local core k, overlap the instruction's A region or B ring (R203, R205)? -/
def spanMeets (k : Nat) (q : Option Nat) (x : BitVec 256) (w : BitVec 128) : Bool :=
  stKind w == 0x19 && LStg.SUB.get w == 1 &&
  [(LMx.ABASE.get x * 64, mxABytes x), mxRing x].any (fun r =>
    overlaps (LStg.P0.get w) (writeBytes q (mxM x) (mxN x) (LStg.PITCH.get w)) (k * 0x200000 + r.1) r.2)

/-- The checks of R205 for one instruction, on local core k, that names the mould. -/
def mouldUse (m : BitVec 1152) (y : Nat × BitVec 256) : Nat :=
  let x := y.2
  let st := mouldStages m
  let q := mouldQuant m
  let ranges := st.flatMap (stageRanges q x)
  let k := mxK x
  let n := mxN x
  firstFail [
    (st.any isRowStage && LMouldHd.ROWN.get (mouldHead m) != n, St.rowsplit),
    (ranges.any (fun r => decide (r.1 + r.2 > scratchBytes) ||
        overlaps r.1 r.2 (LMx.ABASE.get x * 64) (mxABytes x) || overlaps r.1 r.2 (mxRing x).1 (mxRing x).2) ||
      st.any (fun w => (stKind w == 0x0B && decide (LStg.P0.get w + mxBlocks x > 1024)) || spanMeets y.1 q x w), St.mxinstr),
    (st.any (fun w => (stKind w == 3 && k % rotD (LStg.P0.get w) != 0) || (stKind w == 0x0D && n % rotD (LStg.P0.get w) != 0) ||
      (stKind w == 0x19 && decide (LStg.SUB.get w ≥ 2) && (LStg.P1.get w == 0 || n % LStg.P1.get w != 0))), St.mould),
    ((q == some 2 || q == some 1) && n % 32 != 0, St.mould),
    (q == some 3 && n % 16 != 0, St.mould),
    (st.any (fun w => stKind w == 1 && k % deqBlock w != 0), St.mould)]

/-! ## The layer program (R401) -/

/-- Record i of a layer program. -/
def lpRecord (s : State) (r : BitVec 8192) (i : Nat) : BitVec 1024 :=
  BitVec.ofNat 1024 (viewNat s (keyOf s (LBindRec.LPROG.get r) + 128 * i) 128)

def lpKind (w : BitVec 1024) : Nat := (w.extractLsb' 512 3).toNat
def lpCluster (w : BitVec 1024) : Nat := (w.extractLsb' 515 5).toNat
def lpCore (w : BitVec 1024) : Nat := (w.extractLsb' 520 3).toNat
def lpLayer (w : BitVec 1024) : Nat := (w.extractLsb' 523 8).toNat
def lpPath (w : BitVec 1024) : Nat := (w.extractLsb' 531 2).toNat
/-- TILES and RING of a tile move's body. -/
def lpTiles (w : BitVec 1024) : Nat := (w.extractLsb' 128 32).toNat
def lpRing (w : BitVec 1024) : Bool := w.getLsbD 160
def lpBody256 (w : BitVec 1024) : BitVec 256 := w.extractLsb' 0 256
def lpBody512 (w : BitVec 1024) : BitVec 512 := w.extractLsb' 0 512

/-- Bits of a record's body that its KIND uses; the rest is padding of zeros. -/
def lpBodyBits : Nat → Nat
  | 1 => 256
  | 2 => 256
  | 3 => 512
  | 4 => 161
  | 5 => 288
  | _ => 96

def lpRecords (s : State) (r : BitVec 8192) : List (BitVec 1024) := (List.range (LBindRec.LPLEN.get r)).map (lpRecord s r)

/-- Does a layer-program record of a PATH field run on the turn's path (R401)? -/
def onPath (s : State) (b path : Nat) : Bool := path == 0 || path == 1 + LTurnBlk.PATH.get (s.bind b).blk

/-- The form of a record that R402 checks first: KIND, LAYER, padding and RSV bits. -/
def lpForm (r : BitVec 8192) (w : BitVec 1024) : Bool :=
  decide (1 ≤ lpKind w) && decide (lpKind w ≤ 6) && (lpLayer w == 255 || decide (lpLayer w < LBindRec.LAYERS.get r)) &&
  decide (lpPath w ≤ 2) && w >>> 533 == 0#1024 && (w.extractLsb' 0 512) >>> lpBodyBits (lpKind w) == 0#512 &&
  (lpKind w != 6 || (w.extractLsb' 13 19) == 0#19)

/-! ## Collective steps (R349) -/

/-- Members of the slice on an axis; 1 outside a slice. -/
def axisMembers (s : State) (a : Nat) : Nat :=
  if LSliceSt.STATE.get s.fab.slice = 0 then 1
  else match a with
    | 0 => LSliceSt.NX.get s.fab.slice
    | 1 => LSliceSt.NY.get s.fab.slice
    | _ => LSliceSt.NZ.get s.fab.slice

/-- R349's checks of a step on the engine of a base die. -/
def collOk (s : State) (engine : Nat) (w : BitVec 512) : Bool :=
  let op := LColl.OP.get w
  let ring := decide (op ≥ 3)
  decide (1 ≤ op) && decide (op ≤ 5) && rsvZero LColl.rsv w &&
  (!ring || (decide (LColl.AXIS.get w ≤ 2) && engine == 1 + LColl.AXIS.get w &&
    LColl.UNITS.get w % (2 * axisMembers s (LColl.AXIS.get w)) == 0))

end Sys2Proof.Machine
end

