-- ==== Sys2Proof/Machine/Turn.lean ====
section
/-! DEFINITION. The execution slot, a turn's Gather, Layers and Sample, its abandonment, weight re-reads and the lead-in
(02_turn.md; R207, R471, R472). -/

namespace Sys2Proof.Machine

/-! ## A turn's rows (R44, R45, R150) -/

def entQ (e : TEnt) : Nat := LLenEnt.QTOK.get e.len
def entRow (e : TEnt) : Nat := LLenEnt.ROW.get e.len
def entK (e : TEnt) : Nat := LLenEnt.KVLEN.get e.len
def entDec (e : TEnt) : Bool := LLenEnt.KIND.get e.len != 1
def entTree (e : TEnt) : Bool := LLenEnt.KIND.get e.len == 3

/-- Logical position of an entry's row i: node i of a tree lies at its depth. -/
def logicalPos (e : TEnt) (i : Nat) : Nat := if entTree e then entK e + (nodeDepths e.draft).getD i 0 else entK e + i

/-- Rows of an entry that are sampled (R38, R44): every row of a decoding entry, the last of a completed prompt. -/
def sampledRows (e : TEnt) : List Nat :=
  if entDec e then List.range (entQ e) else if LLenEnt.SAMPLE.on e.len then [entQ e - 1] else []

/-- The entry that holds a token row of the turn. -/
def rowEntry (l : List TEnt) (m : Nat) : Option TEnt := l.find? (fun e => decide (entRow e ≤ m) && decide (m < entRow e + entQ e))

/-- Sampled row i of the turn: number of its entry, row in the entry (R310). -/
def sampledRow (l : List TEnt) (i : Nat) : Option (Nat × Nat) :=
  ((List.range l.length).flatMap (fun k => match l[k]? with
    | some e => (sampledRows e).map (fun r => (k, r))
    | none => []))[i]?

/-- Marks the entry of a slot in a binding's turn. -/
def failSlot (s : State) (b slot detail : Nat) : State :=
  s.updBind b (fun x => { x with turn := x.turn.map (fun e => if entSlot e == slot then e.fail detail else e) })

def setPhase (s : State) (b : Nat) (l : List (Fld × Nat)) : State := s.updBind b (fun x => { x with blk := setAll x.blk l })

/-- LAYER takes the number of a layer whose first weight-product work begins, 0xFF after every other; work of an earlier
layer leaves it (R32). -/
def noteLayer (s : State) (b l : Nat) : State :=
  if LTurnBlk.LAYER.get (s.bind b).blk < l then setPhase s b [(LTurnBlk.LAYER, l)] else s

/-! ## Mirror duplication (R377) -/

/-- Seats whose pair is ACTIVE with this device as primary. -/
def primarySeats (s : State) : List Nat :=
  (s.mirrors.filter (fun m => LMirSt.STATE.get m.2.state == 3 && LMirSt.ROLE.get m.2.state == 0)).map (·.1)

/-- Bytes of an item in the mirror class (log entry 21). -/
def itemBytes : JournalItem → Nat
  | .riser _ _ _ bs => bs.length
  | .entry _ _ => 128
  | .runRecord _ _ _ _ => 16
  | .index _ _ => 32
  | .stake _ _ => 64
  | .shadow _ bs => bs.length
  | .flush _ _ _ => 0
  | .turnBlock _ _ => 24

/-- A MESSAGE of so many bytes to a seat's partner, in the mirror class; its payload counts under MIRROR_BYTES (R382; log
entry 96). -/
def mirrorMessage (s : State) (n bytes : Nat) : State :=
  let s := s.setMir n { s.mir n with ctr := ctrAdd (s.mir n).ctr 0x020 (64 * cdiv bytes 64) }
  message s (LMirSt.PEER.get (s.mir n).state) 1 n bytes

/-- Sends items to a seat's partner. -/
def sendJournal (s : State) (n : Nat) (items : List JournalItem) : State :=
  if items.isEmpty then s
  else mirrorMessage (s.emit (.journal (LMirSt.PEER.get (s.mir n).state) n items)) n (sumNat (items.map itemBytes))

/-- Tells a seat's partner of a seal, its acknowledgement or the configuration to compare: 64 bytes (R376, R378). -/
def tellMirror (s : State) (n code arg : Nat) (w : BitVec 256) : State :=
  mirrorMessage (s.emit (.mirror (LMirSt.PEER.get (s.mir n).state) n code arg w)) n 64

/-- A write into a riser slot of a mirrored seat goes to the partner as it is performed. -/
def dupRiser (s : State) (slot k n : Nat) : State :=
  if (primarySeats s).contains (rSeat s slot) then sendJournal s (rSeat s slot) 
    [.riser (rBind s slot) (bTurn (s.bind (rBind s slot)) + 1) k (readBytes s k n)] else s

/-- The binding that holds the slot, if its turn is in one phase. -/
def holderIn (s : State) (phase : Nat) : Option Nat :=
  s.slot.holder.filter (fun b => bPhase (s.bind b) == phase && !bFaulted (s.bind b))

/-! ## Settling what waits for a point of effect (R54, R113, R264) -/

/-- Page-table changes, lengths and increments that wait for the commit point (R113, R138). -/
def applyDue (s : State) (b : Nat) : State :=
  (bindSlots s b).foldl (fun s n =>
    let x := s.rx n
    let s := x.ptDue.foldl (fun s e => ptWrite s (s.req n) e.1 e.2) s
    let s := x.refDue.foldl (fun s r => refAdd s b r.1 r.2 1) s
    let s := match x.lenDue with
      | some v => s.updReq n [(LEnt.LEN, v)]
      | none => s
    let s := s.updRx n (fun y => { y with ptDue := [], lenDue := none, refDue := [] })
    if x.lenDue.isSome then ptHeader s n else s) s

/-- Takes the waiting ends and pauses of a binding that has no turn in flight. -/
def takeWaiting (s : State) (b : Nat) : State :=
  (bindSlots s b).foldl (fun s n =>
    let x := s.rx n
    if !rActive s n then s
    else if x.cancelDue ≠ 0 then endNow s n 3 x.cancelDue
    else if dueFault s n ≠ 0 then endNow s n 4 (dueFault s n)
    else if x.expireDue ≠ 0 then endNow s n 5 x.expireDue
    else match x.pauseDue with
      | some a => pauseEffect (parkSwitch s n) n a
      | none => resumeSwitch (parkSwitch s n) n) s

/-- Gives back what a composition reserved beyond the held set: borrowed sets and runs (R121). -/
def dropReserved (s : State) (b : Nat) (e : TEnt) : State :=
  let s := s.updRx (entSlot e) (fun x => { x with ends := x.ends ++ e.runs.map (fun r => (r.2.1, r.2.2)) })
  let s := (e.sets.drop 1).foldl (fun s x => freeSet s (rSeat s (entSlot e)) x.2) s
  e.runs.foldl (fun s r => unreserve s b r.2.1 r.2.2) s

/-- The turn in flight enters ABANDON and the binding becomes FAULTED; what waited takes effect at once (R54). -/
def abandonLocal (s : State) (b : Nat) : State :=
  let x := s.bind b
  if !inFlight s b then s
  else
    let ents := x.turn
    let s := s.updBind b (fun y => { y with
      blk := setAll y.blk [(LTurnBlk.PHASE, 6), (LTurnBlk.FAULTED, 1), (LTurnBlk.LAYER, 0)], turn := [], prov := 0,
      waitBarrier := false, seeds := y.seeds.filter (fun c => !ents.any (fun e => entSlot e == c.slot)) })
    let s := ents.foldl (fun s e => dropReserved s b e) s
    let s := if s.slot.holder = some b then { s with slot := { s.slot with holder := none, draining := some b } } else s
    takeWaiting (switchObjects (applyDue (deviceEvent s LEv.FAULTED) b) b) b

/-- The same for a slice binding's device, which tells the barrier (R370, R371): the leader scatters ABANDON, a member
gathers it. -/
def abandonTurn (s : State) (b : Nat) : State :=
  if !inFlight s b then s
  else if !sliceBinding s b then abandonLocal s b
  else
    let turn := bTurn (s.bind b) + 1
    let s := abandonLocal s b
    if isLeader s then
      toKids (setBarrier s b Barrier.reset) (syncRec s 0x11 b [(LSync.ABANDON, 1), (LSync.TURN, turn), (LSync.MEMBERS, 1)]) []
    else barrierArrive s b 1

/-! ## The slot and the lead-in (R35, R36, R43) -/

/-- Discards the lead-in of every binding but one granted on the matrix path (R43). -/
def discardLeadins (s : State) (b : Nat) : State :=
  ((List.range 16).filter (fun n => (s.bind n).leadin)).foldl (fun s n =>
    if n = b && LTurnBlk.PATH.get (s.bind b).blk = 0 then s.updBind n (fun x => { x with leadin := false })
    else (s.updBind n (fun x => { x with leadin := false })).countBind n BC.leadDiscard 1) s

/-- SLOT_GRANT (R35, R36): the winner's Gather begins. -/
def execSlotGrant (s : State) : Host.Outcome State Fault Refusal :=
  act .arith (when (fun s => s.slot.holder.isNone && s.slot.draining.isNone && (slotGrant s).isSome)
    (fun s =>
      match slotGrant s with
      | none => s
      | some (b, h, l) =>
        let s := { s with slot := { s.slot with holder := some b, ptrHigh := h, ptrLow := l, next := none } }
        setPhase ((discardLeadins s b).updBind b (fun x => { x with fetchDue := now s + tierTimeout s })) b
          [(LTurnBlk.PHASE, 2)])) s

/-! ## Gather (R33, R44 to R46, R207, R269) -/

/-- The binding whose entries this device's request table holds: a slice's leader alone has them (R355, R360). -/
def holdsRequests (s : State) (b : Nat) : Bool := !sliceBinding s b || isLeader s

/-- Prompt tokens that an entry takes: first index and count (R270). -/
def promptTake (e : BitVec 1024) (q : Nat) : Nat × Nat := (LEnt.PDONE.get e, q - LEnt.NEXT_ON.get e)

/-- The entry's query tokens; none where a prompt token cannot be read (R23, R269, R471). -/
def queryTokens (s : State) (e : TEnt) : Option (List Nat) :=
  let r := s.req (entSlot e)
  let nxt := if LEnt.NEXT_ON.on r then [LEnt.NEXT.get r] else []
  if entDec e then some (LEnt.NEXT.get r :: e.draft.map (·.1))
  else
    let (i, n) := promptTake r (entQ e)
    let addr := fun k => LEnt.PBASE.get r + 4 * ((i + k) % LEnt.PCAP.get r)
    if (List.range n).any (fun k => !canRead s (LEnt.SEAT.get r) (addr k) 4) then none
    else some (nxt ++ (List.range n).map (fun k => viewNat s (keyOf s (addr k)) 4))

/-- What the unreadable words of an entry's prompt tokens count and log as Gather reads them (R73, R427). -/
def notePrompt (s : State) (b : Nat) (e : TEnt) : State :=
  let r := s.req (entSlot e)
  if entDec e then s
  else
    let (i, n) := promptTake r (entQ e)
    (List.range n).foldl (fun s k =>
      let a := LEnt.PBASE.get r + 4 * ((i + k) % LEnt.PCAP.get r)
      (noteBad s (keyOf s a) 4 0 (LEnt.SEAT.get r) (some b)).noteWindow (LEnt.SEAT.get r) (accessStatus s (LEnt.SEAT.get r) false a 4)) s

/-- The length table and the row-position block of one cluster (R46, R207). The manual does not say what the table's 4 KiB
hold beyond the turn's REQS entries: they keep an earlier turn's (DESIGN CHOICE, log entry 72). -/
def writeTables (s : State) (ents : List TEnt) (cl : Nat) : State :=
  let base := sramBase + cl * 0x4000000
  let words := fun (f : TEnt → Nat → Nat) => (List.range 256).flatMap (fun m => match rowEntry ents m with
    | some e => bytesOf (f e (m - entRow e)) 4
    | none => bytesOf 0 4)
  let s := rawWrite s (base + 0x1FFF000) (ents.flatMap (fun e => bytesOf e.len.toNat 16))
  rawWrite s (base + 0x1F7E800) (words logicalPos ++ words (fun e i => entK e + i))

/-- The tile movers bring the embedding row of every query token into T0 (R33). The manual gives neither the table's address
nor the rows' place: free bytes at free places of T0, outside the areas that the device owns (log entry 38). -/
def embedRows (s : State) : State :=
  ((Config.freeCells s.free).filter (fun e => tierOfOffset e.1 == 0 && !ownedArea s e.1 1)).foldl
    (fun s e => rawWrite s e.1 [e.2]) { s with free := s.free + 1 }

/-- Why the control cores cannot read the binding's layer program for its seat (R20 to R23, R73, R76, R409, R483), or success. -/
def programRead (s : State) (b : Nat) : Nat :=
  let r := (s.bind b).brec
  let a := LBindRec.LPROG.get r
  let n := 128 * LBindRec.LPLEN.get r
  firstFail [(wordsStatus s (s.bind b).seat a n != St.ok, wordsStatus s (s.bind b).seat a n), (true, extStatus s (keyOf s a) n false)]

/-- GATHER_COMPLETE (R33): the tables stand in every cluster, the prompt tokens are read; Layers begins. -/
def gatherDone (s : State) (b : Nat) : State :=
  let s := if holdsRequests s b then
      s.updBind b (fun x => { x with turn := x.turn.map (fun e => match queryTokens s e with
        | some l => { e with toks := l }
        | none => e.fail 1) })
    else s
  let s := if holdsRequests s b then
      ((s.bind b).turn.filter (fun e => e.fault != 0)).foldl (fun s e => notePrompt s b e) s
    else s
  let s := embedRows s
  let s := (List.range 32).foldl (fun s cl => writeTables s (s.bind b).turn cl) { s with
    clusters := [], cores := s.cores.map (fun e => (e.1, { e.2 with moved := 0, done := [] })), fab := { s.fab with collDone := [], placed := [] } }
  setPhase (s.updBind b (fun x => { x with wrote := [] })) b [(LTurnBlk.PHASE, 3)]

/-- Writes of a mirrored seat's last turn of the binding that still wait for their seal hold its Gather (R378). -/
def sealsOpen (s : State) (b : Nat) : Bool := s.mirrors.any (fun m => m.2.sealing.any (fun w => w.binding == b))

/-- The control cores read the layer program for the binding's seat as the turn's Layers begin. No rule says what a program that cannot
be read gives: the turn is abandoned by R54 (DESIGN CHOICE, log entry 107). -/
def execGatherComplete (s : State) : Host.Outcome State Fault Refusal :=
  act .arith (when (fun s => ((holderIn s 2).filter (fun b => !sealsOpen s b)).isSome)
    (fun s => match holderIn s 2 with
      | some b =>
        if programRead s b = St.ok then gatherDone s b
        else abandonTurn (noteBad (s.noteWindow (s.bind b).seat (programRead s b)) (keyOf s (LBindRec.LPROG.get (s.bind b).brec))
          (128 * LBindRec.LPLEN.get (s.bind b).brec) 0 (s.bind b).seat (some b)) b
      | none => s)) s

/-! ## What orders a layer's work (R41, R42, R168, R401) -/

/-- The walk of layer-program records on the turn's path: number and record. -/
def pathRecords (s : State) (b : Nat) : List (Nat × BitVec 1024) :=
  ((List.range (LBindRec.LPLEN.get (s.bind b).brec)).map (fun i => (i, lpRecord s (s.bind b).brec i))).filter
    (fun r => onPath s b (lpPath r.2))

/-- The attention walk of a layer that a cluster performs in this turn. -/
def walkRecord (s : State) (b cl layer : Nat) : Option (BitVec 1024) :=
  ((pathRecords s b).find? (fun r => lpKind r.2 == 6 && lpLayer r.2 == layer && lpCluster r.2 == cl)).map (·.2)

/-- The cluster that walks an entry and KV group (R144). -/
def pairCluster (r : BitVec 8192) (e g : Nat) : Nat := (e * gG r + g) % 32

/-- Has R167 produced every head of every row that a layer's walks of the program produce? -/
def attentionDone (s : State) (b layer : Nat) : Bool :=
  let r := (s.bind b).brec
  let h := gHQ r / gG r
  (List.range (s.bind b).turn.length).all (fun e => (List.range (gG r)).all (fun g =>
    let cl := pairCluster r e g
    (walkRecord s b cl layer).isNone ||
    match (s.bind b).turn[e]? with
    | none => true
    | some t => (List.range (entQ t)).all (fun i => (List.range h).all (fun k =>
        (s.cluster cl).heads.contains (layer, entRow t + i, g * h + k)))))

/-- Weight products of a layer whose records stand behind one of its walks take the attention's output: they wait for all of
it (R42, R168). No rule names the output projection's records: their place behind the walk does (DEDUCED, log entry 78). -/
def projectionWaits (s : State) (b i layer : Nat) : Bool :=
  (pathRecords s b).any (fun r => lpKind r.2 == 6 && lpLayer r.2 == layer && decide (r.1 < i)) && !attentionDone s b layer

/-- Does the layer program give a core any work of a kind, on either path? -/
def listed (s : State) (b c kind : Nat) : Bool :=
  (lpRecords s (s.bind b).brec).any (fun w => lpKind w == kind && lpCluster w * 8 + lpCore w == c)

/-- The record of a kind that a core performs next: the first on the turn's path whose work has not begun (R401). The kinds are the
core's engines, each of which takes its records in array order (log entry 88). -/
def nextRecord (s : State) (b c kind : Nat) : Option (Nat × BitVec 1024) :=
  (pathRecords s b).find? (fun r => lpKind r.2 == kind && lpCluster r.2 * 8 + lpCore r.2 == c && !(s.core c).done.contains r.1)

/-- A core's work on a record has begun. -/
def beginRecord (s : State) (c i : Nat) : State := s.updCore c (fun x => { x with done := x.done ++ [i] })

/-- Is a weight product of this device's cluster still under way on a pip, at an intake or on its way from a pip? `p` says which
clusters. -/
def productsOpen (s : State) (p : Nat → Bool) : Bool :=
  let mine := fun (d : BitVec 256) => LDesc.KIND.get d == 1 && LDesc.ISSUER.get d == ownChip s && p (LDesc.CLUSTER.get d)
  s.pips.any (fun e => (e.2.running && mine e.2.cur.desc) || e.2.queue.any (fun q => mine q.desc)) ||
  s.ingots.any (fun e => e.2.intake.any (fun x => x.via.isNone && mine x.desc) ||
    e.2.recs.any (fun r => LRec.KIND.on r.2.2.2.hdr && r.2.1 == ownChip s && p r.2.2.1))

/-- Has the work of a layer-program record begun in this turn; of an attention walk, is it finished (R167, R401)? -/
def recordBegun (s : State) (b : Nat) (r : Nat × BitVec 1024) : Bool :=
  match lpKind r.2 with
  | 3 => s.fab.collDone.contains r.1
  | 5 => (s.cluster (lpCluster r.2)).products.contains r.1
  | 6 => attentionDone s b (lpLayer r.2)
  | _ => (s.core (lpCluster r.2 * 8 + lpCore r.2)).done.contains r.1

/-- Have all records of the layer program on the turn's path begun? Those of the output projection are for sampled rows alone
(R33). -/
def programBegun (s : State) (b : Nat) : Bool :=
  (pathRecords s b).all (fun r => recordBegun s b r ||
    (lpLayer r.2 == 255 && (s.bind b).turn.all (fun e => (sampledRows e).isEmpty)))

/-! ## Layers and the lead-in -/

/-- PROVISIONAL_COMPOSE (R39): the path that the composition of turn n + 1 would take now. -/
def execProvisionalCompose (b : Nat) (s : State) : Host.Outcome State Fault Refusal :=
  act .banker (when (fun s => composes s b && bPhase (s.bind b) == 3)
    (fun s =>
      let l := (composePasses s b (bTurn (s.bind b) + 2)).forms
      s.updBind b (fun x => { x with prov := if l.isEmpty then 0 else if pipPath x.brec (formTokens l) then 2 else 1 }))) s

/-- The binding whose first weight tiles the lead-in streams (R43): the one R36 would grant, or the holder itself by its
provisional composition; on the matrix path, with lead-in space. -/
def leadTarget (s : State) (b : Nat) : Option Nat :=
  let c := match slotGrant s with
    | some (n, _, _) => if LTurnBlk.PATH.get (s.bind n).blk = 0 then some n else none
    | none => if (s.bind b).prov = 1 then some b else none
  c.filter (fun n => LBindRec.LEADIN.get (s.bind n).brec != 0)

/-- Has Layers read its last weight tile: has each core's tile mover read all tiles of its ring fills on the turn's path (R43, R181,
R401), and have the pips ended every weight product of the pip path? -/
def tilesRead (s : State) (b : Nat) : Bool :=
  let fills := (lpRecords s (s.bind b).brec).filter (fun w => lpKind w == 4 && lpRing w && onPath s b (lpPath w))
  fills.all (fun w => let c := lpCluster w * 8 + lpCore w
    decide (sumNat ((fills.filter (fun v => lpCluster v * 8 + lpCore v == c)).map lpTiles) ≤ (s.core c).moved)) &&
  ((pathRecords s b).filter (fun r => lpKind r.2 == 5)).all (recordBegun s b) && !productsOpen s (fun _ => true)

/-- Key of cluster cl's stretch of a binding's lead-in space: the area of each base die holds those of eight clusters, one
after another (DEDUCED, log entry 38). -/
def leadKey (s : State) (n cl : Nat) : Nat :=
  (s.bind n).leadArea.getD (cl / 8) 0 * 16384 + cl % 8 * LBindRec.LEADIN.get (s.bind n).brec * 0x100000

/-- Addresses of the first layer-0 weight tiles of a cluster's ring fills on the matrix path, as many as its stretch holds. -/
def leadTiles (s : State) (n cl : Nat) : List Nat :=
  let fills := (lpRecords s (s.bind n).brec).filter (fun w =>
    lpKind w == 4 && lpRing w && lpLayer w == 0 && lpCluster w == cl && lpPath w != 2)
  (fills.flatMap (fun w => (List.range (lpTiles w)).map (fun i => (w.extractLsb' 0 64).toNat + i * 16384))).take
    (LBindRec.LEADIN.get (s.bind n).brec * 64)

/-- One lead-in tile is read for cluster cl, as every weight tile is (R23, R472), and copied; one on another chip comes by a bulk
get (R15). -/
def leadTile (seat cl : Nat) (s : State) (src dst : Nat) : State :=
  let st := moveStatus s seat false src 16384
  if st ≠ St.ok then s.noteWindow seat st
  else if uncorrAt s (keyOf s src) 16384 then countBad s (keyOf s src) 16384
  else match placeOf s src with
    | .chip f off => getRange s none (8 * cl) f seat off dst 16384
    | _ => moverCopy (noteCorr s (keyOf s src) 16384 false) (2, cl) (keyOf s src) dst 16384

/-- The lead-in of a binding's next turn streams into its lead-in space (R43). -/
def leadStream (s : State) (n : Nat) : State :=
  (List.range 32).foldl (fun t cl =>
    (leadTiles s n cl).zipIdx.foldl (fun t x => leadTile (s.bind n).seat cl t x.1 (leadKey s n cl + x.2 * 16384)) t) s

/-- LEAD_IN_START (R43): the holder's Layers has read its last weight tile. -/
def execLeadInStart (s : State) : Host.Outcome State Fault Refusal :=
  act .arith (when (fun s => ((holderIn s 3).filter (fun b => !(s.bind b).weightsRead && tilesRead s b)).isSome)
    (fun s => match holderIn s 3 with
      | none => s
      | some b =>
        let s := s.updBind b (fun x => { x with weightsRead := true })
        match leadTarget s b with
        | some n => leadStream (s.updBind n (fun x => { x with leadin := true })) n
        | none => s)) s

/-- Copies that Layers' riser writes and partials wait for: flushes out of and seeds into the turn's sets (R124, R126). -/
def copiesOpen (x : Bind) : Bool :=
  (x.flushes ++ x.seeds).any (fun c => x.turn.any (fun e => e.sets.any (fun t =>
    c.src == .set t.2 || c.dst == .set t.2)))

/-- The riser sets of an entry as this device's units reach them: a slice member reads and writes the leader's (R360). -/
def riserSets (s : State) (b : Nat) (e : TEnt) : List (Nat × Nat) := if holdsRequests s b then e.sets else e.far

/-- Key of a riser slot of the turn's requests: the slice leader's, by its global address, on a member. The leader's
RISER_SLOTS are taken to be this device's (DESIGN CHOICE, log entry 77). -/
def setKey (s : State) (b slot : Nat) : Nat :=
  if holdsRequests s b then riserKey s slot
  else keyOf s (LSliceSt.LEADER_CHIP.get s.fab.slice * 2 ^ 40 + riserKey s slot)

/-- Token values of the turn's positions, into the token areas of their sets' lane-0 slots (R122). -/
def writeTokens (s : State) (b : Nat) (e : TEnt) : State :=
  let t := gTpp (s.bind b).brec
  (List.range e.toks.length).foldl (fun s i =>
    let p := entK e + i
    match e.sets.find? (fun x => x.1 == p / t) with
    | some (_, f) =>
      let k := riserKey s f + 0x3E00 + 4 * (p % t)
      dupRiser (rawWrite s k (bytesOf (e.toks.getD i 0) 4)) (entSlot e) k 4
    | none => s) s

/-- Is work of the turn's Layers still under way: on a core, on a pip, at a walk, in a collective step, or in the copies that riser
writes and partials wait for? -/
def layersBusy (s : State) (b : Nat) : Bool :=
  copiesOpen (s.bind b) || productsOpen s (fun _ => true) ||
  s.cores.any (fun e => e.2.run.isSome || e.2.split.isSome || !e.2.fills.isEmpty) ||
  s.clusters.any (fun e => !e.2.awaits.isEmpty || !e.2.inbox.isEmpty) ||
  s.fab.coll.any (fun e => e.2.isSome)

/-- First byte of sampled row i's slot in its logit area (R310). -/
def logitKey (x : Bind) (i : Nat) : Nat :=
  (x.logit.getD (i % 4) 0 + i / 4 * cdiv (LBindRec.VOCAB.get x.brec) 8192) * 16384

/-- The output projection stores each sampled row's logits (R310). No record of R401 names how its results come there, so
that their bytes are free values (log entry 71). -/
def storeLogits (s : State) (b : Nat) : State :=
  let x := s.bind b
  let n := 2 * LBindRec.VOCAB.get x.brec
  (List.range (sumNat (x.turn.map (fun e => (sampledRows e).length)))).foldl (fun s i =>
    let t := rawWrite s (logitKey x i) ((List.range n).map (fun k => Config.freeByte (s.free + k)))
    { t with free := t.free + n }) s

/-- LAYERS_COMPLETE (R33): the layer program, the output projection with it, is performed, and the last sampled row's logits are in
holding memory; Sample begins. -/
def execLayersComplete (s : State) : Host.Outcome State Fault Refusal :=
  act .arith (when (fun s => ((holderIn s 3).filter (fun b => !layersBusy s b && programBegun s b)).isSome)
    (fun s => match holderIn s 3 with
      | none => s
      | some b =>
        let s := storeLogits ((s.bind b).turn.foldl (fun s e => writeTokens s b e) s) b
        setPhase (s.updBind b (fun x => { x with turn := x.turn.map (fun e =>
          { e with draws := (sampledRows e).map (fun _ => none) }) })) b [(LTurnBlk.PHASE, 4), (LTurnBlk.LAYER, 0)])) s

/-! ## Sample -/

/-- Has every sampled row its token, or its request a failure (R33)? -/
def allDrawn (x : Bind) : Bool := x.turn.all (fun e => e.fault != 0 || e.draws.all (·.isSome))

/-- SAMPLE_COMPLETE (R35): Commit begins and the slot falls free. -/
def execSampleComplete (s : State) : Host.Outcome State Fault Refusal :=
  act .arith (when (fun s => ((holderIn s 4).filter (fun b => allDrawn (s.bind b))).isSome)
    (fun s => match holderIn s 4 with
      | none => s
      | some b => settleSlot (setPhase { s with slot := { s.slot with holder := none } } b [(LTurnBlk.PHASE, 5)]))) s

/-! ## Abandoned turns and weight re-reads (R54, R472) -/

/-- The engines have drained: the slot is released if the binding's abandoned turn held it. -/
def releaseSlot (s : State) (b : Nat) : State :=
  if s.slot.draining == some b then
    settleSlot { s with slot := { s.slot with draining := none }, clusters := [],
                        cores := s.cores.map (fun e => (e.1, { e.2 with run := none, split := none, haz := none, moves := [], done := [] })) }
  else s

/-- ENGINES_DRAINED (R54): the slot is released, of a binding removed in the meantime too, and the abandonment is counted. -/
def execEnginesDrained (b : Nat) (s : State) : Host.Outcome State Fault Refusal :=
  act .arith (when (fun s => bPhase (s.bind b) == 6 || s.slot.draining == some b)
    (fun s =>
      if bPhase (s.bind b) = 6 then
        let s := ((releaseSlot s b).updBind b (fun x => { x with blk := idleBlk x.blk })).countBind b BC.abandons 1
        if bFaulted (s.bind b) then s else closeIdle s b
      else releaseSlot s b)) s

/-- WEIGHT_REREAD (R472): the one re-read of a weight tile of this turn that was read with E_UNCORR. -/
def execWeightReread (b ingot off seat : Nat) (ok : Bool) (s : State) : Host.Outcome State Fault Refusal :=
  act .arith (when (fun s => inFlight s b && decide (ingot < 16) && decide (off < ingotSize))
    (fun s =>
      let s := logError (s.countIngot ingot (if ok then 0x130 else 0x138) 1) (devAddr s (ingot * ingotSize + off)) 1
        (if LTurnBlk.PATH.get (s.bind b).blk = 1 then 1 else 4) seat (some b) ok
      -- a re-read that is correct found the tile's words whole
      if ok then { s with wordErr := s.wordErr.filter (fun x => !overlaps (x.1 * 8) 8
        ((ingot * ingotSize + off) / 16384 * 16384) 16384) }
      else abandonTurn s b)) s

end Sys2Proof.Machine
end

