-- ==== Sys2Proof/Machine/Crucible.lean ====
section
/-! DEFINITION. A crucible's packet intake, query buffer, descriptor acceptance, merge groups and folds (R65, R94, R95,
R97, R155 to R163, R168, R171). -/

namespace Sys2Proof.Machine

/-! ## Dispatch packets (R155) -/

def dispType (h : BitVec 128) : Nat := LDisp.TYPE.get h
def dispChip (h : BitVec 128) : Nat := LDisp.ISSUER.get h
def dispCluster (h : BitVec 128) : Nat := LDisp.CLUSTER.get h

/-- RSV bits and field ranges of a packet (R155, R157). -/
def dispOk (h : BitVec 128) (words : Nat) : Bool :=
  let tag := LDisp.TAG.get h
  let n := LDisp.COUNT.get h
  let layer := LDisp.LAYER.get h
  rsvZero LDisp.rsv h &&
  match dispType h with
  | 1 => tag == 0 && n == 0 && layer == 0
  | 2 => tag == 0 && n == 0 && layer == 0
  | 3 => decide (tag < 256) && tag / 6 == dispCluster h && decide (32 ≤ n) && decide (n ≤ 1280) && n % 32 == 0 &&
      n == words && layer == 0
  | 4 => decide (1 ≤ n) && layer == 0
  | 5 => tag == 0 && n == 0 && decide (layer ≤ 253)
  | _ => false

/-! ## Failures and their issuers (R94, R97, R155) -/

/-- The binding that holds the slot with its turn in Layers. -/
def layerHolder (s : State) : Option Nat := holderIn s 3

/-- A failed descriptor of this device (R97): attention ends its request with FAULT at the commit point; a weight
product, which a pip has run once more after E_UNCORR (R472), abandons the turn. -/
def failLocal (s : State) (kind slot : Nat) : State :=
  match layerHolder s with
  | none => s
  | some b => if kind = 0 then failSlot s b slot 1 else abandonTurn s b

/-- Header of a fault record (R95, R98), of no vectors: an attention record's M and L, which the manual leaves open there,
are free. -/
def faultHdr (s : State) (d : BitVec 256) (status : Nat) : BitVec 256 :=
  let attn := LDesc.KIND.get d == 0
  let m := (Config.freeWord s.free).toNat % 2 ^ 32
  setAll 0#256 [(LRec.PAGE_SEQ, LDesc.PAGE_SEQ.get d), (LRec.STATUS, status), (LRec.TAG, LDesc.TAG.get d),
    (LRec.SLOT, LDesc.SLOT.get d), (LRec.EMPTY, b2n (attn && m == 0xFF800000)), (LRec.KIND, LDesc.KIND.get d),
    (LRec.QROW, LDesc.QROW0.get d), (LRec.HEAD, LDesc.HEAD0.get d),
    (LRec.M, if attn then m else LDesc.ROW0.get d),
    (LRec.L, if attn then (Config.freeWord s.free).toNat / 2 ^ 32 else 0)]

/-- A descriptor of this device is completed to its issuer without having run (R94, R97); one of another chip is answered by its
packet's ACK. -/
def reject (s : State) (i : Nat) (d : BitVec 256) (chip : Nat) : State :=
  let s := s.countIngot i 0x0B0 1
  if chip = ownChip s then failLocal s (LDesc.KIND.get d) (LDesc.SLOT.get d) else s

/-- The entry of the running turn that a control core's last QUERY of a QID served is marked (R155). -/
def failQuery (s : State) (cl qid : Nat) : State :=
  match layerHolder s with
  | none => s
  | some b => match (s.bind b).turn[Tab.get (s.cluster cl).served 256 qid]? with
    | some e => failSlot s b (entSlot e) 1
    | none => s

/-- A malformed packet is discarded: another chip receives E_DESC by its packet's ACK, a cluster of this device at once, and the
request that it served ends with FAULT (R155). -/
def discardDisp (s : State) (i : Nat) (x : Intake) : State :=
  let chip := dispChip x.hdr
  let cl := dispCluster x.hdr
  let tag := LDisp.TAG.get x.hdr
  if chip ≠ ownChip s then (if dispType x.hdr = 1 || dispType x.hdr = 2 then reject s i x.desc chip else s)
  else match dispType x.hdr with
    | 1 => reject s i x.desc chip
    | 2 => reject s i x.desc chip
    | 4 =>
      match layerHolder s with
      | none => s.emit (.done (4096 + cl) tag St.desc [])
      | some b => match (s.bind b).turn[tag / 32 % 256]? with
        | some e => failSlot (s.emit (.done (4096 + cl) tag St.desc [])) b (entSlot e) 1
        | none => s.emit (.done (4096 + cl) tag St.desc [])
    | 5 => s.emit (.done (4096 + cl) tag St.desc [])
    | _ => failQuery (s.emit (.done (4096 + cl) tag St.desc [])) cl (tag % 256)

/-! ## Merge groups (R160 to R163) -/

/-- A partial triple: running max, sum and output (R161). -/
structure Trip where
  empty : Bool
  m : W32
  l : W32
  o : List W32
  deriving DecidableEq, Repr

def recTrip (r : Rec) : Trip :=
  ⟨LRec.EMPTY.on r.hdr, BitVec.ofNat 32 (LRec.M.get r.hdr), BitVec.ofNat 32 (LRec.L.get r.hdr), r.payload⟩

/-- x f1 + y f2 of the fold: the first product is rounded, the second added to it in one rounding; a NaN of the earlier
record supplies the result before one of the later (R161, R229). -/
def foldSum (x f1 y f2 : W32) : W32 :=
  let p := f32Mul x f1
  if (dec32 p).isNan then p else f32Fma y f2 p

/-- The fold of an earlier triple with a later one (R161). -/
def foldTrip (a b : Trip) : Trip :=
  if a.empty then b
  else if b.empty then a
  else
    let m := f32Max a.m b.m
    let f1 := f32Exp2 (f32Sub a.m m)
    let f2 := f32Exp2 (f32Sub b.m m)
    ⟨false, m, foldSum a.l f1 b.l f2, List.zipWith (fun x y => foldSum x f1 y f2) a.o b.o⟩

def foldTrips : List Trip → Trip
  | [] => ⟨true, 0xFF800000#32, 0#32, []⟩
  | t :: rest => rest.foldl foldTrip t

def hasHead (d : GDesc) (h : Nat) : Bool := decide (d.head0 ≤ h) && decide (h < d.head0 + d.nq)
def descRec (d : GDesc) (h : Nat) : Option Rec := d.recs.find? (fun r => LRec.HEAD.get r.hdr == h)

/-- Folds, in acceptance order, every record whose earlier descriptors of the row are folded or failed (R160). -/
def foldReady (g : MGroup) : MGroup :=
  let step := fun (acc : List GDesc) (d : GDesc) =>
    let clear := fun h => acc.all (fun e => e.qrow != d.qrow || !hasHead e h || e.folded.contains h || e.status != 0)
    acc ++ [{ d with folded := (d.recs.map (fun r => LRec.HEAD.get r.hdr)).filter (fun h => d.folded.contains h || clear h) }]
  { g with descs := g.descs.foldl step [] }

/-- Records folded so far. -/
def foldedCount (g : MGroup) : Nat := (g.descs.map (fun d => d.folded.length)).foldl (· + ·) 0
/-- Records that hold a slot. -/
def heldCount (g : MGroup) : Nat := (g.descs.map (fun d => d.recs.length - d.folded.length)).foldl (· + ·) 0

/-- Are the CLOSE and all its descriptors in (R162)? -/
def groupClosed (g : MGroup) : Bool := g.close == some g.descs.length

/-- Has a descriptor of the group failed? -/
def groupFailed (g : MGroup) : Bool := g.descs.any (fun d => d.status != 0)

/-- Is a row to be sent: its last record is folded, or the group has failed and its descriptors have ended (R162)? -/
def rowDone (g : MGroup) (p : Nat × Nat) : Bool :=
  if groupFailed g then g.descs.all (fun d => d.ended && (d.status != 0 || d.recs.length == d.nq))
  else g.descs.all (fun d => d.qrow != p.1 || !hasHead d p.2 || d.folded.contains p.2)

/-- Inserts a pair in ascending order, once. -/
def insPair (p : Nat × Nat) : List (Nat × Nat) → List (Nat × Nat)
  | [] => [p]
  | q :: rest =>
    if p = q then q :: rest
    else if p.1 < q.1 || (p.1 = q.1 && p.2 < q.2) then p :: q :: rest else q :: insPair p rest

/-- Rows of a group in ascending QROW, then HEAD. -/
def groupRows (g : MGroup) : List (Nat × Nat) :=
  (g.descs.flatMap (fun d => (List.range d.nq).map (fun h => (d.qrow, d.head0 + h)))).foldl (fun l p => insPair p l) []

/-- Header of a merged triple (R163). -/
def mergedHdr (s : State) (i : Nat) (g : MGroup) (row head status count first slot m l : Nat) (empty : Bool) : BitVec 256 :=
  setAll 0#256 [(LMrg.FIRST_SEQ, first), (LRec.STATUS, status), (LRec.TAG, g.tag), (LRec.SLOT, slot), (LRec.EMPTY, b2n empty),
    (LRec.QROW, row), (LRec.HEAD, head), (LMrg.INGOT, i), (LMrg.CHIP, ownChip s), (LMrg.MERGED, 1), (LRec.M, m), (LRec.L, l),
    (LMrg.COUNT, count)]

/-- Sends one row's triple; with a failed descriptor, its status and no payload. -/
def sendRow (i : Nat) (g : MGroup) (s : State) (p : Nat × Nat) : State :=
  let ds := g.descs.filter (fun d => d.qrow == p.1 && hasHead d p.2)
  let recs := ds.filterMap (fun d => descRec d p.2)
  let first := (ds.map (·.seq)).foldl min 65535
  let slot := ((ds.map (·.slot)).head?).getD 0
  match g.descs.find? (fun d => d.status != 0) with
  | some d =>
    let m := (Config.freeWord s.free).toNat % 2 ^ 32
    let h := mergedHdr s i g p.1 p.2 d.status recs.length first slot m ((Config.freeWord s.free).toNat / 2 ^ 32)
      (m == 0xFF800000)
    { s.emit (.triple g.chip g.cluster h []) with free := s.free + 1 }
  | none =>
    let t := foldTrips (recs.map recTrip)
    s.emit (.triple g.chip g.cluster (mergedHdr s i g p.1 p.2 0 recs.length first slot t.m.toNat t.l.toNat t.empty) t.o)

/-- The rows of a group that can be sent now, in order. -/
def readyRows (g : MGroup) : List (Nat × Nat) :=
  if groupClosed g then ((groupRows g).drop g.sent).takeWhile (rowDone g) else []

/-- A group after its ready rows have been sent. -/
def sentGroup (g : MGroup) : MGroup := { g with sent := g.sent + (readyRows g).length }

/-- Are all rows of the group sent? -/
def groupDone (g : MGroup) : Bool := groupClosed g && g.sent == (groupRows g).length

/-- Sends the rows that can be sent, and forgets every group that is complete (R162). -/
def sendGroups (s : State) (i : Nat) : State :=
  let old := (s.ingot i).groups
  let s := s.updIngot i (fun x => { x with groups := (old.map sentGroup).filter (fun g => !groupDone g) })
  old.foldl (fun s g => (readyRows g).foldl (sendRow i g)
    (if groupDone (sentGroup g) then s.countIngot i 0x0C8 1 else s)) s

/-- Applies f to the first group that p accepts. -/
def updFirst (p : MGroup → Bool) (f : MGroup → MGroup) : List MGroup → List MGroup
  | [] => []
  | g :: rest => if p g then f g :: rest else g :: updFirst p f rest

def groupOf (chip cluster tag : Nat) (g : MGroup) : Bool := g.chip == chip && g.cluster == cluster && g.tag == tag

/-- The descriptor of a group that a record or an end belongs to. -/
def isDesc (seq qrow head : Nat) (d : GDesc) : Bool := d.seq == seq && d.qrow == qrow && hasHead d head

/-- Applies f to a group's first descriptor that p accepts. -/
def updDesc (p : GDesc → Bool) (f : GDesc → GDesc) : List GDesc → List GDesc
  | [] => []
  | d :: rest => if p d then f d :: rest else d :: updDesc p f rest

/-- A new descriptor enters its group (R160). -/
def joinGroup (l : List MGroup) (chip cluster tag : Nat) (d : GDesc) : List MGroup :=
  let room := fun (g : MGroup) => groupOf chip cluster tag g &&
    match g.close with
    | none => true
    | some n => decide (g.descs.length < n)
  if l.any room then updFirst room (fun g => { g with descs := g.descs ++ [d] }) l
  else l ++ [⟨chip, cluster, tag, [d], none, 0⟩]

/-- A CLOSE is paired with the oldest group without one; descriptors beyond its COUNT begin a new group (R160). -/
def closeGroup (l : List MGroup) (chip cluster tag n : Nat) : List MGroup :=
  let isOpen := fun (g : MGroup) => groupOf chip cluster tag g && g.close.isNone
  match l.find? isOpen with
  | none => l ++ [⟨chip, cluster, tag, [], some n, 0⟩]
  | some g =>
    let l := updFirst isOpen (fun g => { g with descs := g.descs.take n, close := some n }) l
    if g.descs.length > n then l ++ [⟨chip, cluster, tag, g.descs.drop n, none, 0⟩] else l

/-! ## The query buffer (R157, R158) -/

def qEnt (x : Ingot) (k : Nat) : QEnt := Tab.get x.qbuf QEnt.reset k
def setQEnt (x : Ingot) (k : Nat) (e : QEnt) : Ingot := { x with qbuf := Tab.set x.qbuf QEnt.reset k e }

/-- The remote entry bound to an issuer's QID. -/
def boundEnt (x : Ingot) (chip qid : Nat) : Option Nat :=
  ((List.range 64).map (· + 192)).find? (fun k => (qEnt x k).bound == some (chip, qid))

def freeEnt (x : Ingot) : Option Nat := ((List.range 64).map (· + 192)).find? (fun k => (qEnt x k).bound.isNone)

/-- The entry a packet of an issuer names by a QID: its own for a local one. Of a remote QID that no QUERY has bound the manual says
nothing: 256 stands for an entry that holds no words (DESIGN CHOICE, log entry 112). -/
def entOf (s : State) (i chip qid : Nat) : Nat := if chip = ownChip s then qid else (boundEnt (s.ingot i) chip qid).getD 256

/-- Writes a QUERY's words; what lay beyond them stays. -/
def writeEnt (s : State) (i k chip qid : Nat) (words : List W32) : State :=
  s.updIngot i (fun x =>
    let e := qEnt x k
    setQEnt x k { e with bound := if k < 192 then none else some (chip, qid), words := words ++ e.words.drop words.length,
                         version := e.version + 1, since := if (boundEnt x chip qid).isSome then e.since else pcNow s })

/-- Takes a QUERY in, if its entry is free to be written (R157, R158). -/
def takeQuery (s : State) (i : Nat) (x : Intake) : Option State :=
  let chip := dispChip x.hdr
  let qid := LDisp.TAG.get x.hdr % 256
  let g := s.ingot i
  let k := if chip = ownChip s then some qid else (boundEnt g chip qid).or (freeEnt g)
  match k with
  | none => none
  | some k => if (qEnt g k).waiting ≠ 0 then none else some (writeEnt s i k chip qid x.words)

/-! ## Descriptors (R65, R94, R95, R159) -/

def dKind (d : BitVec 256) : Nat := LDesc.KIND.get d
def dNq (d : BitVec 256) : Nat := LDesc.NQ.get d

/-- Beats of a weight product (R94). -/
def dBeats (d : BitVec 256) : Nat :=
  match LDesc.FMT.get d with
  | 2 => LDesc.ROWB.get d * LDesc.COLS.get d
  | 3 => LDesc.ROWB.get d / 2 * LDesc.COLS.get d
  | 4 => 2 * LDesc.ROWB.get d * LDesc.COLS.get d
  | _ => 0

/-- Input words of a descriptor (R81, R94). -/
def dInput (d : BitVec 256) : Nat := if dKind d = 0 then 32 * LDesc.DIMQ.get d * dNq d else LDesc.COLS.get d * dNq d

/-- R94: must the dispatcher reject the descriptor? A value outside its R93 range that R94 does not list is accepted, and the
attention fields of a weight product that must be 0 are taken to be SLOT, HEAD0, VALID, TPP and DIMQ: the manual names none
(DESIGN CHOICE, log entry 85). -/
def descBad (s : State) (i : Nat) (d : BitVec 256) : Bool :=
  decide (dKind d ≥ 2) || decide (LDesc.FMT.get d ≥ 5) || !rsvZero LDesc.rsv d || LDesc.INGOT.get d != i ||
  (Tab.get s.pipSlots ⟨0, 0, 0#256, false, 0, []⟩ (LDesc.PROG.get d)).uses.isEmpty || dNq d == 0 ||
  (dKind d == 0 && (LDesc.VALID.get d == 0 || decide (LDesc.VALID.get d > 8 * 2 ^ LDesc.TPP.get d))) ||
  decide (dInput d > 1280) || decide (dBeats d > 512) ||
  (dKind d == 1 && (LDesc.SLOT.get d != 0 || LDesc.HEAD0.get d != 0 || LDesc.VALID.get d != 0 || LDesc.TPP.get d != 0 ||
    LDesc.DIMQ.get d != 0 || (LDesc.FMT.get d == 3 && LDesc.ROWB.get d % 2 == 1)))

/-- R361 for a dispatch packet of another chip: it comes from the slice, or the seat of its header is open; the page that a
descriptor names lies within that seat's windows. -/
def dispRemote (s : State) (i : Nat) (x : Intake) : Bool :=
  match x.via with
  | none => true
  | some h =>
    let n := LPkt.SEAT.get h
    let desc := dispType x.hdr == 1 || dispType x.hdr == 2
    (inBlock s (LPkt.SRC.get h) || LSeatCfg.FABRIC_OPEN.on (s.seat n).cfg) &&
    (!desc || inWindows s n (LDesc.WRITE.on x.desc) (devAddr s (pageKey i (LDesc.PAGE.get x.desc))) 16384)

/-- The seat of the torus packet that carried a dispatch packet. -/
def viaSeat (x : Intake) : Nat := (x.via.map LPkt.SEAT.get).getD 0

/-- Accepts a descriptor: slots, lock, group, queue (R65, R95, R159, R160); LAYER takes a weight product's layer (R32). -/
def acceptDesc (s : State) (i : Nat) (x : Intake) : State :=
  let d := x.desc
  let chip := LDesc.ISSUER.get d
  let cl := LDesc.CLUSTER.get d
  let k := entOf s i chip (LDesc.QID.get d)
  let p := pagePip i (LDesc.PAGE.get d)
  let s := s.updIngot i (fun g =>
    let g := addLock g (LDesc.PAGE.get d) ⟨chip, cl, pcNow s⟩
    let g := setQEnt g k { qEnt g k with waiting := (qEnt g k).waiting + 1 }
    { g with slotsUsed := g.slotsUsed + dNq d,
             groups := if dKind d = 0 then joinGroup g.groups chip cl (LDesc.TAG.get d)
               ⟨LDesc.PAGE_SEQ.get d, LDesc.QROW0.get d, LDesc.HEAD0.get d, dNq d, LDesc.SLOT.get d, [], [], 0, false⟩ else g.groups })
  let s := s.setPip p { s.pip p with queue := (s.pip p).queue ++ [⟨d, x.mask, k, false⟩] }
  if chip ≠ ownChip s then s.countIngot i 0x0E0 1
  else if dKind d = 1 then
    match layerHolder s with
    | some b => noteLayer s b (s.cluster cl).wlayer
    | none => s
  else s

/-- Takes a descriptor in: rejected, accepted, or none while it must wait for slots, a lock or its pip's queue; with the status
that its packet ends with. -/
def takeDesc (s : State) (i : Nat) (x : Intake) : Option (State × Nat) :=
  let d := x.desc
  let chip := dispChip x.hdr
  let g := s.ingot i
  if descBad s i d then some (reject s i d chip, St.desc)
  else if decide (g.slotsUsed + dNq d > 6144) || !canLock g (LDesc.PAGE.get d) (LDesc.ISSUER.get d) (LDesc.CLUSTER.get d) ||
      decide ((s.pip (pagePip i (LDesc.PAGE.get d))).queue.length ≥ 8) then none
  else some (acceptDesc s i x, St.ok)

/-- RELEASE (R65, R157, R168): the issuer's locks, its remote entries and its groups go. -/
def takeRelease (s : State) (i : Nat) (x : Intake) : State :=
  let chip := dispChip x.hdr
  let cl := dispCluster x.hdr
  let mine := fun (g : MGroup) => g.chip == chip && g.cluster == cl
  s.updIngot i (fun g =>
    let held := ((g.groups.filter mine).map heldCount).foldl (· + ·) 0
    let g := keepLocks g (fun _ l => !(l.chip == chip && l.cluster == cl))
    { g with groups := g.groups.filter (fun e => !mine e), slotsUsed := g.slotsUsed - held,
             qbuf := g.qbuf.map (fun e => match e.2.bound with
               | some (c, q) => if c == chip && q / 6 == cl then (e.1, { e.2 with bound := none }) else e
               | none => e) })

/-- A CLOSE (R160, R162). -/
def takeClose (s : State) (i : Nat) (x : Intake) : State :=
  let l := closeGroup (s.ingot i).groups (dispChip x.hdr) (dispCluster x.hdr) (LDisp.TAG.get x.hdr) (LDisp.COUNT.get x.hdr)
  sendGroups (s.updIngot i (fun g => { g with groups := l })) i

/-- What a packet comes to: the state and its status; none while it must wait at the head of its port. -/
def takeStatus (s : State) (i : Nat) (x : Intake) : Option (State × Nat) :=
  if !dispOk x.hdr x.words.length then some (discardDisp s i x, St.desc)
  else if !dispRemote s i x then some (noteRefused s (viaSeat x) St.window, St.window)
  else
    match dispType x.hdr with
    | 1 => takeDesc s i x
    | 2 => takeDesc s i x
    | 3 => (takeQuery s i x).map (fun t => (t, St.ok))
    | 4 => some (takeClose s i x, St.ok)
    | _ => some (takeRelease s i x, St.ok)

/-- Takes one packet in; one of another chip is acknowledged with its status (R155, R328, R361). -/
def takePacket (s : State) (i : Nat) (x : Intake) : Option State :=
  (takeStatus s i x).map (fun t => match x.via with
    | some h => answer t.1 ⟨h, 0#4096⟩ t.2 0
    | none => t.1)

/-! ## The intake (R156) -/

/-- The intake's port of a packet: 1 for one that came over the fabric (R156). -/
def inPort (x : Intake) : Nat := b2n x.via.isSome

/-- The packet at the head of a port. -/
def portHead (g : Ingot) (port : Nat) : Option Intake := g.intake.find? (fun x => inPort x == port)

/-- Removes a port's head. -/
def dropHead (port : Nat) : List Intake → List Intake
  | [] => []
  | x :: rest => if inPort x = port then rest else x :: dropHead port rest

/-- A packet of the intake's first class. -/
def firstClass (x : Intake) : Bool := dispType x.hdr == 4 || dispType x.hdr == 5

/-- Does a port present a packet of a class that can be taken in? -/
def presents (s : State) (i : Nat) (first : Bool) (port : Nat) : Bool :=
  match portHead (s.ingot i) port with
  | some x => firstClass x == first && (takePacket s i x).isSome
  | none => false

/-- One grant of the intake in a class. -/
def intakeGrant (s : State) (i cls : Nat) : Option State :=
  match grant (presents s i (cls == 0)) (Tab.get (s.ingot i).intakePtr 0 cls) 2 with
  | none => none
  | some (port, ptr) =>
    (portHead (s.ingot i) port).bind (fun x => (takePacket s i x).map (fun s =>
      s.updIngot i (fun g => { g with intake := dropHead port g.intake, intakePtr := Tab.set g.intakePtr 0 cls ptr })))

/-- Takes in what the intake holds, as far as it can. -/
def drainIntake (i : Nat) : Nat → State → State
  | 0, s => s
  | n + 1, s =>
    match (intakeGrant s i 0).or (intakeGrant s i 1) with
    | some s => drainIntake i n s
    | none => s

def drained (s : State) (i : Nat) : State := drainIntake i (s.ingot i).intake.length s

/-- A dispatch packet reaches a crucible's port. -/
def arrive (i : Nat) (x : Intake) (s : State) : State :=
  drained (s.updIngot i (fun g => { g with intake := g.intake ++ [x] })) i

/-- Bytes of a dispatch packet: its header and its body (R155). -/
def dispBytes (x : Intake) : Nat :=
  16 + match dispType x.hdr with
    | 1 => 32
    | 2 => 48
    | _ => 4 * x.words.length

/-- Can a dispatch packet arrive: from this device's clusters, or as the DISPATCH packets of another chip that a port carries in the
collective class (R155, R156, R328)? -/
def dispArrives (s : State) (i : Nat) (via : Via) : Bool :=
  match via with
  | none => true
  | some (port, h) => carried s port 8 2 (some i) h

/-- What the torus port of a dispatch packet has received. -/
def dispReceived (s : State) (x : Intake) (via : Via) : State :=
  match via with
  | none => s
  | some (port, _) => receivedPackets s port (max 1 (cdiv (dispBytes x) 512))

/-- The row of one packet type; a packet of no listed TYPE may come by any row (R155). -/
def dispRow (type i : Nat) (via : Via) (hdr : BitVec 128) (d : BitVec 256) (mask : Option (BitVec 128)) (words : List W32) :
    State → Host.Outcome State Fault Refusal :=
  act .arith (when (fun s => ingotOk i && LDisp.INGOT.get hdr == i && dispArrives s i via &&
    (dispType hdr == type || !decide (1 ≤ dispType hdr && dispType hdr ≤ 5)))
    (fun s =>
      let x : Intake := ⟨via.map (·.2), hdr, d, mask, words⟩
      arrive i x (dispReceived s x via)))

def execDesc (ingot : Nat) (via : Via) (hdr : BitVec 128) (d : BitVec 256) (s : State) : Host.Outcome State Fault Refusal :=
  dispRow 1 ingot via hdr d none [] s

def execDescMasked (ingot : Nat) (via : Via) (hdr : BitVec 128) (d : BitVec 256) (mask : BitVec 128) (s : State) :
    Host.Outcome State Fault Refusal :=
  dispRow 2 ingot via hdr d (some mask) [] s

def execQuery (ingot : Nat) (via : Via) (hdr : BitVec 128) (words : List W32) (s : State) : Host.Outcome State Fault Refusal :=
  dispRow 3 ingot via hdr 0#256 none words s

def execClose (ingot : Nat) (via : Via) (hdr : BitVec 128) (s : State) : Host.Outcome State Fault Refusal :=
  dispRow 4 ingot via hdr 0#256 none [] s

def execDispatchRelease (ingot : Nat) (via : Via) (hdr : BitVec 128) (s : State) : Host.Outcome State Fault Refusal :=
  dispRow 5 ingot via hdr 0#256 none [] s

/-- LOCK_EXPIRY (R70): what waited for a lock or a remote entry may be taken in. -/
def execLockExpiry (ingot page : Nat) (s : State) : Host.Outcome State Fault Refusal :=
  act .refresh (when (fun _ => ingotOk ingot) (fun s => drained (lockExpire ingot page s) ingot)) s

/-! ## Packets that this device's control cores send (R155, R169, R328) -/

def wordsOf (v : Nat) (n : Nat) : List W32 := (List.range n).map (fun i => BitVec.ofNat 32 (v / 2 ^ (32 * i)))

def pktHdr (s : State) (type ingot cl tag count layer : Nat) : BitVec 128 :=
  setAll 0#128 [(LDisp.TYPE, type), (LDisp.INGOT, ingot), (LDisp.ISSUER, ownChip s), (LDisp.CLUSTER, cl), (LDisp.TAG, tag),
    (LDisp.COUNT, count), (LDisp.LAYER, layer)]

/-- The UNIT of a cluster's control core (R327). -/
def controlUnit (cl : Nat) : Nat := 0x1000 + cl

/-- A control core sends a dispatch packet to an ingot of a chip; to another chip it travels in DISPATCH packets in the collective
class, for a seat and the entry of a turn that it serves (R155, R169, R328). -/
def sendDisp (s : State) (serves : Option Job) (cl chip ingot seat : Nat) (hdr : BitVec 128) (words : List W32) : State :=
  let s := s.emit (.dispatch chip ingot hdr words)
  if chip = ownChip s then s
  else sendParts s serves 8 (controlUnit cl) chip 2 seat (bytesOf hdr.toNat 16 ++ wordsBytes words)

/-- Sends the RELEASE of a layer to one crucible (R65, R168). That of the output projection, for which R155 has no number, carries the
last layer's (DESIGN CHOICE, log entry 103). -/
def releaseTo (s : State) (b cl chip ingot layer : Nat) : State :=
  sendDisp s none cl chip ingot (s.bind b).seat
    (pktHdr s 5 ingot cl 0 0 (min layer (LBindRec.LAYERS.get (s.bind b).brec - 1))) []

/-- Are the weight products of a cluster's layer finished: its records issued, and no descriptor of the cluster still to end (R65)? -/
def weightsOver (s : State) (b cl layer : Nat) : Bool :=
  (pathRecords s b).all (fun r => lpKind r.2 != 5 || lpCluster r.2 != cl || lpLayer r.2 != layer || recordBegun s b r) &&
  !productsOpen s (· == cl)

/-- The RELEASEs of the crucibles that a finished layer's weight products have used (R65). -/
def releaseWeights (s : State) (cl : Nat) : State :=
  match layerHolder s with
  | none => s
  | some b =>
    let ended := (s.cluster cl).weights.filter (fun u => weightsOver s b cl u.1)
    ended.foldl (fun s u => releaseTo s b cl (ownChip s) u.2 u.1)
      (if ended.isEmpty then s else s.setCluster cl { s.cluster cl with weights := (s.cluster cl).weights.filter (fun u => !ended.contains u) })

/-! ## Records from the pips (R160, R168) -/

/-- A weight product's record, or a failed one's status, goes to its issuer (R97, R98). -/
def weightRec (s : State) (i chip cluster : Nat) (r : Rec) : State :=
  let st := LRec.STATUS.get r.hdr
  let s := if st = 0 then s.updIngot i (fun g => { g with slotsUsed := g.slotsUsed - 1 }) else s
  let s := s.emit (.triple chip cluster r.hdr r.payload)
  if chip ≠ ownChip s then s else releaseWeights (if st ≠ 0 then failLocal s 1 0 else s) cluster

/-- An attention record reaches its group: folded when its turn comes, discarded where the group is gone. -/
def attnRec (s : State) (i chip cluster : Nat) (r : Rec) : State :=
  let st := LRec.STATUS.get r.hdr
  let head := LRec.HEAD.get r.hdr
  let fits := fun (d : GDesc) => isDesc (LRec.PAGE_SEQ.get r.hdr) (LRec.QROW.get r.hdr) head d && d.status == 0 &&
    (st != 0 || (descRec d head).isNone)
  let mine := fun (g : MGroup) => groupOf chip cluster (LRec.TAG.get r.hdr) g && g.descs.any fits
  match (s.ingot i).groups.find? mine with
  | none =>
    let s := if st = 0 then s.updIngot i (fun g => { g with slotsUsed := g.slotsUsed - 1 }) else s
    s.countIngot i 0x0F0 1
  | some g =>
    let put := fun (d : GDesc) => if st = 0 then { d with recs := d.recs ++ [r] } else { d with status := st }
    let g' := foldReady { g with descs := updDesc fits put g.descs }
    let freed := foldedCount g' - foldedCount g
    let s := s.updIngot i (fun x => { x with groups := updFirst mine (fun _ => g') x.groups, slotsUsed := x.slotsUsed - freed })
    let s := if st = 0 && decide (heldCount g' > heldCount g) then s.countIngot i 0x0D0 1 else s
    sendGroups s i

/-- Takes the first record of a pip out of those on their way. -/
def takeRec (p : Nat) : List (Nat × Nat × Nat × Rec) → List (Nat × Nat × Nat × Rec)
  | [] => []
  | x :: rest => if x.1 = p then rest else x :: takeRec p rest

/-- RESULT_RECORD: the merge tree grants a pip by R24 and takes its oldest record (R160). -/
def resultRecord (i : Nat) (s : State) : State :=
  let l := (s.ingot i).recs
  match grant (fun p => l.any (fun x => x.1 == p)) (s.ingot i).mergePtr 384 with
  | none => s
  | some (p, ptr) =>
   match l.find? (fun x => x.1 == p) with
   | none => s
   | some (_, chip, cl, r) =>
    let s := s.updIngot i (fun g => { g with recs := takeRec p l, mergePtr := ptr })
    drained (if LRec.KIND.on r.hdr then weightRec s i chip cl r else attnRec s i chip cl r) i

def execResultRecord (ingot : Nat) (s : State) : Host.Outcome State Fault Refusal :=
  act .arith (when (fun _ => ingotOk ingot) (resultRecord ingot)) s

/-! ## What each pc of a wait counts (R68, R159, R157) -/

/-- Descriptors and remote QUERYs at port heads that wait for slots, or for a buffer entry. -/
def waitingHeads (s : State) (i : Nat) : Nat × Nat :=
  let heads := (List.range 2).filterMap (portHead (s.ingot i))
  ((heads.filter (fun x => (dispType x.hdr == 1 || dispType x.hdr == 2) && decide ((s.ingot i).slotsUsed + dNq x.desc > 6144))).length,
   (heads.filter (fun x => dispType x.hdr == 3 && dispChip x.hdr != ownChip s &&
      (boundEnt (s.ingot i) (dispChip x.hdr) (LDisp.TAG.get x.hdr % 256)).isNone && (freeEnt (s.ingot i)).isNone)).length)

/-- Queues that a full deferral buffer holds. -/
def heldQueues (s : State) (i : Nat) : Nat :=
  ((s.ingot i).bgs.map (fun e => ((List.range 5).filter (fun q => match Tab.get e.2.queues [] q with
    | r :: _ => heldByBuffer s i r
    | [] => false)).length)).foldl (· + ·) 0

/-- One pc of every ingot's waits. -/
def pcWaits (s : State) : State :=
  (s.ingots.map (·.1)).foldl (fun s i =>
    ((s.countIngot i 0x0D8 (waitingHeads s i).1).countIngot i 0x0E8 (waitingHeads s i).2).countIngot i 0x070 (heldQueues s i)) s

end Sys2Proof.Machine
end

