-- ==== Sys2Proof/Machine/VecMath.lean ====
section
/-! DEFINITION. Arithmetic that the vector engine and the mould stages share, and the matrix engine's products, trees and
accumulation (R174 to R178, R187, R222 to R225, R229, R230). -/

namespace Sys2Proof.Machine

/-! ## Elements in memory (R82, R179, R180, R212, R219) -/

/-- Element n of a row that starts at a key, as its code; FP4's even elements lie in bits [3:0]. -/
def elemCode (s : State) (bits k n : Nat) : Nat :=
  if bits = 4 then readNib s k n
  else if bits = 1 then (memByte s (k + n / 8)).toNat / 2 ^ (n % 8) % 2
  else readNat s (k + n * (bits / 8)) (bits / 8)

/-- Decodes a code by its width in bits. -/
def decCode (bits c : Nat) : Num :=
  match bits with
  | 4 => decE2m1 c
  | 8 => decE4m3 c
  | 16 => decBf16 c
  | _ => dec32 (BitVec.ofNat 32 c)

/-- Element n of a row in FP32; a NaN is quiet. -/
def elemVal (s : State) (bits k n : Nat) : W32 := enc32 (decCode bits (elemCode s bits k n))

def elemRow (s : State) (bits k n : Nat) : List W32 := (List.range n).map (elemVal s bits k)

/-- Codes of half-bytes as bytes; a last odd one keeps the upper half of the byte it falls in. -/
def packNibs (s : State) (k : Nat) : List Nat → List Byte
  | [] => []
  | [a] => [BitVec.ofNat 8 (a % 16 + (memByte s k).toNat / 16 * 16)]
  | a :: b :: rest => BitVec.ofNat 8 (a % 16 + b % 16 * 16) :: packNibs s (k + 1) rest

/-- The bytes of a row of codes that will stand from a key on. -/
def packRow (s : State) (bits k : Nat) (codes : List Nat) : List Byte :=
  if bits = 4 then packNibs s k codes else codes.flatMap (fun c => bytesOf c (bits / 8))

/-- FP32 to a stored format by its width in bits (R230). -/
def cvtCode (bits : Nat) (x : W32) : Nat :=
  match bits with
  | 4 => toE2m1 x
  | 8 => toE4m3 x
  | 16 => toBf16 x
  | _ => (enc32 (dec32 x)).toNat

/-! ## Single operations (R222, R224, R229) -/

/-- A NaN made quiet; anything else as it is. -/
def quiet32 (x : W32) : W32 := enc32 (dec32 x)

def vRelu (a : W32) : W32 := if (dec32 a).isNan then quiet32 a else if Num.lt (.fin false 0 0) (dec32 a) then a else 0#32
def vClamp (lo hi a : W32) : W32 := f32Min (f32Max a lo) hi

/-- fma(a, imm, b); of several NaN operands the first of a, b, imm supplies the result. -/
def vAxpy (imm a b : W32) : W32 :=
  if (dec32 a).isNan then quiet32 a else if (dec32 b).isNan then quiet32 b else f32Fma a imm b

/-- exp2: +0.0 for every value below −149 (R229). -/
def vExp2 (a : W32) : W32 := if Num.lt (dec32 a) (.fin true 149 0) then 0#32 else f32Exp2 a

/-! ## Row reductions (R223) -/

/-- Folds a row over 64 lanes and then pairs their results. -/
def laneFold (f : W32 → W32 → W32) (start : W32) (row : List W32) : W32 :=
  let lane := fun (l : Nat) => ((List.range (cdiv row.length 64)).filterMap (fun i => row[64 * i + l]?)).foldl f start
  tree f 6 ((List.range 64).map lane)

def rowSum (row : List W32) : W32 := laneFold f32Add 0#32 row
def rowSsq (row : List W32) : W32 := rowSum (row.map (fun x => f32Mul x x))

/-- The largest value; a NaN element, the lowest-numbered, supplies the result. -/
def rowMax (row : List W32) : W32 :=
  match row.find? (fun x => (dec32 x).isNan) with
  | some x => quiet32 x
  | none => laneFold f32Max 0xFF800000#32 row

def mag32 (x : W32) : W32 := if (dec32 x).isNan then x else x &&& 0x7FFFFFFF#32
def rowAmax (row : List W32) : W32 := rowMax (row.map mag32)

/-- r of RMS: four roundings (R224). -/
def rmsFactor (row : List W32) (eps : W32) : W32 :=
  f32Rsqrt (f32Add (f32Div (rowSsq row) (enc32 (.fin false row.length 0))) eps)

def rmsRow (row : List W32) (eps : W32) : List W32 := row.map (fun x => f32Mul x (rmsFactor row eps))

/-! ## Rotary codes (R225) -/

/-- The pair of a dimension below R: its index, and whether the dimension is its second member. -/
def rotIndex (ctl d : Nat) : Nat × Bool :=
  if rotPair ctl then (d / 2, d % 2 == 1) else (d % (rotR ctl / 2), decide (rotR ctl / 2 ≤ d))

/-- The other member of a dimension's pair. -/
def rotMate (ctl d : Nat) : Nat :=
  if rotPair ctl then (if d % 2 = 0 then d + 1 else d - 1)
  else if d < rotR ctl / 2 then d + rotR ctl / 2 else d - rotR ctl / 2

/-- One rotated element: `x` the element, `y` the other of its pair. -/
def rotElem (second : Bool) (cs : W32 × W32) (x y : W32) : W32 :=
  let p := dec32 (f32Mul y cs.2)
  enc32 (((dec32 x).mul (dec32 cs.1)).add (if second then p else p.neg))

/-- Column n rotated, its row given as a function of the column; F is the frequency of a pair. -/
def rotAt (ctl pos : Nat) (freq : Nat → Nat) (row : Nat → W32) (n : Nat) : W32 :=
  let d := n % rotD ctl
  if d ≥ rotR ctl then row n
  else
    let (i, second) := rotIndex ctl d
    rotElem second (f32CosSin (pos * freq i)) (row n) (row (n - d + rotMate ctl d))

/-- F of pair i of a frequency table. -/
def freqAt (s : State) (k i : Nat) : Nat := readNat s (k + 8 * i) 6

def rotRow (s : State) (ctl pos table : Nat) (row : List W32) : List W32 :=
  (List.range row.length).map (rotAt ctl pos (freqAt s table) (fun n => row.getD n 0#32))

/-! ## KV blocks of a row (R109, R110, R212) -/

/-- Cuts a list into pieces of n. -/
def chunks (n : Nat) (l : List W32) : List (List W32) :=
  (List.range (cdiv l.length n)).map (fun i => (l.drop (n * i)).take n)

/-- A row's scale bytes and element codes: KV4 or KV8. -/
def kvRow (kv4 : Bool) (row : List W32) : List Nat × List Nat :=
  let bs := (chunks (if kv4 then 16 else 32) row).map (if kv4 then kv4Block else kv8Block)
  (bs.map (·.1), bs.flatMap (·.2))

/-! ## Matrix arithmetic (R174 to R178, R187) -/

/-- A value with the OVF and NANF flags that making it set (R178). -/
structure MxVal where
  v : W32
  ovf : Bool
  nanf : Bool
  deriving DecidableEq, Repr

/-- Rounds to nearest even; a finite value beyond the range saturates, a NaN is the default one (R178). -/
def mxRound (x : Num) : MxVal :=
  match x with
  | .nan _ => ⟨qnan, false, true⟩
  | .inf n => ⟨sign32 n 0x7F800000, false, false⟩
  | .fin n m e =>
    let p := packNE 24 (-149) m e false
    if p > 0x7F7FFFFF then ⟨sign32 n 0x7F7FFFFF, true, false⟩ else ⟨sign32 n p, false, false⟩

def mxMul (a b : W32) : MxVal := mxRound ((dec32 a).mul (dec32 b))

/-- A sum that keeps the flags of its addends. -/
def mxAdd (a b : MxVal) : MxVal :=
  let r := mxRound ((dec32 a.v).add (dec32 b.v))
  ⟨r.v, r.ovf || a.ovf || b.ovf, r.nanf || a.nanf || b.nanf⟩

/-- One level of R175's tree. -/
def mxPairs : List MxVal → List MxVal
  | a :: b :: rest => mxAdd a b :: mxPairs rest
  | l => l

/-- The tree of 16 products (R175). -/
def mxTree (l : List MxVal) : MxVal := (mxPairs (mxPairs (mxPairs (mxPairs l)))).headD ⟨0#32, false, false⟩

/-- The bits of R177. -/
def srBits (seed s h m n : Nat) : Nat :=
  let x := mix32 (BitVec.ofNat 32 seed ^^^ BitVec.ofNat 32 (2 * s + h))
  (mix32 (x ^^^ BitVec.ofNat 32 (m * 1024) ^^^ BitVec.ofNat 32 n)).toNat % 65536

/-- The residue of m · 2^e beyond its truncation, in 65,536ths of an ulp (R176). -/
def srResidue (m : Nat) (e : Int) : Nat :=
  let q : Int := max (e + (Nat.log2 m + 1) - 24) (-149)
  if q ≤ e then 0 else
  let d := 2 ^ (q - e).toNat
  m % d * 65536 / d

/-- sr_add of R176. -/
def srAdd (c t : W32) (u : Nat) : MxVal :=
  match (dec32 c).add (dec32 t) with
  | .nan _ => ⟨qnan, false, true⟩
  | .inf n => ⟨sign32 n 0x7F800000, false, false⟩
  | .fin n m e =>
    if m = 0 then ⟨sign32 n 0, false, false⟩
    else
      let p := packTZ 24 (-149) m e + (if srResidue m e + u ≥ 65536 then 1 else 0)
      if p > 0x7F7FFFFF then ⟨sign32 n 0x7F7FFFFF, true, false⟩ else ⟨sign32 n p, false, false⟩

/-- wide_add of R187: hi and lo. A sum that is not finite follows R178. -/
def wideAdd (hi lo t : W32) : MxVal × W32 :=
  let s := f32Add hi t
  if (dec32 s).isNan || (dec32 lo).isNan then (⟨qnan, false, true⟩, 0#32)
  else if (dec32 s).isInf then (mxRound ((dec32 hi).add (dec32 t)), 0#32)
  else
    let b := f32Sub s hi
    let e := f32Add (f32Sub hi (f32Sub s b)) (f32Sub t b)
    let lo2 := f32Add lo e
    let hi2 := f32Add s lo2
    if (dec32 hi2).isInf then (⟨sign32 (dec32 hi2).isNeg 0x7F7FFFFF, true, false⟩, 0#32)
    else (⟨hi2, false, false⟩, f32Sub lo2 (f32Sub hi2 s))

end Sys2Proof.Machine
end

