-- ==== Sys2Proof/Machine/Matrix.lean ====
section
/-! DEFINITION. The matrix engines: tile moves and the B ring, block steps, accumulator slots, the sprue buffer,
epilogues (07_matrix_cores.md; R207 to R216). -/

namespace Sys2Proof.Machine

/-! ## Places (R19, R186, R192, R207) -/

def coreOk (c : Nat) : Bool := decide (c < 256)
def clusterBase (c : Nat) : Nat := sramBase + c / 8 * 0x4000000
/-- Keys in core c's scratchpad and accumulator memory, and of its sprue entry e. -/
def scratchKey (c off : Nat) : Nat := clusterBase c + c % 8 * 0x200000 + off
def accKey (c off : Nat) : Nat := clusterBase c + 0x1000000 + c % 8 * 0x100000 + off
def sprueKey (c e : Nat) : Nat := clusterBase c + 0x2000000 + c % 8 * 0x80000 + e * 0x800
/-- Logical and storage position of token row m (R207). The block has words for 256 rows; a vector ROT of more reads the bytes
that follow the block, where the manual says nothing (DESIGN CHOICE, log entry 80). -/
def rowPos (s : State) (c m : Nat) : Nat := readNat s (clusterBase c + 0x1F7E800 + 4 * m) 4
def rowStore (s : State) (c m : Nat) : Nat := readNat s (clusterBase c + 0x1F7EC00 + 4 * m) 4

/-- Key and bytes of a slot (R186). -/
def slotKey (c : Nat) (wide : Bool) (i : Nat) : Nat := accKey c (i * if wide then 2048 else 1024)
def slotBytes (wide : Bool) : Nat := if wide then 2048 else 1024

/-- Number of a slot's status word (R188). -/
def statNum (wide : Bool) (i : Nat) : Nat := if wide then 2 * i else i

def readF32 (s : State) (k : Nat) : W32 := BitVec.ofNat 32 (readNat s k 4)
def readWords (s : State) (k n : Nat) : List W32 := (List.range n).map (fun i => readF32 s (k + 4 * i))
def readF64s (s : State) (k n : Nat) : List W64 := (List.range n).map (fun i => readWord s (k + 8 * i))

/-! ## Reads of T0 by an engine (R23, R469, R471) -/

/-- The first range, of key and bytes, that holds an uncorrectable word. -/
def badRange (s : State) (l : List (Nat × Nat)) : Option (Nat × Nat) := l.find? (fun r => uncorrAt s r.1 r.2)

/-- What reads of the ranges do to correctable words. -/
def noteRanges (s : State) (l : List (Nat × Nat)) : State := l.foldl (fun s r => noteCorr s r.1 r.2 false) s

/-- An engine's read of an uncorrectable word of T0 abandons the turn (R471). -/
def engineFault (s : State) (b : Nat) (r : Nat × Nat) : State := abandonTurn (noteUncorr s r.1 r.2 3 (s.bind b).seat (some b)) b

/-- Runs an engine's work on ranges it reads, if they can be read. -/
def withRanges (s : State) (b : Nat) (l : List (Nat × Nat)) (f : State → State) : State :=
  match badRange s l with
  | some r => engineFault s b r
  | none => f (noteRanges s l)

/-- Do ranges of this device lie in a seat's windows? -/
def rangesIn (s : State) (seat : Nat) (write : Bool) (l : List (Nat × Nat)) : Bool :=
  l.all (fun r => r.2 == 0 || inWindows s seat write (devAddr s r.1) r.2)

/-- The status of accesses to ranges of this device: E_ADDR where one leaves its memory or is not aligned to `align` (R20, R22), else
E_WINDOW where one leaves the seat's windows or touches an area that the device owns (R23, R46). -/
def rangesStatus (s : State) (seat : Nat) (write : Bool) (align : Nat) (l : List (Nat × Nat)) : Nat :=
  firstFail [
    (l.any (fun r => r.2 != 0 && (r.1 % align != 0 || addrStatus s (devAddr s r.1) r.2 != St.ok)), St.addr),
    (!rangesIn s seat write l || l.any (fun r => ownedArea s r.1 r.2), St.window)]

/-! ## What an unfinished matrix instruction keeps from the core's other engines (R190, R216) -/

def mxSlotRange (c : Nat) (w : BitVec 256) : Nat × Nat :=
  (slotKey c (LMx.WIDE.on w) (LMx.SLOT0.get w), mxBlocks w * slotBytes (LMx.WIDE.on w))

def mxSprueRange (c : Nat) (w : BitVec 256) : Nat × Nat :=
  (sprueKey c (LMx.SENT0.get w), if LMx.SPRUE.on w then mxBlocks w * 0x800 else 0)

def mxARange (c : Nat) (w : BitVec 256) : Nat × Nat := (scratchKey c (LMx.ABASE.get w * 64), mxABytes w)

/-- The mould that an instruction names, as the turn has it (R206). -/
def mxMould (s : State) (b : Nat) (w : BitVec 256) : Option (BitVec 1152) :=
  if LMx.MOULD.get w = 0 then none
  else ((s.bind b).turnMoulds.map (·.2)).find? (fun m => mouldNumber m == LMx.MOULD.get w)

/-- Does the binding apply rotary position codes: a rotary binding always, a masked one where BIND enables them (R151)? -/
def rotates (r : BitVec 8192) : Bool := !LBindRec.CLASS.on r || LBindRec.MROT.on r

/-- The mould's stages; its rotations only where the binding applies them. -/
def mouldStagesOf (s : State) (b : Nat) (w : BitVec 256) : List (BitVec 128) :=
  (((mxMould s b w).map mouldStages).getD []).filter (fun x =>
    rotates (s.bind b).brec || !(stKind x == 0x03 || stKind x == 0x0D))
def prologue (s : State) (b : Nat) (w : BitVec 256) : List (BitVec 128) := (mouldStagesOf s b w).filter isPrologue
def epilogueStages (s : State) (b : Nat) (w : BitVec 256) : List (BitVec 128) :=
  if LMx.FIN.on w then (mouldStagesOf s b w).filter (fun x => !isPrologue x) else []
def quantOf (s : State) (b : Nat) (w : BitVec 256) : Option Nat := (mxMould s b w).bind mouldQuant

/-- Regions that one stage of a mould reads or writes. -/
def stageKeys (s : State) (b c : Nat) (w : BitVec 256) (x : BitVec 128) : List (Nat × Nat) :=
  (stageRanges (quantOf s b w) w x).map (fun r => (scratchKey c r.1, r.2)) ++
  (if stKind x = 0x0B then [(accKey c (LStg.P0.get x * 1024), mxBlocks w * 1024)]
   else if stKind x = 0x19 ∧ LStg.SUB.get x = 1 then
     [(clusterBase c + LStg.P0.get x, writeBytes (quantOf s b w) (mxM w) (mxN w) (LStg.PITCH.get x))]
   else [])

def stageWrites (x : BitVec 128) : Bool := stKind x == 0x19 || stKind x == 0x11

/-- Slots, sprue entries and regions that an instruction writes, and the regions it reads or writes beside them. -/
def mxWrites (s : State) (b c : Nat) (w : BitVec 256) : List (Nat × Nat) :=
  mxSlotRange c w :: mxSprueRange c w :: ((mouldStagesOf s b w).filter stageWrites).flatMap (stageKeys s b c w)
def mxTouches (s : State) (b c : Nat) (w : BitVec 256) : List (Nat × Nat) :=
  mxARange c w :: (mouldStagesOf s b w).flatMap (stageKeys s b c w)

/-- Does a range share a byte with one of a list? -/
def hitsAny (k n : Nat) (l : List (Nat × Nat)) : Bool := l.any (fun x => overlaps k n x.1 x.2)

/-- Must another engine's access of the core wait for the matrix instruction in progress? -/
def mxHolds (s : State) (c : Nat) (write : Bool) (k n : Nat) : Bool :=
  match (s.core c).run with
  | none => false
  | some r => hitsAny k n (mxWrites s r.binding c r.w) || (write && hitsAny k n (mxTouches s r.binding c r.w))

/-- Is a request of the core on the fabric still open: awaited, or yet to be issued (R330)? -/
def reqOpen (s : State) (c : Nat) (q : Nat × Nat × Nat) : Bool :=
  (s.fab.outstanding ++ s.fab.held.map (·.req)).any (fun r => r.unit == c && r.dest == q.1 && r.cls == q.2.1 && r.seq == q.2.2)

/-- Must an access of the core wait for a spilled block that still belongs into a sprue entry (R194, R228)? -/
def latchHolds (s : State) (c k n : Nat) : Bool := (s.core c).latch.any (fun l => overlaps k n (sprueKey c l.entry) 0x800)

/-- Must an access of the core wait for an earlier tile move from another chip, whose tiles have not all come? -/
def moverHolds (s : State) (c k n : Nat) : Bool :=
  (s.core c).moves.any (fun m => overlaps k n m.1 m.2.1 && m.2.2.any (reqOpen s c))

/-- Must an access of the core wait for the split reduction in progress? -/
def splitHolds (s : State) (c : Nat) (write : Bool) (k n : Nat) : Bool :=
  match (s.core c).split with
  | none => false
  | some x => overlaps k n x.result 16384 || (write && overlaps k n x.base (x.parts * 16384))

/-! ## The layer program's records of a core (R41, R401) -/

/-- Is a record the matrix instruction? A turn gives each its own SEED (R177). -/
def isMx (w : BitVec 256) (x : BitVec 1024) : Bool := LMx.SEED.set (lpBody256 x) 0 == LMx.SEED.set w 0

/-- Is a record the vector instruction? -/
def isVx (w : BitVec 256) (x : BitVec 1024) : Bool := lpBody256 x == w

/-- Is a record the tile move? -/
def isMove (src dst : W64) (tiles : Nat) (ring : Bool) (x : BitVec 1024) : Bool :=
  x.extractLsb' 0 64 == src && x.extractLsb' 64 64 == dst && lpTiles x == tiles && lpRing x == ring

/-- May a core's engine begin work now: is it the next record of its kind on the turn's path? Where the layer program gives the core
no work of the kind, its commands carry their own; a matrix instruction or ring fill then runs on the matrix path only (R41, R401; log
entry 88). -/
def mayStart (s : State) (b c kind : Nat) (matrix : Bool) (fits : BitVec 1024 → Bool) : Bool :=
  if listed s b c kind then (nextRecord s b c kind).any (fun r => fits r.2)
  else !matrix || LTurnBlk.PATH.get (s.bind b).blk == 0

/-- The engine's next record is begun. -/
def beginNext (s : State) (b c kind : Nat) : State :=
  match nextRecord s b c kind with
  | some r => beginRecord s c r.1
  | none => s

/-! ### Streams of the vector engine (R219, R225) -/

/-- A stream's rows on this device: key and bytes of each. -/
def vxKeys (c : Nat) (r : Rows) : List (Nat × Nat) := (rowRanges r).map (fun x => (clusterBase c + x.1, x.2))

/-- Bytes that an instruction reads: A, B, and for ROT the logical positions of its rows (R225). -/
def vxReads (c : Nat) (w : BitVec 256) : List (Nat × Nat) :=
  vxKeys c (vxA w) ++ vxKeys c (vxB w) ++
  (if LVx.OP.get w = 0x15 then [(clusterBase c + 0x1F7E800, 4 * LVx.ROWS.get w)] else [])

def vxWrites (c : Nat) (w : BitVec 256) : List (Nat × Nat) := (vxD w).flatMap (vxKeys c)

/-! ### Work issued earlier (R190) -/

/-- What a record's work writes, and what it reads or writes beside that; a ring fill's tiles are R181's. -/
def recWrites (s : State) (b c : Nat) (w : BitVec 1024) : List (Nat × Nat) :=
  match lpKind w with
  | 1 => mxWrites s b c (lpBody256 w)
  | 2 => vxWrites c (lpBody256 w)
  | _ => if lpRing w then [] else [(keyOf s (w.extractLsb' 64 64).toNat, lpTiles w * 16384)]
def recTouches (s : State) (b c : Nat) (w : BitVec 1024) : List (Nat × Nat) :=
  match lpKind w with
  | 1 => mxTouches s b c (lpBody256 w)
  | 2 => vxReads c (lpBody256 w)
  | _ => [(keyOf s (w.extractLsb' 0 64).toNat, lpTiles w * 16384)]

/-- Records of the core's other engines that stand before an engine's next one and whose work has not begun. -/
def earlierWork (s : State) (b c kind : Nat) : List (BitVec 1024) :=
  match nextRecord s b c kind with
  | none => []
  | some n => ((pathRecords s b).filter (fun r => decide (r.1 < n.1) && [1, 2, 4].contains (lpKind r.2) && lpKind r.2 != kind &&
      lpCluster r.2 * 8 + lpCore r.2 == c && !(s.core c).done.contains r.1)).map (·.2)

/-- Must an engine's next work wait for work of another engine that the control core issues before it, and that one of the two
writes? -/
def earlierHolds (s : State) (b c kind : Nat) (touches writes : List (Nat × Nat)) : Bool :=
  (earlierWork s b c kind).any (fun w =>
    (touches ++ writes).any (fun r => hitsAny r.1 r.2 (recWrites s b c w)) ||
    writes.any (fun r => hitsAny r.1 r.2 (recTouches s b c w)))

/-! ## Tile moves and the B ring (R15, R22, R23, R181, R401) -/

/-- The status with which a tile move's check ends (R20 to R23). -/
def tileMoveStatus (s : State) (seat : Nat) (src dst : W64) (n : Nat) : Nat :=
  firstFail [
    (moveStatus s seat false src.toNat n != St.ok, moveStatus s seat false src.toNat n),
    (moveStatus s seat true dst.toNat n != St.ok, moveStatus s seat true dst.toNat n)]

/-- Is a key in a core of the same cluster's span that a matrix instruction of core c protects? -/
def moveHeld (s : State) (c : Nat) (src dst : W64) (n : Nat) : Bool :=
  let k := keyOf s src.toNat
  let d := keyOf s dst.toNat
  mxHolds s c false k n || mxHolds s c true d n || moverHolds s c k n || moverHolds s c d n || latchHolds s c k n ||
  latchHolds s c d n ||
  (decide (s.core c |>.split |>.isSome) && (splitHolds s c false k n || overlaps d n ((s.core c).split.map (·.result) |>.getD 0) 16384))

/-- One bulk get for each tile of a move from another chip, and the requests they are. They travel in the bulk class, as
R244 has the moves of the fabric engines travel (DEDUCED, log entry 79). -/
def getTiles (c f seat off dst tiles : Nat) (s : State) : State × List (Nat × Nat × Nat) :=
  (List.range tiles).foldl (fun acc i =>
    let d := dst + i * 16384
    (getRange acc.1 none c f seat (off + i * 16384) d 16384,
      acc.2 ++ [(f, 3, Tab.get acc.1.fab.seqs 0 (seqSlot c f 3))])) (s, [])

/-- The move itself: local memory and the companion directly, other chips by bulk requests (R15, R333). Answers the requests
that bring its tiles. -/
def moveTiles (s : State) (c seat : Nat) (src dst : W64) (tiles : Nat) : State × List (Nat × Nat × Nat) :=
  let n := tiles * 16384
  match placeOf s src.toNat, placeOf s dst.toNat with
  | .chip f off, _ => getTiles c f seat off (keyOf s dst.toNat) tiles s
  | _, .chip f off =>
    (putPackets (pushGrants s (2, c / 8) (keyOf s src.toNat) n false) none c f 3 seat off (viewBytes s (keyOf s src.toNat) n), [])
  | _, _ => (moverCopy s (2, c / 8) (keyOf s src.toNat) (keyOf s dst.toNat) n, [])

/-- Places of an assembly area that a run of tiles fills. -/
def areaHits (x : Split) (dst tiles : Nat) : List Nat :=
  (List.range x.parts).filter (fun i => decide (dst ≤ x.base + i * 16384) && decide (x.base + (i + 1) * 16384 ≤ dst + tiles * 16384))

/-- The arrival bits of places of an area are set (R196). -/
def setBits (s : State) (x : Split) (l : List Nat) : State :=
  if l.isEmpty then s else orWord s x.arrival (l.foldl (fun n i => n ||| 2 ^ i) 0)

/-- Arrival bits that a tile move into T0 sets: it has written place i of the assembly area of an open split reduction. A tile of no
such area may be a partial of one that is named later (R196; DEDUCED, log entry 55). -/
def setArrivals (s : State) (dst tiles : Nat) : State :=
  let open' := s.cores.filterMap (fun e => e.2.split)
  if open'.any (fun x => !(areaHits x dst tiles).isEmpty) then open'.foldl (fun s x => setBits s x (areaHits x dst tiles)) s
  else if tierOfOffset dst = 0 then
    let new' := (List.range tiles).map (fun i => (dst + i * 16384, now s + tierTimeout s))
    { s with fab := { s.fab with placed := s.fab.placed ++ new' } }
  else s

/-- Tile moves from other chips whose tiles have all come are over, and set their arrival bits (R190, R196). -/
def landMoves (s : State) : State :=
  (s.cores.map (·.1)).foldl (fun s c =>
    let ended := (s.core c).moves.filter (fun m => !m.2.2.any (reqOpen s c))
    if ended.isEmpty then s
    else ended.foldl (fun s m => if (s.core c).fills.isEmpty then setArrivals s m.1 (m.2.1 / 16384) else s)
      (s.updCore c (fun x => { x with moves := x.moves.filter (fun m => !ended.contains m) }))) s

/-- A turn of which a weight tile from another chip has been given up is abandoned (R256). -/
def weightsLost (s : State) : State :=
  if s.cores.any (fun e => e.2.lost) then
    let t := { s with cores := s.cores.map (fun e => (e.1, { e.2 with lost := false })) }
    match layerHolder s with
    | some b => abandonTurn t b
    | none => t
  else s

/-- A tile move of core c. A ring fill has room in the ring and rises BFILL when its tile has come. An uncorrectable
source in T0 abandons the turn; a weight tile's is read once more (R471, R472). -/
def tileMove (c b : Nat) (src dst : W64) (tiles : Nat) (ring : Bool) (s : State) : State :=
  let seat := (s.bind b).seat
  let n := tiles * 16384
  let st := tileMoveStatus s seat src dst n
  let s := beginNext s b c 4
  if st ≠ St.ok then s.noteWindow seat st
  else
    let k := keyOf s src.toNat
    let d := keyOf s dst.toNat
    if uncorrSeen s k n then (if tierOf s src.toNat = 0 then engineFault s b (k, n) else countBad s k n)
    else if moverStatus s k d n ≠ St.ok then s
    else
      let (s, reqs) := moveTiles (noteCorr s k n false) c seat src dst tiles
      let far := isRemote s src.toNat
      let s := if far then s.updCore c (fun x => { x with moves := x.moves ++ [(d, n, reqs)] })
        else if ring then s else setArrivals s d tiles
      if ring then s.updCore c (fun x => { x with
        fills := x.fills ++ (if far then (reqs.filter (reqOpen s c)).map some else List.replicate tiles none), moved := x.moved + tiles })
      else s

/-- A ring fill waits until BFILL − BUSED < BRING (R181). The rule names one fill; a move of several tiles waits until the
ring, the fills in flight counted in, has room for all of them (DESIGN CHOICE, log entry 79). -/
def ringFull (s : State) (c : Nat) (bring tiles : Nat) : Bool :=
  decide (((s.core c).bfill - (s.core c).bused).toNat + (s.core c).fills.length + tiles > bring)

/-- BRING against which a ring fill is checked (R181). The manual does not say whose: that of the core's first matrix record
in the layer program whose ring holds the destination, the largest, 96, where none does (DESIGN CHOICE, log entry 79). -/
def bringOf (s : State) (b c : Nat) (dst : W64) : Nat :=
  let recs := (lpRecords s (s.bind b).brec).filter (fun w => lpKind w == 1 && lpCluster w * 8 + lpCore w == c)
  let fits := recs.find? (fun w => overlaps (keyOf s dst.toNat) 1 (scratchKey c (mxRing (lpBody256 w)).1) (mxRing (lpBody256 w)).2)
  (fits.map (fun w => LMx.BRING.get (lpBody256 w))).getD 96

/-- Must a tile move wait: for its place in the layer program or the turn's path (R41, R401), for the core's other engines or an
earlier move (R190), behind a fence (R335), or for room in the ring (R181)? -/
def moveWaits (s : State) (b c : Nat) (src dst : W64) (tiles : Nat) (ring : Bool) : Bool :=
  let n := tiles * 16384
  !mayStart s b c 4 ring (isMove src dst tiles ring) || moveHeld s c src dst n || s.fab.fences.any (fun f => f.unit == c) ||
  earlierHolds s b c 4 [(keyOf s src.toNat, n)] (if ring then [] else [(keyOf s dst.toNat, n)]) ||
  (ring && ringFull s c (bringOf s b c dst) tiles)

/-- TILE_MOVE of a layer program's core, in the turn's Layers. -/
def execTileMove (core : Nat) (src dst : W64) (tiles : Nat) (ring : Bool) (s : State) : Host.Outcome State Fault Refusal :=
  act .arith (when (fun _ => coreOk core && decide (0 < tiles))
    (fun s => match layerHolder s with
      | none => s
      | some b =>
        if moveWaits s b core src dst tiles ring then s
        -- a full deferral buffer holds the write at the head of its queue (R68)
        else if moverWaits s (keyOf s dst.toNat) (tiles * 16384) then blockMover s (keyOf s dst.toNat) (tiles * 16384)
        else tileMove core b src dst tiles ring s)) s

/-- RING_FILL_COMPLETE: the oldest ring fill's tile is wholly in the scratchpad (R181). -/
def execRingFillComplete (core : Nat) (s : State) : Host.Outcome State Fault Refusal :=
  act .arith (when (fun s => coreOk core && match (s.core core).fills with
      | [] => false
      | none :: _ => true
      | some q :: _ => !reqOpen s core q)
    (fun s => s.updCore core (fun x => { x with fills := x.fills.drop 1, bfill := x.bfill + 1#32 }))) s

/-! ## Operands (R179, R180, R209) -/

/-- One scale of a DEQ stage's array. -/
def deqScale (s : State) (c : Nat) (st : BitVec 128) (i : Nat) : W32 :=
  let b := (memByte s (scratchKey c (LStg.BASE.get st * 64) + i)).toNat
  enc32 (if LStg.SUB.get st / 2 % 2 = 0 then decE8 b else decE4m3 b)

/-- Element (m, k) of A as the prologue stages, last first, leave it. -/
def aVal (s : State) (c : Nat) (w : BitVec 256) : List (BitVec 128) → Nat → Nat → W32
  | [], m, k => elemVal s (mxBits (LMx.FMTA.get w)) (scratchKey c (LMx.ABASE.get w * 64 + m * LMx.ASTRIDE.get w * 64)) k
  | st :: rest, m, k =>
    match stKind st with
    | 1 =>
      if LStg.SUB.get st % 2 = 0 then
        f32Mul (aVal s c w rest m k) (deqScale s c st (m * (mxK w / deqBlock st) + k / deqBlock st))
      else aVal s c w rest m k
    | 2 => f32Mul (aVal s c w rest m k) (BitVec.ofNat 32 (LStg.P0.get st))
    | 3 => rotAt (LStg.P0.get st) (rowPos s c m) (freqAt s (scratchKey c (LStg.BASE.get st * 64))) (aVal s c w rest m) k
    | _ => aVal s c w rest m k

/-- Key of tile j of an instruction in the ring (R181). -/
def tileKey (c : Nat) (w : BitVec 256) (j : Nat) : Nat :=
  scratchKey c (LMx.BBASE.get w * 64 + (LMx.BFIRST.get w + j) % LMx.BRING.get w * 16384)

/-- Tiles of one panel. -/
def panelTiles (w : BitVec 256) : Nat := cdiv (mxK w) (mxKt w)

/-- Element (k, n) of B. -/
def bVal (s : State) (c : Nat) (w : BitVec 256) : List (BitVec 128) → Nat → Nat → W32
  | [], k, n =>
    let bits := mxBits (LMx.FMTB.get w)
    elemVal s bits (tileKey c w (n / 32 * panelTiles w + k / mxKt w) + k % mxKt w * 4 * bits) (n % 32)
  | st :: rest, k, n =>
    if stKind st = 1 ∧ LStg.SUB.get st % 2 = 1 then
      f32Mul (bVal s c w rest k n) (deqScale s c st (k / deqBlock st * mxN w + n))
    else bVal s c w rest k n

/-- The tree result h of a step for output (m, n) (R174, R175). -/
def treeAt (s : State) (c : Nat) (w : BitVec 256) (pro : List (BitVec 128)) (step h m n : Nat) : MxVal :=
  let k := step * mxKstep w + 16 * h
  mxTree ((List.range 16).map (fun i => mxMul (aVal s c w pro m (k + i)) (bVal s c w pro (k + i) n)))

/-- The layer-program record of an instruction that begins now, with its number (R32, R401). -/
def mxRecord (s : State) (b c : Nat) (w : BitVec 256) : Option (Nat × BitVec 1024) := (nextRecord s b c 1).filter (fun r => isMx w r.2)

/-! ## Block steps (R176 to R178, R184, R187, R193) -/

/-- Where block step number `pos` of an instruction lies: panel, step, row block, column block (R184). -/
def visit (w : BitVec 256) (pos : Nat) : Nat × Nat × Nat × Nat :=
  let rows := LMx.MB.get w + 1
  let p := pos / (LMx.KS.get w * rows * 2)
  let cols := if 2 * p + 1 ≤ LMx.NB.get w then 2 else 1
  let r := pos - p * (LMx.KS.get w * rows * 2)
  (p, r / (rows * cols), r / cols % rows, 2 * p + r % cols)

def blockSteps (w : BitVec 256) : Nat := LMx.KS.get w * mxBlocks w

/-- An accumulator element: hi, and lo in wide mode. -/
structure MxElem where
  hi : W32
  lo : W32
  ovf : Bool
  nanf : Bool
  deriving DecidableEq, Repr

/-- One tree result into an element. -/
def addTree (wide : Bool) (x : MxElem) (t : MxVal) (u : Nat) : MxElem :=
  let r := if wide then wideAdd x.hi x.lo t.v else (srAdd x.hi t.v u, x.lo)
  ⟨r.1.v, r.2, x.ovf || t.ovf || r.1.ovf, x.nanf || t.nanf || r.1.nanf⟩

/-- An element of a block after a block step. -/
def stepElem (s : State) (c : Nat) (w : BitVec 256) (pro : List (BitVec 128)) (step m n : Nat) (x : MxElem) : MxElem :=
  (List.range (mxTrees w)).foldl (fun x h =>
    addTree (LMx.WIDE.on w) x (treeAt s c w pro step h m n) (srBits (LMx.SEED.get w) step h m n)) x

/-- Elements of the block in a slot, row by row. -/
def readBlock (s : State) (c : Nat) (wide : Bool) (slot : Nat) : List MxElem :=
  (List.range 256).map (fun i => ⟨readF32 s (slotKey c wide slot + 4 * i),
    if wide then readF32 s (slotKey c wide slot + 1024 + 4 * i) else 0#32, false, false⟩)

def blockBytes (wide : Bool) (l : List MxElem) : List Byte :=
  wordsBytes (l.map (·.hi)) ++ if wide then wordsBytes (l.map (·.lo)) else []

def writeBlock (s : State) (c : Nat) (wide : Bool) (slot : Nat) (l : List MxElem) : State :=
  rawWrite s (slotKey c wide slot) (blockBytes wide l)

/-- Sets the sticky flags of a slot's status word, and counts those that rise (R188, R200). -/
def setFlags (s : State) (c n : Nat) (ovf nanf : Bool) : State :=
  let w := Tab.get (s.core c).status 0#32 n
  let w' := setAll w [(LSlotSt.OVF, b2n (ovf || LSlotSt.OVF.on w)), (LSlotSt.NANF, b2n (nanf || LSlotSt.NANF.on w))]
  let s := s.updCore c (fun x => { x with status := Tab.set x.status 0#32 n w' })
  (s.countCore c 0x028 (b2n (ovf && !LSlotSt.OVF.on w))).countCore c 0x030 (b2n (nanf && !LSlotSt.NANF.on w))

def slotStat (s : State) (c n : Nat) : W32 := Tab.get (s.core c).status 0#32 n
def setSlotStat (s : State) (c n : Nat) (w : W32) : State :=
  s.updCore c (fun x => { x with status := Tab.set x.status 0#32 n w })

/-- Copies a slot into the spill latch and empties it (R193). -/
def spill (s : State) (c : Nat) (wide : Bool) (slot entry : Nat) : State :=
  let l := readBlock s c wide slot
  let data := l.map (·.hi) ++ if wide then l.map (·.lo) else []
  let s := s.updCore c (fun x => { x with latch := x.latch ++ [⟨entry, wide, data⟩] })
  let s := rawWrite s (slotKey c wide slot) (List.replicate (slotBytes wide) 0#8)
  let n := statNum wide slot
  (setSlotStat s c n (LSlotSt.SINCE.set (slotStat s c n) 0)).countCore c 0x020 1

/-- Places taken in the spill latch. -/
def latchUsed (l : List Latch) : Nat := (l.map (fun x => if x.wide then 2 else 1)).foldl (· + ·) 0

def sprueInt (s : State) (b : Nat) : Nat := LBindRec.SPRUE_INT.get (s.bind b).brec

/-- The block index within the instruction, and the slot, of a block. -/
def blockIndex (w : BitVec 256) (mb nb : Nat) : Nat := mb * (LMx.NB.get w + 1) + nb
def blockSlot (w : BitVec 256) (mb nb : Nat) : Nat := LMx.SLOT0.get w + blockIndex w mb nb

/-- Would the next block step spill? -/
def willSpill (s : State) (c : Nat) (r : MxRun) : Bool :=
  let (_, _, mb, nb) := visit r.w r.pos
  LMx.SPRUE.on r.w &&
  LSlotSt.SINCE.get (slotStat s c (statNum (LMx.WIDE.on r.w) (blockSlot r.w mb nb))) + 1 == sprueInt s r.binding

/-- The tile that a block step reads. -/
def stepTile (w : BitVec 256) (pos : Nat) : Nat :=
  let (p, st, _, _) := visit w pos
  p * panelTiles w + st * mxKstep w / mxKt w

/-- Must the engine wait before its next block step: for its tile (R181), or for room in the latch (R193)? -/
def mxWaits (s : State) (c : Nat) (r : MxRun) : Bool :=
  let x := s.core c
  !decide (stepTile r.w r.pos < (x.bfill - r.b0).toNat) ||
  (willSpill s c r && decide (latchUsed x.latch + (if LMx.WIDE.on r.w then 2 else 1) > 8))

/-- Ranges that a block step reads: of B, each K row's 16 columns of the block (R180). -/
def stepRanges (s : State) (b c : Nat) (w : BitVec 256) (pos : Nat) : List (Nat × Nat) :=
  let (_, st, mb, nb) := visit w pos
  let k := st * mxKstep w
  let pro := prologue s b w
  let a := if pro.any (fun x => stKind x == 3) then (0, mxRowBytes w)
    else (k * mxBits (LMx.FMTA.get w) / 8, mxKstep w * mxBits (LMx.FMTA.get w) / 8)
  let bits := mxBits (LMx.FMTB.get w)
  (List.range 16).map (fun r =>
    (scratchKey c (LMx.ABASE.get w * 64 + (16 * mb + r) * LMx.ASTRIDE.get w * 64 + a.1), a.2)) ++
  (List.range (mxKstep w)).map (fun r =>
    (tileKey c w (stepTile w pos) + (k % mxKt w + r) * 4 * bits + nb % 2 * 2 * bits, 2 * bits)) ++
  [(slotKey c (LMx.WIDE.on w) (blockSlot w mb nb), slotBytes (LMx.WIDE.on w))] ++
  (if pro.any (fun x => stKind x == 3) then [(clusterBase c + 0x1F7E800 + 64 * mb, 64)] else []) ++
  pro.flatMap (fun x => (stageRanges none w x).map (fun r => (scratchKey c r.1, r.2)))

/-- BUSED rises after the last read of a tile: no later block step of the panel reads it. -/
def lastOfTile (w : BitVec 256) (pos : Nat) : Bool :=
  pos + 1 == blockSteps w || stepTile w (pos + 1) != stepTile w pos

/-- The arithmetic of one block step, and its spill. -/
def blockStep (s : State) (c : Nat) (r : MxRun) : State :=
  let w := r.w
  let wide := LMx.WIDE.on w
  let (_, st, mb, nb) := visit w r.pos
  let slot := blockSlot w mb nb
  let pro := (prologue s r.binding w).reverse
  let old := readBlock s c wide slot
  let new' := (List.range 256).map (fun i =>
    stepElem s c w pro st (16 * mb + i / 16) (16 * nb + i % 16) (old.getD i ⟨0#32, 0#32, false, false⟩))
  let n := statNum wide slot
  let s := match r.layer.filter (fun _ => r.pos == 0) with
    | some l => noteLayer s r.binding l
    | none => s
  let s := writeBlock s c wide slot new'
  let s := setFlags s c n (new'.any (·.ovf)) (new'.any (·.nanf))
  let s := (setSlotStat s c n (LSlotSt.SINCE.set (slotStat s c n) (min 8191 (LSlotSt.SINCE.get (slotStat s c n) + 1)))).countCore c 0 1
  let s := if LMx.SPRUE.on w && LSlotSt.SINCE.get (slotStat s c n) == sprueInt s r.binding then
      spill s c wide slot (LMx.SENT0.get w + blockIndex w mb nb) else s
  s.updCore c (fun x => { x with
    bused := x.bused + (if lastOfTile w r.pos then 1#32 else 0#32),
    run := some { r with pos := r.pos + 1 } })

/-- The instruction's end on the engine: with FIN its finishing or its epilogue follows (R185, R195, R210). -/
def mxEnd (s : State) (c : Nat) (r : MxRun) : State :=
  let fin := LMx.FIN.on r.w
  let more := fin && (LMx.SPRUE.on r.w && !r.finished)
  let epi := !(epilogueStages s r.binding r.w).isEmpty
  let r' := { r with finished := fin && (r.finished || !LMx.SPRUE.on r.w) }
  s.updCore c (fun x => { x with run := if more then some r else if fin && epi then some r' else none })

/-- Performs block steps until the engine waits, the instruction ends or the turn is abandoned. -/
def mxRun (c : Nat) : Nat → State → State
  | 0, s => s
  | n + 1, s =>
    match (s.core c).run with
    | none => s
    | some r =>
      if r.pos ≥ blockSteps r.w || layerHolder s ≠ some r.binding then s
      else if mxWaits s c r then s
      else
        let s := withRanges s r.binding (stepRanges s r.binding c r.w r.pos) (fun s => blockStep s c r)
        let s := if r.pos + 1 = blockSteps r.w ∧ layerHolder s = some r.binding then mxEnd s c { r with pos := r.pos + 1 } else s
        mxRun c n s

/-! ## Starting an instruction (R181 to R183, R188, R194) -/

/-- Do the slots' status words agree with the instruction (R183)? -/
def statAgrees (s : State) (c : Nat) (w : BitVec 256) : Bool :=
  (List.range (mxBlocks w)).all (fun i =>
    let x := slotStat s c (statNum (LMx.WIDE.on w) (LMx.SLOT0.get w + i))
    LSlotSt.WIDE.on x == LMx.WIDE.on w && LSlotSt.SPRUE.on x == LMx.SPRUE.on w &&
    (!LMx.SPRUE.on w || LSlotSt.SENT.get x == LMx.SENT0.get w + i))

/-- INIT: slots and entries at +0.0, status words from the instruction (R188, R194). -/
def mxInit (s : State) (c : Nat) (w : BitVec 256) : State :=
  let wide := LMx.WIDE.on w
  (List.range (mxBlocks w)).foldl (fun s i =>
    let slot := LMx.SLOT0.get w + i
    let s := rawWrite s (slotKey c wide slot) (List.replicate (slotBytes wide) 0#8)
    let s := setSlotStat s c (statNum wide slot) (setAll 0#32 [(LSlotSt.SPRUE, LMx.SPRUE.get w),
      (LSlotSt.SENT, LMx.SENT0.get w + i), (LSlotSt.WIDE, LMx.WIDE.get w)])
    if LMx.SPRUE.on w then rawWrite s (sprueKey c (LMx.SENT0.get w + i)) (List.replicate 0x800 0#8) else s) s

/-- Windows of an instruction's regions and of the operands of its mould's stages (R23); an epilogue's writes are checked as
they are made (R214). -/
def mxWindows (s : State) (b c : Nat) (w : BitVec 256) : Bool :=
  let seat := (s.bind b).seat
  rangesIn s seat false (mxARange c w :: (scratchKey c (mxRing w).1, (mxRing w).2) ::
    ((prologue s b w ++ epilogueStages s b w).filter (fun x => !stageWrites x)).flatMap (stageKeys s b c w)) &&
  rangesIn s seat true [mxSlotRange c w, mxSprueRange c w]

/-- Completes with E_MXINSTR: counted, the turn abandoned (R183). -/
def mxFault (s : State) (b c : Nat) : State := abandonTurn (s.countCore c 0x038 1) b

/-- The checks of R183 at run time. -/
def mxBad (s : State) (b c : Nat) (w : BitVec 256) : Bool :=
  !mxOk (fun n => (s.bind b).turnMoulds.any (fun m => mouldNumber m.2 == n)) w ||
  (LMx.OP.get w == 1 && !LMx.INIT.on w && !statAgrees s c w)

/-- Does a pending spill still belong into an entry of the instruction (R190)? -/
def latchMeets (s : State) (c : Nat) (w : BitVec 256) : Bool :=
  LMx.SPRUE.on w && (s.core c).latch.any (fun l => decide (LMx.SENT0.get w ≤ l.entry) &&
    decide (l.entry < LMx.SENT0.get w + mxBlocks w))

/-- The interlock of R190 on an instruction: earlier work of the core's other engines on what it names. -/
def mxHaz (s : State) (c b : Nat) (w : BitVec 256) : Bool :=
  latchMeets s c w || earlierHolds s b c 1 (mxTouches s b c w) (mxWrites s b c w) || (mxWrites s b c w).any (fun r => moverHolds s c r.1 r.2 || splitHolds s c true r.1 r.2) ||
  (mxTouches s b c w).any (fun r => moverHolds s c r.1 r.2 || splitHolds s c false r.1 r.2)

/-- Must an instruction not begin yet: before its place in the layer program or on the other path (R41, R401), or before the layer's
attention is finished (R42)? -/
def mxHeld (s : State) (c b : Nat) (w : BitVec 256) : Bool :=
  !mayStart s b c 1 true (isMx w) || (mxRecord s b c w).any (fun r => projectionWaits s b r.1 (lpLayer r.2))

/-- The first block step of an instruction: B0, INIT. -/
def mxStart (s : State) (b c : Nat) (w : BitVec 256) : State :=
  let layer := (mxRecord s b c w).map (fun r => lpLayer r.2)
  let s := if LMx.INIT.on w then mxInit s c w else s
  (beginNext s b c 1).updCore c (fun x => { x with run := some ⟨w, b, x.bused, 0, false, layer⟩, haz := none })

/-- MX_MMA for the binding in Layers: starts the instruction, or goes on with it. -/
def mxMma (c b : Nat) (w : BitVec 256) (s : State) : State :=
  match (s.core c).run with
  | some r => if r.w = w ∧ r.binding = b then mxRun c (blockSteps w) s else s
  | none =>
    if mxHeld s c b w then s
    else if mxBad s b c w then mxFault s b c
    else if mxHaz s c b w then s.updCore c (fun x => { x with haz := some (w, b) })
    else if !mxWindows s b c w then (beginNext s b c 1).noteWindow (s.bind b).seat St.window
    else mxRun c (blockSteps w) (mxStart s b c w)

/-- A matrix instruction's row: its OP, and a turn in Layers. -/
def mxRow (op c : Nat) (w : BitVec 256) (f : Nat → State → State) : State → Host.Outcome State Fault Refusal :=
  act .arith (when (fun _ => coreOk c && LMx.OP.get w == op)
    (fun s => match layerHolder s with
      | some b => f b s
      | none => s))

def execMxMma (core : Nat) (w : BitVec 256) (s : State) : Host.Outcome State Fault Refusal :=
  mxRow 1 core w (fun b => mxMma core b w) s

/-- The status words of an instruction's slots. -/
def statBytes (s : State) (c : Nat) (w : BitVec 256) : List Byte :=
  (List.range (mxBlocks w)).flatMap (fun i =>
    bytesOf (slotStat s c (statNum (LMx.WIDE.on w) (LMx.SLOT0.get w + i))).toNat 4)

/-- The words that STAT writes or SETSTAT reads. -/
def statRange (c : Nat) (w : BitVec 256) : Nat × Nat := (scratchKey c (LMx.ABASE.get w * 64), 4 * mxBlocks w)

/-- The interlock of R190 on STAT and SETSTAT. -/
def statHaz (s : State) (b c : Nat) (write : Bool) (r : Nat × Nat) : Bool :=
  moverHolds s c r.1 r.2 || splitHolds s c write r.1 r.2 || earlierHolds s b c 1 [r] (if write then [r] else [])

/-- Does a matrix instruction that waits for the interlock still wait (R190, R200)? -/
def hazHolds (s : State) (c b : Nat) (w : BitVec 256) : Bool :=
  if LMx.OP.get w = 1 then mxHaz s c b w else statHaz s b c (LMx.OP.get w == 2) (statRange c w)

/-- STAT and SETSTAT are performed in issue order (R190, R401) and within the seat's windows. -/
def statRow (op c : Nat) (w : BitVec 256) (write : Bool) (f : Nat → State → State) : State → Host.Outcome State Fault Refusal :=
  mxRow op c w (fun b s =>
    let r := statRange c w
    if (s.core c).run.isSome || !mayStart s b c 1 true (isMx w) then s
    else if mxBad s b c w then mxFault s b c
    else if statHaz s b c write r then s.updCore c (fun x => { x with haz := some (w, b) })
    else
      let s := (beginNext s b c 1).updCore c (fun x => { x with haz := none })
      if !rangesIn s (s.bind b).seat write [r] then s.noteWindow (s.bind b).seat St.window else f b s)

/-- MX_STAT (R182). -/
def execMxStat (core : Nat) (w : BitVec 256) (s : State) : Host.Outcome State Fault Refusal :=
  statRow 2 core w true (fun _ s => rawWrite s (scratchKey core (LMx.ABASE.get w * 64)) (statBytes s core w)) s

/-- MX_SETSTAT (R182); RSV bits stay 0. A word whose OVF or NANF goes from 0 to 1 is counted (R200). -/
def setStats (c : Nat) (w : BitVec 256) (s : State) : State :=
  (List.range (mxBlocks w)).foldl (fun s i =>
    let n := statNum (LMx.WIDE.on w) (LMx.SLOT0.get w + i)
    let old := slotStat s c n
    let x : W32 := BitVec.ofNat 32 (readNat s (scratchKey c (LMx.ABASE.get w * 64) + 4 * i) 4 % 2 ^ 25)
    ((setSlotStat s c n x).countCore c 0x028 (b2n (LSlotSt.OVF.on x && !LSlotSt.OVF.on old))).countCore c 0x030
      (b2n (LSlotSt.NANF.on x && !LSlotSt.NANF.on old))) s

def execMxSetstat (core : Nat) (w : BitVec 256) (s : State) : Host.Outcome State Fault Refusal :=
  statRow 3 core w false (fun b s =>
    withRanges s b [(scratchKey core (LMx.ABASE.get w * 64), 4 * mxBlocks w)] (setStats core w)) s

/-! ## The sprue buffer (R194, R195) -/

def f64Add (e : W64) (x : W32) : W64 := enc64 ((dec64 e).add (dec32 x))

/-- An entry with a spilled block added: hi, then lo in wide mode. -/
def sprueAdd (wide : Bool) (ent : List W64) (data : List W32) : List W64 :=
  (List.range 256).map (fun i =>
    let e := f64Add (ent.getD i 0#64) (data.getD i 0#32)
    if wide then f64Add e (data.getD (256 + i) 0#32) else e)

def f64Bytes (l : List W64) : List Byte := l.flatMap (fun x => bytesOf x.toNat 8)

/-- The oldest block of the latch is added into its entry. -/
def drainOne (c : Nat) (s : State) : State :=
  match (s.core c).latch with
  | [] => s
  | l :: rest =>
    let k := sprueKey c l.entry
    let go := fun (s : State) =>
      let s := rawWrite s k (f64Bytes (sprueAdd l.wide (readF64s s k 256) l.data))
      ((s.updCore c (fun x => { x with latch := rest })).countCore c 0x060 1).countCore c 0x050 256
    match layerHolder s with
    | some b => withRanges s b [(k, 0x800)] go
    | none => go s

/-- SPILL_DRAIN (R194): one block, in spill order; the engine's wait for the latch may end. -/
def execSpillDrain (core : Nat) (s : State) : Host.Outcome State Fault Refusal :=
  act .arith (when (fun _ => coreOk core) (drainOne core)) s

/-- The FP32 of an entry's element: saturated (R195). -/
def finishHi (e : W64) : MxVal :=
  match dec64 e with
  | .nan _ => ⟨qnan, false, true⟩
  | .inf n => ⟨sign32 n 0x7F7FFFFF, true, false⟩
  | x => mxRound x

def finishElem (wide : Bool) (e : W64) : MxElem :=
  let h := finishHi e
  ⟨h.v, if wide then enc32 (dec64 (enc64 ((dec64 e).add (dec32 h.v).neg))) else 0#32, h.ovf, h.nanf⟩

/-- Finishes one block of an instruction. -/
def finishBlock (c : Nat) (w : BitVec 256) (s : State) (i : Nat) : State :=
  let wide := LMx.WIDE.on w
  let slot := LMx.SLOT0.get w + i
  let k := sprueKey c (LMx.SENT0.get w + i)
  let old := readBlock s c wide slot
  let ent := sprueAdd wide (readF64s s k 256) (old.map (·.hi) ++ old.map (·.lo))
  let new' := ent.map (finishElem wide)
  let n := statNum wide slot
  let s := writeBlock (rawWrite s k (f64Bytes ent)) c wide slot new'
  let s := setFlags s c n (new'.any (·.ovf)) (new'.any (·.nanf))
  (((setSlotStat s c n (LSlotSt.SINCE.set (slotStat s c n) 0)).countCore c 0x020 1).countCore c 0x060 1).countCore c 0x050 512

/-- Is the instruction of a core at the end of its block steps, with the finishing of R195 to come? -/
def finishDue (s : State) (c : Nat) : Option MxRun :=
  (s.core c).run.filter (fun r => r.pos == blockSteps r.w && LMx.FIN.on r.w && LMx.SPRUE.on r.w && !r.finished &&
    layerHolder s == some r.binding && (s.core c).latch.isEmpty)

/-- MMA_FINISH (R195). -/
def mmaFinish (c : Nat) (s : State) : State :=
  match finishDue s c with
  | none => s
  | some r =>
    let go := fun (s : State) =>
      mxEnd ((List.range (mxBlocks r.w)).foldl (finishBlock c r.w) s) c { r with finished := true }
    withRanges s r.binding [mxSlotRange c r.w, mxSprueRange c r.w] go

def execMmaFinish (core : Nat) (s : State) : Host.Outcome State Fault Refusal :=
  act .arith (when (fun _ => coreOk core) (mmaFinish core)) s

/-! ## Epilogues (R208, R210 to R214) -/

/-- A slot's FP32 value: hi + lo in wide mode. -/
def slotVal (x : MxElem) (wide : Bool) : W32 := if wide then f32Add x.hi x.lo else x.hi

/-- Row m of an instruction's output as its slots hold it. -/
def slotRow (s : State) (c : Nat) (w : BitVec 256) (m : Nat) : List W32 :=
  let wide := LMx.WIDE.on w
  (List.range (mxN w)).map (fun n =>
    let k := slotKey c wide (blockSlot w (m / 16) (n / 16)) + 4 * (m % 16 * 16 + n % 16)
    slotVal ⟨readF32 s k, if wide then readF32 s (k + 1024) else 0#32, false, false⟩ wide)

/-- Row m of the normal slots from slot P0 on (GATE). -/
def gateRow (s : State) (c : Nat) (w : BitVec 256) (slot0 m : Nat) : List W32 :=
  (List.range (mxN w)).map (fun n =>
    readF32 s (slotKey c false (slot0 + blockIndex w (m / 16) (n / 16)) + 4 * (m % 16 * 16 + n % 16)))

def actOf (st : BitVec 128) (x : W32) : W32 :=
  match LStg.SUB.get st with
  | 0 => f32Silu x
  | 1 => f32Gelu x
  | 2 => vRelu x
  | _ => vClamp (BitVec.ofNat 32 (LStg.P0.get st)) (BitVec.ofNat 32 (LStg.P1.get st)) x

/-- One stage on row m (R203). -/
def stageRow (s : State) (c : Nat) (w : BitVec 256) (eps : W32) (m : Nat) (row : List W32) (st : BitVec 128) : List W32 :=
  let k := scratchKey c (LStg.BASE.get st * 64)
  let bits := if LStg.FMT.get st = 1 then 16 else 32
  match stKind st with
  | 0x08 => List.zipWith f32Add row (elemRow s bits k (mxN w))
  | 0x09 => match LStg.SUB.get st with
    | 0 => row.map (fun x => f32Mul x (BitVec.ofNat 32 (LStg.P0.get st)))
    | 1 => List.zipWith f32Mul row (elemRow s 32 k (mxN w))
    | _ => row.map (fun x => f32Mul x (readF32 s (k + 4 * m)))
  | 0x0A => row.map (actOf st)
  | 0x0B => List.zipWith f32Mul row (gateRow s c w (LStg.P0.get st) m)
  | 0x0C => List.zipWith f32Add row (elemRow s bits (k + m * LStg.PITCH.get st * 64) (mxN w))
  | 0x0D => rotRow s (LStg.P0.get st) (rowPos s c m) k row
  | 0x10 => rmsRow row eps
  | _ => row

/-- Writes a row back into the slots (R210, step 3). -/
def writeRow (c : Nat) (w : BitVec 256) (m : Nat) (s : State) (row : List W32) : State :=
  let wide := LMx.WIDE.on w
  (List.range (LMx.NB.get w + 1)).foldl (fun s nb =>
    let k := slotKey c wide (blockSlot w (m / 16) nb) + 64 * (m % 16)
    let s := rawWrite s k (wordsBytes ((row.drop (16 * nb)).take 16))
    if wide then rawWrite s (k + 1024) (List.replicate 64 0#8) else s) s

/-- Code width of QUANT's result. -/
def quantCode (q : Option Nat) (row : List W32) : List Nat × List Nat :=
  match q with
  | none => ([], row.map (·.toNat))
  | some 0 => ([], row.map toBf16)
  | some 1 => ([], row.map toE4m3)
  | some 2 => kvRow false row
  | _ => kvRow true row

/-- Row m of a WRITE to scratchpad or cluster memory (R212): keys and bytes. -/
def writeParts (s : State) (q : Option Nat) (dst pitch mRows m : Nat) (row : List W32) : List (Nat × List Byte) :=
  let (sc, el) := quantCode q row
  let k := dst + m * pitch * 64
  (k, packRow s (quantBits q) k el) ::
    (if sc.isEmpty then [] else [(dst + mRows * pitch * 64 + m * (cdiv sc.length 64 * 64), sc.map (BitVec.ofNat 8 ·))])

/-- The destination of a WRITE to scratchpad or cluster memory. -/
def writeDst (c : Nat) (x : BitVec 128) : Nat :=
  if LStg.SUB.get x = 0 then scratchKey c (LStg.BASE.get x * 64) else clusterBase c + LStg.P0.get x

/-- Does a write to this device's memory pass the windows and the areas the device owns (R23, R46, R163, R207)? -/
def writeAllowed (s : State) (seat k n : Nat) : Bool :=
  addrStatus s (devAddr s k) n == St.ok && inWindows s seat true (devAddr s k) n && !ownedArea s k n

/-- A byte or half-byte of a riser slot; in an uncorrectable word it is not written (R72, R214, R470). -/
def riserPut (s : State) (k : Nat) (f : State → State) : State := if uncorrAt s k 1 then s else f s

/-- One KV element and scale of riser entry t (R106). -/
def putElem (s : State) (r : BitVec 8192) (value : Bool) (k t d code : Nat) : State :=
  let nib := if value then valNib r t d else keyNib r t d
  riserPut s (k + nib / 2) (fun s => if gKv4 r then writeNib s k nib code else rawWrite s (k + nib / 2) [BitVec.ofNat 8 code])

def putScale (s : State) (r : BitVec 8192) (value : Bool) (k t b code : Nat) : State :=
  let o := if value then valScaleOff r t b else keyScaleOff r t b
  riserPut s (k + o) (fun s => rawWrite s (k + o) [BitVec.ofNat 8 code])

/-- One head of a riser WRITE's row: its elements and scales into its lane's slot, at an entry (R213). -/
def putHead (s : State) (r : BitVec 8192) (value : Bool) (k t : Nat) (row : List W32) : State :=
  let (sc, el) := kvRow (gKv4 r) row
  let s := (List.range el.length).foldl (fun s d => putElem s r value k t d (el.getD d 0)) s
  (List.range sc.length).foldl (fun s b => putScale s r value k t b (sc.getD b 0)) s

/-- Bytes of a lane's page that `putHead` writes at an entry: its elements' and its scales'. -/
def headBytes (r : BitVec 8192) (value : Bool) (t : Nat) : List Nat :=
  ((List.range (gD r)).map (fun d => (if value then valNib r t d else keyNib r t d) / 2) ++
    (List.range (gBlocks r)).map (fun b => if value then valScaleOff r t b else keyScaleOff r t b)).eraseDups

/-- A slice member's riser writes go to the leader's sets as stores in the collective class (R360). -/
def sendHead (s : State) (b c k : Nat) (offs : List Nat) : State :=
  if holdsRequests s b then s
  else offs.foldl (fun s o => issue s c (LSliceSt.LEADER_CHIP.get s.fab.slice) 2 (s.bind b).seat true 0 0
    [(LPkt.TYPE, 2), (LPkt.ADDR, (k + o) % 2 ^ 40), (LPkt.DATA, (memByte s (k + o)).toNat)] 0#4096) s

/-- Is a riser WRITE's form one that the binding allows (R213)? -/
def riserOk (r : BitVec 8192) (x : BitVec 128) (n : Nat) : Bool :=
  LStg.P1.get x == gD r && decide (LStg.P0.get x % 2 ^ 13 + n / gD r ≤ gLanes r)

/-- A riser WRITE's row m (R213): the writes go to a mirrored seat's partner (R377). Answers whether one met an uncorrectable word
(R214). -/
def riserRow (s : State) (b c : Nat) (x : BitVec 128) (m : Nat) (row : List W32) : State × Bool :=
  let r := (s.bind b).brec
  let p := rowStore s c m
  let t := p % gTpp r
  let value := LStg.SUB.get x == 3
  match rowEntry (s.bind b).turn m with
  | none => (s, false)
  | some e =>
    match (riserSets s b e).find? (fun y => y.1 == p / gTpp r) with
    | none => (s, false)
    | some (_, f) =>
      (List.range (row.length / gD r)).foldl (fun acc h =>
        let k := setKey s b (f + LStg.P0.get x % 2 ^ 13 + h)
        let bad := (headBytes r value t).filter (fun o => uncorrAt acc.1 (k + o) 1)
        let s := bad.foldl (fun s o => noteUncorr s ((k + o) / 8 * 8) 8 3 (rSeat s (entSlot e)) (some b)) acc.1
        let s := putHead s r value k t ((row.drop (gD r * h)).take (gD r))
        (dupRiser (sendHead s b c k (headBytes r value t)) (entSlot e) k 16384, acc.2 || !bad.isEmpty)) (s, false)

/-- What an epilogue knows of its instruction. -/
structure Epi where
  core : Nat
  binding : Nat
  w : BitVec 256
  stages : List (BitVec 128)
  eps : W32
  quant : Option Nat
  deriving DecidableEq, Repr

/-- The WRITE stage, if any. -/
def Epi.dest (e : Epi) : Option (BitVec 128) := e.stages.find? (fun x => stKind x == 0x19)

/-- Makes the writes that R23 and R72 allow; one that they refuse is left out. Answers whether one was. -/
def putAllowed (b : Nat) (acc : State × Bool) (parts : List (Nat × List Byte)) : State × Bool :=
  parts.foldl (fun a p =>
    let seat := (a.1.bind b).seat
    if partialUncorr a.1 p.1 p.2.length then (noteUncorr a.1 (p.1 / 8 * 8) (wordSpan p.1 p.2.length) 3 seat (some b), true)
    else if writeAllowed a.1 seat p.1 p.2.length then (rawWrite a.1 p.1 p.2, a.2)
    else (a.1.noteWindow seat St.window, true)) acc

/-- Rows of a row block in progress: the state, whether a write has failed, the values. -/
abbrev EpiRows := State × Bool × List (List W32)

/-- One stage before QUANT on the rows of row block mb. A ROWMAX writes its vector, which the stages behind it see (R211). -/
def epiStage (e : Epi) (mb : Nat) (acc : EpiRows) (x : BitVec 128) : EpiRows :=
  if stKind x = 0x11 then
    let r := putAllowed e.binding (acc.1, acc.2.1) (acc.2.2.zipIdx.map (fun y =>
      (scratchKey e.core (LStg.BASE.get x * 64) + 4 * (16 * mb + y.2), bytesOf (rowAmax y.1).toNat 4)))
    (r.1, r.2, acc.2.2)
  else (acc.1, acc.2.1, acc.2.2.zipIdx.map (fun y => stageRow acc.1 e.core e.w e.eps (16 * mb + y.2) y.1 x))

/-- One row's result goes back into the slots, and through QUANT and WRITE (R210, steps 3 and 4). -/
def epiRow (e : Epi) (acc : State × Bool) (m : Nat) (row : List W32) : State × Bool :=
  let s := writeRow e.core e.w m acc.1 row
  match e.dest with
  | none => (s, acc.2)
  | some x =>
    if LStg.SUB.get x ≥ 2 then
      if !riserOk (s.bind e.binding).brec x row.length then (s, true)
      else
        let r := riserRow s e.binding e.core x m row
        (r.1, acc.2 || r.2)
    else putAllowed e.binding (s, acc.2) (writeParts s e.quant (writeDst e.core x) (LStg.PITCH.get x) (mxM e.w) m row)

/-- The rows of one row block: every stage on all of them, then their writes (R211). -/
def epiBlock (e : Epi) (acc : State × Bool) (mb : Nat) : State × Bool :=
  let start : EpiRows := (acc.1, acc.2, (List.range 16).map (fun i => slotRow acc.1 e.core e.w (16 * mb + i)))
  let a := (e.stages.filter (fun x => decide (stKind x < 0x18))).foldl (epiStage e mb) start
  a.2.2.zipIdx.foldl (fun acc y => epiRow e acc (16 * mb + y.2) y.1) (a.1, a.2.1)

/-- Ranges that an epilogue reads: its slots, its stages' operands, the positions where a rotation or a riser WRITE takes
them. -/
def epiReads (e : Epi) : List (Nat × Nat) :=
  mxSlotRange e.core e.w ::
  (if e.stages.any (fun x => stKind x == 0x0D || (stKind x == 0x19 && decide (LStg.SUB.get x ≥ 2))) then
    [(clusterBase e.core + 0x1F7E800, 2048)] else []) ++
  (e.stages.filter (fun x => stKind x != 0x19 && stKind x != 0x11)).flatMap (fun x =>
    (stageRanges e.quant e.w x).map (fun r => (scratchKey e.core r.1, r.2)) ++
    (if stKind x = 0x0B then [(accKey e.core (LStg.P0.get x * 1024), mxBlocks e.w * 1024)] else []))

/-- The epilogue due on a core: its instruction's block steps and finishing are done (R210). -/
def epiDue (s : State) (c : Nat) : Option Epi :=
  match (s.core c).run with
  | none => none
  | some r =>
    if r.finished && layerHolder s == some r.binding then
      some ⟨c, r.binding, r.w, epilogueStages s r.binding r.w,
        BitVec.ofNat 32 (((mxMould s r.binding r.w).map (fun m => LMouldHd.EPS.get (mouldHead m))).getD 0), quantOf s r.binding r.w⟩
    else none

/-- Does a seed still copy into a lane's slot that a riser WRITE would fill, or a flush out of it (R124, R126)? -/
def copiesMeet (s : State) (e : Epi) : Bool :=
  let x := s.bind e.binding
  match e.dest.filter (fun d => decide (LStg.SUB.get d ≥ 2)) with
  | none => false
  | some d =>
    let lanes := (List.range (mxN e.w / gD x.brec)).map (fun h => LStg.P0.get d % 2 ^ 13 + h)
    let open' := fun (c : Copy) => lanes.any (fun l => !c.doneLanes.contains l)
    x.seeds.any (fun c => open' c && x.turn.any (fun t => t.sets.any (fun y => c.dst == .set y.2))) ||
    x.flushes.any (fun c => open' c && x.turn.any (fun t => t.sets.any (fun y => c.src == .set y.2)))

/-- The lanes and rows that an epilogue's riser WRITE has ended (R166, R213). -/
def riserWrote (s : State) (e : Epi) : State :=
  match e.dest.filter (fun d => decide (LStg.SUB.get d ≥ 2)) with
  | none => s
  | some d => s.updBind e.binding (fun x => { x with
      wrote := x.wrote ++ [(LStg.P0.get d % 2 ^ 13, mxN e.w / gD x.brec, LStg.SUB.get d == 3, mxM e.w)] })

/-- The whole epilogue; a write that failed or an uncorrectable element abandons the turn at its end (R214). -/
def epilogue (e : Epi) (s : State) : State :=
  let bad := badRange s (epiReads e)
  let s := match bad with
    | some r => noteUncorr s r.1 r.2 3 (s.bind e.binding).seat (some e.binding)
    | none => noteRanges s (epiReads e)
  let r := (List.range (LMx.MB.get e.w + 1)).foldl (epiBlock e) (s, bad.isSome)
  let s := (r.1.countCore e.core 0x068 (mxBlocks e.w)).updCore e.core (fun x => { x with run := none })
  if r.2 then abandonTurn s e.binding else riserWrote s e

/-- EPILOGUE (R210). -/
def execEpilogue (core : Nat) (s : State) : Host.Outcome State Fault Refusal :=
  act .arith (when (fun _ => coreOk core)
    (fun s => match epiDue s core with
      | some e => if copiesMeet s e then s else epilogue e s
      | none => s)) s

end Sys2Proof.Machine
end

