-- ==== Sys2Proof/Machine/Attention.lean ====
section
/-! DEFINITION. Attention: the walk and its packets, what a row sees, cluster-path partials, the merge in the cluster,
pip weight products (06_attention.md; R401). -/

namespace Sys2Proof.Machine

/-! ## What a row sees (R150 to R154) -/

def turnEnt (s : State) (b e : Nat) : Option TEnt := (s.bind b).turn[e]?

/-- Is node m of a draft tree node i or an ancestor of it (R154)? -/
def isAnc (d : List (Nat × Nat)) (m : Nat) : Nat → Nat → Bool
  | 0, i => m == i
  | n + 1, i => m == i || (i != 0 && isAnc d m n (d.getD (i - 1) (0, 0)).2)

def hasSMask (e : TEnt) : Bool := e.smask != 0#512

/-- Address of the bitmap byte of a structured mask that holds a position for an entry's row (R152). -/
def smaskByte (e : TEnt) (i q : Nat) : Nat :=
  let stride := cdiv (LSMask.SPAN_LEN.get e.smask) 512 * 64
  e.maskAt + 64 + (entK e + i - LSMask.ROW_BASE.get e.smask) * stride +
    (q - LSMask.SPAN_BASE.get e.smask) / 8

def inSpan (e : TEnt) (q : Nat) : Bool :=
  decide (LSMask.SPAN_BASE.get e.smask ≤ q) && decide (q < LSMask.SPAN_BASE.get e.smask + LSMask.SPAN_LEN.get e.smask)

/-- The structured mask's word on a position (R152). -/
def smaskSees (s : State) (e : TEnt) (i q : Nat) : Bool :=
  if q < LSMask.SPAN_BASE.get e.smask then !LSMask.BELOW.on e.smask
  else if !inSpan e q then false
  else (memByte s (keyOf s (smaskByte e i q))).getLsbD ((q - LSMask.SPAN_BASE.get e.smask) % 8)

/-- Does row i of an entry see position q (R150)? -/
def sees (s : State) (b : Nat) (e : TEnt) (i q : Nat) : Bool :=
  let masked := LBindRec.CLASS.on (s.bind b).brec
  decide (q < entK e + entQ e) &&
  if q < entK e then !(masked && hasSMask e) || smaskSees s e i q
  else
    (if masked && entTree e then isAnc e.draft (q - entK e) 64 i else decide (q ≤ entK e + i)) &&
    (!(masked && hasSMask e && inSpan e q) || smaskSees s e i q)

/-- The seat of an entry's request; on a slice member, which holds no request, the binding's. -/
def entSeat (s : State) (b : Nat) (e : TEnt) : Nat := if holdsRequests s b then rSeat s (entSlot e) else (s.bind b).seat

/-- Can every bitmap byte that covers positions of a column, or of the riser behind the full columns, be read for the row
(R153, R170)? -/
def smaskReadable (s : State) (b : Nat) (e : TEnt) (i j : Nat) : Bool :=
  let t := gTpp (s.bind b).brec
  !hasSMask e || (List.range t).all (fun k =>
    !inSpan e (j * t + k) || decide (entK e + entQ e ≤ j * t + k) || canRead s (entSeat s b e) (smaskByte e i (j * t + k)) 1)

/-- The 128 mask bits of a column for a row. -/
def colMask (s : State) (b : Nat) (e : TEnt) (i j : Nat) : BitVec 128 :=
  let t := gTpp (s.bind b).brec
  BitVec.ofNat 128 (((List.range t).map (fun k => if sees s b e i (j * t + k) then 2 ^ k else 0)).foldl (· + ·) 0)

/-! ## Columns and their places (R105, R145, R170) -/

/-- The entry of column j in the request's page table. -/
def colEntry (s : State) (e : TEnt) (j : Nat) : W64 :=
  BitVec.ofNat 64 (viewNat s (keyOf s (LLenEnt.PTBASE.get e.len) + 64 + 8 * j) 8)

def fullCols (s : State) (b : Nat) (e : TEnt) : Nat := entK e / gTpp (s.bind b).brec

/-- The chip and local offset of an address in the ingots of any device, in a pool of the binding: the pip path. -/
def pipPlace (s : State) (b a : Nat) : Option (Nat × Nat) :=
  if (findRun (s.bind b).brec a).isNone then none
  else match placeOf s a with
    | .here off => if off < hmBase then some (ownChip s, off) else none
    | .chip c off => if off < hmBase then some (c, off) else none
    | .companion _ => none

def lanePage (s : State) (e : TEnt) (lane j : Nat) : Nat := ptAddr (colEntry s e j) + lane * 16384

/-- The status with which R20 to R23 end a read of the lane's page for the request's seat. -/
def laneStatus (s : State) (b : Nat) (e : TEnt) (lane j : Nat) : Nat :=
  accessStatus s (entSeat s b e) false (lanePage s e lane j) 16384

/-- The status with which R20 to R23 end the read of a column's page-table entry for the request's seat (R409). -/
def entryStatus (s : State) (b : Nat) (e : TEnt) (j : Nat) : Nat :=
  accessStatus s (entSeat s b e) false (LLenEnt.PTBASE.get e.len + 64 + 8 * j) 8

/-- The FAULT that a column gives its request (R145, R169, R170): 3 no run, 1 a page or its table refused, 2 no route; 0 none. -/
def colFault (s : State) (b : Nat) (e : TEnt) (lane j : Nat) : Nat :=
  if entryStatus s b e j = St.noroute then 2
  else if entryStatus s b e j ≠ St.ok then 1
  else if LPtEnt.KIND.get (colEntry s e j) = 0 then 3
  else if laneStatus s b e lane j = St.noroute then 2
  else if laneStatus s b e lane j ≠ St.ok then 1
  else match pipPlace s b (lanePage s e lane j) with
    | some (c, _) => if reachable s c then 0 else 2
    | none => 0

/-! ## Units and batches (R147, R148, R164) -/

/-- A column that a unit reads on the pip path: its number, chip, ingot, page, and the mask it is sent with. -/
structure ACol where
  j : Nat
  chip : Nat
  ingot : Nat
  page : Nat
  mask : Option (BitVec 128)
  deriving DecidableEq, Repr

/-- One split of one token row, with the columns it reads. -/
structure AUnit where
  row : Nat
  head0 : Nat
  nq : Nat
  cols : List ACol
  deriving DecidableEq, Repr

def nqMax (r : BitVec 8192) : Nat := min 16 (1280 / gD r)
def headsOf (r : BitVec 8192) : Nat := gHQ r / gG r

/-- Is column j of a row read at all: neither it nor its mask bits give the request a failure (R170)? -/
def colReadable (s : State) (b : Nat) (e : TEnt) (lane i j : Nat) : Bool :=
  colFault s b e lane j == 0 && smaskReadable s b e i j

/-- Columns on the pip path that a row of an entry sees, whether they can be read or not: batches are cut from the tables
alone (R164). -/
def rowCols (s : State) (b : Nat) (e : TEnt) (lane i : Nat) : List ACol :=
  (List.range (fullCols s b e)).filterMap (fun j =>
    match pipPlace s b (lanePage s e lane j) with
    | none => none
    | some (c, off) =>
      if LPtEnt.KIND.get (colEntry s e j) = 0 || colMask s b e i j = 0#128 then none
      else some ⟨j, c, off / ingotSize, off % ingotSize / 16384, if hasSMask e then some (colMask s b e i j) else none⟩)

/-- The units of a pair in the order of R148. -/
def pairUnits (s : State) (b : Nat) (e : TEnt) (g lane : Nat) : List AUnit :=
  let r := (s.bind b).brec
  let h := headsOf r
  (List.range (entQ e)).flatMap (fun i =>
    let cols := rowCols s b e lane i
    (List.range (cdiv h (nqMax r))).map (fun k =>
      ⟨entRow e + i, g * h + k * nqMax r, min (nqMax r) (h - k * nqMax r), cols⟩))

def crucibles (l : List ACol) : List (Nat × Nat) := (l.map (fun c => (c.chip, c.ingot))).eraseDups

def unitRow (r : BitVec 8192) (u : AUnit) : Nat := u.nq * (32 + 128 * (gD r / 32))
def unitSize (r : BitVec 8192) (u : AUnit) : Nat := unitRow r u * (crucibles u.cols).length
def halfBytes : Nat := 241664

/-- Cuts columns into runs that lie in at most n crucibles each. -/
def cutCols (n : Nat) (l : List ACol) : List (List ACol) :=
  l.foldl (fun acc c => match acc.getLast? with
    | some run => if (crucibles (run ++ [c])).length ≤ n then acc.dropLast ++ [run ++ [c]] else acc ++ [[c]]
    | none => [[c]]) []

/-- The batches of a pair: units in a row whose sizes fit a half; a unit too large is cut by its columns. -/
def batchesOf (r : BitVec 8192) (l : List AUnit) : List (List AUnit) :=
  let step := fun (acc : List (List AUnit) × Nat × Bool) (u : AUnit) =>
    let z := unitSize r u
    if z > halfBytes then
      (acc.1 ++ (cutCols (halfBytes / unitRow r u) u.cols).map (fun cols => [{ u with cols := cols }]), 0, false)
    else if acc.2.2 && decide (acc.2.1 + z ≤ halfBytes) then
      (acc.1.dropLast ++ [(acc.1.getLast?.getD []) ++ [u]], acc.2.1 + z, true)
    else (acc.1 ++ [[u]], z, true)
  ((l.filter (fun u => !u.cols.isEmpty)).foldl step ([], 0, false)).1

/-! ## Query vectors and head outputs (R144, R401) -/

def walkLane (w : BitVec 1024) (g : Nat) : Nat := (w.extractLsb' 0 13).toNat + g
def spanBase (cl : Nat) : Nat := sramBase + cl * 0x4000000

/-- Where the query vectors, and the outputs, of a row and head lie in the cluster's span (log entry 31). -/
def queryKey (r : BitVec 8192) (w : BitVec 1024) (cl row head : Nat) : Nat :=
  spanBase cl + (w.extractLsb' 32 32).toNat + (row * gHQ r + head) * gD r * 4
def outputKey (r : BitVec 8192) (w : BitVec 1024) (cl row head : Nat) : Nat :=
  spanBase cl + (w.extractLsb' 64 32).toNat + (row * gHQ r + head) * gD r * 4

/-- c of R158: the FP32 value nearest to log2(e) ÷ √D. -/
def scoreScale (d : Nat) : W32 :=
  let log2e := fixDiv fixOne fixLn2
  let root : Int := (isqrt (d * 2 ^ (2 * fixP)) : Nat)
  enc32 (.fin false (fixDiv log2e root).toNat (-(fixP : Int))) true

/-- The scaled query vector of a row and head. -/
def scaledQuery (s : State) (b : Nat) (w : BitVec 1024) (cl row head : Nat) : List W32 :=
  let r := (s.bind b).brec
  let c := scoreScale (gD r)
  (List.range (gD r)).map (fun d => f32Mul (BitVec.ofNat 32 (readNat s (queryKey r w cl row head + 4 * d) 4)) c)

/-! ## Packets of a batch (R146, R148, R157) -/

def attnTag (layer e g : Nat) : Nat := (setAll 0#16 [(LTag.GROUP, g), (LTag.ENTRY, e), (LTag.PARITY, layer % 2)]).toNat

/-- An attention descriptor (R146). -/
def attnDesc (s : State) (b : Nat) (e : TEnt) (cl tag qid : Nat) (u : AUnit) (c : ACol) : BitVec 256 :=
  let r := (s.bind b).brec
  setAll 0#256 [(LDesc.FMT, b2n (gKv4 r)), (LDesc.PROG, (s.bind b).images.headD 0), (LDesc.SEAT, entSeat s b e),
    (LDesc.PAGE, c.page), (LDesc.INGOT, c.ingot), (LDesc.PAGE_SEQ, c.j), (LDesc.SLOT, entSlot e), (LDesc.QROW0, u.row),
    (LDesc.NQ, u.nq), (LDesc.HEAD0, u.head0), (LDesc.VALID, gTpp r), (LDesc.TPP, LBindRec.TPP.get r), (LDesc.VOFF, gVoff r),
    (LDesc.KSOFF, gKsoff r), (LDesc.VSOFF, gVsoff r), (LDesc.DIMQ, gD r / 32), (LDesc.QID, qid), (LDesc.ISSUER, ownChip s),
    (LDesc.CLUSTER, cl), (LDesc.TAG, tag)]

/-- A QUERY to a crucible; the control core notes the entry that it serves (R155, R169). -/
def sendQuery (s : State) (b en seat cl chip ingot qid : Nat) (vectors : List W32) : State :=
  sendDisp (s.setCluster cl { s.cluster cl with served := Tab.set (s.cluster cl).served 256 qid en }) (some (.entry b en)) cl chip ingot seat
    (pktHdr s 3 ingot cl qid vectors.length 0) vectors

/-- What sending a batch has done so far: the state, and the unit whose vectors each entry of each crucible holds. -/
structure Sending where
  s : State
  held : List ((Nat × Nat) × Nat × Nat)
  deriving DecidableEq, Repr

/-- Sends one descriptor of unit k, its query vectors first where the entry does not hold them (log entry 31). -/
def sendDesc (b en : Nat) (e : TEnt) (w : BitVec 1024) (cl tag k : Nat) (u : AUnit) (acc : Sending) (c : ACol) : Sending :=
  let s := acc.s
  let seat := entSeat s b e
  let qid := 6 * cl + k % 6
  let at' := (c.chip, c.ingot)
  let holds := acc.held.any (fun h => h.1 == at' && h.2.1 == qid && h.2.2 == k)
  let vectors := (List.range u.nq).flatMap (fun h => scaledQuery s b w cl u.row (u.head0 + h))
  let s := if holds then s else sendQuery s b en seat cl c.chip c.ingot qid vectors
  let d := attnDesc s b e cl tag qid u c
  let body := match c.mask with
    | some m => wordsOf d.toNat 8 ++ wordsOf m.toNat 4
    | none => wordsOf d.toNat 8
  let s := sendDisp s (some (.entry b en)) cl c.chip c.ingot seat (pktHdr s (if c.mask.isSome then 2 else 1) c.ingot cl 0 0 0) body
  let s := s.countBind b BC.attnDesc 1
  let s := if c.chip = ownChip s then s else s.countBind b BC.attnRemote 1
  ⟨s, (at', qid, k) :: acc.held.filter (fun h => !(h.1 == at' && h.2.1 == qid))⟩

/-- The run of a column takes the running turn as its LASTREAD (R116). -/
def setLastRead (s : State) (b : Nat) (e : TEnt) (j : Nat) : State :=
  match findRun (s.bind b).brec (ptAddr (colEntry s e j)) with
  | some (p, i) => s.updBind b (fun x => updRunRec x p i [(LRunRec.LASTREAD, bTurn x + 1)])
  | none => s

/-- A batch's units with the columns that are read: no descriptor is sent for another (R170). -/
def readUnits (s : State) (b : Nat) (e : TEnt) (lane : Nat) (l : List AUnit) : List AUnit :=
  l.map (fun u => { u with cols := u.cols.filter (fun c => colReadable s b e lane (u.row - entRow e) c.j) })

/-- Sends the packets of one batch: per column, rows and splits in order; then a CLOSE to each crucible. -/
def sendBatch (s : State) (b : Nat) (e : TEnt) (w : BitVec 1024) (cl layer en g half : Nat) (l : List AUnit) : State :=
  let tag := attnTag layer en g
  let l := readUnits s b e (walkLane w g) l
  let js := (List.range (fullCols s b e)).filter (fun j => l.any (fun u => u.cols.any (fun c => c.j == j)))
  let s := js.foldl (fun s j => setLastRead s b e j) s
  let items := js.flatMap (fun j => (List.range l.length).filterMap (fun k =>
    match l[k]? with
    | some u => (u.cols.find? (fun c => c.j == j)).map (fun c => (k, u, c))
    | none => none))
  let s := (items.foldl (fun acc x => sendDesc b en e w cl tag x.1 x.2.1 acc x.2.2) ⟨s, []⟩).s
  (crucibles (items.map (fun x => x.2.2))).foldl (fun s p =>
    let mine := items.filter (fun x => x.2.2.chip == p.1 && x.2.2.ingot == p.2)
    let rows := (mine.flatMap (fun x => (List.range x.2.1.nq).map (fun h => (x.2.1.row, x.2.1.head0 + h)))).eraseDups
    let s := sendDisp s (some (.entry b en)) cl p.1 p.2 (entSeat s b e) (pktHdr s 4 p.2 cl tag mine.length 0) []
    let c := s.cluster cl
    let used := if c.used.contains (layer, p.1, p.2) then c.used else c.used ++ [(layer, p.1, p.2)]
    s.setCluster cl { c with awaits := c.awaits ++ [⟨layer, en, g, p.1, p.2, tag, half, rows, now s, tierTimeout s⟩], used := used }) s

/-! ## The walk (R144, R148, R164, R168, R170) -/

/-- Next batch of a pair that a cluster has still to send. -/
def nextBatch (c : Cluster) (layer e g : Nat) : Option Nat :=
  (c.walks.find? (fun w => w.layer == layer && w.entry == e && w.group == g)).map (·.next)

/-- Has the cluster sent every batch of every pair it walks in the layer? -/
def layerWalked (s : State) (b cl layer : Nat) : Bool :=
  let r := (s.bind b).brec
  (List.range (s.bind b).turn.length).all (fun e => (List.range (gG r)).all (fun g =>
    pairCluster r e g != cl ||
    match turnEnt s b e, walkRecord s b cl layer, nextBatch (s.cluster cl) layer e g with
    | some t, some w, some n => decide ((batchesOf r (pairUnits s b t g (walkLane w g))).length ≤ n)
    | _, _, _ => false))

/-- Are the batches of every pair that the cluster walks before pair (en, g) of the layer sent (R148)? -/
def earlierSent (s : State) (b cl layer en g : Nat) (w : BitVec 1024) : Bool :=
  let r := (s.bind b).brec
  (List.range (en + 1)).all (fun e => (List.range (gG r)).all (fun h =>
    pairCluster r e h != cl || (e == en && decide (g ≤ h)) ||
    match turnEnt s b e with
    | some t => decide ((batchesOf r (pairUnits s b t h (walkLane w h))).length ≤ (nextBatch (s.cluster cl) layer e h).getD 0)
    | none => true))

/-- Does a batch that a cluster has still to send in a layer use a crucible? -/
def crucibleWanted (s : State) (b cl layer chip ingot : Nat) : Bool :=
  let r := (s.bind b).brec
  (List.range (s.bind b).turn.length).any (fun e => (List.range (gG r)).any (fun g =>
    pairCluster r e g == cl &&
    match turnEnt s b e, walkRecord s b cl layer with
    | some t, some w =>
      let lane := walkLane w g
      ((batchesOf r (pairUnits s b t g lane)).drop ((nextBatch (s.cluster cl) layer e g).getD 0)).any (fun l =>
        (readUnits s b t lane l).any (fun u => (crucibles u.cols).contains (chip, ingot)))
    | _, _ => false))

/-- Sends the RELEASEs of crucibles from which the cluster holds every triple that it expects in the layer (R168). -/
def sendReleases (s : State) (b cl : Nat) : State :=
  let c := s.cluster cl
  let ended := fun (u : Nat × Nat × Nat) => !c.awaits.any (fun a => a.layer == u.1 && a.chip == u.2.1 && a.ingot == u.2.2) &&
    !crucibleWanted s b cl u.1 u.2.1 u.2.2
  (c.used.filter ended).foldl (fun s u =>
    releaseTo (s.setCluster cl { s.cluster cl with used := (s.cluster cl).used.filter (· != u) }) b cl u.2.1 u.2.2 u.1) s

/-- Faults that a pair's columns and mask rows give the entry's request. -/
def pairFaults (s : State) (b : Nat) (e : TEnt) (lane : Nat) : Nat :=
  let cols := (List.range (fullCols s b e)).map (fun j => colFault s b e lane j)
  let masks := (List.range (entQ e)).any (fun i =>
    (List.range (cdiv (entK e + entQ e) (gTpp (s.bind b).brec))).any (fun j => !smaskReadable s b e i j))
  if cols.contains 3 then 3 else if cols.contains 1 || masks then 1 else if cols.contains 2 then 2 else 0

def markFault (s : State) (b : Nat) (e : TEnt) (detail : Nat) : State :=
  if detail = 0 || e.fault ≠ 0 then s
  else
    let s := failSlot s b (entSlot e) detail
    let s := if detail = 3 then s.countBind b BC.colMissing 1 else s
    if detail = 2 then countTier s b (entSlot e) else s

/-- Does a page that the pair reads still take a flush (R124)? -/
def pairFlushing (s : State) (b : Nat) (e : TEnt) (lane : Nat) : Bool :=
  (List.range (fullCols s b e)).any (fun j =>
    (s.bind b).flushes.any (fun c => c.dst == .run (ptAddr (colEntry s e j)) && !c.doneLanes.contains lane))

/-- Does a seed still copy into a lane's slot of the entry's sets (R126)? -/
def seedHeld (s : State) (b : Nat) (e : TEnt) (lane : Nat) : Bool :=
  (s.bind b).seeds.any (fun c => e.sets.any (fun t => c.dst == .set t.2) && !c.doneLanes.contains lane)

/-- The control core waits for a copy (R124, R126). -/
def awaitCopy (s : State) (cl en lane : Nat) (riser : Bool) : State :=
  s.setCluster cl { s.cluster cl with copyWait := some (en, lane, riser) }

/-- Does a cluster's control core wait for a copy of the turn's binding? -/
def copyMeets (s : State) (b : Nat) (x : Cluster) : Bool :=
  x.copyWait.any (fun w => (turnEnt s b w.1).any (fun e =>
    if w.2.2 then seedHeld s b e w.2.1 else pairFlushing s b e w.2.1))

/-- Where the query vectors of a batch's units lie. -/
def queryRanges (s : State) (b : Nat) (w : BitVec 1024) (cl : Nat) (l : List AUnit) : List (Nat × Nat) :=
  let r := (s.bind b).brec
  l.map (fun u => (queryKey r w cl u.row u.head0, u.nq * gD r * 4))

/-- Runs work of a cluster that reads query vectors: of FP32 words at aligned addresses of its memory, within the seat's windows and
outside the areas the device owns (R20, R22, R23, R46), that can be read (R471). -/
def withQueries (s : State) (b : Nat) (l : List (Nat × Nat)) (f : State → State) : State :=
  let st := rangesStatus s (s.bind b).seat false 4 l
  if st ≠ St.ok then s.noteWindow (s.bind b).seat st else withRanges s b l f

/-! ### The inbox's halves and its fold area (R164) -/

/-- A half is free when every triple of the batch that last used it has been folded. -/
def halfBusy (c : Cluster) (half : Nat) : Bool := c.awaits.any (fun a => a.half == half) || c.inbox.any (fun p => p.place == half)

/-- Inserts a partial in ascending FIRST_SEQ. -/
def insPart (p : Partial) : List Partial → List Partial
  | [] => [p]
  | q :: rest => if p.first < q.first then p :: q :: rest else q :: insPart p rest

def partTrip (p : Partial) : Trip := ⟨p.empty, p.m, p.l, p.o⟩

/-- The fold of partials in ascending FIRST_SEQ (R161, R167). -/
def foldParts (l : List Partial) : Trip := foldTrips ((l.foldl (fun l p => insPart p l) []).map partTrip)

/-- Operations that the control core has the vector engine of the cluster's first core perform count there (R231; the manual
does not say which core's: DESIGN CHOICE, log entry 81): n folds of a triple, or one operation on it. -/
def countFolds (cl n : Nat) (t : Trip) (s : State) : State :=
  (s.countCore (8 * cl) 0x048 n).countCore (8 * cl) 0x050 (n * t.o.length)
def countFinal (cl : Nat) (t : Trip) (s : State) : State := countFolds cl 1 t s

/-- Is column j of the entry read on the cluster path by row i? -/
def clusterCol (s : State) (b : Nat) (e : TEnt) (lane i j : Nat) : Bool :=
  decide (j < fullCols s b e) && (pipPlace s b (lanePage s e lane j)).isNone && colReadable s b e lane i j &&
  colMask s b e i j != 0#128

/-- Is the partial that of a pair's row and head? -/
def isPart (layer en g row head : Nat) (p : Partial) : Bool :=
  p.layer == layer && p.entry == en && p.group == g && p.row == row && p.head == head

/-- Does the cluster hold a row and head's partial of a FIRST_SEQ, on its own or in the unit's running fold? -/
def partDone (c : Cluster) (layer en g row head first : Nat) : Bool :=
  c.inbox.any (fun p => isPart layer en g row head p && (p.first == first || (p.place == 2 && decide (first ≤ p.first))))

/-- Where a batch goes on with the unit of the batch before it: that unit, and the batch's first column. -/
def cutBefore (batches : List (List AUnit)) (n : Nat) : Option (AUnit × Nat) :=
  match batches[n - 1]?, batches[n]? with
  | some [u], some [v] =>
    if 0 < n && u.row == v.row && u.head0 == v.head0 then some (u, ((v.cols.head?).map (·.j)).getD 0) else none
  | _, _ => none

/-- Heads of a unit. -/
def unitHeads (u : AUnit) : List Nat := (List.range u.nq).map (u.head0 + ·)

/-- Units whose running folds stand in the fold area: layer, entry, group, row, split. -/
def foldUnits (r : BitVec 8192) (c : Cluster) : List (Nat × Nat × Nat × Nat × Nat) :=
  ((c.inbox.filter (fun p => p.place == 2)).map (fun p =>
    (p.layer, p.entry, p.group, p.row, (p.head - p.group * headsOf r) / nqMax r))).eraseDups

/-- Folds a row and head's triples and partials below a column into the unit's running fold, in ascending FIRST_SEQ (R167). -/
def foldHead (cl layer en g row upto : Nat) (s : State) (head : Nat) : State :=
  let c := s.cluster cl
  let mine := fun (p : Partial) => isPart layer en g row head p && decide (p.first < upto)
  if !c.inbox.any mine then s
  else
    let t := foldParts (c.inbox.filter mine)
    (countFolds cl ((c.inbox.filter mine).length - 1) t s).setCluster cl { c with
      inbox := c.inbox.filter (fun p => !mine p) ++ [⟨layer, en, g, row, head, upto - 1, t.empty, t.m, t.l, t.o, 2⟩] }

/-- May a cut unit's batch be folded: its triples and the cluster-path partials below the next batch's first column have come,
and the fold area has room? -/
def cutReady (s : State) (b cl layer en g lane : Nat) (e : TEnt) (u : AUnit) (upto : Nat) : Bool :=
  let c := s.cluster cl
  let r := (s.bind b).brec
  let units := foldUnits r c
  (unitHeads u).all (fun h =>
    !c.awaits.any (fun a => a.layer == layer && a.entry == en && a.group == g && a.rows.contains (u.row, h)) &&
    (e.fault != 0 || (List.range upto).all (fun j =>
      !clusterCol s b e lane (u.row - entRow e) j || partDone c layer en g u.row h j))) &&
  (units.contains (layer, en, g, u.row, (u.head0 - g * headsOf r) / nqMax r) || decide (units.length < 2))

/-- Columns of a pair for which no packet can be routed: each completes with E_NOROUTE (R169). -/
def noteNoroute (s : State) (b cl lane : Nat) (e : TEnt) : State :=
  ((List.range (fullCols s b e)).filter (fun j => colFault s b e lane j == 2)).foldl (fun s j =>
    s.emit (.done (0x1000 + cl) (j % 65536) St.noroute [])) s

/-- Accesses of a pair that R23 refuses: pages of its columns, bitmap bytes of its rows' columns (R170, R427). -/
def pairRefusals (s : State) (b : Nat) (e : TEnt) (lane : Nat) : Nat :=
  let t := gTpp (s.bind b).brec
  let mask := fun (i j : Nat) => hasSMask e && (List.range t).any (fun k => inSpan e (j * t + k) && decide (j * t + k < entK e + entQ e) &&
    !inSeat s (entSeat s b e) (smaskByte e i (j * t + k)) 1)
  ((List.range (fullCols s b e)).filter (fun j => entryStatus s b e j == St.window ||
    LPtEnt.KIND.get (colEntry s e j) != 0 && laneStatus s b e lane j == St.window)).length +
  sumNat ((List.range (entQ e)).map (fun i => ((List.range (cdiv (entK e + entQ e) t)).filter (mask i)).length))

/-- What a pair's walk notes as it begins: pages without a route, refused accesses. -/
def notePair (s : State) (b cl lane : Nat) (e : TEnt) : State :=
  (noteNoroute s b cl lane e).countSeat (entSeat s b e) 0x310 (pairRefusals s b e lane)

/-- Has the control core of a cluster come to a record: are the cluster's records before it on the turn's path begun, its walks among
them done (R401)? -/
def clusterReached (s : State) (b cl i : Nat) : Bool :=
  (pathRecords s b).all (fun r => decide (i ≤ r.1) || lpCluster r.2 != cl ||
    (if lpKind r.2 = 6 then layerWalked s b cl (lpLayer r.2) else recordBegun s b r))

/-- The number of a layer's walk in a cluster. -/
def walkNumber (s : State) (b cl layer : Nat) : Nat :=
  (((pathRecords s b).find? (fun r => lpKind r.2 == 6 && lpLayer r.2 == layer && lpCluster r.2 == cl)).map (·.1)).getD 0

/-- ATTENTION_WALK: the next batch of one pair, when its half of the inbox is free and a cut unit's batch before it folded. -/
def attentionWalk (b cl layer en g : Nat) (e : TEnt) (w : BitVec 1024) (s : State) : State :=
  let r := (s.bind b).brec
  let lane := walkLane w g
  let c := s.cluster cl
  let half := if c.layer = layer then c.half else 0
  let n := (nextBatch c layer en g).getD 0
  let batches := batchesOf r (pairUnits s b e g lane)
  let walked := fun (s : State) => s.setCluster cl { s.cluster cl with wants := none, copyWait := none, walks :=
    ((s.cluster cl).walks.filter (fun x => !(x.layer == layer && x.entry == en && x.group == g))) ++ [⟨layer, en, g, n + 1⟩] }
  let finish := fun (s : State) =>
    sendReleases (markFault (if n = 0 then notePair s b cl lane e else s) b e (pairFaults s b e lane)) b cl
  let cut := cutBefore batches n
  match batches[n]? with
  | none => finish (walked s)
  | some l =>
    if halfBusy c half then s.setCluster cl { c with wants := some half }
    else if cut.any (fun x => !cutReady s b cl layer en g lane e x.1 x.2) then
      s.setCluster cl { c with wants := some (1 - half) }
    else withQueries s b (queryRanges s b w cl l) (fun s =>
      let s := match cut with
        | some (u, upto) => (unitHeads u).foldl (foldHead cl layer en g u.row upto) s
        | none => s
      let s := walked s
      finish (sendBatch (s.setCluster cl { s.cluster cl with layer := layer, half := 1 - half }) b e w cl layer en g half l))

/-- The turn in Layers, the entry and the walk record that a pair's command names. -/
def pairOf (s : State) (cl layer en g : Nat) : Option (Nat × TEnt × BitVec 1024) :=
  (layerHolder s).bind (fun b =>
    if cl < 32 && g < gG (s.bind b).brec && pairCluster (s.bind b).brec en g == cl then
      (turnEnt s b en).bind (fun e => (walkRecord s b cl layer).map (fun w => (b, e, w)))
    else none)

def execAttentionWalk (cluster layer entry group : Nat) (s : State) : Host.Outcome State Fault Refusal :=
  act .arith (fun s =>
    match pairOf s cluster layer entry group with
    | some (b, e, w) =>
      if !earlierSent s b cluster layer entry group w || !clusterReached s b cluster (walkNumber s b cluster layer) then s
      else if pairFlushing s b e (walkLane w group) then awaitCopy s cluster entry (walkLane w group) false
      else attentionWalk b cluster layer entry group e w s
    | none => s) s

/-! ## Merged triples at the cluster (R162 to R164, R170) -/

/-- A triple of a group that the cluster awaits. -/
def takeTriple (b cl : Nat) (a : Await) (h : BitVec 256) (payload : List W32) (s : State) : State :=
  let row := LRec.QROW.get h
  let head := LRec.HEAD.get h
  let c := s.cluster cl
  let left := a.rows.filter (fun p => p != (row, head))
  let awaits := c.awaits.filterMap (fun x => if x == a then (if left.isEmpty then none else some { a with rows := left }) else some x)
  let s := if LRec.STATUS.get h ≠ 0 then
      s.setCluster cl { c with awaits := awaits }
    else
      s.setCluster cl { c with awaits := awaits, inbox := c.inbox ++ [⟨a.layer, a.entry, a.group, row, head, LMrg.FIRST_SEQ.get h,
        LRec.EMPTY.on h, BitVec.ofNat 32 (LRec.M.get h), BitVec.ofNat 32 (LRec.L.get h), payload, a.half⟩] }
  let s := match turnEnt s b a.entry with
    | some e => if LRec.STATUS.get h ≠ 0 then markFault s b e 1 else s
    | none => s
  sendReleases s b cl

/-- A record that is no merged triple: a descriptor that another chip's crucible refused or that failed (R94, R97). -/
def takeOther (b : Nat) (h : BitVec 256) (s : State) : State :=
  let st := LRec.STATUS.get h
  if st = 0 then s
  else if LRec.KIND.on h then abandonTurn s b
  else match turnEnt s b (LRec.TAG.get h / 32 % 256) with
    | some e => markFault s b e 1
    | none => s

/-- MERGED_TRIPLE (R164). -/
def execMergedTriple (cluster : Nat) (hdr : BitVec 256) (payload : List W32) (s : State) : Host.Outcome State Fault Refusal :=
  act .arith (fun s =>
    match layerHolder s with
    | none => s
    | some b =>
      if LMrg.MERGED.on hdr && !LRec.KIND.on hdr then
        match (s.cluster cluster).awaits.find? (fun a => a.chip == LMrg.CHIP.get hdr && a.ingot == LMrg.INGOT.get hdr &&
            a.tag == LRec.TAG.get hdr && a.rows.contains (LRec.QROW.get hdr, LRec.HEAD.get hdr)) with
        | some a => takeTriple b cluster a hdr payload s
        | none => s
      else takeOther b hdr s) s

/-- MERGE_TIMEOUT (R170, R256): the rows still missing tier_timeout after the CLOSE end their request; the crucible's one
RELEASE for the layer follows as its last group has come or is given up (R168; DEDUCED, log entry 82). -/
def execMergeTimeout (cluster ingot tag : Nat) (s : State) : Host.Outcome State Fault Refusal :=
  act .arith (fun s =>
    match layerHolder s, (s.cluster cluster).awaits.find? (fun a => a.ingot == ingot && a.tag == tag &&
        decide (a.closed + a.limit ≤ now s)) with
    | some b, some a =>
      let c := s.cluster cluster
      let s := s.setCluster cluster { c with awaits := c.awaits.filter (· != a) }
      let s := s.countBind b BC.mergeTimeout ((a.rows.map (·.1)).eraseDups).length
      let s := match turnEnt s b a.entry with
        | some e => markFault s b e 2
        | none => s
      sendReleases s b cluster
    | _, _ => s) s

/-! ## Cluster-path partials (R165, R166) -/

/-- Key and value elements and scales of a page (R82, R106). -/
def kElem (s : State) (r : BitVec 8192) (k t d : Nat) : Num :=
  if gKv4 r then decE2m1 (readElem s r k (keyNib r t d)) else decE4m3 (readElem s r k (keyNib r t d))
def vElem (s : State) (r : BitVec 8192) (k t d : Nat) : Num :=
  if gKv4 r then decE2m1 (readElem s r k (valNib r t d)) else decE4m3 (readElem s r k (valNib r t d))
def scaleNum (r : BitVec 8192) (b : Byte) : Num := if gKv4 r then decE4m3 b.toNat else decE8 b.toNat
def blockSize (r : BitVec 8192) : Nat := if gKv4 r then 16 else 32

/-- The score of one entry (R165, step 1). -/
def scoreOf (s : State) (r : BitVec 8192) (q : List W32) (k t : Nat) : W32 :=
  let z := blockSize r
  (List.range (gBlocks r)).foldl (fun acc b =>
    let part := (List.range z).foldl (fun p i => numFma (kElem s r k t (b * z + i)) (dec32 (q.getD (b * z + i) 0#32)) p) 0#32
    numFma (dec32 part) (scaleNum r (memByte s (k + keyScaleOff r t b))) acc) 0#32

/-- The partial over entries given as (page key, entry) in ascending position (R165). -/
def partialOf (s : State) (r : BitVec 8192) (q : List W32) (l : List (Nat × Nat)) : Trip :=
  if l.isEmpty then ⟨true, 0xFF800000#32, 0#32, []⟩
  else
    let sc := l.map (fun e => scoreOf s r q e.1 e.2)
    let m := sc.foldl f32Max 0xFF800000#32
    let ps := sc.map (fun x => f32Exp2 (f32Sub x m))
    let sum := ps.foldl f32Add 0#32
    let o := (List.range (gD r)).map (fun d =>
      (List.zip l ps).foldl (fun acc x =>
        let w := f32Mul x.2 (enc32 (scaleNum r (memByte s (x.1.1 + valScaleOff r x.1.2 (d / blockSize r)))))
        numFma (vElem s r x.1.1 x.1.2 d) (dec32 w) acc) 0#32)
    ⟨false, m, sum, o⟩

/-- Positions of the riser that a row sees, as (slot key, entry); those of no set are left out. -/
def riserEntries (s : State) (b : Nat) (e : TEnt) (lane i : Nat) : List (Nat × Nat) :=
  let t := gTpp (s.bind b).brec
  let first := entK e / t * t
  let sets := riserSets s b e
  ((List.range (entK e + entQ e - first)).map (· + first)).filterMap (fun p =>
    if sees s b e i p then (sets.find? (fun x => x.1 == p / t)).map (fun x => (setKey s b (x.2 + lane), p % t)) else none)

/-- Positions of a fetched column that a row sees. -/
def columnEntries (s : State) (b : Nat) (e : TEnt) (lane i j : Nat) : List (Nat × Nat) :=
  let t := gTpp (s.bind b).brec
  (List.range t).filterMap (fun k =>
    if sees s b e i (j * t + k) then some (laneKey s b (ptAddr (colEntry s e j)) lane, k) else none)

/-- A partial that the cluster has computed stands in cluster memory, outside the inbox's areas; the vector engine of the
cluster's first core has done one operation (R231; DESIGN CHOICE, log entry 81). -/
def putPartial (s : State) (cl layer en g row head first : Nat) (t : Trip) : State :=
  let c := s.cluster cl
  (countFinal cl t s).setCluster cl { c with inbox := c.inbox ++ [⟨layer, en, g, row, head, first, t.empty, t.m, t.l, t.o, 3⟩] }

/-- The partial of one fetched column: the page is read for the request's seat; an uncorrectable word ends it (R170). -/
def columnPartial (b cl layer en g row head j : Nat) (e : TEnt) (w : BitVec 1024) (s : State) : State :=
  let r := (s.bind b).brec
  let lane := walkLane w g
  let i := row - entRow e
  let k := laneKey s b (ptAddr (colEntry s e j)) lane
  let c := s.cluster cl
  let s := if c.fetched.contains (layer, en, g, j) then s
    else (s.countBind b BC.colFetched 1).setCluster cl { c with fetched := c.fetched ++ [(layer, en, g, j)] }
  if uncorrAt s k 16384 then markFault (noteUncorr s k 16384 0 (entSeat s b e) (some b)) b e 1
  else
    let s := setLastRead (noteCorr s k 16384 false) b e j
    putPartial s cl layer en g row head j (partialOf s r (scaledQuery s b w cl row head) (columnEntries s b e lane i j))

/-- Can row i's mask bits on the riser's positions be read (R170)? -/
def riserReadable (s : State) (b : Nat) (e : TEnt) (i : Nat) : Bool :=
  let full := fullCols s b e
  (List.range (cdiv (entK e + entQ e) (gTpp (s.bind b).brec) - full)).all (fun k => smaskReadable s b e i (full + k))

/-- The partial of the request's riser positions. -/
def riserPartial (b cl layer en g row head : Nat) (e : TEnt) (w : BitVec 1024) (s : State) : State :=
  let r := (s.bind b).brec
  let lane := walkLane w g
  let l := riserEntries s b e lane (row - entRow e)
  let bad := (l.map (·.1)).eraseDups.find? (fun k => uncorrAt s k 16384)
  match bad with
  | some k => markFault (noteUncorr s k 16384 3 (entSeat s b e) (some b)) b e 1
  | none => putPartial s cl layer en g row head (fullCols s b e) (partialOf s r (scaledQuery s b w cl row head) l)

/-- Does a row and head lie in the entry and group? -/
def rowHead (r : BitVec 8192) (e : TEnt) (g row head : Nat) : Bool :=
  decide (entRow e ≤ row) && decide (row < entRow e + entQ e) && head / headsOf r == g

/-- Does the turn's layer program have this device write a lane's keys, or values? -/
def laneMine (s : State) (b lane : Nat) (value : Bool) : Bool :=
  (pathRecords s b).any (fun r => lpKind r.2 == 1 &&
    (epilogueStages s b (lpBody256 r.2)).any (fun x => stKind x == 0x19 && LStg.SUB.get x == (if value then 3 else 2) &&
      decide (LStg.P0.get x % 2 ^ 13 ≤ lane) && decide (lane < LStg.P0.get x % 2 ^ 13 + mxN (lpBody256 r.2) / gD (s.bind b).brec)))

/-- Are the lane's keys, or values, of the entry's rows written into the riser (R166)? Of a slice's devices each writes the lanes that its
program names; of another's lane this device learns by the program's collective steps (log entry 77). -/
def laneWritten (s : State) (b : Nat) (e : TEnt) (lane : Nat) (value : Bool) : Bool :=
  (sliceBinding s b && !laneMine s b lane value) || (s.bind b).wrote.any (fun x => decide (x.1 ≤ lane) && decide (lane < x.1 + x.2.1) && x.2.2.1 == value &&
    decide (entRow e + entQ e ≤ x.2.2.2))

/-- Must a riser partial wait: for copies into the entry's sets (R126), or for the layer's keys and values (R166)? -/
def riserHeld (s : State) (b : Nat) (e : TEnt) (lane : Nat) : Bool :=
  seedHeld s b e lane || !laneWritten s b e lane false || !laneWritten s b e lane true

/-- CLUSTER_PATH_PARTIAL: one partial, once. -/
def execClusterPathPartial (cluster layer entry group row head : Nat) (col : Option Nat) (s : State) :
    Host.Outcome State Fault Refusal :=
  act .arith (fun s =>
    match pairOf s cluster layer entry group with
    | none => s
    | some (b, e, w) =>
      let lane := walkLane w group
      let first := col.getD (fullCols s b e)
      let c := s.cluster cluster
      let query := [(queryKey (s.bind b).brec w cluster row head, gD (s.bind b).brec * 4)]
      if !rowHead (s.bind b).brec e group row head || partDone c layer entry group row head first ||
          c.heads.contains (layer, row, head) then s
      else match col with
        | some j =>
          if pairFlushing s b e lane then awaitCopy s cluster entry lane false
          else if clusterCol s b e lane (row - entRow e) j then
            withQueries s b query (columnPartial b cluster layer entry group row head j e w)
          else markFault s b e (if j < fullCols s b e then colFault s b e lane j else 0)
        | none =>
          if seedHeld s b e lane then awaitCopy s cluster entry lane true
          else if riserHeld s b e lane || (riserSets s b e).isEmpty || !riserReadable s b e (row - entRow e) then s
          else withQueries s b query (riserPartial b cluster layer entry group row head e w)) s

/-! ## Head outputs (R167) -/

/-- Are the batches that hold the unit of a row and head all sent? -/
def unitSent (s : State) (b cl layer en g row head : Nat) (e : TEnt) (w : BitVec 1024) : Bool :=
  let batches := batchesOf (s.bind b).brec (pairUnits s b e g (walkLane w g))
  let rest := batches.drop ((nextBatch (s.cluster cl) layer en g).getD 0)
  !rest.any (fun l => l.any (fun u => u.row == row && (unitHeads u).contains head))

/-- Have all triples and partials of a row and head come? A failed request's row goes on without those it lacks. -/
def headReady (s : State) (b cl layer en g row head : Nat) (e : TEnt) (w : BitVec 1024) : Bool :=
  let c := s.cluster cl
  let lane := walkLane w g
  let have' := partDone c layer en g row head
  (nextBatch c layer en g).isSome && unitSent s b cl layer en g row head e w && !c.heads.contains (layer, row, head) &&
  !c.awaits.any (fun a => a.layer == layer && a.entry == en && a.group == g && a.rows.contains (row, head)) &&
  (e.fault != 0 || (((riserSets s b e).isEmpty || have' (fullCols s b e)) &&
    (List.range (fullCols s b e)).all (fun j => !clusterCol s b e lane (row - entRow e) j || have' j)))

/-- A head's output: O ÷ L; an EMPTY row gives +0.0. -/
def headBytesOut (d : Nat) (t : Trip) : List Byte :=
  (if t.empty then List.replicate d 0#32 else t.o.map (fun x => f32Div x t.l)).flatMap (fun x => bytesOf x.toNat 4)

/-- Folds in ascending FIRST_SEQ and writes the output, where R23 and R46 allow it. -/
def headOutput (b cl layer en g row head : Nat) (w : BitVec 1024) (s : State) : State :=
  let r := (s.bind b).brec
  let c := s.cluster cl
  let mine := isPart layer en g row head
  let t := foldParts (c.inbox.filter mine)
  let k := outputKey r w cl row head
  let n := gD r * 4
  if partialUncorr s k n then engineFault s b (k, n)
  else
    let s := (countFinal cl t (countFolds cl ((c.inbox.filter mine).length - 1) t s)).setCluster cl { c with
      inbox := c.inbox.filter (fun p => !mine p), heads := c.heads ++ [(layer, row, head)] }
    let st := rangesStatus s (s.bind b).seat true 4 [(k, n)]
    let s := if st = St.ok then rawWrite s k (headBytesOut (gD r) t) else s.noteWindow (s.bind b).seat st
    sendReleases (if t.empty then s.countBind b BC.emptyRows 1 else s) b cl

def execHeadOutput (cluster layer entry group row head : Nat) (s : State) : Host.Outcome State Fault Refusal :=
  act .arith (fun s =>
    match pairOf s cluster layer entry group with
    | none => s
    | some (b, e, w) =>
      if rowHead (s.bind b).brec e group row head && headReady s b cluster layer entry group row head e w then
        headOutput b cluster layer entry group row head w s
      else s) s

/-! ## Pip weight products (R401) -/

/-- The descriptor of page k of a weight-product record: this device and cluster issue it for the binding's seat (R409), its image's slot
runs it. -/
def weightDesc (s : State) (b cl : Nat) (w : BitVec 1024) (k : Nat) : BitVec 256 :=
  let d := lpBody256 w
  setAll d [(LDesc.PROG, (s.bind b).images.getD (LDesc.PROG.get d) 0), (LDesc.PAGE, LDesc.PAGE.get d + k),
    (LDesc.PAGE_SEQ, LDesc.PAGE_SEQ.get d + k), (LDesc.ISSUER, ownChip s), (LDesc.CLUSTER, cl), (LDesc.SEAT, (s.bind b).seat)]

/-- The status of a weight page for the binding's seat (R20 to R23). -/
def weightStatus (s : State) (d : BitVec 256) : Nat :=
  accessStatus s (LDesc.SEAT.get d) (LDesc.WRITE.on d) (devAddr s (pageKey (LDesc.INGOT.get d) (LDesc.PAGE.get d))) 16384

/-- Is a weight-product record the next of its cluster on the pip path, and its layer's attention finished where it stands before it
(R41, R42, R401)? -/
def productNext (s : State) (b cl i : Nat) (w : BitVec 1024) : Bool :=
  decide (i < LBindRec.LPLEN.get (s.bind b).brec) && lpKind w == 5 && lpCluster w == cl && lpPath w != 1 &&
  LTurnBlk.PATH.get (s.bind b).blk == 1 && !(s.cluster cl).products.contains i && clusterReached s b cl i &&
  !projectionWaits s b i (lpLayer w)

/-- The descriptors of a weight-product record, one a page, leave for the crucibles of its pages, which the layer's end releases (R65). -/
def sendProducts (s : State) (cl i : Nat) (w : BitVec 1024) (ds : List (BitVec 256)) : State :=
  let c := s.cluster cl
  let held := (c.weights ++ ds.map (fun d => (lpLayer w, LDesc.INGOT.get d))).eraseDups
  let s := s.setCluster cl { c with wlayer := lpLayer w, products := c.products ++ [i], weights := held }
  ds.foldl (fun s d => s.emit (.dispatch (ownChip s) (LDesc.INGOT.get d) (pktHdr s 1 (LDesc.INGOT.get d) cl 0 0 0)
    (wordsOf d.toNat 8))) s

/-- PIP_WEIGHT_PRODUCT: each page is checked by R23; a refused one is counted and abandons the turn (R97, R427). -/
def execPipWeightProduct (cluster record : Nat) (s : State) : Host.Outcome State Fault Refusal :=
  act .arith (fun s =>
    match layerHolder s with
    | none => s
    | some b =>
      let w := lpRecord s (s.bind b).brec record
      if !productNext s b cluster record w then s
      else
        let ds := (List.range (w.extractLsb' 256 32).toNat).map (weightDesc s b cluster w)
        let bad := ds.filter (fun d => weightStatus s d != St.ok)
        if bad.isEmpty then sendProducts s cluster record w ds
        else abandonTurn (bad.foldl (fun s d => s.noteWindow (s.bind b).seat (weightStatus s d)) s) b) s

end Sys2Proof.Machine
end

