-- ==== Sys2Proof/Machine/Binding.lean ====
section
/-! DEFINITION. BIND, its variants and CLEAR, UNBIND, MOULD, and pip images (15_mailboxes.md R399 to R404, R101, R114,
R139 to R142, R309). -/

namespace Sys2Proof.Machine

/-! ## Pip images (R100, R101) -/

def imgHead (s : State) (a : Nat) : BitVec 128 := BitVec.ofNat 128 (viewNat s (keyOf s a) 16)
def imgWord (s : State) (a i : Nat) : W32 := BitVec.ofNat 32 (viewNat s (keyOf s a + 16 + 4 * i) 4)
def imgBytes (h : BitVec 128) : Nat := 16 + 4 * LPipImg.LEN.get h
/-- Bytes of the whole image, its signature among them. -/
def imgSize (h : BitVec 128) : Nat := imgBytes h + (if LPipImg.SIGNED.on h then 384 else 0)

def imgDigest (s : State) (a : Nat) : List Byte := sha256 (viewBytes s (keyOf s a) (imgBytes (imgHead s a)))

def isBranch (w : W32) : Bool := decide (0x18 ≤ pipOp w) && decide (pipOp w ≤ 0x1B)

/-- The target of a branch at word i (R84): the word's address plus sext(X). -/
def branchTarget (w : W32) (i : Nat) : Int := (i : Int) + (pipSextX w).toInt

/-- The static checks of R101. -/
def imgStatic (words : List W32) (writes : Bool) : Bool :=
  let n := words.length
  let at' := fun (i : Nat) => words.getD i 0#32
  (List.range n).all (fun i =>
    let w := at' i
    pipWordOk w &&
    (!isBranch w || (decide (0 ≤ branchTarget w i) && decide (branchTarget w i < n))) &&
    (pipOp w != 0x21 || writes) &&
    (pipOp w != 0x1C ||
      (decide (i + pipX w % 256 < n) && (List.range (pipX w % 256)).all (fun j =>
        let v := at' (i + 1 + j)
        pipOp v != 0x1C && !isBranch v && pipOp v != 0x02)))) &&
  (match words.getLast? with
    | some w => pipOp w == 0x02 || (pipOp w == 0x18 && pipA w == pipB w)
    | none => false)

/-- Checks 1 to 3 of R101. -/
def imgStatus (s : State) (seat a : Nat) : Nat :=
  let h := imgHead s a
  let n := LPipImg.LEN.get h
  if !rsvZero LPipImg.rsv h || n < 1 || n > 1024 then St.pipverify
  else if LPipImg.SIGNED.on h &&
      !rsaVerify (s.boot.keyBlock.extractLsb' 0 3072).toNat (viewNat s (keyOf s a + imgBytes h) 384) (imgDigest s a) then
    St.signature
  else if !LPipImg.SIGNED.on h && (!LSeatCfg.PIP_OWN.on (s.seat seat).cfg || LPipImg.WRITES.on h) then St.denied
  else if !imgStatic ((List.range n).map (imgWord s a)) (LPipImg.WRITES.on h) then St.pipverify
  else St.ok

/-- Does an accepted descriptor name the program slot? Then it is not written (R101). -/
def slotNamed (s : State) (k : Nat) : Bool :=
  s.pips.any (fun e => (e.2.running && LDesc.PROG.get e.2.cur.desc == k) || e.2.queue.any (fun d => LDesc.PROG.get d.desc == k))

def pipSlotReset : PipSlot := ⟨0, 0, 0#256, false, 0, []⟩
def pipSlot (s : State) (k : Nat) : PipSlot := Tab.get s.pipSlots pipSlotReset k
def setPipSlot (s : State) (k : Nat) (x : PipSlot) : State := { s with pipSlots := Tab.set s.pipSlots pipSlotReset k x }

/-- The runs of instruction memory in use: those of slots that are loaded or that an accepted descriptor still names (R101). -/
def imemUsed (s : State) : List (Nat × Nat) :=
  (s.pipSlots.filter (fun e => !e.2.uses.isEmpty || slotNamed s e.1)).map (fun e => (e.2.base, e.2.len))

/-- The lowest free run of n words of instruction memory. -/
def imemGap (s : State) (n : Nat) : Option Nat := gapFrom (imemUsed s) n 1024 ((imemUsed s).length + 1) 0

/-- Loads an image into a slot for a binding, or shares the slot of an equal image (R101, check 4). -/
def loadImage (s : State) (b a : Nat) : Option (State × Nat) :=
  let h := imgHead s a
  let d := BitVec.ofNat 256 (ofBytes (imgDigest s a))
  match (List.range 16).find? (fun k => !(pipSlot s k).uses.isEmpty && (pipSlot s k).digest == d) with
  | some k => some (setPipSlot s k { pipSlot s k with uses := b :: (pipSlot s k).uses }, k)
  | none =>
    match (List.range 16).find? (fun k => (pipSlot s k).uses.isEmpty && !slotNamed s k), imemGap s (LPipImg.LEN.get h) with
    | some k, some base =>
      let s := setPipSlot s k ⟨base, LPipImg.LEN.get h, d, LPipImg.WRITES.on h, LPipImg.VERSION.get h, [b]⟩
      some ((List.range (LPipImg.LEN.get h)).foldl (fun s i =>
        { s with imem := Tab.set s.imem 0#32 (base + i) (imgWord s a i) }) s, k)
    | _, _ => none

/-- Removes a binding's uses of its slots; a slot without uses is freed. -/
def freeImages (s : State) (b : Nat) : State :=
  (List.range 16).foldl (fun s k =>
    let x := pipSlot s k
    if x.uses.contains b then setPipSlot s k { x with uses := x.uses.filter (· != b) } else s) s

/-! ## LOAD (R400, R402) -/

def dSet : List Nat := [32, 64, 96, 128, 160, 192, 224, 256]

/-- Field ranges of the bind record (R37, R41, R104, R107, R191, R305, R400). -/
def recRanges (r : BitVec 8192) : Bool :=
  let get := fun (f : Fld) => f.get r
  rsvZero LBindRec.rsv r && decide (1 ≤ get LBindRec.LAYERS) && decide (get LBindRec.LAYERS ≤ 254) &&
  decide (1 ≤ get LBindRec.G) && decide (get LBindRec.G ≤ 32) && decide (1 ≤ get LBindRec.HQ) &&
  decide (get LBindRec.HQ ≤ 128) && get LBindRec.HQ % get LBindRec.G == 0 && dSet.contains (get LBindRec.D) &&
  decide (get LBindRec.TPP ≤ 4) && decide (64 * gVsoff r + gTpp r * gBlocks r ≤ 0x3E00) &&
  decide (1 ≤ get LBindRec.STEP_WIDTH) && decide (get LBindRec.STEP_WIDTH ≤ 256) && decide (get LBindRec.PIP_TOKENS ≤ 16) &&
  get LBindRec.SPRUE_INT % 16 == 0 && decide (16 ≤ get LBindRec.SPRUE_INT) && decide (get LBindRec.SPRUE_INT ≤ 4096) &&
  decide (2 ≤ get LBindRec.VOCAB) && decide (get LBindRec.VOCAB ≤ 262144) && decide (1 ≤ get LBindRec.DRAFT_MISS) &&
  decide (1 ≤ get LBindRec.DRAFT_REST) && decide (get LBindRec.LEADIN ≤ 16) && decide (get LBindRec.NEND ≤ 16) &&
  get LBindRec.LPROG % 128 == 0 && decide (1 ≤ get LBindRec.LPLEN) && decide (get LBindRec.LPLEN ≤ 1048576) &&
  (get LBindRec.LEADIN != 0 || get LBindRec.LOBJ == 0)

/-- The record's areas beyond NPOOL, NIMG and NEND, and its reserved bytes, hold 0. -/
def recTails (r : BitVec 8192) : Bool :=
  let zero := fun (byte len : Nat) => (r >>> (8 * byte)).toNat % 2 ^ (8 * len) == 0
  let np := poolCount r
  let ni := LBindRec.NIMG.get r + 1
  (List.range np).all (fun p => zero (64 + 16 * p + 12) 4) && zero (64 + 16 * np) (256 - 16 * np) &&
  zero (320 + 8 * ni) (32 - 8 * ni) && zero (352 + 4 * LBindRec.NEND.get r) (64 - 4 * LBindRec.NEND.get r) &&
  zero 416 608

/-- Runs of every loaded binding. -/
def loadedRuns (s : State) : Nat :=
  sumNat ((loadedBinds s).map (fun b => sumNat ((List.range (poolCount (s.bind b).brec)).map (poolRuns (s.bind b).brec))))

/-- The checks of R114, and R239's of the pools and the weight set. -/
def recObjects (s : State) (seat b : Nat) (r : BitVec 8192) : Bool :=
  let pools := (List.range (poolCount r)).map (fun p => (poolBase r p, poolRuns r p))
  let bytes := fun (n : Nat) => n * runBytes r
  let others := (loadedBinds s).flatMap (fun k =>
    (List.range (poolCount (s.bind k).brec)).map (fun p => (poolBase (s.bind k).brec p,
      poolRuns (s.bind k).brec p * runBytes (s.bind k).brec)))
  let w := s.obj (LBindRec.WOBJ.get r)
  pools.all (fun p => decide (1 ≤ p.2) && p.1 % 16384 == 0 && decide (p.1 / 2 ^ 52 = 0) &&
    decide (p.1 % 2 ^ 40 + bytes p.2 ≤ hmBase) &&
    p.1 % 2 ^ 40 / ingotSize == (p.1 % 2 ^ 40 + bytes p.2 - 1) / ingotSize &&
    !(others.any (fun o => overlaps p.1 (bytes p.2) o.1 o.2)) &&
    (objList s).any (fun n =>
      let o := s.obj n
      LObj.KIND.get o == 3 && LObj.STATE.get o == 1 && LObj.SEAT.get o == seat && LObj.BOUND.on o &&
      LObj.BINDING.get o == b && decide (LObj.WORK.get o ≤ p.1) &&
      decide (p.1 + bytes p.2 ≤ LObj.WORK.get o + LObj.TILES.get o * 16384))) &&
  decide (loadedRuns s + sumNat (pools.map (·.2)) ≤ 8388608) &&
  LObj.KIND.get w == 1 && LObj.STATE.get w == 1 && LObj.SEAT.get w == seat && LObj.BOUND.on w && LObj.BINDING.get w == b

def imageAddrs (r : BitVec 8192) : List Nat := (List.range (LBindRec.NIMG.get r + 1)).map (imageAddr r)

/-- Addresses that the record names lie in the seat's windows (R402, check 3). -/
def recWindows (s : State) (seat : Nat) (r : BitVec 8192) : Bool :=
  (List.range (poolCount r)).all (fun p => inSeat s seat (poolBase r p) (poolRuns r p * runBytes r)) &&
  (imageAddrs r).all (fun a => inSeat s seat a 16 && inSeat s seat a (imgSize (imgHead s a))) &&
  inSeat s seat (LBindRec.LPROG.get r) (128 * LBindRec.LPLEN.get r) &&
  (LBindRec.NMOULD.get r == 0 || inSeat s seat (LBindRec.MOULDS.get r) (144 * LBindRec.NMOULD.get r))

/-- The mould records that LOAD reads, in their 144-byte slots. -/
def recMoulds (s : State) (r : BitVec 8192) : List (BitVec 1152) :=
  (List.range (LBindRec.NMOULD.get r)).map (fun i =>
    BitVec.ofNat 1152 (viewNat s (keyOf s (LBindRec.MOULDS.get r) + 144 * i) 144))

/-- What LOAD reads: its address and bytes. -/
def recReads (s : State) (r : BitVec 8192) : List (Nat × Nat) :=
  (LBindRec.LPROG.get r, 128 * LBindRec.LPLEN.get r) ::
  (if LBindRec.NMOULD.get r = 0 then [] else [(LBindRec.MOULDS.get r, 144 * LBindRec.NMOULD.get r)]) ++
  (imageAddrs r).map (fun a => (a, imgSize (imgHead s a)))

/-- Why a range that LOAD reads by 8-byte words gives no data (R20 to R22, R73; log entry 70), or success. -/
def recStatus (s : State) (seat : Nat) (r : BitVec 8192) : Nat :=
  ((recReads s r).map (fun x => firstFail [(wordsStatus s seat x.1 x.2 != St.ok, wordsStatus s seat x.1 x.2),
    (extStatus s (keyOf s x.1) x.2 false != St.ok, extStatus s (keyOf s x.1) x.2 false)])).find? (· != St.ok) |>.getD St.ok

/-- What reads of the banker count and correct (R73, R79): an uncorrectable word, or the words corrected. -/
def noteReads (s : State) (seat : Nat) (l : List (Nat × Nat)) : State :=
  l.foldl (fun s x =>
    if uncorrSeen s (keyOf s x.1) x.2 then noteUncorr s (keyOf s x.1) x.2 0 seat none else noteCorr s (keyOf s x.1) x.2 false) s

/-- Checks 5 and 6 of R402 against the layer program. -/
def programStatus (s : State) (seat : Nat) (r : BitVec 8192) : Nat :=
  let moulds := recMoulds s r
  let recs := lpRecords s r
  let mmas := (recs.filter (fun w => lpKind w == 1 && LMx.OP.get (lpBody256 w) == 1)).map (fun w => (lpCore w, lpBody256 w))
  let m1 := (moulds.map (fun m =>
    firstFail [(mouldStatus r m != St.ok, mouldStatus r m),
      (mmas.any (fun x => LMx.MOULD.get x.2 == mouldNumber m && mouldUse m x != St.ok),
        ((mmas.filter (fun x => LMx.MOULD.get x.2 == mouldNumber m)).map (mouldUse m)).find? (· != 0) |>.getD 0)])).find? (· != 0)
  let loaded := fun n => moulds.any (fun m => mouldNumber m == n)
  let ins := (recs.map (fun w =>
    if lpKind w = 1 && !mxOk loaded (lpBody256 w) then St.mxinstr
    else if lpKind w = 2 && !(vxForm (lpCore w) (lpBody256 w) && vxWindows s seat (lpCluster w) (lpBody256 w)) then St.vxinstr
    else if lpKind w = 3 && !collOk s (lpCluster w / 8) (lpBody512 w) then St.range
    else 0)).find? (· != 0)
  firstFail [(m1.isSome, m1.getD 0), (ins.isSome, ins.getD 0)]

/-- Tiles in use in the remainder area of base die n: first tile, tiles. -/
def areaUsed (s : State) : List (Nat × Nat) :=
  (objList s).flatMap (fun o => (objRanges s o).map (fun r => (r.1 / 16384, r.2))) ++
  (loadedBinds s).flatMap (fun b => (s.bind b).logit.map (fun t => (t, logitTiles (s.bind b).brec)))

/-- The lowest free range of n tiles on base die d. -/
def areaGap (s : State) (extra : List (Nat × Nat)) (d n : Nat) : Option Nat :=
  let used := areaUsed s ++ extra
  gapFrom used n ((bdBase d + 0x80000000) / 16384) (used.length + 1) ((bdBase d + hmFixed s) / 16384)

/-- The four logit areas and the four lead-in areas of a record (R309, R402). -/
def recAreas (s : State) (r : BitVec 8192) : Option (List Nat × List Nat) :=
  let logit := (List.range 4).filterMap (fun d => areaGap s [] d (logitTiles r))
  let taken := logit.map (fun t => (t, logitTiles r))
  let lead := if LBindRec.LEADIN.get r = 0 then []
    else (List.range 4).filterMap (fun d => areaGap s taken d (512 * LBindRec.LEADIN.get r))
  if logit.length = 4 && (LBindRec.LEADIN.get r = 0 || lead.length = 4) then some (logit, lead) else none

/-- Loads every image of a record, ascending; the first failure's status. -/
def loadImages (seat b : Nat) : List Nat → State × List Nat → Except Nat (State × List Nat)
  | [], acc => .ok acc
  | a :: rest, (s, ks) =>
    if imgStatus s seat a ≠ St.ok then .error (imgStatus s seat a)
    else
      match loadImage s b a with
      | none => .error St.pipfull
      | some (s, k) => loadImages seat b rest (s, ks ++ [k])

/-- An accepted LOAD (R402). -/
def loadBinding (s : State) (seat b : Nat) (r : BitVec 8192) (images logit lead : List Nat) : State :=
  let tiles := 4 * logitTiles r + 2048 * LBindRec.LEADIN.get r
  let moulds : Tab (BitVec 1152) := (recMoulds s r).foldl (fun t m => Tab.set t 0#1152 (mouldNumber m) m) []
  let s := s.setBind b { Bind.reset with loaded := true, seat := seat, brec := r, moulds := moulds, logit := logit,
                                         leadArea := lead, images := images }
  let s := s.updSeat seat (fun x => { x with
    usage := Tab.upd x.usage 0 2 (· + tiles),
    bnd := setAll x.bnd [(LSeatBnd.ATTACHED, LSeatBnd.ATTACHED.get x.bnd ||| 2 ^ b), (LSeatBnd.OWNS, LSeatBnd.OWNS.get x.bnd ||| 2 ^ b)] })
  if LBindRec.LEADIN.get r = 0 then s
  else s.setObj (LBindRec.LOBJ.get r) (setAll 0#512 [(LObj.KIND, 6), (LObj.STATE, 1), (LObj.SEAT, seat), (LObj.BINDING, b),
    (LObj.BOUND, 1), (LObj.WTIER, 1), (LObj.TILES, 2048 * LBindRec.LEADIN.get r),
    (LObj.WORK, ownChip s * 2 ^ 40 + lead.headD 0 * 16384)])

/-- BIND's own fields: RSV bits, fields that OP does not use. -/
def bindForm (c : Cmd) : Bool :=
  let op := LBindCmd.OP.get c.body
  rsvZero LBindCmd.rsv c.body && !bodyAbove c 128 && decide (1 ≤ op) && decide (op ≤ 4) &&
  (op == 2 || (LBindCmd.VLEN.get c.body == 0 && LBindCmd.VPT.get c.body == 0)) &&
  (op == 2 || op == 3 || LBindCmd.VARIANT.get c.body == 0)

def opBindLoad (c : Cmd) (s : State) : State × Nat :=
  let b := LBindCmd.BINDING.get c.body
  let r := c.payload.extractLsb' 0 8192
  let lead := LBindRec.LEADIN.get r
  if !(bindForm c && recRanges r && recTails r && recObjects s c.seat b r) || !(lpRecords s r).all (lpForm r) then (s, St.range)
  else if (s.bind b).loaded || (lead ≠ 0 && LObj.KIND.get (s.obj (LBindRec.LOBJ.get r)) != 0) then (s, St.busy)
  else if !recWindows s c.seat r then (s, St.window)
  else if recStatus s c.seat r ≠ St.ok then (noteReads s c.seat (recReads s r), recStatus s c.seat r)
  else
    let s := noteReads s c.seat (recReads s r)
    match loadImages c.seat b (imageAddrs r) (s, []) with
    | .error st => (s, st)
    | .ok (s', images) =>
      let st := programStatus s c.seat r
      let tiles := 4 * logitTiles r + 2048 * lead
      if st ≠ St.ok then (s, st)
      else if tiles > Tab.get (s.seat c.seat).quota 0 2 - quotaUsed s c.seat 1 then (s.countSeat c.seat 0x308 1, St.quota)
      else
        match recAreas s r with
        | none => (s, St.nospace)
        | some (logit, area) => (loadBinding s' c.seat b r images logit area, St.ok)

/-! ## Variants and CLEAR (R140 to R142, R403) -/

/-- Runs that a variant's page table names: pool, number; none where an entry does not fit. -/
def variantRuns (s : State) (r : BitVec 8192) (vlen vpt : Nat) : Option (List (Nat × Nat)) :=
  let l := (List.range (cdiv vlen (gTpp r))).map (fun j =>
    let w : W64 := BitVec.ofNat 64 (viewNat s (keyOf s (vpt + 8 * j)) 8)
    if LPtEnt.KIND.get w = 3 then findRun r (ptAddr w) else none)
  if l.all (·.isSome) then some (l.filterMap id) else none

def ownerOk (s : State) (b seat : Nat) : Bool := seat == 0 || (s.bind b).seat == seat

def opVariantAdd (c : Cmd) (s : State) : State × Nat :=
  let b := LBindCmd.BINDING.get c.body
  let v := LBindCmd.VARIANT.get c.body
  let x := s.bind b
  let vlen := LBindCmd.VLEN.get c.body
  let vpt := LBindCmd.VPT.get c.body
  if !x.loaded then (s, St.noobj)
  else if !ownerOk s b c.seat then (s, St.denied)
  else if !bindForm c then (s, St.range)
  else if (Tab.get x.variants ⟨0, 0⟩ v).vlen ≠ 0 then (s, St.busy)
  else if !inSeat s c.seat vpt (8 * cdiv vlen (gTpp x.brec)) then (s, St.window)
  else if vlen < 1 || vlen > 65536 then (s, St.range)
  else if wordsStatus s c.seat vpt (8 * cdiv vlen (gTpp x.brec)) ≠ St.ok then (s, wordsStatus s c.seat vpt (8 * cdiv vlen (gTpp x.brec)))
  else if extStatus s (keyOf s vpt) (8 * cdiv vlen (gTpp x.brec)) false ≠ St.ok then
    (noteReads s c.seat [(vpt, 8 * cdiv vlen (gTpp x.brec))], extStatus s (keyOf s vpt) (8 * cdiv vlen (gTpp x.brec)) false)
  else
    let s := noteReads s c.seat [(vpt, 8 * cdiv vlen (gTpp x.brec))]
    match variantRuns s x.brec vlen vpt with
    | none => (s, St.range)
    | some runs =>
      let x := { x with variants := Tab.set x.variants ⟨0, 0⟩ v ⟨vlen, vpt⟩ }
      (s.setBind b (runs.foldl (fun x r => updRunRec (pinFree x r.1 r.2) r.1 r.2 [(LRunRec.PINNED, 1)]) x), St.ok)

def opVariantRemove (c : Cmd) (s : State) : State × Nat :=
  let b := LBindCmd.BINDING.get c.body
  let v := LBindCmd.VARIANT.get c.body
  let x := s.bind b
  let old := Tab.get x.variants ⟨0, 0⟩ v
  if !x.loaded then (s, St.noobj)
  else if !ownerOk s b c.seat then (s, St.denied)
  else if !bindForm c then (s, St.range)
  else if old.vlen = 0 then (s, St.noobj)
  else if (bindSlots s b).any (fun n => rState s n != RS.done && LEnt.VAR_ON.on (s.req n) && LEnt.VARIANT.get (s.req n) == v) then
    (s, St.busy)
  else
    let runs := (variantRuns s x.brec old.vlen old.vpt).getD []
    let s := s.setBind b { x with variants := Tab.set x.variants ⟨0, 0⟩ v ⟨0, 0⟩ }
    let s := runs.foldl (fun s r => looseRun (s.updBind b (fun x => updRunRec x r.1 r.2 [(LRunRec.PINNED, 0)])) b r.1 r.2) s
    (closeAll s (loadedBinds s), St.ok)

def opBindClear (c : Cmd) (s : State) : State × Nat :=
  let b := LBindCmd.BINDING.get c.body
  let x := s.bind b
  if !x.loaded then (s, St.noobj)
  else if !ownerOk s b c.seat then (s, St.denied)
  else if !bindForm c then (s, St.range)
  else if !bFaulted x then (s, St.state)
  else if LObj.STATE.get (s.obj (LBindRec.WOBJ.get x.brec)) ≠ 1 then (s, St.busy)
  else (closeIdle (s.updBind b (fun x => { x with blk := LTurnBlk.FAULTED.set x.blk 0 })) b, St.ok)

/-- BIND (R399). -/
def opBind : CmdOp := fun c s =>
  let (s, st) := match LBindCmd.OP.get c.body with
    | 1 => opBindLoad c s
    | 2 => opVariantAdd c s
    | 3 => opVariantRemove c s
    | 4 => opBindClear c s
    | _ => (s, St.range)
  (s, Rsp.of st)

/-! ## UNBIND and MOULD -/

def unbindStatus (s : State) (c : Cmd) : Nat :=
  let b := (c.body.extractLsb' 0 4).toNat
  firstFail [
    (!(s.bind b).loaded, St.noobj), (!ownerOk s b c.seat, St.denied), (bodyAbove c 4, St.range),
    ((bindSlots s b).any (fun n => rState s n != RS.done), St.busy)]

/-- The binding is removed (R53, R139, R239, R265, R412). -/
def unbind (s : State) (b : Nat) : State :=
  let x := s.bind b
  let r := x.brec
  let s := (bindSlots s b).foldl freeEntry s
  let s := freeImages s b
  let s := (objList s).foldl (fun s n =>
    if LObj.KIND.get (s.obj n) = 6 && LObj.BINDING.get (s.obj n) == b then (s.setObj n 0#512).setOx n ObjX.reset
    else if LObj.KIND.get (s.obj n) = 1 && LObj.BOUND.on (s.obj n) && LObj.BINDING.get (s.obj n) == b then
      freeKept s n
    else s) s
  let s := s.updSeat x.seat (fun y => { y with
    usage := Tab.upd y.usage 0 2 (· - (4 * logitTiles r + 2048 * LBindRec.LEADIN.get r)) })
  let s := (List.range 64).foldl (fun s n => s.updSeat n (fun y => { y with
    bnd := setAll y.bnd [(LSeatBnd.ATTACHED, LSeatBnd.ATTACHED.get y.bnd &&& (65535 - 2 ^ b)),
      (LSeatBnd.OWNS, LSeatBnd.OWNS.get y.bnd &&& (65535 - 2 ^ b))] })) s
  s.setBind b Bind.reset

/-- UNBIND (R398, R53). -/
def opUnbind : CmdOp := fun c s =>
  let b := (c.body.extractLsb' 0 4).toNat
  if unbindStatus s c ≠ St.ok then (s, Rsp.of (unbindStatus s c)) else (unbind s b, Rsp.of St.ok)

/-- The layer program's MMAs that name a mould, with their local cores. -/
def mouldUsers (s : State) (r : BitVec 8192) (n : Nat) : List (Nat × BitVec 256) :=
  ((lpRecords s r).filter (fun w => lpKind w == 1 && LMx.OP.get (lpBody256 w) == 1 && LMx.MOULD.get (lpBody256 w) == n)).map
    (fun w => (lpCore w, lpBody256 w))

/-- MOULD (R404). -/
def opMould : CmdOp := fun c s =>
  let b := (c.body.extractLsb' 0 4).toNat
  let x := s.bind b
  let full := c.payload.extractLsb' 0 1152
  let m : BitVec 1152 := BitVec.ofNat 1152 (full.toNat % 2 ^ (128 + 128 * min 8 (LMouldHd.NSTAGE.get (mouldHead full))))
  let st := firstFail [
    (!x.loaded, St.noobj), (!ownerOk s b c.seat, St.denied), (bodyAbove c 4, St.range),
    (mouldStatus x.brec m != St.ok, mouldStatus x.brec m),
    ((mouldUsers s x.brec (mouldNumber m)).any (fun i => mouldUse m i != St.ok),
      (((mouldUsers s x.brec (mouldNumber m)).map (mouldUse m)).find? (· != 0)).getD 0)]
  if st ≠ St.ok then (s, Rsp.of st)
  else (s.setBind b { x with moulds := Tab.set x.moulds 0#1152 (mouldNumber m) m }, Rsp.of St.ok)

/-! ## The rows -/

def execBindLoad (c : Cmd) (s : State) : Host.Outcome State Fault Refusal := cmdRow 0x0011 (bodyOp 1) opBind c s
def execVariantAdd (c : Cmd) (s : State) : Host.Outcome State Fault Refusal := cmdRow 0x0011 (bodyOp 2) opBind c s
def execVariantRemove (c : Cmd) (s : State) : Host.Outcome State Fault Refusal := cmdRow 0x0011 (bodyOp 3) opBind c s
def execBindClear (c : Cmd) (s : State) : Host.Outcome State Fault Refusal := cmdRow 0x0011 (bodyOp 4) opBind c s
def execUnbind (c : Cmd) (s : State) : Host.Outcome State Fault Refusal := cmdRow 0x0012 (fun _ => true) opUnbind c s
def execMould (c : Cmd) (s : State) : Host.Outcome State Fault Refusal := cmdRow 0x0013 (fun _ => true) opMould c s

end Sys2Proof.Machine
end

