-- ==== Sys2Proof/Machine/Regs.lean ====
section
/-! DEFINITION. The control space: its regions, who may read and write them, their bytes, and what a write does
(15_mailboxes.md R383 to R387, R396, R397 and the register rules of the other chapters); accesses over the Avkin link. -/

namespace Sys2Proof.Machine

/-! ## Regions (R383) -/

inductive Reg where
  | mbox | mbCtrl | irq | dev | port | mirror | turn | seat | crucible | core | bindCtr | object | stake | histSeat
  | histStake | request
  deriving DecidableEq, Repr

/-- A region: its first offset, its size, the size of one of its records. -/
structure RegRange where
  reg : Reg
  base : Nat
  size : Nat
  stride : Nat
  deriving DecidableEq, Repr

def regions : List RegRange := [
  ⟨.mbox, 0x0, 0x100000, 0x1000⟩, ⟨.mbCtrl, 0x100000, 0x800, 8⟩, ⟨.irq, 0x100800, 0x200, 8⟩,
  ⟨.dev, 0x101000, 0x1000, 0x1000⟩, ⟨.port, 0x102000, 0x600, 0x100⟩, ⟨.mirror, 0x103000, 0x1000, 0x40⟩,
  ⟨.turn, 0x104000, 0x200, 0x20⟩, ⟨.seat, 0x110000, 0x10000, 0x400⟩, ⟨.crucible, 0x120000, 0x10000, 0x1000⟩,
  ⟨.core, 0x130000, 0x10000, 0x100⟩, ⟨.bindCtr, 0x140000, 0x10000, 0x1000⟩, ⟨.object, 0x200000, 0x40000, 0x40⟩,
  ⟨.stake, 0x240000, 0x40000, 0x40⟩, ⟨.histSeat, 0x280000, 0x10000, 0x400⟩, ⟨.histStake, 0x290000, 0x400000, 0x400⟩,
  ⟨.request, 0x800000, 0x200000, 0x80⟩]

/-- A place in the control space: region, record, offset in the record. -/
structure RegAt where
  reg : Reg
  idx : Nat
  off : Nat
  deriving DecidableEq, Repr

def regAt (off : Nat) : Option RegAt :=
  (regions.find? (fun r => decide (r.base ≤ off) && decide (off < r.base + r.size))).map (fun r =>
    ⟨r.reg, (off - r.base) / r.stride, (off - r.base) % r.stride⟩)

/-! ## Bytes (R3) -/

/-- Byte i of a register. -/
def bv8 {n : Nat} (x : BitVec n) (i : Nat) : Byte := x.extractLsb' (8 * i) 8

/-- Byte i of a number. -/
def nat8 (v i : Nat) : Byte := BitVec.ofNat 8 (v / 256 ^ i)

/-- The byte at offset o of a block of 8-byte counters numbered by their offsets. -/
def ctr8 (t : Tab W64) (o : Nat) : Byte := bv8 (Tab.get t 0#64 (o / 8 * 8)) (o % 8)

def mboxByte (m : Mbox) (o : Nat) : Byte :=
  if o < 0x100 then bv8 m.req o else if o < 0x200 then bv8 m.rsp (o - 0x100) else bv8 m.payload (o - 0x200)

/-- The last entry that the error log's place j holds (R486). -/
def errPlace (s : State) (j : Nat) : ErrEnt :=
  if s.bank.errLog.length ≤ j then 0#256 else s.bank.errLog.getD (j + (s.bank.errLog.length - 1 - j) / 32 * 32) 0#256

/-- The device page (R383, R484 to R486). -/
def devByte (s : State) (o : Nat) : Byte :=
  if o < 0x008 then bv8 s.fab.fabId o
  else if o < 0x010 then 0#8
  else if o < 0x018 then bv8 s.bank.collTimeout (o - 0x010)
  else if o < 0x020 then 0#8
  else if o < 0x028 then bv8 s.bank.tierCfg (o - 0x020)
  else if o < 0x030 then bv8 s.clk.cfg (o - 0x028)
  else if o < 0x038 then bv8 s.clk.status (o - 0x030)
  else if o < 0x040 then bv8 s.bank.ageClock (o - 0x038)
  else if o < 0x080 then bv8 (Tab.get s.bank.ctr 0#64 ((o - 0x040) / 8)) (o % 8)
  else if o < 0x088 then bv8 s.bank.events (o - 0x080)
  else if o < 0x090 then bv8 s.bank.commands (o - 0x088)
  else if o < 0x100 then 0#8
  else if o < 0x110 then bv8 s.fab.slice (o - 0x100)
  else if o < 0x130 then ctr8 s.fab.sliceCtr (o - 0x100)
  else if o < 0x200 then 0#8
  else if o < 0x300 then (if o % 0x40 < 0x28 then ctr8 s.bank.ctr o else 0#8)
  else if o < 0x308 then bv8 (s.port 6).health (o - 0x300)
  else if o < 0x328 then ctr8 (s.port 6).ctr (o - 0x308 + 0x050)
  else if o < 0x400 then 0#8
  else if o < 0x408 then nat8 s.bank.errLog.length (o - 0x400)
  else if o < 0x420 then 0#8
  else if o < 0x820 then bv8 (errPlace s ((o - 0x420) / 32)) (o % 32)
  else 0#8

/-- A port's block (R348, R352, R484, R485). -/
def portByte (s : State) (p o : Nat) : Byte :=
  if o < 0x010 then bv8 (s.port p).state o
  else if o < 0x048 then ctr8 (s.port p).ctr o
  else if o < 0x050 then bv8 (s.port p).health (o - 0x048)
  else if o < 0x070 then ctr8 (s.port p).ctr o
  else 0#8

/-- A seat's MIRROR_STATE block (R381, R382). -/
def mirrorByte (s : State) (n o : Nat) : Byte :=
  if o < 0x010 then bv8 (s.mir n).state o else if o < 0x030 then ctr8 (s.mir n).ctr o else 0#8

/-- A turn block (R32). -/
def turnByte (s : State) (b o : Nat) : Byte := if o < 24 then bv8 (s.bind b).blk o else 0#8

/-- A seat's register block (R410). -/
def seatByte (s : State) (n o : Nat) : Byte :=
  let x := s.seat n
  if o < 0x008 then bv8 x.cfg o
  else if o < 0x010 then bv8 x.bnd (o - 0x008)
  else if o < 0x040 then nat8 (Tab.get x.quota 0 ((o - 0x010) / 8)) (o % 8)
  else if o < 0x070 then nat8 (usageShown s n ((o - 0x040) / 8)) (o % 8)
  else if o < 0x080 then 0#8
  else if o < 0x300 then bv8 (Tab.get x.win 0#128 ((o - 0x080) / 16)) (o % 16)
  else if o < 0x320 then ctr8 x.ctr o
  else 0#8

/-- An ingot's crucible register block (R78, R79, R103, R171, R484, R485). -/
def crucibleByte (s : State) (i o : Nat) : Byte :=
  let x := s.ingot i
  if o < 0x008 then bv8 x.gov o
  else if o < 0x010 then bv8 x.limit (o - 0x008)
  else if o < 0x040 then 0#8
  else if o < 0x140 then ctr8 x.ctr o
  else if o < 0x200 then 0#8
  else if o < 0x500 then bv8 (Tab.get x.lanes laneReset ((o - 0x200) / 8)) (o % 8)
  else 0#8

/-- A core's register block (R200, R231). -/
def coreByte (s : State) (k o : Nat) : Byte := if o < 0x078 then ctr8 (s.core k).ctr o else 0#8

/-- The version and program slot of a binding's pip image (R100, R405). -/
def imageWord (s : State) (b i : Nat) : Nat :=
  match (s.bind b).images[i]? with
  | some slot => (Tab.get s.pipSlots ⟨0, 0, 0#256, false, 0, []⟩ slot).version % 65536 + slot % 16 * 65536
  | none => 0

/-- Entries of a binding in a state; FREE counts none (R285, R405). -/
def stateCount (s : State) (b st : Nat) : Nat :=
  if st = 0 then 0 else ((bindSlots s b).filter (fun m => rState s m == st)).length

/-- TALLY's binding section, and the binding counter block (R383, R405). -/
def bindByte (s : State) (b o : Nat) : Byte :=
  let x := s.bind b
  if o < 0x020 then turnByte s b o
  else if o < 0x420 then bv8 x.brec (o - 0x020)
  else if o < 0x5F0 then bv8 (Tab.get x.ctr 0#64 ((o - 0x420) / 8)) (o % 8)
  else if o < 0x614 then nat8 (stateCount s b ((o - 0x5F0) / 4)) (o % 4)
  else nat8 (imageWord s b ((o - 0x614) / 4)) (o % 4)

/-- A histogram block whose words begin at number base (R302). -/
def histByte (s : State) (base o : Nat) : Byte :=
  if o < 0x280 then bv8 (Tab.get s.hist 0#64 (base + o / 8)) (o % 8) else 0#8

/-- A free object record and a FREE request entry read 0 in every field (R233, R261). -/
def reqView (s : State) (n : Nat) : BitVec 1024 := if LEnt.STATE.get (s.req n) = 0 then 0#1024 else s.req n

/-- The byte of the control space at a place. -/
def regByte (s : State) (r : RegAt) : Byte :=
  match r.reg with
  | .mbox => mboxByte (s.mbox r.idx) r.off
  | .mbCtrl => bv8 (s.mbox r.idx).ctrl r.off
  | .irq => bv8 (s.seat r.idx).irq r.off
  | .dev => devByte s r.off
  | .port => portByte s r.idx r.off
  | .mirror => mirrorByte s r.idx r.off
  | .turn => turnByte s r.idx r.off
  | .seat => seatByte s r.idx r.off
  | .crucible => crucibleByte s r.idx r.off
  | .core => coreByte s r.idx r.off
  | .bindCtr => bindByte s r.idx r.off
  | .object => bv8 (objView s r.idx) r.off
  | .stake => bv8 (s.stake r.idx) r.off
  | .histSeat => histByte s (128 * r.idx) r.off
  | .histStake => histByte s (2 ^ 20 + 128 * r.idx) r.off
  | .request => bv8 (reqView s r.idx) r.off

/-! ## Who may read and write -/

/-- Does the offset lie in the error log (R486)? -/
def inErrLog (o : Nat) : Bool := decide (0x400 ≤ o) && decide (o < 0x820)
def inSliceBlk (o : Nat) : Bool := decide (0x100 ≤ o) && decide (o < 0x130)

/-- Read limits (R233, R261, R290, R302, R381, R385, R396, R410, R486). -/
def regReadOk (s : State) (n : Nat) (r : RegAt) : Bool :=
  n == 0 ||
  match r.reg with
  | .mbox | .mbCtrl => r.idx / 4 == n
  | .irq | .seat | .histSeat => r.idx == n
  | .dev => !inSliceBlk r.off && !inErrLog r.off
  | .mirror => false
  | .object => LObj.KIND.get (s.obj r.idx) == 0 || LObj.SEAT.get (s.obj r.idx) == n
  | .stake | .histStake => LStake.SEAT.get (s.stake r.idx) == n
  | .request => LEnt.STATE.get (s.req r.idx) == 0 || LEnt.SEAT.get (s.req r.idx) == n
  | _ => true

/-- Write limits (R78, R233, R257, R261, R290, R302, R368, R385, R387, R396, R397, R410, R486). -/
def regWriteStatus (s : State) (n : Nat) (r : RegAt) : Nat :=
  let only := fun (ok : Bool) => if ok then St.ok else St.window
  match r.reg with
  | .mbox =>
    if r.idx / 4 ≠ n then St.window
    else if (decide (r.off < 0x100) || decide (0x200 ≤ r.off)) && LMbCtrl.OWN.on (s.mbox r.idx).ctrl then St.busy else St.ok
  | .mbCtrl => only (r.idx / 4 == n)
  | .irq => only (n == 0 || r.idx == n)
  | .dev =>
    if inErrLog r.off then St.window
    else only (n == 0 || !((decide (0x020 ≤ r.off) && decide (r.off < 0x030)) ||
      (decide (0x080 ≤ r.off) && decide (r.off < 0x088))))
  | .crucible => only (n == 0 || decide (0x010 ≤ r.off))
  | .object => only (regReadOk s n r)
  | .seat | .stake | .histSeat | .histStake | .request => St.window
  | _ => St.ok

/-- Before READY only mailboxes and MB_CTRL can be reached (R435). -/
def regOpen (s : State) (r : RegAt) : Bool := stage s == 9 || r.reg == .mbox || r.reg == .mbCtrl

/-- The status of one byte of an access. -/
def byteStatus (s : State) (n : Nat) (write : Bool) (off : Nat) : Nat :=
  match regAt off with
  | none => St.addr
  | some r =>
    if !regOpen s r then St.addr
    else if write then regWriteStatus s n r
    else if regReadOk s n r then St.ok else St.window

/-- The first failure of a list of statuses. -/
def firstBad (l : List Nat) : Nat := (l.find? (· != St.ok)).getD St.ok

/-- A control-space access: form first, then each byte's region and limits (R383, R384). -/
def ctlStatus (s : State) (n : Nat) (write : Bool) (off len : Nat) : Nat :=
  let l := (List.range len).map (fun i => byteStatus s n write (off + i))
  firstFail [(!([1, 2, 4, 8, 16, 32, 64].contains len) || off % len != 0, St.addr), (l.contains St.addr, St.addr), (true, firstBad l)]

/-! ## Writes -/

/-- The bits of a register with those under the mask replaced. -/
def merge (old val mask : W64) : W64 := (old &&& ~~~mask) ||| (val &&& mask)

def clampTo (lo hi v : Nat) : Nat := max lo (min hi v)

/-- TIER_CFG as written: TIMEOUT is brought into 1 to 1,000 (R257). -/
def tierCfgOf (v : W64) : W64 :=
  setAll 0#64 [(LTierCfg.TIMEOUT, clampTo 1 1000 (LTierCfg.TIMEOUT.get v)), (LTierCfg.PARK_HOST, LTierCfg.PARK_HOST.get v)]

/-- GOV_LIMIT as written: each limit is brought into its range (R78). -/
def govLimitOf (v : W64) : W64 :=
  setAll 0#64 [(LGovLim.P_LIMIT, clampTo 8 32 (LGovLim.P_LIMIT.get v)), (LGovLim.T_LIMIT, clampTo 70 95 (LGovLim.T_LIMIT.get v))]

/-- TIME_CFG as written: its parent follows from it, and a new ROOT makes the next exchange the first (R365, R366, R368). -/
def setTimeCfg (s : State) (v : W64) : State :=
  let w : W64 := setAll 0#64 [(LTimeCfg.ROOT, LTimeCfg.ROOT.get v), (LTimeCfg.ENABLE, LTimeCfg.ENABLE.get v)]
  let same := LTimeCfg.ROOT.get w == LTimeCfg.ROOT.get s.clk.cfg
  setTimeParent { s with clk := { s.clk with cfg := w, synced := s.clk.synced && same } }

/-- Software hands the mailbox to the device (R386). -/
def setOwn (s : State) (m : Nat) : State := s.setMbox m { s.mbox m with ctrl := LMbCtrl.OWN.set (s.mbox m).ctrl 1 }

/-- Writes one 8-byte word under a byte mask. RO and RSV bits keep their values (R6, R384). -/
def regPut (s : State) (r : RegAt) (val mask : W64) : State :=
  let bits := val &&& mask
  match r.reg with
  | .mbox =>
    let m := s.mbox r.idx
    if r.off < 0x100 then
      let f : Fld := ⟨8 * r.off, 64⟩
      s.setMbox r.idx { m with req := f.set m.req (merge (m.req.extractLsb' (8 * r.off) 64) val mask).toNat }
    else if r.off < 0x200 then s
    else
      let f : Fld := ⟨8 * (r.off - 0x200), 64⟩
      s.setMbox r.idx { m with
        payload := f.set m.payload (merge (m.payload.extractLsb' (8 * (r.off - 0x200)) 64) val mask).toNat }
  | .mbCtrl => if LMbCtrl.OWN.on bits then setOwn s r.idx else s
  | .irq => s.updSeat r.idx (fun x => { x with irq := x.irq &&& ~~~bits })
  | .dev =>
    if r.off = 0x020 then { s with bank := { s.bank with tierCfg := tierCfgOf (merge s.bank.tierCfg val mask) } }
    else if r.off = 0x028 then setTimeCfg s (merge s.clk.cfg val mask)
    else if r.off = 0x080 then { s with bank := { s.bank with events := s.bank.events &&& ~~~bits } }
    else s
  | .crucible =>
    if r.off = 0x000 then
      (if LGovSt.SENSOR_FAULT.on bits then s.updIngot r.idx (fun x => { x with gov := LGovSt.SENSOR_FAULT.set x.gov 0 }) else s)
    else if r.off = 0x008 then s.updIngot r.idx (fun x => { x with limit := govLimitOf (merge x.limit val mask) })
    else s
  | _ => s

/-- The 8-byte words an access touches: offset, value, mask. -/
def regWords (off len : Nat) (data : BitVec 512) : List (Nat × W64 × W64) :=
  let sh := 256 ^ (off % 8)
  let v := data.toNat % 256 ^ len * sh
  let m := (256 ^ len - 1) * sh
  (List.range ((off + len - 1) / 8 - off / 8 + 1)).map (fun j =>
    (off / 8 * 8 + 8 * j, BitVec.ofNat 64 (v / 2 ^ (64 * j)), BitVec.ofNat 64 (m / 2 ^ (64 * j))))

def putWord (s : State) (e : Nat × W64 × W64) : State :=
  match regAt e.1 with
  | some r => regPut s r e.2.1 e.2.2
  | none => s

/-- A control-space write on behalf of seat n: its status, and the state it leaves. -/
def ctlWrite (s : State) (n off len : Nat) (data : BitVec 512) : State × Nat :=
  let st := ctlStatus s n true off len
  if st ≠ St.ok then (s, st) else ((regWords off len data).foldl putWord s, St.ok)

/-- A control-space read. -/
def ctlRead (s : State) (n off len : Nat) : Nat × List Byte :=
  let st := ctlStatus s n false off len
  if st ≠ St.ok then (st, [])
  else (st, (List.range len).map (fun i =>
    match regAt (off + i) with
    | some r => regByte s r
    | none => 0#8))

/-! ## Accesses over the Avkin link (R18 to R23, R452) -/

/-- The Avkin link is trained, and its transmitter is not idle (R452, R460). -/
def avkinUp (s : State) : Bool := (s.port 6).trained && !dieTrip s

/-- A row that is one access over the Avkin link on behalf of a seat. -/
def avkinRow (n : Nat) (f : State → State) : State → Host.Outcome State Fault Refusal :=
  act .power (when (fun s => avkinUp s && decide (n < 64)) f)

/-- A control-space write that arrives over the link, and its answer. -/
def avkinCtl (n off len : Nat) (data : BitVec 512) (s : State) : State :=
  let r := ctlWrite s n off len data
  r.1.emit (.avkin r.2 [])

/-- The parts in which an access leaves for another chip: offset, log2 of the size (R327). -/
def loadParts (a len : Nat) : List (Nat × Nat) :=
  if a % 8 = 0 && len % 8 == 0 then (List.range (len / 8)).map (fun i => (8 * i, 3))
  else if len = 4 then [(0, 2)] else if len = 2 then [(0, 1)] else (List.range len).map (fun i => (i, 0))

/-- The Avkin link as a unit of R327. -/
def avkinUnit : Nat := 4 * 4096

/-- Sends an access on to the chip that it names (R21, R330). -/
def avkinForward (s : State) (n chip off len : Nat) (write : Bool) (data : BitVec 512) : State :=
  (loadParts off len).foldl (fun s e =>
    issue s avkinUnit chip 3 n write 0 0 [(LPkt.TYPE, if write then 2 else 1), (LPkt.SIZE, e.2), (LPkt.ADDR, off + e.1),
      (LPkt.DATA, if write then (data.extractLsb' (8 * e.1) 64).toNat % 256 ^ (2 ^ e.2) else 0)] 0#4096) s

/-- An access to memory before READY reaches nothing (R20, R435). -/
def memStatus (s : State) (n : Nat) (write : Bool) (a len : Nat) : Nat :=
  if stage s ≠ 9 || len == 0 then St.addr else accessStatus s n write a len

/-- Counts an access that the windows refuse, not one that a device-owned area refuses (R427). -/
def noteOutside (s : State) (n : Nat) (write : Bool) (a len st : Nat) : State :=
  if inWindows s n write a len then s else s.noteWindow n st

/-- Is the access one to this device's control space? -/
def ctlAddr (s : State) (a : Nat) : Option Nat :=
  if a / 2 ^ 53 ≠ 0 then none
  else match placeOf s a with
    | .here off => if ctlBase ≤ off then some (off - ctlBase) else none
    | _ => none

/-- A read over the Avkin link. -/
def avkinRead (n a len : Nat) (s : State) : State :=
  match ctlAddr s a with
  | some off =>
    let r := ctlRead s n off len
    s.emit (.avkin r.1 r.2)
  | none =>
    let st := memStatus s n false a len
    if st ≠ St.ok then (noteOutside s n false a len st).emit (.avkin st [])
    else match placeOf s a with
      | .chip c off => avkinForward s n c off len false 0#512
      | _ => serveAt s (keyOf s a) 0 ⟨⟨2, n, keyOf s a % ingotSize, len, false, 0#512⟩, .avkin, cdiv len 64⟩

/-- A write over the Avkin link. -/
def avkinWrite (n a len : Nat) (data : BitVec 512) (s : State) : State :=
  match ctlAddr s a with
  | some off => avkinCtl n off len data s
  | none =>
    let st := memStatus s n true a len
    if st ≠ St.ok then (noteOutside s n true a len st).emit (.avkin st [])
    else match placeOf s a with
      | .chip c off => avkinForward s n c off len true data
      | _ => serveAt s (keyOf s a) 0 ⟨⟨2, n, keyOf s a % ingotSize, len, true, data⟩, .avkin, cdiv len 64⟩

/-! ## What PROBE sees (R467, R468) -/

/-- How often each event of a source has come, where a counter of the device tells it (R468); none where none does. -/
def probeCounts (s : State) (kind i : Nat) : List (Option Nat) :=
  let cnt (t : Tab W64) (l : List Nat) : Option Nat := some (sumNat (l.map (fun k => (Tab.get t 0#64 k).toNat)))
  match kind with
  | 0 =>
    let c := (s.core i).ctr
    [cnt c [0x000], cnt c [0x008], cnt c [0x010], cnt c [0x018], cnt c [0x020], cnt c [0x028], cnt c [0x030], none]
  | 1 =>
    let c := (s.core i).ctr
    [none, cnt c [0x058], cnt c [0x060], cnt c [0x068], cnt c [0x070], none, none, cnt c [0x048]]
  | 3 =>
    let c := (s.ingot i).ctr
    [cnt c [0x060], cnt c [0x068], cnt c [0x070], none, none, none, cnt c [0x080, 0x088, 0x100], cnt c [0x090]]
  | 4 =>
    let c := (s.port i).ctr
    [cnt c [0x010], cnt c [0x018], cnt c [0x020], cnt c [0x050], none, cnt c [0x028], none, none]
  | 5 => [none, some s.bank.commands.toNat, none, none, none, none, none, none]
  | 6 => [none, none, none, none, none, none, some 0, some 0]
  | _ => List.replicate 8 none

/-- PRB at an edge (R467): event b has come since the previous edge where its count has changed; an event without a counter
comes with the edge's command (DESIGN CHOICE, log entry 114). -/
def probeByte (seen now : List (Option Nat)) (events : Byte) : Byte :=
  BitVec.ofNat 8 (sumNat ((List.range 8).map (fun b =>
    2 ^ b * b2n (match now.getD b none with
      | some n => (seen.getD b none) != some n
      | none => events.getLsbD b))))

/-! ## The rows -/

/-- AVKIN_ACCESS (R23, R384). -/
def execAvkinAccess (behalf : Nat) (acc : Access) (s : State) : Host.Outcome State Fault Refusal :=
  match acc with
  | .read a len => avkinRow behalf (avkinRead behalf a.toNat len) s
  | .write a len data =>
    avkinRow behalf (when (fun s => decide (len ≤ 64) || (ctlAddr s a.toNat).isSome) (avkinWrite behalf a.toNat len data)) s

/-- MB_CTRL_OWN_SET (R385, R386). -/
def execMbCtrlOwnSet (behalf seat mbox : Nat) (s : State) : Host.Outcome State Fault Refusal :=
  avkinRow behalf (when (fun _ => decide (seat < 64) && decide (mbox < 4))
    (avkinCtl behalf (0x100000 + 8 * (4 * seat + mbox)) 8 1#512)) s

/-- GOV_LIMIT_WRITE (R78). -/
def execGovLimitWrite (behalf ingot : Nat) (value : W64) (s : State) : Host.Outcome State Fault Refusal :=
  avkinRow behalf (when (fun _ => decide (ingot < 16))
    (avkinCtl behalf (0x120008 + 0x1000 * ingot) 8 (value.setWidth 512))) s

/-- TIER_CFG_WRITE (R257). -/
def execTierCfgWrite (behalf : Nat) (value : W64) (s : State) : Host.Outcome State Fault Refusal :=
  avkinRow behalf (avkinCtl behalf 0x101020 8 (value.setWidth 512)) s

/-- TIME_CFG_WRITE (R368). -/
def execTimeCfgWrite (behalf : Nat) (value : W64) (s : State) : Host.Outcome State Fault Refusal :=
  avkinRow behalf (avkinCtl behalf 0x101028 8 (value.setWidth 512)) s

/-- CONTROL_SPACE_WRITE (R383, R384). -/
def execControlSpaceWrite (behalf off len : Nat) (data : BitVec 512) (s : State) : Host.Outcome State Fault Refusal :=
  avkinRow behalf (avkinCtl behalf off len data) s

end Sys2Proof.Machine
end

