-- ==== Sys2Proof/Machine/Tally.lean ====
section
/-! DEFINITION. TALLY, IDENT, ATTEST and PROBE (15_mailboxes.md R405 to R407, 17_boot_identity.md R438 to R440,
18_package.md R465 to R468). -/

namespace Sys2Proof.Machine

/-- Bytes at offsets, in ascending order, in a block of n bytes whose other bytes are 0. -/
def layOut (n : Nat) (l : List (Nat × List Byte)) : List Byte :=
  let r := l.foldl (fun acc e => acc ++ List.replicate (e.1 - acc.length) 0#8 ++ e.2) []
  r ++ List.replicate (n - r.length) 0#8

def sumOver (n : Nat) (f : Nat → Nat) : Nat := ((List.range n).map f).foldl (· + ·) 0

/-- The rollback counter: the highest burned fuse plus 1 (R434). -/
def rollbackCounter (f : Fuses) : Nat := (List.range 63).foldl (fun a i => if f.rollback.getLsbD i then i + 1 else a) 0

/-! ## The summary (R406) -/

/-- Entries of the request table in a state. -/
def tableCount (s : State) (st : Nat) : Nat :=
  if st = 0 then 16384 - (slotsWhere s (fun m => rState s m != 0)).length
  else (slotsWhere s (fun m => rState s m == st)).length

/-- Object records in a state; a free record is in STATE 0. -/
def objCount (s : State) (st : Nat) : Nat :=
  if st = 0 then 4096 - ((objList s).filter (fun n => LObj.STATE.get (s.obj n) != 0)).length
  else ((objList s).filter (fun n => LObj.STATE.get (s.obj n) == st)).length

def activeOf (s : State) (b : Nat) : Nat := (slotsWhere s (fun m => rActive s m && rBind s m == b)).length

/-- Riser slots that no set holds. -/
def freeRisers (s : State) : Nat := s.bank.riserSlots - (s.bank.riserSets.map (·.2)).foldl (· + ·) 0

/-- May the caller see a word that names seat n (R406)? -/
def mayName (caller n : Nat) : Bool := caller == 0 || caller == n

/-- The 8 bytes after a binding's turn block. -/
def bindWord (s : State) (caller b : Nat) : Nat :=
  let x := s.bind b
  if mayName caller x.seat then b2n x.loaded + x.seat * 2 + b2n (x.loaded && sliceBinding s b) * 128 + activeOf s b * 256 else 0

def seatWord (s : State) (caller n : Nat) : Nat :=
  if mayName caller n then
    (slotsWhere s (fun m => rState s m != 0 && rSeat s m == n)).length +
    b2n (LMirSt.STATE.get (s.mir n).state != 0) * 32768 + LSeatCfg.RESETTING.get (s.seat n).cfg * 65536 +
    Tab.get (s.seat n).usage 0 1 * 131072
  else 0

/-- One flag of every mailbox, the caller's own and, for seat 0, all. -/
def mboxMask (s : State) (caller : Nat) (f : Fld) : Nat :=
  sumOver 256 (fun m => if mayName caller (m / 4) then f.get (s.mbox m).ctrl * 2 ^ m else 0)

def ctrOf (t : Tab W64) (k : Nat) : Nat := (Tab.get t 0#64 k).toNat

def words (l : List Nat) : List Byte := l.flatMap (fun v => bytesOf v 8)

def summary (s : State) (caller : Nat) : List Byte :=
  let ing := fun k => sumOver 16 (fun i => ctrOf (s.ingot i).ctr k)
  let core := fun k => sumOver 256 (fun i => ctrOf (s.core i).ctr k)
  let port := fun k => sumOver 6 (fun i => ctrOf (s.port i).ctr k)
  layOut 4096 [
    (0x000, bytesOf 0x10000 4 ++ bytesOf caller 1),
    (0x008, words [now s, s.boot.fwVersion.toNat, rollbackCounter s.fuses, identDigest s, s.bank.ageClock.toNat,
      s.fab.fabId.toNat, s.clk.status.toNat]),
    (0x040, (List.range 6).flatMap (fun p => bytesOf (s.port p).state.toNat 16)),
    (0x0A0, bytesOf s.fab.slice.toNat 16),
    (0x0B0, words [s.bank.tierCfg.toNat, s.clk.cfg.toNat]),
    (0x0C0, (List.range 16).flatMap (fun b => bytesOf (s.bind b).blk.toNat 24 ++ bytesOf (bindWord s caller b) 8)),
    (0x2C0, (List.range 9).flatMap (fun st => bytesOf (tableCount s st) 4)),
    (0x2E4, (List.range 6).flatMap (fun st => bytesOf (objCount s st) 2)),
    (0x2F0, words [s.bank.riserSlots + freeRisers s * 2 ^ 32]),
    (0x300, words ((List.range 64).map (seatWord s caller))),
    (0x500, words ((List.range 8).map (ctrOf s.bank.ctr))),
    (0x540, words ((List.range 5).map (fun i => sumOver 16 (fun b => ctrOf (s.bind b).ctr (BC.stallT1 + i))))),
    (0x568, words ([0x058, 0x0B0, 0x080, 0x088, 0x090, 0x098, 0x0A0, 0x078].map ing)),
    (0x5A8, words ((List.range 16).map (fun i => (s.ingot i).gov.toNat))),
    (0x628, words ([0x028, 0x030, 0x038, 0x040].map core)),
    (0x648, words ([0x028, 0x030, 0x038, 0x040].map port)),
    (0x668, words (s.bank.collTimeout.toNat :: [0x010, 0x018, 0x020, 0x028].map (ctrOf s.fab.sliceCtr))),
    (0x690, words [s.bank.events.toNat]),
    (0x698, bytesOf (mboxMask s caller LMbCtrl.OWN) 32),
    (0x6B8, bytesOf (mboxMask s caller LMbCtrl.HELD) 32),
    (0x6D8, words [s.bank.commands.toNat])]

/-! ## The sections (R405) -/

/-- One slot's byte of section 3. -/
def slotByte (s : State) (caller n : Nat) : Byte :=
  if rState s n = 0 then 0#8
  else if caller = 0 || rSeat s n == caller then BitVec.ofNat 8 (rState s n + LEnt.END.get (s.req n) * 16)
  else 0x80#8

def tallyBytes (s : State) (sec idx caller : Nat) : List Byte :=
  match sec with
  | 0 => summary s caller
  | 1 => (List.range 4096).map (bindByte s idx)
  | 2 => layOut 4096 [(0, (List.range 1024).map (seatByte s idx)), (0x400, (List.range 64).map (mirrorByte s idx))]
  | 3 => (List.range 4096).map (fun i => slotByte s caller (4096 * idx + i))
  | 4 => layOut 4096 [(0, (List.range 256).map (crucibleByte s idx))]
  | 5 => layOut 4096 [(0, (List.range 8).flatMap (fun k => (List.range 128).map (coreByte s (8 * idx + k))))]
  | _ => layOut 4096 [(0, (List.range 6).flatMap (fun p => (List.range 256).map (portByte s p))),
      (0x600, (List.range 0x20).map (devByte s))]

def tallySec (c : Cmd) : Nat := (c.body.extractLsb' 0 8).toNat
def tallyIdx (c : Cmd) : Nat := (c.body.extractLsb' 8 8).toNat
def tallyDest (c : Cmd) : Nat := (c.body.extractLsb' 64 64).toNat

/-- Is the caller allowed the section? -/
def tallyAllowed (s : State) (c : Cmd) : Bool :=
  c.seat == 0 ||
  match tallySec c with
  | 0 | 3 => true
  | 1 => (s.bind (tallyIdx c)).seat == c.seat
  | 2 => tallyIdx c == c.seat
  | _ => false

/-- R405's checks, then R22's alignment and R21's route. -/
def tallyStatus (s : State) (c : Cmd) : Nat :=
  let a := tallyDest c
  let t := tierOf s a
  firstFail [
    (bodyAbove c 128 || (c.body.extractLsb' 16 48) != 0#48 || decide (tallyIdx c ≥ [1, 16, 64, 4, 16, 32, 1].getD (tallySec c) 0),
      St.range),
    (!tallyAllowed s c, St.denied),
    (addrStatus s a 4096 == St.addr || t == 0 || decide (t ≥ 7) || !inSeatFor true s c.seat a 4096, St.window),
    (a % 64 != 0, St.addr), (true, addrStatus s a 4096)]

/-- A write of the banker that meets a full deferral buffer waits in external queue 4 of its ingot, piece by piece (R61, R68). -/
def waitWrite (seat : Nat) (s : State) (e : Nat × List Byte) : State :=
  let off := e.1 % ingotSize
  pushExt s (e.1 / ingotSize) (pageBg (offPage off))
    ⟨⟨4, seat, off, e.2.length, true, BitVec.ofNat 512 (ofBytes e.2)⟩, .store, 1⟩

/-- TALLY. Writes to another chip and writes that wait are the response's own (R407); without a route they end at once (R340). -/
def opTally : CmdOp := fun c s =>
  let st := tallyStatus s c
  if st ≠ St.ok then (s, Rsp.of st)
  else
    let bs := tallyBytes s (tallySec c) (tallyIdx c) c.seat
    match placeOf s (tallyDest c) with
    | .chip chip off =>
      let s := putPackets s (some (.reply (cmdMb c))) (3 * 4096) chip 3 c.seat off bs
      (s, if jobOpen s (· == .reply (cmdMb c)) then ⟨St.ok, [], none, some (keyOf s (tallyDest c))⟩ else Rsp.of St.noroute)
    | _ =>
      let k := keyOf s (tallyDest c)
      if extStatus s k 4096 true == St.ok && !deferRoom s k bs then
        ((piecesOf k bs).foldl (waitWrite c.seat) s, ⟨St.ok, [], none, some k⟩)
      else
        let r := extWrite s k bs c.seat
        (if r.2 = St.ok && decide (k < hmBase) then pushPages r.1 4 k 4096 true else r.1, Rsp.of r.2)

/-- Does any of the 4 KiB at a key still wait in an external queue 4 (R61, R68)? -/
def replyQueued (s : State) (k : Nat) : Bool :=
  decide (k < hmBase) && (s.ingot (k / ingotSize)).bgs.any (fun b => (Tab.get b.2.queues [] 4).any (fun e =>
    e.src == .store && decide (k % ingotSize ≤ e.req.off) && decide (e.req.off < k % ingotSize + 4096)))

/-- Are the writes of a response over (R407)? -/
def replyReady (s : State) (r : LateRsp) : Bool := !jobOpen s (· == .reply r.mbox) && !replyQueued s r.key

/-- The responses whose writes are over are written (R407). -/
def lateReplies (s : State) : State :=
  (s.bank.late.filter (replyReady s)).foldl (fun s r =>
    let s := { s with bank := { s.bank with late := s.bank.late.erase r } }
    respondAt s (cmdOf s r.mbox) r.held r.bturn r.applied
      (Rsp.of (firstStatus r.status (if r.key < hmBase then pageStatus s r.key 4096 else St.ok)))) s

/-! ## IDENT (R438) and ATTEST (R439, R440) -/

/-- A payload window with bytes at offsets. -/
def payWindow (l : List (Nat × List Byte)) : Option (BitVec 28672) := some (BitVec.ofNat 28672 (ofBytes (layOut 3584 l)))

def opIdent : CmdOp := fun c s =>
  let part := (c.body.extractLsb' 0 2).toNat
  if bodyAbove c 2 || decide (part ≥ 2) then (s, Rsp.of St.range)
  else
    let head := [(0x008, bytesOf (identDigest s) 8), (0x010, bytesOf (identHash s).toNat 32)]
    let l :=
      if part = 0 then (0, bytesOf 0x10000 4 ++ bytesOf 216 4) :: head ++ [(0x040, identBytes s)]
      else (0, bytesOf 0x10001 4) :: head ++ [(0x030, bytesOf s.fuses.attKey.toNat 384), (0x1B0, bytesOf 65537 4),
        (0x200, bytesOf s.fuses.vendSig.toNat 384)]
    (s, ⟨St.ok, [], payWindow l, none⟩)

/-- Bytes 0x000 to 0x0FF of a quote (R440). -/
def quoteHead (s : State) (nonce : Nat) : List Byte :=
  layOut 256 [(0x000, bytesOf 0x10000 4), (0x008, words [s.fab.fabId.toNat, now s, s.boot.fwVersion.toNat]),
    (0x020, bytesOf (LBootSt.SVN.get s.boot.status) 1 ++ bytesOf (rollbackCounter s.fuses) 1),
    (0x028, bytesOf (identDigest s) 8), (0x030, bytesOf nonce 32), (0x050, bytesOf s.boot.measure.toNat 32),
    (0x070, bytesOf (identHash s).toNat 32)]

def opAttest : CmdOp := fun c s =>
  if bodyAbove c 256 then (s, Rsp.of St.range)
  else
    let q := quoteHead s (c.body.extractLsb' 0 256).toNat
    (s, ⟨St.ok, [], payWindow [(0, q), (0x100, bytesOf (rsaSign s.fuses.attKey.toNat s.fuses.attExp.toNat (sha256 q)) 384)], none⟩)

/-! ## PROBE (R465 to R468) -/

def probeForm (c : Cmd) : Bool :=
  let op := LProbe.OP.get c.body
  rsvZero LProbe.rsv c.body && !bodyAbove c 256 && decide (1 ≤ op) && decide (op ≤ 4) &&
  (op == 3 || (LProbe.KIND.get c.body == 0 && LProbe.INDEX.get c.body == 0))

/-- Sources of a kind (R468). -/
def probeSources (kind : Nat) : Nat := [256, 256, 6144, 16, 6, 1, 4, 4].getD kind 0

/-- UNLOCK's checks (R466). -/
def unlockStatus (s : State) (c : Cmd) : Nat :=
  match s.bank.challenge with
  | none => St.state
  | some ch =>
    let key : BitVec 4096 := c.payload.extractLsb' 0 4096
    let hash := sha256Nat (payBytes c 0 512)
    let digest := sha256 (bytesOf ch.toNat 32 ++ bytesOf (identDigest s) 8)
    firstFail [(s.fuses.debugKeyHash == 0#256 || hash != s.fuses.debugKeyHash, St.auth),
      (!keyBlockOk key || !rsaVerify (key.extractLsb' 0 3072).toNat (payBits c 512 3072) digest, St.signature)]

def opProbe : CmdOp := fun c s =>
  let st := firstFail [(c.seat != 0, St.denied), (!probeForm c, St.range)]
  if st ≠ St.ok then (s, Rsp.of st)
  else match LProbe.OP.get c.body with
    | 1 =>
      let ch := Config.challenge s.bank.drawn
      let s := { s with bank := { s.bank with challenge := some ch, drawn := s.bank.drawn + 1 } }
      (s, ⟨St.ok, [], payWindow [(0, bytesOf ch.toNat 32 ++ bytesOf (identDigest s) 8)], none⟩)
    | 2 =>
      let st := unlockStatus s c
      let s := { s with bank := { s.bank with challenge := none } }
      if st ≠ St.ok then (s, Rsp.of st)
      else (setSbBits { s with bank := { s.bank with debug := true } } [(LSbFault.DEBUG, 1)], Rsp.of St.ok)
    | 3 =>
      let k := LProbe.KIND.get c.body
      let i := LProbe.INDEX.get c.body
      let st := firstFail [(!s.bank.debug, St.auth), (decide (i ≥ probeSources k), St.range)]
      if st ≠ St.ok then (s, Rsp.of st) else ({ s with pins := { s.pins with probeSel := some (k, i), probeSeen := probeCounts s k i } }, Rsp.of St.ok)
    | _ => ({ s with pins := { s.pins with probeSel := none, prb := 0#8, probeSeen := [] } }, Rsp.of St.ok)

/-! ## The rows -/

def execTally (c : Cmd) (s : State) : Host.Outcome State Fault Refusal := cmdRow 0x0040 (fun _ => true) opTally c s
def execIdent (c : Cmd) (s : State) : Host.Outcome State Fault Refusal := cmdRow 0x0041 (fun _ => true) opIdent c s
def execAttest (c : Cmd) (s : State) : Host.Outcome State Fault Refusal := cmdRow 0x0042 (fun _ => true) opAttest c s
def execProbeChallenge (c : Cmd) (s : State) : Host.Outcome State Fault Refusal := cmdRow 0x0043 (bodyOp 1) opProbe c s
def execProbeUnlock (c : Cmd) (s : State) : Host.Outcome State Fault Refusal := cmdRow 0x0043 (bodyOp 2) opProbe c s
def execProbeSelect (c : Cmd) (s : State) : Host.Outcome State Fault Refusal := cmdRow 0x0043 (bodyOp 3) opProbe c s
def execProbeOff (c : Cmd) (s : State) : Host.Outcome State Fault Refusal := cmdRow 0x0043 (bodyOp 4) opProbe c s

end Sys2Proof.Machine
end

