-- ==== Sys2Proof/Machine/Boot.lean ====
section
/-! DEFINITION. Reset and boot: RST_N, the stages of boot, the firmware image, the rollback counter
(17_boot_identity.md R428 to R435, 18_package.md R444, R448, R456, 19_reliability.md R478, R483). -/

namespace Sys2Proof.Machine

/-! ## RST_N (R444, R448, R464) -/

/-- Memory that does not lie in this device: the companion window, other chips, the flash. -/
def outside (m : Tab Byte) : Tab Byte := m.filter (fun e => decide (2 ^ 52 ≤ e.1))

/-- What RST_N low leaves: reset values but for the fuses, what lies outside the device, and the model's own
fields. -/
def resetKeep (s : State) : State :=
  { State.reset with
    pending := s.pending
    fuses := s.fuses
    pins := { Pins.reset with straps := s.pins.straps }
    mem := outside s.mem
    bank := { Banker.reset with drawn := s.bank.drawn, epoch := s.bank.epoch + 1 }
    out := s.out
    free := s.free }

/-- RST_N_ASSERT (R448): it acts in every state; while RST_N is low nothing changes. -/
def execRstNAssert (s : State) : Host.Outcome State Fault Refusal :=
  if s.pins.rstLow then .next s else .next (resetKeep s)

/-! ## BOOT_STATUS (R429) -/

def bootCause (s : State) : Nat := LBootSt.CAUSE.get s.boot.status
def bootSource (s : State) : Nat := LBootSt.SOURCE.get s.boot.status

/-- Nanoseconds since RST_N release: 5.4 root ticks each. -/
def sinceRelease (s : State) : Nat := s.clk.ticks * 10 / 54

def bootMsg (s : State) : BitVec 128 := BitVec.ofNat 128 (s.boot.status.toNat + sinceRelease s * 2 ^ 64)

/-- Has stage 3 trained the Avkin link, by BOOT_STATUS: a later stage, or a halt with a later cause? -/
def linkWasUp (w : W64) : Bool := decide (4 ≤ LBootSt.STAGE.get w) && (LBootSt.CAUSE.get w == 0 || decide (4 ≤ LBootSt.CAUSE.get w))

/-- Writes fields of BOOT_STATUS; each change sends a boot message once stage 3 has trained the Avkin link. SB_FAULT's
HALTED follows STAGE (R463). -/
def setBoot (s : State) (l : List (Fld × Nat)) : State :=
  let w := setAll s.boot.status l
  let t := setSbBits { s with boot := { s.boot with status := w } } [(LSbFault.HALTED, b2n (LBootSt.STAGE.get w == 15))]
  if w ≠ s.boot.status && linkWasUp w then t.emit (.boot (bootMsg t)) else t

def halt (cause : Nat) (s : State) : State := setBoot s [(LBootSt.STAGE, 15), (LBootSt.CAUSE, cause)]

/-- A failure of the image at stages 4 to 6: of slot A it sends the ROM to slot B, else it halts (R430). -/
def imageFails (cause : Nat) (s : State) : State :=
  if bootSource s = 1 then setBoot s [(LBootSt.CAUSE, cause)] else halt cause s

/-- A stage in progress, with no failure shown. -/
def atStage (s : State) (n : Nat) : Bool := stage s == n && bootCause s == 0

/-- Slot A has failed, and slot B is next. -/
def slotBNext (s : State) : Bool :=
  decide (4 ≤ stage s) && decide (stage s ≤ 6) && bootCause s != 0 && bootSource s == 1

/-! ## Stages 1 to 3 -/

/-- RST_N is released: straps and BOOT_SEL are latched, the TAP leaves the pins, the ROM tests itself. -/
def release (romOk : Bool) (s : State) : State :=
  let s := { s with pins := { s.pins with rstLow := false, latched := s.pins.straps, jtagDrive := false } }
  if romOk then setBoot s [(LBootSt.STAGE, 2)] else halt 1 s

/-- RST_N_RELEASE (R428, R444). -/
def execRstNRelease (romOk : Bool) (s : State) : Host.Outcome State Fault Refusal :=
  if s.pins.rstLow then .next (release romOk s) else .next s

/-- BOOT_STAGE_FUSE (R428): every fuse block is read, the rollback counter among them. -/
def execBootStageFuse (ok : Bool) (s : State) : Host.Outcome State Fault Refusal :=
  act .power (when (fun s => atStage s 2) (fun s =>
    if ok then setBoot s [(LBootSt.STAGE, 3), (LBootSt.COUNTER, rollbackCounter s.fuses)] else halt 2 s)) s

/-- BOOT_SEL as latched (R430). -/
def bootSel (s : State) : Bool := s.pins.latched.getLsbD 23

/-- Stage AVKIN with the lanes that train (R456): 16, one half, or a halt. -/
def avkinStage (lanes : BitVec 16) (s : State) : State :=
  let low := lanes.extractLsb' 0 8 == 0xFF#8
  let high := lanes.extractLsb' 8 8 == 0xFF#8
  if !low && !high then halt 3 s
  else
    let s := trainPort s 6
    let s := if low && high then s else setSbBits s [(LSbFault.AVKIN_X8, 1)]
    let s := setBoot s [(LBootSt.STAGE, 4), (LBootSt.SOURCE, b2n (bootSel s))]
    { s with boot := { s.boot with stage3End := s.clk.ticks } }

/-- BOOT_STAGE_AVKIN (R456). -/
def execBootStageAvkin (lanes : BitVec 16) (s : State) : Host.Outcome State Fault Refusal :=
  act .power (when (fun s => atStage s 3) (avkinStage lanes)) s

/-! ## Stages 4 to 6: the image (R430 to R434) -/

def flashKey : Nat := 2 ^ 54

/-- The first key of a source's image: the companion window, slot A, slot B. -/
def bootKey (source : Nat) : Nat :=
  match source with
  | 0 => 2 ^ 52
  | 1 => flashKey
  | _ => flashKey + 0x2000000

def headerAt (s : State) (k : Nat) : BitVec 512 := BitVec.ofNat 512 (readNat s k 64)

def magicOk (h : BitVec 512) : Bool := LFwHd.MAGIC.get h == 0x9480F106

/-- The header's other rules (R431). -/
def headerOk (h : BitVec 512) : Bool :=
  LFwHd.HVER.get h == 1 && rsvZero LFwHd.rsv h && decide (4096 ≤ LFwHd.LENGTH.get h) &&
  decide (LFwHd.LENGTH.get h ≤ 16777216) && LFwHd.LENGTH.get h % 64 == 0 && LFwHd.ENTRY.get h % 4 == 0 &&
  decide (LFwHd.ENTRY.get h < LFwHd.LENGTH.get h)

/-- Bytes of an image: header, key block, code, signature (R431). -/
def imageLen (h : BitVec 512) : Nat := 576 + LFwHd.LENGTH.get h + 384

/-- Copies the image of a source into private memory and checks its header. -/
def fetchImage (s : State) : State :=
  let k := bootKey (bootSource s)
  let h := headerAt s k
  if !magicOk h then imageFails 4 s
  else if !headerOk h then imageFails 5 s
  else
    let cp := (s.mem.filter (fun e => decide (k ≤ e.1) && decide (e.1 < k + imageLen h))).map (fun e => (e.1 - k, e.2))
    setBoot { s with boot := { s.boot with copy := cp, header := h } } [(LBootSt.STAGE, 5), (LBootSt.SVN, LFwHd.SVN.get h)]

/-- Root ticks in 10 s. -/
def tenSeconds : Nat := 54000000000

/-- The ROM has found a header to fetch: in the companion window, one that shows its MAGIC within 10 s of stage 3's end; in
flash, whatever slot A holds (R430). -/
def headerShown (s : State) : Bool :=
  bootSource s != 0 || (magicOk (headerAt s (bootKey 0)) && decide (s.clk.ticks ≤ s.boot.stage3End + tenSeconds))

/-- BOOT_STAGE_FETCH: from the Avkin link once a header shows its MAGIC; from flash, slot A and after its failure
slot B. -/
def execBootStageFetch (s : State) : Host.Outcome State Fault Refusal :=
  act .power (when
    (fun s => slotBNext s || (atStage s 4 && headerShown s))
    (fun s => fetchImage (if slotBNext s then
      setBoot s [(LBootSt.STAGE, 4), (LBootSt.CAUSE, 0), (LBootSt.SOURCE, 2)] else s))) s

/-- BOOT_HEADER_POLL (R430): 10 s after stage 3 ended without a valid MAGIC shown, NOIMAGE. -/
def execBootHeaderPoll (s : State) : Host.Outcome State Fault Refusal :=
  act .power (when
    (fun s => atStage s 4 && !headerShown s && decide (s.boot.stage3End + tenSeconds ≤ s.clk.ticks))
    (halt 4)) s

/-- Bytes of the private copy. -/
def copyBytes (s : State) (off n : Nat) : List Byte := (List.range n).map (fun i => Tab.get s.boot.copy 0#8 (off + i))

/-- VERIFY (R432, R433). MEASURE covers bytes 0 to 575 + LENGTH - 1, as the rule has it (DEDUCED, log entry 113). -/
def verifyImage (s : State) : State :=
  let key := copyBytes s 64 512
  let kb : BitVec 4096 := BitVec.ofNat 4096 (ofBytes key)
  let n := 576 + LFwHd.LENGTH.get s.boot.header
  if sha256Nat key ≠ s.fuses.keyHash then imageFails 6 s
  else
    let digest := sha256 (copyBytes s 0 (n - 1))
    let s := { s with boot := { s.boot with measure := BitVec.ofNat 256 (ofBytes digest) } }
    if !keyBlockOk kb || !rsaVerify (kb.extractLsb' 0 3072).toNat (ofBytes (copyBytes s n 384)) digest then imageFails 7 s
    else setBoot { s with boot := { s.boot with keyBlock := kb } } [(LBootSt.STAGE, 6)]

/-- BOOT_STAGE_VERIFY. -/
def execBootStageVerify (s : State) : Host.Outcome State Fault Refusal :=
  act .power (when (fun s => atStage s 5) verifyImage) s

/-- The fuses with fuse numbers a to b - 1 burned. A burned fuse stays burned. -/
def burn (f : Fuses) (a b : Nat) : Fuses :=
  { f with rollback := (List.range 63).foldl (fun r i => if a ≤ i && i < b then r ||| (1#63 <<< i) else r) f.rollback }

/-- ROLLBACK (R434). `good` fuses burn before one that stays unburned after three attempts. -/
def rollbackStage (good : Nat) (s : State) : State :=
  let c := rollbackCounter s.fuses
  let svn := LFwHd.SVN.get s.boot.header
  let s := setBoot s [(LBootSt.COUNTER, c)]
  let enter := fun (s : State) => setBoot { s with boot := { s.boot with fwVersion := s.boot.header.extractLsb' 64 64 } }
    [(LBootSt.STAGE, 7)]
  if svn < c then imageFails 8 s
  else if !LFwHd.ADVANCE.on s.boot.header || svn = c then enter s
  else
    let s := { s with fuses := burn s.fuses c (min svn (c + good)) }
    let s := setBoot s [(LBootSt.COUNTER, rollbackCounter s.fuses)]
    if c + good < svn then imageFails 9 s else enter s

/-- BOOT_STAGE_ROLLBACK. -/
def execBootStageRollback (good : Nat) (s : State) : Host.Outcome State Fault Refusal :=
  act .power (when (fun s => atStage s 6) (rollbackStage good)) s

/-! ## Stages 7 to 9 -/

/-- The lanes of a channel that failed to train. -/
def failedLanes (failed : List (Nat × Nat × Nat)) (i c : Nat) : List Nat :=
  ((failed.filter (fun e => e.1 == i && e.2.1 == c)).map (·.2.2)).eraseDups

/-- An ingot's temperature at boot training: free, since the first reading of GOV_STATUS's sensors follows the training
(R60, R74, R478; log entry 95). -/
def bootTemp (free i : Nat) : Nat := (Config.freeWord (free + i)).toNat % 256

/-- LANE_STATE after boot training: TRAIN_TEMP, and the spare over a failed lane (R478, R481, R483). -/
def bootLane (free : Nat) (failed : List (Nat × Nat × Nat)) (i c : Nat) : W64 :=
  let w := LLaneSt.TRAIN_TEMP.set laneReset (bootTemp free i)
  match failedLanes failed i c with
  | [] => w
  | l :: _ => setAll w [(LLaneSt.SPARE, l), (LLaneSt.FAILED, l)]

/-- Boot training of one channel, its failed lane logged (R486). -/
def trainChannel (free : Nat) (failed : List (Nat × Nat × Nat)) (s : State) (i c : Nat) : State :=
  let s := setLaneWord s i c (bootLane free failed i c)
  if (failedLanes failed i c).isEmpty then s else logError s (i * 96 + c) 6 5 0 none false

def trainIngots (failed : List (Nat × Nat × Nat)) (s : State) : State :=
  let free := s.free
  (List.range 16).foldl (fun s i => (List.range 96).foldl (fun s c => trainChannel free failed s i c) s)
    { s with free := free + 16 }

/-- Does some channel have two lanes that fail (R435, R483)? -/
def ingotFails (failed : List (Nat × Nat × Nat)) : Bool :=
  (List.range 16).any (fun i => (List.range 96).any (fun c => decide (2 ≤ (failedLanes failed i c).length)))

/-- Every word of the ingots, holding memory and SRAM reads 0 with valid check bits (R428, R435). -/
def zeroFill (s : State) : State := { s with mem := outside s.mem, wordErr := [], dirty := [] }

/-- Stage FIRMWARE. -/
def firmwareStage (ok : Bool) (failed : List (Nat × Nat × Nat)) (s : State) : State :=
  if !ok then halt 11 s
  else
    let s := zeroFill s
    if ingotFails failed then halt 10 s
    else
      let s := trainIngots failed s
      setBoot { s with boot := { s.boot with pcStart := s.clk.ticks } } [(LBootSt.STAGE, 8)]

/-- BOOT_STAGE_FIRMWARE (R428). Physical lanes are 0 to 33. -/
def execBootStageFirmware (ok : Bool) (failed : List (Nat × Nat × Nat)) (s : State) : Host.Outcome State Fault Refusal :=
  act .power (when (fun s => atStage s 7 && failed.all (fun e => decide (e.2.2 < 34))) (firmwareStage ok failed)) s

/-- FAB_ID as the straps give it (R344, R444): no chip number where y or z passes its ring. -/
def strapFabId (w : BitVec 64) : W64 :=
  let x := (w.extractLsb' 1 2).toNat
  let y := (w.extractLsb' 3 4).toNat
  let z := (w.extractLsb' 7 6).toNat
  let yl := (w.extractLsb' 13 4).toNat + 1
  let zl := (w.extractLsb' 17 6).toNat + 1
  let place := decide (y < yl) && decide (z < zl)
  setAll 0#64 [(LFabId.CHIP, if place then x + 4 * y + 64 * z else 0), (LFabId.VALID, b2n place), (LFabId.MODE, 2),
    (LFabId.YLEN, yl), (LFabId.ZLEN, zl)]

/-- Stage LINKS: straps are read, discovery begins (R343, R344, R346). -/
def linksStage (ok : Bool) (s : State) : State :=
  if !ok then halt 11 s
  else
    let s := { s with boot := { s.boot with links := true } }
    let s := if s.pins.latched.getLsbD 0 then
        sendLinkids { s with fab := { s.fab with fabId := strapFabId s.pins.latched } } else s
    comparePorts s false St.noroute

/-- BOOT_STAGE_LINKS (R428). -/
def execBootStageLinks (ok : Bool) (s : State) : Host.Outcome State Fault Refusal :=
  act .power (when (fun s => atStage s 8 && !s.boot.links) (linksStage ok)) s

/-- BOOT_STAGE_READY (R428, R435). -/
def execBootStageReady (s : State) : Host.Outcome State Fault Refusal :=
  act .power (when (fun s => atStage s 8 && s.boot.links) (fun s => setBoot s [(LBootSt.STAGE, 9)])) s

end Sys2Proof.Machine
end

