-- ==== Sys2Proof/Machine/Vector.lean ====
section
/-! DEFINITION. The vector engines (R219 to R231) and split reductions (R196, R197). -/

namespace Sys2Proof.Machine

/-! ## Streams (R219, R220) -/

def vxRows (w : BitVec 256) : Nat := LVx.ROWS.get w
def vxCols (w : BitVec 256) : Nat := LVx.COLS.get w
def vxImm (w : BitVec 256) : W32 := BitVec.ofNat 32 (LVx.IMM.get w)
def vxImm2 (w : BitVec 256) : W32 := BitVec.ofNat 32 (LVx.IMM2.get w)

/-- Keys of row m of the three streams. -/
def vxAKey (c : Nat) (w : BitVec 256) (m : Nat) : Nat := clusterBase c + LVx.AADDR.get w * 64 + m * LVx.APITCH.get w * 64
def vxBKey (c : Nat) (w : BitVec 256) (m : Nat) : Nat := clusterBase c + LVx.BADDR.get w * 64 + m * LVx.BPITCH.get w * 64
def vxDKey (c : Nat) (w : BitVec 256) (m : Nat) : Nat := clusterBase c + LVx.DADDR.get w * 64 + m * LVx.DPITCH.get w * 64

def vxARow (s : State) (c : Nat) (w : BitVec 256) (m : Nat) : List W32 :=
  elemRow s (vxBits (LVx.FA.get w)) (vxAKey c w m) (vxCols w)

/-- Row m of B by BMODE. -/
def vxBRow (s : State) (c : Nat) (w : BitVec 256) (m : Nat) : List W32 :=
  let bits := vxBits (LVx.FB.get w)
  match LVx.BMODE.get w with
  | 0 => elemRow s bits (vxBKey c w m) (vxCols w)
  | 1 => elemRow s bits (vxBKey c w 0) (vxCols w)
  | 2 => List.replicate (vxCols w) (elemVal s bits (vxBKey c w 0) m)
  | _ => List.replicate (vxCols w) (quiet32 (vxImm w))

/-- Mask bits of row m. The manual names no bit of the scalar IMM: a free bit (log entry 7). -/
def vxMask (s : State) (c : Nat) (w : BitVec 256) (m : Nat) : List Bool :=
  let bit := fun k n => elemCode s 1 k n == 1
  match LVx.BMODE.get w with
  | 0 => (List.range (vxCols w)).map (bit (vxBKey c w m))
  | 1 => (List.range (vxCols w)).map (bit (vxBKey c w 0))
  | 2 => List.replicate (vxCols w) (bit (vxBKey c w 0) m)
  | _ => List.replicate (vxCols w) (Config.freeBit s.free)

/-! ## Performing an instruction (R190, R194, R219, R221, R227, R231) -/

/-- Must work of the vector engine wait for what the core's other engines have not ended (R190, R228)? -/
def engineHolds (s : State) (c : Nat) (reads writes : List (Nat × Nat)) : Bool :=
  reads.any (fun r => mxHolds s c false r.1 r.2 || moverHolds s c r.1 r.2) ||
  writes.any (fun r => mxHolds s c true r.1 r.2 || moverHolds s c r.1 r.2)

/-- Must the instruction wait: for its place in the layer program (R401), spills ahead of it, a split reduction, or the core's other
engines? -/
def vxWaits (s : State) (b c : Nat) (w : BitVec 256) : Bool :=
  !mayStart s b c 2 false (isVx w) || !(s.core c).latch.isEmpty || (s.core c).split.isSome ||
  engineHolds s c (vxReads c w) (vxWrites c w) || earlierHolds s b c 2 (vxReads c w) (vxWrites c w)

/-- Does a stream leave the seat's windows or touch an area that the device owns (R219, R221)? -/
def vxRefused (s : State) (seat c : Nat) (w : BitVec 256) : Bool :=
  !vxWindows s seat (c / 8) w ||
  (vxKeys c (vxA w) ++ vxKeys c (vxB w) ++ vxWrites c w).any (fun r => ownedArea s r.1 r.2)

/-- Elements that an instruction writes. -/
def vxElems (w : BitVec 256) : Nat := if vxRowOp (LVx.OP.get w) then vxRows w else vxRows w * vxCols w

/-- Writes every row's bytes, all read from the state before. -/
def vxStore (w : BitVec 256) (row : Nat → List (Nat × List Byte)) (s : State) : State :=
  ((List.range (vxRows w)).flatMap row).foldl (fun s p => rawWrite s p.1 p.2) s

/-- An instruction's effect: its rows, the counters, the free bit it may have used. -/
def vxPerform (c : Nat) (w : BitVec 256) (row : State → Nat → List (Nat × List Byte)) (s : State) : State :=
  let t := vxStore w (row s) s
  let t := if LVx.OP.get w = 0x0F ∧ LVx.BMODE.get w = 3 then { t with free := t.free + 1 } else t
  (t.countCore c 0x048 1).countCore c 0x050 (vxElems w)

/-- A vector instruction of the binding in Layers. -/
def vxRun (c b : Nat) (w : BitVec 256) (row : State → Nat → List (Nat × List Byte)) (s : State) : State :=
  if vxWaits s b c w then s
  else
    let s := beginNext s b c 2
    if vxRefused s (s.bind b).seat c w then (s.noteWindow (s.bind b).seat St.window).countCore c 0x048 1
    else match (vxWrites c w).find? (fun d => partialUncorr s d.1 d.2) with
      | some d => engineFault s b d
      | none => withRanges s b (vxReads c w) (vxPerform c w row)

/-- The row of one operation: the form that BIND has checked (R221). -/
def vxRow (op c : Nat) (w : BitVec 256) (row : State → Nat → List (Nat × List Byte)) : State → Host.Outcome State Fault Refusal :=
  act .arith (when (fun _ => coreOk c && LVx.OP.get w == op && vxForm (c % 8) w)
    (fun s => match layerHolder s with
      | some b => vxRun c b w row s
      | none => s))

/-- Element by element from A. -/
def vxMap (f : W32 → W32) (c : Nat) (w : BitVec 256) (s : State) (m : Nat) : List (Nat × List Byte) :=
  [(vxDKey c w m, wordsBytes ((vxARow s c w m).map f))]

/-- Element by element from A and B. -/
def vxZip (f : W32 → W32 → W32) (c : Nat) (w : BitVec 256) (s : State) (m : Nat) : List (Nat × List Byte) :=
  [(vxDKey c w m, wordsBytes (List.zipWith f (vxARow s c w m) (vxBRow s c w m)))]

/-- One element per row (R223). -/
def vxReduce (f : List W32 → W32) (c : Nat) (w : BitVec 256) (s : State) (m : Nat) : List (Nat × List Byte) :=
  [(vxDKey c w 0 + 4 * m, wordsBytes [f (vxARow s c w m)])]

/-- A whole row at a time. -/
def vxWhole (f : State → Nat → List W32 → List W32) (c : Nat) (w : BitVec 256) (s : State) (m : Nat) : List (Nat × List Byte) :=
  [(vxDKey c w m, wordsBytes (f s m (vxARow s c w m)))]

/-! ## The operations (R222) -/

def execVxCvt (core : Nat) (w : BitVec 256) (s : State) : Host.Outcome State Fault Refusal :=
  vxRow 0x01 core w (fun s m =>
    let bits := vxBits (LVx.FD.get w)
    [(vxDKey core w m, packRow s bits (vxDKey core w m) ((vxARow s core w m).map (cvtCode bits)))]) s

def execVxAdd (core : Nat) (w : BitVec 256) (s : State) : Host.Outcome State Fault Refusal :=
  vxRow 0x02 core w (vxZip f32Add core w) s

def execVxSub (core : Nat) (w : BitVec 256) (s : State) : Host.Outcome State Fault Refusal :=
  vxRow 0x03 core w (vxZip f32Sub core w) s

def execVxMul (core : Nat) (w : BitVec 256) (s : State) : Host.Outcome State Fault Refusal :=
  vxRow 0x04 core w (vxZip f32Mul core w) s

def execVxAxpy (core : Nat) (w : BitVec 256) (s : State) : Host.Outcome State Fault Refusal :=
  vxRow 0x05 core w (vxZip (vAxpy (vxImm w)) core w) s

def execVxMax (core : Nat) (w : BitVec 256) (s : State) : Host.Outcome State Fault Refusal :=
  vxRow 0x06 core w (vxZip f32Max core w) s

def execVxMin (core : Nat) (w : BitVec 256) (s : State) : Host.Outcome State Fault Refusal :=
  vxRow 0x07 core w (vxZip f32Min core w) s

def execVxClamp (core : Nat) (w : BitVec 256) (s : State) : Host.Outcome State Fault Refusal :=
  vxRow 0x08 core w (vxMap (vClamp (vxImm w) (vxImm2 w)) core w) s

def execVxRelu (core : Nat) (w : BitVec 256) (s : State) : Host.Outcome State Fault Refusal :=
  vxRow 0x09 core w (vxMap vRelu core w) s

def execVxSilu (core : Nat) (w : BitVec 256) (s : State) : Host.Outcome State Fault Refusal :=
  vxRow 0x0A core w (vxMap f32Silu core w) s

def execVxGelut (core : Nat) (w : BitVec 256) (s : State) : Host.Outcome State Fault Refusal :=
  vxRow 0x0B core w (vxMap f32Gelu core w) s

def execVxExp2 (core : Nat) (w : BitVec 256) (s : State) : Host.Outcome State Fault Refusal :=
  vxRow 0x0C core w (vxMap vExp2 core w) s

def execVxRsqrt (core : Nat) (w : BitVec 256) (s : State) : Host.Outcome State Fault Refusal :=
  vxRow 0x0D core w (vxMap f32Rsqrt core w) s

def execVxDiv (core : Nat) (w : BitVec 256) (s : State) : Host.Outcome State Fault Refusal :=
  vxRow 0x0E core w (vxZip f32Div core w) s

/-- a where the mask bit is 1, else IMM. -/
def execVxSelect (core : Nat) (w : BitVec 256) (s : State) : Host.Outcome State Fault Refusal :=
  vxRow 0x0F core w (fun s m =>
    [(vxDKey core w m, wordsBytes (List.zipWith (fun a b => if b then a else quiet32 (vxImm w)) (vxARow s core w m) (vxMask s core w m)))]) s

def execVxRowsum (core : Nat) (w : BitVec 256) (s : State) : Host.Outcome State Fault Refusal :=
  vxRow 0x10 core w (vxReduce rowSum core w) s

def execVxRowssq (core : Nat) (w : BitVec 256) (s : State) : Host.Outcome State Fault Refusal :=
  vxRow 0x11 core w (vxReduce rowSsq core w) s

def execVxRowmax (core : Nat) (w : BitVec 256) (s : State) : Host.Outcome State Fault Refusal :=
  vxRow 0x12 core w (vxReduce rowMax core w) s

def execVxRowamax (core : Nat) (w : BitVec 256) (s : State) : Host.Outcome State Fault Refusal :=
  vxRow 0x13 core w (vxReduce rowAmax core w) s

def execVxRms (core : Nat) (w : BitVec 256) (s : State) : Host.Outcome State Fault Refusal :=
  vxRow 0x14 core w (vxWhole (fun _ _ row => rmsRow row (vxImm w)) core w) s

/-- ROT (R225): row m at the logical position in word m of R207. -/
def execVxRot (core : Nat) (w : BitVec 256) (s : State) : Host.Outcome State Fault Refusal :=
  vxRow 0x15 core w (vxWhole (fun s m row => rotRow s (LVx.IMM2.get w) (rowPos s core m) (vxBKey core w 0) row) core w) s

/-- QUANT (R212): elements, then one row of scales per row. -/
def execVxQuant (core : Nat) (w : BitVec 256) (s : State) : Host.Outcome State Fault Refusal :=
  vxRow 0x16 core w (fun s m =>
    let kv4 := LVx.FD.get w == 6
    let (sc, el) := kvRow kv4 (vxARow s core w m)
    let k := vxDKey core w m
    [(k, packRow s (if kv4 then 4 else 8) k el),
     (vxDKey core w (vxRows w) + m * scaleRow (LVx.FD.get w) (vxCols w), sc.map (BitVec.ofNat 8 ·))]) s

/-- The triple and header of a record row (R226). -/
def recHdr (s : State) (k : Nat) : BitVec 256 := BitVec.ofNat 256 (readNat s k 32)
def recRow (s : State) (k cols : Nat) : Trip := recTrip ⟨recHdr s k, readWords s (k + 32) cols⟩

/-- Header of a MERGE's output: A's, with M, L, EMPTY and COUNT replaced. -/
def mergeHdr (a b : BitVec 256) (t : Trip) : BitVec 256 :=
  setAll a [(LRec.M, t.m.toNat), (LRec.L, t.l.toNat), (LRec.EMPTY, b2n t.empty),
    (LMrg.COUNT, min 65535 (LMrg.COUNT.get a + LMrg.COUNT.get b))]

def execVxMerge (core : Nat) (w : BitVec 256) (s : State) : Host.Outcome State Fault Refusal :=
  vxRow 0x18 core w (fun s m =>
    let ka := vxAKey core w m
    let kb := vxBKey core w m
    let t := foldTrip (recRow s ka (vxCols w)) (recRow s kb (vxCols w))
    [(vxDKey core w m, bytesOf (mergeHdr (recHdr s ka) (recHdr s kb) t).toNat 32 ++ wordsBytes t.o)]) s

/-- FINAL: O ÷ L, or +0.0 for an EMPTY record. -/
def finalRow (t : Trip) : List W32 := t.o.map (fun x => if t.empty then 0#32 else f32Div x t.l)

def execVxFinal (core : Nat) (w : BitVec 256) (s : State) : Host.Outcome State Fault Refusal :=
  vxRow 0x19 core w (fun s m =>
    [(vxDKey core w m, wordsBytes (finalRow (recRow s (vxAKey core w m) (vxCols w))))]) s

/-! ## Split reductions (R196, R197) -/

/-- FP32 of a partial tile's element; a wide partial's is hi + lo, the lo words in the upper half of each 2 KiB. -/
def partialVal (s : State) (wide : Bool) (k i : Nat) : W32 :=
  if wide then f32Add (readF32 s (k + i / 256 * 2048 + i % 256 * 4)) (readF32 s (k + i / 256 * 2048 + 1024 + i % 256 * 4))
  else readF32 s (k + 4 * i)

/-- Elements of a partial of 16 KiB. -/
def partialElems (wide : Bool) : Nat := if wide then 2048 else 4096

/-- The result after one more partial, with the special values of R178. -/
def partialAdd (s : State) (wide : Bool) (res k i : Nat) : W32 :=
  (mxAdd ⟨readF32 s (res + 4 * i), false, false⟩ ⟨partialVal s wide k i, false, false⟩).v

/-- Bit i of the arrival word. -/
def arrived (s : State) (k i : Nat) : Bool := (readWord s k).getLsbD i

/-- The form of SPLIT_PARTIAL_ADD's operands: P partials, the arrival word and the result in the core's cluster. -/
def splitForm (c base arrival result parts : Nat) (wide : Bool) : Bool :=
  let inMem := fun k n => decide (clusterBase c ≤ k) && decide (k + n ≤ clusterBase c + 0x2400000) && tierOfOffset k == 0 && k % 8 == 0
  decide (2 ≤ parts) && decide (parts ≤ 64) && inMem base (parts * 16384) && inMem arrival 8 && inMem result (4 * partialElems wide) &&
  !overlaps result (4 * partialElems wide) base (parts * 16384)

/-- May the seat's turn touch the area: its windows (R23), and no area that the device owns (R46)? -/
def splitAllowed (s : State) (seat base arrival result parts : Nat) (wide : Bool) : Bool :=
  let out := 4 * partialElems wide
  rangesIn s seat false [(base, parts * 16384)] && rangesIn s seat true [(arrival, 8), (result, out)] &&
  [(base, parts * 16384), (arrival, 8), (result, out)].all (fun r => !ownedArea s r.1 r.2)

/-- The reduction that a core has under way, or a new one; a later command names the same area. -/
def splitOf (s : State) (c base arrival result parts : Nat) : Option Split :=
  match (s.core c).split with
  | some x => if x.base = base ∧ x.arrival = arrival ∧ x.result = result ∧ x.parts = parts then some x else none
  | none => some ⟨base, arrival, result, parts, 0⟩

/-- The area's first bit, where it is set otherwise than by an atomic OR, is noted as it is first met (R197). -/
def noteFirst (s : State) (k : Nat) : State :=
  if readWord s k = 0#64 || s.fab.arrivals.any (fun a => a.1 == k) then s else awaitBits s k (now s + tierTimeout s)

/-- A reduction is named: the partials that tile moves of this turn have placed in its area already set their bits, and the time of
the others runs from the first of them (R196, R197). -/
def openSplit (c : Nat) (x : Split) (s : State) : State :=
  let s := s.updCore c (fun y => { y with split := some x })
  let hits := s.fab.placed.filter (fun p => !(areaHits x p.1 1).isEmpty)
  match hits with
  | [] => noteFirst s x.arrival
  | p :: _ =>
    let fresh := readWord s x.arrival = 0#64
    let s := setBits { s with fab := { s.fab with placed := s.fab.placed.filter (fun p => !hits.contains p) } } x
      (hits.flatMap (fun p => areaHits x p.1 1))
    if fresh then awaitBits s x.arrival (hits.foldl (fun n q => min n q.2) p.2) else noteFirst s x.arrival

/-- The next partial, once its arrival bit is set: partial 0 is the first result, the others are added in order. The vector
engine counts each as an instruction (R231; DESIGN CHOICE, log entry 81). -/
def splitStep (c b : Nat) (wide : Bool) (x : Split) (s : State) : State :=
  let k := x.base + x.next * 16384
  let out := 4 * partialElems wide
  if !arrived s x.arrival x.next || engineHolds s c [(k, 16384), (x.arrival, 8)] [(x.result, out)] then s
  else withRanges s b [(k, 16384), (x.result, out)] (fun s =>
    let vals := (List.range (partialElems wide)).map (fun i =>
      if x.next = 0 then partialVal s wide k i else partialAdd s wide x.result k i)
    let s := ((rawWrite s x.result (wordsBytes vals)).countCore c 0x048 1).countCore c 0x050 (partialElems wide)
    s.updCore c (fun y => { y with split := if x.next + 1 = x.parts then none else some { x with next := x.next + 1 } }))

/-- SPLIT_PARTIAL_ADD (R196). The command names the assembly area from then on (DEDUCED, log entry 55). -/
def execSplitPartialAdd (core base arrival result parts : Nat) (wide : Bool) (s : State) : Host.Outcome State Fault Refusal :=
  act .arith (when (fun s => coreOk core && (s.core core).latch.isEmpty && splitForm core base arrival result parts wide)
    (fun s => match layerHolder s, splitOf s core base arrival result parts with
      | some b, some x =>
        if !splitAllowed s (s.bind b).seat base arrival result parts wide then s.noteWindow (s.bind b).seat St.window
        else splitStep core b wide x (if (s.core core).split.isSome then noteFirst s arrival else openSplit core x s)
      | _, _ => s)) s

/-- Is a core's split reduction lost: is a bit not set tier_timeout after the area's first (R197, R257)? -/
def splitLost (s : State) (c : Nat) : Bool :=
  match (s.core c).split with
  | some x => readWord s x.arrival != 0#64 && s.fab.arrivals.any (fun a => a.1 == x.arrival && decide (a.2 ≤ now s)) &&
      (List.range x.parts).any (fun i => !arrived s x.arrival i)
  | none => false

/-- A core's split reduction is given up: counted, the turn abandoned (R197). -/
def splitGiveUp (s : State) (c : Nat) : State :=
  match layerHolder s with
  | none => s
  | some b => abandonTurn ((s.countCore c 0x040 1).updCore c (fun x => { x with split := none })) b

/-- SPLIT_TIMEOUT (R197). -/
def execSplitTimeout (core : Nat) (s : State) : Host.Outcome State Fault Refusal :=
  act .arith (when (fun s => coreOk core && splitLost s core) (fun s => splitGiveUp s core)) s

end Sys2Proof.Machine
end

