-- ==== Sys2Proof/Machine/Coll.lean ====
section
/-! DEFINITION. Collective steps on the fabric engines (R349 to R351). -/

namespace Sys2Proof.Machine

/-- The requester number of base die e's fabric engine. -/
def collUnit (e : Nat) : Nat := 0x2000 + e

def collRun (s : State) (e : Nat) : Option CollRun := Tab.get s.fab.coll none e
def setColl (s : State) (e : Nat) (x : Option CollRun) : State :=
  { s with fab := { s.fab with coll := Tab.set s.fab.coll none e x } }

/-- Data bytes of a step. -/
def collLen (w : BitVec 512) : Nat := LColl.UNITS.get w * 64
def collSrc (w : BitVec 512) : Nat := LColl.SRC.get w
def collDst (w : BitVec 512) : Nat := LColl.DST.get w

/-- Members along a ring step's axis, and this device's rank. -/
def collMembers (s : State) (w : BitVec 512) : List Nat := blockCoords s s.fab.slice (LColl.AXIS.get w)
def collCount (s : State) (w : BitVec 512) : Nat := axisMembers s (LColl.AXIS.get w)
def collRank (s : State) (w : BitVec 512) : Nat :=
  if sliceState s = 0 then 0 else (collMembers s w).idxOf (coord (ownChip s) (LColl.AXIS.get w))

/-- Bytes of SRC that a ring step reads on this device: its own part of an ALLGATHER, nothing of a BCAST but at the root (R350). -/
def collReadLen (s : State) (w : BitVec 512) : Nat :=
  match LColl.OP.get w with
  | 4 => collLen w / collCount s w
  | 5 => if LColl.PEER.get w = ownChip s then collLen w else 0
  | _ => collLen w

/-- The status that the seat's windows give a step's own accesses (R20 to R23): 64-byte moves, an 8-byte flag word. -/
def collStatus (s : State) (seat : Nat) (w : BitVec 512) : Nat :=
  let own := ownChip s * 2 ^ 40
  let peer := LColl.PEER.get w * 2 ^ 40
  let read := if collReadLen s w = 0 then St.ok else moveStatus s seat false (own + collSrc w) (collReadLen s w)
  match LColl.OP.get w with
  | 1 => firstFail [
      (moveStatus s seat false (own + collSrc w) (collLen w) != St.ok, moveStatus s seat false (own + collSrc w) (collLen w)),
      (moveStatus s seat true (peer + collDst w) (collLen w) != St.ok, moveStatus s seat true (peer + collDst w) (collLen w)),
      (accessStatus s seat true (peer + LColl.FLAG.get w) 8 != St.ok, accessStatus s seat true (peer + LColl.FLAG.get w) 8)]
  | 2 => accessStatus s seat false (own + LColl.FLAG.get w) 8
  | _ => firstFail [(read != St.ok, read),
      (moveStatus s seat true (own + collDst w) (collLen w) != St.ok, moveStatus s seat true (own + collDst w) (collLen w))]

/-- A step that fails or does not complete: counted, the turn abandoned (R351). -/
def collFail (s : State) (b e : Nat) : State :=
  abandonTurn (setColl { s with bank := { s.bank with collTimeout := s.bank.collTimeout + 1#64 } } e none) b

/-- Has a PUT's last request completed? -/
def putDone (s : State) (e : Nat) : Bool :=
  !(s.fab.outstanding ++ s.fab.held.map (·.req)).any (fun r => r.unit == collUnit e)

/-- Is the engine free for a step: none under way, or a PUT all of whose requests have completed? -/
def collFree (s : State) (e : Nat) : Bool :=
  match collRun s e with
  | none => true
  | some x => LColl.OP.get x.step == 1 && putDone s e && !x.failed

/-- Does the layer program give an engine any step, on either path? The engine is that of the base die of the record's cluster. -/
def collListed (s : State) (b e : Nat) : Bool :=
  (lpRecords s (s.bind b).brec).any (fun w => lpKind w == 3 && lpCluster w / 8 == e)

/-- The step that an engine begins next: the first of its records on the turn's path that has not begun (R401). -/
def nextStep (s : State) (b e : Nat) : Option (Nat × BitVec 1024) :=
  (pathRecords s b).find? (fun r => lpKind r.2 == 3 && lpCluster r.2 / 8 == e && !s.fab.collDone.contains r.1)

/-- Is the step the one under way, or may it begin: the engine free, and the step next in the layer program (R401; an engine
to which the program gives no step takes steps as they come, log entry 88)? -/
def collMay (s : State) (e : Nat) (w : BitVec 512) : Bool :=
  (collFree s e && (layerHolder s).any (fun b => !collListed s b e || (nextStep s b e).any (fun r => lpBody512 r.2 == w))) ||
  (LColl.OP.get w != 1 && !collFree s e && (collRun s e).any (fun x => x.step == w))

/-- The step stands under way from now on, unless it already does; its record has begun. -/
def collBegin (s : State) (b e : Nat) (w : BitVec 512) : State :=
  if (collRun s e).any (fun x => x.step == w) && !collFree s e then s
  else
    let s := match nextStep s b e with
      | some r => { s with fab := { s.fab with collDone := s.fab.collDone ++ [r.1] } }
      | none => s
    setColl s e (some ⟨w, now s, false⟩)

/-- The row of one operation on a base die's engine, in the turn's Layers. `f` completes the step or leaves it under way. -/
def collRow (op e : Nat) (w : BitVec 512) (f : Nat → State → State) : State → Host.Outcome State Fault Refusal :=
  act .arith (when (fun s => decide (e < 4) && LColl.OP.get w == op && collOk s e w && collMay s e w)
    (fun s => match layerHolder s with
      | none => s
      | some b =>
        let st := collStatus s (s.bind b).seat w
        if st ≠ St.ok then collFail (s.noteWindow (s.bind b).seat st) b e else f b (collBegin s b e w)))

/-- COLL_PUT: the data in bulk puts, then an atomic OR of MASK at FLAG (R350); to this device itself, at once. -/
def collPut (e b : Nat) (w : BitVec 512) (s : State) : State :=
  let seat := (s.bind b).seat
  let k := collSrc w
  if uncorrAt s k (collLen w) then collFail (noteUncorr s k (collLen w) 3 seat (some b)) b e
  else
    let s := noteCorr s k (collLen w) false
    if LColl.PEER.get w = ownChip s then
      let s := moverCopy s (4, 3 * e + 1) k (collDst w) (collLen w)
      setColl (orWord s (LColl.FLAG.get w) (LColl.MASK.get w)) e none
    else
      let s := putPackets s none (collUnit e) (LColl.PEER.get w) 2 seat (collDst w) (readBytes s k (collLen w))
      issue s (collUnit e) (LColl.PEER.get w) 2 seat false 0 0
        [(LPkt.TYPE, 3), (LPkt.AOP, 3), (LPkt.SIZE, 0), (LPkt.ADDR, LColl.FLAG.get w), (LPkt.DATA, LColl.MASK.get w)] 0#4096

def execCollPut (engine : Nat) (step : BitVec 512) (s : State) : Host.Outcome State Fault Refusal :=
  collRow 1 engine step (fun b => collPut engine b step) s

/-- COLL_WAIT: completes when every MASK bit of the local flag word is 1. -/
def collWait (e b : Nat) (w : BitVec 512) (s : State) : State :=
  let k := LColl.FLAG.get w
  if uncorrAt s k 8 then collFail (noteUncorr s k 8 3 (s.bind b).seat (some b)) b e
  else if readNat s k 8 &&& LColl.MASK.get w = LColl.MASK.get w then setColl s e none
  else s

def execCollWait (engine : Nat) (step : BitVec 512) (s : State) : Host.Outcome State Fault Refusal :=
  collRow 2 engine step (fun b => collWait engine b step) s

/-- Performs a ring step or a broadcast: the own data is read, the result written, the step completes. -/
def collResult (e b : Nat) (w : BitVec 512) (len : Nat) (result : List Byte → List Byte) (s : State) : State :=
  let k := collSrc w
  if uncorrAt s k len then collFail (noteUncorr s k len 3 (s.bind b).seat (some b)) b e
  else setColl (moverWrite (noteCorr s k len false) (4, 3 * e + 1) (collDst w) (result (readBytes s k len))) e none

/-- Values of a member's data: FP32 words, or BF16 decoded exactly. -/
def collVals (bf16 : Bool) (l : List Byte) : List W32 :=
  (List.range (l.length / (if bf16 then 2 else 4))).map (fun i =>
    if bf16 then BitVec.ofNat 32 (ofBytes ((l.drop (2 * i)).take 2) * 65536) else BitVec.ofNat 32 (ofBytes ((l.drop (4 * i)).take 4)))

/-- Ranks in the order in which chunk c of a half is summed (R350): c + 1, c + 2, ... on the first half, c − 1, c − 2, ... on
the second. -/
def sumOrder (n c : Nat) (second : Bool) : List Nat :=
  (List.range n).map (fun i => if second then (c + n * (i + 1) - (i + 1)) % n else (c + 1 + i) % n)

/-- The chunk in which element i of m lies: its number and half. -/
def chunkOf (n m i : Nat) : Nat × Bool := (i % (m / 2) / (m / 2 / n), decide (m / 2 ≤ i))

/-- Element i of an ALLREDUCE over the members' values by rank. -/
def reduceAt (vals : List (List W32)) (m i : Nat) : W32 :=
  let n := vals.length
  let (c, second) := chunkOf n m i
  let at' := fun r => (vals.getD r []).getD i 0#32
  match sumOrder n c second with
  | [] => 0#32
  | r :: rest => rest.foldl (fun acc q => f32Add acc (at' q)) (quiet32 (at' r))

/-- The result of an ALLREDUCE (R350): sums in FP32, BF16 results converted by R230. -/
def reduceBytes (bf16 : Bool) (data : List (List Byte)) : List Byte :=
  let vals := data.map (collVals bf16)
  let m := (vals.headD []).length
  (List.range m).flatMap (fun i =>
    if bf16 then bytesOf (toBf16 (reduceAt vals m i)) 2 else bytesOf (reduceAt vals m i).toNat 4)

/-- The members' data by rank: what came from the others, with this device's own in its place. -/
def withOwn (rank : Nat) (own : List Byte) (inputs : List (List Byte)) : List (List Byte) := inputs.set rank own

/-- Have all members' data, each of `len` bytes, come? -/
def inputsOk (n len : Nat) (inputs : List (List Byte)) : Bool := inputs.length == n && inputs.all (fun l => l.length == len)

/-- COLL_ALLREDUCE: `inputs` are the members' data by rank, as they came over the ring. -/
def execCollAllreduce (engine : Nat) (step : BitVec 512) (inputs : List (List Byte)) (s : State) :
    Host.Outcome State Fault Refusal :=
  collRow 3 engine step (fun b s =>
    if inputsOk (collCount s step) (collLen step) inputs then
      collResult engine b step (collLen step)
        (fun own => reduceBytes (LColl.FMT.on step) (withOwn (collRank s step) own inputs)) s
    else s) s

/-- COLL_ALLGATHER: DST receives the members' UNITS ÷ n units in rank order. -/
def execCollAllgather (engine : Nat) (step : BitVec 512) (inputs : List (List Byte)) (s : State) :
    Host.Outcome State Fault Refusal :=
  collRow 4 engine step (fun b s =>
    let part := collLen step / collCount s step
    if inputsOk (collCount s step) part inputs then
      collResult engine b step part (fun own => (withOwn (collRank s step) own inputs).flatten) s
    else s) s

/-- COLL_BCAST: DST receives the root's data. -/
def execCollBcast (engine : Nat) (step : BitVec 512) (data : List Byte) (s : State) : Host.Outcome State Fault Refusal :=
  collRow 5 engine step (fun b s =>
    if LColl.PEER.get step = ownChip s then collResult engine b step (collLen step) id s
    else if data.length = collLen step then setColl (moverWrite s (4, 3 * engine + 1) (collDst step) data) engine none
    else s) s

/-- COLL_TIMEOUT (R351): the step has not completed tier_timeout after its issue, or a request of it failed. -/
def execCollTimeout (engine : Nat) (s : State) : Host.Outcome State Fault Refusal :=
  act .arith (when (fun s => !collFree s engine && (collRun s engine).any (fun x => x.failed || decide (x.since + tierTimeout s ≤ now s)))
    (fun s => match layerHolder s with
      | some b => collFail s b engine
      | none => setColl s engine none)) s

end Sys2Proof.Machine
end

