-- ==== Sys2Proof/Machine/Dice.lean ====
section
/-! DEFINITION. The dice units' draw of one sampled row (12_sampling.md, R309 to R315). -/

namespace Sys2Proof.Machine

/-- The 32-bit value x of gen_u (R312). -/
def genWord (seed pos t : Nat) : W32 :=
  let x := mix32 (BitVec.ofNat 32 seed ^^^ mix32 (BitVec.ofNat 32 pos))
  let x := mix32 (x ^^^ BitVec.ofNat 32 (seed / 2 ^ 32))
  mix32 (x ^^^ BitVec.ofNat 32 t)

def gumbel (seed pos t : Nat) : W32 := f32Gumbel (genWord seed pos t)

/-- A token that may be drawn: its number and its s. -/
abbrev Scored := Nat × W32

/-- Does x rank above y: larger s, then lower token (R313)? -/
def ranksAbove (x y : Scored) : Bool :=
  (dec32 y.2).lt (dec32 x.2) || ((dec32 x.2).same (dec32 y.2) && decide (x.1 < y.1))

def rankInsert (x : Scored) : List Scored → List Scored
  | [] => [x]
  | y :: rest => if ranksAbove x y then x :: y :: rest else y :: rankInsert x rest

def rankSort (l : List Scored) : List Scored := l.foldr rankInsert []

/-- The token of the largest value, the lowest among equals. -/
def best (l : List Scored) : Option Nat :=
  (l.foldl (fun b x => match b with
    | none => some x
    | some y => if ranksAbove x y then some x else some y) none).map (·.1)

/-- Walks the nucleus in rank order: the number of tokens kept, whether the sum reached TOPP (R313). -/
def nucleus (m z topp : W32) : List Scored → W32 → Nat → Nat
  | [], _, n => n
  | x :: rest, c, n =>
    let c := f32Add c (f32Div (f32Exp (f32Sub x.2 m)) z)
    if (dec32 c).lt (dec32 topp) then nucleus m z topp rest c (n + 1) else n + 1

/-- What a draw decides. -/
structure Draw where
  token : Option Nat
  nans : Nat
  wide : Bool
  deriving DecidableEq, Repr

/-- Candidates after top-k (R313). -/
def topK (k : Nat) (a : List Scored) : List Scored :=
  if k = 0 then a else
    let r := (rankSort a).take k
    a.filter (fun x => r.any (fun y => y.1 == x.1))

/-- Candidates after top-p, and whether the nucleus is wider than the candidate buffer (R313). -/
def topP (k : Nat) (topp : W32) (a : List Scored) : List Scored × Bool :=
  if !(dec32 topp).lt (dec32 0x3F800000#32) then (a, false)
  else
    let r := rankSort a
    let m := (r.headD (0, 0#32)).2
    let z := a.foldl (fun z x => f32Add z (f32Exp (f32Sub x.2 m))) 0#32
    let n := nucleus m z topp r 0#32 0
    if k = 0 && decide (n > 1024) then (a, true) else (r.take n, false)

/-- draw of R313 over the allowed tokens and their logits, ascending. -/
def drawRow (temp topp : W32) (topk seed pos : Nat) (a : List Scored) : Draw :=
  let nans := (a.filter (fun x => (dec32 x.2).isNan)).length
  if temp = 0#32 then ⟨best (a.filter (fun x => !(dec32 x.2).isNan)), nans, false⟩
  else
    let a := (a.map (fun x => (x.1, f32Div x.2 temp))).filter (fun x => !(dec32 x.2).isNan && dec32 x.2 != Num.inf true)
    let tops := a.filter (fun x => dec32 x.2 == Num.inf false)
    let a := if tops.isEmpty then a else tops.map (fun x => (x.1, 0#32))
    let p := topP topk topp (topK topk a)
    ⟨best (p.1.map (fun x => (x.1, f32Add x.2 (gumbel seed pos x.1)))), nans, p.2⟩

/-! ## What a row reads (R306, R307, R310, R315) -/

def bitAt (s : State) (a i : Nat) : Bool := (memByte s (keyOf s a + i / 8)).toNat.testBit (i % 8)

/-- May every byte of a range be read for the seat at Sample (R315)? -/
def sampReadable (s : State) (seat a len : Nat) : Bool := accessStatus s seat false a len == St.ok && !uncorrAt s (keyOf s a) len

/-- Does the row's set contain token t (R306, R307)? -/
def tokenAllowed (s : State) (w : BitVec 512) (stride row t : Nat) : Bool :=
  (match LSamp.ALLOW.get w with
    | 0 => true
    | 1 => bitAt s (LSamp.AADDR.get w) t
    | _ => (List.range (LSamp.ALLOW_N.get w)).any (fun k => viewNat s (keyOf s (LSamp.AADDR.get w + 4 * k)) 4 == t)) &&
  (!LSamp.GRAMMAR.on w || bitAt s (LSamp.GADDR.get w + 64 + row * stride) t)

/-- Can the row be drawn: its logits, its allowed set, its grammar bitmap (R315, R471)? -/
def rowReadable (s : State) (x : Bind) (e : TEnt) (i row : Nat) : Bool :=
  let seat := rSeat s (entSlot e)
  let stride := bitmapStride x.brec
  !uncorrAt s (logitKey x i) (2 * LBindRec.VOCAB.get x.brec) &&
  (LSamp.ALLOW.get e.samp == 0 || sampReadable s seat (LSamp.AADDR.get e.samp)
    (if LSamp.ALLOW.get e.samp = 1 then stride else 4 * LSamp.ALLOW_N.get e.samp)) &&
  (!LSamp.GRAMMAR.on e.samp || sampReadable s seat (LSamp.GADDR.get e.samp + 64 + row * stride) stride)

/-- Counts and logs what a row that cannot be drawn met (R427, R471): in its logits, allowed set and grammar bitmap. -/
def noteRow (s : State) (b : Nat) (e : TEnt) (i row : Nat) : State :=
  let x := s.bind b
  let seat := rSeat s (entSlot e)
  let stride := bitmapStride x.brec
  let note := fun (s : State) (on : Bool) (a n : Nat) =>
    if on then (noteBad s (keyOf s a) n 0 seat (some b)).noteWindow seat (accessStatus s seat false a n) else s
  let s := noteBad s (logitKey x i) (2 * LBindRec.VOCAB.get x.brec) 3 seat (some b)
  note (note s (LSamp.ALLOW.get e.samp != 0) (LSamp.AADDR.get e.samp)
      (if LSamp.ALLOW.get e.samp = 1 then stride else 4 * LSamp.ALLOW_N.get e.samp))
    (LSamp.GRAMMAR.on e.samp) (LSamp.GADDR.get e.samp + 64 + row * stride) stride

/-- Sampled row i, row `row` of entry k, is drawn. -/
def drawAt (s : State) (b i k row : Nat) : State :=
  let x := s.bind b
  match x.turn[k]? with
  | none => s
  | some e =>
    if !rowReadable s x e i row then
      failSlot (noteRow s b e i row) b (entSlot e) 1
    else
      let a := ((List.range (LBindRec.VOCAB.get x.brec)).filter
        (tokenAllowed s e.samp (bitmapStride x.brec) row)).map
          (fun t => (t, BitVec.ofNat 32 (readNat s (logitKey x i + 2 * t) 2 * 65536)))
      let d := drawRow (BitVec.ofNat 32 (LSamp.TEMP.get e.samp)) (BitVec.ofNat 32 (LSamp.TOPP.get e.samp))
        (LSamp.TOPK.get e.samp) (LEnt.SEED.get (s.req (entSlot e))) (logicalPos e row + 1) a
      let place := if entDec e then row else 0
      let e' := { e with draws := e.draws.set place (some d.token) }
      let s := s.updBind b (fun y => { y with turn := y.turn.set k e' })
      let s := (s.countBind b BC.sampledRows 1).countBind b BC.nanLogit d.nans
      if d.wide then s.countBind b BC.toppWide 1 else s

/-- Is sampled row i the next of its dice unit (R310)? -/
def nextOfUnit (x : Bind) (i : Nat) : Bool :=
  let drawn := fun n => match sampledRow x.turn n with
    | some (k, r) => match x.turn[k]? with
      | some e => e.fault != 0 || (e.draws.getD (if entDec e then r else 0) none).isSome
      | none => true
    | none => true
  (List.range (i / 4)).all (fun j => drawn (i % 4 + 4 * j)) && !drawn i

/-- DICE_ROW_DRAW (R313): dice unit i mod 4 draws sampled row i. -/
def execDiceRowDraw (i : Nat) (s : State) : Host.Outcome State Fault Refusal :=
  act .arith (when (fun s => match holderIn s 4 with
      | some b => (sampledRow (s.bind b).turn i).isSome && nextOfUnit (s.bind b) i
      | none => false)
    (fun s => match holderIn s 4 with
      | none => s
      | some b => match sampledRow (s.bind b).turn i with
        | some (k, row) => drawAt s b i k row
        | none => s)) s

end Sys2Proof.Machine
end

