-- ==== Sys2Proof/Machine/Commit.lean ====
section
/-! DEFINITION. The commit section: acceptance, riser commits and flushes, the index, debits, samples, ring writes, the
seal of a mirrored seat, the next close; Release (02_turn.md, R123, R134, R278, R293, R300 to R303, R319 to R322). -/

namespace Sys2Proof.Machine

/-! ## Acceptance (R278, R319 to R321) -/

/-- The lowest child of node u whose token is t. -/
def childOf (d : List (Nat × Nat)) (u t : Nat) : Option Nat :=
  ((List.range d.length).find? (fun i => d.getD i (0, 0) == (t, u))).map (· + 1)

/-- The accepted path from node u on (R319). -/
def walkDraft (e : TEnt) : Nat → Nat → List Nat
  | 0, u => [u]
  | fuel + 1, u =>
    match (e.draws.getD u none).getD none with
    | none => [u]
    | some t => match childOf e.draft u t with
      | some v => u :: walkDraft e fuel v
      | none => [u]

/-- What an entry's rows come to. -/
structure Accept where
  /-- Tokens delivered, ascending: token, accepted draft token. -/
  tokens : List (Nat × Bool)
  /-- Rows committed, in path order. -/
  rows : List Nat
  /-- Draft tokens accepted. -/
  a : Nat
  /-- The path ends in an empty set. -/
  empty : Bool
  deriving DecidableEq, Repr

/-- R319 and R321. -/
def acceptRows (e : TEnt) : Accept :=
  if entDec e then
    let path := walkDraft e e.draft.length 0
    let last := path.getLastD 0
    let drafts := (path.drop 1).map (fun i => ((e.draft.getD (i - 1) (0, 0)).1, true))
    match (e.draws.getD last none).getD none with
    | some t => ⟨drafts ++ [(t, false)], path, path.length - 1, false⟩
    | none => ⟨drafts, path.dropLast, path.length - 1, true⟩
  else if !LLenEnt.SAMPLE.on e.len then ⟨[], List.range (entQ e), 0, false⟩
  else
    match (e.draws.getD 0 none).getD none with
    | some t => ⟨[(t, false)], List.range (entQ e), 0, false⟩
    | none => ⟨[], List.range (entQ e - 1), 0, true⟩

/-- The delivery cut at the first end token (R278); a decoding entry's rows are cut with it. -/
def cutEnd (ends : List Nat) (e : TEnt) (x : Accept) : Accept × Bool :=
  match x.tokens.findIdx? (fun t => ends.contains t.1) with
  | none => (x, false)
  | some i => ({ x with tokens := x.tokens.take (i + 1), rows := if entDec e then x.rows.take (i + 1) else x.rows }, true)

/-! ## The prefix index's insertion (R134) -/

/-- Entry of a flushed column. -/
def idxMake (h : W64) (run parent start b group : Nat) : BitVec 256 :=
  setAll 0#256 [(LIdx.HASH, h.toNat), (LIdx.RUN, run / 16384), (LIdx.PARENT, parent), (LIdx.PSTART, start),
    (LIdx.BINDING, b), (LIdx.GROUP, group), (LIdx.VALID, 1)]

/-- Inserts an entry for column j's run; counts where there is an equal one or no room. -/
def idxInsert (s : State) (b p i : Nat) (w : BitVec 256) (toks : List Nat) : State :=
  let h : W64 := BitVec.ofNat 64 (LIdx.HASH.get w)
  let keys := (List.range 8).map (idxKey s h)
  let same := fun k => idxValid s k && (LIdx.RUN.set (idxRead s k) 0 == LIdx.RUN.set w 0) &&
    tokenArea s (laneKey s b (LIdx.RUN.get (idxRead s k) * 16384) 0) toks.length == toks
  if keys.any same then s.countBind b BC.idxDup 1
  else
    match keys.find? (fun k => !idxValid s k) with
    | none => s.countBind b BC.idxFull 1
    | some k => (rawWrite s k (bytesOf w.toNat 32)).updBind b (fun x => updRunRec x p i [(LRunRec.INDEXED, 1)])

/-! ## Risers at the commit (R123) -/

/-- Copies an accepted tree path's entries to positions K, K + 1, ... in every lane (R123). -/
def compactTree (s : State) (b : Nat) (e : TEnt) (rows : List Nat) : State :=
  let r := (s.bind b).brec
  let t := gTpp r
  let place := fun (p : Nat) => (e.sets.find? (fun x => x.1 == p / t)).map (fun x => (x.2, p % t))
  (List.range rows.length).foldl (fun s i =>
    let n := rows.getD i i
    match place (entK e + n), place (entK e + i) with
    | some (f, q), some (f', q') =>
      if n = i then s
      else (List.range (gLanes r)).foldl (fun s lane =>
        dupRiser (copyEntry s r (riserKey s (f + lane)) q (riserKey s (f' + lane)) q') (entSlot e) (riserKey s (f' + lane)) 16384) s
    | _, _ => s) s

/-- Flushes one full column of an entry into its reserved run, enters the run in the table and the index (R123, R134). -/
def flushColumn (s : State) (b : Nat) (e : TEnt) (keep : Nat) (col : Nat) : State :=
  let slot := entSlot e
  let q := s.req slot
  let r := (s.bind b).brec
  let t := gTpp r
  match e.sets.find? (fun x => x.1 == col), e.runs.find? (fun x => x.1 == col) with
  | some (_, f), some (_, p, i) =>
    let toks := tokenArea s (riserKey s f) t
    let h := chainNext s (LEnt.SEAT.get q) (LEnt.GROUP.get q) (s.rx slot).chain toks
    let j0 := (variantOf s q).vlen / t
    let first := col == j0
    let parent := if first then (if LEnt.VAR_ON.on q then LEnt.VARIANT.get q else 0x7FF)
      else ptAddr (ptEntry s q (col - 1)) / 16384
    let s := s.updBind b (fun x => { updRunRec x p i [(LRunRec.REFCNT, 1), (LRunRec.RESERVED, 0)] with
      flushes := x.flushes ++ [⟨slot, col, .set f, .run (runAddr r p i), t, [], [], col != keep, 0⟩] })
    let s := s.countBind b BC.flushes 1
    let s := ptWrite s q col (ptMake (runAddr r p i) p 1 0)
    let s := if LEnt.SHARE_ON.on q && decide (j0 ≤ col) then
        idxInsert s b p i (idxMake h (runAddr r p i) parent (b2n first) b (LEnt.SEAT.get q * 4096 + LEnt.GROUP.get q)) toks
      else s
    s.updRx slot (fun x => { x with chain := h })
  | _, _ => s

/-- Steps 2 and 3 of R123 for an entry that goes on. -/
def commitSets (s : State) (b : Nat) (e : TEnt) (newLen : Nat) : State :=
  let slot := entSlot e
  let t := gTpp (s.bind b).brec
  let cols := (List.range (newLen / t - entK e / t)).map (· + entK e / t)
  let heldCol := if newLen % t ≠ 0 then newLen / t else newLen / t - 1
  let held := (e.sets.find? (fun x => x.1 == heldCol)).or e.sets.head?
  let s := cols.foldl (fun s j => flushColumn s b e ((held.map (·.1)).getD 0) j) s
  let s := (e.runs.filter (fun x => !cols.contains x.1)).foldl (fun s x => unreserve s b x.2.1 x.2.2) s
  let s := (e.sets.filter (fun x => some x != held && !cols.contains x.1)).foldl (fun s x => freeSet s (rSeat s slot) x.2) s
  s.updRx slot (fun x => { x with held := held.map (·.2) })

/-- What a seeded request lets go at its first commit point: its KIND 2 run or the fork's hold (R126, R136). The manual does not say
what the column's entry then holds: it stays (DESIGN CHOICE, log entry 110). -/
def endSeed (s : State) (b : Nat) (e : TEnt) : State :=
  let slot := entSlot e
  if !e.seeded then s
  else
    let x := s.rx slot
    let s := if x.tailRun then
        match findRun (s.bind b).brec (ptAddr (ptEntry s (s.req slot) (entK e / gTpp (s.bind b).brec))) with
        | some (p, i) => refDrop s b p i
        | none => s
      else s
    let s := match x.forkHold with
      | some (p, i) => refDrop s b p i
      | none => s
    s.updRx slot (fun x => { x with seed := none, forkHold := none, tailRun := false })

/-! ## Latency samples and debits (R293, R300 to R303) -/

/-- The bucket of a sample (R301). -/
def bucketOf (e t : Nat) : Nat :=
  if t < 2 ^ e then 0 else if t ≥ 2 ^ (e + 15) then 31 else Nat.log2 (t * t) - 2 * e + 1

/-- Adds one sample to a histogram block: words of the block from `base` (R302). -/
def addSample (h : Tab W64) (base : Nat) (ttft : Bool) (t : Nat) (miss : Bool) : Tab W64 :=
  let o := base + if ttft then 0 else 40
  let h := ctrAdd h (o + bucketOf (if ttft then 18 else 14) t) 1
  let h := if miss then ctrAdd h (o + 32) 1 else h
  ctrAdd h (o + 33) t

/-- One sample of a request, to its seat's and its stake's histograms (R301). -/
def sampleReq (s : State) (slot : Nat) (ttft : Bool) (t : Nat) : State :=
  let e := s.req slot
  let tgt := if ttft then LEnt.TTFT_TGT.get e else LEnt.TBT_TGT.get e
  let miss := tgt != 0 && decide (t > tgt * 1000)
  { s with hist := addSample (addSample s.hist (128 * LEnt.SEAT.get e) ttft t miss)
                    (2 ^ 20 + 128 * LEnt.STAKE.get e) ttft t miss }

/-- The samples of a request that the turn delivers n tokens (R300, R286). -/
def sampleTokens (s : State) (slot n time : Nat) : State :=
  if n = 0 then s
  else
    let x := s.rx slot
    let gap := time - LEnt.T_LAST.get (s.req slot)
    let s := if x.firstDue then sampleReq s slot true (time - x.tRef) else sampleReq s slot false gap
    let s := if n ≥ 2 then sampleReq s slot false (if x.firstDue then gap else 0) else s
    let s := (List.range (n - 2)).foldl (fun s _ => sampleReq s slot false 0) s
    s.updRx slot (fun y => { y with firstDue := false })

/-- A stake's debit (R293). -/
def debit (s : State) (n tokens units : Nat) : State :=
  let w := s.stake n
  let level : Int := max (LStake.LEVEL.getInt w - (units : Nat)) (-((LStake.BURST.get w * 65536 : Nat) : Int))
  s.setStake n (LStake.CHARGED.set (LStake.LEVEL.setInt w level) (LStake.CHARGED.get w + tokens))

/-! ## One entry of the turn -/

/-- An entry's result: how its request stands after the commit point. -/
structure Outcome where
  ent : TEnt
  acc : Accept
  /-- END and DETAIL, END 0 for none. -/
  stop : Nat
  detail : Nat
  /-- Its rows are dropped. -/
  drop : Bool
  /-- It pauses by HOLD. -/
  hold : Bool
  deriving DecidableEq, Repr

/-- The events a commit point presents to an entry's request, decided in R265's order. -/
def outcomeOf (s : State) (b : Nat) (e : TEnt) : Outcome :=
  let slot := entSlot e
  let q := s.req slot
  let x := s.rx slot
  let r := (s.bind b).brec
  let none' : Accept := ⟨[], [], 0, false⟩
  if x.cancelDue ≠ 0 then ⟨e, none', 3, x.cancelDue, true, false⟩
  else if e.fault ≠ 0 then ⟨e, none', 4, e.fault, true, false⟩
  else if dueFault s slot ≠ 0 then ⟨e, none', 4, dueFault s slot, true, false⟩
  else
    let (acc, ended) := cutEnd (endTokens r) e (acceptRows e)
    if ended then (if LEnt.HOLD.on q then ⟨e, acc, 0, 0, false, true⟩ else ⟨e, acc, 1, 0, false, false⟩)
    else if entK e + acc.rows.length ≥ lenBound q r && !acc.rows.isEmpty then ⟨e, acc, 2, 0, false, false⟩
    else ⟨e, acc, 0, 0, false, false⟩

/-- The drafts' counters and R322's suspension. -/
def countDraft (s : State) (b turn : Nat) (o : Outcome) : State :=
  let l := o.ent.draft.length
  if l = 0 then s
  else
    let s := s.countBind b BC.draftTokens l
    if o.drop then s
    else
      let s := if o.acc.a = 0 then s.countBind b BC.draftZero 1 else s.countBind b BC.draftAccepted o.acc.a
      let x := s.rx (entSlot o.ent)
      let r := (s.bind b).brec
      if o.acc.tokens.isEmpty then s
      else if o.acc.a ≥ 1 then s.setRx (entSlot o.ent) { x with zeroCount := 0 }
      else if x.zeroCount + 1 = LBindRec.DRAFT_MISS.get r then
        (s.setRx (entSlot o.ent) { x with zeroCount := 0, restLimit := turn + LBindRec.DRAFT_REST.get r }).countBind b BC.draftSuspend 1
      else s.setRx (entSlot o.ent) { x with zeroCount := x.zeroCount + 1 }

/-- Steps 1 to 3 of R48 for one entry: its rows, sets and runs, its fields. -/
def commitEntry (turn b time : Nat) (s : State) (o : Outcome) : State :=
  let e := o.ent
  let slot := entSlot e
  let s := countDraft s b turn o
  let s := if o.acc.empty then s.countBind b BC.maskEmpty 1 else s
  if o.drop then
    endReq (dropReserved s b e) slot o.stop o.detail time false
  else
    let q := s.req slot
    let rows := o.acc.rows
    let newLen := entK e + rows.length
    let n := o.acc.tokens.length
    let used := if entDec e then 0 else min (LEnt.NEXT_ON.get q) rows.length
    let s := if entTree e then compactTree s b e rows else s
    let s := endSeed s b e
    let runs := heldRuns s slot
    let s := s.updReq slot [(LEnt.LEN, newLen), (LEnt.PDONE, LEnt.PDONE.get q + if entDec e then 0 else rows.length - used),
      (LEnt.NEXT_ON, if n ≠ 0 then 1 else if used = 1 then 0 else LEnt.NEXT_ON.get q),
      (LEnt.NEXT, if n ≠ 0 then (o.acc.tokens.getLastD (0, false)).1 else LEnt.NEXT.get q),
      (LEnt.DELIVERED, LEnt.DELIVERED.get q + n),
      (LEnt.STATE, if entDec e then LEnt.STATE.get q else if n ≠ 0 then RS.decode else RS.prefill)]
    if o.stop ≠ 0 then endWith (dropReserved s b e) slot o.stop o.detail time true runs
    else ptHeader (commitSets s b e newLen) slot

/-- What an entry's stake is charged (R293): tokens, units. -/
def chargeOf (s : State) (o : Outcome) : Nat × Nat :=
  let n := o.acc.tokens.length
  let stake := s.stake (LEnt.STAKE.get (s.req (entSlot o.ent)))
  (n, 65536 * n + if entDec o.ent then 0 else 4096 * LStake.PF_WT.get stake * o.acc.rows.length)

/-- A delivered token's ring entry (R281). -/
def tokenEntry (o : Outcome) (time i : Nat) : BitVec 128 :=
  let e := o.ent
  let t := o.acc.tokens.getD i (0, false)
  let last := i + 1 == o.acc.tokens.length
  setAll 0#128 [(LRingEnt.TOKEN, t.1), (LRingEnt.POS, if entDec e then entK e + i + 1 else entK e + entQ e),
    (LRingEnt.TIME, time % 2 ^ 48), (LRingEnt.HAS_TOKEN, 1), (LRingEnt.END, b2n (last && o.stop != 0)),
    (LRingEnt.STATUS, if last then o.stop else 0), (LRingEnt.FIRST, b2n (!entDec e)), (LRingEnt.DRAFT, b2n t.2),
    (LRingEnt.HOLD, b2n (last && o.hold))]

/-- A request's ring writes of the turn: its tokens, its waiting end-only entry, its header (R282). -/
def ringTurn (time : Nat) (s : State) (slot : Nat) (o : Option Outcome) : State :=
  let n := match o with
    | some o => o.acc.tokens.length
    | none => 0
  let s := match o with
    | some o => (List.range n).foldl (fun s i => ringPut s slot (tokenEntry o time i)) s
    | none => s
  if (s.rx slot).endWait.isSome then ringEnd (readCons s slot) slot
  else if n ≠ 0 then ringHeader s slot (LEnt.END.get (s.req slot)) else s

/-! ## Mirrored seats (R377, R378) -/

/-- The flushes that a commit has opened for a seat, lane by lane: the partner performs them from its own riser copy (R377). -/
def flushItems (old s : State) (b n : Nat) : List JournalItem :=
  ((s.bind b).flushes.filter (fun c => rSeat s c.slot == n && !(old.bind b).flushes.contains c)).flatMap (fun c =>
    match c.src, c.dst with
    | .set f, .run a => (List.range (gLanes (s.bind b).brec)).map (fun i => .flush (riserKey s (f + i)) (keyOf s a + i * 16384) 1)
    | _, _ => [])

/-- What a commit of a binding changed for a seat, beside the writes held back (R377). -/
def journalOf (old s : State) (b n : Nat) : List JournalItem :=
  let slots := (bindSlots s b).filter (fun k => rSeat s k == n)
  let idx := ((idxListed old ++ idxListed s).eraseDups).filter (fun k => idxRead old k != idxRead s k)
  slots.map (fun k => .entry k (s.req k)) ++
  (s.bind b).runs.map (fun e => .runRecord b (e.1 / 2 ^ 24) (e.1 % 2 ^ 24) e.2) ++
  idx.map (fun k => .index k (idxRead s k)) ++
  ((s.stakes.filter (fun e => LStake.SEAT.get e.2 == n && old.stake e.1 != e.2)).map (fun e => .stake e.1 e.2)) ++
  flushItems old s b n ++ (s.mir n).shadows.map (fun w => .shadow w.1 w.2) ++ [.turnBlock b (s.bind b).blk]

/-- The journal and the SEAL of one mirrored seat; its page-table and ring writes wait for SEAL_ACK (R378). -/
def sealSeat (old : State) (b : Nat) (s : State) (n : Nat) : State :=
  if !(LSeatBnd.ATTACHED.get (s.seat n).bnd).testBit b then
    s.setMir n { s.mir n with hold := false, raises := [] }
  else
    let turn := bTurn (s.bind b)
    let s := sendJournal s n (journalOf old s b n)
    let m := s.mir n
    let s := s.setMir n { m with
      hold := false, shadows := [], raises := [], sealing := m.sealing ++ [⟨b, turn, now s, m.shadows, m.raises⟩],
      state := LMirSt.SEAL_TIME.set m.state (now s), ctr := ctrAdd m.ctr 0x010 1 }
    tellMirror s n 1 b (BitVec.ofNat 256 turn)

/-! ## The commit section (R48) -/

/-- Requests of the binding that are in no entry: what waits for the commit point (R264, R275, R276). -/
def commitOther (time : Nat) (s : State) (n : Nat) : State :=
  let x := s.rx n
  if !rActive s n then s
  else if x.cancelDue ≠ 0 then endReq s n 3 x.cancelDue time false
  else if dueFault s n ≠ 0 then endReq s n 4 (dueFault s n) time false
  else if x.expireDue ≠ 0 then endReq s n 5 x.expireDue time false
  else
    let s := parkSwitch s n
    match x.pauseDue with
    | some a => if rState s n = RS.resuming then resumeSwitch s n else pauseEffect s n a
    | none => resumeSwitch s n

/-- The pause of an entry's request, by HOLD or by a waiting PAUSE (R274). -/
def pauseEntry (b : Nat) (s : State) (o : Outcome) : State :=
  let slot := entSlot o.ent
  if o.stop ≠ 0 || !rActive s slot then s
  else
    let s := if o.hold then s.countBind b BC.holdPauses 1 else s
    match (s.rx slot).pauseDue with
    | some a => pauseEffect s slot a
    | none => if o.hold then pauseEffect s slot ⟨0, none, none⟩ else s

/-- Steps 4 and 5 of R48 with COMMIT_TIME `time`, after its steps 1 to 3; then the close (R40). -/
def commitTurn (s : State) (b time : Nat) : State :=
  let old := s
  let mirrored := primarySeats s
  let s := mirrored.foldl (fun s n => s.setMir n { s.mir n with hold := true }) s
  let ents := if holdsRequests s b then (s.bind b).turn else []
  let turn := bTurn (s.bind b) + 1
  let s := applyDue s b
  let outs := ents.map (outcomeOf s b)
  let charges := outs.map (fun o => (LEnt.STAKE.get (s.req (entSlot o.ent)), chargeOf s o))
  let inTurn := outs.map (fun o => entSlot o.ent)
  let others := (bindSlots s b).filter (fun n => !inTurn.contains n)
  let ringers := (bindSlots s b).filter (rActive s)
  let s := outs.foldl (commitEntry turn b time) s
  let s := others.foldl (commitOther time) s
  let s := outs.foldl (pauseEntry b) s
  let s := s.updBind b (fun x => { x with
    blk := setAll x.blk [(LTurnBlk.TURN, turn), (LTurnBlk.COMMIT_TIME, time)], turn := [], prov := 0, relDue := true, waitBarrier := false })
  let s := { s with bank := { s.bank with ageClock := s.bank.ageClock + 1 } }
  let s := commitObjects s b
  let s := ((charges.map (·.1)).eraseDups).foldl (fun s n => refill s n time) s
  let s := charges.foldl (fun s c => debit s c.1 c.2.1 c.2.2) s
  let s := outs.foldl (fun s o => sampleTokens s (entSlot o.ent) o.acc.tokens.length time) s
  let s := outs.foldl (fun s o => if o.acc.tokens.isEmpty then s
    else s.updReq (entSlot o.ent) [(LEnt.T_LAST, time)]) s
  let s := ringers.foldl (fun s n => s.updRx n (fun x => { x with ringUndo := [] })) s
  let s := ringers.foldl (fun s n => ringTurn time s n (outs.find? (fun o => entSlot o.ent == n))) s
  let rung := (ringers.filter (fun n => (s.rx n).prod != (old.rx n).prod && LEnt.IRQ_ON.on (s.req n))).map
    (fun n => (rSeat s n, LEnt.VECTOR.get (s.req n)))
  let s := rung.eraseDups.foldl (fun s v => ringVector s v.1 v.2) s
  let s := mirrored.foldl (sealSeat old b) s
  let s := if composes s b then closeTurn s b else s.updBind b (fun x => { x with blk := idleBlk x.blk })
  (bindSlots s b).foldl settleLost s

/-- May the commit section run: the phase is COMMIT and the last Release has ended (R52)? -/
def commitReady (s : State) (b : Nat) : Bool := bPhase (s.bind b) == 5 && !bFaulted (s.bind b) && !(s.bind b).relDue

/-! ## Ring writes that are lost (R490) -/

/-- The k-th ring write of a request's last point is lost: what stood there stands again. -/
def loseRingWrite (s : State) (slot k : Nat) : State :=
  match (s.rx slot).ringUndo[k]? with
  | none => s
  | some (key, bs) =>
    let s := writeMem s key bs
    let s := s.updRx slot (fun x => { x with ringUndo := x.ringUndo.eraseIdx k })
    settleLost (ringLost s slot) slot

/-- RING_WRITE_LOST (R490). -/
def execRingWriteLost (slot k : Nat) (s : State) : Host.Outcome State Fault Refusal :=
  act .banker (when (fun s => rState s slot != RS.free && ((s.rx slot).ringUndo[k]?).isSome)
    (fun s => loseRingWrite s slot k)) s

/-! ## Release (R52, R139) -/

/-- Frees every run whose count is 0 and whose last reader has committed; tries waiting tails again (R125, R139). -/
def releaseAll (s : State) (b : Nat) : State :=
  let s := (s.bind b).drops.foldl (fun s e => releaseRun s b e.1 e.2) s
  let s := (bindSlots s b).foldl (fun s n => if (s.rx n).tail == .wants then tailAlloc s n else s) s
  s.updBind b (fun x => { x with relDue := false })

end Sys2Proof.Machine
end

