-- ==== Sys2Proof/Machine/Slices.lean ====
section
/-! DEFINITION. PLAN and SLICE, formation, the commit barrier's rows, holds and resets (13_fabric.md R345; 14_slices.md). -/

namespace Sys2Proof.Machine

/-! ## PLAN (R345) -/

def planRecs (c : Cmd) (ylen : Nat) : List (BitVec 128) :=
  (List.range (4 * ylen)).map (fun i => c.payload.extractLsb' (128 * i) 128)

def recUses (r : BitVec 128) (p : Nat) : Bool := (LPlanRec.USED.get r).testBit p

/-- The planned place beyond port p of a record. -/
def planPeer (ylen : Nat) (r : BitVec 128) (p : Nat) : Nat × Nat :=
  let x := LPlanRec.X.get r
  let y := LPlanRec.Y.get r
  match p with
  | 0 => ((x + 1) % 4, y)
  | 1 => ((x + 3) % 4, y)
  | 2 => (x, (y + 1) % ylen)
  | _ => (x, (y + ylen - 1) % ylen)

/-- E_RANGE's tests of a plan. -/
def planGood (c : Cmd) (ylen : Nat) : Bool :=
  let l := planRecs c ylen
  let place := fun (r : BitVec 128) => (LPlanRec.X.get r, LPlanRec.Y.get r)
  !bodyAbove c 5 && decide (1 ≤ ylen) && decide (ylen ≤ 16) && l.all (fun r =>
    rsvZero LPlanRec.rsv r && decide (LPlanRec.Y.get r < ylen) && decide (LPlanRec.USED.get r < 16) &&
    (ylen != 1 || decide (LPlanRec.USED.get r < 4)) &&
    (List.range 4).all (fun p => !recUses r p ||
      l.any (fun q => place q == planPeer ylen r p && recUses q (peerPort p)))) &&
  (l.map place).eraseDups.length == l.length && (l.map LPlanRec.DIGEST.get).eraseDups.length == l.length

/-- PLAN (R345). The port states of a second PLAN change after discovery (R347). -/
def opPlan : CmdOp := fun c s =>
  let ylen := (c.body.extractLsb' 0 5).toNat
  let own := (planRecs c ylen).find? (fun r => LPlanRec.DIGEST.get r == identDigest s)
  let st := firstFail [
    (c.seat != 0, St.denied), (fabMode s == 2, St.state), (sliceState s != 0, St.busy), (!planGood c ylen, St.range),
    (own.isNone, St.notinplan)]
  match own with
  | none => (s, Rsp.of st)
  | some r =>
    if st ≠ St.ok then (s, Rsp.of st)
    else
      let again := discovered s
      let id := setAll s.fab.fabId [(LFabId.CHIP, LPlanRec.X.get r + 4 * LPlanRec.Y.get r), (LFabId.VALID, 1), (LFabId.MODE, 1),
        (LFabId.YLEN, ylen), (LFabId.ZLEN, 1)]
      let s := { s with fab := { s.fab with fabId := id, plan := planRecs c ylen } }
      (comparePorts (sendLinkids s) again St.noroute, Rsp.of St.ok)

def execPlan (c : Cmd) (s : State) : Host.Outcome State Fault Refusal := cmdRow 0x0030 (fun _ => true) opPlan c s

/-! ## SLICE (R356, R357) -/

def sliceEvent (s : State) : State := deviceEvent s LEv.SLICE

def setSlice (s : State) (l : List (Fld × Nat)) : State :=
  { s with fab := { s.fab with slice := setAll s.fab.slice l } }

def sliceBinds (s : State) : List Nat := (List.range 16).filter (sliceBinding s)

/-- The block a FORM describes, as SLICE_STATE lays it out. -/
def formBlock (s : State) (c : Cmd) : BitVec 128 :=
  setAll s.fab.slice [(LSliceSt.STATE, 1), (LSliceSt.X0, LSliceCmd.X0.get c.body), (LSliceSt.Y0, LSliceCmd.Y0.get c.body),
    (LSliceSt.Z0, LSliceCmd.Z0.get c.body), (LSliceSt.NX, LSliceCmd.NX.get c.body), (LSliceSt.NY, LSliceCmd.NY.get c.body),
    (LSliceSt.NZ, LSliceCmd.NZ.get c.body), (LSliceSt.WRAP, LSliceCmd.WRAP.get c.body),
    (LSliceSt.BINDINGS, LSliceCmd.BINDINGS.get c.body)]

/-- The state with that block, to ask about its tree and routes. -/
def formed (s : State) (c : Cmd) : State := { s with fab := { s.fab with slice := formBlock s c } }

/-- Does the slice use port p: a link between two coordinates of the block (R354, R357)? -/
def usesPort (s : State) (p : Nat) : Bool :=
  let a := portAxis p
  let blk := blockCoords s s.fab.slice a
  match neighbour s p with
  | none => false
  | some n =>
    let i := blk.idxOf (coord (ownChip s) a)
    let j := blk.idxOf (coord n a)
    n != ownChip s && blk.contains (coord n a) &&
    (blockWraps s.fab.slice a || (if portPlus p then j == i + 1 else i == j + 1))

def mirroredSeat (s : State) (n : Nat) : Bool := LMirSt.STATE.get (s.mir n).state != 0

/-- FORM's E_RANGE tests (R357). -/
def formGood (s : State) (c : Cmd) : Bool :=
  let t := formed s c
  let w := t.fab.slice
  let lens := [(1, 4), (1, 16), (1, 64)]
  rsvZero LSliceCmd.rsv c.body && !bodyAbove c 256 && LSliceCmd.CUT_Y.get c.body == 0 && LSliceCmd.STAG.get c.body != 0 &&
  (List.range 3).all (fun a =>
    let n := blockLen w a
    let live := (liveCoords s a).length
    decide ((lens.getD a (1, 1)).1 ≤ n) && decide (n ≤ (lens.getD a (1, 1)).2) && decide (n ≤ live) &&
    (blockCoords t w a).contains (coord (ownChip s) a) && (!blockWraps w a || n == live)) &&
  (List.range 16).all (fun b => !(LSliceCmd.BINDINGS.get c.body).testBit b || ((s.bind b).loaded &&
    (List.range 64).all (fun n => !(LSeatBnd.ATTACHED.get (s.seat n).bnd).testBit b || !mirroredSeat s n)))

/-- A request of a named binding in a state other than FREE or DONE. -/
def namedBusy (s : State) (c : Cmd) : Bool :=
  !(slotsWhere s (fun n => (LSliceCmd.BINDINGS.get c.body).testBit (rBind s n) && rState s n != RS.free && rState s n != RS.done)).isEmpty

/-- Every body bit but OP's, and CUT_Y's where it is used, is 0. -/
def sliceBare (c : Cmd) (cut : Bool) : Bool :=
  (LSliceCmd.CUT_Y.set (LSliceCmd.OP.set c.body 0) (if cut then 0 else LSliceCmd.CUT_Y.get c.body)) == 0#1792

/-- The checks of R356 and R357. -/
def sliceStatus (s : State) (c : Cmd) : Nat :=
  let op := LSliceCmd.OP.get c.body
  let y := LSliceCmd.CUT_Y.get c.body
  let live := liveCoords s 1
  let own := coord (ownChip s) 1
  if c.seat ≠ 0 then St.denied
  else match op with
    | 1 =>
      let t := formed s c
      firstFail [(!haveChip s, St.state),
        (sliceState s != 0 || (ownChip s != leaderOf t && namedBusy s c), St.busy),
        (!formGood s c, St.range),
        ((List.range 6).any (fun p => usesPort t p && !isMatch s p), St.noroute)]
    | 2 => firstFail [(!sliceBare c false, St.range), (sliceState s == 0, St.noobj)]
    | 3 | 5 => firstFail [(!sliceBare c false, St.range), (!isLeader s || sliceState s != 2, St.state)]
    | 4 => firstFail [(!sliceBare c false, St.range), (!isLeader s || sliceState s != 3, St.state)]
    | 6 => firstFail [(!haveChip s, St.state),
        (!sliceBare c true || decide (LFabId.YLEN.get s.fab.fabId ≤ y) || y == own ||
          (live.filter (· != own)) == [y], St.range),
        (sliceState s != 0 && (blockCoords s s.fab.slice 1).contains y, St.busy)]
    | 7 => firstFail [(!haveChip s, St.state), (!sliceBare c true, St.range), (!(cutMask s).testBit y, St.noobj)]
    | _ => St.range

/-! ## Formation (R358) -/

/-- First 8 bytes of the SHA-256 digest of the SLICE body. -/
def formDigest (s : State) : Nat := (sha256Nat (bytesOf s.fab.formBody.toNat 32)).toNat % 2 ^ 64

/-- Formation records of the subtree by digest, this member's own among them. -/
def formSums (s : State) : List (Nat × Nat) :=
  let ds := (formDigest s :: s.fab.formGot.map (fun r => r.2.1)).eraseDups
  ds.map (fun d => (d, b2n (d == formDigest s) + sumNat ((s.fab.formGot.filter (fun r => r.2.1 == d)).map (fun r => r.2.2))))

/-- Members whose records a port has brought. -/
def formFrom (l : List (Nat × Nat × Nat)) (port : Nat) : Nat := sumNat ((l.filter (fun r => r.1 == port)).map (fun r => r.2.2))

/-- Has every member of every child's subtree reported? -/
def formKids (s : State) : Bool := (treeKids s).all (fun k => formFrom s.fab.formGot k.1 == subtree s k.2)

/-- Drops a port's oldest records while it holds more members than the child's subtree has: a member's newer record takes the
place of its older one (R358). -/
def formTrim (port size : Nat) : Nat → List (Nat × Nat × Nat) → List (Nat × Nat × Nat)
  | 0, l => l
  | n + 1, l =>
    if formFrom l port ≤ size then l
    else match l.find? (fun r => r.1 == port) with
      | some r => formTrim port size n (l.erase r)
      | none => l

/-- A formation record from a child: its number of members by digest, over those it has reported before. -/
def formTake (s : State) (port : Nat) (w : BitVec 512) : State :=
  let r := (port, LSync.DIGEST.get w, LSync.MEMBERS.get w)
  let l := s.fab.formGot.filter (fun g => !(g.1 == r.1 && g.2.1 == r.2.1)) ++ [r]
  let size := (((treeKids s).find? (fun k => k.1 == port)).map (fun k => subtree s k.2)).getD 0
  { s with fab := { s.fab with formGot := formTrim port size l.length l } }

/-- Sends the member's formation records to its parent. -/
def formSend (s : State) : State :=
  let s := { s with fab := { s.fab with formSent := now s } }
  (formSums s).foldl (fun s d => toParent s (syncRec s 0x10 0
    [(LSync.FORM, 1), (LSync.DIGEST, d.1), (LSync.MEMBERS, d.2)])) s

/-- The device leaves its slice or its formation: tag, block and routes revert (R357, R358). -/
def leaveSlice (s : State) (status : Nat) : State :=
  let w := setAll 0#128 [(LSliceSt.CUT, cutMask s), (LSliceSt.LAST_STATUS, status)]
  setRoutes { s with fab := { s.fab with slice := w, fabId := LFabId.STAG.set s.fab.fabId 0, formBody := 0#256, formAt := 0,
                                         formSent := 0, formGot := [], barriers := [], resetGot := [], resetMembers := 0, resetSent := false } }

/-- Formation fails here (R358). -/
def formFail (s : State) : State := sliceEvent (leaveSlice s St.slice)

/-- The member becomes FORMED; a leader whose requests wait closes (R40). -/
def formDone (s : State) : State :=
  let s := sliceEvent (setSlice s [(LSliceSt.STATE, 2)])
  (sliceBinds s).foldl closeIdle s

/-- The leader acts once every member's record is here; a member passes its subtree's records on. -/
def formCheck (s : State) : State :=
  if isLeader s then
    if !formKids s then s
    else if (formSums s).length = 1 then formDone (toKids s (syncRec s 0x11 0 [(LSync.FORM, 1), (LSync.MEMBERS, 1)]) [])
    else formFail (toKids s (syncRec s 0x11 0 [(LSync.FAIL, 1), (LSync.MEMBERS, 1)]) [])
  else if formKids s then formSend s else s

/-- FORM's effect (R357 to R359). -/
def applyForm (s : State) (c : Cmd) : State :=
  let t := formed s c
  let lead := leaderOf t
  let s := { t with fab := { t.fab with
    fabId := LFabId.STAG.set t.fab.fabId (LSliceCmd.STAG.get c.body), formBody := c.body.extractLsb' 0 256,
    formAt := now t, formSent := now t, formGot := [], barriers := [], resetGot := [], resetMembers := 0, resetSent := false } }
  let s := setSlice s [(LSliceSt.LEADER, b2n (ownChip s == lead)), (LSliceSt.LEADER_CHIP, lead)]
  formCheck (setRoutes s)

/-- A binding becomes FAULTED, its turn in flight abandoned. -/
def faultBinding (s : State) (b : Nat) : State :=
  if inFlight s b then abandonLocal s b
  else if bFaulted (s.bind b) || !(s.bind b).loaded then s
  else deviceEvent (setPhase s b [(LTurnBlk.FAULTED, 1)]) LEv.FAULTED

/-- HOLD or RESET rides on the next commit scatter of every slice binding (R357): mark 1 or 2. -/
def markScatters (s : State) (m : Nat) : State :=
  (sliceBinds s).foldl (fun s b => s.updBind b (fun x => { x with marks := x.marks ||| m })) s

/-- A member leaves HELD (R373). -/
def leaveHeld (s : State) : State :=
  let s := (sliceBinds s).foldl (fun s b => s.updBind b (fun x => { x with marks := x.marks &&& 2 })) s
  let s := sliceEvent (setSlice s [(LSliceSt.STATE, 2)])
  (sliceBinds s).foldl closeIdle s

/-- The cut set changes: the Y ports are compared again, the routes recomputed (R357, R363). -/
def setCut (s : State) (y : Nat) (on : Bool) : State :=
  let m := if on then cutMask s ||| 2 ^ y else cutMask s &&& (65535 - 2 ^ y)
  comparePorts (setSlice s [(LSliceSt.CUT, m)]) true St.noroute

/-- SLICE (R357). -/
def opSlice : CmdOp := fun c s =>
  let st := sliceStatus s c
  if st ≠ St.ok then (s, Rsp.of st)
  else
    let s' := match LSliceCmd.OP.get c.body with
      | 1 => applyForm s c
      | 2 =>
        let bs := sliceBinds s
        leaveSlice (bs.foldl faultBinding s) (LSliceSt.LAST_STATUS.get s.fab.slice)
      | 3 => markScatters s 1
      | 4 => leaveHeld (toKids s (syncRec s 0x11 0 [(LSync.CONTINUE, 1), (LSync.MEMBERS, 1)]) [])
      | 5 => markScatters s 2
      | 6 => setCut s (LSliceCmd.CUT_Y.get c.body) true
      | _ => setCut s (LSliceCmd.CUT_Y.get c.body) false
    (s', Rsp.of St.ok)

def execSliceForm (c : Cmd) (s : State) : Host.Outcome State Fault Refusal := cmdRow 0x0031 (bodyOp 1) opSlice c s
def execSliceDissolve (c : Cmd) (s : State) : Host.Outcome State Fault Refusal := cmdRow 0x0031 (bodyOp 2) opSlice c s
def execSliceHold (c : Cmd) (s : State) : Host.Outcome State Fault Refusal := cmdRow 0x0031 (bodyOp 3) opSlice c s
def execSliceContinue (c : Cmd) (s : State) : Host.Outcome State Fault Refusal := cmdRow 0x0031 (bodyOp 4) opSlice c s
def execSliceReset (c : Cmd) (s : State) : Host.Outcome State Fault Refusal := cmdRow 0x0031 (bodyOp 5) opSlice c s
def execSliceCut (c : Cmd) (s : State) : Host.Outcome State Fault Refusal := cmdRow 0x0031 (bodyOp 6) opSlice c s
def execSliceUncut (c : Cmd) (s : State) : Host.Outcome State Fault Refusal := cmdRow 0x0031 (bodyOp 7) opSlice c s

/-- FORM_RESEND (R358): 1 ms after the last record, no scatter yet. -/
def execFormResend (s : State) : Host.Outcome State Fault Refusal :=
  act .banker (when (fun s => sliceState s == 1 && !isLeader s && formKids s && decide (s.fab.formSent + 1000000 ≤ now s))
    formSend) s

/-- FORM_TIMEOUT (R358): 10 s after the FORM, no scatter. -/
def execFormTimeout (s : State) : Host.Outcome State Fault Refusal :=
  act .banker (when (fun s => sliceState s == 1 && decide (s.fab.formAt + 10000000000 ≤ now s)) formFail) s

/-! ## The commit barrier (R51, R370 to R373) -/

/-- What RESET does at a commit point: the binding's requests end CANCELLED there, those of slice bindings with no turn in flight
now, those of the others at the commit points of their own turns, which the reset awaits (R373). -/
def resetAtCommit (s : State) (b : Nat) : State :=
  let s := ((bindSlots s b).filter (rActive s)).foldl (fun s n => s.updRx n (fun x => { x with cancelDue := 2 })) s
  (sliceBinds s).foldl (fun s k =>
    if k = b then s
    else if inFlight s k then s.updBind k (fun x => { x with marks := x.marks ||| 2 })
    else
      let s := s.updBind k (fun x => { x with marks := x.marks &&& 1 })
      ((bindSlots s k).filter (rActive s)).foldl (fun s n => endNow s n 3 2) s) s

/-- Steps 4 and 5 on a slice device with the barrier's time; the flags of the scatter take effect (R373). -/
def sliceCommit (s : State) (b time : Nat) (hold reset : Bool) : State :=
  let s := if hold && sliceState s == 2 then sliceEvent (setSlice s [(LSliceSt.STATE, 3)]) else s
  let s := if reset then resetAtCommit (setSlice s [(LSliceSt.STATE, 4)]) b else s
  let s := countSlice (setBarrier (commitTurn s b time) b Barrier.reset) 0x010
  s.updBind b (fun x => { x with marks := 0 })

/-- The leader's barrier is complete: it commits, closes and scatters (R370). -/
def leaderCommit (s : State) (b : Nat) : State :=
  let m := (s.bind b).marks
  let t := now s
  let s := sliceCommit s b t (m % 2 == 1) (m / 2 == 1)
  toKids s (syncRec s 0x11 b [(LSync.HOLD, m % 2), (LSync.RESET, m / 2), (LSync.TURN, bTurn (s.bind b)), (LSync.TIME, t),
    (LSync.MEMBERS, 1)]) ((s.bind b).turn.map sliceEnt)

/-- COMMIT_SECTION (R48, R51): the commit of a binding of this device alone; a slice device arrives at its barrier. No turn
commits after a die thermal trip (R460). -/
def execCommitSection (b : Nat) (s : State) : Host.Outcome State Fault Refusal :=
  act .arith (when (fun s => commitReady s b && !(s.bind b).waitBarrier)
    (fun s =>
      if !sliceBinding s b then commitTurn s b (now s)
      else
        let s := barrierArrive (s.updBind b (fun x => { x with waitBarrier := true })) b 0
        if isLeader s && barrierFull s b then leaderCommit s b else s)) s

/-- A turn taken from the leader's scatter (R360). The scatter says nothing of slack, and the member holds none of the requests: its
binding waits in the lower class of R36 (DESIGN CHOICE, log entry 105). -/
def takeTurn (s : State) (b : Nat) (entries : List SliceEnt) : State :=
  if entries.isEmpty || bFaulted (s.bind b) || inFlight s b then s
  else
    let ents := entries.map (fun w => (⟨w.len, 0#512, w.draft, [], [], [], [], 0, false, w.smask, w.maskAt, w.sets⟩ : TEnt))
    let tokens := sumNat (ents.map entQ)
    settleSlot (s.updBind b (fun x => { x with
      blk := setAll x.blk [(LTurnBlk.PHASE, 1), (LTurnBlk.PATH, b2n (pipPath x.brec tokens)), (LTurnBlk.TOKENS, tokens),
        (LTurnBlk.REQS, ents.length), (LTurnBlk.LAYER, 0)],
      turn := ents, neg := false, weightsRead := false, turnMoulds := x.moulds }))

/-- A child's commit GATHER (R370, R371). -/
def gatherIn (s : State) (b port : Nat) (w : BitVec 512) : State :=
  let x := barrierOf s b
  let bad := LSync.TURN.get w != bTurn (s.bind b) + 1
  let s := if bad then countSlice s 0x020 else s
  let s := setBarrier s b { x with got := port :: x.got, members := x.members + LSync.MEMBERS.get w,
                                   flags := max x.flags (max (LSync.ABANDON.get w) (b2n bad)) }
  if isLeader s then
    if (barrierOf s b).flags ≠ 0 && inFlight s b then abandonTurn s b
    else if barrierFull s b then leaderCommit s b else s
  else if (barrierOf s b).arrived && kidsIn s b && !(barrierOf s b).sent then sendGather s b 0 else s

/-! ### Reset completion (R373) -/

/-- Has every slice binding's reset turn committed and been released? A FAULTED binding has none. -/
def resetQuiet (s : State) : Bool :=
  (sliceBinds s).all (fun b => bFaulted (s.bind b) || (!(s.bind b).relDue && (s.bind b).marks / 2 == 0))

/-- The slice returns to FORMED here. -/
def resetEnd (s : State) : State :=
  formDone { s with fab := { s.fab with resetGot := [], resetMembers := 0, resetSent := false } }

/-- Gathers the reset's completion once, or ends it at the leader. -/
def resetCheck (s : State) : State :=
  if sliceState s != 4 || s.fab.resetSent || !resetQuiet s || !(treeKids s).all (fun k => s.fab.resetGot.contains k.1) then s
  else if isLeader s then
    if s.fab.resetMembers + 1 < sliceSize s then s
    else resetEnd (toKids s (syncRec s 0x11 0 [(LSync.RESET, 1), (LSync.MEMBERS, 1)]) [])
  else toParent { s with fab := { s.fab with resetSent := true } } (syncRec s 0x10 0 [(LSync.RESET, 1), (LSync.MEMBERS, s.fab.resetMembers + 1)])

/-- RELEASE_PHASE (R139). -/
def execReleasePhase (b : Nat) (s : State) : Host.Outcome State Fault Refusal :=
  act .banker (when (fun s => (s.bind b).loaded && (s.bind b).relDue) (fun s => resetCheck (releaseAll s b))) s

/-! ### The rows -/

/-- A record of this slice from a child's port. -/
def fromChild (s : State) (port : Nat) (pkt : BitVec 256) (w : BitVec 512) : Bool :=
  sliceState s != 0 && LSync.CODE.get w == 0x10 && LSync.STAG.get w == sliceTag s && rsvZero LSync.rsv w &&
  (treeKids s).contains (port, LPkt.SRC.get pkt)

/-- A child's gather record takes effect (R358, R370, R373). -/
def gatherRecord (port : Nat) (rec : BitVec 512) (s : State) : State :=
  let b := LSync.BINDING.get rec
  if LSync.FORM.on rec then (if sliceState s != 1 then s else formCheck (formTake s port rec))
  else if LSync.RESET.on rec then
    if sliceState s != 4 || s.fab.resetGot.contains port then s
    else
      let n := s.fab.resetMembers + LSync.MEMBERS.get rec
      resetCheck { s with fab := { s.fab with resetGot := port :: s.fab.resetGot, resetMembers := n } }
  else if !sliceBinding s b || (barrierOf s b).got.contains port then s
  else gatherIn s b port rec

/-- BARRIER_GATHER. -/
def execBarrierGather (via : Carrier) (rec : BitVec 512) (s : State) : Host.Outcome State Fault Refusal :=
  messageRow .link via.port 0 64 via.pkt (fun s => fromChild s via.port via.pkt rec) (gatherRecord via.port rec) s

/-- A scatter for this member, from its parent's port (R370 to R373). -/
def forMember (s : State) (port : Nat) (w : BitVec 512) : Bool :=
  sliceState s != 0 && !isLeader s && LSync.CODE.get w == 0x11 && LSync.STAG.get w == sliceTag s && rsvZero LSync.rsv w &&
  treeParent s == some port

/-- A scatter takes effect here and goes on to the children (R358, R360, R370, R371, R373). -/
def scatterRecord (rec : BitVec 512) (entries : List SliceEnt) (s : State) : State :=
  let b := LSync.BINDING.get rec
  let kids := toKids s rec entries
  if LSync.FORM.on rec then (if sliceState s == 1 then formDone kids else s)
  else if LSync.FAIL.on rec then (if sliceState s == 1 then formFail kids else s)
  else if LSync.CONTINUE.on rec then (if sliceState s == 3 then leaveHeld kids else s)
  else if LSync.RESET.on rec && LSync.TIME.get rec == 0 then (if sliceState s == 4 then resetEnd kids else s)
  else if !sliceBinding s b then s
  else if LSync.ABANDON.on rec then faultBinding (setBarrier kids b Barrier.reset) b
  else if LSync.TIME.get rec == 0 && LSync.TURN.get rec == bTurn (s.bind b) then takeTurn kids b entries
  else if !((s.bind b).waitBarrier && LSync.TURN.get rec == bTurn (s.bind b) + 1) then s
  else takeTurn (sliceCommit kids b (LSync.TIME.get rec) (LSync.HOLD.on rec) (LSync.RESET.on rec)) b entries

/-- BARRIER_SCATTER. -/
def execBarrierScatter (rec : Msg (BitVec 512)) (entries : List SliceEnt) (s : State) : Host.Outcome State Fault Refusal :=
  messageRow .link rec.port 0 (64 + 16 * entries.length) rec.pkt (fun s => forMember s rec.port rec.val)
    (scatterRecord rec.val entries) s

/-- What a barrier has waited tier_timeout for: 1 a child's GATHER, 2 the scatter (R372). -/
def barrierLate (s : State) (b : Nat) : Nat :=
  let x := barrierOf s b
  if !sliceBinding s b || !x.arrived then 0
  else if !kidsIn s b && !x.sent && decide (x.arrivedAt + tierTimeout s ≤ now s) then 1
  else if x.sent && decide (x.sentAt + tierTimeout s ≤ now s) then 2 else 0

/-- BARRIER_TIMEOUT (R372). -/
def execBarrierTimeout (b : Nat) (s : State) : Host.Outcome State Fault Refusal :=
  act .banker (when (fun s => barrierLate s b != 0)
    (fun s =>
      if barrierLate s b = 1 then
        if isLeader s then abandonTurn (countSlice s 0x018) b else sendGather s b 1
      else
        let s := setBarrier (countSlice s 0x018) b Barrier.reset
        sliceEvent (setSlice (faultBinding s b) [(LSliceSt.STATE, 5)]))) s

end Sys2Proof.Machine
end

