-- ==== Sys2Proof/Machine/Mirrors.lean ====
section
/-! DEFINITION. Mirror pairs: MIRROR, pairing, journals, seals, takeover (14_slices.md, R375 to R382). -/

namespace Sys2Proof.Machine

def mirState (s : State) (n : Nat) : Nat := LMirSt.STATE.get (s.mir n).state
def mirRole (s : State) (n : Nat) : Nat := LMirSt.ROLE.get (s.mir n).state
def setMirSt (s : State) (n : Nat) (l : List (Fld × Nat)) : State := s.setMir n { s.mir n with state := setAll (s.mir n).state l }

def seatSlots (s : State) (n : Nat) : List Nat := slotsWhere s (fun k => rState s k != RS.free && rSeat s k == n)

def attachedBinds (s : State) (n : Nat) : List Nat :=
  (List.range 16).filter (fun b => (LSeatBnd.ATTACHED.get (s.seat n).bnd).testBit b)

/-! ## The comparison (R376) -/

/-- The configuration that two devices compare, chip numbers left out: quotas, windows, riser slots, bindings and their
parameters, KVPOOL and WEIGHT ranges. -/
def mirConfig (s : State) (n : Nat) : List Byte :=
  let w := fun (v : Nat) => bytesOf v 8
  let x := s.seat n
  (List.range 6).flatMap (fun k => w (Tab.get x.quota 0 k)) ++
  (List.range 40).flatMap (fun k => bytesOf (Tab.get x.win 0#128 k).toNat 16) ++
  w s.bank.riserSlots ++ w (LSeatBnd.ATTACHED.get x.bnd) ++
  (attachedBinds s n).flatMap (fun b =>
    let r := (s.bind b).brec
    bytesOf (setAll (r.extractLsb' 0 512) [(LBindRec.LPROG, 0), (LBindRec.MOULDS, 0)]).toNat 64 ++
    (List.range (poolCount r)).flatMap (fun p => w (poolBase r p % 2 ^ 40) ++ w (poolRuns r p))) ++
  ((objList s).filter (fun o => LObj.SEAT.get (s.obj o) == n && [1, 3].contains (LObj.KIND.get (s.obj o)))).flatMap (fun o =>
    w (LObj.KIND.get (s.obj o)) ++ w (LObj.WORK.get (s.obj o) % 2 ^ 40) ++ w (objTiles s o))

def mirDigest (s : State) (n : Nat) : BitVec 256 := sha256Nat (mirConfig s n)

/-! ## MIRROR (R375, R376, R380) -/

def mirSeat (c : Cmd) : Nat := LMirCmd.SEAT.get c.body

/-- An X neighbour on the same board (R376). -/
def mirPeerOk (s : State) (peer : Nat) : Bool :=
  let own := ownChip s
  coord peer 1 == coord own 1 && coord peer 2 == coord own 2 &&
  (coord peer 0 == (coord own 0 + 1) % 4 || coord peer 0 == (coord own 0 + 3) % 4)

def mirForm (c : Cmd) : Bool :=
  let op := LMirCmd.OP.get c.body
  rsvZero LMirCmd.rsv c.body && !bodyAbove c 256 && decide (1 ≤ op) && decide (op ≤ 3) && mirSeat c != 0 &&
  (op == 1 || LMirCmd.ROLE.get c.body == 0)

def mirStatus (s : State) (c : Cmd) : Nat :=
  let op := LMirCmd.OP.get c.body
  let n := mirSeat c
  let peer := LMirCmd.PEER.get c.body
  firstFail [
    (c.seat != 0, St.denied),
    (!mirForm c || (op == 1 && (!mirPeerOk s peer ||
      (seatSlots s n).any (fun k => rActive s k && !hostOnly (s.req k)))), St.range),
    (op == 1 && !isMatch s (peerPortTo s peer), St.noroute),
    (op == 1 && (mirState s n != 0 || (attachedBinds s n).any (sliceBinding s)), St.busy),
    (op == 3 && !(mirState s n == 4 && mirRole s n == 1), St.state)]

/-- Ends a pair on this device: held writes are issued, what the partner has not sealed is dropped. -/
def unpair (s : State) (n status : Nat) : State :=
  let m := s.mir n
  let s := heldOut s n m.sealing
  s.setMir n { Mirror.reset with state := LMirSt.LAST_STATUS.set 0#128 status, ctr := m.ctr }

/-! ### TAKEOVER (R380) -/

/-- The primary's chip number in an address becomes this device's. -/
def ownAddr (s : State) (peer a : Nat) : Nat :=
  if !space1 a && a / 2 ^ 40 % 4096 == peer then a % 2 ^ 40 + ownChip s * 2 ^ 40 else a

/-- Where a parked run at an address lies: in an object of this device, else at a host. The number that a host gave the run is not
among what R377 duplicates: the run is named by its tile (DESIGN CHOICE, log entry 106). -/
def placeAt (s : State) (a : Nat) : ParkPlace :=
  match (objList s).find? (fun n => [4, 5].contains (LObj.KIND.get (s.obj n)) && decide (LObj.WORK.get (s.obj n) ≤ a) &&
      decide (a < LObj.WORK.get (s.obj n) + objTiles s n * 16384)) with
  | some n => .obj n ((a - LObj.WORK.get (s.obj n)) / 16384)
  | none => .host (a / 2 ^ 40) (a / 16384) a

/-- The runs of a request's page table that lie outside its binding's pools: parked ones (R251). -/
def parkedRuns (s : State) (e : BitVec 1024) : List RunCopy :=
  let r := (s.bind (LEnt.BINDING.get e)).brec
  (List.range (cdiv (LEnt.LEN.get e) (gTpp r))).filterMap (fun j =>
    let w := ptEntry s e j
    if LPtEnt.KIND.get w = 0 || (findRun r (ptAddr w)).isSome then none
    else some ⟨j, 0, 0, placeAt s (ptAddr w), LPtEnt.FILL.get w, LPtEnt.KIND.get w, true, 0, 0, 0⟩)

/-- Rewrites the primary's chip number in a request's page table. -/
def adoptTable (peer : Nat) (s : State) (e : BitVec 1024) : State :=
  (List.range (cdiv (LEnt.LEN.get e) (gTpp (s.bind (LEnt.BINDING.get e)).brec))).foldl (fun s j =>
    let w := ptEntry s e j
    let w' := LPtEnt.ADDR.set w (ownAddr s peer (ptAddr w) / 16384)
    if w = w' then s else writeMem s (ptKey s e + 64 + 8 * j) (bytesOf w'.toNat 8)) s

/-- What the scheduling state of an adopted request is, by its entry, its table's header and its ring: the state that no address
space holds is not duplicated (R377). -/
def adoptReq (s : State) (slot : Nat) : State :=
  let e := s.req slot
  let st := LEnt.STATE.get e
  let r := (s.bind (LEnt.BINDING.get e)).brec
  let k := LEnt.LEN.get e % gTpp r
  let h : BitVec 512 := BitVec.ofNat 512 (readNat s (ptKey s e) 64)
  let held := if LPtHdr.HELD.on h then some (LPtHdr.RISER.get h) else none
  let tail := k != 0 && held.isNone && LPtEnt.KIND.get (ptEntry s e (LEnt.LEN.get e / gTpp r)) == 2
  let s := s.updRx slot (fun x => { x with
    held := held, chain := BitVec.ofNat 64 (LPtHdr.CHAIN.get h), tRef := now s, firstDue := LEnt.DELIVERED.get e == 0,
    prod := BitVec.ofNat 32 (readNat s (ringKey s slot) 4), parked := parkedRuns s e, tailRun := tail,
    tail := if st = RS.pausing && k ≠ 0 && held.isSome then .wants else .none })
  let s := if [RS.queued, RS.prefill, RS.decode].contains st then s.updRx slot (fun x => { x with seed := resumeSeed s slot }) else s
  pauseCheck s slot

/-- Charges the seat for what an adopted request holds: its entry, its riser set, its runs at hosts. -/
def adoptCharge (seat : Nat) (s : State) (slot : Nat) : State :=
  let x := s.rx slot
  let n := gLanes (s.bind (rBind s slot)).brec
  let hosts := x.parked.filter (fun r => match r.place with
    | .host _ _ _ => true
    | .obj _ _ => false)
  let s := s.updSeat seat (fun y => { y with
    usage := Tab.upd (Tab.upd (Tab.upd y.usage 0 0 (· + 1)) 0 1 (· + (if x.held.isSome then n else 0))) 0 4 (· + n * hosts.length) })
  match x.held with
  | some f => { s with bank := { s.bank with riserSets := (f, n) :: s.bank.riserSets } }
  | none => s

/-- Adopts one request: its page table's addresses, its held set, its chain, its ring's count, its parked runs. -/
def adopt (peer seat : Nat) (s : State) (slot : Nat) : State :=
  adoptCharge seat (adoptReq (adoptTable peer s (s.req slot)) slot) slot

/-- The free lists of an adopted binding, by its sealed run records: what no request, variant or index entry holds is free, in
ascending order (R117; DESIGN CHOICE, log entry 73). -/
def adoptRuns (s : State) (b : Nat) : State :=
  (List.range (poolCount (s.bind b).brec)).foldl (fun s p =>
    s.updBind b (fun x =>
      let mine := x.runs.filter (fun e => e.1 / 2 ^ 24 == p)
      let used := (mine.filter (fun e => LRunRec.REFCNT.get e.2 != 0 || LRunRec.PINNED.on e.2 || runBad x p (e.1 % 2 ^ 24))).map
        (·.1 % 2 ^ 24)
      setFree (mine.foldl (fun y e => updRunRec y p (e.1 % 2 ^ 24) [(LRunRec.RESERVED, 0), (LRunRec.DEFER, 0)]) x) p ⟨[], 0, used⟩)) s

/-- Chips that hold parked runs of the adopted tables (R380). -/
def parkHosts (s : State) (n : Nat) : List Nat :=
  ((seatSlots s n).flatMap (fun slot => (s.rx slot).parked.filterMap (fun r => match r.place with
    | .host chip _ a => if space1 a || chip == ownChip s then none else some chip
    | .obj _ _ => none))).eraseDups

def takeover (s : State) (n : Nat) : State :=
  let m := s.mir n
  let peer := LMirSt.PEER.get m.state
  let s := (m.sealed.flatMap (·.2)).foldl (fun s w => writeMem s w.1 w.2) s
  let s := (attachedBinds s n).foldl adoptRuns s
  let s := (seatSlots s n).foldl (adopt peer n) s
  let s := (parkHosts s n).foldl (fun s h => tellPark s h 5 peer n n) s
  let s := s.setMir n { s.mir n with state := LMirSt.STATE.set m.state 6, journal := [], sealed := [] }
  (attachedBinds s n).foldl closeIdle s

/-- MIRROR. -/
def opMirror : CmdOp := fun c s =>
  let n := mirSeat c
  if mirStatus s c ≠ St.ok then (s, Rsp.of (mirStatus s c))
  else
    let s := match LMirCmd.OP.get c.body with
      | 1 =>
        let peer := LMirCmd.PEER.get c.body
        let st := setAll (s.mir n).state [(LMirSt.STATE, 1), (LMirSt.ROLE, LMirCmd.ROLE.get c.body), (LMirSt.PEER_LOST, 0),
          (LMirSt.PEER, peer)]
        tellMirror (s.setMir n { s.mir n with state := st, since := now s }) n 2 (LMirCmd.ROLE.get c.body) (mirDigest s n)
      | 2 => unpair s n (LMirSt.LAST_STATUS.get (s.mir n).state)
      | _ => takeover s n
    (s, Rsp.of St.ok)

def execMirrorPair (c : Cmd) (s : State) : Host.Outcome State Fault Refusal := cmdRow 0x0032 (bodyOp 1) opMirror c s
def execMirrorUnpair (c : Cmd) (s : State) : Host.Outcome State Fault Refusal := cmdRow 0x0032 (bodyOp 2) opMirror c s
def execMirrorTakeover (c : Cmd) (s : State) : Host.Outcome State Fault Refusal := cmdRow 0x0032 (bodyOp 3) opMirror c s

/-! ## Pairing (R376) -/

/-- A message of a seat's pair comes from the other device of the pair, over the port towards it. -/
def fromPeer (s : State) (port : Nat) (pkt : BitVec 256) (seat : Nat) : Bool :=
  LPkt.SRC.get pkt == LMirSt.PEER.get (s.mir seat).state && peerPortTo s (LMirSt.PEER.get (s.mir seat).state) == port

/-- On the partner: do no other seat's objects share a byte with the seat's KVPOOL ranges, and does no other seat use riser slots
(R376)? At the comparison the seat itself has no set there (DEDUCED, log entry 106). -/
def partnerFree (s : State) (n : Nat) : Bool :=
  s.bank.riserSets.isEmpty &&
  ((objList s).filter (fun o => LObj.SEAT.get (s.obj o) == n && LObj.KIND.get (s.obj o) == 3)).all (fun o =>
    (objList s).all (fun q => LObj.SEAT.get (s.obj q) == n || LObj.STATE.get (s.obj q) == 0 ||
      !overlaps (LObj.WORK.get (s.obj o)) (objTiles s o * 16384) (LObj.WORK.get (s.obj q)) (objTiles s q * 16384)))

/-- The other side's role and configuration have come. Agreeing, the device answers with its own, which the other side may have missed
(DESIGN CHOICE, log entry 106); the primary enters SYNCING. -/
def comparePeer (seat role : Nat) (peer : BitVec 256) (s : State) : State :=
  if (s.mir seat).paired then s
  else if peer ≠ mirDigest s seat || role = mirRole s seat || (mirRole s seat = 1 && !partnerFree s seat) then unpair s seat St.mirror
  else
    let s := tellMirror (s.setMir seat { s.mir seat with paired := true }) seat 2 (mirRole s seat) (mirDigest s seat)
    if mirRole s seat = 0 then setMirSt s seat [(LMirSt.STATE, 2)] else s

/-- MIRROR_COMPARE. -/
def execMirrorCompare (seat : Msg Nat) (peer : MirPeer) (s : State) : Host.Outcome State Fault Refusal :=
  messageRow .link seat.port 1 64 seat.pkt (fun s => fromPeer s seat.port seat.pkt seat.val && mirState s seat.val == 1)
    (comparePeer seat.val peer.role peer.digest) s

/-- MIRROR_PAIR_TIMEOUT: the other side has not paired within 10 s. -/
def execMirrorPairTimeout (seat : Nat) (s : State) : Host.Outcome State Fault Refusal :=
  act .banker (when (fun s => mirState s seat == 1 && !(s.mir seat).paired && decide ((s.mir seat).since + 10000000000 ≤ now s))
    (fun s => unpair s seat St.mirror)) s

/-- The page of each lane of a run that the primary copies (R376). -/
def runPages (s : State) (b p i : Nat) : List JournalItem :=
  (List.range (gLanes (s.bind b).brec)).map (fun lane =>
    let a := runAddr (s.bind b).brec p i
    .riser b 0 (keyOf s a + lane * 16384) (readBytes s (laneKey s b a lane) 16384))

/-- What the primary copies of a seat: entries, run records with their runs' pages, prefix-index entries, stakes, held riser
sets, turn blocks (R376). -/
def syncItems (s : State) (n : Nat) : List JournalItem :=
  (seatSlots s n).map (fun k => .entry k (s.req k)) ++
  (attachedBinds s n).flatMap (fun b => (s.bind b).runs.map (fun e => .runRecord b (e.1 / 2 ^ 24) (e.1 % 2 ^ 24) e.2) ++
    (s.bind b).runs.flatMap (fun e => runPages s b (e.1 / 2 ^ 24) (e.1 % 2 ^ 24))) ++
  ((idxListed s).filter (fun k => idxValid s k && (attachedBinds s n).contains (LIdx.BINDING.get (idxRead s k)))).map
    (fun k => .index k (idxRead s k)) ++
  (s.stakes.filter (fun e => LStake.SEAT.get e.2 == n)).map (fun e => .stake e.1 e.2) ++
  (seatSlots s n).flatMap (fun k => match (s.rx k).held with
    | some f => (List.range (gLanes (s.bind (rBind s k)).brec)).map (fun i =>
        .riser (rBind s k) 0 (riserKey s (f + i)) (readBytes s (riserKey s (f + i)) 16384))
    | none => []) ++
  (attachedBinds s n).map (fun b => .turnBlock b (s.bind b).blk)

/-- MIRROR_SYNC_COMPLETE: the copy has ended; ACTIVE here, STANDBY at the partner. -/
def execMirrorSyncComplete (seat : Nat) (s : State) : Host.Outcome State Fault Refusal :=
  act .link (when (fun s => (mirState s seat == 2 && mirRole s seat == 0) || (mirState s seat == 1 && mirRole s seat == 1 && (s.mir seat).paired))
    (fun s =>
      if mirRole s seat = 0 then setMirSt (sendJournal s seat (syncItems s seat)) seat [(LMirSt.STATE, 3)]
      else setMirSt s seat [(LMirSt.STATE, 4)])) s

/-! ## Journals and seals (R377, R378) -/

/-- Applies one item at the partner. Of a turn block it keeps what the last sealed turn left: the partner has no turn in flight
(R380). -/
def applyItem (seat binding : Nat) (s : State) : JournalItem → State
  | .riser _ _ off bs => rawWrite s off bs
  | .entry k w => s.setReq k w
  | .runRecord b p i w => s.updBind b (fun x => setRunRec (freshRun x p i) p i w)
  | .index off w => rawWrite s off (bytesOf w.toNat 32)
  | .stake k w => s.setStake k w
  | .shadow a bs => s.setMir seat { s.mir seat with
      sealed := Tab.upd (s.mir seat).sealed [] binding (fun l => l ++ [(a, bs)]) }
  | .flush src dst tiles => copyMem s src dst (tiles * 16384)
  | .turnBlock b w => s.updBind b (fun x => { x with blk := idleBlk w })

/-- What the partner holds pending until the seal, riser writes among it (R47, R377; DEDUCED, log entry 94); applied at once
while the pair is being synchronised. -/
def takeJournal (seat : Nat) (items : List JournalItem) (s : State) : State :=
  if mirState s seat = 1 then items.foldl (applyItem seat 0) s
  else s.setMir seat { s.mir seat with journal := (s.mir seat).journal ++ items }

/-- A partner takes journal items while it is being synchronised and as STANDBY, until it takes its peer for lost (R376, R377). -/
def takesJournal (s : State) (seat : Nat) : Bool :=
  mirRole s seat == 1 && ((mirState s seat == 1 && (s.mir seat).paired) || mirState s seat == 4) &&
    !LMirSt.PEER_LOST.on (s.mir seat).state

/-- MIRROR_JOURNAL. -/
def execMirrorJournal (seat : Msg Nat) (items : List JournalItem) (s : State) : Host.Outcome State Fault Refusal :=
  messageRow .link seat.port 1 (sumNat (items.map itemBytes)) seat.pkt
    (fun s => fromPeer s seat.port seat.pkt seat.val && takesJournal s seat.val) (takeJournal seat.val items) s

/-- A seal of a binding's turn applies the item: not the riser writes of another turn or binding (R47). -/
def sealsItem (binding turn : Nat) : JournalItem → Bool
  | .riser b u _ _ => b == binding && u == turn
  | _ => true

/-- An item that stays pending at a binding's seal: the riser writes of other bindings' turns. -/
def staysPending (binding : Nat) : JournalItem → Bool
  | .riser b _ _ _ => b != binding
  | _ => false

/-- SEAL at the partner: what the turn's journal holds is applied as one change and acknowledged; riser writes of the binding
that belong to no sealed turn are discarded (R47). -/
def takeSeal (seat binding turn : Nat) (s : State) : State :=
  let items := (s.mir seat).journal.filter (sealsItem binding turn)
  let s := s.setMir seat { s.mir seat with
    journal := (s.mir seat).journal.filter (staysPending binding), sealed := Tab.set (s.mir seat).sealed [] binding [] }
  let s := items.foldl (applyItem seat binding) s
  let m := s.mir seat
  let s := s.setMir seat { m with state := LMirSt.SEAL_TIME.set m.state (now s), ctr := ctrAdd m.ctr 0x010 1 }
  tellMirror s seat 3 binding (BitVec.ofNat 256 turn)

def execSealRecord (seat : Msg Nat) (binding turn : Nat) (s : State) : Host.Outcome State Fault Refusal :=
  messageRow .link seat.port 1 64 seat.pkt
    (fun s => fromPeer s seat.port seat.pkt seat.val && mirState s seat.val == 4 && !LMirSt.PEER_LOST.on (s.mir seat.val).state)
    (takeSeal seat.val binding turn) s

/-- SEAL_ACK at the primary: the turn's held writes are issued. -/
def takeSealAck (seat binding turn : Nat) (s : State) : State :=
  let m := s.mir seat
  let hit := m.sealing.filter (fun w => w.binding == binding && w.turn == turn)
  let s := s.setMir seat { m with sealing := m.sealing.filter (fun w => !(w.binding == binding && w.turn == turn)) }
  heldOut s seat hit

def execSealAck (seat : Msg Nat) (binding turn : Nat) (s : State) : Host.Outcome State Fault Refusal :=
  messageRow .link seat.port 1 64 seat.pkt
    (fun s => fromPeer s seat.port seat.pkt seat.val && mirState s seat.val == 3 &&
      (s.mir seat.val).sealing.any (fun w => w.binding == binding && w.turn == turn))
    (takeSealAck seat.val binding turn) s

/-- SEAL_TIMEOUT (R379): no SEAL_ACK tier_timeout after a SEAL. -/
def execSealTimeout (seat : Nat) (s : State) : Host.Outcome State Fault Refusal :=
  act .banker (when (fun s => mirState s seat == 3 && mirRole s seat == 0 &&
      (s.mir seat).sealing.any (fun w => decide (w.sent + tierTimeout s ≤ now s)))
    (fun s => mirrorLost s seat)) s

end Sys2Proof.Machine
end

