-- ==== Sys2Proof/Machine/Jobs.lean ====
section
/-! DEFINITION. KV copies lane by lane, park and return copies, park space, late and lost fetches, the timers of
requests (05_kv_pages.md, 09_tiers.md, 10_requests.md; R489). -/

namespace Sys2Proof.Machine

/-! ## Flushes, seeds and tails (R124 to R126) -/

/-- Key of one lane of a copy's source: a riser slot, or a run's page. -/
def sourceKey (s : State) (b lane : Nat) : SeedSrc → Nat
  | .set f => riserKey s (f + lane)
  | .run a => laneKey s b a lane

/-- Key of one lane of a copy's destination. -/
def targetKey (s : State) (lane : Nat) : SeedSrc → Nat
  | .set f => riserKey s (f + lane)
  | .run a => keyOf s a + lane * 16384

/-- Device address of one lane of a copy's end: a riser slot of this device, a run's page. -/
def laneAddr (s : State) (lane : Nat) : SeedSrc → Nat
  | .set f => devAddr s (riserKey s (f + lane))
  | .run a => a + lane * 16384

/-- Why a lane's copy fails when it is issued: a page of a run outside the windows of the request's seat, or one that cannot be
reached (R21, R23, R76, R409, R483); an uncorrectable source (R471). -/
def copyStatus (s : State) (b lane : Nat) (c : Copy) : Nat :=
  let seat := rSeat s c.slot
  let run := fun (write : Bool) (e : SeedSrc) => match e with
    | .set _ => St.ok
    | .run a => moveStatus s seat write (a + lane * 16384) 16384
  firstFail [(run false c.src != St.ok, run false c.src), (run true c.dst != St.ok, run true c.dst),
    (moverStatus s (sourceKey s b lane c.src) (targetKey s lane c.dst) 16384 != St.ok,
      moverStatus s (sourceKey s b lane c.src) (targetKey s lane c.dst) 16384),
    (uncorrAt s (sourceKey s b lane c.src) 16384, St.uncorr)]

/-- Gives up a request's fetch or copy: FAULT with a DETAIL, counted under TIER_FAULT once a request. -/
def tierFault (s : State) (slot detail : Nat) : State :=
  if rActive s slot then faultReq (countTier s (rBind s slot) slot) slot detail else s

/-- A copy of a request that fails with a status ends it with FAULT: under TIER_FAULT where the copy was given up (R256), else with
DETAIL 1 (R471). -/
def copyFault (s : State) (slot st lost : Nat) : State :=
  if [St.noroute, St.link, St.timeout].contains st then tierFault s slot lost
  else faultReq (s.noteWindow (rSeat s slot) st) slot 1

/-- Copies a lane's entries below the count into a set, as external reads see them (R67, R126). -/
def seedEntries (s : State) (b src dst count : Nat) : State :=
  let r := (s.bind b).brec
  if noDefer s src 16384 then copyEntries s r src dst count
  else
    let t := copyEntries { s with mem := memPut s.mem src (viewBytes s src 16384) } r src dst count
    { t with mem := memPut t.mem src (readBytes s src 16384) }

/-- Issues one lane's copy: the whole page into a run, whose bytes beyond the entries hold no defined value (R108); into a set the
entries below the count. A page on another chip travels by bulk requests (R15). A lane that fails ends the request with FAULT. -/
def copyLane (s : State) (b lane : Nat) (c : Copy) : State :=
  let src := sourceKey s b lane c.src
  let dst := targetKey s lane c.dst
  let st := copyStatus s b lane c
  if st ≠ St.ok then
    copyFault (if st = St.uncorr then noteUncorr s src 16384 4 (rSeat s c.slot) (some b) else s) c.slot st 2
  else match c.dst with
    | .set _ =>
      if farAddr s (laneAddr s lane c.src) then
        moveTile s (.lane b c.slot c.col lane) (1, 0) (rSeat s c.slot) (laneAddr s lane c.src) (laneAddr s lane c.dst)
      else
        let s := pushGrants (pushGrants (noteCorr s src 16384 false) (1, 1) src 16384 false) (1, 0) dst 16384 true
        dupRiser (seedEntries s b src dst c.count) c.slot dst 16384
    | .run _ => moveTile s (.lane b c.slot c.col lane) (1, 1) (rSeat s c.slot) (laneAddr s lane c.src) (laneAddr s lane c.dst)

/-- Is an issued lane's copy still to be performed, in the deferral buffer or on another chip (R67, R124)? -/
def laneOpen (s : State) (b lane : Nat) (c : Copy) : Bool :=
  !noDefer s (targetKey s lane c.dst) 16384 || jobOpen s (· == .lane b c.slot c.col lane)

/-- The request of a copy of which a lane has failed on another chip ends (R256). -/
def failedCopy (s : State) (c : Copy) : State := if c.failed = St.ok then s else copyFault s c.slot c.failed 2

/-- Does a lane's copy wait for room in a deferral buffer (R68)? -/
def laneWaits (s : State) (lane : Nat) (c : Copy) : Bool := moverWaits s (targetKey s lane c.dst) 16384

def lastLane (s : State) (b lane : Nat) : Bool := lane + 1 == gLanes (s.bind b).brec

/-- The open flush of a request's column. -/
def flushOf (s : State) (b slot col : Nat) : Option Copy := (s.bind b).flushes.find? (fun c => c.slot == slot && c.col == col)

/-- One lane of a flush has completed; with the last to complete, a set no longer held is freed (R123, R124). -/
def flushLane (s : State) (b lane : Nat) (c : Copy) : State :=
  if c.doneLanes.length + 1 = gLanes (s.bind b).brec then
    let s := s.updBind b (fun x => { x with flushes := x.flushes.filter (fun d => !(d.slot == c.slot && d.col == c.col)) })
    match c.freeSet, c.src with
    | true, .set f => freeSet s (rSeat s c.slot) f
    | _, _ => s
  else
    s.updBind b (fun x => { x with flushes := x.flushes.map (fun d =>
      if d.slot == c.slot && d.col == c.col then
        { d with doneLanes := d.doneLanes ++ [lane], heldLanes := d.heldLanes.filter (· != lane) } else d) })

/-- Notes a lane of a copy as issued. -/
def holdLane (lane slot col : Nat) (l : List Copy) : List Copy :=
  l.map (fun d => if d.slot == slot && d.col == col then { d with heldLanes := d.heldLanes ++ [lane] } else d)

/-- A lane of a flush is issued: it has completed, unless its writes met a lock and wait in the deferral buffer, or are on their
way to another chip (R67, R124). -/
def flushCopy (s : State) (b lane : Nat) (c : Copy) : State :=
  let s := copyLane s b lane c
  if !laneOpen s b lane c then flushLane s b lane c
  else s.updBind b (fun x => { x with flushes := holdLane lane c.slot c.col x.flushes })

/-- FLUSH_COMPLETE (R124): lanes are copied in ascending order; one whose writes were deferred or went to another chip completes
when they have been performed. -/
def execFlushComplete (b slot col lane : Nat) (s : State) : Host.Outcome State Fault Refusal :=
  act .banker (fun s =>
    match flushOf s b slot col with
    | some c =>
      if c.heldLanes.contains lane then
        (if !laneOpen s b lane c then flushLane (failedCopy s c) b lane c else s)
      else if lane ≠ c.doneLanes.length + c.heldLanes.length then s
      else if laneWaits s lane c then blockMover s (targetKey s lane c.dst) 16384
      else flushCopy s b lane c
    | none => s) s

/-- A lane of a seed has completed. -/
def seedLane (s : State) (b lane : Nat) (c : Copy) : State :=
  if c.doneLanes.length + 1 = gLanes (s.bind b).brec then
    s.updBind b (fun x => { x with seeds := x.seeds.filter (fun d => d.slot != c.slot) })
  else s.updBind b (fun x => { x with seeds := x.seeds.map (fun d =>
    if d.slot == c.slot then
      { d with doneLanes := d.doneLanes ++ [lane], heldLanes := d.heldLanes.filter (· != lane) } else d) })

/-- SEED_COPY_COMPLETE (R126): one lane of a seed, in ascending order; one that comes from another chip completes when it has
come. -/
def execSeedCopyComplete (slot lane : Nat) (s : State) : Host.Outcome State Fault Refusal :=
  act .banker (fun s =>
    let b := rBind s slot
    match (s.bind b).seeds.find? (fun c => c.slot == slot) with
    | some c =>
      if c.heldLanes.contains lane then
        (if jobOpen s (· == .lane b slot c.col lane) then s
         else seedLane (dupRiser (failedCopy s c) slot (targetKey s lane c.dst) 16384) b lane c)
      else if lane ≠ c.doneLanes.length + c.heldLanes.length then s
      else
        let s := copyLane s b lane c
        if jobOpen s (· == .lane b slot c.col lane) then
          s.updBind b (fun x => { x with seeds := holdLane lane slot c.col x.seeds })
        else seedLane s b lane c
    | none => s) s

/-- All lanes of the tail that a pause writes, in ascending order. -/
def tailLanes (s : State) (b : Nat) (c : Copy) : State :=
  (List.range (gLanes (s.bind b).brec)).foldl (fun s lane => copyLane s b lane c) s

/-- The tail's lanes are issued, all of them once. -/
def tailIssue (s : State) (b : Nat) (c : Copy) : State :=
  if !c.heldLanes.isEmpty then s
  else (tailLanes s b c).updBind b (fun x => { x with tails := x.tails.map (fun d =>
    if d.slot == c.slot then { d with heldLanes := List.range (gLanes x.brec) } else d) })

/-- PAUSE_TAIL_COMPLETE (R125): the tail has been written, in its run's pages too where locks deferred it or they lie on another
chip, unless a lane that failed has ended the request (R256, R471). -/
def execPauseTailComplete (slot : Nat) (s : State) : Host.Outcome State Fault Refusal :=
  act .banker (fun s =>
    let b := rBind s slot
    match (s.rx slot).tail, (s.bind b).tails.find? (fun c => c.slot == slot) with
    | .writing p i k, some c =>
      let lanes := List.range (gLanes (s.bind b).brec)
      match if c.heldLanes.isEmpty then lanes.find? (fun lane => laneWaits s lane c) else none with
      | some lane => blockMover s (targetKey s lane c.dst) 16384
      | none =>
        let s := failedCopy (tailIssue s b c) c
        if rActive s slot && !lanes.any (fun lane => laneOpen s b lane c) then tailDone s slot p i k else s
    | _, _ => s) s

/-- PAUSE_TAIL_RETRY (R125): while no turn is in flight, the allocation is tried again. -/
def execPauseTailRetry (slot : Nat) (s : State) : Host.Outcome State Fault Refusal :=
  act .banker (when (fun s => (s.rx slot).tail == .wants && !inFlight s (rBind s slot)) (fun s => tailAlloc s slot)) s

/-! ## Park and return copies (R251, R252, R258) -/

/-- Issues tile t of a run's copy between two addresses, checked by R23 for the request's seat (R258): what fails ends the
request with FAULT (R256). -/
def runTile (s : State) (slot : Nat) (job : Job) (src dst t : Nat) : State :=
  let a := src + t * 16384
  let d := dst + t * 16384
  let st := tileStatus s (rSeat s slot) a d
  if st ≠ St.ok then
    copyFault (if st = St.uncorr then noteUncorr s (keyOf s a) 16384 4 (rSeat s slot) (some (rBind s slot)) else s) slot st 5
  else moveTile s job (4, 3 * moveDie (keyOf s a) (keyOf s d)) (rSeat s slot) a d

def stepRun (col : Nat) (l : List RunCopy) : List RunCopy :=
  l.map (fun r => if r.col == col && !r.done then { r with next := r.next + 1 } else r)

/-- Where the copies of a request's parked and returning runs lie: the copy, its source and its destination. -/
def parkEnds (s : State) (slot : Nat) (r : RunCopy) : Nat × Nat :=
  (runAddr (s.bind (rBind s slot)).brec r.pool r.idx, parkAddr s r.place)

/-- The next tile of a run that the request parks. -/
def parkTile (slot col : Nat) (s : State) : State :=
  match (s.rx slot).parks.find? (fun r => r.col == col && !r.done) with
  | none => s
  | some r =>
    if r.next ≥ gLanes (s.bind (rBind s slot)).brec || (s.rx slot).faultDue ≠ 0 then s
    else runTile (s.updRx slot (fun x => { x with parks := stepRun col x.parks })) slot (.park slot col)
      (parkEnds s slot r).1 (parkEnds s slot r).2 r.next

/-- The next tile of a run that comes back; one whose write meets a full deferral buffer waits (R68). -/
def backTile (slot col : Nat) (s : State) : State :=
  match (s.rx slot).returns.find? (fun r => r.col == col && !r.done) with
  | none => s
  | some r =>
    let d := keyOf s ((parkEnds s slot r).1 + r.next * 16384)
    if r.next ≥ gLanes (s.bind (rBind s slot)).brec || (s.rx slot).faultDue ≠ 0 then s
    else if moverWaits s d 16384 then blockMover s d 16384
    else runTile (s.updRx slot (fun x => { x with returns := stepRun col x.returns })) slot (.back slot col)
      (parkEnds s slot r).2 (parkEnds s slot r).1 r.next

/-- One tile of each run that is being parked or brought back (R244, R251, R252). -/
def runWork (s : State) : State :=
  (slotsWhere s (rActive s)).foldl (fun s slot =>
    let s := ((s.rx slot).parks.map (·.col)).foldl (fun s col => parkTile slot col s) s
    ((s.rx slot).returns.map (·.col)).foldl (fun s col => backTile slot col s) s) s

/-- Have all tiles of a run's copy been issued and performed? -/
def runOver (s : State) (b : Nat) (r : RunCopy) (job : Job) : Bool :=
  decide (gLanes (s.bind b).brec ≤ r.next) && !jobOpen s (· == job)

def markRun (col : Nat) (l : List RunCopy) : List RunCopy := l.map (fun r => if r.col == col then { r with done := true } else r)

/-- PARK_COPY_COMPLETE (R251): the run's copy has completed; it switches at once where no turn is in flight. -/
def execParkCopyComplete (slot col : Nat) (s : State) : Host.Outcome State Fault Refusal :=
  act .banker (fun s =>
    let b := rBind s slot
    let s := (List.range (gLanes (s.bind b).brec)).foldl (fun s _ => parkTile slot col s) s
    match (s.rx slot).parks.find? (fun r => r.col == col && !r.done) with
    | none => s
    | some r =>
      if r.failed ≠ St.ok then copyFault s slot r.failed 5
      else if !runOver s b r (.park slot col) || (s.rx slot).faultDue ≠ 0 then s
      else
        let s := s.updRx slot (fun x => { x with parks := markRun col x.parks })
        if inFlight s b then s else parkSwitch s slot) s

/-- RETURN_COPY_COMPLETE (R252): the last copy back lets the request leave RESUMING. -/
def execReturnCopyComplete (slot col : Nat) (s : State) : Host.Outcome State Fault Refusal :=
  act .banker (fun s =>
    let b := rBind s slot
    let s := (List.range (gLanes (s.bind b).brec)).foldl (fun s _ => backTile slot col s) s
    match (s.rx slot).returns.find? (fun r => r.col == col && !r.done) with
    | none => s
    | some r =>
      if r.failed ≠ St.ok then copyFault s slot r.failed 5
      else if !runOver s b r (.back slot col) || (s.rx slot).faultDue ≠ 0 then s
      else
        let s := s.updRx slot (fun x => { x with returns := markRun col x.returns })
        if inFlight s b then s else closeIdle (resumeSwitch s slot) b) s

/-! ## Evictions and park space (R248 to R253, R260, R489) -/

/-- A host has evicted a parked run (R253). -/
def evicted (slot : Nat) (s : State) : State :=
  if rState s slot = RS.paused || rState s slot = RS.pausing then
    (endNow s slot 5 3).countBind (rBind s slot) BC.evictExpired 1
  else s.countDev dcParkStale 1

/-- EVICTION_NOTICE. -/
def execEvictionNotice (slot : Msg Nat) (s : State) : Host.Outcome State Fault Refusal :=
  messageRow .banker slot.port 0 64 slot.pkt (fun _ => true) (evicted slot.val) s

/-- The host frees a run that its owner gives up, and acknowledges (R489). -/
def freeParked (owner id : Nat) (s : State) : State :=
  let s := (objList s).foldl (fun s n =>
    if LObj.KIND.get (s.obj n) = 5 then
      s.updOx n (fun x => { x with park := x.park.filter (fun r => !(r.owner == owner && r.id == id)) })
    else s) s
  tellPark s owner 4 id 0 0

/-- PARK_SPACE_RELEASE: from the run's owner. -/
def execParkSpaceRelease (owner : Msg Nat) (id : Nat) (s : State) : Host.Outcome State Fault Refusal :=
  messageRow .banker owner.port 0 64 owner.pkt (fun _ => LPkt.SRC.get owner.pkt == owner.val) (freeParked owner.val id) s

/-- Where a host takes a run (R250): a PARKHOST object of T2, failing that of T1, in ascending object number, with the
run's tiles free in a row; the owner's request is not evicted for it. -/
def hostPlace (s : State) (owner slot tiles : Nat) : Option (State × Nat × Nat) :=
  [2, 1].findSome? (fun tier =>
    ((objList s).filter (fun n => LObj.KIND.get (s.obj n) == 5 && LObj.STATE.get (s.obj n) == 1 &&
        LObj.WTIER.get (s.obj n) == tier)).findSome? (fun n =>
      if (parkGap s n tiles).isNone then none
      else (makeRoom s tier tiles (some (owner, slot))).bind (fun t => (parkGap t n tiles).map (fun g => (t, n, g)))))

/-- Takes a run in and answers its address, or refuses it (R247, R250). -/
def hostTake (owner seat slot col tiles : Nat) (s : State) : State :=
  let place := if LTierCfg.PARK_HOST.on s.bank.tierCfg && tiles != 0 then hostPlace s owner slot tiles else none
  match place with
  | none => tellPark s owner 7 slot col seat
  | some (t, n, g) =>
    let id := t.bank.nextParkId
    let run : ParkRun := ⟨id, owner, seat, slot, col, g, tiles, t.bank.ageClock.toNat⟩
    let t := { t with bank := { t.bank with nextParkId := id + 1 } }
    let t := t.updOx n (fun x => { x with park := x.park ++ [run] })
    tellPark ((t.countDev dcParkIn 1).countDev dcSharedDraw tiles) owner 6 id (LObj.WORK.get (t.obj n) + g * 16384) seat

/-- PARK_HOST_TAKE_RUN: the owner asks by a message. -/
def execParkHostTakeRun (owner : Msg Nat) (seat slot col tiles : Nat) (s : State) : Host.Outcome State Fault Refusal :=
  messageRow .banker owner.port 0 64 owner.pkt (fun _ => LPkt.SRC.get owner.pkt == owner.val)
    (hostTake owner.val seat slot col tiles) s

/-- A release of park space is complete (R489). -/
def releaseDone (s : State) (id : Nat) : State :=
  ((s.fab.releases.filter (fun r => r.1 == id)).map (fun r => r.2.1)).foldl
    (fun s slot => s.updRx slot (fun x => { x with releases := x.releases.filter (· != id) }))
    { s with fab := { s.fab with releases := s.fab.releases.filter (fun r => r.1 != id) } }

/-- PARK_RELEASE_ACK (R489). -/
def execParkReleaseAck (id : Msg Nat) (s : State) : Host.Outcome State Fault Refusal :=
  messageRow .banker id.port 0 64 id.pkt (fun _ => true) (fun s => releaseDone s id.val) s

/-- PARK_RELEASE_TIMEOUT (R489): tier_timeout after the message was sent. -/
def execParkReleaseTimeout (id : Nat) (s : State) : Host.Outcome State Fault Refusal :=
  act .banker (when (fun s => s.fab.releases.any (fun r => r.1 == id && decide (r.2.2 + tierTimeout s ≤ now s)))
    (fun s => releaseDone s id)) s

/-- Runs parked here for a seat of one chip belong to its mirror partner from now on (R380). -/
def changeOwner (oldChip newChip seat : Nat) (s : State) : State :=
  (objList s).foldl (fun s n =>
    s.updOx n (fun x => { x with park := x.park.map (fun r =>
      if r.owner == oldChip && r.seat == seat then { r with owner := newChip } else r) })) s

/-- OWNER_CHANGE: from the new owner. -/
def execOwnerChange (oldChip : Msg Nat) (newChip seat : Nat) (s : State) : Host.Outcome State Fault Refusal :=
  messageRow .banker oldChip.port 0 64 oldChip.pkt (fun _ => LPkt.SRC.get oldChip.pkt == newChip)
    (changeOwner oldChip.val newChip seat) s

/-! ## Late and lost fetches (R255, R256) -/

/-- Outstanding fetches of the turn that holds the slot (R255): tier, and fabric time of the issue. A merged triple is fetched
from its crucible's tier, a read of another chip by a unit of a turn from T3, a split-reduction partial that others wait for
as from T3; what this device's own memory and the companion hold is read within its command (log entry 83). -/
def openFetches (s : State) : List (Nat × Nat) :=
  (s.clusters.flatMap (fun e => e.2.awaits)).map (fun a => (if a.chip = ownChip s then 2 else 3, a.closed)) ++
  (s.fab.outstanding.filter (fun r => !r.posted && decide (r.unit < 0x2000))).map (fun r => (3, r.issued)) ++
  ((s.fab.arrivals ++ s.fab.placed).map (fun a => (3, a.2 - tierTimeout s)))

/-- Late thresholds in ns (R255). -/
def lateAfter (tier : Nat) : Nat := if tier ≤ 2 then 1000 else if tier = 3 then 10000 else 20000

/-- The highest-numbered tier with a late fetch, and the fabric time at which its first became late (R255). -/
def lateTier (s : State) : Option (Nat × Nat) :=
  let late := ((openFetches s).map (fun f => (f.1, f.2 + lateAfter f.1))).filter (fun f => decide (f.2 < now s))
  (late.foldl (fun acc f => match acc with
    | some a => if a.1 < f.1 then some f else if f.1 = a.1 && decide (f.2 < a.2) then some f else some a
    | none => some f) none)

/-- The fc, 1.35 to the ns, that have passed since a fabric time (R2). -/
def fcSince (s : State) (t : Nat) : Nat := (now s - t) * 27 / 20

/-- FETCH_LATE (R255): the holder's stall counter of the highest tier that has a late fetch rises by the fc named, at most
those since the fetch became late that no stall counter has counted (log entry 83). -/
def execFetchLate (b tier fcs : Nat) (s : State) : Host.Outcome State Fault Refusal :=
  act .banker (when (fun s => s.slot.holder == some b && (lateTier s).any (fun x => x.1 == tier))
    (fun s => match lateTier s with
      | some x => (s.countBind b (BC.stallT1 + tier - 1) (min fcs (fcSince s (max (s.bind b).stallTo x.2)))).updBind b
          (fun y => { y with stallTo := now s })
      | none => s)) s

/-- One fc of a late fetch: the holder's stall counter of the highest tier that has one (R255, R259). -/
def stallWaits (s : State) : State :=
  match s.slot.holder, lateTier s with
  | some b, some x => (s.countBind b (BC.stallT1 + x.1 - 1) 1).updBind b (fun y => { y with stallTo := now s })
  | _, _ => s

/-- Does a job serve a request's entry of the binding's turn? -/
def servesSlot (s : State) (b slot : Nat) : Job → Bool
  | .entry k en => k == b && ((s.bind b).turn[en]?).any (fun e => entSlot e == slot)
  | _ => false

/-- Has a wait since its issue lasted tier_timeout, where the fabric has not ended it (R256, R257)? -/
def waitOver (s : State) (status due : Nat) : Bool := status != St.timeout || decide (due ≤ now s)

/-- The result of R256 for one fetch or tile move. -/
def giveUp (s : State) (what : Lost) (status : Nat) : State :=
  match what with
  | .oneRequest b slot =>
    if s.slot.holder == some b && (s.bind b).turn.any (fun e => entSlot e == slot) && waitOver s status (s.bind b).fetchDue then
      countTier (failSlot (giveUpJobs s (servesSlot s b slot) status) b slot 2) b slot
    else s
  | .weightTile b =>
    if s.slot.holder == some b && waitOver s status (s.bind b).fetchDue then
      abandonTurn (giveUpRequests s (fun r => decide (r.unit < 0x1000)) status) b
    else s
  | .splitPartial c =>
    if (s.core c).split.isSome && (status != St.timeout || splitLost s c) then splitGiveUp s c else s
  | .parkCopy slot col =>
    if (s.rx slot).parks.any (fun r => r.col == col && !r.done && waitOver s status r.due) then
      tierFault (giveUpJobs s (· == .park slot col) status) slot 5
    else s
  | .returnCopy slot col =>
    if (s.rx slot).returns.any (fun r => r.col == col && !r.done && waitOver s status r.due) then
      tierFault (giveUpJobs s (· == .back slot col) status) slot 5
    else s
  | .placeCopy o =>
    let mine := fun (j : Job) => match j with
      | .tile n _ => n == o
      | _ => false
    if (!(s.ox o).todo.isEmpty || jobOpen s mine) && (s.ox o).failed == 0 && waitOver s status (s.ox o).due then
      failTile (giveUpJobs s mine status) o St.timeout
    else s
  | .promptRead slot =>
    if rState s slot = RS.free || rState s slot = RS.done then s.updRx slot (fun x => { x with promptLost := status }) else s
  | .consRead slot =>
    if rActive s slot || rState s slot = RS.ending then s.updRx slot (fun x => { x with consLost := true }) else s
  | .blockRead slot what =>
    if rActive s slot then s.updRx slot (fun x => { x with lostReads := what :: x.lostReads }) else s

/-- FETCH_TIMEOUT (R256): given up after tier_timeout, or with E_NOROUTE or E_LINK from the fabric. -/
def execFetchTimeout (what : Lost) (status : Nat) (s : State) : Host.Outcome State Fault Refusal :=
  act .banker (when (fun _ => status == St.timeout || status == St.noroute || status == St.link)
    (fun s => giveUp s what status)) s

/-! ## Timers of requests (R276, R279, R284) -/

/-- EXPIRY_CHECK (R276): while the binding has no turn in flight. -/
def execExpiryCheck (b : Nat) (s : State) : Host.Outcome State Fault Refusal :=
  act .banker (when (fun s => (s.bind b).loaded && !inFlight s b)
    (fun s => endExpired ((bindSlots s b).foldl markExpired s) b)) s

/-- CONS_POLL (R284): CONS is read; an end entry that waits is written where there is room, and a request that the ring
held back may be composed. -/
def execConsPoll (slot : Nat) (s : State) : Host.Outcome State Fault Refusal :=
  act .banker (when (fun s => rActive s slot || rState s slot == RS.ending)
    (fun s =>
      let s := readCons s slot
      if (s.rx slot).endWait.isSome then
        let n := (s.rx slot).prod
        let s := ringEnd (s.updRx slot (fun x => { x with ringUndo := [] })) slot
        if (s.rx slot).prod = n then s else ringRaise s slot
      else closeIdle s (rBind s slot))) s

/-- REQUEST_DONE (R279): ENDING becomes DONE once the end is recorded and every release is complete. -/
def requestDone (s : State) (slot : Nat) : Bool :=
  rState s slot == RS.ending && (s.rx slot).endWait.isNone && releasesOver s slot

def execRequestDone (slot : Nat) (s : State) : Host.Outcome State Fault Refusal :=
  act .banker (when (fun s => requestDone s slot) (fun s => s.updReq slot [(LEnt.STATE, RS.done)])) s

end Sys2Proof.Machine
end

