-- ==== Sys2Proof/Machine/PinRows.lean ====
section
/-! DEFINITION. Supplies, clocks, die sensors, SMBus, JTAG and the test multiplexer (18_package.md). -/

namespace Sys2Proof.Machine

/-! ## Rails, PLL and die temperatures (R448, R454, R458 to R460) -/

/-- RAIL_LOSS (R448): with RST_N high every state is undefined from here on. -/
def execRailLoss (s : State) : Host.Outcome State Fault Refusal :=
  act .power (fun s => { s with pins := { s.pins with railLost := true } }) s

/-- PLL_UNLOCK (R454). -/
def execPllUnlock (s : State) : Host.Outcome State Fault Refusal :=
  act .power (fun s =>
    let t := setSbBits s [(LSbFault.PLL_UNLOCK, 1)]
    { t with pins := { t.pins with pllUnlock := true } }) s

/-- SB_TEMP_DIE's byte for a reading; 0x80 with none (R462). -/
def tempByte (t : Option Int) : Nat :=
  match t with
  | none => 0x80
  | some v => (BitVec.ofInt 8 (max (-127) (min 127 v))).toNat

/-- The lowest die above 115 degrees (R458). -/
def trippedDie (temps : List (Option Int)) : Option Nat :=
  (List.range 8).find? (fun d => match temps.getD d none with
    | some v => decide (v > 115)
    | none => false)

/-- Records the dies' temperatures; the first die above the limit trips the device until RST_N (R460). -/
def sensorsRead (temps : List (Option Int)) (s : State) : State :=
  let t := (List.range 8).foldl (fun t d => Tab.set t 0x80 d (tempByte (temps.getD d none))) s.pins.dieTemp
  let s := { s with pins := { s.pins with dieTemp := t } }
  match trippedDie temps with
  | some d => if dieTrip s then s else setSbBits s [(LSbFault.DIE_TRIP, 1), (LSbFault.TRIP_DIE, d)]
  | none => s

/-- DIE_SENSOR_READ (R458). -/
def execDieSensorRead (temps : List (Option Int)) (s : State) : Host.Outcome State Fault Refusal :=
  act .power (sensorsRead temps) s

/-! ## The sideband and the TAP, which work in reset too (R452, R461 to R464) -/

/-- A step that needs supplies alone. -/
def sideband (f : State → State) (s : State) : Host.Outcome State Fault Refusal :=
  if s.pins.railLost then .fault .undefinedRailLoss else .next (f s)

/-- Stage FUSE has ended, so SB_DIGEST shows the identity digest (R462). -/
def digestShown (s : State) : Bool :=
  decide (3 ≤ stage s) && !(stage s == 15 && decide (LBootSt.CAUSE.get s.boot.status ≤ 2))

/-- The registers of the sideband (R462). -/
def smbusReg (s : State) (code : Nat) : Option Nat :=
  match code with
  | 0x00 => some s.boot.status.toNat
  | 0x01 => some s.pins.sbFault.toNat
  | 0x02 => some (ofBytes ((List.range 8).map (fun d => BitVec.ofNat 8 (dieByte s d))))
  | 0x03 => some (ofBytes ((List.range 8).map (fun i => BitVec.ofNat 8 (LGovSt.TEMP.get (s.ingot i).gov))))
  | 0x04 => some (ofBytes ((List.range 8).map (fun i => BitVec.ofNat 8 (LGovSt.TEMP.get (s.ingot (8 + i)).gov))))
  | 0x05 => some (s.pins.latched.toNat % 2 ^ 26)
  | 0x06 => some (if digestShown s then identDigest s else 0)
  | 0x07 => some s.clk.time.toNat
  | _ => none

/-- SMBUS_BLOCK_READ (R461, R462): NACK for a wrong PEC or a code not listed. -/
def execSmbusBlockRead (code : Nat) (pecOk : Bool) (s : State) : Host.Outcome State Fault Refusal :=
  sideband (fun s => s.emit (match smbusReg s code with
    | some v => if pecOk then .smbus true (bytesOf v 8) else .smbus false []
    | none => .smbus false [])) s

/-- The target's address: 0x58 + SMB_ADDR (R461). -/
def smbusAddr (s : State) : Nat := 0x58 + s.pins.latched.toNat / 2 ^ 24 % 4

/-- SMBUS_ALERT_RESPONSE (R461): a device that drives SMB_ALERT_N answers, and lets it go when it wins. -/
def execSmbusAlertResponse (won : Bool) (s : State) : Host.Outcome State Fault Refusal :=
  sideband (fun s =>
    if s.pins.alert && won then
      State.emit { s with pins := { s.pins with alert := false } } (.smbus true (bytesOf (smbusAddr s * 2) 1))
    else s.emit (.smbus false [])) s

/-- SMBUS_WRITE (R461): refused with a NACK. -/
def execSmbusWrite (s : State) : Host.Outcome State Fault Refusal := sideband (fun s => s.emit (.smbus false [])) s

/-- The TAP's instructions under numbers of the model's own. -/
def tapBypass : Nat := 0
def tapIdcode : Nat := 1
def tapSample : Nat := 2
def tapExtest : Nat := 3
def tapPulse : Nat := 4
def tapTrain : Nat := 5
def tapClamp : Nat := 6
def tapHighz : Nat := 7

def idcode : Nat := 0x09480A6B

/-- Loads an instruction; `drive`: the boundary register drives the pins. What the selected register captures is
delivered. -/
def tapLoad (s : State) (inst : Nat) (drive : Bool) (v : Nat) : State :=
  State.emit { s with pins := { s.pins with jtagInst := inst, jtagDrive := drive } } (.jtag inst v)

/-- An instruction that acts only while RST_N is low; otherwise it acts as BYPASS (R464). -/
def tapTest (inst : Nat) (drive : Bool) (v : State → Nat) (s : State) : State :=
  if s.pins.rstLow then tapLoad s inst drive (v s) else tapLoad s tapBypass false 0

/-- JTAG_TAP_RESET (R464). -/
def execJtagTapReset (s : State) : Host.Outcome State Fault Refusal :=
  sideband (fun s => { s with pins := { s.pins with jtagInst := tapIdcode, jtagDrive := false } }) s

def execJtagBypass (s : State) : Host.Outcome State Fault Refusal := sideband (fun s => tapLoad s tapBypass false 0) s
def execJtagIdcode (s : State) : Host.Outcome State Fault Refusal := sideband (fun s => tapLoad s tapIdcode false idcode) s

/-- What the boundary register captures, whose cells the manual does not list: a free value (log entry 40). -/
def captured (s : State) : Nat := (Config.freeWord s.free).toNat

/-- JTAG_SAMPLE_PRELOAD: the boundary register samples the pins. -/
def execJtagSamplePreload (s : State) : Host.Outcome State Fault Refusal :=
  sideband (fun s => tapLoad { s with pins := { s.pins with bsr := captured s }, free := s.free + 1 } tapSample false
    (captured s)) s

def execJtagExtest (s : State) : Host.Outcome State Fault Refusal :=
  sideband (tapTest tapExtest true (fun s => s.pins.bsr)) s
def execJtagExtestPulse (s : State) : Host.Outcome State Fault Refusal :=
  sideband (tapTest tapPulse true (fun s => s.pins.bsr)) s
def execJtagExtestTrain (s : State) : Host.Outcome State Fault Refusal :=
  sideband (tapTest tapTrain true (fun s => s.pins.bsr)) s
/-- CLAMP: the pins hold the boundary register, and the bypass register is selected. -/
def execJtagClamp (s : State) : Host.Outcome State Fault Refusal := sideband (tapTest tapClamp true (fun _ => 0)) s
/-- HIGHZ: no pin is driven, and the bypass register is selected. -/
def execJtagHighz (s : State) : Host.Outcome State Fault Refusal := sideband (tapTest tapHighz false (fun _ => 0)) s

/-! ## The test multiplexer (R467, R468) -/

/-- PRB_CLK_EDGE: PRB takes the OR of the selected source's events since the previous edge. -/
def probeEdge (events : Byte) (s : State) : State :=
  match s.pins.probeSel with
  | none => s
  | some (k, i) =>
    let n := probeCounts s k i
    { s with pins := { s.pins with prb := probeByte s.pins.probeSeen n events, probeSeen := n } }

def execPrbClkEdge (events : Byte) (s : State) : Host.Outcome State Fault Refusal := act .power (probeEdge events) s

end Sys2Proof.Machine
end

