-- ==== Sys2Proof/Machine/Pips.lean ====
section
/-! DEFINITION. The pips: descriptors, the row stream, the 48 instructions, faults (04_pip_core.md). -/

namespace Sys2Proof.Machine

/-! ## Registers and data memory (R80, R81, R88) -/

def gReg (x : Pip) (r : Nat) : W32 := Tab.get x.g 0#32 r
def setG (x : Pip) (r : Nat) (v : W32) : Pip := { x with g := Tab.set x.g 0#32 r v }
def vReg (x : Pip) (r : Nat) : List W32 := (List.range 32).map (fun i => Tab.get x.v 0#32 (32 * r + i))
def setV (x : Pip) (r : Nat) (l : List W32) : Pip :=
  { x with v := (List.range 32).foldl (fun t i => Tab.set t 0#32 (32 * r + i) (l.getD i 0#32)) x.v }

/-- A byte of DMEM; one without a defined value reads as a free byte, the same for the whole descriptor (R81, R95). -/
def dmByte (x : Pip) (a : Nat) : Byte :=
  match Tab.get x.dmem none a with
  | some b => b
  | none => Config.freeByte (x.freeBase + a)

def dmBytes (x : Pip) (a n : Nat) : List Byte := (List.range n).map (fun i => dmByte x (a + i))
def dmWord (x : Pip) (a : Nat) : W32 := BitVec.ofNat 32 (ofBytes (dmBytes x a 4))
def dmWords (x : Pip) (a n : Nat) : List W32 := (List.range n).map (fun i => dmWord x (a + 4 * i))

def dmPut (m : Tab (Option Byte)) (a : Nat) : List (Option Byte) → Tab (Option Byte)
  | [] => m
  | b :: rest => dmPut (Tab.set m none a b) (a + 1) rest

def dmStore (x : Pip) (a : Nat) (bs : List Byte) : Pip := { x with dmem := dmPut x.dmem a (bs.map some) }
def dmStoreWords (x : Pip) (a : Nat) (ws : List W32) : Pip := dmStore x a (ws.flatMap (fun w => bytesOf w.toNat 4))

/-- A data address of n bytes that R88 allows. -/
def dmOk (a n : Nat) : Bool := a % n == 0 && decide (a + n ≤ 8192)
/-- The same for a store. -/
def dmStoreOk (a n : Nat) : Bool := dmOk a n && decide (0x1520 ≤ a)

/-! ## The end of a descriptor (R95 to R97, R103) -/

def pipIngot (p : Nat) : Nat := p / 384
def pipOk (p : Nat) : Bool := decide (p < 6144)

/-- Rows emitted so far. -/
def emittedCount (x : Pip) : Nat := (List.range 16).countP (fun i => x.emitted.getLsbD i)

/-- The descriptor's group learns that its pip has ended it. -/
def markEnded (s : State) (p : Nat) : State :=
  let d := (s.pip p).cur.desc
  let mine := groupOf (LDesc.ISSUER.get d) (LDesc.CLUSTER.get d) (LDesc.TAG.get d)
  let fits := fun (e : GDesc) => isDesc (LDesc.PAGE_SEQ.get d) (LDesc.QROW0.get d) (LDesc.HEAD0.get d) e && !e.ended
  if dKind d = 0 then
    let mark := fun (e : GDesc) => { e with ended := true }
    let put := fun (h : MGroup) => { h with descs := updDesc fits mark h.descs }
    s.updIngot (pipIngot p) (fun g => { g with groups := updFirst (fun h => mine h && h.descs.any fits) put g.groups })
  else s

/-- The pip stops; its stream requests are withdrawn. -/
def pipStop (x : Pip) : Pip := { x with running := false, fifo := [], streams := [], rep := none }

/-- A fault (R95, R96): the pip stops and sends a fault record for row 0. A weight product that met an uncorrectable beat
is run once more first (R472). -/
def pipFault (s : State) (p status : Nat) : State :=
  let x := s.pip p
  let i := pipIngot p
  let d := x.cur.desc
  if status = St.uncorr && dKind d = 1 && !x.cur.again then
    let s := s.setPip p { pipStop x with queue := { x.cur with again := true } :: x.queue }
    s.updIngot i (fun g =>
      let e := qEnt g x.cur.qent
      let g := setQEnt g x.cur.qent { e with waiting := e.waiting + 1 }
      { g with slotsUsed := g.slotsUsed + emittedCount x })
  else
    let s := markEnded s p
    let s := s.setPip p (pipStop x)
    let r : Rec := ⟨faultHdr s d status, []⟩
    let s := s.updIngot i (fun g => { g with
      slotsUsed := g.slotsUsed - (dNq d - emittedCount x), recs := g.recs ++ [(p % 384, LDesc.ISSUER.get d, LDesc.CLUSTER.get d, r)] })
    let s := (s.countIngot i 0x0A8 1).countIngot i 0x0B0 1
    drained { s with free := s.free + 1 } i

/-! ## Starting a descriptor (R80, R81, R95) -/

/-- The visibility of a row's 128 tokens: those below VALID, cut by a structured mask (R81, R155). -/
def pipMask (d : PDesc) : BitVec 128 :=
  (d.mask.getD (BitVec.allOnes 128)) &&& BitVec.ofNat 128 (2 ^ LDesc.VALID.get d.desc - 1)

/-- Bytes of the input area as the query-buffer entry gives them; a word that no QUERY has written has no defined value (R157; a free
byte, DESIGN CHOICE, log entry 4). -/
def inputBytes (words : List W32) (n : Nat) : List (Option Byte) :=
  (List.range n).flatMap (fun i => match words[i]? with
    | some w => (bytesOf w.toNat 4).map some
    | none => [none, none, none, none])

/-- Is the input area of the last descriptor still right? -/
def inputKept (s : State) (p : Nat) (d : PDesc) : Bool :=
  (s.pip p).last == some (LDesc.QID.get d.desc, LDesc.ISSUER.get d.desc, (qEnt (s.ingot (pipIngot p)) d.qent).version)

/-- DMEM at a descriptor's first instruction. -/
def loadDmem (s : State) (p : Nat) (d : PDesc) : Tab (Option Byte) :=
  let x := s.pip p
  let old := x.dmem.filter (fun e => decide (e.1 < 0x1400))
  let input := if inputKept s p d then old
    else dmPut old 0 (inputBytes (qEnt (s.ingot (pipIngot p)) d.qent).words (dInput d.desc))
  let masks := (List.range (dNq d.desc)).flatMap (fun _ => (bytesOf (pipMask d).toNat 16).map some)
  dmPut (dmPut input 0x1400 masks) 0x1500 ((bytesOf d.desc.toNat 32).map some)

/-- DESCRIPTOR_START: the next queued descriptor is loaded and starts with the state of R80. -/
def startDesc (s : State) (p : Nat) (d : PDesc) (rest : List PDesc) : State :=
  let i := pipIngot p
  let slot := Tab.get s.pipSlots ⟨0, 0, 0#256, false, 0, []⟩ (LDesc.PROG.get d.desc)
  let load := cdiv (32 + 16 * dNq d.desc) 64 + (if inputKept s p d then 0 else cdiv (4 * dInput d.desc) 64)
  let version := (qEnt (s.ingot i) d.qent).version
  let x : Pip := { Pip.reset with
    queue := rest, running := true, cur := d, pc := slot.base, base := slot.base, len := slot.len,
    dmem := loadDmem s p d, freeBase := s.free, budget := 65536,
    last := some (LDesc.QID.get d.desc, LDesc.ISSUER.get d.desc, version), leaveTo := (s.pip p).leaveTo }
  let s := { s.setPip p x with free := s.free + 8192 }
  let s := s.updIngot i (fun g => setQEnt g d.qent { qEnt g d.qent with waiting := (qEnt g d.qent).waiting - 1 })
  drained (s.countIngot i 0x0C0 load) i

def execDescriptorStart (p : Nat) (s : State) : Host.Outcome State Fault Refusal :=
  act .arith (fun s =>
    match (s.pip p).queue with
    | d :: rest => if pipOk p && !(s.pip p).running then startDesc s p d rest else s
    | [] => s) s

/-! ## The row stream (R59, R62, R75, R76, R90, R91) -/

/-- Pip grants of the governor's interval. -/
def dutyUsed (s : State) (x : BankGroup) : Nat := if x.duty.1 = pcNow s / 1024 then x.duty.2 else 0

/-- Has the bank group's pip had the grants that the governor allows in this interval (R75, R76)? -/
def throttled (s : State) (i : Nat) (x : BankGroup) : Bool := decide (LGovSt.DUTY.get (s.ingot i).gov ≤ dutyUsed s x)

/-- The stream that requests next. -/
def nextStream (x : Pip) : Option Stream := x.streams.find? (fun t => decide (t.next < t.count))

/-- The requests of a stream move on; one with none left leaves the queue. -/
def advance : List Stream → List Stream
  | [] => []
  | t :: rest => if t.next + 1 < t.count then { t with next := t.next + 1 } :: rest else rest

/-- What an uncorrectable beat counts and logs: a weight product's is logged by its re-read, whose second failure is found
here where the turn still runs (R472, R486). -/
def noteBeat (s : State) (k : Nat) (d : PDesc) : State :=
  if dKind d.desc = 0 then noteUncorr s k 32 1 (LDesc.SEAT.get d.desc) none
  else if d.again && (layerHolder s).isSome && LDesc.ISSUER.get d.desc == ownChip s then
    (noteUncorr s k 32 1 (LDesc.SEAT.get d.desc) (layerHolder s)).countIngot (k / ingotSize) 0x138 1
  else countBad s k 32

/-- A granted beat passes the decoder and reaches the FIFO. -/
def takeBeat (s : State) (p : Nat) (t : Stream) : State :=
  let x := s.pip p
  let i := pipIngot p
  let bg := p % 384
  let d := x.cur.desc
  let pc := pcNow s
  let k := pageKey i (LDesc.PAGE.get d) + t.off + 32 * t.stride * t.next
  let s := updBankGroup s i bg (fun b => { b with freeAt := pc + 1, duty := (pc / 1024, dutyUsed s b + 1) })
  let s := (s.countIngot i 0x040 1).setPip p { x with streams := advance x.streams }
  if uncorrAt s k 32 then
    pipFault (noteBeat s k x.cur) p St.uncorr
  else
    let s := noteCorr s k 32 true
    s.setPip p { s.pip p with fifo := (s.pip p).fifo ++ [readBytes s k 32] }

/-- ROW_STREAM_BEAT: the pip's request of this pc. The classes above it are granted first; the governor may refuse. A
request that is not granted waits: the pc that it loses is counted as the pc ends (R64, R90). -/
def streamBeat (p : Nat) (s : State) : State :=
  let i := pipIngot p
  let bg := p % 384
  match nextStream (s.pip p) with
  | none => s
  | some t =>
    let b := bankGroup s i bg
    if bankBusy s i bg then s
    else
      let e := grantExt s i bg
      if (bankGroup e i bg).freeAt ≠ b.freeAt then e
      else if throttled s i b then s
      else takeBeat s p t

def execRowStreamBeat (p : Nat) (s : State) : Host.Outcome State Fault Refusal :=
  act .arith (when (fun s => pipOk p && pipPresents s p) (streamBeat p)) s

/-! ## Instructions (R84 to R89) -/

/-- The word at PC. -/
def pipWord (s : State) (p : Nat) : W32 := Tab.get s.imem 0#32 (s.pip p).pc

/-- The next word, at the end of a REP body its first word again while passes are left. -/
def pipNext (x : Pip) : Pip :=
  match x.rep with
  | some (f, n, c) =>
    if x.pc + 1 = f + n then
      (if c > 1 then { x with pc := f, rep := some (f, n, c - 1) } else { x with pc := (x.pc + 1) % 1024, rep := none })
    else { x with pc := (x.pc + 1) % 1024 }
  | none => { x with pc := (x.pc + 1) % 1024 }

/-- An instruction issues: one pc of the budget (R80, R96, R103). -/
def pipIssue (s : State) (p : Nat) : State :=
  (s.setPip p { s.pip p with budget := (s.pip p).budget - 1 }).countIngot (pipIngot p) 0x0B8 1

/-- Is the word's opcode one that R85 does not list? -/
def unlisted (w : W32) : Bool :=
  decide (pipOp w < 1) || pipOp w == 3 || [0x1D, 0x1E, 0x1F, 0x22, 0x23].contains (pipOp w) ||
  (decide (0x33 ≤ pipOp w) && pipOp w != 0x38)

/-- One instruction of opcode `op`: `stall` holds it; `f` is its effect after its issue. A word of no listed opcode
faults whichever row meets it (R96). -/
def pipRow (op p : Nat) (stall : State → W32 → Bool) (f : State → W32 → State) : State → Host.Outcome State Fault Refusal :=
  act .arith (when (fun s => pipOk p && (s.pip p).running && (pipOp (pipWord s p) == op || unlisted (pipWord s p)))
    (fun s =>
      let w := pipWord s p
      if (s.pip p).budget = 0 then pipFault s p St.piptime
      else if !pipWordOk w then pipFault s p St.pipill
      else if stall s w then s
      else f (pipIssue s p) w))

def noStall : State → W32 → Bool := fun _ _ => false

/-- An instruction that only changes the pip's registers and goes on. -/
def pipPure (op p : Nat) (f : Pip → W32 → Pip) : State → Host.Outcome State Fault Refusal :=
  pipRow op p noStall (fun s w => s.setPip p (pipNext (f (s.pip p) w)))

/-- gA ← f gB gC. -/
def pipAlu (op p : Nat) (f : W32 → W32 → W32) : State → Host.Outcome State Fault Refusal :=
  pipPure op p (fun x w => setG x (pipA w) (f (gReg x (pipB w)) (gReg x (pipC w))))

/-- gA ← f gB IMM. -/
def pipAluImm (op p : Nat) (f : W32 → W32 → W32) : State → Host.Outcome State Fault Refusal :=
  pipPure op p (fun x w => setG x (pipA w) (f (gReg x (pipB w)) w))

/-- vA ← f vB vC, lane by lane. -/
def pipVec (op p : Nat) (f : W32 → W32 → W32) : State → Host.Outcome State Fault Refusal :=
  pipPure op p (fun x w => setV x (pipA w) (List.zipWith f (vReg x (pipB w)) (vReg x (pipC w))))

/-- vA ← f vB gC, lane by lane. -/
def pipVecS (op p : Nat) (f : W32 → W32 → W32) : State → Host.Outcome State Fault Refusal :=
  pipPure op p (fun x w => setV x (pipA w) ((vReg x (pipB w)).map (fun v => f v (gReg x (pipC w)))))

/-- A branch: taken to the branch word's address plus sext(X) where the test of gA and gB holds. -/
def pipBranch (op p : Nat) (f : W32 → W32 → Bool) : State → Host.Outcome State Fault Refusal :=
  pipRow op p noStall (fun s w =>
    let x := s.pip p
    if f (gReg x (pipA w)) (gReg x (pipB w)) then
      s.setPip p { x with pc := (BitVec.ofNat 32 x.pc + pipSextX w).toNat % 1024 }
    else s.setPip p (pipNext x))

/-- An instruction with an address that R88 may refuse: E_PIPMEM, else its effect. -/
def pipMem (op p : Nat) (ok : Pip → W32 → Bool) (f : Pip → W32 → Pip) : State → Host.Outcome State Fault Refusal :=
  pipRow op p noStall (fun s w =>
    if ok (s.pip p) w then s.setPip p (pipNext (f (s.pip p) w)) else pipFault s p St.pipmem)

/-- gB + sext(IMM), and gB + sext(X), modulo 2^32: the manual states no wrap here (DESIGN CHOICE, log entry 86). -/
def addrImm (x : Pip) (w : W32) : Nat := (gReg x (pipB w) + pipSextImm w).toNat
def addrX (x : Pip) (w : W32) : Nat := (gReg x (pipB w) + pipSextX w).toNat

def shiftOf (v : W32) : Nat := v.toNat % 32
def immOf (w : W32) : W32 := BitVec.ofNat 32 (pipImm w)

def execPipNop (p : Nat) (s : State) : Host.Outcome State Fault Refusal := pipPure 0x01 p (fun x _ => x) s

/-- END (R95): success where every row was emitted once, else E_PIPCOUNT. -/
def pipDone (s : State) (p : Nat) : State :=
  let x := s.pip p
  if emittedCount x ≠ dNq x.cur.desc then pipFault s p St.pipcount
  else
    let s := (markEnded s p).setPip p (pipStop x)
    let s := drained (sendGroups (s.countIngot (pipIngot p) 0x0A8 1) (pipIngot p)) (pipIngot p)
    if LDesc.ISSUER.get x.cur.desc = ownChip s then releaseWeights s (LDesc.CLUSTER.get x.cur.desc) else s

def execPipEnd (p : Nat) (s : State) : Host.Outcome State Fault Refusal := pipRow 0x02 p noStall (fun s _ => pipDone s p) s

def execPipAdd (p : Nat) (s : State) : Host.Outcome State Fault Refusal := pipAlu 0x04 p (fun b c => b + c) s
def execPipSub (p : Nat) (s : State) : Host.Outcome State Fault Refusal := pipAlu 0x05 p (fun b c => b - c) s
def execPipAnd (p : Nat) (s : State) : Host.Outcome State Fault Refusal := pipAlu 0x06 p (fun b c => b &&& c) s
def execPipOr (p : Nat) (s : State) : Host.Outcome State Fault Refusal := pipAlu 0x07 p (fun b c => b ||| c) s
def execPipXor (p : Nat) (s : State) : Host.Outcome State Fault Refusal := pipAlu 0x08 p (fun b c => b ^^^ c) s
def execPipShl (p : Nat) (s : State) : Host.Outcome State Fault Refusal := pipAlu 0x09 p (fun b c => b <<< shiftOf c) s
def execPipShr (p : Nat) (s : State) : Host.Outcome State Fault Refusal := pipAlu 0x0A p (fun b c => b >>> shiftOf c) s
def execPipMul (p : Nat) (s : State) : Host.Outcome State Fault Refusal := pipAlu 0x0B p (fun b c => b * c) s
def execPipAddi (p : Nat) (s : State) : Host.Outcome State Fault Refusal := pipAluImm 0x0C p (fun b w => b + pipSextImm w) s
def execPipAndi (p : Nat) (s : State) : Host.Outcome State Fault Refusal := pipAluImm 0x0D p (fun b w => b &&& immOf w) s
def execPipShri (p : Nat) (s : State) : Host.Outcome State Fault Refusal := pipAluImm 0x0E p (fun b w => b >>> (pipImm w % 32)) s
def execPipShli (p : Nat) (s : State) : Host.Outcome State Fault Refusal := pipAluImm 0x0F p (fun b w => b <<< (pipImm w % 32)) s
def execPipLui (p : Nat) (s : State) : Host.Outcome State Fault Refusal := pipAluImm 0x10 p (fun _ w => immOf w <<< 14) s

def execPipLdw (p : Nat) (s : State) : Host.Outcome State Fault Refusal :=
  pipMem 0x11 p (fun x w => dmOk (addrImm x w) 4) (fun x w => setG x (pipA w) (dmWord x (addrImm x w))) s

def execPipStw (p : Nat) (s : State) : Host.Outcome State Fault Refusal :=
  pipMem 0x12 p (fun x w => dmStoreOk (addrImm x w) 4) (fun x w => dmStoreWords x (addrImm x w) [gReg x (pipA w)]) s

def execPipFadd (p : Nat) (s : State) : Host.Outcome State Fault Refusal := pipAlu 0x13 p f32Add s
def execPipFsub (p : Nat) (s : State) : Host.Outcome State Fault Refusal := pipAlu 0x14 p f32Sub s
def execPipFmul (p : Nat) (s : State) : Host.Outcome State Fault Refusal := pipAlu 0x15 p f32Mul s
def execPipFmax (p : Nat) (s : State) : Host.Outcome State Fault Refusal := pipAlu 0x16 p f32Max s
def execPipFexp2 (p : Nat) (s : State) : Host.Outcome State Fault Refusal := pipAlu 0x17 p (fun b _ => f32Exp2 b) s
def execPipBeq (p : Nat) (s : State) : Host.Outcome State Fault Refusal := pipBranch 0x18 p (fun a b => a == b) s
def execPipBne (p : Nat) (s : State) : Host.Outcome State Fault Refusal := pipBranch 0x19 p (fun a b => a != b) s
def execPipBlt (p : Nat) (s : State) : Host.Outcome State Fault Refusal := pipBranch 0x1A p (fun a b => a.slt b) s
def execPipBge (p : Nat) (s : State) : Host.Outcome State Fault Refusal := pipBranch 0x1B p (fun a b => !a.slt b) s

/-- REP: repeats the next words; a count of 0 skips them. -/
def pipRep (x : Pip) (w : W32) : Pip :=
  let n := pipX w % 256
  let c := if pipX w / 256 = 0 then (gReg x (pipA w)).toNat else pipX w / 256
  if c = 0 then { x with pc := (x.pc + 1 + n) % 1024 } else { x with pc := (x.pc + 1) % 1024, rep := some (x.pc + 1, n, c) }

def execPipRep (p : Nat) (s : State) : Host.Outcome State Fault Refusal :=
  pipRow 0x1C p noStall (fun s w => s.setPip p (pipRep (s.pip p) w)) s

/-- R88 for a row stream. -/
def streamOk (x : Pip) (w : W32) : Bool :=
  let off := (gReg x (pipA w)).toNat
  let n := (gReg x (pipB w)).toNat
  let stride := pipX w % 1024
  off % 32 == 0 && decide (1 ≤ n) && decide (n ≤ 512) && decide (1 ≤ stride) && decide (stride ≤ 512) &&
    decide (off + 32 * stride * (n - 1) + 32 ≤ 16384)

/-- Does an RSTR find the stream queue full (R80, R89)? -/
def rstrWaits (s : State) (p : Nat) : Bool := decide ((s.pip p).streams.length ≥ 2)

/-- RSTR: waits while the stream queue holds two (R80, R89, R90). -/
def execPipRstr (p : Nat) (s : State) : Host.Outcome State Fault Refusal :=
  pipRow 0x20 p (fun s _ => rstrWaits s p) (fun s w =>
    let x := s.pip p
    if streamOk x w then
      let t : Stream := ⟨(gReg x (pipA w)).toNat, (gReg x (pipB w)).toNat, pipX w % 1024, 0⟩
      s.setPip p (pipNext { x with streams := x.streams ++ [t] })
    else pipFault s p St.pipmem) s

/-- Page offset and DMEM address of an STB. -/
def stbKey (x : Pip) (p : Nat) (w : W32) : Nat :=
  pageKey (pipIngot p) (LDesc.PAGE.get x.cur.desc) + (gReg x (pipA w)).toNat

def stbOk (s : State) (x : Pip) (w : W32) : Bool :=
  LDesc.WRITE.on x.cur.desc && (Tab.get s.pipSlots ⟨0, 0, 0#256, false, 0, []⟩ (LDesc.PROG.get x.cur.desc)).writes &&
  decide ((gReg x (pipA w)).toNat + 32 ≤ 16384) && decide ((gReg x (pipB w)).toNat + 32 ≤ 8192)

def stbBytes (x : Pip) (w : W32) : List Byte := dmBytes x (gReg x (pipB w)).toNat 32

/-- Does an STB find the deferral buffer full (R89)? -/
def stbWaits (s : State) (p : Nat) (w : W32) : Bool :=
  stbOk s (s.pip p) w && !deferRoomOne s (stbKey (s.pip p) p w)

/-- The access of an STB, for external queue 4 (R61). -/
def stbEnt (x : Pip) (p : Nat) (w : W32) : ExtEnt :=
  ⟨⟨4, LDesc.SEAT.get x.cur.desc, stbKey x p w % ingotSize, 32, true, BitVec.ofNat 512 (ofBytes (stbBytes x w))⟩, .store, 1⟩

/-- STB (R92): the bytes enter queue 4, and at its head are deferred under the descriptor's own lock. -/
def execPipStb (p : Nat) (s : State) : Host.Outcome State Fault Refusal :=
  pipRow 0x21 p (fun s w => stbWaits s p w) (fun s w =>
    let x := s.pip p
    if stbOk s x w then
      bankServe (pushExt (s.setPip p (pipNext x)) (pipIngot p) (p % 384) (stbEnt x p w)) (pipIngot p) (p % 384)
    else pipFault s p St.pipmem) s

/-! ## Multiply-accumulate and scales (R82, R86) -/

def noBeat (p : Nat) : State → W32 → Bool := fun s _ => (s.pip p).fifo.isEmpty

def beatByte (bt : List Byte) (i : Nat) : Nat := (bt.getD i 0#8).toNat

/-- Element i of a beat in the format of the MAC. -/
def beatElem (fmt : Nat) (bt : List Byte) (i : Nat) : Num :=
  match fmt with
  | 0 => decE4m3 (beatByte bt i)
  | 1 => decE2m1 (beatByte bt (i / 2) / (if i % 2 = 0 then 1 else 16) % 16)
  | _ => decBf16 (beatByte bt (2 * i) + 256 * beatByte bt (2 * i + 1))

/-- lane ← lane + element × s; a scalar of zero adds nothing. -/
def macLane (sc : W32) (e : Num) (v : W32) : W32 := if (dec32 sc).isZero then v else numFma e (dec32 sc) v

/-- The MAC's lanes: vA, and vA + 1 for FP4. -/
def pipMacs (x : Pip) (w : W32) (sc : W32) (bt : List Byte) : Pip :=
  let fmt := pipX w / 4 % 8
  let a := pipA w
  let lane := fun (i e : Nat) => macLane sc (beatElem fmt bt e) ((vReg x a).getD i 0#32)
  match fmt with
  | 0 => setV x a ((List.range 32).map (fun i => lane i i))
  | 1 =>
    let hi := (List.range 32).map (fun i => macLane sc (beatElem 1 bt (32 + i)) ((vReg x (a + 1)).getD i 0#32))
    setV (setV x a ((List.range 32).map (fun i => lane i i))) (a + 1) hi
  | _ =>
    let base := if pipX w / 32 % 2 = 1 then 16 else 0
    setV x a ((List.range 32).map (fun i =>
      if base ≤ i ∧ i < base + 16 then lane i (i - base) else (vReg x a).getD i 0#32))

/-- KEEP leaves the beat in the FIFO. -/
def popBeat (x : Pip) (keep : Bool) : Pip := if keep then x else { x with fifo := x.fifo.drop 1 }

/-- MAC. Its scalar's address gB + 128 x X[13:10] is formed without wrap: the manual states no wrap here (DESIGN CHOICE, log
entry 86). -/
def execPipMac (p : Nat) (s : State) : Host.Outcome State Fault Refusal :=
  pipRow 0x24 p (noBeat p) (fun s w =>
    let x := s.pip p
    let a := (gReg x (pipB w)).toNat + 128 * (pipX w / 1024 % 16)
    if dmOk a 4 then
      let y := popBeat (pipMacs x w (dmWord x a) (x.fifo.headD [])) (pipX w / 2 % 2 == 1)
      s.setPip p (pipNext (if pipX w % 2 = 1 then setG y (pipB w) (gReg y (pipB w) + 4#32) else y))
    else pipFault s p St.pipmem) s

/-- A beat's bytes as scales (R82). -/
def beatScales (e4 : Bool) (bt : List Byte) : List W32 :=
  (List.range 32).map (fun i => enc32 (if e4 then decE4m3 (beatByte bt i) else decE8 (beatByte bt i)))

def execPipScx (p : Nat) (s : State) : Host.Outcome State Fault Refusal :=
  pipRow 0x25 p (noBeat p) (fun s w =>
    let x := s.pip p
    s.setPip p (pipNext (popBeat (setV x (pipA w) (beatScales (pipX w % 2 == 1) (x.fifo.headD []))) (pipX w / 2 % 2 == 1)))) s

/-! ## Vectors (R85, R87) -/

def execPipVzero (p : Nat) (s : State) : Host.Outcome State Fault Refusal := pipPure 0x26 p (fun x w => setV x (pipA w) []) s
def execPipVadd (p : Nat) (s : State) : Host.Outcome State Fault Refusal := pipVec 0x27 p f32Add s
def execPipVmul (p : Nat) (s : State) : Host.Outcome State Fault Refusal := pipVec 0x28 p f32Mul s

def execPipVfma (p : Nat) (s : State) : Host.Outcome State Fault Refusal :=
  pipPure 0x29 p (fun x w => setV x (pipA w) (List.zipWith (fun v bc => f32Fma bc.1 bc.2 v) (vReg x (pipA w))
    (List.zip (vReg x (pipB w)) (vReg x (pipC w))))) s

def execPipVmax (p : Nat) (s : State) : Host.Outcome State Fault Refusal := pipVec 0x2A p f32Max s
def execPipVadds (p : Nat) (s : State) : Host.Outcome State Fault Refusal := pipVecS 0x2B p f32Add s
def execPipVmuls (p : Nat) (s : State) : Host.Outcome State Fault Refusal := pipVecS 0x2C p f32Mul s

def execPipVexp2 (p : Nat) (s : State) : Host.Outcome State Fault Refusal :=
  pipPure 0x2D p (fun x w => setV x (pipA w) ((vReg x (pipB w)).map f32Exp2)) s

def execPipVrmax (p : Nat) (s : State) : Host.Outcome State Fault Refusal :=
  pipPure 0x2E p (fun x w => setG x (pipA w) ((vReg x (pipB w)).foldl f32Max 0xFF800000#32)) s

def execPipVrsum (p : Nat) (s : State) : Host.Outcome State Fault Refusal :=
  pipPure 0x2F p (fun x w => setG x (pipA w) (tree f32Add 5 (vReg x (pipB w)))) s

def execPipVmsk (p : Nat) (s : State) : Host.Outcome State Fault Refusal :=
  pipPure 0x30 p (fun x w => setV x (pipA w) ((List.range 32).map (fun i =>
    if (gReg x (pipC w)).getLsbD i then (vReg x (pipB w)).getD i 0#32 else 0xFF800000#32))) s

def execPipVld (p : Nat) (s : State) : Host.Outcome State Fault Refusal :=
  pipMem 0x31 p (fun x w => dmOk (addrX x w) 128) (fun x w => setV x (pipA w) (dmWords x (addrX x w) 32)) s

def execPipVst (p : Nat) (s : State) : Host.Outcome State Fault Refusal :=
  pipMem 0x32 p (fun x w => dmStoreOk (addrX x w) 128) (fun x w => dmStoreWords x (addrX x w) (vReg x (pipA w))) s

/-! ## EMIT (R96, R98, R99) -/

/-- Vectors of a record's payload that the descriptor requires. -/
def emitSize (d : BitVec 256) : Nat := if dKind d = 0 then LDesc.DIMQ.get d else LDesc.ROWB.get d

def emitHdr (d : BitVec 256) (row nv : Nat) (m l : W32) : BitVec 256 :=
  let attn := dKind d == 0
  setAll 0#256 [(LRec.PAGE_SEQ, LDesc.PAGE_SEQ.get d), (LRec.TAG, LDesc.TAG.get d), (LRec.SLOT, LDesc.SLOT.get d),
    (LRec.EMPTY, b2n (attn && m == 0xFF800000#32)), (LRec.KIND, LDesc.KIND.get d),
    (LRec.QROW, if attn then LDesc.QROW0.get d else LDesc.QROW0.get d + row),
    (LRec.HEAD, if attn then LDesc.HEAD0.get d + row else 0),
    (LRec.M, if attn then m.toNat else LDesc.ROW0.get d), (LRec.L, if attn then l.toNat else 32 * nv)]

/-- May the row be emitted: below NQ, not yet, of the right size? -/
def emitOk (x : Pip) (w : W32) : Bool :=
  let row := (gReg x (pipC w)).toNat
  decide (row < dNq x.cur.desc) && !x.emitted.getLsbD row && pipX w % 32 == emitSize x.cur.desc

/-- Does an EMIT find the previous record still leaving, at 128 bytes a pc (R89, R99)? -/
def emitWaits (s : State) (p : Nat) : Bool := decide (pcNow s < (s.pip p).leaveTo)

/-- The pc count at which a record of nv vectors that is emitted now has left. -/
def emitEnd (s : State) (nv : Nat) : Nat := pcNow s + 1 + cdiv (32 + 128 * nv) 128

def execPipEmit (p : Nat) (s : State) : Host.Outcome State Fault Refusal :=
  pipRow 0x38 p (fun s _ => emitWaits s p) (fun s w =>
    let x := s.pip p
    let d := x.cur.desc
    let row := (gReg x (pipC w)).toNat
    let nv := pipX w % 32
    if emitOk x w then
      let r : Rec := ⟨emitHdr d row nv (gReg x (pipA w)) (gReg x (pipB w)), dmWords x 0x1800 (32 * nv)⟩
      let s := s.setPip p (pipNext { x with emitted := x.emitted ||| 1#16 <<< row, leaveTo := emitEnd s nv })
      s.updIngot (pipIngot p) (fun g => { g with recs := g.recs ++ [(p % 384, LDesc.ISSUER.get d, LDesc.CLUSTER.get d, r)] })
    else pipFault s p St.pipcount) s

/-- ISSUE_BUDGET_EXHAUSTED (R96): 65,536 pc of issues and stalls other than for a beat have passed. -/
def execIssueBudgetExhausted (p : Nat) (s : State) : Host.Outcome State Fault Refusal :=
  act .arith (when (fun s => pipOk p && (s.pip p).running && (s.pip p).budget == 0) (fun s => pipFault s p St.piptime)) s

/-! ## What a pc costs a pip (R64, R89, R96) -/

/-- Does a pip stall through the pc for another reason than a beat grant: with its stream queue or the deferral buffer full, behind a
record that is leaving, or for a beat that no stream is to bring? -/
def stallsAlone (s : State) (p : Nat) : Bool :=
  match pipOp (pipWord s p) with
  | 0x20 => rstrWaits s p
  | 0x21 => stbWaits s p (pipWord s p)
  | 0x24 => (s.pip p).fifo.isEmpty && (nextStream (s.pip p)).isNone
  | 0x25 => (s.pip p).fifo.isEmpty && (nextStream (s.pip p)).isNone
  | 0x38 => emitWaits s p
  | _ => false

/-- A pip that stalled through the pc for another reason than a beat grant has that pc less in its budget. -/
def spendStall (s : State) (p : Nat) : State :=
  let x := s.pip p
  if x.running && pipWordOk (pipWord s p) && stallsAlone s p then s.setPip p { x with budget := x.budget - 1 } else s

/-- The counter of a pc that a presenting pip lost, if it lost pc `pc` (R64, R79): to refresh, to an external grant, or to
the governor alone. -/
def lostTo (s : State) (p pc : Nat) : Option Nat :=
  let b := bankGroup s (pipIngot p) (p % 384)
  if !pipPresents s p then none
  else if decide (pc < b.refreshTo) && decide (b.refreshTo ≤ pc + 54) then some 0x048
  else if b.ext.any (fun g => decide (g.1 ≤ pc) && decide (pc < g.1 + g.2)) then some 0x050
  else if pc < b.freeAt then none
  else if b.duty = (pc / 1024, b.duty.2) && decide (LGovSt.DUTY.get (s.ingot (pipIngot p)).gov ≤ b.duty.2) then some 0x058
  else if LGovSt.DUTY.get (s.ingot (pipIngot p)).gov = 0 then some 0x058 else none

/-- The end of a pc for every pip. -/
def pipsPc (pc : Nat) (s : State) : State :=
  (s.pips.map (·.1)).foldl (fun s p =>
    let s := match lostTo s p pc with
      | some c => s.countIngot (pipIngot p) c 1
      | none => s
    spendStall s p) s

end Sys2Proof.Machine
end

