-- ==== Sys2Proof/Machine/Seats.lean ====
section
/-! DEFINITION. STAKE, SEAT_SET and SEAT_RESET (11_scheduling.md R294, R295; 16_seats.md). -/

namespace Sys2Proof.Machine

/-! ## STAKE (R294, R295) -/

def stakeBurst (c : Cmd) : Nat := LStakeCmd.BURST.get c.body

def stakeStatus (s : State) (c : Cmd) : Nat :=
  let w := c.body
  let op := LStakeCmd.OP.get w
  let n := LStakeCmd.STAKE.get w
  let on := LStake.ON.on (s.stake n)
  let form := rsvZero LStakeCmd.rsv w && !bodyAbove c 256 && decide (1 ≤ op) && decide (op ≤ 3)
  let zero := fun (l : List Fld) => l.all (fun f => f.get w == 0)
  firstFail [
    (c.seat != 0, St.denied),
    (!form || ((op == 1 || op == 2) && stakeBurst c == 0) || (op == 2 && !zero [LStakeCmd.SEAT]) ||
      (op == 3 && !zero [LStakeCmd.SEAT, LStakeCmd.PF_WT, LStakeCmd.RATE, LStakeCmd.BURST]), St.range),
    (op == 1 && on, St.busy),
    ((op == 2 || op == 3) && !on, St.noobj),
    (op == 3 && (slotsWhere s (fun m => rState s m != RS.free && rState s m != RS.done &&
      LEnt.STAKE.get (s.req m) == n)).length != 0, St.busy)]

/-- The terms that ASSIGN and UPDATE write. -/
def stakeTerms (w : BitVec 512) (c : Cmd) : BitVec 512 :=
  setAll w [(LStake.PF_WT, LStakeCmd.PF_WT.get c.body), (LStake.RATE, LStakeCmd.RATE.get c.body), (LStake.BURST, stakeBurst c)]

/-- A stake as ASSIGN leaves it. -/
def stakeAssigned (c : Cmd) (t : Nat) : BitVec 512 :=
  LStake.T_REFILL.set (LStake.LEVEL.setInt (setAll (stakeTerms 0#512 c) [(LStake.ON, 1),
    (LStake.SEAT, LStakeCmd.SEAT.get c.body)]) (stakeBurst c * 65536 : Nat)) t

/-- A stake as UPDATE leaves it: refilled under the old terms, then capped and floored to the new BURST. -/
def stakeUpdated (w : BitVec 512) (c : Cmd) (t : Nat) : BitVec 512 :=
  let x := stakeTerms (refillRec w t) c
  let cap : Int := (stakeBurst c * 65536 : Nat)
  LStake.LEVEL.setInt x (max (-cap) (min cap (LStake.LEVEL.getInt x)))

def stakeHist (n : Nat) : Nat := 2 ^ 20 + 128 * n

/-- STAKE. -/
def opStake : CmdOp := fun c s =>
  let st := stakeStatus s c
  let n := LStakeCmd.STAKE.get c.body
  if st ≠ St.ok then (s, Rsp.of st)
  else
    let s := match LStakeCmd.OP.get c.body with
      | 1 => { (s.setStake n (stakeAssigned c (now s))) with
                hist := s.hist.filter (fun e => !(decide (stakeHist n ≤ e.1) && decide (e.1 < stakeHist n + 128))) }
      | 2 => s.setStake n (stakeUpdated (s.stake n) c (now s))
      | _ => s.setStake n 0#512
    (closeAll s (loadedBinds s), Rsp.of St.ok)

/-! ## SEAT_SET (R417 to R419) -/

/-- 64-bit word i of SEAT_SET's data. -/
def seatData (c : Cmd) (i : Nat) : W64 := c.body.extractLsb' (64 + 64 * i) 64
def newWindow (c : Cmd) : BitVec 128 := c.body.extractLsb' 64 128
def newQuota (c : Cmd) (i : Nat) : Nat := (seatData c i).toNat

/-- The tier's range of R415: first address and end, as windows are matched. -/
def tierRange : Nat → Nat × Nat
  | 0 => (sramBase, sramBase + 0x80000000)
  | 1 => (hmBase, sramBase)
  | 2 => (0, hmBase)
  | 3 => (0, 2 ^ 52)
  | _ => (2 ^ 52, 2 ^ 52 + 2 ^ 44)

def windowInRange (tier : Nat) (w : BitVec 128) : Bool :=
  !LWin.VALID.on w ||
  (LWin.TILES.get w != 0 && decide ((tierRange tier).1 ≤ LWin.BASE.get w * 16384) &&
    decide ((LWin.BASE.get w + LWin.TILES.get w) * 16384 ≤ (tierRange tier).2))

/-- The upper end of each quota's range (R413). -/
def quotaMax (s : State) : Nat → Nat
  | 0 => 16384
  | 1 => s.bank.riserSlots
  | 2 => tierTiles s 1
  | 3 => 50331648
  | 4 => 2 ^ 40 - 1
  | _ => 1073741824

/-- The check of R418, step 1. -/
def seatSetForm (s : State) (c : Cmd) : Bool :=
  let w := c.body
  let op := LSeatSet.OP.get w
  let n := LSeatSet.SEAT.get w
  let cfg := seatData c 0
  rsvZero LSeatSet.rsv w && !bodyAbove c 448 && decide (1 ≤ op) && decide (op ≤ 6) &&
  (op == 1 || (LSeatSet.TIER.get w == 0 && LSeatSet.INDEX.get w == 0)) &&
  (op == 4 || op == 5 || LSeatSet.BINDING.get w == 0) &&
  match op with
  | 1 => decide (LSeatSet.TIER.get w ≤ 4) && !bodyAbove c 192 && rsvZero LWin.rsv (newWindow c) &&
      windowInRange (LSeatSet.TIER.get w) (newWindow c)
  | 2 => (List.range 6).all (fun i => decide (newQuota c i ≤ quotaMax s i))
  | 3 => !bodyAbove c 128 && rsvZero LSeatCfg.rsv cfg && decide (LSeatCfg.SHARE.get cfg ≤ 256) &&
      (LSeatCfg.EVENT_VEC.get cfg == 0 || n == 0) && (LSeatCfg.ENABLED.on cfg || n != 0) && !LSeatCfg.RESETTING.on cfg
  | 6 => n == 0 && !bodyAbove c 128 && cfg.toNat % 16384 == 0 && decide (16384 ≤ cfg.toNat) && decide (cfg.toNat ≤ 393216)
  | _ => !bodyAbove c 64

/-- The address of a memory key. -/
def keyAddr (s : State) (k : Nat) : Nat := if k < 2 ^ 40 then devAddr s k else if k < 2 ^ 53 then k else k - 2 ^ 53

/-- The ranges that a window change must leave covered: address, length (R418). -/
def keptRanges (s : State) (n : Nat) : List (Nat × Nat) :=
  ((objList s).filter (fun o => LObj.SEAT.get (s.obj o) == n && inUse s o)).flatMap (fun o =>
    (objRanges s o).map (fun r => (keyAddr s r.1, r.2 * 16384))) ++
  (slotsWhere s (fun m => rState s m != RS.free && rState s m != RS.done && rSeat s m == n)).flatMap (fun m =>
    let e := s.req m
    [(LEnt.PTBASE.get e, 64 + 8 * LEnt.COLS.get e), (LEnt.PBASE.get e, 4 * LEnt.PCAP.get e), (LEnt.RING.get e, 1152),
      (LEnt.SAMPLE.get e, 64)] ++ (if LEnt.MASK_ON.on e then [(LEnt.SMASK.get e, 64)] else []))

def setWindow (s : State) (c : Cmd) : State :=
  s.updSeat (LSeatSet.SEAT.get c.body) (fun x => { x with
    win := Tab.set x.win 0#128 (8 * LSeatSet.TIER.get c.body + LSeatSet.INDEX.get c.body) (newWindow c) })

/-- Bindings in use by a seat's entries, objects, attachments or stakes (R418, step 4). -/
def seatBusy (s : State) (n : Nat) : Bool :=
  (slotsWhere s (fun m => rState s m != RS.free && rSeat s m == n)).length != 0 ||
  (objList s).any (fun o => LObj.SEAT.get (s.obj o) == n) || LSeatBnd.ATTACHED.get (s.seat n).bnd != 0 ||
  s.stakes.any (fun e => LStake.ON.on e.2 && LStake.SEAT.get e.2 == n)

/-- Do a seat's T2 windows cover a binding's pools, to be written, and its weight set (R418, step 5)? -/
def coversBinding (s : State) (n b : Nat) : Bool :=
  let r := (s.bind b).brec
  let w := s.obj (LBindRec.WOBJ.get r)
  (List.range (poolCount r)).all (fun p => inWindows s n true (poolBase r p) (poolRuns r p * runBytes r)) &&
  inWindows s n false (LObj.WORK.get w) (LObj.TILES.get w * 16384)

/-- The sum of a quota over the seats with seat n's value replaced. -/
def quotaWith (s : State) (k n v : Nat) : Nat := quotaSum s k - Tab.get (s.seat n).quota 0 k + v

def seatSetStatus (s : State) (c : Cmd) : Nat :=
  let w := c.body
  let op := LSeatSet.OP.get w
  let n := LSeatSet.SEAT.get w
  let b := LSeatSet.BINDING.get w
  let slots := (seatData c 0).toNat
  firstFail [
    (c.seat != 0, St.denied),
    (!seatSetForm s c, St.range),
    ((op == 4 || op == 5) && !(s.bind b).loaded, St.noobj),
    (op == 5 && (s.bind b).seat == n, St.state),
    ((op == 6 && !(loadedBinds s).isEmpty) || LSeatCfg.RESETTING.on (s.seat n).cfg ||
      (op == 3 && LSeatCfg.ENABLED.on (s.seat n).cfg && !LSeatCfg.ENABLED.on (seatData c 0) && seatBusy s n) ||
      (op == 1 && (keptRanges s n).any (fun r => !inWindows (setWindow s c) n false r.1 r.2)) ||
      (op == 5 && (bindSlots s b).any (fun m => rSeat s m == n && (rActive s m || rState s m == RS.ending))), St.busy),
    (op == 4 && !coversBinding s n b, St.window),
    ((op == 2 && (decide (quotaWith s 2 n (newQuota c 2) > tierTiles s 1) ||
        decide (quotaWith s 3 n (newQuota c 3) > 50331648) || decide (quotaWith s 1 n (newQuota c 1) > s.bank.riserSlots))) ||
      (op == 6 && (decide (slots < quotaSum s 1) ||
        decide (4 * (0x80000000 - (slots / 4 * 16384 + 0x3000000)) / 16384 < quotaSum s 2))), St.quota)]

/-- SEAT_SET; an IDLE binding closes where the change made its first request schedulable (R40). Where RISER_SLOTS moves the prefix
index (R130), the area holds at its new place what memory holds there (DESIGN CHOICE, log entry 111). -/
def opSeatSet : CmdOp := fun c s =>
  let st := seatSetStatus s c
  let n := LSeatSet.SEAT.get c.body
  let b := LSeatSet.BINDING.get c.body
  if st ≠ St.ok then (s, Rsp.of st)
  else
    let s := match LSeatSet.OP.get c.body with
      | 1 => setWindow s c
      | 2 => s.updSeat n (fun x => { x with
          quota := (List.range 6).foldl (fun t i => Tab.set t 0 i (newQuota c i)) x.quota })
      | 3 => s.updSeat n (fun x => { x with cfg := seatData c 0 })
      | 4 => s.updSeat n (fun x => { x with bnd := LSeatBnd.ATTACHED.set x.bnd (LSeatBnd.ATTACHED.get x.bnd ||| 2 ^ b) })
      | 5 => ((bindSlots s b).filter (fun m => rSeat s m == n && rState s m == RS.done)).foldl freeEntry
          (s.updSeat n (fun x => { x with
            bnd := LSeatBnd.ATTACHED.set x.bnd (LSeatBnd.ATTACHED.get x.bnd &&& (65535 - 2 ^ b)) }))
      | _ => { s with bank := { s.bank with riserSlots := (seatData c 0).toNat } }
    (closeAll s (loadedBinds s), Rsp.of St.ok)

/-! ## SEAT_RESET (R421 to R425) -/

def resetTarget (c : Cmd) : Nat := (c.body.extractLsb' 0 6).toNat

def seatResetStatus (s : State) (c : Cmd) : Nat :=
  firstFail [(c.seat != 0 && c.seat != resetTarget c, St.denied), (bodyAbove c 6, St.range),
    (standby s (resetTarget c), St.state),
    (LSeatCfg.RESETTING.on (s.seat (resetTarget c)).cfg, St.busy)]

/-- Ends a seat's active requests, at the points R264 gives (R422). -/
def resetRequests (s : State) (n : Nat) : State :=
  (slotsWhere s (fun m => rActive s m && rSeat s m == n)).foldl (fun s m =>
    if inFlight s (rBind s m) then s.updRx m (fun x => { x with cancelDue := 2 }) else endNow s m 3 2) s

/-- SEAT_RESET. -/
def opSeatReset : CmdOp := fun c s =>
  let st := seatResetStatus s c
  let n := resetTarget c
  if st ≠ St.ok then (s, Rsp.of st)
  else
    let s := (s.updSeat n (fun x => { x with cfg := LSeatCfg.RESETTING.set x.cfg 1 })).countSeat n 0x300 1
    let s := resetRequests s n
    (closeAll s (loadedBinds s), Rsp.of St.ok)

/-- Has a seat reset ended the request: CANCELLED with DETAIL 2 (R277, R422)? -/
def endedByReset (s : State) (m : Nat) : Bool :=
  rState s m == RS.ending && LEnt.END.get (s.req m) == 3 && LEnt.DETAIL.get (s.req m) == 2

/-- May RESETTING clear: no request of the seat active, and every release that the reset started complete or deferred
(R423)? -/
def resetDone (s : State) (n : Nat) : Bool :=
  LSeatCfg.RESETTING.on (s.seat n).cfg &&
  (slotsWhere s (fun m => rSeat s m == n && (rActive s m || (endedByReset s m && !releasesOver s m)))).isEmpty

/-! ## The rows -/

def execStakeAssign (c : Cmd) (s : State) : Host.Outcome State Fault Refusal := cmdRow 0x0020 (bodyOp 1) opStake c s
def execStakeUpdate (c : Cmd) (s : State) : Host.Outcome State Fault Refusal := cmdRow 0x0020 (bodyOp 2) opStake c s
def execStakeRelease (c : Cmd) (s : State) : Host.Outcome State Fault Refusal := cmdRow 0x0020 (bodyOp 3) opStake c s
def execSeatSetWindow (c : Cmd) (s : State) : Host.Outcome State Fault Refusal := cmdRow 0x0021 (bodyOp 1) opSeatSet c s
def execSeatSetQuota (c : Cmd) (s : State) : Host.Outcome State Fault Refusal := cmdRow 0x0021 (bodyOp 2) opSeatSet c s
def execSeatSetConfig (c : Cmd) (s : State) : Host.Outcome State Fault Refusal := cmdRow 0x0021 (bodyOp 3) opSeatSet c s
def execSeatSetAttach (c : Cmd) (s : State) : Host.Outcome State Fault Refusal := cmdRow 0x0021 (bodyOp 4) opSeatSet c s
def execSeatSetDetach (c : Cmd) (s : State) : Host.Outcome State Fault Refusal := cmdRow 0x0021 (bodyOp 5) opSeatSet c s
def execSeatSetRisers (c : Cmd) (s : State) : Host.Outcome State Fault Refusal := cmdRow 0x0021 (bodyOp 6) opSeatSet c s
def execSeatReset (c : Cmd) (s : State) : Host.Outcome State Fault Refusal := cmdRow 0x0022 (fun _ => true) opSeatReset c s

/-- SEAT_RESET_COMPLETE (R423). -/
def execSeatResetComplete (seat : Nat) (s : State) : Host.Outcome State Fault Refusal :=
  act .banker (when (fun s => resetDone s seat)
    (fun s => s.updSeat seat (fun x => { x with cfg := LSeatCfg.RESETTING.set x.cfg 0 }))) s

end Sys2Proof.Machine
end

