-- ==== Sys2Proof/Machine/Service.lean ====
section
/-! DEFINITION. The banker's mailbox service: grants, long commands, held commands (15_mailboxes.md R391 to R394). -/

namespace Sys2Proof.Machine

/-- The command catalogue (R398). -/
def opOf (opcode : Nat) : Option CmdOp :=
  match opcode with
  | 0x0001 => some opAdmit
  | 0x0002 => some opFeed
  | 0x0003 => some opCancel
  | 0x0004 => some opPause
  | 0x0005 => some opResume
  | 0x0010 => some opPlace
  | 0x0011 => some opBind
  | 0x0012 => some opUnbind
  | 0x0013 => some opMould
  | 0x0020 => some opStake
  | 0x0021 => some opSeatSet
  | 0x0022 => some opSeatReset
  | 0x0030 => some opPlan
  | 0x0031 => some opSlice
  | 0x0032 => some opMirror
  | 0x0040 => some opTally
  | 0x0041 => some opIdent
  | 0x0042 => some opAttest
  | 0x0043 => some opProbe
  | _ => none

/-- An OPCODE outside the catalogue: nothing else is checked and nothing changes (R391). -/
def applyUnknown (c : Cmd) (s : State) : State :=
  let s := applyTime s
  respond { s with bank := { s.bank with commands := s.bank.commands + 1 } } c false 0 (Rsp.of St.opcode)

/-- Applies or holds a mailbox's command, whatever it is. -/
def serve (c : Cmd) (s : State) : State :=
  match opOf (cmdOpcode c) with
  | some op => applyOrHold op c s
  | none => applyUnknown c s

/-- One grant of the service. -/
def mailboxGrant (s : State) : State :=
  match nextGrant s with
  | none => s
  | some m =>
    let t := grantMb s m
    if isLong (cmdOf s m) then { t with bank := { t.bank with prep := t.bank.prep ++ [m] } } else serve (cmdOf s m) t

/-- Is the mailbox's long command on one of the three preparation cores (R393)? -/
def onCore (s : State) (m : Nat) : Bool := (s.bank.prep.take 3).contains m

/-- A prepared long command is applied, or held. -/
def longPrepared (m : Nat) (s : State) : State :=
  serve (cmdOf s m) { s with bank := { s.bank with prep := s.bank.prep.erase m } }

def heldApply (s : State) : State :=
  match nextHeld s with
  | none => s
  | some m =>
    let s := { s with bank := { s.bank with held := s.bank.held.erase m } }
    match opOf (cmdOpcode (cmdOf s m)) with
    | some op => applyCmd op (cmdOf s m) true s
    | none => s

/-! ## The rows -/

/-- MAILBOX_GRANT (R392, R393). -/
def execMailboxGrant (s : State) : Host.Outcome State Fault Refusal := act .banker mailboxGrant s

/-- LONG_COMMAND_PREPARED (R393). -/
def execLongCommandPrepared (seat mbox : Nat) (s : State) : Host.Outcome State Fault Refusal :=
  act .banker (when (fun s => decide (seat < 64) && decide (mbox < 4) && onCore s (4 * seat + mbox) && !heldReady s)
    (longPrepared (4 * seat + mbox))) s

/-- HELD_COMMAND_APPLY (R394). -/
def execHeldCommandApply (s : State) : Host.Outcome State Fault Refusal := act .banker heldApply s

end Sys2Proof.Machine
end

