-- ==== Sys2Proof/Machine/Dispatch.lean ====
section
/-! DEFINITION. One arm for each command of the table: its meaning. -/

namespace Sys2Proof.Machine

/-- The effect of a command on everything but the queue. -/
def exec (i : Instr) (s : State) : Host.Outcome State Fault Refusal :=
  match i with
  | .admitReq c => Sys2Proof.Machine.execAdmitReq c s
  | .feed c => Sys2Proof.Machine.execFeed c s
  | .cancel c => Sys2Proof.Machine.execCancel c s
  | .pause c => Sys2Proof.Machine.execPause c s
  | .resume c => Sys2Proof.Machine.execResume c s
  | .placeCreate c => Sys2Proof.Machine.execPlaceCreate c s
  | .placeMove c => Sys2Proof.Machine.execPlaceMove c s
  | .placeFlush c => Sys2Proof.Machine.execPlaceFlush c s
  | .placeDrop c => Sys2Proof.Machine.execPlaceDrop c s
  | .placeDestroy c => Sys2Proof.Machine.execPlaceDestroy c s
  | .bindLoad c => Sys2Proof.Machine.execBindLoad c s
  | .variantAdd c => Sys2Proof.Machine.execVariantAdd c s
  | .variantRemove c => Sys2Proof.Machine.execVariantRemove c s
  | .bindClear c => Sys2Proof.Machine.execBindClear c s
  | .unbind c => Sys2Proof.Machine.execUnbind c s
  | .mould c => Sys2Proof.Machine.execMould c s
  | .stakeAssign c => Sys2Proof.Machine.execStakeAssign c s
  | .stakeUpdate c => Sys2Proof.Machine.execStakeUpdate c s
  | .stakeRelease c => Sys2Proof.Machine.execStakeRelease c s
  | .seatSetWindow c => Sys2Proof.Machine.execSeatSetWindow c s
  | .seatSetQuota c => Sys2Proof.Machine.execSeatSetQuota c s
  | .seatSetConfig c => Sys2Proof.Machine.execSeatSetConfig c s
  | .seatSetAttach c => Sys2Proof.Machine.execSeatSetAttach c s
  | .seatSetDetach c => Sys2Proof.Machine.execSeatSetDetach c s
  | .seatSetRisers c => Sys2Proof.Machine.execSeatSetRisers c s
  | .seatReset c => Sys2Proof.Machine.execSeatReset c s
  | .plan c => Sys2Proof.Machine.execPlan c s
  | .sliceForm c => Sys2Proof.Machine.execSliceForm c s
  | .sliceDissolve c => Sys2Proof.Machine.execSliceDissolve c s
  | .sliceHold c => Sys2Proof.Machine.execSliceHold c s
  | .sliceContinue c => Sys2Proof.Machine.execSliceContinue c s
  | .sliceReset c => Sys2Proof.Machine.execSliceReset c s
  | .sliceCut c => Sys2Proof.Machine.execSliceCut c s
  | .sliceUncut c => Sys2Proof.Machine.execSliceUncut c s
  | .mirrorPair c => Sys2Proof.Machine.execMirrorPair c s
  | .mirrorUnpair c => Sys2Proof.Machine.execMirrorUnpair c s
  | .mirrorTakeover c => Sys2Proof.Machine.execMirrorTakeover c s
  | .tally c => Sys2Proof.Machine.execTally c s
  | .ident c => Sys2Proof.Machine.execIdent c s
  | .attest c => Sys2Proof.Machine.execAttest c s
  | .probeChallenge c => Sys2Proof.Machine.execProbeChallenge c s
  | .probeUnlock c => Sys2Proof.Machine.execProbeUnlock c s
  | .probeSelect c => Sys2Proof.Machine.execProbeSelect c s
  | .probeOff c => Sys2Proof.Machine.execProbeOff c s
  | .mbCtrlOwnSet behalf seat mbox => Sys2Proof.Machine.execMbCtrlOwnSet behalf seat mbox s
  | .mailboxGrant => Sys2Proof.Machine.execMailboxGrant s
  | .longCommandPrepared seat mbox => Sys2Proof.Machine.execLongCommandPrepared seat mbox s
  | .heldCommandApply => Sys2Proof.Machine.execHeldCommandApply s
  | .govLimitWrite behalf ingot value => Sys2Proof.Machine.execGovLimitWrite behalf ingot value s
  | .tierCfgWrite behalf value => Sys2Proof.Machine.execTierCfgWrite behalf value s
  | .timeCfgWrite behalf value => Sys2Proof.Machine.execTimeCfgWrite behalf value s
  | .controlSpaceWrite behalf off len data => Sys2Proof.Machine.execControlSpaceWrite behalf off len data s
  | .avkinAccess behalf acc => Sys2Proof.Machine.execAvkinAccess behalf acc s
  | .fabricLoad port p => Sys2Proof.Machine.execFabricLoad port p s
  | .fabricStore port p => Sys2Proof.Machine.execFabricStore port p s
  | .fabricAtomic port p => Sys2Proof.Machine.execFabricAtomic port p s
  | .bulkGet port p => Sys2Proof.Machine.execBulkGet port p s
  | .bulkData port p => Sys2Proof.Machine.execBulkData port p s
  | .fabricAck port p => Sys2Proof.Machine.execFabricAck port p s
  | .fabricResponse port p => Sys2Proof.Machine.execFabricResponse port p s
  | .fence unit => Sys2Proof.Machine.execFence unit s
  | .packetForward port p => Sys2Proof.Machine.execPacketForward port p s
  | .linkTrained port => Sys2Proof.Machine.execLinkTrained port s
  | .linkTrainingLost port => Sys2Proof.Machine.execLinkTrainingLost port s
  | .linkid port rec => Sys2Proof.Machine.execLinkid port rec s
  | .linkPacketError port seq crcOk => Sys2Proof.Machine.execLinkPacketError port seq crcOk s
  | .torusTrainingAttempt port ok => Sys2Proof.Machine.execTorusTrainingAttempt port ok s
  | .channelBurstCrcError ingot channel data crc => Sys2Proof.Machine.execChannelBurstCrcError ingot channel data crc s
  | .laneTest => Sys2Proof.Machine.execLaneTest s
  | .spareRetrainDone ingot channel ok => Sys2Proof.Machine.execSpareRetrainDone ingot channel ok s
  | .laneHandover ingot channel => Sys2Proof.Machine.execLaneHandover ingot channel s
  | .linkLaneRetrain link ok => Sys2Proof.Machine.execLinkLaneRetrain link ok s
  | .linkForced link ok => Sys2Proof.Machine.execLinkForced link ok s
  | .timeSyncExchange t1 t2 t3 t4 parentHops => Sys2Proof.Machine.execTimeSyncExchange t1 t2 t3 t4 parentHops s
  | .refresh ingot bg => Sys2Proof.Machine.execRefresh ingot bg s
  | .hmScrubRead base => Sys2Proof.Machine.execHmScrubRead base s
  | .govSensorSample ingot readings => Sys2Proof.Machine.execGovSensorSample ingot readings s
  | .govIntervalEnd ingot microwatt => Sys2Proof.Machine.execGovIntervalEnd ingot microwatt s
  | .externalAccess ingot bg arrivals => Sys2Proof.Machine.execExternalAccess ingot bg arrivals s
  | .deferredWriteDrain ingot page => Sys2Proof.Machine.execDeferredWriteDrain ingot page s
  | .lockExpiry ingot page => Sys2Proof.Machine.execLockExpiry ingot page s
  | .desc ingot via hdr d => Sys2Proof.Machine.execDesc ingot via hdr d s
  | .descMasked ingot via hdr d mask => Sys2Proof.Machine.execDescMasked ingot via hdr d mask s
  | .query ingot via hdr words => Sys2Proof.Machine.execQuery ingot via hdr words s
  | .close ingot via hdr => Sys2Proof.Machine.execClose ingot via hdr s
  | .dispatchRelease ingot via hdr => Sys2Proof.Machine.execDispatchRelease ingot via hdr s
  | .descriptorStart p => Sys2Proof.Machine.execDescriptorStart p s
  | .rowStreamBeat p => Sys2Proof.Machine.execRowStreamBeat p s
  | .pipNop p => Sys2Proof.Machine.execPipNop p s
  | .pipEnd p => Sys2Proof.Machine.execPipEnd p s
  | .pipAdd p => Sys2Proof.Machine.execPipAdd p s
  | .pipSub p => Sys2Proof.Machine.execPipSub p s
  | .pipAnd p => Sys2Proof.Machine.execPipAnd p s
  | .pipOr p => Sys2Proof.Machine.execPipOr p s
  | .pipXor p => Sys2Proof.Machine.execPipXor p s
  | .pipShl p => Sys2Proof.Machine.execPipShl p s
  | .pipShr p => Sys2Proof.Machine.execPipShr p s
  | .pipMul p => Sys2Proof.Machine.execPipMul p s
  | .pipAddi p => Sys2Proof.Machine.execPipAddi p s
  | .pipAndi p => Sys2Proof.Machine.execPipAndi p s
  | .pipShri p => Sys2Proof.Machine.execPipShri p s
  | .pipShli p => Sys2Proof.Machine.execPipShli p s
  | .pipLui p => Sys2Proof.Machine.execPipLui p s
  | .pipLdw p => Sys2Proof.Machine.execPipLdw p s
  | .pipStw p => Sys2Proof.Machine.execPipStw p s
  | .pipFadd p => Sys2Proof.Machine.execPipFadd p s
  | .pipFsub p => Sys2Proof.Machine.execPipFsub p s
  | .pipFmul p => Sys2Proof.Machine.execPipFmul p s
  | .pipFmax p => Sys2Proof.Machine.execPipFmax p s
  | .pipFexp2 p => Sys2Proof.Machine.execPipFexp2 p s
  | .pipBeq p => Sys2Proof.Machine.execPipBeq p s
  | .pipBne p => Sys2Proof.Machine.execPipBne p s
  | .pipBlt p => Sys2Proof.Machine.execPipBlt p s
  | .pipBge p => Sys2Proof.Machine.execPipBge p s
  | .pipRep p => Sys2Proof.Machine.execPipRep p s
  | .pipRstr p => Sys2Proof.Machine.execPipRstr p s
  | .pipStb p => Sys2Proof.Machine.execPipStb p s
  | .pipMac p => Sys2Proof.Machine.execPipMac p s
  | .pipScx p => Sys2Proof.Machine.execPipScx p s
  | .pipVzero p => Sys2Proof.Machine.execPipVzero p s
  | .pipVadd p => Sys2Proof.Machine.execPipVadd p s
  | .pipVmul p => Sys2Proof.Machine.execPipVmul p s
  | .pipVfma p => Sys2Proof.Machine.execPipVfma p s
  | .pipVmax p => Sys2Proof.Machine.execPipVmax p s
  | .pipVadds p => Sys2Proof.Machine.execPipVadds p s
  | .pipVmuls p => Sys2Proof.Machine.execPipVmuls p s
  | .pipVexp2 p => Sys2Proof.Machine.execPipVexp2 p s
  | .pipVrmax p => Sys2Proof.Machine.execPipVrmax p s
  | .pipVrsum p => Sys2Proof.Machine.execPipVrsum p s
  | .pipVmsk p => Sys2Proof.Machine.execPipVmsk p s
  | .pipVld p => Sys2Proof.Machine.execPipVld p s
  | .pipVst p => Sys2Proof.Machine.execPipVst p s
  | .pipEmit p => Sys2Proof.Machine.execPipEmit p s
  | .resultRecord ingot => Sys2Proof.Machine.execResultRecord ingot s
  | .mergedTriple cluster hdr payload => Sys2Proof.Machine.execMergedTriple cluster hdr payload s
  | .clusterPathPartial cluster layer entry group row head col => Sys2Proof.Machine.execClusterPathPartial cluster layer entry group row head col s
  | .headOutput cluster layer entry group row head => Sys2Proof.Machine.execHeadOutput cluster layer entry group row head s
  | .mergeTimeout cluster ingot tag => Sys2Proof.Machine.execMergeTimeout cluster ingot tag s
  | .attentionWalk cluster layer entry group => Sys2Proof.Machine.execAttentionWalk cluster layer entry group s
  | .pipWeightProduct cluster record => Sys2Proof.Machine.execPipWeightProduct cluster record s
  | .tileMove core src dst tiles ring => Sys2Proof.Machine.execTileMove core src dst tiles ring s
  | .ringFillComplete core => Sys2Proof.Machine.execRingFillComplete core s
  | .mxMma core w => Sys2Proof.Machine.execMxMma core w s
  | .mxStat core w => Sys2Proof.Machine.execMxStat core w s
  | .mxSetstat core w => Sys2Proof.Machine.execMxSetstat core w s
  | .spillDrain core => Sys2Proof.Machine.execSpillDrain core s
  | .mmaFinish core => Sys2Proof.Machine.execMmaFinish core s
  | .epilogue core => Sys2Proof.Machine.execEpilogue core s
  | .vxCvt core w => Sys2Proof.Machine.execVxCvt core w s
  | .vxAdd core w => Sys2Proof.Machine.execVxAdd core w s
  | .vxSub core w => Sys2Proof.Machine.execVxSub core w s
  | .vxMul core w => Sys2Proof.Machine.execVxMul core w s
  | .vxAxpy core w => Sys2Proof.Machine.execVxAxpy core w s
  | .vxMax core w => Sys2Proof.Machine.execVxMax core w s
  | .vxMin core w => Sys2Proof.Machine.execVxMin core w s
  | .vxClamp core w => Sys2Proof.Machine.execVxClamp core w s
  | .vxRelu core w => Sys2Proof.Machine.execVxRelu core w s
  | .vxSilu core w => Sys2Proof.Machine.execVxSilu core w s
  | .vxGelut core w => Sys2Proof.Machine.execVxGelut core w s
  | .vxExp2 core w => Sys2Proof.Machine.execVxExp2 core w s
  | .vxRsqrt core w => Sys2Proof.Machine.execVxRsqrt core w s
  | .vxDiv core w => Sys2Proof.Machine.execVxDiv core w s
  | .vxSelect core w => Sys2Proof.Machine.execVxSelect core w s
  | .vxRowsum core w => Sys2Proof.Machine.execVxRowsum core w s
  | .vxRowssq core w => Sys2Proof.Machine.execVxRowssq core w s
  | .vxRowmax core w => Sys2Proof.Machine.execVxRowmax core w s
  | .vxRowamax core w => Sys2Proof.Machine.execVxRowamax core w s
  | .vxRms core w => Sys2Proof.Machine.execVxRms core w s
  | .vxRot core w => Sys2Proof.Machine.execVxRot core w s
  | .vxQuant core w => Sys2Proof.Machine.execVxQuant core w s
  | .vxMerge core w => Sys2Proof.Machine.execVxMerge core w s
  | .vxFinal core w => Sys2Proof.Machine.execVxFinal core w s
  | .splitPartialAdd core base arrival result parts wide => Sys2Proof.Machine.execSplitPartialAdd core base arrival result parts wide s
  | .splitTimeout core => Sys2Proof.Machine.execSplitTimeout core s
  | .collPut engine step => Sys2Proof.Machine.execCollPut engine step s
  | .collWait engine step => Sys2Proof.Machine.execCollWait engine step s
  | .collAllreduce engine step inputs => Sys2Proof.Machine.execCollAllreduce engine step inputs s
  | .collAllgather engine step inputs => Sys2Proof.Machine.execCollAllgather engine step inputs s
  | .collBcast engine step data => Sys2Proof.Machine.execCollBcast engine step data s
  | .collTimeout engine => Sys2Proof.Machine.execCollTimeout engine s
  | .provisionalCompose b => Sys2Proof.Machine.execProvisionalCompose b s
  | .slotGrant => Sys2Proof.Machine.execSlotGrant s
  | .gatherComplete => Sys2Proof.Machine.execGatherComplete s
  | .leadInStart => Sys2Proof.Machine.execLeadInStart s
  | .layersComplete => Sys2Proof.Machine.execLayersComplete s
  | .diceRowDraw row => Sys2Proof.Machine.execDiceRowDraw row s
  | .sampleComplete => Sys2Proof.Machine.execSampleComplete s
  | .commitSection b => Sys2Proof.Machine.execCommitSection b s
  | .ringWriteLost slot k => Sys2Proof.Machine.execRingWriteLost slot k s
  | .releasePhase b => Sys2Proof.Machine.execReleasePhase b s
  | .weightReread b ingot off seat ok => Sys2Proof.Machine.execWeightReread b ingot off seat ok s
  | .flushComplete b slot col lane => Sys2Proof.Machine.execFlushComplete b slot col lane s
  | .seedCopyComplete slot lane => Sys2Proof.Machine.execSeedCopyComplete slot lane s
  | .pauseTailComplete slot => Sys2Proof.Machine.execPauseTailComplete slot s
  | .pauseTailRetry slot => Sys2Proof.Machine.execPauseTailRetry slot s
  | .parkCopyComplete slot col => Sys2Proof.Machine.execParkCopyComplete slot col s
  | .returnCopyComplete slot col => Sys2Proof.Machine.execReturnCopyComplete slot col s
  | .evictionNotice slot => Sys2Proof.Machine.execEvictionNotice slot s
  | .parkSpaceRelease owner id => Sys2Proof.Machine.execParkSpaceRelease owner id s
  | .parkReleaseAck id => Sys2Proof.Machine.execParkReleaseAck id s
  | .parkReleaseTimeout id => Sys2Proof.Machine.execParkReleaseTimeout id s
  | .ownerChange oldChip newChip seat => Sys2Proof.Machine.execOwnerChange oldChip newChip seat s
  | .movePassEnd obj => Sys2Proof.Machine.execMovePassEnd obj s
  | .placeOperationEnd obj => Sys2Proof.Machine.execPlaceOperationEnd obj s
  | .fetchLate b tier fcs => Sys2Proof.Machine.execFetchLate b tier fcs s
  | .fetchTimeout what status => Sys2Proof.Machine.execFetchTimeout what status s
  | .expiryCheck b => Sys2Proof.Machine.execExpiryCheck b s
  | .consPoll slot => Sys2Proof.Machine.execConsPoll slot s
  | .requestDone slot => Sys2Proof.Machine.execRequestDone slot s
  | .seatResetComplete seat => Sys2Proof.Machine.execSeatResetComplete seat s
  | .barrierGather via rec => Sys2Proof.Machine.execBarrierGather via rec s
  | .barrierScatter rec entries => Sys2Proof.Machine.execBarrierScatter rec entries s
  | .barrierTimeout b => Sys2Proof.Machine.execBarrierTimeout b s
  | .formResend => Sys2Proof.Machine.execFormResend s
  | .formTimeout => Sys2Proof.Machine.execFormTimeout s
  | .mirrorCompare seat peer => Sys2Proof.Machine.execMirrorCompare seat peer s
  | .mirrorPairTimeout seat => Sys2Proof.Machine.execMirrorPairTimeout seat s
  | .mirrorSyncComplete seat => Sys2Proof.Machine.execMirrorSyncComplete seat s
  | .mirrorJournal seat items => Sys2Proof.Machine.execMirrorJournal seat items s
  | .sealRecord seat binding turn => Sys2Proof.Machine.execSealRecord seat binding turn s
  | .sealAck seat binding turn => Sys2Proof.Machine.execSealAck seat binding turn s
  | .sealTimeout seat => Sys2Proof.Machine.execSealTimeout seat s
  | .rstNAssert => Sys2Proof.Machine.execRstNAssert s
  | .rstNRelease romOk => Sys2Proof.Machine.execRstNRelease romOk s
  | .bootStageFuse ok => Sys2Proof.Machine.execBootStageFuse ok s
  | .bootStageAvkin lanes => Sys2Proof.Machine.execBootStageAvkin lanes s
  | .bootStageFetch => Sys2Proof.Machine.execBootStageFetch s
  | .bootHeaderPoll => Sys2Proof.Machine.execBootHeaderPoll s
  | .bootStageVerify => Sys2Proof.Machine.execBootStageVerify s
  | .bootStageRollback good => Sys2Proof.Machine.execBootStageRollback good s
  | .bootStageFirmware ok failed => Sys2Proof.Machine.execBootStageFirmware ok failed s
  | .bootStageLinks ok => Sys2Proof.Machine.execBootStageLinks ok s
  | .bootStageReady => Sys2Proof.Machine.execBootStageReady s
  | .railLoss => Sys2Proof.Machine.execRailLoss s
  | .pllUnlock => Sys2Proof.Machine.execPllUnlock s
  | .dieSensorRead temps => Sys2Proof.Machine.execDieSensorRead temps s
  | .smbusBlockRead code pecOk => Sys2Proof.Machine.execSmbusBlockRead code pecOk s
  | .smbusAlertResponse won => Sys2Proof.Machine.execSmbusAlertResponse won s
  | .smbusWrite => Sys2Proof.Machine.execSmbusWrite s
  | .jtagTapReset => Sys2Proof.Machine.execJtagTapReset s
  | .jtagBypass => Sys2Proof.Machine.execJtagBypass s
  | .jtagIdcode => Sys2Proof.Machine.execJtagIdcode s
  | .jtagSamplePreload => Sys2Proof.Machine.execJtagSamplePreload s
  | .jtagExtest => Sys2Proof.Machine.execJtagExtest s
  | .jtagExtestPulse => Sys2Proof.Machine.execJtagExtestPulse s
  | .jtagExtestTrain => Sys2Proof.Machine.execJtagExtestTrain s
  | .jtagClamp => Sys2Proof.Machine.execJtagClamp s
  | .jtagHighz => Sys2Proof.Machine.execJtagHighz s
  | .enginesDrained b => Sys2Proof.Machine.execEnginesDrained b s
  | .issueBudgetExhausted p => Sys2Proof.Machine.execIssueBudgetExhausted p s
  | .parkHostTakeRun owner seat slot col tiles => Sys2Proof.Machine.execParkHostTakeRun owner seat slot col tiles s
  | .prbClkEdge events => Sys2Proof.Machine.execPrbClkEdge events s

end Sys2Proof.Machine
end

