-- ==== Sys2Proof/Machine/Idle.lean ====
section
/-! DEFINITION. What one tick of the 5.4 GHz root clock does while no command waits (R2, R364, R366; log entry 1). -/

namespace Sys2Proof.Machine

/-- Fabric-time units of one root tick at the clock's rate correction, in units of 1 ns over 54 x 10^8 (R364, R366). -/
def tickUnits (c : Clock) : Nat := (10 * ((100000000 : Int) + LTimeSt.RATE.getInt c.status)).toNat

/-- One ns in the same units. -/
def nsUnits : Nat := 5400000000

/-- Root clock and fabric time after one root tick. -/
def clockTick (c : Clock) : Clock :=
  { c with ticks := c.ticks + 1, frac := (c.frac + tickUnits c) % nsUnits,
           time := c.time + BitVec.ofNat 64 ((c.frac + tickUnits c) / nsUnits) }

/-- Does a write wait at the range of an object, as the device's own or at its memory's queue (R241, R243)? -/
def writeWaits (s : State) : Bool :=
  s.objx.any (fun e => !e.2.waiting.isEmpty) ||
  s.ingots.any (fun i => i.2.bgs.any (fun b => b.2.queues.any (fun q => (q.2.head?).any (fun e => heldByMove s (extKey i.1 e.req) e)))) ||
  s.hm.any (fun x => x.2.waits.any (fun r => heldByMove s r.key r.ent))

/-- Bindings whose commit section waits for the Release of the last turn (R52). -/
def releaseWaits (s : State) : List Nat :=
  (loadedBinds s).filter (fun b => bPhase (s.bind b) == 5 && !bFaulted (s.bind b) && (s.bind b).relDue)

/-- One fc of waits for seals: the holder's next Gather waits for the seats' (R378, R382). -/
def mirrorWaits (s : State) : State :=
  match (holderIn s 2) with
  | none => s
  | some b => (s.mirrors.filter (fun m => m.2.sealing.any (fun w => w.binding == b))).foldl (fun s m =>
      s.setMir m.1 { s.mir m.1 with ctr := ctrAdd (s.mir m.1).ctr 0x018 1 }) s

/-- One fc of control cores' waits for a merge-inbox half (R164, R172). -/
def inboxWaits (s : State) : State :=
  match layerHolder s with
  | none => s
  | some b => s.countBind b BC.inboxWait (s.clusters.filter (fun e => e.2.wants.any (halfBusy e.2))).length

/-- One fc of units' waits for flushes and seeds: control cores, and epilogues that would write a riser (R124, R126). -/
def flushWaits (s : State) : State :=
  match layerHolder s with
  | none => s
  | some b => s.countBind b BC.flushWait ((s.clusters.filter (fun e => copyMeets s b e.2)).length +
      (s.cores.filter (fun e => (epiDue s e.1).any (copiesMeet s))).length)

/-- One ac of a matrix engine's waits (R200): for its tile, for room in the spill latch, for the hazards of R190. -/
def coreWaits (s : State) (c : Nat) : State :=
  let x := s.core c
  match x.run, x.haz with
  | some r, _ =>
    if decide (r.pos < blockSteps r.w) && layerHolder s == some r.binding && mxWaits s c r then
      s.countCore c (if stepTile r.w r.pos < (x.bfill - r.b0).toNat then 0x010 else 0x008) 1
    else s
  | none, some (w, b) => if hazHolds s c b w then s.countCore c 0x018 1 else s
  | none, none => s

/-- What passes in one ac, 2 root ticks: the matrix engines' waits. -/
def acWork (s : State) : State :=
  if ready s .arith then (s.cores.map (·.1)).foldl coreWaits s else s

/-- What passes in one fc, every 4 root ticks (R2): PLACE's, park and return copies go on (R244, R251, R252), tile moves from other
chips land (R196, R256), a reset gathers (R373), responses follow their writes (R407), MOVE_HOLD, STALL_RELEASE, the tiers' stalls,
MIRROR_WAIT, INBOX_WAIT and FLUSH_WAIT count their waits (R124, R126, R172, R255, R259, R260, R382), units issue the requests
that they may issue now (R330, R335), the base dies' stages admit (R416), and each free link output sends a packet (R342). -/
def fcWork (s : State) : State :=
  let s := if writeWaits s then s.countDev dcMoveHold 1 else s
  let s := (releaseWaits s).foldl (fun s b => s.countBind b BC.stallRelease 1) s
  let s := flushWaits (inboxWaits (mirrorWaits (stallWaits s)))
  let s := if ready s .ingot && ready s .banker then lateReplies (resetCheck (weightsLost (landMoves (runWork (placeWork s))))) else s
  if ready s .link then (List.range 6).foldl (fun u p => linkTick u p (fcNow s)) ((List.range 4).foldl admitBulk (launchHeld s)) else s

/-- A new pc of an ingot: its stages admit, and its bank groups make their external grants (R24, R61, R416). -/
def ingotPc (s : State) (i : Nat) : State :=
  let s := if (s.ingot i).lanes.any (fun l => LLaneSt.DERATED.on l.2) then s.countIngot i 0x120 1 else s
  if ready s .ingot then
    ((s.ingot i).bgs.map (·.1)).foldl (fun s bg => bankServe s i bg) (admitStage (admitStage s i 2) i 3)
  else s

/-- One pc, 8 root ticks: what the pc that has ended cost pips and waits (R64, R79, R171, R485), then the new one's
grants. -/
def pcWork (s : State) : State :=
  if ready s .refresh then (s.ingots.map (·.1)).foldl ingotPc (pcWaits (pipsPc (pcNow s - 1) s)) else s

/-- One hc of every holding-memory port, 5 root ticks (R254). -/
def hcWork (s : State) : State :=
  if ready s .refresh then (s.hm.map (·.1)).foldl hmGrant s else s

/-- One root tick. Nothing runs in reset, after a rail loss or without the root PLL's lock (R446, R448, R454). -/
def tick (s : State) : State :=
  if s.pins.rstLow || s.pins.railLost || s.pins.pllUnlock then s
  else
    let t := { s with clk := clockTick s.clk }
    let t := if t.clk.ticks % 2 = 0 then acWork t else t
    let t := if t.clk.ticks % 4 = 0 then fcWork t else t
    let t := if t.clk.ticks % 5 = 0 then hcWork t else t
    if (t.clk.ticks - t.boot.pcStart) % 8 = 0 then pcWork t else t

end Sys2Proof.Machine
end

