-- ==== Sys2Proof/WellFormed.lean ====
section
/-! DEFINITION. Well-formed commands: every unit number names a unit that the manual gives the device, every list has the
length its row's event has. -/

namespace Sys2Proof

/-- Seats 0 to 63 (R409). -/
def wfSeat (n : Nat) : Bool := decide (n < 64)
/-- Mailboxes 0 to 3 of a seat (R385). -/
def wfMbox (n : Nat) : Bool := decide (n < 4)
def wfCmd (c : Cmd) : Bool := wfSeat c.seat && wfMbox c.mbox
/-- Ingots 0 to 15 (R9). -/
def wfIngot (n : Nat) : Bool := decide (n < 16)
/-- Channels 0 to 95 of an ingot (R55). -/
def wfChannel (n : Nat) : Bool := decide (n < 96)
/-- Bank groups 0 to 383 of an ingot (R55). -/
def wfBankGroup (n : Nat) : Bool := decide (n < 384)
/-- Pips 0 to 6,143 (R12). -/
def wfPip (n : Nat) : Bool := decide (n < 6144)
/-- Cores 0 to 255 (R12). -/
def wfCore (n : Nat) : Bool := decide (n < 256)
/-- Clusters 0 to 31 (R12). -/
def wfCluster (n : Nat) : Bool := decide (n < 32)
/-- Bindings 0 to 15 (00_scope.md). -/
def wfBinding (n : Nat) : Bool := decide (n < 16)
/-- Request-table slots (R261). -/
def wfSlot (n : Nat) : Bool := decide (n < 16384)
/-- Base dies 0 to 3 and their engines (R12). -/
def wfDie (n : Nat) : Bool := decide (n < 4)
/-- Object records (R233). -/
def wfObj (n : Nat) : Bool := decide (n < 4096)
/-- Tiers that a fetch may be late from (R255). -/
def wfTier (n : Nat) : Bool := decide (1 ≤ n) && decide (n ≤ 4)
/-- Torus ports 0 to 5 (R324). -/
def wfPort (n : Nat) : Bool := decide (n < 6)
/-- Torus ports, and 6 for the Avkin link (R486). -/
def wfLink (n : Nat) : Bool := decide (n < 7)
/-- One temperature for each compute and base die (R458). -/
def wfTemps (l : List (Option Int)) : Bool := decide (l.length = 8)
/-- One reading for each DRAM die of an ingot (R74). -/
def wfReadings (l : List (Option Int)) : Bool := decide (l.length = 12)
/-- A write carries its bytes in the row's 64 (R384). -/
def wfAccess (a : Access) : Bool :=
  match a with
  | .read _ len => decide (0 < len)
  | .write _ len _ => decide (0 < len) && decide (len ≤ 64)
/-- External queues 0 to 4 (R61), accesses up to 64 bytes. -/
def wfExt (r : ExtReq) : Bool := decide (r.queue < 5) && wfSeat r.seat && decide (0 < r.len) && decide (r.len ≤ 64)
/-- A physical lane of a channel of an ingot (R481). -/
def wfLane (e : Nat × Nat × Nat) : Bool := wfIngot e.1 && wfChannel e.2.1 && decide (e.2.2 < 34)

/-- Is the command well formed? -/
def Instr.wellFormed (i : Instr) : Bool :=
  match i with
  | .admitReq c | .feed c | .cancel c | .pause c | .resume c | .placeCreate c | .placeMove c | .placeFlush c
  | .placeDrop c | .placeDestroy c | .bindLoad c | .variantAdd c | .variantRemove c | .bindClear c | .unbind c
  | .mould c | .stakeAssign c | .stakeUpdate c | .stakeRelease c | .seatSetWindow c | .seatSetQuota c
  | .seatSetConfig c | .seatSetAttach c | .seatSetDetach c | .seatSetRisers c | .seatReset c | .plan c | .sliceForm c
  | .sliceDissolve c | .sliceHold c | .sliceContinue c | .sliceReset c | .sliceCut c | .sliceUncut c | .mirrorPair c
  | .mirrorUnpair c | .mirrorTakeover c | .tally c | .ident c | .attest c | .probeChallenge c | .probeUnlock c
  | .probeSelect c | .probeOff c => wfCmd c
  | .mbCtrlOwnSet behalf seat mbox => wfSeat behalf && wfSeat seat && wfMbox mbox
  | .mailboxGrant | .heldCommandApply | .fence _ | .laneTest | .timeSyncExchange _ _ _ _ _ | .slotGrant
  | .gatherComplete | .leadInStart | .layersComplete | .diceRowDraw _ | .sampleComplete
  | .parkReleaseTimeout _ | .fetchTimeout _ _ | .formResend | .formTimeout
  | .rstNAssert | .rstNRelease _ | .bootStageFuse _ | .bootStageAvkin _ | .bootStageFetch | .bootHeaderPoll
  | .bootStageVerify | .bootStageRollback _ | .bootStageLinks _ | .bootStageReady | .railLoss | .pllUnlock
  | .smbusBlockRead _ _ | .smbusAlertResponse _ | .smbusWrite | .jtagTapReset | .jtagBypass | .jtagIdcode
  | .jtagSamplePreload | .jtagExtest | .jtagExtestPulse | .jtagExtestTrain | .jtagClamp | .jtagHighz | .prbClkEdge _ =>
    true
  | .longCommandPrepared seat mbox => wfSeat seat && wfMbox mbox
  | .govLimitWrite behalf ingot _ => wfSeat behalf && wfIngot ingot
  | .tierCfgWrite behalf _ | .timeCfgWrite behalf _ | .controlSpaceWrite behalf _ _ _ => wfSeat behalf
  | .avkinAccess behalf acc => wfSeat behalf && wfAccess acc
  | .fabricLoad port _ | .fabricStore port _ | .fabricAtomic port _ | .bulkGet port _ | .bulkData port _
  | .fabricAck port _ | .fabricResponse port _ | .packetForward port _ | .linkTrainingLost port | .linkid port _
  | .torusTrainingAttempt port _  => wfPort port
  | .barrierGather via _ => wfPort via.port
  | .barrierScatter rec _ => wfPort rec.port
  | .parkSpaceRelease m _ | .parkReleaseAck m => wfPort m.port
  | .linkTrained port | .linkPacketError port _ _ => wfLink port
  | .channelBurstCrcError ingot channel _ _ | .spareRetrainDone ingot channel _ | .laneHandover ingot channel =>
    wfIngot ingot && wfChannel channel
  | .linkLaneRetrain link _ | .linkForced link _ => wfLink link
  | .refresh ingot bg => wfIngot ingot && wfBankGroup bg
  | .hmScrubRead base => wfDie base
  | .govSensorSample ingot readings => wfIngot ingot && wfReadings readings
  | .govIntervalEnd ingot _ | .deferredWriteDrain ingot _ | .lockExpiry ingot _ | .resultRecord ingot =>
    wfIngot ingot
  | .desc ingot via _ _ | .descMasked ingot via _ _ _ | .query ingot via _ _ | .close ingot via _
  | .dispatchRelease ingot via _ => wfIngot ingot && via.all (fun x => wfPort x.1)
  | .externalAccess ingot bg arrivals => wfIngot ingot && wfBankGroup bg && arrivals.all wfExt
  | .descriptorStart p | .rowStreamBeat p | .pipNop p | .pipEnd p | .pipAdd p | .pipSub p | .pipAnd p | .pipOr p
  | .pipXor p | .pipShl p | .pipShr p | .pipMul p | .pipAddi p | .pipAndi p | .pipShri p | .pipShli p | .pipLui p
  | .pipLdw p | .pipStw p | .pipFadd p | .pipFsub p | .pipFmul p | .pipFmax p | .pipFexp2 p | .pipBeq p | .pipBne p
  | .pipBlt p | .pipBge p | .pipRep p | .pipRstr p | .pipStb p | .pipMac p | .pipScx p | .pipVzero p | .pipVadd p
  | .pipVmul p | .pipVfma p | .pipVmax p | .pipVadds p | .pipVmuls p | .pipVexp2 p | .pipVrmax p | .pipVrsum p
  | .pipVmsk p | .pipVld p | .pipVst p | .pipEmit p | .issueBudgetExhausted p => wfPip p
  | .mergedTriple cluster _ _ | .clusterPathPartial cluster _ _ _ _ _ _ | .headOutput cluster _ _ _ _ _
  | .attentionWalk cluster _ _ _ | .pipWeightProduct cluster _ => wfCluster cluster
  | .mergeTimeout cluster ingot _ => wfCluster cluster && wfIngot ingot
  | .tileMove core _ _ _ _ | .ringFillComplete core | .mxMma core _ | .mxStat core _ | .mxSetstat core _
  | .spillDrain core | .mmaFinish core | .epilogue core | .vxCvt core _ | .vxAdd core _ | .vxSub core _
  | .vxMul core _ | .vxAxpy core _ | .vxMax core _ | .vxMin core _ | .vxClamp core _ | .vxRelu core _ | .vxSilu core _
  | .vxGelut core _ | .vxExp2 core _ | .vxRsqrt core _ | .vxDiv core _ | .vxSelect core _ | .vxRowsum core _
  | .vxRowssq core _ | .vxRowmax core _ | .vxRowamax core _ | .vxRms core _ | .vxRot core _ | .vxQuant core _
  | .vxMerge core _ | .vxFinal core _ | .splitPartialAdd core _ _ _ _ _ | .splitTimeout core => wfCore core
  | .collPut engine _ | .collWait engine _ | .collAllreduce engine _ _ | .collAllgather engine _ _
  | .collBcast engine _ _ | .collTimeout engine => wfDie engine
  | .provisionalCompose b | .commitSection b | .releasePhase b | .expiryCheck b | .barrierTimeout b
  | .enginesDrained b => wfBinding b
  | .ringWriteLost slot _ | .seedCopyComplete slot _ | .pauseTailComplete slot | .pauseTailRetry slot
  | .parkCopyComplete slot _ | .returnCopyComplete slot _ | .consPoll slot | .requestDone slot =>
    wfSlot slot
  | .weightReread b ingot _ seat _ => wfBinding b && wfIngot ingot && wfSeat seat
  | .flushComplete b slot _ _ => wfBinding b && wfSlot slot
  | .evictionNotice slot => wfPort slot.port && wfSlot slot.val
  | .seatResetComplete seat | .mirrorPairTimeout seat | .mirrorSyncComplete seat | .sealTimeout seat => wfSeat seat
  | .ownerChange oldChip _ seat => wfPort oldChip.port && wfSeat seat
  | .mirrorCompare seat _ | .mirrorJournal seat _ => wfPort seat.port && wfSeat seat.val
  | .movePassEnd obj | .placeOperationEnd obj => wfObj obj
  | .fetchLate b tier _ => wfBinding b && wfTier tier
  | .sealRecord seat binding _ | .sealAck seat binding _ =>
    wfPort seat.port && wfSeat seat.val && wfBinding binding
  | .bootStageFirmware _ failed => failed.all wfLane
  | .dieSensorRead temps => wfTemps temps
  | .parkHostTakeRun owner seat slot _ _ => wfPort owner.port && wfSeat seat && wfSlot slot

end Sys2Proof
end

