-- ==== Sys2Proof/Safety.lean ====
section
/-! DEFINITION. What counts as a safe step and a live machine, in the terms statements use. -/

namespace Sys2Proof.Machine

/-- Supplies hold and the root PLL is locked: a step stops in no other case (R448, R454). -/
def powered (s : State) : Bool := !s.pins.railLost && !s.pins.pllUnlock

/-- What a step needs runs: the supplies hold, RST_N is high, and the part in question works (R428, R435, R460). -/
def running (n : Needs) (s : State) : Bool := powered s && ready s n

/-- The memory and the tables of codeword faults are in canonical form. -/
def MemOk (s : State) : Prop := Tab.wf s.mem 0#8 = true

/-- The parts of the state, one for each of its fields. -/
inductive Part where
  | pending | fuses | pins | clk | boot | mem | wordErr | dirty | seats | mboxes | bank | reqs | reqx | objs | objx
  | stakes | hist | binds | slot | imem | pipSlots | ingots | hm | pips | cores | clusters | fab | mirrors | out | free
  deriving DecidableEq, Repr

/-- Two states agree on a part. -/
def Part.same (p : Part) (s t : State) : Prop :=
  match p with
  | .pending => t.pending = s.pending
  | .fuses => t.fuses = s.fuses
  | .pins => t.pins = s.pins
  | .clk => t.clk = s.clk
  | .boot => t.boot = s.boot
  | .mem => t.mem = s.mem
  | .wordErr => t.wordErr = s.wordErr
  | .dirty => t.dirty = s.dirty
  | .seats => t.seats = s.seats
  | .mboxes => t.mboxes = s.mboxes
  | .bank => t.bank = s.bank
  | .reqs => t.reqs = s.reqs
  | .reqx => t.reqx = s.reqx
  | .objs => t.objs = s.objs
  | .objx => t.objx = s.objx
  | .stakes => t.stakes = s.stakes
  | .hist => t.hist = s.hist
  | .binds => t.binds = s.binds
  | .slot => t.slot = s.slot
  | .imem => t.imem = s.imem
  | .pipSlots => t.pipSlots = s.pipSlots
  | .ingots => t.ingots = s.ingots
  | .hm => t.hm = s.hm
  | .pips => t.pips = s.pips
  | .cores => t.cores = s.cores
  | .clusters => t.clusters = s.clusters
  | .fab => t.fab = s.fab
  | .mirrors => t.mirrors = s.mirrors
  | .out => t.out = s.out
  | .free => t.free = s.free

/-- The frame of a command: nothing differs but the listed parts, and a memory in canonical form stays so. -/
structure OnlyChanges (l : List Part) (s t : State) : Prop where
  same : ∀ p, p ∉ l → p.same s t
  mem : MemOk s → MemOk t

/-! ## Mailbox commands -/

/-- A command row's command is served at once: the banker serves, the mailbox exists and is the host's, the words carry
the row's OPCODE and OP, the service grants its mailbox next (R24, R392, R394), a long one finds a preparation core free
(R393), nothing holds it (R394), and its header, seat and mirror pair pass the checks ahead of every command (R378, R391,
R411). -/
def granted (opcode : Nat) (sub : Cmd → Bool) (s : State) (c : Cmd) : Bool :=
  running .banker s && decide (c.seat < 64) && decide (c.mbox < 4) && cmdOpcode c == opcode && sub c &&
  !LMbCtrl.OWN.on (s.mbox (cmdMb c)).ctrl && nextGrant (present s c) == some (cmdMb c) &&
  !(isLong c && decide (3 ≤ s.bank.prep.length)) && !mustHold s c && headerStatus s c == St.ok

/-- A row with no OP. -/
def anyOp : Cmd → Bool := fun _ => true

/-- The state in which a command served at once is applied: in its mailbox, granted, timed and counted. -/
def atApplication (s : State) (c : Cmd) : State :=
  let a := applyTime (grantMb (present s c) (cmdMb c))
  { a with bank := { a.bank with commands := a.bank.commands + 1 } }

/-- The command's mailbox holds its answer (R388, R390, R393): status, opcode, tag, sequence number and instant, and the
mailbox is the host's again. -/
structure Answered (c : Cmd) (st : Nat) (s t : State) : Prop where
  status : LRspHd.STATUS.get (t.mbox (cmdMb c)).rsp = st
  opcode : LRspHd.OPCODE.get (t.mbox (cmdMb c)).rsp = cmdOpcode c
  tag : LRspHd.TAG.get (t.mbox (cmdMb c)).rsp = LCmdHd.TAG.get c.hdr
  seqRsp : LRspHd.SEQ.get (t.mbox (cmdMb c)).rsp = (LMbCtrl.SEQ.get (s.mbox (cmdMb c)).ctrl + 1) % 65536
  applied : LRspHd.APPLIED.get (t.mbox (cmdMb c)).rsp = (atApplication s c).bank.lastApplied
  seqCtrl : LMbCtrl.SEQ.get (t.mbox (cmdMb c)).ctrl = (LMbCtrl.SEQ.get (s.mbox (cmdMb c)).ctrl + 1) % 65536
  own : LMbCtrl.OWN.get (t.mbox (cmdMb c)).ctrl = 0
  active : LMbCtrl.ACTIVE.get (t.mbox (cmdMb c)).ctrl = 0
  held : LMbCtrl.HELD.get (t.mbox (cmdMb c)).ctrl = 0

/-- The row answers a next state in which the command has completed with success, and `P` holds of the state of its
application and the state after it. -/
def Succeeds (i : Instr) (c : Cmd) (s : State) (P : State → State → Prop) : Prop :=
  ∃ t, exec i s = .next t ∧ Answered c St.ok s t ∧ P (atApplication s c) t

/-- Two states agree but for what an answer writes: mailboxes, the list of granted commands, a seat's interrupt status, the
interfaces. -/
def ButAnswer (x t : State) : Prop :=
  OnlyChanges [.mboxes, .seats, .bank, .out] x t ∧ t.bank = { x.bank with granted := t.bank.granted }

/-- The command answers a next state, of which `P` holds. -/
def Runs (i : Instr) (s : State) (P : State → Prop) : Prop := ∃ t, exec i s = .next t ∧ P t

/-! ## Accesses by address and packets -/

/-- Nothing waits for the bank group, no deferred write is ready for it, and it can make a grant in this pc (R24, R59). -/
def bankIdle (s : State) (i bg : Nat) : Bool :=
  !bankBusy s i bg && waitingAt s i bg == 0 && !(s.ingot i).defer.any (fun d => d.ready && pageBg d.page == bg)

/-- An admission stage of an ingot holds nothing and can admit in this pc (R416). -/
def stageIdle (s : State) (i q : Nat) : Bool :=
  (stageOf s i q).waiting.isEmpty && decide ((stageOf s i q).free ≤ pcNow s)

/-- An ingot's bank group serves an access as it arrives: nothing else waits, no MOVE or DROP holds its bytes, and no more than one
grant is needed; a tripped ingot answers at once (R61, R62, R68, R76, R241). -/
def bankServes (s : State) (i bg : Nat) (e : ExtEnt) : Bool :=
  govMode s i == 3 || (bankIdle s i bg && !heldByMove s (extKey i e.req) e && (!(e.req.queue == 2 || e.req.queue == 3) || stageIdle s i e.req.queue) &&
    !heldByBuffer s i e && decide (e.left ≤ 1) && !overLimit s i bg (entPc e))

/-- The memory at a key serves an access of the Avkin link (requester 0) or of torus port p (p + 1) as it arrives (R61, R254). -/
def servedNow (s : State) (k num : Nat) (e : ExtEnt) : Bool :=
  if isT2 k then bankServes s (k / ingotSize) (pageBg (offPage (k % ingotSize))) e
  else if isT1 k then (s.hmPort (hmDie k)).waits.isEmpty && decide ((s.hmPort (hmDie k)).freeAt ≤ hcNow s) && decide (num < 7) &&
    !heldByMove s k e
  else true

/-- A packet of this device that has a route joins what waits: in the bulk class in its base die's stage, else in the queue of
the port that leads to its destination (R338, R342, R416). -/
def Sends (p : Packet) (s t : State) : Prop :=
  ∀ o, outPort s 6 (LPkt.DEST.get p.hdr) = some o →
    if LPkt.CLASS.get p.hdr = 3 then (bulkStage t (packetDie p)).waiting = (bulkStage s (packetDie p)).waiting ++ [p]
    else (t.port o).queue = (s.port o).queue ++
      [(routerInput 6 (packetDie p) o, { p with hdr := LPkt.VC.set p.hdr (nextVc s p 6 o) })]

/-- The answer to a packet that its type has is sent, with a status and a datum (R328). -/
def Replies (p : Packet) (status data : Nat) (s t : State) : Prop :=
  ∀ q, answerTo p status data 0 0#4096 = some q → Sends q s t

/-- What a packet's request presents to its memory. -/
def packetEnt (p : Packet) : ExtEnt :=
  ⟨⟨3, pktSeat p, pktOff p % ingotSize, pktSpan p, pktWrites p, 0#512⟩, .packet p, cdiv (pktSpan p) 64⟩

/-- The memory is as it was outside a range. -/
def KeepsOutside (k n : Nat) (s t : State) : Prop := ∀ j, j < k ∨ k + n ≤ j → memByte t j = memByte s j

/-- What a mirror's partner holds after an item of the journal of a seat's binding took effect; `alone`: no
other item came with it (R377). -/
def ItemHolds (s : State) (seat b : Nat) (alone : Bool) (t : State) : JournalItem → Prop
  | .riser _ _ k l => readBytes t k l.length = l
  | .entry k v => t.req k = v
  | .runRecord c p r v => runRec (t.bind c) p r = v
  | .index k v => readBytes t k 32 = bytesOf v.toNat 32
  | .stake k v => t.stake k = v
  | .shadow k l => (Tab.get (t.mir seat).sealed [] b).getLast? = some (k, l)
  | .flush src dst m => alone = true → MemOk s → holderOf s dst (m * 16384) = none →
      src + m * 16384 ≤ dst ∨ dst + m * 16384 ≤ src →
      readBytes t dst (m * 16384) = readBytes s src (m * 16384) ∧ KeepsOutside dst (m * 16384) s t
  | .turnBlock c v => (t.bind c).blk = idleBlk v

/-- Offsets in a lane's page of the bytes that hold its first `count` entries: keys, values, scales, tokens (R106, R107). -/
def laneBytes (r : BitVec 8192) (count : Nat) : List Nat :=
  (List.range count).flatMap (fun t =>
    (List.range (gD r)).flatMap (fun e => [keyNib r t e / 2, valNib r t e / 2]) ++
    (List.range (gBlocks r)).flatMap (fun b => [keyScaleOff r t b, valScaleOff r t b]) ++
    (List.range 4).map (fun i => 0x3E00 + 4 * t + i))

/-! ## Pip instructions -/

/-- The pip goes on to its next instruction, with one pc of its descriptor's budget spent. -/
def pipGoes (x : Pip) : Pip := pipNext { x with budget := x.budget - 1 }

/-- The pip runs, has budget left, and its next word is a legal one of the opcode (R80, R82, R84). -/
def pipReady (op : Nat) (s : State) (p : Nat) : Bool :=
  running .arith s && decide (p < 6144) && (s.pip p).running && (s.pip p).budget != 0 && pipOp (pipWord s p) == op &&
  pipWordOk (pipWord s p)

/-- The instruction row leaves the pip as `y` and counts its pc; no other pip and no other part of the state differs. -/
def PipSteps (i : Instr) (s : State) (p : Nat) (y : Pip) : Prop :=
  ∃ t, exec i s = .next t ∧ t.pip p = y ∧ (∀ q, q ≠ p → t.pip q = s.pip q) ∧
    t.ingots = (s.countIngot (p / 384) 0x0B8 1).ingots ∧ OnlyChanges [.pips, .ingots] s t

/-! ## What each command may change -/

/-- The parts of the state that each command may change: its registers, queues and memories, and nothing else. -/
def frameOf : Instr → List Part
  | .admitReq _ | .feed _ | .cancel _ | .pause _ | .resume _ | .seatSetWindow _ | .seatSetQuota _
  | .seatSetConfig _ | .seatSetAttach _ | .seatSetDetach _ | .seatSetRisers _ | .seatReset _ | .mirrorPair _
  | .mirrorUnpair _ | .mirrorTakeover _ =>
    [.mem, .wordErr, .dirty, .seats, .mboxes, .bank, .reqs, .reqx, .objs, .objx, .stakes, .binds, .slot,
     .ingots, .cores, .fab, .mirrors, .out, .free]
  | .placeCreate _ | .placeMove _ | .placeFlush _ | .placeDrop _ | .placeDestroy _ =>
    [.mem, .wordErr, .dirty, .seats, .mboxes, .bank, .reqx, .objs, .objx, .binds, .cores, .fab, .out, .free]
  | .bindLoad _ | .variantAdd _ | .variantRemove _ | .bindClear _ =>
    [.mem, .wordErr, .dirty, .seats, .mboxes, .bank, .reqs, .reqx, .objs, .objx, .stakes, .binds, .slot,
     .imem, .pipSlots, .ingots, .hm, .cores, .fab, .mirrors, .out, .free]
  | .unbind _ =>
    [.seats, .mboxes, .bank, .reqs, .reqx, .objs, .objx, .binds, .pipSlots, .out]
  | .mould _ =>
    [.seats, .mboxes, .bank, .binds, .out]
  | .stakeAssign _ | .stakeUpdate _ | .stakeRelease _ =>
    [.mem, .wordErr, .dirty, .seats, .mboxes, .bank, .reqs, .reqx, .objs, .objx, .stakes, .hist, .binds,
     .slot, .ingots, .cores, .fab, .mirrors, .out, .free]
  | .plan _ =>
    [.clk, .mem, .wordErr, .dirty, .seats, .mboxes, .bank, .reqx, .objs, .objx, .binds, .cores, .fab,
     .mirrors, .out]
  | .sliceForm _ | .sliceDissolve _ | .sliceHold _ | .sliceContinue _ | .sliceReset _ | .sliceCut _
  | .sliceUncut _ =>
    [.clk, .mem, .wordErr, .dirty, .seats, .mboxes, .bank, .reqs, .reqx, .objs, .objx, .stakes, .binds,
     .slot, .ingots, .cores, .fab, .mirrors, .out, .free]
  | .tally _ =>
    [.mem, .wordErr, .dirty, .seats, .mboxes, .bank, .reqx, .objs, .objx, .binds, .ingots, .cores, .fab,
     .out]
  | .ident _ | .attest _ =>
    [.seats, .mboxes, .bank, .out]
  | .probeChallenge _ | .probeUnlock _ | .probeSelect _ | .probeOff _ =>
    [.pins, .seats, .mboxes, .bank, .out]
  | .mbCtrlOwnSet _ _ _ | .govLimitWrite _ _ _ | .tierCfgWrite _ _ | .timeCfgWrite _ _
  | .controlSpaceWrite _ _ _ _ =>
    [.clk, .seats, .mboxes, .bank, .ingots, .out]
  | .mailboxGrant | .longCommandPrepared _ _ | .heldCommandApply =>
    [.pins, .clk, .mem, .wordErr, .dirty, .seats, .mboxes, .bank, .reqs, .reqx, .objs, .objx, .stakes,
     .hist, .binds, .slot, .imem, .pipSlots, .ingots, .hm, .cores, .fab, .mirrors, .out, .free]
  | .avkinAccess _ _ =>
    [.clk, .mem, .wordErr, .dirty, .seats, .mboxes, .bank, .reqx, .objs, .objx, .binds, .ingots, .hm,
     .cores, .fab, .out]
  | .fabricLoad _ _ | .fabricStore _ _ | .fabricAtomic _ _ | .bulkGet _ _ | .bulkData _ _ =>
    [.mem, .wordErr, .dirty, .seats, .bank, .objx, .ingots, .hm, .fab, .out]
  | .fabricAck _ _ | .packetForward _ _ | .formResend =>
    [.dirty, .bank, .reqx, .objs, .objx, .binds, .cores, .fab, .out]
  | .fabricResponse _ _ =>
    [.mem, .wordErr, .dirty, .bank, .reqx, .objs, .objx, .binds, .ingots, .hm, .cores, .fab, .out]
  | .fence _ =>
    [.fab, .out]
  | .linkTrained _ | .linkTrainingLost _ | .linkid _ _ | .linkPacketError _ _ _ | .torusTrainingAttempt _ _
  | .linkLaneRetrain _ _ | .linkForced _ _ =>
    [.clk, .mem, .wordErr, .dirty, .seats, .bank, .reqx, .objs, .objx, .binds, .cores, .fab, .mirrors, .out]
  | .channelBurstCrcError _ _ _ _ =>
    [.bank, .ingots, .fab, .out]
  | .laneTest =>
    [.bank, .ingots, .fab]
  | .spareRetrainDone _ _ _ | .laneHandover _ _ | .refresh _ _ | .govSensorSample _ _ =>
    [.bank, .ingots]
  | .timeSyncExchange _ _ _ _ _ =>
    [.clk, .dirty, .bank, .reqx, .objs, .objx, .binds, .cores, .fab, .out, .free]
  | .hmScrubRead _ | .externalAccess _ _ _ =>
    [.mem, .wordErr, .dirty, .bank, .objx, .ingots, .hm, .fab, .out]
  | .govIntervalEnd _ _ =>
    [.pins, .seats, .bank, .ingots, .fab, .out]
  | .deferredWriteDrain _ _ =>
    [.mem, .wordErr, .dirty, .bank, .objx, .ingots]
  | .lockExpiry _ _ | .desc _ _ _ _ | .descMasked _ _ _ _ _ | .query _ _ _ _ | .close _ _ _
  | .dispatchRelease _ _ _ | .descriptorStart _ | .pipNop _ | .pipAdd _ | .pipSub _ | .pipAnd _ | .pipOr _
  | .pipXor _ | .pipShl _ | .pipShr _ | .pipMul _ | .pipAddi _ | .pipAndi _ | .pipShri _ | .pipShli _
  | .pipLui _ | .pipLdw _ | .pipStw _ | .pipFadd _ | .pipFsub _ | .pipFmul _ | .pipFmax _ | .pipFexp2 _
  | .pipBeq _ | .pipBne _ | .pipBlt _ | .pipBge _ | .pipRep _ | .pipRstr _ | .pipMac _ | .pipScx _
  | .pipVzero _ | .pipVadd _ | .pipVmul _ | .pipVfma _ | .pipVmax _ | .pipVadds _ | .pipVmuls _ | .pipVexp2 _
  | .pipVrmax _ | .pipVrsum _ | .pipVmsk _ | .pipVld _ | .pipVst _ | .pipEmit _ | .issueBudgetExhausted _ =>
    [.mem, .wordErr, .dirty, .seats, .bank, .reqs, .reqx, .objs, .objx, .binds, .slot, .ingots, .pips,
     .cores, .fab, .mirrors, .out, .free]
  | .rowStreamBeat _ | .pipStb _ =>
    [.mem, .wordErr, .dirty, .seats, .bank, .reqs, .reqx, .objs, .objx, .binds, .slot, .ingots, .hm, .pips,
     .cores, .fab, .mirrors, .out, .free]
  | .pipEnd _ | .resultRecord _ =>
    [.mem, .wordErr, .dirty, .seats, .bank, .reqs, .reqx, .objs, .objx, .binds, .slot, .ingots, .pips,
     .cores, .clusters, .fab, .mirrors, .out, .free]
  | .mergedTriple _ _ _ | .headOutput _ _ _ _ _ _ | .pipWeightProduct _ _ | .gatherComplete =>
    [.mem, .wordErr, .dirty, .seats, .bank, .reqs, .reqx, .objs, .objx, .binds, .slot, .ingots, .cores,
     .clusters, .fab, .mirrors, .out, .free]
  | .clusterPathPartial _ _ _ _ _ _ _ | .attentionWalk _ _ _ _ =>
    [.mem, .wordErr, .dirty, .seats, .bank, .reqs, .reqx, .objs, .objx, .binds, .slot, .ingots, .hm, .cores,
     .clusters, .fab, .mirrors, .out, .free]
  | .mergeTimeout _ _ _ =>
    [.dirty, .bank, .reqx, .objs, .objx, .binds, .cores, .clusters, .fab, .out]
  | .tileMove _ _ _ _ _ | .mxMma _ _ | .mxSetstat _ _ | .spillDrain _ | .mmaFinish _ | .epilogue _ | .vxCvt _ _
  | .vxAdd _ _ | .vxSub _ _ | .vxMul _ _ | .vxAxpy _ _ | .vxMax _ _ | .vxMin _ _ | .vxClamp _ _ | .vxRelu _ _
  | .vxSilu _ _ | .vxGelut _ _ | .vxExp2 _ _ | .vxRsqrt _ _ | .vxDiv _ _ | .vxSelect _ _ | .vxRowsum _ _
  | .vxRowssq _ _ | .vxRowmax _ _ | .vxRowamax _ _ | .vxRms _ _ | .vxRot _ _ | .vxQuant _ _ | .vxMerge _ _
  | .vxFinal _ _ | .splitPartialAdd _ _ _ _ _ _ | .collPut _ _ | .collAllreduce _ _ _ | .collAllgather _ _ _
  | .collBcast _ _ _ =>
    [.mem, .wordErr, .dirty, .seats, .bank, .reqs, .reqx, .objs, .objx, .binds, .slot, .ingots, .hm, .cores,
     .fab, .mirrors, .out, .free]
  | .ringFillComplete _ =>
    [.cores]
  | .mxStat _ _ | .splitTimeout _ | .collWait _ _ | .collTimeout _ | .weightReread _ _ _ _ _
  | .fetchTimeout _ _ | .barrierTimeout _ =>
    [.mem, .wordErr, .dirty, .seats, .bank, .reqs, .reqx, .objs, .objx, .binds, .slot, .ingots, .cores,
     .fab, .mirrors, .out, .free]
  | .provisionalCompose _ =>
    [.seats, .bank, .reqx, .stakes, .binds, .ingots]
  | .slotGrant | .sampleComplete =>
    [.binds, .slot]
  | .leadInStart | .movePassEnd _ | .placeOperationEnd _ =>
    [.mem, .wordErr, .dirty, .seats, .bank, .reqx, .objs, .objx, .binds, .ingots, .hm, .cores, .fab, .out]
  | .layersComplete =>
    [.mem, .wordErr, .dirty, .bank, .reqx, .objs, .objx, .binds, .cores, .fab, .mirrors, .out, .free]
  | .diceRowDraw _ =>
    [.seats, .bank, .binds, .ingots]
  | .commitSection _ | .barrierGather _ _ | .barrierScatter _ _ =>
    [.mem, .wordErr, .dirty, .seats, .bank, .reqs, .reqx, .objs, .objx, .stakes, .hist, .binds, .slot,
     .ingots, .cores, .fab, .mirrors, .out, .free]
  | .ringWriteLost _ _ | .evictionNotice _ | .expiryCheck _ =>
    [.mem, .wordErr, .dirty, .seats, .bank, .reqs, .reqx, .objs, .objx, .binds, .ingots, .cores, .fab,
     .mirrors, .out, .free]
  | .releasePhase _ | .consPoll _ =>
    [.mem, .wordErr, .dirty, .seats, .bank, .reqs, .reqx, .objs, .objx, .stakes, .binds, .slot, .ingots,
     .cores, .fab, .mirrors, .out, .free]
  | .flushComplete _ _ _ _ | .seedCopyComplete _ _ | .pauseTailComplete _ | .parkCopyComplete _ _ =>
    [.mem, .wordErr, .dirty, .seats, .bank, .reqs, .reqx, .objs, .objx, .binds, .ingots, .hm, .cores, .fab,
     .mirrors, .out, .free]
  | .pauseTailRetry _ =>
    [.reqx, .binds]
  | .returnCopyComplete _ _ =>
    [.mem, .wordErr, .dirty, .seats, .bank, .reqs, .reqx, .objs, .objx, .stakes, .binds, .slot, .ingots,
     .hm, .cores, .fab, .mirrors, .out, .free]
  | .parkSpaceRelease _ _ | .parkHostTakeRun _ _ _ _ _ =>
    [.dirty, .bank, .reqx, .objs, .objx, .binds, .cores, .fab, .out, .free]
  | .parkReleaseAck _ | .parkReleaseTimeout _ =>
    [.reqx, .fab]
  | .ownerChange _ _ _ =>
    [.objx, .fab]
  | .fetchLate _ _ _ =>
    [.binds]
  | .requestDone _ =>
    [.reqs]
  | .seatResetComplete _ =>
    [.seats]
  | .formTimeout =>
    [.seats, .bank, .fab, .out]
  | .mirrorCompare _ _ =>
    [.mem, .wordErr, .dirty, .seats, .bank, .reqx, .objs, .objx, .binds, .cores, .fab, .mirrors, .out,
     .free]
  | .mirrorPairTimeout _ =>
    [.mem, .wordErr, .dirty, .seats, .objx, .mirrors, .out]
  | .mirrorSyncComplete _ =>
    [.dirty, .bank, .reqx, .objs, .objx, .binds, .cores, .fab, .mirrors, .out, .free]
  | .mirrorJournal _ _ =>
    [.mem, .wordErr, .dirty, .reqs, .objx, .stakes, .binds, .fab, .mirrors]
  | .sealRecord _ _ _ =>
    [.mem, .wordErr, .dirty, .bank, .reqs, .reqx, .objs, .objx, .stakes, .binds, .cores, .fab, .mirrors,
     .out, .free]
  | .sealAck _ _ _ =>
    [.mem, .wordErr, .dirty, .seats, .objx, .fab, .mirrors, .out]
  | .sealTimeout _ =>
    [.mem, .wordErr, .dirty, .seats, .bank, .objx, .mirrors, .out]
  | .rstNAssert =>
    [.pins, .clk, .boot, .mem, .wordErr, .dirty, .seats, .mboxes, .bank, .reqs, .reqx, .objs, .objx,
     .stakes, .hist, .binds, .slot, .imem, .pipSlots, .ingots, .hm, .pips, .cores, .clusters, .fab,
     .mirrors]
  | .rstNRelease _ | .bootStageFuse _ | .bootStageFetch | .bootHeaderPoll | .bootStageVerify | .bootStageReady =>
    [.pins, .boot, .out]
  | .bootStageAvkin _ =>
    [.pins, .boot, .fab, .out]
  | .bootStageRollback _ =>
    [.fuses, .pins, .boot, .out]
  | .bootStageFirmware _ _ =>
    [.pins, .boot, .mem, .wordErr, .dirty, .bank, .ingots, .out, .free]
  | .bootStageLinks _ =>
    [.pins, .clk, .boot, .mem, .wordErr, .dirty, .seats, .bank, .reqx, .objs, .objx, .binds, .cores, .fab,
     .mirrors, .out]
  | .railLoss | .pllUnlock | .dieSensorRead _ | .jtagTapReset | .prbClkEdge _ =>
    [.pins]
  | .smbusBlockRead _ _ | .smbusWrite =>
    [.out]
  | .smbusAlertResponse _ | .jtagBypass | .jtagIdcode | .jtagExtest | .jtagExtestPulse | .jtagExtestTrain
  | .jtagClamp | .jtagHighz =>
    [.pins, .out]
  | .jtagSamplePreload =>
    [.pins, .out, .free]
  | .enginesDrained _ =>
    [.mem, .wordErr, .dirty, .seats, .bank, .reqs, .reqx, .objs, .objx, .stakes, .binds, .slot, .ingots,
     .cores, .clusters, .fab, .mirrors, .out, .free]

end Sys2Proof.Machine
end

