-- ==== Sys2Proof/Certificates/Slice0/Obligations.lean ====
section
/-! DEFINITION. The statements about this machine that are to be proved. -/

open Sys2Proof Sys2Proof.Machine

/-- An ADMIT whose records pass gives every named slot to the seat. R263, R266 to R268, R388, R390. -/
def Obligations.AdmitTakesEverySlot : Prop :=
  ∀ (c : Cmd) (s : State), granted 0x0001 anyOp s c = true →
    (opAdmit c (atApplication s c)).2.status = St.ok →
    Succeeds (.admitReq c) c s (fun _ t => ∀ i, i < (c.body.extractLsb' 0 6).toNat →
      rSeat t (LEnt.SLOT.get (admitRec c i)) = c.seat ∧
      rBind t (LEnt.SLOT.get (admitRec c i)) = LEnt.BINDING.get (admitRec c i) ∧
      rState t (LEnt.SLOT.get (admitRec c i)) ≠ RS.free ∧ rState t (LEnt.SLOT.get (admitRec c i)) ≠ RS.done)

/-- FEED adds its tokens to PAVAIL, sets FINAL and then tries a close. R271, R286, R40. -/
def Obligations.FeedRaisesPavail : Prop :=
  ∀ (c : Cmd) (s : State), granted 0x0002 anyOp s c = true → feedStatus (atApplication s c) c = St.ok →
    Succeeds (.feed c) c s (fun a t =>
      let slot := bodySlot c
      let fin := c.body.getLsbD 34
      LEnt.PAVAIL.get (t.req slot) = (LEnt.PAVAIL.get (a.req slot) + (c.body.extractLsb' 14 20).toNat) % 2 ^ 20 ∧
      LEnt.FINAL.get (t.req slot) = (if fin then 1 else 0) ∧
      (bPhase (a.bind (rBind a slot)) ≠ 0 → (∀ k, k ≠ slot → t.req k = a.req k) ∧
        (fin = true → (t.rx slot).tRef = now a ∧ (t.rx slot).firstDue = true)))

/-- CANCEL and PAUSE act at once, or are noted while a turn is in flight. R264, R272 to R274. -/
def Obligations.CancelAndPauseTakeEffect : Prop :=
  ∀ (c : Cmd) (s : State),
    (granted 0x0003 anyOp s c = true → cancelStatus (atApplication s c) c = St.ok →
      Succeeds (.cancel c) c s (fun a t =>
        let slot := bodySlot c
        if inFlight a (rBind a slot) then
          t.reqs = a.reqs ∧ (t.rx slot).cancelDue = if (a.rx slot).cancelDue = 2 then 2 else 1
        else rState t slot = RS.ending ∧ LEnt.END.get (t.req slot) = 3 ∧ LEnt.DETAIL.get (t.req slot) = 1)) ∧
    (granted 0x0004 anyOp s c = true → pauseStatus (atApplication s c) c = St.ok →
      Succeeds (.pause c) c s (fun a t =>
        let slot := bodySlot c
        if inFlight a (rBind a slot) then t.reqs = a.reqs ∧ (t.rx slot).pauseDue = some (pauseAsk c)
        else (a.rx slot).expireDue = 0 →
          (LEnt.DEADLINE.get (a.req slot) = 0 ∨ now a < LEnt.DEADLINE.get (a.req slot)) →
          (LPause.TTL.get c.body = 0 ∨ now a + LPause.TTL.get c.body * 1000000 < 2 ^ 64) →
          (rState t slot = RS.pausing ∨ rState t slot = RS.paused) ∧
          LEnt.T_EXPIRE.get (t.req slot) =
            if LPause.TTL.get c.body = 0 then 0 else now a + LPause.TTL.get c.body * 1000000))

/-- RESUME makes a PAUSED request RESUMING and brings its runs back. R252, R275, R286. -/
def Obligations.ResumeTakesEffect : Prop :=
  ∀ (c : Cmd) (s : State), granted 0x0005 anyOp s c = true → resumeStatus (atApplication s c) c = St.ok →
    Succeeds (.resume c) c s (fun a t =>
      let slot := bodySlot c
      let e := setAll (a.req slot) [(LEnt.T_EXPIRE, 0), (LEnt.STATE, RS.resuming)]
      LEnt.T_EXPIRE.get (t.req slot) = 0 ∧ rState t slot ≠ RS.paused ∧
      (inFlight a (rBind a slot) = true → t.req slot = e ∧ (∀ k, k ≠ slot → t.req k = a.req k) ∧ (t.rx slot).tRef = now a ∧
        (t.rx slot).ask = none) ∧
      (inFlight a (rBind a slot) = false → composes a (rBind a slot) = false → (a.rx slot).returns = [] →
        t.req slot = if (a.rx slot).parked = [] then setAll e [(LEnt.STATE, resumeTo e), (LEnt.DETAIL, 0)] else e))

/-- PLACE: what each operation leaves in its object record. R233 to R237, R243. -/
def Obligations.PlaceKeepsTheObjectTable : Prop :=
  ∀ (c : Cmd) (s : State),
    let n := LPlace.OBJECT.get c.body
    let p := atApplication s c
    placeStatus p c = St.ok →
    (granted 0x0010 (bodyOp 1) s c = true → (placeCreate p c).2 = St.ok →
      Succeeds (.placeCreate c) c s (fun a t =>
        LObj.KIND.get (t.obj n) = LPlace.KIND.get c.body ∧ LObj.SEAT.get (t.obj n) = c.seat ∧
        LObj.TILES.get (t.obj n) = LPlace.TILES.get c.body ∧ LObj.WORK.get (t.obj n) = LPlace.ADDR.get c.body ∧
        LObj.WTIER.get (t.obj n) = tierOf a (LPlace.ADDR.get c.body) ∧
        LObj.STATE.get (t.obj n) = (if LPlace.FILL.on c.body then 2 else 1) ∧ (∀ k, k ≠ n → t.obj k = a.obj k))) ∧
    (granted 0x0010 (bodyOp 2) s c = true → (placeMove p c).2 = St.ok →
      Succeeds (.placeMove c) c s (fun a t =>
        LObj.STATE.get (t.obj n) = 2 ∧ LObj.WORK.get (t.obj n) = LObj.WORK.get (a.obj n) ∧
        (t.ox n).op = 2 ∧ (t.ox n).target = LPlace.ADDR.get c.body ∧ (t.ox n).pass = 1 ∧ (∀ k, k ≠ n → t.obj k = a.obj k))) ∧
    (granted 0x0010 (bodyOp 3) s c = true →
      Succeeds (.placeFlush c) c s (fun a t =>
        LObj.STATE.get (t.obj n) = (if LObj.WORK.get (a.obj n) = LObj.BACK.get (a.obj n) then 1 else 3) ∧
        (∀ k, k ≠ n → t.obj k = a.obj k))) ∧
    (granted 0x0010 (bodyOp 4) s c = true →
      Succeeds (.placeDrop c) c s (fun a t =>
        (if LObj.WORK.get (a.obj n) = LObj.BACK.get (a.obj n) ∨ ((dirtyTiles a n).isEmpty = true ∧ tracked (a.obj n) = true) then
          LObj.STATE.get (t.obj n) = 1 ∧ LObj.WORK.get (t.obj n) = LObj.BACK.get (a.obj n)
        else LObj.STATE.get (t.obj n) = 4) ∧ (∀ k, k ≠ n → t.obj k = a.obj k))) ∧
    (granted 0x0010 (bodyOp 5) s c = true →
      Succeeds (.placeDestroy c) c s (fun a t => t.obj n = 0#512 ∧ (∀ k, k ≠ n → t.obj k = a.obj k)))

/-- BIND LOAD installs its record at turn 0 and attaches the seat. R30, R32, R399, R412. -/
def Obligations.BindLoadInstallsTheRecord : Prop :=
  ∀ (c : Cmd) (s : State),
    let b := LBindCmd.BINDING.get c.body
    granted 0x0011 (bodyOp 1) s c = true → (opBindLoad c (atApplication s c)).2 = St.ok →
    Succeeds (.bindLoad c) c s (fun a t =>
      (t.bind b).loaded = true ∧ (t.bind b).seat = c.seat ∧ (t.bind b).brec = c.payload.extractLsb' 0 8192 ∧
      bTurn (t.bind b) = 0 ∧ bPhase (t.bind b) = 0 ∧ bFaulted (t.bind b) = false ∧
      (LSeatBnd.ATTACHED.get (t.seat c.seat).bnd).testBit b = true ∧ (LSeatBnd.OWNS.get (t.seat c.seat).bnd).testBit b = true ∧
      (∀ k, k ≠ b → t.bind k = a.bind k))

/-- VARIANT_ADD installs a variant and pins its runs; VARIANT_REMOVE takes it away. R140, R142, R403. -/
def Obligations.VariantsComeAndGo : Prop :=
  ∀ (c : Cmd) (s : State),
    let b := LBindCmd.BINDING.get c.body
    let v := LBindCmd.VARIANT.get c.body
    (granted 0x0011 (bodyOp 2) s c = true → (opVariantAdd c (atApplication s c)).2 = St.ok →
      Succeeds (.variantAdd c) c s (fun a t =>
        Tab.get (t.bind b).variants ⟨0, 0⟩ v = ⟨LBindCmd.VLEN.get c.body, LBindCmd.VPT.get c.body⟩ ∧
        (∀ runs, variantRuns a (a.bind b).brec (LBindCmd.VLEN.get c.body) (LBindCmd.VPT.get c.body) = some runs →
          ∀ r ∈ runs, LRunRec.PINNED.on (runRec (t.bind b) r.1 r.2) = true) ∧
        (∀ k, k ≠ b → t.bind k = a.bind k))) ∧
    (granted 0x0011 (bodyOp 3) s c = true → (opVariantRemove c (atApplication s c)).2 = St.ok →
      Succeeds (.variantRemove c) c s (fun a t =>
        Tab.get (t.bind b).variants ⟨0, 0⟩ v = ⟨0, 0⟩ ∧ (∀ k, k ≠ b → (t.bind k).variants = (a.bind k).variants)))

/-- BIND CLEAR clears FAULTED, UNBIND empties the binding, MOULD stores its record. R53, R398, R403, R404, R412. -/
def Obligations.ClearUnbindAndMould : Prop :=
  ∀ (c : Cmd) (s : State),
    (let b := LBindCmd.BINDING.get c.body
     granted 0x0011 (bodyOp 4) s c = true → (opBindClear c (atApplication s c)).2 = St.ok →
      Succeeds (.bindClear c) c s (fun a t =>
        bFaulted (t.bind b) = false ∧ (t.bind b).loaded = true ∧ (t.bind b).brec = (a.bind b).brec ∧
        bTurn (t.bind b) = bTurn (a.bind b) ∧ (∀ k, k ≠ b → bFaulted (t.bind k) = bFaulted (a.bind k)))) ∧
    (let b := (c.body.extractLsb' 0 4).toNat
     granted 0x0012 anyOp s c = true → unbindStatus (atApplication s c) c = St.ok →
      Succeeds (.unbind c) c s (fun _ t => t.bind b = Bind.reset ∧
        ∀ n, n < 64 → (LSeatBnd.ATTACHED.get (t.seat n).bnd).testBit b = false ∧
          (LSeatBnd.OWNS.get (t.seat n).bnd).testBit b = false)) ∧
    (let b := (c.body.extractLsb' 0 4).toNat
     let full := c.payload.extractLsb' 0 1152
     let m : BitVec 1152 := BitVec.ofNat 1152 (full.toNat % 2 ^ (128 + 128 * min 8 (LMouldHd.NSTAGE.get (mouldHead full))))
     granted 0x0013 anyOp s c = true → (opMould c (atApplication s c)).2.status = St.ok →
      Succeeds (.mould c) c s (fun a t =>
        Tab.get (t.bind b).moulds 0#1152 (mouldNumber m) = m ∧
        (∀ k, k ≠ mouldNumber m → Tab.get (t.bind b).moulds 0#1152 k = Tab.get (a.bind b).moulds 0#1152 k) ∧
        (∀ k, k ≠ b → t.bind k = a.bind k)))

/-- STAKE: ASSIGN, UPDATE and RELEASE write the terms of the named stake alone. R290, R291, R294, R295. -/
def Obligations.StakeTermsAreWritten : Prop :=
  ∀ (c : Cmd) (s : State),
    let n := LStakeCmd.STAKE.get c.body
    let others := fun (a t : State) => ∀ k, k ≠ n → LStake.ON.get (t.stake k) = LStake.ON.get (a.stake k) ∧
      LStake.SEAT.get (t.stake k) = LStake.SEAT.get (a.stake k) ∧ LStake.PF_WT.get (t.stake k) = LStake.PF_WT.get (a.stake k) ∧
      LStake.RATE.get (t.stake k) = LStake.RATE.get (a.stake k) ∧ LStake.BURST.get (t.stake k) = LStake.BURST.get (a.stake k)
    stakeStatus (atApplication s c) c = St.ok →
    (granted 0x0020 (bodyOp 1) s c = true →
      Succeeds (.stakeAssign c) c s (fun a t =>
        LStake.ON.get (t.stake n) = 1 ∧ LStake.SEAT.get (t.stake n) = LStakeCmd.SEAT.get c.body ∧
        LStake.PF_WT.get (t.stake n) = LStakeCmd.PF_WT.get c.body ∧ LStake.RATE.get (t.stake n) = LStakeCmd.RATE.get c.body ∧
        LStake.LEVEL.get (t.stake n) = stakeBurst c * 65536 ∧ LStake.T_REFILL.get (t.stake n) = now a ∧ others a t)) ∧
    (granted 0x0020 (bodyOp 2) s c = true →
      Succeeds (.stakeUpdate c) c s (fun a t =>
        let cap : Int := (stakeBurst c * 65536 : Nat)
        LStake.PF_WT.get (t.stake n) = LStakeCmd.PF_WT.get c.body ∧ LStake.RATE.get (t.stake n) = LStakeCmd.RATE.get c.body ∧
        LStake.BURST.get (t.stake n) = stakeBurst c ∧ LStake.T_REFILL.get (t.stake n) = now a ∧
        LStake.LEVEL.getInt (t.stake n) = max (-cap) (min cap (LStake.LEVEL.getInt (refillRec (a.stake n) (now a)))) ∧
        others a t)) ∧
    (granted 0x0020 (bodyOp 3) s c = true →
      Succeeds (.stakeRelease c) c s (fun a t => t.stake n = 0#512 ∧ others a t))

/-- SEAT_SET: each operation writes its own setting of the seat. R119, R417 to R419. -/
def Obligations.SeatSetWritesOneSetting : Prop :=
  ∀ (c : Cmd) (s : State),
    let n := LSeatSet.SEAT.get c.body
    let b := LSeatSet.BINDING.get c.body
    let k := 8 * LSeatSet.TIER.get c.body + LSeatSet.INDEX.get c.body
    seatSetStatus (atApplication s c) c = St.ok →
    (granted 0x0021 (bodyOp 1) s c = true →
      Succeeds (.seatSetWindow c) c s (fun a t =>
        Tab.get (t.seat n).win 0#128 k = newWindow c ∧
        (∀ j, j ≠ k → Tab.get (t.seat n).win 0#128 j = Tab.get (a.seat n).win 0#128 j) ∧
        (t.seat n).quota = (a.seat n).quota ∧ (t.seat n).cfg = (a.seat n).cfg)) ∧
    (granted 0x0021 (bodyOp 2) s c = true →
      Succeeds (.seatSetQuota c) c s (fun a t =>
        (∀ i, i < 6 → Tab.get (t.seat n).quota 0 i = newQuota c i) ∧ (t.seat n).win = (a.seat n).win ∧ (t.seat n).cfg = (a.seat n).cfg)) ∧
    (granted 0x0021 (bodyOp 3) s c = true →
      Succeeds (.seatSetConfig c) c s (fun a t =>
        (t.seat n).cfg = seatData c 0 ∧ (t.seat n).win = (a.seat n).win ∧ (t.seat n).quota = (a.seat n).quota)) ∧
    (granted 0x0021 (bodyOp 4) s c = true →
      Succeeds (.seatSetAttach c) c s (fun a t =>
        (LSeatBnd.ATTACHED.get (t.seat n).bnd).testBit b = true ∧ LSeatBnd.OWNS.get (t.seat n).bnd = LSeatBnd.OWNS.get (a.seat n).bnd)) ∧
    (granted 0x0021 (bodyOp 5) s c = true →
      Succeeds (.seatSetDetach c) c s (fun a t =>
        (LSeatBnd.ATTACHED.get (t.seat n).bnd).testBit b = false ∧ LSeatBnd.OWNS.get (t.seat n).bnd = LSeatBnd.OWNS.get (a.seat n).bnd)) ∧
    (granted 0x0021 (bodyOp 6) s c = true →
      Succeeds (.seatSetRisers c) c s (fun a t => t.bank.riserSlots = (seatData c 0).toNat ∧ t.bank.riserSets = a.bank.riserSets))

/-- SEAT_RESET sets RESETTING and counts; SEAT_RESET_COMPLETE clears it. R421 to R425. -/
def Obligations.SeatResetRunsAndEnds : Prop :=
  ∀ (c : Cmd) (s : State) (n : Nat),
    (granted 0x0022 anyOp s c = true → seatResetStatus (atApplication s c) c = St.ok →
      Succeeds (.seatReset c) c s (fun a t =>
        LSeatCfg.RESETTING.get (t.seat (resetTarget c)).cfg = 1 ∧
        Tab.get (t.seat (resetTarget c)).ctr 0#64 0x300 = Tab.get (a.seat (resetTarget c)).ctr 0#64 0x300 + 1)) ∧
    (running .banker s = true → resetDone s n = true →
      Runs (.seatResetComplete n) s (fun t =>
        t.seat n = { s.seat n with cfg := LSeatCfg.RESETTING.set (s.seat n).cfg 0 } ∧
        LSeatCfg.RESETTING.get (t.seat n).cfg = 0 ∧ (∀ k, k ≠ n → t.seat k = s.seat k) ∧ OnlyChanges [.seats] s t))

/-- PLAN gives the chip the place that its identity digest has in the plan. R345. -/
def Obligations.PlanGivesTheChipItsPlace : Prop :=
  ∀ (c : Cmd) (s : State) (r : BitVec 128),
    let ylen := (c.body.extractLsb' 0 5).toNat
    granted 0x0030 anyOp s c = true → (opPlan c (atApplication s c)).2.status = St.ok →
    (planRecs c ylen).find? (fun r => LPlanRec.DIGEST.get r == identDigest (atApplication s c)) = some r →
    Succeeds (.plan c) c s (fun _ t =>
      t.fab.plan = planRecs c ylen ∧ LFabId.CHIP.get t.fab.fabId = LPlanRec.X.get r + 4 * LPlanRec.Y.get r ∧
      LFabId.VALID.get t.fab.fabId = 1 ∧ LFabId.MODE.get t.fab.fabId = 1 ∧ LFabId.YLEN.get t.fab.fabId = ylen)

/-- SLICE: what each operation does to the slice, its marks and the cut set. R356 to R359, R362, R373. -/
def Obligations.SliceCommandsActOnTheBlock : Prop :=
  ∀ (c : Cmd) (s : State),
    let y := LSliceCmd.CUT_Y.get c.body
    sliceStatus (atApplication s c) c = St.ok →
    (granted 0x0031 (bodyOp 1) s c = true →
      Succeeds (.sliceForm c) c s (fun a t =>
        let w := t.fab.slice
        let lead := leaderOf (formed a c)
        LFabId.STAG.get t.fab.fabId = LSliceCmd.STAG.get c.body ∧ t.fab.formBody = c.body.extractLsb' 0 256 ∧
        sliceState t = (if ownChip a = lead ∧ sliceSize (formed a c) ≤ 1 then 2 else 1) ∧
        LSliceSt.LEADER.get w = (if ownChip a = lead then 1 else 0) ∧ LSliceSt.LEADER_CHIP.get w = lead % 4096 ∧
        LSliceSt.X0.get w = LSliceCmd.X0.get c.body ∧ LSliceSt.Y0.get w = LSliceCmd.Y0.get c.body ∧
        LSliceSt.Z0.get w = LSliceCmd.Z0.get c.body ∧ LSliceSt.NX.get w = LSliceCmd.NX.get c.body ∧
        LSliceSt.NY.get w = LSliceCmd.NY.get c.body ∧ LSliceSt.NZ.get w = LSliceCmd.NZ.get c.body ∧
        LSliceSt.WRAP.get w = LSliceCmd.WRAP.get c.body ∧ LSliceSt.BINDINGS.get w = LSliceCmd.BINDINGS.get c.body)) ∧
    (granted 0x0031 (bodyOp 2) s c = true →
      Succeeds (.sliceDissolve c) c s (fun a t =>
        sliceState t = 0 ∧ LFabId.STAG.get t.fab.fabId = 0 ∧ cutMask t = cutMask a ∧
        (∀ b, b ∈ sliceBinds a → (a.bind b).loaded = true → bFaulted (t.bind b) = true))) ∧
    (granted 0x0031 (bodyOp 3) s c = true →
      Succeeds (.sliceHold c) c s (fun a t => (∀ b, b ∈ sliceBinds a → (t.bind b).marks = (a.bind b).marks ||| 1) ∧
        (∀ b, b ∉ sliceBinds a → t.bind b = a.bind b))) ∧
    (granted 0x0031 (bodyOp 4) s c = true →
      Succeeds (.sliceContinue c) c s (fun a t => sliceState t = 2 ∧
        (∀ b, b ∈ sliceBinds a → (t.bind b).marks = (a.bind b).marks &&& 2))) ∧
    (granted 0x0031 (bodyOp 5) s c = true →
      Succeeds (.sliceReset c) c s (fun a t => (∀ b, b ∈ sliceBinds a → (t.bind b).marks = (a.bind b).marks ||| 2) ∧
        (∀ b, b ∉ sliceBinds a → t.bind b = a.bind b))) ∧
    (granted 0x0031 (bodyOp 6) s c = true →
      Succeeds (.sliceCut c) c s (fun a t => cutMask t = cutMask a ||| 2 ^ y)) ∧
    (granted 0x0031 (bodyOp 7) s c = true →
      Succeeds (.sliceUncut c) c s (fun a t => cutMask t = cutMask a &&& (65535 - 2 ^ y)))

/-- MIRROR: PAIR begins a pair, UNPAIR ends it, TAKEOVER makes the partner the owner. R375, R376, R380. -/
def Obligations.MirrorPairsUnpairsTakesOver : Prop :=
  ∀ (c : Cmd) (s : State),
    let n := mirSeat c
    mirStatus (atApplication s c) c = St.ok →
    (granted 0x0032 (bodyOp 1) s c = true →
      Succeeds (.mirrorPair c) c s (fun a t =>
        mirState t n = 1 ∧ mirRole t n = LMirCmd.ROLE.get c.body ∧ LMirSt.PEER.get (t.mir n).state = LMirCmd.PEER.get c.body ∧
        (t.mir n).since = now a ∧ (∀ k, k ≠ n → t.mir k = a.mir k) ∧
        .mirror (LMirCmd.PEER.get c.body) n 2 (LMirCmd.ROLE.get c.body) (mirDigest a n) ∈ t.out)) ∧
    (granted 0x0032 (bodyOp 2) s c = true →
      Succeeds (.mirrorUnpair c) c s (fun a t =>
        mirState t n = 0 ∧ LMirSt.LAST_STATUS.get (t.mir n).state = LMirSt.LAST_STATUS.get (a.mir n).state ∧
        (t.mir n).ctr = (a.mir n).ctr ∧ (∀ k, k ≠ n → t.mir k = a.mir k))) ∧
    (granted 0x0032 (bodyOp 3) s c = true →
      Succeeds (.mirrorTakeover c) c s (fun a t => mirState t n = 6 ∧ (t.mir n).journal = [] ∧ (t.mir n).sealed = [] ∧
        (∀ k, k ∈ seatSlots a n → (t.rx k).tRef = now a)))

/-- TALLY writes its section; IDENT and ATTEST fill the payload window. R405 to R407, R433, R438 to R440. The key's
private exponent is a fuse of the model's own (log entry 7). -/
def Obligations.TallyIdentAttestReport : Prop :=
  ∀ (c : Cmd) (s : State),
    (granted 0x0040 anyOp s c = true → tallyStatus (atApplication s c) c = St.ok →
      let a := atApplication s c
      let bs := tallyBytes a (tallySec c) (tallyIdx c) c.seat
      let k := keyOf a (tallyDest c)
      let unit := 3 * 4096
      let late : LateRsp := ⟨cmdMb c, false, bturnOf a c, a.bank.lastApplied, St.ok, k⟩
      (∀ chip off, placeOf a (tallyDest c) = .chip chip off →
        let goes := mayIssue a unit chip 3 true && !flowHeld a.fab.held unit chip 3
        Runs (.tally c) s (fun t => t.mem = a.mem ∧
          Tab.get t.fab.seqs 0 (seqSlot unit chip 3) = (Tab.get a.fab.seqs 0 (seqSlot unit chip 3) + 8) % 65536 ∧
          (goes = false → late ∈ t.bank.late ∧ t.fab.held.length = a.fab.held.length + 8) ∧
          (goes = true → outPort a 6 chip = none → Answered c St.noroute s t) ∧
          (goes = true → ∀ o, outPort a 6 chip = some o → late ∈ t.bank.late ∧ ((bulkStage a 0).waiting = [] →
            (t.port o).queue.length + (bulkStage t 0).waiting.length = (a.port o).queue.length + 8)))) ∧
      ((∀ chip off, placeOf a (tallyDest c) ≠ .chip chip off) →
        (extStatus a k 4096 true ≠ St.ok → ∃ t, exec (.tally c) s = .next t ∧ Answered c (extStatus a k 4096 true) s t ∧
          t.mem = s.mem) ∧
        (extStatus a k 4096 true = St.ok → deferRoom a k bs = true → (isT2 k = true → noDefer a k 4096 = true) →
          holderOf a k 4096 = none → Succeeds (.tally c) c s (fun _ t => readBytes t k 4096 = bs ∧
            (∀ j, j < k ∨ k + 4096 ≤ j → memByte t j = memByte s j))) ∧
        (extStatus a k 4096 true = St.ok → deferRoom a k bs = false → Runs (.tally c) s (fun t => late ∈ t.bank.late ∧ t.mem = s.mem ∧
          ∀ e, e ∈ piecesOf k bs → ∃ x, x ∈ Tab.get (bankGroup t (e.1 / ingotSize) (pageBg (offPage (e.1 % ingotSize)))).queues [] 4 ∧
            x.req.off = e.1 % ingotSize ∧ x.req.data = BitVec.ofNat 512 (ofBytes e.2))))) ∧
    (granted 0x0041 anyOp s c = true → c.body = 0#1792 →
      Succeeds (.ident c) c s (fun a t =>
        (t.mbox (cmdMb c)).payload = (payWindow [(0, bytesOf 0x10000 4 ++ bytesOf 216 4), (0x008, bytesOf (identDigest a) 8),
          (0x010, bytesOf (identHash a).toNat 32), (0x040, identBytes a)]).getD 0#28672 ∧ ButAnswer a t)) ∧
    (granted 0x0041 anyOp s c = true → c.body = 1#1792 →
      Succeeds (.ident c) c s (fun a t =>
        (t.mbox (cmdMb c)).payload = (payWindow [(0, bytesOf 0x10001 4), (0x008, bytesOf (identDigest a) 8),
          (0x010, bytesOf (identHash a).toNat 32), (0x030, bytesOf a.fuses.attKey.toNat 384), (0x1B0, bytesOf 65537 4),
          (0x200, bytesOf a.fuses.vendSig.toNat 384)]).getD 0#28672 ∧ ButAnswer a t)) ∧
    (granted 0x0042 anyOp s c = true → bodyAbove c 256 = false →
      Succeeds (.attest c) c s (fun a t =>
        let q := quoteHead a (c.body.extractLsb' 0 256).toNat
        (t.mbox (cmdMb c)).payload = (payWindow [(0, q), (0x100,
          bytesOf (rsaSign a.fuses.attKey.toNat a.fuses.attExp.toNat (sha256 q)) 384)]).getD 0#28672 ∧
        ButAnswer a t))

/-- PROBE: the challenge, its one use, the source and OFF. R465 to R468. -/
def Obligations.ProbeUnlocksOnlyByChallenge : Prop :=
  ∀ (c : Cmd) (s : State), c.seat = 0 → probeForm c = true →
    (granted 0x0043 (bodyOp 1) s c = true →
      Succeeds (.probeChallenge c) c s (fun a t =>
        t.bank.challenge = some (Config.challenge a.bank.drawn) ∧ t.bank.drawn = a.bank.drawn + 1 ∧ t.bank.debug = a.bank.debug)) ∧
    (granted 0x0043 (bodyOp 2) s c = true → unlockStatus (atApplication s c) c = St.ok →
      Succeeds (.probeUnlock c) c s (fun _ t =>
        t.bank.challenge = none ∧ t.bank.debug = true ∧ LSbFault.DEBUG.get t.pins.sbFault = 1)) ∧
    (granted 0x0043 (bodyOp 3) s c = true → s.bank.debug = true → LProbe.INDEX.get c.body < probeSources (LProbe.KIND.get c.body) →
      Succeeds (.probeSelect c) c s (fun a t =>
        t.pins.probeSel = some (LProbe.KIND.get c.body, LProbe.INDEX.get c.body) ∧
        t.pins.probeSeen = probeCounts a (LProbe.KIND.get c.body) (LProbe.INDEX.get c.body))) ∧
    (granted 0x0043 (bodyOp 4) s c = true →
      Succeeds (.probeOff c) c s (fun _ t => t.pins.probeSel = none ∧ t.pins.prb = 0#8))

/-- The mailbox service: OWN, the grant, long and held commands. R24, R385, R386, R392 to R394. -/
def Obligations.MailboxServiceGrantsInTurn : Prop :=
  ∀ (s : State) (n k seat m : Nat),
    let mb := 4 * seat + m
    let late := fun (x : Nat) (t : State) => ∃ r, r ∈ t.bank.late ∧ r.mbox = x
    let known := fun (c : Cmd) => (opOf (cmdOpcode c)).isSome
    let held := fun (t : State) (x : Nat) => t.bank.held = s.bank.held ++ [x] ∧ LMbCtrl.HELD.get (t.mbox x).ctrl = 1
    (running .power s = true → avkinUp s = true → n < 64 → seat < 64 → m < 4 →
      ctlStatus s n true (0x100000 + 8 * (4 * seat + m)) 8 = St.ok →
      Runs (.mbCtrlOwnSet n seat m) s (fun t => LMbCtrl.OWN.get (t.mbox (4 * seat + m)).ctrl = 1 ∧
        (∀ j, j ≠ 4 * seat + m → t.mbox j = s.mbox j) ∧ OnlyChanges [.mboxes, .out] s t)) ∧
    (running .banker s = true → nextGrant s = some k →
      (isLong (cmdOf s k) = true → Runs .mailboxGrant s (fun t => t.bank.prep = s.bank.prep ++ [k] ∧
        t.bank.ptr = (k + 1) % 256 ∧ LMbCtrl.ACTIVE.get (t.mbox k).ctrl = 1)) ∧
      (isLong (cmdOf s k) = false → known (cmdOf s k) = true → mustHold s (cmdOf s k) = true →
        Runs .mailboxGrant s (fun t => held t k ∧ t.bank.ptr = (k + 1) % 256)) ∧
      (isLong (cmdOf s k) = false → (known (cmdOf s k) && mustHold s (cmdOf s k)) = false →
        ∃ st t, exec .mailboxGrant s = .next t ∧ (Answered (cmdOf s k) st s t ∨ late k t) ∧ t.bank.ptr = (k + 1) % 256)) ∧
    (running .banker s = true → nextGrant s = none → Runs .mailboxGrant s (fun t => t = s)) ∧
    (running .banker s = true → seat < 64 → m < 4 → onCore s mb = true → heldReady s = false →
      ((known (cmdOf s mb) && mustHold s (cmdOf s mb)) = true → Runs (.longCommandPrepared seat m) s (fun t => held t mb ∧
        t.bank.prep = s.bank.prep.erase mb)) ∧
      ((known (cmdOf s mb) && mustHold s (cmdOf s mb)) = false → ∃ st t, exec (.longCommandPrepared seat m) s = .next t ∧
        (Answered (cmdOf s mb) st s t ∨ late mb t) ∧ t.bank.prep = s.bank.prep.erase mb)) ∧
    (running .banker s = true → nextHeld s = some k → known (cmdOf s k) = true →
      ∃ st t, exec .heldCommandApply s = .next t ∧
        (Answered (cmdOf s k) st s t ∧ LRspHd.WASHELD.get (t.mbox k).rsp = 1 ∨ ∃ r, r ∈ t.bank.late ∧ r.mbox = k ∧ r.held = true) ∧
        t.bank.held = s.bank.held.erase k)

/-- The named register writes of the Avkin link set the writable fields. R78, R257, R368, R383, R384. -/
def Obligations.RegisterWritesReachTheirField : Prop :=
  ∀ (s : State) (n i off len : Nat) (v : W64) (data : BitVec 512), running .power s = true → avkinUp s = true → n < 64 →
    (i < 16 → ctlStatus s n true (0x120008 + 0x1000 * i) 8 = St.ok →
      Runs (.govLimitWrite n i v) s (fun t => (t.ingot i).limit = govLimitOf v ∧ t.out = .avkin St.ok [] :: s.out ∧
        (∀ k, k ≠ i → t.ingot k = s.ingot k))) ∧
    (ctlStatus s n true 0x101020 8 = St.ok →
      Runs (.tierCfgWrite n v) s (fun t => t.bank.tierCfg = tierCfgOf v ∧ t.out = .avkin St.ok [] :: s.out)) ∧
    (ctlStatus s n true 0x101028 8 = St.ok →
      Runs (.timeCfgWrite n v) s (fun t => LTimeCfg.ROOT.get t.clk.cfg = LTimeCfg.ROOT.get v ∧
        LTimeCfg.ENABLE.get t.clk.cfg = LTimeCfg.ENABLE.get v ∧ t.out = .avkin St.ok [] :: s.out)) ∧
    (ctlStatus s n true off len = St.ok → Runs (.controlSpaceWrite n off len data) s (fun t =>
      t.out = .avkin St.ok [] :: s.out ∧ OnlyChanges [.clk, .seats, .mboxes, .bank, .ingots, .out] s t)) ∧
    (let word : W64 := data.extractLsb' 0 64
     let wrote := fun (o : Nat) (B : State → Prop) =>
       ctlStatus s n true o 8 = St.ok → Runs (.controlSpaceWrite n o 8 data) s B
     (i < 16 → wrote (0x120008 + 0x1000 * i) (fun t => (t.ingot i).limit = govLimitOf word)) ∧
     wrote 0x101020 (fun t => t.bank.tierCfg = tierCfgOf word) ∧
     wrote 0x101028 (fun t => LTimeCfg.ROOT.get t.clk.cfg = LTimeCfg.ROOT.get word ∧
       LTimeCfg.ENABLE.get t.clk.cfg = LTimeCfg.ENABLE.get word) ∧
     wrote 0x101080 (fun t => t.bank.events = s.bank.events &&& ~~~word) ∧
     (i < 64 → wrote (0x100800 + 8 * i) (fun t => (t.seat i).irq = (s.seat i).irq &&& ~~~word)) ∧
     (i < 32 → off < 256 → wrote (0x1000 * off + 8 * i) (fun t => (t.mbox off).req.extractLsb' (64 * i) 64 = word))) ∧
    (ctlStatus s n true off len ≠ St.ok →
      Runs (.controlSpaceWrite n off len data) s (fun t => t.out = .avkin (ctlStatus s n true off len) [] :: s.out ∧
        OnlyChanges [.out] s t))

/-- AVKIN_ACCESS: reads answer what memory holds, writes store it. R20 to R23, R66 to R72, R384, R415. -/
def Obligations.AvkinAccessesReadAndWrite : Prop :=
  ∀ (s : State) (n len : Nat) (a : W64) (data : BitVec 512), running .power s = true → avkinUp s = true → n < 64 →
    let k := keyOf s a.toNat
    let bs := bytesOf data.toNat len
    let e := fun (write : Bool) => (⟨⟨2, n, k % ingotSize, len, write, if write then data else 0#512⟩, .avkin, cdiv len 64⟩ : ExtEnt)
    let answers := fun (st : Nat) (l : List Byte) (t : State) => t.out.head? = some (.avkin st l)
    (∀ off, ctlAddr s a.toNat = some off →
      Runs (.avkinAccess n (.read a len)) s (fun t => t.out = .avkin (ctlRead s n off len).1 (ctlRead s n off len).2 :: s.out ∧
        OnlyChanges [.out] s t)) ∧
    (ctlAddr s a.toNat = none →
      (memStatus s n false a.toNat len ≠ St.ok →
        Runs (.avkinAccess n (.read a len)) s (fun t =>
          t.out = .avkin (memStatus s n false a.toNat len) [] :: s.out ∧ OnlyChanges [.seats, .out] s t)) ∧
      (memStatus s n true a.toNat len ≠ St.ok → len ≤ 64 →
        Runs (.avkinAccess n (.write a len data)) s (fun t =>
          t.out = .avkin (memStatus s n true a.toNat len) [] :: s.out ∧ OnlyChanges [.seats, .out] s t)) ∧
      (tierOf s a.toNat ≠ 3 → memStatus s n false a.toNat len = St.ok → servedNow s k 0 (e false) = true →
        (extStatus s k len false = St.ok → Runs (.avkinAccess n (.read a len)) s (fun t =>
          answers St.ok (viewBytes s k len) t ∧ t.mem = s.mem)) ∧
        (extStatus s k len false ≠ St.ok → Runs (.avkinAccess n (.read a len)) s (fun t =>
          answers (extStatus s k len false) [] t ∧ t.mem = s.mem))) ∧
      (tierOf s a.toNat ≠ 3 → memStatus s n true a.toNat len = St.ok → len ≤ 64 → servedNow s k 0 (e true) = true →
        (extStatus s k len true ≠ St.ok → Runs (.avkinAccess n (.write a len data)) s (fun t =>
          answers (extStatus s k len true) [] t ∧ t.mem = s.mem)) ∧
        (extStatus s k len true = St.ok → (isT2 k = true → noDefer s k len = true) → holderOf s k len = none →
          Runs (.avkinAccess n (.write a len data)) s (fun t => answers St.ok [] t ∧ readBytes t k len = bs ∧
            (∀ j, j < k ∨ k + len ≤ j → memByte t j = memByte s j))) ∧
        (extStatus s k len true = St.ok → allLocked s k bs = true → isT2 k = true →
          Runs (.avkinAccess n (.write a len data)) s (fun t => answers St.ok [] t ∧ viewBytes t k len = bs ∧ t.mem = s.mem))) ∧
      (∀ chip off, placeOf s a.toNat = .chip chip off →
        let next := fun (t : State) => Tab.get t.fab.seqs 0 (seqSlot avkinUnit chip 3) =
          (Tab.get s.fab.seqs 0 (seqSlot avkinUnit chip 3) + (loadParts off len).length) % 65536
        (memStatus s n false a.toNat len = St.ok →
          Runs (.avkinAccess n (.read a len)) s (fun t => next t ∧ t.mem = s.mem ∧
            (mayIssue s avkinUnit chip 3 false = false → t.fab.held.length = s.fab.held.length + (loadParts off len).length ∧
              t.fab.outstanding = s.fab.outstanding))) ∧
        (memStatus s n true a.toNat len = St.ok → len ≤ 64 →
          Runs (.avkinAccess n (.write a len data)) s (fun t => next t ∧ t.mem = s.mem))))

/-- FABRIC_LOAD, FABRIC_STORE and FABRIC_ATOMIC perform their access and answer it. R22, R328 to R332, R334, R361.
-/
def Obligations.FabricLoadStoreAtomicPerform : Prop :=
  ∀ (s : State) (port : Nat) (p : Packet), running .link s = true → arrives s port p = true → pktBad p = false →
    flowWaits p none s = false →
    let r := received s port
    let k := pktOff p
    let n := pktSpan p
    let bs := pktStored p
    let old := readNat s k 8
    let ends := fun (i : Instr) (st data : Nat) => Runs i s (fun t => Replies p st data r t ∧ t.mem = s.mem)
    let refused := fun (i : Instr) (w : Bool) =>
      (misaligned k n = true → ends i St.addr 0) ∧
      (misaligned k n = false → remoteStatus r p w k n ≠ St.ok → ends i (remoteStatus r p w k n) 0)
    let now' := fun (w : Bool) => misaligned k n = false ∧ remoteStatus r p w k n = St.ok ∧
      servedNow r k (port + 1) (packetEnt p) = true
    (LPkt.TYPE.get p.hdr = 1 → refused (.fabricLoad port p) false ∧ (now' false →
      (extStatus s k n false = St.ok → ends (.fabricLoad port p) St.ok (ofBytes (viewBytes s k n))) ∧
      (extStatus s k n false ≠ St.ok → ends (.fabricLoad port p) (extStatus s k n false) 0))) ∧
    (LPkt.TYPE.get p.hdr = 2 → refused (.fabricStore port p) true ∧ (now' true →
      (extStatus s k n true ≠ St.ok → ends (.fabricStore port p) (extStatus s k n true) 0) ∧
      (extStatus s k n true = St.ok → (isT2 k = true → noDefer s k n = true) → holderOf s k n = none →
        Runs (.fabricStore port p) s (fun t => Replies p St.ok 0 r t ∧ readBytes t k n = bs ∧
          (∀ j, j < k ∨ k + n ≤ j → memByte t j = memByte s j))) ∧
      (extStatus s k n true = St.ok → isT2 k = true → allLocked s k bs = true →
        Runs (.fabricStore port p) s (fun t => Replies p St.ok 0 r t ∧ viewBytes t k n = bs ∧ t.mem = s.mem)))) ∧
    (LPkt.TYPE.get p.hdr = 3 → refused (.fabricAtomic port p) true ∧ (now' true →
      (extStatus s k 8 false ≠ St.ok → ends (.fabricAtomic port p) (extStatus s k 8 false) 0) ∧
      (extStatus s k 8 false = St.ok → (isT2 k = true → noDefer s k 8 = true) → holderOf s k 8 = none →
        Runs (.fabricAtomic port p) s (fun t => Replies p St.ok old r t ∧
          readNat t k 8 = (atomicNew (LPkt.AOP.get p.hdr) old (LPkt.DATA.get p.hdr) (ofBytes (pktBytes p 8))).getD old ∧
          (∀ j, j < k ∨ k + 8 ≤ j → memByte t j = memByte s j)))))

/-- BULK_GET, BULK_DATA, FABRIC_ACK, FABRIC_RESPONSE and FENCE. R328 to R335. -/
def Obligations.BulkMovesAcksAndResponses : Prop :=
  ∀ (s : State) (port : Nat) (p : Packet) (unit : Nat),
    let r := received s port
    let k := pktOff p
    let n := pktSpan p
    let may := fun (w : Bool) => k % 64 = 0 ∧ remoteStatus r p w k n = St.ok ∧ servedNow r k (port + 1) (packetEnt p) = true
    let line := fun (x : State) (o : Nat) =>
      if LPkt.CLASS.get p.hdr = 3 then (bulkStage x (memoryDie (LPkt.ADDR.get p.hdr))).waiting else (x.port o).queue.map (·.2)
    (running .link s = true → arrives s port p = true → pktBad p = false →
      (LPkt.TYPE.get p.hdr = 4 → flowWaits p none s = false →
        (k % 64 ≠ 0 → Runs (.bulkGet port p) s (fun t => Replies p St.addr 0 r t ∧ t.mem = s.mem)) ∧
        (k % 64 = 0 → remoteStatus r p false k n ≠ St.ok → Runs (.bulkGet port p) s (fun t =>
          Replies p (remoteStatus r p false k n) 0 r t ∧ t.mem = s.mem)) ∧
        (may false → extStatus s k n false = St.ok → Runs (.bulkGet port p) s (fun t => t.mem = s.mem ∧
          (∀ o, outPort s 6 (LPkt.SRC.get p.hdr) = some o → (line t o).length = (line s o).length + cdiv n 512 ∧
            ∀ i, i < cdiv n 512 → ∃ e, (line t o)[(line s o).length + i]? = some e ∧
              LPkt.TYPE.get e.hdr = 7 ∧ LPkt.STATUS.get e.hdr = St.ok ∧ LPkt.DEST.get e.hdr = LPkt.SRC.get p.hdr ∧
              LPkt.SEQ.get e.hdr = LPkt.SEQ.get p.hdr ∧ LPkt.PLEN.get e.hdr = min 512 (n - 512 * i) / 64 ∧
              pktBytes e (min 512 (n - 512 * i)) = viewBytes s (k + 512 * i) (min 512 (n - 512 * i)))))) ∧
      (LPkt.TYPE.get p.hdr = 5 → LPkt.BLEN.get p.hdr ≠ 0 → flowWaits p none s = false →
        (k % 64 ≠ 0 ∨ remoteStatus r p true k n ≠ St.ok → Runs (.bulkData port p) s (fun t => t.mem = s.mem)) ∧
        (may true → extStatus s k n true = St.ok → (isT2 k = true → noDefer s k n = true) → holderOf s k n = none →
          Runs (.bulkData port p) s (fun t => readBytes t k n = pktBytes p n ∧
            (∀ j, j < k ∨ k + n ≤ j → memByte t j = memByte s j) ∧
            (LPkt.BLEN.get p.hdr ≤ LPkt.PLEN.get p.hdr → Replies p St.ok 0 r t ∧ t.fab.bulkIn.any (sameBulk p) = false) ∧
            (LPkt.PLEN.get p.hdr < LPkt.BLEN.get p.hdr → ⟨LPkt.SRC.get p.hdr, LPkt.UNIT.get p.hdr, LPkt.CLASS.get p.hdr,
              LPkt.BLEN.get p.hdr * 64 - n, St.ok⟩ ∈ t.fab.bulkIn)))) ∧
      (LPkt.TYPE.get p.hdr = 6 → Runs (.fabricAck port p) s (fun t =>
        let hit := fun (q : FabReq) => ackFlow p q && (seqLe q.seq (LPkt.SEQ.get p.hdr) || ackInside p q)
        t.fab.outstanding = s.fab.outstanding.filter (fun q => !hit q) ∧
        (∀ q, q ∈ s.fab.outstanding → hit q = true → .done q.unit q.seq
          (if q.seq = LPkt.SEQ.get p.hdr || ackInside p q then LPkt.STATUS.get p.hdr else St.ok) [] ∈ t.out))) ∧
      (LPkt.TYPE.get p.hdr = 7 →
        (responseOf s p = none ∨ responseWaits p s ≠ none → Runs (.fabricResponse port p) s (fun t =>
          t.fab.outstanding = s.fab.outstanding ∧ t.mem = s.mem ∧ t.out = s.out)) ∧
        (∀ q, responseOf s p = some q → responseWaits p s = none →
          (q.left = 0 → LPkt.STATUS.get p.hdr = St.ok → Runs (.fabricResponse port p) s (fun t =>
            .done q.unit q.seq St.ok (bytesOf (LPkt.DATA.get p.hdr) 8) ∈ t.out ∧ t.fab.outstanding = s.fab.outstanding.erase q)) ∧
          (LPkt.STATUS.get p.hdr ≠ St.ok → Runs (.fabricResponse port p) s (fun t =>
            .done q.unit q.seq (LPkt.STATUS.get p.hdr) [] ∈ t.out ∧ t.mem = s.mem)) ∧
          (let m := min q.left (LPkt.PLEN.get p.hdr * 64)
           q.left ≠ 0 → LPkt.STATUS.get p.hdr = St.ok →
            (pageStatus s q.dst m ≠ St.ok → Runs (.fabricResponse port p) s (fun t =>
              .done q.unit q.seq (pageStatus s q.dst m) [] ∈ t.out ∧ t.mem = s.mem)) ∧
            (pageStatus s q.dst m = St.ok → noDefer s q.dst m = true → holderOf s q.dst m = none →
              Runs (.fabricResponse port p) s (fun t => readBytes t q.dst m = pktBytes p m ∧
                (∀ j, j < q.dst ∨ q.dst + m ≤ j → memByte t j = memByte s j) ∧
                (q.left ≤ m → .done q.unit q.seq St.ok [] ∈ t.out))))))) ∧
    (running .banker s = true → unit < 5 * 4096 → s.fab.fences.any (fun f => f.unit == unit) = false →
      (s.fab.held.any (fun h => h.req.unit == unit) = true → Runs (.fence unit) s (fun t => t = s)) ∧
      (s.fab.held.any (fun h => h.req.unit == unit) = false → s.fab.outstanding.any (fun q => q.unit == unit) = false →
        Runs (.fence unit) s (fun t => .done unit 0x10000 St.ok [] ∈ t.out ∧ t.fab.fences.any (fun f => f.unit == unit) = false)) ∧
      (s.fab.held.any (fun h => h.req.unit == unit) = false → s.fab.outstanding.any (fun q => q.unit == unit) = true →
        Runs (.fence unit) s (fun t => t.fab.fences.any (fun f => f.unit == unit) = true)))

/-- PACKET_FORWARD: discard, tag check, queue or drop. R329, R338, R340 to R342, R352, R361. -/
def Obligations.ForwardedPacketsKeepTheirWay : Prop :=
  ∀ (s : State) (port : Nat) (p : Packet), running .link s = true → port < 6 → isMatch s port = true →
    LPkt.DEST.get p.hdr ≠ ownChip s →
    let r := received s port
    let counted := fun (t : State) (k : Nat) => Tab.get (t.port port).ctr 0#64 k = Tab.get (s.port port).ctr 0#64 k + 1
    let again := (answerTo p St.noroute 0 0 0#4096).any (fun q => (outPort s 6 (LPkt.DEST.get q.hdr)).isNone &&
      LPkt.DEST.get q.hdr != ownChip s && lostPort s q 6 == port && LPkt.SRC.get p.hdr != ownChip s)
    let dropped := fun (t : State) =>
      Tab.get (t.port port).ctr 0#64 0x028 = Tab.get (s.port port).ctr 0#64 0x028 + (if again then 2#64 else 1#64)
    (pktBad p = true → Runs (.packetForward port p) s (fun t => counted t 0x038 ∧ Replies p St.packet 0 r t)) ∧
    (pktBad p = false → LPkt.STAG.get p.hdr ≠ ownTag s → Runs (.packetForward port p) s (fun t =>
      counted t 0x030 ∧ dropped t ∧ Replies p St.noroute 0 r t)) ∧
    (pktBad p = false → LPkt.STAG.get p.hdr = ownTag s →
      (∀ out, outPort s port (LPkt.DEST.get p.hdr) = some out → Runs (.packetForward port p) s (fun t =>
        (t.port out).queue = (s.port out).queue ++
          [(routerInput port (packetDie p) out, { p with hdr := LPkt.VC.set p.hdr (nextVc s p port out) })] ∧
        (∀ k, k ≠ out → (t.port k).queue = (s.port k).queue))) ∧
      (outPort s port (LPkt.DEST.get p.hdr) = none → Runs (.packetForward port p) s (fun t =>
        dropped t ∧ Replies p St.noroute 0 r t)))

/-- Torus and Avkin links: training, its loss, LINKID, errors and new attempts. R343, R346, R347, R476 to R478. -/
def Obligations.LinksTrainAndFail : Prop :=
  ∀ (s : State) (p : Nat) (w : BitVec 256) (seq : Nat) (crcOk ok : Bool), running .link s = true →
    (p < 7 → (s.port p).trained = false → Runs (.linkTrained p) s (fun t => (t.port p).trained = true ∧
      LLinkHl.TRAIN_TEMP.get (t.port p).health = linkTemp s p % 256)) ∧
    (p < 6 → (s.port p).trained = true → Runs (.linkTrainingLost p) s (fun t =>
      (t.port p).trained = false ∧ (t.port p).seen = none)) ∧
    (p < 6 → (s.port p).trained = true → Runs (.linkid p w) s (fun t =>
      (t.port p).seen = if linkidOk w then some w else (s.port p).seen)) ∧
    (p < 7 → (s.port p).trained = true → (crcOk && seq % 4096 == (s.port p).expect) = false →
      Runs (.linkPacketError p seq crcOk) s (fun t =>
        if (s.port p).tries ≠ 0 ∧ seq % 4096 ≠ (s.port p).expect then (t.port p).tries = (s.port p).tries ∧ t.out = s.out ∧
          Tab.get (t.port p).ctr 0#64 0x050 = Tab.get (s.port p).ctr 0#64 0x050 + 1
        else if (s.port p).tries + 1 ≥ 8 then (t.port p).trained = false ∧ LLinkHl.TRAINING.get (t.port p).health = 1
        else (t.port p).tries = (s.port p).tries + 1 ∧ t.out = .replay p (s.port p).expect :: s.out ∧
          Tab.get (t.port p).ctr 0#64 0x050 = Tab.get (s.port p).ctr 0#64 0x050 + 1)) ∧
    (p < 6 → LLinkHl.TRAINING.on (s.port p).health = true → (s.port p).attempt ≤ now s →
      Runs (.torusTrainingAttempt p ok) s (fun t =>
        if ok then (t.port p).trained = true ∧ LLinkHl.TRAINING.get (t.port p).health = 0
        else (t.port p).attempt = now s + 100000000 ∧ (∀ k, k ≠ p → t.port k = s.port k)))

/-- Lanes: burst replays, lane tests, spare retraining, hand-overs, link lanes. R58, R478 to R484. -/
def Obligations.LanesAreReplacedOneByOne : Prop :=
  ∀ (s : State) (i c p : Nat) (data : BitVec 512) (crc : W16),
    (running .refresh s = true → i < 16 → c < 96 → crc16 data ≠ crc → Runs (.channelBurstCrcError i c data crc) s (fun t =>
      if Tab.get (s.ingot i).tries 0 c + 1 < 8 then
        Tab.get (t.ingot i).tries 0 c = Tab.get (s.ingot i).tries 0 c + 1 ∧ t.out = .burstReplay i c :: s.out
      else Tab.get (t.ingot i).tries 0 c = 0 ∧ .done i c St.link [] ∈ t.out)) ∧
    (running .refresh s = true → i < 16 → c < 96 → crc16 data = crc → Runs (.channelBurstCrcError i c data crc) s (fun t =>
      Tab.get (t.ingot i).tries 0 c = 0 ∧ t.mem = s.mem)) ∧
    (running .refresh s = true → Runs .laneTest s (fun t => ∀ k, k < 16 → (t.ingot k).replays = [])) ∧
    (running .refresh s = true → i < 16 → c < 96 → Tab.get (s.ingot i).retrain (64, 0) c ≠ (64, 0) →
      Runs (.spareRetrainDone i c true) s (fun t => Tab.get (t.ingot i).retrain (64, 0) c = (64, 0) ∧
        LLaneSt.RETRAINS.get (laneWord t i c) = LLaneSt.RETRAINS.get (LLaneSt.RETRAINS.bump (laneWord s i c))) ∧
      ((Tab.get (s.ingot i).retrain (64, 0) c).2 < 2 → Runs (.spareRetrainDone i c false) s (fun t =>
        (Tab.get (t.ingot i).retrain (64, 0) c).2 = (Tab.get (s.ingot i).retrain (64, 0) c).2 + 1))) ∧
    (running .refresh s = true → handoverOk i c s = true → Runs (.laneHandover i c) s (fun t =>
      let w := laneWord s i c
      LLaneSt.SPARE.get (laneWord t i c) = (if LLaneSt.DOWN.on w then LLaneSt.SPARE.get w - 1 else LLaneSt.SPARE.get w + 1) ∧
      LLaneSt.STEPS.get (laneWord t i c) = LLaneSt.STEPS.get w + 1 ∧
      Tab.get (t.ingot i).retrain (64, 0) c = (LLaneSt.SPARE.get (laneWord t i c), 0))) ∧
    (running .link s = true → LLinkHl.DERATED.on (s.port p).health = true → (s.port p).trained = true →
      let last := LLinkHl.NEXT.get (s.port p).health + 1 ≥ linkLanes s p
      (p < 7 → quiet s = true → Runs (.linkLaneRetrain p true) s (fun t =>
        (last → LLinkHl.DERATED.get (t.port p).health = 0 ∧ LLinkHl.NEXT.get (t.port p).health = 0) ∧
        (¬ last → LLinkHl.DERATED.on (t.port p).health = true ∧
          LLinkHl.NEXT.get (t.port p).health = LLinkHl.NEXT.get (s.port p).health + 1) ∧
        Tab.get (t.port p).ctr 0#64 0x060 = Tab.get (s.port p).ctr 0#64 0x060 + 1)) ∧
      (p < 6 → (s.port p).laneSince + 100000000 ≤ now s → Runs (.linkForced p true) s (fun t =>
        (last → LLinkHl.DERATED.get (t.port p).health = 0) ∧
        Tab.get (t.port p).ctr 0#64 0x068 = Tab.get (s.port p).ctr 0#64 0x068 + 1)))

/-- TIME_SYNC_EXCHANGE: hops, offset, lock and the first exchange. R365 to R368. The change of RATE is a free value
(log entry 7) and is not stated. -/
def Obligations.TimeExchangesCorrectTheClock : Prop :=
  ∀ (s : State) (t1 t2 t3 t4 h : Nat), running .link s = true → (timeParent s).isSome = true →
    Runs (.timeSyncExchange t1 t2 t3 t4 h) s (fun t =>
      let off := syncOffset t1 t2 t3 t4
      LTimeSt.HOPS.get t.clk.status = (h + 1) % 64 ∧
      LTimeSt.OFFSET.getInt t.clk.status = satInt 16 off ∧
      (off < -400 ∨ 400 < off → LTimeSt.LOCKED.get t.clk.status = 0) ∧
      (-16 ≤ off ∧ off ≤ 16 → 2 ≤ s.clk.good → LTimeSt.LOCKED.get t.clk.status = 1) ∧
      (s.clk.synced = true ∨ (loadedBinds s).isEmpty = false → t.clk.time = s.clk.time) ∧
      (s.clk.synced = false → (loadedBinds s).isEmpty = true →
        t.clk.time = BitVec.ofInt 64 ((s.clk.time.toNat : Int) + off / 4)) ∧
      t.clk.synced = true ∧
      OnlyChanges [.clk, .dirty, .bank, .reqx, .objs, .objx, .binds, .cores, .fab, .out, .free] s t)

/-- REFRESH and HM_SCRUB_READ hold their resource, move on and present what is to be written back. R24, R59, R60,
R73, R254, R469, R474, R475. -/
def Obligations.RefreshAndScrubMoveOn : Prop :=
  ∀ (s : State) (i bg base : Nat), running .refresh s = true →
    (bgOk i bg = true → refreshDue s i bg = true → Runs (.refresh i bg) s (fun t =>
      let x := bankGroup s i bg
      let k := pageKey i (x.scrub / 64 * 384 + bg) + x.scrub % 64 * 256
      (bankGroup t i bg).freeAt = max x.freeAt (pcNow s) + 54 ∧ (bankGroup t i bg).refreshTo = max x.freeAt (pcNow s) + 54 ∧
      (bankGroup t i bg).refreshRow = (x.refreshRow + 2) % 16384 ∧ (bankGroup t i bg).scrub = (x.scrub + 1) % 524288 ∧
      (∀ w, w ∈ corrWords s k 256 → ∃ e, e ∈ Tab.get (bankGroup t (w / ingotSize) (w % ingotSize / 16384 % 384)).queues [] 4 ∧
        e.src = .correct ∧ e.req.off = w % ingotSize) ∧ t.mem = s.mem)) ∧
    (hmBase ≤ base → base < sramBase → base % 256 = 0 →
      let d := hmDie base
      let x := s.hmPort d
      (x.waits = [] → x.freeAt ≤ hcNow s → Runs (.hmScrubRead base) s (fun t =>
        (t.hmPort d).freeAt = hcNow s + 1 ∧ t.mem = s.mem ∧
        (∀ w, w ∈ corrWords s base 256 → ∃ q, q ∈ (t.hmPort d).waits ∧ q.cls = 5 ∧ q.key = w ∧ q.ent.src = .correct))) ∧
      (hcNow s < x.freeAt → Runs (.hmScrubRead base) s (fun t => t.mem = s.mem ∧
        (∃ q, (t.hmPort d).waits = x.waits ++ [q] ∧ q.cls = 5 ∧ q.key = base ∧ q.ent.src = .scrub))))

/-- GOV_SENSOR_SAMPLE and GOV_INTERVAL_END: readings, duty and mode. R74 to R78, R463. -/
def Obligations.GovernorSetsDutyAndMode : Prop :=
  ∀ (s : State) (i uw : Nat) (readings : List (Option Int)), running .refresh s = true → i < 16 →
    (pcNow s % 256 = 0 → Runs (.govSensorSample i readings) s (fun t =>
      (t.ingot i).readings = (s.ingot i).readings ++ (List.range 12).map (fun d => (d, sensorTemp (readings.getD d none))) ∧
      ((∃ d, d < 12 ∧ readings.getD d none = none) → LGovSt.SENSOR_FAULT.get (t.ingot i).gov = 1) ∧
      (∀ k, k ≠ i → t.ingot k = s.ingot k))) ∧
    (pcNow s % 1024 = 0 → Runs (.govIntervalEnd i uw) s (fun t =>
      let x := s.ingot i
      let temp := (hottest x.readings).2
      let d := nextDuty x.duty (cdiv uw 125000) temp (LGovLim.P_LIMIT.get x.limit) (LGovLim.T_LIMIT.get x.limit)
      let m := nextMode (LGovSt.MODE.get x.gov) temp d
      (t.ingot i).duty = d ∧ (t.ingot i).readings = [] ∧ LGovSt.MODE.get (t.ingot i).gov = m ∧
      LGovSt.DUTY.get (t.ingot i).gov = (if m ≥ 2 then 0 else d % 2048) ∧
      (LSbFault.ING_TRIP.get t.pins.sbFault = 1 ↔ ∃ k, k < 16 ∧ LGovSt.MODE.get (t.ingot k).gov = 3) ∧
      (∀ k, k ≠ i → t.ingot k = s.ingot k)))

/-- EXTERNAL_ACCESS, DEFERRED_WRITE_DRAIN and LOCK_EXPIRY. R22, R59, R61, R62, R66 to R70, R76, R79. -/
def Obligations.ExternalAccessesReachTheBank : Prop :=
  ∀ (s : State) (i bg page : Nat) (r : ExtReq) (d : Deferred),
    let k := extKey i r
    let bs := extBytes r
    let e : ExtEnt := ⟨r, .interface, 1⟩
    let ends := fun (st : Nat) (l : List Byte) (B : State → Prop) => Runs (.externalAccess i bg [r]) s (fun t =>
      t.out.head? = some (.ext i r st l) ∧ B t)
    let same := fun (t : State) => t.mem = s.mem
    (running .ingot s = true → bgOk i bg = true → extOk bg r = true →
      (misaligned r.off r.len = true → Runs (.externalAccess i bg [r]) s (fun t => .ext i r St.addr [] ∈ t.out)) ∧
      (misaligned r.off r.len = false → govMode s i = 3 → Runs (.externalAccess i bg [r]) s (fun t =>
        .ext i r St.thermal [] ∈ t.out)) ∧
      (misaligned r.off r.len = false → govMode s i ≠ 3 → bankServes s i bg e = true →
        (extStatus s k r.len r.write ≠ St.ok → ends (extStatus s k r.len r.write) [] same) ∧
        (r.write = false → extStatus s k r.len false = St.ok → ends St.ok (viewBytes s k r.len) same) ∧
        (r.write = true → extStatus s k r.len true = St.ok → noDefer s k r.len = true → holderOf s k r.len = none →
          ends St.ok [] (fun t => readBytes t k r.len = bs ∧ (∀ j, j < k ∨ k + r.len ≤ j → memByte t j = memByte s j))) ∧
        (r.write = true → extStatus s k r.len true = St.ok → allLocked s k bs = true →
          ends St.ok [] (fun t => viewBytes t k r.len = bs ∧ same t))) ∧
      (misaligned r.off r.len = false → govMode s i ≠ 3 → bankIdle s i bg = true →
        ((r.queue == 2 || r.queue == 3) = true → stageIdle s i r.queue = true) →
        chanLost s i bg = false → heldByBuffer s i e = true → Runs (.externalAccess i bg [r]) s (fun t =>
          Tab.get (bankGroup t i bg).queues [] r.queue = [e] ∧ t.mem = s.mem ∧ t.out = s.out))) ∧
    (running .ingot s = true → i < 16 → bankBusy s i (pageBg page) = false →
      (s.ingot i).defer.find? (fun d => d.page == page && d.ready) = some d →
      overLimit s i (pageBg page) (if d.off % 8 = 0 && d.bytes.length % 8 == 0 then 2 else 4) = false →
      partialUncorr s (pageKey i page + d.off) d.bytes.length = false → holderOf s (pageKey i page + d.off) d.bytes.length = none →
      Runs (.deferredWriteDrain i page) s (fun t =>
        readBytes t (pageKey i page + d.off) d.bytes.length = d.bytes ∧ (t.ingot i).defer = (s.ingot i).defer.erase d ∧
        (∀ k, k < pageKey i page + d.off ∨ pageKey i page + d.off + d.bytes.length ≤ k → memByte t k = memByte s k))) ∧
    (running .refresh s = true → i < 16 → Runs (.lockExpiry i page) s (fun t =>
      (∀ l, l ∈ pageLocks (t.ingot i) page → pcNow s < l.since + lockLife) ∧
      Tab.get (t.ingot i).ctr 0#64 0x078 = Tab.get (s.ingot i).ctr 0#64 0x078 +
        BitVec.ofNat 64 ((pageLocks (s.ingot i) page).filter (fun l => decide (l.since + lockLife ≤ pcNow s))).length))

/-- DESC, DESC_MASKED, QUERY, CLOSE and RELEASE reach their crucible. R65, R94, R95, R155 to R160, R168. -/
def Obligations.DispatchPacketsAreTakenIn : Prop :=
  ∀ (s : State) (i : Nat) (via : Via) (h : BitVec 128) (d : BitVec 256) (mask : BitVec 128) (words : List W32),
    let pip := pagePip i (LDesc.PAGE.get d)
    let accepts := descBad s i d = false ∧ (s.ingot i).slotsUsed + dNq d ≤ 6144 ∧ (s.pip pip).queue.length < 8 ∧
      canLock (s.ingot i) (LDesc.PAGE.get d) (LDesc.ISSUER.get d) (LDesc.CLUSTER.get d) = true
    let acked := fun (t : State) => ∀ port hp, via = some (port, hp) → Replies ⟨hp, 0#4096⟩ St.ok 0 s t
    let joined := fun (m : Option (BitVec 128)) (t : State) =>
      (t.pip pip).queue = (s.pip pip).queue ++ [⟨d, m, entOf s i (LDesc.ISSUER.get d) (LDesc.QID.get d), false⟩] ∧
      (t.ingot i).slotsUsed = (s.ingot i).slotsUsed + dNq d ∧
      pageLocks (t.ingot i) (LDesc.PAGE.get d) = pageLocks (s.ingot i) (LDesc.PAGE.get d) ++
        [⟨LDesc.ISSUER.get d, LDesc.CLUSTER.get d, pcNow s⟩] ∧ (t.ingot i).intake = [] ∧ acked t
    let may := fun (m : Option (BitVec 128)) => dispRemote s i ⟨via.map (·.2), h, d, m, words⟩ = true
    running .arith s = true → i < 16 → LDisp.INGOT.get h = i → dispArrives s i via = true → (s.ingot i).intake = [] →
    (dispType h = 1 → dispOk h 0 = true → accepts → may none → Runs (.desc i via h d) s (joined none)) ∧
    (dispType h = 2 → dispOk h 0 = true → accepts → may (some mask) → Runs (.descMasked i via h d mask) s (joined (some mask))) ∧
    (dispType h = 3 → dispOk h words.length = true → may none → ∀ k,
      (if dispChip h = ownChip s then some (LDisp.TAG.get h % 256)
       else (boundEnt (s.ingot i) (dispChip h) (LDisp.TAG.get h % 256)).or (freeEnt (s.ingot i))) = some k →
      (qEnt (s.ingot i) k).waiting = 0 → Runs (.query i via h words) s (fun t =>
        let e := qEnt (s.ingot i) k
        let f := qEnt (t.ingot i) k
        f.words = words ++ e.words.drop words.length ∧ f.version = e.version + 1 ∧ (t.ingot i).intake = [] ∧ acked t)) ∧
    (dispType h = 4 → dispOk h 0 = true → may none → Runs (.close i via h) s (fun t =>
      (t.ingot i).groups = ((closeGroup (s.ingot i).groups (dispChip h) (dispCluster h) (LDisp.TAG.get h) (LDisp.COUNT.get h)).map
        sentGroup).filter (fun g => !groupDone g) ∧ (t.ingot i).intake = [] ∧ acked t)) ∧
    (dispType h = 5 → dispOk h 0 = true → may none → Runs (.dispatchRelease i via h) s (fun t =>
      (∀ pg k, k ∈ pageLocks (t.ingot i) pg → ¬ (k.chip = dispChip h ∧ k.cluster = dispCluster h)) ∧
      (∀ g, g ∈ (t.ingot i).groups → ¬ (g.chip = dispChip h ∧ g.cluster = dispCluster h)) ∧ (t.ingot i).intake = [] ∧ acked t))

/-- DESCRIPTOR_START and ROW_STREAM_BEAT. R24, R59, R75, R80, R90, R91, R95. -/
def Obligations.DescriptorsStartAndStream : Prop :=
  ∀ (s : State) (p : Nat) (d : PDesc) (rest : List PDesc) (st : Stream), running .arith s = true → p < 6144 →
    let i := p / 384
    ((s.pip p).running = false → (s.pip p).queue = d :: rest → Runs (.descriptorStart p) s (fun t =>
      let x := t.pip p
      x.running = true ∧ x.cur = d ∧ x.g = [] ∧ x.v = [] ∧ x.fifo = [] ∧ x.streams = [] ∧ x.rep = none ∧
      x.budget = 65536 ∧ x.emitted = 0#16 ∧
      x.pc = (Tab.get s.pipSlots ⟨0, 0, 0#256, false, 0, []⟩ (LDesc.PROG.get d.desc)).base ∧
      ((s.ingot i).intake = [] → x.queue = rest) ∧
      (∀ q, q ≠ p → (t.pip q).running = (s.pip q).running ∧ (t.pip q).cur = (s.pip q).cur ∧ (t.pip q).pc = (s.pip q).pc))) ∧
    (pipPresents s p = true → nextStream (s.pip p) = some st →
      let used := dutyUsed s (bankGroup s i (p % 384))
      let k := pageKey i (LDesc.PAGE.get (s.pip p).cur.desc) + st.off + 32 * st.stride * st.next
      (bankBusy s i (p % 384) = true → Runs (.rowStreamBeat p) s (fun t => t = s)) ∧
      (bankIdle s i (p % 384) = true →
        (LGovSt.DUTY.get (s.ingot i).gov ≤ used → Runs (.rowStreamBeat p) s (fun t => t = s)) ∧
        (used < LGovSt.DUTY.get (s.ingot i).gov → uncorrAt s k 32 = false → Runs (.rowStreamBeat p) s (fun t =>
          (t.pip p).fifo = (s.pip p).fifo ++ [readBytes s k 32] ∧ (t.pip p).streams = advance (s.pip p).streams ∧
          (bankGroup t i (p % 384)).freeAt = pcNow s + 1 ∧ t.mem = s.mem))))

/-- The pips' integer instructions write the destination register and go on. R80, R84, R85, R103. -/
def Obligations.PipIntegerInstructions : Prop :=
  ∀ (s : State) (p : Nat),
    let x := s.pip p
    let w := pipWord s p
    let b := gReg x (pipB w)
    let c := gReg x (pipC w)
    let imm := BitVec.ofNat 32 (pipImm w)
    let put := fun (v : W32) => pipGoes (setG x (pipA w) v)
    (pipReady 0x04 s p = true → PipSteps (.pipAdd p) s p (put (b + c))) ∧
    (pipReady 0x05 s p = true → PipSteps (.pipSub p) s p (put (b - c))) ∧
    (pipReady 0x06 s p = true → PipSteps (.pipAnd p) s p (put (b &&& c))) ∧
    (pipReady 0x07 s p = true → PipSteps (.pipOr p) s p (put (b ||| c))) ∧
    (pipReady 0x08 s p = true → PipSteps (.pipXor p) s p (put (b ^^^ c))) ∧
    (pipReady 0x09 s p = true → PipSteps (.pipShl p) s p (put (b <<< (c.toNat % 32)))) ∧
    (pipReady 0x0A s p = true → PipSteps (.pipShr p) s p (put (b >>> (c.toNat % 32)))) ∧
    (pipReady 0x0B s p = true → PipSteps (.pipMul p) s p (put (b * c))) ∧
    (pipReady 0x0C s p = true → PipSteps (.pipAddi p) s p (put (b + pipSextImm w))) ∧
    (pipReady 0x0D s p = true → PipSteps (.pipAndi p) s p (put (b &&& imm))) ∧
    (pipReady 0x0E s p = true → PipSteps (.pipShri p) s p (put (b >>> pipImm w))) ∧
    (pipReady 0x0F s p = true → PipSteps (.pipShli p) s p (put (b <<< pipImm w))) ∧
    (pipReady 0x10 s p = true → PipSteps (.pipLui p) s p (put (imm <<< 14)))

/-- The pips' FP32 and vector instructions write the destination register and go on. R80, R83 to R85, R103. -/
def Obligations.PipFloatAndVectorInstructions : Prop :=
  ∀ (s : State) (p : Nat),
    let x := s.pip p
    let w := pipWord s p
    let b := gReg x (pipB w)
    let c := gReg x (pipC w)
    let vb := vReg x (pipB w)
    let vc := vReg x (pipC w)
    let put := fun (v : W32) => pipGoes (setG x (pipA w) v)
    let putV := fun (f : Nat → W32) => pipGoes (setV x (pipA w) ((List.range 32).map f))
    (pipReady 0x13 s p = true → PipSteps (.pipFadd p) s p (put (f32Add b c))) ∧
    (pipReady 0x14 s p = true → PipSteps (.pipFsub p) s p (put (f32Sub b c))) ∧
    (pipReady 0x15 s p = true → PipSteps (.pipFmul p) s p (put (f32Mul b c))) ∧
    (pipReady 0x16 s p = true → PipSteps (.pipFmax p) s p (put (f32Max b c))) ∧
    (pipReady 0x17 s p = true → PipSteps (.pipFexp2 p) s p (put (f32Exp2 b))) ∧
    (pipReady 0x26 s p = true → PipSteps (.pipVzero p) s p (putV (fun _ => 0#32))) ∧
    (pipReady 0x27 s p = true → PipSteps (.pipVadd p) s p (putV (fun i => f32Add (vb.getD i 0#32) (vc.getD i 0#32)))) ∧
    (pipReady 0x28 s p = true → PipSteps (.pipVmul p) s p (putV (fun i => f32Mul (vb.getD i 0#32) (vc.getD i 0#32)))) ∧
    (pipReady 0x29 s p = true → PipSteps (.pipVfma p) s p (putV (fun i =>
      f32Fma (vb.getD i 0#32) (vc.getD i 0#32) ((vReg x (pipA w)).getD i 0#32)))) ∧
    (pipReady 0x2A s p = true → PipSteps (.pipVmax p) s p (putV (fun i => f32Max (vb.getD i 0#32) (vc.getD i 0#32)))) ∧
    (pipReady 0x2B s p = true → PipSteps (.pipVadds p) s p (putV (fun i => f32Add (vb.getD i 0#32) c))) ∧
    (pipReady 0x2C s p = true → PipSteps (.pipVmuls p) s p (putV (fun i => f32Mul (vb.getD i 0#32) c))) ∧
    (pipReady 0x2D s p = true → PipSteps (.pipVexp2 p) s p (putV (fun i => f32Exp2 (vb.getD i 0#32)))) ∧
    (pipReady 0x2E s p = true → PipSteps (.pipVrmax p) s p (put (vb.foldl f32Max 0xFF800000#32))) ∧
    (pipReady 0x30 s p = true → PipSteps (.pipVmsk p) s p (putV (fun i =>
      if c.getLsbD i then vb.getD i 0#32 else 0xFF800000#32)))

/-- VRSUM adds the lanes in five levels of pairs. R87. -/
def Obligations.VrsumAddsInFiveLevels : Prop :=
  ∀ (s : State) (p : Nat), pipReady 0x2F s p = true →
    let up := fun (l : List W32) => (List.range (l.length / 2)).map (fun i => f32Add (l.getD (2 * i) 0#32) (l.getD (2 * i + 1) 0#32))
    let sum := fun (l : List W32) => (up (up (up (up (up l))))).getD 0 0#32
    PipSteps (.pipVrsum p) s p (pipGoes (setG (s.pip p) (pipA (pipWord s p)) (sum (vReg (s.pip p) (pipB (pipWord s p)))))) ∧
    (∀ q, pipReady 0x2F s q = true → vReg (s.pip q) (pipB (pipWord s q)) = vReg (s.pip p) (pipB (pipWord s p)) →
      ∃ t u, exec (.pipVrsum p) s = .next t ∧ exec (.pipVrsum q) s = .next u ∧
        gReg (u.pip q) (pipA (pipWord s q)) = gReg (t.pip p) (pipA (pipWord s p)))

/-- The pips' memory, stream and store instructions, and R88's refusals. R85, R88, R90, R92. -/
def Obligations.PipMemoryAndStreams : Prop :=
  ∀ (s : State) (p : Nat),
    let x := s.pip p
    let w := pipWord s p
    let refused := fun (i : Instr) => Runs i s (fun t => (t.pip p).running = false ∧ (t.pip p).streams = [] ∧
      (t.ingot (p / 384)).recs = (s.ingot (p / 384)).recs ++
        [(p % 384, LDesc.ISSUER.get x.cur.desc, LDesc.CLUSTER.get x.cur.desc, ⟨faultHdr s x.cur.desc St.pipmem, []⟩)])
    (pipReady 0x11 s p = true → if dmOk (addrImm x w) 4 then
      PipSteps (.pipLdw p) s p (pipGoes (setG x (pipA w) (dmWord x (addrImm x w)))) else refused (.pipLdw p)) ∧
    (pipReady 0x12 s p = true → if dmStoreOk (addrImm x w) 4 then
      PipSteps (.pipStw p) s p (pipGoes (dmStore x (addrImm x w) (bytesOf (gReg x (pipA w)).toNat 4))) else refused (.pipStw p)) ∧
    (pipReady 0x31 s p = true → if dmOk (addrX x w) 128 then
      PipSteps (.pipVld p) s p (pipGoes (setV x (pipA w) (dmWords x (addrX x w) 32))) else refused (.pipVld p)) ∧
    (pipReady 0x32 s p = true → if dmStoreOk (addrX x w) 128 then
      PipSteps (.pipVst p) s p (pipGoes (dmStoreWords x (addrX x w) (vReg x (pipA w)))) else refused (.pipVst p)) ∧
    (pipReady 0x20 s p = true → x.streams.length < 2 → if streamOk x w then
      PipSteps (.pipRstr p) s p (pipGoes { x with streams := x.streams ++
        [⟨(gReg x (pipA w)).toNat, (gReg x (pipB w)).toNat, pipX w % 1024, 0⟩] }) else refused (.pipRstr p)) ∧
    (pipReady 0x21 s p = true →
      (stbOk s x w = false → refused (.pipStb p)) ∧
      (stbOk s x w = true → deferRoomOne s (stbKey x p w) = true → holderOf s (stbKey x p w) 32 = none →
        waitingAt s (p / 384) (p % 384) = 0 → (s.ingot (p / 384)).defer.any (fun d => d.ready && pageBg d.page == p % 384) = false →
        LDesc.PAGE.get x.cur.desc < ingotPages → lockedAt s (stbKey x p w) = true →
        Runs (.pipStb p) s (fun t => t.pip p = pipGoes x ∧ (∀ q, q ≠ p → t.pip q = s.pip q) ∧
          viewBytes t (stbKey x p w) 32 = stbBytes x w ∧ t.mem = s.mem)))

/-- The pips' branches, REP and NOP move PC as they say. R84, R85, R89. -/
def Obligations.PipControlFlow : Prop :=
  ∀ (s : State) (p : Nat),
    let x := s.pip p
    let w := pipWord s p
    let a := gReg x (pipA w)
    let b := gReg x (pipB w)
    let spent := { x with budget := x.budget - 1 }
    let branch := fun (take : Bool) =>
      if take then { spent with pc := (BitVec.ofNat 32 x.pc + pipSextX w).toNat % 1024 } else pipGoes x
    let n := pipX w % 256
    let count := if pipX w / 256 = 0 then a.toNat else pipX w / 256
    (pipReady 0x01 s p = true → PipSteps (.pipNop p) s p (pipGoes x)) ∧
    (pipReady 0x18 s p = true → PipSteps (.pipBeq p) s p (branch (a == b))) ∧
    (pipReady 0x19 s p = true → PipSteps (.pipBne p) s p (branch (a != b))) ∧
    (pipReady 0x1A s p = true → PipSteps (.pipBlt p) s p (branch (decide (a.toInt < b.toInt)))) ∧
    (pipReady 0x1B s p = true → PipSteps (.pipBge p) s p (branch (decide (b.toInt ≤ a.toInt)))) ∧
    (pipReady 0x1C s p = true → PipSteps (.pipRep p) s p
      (if count = 0 then { spent with pc := (x.pc + 1 + n) % 1024 }
       else { spent with pc := (x.pc + 1) % 1024, rep := some (x.pc + 1, n, count) }))

/-- MAC, SCX, EMIT, END and the exhausted budget. R82, R86, R88, R95, R96, R98, R99. M and L of a fault record are
free values (log entry 7). -/
def Obligations.PipBeatsAndRecords : Prop :=
  ∀ (s : State) (p : Nat),
    let x := s.pip p
    let w := pipWord s p
    let d := x.cur.desc
    let row := (gReg x (pipC w)).toNat
    (pipReady 0x24 s p = true → x.fifo ≠ [] →
      let at' := (gReg x (pipB w)).toNat + 128 * (pipX w / 1024 % 16)
      dmOk at' 4 = true →
      let y := popBeat (pipMacs x w (dmWord x at') (x.fifo.headD [])) (pipX w / 2 % 2 == 1)
      PipSteps (.pipMac p) s p (pipGoes (if pipX w % 2 = 1 then setG y (pipB w) (gReg y (pipB w) + 4#32) else y))) ∧
    (pipReady 0x25 s p = true → x.fifo ≠ [] →
      PipSteps (.pipScx p) s p (pipGoes (popBeat (setV x (pipA w) (beatScales (pipX w % 2 == 1) (x.fifo.headD [])))
        (pipX w / 2 % 2 == 1)))) ∧
    (pipReady 0x38 s p = true → emitOk x w = true → x.leaveTo ≤ pcNow s → Runs (.pipEmit p) s (fun t =>
      t.pip p = pipGoes { x with emitted := x.emitted ||| 1#16 <<< row, leaveTo := emitEnd s (pipX w % 32) } ∧ (∀ q, q ≠ p → t.pip q = s.pip q) ∧
      (t.ingot (p / 384)).recs = (s.ingot (p / 384)).recs ++ [(p % 384, LDesc.ISSUER.get d, LDesc.CLUSTER.get d,
        ⟨emitHdr d row (pipX w % 32) (gReg x (pipA w)) (gReg x (pipB w)), dmWords x 0x1800 (32 * (pipX w % 32))⟩)] ∧
      OnlyChanges [.pips, .ingots] s t)) ∧
    (pipReady 0x02 s p = true → emittedCount x = dNq d → Runs (.pipEnd p) s (fun t =>
      (t.pip p).running = false ∧ (t.pip p).fifo = [] ∧ (t.ingot (p / 384)).recs = (s.ingot (p / 384)).recs ∧
      Tab.get (t.ingot (p / 384)).ctr 0#64 0x0A8 = Tab.get (s.ingot (p / 384)).ctr 0#64 0x0A8 + 1)) ∧
    (running .arith s = true → p < 6144 → x.running = true → x.budget = 0 → Runs (.issueBudgetExhausted p) s (fun t =>
      (t.pip p).running = false ∧ (t.pip p).fifo = [] ∧
      (t.ingot (p / 384)).recs = (s.ingot (p / 384)).recs ++
        [(p % 384, LDesc.ISSUER.get d, LDesc.CLUSTER.get d, ⟨faultHdr s d St.piptime, []⟩)]))

/-- RESULT_RECORD, MERGED_TRIPLE and MERGE_TIMEOUT. R97, R98, R160, R162 to R164, R168, R170, R256. -/
def Obligations.RecordsReachTheMergeTree : Prop :=
  ∀ (s : State) (i cl chip c tag b p ptr : Nat) (r : Rec) (g : MGroup) (e : TEnt) (h : BitVec 256)
      (o : List W32) (a : Await), running .arith s = true →
    let own := fun (d : GDesc) => isDesc (LRec.PAGE_SEQ.get r.hdr) (LRec.QROW.get r.hdr) (LRec.HEAD.get r.hdr) d
    let fits := fun (d : GDesc) => own d && d.status == 0 &&
      (LRec.STATUS.get r.hdr != 0 || (descRec d (LRec.HEAD.get r.hdr)).isNone)
    let mine := (s.ingot i).groups.find? (fun g => groupOf chip c (LRec.TAG.get r.hdr) g && g.descs.any fits)
    (i < 16 → grant (fun p => (s.ingot i).recs.any (fun x => x.1 == p)) (s.ingot i).mergePtr 384 = some (p, ptr) →
      (s.ingot i).recs.find? (fun x => x.1 == p) = some (p, chip, c, r) →
      Runs (.resultRecord i) s (fun t => (t.ingot i).recs = takeRec p (s.ingot i).recs ∧ (t.ingot i).mergePtr = ptr ∧
        (LRec.KIND.on r.hdr = true → .triple chip c r.hdr r.payload ∈ t.out)) ∧
      (LRec.KIND.on r.hdr = true → LRec.STATUS.get r.hdr = 0 → (s.ingot i).intake = [] → Runs (.resultRecord i) s (fun t =>
        (t.ingot i).slotsUsed = (s.ingot i).slotsUsed - 1)) ∧
      (LRec.KIND.on r.hdr = true → LRec.STATUS.get r.hdr ≠ 0 → chip = ownChip s → layerHolder s = some b →
        Runs (.resultRecord i) s (fun t => bFaulted (t.bind b) = true)) ∧
      (LRec.KIND.on r.hdr = false → (s.ingot i).intake = [] → mine = some g → g.close = none →
        Runs (.resultRecord i) s (fun t => ∃ x, x ∈ (t.ingot i).groups ∧ groupOf chip c (LRec.TAG.get r.hdr) x = true ∧
          x.descs.length = g.descs.length ∧ ∃ d, d ∈ x.descs ∧ own d = true ∧
            if LRec.STATUS.get r.hdr = 0 then r ∈ d.recs else d.status = LRec.STATUS.get r.hdr)) ∧
      (LRec.KIND.on r.hdr = false → (s.ingot i).intake = [] → mine = none → Runs (.resultRecord i) s (fun t =>
        (t.ingot i).groups = (s.ingot i).groups ∧
        (t.ingot i).slotsUsed = (s.ingot i).slotsUsed - (if LRec.STATUS.get r.hdr = 0 then 1 else 0)))) ∧
    (layerHolder s = some b →
      let x := s.cluster cl
      let row := LRec.QROW.get h
      let head := LRec.HEAD.get h
      let marked := fun (fault : Nat) (t : State) => turnEnt s b a.entry = some e → e.fault = 0 →
        ∃ f, turnEnt t b a.entry = some f ∧ f.fault = fault
      let others := fun (t : State) => ∀ k, k ≠ cl → t.cluster k = s.cluster k
      (LMrg.MERGED.on h = true → LRec.KIND.on h = false →
        x.awaits.find? (fun a => a.chip == LMrg.CHIP.get h && a.ingot == LMrg.INGOT.get h && a.tag == LRec.TAG.get h &&
          a.rows.contains (row, head)) = some a →
        Runs (.mergedTriple cl h o) s (fun t =>
          let left := a.rows.filter (fun p => p != (row, head))
          (t.cluster cl).awaits = x.awaits.filterMap (fun y => if y == a then (if left.isEmpty then none else some { a with rows := left })
            else some y) ∧
          (LRec.STATUS.get h = 0 → (t.cluster cl).inbox = x.inbox ++ [⟨a.layer, a.entry, a.group, row, head, LMrg.FIRST_SEQ.get h,
            LRec.EMPTY.on h, BitVec.ofNat 32 (LRec.M.get h), BitVec.ofNat 32 (LRec.L.get h), o, a.half⟩]) ∧
          (LRec.STATUS.get h ≠ 0 → (t.cluster cl).inbox = x.inbox ∧ marked 1 t) ∧ others t)) ∧
      (LMrg.MERGED.on h = false → LRec.KIND.on h = true → LRec.STATUS.get h ≠ 0 →
        Runs (.mergedTriple cl h o) s (fun t => bFaulted (t.bind b) = true)) ∧
      (x.awaits.find? (fun a => a.ingot == i && a.tag == tag && decide (a.closed + a.limit ≤ now s)) = some a →
        Runs (.mergeTimeout cl i tag) s (fun t => (t.cluster cl).awaits = x.awaits.filter (· != a) ∧
          Tab.get (t.bind b).ctr 0#64 BC.mergeTimeout = Tab.get (s.bind b).ctr 0#64 BC.mergeTimeout +
            BitVec.ofNat 64 ((a.rows.map (·.1)).eraseDups).length ∧ marked 2 t ∧ others t)))

/-- ATTENTION_WALK, CLUSTER_PATH_PARTIAL, HEAD_OUTPUT and PIP_WEIGHT_PRODUCT. R144, R148, R150 to R154, R164 to
R168, R401. -/
def Obligations.AttentionWalksAndOutputs : Prop :=
  ∀ (s : State) (cl layer en g row head record b : Nat) (e : TEnt) (w : BitVec 1024), running .arith s = true →
    (pairOf s cl layer en g = some (b, e, w) →
      let lane := walkLane w g
      let c := s.cluster cl
      let n := (nextBatch c layer en g).getD 0
      let half := if c.layer = layer then c.half else 0
      let r := (s.bind b).brec
      let batches := batchesOf r (pairUnits s b e g lane)
      let readable := fun (l : List (Nat × Nat)) => rangesStatus s (s.bind b).seat false 4 l == St.ok && (badRange s l).isNone
      let reached := earlierSent s b cl layer en g w && clusterReached s b cl (walkNumber s b cl layer)
      let query := readable [(queryKey r w cl row head, gD r * 4)]
      (pairFlushing s b e lane = true → reached = true → Runs (.attentionWalk cl layer en g) s (fun t =>
        (t.cluster cl).copyWait = some (en, lane, false) ∧ (t.cluster cl).awaits = c.awaits ∧ OnlyChanges [.clusters] s t)) ∧
      (pairFlushing s b e lane = false → reached = true →
        (batches[n]? = none → Runs (.attentionWalk cl layer en g) s (fun t =>
          nextBatch (t.cluster cl) layer en g = some (n + 1) ∧ (t.cluster cl).wants = none ∧ t.mem = s.mem)) ∧
        (∀ l, batches[n]? = some l →
          (halfBusy c half = true → Runs (.attentionWalk cl layer en g) s (fun t =>
            t.cluster cl = { c with wants := some half } ∧ OnlyChanges [.clusters] s t)) ∧
          (halfBusy c half = false → (∀ x, cutBefore batches n = some x → cutReady s b cl layer en g lane e x.1 x.2 = true) →
            readable (queryRanges s b w cl l) = true → Runs (.attentionWalk cl layer en g) s (fun t =>
            nextBatch (t.cluster cl) layer en g = some (n + 1) ∧ (t.cluster cl).layer = layer ∧ (t.cluster cl).half = 1 - half ∧
            t.mem = s.mem ∧ (∀ u, u ∈ l → ∀ k, k ∈ u.cols → colReadable s b e lane (u.row - entRow e) k.j = true →
              ∃ a, a ∈ (t.cluster cl).awaits ∧ a.layer = layer ∧ a.entry = en ∧ a.group = g ∧ a.chip = k.chip ∧
                a.ingot = k.ingot ∧ a.half = half))))) ∧
      (rowHead r e g row head = true → c.heads.contains (layer, row, head) = false → query = true →
        (∀ j, partDone c layer en g row head j = false → clusterCol s b e lane (row - entRow e) j = true →
          pairFlushing s b e lane = false → uncorrAt s (laneKey s b (ptAddr (colEntry s e j)) lane) 16384 = false →
          Runs (.clusterPathPartial cl layer en g row head (some j)) s (fun t =>
            let x := partialOf s r (scaledQuery s b w cl row head) (columnEntries s b e lane (row - entRow e) j)
            (t.cluster cl).inbox = c.inbox ++ [⟨layer, en, g, row, head, j, x.empty, x.m, x.l, x.o, 3⟩])) ∧
        (partDone c layer en g row head (fullCols s b e) = false → riserHeld s b e lane = false → riserSets s b e ≠ [] →
          riserReadable s b e (row - entRow e) = true →
          (∀ k, k ∈ riserEntries s b e lane (row - entRow e) → uncorrAt s k.1 16384 = false) →
          Runs (.clusterPathPartial cl layer en g row head none) s (fun t =>
            let x := partialOf s r (scaledQuery s b w cl row head) (riserEntries s b e lane (row - entRow e))
            (t.cluster cl).inbox = c.inbox ++ [⟨layer, en, g, row, head, fullCols s b e, x.empty, x.m, x.l, x.o, 3⟩]))) ∧
      (rowHead r e g row head = true → headReady s b cl layer en g row head e w = true →
        let k := outputKey r w cl row head
        partialUncorr s k (gD r * 4) = false → Runs (.headOutput cl layer en g row head) s (fun t =>
          let mine := fun (p : Partial) => p.layer == layer && p.entry == en && p.group == g && p.row == row && p.head == head
          let x := foldTrips (((c.inbox.filter mine).foldl (fun l p => insPart p l) []).map partTrip)
          let o := (if x.empty then List.replicate (gD r) 0#32 else x.o.map (fun v => f32Div v x.l)).flatMap (fun v => bytesOf v.toNat 4)
          (t.cluster cl).inbox = c.inbox.filter (fun p => !mine p) ∧ (t.cluster cl).heads = c.heads ++ [(layer, row, head)] ∧
          if rangesStatus s (s.bind b).seat true 4 [(k, gD r * 4)] = St.ok then readBytes t k o.length = o ∧
            (∀ j, j < k ∨ k + o.length ≤ j → memByte t j = memByte s j)
          else t.mem = s.mem))) ∧
    (layerHolder s = some b →
      let v := lpRecord s (s.bind b).brec record
      let n := (v.extractLsb' 256 32).toNat
      productNext s b cl record v = true → (∀ k, k < n → weightStatus s (weightDesc s b cl v k) = St.ok) →
      Runs (.pipWeightProduct cl record) s (fun t => (t.cluster cl).wlayer = lpLayer v ∧
        t.out = ((List.range n).map (fun k => let d := weightDesc s b cl v k
          Out.dispatch (ownChip s) (LDesc.INGOT.get d) (pktHdr s 1 (LDesc.INGOT.get d) cl 0 0 0) (wordsOf d.toNat 8))).reverse ++ s.out ∧
        OnlyChanges [.clusters, .out] s t))

/-- TILE_MOVE, RING_FILL_COMPLETE, SPILL_DRAIN, MX_STAT and MX_SETSTAT. R15, R22, R23, R67, R181, R182, R190, R194,
R196. -/
def Obligations.TileMovesAndSpillsArrive : Prop :=
  ∀ (s : State) (c b tiles : Nat) (src dst : W64) (ring : Bool) (w : BitVec 256) (l : Latch) (rest : List Latch)
      (f : Option (Nat × Nat × Nat)) (fills : List (Option (Nat × Nat × Nat))),
    running .arith s = true → c < 256 → layerHolder s = some b →
    let n := tiles * 16384
    let at' := scratchKey c (LMx.ABASE.get w * 64)
    let from' := keyOf s src.toNat
    let to' := keyOf s dst.toNat
    (0 < tiles → moveWaits s b c src dst tiles ring = false → moverWaits s to' n = false →
      tileMoveStatus s (s.bind b).seat src dst n = St.ok → uncorrSeen s from' n = false → moverStatus s from' to' n = St.ok →
      (isRemote s src.toNat = false → isRemote s dst.toNat = false → noDefer s from' n = true → noDefer s to' n = true →
        holderOf s to' n = none → Runs (.tileMove c src dst tiles ring) s (fun t =>
          (t.core c).fills = (s.core c).fills ++ (if ring then List.replicate tiles none else []) ∧
          (MemOk s → s.cores.all (fun e => e.2.split.isNone) = true → readBytes t to' n = readBytes s from' n ∧
            (∀ k, k < to' ∨ to' + n ≤ k → memByte t k = memByte s k)) ∧
          (∀ j x i, ring = false → (s.core j).split = some x → pageStatus s x.arrival 8 = St.ok → i < x.parts → to' ≤ x.base + i * 16384 → x.base + (i + 1) * 16384 ≤ to' + n →
            i < 64 → noDefer s x.arrival 8 = true → holderOf s x.arrival 8 = none → arrived t x.arrival i = true))) ∧
      (isRemote s src.toNat = true → Runs (.tileMove c src dst tiles ring) s (fun t => t.mem = s.mem ∧
        (haveChip s = true → (outPort s 6 (src.toNat / 2 ^ 40 % 4096)).isSome = true →
          (bulkStage s (unitDie c)).waiting = [] →
          t.fab.outstanding.length + t.fab.held.length = s.fab.outstanding.length + s.fab.held.length + tiles ∧
          (t.core c).fills.length = (s.core c).fills.length + (if ring then tiles else 0)))) ∧
      (isRemote s src.toNat = false → isRemote s dst.toNat = true → s.cores.all (fun e => e.2.split.isNone) = true →
        Runs (.tileMove c src dst tiles ring) s (fun t => t.mem = s.mem))) ∧
    ((s.core c).fills = f :: fills → f.any (reqOpen s c) = false → Runs (.ringFillComplete c) s (fun t =>
      (t.core c).fills = fills ∧ (t.core c).bfill = (s.core c).bfill + 1#32 ∧
      (∀ k, k ≠ c → t.core k = s.core k) ∧ OnlyChanges [.cores] s t)) ∧
    ((s.core c).latch = l :: rest → uncorrAt s (sprueKey c l.entry) 0x800 = false → Runs (.spillDrain c) s (fun t =>
      let k := sprueKey c l.entry
      readBytes t k 0x800 = f64Bytes (sprueAdd l.wide (readF64s s k 256) l.data) ∧ (t.core c).latch = rest ∧
      (∀ j, j < k ∨ k + 0x800 ≤ j → memByte t j = memByte s j) ∧ (∀ d, d ≠ c → t.core d = s.core d))) ∧
    ((s.core c).run = none → mayStart s b c 1 true (isMx w) = true → mxBad s b c w = false →
      (LMx.OP.get w = 2 → statHaz s b c true (statRange c w) = false → rangesIn s (s.bind b).seat true [(at', 4 * mxBlocks w)] = true → Runs (.mxStat c w) s (fun t =>
        readBytes t at' (4 * mxBlocks w) = statBytes s c w ∧
        (∀ j, j < at' ∨ at' + 4 * mxBlocks w ≤ j → memByte t j = memByte s j) ∧ OnlyChanges [.mem, .wordErr, .dirty, .cores] s t)) ∧
      (LMx.OP.get w = 3 → statHaz s b c false (statRange c w) = false → rangesIn s (s.bind b).seat false [(at', 4 * mxBlocks w)] = true →
        uncorrAt s at' (4 * mxBlocks w) = false → Runs (.mxSetstat c w) s (fun t =>
        (∀ i, i < mxBlocks w → slotStat t c (statNum (LMx.WIDE.on w) (LMx.SLOT0.get w + i)) =
          BitVec.ofNat 32 (readNat s (at' + 4 * i) 4 % 2 ^ 25)) ∧ t.mem = s.mem)))

/-- MX_MMA, MMA_FINISH and EPILOGUE. R41, R42, R181 to R187, R190, R193, R195, R210 to R214. -/
def Obligations.MatrixInstructionsRun : Prop :=
  ∀ (s : State) (c b : Nat) (w : BitVec 256) (r : MxRun) (e : Epi), running .arith s = true → c < 256 →
    (layerHolder s = some b → LMx.OP.get w = 1 →
      let ran := fun (t : State) => (t.core c).run = none ∨ bFaulted (t.bind b) = true ∨
        ∃ q, (t.core c).run = some q ∧ q.w = w ∧ q.binding = b ∧ (blockSteps w ≤ q.pos ∨ mxWaits t c q = true)
      ((s.core c).run = none → mxHeld s c b w = false →
        (mxBad s b c w = true → Runs (.mxMma c w) s (fun t => bFaulted (t.bind b) = true ∧ bPhase (t.bind b) = 6 ∧
          Tab.get (t.core c).ctr 0#64 0x038 = Tab.get (s.core c).ctr 0#64 0x038 + 1)) ∧
        (mxBad s b c w = false → mxHaz s c b w = true → Runs (.mxMma c w) s (fun t =>
          (t.core c).haz = some (w, b) ∧ (t.core c).run = none ∧ OnlyChanges [.cores] s t)) ∧
        (mxBad s b c w = false → mxHaz s c b w = false → mxWindows s b c w = false → Runs (.mxMma c w) s (fun t =>
          t.core c = (beginNext s b c 1).core c ∧ t.mem = s.mem)) ∧
        (mxBad s b c w = false → mxHaz s c b w = false → mxWindows s b c w = true → Runs (.mxMma c w) s ran ∧
          ((s.core c).bfill = (s.core c).bused → Runs (.mxMma c w) s (fun t =>
            (t.core c).run = some ⟨w, b, (s.core c).bused, 0, false, (mxRecord s b c w).map (fun r => lpLayer r.2)⟩ ∧ (t.core c).haz = none ∧
            if LMx.INIT.on w then ∀ i, i < mxBlocks w →
              readBytes t (slotKey c (LMx.WIDE.on w) (LMx.SLOT0.get w + i)) (slotBytes (LMx.WIDE.on w)) =
                List.replicate (slotBytes (LMx.WIDE.on w)) 0#8
            else t.mem = s.mem)))) ∧
      ((s.core c).run = some r → r.w = w → r.binding = b → Runs (.mxMma c w) s ran ∧
        (r.pos + 1 = blockSteps w → mxWaits s c r = false → badRange s (stepRanges s b c w r.pos) = none → LMx.SPRUE.on w = false →
          Runs (.mxMma c w) s (fun t =>
            let wide := LMx.WIDE.on w
            let v := visit w r.pos
            let slot := blockSlot w v.2.2.1 v.2.2.2
            readBlock t c wide slot = (List.range 256).map (fun i =>
              let y := stepElem s c w (prologue s b w).reverse v.2.1 (16 * v.2.2.1 + i / 16) (16 * v.2.2.2 + i % 16)
                ((readBlock s c wide slot).getD i ⟨0#32, 0#32, false, false⟩)
              (⟨y.hi, y.lo, false, false⟩ : MxElem)) ∧
            (∀ k, k < slotKey c wide slot ∨ slotKey c wide slot + slotBytes wide ≤ k → memByte t k = memByte s k) ∧
            (t.core c).bused = (s.core c).bused + 1#32 ∧
            (t.core c).run = if (epilogueStages s b w).isEmpty then none else some { r with pos := r.pos + 1, finished := true })))) ∧
    (finishDue s c = some r → mxOk (fun _ => true) r.w = true → badRange s [mxSlotRange c r.w, mxSprueRange c r.w] = none →
      Runs (.mmaFinish c) s (fun t =>
        let wide := LMx.WIDE.on r.w
        (t.core c).run = (if (epilogueStages s r.binding r.w).isEmpty then none else some { r with finished := true }) ∧
        (∀ i, i < mxBlocks r.w →
          let old := readBlock s c wide (LMx.SLOT0.get r.w + i)
          let ent := sprueAdd wide (readF64s s (sprueKey c (LMx.SENT0.get r.w + i)) 256) (old.map (·.hi) ++ old.map (·.lo))
          readBytes t (sprueKey c (LMx.SENT0.get r.w + i)) 0x800 = f64Bytes ent ∧
          readBlock t c wide (LMx.SLOT0.get r.w + i) = ent.map (fun x =>
            (⟨(finishElem wide x).hi, (finishElem wide x).lo, false, false⟩ : MxElem)) ∧
          LSlotSt.SINCE.get (slotStat t c (statNum wide (LMx.SLOT0.get r.w + i))) = 0))) ∧
    (epiDue s c = some e → copiesMeet s e = false →
      let row := fun (m : Nat) =>
        (e.stages.filter (fun x => decide (stKind x < 0x18))).foldl (stageRow s c e.w e.eps m) (slotRow s c e.w m)
      let calm := e.stages.all (fun x => stKind x != 0x11 && (LMx.MB.get e.w == 0 ||
        (stKind x != 0x0B && (stageRanges e.quant e.w x).all (fun r => decide (r.1 + r.2 ≤ scratchBytes)))))
      Runs (.epilogue c) s (fun t => (t.core c).run = none ∧
        Tab.get (t.core c).ctr 0#64 0x068 = Tab.get (s.core c).ctr 0#64 0x068 + BitVec.ofNat 64 (mxBlocks e.w)) ∧
      (badRange s (epiReads e) ≠ none → Runs (.epilogue c) s (fun t => bFaulted (t.bind e.binding) = true)) ∧
      (badRange s (epiReads e) = none → calm = true → e.dest = none → Runs (.epilogue c) s (fun t =>
        ∀ m n, m < mxM e.w → n < mxN e.w →
          readF32 t (slotKey c (LMx.WIDE.on e.w) (blockSlot e.w (m / 16) (n / 16)) + 4 * (m % 16 * 16 + n % 16)) =
            (row m).getD n 0#32)) ∧
      (∀ x, badRange s (epiReads e) = none → calm = true → e.dest = some x → LMx.MB.get e.w = 0 → LStg.SUB.get x = 0 → e.quant = none →
        4 * mxN e.w ≤ LStg.PITCH.get x * 64 → LStg.BASE.get x * 64 + writeBytes none 16 (mxN e.w) (LStg.PITCH.get x) ≤ scratchBytes →
        (∀ m, m < 16 → writeAllowed s (s.bind e.binding).seat (writeDst c x + m * LStg.PITCH.get x * 64) (4 * mxN e.w) = true) →
        Runs (.epilogue c) s (fun t => ∀ m, m < 16 →
          readBytes t (writeDst c x + m * LStg.PITCH.get x * 64) (4 * mxN e.w) = wordsBytes (row m))))

/-- The vector engine's element operations write each element's result in its place. R219 to R222, R229, R231. The
mask bit of a scalar is a free value (log entry 7). -/
def Obligations.VectorElementwise : Prop :=
  ∀ (s : State) (c b : Nat) (w : BitVec 256), layerHolder s = some b →
    let goes := fun (op : Nat) => running .arith s && decide (c < 256) && LVx.OP.get w == op && vxForm (c % 8) w &&
      !vxWaits s b c w && !vxRefused s (s.bind b).seat c w && !(vxWrites c w).any (fun d => partialUncorr s d.1 d.2) &&
      (badRange s (vxReads c w)).isNone
    let gives := fun (i : Instr) (row : Nat → List W32) => Runs i s (fun t =>
      (∀ m, m < vxRows w → readBytes t (vxDKey c w m) (4 * vxCols w) = wordsBytes (row m)) ∧
      (∀ k, (∀ d, d ∈ vxWrites c w → k < d.1 ∨ d.1 + d.2 ≤ k) → memByte t k = memByte s k) ∧
      OnlyChanges [.mem, .wordErr, .dirty, .ingots, .hm, .bank, .cores, .free] s t)
    let two := fun (f : W32 → W32 → W32) (m : Nat) => List.zipWith f (vxARow s c w m) (vxBRow s c w m)
    let one := fun (f : W32 → W32) (m : Nat) => (vxARow s c w m).map f
    (goes 0x02 = true → gives (.vxAdd c w) (two f32Add)) ∧
    (goes 0x03 = true → gives (.vxSub c w) (two f32Sub)) ∧
    (goes 0x04 = true → gives (.vxMul c w) (two f32Mul)) ∧
    (goes 0x05 = true → gives (.vxAxpy c w) (two (vAxpy (vxImm w)))) ∧
    (goes 0x06 = true → gives (.vxMax c w) (two f32Max)) ∧
    (goes 0x07 = true → gives (.vxMin c w) (two f32Min)) ∧
    (goes 0x08 = true → gives (.vxClamp c w) (one (fun a => f32Min (f32Max a (vxImm w)) (vxImm2 w)))) ∧
    (goes 0x09 = true → gives (.vxRelu c w) (one vRelu)) ∧
    (goes 0x0A = true → gives (.vxSilu c w) (one f32Silu)) ∧
    (goes 0x0B = true → gives (.vxGelut c w) (one f32Gelu)) ∧
    (goes 0x0C = true → gives (.vxExp2 c w) (one vExp2)) ∧
    (goes 0x0D = true → gives (.vxRsqrt c w) (one f32Rsqrt)) ∧
    (goes 0x0E = true → gives (.vxDiv c w) (two f32Div)) ∧
    (goes 0x0F = true → gives (.vxSelect c w) (fun m => List.zipWith (fun a k => if k then a else quiet32 (vxImm w))
      (vxARow s c w m) (vxMask s c w m)))

/-- The vector engine's conversions, row reductions, RMS, ROT, QUANT, MERGE and FINAL. R212, R219 to R227. -/
def Obligations.VectorRowsAndRecords : Prop :=
  ∀ (s : State) (c b : Nat) (w : BitVec 256), layerHolder s = some b →
    let goes := fun (op : Nat) => running .arith s && decide (c < 256) && LVx.OP.get w == op && vxForm (c % 8) w &&
      !vxWaits s b c w && !vxRefused s (s.bind b).seat c w && !(vxWrites c w).any (fun d => partialUncorr s d.1 d.2) &&
      (badRange s (vxReads c w)).isNone
    let gives := fun (i : Instr) (n : Nat) (key : Nat → Nat) (row : Nat → List Byte) => Runs i s (fun t =>
      (∀ m, m < vxRows w → readBytes t (key m) n = row m) ∧
      (∀ k, (∀ d, d ∈ vxWrites c w → k < d.1 ∨ d.1 + d.2 ≤ k) → memByte t k = memByte s k) ∧
      OnlyChanges [.mem, .wordErr, .dirty, .ingots, .hm, .bank, .cores, .free] s t)
    let fd := LVx.FD.get w
    let a := vxARow s c w
    let key := vxDKey c w
    let word := fun (m : Nat) => vxDKey c w 0 + 4 * m
    let kv4 := fd == 6
    let fold := fun (m : Nat) => foldTrip (recRow s (vxAKey c w m) (vxCols w)) (recRow s (vxBKey c w m) (vxCols w))
    (goes 0x01 = true → gives (.vxCvt c w) (rowBytes fd (vxCols w)) key
      (fun m => packRow s (vxBits fd) (key m) ((a m).map (cvtCode (vxBits fd))))) ∧
    (goes 0x10 = true → gives (.vxRowsum c w) 4 word (fun m => wordsBytes [rowSum (a m)])) ∧
    (goes 0x11 = true → gives (.vxRowssq c w) 4 word (fun m => wordsBytes [rowSum ((a m).map (fun x => f32Mul x x))])) ∧
    (goes 0x12 = true → gives (.vxRowmax c w) 4 word (fun m => wordsBytes [rowMax (a m)])) ∧
    (goes 0x13 = true → gives (.vxRowamax c w) 4 word (fun m => wordsBytes [rowMax ((a m).map mag32)])) ∧
    (goes 0x14 = true → gives (.vxRms c w) (4 * vxCols w) key (fun m => wordsBytes ((a m).map (fun x =>
      f32Mul x (rmsFactor (a m) (vxImm w)))))) ∧
    (goes 0x15 = true → gives (.vxRot c w) (4 * vxCols w) key (fun m =>
      wordsBytes (rotRow s (LVx.IMM2.get w) (rowPos s c m) (vxBKey c w 0) (a m)))) ∧
    (goes 0x16 = true → gives (.vxQuant c w) (rowBytes fd (vxCols w)) key (fun m =>
        packRow s (if kv4 then 4 else 8) (key m) (kvRow kv4 (a m)).2) ∧
      gives (.vxQuant c w) (cdiv (vxCols w) (if kv4 then 16 else 32)) (fun m => key (vxRows w) + m * scaleRow fd (vxCols w))
        (fun m => (kvRow kv4 (a m)).1.map (BitVec.ofNat 8 ·))) ∧
    (goes 0x18 = true → gives (.vxMerge c w) (32 + 4 * vxCols w) key (fun m =>
      bytesOf (mergeHdr (recHdr s (vxAKey c w m)) (recHdr s (vxBKey c w m)) (fold m)).toNat 32 ++ wordsBytes (fold m).o)) ∧
    (goes 0x19 = true → gives (.vxFinal c w) (4 * vxCols w) key (fun m =>
      let x := recRow s (vxAKey c w m) (vxCols w)
      wordsBytes (x.o.map (fun v => if x.empty then 0#32 else f32Div v x.l))))

/-- SPLIT_PARTIAL_ADD, SPLIT_TIMEOUT and the collective steps. R23, R46, R190, R196, R197, R349 to R351. -/
def Obligations.SplitAndCollectiveSteps : Prop :=
  ∀ (s : State) (b e c base arrival result parts : Nat) (wide : Bool) (w : BitVec 512) (x : Split) (inputs : List (List Byte))
      (data : List Byte), running .arith s = true → layerHolder s = some b →
    let n := partialElems wide
    let k := base + x.next * 16384
    let goes := fun (op : Nat) => decide (e < 4) && LColl.OP.get w == op && collOk s e w && collMay s e w &&
      collStatus s (s.bind b).seat w == St.ok
    let open' := fun (m : Nat) => noDefer s (collDst w) m = true ∧ holderOf s (collDst w) m = none ∧ pageStatus s (collDst w) m = St.ok
    let writes := fun (i : Instr) (bs : List Byte) => open' bs.length → Runs i s (fun t => readBytes t (collDst w) bs.length = bs ∧
      (∀ k, k < collDst w ∨ collDst w + bs.length ≤ k → memByte t k = memByte s k) ∧ collRun t e = none)
    (c < 256 → (s.core c).latch = [] → splitForm c base arrival result parts wide = true →
      splitOf s c base arrival result parts = some x →
      let a := if (s.core c).split.isSome then s else openSplit c x s
      let held := engineHolds a c [(k, 16384), (arrival, 8)] [(result, 4 * n)]
      (splitAllowed s (s.bind b).seat base arrival result parts wide = false →
        Runs (.splitPartialAdd c base arrival result parts wide) s (fun t => t.cores = s.cores ∧ t.mem = s.mem)) ∧
      (splitAllowed s (s.bind b).seat base arrival result parts wide = true →
        (a = s ∨ (∀ p i, p ∈ s.fab.placed → i ∈ areaHits x p.1 1 → holderOf s arrival 8 = none → arrived a arrival i = true) ∧
          (s.fab.placed.all (fun p => (areaHits x p.1 1).isEmpty) = true → a.mem = s.mem)) ∧
        (arrived a arrival x.next = false ∨ held = true → Runs (.splitPartialAdd c base arrival result parts wide) s (fun t =>
          (t.core c).split = some x ∧ t.mem = a.mem)) ∧
        (arrived a arrival x.next = true → held = false → badRange a [(k, 16384), (result, 4 * n)] = none →
          Runs (.splitPartialAdd c base arrival result parts wide) s (fun t =>
            readWords t result n = (List.range n).map (fun i => if x.next = 0 then partialVal a wide k i
              else (mxAdd ⟨readF32 a (result + 4 * i), false, false⟩ ⟨partialVal a wide k i, false, false⟩).v) ∧
            (t.core c).split = (if x.next + 1 = parts then none else some { x with next := x.next + 1 }) ∧
            (∀ k, k < result ∨ result + 4 * n ≤ k → memByte t k = memByte a k))))) ∧
    (c < 256 → (s.core c).split = some x → readWord s x.arrival ≠ 0#64 → (∃ d, (x.arrival, d) ∈ s.fab.arrivals ∧ d ≤ now s) →
      (∃ i, i < x.parts ∧ arrived s x.arrival i = false) → Runs (.splitTimeout c) s (fun t => (t.core c).split = none ∧
        bFaulted (t.bind b) = true ∧ Tab.get (t.core c).ctr 0#64 0x040 = Tab.get (s.core c).ctr 0#64 0x040 + 1)) ∧
    (goes 1 = true → uncorrAt s (collSrc w) (collLen w) = false →
      (LColl.PEER.get w = ownChip s → MemOk s → noDefer s (collSrc w) (collLen w) = true → open' (collLen w) →
        noDefer s (LColl.FLAG.get w) 8 = true → holderOf s (LColl.FLAG.get w) 8 = none →
        overlaps (LColl.FLAG.get w) 8 (collDst w) (collLen w) = false →
        pageStatus s (collSrc w) (collLen w) = St.ok → pageStatus s (LColl.FLAG.get w) 8 = St.ok → Runs (.collPut e w) s (fun t => collRun t e = none ∧
          readBytes t (collDst w) (collLen w) = readBytes s (collSrc w) (collLen w) ∧
          readNat t (LColl.FLAG.get w) 8 = readNat s (LColl.FLAG.get w) 8 ||| LColl.MASK.get w ∧
          (∀ j, (j < collDst w ∨ collDst w + collLen w ≤ j) → (j < LColl.FLAG.get w ∨ LColl.FLAG.get w + 8 ≤ j) →
            memByte t j = memByte s j))) ∧
      (LColl.PEER.get w ≠ ownChip s → haveChip s = true → (outPort s 6 (LColl.PEER.get w)).isSome = true →
        Runs (.collPut e w) s (fun t =>
          collRun t e = some ⟨w, now s, false⟩ ∧ t.mem = s.mem ∧
          ∃ q, q ∈ t.fab.outstanding ++ t.fab.held.map (·.req) ∧ q.unit = collUnit e ∧ q.dest = LColl.PEER.get w ∧ q.posted = false))) ∧
    (goes 2 = true → uncorrAt s (LColl.FLAG.get w) 8 = false → Runs (.collWait e w) s (fun t => t.mem = s.mem ∧
      if readNat s (LColl.FLAG.get w) 8 &&& LColl.MASK.get w = LColl.MASK.get w then collRun t e = none
      else ∃ y, collRun t e = some y ∧ y.step = w)) ∧
    (goes 3 = true → inputsOk (collCount s w) (collLen w) inputs = true → uncorrAt s (collSrc w) (collLen w) = false →
      writes (.collAllreduce e w inputs)
        (reduceBytes (LColl.FMT.on w) (inputs.set (collRank s w) (readBytes s (collSrc w) (collLen w))))) ∧
    (goes 4 = true → inputsOk (collCount s w) (collLen w / collCount s w) inputs = true →
      uncorrAt s (collSrc w) (collLen w / collCount s w) = false →
      writes (.collAllgather e w inputs)
        (inputs.set (collRank s w) (readBytes s (collSrc w) (collLen w / collCount s w))).flatten) ∧
    (goes 5 = true →
      (LColl.PEER.get w = ownChip s → uncorrAt s (collSrc w) (collLen w) = false →
        writes (.collBcast e w data) (readBytes s (collSrc w) (collLen w))) ∧
      (LColl.PEER.get w ≠ ownChip s → data.length = collLen w → writes (.collBcast e w data) data)) ∧
    (collFree s e = false → (collRun s e).any (fun y => y.failed || decide (y.since + tierTimeout s ≤ now s)) = true →
      Runs (.collTimeout e) s (fun t => collRun t e = none ∧ bFaulted (t.bind b) = true ∧
        t.bank.collTimeout = s.bank.collTimeout + 1))

/-- The execution slot and the phases of a turn up to Commit. R33, R35, R36, R39, R41, R43, R46, R54, R472. The
stored logits are free values (log entry 71) and are not stated. -/
def Obligations.TurnPhasesFollowEachOther : Prop :=
  ∀ (s : State) (b h l ingot off seat : Nat),
    (running .arith s = true →
      (s.slot.holder = none → s.slot.draining = none → slotGrant s = some (b, h, l) → Runs .slotGrant s (fun t =>
        t.slot.holder = some b ∧ t.slot.ptrHigh = h ∧ t.slot.ptrLow = l ∧ bPhase (t.bind b) = 2 ∧
        (∀ k, k ≠ b → bPhase (t.bind k) = bPhase (s.bind k)) ∧ (∀ k, k < 16 → (t.bind k).leadin = false) ∧
        (∀ k, k < 16 → (s.bind k).leadin = true → k ≠ b ∨ LTurnBlk.PATH.get (s.bind b).blk = 1 →
          Tab.get (t.bind k).ctr 0#64 BC.leadDiscard = Tab.get (s.bind k).ctr 0#64 BC.leadDiscard + 1))) ∧
      (holderIn s 2 = some b → sealsOpen s b = false → programRead s b ≠ St.ok → Runs .gatherComplete s (fun t =>
        bFaulted (t.bind b) = true ∧ bPhase (t.bind b) = 6)) ∧
      (holderIn s 2 = some b → sealsOpen s b = false → programRead s b = St.ok → (s.bind b).turn.length ≤ 256 → Runs .gatherComplete s (fun t =>
        bPhase (t.bind b) = 3 ∧ t.slot = s.slot ∧ t.clusters = [] ∧ (t.bind b).wrote = [] ∧
        (∀ cl, cl < 32 → readBytes t (sramBase + cl * 0x4000000 + 0x1FFF000) (16 * (s.bind b).turn.length) =
          (s.bind b).turn.flatMap (fun e => bytesOf e.len.toNat 16)) ∧
        (holdsRequests s b = true → (t.bind b).turn = (s.bind b).turn.map (fun e => match queryTokens s e with
          | some ts => { e with toks := ts }
          | none => e.fail 1)))) ∧
      (holderIn s 3 = some b → (s.bind b).weightsRead = false → tilesRead s b = true → Runs .leadInStart s (fun t =>
        (t.bind b).weightsRead = true ∧ (∀ k, leadTarget s b = some k → (t.bind k).leadin = true) ∧
        (∀ k, leadTarget s b ≠ some k → (t.bind k).leadin = (s.bind k).leadin) ∧
        (leadTarget s b = none → OnlyChanges [.binds] s t) ∧
        (∀ k, leadTarget s b = some k → ∀ cl a, cl < 32 → leadTiles s k cl = [a] → (∀ c, c < 32 → c ≠ cl → leadTiles s k c = []) →
          let d := leadKey s k cl
          moveStatus s (s.bind k).seat false a 16384 = St.ok → uncorrAt s (keyOf s a) 16384 = false → MemOk s →
          noDefer s (keyOf s a) 16384 = true → noDefer s d 16384 = true → holderOf s d 16384 = none → farAddr s a = false →
          moverStatus s (keyOf s a) d 16384 = St.ok → readBytes t d 16384 = readBytes s (keyOf s a) 16384 ∧ KeepsOutside d 16384 s t))) ∧
      (holderIn s 3 = some b → layersBusy s b = false → programBegun s b = true → Runs .layersComplete s (fun t =>
        bPhase (t.bind b) = 4 ∧ LTurnBlk.LAYER.get (t.bind b).blk = 0 ∧ t.slot = s.slot ∧
        (t.bind b).turn = (s.bind b).turn.map (fun e => { e with draws := (sampledRows e).map (fun _ => none) }))) ∧
      (holderIn s 4 = some b → allDrawn (s.bind b) = true → Runs .sampleComplete s (fun t =>
        bPhase (t.bind b) = 5 ∧ t.slot.holder = none ∧ (t.bind b).turn = (s.bind b).turn ∧ OnlyChanges [.binds, .slot] s t)) ∧
      (bPhase (s.bind b) = 6 → Runs (.enginesDrained b) s (fun t =>
        t.slot.draining ≠ some b ∧ (s.slot.draining = some b → t.clusters = [] ∧ ∀ c, (t.core c).run = none ∧ (t.core c).split = none) ∧
        (bFaulted (s.bind b) = true → bPhase (t.bind b) = 0 ∧ bFaulted (t.bind b) = true ∧
          Tab.get (t.bind b).ctr 0#64 BC.abandons = Tab.get (s.bind b).ctr 0#64 BC.abandons + 1) ∧
        (bFaulted (s.bind b) = false → bPhase (t.bind b) ≤ 1))) ∧
      (bPhase (s.bind b) ≠ 6 → s.slot.draining = some b → Runs (.enginesDrained b) s (fun t =>
        t.slot.draining = none ∧ t.binds = s.binds ∧ t.clusters = [])) ∧
      (inFlight s b = true → ingot < 16 → off < ingotSize →
        Runs (.weightReread b ingot off seat true) s (fun t => t.binds = s.binds ∧ t.mem = s.mem ∧
          t.bank.errLog.length = s.bank.errLog.length + 1 ∧
          Tab.get (t.ingot ingot).ctr 0#64 0x130 = Tab.get (s.ingot ingot).ctr 0#64 0x130 + 1) ∧
        Runs (.weightReread b ingot off seat false) s (fun t => bFaulted (t.bind b) = true ∧ bPhase (t.bind b) = 6))) ∧
    (running .banker s = true → composes s b = true → bPhase (s.bind b) = 3 → Runs (.provisionalCompose b) s (fun t =>
      let forms := (composePasses s b (bTurn (s.bind b) + 2)).forms
      (t.bind b).prov = (if forms.isEmpty then 0
        else if formTokens forms ≤ LBindRec.PIP_TOKENS.get (s.bind b).brec then 2 else 1) ∧
      (t.bind b).blk = (s.bind b).blk ∧ (∀ k, k ≠ b → t.bind k = s.bind k) ∧ OnlyChanges [.binds] s t))

/-- DICE_ROW_DRAW, COMMIT_SECTION, RELEASE_PHASE and RING_WRITE_LOST. R48, R51, R52, R139, R310 to R315, R370, R490.
-/
def Obligations.SampledRowsAreDrawnAndCommitted : Prop :=
  ∀ (s : State) (b i k row slot n key tok : Nat) (e : TEnt) (bs : List Byte),
    (running .arith s = true → holderIn s 4 = some b → sampledRow (s.bind b).turn i = some (k, row) →
      (s.bind b).turn[k]? = some e → nextOfUnit (s.bind b) i = true →
      (rowReadable s (s.bind b) e i row = true → Runs (.diceRowDraw i) s (fun t =>
        let allowed := ((List.range (LBindRec.VOCAB.get (s.bind b).brec)).filter
          (tokenAllowed s e.samp (bitmapStride (s.bind b).brec) row)).map
            (fun v => (v, BitVec.ofNat 32 (readNat s (logitKey (s.bind b) i + 2 * v) 2 * 65536)))
        let d := drawRow (BitVec.ofNat 32 (LSamp.TEMP.get e.samp)) (BitVec.ofNat 32 (LSamp.TOPP.get e.samp))
          (LSamp.TOPK.get e.samp) (LEnt.SEED.get (s.req (entSlot e))) (logicalPos e row + 1) allowed
        (t.bind b).turn = (s.bind b).turn.set k
          { e with draws := e.draws.set (if entDec e then row else 0) (some d.token) } ∧
        (∀ j, j ≠ b → t.bind j = s.bind j) ∧ OnlyChanges [.binds] s t)) ∧
      (rowReadable s (s.bind b) e i row = false → Runs (.diceRowDraw i) s (fun t =>
        (t.bind b).turn[k]? = some (e.fail 1) ∧ t.mem = s.mem))) ∧
    (running .arith s = true → commitReady s b = true → (s.bind b).waitBarrier = false →
      (sliceBinding s b = false → Runs (.commitSection b) s (fun t =>
        bTurn (t.bind b) = (bTurn (s.bind b) + 1) % 2 ^ 64 ∧ LTurnBlk.COMMIT_TIME.get (t.bind b).blk = now s ∧
        (t.bind b).relDue = true ∧ (t.bind b).waitBarrier = false ∧
        (((s.bind b).turn.map entSlot).Nodup → e ∈ (s.bind b).turn → LLenEnt.KIND.get e.len = 0 → e.draft = [] →
          e.draws = [some tok] → e.fault = 0 → (s.rx (entSlot e)).cancelDue = 0 → dueFault s (entSlot e) = 0 →
          LEnt.LEN.get (t.req (entSlot e)) = (entK e + 1) % 2 ^ 20 ∧ LEnt.NEXT.get (t.req (entSlot e)) = tok % 2 ^ 32 ∧
          LEnt.DELIVERED.get (t.req (entSlot e)) = (LEnt.DELIVERED.get (s.req (entSlot e)) + 1) % 2 ^ 32))) ∧
      (sliceBinding s b = true → isLeader s = false → Runs (.commitSection b) s (fun t =>
        (barrierOf t b).arrived = true ∧ (t.bind b).waitBarrier = true ∧ bTurn (t.bind b) = bTurn (s.bind b))) ∧
      (sliceBinding s b = true → isLeader s = true →
        ((barrierOf s b).flags = 0 ∧ (barrierOf s b).members + 1 = sliceSize s → Runs (.commitSection b) s (fun t =>
          bTurn (t.bind b) = (bTurn (s.bind b) + 1) % 2 ^ 64 ∧ LTurnBlk.COMMIT_TIME.get (t.bind b).blk = now s ∧
          barrierOf t b = Barrier.reset)) ∧
        (¬((barrierOf s b).flags = 0 ∧ (barrierOf s b).members + 1 = sliceSize s) → Runs (.commitSection b) s (fun t =>
          (barrierOf t b).arrived = true ∧ bTurn (t.bind b) = bTurn (s.bind b))))) ∧
    (running .banker s = true → (s.bind b).loaded = true → (s.bind b).relDue = true → Runs (.releasePhase b) s (fun t =>
      (t.bind b).relDue = false ∧
      (sliceState s ≠ 4 → (bindSlots s b).all (fun n => (s.rx n).tail != .wants) = true → ∀ d, d ∈ (s.bind b).drops →
        runLoose (s.bind b) d.1 d.2 = true → LRunRec.LASTREAD.get (runRec (s.bind b) d.1 d.2) ≤ bTurn (s.bind b) →
        d ∉ (t.bind b).drops ∧ (runBad (s.bind b) d.1 d.2 = false → runRec (t.bind b) d.1 d.2 = 0#128)))) ∧
    (running .banker s = true → rState s slot ≠ RS.free → (s.rx slot).ringUndo[n]? = some (key, bs) →
      Runs (.ringWriteLost slot n) s (fun t =>
        (rActive s slot = true → inFlight s (rBind s slot) = true → (t.rx slot).ringUndo = (s.rx slot).ringUndo.eraseIdx n ∧
          (t.rx slot).faultDue = 2 ∧ (holderOf s key bs.length = none → readBytes t key bs.length = bs ∧
            ∀ j, j < key ∨ key + bs.length ≤ j → memByte t j = memByte s j)) ∧
        (rActive s slot = true → inFlight s (rBind s slot) = false → rState t slot = RS.ending ∧ LEnt.END.get (t.req slot) = 4 ∧
          LEnt.DETAIL.get (t.req slot) = 2)))

/-- FLUSH_COMPLETE, SEED_COPY_COMPLETE, PAUSE_TAIL_COMPLETE and PAUSE_TAIL_RETRY. R67, R112, R116, R117, R123 to
R126, R471. -/
def Obligations.KvCopiesComplete : Prop :=
  ∀ (s : State) (b slot col lane f a : Nat) (c : Copy), running .banker s = true →
    let near := fun (x k : Nat) => farAddr s x = false ∧ keyOf s x = k
    (flushOf s b slot col = some c →
      let src := sourceKey s b lane c.src
      let dst := targetKey s lane c.dst
      let noted := fun (t : State) => if c.doneLanes.length + 1 = gLanes (s.bind b).brec then flushOf t b slot col = none
        else flushOf t b slot col = some { c with doneLanes := c.doneLanes ++ [lane], heldLanes := c.heldLanes.filter (· != lane) }
      (c.heldLanes.contains lane = true → c.failed = St.ok →
        if laneOpen s b lane c then Runs (.flushComplete b slot col lane) s (fun t => t = s)
        else Runs (.flushComplete b slot col lane) s (fun t => noted t ∧ t.mem = s.mem)) ∧
      (c.heldLanes.contains lane = false → lane ≠ c.doneLanes.length + c.heldLanes.length →
        Runs (.flushComplete b slot col lane) s (fun t => t = s)) ∧
      (c.heldLanes.contains lane = false → lane = c.doneLanes.length + c.heldLanes.length → moverWaits s dst 16384 = true →
        Runs (.flushComplete b slot col lane) s (OnlyChanges [.ingots] s)) ∧
      (c.heldLanes.contains lane = false → lane = c.doneLanes.length + c.heldLanes.length → c.dst = .run a →
        near (laneAddr s lane c.src) src → near (a + lane * 16384) dst → copyStatus s b lane c = St.ok → laneOpen s b lane c = false →
        noDefer s src 16384 = true → noDefer s dst 16384 = true → holderOf s dst 16384 = none → MemOk s →
        Runs (.flushComplete b slot col lane) s (fun t => readBytes t dst 16384 = readBytes s src 16384 ∧
          (∀ k, k < dst ∨ dst + 16384 ≤ k → memByte t k = memByte s k) ∧ noted t))) ∧
    ((s.bind (rBind s slot)).seeds.find? (fun d => d.slot == slot) = some c →
      let d := rBind s slot
      let r := (s.bind d).brec
      let src := sourceKey s d lane c.src
      let dst := riserKey s (f + lane)
      (c.heldLanes = [] → lane ≠ c.doneLanes.length → Runs (.seedCopyComplete slot lane) s (fun t => t = s)) ∧
      (c.heldLanes = [] → lane = c.doneLanes.length → c.dst = .set f → near (laneAddr s lane c.src) (keyOf s (laneAddr s lane c.src)) →
        copyStatus s d lane c = St.ok → jobOpen s (· == .lane d slot c.col lane) = false → noDefer s src 16384 = true → holderOf s dst 16384 = none →
        (src + 16384 ≤ dst ∨ dst + 16384 ≤ src) → (laneBytes r c.count).all (fun o => decide (o < 16384)) = true →
        Runs (.seedCopyComplete slot lane) s (fun t =>
          (∀ i, i < c.count → (∀ e, e < gD r → readElem t r dst (keyNib r i e) = readElem s r src (keyNib r i e) ∧
              readElem t r dst (valNib r i e) = readElem s r src (valNib r i e)) ∧
            (∀ g, g < gBlocks r → memByte t (dst + keyScaleOff r i g) = memByte s (src + keyScaleOff r i g) ∧
              memByte t (dst + valScaleOff r i g) = memByte s (src + valScaleOff r i g)) ∧
            readBytes t (dst + 0x3E00 + 4 * i) 4 = readBytes s (src + 0x3E00 + 4 * i) 4) ∧
          (∀ k, k < dst ∨ dst + 16384 ≤ k → memByte t k = memByte s k) ∧
          (if lane + 1 = gLanes r then (t.bind d).seeds.any (fun x => x.slot == slot) = false
           else (t.bind d).seeds.find? (fun x => x.slot == slot) = some { c with doneLanes := c.doneLanes ++ [lane] })))) ∧
    (∀ p i k, (s.rx slot).tail = .writing p i k → (s.bind (rBind s slot)).tails.find? (fun d => d.slot == slot) = some c →
      let d := rBind s slot
      let r := (s.bind d).brec
      let n := gLanes r
      let bad := (List.range n).filter (fun j => copyStatus s d j c != St.ok)
      let lost := fun (j : Nat) => [St.noroute, St.link].contains (copyStatus s d j c)
      let at' := ptKey s (s.req slot) + 64 + 8 * (LEnt.LEN.get (s.req slot) / gTpp r)
      c.heldLanes = [] → c.failed = St.ok → c.src = .set f → c.dst = .run a → keyOf s a + n * 16384 ≤ hmBase →
      (∀ j, j < n → near (laneAddr s j c.src) (riserKey s (f + j)) ∧ near (a + j * 16384) (keyOf s a + j * 16384) ∧
        laneOpen s d j c = false ∧ laneWaits s j c = false) → rActive s slot = true →
      (bad = [] → Runs (.pauseTailComplete slot) s (fun t =>
        (t.rx slot).tail = .none ∧ (t.rx slot).tailRun = true ∧ (t.rx slot).held = none ∧
        (∀ x, x ∈ (t.bind d).tails → x.slot ≠ slot) ∧
        (MemOk s → 2 ^ 52 ≤ ptKey s (s.req slot) → noDefer s (keyOf s a) (n * 16384) = true → holderOf s (keyOf s a) (n * 16384) = none → holderOf s at' 8 = none →
          (s.mir (rSeat s slot)).hold = false →
          addrStatus s (LEnt.PTBASE.get (s.req slot) + 64 + 8 * (LEnt.LEN.get (s.req slot) / gTpp r)) 8 = St.ok →
          (∀ j, j < n → readBytes t (keyOf s a + j * 16384) 16384 = readBytes s (riserKey s (f + j)) 16384) ∧
          readWord t at' = ptMake (runAddr r p i) p 2 k))) ∧
      (bad ≠ [] → inFlight s d = false → Runs (.pauseTailComplete slot) s (fun t => rState t slot = RS.ending ∧
        LEnt.END.get (t.req slot) = 4 ∧ (bad.any lost = false → LEnt.DETAIL.get (t.req slot) = 1) ∧
        (bad.all lost = true → LEnt.DETAIL.get (t.req slot) = 2)))) ∧
    ((s.rx slot).tail = .wants → inFlight s (rBind s slot) = false → ∀ h, (s.rx slot).held = some h →
      let run := allocRun s (rBind s slot) (some (slotDie s h)) (bTurn (s.bind (rBind s slot)))
      (∀ u p i, run = some (u, p, i) → Runs (.pauseTailRetry slot) s (fun t =>
        (t.rx slot).tail = .writing p i (LEnt.LEN.get (s.req slot) % gTpp (s.bind (rBind s slot)).brec) ∧
        LRunRec.REFCNT.get (runRec (t.bind (rBind s slot)) p i) = 1 ∧ LRunRec.RESERVED.get (runRec (t.bind (rBind s slot)) p i) = 1)) ∧
      (run = none → Runs (.pauseTailRetry slot) s (fun t => t = s)))

/-- Park and return copies, evictions, park space on this host, releases and owners. R247 to R253, R258, R260, R380,
R489. -/
def Obligations.ParkedRunsComeAndGo : Prop :=
  ∀ (s u : State) (slot col owner id seat tiles new obj gap port : Nat) (pkt : BitVec 256) (r : RunCopy), running .banker s = true →
    let b := rBind s slot
    let n := gLanes (s.bind b).brec
    let run := runAddr (s.bind b).brec r.pool r.idx
    let parked := parkAddr s r.place
    let passes := fun (x y : Nat) => ∀ k, r.next ≤ k → k < n → tileStatus s (rSeat s slot) (x + k * 16384) (y + k * 16384) = St.ok ∧
      farAddr s (x + k * 16384) = false ∧ farAddr s (y + k * 16384) = false
    let still := (s.rx slot).faultDue = 0 ∧ r.failed = St.ok
    let plain := fun (x y : Nat) => MemOk s ∧ (∀ k, k < n → keyOf s (x + k * 16384) = keyOf s x + k * 16384 ∧
      keyOf s (y + k * 16384) = keyOf s y + k * 16384) ∧ overlaps (keyOf s x) (n * 16384) (keyOf s y) (n * 16384) = false ∧
      noDefer s (keyOf s x) (n * 16384) = true ∧ noDefer s (keyOf s y) (n * 16384) = true ∧ holderOf s (keyOf s y) (n * 16384) = none
    let copied := fun (x y : Nat) (t : State) => (∀ k, r.next ≤ k → k < n →
        readBytes t (keyOf s (y + k * 16384)) 16384 = readBytes s (keyOf s (x + k * 16384)) 16384) ∧
      (∀ k, k < keyOf s y + r.next * 16384 ∨ keyOf s y + n * 16384 ≤ k → memByte t k = memByte s k)
    let detailOf := fun (st : Nat) => if [St.noroute, St.link, St.timeout].contains st then 5 else 1
    let ends := fun (detail : Nat) (t : State) => rState t slot = RS.ending ∧ LEnt.END.get (t.req slot) = 4 ∧
      LEnt.DETAIL.get (t.req slot) = detail
    let marked := fun (l m : List RunCopy) => (∀ q, q ∈ m → q.col = col → q.done = true) ∧ m.length = l.length ∧
      m.filter (fun q => q.col != col) = l.filter (fun q => q.col != col)
    ((s.rx slot).parks.find? (fun x => x.col == col && !x.done) = some r →
      (jobOpen s (· == .park slot col) = false → still → passes run parked → plain run parked →
        (inFlight s b = true → Runs (.parkCopyComplete slot col) s (fun t =>
          marked (s.rx slot).parks (t.rx slot).parks ∧ t.binds = s.binds ∧ copied run parked t)) ∧
        (inFlight s b = false → Runs (.parkCopyComplete slot col) s (fun t =>
          (∀ q, q ∈ (t.rx slot).parks → q.done = false) ∧ { r with done := true, next := max n r.next } ∈ (t.rx slot).parked))) ∧
      (rActive s slot = true → inFlight s b = false →
        (still → r.next < n → ∀ st, tileStatus s (rSeat s slot) (run + r.next * 16384) (parked + r.next * 16384) = st → st ≠ St.ok →
          Runs (.parkCopyComplete slot col) s (ends (detailOf st))) ∧
        (n ≤ r.next → r.failed ≠ St.ok → Runs (.parkCopyComplete slot col) s (ends (detailOf r.failed))))) ∧
    ((s.rx slot).returns.find? (fun x => x.col == col && !x.done) = some r →
      (jobOpen s (· == .back slot col) = false → still → passes parked run → plain parked run →
        (inFlight s b = true → Runs (.returnCopyComplete slot col) s (fun t =>
          marked (s.rx slot).returns (t.rx slot).returns ∧ t.binds = s.binds ∧ copied parked run t)) ∧
        (inFlight s b = false → rState s slot = RS.resuming → bTurn (s.bind b) ≠ 2 ^ 64 - 1 → (s.rx slot).expireDue = 0 →
          (LEnt.DEADLINE.get (s.req slot) = 0 ∨ now s < LEnt.DEADLINE.get (s.req slot)) →
          (LEnt.T_EXPIRE.get (s.req slot) = 0 ∨ now s < LEnt.T_EXPIRE.get (s.req slot)) →
          (s.rx slot).returns.length = (s.rx slot).parked.length → ((s.rx slot).returns.all (fun q => q.done || q.col == col)) = true →
          Runs (.returnCopyComplete slot col) s (fun t => (t.rx slot).returns = [] ∧ (t.rx slot).parked = [] ∧
            1 ≤ rState t slot ∧ rState t slot ≤ 3))) ∧
      (rActive s slot = true → inFlight s b = false →
        (still → r.next < n → moverWaits s (keyOf s (run + r.next * 16384)) 16384 = false →
          ∀ st, tileStatus s (rSeat s slot) (parked + r.next * 16384) (run + r.next * 16384) = st → st ≠ St.ok →
          Runs (.returnCopyComplete slot col) s (ends (detailOf st))) ∧
        (n ≤ r.next → r.failed ≠ St.ok → Runs (.returnCopyComplete slot col) s (ends (detailOf r.failed))))) ∧
    (carried s port 9 0 none pkt = true →
     Runs (.evictionNotice ⟨⟨port, pkt⟩, slot⟩) s (fun t =>
      if rState s slot = RS.paused ∨ rState s slot = RS.pausing then
        rState t slot = RS.ending ∧ LEnt.END.get (t.req slot) = 5 ∧ LEnt.DETAIL.get (t.req slot) = 3
      else Tab.get t.bank.ctr 0#64 dcParkStale = Tab.get s.bank.ctr 0#64 dcParkStale + 1 ∧ Replies ⟨pkt, 0#4096⟩ St.ok 0 s t ∧
        OnlyChanges [.bank, .fab] s t) ∧
     (LPkt.SRC.get pkt = owner → Runs (.parkSpaceRelease ⟨⟨port, pkt⟩, owner⟩ id) s (fun t =>
      (∀ n, LObj.KIND.get (s.obj n) = 5 → (t.ox n).park = (s.ox n).park.filter (fun x => !(x.owner == owner && x.id == id))) ∧
      (∀ n, LObj.KIND.get (s.obj n) ≠ 5 → t.ox n = s.ox n) ∧ .park owner 4 id 0 ∈ t.out ∧ t.objs = s.objs)) ∧
     (LPkt.SRC.get pkt = owner →
      let a := receivedPackets s port 1
      let place := if LTierCfg.PARK_HOST.on s.bank.tierCfg && tiles != 0 then hostPlace a owner slot tiles else none
      (place = none → Runs (.parkHostTakeRun ⟨⟨port, pkt⟩, owner⟩ seat slot col tiles) s (fun t => .park owner 7 slot col ∈ t.out ∧
        t.objx = s.objx ∧ t.bank.ctr = s.bank.ctr)) ∧
      (place = some (u, obj, gap) → Runs (.parkHostTakeRun ⟨⟨port, pkt⟩, owner⟩ seat slot col tiles) s (fun t =>
        (t.ox obj).park = (u.ox obj).park ++
          [⟨u.bank.nextParkId, owner, seat, slot, col, gap, tiles, u.bank.ageClock.toNat⟩] ∧
        t.bank.nextParkId = u.bank.nextParkId + 1 ∧
        Tab.get t.bank.ctr 0#64 dcSharedDraw = Tab.get u.bank.ctr 0#64 dcSharedDraw + BitVec.ofNat 64 tiles ∧
        .park owner 6 u.bank.nextParkId (LObj.WORK.get (u.obj obj) + gap * 16384) ∈ t.out ∧ t.objs = s.objs))) ∧
     (LPkt.SRC.get pkt = new → Runs (.ownerChange ⟨⟨port, pkt⟩, owner⟩ new seat) s (fun t =>
      (∀ n, n ∈ objList s → (t.ox n).park = (s.ox n).park.map (fun x =>
        if x.owner == owner && x.seat == seat then { x with owner := new } else x)) ∧
      Replies ⟨pkt, 0#4096⟩ St.ok 0 s t ∧ OnlyChanges [.objx, .fab] s t))) ∧
    (let done := fun (t : State) => (∀ x, x ∈ t.fab.releases ↔ x ∈ s.fab.releases ∧ x.1 ≠ id) ∧
        (∀ x, x ∈ s.fab.releases → x.1 = id → id ∉ (t.rx x.2.1).releases) ∧ OnlyChanges [.reqx, .fab] s t
     (carried s port 9 0 none pkt = true → Runs (.parkReleaseAck ⟨⟨port, pkt⟩, id⟩) s (fun t => done t ∧ Replies ⟨pkt, 0#4096⟩ St.ok 0 s t)) ∧
     (s.fab.releases.any (fun x => x.1 == id && decide (x.2.2 + tierTimeout s ≤ now s)) = true →
        Runs (.parkReleaseTimeout id) s done))

/-- Ends of PLACE passes, late and lost fetches, expiries, CONS polls and REQUEST_DONE. R235, R237, R240, R241,
R243, R244, R255, R256, R268, R276, R279, R284. -/
def Obligations.TimersAndPassesTakeEffect : Prop :=
  ∀ (s : State) (b slot n c tier fcs late i : Nat) (r : RunCopy), running .banker s = true →
    let x := s.ox n
    let from' := (opEnds s n).1 + i * 16384
    let to' := (opEnds s n).2.1 + i * 16384
    let idle := x.failed = 0 ∧ tilesOpen s n = false
    let last := x.todo = [(i, 1)] ∧ idle ∧ x.waiting = [] ∧ moverWaits s (keyOf s to') 16384 = false ∧ queueWaits s n = false
    let status := tileStatus s (LObj.SEAT.get (s.obj n)) from' to'
    let copied := fun (t : State) => MemOk s → farAddr s from' = false → farAddr s to' = false → noDefer s (keyOf s from') 16384 = true → noDefer s (keyOf s to') 16384 = true →
      holderOf s (keyOf s to') 16384 = none → readBytes t (keyOf s to') 16384 = readBytes s (keyOf s from') 16384 ∧
        ∀ k, k < keyOf s to' ∨ keyOf s to' + 16384 ≤ k → memByte t k = memByte s k
    let fails := fun (t : State) => LObj.STATE.get (t.obj n) = 5 ∧ LObj.STATUS.get (t.obj n) = tileFailure status ∧
      LObj.WORK.get (t.obj n) = LObj.WORK.get (s.obj n)
    (moving s n = true →
      (last → status = St.ok → Runs (.movePassEnd n) s copied) ∧
      (last → status ≠ St.ok → Runs (.movePassEnd n) s fails) ∧
      (x.todo = [] → idle →
        (LObj.KIND.get (s.obj n) = 1 → inUse s n = true →
          (inFlight s (useBind s n) = true → Runs (.movePassEnd n) s (fun t => (t.ox n).switchWait = true ∧ t.objs = s.objs)) ∧
          (inFlight s (useBind s n) = false → Runs (.movePassEnd n) s (fun t => LObj.STATE.get (t.obj n) = 1 ∧
            LObj.WORK.get (t.obj n) = x.target % 2 ^ 64 ∧
            (LObj.BTIER.get (s.obj n) = 0 ∨ LObj.BACK.get (s.obj n) ≠ LObj.WORK.get (s.obj n) →
              (t.ox n).oldRanges = x.oldRanges ++ [(LObj.WORK.get (s.obj n), LObj.TILES.get (s.obj n))])))) ∧
        (¬(LObj.KIND.get (s.obj n) = 1 ∧ inUse s n = true) →
          (x.marks = [] ∨ 5 ≤ x.pass → Runs (.movePassEnd n) s (fun t => LObj.STATE.get (t.obj n) = 1 ∧
            LObj.WORK.get (t.obj n) = x.target % 2 ^ 64 ∧ (t.ox n).op = 0)) ∧
          (x.marks ≠ [] → x.pass < 5 → Runs (.movePassEnd n) s (fun t => (t.ox n).pass = x.pass + 1 ∧
            (t.ox n).todo = x.marks.map (fun k => (k, 1)) ∧ (t.ox n).marks = [] ∧ t.objs = s.objs))))) ∧
    (placing s n = true →
      (last → status = St.ok → Runs (.placeOperationEnd n) s copied) ∧
      (last → status ≠ St.ok → Runs (.placeOperationEnd n) s fails) ∧
      (x.todo = [] → idle → Runs (.placeOperationEnd n) s (fun t => LObj.STATE.get (t.obj n) = 1 ∧ (t.ox n).op = 0 ∧
        LObj.WORK.get (t.obj n) = if LObj.STATE.get (s.obj n) = 4 then LObj.BACK.get (s.obj n) else LObj.WORK.get (s.obj n)))) ∧
    (s.slot.holder = some b → lateTier s = some (tier, late) → Runs (.fetchLate b tier fcs) s (fun t =>
      Tab.get (t.bind b).ctr 0#64 (BC.stallT1 + tier - 1) = Tab.get (s.bind b).ctr 0#64 (BC.stallT1 + tier - 1) +
        BitVec.ofNat 64 (min fcs ((now s - max (s.bind b).stallTo late) * 27 / 20)) ∧
      (t.bind b).stallTo = now s ∧ OnlyChanges [.binds] s t)) ∧
    (∀ st, st = St.timeout ∨ st = St.noroute ∨ st = St.link →
      let past := fun (due : Nat) => st ≠ St.timeout ∨ due ≤ now s
      (s.slot.holder = some b → inFlight s b = true → past (s.bind b).fetchDue →
        Runs (.fetchTimeout (.weightTile b) st) s (fun t => bFaulted (t.bind b) = true ∧ bPhase (t.bind b) = 6) ∧
        ((s.bind b).turn.any (fun e => entSlot e == slot) = true → Runs (.fetchTimeout (.oneRequest b slot) st) s (fun t =>
          (t.bind b).turn = (s.bind b).turn.map (fun e => if entSlot e == slot then e.fail 2 else e) ∧
          Tab.get (t.bind b).ctr 0#64 BC.tierFault = Tab.get (s.bind b).ctr 0#64 BC.tierFault +
            (if (s.rx slot).tierHit then 0 else 1) ∧ OnlyChanges [.binds, .reqx, .fab, .out] s t))) ∧
      ((s.core c).split.isSome = true → st ≠ St.timeout → layerHolder s = some b →
        Runs (.fetchTimeout (.splitPartial c) st) s (fun t => (t.core c).split = none ∧ bFaulted (t.bind b) = true)) ∧
      (x.todo ≠ [] → x.failed = 0 → past x.due → Runs (.fetchTimeout (.placeCopy n) st) s (fun t =>
        (t.ox n).failed = St.timeout ∧ (t.ox n).todo = [] ∧ OnlyChanges [.objx, .fab, .out] s t)) ∧
      (rActive s slot = true → inFlight s (rBind s slot) = false → r.done = false → past r.due →
        let ends := fun (t : State) => rState t slot = RS.ending ∧ LEnt.END.get (t.req slot) = 4 ∧ LEnt.DETAIL.get (t.req slot) = 5
        (r ∈ (s.rx slot).parks → Runs (.fetchTimeout (.parkCopy slot r.col) st) s ends) ∧
        (r ∈ (s.rx slot).returns → Runs (.fetchTimeout (.returnCopy slot r.col) st) s ends)) ∧
      (rState s slot = RS.free ∨ rState s slot = RS.done → Runs (.fetchTimeout (.promptRead slot) st) s (fun t =>
        (t.rx slot).promptLost = st ∧ OnlyChanges [.reqx] s t)) ∧
      (rActive s slot = true ∨ rState s slot = RS.ending → Runs (.fetchTimeout (.consRead slot) st) s (fun t =>
        (t.rx slot).consLost = true ∧ OnlyChanges [.reqx] s t)) ∧
      (rActive s slot = true → ∀ what, what ∈ [BlockRead.sampling, .mask, .grammar, .draft] → Runs (.fetchTimeout (.blockRead slot what) st) s (fun t =>
        readLost t slot what = true ∧ OnlyChanges [.reqx] s t))) ∧
    ((s.bind b).loaded = true → inFlight s b = false → Runs (.expiryCheck b) s (fun t =>
      ∀ k, rActive s k = true → rBind s k = b →
        let late := LEnt.DEADLINE.get (s.req k) ≠ 0 ∧ LEnt.DEADLINE.get (s.req k) ≤ now s
        (late ∨ (LEnt.T_EXPIRE.get (s.req k) ≠ 0 ∧ LEnt.T_EXPIRE.get (s.req k) ≤ now s)) →
        rState t k = RS.ending ∧ LEnt.END.get (t.req k) = 5 ∧ (late → LEnt.DETAIL.get (t.req k) = 2))) ∧
    (rActive s slot = true ∨ rState s slot = RS.ending → ∀ w, (s.rx slot).endWait = some w →
      ringRoom (readCons s slot) slot ≠ 0 → Runs (.consPoll slot) s (fun t => (t.rx slot).endWait = none ∧
        (t.rx slot).prod = (s.rx slot).prod + 1)) ∧
    (rActive s slot = true → (s.rx slot).endWait = none → bPhase (s.bind (rBind s slot)) ≠ 0 →
      let a := LEnt.RING.get (s.req slot) + 64
      let ok := !(s.rx slot).consLost && accessStatus s (rSeat s slot) false a 4 == St.ok && !uncorrAt s (keyOf s a) 4
      Runs (.consPoll slot) s (fun t => t.reqs = s.reqs ∧ t.mem = s.mem ∧ (t.rx slot).consLost = false ∧
        (t.rx slot).cons = if ok then BitVec.ofNat 32 (readNat s (keyOf s a) 4) else (s.rx slot).cons)) ∧
    (requestDone s slot = true → Runs (.requestDone slot) s (fun t => rState t slot = RS.done ∧
      (∀ k, k ≠ slot → t.req k = s.req k) ∧ OnlyChanges [.reqs] s t))

/-- Formation records and the commit barrier's gathers, scatters and timeouts. R358, R360, R369 to R373. What a
scatter carries of an entry beside its length-table entry is the model's own (log entry 77). -/
def Obligations.SliceRecordsTakeEffect : Prop :=
  ∀ (s : State) (b port p up : Nat) (pkt : BitVec 256) (w : BitVec 512) (entries : List SliceEnt),
    let passes := fun (u : State) (t : State) => ∀ d, d ∈ formSums u → Out.sync up
      (syncRec s 0x10 0 [(LSync.FORM, 1), (LSync.DIGEST, d.1), (LSync.MEMBERS, d.2)]) ∈ t.out
    let told := fun (v : BitVec 512) (t : State) => ∀ k, k ∈ treeKids s → isMatch s k.1 = true → Out.sync k.2 v ∈ t.out
    let parent := treeParent s = some p ∧ neighbour s p = some up ∧ isMatch s p = true
    let acked := fun (t : State) => Replies ⟨pkt, 0#4096⟩ St.ok 0 s t
    let member := isLeader s = false
    let leader := isLeader s = true
    (running .banker s = true →
      (sliceState s = 1 → member → parent → formKids s = true → s.fab.formSent + 1000000 ≤ now s →
        Runs .formResend s (fun t => passes s t ∧ t.fab.formSent = now s ∧ t.fab.slice = s.fab.slice)) ∧
      (sliceState s = 1 → s.fab.formAt + 10000000000 ≤ now s → Runs .formTimeout s (fun t =>
        sliceState t = 0 ∧ LFabId.STAG.get t.fab.fabId = 0 ∧ LSliceSt.LAST_STATUS.get t.fab.slice = St.slice)) ∧
      (barrierLate s b = 1 → member → Runs (.barrierTimeout b) s (fun t => (barrierOf t b).sent = true ∧
        t.binds = s.binds ∧ (parent → Out.sync up (syncRec s 0x10 b [(LSync.ABANDON, max 1 (barrierOf s b).flags),
          (LSync.TURN, bTurn (s.bind b) + 1), (LSync.MEMBERS, (barrierOf s b).members + 1)]) ∈ t.out))) ∧
      (barrierLate s b = 1 → leader → inFlight s b = true → Runs (.barrierTimeout b) s (fun t =>
        bFaulted (t.bind b) = true ∧
        told (syncRec s 0x11 b [(LSync.ABANDON, 1), (LSync.TURN, bTurn (s.bind b) + 1), (LSync.MEMBERS, 1)]) t)) ∧
      (barrierLate s b = 2 → Runs (.barrierTimeout b) s (fun t => sliceState t = 5 ∧
        ((s.bind b).loaded = true → bFaulted (t.bind b) = true)))) ∧
    (running .link s = true → carried s port 9 0 none pkt = true → fromChild s port pkt w = true →
      let c := LSync.BINDING.get w
      let x := barrierOf s c
      let n := LSync.MEMBERS.get w
      let i := Instr.barrierGather ⟨port, pkt⟩ w
      (LSync.FORM.on w = true → sliceState s = 1 →
        let u := formTake s port w
        ((port, LSync.DIGEST.get w, n) ∈ u.fab.formGot ∨ ∀ k, k ∈ treeKids s → k.1 = port → subtree s k.2 < n) ∧
        (leader → formKids u = true → (formSums u).length = 1 → Runs i s (fun t => sliceState t = 2 ∧
          told (syncRec s 0x11 0 [(LSync.FORM, 1), (LSync.MEMBERS, 1)]) t)) ∧
        (leader → formKids u = true → (formSums u).length ≠ 1 → Runs i s (fun t => sliceState t = 0 ∧
          LSliceSt.LAST_STATUS.get t.fab.slice = St.slice ∧ told (syncRec s 0x11 0 [(LSync.FAIL, 1), (LSync.MEMBERS, 1)]) t)) ∧
        (member → formKids u = true → parent → Runs i s (fun t => t.fab.formGot = u.fab.formGot ∧ passes u t)) ∧
        (formKids u = false → Runs i s (fun t => t.fab.formGot = u.fab.formGot ∧ acked t ∧ OnlyChanges [.fab] s t))) ∧
      (LSync.FORM.on w = false → LSync.RESET.on w = true → sliceState s = 4 → s.fab.resetGot.contains port = false →
        let sum := s.fab.resetMembers + n
        let whole := s.fab.resetSent = false ∧ resetQuiet s = true ∧ ∀ k, k ∈ treeKids s → k.1 = port ∨ k.1 ∈ s.fab.resetGot
        (leader → whole → sliceSize s ≤ sum + 1 → Runs i s (fun t => sliceState t = 2 ∧
          told (syncRec s 0x11 0 [(LSync.RESET, 1), (LSync.MEMBERS, 1)]) t)) ∧
        (member → whole → parent → Runs i s (fun t => t.fab.resetMembers = sum ∧ t.fab.resetGot = port :: s.fab.resetGot ∧
          t.fab.resetSent = true ∧ .sync up (syncRec s 0x10 0 [(LSync.RESET, 1), (LSync.MEMBERS, sum + 1)]) ∈ t.out)) ∧
        (¬whole ∨ (leader ∧ sum + 1 < sliceSize s) → Runs i s (fun t => t.fab.resetMembers = sum ∧
          t.fab.resetGot = port :: s.fab.resetGot ∧ acked t ∧ OnlyChanges [.fab] s t))) ∧
      (LSync.FORM.on w = false → LSync.RESET.on w = false → sliceBinding s c = true → x.got.contains port = false →
        let bad := LSync.TURN.get w ≠ bTurn (s.bind c) + 1
        let flags := max x.flags (max (LSync.ABANDON.get w) (if bad then 1 else 0))
        let noted := fun (t : State) => (barrierOf t c).got = port :: x.got ∧ (barrierOf t c).members = x.members + n ∧
          (barrierOf t c).flags = flags ∧ t.binds = s.binds
        (member → Runs i s (fun t => noted t ∧ (bad → Tab.get t.fab.sliceCtr 0#64 0x020 = Tab.get s.fab.sliceCtr 0#64 0x020 + 1))) ∧
        (leader → flags ≠ 0 → inFlight s c = true → Runs i s (fun t => bFaulted (t.bind c) = true ∧
          told (syncRec s 0x11 c [(LSync.ABANDON, 1), (LSync.TURN, bTurn (s.bind c) + 1), (LSync.MEMBERS, 1)]) t)) ∧
        (leader → flags = 0 → x.arrived = true → x.members + n + 1 = sliceSize s → Runs i s (fun t =>
          bTurn (t.bind c) = (bTurn (s.bind c) + 1) % 2 ^ 64 ∧ LTurnBlk.COMMIT_TIME.get (t.bind c).blk = now s)) ∧
        (leader → flags = 0 → x.arrived = false ∨ x.members + n + 1 ≠ sliceSize s → Runs i s (fun t => noted t ∧ acked t)))) ∧
    (running .link s = true → carried s port 9 0 none pkt = true → forMember s port w = true →
      let c := LSync.BINDING.get w
      let i := Instr.barrierScatter ⟨⟨port, pkt⟩, w⟩ entries
      let taken := fun (t : State) => bPhase (t.bind c) = 1 ∧ (t.bind c).turn.map (fun e => (e.len, e.draft, e.smask, e.maskAt, e.far)) =
        entries.map (fun e => (e.len, e.draft, e.smask, e.maskAt, e.sets))
      let goes := fun (k : Nat) (t : State) => sliceState t = k ∧ told w t
      (LSync.FORM.on w = true → sliceState s = 1 → Runs i s (goes 2)) ∧
      (LSync.FORM.on w = false → LSync.FAIL.on w = true → sliceState s = 1 → Runs i s (fun t =>
        goes 0 t ∧ LSliceSt.LAST_STATUS.get t.fab.slice = St.slice)) ∧
      (LSync.FORM.on w = false → LSync.FAIL.on w = false →
        (LSync.CONTINUE.on w = true → sliceState s = 3 → Runs i s (goes 2)) ∧
        (LSync.CONTINUE.on w = false → LSync.RESET.on w = true → LSync.TIME.get w = 0 → sliceState s = 4 → Runs i s (fun t =>
          goes 2 t ∧ t.fab.resetGot = [] ∧ t.fab.resetMembers = 0)) ∧
        (LSync.CONTINUE.on w = false → ¬(LSync.RESET.on w = true ∧ LSync.TIME.get w = 0) → sliceBinding s c = true →
          (LSync.ABANDON.on w = true → (s.bind c).loaded = true → Runs i s (fun t =>
            bFaulted (t.bind c) = true ∧ barrierOf t c = Barrier.reset ∧ told w t)) ∧
          (LSync.ABANDON.on w = false → (s.bind c).waitBarrier = true → LSync.TURN.get w = bTurn (s.bind c) + 1 →
            Runs i s (fun t => bTurn (t.bind c) = (bTurn (s.bind c) + 1) % 2 ^ 64 ∧ told w t ∧
              LTurnBlk.COMMIT_TIME.get (t.bind c).blk = LSync.TIME.get w ∧
              (entries ≠ [] → bFaulted (s.bind c) = false → taken t))) ∧
          (LSync.ABANDON.on w = false → LSync.TIME.get w = 0 → LSync.TURN.get w = bTurn (s.bind c) → entries ≠ [] →
            bFaulted (s.bind c) = false → inFlight s c = false → Runs i s (fun t => taken t ∧ told w t)))))

/-- Mirror pairs: comparison, timeouts, synchronisation, journals and seals. R376 to R379; R47 on what the partner
holds pending (log entry 94). -/
def Obligations.MirrorRecordsTakeEffect : Prop :=
  ∀ (s : State) (n b turn a port role : Nat) (pkt : BitVec 256) (d : BitVec 256) (items : List JournalItem) (i : JournalItem) (w : SealWait)
      (bs : List Byte),
    let here := carried s port 9 1 none pkt = true ∧ fromPeer s port pkt n = true
    let acked := fun (t : State) => Replies ⟨pkt, 0#4096⟩ St.ok 0 s t
    let peer := LMirSt.PEER.get (s.mir n).state
    let fits := d = mirDigest s n ∧ role ≠ mirRole s n ∧ (mirRole s n = 1 → partnerFree s n = true)
    (running .link s = true →
      (mirState s n = 1 → here → (s.mir n).paired = false →
        (¬fits → Runs (.mirrorCompare ⟨⟨port, pkt⟩, n⟩ ⟨role, d⟩) s (fun t => mirState t n = 0 ∧
          LMirSt.LAST_STATUS.get (t.mir n).state = St.mirror ∧ (t.mir n).ctr = (s.mir n).ctr)) ∧
        (fits → Runs (.mirrorCompare ⟨⟨port, pkt⟩, n⟩ ⟨role, d⟩) s (fun t => mirState t n = (if mirRole s n = 0 then 2 else 1) ∧
          (t.mir n).paired = true ∧ .mirror peer n 2 (mirRole s n) (mirDigest s n) ∈ t.out))) ∧
      (mirState s n = 1 → here → (s.mir n).paired = true → Runs (.mirrorCompare ⟨⟨port, pkt⟩, n⟩ ⟨role, d⟩) s (fun t =>
        acked t ∧ OnlyChanges [.fab] s t)) ∧
      (mirState s n = 2 → mirRole s n = 0 → Runs (.mirrorSyncComplete n) s (fun t => mirState t n = 3 ∧
        (syncItems s n ≠ [] → Out.journal peer n (syncItems s n) ∈ t.out))) ∧
      (mirState s n = 1 → mirRole s n = 1 → (s.mir n).paired = true → Runs (.mirrorSyncComplete n) s (fun t => mirState t n = 4 ∧
        OnlyChanges [.mirrors] s t)) ∧
      (mirState s n = 4 → mirRole s n = 1 → LMirSt.PEER_LOST.on (s.mir n).state = false → here →
        Runs (.mirrorJournal ⟨⟨port, pkt⟩, n⟩ items) s (fun t =>
          (t.mir n).journal = (s.mir n).journal ++ items ∧ acked t ∧ OnlyChanges [.mirrors, .fab] s t)) ∧
      (mirState s n = 1 → mirRole s n = 1 → (s.mir n).paired = true → LMirSt.PEER_LOST.on (s.mir n).state = false → here →
        Runs (.mirrorJournal ⟨⟨port, pkt⟩, n⟩ (items ++ [i])) s (fun t => ItemHolds s n 0 items.isEmpty t i ∧ mirState t n = 1 ∧ (t.mir n).journal = (s.mir n).journal)) ∧
      (mirState s n = 4 → LMirSt.PEER_LOST.on (s.mir n).state = false → here → Runs (.sealRecord ⟨⟨port, pkt⟩, n⟩ b turn) s (fun t =>
        (t.mir n).journal = (s.mir n).journal.filter (staysPending b) ∧ LMirSt.SEAL_TIME.get (t.mir n).state = now s % 2 ^ 64 ∧
        .mirror peer n 3 b (BitVec.ofNat 256 turn) ∈ t.out ∧
        Tab.get (t.mir n).ctr 0#64 0x010 = Tab.get (s.mir n).ctr 0#64 0x010 + 1 ∧
        ((s.mir n).journal = [] → Tab.get (t.mir n).sealed [] b = [] ∧ t.mem = s.mem ∧ t.reqs = s.reqs ∧ t.binds = s.binds) ∧
        ((s.mir n).journal = items ++ [i] → sealsItem b turn i = true → ItemHolds s n b items.isEmpty t i))) ∧
      (mirState s n = 3 → (s.mir n).sealing.any (fun w => w.binding == b && w.turn == turn) = true → here →
        Runs (.sealAck ⟨⟨port, pkt⟩, n⟩ b turn) s (fun t =>
          (∀ w, w ∈ (t.mir n).sealing ↔ w ∈ (s.mir n).sealing ∧ ¬(w.binding = b ∧ w.turn = turn)) ∧
          (∀ k, k ≠ n → t.mir k = s.mir k) ∧
          ((s.mir n).sealing.filter (fun w => w.binding == b && w.turn == turn) = [w] → w.writes = [(a, bs)] →
            holderOf s a bs.length = none → readBytes t a bs.length = bs ∧ KeepsOutside a bs.length s t ∧
            (∀ v, w.raises = [v] → seatEnabled s n = true → Out.irq (irqMsg s n v 16) ∈ t.out))))) ∧
    (running .banker s = true →
      (mirState s n = 1 → (s.mir n).paired = false → (s.mir n).since + 10000000000 ≤ now s → Runs (.mirrorPairTimeout n) s (fun t => mirState t n = 0 ∧
        LMirSt.LAST_STATUS.get (t.mir n).state = St.mirror)) ∧
      (mirState s n = 3 → mirRole s n = 0 → (s.mir n).sealing.any (fun w => decide (w.sent + tierTimeout s ≤ now s)) = true →
        Runs (.sealTimeout n) s (fun t => mirState t n = 5 ∧ (t.mir n).sealing = [] ∧
          ((s.mir n).sealing = [w] → w.writes = [(a, bs)] → holderOf s a bs.length = none →
            readBytes t a bs.length = bs ∧ KeepsOutside a bs.length s t))))

/-- RST_N and the stages of boot. R428 to R435, R444, R448, R456, R483. -/
def Obligations.BootGoesThroughItsStages : Prop :=
  ∀ (s : State) (ok : Bool) (lanes : BitVec 16) (good : Nat) (failed : List (Nat × Nat × Nat)),
    let fails := fun (cause : Nat) (t : State) => LBootSt.CAUSE.get t.boot.status = cause ∧
      (bootSource s ≠ 1 → stage t = 15)
    (s.pins.rstLow = false → Runs .rstNAssert s (fun t => t.pins.rstLow = true ∧ t.fuses = s.fuses ∧ t.pending = s.pending ∧
      t.boot = Boot.reset ∧ t.binds = [] ∧ t.reqs = [] ∧ (∀ k, 2 ^ 52 ≤ k → memByte t k = memByte s k) ∧
      (∀ k, k < 2 ^ 52 → memByte t k = 0#8))) ∧
    (s.pins.rstLow = true → Runs (.rstNRelease ok) s (fun t => t.pins.rstLow = false ∧ t.pins.latched = s.pins.straps ∧
      (if ok then stage t = 2 else stage t = 15 ∧ LBootSt.CAUSE.get t.boot.status = 1))) ∧
    (running .power s = true →
      (atStage s 2 = true → Runs (.bootStageFuse ok) s (fun t =>
        if ok then stage t = 3 ∧ LBootSt.COUNTER.get t.boot.status = rollbackCounter s.fuses
        else stage t = 15 ∧ LBootSt.CAUSE.get t.boot.status = 2)) ∧
      (atStage s 3 = true → Runs (.bootStageAvkin lanes) s (fun t =>
        if lanes = 0xFFFF#16 then stage t = 4 ∧ (t.port 6).trained = true ∧ LBootSt.SOURCE.get t.boot.status = (if bootSel s then 1 else 0)
        else if lanes.extractLsb' 0 8 = 0xFF#8 ∨ lanes.extractLsb' 8 8 = 0xFF#8 then
          stage t = 4 ∧ LSbFault.AVKIN_X8.get t.pins.sbFault = 1
        else stage t = 15 ∧ LBootSt.CAUSE.get t.boot.status = 3)) ∧
      (atStage s 4 = true → bootSource s ≠ 0 ∨ (magicOk (headerAt s (bootKey 0)) = true ∧ s.clk.ticks ≤ s.boot.stage3End + 54000000000) →
        Runs .bootStageFetch s (fun t =>
        let h := headerAt s (bootKey (bootSource s))
        (magicOk h = false → fails 4 t) ∧ (magicOk h = true → headerOk h = false → fails 5 t) ∧
        (magicOk h = true → headerOk h = true → stage t = 5 ∧ t.boot.header = h ∧ LBootSt.SVN.get t.boot.status = LFwHd.SVN.get h ∧
          ∀ k, k < 576 + LFwHd.LENGTH.get h + 384 →
            Tab.get t.boot.copy 0#8 k = memByte s (bootKey (bootSource s) + k)))) ∧
      (slotBNext s = true → Runs .bootStageFetch s (fun t => LBootSt.SOURCE.get t.boot.status = 2)) ∧
      (atStage s 4 = true → bootSource s = 0 → magicOk (headerAt s (bootKey 0)) = false ∨ s.boot.stage3End + 54000000000 < s.clk.ticks →
        s.boot.stage3End + 54000000000 ≤ s.clk.ticks → Runs .bootHeaderPoll s (fun t =>
          stage t = 15 ∧ LBootSt.CAUSE.get t.boot.status = 4)) ∧
      (atStage s 5 = true → Runs .bootStageVerify s (fun t =>
        (sha256Nat (copyBytes s 64 512) ≠ s.fuses.keyHash → fails 6 t) ∧
        (let n := 576 + LFwHd.LENGTH.get s.boot.header
         let kb := BitVec.ofNat 4096 (ofBytes (copyBytes s 64 512))
         let digest := sha256 (copyBytes s 0 (n - 1))
         sha256Nat (copyBytes s 64 512) = s.fuses.keyHash →
           if keyBlockOk kb = true ∧ rsaVerify (kb.extractLsb' 0 3072).toNat (ofBytes (copyBytes s n 384)) digest = true then
             stage t = 6 ∧ t.boot.measure = BitVec.ofNat 256 (ofBytes digest)
           else fails 7 t))) ∧
      (atStage s 6 = true → Runs (.bootStageRollback good) s (fun t =>
        (LFwHd.SVN.get s.boot.header < rollbackCounter s.fuses → fails 8 t ∧ t.fuses = s.fuses) ∧
        (LFwHd.ADVANCE.on s.boot.header = false → rollbackCounter s.fuses ≤ LFwHd.SVN.get s.boot.header →
          stage t = 7 ∧ t.fuses = s.fuses) ∧
        (∀ i, s.fuses.rollback.getLsbD i = true → t.fuses.rollback.getLsbD i = true))) ∧
      (atStage s 7 = true → failed.all (fun e => decide (e.2.2 < 34)) = true → Runs (.bootStageFirmware ok failed) s (fun t =>
        (ok = false → stage t = 15 ∧ LBootSt.CAUSE.get t.boot.status = 11) ∧
        (ok = true → ingotFails failed = true → stage t = 15 ∧ LBootSt.CAUSE.get t.boot.status = 10) ∧
        (ok = true → ingotFails failed = false → stage t = 8 ∧ t.boot.pcStart = s.clk.ticks ∧ t.wordErr = [] ∧
          (∀ k, k < 2 ^ 52 → memByte t k = 0#8) ∧ (∀ i c l, i < 16 → c < 96 → failedLanes failed i c = [l] →
            LLaneSt.SPARE.get (laneWord t i c) = l ∧ LLaneSt.FAILED.get (laneWord t i c) = l)))) ∧
      (atStage s 8 = true → s.boot.links = false → Runs (.bootStageLinks ok) s (fun t =>
        if ok then t.boot.links = true ∧ stage t = 8 else stage t = 15 ∧ LBootSt.CAUSE.get t.boot.status = 11)) ∧
      (atStage s 8 = true → s.boot.links = true → Runs .bootStageReady s (fun t => stage t = 9)))

/-- Supplies, lock, die sensors, SMBus, the TAP and the test multiplexer. R448, R454, R458 to R464, R467, R468. The
codes of the TAP's instructions and the sampled boundary register are the model's own (log entries 7 and 40). -/
def Obligations.SuppliesSensorsAndTestPins : Prop :=
  ∀ (s : State) (temps : List (Option Int)) (code : Nat) (pec won : Bool) (ev : Byte),
    (running .power s = true →
      Runs .railLoss s (fun t => t.pins.railLost = true ∧ OnlyChanges [.pins] s t) ∧
      Runs .pllUnlock s (fun t => t.pins.pllUnlock = true ∧ LSbFault.PLL_UNLOCK.get t.pins.sbFault = 1 ∧ OnlyChanges [.pins] s t) ∧
      Runs (.dieSensorRead temps) s (fun t =>
        (∀ d, d < 8 → dieTrip s = false → (∃ v, temps.getD d none = some v ∧ v > 115) →
          (∀ k, k < d → ∀ v, temps.getD k none = some v → v ≤ 115) →
          dieTrip t = true ∧ LSbFault.TRIP_DIE.get t.pins.sbFault = d) ∧
        ((∀ d, d < 8 → ∀ v, temps.getD d none = some v → v ≤ 115) ∨ dieTrip s = true → t.pins.sbFault = s.pins.sbFault) ∧
        OnlyChanges [.pins] s t) ∧
      (∀ k i, s.pins.probeSel = some (k, i) → Runs (.prbClkEdge ev) s (fun t => OnlyChanges [.pins] s t ∧
        t.pins.probeSeen = probeCounts s k i ∧
        (∀ x, x < 8 → t.pins.prb.getLsbD x = (match (probeCounts s k i).getD x none with
          | some n => decide (s.pins.probeSeen.getD x none ≠ some n)
          | none => ev.getLsbD x)))) ∧
      (s.pins.probeSel = none → Runs (.prbClkEdge ev) s (fun t => t = s))) ∧
    (s.pins.railLost = false →
      Runs (.smbusBlockRead code pec) s (fun t => OnlyChanges [.out] s t ∧
        (∀ v, smbusReg s code = some v → pec = true → t.out = .smbus true (bytesOf v 8) :: s.out) ∧
        (pec = false ∨ 8 ≤ code → t.out = .smbus false [] :: s.out)) ∧
      Runs (.smbusAlertResponse won) s (fun t =>
        if s.pins.alert = true ∧ won = true then t.pins.alert = false ∧
          t.out = .smbus true [BitVec.ofNat 8 (2 * (0x58 + (s.pins.latched.extractLsb' 24 2).toNat))] :: s.out
        else t.pins = s.pins ∧ t.out = .smbus false [] :: s.out) ∧
      Runs .smbusWrite s (fun t => t.out = .smbus false [] :: s.out ∧ OnlyChanges [.out] s t) ∧
      Runs .jtagTapReset s (fun t => t.pins.jtagInst = tapIdcode ∧ t.pins.jtagDrive = false ∧ OnlyChanges [.pins] s t) ∧
      Runs .jtagBypass s (fun t => t.pins.jtagInst = tapBypass ∧ t.pins.jtagDrive = false ∧ OnlyChanges [.pins, .out] s t) ∧
      Runs .jtagIdcode s (fun t => t.pins.jtagInst = tapIdcode ∧ t.out = .jtag tapIdcode 0x09480A6B :: s.out ∧
        OnlyChanges [.pins, .out] s t) ∧
      Runs .jtagSamplePreload s (fun t => t.pins.jtagInst = tapSample ∧ t.pins.jtagDrive = false ∧
        t.out = .jtag tapSample t.pins.bsr :: s.out ∧ OnlyChanges [.pins, .out, .free] s t) ∧
      (let test := fun (i : Instr) (inst : Nat) (drive : Bool) => Runs i s (fun t =>
          (s.pins.rstLow = true → t.pins.jtagInst = inst ∧ t.pins.jtagDrive = drive) ∧
          (s.pins.rstLow = false → t.pins.jtagInst = tapBypass ∧ t.pins.jtagDrive = false) ∧
          t.pins.bsr = s.pins.bsr ∧ OnlyChanges [.pins, .out] s t)
       test .jtagExtest tapExtest true ∧ test .jtagExtestPulse tapPulse true ∧ test .jtagExtestTrain tapTrain true ∧
       test .jtagClamp tapClamp true ∧ test .jtagHighz tapHighz false))

/-- An OPCODE outside the catalogue, or an RSV bit of the header, and nothing else is checked. R391. -/
def Obligations.UnknownOpcodeAndReservedHeader : Prop :=
  ∀ (s : State) (k seat m : Nat), running .banker s = true →
    let catalogue : List Nat := [0x01, 0x02, 0x03, 0x04, 0x05, 0x10, 0x11, 0x12, 0x13, 0x20, 0x21, 0x22, 0x30, 0x31, 0x32,
      0x40, 0x41, 0x42, 0x43]
    let reserved := fun (k : Nat) => ∃ f, f ∈ LCmdHd.rsv ∧ f.get (cmdOf s k).hdr ≠ 0
    let ends := fun (k st : Nat) (t : State) => LRspHd.STATUS.get (t.mbox k).rsp = st ∧ LMbCtrl.OWN.get (t.mbox k).ctrl = 0 ∧
      OnlyChanges [.clk, .bank, .mboxes, .seats, .out] s t ∧ t.bank.riserSets = s.bank.riserSets ∧
      t.bank.tierCfg = s.bank.tierCfg ∧ t.bank.challenge = s.bank.challenge ∧ t.bank.events = s.bank.events ∧
      (∀ j, j ≠ k → t.mbox j = s.mbox j)
    (nextGrant s = some k → cmdOpcode (cmdOf s k) ∉ catalogue → Runs .mailboxGrant s (ends k St.opcode)) ∧
    (nextGrant s = some k → cmdOpcode (cmdOf s k) ∈ catalogue → isLong (cmdOf s k) = false → mustHold s (cmdOf s k) = false →
      reserved k → Runs .mailboxGrant s (ends k St.range)) ∧
    (seat < 64 → m < 4 → onCore s (4 * seat + m) = true → heldReady s = false → isLong (cmdOf s (4 * seat + m)) = true →
      mustHold s (cmdOf s (4 * seat + m)) = false → reserved (4 * seat + m) →
      Runs (.longCommandPrepared seat m) s (ends (4 * seat + m) St.range)) ∧
    (nextHeld s = some k → cmdOpcode (cmdOf s k) ∈ catalogue → reserved k → Runs .heldCommandApply s (ends k St.range))

/-- A lost rail or lock stops every command; RST_N low keeps the state; RST_N assertion leaves both. R428, R446,
R448, R454, R461, R464. What a device does after a loss the manual leaves undefined: the model stops. -/
def Obligations.CommandsActOnlyWithSuppliesLockAndReset : Prop :=
  ∀ (s : State) (i : Instr),
    let rstN := i = .rstNAssert ∨ ∃ ok, i = .rstNRelease ok
    let side : Bool := match i with
      | .smbusBlockRead _ _ | .smbusAlertResponse _ | .smbusWrite | .jtagTapReset | .jtagBypass | .jtagIdcode
      | .jtagSamplePreload | .jtagExtest | .jtagExtestPulse | .jtagExtestTrain | .jtagClamp | .jtagHighz => true
      | _ => false
    (s.pins.railLost = true → ¬rstN → exec i s = .fault .undefinedRailLoss) ∧
    (s.pins.railLost = false → s.pins.pllUnlock = true → ¬rstN → side = false → exec i s = .fault .clocksUndefined) ∧
    (s.pins.rstLow = false → ∃ t, exec .rstNAssert s = .next t ∧ t.pins.rstLow = true ∧ t.pins.railLost = false ∧
      t.pins.pllUnlock = false) ∧
    (s.pins.rstLow = true → powered s = true → ∃ t, exec i s = .next t ∧
      ((∀ ok, i ≠ .rstNRelease ok) → OnlyChanges [.pins, .out, .free] s t ∧ (side = false → t = s)))

/-- No step changes the identity fuses, and no burned rollback fuse is ever unburned. R432, R434, R436, R438, R448.
-/
def Obligations.FusesOnlyBurn : Prop :=
  ∀ (s t : State), step s = .next t →
    t.fuses.ident = s.fuses.ident ∧ t.fuses.keyHash = s.fuses.keyHash ∧ t.fuses.debugKeyHash = s.fuses.debugKeyHash ∧
    t.fuses.vendSig = s.fuses.vendSig ∧ t.fuses.attKey = s.fuses.attKey ∧ t.fuses.attExp = s.fuses.attExp ∧
    (∀ i, s.fuses.rollback.getLsbD i = true → t.fuses.rollback.getLsbD i = true) ∧
    rollbackCounter s.fuses ≤ rollbackCounter t.fuses

/-- Every command changes only the parts of the state that its frame lists, and never the queue. The frame of each
of the 252 commands. -/
def Obligations.FrameOfEveryCommand : Prop :=
  ∀ (i : Instr) (s t : State), exec i s = .next t → OnlyChanges (frameOf i) s t ∧ t.pending = s.pending

/-- Every step keeps the memory in its canonical form. R14 to R19: the memories of the device, the companion window
and other chips. The form of the data is the model's own (log entry 3). -/
def Obligations.MemoryStaysCanonical : Prop :=
  ∀ (s t : State), MemOk s → step s = .next t → MemOk t

/-- The memory at reset is in canonical form and reads 0 everywhere. R428, R435. What memory that lies outside the
device reads as before a write is the model's choice (log entry 3). -/
def Obligations.ResetMemoryIsCanonical : Prop :=
  MemOk State.reset ∧ ∀ k, memByte State.reset k = 0#8

/-- Reset leaves the registers at the values the manual gives. R75, R78, R119, R257, R368, R411 to R415, R429, R448,
R484. -/
def Obligations.ResetLeavesTheStatedValues : Prop :=
  let s := State.reset
  s.pins.rstLow = true ∧ stage s = 1 ∧ LBootSt.SOURCE.get s.boot.status = 3 ∧ LBootSt.CAUSE.get s.boot.status = 0 ∧
  LSeatCfg.ENABLED.get (s.seat 0).cfg = 1 ∧ LSeatCfg.SHARE.get (s.seat 0).cfg = 256 ∧
  (∀ t, t < 5 → LWin.VALID.on (Tab.get (s.seat 0).win 0#128 (8 * t)) = true ∧
    LWin.WRITE.on (Tab.get (s.seat 0).win 0#128 (8 * t)) = true) ∧
  (∀ n, 1 ≤ n → LSeatCfg.ENABLED.get (s.seat n).cfg = 0 ∧ LSeatCfg.W_ING.get (s.seat n).cfg = 1 ∧
    LSeatCfg.W_FAB.get (s.seat n).cfg = 1 ∧ (s.seat n).win = [] ∧ (s.seat n).quota = []) ∧
  (∀ i, LGovSt.DUTY.get (s.ingot i).gov = 1024 ∧ LGovLim.P_LIMIT.get (s.ingot i).limit = 32 ∧
    LGovLim.T_LIMIT.get (s.ingot i).limit = 95) ∧
  (∀ i c, LLaneSt.SPARE.get (laneWord s i c) = 33 ∧ LLaneSt.DOWN.get (laneWord s i c) = 1 ∧
    LLaneSt.FAILED.get (laneWord s i c) = 63) ∧
  LTierCfg.TIMEOUT.get s.bank.tierCfg = 50 ∧ s.bank.riserSlots = 262144 ∧ now s = 0 ∧
  LTimeCfg.ENABLE.get s.clk.cfg = 1 ∧ LTimeSt.PARENT.get s.clk.status = 7 ∧
  s.binds = [] ∧ s.reqs = [] ∧ s.objs = [] ∧ s.stakes = [] ∧ s.pending = []

/-- A step runs the command at the front of the queue; on an empty queue one root tick passes. R2, R364, R366. -/
def Obligations.StepTakesTheFrontCommand : Prop :=
  (∀ (c : Instr) (rest : List Instr) (s : State), s.pending = c :: rest → step s = exec c { s with pending := rest }) ∧
  (∀ s : State, s.pending = [] → ∃ t, step s = .next t ∧ t.pending = [] ∧
    (powered s = true → s.pins.rstLow = false → t.clk.ticks = s.clk.ticks + 1 ∧
      t.clk.time = s.clk.time + BitVec.ofNat 64 ((s.clk.frac + (10 * ((100000000 : Int) + LTimeSt.RATE.getInt s.clk.status)).toNat) / 5400000000)) ∧
    ((powered s = false ∨ s.pins.rstLow = true) → t = s))
end

