-- ==== Sys2Proof/Laws/Tab.lean ====
section
/-! SUPPORT. Tables: reading after writing, and the canonical form that every operation keeps. -/

namespace Sys2Proof.Laws

open Sys2Proof Sys2Proof.Machine

variable {α : Type}

/-- The canonical form in terms of membership: numbers strictly rise, and no entry holds the default. -/
theorem wf_cons [DecidableEq α] {k : Nat} {v d : α} {t : Tab α} :
    Tab.wf ((k, v) :: t) d = true ↔ v ≠ d ∧ (∀ e ∈ t, k < e.1) ∧ Tab.wf t d = true := by
  simp [Tab.wf, and_assoc]

theorem wf_filter [DecidableEq α] {d : α} {t : Tab α} (p : Nat × α → Bool) (h : Tab.wf t d = true) :
    Tab.wf (t.filter p) d = true := by
  induction t with
  | nil => rfl
  | cons e t ih =>
    obtain ⟨k, v⟩ := e
    obtain ⟨hv, hk, ht⟩ := wf_cons.mp h
    rw [List.filter_cons]
    split
    · exact wf_cons.mpr ⟨hv, fun e he => hk e (List.mem_filter.mp he).1, ih ht⟩
    · exact ih ht

theorem wf_erase [DecidableEq α] {d : α} {t : Tab α} (k : Nat) (h : Tab.wf t d = true) : Tab.wf (Tab.erase t k) d = true :=
  wf_filter _ h

theorem mem_insert {t : Tab α} {k : Nat} {v : α} {e : Nat × α} (h : e ∈ Tab.insert t k v) : e = (k, v) ∨ e ∈ t := by
  induction t with
  | nil => exact .inl (by simpa [Tab.insert] using h)
  | cons a t ih =>
    unfold Tab.insert at h
    split at h
    · exact List.mem_cons.mp h
    · rcases List.mem_cons.mp h with rfl | h
      · exact .inr (List.mem_cons_self ..)
      · exact (ih h).imp id (List.mem_cons_of_mem _)

theorem wf_insert [DecidableEq α] {d v : α} {t : Tab α} {k : Nat} (h : Tab.wf t d = true) (hv : v ≠ d)
    (hk : ∀ e ∈ t, e.1 ≠ k) : Tab.wf (Tab.insert t k v) d = true := by
  induction t with
  | nil => exact wf_cons.mpr ⟨hv, by simp, rfl⟩
  | cons a t ih =>
    obtain ⟨j, w⟩ := a
    obtain ⟨hw, hj, ht⟩ := wf_cons.mp h
    unfold Tab.insert
    split
    · next lt =>
      refine wf_cons.mpr ⟨hv, fun e he => ?_, h⟩
      rcases List.mem_cons.mp he with rfl | he
      · exact lt
      · exact lt.trans (hj e he)
    · next ge =>
      have hne := hk (j, w) (List.mem_cons_self ..)
      refine wf_cons.mpr ⟨hw, fun e he => ?_, ih ht (fun e he => hk e (List.mem_cons_of_mem _ he))⟩
      rcases mem_insert he with rfl | he
      · simp only at hne ⊢; omega
      · exact hj e he

/-- Writing a record keeps the canonical form. -/
theorem wf_set [DecidableEq α] {d : α} {t : Tab α} (k : Nat) (v : α) (h : Tab.wf t d = true) :
    Tab.wf (Tab.set t d k v) d = true := by
  unfold Tab.set
  split
  · exact wf_erase k h
  · refine wf_insert (wf_erase k h) ‹_› (fun e he => ?_)
    have := (List.mem_filter.mp he).2
    simpa using this

theorem get_erase_self (t : Tab α) (d : α) (k : Nat) : Tab.get (Tab.erase t k) d k = d := by
  induction t with
  | nil => rfl
  | cons e t ih =>
    unfold Tab.erase
    rw [List.filter_cons]
    split
    · next h =>
      have h : e.1 ≠ k := by simpa using h
      rw [Tab.get, if_neg h]
      exact ih
    · exact ih

theorem get_erase_other {t : Tab α} {d : α} {j k : Nat} (h : j ≠ k) : Tab.get (Tab.erase t k) d j = Tab.get t d j := by
  induction t with
  | nil => rfl
  | cons e t ih =>
    unfold Tab.erase
    rw [List.filter_cons]
    split
    · simp only [Tab.get]
      split
      · rfl
      · exact ih
    · next hk =>
      have hk : e.1 = k := by simpa using hk
      rw [Tab.get, if_neg (show e.1 ≠ j by omega)]
      exact ih

theorem get_insert_self (t : Tab α) (d v : α) (k : Nat) (h : ∀ e ∈ t, e.1 ≠ k) : Tab.get (Tab.insert t k v) d k = v := by
  induction t with
  | nil => simp [Tab.insert, Tab.get]
  | cons e t ih =>
    unfold Tab.insert
    split
    · simp [Tab.get]
    · have hne := h e (List.mem_cons_self ..)
      simpa [Tab.get, hne] using ih (fun e he => h e (List.mem_cons_of_mem _ he))

theorem get_insert_other {t : Tab α} {d v : α} {j k : Nat} (h : j ≠ k) : Tab.get (Tab.insert t k v) d j = Tab.get t d j := by
  induction t with
  | nil => simp [Tab.insert, Tab.get, Ne.symm h]
  | cons e t ih =>
    unfold Tab.insert
    split
    · simp [Tab.get, Ne.symm h]
    · simp only [Tab.get]
      split
      · rfl
      · exact ih

/-- A read after a write to the same number gives what was written. -/
@[simp] theorem get_set_self [DecidableEq α] (t : Tab α) (d : α) (k : Nat) (v : α) : Tab.get (Tab.set t d k v) d k = v := by
  unfold Tab.set
  split
  · next h => rw [h]; exact get_erase_self t d k
  · refine get_insert_self _ d v k (fun e he => ?_)
    have := (List.mem_filter.mp he).2
    simpa using this

/-- A write leaves every other number alone. -/
theorem get_set_other [DecidableEq α] {t : Tab α} {d v : α} {j k : Nat} (h : j ≠ k) :
    Tab.get (Tab.set t d k v) d j = Tab.get t d j := by
  unfold Tab.set
  split
  · exact get_erase_other h
  · rw [get_insert_other h, get_erase_other h]

end Sys2Proof.Laws
end

