-- ==== Sys2Proof/Laws/Memory.lean ====
section
/-! SUPPORT. Memory: every operation keeps its canonical form, and what a read gives after a write. -/

namespace Sys2Proof.Laws

open Sys2Proof Sys2Proof.Machine

theorem wf_memPut {m : Tab Byte} (k : Nat) (bs : List Byte) (h : Memory.wf m) : Memory.wf (memPut m k bs) := by
  induction bs generalizing m k with
  | nil => exact h
  | cons b bs ih => exact ih (k + 1) (wf_set k b h)

theorem wf_foldl_set {β : Type} {m : Tab Byte} (l : List β) (f : β → Nat) (g : β → Byte) (h : Memory.wf m) :
    Memory.wf (l.foldl (fun t e => Tab.set t 0#8 (f e) (g e)) m) := by
  induction l generalizing m with
  | nil => exact h
  | cons e l ih => exact ih (wf_set _ _ h)

theorem wf_memCopy {m : Tab Byte} (src dst n : Nat) (h : Memory.wf m) : Memory.wf (memCopy m src dst n) :=
  wf_foldl_set _ _ _ (wf_filter _ h)

/-- A byte outside the range that is written keeps its value. -/
theorem get_memPut_other {m : Tab Byte} {j k : Nat} (bs : List Byte) (h : j < k ∨ k + bs.length ≤ j) :
    Tab.get (memPut m k bs) 0#8 j = Tab.get m 0#8 j := by
  induction bs generalizing m k with
  | nil => rfl
  | cons b bs ih =>
    rw [List.length_cons] at h
    rw [memPut, ih (by omega)]
    exact get_set_other (by omega)

/-- A byte of the range that is written holds what was written. -/
theorem get_memPut_self {m : Tab Byte} (k : Nat) (bs : List Byte) {i : Nat} (h : i < bs.length) :
    Tab.get (memPut m k bs) 0#8 (k + i) = bs[i] := by
  induction bs generalizing m k i with
  | nil => exact absurd h (Nat.not_lt_zero _)
  | cons b bs ih =>
    rw [memPut]
    cases i with
    | zero => rw [get_memPut_other bs (by omega)]; exact get_set_self ..
    | succ i =>
      have := ih (m := Tab.set m 0#8 k b) (k + 1) (i := i) (by simpa using h)
      rw [show k + (i + 1) = k + 1 + i by omega]
      simpa using this

end Sys2Proof.Laws
end

