-- ==== Sys2Proof/Laws/State.lean ====
section
/-! SUPPORT. What each update of a record leaves in each field of the state, and what reading the record then gives. -/

namespace Sys2Proof.Laws

open Sys2Proof Sys2Proof.Machine

variable (s : State) (n m : Nat)

/-! ## setBind -/

@[simp] theorem setBind_bind (x : Bind) : (s.setBind n x).bind n = x := get_set_self ..
theorem setBind_bind_other (x : Bind) (h : m ≠ n) : (s.setBind n x).bind m = s.bind m := get_set_other h
@[simp] theorem setBind_pending (x : Bind) : (s.setBind n x).pending = s.pending := rfl
@[simp] theorem setBind_fuses (x : Bind) : (s.setBind n x).fuses = s.fuses := rfl
@[simp] theorem setBind_pins (x : Bind) : (s.setBind n x).pins = s.pins := rfl
@[simp] theorem setBind_clk (x : Bind) : (s.setBind n x).clk = s.clk := rfl
@[simp] theorem setBind_boot (x : Bind) : (s.setBind n x).boot = s.boot := rfl
@[simp] theorem setBind_mem (x : Bind) : (s.setBind n x).mem = s.mem := rfl
@[simp] theorem setBind_wordErr (x : Bind) : (s.setBind n x).wordErr = s.wordErr := rfl
@[simp] theorem setBind_dirty (x : Bind) : (s.setBind n x).dirty = s.dirty := rfl
@[simp] theorem setBind_seats (x : Bind) : (s.setBind n x).seats = s.seats := rfl
@[simp] theorem setBind_mboxes (x : Bind) : (s.setBind n x).mboxes = s.mboxes := rfl
@[simp] theorem setBind_bank (x : Bind) : (s.setBind n x).bank = s.bank := rfl
@[simp] theorem setBind_reqs (x : Bind) : (s.setBind n x).reqs = s.reqs := rfl
@[simp] theorem setBind_reqx (x : Bind) : (s.setBind n x).reqx = s.reqx := rfl
@[simp] theorem setBind_objs (x : Bind) : (s.setBind n x).objs = s.objs := rfl
@[simp] theorem setBind_objx (x : Bind) : (s.setBind n x).objx = s.objx := rfl
@[simp] theorem setBind_stakes (x : Bind) : (s.setBind n x).stakes = s.stakes := rfl
@[simp] theorem setBind_hist (x : Bind) : (s.setBind n x).hist = s.hist := rfl
@[simp] theorem setBind_slot (x : Bind) : (s.setBind n x).slot = s.slot := rfl
@[simp] theorem setBind_imem (x : Bind) : (s.setBind n x).imem = s.imem := rfl
@[simp] theorem setBind_pipSlots (x : Bind) : (s.setBind n x).pipSlots = s.pipSlots := rfl
@[simp] theorem setBind_ingots (x : Bind) : (s.setBind n x).ingots = s.ingots := rfl
@[simp] theorem setBind_hm (x : Bind) : (s.setBind n x).hm = s.hm := rfl
@[simp] theorem setBind_pips (x : Bind) : (s.setBind n x).pips = s.pips := rfl
@[simp] theorem setBind_cores (x : Bind) : (s.setBind n x).cores = s.cores := rfl
@[simp] theorem setBind_clusters (x : Bind) : (s.setBind n x).clusters = s.clusters := rfl
@[simp] theorem setBind_fab (x : Bind) : (s.setBind n x).fab = s.fab := rfl
@[simp] theorem setBind_mirrors (x : Bind) : (s.setBind n x).mirrors = s.mirrors := rfl
@[simp] theorem setBind_out (x : Bind) : (s.setBind n x).out = s.out := rfl
@[simp] theorem setBind_free (x : Bind) : (s.setBind n x).free = s.free := rfl

/-! ## setSeat -/

@[simp] theorem setSeat_seat (x : Seat) : (s.setSeat n x).seat n = x := get_set_self ..
theorem setSeat_seat_other (x : Seat) (h : m ≠ n) : (s.setSeat n x).seat m = s.seat m := get_set_other h
@[simp] theorem setSeat_pending (x : Seat) : (s.setSeat n x).pending = s.pending := rfl
@[simp] theorem setSeat_fuses (x : Seat) : (s.setSeat n x).fuses = s.fuses := rfl
@[simp] theorem setSeat_pins (x : Seat) : (s.setSeat n x).pins = s.pins := rfl
@[simp] theorem setSeat_clk (x : Seat) : (s.setSeat n x).clk = s.clk := rfl
@[simp] theorem setSeat_boot (x : Seat) : (s.setSeat n x).boot = s.boot := rfl
@[simp] theorem setSeat_mem (x : Seat) : (s.setSeat n x).mem = s.mem := rfl
@[simp] theorem setSeat_wordErr (x : Seat) : (s.setSeat n x).wordErr = s.wordErr := rfl
@[simp] theorem setSeat_dirty (x : Seat) : (s.setSeat n x).dirty = s.dirty := rfl
@[simp] theorem setSeat_mboxes (x : Seat) : (s.setSeat n x).mboxes = s.mboxes := rfl
@[simp] theorem setSeat_bank (x : Seat) : (s.setSeat n x).bank = s.bank := rfl
@[simp] theorem setSeat_reqs (x : Seat) : (s.setSeat n x).reqs = s.reqs := rfl
@[simp] theorem setSeat_reqx (x : Seat) : (s.setSeat n x).reqx = s.reqx := rfl
@[simp] theorem setSeat_objs (x : Seat) : (s.setSeat n x).objs = s.objs := rfl
@[simp] theorem setSeat_objx (x : Seat) : (s.setSeat n x).objx = s.objx := rfl
@[simp] theorem setSeat_stakes (x : Seat) : (s.setSeat n x).stakes = s.stakes := rfl
@[simp] theorem setSeat_hist (x : Seat) : (s.setSeat n x).hist = s.hist := rfl
@[simp] theorem setSeat_binds (x : Seat) : (s.setSeat n x).binds = s.binds := rfl
@[simp] theorem setSeat_slot (x : Seat) : (s.setSeat n x).slot = s.slot := rfl
@[simp] theorem setSeat_imem (x : Seat) : (s.setSeat n x).imem = s.imem := rfl
@[simp] theorem setSeat_pipSlots (x : Seat) : (s.setSeat n x).pipSlots = s.pipSlots := rfl
@[simp] theorem setSeat_ingots (x : Seat) : (s.setSeat n x).ingots = s.ingots := rfl
@[simp] theorem setSeat_hm (x : Seat) : (s.setSeat n x).hm = s.hm := rfl
@[simp] theorem setSeat_pips (x : Seat) : (s.setSeat n x).pips = s.pips := rfl
@[simp] theorem setSeat_cores (x : Seat) : (s.setSeat n x).cores = s.cores := rfl
@[simp] theorem setSeat_clusters (x : Seat) : (s.setSeat n x).clusters = s.clusters := rfl
@[simp] theorem setSeat_fab (x : Seat) : (s.setSeat n x).fab = s.fab := rfl
@[simp] theorem setSeat_mirrors (x : Seat) : (s.setSeat n x).mirrors = s.mirrors := rfl
@[simp] theorem setSeat_out (x : Seat) : (s.setSeat n x).out = s.out := rfl
@[simp] theorem setSeat_free (x : Seat) : (s.setSeat n x).free = s.free := rfl

/-! ## setMbox -/

@[simp] theorem setMbox_mbox (x : Mbox) : (s.setMbox n x).mbox n = x := get_set_self ..
theorem setMbox_mbox_other (x : Mbox) (h : m ≠ n) : (s.setMbox n x).mbox m = s.mbox m := get_set_other h
@[simp] theorem setMbox_pending (x : Mbox) : (s.setMbox n x).pending = s.pending := rfl
@[simp] theorem setMbox_fuses (x : Mbox) : (s.setMbox n x).fuses = s.fuses := rfl
@[simp] theorem setMbox_pins (x : Mbox) : (s.setMbox n x).pins = s.pins := rfl
@[simp] theorem setMbox_clk (x : Mbox) : (s.setMbox n x).clk = s.clk := rfl
@[simp] theorem setMbox_boot (x : Mbox) : (s.setMbox n x).boot = s.boot := rfl
@[simp] theorem setMbox_mem (x : Mbox) : (s.setMbox n x).mem = s.mem := rfl
@[simp] theorem setMbox_wordErr (x : Mbox) : (s.setMbox n x).wordErr = s.wordErr := rfl
@[simp] theorem setMbox_dirty (x : Mbox) : (s.setMbox n x).dirty = s.dirty := rfl
@[simp] theorem setMbox_seats (x : Mbox) : (s.setMbox n x).seats = s.seats := rfl
@[simp] theorem setMbox_bank (x : Mbox) : (s.setMbox n x).bank = s.bank := rfl
@[simp] theorem setMbox_reqs (x : Mbox) : (s.setMbox n x).reqs = s.reqs := rfl
@[simp] theorem setMbox_reqx (x : Mbox) : (s.setMbox n x).reqx = s.reqx := rfl
@[simp] theorem setMbox_objs (x : Mbox) : (s.setMbox n x).objs = s.objs := rfl
@[simp] theorem setMbox_objx (x : Mbox) : (s.setMbox n x).objx = s.objx := rfl
@[simp] theorem setMbox_stakes (x : Mbox) : (s.setMbox n x).stakes = s.stakes := rfl
@[simp] theorem setMbox_hist (x : Mbox) : (s.setMbox n x).hist = s.hist := rfl
@[simp] theorem setMbox_binds (x : Mbox) : (s.setMbox n x).binds = s.binds := rfl
@[simp] theorem setMbox_slot (x : Mbox) : (s.setMbox n x).slot = s.slot := rfl
@[simp] theorem setMbox_imem (x : Mbox) : (s.setMbox n x).imem = s.imem := rfl
@[simp] theorem setMbox_pipSlots (x : Mbox) : (s.setMbox n x).pipSlots = s.pipSlots := rfl
@[simp] theorem setMbox_ingots (x : Mbox) : (s.setMbox n x).ingots = s.ingots := rfl
@[simp] theorem setMbox_hm (x : Mbox) : (s.setMbox n x).hm = s.hm := rfl
@[simp] theorem setMbox_pips (x : Mbox) : (s.setMbox n x).pips = s.pips := rfl
@[simp] theorem setMbox_cores (x : Mbox) : (s.setMbox n x).cores = s.cores := rfl
@[simp] theorem setMbox_clusters (x : Mbox) : (s.setMbox n x).clusters = s.clusters := rfl
@[simp] theorem setMbox_fab (x : Mbox) : (s.setMbox n x).fab = s.fab := rfl
@[simp] theorem setMbox_mirrors (x : Mbox) : (s.setMbox n x).mirrors = s.mirrors := rfl
@[simp] theorem setMbox_out (x : Mbox) : (s.setMbox n x).out = s.out := rfl
@[simp] theorem setMbox_free (x : Mbox) : (s.setMbox n x).free = s.free := rfl

/-! ## setReq -/

@[simp] theorem setReq_req (x : BitVec 1024) : (s.setReq n x).req n = x := get_set_self ..
theorem setReq_req_other (x : BitVec 1024) (h : m ≠ n) : (s.setReq n x).req m = s.req m := get_set_other h
@[simp] theorem setReq_pending (x : BitVec 1024) : (s.setReq n x).pending = s.pending := rfl
@[simp] theorem setReq_fuses (x : BitVec 1024) : (s.setReq n x).fuses = s.fuses := rfl
@[simp] theorem setReq_pins (x : BitVec 1024) : (s.setReq n x).pins = s.pins := rfl
@[simp] theorem setReq_clk (x : BitVec 1024) : (s.setReq n x).clk = s.clk := rfl
@[simp] theorem setReq_boot (x : BitVec 1024) : (s.setReq n x).boot = s.boot := rfl
@[simp] theorem setReq_mem (x : BitVec 1024) : (s.setReq n x).mem = s.mem := rfl
@[simp] theorem setReq_wordErr (x : BitVec 1024) : (s.setReq n x).wordErr = s.wordErr := rfl
@[simp] theorem setReq_dirty (x : BitVec 1024) : (s.setReq n x).dirty = s.dirty := rfl
@[simp] theorem setReq_seats (x : BitVec 1024) : (s.setReq n x).seats = s.seats := rfl
@[simp] theorem setReq_mboxes (x : BitVec 1024) : (s.setReq n x).mboxes = s.mboxes := rfl
@[simp] theorem setReq_bank (x : BitVec 1024) : (s.setReq n x).bank = s.bank := rfl
@[simp] theorem setReq_reqx (x : BitVec 1024) : (s.setReq n x).reqx = s.reqx := rfl
@[simp] theorem setReq_objs (x : BitVec 1024) : (s.setReq n x).objs = s.objs := rfl
@[simp] theorem setReq_objx (x : BitVec 1024) : (s.setReq n x).objx = s.objx := rfl
@[simp] theorem setReq_stakes (x : BitVec 1024) : (s.setReq n x).stakes = s.stakes := rfl
@[simp] theorem setReq_hist (x : BitVec 1024) : (s.setReq n x).hist = s.hist := rfl
@[simp] theorem setReq_binds (x : BitVec 1024) : (s.setReq n x).binds = s.binds := rfl
@[simp] theorem setReq_slot (x : BitVec 1024) : (s.setReq n x).slot = s.slot := rfl
@[simp] theorem setReq_imem (x : BitVec 1024) : (s.setReq n x).imem = s.imem := rfl
@[simp] theorem setReq_pipSlots (x : BitVec 1024) : (s.setReq n x).pipSlots = s.pipSlots := rfl
@[simp] theorem setReq_ingots (x : BitVec 1024) : (s.setReq n x).ingots = s.ingots := rfl
@[simp] theorem setReq_hm (x : BitVec 1024) : (s.setReq n x).hm = s.hm := rfl
@[simp] theorem setReq_pips (x : BitVec 1024) : (s.setReq n x).pips = s.pips := rfl
@[simp] theorem setReq_cores (x : BitVec 1024) : (s.setReq n x).cores = s.cores := rfl
@[simp] theorem setReq_clusters (x : BitVec 1024) : (s.setReq n x).clusters = s.clusters := rfl
@[simp] theorem setReq_fab (x : BitVec 1024) : (s.setReq n x).fab = s.fab := rfl
@[simp] theorem setReq_mirrors (x : BitVec 1024) : (s.setReq n x).mirrors = s.mirrors := rfl
@[simp] theorem setReq_out (x : BitVec 1024) : (s.setReq n x).out = s.out := rfl
@[simp] theorem setReq_free (x : BitVec 1024) : (s.setReq n x).free = s.free := rfl

/-! ## setRx -/

@[simp] theorem setRx_rx (x : ReqX) : (s.setRx n x).rx n = x := get_set_self ..
theorem setRx_rx_other (x : ReqX) (h : m ≠ n) : (s.setRx n x).rx m = s.rx m := get_set_other h
@[simp] theorem setRx_pending (x : ReqX) : (s.setRx n x).pending = s.pending := rfl
@[simp] theorem setRx_fuses (x : ReqX) : (s.setRx n x).fuses = s.fuses := rfl
@[simp] theorem setRx_pins (x : ReqX) : (s.setRx n x).pins = s.pins := rfl
@[simp] theorem setRx_clk (x : ReqX) : (s.setRx n x).clk = s.clk := rfl
@[simp] theorem setRx_boot (x : ReqX) : (s.setRx n x).boot = s.boot := rfl
@[simp] theorem setRx_mem (x : ReqX) : (s.setRx n x).mem = s.mem := rfl
@[simp] theorem setRx_wordErr (x : ReqX) : (s.setRx n x).wordErr = s.wordErr := rfl
@[simp] theorem setRx_dirty (x : ReqX) : (s.setRx n x).dirty = s.dirty := rfl
@[simp] theorem setRx_seats (x : ReqX) : (s.setRx n x).seats = s.seats := rfl
@[simp] theorem setRx_mboxes (x : ReqX) : (s.setRx n x).mboxes = s.mboxes := rfl
@[simp] theorem setRx_bank (x : ReqX) : (s.setRx n x).bank = s.bank := rfl
@[simp] theorem setRx_reqs (x : ReqX) : (s.setRx n x).reqs = s.reqs := rfl
@[simp] theorem setRx_objs (x : ReqX) : (s.setRx n x).objs = s.objs := rfl
@[simp] theorem setRx_objx (x : ReqX) : (s.setRx n x).objx = s.objx := rfl
@[simp] theorem setRx_stakes (x : ReqX) : (s.setRx n x).stakes = s.stakes := rfl
@[simp] theorem setRx_hist (x : ReqX) : (s.setRx n x).hist = s.hist := rfl
@[simp] theorem setRx_binds (x : ReqX) : (s.setRx n x).binds = s.binds := rfl
@[simp] theorem setRx_slot (x : ReqX) : (s.setRx n x).slot = s.slot := rfl
@[simp] theorem setRx_imem (x : ReqX) : (s.setRx n x).imem = s.imem := rfl
@[simp] theorem setRx_pipSlots (x : ReqX) : (s.setRx n x).pipSlots = s.pipSlots := rfl
@[simp] theorem setRx_ingots (x : ReqX) : (s.setRx n x).ingots = s.ingots := rfl
@[simp] theorem setRx_hm (x : ReqX) : (s.setRx n x).hm = s.hm := rfl
@[simp] theorem setRx_pips (x : ReqX) : (s.setRx n x).pips = s.pips := rfl
@[simp] theorem setRx_cores (x : ReqX) : (s.setRx n x).cores = s.cores := rfl
@[simp] theorem setRx_clusters (x : ReqX) : (s.setRx n x).clusters = s.clusters := rfl
@[simp] theorem setRx_fab (x : ReqX) : (s.setRx n x).fab = s.fab := rfl
@[simp] theorem setRx_mirrors (x : ReqX) : (s.setRx n x).mirrors = s.mirrors := rfl
@[simp] theorem setRx_out (x : ReqX) : (s.setRx n x).out = s.out := rfl
@[simp] theorem setRx_free (x : ReqX) : (s.setRx n x).free = s.free := rfl

/-! ## setObj -/

@[simp] theorem setObj_obj (x : BitVec 512) : (s.setObj n x).obj n = x := get_set_self ..
theorem setObj_obj_other (x : BitVec 512) (h : m ≠ n) : (s.setObj n x).obj m = s.obj m := get_set_other h
@[simp] theorem setObj_pending (x : BitVec 512) : (s.setObj n x).pending = s.pending := rfl
@[simp] theorem setObj_fuses (x : BitVec 512) : (s.setObj n x).fuses = s.fuses := rfl
@[simp] theorem setObj_pins (x : BitVec 512) : (s.setObj n x).pins = s.pins := rfl
@[simp] theorem setObj_clk (x : BitVec 512) : (s.setObj n x).clk = s.clk := rfl
@[simp] theorem setObj_boot (x : BitVec 512) : (s.setObj n x).boot = s.boot := rfl
@[simp] theorem setObj_mem (x : BitVec 512) : (s.setObj n x).mem = s.mem := rfl
@[simp] theorem setObj_wordErr (x : BitVec 512) : (s.setObj n x).wordErr = s.wordErr := rfl
@[simp] theorem setObj_dirty (x : BitVec 512) : (s.setObj n x).dirty = s.dirty := rfl
@[simp] theorem setObj_seats (x : BitVec 512) : (s.setObj n x).seats = s.seats := rfl
@[simp] theorem setObj_mboxes (x : BitVec 512) : (s.setObj n x).mboxes = s.mboxes := rfl
@[simp] theorem setObj_bank (x : BitVec 512) : (s.setObj n x).bank = s.bank := rfl
@[simp] theorem setObj_reqs (x : BitVec 512) : (s.setObj n x).reqs = s.reqs := rfl
@[simp] theorem setObj_reqx (x : BitVec 512) : (s.setObj n x).reqx = s.reqx := rfl
@[simp] theorem setObj_objx (x : BitVec 512) : (s.setObj n x).objx = s.objx := rfl
@[simp] theorem setObj_stakes (x : BitVec 512) : (s.setObj n x).stakes = s.stakes := rfl
@[simp] theorem setObj_hist (x : BitVec 512) : (s.setObj n x).hist = s.hist := rfl
@[simp] theorem setObj_binds (x : BitVec 512) : (s.setObj n x).binds = s.binds := rfl
@[simp] theorem setObj_slot (x : BitVec 512) : (s.setObj n x).slot = s.slot := rfl
@[simp] theorem setObj_imem (x : BitVec 512) : (s.setObj n x).imem = s.imem := rfl
@[simp] theorem setObj_pipSlots (x : BitVec 512) : (s.setObj n x).pipSlots = s.pipSlots := rfl
@[simp] theorem setObj_ingots (x : BitVec 512) : (s.setObj n x).ingots = s.ingots := rfl
@[simp] theorem setObj_hm (x : BitVec 512) : (s.setObj n x).hm = s.hm := rfl
@[simp] theorem setObj_pips (x : BitVec 512) : (s.setObj n x).pips = s.pips := rfl
@[simp] theorem setObj_cores (x : BitVec 512) : (s.setObj n x).cores = s.cores := rfl
@[simp] theorem setObj_clusters (x : BitVec 512) : (s.setObj n x).clusters = s.clusters := rfl
@[simp] theorem setObj_fab (x : BitVec 512) : (s.setObj n x).fab = s.fab := rfl
@[simp] theorem setObj_mirrors (x : BitVec 512) : (s.setObj n x).mirrors = s.mirrors := rfl
@[simp] theorem setObj_out (x : BitVec 512) : (s.setObj n x).out = s.out := rfl
@[simp] theorem setObj_free (x : BitVec 512) : (s.setObj n x).free = s.free := rfl

/-! ## setOx -/

@[simp] theorem setOx_ox (x : ObjX) : (s.setOx n x).ox n = x := get_set_self ..
theorem setOx_ox_other (x : ObjX) (h : m ≠ n) : (s.setOx n x).ox m = s.ox m := get_set_other h
@[simp] theorem setOx_pending (x : ObjX) : (s.setOx n x).pending = s.pending := rfl
@[simp] theorem setOx_fuses (x : ObjX) : (s.setOx n x).fuses = s.fuses := rfl
@[simp] theorem setOx_pins (x : ObjX) : (s.setOx n x).pins = s.pins := rfl
@[simp] theorem setOx_clk (x : ObjX) : (s.setOx n x).clk = s.clk := rfl
@[simp] theorem setOx_boot (x : ObjX) : (s.setOx n x).boot = s.boot := rfl
@[simp] theorem setOx_mem (x : ObjX) : (s.setOx n x).mem = s.mem := rfl
@[simp] theorem setOx_wordErr (x : ObjX) : (s.setOx n x).wordErr = s.wordErr := rfl
@[simp] theorem setOx_dirty (x : ObjX) : (s.setOx n x).dirty = s.dirty := rfl
@[simp] theorem setOx_seats (x : ObjX) : (s.setOx n x).seats = s.seats := rfl
@[simp] theorem setOx_mboxes (x : ObjX) : (s.setOx n x).mboxes = s.mboxes := rfl
@[simp] theorem setOx_bank (x : ObjX) : (s.setOx n x).bank = s.bank := rfl
@[simp] theorem setOx_reqs (x : ObjX) : (s.setOx n x).reqs = s.reqs := rfl
@[simp] theorem setOx_reqx (x : ObjX) : (s.setOx n x).reqx = s.reqx := rfl
@[simp] theorem setOx_objs (x : ObjX) : (s.setOx n x).objs = s.objs := rfl
@[simp] theorem setOx_stakes (x : ObjX) : (s.setOx n x).stakes = s.stakes := rfl
@[simp] theorem setOx_hist (x : ObjX) : (s.setOx n x).hist = s.hist := rfl
@[simp] theorem setOx_binds (x : ObjX) : (s.setOx n x).binds = s.binds := rfl
@[simp] theorem setOx_slot (x : ObjX) : (s.setOx n x).slot = s.slot := rfl
@[simp] theorem setOx_imem (x : ObjX) : (s.setOx n x).imem = s.imem := rfl
@[simp] theorem setOx_pipSlots (x : ObjX) : (s.setOx n x).pipSlots = s.pipSlots := rfl
@[simp] theorem setOx_ingots (x : ObjX) : (s.setOx n x).ingots = s.ingots := rfl
@[simp] theorem setOx_hm (x : ObjX) : (s.setOx n x).hm = s.hm := rfl
@[simp] theorem setOx_pips (x : ObjX) : (s.setOx n x).pips = s.pips := rfl
@[simp] theorem setOx_cores (x : ObjX) : (s.setOx n x).cores = s.cores := rfl
@[simp] theorem setOx_clusters (x : ObjX) : (s.setOx n x).clusters = s.clusters := rfl
@[simp] theorem setOx_fab (x : ObjX) : (s.setOx n x).fab = s.fab := rfl
@[simp] theorem setOx_mirrors (x : ObjX) : (s.setOx n x).mirrors = s.mirrors := rfl
@[simp] theorem setOx_out (x : ObjX) : (s.setOx n x).out = s.out := rfl
@[simp] theorem setOx_free (x : ObjX) : (s.setOx n x).free = s.free := rfl

/-! ## setStake -/

@[simp] theorem setStake_stake (x : BitVec 512) : (s.setStake n x).stake n = x := get_set_self ..
theorem setStake_stake_other (x : BitVec 512) (h : m ≠ n) : (s.setStake n x).stake m = s.stake m := get_set_other h
@[simp] theorem setStake_pending (x : BitVec 512) : (s.setStake n x).pending = s.pending := rfl
@[simp] theorem setStake_fuses (x : BitVec 512) : (s.setStake n x).fuses = s.fuses := rfl
@[simp] theorem setStake_pins (x : BitVec 512) : (s.setStake n x).pins = s.pins := rfl
@[simp] theorem setStake_clk (x : BitVec 512) : (s.setStake n x).clk = s.clk := rfl
@[simp] theorem setStake_boot (x : BitVec 512) : (s.setStake n x).boot = s.boot := rfl
@[simp] theorem setStake_mem (x : BitVec 512) : (s.setStake n x).mem = s.mem := rfl
@[simp] theorem setStake_wordErr (x : BitVec 512) : (s.setStake n x).wordErr = s.wordErr := rfl
@[simp] theorem setStake_dirty (x : BitVec 512) : (s.setStake n x).dirty = s.dirty := rfl
@[simp] theorem setStake_seats (x : BitVec 512) : (s.setStake n x).seats = s.seats := rfl
@[simp] theorem setStake_mboxes (x : BitVec 512) : (s.setStake n x).mboxes = s.mboxes := rfl
@[simp] theorem setStake_bank (x : BitVec 512) : (s.setStake n x).bank = s.bank := rfl
@[simp] theorem setStake_reqs (x : BitVec 512) : (s.setStake n x).reqs = s.reqs := rfl
@[simp] theorem setStake_reqx (x : BitVec 512) : (s.setStake n x).reqx = s.reqx := rfl
@[simp] theorem setStake_objs (x : BitVec 512) : (s.setStake n x).objs = s.objs := rfl
@[simp] theorem setStake_objx (x : BitVec 512) : (s.setStake n x).objx = s.objx := rfl
@[simp] theorem setStake_hist (x : BitVec 512) : (s.setStake n x).hist = s.hist := rfl
@[simp] theorem setStake_binds (x : BitVec 512) : (s.setStake n x).binds = s.binds := rfl
@[simp] theorem setStake_slot (x : BitVec 512) : (s.setStake n x).slot = s.slot := rfl
@[simp] theorem setStake_imem (x : BitVec 512) : (s.setStake n x).imem = s.imem := rfl
@[simp] theorem setStake_pipSlots (x : BitVec 512) : (s.setStake n x).pipSlots = s.pipSlots := rfl
@[simp] theorem setStake_ingots (x : BitVec 512) : (s.setStake n x).ingots = s.ingots := rfl
@[simp] theorem setStake_hm (x : BitVec 512) : (s.setStake n x).hm = s.hm := rfl
@[simp] theorem setStake_pips (x : BitVec 512) : (s.setStake n x).pips = s.pips := rfl
@[simp] theorem setStake_cores (x : BitVec 512) : (s.setStake n x).cores = s.cores := rfl
@[simp] theorem setStake_clusters (x : BitVec 512) : (s.setStake n x).clusters = s.clusters := rfl
@[simp] theorem setStake_fab (x : BitVec 512) : (s.setStake n x).fab = s.fab := rfl
@[simp] theorem setStake_mirrors (x : BitVec 512) : (s.setStake n x).mirrors = s.mirrors := rfl
@[simp] theorem setStake_out (x : BitVec 512) : (s.setStake n x).out = s.out := rfl
@[simp] theorem setStake_free (x : BitVec 512) : (s.setStake n x).free = s.free := rfl

/-! ## setIngot -/

@[simp] theorem setIngot_ingot (x : Ingot) : (s.setIngot n x).ingot n = x := get_set_self ..
theorem setIngot_ingot_other (x : Ingot) (h : m ≠ n) : (s.setIngot n x).ingot m = s.ingot m := get_set_other h
@[simp] theorem setIngot_pending (x : Ingot) : (s.setIngot n x).pending = s.pending := rfl
@[simp] theorem setIngot_fuses (x : Ingot) : (s.setIngot n x).fuses = s.fuses := rfl
@[simp] theorem setIngot_pins (x : Ingot) : (s.setIngot n x).pins = s.pins := rfl
@[simp] theorem setIngot_clk (x : Ingot) : (s.setIngot n x).clk = s.clk := rfl
@[simp] theorem setIngot_boot (x : Ingot) : (s.setIngot n x).boot = s.boot := rfl
@[simp] theorem setIngot_mem (x : Ingot) : (s.setIngot n x).mem = s.mem := rfl
@[simp] theorem setIngot_wordErr (x : Ingot) : (s.setIngot n x).wordErr = s.wordErr := rfl
@[simp] theorem setIngot_dirty (x : Ingot) : (s.setIngot n x).dirty = s.dirty := rfl
@[simp] theorem setIngot_seats (x : Ingot) : (s.setIngot n x).seats = s.seats := rfl
@[simp] theorem setIngot_mboxes (x : Ingot) : (s.setIngot n x).mboxes = s.mboxes := rfl
@[simp] theorem setIngot_bank (x : Ingot) : (s.setIngot n x).bank = s.bank := rfl
@[simp] theorem setIngot_reqs (x : Ingot) : (s.setIngot n x).reqs = s.reqs := rfl
@[simp] theorem setIngot_reqx (x : Ingot) : (s.setIngot n x).reqx = s.reqx := rfl
@[simp] theorem setIngot_objs (x : Ingot) : (s.setIngot n x).objs = s.objs := rfl
@[simp] theorem setIngot_objx (x : Ingot) : (s.setIngot n x).objx = s.objx := rfl
@[simp] theorem setIngot_stakes (x : Ingot) : (s.setIngot n x).stakes = s.stakes := rfl
@[simp] theorem setIngot_hist (x : Ingot) : (s.setIngot n x).hist = s.hist := rfl
@[simp] theorem setIngot_binds (x : Ingot) : (s.setIngot n x).binds = s.binds := rfl
@[simp] theorem setIngot_slot (x : Ingot) : (s.setIngot n x).slot = s.slot := rfl
@[simp] theorem setIngot_imem (x : Ingot) : (s.setIngot n x).imem = s.imem := rfl
@[simp] theorem setIngot_pipSlots (x : Ingot) : (s.setIngot n x).pipSlots = s.pipSlots := rfl
@[simp] theorem setIngot_hm (x : Ingot) : (s.setIngot n x).hm = s.hm := rfl
@[simp] theorem setIngot_pips (x : Ingot) : (s.setIngot n x).pips = s.pips := rfl
@[simp] theorem setIngot_cores (x : Ingot) : (s.setIngot n x).cores = s.cores := rfl
@[simp] theorem setIngot_clusters (x : Ingot) : (s.setIngot n x).clusters = s.clusters := rfl
@[simp] theorem setIngot_fab (x : Ingot) : (s.setIngot n x).fab = s.fab := rfl
@[simp] theorem setIngot_mirrors (x : Ingot) : (s.setIngot n x).mirrors = s.mirrors := rfl
@[simp] theorem setIngot_out (x : Ingot) : (s.setIngot n x).out = s.out := rfl
@[simp] theorem setIngot_free (x : Ingot) : (s.setIngot n x).free = s.free := rfl

/-! ## setHmPort -/

@[simp] theorem setHmPort_hmPort (x : HmPort) : (s.setHmPort n x).hmPort n = x := get_set_self ..
theorem setHmPort_hmPort_other (x : HmPort) (h : m ≠ n) : (s.setHmPort n x).hmPort m = s.hmPort m := get_set_other h
@[simp] theorem setHmPort_pending (x : HmPort) : (s.setHmPort n x).pending = s.pending := rfl
@[simp] theorem setHmPort_fuses (x : HmPort) : (s.setHmPort n x).fuses = s.fuses := rfl
@[simp] theorem setHmPort_pins (x : HmPort) : (s.setHmPort n x).pins = s.pins := rfl
@[simp] theorem setHmPort_clk (x : HmPort) : (s.setHmPort n x).clk = s.clk := rfl
@[simp] theorem setHmPort_boot (x : HmPort) : (s.setHmPort n x).boot = s.boot := rfl
@[simp] theorem setHmPort_mem (x : HmPort) : (s.setHmPort n x).mem = s.mem := rfl
@[simp] theorem setHmPort_wordErr (x : HmPort) : (s.setHmPort n x).wordErr = s.wordErr := rfl
@[simp] theorem setHmPort_dirty (x : HmPort) : (s.setHmPort n x).dirty = s.dirty := rfl
@[simp] theorem setHmPort_seats (x : HmPort) : (s.setHmPort n x).seats = s.seats := rfl
@[simp] theorem setHmPort_mboxes (x : HmPort) : (s.setHmPort n x).mboxes = s.mboxes := rfl
@[simp] theorem setHmPort_bank (x : HmPort) : (s.setHmPort n x).bank = s.bank := rfl
@[simp] theorem setHmPort_reqs (x : HmPort) : (s.setHmPort n x).reqs = s.reqs := rfl
@[simp] theorem setHmPort_reqx (x : HmPort) : (s.setHmPort n x).reqx = s.reqx := rfl
@[simp] theorem setHmPort_objs (x : HmPort) : (s.setHmPort n x).objs = s.objs := rfl
@[simp] theorem setHmPort_objx (x : HmPort) : (s.setHmPort n x).objx = s.objx := rfl
@[simp] theorem setHmPort_stakes (x : HmPort) : (s.setHmPort n x).stakes = s.stakes := rfl
@[simp] theorem setHmPort_hist (x : HmPort) : (s.setHmPort n x).hist = s.hist := rfl
@[simp] theorem setHmPort_binds (x : HmPort) : (s.setHmPort n x).binds = s.binds := rfl
@[simp] theorem setHmPort_slot (x : HmPort) : (s.setHmPort n x).slot = s.slot := rfl
@[simp] theorem setHmPort_imem (x : HmPort) : (s.setHmPort n x).imem = s.imem := rfl
@[simp] theorem setHmPort_pipSlots (x : HmPort) : (s.setHmPort n x).pipSlots = s.pipSlots := rfl
@[simp] theorem setHmPort_ingots (x : HmPort) : (s.setHmPort n x).ingots = s.ingots := rfl
@[simp] theorem setHmPort_pips (x : HmPort) : (s.setHmPort n x).pips = s.pips := rfl
@[simp] theorem setHmPort_cores (x : HmPort) : (s.setHmPort n x).cores = s.cores := rfl
@[simp] theorem setHmPort_clusters (x : HmPort) : (s.setHmPort n x).clusters = s.clusters := rfl
@[simp] theorem setHmPort_fab (x : HmPort) : (s.setHmPort n x).fab = s.fab := rfl
@[simp] theorem setHmPort_mirrors (x : HmPort) : (s.setHmPort n x).mirrors = s.mirrors := rfl
@[simp] theorem setHmPort_out (x : HmPort) : (s.setHmPort n x).out = s.out := rfl
@[simp] theorem setHmPort_free (x : HmPort) : (s.setHmPort n x).free = s.free := rfl

/-! ## setPip -/

@[simp] theorem setPip_pip (x : Pip) : (s.setPip n x).pip n = x := get_set_self ..
theorem setPip_pip_other (x : Pip) (h : m ≠ n) : (s.setPip n x).pip m = s.pip m := get_set_other h
@[simp] theorem setPip_pending (x : Pip) : (s.setPip n x).pending = s.pending := rfl
@[simp] theorem setPip_fuses (x : Pip) : (s.setPip n x).fuses = s.fuses := rfl
@[simp] theorem setPip_pins (x : Pip) : (s.setPip n x).pins = s.pins := rfl
@[simp] theorem setPip_clk (x : Pip) : (s.setPip n x).clk = s.clk := rfl
@[simp] theorem setPip_boot (x : Pip) : (s.setPip n x).boot = s.boot := rfl
@[simp] theorem setPip_mem (x : Pip) : (s.setPip n x).mem = s.mem := rfl
@[simp] theorem setPip_wordErr (x : Pip) : (s.setPip n x).wordErr = s.wordErr := rfl
@[simp] theorem setPip_dirty (x : Pip) : (s.setPip n x).dirty = s.dirty := rfl
@[simp] theorem setPip_seats (x : Pip) : (s.setPip n x).seats = s.seats := rfl
@[simp] theorem setPip_mboxes (x : Pip) : (s.setPip n x).mboxes = s.mboxes := rfl
@[simp] theorem setPip_bank (x : Pip) : (s.setPip n x).bank = s.bank := rfl
@[simp] theorem setPip_reqs (x : Pip) : (s.setPip n x).reqs = s.reqs := rfl
@[simp] theorem setPip_reqx (x : Pip) : (s.setPip n x).reqx = s.reqx := rfl
@[simp] theorem setPip_objs (x : Pip) : (s.setPip n x).objs = s.objs := rfl
@[simp] theorem setPip_objx (x : Pip) : (s.setPip n x).objx = s.objx := rfl
@[simp] theorem setPip_stakes (x : Pip) : (s.setPip n x).stakes = s.stakes := rfl
@[simp] theorem setPip_hist (x : Pip) : (s.setPip n x).hist = s.hist := rfl
@[simp] theorem setPip_binds (x : Pip) : (s.setPip n x).binds = s.binds := rfl
@[simp] theorem setPip_slot (x : Pip) : (s.setPip n x).slot = s.slot := rfl
@[simp] theorem setPip_imem (x : Pip) : (s.setPip n x).imem = s.imem := rfl
@[simp] theorem setPip_pipSlots (x : Pip) : (s.setPip n x).pipSlots = s.pipSlots := rfl
@[simp] theorem setPip_ingots (x : Pip) : (s.setPip n x).ingots = s.ingots := rfl
@[simp] theorem setPip_hm (x : Pip) : (s.setPip n x).hm = s.hm := rfl
@[simp] theorem setPip_cores (x : Pip) : (s.setPip n x).cores = s.cores := rfl
@[simp] theorem setPip_clusters (x : Pip) : (s.setPip n x).clusters = s.clusters := rfl
@[simp] theorem setPip_fab (x : Pip) : (s.setPip n x).fab = s.fab := rfl
@[simp] theorem setPip_mirrors (x : Pip) : (s.setPip n x).mirrors = s.mirrors := rfl
@[simp] theorem setPip_out (x : Pip) : (s.setPip n x).out = s.out := rfl
@[simp] theorem setPip_free (x : Pip) : (s.setPip n x).free = s.free := rfl

/-! ## setCore -/

@[simp] theorem setCore_core (x : Machine.Core) : (s.setCore n x).core n = x := get_set_self ..
theorem setCore_core_other (x : Machine.Core) (h : m ≠ n) : (s.setCore n x).core m = s.core m := get_set_other h
@[simp] theorem setCore_pending (x : Machine.Core) : (s.setCore n x).pending = s.pending := rfl
@[simp] theorem setCore_fuses (x : Machine.Core) : (s.setCore n x).fuses = s.fuses := rfl
@[simp] theorem setCore_pins (x : Machine.Core) : (s.setCore n x).pins = s.pins := rfl
@[simp] theorem setCore_clk (x : Machine.Core) : (s.setCore n x).clk = s.clk := rfl
@[simp] theorem setCore_boot (x : Machine.Core) : (s.setCore n x).boot = s.boot := rfl
@[simp] theorem setCore_mem (x : Machine.Core) : (s.setCore n x).mem = s.mem := rfl
@[simp] theorem setCore_wordErr (x : Machine.Core) : (s.setCore n x).wordErr = s.wordErr := rfl
@[simp] theorem setCore_dirty (x : Machine.Core) : (s.setCore n x).dirty = s.dirty := rfl
@[simp] theorem setCore_seats (x : Machine.Core) : (s.setCore n x).seats = s.seats := rfl
@[simp] theorem setCore_mboxes (x : Machine.Core) : (s.setCore n x).mboxes = s.mboxes := rfl
@[simp] theorem setCore_bank (x : Machine.Core) : (s.setCore n x).bank = s.bank := rfl
@[simp] theorem setCore_reqs (x : Machine.Core) : (s.setCore n x).reqs = s.reqs := rfl
@[simp] theorem setCore_reqx (x : Machine.Core) : (s.setCore n x).reqx = s.reqx := rfl
@[simp] theorem setCore_objs (x : Machine.Core) : (s.setCore n x).objs = s.objs := rfl
@[simp] theorem setCore_objx (x : Machine.Core) : (s.setCore n x).objx = s.objx := rfl
@[simp] theorem setCore_stakes (x : Machine.Core) : (s.setCore n x).stakes = s.stakes := rfl
@[simp] theorem setCore_hist (x : Machine.Core) : (s.setCore n x).hist = s.hist := rfl
@[simp] theorem setCore_binds (x : Machine.Core) : (s.setCore n x).binds = s.binds := rfl
@[simp] theorem setCore_slot (x : Machine.Core) : (s.setCore n x).slot = s.slot := rfl
@[simp] theorem setCore_imem (x : Machine.Core) : (s.setCore n x).imem = s.imem := rfl
@[simp] theorem setCore_pipSlots (x : Machine.Core) : (s.setCore n x).pipSlots = s.pipSlots := rfl
@[simp] theorem setCore_ingots (x : Machine.Core) : (s.setCore n x).ingots = s.ingots := rfl
@[simp] theorem setCore_hm (x : Machine.Core) : (s.setCore n x).hm = s.hm := rfl
@[simp] theorem setCore_pips (x : Machine.Core) : (s.setCore n x).pips = s.pips := rfl
@[simp] theorem setCore_clusters (x : Machine.Core) : (s.setCore n x).clusters = s.clusters := rfl
@[simp] theorem setCore_fab (x : Machine.Core) : (s.setCore n x).fab = s.fab := rfl
@[simp] theorem setCore_mirrors (x : Machine.Core) : (s.setCore n x).mirrors = s.mirrors := rfl
@[simp] theorem setCore_out (x : Machine.Core) : (s.setCore n x).out = s.out := rfl
@[simp] theorem setCore_free (x : Machine.Core) : (s.setCore n x).free = s.free := rfl

/-! ## setCluster -/

@[simp] theorem setCluster_cluster (x : Cluster) : (s.setCluster n x).cluster n = x := get_set_self ..
theorem setCluster_cluster_other (x : Cluster) (h : m ≠ n) : (s.setCluster n x).cluster m = s.cluster m := get_set_other h
@[simp] theorem setCluster_pending (x : Cluster) : (s.setCluster n x).pending = s.pending := rfl
@[simp] theorem setCluster_fuses (x : Cluster) : (s.setCluster n x).fuses = s.fuses := rfl
@[simp] theorem setCluster_pins (x : Cluster) : (s.setCluster n x).pins = s.pins := rfl
@[simp] theorem setCluster_clk (x : Cluster) : (s.setCluster n x).clk = s.clk := rfl
@[simp] theorem setCluster_boot (x : Cluster) : (s.setCluster n x).boot = s.boot := rfl
@[simp] theorem setCluster_mem (x : Cluster) : (s.setCluster n x).mem = s.mem := rfl
@[simp] theorem setCluster_wordErr (x : Cluster) : (s.setCluster n x).wordErr = s.wordErr := rfl
@[simp] theorem setCluster_dirty (x : Cluster) : (s.setCluster n x).dirty = s.dirty := rfl
@[simp] theorem setCluster_seats (x : Cluster) : (s.setCluster n x).seats = s.seats := rfl
@[simp] theorem setCluster_mboxes (x : Cluster) : (s.setCluster n x).mboxes = s.mboxes := rfl
@[simp] theorem setCluster_bank (x : Cluster) : (s.setCluster n x).bank = s.bank := rfl
@[simp] theorem setCluster_reqs (x : Cluster) : (s.setCluster n x).reqs = s.reqs := rfl
@[simp] theorem setCluster_reqx (x : Cluster) : (s.setCluster n x).reqx = s.reqx := rfl
@[simp] theorem setCluster_objs (x : Cluster) : (s.setCluster n x).objs = s.objs := rfl
@[simp] theorem setCluster_objx (x : Cluster) : (s.setCluster n x).objx = s.objx := rfl
@[simp] theorem setCluster_stakes (x : Cluster) : (s.setCluster n x).stakes = s.stakes := rfl
@[simp] theorem setCluster_hist (x : Cluster) : (s.setCluster n x).hist = s.hist := rfl
@[simp] theorem setCluster_binds (x : Cluster) : (s.setCluster n x).binds = s.binds := rfl
@[simp] theorem setCluster_slot (x : Cluster) : (s.setCluster n x).slot = s.slot := rfl
@[simp] theorem setCluster_imem (x : Cluster) : (s.setCluster n x).imem = s.imem := rfl
@[simp] theorem setCluster_pipSlots (x : Cluster) : (s.setCluster n x).pipSlots = s.pipSlots := rfl
@[simp] theorem setCluster_ingots (x : Cluster) : (s.setCluster n x).ingots = s.ingots := rfl
@[simp] theorem setCluster_hm (x : Cluster) : (s.setCluster n x).hm = s.hm := rfl
@[simp] theorem setCluster_pips (x : Cluster) : (s.setCluster n x).pips = s.pips := rfl
@[simp] theorem setCluster_cores (x : Cluster) : (s.setCluster n x).cores = s.cores := rfl
@[simp] theorem setCluster_fab (x : Cluster) : (s.setCluster n x).fab = s.fab := rfl
@[simp] theorem setCluster_mirrors (x : Cluster) : (s.setCluster n x).mirrors = s.mirrors := rfl
@[simp] theorem setCluster_out (x : Cluster) : (s.setCluster n x).out = s.out := rfl
@[simp] theorem setCluster_free (x : Cluster) : (s.setCluster n x).free = s.free := rfl

/-! ## setPort -/

@[simp] theorem setPort_port (x : Port) : (s.setPort n x).port n = x := get_set_self ..
theorem setPort_port_other (x : Port) (h : m ≠ n) : (s.setPort n x).port m = s.port m := get_set_other h
@[simp] theorem setPort_pending (x : Port) : (s.setPort n x).pending = s.pending := rfl
@[simp] theorem setPort_fuses (x : Port) : (s.setPort n x).fuses = s.fuses := rfl
@[simp] theorem setPort_pins (x : Port) : (s.setPort n x).pins = s.pins := rfl
@[simp] theorem setPort_clk (x : Port) : (s.setPort n x).clk = s.clk := rfl
@[simp] theorem setPort_boot (x : Port) : (s.setPort n x).boot = s.boot := rfl
@[simp] theorem setPort_mem (x : Port) : (s.setPort n x).mem = s.mem := rfl
@[simp] theorem setPort_wordErr (x : Port) : (s.setPort n x).wordErr = s.wordErr := rfl
@[simp] theorem setPort_dirty (x : Port) : (s.setPort n x).dirty = s.dirty := rfl
@[simp] theorem setPort_seats (x : Port) : (s.setPort n x).seats = s.seats := rfl
@[simp] theorem setPort_mboxes (x : Port) : (s.setPort n x).mboxes = s.mboxes := rfl
@[simp] theorem setPort_bank (x : Port) : (s.setPort n x).bank = s.bank := rfl
@[simp] theorem setPort_reqs (x : Port) : (s.setPort n x).reqs = s.reqs := rfl
@[simp] theorem setPort_reqx (x : Port) : (s.setPort n x).reqx = s.reqx := rfl
@[simp] theorem setPort_objs (x : Port) : (s.setPort n x).objs = s.objs := rfl
@[simp] theorem setPort_objx (x : Port) : (s.setPort n x).objx = s.objx := rfl
@[simp] theorem setPort_stakes (x : Port) : (s.setPort n x).stakes = s.stakes := rfl
@[simp] theorem setPort_hist (x : Port) : (s.setPort n x).hist = s.hist := rfl
@[simp] theorem setPort_binds (x : Port) : (s.setPort n x).binds = s.binds := rfl
@[simp] theorem setPort_slot (x : Port) : (s.setPort n x).slot = s.slot := rfl
@[simp] theorem setPort_imem (x : Port) : (s.setPort n x).imem = s.imem := rfl
@[simp] theorem setPort_pipSlots (x : Port) : (s.setPort n x).pipSlots = s.pipSlots := rfl
@[simp] theorem setPort_ingots (x : Port) : (s.setPort n x).ingots = s.ingots := rfl
@[simp] theorem setPort_hm (x : Port) : (s.setPort n x).hm = s.hm := rfl
@[simp] theorem setPort_pips (x : Port) : (s.setPort n x).pips = s.pips := rfl
@[simp] theorem setPort_cores (x : Port) : (s.setPort n x).cores = s.cores := rfl
@[simp] theorem setPort_clusters (x : Port) : (s.setPort n x).clusters = s.clusters := rfl
@[simp] theorem setPort_mirrors (x : Port) : (s.setPort n x).mirrors = s.mirrors := rfl
@[simp] theorem setPort_out (x : Port) : (s.setPort n x).out = s.out := rfl
@[simp] theorem setPort_free (x : Port) : (s.setPort n x).free = s.free := rfl

/-! ## setMir -/

@[simp] theorem setMir_mir (x : Mirror) : (s.setMir n x).mir n = x := get_set_self ..
theorem setMir_mir_other (x : Mirror) (h : m ≠ n) : (s.setMir n x).mir m = s.mir m := get_set_other h
@[simp] theorem setMir_pending (x : Mirror) : (s.setMir n x).pending = s.pending := rfl
@[simp] theorem setMir_fuses (x : Mirror) : (s.setMir n x).fuses = s.fuses := rfl
@[simp] theorem setMir_pins (x : Mirror) : (s.setMir n x).pins = s.pins := rfl
@[simp] theorem setMir_clk (x : Mirror) : (s.setMir n x).clk = s.clk := rfl
@[simp] theorem setMir_boot (x : Mirror) : (s.setMir n x).boot = s.boot := rfl
@[simp] theorem setMir_mem (x : Mirror) : (s.setMir n x).mem = s.mem := rfl
@[simp] theorem setMir_wordErr (x : Mirror) : (s.setMir n x).wordErr = s.wordErr := rfl
@[simp] theorem setMir_dirty (x : Mirror) : (s.setMir n x).dirty = s.dirty := rfl
@[simp] theorem setMir_seats (x : Mirror) : (s.setMir n x).seats = s.seats := rfl
@[simp] theorem setMir_mboxes (x : Mirror) : (s.setMir n x).mboxes = s.mboxes := rfl
@[simp] theorem setMir_bank (x : Mirror) : (s.setMir n x).bank = s.bank := rfl
@[simp] theorem setMir_reqs (x : Mirror) : (s.setMir n x).reqs = s.reqs := rfl
@[simp] theorem setMir_reqx (x : Mirror) : (s.setMir n x).reqx = s.reqx := rfl
@[simp] theorem setMir_objs (x : Mirror) : (s.setMir n x).objs = s.objs := rfl
@[simp] theorem setMir_objx (x : Mirror) : (s.setMir n x).objx = s.objx := rfl
@[simp] theorem setMir_stakes (x : Mirror) : (s.setMir n x).stakes = s.stakes := rfl
@[simp] theorem setMir_hist (x : Mirror) : (s.setMir n x).hist = s.hist := rfl
@[simp] theorem setMir_binds (x : Mirror) : (s.setMir n x).binds = s.binds := rfl
@[simp] theorem setMir_slot (x : Mirror) : (s.setMir n x).slot = s.slot := rfl
@[simp] theorem setMir_imem (x : Mirror) : (s.setMir n x).imem = s.imem := rfl
@[simp] theorem setMir_pipSlots (x : Mirror) : (s.setMir n x).pipSlots = s.pipSlots := rfl
@[simp] theorem setMir_ingots (x : Mirror) : (s.setMir n x).ingots = s.ingots := rfl
@[simp] theorem setMir_hm (x : Mirror) : (s.setMir n x).hm = s.hm := rfl
@[simp] theorem setMir_pips (x : Mirror) : (s.setMir n x).pips = s.pips := rfl
@[simp] theorem setMir_cores (x : Mirror) : (s.setMir n x).cores = s.cores := rfl
@[simp] theorem setMir_clusters (x : Mirror) : (s.setMir n x).clusters = s.clusters := rfl
@[simp] theorem setMir_fab (x : Mirror) : (s.setMir n x).fab = s.fab := rfl
@[simp] theorem setMir_out (x : Mirror) : (s.setMir n x).out = s.out := rfl
@[simp] theorem setMir_free (x : Mirror) : (s.setMir n x).free = s.free := rfl

/-! ## emit -/

@[simp] theorem emit_out (x : Out) : (s.emit x).out = x :: s.out := rfl
@[simp] theorem emit_pending (x : Out) : (s.emit x).pending = s.pending := rfl
@[simp] theorem emit_fuses (x : Out) : (s.emit x).fuses = s.fuses := rfl
@[simp] theorem emit_pins (x : Out) : (s.emit x).pins = s.pins := rfl
@[simp] theorem emit_clk (x : Out) : (s.emit x).clk = s.clk := rfl
@[simp] theorem emit_boot (x : Out) : (s.emit x).boot = s.boot := rfl
@[simp] theorem emit_mem (x : Out) : (s.emit x).mem = s.mem := rfl
@[simp] theorem emit_wordErr (x : Out) : (s.emit x).wordErr = s.wordErr := rfl
@[simp] theorem emit_dirty (x : Out) : (s.emit x).dirty = s.dirty := rfl
@[simp] theorem emit_seats (x : Out) : (s.emit x).seats = s.seats := rfl
@[simp] theorem emit_mboxes (x : Out) : (s.emit x).mboxes = s.mboxes := rfl
@[simp] theorem emit_bank (x : Out) : (s.emit x).bank = s.bank := rfl
@[simp] theorem emit_reqs (x : Out) : (s.emit x).reqs = s.reqs := rfl
@[simp] theorem emit_reqx (x : Out) : (s.emit x).reqx = s.reqx := rfl
@[simp] theorem emit_objs (x : Out) : (s.emit x).objs = s.objs := rfl
@[simp] theorem emit_objx (x : Out) : (s.emit x).objx = s.objx := rfl
@[simp] theorem emit_stakes (x : Out) : (s.emit x).stakes = s.stakes := rfl
@[simp] theorem emit_hist (x : Out) : (s.emit x).hist = s.hist := rfl
@[simp] theorem emit_binds (x : Out) : (s.emit x).binds = s.binds := rfl
@[simp] theorem emit_slot (x : Out) : (s.emit x).slot = s.slot := rfl
@[simp] theorem emit_imem (x : Out) : (s.emit x).imem = s.imem := rfl
@[simp] theorem emit_pipSlots (x : Out) : (s.emit x).pipSlots = s.pipSlots := rfl
@[simp] theorem emit_ingots (x : Out) : (s.emit x).ingots = s.ingots := rfl
@[simp] theorem emit_hm (x : Out) : (s.emit x).hm = s.hm := rfl
@[simp] theorem emit_pips (x : Out) : (s.emit x).pips = s.pips := rfl
@[simp] theorem emit_cores (x : Out) : (s.emit x).cores = s.cores := rfl
@[simp] theorem emit_clusters (x : Out) : (s.emit x).clusters = s.clusters := rfl
@[simp] theorem emit_fab (x : Out) : (s.emit x).fab = s.fab := rfl
@[simp] theorem emit_mirrors (x : Out) : (s.emit x).mirrors = s.mirrors := rfl
@[simp] theorem emit_free (x : Out) : (s.emit x).free = s.free := rfl

end Sys2Proof.Laws
end

