-- ==== Sys2Proof/Laws/Frame.lean ====
section
/-! SUPPORT. Frames: how the parts that an operation may change compose. -/

namespace Sys2Proof.Laws

open Sys2Proof Sys2Proof.Machine

theorem only_refl (l : List Part) (s : State) : OnlyChanges l s s := by
  refine ⟨?_, id⟩
  intro p _
  cases p <;> rfl

theorem Part.same_trans {p : Part} {s t u : State} (h1 : p.same s t) (h2 : p.same t u) : p.same s u := by
  cases p <;> exact Eq.trans h2 h1

/-- An operation with a smaller frame keeps a larger one. -/
theorem only_step {l k : List Part} {s t u : State} (h2 : OnlyChanges k t u) (hk : k.all l.contains = true)
    (h1 : OnlyChanges l s t) : OnlyChanges l s u := by
  refine ⟨?_, fun h => h2.mem (h1.mem h)⟩
  intro p hp
  refine Part.same_trans (h1.same p hp) (h2.same p (fun hc => hp ?_))
  have := List.all_eq_true.mp hk p hc
  simpa using this

theorem only_let {l : List Part} {s v : State} {b : State → State} (h1 : OnlyChanges l s v)
    (h : ∀ y, OnlyChanges l s y → OnlyChanges l s (b y)) : OnlyChanges l s (let y := v; b y) := h v h1

theorem only_let_val {α : Type} {l : List Part} {s : State} {v : α} {b : α → State}
    (h : ∀ y, OnlyChanges l s (b y)) : OnlyChanges l s (let y := v; b y) := h v

theorem only_let_fst {β : Type} {l : List Part} {s v : State} {b : State → State × β} (h1 : OnlyChanges l s v)
    (h : ∀ y, OnlyChanges l s y → OnlyChanges l s (b y).1) : OnlyChanges l s (let y := v; b y).1 := h v h1

theorem only_let_val_fst {α β : Type} {l : List Part} {s : State} {v : α} {b : α → State × β}
    (h : ∀ y, OnlyChanges l s (b y).1) : OnlyChanges l s (let y := v; b y).1 := h v

theorem only_foldl {α : Type} {l : List Part} {s t : State} {f : State → α → State} {xs : List α}
    (h1 : OnlyChanges l s t) (h : ∀ y a, OnlyChanges l s y → OnlyChanges l s (f y a)) :
    OnlyChanges l s (xs.foldl f t) := by
  induction xs generalizing t with
  | nil => exact h1
  | cons x xs ih => exact ih (h t x h1)

theorem only_foldl_fst {α β : Type} {l : List Part} {s : State} {t : State × β} {f : State × β → α → State × β}
    {xs : List α} (h1 : OnlyChanges l s t.1) (h : ∀ y a, OnlyChanges l s y.1 → OnlyChanges l s (f y a).1) :
    OnlyChanges l s (xs.foldl f t).1 := by
  induction xs generalizing t with
  | nil => exact h1
  | cons x xs ih => exact ih (h t x h1)

theorem only_foldl_by {α σ : Type} {l : List Part} {s : State} {t : σ} {f : σ → α → σ} {xs : List α} (g : σ → State)
    (h1 : OnlyChanges l s (g t)) (h : ∀ y a, OnlyChanges l s (g y) → OnlyChanges l s (g (f y a))) :
    OnlyChanges l s (g (xs.foldl f t)) := by
  induction xs generalizing t with
  | nil => exact h1
  | cons x xs ih => exact ih (h t x h1)

theorem only_of_fst {β : Type} {l : List Part} {s a : State} {b : β} {p : State × β} (e : p = (a, b))
    (h : OnlyChanges l s p.1) : OnlyChanges l s a := by
  subst e
  exact h

theorem set_bank_only (s : State) (x0 : Banker) : OnlyChanges [.bank] s { s with bank := x0 } := by
  refine ⟨?_, id⟩; intro p hp; cases p <;> first | rfl | exact absurd (by decide) hp

theorem set_binds_only (s : State) (x0 : Tab Bind) : OnlyChanges [.binds] s { s with binds := x0 } := by
  refine ⟨?_, id⟩; intro p hp; cases p <;> first | rfl | exact absurd (by decide) hp

theorem set_boot_only (s : State) (x0 : Boot) : OnlyChanges [.boot] s { s with boot := x0 } := by
  refine ⟨?_, id⟩; intro p hp; cases p <;> first | rfl | exact absurd (by decide) hp

theorem set_clk_only (s : State) (x0 : Clock) : OnlyChanges [.clk] s { s with clk := x0 } := by
  refine ⟨?_, id⟩; intro p hp; cases p <;> first | rfl | exact absurd (by decide) hp

theorem set_clusters_only (s : State) (x0 : Tab Cluster) : OnlyChanges [.clusters] s { s with clusters := x0 } := by
  refine ⟨?_, id⟩; intro p hp; cases p <;> first | rfl | exact absurd (by decide) hp

theorem set_clusters_cores_fab_only (s : State) (x0 : Tab Cluster) (x1 : Tab Core) (x2 : Fabric) : OnlyChanges [.clusters, .cores, .fab] s { s with clusters := x0, cores := x1, fab := x2 } := by
  refine ⟨?_, id⟩; intro p hp; cases p <;> first | rfl | exact absurd (by decide) hp

theorem set_cores_only (s : State) (x0 : Tab Core) : OnlyChanges [.cores] s { s with cores := x0 } := by
  refine ⟨?_, id⟩; intro p hp; cases p <;> first | rfl | exact absurd (by decide) hp

theorem set_dirty_only (s : State) (x0 : Tab Bool) : OnlyChanges [.dirty] s { s with dirty := x0 } := by
  refine ⟨?_, id⟩; intro p hp; cases p <;> first | rfl | exact absurd (by decide) hp

theorem set_fab_only (s : State) (x0 : Fabric) : OnlyChanges [.fab] s { s with fab := x0 } := by
  refine ⟨?_, id⟩; intro p hp; cases p <;> first | rfl | exact absurd (by decide) hp

theorem set_free_only (s : State) (x0 : Nat) : OnlyChanges [.free] s { s with free := x0 } := by
  refine ⟨?_, id⟩; intro p hp; cases p <;> first | rfl | exact absurd (by decide) hp

theorem set_free_bank_only (s : State) (x0 : Nat) (x1 : Banker) : OnlyChanges [.free, .bank] s { s with free := x0, bank := x1 } := by
  refine ⟨?_, id⟩; intro p hp; cases p <;> first | rfl | exact absurd (by decide) hp

theorem set_free_clk_only (s : State) (x0 : Nat) (x1 : Clock) : OnlyChanges [.free, .clk] s { s with free := x0, clk := x1 } := by
  refine ⟨?_, id⟩; intro p hp; cases p <;> first | rfl | exact absurd (by decide) hp

theorem set_fuses_only (s : State) (x0 : Fuses) : OnlyChanges [.fuses] s { s with fuses := x0 } := by
  refine ⟨?_, id⟩; intro p hp; cases p <;> first | rfl | exact absurd (by decide) hp

theorem set_hist_only (s : State) (x0 : Tab W64) : OnlyChanges [.hist] s { s with hist := x0 } := by
  refine ⟨?_, id⟩; intro p hp; cases p <;> first | rfl | exact absurd (by decide) hp

theorem set_hm_only (s : State) (x0 : Tab HmPort) : OnlyChanges [.hm] s { s with hm := x0 } := by
  refine ⟨?_, id⟩; intro p hp; cases p <;> first | rfl | exact absurd (by decide) hp

theorem set_imem_only (s : State) (x0 : Tab W32) : OnlyChanges [.imem] s { s with imem := x0 } := by
  refine ⟨?_, id⟩; intro p hp; cases p <;> first | rfl | exact absurd (by decide) hp

theorem set_ingots_only (s : State) (x0 : Tab Ingot) : OnlyChanges [.ingots] s { s with ingots := x0 } := by
  refine ⟨?_, id⟩; intro p hp; cases p <;> first | rfl | exact absurd (by decide) hp

theorem set_mboxes_only (s : State) (x0 : Tab Mbox) : OnlyChanges [.mboxes] s { s with mboxes := x0 } := by
  refine ⟨?_, id⟩; intro p hp; cases p <;> first | rfl | exact absurd (by decide) hp

theorem set_mirrors_only (s : State) (x0 : Tab Mirror) : OnlyChanges [.mirrors] s { s with mirrors := x0 } := by
  refine ⟨?_, id⟩; intro p hp; cases p <;> first | rfl | exact absurd (by decide) hp

theorem set_objs_only (s : State) (x0 : Tab (BitVec 512)) : OnlyChanges [.objs] s { s with objs := x0 } := by
  refine ⟨?_, id⟩; intro p hp; cases p <;> first | rfl | exact absurd (by decide) hp

theorem set_objx_only (s : State) (x0 : Tab ObjX) : OnlyChanges [.objx] s { s with objx := x0 } := by
  refine ⟨?_, id⟩; intro p hp; cases p <;> first | rfl | exact absurd (by decide) hp

theorem set_out_only (s : State) (x0 : List Out) : OnlyChanges [.out] s { s with out := x0 } := by
  refine ⟨?_, id⟩; intro p hp; cases p <;> first | rfl | exact absurd (by decide) hp

theorem set_pending_only (s : State) (x0 : List Instr) : OnlyChanges [.pending] s { s with pending := x0 } := by
  refine ⟨?_, id⟩; intro p hp; cases p <;> first | rfl | exact absurd (by decide) hp

theorem set_pins_only (s : State) (x0 : Pins) : OnlyChanges [.pins] s { s with pins := x0 } := by
  refine ⟨?_, id⟩; intro p hp; cases p <;> first | rfl | exact absurd (by decide) hp

theorem set_pins_free_only (s : State) (x0 : Pins) (x1 : Nat) : OnlyChanges [.pins, .free] s { s with pins := x0, free := x1 } := by
  refine ⟨?_, id⟩; intro p hp; cases p <;> first | rfl | exact absurd (by decide) hp

theorem set_pipSlots_only (s : State) (x0 : Tab PipSlot) : OnlyChanges [.pipSlots] s { s with pipSlots := x0 } := by
  refine ⟨?_, id⟩; intro p hp; cases p <;> first | rfl | exact absurd (by decide) hp

theorem set_pips_only (s : State) (x0 : Tab Pip) : OnlyChanges [.pips] s { s with pips := x0 } := by
  refine ⟨?_, id⟩; intro p hp; cases p <;> first | rfl | exact absurd (by decide) hp

theorem set_reqs_only (s : State) (x0 : Tab (BitVec 1024)) : OnlyChanges [.reqs] s { s with reqs := x0 } := by
  refine ⟨?_, id⟩; intro p hp; cases p <;> first | rfl | exact absurd (by decide) hp

theorem set_reqs_reqx_only (s : State) (x0 : Tab (BitVec 1024)) (x1 : Tab ReqX) : OnlyChanges [.reqs, .reqx] s { s with reqs := x0, reqx := x1 } := by
  refine ⟨?_, id⟩; intro p hp; cases p <;> first | rfl | exact absurd (by decide) hp

theorem set_reqx_only (s : State) (x0 : Tab ReqX) : OnlyChanges [.reqx] s { s with reqx := x0 } := by
  refine ⟨?_, id⟩; intro p hp; cases p <;> first | rfl | exact absurd (by decide) hp

theorem set_seats_only (s : State) (x0 : Tab Seat) : OnlyChanges [.seats] s { s with seats := x0 } := by
  refine ⟨?_, id⟩; intro p hp; cases p <;> first | rfl | exact absurd (by decide) hp

theorem set_slot_only (s : State) (x0 : ExecSlot) : OnlyChanges [.slot] s { s with slot := x0 } := by
  refine ⟨?_, id⟩; intro p hp; cases p <;> first | rfl | exact absurd (by decide) hp

theorem set_slot_clusters_cores_only (s : State) (x0 : ExecSlot) (x1 : Tab Cluster) (x2 : Tab Core) : OnlyChanges [.slot, .clusters, .cores] s { s with slot := x0, clusters := x1, cores := x2 } := by
  refine ⟨?_, id⟩; intro p hp; cases p <;> first | rfl | exact absurd (by decide) hp

theorem set_stakes_only (s : State) (x0 : Tab (BitVec 512)) : OnlyChanges [.stakes] s { s with stakes := x0 } := by
  refine ⟨?_, id⟩; intro p hp; cases p <;> first | rfl | exact absurd (by decide) hp

theorem set_wordErr_only (s : State) (x0 : Tab WordErr) : OnlyChanges [.wordErr] s { s with wordErr := x0 } := by
  refine ⟨?_, id⟩; intro p hp; cases p <;> first | rfl | exact absurd (by decide) hp

end Sys2Proof.Laws
end

