-- ==== Sys2Proof/Laws/FrameOps.lean ====
section
/-! SUPPORT. What each operation may change: the shared operations: records, counters, memory, flags, runs and riser sets, responses, links. -/

namespace Sys2Proof.Laws

open Sys2Proof Sys2Proof.Machine

set_option linter.tactic.unusedName false

/-! ## Ops.lean -/

theorem when_only {l : List Part} {s t : State} {c : State → Bool} {f : State → State} (h1 : OnlyChanges l s t)
    (h : OnlyChanges l s (f t)) : OnlyChanges l s (when c f t) := by
  unfold when
  split
  · exact h
  · exact h1

theorem state_setBind_only (s : State) (b : Nat) (x : Bind) : OnlyChanges [.binds] s (State.setBind s b x) := by
  unfold State.setBind
  repeat' first
    | (show List.all _ _ = true; decide)
    | with_reducible exact only_refl _ _
    | with_reducible apply only_step (set_binds_only ..)

theorem state_updBind_only (s : State) (b : Nat) (f : Bind → Bind) : OnlyChanges [.binds] s (State.updBind s b f) := by
  unfold State.updBind
  repeat' first
    | (show List.all _ _ = true; decide)
    | with_reducible exact only_refl _ _
    | with_reducible apply only_step (state_setBind_only ..)

theorem state_setSeat_only (s : State) (n : Nat) (x : Seat) : OnlyChanges [.seats] s (State.setSeat s n x) := by
  unfold State.setSeat
  repeat' first
    | (show List.all _ _ = true; decide)
    | with_reducible exact only_refl _ _
    | with_reducible apply only_step (set_seats_only ..)

theorem state_updSeat_only (s : State) (n : Nat) (f : Seat → Seat) : OnlyChanges [.seats] s (State.updSeat s n f) := by
  unfold State.updSeat
  repeat' first
    | (show List.all _ _ = true; decide)
    | with_reducible exact only_refl _ _
    | with_reducible apply only_step (state_setSeat_only ..)

theorem state_setMbox_only (s : State) (n : Nat) (x : Mbox) : OnlyChanges [.mboxes] s (State.setMbox s n x) := by
  unfold State.setMbox
  repeat' first
    | (show List.all _ _ = true; decide)
    | with_reducible exact only_refl _ _
    | with_reducible apply only_step (set_mboxes_only ..)

theorem state_setReq_only (s : State) (n : Nat) (x : BitVec 1024) : OnlyChanges [.reqs] s (State.setReq s n x) := by
  unfold State.setReq
  repeat' first
    | (show List.all _ _ = true; decide)
    | with_reducible exact only_refl _ _
    | with_reducible apply only_step (set_reqs_only ..)

theorem state_updReq_only (s : State) (n : Nat) (l : List (Fld × Nat)) : OnlyChanges [.reqs] s (State.updReq s n l)
    := by
  unfold State.updReq
  repeat' first
    | (show List.all _ _ = true; decide)
    | with_reducible exact only_refl _ _
    | with_reducible apply only_step (state_setReq_only ..)

theorem state_setRx_only (s : State) (n : Nat) (x : ReqX) : OnlyChanges [.reqx] s (State.setRx s n x) := by
  unfold State.setRx
  repeat' first
    | (show List.all _ _ = true; decide)
    | with_reducible exact only_refl _ _
    | with_reducible apply only_step (set_reqx_only ..)

theorem state_updRx_only (s : State) (n : Nat) (f : ReqX → ReqX) : OnlyChanges [.reqx] s (State.updRx s n f) := by
  unfold State.updRx
  repeat' first
    | (show List.all _ _ = true; decide)
    | with_reducible exact only_refl _ _
    | with_reducible apply only_step (state_setRx_only ..)

theorem state_setObj_only (s : State) (n : Nat) (x : BitVec 512) : OnlyChanges [.objs] s (State.setObj s n x) := by
  unfold State.setObj
  repeat' first
    | (show List.all _ _ = true; decide)
    | with_reducible exact only_refl _ _
    | with_reducible apply only_step (set_objs_only ..)

theorem state_updObj_only (s : State) (n : Nat) (l : List (Fld × Nat)) : OnlyChanges [.objs] s (State.updObj s n l)
    := by
  unfold State.updObj
  repeat' first
    | (show List.all _ _ = true; decide)
    | with_reducible exact only_refl _ _
    | with_reducible apply only_step (state_setObj_only ..)

theorem state_setOx_only (s : State) (n : Nat) (x : ObjX) : OnlyChanges [.objx] s (State.setOx s n x) := by
  unfold State.setOx
  repeat' first
    | (show List.all _ _ = true; decide)
    | with_reducible exact only_refl _ _
    | with_reducible apply only_step (set_objx_only ..)

theorem state_updOx_only (s : State) (n : Nat) (f : ObjX → ObjX) : OnlyChanges [.objx] s (State.updOx s n f) := by
  unfold State.updOx
  repeat' first
    | (show List.all _ _ = true; decide)
    | with_reducible exact only_refl _ _
    | with_reducible apply only_step (state_setOx_only ..)

theorem state_setStake_only (s : State) (n : Nat) (x : BitVec 512) : OnlyChanges [.stakes] s (State.setStake s n x)
    := by
  unfold State.setStake
  repeat' first
    | (show List.all _ _ = true; decide)
    | with_reducible exact only_refl _ _
    | with_reducible apply only_step (set_stakes_only ..)

theorem state_setIngot_only (s : State) (i : Nat) (x : Ingot) : OnlyChanges [.ingots] s (State.setIngot s i x) := by
  unfold State.setIngot
  repeat' first
    | (show List.all _ _ = true; decide)
    | with_reducible exact only_refl _ _
    | with_reducible apply only_step (set_ingots_only ..)

theorem state_updIngot_only (s : State) (i : Nat) (f : Ingot → Ingot) : OnlyChanges [.ingots] s (State.updIngot s i
    f) := by
  unfold State.updIngot
  repeat' first
    | (show List.all _ _ = true; decide)
    | with_reducible exact only_refl _ _
    | with_reducible apply only_step (state_setIngot_only ..)

theorem state_setPip_only (s : State) (p : Nat) (x : Pip) : OnlyChanges [.pips] s (State.setPip s p x) := by
  unfold State.setPip
  repeat' first
    | (show List.all _ _ = true; decide)
    | with_reducible exact only_refl _ _
    | with_reducible apply only_step (set_pips_only ..)

theorem state_setCore_only (s : State) (k : Nat) (x : Core) : OnlyChanges [.cores] s (State.setCore s k x) := by
  unfold State.setCore
  repeat' first
    | (show List.all _ _ = true; decide)
    | with_reducible exact only_refl _ _
    | with_reducible apply only_step (set_cores_only ..)

theorem state_updCore_only (s : State) (k : Nat) (f : Core → Core) : OnlyChanges [.cores] s (State.updCore s k f) := by
  unfold State.updCore
  repeat' first
    | (show List.all _ _ = true; decide)
    | with_reducible exact only_refl _ _
    | with_reducible apply only_step (state_setCore_only ..)

theorem state_setCluster_only (s : State) (c : Nat) (x : Cluster) : OnlyChanges [.clusters] s (State.setCluster s c
    x) := by
  unfold State.setCluster
  repeat' first
    | (show List.all _ _ = true; decide)
    | with_reducible exact only_refl _ _
    | with_reducible apply only_step (set_clusters_only ..)

theorem state_setPort_only (s : State) (p : Nat) (x : Port) : OnlyChanges [.fab] s (State.setPort s p x) := by
  unfold State.setPort
  repeat' first
    | (show List.all _ _ = true; decide)
    | with_reducible exact only_refl _ _
    | with_reducible apply only_step (set_fab_only ..)

theorem state_updPort_only (s : State) (p : Nat) (f : Port → Port) : OnlyChanges [.fab] s (State.updPort s p f) := by
  unfold State.updPort
  repeat' first
    | (show List.all _ _ = true; decide)
    | with_reducible exact only_refl _ _
    | with_reducible apply only_step (state_setPort_only ..)

theorem state_setMir_only (s : State) (n : Nat) (x : Mirror) : OnlyChanges [.mirrors] s (State.setMir s n x) := by
  unfold State.setMir
  repeat' first
    | (show List.all _ _ = true; decide)
    | with_reducible exact only_refl _ _
    | with_reducible apply only_step (set_mirrors_only ..)

theorem state_setHmPort_only (s : State) (d : Nat) (x : HmPort) : OnlyChanges [.hm] s (State.setHmPort s d x) := by
  unfold State.setHmPort
  repeat' first
    | (show List.all _ _ = true; decide)
    | with_reducible exact only_refl _ _
    | with_reducible apply only_step (set_hm_only ..)

theorem state_updHmPort_only (s : State) (d : Nat) (f : HmPort → HmPort) : OnlyChanges [.hm] s (State.updHmPort s d
    f) := by
  unfold State.updHmPort
  repeat' first
    | (show List.all _ _ = true; decide)
    | with_reducible exact only_refl _ _
    | with_reducible apply only_step (state_setHmPort_only ..)

theorem setBankGroup_only (s : State) (i bg : Nat) (x : BankGroup) : OnlyChanges [.ingots] s (setBankGroup s i bg
    x) := by
  unfold setBankGroup
  repeat' first
    | (show List.all _ _ = true; decide)
    | with_reducible exact only_refl _ _
    | with_reducible apply only_step (state_updIngot_only ..)

theorem updBankGroup_only (s : State) (i bg : Nat) (f : BankGroup → BankGroup) : OnlyChanges [.ingots] s
    (updBankGroup s i bg f) := by
  unfold updBankGroup
  repeat' first
    | (show List.all _ _ = true; decide)
    | with_reducible exact only_refl _ _
    | with_reducible apply only_step (setBankGroup_only ..)

theorem state_emit_only (s : State) (o : Out) : OnlyChanges [.out] s (State.emit s o) := by
  unfold State.emit
  repeat' first
    | (show List.all _ _ = true; decide)
    | with_reducible exact only_refl _ _
    | with_reducible apply only_step (set_out_only ..)

theorem state_countBind_only (s : State) (b k n : Nat) : OnlyChanges [.binds] s (State.countBind s b k n) := by
  unfold State.countBind
  repeat' first
    | (show List.all _ _ = true; decide)
    | with_reducible exact only_refl _ _
    | with_reducible apply only_step (state_updBind_only ..)

theorem state_countSeat_only (s : State) (t k n : Nat) : OnlyChanges [.seats] s (State.countSeat s t k n) := by
  unfold State.countSeat
  repeat' first
    | (show List.all _ _ = true; decide)
    | with_reducible exact only_refl _ _
    | with_reducible apply only_step (state_updSeat_only ..)

theorem state_countIngot_only (s : State) (i k n : Nat) : OnlyChanges [.ingots] s (State.countIngot s i k n) := by
  unfold State.countIngot
  repeat' first
    | (show List.all _ _ = true; decide)
    | with_reducible exact only_refl _ _
    | with_reducible apply only_step (state_updIngot_only ..)

theorem state_countCore_only (s : State) (c k n : Nat) : OnlyChanges [.cores] s (State.countCore s c k n) := by
  unfold State.countCore
  repeat' first
    | (show List.all _ _ = true; decide)
    | with_reducible exact only_refl _ _
    | with_reducible apply only_step (state_updCore_only ..)

theorem state_countPort_only (s : State) (p k n : Nat) : OnlyChanges [.fab] s (State.countPort s p k n) := by
  unfold State.countPort
  repeat' first
    | (show List.all _ _ = true; decide)
    | with_reducible exact only_refl _ _
    | with_reducible apply only_step (state_updPort_only ..)

theorem state_countDev_only (s : State) (k n : Nat) : OnlyChanges [.bank] s (State.countDev s k n) := by
  unfold State.countDev
  repeat' first
    | (show List.all _ _ = true; decide)
    | with_reducible exact only_refl _ _
    | with_reducible apply only_step (set_bank_only ..)

theorem state_noteWindow_only (s : State) (n st : Nat) : OnlyChanges [.seats] s (State.noteWindow s n st) := by
  unfold State.noteWindow
  repeat' first
    | (show List.all _ _ = true; decide)
    | with_reducible exact only_refl _ _
    | with_reducible apply only_step (state_countSeat_only ..)
    | split

theorem markMoves_only (s : State) (k n : Nat) : OnlyChanges [.objx] s (markMoves s k n) := by
  unfold markMoves
  repeat' first
    | (show List.all _ _ = true; decide)
    | intro _
    | with_reducible exact only_refl _ _
    | with_reducible assumption
    | with_reducible apply only_step (state_updOx_only ..)
    | with_reducible refine only_foldl ?_ ?_
    | split

theorem rawWrite_only (s : State) (k : Nat) (bs : List Byte) : OnlyChanges [.mem, .wordErr, .dirty] s (rawWrite s k
    bs) := by
  refine ⟨?_, fun h => wf_memPut k bs h⟩
  intro p hp; cases p <;> first | rfl | exact absurd (by decide) hp

theorem writeMem_only (s : State) (k : Nat) (bs : List Byte) : OnlyChanges [.mem, .wordErr, .dirty, .objx] s
    (writeMem s k bs) := by
  unfold writeMem
  repeat' first
    | (show List.all _ _ = true; decide)
    | with_reducible exact only_refl _ _
    | with_reducible apply only_step (markMoves_only ..)
    | with_reducible apply only_step (rawWrite_only ..)
    | with_reducible apply only_step (state_updOx_only ..)
    | split

theorem copyMem_only (s : State) (src dst n : Nat) : OnlyChanges [.mem, .wordErr, .dirty, .objx] s (copyMem s src
    dst n) := by
  unfold copyMem
  split
  · exact only_step (state_updOx_only ..) rfl (only_refl _ _)
  · refine only_step (markMoves_only ..) rfl ⟨?_, fun h => wf_memCopy src dst n h⟩
    intro p hp; cases p <;> first | rfl | exact absurd (by decide) hp

/-! ## Flags.lean -/

theorem raise_only (s : State) (n v cause : Nat) : OnlyChanges [.seats, .out] s (raise s n v cause) := by
  unfold raise
  repeat' first
    | (show List.all _ _ = true; decide)
    | with_reducible exact only_refl _ _
    | with_reducible apply only_step (state_emit_only ..)
    | with_reducible apply only_step (state_updSeat_only ..)
    | split

theorem deviceEvent_only (s : State) (f : Fld) : OnlyChanges [.seats, .bank, .out] s (deviceEvent s f) := by
  unfold deviceEvent
  repeat' first
    | (show List.all _ _ = true; decide)
    | with_reducible exact only_refl _ _
    | with_reducible apply only_step (raise_only ..)
    | with_reducible apply only_step (set_bank_only ..)

theorem setSbFault_only (s : State) (w : W64) : OnlyChanges [.pins] s (setSbFault s w) := by
  unfold setSbFault
  repeat' first
    | (show List.all _ _ = true; decide)
    | with_reducible exact only_refl _ _
    | with_reducible apply only_step (set_pins_only ..)

theorem setSbBits_only (s : State) (l : List (Fld × Nat)) : OnlyChanges [.pins] s (setSbBits s l) := by
  unfold setSbBits
  repeat' first
    | (show List.all _ _ = true; decide)
    | with_reducible exact only_refl _ _
    | with_reducible apply only_step (setSbFault_only ..)

theorem sbIngots_only (s : State) : OnlyChanges [.pins] s (sbIngots s) := by
  unfold sbIngots
  repeat' first
    | (show List.all _ _ = true; decide)
    | extract_lets
    | with_reducible exact only_refl _ _
    | with_reducible apply only_step (setSbBits_only ..)

theorem logError_only (s : State) (addr cls path seat : Nat) (binding : Option Nat) (reread : Bool) : OnlyChanges
    [.bank] s (logError s addr cls path seat binding reread) := by
  unfold logError
  repeat' first
    | (show List.all _ _ = true; decide)
    | with_reducible exact only_refl _ _
    | with_reducible apply only_step (set_bank_only ..)

theorem countUncorr_only (s : State) (k : Nat) : OnlyChanges [.bank, .ingots] s (countUncorr s k) := by
  unfold countUncorr
  repeat' first
    | (show List.all _ _ = true; decide)
    | with_reducible exact only_refl _ _
    | with_reducible apply only_step (state_countDev_only ..)
    | with_reducible apply only_step (state_countIngot_only ..)
    | split

theorem noteUncorr_only (s : State) (k n path seat : Nat) (binding : Option Nat) : OnlyChanges [.bank, .ingots] s
    (noteUncorr s k n path seat binding) := by
  unfold noteUncorr
  repeat' first
    | (show List.all _ _ = true; decide)
    | intro _
    | with_reducible exact only_refl _ _
    | with_reducible assumption
    | with_reducible apply only_step (countUncorr_only ..)
    | with_reducible apply only_step (logError_only ..)
    | with_reducible refine only_foldl ?_ ?_
    | split

theorem countBad_only (s : State) (k n : Nat) : OnlyChanges [.bank, .ingots] s (countBad s k n) := by
  unfold countBad
  repeat' first
    | (show List.all _ _ = true; decide)
    | intro _
    | with_reducible exact only_refl _ _
    | with_reducible assumption
    | with_reducible apply only_step (countUncorr_only ..)
    | with_reducible refine only_foldl ?_ ?_

theorem noteBad_only (s : State) (k n path seat : Nat) (binding : Option Nat) : OnlyChanges [.bank, .ingots] s
    (noteBad s k n path seat binding) := by
  unfold noteBad
  repeat' first
    | (show List.all _ _ = true; decide)
    | with_reducible exact only_refl _ _
    | with_reducible apply only_step (noteUncorr_only ..)

theorem countCorr_only (s : State) (k n : Nat) (pip : Bool) : OnlyChanges [.bank, .ingots] s (countCorr s k n pip) := by
  unfold countCorr
  repeat' first
    | (show List.all _ _ = true; decide)
    | intro _
    | with_reducible exact only_refl _ _
    | with_reducible assumption
    | with_reducible apply only_step (state_countDev_only ..)
    | with_reducible apply only_step (state_countIngot_only ..)
    | with_reducible refine only_foldl ?_ ?_
    | split

theorem clearCorr_only (s : State) (k n : Nat) : OnlyChanges [.wordErr] s (clearCorr s k n) := by
  unfold clearCorr
  repeat' first
    | (show List.all _ _ = true; decide)
    | with_reducible exact only_refl _ _
    | with_reducible apply only_step (set_wordErr_only ..)

theorem queueFix_only (s : State) (w : Nat) : OnlyChanges [.ingots] s (queueFix s w) := by
  unfold queueFix
  repeat' first
    | (show List.all _ _ = true; decide)
    | extract_lets
    | with_reducible exact only_refl _ _
    | with_reducible apply only_step (updBankGroup_only ..)

theorem scrubFix_only (s : State) (w : Nat) : OnlyChanges [.hm] s (scrubFix s w) := by
  unfold scrubFix
  repeat' first
    | (show List.all _ _ = true; decide)
    | with_reducible exact only_refl _ _
    | with_reducible apply only_step (state_updHmPort_only ..)

theorem rewrite_only (s : State) (k n : Nat) : OnlyChanges [.wordErr, .ingots, .hm] s (rewrite s k n) := by
  unfold rewrite
  repeat' first
    | (show List.all _ _ = true; decide)
    | intro _
    | with_reducible exact only_refl _ _
    | with_reducible assumption
    | with_reducible apply only_step (clearCorr_only ..)
    | with_reducible apply only_step (queueFix_only ..)
    | with_reducible apply only_step (scrubFix_only ..)
    | with_reducible refine only_foldl ?_ ?_
    | split

theorem noteCorr_only (s : State) (k n : Nat) (pip : Bool) : OnlyChanges [.wordErr, .bank, .ingots, .hm] s
    (noteCorr s k n pip) := by
  unfold noteCorr
  repeat' first
    | (show List.all _ _ = true; decide)
    | with_reducible exact only_refl _ _
    | with_reducible apply only_step (countCorr_only ..)
    | with_reducible apply only_step (rewrite_only ..)

/-! ## Kv.lean -/

theorem writeNib_only (s : State) (k nib v : Nat) : OnlyChanges [.mem, .wordErr, .dirty, .objx] s (writeNib s k nib
    v) := by
  unfold writeNib
  repeat' first
    | (show List.all _ _ = true; decide)
    | extract_lets
    | with_reducible exact only_refl _ _
    | with_reducible apply only_step (writeMem_only ..)

theorem allocRun_only {s t : State} {b turn p i : Nat} {bd : Option Nat} (h : allocRun s b bd turn = some (t, p, i)) :
    OnlyChanges [.binds] s t := by
  simp only [allocRun] at h
  split at h
  · cases h
  · split at h
    · cases h
    · simp only [Option.some.injEq, Prod.mk.injEq] at h
      obtain ⟨rfl, -, -⟩ := h
      exact state_setBind_only ..

theorem idxRemove_only (s : State) (b addr : Nat) : OnlyChanges [.mem, .wordErr, .dirty] s (idxRemove s b addr) := by
  unfold idxRemove
  repeat' first
    | (show List.all _ _ = true; decide)
    | intro _
    | with_reducible exact only_refl _ _
    | with_reducible assumption
    | with_reducible apply only_step (rawWrite_only ..)
    | with_reducible refine only_foldl ?_ ?_
    | split

theorem releaseRun_only (s : State) (b p i : Nat) : OnlyChanges [.binds] s (releaseRun s b p i) := by
  unfold releaseRun
  repeat' first
    | (show List.all _ _ = true; decide)
    | extract_lets
    | with_reducible exact only_refl _ _
    | with_reducible apply only_step (state_countBind_only ..)
    | with_reducible apply only_step (state_setBind_only ..)
    | split

theorem looseRun_only (s : State) (b p i : Nat) : OnlyChanges [.binds] s (looseRun s b p i) := by
  unfold looseRun
  repeat' first
    | (show List.all _ _ = true; decide)
    | with_reducible exact only_refl _ _
    | with_reducible apply only_step (releaseRun_only ..)
    | with_reducible apply only_step (state_updBind_only ..)
    | split

theorem unreserve_only (s : State) (b p i : Nat) : OnlyChanges [.binds] s (unreserve s b p i) := by
  unfold unreserve
  repeat' first
    | (show List.all _ _ = true; decide)
    | with_reducible exact only_refl _ _
    | with_reducible apply only_step (looseRun_only ..)
    | with_reducible apply only_step (state_updBind_only ..)

theorem unindex_only (s : State) (b p i : Nat) : OnlyChanges [.mem, .wordErr, .dirty, .binds] s (unindex s b p i) := by
  unfold unindex
  repeat' first
    | (show List.all _ _ = true; decide)
    | extract_lets
    | with_reducible exact only_refl _ _
    | with_reducible apply only_step (idxRemove_only ..)
    | with_reducible apply only_step (state_updBind_only ..)
    | split

theorem refDrop_only (s : State) (b p i : Nat) : OnlyChanges [.mem, .wordErr, .dirty, .binds] s (refDrop s b p i) := by
  unfold refDrop
  repeat' first
    | (show List.all _ _ = true; decide)
    | extract_lets
    | with_reducible exact only_refl _ _
    | with_reducible apply only_step (looseRun_only ..)
    | with_reducible apply only_step (state_setBind_only ..)
    | with_reducible apply only_step (unindex_only ..)
    | split

theorem refAdd_only (s : State) (b p i n : Nat) : OnlyChanges [.binds] s (refAdd s b p i n) := by
  unfold refAdd
  repeat' first
    | (show List.all _ _ = true; decide)
    | with_reducible exact only_refl _ _
    | with_reducible apply only_step (state_updBind_only ..)

theorem allocSet_only {s t : State} {slot seat n f : Nat} (h : allocSet s slot seat n = some (t, f)) :
    OnlyChanges [.seats, .bank] s t := by
  simp only [allocSet] at h
  split at h
  · cases h
  · split at h
    · cases h
    · simp only [Option.map_eq_some_iff, Prod.mk.injEq] at h
      obtain ⟨a, -, rfl, -⟩ := h
      exact only_step (state_updSeat_only ..) rfl (only_step (set_bank_only ..) rfl (only_refl _ _))

theorem freeSet_only (s : State) (seat f : Nat) : OnlyChanges [.seats, .bank] s (freeSet s seat f) := by
  unfold freeSet
  repeat' first
    | (show List.all _ _ = true; decide)
    | with_reducible exact only_refl _ _
    | with_reducible apply only_step (state_updSeat_only ..)
    | split
    | with_reducible apply only_step (set_bank_only ..)

theorem hostWrite_only (s : State) (seat k : Nat) (bs : List Byte) : OnlyChanges [.mem, .wordErr, .dirty, .objx,
    .mirrors] s (hostWrite s seat k bs) := by
  unfold hostWrite
  repeat' first
    | (show List.all _ _ = true; decide)
    | extract_lets
    | with_reducible exact only_refl _ _
    | with_reducible apply only_step (state_setMir_only ..)
    | with_reducible apply only_step (writeMem_only ..)
    | split

theorem copyEntries_only (s : State) (r : BitVec 8192) (src dst count : Nat) : OnlyChanges [.mem, .wordErr, .dirty,
    .objx] s (copyEntries s r src dst count) := by
  unfold copyEntries
  repeat' first
    | (show List.all _ _ = true; decide)
    | extract_lets
    | intro _
    | with_reducible exact only_refl _ _
    | with_reducible assumption
    | with_reducible apply only_step (writeMem_only ..)
    | with_reducible apply only_step (writeNib_only ..)
    | with_reducible refine only_foldl ?_ ?_
    | split

theorem copyEntry_only (s : State) (r : BitVec 8192) (src t dst t' : Nat) : OnlyChanges [.mem, .wordErr, .dirty,
    .objx] s (copyEntry s r src t dst t') := by
  unfold copyEntry
  repeat' first
    | (show List.all _ _ = true; decide)
    | extract_lets
    | intro _
    | with_reducible exact only_refl _ _
    | with_reducible assumption
    | with_reducible apply only_step (writeMem_only ..)
    | with_reducible apply only_step (writeNib_only ..)
    | with_reducible refine only_foldl ?_ ?_
    | split

/-! ## Operands.lean -/

theorem respondAt_only (s : State) (c : Cmd) (held : Bool) (bt applied : Nat) (r : Rsp) : OnlyChanges [.seats,
    .mboxes, .bank, .out] s (respondAt s c held bt applied r) := by
  unfold respondAt
  repeat' first
    | (show List.all _ _ = true; decide)
    | extract_lets
    | with_reducible exact only_refl _ _
    | with_reducible apply only_step (raise_only ..)
    | with_reducible apply only_step (state_setMbox_only ..)
    | split
    | with_reducible apply only_step (set_bank_only ..)

theorem respond_only (s : State) (c : Cmd) (held : Bool) (bt : Nat) (r : Rsp) : OnlyChanges [.seats, .mboxes,
    .bank, .out] s (respond s c held bt r) := by
  unfold respond
  repeat' first
    | (show List.all _ _ = true; decide)
    | with_reducible exact only_refl _ _
    | with_reducible apply only_step (respondAt_only ..)

theorem answerLater_only (s : State) (c : Cmd) (held : Bool) (bt k : Nat) (r : Rsp) : OnlyChanges [.bank] s
    (answerLater s c held bt k r) := by
  unfold answerLater
  repeat' first
    | (show List.all _ _ = true; decide)
    | with_reducible exact only_refl _ _
    | with_reducible apply only_step (set_bank_only ..)

theorem applyTime_only (s : State) : OnlyChanges [.bank] s (applyTime s) := by
  unfold applyTime
  repeat' first
    | (show List.all _ _ = true; decide)
    | with_reducible exact only_refl _ _
    | with_reducible apply only_step (set_bank_only ..)

theorem applyCmd_only {l : List Part} (op : CmdOp) (c : Cmd) (held : Bool) (s : State)
    (hl : List.all [.bank, .mboxes, .seats, .out] l.contains = true)
    (hop : ∀ s, OnlyChanges l s (op c s).1) : OnlyChanges l s (applyCmd op c held s) := by
  have hb : List.all [.bank] l.contains = true := by
    simp only [List.all_cons, List.all_nil, Bool.and_true, Bool.and_eq_true] at hl ⊢; tauto
  have hr : List.all [.seats, .mboxes, .bank, .out] l.contains = true := by
    simp only [List.all_cons, List.all_nil, Bool.and_true, Bool.and_eq_true] at hl ⊢; tauto
  have h0 : OnlyChanges l s { applyTime s with
      bank := { (applyTime s).bank with commands := (applyTime s).bank.commands + 1 } } :=
    only_step (set_bank_only (applyTime s) _) hb (only_step (applyTime_only s) hb (only_refl l s))
  unfold applyCmd
  extract_lets y1 y2 y3 y4
  split
  · exact only_step (respond_only ..) hr h0
  · have h1 := only_step (hop _) (by simp) h0
    split
    · exact only_step (respond_only ..) hr h1
    · exact only_step (answerLater_only ..) hb h1

theorem present_only (s : State) (c : Cmd) : OnlyChanges [.mboxes] s (present s c) := by
  unfold present
  repeat' first
    | (show List.all _ _ = true; decide)
    | with_reducible exact only_refl _ _
    | with_reducible apply only_step (state_setMbox_only ..)

theorem grantMb_only (s : State) (m : Nat) : OnlyChanges [.mboxes, .bank] s (grantMb s m) := by
  unfold grantMb
  repeat' first
    | (show List.all _ _ = true; decide)
    | extract_lets
    | with_reducible exact only_refl _ _
    | with_reducible apply only_step (state_setMbox_only ..)
    | with_reducible apply only_step (set_bank_only ..)

theorem holdCmd_only (s : State) (m : Nat) : OnlyChanges [.mboxes, .bank] s (holdCmd s m) := by
  unfold holdCmd
  repeat' first
    | (show List.all _ _ = true; decide)
    | extract_lets
    | with_reducible exact only_refl _ _
    | with_reducible apply only_step (state_setMbox_only ..)
    | with_reducible apply only_step (set_bank_only ..)

theorem applyOrHold_only {l : List Part} (op : CmdOp) (c : Cmd) (s : State)
    (hl : List.all [.bank, .mboxes, .seats, .out] l.contains = true)
    (hop : ∀ s, OnlyChanges l s (op c s).1) : OnlyChanges l s (applyOrHold op c s) := by
  unfold applyOrHold
  split
  · refine only_step (holdCmd_only ..) ?_ (only_refl l s)
    simp only [List.all_cons, List.all_nil, Bool.and_true, Bool.and_eq_true] at hl ⊢; tauto
  · exact applyCmd_only op c false s hl hop

theorem serveRow_only {l : List Part} (op : CmdOp) (c : Cmd) (s : State)
    (hl : List.all [.bank, .mboxes, .seats, .out] l.contains = true)
    (hop : ∀ s, OnlyChanges l s (op c s).1) : OnlyChanges l s (serveRow op c s) := by
  unfold serveRow
  split
  · refine only_step (set_bank_only ..) ?_ (only_refl l s)
    simp only [List.all_cons, List.all_nil, Bool.and_true, Bool.and_eq_true] at hl ⊢; tauto
  · exact applyOrHold_only op c s hl hop

/-! ## Fabric.lean -/

theorem setRoutes_only (s : State) : OnlyChanges [.fab] s (setRoutes s) := by
  unfold setRoutes
  repeat' first
    | (show List.all _ _ = true; decide)
    | with_reducible exact only_refl _ _
    | with_reducible apply only_step (set_fab_only ..)

theorem queuePacket_only (s : State) (src out : Nat) (p : Packet) : OnlyChanges [.fab] s (queuePacket s src out p) := by
  unfold queuePacket
  repeat' first
    | (show List.all _ _ = true; decide)
    | with_reducible exact only_refl _ _
    | with_reducible apply only_step (state_updPort_only ..)

theorem countNoroute_only (s : State) (src : Nat) (p : Packet) : OnlyChanges [.fab] s (countNoroute s src p) := by
  unfold countNoroute
  repeat' first
    | (show List.all _ _ = true; decide)
    | with_reducible exact only_refl _ _
    | with_reducible apply only_step (state_countPort_only ..)

theorem setBulkStage_only (s : State) (d : Nat) (x : Stage Packet) : OnlyChanges [.fab] s (setBulkStage s d x) := by
  unfold setBulkStage
  repeat' first
    | (show List.all _ _ = true; decide)
    | with_reducible exact only_refl _ _
    | with_reducible apply only_step (set_fab_only ..)

theorem stagePacket_only (s : State) (d : Nat) (p : Packet) : OnlyChanges [.fab] s (stagePacket s d p) := by
  unfold stagePacket
  repeat' first
    | (show List.all _ _ = true; decide)
    | with_reducible exact only_refl _ _
    | with_reducible apply only_step (setBulkStage_only ..)

theorem sendPacket_only (s : State) (p : Packet) : OnlyChanges [.fab] s (sendPacket s p) := by
  unfold sendPacket
  repeat' first
    | (show List.all _ _ = true; decide)
    | with_reducible exact only_refl _ _
    | with_reducible apply only_step (countNoroute_only ..)
    | with_reducible apply only_step (queuePacket_only ..)
    | with_reducible apply only_step (stagePacket_only ..)
    | split

theorem answer_only (s : State) (q : Packet) (status : Nat) (data : Nat) : OnlyChanges [.fab] s (answer s q status
    data) := by
  unfold answer
  repeat' first
    | (show List.all _ _ = true; decide)
    | with_reducible exact only_refl _ _
    | with_reducible apply only_step (sendPacket_only ..)
    | split

theorem countTier_only (s : State) (b slot : Nat) : OnlyChanges [.reqx, .binds] s (countTier s b slot) := by
  unfold countTier
  repeat' first
    | (show List.all _ _ = true; decide)
    | with_reducible exact only_refl _ _
    | with_reducible apply only_step (state_countBind_only ..)
    | with_reducible apply only_step (state_updRx_only ..)
    | split

theorem settleFences_only (s : State) : OnlyChanges [.fab, .out] s (settleFences s) := by
  unfold settleFences
  repeat' first
    | (show List.all _ _ = true; decide)
    | extract_lets
    | intro _
    | with_reducible exact only_refl _ _
    | with_reducible assumption
    | with_reducible apply only_step (state_emit_only ..)
    | with_reducible refine only_foldl ?_ ?_
    | with_reducible apply only_step (set_fab_only ..)

theorem lostTiles_only (s : State) (r : FabReq) (status : Nat) : OnlyChanges [.cores] s (lostTiles s r status) := by
  unfold lostTiles
  repeat' first
    | (show List.all _ _ = true; decide)
    | extract_lets
    | with_reducible exact only_refl _ _
    | with_reducible apply only_step (state_updCore_only ..)
    | split

theorem failServed_only (s : State) (b en status : Nat) : OnlyChanges [.reqx, .binds] s (failServed s b en status) := by
  unfold failServed
  repeat' first
    | (show List.all _ _ = true; decide)
    | extract_lets
    | with_reducible exact only_refl _ _
    | with_reducible apply only_step (countTier_only ..)
    | with_reducible apply only_step (state_updBind_only ..)
    | split

theorem failTile_only (s : State) (n st : Nat) : OnlyChanges [.objx] s (failTile s n st) := by
  unfold failTile
  repeat' first
    | (show List.all _ _ = true; decide)
    | with_reducible exact only_refl _ _
    | with_reducible apply only_step (state_updOx_only ..)

theorem jobFail_only (s : State) (j : Job) (status : Nat) : OnlyChanges [.bank, .reqx, .objx, .binds] s (jobFail s
    j status) := by
  unfold jobFail
  repeat' first
    | (show List.all _ _ = true; decide)
    | with_reducible exact only_refl _ _
    | with_reducible apply only_step (failServed_only ..)
    | with_reducible apply only_step (failTile_only ..)
    | with_reducible apply only_step (state_updBind_only ..)
    | with_reducible apply only_step (state_updRx_only ..)
    | split
    | with_reducible apply only_step (set_bank_only ..)

theorem tileDone_only (s : State) (n : Nat) : OnlyChanges [.bank, .objs, .objx] s (tileDone s n) := by
  unfold tileDone
  repeat' first
    | (show List.all _ _ = true; decide)
    | with_reducible exact only_refl _ _
    | with_reducible apply only_step (state_countDev_only ..)
    | with_reducible apply only_step (state_updObj_only ..)
    | with_reducible apply only_step (state_updOx_only ..)

theorem jobDone_only (s : State) (r : FabReq) (j : Job) : OnlyChanges [.dirty, .bank, .objs, .objx] s (jobDone s r
    j) := by
  unfold jobDone
  repeat' first
    | (show List.all _ _ = true; decide)
    | extract_lets
    | with_reducible exact only_refl _ _
    | with_reducible apply only_step (tileDone_only ..)
    | split
    | with_reducible apply only_step (set_dirty_only ..)

theorem completeReq_only (s : State) (r : FabReq) (status : Nat) (data : List Byte) : OnlyChanges [.dirty, .bank,
    .reqx, .objs, .objx, .binds, .cores, .fab, .out] s (completeReq s r status data) := by
  unfold completeReq
  repeat' first
    | (show List.all _ _ = true; decide)
    | extract_lets
    | with_reducible exact only_refl _ _
    | with_reducible apply only_step (jobDone_only ..)
    | with_reducible apply only_step (jobFail_only ..)
    | with_reducible apply only_step (lostTiles_only ..)
    | with_reducible apply only_step (settleFences_only ..)
    | with_reducible apply only_step (state_emit_only ..)
    | split
    | with_reducible apply only_step (set_fab_only ..)

theorem dropPacket_only (s : State) (port : Nat) (p : Packet) (status : Nat) : OnlyChanges [.dirty, .bank, .reqx,
    .objs, .objx, .binds, .cores, .fab, .out] s (dropPacket s port p status) := by
  unfold dropPacket
  repeat' first
    | (show List.all _ _ = true; decide)
    | extract_lets
    | with_reducible exact only_refl _ _
    | with_reducible apply only_step (answer_only ..)
    | with_reducible apply only_step (completeReq_only ..)
    | with_reducible apply only_step (countNoroute_only ..)
    | split

theorem admitBulk_only (s : State) (d : Nat) : OnlyChanges [.dirty, .bank, .reqx, .objs, .objx, .binds, .cores,
    .fab, .out] s (admitBulk s d) := by
  unfold admitBulk
  repeat' first
    | (show List.all _ _ = true; decide)
    | extract_lets
    | with_reducible exact only_refl _ _
    | with_reducible apply only_step (dropPacket_only ..)
    | with_reducible apply only_step (queuePacket_only ..)
    | with_reducible apply only_step (setBulkStage_only ..)
    | split

theorem launchPacket_only (s : State) (out : Nat) (p : Packet) : OnlyChanges [.dirty, .bank, .reqx, .objs, .objx,
    .binds, .cores, .fab, .out] s (launchPacket s out p) := by
  unfold launchPacket
  repeat' first
    | (show List.all _ _ = true; decide)
    | with_reducible exact only_refl _ _
    | with_reducible apply only_step (admitBulk_only ..)
    | with_reducible apply only_step (queuePacket_only ..)
    | with_reducible apply only_step (stagePacket_only ..)
    | split

theorem launch_only (s : State) (h : HeldReq) : OnlyChanges [.dirty, .bank, .reqx, .objs, .objx, .binds, .cores,
    .fab, .out] s (launch s h) := by
  unfold launch
  repeat' first
    | (show List.all _ _ = true; decide)
    | extract_lets
    | with_reducible exact only_refl _ _
    | with_reducible apply only_step (completeReq_only ..)
    | with_reducible apply only_step (countNoroute_only ..)
    | with_reducible apply only_step (launchPacket_only ..)
    | split
    | with_reducible apply only_step (set_fab_only ..)

theorem issueAs_only (s : State) (serves : Option Job) (tracked : Bool) (span unit dest cls seat : Nat) (posted :
    Bool) (dst left : Nat) (mk : List (Fld × Nat)) (payload : BitVec 4096) : OnlyChanges [.dirty, .bank, .reqx,
    .objs, .objx, .binds, .cores, .fab, .out] s (issueAs s serves tracked span unit dest cls seat posted dst left
    mk payload) := by
  unfold issueAs
  repeat' first
    | (show List.all _ _ = true; decide)
    | extract_lets
    | with_reducible exact only_refl _ _
    | with_reducible apply only_step (launch_only ..)
    | split
    | with_reducible apply only_step (set_fab_only ..)

theorem issue_only (s : State) (unit dest cls seat : Nat) (posted : Bool) (dst left : Nat) (mk : List (Fld × Nat))
    (payload : BitVec 4096) : OnlyChanges [.dirty, .bank, .reqx, .objs, .objx, .binds, .cores, .fab, .out] s (issue
    s unit dest cls seat posted dst left mk payload) := by
  unfold issue
  repeat' first
    | (show List.all _ _ = true; decide)
    | with_reducible exact only_refl _ _
    | with_reducible apply only_step (issueAs_only ..)

theorem launchHeld_only (s : State) : OnlyChanges [.dirty, .bank, .reqx, .objs, .objx, .binds, .cores, .fab, .out]
    s (launchHeld s) := by
  unfold launchHeld
  repeat' first
    | (show List.all _ _ = true; decide)
    | intro _
    | with_reducible exact only_refl _ _
    | with_reducible assumption
    | with_reducible apply only_step (launch_only ..)
    | with_reducible refine only_foldl ?_ ?_
    | split
    | with_reducible apply only_step (set_fab_only ..)

theorem sendParts_only (s : State) (serves : Option Job) (type unit dest cls seat : Nat) (data : List Byte) :
    OnlyChanges [.dirty, .bank, .reqx, .objs, .objx, .binds, .cores, .fab, .out] s (sendParts s serves type unit
    dest cls seat data) := by
  unfold sendParts
  repeat' first
    | (show List.all _ _ = true; decide)
    | intro _
    | with_reducible exact only_refl _ _
    | with_reducible assumption
    | with_reducible apply only_step (issueAs_only ..)
    | with_reducible refine only_foldl ?_ ?_

theorem message_only (s : State) (dest cls seat bytes : Nat) : OnlyChanges [.dirty, .bank, .reqx, .objs, .objx,
    .binds, .cores, .fab, .out, .free] s (message s dest cls seat bytes) := by
  unfold message
  repeat' first
    | (show List.all _ _ = true; decide)
    | extract_lets
    | intro _
    | with_reducible exact only_refl _ _
    | with_reducible assumption
    | with_reducible apply only_step (issueAs_only ..)
    | with_reducible refine only_foldl ?_ ?_
    | with_reducible apply only_step (set_free_only ..)

theorem heldOut_only (s : State) (seat : Nat) (l : List SealWait) : OnlyChanges [.mem, .wordErr, .dirty, .seats,
    .objx, .out] s (heldOut s seat l) := by
  unfold heldOut
  repeat' first
    | (show List.all _ _ = true; decide)
    | intro _
    | with_reducible exact only_refl _ _
    | with_reducible assumption
    | with_reducible apply only_step (raise_only ..)
    | with_reducible apply only_step (writeMem_only ..)
    | with_reducible refine only_foldl ?_ ?_

theorem mirrorLost_only (s : State) (n : Nat) : OnlyChanges [.mem, .wordErr, .dirty, .seats, .bank, .objx,
    .mirrors, .out] s (mirrorLost s n) := by
  unfold mirrorLost
  repeat' first
    | (show List.all _ _ = true; decide)
    | extract_lets
    | with_reducible exact only_refl _ _
    | with_reducible apply only_step (deviceEvent_only ..)
    | with_reducible apply only_step (heldOut_only ..)
    | with_reducible apply only_step (state_setMir_only ..)
    | split

theorem leaveMatch_only (s : State) (p status : Nat) : OnlyChanges [.clk, .mem, .wordErr, .dirty, .seats, .bank,
    .reqx, .objs, .objx, .binds, .cores, .fab, .mirrors, .out] s (leaveMatch s p status) := by
  unfold leaveMatch
  repeat' first
    | (show List.all _ _ = true; decide)
    | extract_lets
    | intro _
    | with_reducible exact only_refl _ _
    | with_reducible assumption
    | with_reducible apply only_step (dropPacket_only ..)
    | with_reducible apply only_step (mirrorLost_only ..)
    | with_reducible apply only_step (state_updPort_only ..)
    | with_reducible refine only_foldl ?_ ?_
    | split
    | with_reducible apply only_step (set_clk_only ..)

theorem setTimeParent_only (s : State) : OnlyChanges [.clk] s (setTimeParent s) := by
  unfold setTimeParent
  repeat' first
    | (show List.all _ _ = true; decide)
    | extract_lets
    | with_reducible exact only_refl _ _
    | split
    | with_reducible apply only_step (set_clk_only ..)

theorem comparePorts_only (s : State) (count : Bool) (status : Nat) : OnlyChanges [.clk, .mem, .wordErr, .dirty,
    .seats, .bank, .reqx, .objs, .objx, .binds, .cores, .fab, .mirrors, .out] s (comparePorts s count status) := by
  unfold comparePorts
  repeat' first
    | (show List.all _ _ = true; decide)
    | extract_lets
    | intro _
    | with_reducible exact only_refl _ _
    | with_reducible assumption
    | with_reducible apply only_step (deviceEvent_only ..)
    | with_reducible apply only_step (leaveMatch_only ..)
    | with_reducible apply only_step (setRoutes_only ..)
    | with_reducible apply only_step (setTimeParent_only ..)
    | with_reducible apply only_step (state_countPort_only ..)
    | with_reducible apply only_step (state_updPort_only ..)
    | with_reducible refine only_foldl ?_ ?_
    | split

theorem sendLinkid_only (s : State) (p : Nat) : OnlyChanges [.fab, .out] s (sendLinkid s p) := by
  unfold sendLinkid
  repeat' first
    | (show List.all _ _ = true; decide)
    | with_reducible exact only_refl _ _
    | with_reducible apply only_step (state_countPort_only ..)
    | with_reducible apply only_step (state_emit_only ..)

theorem sendLinkids_only (s : State) : OnlyChanges [.fab, .out] s (sendLinkids s) := by
  unfold sendLinkids
  repeat' first
    | (show List.all _ _ = true; decide)
    | intro _
    | with_reducible exact only_refl _ _
    | with_reducible assumption
    | with_reducible apply only_step (sendLinkid_only ..)
    | with_reducible refine only_foldl ?_ ?_
    | split

theorem linkTick_only (s : State) (p fc : Nat) : OnlyChanges [.fab, .out] s (linkTick s p fc) := by
  unfold linkTick
  repeat' first
    | (show List.all _ _ = true; decide)
    | extract_lets
    | with_reducible exact only_refl _ _
    | with_reducible apply only_step (state_emit_only ..)
    | with_reducible apply only_step (state_setPort_only ..)
    | split

end Sys2Proof.Laws
end

