-- ==== Sys2Proof/Laws/FrameLinks.lean ====
section
/-! SUPPORT. What each operation may change: ingots, lanes, packets, the shared memory ports, the tree. -/

namespace Sys2Proof.Laws

open Sys2Proof Sys2Proof.Machine

set_option linter.tactic.unusedName false

/-! ## Ingot.lean -/

theorem memWrite_only (s : State) (k : Nat) (bs : List Byte) (seat : Nat) : OnlyChanges [.mem, .wordErr, .dirty,
    .bank, .objx, .ingots] s (memWrite s k bs seat).1 := by
  unfold memWrite
  repeat' first
    | (show List.all _ _ = true; decide)
    | extract_lets
    | with_reducible exact only_refl _ _
    | with_reducible apply only_step (clearCorr_only ..)
    | with_reducible apply only_step (countCorr_only ..)
    | with_reducible apply only_step (noteUncorr_only ..)
    | with_reducible apply only_step (writeMem_only ..)
    | split

theorem pushExt_only (s : State) (i bg : Nat) (e : ExtEnt) : OnlyChanges [.ingots] s (pushExt s i bg e) := by
  unfold pushExt
  repeat' first
    | (show List.all _ _ = true; decide)
    | with_reducible exact only_refl _ _
    | with_reducible apply only_step (updBankGroup_only ..)

theorem pushPart_only (s : State) (q k n : Nat) (write : Bool) : OnlyChanges [.ingots] s (pushPart s q k n write) := by
  unfold pushPart
  repeat' first
    | (show List.all _ _ = true; decide)
    | with_reducible exact only_refl _ _
    | with_reducible apply only_step (pushExt_only ..)

theorem drainPage_only (s : State) (ingot page : Nat) : OnlyChanges [.mem, .wordErr, .dirty, .bank, .objx, .ingots]
    s (drainPage s ingot page) := by
  unfold drainPage
  repeat' first
    | (show List.all _ _ = true; decide)
    | extract_lets
    | intro _
    | with_reducible exact only_refl _ _
    | with_reducible assumption
    | with_reducible apply only_step (memWrite_only ..)
    | with_reducible apply only_step (pushPart_only ..)
    | with_reducible apply only_step (state_updIngot_only ..)
    | with_reducible refine only_foldl ?_ ?_

theorem deferWrite_only (s : State) (i page off : Nat) (bs : List Byte) : OnlyChanges [.ingots] s (deferWrite s i
    page off bs) := by
  unfold deferWrite
  repeat' first
    | (show List.all _ _ = true; decide)
    | with_reducible exact only_refl _ _
    | with_reducible apply only_step (state_countIngot_only ..)
    | with_reducible apply only_step (state_updIngot_only ..)

theorem writePiece_only (s : State) (k : Nat) (bs : List Byte) (seat : Nat) : OnlyChanges [.mem, .wordErr, .dirty,
    .bank, .objx, .ingots] s (writePiece s k bs seat) := by
  unfold writePiece
  repeat' first
    | (show List.all _ _ = true; decide)
    | extract_lets
    | with_reducible exact only_refl _ _
    | with_reducible apply only_step (deferWrite_only ..)
    | with_reducible apply only_step (drainPage_only ..)
    | with_reducible apply only_step (memWrite_only ..)
    | split

theorem extRead_only (s : State) (k n seat : Nat) : OnlyChanges [.wordErr, .bank, .ingots, .hm] s (extRead s k n
    seat).1 := by
  unfold extRead
  repeat' first
    | (show List.all _ _ = true; decide)
    | extract_lets
    | with_reducible exact only_refl _ _
    | with_reducible apply only_step (noteCorr_only ..)
    | with_reducible apply only_step (noteUncorr_only ..)
    | split

theorem extWrite_only (s : State) (k : Nat) (bs : List Byte) (seat : Nat) : OnlyChanges [.mem, .wordErr, .dirty,
    .bank, .objx, .ingots] s (extWrite s k bs seat).1 := by
  unfold extWrite
  repeat' first
    | (show List.all _ _ = true; decide)
    | extract_lets
    | intro _
    | with_reducible exact only_refl _ _
    | with_reducible assumption
    | with_reducible apply only_step (noteUncorr_only ..)
    | with_reducible apply only_step (writePiece_only ..)
    | with_reducible refine only_foldl ?_ ?_
    | split

theorem pushPages_only (s : State) (q k n : Nat) (write : Bool) : OnlyChanges [.ingots] s (pushPages s q k n write)
    := by
  unfold pushPages
  repeat' first
    | (show List.all _ _ = true; decide)
    | intro _
    | with_reducible exact only_refl _ _
    | with_reducible assumption
    | with_reducible apply only_step (pushPart_only ..)
    | with_reducible refine only_foldl ?_ ?_

theorem pushGrants_only (s : State) (who : Nat × Nat) (k n : Nat) (write : Bool) : OnlyChanges [.ingots, .hm] s
    (pushGrants s who k n write) := by
  unfold pushGrants
  repeat' first
    | (show List.all _ _ = true; decide)
    | with_reducible exact only_refl _ _
    | with_reducible apply only_step (pushPages_only ..)
    | with_reducible apply only_step (state_updHmPort_only ..)
    | split

theorem blockMover_only (s : State) (dst n : Nat) : OnlyChanges [.ingots] s (blockMover s dst n) := by
  unfold blockMover
  repeat' first
    | (show List.all _ _ = true; decide)
    | extract_lets
    | with_reducible exact only_refl _ _
    | with_reducible apply only_step (pushExt_only ..)
    | split

theorem moverWrite_only (s : State) (who : Nat × Nat) (dst : Nat) (bs : List Byte) : OnlyChanges [.mem, .wordErr,
    .dirty, .bank, .objx, .ingots, .hm] s (moverWrite s who dst bs) := by
  unfold moverWrite
  repeat' first
    | (show List.all _ _ = true; decide)
    | extract_lets
    | intro _
    | with_reducible exact only_refl _ _
    | with_reducible assumption
    | with_reducible apply only_step (pushGrants_only ..)
    | with_reducible apply only_step (writeMem_only ..)
    | with_reducible apply only_step (writePiece_only ..)
    | with_reducible refine only_foldl ?_ ?_
    | split

theorem moverCopy_only (s : State) (who : Nat × Nat) (src dst n : Nat) : OnlyChanges [.mem, .wordErr, .dirty,
    .bank, .objx, .ingots, .hm] s (moverCopy s who src dst n) := by
  unfold moverCopy
  repeat' first
    | (show List.all _ _ = true; decide)
    | extract_lets
    | intro _
    | with_reducible exact only_refl _ _
    | with_reducible assumption
    | with_reducible apply only_step (copyMem_only ..)
    | with_reducible apply only_step (pushGrants_only ..)
    | with_reducible apply only_step (writePiece_only ..)
    | with_reducible refine only_foldl ?_ ?_
    | split

/-! ## Lanes.lean -/

theorem trainPort_only (s : State) (p : Nat) : OnlyChanges [.fab] s (trainPort s p) := by
  unfold trainPort
  repeat' first
    | (show List.all _ _ = true; decide)
    | with_reducible exact only_refl _ _
    | with_reducible apply only_step (state_updPort_only ..)

theorem linkTrained_only (p : Nat) (s : State) : OnlyChanges [.clk, .mem, .wordErr, .dirty, .seats, .bank, .reqx,
    .objs, .objx, .binds, .cores, .fab, .mirrors, .out] s (linkTrained p s) := by
  unfold linkTrained
  repeat' first
    | (show List.all _ _ = true; decide)
    | extract_lets
    | with_reducible exact only_refl _ _
    | with_reducible apply only_step (comparePorts_only ..)
    | with_reducible apply only_step (sendLinkid_only ..)
    | with_reducible apply only_step (trainPort_only ..)
    | split

theorem trainingLost_only (p : Nat) (s : State) : OnlyChanges [.clk, .mem, .wordErr, .dirty, .seats, .bank, .reqx,
    .objs, .objx, .binds, .cores, .fab, .mirrors, .out] s (trainingLost p s) := by
  unfold trainingLost
  repeat' first
    | (show List.all _ _ = true; decide)
    | with_reducible exact only_refl _ _
    | with_reducible apply only_step (comparePorts_only ..)
    | with_reducible apply only_step (state_updPort_only ..)

theorem linkidArrives_only (p : Nat) (w : BitVec 256) (s : State) : OnlyChanges [.clk, .mem, .wordErr, .dirty,
    .seats, .bank, .reqx, .objs, .objx, .binds, .cores, .fab, .mirrors, .out] s (linkidArrives p w s) := by
  unfold linkidArrives
  repeat' first
    | (show List.all _ _ = true; decide)
    | extract_lets
    | with_reducible exact only_refl _ _
    | with_reducible apply only_step (comparePorts_only ..)
    | with_reducible apply only_step (state_countPort_only ..)
    | with_reducible apply only_step (state_updPort_only ..)
    | split

theorem linkFail_only (s : State) (p : Nat) : OnlyChanges [.clk, .mem, .wordErr, .dirty, .seats, .bank, .reqx,
    .objs, .objx, .binds, .cores, .fab, .mirrors, .out] s (linkFail s p) := by
  unfold linkFail
  repeat' first
    | (show List.all _ _ = true; decide)
    | extract_lets
    | with_reducible exact only_refl _ _
    | with_reducible apply only_step (comparePorts_only ..)
    | with_reducible apply only_step (logError_only ..)
    | with_reducible apply only_step (state_countPort_only ..)
    | with_reducible apply only_step (state_updPort_only ..)
    | split

theorem packetError_only (p seq : Nat) (s : State) : OnlyChanges [.clk, .mem, .wordErr, .dirty, .seats, .bank,
    .reqx, .objs, .objx, .binds, .cores, .fab, .mirrors, .out] s (packetError p seq s) := by
  unfold packetError
  repeat' first
    | (show List.all _ _ = true; decide)
    | extract_lets
    | with_reducible exact only_refl _ _
    | with_reducible apply only_step (linkFail_only ..)
    | with_reducible apply only_step (state_countPort_only ..)
    | with_reducible apply only_step (state_emit_only ..)
    | with_reducible apply only_step (state_setPort_only ..)
    | split

theorem received_only (s : State) (p : Nat) : OnlyChanges [.fab] s (received s p) := by
  unfold received
  repeat' first
    | (show List.all _ _ = true; decide)
    | with_reducible exact only_refl _ _
    | with_reducible apply only_step (state_countPort_only ..)
    | with_reducible apply only_step (state_updPort_only ..)

theorem receivedPackets_only (s : State) (p n : Nat) : OnlyChanges [.fab] s (receivedPackets s p n) := by
  unfold receivedPackets
  repeat' first
    | (show List.all _ _ = true; decide)
    | with_reducible exact only_refl _ _
    | with_reducible apply only_step (state_countPort_only ..)
    | with_reducible apply only_step (state_updPort_only ..)

theorem trainingAttempt_only (p : Nat) (ok : Bool) (s : State) : OnlyChanges [.clk, .mem, .wordErr, .dirty, .seats,
    .bank, .reqx, .objs, .objx, .binds, .cores, .fab, .mirrors, .out] s (trainingAttempt p ok s) := by
  unfold trainingAttempt
  repeat' first
    | (show List.all _ _ = true; decide)
    | with_reducible exact only_refl _ _
    | with_reducible apply only_step (linkTrained_only ..)
    | with_reducible apply only_step (state_updPort_only ..)
    | split

theorem setLaneWord_only (s : State) (i c : Nat) (w : W64) : OnlyChanges [.ingots] s (setLaneWord s i c w) := by
  unfold setLaneWord
  repeat' first
    | (show List.all _ _ = true; decide)
    | with_reducible exact only_refl _ _
    | with_reducible apply only_step (state_updIngot_only ..)

theorem startPass_only (s : State) (i c : Nat) : OnlyChanges [.ingots] s (startPass s i c) := by
  unfold startPass
  repeat' first
    | (show List.all _ _ = true; decide)
    | extract_lets
    | with_reducible exact only_refl _ _
    | with_reducible apply only_step (setLaneWord_only ..)
    | with_reducible apply only_step (state_countIngot_only ..)
    | with_reducible apply only_step (state_updIngot_only ..)
    | split

theorem testChannel_only (s : State) (i c : Nat) : OnlyChanges [.ingots] s (testChannel s i c) := by
  unfold testChannel
  repeat' first
    | (show List.all _ _ = true; decide)
    | extract_lets
    | with_reducible exact only_refl _ _
    | with_reducible apply only_step (startPass_only ..)
    | split

theorem testLink_only (s : State) (p : Nat) : OnlyChanges [.fab] s (testLink s p) := by
  unfold testLink
  repeat' first
    | (show List.all _ _ = true; decide)
    | extract_lets
    | with_reducible exact only_refl _ _
    | with_reducible apply only_step (state_updPort_only ..)
    | split

theorem laneTest_only (s : State) : OnlyChanges [.ingots, .fab] s (laneTest s) := by
  unfold laneTest
  repeat' first
    | (show List.all _ _ = true; decide)
    | extract_lets
    | intro _
    | with_reducible exact only_refl _ _
    | with_reducible assumption
    | with_reducible apply only_step (state_updIngot_only ..)
    | with_reducible apply only_step (testChannel_only ..)
    | with_reducible apply only_step (testLink_only ..)
    | with_reducible refine only_foldl ?_ ?_

theorem laneFail_only (s : State) (i c lane : Nat) : OnlyChanges [.bank, .ingots] s (laneFail s i c lane) := by
  unfold laneFail
  repeat' first
    | (show List.all _ _ = true; decide)
    | extract_lets
    | with_reducible exact only_refl _ _
    | with_reducible apply only_step (logError_only ..)
    | with_reducible apply only_step (setLaneWord_only ..)
    | with_reducible apply only_step (state_countIngot_only ..)
    | with_reducible apply only_step (state_updIngot_only ..)
    | split

theorem spareDone_only (i c : Nat) (ok : Bool) (s : State) : OnlyChanges [.bank, .ingots] s (spareDone i c ok s) := by
  unfold spareDone
  repeat' first
    | (show List.all _ _ = true; decide)
    | extract_lets
    | with_reducible exact only_refl _ _
    | with_reducible apply only_step (laneFail_only ..)
    | with_reducible apply only_step (setLaneWord_only ..)
    | with_reducible apply only_step (state_updIngot_only ..)
    | split

theorem handover_only (i c : Nat) (s : State) : OnlyChanges [.ingots] s (handover i c s) := by
  unfold handover
  repeat' first
    | (show List.all _ _ = true; decide)
    | extract_lets
    | with_reducible exact only_refl _ _
    | with_reducible apply only_step (setLaneWord_only ..)
    | with_reducible apply only_step (state_countIngot_only ..)
    | with_reducible apply only_step (state_updIngot_only ..)

theorem linkLane_only (p : Nat) (ok : Bool) (s : State) : OnlyChanges [.clk, .mem, .wordErr, .dirty, .seats, .bank,
    .reqx, .objs, .objx, .binds, .cores, .fab, .mirrors, .out] s (linkLane p ok s) := by
  unfold linkLane
  repeat' first
    | (show List.all _ _ = true; decide)
    | extract_lets
    | with_reducible exact only_refl _ _
    | with_reducible apply only_step (linkFail_only ..)
    | with_reducible apply only_step (logError_only ..)
    | with_reducible apply only_step (state_countPort_only ..)
    | with_reducible apply only_step (state_setPort_only ..)
    | split

theorem timeSync_only (t1 t2 t3 t4 parentHops : Nat) (s : State) : OnlyChanges [.clk, .free] s (timeSync t1 t2 t3
    t4 parentHops s) := by
  unfold timeSync
  repeat' first
    | (show List.all _ _ = true; decide)
    | extract_lets
    | with_reducible exact only_refl _ _
    | split
    | with_reducible apply only_step (set_free_clk_only ..)

theorem askTime_only (s : State) : OnlyChanges [.dirty, .bank, .reqx, .objs, .objx, .binds, .cores, .fab, .out,
    .free] s (askTime s) := by
  unfold askTime
  repeat' first
    | (show List.all _ _ = true; decide)
    | with_reducible exact only_refl _ _
    | with_reducible apply only_step (message_only ..)
    | split

/-! ## Packets.lean -/

theorem noteRefused_only (s : State) (seat st : Nat) : OnlyChanges [.seats, .fab] s (noteRefused s seat st) := by
  unfold noteRefused
  repeat' first
    | (show List.all _ _ = true; decide)
    | extract_lets
    | with_reducible exact only_refl _ _
    | with_reducible apply only_step (state_noteWindow_only ..)
    | split
    | with_reducible apply only_step (set_fab_only ..)

theorem noteRemote_only (s : State) (p : Packet) (st : Nat) : OnlyChanges [.seats, .fab] s (noteRemote s p st) := by
  unfold noteRemote
  repeat' first
    | (show List.all _ _ = true; decide)
    | with_reducible exact only_refl _ _
    | with_reducible apply only_step (noteRefused_only ..)

theorem discard_only (s : State) (port : Nat) (p : Packet) : OnlyChanges [.fab] s (Machine.discard s port p) := by
  unfold Machine.discard
  repeat' first
    | (show List.all _ _ = true; decide)
    | intro _
    | with_reducible exact only_refl _ _
    | with_reducible assumption
    | with_reducible apply only_step (answer_only ..)
    | with_reducible apply only_step (state_countPort_only ..)
    | split
    | (with_reducible refine only_of_fst (by assumption) ?_)

theorem awaitBits_only (s : State) (k due : Nat) : OnlyChanges [.fab] s (awaitBits s k due) := by
  unfold awaitBits
  repeat' first
    | (show List.all _ _ = true; decide)
    | with_reducible exact only_refl _ _
    | with_reducible apply only_step (set_fab_only ..)

theorem noteArrival_only (s : State) (k old new' : Nat) : OnlyChanges [.fab] s (noteArrival s k old new') := by
  unfold noteArrival
  repeat' first
    | (show List.all _ _ = true; decide)
    | with_reducible exact only_refl _ _
    | with_reducible apply only_step (awaitBits_only ..)
    | split

theorem atomicAt_only (s : State) (k seat aop data swap : Nat) : OnlyChanges [.mem, .wordErr, .dirty, .bank, .objx,
    .ingots, .hm, .fab] s (atomicAt s k seat aop data swap).1 := by
  unfold atomicAt
  repeat' first
    | (show List.all _ _ = true; decide)
    | extract_lets
    | with_reducible exact only_refl _ _
    | with_reducible apply only_step (countCorr_only ..)
    | with_reducible apply only_step (extWrite_only ..)
    | with_reducible apply only_step (noteArrival_only ..)
    | with_reducible apply only_step (noteCorr_only ..)
    | with_reducible apply only_step (noteUncorr_only ..)
    | split

theorem orWord_only (s : State) (k bits : Nat) : OnlyChanges [.mem, .wordErr, .dirty, .bank, .objx, .ingots, .hm,
    .fab] s (orWord s k bits) := by
  unfold orWord
  repeat' first
    | (show List.all _ _ = true; decide)
    | extract_lets
    | with_reducible exact only_refl _ _
    | with_reducible apply only_step (moverWrite_only ..)
    | with_reducible apply only_step (noteArrival_only ..)

theorem getParts_only (s : State) (p : Packet) (n off : Nat) :
    OnlyChanges [.wordErr, .bank, .ingots, .hm, .fab] s (getParts s p n off) := by
  induction n generalizing s off with
  | zero => exact only_refl _ _
  | succ n ih =>
    unfold getParts
    extract_lets r y
    have h : OnlyChanges [.wordErr, .bank, .ingots, .hm, .fab] s r.1 := only_step (extRead_only ..) rfl (only_refl _ _)
    clear_value r
    split
    · exact only_step (answer_only ..) rfl h
    · refine only_step (ih ..) rfl ?_
      subst y
      split
      · exact only_step (sendPacket_only ..) rfl h
      · exact h

theorem setBulks_only (s : State) (l : List BulkIn) : OnlyChanges [.fab] s (setBulks s l) := by
  unfold setBulks
  repeat' first
    | (show List.all _ _ = true; decide)
    | with_reducible exact only_refl _ _
    | with_reducible apply only_step (set_fab_only ..)

theorem bulkLand_only (p : Packet) (x : BulkIn) (s : State) (status : Nat) : OnlyChanges [.fab] s (bulkLand p x s
    status) := by
  unfold bulkLand
  repeat' first
    | (show List.all _ _ = true; decide)
    | extract_lets
    | with_reducible exact only_refl _ _
    | with_reducible apply only_step (answer_only ..)
    | with_reducible apply only_step (setBulks_only ..)
    | split

theorem failPacket_only (s : State) (p : Packet) (st : Nat) : OnlyChanges [.fab] s (failPacket s p st) := by
  unfold failPacket
  repeat' first
    | (show List.all _ _ = true; decide)
    | with_reducible exact only_refl _ _
    | with_reducible apply only_step (answer_only ..)
    | with_reducible apply only_step (bulkLand_only ..)
    | split

theorem performPacket_only (s : State) (p : Packet) : OnlyChanges [.mem, .wordErr, .dirty, .bank, .objx, .ingots,
    .hm, .fab] s (performPacket s p) := by
  unfold performPacket
  repeat' first
    | (show List.all _ _ = true; decide)
    | extract_lets y1 y2 y3
    | with_reducible exact only_refl _ _
    | with_reducible apply only_step (answer_only ..)
    | with_reducible apply only_step (atomicAt_only ..)
    | with_reducible apply only_step (bulkLand_only ..)
    | with_reducible apply only_step (extRead_only ..)
    | with_reducible apply only_step (extWrite_only ..)
    | with_reducible apply only_step (getParts_only ..)
    | split
    | subst y3
    | subst y2
    | subst y1

theorem putPackets_only (s : State) (serves : Option Job) (unit dest cls seat off : Nat) (data : List Byte) :
    OnlyChanges [.dirty, .bank, .reqx, .objs, .objx, .binds, .cores, .fab, .out] s (putPackets s serves unit dest
    cls seat off data) := by
  unfold putPackets
  repeat' first
    | (show List.all _ _ = true; decide)
    | extract_lets
    | intro _
    | with_reducible exact only_refl _ _
    | with_reducible assumption
    | with_reducible apply only_step (issueAs_only ..)
    | with_reducible refine only_foldl ?_ ?_

theorem getRange_only (s : State) (serves : Option Job) (unit chip seat off dst n : Nat) : OnlyChanges [.dirty,
    .bank, .reqx, .objs, .objx, .binds, .cores, .fab, .out] s (getRange s serves unit chip seat off dst n) := by
  unfold getRange
  repeat' first
    | (show List.all _ _ = true; decide)
    | with_reducible exact only_refl _ _
    | with_reducible apply only_step (issueAs_only ..)

theorem moveTile_only (s : State) (job : Job) (who : Nat × Nat) (seat src dst : Nat) : OnlyChanges [.mem, .wordErr,
    .dirty, .bank, .reqx, .objs, .objx, .binds, .ingots, .hm, .cores, .fab, .out] s (moveTile s job who seat src
    dst) := by
  unfold moveTile
  repeat' first
    | (show List.all _ _ = true; decide)
    | extract_lets
    | with_reducible exact only_refl _ _
    | with_reducible apply only_step (getRange_only ..)
    | with_reducible apply only_step (moverCopy_only ..)
    | with_reducible apply only_step (noteCorr_only ..)
    | with_reducible apply only_step (pushGrants_only ..)
    | with_reducible apply only_step (putPackets_only ..)
    | with_reducible apply only_step (writeMem_only ..)
    | split

theorem giveUpRequests_only (s : State) (p : FabReq → Bool) (status : Nat) : OnlyChanges [.dirty, .bank, .reqx,
    .objs, .objx, .binds, .cores, .fab, .out] s (giveUpRequests s p status) := by
  unfold giveUpRequests
  repeat' first
    | (show List.all _ _ = true; decide)
    | intro _
    | with_reducible exact only_refl _ _
    | with_reducible assumption
    | with_reducible apply only_step (completeReq_only ..)
    | with_reducible refine only_foldl ?_ ?_

theorem giveUpJobs_only (s : State) (p : Job → Bool) (status : Nat) : OnlyChanges [.dirty, .bank, .reqx, .objs,
    .objx, .binds, .cores, .fab, .out] s (giveUpJobs s p status) := by
  unfold giveUpJobs
  repeat' first
    | (show List.all _ _ = true; decide)
    | with_reducible exact only_refl _ _
    | with_reducible apply only_step (giveUpRequests_only ..)

theorem fabricAck_only (p : Packet) (s : State) : OnlyChanges [.dirty, .bank, .reqx, .objs, .objx, .binds, .cores,
    .fab, .out] s (fabricAck p s) := by
  unfold fabricAck
  repeat' first
    | (show List.all _ _ = true; decide)
    | extract_lets
    | intro _
    | with_reducible exact only_refl _ _
    | with_reducible assumption
    | with_reducible apply only_step (completeReq_only ..)
    | with_reducible refine only_foldl ?_ ?_

theorem fabricResponse_only (p : Packet) (s : State) : OnlyChanges [.mem, .wordErr, .dirty, .bank, .reqx, .objs,
    .objx, .binds, .ingots, .hm, .cores, .fab, .out] s (fabricResponse p s) := by
  unfold fabricResponse
  repeat' first
    | (show List.all _ _ = true; decide)
    | extract_lets
    | with_reducible exact only_refl _ _
    | with_reducible apply only_step (completeReq_only ..)
    | with_reducible apply only_step (moverWrite_only ..)
    | with_reducible apply only_step (putPackets_only ..)
    | split
    | with_reducible apply only_step (set_fab_only ..)

theorem fence_only (unit : Nat) (s : State) : OnlyChanges [.fab, .out] s (fence unit s) := by
  unfold fence
  repeat' first
    | (show List.all _ _ = true; decide)
    | with_reducible exact only_refl _ _
    | with_reducible apply only_step (settleFences_only ..)
    | with_reducible apply only_step (set_fab_only ..)

theorem forward_only (port : Nat) (p : Packet) (s : State) : OnlyChanges [.dirty, .bank, .reqx, .objs, .objx,
    .binds, .cores, .fab, .out] s (forward port p s) := by
  unfold forward
  repeat' first
    | (show List.all _ _ = true; decide)
    | with_reducible exact only_refl _ _
    | with_reducible apply only_step (discard_only ..)
    | with_reducible apply only_step (dropPacket_only ..)
    | with_reducible apply only_step (queuePacket_only ..)
    | with_reducible apply only_step (state_countPort_only ..)
    | split

/-! ## Banks.lean -/

theorem correctWord_only (s : State) (k : Nat) : OnlyChanges [.wordErr, .ingots] s (correctWord s k) := by
  unfold correctWord
  repeat' first
    | (show List.all _ _ = true; decide)
    | with_reducible exact only_refl _ _
    | with_reducible apply only_step (clearCorr_only ..)
    | with_reducible apply only_step (deferWrite_only ..)
    | split

theorem scrubLog_only (s : State) (cls : Nat) (l : List Nat) : OnlyChanges [.bank] s (scrubLog s cls l) := by
  unfold scrubLog
  repeat' first
    | (show List.all _ _ = true; decide)
    | intro _
    | with_reducible exact only_refl _ _
    | with_reducible assumption
    | with_reducible apply only_step (logError_only ..)
    | with_reducible refine only_foldl ?_ ?_
    | split

theorem hmScrub_only (base : Nat) (s : State) : OnlyChanges [.bank, .hm] s (hmScrub base s) := by
  unfold hmScrub
  repeat' first
    | (show List.all _ _ = true; decide)
    | extract_lets
    | intro _
    | with_reducible exact only_refl _ _
    | with_reducible assumption
    | with_reducible apply only_step (scrubFix_only ..)
    | with_reducible apply only_step (scrubLog_only ..)
    | with_reducible apply only_step (state_countDev_only ..)
    | with_reducible refine only_foldl ?_ ?_
    | split

theorem performEnt_only (s : State) (k : Nat) (e : ExtEnt) : OnlyChanges [.mem, .wordErr, .dirty, .bank, .objx,
    .ingots, .hm, .fab, .out] s (performEnt s k e) := by
  unfold performEnt
  repeat' first
    | (show List.all _ _ = true; decide)
    | extract_lets
    | with_reducible exact only_refl _ _
    | with_reducible apply only_step (correctWord_only ..)
    | with_reducible apply only_step (extRead_only ..)
    | with_reducible apply only_step (extWrite_only ..)
    | with_reducible apply only_step (hmScrub_only ..)
    | with_reducible apply only_step (performPacket_only ..)
    | with_reducible apply only_step (state_emit_only ..)
    | with_reducible apply only_step (writePiece_only ..)
    | split

theorem failEnt_only (s : State) (i : Nat) (e : ExtEnt) (st : Nat) : OnlyChanges [.fab, .out] s (failEnt s i e st) := by
  unfold failEnt
  repeat' first
    | (show List.all _ _ = true; decide)
    | with_reducible exact only_refl _ _
    | with_reducible apply only_step (failPacket_only ..)
    | with_reducible apply only_step (state_emit_only ..)
    | split

theorem performQueued_only (s : State) (i : Nat) (e : ExtEnt) : OnlyChanges [.mem, .wordErr, .dirty, .bank, .objx,
    .ingots, .hm, .fab, .out] s (performQueued s i e) := by
  unfold performQueued
  repeat' first
    | (show List.all _ _ = true; decide)
    | extract_lets y1 y2
    | with_reducible exact only_refl _ _
    | with_reducible apply only_step (performEnt_only ..)
    | with_reducible apply only_step (state_updIngot_only ..)
    | split
    | subst y2

theorem performSlotless_only (i bg n : Nat) (s : State) : OnlyChanges [.mem, .wordErr, .dirty, .bank, .objx,
    .ingots, .hm, .fab, .out] s (performSlotless i bg n s) := by
  induction n generalizing s with
  | zero => exact only_refl _ _
  | succ n ih =>
    unfold performSlotless
    repeat' first
      | with_reducible exact only_refl _ _
      | exact only_step (ih _) rfl (only_step (performQueued_only ..) rfl (only_step (updBankGroup_only ..) rfl (only_refl _ _)))
      | split

theorem holdExt_only (s : State) (i bg n : Nat) : OnlyChanges [.ingots] s (holdExt s i bg n) := by
  unfold holdExt
  repeat' first
    | (show List.all _ _ = true; decide)
    | with_reducible exact only_refl _ _
    | with_reducible apply only_step (state_countIngot_only ..)
    | with_reducible apply only_step (updBankGroup_only ..)

theorem grantDeferred_only (s : State) (i : Nat) (p : Deferred → Bool) : OnlyChanges [.mem, .wordErr, .dirty,
    .bank, .objx, .ingots] s (grantDeferred s i p) := by
  unfold grantDeferred
  repeat' first
    | (show List.all _ _ = true; decide)
    | extract_lets
    | with_reducible exact only_refl _ _
    | with_reducible apply only_step (holdExt_only ..)
    | with_reducible apply only_step (memWrite_only ..)
    | with_reducible apply only_step (state_updIngot_only ..)
    | split

theorem grantExt_only (s : State) (i bg : Nat) : OnlyChanges [.mem, .wordErr, .dirty, .bank, .objx, .ingots, .hm,
    .fab, .out] s (grantExt s i bg) := by
  unfold grantExt
  repeat' first
    | (show List.all _ _ = true; decide)
    | extract_lets
    | with_reducible exact only_refl _ _
    | with_reducible apply only_step (grantDeferred_only ..)
    | with_reducible apply only_step (holdExt_only ..)
    | with_reducible apply only_step (performQueued_only ..)
    | with_reducible apply only_step (updBankGroup_only ..)
    | split

theorem bankServe_only (s : State) (i bg : Nat) : OnlyChanges [.mem, .wordErr, .dirty, .bank, .objx, .ingots, .hm,
    .fab, .out] s (bankServe s i bg) := by
  unfold bankServe
  repeat' first
    | (show List.all _ _ = true; decide)
    | with_reducible exact only_refl _ _
    | with_reducible apply only_step (grantExt_only ..)
    | with_reducible apply only_step (performSlotless_only ..)

theorem setStage_only (s : State) (i q : Nat) (x : Stage (Nat × ExtEnt)) : OnlyChanges [.ingots] s (setStage s i q
    x) := by
  unfold setStage
  repeat' first
    | (show List.all _ _ = true; decide)
    | with_reducible exact only_refl _ _
    | with_reducible apply only_step (state_updIngot_only ..)

theorem admitStage_only (s : State) (i q : Nat) : OnlyChanges [.mem, .wordErr, .dirty, .bank, .objx, .ingots, .hm,
    .fab, .out] s (admitStage s i q) := by
  unfold admitStage
  repeat' first
    | (show List.all _ _ = true; decide)
    | with_reducible exact only_refl _ _
    | with_reducible apply only_step (bankServe_only ..)
    | with_reducible apply only_step (pushExt_only ..)
    | with_reducible apply only_step (setStage_only ..)
    | split

theorem enqueueExt_only (s : State) (i bg : Nat) (e : ExtEnt) : OnlyChanges [.mem, .wordErr, .dirty, .bank, .objx,
    .ingots, .hm, .fab, .out] s (enqueueExt s i bg e) := by
  unfold enqueueExt
  repeat' first
    | (show List.all _ _ = true; decide)
    | extract_lets
    | with_reducible exact only_refl _ _
    | with_reducible apply only_step (admitStage_only ..)
    | with_reducible apply only_step (failEnt_only ..)
    | with_reducible apply only_step (pushExt_only ..)
    | with_reducible apply only_step (setStage_only ..)
    | split

theorem hmGrant_only (s : State) (d : Nat) : OnlyChanges [.mem, .wordErr, .dirty, .bank, .objx, .ingots, .hm, .fab,
    .out] s (hmGrant s d) := by
  unfold hmGrant
  repeat' first
    | (show List.all _ _ = true; decide)
    | extract_lets
    | with_reducible exact only_refl _ _
    | with_reducible apply only_step (performEnt_only ..)
    | with_reducible apply only_step (state_setHmPort_only ..)
    | split

theorem hmPresent_only (s : State) (d : Nat) (r : HmReq) : OnlyChanges [.mem, .wordErr, .dirty, .bank, .objx,
    .ingots, .hm, .fab, .out] s (hmPresent s d r) := by
  unfold hmPresent
  repeat' first
    | (show List.all _ _ = true; decide)
    | with_reducible exact only_refl _ _
    | with_reducible apply only_step (hmGrant_only ..)
    | with_reducible apply only_step (state_updHmPort_only ..)

theorem serveAt_only (s : State) (k num : Nat) (e : ExtEnt) : OnlyChanges [.mem, .wordErr, .dirty, .bank, .objx,
    .ingots, .hm, .fab, .out] s (serveAt s k num e) := by
  unfold serveAt
  repeat' first
    | (show List.all _ _ = true; decide)
    | extract_lets y1 y2 y3
    | with_reducible exact only_refl _ _
    | with_reducible apply only_step (enqueueExt_only ..)
    | with_reducible apply only_step (hmPresent_only ..)
    | with_reducible apply only_step (performEnt_only ..)
    | with_reducible apply only_step (pushPart_only ..)
    | split
    | subst y3

theorem extArrive_only (i bg : Nat) (s : State) (r : ExtReq) : OnlyChanges [.mem, .wordErr, .dirty, .bank, .objx,
    .ingots, .hm, .fab, .out] s (extArrive i bg s r) := by
  unfold extArrive
  repeat' first
    | (show List.all _ _ = true; decide)
    | with_reducible exact only_refl _ _
    | with_reducible apply only_step (enqueueExt_only ..)
    | with_reducible apply only_step (state_emit_only ..)
    | split

theorem externalAccess_only (i bg : Nat) (arrivals : List ExtReq) (s : State) : OnlyChanges [.mem, .wordErr,
    .dirty, .bank, .objx, .ingots, .hm, .fab, .out] s (externalAccess i bg arrivals s) := by
  unfold externalAccess
  repeat' first
    | (show List.all _ _ = true; decide)
    | intro _
    | with_reducible exact only_refl _ _
    | with_reducible assumption
    | with_reducible apply only_step (bankServe_only ..)
    | with_reducible apply only_step (extArrive_only ..)
    | with_reducible refine only_foldl ?_ ?_

theorem deferredDrain_only (i page : Nat) (s : State) : OnlyChanges [.mem, .wordErr, .dirty, .bank, .objx, .ingots]
    s (deferredDrain i page s) := by
  unfold deferredDrain
  repeat' first
    | (show List.all _ _ = true; decide)
    | with_reducible exact only_refl _ _
    | with_reducible apply only_step (grantDeferred_only ..)

theorem failHead_only (s : State) (i c : Nat) : OnlyChanges [.ingots, .fab, .out] s (failHead s i c) := by
  unfold failHead
  repeat' first
    | (show List.all _ _ = true; decide)
    | with_reducible exact only_refl _ _
    | with_reducible apply only_step (failEnt_only ..)
    | with_reducible apply only_step (updBankGroup_only ..)
    | split

theorem burstError_only (i c : Nat) (s : State) : OnlyChanges [.bank, .ingots, .fab, .out] s (burstError i c s) := by
  unfold burstError
  repeat' first
    | (show List.all _ _ = true; decide)
    | extract_lets
    | with_reducible exact only_refl _ _
    | with_reducible apply only_step (failHead_only ..)
    | with_reducible apply only_step (logError_only ..)
    | with_reducible apply only_step (startPass_only ..)
    | with_reducible apply only_step (state_countIngot_only ..)
    | with_reducible apply only_step (state_emit_only ..)
    | with_reducible apply only_step (state_updIngot_only ..)
    | split

theorem takeRequest_only (port : Nat) (p : Packet) (s : State) : OnlyChanges [.mem, .wordErr, .dirty, .seats,
    .bank, .objx, .ingots, .hm, .fab, .out] s (takeRequest port p s) := by
  unfold takeRequest
  repeat' first
    | (show List.all _ _ = true; decide)
    | extract_lets
    | with_reducible exact only_refl _ _
    | with_reducible apply only_step (answer_only ..)
    | with_reducible apply only_step (failPacket_only ..)
    | with_reducible apply only_step (noteRemote_only ..)
    | with_reducible apply only_step (serveAt_only ..)
    | split

theorem lockExpire_only (i page : Nat) (s : State) : OnlyChanges [.ingots] s (lockExpire i page s) := by
  unfold lockExpire
  repeat' first
    | (show List.all _ _ = true; decide)
    | extract_lets
    | with_reducible exact only_refl _ _
    | with_reducible apply only_step (state_countIngot_only ..)
    | with_reducible apply only_step (state_updIngot_only ..)

theorem scrub_only (i bg : Nat) (s : State) : OnlyChanges [.bank, .ingots] s (scrub i bg s) := by
  unfold scrub
  repeat' first
    | (show List.all _ _ = true; decide)
    | extract_lets
    | intro _
    | with_reducible exact only_refl _ _
    | with_reducible assumption
    | with_reducible apply only_step (queueFix_only ..)
    | with_reducible apply only_step (scrubLog_only ..)
    | with_reducible apply only_step (state_countIngot_only ..)
    | with_reducible apply only_step (updBankGroup_only ..)
    | with_reducible refine only_foldl ?_ ?_
    | split

theorem refresh_only (i bg : Nat) (s : State) : OnlyChanges [.bank, .ingots] s (refresh i bg s) := by
  unfold refresh
  repeat' first
    | (show List.all _ _ = true; decide)
    | extract_lets
    | with_reducible exact only_refl _ _
    | with_reducible apply only_step (scrub_only ..)
    | with_reducible apply only_step (setBankGroup_only ..)

theorem govSample_only (i : Nat) (readings : List (Option Int)) (s : State) : OnlyChanges [.ingots] s (govSample i
    readings s) := by
  unfold govSample
  repeat' first
    | (show List.all _ _ = true; decide)
    | extract_lets
    | with_reducible exact only_refl _ _
    | with_reducible apply only_step (state_updIngot_only ..)

theorem tripQueues_only (s : State) (i : Nat) : OnlyChanges [.ingots, .fab, .out] s (tripQueues s i) := by
  unfold tripQueues
  repeat' first
    | (show List.all _ _ = true; decide)
    | extract_lets
    | intro _
    | with_reducible exact only_refl _ _
    | with_reducible assumption
    | with_reducible apply only_step (failEnt_only ..)
    | with_reducible apply only_step (state_setIngot_only ..)
    | with_reducible refine only_foldl ?_ ?_

theorem govEnd_only (i microwatt : Nat) (s : State) : OnlyChanges [.pins, .seats, .bank, .ingots, .fab, .out] s
    (govEnd i microwatt s) := by
  unfold govEnd
  repeat' first
    | (show List.all _ _ = true; decide)
    | extract_lets y1 y2 y3 y4 y5 y6 y7 y8 y9 y10
    | with_reducible exact only_refl _ _
    | with_reducible apply only_step (deviceEvent_only ..)
    | with_reducible apply only_step (sbIngots_only ..)
    | with_reducible apply only_step (state_setIngot_only ..)
    | with_reducible apply only_step (tripQueues_only ..)
    | split
    | subst y10
    | subst y9

/-! ## Tree.lean -/

theorem sendSync_only (s : State) (port chip : Nat) (w : BitVec 512) (entries : List SliceEnt) : OnlyChanges
    [.dirty, .bank, .reqx, .objs, .objx, .binds, .cores, .fab, .out] s (sendSync s port chip w entries) := by
  unfold sendSync
  repeat' first
    | (show List.all _ _ = true; decide)
    | with_reducible exact only_refl _ _
    | with_reducible apply only_step (sendParts_only ..)
    | with_reducible apply only_step (state_emit_only ..)
    | split

theorem toParent_only (s : State) (w : BitVec 512) : OnlyChanges [.dirty, .bank, .reqx, .objs, .objx, .binds,
    .cores, .fab, .out] s (toParent s w) := by
  unfold toParent
  repeat' first
    | (show List.all _ _ = true; decide)
    | with_reducible exact only_refl _ _
    | with_reducible apply only_step (sendSync_only ..)
    | split

theorem toKids_only (s : State) (w : BitVec 512) (entries : List SliceEnt) : OnlyChanges [.dirty, .bank, .reqx,
    .objs, .objx, .binds, .cores, .fab, .out] s (toKids s w entries) := by
  unfold toKids
  repeat' first
    | (show List.all _ _ = true; decide)
    | extract_lets
    | intro _
    | with_reducible exact only_refl _ _
    | with_reducible assumption
    | with_reducible apply only_step (sendSync_only ..)
    | with_reducible apply only_step (state_emit_only ..)
    | with_reducible refine only_foldl ?_ ?_
    | split

theorem setBarrier_only (s : State) (b : Nat) (x : Barrier) : OnlyChanges [.fab] s (setBarrier s b x) := by
  unfold setBarrier
  repeat' first
    | (show List.all _ _ = true; decide)
    | with_reducible exact only_refl _ _
    | with_reducible apply only_step (set_fab_only ..)

theorem sendGather_only (s : State) (b : Nat) (abandon : Nat) : OnlyChanges [.dirty, .bank, .reqx, .objs, .objx,
    .binds, .cores, .fab, .out] s (sendGather s b abandon) := by
  unfold sendGather
  repeat' first
    | (show List.all _ _ = true; decide)
    | extract_lets
    | with_reducible exact only_refl _ _
    | with_reducible apply only_step (setBarrier_only ..)
    | with_reducible apply only_step (toParent_only ..)

theorem barrierArrive_only (s : State) (b : Nat) (abandon : Nat) : OnlyChanges [.dirty, .bank, .reqx, .objs, .objx,
    .binds, .cores, .fab, .out] s (barrierArrive s b abandon) := by
  unfold barrierArrive
  repeat' first
    | (show List.all _ _ = true; decide)
    | extract_lets
    | with_reducible exact only_refl _ _
    | with_reducible apply only_step (sendGather_only ..)
    | with_reducible apply only_step (setBarrier_only ..)
    | split

theorem countSlice_only (s : State) (k : Nat) : OnlyChanges [.fab] s (countSlice s k) := by
  unfold countSlice
  repeat' first
    | (show List.all _ _ = true; decide)
    | with_reducible exact only_refl _ _
    | with_reducible apply only_step (set_fab_only ..)

end Sys2Proof.Laws
end

