-- ==== Sys2Proof/Laws/FrameRequests.lean ====
section
/-! SUPPORT. What each operation may change: requests, the close of a composition, objects. -/

namespace Sys2Proof.Laws

open Sys2Proof Sys2Proof.Machine

set_option linter.tactic.unusedName false

/-! ## Life.lean -/

theorem tablePacket_only (s : State) (seat chip off : Nat) (bs : List Byte) : OnlyChanges [.dirty, .bank, .reqx,
    .objs, .objx, .binds, .cores, .fab, .out] s (tablePacket s seat chip off bs) := by
  unfold tablePacket
  repeat' first
    | (show List.all _ _ = true; decide)
    | extract_lets
    | with_reducible exact only_refl _ _
    | with_reducible apply only_step (issueAs_only ..)
    | split

theorem tableWrite_only (s : State) (e : BitVec 1024) (off : Nat) (bs : List Byte) : OnlyChanges [.mem, .wordErr,
    .dirty, .seats, .bank, .reqx, .objs, .objx, .binds, .cores, .fab, .mirrors, .out] s (tableWrite s e off bs) := by
  unfold tableWrite
  repeat' first
    | (show List.all _ _ = true; decide)
    | extract_lets
    | with_reducible exact only_refl _ _
    | with_reducible apply only_step (hostWrite_only ..)
    | with_reducible apply only_step (state_noteWindow_only ..)
    | with_reducible apply only_step (tablePacket_only ..)
    | split

theorem ptWrite_only (s : State) (e : BitVec 1024) (j : Nat) (w : W64) : OnlyChanges [.mem, .wordErr, .dirty,
    .seats, .bank, .reqx, .objs, .objx, .binds, .cores, .fab, .mirrors, .out] s (ptWrite s e j w) := by
  unfold ptWrite
  repeat' first
    | (show List.all _ _ = true; decide)
    | with_reducible exact only_refl _ _
    | with_reducible apply only_step (tableWrite_only ..)

theorem ptHeader_only (s : State) (slot : Nat) : OnlyChanges [.mem, .wordErr, .dirty, .seats, .bank, .reqx, .objs,
    .objx, .binds, .cores, .fab, .mirrors, .out] s (ptHeader s slot) := by
  unfold ptHeader
  repeat' first
    | (show List.all _ _ = true; decide)
    | extract_lets
    | with_reducible exact only_refl _ _
    | with_reducible apply only_step (tableWrite_only ..)

theorem ringCheck_only (s : State) (slot : Nat) : OnlyChanges [.binds] s (ringCheck s slot) := by
  unfold ringCheck
  repeat' first
    | (show List.all _ _ = true; decide)
    | with_reducible exact only_refl _ _
    | with_reducible apply only_step (state_countBind_only ..)
    | split

theorem readCons_only (s : State) (slot : Nat) : OnlyChanges [.seats, .bank, .reqx, .binds, .ingots] s (readCons s
    slot) := by
  unfold readCons
  repeat' first
    | (show List.all _ _ = true; decide)
    | extract_lets
    | with_reducible exact only_refl _ _
    | with_reducible apply only_step (noteBad_only ..)
    | with_reducible apply only_step (ringCheck_only ..)
    | with_reducible apply only_step (state_countBind_only ..)
    | with_reducible apply only_step (state_noteWindow_only ..)
    | with_reducible apply only_step (state_updRx_only ..)
    | split

theorem ringLost_only (s : State) (slot : Nat) : OnlyChanges [.reqx, .binds] s (ringLost s slot) := by
  unfold ringLost
  repeat' first
    | (show List.all _ _ = true; decide)
    | extract_lets
    | with_reducible exact only_refl _ _
    | with_reducible apply only_step (state_countBind_only ..)
    | with_reducible apply only_step (state_updRx_only ..)
    | split

theorem ringStore_only (s : State) (slot k : Nat) (bs : List Byte) : OnlyChanges [.mem, .wordErr, .dirty, .seats,
    .reqx, .objx, .binds, .mirrors] s (ringStore s slot k bs) := by
  unfold ringStore
  repeat' first
    | (show List.all _ _ = true; decide)
    | extract_lets
    | with_reducible exact only_refl _ _
    | with_reducible apply only_step (hostWrite_only ..)
    | with_reducible apply only_step (ringLost_only ..)
    | with_reducible apply only_step (state_noteWindow_only ..)
    | with_reducible apply only_step (state_updRx_only ..)
    | split

theorem ringPut_only (s : State) (slot : Nat) (w : BitVec 128) : OnlyChanges [.mem, .wordErr, .dirty, .seats,
    .reqx, .objx, .binds, .mirrors] s (ringPut s slot w) := by
  unfold ringPut
  repeat' first
    | (show List.all _ _ = true; decide)
    | extract_lets
    | with_reducible exact only_refl _ _
    | with_reducible apply only_step (ringStore_only ..)
    | with_reducible apply only_step (state_updRx_only ..)

theorem ringHeader_only (s : State) (slot : Nat) (ended : Nat) : OnlyChanges [.mem, .wordErr, .dirty, .seats,
    .reqx, .objx, .binds, .mirrors] s (ringHeader s slot ended) := by
  unfold ringHeader
  repeat' first
    | (show List.all _ _ = true; decide)
    | with_reducible exact only_refl _ _
    | with_reducible apply only_step (ringStore_only ..)

theorem ringEnd_only (s : State) (slot : Nat) : OnlyChanges [.mem, .wordErr, .dirty, .seats, .reqx, .objx, .binds,
    .mirrors] s (ringEnd s slot) := by
  unfold ringEnd
  repeat' first
    | (show List.all _ _ = true; decide)
    | extract_lets
    | with_reducible exact only_refl _ _
    | with_reducible apply only_step (ringHeader_only ..)
    | with_reducible apply only_step (ringPut_only ..)
    | with_reducible apply only_step (state_updRx_only ..)
    | split

theorem tellPark_only (s : State) (chip code arg1 arg2 seat : Nat) : OnlyChanges [.dirty, .bank, .reqx, .objs,
    .objx, .binds, .cores, .fab, .out, .free] s (tellPark s chip code arg1 arg2 seat) := by
  unfold tellPark
  repeat' first
    | (show List.all _ _ = true; decide)
    | extract_lets
    | with_reducible exact only_refl _ _
    | with_reducible apply only_step (message_only ..)
    | with_reducible apply only_step (state_emit_only ..)
    | split

theorem parkRelease_only (s : State) (slot : Nat) (r : RunCopy) : OnlyChanges [.dirty, .seats, .bank, .reqx, .objs,
    .objx, .binds, .cores, .fab, .out, .free] s (parkRelease s slot r) := by
  unfold parkRelease
  repeat' first
    | (show List.all _ _ = true; decide)
    | extract_lets
    | with_reducible exact only_refl _ _
    | with_reducible apply only_step (state_updOx_only ..)
    | with_reducible apply only_step (state_updRx_only ..)
    | with_reducible apply only_step (state_updSeat_only ..)
    | with_reducible apply only_step (tellPark_only ..)
    | split
    | with_reducible apply only_step (set_fab_only ..)

theorem parkTry_only (s : State) (slot : Nat) (ask : PauseAsk) (col p i fill kind : Nat) : OnlyChanges [.dirty,
    .seats, .bank, .reqx, .objs, .objx, .binds, .cores, .fab, .out, .free] s (parkTry s slot ask col p i fill kind)
    := by
  unfold parkTry
  repeat' first
    | (show List.all _ _ = true; decide)
    | extract_lets
    | with_reducible exact only_refl _ _
    | with_reducible apply only_step (state_countBind_only ..)
    | with_reducible apply only_step (state_countSeat_only ..)
    | with_reducible apply only_step (state_updOx_only ..)
    | with_reducible apply only_step (state_updRx_only ..)
    | with_reducible apply only_step (state_updSeat_only ..)
    | with_reducible apply only_step (tellPark_only ..)
    | split
    | with_reducible apply only_step (set_free_bank_only ..)

theorem pauseCheck_only (s : State) (slot : Nat) : OnlyChanges [.reqs] s (pauseCheck s slot) := by
  unfold pauseCheck
  repeat' first
    | (show List.all _ _ = true; decide)
    | with_reducible exact only_refl _ _
    | with_reducible apply only_step (state_updReq_only ..)
    | split

theorem parkSwitch_only (s : State) (slot : Nat) : OnlyChanges [.mem, .wordErr, .dirty, .seats, .bank, .reqs,
    .reqx, .objs, .objx, .binds, .cores, .fab, .mirrors, .out] s (parkSwitch s slot) := by
  unfold parkSwitch
  repeat' first
    | (show List.all _ _ = true; decide)
    | extract_lets
    | intro _
    | with_reducible exact only_refl _ _
    | with_reducible assumption
    | with_reducible apply only_step (pauseCheck_only ..)
    | with_reducible apply only_step (ptWrite_only ..)
    | with_reducible apply only_step (refDrop_only ..)
    | with_reducible apply only_step (state_updRx_only ..)
    | with_reducible apply only_step (unindex_only ..)
    | with_reducible refine only_foldl ?_ ?_

theorem tailAlloc_only (s : State) (slot : Nat) : OnlyChanges [.reqx, .binds] s (tailAlloc s slot) := by
  unfold tailAlloc
  repeat' first
    | (show List.all _ _ = true; decide)
    | extract_lets
    | with_reducible exact only_refl _ _
    | with_reducible apply only_step (state_countBind_only ..)
    | with_reducible apply only_step (state_updBind_only ..)
    | with_reducible apply only_step (state_updRx_only ..)
    | with_reducible refine only_step (allocRun_only (by assumption)) ?_ ?_
    | split

theorem dropHeld_only (s : State) (slot : Nat) : OnlyChanges [.seats, .bank, .reqx, .binds] s (dropHeld s slot) := by
  unfold dropHeld
  repeat' first
    | (show List.all _ _ = true; decide)
    | extract_lets
    | with_reducible exact only_refl _ _
    | with_reducible apply only_step (freeSet_only ..)
    | with_reducible apply only_step (state_updBind_only ..)
    | with_reducible apply only_step (state_updRx_only ..)
    | split
    | (show OnlyChanges _ _ (ite _ _ _); split)

theorem pauseEffect_only (s : State) (slot : Nat) (ask : PauseAsk) : OnlyChanges [.mem, .wordErr, .dirty, .seats,
    .bank, .reqs, .reqx, .objs, .objx, .binds, .cores, .fab, .mirrors, .out, .free] s (pauseEffect s slot ask) := by
  unfold pauseEffect
  repeat' first
    | (show List.all _ _ = true; decide)
    | extract_lets y1 y2 y3 y4 y5 y6 y7 y8 y9 y10
    | intro _
    | with_reducible exact only_refl _ _
    | with_reducible assumption
    | with_reducible apply only_step (dropHeld_only ..)
    | with_reducible apply only_step (parkTry_only ..)
    | with_reducible apply only_step (pauseCheck_only ..)
    | with_reducible apply only_step (ptHeader_only ..)
    | with_reducible apply only_step (state_updReq_only ..)
    | with_reducible apply only_step (state_updRx_only ..)
    | with_reducible apply only_step (tailAlloc_only ..)
    | with_reducible refine only_foldl ?_ ?_
    | split
    | subst y10

theorem tailDone_only (s : State) (slot p i k : Nat) : OnlyChanges [.mem, .wordErr, .dirty, .seats, .bank, .reqs,
    .reqx, .objs, .objx, .binds, .cores, .fab, .mirrors, .out, .free] s (tailDone s slot p i k) := by
  unfold tailDone
  repeat' first
    | (show List.all _ _ = true; decide)
    | extract_lets y1 y2 y3 y4 y5 y6 y7 y8 y9
    | with_reducible exact only_refl _ _
    | with_reducible apply only_step (dropHeld_only ..)
    | with_reducible apply only_step (parkTry_only ..)
    | with_reducible apply only_step (pauseCheck_only ..)
    | with_reducible apply only_step (ptHeader_only ..)
    | with_reducible apply only_step (ptWrite_only ..)
    | with_reducible apply only_step (state_updBind_only ..)
    | with_reducible apply only_step (state_updRx_only ..)
    | split
    | subst y9

theorem returnAlloc_only (s : State) (slot turn : Nat) : OnlyChanges [.reqx, .binds] s (returnAlloc s slot turn) := by
  unfold returnAlloc
  repeat' first
    | (show List.all _ _ = true; decide)
    | intro _
    | with_reducible exact only_refl _ _
    | with_reducible assumption
    | with_reducible apply only_step (state_updRx_only ..)
    | with_reducible refine only_step (allocRun_only (by assumption)) ?_ ?_
    | with_reducible refine only_foldl ?_ ?_
    | split

theorem resumeSwitch_only (s : State) (slot : Nat) : OnlyChanges [.mem, .wordErr, .dirty, .seats, .bank, .reqs,
    .reqx, .objs, .objx, .binds, .cores, .fab, .mirrors, .out, .free] s (resumeSwitch s slot) := by
  unfold resumeSwitch
  repeat' first
    | (show List.all _ _ = true; decide)
    | extract_lets
    | intro _
    | with_reducible exact only_refl _ _
    | with_reducible assumption
    | with_reducible apply only_step (parkRelease_only ..)
    | with_reducible apply only_step (ptWrite_only ..)
    | with_reducible apply only_step (state_updBind_only ..)
    | with_reducible apply only_step (state_updReq_only ..)
    | with_reducible apply only_step (state_updRx_only ..)
    | with_reducible refine only_foldl ?_ ?_
    | split

theorem endWith_only (s : State) (slot st detail time : Nat) (recorded : Bool) (runs : List (Nat × Nat × Nat ×
    W64)) : OnlyChanges [.mem, .wordErr, .dirty, .seats, .bank, .reqs, .reqx, .objs, .objx, .binds, .cores, .fab,
    .mirrors, .out, .free] s (endWith s slot st detail time recorded runs) := by
  unfold endWith
  repeat' first
    | (show List.all _ _ = true; decide)
    | extract_lets y1 y2 y3 y4 y5 y6 y7 y8 y9 y10 y11 y12 y13
    | intro _
    | with_reducible exact only_refl _ _
    | with_reducible assumption
    | with_reducible apply only_step (dropHeld_only ..)
    | with_reducible apply only_step (parkRelease_only ..)
    | with_reducible apply only_step (ptHeader_only ..)
    | with_reducible apply only_step (refDrop_only ..)
    | with_reducible apply only_step (state_countBind_only ..)
    | with_reducible apply only_step (state_updBind_only ..)
    | with_reducible apply only_step (state_updReq_only ..)
    | with_reducible apply only_step (state_updRx_only ..)
    | with_reducible apply only_step (unreserve_only ..)
    | with_reducible refine only_foldl ?_ ?_
    | split
    | subst y13
    | subst y12
    | subst y11
    | subst y10
    | subst y9
    | subst y8
    | subst y7
    | subst y6

theorem endReq_only (s : State) (slot st detail time : Nat) (recorded : Bool) : OnlyChanges [.mem, .wordErr,
    .dirty, .seats, .bank, .reqs, .reqx, .objs, .objx, .binds, .cores, .fab, .mirrors, .out, .free] s (endReq s
    slot st detail time recorded) := by
  unfold endReq
  repeat' first
    | (show List.all _ _ = true; decide)
    | with_reducible exact only_refl _ _
    | with_reducible apply only_step (endWith_only ..)

theorem ringVector_only (s : State) (seat v : Nat) : OnlyChanges [.seats, .mirrors, .out] s (ringVector s seat v) := by
  unfold ringVector
  repeat' first
    | (show List.all _ _ = true; decide)
    | with_reducible exact only_refl _ _
    | with_reducible apply only_step (raise_only ..)
    | with_reducible apply only_step (state_setMir_only ..)
    | split

theorem ringRaise_only (s : State) (slot : Nat) : OnlyChanges [.seats, .mirrors, .out] s (ringRaise s slot) := by
  unfold ringRaise
  repeat' first
    | (show List.all _ _ = true; decide)
    | extract_lets
    | with_reducible exact only_refl _ _
    | with_reducible apply only_step (ringVector_only ..)
    | split

theorem endNow_only (s : State) (slot st detail : Nat) : OnlyChanges [.mem, .wordErr, .dirty, .seats, .bank, .reqs,
    .reqx, .objs, .objx, .binds, .ingots, .cores, .fab, .mirrors, .out, .free] s (endNow s slot st detail) := by
  unfold endNow
  repeat' first
    | (show List.all _ _ = true; decide)
    | extract_lets
    | with_reducible exact only_refl _ _
    | with_reducible apply only_step (endReq_only ..)
    | with_reducible apply only_step (readCons_only ..)
    | with_reducible apply only_step (ringEnd_only ..)
    | with_reducible apply only_step (ringRaise_only ..)
    | with_reducible apply only_step (state_updRx_only ..)
    | split

theorem faultReq_only (s : State) (slot detail : Nat) : OnlyChanges [.mem, .wordErr, .dirty, .seats, .bank, .reqs,
    .reqx, .objs, .objx, .binds, .ingots, .cores, .fab, .mirrors, .out, .free] s (faultReq s slot detail) := by
  unfold faultReq
  repeat' first
    | (show List.all _ _ = true; decide)
    | with_reducible exact only_refl _ _
    | with_reducible apply only_step (endNow_only ..)
    | with_reducible apply only_step (state_updRx_only ..)
    | split

theorem freeEntry_only (s : State) (slot : Nat) : OnlyChanges [.seats, .reqs, .reqx] s (freeEntry s slot) := by
  unfold freeEntry
  repeat' first
    | (show List.all _ _ = true; decide)
    | extract_lets
    | with_reducible exact only_refl _ _
    | with_reducible apply only_step (state_updSeat_only ..)
    | with_reducible apply only_step (set_reqs_reqx_only ..)

/-! ## Close.lean -/

theorem refill_only (s : State) (n t : Nat) : OnlyChanges [.stakes] s (refill s n t) := by
  unfold refill
  repeat' first
    | (show List.all _ _ = true; decide)
    | with_reducible exact only_refl _ _
    | with_reducible apply only_step (state_setStake_only ..)

theorem candOf_only (turn : Nat) (s : State) (slot : Nat) : OnlyChanges [.seats, .bank, .reqx, .binds, .ingots] s
    (candOf turn s slot).1 := by
  unfold candOf
  repeat' first
    | (show List.all _ _ = true; decide)
    | extract_lets y1 y2 y3 y4 y5 y6
    | with_reducible exact only_refl _ _
    | with_reducible apply only_step (readCons_only ..)
    | with_reducible apply only_step (state_countBind_only ..)
    | split
    | subst y6
    | subst y5
    | subst y4
    | subst y3
    | subst y2
    | subst y1

theorem reserveSets_only {slot n : Nat} {cols : List Nat} {acc r : State × List (Nat × Nat)}
    (h : reserveSets slot n cols acc = .ok r) : OnlyChanges [.seats, .bank] acc.1 r.1 := by
  induction cols generalizing acc with
  | nil => cases h; exact only_refl _ _
  | cons col rest ih =>
    unfold reserveSets at h
    split at h
    · exact ih h
    · split at h
      · next e => exact only_step (ih h) rfl (allocSet_only e)
      · cases h

theorem reserveRuns_only {slot b turn : Nat} {bd : Option Nat} {cols : List Nat} {acc r : State × List (Nat × Nat ×
    Nat)}
    (h : reserveRuns slot b turn bd cols acc = .ok r) : OnlyChanges [.binds] acc.1 r.1 := by
  induction cols generalizing acc with
  | nil => cases h; exact only_refl _ _
  | cons col rest ih =>
    unfold reserveRuns at h
    split at h
    · exact ih h
    · split at h
      · next e => exact only_step (ih h) rfl (allocRun_only e)
      · cases h

theorem reserveFor_only {s : State} {slot turn q : Nat} {sets : List (Nat × Nat)} {runs : List (Nat × Nat × Nat)}
    {r : State × List (Nat × Nat) × List (Nat × Nat × Nat)} (h : reserveFor s slot turn q sets runs = .ok r) :
    OnlyChanges [.seats, .bank, .binds] s r.1 := by
  simp only [reserveFor] at h
  split at h
  · cases h
  · next e =>
    split at h
    · cases h
    · next e' =>
      cases h
      exact only_step (reserveRuns_only e') rfl (only_step (reserveSets_only e) rfl (only_refl _ _))

theorem reserveDown_only (s : State) (slot turn : Nat) (sets : List (Nat × Nat)) (runs : List (Nat × Nat × Nat))
    (a b c : Bool) (q : Nat) : OnlyChanges [.seats, .bank, .binds] s (reserveDown s slot turn sets runs a b c q).s := by
  induction q generalizing a b c with
  | zero => exact only_refl _ _
  | succ q ih =>
    unfold reserveDown
    split
    · next e => exact reserveFor_only e
    · exact ih ..
    · exact ih ..

theorem reserve_only (s : State) (slot turn q : Nat) (sets : List (Nat × Nat)) (runs : List (Nat × Nat × Nat)) :
    OnlyChanges [.seats, .bank, .binds] s (reserve s slot turn q sets runs).s := by
  unfold reserve
  extract_lets y1 y2 y3 y4 y5 y6 y7 y8
  show OnlyChanges _ _ _
  repeat' first
    | (show List.all _ _ = true; decide)
    | with_reducible exact only_refl _ _
    | with_reducible apply only_step (reserveDown_only ..)
    | with_reducible apply only_step (state_countBind_only ..)
    | with_reducible apply only_step (state_countSeat_only ..)
    | split
    | subst y8
    | subst y7
    | subst y6
    | subst y5
    | subst y4
    | subst y3
    | subst y2

theorem formDec_only (turn : Nat) (s : State) (c : Cand) (want : Nat) : OnlyChanges [.seats, .bank, .binds] s
    (formDec turn s c want).1 := by
  unfold formDec
  repeat' first
    | (show List.all _ _ = true; decide)
    | extract_lets y1 y2 y3 y4
    | with_reducible exact only_refl _ _
    | with_reducible apply only_step (reserve_only ..)
    | with_reducible apply only_step (state_countBind_only ..)
    | split
    | (with_reducible refine only_of_fst (by assumption) ?_)
    | subst y4
    | subst y3
    | subst y2
    | subst y1

theorem leaveOut_only (s : State) (b k : Nat) (prev : Option Form) : OnlyChanges [.binds] s (leaveOut s b k prev) := by
  unfold leaveOut
  repeat' first
    | (show List.all _ _ = true; decide)
    | with_reducible exact only_refl _ _
    | with_reducible apply only_step (state_countBind_only ..)
    | split

theorem formPre_only (turn : Nat) (s : State) (c : Cand) (want : Nat) (prev : Option Form) : OnlyChanges [.seats,
    .bank, .binds] s (formPre turn s c want prev).1 := by
  unfold formPre
  repeat' first
    | (show List.all _ _ = true; decide)
    | extract_lets y1 y2 y3 y4 y5 y6 y7 y8 y9 y10 y11 y12 y13
    | with_reducible exact only_refl _ _
    | with_reducible apply only_step (leaveOut_only ..)
    | with_reducible apply only_step (reserve_only ..)
    | with_reducible apply only_step (state_countBind_only ..)
    | split
    | subst y13
    | subst y12
    | subst y11
    | subst y10
    | subst y9

theorem budgeted_only (b : Nat) (c : Comp) (x : Cand) : OnlyChanges [.binds] c.s (budgeted b c x).1.s := by
  unfold budgeted
  simp only
  split
  · exact state_countBind_only ..
  · split
    · exact state_countBind_only ..
    · exact only_refl _ _

theorem enter_only {l : List Part} (c : Comp) (x : Cand) (budget : Bool) (res : State × Option Form)
    (hl : l.contains .stakes = true) (h : OnlyChanges l c.s res.1) : OnlyChanges l c.s (enter c x budget res).s := by
  unfold enter
  split
  · exact h
  · simp only
    split
    · exact h
    · exact only_step (state_setStake_only ..) (by simpa using hl) h

theorem pass1_only (b turn : Nat) (c : Comp) (x : Cand) : OnlyChanges [.seats, .bank, .stakes, .binds] c.s (pass1 b
    turn c x).s := by
  unfold pass1
  have hb := budgeted_only b c x
  split
  · next e => rw [e] at hb; exact only_step hb rfl (only_refl _ _)
  · next e =>
    rw [e] at hb
    exact only_step (enter_only (l := [.seats, .bank, .stakes, .binds]) _ _ _ _ rfl (only_step (formDec_only ..) rfl (only_refl _ _))) rfl
      (only_step hb rfl (only_refl _ _))

theorem pass2_only (b turn : Nat) (c : Comp) (x : Cand) : OnlyChanges [.seats, .bank, .stakes, .binds] c.s (pass2 b
    turn c x).s := by
  unfold pass2
  have hb := budgeted_only b c x
  split
  · next e => rw [e] at hb; exact only_step hb rfl (only_refl _ _)
  · next e =>
    rw [e] at hb
    exact only_step (enter_only (l := [.seats, .bank, .stakes, .binds]) _ _ _ _ rfl (only_step (formPre_only ..) rfl (only_refl _ _))) rfl
      (only_step hb rfl (only_refl _ _))

theorem pass3_only (turn : Nat) (c : Comp) (x : Cand) : OnlyChanges [.seats, .bank, .stakes, .binds] c.s (pass3
    turn c x).s := by
  unfold pass3
  split
  · exact only_refl _ _
  · exact enter_only _ _ _ _ rfl (only_step (formDec_only ..) rfl (only_refl _ _))

theorem grow_only (turn : Nat) (c : Comp) (f : Form) : OnlyChanges [.seats, .bank, .stakes, .binds] c.s (grow turn
    c f).s := by
  unfold grow
  split
  · exact only_refl _ _
  · have h := formPre_only turn c.s f.cand (min f.cand.offer (f.q + c.w)) (some f)
    split
    · next e => rw [e] at h; exact only_step h rfl (only_refl _ _)
    · next e =>
      rw [e] at h
      simp only
      split
      · exact only_step h rfl (only_refl _ _)
      · exact only_step (state_setStake_only ..) rfl (only_step h rfl (only_refl _ _))

theorem pass4_only (turn : Nat) (c : Comp) (x : Cand) : OnlyChanges [.seats, .bank, .stakes, .binds] c.s (pass4
    turn c x).s := by
  unfold pass4
  split
  · exact only_refl _ _
  · exact enter_only _ _ _ _ rfl (only_step (formPre_only ..) rfl (only_refl _ _))

theorem dropReads_only (s : State) (b : Nat) : OnlyChanges [.reqx] s (dropReads s b) := by
  unfold dropReads
  repeat' first
    | (show List.all _ _ = true; decide)
    | intro _
    | with_reducible exact only_refl _ _
    | with_reducible assumption
    | with_reducible apply only_step (state_updRx_only ..)
    | with_reducible refine only_foldl ?_ ?_

theorem only_foldl_comp {α : Type} {l : List Part} {s : State} {f : Comp → α → Comp} (h : ∀ c a, OnlyChanges l c.s
    (f c a).s)
    (xs : List α) (c : Comp) (h1 : OnlyChanges l s c.s) : OnlyChanges l s (xs.foldl f c).s := by
  induction xs generalizing c with
  | nil => exact h1
  | cons x xs ih => exact ih _ (only_step (h c x) (by simp) h1)

theorem composePasses_only (s : State) (b turn : Nat) : OnlyChanges [.seats, .bank, .reqx, .stakes, .binds,
    .ingots] s (composePasses s b turn).s := by
  unfold composePasses
  split
  next s1 cands e =>
  extract_lets y1 y2 y3 y4 y5 y6 y7 y8 y9 y10 y11
  have h1 : OnlyChanges [.seats, .bank, .reqx, .stakes, .binds, .ingots] s s1 := by
    refine only_of_fst e (only_foldl_fst (only_refl _ _) ?_)
    intro y a hy
    have hc := candOf_only turn y.1 a
    split
    · next e => rw [e] at hc; exact only_step hc rfl hy
    · next e => rw [e] at hc; exact only_step hc rfl hy
  have h2 : OnlyChanges [.seats, .bank, .reqx, .stakes, .binds, .ingots] s y1 := only_foldl h1 (fun y a hy => only_step (refill_only ..) rfl hy)
  have h3 : OnlyChanges [.seats, .bank, .reqx, .stakes, .binds, .ingots] s y4.s := h2
  have h4 : OnlyChanges [.seats, .bank, .reqx, .stakes, .binds, .ingots] s y5.s := only_foldl_comp (fun c a => only_step (pass1_only ..) rfl (only_refl _ _)) _ _ h3
  have h5 : OnlyChanges [.seats, .bank, .reqx, .stakes, .binds, .ingots] s y6.s := only_foldl_comp (fun c a => only_step (pass2_only ..) rfl (only_refl _ _)) _ _ h4
  have h6 : OnlyChanges [.seats, .bank, .reqx, .stakes, .binds, .ingots] s y8.s := only_foldl_comp (fun c a => only_step (pass3_only ..) rfl (only_refl _ _)) _ _ h5
  have h7 : OnlyChanges [.seats, .bank, .reqx, .stakes, .binds, .ingots] s y9.s := only_foldl_comp (fun c a => only_step (grow_only ..) rfl (only_refl _ _)) _ _ h6
  have h8 : OnlyChanges [.seats, .bank, .reqx, .stakes, .binds, .ingots] s y10.s := only_foldl_comp (fun c a => only_step (pass4_only ..) rfl (only_refl _ _)) _ _ h7
  exact only_step (dropReads_only ..) rfl (only_step (state_countBind_only ..) rfl (only_step (state_countBind_only ..) rfl h8))

theorem markExpired_only (s : State) (slot : Nat) : OnlyChanges [.reqx] s (markExpired s slot) := by
  unfold markExpired
  repeat' first
    | (show List.all _ _ = true; decide)
    | extract_lets
    | with_reducible exact only_refl _ _
    | with_reducible apply only_step (state_updRx_only ..)
    | split

theorem endExpired_only (s : State) (b : Nat) : OnlyChanges [.mem, .wordErr, .dirty, .seats, .bank, .reqs, .reqx,
    .objs, .objx, .binds, .ingots, .cores, .fab, .mirrors, .out, .free] s (endExpired s b) := by
  unfold endExpired
  repeat' first
    | (show List.all _ _ = true; decide)
    | intro _
    | with_reducible exact only_refl _ _
    | with_reducible assumption
    | with_reducible apply only_step (endNow_only ..)
    | with_reducible refine only_foldl ?_ ?_
    | split

theorem endLimit_only (s : State) (b : Nat) : OnlyChanges [.mem, .wordErr, .dirty, .seats, .bank, .reqs, .reqx,
    .objs, .objx, .binds, .ingots, .cores, .fab, .mirrors, .out, .free] s (endLimit s b) := by
  unfold endLimit
  repeat' first
    | (show List.all _ _ = true; decide)
    | intro _
    | with_reducible exact only_refl _ _
    | with_reducible assumption
    | with_reducible apply only_step (endNow_only ..)
    | with_reducible refine only_foldl ?_ ?_
    | split

theorem startSeed_only (s : State) (b : Nat) (e : TEnt) : OnlyChanges [.binds] s (startSeed s b e) := by
  unfold startSeed
  repeat' first
    | (show List.all _ _ = true; decide)
    | extract_lets
    | with_reducible exact only_refl _ _
    | with_reducible apply only_step (state_updBind_only ..)
    | split

theorem allocReturns_only (s : State) (b : Nat) : OnlyChanges [.reqx, .binds] s (allocReturns s b) := by
  unfold allocReturns
  repeat' first
    | (show List.all _ _ = true; decide)
    | intro _
    | with_reducible exact only_refl _ _
    | with_reducible assumption
    | with_reducible apply only_step (returnAlloc_only ..)
    | with_reducible refine only_foldl ?_ ?_
    | split

theorem noteBlocks_only (s : State) (b : Nat) : OnlyChanges [.seats, .bank, .ingots] s (noteBlocks s b) := by
  unfold noteBlocks
  refine only_foldl (only_refl _ _) ?_
  intro y a hy
  extract_lets e seat note w
  have hn : ∀ s' on x, OnlyChanges [.seats, .bank, .ingots] s s' → OnlyChanges [.seats, .bank, .ingots] s (note s' on x) := by
    intro s' on x h
    show OnlyChanges _ _ (ite _ _ _)
    split
    · exact only_step (state_noteWindow_only ..) rfl (only_step (noteBad_only ..) rfl h)
    · exact h
  split
  · exact hn _ _ _ (hn _ _ _ (hn _ _ _ (hn _ _ _ hy)))
  · exact hn _ _ _ (hn _ _ _ hy)

theorem settleSlot_only (s : State) : OnlyChanges [.slot] s (settleSlot s) := by
  unfold settleSlot
  repeat' first
    | (show List.all _ _ = true; decide)
    | with_reducible exact only_refl _ _
    | split
    | with_reducible apply only_step (set_slot_only ..)

theorem closeTurn_only (s : State) (b : Nat) : OnlyChanges [.mem, .wordErr, .dirty, .seats, .bank, .reqs, .reqx,
    .objs, .objx, .stakes, .binds, .slot, .ingots, .cores, .fab, .mirrors, .out, .free] s (closeTurn s b) := by
  unfold closeTurn
  repeat' first
    | (show List.all _ _ = true; decide)
    | extract_lets
    | intro _
    | with_reducible exact only_refl _ _
    | with_reducible assumption
    | with_reducible apply only_step (allocReturns_only ..)
    | with_reducible apply only_step (composePasses_only ..)
    | with_reducible apply only_step (endExpired_only ..)
    | with_reducible apply only_step (endLimit_only ..)
    | with_reducible apply only_step (markExpired_only ..)
    | with_reducible apply only_step (noteBlocks_only ..)
    | with_reducible apply only_step (settleSlot_only ..)
    | with_reducible apply only_step (startSeed_only ..)
    | with_reducible apply only_step (state_countBind_only ..)
    | with_reducible apply only_step (state_updBind_only ..)
    | with_reducible apply only_step (state_updRx_only ..)
    | with_reducible refine only_foldl ?_ ?_
    | split

theorem scatterTurn_only (s : State) (b : Nat) : OnlyChanges [.dirty, .bank, .reqx, .objs, .objx, .binds, .cores,
    .fab, .out] s (scatterTurn s b) := by
  unfold scatterTurn
  repeat' first
    | (show List.all _ _ = true; decide)
    | with_reducible exact only_refl _ _
    | with_reducible apply only_step (toKids_only ..)
    | split

theorem closeIdle_only (s : State) (b : Nat) : OnlyChanges [.mem, .wordErr, .dirty, .seats, .bank, .reqs, .reqx,
    .objs, .objx, .stakes, .binds, .slot, .ingots, .cores, .fab, .mirrors, .out, .free] s (closeIdle s b) := by
  unfold closeIdle
  repeat' first
    | (show List.all _ _ = true; decide)
    | extract_lets y1
    | with_reducible exact only_refl _ _
    | with_reducible apply only_step (allocReturns_only ..)
    | with_reducible apply only_step (closeTurn_only ..)
    | with_reducible apply only_step (dropReads_only ..)
    | with_reducible apply only_step (scatterTurn_only ..)
    | split
    | subst y1

/-! ## Requests.lean -/

theorem bucketMatch_only (b sg start t : Nat) (h : W64) (toks : List Nat) (first : Bool) (prev fuel i : Nat) (s :
    State) :
    OnlyChanges [.binds] s (bucketMatch b sg start t h toks first prev fuel i s).1 := by
  induction fuel generalizing i s with
  | zero => exact only_refl _ _
  | succ n ih =>
    unfold bucketMatch
    extract_lets k w next
    repeat' first
      | with_reducible exact only_refl _ _
      | exact ih _ _
      | exact only_step (ih _ _) rfl (state_countBind_only ..)
      | exact state_countBind_only ..
      | split

theorem matchCols_only (e : BitVec 1024) (b seat t vlen last start fuel j : Nat) (m : Match) :
    OnlyChanges [.binds] m.s (matchCols e b seat t vlen last start fuel j m).s := by
  induction fuel generalizing j m with
  | zero => exact only_refl _ _
  | succ n ih =>
    unfold matchCols
    split
    · exact only_refl _ _
    · split
      · exact only_refl _ _
      · extract_lets toks h prev
        have hb := bucketMatch_only b (seat * 4096 + LEnt.GROUP.get e) start t h toks m.runs.isEmpty prev 8 0 m.s
        split
        · next e => rw [e] at hb; exact only_step (state_countBind_only ..) rfl hb
        · next e => rw [e] at hb; exact only_step (ih _ _) rfl (only_step (state_countBind_only ..) rfl hb)

theorem lateOrNow_only (s : State) (slot : Nat) (pts : List (Nat × W64)) (len : Nat) (refs : List (Nat × Nat)) :
    OnlyChanges [.mem, .wordErr, .dirty, .seats, .bank, .reqs, .reqx, .objs, .objx, .binds, .cores, .fab, .mirrors,
    .out] s (lateOrNow s slot pts len refs) := by
  unfold lateOrNow
  repeat' first
    | (show List.all _ _ = true; decide)
    | extract_lets
    | intro _
    | with_reducible exact only_refl _ _
    | with_reducible assumption
    | with_reducible apply only_step (ptHeader_only ..)
    | with_reducible apply only_step (ptWrite_only ..)
    | with_reducible apply only_step (refAdd_only ..)
    | with_reducible apply only_step (state_updReq_only ..)
    | with_reducible apply only_step (state_updRx_only ..)
    | with_reducible refine only_foldl ?_ ?_
    | split

theorem settleLost_only (s : State) (slot : Nat) : OnlyChanges [.mem, .wordErr, .dirty, .seats, .bank, .reqs,
    .reqx, .objs, .objx, .binds, .ingots, .cores, .fab, .mirrors, .out, .free] s (settleLost s slot) := by
  unfold settleLost
  repeat' first
    | (show List.all _ _ = true; decide)
    | with_reducible exact only_refl _ _
    | with_reducible apply only_step (endNow_only ..)
    | split

theorem admitSetup_only (s : State) (seat : Nat) (e : BitVec 1024) (m : Match) : OnlyChanges [.mem, .wordErr,
    .dirty, .seats, .bank, .reqs, .reqx, .objs, .objx, .binds, .ingots, .cores, .fab, .mirrors, .out, .free] s
    (admitSetup s seat e m) := by
  unfold admitSetup
  repeat' first
    | (show List.all _ _ = true; decide)
    | extract_lets y1 y2 y3 y4 y5 y6 y7 y8 y9 y10 y11 y12 y13 y14 y15 y16 y17 y18 y19 y20 y21 y22 y23
    | with_reducible exact only_refl _ _
    | with_reducible apply only_step (lateOrNow_only ..)
    | with_reducible apply only_step (ringHeader_only ..)
    | with_reducible apply only_step (settleLost_only ..)
    | with_reducible apply only_step (state_countBind_only ..)
    | with_reducible apply only_step (state_setReq_only ..)
    | with_reducible apply only_step (state_setRx_only ..)
    | with_reducible apply only_step (state_updSeat_only ..)
    | split
    | subst y23
    | subst y22
    | subst y21
    | subst y20

theorem admitOne_only (s : State) (seat : Nat) (e : BitVec 1024) : OnlyChanges [.mem, .wordErr, .dirty, .seats,
    .bank, .reqs, .reqx, .objs, .objx, .binds, .ingots, .cores, .fab, .mirrors, .out, .free] s (admitOne s seat
    e).1 := by
  unfold admitOne
  repeat' first
    | (show List.all _ _ = true; decide)
    | extract_lets y1 y2 y3 y4 y5 y6 y7
    | with_reducible exact only_refl _ _
    | with_reducible apply only_step (admitSetup_only ..)
    | with_reducible apply only_step (matchCols_only ..)
    | with_reducible apply only_step (state_countSeat_only ..)
    | with_reducible apply only_step (state_updRx_only ..)
    | split
    | subst y7
    | subst y6
    | subst y5
    | subst y4
    | subst y3
    | subst y2

theorem closeAll_only (s : State) (l : List Nat) : OnlyChanges [.mem, .wordErr, .dirty, .seats, .bank, .reqs,
    .reqx, .objs, .objx, .stakes, .binds, .slot, .ingots, .cores, .fab, .mirrors, .out, .free] s (closeAll s l) := by
  unfold closeAll
  repeat' first
    | (show List.all _ _ = true; decide)
    | intro _
    | with_reducible exact only_refl _ _
    | with_reducible assumption
    | with_reducible apply only_step (closeIdle_only ..)
    | with_reducible refine only_foldl ?_ ?_

theorem opAdmit_only (c : Cmd) (s : State) : OnlyChanges [.mem, .wordErr, .dirty, .seats, .bank, .reqs, .reqx,
    .objs, .objx, .stakes, .binds, .slot, .ingots, .cores, .fab, .mirrors, .out, .free] s (opAdmit c s).1 := by
  unfold opAdmit
  beta_reduce
  repeat' first
    | (show List.all _ _ = true; decide)
    | extract_lets
    | intro _
    | with_reducible exact only_refl _ _
    | with_reducible assumption
    | with_reducible apply only_step (admitOne_only ..)
    | with_reducible apply only_step (closeAll_only ..)
    | with_reducible refine only_foldl_fst ?_ ?_
    | split

theorem opFeed_only (c : Cmd) (s : State) : OnlyChanges [.mem, .wordErr, .dirty, .seats, .bank, .reqs, .reqx,
    .objs, .objx, .stakes, .binds, .slot, .ingots, .cores, .fab, .mirrors, .out, .free] s (opFeed c s).1 := by
  unfold opFeed
  beta_reduce
  repeat' first
    | (show List.all _ _ = true; decide)
    | extract_lets
    | with_reducible exact only_refl _ _
    | with_reducible apply only_step (closeIdle_only ..)
    | with_reducible apply only_step (state_updReq_only ..)
    | with_reducible apply only_step (state_updRx_only ..)
    | split
    | (show OnlyChanges _ _ (ite _ _ _); split)

theorem opCancel_only (c : Cmd) (s : State) : OnlyChanges [.mem, .wordErr, .dirty, .seats, .bank, .reqs, .reqx,
    .objs, .objx, .stakes, .binds, .slot, .ingots, .cores, .fab, .mirrors, .out, .free] s (opCancel c s).1 := by
  unfold opCancel
  beta_reduce
  repeat' first
    | (show List.all _ _ = true; decide)
    | extract_lets
    | with_reducible exact only_refl _ _
    | with_reducible apply only_step (closeAll_only ..)
    | with_reducible apply only_step (endNow_only ..)
    | with_reducible apply only_step (state_updRx_only ..)
    | split

theorem opPause_only (c : Cmd) (s : State) : OnlyChanges [.mem, .wordErr, .dirty, .seats, .bank, .reqs, .reqx,
    .objs, .objx, .stakes, .binds, .slot, .ingots, .cores, .fab, .mirrors, .out, .free] s (opPause c s).1 := by
  unfold opPause
  beta_reduce
  repeat' first
    | (show List.all _ _ = true; decide)
    | extract_lets
    | with_reducible exact only_refl _ _
    | with_reducible apply only_step (closeAll_only ..)
    | with_reducible apply only_step (pauseEffect_only ..)
    | with_reducible apply only_step (state_updRx_only ..)
    | split

theorem opResume_only (c : Cmd) (s : State) : OnlyChanges [.mem, .wordErr, .dirty, .seats, .bank, .reqs, .reqx,
    .objs, .objx, .stakes, .binds, .slot, .ingots, .cores, .fab, .mirrors, .out, .free] s (opResume c s).1 := by
  unfold opResume
  beta_reduce
  repeat' first
    | (show List.all _ _ = true; decide)
    | extract_lets
    | with_reducible exact only_refl _ _
    | with_reducible apply only_step (closeIdle_only ..)
    | with_reducible apply only_step (resumeSwitch_only ..)
    | with_reducible apply only_step (state_updReq_only ..)
    | with_reducible apply only_step (state_updRx_only ..)
    | split

/-! ## Place.lean -/

theorem evictReq_only (s : State) (owner slot : Nat) : OnlyChanges [.dirty, .bank, .reqx, .objs, .objx, .binds,
    .cores, .fab, .out, .free] s (evictReq s owner slot) := by
  unfold evictReq
  repeat' first
    | (show List.all _ _ = true; decide)
    | extract_lets
    | intro _
    | with_reducible exact only_refl _ _
    | with_reducible assumption
    | with_reducible apply only_step (state_countDev_only ..)
    | with_reducible apply only_step (state_updOx_only ..)
    | with_reducible apply only_step (tellPark_only ..)
    | with_reducible refine only_foldl ?_ ?_
    | split

theorem makeRoom_only {s t : State} {tier n : Nat} {but : Option (Nat × Nat)} (h : makeRoom s tier n but = some t) :
    OnlyChanges [.dirty, .bank, .reqx, .objs, .objx, .binds, .cores, .fab, .out, .free] s t := by
  simp only [makeRoom] at h
  split at h
  · cases h; exact only_refl _ _
  · split at h
    · cases h
    · cases h
      refine only_foldl (only_refl _ _) ?_
      intro y a hy
      split
      · exact hy
      · exact only_step (evictReq_only ..) rfl hy

theorem charge_only {s t : State} {n seat tier tiles : Nat} {shared : Bool} (h : charge s n seat tier tiles shared
    = .ok t) :
    OnlyChanges [.dirty, .seats, .bank, .reqx, .objs, .objx, .binds, .cores, .fab, .out, .free] s t := by
  simp only [charge] at h
  split at h
  · cases h; exact only_step (state_updSeat_only ..) rfl (only_refl _ _)
  · split at h
    · cases h
    · split at h
      · cases h
      · next e =>
        cases h
        exact only_step (state_countDev_only ..) rfl (only_step (state_updOx_only ..) rfl
          (only_step (state_updSeat_only ..) rfl (only_step (makeRoom_only e) rfl (only_refl _ _))))

theorem unchargeTiles_only (s : State) (n seat tier tiles : Nat) : OnlyChanges [.seats, .objx] s (unchargeTiles s n
    seat tier tiles) := by
  unfold unchargeTiles
  repeat' first
    | (show List.all _ _ = true; decide)
    | extract_lets
    | with_reducible exact only_refl _ _
    | with_reducible apply only_step (state_updOx_only ..)
    | with_reducible apply only_step (state_updSeat_only ..)

theorem endOp_only (s : State) (n st : Nat) : OnlyChanges [.mem, .wordErr, .dirty, .seats, .objs, .objx, .out] s
    (endOp s n st) := by
  unfold endOp
  repeat' first
    | (show List.all _ _ = true; decide)
    | extract_lets
    | intro _
    | with_reducible exact only_refl _ _
    | with_reducible assumption
    | with_reducible apply only_step (raise_only ..)
    | with_reducible apply only_step (state_updObj_only ..)
    | with_reducible apply only_step (state_updOx_only ..)
    | with_reducible apply only_step (writeMem_only ..)
    | with_reducible refine only_foldl ?_ ?_
    | split

theorem copyTile_only (s : State) (n t : Nat) : OnlyChanges [.mem, .wordErr, .dirty, .seats, .bank, .reqx, .objs,
    .objx, .binds, .ingots, .hm, .cores, .fab, .out] s (copyTile s n t) := by
  unfold copyTile
  repeat' first
    | (show List.all _ _ = true; decide)
    | extract_lets
    | with_reducible exact only_refl _ _
    | with_reducible apply only_step (failTile_only ..)
    | with_reducible apply only_step (moveTile_only ..)
    | with_reducible apply only_step (noteBad_only ..)
    | with_reducible apply only_step (state_noteWindow_only ..)
    | with_reducible apply only_step (tileDone_only ..)
    | split
    | with_reducible apply only_step (set_dirty_only ..)

theorem copyNext_only (s : State) (n : Nat) : OnlyChanges [.mem, .wordErr, .dirty, .seats, .bank, .reqx, .objs,
    .objx, .binds, .ingots, .hm, .cores, .fab, .out] s (copyNext s n) := by
  unfold copyNext
  repeat' first
    | (show List.all _ _ = true; decide)
    | extract_lets
    | with_reducible exact only_refl _ _
    | with_reducible apply only_step (blockMover_only ..)
    | with_reducible apply only_step (copyTile_only ..)
    | with_reducible apply only_step (state_updOx_only ..)
    | split

theorem copyTimes_only (n k : Nat) (s : State) : OnlyChanges [.mem, .wordErr, .dirty, .seats, .bank, .reqx, .objs,
    .objx, .binds, .ingots, .hm, .cores, .fab, .out] s (copyTimes n k s) := by
  induction k generalizing s with
  | zero => exact only_refl _ _
  | succ k ih => exact only_step (ih _) rfl (only_step (copyNext_only ..) rfl (only_refl _ _))

theorem copyRest_only (s : State) (n : Nat) : OnlyChanges [.mem, .wordErr, .dirty, .seats, .bank, .reqx, .objs,
    .objx, .binds, .ingots, .hm, .cores, .fab, .out] s (copyRest s n) := by
  unfold copyRest
  repeat' first
    | (show List.all _ _ = true; decide)
    | with_reducible exact only_refl _ _
    | with_reducible apply only_step (copyTimes_only ..)

theorem placeWork_only (s : State) : OnlyChanges [.mem, .wordErr, .dirty, .seats, .bank, .reqx, .objs, .objx,
    .binds, .ingots, .hm, .cores, .fab, .out] s (placeWork s) := by
  unfold placeWork
  repeat' first
    | (show List.all _ _ = true; decide)
    | intro _
    | with_reducible exact only_refl _ _
    | with_reducible assumption
    | with_reducible apply only_step (copyNext_only ..)
    | with_reducible refine only_foldl ?_ ?_

theorem moveSwitch_only (s : State) (n : Nat) (keepOld : Bool) : OnlyChanges [.mem, .wordErr, .dirty, .seats,
    .objs, .objx, .out] s (moveSwitch s n keepOld) := by
  unfold moveSwitch
  repeat' first
    | (show List.all _ _ = true; decide)
    | extract_lets y1 y2 y3 y4 y5 y6 y7 y8
    | with_reducible exact only_refl _ _
    | with_reducible apply only_step (endOp_only ..)
    | with_reducible apply only_step (state_updObj_only ..)
    | with_reducible apply only_step (state_updOx_only ..)
    | with_reducible apply only_step (unchargeTiles_only ..)
    | split
    | subst y8

theorem moveFail_only (s : State) (n st : Nat) : OnlyChanges [.mem, .wordErr, .dirty, .seats, .objs, .objx, .out] s
    (moveFail s n st) := by
  unfold moveFail
  repeat' first
    | (show List.all _ _ = true; decide)
    | extract_lets y1 y2
    | with_reducible exact only_refl _ _
    | with_reducible apply only_step (endOp_only ..)
    | with_reducible apply only_step (unchargeTiles_only ..)
    | split
    | subst y2

theorem writeBack_only (s : State) (n : Nat) : OnlyChanges [.bank, .objs, .objx] s (writeBack s n) := by
  unfold writeBack
  repeat' first
    | (show List.all _ _ = true; decide)
    | extract_lets y1 y2 y3 y4
    | with_reducible exact only_refl _ _
    | with_reducible apply only_step (state_countDev_only ..)
    | with_reducible apply only_step (state_updObj_only ..)
    | with_reducible apply only_step (state_updOx_only ..)
    | split
    | subst y4

theorem clearDirty_only (s : State) (key tiles : Nat) : OnlyChanges [.dirty] s (clearDirty s key tiles) := by
  unfold clearDirty
  repeat' first
    | (show List.all _ _ = true; decide)
    | with_reducible exact only_refl _ _
    | with_reducible apply only_step (set_dirty_only ..)

theorem dropEnd_only (s : State) (n : Nat) : OnlyChanges [.mem, .wordErr, .dirty, .seats, .objs, .objx, .out] s
    (dropEnd s n) := by
  unfold dropEnd
  repeat' first
    | (show List.all _ _ = true; decide)
    | extract_lets y1 y2 y3 y4
    | with_reducible exact only_refl _ _
    | with_reducible apply only_step (clearDirty_only ..)
    | with_reducible apply only_step (endOp_only ..)
    | with_reducible apply only_step (state_updObj_only ..)
    | with_reducible apply only_step (unchargeTiles_only ..)
    | split
    | subst y4

theorem freeKept_only (s : State) (n : Nat) : OnlyChanges [.seats, .objx] s (freeKept s n) := by
  unfold freeKept
  repeat' first
    | (show List.all _ _ = true; decide)
    | intro _
    | with_reducible exact only_refl _ _
    | with_reducible assumption
    | with_reducible apply only_step (state_updOx_only ..)
    | with_reducible apply only_step (unchargeTiles_only ..)
    | with_reducible refine only_foldl ?_ ?_

theorem startOp_only (s : State) (n op : Nat) (c : Cmd) : OnlyChanges [.bank, .objx] s (startOp s n op c) := by
  unfold startOp
  repeat' first
    | (show List.all _ _ = true; decide)
    | extract_lets
    | with_reducible exact only_refl _ _
    | with_reducible apply only_step (state_updOx_only ..)
    | with_reducible apply only_step (set_bank_only ..)

theorem placeCreate_only (s : State) (c : Cmd) : OnlyChanges [.mem, .wordErr, .dirty, .seats, .bank, .reqx, .objs,
    .objx, .binds, .cores, .fab, .out, .free] s (placeCreate s c).1 := by
  unfold placeCreate
  extract_lets w n kind tiles shared wt bt rec0 charged
  have hc : ∀ t, charged = .ok t → OnlyChanges [.mem, .wordErr, .dirty, .seats, .bank, .reqx, .objs, .objx, .binds, .cores, .fab, .out, .free] s t := by
    intro t h
    change (ite _ _ _) = _ at h
    split at h
    · cases h; exact only_step (state_setObj_only ..) rfl (only_refl _ _)
    · split at h
      · cases h
      · next e =>
        have h1 := only_step (l := [.mem, .wordErr, .dirty, .seats, .bank, .reqx, .objs, .objx, .binds, .cores, .fab, .out, .free]) (charge_only e) rfl (only_step (state_setObj_only ..) rfl (only_refl _ _))
        split at h
        · cases h; exact h1
        · exact only_step (charge_only h) rfl h1
  clear_value charged
  split
  · split
    · exact only_step (state_countSeat_only ..) rfl (only_refl _ _)
    · exact only_refl _ _
  · have h1 := hc _ rfl
    repeat' first
      | (show List.all _ _ = true; decide)
      | extract_lets z1 z2 z3 z4
      | with_reducible exact only_refl _ _
      | with_reducible assumption
      | with_reducible apply only_step (endOp_only ..)
      | with_reducible apply only_step (clearDirty_only ..)
      | with_reducible apply only_step (state_updOx_only ..)
      | with_reducible apply only_step (state_updObj_only ..)
      | with_reducible apply only_step (startOp_only ..)
      | split
      | subst z4
      | subst z3
      | subst z2
      | subst z1

theorem placeMove_only (s : State) (c : Cmd) : OnlyChanges [.dirty, .seats, .bank, .reqx, .objs, .objx, .binds,
    .cores, .fab, .out, .free] s (placeMove s c).1 := by
  unfold placeMove
  extract_lets n w a charged
  have hc : ∀ t, charged = .ok t → OnlyChanges [.dirty, .seats, .bank, .reqx, .objs, .objx, .binds, .cores, .fab, .out, .free] s t := by
    intro t h
    change (ite _ _ _) = _ at h
    split at h
    · cases h; exact only_refl _ _
    · exact only_step (charge_only h) rfl (only_refl _ _)
  clear_value charged
  split
  · split
    · exact only_step (state_countSeat_only ..) rfl (only_refl _ _)
    · exact only_refl _ _
  · have h1 := hc _ rfl
    repeat' first
      | (show List.all _ _ = true; decide)
      | extract_lets z1 z2 z3 z4
      | with_reducible exact only_refl _ _
      | with_reducible assumption
      | with_reducible apply only_step (state_updObj_only ..)
      | with_reducible apply only_step (state_updOx_only ..)
      | with_reducible apply only_step (startOp_only ..)
      | split
      | subst z4
      | subst z3
      | subst z2
      | subst z1

theorem placeFlush_only (s : State) (c : Cmd) : OnlyChanges [.mem, .wordErr, .dirty, .seats, .bank, .objs, .objx,
    .out] s (placeFlush s c).1 := by
  unfold placeFlush
  repeat' first
    | (show List.all _ _ = true; decide)
    | extract_lets
    | with_reducible exact only_refl _ _
    | with_reducible apply only_step (endOp_only ..)
    | with_reducible apply only_step (startOp_only ..)
    | with_reducible apply only_step (state_updObj_only ..)
    | with_reducible apply only_step (writeBack_only ..)
    | split

theorem placeDrop_only (s : State) (c : Cmd) : OnlyChanges [.mem, .wordErr, .dirty, .seats, .bank, .objs, .objx,
    .out] s (placeDrop s c).1 := by
  unfold placeDrop
  repeat' first
    | (show List.all _ _ = true; decide)
    | extract_lets
    | with_reducible exact only_refl _ _
    | with_reducible apply only_step (dropEnd_only ..)
    | with_reducible apply only_step (endOp_only ..)
    | with_reducible apply only_step (startOp_only ..)
    | with_reducible apply only_step (state_updObj_only ..)
    | with_reducible apply only_step (writeBack_only ..)
    | split

theorem placeDestroy_only (s : State) (c : Cmd) : OnlyChanges [.seats, .objs, .objx, .out] s (placeDestroy s c) := by
  unfold placeDestroy
  repeat' first
    | (show List.all _ _ = true; decide)
    | extract_lets y1 y2 y3 y4 y5 y6 y7
    | with_reducible exact only_refl _ _
    | with_reducible apply only_step (freeKept_only ..)
    | with_reducible apply only_step (raise_only ..)
    | with_reducible apply only_step (state_setObj_only ..)
    | with_reducible apply only_step (state_setOx_only ..)
    | with_reducible apply only_step (unchargeTiles_only ..)
    | split
    | subst y7
    | subst y6
    | subst y5

theorem opPlace_only (c : Cmd) (s : State) : OnlyChanges [.mem, .wordErr, .dirty, .seats, .bank, .reqx, .objs,
    .objx, .binds, .cores, .fab, .out, .free] s (opPlace c s).1 := by
  unfold opPlace
  beta_reduce
  repeat' first
    | (show List.all _ _ = true; decide)
    | extract_lets
    | with_reducible exact only_refl _ _
    | with_reducible apply only_step (placeCreate_only ..)
    | with_reducible apply only_step (placeDestroy_only ..)
    | with_reducible apply only_step (placeDrop_only ..)
    | with_reducible apply only_step (placeFlush_only ..)
    | with_reducible apply only_step (placeMove_only ..)
    | split
    | (with_reducible refine only_of_fst (by assumption) ?_)

theorem movePassEnd_only (s : State) (n : Nat) : OnlyChanges [.mem, .wordErr, .dirty, .seats, .bank, .reqx, .objs,
    .objx, .binds, .ingots, .hm, .cores, .fab, .out] s (movePassEnd s n) := by
  unfold movePassEnd
  repeat' first
    | (show List.all _ _ = true; decide)
    | extract_lets
    | with_reducible exact only_refl _ _
    | with_reducible apply only_step (copyRest_only ..)
    | with_reducible apply only_step (moveFail_only ..)
    | with_reducible apply only_step (moveSwitch_only ..)
    | with_reducible apply only_step (state_updOx_only ..)
    | split

theorem placeEnd_only (s : State) (n : Nat) : OnlyChanges [.mem, .wordErr, .dirty, .seats, .bank, .reqx, .objs,
    .objx, .binds, .ingots, .hm, .cores, .fab, .out] s (placeEnd s n) := by
  unfold placeEnd
  repeat' first
    | (show List.all _ _ = true; decide)
    | extract_lets
    | with_reducible exact only_refl _ _
    | with_reducible apply only_step (copyRest_only ..)
    | with_reducible apply only_step (dropEnd_only ..)
    | with_reducible apply only_step (endOp_only ..)
    | split

theorem switchObjects_only (s : State) (b : Nat) : OnlyChanges [.mem, .wordErr, .dirty, .seats, .objs, .objx, .out]
    s (switchObjects s b) := by
  unfold switchObjects
  repeat' first
    | (show List.all _ _ = true; decide)
    | intro _
    | with_reducible exact only_refl _ _
    | with_reducible assumption
    | with_reducible apply only_step (moveSwitch_only ..)
    | with_reducible refine only_foldl ?_ ?_
    | split

theorem commitObjects_only (s : State) (b : Nat) : OnlyChanges [.mem, .wordErr, .dirty, .seats, .objs, .objx, .out]
    s (commitObjects s b) := by
  unfold commitObjects
  repeat' first
    | (show List.all _ _ = true; decide)
    | intro _
    | with_reducible exact only_refl _ _
    | with_reducible assumption
    | with_reducible apply only_step (freeKept_only ..)
    | with_reducible apply only_step (switchObjects_only ..)
    | with_reducible refine only_foldl ?_ ?_

end Sys2Proof.Laws
end

