-- ==== Sys2Proof/Laws/FrameBindings.lean ====
section
/-! SUPPORT. What each operation may change: engines, bindings, stakes and seats. -/

namespace Sys2Proof.Laws

open Sys2Proof Sys2Proof.Machine

set_option linter.tactic.unusedName false

/-! ## Binding.lean -/

theorem setPipSlot_only (s : State) (k : Nat) (x : PipSlot) : OnlyChanges [.pipSlots] s (setPipSlot s k x) := by
  unfold setPipSlot
  repeat' first
    | (show List.all _ _ = true; decide)
    | with_reducible exact only_refl _ _
    | with_reducible apply only_step (set_pipSlots_only ..)

theorem loadImage_only {s t : State} {b a k : Nat} (h : loadImage s b a = some (t, k)) : OnlyChanges [.imem,
    .pipSlots] s t := by
  unfold loadImage at h
  extract_lets hd d at h
  clear_value hd d
  split at h
  · simp only [Option.some.injEq, Prod.mk.injEq] at h
    rw [← h.1]
    exact only_step (setPipSlot_only ..) rfl (only_refl _ _)
  · split at h
    · simp only [Option.some.injEq, Prod.mk.injEq] at h
      rw [← h.1]
      refine only_foldl (only_step (setPipSlot_only ..) rfl (only_refl _ _)) ?_
      intro y i hy
      exact only_step (set_imem_only ..) rfl hy
    · cases h

theorem freeImages_only (s : State) (b : Nat) : OnlyChanges [.pipSlots] s (freeImages s b) := by
  unfold freeImages
  repeat' first
    | (show List.all _ _ = true; decide)
    | extract_lets
    | intro _
    | with_reducible exact only_refl _ _
    | with_reducible assumption
    | with_reducible apply only_step (setPipSlot_only ..)
    | with_reducible refine only_foldl ?_ ?_
    | split

theorem noteReads_only (s : State) (seat : Nat) (l : List (Nat × Nat)) : OnlyChanges [.wordErr, .bank, .ingots,
    .hm] s (noteReads s seat l) := by
  unfold noteReads
  repeat' first
    | (show List.all _ _ = true; decide)
    | intro _
    | with_reducible exact only_refl _ _
    | with_reducible assumption
    | with_reducible apply only_step (noteCorr_only ..)
    | with_reducible apply only_step (noteUncorr_only ..)
    | with_reducible refine only_foldl ?_ ?_
    | split

theorem loadImages_only {seat b : Nat} {l : List Nat} {acc r : State × List Nat} (h : loadImages seat b l acc = .ok r) :
    OnlyChanges [.imem, .pipSlots] acc.1 r.1 := by
  induction l generalizing acc with
  | nil => cases h; exact only_refl _ _
  | cons a rest ih =>
    unfold loadImages at h
    split at h
    · cases h
    · split at h
      · cases h
      · next e => exact only_step (ih h) rfl (loadImage_only e)

theorem loadBinding_only (s : State) (seat b : Nat) (r : BitVec 8192) (images logit lead : List Nat) : OnlyChanges
    [.seats, .objs, .binds] s (loadBinding s seat b r images logit lead) := by
  unfold loadBinding
  repeat' first
    | (show List.all _ _ = true; decide)
    | extract_lets
    | with_reducible exact only_refl _ _
    | with_reducible apply only_step (state_setBind_only ..)
    | with_reducible apply only_step (state_setObj_only ..)
    | with_reducible apply only_step (state_updSeat_only ..)
    | split

theorem opBindLoad_only (c : Cmd) (s : State) : OnlyChanges [.wordErr, .seats, .bank, .objs, .binds, .imem,
    .pipSlots, .ingots, .hm] s (opBindLoad c s).1 := by
  unfold opBindLoad
  repeat' first
    | (show List.all _ _ = true; decide)
    | extract_lets
    | with_reducible exact only_refl _ _
    | with_reducible apply only_step (loadBinding_only ..)
    | with_reducible apply only_step (noteReads_only ..)
    | with_reducible apply only_step (state_countSeat_only ..)
    | with_reducible refine only_step (loadImages_only (by assumption)) ?_ ?_
    | split

theorem opVariantAdd_only (c : Cmd) (s : State) : OnlyChanges [.wordErr, .bank, .binds, .ingots, .hm] s
    (opVariantAdd c s).1 := by
  unfold opVariantAdd
  repeat' first
    | (show List.all _ _ = true; decide)
    | extract_lets
    | with_reducible exact only_refl _ _
    | with_reducible apply only_step (noteReads_only ..)
    | with_reducible apply only_step (state_setBind_only ..)
    | split

theorem opVariantRemove_only (c : Cmd) (s : State) : OnlyChanges [.mem, .wordErr, .dirty, .seats, .bank, .reqs,
    .reqx, .objs, .objx, .stakes, .binds, .slot, .ingots, .cores, .fab, .mirrors, .out, .free] s (opVariantRemove c
    s).1 := by
  unfold opVariantRemove
  repeat' first
    | (show List.all _ _ = true; decide)
    | extract_lets
    | intro _
    | with_reducible exact only_refl _ _
    | with_reducible assumption
    | with_reducible apply only_step (closeAll_only ..)
    | with_reducible apply only_step (looseRun_only ..)
    | with_reducible apply only_step (state_setBind_only ..)
    | with_reducible apply only_step (state_updBind_only ..)
    | with_reducible refine only_foldl ?_ ?_
    | split

theorem opBindClear_only (c : Cmd) (s : State) : OnlyChanges [.mem, .wordErr, .dirty, .seats, .bank, .reqs, .reqx,
    .objs, .objx, .stakes, .binds, .slot, .ingots, .cores, .fab, .mirrors, .out, .free] s (opBindClear c s).1 := by
  unfold opBindClear
  repeat' first
    | (show List.all _ _ = true; decide)
    | extract_lets
    | with_reducible exact only_refl _ _
    | with_reducible apply only_step (closeIdle_only ..)
    | with_reducible apply only_step (state_updBind_only ..)
    | split

theorem opBind_only (c : Cmd) (s : State) : OnlyChanges [.mem, .wordErr, .dirty, .seats, .bank, .reqs, .reqx,
    .objs, .objx, .stakes, .binds, .slot, .imem, .pipSlots, .ingots, .hm, .cores, .fab, .mirrors, .out, .free] s
    (opBind c s).1 := by
  unfold opBind
  beta_reduce
  repeat' first
    | (show List.all _ _ = true; decide)
    | extract_lets
    | with_reducible exact only_refl _ _
    | with_reducible apply only_step (opBindClear_only ..)
    | with_reducible apply only_step (opBindLoad_only ..)
    | with_reducible apply only_step (opVariantAdd_only ..)
    | with_reducible apply only_step (opVariantRemove_only ..)
    | split
    | (with_reducible refine only_of_fst (by assumption) ?_)

theorem unbind_only (s : State) (b : Nat) : OnlyChanges [.seats, .reqs, .reqx, .objs, .objx, .binds, .pipSlots] s
    (unbind s b) := by
  unfold unbind
  repeat' first
    | (show List.all _ _ = true; decide)
    | extract_lets
    | intro _
    | with_reducible exact only_refl _ _
    | with_reducible assumption
    | with_reducible apply only_step (freeEntry_only ..)
    | with_reducible apply only_step (freeImages_only ..)
    | with_reducible apply only_step (freeKept_only ..)
    | with_reducible apply only_step (state_setBind_only ..)
    | with_reducible apply only_step (state_setObj_only ..)
    | with_reducible apply only_step (state_setOx_only ..)
    | with_reducible apply only_step (state_updSeat_only ..)
    | with_reducible refine only_foldl ?_ ?_
    | split

theorem opUnbind_only (c : Cmd) (s : State) : OnlyChanges [.seats, .reqs, .reqx, .objs, .objx, .binds, .pipSlots] s
    (opUnbind c s).1 := by
  unfold opUnbind
  beta_reduce
  repeat' first
    | (show List.all _ _ = true; decide)
    | extract_lets
    | with_reducible exact only_refl _ _
    | with_reducible apply only_step (unbind_only ..)
    | split

theorem opMould_only (c : Cmd) (s : State) : OnlyChanges [.binds] s (opMould c s).1 := by
  unfold opMould
  beta_reduce
  repeat' first
    | (show List.all _ _ = true; decide)
    | extract_lets
    | with_reducible exact only_refl _ _
    | with_reducible apply only_step (state_setBind_only ..)
    | split

/-! ## Seats.lean -/

theorem opStake_only (c : Cmd) (s : State) : OnlyChanges [.mem, .wordErr, .dirty, .seats, .bank, .reqs, .reqx,
    .objs, .objx, .stakes, .hist, .binds, .slot, .ingots, .cores, .fab, .mirrors, .out, .free] s (opStake c s).1 := by
  unfold opStake
  beta_reduce
  repeat' first
    | (show List.all _ _ = true; decide)
    | extract_lets
    | with_reducible exact only_refl _ _
    | with_reducible apply only_step (closeAll_only ..)
    | with_reducible apply only_step (state_setStake_only ..)
    | split
    | with_reducible apply only_step (set_hist_only ..)

theorem setWindow_only (s : State) (c : Cmd) : OnlyChanges [.seats] s (setWindow s c) := by
  unfold setWindow
  repeat' first
    | (show List.all _ _ = true; decide)
    | with_reducible exact only_refl _ _
    | with_reducible apply only_step (state_updSeat_only ..)

theorem opSeatSet_only (c : Cmd) (s : State) : OnlyChanges [.mem, .wordErr, .dirty, .seats, .bank, .reqs, .reqx,
    .objs, .objx, .stakes, .binds, .slot, .ingots, .cores, .fab, .mirrors, .out, .free] s (opSeatSet c s).1 := by
  unfold opSeatSet
  beta_reduce
  repeat' first
    | (show List.all _ _ = true; decide)
    | extract_lets
    | intro _
    | with_reducible exact only_refl _ _
    | with_reducible assumption
    | with_reducible apply only_step (closeAll_only ..)
    | with_reducible apply only_step (freeEntry_only ..)
    | with_reducible apply only_step (setWindow_only ..)
    | with_reducible apply only_step (state_updSeat_only ..)
    | with_reducible refine only_foldl ?_ ?_
    | split
    | with_reducible apply only_step (set_bank_only ..)

theorem resetRequests_only (s : State) (n : Nat) : OnlyChanges [.mem, .wordErr, .dirty, .seats, .bank, .reqs,
    .reqx, .objs, .objx, .binds, .ingots, .cores, .fab, .mirrors, .out, .free] s (resetRequests s n) := by
  unfold resetRequests
  repeat' first
    | (show List.all _ _ = true; decide)
    | intro _
    | with_reducible exact only_refl _ _
    | with_reducible assumption
    | with_reducible apply only_step (endNow_only ..)
    | with_reducible apply only_step (state_updRx_only ..)
    | with_reducible refine only_foldl ?_ ?_
    | split

theorem opSeatReset_only (c : Cmd) (s : State) : OnlyChanges [.mem, .wordErr, .dirty, .seats, .bank, .reqs, .reqx,
    .objs, .objx, .stakes, .binds, .slot, .ingots, .cores, .fab, .mirrors, .out, .free] s (opSeatReset c s).1 := by
  unfold opSeatReset
  beta_reduce
  repeat' first
    | (show List.all _ _ = true; decide)
    | extract_lets
    | with_reducible exact only_refl _ _
    | with_reducible apply only_step (closeAll_only ..)
    | with_reducible apply only_step (resetRequests_only ..)
    | with_reducible apply only_step (state_countSeat_only ..)
    | with_reducible apply only_step (state_updSeat_only ..)
    | split

end Sys2Proof.Laws
end

