-- ==== Sys2Proof/Laws/FrameTurn.lean ====
section
/-! SUPPORT. What each operation may change: the turn, the commit section, slices and mirrors. -/

namespace Sys2Proof.Laws

open Sys2Proof Sys2Proof.Machine

set_option linter.tactic.unusedName false

/-! ## Turn.lean -/

theorem failSlot_only (s : State) (b slot detail : Nat) : OnlyChanges [.binds] s (failSlot s b slot detail) := by
  unfold failSlot
  repeat' first
    | (show List.all _ _ = true; decide)
    | with_reducible exact only_refl _ _
    | with_reducible apply only_step (state_updBind_only ..)

theorem setPhase_only (s : State) (b : Nat) (l : List (Fld × Nat)) : OnlyChanges [.binds] s (setPhase s b l) := by
  unfold setPhase
  repeat' first
    | (show List.all _ _ = true; decide)
    | with_reducible exact only_refl _ _
    | with_reducible apply only_step (state_updBind_only ..)

theorem noteLayer_only (s : State) (b l : Nat) : OnlyChanges [.binds] s (noteLayer s b l) := by
  unfold noteLayer
  repeat' first
    | (show List.all _ _ = true; decide)
    | with_reducible exact only_refl _ _
    | with_reducible apply only_step (setPhase_only ..)
    | split

theorem mirrorMessage_only (s : State) (n bytes : Nat) : OnlyChanges [.dirty, .bank, .reqx, .objs, .objx, .binds,
    .cores, .fab, .mirrors, .out, .free] s (mirrorMessage s n bytes) := by
  unfold mirrorMessage
  repeat' first
    | (show List.all _ _ = true; decide)
    | extract_lets
    | with_reducible exact only_refl _ _
    | with_reducible apply only_step (message_only ..)
    | with_reducible apply only_step (state_setMir_only ..)

theorem sendJournal_only (s : State) (n : Nat) (items : List JournalItem) : OnlyChanges [.dirty, .bank, .reqx,
    .objs, .objx, .binds, .cores, .fab, .mirrors, .out, .free] s (sendJournal s n items) := by
  unfold sendJournal
  repeat' first
    | (show List.all _ _ = true; decide)
    | with_reducible exact only_refl _ _
    | with_reducible apply only_step (mirrorMessage_only ..)
    | with_reducible apply only_step (state_emit_only ..)
    | split

theorem tellMirror_only (s : State) (n code arg : Nat) (w : BitVec 256) : OnlyChanges [.dirty, .bank, .reqx, .objs,
    .objx, .binds, .cores, .fab, .mirrors, .out, .free] s (tellMirror s n code arg w) := by
  unfold tellMirror
  repeat' first
    | (show List.all _ _ = true; decide)
    | with_reducible exact only_refl _ _
    | with_reducible apply only_step (mirrorMessage_only ..)
    | with_reducible apply only_step (state_emit_only ..)

theorem dupRiser_only (s : State) (slot k n : Nat) : OnlyChanges [.dirty, .bank, .reqx, .objs, .objx, .binds,
    .cores, .fab, .mirrors, .out, .free] s (dupRiser s slot k n) := by
  unfold dupRiser
  repeat' first
    | (show List.all _ _ = true; decide)
    | with_reducible exact only_refl _ _
    | with_reducible apply only_step (sendJournal_only ..)
    | split

theorem applyDue_only (s : State) (b : Nat) : OnlyChanges [.mem, .wordErr, .dirty, .seats, .bank, .reqs, .reqx,
    .objs, .objx, .binds, .cores, .fab, .mirrors, .out] s (applyDue s b) := by
  unfold applyDue
  repeat' first
    | (show List.all _ _ = true; decide)
    | extract_lets y1 y2 y3 y4 y5
    | intro _
    | with_reducible exact only_refl _ _
    | with_reducible assumption
    | with_reducible apply only_step (ptHeader_only ..)
    | with_reducible apply only_step (ptWrite_only ..)
    | with_reducible apply only_step (refAdd_only ..)
    | with_reducible apply only_step (state_updReq_only ..)
    | with_reducible apply only_step (state_updRx_only ..)
    | with_reducible refine only_foldl ?_ ?_
    | split
    | subst y5
    | subst y4

theorem takeWaiting_only (s : State) (b : Nat) : OnlyChanges [.mem, .wordErr, .dirty, .seats, .bank, .reqs, .reqx,
    .objs, .objx, .binds, .ingots, .cores, .fab, .mirrors, .out, .free] s (takeWaiting s b) := by
  unfold takeWaiting
  repeat' first
    | (show List.all _ _ = true; decide)
    | extract_lets
    | intro _
    | with_reducible exact only_refl _ _
    | with_reducible assumption
    | with_reducible apply only_step (endNow_only ..)
    | with_reducible apply only_step (parkSwitch_only ..)
    | with_reducible apply only_step (pauseEffect_only ..)
    | with_reducible apply only_step (resumeSwitch_only ..)
    | with_reducible refine only_foldl ?_ ?_
    | split

theorem dropReserved_only (s : State) (b : Nat) (e : TEnt) : OnlyChanges [.seats, .bank, .reqx, .binds] s
    (dropReserved s b e) := by
  unfold dropReserved
  repeat' first
    | (show List.all _ _ = true; decide)
    | extract_lets
    | intro _
    | with_reducible exact only_refl _ _
    | with_reducible assumption
    | with_reducible apply only_step (freeSet_only ..)
    | with_reducible apply only_step (state_updRx_only ..)
    | with_reducible apply only_step (unreserve_only ..)
    | with_reducible refine only_foldl ?_ ?_

theorem abandonLocal_only (s : State) (b : Nat) : OnlyChanges [.mem, .wordErr, .dirty, .seats, .bank, .reqs, .reqx,
    .objs, .objx, .binds, .slot, .ingots, .cores, .fab, .mirrors, .out, .free] s (abandonLocal s b) := by
  unfold abandonLocal
  repeat' first
    | (show List.all _ _ = true; decide)
    | extract_lets
    | intro _
    | with_reducible exact only_refl _ _
    | with_reducible assumption
    | with_reducible apply only_step (applyDue_only ..)
    | with_reducible apply only_step (deviceEvent_only ..)
    | with_reducible apply only_step (dropReserved_only ..)
    | with_reducible apply only_step (state_updBind_only ..)
    | with_reducible apply only_step (switchObjects_only ..)
    | with_reducible apply only_step (takeWaiting_only ..)
    | with_reducible refine only_foldl ?_ ?_
    | split
    | with_reducible apply only_step (set_slot_only ..)

theorem abandonTurn_only (s : State) (b : Nat) : OnlyChanges [.mem, .wordErr, .dirty, .seats, .bank, .reqs, .reqx,
    .objs, .objx, .binds, .slot, .ingots, .cores, .fab, .mirrors, .out, .free] s (abandonTurn s b) := by
  unfold abandonTurn
  repeat' first
    | (show List.all _ _ = true; decide)
    | extract_lets
    | with_reducible exact only_refl _ _
    | with_reducible apply only_step (abandonLocal_only ..)
    | with_reducible apply only_step (barrierArrive_only ..)
    | with_reducible apply only_step (setBarrier_only ..)
    | with_reducible apply only_step (toKids_only ..)
    | split

theorem discardLeadins_only (s : State) (b : Nat) : OnlyChanges [.binds] s (discardLeadins s b) := by
  unfold discardLeadins
  repeat' first
    | (show List.all _ _ = true; decide)
    | intro _
    | with_reducible exact only_refl _ _
    | with_reducible assumption
    | with_reducible apply only_step (state_countBind_only ..)
    | with_reducible apply only_step (state_updBind_only ..)
    | with_reducible refine only_foldl ?_ ?_
    | split

theorem notePrompt_only (s : State) (b : Nat) (e : TEnt) : OnlyChanges [.seats, .bank, .ingots] s (notePrompt s b
    e) := by
  unfold notePrompt
  repeat' first
    | (show List.all _ _ = true; decide)
    | extract_lets
    | intro _
    | with_reducible exact only_refl _ _
    | with_reducible assumption
    | with_reducible apply only_step (noteBad_only ..)
    | with_reducible apply only_step (state_noteWindow_only ..)
    | with_reducible refine only_foldl ?_ ?_
    | split

theorem writeTables_only (s : State) (ents : List TEnt) (cl : Nat) : OnlyChanges [.mem, .wordErr, .dirty] s
    (writeTables s ents cl) := by
  unfold writeTables
  repeat' first
    | (show List.all _ _ = true; decide)
    | extract_lets
    | with_reducible exact only_refl _ _
    | with_reducible apply only_step (rawWrite_only ..)

theorem embedRows_only (s : State) : OnlyChanges [.mem, .wordErr, .dirty, .free] s (embedRows s) := by
  unfold embedRows
  repeat' first
    | (show List.all _ _ = true; decide)
    | intro _
    | with_reducible exact only_refl _ _
    | with_reducible assumption
    | with_reducible apply only_step (rawWrite_only ..)
    | with_reducible refine only_foldl ?_ ?_
    | with_reducible apply only_step (set_free_only ..)

theorem gatherDone_only (s : State) (b : Nat) : OnlyChanges [.mem, .wordErr, .dirty, .seats, .bank, .binds,
    .ingots, .cores, .clusters, .fab, .free] s (gatherDone s b) := by
  unfold gatherDone
  repeat' first
    | (show List.all _ _ = true; decide)
    | extract_lets
    | intro _
    | with_reducible exact only_refl _ _
    | with_reducible assumption
    | with_reducible apply only_step (embedRows_only ..)
    | with_reducible apply only_step (notePrompt_only ..)
    | with_reducible apply only_step (setPhase_only ..)
    | with_reducible apply only_step (state_updBind_only ..)
    | with_reducible apply only_step (writeTables_only ..)
    | with_reducible refine only_foldl ?_ ?_
    | split
    | with_reducible apply only_step (set_clusters_cores_fab_only ..)

theorem beginRecord_only (s : State) (c i : Nat) : OnlyChanges [.cores] s (beginRecord s c i) := by
  unfold beginRecord
  repeat' first
    | (show List.all _ _ = true; decide)
    | with_reducible exact only_refl _ _
    | with_reducible apply only_step (state_updCore_only ..)

theorem leadTile_only (seat cl : Nat) (s : State) (src dst : Nat) : OnlyChanges [.mem, .wordErr, .dirty, .seats,
    .bank, .reqx, .objs, .objx, .binds, .ingots, .hm, .cores, .fab, .out] s (leadTile seat cl s src dst) := by
  unfold leadTile
  repeat' first
    | (show List.all _ _ = true; decide)
    | extract_lets
    | with_reducible exact only_refl _ _
    | with_reducible apply only_step (countBad_only ..)
    | with_reducible apply only_step (getRange_only ..)
    | with_reducible apply only_step (moverCopy_only ..)
    | with_reducible apply only_step (noteCorr_only ..)
    | with_reducible apply only_step (state_noteWindow_only ..)
    | split

theorem leadStream_only (s : State) (n : Nat) : OnlyChanges [.mem, .wordErr, .dirty, .seats, .bank, .reqx, .objs,
    .objx, .binds, .ingots, .hm, .cores, .fab, .out] s (leadStream s n) := by
  unfold leadStream
  repeat' first
    | (show List.all _ _ = true; decide)
    | intro _
    | with_reducible exact only_refl _ _
    | with_reducible assumption
    | with_reducible apply only_step (leadTile_only ..)
    | with_reducible refine only_foldl ?_ ?_

theorem writeTokens_only (s : State) (b : Nat) (e : TEnt) : OnlyChanges [.mem, .wordErr, .dirty, .bank, .reqx,
    .objs, .objx, .binds, .cores, .fab, .mirrors, .out, .free] s (writeTokens s b e) := by
  unfold writeTokens
  repeat' first
    | (show List.all _ _ = true; decide)
    | extract_lets
    | intro _
    | with_reducible exact only_refl _ _
    | with_reducible assumption
    | with_reducible apply only_step (dupRiser_only ..)
    | with_reducible apply only_step (rawWrite_only ..)
    | with_reducible refine only_foldl ?_ ?_
    | split

theorem storeLogits_only (s : State) (b : Nat) : OnlyChanges [.mem, .wordErr, .dirty, .free] s (storeLogits s b) := by
  unfold storeLogits
  repeat' first
    | (show List.all _ _ = true; decide)
    | extract_lets
    | intro _
    | with_reducible exact only_refl _ _
    | with_reducible assumption
    | with_reducible apply only_step (rawWrite_only ..)
    | with_reducible refine only_foldl ?_ ?_
    | with_reducible apply only_step (set_free_only ..)

theorem releaseSlot_only (s : State) (b : Nat) : OnlyChanges [.slot, .cores, .clusters] s (releaseSlot s b) := by
  unfold releaseSlot
  repeat' first
    | (show List.all _ _ = true; decide)
    | with_reducible exact only_refl _ _
    | with_reducible apply only_step (settleSlot_only ..)
    | split
    | with_reducible apply only_step (set_slot_clusters_cores_only ..)

/-! ## Dice.lean -/

theorem noteRow_only (s : State) (b : Nat) (e : TEnt) (i row : Nat) : OnlyChanges [.seats, .bank, .ingots] s
    (noteRow s b e i row) := by
  unfold noteRow
  repeat' first
    | (show List.all _ _ = true; decide)
    | extract_lets
    | with_reducible exact only_refl _ _
    | with_reducible apply only_step (noteBad_only ..)
    | with_reducible apply only_step (state_noteWindow_only ..)
    | split
    | (show OnlyChanges _ _ (ite _ _ _); split)

theorem drawAt_only (s : State) (b i k row : Nat) : OnlyChanges [.seats, .bank, .binds, .ingots] s (drawAt s b i k
    row) := by
  unfold drawAt
  repeat' first
    | (show List.all _ _ = true; decide)
    | extract_lets
    | with_reducible exact only_refl _ _
    | with_reducible apply only_step (failSlot_only ..)
    | with_reducible apply only_step (noteRow_only ..)
    | with_reducible apply only_step (state_countBind_only ..)
    | with_reducible apply only_step (state_updBind_only ..)
    | split

/-! ## Commit.lean -/

theorem idxInsert_only (s : State) (b p i : Nat) (w : BitVec 256) (toks : List Nat) : OnlyChanges [.mem, .wordErr,
    .dirty, .binds] s (idxInsert s b p i w toks) := by
  unfold idxInsert
  repeat' first
    | (show List.all _ _ = true; decide)
    | extract_lets
    | with_reducible exact only_refl _ _
    | with_reducible apply only_step (rawWrite_only ..)
    | with_reducible apply only_step (state_countBind_only ..)
    | with_reducible apply only_step (state_updBind_only ..)
    | split

theorem compactTree_only (s : State) (b : Nat) (e : TEnt) (rows : List Nat) : OnlyChanges [.mem, .wordErr, .dirty,
    .bank, .reqx, .objs, .objx, .binds, .cores, .fab, .mirrors, .out, .free] s (compactTree s b e rows) := by
  unfold compactTree
  repeat' first
    | (show List.all _ _ = true; decide)
    | extract_lets
    | intro _
    | with_reducible exact only_refl _ _
    | with_reducible assumption
    | with_reducible apply only_step (copyEntry_only ..)
    | with_reducible apply only_step (dupRiser_only ..)
    | with_reducible refine only_foldl ?_ ?_
    | split

theorem flushColumn_only (s : State) (b : Nat) (e : TEnt) (keep : Nat) (col : Nat) : OnlyChanges [.mem, .wordErr,
    .dirty, .seats, .bank, .reqx, .objs, .objx, .binds, .cores, .fab, .mirrors, .out] s (flushColumn s b e keep
    col) := by
  unfold flushColumn
  repeat' first
    | (show List.all _ _ = true; decide)
    | extract_lets y1 y2 y3 y4 y5 y6 y7
    | with_reducible exact only_refl _ _
    | with_reducible apply only_step (idxInsert_only ..)
    | with_reducible apply only_step (ptWrite_only ..)
    | with_reducible apply only_step (state_countBind_only ..)
    | with_reducible apply only_step (state_updBind_only ..)
    | with_reducible apply only_step (state_updRx_only ..)
    | split
    | subst y7
    | subst y6

theorem commitSets_only (s : State) (b : Nat) (e : TEnt) (newLen : Nat) : OnlyChanges [.mem, .wordErr, .dirty,
    .seats, .bank, .reqx, .objs, .objx, .binds, .cores, .fab, .mirrors, .out] s (commitSets s b e newLen) := by
  unfold commitSets
  repeat' first
    | (show List.all _ _ = true; decide)
    | extract_lets
    | intro _
    | with_reducible exact only_refl _ _
    | with_reducible assumption
    | with_reducible apply only_step (flushColumn_only ..)
    | with_reducible apply only_step (freeSet_only ..)
    | with_reducible apply only_step (state_updRx_only ..)
    | with_reducible apply only_step (unreserve_only ..)
    | with_reducible refine only_foldl ?_ ?_

theorem endSeed_only (s : State) (b : Nat) (e : TEnt) : OnlyChanges [.mem, .wordErr, .dirty, .reqx, .binds] s
    (endSeed s b e) := by
  unfold endSeed
  repeat' first
    | (show List.all _ _ = true; decide)
    | extract_lets y1 y2 y3 y4
    | with_reducible exact only_refl _ _
    | with_reducible apply only_step (refDrop_only ..)
    | with_reducible apply only_step (state_updRx_only ..)
    | split
    | subst y4
    | subst y3

theorem sampleReq_only (s : State) (slot : Nat) (ttft : Bool) (t : Nat) : OnlyChanges [.hist] s (sampleReq s slot
    ttft t) := by
  unfold sampleReq
  repeat' first
    | (show List.all _ _ = true; decide)
    | extract_lets
    | with_reducible exact only_refl _ _
    | with_reducible apply only_step (set_hist_only ..)

theorem sampleTokens_only (s : State) (slot n time : Nat) : OnlyChanges [.reqx, .hist] s (sampleTokens s slot n
    time) := by
  unfold sampleTokens
  repeat' first
    | (show List.all _ _ = true; decide)
    | extract_lets y1 y2 y3 y4 y5
    | intro _
    | with_reducible exact only_refl _ _
    | with_reducible assumption
    | with_reducible apply only_step (sampleReq_only ..)
    | with_reducible apply only_step (state_updRx_only ..)
    | with_reducible refine only_foldl ?_ ?_
    | split
    | subst y5
    | subst y4
    | subst y3

theorem debit_only (s : State) (n tokens units : Nat) : OnlyChanges [.stakes] s (debit s n tokens units) := by
  unfold debit
  repeat' first
    | (show List.all _ _ = true; decide)
    | extract_lets
    | with_reducible exact only_refl _ _
    | with_reducible apply only_step (state_setStake_only ..)

theorem countDraft_only (s : State) (b turn : Nat) (o : Outcome) : OnlyChanges [.reqx, .binds] s (countDraft s b
    turn o) := by
  unfold countDraft
  repeat' first
    | (show List.all _ _ = true; decide)
    | extract_lets y1 y2 y3 y4 y5
    | with_reducible exact only_refl _ _
    | with_reducible apply only_step (state_countBind_only ..)
    | with_reducible apply only_step (state_setRx_only ..)
    | split
    | subst y5
    | subst y4
    | subst y3

theorem commitEntry_only (turn b time : Nat) (s : State) (o : Outcome) : OnlyChanges [.mem, .wordErr, .dirty,
    .seats, .bank, .reqs, .reqx, .objs, .objx, .binds, .cores, .fab, .mirrors, .out, .free] s (commitEntry turn b
    time s o) := by
  unfold commitEntry
  repeat' first
    | (show List.all _ _ = true; decide)
    | extract_lets y1 y2 y3 y4 y5 y6 y7 y8 y9 y10 y11 y12 y13
    | with_reducible exact only_refl _ _
    | with_reducible apply only_step (commitSets_only ..)
    | with_reducible apply only_step (compactTree_only ..)
    | with_reducible apply only_step (countDraft_only ..)
    | with_reducible apply only_step (dropReserved_only ..)
    | with_reducible apply only_step (endReq_only ..)
    | with_reducible apply only_step (endSeed_only ..)
    | with_reducible apply only_step (endWith_only ..)
    | with_reducible apply only_step (ptHeader_only ..)
    | with_reducible apply only_step (state_countBind_only ..)
    | with_reducible apply only_step (state_updReq_only ..)
    | split
    | subst y13
    | subst y12
    | subst y11
    | subst y10
    | subst y9
    | subst y8
    | subst y7
    | subst y6
    | subst y5
    | subst y4

theorem ringTurn_only (time : Nat) (s : State) (slot : Nat) (o : Option Outcome) : OnlyChanges [.mem, .wordErr,
    .dirty, .seats, .bank, .reqx, .objx, .binds, .ingots, .mirrors] s (ringTurn time s slot o) := by
  unfold ringTurn
  repeat' first
    | (show List.all _ _ = true; decide)
    | extract_lets y1 y2
    | intro _
    | with_reducible exact only_refl _ _
    | with_reducible assumption
    | with_reducible apply only_step (readCons_only ..)
    | with_reducible apply only_step (ringEnd_only ..)
    | with_reducible apply only_step (ringHeader_only ..)
    | with_reducible apply only_step (ringPut_only ..)
    | with_reducible refine only_foldl ?_ ?_
    | split
    | subst y2

theorem sealSeat_only (old : State) (b : Nat) (s : State) (n : Nat) : OnlyChanges [.dirty, .bank, .reqx, .objs,
    .objx, .binds, .cores, .fab, .mirrors, .out, .free] s (sealSeat old b s n) := by
  unfold sealSeat
  repeat' first
    | (show List.all _ _ = true; decide)
    | extract_lets
    | with_reducible exact only_refl _ _
    | with_reducible apply only_step (sendJournal_only ..)
    | with_reducible apply only_step (state_setMir_only ..)
    | with_reducible apply only_step (tellMirror_only ..)
    | split

theorem commitOther_only (time : Nat) (s : State) (n : Nat) : OnlyChanges [.mem, .wordErr, .dirty, .seats, .bank,
    .reqs, .reqx, .objs, .objx, .binds, .cores, .fab, .mirrors, .out, .free] s (commitOther time s n) := by
  unfold commitOther
  repeat' first
    | (show List.all _ _ = true; decide)
    | extract_lets
    | with_reducible exact only_refl _ _
    | with_reducible apply only_step (endReq_only ..)
    | with_reducible apply only_step (parkSwitch_only ..)
    | with_reducible apply only_step (pauseEffect_only ..)
    | with_reducible apply only_step (resumeSwitch_only ..)
    | split

theorem pauseEntry_only (b : Nat) (s : State) (o : Outcome) : OnlyChanges [.mem, .wordErr, .dirty, .seats, .bank,
    .reqs, .reqx, .objs, .objx, .binds, .cores, .fab, .mirrors, .out, .free] s (pauseEntry b s o) := by
  unfold pauseEntry
  repeat' first
    | (show List.all _ _ = true; decide)
    | extract_lets y1 y2
    | with_reducible exact only_refl _ _
    | with_reducible apply only_step (pauseEffect_only ..)
    | with_reducible apply only_step (state_countBind_only ..)
    | split
    | subst y2

theorem commitTurn_only (s : State) (b time : Nat) : OnlyChanges [.mem, .wordErr, .dirty, .seats, .bank, .reqs,
    .reqx, .objs, .objx, .stakes, .hist, .binds, .slot, .ingots, .cores, .fab, .mirrors, .out, .free] s (commitTurn
    s b time) := by
  unfold commitTurn
  repeat' first
    | (show List.all _ _ = true; decide)
    | extract_lets
    | intro _
    | with_reducible exact only_refl _ _
    | with_reducible assumption
    | with_reducible apply only_step (applyDue_only ..)
    | with_reducible apply only_step (closeTurn_only ..)
    | with_reducible apply only_step (commitEntry_only ..)
    | with_reducible apply only_step (commitObjects_only ..)
    | with_reducible apply only_step (commitOther_only ..)
    | with_reducible apply only_step (debit_only ..)
    | with_reducible apply only_step (pauseEntry_only ..)
    | with_reducible apply only_step (refill_only ..)
    | with_reducible apply only_step (ringTurn_only ..)
    | with_reducible apply only_step (ringVector_only ..)
    | with_reducible apply only_step (sampleTokens_only ..)
    | with_reducible apply only_step (sealSeat_only ..)
    | with_reducible apply only_step (settleLost_only ..)
    | with_reducible apply only_step (state_setMir_only ..)
    | with_reducible apply only_step (state_updBind_only ..)
    | with_reducible apply only_step (state_updReq_only ..)
    | with_reducible apply only_step (state_updRx_only ..)
    | with_reducible refine only_foldl ?_ ?_
    | split
    | with_reducible apply only_step (set_bank_only ..)

theorem loseRingWrite_only (s : State) (slot k : Nat) : OnlyChanges [.mem, .wordErr, .dirty, .seats, .bank, .reqs,
    .reqx, .objs, .objx, .binds, .ingots, .cores, .fab, .mirrors, .out, .free] s (loseRingWrite s slot k) := by
  unfold loseRingWrite
  repeat' first
    | (show List.all _ _ = true; decide)
    | extract_lets
    | with_reducible exact only_refl _ _
    | with_reducible apply only_step (ringLost_only ..)
    | with_reducible apply only_step (settleLost_only ..)
    | with_reducible apply only_step (state_updRx_only ..)
    | with_reducible apply only_step (writeMem_only ..)
    | split

theorem releaseAll_only (s : State) (b : Nat) : OnlyChanges [.reqx, .binds] s (releaseAll s b) := by
  unfold releaseAll
  repeat' first
    | (show List.all _ _ = true; decide)
    | extract_lets
    | intro _
    | with_reducible exact only_refl _ _
    | with_reducible assumption
    | with_reducible apply only_step (releaseRun_only ..)
    | with_reducible apply only_step (state_updBind_only ..)
    | with_reducible apply only_step (tailAlloc_only ..)
    | with_reducible refine only_foldl ?_ ?_
    | split

/-! ## Slices.lean -/

theorem opPlan_only (c : Cmd) (s : State) : OnlyChanges [.clk, .mem, .wordErr, .dirty, .seats, .bank, .reqx, .objs,
    .objx, .binds, .cores, .fab, .mirrors, .out] s (opPlan c s).1 := by
  unfold opPlan
  beta_reduce
  extract_lets ylen own st
  clear_value own st
  split
  · exact only_refl _ _
  · split
    · exact only_refl _ _
    · dsimp only
      refine only_step (comparePorts_only ..) rfl ?_
      exact only_step (sendLinkids_only ..) rfl (only_step (set_fab_only s _) rfl (only_refl _ _))

theorem sliceEvent_only (s : State) : OnlyChanges [.seats, .bank, .out] s (sliceEvent s) := by
  unfold sliceEvent
  repeat' first
    | (show List.all _ _ = true; decide)
    | with_reducible exact only_refl _ _
    | with_reducible apply only_step (deviceEvent_only ..)

theorem setSlice_only (s : State) (l : List (Fld × Nat)) : OnlyChanges [.fab] s (setSlice s l) := by
  unfold setSlice
  repeat' first
    | (show List.all _ _ = true; decide)
    | with_reducible exact only_refl _ _
    | with_reducible apply only_step (set_fab_only ..)

theorem formed_only (s : State) (c : Cmd) : OnlyChanges [.fab] s (formed s c) := by
  unfold formed
  repeat' first
    | (show List.all _ _ = true; decide)
    | with_reducible exact only_refl _ _
    | with_reducible apply only_step (set_fab_only ..)

theorem formTake_only (s : State) (port : Nat) (w : BitVec 512) : OnlyChanges [.fab] s (formTake s port w) := by
  unfold formTake
  repeat' first
    | (show List.all _ _ = true; decide)
    | extract_lets
    | with_reducible exact only_refl _ _
    | with_reducible apply only_step (set_fab_only ..)

theorem formSend_only (s : State) : OnlyChanges [.dirty, .bank, .reqx, .objs, .objx, .binds, .cores, .fab, .out] s
    (formSend s) := by
  unfold formSend
  repeat' first
    | (show List.all _ _ = true; decide)
    | extract_lets
    | intro _
    | with_reducible exact only_refl _ _
    | with_reducible assumption
    | with_reducible apply only_step (toParent_only ..)
    | with_reducible refine only_foldl ?_ ?_
    | with_reducible apply only_step (set_fab_only ..)

theorem leaveSlice_only (s : State) (status : Nat) : OnlyChanges [.fab] s (leaveSlice s status) := by
  unfold leaveSlice
  repeat' first
    | (show List.all _ _ = true; decide)
    | extract_lets
    | with_reducible exact only_refl _ _
    | with_reducible apply only_step (setRoutes_only ..)
    | with_reducible apply only_step (set_fab_only ..)

theorem formFail_only (s : State) : OnlyChanges [.seats, .bank, .fab, .out] s (formFail s) := by
  unfold formFail
  repeat' first
    | (show List.all _ _ = true; decide)
    | with_reducible exact only_refl _ _
    | with_reducible apply only_step (leaveSlice_only ..)
    | with_reducible apply only_step (sliceEvent_only ..)

theorem formDone_only (s : State) : OnlyChanges [.mem, .wordErr, .dirty, .seats, .bank, .reqs, .reqx, .objs, .objx,
    .stakes, .binds, .slot, .ingots, .cores, .fab, .mirrors, .out, .free] s (formDone s) := by
  unfold formDone
  repeat' first
    | (show List.all _ _ = true; decide)
    | extract_lets
    | intro _
    | with_reducible exact only_refl _ _
    | with_reducible assumption
    | with_reducible apply only_step (closeIdle_only ..)
    | with_reducible apply only_step (setSlice_only ..)
    | with_reducible apply only_step (sliceEvent_only ..)
    | with_reducible refine only_foldl ?_ ?_

theorem formCheck_only (s : State) : OnlyChanges [.mem, .wordErr, .dirty, .seats, .bank, .reqs, .reqx, .objs,
    .objx, .stakes, .binds, .slot, .ingots, .cores, .fab, .mirrors, .out, .free] s (formCheck s) := by
  unfold formCheck
  repeat' first
    | (show List.all _ _ = true; decide)
    | with_reducible exact only_refl _ _
    | with_reducible apply only_step (formDone_only ..)
    | with_reducible apply only_step (formFail_only ..)
    | with_reducible apply only_step (formSend_only ..)
    | with_reducible apply only_step (toKids_only ..)
    | split

theorem applyForm_only (s : State) (c : Cmd) : OnlyChanges [.mem, .wordErr, .dirty, .seats, .bank, .reqs, .reqx,
    .objs, .objx, .stakes, .binds, .slot, .ingots, .cores, .fab, .mirrors, .out, .free] s (applyForm s c) := by
  unfold applyForm
  repeat' first
    | (show List.all _ _ = true; decide)
    | extract_lets
    | with_reducible exact only_refl _ _
    | with_reducible apply only_step (formCheck_only ..)
    | with_reducible apply only_step (formed_only ..)
    | with_reducible apply only_step (setRoutes_only ..)
    | with_reducible apply only_step (setSlice_only ..)
    | with_reducible apply only_step (set_fab_only ..)

theorem faultBinding_only (s : State) (b : Nat) : OnlyChanges [.mem, .wordErr, .dirty, .seats, .bank, .reqs, .reqx,
    .objs, .objx, .binds, .slot, .ingots, .cores, .fab, .mirrors, .out, .free] s (faultBinding s b) := by
  unfold faultBinding
  repeat' first
    | (show List.all _ _ = true; decide)
    | with_reducible exact only_refl _ _
    | with_reducible apply only_step (abandonLocal_only ..)
    | with_reducible apply only_step (deviceEvent_only ..)
    | with_reducible apply only_step (setPhase_only ..)
    | split

theorem markScatters_only (s : State) (m : Nat) : OnlyChanges [.binds] s (markScatters s m) := by
  unfold markScatters
  repeat' first
    | (show List.all _ _ = true; decide)
    | intro _
    | with_reducible exact only_refl _ _
    | with_reducible assumption
    | with_reducible apply only_step (state_updBind_only ..)
    | with_reducible refine only_foldl ?_ ?_

theorem leaveHeld_only (s : State) : OnlyChanges [.mem, .wordErr, .dirty, .seats, .bank, .reqs, .reqx, .objs,
    .objx, .stakes, .binds, .slot, .ingots, .cores, .fab, .mirrors, .out, .free] s (leaveHeld s) := by
  unfold leaveHeld
  repeat' first
    | (show List.all _ _ = true; decide)
    | extract_lets
    | intro _
    | with_reducible exact only_refl _ _
    | with_reducible assumption
    | with_reducible apply only_step (closeIdle_only ..)
    | with_reducible apply only_step (setSlice_only ..)
    | with_reducible apply only_step (sliceEvent_only ..)
    | with_reducible apply only_step (state_updBind_only ..)
    | with_reducible refine only_foldl ?_ ?_

theorem setCut_only (s : State) (y : Nat) (on : Bool) : OnlyChanges [.clk, .mem, .wordErr, .dirty, .seats, .bank,
    .reqx, .objs, .objx, .binds, .cores, .fab, .mirrors, .out] s (setCut s y on) := by
  unfold setCut
  repeat' first
    | (show List.all _ _ = true; decide)
    | extract_lets
    | with_reducible exact only_refl _ _
    | with_reducible apply only_step (comparePorts_only ..)
    | with_reducible apply only_step (setSlice_only ..)

theorem opSlice_only (c : Cmd) (s : State) : OnlyChanges [.clk, .mem, .wordErr, .dirty, .seats, .bank, .reqs,
    .reqx, .objs, .objx, .stakes, .binds, .slot, .ingots, .cores, .fab, .mirrors, .out, .free] s (opSlice c s).1 := by
  unfold opSlice
  beta_reduce
  repeat' first
    | (show List.all _ _ = true; decide)
    | extract_lets y1 y2 y3
    | intro _
    | with_reducible exact only_refl _ _
    | with_reducible assumption
    | with_reducible apply only_step (applyForm_only ..)
    | with_reducible apply only_step (faultBinding_only ..)
    | with_reducible apply only_step (leaveHeld_only ..)
    | with_reducible apply only_step (leaveSlice_only ..)
    | with_reducible apply only_step (markScatters_only ..)
    | with_reducible apply only_step (setCut_only ..)
    | with_reducible apply only_step (toKids_only ..)
    | with_reducible refine only_foldl ?_ ?_
    | split
    | subst y3

theorem resetAtCommit_only (s : State) (b : Nat) : OnlyChanges [.mem, .wordErr, .dirty, .seats, .bank, .reqs,
    .reqx, .objs, .objx, .binds, .ingots, .cores, .fab, .mirrors, .out, .free] s (resetAtCommit s b) := by
  unfold resetAtCommit
  repeat' first
    | (show List.all _ _ = true; decide)
    | extract_lets
    | intro _
    | with_reducible exact only_refl _ _
    | with_reducible assumption
    | with_reducible apply only_step (endNow_only ..)
    | with_reducible apply only_step (state_updBind_only ..)
    | with_reducible apply only_step (state_updRx_only ..)
    | with_reducible refine only_foldl ?_ ?_
    | split

theorem sliceCommit_only (s : State) (b time : Nat) (hold reset : Bool) : OnlyChanges [.mem, .wordErr, .dirty,
    .seats, .bank, .reqs, .reqx, .objs, .objx, .stakes, .hist, .binds, .slot, .ingots, .cores, .fab, .mirrors,
    .out, .free] s (sliceCommit s b time hold reset) := by
  unfold sliceCommit
  repeat' first
    | (show List.all _ _ = true; decide)
    | extract_lets y1 y2 y3
    | with_reducible exact only_refl _ _
    | with_reducible apply only_step (commitTurn_only ..)
    | with_reducible apply only_step (countSlice_only ..)
    | with_reducible apply only_step (resetAtCommit_only ..)
    | with_reducible apply only_step (setBarrier_only ..)
    | with_reducible apply only_step (setSlice_only ..)
    | with_reducible apply only_step (sliceEvent_only ..)
    | with_reducible apply only_step (state_updBind_only ..)
    | split
    | subst y3
    | subst y2
    | subst y1

theorem leaderCommit_only (s : State) (b : Nat) : OnlyChanges [.mem, .wordErr, .dirty, .seats, .bank, .reqs, .reqx,
    .objs, .objx, .stakes, .hist, .binds, .slot, .ingots, .cores, .fab, .mirrors, .out, .free] s (leaderCommit s b)
    := by
  unfold leaderCommit
  repeat' first
    | (show List.all _ _ = true; decide)
    | extract_lets
    | with_reducible exact only_refl _ _
    | with_reducible apply only_step (sliceCommit_only ..)
    | with_reducible apply only_step (toKids_only ..)

theorem takeTurn_only (s : State) (b : Nat) (entries : List SliceEnt) : OnlyChanges [.binds, .slot] s (takeTurn s b
    entries) := by
  unfold takeTurn
  repeat' first
    | (show List.all _ _ = true; decide)
    | extract_lets
    | with_reducible exact only_refl _ _
    | with_reducible apply only_step (settleSlot_only ..)
    | with_reducible apply only_step (state_updBind_only ..)
    | split

theorem gatherIn_only (s : State) (b port : Nat) (w : BitVec 512) : OnlyChanges [.mem, .wordErr, .dirty, .seats,
    .bank, .reqs, .reqx, .objs, .objx, .stakes, .hist, .binds, .slot, .ingots, .cores, .fab, .mirrors, .out, .free]
    s (gatherIn s b port w) := by
  unfold gatherIn
  repeat' first
    | (show List.all _ _ = true; decide)
    | extract_lets y1 y2 y3 y4
    | with_reducible exact only_refl _ _
    | with_reducible apply only_step (abandonTurn_only ..)
    | with_reducible apply only_step (countSlice_only ..)
    | with_reducible apply only_step (leaderCommit_only ..)
    | with_reducible apply only_step (sendGather_only ..)
    | with_reducible apply only_step (setBarrier_only ..)
    | split
    | subst y4
    | subst y3

theorem resetEnd_only (s : State) : OnlyChanges [.mem, .wordErr, .dirty, .seats, .bank, .reqs, .reqx, .objs, .objx,
    .stakes, .binds, .slot, .ingots, .cores, .fab, .mirrors, .out, .free] s (resetEnd s) := by
  unfold resetEnd
  repeat' first
    | (show List.all _ _ = true; decide)
    | with_reducible exact only_refl _ _
    | with_reducible apply only_step (formDone_only ..)
    | with_reducible apply only_step (set_fab_only ..)

theorem resetCheck_only (s : State) : OnlyChanges [.mem, .wordErr, .dirty, .seats, .bank, .reqs, .reqx, .objs,
    .objx, .stakes, .binds, .slot, .ingots, .cores, .fab, .mirrors, .out, .free] s (resetCheck s) := by
  unfold resetCheck
  repeat' first
    | (show List.all _ _ = true; decide)
    | with_reducible exact only_refl _ _
    | with_reducible apply only_step (resetEnd_only ..)
    | with_reducible apply only_step (toKids_only ..)
    | with_reducible apply only_step (toParent_only ..)
    | split
    | with_reducible apply only_step (set_fab_only ..)

theorem gatherRecord_only (port : Nat) (rec : BitVec 512) (s : State) : OnlyChanges [.mem, .wordErr, .dirty,
    .seats, .bank, .reqs, .reqx, .objs, .objx, .stakes, .hist, .binds, .slot, .ingots, .cores, .fab, .mirrors,
    .out, .free] s (gatherRecord port rec s) := by
  unfold gatherRecord
  repeat' first
    | (show List.all _ _ = true; decide)
    | extract_lets
    | with_reducible exact only_refl _ _
    | with_reducible apply only_step (formCheck_only ..)
    | with_reducible apply only_step (formTake_only ..)
    | with_reducible apply only_step (gatherIn_only ..)
    | with_reducible apply only_step (resetCheck_only ..)
    | split
    | with_reducible apply only_step (set_fab_only ..)

theorem scatterRecord_only (rec : BitVec 512) (entries : List SliceEnt) (s : State) : OnlyChanges [.mem, .wordErr,
    .dirty, .seats, .bank, .reqs, .reqx, .objs, .objx, .stakes, .hist, .binds, .slot, .ingots, .cores, .fab,
    .mirrors, .out, .free] s (scatterRecord rec entries s) := by
  unfold scatterRecord
  repeat' first
    | (show List.all _ _ = true; decide)
    | extract_lets
    | with_reducible exact only_refl _ _
    | with_reducible apply only_step (faultBinding_only ..)
    | with_reducible apply only_step (formDone_only ..)
    | with_reducible apply only_step (formFail_only ..)
    | with_reducible apply only_step (leaveHeld_only ..)
    | with_reducible apply only_step (resetEnd_only ..)
    | with_reducible apply only_step (setBarrier_only ..)
    | with_reducible apply only_step (sliceCommit_only ..)
    | with_reducible apply only_step (takeTurn_only ..)
    | with_reducible apply only_step (toKids_only ..)
    | split

/-! ## Mirrors.lean -/

theorem setMirSt_only (s : State) (n : Nat) (l : List (Fld × Nat)) : OnlyChanges [.mirrors] s (setMirSt s n l) := by
  unfold setMirSt
  repeat' first
    | (show List.all _ _ = true; decide)
    | with_reducible exact only_refl _ _
    | with_reducible apply only_step (state_setMir_only ..)

theorem unpair_only (s : State) (n status : Nat) : OnlyChanges [.mem, .wordErr, .dirty, .seats, .objx, .mirrors,
    .out] s (unpair s n status) := by
  unfold unpair
  repeat' first
    | (show List.all _ _ = true; decide)
    | extract_lets
    | with_reducible exact only_refl _ _
    | with_reducible apply only_step (heldOut_only ..)
    | with_reducible apply only_step (state_setMir_only ..)

theorem adoptTable_only (peer : Nat) (s : State) (e : BitVec 1024) : OnlyChanges [.mem, .wordErr, .dirty, .objx] s
    (adoptTable peer s e) := by
  unfold adoptTable
  repeat' first
    | (show List.all _ _ = true; decide)
    | extract_lets
    | intro _
    | with_reducible exact only_refl _ _
    | with_reducible assumption
    | with_reducible apply only_step (writeMem_only ..)
    | with_reducible refine only_foldl ?_ ?_
    | split

theorem adoptReq_only (s : State) (slot : Nat) : OnlyChanges [.reqs, .reqx] s (adoptReq s slot) := by
  unfold adoptReq
  repeat' first
    | (show List.all _ _ = true; decide)
    | extract_lets y1 y2 y3 y4 y5 y6 y7 y8 y9
    | with_reducible exact only_refl _ _
    | with_reducible apply only_step (pauseCheck_only ..)
    | with_reducible apply only_step (state_updRx_only ..)
    | split
    | subst y9

theorem adoptCharge_only (seat : Nat) (s : State) (slot : Nat) : OnlyChanges [.seats, .bank] s (adoptCharge seat s
    slot) := by
  unfold adoptCharge
  repeat' first
    | (show List.all _ _ = true; decide)
    | extract_lets
    | with_reducible exact only_refl _ _
    | with_reducible apply only_step (state_updSeat_only ..)
    | split
    | with_reducible apply only_step (set_bank_only ..)

theorem adopt_only (peer seat : Nat) (s : State) (slot : Nat) : OnlyChanges [.mem, .wordErr, .dirty, .seats, .bank,
    .reqs, .reqx, .objx] s (adopt peer seat s slot) := by
  unfold adopt
  repeat' first
    | (show List.all _ _ = true; decide)
    | with_reducible exact only_refl _ _
    | with_reducible apply only_step (adoptCharge_only ..)
    | with_reducible apply only_step (adoptReq_only ..)
    | with_reducible apply only_step (adoptTable_only ..)

theorem adoptRuns_only (s : State) (b : Nat) : OnlyChanges [.binds] s (adoptRuns s b) := by
  unfold adoptRuns
  repeat' first
    | (show List.all _ _ = true; decide)
    | extract_lets
    | intro _
    | with_reducible exact only_refl _ _
    | with_reducible assumption
    | with_reducible apply only_step (state_updBind_only ..)
    | with_reducible refine only_foldl ?_ ?_

theorem takeover_only (s : State) (n : Nat) : OnlyChanges [.mem, .wordErr, .dirty, .seats, .bank, .reqs, .reqx,
    .objs, .objx, .stakes, .binds, .slot, .ingots, .cores, .fab, .mirrors, .out, .free] s (takeover s n) := by
  unfold takeover
  repeat' first
    | (show List.all _ _ = true; decide)
    | extract_lets
    | intro _
    | with_reducible exact only_refl _ _
    | with_reducible assumption
    | with_reducible apply only_step (adoptRuns_only ..)
    | with_reducible apply only_step (adopt_only ..)
    | with_reducible apply only_step (closeIdle_only ..)
    | with_reducible apply only_step (state_setMir_only ..)
    | with_reducible apply only_step (tellPark_only ..)
    | with_reducible apply only_step (writeMem_only ..)
    | with_reducible refine only_foldl ?_ ?_

theorem opMirror_only (c : Cmd) (s : State) : OnlyChanges [.mem, .wordErr, .dirty, .seats, .bank, .reqs, .reqx,
    .objs, .objx, .stakes, .binds, .slot, .ingots, .cores, .fab, .mirrors, .out, .free] s (opMirror c s).1 := by
  unfold opMirror
  beta_reduce
  repeat' first
    | (show List.all _ _ = true; decide)
    | extract_lets y1 y2 y3 y4 y5
    | with_reducible exact only_refl _ _
    | with_reducible apply only_step (state_setMir_only ..)
    | with_reducible apply only_step (takeover_only ..)
    | with_reducible apply only_step (tellMirror_only ..)
    | with_reducible apply only_step (unpair_only ..)
    | split
    | subst y5

theorem comparePeer_only (seat role : Nat) (peer : BitVec 256) (s : State) : OnlyChanges [.mem, .wordErr, .dirty,
    .seats, .bank, .reqx, .objs, .objx, .binds, .cores, .fab, .mirrors, .out, .free] s (comparePeer seat role peer
    s) := by
  unfold comparePeer
  repeat' first
    | (show List.all _ _ = true; decide)
    | extract_lets
    | with_reducible exact only_refl _ _
    | with_reducible apply only_step (setMirSt_only ..)
    | with_reducible apply only_step (state_setMir_only ..)
    | with_reducible apply only_step (tellMirror_only ..)
    | with_reducible apply only_step (unpair_only ..)
    | split

theorem applyItem_only (seat binding : Nat) (s : State) (j : JournalItem) : OnlyChanges [.mem, .wordErr, .dirty,
    .reqs, .objx, .stakes, .binds, .mirrors] s (applyItem seat binding s j) := by
  unfold applyItem
  split
  · exact only_step (rawWrite_only ..) rfl (only_refl _ _)
  · exact only_step (state_setReq_only ..) rfl (only_refl _ _)
  · exact only_step (state_updBind_only ..) rfl (only_refl _ _)
  · exact only_step (rawWrite_only ..) rfl (only_refl _ _)
  · exact only_step (state_setStake_only ..) rfl (only_refl _ _)
  · exact only_step (state_setMir_only ..) rfl (only_refl _ _)
  · exact only_step (copyMem_only ..) rfl (only_refl _ _)
  · exact only_step (state_updBind_only ..) rfl (only_refl _ _)

theorem takeJournal_only (seat : Nat) (items : List JournalItem) (s : State) : OnlyChanges [.mem, .wordErr, .dirty,
    .reqs, .objx, .stakes, .binds, .mirrors] s (takeJournal seat items s) := by
  unfold takeJournal
  repeat' first
    | (show List.all _ _ = true; decide)
    | intro _
    | with_reducible exact only_refl _ _
    | with_reducible assumption
    | with_reducible apply only_step (applyItem_only ..)
    | with_reducible apply only_step (state_setMir_only ..)
    | with_reducible refine only_foldl ?_ ?_
    | split

theorem takeSeal_only (seat binding turn : Nat) (s : State) : OnlyChanges [.mem, .wordErr, .dirty, .bank, .reqs,
    .reqx, .objs, .objx, .stakes, .binds, .cores, .fab, .mirrors, .out, .free] s (takeSeal seat binding turn s) := by
  unfold takeSeal
  repeat' first
    | (show List.all _ _ = true; decide)
    | extract_lets
    | intro _
    | with_reducible exact only_refl _ _
    | with_reducible assumption
    | with_reducible apply only_step (applyItem_only ..)
    | with_reducible apply only_step (state_setMir_only ..)
    | with_reducible apply only_step (tellMirror_only ..)
    | with_reducible refine only_foldl ?_ ?_

theorem takeSealAck_only (seat binding turn : Nat) (s : State) : OnlyChanges [.mem, .wordErr, .dirty, .seats,
    .objx, .mirrors, .out] s (takeSealAck seat binding turn s) := by
  unfold takeSealAck
  repeat' first
    | (show List.all _ _ = true; decide)
    | extract_lets
    | with_reducible exact only_refl _ _
    | with_reducible apply only_step (heldOut_only ..)
    | with_reducible apply only_step (state_setMir_only ..)

end Sys2Proof.Laws
end

