-- ==== Sys2Proof/Laws/FramePips.lean ====
section
/-! SUPPORT. What each operation may change: crucibles and pips. -/

namespace Sys2Proof.Laws

open Sys2Proof Sys2Proof.Machine

set_option linter.tactic.unusedName false

/-! ## Crucible.lean -/

theorem failLocal_only (s : State) (kind slot : Nat) : OnlyChanges [.mem, .wordErr, .dirty, .seats, .bank, .reqs,
    .reqx, .objs, .objx, .binds, .slot, .ingots, .cores, .fab, .mirrors, .out, .free] s (failLocal s kind slot) := by
  unfold failLocal
  repeat' first
    | (show List.all _ _ = true; decide)
    | with_reducible exact only_refl _ _
    | with_reducible apply only_step (abandonTurn_only ..)
    | with_reducible apply only_step (failSlot_only ..)
    | split

theorem reject_only (s : State) (i : Nat) (d : BitVec 256) (chip : Nat) : OnlyChanges [.mem, .wordErr, .dirty,
    .seats, .bank, .reqs, .reqx, .objs, .objx, .binds, .slot, .ingots, .cores, .fab, .mirrors, .out, .free] s
    (reject s i d chip) := by
  unfold reject
  repeat' first
    | (show List.all _ _ = true; decide)
    | extract_lets
    | with_reducible exact only_refl _ _
    | with_reducible apply only_step (failLocal_only ..)
    | with_reducible apply only_step (state_countIngot_only ..)
    | split

theorem failQuery_only (s : State) (cl qid : Nat) : OnlyChanges [.binds] s (failQuery s cl qid) := by
  unfold failQuery
  repeat' first
    | (show List.all _ _ = true; decide)
    | with_reducible exact only_refl _ _
    | with_reducible apply only_step (failSlot_only ..)
    | split

theorem discardDisp_only (s : State) (i : Nat) (x : Intake) : OnlyChanges [.mem, .wordErr, .dirty, .seats, .bank,
    .reqs, .reqx, .objs, .objx, .binds, .slot, .ingots, .cores, .fab, .mirrors, .out, .free] s (discardDisp s i x) := by
  unfold discardDisp
  repeat' first
    | (show List.all _ _ = true; decide)
    | extract_lets
    | with_reducible exact only_refl _ _
    | with_reducible apply only_step (failQuery_only ..)
    | with_reducible apply only_step (failSlot_only ..)
    | with_reducible apply only_step (reject_only ..)
    | with_reducible apply only_step (state_emit_only ..)
    | split

theorem sendRow_only (i : Nat) (g : MGroup) (s : State) (p : Nat × Nat) : OnlyChanges [.out, .free] s (sendRow i g
    s p) := by
  unfold sendRow
  repeat' first
    | (show List.all _ _ = true; decide)
    | extract_lets
    | with_reducible exact only_refl _ _
    | with_reducible apply only_step (state_emit_only ..)
    | split
    | with_reducible apply only_step (set_free_only ..)

theorem sendGroups_only (s : State) (i : Nat) : OnlyChanges [.ingots, .out, .free] s (sendGroups s i) := by
  unfold sendGroups
  repeat' first
    | (show List.all _ _ = true; decide)
    | extract_lets
    | intro _
    | with_reducible exact only_refl _ _
    | with_reducible assumption
    | with_reducible apply only_step (sendRow_only ..)
    | with_reducible apply only_step (state_countIngot_only ..)
    | with_reducible apply only_step (state_updIngot_only ..)
    | with_reducible refine only_foldl ?_ ?_
    | split

theorem writeEnt_only (s : State) (i k chip qid : Nat) (words : List W32) : OnlyChanges [.ingots] s (writeEnt s i k
    chip qid words) := by
  unfold writeEnt
  repeat' first
    | (show List.all _ _ = true; decide)
    | extract_lets
    | with_reducible exact only_refl _ _
    | with_reducible apply only_step (state_updIngot_only ..)

theorem takeQuery_only {s t : State} {i : Nat} {x : Intake} (h : takeQuery s i x = some t) : OnlyChanges [.ingots]
    s t := by
  simp only [takeQuery] at h
  split at h
  · cases h
  · split at h
    · cases h
    · cases h
      exact writeEnt_only ..

theorem acceptDesc_only (s : State) (i : Nat) (x : Intake) : OnlyChanges [.binds, .ingots, .pips] s (acceptDesc s i
    x) := by
  unfold acceptDesc
  repeat' first
    | (show List.all _ _ = true; decide)
    | extract_lets
    | with_reducible exact only_refl _ _
    | with_reducible apply only_step (noteLayer_only ..)
    | with_reducible apply only_step (state_countIngot_only ..)
    | with_reducible apply only_step (state_setPip_only ..)
    | with_reducible apply only_step (state_updIngot_only ..)
    | split

theorem takeDesc_only {s t : State} {i n : Nat} {x : Intake} (h : takeDesc s i x = some (t, n)) :
    OnlyChanges [.mem, .wordErr, .dirty, .seats, .bank, .reqs, .reqx, .objs, .objx, .binds, .slot, .ingots, .pips, .cores, .fab, .mirrors, .out, .free] s t := by
  unfold takeDesc at h
  extract_lets d chip g at h
  split at h
  · cases h
    exact only_step (reject_only ..) rfl (only_refl _ _)
  · split at h
    · cases h
    · cases h
      exact only_step (acceptDesc_only ..) rfl (only_refl _ _)

theorem takeRelease_only (s : State) (i : Nat) (x : Intake) : OnlyChanges [.ingots] s (takeRelease s i x) := by
  unfold takeRelease
  repeat' first
    | (show List.all _ _ = true; decide)
    | extract_lets
    | with_reducible exact only_refl _ _
    | with_reducible apply only_step (state_updIngot_only ..)

theorem takeClose_only (s : State) (i : Nat) (x : Intake) : OnlyChanges [.ingots, .out, .free] s (takeClose s i x) := by
  unfold takeClose
  repeat' first
    | (show List.all _ _ = true; decide)
    | extract_lets
    | with_reducible exact only_refl _ _
    | with_reducible apply only_step (sendGroups_only ..)
    | with_reducible apply only_step (state_updIngot_only ..)

theorem takeStatus_only {s t : State} {i n : Nat} {x : Intake} (h : takeStatus s i x = some (t, n)) :
    OnlyChanges [.mem, .wordErr, .dirty, .seats, .bank, .reqs, .reqx, .objs, .objx, .binds, .slot, .ingots, .pips, .cores, .fab, .mirrors, .out, .free] s t := by
  unfold takeStatus at h
  split at h
  · cases h
    exact only_step (discardDisp_only ..) rfl (only_refl _ _)
  · split at h
    · cases h
      exact only_step (noteRefused_only ..) rfl (only_refl _ _)
    · split at h
      · exact only_step (takeDesc_only h) rfl (only_refl _ _)
      · exact only_step (takeDesc_only h) rfl (only_refl _ _)
      · simp only [Option.map_eq_some_iff, Prod.mk.injEq] at h
        obtain ⟨u, hu, rfl, -⟩ := h
        exact only_step (takeQuery_only hu) rfl (only_refl _ _)
      · cases h
        exact only_step (takeClose_only ..) rfl (only_refl _ _)
      · cases h
        exact only_step (takeRelease_only ..) rfl (only_refl _ _)

theorem takePacket_only {s t : State} {i : Nat} {x : Intake} (h : takePacket s i x = some t) : OnlyChanges [.mem,
    .wordErr, .dirty, .seats, .bank, .reqs, .reqx, .objs, .objx, .binds, .slot, .ingots, .pips, .cores, .fab,
    .mirrors, .out, .free] s t := by
  simp only [takePacket, Option.map_eq_some_iff] at h
  obtain ⟨u, hu, h⟩ := h
  have h1 : OnlyChanges [.mem, .wordErr, .dirty, .seats, .bank, .reqs, .reqx, .objs, .objx, .binds, .slot, .ingots, .pips, .cores, .fab, .mirrors, .out, .free] s u.1 := only_step (takeStatus_only (n := u.2) hu) rfl (only_refl _ _)
  split at h
  · cases h
    exact only_step (answer_only ..) rfl h1
  · cases h
    exact h1

theorem intakeGrant_only {s t : State} {i cls : Nat} (h : intakeGrant s i cls = some t) : OnlyChanges [.mem,
    .wordErr, .dirty, .seats, .bank, .reqs, .reqx, .objs, .objx, .binds, .slot, .ingots, .pips, .cores, .fab,
    .mirrors, .out, .free] s t := by
  unfold intakeGrant at h
  split at h
  · cases h
  · simp only [Option.bind_eq_some_iff, Option.map_eq_some_iff] at h
    obtain ⟨x, -, u, hu, rfl⟩ := h
    exact only_step (state_updIngot_only ..) rfl (only_step (takePacket_only hu) rfl (only_refl _ _))

theorem drainIntake_only (i n : Nat) (s : State) : OnlyChanges [.mem, .wordErr, .dirty, .seats, .bank, .reqs,
    .reqx, .objs, .objx, .binds, .slot, .ingots, .pips, .cores, .fab, .mirrors, .out, .free] s (drainIntake i n s) := by
  induction n generalizing s with
  | zero => exact only_refl _ _
  | succ n ih =>
    unfold drainIntake
    split
    · next e =>
      refine only_step (ih _) rfl ?_
      rcases Option.or_eq_some_iff.mp e with h | ⟨-, h⟩ <;> exact intakeGrant_only h
    · exact only_refl _ _

theorem drained_only (s : State) (i : Nat) : OnlyChanges [.mem, .wordErr, .dirty, .seats, .bank, .reqs, .reqx,
    .objs, .objx, .binds, .slot, .ingots, .pips, .cores, .fab, .mirrors, .out, .free] s (drained s i) := by
  unfold drained
  repeat' first
    | (show List.all _ _ = true; decide)
    | with_reducible exact only_refl _ _
    | with_reducible apply only_step (drainIntake_only ..)

theorem arrive_only (i : Nat) (x : Intake) (s : State) : OnlyChanges [.mem, .wordErr, .dirty, .seats, .bank, .reqs,
    .reqx, .objs, .objx, .binds, .slot, .ingots, .pips, .cores, .fab, .mirrors, .out, .free] s (arrive i x s) := by
  unfold arrive
  repeat' first
    | (show List.all _ _ = true; decide)
    | with_reducible exact only_refl _ _
    | with_reducible apply only_step (drained_only ..)
    | with_reducible apply only_step (state_updIngot_only ..)

theorem dispReceived_only (s : State) (x : Intake) (via : Via) : OnlyChanges [.fab] s (dispReceived s x via) := by
  unfold dispReceived
  repeat' first
    | (show List.all _ _ = true; decide)
    | with_reducible exact only_refl _ _
    | with_reducible apply only_step (receivedPackets_only ..)
    | split

theorem sendDisp_only (s : State) (serves : Option Job) (cl chip ingot seat : Nat) (hdr : BitVec 128) (words : List
    W32) : OnlyChanges [.dirty, .bank, .reqx, .objs, .objx, .binds, .cores, .fab, .out] s (sendDisp s serves cl
    chip ingot seat hdr words) := by
  unfold sendDisp
  repeat' first
    | (show List.all _ _ = true; decide)
    | extract_lets
    | with_reducible exact only_refl _ _
    | with_reducible apply only_step (sendParts_only ..)
    | with_reducible apply only_step (state_emit_only ..)
    | split

theorem releaseTo_only (s : State) (b cl chip ingot layer : Nat) : OnlyChanges [.dirty, .bank, .reqx, .objs, .objx,
    .binds, .cores, .fab, .out] s (releaseTo s b cl chip ingot layer) := by
  unfold releaseTo
  repeat' first
    | (show List.all _ _ = true; decide)
    | with_reducible exact only_refl _ _
    | with_reducible apply only_step (sendDisp_only ..)

theorem releaseWeights_only (s : State) (cl : Nat) : OnlyChanges [.dirty, .bank, .reqx, .objs, .objx, .binds,
    .cores, .clusters, .fab, .out] s (releaseWeights s cl) := by
  unfold releaseWeights
  repeat' first
    | (show List.all _ _ = true; decide)
    | extract_lets
    | intro _
    | with_reducible exact only_refl _ _
    | with_reducible assumption
    | with_reducible apply only_step (releaseTo_only ..)
    | with_reducible apply only_step (state_setCluster_only ..)
    | with_reducible refine only_foldl ?_ ?_
    | split

theorem weightRec_only (s : State) (i chip cluster : Nat) (r : Rec) : OnlyChanges [.mem, .wordErr, .dirty, .seats,
    .bank, .reqs, .reqx, .objs, .objx, .binds, .slot, .ingots, .cores, .clusters, .fab, .mirrors, .out, .free] s
    (weightRec s i chip cluster r) := by
  unfold weightRec
  repeat' first
    | (show List.all _ _ = true; decide)
    | extract_lets y1 y2 y3
    | with_reducible exact only_refl _ _
    | with_reducible apply only_step (failLocal_only ..)
    | with_reducible apply only_step (releaseWeights_only ..)
    | with_reducible apply only_step (state_emit_only ..)
    | with_reducible apply only_step (state_updIngot_only ..)
    | split
    | subst y3
    | subst y2

theorem attnRec_only (s : State) (i chip cluster : Nat) (r : Rec) : OnlyChanges [.ingots, .out, .free] s (attnRec s
    i chip cluster r) := by
  unfold attnRec
  repeat' first
    | (show List.all _ _ = true; decide)
    | extract_lets
    | with_reducible exact only_refl _ _
    | with_reducible apply only_step (sendGroups_only ..)
    | with_reducible apply only_step (state_countIngot_only ..)
    | with_reducible apply only_step (state_updIngot_only ..)
    | split
    | (show OnlyChanges _ _ (ite _ _ _); split)

theorem resultRecord_only (i : Nat) (s : State) : OnlyChanges [.mem, .wordErr, .dirty, .seats, .bank, .reqs, .reqx,
    .objs, .objx, .binds, .slot, .ingots, .pips, .cores, .clusters, .fab, .mirrors, .out, .free] s (resultRecord i
    s) := by
  unfold resultRecord
  repeat' first
    | (show List.all _ _ = true; decide)
    | extract_lets
    | with_reducible exact only_refl _ _
    | with_reducible apply only_step (attnRec_only ..)
    | with_reducible apply only_step (drained_only ..)
    | with_reducible apply only_step (state_updIngot_only ..)
    | with_reducible apply only_step (weightRec_only ..)
    | split

theorem pcWaits_only (s : State) : OnlyChanges [.ingots] s (pcWaits s) := by
  unfold pcWaits
  repeat' first
    | (show List.all _ _ = true; decide)
    | intro _
    | with_reducible exact only_refl _ _
    | with_reducible assumption
    | with_reducible apply only_step (state_countIngot_only ..)
    | with_reducible refine only_foldl ?_ ?_

/-! ## Pips.lean -/

theorem markEnded_only (s : State) (p : Nat) : OnlyChanges [.ingots] s (markEnded s p) := by
  unfold markEnded
  repeat' first
    | (show List.all _ _ = true; decide)
    | extract_lets
    | with_reducible exact only_refl _ _
    | with_reducible apply only_step (state_updIngot_only ..)
    | split

theorem pipFault_only (s : State) (p status : Nat) : OnlyChanges [.mem, .wordErr, .dirty, .seats, .bank, .reqs,
    .reqx, .objs, .objx, .binds, .slot, .ingots, .pips, .cores, .fab, .mirrors, .out, .free] s (pipFault s p
    status) := by
  unfold pipFault
  repeat' first
    | (show List.all _ _ = true; decide)
    | extract_lets
    | with_reducible exact only_refl _ _
    | with_reducible apply only_step (drained_only ..)
    | with_reducible apply only_step (markEnded_only ..)
    | with_reducible apply only_step (state_countIngot_only ..)
    | with_reducible apply only_step (state_setPip_only ..)
    | with_reducible apply only_step (state_updIngot_only ..)
    | split
    | with_reducible apply only_step (set_free_only ..)

theorem startDesc_only (s : State) (p : Nat) (d : PDesc) (rest : List PDesc) : OnlyChanges [.mem, .wordErr, .dirty,
    .seats, .bank, .reqs, .reqx, .objs, .objx, .binds, .slot, .ingots, .pips, .cores, .fab, .mirrors, .out, .free]
    s (startDesc s p d rest) := by
  unfold startDesc
  repeat' first
    | (show List.all _ _ = true; decide)
    | extract_lets
    | with_reducible exact only_refl _ _
    | with_reducible apply only_step (drained_only ..)
    | with_reducible apply only_step (state_countIngot_only ..)
    | with_reducible apply only_step (state_setPip_only ..)
    | with_reducible apply only_step (state_updIngot_only ..)
    | with_reducible apply only_step (set_free_only ..)

theorem noteBeat_only (s : State) (k : Nat) (d : PDesc) : OnlyChanges [.bank, .ingots] s (noteBeat s k d) := by
  unfold noteBeat
  repeat' first
    | (show List.all _ _ = true; decide)
    | with_reducible exact only_refl _ _
    | with_reducible apply only_step (countBad_only ..)
    | with_reducible apply only_step (noteUncorr_only ..)
    | with_reducible apply only_step (state_countIngot_only ..)
    | split

theorem takeBeat_only (s : State) (p : Nat) (t : Stream) : OnlyChanges [.mem, .wordErr, .dirty, .seats, .bank,
    .reqs, .reqx, .objs, .objx, .binds, .slot, .ingots, .hm, .pips, .cores, .fab, .mirrors, .out, .free] s
    (takeBeat s p t) := by
  unfold takeBeat
  repeat' first
    | (show List.all _ _ = true; decide)
    | extract_lets
    | with_reducible exact only_refl _ _
    | with_reducible apply only_step (noteBeat_only ..)
    | with_reducible apply only_step (noteCorr_only ..)
    | with_reducible apply only_step (pipFault_only ..)
    | with_reducible apply only_step (state_countIngot_only ..)
    | with_reducible apply only_step (state_setPip_only ..)
    | with_reducible apply only_step (updBankGroup_only ..)
    | split

theorem streamBeat_only (p : Nat) (s : State) : OnlyChanges [.mem, .wordErr, .dirty, .seats, .bank, .reqs, .reqx,
    .objs, .objx, .binds, .slot, .ingots, .hm, .pips, .cores, .fab, .mirrors, .out, .free] s (streamBeat p s) := by
  unfold streamBeat
  repeat' first
    | (show List.all _ _ = true; decide)
    | extract_lets
    | with_reducible exact only_refl _ _
    | with_reducible apply only_step (grantExt_only ..)
    | with_reducible apply only_step (takeBeat_only ..)
    | split

theorem pipIssue_only (s : State) (p : Nat) : OnlyChanges [.ingots, .pips] s (pipIssue s p) := by
  unfold pipIssue
  repeat' first
    | (show List.all _ _ = true; decide)
    | with_reducible exact only_refl _ _
    | with_reducible apply only_step (state_countIngot_only ..)
    | with_reducible apply only_step (state_setPip_only ..)

theorem pipDone_only (s : State) (p : Nat) : OnlyChanges [.mem, .wordErr, .dirty, .seats, .bank, .reqs, .reqx,
    .objs, .objx, .binds, .slot, .ingots, .pips, .cores, .clusters, .fab, .mirrors, .out, .free] s (pipDone s p) := by
  unfold pipDone
  repeat' first
    | (show List.all _ _ = true; decide)
    | extract_lets
    | with_reducible exact only_refl _ _
    | with_reducible apply only_step (drained_only ..)
    | with_reducible apply only_step (markEnded_only ..)
    | with_reducible apply only_step (pipFault_only ..)
    | with_reducible apply only_step (releaseWeights_only ..)
    | with_reducible apply only_step (sendGroups_only ..)
    | with_reducible apply only_step (state_countIngot_only ..)
    | with_reducible apply only_step (state_setPip_only ..)
    | split

theorem spendStall_only (s : State) (p : Nat) : OnlyChanges [.pips] s (spendStall s p) := by
  unfold spendStall
  repeat' first
    | (show List.all _ _ = true; decide)
    | extract_lets
    | with_reducible exact only_refl _ _
    | with_reducible apply only_step (state_setPip_only ..)
    | split

theorem pipsPc_only (pc : Nat) (s : State) : OnlyChanges [.ingots, .pips] s (pipsPc pc s) := by
  unfold pipsPc
  repeat' first
    | (show List.all _ _ = true; decide)
    | extract_lets y1
    | intro _
    | with_reducible exact only_refl _ _
    | with_reducible assumption
    | with_reducible apply only_step (spendStall_only ..)
    | with_reducible apply only_step (state_countIngot_only ..)
    | with_reducible refine only_foldl ?_ ?_
    | split
    | subst y1

end Sys2Proof.Laws
end

