-- ==== Sys2Proof/Laws/FrameCores.lean ====
section
/-! SUPPORT. What each operation may change: the engines of a core, the attention of a cluster, the collective engine, the copies. -/

namespace Sys2Proof.Laws

open Sys2Proof Sys2Proof.Machine

set_option linter.tactic.unusedName false

/-! ## Matrix.lean -/

theorem noteRanges_only (s : State) (l : List (Nat × Nat)) : OnlyChanges [.wordErr, .bank, .ingots, .hm] s
    (noteRanges s l) := by
  unfold noteRanges
  repeat' first
    | (show List.all _ _ = true; decide)
    | intro _
    | with_reducible exact only_refl _ _
    | with_reducible assumption
    | with_reducible apply only_step (noteCorr_only ..)
    | with_reducible refine only_foldl ?_ ?_

theorem engineFault_only (s : State) (b : Nat) (r : Nat × Nat) : OnlyChanges [.mem, .wordErr, .dirty, .seats,
    .bank, .reqs, .reqx, .objs, .objx, .binds, .slot, .ingots, .cores, .fab, .mirrors, .out, .free] s (engineFault
    s b r) := by
  unfold engineFault
  repeat' first
    | (show List.all _ _ = true; decide)
    | with_reducible exact only_refl _ _
    | with_reducible apply only_step (abandonTurn_only ..)
    | with_reducible apply only_step (noteUncorr_only ..)

theorem withRanges_only {l : List Part} {s t : State} {b : Nat} {rs : List (Nat × Nat)} {f : State → State}
    (hl : List.all [.mem, .wordErr, .dirty, .seats, .bank, .reqs, .reqx, .objs, .objx, .binds, .slot, .ingots, .hm, .cores, .fab, .mirrors, .out, .free] l.contains = true) (h : OnlyChanges l s t)
    (hf : ∀ y, OnlyChanges l s y → OnlyChanges l s (f y)) : OnlyChanges l s (withRanges t b rs f) := by
  have hl' := fun p hp => List.all_eq_true.mp hl p hp
  unfold withRanges
  split
  · refine only_step (engineFault_only ..) (List.all_eq_true.mpr (fun p hp => hl' p ?_)) h
    revert hp; revert p; decide
  · refine hf _ (only_step (noteRanges_only ..) (List.all_eq_true.mpr (fun p hp => hl' p ?_)) h)
    revert hp; revert p; decide

theorem beginNext_only (s : State) (b c kind : Nat) : OnlyChanges [.cores] s (beginNext s b c kind) := by
  unfold beginNext
  repeat' first
    | (show List.all _ _ = true; decide)
    | with_reducible exact only_refl _ _
    | with_reducible apply only_step (beginRecord_only ..)
    | split

theorem getTiles_only (c f seat off dst tiles : Nat) (s : State) : OnlyChanges [.dirty, .bank, .reqx, .objs, .objx,
    .binds, .cores, .fab, .out] s (getTiles c f seat off dst tiles s).1 := by
  unfold getTiles
  repeat' first
    | (show List.all _ _ = true; decide)
    | extract_lets
    | intro _
    | with_reducible exact only_refl _ _
    | with_reducible assumption
    | with_reducible apply only_step (getRange_only ..)
    | with_reducible refine only_foldl_fst ?_ ?_

theorem moveTiles_only (s : State) (c seat : Nat) (src dst : W64) (tiles : Nat) : OnlyChanges [.mem, .wordErr,
    .dirty, .bank, .reqx, .objs, .objx, .binds, .ingots, .hm, .cores, .fab, .out] s (moveTiles s c seat src dst
    tiles).1 := by
  unfold moveTiles
  repeat' first
    | (show List.all _ _ = true; decide)
    | extract_lets
    | with_reducible exact only_refl _ _
    | with_reducible apply only_step (getTiles_only ..)
    | with_reducible apply only_step (moverCopy_only ..)
    | with_reducible apply only_step (pushGrants_only ..)
    | with_reducible apply only_step (putPackets_only ..)
    | split

theorem setBits_only (s : State) (x : Split) (l : List Nat) : OnlyChanges [.mem, .wordErr, .dirty, .bank, .objx,
    .ingots, .hm, .fab] s (setBits s x l) := by
  unfold setBits
  repeat' first
    | (show List.all _ _ = true; decide)
    | with_reducible exact only_refl _ _
    | with_reducible apply only_step (orWord_only ..)
    | split

theorem setArrivals_only (s : State) (dst tiles : Nat) : OnlyChanges [.mem, .wordErr, .dirty, .bank, .objx,
    .ingots, .hm, .fab] s (setArrivals s dst tiles) := by
  unfold setArrivals
  repeat' first
    | (show List.all _ _ = true; decide)
    | extract_lets
    | intro _
    | with_reducible exact only_refl _ _
    | with_reducible assumption
    | with_reducible apply only_step (setBits_only ..)
    | with_reducible refine only_foldl ?_ ?_
    | split
    | with_reducible apply only_step (set_fab_only ..)

theorem landMoves_only (s : State) : OnlyChanges [.mem, .wordErr, .dirty, .bank, .objx, .ingots, .hm, .cores, .fab]
    s (landMoves s) := by
  unfold landMoves
  repeat' first
    | (show List.all _ _ = true; decide)
    | extract_lets
    | intro _
    | with_reducible exact only_refl _ _
    | with_reducible assumption
    | with_reducible apply only_step (setArrivals_only ..)
    | with_reducible apply only_step (state_updCore_only ..)
    | with_reducible refine only_foldl ?_ ?_
    | split

theorem weightsLost_only (s : State) : OnlyChanges [.mem, .wordErr, .dirty, .seats, .bank, .reqs, .reqx, .objs,
    .objx, .binds, .slot, .ingots, .cores, .fab, .mirrors, .out, .free] s (weightsLost s) := by
  unfold weightsLost
  repeat' first
    | (show List.all _ _ = true; decide)
    | extract_lets
    | with_reducible exact only_refl _ _
    | with_reducible apply only_step (abandonTurn_only ..)
    | split
    | with_reducible apply only_step (set_cores_only ..)

theorem tileMove_only (c b : Nat) (src dst : W64) (tiles : Nat) (ring : Bool) (s : State) : OnlyChanges [.mem,
    .wordErr, .dirty, .seats, .bank, .reqs, .reqx, .objs, .objx, .binds, .slot, .ingots, .hm, .cores, .fab,
    .mirrors, .out, .free] s (tileMove c b src dst tiles ring s) := by
  unfold tileMove
  repeat' first
    | (show List.all _ _ = true; decide)
    | extract_lets y1 y2 y3 y4 y5 y6
    | with_reducible exact only_refl _ _
    | with_reducible apply only_step (beginNext_only ..)
    | with_reducible apply only_step (countBad_only ..)
    | with_reducible apply only_step (engineFault_only ..)
    | with_reducible apply only_step (moveTiles_only ..)
    | with_reducible apply only_step (noteCorr_only ..)
    | with_reducible apply only_step (setArrivals_only ..)
    | with_reducible apply only_step (state_noteWindow_only ..)
    | with_reducible apply only_step (state_updCore_only ..)
    | split
    | (with_reducible refine only_of_fst (by assumption) ?_)
    | subst y6
    | subst y5
    | subst y4
    | subst y3
    | subst y2

theorem writeBlock_only (s : State) (c : Nat) (wide : Bool) (slot : Nat) (l : List MxElem) : OnlyChanges [.mem,
    .wordErr, .dirty] s (writeBlock s c wide slot l) := by
  unfold writeBlock
  repeat' first
    | (show List.all _ _ = true; decide)
    | with_reducible exact only_refl _ _
    | with_reducible apply only_step (rawWrite_only ..)

theorem setFlags_only (s : State) (c n : Nat) (ovf nanf : Bool) : OnlyChanges [.cores] s (setFlags s c n ovf nanf) := by
  unfold setFlags
  repeat' first
    | (show List.all _ _ = true; decide)
    | extract_lets
    | with_reducible exact only_refl _ _
    | with_reducible apply only_step (state_countCore_only ..)
    | with_reducible apply only_step (state_updCore_only ..)

theorem setSlotStat_only (s : State) (c n : Nat) (w : W32) : OnlyChanges [.cores] s (setSlotStat s c n w) := by
  unfold setSlotStat
  repeat' first
    | (show List.all _ _ = true; decide)
    | with_reducible exact only_refl _ _
    | with_reducible apply only_step (state_updCore_only ..)

theorem spill_only (s : State) (c : Nat) (wide : Bool) (slot entry : Nat) : OnlyChanges [.mem, .wordErr, .dirty,
    .cores] s (spill s c wide slot entry) := by
  unfold spill
  repeat' first
    | (show List.all _ _ = true; decide)
    | extract_lets
    | with_reducible exact only_refl _ _
    | with_reducible apply only_step (rawWrite_only ..)
    | with_reducible apply only_step (setSlotStat_only ..)
    | with_reducible apply only_step (state_countCore_only ..)
    | with_reducible apply only_step (state_updCore_only ..)

theorem blockStep_only (s : State) (c : Nat) (r : MxRun) : OnlyChanges [.mem, .wordErr, .dirty, .binds, .cores] s
    (blockStep s c r) := by
  unfold blockStep
  repeat' first
    | (show List.all _ _ = true; decide)
    | extract_lets y1 y2 y3 y4
    | with_reducible exact only_refl _ _
    | with_reducible apply only_step (noteLayer_only ..)
    | with_reducible apply only_step (setFlags_only ..)
    | with_reducible apply only_step (setSlotStat_only ..)
    | with_reducible apply only_step (spill_only ..)
    | with_reducible apply only_step (state_countCore_only ..)
    | with_reducible apply only_step (state_updCore_only ..)
    | with_reducible apply only_step (writeBlock_only ..)
    | split
    | subst y4

theorem mxEnd_only (s : State) (c : Nat) (r : MxRun) : OnlyChanges [.cores] s (mxEnd s c r) := by
  unfold mxEnd
  repeat' first
    | (show List.all _ _ = true; decide)
    | extract_lets
    | with_reducible exact only_refl _ _
    | with_reducible apply only_step (state_updCore_only ..)

theorem mxRun_only (c n : Nat) (s : State) : OnlyChanges [.mem, .wordErr, .dirty, .seats, .bank, .reqs, .reqx,
    .objs, .objx, .binds, .slot, .ingots, .hm, .cores, .fab, .mirrors, .out, .free] s (mxRun c n s) := by
  induction n generalizing s with
  | zero => exact only_refl _ _
  | succ n ih =>
    unfold mxRun
    split
    · exact only_refl _ _
    · split
      · exact only_refl _ _
      · split
        · exact only_refl _ _
        · extract_lets y1 y2
          refine only_step (ih _) rfl ?_
          have h1 : OnlyChanges [.mem, .wordErr, .dirty, .seats, .bank, .reqs, .reqx, .objs, .objx, .binds, .slot, .ingots, .hm, .cores, .fab, .mirrors, .out, .free] s y1 :=
            withRanges_only rfl (only_refl _ _) (fun y hy => only_step (blockStep_only ..) rfl hy)
          subst y2
          split
          · exact only_step (mxEnd_only ..) rfl h1
          · exact h1

theorem mxInit_only (s : State) (c : Nat) (w : BitVec 256) : OnlyChanges [.mem, .wordErr, .dirty, .cores] s (mxInit
    s c w) := by
  unfold mxInit
  repeat' first
    | (show List.all _ _ = true; decide)
    | extract_lets
    | intro _
    | with_reducible exact only_refl _ _
    | with_reducible assumption
    | with_reducible apply only_step (rawWrite_only ..)
    | with_reducible apply only_step (setSlotStat_only ..)
    | with_reducible refine only_foldl ?_ ?_
    | split

theorem mxFault_only (s : State) (b c : Nat) : OnlyChanges [.mem, .wordErr, .dirty, .seats, .bank, .reqs, .reqx,
    .objs, .objx, .binds, .slot, .ingots, .cores, .fab, .mirrors, .out, .free] s (mxFault s b c) := by
  unfold mxFault
  repeat' first
    | (show List.all _ _ = true; decide)
    | with_reducible exact only_refl _ _
    | with_reducible apply only_step (abandonTurn_only ..)
    | with_reducible apply only_step (state_countCore_only ..)

theorem mxStart_only (s : State) (b c : Nat) (w : BitVec 256) : OnlyChanges [.mem, .wordErr, .dirty, .cores] s
    (mxStart s b c w) := by
  unfold mxStart
  repeat' first
    | (show List.all _ _ = true; decide)
    | extract_lets y1 y2
    | with_reducible exact only_refl _ _
    | with_reducible apply only_step (beginNext_only ..)
    | with_reducible apply only_step (mxInit_only ..)
    | with_reducible apply only_step (state_updCore_only ..)
    | split
    | subst y2

theorem mxMma_only (c b : Nat) (w : BitVec 256) (s : State) : OnlyChanges [.mem, .wordErr, .dirty, .seats, .bank,
    .reqs, .reqx, .objs, .objx, .binds, .slot, .ingots, .hm, .cores, .fab, .mirrors, .out, .free] s (mxMma c b w s)
    := by
  unfold mxMma
  repeat' first
    | (show List.all _ _ = true; decide)
    | with_reducible exact only_refl _ _
    | with_reducible apply only_step (beginNext_only ..)
    | with_reducible apply only_step (mxFault_only ..)
    | with_reducible apply only_step (mxRun_only ..)
    | with_reducible apply only_step (mxStart_only ..)
    | with_reducible apply only_step (state_noteWindow_only ..)
    | with_reducible apply only_step (state_updCore_only ..)
    | split

theorem setStats_only (c : Nat) (w : BitVec 256) (s : State) : OnlyChanges [.cores] s (setStats c w s) := by
  unfold setStats
  repeat' first
    | (show List.all _ _ = true; decide)
    | extract_lets
    | intro _
    | with_reducible exact only_refl _ _
    | with_reducible assumption
    | with_reducible apply only_step (setSlotStat_only ..)
    | with_reducible apply only_step (state_countCore_only ..)
    | with_reducible refine only_foldl ?_ ?_

theorem drainOne_only (c : Nat) (s : State) : OnlyChanges [.mem, .wordErr, .dirty, .seats, .bank, .reqs, .reqx,
    .objs, .objx, .binds, .slot, .ingots, .hm, .cores, .fab, .mirrors, .out, .free] s (drainOne c s) := by
  unfold drainOne
  repeat' first
    | (show List.all _ _ = true; decide)
    | extract_lets
    | intro _
    | with_reducible exact only_refl _ _
    | with_reducible assumption
    | with_reducible apply only_step (rawWrite_only ..)
    | with_reducible apply only_step (state_countCore_only ..)
    | with_reducible apply only_step (state_updCore_only ..)
    | with_reducible apply withRanges_only
    | split

theorem finishBlock_only (c : Nat) (w : BitVec 256) (s : State) (i : Nat) : OnlyChanges [.mem, .wordErr, .dirty,
    .cores] s (finishBlock c w s i) := by
  unfold finishBlock
  repeat' first
    | (show List.all _ _ = true; decide)
    | extract_lets
    | with_reducible exact only_refl _ _
    | with_reducible apply only_step (rawWrite_only ..)
    | with_reducible apply only_step (setFlags_only ..)
    | with_reducible apply only_step (setSlotStat_only ..)
    | with_reducible apply only_step (state_countCore_only ..)
    | with_reducible apply only_step (writeBlock_only ..)

theorem mmaFinish_only (c : Nat) (s : State) : OnlyChanges [.mem, .wordErr, .dirty, .seats, .bank, .reqs, .reqx,
    .objs, .objx, .binds, .slot, .ingots, .hm, .cores, .fab, .mirrors, .out, .free] s (mmaFinish c s) := by
  unfold mmaFinish
  repeat' first
    | (show List.all _ _ = true; decide)
    | extract_lets
    | intro _
    | with_reducible exact only_refl _ _
    | with_reducible assumption
    | with_reducible apply only_step (finishBlock_only ..)
    | with_reducible apply only_step (mxEnd_only ..)
    | with_reducible apply withRanges_only
    | with_reducible refine only_foldl ?_ ?_
    | split

theorem writeRow_only (c : Nat) (w : BitVec 256) (m : Nat) (s : State) (row : List W32) : OnlyChanges [.mem,
    .wordErr, .dirty] s (writeRow c w m s row) := by
  unfold writeRow
  repeat' first
    | (show List.all _ _ = true; decide)
    | extract_lets
    | intro _
    | with_reducible exact only_refl _ _
    | with_reducible assumption
    | with_reducible apply only_step (rawWrite_only ..)
    | with_reducible refine only_foldl ?_ ?_
    | split

theorem riserPut_only {l : List Part} {s t : State} {k : Nat} {f : State → State} (h1 : OnlyChanges l s t)
    (h : OnlyChanges l s (f t)) : OnlyChanges l s (riserPut t k f) := by
  unfold riserPut
  split
  · exact h1
  · exact h

theorem putElem_only (s : State) (r : BitVec 8192) (value : Bool) (k t d code : Nat) : OnlyChanges [.mem, .wordErr,
    .dirty, .objx] s (putElem s r value k t d code) := by
  unfold putElem
  repeat' first
    | (show List.all _ _ = true; decide)
    | extract_lets
    | with_reducible exact only_refl _ _
    | with_reducible apply only_step (rawWrite_only ..)
    | with_reducible apply only_step (writeNib_only ..)
    | with_reducible apply riserPut_only
    | split

theorem putScale_only (s : State) (r : BitVec 8192) (value : Bool) (k t b code : Nat) : OnlyChanges [.mem,
    .wordErr, .dirty] s (putScale s r value k t b code) := by
  unfold putScale
  repeat' first
    | (show List.all _ _ = true; decide)
    | extract_lets
    | with_reducible exact only_refl _ _
    | with_reducible apply only_step (rawWrite_only ..)
    | with_reducible apply riserPut_only

theorem putHead_only (s : State) (r : BitVec 8192) (value : Bool) (k t : Nat) (row : List W32) : OnlyChanges [.mem,
    .wordErr, .dirty, .objx] s (putHead s r value k t row) := by
  unfold putHead
  repeat' first
    | (show List.all _ _ = true; decide)
    | extract_lets
    | intro _
    | with_reducible exact only_refl _ _
    | with_reducible assumption
    | with_reducible apply only_step (putElem_only ..)
    | with_reducible apply only_step (putScale_only ..)
    | with_reducible refine only_foldl ?_ ?_

theorem sendHead_only (s : State) (b c k : Nat) (offs : List Nat) : OnlyChanges [.dirty, .bank, .reqx, .objs,
    .objx, .binds, .cores, .fab, .out] s (sendHead s b c k offs) := by
  unfold sendHead
  repeat' first
    | (show List.all _ _ = true; decide)
    | intro _
    | with_reducible exact only_refl _ _
    | with_reducible assumption
    | with_reducible apply only_step (issue_only ..)
    | with_reducible refine only_foldl ?_ ?_
    | split

theorem riserRow_only (s : State) (b c : Nat) (x : BitVec 128) (m : Nat) (row : List W32) : OnlyChanges [.mem,
    .wordErr, .dirty, .bank, .reqx, .objs, .objx, .binds, .ingots, .cores, .fab, .mirrors, .out, .free] s (riserRow
    s b c x m row).1 := by
  unfold riserRow
  repeat' first
    | (show List.all _ _ = true; decide)
    | extract_lets
    | intro _
    | with_reducible exact only_refl _ _
    | with_reducible assumption
    | with_reducible apply only_step (dupRiser_only ..)
    | with_reducible apply only_step (noteUncorr_only ..)
    | with_reducible apply only_step (putHead_only ..)
    | with_reducible apply only_step (sendHead_only ..)
    | with_reducible refine only_foldl ?_ ?_
    | with_reducible refine only_foldl_fst ?_ ?_
    | split

theorem putAllowed_only (b : Nat) (acc : State × Bool) (parts : List (Nat × List Byte)) :
    OnlyChanges [.mem, .wordErr, .dirty, .seats, .bank, .ingots] acc.1 (putAllowed b acc parts).1 := by
  unfold putAllowed
  refine only_foldl_fst (only_refl _ _) ?_
  intro y a hy
  extract_lets seat
  split
  · exact only_step (noteUncorr_only ..) rfl hy
  · split
    · with_reducible apply only_step (rawWrite_only ..)
      · rfl
      · exact hy
    · with_reducible apply only_step (state_noteWindow_only ..)
      · rfl
      · exact hy

theorem epiStage_only (e : Epi) (mb : Nat) (acc : EpiRows) (x : BitVec 128) :
    OnlyChanges [.mem, .wordErr, .dirty, .seats, .bank, .ingots] acc.1 (epiStage e mb acc x).1 := by
  unfold epiStage
  split
  · exact only_step (putAllowed_only ..) rfl (only_refl _ _)
  · exact only_refl _ _

theorem epiRow_only (e : Epi) (acc : State × Bool) (m : Nat) (row : List W32) :
    OnlyChanges [.mem, .wordErr, .dirty, .seats, .bank, .reqx, .objs, .objx, .binds, .ingots, .cores, .fab, .mirrors, .out, .free] acc.1 (epiRow e acc m row).1 := by
  unfold epiRow
  extract_lets y
  have h : OnlyChanges [.mem, .wordErr, .dirty, .seats, .bank, .reqx, .objs, .objx, .binds, .ingots, .cores, .fab, .mirrors, .out, .free] acc.1 y := only_step (writeRow_only ..) rfl (only_refl _ _)
  repeat' first
    | with_reducible assumption
    | exact only_step (riserRow_only ..) rfl h
    | exact only_step (putAllowed_only ..) rfl h
    | split

theorem epiBlock_only (e : Epi) (acc : State × Bool) (mb : Nat) : OnlyChanges [.mem, .wordErr, .dirty, .seats,
    .bank, .reqx, .objs, .objx, .binds, .ingots, .cores, .fab, .mirrors, .out, .free] acc.1 (epiBlock e acc mb).1 := by
  unfold epiBlock
  extract_lets start a
  have h : OnlyChanges [.mem, .wordErr, .dirty, .seats, .bank, .reqx, .objs, .objx, .binds, .ingots, .cores, .fab, .mirrors, .out, .free] acc.1 a.1 := by
    subst a
    generalize List.filter _ _ = l
    have h0 : OnlyChanges [.mem, .wordErr, .dirty, .seats, .bank, .reqx, .objs, .objx, .binds, .ingots, .cores, .fab, .mirrors, .out, .free] acc.1 start.1 := only_refl _ _
    clear_value start
    induction l generalizing start with
    | nil => exact h0
    | cons x l ih => exact ih _ (only_step (epiStage_only ..) rfl h0)
  clear_value a
  generalize a.2.2.zipIdx = l
  refine only_foldl_fst h (fun y a hy => only_step (epiRow_only ..) rfl hy)

theorem riserWrote_only (s : State) (e : Epi) : OnlyChanges [.binds] s (riserWrote s e) := by
  unfold riserWrote
  repeat' first
    | (show List.all _ _ = true; decide)
    | with_reducible exact only_refl _ _
    | with_reducible apply only_step (state_updBind_only ..)
    | split

theorem epilogue_only (e : Epi) (s : State) : OnlyChanges [.mem, .wordErr, .dirty, .seats, .bank, .reqs, .reqx,
    .objs, .objx, .binds, .slot, .ingots, .hm, .cores, .fab, .mirrors, .out, .free] s (epilogue e s) := by
  unfold epilogue
  repeat' first
    | (show List.all _ _ = true; decide)
    | extract_lets y1 y2 y3 y4
    | intro _
    | with_reducible exact only_refl _ _
    | with_reducible assumption
    | with_reducible apply only_step (abandonTurn_only ..)
    | with_reducible apply only_step (epiBlock_only ..)
    | with_reducible apply only_step (noteRanges_only ..)
    | with_reducible apply only_step (noteUncorr_only ..)
    | with_reducible apply only_step (riserWrote_only ..)
    | with_reducible apply only_step (state_countCore_only ..)
    | with_reducible apply only_step (state_updCore_only ..)
    | with_reducible refine only_foldl_fst ?_ ?_
    | split
    | subst y4
    | subst y3
    | subst y2
    | subst y1

/-! ## Vector.lean -/

theorem vxStore_only (w : BitVec 256) (row : Nat → List (Nat × List Byte)) (s : State) : OnlyChanges [.mem,
    .wordErr, .dirty] s (vxStore w row s) := by
  unfold vxStore
  repeat' first
    | (show List.all _ _ = true; decide)
    | intro _
    | with_reducible exact only_refl _ _
    | with_reducible assumption
    | with_reducible apply only_step (rawWrite_only ..)
    | with_reducible refine only_foldl ?_ ?_

theorem vxPerform_only (c : Nat) (w : BitVec 256) (row : State → Nat → List (Nat × List Byte)) (s : State) :
    OnlyChanges [.mem, .wordErr, .dirty, .cores, .free] s (vxPerform c w row s) := by
  unfold vxPerform
  repeat' first
    | (show List.all _ _ = true; decide)
    | extract_lets
    | with_reducible exact only_refl _ _
    | with_reducible apply only_step (state_countCore_only ..)
    | with_reducible apply only_step (vxStore_only ..)
    | split
    | with_reducible apply only_step (set_free_only ..)

theorem vxRun_only (c b : Nat) (w : BitVec 256) (row : State → Nat → List (Nat × List Byte)) (s : State) :
    OnlyChanges [.mem, .wordErr, .dirty, .seats, .bank, .reqs, .reqx, .objs, .objx, .binds, .slot, .ingots, .hm,
    .cores, .fab, .mirrors, .out, .free] s (vxRun c b w row s) := by
  unfold vxRun
  repeat' first
    | (show List.all _ _ = true; decide)
    | extract_lets
    | intro _
    | with_reducible exact only_refl _ _
    | with_reducible assumption
    | with_reducible apply only_step (beginNext_only ..)
    | with_reducible apply only_step (engineFault_only ..)
    | with_reducible apply only_step (state_countCore_only ..)
    | with_reducible apply only_step (state_noteWindow_only ..)
    | with_reducible apply only_step (vxPerform_only ..)
    | with_reducible apply withRanges_only
    | split

theorem noteFirst_only (s : State) (k : Nat) : OnlyChanges [.fab] s (noteFirst s k) := by
  unfold noteFirst
  repeat' first
    | (show List.all _ _ = true; decide)
    | with_reducible exact only_refl _ _
    | with_reducible apply only_step (awaitBits_only ..)
    | split

theorem openSplit_only (c : Nat) (x : Split) (s : State) : OnlyChanges [.mem, .wordErr, .dirty, .bank, .objx,
    .ingots, .hm, .cores, .fab] s (openSplit c x s) := by
  unfold openSplit
  extract_lets t hits
  have h1 : OnlyChanges [.mem, .wordErr, .dirty, .bank, .objx, .ingots, .hm, .cores, .fab] s t := only_step (state_updCore_only ..) rfl (only_refl _ _)
  clear_value t hits
  split
  · exact only_step (noteFirst_only ..) rfl h1
  · split
    · exact only_step (awaitBits_only ..) rfl (only_step (setBits_only ..) rfl (only_step (set_fab_only ..) rfl h1))
    · exact only_step (noteFirst_only ..) rfl (only_step (setBits_only ..) rfl (only_step (set_fab_only ..) rfl h1))

theorem splitStep_only (c b : Nat) (wide : Bool) (x : Split) (s : State) : OnlyChanges [.mem, .wordErr, .dirty,
    .seats, .bank, .reqs, .reqx, .objs, .objx, .binds, .slot, .ingots, .hm, .cores, .fab, .mirrors, .out, .free] s
    (splitStep c b wide x s) := by
  unfold splitStep
  repeat' first
    | (show List.all _ _ = true; decide)
    | extract_lets
    | intro _
    | with_reducible exact only_refl _ _
    | with_reducible assumption
    | with_reducible apply only_step (rawWrite_only ..)
    | with_reducible apply only_step (state_countCore_only ..)
    | with_reducible apply only_step (state_updCore_only ..)
    | with_reducible apply withRanges_only
    | split

theorem splitGiveUp_only (s : State) (c : Nat) : OnlyChanges [.mem, .wordErr, .dirty, .seats, .bank, .reqs, .reqx,
    .objs, .objx, .binds, .slot, .ingots, .cores, .fab, .mirrors, .out, .free] s (splitGiveUp s c) := by
  unfold splitGiveUp
  repeat' first
    | (show List.all _ _ = true; decide)
    | with_reducible exact only_refl _ _
    | with_reducible apply only_step (abandonTurn_only ..)
    | with_reducible apply only_step (state_countCore_only ..)
    | with_reducible apply only_step (state_updCore_only ..)
    | split

/-! ## Attention.lean -/

theorem sendQuery_only (s : State) (b en seat cl chip ingot qid : Nat) (vectors : List W32) : OnlyChanges [.dirty,
    .bank, .reqx, .objs, .objx, .binds, .cores, .clusters, .fab, .out] s (sendQuery s b en seat cl chip ingot qid
    vectors) := by
  unfold sendQuery
  repeat' first
    | (show List.all _ _ = true; decide)
    | with_reducible exact only_refl _ _
    | with_reducible apply only_step (sendDisp_only ..)
    | with_reducible apply only_step (state_setCluster_only ..)

theorem sendDesc_only (b en : Nat) (e : TEnt) (w : BitVec 1024) (cl tag k : Nat) (u : AUnit) (acc : Sending) (c :
    ACol) :
    OnlyChanges [.dirty, .bank, .reqx, .objs, .objx, .binds, .cores, .clusters, .fab, .out] acc.s (sendDesc b en e w cl tag k u acc c).s := by
  unfold sendDesc
  extract_lets s0 seat qid at' holds vectors s1 d body s2 s3 s4
  have h1 : OnlyChanges [.dirty, .bank, .reqx, .objs, .objx, .binds, .cores, .clusters, .fab, .out] acc.s s1 := by
    subst s1
    split
    · exact only_refl _ _
    · exact only_step (sendQuery_only ..) rfl (only_refl _ _)
  have h3 : OnlyChanges [.dirty, .bank, .reqx, .objs, .objx, .binds, .cores, .clusters, .fab, .out] acc.s s3 :=
    only_step (state_countBind_only ..) rfl (only_step (sendDisp_only ..) rfl h1)
  show OnlyChanges _ _ s4
  subst s4
  split
  · exact h3
  · exact only_step (state_countBind_only ..) rfl h3

theorem setLastRead_only (s : State) (b : Nat) (e : TEnt) (j : Nat) : OnlyChanges [.binds] s (setLastRead s b e j) := by
  unfold setLastRead
  repeat' first
    | (show List.all _ _ = true; decide)
    | with_reducible exact only_refl _ _
    | with_reducible apply only_step (state_updBind_only ..)
    | split

theorem sendBatch_only (s : State) (b : Nat) (e : TEnt) (w : BitVec 1024) (cl layer en g half : Nat) (l : List AUnit) :
    OnlyChanges [.dirty, .bank, .reqx, .objs, .objx, .binds, .cores, .clusters, .fab, .out] s (sendBatch s b e w cl layer en g half l) := by
  unfold sendBatch
  extract_lets tag l' js s1 items s2
  have h1 : OnlyChanges [.dirty, .bank, .reqx, .objs, .objx, .binds, .cores, .clusters, .fab, .out] s s1 := only_foldl (only_refl _ _) (fun y a hy => only_step (setLastRead_only ..) rfl hy)
  have h2 : OnlyChanges [.dirty, .bank, .reqx, .objs, .objx, .binds, .cores, .clusters, .fab, .out] s s2 := by
    refine only_foldl_by (fun x : Sending => x.s) h1 ?_
    intro y a hy
    exact only_step (sendDesc_only ..) rfl hy
  refine only_foldl h2 ?_
  intro y a hy
  exact only_step (state_setCluster_only ..) rfl (only_step (sendDisp_only ..) rfl hy)

theorem sendReleases_only (s : State) (b cl : Nat) : OnlyChanges [.dirty, .bank, .reqx, .objs, .objx, .binds,
    .cores, .clusters, .fab, .out] s (sendReleases s b cl) := by
  unfold sendReleases
  repeat' first
    | (show List.all _ _ = true; decide)
    | extract_lets
    | intro _
    | with_reducible exact only_refl _ _
    | with_reducible assumption
    | with_reducible apply only_step (releaseTo_only ..)
    | with_reducible apply only_step (state_setCluster_only ..)
    | with_reducible refine only_foldl ?_ ?_

theorem markFault_only (s : State) (b : Nat) (e : TEnt) (detail : Nat) : OnlyChanges [.reqx, .binds] s (markFault s
    b e detail) := by
  unfold markFault
  repeat' first
    | (show List.all _ _ = true; decide)
    | extract_lets y1 y2
    | with_reducible exact only_refl _ _
    | with_reducible apply only_step (countTier_only ..)
    | with_reducible apply only_step (failSlot_only ..)
    | with_reducible apply only_step (state_countBind_only ..)
    | split
    | subst y2

theorem awaitCopy_only (s : State) (cl en lane : Nat) (riser : Bool) : OnlyChanges [.clusters] s (awaitCopy s cl en
    lane riser) := by
  unfold awaitCopy
  repeat' first
    | (show List.all _ _ = true; decide)
    | with_reducible exact only_refl _ _
    | with_reducible apply only_step (state_setCluster_only ..)

theorem withQueries_only {l : List Part} {s t : State} {b : Nat} {rs : List (Nat × Nat)} {f : State → State}
    (hl : List.all [.mem, .wordErr, .dirty, .seats, .bank, .reqs, .reqx, .objs, .objx, .binds, .slot, .ingots, .hm, .cores, .fab, .mirrors, .out, .free] l.contains = true) (h : OnlyChanges l s t)
    (hf : ∀ y, OnlyChanges l s y → OnlyChanges l s (f y)) : OnlyChanges l s (withQueries t b rs f) := by
  have hl' := fun p hp => List.all_eq_true.mp hl p hp
  unfold withQueries
  extract_lets st
  split
  · refine only_step (state_noteWindow_only ..) (List.all_eq_true.mpr (fun p hp => hl' p ?_)) h
    revert hp; revert p; decide
  · refine withRanges_only (List.all_eq_true.mpr (fun p hp => hl' p ?_)) h hf
    revert hp; revert p; decide

theorem countFolds_only (cl n : Nat) (t : Trip) (s : State) : OnlyChanges [.cores] s (countFolds cl n t s) := by
  unfold countFolds
  repeat' first
    | (show List.all _ _ = true; decide)
    | with_reducible exact only_refl _ _
    | with_reducible apply only_step (state_countCore_only ..)

theorem countFinal_only (cl : Nat) (t : Trip) (s : State) : OnlyChanges [.cores] s (countFinal cl t s) := by
  unfold countFinal
  repeat' first
    | (show List.all _ _ = true; decide)
    | with_reducible exact only_refl _ _
    | with_reducible apply only_step (countFolds_only ..)

theorem foldHead_only (cl layer en g row upto : Nat) (s : State) (head : Nat) : OnlyChanges [.cores, .clusters] s
    (foldHead cl layer en g row upto s head) := by
  unfold foldHead
  repeat' first
    | (show List.all _ _ = true; decide)
    | extract_lets
    | with_reducible exact only_refl _ _
    | with_reducible apply only_step (countFolds_only ..)
    | with_reducible apply only_step (state_setCluster_only ..)
    | split

theorem noteNoroute_only (s : State) (b cl lane : Nat) (e : TEnt) : OnlyChanges [.out] s (noteNoroute s b cl lane
    e) := by
  unfold noteNoroute
  repeat' first
    | (show List.all _ _ = true; decide)
    | intro _
    | with_reducible exact only_refl _ _
    | with_reducible assumption
    | with_reducible apply only_step (state_emit_only ..)
    | with_reducible refine only_foldl ?_ ?_

theorem notePair_only (s : State) (b cl lane : Nat) (e : TEnt) : OnlyChanges [.seats, .out] s (notePair s b cl lane
    e) := by
  unfold notePair
  repeat' first
    | (show List.all _ _ = true; decide)
    | with_reducible exact only_refl _ _
    | with_reducible apply only_step (noteNoroute_only ..)
    | with_reducible apply only_step (state_countSeat_only ..)

theorem attentionWalk_only (b cl layer en g : Nat) (e : TEnt) (w : BitVec 1024) (s : State) : OnlyChanges [.mem,
    .wordErr, .dirty, .seats, .bank, .reqs, .reqx, .objs, .objx, .binds, .slot, .ingots, .hm, .cores, .clusters,
    .fab, .mirrors, .out, .free] s (attentionWalk b cl layer en g e w s) := by
  unfold attentionWalk
  repeat' first
    | (show List.all _ _ = true; decide)
    | extract_lets y1 y2 y3 y4 y5 y6 y7 y8 y9
    | intro _
    | with_reducible exact only_refl _ _
    | with_reducible assumption
    | with_reducible apply only_step (foldHead_only ..)
    | with_reducible apply only_step (markFault_only ..)
    | with_reducible apply only_step (notePair_only ..)
    | with_reducible apply only_step (sendBatch_only ..)
    | with_reducible apply only_step (sendReleases_only ..)
    | with_reducible apply only_step (state_setCluster_only ..)
    | with_reducible apply withQueries_only
    | with_reducible refine only_foldl ?_ ?_
    | split
    | subst y9
    | subst y8
    | subst y7
    | subst y6
    | subst y5
    | subst y4
    | subst y3
    | subst y2
    | subst y1

theorem takeTriple_only (b cl : Nat) (a : Await) (h : BitVec 256) (payload : List W32) (s : State) : OnlyChanges
    [.dirty, .bank, .reqx, .objs, .objx, .binds, .cores, .clusters, .fab, .out] s (takeTriple b cl a h payload s) := by
  unfold takeTriple
  repeat' first
    | (show List.all _ _ = true; decide)
    | extract_lets y1 y2 y3 y4 y5 y6 y7
    | with_reducible exact only_refl _ _
    | with_reducible apply only_step (markFault_only ..)
    | with_reducible apply only_step (sendReleases_only ..)
    | with_reducible apply only_step (state_setCluster_only ..)
    | split
    | subst y7
    | subst y6

theorem takeOther_only (b : Nat) (h : BitVec 256) (s : State) : OnlyChanges [.mem, .wordErr, .dirty, .seats, .bank,
    .reqs, .reqx, .objs, .objx, .binds, .slot, .ingots, .cores, .fab, .mirrors, .out, .free] s (takeOther b h s) := by
  unfold takeOther
  repeat' first
    | (show List.all _ _ = true; decide)
    | extract_lets
    | with_reducible exact only_refl _ _
    | with_reducible apply only_step (abandonTurn_only ..)
    | with_reducible apply only_step (markFault_only ..)
    | split

theorem putPartial_only (s : State) (cl layer en g row head first : Nat) (t : Trip) : OnlyChanges [.cores,
    .clusters] s (putPartial s cl layer en g row head first t) := by
  unfold putPartial
  repeat' first
    | (show List.all _ _ = true; decide)
    | extract_lets
    | with_reducible exact only_refl _ _
    | with_reducible apply only_step (countFinal_only ..)
    | with_reducible apply only_step (state_setCluster_only ..)

theorem columnPartial_only (b cl layer en g row head j : Nat) (e : TEnt) (w : BitVec 1024) (s : State) :
    OnlyChanges [.wordErr, .bank, .reqx, .binds, .ingots, .hm, .cores, .clusters] s (columnPartial b cl layer en g
    row head j e w s) := by
  unfold columnPartial
  repeat' first
    | (show List.all _ _ = true; decide)
    | extract_lets y1 y2 y3 y4 y5 y6 y7
    | with_reducible exact only_refl _ _
    | with_reducible apply only_step (markFault_only ..)
    | with_reducible apply only_step (noteCorr_only ..)
    | with_reducible apply only_step (noteUncorr_only ..)
    | with_reducible apply only_step (putPartial_only ..)
    | with_reducible apply only_step (setLastRead_only ..)
    | with_reducible apply only_step (state_countBind_only ..)
    | with_reducible apply only_step (state_setCluster_only ..)
    | split
    | subst y7
    | subst y6

theorem riserPartial_only (b cl layer en g row head : Nat) (e : TEnt) (w : BitVec 1024) (s : State) : OnlyChanges
    [.bank, .reqx, .binds, .ingots, .cores, .clusters] s (riserPartial b cl layer en g row head e w s) := by
  unfold riserPartial
  repeat' first
    | (show List.all _ _ = true; decide)
    | extract_lets y1 y2 y3 y4
    | with_reducible exact only_refl _ _
    | with_reducible apply only_step (markFault_only ..)
    | with_reducible apply only_step (noteUncorr_only ..)
    | with_reducible apply only_step (putPartial_only ..)
    | split
    | subst y4

theorem headOutput_only (b cl layer en g row head : Nat) (w : BitVec 1024) (s : State) : OnlyChanges [.mem,
    .wordErr, .dirty, .seats, .bank, .reqs, .reqx, .objs, .objx, .binds, .slot, .ingots, .cores, .clusters, .fab,
    .mirrors, .out, .free] s (headOutput b cl layer en g row head w s) := by
  unfold headOutput
  repeat' first
    | (show List.all _ _ = true; decide)
    | extract_lets y1 y2 y3 y4 y5 y6 y7 y8 y9
    | with_reducible exact only_refl _ _
    | with_reducible apply only_step (countFinal_only ..)
    | with_reducible apply only_step (countFolds_only ..)
    | with_reducible apply only_step (engineFault_only ..)
    | with_reducible apply only_step (rawWrite_only ..)
    | with_reducible apply only_step (sendReleases_only ..)
    | with_reducible apply only_step (state_countBind_only ..)
    | with_reducible apply only_step (state_noteWindow_only ..)
    | with_reducible apply only_step (state_setCluster_only ..)
    | split
    | subst y9

theorem sendProducts_only (s : State) (cl i : Nat) (w : BitVec 1024) (ds : List (BitVec 256)) : OnlyChanges
    [.clusters, .out] s (sendProducts s cl i w ds) := by
  unfold sendProducts
  repeat' first
    | (show List.all _ _ = true; decide)
    | extract_lets
    | intro _
    | with_reducible exact only_refl _ _
    | with_reducible assumption
    | with_reducible apply only_step (state_emit_only ..)
    | with_reducible apply only_step (state_setCluster_only ..)
    | with_reducible refine only_foldl ?_ ?_

/-! ## Coll.lean -/

theorem setColl_only (s : State) (e : Nat) (x : Option CollRun) : OnlyChanges [.fab] s (setColl s e x) := by
  unfold setColl
  repeat' first
    | (show List.all _ _ = true; decide)
    | with_reducible exact only_refl _ _
    | with_reducible apply only_step (set_fab_only ..)

theorem collFail_only (s : State) (b e : Nat) : OnlyChanges [.mem, .wordErr, .dirty, .seats, .bank, .reqs, .reqx,
    .objs, .objx, .binds, .slot, .ingots, .cores, .fab, .mirrors, .out, .free] s (collFail s b e) := by
  unfold collFail
  repeat' first
    | (show List.all _ _ = true; decide)
    | with_reducible exact only_refl _ _
    | with_reducible apply only_step (abandonTurn_only ..)
    | with_reducible apply only_step (setColl_only ..)
    | with_reducible apply only_step (set_bank_only ..)

theorem collBegin_only (s : State) (b e : Nat) (w : BitVec 512) : OnlyChanges [.fab] s (collBegin s b e w) := by
  unfold collBegin
  repeat' first
    | (show List.all _ _ = true; decide)
    | extract_lets
    | with_reducible exact only_refl _ _
    | with_reducible apply only_step (setColl_only ..)
    | split
    | with_reducible apply only_step (set_fab_only ..)

theorem collPut_only (e b : Nat) (w : BitVec 512) (s : State) : OnlyChanges [.mem, .wordErr, .dirty, .seats, .bank,
    .reqs, .reqx, .objs, .objx, .binds, .slot, .ingots, .hm, .cores, .fab, .mirrors, .out, .free] s (collPut e b w
    s) := by
  unfold collPut
  repeat' first
    | (show List.all _ _ = true; decide)
    | extract_lets
    | with_reducible exact only_refl _ _
    | with_reducible apply only_step (collFail_only ..)
    | with_reducible apply only_step (issue_only ..)
    | with_reducible apply only_step (moverCopy_only ..)
    | with_reducible apply only_step (noteCorr_only ..)
    | with_reducible apply only_step (noteUncorr_only ..)
    | with_reducible apply only_step (orWord_only ..)
    | with_reducible apply only_step (putPackets_only ..)
    | with_reducible apply only_step (setColl_only ..)
    | split

theorem collWait_only (e b : Nat) (w : BitVec 512) (s : State) : OnlyChanges [.mem, .wordErr, .dirty, .seats,
    .bank, .reqs, .reqx, .objs, .objx, .binds, .slot, .ingots, .cores, .fab, .mirrors, .out, .free] s (collWait e b
    w s) := by
  unfold collWait
  repeat' first
    | (show List.all _ _ = true; decide)
    | extract_lets
    | with_reducible exact only_refl _ _
    | with_reducible apply only_step (collFail_only ..)
    | with_reducible apply only_step (noteUncorr_only ..)
    | with_reducible apply only_step (setColl_only ..)
    | split

theorem collResult_only (e b : Nat) (w : BitVec 512) (len : Nat) (result : List Byte → List Byte) (s : State) :
    OnlyChanges [.mem, .wordErr, .dirty, .seats, .bank, .reqs, .reqx, .objs, .objx, .binds, .slot, .ingots, .hm,
    .cores, .fab, .mirrors, .out, .free] s (collResult e b w len result s) := by
  unfold collResult
  repeat' first
    | (show List.all _ _ = true; decide)
    | extract_lets
    | with_reducible exact only_refl _ _
    | with_reducible apply only_step (collFail_only ..)
    | with_reducible apply only_step (moverWrite_only ..)
    | with_reducible apply only_step (noteCorr_only ..)
    | with_reducible apply only_step (noteUncorr_only ..)
    | with_reducible apply only_step (setColl_only ..)
    | split

/-! ## Jobs.lean -/

theorem tierFault_only (s : State) (slot detail : Nat) : OnlyChanges [.mem, .wordErr, .dirty, .seats, .bank, .reqs,
    .reqx, .objs, .objx, .binds, .ingots, .cores, .fab, .mirrors, .out, .free] s (tierFault s slot detail) := by
  unfold tierFault
  repeat' first
    | (show List.all _ _ = true; decide)
    | with_reducible exact only_refl _ _
    | with_reducible apply only_step (countTier_only ..)
    | with_reducible apply only_step (faultReq_only ..)
    | split

theorem copyFault_only (s : State) (slot st lost : Nat) : OnlyChanges [.mem, .wordErr, .dirty, .seats, .bank,
    .reqs, .reqx, .objs, .objx, .binds, .ingots, .cores, .fab, .mirrors, .out, .free] s (copyFault s slot st lost) := by
  unfold copyFault
  repeat' first
    | (show List.all _ _ = true; decide)
    | with_reducible exact only_refl _ _
    | with_reducible apply only_step (faultReq_only ..)
    | with_reducible apply only_step (state_noteWindow_only ..)
    | with_reducible apply only_step (tierFault_only ..)
    | split

theorem seedEntries_only (s : State) (b src dst count : Nat) : OnlyChanges [.mem, .wordErr, .dirty, .objx] s
    (seedEntries s b src dst count) := by
  have put : ∀ (u : State) (l : List Byte), OnlyChanges [.mem] u { u with mem := memPut u.mem src l } := by
    intro u l
    refine ⟨?_, fun h => wf_memPut src l h⟩
    intro p hp; cases p <;> first | rfl | exact absurd (by decide) hp
  unfold seedEntries
  extract_lets r
  split
  · exact only_step (copyEntries_only ..) rfl (only_refl _ _)
  · exact only_step (put _ _) rfl (only_step (copyEntries_only ..) rfl (only_step (put s _) rfl (only_refl _ _)))

theorem copyLane_only (s : State) (b lane : Nat) (c : Copy) : OnlyChanges [.mem, .wordErr, .dirty, .seats, .bank,
    .reqs, .reqx, .objs, .objx, .binds, .ingots, .hm, .cores, .fab, .mirrors, .out, .free] s (copyLane s b lane c) := by
  unfold copyLane
  repeat' first
    | (show List.all _ _ = true; decide)
    | extract_lets
    | with_reducible exact only_refl _ _
    | with_reducible apply only_step (copyFault_only ..)
    | with_reducible apply only_step (dupRiser_only ..)
    | with_reducible apply only_step (moveTile_only ..)
    | with_reducible apply only_step (noteCorr_only ..)
    | with_reducible apply only_step (noteUncorr_only ..)
    | with_reducible apply only_step (pushGrants_only ..)
    | with_reducible apply only_step (seedEntries_only ..)
    | split

theorem failedCopy_only (s : State) (c : Copy) : OnlyChanges [.mem, .wordErr, .dirty, .seats, .bank, .reqs, .reqx,
    .objs, .objx, .binds, .ingots, .cores, .fab, .mirrors, .out, .free] s (failedCopy s c) := by
  unfold failedCopy
  repeat' first
    | (show List.all _ _ = true; decide)
    | with_reducible exact only_refl _ _
    | with_reducible apply only_step (copyFault_only ..)
    | split

theorem flushLane_only (s : State) (b lane : Nat) (c : Copy) : OnlyChanges [.seats, .bank, .binds] s (flushLane s b
    lane c) := by
  unfold flushLane
  repeat' first
    | (show List.all _ _ = true; decide)
    | extract_lets
    | with_reducible exact only_refl _ _
    | with_reducible apply only_step (freeSet_only ..)
    | with_reducible apply only_step (state_updBind_only ..)
    | split

theorem flushCopy_only (s : State) (b lane : Nat) (c : Copy) : OnlyChanges [.mem, .wordErr, .dirty, .seats, .bank,
    .reqs, .reqx, .objs, .objx, .binds, .ingots, .hm, .cores, .fab, .mirrors, .out, .free] s (flushCopy s b lane c)
    := by
  unfold flushCopy
  repeat' first
    | (show List.all _ _ = true; decide)
    | extract_lets
    | with_reducible exact only_refl _ _
    | with_reducible apply only_step (copyLane_only ..)
    | with_reducible apply only_step (flushLane_only ..)
    | with_reducible apply only_step (state_updBind_only ..)
    | split

theorem seedLane_only (s : State) (b lane : Nat) (c : Copy) : OnlyChanges [.binds] s (seedLane s b lane c) := by
  unfold seedLane
  repeat' first
    | (show List.all _ _ = true; decide)
    | with_reducible exact only_refl _ _
    | with_reducible apply only_step (state_updBind_only ..)
    | split

theorem tailLanes_only (s : State) (b : Nat) (c : Copy) : OnlyChanges [.mem, .wordErr, .dirty, .seats, .bank,
    .reqs, .reqx, .objs, .objx, .binds, .ingots, .hm, .cores, .fab, .mirrors, .out, .free] s (tailLanes s b c) := by
  unfold tailLanes
  repeat' first
    | (show List.all _ _ = true; decide)
    | intro _
    | with_reducible exact only_refl _ _
    | with_reducible assumption
    | with_reducible apply only_step (copyLane_only ..)
    | with_reducible refine only_foldl ?_ ?_

theorem tailIssue_only (s : State) (b : Nat) (c : Copy) : OnlyChanges [.mem, .wordErr, .dirty, .seats, .bank,
    .reqs, .reqx, .objs, .objx, .binds, .ingots, .hm, .cores, .fab, .mirrors, .out, .free] s (tailIssue s b c) := by
  unfold tailIssue
  repeat' first
    | (show List.all _ _ = true; decide)
    | with_reducible exact only_refl _ _
    | with_reducible apply only_step (state_updBind_only ..)
    | with_reducible apply only_step (tailLanes_only ..)
    | split

theorem runTile_only (s : State) (slot : Nat) (job : Job) (src dst t : Nat) : OnlyChanges [.mem, .wordErr, .dirty,
    .seats, .bank, .reqs, .reqx, .objs, .objx, .binds, .ingots, .hm, .cores, .fab, .mirrors, .out, .free] s
    (runTile s slot job src dst t) := by
  unfold runTile
  repeat' first
    | (show List.all _ _ = true; decide)
    | extract_lets
    | with_reducible exact only_refl _ _
    | with_reducible apply only_step (copyFault_only ..)
    | with_reducible apply only_step (moveTile_only ..)
    | with_reducible apply only_step (noteUncorr_only ..)
    | split

theorem parkTile_only (slot col : Nat) (s : State) : OnlyChanges [.mem, .wordErr, .dirty, .seats, .bank, .reqs,
    .reqx, .objs, .objx, .binds, .ingots, .hm, .cores, .fab, .mirrors, .out, .free] s (parkTile slot col s) := by
  unfold parkTile
  repeat' first
    | (show List.all _ _ = true; decide)
    | with_reducible exact only_refl _ _
    | with_reducible apply only_step (runTile_only ..)
    | with_reducible apply only_step (state_updRx_only ..)
    | split

theorem backTile_only (slot col : Nat) (s : State) : OnlyChanges [.mem, .wordErr, .dirty, .seats, .bank, .reqs,
    .reqx, .objs, .objx, .binds, .ingots, .hm, .cores, .fab, .mirrors, .out, .free] s (backTile slot col s) := by
  unfold backTile
  repeat' first
    | (show List.all _ _ = true; decide)
    | extract_lets
    | with_reducible exact only_refl _ _
    | with_reducible apply only_step (blockMover_only ..)
    | with_reducible apply only_step (runTile_only ..)
    | with_reducible apply only_step (state_updRx_only ..)
    | split

theorem runWork_only (s : State) : OnlyChanges [.mem, .wordErr, .dirty, .seats, .bank, .reqs, .reqx, .objs, .objx,
    .binds, .ingots, .hm, .cores, .fab, .mirrors, .out, .free] s (runWork s) := by
  unfold runWork
  repeat' first
    | (show List.all _ _ = true; decide)
    | extract_lets
    | intro _
    | with_reducible exact only_refl _ _
    | with_reducible assumption
    | with_reducible apply only_step (backTile_only ..)
    | with_reducible apply only_step (parkTile_only ..)
    | with_reducible refine only_foldl ?_ ?_

theorem evicted_only (slot : Nat) (s : State) : OnlyChanges [.mem, .wordErr, .dirty, .seats, .bank, .reqs, .reqx,
    .objs, .objx, .binds, .ingots, .cores, .fab, .mirrors, .out, .free] s (evicted slot s) := by
  unfold evicted
  repeat' first
    | (show List.all _ _ = true; decide)
    | with_reducible exact only_refl _ _
    | with_reducible apply only_step (endNow_only ..)
    | with_reducible apply only_step (state_countBind_only ..)
    | with_reducible apply only_step (state_countDev_only ..)
    | split

theorem freeParked_only (owner id : Nat) (s : State) : OnlyChanges [.dirty, .bank, .reqx, .objs, .objx, .binds,
    .cores, .fab, .out, .free] s (freeParked owner id s) := by
  unfold freeParked
  repeat' first
    | (show List.all _ _ = true; decide)
    | extract_lets
    | intro _
    | with_reducible exact only_refl _ _
    | with_reducible assumption
    | with_reducible apply only_step (state_updOx_only ..)
    | with_reducible apply only_step (tellPark_only ..)
    | with_reducible refine only_foldl ?_ ?_
    | split

theorem hostPlace_only {s t : State} {owner slot tiles n g : Nat} (h : hostPlace s owner slot tiles = some (t, n, g)) :
    OnlyChanges [.dirty, .bank, .reqx, .objs, .objx, .binds, .cores, .fab, .out, .free] s t := by
  unfold hostPlace at h
  obtain ⟨tier, -, h⟩ := List.exists_of_findSome?_eq_some h
  obtain ⟨o, -, h⟩ := List.exists_of_findSome?_eq_some h
  split at h
  · cases h
  · simp only [Option.bind_eq_some_iff, Option.map_eq_some_iff, Prod.mk.injEq] at h
    obtain ⟨u, hu, -, -, rfl, -, -⟩ := h
    exact makeRoom_only hu

theorem hostTake_only (owner seat slot col tiles : Nat) (s : State) :
    OnlyChanges [.dirty, .bank, .reqx, .objs, .objx, .binds, .cores, .fab, .out, .free] s (hostTake owner seat slot col tiles s) := by
  unfold hostTake
  extract_lets place
  have hp : ∀ u n g, place = some (u, n, g) → OnlyChanges [.dirty, .bank, .reqx, .objs, .objx, .binds, .cores, .fab, .out, .free] s u := by
    intro u n g e
    change (ite _ _ _) = _ at e
    split at e
    · exact only_step (hostPlace_only e) rfl (only_refl _ _)
    · cases e
  clear_value place
  split
  · exact only_step (tellPark_only ..) rfl (only_refl _ _)
  · next t n g =>
    have h1 := hp t n g rfl
    refine only_step (tellPark_only ..) rfl (only_step (state_countDev_only ..) rfl (only_step (state_countDev_only ..) rfl ?_))
    exact only_step (state_updOx_only ..) rfl (only_step (set_bank_only ..) rfl h1)

theorem releaseDone_only (s : State) (id : Nat) : OnlyChanges [.reqx, .fab] s (releaseDone s id) := by
  unfold releaseDone
  repeat' first
    | (show List.all _ _ = true; decide)
    | intro _
    | with_reducible exact only_refl _ _
    | with_reducible assumption
    | with_reducible apply only_step (state_updRx_only ..)
    | with_reducible refine only_foldl ?_ ?_
    | with_reducible apply only_step (set_fab_only ..)

theorem changeOwner_only (oldChip newChip seat : Nat) (s : State) : OnlyChanges [.objx] s (changeOwner oldChip
    newChip seat s) := by
  unfold changeOwner
  repeat' first
    | (show List.all _ _ = true; decide)
    | intro _
    | with_reducible exact only_refl _ _
    | with_reducible assumption
    | with_reducible apply only_step (state_updOx_only ..)
    | with_reducible refine only_foldl ?_ ?_

theorem stallWaits_only (s : State) : OnlyChanges [.binds] s (stallWaits s) := by
  unfold stallWaits
  repeat' first
    | (show List.all _ _ = true; decide)
    | with_reducible exact only_refl _ _
    | with_reducible apply only_step (state_countBind_only ..)
    | with_reducible apply only_step (state_updBind_only ..)
    | split

theorem giveUp_only (s : State) (what : Lost) (status : Nat) : OnlyChanges [.mem, .wordErr, .dirty, .seats, .bank,
    .reqs, .reqx, .objs, .objx, .binds, .slot, .ingots, .cores, .fab, .mirrors, .out, .free] s (giveUp s what
    status) := by
  unfold giveUp
  repeat' first
    | (show List.all _ _ = true; decide)
    | extract_lets
    | with_reducible exact only_refl _ _
    | with_reducible apply only_step (abandonTurn_only ..)
    | with_reducible apply only_step (countTier_only ..)
    | with_reducible apply only_step (failSlot_only ..)
    | with_reducible apply only_step (failTile_only ..)
    | with_reducible apply only_step (giveUpJobs_only ..)
    | with_reducible apply only_step (giveUpRequests_only ..)
    | with_reducible apply only_step (splitGiveUp_only ..)
    | with_reducible apply only_step (state_updRx_only ..)
    | with_reducible apply only_step (tierFault_only ..)
    | split

end Sys2Proof.Laws
end

