-- ==== Sys2Proof/Laws/FrameHost.lean ====
section
/-! SUPPORT. What each operation may change: registers, reports, the mailbox service, boot, pins and the root tick. -/

namespace Sys2Proof.Laws

open Sys2Proof Sys2Proof.Machine

set_option linter.tactic.unusedName false

/-! ## Regs.lean -/

theorem setTimeCfg_only (s : State) (v : W64) : OnlyChanges [.clk] s (setTimeCfg s v) := by
  unfold setTimeCfg
  repeat' first
    | (show List.all _ _ = true; decide)
    | extract_lets
    | with_reducible exact only_refl _ _
    | with_reducible apply only_step (setTimeParent_only ..)
    | with_reducible apply only_step (set_clk_only ..)

theorem setOwn_only (s : State) (m : Nat) : OnlyChanges [.mboxes] s (setOwn s m) := by
  unfold setOwn
  repeat' first
    | (show List.all _ _ = true; decide)
    | with_reducible exact only_refl _ _
    | with_reducible apply only_step (state_setMbox_only ..)

theorem regPut_only (s : State) (r : RegAt) (val mask : W64) : OnlyChanges [.clk, .seats, .mboxes, .bank, .ingots]
    s (regPut s r val mask) := by
  unfold regPut
  repeat' first
    | (show List.all _ _ = true; decide)
    | extract_lets
    | with_reducible exact only_refl _ _
    | with_reducible apply only_step (setOwn_only ..)
    | with_reducible apply only_step (setTimeCfg_only ..)
    | with_reducible apply only_step (state_setMbox_only ..)
    | with_reducible apply only_step (state_updIngot_only ..)
    | with_reducible apply only_step (state_updSeat_only ..)
    | split
    | with_reducible apply only_step (set_bank_only ..)

theorem putWord_only (s : State) (e : Nat × W64 × W64) : OnlyChanges [.clk, .seats, .mboxes, .bank, .ingots] s
    (putWord s e) := by
  unfold putWord
  repeat' first
    | (show List.all _ _ = true; decide)
    | with_reducible exact only_refl _ _
    | with_reducible apply only_step (regPut_only ..)
    | split

theorem ctlWrite_only (s : State) (n off len : Nat) (data : BitVec 512) : OnlyChanges [.clk, .seats, .mboxes,
    .bank, .ingots] s (ctlWrite s n off len data).1 := by
  unfold ctlWrite
  repeat' first
    | (show List.all _ _ = true; decide)
    | extract_lets
    | intro _
    | with_reducible exact only_refl _ _
    | with_reducible assumption
    | with_reducible apply only_step (putWord_only ..)
    | with_reducible refine only_foldl ?_ ?_
    | split

theorem avkinCtl_only (n off len : Nat) (data : BitVec 512) (s : State) : OnlyChanges [.clk, .seats, .mboxes,
    .bank, .ingots, .out] s (avkinCtl n off len data s) := by
  unfold avkinCtl
  repeat' first
    | (show List.all _ _ = true; decide)
    | extract_lets
    | with_reducible exact only_refl _ _
    | with_reducible apply only_step (ctlWrite_only ..)
    | with_reducible apply only_step (state_emit_only ..)

theorem avkinForward_only (s : State) (n chip off len : Nat) (write : Bool) (data : BitVec 512) : OnlyChanges
    [.dirty, .bank, .reqx, .objs, .objx, .binds, .cores, .fab, .out] s (avkinForward s n chip off len write data) := by
  unfold avkinForward
  repeat' first
    | (show List.all _ _ = true; decide)
    | intro _
    | with_reducible exact only_refl _ _
    | with_reducible assumption
    | with_reducible apply only_step (issue_only ..)
    | with_reducible refine only_foldl ?_ ?_

theorem noteOutside_only (s : State) (n : Nat) (write : Bool) (a len st : Nat) : OnlyChanges [.seats] s
    (noteOutside s n write a len st) := by
  unfold noteOutside
  repeat' first
    | (show List.all _ _ = true; decide)
    | with_reducible exact only_refl _ _
    | with_reducible apply only_step (state_noteWindow_only ..)
    | split

theorem avkinRead_only (n a len : Nat) (s : State) : OnlyChanges [.mem, .wordErr, .dirty, .seats, .bank, .reqx,
    .objs, .objx, .binds, .ingots, .hm, .cores, .fab, .out] s (avkinRead n a len s) := by
  unfold avkinRead
  repeat' first
    | (show List.all _ _ = true; decide)
    | extract_lets
    | with_reducible exact only_refl _ _
    | with_reducible apply only_step (avkinForward_only ..)
    | with_reducible apply only_step (noteOutside_only ..)
    | with_reducible apply only_step (serveAt_only ..)
    | with_reducible apply only_step (state_emit_only ..)
    | split

theorem avkinWrite_only (n a len : Nat) (data : BitVec 512) (s : State) : OnlyChanges [.clk, .mem, .wordErr,
    .dirty, .seats, .mboxes, .bank, .reqx, .objs, .objx, .binds, .ingots, .hm, .cores, .fab, .out] s (avkinWrite n
    a len data s) := by
  unfold avkinWrite
  repeat' first
    | (show List.all _ _ = true; decide)
    | extract_lets
    | with_reducible exact only_refl _ _
    | with_reducible apply only_step (avkinCtl_only ..)
    | with_reducible apply only_step (avkinForward_only ..)
    | with_reducible apply only_step (noteOutside_only ..)
    | with_reducible apply only_step (serveAt_only ..)
    | with_reducible apply only_step (state_emit_only ..)
    | split

/-! ## Tally.lean -/

theorem waitWrite_only (seat : Nat) (s : State) (e : Nat × List Byte) : OnlyChanges [.ingots] s (waitWrite seat s
    e) := by
  unfold waitWrite
  repeat' first
    | (show List.all _ _ = true; decide)
    | extract_lets
    | with_reducible exact only_refl _ _
    | with_reducible apply only_step (pushExt_only ..)

theorem opTally_only (c : Cmd) (s : State) : OnlyChanges [.mem, .wordErr, .dirty, .bank, .reqx, .objs, .objx,
    .binds, .ingots, .cores, .fab, .out] s (opTally c s).1 := by
  unfold opTally
  beta_reduce
  repeat' first
    | (show List.all _ _ = true; decide)
    | extract_lets
    | intro _
    | with_reducible exact only_refl _ _
    | with_reducible assumption
    | with_reducible apply only_step (extWrite_only ..)
    | with_reducible apply only_step (pushPages_only ..)
    | with_reducible apply only_step (putPackets_only ..)
    | with_reducible apply only_step (waitWrite_only ..)
    | with_reducible refine only_foldl ?_ ?_
    | split

theorem lateReplies_only (s : State) : OnlyChanges [.seats, .mboxes, .bank, .out] s (lateReplies s) := by
  unfold lateReplies
  repeat' first
    | (show List.all _ _ = true; decide)
    | extract_lets
    | intro _
    | with_reducible exact only_refl _ _
    | with_reducible assumption
    | with_reducible apply only_step (respondAt_only ..)
    | with_reducible refine only_foldl ?_ ?_
    | with_reducible apply only_step (set_bank_only ..)

theorem opIdent_only (c : Cmd) (s : State) : OnlyChanges [] s (opIdent c s).1 := by
  unfold opIdent
  beta_reduce
  repeat' first
    | extract_lets
    | with_reducible exact only_refl _ _
    | split

theorem opAttest_only (c : Cmd) (s : State) : OnlyChanges [] s (opAttest c s).1 := by
  unfold opAttest
  beta_reduce
  repeat' first
    | extract_lets
    | with_reducible exact only_refl _ _
    | split

theorem opProbe_only (c : Cmd) (s : State) : OnlyChanges [.pins, .bank] s (opProbe c s).1 := by
  unfold opProbe
  beta_reduce
  repeat' first
    | (show List.all _ _ = true; decide)
    | extract_lets
    | with_reducible exact only_refl _ _
    | with_reducible apply only_step (setSbBits_only ..)
    | split
    | with_reducible apply only_step (set_bank_only ..)
    | with_reducible apply only_step (set_pins_only ..)

/-! ## Service.lean -/

theorem opOf_only {n : Nat} {op : CmdOp} (h : opOf n = some op) (c : Cmd) (s : State) :
    OnlyChanges [.pins, .clk, .mem, .wordErr, .dirty, .seats, .bank, .reqs, .reqx, .objs, .objx, .stakes, .hist, .binds, .slot, .imem, .pipSlots, .ingots, .hm, .cores, .fab, .mirrors, .out, .free] s (op c s).1 := by
  unfold opOf at h
  split at h
  · cases h
    exact only_step (opAdmit_only c s) rfl (only_refl _ _)
  · cases h
    exact only_step (opFeed_only c s) rfl (only_refl _ _)
  · cases h
    exact only_step (opCancel_only c s) rfl (only_refl _ _)
  · cases h
    exact only_step (opPause_only c s) rfl (only_refl _ _)
  · cases h
    exact only_step (opResume_only c s) rfl (only_refl _ _)
  · cases h
    exact only_step (opPlace_only c s) rfl (only_refl _ _)
  · cases h
    exact only_step (opBind_only c s) rfl (only_refl _ _)
  · cases h
    exact only_step (opUnbind_only c s) rfl (only_refl _ _)
  · cases h
    exact only_step (opMould_only c s) rfl (only_refl _ _)
  · cases h
    exact only_step (opStake_only c s) rfl (only_refl _ _)
  · cases h
    exact only_step (opSeatSet_only c s) rfl (only_refl _ _)
  · cases h
    exact only_step (opSeatReset_only c s) rfl (only_refl _ _)
  · cases h
    exact only_step (opPlan_only c s) rfl (only_refl _ _)
  · cases h
    exact only_step (opSlice_only c s) rfl (only_refl _ _)
  · cases h
    exact only_step (opMirror_only c s) rfl (only_refl _ _)
  · cases h
    exact only_step (opTally_only c s) rfl (only_refl _ _)
  · cases h
    exact only_step (opIdent_only c s) rfl (only_refl _ _)
  · cases h
    exact only_step (opAttest_only c s) rfl (only_refl _ _)
  · cases h
    exact only_step (opProbe_only c s) rfl (only_refl _ _)
  · cases h

theorem applyUnknown_only (c : Cmd) (s : State) : OnlyChanges [.seats, .mboxes, .bank, .out] s (applyUnknown c s) := by
  unfold applyUnknown
  repeat' first
    | (show List.all _ _ = true; decide)
    | extract_lets
    | with_reducible exact only_refl _ _
    | with_reducible apply only_step (applyTime_only ..)
    | with_reducible apply only_step (respond_only ..)
    | with_reducible apply only_step (set_bank_only ..)

theorem serve_only (c : Cmd) (s : State) : OnlyChanges [.pins, .clk, .mem, .wordErr, .dirty, .seats, .mboxes,
    .bank, .reqs, .reqx, .objs, .objx, .stakes, .hist, .binds, .slot, .imem, .pipSlots, .ingots, .hm, .cores, .fab,
    .mirrors, .out, .free] s (serve c s) := by
  unfold serve
  split
  · next e => exact applyOrHold_only _ c s rfl (fun s => only_step (opOf_only e c s) rfl (only_refl _ _))
  · exact only_step (applyUnknown_only ..) rfl (only_refl _ _)

theorem mailboxGrant_only (s : State) : OnlyChanges [.pins, .clk, .mem, .wordErr, .dirty, .seats, .mboxes, .bank,
    .reqs, .reqx, .objs, .objx, .stakes, .hist, .binds, .slot, .imem, .pipSlots, .ingots, .hm, .cores, .fab,
    .mirrors, .out, .free] s (mailboxGrant s) := by
  unfold mailboxGrant
  repeat' first
    | (show List.all _ _ = true; decide)
    | extract_lets
    | with_reducible exact only_refl _ _
    | with_reducible apply only_step (grantMb_only ..)
    | with_reducible apply only_step (serve_only ..)
    | split
    | with_reducible apply only_step (set_bank_only ..)

theorem longPrepared_only (m : Nat) (s : State) : OnlyChanges [.pins, .clk, .mem, .wordErr, .dirty, .seats,
    .mboxes, .bank, .reqs, .reqx, .objs, .objx, .stakes, .hist, .binds, .slot, .imem, .pipSlots, .ingots, .hm,
    .cores, .fab, .mirrors, .out, .free] s (longPrepared m s) := by
  unfold longPrepared
  repeat' first
    | (show List.all _ _ = true; decide)
    | with_reducible exact only_refl _ _
    | with_reducible apply only_step (serve_only ..)
    | with_reducible apply only_step (set_bank_only ..)

theorem heldApply_only (s : State) : OnlyChanges [.pins, .clk, .mem, .wordErr, .dirty, .seats, .mboxes, .bank,
    .reqs, .reqx, .objs, .objx, .stakes, .hist, .binds, .slot, .imem, .pipSlots, .ingots, .hm, .cores, .fab,
    .mirrors, .out, .free] s (heldApply s) := by
  unfold heldApply
  split
  · exact only_refl _ _
  · next m e =>
    extract_lets bk t
    have h1 : OnlyChanges [.pins, .clk, .mem, .wordErr, .dirty, .seats, .mboxes, .bank, .reqs, .reqx, .objs, .objx, .stakes, .hist, .binds, .slot, .imem, .pipSlots, .ingots, .hm, .cores, .fab, .mirrors, .out, .free] s t := only_step (set_bank_only s _) rfl (only_refl _ _)
    clear_value t
    split
    · next e =>
      exact only_step (applyCmd_only (l := [.pins, .clk, .mem, .wordErr, .dirty, .seats, .mboxes, .bank, .reqs, .reqx, .objs, .objx, .stakes, .hist, .binds, .slot, .imem, .pipSlots, .ingots, .hm, .cores, .fab, .mirrors, .out, .free]) _ _ true t rfl (fun s => only_step (opOf_only e _ s) rfl (only_refl _ _))) (by decide) h1
    · exact h1

/-! ## Boot.lean -/

theorem resetKeep_only (s : State) : OnlyChanges [.pins, .clk, .boot, .mem, .wordErr, .dirty, .seats, .mboxes,
    .bank, .reqs, .reqx, .objs, .objx, .stakes, .hist, .binds, .slot, .imem, .pipSlots, .ingots, .hm, .pips,
    .cores, .clusters, .fab, .mirrors] s (resetKeep s) := by
  refine ⟨?_, fun h => wf_filter _ h⟩
  intro p hp; cases p <;> first | rfl | exact absurd (by decide) hp

theorem setBoot_only (s : State) (l : List (Fld × Nat)) : OnlyChanges [.pins, .boot, .out] s (setBoot s l) := by
  unfold setBoot
  repeat' first
    | (show List.all _ _ = true; decide)
    | extract_lets
    | with_reducible exact only_refl _ _
    | with_reducible apply only_step (setSbBits_only ..)
    | with_reducible apply only_step (state_emit_only ..)
    | split
    | with_reducible apply only_step (set_boot_only ..)

theorem halt_only (cause : Nat) (s : State) : OnlyChanges [.pins, .boot, .out] s (halt cause s) := by
  unfold halt
  repeat' first
    | (show List.all _ _ = true; decide)
    | with_reducible exact only_refl _ _
    | with_reducible apply only_step (setBoot_only ..)

theorem imageFails_only (cause : Nat) (s : State) : OnlyChanges [.pins, .boot, .out] s (imageFails cause s) := by
  unfold imageFails
  repeat' first
    | (show List.all _ _ = true; decide)
    | with_reducible exact only_refl _ _
    | with_reducible apply only_step (halt_only ..)
    | with_reducible apply only_step (setBoot_only ..)
    | split

theorem release_only (romOk : Bool) (s : State) : OnlyChanges [.pins, .boot, .out] s (release romOk s) := by
  unfold release
  repeat' first
    | (show List.all _ _ = true; decide)
    | extract_lets
    | with_reducible exact only_refl _ _
    | with_reducible apply only_step (halt_only ..)
    | with_reducible apply only_step (setBoot_only ..)
    | split
    | with_reducible apply only_step (set_pins_only ..)

theorem avkinStage_only (lanes : BitVec 16) (s : State) : OnlyChanges [.pins, .boot, .fab, .out] s (avkinStage
    lanes s) := by
  unfold avkinStage
  repeat' first
    | (show List.all _ _ = true; decide)
    | extract_lets
    | with_reducible exact only_refl _ _
    | with_reducible apply only_step (halt_only ..)
    | with_reducible apply only_step (setBoot_only ..)
    | with_reducible apply only_step (setSbBits_only ..)
    | with_reducible apply only_step (trainPort_only ..)
    | split
    | with_reducible apply only_step (set_boot_only ..)

theorem fetchImage_only (s : State) : OnlyChanges [.pins, .boot, .out] s (fetchImage s) := by
  unfold fetchImage
  repeat' first
    | (show List.all _ _ = true; decide)
    | extract_lets
    | with_reducible exact only_refl _ _
    | with_reducible apply only_step (imageFails_only ..)
    | with_reducible apply only_step (setBoot_only ..)
    | split
    | with_reducible apply only_step (set_boot_only ..)

theorem verifyImage_only (s : State) : OnlyChanges [.pins, .boot, .out] s (verifyImage s) := by
  unfold verifyImage
  repeat' first
    | (show List.all _ _ = true; decide)
    | extract_lets
    | with_reducible exact only_refl _ _
    | with_reducible apply only_step (imageFails_only ..)
    | with_reducible apply only_step (setBoot_only ..)
    | split
    | with_reducible apply only_step (set_boot_only ..)

theorem rollbackStage_only (good : Nat) (s : State) : OnlyChanges [.fuses, .pins, .boot, .out] s (rollbackStage
    good s) := by
  unfold rollbackStage
  repeat' first
    | (show List.all _ _ = true; decide)
    | extract_lets
    | with_reducible exact only_refl _ _
    | with_reducible apply only_step (imageFails_only ..)
    | with_reducible apply only_step (setBoot_only ..)
    | split
    | with_reducible apply only_step (set_boot_only ..)
    | with_reducible apply only_step (set_fuses_only ..)

theorem trainChannel_only (free : Nat) (failed : List (Nat × Nat × Nat)) (s : State) (i c : Nat) : OnlyChanges
    [.bank, .ingots] s (trainChannel free failed s i c) := by
  unfold trainChannel
  repeat' first
    | (show List.all _ _ = true; decide)
    | extract_lets
    | with_reducible exact only_refl _ _
    | with_reducible apply only_step (logError_only ..)
    | with_reducible apply only_step (setLaneWord_only ..)
    | split

theorem trainIngots_only (failed : List (Nat × Nat × Nat)) (s : State) : OnlyChanges [.bank, .ingots, .free] s
    (trainIngots failed s) := by
  unfold trainIngots
  repeat' first
    | (show List.all _ _ = true; decide)
    | extract_lets
    | intro _
    | with_reducible exact only_refl _ _
    | with_reducible assumption
    | with_reducible apply only_step (trainChannel_only ..)
    | with_reducible refine only_foldl ?_ ?_
    | with_reducible apply only_step (set_free_only ..)

theorem zeroFill_only (s : State) : OnlyChanges [.mem, .wordErr, .dirty] s (zeroFill s) := by
  refine ⟨?_, fun h => wf_filter _ h⟩
  intro p hp; cases p <;> first | rfl | exact absurd (by decide) hp

theorem firmwareStage_only (ok : Bool) (failed : List (Nat × Nat × Nat)) (s : State) : OnlyChanges [.pins, .boot,
    .mem, .wordErr, .dirty, .bank, .ingots, .out, .free] s (firmwareStage ok failed s) := by
  unfold firmwareStage
  repeat' first
    | (show List.all _ _ = true; decide)
    | extract_lets
    | with_reducible exact only_refl _ _
    | with_reducible apply only_step (halt_only ..)
    | with_reducible apply only_step (setBoot_only ..)
    | with_reducible apply only_step (trainIngots_only ..)
    | with_reducible apply only_step (zeroFill_only ..)
    | split
    | with_reducible apply only_step (set_boot_only ..)

theorem linksStage_only (ok : Bool) (s : State) : OnlyChanges [.pins, .clk, .boot, .mem, .wordErr, .dirty, .seats,
    .bank, .reqx, .objs, .objx, .binds, .cores, .fab, .mirrors, .out] s (linksStage ok s) := by
  unfold linksStage
  repeat' first
    | (show List.all _ _ = true; decide)
    | extract_lets
    | with_reducible exact only_refl _ _
    | with_reducible apply only_step (comparePorts_only ..)
    | with_reducible apply only_step (halt_only ..)
    | with_reducible apply only_step (sendLinkids_only ..)
    | split
    | with_reducible apply only_step (set_boot_only ..)
    | with_reducible apply only_step (set_fab_only ..)

/-! ## PinRows.lean -/

theorem sensorsRead_only (temps : List (Option Int)) (s : State) : OnlyChanges [.pins] s (sensorsRead temps s) := by
  unfold sensorsRead
  repeat' first
    | (show List.all _ _ = true; decide)
    | extract_lets
    | with_reducible exact only_refl _ _
    | with_reducible apply only_step (setSbBits_only ..)
    | split
    | with_reducible apply only_step (set_pins_only ..)

theorem tapLoad_only (s : State) (inst : Nat) (drive : Bool) (v : Nat) : OnlyChanges [.pins, .out] s (tapLoad s
    inst drive v) := by
  unfold tapLoad
  repeat' first
    | (show List.all _ _ = true; decide)
    | with_reducible exact only_refl _ _
    | with_reducible apply only_step (state_emit_only ..)
    | with_reducible apply only_step (set_pins_only ..)

theorem tapTest_only (inst : Nat) (drive : Bool) (v : State → Nat) (s : State) : OnlyChanges [.pins, .out] s
    (tapTest inst drive v s) := by
  unfold tapTest
  repeat' first
    | (show List.all _ _ = true; decide)
    | with_reducible exact only_refl _ _
    | with_reducible apply only_step (tapLoad_only ..)
    | split

/-! ## Idle.lean -/

theorem mirrorWaits_only (s : State) : OnlyChanges [.mirrors] s (mirrorWaits s) := by
  unfold mirrorWaits
  repeat' first
    | (show List.all _ _ = true; decide)
    | intro _
    | with_reducible exact only_refl _ _
    | with_reducible assumption
    | with_reducible apply only_step (state_setMir_only ..)
    | with_reducible refine only_foldl ?_ ?_
    | split

theorem inboxWaits_only (s : State) : OnlyChanges [.binds] s (inboxWaits s) := by
  unfold inboxWaits
  repeat' first
    | (show List.all _ _ = true; decide)
    | with_reducible exact only_refl _ _
    | with_reducible apply only_step (state_countBind_only ..)
    | split

theorem flushWaits_only (s : State) : OnlyChanges [.binds] s (flushWaits s) := by
  unfold flushWaits
  repeat' first
    | (show List.all _ _ = true; decide)
    | with_reducible exact only_refl _ _
    | with_reducible apply only_step (state_countBind_only ..)
    | split

theorem coreWaits_only (s : State) (c : Nat) : OnlyChanges [.cores] s (coreWaits s c) := by
  unfold coreWaits
  repeat' first
    | (show List.all _ _ = true; decide)
    | extract_lets
    | with_reducible exact only_refl _ _
    | with_reducible apply only_step (state_countCore_only ..)
    | split

theorem acWork_only (s : State) : OnlyChanges [.cores] s (acWork s) := by
  unfold acWork
  repeat' first
    | (show List.all _ _ = true; decide)
    | intro _
    | with_reducible exact only_refl _ _
    | with_reducible assumption
    | with_reducible apply only_step (coreWaits_only ..)
    | with_reducible refine only_foldl ?_ ?_
    | split

theorem fcWork_only (s : State) : OnlyChanges [.mem, .wordErr, .dirty, .seats, .mboxes, .bank, .reqs, .reqx, .objs,
    .objx, .stakes, .binds, .slot, .ingots, .hm, .cores, .fab, .mirrors, .out, .free] s (fcWork s) := by
  unfold fcWork
  repeat' first
    | (show List.all _ _ = true; decide)
    | extract_lets y1 y2 y3 y4
    | intro _
    | with_reducible exact only_refl _ _
    | with_reducible assumption
    | with_reducible apply only_step (admitBulk_only ..)
    | with_reducible apply only_step (flushWaits_only ..)
    | with_reducible apply only_step (inboxWaits_only ..)
    | with_reducible apply only_step (landMoves_only ..)
    | with_reducible apply only_step (lateReplies_only ..)
    | with_reducible apply only_step (launchHeld_only ..)
    | with_reducible apply only_step (linkTick_only ..)
    | with_reducible apply only_step (mirrorWaits_only ..)
    | with_reducible apply only_step (placeWork_only ..)
    | with_reducible apply only_step (resetCheck_only ..)
    | with_reducible apply only_step (runWork_only ..)
    | with_reducible apply only_step (stallWaits_only ..)
    | with_reducible apply only_step (state_countBind_only ..)
    | with_reducible apply only_step (state_countDev_only ..)
    | with_reducible apply only_step (weightsLost_only ..)
    | with_reducible refine only_foldl ?_ ?_
    | split
    | subst y4
    | subst y3
    | subst y2
    | subst y1

theorem ingotPc_only (s : State) (i : Nat) : OnlyChanges [.mem, .wordErr, .dirty, .bank, .objx, .ingots, .hm, .fab,
    .out] s (ingotPc s i) := by
  unfold ingotPc
  repeat' first
    | (show List.all _ _ = true; decide)
    | extract_lets y1
    | intro _
    | with_reducible exact only_refl _ _
    | with_reducible assumption
    | with_reducible apply only_step (admitStage_only ..)
    | with_reducible apply only_step (bankServe_only ..)
    | with_reducible apply only_step (state_countIngot_only ..)
    | with_reducible refine only_foldl ?_ ?_
    | split
    | subst y1

theorem pcWork_only (s : State) : OnlyChanges [.mem, .wordErr, .dirty, .bank, .objx, .ingots, .hm, .pips, .fab,
    .out] s (pcWork s) := by
  unfold pcWork
  repeat' first
    | (show List.all _ _ = true; decide)
    | intro _
    | with_reducible exact only_refl _ _
    | with_reducible assumption
    | with_reducible apply only_step (ingotPc_only ..)
    | with_reducible apply only_step (pcWaits_only ..)
    | with_reducible apply only_step (pipsPc_only ..)
    | with_reducible refine only_foldl ?_ ?_
    | split

theorem hcWork_only (s : State) : OnlyChanges [.mem, .wordErr, .dirty, .bank, .objx, .ingots, .hm, .fab, .out] s
    (hcWork s) := by
  unfold hcWork
  repeat' first
    | (show List.all _ _ = true; decide)
    | intro _
    | with_reducible exact only_refl _ _
    | with_reducible assumption
    | with_reducible apply only_step (hmGrant_only ..)
    | with_reducible refine only_foldl ?_ ?_
    | split

theorem tick_only (s : State) : OnlyChanges [.clk, .mem, .wordErr, .dirty, .seats, .mboxes, .bank, .reqs, .reqx,
    .objs, .objx, .stakes, .binds, .slot, .ingots, .hm, .pips, .cores, .fab, .mirrors, .out, .free] s (tick s) := by
  unfold tick
  repeat' first
    | (show List.all _ _ = true; decide)
    | extract_lets
    | with_reducible exact only_refl _ _
    | with_reducible apply only_step (acWork_only ..)
    | with_reducible apply only_step (fcWork_only ..)
    | with_reducible apply only_step (hcWork_only ..)
    | with_reducible apply only_step (pcWork_only ..)
    | split
    | with_reducible apply only_step (set_clk_only ..)

end Sys2Proof.Laws
end

