-- ==== Sys2Proof/Laws/FrameRows.lean ====
section
/-! SUPPORT. What each command may change, for every row of the table: if it answers a next state, nothing else differs. -/

namespace Sys2Proof.Laws

open Sys2Proof Sys2Proof.Machine

set_option linter.tactic.unusedName false

/-- What a step that needs something to run does when it answers: nothing, or its effect. -/
theorem act_cases {n : Needs} {f : State → State} {s t : State} (h : act n f s = .next t) :
    t = s ∨ (ready s n = true ∧ t = f s) := by
  unfold act at h
  split at h
  · cases h
  · split at h
    · cases h
    · split at h
      · cases h; exact .inr ⟨‹_›, rfl⟩
      · cases h; exact .inl rfl

theorem act_only {l : List Part} {n : Needs} {f : State → State} {s t : State} (h : act n f s = .next t)
    (hf : OnlyChanges l s (f s)) : OnlyChanges l s t := by
  rcases act_cases h with rfl | ⟨-, rfl⟩
  · exact only_refl _ _
  · exact hf

theorem sideband_only {l : List Part} {f : State → State} {s t : State} (h : sideband f s = .next t)
    (hf : OnlyChanges l s (f s)) : OnlyChanges l s t := by
  unfold sideband at h
  split at h
  · cases h
  · cases h; exact hf

theorem cmdRow_only {l : List Part} {opcode : Nat} {sub : Cmd → Bool} {op : CmdOp} {c : Cmd} {s t : State}
    (hl : List.all [.bank, .mboxes, .seats, .out] l.contains = true) (hop : ∀ c s, OnlyChanges l s (op c s).1)
    (h : cmdRow opcode sub op c s = .next t) : OnlyChanges l s t := by
  have hm : List.all [.mboxes] l.contains = true := by
    simp only [List.all_cons, List.all_nil, Bool.and_true, Bool.and_eq_true] at hl ⊢; tauto
  have hg : List.all [.mboxes, .bank] l.contains = true := by
    simp only [List.all_cons, List.all_nil, Bool.and_true, Bool.and_eq_true] at hl ⊢; tauto
  unfold cmdRow at h
  refine act_only h ?_
  refine when_only (only_refl _ _) ?_
  split
  · have h1 : OnlyChanges l s (grantMb (present s c) (cmdMb c)) := by
      refine only_step (grantMb_only ..) ?_ (only_step (present_only ..) hm (only_refl _ _))
      simp only [List.all_cons, List.all_nil, Bool.and_true, Bool.and_eq_true] at hl ⊢; tauto
    exact only_step (serveRow_only op c _ hl (hop c)) (by simp) h1
  · exact only_step (present_only ..) hm (only_refl _ _)

theorem execLinkTrained_only {port : Nat} {s t : State} (h : execLinkTrained port s = .next t) : OnlyChanges [.clk,
    .mem, .wordErr, .dirty, .seats, .bank, .reqx, .objs, .objx, .binds, .cores, .fab, .mirrors, .out] s t := by
  unfold execLinkTrained at h
  refine act_only h ?_
  beta_reduce
  repeat' first
    | (show List.all _ _ = true; decide)
    | extract_lets
    | with_reducible exact only_refl _ _
    | with_reducible apply only_step (linkTrained_only ..)
    | with_reducible apply when_only

theorem execLinkTrainingLost_only {port : Nat} {s t : State} (h : execLinkTrainingLost port s = .next t) :
    OnlyChanges [.clk, .mem, .wordErr, .dirty, .seats, .bank, .reqx, .objs, .objx, .binds, .cores, .fab, .mirrors,
    .out] s t := by
  unfold execLinkTrainingLost at h
  refine act_only h ?_
  beta_reduce
  repeat' first
    | (show List.all _ _ = true; decide)
    | extract_lets
    | with_reducible exact only_refl _ _
    | with_reducible apply only_step (trainingLost_only ..)
    | with_reducible apply when_only

theorem execLinkid_only {port : Nat} {rec : BitVec 256} {s t : State} (h : execLinkid port rec s = .next t) :
    OnlyChanges [.clk, .mem, .wordErr, .dirty, .seats, .bank, .reqx, .objs, .objx, .binds, .cores, .fab, .mirrors,
    .out] s t := by
  unfold execLinkid at h
  refine act_only h ?_
  beta_reduce
  repeat' first
    | (show List.all _ _ = true; decide)
    | extract_lets
    | with_reducible exact only_refl _ _
    | with_reducible apply only_step (linkidArrives_only ..)
    | with_reducible apply when_only

theorem execLinkPacketError_only {port seq : Nat} {crcOk : Bool} {s t : State} (h : execLinkPacketError port seq
    crcOk s = .next t) : OnlyChanges [.clk, .mem, .wordErr, .dirty, .seats, .bank, .reqx, .objs, .objx, .binds,
    .cores, .fab, .mirrors, .out] s t := by
  unfold execLinkPacketError at h
  refine act_only h ?_
  beta_reduce
  repeat' first
    | (show List.all _ _ = true; decide)
    | extract_lets
    | with_reducible exact only_refl _ _
    | with_reducible apply only_step (packetError_only ..)
    | with_reducible apply when_only

theorem execTorusTrainingAttempt_only {port : Nat} {ok : Bool} {s t : State} (h : execTorusTrainingAttempt port ok
    s = .next t) : OnlyChanges [.clk, .mem, .wordErr, .dirty, .seats, .bank, .reqx, .objs, .objx, .binds, .cores,
    .fab, .mirrors, .out] s t := by
  unfold execTorusTrainingAttempt at h
  refine act_only h ?_
  beta_reduce
  repeat' first
    | (show List.all _ _ = true; decide)
    | extract_lets
    | with_reducible exact only_refl _ _
    | with_reducible apply only_step (trainingAttempt_only ..)
    | with_reducible apply when_only

theorem execLaneTest_only  {s t : State} (h : execLaneTest s = .next t) : OnlyChanges [.bank, .ingots, .fab] s t := by
  unfold execLaneTest at h
  refine act_only h ?_
  repeat' first
    | (show List.all _ _ = true; decide)
    | extract_lets
    | with_reducible exact only_refl _ _
    | with_reducible apply only_step (laneTest_only ..)

theorem execSpareRetrainDone_only {ingot channel : Nat} {ok : Bool} {s t : State} (h : execSpareRetrainDone ingot
    channel ok s = .next t) : OnlyChanges [.bank, .ingots] s t := by
  unfold execSpareRetrainDone at h
  refine act_only h ?_
  beta_reduce
  repeat' first
    | (show List.all _ _ = true; decide)
    | extract_lets
    | with_reducible exact only_refl _ _
    | with_reducible apply only_step (spareDone_only ..)
    | with_reducible apply when_only

theorem execLaneHandover_only {ingot channel : Nat} {s t : State} (h : execLaneHandover ingot channel s = .next t)
    : OnlyChanges [.bank, .ingots] s t := by
  unfold execLaneHandover at h
  refine act_only h ?_
  repeat' first
    | (show List.all _ _ = true; decide)
    | extract_lets
    | with_reducible exact only_refl _ _
    | with_reducible apply only_step (handover_only ..)
    | with_reducible apply when_only

theorem execLinkLaneRetrain_only {link : Nat} {ok : Bool} {s t : State} (h : execLinkLaneRetrain link ok s = .next
    t) : OnlyChanges [.clk, .mem, .wordErr, .dirty, .seats, .bank, .reqx, .objs, .objx, .binds, .cores, .fab,
    .mirrors, .out] s t := by
  unfold execLinkLaneRetrain at h
  refine act_only h ?_
  beta_reduce
  repeat' first
    | (show List.all _ _ = true; decide)
    | extract_lets
    | with_reducible exact only_refl _ _
    | with_reducible apply only_step (linkLane_only ..)
    | with_reducible apply when_only

theorem execLinkForced_only {link : Nat} {ok : Bool} {s t : State} (h : execLinkForced link ok s = .next t) :
    OnlyChanges [.clk, .mem, .wordErr, .dirty, .seats, .bank, .reqx, .objs, .objx, .binds, .cores, .fab, .mirrors,
    .out] s t := by
  unfold execLinkForced at h
  refine act_only h ?_
  beta_reduce
  repeat' first
    | (show List.all _ _ = true; decide)
    | extract_lets
    | with_reducible exact only_refl _ _
    | with_reducible apply only_step (linkLane_only ..)
    | with_reducible apply only_step (state_countPort_only ..)
    | with_reducible apply when_only

theorem execTimeSyncExchange_only {t1 t2 t3 t4 : Nat} {parentHops : Nat} {s t : State} (h : execTimeSyncExchange t1
    t2 t3 t4 parentHops s = .next t) : OnlyChanges [.clk, .dirty, .bank, .reqx, .objs, .objx, .binds, .cores, .fab,
    .out, .free] s t := by
  unfold execTimeSyncExchange at h
  refine act_only h ?_
  beta_reduce
  repeat' first
    | (show List.all _ _ = true; decide)
    | extract_lets
    | with_reducible exact only_refl _ _
    | with_reducible apply only_step (askTime_only ..)
    | with_reducible apply only_step (timeSync_only ..)
    | with_reducible apply when_only

theorem execFabricAck_only {port : Nat} {p : Packet} {s t : State} (h : execFabricAck port p s = .next t) :
    OnlyChanges [.dirty, .bank, .reqx, .objs, .objx, .binds, .cores, .fab, .out] s t := by
  unfold execFabricAck packetRow at h
  refine act_only h ?_
  beta_reduce
  repeat' first
    | (show List.all _ _ = true; decide)
    | extract_lets
    | with_reducible exact only_refl _ _
    | with_reducible apply only_step (discard_only ..)
    | with_reducible apply only_step (fabricAck_only ..)
    | with_reducible apply only_step (received_only ..)
    | with_reducible apply when_only
    | split

theorem execFabricResponse_only {port : Nat} {p : Packet} {s t : State} (h : execFabricResponse port p s = .next t)
    : OnlyChanges [.mem, .wordErr, .dirty, .bank, .reqx, .objs, .objx, .binds, .ingots, .hm, .cores, .fab, .out] s
    t := by
  unfold execFabricResponse at h
  refine act_only h ?_
  beta_reduce
  repeat' first
    | (show List.all _ _ = true; decide)
    | extract_lets
    | with_reducible exact only_refl _ _
    | with_reducible apply only_step (blockMover_only ..)
    | with_reducible apply only_step (discard_only ..)
    | with_reducible apply only_step (fabricResponse_only ..)
    | with_reducible apply only_step (received_only ..)
    | with_reducible apply when_only
    | split

theorem execFence_only {unit : Nat} {s t : State} (h : execFence unit s = .next t) : OnlyChanges [.fab, .out] s t := by
  unfold execFence at h
  refine act_only h ?_
  beta_reduce
  repeat' first
    | (show List.all _ _ = true; decide)
    | extract_lets
    | with_reducible exact only_refl _ _
    | with_reducible apply only_step (fence_only ..)
    | with_reducible apply when_only

theorem execPacketForward_only {port : Nat} {p : Packet} {s t : State} (h : execPacketForward port p s = .next t) :
    OnlyChanges [.dirty, .bank, .reqx, .objs, .objx, .binds, .cores, .fab, .out] s t := by
  unfold execPacketForward at h
  refine act_only h ?_
  beta_reduce
  repeat' first
    | (show List.all _ _ = true; decide)
    | extract_lets
    | with_reducible exact only_refl _ _
    | with_reducible apply only_step (forward_only ..)
    | with_reducible apply only_step (received_only ..)
    | with_reducible apply when_only

theorem execHmScrubRead_only {base : Nat} {s t : State} (h : execHmScrubRead base s = .next t) : OnlyChanges [.mem,
    .wordErr, .dirty, .bank, .objx, .ingots, .hm, .fab, .out] s t := by
  unfold execHmScrubRead at h
  refine act_only h ?_
  beta_reduce
  repeat' first
    | (show List.all _ _ = true; decide)
    | extract_lets
    | with_reducible exact only_refl _ _
    | with_reducible apply only_step (hmPresent_only ..)
    | with_reducible apply when_only

theorem execExternalAccess_only {ingot bg : Nat} {arrivals : List ExtReq} {s t : State} (h : execExternalAccess
    ingot bg arrivals s = .next t) : OnlyChanges [.mem, .wordErr, .dirty, .bank, .objx, .ingots, .hm, .fab, .out] s
    t := by
  unfold execExternalAccess at h
  refine act_only h ?_
  beta_reduce
  repeat' first
    | (show List.all _ _ = true; decide)
    | extract_lets
    | with_reducible exact only_refl _ _
    | with_reducible apply only_step (externalAccess_only ..)
    | with_reducible apply when_only

theorem execDeferredWriteDrain_only {ingot page : Nat} {s t : State} (h : execDeferredWriteDrain ingot page s =
    .next t) : OnlyChanges [.mem, .wordErr, .dirty, .bank, .objx, .ingots] s t := by
  unfold execDeferredWriteDrain at h
  refine act_only h ?_
  beta_reduce
  repeat' first
    | (show List.all _ _ = true; decide)
    | extract_lets
    | with_reducible exact only_refl _ _
    | with_reducible apply only_step (deferredDrain_only ..)
    | with_reducible apply when_only

theorem execChannelBurstCrcError_only {ingot channel : Nat} {data : BitVec 512} {crc : W16} {s t : State} (h :
    execChannelBurstCrcError ingot channel data crc s = .next t) : OnlyChanges [.bank, .ingots, .fab, .out] s t := by
  unfold execChannelBurstCrcError at h
  refine act_only h ?_
  beta_reduce
  repeat' first
    | (show List.all _ _ = true; decide)
    | extract_lets
    | with_reducible exact only_refl _ _
    | with_reducible apply only_step (burstError_only ..)
    | with_reducible apply only_step (state_updIngot_only ..)
    | with_reducible apply when_only
    | split

theorem execFabricLoad_only {port : Nat} {p : Packet} {s t : State} (h : execFabricLoad port p s = .next t) :
    OnlyChanges [.mem, .wordErr, .dirty, .seats, .bank, .objx, .ingots, .hm, .fab, .out] s t := by
  unfold execFabricLoad packetRow at h
  refine act_only h ?_
  beta_reduce
  repeat' first
    | (show List.all _ _ = true; decide)
    | extract_lets
    | with_reducible exact only_refl _ _
    | with_reducible apply only_step (discard_only ..)
    | with_reducible apply only_step (received_only ..)
    | with_reducible apply only_step (takeRequest_only ..)
    | with_reducible apply when_only
    | split

theorem execFabricStore_only {port : Nat} {p : Packet} {s t : State} (h : execFabricStore port p s = .next t) :
    OnlyChanges [.mem, .wordErr, .dirty, .seats, .bank, .objx, .ingots, .hm, .fab, .out] s t := by
  unfold execFabricStore packetRow at h
  refine act_only h ?_
  beta_reduce
  repeat' first
    | (show List.all _ _ = true; decide)
    | extract_lets
    | with_reducible exact only_refl _ _
    | with_reducible apply only_step (discard_only ..)
    | with_reducible apply only_step (received_only ..)
    | with_reducible apply only_step (takeRequest_only ..)
    | with_reducible apply when_only
    | split

theorem execFabricAtomic_only {port : Nat} {p : Packet} {s t : State} (h : execFabricAtomic port p s = .next t) :
    OnlyChanges [.mem, .wordErr, .dirty, .seats, .bank, .objx, .ingots, .hm, .fab, .out] s t := by
  unfold execFabricAtomic packetRow at h
  refine act_only h ?_
  beta_reduce
  repeat' first
    | (show List.all _ _ = true; decide)
    | extract_lets
    | with_reducible exact only_refl _ _
    | with_reducible apply only_step (discard_only ..)
    | with_reducible apply only_step (received_only ..)
    | with_reducible apply only_step (takeRequest_only ..)
    | with_reducible apply when_only
    | split

theorem execBulkGet_only {port : Nat} {p : Packet} {s t : State} (h : execBulkGet port p s = .next t) : OnlyChanges
    [.mem, .wordErr, .dirty, .seats, .bank, .objx, .ingots, .hm, .fab, .out] s t := by
  unfold execBulkGet packetRow at h
  refine act_only h ?_
  beta_reduce
  repeat' first
    | (show List.all _ _ = true; decide)
    | extract_lets
    | with_reducible exact only_refl _ _
    | with_reducible apply only_step (discard_only ..)
    | with_reducible apply only_step (received_only ..)
    | with_reducible apply only_step (takeRequest_only ..)
    | with_reducible apply when_only
    | split

theorem execBulkData_only {port : Nat} {p : Packet} {s t : State} (h : execBulkData port p s = .next t) :
    OnlyChanges [.mem, .wordErr, .dirty, .seats, .bank, .objx, .ingots, .hm, .fab, .out] s t := by
  unfold execBulkData packetRow at h
  refine act_only h ?_
  beta_reduce
  repeat' first
    | (show List.all _ _ = true; decide)
    | extract_lets
    | with_reducible exact only_refl _ _
    | with_reducible apply only_step (discard_only ..)
    | with_reducible apply only_step (received_only ..)
    | with_reducible apply only_step (takeRequest_only ..)
    | with_reducible apply when_only
    | split

theorem execRefresh_only {ingot bg : Nat} {s t : State} (h : execRefresh ingot bg s = .next t) : OnlyChanges
    [.bank, .ingots] s t := by
  unfold execRefresh at h
  refine act_only h ?_
  beta_reduce
  repeat' first
    | (show List.all _ _ = true; decide)
    | extract_lets
    | with_reducible exact only_refl _ _
    | with_reducible apply only_step (refresh_only ..)
    | with_reducible apply when_only

theorem execGovSensorSample_only {ingot : Nat} {readings : List (Option Int)} {s t : State} (h :
    execGovSensorSample ingot readings s = .next t) : OnlyChanges [.bank, .ingots] s t := by
  unfold execGovSensorSample at h
  refine act_only h ?_
  beta_reduce
  repeat' first
    | (show List.all _ _ = true; decide)
    | extract_lets
    | with_reducible exact only_refl _ _
    | with_reducible apply only_step (govSample_only ..)
    | with_reducible apply when_only

theorem execGovIntervalEnd_only {ingot microwatt : Nat} {s t : State} (h : execGovIntervalEnd ingot microwatt s =
    .next t) : OnlyChanges [.pins, .seats, .bank, .ingots, .fab, .out] s t := by
  unfold execGovIntervalEnd at h
  refine act_only h ?_
  beta_reduce
  repeat' first
    | (show List.all _ _ = true; decide)
    | extract_lets
    | with_reducible exact only_refl _ _
    | with_reducible apply only_step (govEnd_only ..)
    | with_reducible apply when_only

theorem execAdmitReq_only {c : Cmd} {s t : State} (h : execAdmitReq c s = .next t) : OnlyChanges [.mem, .wordErr,
    .dirty, .seats, .mboxes, .bank, .reqs, .reqx, .objs, .objx, .stakes, .binds, .slot, .ingots, .cores, .fab,
    .mirrors, .out, .free] s t := by
  exact cmdRow_only rfl (fun c s => only_step (opAdmit_only c s) rfl (only_refl _ _)) h

theorem execFeed_only {c : Cmd} {s t : State} (h : execFeed c s = .next t) : OnlyChanges [.mem, .wordErr, .dirty,
    .seats, .mboxes, .bank, .reqs, .reqx, .objs, .objx, .stakes, .binds, .slot, .ingots, .cores, .fab, .mirrors,
    .out, .free] s t := by
  exact cmdRow_only rfl (fun c s => only_step (opFeed_only c s) rfl (only_refl _ _)) h

theorem execCancel_only {c : Cmd} {s t : State} (h : execCancel c s = .next t) : OnlyChanges [.mem, .wordErr,
    .dirty, .seats, .mboxes, .bank, .reqs, .reqx, .objs, .objx, .stakes, .binds, .slot, .ingots, .cores, .fab,
    .mirrors, .out, .free] s t := by
  exact cmdRow_only rfl (fun c s => only_step (opCancel_only c s) rfl (only_refl _ _)) h

theorem execPause_only {c : Cmd} {s t : State} (h : execPause c s = .next t) : OnlyChanges [.mem, .wordErr, .dirty,
    .seats, .mboxes, .bank, .reqs, .reqx, .objs, .objx, .stakes, .binds, .slot, .ingots, .cores, .fab, .mirrors,
    .out, .free] s t := by
  exact cmdRow_only rfl (fun c s => only_step (opPause_only c s) rfl (only_refl _ _)) h

theorem execResume_only {c : Cmd} {s t : State} (h : execResume c s = .next t) : OnlyChanges [.mem, .wordErr,
    .dirty, .seats, .mboxes, .bank, .reqs, .reqx, .objs, .objx, .stakes, .binds, .slot, .ingots, .cores, .fab,
    .mirrors, .out, .free] s t := by
  exact cmdRow_only rfl (fun c s => only_step (opResume_only c s) rfl (only_refl _ _)) h

theorem execPlaceCreate_only {c : Cmd} {s t : State} (h : execPlaceCreate c s = .next t) : OnlyChanges [.mem,
    .wordErr, .dirty, .seats, .mboxes, .bank, .reqx, .objs, .objx, .binds, .cores, .fab, .out, .free] s t := by
  exact cmdRow_only rfl (fun c s => only_step (opPlace_only c s) rfl (only_refl _ _)) h

theorem execPlaceMove_only {c : Cmd} {s t : State} (h : execPlaceMove c s = .next t) : OnlyChanges [.mem, .wordErr,
    .dirty, .seats, .mboxes, .bank, .reqx, .objs, .objx, .binds, .cores, .fab, .out, .free] s t := by
  exact cmdRow_only rfl (fun c s => only_step (opPlace_only c s) rfl (only_refl _ _)) h

theorem execPlaceFlush_only {c : Cmd} {s t : State} (h : execPlaceFlush c s = .next t) : OnlyChanges [.mem,
    .wordErr, .dirty, .seats, .mboxes, .bank, .reqx, .objs, .objx, .binds, .cores, .fab, .out, .free] s t := by
  exact cmdRow_only rfl (fun c s => only_step (opPlace_only c s) rfl (only_refl _ _)) h

theorem execPlaceDrop_only {c : Cmd} {s t : State} (h : execPlaceDrop c s = .next t) : OnlyChanges [.mem, .wordErr,
    .dirty, .seats, .mboxes, .bank, .reqx, .objs, .objx, .binds, .cores, .fab, .out, .free] s t := by
  exact cmdRow_only rfl (fun c s => only_step (opPlace_only c s) rfl (only_refl _ _)) h

theorem execPlaceDestroy_only {c : Cmd} {s t : State} (h : execPlaceDestroy c s = .next t) : OnlyChanges [.mem,
    .wordErr, .dirty, .seats, .mboxes, .bank, .reqx, .objs, .objx, .binds, .cores, .fab, .out, .free] s t := by
  exact cmdRow_only rfl (fun c s => only_step (opPlace_only c s) rfl (only_refl _ _)) h

theorem execMovePassEnd_only {obj : Nat} {s t : State} (h : execMovePassEnd obj s = .next t) : OnlyChanges [.mem,
    .wordErr, .dirty, .seats, .bank, .reqx, .objs, .objx, .binds, .ingots, .hm, .cores, .fab, .out] s t := by
  unfold execMovePassEnd at h
  refine act_only h ?_
  beta_reduce
  repeat' first
    | (show List.all _ _ = true; decide)
    | extract_lets
    | with_reducible exact only_refl _ _
    | with_reducible apply only_step (movePassEnd_only ..)
    | with_reducible apply when_only

theorem execPlaceOperationEnd_only {obj : Nat} {s t : State} (h : execPlaceOperationEnd obj s = .next t) :
    OnlyChanges [.mem, .wordErr, .dirty, .seats, .bank, .reqx, .objs, .objx, .binds, .ingots, .hm, .cores, .fab,
    .out] s t := by
  unfold execPlaceOperationEnd at h
  refine act_only h ?_
  beta_reduce
  repeat' first
    | (show List.all _ _ = true; decide)
    | extract_lets
    | with_reducible exact only_refl _ _
    | with_reducible apply only_step (placeEnd_only ..)
    | with_reducible apply when_only

theorem execBindLoad_only {c : Cmd} {s t : State} (h : execBindLoad c s = .next t) : OnlyChanges [.mem, .wordErr,
    .dirty, .seats, .mboxes, .bank, .reqs, .reqx, .objs, .objx, .stakes, .binds, .slot, .imem, .pipSlots, .ingots,
    .hm, .cores, .fab, .mirrors, .out, .free] s t := by
  exact cmdRow_only rfl (fun c s => only_step (opBind_only c s) rfl (only_refl _ _)) h

theorem execVariantAdd_only {c : Cmd} {s t : State} (h : execVariantAdd c s = .next t) : OnlyChanges [.mem,
    .wordErr, .dirty, .seats, .mboxes, .bank, .reqs, .reqx, .objs, .objx, .stakes, .binds, .slot, .imem, .pipSlots,
    .ingots, .hm, .cores, .fab, .mirrors, .out, .free] s t := by
  exact cmdRow_only rfl (fun c s => only_step (opBind_only c s) rfl (only_refl _ _)) h

theorem execVariantRemove_only {c : Cmd} {s t : State} (h : execVariantRemove c s = .next t) : OnlyChanges [.mem,
    .wordErr, .dirty, .seats, .mboxes, .bank, .reqs, .reqx, .objs, .objx, .stakes, .binds, .slot, .imem, .pipSlots,
    .ingots, .hm, .cores, .fab, .mirrors, .out, .free] s t := by
  exact cmdRow_only rfl (fun c s => only_step (opBind_only c s) rfl (only_refl _ _)) h

theorem execBindClear_only {c : Cmd} {s t : State} (h : execBindClear c s = .next t) : OnlyChanges [.mem, .wordErr,
    .dirty, .seats, .mboxes, .bank, .reqs, .reqx, .objs, .objx, .stakes, .binds, .slot, .imem, .pipSlots, .ingots,
    .hm, .cores, .fab, .mirrors, .out, .free] s t := by
  exact cmdRow_only rfl (fun c s => only_step (opBind_only c s) rfl (only_refl _ _)) h

theorem execUnbind_only {c : Cmd} {s t : State} (h : execUnbind c s = .next t) : OnlyChanges [.seats, .mboxes,
    .bank, .reqs, .reqx, .objs, .objx, .binds, .pipSlots, .out] s t := by
  exact cmdRow_only rfl (fun c s => only_step (opUnbind_only c s) rfl (only_refl _ _)) h

theorem execMould_only {c : Cmd} {s t : State} (h : execMould c s = .next t) : OnlyChanges [.seats, .mboxes, .bank,
    .binds, .out] s t := by
  exact cmdRow_only rfl (fun c s => only_step (opMould_only c s) rfl (only_refl _ _)) h

theorem execStakeAssign_only {c : Cmd} {s t : State} (h : execStakeAssign c s = .next t) : OnlyChanges [.mem,
    .wordErr, .dirty, .seats, .mboxes, .bank, .reqs, .reqx, .objs, .objx, .stakes, .hist, .binds, .slot, .ingots,
    .cores, .fab, .mirrors, .out, .free] s t := by
  exact cmdRow_only rfl (fun c s => only_step (opStake_only c s) rfl (only_refl _ _)) h

theorem execStakeUpdate_only {c : Cmd} {s t : State} (h : execStakeUpdate c s = .next t) : OnlyChanges [.mem,
    .wordErr, .dirty, .seats, .mboxes, .bank, .reqs, .reqx, .objs, .objx, .stakes, .hist, .binds, .slot, .ingots,
    .cores, .fab, .mirrors, .out, .free] s t := by
  exact cmdRow_only rfl (fun c s => only_step (opStake_only c s) rfl (only_refl _ _)) h

theorem execStakeRelease_only {c : Cmd} {s t : State} (h : execStakeRelease c s = .next t) : OnlyChanges [.mem,
    .wordErr, .dirty, .seats, .mboxes, .bank, .reqs, .reqx, .objs, .objx, .stakes, .hist, .binds, .slot, .ingots,
    .cores, .fab, .mirrors, .out, .free] s t := by
  exact cmdRow_only rfl (fun c s => only_step (opStake_only c s) rfl (only_refl _ _)) h

theorem execSeatSetWindow_only {c : Cmd} {s t : State} (h : execSeatSetWindow c s = .next t) : OnlyChanges [.mem,
    .wordErr, .dirty, .seats, .mboxes, .bank, .reqs, .reqx, .objs, .objx, .stakes, .binds, .slot, .ingots, .cores,
    .fab, .mirrors, .out, .free] s t := by
  exact cmdRow_only rfl (fun c s => only_step (opSeatSet_only c s) rfl (only_refl _ _)) h

theorem execSeatSetQuota_only {c : Cmd} {s t : State} (h : execSeatSetQuota c s = .next t) : OnlyChanges [.mem,
    .wordErr, .dirty, .seats, .mboxes, .bank, .reqs, .reqx, .objs, .objx, .stakes, .binds, .slot, .ingots, .cores,
    .fab, .mirrors, .out, .free] s t := by
  exact cmdRow_only rfl (fun c s => only_step (opSeatSet_only c s) rfl (only_refl _ _)) h

theorem execSeatSetConfig_only {c : Cmd} {s t : State} (h : execSeatSetConfig c s = .next t) : OnlyChanges [.mem,
    .wordErr, .dirty, .seats, .mboxes, .bank, .reqs, .reqx, .objs, .objx, .stakes, .binds, .slot, .ingots, .cores,
    .fab, .mirrors, .out, .free] s t := by
  exact cmdRow_only rfl (fun c s => only_step (opSeatSet_only c s) rfl (only_refl _ _)) h

theorem execSeatSetAttach_only {c : Cmd} {s t : State} (h : execSeatSetAttach c s = .next t) : OnlyChanges [.mem,
    .wordErr, .dirty, .seats, .mboxes, .bank, .reqs, .reqx, .objs, .objx, .stakes, .binds, .slot, .ingots, .cores,
    .fab, .mirrors, .out, .free] s t := by
  exact cmdRow_only rfl (fun c s => only_step (opSeatSet_only c s) rfl (only_refl _ _)) h

theorem execSeatSetDetach_only {c : Cmd} {s t : State} (h : execSeatSetDetach c s = .next t) : OnlyChanges [.mem,
    .wordErr, .dirty, .seats, .mboxes, .bank, .reqs, .reqx, .objs, .objx, .stakes, .binds, .slot, .ingots, .cores,
    .fab, .mirrors, .out, .free] s t := by
  exact cmdRow_only rfl (fun c s => only_step (opSeatSet_only c s) rfl (only_refl _ _)) h

theorem execSeatSetRisers_only {c : Cmd} {s t : State} (h : execSeatSetRisers c s = .next t) : OnlyChanges [.mem,
    .wordErr, .dirty, .seats, .mboxes, .bank, .reqs, .reqx, .objs, .objx, .stakes, .binds, .slot, .ingots, .cores,
    .fab, .mirrors, .out, .free] s t := by
  exact cmdRow_only rfl (fun c s => only_step (opSeatSet_only c s) rfl (only_refl _ _)) h

theorem execSeatReset_only {c : Cmd} {s t : State} (h : execSeatReset c s = .next t) : OnlyChanges [.mem, .wordErr,
    .dirty, .seats, .mboxes, .bank, .reqs, .reqx, .objs, .objx, .stakes, .binds, .slot, .ingots, .cores, .fab,
    .mirrors, .out, .free] s t := by
  exact cmdRow_only rfl (fun c s => only_step (opSeatReset_only c s) rfl (only_refl _ _)) h

theorem execSeatResetComplete_only {seat : Nat} {s t : State} (h : execSeatResetComplete seat s = .next t) :
    OnlyChanges [.seats] s t := by
  unfold execSeatResetComplete at h
  refine act_only h ?_
  beta_reduce
  repeat' first
    | (show List.all _ _ = true; decide)
    | extract_lets
    | with_reducible exact only_refl _ _
    | with_reducible apply only_step (state_updSeat_only ..)
    | with_reducible apply when_only

theorem execSlotGrant_only  {s t : State} (h : execSlotGrant s = .next t) : OnlyChanges [.binds, .slot] s t := by
  unfold execSlotGrant at h
  refine act_only h ?_
  beta_reduce
  repeat' first
    | (show List.all _ _ = true; decide)
    | extract_lets
    | with_reducible exact only_refl _ _
    | with_reducible apply only_step (discardLeadins_only ..)
    | with_reducible apply only_step (setPhase_only ..)
    | with_reducible apply only_step (state_updBind_only ..)
    | with_reducible apply when_only
    | split
    | with_reducible apply only_step (set_slot_only ..)

theorem execGatherComplete_only  {s t : State} (h : execGatherComplete s = .next t) : OnlyChanges [.mem, .wordErr,
    .dirty, .seats, .bank, .reqs, .reqx, .objs, .objx, .binds, .slot, .ingots, .cores, .clusters, .fab, .mirrors,
    .out, .free] s t := by
  unfold execGatherComplete at h
  refine act_only h ?_
  beta_reduce
  repeat' first
    | (show List.all _ _ = true; decide)
    | extract_lets
    | with_reducible exact only_refl _ _
    | with_reducible apply only_step (abandonTurn_only ..)
    | with_reducible apply only_step (gatherDone_only ..)
    | with_reducible apply only_step (noteBad_only ..)
    | with_reducible apply only_step (state_noteWindow_only ..)
    | with_reducible apply when_only
    | split

theorem execProvisionalCompose_only {b : Nat} {s t : State} (h : execProvisionalCompose b s = .next t) :
    OnlyChanges [.seats, .bank, .reqx, .stakes, .binds, .ingots] s t := by
  unfold execProvisionalCompose at h
  refine act_only h ?_
  beta_reduce
  repeat' first
    | (show List.all _ _ = true; decide)
    | extract_lets
    | with_reducible exact only_refl _ _
    | with_reducible apply only_step (state_updBind_only ..)
    | with_reducible apply when_only

theorem execLeadInStart_only  {s t : State} (h : execLeadInStart s = .next t) : OnlyChanges [.mem, .wordErr,
    .dirty, .seats, .bank, .reqx, .objs, .objx, .binds, .ingots, .hm, .cores, .fab, .out] s t := by
  unfold execLeadInStart at h
  refine act_only h ?_
  beta_reduce
  repeat' first
    | (show List.all _ _ = true; decide)
    | extract_lets
    | with_reducible exact only_refl _ _
    | with_reducible apply only_step (leadStream_only ..)
    | with_reducible apply only_step (state_updBind_only ..)
    | with_reducible apply when_only
    | split

theorem execLayersComplete_only  {s t : State} (h : execLayersComplete s = .next t) : OnlyChanges [.mem, .wordErr,
    .dirty, .bank, .reqx, .objs, .objx, .binds, .cores, .fab, .mirrors, .out, .free] s t := by
  unfold execLayersComplete at h
  refine act_only h ?_
  beta_reduce
  repeat' first
    | (show List.all _ _ = true; decide)
    | extract_lets
    | intro _
    | with_reducible exact only_refl _ _
    | with_reducible assumption
    | with_reducible apply only_step (setPhase_only ..)
    | with_reducible apply only_step (state_updBind_only ..)
    | with_reducible apply only_step (storeLogits_only ..)
    | with_reducible apply only_step (writeTokens_only ..)
    | with_reducible apply when_only
    | with_reducible refine only_foldl ?_ ?_
    | split

theorem execSampleComplete_only  {s t : State} (h : execSampleComplete s = .next t) : OnlyChanges [.binds, .slot] s
    t := by
  unfold execSampleComplete at h
  refine act_only h ?_
  beta_reduce
  repeat' first
    | (show List.all _ _ = true; decide)
    | extract_lets
    | with_reducible exact only_refl _ _
    | with_reducible apply only_step (setPhase_only ..)
    | with_reducible apply only_step (settleSlot_only ..)
    | with_reducible apply when_only
    | split
    | with_reducible apply only_step (set_slot_only ..)

theorem execEnginesDrained_only {b : Nat} {s t : State} (h : execEnginesDrained b s = .next t) : OnlyChanges [.mem,
    .wordErr, .dirty, .seats, .bank, .reqs, .reqx, .objs, .objx, .stakes, .binds, .slot, .ingots, .cores,
    .clusters, .fab, .mirrors, .out, .free] s t := by
  unfold execEnginesDrained at h
  refine act_only h ?_
  beta_reduce
  repeat' first
    | (show List.all _ _ = true; decide)
    | extract_lets
    | with_reducible exact only_refl _ _
    | with_reducible apply only_step (closeIdle_only ..)
    | with_reducible apply only_step (releaseSlot_only ..)
    | with_reducible apply only_step (state_countBind_only ..)
    | with_reducible apply only_step (state_updBind_only ..)
    | with_reducible apply when_only
    | split

theorem execWeightReread_only {b ingot off seat : Nat} {ok : Bool} {s t : State} (h : execWeightReread b ingot off
    seat ok s = .next t) : OnlyChanges [.mem, .wordErr, .dirty, .seats, .bank, .reqs, .reqx, .objs, .objx, .binds,
    .slot, .ingots, .cores, .fab, .mirrors, .out, .free] s t := by
  unfold execWeightReread at h
  refine act_only h ?_
  beta_reduce
  repeat' first
    | (show List.all _ _ = true; decide)
    | extract_lets
    | with_reducible exact only_refl _ _
    | with_reducible apply only_step (abandonTurn_only ..)
    | with_reducible apply only_step (logError_only ..)
    | with_reducible apply only_step (state_countIngot_only ..)
    | with_reducible apply when_only
    | split
    | with_reducible apply only_step (set_wordErr_only ..)

theorem execDiceRowDraw_only {i : Nat} {s t : State} (h : execDiceRowDraw i s = .next t) : OnlyChanges [.seats,
    .bank, .binds, .ingots] s t := by
  unfold execDiceRowDraw at h
  refine act_only h ?_
  beta_reduce
  repeat' first
    | (show List.all _ _ = true; decide)
    | extract_lets
    | with_reducible exact only_refl _ _
    | with_reducible apply only_step (drawAt_only ..)
    | with_reducible apply when_only
    | split

theorem execRingWriteLost_only {slot k : Nat} {s t : State} (h : execRingWriteLost slot k s = .next t) :
    OnlyChanges [.mem, .wordErr, .dirty, .seats, .bank, .reqs, .reqx, .objs, .objx, .binds, .ingots, .cores, .fab,
    .mirrors, .out, .free] s t := by
  unfold execRingWriteLost at h
  refine act_only h ?_
  beta_reduce
  repeat' first
    | (show List.all _ _ = true; decide)
    | extract_lets
    | with_reducible exact only_refl _ _
    | with_reducible apply only_step (loseRingWrite_only ..)
    | with_reducible apply when_only

theorem execPlan_only {c : Cmd} {s t : State} (h : execPlan c s = .next t) : OnlyChanges [.clk, .mem, .wordErr,
    .dirty, .seats, .mboxes, .bank, .reqx, .objs, .objx, .binds, .cores, .fab, .mirrors, .out] s t := by
  exact cmdRow_only rfl (fun c s => only_step (opPlan_only c s) rfl (only_refl _ _)) h

theorem execSliceForm_only {c : Cmd} {s t : State} (h : execSliceForm c s = .next t) : OnlyChanges [.clk, .mem,
    .wordErr, .dirty, .seats, .mboxes, .bank, .reqs, .reqx, .objs, .objx, .stakes, .binds, .slot, .ingots, .cores,
    .fab, .mirrors, .out, .free] s t := by
  exact cmdRow_only rfl (fun c s => only_step (opSlice_only c s) rfl (only_refl _ _)) h

theorem execSliceDissolve_only {c : Cmd} {s t : State} (h : execSliceDissolve c s = .next t) : OnlyChanges [.clk,
    .mem, .wordErr, .dirty, .seats, .mboxes, .bank, .reqs, .reqx, .objs, .objx, .stakes, .binds, .slot, .ingots,
    .cores, .fab, .mirrors, .out, .free] s t := by
  exact cmdRow_only rfl (fun c s => only_step (opSlice_only c s) rfl (only_refl _ _)) h

theorem execSliceHold_only {c : Cmd} {s t : State} (h : execSliceHold c s = .next t) : OnlyChanges [.clk, .mem,
    .wordErr, .dirty, .seats, .mboxes, .bank, .reqs, .reqx, .objs, .objx, .stakes, .binds, .slot, .ingots, .cores,
    .fab, .mirrors, .out, .free] s t := by
  exact cmdRow_only rfl (fun c s => only_step (opSlice_only c s) rfl (only_refl _ _)) h

theorem execSliceContinue_only {c : Cmd} {s t : State} (h : execSliceContinue c s = .next t) : OnlyChanges [.clk,
    .mem, .wordErr, .dirty, .seats, .mboxes, .bank, .reqs, .reqx, .objs, .objx, .stakes, .binds, .slot, .ingots,
    .cores, .fab, .mirrors, .out, .free] s t := by
  exact cmdRow_only rfl (fun c s => only_step (opSlice_only c s) rfl (only_refl _ _)) h

theorem execSliceReset_only {c : Cmd} {s t : State} (h : execSliceReset c s = .next t) : OnlyChanges [.clk, .mem,
    .wordErr, .dirty, .seats, .mboxes, .bank, .reqs, .reqx, .objs, .objx, .stakes, .binds, .slot, .ingots, .cores,
    .fab, .mirrors, .out, .free] s t := by
  exact cmdRow_only rfl (fun c s => only_step (opSlice_only c s) rfl (only_refl _ _)) h

theorem execSliceCut_only {c : Cmd} {s t : State} (h : execSliceCut c s = .next t) : OnlyChanges [.clk, .mem,
    .wordErr, .dirty, .seats, .mboxes, .bank, .reqs, .reqx, .objs, .objx, .stakes, .binds, .slot, .ingots, .cores,
    .fab, .mirrors, .out, .free] s t := by
  exact cmdRow_only rfl (fun c s => only_step (opSlice_only c s) rfl (only_refl _ _)) h

theorem execSliceUncut_only {c : Cmd} {s t : State} (h : execSliceUncut c s = .next t) : OnlyChanges [.clk, .mem,
    .wordErr, .dirty, .seats, .mboxes, .bank, .reqs, .reqx, .objs, .objx, .stakes, .binds, .slot, .ingots, .cores,
    .fab, .mirrors, .out, .free] s t := by
  exact cmdRow_only rfl (fun c s => only_step (opSlice_only c s) rfl (only_refl _ _)) h

theorem execFormResend_only  {s t : State} (h : execFormResend s = .next t) : OnlyChanges [.dirty, .bank, .reqx,
    .objs, .objx, .binds, .cores, .fab, .out] s t := by
  unfold execFormResend at h
  refine act_only h ?_
  beta_reduce
  repeat' first
    | (show List.all _ _ = true; decide)
    | extract_lets
    | with_reducible exact only_refl _ _
    | with_reducible apply only_step (formSend_only ..)
    | with_reducible apply when_only

theorem execFormTimeout_only  {s t : State} (h : execFormTimeout s = .next t) : OnlyChanges [.seats, .bank, .fab,
    .out] s t := by
  unfold execFormTimeout at h
  refine act_only h ?_
  beta_reduce
  repeat' first
    | (show List.all _ _ = true; decide)
    | extract_lets
    | with_reducible exact only_refl _ _
    | with_reducible apply only_step (formFail_only ..)
    | with_reducible apply when_only

theorem execCommitSection_only {b : Nat} {s t : State} (h : execCommitSection b s = .next t) : OnlyChanges [.mem,
    .wordErr, .dirty, .seats, .bank, .reqs, .reqx, .objs, .objx, .stakes, .hist, .binds, .slot, .ingots, .cores,
    .fab, .mirrors, .out, .free] s t := by
  unfold execCommitSection at h
  refine act_only h ?_
  beta_reduce
  repeat' first
    | (show List.all _ _ = true; decide)
    | extract_lets
    | with_reducible exact only_refl _ _
    | with_reducible apply only_step (barrierArrive_only ..)
    | with_reducible apply only_step (commitTurn_only ..)
    | with_reducible apply only_step (leaderCommit_only ..)
    | with_reducible apply only_step (state_updBind_only ..)
    | with_reducible apply when_only
    | split

theorem execReleasePhase_only {b : Nat} {s t : State} (h : execReleasePhase b s = .next t) : OnlyChanges [.mem,
    .wordErr, .dirty, .seats, .bank, .reqs, .reqx, .objs, .objx, .stakes, .binds, .slot, .ingots, .cores, .fab,
    .mirrors, .out, .free] s t := by
  unfold execReleasePhase at h
  refine act_only h ?_
  beta_reduce
  repeat' first
    | (show List.all _ _ = true; decide)
    | extract_lets
    | with_reducible exact only_refl _ _
    | with_reducible apply only_step (releaseAll_only ..)
    | with_reducible apply only_step (resetCheck_only ..)
    | with_reducible apply when_only

theorem execBarrierGather_only {via : Carrier} {rec : BitVec 512} {s t : State} (h :
    execBarrierGather via rec s = .next t) : OnlyChanges [.mem, .wordErr, .dirty, .seats, .bank, .reqs, .reqx,
    .objs, .objx, .stakes, .hist, .binds, .slot, .ingots, .cores, .fab, .mirrors, .out, .free] s t := by
  unfold execBarrierGather messageRow at h
  refine act_only h ?_
  beta_reduce
  repeat' first
    | (show List.all _ _ = true; decide)
    | extract_lets
    | with_reducible exact only_refl _ _
    | with_reducible apply only_step (answer_only ..)
    | with_reducible apply only_step (gatherRecord_only ..)
    | with_reducible apply only_step (receivedPackets_only ..)
    | with_reducible apply when_only
    | split

theorem execBarrierScatter_only {rec : Msg (BitVec 512)} {entries : List SliceEnt} {s t :
    State} (h : execBarrierScatter rec entries s = .next t) : OnlyChanges [.mem, .wordErr, .dirty, .seats,
    .bank, .reqs, .reqx, .objs, .objx, .stakes, .hist, .binds, .slot, .ingots, .cores, .fab, .mirrors, .out, .free]
    s t := by
  unfold execBarrierScatter messageRow at h
  refine act_only h ?_
  beta_reduce
  repeat' first
    | (show List.all _ _ = true; decide)
    | extract_lets
    | with_reducible exact only_refl _ _
    | with_reducible apply only_step (answer_only ..)
    | with_reducible apply only_step (receivedPackets_only ..)
    | with_reducible apply only_step (scatterRecord_only ..)
    | with_reducible apply when_only
    | split

theorem execBarrierTimeout_only {b : Nat} {s t : State} (h : execBarrierTimeout b s = .next t) : OnlyChanges [.mem,
    .wordErr, .dirty, .seats, .bank, .reqs, .reqx, .objs, .objx, .binds, .slot, .ingots, .cores, .fab, .mirrors,
    .out, .free] s t := by
  unfold execBarrierTimeout at h
  refine act_only h ?_
  beta_reduce
  repeat' first
    | (show List.all _ _ = true; decide)
    | extract_lets
    | with_reducible exact only_refl _ _
    | with_reducible apply only_step (abandonTurn_only ..)
    | with_reducible apply only_step (countSlice_only ..)
    | with_reducible apply only_step (faultBinding_only ..)
    | with_reducible apply only_step (sendGather_only ..)
    | with_reducible apply only_step (setBarrier_only ..)
    | with_reducible apply only_step (setSlice_only ..)
    | with_reducible apply only_step (sliceEvent_only ..)
    | with_reducible apply when_only
    | split

theorem execMirrorPair_only {c : Cmd} {s t : State} (h : execMirrorPair c s = .next t) : OnlyChanges [.mem,
    .wordErr, .dirty, .seats, .mboxes, .bank, .reqs, .reqx, .objs, .objx, .stakes, .binds, .slot, .ingots, .cores,
    .fab, .mirrors, .out, .free] s t := by
  exact cmdRow_only rfl (fun c s => only_step (opMirror_only c s) rfl (only_refl _ _)) h

theorem execMirrorUnpair_only {c : Cmd} {s t : State} (h : execMirrorUnpair c s = .next t) : OnlyChanges [.mem,
    .wordErr, .dirty, .seats, .mboxes, .bank, .reqs, .reqx, .objs, .objx, .stakes, .binds, .slot, .ingots, .cores,
    .fab, .mirrors, .out, .free] s t := by
  exact cmdRow_only rfl (fun c s => only_step (opMirror_only c s) rfl (only_refl _ _)) h

theorem execMirrorTakeover_only {c : Cmd} {s t : State} (h : execMirrorTakeover c s = .next t) : OnlyChanges [.mem,
    .wordErr, .dirty, .seats, .mboxes, .bank, .reqs, .reqx, .objs, .objx, .stakes, .binds, .slot, .ingots, .cores,
    .fab, .mirrors, .out, .free] s t := by
  exact cmdRow_only rfl (fun c s => only_step (opMirror_only c s) rfl (only_refl _ _)) h

theorem execMirrorCompare_only {seat : Msg Nat} {peer : MirPeer} {s t : State}
    (h : execMirrorCompare seat peer s = .next t) : OnlyChanges [.mem, .wordErr, .dirty, .seats,
    .bank, .reqx, .objs, .objx, .binds, .cores, .fab, .mirrors, .out, .free] s t := by
  unfold execMirrorCompare messageRow at h
  refine act_only h ?_
  beta_reduce
  repeat' first
    | (show List.all _ _ = true; decide)
    | extract_lets
    | with_reducible exact only_refl _ _
    | with_reducible apply only_step (answer_only ..)
    | with_reducible apply only_step (comparePeer_only ..)
    | with_reducible apply only_step (receivedPackets_only ..)
    | with_reducible apply when_only
    | split

theorem execMirrorPairTimeout_only {seat : Nat} {s t : State} (h : execMirrorPairTimeout seat s = .next t) :
    OnlyChanges [.mem, .wordErr, .dirty, .seats, .objx, .mirrors, .out] s t := by
  unfold execMirrorPairTimeout at h
  refine act_only h ?_
  beta_reduce
  repeat' first
    | (show List.all _ _ = true; decide)
    | extract_lets
    | with_reducible exact only_refl _ _
    | with_reducible apply only_step (unpair_only ..)
    | with_reducible apply when_only

theorem execMirrorSyncComplete_only {seat : Nat} {s t : State} (h : execMirrorSyncComplete seat s = .next t) :
    OnlyChanges [.dirty, .bank, .reqx, .objs, .objx, .binds, .cores, .fab, .mirrors, .out, .free] s t := by
  unfold execMirrorSyncComplete at h
  refine act_only h ?_
  beta_reduce
  repeat' first
    | (show List.all _ _ = true; decide)
    | extract_lets
    | with_reducible exact only_refl _ _
    | with_reducible apply only_step (sendJournal_only ..)
    | with_reducible apply only_step (setMirSt_only ..)
    | with_reducible apply when_only
    | split

theorem execMirrorJournal_only {seat : Msg Nat} {items : List JournalItem} {s t :
    State} (h : execMirrorJournal seat items s = .next t) : OnlyChanges [.mem, .wordErr, .dirty, .reqs,
    .objx, .stakes, .binds, .fab, .mirrors] s t := by
  unfold execMirrorJournal messageRow at h
  refine act_only h ?_
  beta_reduce
  repeat' first
    | (show List.all _ _ = true; decide)
    | extract_lets
    | with_reducible exact only_refl _ _
    | with_reducible apply only_step (answer_only ..)
    | with_reducible apply only_step (receivedPackets_only ..)
    | with_reducible apply only_step (takeJournal_only ..)
    | with_reducible apply when_only
    | split

theorem execSealRecord_only {seat : Msg Nat} {binding turn : Nat} {s t : State} (h :
    execSealRecord seat binding turn s = .next t) : OnlyChanges [.mem, .wordErr, .dirty, .bank, .reqs,
    .reqx, .objs, .objx, .stakes, .binds, .cores, .fab, .mirrors, .out, .free] s t := by
  unfold execSealRecord messageRow at h
  refine act_only h ?_
  beta_reduce
  repeat' first
    | (show List.all _ _ = true; decide)
    | extract_lets
    | with_reducible exact only_refl _ _
    | with_reducible apply only_step (answer_only ..)
    | with_reducible apply only_step (receivedPackets_only ..)
    | with_reducible apply only_step (takeSeal_only ..)
    | with_reducible apply when_only
    | split

theorem execSealAck_only {seat : Msg Nat} {binding turn : Nat} {s t : State} (h : execSealAck seat binding turn s = .next t) : OnlyChanges [.mem, .wordErr, .dirty, .seats, .objx, .fab, .mirrors,
    .out] s t := by
  unfold execSealAck messageRow at h
  refine act_only h ?_
  beta_reduce
  repeat' first
    | (show List.all _ _ = true; decide)
    | extract_lets
    | with_reducible exact only_refl _ _
    | with_reducible apply only_step (answer_only ..)
    | with_reducible apply only_step (receivedPackets_only ..)
    | with_reducible apply only_step (takeSealAck_only ..)
    | with_reducible apply when_only
    | split

theorem execSealTimeout_only {seat : Nat} {s t : State} (h : execSealTimeout seat s = .next t) : OnlyChanges [.mem,
    .wordErr, .dirty, .seats, .bank, .objx, .mirrors, .out] s t := by
  unfold execSealTimeout at h
  refine act_only h ?_
  beta_reduce
  repeat' first
    | (show List.all _ _ = true; decide)
    | extract_lets
    | with_reducible exact only_refl _ _
    | with_reducible apply only_step (mirrorLost_only ..)
    | with_reducible apply when_only

theorem execDesc_only {ingot : Nat} {via : Via} {hdr : BitVec 128} {d : BitVec 256} {s t : State} (h : execDesc
    ingot via hdr d s = .next t) : OnlyChanges [.mem, .wordErr, .dirty, .seats, .bank, .reqs, .reqx, .objs, .objx,
    .binds, .slot, .ingots, .pips, .cores, .fab, .mirrors, .out, .free] s t := by
  unfold execDesc dispRow at h
  refine act_only h ?_
  beta_reduce
  repeat' first
    | (show List.all _ _ = true; decide)
    | extract_lets
    | with_reducible exact only_refl _ _
    | with_reducible apply only_step (arrive_only ..)
    | with_reducible apply only_step (dispReceived_only ..)
    | with_reducible apply when_only

theorem execDescMasked_only {ingot : Nat} {via : Via} {hdr : BitVec 128} {d : BitVec 256} {mask : BitVec 128} {s t
    : State} (h : execDescMasked ingot via hdr d mask s = .next t) : OnlyChanges [.mem, .wordErr, .dirty, .seats,
    .bank, .reqs, .reqx, .objs, .objx, .binds, .slot, .ingots, .pips, .cores, .fab, .mirrors, .out, .free] s t := by
  unfold execDescMasked dispRow at h
  refine act_only h ?_
  beta_reduce
  repeat' first
    | (show List.all _ _ = true; decide)
    | extract_lets
    | with_reducible exact only_refl _ _
    | with_reducible apply only_step (arrive_only ..)
    | with_reducible apply only_step (dispReceived_only ..)
    | with_reducible apply when_only

theorem execQuery_only {ingot : Nat} {via : Via} {hdr : BitVec 128} {words : List W32} {s t : State} (h : execQuery
    ingot via hdr words s = .next t) : OnlyChanges [.mem, .wordErr, .dirty, .seats, .bank, .reqs, .reqx, .objs,
    .objx, .binds, .slot, .ingots, .pips, .cores, .fab, .mirrors, .out, .free] s t := by
  unfold execQuery dispRow at h
  refine act_only h ?_
  beta_reduce
  repeat' first
    | (show List.all _ _ = true; decide)
    | extract_lets
    | with_reducible exact only_refl _ _
    | with_reducible apply only_step (arrive_only ..)
    | with_reducible apply only_step (dispReceived_only ..)
    | with_reducible apply when_only

theorem execClose_only {ingot : Nat} {via : Via} {hdr : BitVec 128} {s t : State} (h : execClose ingot via hdr s =
    .next t) : OnlyChanges [.mem, .wordErr, .dirty, .seats, .bank, .reqs, .reqx, .objs, .objx, .binds, .slot,
    .ingots, .pips, .cores, .fab, .mirrors, .out, .free] s t := by
  unfold execClose dispRow at h
  refine act_only h ?_
  beta_reduce
  repeat' first
    | (show List.all _ _ = true; decide)
    | extract_lets
    | with_reducible exact only_refl _ _
    | with_reducible apply only_step (arrive_only ..)
    | with_reducible apply only_step (dispReceived_only ..)
    | with_reducible apply when_only

theorem execDispatchRelease_only {ingot : Nat} {via : Via} {hdr : BitVec 128} {s t : State} (h :
    execDispatchRelease ingot via hdr s = .next t) : OnlyChanges [.mem, .wordErr, .dirty, .seats, .bank, .reqs,
    .reqx, .objs, .objx, .binds, .slot, .ingots, .pips, .cores, .fab, .mirrors, .out, .free] s t := by
  unfold execDispatchRelease dispRow at h
  refine act_only h ?_
  beta_reduce
  repeat' first
    | (show List.all _ _ = true; decide)
    | extract_lets
    | with_reducible exact only_refl _ _
    | with_reducible apply only_step (arrive_only ..)
    | with_reducible apply only_step (dispReceived_only ..)
    | with_reducible apply when_only

theorem execLockExpiry_only {ingot page : Nat} {s t : State} (h : execLockExpiry ingot page s = .next t) :
    OnlyChanges [.mem, .wordErr, .dirty, .seats, .bank, .reqs, .reqx, .objs, .objx, .binds, .slot, .ingots, .pips,
    .cores, .fab, .mirrors, .out, .free] s t := by
  unfold execLockExpiry at h
  refine act_only h ?_
  beta_reduce
  repeat' first
    | (show List.all _ _ = true; decide)
    | extract_lets
    | with_reducible exact only_refl _ _
    | with_reducible apply only_step (drained_only ..)
    | with_reducible apply only_step (lockExpire_only ..)
    | with_reducible apply when_only

theorem execResultRecord_only {ingot : Nat} {s t : State} (h : execResultRecord ingot s = .next t) : OnlyChanges
    [.mem, .wordErr, .dirty, .seats, .bank, .reqs, .reqx, .objs, .objx, .binds, .slot, .ingots, .pips, .cores,
    .clusters, .fab, .mirrors, .out, .free] s t := by
  unfold execResultRecord at h
  refine act_only h ?_
  beta_reduce
  repeat' first
    | (show List.all _ _ = true; decide)
    | extract_lets
    | with_reducible exact only_refl _ _
    | with_reducible apply only_step (resultRecord_only ..)
    | with_reducible apply when_only

theorem execDescriptorStart_only {p : Nat} {s t : State} (h : execDescriptorStart p s = .next t) : OnlyChanges
    [.mem, .wordErr, .dirty, .seats, .bank, .reqs, .reqx, .objs, .objx, .binds, .slot, .ingots, .pips, .cores,
    .fab, .mirrors, .out, .free] s t := by
  unfold execDescriptorStart at h
  refine act_only h ?_
  beta_reduce
  repeat' first
    | (show List.all _ _ = true; decide)
    | extract_lets
    | with_reducible exact only_refl _ _
    | with_reducible apply only_step (startDesc_only ..)
    | split

theorem execRowStreamBeat_only {p : Nat} {s t : State} (h : execRowStreamBeat p s = .next t) : OnlyChanges [.mem,
    .wordErr, .dirty, .seats, .bank, .reqs, .reqx, .objs, .objx, .binds, .slot, .ingots, .hm, .pips, .cores, .fab,
    .mirrors, .out, .free] s t := by
  unfold execRowStreamBeat at h
  refine act_only h ?_
  beta_reduce
  repeat' first
    | (show List.all _ _ = true; decide)
    | extract_lets
    | with_reducible exact only_refl _ _
    | with_reducible apply only_step (streamBeat_only ..)
    | with_reducible apply when_only

theorem execPipNop_only {p : Nat} {s t : State} (h : execPipNop p s = .next t) : OnlyChanges [.mem, .wordErr,
    .dirty, .seats, .bank, .reqs, .reqx, .objs, .objx, .binds, .slot, .ingots, .pips, .cores, .fab, .mirrors, .out,
    .free] s t := by
  unfold execPipNop pipPure pipRow at h
  refine act_only h ?_
  beta_reduce
  repeat' first
    | (show List.all _ _ = true; decide)
    | extract_lets
    | with_reducible exact only_refl _ _
    | with_reducible apply only_step (pipFault_only ..)
    | with_reducible apply only_step (pipIssue_only ..)
    | with_reducible apply only_step (state_setPip_only ..)
    | with_reducible apply when_only
    | split

theorem execPipEnd_only {p : Nat} {s t : State} (h : execPipEnd p s = .next t) : OnlyChanges [.mem, .wordErr,
    .dirty, .seats, .bank, .reqs, .reqx, .objs, .objx, .binds, .slot, .ingots, .pips, .cores, .clusters, .fab,
    .mirrors, .out, .free] s t := by
  unfold execPipEnd pipRow at h
  refine act_only h ?_
  beta_reduce
  repeat' first
    | (show List.all _ _ = true; decide)
    | extract_lets
    | with_reducible exact only_refl _ _
    | with_reducible apply only_step (pipDone_only ..)
    | with_reducible apply only_step (pipFault_only ..)
    | with_reducible apply only_step (pipIssue_only ..)
    | with_reducible apply when_only
    | split

theorem execPipAdd_only {p : Nat} {s t : State} (h : execPipAdd p s = .next t) : OnlyChanges [.mem, .wordErr,
    .dirty, .seats, .bank, .reqs, .reqx, .objs, .objx, .binds, .slot, .ingots, .pips, .cores, .fab, .mirrors, .out,
    .free] s t := by
  unfold execPipAdd pipAlu pipPure pipRow at h
  refine act_only h ?_
  beta_reduce
  repeat' first
    | (show List.all _ _ = true; decide)
    | extract_lets
    | with_reducible exact only_refl _ _
    | with_reducible apply only_step (pipFault_only ..)
    | with_reducible apply only_step (pipIssue_only ..)
    | with_reducible apply only_step (state_setPip_only ..)
    | with_reducible apply when_only
    | split

theorem execPipSub_only {p : Nat} {s t : State} (h : execPipSub p s = .next t) : OnlyChanges [.mem, .wordErr,
    .dirty, .seats, .bank, .reqs, .reqx, .objs, .objx, .binds, .slot, .ingots, .pips, .cores, .fab, .mirrors, .out,
    .free] s t := by
  unfold execPipSub pipAlu pipPure pipRow at h
  refine act_only h ?_
  beta_reduce
  repeat' first
    | (show List.all _ _ = true; decide)
    | extract_lets
    | with_reducible exact only_refl _ _
    | with_reducible apply only_step (pipFault_only ..)
    | with_reducible apply only_step (pipIssue_only ..)
    | with_reducible apply only_step (state_setPip_only ..)
    | with_reducible apply when_only
    | split

theorem execPipAnd_only {p : Nat} {s t : State} (h : execPipAnd p s = .next t) : OnlyChanges [.mem, .wordErr,
    .dirty, .seats, .bank, .reqs, .reqx, .objs, .objx, .binds, .slot, .ingots, .pips, .cores, .fab, .mirrors, .out,
    .free] s t := by
  unfold execPipAnd pipAlu pipPure pipRow at h
  refine act_only h ?_
  beta_reduce
  repeat' first
    | (show List.all _ _ = true; decide)
    | extract_lets
    | with_reducible exact only_refl _ _
    | with_reducible apply only_step (pipFault_only ..)
    | with_reducible apply only_step (pipIssue_only ..)
    | with_reducible apply only_step (state_setPip_only ..)
    | with_reducible apply when_only
    | split

theorem execPipOr_only {p : Nat} {s t : State} (h : execPipOr p s = .next t) : OnlyChanges [.mem, .wordErr, .dirty,
    .seats, .bank, .reqs, .reqx, .objs, .objx, .binds, .slot, .ingots, .pips, .cores, .fab, .mirrors, .out, .free]
    s t := by
  unfold execPipOr pipAlu pipPure pipRow at h
  refine act_only h ?_
  beta_reduce
  repeat' first
    | (show List.all _ _ = true; decide)
    | extract_lets
    | with_reducible exact only_refl _ _
    | with_reducible apply only_step (pipFault_only ..)
    | with_reducible apply only_step (pipIssue_only ..)
    | with_reducible apply only_step (state_setPip_only ..)
    | with_reducible apply when_only
    | split

theorem execPipXor_only {p : Nat} {s t : State} (h : execPipXor p s = .next t) : OnlyChanges [.mem, .wordErr,
    .dirty, .seats, .bank, .reqs, .reqx, .objs, .objx, .binds, .slot, .ingots, .pips, .cores, .fab, .mirrors, .out,
    .free] s t := by
  unfold execPipXor pipAlu pipPure pipRow at h
  refine act_only h ?_
  beta_reduce
  repeat' first
    | (show List.all _ _ = true; decide)
    | extract_lets
    | with_reducible exact only_refl _ _
    | with_reducible apply only_step (pipFault_only ..)
    | with_reducible apply only_step (pipIssue_only ..)
    | with_reducible apply only_step (state_setPip_only ..)
    | with_reducible apply when_only
    | split

theorem execPipShl_only {p : Nat} {s t : State} (h : execPipShl p s = .next t) : OnlyChanges [.mem, .wordErr,
    .dirty, .seats, .bank, .reqs, .reqx, .objs, .objx, .binds, .slot, .ingots, .pips, .cores, .fab, .mirrors, .out,
    .free] s t := by
  unfold execPipShl pipAlu pipPure pipRow at h
  refine act_only h ?_
  beta_reduce
  repeat' first
    | (show List.all _ _ = true; decide)
    | extract_lets
    | with_reducible exact only_refl _ _
    | with_reducible apply only_step (pipFault_only ..)
    | with_reducible apply only_step (pipIssue_only ..)
    | with_reducible apply only_step (state_setPip_only ..)
    | with_reducible apply when_only
    | split

theorem execPipShr_only {p : Nat} {s t : State} (h : execPipShr p s = .next t) : OnlyChanges [.mem, .wordErr,
    .dirty, .seats, .bank, .reqs, .reqx, .objs, .objx, .binds, .slot, .ingots, .pips, .cores, .fab, .mirrors, .out,
    .free] s t := by
  unfold execPipShr pipAlu pipPure pipRow at h
  refine act_only h ?_
  beta_reduce
  repeat' first
    | (show List.all _ _ = true; decide)
    | extract_lets
    | with_reducible exact only_refl _ _
    | with_reducible apply only_step (pipFault_only ..)
    | with_reducible apply only_step (pipIssue_only ..)
    | with_reducible apply only_step (state_setPip_only ..)
    | with_reducible apply when_only
    | split

theorem execPipMul_only {p : Nat} {s t : State} (h : execPipMul p s = .next t) : OnlyChanges [.mem, .wordErr,
    .dirty, .seats, .bank, .reqs, .reqx, .objs, .objx, .binds, .slot, .ingots, .pips, .cores, .fab, .mirrors, .out,
    .free] s t := by
  unfold execPipMul pipAlu pipPure pipRow at h
  refine act_only h ?_
  beta_reduce
  repeat' first
    | (show List.all _ _ = true; decide)
    | extract_lets
    | with_reducible exact only_refl _ _
    | with_reducible apply only_step (pipFault_only ..)
    | with_reducible apply only_step (pipIssue_only ..)
    | with_reducible apply only_step (state_setPip_only ..)
    | with_reducible apply when_only
    | split

theorem execPipAddi_only {p : Nat} {s t : State} (h : execPipAddi p s = .next t) : OnlyChanges [.mem, .wordErr,
    .dirty, .seats, .bank, .reqs, .reqx, .objs, .objx, .binds, .slot, .ingots, .pips, .cores, .fab, .mirrors, .out,
    .free] s t := by
  unfold execPipAddi pipAluImm pipPure pipRow at h
  refine act_only h ?_
  beta_reduce
  repeat' first
    | (show List.all _ _ = true; decide)
    | extract_lets
    | with_reducible exact only_refl _ _
    | with_reducible apply only_step (pipFault_only ..)
    | with_reducible apply only_step (pipIssue_only ..)
    | with_reducible apply only_step (state_setPip_only ..)
    | with_reducible apply when_only
    | split

theorem execPipAndi_only {p : Nat} {s t : State} (h : execPipAndi p s = .next t) : OnlyChanges [.mem, .wordErr,
    .dirty, .seats, .bank, .reqs, .reqx, .objs, .objx, .binds, .slot, .ingots, .pips, .cores, .fab, .mirrors, .out,
    .free] s t := by
  unfold execPipAndi pipAluImm pipPure pipRow at h
  refine act_only h ?_
  beta_reduce
  repeat' first
    | (show List.all _ _ = true; decide)
    | extract_lets
    | with_reducible exact only_refl _ _
    | with_reducible apply only_step (pipFault_only ..)
    | with_reducible apply only_step (pipIssue_only ..)
    | with_reducible apply only_step (state_setPip_only ..)
    | with_reducible apply when_only
    | split

theorem execPipShri_only {p : Nat} {s t : State} (h : execPipShri p s = .next t) : OnlyChanges [.mem, .wordErr,
    .dirty, .seats, .bank, .reqs, .reqx, .objs, .objx, .binds, .slot, .ingots, .pips, .cores, .fab, .mirrors, .out,
    .free] s t := by
  unfold execPipShri pipAluImm pipPure pipRow at h
  refine act_only h ?_
  beta_reduce
  repeat' first
    | (show List.all _ _ = true; decide)
    | extract_lets
    | with_reducible exact only_refl _ _
    | with_reducible apply only_step (pipFault_only ..)
    | with_reducible apply only_step (pipIssue_only ..)
    | with_reducible apply only_step (state_setPip_only ..)
    | with_reducible apply when_only
    | split

theorem execPipShli_only {p : Nat} {s t : State} (h : execPipShli p s = .next t) : OnlyChanges [.mem, .wordErr,
    .dirty, .seats, .bank, .reqs, .reqx, .objs, .objx, .binds, .slot, .ingots, .pips, .cores, .fab, .mirrors, .out,
    .free] s t := by
  unfold execPipShli pipAluImm pipPure pipRow at h
  refine act_only h ?_
  beta_reduce
  repeat' first
    | (show List.all _ _ = true; decide)
    | extract_lets
    | with_reducible exact only_refl _ _
    | with_reducible apply only_step (pipFault_only ..)
    | with_reducible apply only_step (pipIssue_only ..)
    | with_reducible apply only_step (state_setPip_only ..)
    | with_reducible apply when_only
    | split

theorem execPipLui_only {p : Nat} {s t : State} (h : execPipLui p s = .next t) : OnlyChanges [.mem, .wordErr,
    .dirty, .seats, .bank, .reqs, .reqx, .objs, .objx, .binds, .slot, .ingots, .pips, .cores, .fab, .mirrors, .out,
    .free] s t := by
  unfold execPipLui pipAluImm pipPure pipRow at h
  refine act_only h ?_
  beta_reduce
  repeat' first
    | (show List.all _ _ = true; decide)
    | extract_lets
    | with_reducible exact only_refl _ _
    | with_reducible apply only_step (pipFault_only ..)
    | with_reducible apply only_step (pipIssue_only ..)
    | with_reducible apply only_step (state_setPip_only ..)
    | with_reducible apply when_only
    | split

theorem execPipLdw_only {p : Nat} {s t : State} (h : execPipLdw p s = .next t) : OnlyChanges [.mem, .wordErr,
    .dirty, .seats, .bank, .reqs, .reqx, .objs, .objx, .binds, .slot, .ingots, .pips, .cores, .fab, .mirrors, .out,
    .free] s t := by
  unfold execPipLdw pipMem pipRow at h
  refine act_only h ?_
  beta_reduce
  repeat' first
    | (show List.all _ _ = true; decide)
    | extract_lets
    | with_reducible exact only_refl _ _
    | with_reducible apply only_step (pipFault_only ..)
    | with_reducible apply only_step (pipIssue_only ..)
    | with_reducible apply only_step (state_setPip_only ..)
    | with_reducible apply when_only
    | split

theorem execPipStw_only {p : Nat} {s t : State} (h : execPipStw p s = .next t) : OnlyChanges [.mem, .wordErr,
    .dirty, .seats, .bank, .reqs, .reqx, .objs, .objx, .binds, .slot, .ingots, .pips, .cores, .fab, .mirrors, .out,
    .free] s t := by
  unfold execPipStw pipMem pipRow at h
  refine act_only h ?_
  beta_reduce
  repeat' first
    | (show List.all _ _ = true; decide)
    | extract_lets
    | with_reducible exact only_refl _ _
    | with_reducible apply only_step (pipFault_only ..)
    | with_reducible apply only_step (pipIssue_only ..)
    | with_reducible apply only_step (state_setPip_only ..)
    | with_reducible apply when_only
    | split

theorem execPipFadd_only {p : Nat} {s t : State} (h : execPipFadd p s = .next t) : OnlyChanges [.mem, .wordErr,
    .dirty, .seats, .bank, .reqs, .reqx, .objs, .objx, .binds, .slot, .ingots, .pips, .cores, .fab, .mirrors, .out,
    .free] s t := by
  unfold execPipFadd pipAlu pipPure pipRow at h
  refine act_only h ?_
  beta_reduce
  repeat' first
    | (show List.all _ _ = true; decide)
    | extract_lets
    | with_reducible exact only_refl _ _
    | with_reducible apply only_step (pipFault_only ..)
    | with_reducible apply only_step (pipIssue_only ..)
    | with_reducible apply only_step (state_setPip_only ..)
    | with_reducible apply when_only
    | split

theorem execPipFsub_only {p : Nat} {s t : State} (h : execPipFsub p s = .next t) : OnlyChanges [.mem, .wordErr,
    .dirty, .seats, .bank, .reqs, .reqx, .objs, .objx, .binds, .slot, .ingots, .pips, .cores, .fab, .mirrors, .out,
    .free] s t := by
  unfold execPipFsub pipAlu pipPure pipRow at h
  refine act_only h ?_
  beta_reduce
  repeat' first
    | (show List.all _ _ = true; decide)
    | extract_lets
    | with_reducible exact only_refl _ _
    | with_reducible apply only_step (pipFault_only ..)
    | with_reducible apply only_step (pipIssue_only ..)
    | with_reducible apply only_step (state_setPip_only ..)
    | with_reducible apply when_only
    | split

theorem execPipFmul_only {p : Nat} {s t : State} (h : execPipFmul p s = .next t) : OnlyChanges [.mem, .wordErr,
    .dirty, .seats, .bank, .reqs, .reqx, .objs, .objx, .binds, .slot, .ingots, .pips, .cores, .fab, .mirrors, .out,
    .free] s t := by
  unfold execPipFmul pipAlu pipPure pipRow at h
  refine act_only h ?_
  beta_reduce
  repeat' first
    | (show List.all _ _ = true; decide)
    | extract_lets
    | with_reducible exact only_refl _ _
    | with_reducible apply only_step (pipFault_only ..)
    | with_reducible apply only_step (pipIssue_only ..)
    | with_reducible apply only_step (state_setPip_only ..)
    | with_reducible apply when_only
    | split

theorem execPipFmax_only {p : Nat} {s t : State} (h : execPipFmax p s = .next t) : OnlyChanges [.mem, .wordErr,
    .dirty, .seats, .bank, .reqs, .reqx, .objs, .objx, .binds, .slot, .ingots, .pips, .cores, .fab, .mirrors, .out,
    .free] s t := by
  unfold execPipFmax pipAlu pipPure pipRow at h
  refine act_only h ?_
  beta_reduce
  repeat' first
    | (show List.all _ _ = true; decide)
    | extract_lets
    | with_reducible exact only_refl _ _
    | with_reducible apply only_step (pipFault_only ..)
    | with_reducible apply only_step (pipIssue_only ..)
    | with_reducible apply only_step (state_setPip_only ..)
    | with_reducible apply when_only
    | split

theorem execPipFexp2_only {p : Nat} {s t : State} (h : execPipFexp2 p s = .next t) : OnlyChanges [.mem, .wordErr,
    .dirty, .seats, .bank, .reqs, .reqx, .objs, .objx, .binds, .slot, .ingots, .pips, .cores, .fab, .mirrors, .out,
    .free] s t := by
  unfold execPipFexp2 pipAlu pipPure pipRow at h
  refine act_only h ?_
  beta_reduce
  repeat' first
    | (show List.all _ _ = true; decide)
    | extract_lets
    | with_reducible exact only_refl _ _
    | with_reducible apply only_step (pipFault_only ..)
    | with_reducible apply only_step (pipIssue_only ..)
    | with_reducible apply only_step (state_setPip_only ..)
    | with_reducible apply when_only
    | split

theorem execPipBeq_only {p : Nat} {s t : State} (h : execPipBeq p s = .next t) : OnlyChanges [.mem, .wordErr,
    .dirty, .seats, .bank, .reqs, .reqx, .objs, .objx, .binds, .slot, .ingots, .pips, .cores, .fab, .mirrors, .out,
    .free] s t := by
  unfold execPipBeq pipBranch pipRow at h
  refine act_only h ?_
  beta_reduce
  repeat' first
    | (show List.all _ _ = true; decide)
    | extract_lets
    | with_reducible exact only_refl _ _
    | with_reducible apply only_step (pipFault_only ..)
    | with_reducible apply only_step (pipIssue_only ..)
    | with_reducible apply only_step (state_setPip_only ..)
    | with_reducible apply when_only
    | split

theorem execPipBne_only {p : Nat} {s t : State} (h : execPipBne p s = .next t) : OnlyChanges [.mem, .wordErr,
    .dirty, .seats, .bank, .reqs, .reqx, .objs, .objx, .binds, .slot, .ingots, .pips, .cores, .fab, .mirrors, .out,
    .free] s t := by
  unfold execPipBne pipBranch pipRow at h
  refine act_only h ?_
  beta_reduce
  repeat' first
    | (show List.all _ _ = true; decide)
    | extract_lets
    | with_reducible exact only_refl _ _
    | with_reducible apply only_step (pipFault_only ..)
    | with_reducible apply only_step (pipIssue_only ..)
    | with_reducible apply only_step (state_setPip_only ..)
    | with_reducible apply when_only
    | split

theorem execPipBlt_only {p : Nat} {s t : State} (h : execPipBlt p s = .next t) : OnlyChanges [.mem, .wordErr,
    .dirty, .seats, .bank, .reqs, .reqx, .objs, .objx, .binds, .slot, .ingots, .pips, .cores, .fab, .mirrors, .out,
    .free] s t := by
  unfold execPipBlt pipBranch pipRow at h
  refine act_only h ?_
  beta_reduce
  repeat' first
    | (show List.all _ _ = true; decide)
    | extract_lets
    | with_reducible exact only_refl _ _
    | with_reducible apply only_step (pipFault_only ..)
    | with_reducible apply only_step (pipIssue_only ..)
    | with_reducible apply only_step (state_setPip_only ..)
    | with_reducible apply when_only
    | split

theorem execPipBge_only {p : Nat} {s t : State} (h : execPipBge p s = .next t) : OnlyChanges [.mem, .wordErr,
    .dirty, .seats, .bank, .reqs, .reqx, .objs, .objx, .binds, .slot, .ingots, .pips, .cores, .fab, .mirrors, .out,
    .free] s t := by
  unfold execPipBge pipBranch pipRow at h
  refine act_only h ?_
  beta_reduce
  repeat' first
    | (show List.all _ _ = true; decide)
    | extract_lets
    | with_reducible exact only_refl _ _
    | with_reducible apply only_step (pipFault_only ..)
    | with_reducible apply only_step (pipIssue_only ..)
    | with_reducible apply only_step (state_setPip_only ..)
    | with_reducible apply when_only
    | split

theorem execPipRep_only {p : Nat} {s t : State} (h : execPipRep p s = .next t) : OnlyChanges [.mem, .wordErr,
    .dirty, .seats, .bank, .reqs, .reqx, .objs, .objx, .binds, .slot, .ingots, .pips, .cores, .fab, .mirrors, .out,
    .free] s t := by
  unfold execPipRep pipRow at h
  refine act_only h ?_
  beta_reduce
  repeat' first
    | (show List.all _ _ = true; decide)
    | extract_lets
    | with_reducible exact only_refl _ _
    | with_reducible apply only_step (pipFault_only ..)
    | with_reducible apply only_step (pipIssue_only ..)
    | with_reducible apply only_step (state_setPip_only ..)
    | with_reducible apply when_only
    | split

theorem execPipRstr_only {p : Nat} {s t : State} (h : execPipRstr p s = .next t) : OnlyChanges [.mem, .wordErr,
    .dirty, .seats, .bank, .reqs, .reqx, .objs, .objx, .binds, .slot, .ingots, .pips, .cores, .fab, .mirrors, .out,
    .free] s t := by
  unfold execPipRstr pipRow at h
  refine act_only h ?_
  beta_reduce
  repeat' first
    | (show List.all _ _ = true; decide)
    | extract_lets
    | with_reducible exact only_refl _ _
    | with_reducible apply only_step (pipFault_only ..)
    | with_reducible apply only_step (pipIssue_only ..)
    | with_reducible apply only_step (state_setPip_only ..)
    | with_reducible apply when_only
    | split

theorem execPipStb_only {p : Nat} {s t : State} (h : execPipStb p s = .next t) : OnlyChanges [.mem, .wordErr,
    .dirty, .seats, .bank, .reqs, .reqx, .objs, .objx, .binds, .slot, .ingots, .hm, .pips, .cores, .fab, .mirrors,
    .out, .free] s t := by
  unfold execPipStb pipRow at h
  refine act_only h ?_
  beta_reduce
  repeat' first
    | (show List.all _ _ = true; decide)
    | extract_lets
    | with_reducible exact only_refl _ _
    | with_reducible apply only_step (bankServe_only ..)
    | with_reducible apply only_step (pipFault_only ..)
    | with_reducible apply only_step (pipIssue_only ..)
    | with_reducible apply only_step (pushExt_only ..)
    | with_reducible apply only_step (state_setPip_only ..)
    | with_reducible apply when_only
    | split

theorem execPipMac_only {p : Nat} {s t : State} (h : execPipMac p s = .next t) : OnlyChanges [.mem, .wordErr,
    .dirty, .seats, .bank, .reqs, .reqx, .objs, .objx, .binds, .slot, .ingots, .pips, .cores, .fab, .mirrors, .out,
    .free] s t := by
  unfold execPipMac pipRow at h
  refine act_only h ?_
  beta_reduce
  repeat' first
    | (show List.all _ _ = true; decide)
    | extract_lets
    | with_reducible exact only_refl _ _
    | with_reducible apply only_step (pipFault_only ..)
    | with_reducible apply only_step (pipIssue_only ..)
    | with_reducible apply only_step (state_setPip_only ..)
    | with_reducible apply when_only
    | split

theorem execPipScx_only {p : Nat} {s t : State} (h : execPipScx p s = .next t) : OnlyChanges [.mem, .wordErr,
    .dirty, .seats, .bank, .reqs, .reqx, .objs, .objx, .binds, .slot, .ingots, .pips, .cores, .fab, .mirrors, .out,
    .free] s t := by
  unfold execPipScx pipRow at h
  refine act_only h ?_
  beta_reduce
  repeat' first
    | (show List.all _ _ = true; decide)
    | extract_lets
    | with_reducible exact only_refl _ _
    | with_reducible apply only_step (pipFault_only ..)
    | with_reducible apply only_step (pipIssue_only ..)
    | with_reducible apply only_step (state_setPip_only ..)
    | with_reducible apply when_only
    | split

theorem execPipVzero_only {p : Nat} {s t : State} (h : execPipVzero p s = .next t) : OnlyChanges [.mem, .wordErr,
    .dirty, .seats, .bank, .reqs, .reqx, .objs, .objx, .binds, .slot, .ingots, .pips, .cores, .fab, .mirrors, .out,
    .free] s t := by
  unfold execPipVzero pipPure pipRow at h
  refine act_only h ?_
  beta_reduce
  repeat' first
    | (show List.all _ _ = true; decide)
    | extract_lets
    | with_reducible exact only_refl _ _
    | with_reducible apply only_step (pipFault_only ..)
    | with_reducible apply only_step (pipIssue_only ..)
    | with_reducible apply only_step (state_setPip_only ..)
    | with_reducible apply when_only
    | split

theorem execPipVadd_only {p : Nat} {s t : State} (h : execPipVadd p s = .next t) : OnlyChanges [.mem, .wordErr,
    .dirty, .seats, .bank, .reqs, .reqx, .objs, .objx, .binds, .slot, .ingots, .pips, .cores, .fab, .mirrors, .out,
    .free] s t := by
  unfold execPipVadd pipVec pipPure pipRow at h
  refine act_only h ?_
  beta_reduce
  repeat' first
    | (show List.all _ _ = true; decide)
    | extract_lets
    | with_reducible exact only_refl _ _
    | with_reducible apply only_step (pipFault_only ..)
    | with_reducible apply only_step (pipIssue_only ..)
    | with_reducible apply only_step (state_setPip_only ..)
    | with_reducible apply when_only
    | split

theorem execPipVmul_only {p : Nat} {s t : State} (h : execPipVmul p s = .next t) : OnlyChanges [.mem, .wordErr,
    .dirty, .seats, .bank, .reqs, .reqx, .objs, .objx, .binds, .slot, .ingots, .pips, .cores, .fab, .mirrors, .out,
    .free] s t := by
  unfold execPipVmul pipVec pipPure pipRow at h
  refine act_only h ?_
  beta_reduce
  repeat' first
    | (show List.all _ _ = true; decide)
    | extract_lets
    | with_reducible exact only_refl _ _
    | with_reducible apply only_step (pipFault_only ..)
    | with_reducible apply only_step (pipIssue_only ..)
    | with_reducible apply only_step (state_setPip_only ..)
    | with_reducible apply when_only
    | split

theorem execPipVfma_only {p : Nat} {s t : State} (h : execPipVfma p s = .next t) : OnlyChanges [.mem, .wordErr,
    .dirty, .seats, .bank, .reqs, .reqx, .objs, .objx, .binds, .slot, .ingots, .pips, .cores, .fab, .mirrors, .out,
    .free] s t := by
  unfold execPipVfma pipPure pipRow at h
  refine act_only h ?_
  beta_reduce
  repeat' first
    | (show List.all _ _ = true; decide)
    | extract_lets
    | with_reducible exact only_refl _ _
    | with_reducible apply only_step (pipFault_only ..)
    | with_reducible apply only_step (pipIssue_only ..)
    | with_reducible apply only_step (state_setPip_only ..)
    | with_reducible apply when_only
    | split

theorem execPipVmax_only {p : Nat} {s t : State} (h : execPipVmax p s = .next t) : OnlyChanges [.mem, .wordErr,
    .dirty, .seats, .bank, .reqs, .reqx, .objs, .objx, .binds, .slot, .ingots, .pips, .cores, .fab, .mirrors, .out,
    .free] s t := by
  unfold execPipVmax pipVec pipPure pipRow at h
  refine act_only h ?_
  beta_reduce
  repeat' first
    | (show List.all _ _ = true; decide)
    | extract_lets
    | with_reducible exact only_refl _ _
    | with_reducible apply only_step (pipFault_only ..)
    | with_reducible apply only_step (pipIssue_only ..)
    | with_reducible apply only_step (state_setPip_only ..)
    | with_reducible apply when_only
    | split

theorem execPipVadds_only {p : Nat} {s t : State} (h : execPipVadds p s = .next t) : OnlyChanges [.mem, .wordErr,
    .dirty, .seats, .bank, .reqs, .reqx, .objs, .objx, .binds, .slot, .ingots, .pips, .cores, .fab, .mirrors, .out,
    .free] s t := by
  unfold execPipVadds pipVecS pipPure pipRow at h
  refine act_only h ?_
  beta_reduce
  repeat' first
    | (show List.all _ _ = true; decide)
    | extract_lets
    | with_reducible exact only_refl _ _
    | with_reducible apply only_step (pipFault_only ..)
    | with_reducible apply only_step (pipIssue_only ..)
    | with_reducible apply only_step (state_setPip_only ..)
    | with_reducible apply when_only
    | split

theorem execPipVmuls_only {p : Nat} {s t : State} (h : execPipVmuls p s = .next t) : OnlyChanges [.mem, .wordErr,
    .dirty, .seats, .bank, .reqs, .reqx, .objs, .objx, .binds, .slot, .ingots, .pips, .cores, .fab, .mirrors, .out,
    .free] s t := by
  unfold execPipVmuls pipVecS pipPure pipRow at h
  refine act_only h ?_
  beta_reduce
  repeat' first
    | (show List.all _ _ = true; decide)
    | extract_lets
    | with_reducible exact only_refl _ _
    | with_reducible apply only_step (pipFault_only ..)
    | with_reducible apply only_step (pipIssue_only ..)
    | with_reducible apply only_step (state_setPip_only ..)
    | with_reducible apply when_only
    | split

theorem execPipVexp2_only {p : Nat} {s t : State} (h : execPipVexp2 p s = .next t) : OnlyChanges [.mem, .wordErr,
    .dirty, .seats, .bank, .reqs, .reqx, .objs, .objx, .binds, .slot, .ingots, .pips, .cores, .fab, .mirrors, .out,
    .free] s t := by
  unfold execPipVexp2 pipPure pipRow at h
  refine act_only h ?_
  beta_reduce
  repeat' first
    | (show List.all _ _ = true; decide)
    | extract_lets
    | with_reducible exact only_refl _ _
    | with_reducible apply only_step (pipFault_only ..)
    | with_reducible apply only_step (pipIssue_only ..)
    | with_reducible apply only_step (state_setPip_only ..)
    | with_reducible apply when_only
    | split

theorem execPipVrmax_only {p : Nat} {s t : State} (h : execPipVrmax p s = .next t) : OnlyChanges [.mem, .wordErr,
    .dirty, .seats, .bank, .reqs, .reqx, .objs, .objx, .binds, .slot, .ingots, .pips, .cores, .fab, .mirrors, .out,
    .free] s t := by
  unfold execPipVrmax pipPure pipRow at h
  refine act_only h ?_
  beta_reduce
  repeat' first
    | (show List.all _ _ = true; decide)
    | extract_lets
    | with_reducible exact only_refl _ _
    | with_reducible apply only_step (pipFault_only ..)
    | with_reducible apply only_step (pipIssue_only ..)
    | with_reducible apply only_step (state_setPip_only ..)
    | with_reducible apply when_only
    | split

theorem execPipVrsum_only {p : Nat} {s t : State} (h : execPipVrsum p s = .next t) : OnlyChanges [.mem, .wordErr,
    .dirty, .seats, .bank, .reqs, .reqx, .objs, .objx, .binds, .slot, .ingots, .pips, .cores, .fab, .mirrors, .out,
    .free] s t := by
  unfold execPipVrsum pipPure pipRow at h
  refine act_only h ?_
  beta_reduce
  repeat' first
    | (show List.all _ _ = true; decide)
    | extract_lets
    | with_reducible exact only_refl _ _
    | with_reducible apply only_step (pipFault_only ..)
    | with_reducible apply only_step (pipIssue_only ..)
    | with_reducible apply only_step (state_setPip_only ..)
    | with_reducible apply when_only
    | split

theorem execPipVmsk_only {p : Nat} {s t : State} (h : execPipVmsk p s = .next t) : OnlyChanges [.mem, .wordErr,
    .dirty, .seats, .bank, .reqs, .reqx, .objs, .objx, .binds, .slot, .ingots, .pips, .cores, .fab, .mirrors, .out,
    .free] s t := by
  unfold execPipVmsk pipPure pipRow at h
  refine act_only h ?_
  beta_reduce
  repeat' first
    | (show List.all _ _ = true; decide)
    | extract_lets
    | with_reducible exact only_refl _ _
    | with_reducible apply only_step (pipFault_only ..)
    | with_reducible apply only_step (pipIssue_only ..)
    | with_reducible apply only_step (state_setPip_only ..)
    | with_reducible apply when_only
    | split

theorem execPipVld_only {p : Nat} {s t : State} (h : execPipVld p s = .next t) : OnlyChanges [.mem, .wordErr,
    .dirty, .seats, .bank, .reqs, .reqx, .objs, .objx, .binds, .slot, .ingots, .pips, .cores, .fab, .mirrors, .out,
    .free] s t := by
  unfold execPipVld pipMem pipRow at h
  refine act_only h ?_
  beta_reduce
  repeat' first
    | (show List.all _ _ = true; decide)
    | extract_lets
    | with_reducible exact only_refl _ _
    | with_reducible apply only_step (pipFault_only ..)
    | with_reducible apply only_step (pipIssue_only ..)
    | with_reducible apply only_step (state_setPip_only ..)
    | with_reducible apply when_only
    | split

theorem execPipVst_only {p : Nat} {s t : State} (h : execPipVst p s = .next t) : OnlyChanges [.mem, .wordErr,
    .dirty, .seats, .bank, .reqs, .reqx, .objs, .objx, .binds, .slot, .ingots, .pips, .cores, .fab, .mirrors, .out,
    .free] s t := by
  unfold execPipVst pipMem pipRow at h
  refine act_only h ?_
  beta_reduce
  repeat' first
    | (show List.all _ _ = true; decide)
    | extract_lets
    | with_reducible exact only_refl _ _
    | with_reducible apply only_step (pipFault_only ..)
    | with_reducible apply only_step (pipIssue_only ..)
    | with_reducible apply only_step (state_setPip_only ..)
    | with_reducible apply when_only
    | split

theorem execPipEmit_only {p : Nat} {s t : State} (h : execPipEmit p s = .next t) : OnlyChanges [.mem, .wordErr,
    .dirty, .seats, .bank, .reqs, .reqx, .objs, .objx, .binds, .slot, .ingots, .pips, .cores, .fab, .mirrors, .out,
    .free] s t := by
  unfold execPipEmit pipRow at h
  refine act_only h ?_
  beta_reduce
  repeat' first
    | (show List.all _ _ = true; decide)
    | extract_lets
    | with_reducible exact only_refl _ _
    | with_reducible apply only_step (pipFault_only ..)
    | with_reducible apply only_step (pipIssue_only ..)
    | with_reducible apply only_step (state_setPip_only ..)
    | with_reducible apply only_step (state_updIngot_only ..)
    | with_reducible apply when_only
    | split

theorem execIssueBudgetExhausted_only {p : Nat} {s t : State} (h : execIssueBudgetExhausted p s = .next t) :
    OnlyChanges [.mem, .wordErr, .dirty, .seats, .bank, .reqs, .reqx, .objs, .objx, .binds, .slot, .ingots, .pips,
    .cores, .fab, .mirrors, .out, .free] s t := by
  unfold execIssueBudgetExhausted at h
  refine act_only h ?_
  beta_reduce
  repeat' first
    | (show List.all _ _ = true; decide)
    | extract_lets
    | with_reducible exact only_refl _ _
    | with_reducible apply only_step (pipFault_only ..)
    | with_reducible apply when_only

theorem execTileMove_only {core : Nat} {src dst : W64} {tiles : Nat} {ring : Bool} {s t : State} (h : execTileMove
    core src dst tiles ring s = .next t) : OnlyChanges [.mem, .wordErr, .dirty, .seats, .bank, .reqs, .reqx, .objs,
    .objx, .binds, .slot, .ingots, .hm, .cores, .fab, .mirrors, .out, .free] s t := by
  unfold execTileMove at h
  refine act_only h ?_
  beta_reduce
  repeat' first
    | (show List.all _ _ = true; decide)
    | extract_lets
    | with_reducible exact only_refl _ _
    | with_reducible apply only_step (blockMover_only ..)
    | with_reducible apply only_step (tileMove_only ..)
    | with_reducible apply when_only
    | split

theorem execRingFillComplete_only {core : Nat} {s t : State} (h : execRingFillComplete core s = .next t) :
    OnlyChanges [.cores] s t := by
  unfold execRingFillComplete at h
  refine act_only h ?_
  beta_reduce
  repeat' first
    | (show List.all _ _ = true; decide)
    | extract_lets
    | with_reducible exact only_refl _ _
    | with_reducible apply only_step (state_updCore_only ..)
    | with_reducible apply when_only

theorem execMxMma_only {core : Nat} {w : BitVec 256} {s t : State} (h : execMxMma core w s = .next t) : OnlyChanges
    [.mem, .wordErr, .dirty, .seats, .bank, .reqs, .reqx, .objs, .objx, .binds, .slot, .ingots, .hm, .cores, .fab,
    .mirrors, .out, .free] s t := by
  unfold execMxMma mxRow at h
  refine act_only h ?_
  beta_reduce
  repeat' first
    | (show List.all _ _ = true; decide)
    | extract_lets
    | with_reducible exact only_refl _ _
    | with_reducible apply only_step (mxMma_only ..)
    | with_reducible apply when_only
    | split

theorem execMxStat_only {core : Nat} {w : BitVec 256} {s t : State} (h : execMxStat core w s = .next t) :
    OnlyChanges [.mem, .wordErr, .dirty, .seats, .bank, .reqs, .reqx, .objs, .objx, .binds, .slot, .ingots, .cores,
    .fab, .mirrors, .out, .free] s t := by
  unfold execMxStat statRow mxRow at h
  refine act_only h ?_
  beta_reduce
  repeat' first
    | (show List.all _ _ = true; decide)
    | extract_lets
    | with_reducible exact only_refl _ _
    | with_reducible apply only_step (beginNext_only ..)
    | with_reducible apply only_step (mxFault_only ..)
    | with_reducible apply only_step (rawWrite_only ..)
    | with_reducible apply only_step (state_noteWindow_only ..)
    | with_reducible apply only_step (state_updCore_only ..)
    | with_reducible apply when_only
    | split

theorem execMxSetstat_only {core : Nat} {w : BitVec 256} {s t : State} (h : execMxSetstat core w s = .next t) :
    OnlyChanges [.mem, .wordErr, .dirty, .seats, .bank, .reqs, .reqx, .objs, .objx, .binds, .slot, .ingots, .hm,
    .cores, .fab, .mirrors, .out, .free] s t := by
  unfold execMxSetstat statRow mxRow at h
  refine act_only h ?_
  beta_reduce
  repeat' first
    | (show List.all _ _ = true; decide)
    | extract_lets
    | intro _
    | with_reducible exact only_refl _ _
    | with_reducible assumption
    | with_reducible apply only_step (beginNext_only ..)
    | with_reducible apply only_step (mxFault_only ..)
    | with_reducible apply only_step (setStats_only ..)
    | with_reducible apply only_step (state_noteWindow_only ..)
    | with_reducible apply only_step (state_updCore_only ..)
    | with_reducible apply when_only
    | with_reducible apply withRanges_only
    | split

theorem execSpillDrain_only {core : Nat} {s t : State} (h : execSpillDrain core s = .next t) : OnlyChanges [.mem,
    .wordErr, .dirty, .seats, .bank, .reqs, .reqx, .objs, .objx, .binds, .slot, .ingots, .hm, .cores, .fab,
    .mirrors, .out, .free] s t := by
  unfold execSpillDrain at h
  refine act_only h ?_
  beta_reduce
  repeat' first
    | (show List.all _ _ = true; decide)
    | extract_lets
    | with_reducible exact only_refl _ _
    | with_reducible apply only_step (drainOne_only ..)
    | with_reducible apply when_only

theorem execMmaFinish_only {core : Nat} {s t : State} (h : execMmaFinish core s = .next t) : OnlyChanges [.mem,
    .wordErr, .dirty, .seats, .bank, .reqs, .reqx, .objs, .objx, .binds, .slot, .ingots, .hm, .cores, .fab,
    .mirrors, .out, .free] s t := by
  unfold execMmaFinish at h
  refine act_only h ?_
  beta_reduce
  repeat' first
    | (show List.all _ _ = true; decide)
    | extract_lets
    | with_reducible exact only_refl _ _
    | with_reducible apply only_step (mmaFinish_only ..)
    | with_reducible apply when_only

theorem execEpilogue_only {core : Nat} {s t : State} (h : execEpilogue core s = .next t) : OnlyChanges [.mem,
    .wordErr, .dirty, .seats, .bank, .reqs, .reqx, .objs, .objx, .binds, .slot, .ingots, .hm, .cores, .fab,
    .mirrors, .out, .free] s t := by
  unfold execEpilogue at h
  refine act_only h ?_
  beta_reduce
  repeat' first
    | (show List.all _ _ = true; decide)
    | extract_lets
    | with_reducible exact only_refl _ _
    | with_reducible apply only_step (epilogue_only ..)
    | with_reducible apply when_only
    | split

theorem execVxCvt_only {core : Nat} {w : BitVec 256} {s t : State} (h : execVxCvt core w s = .next t) : OnlyChanges
    [.mem, .wordErr, .dirty, .seats, .bank, .reqs, .reqx, .objs, .objx, .binds, .slot, .ingots, .hm, .cores, .fab,
    .mirrors, .out, .free] s t := by
  unfold execVxCvt vxRow at h
  refine act_only h ?_
  beta_reduce
  repeat' first
    | (show List.all _ _ = true; decide)
    | extract_lets
    | with_reducible exact only_refl _ _
    | with_reducible apply only_step (vxRun_only ..)
    | with_reducible apply when_only
    | split

theorem execVxAdd_only {core : Nat} {w : BitVec 256} {s t : State} (h : execVxAdd core w s = .next t) : OnlyChanges
    [.mem, .wordErr, .dirty, .seats, .bank, .reqs, .reqx, .objs, .objx, .binds, .slot, .ingots, .hm, .cores, .fab,
    .mirrors, .out, .free] s t := by
  unfold execVxAdd vxRow at h
  refine act_only h ?_
  beta_reduce
  repeat' first
    | (show List.all _ _ = true; decide)
    | extract_lets
    | with_reducible exact only_refl _ _
    | with_reducible apply only_step (vxRun_only ..)
    | with_reducible apply when_only
    | split

theorem execVxSub_only {core : Nat} {w : BitVec 256} {s t : State} (h : execVxSub core w s = .next t) : OnlyChanges
    [.mem, .wordErr, .dirty, .seats, .bank, .reqs, .reqx, .objs, .objx, .binds, .slot, .ingots, .hm, .cores, .fab,
    .mirrors, .out, .free] s t := by
  unfold execVxSub vxRow at h
  refine act_only h ?_
  beta_reduce
  repeat' first
    | (show List.all _ _ = true; decide)
    | extract_lets
    | with_reducible exact only_refl _ _
    | with_reducible apply only_step (vxRun_only ..)
    | with_reducible apply when_only
    | split

theorem execVxMul_only {core : Nat} {w : BitVec 256} {s t : State} (h : execVxMul core w s = .next t) : OnlyChanges
    [.mem, .wordErr, .dirty, .seats, .bank, .reqs, .reqx, .objs, .objx, .binds, .slot, .ingots, .hm, .cores, .fab,
    .mirrors, .out, .free] s t := by
  unfold execVxMul vxRow at h
  refine act_only h ?_
  beta_reduce
  repeat' first
    | (show List.all _ _ = true; decide)
    | extract_lets
    | with_reducible exact only_refl _ _
    | with_reducible apply only_step (vxRun_only ..)
    | with_reducible apply when_only
    | split

theorem execVxAxpy_only {core : Nat} {w : BitVec 256} {s t : State} (h : execVxAxpy core w s = .next t) :
    OnlyChanges [.mem, .wordErr, .dirty, .seats, .bank, .reqs, .reqx, .objs, .objx, .binds, .slot, .ingots, .hm,
    .cores, .fab, .mirrors, .out, .free] s t := by
  unfold execVxAxpy vxRow at h
  refine act_only h ?_
  beta_reduce
  repeat' first
    | (show List.all _ _ = true; decide)
    | extract_lets
    | with_reducible exact only_refl _ _
    | with_reducible apply only_step (vxRun_only ..)
    | with_reducible apply when_only
    | split

theorem execVxMax_only {core : Nat} {w : BitVec 256} {s t : State} (h : execVxMax core w s = .next t) : OnlyChanges
    [.mem, .wordErr, .dirty, .seats, .bank, .reqs, .reqx, .objs, .objx, .binds, .slot, .ingots, .hm, .cores, .fab,
    .mirrors, .out, .free] s t := by
  unfold execVxMax vxRow at h
  refine act_only h ?_
  beta_reduce
  repeat' first
    | (show List.all _ _ = true; decide)
    | extract_lets
    | with_reducible exact only_refl _ _
    | with_reducible apply only_step (vxRun_only ..)
    | with_reducible apply when_only
    | split

theorem execVxMin_only {core : Nat} {w : BitVec 256} {s t : State} (h : execVxMin core w s = .next t) : OnlyChanges
    [.mem, .wordErr, .dirty, .seats, .bank, .reqs, .reqx, .objs, .objx, .binds, .slot, .ingots, .hm, .cores, .fab,
    .mirrors, .out, .free] s t := by
  unfold execVxMin vxRow at h
  refine act_only h ?_
  beta_reduce
  repeat' first
    | (show List.all _ _ = true; decide)
    | extract_lets
    | with_reducible exact only_refl _ _
    | with_reducible apply only_step (vxRun_only ..)
    | with_reducible apply when_only
    | split

theorem execVxClamp_only {core : Nat} {w : BitVec 256} {s t : State} (h : execVxClamp core w s = .next t) :
    OnlyChanges [.mem, .wordErr, .dirty, .seats, .bank, .reqs, .reqx, .objs, .objx, .binds, .slot, .ingots, .hm,
    .cores, .fab, .mirrors, .out, .free] s t := by
  unfold execVxClamp vxRow at h
  refine act_only h ?_
  beta_reduce
  repeat' first
    | (show List.all _ _ = true; decide)
    | extract_lets
    | with_reducible exact only_refl _ _
    | with_reducible apply only_step (vxRun_only ..)
    | with_reducible apply when_only
    | split

theorem execVxRelu_only {core : Nat} {w : BitVec 256} {s t : State} (h : execVxRelu core w s = .next t) :
    OnlyChanges [.mem, .wordErr, .dirty, .seats, .bank, .reqs, .reqx, .objs, .objx, .binds, .slot, .ingots, .hm,
    .cores, .fab, .mirrors, .out, .free] s t := by
  unfold execVxRelu vxRow at h
  refine act_only h ?_
  beta_reduce
  repeat' first
    | (show List.all _ _ = true; decide)
    | extract_lets
    | with_reducible exact only_refl _ _
    | with_reducible apply only_step (vxRun_only ..)
    | with_reducible apply when_only
    | split

theorem execVxSilu_only {core : Nat} {w : BitVec 256} {s t : State} (h : execVxSilu core w s = .next t) :
    OnlyChanges [.mem, .wordErr, .dirty, .seats, .bank, .reqs, .reqx, .objs, .objx, .binds, .slot, .ingots, .hm,
    .cores, .fab, .mirrors, .out, .free] s t := by
  unfold execVxSilu vxRow at h
  refine act_only h ?_
  beta_reduce
  repeat' first
    | (show List.all _ _ = true; decide)
    | extract_lets
    | with_reducible exact only_refl _ _
    | with_reducible apply only_step (vxRun_only ..)
    | with_reducible apply when_only
    | split

theorem execVxGelut_only {core : Nat} {w : BitVec 256} {s t : State} (h : execVxGelut core w s = .next t) :
    OnlyChanges [.mem, .wordErr, .dirty, .seats, .bank, .reqs, .reqx, .objs, .objx, .binds, .slot, .ingots, .hm,
    .cores, .fab, .mirrors, .out, .free] s t := by
  unfold execVxGelut vxRow at h
  refine act_only h ?_
  beta_reduce
  repeat' first
    | (show List.all _ _ = true; decide)
    | extract_lets
    | with_reducible exact only_refl _ _
    | with_reducible apply only_step (vxRun_only ..)
    | with_reducible apply when_only
    | split

theorem execVxExp2_only {core : Nat} {w : BitVec 256} {s t : State} (h : execVxExp2 core w s = .next t) :
    OnlyChanges [.mem, .wordErr, .dirty, .seats, .bank, .reqs, .reqx, .objs, .objx, .binds, .slot, .ingots, .hm,
    .cores, .fab, .mirrors, .out, .free] s t := by
  unfold execVxExp2 vxRow at h
  refine act_only h ?_
  beta_reduce
  repeat' first
    | (show List.all _ _ = true; decide)
    | extract_lets
    | with_reducible exact only_refl _ _
    | with_reducible apply only_step (vxRun_only ..)
    | with_reducible apply when_only
    | split

theorem execVxRsqrt_only {core : Nat} {w : BitVec 256} {s t : State} (h : execVxRsqrt core w s = .next t) :
    OnlyChanges [.mem, .wordErr, .dirty, .seats, .bank, .reqs, .reqx, .objs, .objx, .binds, .slot, .ingots, .hm,
    .cores, .fab, .mirrors, .out, .free] s t := by
  unfold execVxRsqrt vxRow at h
  refine act_only h ?_
  beta_reduce
  repeat' first
    | (show List.all _ _ = true; decide)
    | extract_lets
    | with_reducible exact only_refl _ _
    | with_reducible apply only_step (vxRun_only ..)
    | with_reducible apply when_only
    | split

theorem execVxDiv_only {core : Nat} {w : BitVec 256} {s t : State} (h : execVxDiv core w s = .next t) : OnlyChanges
    [.mem, .wordErr, .dirty, .seats, .bank, .reqs, .reqx, .objs, .objx, .binds, .slot, .ingots, .hm, .cores, .fab,
    .mirrors, .out, .free] s t := by
  unfold execVxDiv vxRow at h
  refine act_only h ?_
  beta_reduce
  repeat' first
    | (show List.all _ _ = true; decide)
    | extract_lets
    | with_reducible exact only_refl _ _
    | with_reducible apply only_step (vxRun_only ..)
    | with_reducible apply when_only
    | split

theorem execVxSelect_only {core : Nat} {w : BitVec 256} {s t : State} (h : execVxSelect core w s = .next t) :
    OnlyChanges [.mem, .wordErr, .dirty, .seats, .bank, .reqs, .reqx, .objs, .objx, .binds, .slot, .ingots, .hm,
    .cores, .fab, .mirrors, .out, .free] s t := by
  unfold execVxSelect vxRow at h
  refine act_only h ?_
  beta_reduce
  repeat' first
    | (show List.all _ _ = true; decide)
    | extract_lets
    | with_reducible exact only_refl _ _
    | with_reducible apply only_step (vxRun_only ..)
    | with_reducible apply when_only
    | split

theorem execVxRowsum_only {core : Nat} {w : BitVec 256} {s t : State} (h : execVxRowsum core w s = .next t) :
    OnlyChanges [.mem, .wordErr, .dirty, .seats, .bank, .reqs, .reqx, .objs, .objx, .binds, .slot, .ingots, .hm,
    .cores, .fab, .mirrors, .out, .free] s t := by
  unfold execVxRowsum vxRow at h
  refine act_only h ?_
  beta_reduce
  repeat' first
    | (show List.all _ _ = true; decide)
    | extract_lets
    | with_reducible exact only_refl _ _
    | with_reducible apply only_step (vxRun_only ..)
    | with_reducible apply when_only
    | split

theorem execVxRowssq_only {core : Nat} {w : BitVec 256} {s t : State} (h : execVxRowssq core w s = .next t) :
    OnlyChanges [.mem, .wordErr, .dirty, .seats, .bank, .reqs, .reqx, .objs, .objx, .binds, .slot, .ingots, .hm,
    .cores, .fab, .mirrors, .out, .free] s t := by
  unfold execVxRowssq vxRow at h
  refine act_only h ?_
  beta_reduce
  repeat' first
    | (show List.all _ _ = true; decide)
    | extract_lets
    | with_reducible exact only_refl _ _
    | with_reducible apply only_step (vxRun_only ..)
    | with_reducible apply when_only
    | split

theorem execVxRowmax_only {core : Nat} {w : BitVec 256} {s t : State} (h : execVxRowmax core w s = .next t) :
    OnlyChanges [.mem, .wordErr, .dirty, .seats, .bank, .reqs, .reqx, .objs, .objx, .binds, .slot, .ingots, .hm,
    .cores, .fab, .mirrors, .out, .free] s t := by
  unfold execVxRowmax vxRow at h
  refine act_only h ?_
  beta_reduce
  repeat' first
    | (show List.all _ _ = true; decide)
    | extract_lets
    | with_reducible exact only_refl _ _
    | with_reducible apply only_step (vxRun_only ..)
    | with_reducible apply when_only
    | split

theorem execVxRowamax_only {core : Nat} {w : BitVec 256} {s t : State} (h : execVxRowamax core w s = .next t) :
    OnlyChanges [.mem, .wordErr, .dirty, .seats, .bank, .reqs, .reqx, .objs, .objx, .binds, .slot, .ingots, .hm,
    .cores, .fab, .mirrors, .out, .free] s t := by
  unfold execVxRowamax vxRow at h
  refine act_only h ?_
  beta_reduce
  repeat' first
    | (show List.all _ _ = true; decide)
    | extract_lets
    | with_reducible exact only_refl _ _
    | with_reducible apply only_step (vxRun_only ..)
    | with_reducible apply when_only
    | split

theorem execVxRms_only {core : Nat} {w : BitVec 256} {s t : State} (h : execVxRms core w s = .next t) : OnlyChanges
    [.mem, .wordErr, .dirty, .seats, .bank, .reqs, .reqx, .objs, .objx, .binds, .slot, .ingots, .hm, .cores, .fab,
    .mirrors, .out, .free] s t := by
  unfold execVxRms vxRow at h
  refine act_only h ?_
  beta_reduce
  repeat' first
    | (show List.all _ _ = true; decide)
    | extract_lets
    | with_reducible exact only_refl _ _
    | with_reducible apply only_step (vxRun_only ..)
    | with_reducible apply when_only
    | split

theorem execVxRot_only {core : Nat} {w : BitVec 256} {s t : State} (h : execVxRot core w s = .next t) : OnlyChanges
    [.mem, .wordErr, .dirty, .seats, .bank, .reqs, .reqx, .objs, .objx, .binds, .slot, .ingots, .hm, .cores, .fab,
    .mirrors, .out, .free] s t := by
  unfold execVxRot vxRow at h
  refine act_only h ?_
  beta_reduce
  repeat' first
    | (show List.all _ _ = true; decide)
    | extract_lets
    | with_reducible exact only_refl _ _
    | with_reducible apply only_step (vxRun_only ..)
    | with_reducible apply when_only
    | split

theorem execVxQuant_only {core : Nat} {w : BitVec 256} {s t : State} (h : execVxQuant core w s = .next t) :
    OnlyChanges [.mem, .wordErr, .dirty, .seats, .bank, .reqs, .reqx, .objs, .objx, .binds, .slot, .ingots, .hm,
    .cores, .fab, .mirrors, .out, .free] s t := by
  unfold execVxQuant vxRow at h
  refine act_only h ?_
  beta_reduce
  repeat' first
    | (show List.all _ _ = true; decide)
    | extract_lets
    | with_reducible exact only_refl _ _
    | with_reducible apply only_step (vxRun_only ..)
    | with_reducible apply when_only
    | split

theorem execVxMerge_only {core : Nat} {w : BitVec 256} {s t : State} (h : execVxMerge core w s = .next t) :
    OnlyChanges [.mem, .wordErr, .dirty, .seats, .bank, .reqs, .reqx, .objs, .objx, .binds, .slot, .ingots, .hm,
    .cores, .fab, .mirrors, .out, .free] s t := by
  unfold execVxMerge vxRow at h
  refine act_only h ?_
  beta_reduce
  repeat' first
    | (show List.all _ _ = true; decide)
    | extract_lets
    | with_reducible exact only_refl _ _
    | with_reducible apply only_step (vxRun_only ..)
    | with_reducible apply when_only
    | split

theorem execVxFinal_only {core : Nat} {w : BitVec 256} {s t : State} (h : execVxFinal core w s = .next t) :
    OnlyChanges [.mem, .wordErr, .dirty, .seats, .bank, .reqs, .reqx, .objs, .objx, .binds, .slot, .ingots, .hm,
    .cores, .fab, .mirrors, .out, .free] s t := by
  unfold execVxFinal vxRow at h
  refine act_only h ?_
  beta_reduce
  repeat' first
    | (show List.all _ _ = true; decide)
    | extract_lets
    | with_reducible exact only_refl _ _
    | with_reducible apply only_step (vxRun_only ..)
    | with_reducible apply when_only
    | split

theorem execSplitPartialAdd_only {core base arrival result parts : Nat} {wide : Bool} {s t : State} (h :
    execSplitPartialAdd core base arrival result parts wide s = .next t) : OnlyChanges [.mem, .wordErr, .dirty,
    .seats, .bank, .reqs, .reqx, .objs, .objx, .binds, .slot, .ingots, .hm, .cores, .fab, .mirrors, .out, .free] s
    t := by
  unfold execSplitPartialAdd at h
  refine act_only h ?_
  beta_reduce
  repeat' first
    | (show List.all _ _ = true; decide)
    | extract_lets
    | with_reducible exact only_refl _ _
    | with_reducible apply only_step (noteFirst_only ..)
    | with_reducible apply only_step (openSplit_only ..)
    | with_reducible apply only_step (splitStep_only ..)
    | with_reducible apply only_step (state_noteWindow_only ..)
    | with_reducible apply when_only
    | split

theorem execSplitTimeout_only {core : Nat} {s t : State} (h : execSplitTimeout core s = .next t) : OnlyChanges
    [.mem, .wordErr, .dirty, .seats, .bank, .reqs, .reqx, .objs, .objx, .binds, .slot, .ingots, .cores, .fab,
    .mirrors, .out, .free] s t := by
  unfold execSplitTimeout at h
  refine act_only h ?_
  beta_reduce
  repeat' first
    | (show List.all _ _ = true; decide)
    | extract_lets
    | with_reducible exact only_refl _ _
    | with_reducible apply only_step (splitGiveUp_only ..)
    | with_reducible apply when_only

theorem execAttentionWalk_only {cluster layer entry group : Nat} {s t : State} (h : execAttentionWalk cluster layer
    entry group s = .next t) : OnlyChanges [.mem, .wordErr, .dirty, .seats, .bank, .reqs, .reqx, .objs, .objx,
    .binds, .slot, .ingots, .hm, .cores, .clusters, .fab, .mirrors, .out, .free] s t := by
  unfold execAttentionWalk at h
  refine act_only h ?_
  beta_reduce
  repeat' first
    | (show List.all _ _ = true; decide)
    | extract_lets
    | with_reducible exact only_refl _ _
    | with_reducible apply only_step (attentionWalk_only ..)
    | with_reducible apply only_step (awaitCopy_only ..)
    | split

theorem execMergedTriple_only {cluster : Nat} {hdr : BitVec 256} {payload : List W32} {s t : State} (h :
    execMergedTriple cluster hdr payload s = .next t) : OnlyChanges [.mem, .wordErr, .dirty, .seats, .bank, .reqs,
    .reqx, .objs, .objx, .binds, .slot, .ingots, .cores, .clusters, .fab, .mirrors, .out, .free] s t := by
  unfold execMergedTriple at h
  refine act_only h ?_
  beta_reduce
  repeat' first
    | (show List.all _ _ = true; decide)
    | extract_lets
    | with_reducible exact only_refl _ _
    | with_reducible apply only_step (takeOther_only ..)
    | with_reducible apply only_step (takeTriple_only ..)
    | split

theorem execMergeTimeout_only {cluster ingot tag : Nat} {s t : State} (h : execMergeTimeout cluster ingot tag s =
    .next t) : OnlyChanges [.dirty, .bank, .reqx, .objs, .objx, .binds, .cores, .clusters, .fab, .out] s t := by
  unfold execMergeTimeout at h
  refine act_only h ?_
  beta_reduce
  repeat' first
    | (show List.all _ _ = true; decide)
    | extract_lets y1 y2 y3
    | with_reducible exact only_refl _ _
    | with_reducible apply only_step (markFault_only ..)
    | with_reducible apply only_step (sendReleases_only ..)
    | with_reducible apply only_step (state_countBind_only ..)
    | with_reducible apply only_step (state_setCluster_only ..)
    | split
    | subst y3

theorem execClusterPathPartial_only {cluster layer entry group row head : Nat} {col : Option Nat} {s t : State} (h
    : execClusterPathPartial cluster layer entry group row head col s = .next t) : OnlyChanges [.mem, .wordErr,
    .dirty, .seats, .bank, .reqs, .reqx, .objs, .objx, .binds, .slot, .ingots, .hm, .cores, .clusters, .fab,
    .mirrors, .out, .free] s t := by
  unfold execClusterPathPartial at h
  refine act_only h ?_
  beta_reduce
  repeat' first
    | (show List.all _ _ = true; decide)
    | extract_lets
    | intro _
    | with_reducible exact only_refl _ _
    | with_reducible assumption
    | with_reducible apply only_step (awaitCopy_only ..)
    | with_reducible apply only_step (columnPartial_only ..)
    | with_reducible apply only_step (markFault_only ..)
    | with_reducible apply only_step (riserPartial_only ..)
    | with_reducible apply withQueries_only
    | split

theorem execHeadOutput_only {cluster layer entry group row head : Nat} {s t : State} (h : execHeadOutput cluster
    layer entry group row head s = .next t) : OnlyChanges [.mem, .wordErr, .dirty, .seats, .bank, .reqs, .reqx,
    .objs, .objx, .binds, .slot, .ingots, .cores, .clusters, .fab, .mirrors, .out, .free] s t := by
  unfold execHeadOutput at h
  refine act_only h ?_
  beta_reduce
  repeat' first
    | (show List.all _ _ = true; decide)
    | extract_lets
    | with_reducible exact only_refl _ _
    | with_reducible apply only_step (headOutput_only ..)
    | split

theorem execPipWeightProduct_only {cluster record : Nat} {s t : State} (h : execPipWeightProduct cluster record s =
    .next t) : OnlyChanges [.mem, .wordErr, .dirty, .seats, .bank, .reqs, .reqx, .objs, .objx, .binds, .slot,
    .ingots, .cores, .clusters, .fab, .mirrors, .out, .free] s t := by
  unfold execPipWeightProduct at h
  refine act_only h ?_
  beta_reduce
  repeat' first
    | (show List.all _ _ = true; decide)
    | extract_lets
    | intro _
    | with_reducible exact only_refl _ _
    | with_reducible assumption
    | with_reducible apply only_step (abandonTurn_only ..)
    | with_reducible apply only_step (sendProducts_only ..)
    | with_reducible apply only_step (state_noteWindow_only ..)
    | with_reducible refine only_foldl ?_ ?_
    | split

theorem execCollPut_only {engine : Nat} {step : BitVec 512} {s t : State} (h : execCollPut engine step s = .next t)
    : OnlyChanges [.mem, .wordErr, .dirty, .seats, .bank, .reqs, .reqx, .objs, .objx, .binds, .slot, .ingots, .hm,
    .cores, .fab, .mirrors, .out, .free] s t := by
  unfold execCollPut collRow at h
  refine act_only h ?_
  beta_reduce
  repeat' first
    | (show List.all _ _ = true; decide)
    | extract_lets
    | with_reducible exact only_refl _ _
    | with_reducible apply only_step (collBegin_only ..)
    | with_reducible apply only_step (collFail_only ..)
    | with_reducible apply only_step (collPut_only ..)
    | with_reducible apply only_step (state_noteWindow_only ..)
    | with_reducible apply when_only
    | split

theorem execCollWait_only {engine : Nat} {step : BitVec 512} {s t : State} (h : execCollWait engine step s = .next
    t) : OnlyChanges [.mem, .wordErr, .dirty, .seats, .bank, .reqs, .reqx, .objs, .objx, .binds, .slot, .ingots,
    .cores, .fab, .mirrors, .out, .free] s t := by
  unfold execCollWait collRow at h
  refine act_only h ?_
  beta_reduce
  repeat' first
    | (show List.all _ _ = true; decide)
    | extract_lets
    | with_reducible exact only_refl _ _
    | with_reducible apply only_step (collBegin_only ..)
    | with_reducible apply only_step (collFail_only ..)
    | with_reducible apply only_step (collWait_only ..)
    | with_reducible apply only_step (state_noteWindow_only ..)
    | with_reducible apply when_only
    | split

theorem execCollAllreduce_only {engine : Nat} {step : BitVec 512} {inputs : List (List Byte)} {s t : State} (h :
    execCollAllreduce engine step inputs s = .next t) : OnlyChanges [.mem, .wordErr, .dirty, .seats, .bank, .reqs,
    .reqx, .objs, .objx, .binds, .slot, .ingots, .hm, .cores, .fab, .mirrors, .out, .free] s t := by
  unfold execCollAllreduce collRow at h
  refine act_only h ?_
  beta_reduce
  repeat' first
    | (show List.all _ _ = true; decide)
    | extract_lets
    | with_reducible exact only_refl _ _
    | with_reducible apply only_step (collBegin_only ..)
    | with_reducible apply only_step (collFail_only ..)
    | with_reducible apply only_step (collResult_only ..)
    | with_reducible apply only_step (state_noteWindow_only ..)
    | with_reducible apply when_only
    | split

theorem execCollAllgather_only {engine : Nat} {step : BitVec 512} {inputs : List (List Byte)} {s t : State} (h :
    execCollAllgather engine step inputs s = .next t) : OnlyChanges [.mem, .wordErr, .dirty, .seats, .bank, .reqs,
    .reqx, .objs, .objx, .binds, .slot, .ingots, .hm, .cores, .fab, .mirrors, .out, .free] s t := by
  unfold execCollAllgather collRow at h
  refine act_only h ?_
  beta_reduce
  repeat' first
    | (show List.all _ _ = true; decide)
    | extract_lets
    | with_reducible exact only_refl _ _
    | with_reducible apply only_step (collBegin_only ..)
    | with_reducible apply only_step (collFail_only ..)
    | with_reducible apply only_step (collResult_only ..)
    | with_reducible apply only_step (state_noteWindow_only ..)
    | with_reducible apply when_only
    | split

theorem execCollBcast_only {engine : Nat} {step : BitVec 512} {data : List Byte} {s t : State} (h : execCollBcast
    engine step data s = .next t) : OnlyChanges [.mem, .wordErr, .dirty, .seats, .bank, .reqs, .reqx, .objs, .objx,
    .binds, .slot, .ingots, .hm, .cores, .fab, .mirrors, .out, .free] s t := by
  unfold execCollBcast collRow at h
  refine act_only h ?_
  beta_reduce
  repeat' first
    | (show List.all _ _ = true; decide)
    | extract_lets
    | with_reducible exact only_refl _ _
    | with_reducible apply only_step (collBegin_only ..)
    | with_reducible apply only_step (collFail_only ..)
    | with_reducible apply only_step (collResult_only ..)
    | with_reducible apply only_step (moverWrite_only ..)
    | with_reducible apply only_step (setColl_only ..)
    | with_reducible apply only_step (state_noteWindow_only ..)
    | with_reducible apply when_only
    | split

theorem execCollTimeout_only {engine : Nat} {s t : State} (h : execCollTimeout engine s = .next t) : OnlyChanges
    [.mem, .wordErr, .dirty, .seats, .bank, .reqs, .reqx, .objs, .objx, .binds, .slot, .ingots, .cores, .fab,
    .mirrors, .out, .free] s t := by
  unfold execCollTimeout at h
  refine act_only h ?_
  beta_reduce
  repeat' first
    | (show List.all _ _ = true; decide)
    | extract_lets
    | with_reducible exact only_refl _ _
    | with_reducible apply only_step (collFail_only ..)
    | with_reducible apply only_step (setColl_only ..)
    | with_reducible apply when_only
    | split

theorem execFlushComplete_only {b slot col lane : Nat} {s t : State} (h : execFlushComplete b slot col lane s =
    .next t) : OnlyChanges [.mem, .wordErr, .dirty, .seats, .bank, .reqs, .reqx, .objs, .objx, .binds, .ingots,
    .hm, .cores, .fab, .mirrors, .out, .free] s t := by
  unfold execFlushComplete at h
  refine act_only h ?_
  beta_reduce
  repeat' first
    | (show List.all _ _ = true; decide)
    | extract_lets
    | with_reducible exact only_refl _ _
    | with_reducible apply only_step (blockMover_only ..)
    | with_reducible apply only_step (failedCopy_only ..)
    | with_reducible apply only_step (flushCopy_only ..)
    | with_reducible apply only_step (flushLane_only ..)
    | split

theorem execSeedCopyComplete_only {slot lane : Nat} {s t : State} (h : execSeedCopyComplete slot lane s = .next t)
    : OnlyChanges [.mem, .wordErr, .dirty, .seats, .bank, .reqs, .reqx, .objs, .objx, .binds, .ingots, .hm, .cores,
    .fab, .mirrors, .out, .free] s t := by
  unfold execSeedCopyComplete at h
  refine act_only h ?_
  beta_reduce
  repeat' first
    | (show List.all _ _ = true; decide)
    | extract_lets
    | with_reducible exact only_refl _ _
    | with_reducible apply only_step (copyLane_only ..)
    | with_reducible apply only_step (dupRiser_only ..)
    | with_reducible apply only_step (failedCopy_only ..)
    | with_reducible apply only_step (seedLane_only ..)
    | with_reducible apply only_step (state_updBind_only ..)
    | split

theorem execPauseTailComplete_only {slot : Nat} {s t : State} (h : execPauseTailComplete slot s = .next t) :
    OnlyChanges [.mem, .wordErr, .dirty, .seats, .bank, .reqs, .reqx, .objs, .objx, .binds, .ingots, .hm, .cores,
    .fab, .mirrors, .out, .free] s t := by
  unfold execPauseTailComplete at h
  refine act_only h ?_
  beta_reduce
  repeat' first
    | (show List.all _ _ = true; decide)
    | extract_lets
    | with_reducible exact only_refl _ _
    | with_reducible apply only_step (blockMover_only ..)
    | with_reducible apply only_step (failedCopy_only ..)
    | with_reducible apply only_step (tailDone_only ..)
    | with_reducible apply only_step (tailIssue_only ..)
    | split

theorem execPauseTailRetry_only {slot : Nat} {s t : State} (h : execPauseTailRetry slot s = .next t) : OnlyChanges
    [.reqx, .binds] s t := by
  unfold execPauseTailRetry at h
  refine act_only h ?_
  beta_reduce
  repeat' first
    | (show List.all _ _ = true; decide)
    | extract_lets
    | with_reducible exact only_refl _ _
    | with_reducible apply only_step (tailAlloc_only ..)
    | with_reducible apply when_only

theorem execParkCopyComplete_only {slot col : Nat} {s t : State} (h : execParkCopyComplete slot col s = .next t) :
    OnlyChanges [.mem, .wordErr, .dirty, .seats, .bank, .reqs, .reqx, .objs, .objx, .binds, .ingots, .hm, .cores,
    .fab, .mirrors, .out, .free] s t := by
  unfold execParkCopyComplete at h
  refine act_only h ?_
  beta_reduce
  repeat' first
    | (show List.all _ _ = true; decide)
    | extract_lets
    | intro _
    | with_reducible exact only_refl _ _
    | with_reducible assumption
    | with_reducible apply only_step (copyFault_only ..)
    | with_reducible apply only_step (parkSwitch_only ..)
    | with_reducible apply only_step (parkTile_only ..)
    | with_reducible apply only_step (state_updRx_only ..)
    | with_reducible refine only_foldl ?_ ?_
    | split

theorem execReturnCopyComplete_only {slot col : Nat} {s t : State} (h : execReturnCopyComplete slot col s = .next
    t) : OnlyChanges [.mem, .wordErr, .dirty, .seats, .bank, .reqs, .reqx, .objs, .objx, .stakes, .binds, .slot,
    .ingots, .hm, .cores, .fab, .mirrors, .out, .free] s t := by
  unfold execReturnCopyComplete at h
  refine act_only h ?_
  beta_reduce
  repeat' first
    | (show List.all _ _ = true; decide)
    | extract_lets
    | intro _
    | with_reducible exact only_refl _ _
    | with_reducible assumption
    | with_reducible apply only_step (backTile_only ..)
    | with_reducible apply only_step (closeIdle_only ..)
    | with_reducible apply only_step (copyFault_only ..)
    | with_reducible apply only_step (resumeSwitch_only ..)
    | with_reducible apply only_step (state_updRx_only ..)
    | with_reducible refine only_foldl ?_ ?_
    | split

theorem execEvictionNotice_only {slot : Msg Nat} {s t : State} (h : execEvictionNotice slot s = .next t) : OnlyChanges [.mem, .wordErr, .dirty, .seats, .bank, .reqs, .reqx, .objs, .objx,
    .binds, .ingots, .cores, .fab, .mirrors, .out, .free] s t := by
  unfold execEvictionNotice messageRow at h
  refine act_only h ?_
  beta_reduce
  repeat' first
    | (show List.all _ _ = true; decide)
    | extract_lets
    | with_reducible exact only_refl _ _
    | with_reducible apply only_step (answer_only ..)
    | with_reducible apply only_step (evicted_only ..)
    | with_reducible apply only_step (receivedPackets_only ..)
    | with_reducible apply when_only
    | split

theorem execParkSpaceRelease_only {owner : Msg Nat} {id : Nat} {s t : State} (h :
    execParkSpaceRelease owner id s = .next t) : OnlyChanges [.dirty, .bank, .reqx, .objs, .objx, .binds,
    .cores, .fab, .out, .free] s t := by
  unfold execParkSpaceRelease messageRow at h
  refine act_only h ?_
  beta_reduce
  repeat' first
    | (show List.all _ _ = true; decide)
    | extract_lets
    | with_reducible exact only_refl _ _
    | with_reducible apply only_step (answer_only ..)
    | with_reducible apply only_step (freeParked_only ..)
    | with_reducible apply only_step (receivedPackets_only ..)
    | with_reducible apply when_only
    | split

theorem execParkHostTakeRun_only {owner : Msg Nat} {seat slot col tiles : Nat} {s t : State} (h
    : execParkHostTakeRun owner seat slot col tiles s = .next t) : OnlyChanges [.dirty, .bank, .reqx,
    .objs, .objx, .binds, .cores, .fab, .out, .free] s t := by
  unfold execParkHostTakeRun messageRow at h
  refine act_only h ?_
  beta_reduce
  repeat' first
    | (show List.all _ _ = true; decide)
    | extract_lets
    | with_reducible exact only_refl _ _
    | with_reducible apply only_step (answer_only ..)
    | with_reducible apply only_step (hostTake_only ..)
    | with_reducible apply only_step (receivedPackets_only ..)
    | with_reducible apply when_only
    | split

theorem execParkReleaseAck_only {id : Msg Nat} {s t : State} (h : execParkReleaseAck id s = .next t) : OnlyChanges [.reqx, .fab] s t := by
  unfold execParkReleaseAck messageRow at h
  refine act_only h ?_
  beta_reduce
  repeat' first
    | (show List.all _ _ = true; decide)
    | extract_lets
    | with_reducible exact only_refl _ _
    | with_reducible apply only_step (answer_only ..)
    | with_reducible apply only_step (receivedPackets_only ..)
    | with_reducible apply only_step (releaseDone_only ..)
    | with_reducible apply when_only
    | split

theorem execParkReleaseTimeout_only {id : Nat} {s t : State} (h : execParkReleaseTimeout id s = .next t) :
    OnlyChanges [.reqx, .fab] s t := by
  unfold execParkReleaseTimeout at h
  refine act_only h ?_
  beta_reduce
  repeat' first
    | (show List.all _ _ = true; decide)
    | extract_lets
    | with_reducible exact only_refl _ _
    | with_reducible apply only_step (releaseDone_only ..)
    | with_reducible apply when_only

theorem execOwnerChange_only {oldChip : Msg Nat} {newChip seat : Nat} {s t : State} (h :
    execOwnerChange oldChip newChip seat s = .next t) : OnlyChanges [.objx, .fab] s t := by
  unfold execOwnerChange messageRow at h
  refine act_only h ?_
  beta_reduce
  repeat' first
    | (show List.all _ _ = true; decide)
    | extract_lets
    | with_reducible exact only_refl _ _
    | with_reducible apply only_step (answer_only ..)
    | with_reducible apply only_step (changeOwner_only ..)
    | with_reducible apply only_step (receivedPackets_only ..)
    | with_reducible apply when_only
    | split

theorem execFetchLate_only {b tier fcs : Nat} {s t : State} (h : execFetchLate b tier fcs s = .next t) :
    OnlyChanges [.binds] s t := by
  unfold execFetchLate at h
  refine act_only h ?_
  beta_reduce
  repeat' first
    | (show List.all _ _ = true; decide)
    | extract_lets
    | with_reducible exact only_refl _ _
    | with_reducible apply only_step (state_countBind_only ..)
    | with_reducible apply only_step (state_updBind_only ..)
    | with_reducible apply when_only
    | split

theorem execFetchTimeout_only {what : Lost} {status : Nat} {s t : State} (h : execFetchTimeout what status s =
    .next t) : OnlyChanges [.mem, .wordErr, .dirty, .seats, .bank, .reqs, .reqx, .objs, .objx, .binds, .slot,
    .ingots, .cores, .fab, .mirrors, .out, .free] s t := by
  unfold execFetchTimeout at h
  refine act_only h ?_
  beta_reduce
  repeat' first
    | (show List.all _ _ = true; decide)
    | extract_lets
    | with_reducible exact only_refl _ _
    | with_reducible apply only_step (giveUp_only ..)
    | with_reducible apply when_only

theorem execExpiryCheck_only {b : Nat} {s t : State} (h : execExpiryCheck b s = .next t) : OnlyChanges [.mem,
    .wordErr, .dirty, .seats, .bank, .reqs, .reqx, .objs, .objx, .binds, .ingots, .cores, .fab, .mirrors, .out,
    .free] s t := by
  unfold execExpiryCheck at h
  refine act_only h ?_
  beta_reduce
  repeat' first
    | (show List.all _ _ = true; decide)
    | extract_lets
    | intro _
    | with_reducible exact only_refl _ _
    | with_reducible assumption
    | with_reducible apply only_step (endExpired_only ..)
    | with_reducible apply only_step (markExpired_only ..)
    | with_reducible apply when_only
    | with_reducible refine only_foldl ?_ ?_

theorem execConsPoll_only {slot : Nat} {s t : State} (h : execConsPoll slot s = .next t) : OnlyChanges [.mem,
    .wordErr, .dirty, .seats, .bank, .reqs, .reqx, .objs, .objx, .stakes, .binds, .slot, .ingots, .cores, .fab,
    .mirrors, .out, .free] s t := by
  unfold execConsPoll at h
  refine act_only h ?_
  beta_reduce
  repeat' first
    | (show List.all _ _ = true; decide)
    | extract_lets
    | with_reducible exact only_refl _ _
    | with_reducible apply only_step (closeIdle_only ..)
    | with_reducible apply only_step (readCons_only ..)
    | with_reducible apply only_step (ringEnd_only ..)
    | with_reducible apply only_step (ringRaise_only ..)
    | with_reducible apply only_step (state_updRx_only ..)
    | with_reducible apply when_only
    | split

theorem execRequestDone_only {slot : Nat} {s t : State} (h : execRequestDone slot s = .next t) : OnlyChanges
    [.reqs] s t := by
  unfold execRequestDone at h
  refine act_only h ?_
  beta_reduce
  repeat' first
    | (show List.all _ _ = true; decide)
    | extract_lets
    | with_reducible exact only_refl _ _
    | with_reducible apply only_step (state_updReq_only ..)
    | with_reducible apply when_only

theorem execAvkinAccess_only {behalf : Nat} {acc : Access} {s t : State} (h : execAvkinAccess behalf acc s = .next
    t) : OnlyChanges [.clk, .mem, .wordErr, .dirty, .seats, .mboxes, .bank, .reqx, .objs, .objx, .binds, .ingots,
    .hm, .cores, .fab, .out] s t := by
  unfold execAvkinAccess avkinRow at h
  split at h
  · exact act_only h (when_only (only_refl _ _) (only_step (avkinRead_only ..) rfl (only_refl _ _)))
  · refine act_only h (when_only (only_refl _ _) (when_only (only_refl _ _) ?_))
    exact only_step (avkinWrite_only ..) rfl (only_refl _ _)

theorem execMbCtrlOwnSet_only {behalf seat mbox : Nat} {s t : State} (h : execMbCtrlOwnSet behalf seat mbox s =
    .next t) : OnlyChanges [.clk, .seats, .mboxes, .bank, .ingots, .out] s t := by
  unfold execMbCtrlOwnSet avkinRow at h
  refine act_only h ?_
  beta_reduce
  repeat' first
    | (show List.all _ _ = true; decide)
    | extract_lets
    | with_reducible exact only_refl _ _
    | with_reducible apply only_step (avkinCtl_only ..)
    | with_reducible apply when_only

theorem execGovLimitWrite_only {behalf ingot : Nat} {value : W64} {s t : State} (h : execGovLimitWrite behalf ingot
    value s = .next t) : OnlyChanges [.clk, .seats, .mboxes, .bank, .ingots, .out] s t := by
  unfold execGovLimitWrite avkinRow at h
  refine act_only h ?_
  beta_reduce
  repeat' first
    | (show List.all _ _ = true; decide)
    | extract_lets
    | with_reducible exact only_refl _ _
    | with_reducible apply only_step (avkinCtl_only ..)
    | with_reducible apply when_only

theorem execTierCfgWrite_only {behalf : Nat} {value : W64} {s t : State} (h : execTierCfgWrite behalf value s =
    .next t) : OnlyChanges [.clk, .seats, .mboxes, .bank, .ingots, .out] s t := by
  unfold execTierCfgWrite avkinRow at h
  refine act_only h ?_
  beta_reduce
  repeat' first
    | (show List.all _ _ = true; decide)
    | extract_lets
    | with_reducible exact only_refl _ _
    | with_reducible apply only_step (avkinCtl_only ..)
    | with_reducible apply when_only

theorem execTimeCfgWrite_only {behalf : Nat} {value : W64} {s t : State} (h : execTimeCfgWrite behalf value s =
    .next t) : OnlyChanges [.clk, .seats, .mboxes, .bank, .ingots, .out] s t := by
  unfold execTimeCfgWrite avkinRow at h
  refine act_only h ?_
  beta_reduce
  repeat' first
    | (show List.all _ _ = true; decide)
    | extract_lets
    | with_reducible exact only_refl _ _
    | with_reducible apply only_step (avkinCtl_only ..)
    | with_reducible apply when_only

theorem execControlSpaceWrite_only {behalf off len : Nat} {data : BitVec 512} {s t : State} (h :
    execControlSpaceWrite behalf off len data s = .next t) : OnlyChanges [.clk, .seats, .mboxes, .bank, .ingots,
    .out] s t := by
  unfold execControlSpaceWrite avkinRow at h
  refine act_only h ?_
  beta_reduce
  repeat' first
    | (show List.all _ _ = true; decide)
    | extract_lets
    | with_reducible exact only_refl _ _
    | with_reducible apply only_step (avkinCtl_only ..)
    | with_reducible apply when_only

theorem execTally_only {c : Cmd} {s t : State} (h : execTally c s = .next t) : OnlyChanges [.mem, .wordErr, .dirty,
    .seats, .mboxes, .bank, .reqx, .objs, .objx, .binds, .ingots, .cores, .fab, .out] s t := by
  exact cmdRow_only rfl (fun c s => only_step (opTally_only c s) rfl (only_refl _ _)) h

theorem execIdent_only {c : Cmd} {s t : State} (h : execIdent c s = .next t) : OnlyChanges [.seats, .mboxes, .bank,
    .out] s t := by
  exact cmdRow_only rfl (fun c s => only_step (opIdent_only c s) rfl (only_refl _ _)) h

theorem execAttest_only {c : Cmd} {s t : State} (h : execAttest c s = .next t) : OnlyChanges [.seats, .mboxes,
    .bank, .out] s t := by
  exact cmdRow_only rfl (fun c s => only_step (opAttest_only c s) rfl (only_refl _ _)) h

theorem execProbeChallenge_only {c : Cmd} {s t : State} (h : execProbeChallenge c s = .next t) : OnlyChanges
    [.pins, .seats, .mboxes, .bank, .out] s t := by
  exact cmdRow_only rfl (fun c s => only_step (opProbe_only c s) rfl (only_refl _ _)) h

theorem execProbeUnlock_only {c : Cmd} {s t : State} (h : execProbeUnlock c s = .next t) : OnlyChanges [.pins,
    .seats, .mboxes, .bank, .out] s t := by
  exact cmdRow_only rfl (fun c s => only_step (opProbe_only c s) rfl (only_refl _ _)) h

theorem execProbeSelect_only {c : Cmd} {s t : State} (h : execProbeSelect c s = .next t) : OnlyChanges [.pins,
    .seats, .mboxes, .bank, .out] s t := by
  exact cmdRow_only rfl (fun c s => only_step (opProbe_only c s) rfl (only_refl _ _)) h

theorem execProbeOff_only {c : Cmd} {s t : State} (h : execProbeOff c s = .next t) : OnlyChanges [.pins, .seats,
    .mboxes, .bank, .out] s t := by
  exact cmdRow_only rfl (fun c s => only_step (opProbe_only c s) rfl (only_refl _ _)) h

theorem execMailboxGrant_only  {s t : State} (h : execMailboxGrant s = .next t) : OnlyChanges [.pins, .clk, .mem,
    .wordErr, .dirty, .seats, .mboxes, .bank, .reqs, .reqx, .objs, .objx, .stakes, .hist, .binds, .slot, .imem,
    .pipSlots, .ingots, .hm, .cores, .fab, .mirrors, .out, .free] s t := by
  unfold execMailboxGrant at h
  refine act_only h ?_
  repeat' first
    | (show List.all _ _ = true; decide)
    | extract_lets
    | with_reducible exact only_refl _ _
    | with_reducible apply only_step (mailboxGrant_only ..)

theorem execLongCommandPrepared_only {seat mbox : Nat} {s t : State} (h : execLongCommandPrepared seat mbox s =
    .next t) : OnlyChanges [.pins, .clk, .mem, .wordErr, .dirty, .seats, .mboxes, .bank, .reqs, .reqx, .objs,
    .objx, .stakes, .hist, .binds, .slot, .imem, .pipSlots, .ingots, .hm, .cores, .fab, .mirrors, .out, .free] s t := by
  unfold execLongCommandPrepared at h
  refine act_only h ?_
  beta_reduce
  repeat' first
    | (show List.all _ _ = true; decide)
    | extract_lets
    | with_reducible exact only_refl _ _
    | with_reducible apply only_step (longPrepared_only ..)
    | with_reducible apply when_only

theorem execHeldCommandApply_only  {s t : State} (h : execHeldCommandApply s = .next t) : OnlyChanges [.pins, .clk,
    .mem, .wordErr, .dirty, .seats, .mboxes, .bank, .reqs, .reqx, .objs, .objx, .stakes, .hist, .binds, .slot,
    .imem, .pipSlots, .ingots, .hm, .cores, .fab, .mirrors, .out, .free] s t := by
  unfold execHeldCommandApply at h
  refine act_only h ?_
  repeat' first
    | (show List.all _ _ = true; decide)
    | extract_lets
    | with_reducible exact only_refl _ _
    | with_reducible apply only_step (heldApply_only ..)

theorem execRstNAssert_only  {s t : State} (h : execRstNAssert s = .next t) : OnlyChanges [.pins, .clk, .boot,
    .mem, .wordErr, .dirty, .seats, .mboxes, .bank, .reqs, .reqx, .objs, .objx, .stakes, .hist, .binds, .slot,
    .imem, .pipSlots, .ingots, .hm, .pips, .cores, .clusters, .fab, .mirrors] s t := by
  unfold execRstNAssert at h
  split at h
  · cases h; exact only_refl _ _
  · cases h; exact only_step (resetKeep_only ..) rfl (only_refl _ _)

theorem execRstNRelease_only {romOk : Bool} {s t : State} (h : execRstNRelease romOk s = .next t) : OnlyChanges
    [.pins, .boot, .out] s t := by
  unfold execRstNRelease at h
  split at h
  · cases h; exact only_step (release_only ..) rfl (only_refl _ _)
  · cases h; exact only_refl _ _

theorem execBootStageFuse_only {ok : Bool} {s t : State} (h : execBootStageFuse ok s = .next t) : OnlyChanges
    [.pins, .boot, .out] s t := by
  unfold execBootStageFuse at h
  refine act_only h ?_
  beta_reduce
  repeat' first
    | (show List.all _ _ = true; decide)
    | extract_lets
    | with_reducible exact only_refl _ _
    | with_reducible apply only_step (halt_only ..)
    | with_reducible apply only_step (setBoot_only ..)
    | with_reducible apply when_only
    | split

theorem execBootStageAvkin_only {lanes : BitVec 16} {s t : State} (h : execBootStageAvkin lanes s = .next t) :
    OnlyChanges [.pins, .boot, .fab, .out] s t := by
  unfold execBootStageAvkin at h
  refine act_only h ?_
  beta_reduce
  repeat' first
    | (show List.all _ _ = true; decide)
    | extract_lets
    | with_reducible exact only_refl _ _
    | with_reducible apply only_step (avkinStage_only ..)
    | with_reducible apply when_only

theorem execBootStageFetch_only  {s t : State} (h : execBootStageFetch s = .next t) : OnlyChanges [.pins, .boot,
    .out] s t := by
  unfold execBootStageFetch at h
  refine act_only h ?_
  beta_reduce
  repeat' first
    | (show List.all _ _ = true; decide)
    | extract_lets
    | with_reducible exact only_refl _ _
    | with_reducible apply only_step (fetchImage_only ..)
    | with_reducible apply only_step (setBoot_only ..)
    | with_reducible apply when_only
    | split

theorem execBootHeaderPoll_only  {s t : State} (h : execBootHeaderPoll s = .next t) : OnlyChanges [.pins, .boot,
    .out] s t := by
  unfold execBootHeaderPoll at h
  refine act_only h ?_
  beta_reduce
  repeat' first
    | (show List.all _ _ = true; decide)
    | extract_lets
    | with_reducible exact only_refl _ _
    | with_reducible apply only_step (halt_only ..)
    | with_reducible apply when_only

theorem execBootStageVerify_only  {s t : State} (h : execBootStageVerify s = .next t) : OnlyChanges [.pins, .boot,
    .out] s t := by
  unfold execBootStageVerify at h
  refine act_only h ?_
  beta_reduce
  repeat' first
    | (show List.all _ _ = true; decide)
    | extract_lets
    | with_reducible exact only_refl _ _
    | with_reducible apply only_step (verifyImage_only ..)
    | with_reducible apply when_only

theorem execBootStageRollback_only {good : Nat} {s t : State} (h : execBootStageRollback good s = .next t) :
    OnlyChanges [.fuses, .pins, .boot, .out] s t := by
  unfold execBootStageRollback at h
  refine act_only h ?_
  beta_reduce
  repeat' first
    | (show List.all _ _ = true; decide)
    | extract_lets
    | with_reducible exact only_refl _ _
    | with_reducible apply only_step (rollbackStage_only ..)
    | with_reducible apply when_only

theorem execBootStageFirmware_only {ok : Bool} {failed : List (Nat × Nat × Nat)} {s t : State} (h :
    execBootStageFirmware ok failed s = .next t) : OnlyChanges [.pins, .boot, .mem, .wordErr, .dirty, .bank,
    .ingots, .out, .free] s t := by
  unfold execBootStageFirmware at h
  refine act_only h ?_
  beta_reduce
  repeat' first
    | (show List.all _ _ = true; decide)
    | extract_lets
    | with_reducible exact only_refl _ _
    | with_reducible apply only_step (firmwareStage_only ..)
    | with_reducible apply when_only

theorem execBootStageLinks_only {ok : Bool} {s t : State} (h : execBootStageLinks ok s = .next t) : OnlyChanges
    [.pins, .clk, .boot, .mem, .wordErr, .dirty, .seats, .bank, .reqx, .objs, .objx, .binds, .cores, .fab,
    .mirrors, .out] s t := by
  unfold execBootStageLinks at h
  refine act_only h ?_
  beta_reduce
  repeat' first
    | (show List.all _ _ = true; decide)
    | extract_lets
    | with_reducible exact only_refl _ _
    | with_reducible apply only_step (linksStage_only ..)
    | with_reducible apply when_only

theorem execBootStageReady_only  {s t : State} (h : execBootStageReady s = .next t) : OnlyChanges [.pins, .boot,
    .out] s t := by
  unfold execBootStageReady at h
  refine act_only h ?_
  beta_reduce
  repeat' first
    | (show List.all _ _ = true; decide)
    | extract_lets
    | with_reducible exact only_refl _ _
    | with_reducible apply only_step (setBoot_only ..)
    | with_reducible apply when_only

theorem execRailLoss_only  {s t : State} (h : execRailLoss s = .next t) : OnlyChanges [.pins] s t := by
  unfold execRailLoss at h
  refine act_only h ?_
  beta_reduce
  repeat' first
    | (show List.all _ _ = true; decide)
    | extract_lets
    | with_reducible exact only_refl _ _
    | with_reducible apply only_step (set_pins_only ..)

theorem execPllUnlock_only  {s t : State} (h : execPllUnlock s = .next t) : OnlyChanges [.pins] s t := by
  unfold execPllUnlock at h
  refine act_only h ?_
  beta_reduce
  repeat' first
    | (show List.all _ _ = true; decide)
    | extract_lets
    | with_reducible exact only_refl _ _
    | with_reducible apply only_step (setSbBits_only ..)
    | with_reducible apply only_step (set_pins_only ..)

theorem execDieSensorRead_only {temps : List (Option Int)} {s t : State} (h : execDieSensorRead temps s = .next t)
    : OnlyChanges [.pins] s t := by
  unfold execDieSensorRead at h
  refine act_only h ?_
  repeat' first
    | (show List.all _ _ = true; decide)
    | extract_lets
    | with_reducible exact only_refl _ _
    | with_reducible apply only_step (sensorsRead_only ..)

theorem execSmbusBlockRead_only {code : Nat} {pecOk : Bool} {s t : State} (h : execSmbusBlockRead code pecOk s =
    .next t) : OnlyChanges [.out] s t := by
  unfold execSmbusBlockRead at h
  refine sideband_only h ?_
  beta_reduce
  repeat' first
    | (show List.all _ _ = true; decide)
    | extract_lets
    | with_reducible exact only_refl _ _
    | with_reducible apply only_step (state_emit_only ..)

theorem execSmbusAlertResponse_only {won : Bool} {s t : State} (h : execSmbusAlertResponse won s = .next t) :
    OnlyChanges [.pins, .out] s t := by
  unfold execSmbusAlertResponse at h
  refine sideband_only h ?_
  beta_reduce
  repeat' first
    | (show List.all _ _ = true; decide)
    | extract_lets
    | with_reducible exact only_refl _ _
    | with_reducible apply only_step (state_emit_only ..)
    | split
    | with_reducible apply only_step (set_pins_only ..)

theorem execSmbusWrite_only  {s t : State} (h : execSmbusWrite s = .next t) : OnlyChanges [.out] s t := by
  unfold execSmbusWrite at h
  refine sideband_only h ?_
  beta_reduce
  repeat' first
    | (show List.all _ _ = true; decide)
    | extract_lets
    | with_reducible exact only_refl _ _
    | with_reducible apply only_step (state_emit_only ..)

theorem execJtagTapReset_only  {s t : State} (h : execJtagTapReset s = .next t) : OnlyChanges [.pins] s t := by
  unfold execJtagTapReset at h
  refine sideband_only h ?_
  beta_reduce
  repeat' first
    | (show List.all _ _ = true; decide)
    | extract_lets
    | with_reducible exact only_refl _ _
    | with_reducible apply only_step (set_pins_only ..)

theorem execJtagBypass_only  {s t : State} (h : execJtagBypass s = .next t) : OnlyChanges [.pins, .out] s t := by
  unfold execJtagBypass at h
  refine sideband_only h ?_
  beta_reduce
  repeat' first
    | (show List.all _ _ = true; decide)
    | extract_lets
    | with_reducible exact only_refl _ _
    | with_reducible apply only_step (tapLoad_only ..)

theorem execJtagIdcode_only  {s t : State} (h : execJtagIdcode s = .next t) : OnlyChanges [.pins, .out] s t := by
  unfold execJtagIdcode at h
  refine sideband_only h ?_
  beta_reduce
  repeat' first
    | (show List.all _ _ = true; decide)
    | extract_lets
    | with_reducible exact only_refl _ _
    | with_reducible apply only_step (tapLoad_only ..)

theorem execJtagSamplePreload_only  {s t : State} (h : execJtagSamplePreload s = .next t) : OnlyChanges [.pins,
    .out, .free] s t := by
  unfold execJtagSamplePreload at h
  refine sideband_only h ?_
  beta_reduce
  repeat' first
    | (show List.all _ _ = true; decide)
    | extract_lets
    | with_reducible exact only_refl _ _
    | with_reducible apply only_step (tapLoad_only ..)
    | with_reducible apply only_step (set_pins_free_only ..)

theorem execJtagExtest_only  {s t : State} (h : execJtagExtest s = .next t) : OnlyChanges [.pins, .out] s t := by
  unfold execJtagExtest at h
  refine sideband_only h ?_
  beta_reduce
  repeat' first
    | (show List.all _ _ = true; decide)
    | extract_lets
    | with_reducible exact only_refl _ _
    | with_reducible apply only_step (tapTest_only ..)

theorem execJtagExtestPulse_only  {s t : State} (h : execJtagExtestPulse s = .next t) : OnlyChanges [.pins, .out] s
    t := by
  unfold execJtagExtestPulse at h
  refine sideband_only h ?_
  beta_reduce
  repeat' first
    | (show List.all _ _ = true; decide)
    | extract_lets
    | with_reducible exact only_refl _ _
    | with_reducible apply only_step (tapTest_only ..)

theorem execJtagExtestTrain_only  {s t : State} (h : execJtagExtestTrain s = .next t) : OnlyChanges [.pins, .out] s
    t := by
  unfold execJtagExtestTrain at h
  refine sideband_only h ?_
  beta_reduce
  repeat' first
    | (show List.all _ _ = true; decide)
    | extract_lets
    | with_reducible exact only_refl _ _
    | with_reducible apply only_step (tapTest_only ..)

theorem execJtagClamp_only  {s t : State} (h : execJtagClamp s = .next t) : OnlyChanges [.pins, .out] s t := by
  unfold execJtagClamp at h
  refine sideband_only h ?_
  beta_reduce
  repeat' first
    | (show List.all _ _ = true; decide)
    | extract_lets
    | with_reducible exact only_refl _ _
    | with_reducible apply only_step (tapTest_only ..)

theorem execJtagHighz_only  {s t : State} (h : execJtagHighz s = .next t) : OnlyChanges [.pins, .out] s t := by
  unfold execJtagHighz at h
  refine sideband_only h ?_
  beta_reduce
  repeat' first
    | (show List.all _ _ = true; decide)
    | extract_lets
    | with_reducible exact only_refl _ _
    | with_reducible apply only_step (tapTest_only ..)

theorem execPrbClkEdge_only {events : Byte} {s t : State} (h : execPrbClkEdge events s = .next t) : OnlyChanges
    [.pins] s t := by
  unfold execPrbClkEdge at h
  refine act_only h ?_
  unfold probeEdge
  split
  · exact only_refl _ _
  · extract_lets
    apply only_step (set_pins_only ..)
    · decide
    · exact only_refl _ _

end Sys2Proof.Laws
end

