-- ==== Sys2Proof/Tests/Slice0.lean ====
section
/-! SUPPORT. Tests of single commands, and for every statement with hypotheses a state and operands that meet them. -/

namespace Sys2Proof.Tests

open Sys2Proof Sys2Proof.Machine

set_option Elab.async false

/-! ## Small states -/

/-- A device out of reset whose boot has reached READY, one millisecond on. -/
def up : State := { State.reset with
  pins := { Pins.reset with rstLow := false },
  boot := { Boot.reset with status := setAll 0#64 [(LBootSt.STAGE, 9)] },
  clk := { Clock.reset with ticks := 5400000, time := 1000000#64 } }

/-- A command of seat 0 in its mailbox 0. -/
def cmd (opcode : Nat) (body : List (Fld × Nat)) (payload : Nat := 0) : Cmd :=
  ⟨0, 0, BitVec.ofNat 256 opcode, setAll 0#1792 body, BitVec.ofNat 28672 payload⟩

/-- A bit field of a body that the manual places by number alone. -/
def bits (lo w : Nat) : Fld := ⟨lo, w⟩

/-- The host's memory, byte n. -/
def host (n : Nat) : Nat := 2 ^ 52 + n

/-- A bind record: one layer, one head of 32 elements, one pool of four runs at the start of ingot 0. -/
def rec1 : BitVec 8192 := setAll 0#8192 [(LBindRec.LAYERS, 1), (LBindRec.G, 1), (LBindRec.HQ, 1), (LBindRec.D, 32),
  (LBindRec.STEP_WIDTH, 4), (LBindRec.SPRUE_INT, 16), (LBindRec.VOCAB, 4), (LBindRec.DRAFT_MISS, 1),
  (LBindRec.DRAFT_REST, 1), (LBindRec.LPLEN, 1), (LBindRec.LPROG, host 0x10000), (LBindRec.WOBJ, 1),
  (bits 576 32, 4), (bits 2560 64, host 0x11000)]

/-- That record loaded as binding 0 of seat 0, with its objects and a stake. -/
def bound : State := { up with
  binds := [(0, { Bind.reset with loaded := true, brec := rec1, logit := [0x300C000, 0x302C000, 0x304C000, 0x306C000] })],
  seats := [(0, { Seat.reset0 with bnd := setAll 0#64 [(LSeatBnd.ATTACHED, 1), (LSeatBnd.OWNS, 1)], usage := [(2, 4), (3, 5)] })],
  objs := [(1, setAll 0#512 [(LObj.KIND, 1), (LObj.STATE, 1), (LObj.BOUND, 1), (LObj.WTIER, 2), (LObj.TILES, 1), (LObj.WORK, 0xC00000000)]),
    (2, setAll 0#512 [(LObj.KIND, 3), (LObj.STATE, 1), (LObj.BOUND, 1), (LObj.WTIER, 2), (LObj.TILES, 4)])],
  stakes := [(0, setAll 0#512 [(LStake.ON, 1), (LStake.RATE, 1000), (LStake.BURST, 100), (LStake.LEVEL, 6553600)])] }

/-- A request's entry as ADMIT carries it: slot 5, 16 prompt positions. -/
def ent : BitVec 1024 := setAll 0#1024 [(LEnt.SLOT, 5), (LEnt.PAVAIL, 16), (LEnt.PCAP, 16), (LEnt.COLS, 4),
  (LEnt.PTBASE, host 0x1000), (LEnt.RING, host 0x2000), (LEnt.PBASE, host 0x3000), (LEnt.SAMPLE, host 0x4000)]

/-- Binding 0 with that request in slot 5 in a state of its own. -/
def held (st : Nat) : State := { bound with reqs := [(5, LEnt.STATE.set ent st)] }

/-- Binding 0 in a phase of its turn. -/
def inPhase (s : State) (p : Nat) : State := s.updBind 0 (fun x => { x with blk := LTurnBlk.PHASE.set x.blk p })

/-! ## Requests -/

def cAdmit : Cmd := cmd 1 [(bits 0 6, 1)] ent.toNat

theorem witness_AdmitTakesEverySlot : granted 0x0001 anyOp bound cAdmit = true ∧
    (opAdmit cAdmit (atApplication bound cAdmit)).2.status = St.ok := by decide +kernel

def cFeed : Cmd := cmd 2 [(bits 0 14, 5), (bits 14 20, 0), (bits 34 1, 1)]

theorem witness_FeedRaisesPavail : granted 0x0002 anyOp (held 2) cFeed = true ∧
    feedStatus (atApplication (held 2) cFeed) cFeed = St.ok ∧
    granted 0x0002 anyOp (inPhase (held 2) 3) cFeed = true ∧
    feedStatus (atApplication (inPhase (held 2) 3) cFeed) cFeed = St.ok ∧
    bPhase ((atApplication (inPhase (held 2) 3) cFeed).bind 0) ≠ 0 := by decide +kernel

def cCancel : Cmd := cmd 3 [(bits 0 14, 5)]
def cPause : Cmd := cmd 4 [(LPause.SLOT, 5), (LPause.TTL, 10)]

theorem witness_CancelAndPauseTakeEffect :
    (granted 0x0003 anyOp (held 2) cCancel = true ∧ cancelStatus (atApplication (held 2) cCancel) cCancel = St.ok) ∧
    (granted 0x0004 anyOp (held 2) cPause = true ∧ pauseStatus (atApplication (held 2) cPause) cPause = St.ok) := by
  decide +kernel

def cResume : Cmd := cmd 5 [(bits 0 14, 5)]

/-- That binding FAULTED. -/
def stuck : State := (held 5).updBind 0 (fun x => { x with blk := LTurnBlk.FAULTED.set x.blk 1 })

theorem witness_ResumeTakesEffect :
    (granted 0x0005 anyOp (held 5) cResume = true ∧ resumeStatus (atApplication (held 5) cResume) cResume = St.ok) ∧
    (granted 0x0005 anyOp (inPhase (held 5) 2) cResume = true ∧
      resumeStatus (atApplication (inPhase (held 5) 2) cResume) cResume = St.ok ∧
      inFlight (atApplication (inPhase (held 5) 2) cResume) 0 = true) ∧
    (granted 0x0005 anyOp stuck cResume = true ∧ resumeStatus (atApplication stuck cResume) cResume = St.ok ∧
      inFlight (atApplication stuck cResume) 0 = false ∧ composes (atApplication stuck cResume) 0 = false ∧
      ((atApplication stuck cResume).rx 5).returns = []) := by decide +kernel

/-! ## Objects -/

def cCreate : Cmd := cmd 0x10 [(LPlace.OP, 1), (LPlace.KIND, 2), (LPlace.OBJECT, 9), (LPlace.TILES, 2), (LPlace.ADDR, 0x1800000000)]
def cMove : Cmd := cmd 0x10 [(LPlace.OP, 2), (LPlace.OBJECT, 9), (LPlace.ADDR, 0x1800010000)]
def cFlush : Cmd := cmd 0x10 [(LPlace.OP, 3), (LPlace.OBJECT, 9)]
def cDrop : Cmd := cmd 0x10 [(LPlace.OP, 4), (LPlace.OBJECT, 9)]
def cDestroy : Cmd := cmd 0x10 [(LPlace.OP, 5), (LPlace.OBJECT, 9)]

/-- Object 9: two tiles of T2 with a backing copy in the host's memory; its second tile is dirty. -/
def placed : State := { up with
  objs := [(9, setAll 0#512 [(LObj.KIND, 2), (LObj.STATE, 1), (LObj.WTIER, 2), (LObj.BTIER, 4), (LObj.TILES, 2),
    (LObj.WORK, 0x1800000000), (LObj.BACK, host 0x100000)])],
  seats := [(0, { Seat.reset0 with usage := [(3, 2), (5, 2)] })],
  dirty := [(0x1800000000 / 16384 + 1, true)] }

theorem witness_PlaceKeepsTheObjectTable :
    (placeStatus (atApplication up cCreate) cCreate = St.ok ∧ granted 0x0010 (bodyOp 1) up cCreate = true ∧
      (placeCreate (atApplication up cCreate) cCreate).2 = St.ok) ∧
    (placeStatus (atApplication placed cMove) cMove = St.ok ∧ granted 0x0010 (bodyOp 2) placed cMove = true ∧
      (placeMove (atApplication placed cMove) cMove).2 = St.ok) ∧
    (placeStatus (atApplication placed cFlush) cFlush = St.ok ∧ granted 0x0010 (bodyOp 3) placed cFlush = true) ∧
    (placeStatus (atApplication placed cDrop) cDrop = St.ok ∧ granted 0x0010 (bodyOp 4) placed cDrop = true) ∧
    (placeStatus (atApplication placed cDestroy) cDestroy = St.ok ∧ granted 0x0010 (bodyOp 5) placed cDestroy = true) := by
  decide +kernel

/-! ## Bindings -/

/-- What BIND LOAD of `rec1` reads: a layer program of one wait record, an image of one END word. -/
def loadable : State := { bound with
  binds := [],
  seats := [(0, { Seat.reset0 with cfg := LSeatCfg.PIP_OWN.set Seat.reset0.cfg 1 })],
  mem := (memPut [] (host 0x10000) (bytesOf (2 ^ 523 * 255 + 2 ^ 512 * 6) 128)).foldl (fun t e => Tab.set t 0#8 e.1 e.2)
    (memPut [] (host 0x11000) (bytesOf (1 + 2 ^ 128 * 0x08000000) 20)) }

def cLoad : Cmd := cmd 0x11 [(LBindCmd.OP, 1)] rec1.toNat

theorem witness_BindLoadInstallsTheRecord : granted 0x0011 (bodyOp 1) loadable cLoad = true ∧
    (opBindLoad cLoad (atApplication loadable cLoad)).2 = St.ok := by decide +kernel

/-- A variant's table of one entry: run 1 of pool 0, KIND 3. -/
def variantTable : State := { bound with mem := memPut [] (host 0x5000) (bytesOf (1 + 2 ^ 43 * 3) 8) }
def withVariant : State := variantTable.updBind 0 (fun x => { x with variants := [(3, ⟨8, host 0x5000⟩)] })

def cVarAdd : Cmd := cmd 0x11 [(LBindCmd.OP, 2), (LBindCmd.VARIANT, 3), (LBindCmd.VLEN, 8), (LBindCmd.VPT, host 0x5000)]
def cVarRemove : Cmd := cmd 0x11 [(LBindCmd.OP, 3), (LBindCmd.VARIANT, 3)]

theorem witness_VariantsComeAndGo :
    (granted 0x0011 (bodyOp 2) variantTable cVarAdd = true ∧
      (opVariantAdd cVarAdd (atApplication variantTable cVarAdd)).2 = St.ok ∧
      variantRuns variantTable rec1 8 (host 0x5000) = some [(0, 1)]) ∧
    (granted 0x0011 (bodyOp 3) withVariant cVarRemove = true ∧
      (opVariantRemove cVarRemove (atApplication withVariant cVarRemove)).2 = St.ok) := by decide +kernel

def faulted : State := bound.updBind 0 (fun x => { x with blk := LTurnBlk.FAULTED.set x.blk 1 })
def cClear : Cmd := cmd 0x11 [(LBindCmd.OP, 4)]
def cUnbind : Cmd := cmd 0x12 []
/-- Mould 7 of one stage: a WRITE of FP32 rows. -/
def cMould : Cmd := cmd 0x13 [] (7 + 2 ^ 8 + 2 ^ 128 * (0x19 + 2 ^ 25 * 8))

theorem witness_ClearUnbindAndMould :
    (granted 0x0011 (bodyOp 4) faulted cClear = true ∧ (opBindClear cClear (atApplication faulted cClear)).2 = St.ok) ∧
    (granted 0x0012 anyOp bound cUnbind = true ∧ unbindStatus (atApplication bound cUnbind) cUnbind = St.ok) ∧
    (granted 0x0013 anyOp bound cMould = true ∧ (opMould cMould (atApplication bound cMould)).2.status = St.ok) := by
  decide +kernel

/-! ## Stakes, seats -/

def cAssign : Cmd := cmd 0x20 [(LStakeCmd.OP, 1), (LStakeCmd.STAKE, 4), (LStakeCmd.SEAT, 2), (LStakeCmd.PF_WT, 9),
  (LStakeCmd.RATE, 500), (LStakeCmd.BURST, 64)]
def cUpdate : Cmd := cmd 0x20 [(LStakeCmd.OP, 2), (LStakeCmd.STAKE, 0), (LStakeCmd.RATE, 7), (LStakeCmd.BURST, 20)]
def cRelease : Cmd := cmd 0x20 [(LStakeCmd.OP, 3), (LStakeCmd.STAKE, 0)]

theorem witness_StakeTermsAreWritten :
    (stakeStatus (atApplication bound cAssign) cAssign = St.ok ∧ granted 0x0020 (bodyOp 1) bound cAssign = true) ∧
    (stakeStatus (atApplication bound cUpdate) cUpdate = St.ok ∧ granted 0x0020 (bodyOp 2) bound cUpdate = true) ∧
    (stakeStatus (atApplication bound cRelease) cRelease = St.ok ∧ granted 0x0020 (bodyOp 3) bound cRelease = true) := by
  decide +kernel

def cWindow : Cmd := cmd 0x21 [(LSeatSet.OP, 1), (LSeatSet.SEAT, 3), (LSeatSet.TIER, 4), (LSeatSet.INDEX, 7),
  (bits 64 1, 1), (bits 78 39, 2 ^ 38), (bits 128 40, 5)]
def cQuota : Cmd := cmd 0x21 [(LSeatSet.OP, 2), (LSeatSet.SEAT, 3), (bits 64 64, 12), (bits 384 64, 9)]
def cConfig : Cmd := cmd 0x21 [(LSeatSet.OP, 3), (LSeatSet.SEAT, 3), (bits 64 64, 0x1100101)]
def cAttach : Cmd := cmd 0x21 [(LSeatSet.OP, 4), (LSeatSet.SEAT, 0)]
def cDetach : Cmd := cmd 0x21 [(LSeatSet.OP, 5), (LSeatSet.SEAT, 3)]
def cRisers : Cmd := cmd 0x21 [(LSeatSet.OP, 6), (bits 64 64, 0x44000)]

def noQuota : State := up.updSeat 0 (fun x => { x with quota := [] })

theorem witness_SeatSetWritesOneSetting :
    (seatSetStatus (atApplication bound cWindow) cWindow = St.ok ∧ granted 0x0021 (bodyOp 1) bound cWindow = true) ∧
    (seatSetStatus (atApplication bound cQuota) cQuota = St.ok ∧ granted 0x0021 (bodyOp 2) bound cQuota = true) ∧
    (seatSetStatus (atApplication bound cConfig) cConfig = St.ok ∧ granted 0x0021 (bodyOp 3) bound cConfig = true) ∧
    (seatSetStatus (atApplication bound cAttach) cAttach = St.ok ∧ granted 0x0021 (bodyOp 4) bound cAttach = true) ∧
    (seatSetStatus (atApplication bound cDetach) cDetach = St.ok ∧ granted 0x0021 (bodyOp 5) bound cDetach = true) ∧
    (seatSetStatus (atApplication noQuota cRisers) cRisers = St.ok ∧ granted 0x0021 (bodyOp 6) noQuota cRisers = true) := by
  decide +kernel

def cSeatReset : Cmd := cmd 0x22 [(bits 0 6, 3)]
def resetting : State := up.updSeat 3 (fun x => { x with cfg := LSeatCfg.RESETTING.set x.cfg 1 })

theorem witness_SeatResetRunsAndEnds :
    (granted 0x0022 anyOp (held 2) cSeatReset = true ∧ seatResetStatus (atApplication (held 2) cSeatReset) cSeatReset = St.ok) ∧
    (running .banker resetting = true ∧ resetDone resetting 3 = true) := by decide +kernel

/-! ## The plan, slices, mirrors -/

/-- A device at chip 0 of a mesh of 4 by 4, its four cables right. -/
def meshed (s : State) : State :=
  let lid := fun (p chip : Nat) => setAll 0#256 [(LLink.PORT, p), (LLink.VALID, 1), (LLink.CHIP, chip), (LLink.MODE, 2),
    (LLink.YLEN, 4), (LLink.ZLEN, 1)]
  let port := fun (p chip : Nat) => { Port.reset with trained := true, seen := some (lid p chip), state := setAll 0#128 [(LPortSt.STATE, 2)] }
  setRoutes { s with fab := { s.fab with
    fabId := setAll 0#64 [(LFabId.VALID, 1), (LFabId.MODE, 2), (LFabId.YLEN, 4), (LFabId.ZLEN, 1)],
    ports := [(0, port 1 1), (1, port 0 3), (2, port 3 4), (3, port 2 12)] } }

/-- A plan of four places, the first this device's, with no cable used. -/
def planWord : Nat := (List.range 4).foldl (fun a x => a + 2 ^ (128 * x) * (2 ^ 64 * x + 13844892888211485282 + x)) 0
def cPlan : Cmd := cmd 0x30 [(bits 0 5, 1)] planWord

theorem witness_PlanGivesTheChipItsPlace : granted 0x0030 anyOp up cPlan = true ∧
    (opPlan cPlan (atApplication up cPlan)).2.status = St.ok ∧
    (planRecs cPlan 1).find? (fun r => LPlanRec.DIGEST.get r == identDigest (atApplication up cPlan)) =
      some (BitVec.ofNat 128 13844892888211485282) := by decide +kernel

def cForm : Cmd := cmd 0x31 [(LSliceCmd.OP, 1), (LSliceCmd.STAG, 5), (LSliceCmd.NX, 2), (LSliceCmd.NY, 1), (LSliceCmd.NZ, 1), (LSliceCmd.BINDINGS, 1)]
def cSlice (op : Nat) (y : Nat := 0) : Cmd := cmd 0x31 [(LSliceCmd.OP, op), (LSliceCmd.CUT_Y, y)]
/-- Leader of a slice of chips 3 and 0 with binding 0, in a state of its own; coordinate 2 of Y is cut. -/
def sliced (st : Nat) : State :=
  let s := meshed bound
  setRoutes { s with fab := { s.fab with
    fabId := LFabId.STAG.set s.fab.fabId 5,
    slice := setAll 0#128 [(LSliceSt.STATE, st), (LSliceSt.LEADER, 1), (LSliceSt.X0, 3), (LSliceSt.NX, 2), (LSliceSt.NY, 1), (LSliceSt.NZ, 1), (LSliceSt.BINDINGS, 1), (LSliceSt.CUT, 4)] } }

theorem witness_SliceCommandsActOnTheBlock :
    (sliceStatus (atApplication (meshed bound) cForm) cForm = St.ok ∧ granted 0x0031 (bodyOp 1) (meshed bound) cForm = true) ∧
    (sliceStatus (atApplication (sliced 2) (cSlice 2)) (cSlice 2) = St.ok ∧ granted 0x0031 (bodyOp 2) (sliced 2) (cSlice 2) = true) ∧
    (sliceStatus (atApplication (sliced 2) (cSlice 3)) (cSlice 3) = St.ok ∧ granted 0x0031 (bodyOp 3) (sliced 2) (cSlice 3) = true) ∧
    (sliceStatus (atApplication (sliced 3) (cSlice 4)) (cSlice 4) = St.ok ∧ granted 0x0031 (bodyOp 4) (sliced 3) (cSlice 4) = true) ∧
    (sliceStatus (atApplication (sliced 2) (cSlice 5)) (cSlice 5) = St.ok ∧ granted 0x0031 (bodyOp 5) (sliced 2) (cSlice 5) = true) ∧
    (sliceStatus (atApplication (sliced 2) (cSlice 6 1)) (cSlice 6 1) = St.ok ∧ granted 0x0031 (bodyOp 6) (sliced 2) (cSlice 6 1) = true) ∧
    (sliceStatus (atApplication (sliced 2) (cSlice 7 2)) (cSlice 7 2) = St.ok ∧ granted 0x0031 (bodyOp 7) (sliced 2) (cSlice 7 2) = true) := by
  decide +kernel

def cMirror (op : Nat) (peer : Nat := 0) : Cmd := cmd 0x32 [(LMirCmd.OP, op), (LMirCmd.SEAT, 3), (LMirCmd.PEER, peer)]
/-- Seat 3 is paired with chip 1, in a state and a role of its own. -/
def mirrored (st role : Nat) : State := (meshed bound).setMir 3 { Mirror.reset with
  state := setAll 0#128 [(LMirSt.STATE, st), (LMirSt.ROLE, role), (LMirSt.PEER, 1)] }

theorem witness_MirrorPairsUnpairsTakesOver :
    (mirStatus (atApplication (meshed bound) (cMirror 1 1)) (cMirror 1 1) = St.ok ∧
      granted 0x0032 (bodyOp 1) (meshed bound) (cMirror 1 1) = true) ∧
    (mirStatus (atApplication (mirrored 2 0) (cMirror 2)) (cMirror 2) = St.ok ∧
      granted 0x0032 (bodyOp 2) (mirrored 2 0) (cMirror 2) = true) ∧
    (mirStatus (atApplication (mirrored 4 1) (cMirror 3)) (cMirror 3) = St.ok ∧
      granted 0x0032 (bodyOp 3) (mirrored 4 1) (cMirror 3) = true) := by decide +kernel

/-! ## Records and probes -/

/-- Page 0 of ingot 0 is locked by cluster 0 of this device; its deferral buffer is full; it is tripped; a word is bad. -/
def lockedUp (s : State) : State := s.updIngot 0 (fun x => { x with locks := [(0, [⟨0, 0, 0⟩])] })
def fullUp (s : State) : State := (lockedUp s).updIngot 0 (fun x => { x with defer := List.replicate 512 ⟨1, 0, [0], false⟩ })
def tripped (s : State) : State := s.updIngot 0 (fun x => { x with gov := LGovSt.MODE.set x.gov 3 })
def worn (s : State) (k : Nat) : State := { s with wordErr := [(k / 8, .uncorr)] }

/-- The Avkin link and the banker wait behind fences. -/
def fenced (s : State) : State := { s with fab := { s.fab with fences := [⟨avkinUnit, St.ok⟩, ⟨3 * 4096, St.ok⟩] } }

def cTally (sec dest : Nat) : Cmd := cmd 0x40 [(bits 0 8, sec), (bits 64 64, dest)]
def cIdent : Cmd := cmd 0x41 []
def cIdent1 : Cmd := cmd 0x41 [(bits 0 8, 1)]
def cAttest : Cmd := cmd 0x42 [(bits 0 64, 99)]

theorem witness_TallyIdentAttestReport :
    (granted 0x0040 anyOp (meshed bound) (cTally 5 (2 ^ 40 + 0x1000)) = true ∧
      tallyStatus (atApplication (meshed bound) (cTally 5 (2 ^ 40 + 0x1000))) (cTally 5 (2 ^ 40 + 0x1000)) = St.ok ∧
      placeOf (atApplication (meshed bound) (cTally 5 (2 ^ 40 + 0x1000))) (2 ^ 40 + 0x1000) = .chip 1 0x1000 ∧
      mayIssue (meshed bound) (3 * 4096) 1 3 true = true ∧ (meshed bound).fab.held = [] ∧ (bulkStage (meshed bound) 0).waiting = [] ∧
      haveChip (meshed bound) = true ∧ (outPort (meshed bound) 6 1).isSome = true) ∧
    (granted 0x0040 anyOp (fenced (meshed bound)) (cTally 5 (2 ^ 40 + 0x1000)) = true ∧
      mayIssue (fenced (meshed bound)) (3 * 4096) 1 3 true = false) ∧
    (granted 0x0040 anyOp bound (cTally 5 (host 0x1000)) = true ∧
      tallyStatus (atApplication bound (cTally 5 (host 0x1000))) (cTally 5 (host 0x1000)) = St.ok ∧
      placeOf (atApplication bound (cTally 5 (host 0x1000))) (host 0x1000) = .companion 0x1000 ∧
      extStatus bound (host 0x1000) 4096 true = St.ok ∧
      deferRoom bound (host 0x1000) (List.replicate 4096 0) = true ∧ holderOf bound (host 0x1000) 4096 = none) ∧
    (granted 0x0040 anyOp (tripped bound) (cTally 5 0) = true ∧
      tallyStatus (atApplication (tripped bound) (cTally 5 0)) (cTally 5 0) = St.ok ∧
      extStatus (atApplication (tripped bound) (cTally 5 0)) 0 4096 true = St.thermal) ∧
    (granted 0x0040 anyOp (fullUp bound) (cTally 5 0) = true ∧
      tallyStatus (atApplication (fullUp bound) (cTally 5 0)) (cTally 5 0) = St.ok ∧
      extStatus (atApplication (fullUp bound) (cTally 5 0)) 0 4096 true = St.ok ∧
      deferRoom (atApplication (fullUp bound) (cTally 5 0)) 0 (List.replicate 4096 0) = false) ∧
    (granted 0x0041 anyOp up cIdent = true ∧ cIdent.body = 0#1792) ∧
    (granted 0x0041 anyOp up cIdent1 = true ∧ cIdent1.body = 1#1792) ∧
    (granted 0x0042 anyOp up cAttest = true ∧ bodyAbove cAttest 256 = false) := by decide +kernel

def cProbe (op : Nat) (kind : Nat := 0) (index : Nat := 0) : Cmd := cmd 0x43 [(LProbe.OP, op), (LProbe.KIND, kind), (LProbe.INDEX, index)]
/-- A debug key's modulus (made for this test) and its signature of challenge 7 of this device. -/
def rsaN : Nat := 0xacf844948e8076bf8c936b6d2c9402e11d2711133bb03986cd4fb8a3c1bba8b474fea8e22c5da5ba6507237de9854f039390518346e3492468941b509bbd64b96bc34b76ef2c74e19f861d4447891da401a96c518010884747985f1695c96005c533bde4ab7e06d794598994aff1c3b21bdeb6b79a8ff5ba3e3b4caa404e6306d6c7c79b272de1fcf9c6aa83f91c420e358bd2c3b7c63057521121686112db5f6ac9d614c4e35009fdfb3ad9b2efdd00eaf276794d9cf25c0b6cb63091dbb51325a9bf05dc81e0698aa95e28369bb40772bdd4386946424a15212b9a9a891e49932ce2517cfdccd6939128a2956f23a44796aa10c927a9f6e927557c79f5049b687a0e50bf41c855ccadac26c7202aff628fa2f40e6f5a563b9e3d104b6cb2b5e2673ea1553d38c75cbaf0eaa6afc798ae7e43973090a595b552c30f7df68f80b9d9943eec935ad95dd38a46b6c64f29181d9e59baf57c9588d4a91b1525fdca776544b1ce4aded1e50b3da7f456779c7a50c46837aa64087d357971946c55af
def rsaSig : Nat := 0xd1a07b914bd543d0eef05c9d09671ea4d3d16758375114ba36bcd87b96cf7b7ccf6d5cbb54682846ce631513c942550506544a785d22566519f95d21fd1b006ee00061c413a6f8634f68c7924e32dbc65af7c887e3cf2fe7a03016fc49ae10be3e6fc56cd770ff2012326be32e236ae13d5ac1350f186d08746c1f5523ab17fae22caed6333a0723a56b27df63966b0921d7a2fa6e3bda5042bfc669ccec62000c35fe1ac3a3c32ffae629cd8b4a7158e08bd1037dc19c2d4a3effe65b432e3197d0123b5863ccbe72e27f7562ddcd6ab467707c3b2999c61024a85ae3c23257d7dc387c73077ec6f961c425bdd5354bfed05b246ec261f4bea5822c184c18af1e5e735991bdb7b75eb7ad511169d318050f6c2878bd5d593a2b9597cec15d7c0a37f311f39d8f3575b99fb79900ebf1b100d40dc051c1553709cbe31ffa349b18b9a552fe98fa43b3d4f9c006d34d23f7322788bc81e5030867c1e3230234f93fd526fa71d2eac599d11bc445ed4f3fef3ab61766bbe979fa75bf29687334a
def cUnlock : Cmd := cmd 0x43 [(LProbe.OP, 2)] (rsaN + 2 ^ 3072 * 65537 + 2 ^ 4096 * rsaSig)
/-- Challenge 7 is outstanding; the fuses hold the SHA-256 of the debug key's block. -/
def locked : State := { up with
  bank := { up.bank with challenge := some 7#256 },
  fuses := { up.fuses with debugKeyHash := 0xc7046eefaf740030ea406bc265079aefe166168637486cafb8ad5b01f8af996a#256 } }
def unlocked : State := { up with bank := { up.bank with debug := true } }

theorem witness_ProbeUnlocksOnlyByChallenge :
    (probeForm (cProbe 1) = true ∧ granted 0x0043 (bodyOp 1) up (cProbe 1) = true) ∧
    (probeForm cUnlock = true ∧ granted 0x0043 (bodyOp 2) locked cUnlock = true ∧
      unlockStatus (atApplication locked cUnlock) cUnlock = St.ok) ∧
    (probeForm (cProbe 3 2 6143) = true ∧ granted 0x0043 (bodyOp 3) unlocked (cProbe 3 2 6143) = true ∧
      unlocked.bank.debug = true ∧ 6143 < probeSources 2) ∧
    (probeForm (cProbe 4) = true ∧ granted 0x0043 (bodyOp 4) up (cProbe 4) = true) := by decide +kernel

/-! ## The mailbox service and the Avkin link -/

def linked (s : State) : State := s.updPort 6 (fun x => { x with trained := true })
/-- A command waits in mailbox 0; or is being prepared there; or is held there. -/
def waiting (c : Cmd) : State := present bound c
def preparing (c : Cmd) : State := let s := grantMb (present bound c) 0; { s with bank := { s.bank with prep := [0] } }
/-- A VARIANT_ADD is prepared while its binding's commit section runs. -/
def preparedLate : State :=
  let s := grantMb (present (inPhase variantTable 5) cVarAdd) 0
  { s with bank := { s.bank with prep := [0] } }
def holding (c : Cmd) : State := holdCmd (grantMb (present bound c) 0) 0

theorem witness_MailboxServiceGrantsInTurn :
    (running .power (linked up) = true ∧ avkinUp (linked up) = true ∧
      ctlStatus (linked up) 63 true (0x100000 + 8 * (4 * 63 + 3)) 8 = St.ok) ∧
    (running .banker (waiting cAssign) = true ∧ nextGrant (waiting cAssign) = some 0) ∧
    (nextGrant (waiting cMould) = some 0 ∧ isLong (cmdOf (waiting cMould) 0) = true) ∧
    (running .banker bound = true ∧ nextGrant bound = none) ∧
    (nextGrant (present (inPhase (held 2) 5) cCancel) = some 0 ∧ isLong cCancel = false ∧
      mustHold (present (inPhase (held 2) 5) cCancel) (cmdOf (present (inPhase (held 2) 5) cCancel) 0) = true) ∧
    (onCore preparedLate 0 = true ∧ heldReady preparedLate = false ∧
      mustHold preparedLate (cmdOf preparedLate 0) = true) ∧
    (running .banker (preparing cMould) = true ∧ onCore (preparing cMould) 0 = true ∧ heldReady (preparing cMould) = false) ∧
    (running .banker (holding cCancel) = true ∧ nextHeld (holding cCancel) = some 0 ∧
      (opOf (cmdOpcode (cmdOf (holding cCancel) 0))).isSome = true) := by decide +kernel

theorem witness_RegisterWritesReachTheirField :
    running .power (linked up) = true ∧ avkinUp (linked up) = true ∧
    ctlStatus (linked up) 0 true (0x120008 + 0x1000 * 15) 8 = St.ok ∧
    ctlStatus (linked up) 0 true 0x101020 8 = St.ok ∧ ctlStatus (linked up) 0 true 0x101028 8 = St.ok ∧
    ctlStatus (linked up) 0 true 0x100 64 = St.ok ∧ ctlStatus (linked up) 5 true 0x101020 8 ≠ St.ok := by decide +kernel

/-- An access of seat 0 to ingot 0, offset 0x1000, as the bank group holds it. -/
def avkinEnt (write : Bool) : ExtEnt := ⟨⟨2, 0, 0x1000, 8, write, if write then 5#512 else 0#512⟩, .avkin, 1⟩
def near : State := linked (meshed up)

theorem witness_AvkinAccessesReadAndWrite :
    (running .power near = true ∧ avkinUp near = true ∧ ctlAddr near 0xFF00100000 = some 0x100000) ∧
    (ctlAddr near 0x1000 = none ∧ memStatus near 5 false 0x1000 8 ≠ St.ok ∧ memStatus near 5 true 0x1000 8 ≠ St.ok) ∧
    (tierOf near 0x1000 ≠ 3 ∧ keyOf near 0x1000 = 0x1000 ∧ memStatus near 0 false 0x1000 8 = St.ok ∧
      servedNow near 0x1000 0 (avkinEnt false) = true ∧ extStatus near 0x1000 8 false = St.ok) ∧
    (servedNow (worn near 0x1000) 0x1000 0 (avkinEnt false) = true ∧ extStatus (worn near 0x1000) 0x1000 8 false = St.uncorr) ∧
    (memStatus near 0 true 0x1000 8 = St.ok ∧ servedNow near 0x1000 0 (avkinEnt true) = true ∧
      extStatus near 0x1000 8 true = St.ok ∧ noDefer near 0x1000 8 = true ∧ holderOf near 0x1000 8 = none) ∧
    (servedNow (tripped near) 0x1000 0 (avkinEnt true) = true ∧ extStatus (tripped near) 0x1000 8 true = St.thermal) ∧
    (servedNow (lockedUp near) 0x1000 0 (avkinEnt true) = true ∧ extStatus (lockedUp near) 0x1000 8 true = St.ok ∧
      allLocked (lockedUp near) 0x1000 (bytesOf 5 8) = true ∧ isT2 0x1000 = true) ∧
    (placeOf near (2 ^ 40 + 0x1000) = .chip 1 0x1000 ∧ memStatus near 0 false (2 ^ 40 + 0x1000) 8 = St.ok ∧
      memStatus near 0 true (2 ^ 40 + 0x1000) 8 = St.ok) ∧
    (placeOf (fenced near) (2 ^ 40 + 0x1000) = .chip 1 0x1000 ∧ memStatus (fenced near) 0 false (2 ^ 40 + 0x1000) 8 = St.ok ∧
      mayIssue (fenced near) avkinUnit 1 3 false = false) := by decide +kernel

/-! ## The fabric, links, lanes and time -/

/-- The meshed device, whose seat 0 answers other chips. -/
def open' : State := (meshed up).updSeat 0 (fun x => { x with cfg := LSeatCfg.FABRIC_OPEN.set x.cfg 1 })

/-- A packet for chip 0 from chip 1. -/
def pkt (type : Nat) (l : List (Fld × Nat)) (payload : Nat := 0) : Packet :=
  ⟨setAll 0#256 ([(LPkt.TYPE, type), (LPkt.SRC, 1)] ++ l), BitVec.ofNat 4096 payload⟩

def pLoad : Packet := pkt 1 [(LPkt.ADDR, 0xC060000000), (LPkt.SIZE, 3)]
def pLoadOdd : Packet := pkt 1 [(LPkt.ADDR, 0xC060000004), (LPkt.SIZE, 3)]
def pLoadShut : Packet := pkt 1 [(LPkt.ADDR, 0xC060000000), (LPkt.SIZE, 3), (LPkt.SEAT, 3)]
def pStore : Packet := pkt 2 [(LPkt.ADDR, 0xC060000000), (LPkt.SIZE, 2), (LPkt.DATA, 0x1122334455667788)]
def pStoreOdd : Packet := pkt 2 [(LPkt.ADDR, 0xC060000001), (LPkt.SIZE, 2)]
def pStoreShut : Packet := pkt 2 [(LPkt.ADDR, 0xC060000000), (LPkt.SEAT, 3)]
def pAtomic : Packet := pkt 3 [(LPkt.ADDR, 0xC060000000), (LPkt.AOP, 0), (LPkt.DATA, 5)]
def pAtomicOdd : Packet := pkt 3 [(LPkt.ADDR, 0xC060000004)]
def pAtomicShut : Packet := pkt 3 [(LPkt.ADDR, 0xC060000000), (LPkt.SEAT, 3)]

/-- The same for ingot 0. -/
def pLoad2 : Packet := pkt 1 [(LPkt.ADDR, 0x1000), (LPkt.SIZE, 3)]
def pStore2 : Packet := pkt 2 [(LPkt.ADDR, 0x1000), (LPkt.SIZE, 2), (LPkt.DATA, 0x1122334455667788)]
def pAtomic2 : Packet := pkt 3 [(LPkt.ADDR, 0x1000), (LPkt.DATA, 5)]

/-- A packet that its memory serves as it arrives at port 0. -/
def comes (s : State) (p : Packet) (write : Bool) : Bool :=
  running .link s && arrives s 0 p && !pktBad p && !flowWaits p none s && !misaligned (pktOff p) (pktSpan p) &&
  remoteStatus (received s 0) p write (pktOff p) (pktSpan p) == St.ok && servedNow (received s 0) (pktOff p) 1 (packetEnt p)

theorem witness_FabricLoadStoreAtomicPerform :
    (running .link open' = true ∧ [pLoad, pLoadOdd, pLoadShut, pStore, pStoreOdd, pStoreShut, pAtomic, pAtomicOdd, pAtomicShut].all
      (fun p => arrives open' 0 p && !pktBad p && !flowWaits p none open') = true) ∧
    (misaligned (pktOff pLoadOdd) 8 = true ∧ misaligned (pktOff pStoreOdd) 4 = true ∧ misaligned (pktOff pAtomicOdd) 8 = true) ∧
    (remoteStatus (received open' 0) pLoadShut false (pktOff pLoadShut) 8 = St.window ∧
      remoteStatus (received open' 0) pStoreShut true (pktOff pStoreShut) 1 = St.window ∧
      remoteStatus (received open' 0) pAtomicShut true (pktOff pAtomicShut) 8 = St.window) ∧
    (comes open' pLoad false = true ∧ extStatus open' (pktOff pLoad) 8 false = St.ok) ∧
    (comes (worn open' 0x1000) pLoad2 false = true ∧ extStatus (worn open' 0x1000) 0x1000 8 false = St.uncorr) ∧
    (comes open' pStore true = true ∧ isT2 (pktOff pStore) = false ∧ extStatus open' (pktOff pStore) 4 true = St.ok ∧
      holderOf open' (pktOff pStore) 4 = none) ∧
    (comes open' pStore2 true = true ∧ extStatus open' 0x1000 4 true = St.ok ∧ noDefer open' 0x1000 4 = true) ∧
    (comes (tripped open') pStore2 true = true ∧ extStatus (tripped open') 0x1000 4 true = St.thermal) ∧
    (comes (lockedUp open') pStore2 true = true ∧ extStatus (lockedUp open') 0x1000 4 true = St.ok ∧
      allLocked (lockedUp open') 0x1000 (pktStored pStore2) = true) ∧
    (comes open' pAtomic true = true ∧ extStatus open' (pktOff pAtomic) 8 false = St.ok ∧ holderOf open' (pktOff pAtomic) 8 = none) ∧
    (comes (worn open' 0x1000) pAtomic2 true = true ∧ extStatus (worn open' 0x1000) 0x1000 8 false = St.uncorr) := by
  decide +kernel

/-- Requests of units 5 to 8 to chip 1 that the fabric has not completed: two bulk gets, a load, and a posted store. -/
def asking : State := { open' with fab := { open'.fab with
  outstanding := [⟨5, 1, 3, 1, false, 0x8000, 64, 1, 0, 0, 0, none⟩, ⟨6, 1, 3, 2, false, 0x4000, 576, 1, 0, 0, 0, none⟩, ⟨7, 1, 3, 9, false, 0, 0, 1, 0, 0, 0, none⟩, ⟨8, 1, 3, 4, true, 0, 0, 1, 0, 0, 0, none⟩] } }
/-- Unit 9 has a request to issue. -/
def unissued : State := { asking with fab := { asking.fab with held := [⟨⟨9, 1, 3, 0, true, 0, 0, 1, 0, 0, 0, none⟩, ⟨0#256, 0#4096⟩, true⟩] } }
def pGet : Packet := pkt 4 [(LPkt.ADDR, 0xC060000000), (LPkt.BLEN, 9)]
def pGetOdd : Packet := pkt 4 [(LPkt.ADDR, 0xC060000020), (LPkt.BLEN, 9)]
def pGetShut : Packet := pkt 4 [(LPkt.ADDR, 0xC060000000), (LPkt.BLEN, 9), (LPkt.SEAT, 3)]
def pPut : Packet := pkt 5 [(LPkt.ADDR, 0xC060000040), (LPkt.BLEN, 8), (LPkt.PLEN, 8)] (2 ^ 4095 + 1)
def pPutMore : Packet := pkt 5 [(LPkt.ADDR, 0xC060000040), (LPkt.BLEN, 9), (LPkt.PLEN, 8)] (2 ^ 4095 + 1)
def pPutShut : Packet := pkt 5 [(LPkt.ADDR, 0xC060000040), (LPkt.BLEN, 8), (LPkt.PLEN, 8), (LPkt.SEAT, 3)]
def pAck : Packet := pkt 6 [(LPkt.UNIT, 8), (LPkt.CLASS, 3), (LPkt.SEQ, 5)]
def pAckIt : Packet := pkt 6 [(LPkt.UNIT, 8), (LPkt.CLASS, 3), (LPkt.SEQ, 4)]
def pRsp : Packet := pkt 7 [(LPkt.UNIT, 7), (LPkt.CLASS, 3), (LPkt.SEQ, 9), (LPkt.DATA, 77)]
def pRspNone : Packet := pkt 7 [(LPkt.UNIT, 7), (LPkt.CLASS, 3), (LPkt.SEQ, 8)]
def pRspBad : Packet := pkt 7 [(LPkt.UNIT, 7), (LPkt.CLASS, 3), (LPkt.SEQ, 9), (LPkt.STATUS, St.window)]
def pRspPart : Packet := pkt 7 [(LPkt.UNIT, 6), (LPkt.CLASS, 3), (LPkt.SEQ, 2), (LPkt.PLEN, 8)] (2 ^ 4095 + 1)
def pRspLast : Packet := pkt 7 [(LPkt.UNIT, 5), (LPkt.CLASS, 3), (LPkt.SEQ, 1), (LPkt.PLEN, 1)] 1

theorem witness_BulkMovesAcksAndResponses :
    (running .link asking = true ∧ [pGet, pGetOdd, pGetShut, pPut, pPutMore, pPutShut, pAck, pAckIt, pRsp, pRspNone, pRspBad, pRspPart, pRspLast].all
      (fun p => arrives asking 1 p && !pktBad p && !flowWaits p none asking) = true) ∧
    (pktOff pGetOdd % 64 ≠ 0 ∧ remoteStatus (received asking 1) pGetShut false (pktOff pGetShut) 576 = St.window ∧
      remoteStatus (received asking 1) pPutShut true (pktOff pPutShut) 512 = St.window) ∧
    (pktOff pGet % 64 = 0 ∧ remoteStatus (received asking 1) pGet false (pktOff pGet) 576 = St.ok ∧
      servedNow (received asking 1) (pktOff pGet) 2 (packetEnt pGet) = true ∧ extStatus asking (pktOff pGet) 576 false = St.ok) ∧
    ([pPut, pPutMore].all (fun p => pktOff p % 64 == 0 && remoteStatus (received asking 1) p true (pktOff p) 512 == St.ok &&
      servedNow (received asking 1) (pktOff p) 2 (packetEnt p) && extStatus asking (pktOff p) 512 true == St.ok &&
      !isT2 (pktOff p) && (holderOf asking (pktOff p) 512).isNone) = true) ∧
    (responseOf asking pRspNone = none ∧ responseOf asking pRsp = some ⟨7, 1, 3, 9, false, 0, 0, 1, 0, 0, 0, none⟩ ∧
      responseOf asking pRspBad = some ⟨7, 1, 3, 9, false, 0, 0, 1, 0, 0, 0, none⟩ ∧ responseWaits pRspBad (received asking 1) = none) ∧
    (responseOf asking pRspPart = some ⟨6, 1, 3, 2, false, 0x4000, 576, 1, 0, 0, 0, none⟩ ∧
      responseOf asking pRspLast = some ⟨5, 1, 3, 1, false, 0x8000, 64, 1, 0, 0, 0, none⟩ ∧
      responseWaits pRspPart (received asking 1) = none ∧ responseWaits pRspLast (received asking 1) = none ∧
      noDefer asking 0x8000 64 = true ∧ noDefer asking 0x4000 512 = true ∧ holderOf asking 0x4000 512 = none) ∧
    (running .banker asking = true ∧ asking.fab.fences.any (fun f => f.unit == 9) = false ∧
      asking.fab.outstanding.any (fun q => q.unit == 9) = false ∧ asking.fab.outstanding.any (fun q => q.unit == 8) = true ∧
      asking.fab.held = [] ∧ unissued.fab.held.any (fun h => h.req.unit == 9) = true ∧ running .banker unissued = true) := by
  decide +kernel

def pOn : Packet := pkt 2 [(LPkt.DEST, 4), (LPkt.VC, 1)]
def pOther : Packet := pkt 2 [(LPkt.DEST, 4), (LPkt.STAG, 9)]
def pBad : Packet := pkt 12 [(LPkt.DEST, 4)]
def pLong : Packet := pkt 1 [(LPkt.DEST, 4), (LPkt.PLEN, 9)]
/-- The device's Y ports have left MATCH. -/
def cutOff : State := setRoutes ((open'.updPort 2 (fun x => { x with state := 0#128 })).updPort 3 (fun x => { x with state := 0#128 }))

theorem witness_ForwardedPacketsKeepTheirWay :
    (running .link open' = true ∧ isMatch open' 0 = true ∧ LPkt.DEST.get pOn.hdr ≠ ownChip open') ∧
    (pktBad pLong = true ∧ LPkt.DEST.get pLong.hdr ≠ ownChip open') ∧
    (pktBad pBad = true ∧ LPkt.DEST.get pBad.hdr ≠ ownChip open') ∧
    (pktBad pOther = false ∧ LPkt.STAG.get pOther.hdr ≠ ownTag open') ∧
    (pktBad pOn = false ∧ LPkt.STAG.get pOn.hdr = ownTag open' ∧ outPort (received open' 0) 0 4 = some 2) ∧
    (running .link cutOff = true ∧ isMatch cutOff 0 = true ∧ LPkt.STAG.get pOn.hdr = ownTag cutOff ∧
      outPort (received cutOff 0) 0 4 = none) := by decide +kernel

/-- Torus port 2 failed a training that is due again; port 4 had seven tries of packet 0. -/
def failing : State := (open'.updPort 2 (fun x => { x with trained := false, health := LLinkHl.TRAINING.set x.health 1 })).updPort 4
  (fun x => { x with trained := true, tries := 7 })

theorem witness_LinksTrainAndFail :
    (running .link failing = true ∧ (failing.port 6).trained = false) ∧
    ((failing.port 0).trained = true ∧ (false && 0 % 4096 == (failing.port 0).expect) = false) ∧
    ((failing.port 4).trained = true ∧ (true && 3 % 4096 == (failing.port 4).expect) = false ∧ (failing.port 4).tries + 1 ≥ 8) ∧
    (LLinkHl.TRAINING.on (failing.port 2).health = true ∧ (failing.port 2).attempt ≤ now failing) := by decide +kernel

/-- Channel 5 of ingot 15 is derated, its spare at lane 32 of a walk up; channel 6 retrains its spare; ports 3 and 6 are derated, at
their first and their last lane. -/
def derated : State :=
  let s := (open'.updIngot 15 (fun x => { x with
    lanes := [(5, setAll laneReset [(LLaneSt.SPARE, 32), (LLaneSt.DERATED, 1)])], retrain := [(6, (33, 1))], tries := [(7, 7)] })).updPort 3
      (fun x => { x with health := LLinkHl.DERATED.set x.health 1 })
  { (s.updPort 6 (fun x => { x with trained := true, health := setAll x.health [(LLinkHl.DERATED, 1), (LLinkHl.NEXT, 15)] })) with
    clk := { s.clk with time := 200000000#64 } }

set_option maxRecDepth 100000 in
theorem witness_LanesAreReplacedOneByOne :
    (running .refresh derated = true ∧ crc16 1#512 ≠ 0#16) ∧
    (Tab.get (derated.ingot 15).tries 0 7 = 7 ∧ Tab.get (derated.ingot 15).tries 0 8 = 0) ∧
    (Tab.get (derated.ingot 15).retrain (64, 0) 6 = (33, 1)) ∧
    (handoverOk 15 5 derated = true) ∧
    (running .link derated = true ∧ LLinkHl.DERATED.on (derated.port 3).health = true ∧ (derated.port 3).trained = true ∧ quiet derated = true ∧
      LLinkHl.NEXT.get (derated.port 3).health + 1 < linkLanes derated 3 ∧ (derated.port 3).laneSince + 100000000 ≤ now derated) ∧
    (LLinkHl.DERATED.on (derated.port 6).health = true ∧ (derated.port 6).trained = true ∧
      LLinkHl.NEXT.get (derated.port 6).health + 1 ≥ linkLanes derated 6) := by decide +kernel

/-- Chip 0 takes its time from chip 1, for the first time or once more. -/
def timed (again : Bool) (good : Nat) : State := { open' with clk := { open'.clk with
  cfg := LTimeCfg.ROOT.set open'.clk.cfg 1, synced := again, good := good } }

theorem witness_TimeExchangesCorrectTheClock :
    (running .link (timed true 2) = true ∧ timeParent (timed true 2) = some 0 ∧ -16 ≤ syncOffset 10 12 20 18 ∧
      syncOffset 10 12 20 18 ≤ 16 ∧ 2 ≤ (timed true 2).clk.good ∧ (timed true 2).clk.synced = true) ∧
    (timeParent (timed false 0) = some 0 ∧ (timed false 0).clk.synced = false ∧ (loadedBinds (timed false 0)).isEmpty = true ∧
      400 < syncOffset 10 400 402 12) := by decide +kernel

/-! ## Ingots -/

/-- The device at a root tick, with a codeword that the decoder can correct at byte 0 of bank group 16 and of a base die's holding memory. -/
def ticked (n : Nat) : State := { open' with
  clk := { open'.clk with ticks := n },
  wordErr := [(pageKey 0 16 / 8, WordErr.corr), (0xC060000000 / 8, WordErr.corr)] }

/-- That memory's port is held for a million cycles more. -/
def heldPort : State := (ticked 5398528).updHmPort (hmDie 0xC060000000) (fun x => { x with freeAt := 10000000 })

theorem witness_RefreshAndScrubMoveOn : running .refresh (ticked 5398528) = true ∧ bgOk 0 16 = true ∧
    refreshDue (ticked 5398528) 0 16 = true ∧ corrWords (ticked 5398528) (pageKey 0 16) 256 = [pageKey 0 16] ∧
    0xC060000000 % 256 = 0 ∧
    (((ticked 5398528).hmPort (hmDie 0xC060000000)).waits = [] ∧
      ((ticked 5398528).hmPort (hmDie 0xC060000000)).freeAt ≤ hcNow (ticked 5398528) ∧
      corrWords (ticked 5398528) 0xC060000000 256 = [0xC060000000]) ∧
    (running .refresh heldPort = true ∧ hcNow heldPort < (heldPort.hmPort (hmDie 0xC060000000)).freeAt) := by decide +kernel

theorem witness_GovernorSetsDutyAndMode : running .refresh (ticked 5398528) = true ∧ pcNow (ticked 5398528) % 1024 = 0 ∧
    pcNow (ticked 5398528) % 256 = 0 ∧ [some 60].getD 11 none = (none : Option Int) := by decide +kernel

def rExt (w : Bool) : ExtReq := ⟨0, 0, 16384 * 5, 8, w, 0x1122334455667788#512⟩
/-- Page 5 of ingot 0: locked or not, with the ready write of a lock gone by. -/
def paged (lock : Bool) : State := (ticked 5398528).updIngot 0 (fun x => { x with
  locks := if lock then [(5, [⟨0, 1, 7⟩])] else [],
  defer := if lock then List.replicate 512 ⟨5, 0, [1#8], false⟩ else [⟨5, 32, [7#8, 8#8], true⟩] })
def aged : State := { paged true with clk := { open'.clk with ticks := 540000056 } }
def eExt (w : Bool) : ExtEnt := ⟨rExt w, .interface, 1⟩
/-- Page 5 of ingot 0 locked, its buffer empty. -/
def locked5 : State := (ticked 5398528).updIngot 0 (fun x => { x with locks := [(5, [⟨0, 1, 7⟩])] })

theorem witness_ExternalAccessesReachTheBank :
    (running .ingot (ticked 5398528) = true ∧ bgOk 0 5 = true ∧ extOk 5 { rExt true with off := 16384 * 5 + 4 } = true ∧
      misaligned (16384 * 5 + 4) 8 = true) ∧
    (extOk 5 (rExt true) = true ∧ extOk 5 (rExt false) = true ∧ misaligned (16384 * 5) 8 = false ∧
      govMode (tripped (ticked 5398528)) 0 = 3 ∧ govMode (ticked 5398528) 0 ≠ 3) ∧
    ([true, false].all (fun w => bankServes (ticked 5398528) 0 5 (eExt w) &&
      extStatus (ticked 5398528) (16384 * 5) 8 w == St.ok) = true ∧ noDefer (ticked 5398528) (16384 * 5) 8 = true ∧
      holderOf (ticked 5398528) (16384 * 5) 8 = none) ∧
    (bankServes (worn (ticked 5398528) (16384 * 5)) 0 5 (eExt false) = true ∧
      extStatus (worn (ticked 5398528) (16384 * 5)) (16384 * 5) 8 false = St.uncorr) ∧
    (bankServes locked5 0 5 (eExt true) = true ∧ extStatus locked5 (16384 * 5) 8 true = St.ok ∧
      allLocked locked5 (16384 * 5) (extBytes (rExt true)) = true) ∧
    (govMode (paged true) 0 ≠ 3 ∧ bankIdle (paged true) 0 5 = true ∧ chanLost (paged true) 0 5 = false ∧
      heldByBuffer (paged true) 0 (eExt true) = true) ∧
    (running .ingot (paged false) = true ∧ bankBusy (paged false) 0 (pageBg 5) = false ∧
      ((paged false).ingot 0).defer.find? (fun d => d.page == 5 && d.ready) = some ⟨5, 32, [7#8, 8#8], true⟩ ∧
      overLimit (paged false) 0 5 4 = false ∧ partialUncorr (paged false) (pageKey 0 5 + 32) 2 = false ∧
      holderOf (paged false) (pageKey 0 5 + 32) 2 = none) ∧
    (running .refresh aged = true ∧ pcNow aged = 7 + lockLife) := by decide +kernel

/-! ## Dispatch -/

/-- A descriptor of page 5 of ingot 0, one query row of one head of 32 elements, from this device's cluster 1. -/
def desc : BitVec 256 := setAll 0#256 [(LDesc.PAGE, 5), (LDesc.NQ, 1), (LDesc.VALID, 8), (LDesc.DIMQ, 1), (LDesc.CLUSTER, 1), (LDesc.QID, 6), (LDesc.WRITE, 1)]
def disp (type : Nat) (l : List (Fld × Nat)) : BitVec 128 := setAll 0#128 ([(LDisp.TYPE, type), (LDisp.CLUSTER, 1)] ++ l)
def dQuery : BitVec 128 := disp 3 [(LDisp.TAG, 6), (LDisp.COUNT, 32)]
def dClose : BitVec 128 := disp 4 [(LDisp.TAG, 9), (LDisp.COUNT, 1)]
/-- Program slot 0 holds four words at the start of the pips' memory; cluster 1 holds a lock on page 5 and has a group. -/
def ingoted : State :=
  let s := (ticked 5398528).updIngot 0 (fun x => { x with locks := [(5, [⟨0, 1, 7⟩])], groups := [⟨0, 1, 9, [], none, 0⟩] })
  { s with pipSlots := [(0, ⟨0, 4, 0#256, true, 1, [0]⟩)] }

/-- The same packets of chip 1, over port 0 (R328). -/
def farHdr : BitVec 256 := setAll 0#256 [(LPkt.TYPE, 8), (LPkt.CLASS, 2), (LPkt.SRC, 1)]
def farDesc : BitVec 256 := LDesc.ISSUER.set desc 1
def far (h : BitVec 128) : BitVec 128 := LDisp.ISSUER.set h 1
def ingotedNet : State := { ingoted with fab := open'.fab, seats := open'.seats }

theorem witness_DispatchPacketsOfOtherChips :
    dispArrives ingotedNet 0 (some (0, farHdr)) = true ∧ descBad ingotedNet 0 farDesc = false ∧
    canLock (ingotedNet.ingot 0) (LDesc.PAGE.get farDesc) (LDesc.ISSUER.get farDesc) (LDesc.CLUSTER.get farDesc) = true ∧
    [disp 1 [], disp 2 [], dQuery, dClose, disp 5 []].all (fun h => dispChip (far h) == 1 && LDisp.INGOT.get (far h) == 0 &&
      dispRemote ingotedNet 0 ⟨some farHdr, far h, farDesc, none, []⟩) = true ∧
    freeEnt (ingotedNet.ingot 0) = some 192 ∧ (qEnt (ingotedNet.ingot 0) 192).waiting = 0 := by decide +kernel

theorem witness_DispatchPacketsAreTakenIn :
    running .arith ingoted = true ∧ (ingoted.ingot 0).intake = [] ∧ (ingoted.pip (pagePip 0 (LDesc.PAGE.get desc))).queue.length < 8 ∧
    (descBad ingoted 0 desc = false ∧ (ingoted.ingot 0).slotsUsed + dNq desc ≤ 6144 ∧
      canLock (ingoted.ingot 0) (LDesc.PAGE.get desc) (LDesc.ISSUER.get desc) (LDesc.CLUSTER.get desc) = true) ∧
    [disp 1 [], disp 2 [], dQuery, dClose, disp 5 []].all (fun h => dispChip h == ownChip ingoted && LDisp.INGOT.get h == 0) = true ∧
    dispOk (disp 1 []) 0 = true ∧ dispOk (disp 2 []) 0 = true ∧ dispOk dQuery (List.replicate 32 1#32).length = true ∧
    (qEnt (ingoted.ingot 0) (LDisp.TAG.get dQuery % 256)).waiting = 0 ∧ dispOk dClose 0 = true ∧ dispOk (disp 5 []) 0 = true := by decide +kernel

/-! ## Pips -/

def onPip5 (s : State) (f : Pip → Pip) : State := s.setPip 5 (f (s.pip 5))
def pDesc : PDesc := ⟨desc, none, 6, false⟩
/-- Pip 5 with a queued descriptor, idle; and streaming the second of three beats, with its duty or with none. -/
def idlePip : State := onPip5 ingoted (fun x => { x with queue := [pDesc, pDesc] })
def streaming (duty : Nat) : State := (onPip5 ingoted (fun x => { x with running := true, cur := pDesc, streams := [⟨64, 3, 2, 1⟩] })).updIngot 0
  (fun x => { x with gov := LGovSt.DUTY.set x.gov duty })

/-- The bank group is held. -/
def heldGroup : State := updBankGroup (streaming 9) 0 5 (fun x => { x with freeAt := 10000000 })

theorem witness_DescriptorsStartAndStream :
    (running .arith idlePip = true ∧ (idlePip.pip 5).running = false ∧ (idlePip.pip 5).queue = [pDesc, pDesc] ∧
      (idlePip.ingot 0).intake = []) ∧
    (pipPresents heldGroup 5 = true ∧ nextStream (heldGroup.pip 5) = some ⟨64, 3, 2, 1⟩ ∧ bankBusy heldGroup 0 5 = true) ∧
    (running .arith (streaming 9) = true ∧ pipPresents (streaming 9) 5 = true ∧ nextStream ((streaming 9).pip 5) = some ⟨64, 3, 2, 1⟩ ∧
      bankIdle (streaming 9) 0 5 = true ∧ dutyUsed (streaming 9) (bankGroup (streaming 9) 0 5) < 9 ∧
      LGovSt.DUTY.get ((streaming 9).ingot 0).gov = 9 ∧ uncorrAt (streaming 9) (pageKey 0 5 + 64 + 32 * 2 * 1) 32 = false) ∧
    (pipPresents (streaming 0) 5 = true ∧ nextStream ((streaming 0).pip 5) = some ⟨64, 3, 2, 1⟩ ∧ bankIdle (streaming 0) 0 5 = true ∧
      LGovSt.DUTY.get ((streaming 0).ingot 0).gov = 0) := by decide +kernel

/-- A pip word, by its fields or with an immediate. -/
def pw (op a b c x : Nat) : W32 := setAll 0#32 [(LPipWord.OP, op), (LPipWord.A, a), (LPipWord.B, b), (LPipWord.C, c), (LPipWord.X, x)]
def pwi (op a b imm : Nat) : W32 := setAll 0#32 [(LPipWord.OP, op), (LPipWord.A, a), (LPipWord.B, b), (LPipWord.IMM, imm)]

/-- Pip 5 runs a word: g1 is 3, g2 is 7, g3 is 1.5, g4 is 0x1520, g5 is 0, g6 is 2, g7 is 64, v1 is 32 lanes of 2.0, one beat is at hand. -/
def onPip (w : W32) : State :=
  { onPip5 ingoted (fun x => { x with
      running := true, cur := pDesc, budget := 100, fifo := [List.replicate 32 0x38#8],
      g := [(1, 3#32), (2, 7#32), (3, 0x3FC00000#32), (4, 0x1520#32), (6, 2#32), (7, 64#32)],
      v := (List.range 32).map (fun i => (32 + i, 0x40000000#32)) }) with
    imem := [(0, w)] }

def intWords : List (Nat × W32) := [4, 5, 6, 7, 8, 9, 10, 11].map (fun op => (op, pw op 1 2 1 0)) ++
  [(12, pwi 12 1 2 0x3FFFF), (13, pwi 13 1 2 5), (14, pwi 14 1 2 31), (15, pwi 15 1 2 31), (16, pwi 16 1 0 0x3FFFF)]

theorem witness_PipIntegerInstructions : intWords.all (fun e => pipReady e.1 (onPip e.2) 5) = true := by decide +kernel

def floatWords : List (Nat × W32) := [0x13, 0x14, 0x15, 0x16].map (fun op => (op, pw op 1 3 3 0)) ++ [(0x17, pw 0x17 1 3 0 0), (0x26, pw 0x26 7 0 0 0)] ++
  [0x27, 0x28, 0x29, 0x2A].map (fun op => (op, pw op 0 1 1 0)) ++ [0x2B, 0x2C, 0x30].map (fun op => (op, pw op 0 1 3 0)) ++
  [(0x2D, pw 0x2D 0 1 0 0), (0x2E, pw 0x2E 1 1 0 0)]

theorem witness_PipFloatAndVectorInstructions : floatWords.all (fun e => pipReady e.1 (onPip e.2) 5) = true := by decide +kernel

/-- Pip 6 runs the same word on the same vector. -/
def twoPips (w : W32) : State := (onPip w).setPip 6 ((onPip w).pip 5)

theorem witness_VrsumAddsInFiveLevels : pipReady 0x2F (twoPips (pw 0x2F 1 1 0 0)) 5 = true ∧ pipReady 0x2F (twoPips (pw 0x2F 1 1 0 0)) 6 = true ∧
    vReg ((twoPips (pw 0x2F 1 1 0 0)).pip 6) 1 = vReg ((twoPips (pw 0x2F 1 1 0 0)).pip 5) 1 := by decide +kernel

/-- LDW, STW, VLD, VST, RSTR, STB, where they act and where R88 to R92 refuse them. -/
def memWords : List (Nat × W32) := [(0x11, pwi 0x11 1 4 0x2C), (0x11, pwi 0x11 1 4 3), (0x12, pwi 0x12 1 4 0), (0x12, pwi 0x12 1 5 0),
  (0x31, pw 0x31 0 4 0 0x60), (0x31, pw 0x31 0 4 0 4), (0x32, pw 0x32 1 4 0 0x60), (0x32, pw 0x32 1 5 0 0),
  (0x20, pw 0x20 7 6 0 512), (0x20, pw 0x20 1 6 0 1), (0x21, pw 0x21 7 4 0 0), (0x21, pw 0x21 3 4 0 0)]

theorem witness_PipMemoryAndStreams : memWords.all (fun e => pipReady e.1 (onPip e.2) 5) = true ∧
    dmOk (addrImm ((onPip 0#32).pip 5) (pwi 0x11 1 4 3)) 4 = false ∧ dmStoreOk (addrImm ((onPip 0#32).pip 5) (pwi 0x12 1 5 0)) 4 = false ∧
    ((onPip (pw 0x20 7 6 0 512)).pip 5).streams.length < 2 ∧ stbOk (onPip 0#32) ((onPip 0#32).pip 5) (pw 0x21 7 4 0 0) = true ∧
    stbOk (onPip 0#32) ((onPip 0#32).pip 5) (pw 0x21 3 4 0 0) = false ∧
    deferRoom (onPip 0#32) (stbKey ((onPip 0#32).pip 5) 5 (pw 0x21 7 4 0 0)) (stbBytes ((onPip 0#32).pip 5) (pw 0x21 7 4 0 0)) = true := by decide +kernel

def flowWords : List (Nat × W32) := [(0x01, pw 0x01 0 0 0 0), (0x18, pw 0x18 1 1 0 0x3FFF), (0x18, pw 0x18 1 2 0 3), (0x19, pw 0x19 1 2 0 5), (0x1A, pw 0x1A 1 2 0 5),
  (0x1B, pw 0x1B 1 2 0 5), (0x1C, pw 0x1C 1 0 0 4), (0x1C, pw 0x1C 5 0 0 4), (0x1C, pw 0x1C 0 0 0 (2 * 256 + 255))]

theorem witness_PipControlFlow : flowWords.all (fun e => pipReady e.1 (onPip e.2) 5) = true := by decide +kernel

/-- Pip 5 has emitted its one row. -/
def emitted : State := onPip5 (onPip (pw 2 0 0 0 0)) (fun x => { x with emitted := 1#16 })

/-- Pip 5 runs with no budget left. -/
def spentPip : State := onPip5 (onPip 0#32) (fun x => { x with budget := 0 })

theorem witness_PipBeatsAndRecords :
    (pipReady 0x24 (onPip (pw 0x24 0 4 0 1)) 5 = true ∧ ((onPip (pw 0x24 0 4 0 1)).pip 5).fifo ≠ [] ∧
      dmOk ((gReg ((onPip (pw 0x24 0 4 0 1)).pip 5) 4).toNat + 128 * (1 / 1024 % 16)) 4 = true) ∧
    pipReady 0x25 (onPip (pw 0x25 0 0 0 3)) 5 = true ∧
    (pipReady 0x38 (onPip (pw 0x38 3 3 5 1)) 5 = true ∧ emitOk ((onPip (pw 0x38 3 3 5 1)).pip 5) (pw 0x38 3 3 5 1) = true) ∧
    (pipReady 0x02 emitted 5 = true ∧ emittedCount (emitted.pip 5) = dNq (emitted.pip 5).cur.desc) ∧
    (running .arith spentPip = true ∧ (spentPip.pip 5).running = true ∧ (spentPip.pip 5).budget = 0) := by decide +kernel

/-! ## A turn in Layers -/

/-- Binding 0 holds the execution slot, its turn in Layers on the pip path; slow: many seconds later. -/
def layers (s : State) : State :=
  let s := s.updBind 0 (fun x => { x with blk := setAll x.blk [(LTurnBlk.PHASE, 3), (LTurnBlk.PATH, 1)] })
  { s with slot := { s.slot with holder := some 0 } }
def later (s : State) : State := { s with clk := { s.clk with time := 0x10000000000#64 } }

/-- A record of a pip for cluster 3 of this device waits to be taken. -/
def aRec (kind status : Nat) : Rec := ⟨setAll 0#256 [(LRec.KIND, kind), (LRec.TAG, 9), (LRec.STATUS, status)], [1#32]⟩
def recorded (kind : Nat) (status : Nat := 0) : State := (layers bound).updIngot 0 (fun x => { x with
  slotsUsed := 1, recs := [(0, 0, 3, aRec kind status)] })
/-- One entry: slot 5, one query token after 16 positions. -/
def tEnt0 : TEnt := ⟨setAll 0#128 [(LLenEnt.SLOT, 5), (LLenEnt.QTOK, 1), (LLenEnt.KVLEN, 16), (LLenEnt.PTBASE, host 0x1000)], 0#512, [], [1],
  [], [], [], 0, false, 0#512, 0, []⟩
/-- Cluster 3 awaits row 0, head 0 of a group of ingot 2. -/
def aAwait : Await := ⟨0, 0, 3, 0, 2, 9, 0, [(0, 0), (1, 0)], 0, 50000000⟩
def awaiting : State := later (((layers bound).updBind 0 (fun x => { x with turn := [tEnt0] })).setCluster 3
  { (layers bound).cluster 3 with awaits := [aAwait] })
def merged (status : Nat) : BitVec 256 := setAll 0#256 [(LMrg.MERGED, 1), (LMrg.INGOT, 2), (LRec.TAG, 9), (LRec.STATUS, status)]
def failedProduct : BitVec 256 := setAll 0#256 [(LRec.KIND, 1), (LRec.STATUS, St.uncorr)]
/-- Cluster 3's open group 9 at ingot 0 holds one descriptor of row 0, head 0. -/
def aGroup : MGroup := ⟨0, 3, 9, [⟨0, 0, 0, 1, 0, [], [], 0, false⟩], none, 0⟩
def grouped (status : Nat) : State := (recorded 0 status).updIngot 0 (fun x => { x with groups := [aGroup] })

theorem witness_RecordsReachTheMergeTree :
    (running .arith (recorded 1) = true ∧ grant (fun p => ((recorded 1).ingot 0).recs.any (fun x => x.1 == p)) ((recorded 1).ingot 0).mergePtr 384 = some (0, 1) ∧ ((recorded 1).ingot 0).recs = [(0, 0, 3, aRec 1 0)] ∧ LRec.KIND.on (aRec 1 0).hdr = true ∧
      LRec.STATUS.get (aRec 1 0).hdr = 0 ∧ ((recorded 1).ingot 0).intake = []) ∧
    (((recorded 1 St.uncorr).ingot 0).recs = [(0, 0, 3, aRec 1 St.uncorr)] ∧ LRec.STATUS.get (aRec 1 St.uncorr).hdr = St.uncorr ∧
      ownChip (recorded 1 St.uncorr) = 0 ∧ layerHolder (recorded 1 St.uncorr) = some 0) ∧
    ([0, St.uncorr].all (fun st => ((grouped st).ingot 0).groups.find? (fun g => groupOf 0 3 9 g && g.descs.any (fun d =>
      isDesc 0 0 0 d && d.status == 0 && (st != 0 || (descRec d 0).isNone))) == some aGroup) = true ∧ aGroup.close = none) ∧
    (((recorded 0).ingot 0).recs = [(0, 0, 3, aRec 0 0)] ∧ LRec.KIND.on (aRec 0 0).hdr = false ∧ ((recorded 0).ingot 0).groups = []) ∧
    (running .arith awaiting = true ∧ layerHolder awaiting = some 0 ∧ turnEnt awaiting 0 0 = some tEnt0 ∧ tEnt0.fault = 0 ∧
      [0, 5].all (fun st => LMrg.MERGED.on (merged st) && !LRec.KIND.on (merged st) &&
        (awaiting.cluster 3).awaits.find? (fun a => a.chip == LMrg.CHIP.get (merged st) && a.ingot == LMrg.INGOT.get (merged st) &&
          a.tag == LRec.TAG.get (merged st) && a.rows.contains (LRec.QROW.get (merged st), LRec.HEAD.get (merged st))) == some aAwait) = true) ∧
    (LMrg.MERGED.on failedProduct = false ∧ LRec.KIND.on failedProduct = true ∧ LRec.STATUS.get failedProduct ≠ 0) ∧
    (awaiting.cluster 3).awaits.find? (fun a => a.ingot == 2 && a.tag == 9 && decide (a.closed + a.limit ≤ now awaiting)) =
      some aAwait := by decide +kernel

/-- One entry: slot 5, one query token after 16 positions; its third column is in the riser, in the set at slot 7. -/
def tEnt : TEnt := { tEnt0 with sets := [(2, 7)] }
def walkRec : BitVec 1024 := BitVec.ofNat 1024 (2 ^ 512 * 6 + 2 ^ 32 * 0x1800000 + 2 ^ 64 * 0x1900000)
def weightRec : BitVec 1024 := BitVec.ofNat 1024 (2 ^ 512 * 5 + 2 ^ 515 * 3 + 2 ^ 531 * 2 + 2 ^ 256 * 2 +
  (setAll 0#256 [(LDesc.KIND, 1), (LDesc.FMT, 2), (LDesc.PAGE, 7), (LDesc.NQ, 1), (LDesc.COLS, 4), (LDesc.ROWB, 1)]).toNat)
/-- A layer program of a weight product of cluster 3 and a walk of cluster 0; column 0 lies in page 0 of ingot 0, column 1 in the
host's memory; the layer's keys and values are written. -/
def attn : State :=
  let s := (layers (held 3)).updBind 0 (fun x => { x with
    brec := LBindRec.LPLEN.set rec1 2, turn := [tEnt], images := [0, 1],
    wrote := [(0, 1, false, 1), (0, 1, true, 1)] })
  let s := rawWrite s (host 0x10000) (bytesOf weightRec.toNat 128 ++ bytesOf walkRec.toNat 128)
  rawWrite s (host 0x1040) (bytesOf (2 ^ 43) 8 ++ bytesOf (2 ^ 43 + host 0x80000 / 16384) 8)
/-- Cluster 0 awaits a triple in its first half; or has walked the pair, and its partials have come. -/
def halfFull : State := attn.setCluster 0 { attn.cluster 0 with awaits := [{ aAwait with entry := 1 }] }
def sentAll : State := attn.setCluster 0 { attn.cluster 0 with walks := [⟨0, 0, 0, 1⟩] }
def walked (s : State) : State := s.setCluster 0 { s.cluster 0 with walks := [⟨0, 0, 0, 1⟩], inbox :=
  [⟨0, 0, 0, 0, 0, 2, false, 0x3F800000#32, 0x40000000#32, List.replicate 32 0x40400000#32, 3⟩,
   ⟨0, 0, 0, 0, 0, 1, true, 0xFF800000#32, 0#32, List.replicate 32 0#32, 3⟩] }
/-- Column 0 is still being flushed. -/
def inFlush : State := attn.updBind 0 (fun x => { x with
  flushes := [⟨5, 0, .set 7, .run (ptAddr (colEntry attn tEnt 0)), 16, [], [], false, 0⟩] })
/-- The seat may not write cluster memory. -/
def barred (s : State) : State := s.updSeat 0 (fun x => { x with win := [] })
/-- A batch of column 0. -/
def unit0 : AUnit := ⟨0, 0, 1, [⟨0, 0, 0, 0, none⟩]⟩

theorem witness_AttentionWalksAndOutputs :
    ([attn, halfFull, sentAll, walked attn].all (fun s => running .arith s && pairOf s 0 0 0 0 == some (0, tEnt, walkRec) &&
      !pairFlushing s 0 tEnt 0 && earlierSent s 0 0 0 0 0 walkRec && clusterReached s 0 0 (walkNumber s 0 0 0)) = true ∧ walkLane walkRec 0 = 0) ∧
    (pairOf inFlush 0 0 0 0 = some (0, tEnt, walkRec) ∧ pairFlushing inFlush 0 tEnt 0 = true ∧
      earlierSent inFlush 0 0 0 0 0 walkRec = true ∧ clusterReached inFlush 0 0 (walkNumber inFlush 0 0 0) = true) ∧
    (batchesOf (attn.bind 0).brec (pairUnits attn 0 tEnt 0 0) = [[unit0]] ∧ nextBatch (sentAll.cluster 0) 0 0 0 = some 1) ∧
    (halfBusy (halfFull.cluster 0) 0 = true ∧ halfBusy (attn.cluster 0) 0 = false ∧
      cutBefore (batchesOf (attn.bind 0).brec (pairUnits attn 0 tEnt 0 0)) 0 = none ∧
      rangesStatus attn 0 false 4 (queryRanges attn 0 walkRec 0 [unit0]) = St.ok ∧
      badRange attn (queryRanges attn 0 walkRec 0 [unit0]) = none ∧ colReadable attn 0 tEnt 0 0 0 = true) ∧
    (rowHead (attn.bind 0).brec tEnt 0 0 0 = true ∧ (attn.cluster 0).heads = [] ∧
      rangesStatus attn 0 false 4 [(queryKey (attn.bind 0).brec walkRec 0 0 0, 128)] = St.ok ∧
      partDone (attn.cluster 0) 0 0 0 0 0 1 = false ∧ clusterCol attn 0 tEnt 0 0 1 = true ∧
      uncorrAt attn (laneKey attn 0 (ptAddr (colEntry attn tEnt 1)) 0) 16384 = false) ∧
    (partDone (attn.cluster 0) 0 0 0 0 0 (fullCols attn 0 tEnt) = false ∧ riserHeld attn 0 tEnt 0 = false ∧
      riserSets attn 0 tEnt = [(2, 7)] ∧ riserReadable attn 0 tEnt 0 = true ∧
      (riserEntries attn 0 tEnt 0 0).all (fun k => !uncorrAt attn k.1 16384) = true) ∧
    (headReady (walked attn) 0 0 0 0 0 0 0 tEnt walkRec = true ∧
      partialUncorr (walked attn) (outputKey (attn.bind 0).brec walkRec 0 0 0) 128 = false ∧
      rangesStatus (walked attn) 0 true 4 [(outputKey (attn.bind 0).brec walkRec 0 0 0, 128)] = St.ok) ∧
    (layerHolder attn = some 0 ∧ productNext attn 0 3 0 (lpRecord attn (attn.bind 0).brec 0) = true ∧
      (List.range 2).all (fun k => weightStatus attn (weightDesc attn 0 3 weightRec k) == St.ok) = true) := by
  decide +kernel

/-! ## The matrix engines -/

/-- One block of 16 rows by 16 columns, one step, into slot 0 and sprue entry 0, with a mould. -/
def mma (init : Nat) (mould : Nat := 1) (sprue : Nat := 1) : BitVec 256 := setAll 0#256 [(LMx.OP, 1), (LMx.INIT, init), (LMx.SPRUE, sprue),
  (LMx.FIN, 1), (LMx.KS, 1), (LMx.ASTRIDE, 1), (LMx.BBASE, 256), (LMx.BRING, 1), (LMx.MOULD, mould)]
/-- A mould of stages: a RELU; and a WRITE of FP32 rows at 0x8000 of the scratchpad. -/
def mouldOf (n : Nat) (stages : List (BitVec 128)) : BitVec 1152 :=
  BitVec.ofNat 1152 ((setAll 0#1152 [(LMouldHd.NUMBER, n), (LMouldHd.NSTAGE, stages.length)]).toNat +
    (stages.foldr (fun x a => x.toNat + 2 ^ 128 * a) 0) * 2 ^ 128)
def reluStage : BitVec 128 := setAll 0#128 [(LStg.KIND, 0x0A), (LStg.SUB, 2)]
def writeStage : BitVec 128 := setAll 0#128 [(LStg.KIND, 0x19), (LStg.BASE, 512), (LStg.PITCH, 1)]
/-- The turn on the matrix path, with those moulds; core 0 with a filled tile, in a state of its own. -/
def matrixPath (s : State) : State := (layers s).updBind 0 (fun x => { x with
  blk := LTurnBlk.PATH.set x.blk 0, turnMoulds := [(1, mouldOf 1 [reluStage]), (2, mouldOf 2 [reluStage, writeStage])] })
def mxOn (f : Machine.Core → Machine.Core) : State := (matrixPath bound).updCore 0 (fun x => f { x with bfill := 1#32 })
def mxRunning (w : BitVec 256) (pos : Nat) (fin : Bool) : State := mxOn (fun x => { x with run := some ⟨w, 0, 0#32, pos, fin, none⟩ })
def spilled : Latch := ⟨3, false, List.replicate 256 0x3F800000#32⟩
def latched : State := mxOn (fun x => { x with fills := [none, none], latch := [spilled] })
def mxStatWord (op : Nat) : BitVec 256 := setAll 0#256 [(LMx.OP, op), (LMx.MB, 1)]
/-- Core 1 sums two partials that lie in core 0's ring. -/
def assembling : State := (mxOn id).updCore 1 (fun x => { x with split := some ⟨scratchKey 0 0x4000, 0xC201820000, 0xC201828000, 2, 0⟩ })
/-- Tile moves: from the host into the ring; from and to chip 3. -/
def tHost : W64 := BitVec.ofNat 64 (host 0x100000)
def tRing : W64 := 0xC200004000#64
def tHm : W64 := 0xC060000000#64
def tFar : W64 := 0x3C060000000#64
def slicedLayers : State := matrixPath (sliced 2)

theorem witness_TileMovesAndSpillsArrive :
    ([mxOn id, assembling].all (fun s => running .arith s && layerHolder s == some 0 && !moveWaits s 0 0 tHost tRing 1 true &&
      tileMoveStatus s (s.bind 0).seat tHost tRing 16384 == St.ok && !uncorrAt s (keyOf s tHost.toNat) 16384 &&
      moverStatus s (keyOf s tHost.toNat) (keyOf s tRing.toNat) 16384 == St.ok && noDefer s (keyOf s tHost.toNat) 16384 &&
      noDefer s (keyOf s tRing.toNat) 16384 && (holderOf s (keyOf s tRing.toNat) 16384).isNone) = true ∧
      isRemote (mxOn id) tHost.toNat = false ∧ isRemote (mxOn id) tRing.toNat = false ∧
      noDefer assembling 0xC201820000 8 = true ∧ holderOf assembling 0xC201820000 8 = none) ∧
    ([(tFar, tRing, true), (tHm, tFar, false)].all (fun x => let s := slicedLayers
      !moveWaits s 0 0 x.1 x.2.1 1 x.2.2 && tileMoveStatus s (s.bind 0).seat x.1 x.2.1 16384 == St.ok &&
      !uncorrAt s (keyOf s x.1.toNat) 16384 && moverStatus s (keyOf s x.1.toNat) (keyOf s x.2.1.toNat) 16384 == St.ok) = true ∧
      isRemote slicedLayers tFar.toNat = true ∧ isRemote slicedLayers tHm.toNat = false ∧ haveChip slicedLayers = true ∧
      (outPort slicedLayers 6 3).isSome = true) ∧
    ((latched.core 0).fills = [none, none] ∧ (latched.core 0).latch = [spilled] ∧ uncorrAt latched (sprueKey 0 3) 0x800 = false) ∧
    ((latched.core 0).run = none ∧ mxBad latched 0 0 (mxStatWord 2) = false ∧ mxBad latched 0 0 (mxStatWord 3) = false ∧
      moverHolds latched 0 (scratchKey 0 0) 8 = false ∧
      rangesIn latched 0 true [(scratchKey 0 0, 8)] = true ∧ rangesIn latched 0 false [(scratchKey 0 0, 8)] = true ∧
      uncorrAt latched (scratchKey 0 0) 8 = false) := by decide +kernel

/-- An instruction of no mould, without INIT and the sprue buffer; its block's other core holds it up. -/
def mmaPlain : BitVec 256 := mma 1 0 0
def hazard : State := (mxOn id).updCore 0 (fun x => { x with moves := [(scratchKey 0 0, 16384, [(3, 3, 0)])] })
def hazOpen : State := { hazard with fab := { hazard.fab with outstanding := [⟨0, 3, 3, 0, false, 0, 16384, 1, 0, 0, 0, none⟩] } }
def emptyRing : State := mxOn (fun x => { x with bused := 1#32 })
/-- What the statement asks of an epilogue. -/
def epiOf (s : State) : Epi := ((epiDue s 0).getD ⟨0, 0, 0#256, [], 0#32, none⟩)

theorem witness_MatrixInstructionsRun :
    ([mma 1, mma 0, mmaPlain].all (fun w => LMx.OP.get w == 1 && !mxHeld (mxOn id) 0 0 w) = true ∧ running .arith (mxOn id) = true ∧
      layerHolder (mxOn id) = some 0 ∧ ((mxOn id).core 0).run = none) ∧
    (mxBad (mxOn id) 0 0 (mma 1 3) = true ∧ mxHeld (mxOn id) 0 0 (mma 1 3) = false) ∧
    (mxBad hazOpen 0 0 (mma 1) = false ∧ mxHaz hazOpen 0 0 (mma 1) = true ∧ mxHeld hazOpen 0 0 (mma 1) = false) ∧
    (mxBad (barred (mxOn id)) 0 0 (mma 1) = false ∧ mxHaz (barred (mxOn id)) 0 0 (mma 1) = false ∧ mxWindows (barred (mxOn id)) 0 0 (mma 1) = false) ∧
    ([mxOn id, emptyRing].all (fun s => !mxBad s 0 0 (mma 1) && !mxHaz s 0 0 (mma 1) && mxWindows s 0 0 (mma 1)) = true ∧
      (emptyRing.core 0).bfill = (emptyRing.core 0).bused) ∧
    (((mxRunning mmaPlain 0 false).core 0).run = some ⟨mmaPlain, 0, 0#32, 0, false, none⟩ ∧ 0 + 1 = blockSteps mmaPlain ∧
      mxWaits (mxRunning mmaPlain 0 false) 0 ⟨mmaPlain, 0, 0#32, 0, false, none⟩ = false ∧
      badRange (mxRunning mmaPlain 0 false) (stepRanges (mxRunning mmaPlain 0 false) 0 0 mmaPlain 0) = none ∧ LMx.SPRUE.on mmaPlain = false) ∧
    (finishDue (mxRunning (mma 1) 1 false) 0 = some ⟨mma 1, 0, 0#32, 1, false, none⟩ ∧ mxOk (fun _ => true) (mma 1) = true ∧
      badRange (mxRunning (mma 1) 1 false) [mxSlotRange 0 (mma 1), mxSprueRange 0 (mma 1)] = none) := by decide +kernel

theorem witness_EpilogueRuns :
    ([1, 2].all (fun m => let s := mxRunning (mma 1 m) 1 true
      running .arith s && (epiDue s 0).isSome && !copiesMeet s (epiOf s) && (badRange s (epiReads (epiOf s))).isNone &&
        (epiOf s).dest == (if m == 1 then none else some writeStage)) = true) ∧
    ([0, 1].all (fun i => decide (stKind ((epiOf (mxRunning (mma 1 2) 1 true)).stages.getD i 0#128) ≠ 0x11)) = true ∧
      LStg.SUB.get writeStage = 0 ∧ 4 * mxN (mma 1 2) ≤ LStg.PITCH.get writeStage * 64 ∧
      (List.range 16).all (fun m => writeAllowed (mxRunning (mma 1 2) 1 true) 0 (writeDst 0 writeStage + m * 64) 64) = true) := by decide +kernel

/-! ## The vector engines -/

/-- Two rows of 32 elements: A at 0, B at 0x1000, D at 0x2000 of core 0's scratchpad, 192 bytes a row. -/
def vx (op : Nat) (l : List (Fld × Nat)) : BitVec 256 := setAll 0#256 ([(LVx.OP, op), (LVx.ROWS, 2), (LVx.COLS, 32), (LVx.BADDR, 64), (LVx.DADDR, 128),
  (LVx.APITCH, 3), (LVx.BPITCH, 3), (LVx.DPITCH, 3)] ++ l)
def vxState : State := rawWrite (layers bound) (scratchKey 0 0) (bytesOf 0x3FC000003F800000 8)
/-- What the statements of the vector engine ask of an instruction. -/
def vxGoes (w : BitVec 256) : Bool := vxForm (0 % 8) w && !vxWaits vxState 0 0 w && !vxRefused vxState (vxState.bind 0).seat 0 w &&
  !(vxWrites 0 w).any (fun d => partialUncorr vxState d.1 d.2) && (badRange vxState (vxReads 0 w)).isNone
def vxElementwise : List (BitVec 256) := [2, 3, 4, 5, 6, 7, 8, 9, 10, 11, 12, 13, 14].map (fun op => vx op [(LVx.IMM, 0x40000000), (LVx.IMM2, 0x40400000)]) ++
  [vx 15 [(LVx.FB, 4), (LVx.IMM, 0x40000000)], vx 2 [(LVx.BMODE, 1)], vx 2 [(LVx.BMODE, 2)], vx 2 [(LVx.BMODE, 3)]]

theorem witness_VectorElementwise : running .arith vxState = true ∧ layerHolder vxState = some 0 ∧ vxElementwise.all vxGoes = true := by decide +kernel

def vxByRows : List (BitVec 256) := [vx 1 [(LVx.FD, 2)], vx 0x10 [], vx 0x11 [], vx 0x12 [], vx 0x13 [], vx 0x14 [(LVx.IMM, 0x3727C5AC)],
  vx 0x15 [(LVx.IMM2, 32 + 512 * 32)], vx 0x16 [(LVx.FD, 5)], vx 0x16 [(LVx.FD, 6)], vx 0x18 [], vx 0x19 []]

theorem witness_VectorRowsAndRecords : running .arith vxState = true ∧ layerHolder vxState = some 0 ∧ vxByRows.all vxGoes = true := by decide +kernel

/-! ## Split reductions and collective steps -/

def collS : State := layers (sliced 2)
def coll (op : Nat) (l : List (Fld × Nat)) : BitVec 512 := setAll 0#512 ([(LColl.OP, op), (LColl.SRC, 0xC060000000), (LColl.DST, 0xC060001000)] ++ l)
def cPut (peer : Nat) : BitVec 512 := coll 1 [(LColl.PEER, peer), (LColl.UNITS, 1), (LColl.FLAG, 0xC060002000), (LColl.MASK, 5)]
def cWait : BitVec 512 := coll 2 [(LColl.FLAG, 0xC060002000), (LColl.MASK, 5)]
def cRing (op : Nat) (peer : Nat := 0) : BitVec 512 := coll op [(LColl.PEER, peer), (LColl.UNITS, 4)]
def collGoes (e op : Nat) (w : BitVec 512) : Bool := decide (e < 4) && LColl.OP.get w == op && collOk collS e w && collMay collS e w &&
  collStatus collS (collS.bind 0).seat w == St.ok
/-- Two partials in cluster 0's memory: the arrival word, and a reduction that is to add one of them. -/
def addBase : Nat := 0xC201840000
def addBits : Nat := 0xC201860000
def addOut : Nat := 0xC201870000
def splitting (bits next : Nat) : State := (rawWrite (layers bound) addBits (bytesOf bits 8)).updCore 0 (fun x => { x with
  split := some ⟨addBase, addBits, addOut, 2, next⟩ })
/-- The first bit came long ago, the second has not come. -/
def splitLate : State := later { splitting 1 1 with fab := { (splitting 1 1).fab with arrivals := [(addBits, 0)] } }
def collLate : State := later (setColl collS 0 (some ⟨cWait, 0, false⟩))

theorem witness_SplitAndCollectiveSteps :
    ([(1, 0), (3, 1), (1, 1)].all (fun x => let s := splitting x.1 x.2
      running .arith s && layerHolder s == some 0 && splitForm 0 addBase addBits addOut 2 false && (s.core 0).latch.isEmpty &&
        splitOf s 0 addBase addBits addOut 2 == some ⟨addBase, addBits, addOut, 2, x.2⟩ && splitAllowed s 0 addBase addBits addOut 2 false &&
        arrived s addBits x.2 == (x != (1, 1)) &&
        !engineHolds s 0 [(addBase + x.2 * 16384, 16384), (addBits, 8)] [(addOut, 16384)] &&
        (badRange s [(addBase + x.2 * 16384, 16384), (addOut, 16384)]).isNone) = true ∧
      splitAllowed (barred (splitting 1 0)) 0 addBase addBits addOut 2 false = false) ∧
    (running .arith splitLate = true ∧ layerHolder splitLate = some 0 ∧ readWord splitLate addBits ≠ 0#64 ∧
      (addBits, 0) ∈ splitLate.fab.arrivals ∧ 0 ≤ now splitLate ∧ arrived splitLate addBits 1 = false) ∧
    (running .arith collS = true ∧ layerHolder collS = some 0 ∧ collGoes 0 1 (cPut 0) = true ∧ collGoes 3 1 (cPut 3) = true ∧ collGoes 0 2 cWait = true ∧
      collGoes 1 3 (cRing 3) = true ∧ collGoes 1 4 (cRing 4) = true ∧ collGoes 1 5 (cRing 5) = true ∧ collGoes 1 5 (cRing 5 3) = true ∧
      haveChip collS = true ∧ (outPort collS 6 3).isSome = true) ∧
    (uncorrAt collS 0xC060000000 256 = false ∧ uncorrAt collS 0xC060002000 8 = false ∧ holderOf collS 0xC060001000 256 = none ∧
      noDefer collS 0xC060001000 256 = true ∧ noDefer collS 0xC060002000 8 = true ∧ holderOf collS 0xC060002000 8 = none ∧
      inputsOk (collCount collS (cRing 3)) 256 (List.replicate 2 (List.replicate 256 7#8)) = true ∧
      inputsOk (collCount collS (cRing 4)) (256 / collCount collS (cRing 4)) (List.replicate 2 (List.replicate 128 7#8)) = true) ∧
    (running .arith collLate = true ∧ collFree collLate 0 = false ∧
      (collRun collLate 0).any (fun y => y.failed || decide (y.since + tierTimeout collLate ≤ now collLate)) = true) := by decide +kernel

/-! ## Turns -/

/-- Binding 0 with a composed turn of request 5 in a phase; in Gather, Layers and Sample it holds the execution slot. -/
def turning (p : Nat) : State :=
  let s := (inPhase (held 3) p).updBind 0 (fun x => { x with turn := [{ tEnt with draws := [if p = 5 then some (some 2) else none] }] })
  { s with slot := { s.slot with holder := if p = 2 ∨ p = 3 ∨ p = 4 then some 0 else none } }
/-- Its next turn would take the matrix path, and its layer program has lead-in tiles. -/
def leading : State := ((turning 3).updBind 0 (fun x => { x with prov := 1, brec := LBindRec.LEADIN.set x.brec 2 })).updCore 0 (fun x => { x with done := [0] })
/-- Its next turn's layer program cannot be read. -/
def unread : State := (turning 2).updBind 0 (fun x => { x with brec := setAll x.brec [(LBindRec.LPLEN, 1), (LBindRec.LPROG, host 0x10003)] })
/-- The layer program has one weight tile of cluster 0 that layer 0 streams through its ring. -/
def leadingTile : State :=
  let s := leading.updBind 0 (fun x => { x with leadArea := [0x3010000, 0x3011000, 0x3012000, 0x3013000] })
  rawWrite (s.updCore 0 (fun x => { x with moved := 1 })) (host 0x10000)
    (bytesOf (2 ^ 512 * 4 + 2 ^ 160 + 2 ^ 128 + 2 ^ 64 * sramBase + host 0x14000) 128)
def draining : State :=
  let s := (turning 6).updBind 0 (fun x => { x with blk := LTurnBlk.FAULTED.set x.blk 1 })
  { s with slot := { s.slot with draining := some 0 } }

/-- Another binding's lead-in has been streamed. -/
def streamed : State := (turning 1).updBind 1 (fun x => { x with leadin := true })
/-- The abandoned turn's binding has left FAULTED; or has been removed. -/
def cleared : State := draining.updBind 0 (fun x => { x with blk := LTurnBlk.FAULTED.set x.blk 0 })
def removed : State := draining.updBind 0 (fun _ => Bind.reset)

theorem witness_TurnPhasesFollowEachOther :
    (running .arith (turning 1) = true ∧ (turning 1).slot.holder = none ∧ (turning 1).slot.draining = none ∧ slotGrant (turning 1) = some (0, 0, 1) ∧
      slotGrant streamed = some (0, 0, 1) ∧ (streamed.bind 1).leadin = true) ∧
    (running .arith (turning 2) = true ∧ holderIn (turning 2) 2 = some 0 ∧ sealsOpen (turning 2) 0 = false ∧ ((turning 2).bind 0).turn.length ≤ 256 ∧
      holdsRequests (turning 2) 0 = true ∧ programRead (turning 2) 0 = St.ok ∧
      holderIn unread 2 = some 0 ∧ sealsOpen unread 0 = false ∧ programRead unread 0 ≠ St.ok) ∧
    (running .arith leading = true ∧ holderIn leading 3 = some 0 ∧ (leading.bind 0).weightsRead = false ∧ leadTarget leading 0 = some 0 ∧ tilesRead leading 0 = true ∧
      layersBusy leading 0 = false ∧ programBegun leading 0 = true ∧ running .banker leading = true ∧ composes leading 0 = true ∧ bPhase (leading.bind 0) = 3 ∧ inFlight leading 0 = true) := by decide +kernel

theorem witness_TurnPhasesEnd :
    (holderIn leadingTile 3 = some 0 ∧ leadTarget leadingTile 0 = some 0 ∧ (leadingTile.bind 0).weightsRead = false ∧ tilesRead leadingTile 0 = true ∧
      leadTiles leadingTile 0 0 = [host 0x14000] ∧ ((List.range 32).all (fun c => c == 0 || (leadTiles leadingTile 0 c).isEmpty)) = true ∧
      moveStatus leadingTile (leadingTile.bind 0).seat false (host 0x14000) 16384 = St.ok ∧
      uncorrAt leadingTile (keyOf leadingTile (host 0x14000)) 16384 = false ∧ noDefer leadingTile (keyOf leadingTile (host 0x14000)) 16384 = true ∧
      noDefer leadingTile (leadKey leadingTile 0 0) 16384 = true ∧ holderOf leadingTile (leadKey leadingTile 0 0) 16384 = none ∧ farAddr leadingTile (host 0x14000) = false ∧
      moverStatus leadingTile (keyOf leadingTile (host 0x14000)) (leadKey leadingTile 0 0) 16384 = St.ok) ∧
    (running .arith (turning 4) = true ∧ holderIn (turning 4) 4 = some 0 ∧
      allDrawn (((turning 4).updBind 0 (fun x => { x with turn := x.turn.map (fun e => { e with draws := [some none] }) })).bind 0) = true) ∧
    (running .arith draining = true ∧ bPhase (draining.bind 0) = 6 ∧ bFaulted (draining.bind 0) = true ∧ draining.slot.draining = some 0 ∧
      bPhase (cleared.bind 0) = 6 ∧ bFaulted (cleared.bind 0) = false ∧ bPhase (removed.bind 0) ≠ 6 ∧ removed.slot.draining = some 0) := by
  decide +kernel

def rotten : State := { turning 4 with wordErr := [(0xC030000000 / 8, WordErr.uncorr)] }
/-- Binding 0 in Commit on a member of a slice, and on its leader with the other member's arrival or without. -/
def member : State := { turning 5 with fab := { (sliced 2).fab with slice := setAll (sliced 2).fab.slice [(LSliceSt.LEADER, 0), (LSliceSt.LEADER_CHIP, 1), (LSliceSt.X0, 0)] } }
def leader (n : Nat) : State := { turning 5 with fab := { (sliced 2).fab with barriers := [(0, { Barrier.reset with members := n })] } }
/-- Binding 0's Release is outstanding; nobody holds run 1 of pool 0 any more. -/
def releasing : State := (turning 0).updBind 0 (fun x => { x with relDue := true, drops := [(0, 1)] })
def drawn : TEnt := { tEnt with draws := [some (some 2)] }
def ringed : State := (turning 3).updRx 5 (fun x => { x with ringUndo := [(host 0x2040, [1#8, 2#8])] })

def endedRing : State := (held 3).updRx 5 (fun x => { x with ringUndo := [(host 0x2040, [1#8, 2#8])] })

theorem witness_SampledRowsAreDrawnAndCommitted :
    (running .arith (turning 4) = true ∧ holderIn (turning 4) 4 = some 0 ∧ sampledRow ((turning 4).bind 0).turn 0 = some (0, 0) ∧
      ((turning 4).bind 0).turn[0]? = some { tEnt with draws := [none] } ∧ nextOfUnit ((turning 4).bind 0) 0 = true ∧
      rowReadable (turning 4) ((turning 4).bind 0) { tEnt with draws := [none] } 0 0 = true) ∧
    (holderIn rotten 4 = some 0 ∧ rowReadable rotten (rotten.bind 0) { tEnt with draws := [none] } 0 0 = false) ∧
    (running .arith (turning 5) = true ∧ commitReady (turning 5) 0 = true ∧ ((turning 5).bind 0).waitBarrier = false ∧ sliceBinding (turning 5) 0 = false ∧
      (((turning 5).bind 0).turn.map entSlot).Nodup ∧ drawn ∈ ((turning 5).bind 0).turn ∧ LLenEnt.KIND.get drawn.len = 0 ∧ drawn.draft = [] ∧
      drawn.fault = 0 ∧ ((turning 5).rx (entSlot drawn)).cancelDue = 0 ∧ dueFault (turning 5) (entSlot drawn) = 0) ∧
    (commitReady member 0 = true ∧ (member.bind 0).waitBarrier = false ∧ sliceBinding member 0 = true ∧ isLeader member = false) ∧
    (commitReady (leader 1) 0 = true ∧ sliceBinding (leader 1) 0 = true ∧ isLeader (leader 1) = true ∧
      (barrierOf (leader 1) 0).flags = 0 ∧ (barrierOf (leader 1) 0).members + 1 = sliceSize (leader 1)) ∧
    (isLeader (leader 0) = true ∧ ¬((barrierOf (leader 0) 0).members + 1 = sliceSize (leader 0))) ∧
    (running .banker releasing = true ∧ (releasing.bind 0).loaded = true ∧ (releasing.bind 0).relDue = true ∧ sliceState releasing ≠ 4 ∧
      (bindSlots releasing 0).all (fun n => (releasing.rx n).tail != .wants) = true ∧ (0, 1) ∈ (releasing.bind 0).drops ∧
      runLoose (releasing.bind 0) 0 1 = true ∧ LRunRec.LASTREAD.get (runRec (releasing.bind 0) 0 1) ≤ bTurn (releasing.bind 0)) ∧
    (running .banker ringed = true ∧ rState ringed 5 ≠ RS.free ∧ (ringed.rx 5).ringUndo[0]? = some (host 0x2040, [1#8, 2#8]) ∧
      rActive ringed 5 = true ∧ inFlight ringed (rBind ringed 5) = true) := by decide +kernel

/-! ## Copies of runs -/

def cFlushRun : Copy := ⟨5, 0, .set 7, .run 0, 8, [], [], true, 0⟩
def cSeed : Copy := ⟨5, 0, .run 0, .set 7, 5, [], [], false, 0⟩
/-- Request 5 of a binding of one lane or of two has a flush, a seed or the tail of its pause under way. -/
def copying (lanes st : Nat) (f : Bind → Bind) (g : ReqX → ReqX) : State :=
  ((held st).updBind 0 (fun x => f { x with brec := LBindRec.LAYERS.set rec1 lanes })).updRx 5 g
def flushing (lanes : Nat) : State := copying lanes 3 (fun x => { x with flushes := [cFlushRun] }) id
def flushLocked : State := (flushing 1).updIngot 0 (fun x => { x with locks := [(0, [⟨0, 1, 7⟩])] })
/-- A lane whose writes the deferral buffer holds or no longer holds; a buffer without room. -/
def flushHeld (open' : Bool) : State :=
  ((flushing 1).updBind 0 (fun x => { x with flushes := [{ cFlushRun with heldLanes := [0] }] })).updIngot 0 (fun x => { x with
    defer := if open' then [⟨0, 0, [1#8], false⟩] else [] })
def flushFull : State := flushLocked.updIngot 0 (fun x => { x with defer := List.replicate 512 ⟨5, 0, [1#8], false⟩ })
def seeding (lanes : Nat) : State := copying lanes 3 (fun x => { x with seeds := [cSeed] }) id
def tailing (bad : Bool) : State :=
  { copying 1 4 (fun x => { x with tails := [cFlushRun] }) (fun x => { x with tail := .writing 0 0 5, held := some 7 }) with
    wordErr := if bad then [((0xC000000000 + 7 * 16384) / 8, WordErr.uncorr)] else [] }
def tailWants (used : Nat) : State := copying 1 4 (fun x => { x with free := [(0, ⟨[], used, []⟩)] }) (fun x => { x with tail := .wants, held := some 7 })

theorem witness_KvCopiesComplete :
    ([1, 2].all (fun n => let s := flushing n
      running .banker s && flushOf s 0 5 0 == some cFlushRun && copyStatus s 0 0 cFlushRun == St.ok && !laneOpen s 0 0 cFlushRun &&
      !farAddr s (laneAddr s 0 cFlushRun.src) && keyOf s (laneAddr s 0 cFlushRun.src) == sourceKey s 0 0 cFlushRun.src &&
      !farAddr s 0 && keyOf s 0 == targetKey s 0 cFlushRun.dst && !moverWaits s (targetKey s 0 cFlushRun.dst) 16384 &&
      noDefer s (sourceKey s 0 0 cFlushRun.src) 16384 && noDefer s (targetKey s 0 cFlushRun.dst) 16384 &&
      (holderOf s (targetKey s 0 cFlushRun.dst) 16384).isNone) = true ∧ Tab.wf (flushing 1).mem 0#8 = true) ∧
    (moverWaits flushFull (targetKey flushFull 0 cFlushRun.dst) 16384 = true ∧ flushOf flushFull 0 5 0 = some cFlushRun) ∧
    ([true, false].all (fun d => flushOf (flushHeld d) 0 5 0 == some { cFlushRun with heldLanes := [0] } &&
      laneOpen (flushHeld d) 0 0 { cFlushRun with heldLanes := [0] } == d) = true) ∧
    (((seeding 1).bind (rBind (seeding 1) 5)).seeds.find? (fun d => d.slot == 5) = some cSeed ∧
      copyStatus (seeding 1) 0 0 cSeed = St.ok ∧ farAddr (seeding 1) (laneAddr (seeding 1) 0 cSeed.src) = false ∧
      keyOf (seeding 1) (laneAddr (seeding 1) 0 cSeed.src) = sourceKey (seeding 1) 0 0 cSeed.src ∧
      jobOpen (seeding 1) (· == .lane 0 5 0 0) = false ∧ noDefer (seeding 1) (sourceKey (seeding 1) 0 0 cSeed.src) 16384 = true ∧ 1 ≠ cSeed.doneLanes.length ∧
      holderOf (seeding 1) (riserKey (seeding 1) 7) 16384 = none ∧
      sourceKey (seeding 1) 0 0 cSeed.src + 16384 ≤ riserKey (seeding 1) 7 ∧
      (laneBytes ((seeding 1).bind 0).brec 5).all (fun o => decide (o < 16384)) = true) ∧
    ([false, true].all (fun bad => let s := tailing bad
      (s.rx 5).tail == .writing 0 0 5 && (s.bind (rBind s 5)).tails.find? (fun d => d.slot == 5) == some cFlushRun &&
      !laneWaits s 0 cFlushRun && !laneOpen s 0 0 cFlushRun && rActive s 5 && (copyStatus s 0 0 cFlushRun != St.ok) == bad && !inFlight s 0 &&
      !farAddr s (laneAddr s 0 cFlushRun.src) && !farAddr s 0 && keyOf s (laneAddr s 0 cFlushRun.src) == riserKey s 7) = true) ∧
    (((tailWants 1).rx 5).tail = .wants ∧ inFlight (tailWants 1) 0 = false ∧ ((tailWants 1).rx 5).held = some 7 ∧
      ((allocRun (tailWants 1) 0 (some (slotDie (tailWants 1) 7)) 0).map (·.2) = some (0, 1)) ∧
      (allocRun (tailWants 4) 0 (some (slotDie (tailWants 4) 7)) 0).map (·.2) = none) := by decide +kernel

/-- PARK object 9 of tier 2 holds a run of chip 2's seat 3 and one of this device; this device is a park host. -/
def rCopy : RunCopy := ⟨0, 0, 0, .obj 9 1, 8, 2, false, 0, 0, 0⟩
def parking (park : Bool) : State :=
  let s := copying 1 (if park then 4 else 6) id (fun x => if park then { x with parks := [rCopy], ask := none }
    else { x with returns := [rCopy], parked := [rCopy], releases := [] })
  { s.updSeat 0 (fun x => { x with quota := [] }) with
    objs := (9, setAll 0#512 [(LObj.KIND, 5), (LObj.STATE, 1), (LObj.WTIER, 2), (LObj.TILES, 4), (LObj.WORK, 0x1800000000)]) :: s.objs,
    objx := [(9, { ObjX.reset with park := [⟨0, 2, 3, 1, 0, 0, 1, 5⟩, ⟨1, 0, 0, 5, 0, 1, 1, 6⟩] })],
    bank := { s.bank with tierCfg := LTierCfg.PARK_HOST.set s.bank.tierCfg 1, nextParkId := 2 } }
def parkFlight (park : Bool) : State := inPhase (parking park) 3
/-- A release of park space was sent long ago. -/
def released : State := let s := later (held 7); { s.updRx 5 (fun x => { x with releases := [77] }) with fab := { s.fab with releases := [(77, 5, 0)] } }

/-- A message of chip 1 (R328) to a device of a mesh. -/
def note (cls : Nat) (src : Nat := 1) : BitVec 256 := setAll 0#256 [(LPkt.TYPE, 9), (LPkt.CLASS, cls), (LPkt.SRC, src)]
def parkNet (park : Bool) : State := { parking park with fab := open'.fab }
def releasedNet : State := { released with fab := { open'.fab with releases := [(77, 5, 0)] } }

theorem witness_ParkMessages :
    carried (parkNet true) 0 9 0 none (note 0) = true ∧ carried releasedNet 0 9 0 none (note 0) = true ∧
    rState (parkNet true) 5 ≠ RS.paused ∧ rState (parkNet true) 6 ≠ RS.pausing ∧ running .banker (parkNet true) = true ∧
    [RS.paused, RS.pausing].all (fun st => let s := { parkNet true with reqs := [(5, LEnt.STATE.set ((parkNet true).req 5) st)] }
      carried s 0 9 0 none (note 0) && rState s 5 == st) = true ∧
    (hostPlace (receivedPackets (parkNet true) 0 1) 1 1 2).map (·.2) = some (9, 2) := by decide +kernel

theorem witness_ParkedRunsComeAndGo :
    ([parking true, parkFlight true].all (fun s => running .banker s && (s.rx 5).parks.find? (fun x => x.col == 0 && !x.done) == some rCopy &&
      gLanes (s.bind 0).brec == 1 && tileStatus s 0 (runAddr (s.bind 0).brec 0 0) (parkAddr s (.obj 9 1)) == St.ok) = true ∧
      inFlight (parkFlight true) 0 = true ∧ inFlight (parking true) 0 = false) ∧
    ([parking false, parkFlight false].all (fun s => (s.rx 5).returns.find? (fun x => x.col == 0 && !x.done) == some rCopy &&
      tileStatus s 0 (parkAddr s (.obj 9 1)) (runAddr (s.bind 0).brec 0 0) == St.ok) = true ∧
      inFlight (parkFlight false) 0 = true ∧ inFlight (parking false) 0 = false ∧ rState (parking false) 5 = RS.resuming ∧
      ((parking false).rx 5).returns.length = ((parking false).rx 5).parked.length ∧ (markRun 0 ((parking false).rx 5).returns).all (·.done) = true) ∧
    ([parking true, parking false].all (fun s => overlaps (keyOf s (runAddr (s.bind 0).brec 0 0)) 16384 (keyOf s (parkAddr s (.obj 9 1))) 16384 == false &&
      noDefer s (keyOf s (runAddr (s.bind 0).brec 0 0)) 16384 && noDefer s (keyOf s (parkAddr s (.obj 9 1))) 16384 &&
      (holderOf s (keyOf s (runAddr (s.bind 0).brec 0 0)) 16384).isNone && (holderOf s (keyOf s (parkAddr s (.obj 9 1))) 16384).isNone) = true) ∧
    ([true, false].all (fun d => let s := barred (parking d)
      rActive s 5 && !inFlight s 0 && tileStatus s 0 (runAddr (s.bind 0).brec 0 0) (parkAddr s (.obj 9 1)) != St.ok &&
      tileStatus s 0 (parkAddr s (.obj 9 1)) (runAddr (s.bind 0).brec 0 0) != St.ok) = true) ∧
    ((hostPlace (parking true) 2 1 2).map (·.2) = some (9, 2) ∧ (hostPlace (parking true) 2 1 9).isNone = true ∧
      LTierCfg.PARK_HOST.on (parking true).bank.tierCfg = true) ∧
    (running .banker released = true ∧ released.fab.releases.any (fun x => x.1 == 77 && decide (x.2.2 + tierTimeout released ≤ now released)) = true) := by
  decide +kernel

/-! ## Ends of operations, fetches, timers -/

/-- Object 9 is being moved, or placed in another way. -/
def movingIt (x : ObjX) : State := { placed with
  objs := [(9, setAll (placed.obj 9) [(LObj.STATE, 2)])], objx := [(9, { x with op := 2, target := 0x1800010000 })] }
def placingIt (st op : Nat) : State := { placed with
  objs := [(9, setAll (placed.obj 9) [(LObj.STATE, st)])], objx := [(9, { ObjX.reset with op := op })] }
/-- A tile of a write-back is still to be copied. -/
def placingTile : State := { placed with
  objs := [(9, setAll (placed.obj 9) [(LObj.STATE, 3)])], objx := [(9, { ObjX.reset with op := 3, todo := [(1, 1)] })] }
/-- The WEIGHT object of binding 0 is being moved while a turn is in flight. -/
def movingWeights : State := { turning 3 with
  objs := bound.objs.map (fun e => if e.1 = 1 then (1, LObj.STATE.set e.2 2) else e), objx := [(1, { ObjX.reset with op := 2, target := 0xC00010000 })] }
def movingWeightsIdle : State := inPhase movingWeights 0
def late (dead exp : Nat) : State := { later (held 3) with reqs := [(5, setAll ((held 3).req 5) [(LEnt.DEADLINE, dead), (LEnt.T_EXPIRE, exp)])] }
def ending (wait : Bool) (st : Nat) : State := (held st).updRx 5 (fun x => { x with endWait := if wait then some 9#128 else none })

/-- A MOVE with its second tile left, or with none. -/
def tileLeft : State := movingIt { ObjX.reset with todo := [(1, 1)] }

theorem witness_PlacePassesEnd :
    ([tileLeft, placingTile, barred tileLeft, barred placingTile].all (fun s => running .banker s && (s.ox 9).todo == [(1, 1)] && (s.ox 9).failed == 0 &&
      (s.ox 9).waiting.isEmpty && !moverWaits s (keyOf s ((opEnds s 9).2.1 + 16384)) 16384 &&
      noDefer s (keyOf s ((opEnds s 9).1 + 16384)) 16384 && noDefer s (keyOf s ((opEnds s 9).2.1 + 16384)) 16384 &&
      (holderOf s (keyOf s ((opEnds s 9).2.1 + 16384)) 16384).isNone) = true ∧
      moving tileLeft 9 = true ∧ moving (barred tileLeft) 9 = true ∧ placing placingTile 9 = true ∧ placing (barred placingTile) 9 = true) ∧
    ([tileLeft, placingTile].all (fun s => tileStatus s 0 ((opEnds s 9).1 + 16384) ((opEnds s 9).2.1 + 16384) == St.ok &&
      tileStatus (barred s) 0 ((opEnds s 9).1 + 16384) ((opEnds s 9).2.1 + 16384) != St.ok) = true) ∧
    ([ObjX.reset, { ObjX.reset with marks := [1], pass := 4 }, { ObjX.reset with marks := [1], pass := 5 }].all (fun x => moving (movingIt x) 9 &&
      !inUse (movingIt x) 9) = true) ∧
    ([movingWeights, movingWeightsIdle].all (fun s => moving s 1 && (s.ox 1).todo.isEmpty && (s.ox 1).failed == 0 && LObj.KIND.get (s.obj 1) == 1 &&
      inUse s 1 && LObj.BTIER.get (s.obj 1) == 0) = true ∧ inFlight movingWeights (useBind movingWeights 1) = true ∧
      inFlight movingWeightsIdle (useBind movingWeightsIdle 1) = false) ∧
    (placing (placingIt 4 4) 9 = true ∧ placing (placingIt 3 3) 9 = true ∧ placing (placingIt 2 1) 9 = true ∧
      ((placingIt 4 4).ox 9).failed = 0 ∧ ((placingIt 4 4).ox 9).todo = []) := by decide +kernel

theorem witness_TimersAndPassesTakeEffect :
    (running .banker awaiting = true ∧ awaiting.slot.holder = some 0 ∧ lateTier awaiting = some (2, 1000)) ∧
    (running .banker (later (turning 3)) = true ∧ (later (turning 3)).slot.holder = some 0 ∧ inFlight (later (turning 3)) 0 = true ∧
      ((later (turning 3)).bind 0).turn.any (fun e => entSlot e == 5) = true ∧ ((later (turning 3)).bind 0).fetchDue ≤ now (later (turning 3))) ∧
    (((splitting 1 1).core 0).split.isSome = true ∧ layerHolder (splitting 1 1) = some 0) ∧
    ((placingTile.ox 9).todo ≠ [] ∧ (placingTile.ox 9).failed = 0 ∧ (placingTile.ox 9).due ≤ now placingTile) ∧
    ([true, false].all (fun d => rActive (parking d) 5 && !inFlight (parking d) 0) = true ∧ rCopy ∈ ((parking true).rx 5).parks ∧
      rCopy ∈ ((parking false).rx 5).returns ∧ rCopy.due ≤ now (parking true)) ∧
    rState (turning 3) 6 = RS.free ∧
    (running .banker (late 7 0) = true ∧ ((late 7 0).bind 0).loaded = true ∧ inFlight (late 7 0) 0 = false ∧ rActive (late 7 0) 5 = true ∧
      LEnt.DEADLINE.get ((late 7 0).req 5) ≤ now (late 7 0) ∧ LEnt.T_EXPIRE.get ((late 0 7).req 5) ≤ now (late 0 7)) ∧
    (running .banker (ending true 7) = true ∧ rState (ending true 7) 5 = RS.ending ∧ ((ending true 7).rx 5).endWait = some 9#128 ∧
      ringRoom (readCons (ending true 7) 5) 5 ≠ 0) ∧
    (rActive (turning 3) 5 = true ∧ ((turning 3).rx 5).endWait = none ∧ bPhase ((turning 3).bind 0) ≠ 0) ∧
    requestDone (ending false 7) 5 = true := by decide +kernel

/-! ## Slices' and mirrors' records -/

/-- A member, not the leader, of a slice of chips 0 and 1, in a state of its own. -/
def follower (st : Nat) (s : State := later bound) : State := { s with fab := { (sliced st).fab with
  slice := setAll (sliced st).fab.slice [(LSliceSt.LEADER, 0), (LSliceSt.LEADER_CHIP, 1), (LSliceSt.X0, 0)] } }
/-- Chip 1 of a row of four, chip 2 its leader and chip 0 its child. -/
def between (st : Nat) (b : Barrier) : State := later { bound with fab := { (sliced st).fab with
  fabId := setAll (sliced st).fab.fabId [(LFabId.CHIP, 1)],
  slice := setAll (sliced st).fab.slice [(LSliceSt.LEADER, 0), (LSliceSt.LEADER_CHIP, 2), (LSliceSt.X0, 0), (LSliceSt.NX, 4)],
  barriers := [(0, b)] } }
def heading (st : Nat) (b : Barrier) : State := { later (turning 5) with fab := { (sliced st).fab with barriers := [(0, b)] } }
def sync (code : Nat) (l : List (Fld × Nat)) : BitVec 512 := setAll 0#512 ([(LSync.CODE, code), (LSync.STAG, 5)] ++ l)
def arrivedB : Barrier := { Barrier.reset with arrived := true }
def sentB : Barrier := { arrivedB with sent := true }
/-- A member whose turn 1 waits at its barrier, and what comes with the scatter. -/
def atBarrier : State := (follower 2 (turning 5)).updBind 0 (fun x => { x with waitBarrier := true })
def scattered : List SliceEnt := [⟨tEnt.len, [], 0#512, 0, [(2, 7)]⟩]
/-- A member whose binding has no turn in flight; the scatter of a turn that its leader closed from idle. -/
def atIdle : State := follower 2 (turning 0)
def sIdle : BitVec 512 := sync 0x11 [(LSync.MEMBERS, 1)]
/-- Records of a child: of the formation with this device's digest, of a reset, of turn 1. -/
def gForm (digest members : Nat) : BitVec 512 := sync 0x10 [(LSync.FORM, 1), (LSync.DIGEST, digest), (LSync.MEMBERS, members)]
def gReset : BitVec 512 := sync 0x10 [(LSync.RESET, 1), (LSync.MEMBERS, 1)]
def gTurn (turn : Nat) : BitVec 512 := sync 0x10 [(LSync.TURN, turn), (LSync.MEMBERS, 1)]
def sTurn : BitVec 512 := sync 0x11 [(LSync.TURN, 1), (LSync.TIME, 77)]
/-- The leader's binding has a Release outstanding. -/
def unquiet : State := (sliced 4).updBind 0 (fun x => { x with relDue := true })

/-- Messages of a child: chip 3's to chip 0, chip 0's to chip 1; of the parent of a member: chip 1's to chip 0. -/
def fromThree : BitVec 256 := note 0 3
def fromZero : BitVec 256 := setAll 0#256 [(LPkt.TYPE, 9), (LPkt.DEST, 1)]

theorem witness_SliceRecordsTakeEffect :
    (running .banker (follower 1) = true ∧ sliceState (follower 1) = 1 ∧ isLeader (follower 1) = false ∧ formKids (follower 1) = true ∧
      (treeParent (follower 1)).bind (neighbour (follower 1)) = some 1 ∧
      (follower 1).fab.formSent + 1000000 ≤ now (follower 1) ∧ (follower 1).fab.formAt + 10000000000 ≤ now (follower 1)) ∧
    (barrierLate (between 2 arrivedB) 0 = 1 ∧ isLeader (between 2 arrivedB) = false ∧
      (treeParent (between 2 arrivedB)).bind (neighbour (between 2 arrivedB)) = some 2) ∧
    (barrierLate (heading 2 arrivedB) 0 = 1 ∧ isLeader (heading 2 arrivedB) = true ∧ inFlight (heading 2 arrivedB) 0 = true) ∧
    (barrierLate (between 2 sentB) 0 = 2 ∧ ((between 2 sentB).bind 0).loaded = true) ∧
    ([gForm (formDigest (sliced 1)) 1, gForm 7 1, gForm 7 0].all (fromChild (sliced 1) 1 fromThree) = true ∧
      carried (sliced 1) 1 9 0 none fromThree = true ∧ running .link (sliced 1) = true ∧
      sliceState (sliced 1) = 1 ∧ isLeader (sliced 1) = true ∧ sliceSize (sliced 1) = 2 ∧
      fromChild (between 1 arrivedB) 1 fromZero (gForm 7 1) = true ∧ carried (between 1 arrivedB) 1 9 0 none fromZero = true ∧ isLeader (between 1 arrivedB) = false) ∧
    ([(sliced 4, fromThree), (unquiet, fromThree), (between 4 arrivedB, fromZero)].all (fun (s, m) => fromChild s 1 m gReset &&
      carried s 1 9 0 none m && sliceState s == 4 && !s.fab.resetGot.contains 1) = true ∧
      resetQuiet (sliced 4) = true ∧ resetQuiet unquiet = false ∧ resetQuiet (between 4 arrivedB) = true) ∧
    ([(between 2 arrivedB, fromZero), (heading 2 arrivedB, fromThree), (heading 2 Barrier.reset, fromThree)].all (fun (s, m) =>
      [gTurn 1, gTurn 9].all (fromChild s 1 m) && carried s 1 9 0 none m && sliceBinding s 0 &&
      !(barrierOf s 0).got.contains 1) = true) ∧
    ([sync 0x11 [(LSync.FORM, 1)], sync 0x11 [(LSync.FAIL, 1)]].all (forMember (follower 1) 0) = true ∧ running .link (follower 1) = true ∧
      carried (follower 1) 0 9 0 none (note 0) = true) ∧
    (forMember (follower 3) 0 (sync 0x11 [(LSync.CONTINUE, 1)]) = true ∧ sliceState (follower 3) = 3) ∧
    (forMember (follower 4) 0 (sync 0x11 [(LSync.RESET, 1)]) = true ∧ sliceState (follower 4) = 4) ∧
    ([sync 0x11 [(LSync.ABANDON, 1)], sTurn].all (forMember atBarrier 0) = true ∧ sliceBinding atBarrier 0 = true ∧ (atBarrier.bind 0).loaded = true ∧
      (atBarrier.bind 0).waitBarrier = true ∧ LSync.TURN.get sTurn = bTurn (atBarrier.bind 0) + 1 ∧ bFaulted (atBarrier.bind 0) = false) ∧
    (forMember atIdle 0 sIdle = true ∧ carried atIdle 0 9 0 none (note 0) = true ∧ sliceBinding atIdle 0 = true ∧ LSync.TURN.get sIdle = bTurn (atIdle.bind 0) ∧
      inFlight atIdle 0 = false) := by
  decide +kernel

/-- Turn 8 of binding 0 awaits its seal. -/
def sealWait : SealWait := ⟨0, 8, 0, [(host 0, [1#8])], [4]⟩
def sealingIt : State := later ((mirrored 3 0).setMir 3 { (mirrored 3 0).mir 3 with sealing := [sealWait] })
/-- Seat 3 is enabled. -/
def sealingOn : State := sealingIt.updSeat 3 (fun x => { x with cfg := LSeatCfg.ENABLED.set x.cfg 1 })
/-- Items of a journal, one of each kind. -/
def oneOfEach : List JournalItem := [.riser 0 8 0xC000000000 [7#8], .entry 3 5#1024, .runRecord 0 0 2 9#128, .index 0xC010000000 5#256, .stake 1 6#512,
  .shadow (host 64) [3#8, 4#8], .flush 0xC000000000 0 1, .turnBlock 0 8#192]
/-- The partner, compared and not yet synchronised. -/
def partnered : State := (mirrored 1 1).setMir 3 { (mirrored 1 1).mir 3 with paired := true }
/-- The partner's journal ends in an item. -/
def journaled (items : List JournalItem) : State := (mirrored 4 1).setMir 3 { (mirrored 4 1).mir 3 with journal := items }

theorem witness_MirrorRecordsTakeEffect :
    (running .link (mirrored 1 0) = true ∧ mirState (mirrored 1 0) 3 = 1 ∧ 0#256 ≠ mirDigest (mirrored 1 0) 3 ∧
      [mirrored 1 0, mirrored 1 1, partnered, mirrored 4 1, sealingIt].all (fun s => carried s 0 9 1 none (note 1) && fromPeer s 0 (note 1) 3) = true ∧
      ((mirrored 1 0).mir 3).paired = false ∧ (partnered.mir 3).paired = true ∧ partnerFree (mirrored 1 1) 3 = true) ∧
    (mirState (mirrored 2 0) 3 = 2 ∧ mirRole (mirrored 2 0) 3 = 0) ∧
    (mirState partnered 3 = 1 ∧ mirRole partnered 3 = 1 ∧ LMirSt.PEER_LOST.on (partnered.mir 3).state = false) ∧
    ([[], [JournalItem.stake 1 6#512], oneOfEach].all (fun l => mirState (journaled l) 3 == 4 && mirRole (journaled l) 3 == 1 &&
      !LMirSt.PEER_LOST.on ((journaled l).mir 3).state) = true ∧
      holderOf (mirrored 4 1) 0 16384 = none ∧ 0 + 1 * 16384 ≤ 0xC000000000) ∧
    ([sealingIt, sealingOn].all (fun s => mirState s 3 == 3 && mirRole s 3 == 0 && (s.mir 3).sealing == [sealWait] &&
      (s.mir 3).sealing.any (fun w => w.binding == 0 && w.turn == 8) &&
      (s.mir 3).sealing.any (fun w => decide (w.sent + tierTimeout s ≤ now s)) && (holderOf s (host 0) 1).isNone) = true ∧
      seatEnabled sealingOn 3 = true) ∧
    (mirState (later (mirrored 1 0)) 3 = 1 ∧ ((later (mirrored 1 0)).mir 3).paired = false ∧ ((later (mirrored 1 0)).mir 3).since + 10000000000 ≤ now (later (mirrored 1 0)) ∧
      running .banker (later (mirrored 1 0)) = true) := by decide +kernel

/-! ## Boot, supplies, test pins -/

/-- A device in a stage of boot, its fuse of step 0 burned, with more fields of BOOT_STATUS given. -/
def booting (st : Nat) (l : List (Fld × Nat)) (f : State → State := id) : State := f { State.reset with
  pins := { Pins.reset with rstLow := false }
  fuses := { State.reset.fuses with rollback := 1#63 }
  boot := { Boot.reset with status := setAll 0#64 ([(LBootSt.STAGE, st)] ++ l) } }
def imgHeader : Nat := 0x10000000000000000007000041019480f106
def imgSig : Nat := 0x86ab7deab353df2d0ed078c03812884498d35ba78396f0343e0abbe9f18dedf38b271d6fcd616bf2457f24af6c7ce2dad8b2d54c3af718da5cbaaa6601cfedb8a6f53ff47bb1e9f4e91e74299348f9d287051186c8b3f72d7121bcc7b378f49b290567d95b342faad22104e5295c23637d89e5ae1d35fea3a11731ec76d89d71b0fb0d60fbcb8624971569f87312e28f8f9bf35ad77d2e89b637a06f2e701ff509618fd49d98329e9c0d98f7a3b34d82c0e6f7ee18151aab83f6de3b4434552eb5389d183013e8ab7b6522fe6bc8e620f62fc4c54016758149a4839100d47df792af84c0b573e9e5ee03c33f2a73c22b143309484f60cefaff12264355a77c4ac40d4493dcb42fd6ba97cab1a4a77d2b6ba15115f0baa7ab8ef6b9defc8fa53a2825fe691ed9c7ee5408143ad447c30bb930a2c093dd6a41535b8d8d7aea2f87bfba22781e21d10932fb3acce7735d82131e58d0163b858449116a7c84a712e2cca4e57d9ff1ad8de7bd9f530fe00115834eba2c68939454ec51782cfe8ae7bd
def imgKeyHash : BitVec 256 := 0xc7046eefaf740030ea406bc265079aefe166168637486cafb8ad5b01f8af996a#256
def imgBytes : Tab Byte :=
  ((bytesOf imgHeader 64 ++ bytesOf (rsaN + 65537 * 2 ^ 3072) 512).zipIdx.map (fun (e : Byte × Nat) => (e.2, e.1)) ++
    (bytesOf imgSig 384).zipIdx.map (fun (e : Byte × Nat) => (4672 + e.2, e.1))).filter (fun e => e.2 != 0#8)
/-- The source holds a header: the companion window, slot A or slot B. -/
def withHeader (src h : Nat) (s : State) : State := { s with mem := ((bytesOf h 64).zipIdx.map (fun e => (bootKey src + e.2, e.1))).filter (fun e => e.2 != 0#8) }
/-- Its copy in private memory, with the fuses of its key. -/
def copied (s : State) : State := { s with
  boot := { s.boot with copy := imgBytes, header := BitVec.ofNat 512 imgHeader }, fuses := { s.fuses with keyHash := imgKeyHash } }
def headed (svn adv : Nat) (s : State) : State := { s with boot := { s.boot with header := setAll 0#512 [(LFwHd.SVN, svn), (LFwHd.ADVANCE, adv)] } }

theorem test_other_key_block : sha256Nat (copyBytes (booting 5 []) 64 512) ≠ (booting 5 []).fuses.keyHash := by decide +kernel
/-- A part whose KEY_HASH is the hash of a key block of zeros. -/
def fused : State := booting 5 [] (fun s => { s with fuses := { s.fuses with keyHash := 0x6065f3559bb8926cf618223c2b87a86effe4832eddf9473d2ace5a9ec7276a07#256 } })
theorem test_fused_key_block : sha256Nat (copyBytes fused 64 512) = fused.fuses.keyHash := by decide +kernel

theorem witness_BootGoesThroughItsStages :
    (State.reset.pins.rstLow = true ∧ (booting 9 []).pins.rstLow = false ∧ running .power (booting 2 []) = true) ∧
    (atStage (booting 2 []) 2 = true ∧ atStage (booting 3 []) 3 = true ∧ atStage (booting 5 [] copied) 5 = true ∧ atStage fused 5 = true ∧
      atStage (booting 6 []) 6 = true ∧ atStage (booting 7 []) 7 = true ∧ atStage (booting 8 []) 8 = true) ∧
    (atStage (booting 4 [(LBootSt.SOURCE, 1)]) 4 = true ∧ bootSource (booting 4 [(LBootSt.SOURCE, 1)]) ≠ 0 ∧
      magicOk (headerAt (booting 4 [(LBootSt.SOURCE, 1)]) (bootKey 1)) = false) ∧
    (let s := booting 4 [(LBootSt.SOURCE, 0)] (withHeader 0 imgHeader)
     magicOk (headerAt s (bootKey 0)) = true ∧ headerOk (headerAt s (bootKey 0)) = true) ∧
    (let s := booting 4 [(LBootSt.SOURCE, 2)] (withHeader 2 0x9480F106)
     magicOk (headerAt s (bootKey 2)) = true ∧ headerOk (headerAt s (bootKey 2)) = false) ∧
    slotBNext (booting 5 [(LBootSt.SOURCE, 1), (LBootSt.CAUSE, 6)]) = true ∧
    (let s := booting 4 [] (fun s => { s with clk := { s.clk with ticks := 54000000000 } })
     bootSource s = 0 ∧ magicOk (headerAt s (bootKey 0)) = false ∧ s.boot.stage3End + 54000000000 ≤ s.clk.ticks) ∧
    (sha256Nat (copyBytes (booting 5 []) 64 512) ≠ (booting 5 []).fuses.keyHash) ∧
    (sha256Nat (copyBytes fused 64 512) = fused.fuses.keyHash) ∧
    (LFwHd.SVN.get (booting 6 [] (headed 0 1)).boot.header < rollbackCounter (booting 6 [] (headed 0 1)).fuses) ∧
    (LFwHd.ADVANCE.on (booting 6 [] (headed 1 0)).boot.header = false ∧
      rollbackCounter (booting 6 [] (headed 1 0)).fuses ≤ LFwHd.SVN.get (booting 6 [] (headed 1 0)).boot.header) ∧
    (ingotFails [(0, 95, 1), (0, 95, 2)] = true ∧ ingotFails [(0, 95, 33)] = false ∧ failedLanes [(0, 95, 33)] 0 95 = [33]) ∧
    ((booting 8 []).boot.links = false ∧ ({ booting 8 [] with boot := { (booting 8 []).boot with links := true } } : State).boot.links = true) := by
  exact ⟨by decide +kernel, by decide +kernel, by decide +kernel, by decide +kernel, by decide +kernel, by decide +kernel, by decide +kernel,
    test_other_key_block, test_fused_key_block, by decide +kernel⟩

theorem witness_SuppliesSensorsAndTestPins :
    (running .power up = true ∧ up.pins.railLost = false ∧ dieTrip up = false ∧ up.pins.probeSel = none) ∧
    ([some (115 : Int), none, some 116].getD 2 none = some (116 : Int)) ∧
    ({ up with pins := { up.pins with probeSel := some (1, 0) } } : State).pins.probeSel = some (1, 0) ∧
    (smbusReg up 7).isSome = true ∧
    (up.pins.rstLow = false ∧ State.reset.pins.rstLow = true ∧ State.reset.pins.railLost = false) ∧
    (dieTrip { up with pins := { up.pins with sbFault := LSbFault.DIE_TRIP.set up.pins.sbFault 1 } } = true) ∧
    ({ up with pins := { up.pins with alert := true } } : State).pins.alert = true := by decide +kernel

/-! ## The header, the queue, the whole machine -/

/-- A command with bit 19 or bit 255 of its header set. -/
def withRsv (c : Cmd) (n : Nat) : Cmd := { c with hdr := c.hdr ||| (1#256 <<< n) }

theorem witness_UnknownOpcodeAndReservedHeader :
    (running .banker (waiting (cmd 0x0006 [])) = true ∧ nextGrant (waiting (cmd 0x0006 [])) = some 0 ∧
      cmdOpcode (cmdOf (waiting (cmd 0x0006 [])) 0) = 6) ∧
    (nextGrant (waiting (withRsv cCancel 19)) = some 0 ∧ isLong (cmdOf (waiting (withRsv cCancel 19)) 0) = false ∧
      mustHold (waiting (withRsv cCancel 19)) (cmdOf (waiting (withRsv cCancel 19)) 0) = false ∧
      (LCmdHd.rsv.any (fun f => f.get (cmdOf (waiting (withRsv cCancel 19)) 0).hdr != 0)) = true) ∧
    (onCore (preparing (withRsv cMould 255)) 0 = true ∧ heldReady (preparing (withRsv cMould 255)) = false ∧
      isLong (cmdOf (preparing (withRsv cMould 255)) 0) = true ∧
      mustHold (preparing (withRsv cMould 255)) (cmdOf (preparing (withRsv cMould 255)) 0) = false ∧
      (LCmdHd.rsv.any (fun f => f.get (cmdOf (preparing (withRsv cMould 255)) 0).hdr != 0)) = true) ∧
    (nextHeld (holding (withRsv cCancel 255)) = some 0 ∧
      (LCmdHd.rsv.any (fun f => f.get (cmdOf (holding (withRsv cCancel 255)) 0).hdr != 0)) = true) := by decide +kernel

def railGone : State := { up with pins := { up.pins with railLost := true } }
def lockGone : State := { up with pins := { up.pins with pllUnlock := true } }

theorem witness_CommandsActOnlyWithSuppliesLockAndReset :
    railGone.pins.railLost = true ∧ (lockGone.pins.railLost = false ∧ lockGone.pins.pllUnlock = true) ∧ up.pins.rstLow = false ∧
    (State.reset.pins.rstLow = true ∧ powered State.reset = true) := by decide +kernel

/-- Whether the next state, where there is one, has lost a rail. -/
def nextOf (o : Host.Outcome State Fault Refusal) : Option Bool := match o with | .next t => some t.pins.railLost | _ => none
/-- A rail fails, then the SMBus is written. -/
def queued : State := { up with pending := [.railLoss, .smbusWrite] }

theorem witness_StepTakesTheFrontCommand : queued.pending = .railLoss :: [.smbusWrite] ∧
    up.pending = [] ∧ powered up = true ∧ up.pins.rstLow = false := by decide +kernel

theorem witness_FusesOnlyBurn : nextOf (step queued) = some true := by decide +kernel

/-- The memory a device holds after the host wrote one byte there. -/
def wrote : State := { up with mem := [(host 5, 7#8)] }

theorem witness_MemoryStaysCanonical : MemOk wrote ∧ wrote.mem ≠ [] ∧ nextOf (step wrote) = some false := by
  unfold MemOk; decide +kernel

theorem witness_FrameOfEveryCommand : nextOf (exec .railLoss queued) = some true := by decide +kernel

/-! ## Well-formed commands -/

/-- One command too far, or one list too short or long, for each check. -/
def illFormed : List Instr := [
  .cancel ⟨64, 0, 0, 0, 0⟩, .feed ⟨0, 4, 0, 0, 0⟩, .mbCtrlOwnSet 0 64 0, .longCommandPrepared 0 4, .govLimitWrite 0 16 0, .tierCfgWrite 64 0,
  .channelBurstCrcError 0 96 0 0, .refresh 0 384, .pipNop 6144, .mxMma 256 0, .attentionWalk 32 0 0 0, .commitSection 16]
  ++ [
  .requestDone 16384, .hmScrubRead 4, .collTimeout 4, .movePassEnd 4096, .fetchLate 0 0 0, .fetchLate 0 5 0, .linkid 6 0, .linkTrained 7,
  .dieSensorRead (List.replicate 7 none), .govSensorSample 0 (List.replicate 13 none), .avkinAccess 0 (.read 0 0), .avkinAccess 0 (.write 0 65 0),
  .externalAccess 0 0 [⟨5, 0, 0, 8, false, 0⟩], .bootStageFirmware true [(0, 0, 34)]]

theorem test_ill_formed_commands_are_refused : illFormed.all (fun i => !i.wellFormed) = true := by decide +kernel

/-- The same commands at the last value that their check takes. -/
def wellFormedLast : List Instr := [
  .cancel ⟨63, 3, 0, 0, 0⟩, .mbCtrlOwnSet 0 63 3, .govLimitWrite 63 15 0, .channelBurstCrcError 15 95 0 0, .refresh 15 383, .pipNop 6143, .mxMma 255 0,
  .attentionWalk 31 0 0 0, .commitSection 15, .requestDone 16383, .hmScrubRead 3, .movePassEnd 4095, .fetchLate 0 4 0, .linkid 5 0, .linkTrained 6,
  .dieSensorRead (List.replicate 8 none), .avkinAccess 0 (.write 0 64 0), .bootStageFirmware true [(15, 95, 33)]]

theorem test_well_formed_commands_are_taken : wellFormedLast.all (fun i => i.wellFormed) = true := by decide +kernel

/-- The table gives no row bits, so no word spells a command. -/
theorem test_no_word_spells_a_command : decodeTableWord 64 5 = none := by decide

/-! ## The manual's worked examples -/

/-- 03_ingots.md: offset 0x1234_5678 of ingot 1 is read by pip 593. -/
theorem test_page_of_the_example : pagePip 1 (0x12345678 / 16384) = 593 := by decide

/-- 03_ingots.md, the governor settles: D for the next interval in each row of the table. -/
theorem test_governor_settles : nextDuty 1024 268 91 32 95 = 960 ∧ nextDuty 960 261 92 32 95 = 896 ∧
    nextDuty 896 255 93 32 95 = 896 ∧ nextDuty 896 246 92 32 95 = 912 := by decide

/-- 07_matrix.md, after R177: 1.0 and 3 × 2^−26 with u = 40,000 and u = 41,000. -/
theorem test_stochastic_add : (srAdd 0x3F800000 0x33400000 40000).v = 0x3F800000 ∧ (srAdd 0x3F800000 0x33400000 41000).v = 0x3F800001 := by
  decide +kernel

/-- 08_epilogue_vector.md, a residual add in BF16: fused, and with a BF16 intermediate. -/
theorem test_residual_add : toBf16 (f32Add 0x3F80C000 0x3B800000) = 0x3F81 ∧ toBf16 0x3F80C000 = 0x3F81 ∧
    toBf16 (f32Add 0x3F810000 0x3B800000) = 0x3F82 := by decide +kernel

/-- 12_sampling.md, one draw: the scores of tokens 0, 1, 3, 4 and 5; top-k keeps four, top-p three; the largest key wins. -/
def drawScores : List Scored := [(0, 0x40800000), (1, 0x40000000), (3, 0x40400000), (4, 0), (5, 0xC0000000)]
theorem test_draw_example : (topK 4 drawScores).map (·.1) = [0, 1, 3, 4] ∧
    (topP 4 0x3F666666 (topK 4 drawScores)).1.map (·.1) = [0, 3, 1] ∧
    best [(0, 0x40600000), (3, 0x40866666), (1, 0x4019999A)] = some 3 := by decide +kernel

/-- 12_sampling.md, a linear draft: rows 0 and 1 are kept, 510 and 900 delivered, one draft token accepted. -/
def draftEnt : TEnt := { tEnt with draft := [(510, 0), (511, 1), (512, 2)], draws := [some (some 510), some (some 900), some (some 42), some (some 7)] }
theorem test_linear_draft : walkDraft draftEnt 3 0 = [0, 1] := by decide +kernel

/-- 17_boot_identity.md, an advance interrupted by power loss: slot A's SVN 4 below the counter 5; slot B's SVN 7 with fuse 5 burned alone, then both. -/
def advancing (burned svn src : Nat) : State := (fun s => { headed svn 1 s with fuses := { s.fuses with rollback := BitVec.ofNat 63 (2 ^ burned - 1) } })
  (booting 6 [(LBootSt.SOURCE, src), (LBootSt.SVN, svn)])
def bootFields (o : Host.Outcome State Fault Refusal) : List Nat :=
  match o with
  | .next t => [stage t, bootCause t, LBootSt.COUNTER.get t.boot.status, rollbackCounter t.fuses]
  | _ => []
theorem test_rollback_example : bootFields (exec (.bootStageRollback 0) (advancing 5 4 1)) = [6, 8, 5, 5] ∧
    bootFields (exec (.bootStageRollback 1) (advancing 6 7 2)) = [7, 0, 7, 7] := by decide +kernel

/-! ## Published values -/

/-- FIPS 180-4's digest of "abc". -/
theorem test_sha256_abc : (sha256 [0x61, 0x62, 0x63]).take 4 = [0xBA, 0x78, 0x16, 0xBF] := by decide +kernel

/-! ## Single commands -/

/-- Register g1 of pip 5 and its pc after a word. -/
def g1After (i : Instr) (w : W32) : Option (Nat × Nat) :=
  match exec i (onPip w) with
  | .next t => some ((gReg (t.pip 5) 1).toNat, (t.pip 5).pc)
  | _ => none

/-- g1 3 and g2 7: the difference wraps; an immediate of 18 bits is sign-extended; a shift takes five bits. -/
theorem test_pip_integers : g1After (.pipSub 5) (pw 5 1 1 2 0) = some (0xFFFFFFFC, 1) ∧ g1After (.pipAddi 5) (pwi 12 1 2 0x3FFFF) = some (6, 1) ∧
    g1After (.pipShl 5) (pw 9 1 2 7 0) = some (7, 1) ∧ g1After (.pipMul 5) (pw 11 1 3 6 0) = some (0x7F800000, 1) := by decide +kernel

/-- BLT is signed: 3 is not below 0, and the branch is not taken. -/
theorem test_pip_branch : g1After (.pipBlt 5) (pw 0x1A 1 5 0 8) = some (3, 1) := by decide +kernel

end Sys2Proof.Tests
end

section
/-! How the pips' register instructions step, and VRSUM's tree of sums (R80, R87). -/

namespace Sys2Proof.PipCore

open Sys2Proof Sys2Proof.Machine Sys2Proof.Laws

/-! ## Rows of the pips -/

/-- A row whose part runs has its effect. -/
theorem act_of_running {n : Needs} {s : State} (f : State → State) (h : running n s = true) : act n f s = .next (f s) := by
  simp only [running, powered, Bool.and_eq_true, Bool.not_eq_true'] at h
  obtain ⟨⟨hrail, hpll⟩, hready⟩ := h
  simp [act, hrail, hpll, hready]

/-- A pip that is ready for an opcode and not stalled issues its word and has the row's effect (R80, R84). -/
theorem pipRow_of_ready {op p : Nat} {s : State} {stall : State → W32 → Bool} (f : State → W32 → State)
    (h : pipReady op s p = true) (hstall : stall s (pipWord s p) = false) :
    pipRow op p stall f s = .next (f (pipIssue s p) (pipWord s p)) := by
  simp only [pipReady, Bool.and_eq_true, bne_iff_ne, ne_eq] at h
  obtain ⟨⟨⟨⟨⟨hrun, hp⟩, hpip⟩, hbudget⟩, hop⟩, hword⟩ := h
  rw [pipRow, act_of_running _ hrun]
  simp [when, pipOk, hp, hpip, hop, hbudget, hword, hstall]

theorem pipIssue_pip (s : State) (p : Nat) : (pipIssue s p).pip p = { s.pip p with budget := (s.pip p).budget - 1 } :=
  setPip_pip ..

theorem pipIssue_pip_other {p q : Nat} (s : State) (h : q ≠ p) : (pipIssue s p).pip q = s.pip q :=
  setPip_pip_other _ _ _ _ h

theorem pipIssue_ingots (s : State) (p : Nat) : (pipIssue s p).ingots = (s.countIngot (p / 384) 0x0B8 1).ingots := rfl

/-- A ready pip's register instruction has its effect on the pip with one pc of the budget spent, and goes on. -/
theorem pipSteps_of_pipPure {i : Instr} {op p : Nat} {s : State} {f : Pip → W32 → Pip}
    (hrow : exec i s = pipPure op p f s) (h : pipReady op s p = true) :
    PipSteps i s p (pipNext (f { s.pip p with budget := (s.pip p).budget - 1 } (pipWord s p))) := by
  refine ⟨_, hrow.trans (pipRow_of_ready _ h rfl), ?_, fun q hq => ?_, pipIssue_ingots s p, ?_⟩
  · rw [setPip_pip, pipIssue_pip]
  · rw [setPip_pip_other _ _ _ _ hq, pipIssue_pip_other s hq]
  · have hissue : OnlyChanges [.pips, .ingots] s (pipIssue s p) := only_step (pipIssue_only s p) rfl (only_refl _ _)
    exact only_step (state_setPip_only ..) rfl hissue

theorem pipNext_g (x : Pip) : (pipNext x).g = x.g := by
  unfold pipNext
  split
  · split
    · split <;> rfl
    · rfl
  · rfl

/-- The register that an instruction writes holds the value as the pip goes on. -/
theorem gReg_pipGoes_setG (x : Pip) (r : Nat) (v : W32) : gReg (pipGoes (setG x r v)) r = v := by
  rw [gReg, pipGoes, pipNext_g]
  exact get_set_self ..

@[simp] theorem length_vReg (x : Pip) (r : Nat) : (vReg x r).length = 32 := by simp [vReg]

/-! ## The tree of sums -/

/-- One level of pairs by their numbers: result i from values 2i and 2i + 1 (R87). -/
def pairLevel (f : W32 → W32 → W32) (l : List W32) : List W32 :=
  (List.range (l.length / 2)).map (fun i => f (l.getD (2 * i) 0#32) (l.getD (2 * i + 1) 0#32))

theorem length_pairLevel (f : W32 → W32 → W32) (l : List W32) : (pairLevel f l).length = l.length / 2 := by
  simp [pairLevel]

theorem pairLevel_cons_cons (f : W32 → W32 → W32) (a b : W32) (l : List W32) :
    pairLevel f (a :: b :: l) = f a b :: pairLevel f l := by
  have hlen : (a :: b :: l).length / 2 = l.length / 2 + 1 := by simp only [List.length_cons]; omega
  rw [pairLevel, hlen, List.range_succ_eq_map, List.map_cons, List.map_map]
  rfl

/-- Adding adjacent values down a list of even length forms the pairs that `pairLevel` numbers. -/
theorem pairUp_eq_pairLevel (f : W32 → W32 → W32) (l : List W32) (h : 2 ∣ l.length) : pairUp f l = pairLevel f l := by
  match l with
  | [] => rfl
  | [_] => simp at h
  | a :: b :: rest =>
    have hrest : 2 ∣ rest.length := by simpa using h
    rw [pairUp, pairLevel_cons_cons, pairUp_eq_pairLevel f rest hrest]

/-- The tree's k levels over a multiple of 2^k values are k levels of numbered pairs. -/
theorem treeFold_eq_iterate_pairLevel (f : W32 → W32 → W32) (k : Nat) (l : List W32) (h : 2 ^ k ∣ l.length) :
    treeFold f k l = (pairLevel f)^[k] l := by
  induction k generalizing l with
  | zero => rfl
  | succ k ih =>
    rw [pow_succ] at h
    have heven : 2 ∣ l.length := dvd_of_mul_left_dvd h
    have hhalf : 2 ^ k ∣ (pairLevel f l).length := by
      rw [length_pairLevel]
      exact Nat.dvd_div_of_mul_dvd (by rwa [mul_comm])
    rw [treeFold, pairUp_eq_pairLevel f l heven, ih _ hhalf, Function.iterate_succ_apply]

theorem tree_eq_iterate_pairLevel (f : W32 → W32 → W32) (k : Nat) (l : List W32) (h : 2 ^ k ∣ l.length) :
    tree f k l = ((pairLevel f)^[k] l).getD 0 0#32 := by
  rw [tree, treeFold_eq_iterate_pairLevel f k l h, List.headD_eq_head?_getD, List.head?_eq_getElem?,
    List.getD_eq_getElem?_getD]

/-! ## VRSUM -/

/-- The sum of 32 lanes in five levels of numbered pairs (R87). -/
def laneSum (l : List W32) : W32 := ((pairLevel f32Add)^[5] l).getD 0 0#32

theorem exec_pipVrsum (p : Nat) (s : State) : exec (.pipVrsum p) s =
    pipPure 0x2F p (fun x w => setG x (pipA w) (tree f32Add 5 (vReg x (pipB w)))) s := rfl

/-- VRSUM writes the sum of vB's lanes to gA and goes on (R87). -/
theorem pipVrsum_steps {s : State} {p : Nat} (h : pipReady 0x2F s p = true) :
    PipSteps (.pipVrsum p) s p
      (pipGoes (setG (s.pip p) (pipA (pipWord s p)) (laneSum (vReg (s.pip p) (pipB (pipWord s p)))))) := by
  have hsum : tree f32Add 5 (vReg (s.pip p) (pipB (pipWord s p))) = laneSum (vReg (s.pip p) (pipB (pipWord s p))) :=
    tree_eq_iterate_pairLevel f32Add 5 _ (by simp)
  rw [← hsum]
  exact pipSteps_of_pipPure (exec_pipVrsum p s) h

/-- Two pips that are ready for VRSUM with the same lanes get the same sum. -/
theorem pipVrsum_same_sum {s : State} {p q : Nat} (hp : pipReady 0x2F s p = true) (hq : pipReady 0x2F s q = true)
    (hv : vReg (s.pip q) (pipB (pipWord s q)) = vReg (s.pip p) (pipB (pipWord s p))) :
    ∃ t u, exec (.pipVrsum p) s = .next t ∧ exec (.pipVrsum q) s = .next u ∧
      gReg (u.pip q) (pipA (pipWord s q)) = gReg (t.pip p) (pipA (pipWord s p)) := by
  obtain ⟨t, ht, htp, -⟩ := pipVrsum_steps hp
  obtain ⟨u, hu, huq, -⟩ := pipVrsum_steps hq
  refine ⟨t, u, ht, hu, ?_⟩
  rw [htp, huq, gReg_pipGoes_setG, gReg_pipGoes_setG, hv]

/-- Settles O33: the tree over 32 lanes is five levels of numbered pairs, and depends on the lanes alone. -/
theorem vrsumAddsInFiveLevels : Obligations.VrsumAddsInFiveLevels := by
  intro s p h
  exact ⟨pipVrsum_steps h, fun _ hq hv => pipVrsum_same_sum h hq hv⟩

end Sys2Proof.PipCore
end

section
/-! What the mailbox service answers to an OPCODE outside the catalogue and to an RSV bit of the header (R391). -/

namespace Sys2Proof.MailboxService

open Sys2Proof Sys2Proof.Machine Sys2Proof.Laws
open Sys2Proof.PipCore (act_of_running)

/-! ## Fields -/

/-- Two fields have no bit in common. -/
def FieldsApart (f g : Fld) : Prop := f.lo + f.w ≤ g.lo ∨ g.lo + g.w ≤ f.lo

/-- A field holds what was written to it, cut to its width. -/
theorem get_set_same {n : Nat} (f : Fld) (x : BitVec n) (v : Nat) (h : f.lo + f.w ≤ n) : f.get (f.set x v) = v % 2 ^ f.w := by
  have hbits : (f.set x v).extractLsb' f.lo f.w = BitVec.ofNat f.w v := by
    ext i hi
    have hn : f.lo + i < n := by omega
    simp [Fld.set, hn, hi]
  rw [Fld.get, hbits, BitVec.toNat_ofNat]

/-- Writing a field leaves a field apart from it. -/
theorem get_set_apart {n : Nat} {f g : Fld} (x : BitVec n) (v : Nat) (h : FieldsApart f g) : f.get (g.set x v) = f.get x := by
  have hbits : (g.set x v).extractLsb' f.lo f.w = x.extractLsb' f.lo f.w := by
    ext i hi
    rcases h with h | h
    · have hbelow : f.lo + i < g.lo := by omega
      simpa [Fld.set, hbelow] using BitVec.lt_of_getLsbD
    · have habove : ¬f.lo + i - g.lo < g.w := by omega
      have hcut : (BitVec.ofNat g.w v).getLsbD (f.lo + i - g.lo) = false := BitVec.getLsbD_of_ge _ _ (by omega)
      simpa [Fld.set, habove, hcut] using BitVec.lt_of_getLsbD
  rw [Fld.get, hbits, Fld.get]

theorem get_setAll_apart {n : Nat} {f : Fld} (x : BitVec n) {l : List (Fld × Nat)} (h : ∀ e ∈ l, FieldsApart f e.1) :
    f.get (setAll x l) = f.get x := by
  induction l generalizing x with
  | nil => rfl
  | cons e l ih =>
    obtain ⟨he, hl⟩ := List.forall_mem_cons.mp h
    calc f.get (setAll x (e :: l)) = f.get (setAll (e.1.set x e.2) l) := rfl
      _ = f.get (e.1.set x e.2) := ih _ hl
      _ = f.get x := get_set_apart x e.2 he

/-- A field written before fields apart from it holds what was written. -/
theorem get_setAll_cons {n : Nat} {f : Fld} (x : BitVec n) (v : Nat) {l : List (Fld × Nat)} (hf : f.lo + f.w ≤ n)
    (h : ∀ e ∈ l, FieldsApart f e.1) : f.get (setAll x ((f, v) :: l)) = v % 2 ^ f.w :=
  (get_setAll_apart (f.set x v) h).trans (get_set_same f x v hf)

/-- A field of the low word is the same with anything appended above the word. -/
theorem get_append_above {m n : Nat} (f : Fld) (x : BitVec m) (y : Nat) (hm : f.lo + f.w ≤ m) (hn : m ≤ n) :
    f.get (BitVec.ofNat n (x.toNat + y * 2 ^ m)) = f.get x := by
  have hbits : (BitVec.ofNat n (x.toNat + y * 2 ^ m)).extractLsb' f.lo f.w = x.extractLsb' f.lo f.w := by
    ext i hi
    have hlow : f.lo + i < m := by omega
    have hlown : f.lo + i < n := by omega
    simp [BitVec.getLsbD, hlown, mul_comm y, add_comm x.toNat, Nat.testBit_two_pow_mul_add y x.isLt, hlow]
  rw [Fld.get, hbits, Fld.get]

/-! ## The catalogue and the header -/

/-- The OPCODEs of the catalogue (R398). -/
def catalogue : List Nat := [0x01, 0x02, 0x03, 0x04, 0x05, 0x10, 0x11, 0x12, 0x13, 0x20, 0x21, 0x22, 0x30, 0x31, 0x32,
  0x40, 0x41, 0x42, 0x43]

theorem opOf_eq_none {n : Nat} (h : n ∉ catalogue) : opOf n = none := by
  unfold opOf
  split
  case h_20 => rfl
  all_goals exact absurd (by decide) h

theorem exists_opOf {n : Nat} (h : n ∈ catalogue) : ∃ op, opOf n = some op := by
  have hall : ∀ n ∈ catalogue, (opOf n).isSome = true := by decide
  exact Option.isSome_iff_exists.mp (hall n h)

/-- Every long command's OPCODE is in the catalogue (R393). -/
theorem isLong_eq_false {c : Cmd} (h : cmdOpcode c ∉ catalogue) : isLong c = false := by
  unfold isLong
  split
  case h_5 => rfl
  all_goals next hop => exact absurd (by rw [hop]; decide) h

/-- The header holds a 1 in an RSV bit. -/
def Reserved (c : Cmd) : Prop := ∃ f, f ∈ LCmdHd.rsv ∧ f.get c.hdr ≠ 0

/-- An RSV bit of the header fails the first of the checks ahead of every command, in whatever state (R391, R408). -/
theorem headerStatus_of_reserved {c : Cmd} (h : Reserved c) (s : State) : headerStatus s c = St.range := by
  have hrsv : rsvZero LCmdHd.rsv c.hdr = false := by
    obtain ⟨f, hf, hbit⟩ := h
    exact List.all_eq_false.mpr ⟨f, hf, by simpa using hbit⟩
  simp [headerStatus, firstFail, hrsv]

/-! ## What an answer leaves -/

/-- What completing mailbox k's command may change (R391): the mailbox, a seat's interrupt status, the messages sent, and in the
banker's state what the service counts and points to. -/
structure AnswerFrame (k : Nat) (s t : State) : Prop where
  only : OnlyChanges [.clk, .bank, .mboxes, .seats, .out] s t
  riserSets : t.bank.riserSets = s.bank.riserSets
  tierCfg : t.bank.tierCfg = s.bank.tierCfg
  challenge : t.bank.challenge = s.bank.challenge
  events : t.bank.events = s.bank.events
  mbox : ∀ j, j ≠ k → t.mbox j = s.mbox j

theorem AnswerFrame.trans {k : Nat} {s t u : State} (h1 : AnswerFrame k s t) (h2 : AnswerFrame k t u) : AnswerFrame k s u where
  only := only_step h2.only (by decide) h1.only
  riserSets := h2.riserSets.trans h1.riserSets
  tierCfg := h2.tierCfg.trans h1.tierCfg
  challenge := h2.challenge.trans h1.challenge
  events := h2.events.trans h1.events
  mbox j hj := (h2.mbox j hj).trans (h1.mbox j hj)

/-- Writing the pointers, lists and counters of the service stays within an answer's frame. -/
theorem answerFrame_bank (k : Nat) (s : State) {b : Banker} (hrs : b.riserSets = s.bank.riserSets)
    (htc : b.tierCfg = s.bank.tierCfg) (hch : b.challenge = s.bank.challenge) (hev : b.events = s.bank.events) :
    AnswerFrame k s { s with bank := b } where
  only := only_step (set_bank_only s b) (by decide) (only_refl _ s)
  riserSets := hrs
  tierCfg := htc
  challenge := hch
  events := hev
  mbox _ _ := rfl

theorem answerFrame_setMbox (k : Nat) (s : State) (x : Mbox) : AnswerFrame k s (s.setMbox k x) where
  only := only_step (state_setMbox_only s k x) (by decide) (only_refl _ s)
  riserSets := rfl
  tierCfg := rfl
  challenge := rfl
  events := rfl
  mbox _ hj := setMbox_mbox_other s _ _ x hj

theorem raise_bank (s : State) (n v cause : Nat) : (raise s n v cause).bank = s.bank :=
  (raise_only s n v cause).same .bank (by decide)

theorem raise_mbox (s : State) (n v cause k : Nat) : (raise s n v cause).mbox k = s.mbox k :=
  congrArg (Tab.get · Mbox.reset k) ((raise_only s n v cause).same .mboxes (by decide))

theorem answerFrame_raise (k : Nat) (s : State) (n v cause : Nat) : AnswerFrame k s (raise s n v cause) where
  only := only_step (raise_only s n v cause) (by decide) (only_refl _ s)
  riserSets := by rw [raise_bank]
  tierCfg := by rw [raise_bank]
  challenge := by rw [raise_bank]
  events := by rw [raise_bank]
  mbox _ _ := raise_mbox ..

theorem answerFrame_grantMb (s : State) (k : Nat) : AnswerFrame k s (grantMb s k) :=
  (answerFrame_setMbox k s _).trans (answerFrame_bank k _ rfl rfl rfl rfl)

theorem answerFrame_applyTime (k : Nat) (s : State) : AnswerFrame k s (applyTime s) :=
  answerFrame_bank k s rfl rfl rfl rfl

/-! ## The answer -/

/-- Mailbox k's command has completed with a status: the mailbox holds it and is the host's again, and nothing else has changed
(R388, R390). -/
structure Completes (k st : Nat) (s t : State) : Prop where
  status : LRspHd.STATUS.get (t.mbox k).rsp = st
  own : LMbCtrl.OWN.get (t.mbox k).ctrl = 0
  frame : AnswerFrame k s t

/-- A command that the service has taken up completes from the state before that. -/
theorem Completes.after {k st : Nat} {s t u : State} (h2 : Completes k st t u) (h1 : AnswerFrame k s t) : Completes k st s u where
  status := h2.status
  own := h2.own
  frame := h1.trans h2.frame

/-- The response's interrupt leaves the completed mailbox as it is. -/
theorem Completes.raise {k st : Nat} {s t : State} (h : Completes k st s t) (n v cause : Nat) :
    Completes k st s (raise t n v cause) where
  status := by rw [raise_mbox]; exact h.status
  own := by rw [raise_mbox]; exact h.own
  frame := h.frame.trans (answerFrame_raise ..)

theorem respondAt_completes (s : State) (c : Cmd) (held : Bool) (bt applied : Nat) {r : Rsp} (hr : r.status < 65536) :
    Completes (cmdMb c) r.status s (respondAt s c held bt applied r) := by
  unfold respondAt
  extract_lets m seq hd m' written _ answered
  have hstatus : LRspHd.STATUS.get m'.rsp = r.status :=
    calc LRspHd.STATUS.get m'.rsp
      _ = LRspHd.STATUS.get hd := get_append_above _ hd _ (by decide) (by decide)
      _ = r.status % 2 ^ 16 := get_setAll_cons _ _ (by decide) (by simp [FieldsApart, LRspHd.STATUS, LRspHd.OPCODE,
          LRspHd.SEQ, LRspHd.WASHELD, LRspHd.TAG, LRspHd.APPLIED, LRspHd.BTURN])
      _ = r.status := Nat.mod_eq_of_lt hr
  have hown : LMbCtrl.OWN.get m'.ctrl = 0 :=
    get_setAll_cons (LMbCtrl.SEQ.set m.ctrl seq) 0 (by decide) (by simp [FieldsApart, LMbCtrl.OWN, LMbCtrl.ACTIVE, LMbCtrl.HELD])
  have hmbox : answered.mbox (cmdMb c) = m' := setMbox_mbox ..
  have hanswered : Completes (cmdMb c) r.status s answered :=
    ⟨by rw [hmbox, hstatus], by rw [hmbox, hown],
      (answerFrame_setMbox _ s m').trans (answerFrame_bank _ written rfl rfl rfl rfl)⟩
  split
  · exact hanswered.raise ..
  · exact hanswered

/-- An OPCODE outside the catalogue completes with E_OPCODE (R391). -/
theorem applyUnknown_completes (c : Cmd) (s : State) : Completes (cmdMb c) St.opcode s (applyUnknown c s) :=
  (respondAt_completes _ c false 0 _ (r := Rsp.of St.opcode) (by decide)).after
    ((answerFrame_applyTime _ s).trans (answerFrame_bank _ _ rfl rfl rfl rfl))

/-- A command with an RSV bit in its header completes with E_RANGE (R391). -/
theorem applyCmd_completes_of_reserved (op : CmdOp) {c : Cmd} (held : Bool) (s : State) (h : Reserved c) :
    Completes (cmdMb c) St.range s (applyCmd op c held s) := by
  unfold applyCmd
  extract_lets timed _ counted bt
  have hcounted : AnswerFrame (cmdMb c) s counted :=
    (answerFrame_applyTime _ s).trans (answerFrame_bank _ timed rfl rfl rfl rfl)
  rw [headerStatus_of_reserved h, if_pos (by decide)]
  exact (respondAt_completes counted c held bt _ (r := Rsp.of St.range) (by decide)).after hcounted

/-! ## The service -/

theorem serve_completes_of_unknown {c : Cmd} (s : State) (hop : cmdOpcode c ∉ catalogue) :
    Completes (cmdMb c) St.opcode s (serve c s) := by
  rw [serve, opOf_eq_none hop]
  exact applyUnknown_completes c s

theorem serve_completes_of_reserved {c : Cmd} {s : State} (hop : cmdOpcode c ∈ catalogue) (hhold : mustHold s c = false)
    (h : Reserved c) : Completes (cmdMb c) St.range s (serve c s) := by
  obtain ⟨op, hop⟩ := exists_opOf hop
  simp only [serve, hop, applyOrHold, hhold]
  exact applyCmd_completes_of_reserved op false s h

/-- A mailbox's command answers to that mailbox. -/
theorem cmdMb_cmdOf (s : State) (k : Nat) : cmdMb (cmdOf s k) = k := Nat.div_add_mod k 4

/-- The grant of a short command serves it. -/
theorem mailboxGrant_of_short {s : State} {k : Nat} (hk : nextGrant s = some k) (hlong : isLong (cmdOf s k) = false) :
    mailboxGrant s = serve (cmdOf s k) (grantMb s k) := by
  simp [mailboxGrant, hk, hlong]

theorem mailboxGrant_completes_of_unknown {s : State} {k : Nat} (hk : nextGrant s = some k)
    (hop : cmdOpcode (cmdOf s k) ∉ catalogue) : Completes k St.opcode s (mailboxGrant s) := by
  have hserved := serve_completes_of_unknown (grantMb s k) hop
  rw [cmdMb_cmdOf] at hserved
  rw [mailboxGrant_of_short hk (isLong_eq_false hop)]
  exact hserved.after (answerFrame_grantMb s k)

theorem mailboxGrant_completes_of_reserved {s : State} {k : Nat} (hk : nextGrant s = some k)
    (hop : cmdOpcode (cmdOf s k) ∈ catalogue) (hlong : isLong (cmdOf s k) = false) (hhold : mustHold s (cmdOf s k) = false)
    (h : Reserved (cmdOf s k)) : Completes k St.range s (mailboxGrant s) := by
  have hgranted : mustHold (grantMb s k) (cmdOf s k) = false := hhold
  have hserved := serve_completes_of_reserved hop hgranted h
  rw [cmdMb_cmdOf] at hserved
  rw [mailboxGrant_of_short hk hlong]
  exact hserved.after (answerFrame_grantMb s k)

theorem longPrepared_completes_of_reserved {s : State} {k : Nat} (hlong : isLong (cmdOf s k) = true)
    (hhold : mustHold s (cmdOf s k) = false) (h : Reserved (cmdOf s k)) : Completes k St.range s (longPrepared k s) := by
  have hop : cmdOpcode (cmdOf s k) ∈ catalogue := by
    by_contra hop
    exact absurd hlong (by simp [isLong_eq_false hop])
  have hserved : Completes _ St.range _ (longPrepared k s) := serve_completes_of_reserved hop hhold h
  rw [cmdMb_cmdOf] at hserved
  exact hserved.after (answerFrame_bank k s rfl rfl rfl rfl)

/-- A held command whose hold has ended leaves the list of held ones and is applied (R394). -/
theorem heldApply_of_next {s : State} {k : Nat} {op : CmdOp} (hk : nextHeld s = some k)
    (hop : opOf (cmdOpcode (cmdOf s k)) = some op) :
    heldApply s = applyCmd op (cmdOf s k) true { s with bank := { s.bank with held := s.bank.held.erase k } } := by
  have hcmd (b : Banker) : cmdOf { s with bank := b } k = cmdOf s k := rfl
  simp only [heldApply, hk, hcmd, hop]

theorem heldApply_completes_of_reserved {s : State} {k : Nat} (hk : nextHeld s = some k)
    (hop : cmdOpcode (cmdOf s k) ∈ catalogue) (h : Reserved (cmdOf s k)) : Completes k St.range s (heldApply s) := by
  obtain ⟨op, hop⟩ := exists_opOf hop
  rw [heldApply_of_next hk hop]
  have happlied := applyCmd_completes_of_reserved op true { s with bank := { s.bank with held := s.bank.held.erase k } } h
  rw [cmdMb_cmdOf] at happlied
  exact happlied.after (answerFrame_bank k s rfl rfl rfl rfl)

/-! ## The rows -/

/-- A row of the banker runs with its effect. -/
theorem exec_mailboxGrant {s : State} (h : running .banker s = true) : exec .mailboxGrant s = .next (mailboxGrant s) :=
  act_of_running mailboxGrant h

theorem exec_heldCommandApply {s : State} (h : running .banker s = true) : exec .heldCommandApply s = .next (heldApply s) :=
  act_of_running heldApply h

/-- A preparation that ends while no held command waits is followed by the command (R393, R394). -/
theorem exec_longCommandPrepared {s : State} {seat m : Nat} (h : running .banker s = true) (hseat : seat < 64) (hm : m < 4)
    (hcore : onCore s (4 * seat + m) = true) (hheld : heldReady s = false) :
    exec (.longCommandPrepared seat m) s = .next (longPrepared (4 * seat + m) s) := by
  refine (act_of_running _ h).trans ?_
  simp [when, hseat, hm, hcore, hheld]

/-- Settles O53: whichever way the service reaches the command, the OPCODE and the header are checked before anything else,
and the failed check's answer keeps to its frame. -/
theorem unknownOpcodeAndReservedHeader : Obligations.UnknownOpcodeAndReservedHeader := by
  intro s k seat m hrun catalogue reserved ends
  have hends : ∀ {k st : Nat} {t : State}, Completes k st s t → ends k st t := fun ⟨hstatus, hown, hframe⟩ =>
    ⟨hstatus, hown, hframe.only, hframe.riserSets, hframe.tierCfg, hframe.challenge, hframe.events, hframe.mbox⟩
  refine ⟨fun hk hop => ?_, fun hk hop hlong hhold h => ?_, fun hseat hm hcore hheld hlong hhold h => ?_, fun hk hop h => ?_⟩
  · exact ⟨_, exec_mailboxGrant hrun, hends (mailboxGrant_completes_of_unknown hk hop)⟩
  · exact ⟨_, exec_mailboxGrant hrun, hends (mailboxGrant_completes_of_reserved hk hop hlong hhold h)⟩
  · exact ⟨_, exec_longCommandPrepared hrun hseat hm hcore hheld, hends (longPrepared_completes_of_reserved hlong hhold h)⟩
  · exact ⟨_, exec_heldCommandApply hrun, hends (heldApply_completes_of_reserved hk hop h)⟩

end Sys2Proof.MailboxService
end

section
/-! The machine as a whole: the frame of every command and of a tick, when commands act, the queue, the values at reset. -/

namespace Sys2Proof.Whole

open Sys2Proof Sys2Proof.Machine Sys2Proof.Laws

/-! ## The frame of a step -/

/-- What a command may change, arm by arm of the table (R2). -/
theorem exec_only : ∀ (i : Instr) {s t : State}, exec i s = .next t → OnlyChanges (frameOf i) s t
  | .admitReq _, _, _, h => execAdmitReq_only h
  | .feed _, _, _, h => execFeed_only h
  | .cancel _, _, _, h => execCancel_only h
  | .pause _, _, _, h => execPause_only h
  | .resume _, _, _, h => execResume_only h
  | .placeCreate _, _, _, h => execPlaceCreate_only h
  | .placeMove _, _, _, h => execPlaceMove_only h
  | .placeFlush _, _, _, h => execPlaceFlush_only h
  | .placeDrop _, _, _, h => execPlaceDrop_only h
  | .placeDestroy _, _, _, h => execPlaceDestroy_only h
  | .bindLoad _, _, _, h => execBindLoad_only h
  | .variantAdd _, _, _, h => execVariantAdd_only h
  | .variantRemove _, _, _, h => execVariantRemove_only h
  | .bindClear _, _, _, h => execBindClear_only h
  | .unbind _, _, _, h => execUnbind_only h
  | .mould _, _, _, h => execMould_only h
  | .stakeAssign _, _, _, h => execStakeAssign_only h
  | .stakeUpdate _, _, _, h => execStakeUpdate_only h
  | .stakeRelease _, _, _, h => execStakeRelease_only h
  | .seatSetWindow _, _, _, h => execSeatSetWindow_only h
  | .seatSetQuota _, _, _, h => execSeatSetQuota_only h
  | .seatSetConfig _, _, _, h => execSeatSetConfig_only h
  | .seatSetAttach _, _, _, h => execSeatSetAttach_only h
  | .seatSetDetach _, _, _, h => execSeatSetDetach_only h
  | .seatSetRisers _, _, _, h => execSeatSetRisers_only h
  | .seatReset _, _, _, h => execSeatReset_only h
  | .plan _, _, _, h => execPlan_only h
  | .sliceForm _, _, _, h => execSliceForm_only h
  | .sliceDissolve _, _, _, h => execSliceDissolve_only h
  | .sliceHold _, _, _, h => execSliceHold_only h
  | .sliceContinue _, _, _, h => execSliceContinue_only h
  | .sliceReset _, _, _, h => execSliceReset_only h
  | .sliceCut _, _, _, h => execSliceCut_only h
  | .sliceUncut _, _, _, h => execSliceUncut_only h
  | .mirrorPair _, _, _, h => execMirrorPair_only h
  | .mirrorUnpair _, _, _, h => execMirrorUnpair_only h
  | .mirrorTakeover _, _, _, h => execMirrorTakeover_only h
  | .tally _, _, _, h => execTally_only h
  | .ident _, _, _, h => execIdent_only h
  | .attest _, _, _, h => execAttest_only h
  | .probeChallenge _, _, _, h => execProbeChallenge_only h
  | .probeUnlock _, _, _, h => execProbeUnlock_only h
  | .probeSelect _, _, _, h => execProbeSelect_only h
  | .probeOff _, _, _, h => execProbeOff_only h
  | .mbCtrlOwnSet _ _ _, _, _, h => execMbCtrlOwnSet_only h
  | .mailboxGrant, _, _, h => execMailboxGrant_only h
  | .longCommandPrepared _ _, _, _, h => execLongCommandPrepared_only h
  | .heldCommandApply, _, _, h => execHeldCommandApply_only h
  | .govLimitWrite _ _ _, _, _, h => execGovLimitWrite_only h
  | .tierCfgWrite _ _, _, _, h => execTierCfgWrite_only h
  | .timeCfgWrite _ _, _, _, h => execTimeCfgWrite_only h
  | .controlSpaceWrite _ _ _ _, _, _, h => execControlSpaceWrite_only h
  | .avkinAccess _ _, _, _, h => execAvkinAccess_only h
  | .fabricLoad _ _, _, _, h => execFabricLoad_only h
  | .fabricStore _ _, _, _, h => execFabricStore_only h
  | .fabricAtomic _ _, _, _, h => execFabricAtomic_only h
  | .bulkGet _ _, _, _, h => execBulkGet_only h
  | .bulkData _ _, _, _, h => execBulkData_only h
  | .fabricAck _ _, _, _, h => execFabricAck_only h
  | .fabricResponse _ _, _, _, h => execFabricResponse_only h
  | .fence _, _, _, h => execFence_only h
  | .packetForward _ _, _, _, h => execPacketForward_only h
  | .linkTrained _, _, _, h => execLinkTrained_only h
  | .linkTrainingLost _, _, _, h => execLinkTrainingLost_only h
  | .linkid _ _, _, _, h => execLinkid_only h
  | .linkPacketError _ _ _, _, _, h => execLinkPacketError_only h
  | .torusTrainingAttempt _ _, _, _, h => execTorusTrainingAttempt_only h
  | .channelBurstCrcError _ _ _ _, _, _, h => execChannelBurstCrcError_only h
  | .laneTest, _, _, h => execLaneTest_only h
  | .spareRetrainDone _ _ _, _, _, h => execSpareRetrainDone_only h
  | .laneHandover _ _, _, _, h => execLaneHandover_only h
  | .linkLaneRetrain _ _, _, _, h => execLinkLaneRetrain_only h
  | .linkForced _ _, _, _, h => execLinkForced_only h
  | .timeSyncExchange _ _ _ _ _, _, _, h => execTimeSyncExchange_only h
  | .refresh _ _, _, _, h => execRefresh_only h
  | .hmScrubRead _, _, _, h => execHmScrubRead_only h
  | .govSensorSample _ _, _, _, h => execGovSensorSample_only h
  | .govIntervalEnd _ _, _, _, h => execGovIntervalEnd_only h
  | .externalAccess _ _ _, _, _, h => execExternalAccess_only h
  | .deferredWriteDrain _ _, _, _, h => execDeferredWriteDrain_only h
  | .lockExpiry _ _, _, _, h => execLockExpiry_only h
  | .desc _ _ _ _, _, _, h => execDesc_only h
  | .descMasked _ _ _ _ _, _, _, h => execDescMasked_only h
  | .query _ _ _ _, _, _, h => execQuery_only h
  | .close _ _ _, _, _, h => execClose_only h
  | .dispatchRelease _ _ _, _, _, h => execDispatchRelease_only h
  | .descriptorStart _, _, _, h => execDescriptorStart_only h
  | .rowStreamBeat _, _, _, h => execRowStreamBeat_only h
  | .pipNop _, _, _, h => execPipNop_only h
  | .pipEnd _, _, _, h => execPipEnd_only h
  | .pipAdd _, _, _, h => execPipAdd_only h
  | .pipSub _, _, _, h => execPipSub_only h
  | .pipAnd _, _, _, h => execPipAnd_only h
  | .pipOr _, _, _, h => execPipOr_only h
  | .pipXor _, _, _, h => execPipXor_only h
  | .pipShl _, _, _, h => execPipShl_only h
  | .pipShr _, _, _, h => execPipShr_only h
  | .pipMul _, _, _, h => execPipMul_only h
  | .pipAddi _, _, _, h => execPipAddi_only h
  | .pipAndi _, _, _, h => execPipAndi_only h
  | .pipShri _, _, _, h => execPipShri_only h
  | .pipShli _, _, _, h => execPipShli_only h
  | .pipLui _, _, _, h => execPipLui_only h
  | .pipLdw _, _, _, h => execPipLdw_only h
  | .pipStw _, _, _, h => execPipStw_only h
  | .pipFadd _, _, _, h => execPipFadd_only h
  | .pipFsub _, _, _, h => execPipFsub_only h
  | .pipFmul _, _, _, h => execPipFmul_only h
  | .pipFmax _, _, _, h => execPipFmax_only h
  | .pipFexp2 _, _, _, h => execPipFexp2_only h
  | .pipBeq _, _, _, h => execPipBeq_only h
  | .pipBne _, _, _, h => execPipBne_only h
  | .pipBlt _, _, _, h => execPipBlt_only h
  | .pipBge _, _, _, h => execPipBge_only h
  | .pipRep _, _, _, h => execPipRep_only h
  | .pipRstr _, _, _, h => execPipRstr_only h
  | .pipStb _, _, _, h => execPipStb_only h
  | .pipMac _, _, _, h => execPipMac_only h
  | .pipScx _, _, _, h => execPipScx_only h
  | .pipVzero _, _, _, h => execPipVzero_only h
  | .pipVadd _, _, _, h => execPipVadd_only h
  | .pipVmul _, _, _, h => execPipVmul_only h
  | .pipVfma _, _, _, h => execPipVfma_only h
  | .pipVmax _, _, _, h => execPipVmax_only h
  | .pipVadds _, _, _, h => execPipVadds_only h
  | .pipVmuls _, _, _, h => execPipVmuls_only h
  | .pipVexp2 _, _, _, h => execPipVexp2_only h
  | .pipVrmax _, _, _, h => execPipVrmax_only h
  | .pipVrsum _, _, _, h => execPipVrsum_only h
  | .pipVmsk _, _, _, h => execPipVmsk_only h
  | .pipVld _, _, _, h => execPipVld_only h
  | .pipVst _, _, _, h => execPipVst_only h
  | .pipEmit _, _, _, h => execPipEmit_only h
  | .resultRecord _, _, _, h => execResultRecord_only h
  | .mergedTriple _ _ _, _, _, h => execMergedTriple_only h
  | .clusterPathPartial _ _ _ _ _ _ _, _, _, h => execClusterPathPartial_only h
  | .headOutput _ _ _ _ _ _, _, _, h => execHeadOutput_only h
  | .mergeTimeout _ _ _, _, _, h => execMergeTimeout_only h
  | .attentionWalk _ _ _ _, _, _, h => execAttentionWalk_only h
  | .pipWeightProduct _ _, _, _, h => execPipWeightProduct_only h
  | .tileMove _ _ _ _ _, _, _, h => execTileMove_only h
  | .ringFillComplete _, _, _, h => execRingFillComplete_only h
  | .mxMma _ _, _, _, h => execMxMma_only h
  | .mxStat _ _, _, _, h => execMxStat_only h
  | .mxSetstat _ _, _, _, h => execMxSetstat_only h
  | .spillDrain _, _, _, h => execSpillDrain_only h
  | .mmaFinish _, _, _, h => execMmaFinish_only h
  | .epilogue _, _, _, h => execEpilogue_only h
  | .vxCvt _ _, _, _, h => execVxCvt_only h
  | .vxAdd _ _, _, _, h => execVxAdd_only h
  | .vxSub _ _, _, _, h => execVxSub_only h
  | .vxMul _ _, _, _, h => execVxMul_only h
  | .vxAxpy _ _, _, _, h => execVxAxpy_only h
  | .vxMax _ _, _, _, h => execVxMax_only h
  | .vxMin _ _, _, _, h => execVxMin_only h
  | .vxClamp _ _, _, _, h => execVxClamp_only h
  | .vxRelu _ _, _, _, h => execVxRelu_only h
  | .vxSilu _ _, _, _, h => execVxSilu_only h
  | .vxGelut _ _, _, _, h => execVxGelut_only h
  | .vxExp2 _ _, _, _, h => execVxExp2_only h
  | .vxRsqrt _ _, _, _, h => execVxRsqrt_only h
  | .vxDiv _ _, _, _, h => execVxDiv_only h
  | .vxSelect _ _, _, _, h => execVxSelect_only h
  | .vxRowsum _ _, _, _, h => execVxRowsum_only h
  | .vxRowssq _ _, _, _, h => execVxRowssq_only h
  | .vxRowmax _ _, _, _, h => execVxRowmax_only h
  | .vxRowamax _ _, _, _, h => execVxRowamax_only h
  | .vxRms _ _, _, _, h => execVxRms_only h
  | .vxRot _ _, _, _, h => execVxRot_only h
  | .vxQuant _ _, _, _, h => execVxQuant_only h
  | .vxMerge _ _, _, _, h => execVxMerge_only h
  | .vxFinal _ _, _, _, h => execVxFinal_only h
  | .splitPartialAdd _ _ _ _ _ _, _, _, h => execSplitPartialAdd_only h
  | .splitTimeout _, _, _, h => execSplitTimeout_only h
  | .collPut _ _, _, _, h => execCollPut_only h
  | .collWait _ _, _, _, h => execCollWait_only h
  | .collAllreduce _ _ _, _, _, h => execCollAllreduce_only h
  | .collAllgather _ _ _, _, _, h => execCollAllgather_only h
  | .collBcast _ _ _, _, _, h => execCollBcast_only h
  | .collTimeout _, _, _, h => execCollTimeout_only h
  | .provisionalCompose _, _, _, h => execProvisionalCompose_only h
  | .slotGrant, _, _, h => execSlotGrant_only h
  | .gatherComplete, _, _, h => execGatherComplete_only h
  | .leadInStart, _, _, h => execLeadInStart_only h
  | .layersComplete, _, _, h => execLayersComplete_only h
  | .diceRowDraw _, _, _, h => execDiceRowDraw_only h
  | .sampleComplete, _, _, h => execSampleComplete_only h
  | .commitSection _, _, _, h => execCommitSection_only h
  | .ringWriteLost _ _, _, _, h => execRingWriteLost_only h
  | .releasePhase _, _, _, h => execReleasePhase_only h
  | .weightReread _ _ _ _ _, _, _, h => execWeightReread_only h
  | .flushComplete _ _ _ _, _, _, h => execFlushComplete_only h
  | .seedCopyComplete _ _, _, _, h => execSeedCopyComplete_only h
  | .pauseTailComplete _, _, _, h => execPauseTailComplete_only h
  | .pauseTailRetry _, _, _, h => execPauseTailRetry_only h
  | .parkCopyComplete _ _, _, _, h => execParkCopyComplete_only h
  | .returnCopyComplete _ _, _, _, h => execReturnCopyComplete_only h
  | .evictionNotice _, _, _, h => execEvictionNotice_only h
  | .parkSpaceRelease _ _, _, _, h => execParkSpaceRelease_only h
  | .parkReleaseAck _, _, _, h => execParkReleaseAck_only h
  | .parkReleaseTimeout _, _, _, h => execParkReleaseTimeout_only h
  | .ownerChange _ _ _, _, _, h => execOwnerChange_only h
  | .movePassEnd _, _, _, h => execMovePassEnd_only h
  | .placeOperationEnd _, _, _, h => execPlaceOperationEnd_only h
  | .fetchLate _ _ _, _, _, h => execFetchLate_only h
  | .fetchTimeout _ _, _, _, h => execFetchTimeout_only h
  | .expiryCheck _, _, _, h => execExpiryCheck_only h
  | .consPoll _, _, _, h => execConsPoll_only h
  | .requestDone _, _, _, h => execRequestDone_only h
  | .seatResetComplete _, _, _, h => execSeatResetComplete_only h
  | .barrierGather _ _, _, _, h => execBarrierGather_only h
  | .barrierScatter _ _, _, _, h => execBarrierScatter_only h
  | .barrierTimeout _, _, _, h => execBarrierTimeout_only h
  | .formResend, _, _, h => execFormResend_only h
  | .formTimeout, _, _, h => execFormTimeout_only h
  | .mirrorCompare _ _, _, _, h => execMirrorCompare_only h
  | .mirrorPairTimeout _, _, _, h => execMirrorPairTimeout_only h
  | .mirrorSyncComplete _, _, _, h => execMirrorSyncComplete_only h
  | .mirrorJournal _ _, _, _, h => execMirrorJournal_only h
  | .sealRecord _ _ _, _, _, h => execSealRecord_only h
  | .sealAck _ _ _, _, _, h => execSealAck_only h
  | .sealTimeout _, _, _, h => execSealTimeout_only h
  | .rstNAssert, _, _, h => execRstNAssert_only h
  | .rstNRelease _, _, _, h => execRstNRelease_only h
  | .bootStageFuse _, _, _, h => execBootStageFuse_only h
  | .bootStageAvkin _, _, _, h => execBootStageAvkin_only h
  | .bootStageFetch, _, _, h => execBootStageFetch_only h
  | .bootHeaderPoll, _, _, h => execBootHeaderPoll_only h
  | .bootStageVerify, _, _, h => execBootStageVerify_only h
  | .bootStageRollback _, _, _, h => execBootStageRollback_only h
  | .bootStageFirmware _ _, _, _, h => execBootStageFirmware_only h
  | .bootStageLinks _, _, _, h => execBootStageLinks_only h
  | .bootStageReady, _, _, h => execBootStageReady_only h
  | .railLoss, _, _, h => execRailLoss_only h
  | .pllUnlock, _, _, h => execPllUnlock_only h
  | .dieSensorRead _, _, _, h => execDieSensorRead_only h
  | .smbusBlockRead _ _, _, _, h => execSmbusBlockRead_only h
  | .smbusAlertResponse _, _, _, h => execSmbusAlertResponse_only h
  | .smbusWrite, _, _, h => execSmbusWrite_only h
  | .jtagTapReset, _, _, h => execJtagTapReset_only h
  | .jtagBypass, _, _, h => execJtagBypass_only h
  | .jtagIdcode, _, _, h => execJtagIdcode_only h
  | .jtagSamplePreload, _, _, h => execJtagSamplePreload_only h
  | .jtagExtest, _, _, h => execJtagExtest_only h
  | .jtagExtestPulse, _, _, h => execJtagExtestPulse_only h
  | .jtagExtestTrain, _, _, h => execJtagExtestTrain_only h
  | .jtagClamp, _, _, h => execJtagClamp_only h
  | .jtagHighz, _, _, h => execJtagHighz_only h
  | .enginesDrained _, _, _, h => execEnginesDrained_only h
  | .issueBudgetExhausted _, _, _, h => execIssueBudgetExhausted_only h
  | .parkHostTakeRun _ _ _ _ _, _, _, h => execParkHostTakeRun_only h
  | .prbClkEdge _, _, _, h => execPrbClkEdge_only h

/-- No command lists the queue among the parts that it may change. -/
theorem pending_notMem_frameOf (i : Instr) : Part.pending ∉ frameOf i := by
  have hnot : (frameOf i).contains Part.pending = false := by cases i <;> rfl
  simpa using hnot

/-- Settles O56: each arm has its frame, and no frame holds the queue. -/
theorem frameOfEveryCommand : Obligations.FrameOfEveryCommand := by
  intro i s t h
  exact ⟨exec_only i h, (exec_only i h).same .pending (pending_notMem_frameOf i)⟩

/-- A step is a tick, or the front command's effect on the state with the queue's rest. -/
theorem step_cases {s t : State} (h : step s = .next t) :
    t = tick s ∨ ∃ c rest, s.pending = c :: rest ∧ exec c { s with pending := rest } = .next t := by
  unfold step at h
  split at h
  · cases h
    exact .inl rfl
  · next c rest hp => exact .inr ⟨c, rest, hp, h⟩

/-- Settles O57: the frame of a tick and of every command keeps a memory in canonical form. -/
theorem memoryStaysCanonical : Obligations.MemoryStaysCanonical := by
  intro s t hmem h
  rcases step_cases h with rfl | ⟨c, rest, -, hc⟩
  · exact (tick_only s).mem hmem
  · exact (exec_only c hc).mem hmem

/-- Settles O58: memory is the empty table at reset. -/
theorem resetMemoryIsCanonical : Obligations.ResetMemoryIsCanonical :=
  ⟨rfl, fun _ => rfl⟩

/-! ## The fuses -/

/-- Two parts differ in nothing but fuses of the rollback counter that the second has burned beside the first's (R434). -/
structure BurnsOnly (f g : Fuses) : Prop where
  same : g = { f with rollback := g.rollback }
  burned : ∀ i, f.rollback.getLsbD i = true → g.rollback.getLsbD i = true

theorem burnsOnly_refl (f : Fuses) : BurnsOnly f f := ⟨rfl, fun _ h => h⟩

theorem burnsOnly_of_eq {f g : Fuses} (h : g = f) : BurnsOnly f g := h ▸ burnsOnly_refl f

/-- Burning by a list of fuse numbers leaves what was burned. -/
theorem getLsbD_foldl_burn (p : Nat → Bool) (l : List Nat) (r : BitVec 63) (i : Nat) (h : r.getLsbD i = true) :
    (l.foldl (fun r j => if p j then r ||| (1#63 <<< j) else r) r).getLsbD i = true := by
  induction l generalizing r with
  | nil => exact h
  | cons j l ih =>
    refine ih _ ?_
    beta_reduce
    split
    · simp [h]
    · exact h

theorem burn_burnsOnly (f : Fuses) (a b : Nat) : BurnsOnly f (burn f a b) :=
  ⟨rfl, fun i h => getLsbD_foldl_burn (fun j => a ≤ j && j < b) (List.range 63) f.rollback i h⟩

theorem setBoot_fuses (s : State) (l : List (Fld × Nat)) : (setBoot s l).fuses = s.fuses :=
  (setBoot_only s l).same .fuses (by decide)

theorem imageFails_fuses (cause : Nat) (s : State) : (imageFails cause s).fuses = s.fuses :=
  (imageFails_only cause s).same .fuses (by decide)

/-- ROLLBACK burns fuses or leaves them as they were (R434). -/
theorem rollbackStage_burnsOnly (good : Nat) (s : State) : BurnsOnly s.fuses (rollbackStage good s).fuses := by
  unfold rollbackStage
  extract_lets c svn shown enter burned counted
  split
  · exact burnsOnly_of_eq ((imageFails_fuses 8 shown).trans (setBoot_fuses s _))
  · split
    · exact burnsOnly_of_eq ((setBoot_fuses _ _).trans (setBoot_fuses s _))
    · have hburned : BurnsOnly s.fuses counted.fuses := by
        rw [show counted.fuses = burn s.fuses c (min svn (c + good)) from
          (setBoot_fuses burned _).trans (by rw [← setBoot_fuses s [(LBootSt.COUNTER, c)]])]
        exact burn_burnsOnly ..
      split
      · rw [imageFails_fuses]
        exact hburned
      · exact (setBoot_fuses _ _).symm ▸ hburned

/-- The stage ROLLBACK alone lists the fuses among the parts that it may change. -/
theorem fuses_notMem_frameOf {i : Instr} (h : ∀ good, i ≠ .bootStageRollback good) : Part.fuses ∉ frameOf i := by
  have hnot : (frameOf i).contains Part.fuses = false := by
    cases i
    case bootStageRollback good => exact absurd rfl (h good)
    all_goals rfl
  simpa using hnot

theorem exec_burnsOnly {i : Instr} {s t : State} (h : exec i s = .next t) : BurnsOnly s.fuses t.fuses := by
  by_cases hi : ∃ good, i = .bootStageRollback good
  · obtain ⟨good, rfl⟩ := hi
    rcases act_cases (show act .power _ s = .next t from h) with rfl | ⟨-, rfl⟩
    · exact burnsOnly_refl _
    · unfold when
      split
      · exact rollbackStage_burnsOnly good s
      · exact burnsOnly_refl _
  · exact burnsOnly_of_eq ((exec_only i h).same .fuses (fuses_notMem_frameOf (not_exists.mp hi)))

theorem step_burnsOnly {s t : State} (h : step s = .next t) : BurnsOnly s.fuses t.fuses := by
  rcases step_cases h with rfl | ⟨c, rest, -, hc⟩
  · exact burnsOnly_of_eq ((tick_only s).same .fuses (by decide))
  · exact exec_burnsOnly (s := { s with pending := rest }) hc

/-- The number of the last burned fuse is no less where more fuses are burned: the counter's fold, started no lower, ends no
lower, and the fuses met in rising order never take it back. -/
theorem foldl_lastBurned_le {p q : Nat → Bool} (h : ∀ i, p i = true → q i = true) (n : Nat) :
    (List.range n).foldl (fun a i => if p i then i + 1 else a) 0 ≤ (List.range n).foldl (fun a i => if q i then i + 1 else a) 0 ∧
      (List.range n).foldl (fun a i => if p i then i + 1 else a) 0 ≤ n := by
  induction n with
  | zero => exact ⟨Nat.le_refl _, Nat.le_refl _⟩
  | succ n ih =>
    simp only [List.range_succ, List.foldl_append, List.foldl_cons, List.foldl_nil]
    obtain ⟨hle, hn⟩ := ih
    by_cases hp : p n = true
    · simp [hp, h n hp]
    · by_cases hq : q n = true
      · simp only [hp, hq, if_true]
        constructor <;> simp <;> omega
      · simp only [hp, hq]
        exact ⟨by simpa using hle, by simp; omega⟩

theorem rollbackCounter_le {f g : Fuses} (h : BurnsOnly f g) : rollbackCounter f ≤ rollbackCounter g :=
  (foldl_lastBurned_le h.burned 63).1

/-- Settles O55: ROLLBACK alone writes fuses, and it burns those of the counter alone. -/
theorem fusesOnlyBurn : Obligations.FusesOnlyBurn := by
  intro s t h
  have hb := step_burnsOnly h
  refine ⟨?_, ?_, ?_, ?_, ?_, ?_, hb.burned, rollbackCounter_le hb⟩ <;> rw [hb.same]

/-! ## When commands act (R428, R448, R454, R461, R464) -/

/-- The commands of the sideband and the TAP, which work in reset too (R452, R461, R464). -/
def isSide : Instr → Bool
  | .smbusBlockRead _ _ | .smbusAlertResponse _ | .smbusWrite | .jtagTapReset | .jtagBypass | .jtagIdcode
  | .jtagSamplePreload | .jtagExtest | .jtagExtestPulse | .jtagExtestTrain | .jtagClamp | .jtagHighz => true
  | _ => false

/-- Every command but those of RST_N needs the supplies, and all but the sideband's and the TAP's something that runs. -/
theorem exec_shape (i : Instr) (h : ¬(i = .rstNAssert ∨ ∃ ok, i = .rstNRelease ok)) (s : State) :
    (isSide i = true ∧ ∃ f, exec i s = sideband f s) ∨ (isSide i = false ∧ ∃ n f, exec i s = act n f s) := by
  cases i
  case rstNAssert => exact absurd (.inl rfl) h
  case rstNRelease ok => exact absurd (.inr ⟨ok, rfl⟩) h
  case avkinAccess n a => cases a <;> exact .inr ⟨rfl, _, _, rfl⟩
  all_goals unfold exec
  all_goals first
    | exact .inr ⟨rfl, _, _, rfl⟩
    | exact .inl ⟨rfl, _, rfl⟩

/-- Nothing runs while RST_N is low. -/
theorem act_of_rstLow {n : Needs} {f : State → State} {s : State} (hp : powered s = true) (hr : s.pins.rstLow = true) :
    act n f s = .next s := by
  simp only [powered, Bool.and_eq_true, Bool.not_eq_true'] at hp
  simp [act, hp.1, hp.2, ready, hr]

theorem sideband_of_powered {f : State → State} {s : State} (hp : powered s = true) : sideband f s = .next (f s) := by
  simp only [powered, Bool.and_eq_true, Bool.not_eq_true'] at hp
  simp [sideband, hp.1]

/-- The sideband and the TAP change pins, interfaces and the count of free values alone. -/
theorem frameOf_side {i : Instr} (h : isSide i = true) : (frameOf i).all [Part.pins, .out, .free].contains = true := by
  cases i <;> first | rfl | exact absurd h Bool.false_ne_true

theorem exec_rstNAssert_of_high {s : State} (h : s.pins.rstLow = false) : exec .rstNAssert s = .next (resetKeep s) := by
  change execRstNAssert s = _
  simp [execRstNAssert, h]

theorem exec_rstNAssert_of_low {s : State} (h : s.pins.rstLow = true) : exec .rstNAssert s = .next s := by
  change execRstNAssert s = _
  simp [execRstNAssert, h]

theorem exec_rstNRelease_of_low {s : State} (ok : Bool) (h : s.pins.rstLow = true) :
    exec (.rstNRelease ok) s = .next (release ok s) := by
  change execRstNRelease ok s = _
  simp [execRstNRelease, h]

/-- While RST_N is low, each command but its release leaves the state but for the sideband and the TAP. -/
theorem exec_of_rstLow (i : Instr) {s : State} (hr : s.pins.rstLow = true) (hp : powered s = true)
    (hi : ∀ ok, i ≠ .rstNRelease ok) :
    ∃ t, exec i s = .next t ∧ OnlyChanges [.pins, .out, .free] s t ∧ (isSide i = false → t = s) := by
  by_cases ha : i = .rstNAssert
  · subst ha
    exact ⟨s, exec_rstNAssert_of_low hr, only_refl _ _, fun _ => rfl⟩
  · rcases exec_shape i (by simp [ha, hi]) s with ⟨hside, f, hf⟩ | ⟨-, n, f, hf⟩
    · rw [sideband_of_powered hp] at hf
      exact ⟨f s, hf, only_step (exec_only i hf) (frameOf_side hside) (only_refl _ _), by simp [hside]⟩
    · rw [act_of_rstLow hp hr] at hf
      exact ⟨s, hf, only_refl _ _, fun _ => rfl⟩

/-- Settles O54: by the one shape that all commands but RST_N's share. -/
theorem commandsActOnlyWithSuppliesLockAndReset : Obligations.CommandsActOnlyWithSuppliesLockAndReset := by
  intro s i rstN side
  have hside : side = isSide i := by cases i <;> rfl
  rw [hside]
  refine ⟨fun hrail hn => ?_, fun hrail hpll hn hs => ?_, fun hr => ?_, fun hr hp => ?_⟩
  · rcases exec_shape i hn s with ⟨-, f, hf⟩ | ⟨-, n, f, hf⟩
    · simp [hf, sideband, hrail]
    · simp [hf, act, hrail]
  · rcases exec_shape i hn s with ⟨hs', -⟩ | ⟨-, n, f, hf⟩
    · simp [hs] at hs'
    · simp [hf, act, hrail, hpll]
  · exact ⟨_, exec_rstNAssert_of_high hr, rfl, rfl, rfl⟩
  · by_cases hi : ∃ ok, i = .rstNRelease ok
    · obtain ⟨ok, rfl⟩ := hi
      exact ⟨_, exec_rstNRelease_of_low ok hr, fun h => absurd rfl (h ok)⟩
    · obtain ⟨t, ht, hframe⟩ := exec_of_rstLow i hr hp (not_exists.mp hi)
      exact ⟨t, ht, fun _ => hframe⟩

/-! ## The queue and a tick (R2, R364, R366) -/

/-- Nothing passes in reset, after a rail loss or without lock. -/
theorem tick_of_stopped {s : State} (h : powered s = false ∨ s.pins.rstLow = true) : tick s = s := by
  have hstop : (s.pins.rstLow || s.pins.railLost || s.pins.pllUnlock) = true := by
    rcases h with h | h
    · simp only [powered, Bool.and_eq_false_iff, Bool.not_eq_false'] at h
      rcases h with h | h <;> simp [h]
    · simp [h]
  rw [tick, if_pos hstop]

/-- The work of a tick leaves the clocks as the tick has set them. -/
theorem tick_clk {s : State} (hp : powered s = true) (hr : s.pins.rstLow = false) : (tick s).clk = clockTick s.clk := by
  simp only [powered, Bool.and_eq_true, Bool.not_eq_true'] at hp
  have hclk (c : Prop) [Decidable c] (f : State → State) (u : State) (hf : (f u).clk = u.clk) :
      (if c then f u else u).clk = u.clk := by split <;> [exact hf; rfl]
  simp only [tick, hp.1, hp.2, hr, Bool.or_self]
  rw [if_neg (by decide), hclk _ pcWork _ ((pcWork_only _).same .clk (by decide)),
    hclk _ hcWork _ ((hcWork_only _).same .clk (by decide)), hclk _ fcWork _ ((fcWork_only _).same .clk (by decide)),
    hclk _ acWork _ ((acWork_only _).same .clk (by decide))]

/-- Settles O60: by the two cases of the queue. -/
theorem stepTakesTheFrontCommand : Obligations.StepTakesTheFrontCommand := by
  refine ⟨fun c rest s h => ?_, fun s h => ⟨tick s, ?_, ?_, fun hp hr => ?_, tick_of_stopped⟩⟩
  · rw [step, h]
  · rw [step, h]
  · rw [show (tick s).pending = s.pending from (tick_only s).same .pending (by decide), h]
  · rw [tick_clk hp hr]
    exact ⟨rfl, rfl⟩

/-! ## Reset -/

/-- Seats 1 to 63 hold their values at reset: no entry lists them. -/
theorem reset_seat {n : Nat} (h : 1 ≤ n) : State.reset.seat n = Seat.reset := by
  have hn : ¬0 = n := by omega
  simp [State.seat, State.reset, Tab.get, hn]

/-- Settles O59: seat 0 alone is listed at reset, and every unlisted record holds its value at reset. -/
theorem resetLeavesTheStatedValues : Obligations.ResetLeavesTheStatedValues := by
  have hseat : ∀ n, 1 ≤ n → LSeatCfg.ENABLED.get (State.reset.seat n).cfg = 0 ∧ LSeatCfg.W_ING.get (State.reset.seat n).cfg = 1 ∧
      LSeatCfg.W_FAB.get (State.reset.seat n).cfg = 1 ∧ (State.reset.seat n).win = [] ∧ (State.reset.seat n).quota = [] := by
    intro n hn
    rw [reset_seat hn]
    decide
  have hwindows : ∀ t, t < 5 → LWin.VALID.on (Tab.get (State.reset.seat 0).win 0#128 (8 * t)) = true ∧
      LWin.WRITE.on (Tab.get (State.reset.seat 0).win 0#128 (8 * t)) = true := by decide +kernel
  have hingot : LGovSt.DUTY.get Ingot.reset.gov = 1024 ∧ LGovLim.P_LIMIT.get Ingot.reset.limit = 32 ∧
      LGovLim.T_LIMIT.get Ingot.reset.limit = 95 := by decide +kernel
  have hlane : LLaneSt.SPARE.get laneReset = 33 ∧ LLaneSt.DOWN.get laneReset = 1 ∧ LLaneSt.FAILED.get laneReset = 63 := by
    decide +kernel
  refine ⟨by decide, by decide, by decide, by decide, by decide, by decide, hwindows, hseat, fun _ => hingot, fun _ _ => hlane,
    by decide, by decide, by decide, by decide, by decide, rfl, rfl, rfl, rfl, rfl⟩

end Sys2Proof.Whole
end

section
/-! What no command of a mailbox can answer: an instant of application that does not fit APPLIED's 64 bits (R390, R393). The
model counts instants without a bound, so that a device whose last instant is 2^64 - 1 answers 0 for the next one, 2^64. The
statements on mailbox commands ask of every state that APPLIED hold the instant, and this state refutes them. -/

namespace Sys2Proof.Instants

open Sys2Proof Sys2Proof.Machine Sys2Proof.Laws

/-! ## The obstacle -/

/-- A field's value is below the power of its width. -/
theorem get_lt {n : Nat} (f : Fld) (x : BitVec n) : f.get x < 2 ^ f.w := BitVec.isLt _

theorem present_bank (s : State) (c : Cmd) : (present s c).bank = s.bank := setMbox_bank ..

theorem grantMb_lastApplied (s : State) (m : Nat) : (grantMb s m).bank.lastApplied = s.bank.lastApplied := rfl

/-- An instant of application is past the one before (R393). -/
theorem lastApplied_lt_applyTime (s : State) : s.bank.lastApplied < (applyTime s).bank.lastApplied := Nat.le_max_right ..

theorem lastApplied_lt (s : State) (c : Cmd) : s.bank.lastApplied < (atApplication s c).bank.lastApplied := by
  rw [← present_bank s c, ← grantMb_lastApplied _ (cmdMb c)]
  exact lastApplied_lt_applyTime _

/-- The next instant of application passes APPLIED's width. -/
def Overruns (s : State) : Prop := 2 ^ 64 ≤ s.bank.lastApplied + 1

theorem not_answered {c : Cmd} {st : Nat} {s t : State} (h : Overruns s) : ¬Answered c st s t := by
  intro ha
  have hwidth : LRspHd.APPLIED.w = 64 := rfl
  have hfits := get_lt LRspHd.APPLIED (t.mbox (cmdMb c)).rsp
  rw [ha.applied, hwidth] at hfits
  exact absurd h (Nat.not_le.mpr (lt_of_le_of_lt (lastApplied_lt s c) hfits))

theorem not_succeeds {i : Instr} {c : Cmd} {s : State} {P : State → State → Prop} (h : Overruns s) : ¬Succeeds i c s P :=
  fun ⟨_, _, ha, _⟩ => not_answered h ha

/-! ## Devices whose last instant was 2^64 - 1 -/

/-- A device at READY. -/
def started : State := { State.reset with
  pins := { Pins.reset with rstLow := false }
  boot := { Boot.reset with status := LBootSt.STAGE.set 0#64 9 }
  bank := { Banker.reset with lastApplied := 2 ^ 64 - 1 } }

theorem started_overruns : Overruns started := by unfold Overruns; decide

/-- A command of seat 0 in its mailbox 0. -/
def command (opcode : Nat) (body : List (Fld × Nat)) (payload : Nat := 0) : Cmd :=
  ⟨0, 0, BitVec.ofNat 256 opcode, setAll 0#1792 body, BitVec.ofNat 28672 payload⟩

/-- A byte of the companion's memory. -/
def companion (n : Nat) : Nat := 2 ^ 52 + n

/-- The bind record of one layer, one head of 32 elements and one pool of a run. -/
def smallRecord : BitVec 8192 := setAll 0#8192 [(LBindRec.LAYERS, 1), (LBindRec.G, 1), (LBindRec.HQ, 1), (LBindRec.D, 32),
  (LBindRec.STEP_WIDTH, 4), (LBindRec.SPRUE_INT, 16), (LBindRec.VOCAB, 4), (LBindRec.DRAFT_MISS, 1),
  (LBindRec.DRAFT_REST, 1), (LBindRec.LPLEN, 1), (LBindRec.LPROG, companion 0x10000), (LBindRec.WOBJ, 1),
  (⟨576, 32⟩, 4), (⟨2560, 64⟩, companion 0x11000)]

/-- Seat 0 owns binding 0, which holds that record, and a stake; a variant is installed. -/
def serving : State := { started with
  binds := [(0, { Bind.reset with loaded := true, brec := smallRecord, variants := [(3, ⟨8, companion 0x5000⟩)] })]
  seats := [(0, { Seat.reset0 with bnd := setAll 0#64 [(LSeatBnd.ATTACHED, 1), (LSeatBnd.OWNS, 1)] })]
  stakes := [(0, LStake.ON.set 0#512 1)] }

theorem serving_overruns : Overruns serving := started_overruns

/-- The entry of a request in slot 5 of binding 0. -/
def entry : BitVec 1024 := setAll 0#1024 [(LEnt.SLOT, 5), (LEnt.PAVAIL, 16), (LEnt.PCAP, 16), (LEnt.COLS, 4),
  (LEnt.PTBASE, companion 0x1000), (LEnt.RING, companion 0x2000), (LEnt.PBASE, companion 0x3000),
  (LEnt.SAMPLE, companion 0x4000)]

/-- That request in a state of its own. -/
def requested (state : Nat) : State := { serving with reqs := [(5, LEnt.STATE.set entry state)] }

theorem requested_overruns (state : Nat) : Overruns (requested state) := started_overruns

/-- A command that is granted at once, and whose checks come to success. -/
structure Passes (opcode : Nat) (sub : Cmd → Bool) (s : State) (c : Cmd) (status : State → Nat) : Prop where
  granted : granted opcode sub s c = true
  status : status (atApplication s c) = St.ok

/-! ## Requests -/

/-- An ADMIT of one request. -/
def admitCmd : Cmd := command 1 [(⟨0, 6⟩, 1)] entry.toNat
/-- A FEED that sets FINAL. -/
def feed : Cmd := command 2 [(⟨0, 14⟩, 5), (⟨34, 1⟩, 1)]
def cancel : Cmd := command 3 [(⟨0, 14⟩, 5)]
def resume : Cmd := command 5 [(⟨0, 14⟩, 5)]

theorem requests_pass : (Passes 1 anyOp serving admitCmd (fun a => (opAdmit admitCmd a).2.status) ∧
    Passes 2 anyOp (requested 2) feed (feedStatus · feed)) ∧
    Passes 3 anyOp (requested 2) cancel (cancelStatus · cancel) ∧
    Passes 5 anyOp (requested 5) resume (resumeStatus · resume) :=
  ⟨⟨⟨by decide +kernel, by decide +kernel⟩, ⟨by decide +kernel, by decide +kernel⟩⟩, ⟨by decide +kernel, by decide +kernel⟩,
    ⟨by decide +kernel, by decide +kernel⟩⟩

/-- Refutes O1: the ADMIT of one request whose instant is 2^64 cannot be answered with it. -/
theorem not_admitTakesEverySlot : ¬Obligations.AdmitTakesEverySlot := fun h =>
  have hpass := requests_pass.1.1
  not_succeeds serving_overruns (h admitCmd serving hpass.granted hpass.status)

/-- Refutes O2: as O1, with a FEED that sets FINAL. -/
theorem not_feedRaisesPavail : ¬Obligations.FeedRaisesPavail := fun h =>
  have hpass := requests_pass.1.2
  not_succeeds (requested_overruns 2) (h feed (requested 2) hpass.granted hpass.status)

/-- Refutes O3: as O1, with a CANCEL. -/
theorem not_cancelAndPauseTakeEffect : ¬Obligations.CancelAndPauseTakeEffect := fun h =>
  have hpass := requests_pass.2.1
  not_succeeds (requested_overruns 2) ((h cancel (requested 2)).1 hpass.granted hpass.status)

/-- Refutes O4: as O1, with a RESUME of a PAUSED request. -/
theorem not_resumeTakesEffect : ¬Obligations.ResumeTakesEffect := fun h =>
  have hpass := requests_pass.2.2
  not_succeeds (requested_overruns 5) (h resume (requested 5) hpass.granted hpass.status)

/-! ## Objects and bindings -/

/-- What BIND LOAD of the small record needs: objects of its weights and its pool, and in the companion's memory a layer program
of one wait record and a pip image of one END word. -/
def loadable : State := { serving with
  binds := []
  objs := [(1, setAll 0#512 [(LObj.KIND, 1), (LObj.STATE, 1), (LObj.BOUND, 1), (LObj.WTIER, 2), (LObj.TILES, 1),
      (LObj.WORK, 0xC00000000)]),
    (2, setAll 0#512 [(LObj.KIND, 3), (LObj.STATE, 1), (LObj.BOUND, 1), (LObj.WTIER, 2), (LObj.TILES, 4)])]
  seats := [(0, { Seat.reset0 with cfg := LSeatCfg.PIP_OWN.set Seat.reset0.cfg 1 })]
  mem := memPut (memPut [] (companion 0x10000) (bytesOf (2 ^ 523 * 255 + 2 ^ 512 * 6) 128)) (companion 0x11000)
    (bytesOf (1 + 2 ^ 128 * 0x08000000) 20) }

theorem loadable_overruns : Overruns loadable := by
  rw [Overruns, show loadable.bank = started.bank from rfl]
  exact started_overruns

/-- A PLACE that creates object 9 of two tiles of T2. -/
def create : Cmd :=
  command 0x10 [(LPlace.OP, 1), (LPlace.KIND, 2), (LPlace.OBJECT, 9), (LPlace.TILES, 2), (LPlace.ADDR, 0x1800000000)]
def bindLoad : Cmd := command 0x11 [(LBindCmd.OP, 1)] smallRecord.toNat
def variantRemove : Cmd := command 0x11 [(LBindCmd.OP, 3), (LBindCmd.VARIANT, 3)]
def unbind : Cmd := command 0x12 []

theorem create_passes : Passes 0x10 (bodyOp 1) started create (placeStatus · create) ∧
    (placeCreate (atApplication started create) create).2 = St.ok :=
  ⟨⟨by decide +kernel, by decide +kernel⟩, by decide +kernel⟩

theorem bindings_pass : Passes 0x11 (bodyOp 1) loadable bindLoad (fun a => (opBindLoad bindLoad a).2) ∧
    Passes 0x11 (bodyOp 3) serving variantRemove (fun a => (opVariantRemove variantRemove a).2) ∧
    Passes 0x12 anyOp serving unbind (unbindStatus · unbind) :=
  ⟨⟨by decide +kernel, by decide +kernel⟩, ⟨by decide +kernel, by decide +kernel⟩, ⟨by decide +kernel, by decide +kernel⟩⟩

/-- Refutes O5: as O1, with a PLACE that creates an object. -/
theorem not_placeKeepsTheObjectTable : ¬Obligations.PlaceKeepsTheObjectTable := fun h =>
  have ⟨hpass, hroom⟩ := create_passes
  not_succeeds started_overruns ((h create started hpass.status).1 hpass.granted hroom)

/-- Refutes O6: as O1, with a BIND LOAD. -/
theorem not_bindLoadInstallsTheRecord : ¬Obligations.BindLoadInstallsTheRecord := fun h =>
  have hpass := bindings_pass.1
  not_succeeds loadable_overruns (h bindLoad loadable hpass.granted hpass.status)

/-- Refutes O7: as O1, with a VARIANT_REMOVE. -/
theorem not_variantsComeAndGo : ¬Obligations.VariantsComeAndGo := fun h =>
  have hpass := bindings_pass.2.1
  not_succeeds serving_overruns ((h variantRemove serving).2 hpass.granted hpass.status)

/-- Refutes O8: as O1, with an UNBIND. -/
theorem not_clearUnbindAndMould : ¬Obligations.ClearUnbindAndMould := fun h =>
  have hpass := bindings_pass.2.2
  not_succeeds serving_overruns ((h unbind serving).2.1 hpass.granted hpass.status)

/-! ## Stakes, seats, the plan -/

def stakeAssign : Cmd :=
  command 0x20 [(LStakeCmd.OP, 1), (LStakeCmd.STAKE, 4), (LStakeCmd.SEAT, 0), (LStakeCmd.RATE, 500), (LStakeCmd.BURST, 64)]
/-- A SEAT_SET that writes seat 3's configuration. -/
def configure : Cmd := command 0x21 [(LSeatSet.OP, 3), (LSeatSet.SEAT, 3), (⟨64, 64⟩, 0x1100101)]
def seatReset : Cmd := command 0x22 [(⟨0, 6⟩, 3)]

/-- A plan of four places in a row, the first this device's by its identity digest. -/
def fourPlaces : Nat :=
  (List.range 4).foldl (fun a x => a + 2 ^ (128 * x) * (2 ^ 64 * x + 13844892888211485282 + x)) 0

def plan : Cmd := command 0x30 [(⟨0, 5⟩, 1)] fourPlaces
/-- The first of its places. -/
def ownPlace : BitVec 128 := BitVec.ofNat 128 13844892888211485282

theorem seats_pass : Passes 0x20 (bodyOp 1) started stakeAssign (stakeStatus · stakeAssign) ∧
    Passes 0x21 (bodyOp 3) started configure (seatSetStatus · configure) ∧
    Passes 0x22 anyOp started seatReset (seatResetStatus · seatReset) :=
  ⟨⟨by decide +kernel, by decide +kernel⟩, ⟨by decide +kernel, by decide +kernel⟩, ⟨by decide +kernel, by decide +kernel⟩⟩

theorem plan_passes : Passes 0x30 anyOp started plan (fun a => (opPlan plan a).2.status) ∧
    (planRecs plan (plan.body.extractLsb' 0 5).toNat).find?
      (fun r => LPlanRec.DIGEST.get r == identDigest (atApplication started plan)) = some ownPlace :=
  ⟨⟨by decide +kernel, by decide +kernel⟩, by decide +kernel⟩

/-- Refutes O9: as O1, with a STAKE that assigns stake 4. -/
theorem not_stakeTermsAreWritten : ¬Obligations.StakeTermsAreWritten := fun h =>
  have hpass := seats_pass.1
  not_succeeds started_overruns ((h stakeAssign started hpass.status).1 hpass.granted)

/-- Refutes O10: as O1, with a SEAT_SET that writes seat 3's configuration. -/
theorem not_seatSetWritesOneSetting : ¬Obligations.SeatSetWritesOneSetting := fun h =>
  have hpass := seats_pass.2.1
  not_succeeds started_overruns ((h configure started hpass.status).2.2.1 hpass.granted)

/-- Refutes O11: as O1, with a SEAT_RESET of seat 3. -/
theorem not_seatResetRunsAndEnds : ¬Obligations.SeatResetRunsAndEnds := fun h =>
  have hpass := seats_pass.2.2
  not_succeeds started_overruns ((h seatReset started 3).1 hpass.granted hpass.status)

/-- Refutes O12: as O1, with a PLAN. -/
theorem not_planGivesTheChipItsPlace : ¬Obligations.PlanGivesTheChipItsPlace := fun h =>
  have ⟨hpass, hplace⟩ := plan_passes
  not_succeeds started_overruns (h plan started ownPlace hpass.granted hpass.status hplace)

/-! ## Slices, mirrors, reports, probes -/

/-- The device belongs to a slice of itself alone. -/
def alone : State := { started with fab := { Fabric.reset with slice := LSliceSt.STATE.set 0#128 2 } }

theorem alone_overruns : Overruns alone := started_overruns

/-- Seat 3 is paired with chip 1. -/
def paired : State := { started with
  mirrors := [(3, { Mirror.reset with state := setAll 0#128 [(LMirSt.STATE, 2), (LMirSt.PEER, 1)] })] }

theorem paired_overruns : Overruns paired := started_overruns

def dissolve : Cmd := command 0x31 [(LSliceCmd.OP, 2)]
def unpair : Cmd := command 0x32 [(LMirCmd.OP, 2), (LMirCmd.SEAT, 3)]
/-- An IDENT of part 0. -/
def ident : Cmd := command 0x41 []
/-- A PROBE that selects no source. -/
def probeOff : Cmd := command 0x43 [(LProbe.OP, 4)]

theorem groups_pass : Passes 0x31 (bodyOp 2) alone dissolve (sliceStatus · dissolve) ∧
    Passes 0x32 (bodyOp 2) paired unpair (mirStatus · unpair) :=
  ⟨⟨by decide +kernel, by decide +kernel⟩, ⟨by decide +kernel, by decide +kernel⟩⟩

theorem reports_pass : granted 0x41 anyOp started ident = true ∧ probeForm probeOff = true ∧
    granted 0x43 (bodyOp 4) started probeOff = true :=
  ⟨by decide +kernel, by decide +kernel, by decide +kernel⟩

/-- Refutes O13: as O1, with a SLICE that dissolves the slice. -/
theorem not_sliceCommandsActOnTheBlock : ¬Obligations.SliceCommandsActOnTheBlock := fun h =>
  have hpass := groups_pass.1
  not_succeeds alone_overruns ((h dissolve alone hpass.status).2.1 hpass.granted)

/-- Refutes O14: as O1, with a MIRROR that unpairs seat 3. -/
theorem not_mirrorPairsUnpairsTakesOver : ¬Obligations.MirrorPairsUnpairsTakesOver := fun h =>
  have hpass := groups_pass.2
  not_succeeds paired_overruns ((h unpair paired hpass.status).2.1 hpass.granted)

/-- Refutes O15: as O1, with an IDENT of part 0. -/
theorem not_tallyIdentAttestReport : ¬Obligations.TallyIdentAttestReport := fun h =>
  not_succeeds started_overruns ((h ident started).2.1 reports_pass.1 rfl)

/-- Refutes O16: as O1, with a PROBE that selects no source. -/
theorem not_probeUnlocksOnlyByChallenge : ¬Obligations.ProbeUnlocksOnlyByChallenge := fun h =>
  not_succeeds started_overruns ((h probeOff started rfl reports_pass.2.1).2.2.2 reports_pass.2.2)

/-! ## The mailbox service -/

/-- A command with OPCODE 0, which the catalogue does not list, waits in mailbox 0. -/
def waiting : State := present started (command 0 [])

theorem waiting_overruns : Overruns waiting := by
  rw [Overruns, waiting, present_bank]
  exact started_overruns

/-- It is the next to be granted, and its grant leaves no response that follows the device's own writes. -/
theorem waiting_granted : (running .banker waiting = true ∧ nextGrant waiting = some 0) ∧ isLong (cmdOf waiting 0) = false ∧
    ((opOf (cmdOpcode (cmdOf waiting 0))).isSome && mustHold waiting (cmdOf waiting 0)) = false ∧ (mailboxGrant waiting).bank.late = [] :=
  ⟨⟨by decide +kernel, by decide +kernel⟩, by decide +kernel, by decide +kernel, by decide +kernel⟩

/-- Refutes O17: the grant of that command answers it at once, with an instant that does not fit APPLIED. -/
theorem not_mailboxServiceGrantsInTurn : ¬Obligations.MailboxServiceGrantsInTurn := by
  intro h
  obtain ⟨⟨hrun, hnext⟩, hlong, hhold, hlate⟩ := waiting_granted
  obtain ⟨-, hgrant, -⟩ := h waiting 0 0 0 0
  obtain ⟨st, t, hexec, ha | ⟨r, hr, -⟩, -⟩ := (hgrant hrun hnext).2.2 hlong hhold
  · exact not_answered waiting_overruns ha
  · have ht : t = mailboxGrant waiting := Host.Outcome.next.inj (hexec.symm.trans (MailboxService.exec_mailboxGrant hrun))
    rw [ht, hlate] at hr
    exact absurd hr List.not_mem_nil

end Sys2Proof.Instants
end

section
/-! The pips' instructions that keep to the pip: registers and control flow (R80, R83 to R85, R89). -/

namespace Sys2Proof.PipCore

open Sys2Proof Sys2Proof.Machine Sys2Proof.Laws

/-! ## Rows whose effect is one on the pip -/

/-- A ready pip's instruction whose effect lies in the pip alone leaves what the effect gives with one pc of the budget spent. -/
theorem pipSteps_of_pipRow {i : Instr} {op p : Nat} {s : State} {f : State → W32 → State} {g : Pip → W32 → Pip}
    (hrow : exec i s = pipRow op p noStall f s) (hf : ∀ t w, f t w = t.setPip p (g (t.pip p) w)) (h : pipReady op s p = true) :
    PipSteps i s p (g { s.pip p with budget := (s.pip p).budget - 1 } (pipWord s p)) := by
  refine ⟨_, hrow.trans (pipRow_of_ready f h rfl), ?_, fun q hq => ?_, ?_, ?_⟩
  · rw [hf, setPip_pip, pipIssue_pip]
  · rw [hf, setPip_pip_other _ _ _ _ hq, pipIssue_pip_other s hq]
  · rw [hf]
    exact pipIssue_ingots s p
  · rw [hf]
    exact only_step (state_setPip_only ..) rfl (only_step (pipIssue_only s p) rfl (only_refl _ _))

/-- The word of a ready pip is legal. -/
theorem pipWordOk_of_ready {op p : Nat} {s : State} (h : pipReady op s p = true) :
    pipOp (pipWord s p) = op ∧ pipWordOk (pipWord s p) = true := by
  simp only [pipReady, Bool.and_eq_true, beq_iff_eq] at h
  exact ⟨h.1.2, h.2⟩

/-! ## Integer and FP32 instructions -/

theorem pipAlu_steps {i : Instr} {op p : Nat} {s : State} (f : W32 → W32 → W32) (hrow : exec i s = pipAlu op p f s)
    (h : pipReady op s p = true) : PipSteps i s p (pipGoes (setG (s.pip p) (pipA (pipWord s p))
      (f (gReg (s.pip p) (pipB (pipWord s p))) (gReg (s.pip p) (pipC (pipWord s p)))))) :=
  pipSteps_of_pipPure hrow h

theorem pipAluImm_steps {i : Instr} {op p : Nat} {s : State} (f : W32 → W32 → W32) (hrow : exec i s = pipAluImm op p f s)
    (h : pipReady op s p = true) : PipSteps i s p (pipGoes (setG (s.pip p) (pipA (pipWord s p))
      (f (gReg (s.pip p) (pipB (pipWord s p))) (pipWord s p)))) :=
  pipSteps_of_pipPure hrow h

/-- The shifts by an immediate take their count as it stands: a legal word's is below 32 (R84). -/
theorem pipImm_mod {w : W32} (hop : pipOp w = 0x0E ∨ pipOp w = 0x0F) (hok : pipWordOk w = true) : pipImm w % 32 = pipImm w := by
  refine Nat.mod_eq_of_lt ?_
  rcases hop with hop | hop <;> simpa [pipWordOk, hop] using hok

/-- Settles O31: each row is an instruction on two registers, or on one and the word. -/
theorem pipIntegerInstructions : Obligations.PipIntegerInstructions := by
  intro s p x w b c imm put
  refine ⟨pipAlu_steps (· + ·) rfl, pipAlu_steps (· - ·) rfl, pipAlu_steps (· &&& ·) rfl, pipAlu_steps (· ||| ·) rfl,
    pipAlu_steps (· ^^^ ·) rfl, pipAlu_steps (fun b c => b <<< shiftOf c) rfl, pipAlu_steps (fun b c => b >>> shiftOf c) rfl,
    pipAlu_steps (· * ·) rfl, pipAluImm_steps (fun b w => b + pipSextImm w) rfl, pipAluImm_steps (fun b w => b &&& immOf w) rfl,
    fun h => ?_, fun h => ?_, pipAluImm_steps (fun _ w => immOf w <<< 14) rfl⟩
  · obtain ⟨hop, hok⟩ := pipWordOk_of_ready h
    have hstep := pipAluImm_steps (i := .pipShri p) (fun b w => b >>> (pipImm w % 32)) rfl h
    rwa [pipImm_mod (.inl hop) hok] at hstep
  · obtain ⟨hop, hok⟩ := pipWordOk_of_ready h
    have hstep := pipAluImm_steps (i := .pipShli p) (fun b w => b <<< (pipImm w % 32)) rfl h
    rwa [pipImm_mod (.inr hop) hok] at hstep

/-! ## Vector instructions -/

theorem vReg_getD {x : Pip} {r i : Nat} (h : i < 32) : (vReg x r).getD i 0#32 = Tab.get x.v 0#32 (32 * r + i) := by
  simp [vReg, h]

/-- A vector's lanes by their numbers. -/
theorem map_vReg (x : Pip) (r : Nat) (f : W32 → W32) :
    (vReg x r).map f = (List.range 32).map (fun i => f ((vReg x r).getD i 0#32)) := by
  rw [vReg, List.map_map]
  exact List.map_congr_left fun i hi => by
    rw [← vReg, vReg_getD (List.mem_range.mp hi)]
    rfl

/-- Two vectors' lanes by their numbers. -/
theorem zipWith_vReg {α : Type} (x : Pip) (r q : Nat) (f : W32 → W32 → α) :
    List.zipWith f (vReg x r) (vReg x q) =
      (List.range 32).map (fun i => f ((vReg x r).getD i 0#32) ((vReg x q).getD i 0#32)) := by
  have hlanes : List.zipWith f (vReg x r) (vReg x q) =
      (List.range 32).map (fun i => f (Tab.get x.v 0#32 (32 * r + i)) (Tab.get x.v 0#32 (32 * q + i))) := by
    simp [vReg, List.zipWith_map_left, List.zipWith_map_right]
  rw [hlanes]
  exact List.map_congr_left fun i hi => by rw [vReg_getD (List.mem_range.mp hi), vReg_getD (List.mem_range.mp hi)]

/-- A ready pip's instruction that writes a vector of its registers goes on with it. -/
theorem pipSetV_steps {i : Instr} {op p : Nat} {s : State} (l : Pip → W32 → List W32)
    (hrow : exec i s = pipPure op p (fun x w => setV x (pipA w) (l x w)) s)
    (hl : ∀ (x : Pip) (w : W32) (n : Nat), l { x with budget := n } w = l x w) (h : pipReady op s p = true) :
    PipSteps i s p (pipGoes (setV (s.pip p) (pipA (pipWord s p)) (l (s.pip p) (pipWord s p)))) := by
  have hstep := pipSteps_of_pipPure hrow h
  rwa [hl] at hstep

theorem pipVec_steps {i : Instr} {op p : Nat} {s : State} (f : W32 → W32 → W32) (hrow : exec i s = pipVec op p f s)
    (h : pipReady op s p = true) : PipSteps i s p (pipGoes (setV (s.pip p) (pipA (pipWord s p)) ((List.range 32).map (fun i =>
      f ((vReg (s.pip p) (pipB (pipWord s p))).getD i 0#32) ((vReg (s.pip p) (pipC (pipWord s p))).getD i 0#32))))) := by
  rw [← zipWith_vReg]
  exact pipSetV_steps (fun x w => List.zipWith f (vReg x (pipB w)) (vReg x (pipC w))) hrow (fun _ _ _ => rfl) h

theorem pipVecS_steps {i : Instr} {op p : Nat} {s : State} (f : W32 → W32 → W32) (hrow : exec i s = pipVecS op p f s)
    (h : pipReady op s p = true) : PipSteps i s p (pipGoes (setV (s.pip p) (pipA (pipWord s p)) ((List.range 32).map (fun i =>
      f ((vReg (s.pip p) (pipB (pipWord s p))).getD i 0#32) (gReg (s.pip p) (pipC (pipWord s p))))))) := by
  rw [← map_vReg _ _ (fun v => f v _)]
  exact pipSetV_steps (fun x w => (vReg x (pipB w)).map (fun v => f v (gReg x (pipC w)))) hrow (fun _ _ _ => rfl) h

/-- VZERO's lanes: a lane that no list names is 0. -/
theorem setV_nil (x : Pip) (r : Nat) : setV x r [] = setV x r ((List.range 32).map (fun _ => 0#32)) := rfl

/-- VFMA's lanes by their numbers: its first operand is the vector that it writes. -/
theorem zipWith_zip_vReg (x : Pip) (a b c : Nat) (f : W32 → W32 → W32 → W32) :
    List.zipWith (fun v bc => f bc.1 bc.2 v) (vReg x a) (List.zip (vReg x b) (vReg x c)) =
      (List.range 32).map (fun i => f ((vReg x b).getD i 0#32) ((vReg x c).getD i 0#32) ((vReg x a).getD i 0#32)) := by
  have hlanes : List.zipWith (fun v bc => f bc.1 bc.2 v) (vReg x a) (List.zip (vReg x b) (vReg x c)) =
      (List.range 32).map (fun i => f (Tab.get x.v 0#32 (32 * b + i)) (Tab.get x.v 0#32 (32 * c + i)) (Tab.get x.v 0#32 (32 * a + i))) := by
    simp [vReg, List.zip, List.zipWith_map_left, List.zipWith_map_right]
  rw [hlanes]
  exact List.map_congr_left fun i hi => by simp only [vReg_getD (List.mem_range.mp hi)]

theorem pipVzero_steps {s : State} {p : Nat} (h : pipReady 0x26 s p = true) :
    PipSteps (.pipVzero p) s p (pipGoes (setV (s.pip p) (pipA (pipWord s p)) ((List.range 32).map (fun _ => 0#32)))) := by
  rw [← setV_nil]
  exact pipSetV_steps (fun _ _ => []) rfl (fun _ _ _ => rfl) h

/-- The lanes that an instruction of three vectors writes, the first its destination. -/
def vec3Lanes (f : W32 → W32 → W32 → W32) (x : Pip) (w : W32) : List W32 :=
  List.zipWith (fun v bc => f bc.1 bc.2 v) (vReg x (pipA w)) (List.zip (vReg x (pipB w)) (vReg x (pipC w)))

theorem pipVec3_steps {i : Instr} {op p : Nat} {s : State} (f : W32 → W32 → W32 → W32)
    (hrow : exec i s = pipPure op p (fun x w => setV x (pipA w) (vec3Lanes f x w)) s) (h : pipReady op s p = true) :
    PipSteps i s p (pipGoes (setV (s.pip p) (pipA (pipWord s p)) ((List.range 32).map (fun i =>
      f ((vReg (s.pip p) (pipB (pipWord s p))).getD i 0#32) ((vReg (s.pip p) (pipC (pipWord s p))).getD i 0#32)
        ((vReg (s.pip p) (pipA (pipWord s p))).getD i 0#32))))) := by
  have hstep := pipSetV_steps (vec3Lanes f) hrow (fun _ _ _ => rfl) h
  rwa [vec3Lanes, zipWith_zip_vReg] at hstep

theorem pipVec1_steps {i : Instr} {op p : Nat} {s : State} (f : W32 → W32)
    (hrow : exec i s = pipPure op p (fun x w => setV x (pipA w) ((vReg x (pipB w)).map f)) s) (h : pipReady op s p = true) :
    PipSteps i s p (pipGoes (setV (s.pip p) (pipA (pipWord s p)) ((List.range 32).map (fun i =>
      f ((vReg (s.pip p) (pipB (pipWord s p))).getD i 0#32))))) := by
  rw [← map_vReg _ _ f]
  exact pipSetV_steps (fun x w => (vReg x (pipB w)).map f) hrow (fun _ _ _ => rfl) h

theorem pipVrmax_steps {s : State} {p : Nat} (h : pipReady 0x2E s p = true) :
    PipSteps (.pipVrmax p) s p (pipGoes (setG (s.pip p) (pipA (pipWord s p))
      ((vReg (s.pip p) (pipB (pipWord s p))).foldl f32Max 0xFF800000#32))) :=
  pipSteps_of_pipPure (f := fun x w => setG x (pipA w) ((vReg x (pipB w)).foldl f32Max 0xFF800000#32)) rfl h

theorem pipVmsk_steps {s : State} {p : Nat} (h : pipReady 0x30 s p = true) :
    PipSteps (.pipVmsk p) s p (pipGoes (setV (s.pip p) (pipA (pipWord s p)) ((List.range 32).map (fun i =>
      if (gReg (s.pip p) (pipC (pipWord s p))).getLsbD i then (vReg (s.pip p) (pipB (pipWord s p))).getD i 0#32
      else 0xFF800000#32)))) :=
  pipSetV_steps (fun x w => (List.range 32).map (fun i =>
    if (gReg x (pipC w)).getLsbD i then (vReg x (pipB w)).getD i 0#32 else 0xFF800000#32)) rfl (fun _ _ _ => rfl) h

/-- Settles O32: as O31, with the vectors' lanes by their numbers. -/
theorem pipFloatAndVectorInstructions : Obligations.PipFloatAndVectorInstructions := by
  intro s p x w b c vb vc put putV
  exact ⟨pipAlu_steps f32Add rfl, pipAlu_steps f32Sub rfl, pipAlu_steps f32Mul rfl, pipAlu_steps f32Max rfl,
    pipAlu_steps (fun b _ => f32Exp2 b) rfl, pipVzero_steps, pipVec_steps f32Add rfl, pipVec_steps f32Mul rfl, pipVec3_steps f32Fma rfl,
    pipVec_steps f32Max rfl, pipVecS_steps f32Add rfl, pipVecS_steps f32Mul rfl, pipVec1_steps f32Exp2 rfl, pipVrmax_steps, pipVmsk_steps⟩

/-! ## Branches, REP, NOP -/

/-- What a branch leaves: the target's address where its test holds (R89). -/
def pipBranched (f : W32 → W32 → Bool) (x : Pip) (w : W32) : Pip :=
  if f (gReg x (pipA w)) (gReg x (pipB w)) then { x with pc := (BitVec.ofNat 32 x.pc + pipSextX w).toNat % 1024 } else pipNext x

theorem pipBranch_steps {i : Instr} {op p : Nat} {s : State} (f : W32 → W32 → Bool) (hrow : exec i s = pipBranch op p f s)
    (h : pipReady op s p = true) :
    PipSteps i s p (pipBranched f { s.pip p with budget := (s.pip p).budget - 1 } (pipWord s p)) :=
  pipSteps_of_pipRow hrow (fun t w => by dsimp only [pipBranched]; split <;> rfl) h

/-- Settles O35: each row's effect lies in the pip alone. -/
theorem pipControlFlow : Obligations.PipControlFlow := by
  intro s p x w a b spent branch n count
  refine ⟨fun h => pipSteps_of_pipPure (f := fun x _ => x) rfl h, pipBranch_steps (fun a b => a == b) rfl,
    pipBranch_steps (fun a b => a != b) rfl, pipBranch_steps (fun a b => a.slt b) rfl, fun h => ?_,
    fun h => pipSteps_of_pipRow (g := pipRep) rfl (fun _ _ => rfl) h⟩
  have hstep := pipBranch_steps (i := .pipBge p) (fun a b => !a.slt b) rfl h
  have htest : ∀ a b : W32, (!a.slt b) = decide (b.toInt ≤ a.toInt) := by
    intro a b
    rw [BitVec.slt, ← decide_not, decide_eq_decide]
    exact Int.not_lt
  simp only [pipBranched, htest] at hstep
  exact hstep

end Sys2Proof.PipCore
end

section
/-! Supplies, die sensors, sideband, TAP and the test multiplexer (R448, R454, R458 to R464, R467, R468). -/

namespace Sys2Proof.Pins

open Sys2Proof Sys2Proof.Machine Sys2Proof.Laws Sys2Proof.PipCore Sys2Proof.MailboxService

variable {s : State}

/-- A row whose part runs answers the state that its effect leaves. -/
theorem runs_of_running {i : Instr} {n : Needs} {f : State → State} {P : State → Prop} (hrow : exec i s = act n f s)
    (h : running n s = true) (hP : P (f s)) : Runs i s P :=
  ⟨f s, hrow.trans (act_of_running f h), hP⟩

/-- A row of the sideband or the TAP answers the state that its effect leaves while the supplies hold. -/
theorem runs_of_sideband {i : Instr} {f : State → State} {P : State → Prop} (hrow : exec i s = sideband f s)
    (h : s.pins.railLost = false) (hP : P (f s)) : Runs i s P :=
  ⟨f s, by simp [hrow, sideband, h], hP⟩

/-- A row whose part runs and whose event occurs answers the state that its effect leaves. -/
theorem runs_of_when {i : Instr} {n : Needs} {c : State → Bool} {f : State → State} {P : State → Prop}
    (hrow : exec i s = act n (when c f) s) (h : running n s = true) (hc : c s = true) (hP : P (f s)) : Runs i s P :=
  runs_of_running hrow h (by rwa [when, if_pos hc])

/-! ## Die sensors (R458, R460) -/

/-- A die is above the limit. -/
def hot (temps : List (Option Int)) (d : Nat) : Bool :=
  match temps.getD d none with
  | some v => decide (v > 115)
  | none => false

theorem hot_iff {temps : List (Option Int)} {d : Nat} : hot temps d = true ↔ ∃ v, temps.getD d none = some v ∧ v > 115 := by
  unfold hot
  cases temps.getD d none <;> simp

theorem trippedDie_eq_find (temps : List (Option Int)) : trippedDie temps = (List.range 8).find? (hot temps) := rfl

theorem trippedDie_of_first {temps : List (Option Int)} {d : Nat} (hd : d < 8) (h : hot temps d = true)
    (hfirst : ∀ k, k < d → hot temps k = false) : trippedDie temps = some d := by
  rw [trippedDie_eq_find, List.find?_range_eq_some]
  exact ⟨h, List.mem_range.mpr hd, fun j hj => by simp [hfirst j hj]⟩

theorem trippedDie_of_none {temps : List (Option Int)} (h : ∀ d, d < 8 → hot temps d = false) : trippedDie temps = none := by
  rw [trippedDie_eq_find, List.find?_eq_none]
  exact fun d hd => by simp [h d (List.mem_range.mp hd)]

theorem not_hot {temps : List (Option Int)} {d : Nat} (h : ∀ v, temps.getD d none = some v → v ≤ 115) : hot temps d = false := by
  rw [Bool.eq_false_iff, ne_eq, hot_iff]
  exact fun ⟨v, hv, hgt⟩ => absurd (h v hv) (by omega)

theorem sensorsRead_sbFault_of_none {temps : List (Option Int)} (h : trippedDie temps = none) :
    (sensorsRead temps s).pins.sbFault = s.pins.sbFault := by
  simp only [sensorsRead, h]

theorem sensorsRead_sbFault_of_tripped {temps : List (Option Int)} (h : dieTrip s = true) :
    (sensorsRead temps s).pins.sbFault = s.pins.sbFault := by
  unfold sensorsRead
  split
  · rw [if_pos (by exact h)]
  · rfl

theorem sensorsRead_sbFault_of_some {temps : List (Option Int)} {d : Nat} (h : trippedDie temps = some d) (hs : dieTrip s = false) :
    (sensorsRead temps s).pins.sbFault = setAll s.pins.sbFault [(LSbFault.DIE_TRIP, 1), (LSbFault.TRIP_DIE, d)] := by
  simp only [sensorsRead, h]
  rw [if_neg (by rw [Bool.not_eq_true]; exact hs)]
  rfl

theorem sensorsRead_trips {temps : List (Option Int)} {d : Nat} (hd : d < 8) (h : trippedDie temps = some d)
    (hs : dieTrip s = false) :
    dieTrip (sensorsRead temps s) = true ∧ LSbFault.TRIP_DIE.get (sensorsRead temps s).pins.sbFault = d := by
  rw [dieTrip, Fld.on, sensorsRead_sbFault_of_some h hs]
  constructor
  · rw [get_setAll_cons _ _ (by decide) (by simp [FieldsApart, LSbFault.DIE_TRIP, LSbFault.TRIP_DIE])]
    rfl
  · refine (get_setAll_cons (LSbFault.DIE_TRIP.set s.pins.sbFault 1) d (by decide) (by simp)).trans ?_
    exact Nat.mod_eq_of_lt hd

theorem sensorsRead_only (temps : List (Option Int)) : OnlyChanges [.pins] s (sensorsRead temps s) := by
  unfold sensorsRead
  split <;> dsimp only
  · split
    · exact set_pins_only s _
    · exact only_step (setSbBits_only _ _) (by decide) (set_pins_only s _)
  · exact set_pins_only s _

/-! ## The test multiplexer (R467, R468) -/

/-- A byte by its bits. -/
theorem getLsbD_sum_bits (f : Nat → Bool) {x : Nat} (hx : x < 8) :
    (BitVec.ofNat 8 (sumNat ((List.range 8).map (fun b => 2 ^ b * b2n (f b))))).getLsbD x = f x := by
  have hbits : ∀ (a b c d e g h i : Bool), ∀ x < 8, (BitVec.ofNat 8 (sumNat [2 ^ 0 * b2n a, 2 ^ 1 * b2n b, 2 ^ 2 * b2n c,
      2 ^ 3 * b2n d, 2 ^ 4 * b2n e, 2 ^ 5 * b2n g, 2 ^ 6 * b2n h, 2 ^ 7 * b2n i])).getLsbD x =
        [a, b, c, d, e, g, h, i].getD x false := by decide +kernel
  refine (hbits (f 0) (f 1) (f 2) (f 3) (f 4) (f 5) (f 6) (f 7) x hx).trans ?_
  interval_cases x <;> rfl

/-- An event that a counter tells shows whether its count has changed. -/
theorem probeByte_getLsbD (seen now : List (Option Nat)) (events : Byte) {x : Nat} (hx : x < 8) :
    (probeByte seen now events).getLsbD x = (match now.getD x none with
      | some n => decide (seen.getD x none ≠ some n)
      | none => events.getLsbD x) := by
  refine (getLsbD_sum_bits (fun b => match now.getD b none with
      | some n => (seen.getD b none) != some n
      | none => events.getLsbD b) hx).trans ?_
  cases now.getD x none with
  | none => rfl
  | some n => simp [bne, Bool.beq_eq_decide_eq]

theorem probeEdge_of_none {ev : Byte} (h : s.pins.probeSel = none) : probeEdge ev s = s := by
  rw [probeEdge, h]

theorem probeEdge_of_some {ev : Byte} {k i : Nat} (h : s.pins.probeSel = some (k, i)) :
    probeEdge ev s = { s with pins := { s.pins with
      prb := probeByte s.pins.probeSeen (probeCounts s k i) ev, probeSeen := probeCounts s k i } } := by
  rw [probeEdge, h]

/-! ## The sideband and the TAP (R461, R462, R464) -/

/-- A read that is not answered. -/
def nack : Out := .smbus false []

theorem smbusReg_of_unlisted {code : Nat} (h : 8 ≤ code) : smbusReg s code = none := by
  unfold smbusReg
  split <;> first | omega | rfl

theorem alert_addr (w : BitVec 64) :
    bytesOf ((0x58 + w.toNat / 2 ^ 24 % 4) * 2) 1 = [BitVec.ofNat 8 (2 * (0x58 + (w.extractLsb' 24 2).toNat))] := by
  have hstrap : (w.extractLsb' 24 2).toNat = w.toNat / 2 ^ 24 % 4 := by
    simp [BitVec.extractLsb'_toNat, Nat.shiftRight_eq_div_pow]
  rw [hstrap, Nat.mul_comm 2]
  rfl

/-- The answer to an alert response: the address of a device that drives the alert and wins, which lets it go. -/
def alertAnswer (won : Bool) (s : State) : State :=
  if s.pins.alert && won then
    State.emit { s with pins := { s.pins with alert := false } } (.smbus true (bytesOf (smbusAddr s * 2) 1))
  else s.emit nack

theorem smbusAlertResponse_runs (won : Bool) (h : s.pins.railLost = false) : Runs (.smbusAlertResponse won) s (fun t =>
    if s.pins.alert = true ∧ won = true then t.pins.alert = false ∧
      t.out = .smbus true [BitVec.ofNat 8 (2 * (0x58 + (s.pins.latched.extractLsb' 24 2).toNat))] :: s.out
    else t.pins = s.pins ∧ t.out = .smbus false [] :: s.out) := by
  refine runs_of_sideband (f := alertAnswer won) rfl h ?_
  by_cases hw : s.pins.alert = true ∧ won = true
  · rw [if_pos hw, alertAnswer, if_pos (by simp [hw])]
    exact ⟨rfl, congrArg (fun l => Out.smbus true l :: s.out) (alert_addr s.pins.latched)⟩
  · rw [if_neg hw, alertAnswer, if_neg (by simpa using hw)]
    exact ⟨rfl, rfl⟩

theorem emit_only (o : Out) : OnlyChanges [.out] s (s.emit o) := state_emit_only s o

theorem tapLoad_only (inst : Nat) (drive : Bool) (v : Nat) : OnlyChanges [.pins, .out] s (tapLoad s inst drive v) :=
  only_step (state_emit_only _ _) (by decide) (only_step (set_pins_only s _) (by decide) (only_refl _ _))

/-- A test instruction acts while RST_N is low and else as BYPASS, and keeps the boundary register. -/
theorem tapTest_runs {i : Instr} {inst : Nat} {drive : Bool} {v : State → Nat}
    (hrow : exec i s = sideband (tapTest inst drive v) s) (h : s.pins.railLost = false) : Runs i s (fun t =>
      (s.pins.rstLow = true → t.pins.jtagInst = inst ∧ t.pins.jtagDrive = drive) ∧
      (s.pins.rstLow = false → t.pins.jtagInst = tapBypass ∧ t.pins.jtagDrive = false) ∧
      t.pins.bsr = s.pins.bsr ∧ OnlyChanges [.pins, .out] s t) := by
  refine runs_of_sideband hrow h ?_
  unfold tapTest
  split
  · next hr => exact ⟨fun _ => ⟨rfl, rfl⟩, fun hr' => absurd (hr.symm.trans hr') (by decide), rfl, tapLoad_only ..⟩
  · next hr => exact ⟨fun hr' => absurd hr' hr, fun _ => ⟨rfl, rfl⟩, rfl, tapLoad_only ..⟩

/-- What a read of the sideband answers (R461, R462). -/
def smbusAnswer (code : Nat) (pec : Bool) (s : State) : Out :=
  match smbusReg s code with
  | some v => if pec then .smbus true (bytesOf v 8) else .smbus false []
  | none => .smbus false []

theorem smbusBlockRead_runs (code : Nat) (pec : Bool) (h : s.pins.railLost = false) : Runs (.smbusBlockRead code pec) s (fun t =>
    OnlyChanges [.out] s t ∧ (∀ v, smbusReg s code = some v → pec = true → t.out = .smbus true (bytesOf v 8) :: s.out) ∧
    (pec = false ∨ 8 ≤ code → t.out = .smbus false [] :: s.out)) := by
  refine runs_of_sideband (f := fun s => s.emit (smbusAnswer code pec s)) rfl h ⟨emit_only _, fun v hv hp => ?_, fun hn => ?_⟩
  · simp [State.emit, smbusAnswer, hv, hp]
  · rcases hn with hp | hcode
    · simp only [State.emit, smbusAnswer, hp]
      split <;> rfl
    · simp [State.emit, smbusAnswer, smbusReg_of_unlisted hcode]

/-- Settles O52: each row is its own effect under the one condition that it needs. -/
theorem suppliesSensorsAndTestPins : Obligations.SuppliesSensorsAndTestPins := by
  intro s temps code pec won ev
  refine ⟨fun hrun => ⟨?_, ?_, ?_, fun k i hsel => ?_, fun hsel => ?_⟩, fun hrail => ⟨smbusBlockRead_runs code pec hrail,
    smbusAlertResponse_runs won hrail, ?_, ?_, ?_, ?_, ?_, tapTest_runs rfl hrail, tapTest_runs rfl hrail, tapTest_runs rfl hrail,
    tapTest_runs rfl hrail, tapTest_runs rfl hrail⟩⟩
  · refine runs_of_running (by unfold exec; rfl) hrun ?_
    exact ⟨rfl, set_pins_only s _⟩
  · refine runs_of_running (by unfold exec; rfl) hrun ?_
    refine ⟨rfl, ?_, set_pins_only s _⟩
    exact get_setAll_cons s.pins.sbFault 1 (by decide) (by simp)
  · refine runs_of_running (by unfold exec; rfl) hrun ⟨fun d hd hs hot cool => ?_, fun h => ?_, sensorsRead_only temps⟩
    · exact sensorsRead_trips hd (trippedDie_of_first hd (hot_iff.mpr hot) (fun k hk => not_hot (cool k hk))) hs
    · rcases h with cool | hs
      · exact sensorsRead_sbFault_of_none (trippedDie_of_none (fun d hd => not_hot (cool d hd)))
      · exact sensorsRead_sbFault_of_tripped hs
  · refine runs_of_running (by unfold exec; rfl) hrun ?_
    rw [probeEdge_of_some hsel]
    exact ⟨set_pins_only s _, rfl, fun x hx => probeByte_getLsbD _ _ ev hx⟩
  · exact runs_of_running (by unfold exec; rfl) hrun (probeEdge_of_none hsel)
  · refine runs_of_sideband (by unfold exec; rfl) hrail ?_
    exact ⟨rfl, emit_only _⟩
  · refine runs_of_sideband (by unfold exec; rfl) hrail ?_
    exact ⟨rfl, rfl, set_pins_only s _⟩
  · refine runs_of_sideband (by unfold exec; rfl) hrail ?_
    exact ⟨rfl, rfl, tapLoad_only ..⟩
  · refine runs_of_sideband (by unfold exec; rfl) hrail ?_
    exact ⟨rfl, rfl, tapLoad_only ..⟩
  · refine runs_of_sideband (by unfold exec; rfl) hrail ?_
    refine ⟨rfl, rfl, rfl, ?_⟩
    exact only_step (tapLoad_only ..) (by decide) (only_step (set_pins_free_only s _ _) (by decide) (only_refl _ _))

end Sys2Proof.Pins
end

section
/-! Reset and the stages of boot (R428 to R435, R448, R456, R478). -/

namespace Sys2Proof.Boot

open Sys2Proof Sys2Proof.Machine Sys2Proof.Laws Sys2Proof.MailboxService Sys2Proof.Pins

variable {s : State}

/-! ## Tables and memory -/

/-- Reading a table of which some numbers alone are kept. -/
theorem get_filter_fst {α : Type} (p : Nat → Bool) (t : Tab α) (d : α) (k : Nat) :
    Tab.get (t.filter (fun e => p e.1)) d k = if p k then Tab.get t d k else d := by
  induction t with
  | nil => simp [Tab.get]
  | cons e t ih =>
    rw [List.filter_cons]
    by_cases he : e.1 = k
    · subst he
      by_cases hp : p e.1 = true
      · simp [hp, Tab.get]
      · rw [if_neg hp, ih, if_neg hp, if_neg hp]
    · split
      · rw [Tab.get, if_neg he, ih, Tab.get, if_neg he]
      · rw [ih, Tab.get, if_neg he]

/-- Reading the copy of a range: entries of the range, numbered from its first. -/
theorem get_map_sub {α : Type} (t : Tab α) (d : α) (k n : Nat) {i : Nat} (hi : i < n) :
    Tab.get ((t.filter (fun e => decide (k ≤ e.1) && decide (e.1 < k + n))).map (fun e => (e.1 - k, e.2))) d i =
      Tab.get t d (k + i) := by
  induction t with
  | nil => rfl
  | cons e t ih =>
    rw [List.filter_cons]
    by_cases he : e.1 = k + i
    · simp [he, hi, Tab.get]
    · rw [Tab.get, if_neg he, ← ih]
      split
      · next hr =>
        have hne : ¬e.1 - k = i := by simp at hr; omega
        rw [List.map_cons, Tab.get, if_neg hne]
      · rfl

theorem get_outside (m : Tab Byte) (k : Nat) : Tab.get (outside m) 0#8 k = if 2 ^ 52 ≤ k then Tab.get m 0#8 k else 0#8 := by
  rw [outside, get_filter_fst (fun j => decide (2 ^ 52 ≤ j))]
  simp only [decide_eq_true_eq]

/-! ## BOOT_STATUS (R429) -/

/-- Writing BOOT_STATUS leaves the other registers of boot as they were. -/
theorem setBoot_boot (s : State) (l : List (Fld × Nat)) :
    (setBoot s l).boot = { s.boot with status := setAll s.boot.status l } := by
  unfold setBoot
  dsimp only
  split <;> rfl

theorem setBoot_clk (s : State) (l : List (Fld × Nat)) : (setBoot s l).clk = s.clk := (setBoot_only s l).same .clk (by decide)
theorem setBoot_mem (s : State) (l : List (Fld × Nat)) : (setBoot s l).mem = s.mem := (setBoot_only s l).same .mem (by decide)
theorem setBoot_wordErr (s : State) (l : List (Fld × Nat)) : (setBoot s l).wordErr = s.wordErr :=
  (setBoot_only s l).same .wordErr (by decide)
theorem setBoot_ingots (s : State) (l : List (Fld × Nat)) : (setBoot s l).ingots = s.ingots :=
  (setBoot_only s l).same .ingots (by decide)
theorem setBoot_fab (s : State) (l : List (Fld × Nat)) : (setBoot s l).fab = s.fab := (setBoot_only s l).same .fab (by decide)
theorem setBoot_fuses (s : State) (l : List (Fld × Nat)) : (setBoot s l).fuses = s.fuses :=
  (setBoot_only s l).same .fuses (by decide)

/-- A field of BOOT_STATUS that the list writes first. -/
theorem status_setBoot_head {f : Fld} (s : State) (v : Nat) (l : List (Fld × Nat)) (hf : f.lo + f.w ≤ 64)
    (h : ∀ e ∈ l, FieldsApart f e.1) : f.get (setBoot s ((f, v) :: l)).boot.status = v % 2 ^ f.w := by
  rw [setBoot_boot]
  exact get_setAll_cons _ v hf h

/-- A field of BOOT_STATUS that the list writes second. -/
theorem status_setBoot_second {f g : Fld} (s : State) (u v : Nat) (l : List (Fld × Nat)) (hf : f.lo + f.w ≤ 64)
    (h : ∀ e ∈ l, FieldsApart f e.1) : f.get (setBoot s ((g, u) :: (f, v) :: l)).boot.status = v % 2 ^ f.w := by
  rw [setBoot_boot]
  exact get_setAll_cons (g.set s.boot.status u) v hf h

/-- A field of BOOT_STATUS that the list does not write. -/
theorem status_setBoot_apart {f : Fld} (s : State) {l : List (Fld × Nat)} (h : ∀ e ∈ l, FieldsApart f e.1) :
    f.get (setBoot s l).boot.status = f.get s.boot.status := by
  rw [setBoot_boot]
  exact get_setAll_apart _ h

theorem stage_setBoot {n : Nat} (s : State) (l : List (Fld × Nat)) (hn : n < 16) (h : ∀ e ∈ l, FieldsApart LBootSt.STAGE e.1) :
    stage (setBoot s ((LBootSt.STAGE, n) :: l)) = n :=
  (status_setBoot_head s n l (by decide) h).trans (Nat.mod_eq_of_lt hn)

theorem stage_halt (cause : Nat) (s : State) : stage (halt cause s) = 15 :=
  stage_setBoot s _ (by decide) (by simp [FieldsApart, LBootSt.STAGE, LBootSt.CAUSE])

theorem cause_halt {cause : Nat} (h : cause < 256) (s : State) : LBootSt.CAUSE.get (halt cause s).boot.status = cause :=
  (status_setBoot_second s 15 cause [] (by decide) (by simp)).trans (Nat.mod_eq_of_lt h)

theorem source_halt (cause : Nat) (s : State) : LBootSt.SOURCE.get (halt cause s).boot.status = bootSource s :=
  status_setBoot_apart s (by simp [FieldsApart, LBootSt.SOURCE, LBootSt.STAGE, LBootSt.CAUSE])

/-- A failure of the image shows its cause, and halts unless slot B is still to come (R430). -/
theorem imageFails_fails {cause : Nat} (h : cause < 256) (s : State) :
    LBootSt.CAUSE.get (imageFails cause s).boot.status = cause ∧ (bootSource s ≠ 1 → stage (imageFails cause s) = 15) := by
  unfold imageFails
  split
  · next hsource =>
    exact ⟨(status_setBoot_head s cause [] (by decide) (by simp)).trans (Nat.mod_eq_of_lt h), fun hne => absurd hsource hne⟩
  · exact ⟨cause_halt h s, fun _ => stage_halt cause s⟩

theorem imageFails_source (cause : Nat) (s : State) : LBootSt.SOURCE.get (imageFails cause s).boot.status = bootSource s := by
  unfold imageFails
  split
  · exact status_setBoot_apart s (by simp [FieldsApart, LBootSt.SOURCE, LBootSt.CAUSE])
  · exact source_halt cause s

/-! ## RST_N -/

theorem rstNAssert_runs (h : s.pins.rstLow = false) : Runs .rstNAssert s (fun t => t.pins.rstLow = true ∧ t.fuses = s.fuses ∧
    t.pending = s.pending ∧ t.boot = Machine.Boot.reset ∧ t.binds = [] ∧ t.reqs = [] ∧
    (∀ k, 2 ^ 52 ≤ k → memByte t k = memByte s k) ∧ (∀ k, k < 2 ^ 52 → memByte t k = 0#8)) := by
  refine ⟨resetKeep s, Whole.exec_rstNAssert_of_high h, rfl, rfl, rfl, rfl, rfl, rfl, fun k hk => ?_, fun k hk => ?_⟩
  · exact (get_outside s.mem k).trans (if_pos hk)
  · exact (get_outside s.mem k).trans (if_neg (by omega))

theorem setBoot_rstLow (s : State) (l : List (Fld × Nat)) :
    (setBoot s l).pins.rstLow = s.pins.rstLow ∧ (setBoot s l).pins.latched = s.pins.latched := by
  unfold setBoot
  dsimp only
  split <;> exact ⟨rfl, rfl⟩

theorem rstNRelease_runs (ok : Bool) (h : s.pins.rstLow = true) : Runs (.rstNRelease ok) s (fun t =>
    t.pins.rstLow = false ∧ t.pins.latched = s.pins.straps ∧
    (if ok then stage t = 2 else stage t = 15 ∧ LBootSt.CAUSE.get t.boot.status = 1)) := by
  refine ⟨release ok s, Whole.exec_rstNRelease_of_low ok h, ?_⟩
  unfold release
  cases ok
  · exact ⟨(setBoot_rstLow _ _).1, (setBoot_rstLow _ _).2, stage_halt _ _, cause_halt (by decide) _⟩
  · exact ⟨(setBoot_rstLow _ _).1, (setBoot_rstLow _ _).2, stage_setBoot _ _ (by decide) (by simp)⟩

/-! ## Stages 2 and 3 -/

theorem foldl_lastBurned_le (p : Nat → Bool) (n : Nat) : (List.range n).foldl (fun a i => if p i then i + 1 else a) 0 ≤ n :=
  (Whole.foldl_lastBurned_le (p := p) (fun _ h => h) n).2

theorem rollbackCounter_lt (f : Fuses) : rollbackCounter f < 64 := Nat.lt_succ_of_le (foldl_lastBurned_le f.rollback.getLsbD 63)

theorem bootStageFuse_runs (ok : Bool) (hrun : running .power s = true) (h : atStage s 2 = true) : Runs (.bootStageFuse ok) s (fun t =>
    if ok then stage t = 3 ∧ LBootSt.COUNTER.get t.boot.status = rollbackCounter s.fuses
    else stage t = 15 ∧ LBootSt.CAUSE.get t.boot.status = 2) := by
  refine runs_of_when (by unfold exec; rfl) hrun h ?_
  cases ok
  · exact ⟨stage_halt _ _, cause_halt (by decide) _⟩
  · exact ⟨stage_setBoot _ _ (by decide) (by simp [FieldsApart, LBootSt.STAGE, LBootSt.COUNTER]),
      (status_setBoot_second s 3 _ [] (by decide) (by simp)).trans (Nat.mod_eq_of_lt (rollbackCounter_lt s.fuses))⟩

/-- SB_FAULT after BOOT_STATUS is written: HALTED follows STAGE (R463). -/
theorem setBoot_sbFault (s : State) (l : List (Fld × Nat)) : (setBoot s l).pins.sbFault =
    setAll s.pins.sbFault [(LSbFault.HALTED, b2n (LBootSt.STAGE.get (setAll s.boot.status l) == 15))] := by
  unfold setBoot
  dsimp only
  split <;> rfl

/-- The Avkin link up with all its lanes, or with one half of them. -/
def avkinUp (full : Bool) (s : State) : State := if full then trainPort s 6 else setSbBits (trainPort s 6) [(LSbFault.AVKIN_X8, 1)]

/-- Stage AVKIN goes on to stage 4. -/
def avkinEnds (s : State) : State :=
  let t := setBoot s [(LBootSt.STAGE, 4), (LBootSt.SOURCE, b2n (bootSel s))]
  { t with boot := { t.boot with stage3End := t.clk.ticks } }

theorem avkinStage_of_up {lanes : BitVec 16} (h : lanes.extractLsb' 0 8 = 0xFF#8 ∨ lanes.extractLsb' 8 8 = 0xFF#8) :
    avkinStage lanes s = avkinEnds (avkinUp (lanes.extractLsb' 0 8 == 0xFF#8 && lanes.extractLsb' 8 8 == 0xFF#8) s) := by
  unfold avkinStage
  dsimp only
  rw [if_neg (by rcases h with h | h <;> simp [h])]
  rfl

theorem avkinStage_of_down {lanes : BitVec 16} (h : ¬(lanes.extractLsb' 0 8 = 0xFF#8 ∨ lanes.extractLsb' 8 8 = 0xFF#8)) :
    avkinStage lanes s = halt 3 s := by
  rw [not_or] at h
  unfold avkinStage
  dsimp only
  rw [if_pos (by simp [h])]

theorem avkinEnds_stage (s : State) : stage (avkinEnds s) = 4 :=
  stage_setBoot s _ (by decide) (by simp [FieldsApart, LBootSt.STAGE, LBootSt.SOURCE])

theorem avkinEnds_source (s : State) : LBootSt.SOURCE.get (avkinEnds s).boot.status = (if bootSel s then 1 else 0) := by
  refine (status_setBoot_second s 4 _ [] (by decide) (by simp)).trans ?_
  cases bootSel s <;> rfl

theorem avkinEnds_port (s : State) (p : Nat) : (avkinEnds s).port p = s.port p :=
  congrArg (fun f : Fabric => Tab.get f.ports Port.reset p) (setBoot_fab s _)

theorem avkinEnds_x8 (s : State) : LSbFault.AVKIN_X8.get (avkinEnds s).pins.sbFault = LSbFault.AVKIN_X8.get s.pins.sbFault := by
  refine (congrArg LSbFault.AVKIN_X8.get (setBoot_sbFault s _)).trans ?_
  exact get_setAll_apart _ (by simp [FieldsApart, LSbFault.AVKIN_X8, LSbFault.HALTED])

theorem trainPort_trained (s : State) (p : Nat) : ((trainPort s p).port p).trained = true := by
  rw [trainPort, State.updPort, setPort_port]

theorem avkin_full_iff (lanes : BitVec 16) :
    lanes = 0xFFFF#16 ↔ lanes.extractLsb' 0 8 = 0xFF#8 ∧ lanes.extractLsb' 8 8 = 0xFF#8 := by
  refine ⟨fun h => by subst h; decide, fun ⟨hlow, hhigh⟩ => ?_⟩
  have happ : lanes = lanes.extractLsb' 8 8 ++ lanes.extractLsb' 0 8 := by
    refine BitVec.eq_of_getLsbD_eq fun i hi => ?_
    rw [BitVec.getLsbD_append]
    by_cases h : i < 8
    · simp [h]
    · have hback : 8 + (i - 8) = i := by omega
      have hin : i - 8 < 8 := by omega
      simp [h, hback, hin]
  rw [happ, hlow, hhigh]
  rfl

theorem bootStageAvkin_runs (lanes : BitVec 16) (hrun : running .power s = true) (h : atStage s 3 = true) :
    Runs (.bootStageAvkin lanes) s (fun t =>
      if lanes = 0xFFFF#16 then
        stage t = 4 ∧ (t.port 6).trained = true ∧ LBootSt.SOURCE.get t.boot.status = (if bootSel s then 1 else 0)
      else if lanes.extractLsb' 0 8 = 0xFF#8 ∨ lanes.extractLsb' 8 8 = 0xFF#8 then
        stage t = 4 ∧ LSbFault.AVKIN_X8.get t.pins.sbFault = 1
      else stage t = 15 ∧ LBootSt.CAUSE.get t.boot.status = 3) := by
  refine runs_of_when (by unfold exec; rfl) hrun h ?_
  split
  · next hfull =>
    obtain ⟨hlow, hhigh⟩ := (avkin_full_iff lanes).mp hfull
    rw [avkinStage_of_up (.inl hlow), hlow, hhigh]
    refine ⟨avkinEnds_stage _, ?_, avkinEnds_source _⟩
    rw [avkinEnds_port]
    exact trainPort_trained s 6
  · next hfull =>
    split
    · next hup =>
      have hhalf : (lanes.extractLsb' 0 8 == 0xFF#8 && lanes.extractLsb' 8 8 == 0xFF#8) = false := by
        rw [avkin_full_iff] at hfull
        simpa using hfull
      rw [avkinStage_of_up hup, hhalf]
      refine ⟨avkinEnds_stage _, ?_⟩
      rw [avkinEnds_x8]
      exact get_setAll_cons s.pins.sbFault 1 (by decide) (by simp)
    · next hdown =>
      rw [avkinStage_of_down hdown]
      exact ⟨stage_halt _ _, cause_halt (by decide) _⟩

/-! ## Stages 4 to 6: the image -/

/-- What the fetch of an image leaves (R430, R431). -/
structure Fetched (s t : State) : Prop where
  stage : stage t = 5
  header : t.boot.header = headerAt s (bootKey (bootSource s))
  svn : LBootSt.SVN.get t.boot.status = LFwHd.SVN.get (headerAt s (bootKey (bootSource s)))
  copy : ∀ k, k < imageLen (headerAt s (bootKey (bootSource s))) →
    Tab.get t.boot.copy 0#8 k = memByte s (bootKey (bootSource s) + k)

theorem fetchImage_of_badMagic (h : magicOk (headerAt s (bootKey (bootSource s))) = false) : fetchImage s = imageFails 4 s := by
  simp [fetchImage, h]

theorem fetchImage_of_badHeader (hm : magicOk (headerAt s (bootKey (bootSource s))) = true)
    (hh : headerOk (headerAt s (bootKey (bootSource s))) = false) : fetchImage s = imageFails 5 s := by
  simp [fetchImage, hm, hh]

theorem fetchImage_of_good (hm : magicOk (headerAt s (bootKey (bootSource s))) = true)
    (hh : headerOk (headerAt s (bootKey (bootSource s))) = true) : Fetched s (fetchImage s) := by
  unfold fetchImage
  dsimp only
  rw [if_neg (by simp [hm]), if_neg (by simp [hh])]
  refine ⟨stage_setBoot _ _ (by decide) (by simp [FieldsApart, LBootSt.STAGE, LBootSt.SVN]), by rw [setBoot_boot], ?_, fun k hk => ?_⟩
  · exact (status_setBoot_second _ 5 _ [] (by decide) (by simp)).trans (Nat.mod_eq_of_lt (BitVec.isLt _))
  · rw [setBoot_boot]
    exact get_map_sub s.mem 0#8 _ _ hk

theorem headerShown_iff : headerShown s = true ↔
    bootSource s ≠ 0 ∨ (magicOk (headerAt s (bootKey 0)) = true ∧ s.clk.ticks ≤ s.boot.stage3End + 54000000000) := by
  rw [show 54000000000 = tenSeconds from rfl]
  simp only [headerShown, Bool.or_eq_true, bne_iff_ne, Bool.and_eq_true, decide_eq_true_eq]

theorem not_slotBNext_of_atStage {n : Nat} (h : atStage s n = true) : slotBNext s = false := by
  simp only [atStage, Bool.and_eq_true, beq_iff_eq] at h
  simp [slotBNext, h.2]

/-- BOOT_STAGE_FETCH at stage 4, with a header shown. -/
theorem bootStageFetch_runs {P : State → Prop} (hrun : running .power s = true) (h : atStage s 4 = true)
    (hs : bootSource s ≠ 0 ∨ (magicOk (headerAt s (bootKey 0)) = true ∧ s.clk.ticks ≤ s.boot.stage3End + 54000000000))
    (hP : P (fetchImage s)) : Runs .bootStageFetch s P := by
  have hshown : headerShown s = true := headerShown_iff.mpr hs
  refine runs_of_when (by unfold exec; rfl) hrun (by simp [h, hshown]) ?_
  rw [not_slotBNext_of_atStage h]
  exact hP

theorem fetchImage_source (s : State) : LBootSt.SOURCE.get (fetchImage s).boot.status = bootSource s := by
  unfold fetchImage
  dsimp only
  split
  · exact imageFails_source 4 s
  · split
    · exact imageFails_source 5 s
    · exact status_setBoot_apart _ (by simp [FieldsApart, LBootSt.SOURCE, LBootSt.STAGE, LBootSt.SVN])

/-- After slot A's failure the fetch goes to slot B (R430). -/
theorem bootStageFetch_slotB (hrun : running .power s = true) (h : slotBNext s = true) :
    Runs .bootStageFetch s (fun t => LBootSt.SOURCE.get t.boot.status = 2) := by
  refine runs_of_when (by unfold exec; rfl) hrun (by simp [h]) ?_
  rw [if_pos h, fetchImage_source, bootSource, setBoot_boot]
  exact get_setAll_cons (LBootSt.CAUSE.set (LBootSt.STAGE.set s.boot.status 4) 0) 2 (by decide) (by simp)

theorem bootHeaderPoll_runs (hrun : running .power s = true) (h : atStage s 4 = true) (hs : bootSource s = 0)
    (hshown : magicOk (headerAt s (bootKey 0)) = false ∨ s.boot.stage3End + 54000000000 < s.clk.ticks)
    (hlate : s.boot.stage3End + 54000000000 ≤ s.clk.ticks) :
    Runs .bootHeaderPoll s (fun t => stage t = 15 ∧ LBootSt.CAUSE.get t.boot.status = 4) := by
  have hnone : headerShown s = false := by
    rw [← Bool.not_eq_true, headerShown_iff]
    rintro (hsource | ⟨hm, hl⟩)
    · exact hsource hs
    · rcases hshown with hm' | hl'
      · rw [hm] at hm'
        exact absurd hm' (by decide)
      · exact absurd hl (Nat.not_le.mpr hl')
  have hdue : decide (s.boot.stage3End + tenSeconds ≤ s.clk.ticks) = true := decide_eq_true hlate
  refine runs_of_when (by unfold exec; rfl) hrun (by rw [h, hnone, hdue]; rfl) ?_
  exact ⟨stage_halt _ _, cause_halt (by decide) _⟩

/-- The key block and the signature of the copied image are good (R432, R433). -/
def signatureOk (s : State) : Bool :=
  let kb := BitVec.ofNat 4096 (ofBytes (copyBytes s 64 512))
  let n := 576 + LFwHd.LENGTH.get s.boot.header
  keyBlockOk kb && rsaVerify (kb.extractLsb' 0 3072).toNat (ofBytes (copyBytes s n 384)) (sha256 (copyBytes s 0 (n - 1)))

/-- The measurement of the copied image. -/
def measured (s : State) : State :=
  { s with boot := { s.boot with
      measure := BitVec.ofNat 256 (ofBytes (sha256 (copyBytes s 0 (576 + LFwHd.LENGTH.get s.boot.header - 1)))) } }

theorem verifyImage_of_wrongKey (h : sha256Nat (copyBytes s 64 512) ≠ s.fuses.keyHash) : verifyImage s = imageFails 6 s := by
  rw [verifyImage, if_pos h]

theorem verifyImage_of_key (h : sha256Nat (copyBytes s 64 512) = s.fuses.keyHash) : verifyImage s =
    if signatureOk s then
      setBoot { s with boot := { (measured s).boot with keyBlock := BitVec.ofNat 4096 (ofBytes (copyBytes s 64 512)) } } [(LBootSt.STAGE, 6)]
    else imageFails 7 (measured s) := by
  rw [verifyImage, if_neg (not_not_intro h), signatureOk]
  cases keyBlockOk (BitVec.ofNat 4096 (ofBytes (copyBytes s 64 512))) with
  | false => rfl
  | true =>
    simp only [Bool.not_true, Bool.false_or, Bool.true_and, Bool.not_eq_true', ← Bool.not_eq_true, ite_not]
    rfl

theorem bootStageVerify_runs (hrun : running .power s = true) (h : atStage s 5 = true) : Runs .bootStageVerify s (fun t =>
    (sha256Nat (copyBytes s 64 512) ≠ s.fuses.keyHash →
      LBootSt.CAUSE.get t.boot.status = 6 ∧ (bootSource s ≠ 1 → stage t = 15)) ∧
    (sha256Nat (copyBytes s 64 512) = s.fuses.keyHash → if signatureOk s = true then
        stage t = 6 ∧ t.boot.measure = (measured s).boot.measure
      else LBootSt.CAUSE.get t.boot.status = 7 ∧ (bootSource s ≠ 1 → stage t = 15))) := by
  refine runs_of_when (by unfold exec; rfl) hrun h ⟨fun hkey => ?_, fun hkey => ?_⟩
  · rw [verifyImage_of_wrongKey hkey]
    exact imageFails_fails (by decide) s
  · rw [verifyImage_of_key hkey]
    split
    · exact ⟨stage_setBoot _ _ (by decide) (by simp), by rw [setBoot_boot]⟩
    · exact imageFails_fails (by decide) (measured s)

theorem rollbackStage_of_old (good : Nat) (h : LFwHd.SVN.get s.boot.header < rollbackCounter s.fuses) :
    rollbackStage good s = imageFails 8 (setBoot s [(LBootSt.COUNTER, rollbackCounter s.fuses)]) := by
  rw [rollbackStage, if_pos]
  exact h

theorem rollbackStage_of_kept (good : Nat) (hadv : LFwHd.ADVANCE.on s.boot.header = false)
    (h : rollbackCounter s.fuses ≤ LFwHd.SVN.get s.boot.header) :
    stage (rollbackStage good s) = 7 ∧ (rollbackStage good s).fuses = s.fuses := by
  have hboot := setBoot_boot s [(LBootSt.COUNTER, rollbackCounter s.fuses)]
  have hfuses := setBoot_fuses s [(LBootSt.COUNTER, rollbackCounter s.fuses)]
  have hheader : (setBoot s [(LBootSt.COUNTER, rollbackCounter s.fuses)]).boot.header = s.boot.header := by rw [hboot]
  rw [rollbackStage, if_neg (Nat.not_lt.mpr h), hheader, hadv, if_pos (by rfl)]
  exact ⟨stage_setBoot _ _ (by decide) (by simp), (setBoot_fuses _ _).trans hfuses⟩

theorem bootStageRollback_runs (good : Nat) (hrun : running .power s = true) (h : atStage s 6 = true) :
    Runs (.bootStageRollback good) s (fun t =>
      (LFwHd.SVN.get s.boot.header < rollbackCounter s.fuses →
        (LBootSt.CAUSE.get t.boot.status = 8 ∧ (bootSource s ≠ 1 → stage t = 15)) ∧ t.fuses = s.fuses) ∧
      (LFwHd.ADVANCE.on s.boot.header = false → rollbackCounter s.fuses ≤ LFwHd.SVN.get s.boot.header →
        stage t = 7 ∧ t.fuses = s.fuses) ∧
      (∀ i, s.fuses.rollback.getLsbD i = true → t.fuses.rollback.getLsbD i = true)) := by
  refine runs_of_when (by unfold exec; rfl) hrun h ⟨fun hold => ?_, rollbackStage_of_kept good,
    (Whole.rollbackStage_burnsOnly good s).burned⟩
  rw [rollbackStage_of_old good hold]
  obtain ⟨hcause, hstage⟩ := imageFails_fails (show 8 < 256 by decide) (setBoot s [(LBootSt.COUNTER, rollbackCounter s.fuses)])
  refine ⟨⟨hcause, fun hsource => hstage ?_⟩, (Whole.imageFails_fuses _ _).trans (setBoot_fuses s _)⟩
  rwa [bootSource, status_setBoot_apart s (by simp [FieldsApart, LBootSt.SOURCE, LBootSt.COUNTER])]

/-! ## Stages 7 to 9 -/

/-- A fold that writes one value at each of its keys leaves at a key of its list what it writes there. -/
theorem foldl_get_of_mem {σ κ β : Type} [DecidableEq κ] {get : σ → κ → β} {f : σ → κ → σ} {v : κ → β}
    (hself : ∀ s k, get (f s k) k = v k) (hother : ∀ s j k, j ≠ k → get (f s k) j = get s j) {l : List κ} {j : κ} (h : j ∈ l)
    (s : σ) : get (l.foldl f s) j = v j := by
  have hkeep : ∀ (l : List κ) (s : σ), get s j = v j → get (l.foldl f s) j = v j := by
    intro l
    induction l with
    | nil => exact fun _ h => h
    | cons k l ih =>
      refine fun s hs => ih _ ?_
      by_cases hk : j = k
      · subst hk
        exact hself s j
      · rw [hother s j k hk, hs]
  induction l generalizing s with
  | nil => exact absurd h (List.not_mem_nil)
  | cons k l ih =>
    rcases List.mem_cons.mp h with rfl | h
    · exact hkeep l _ (hself s j)
    · exact ih h _

/-- A fold whose steps keep a reading keeps it. -/
theorem foldl_get_keep {σ κ β : Type} {get : σ → β} {f : σ → κ → σ} (h : ∀ s k, get (f s k) = get s) (l : List κ) (s : σ) :
    get (l.foldl f s) = get s := by
  induction l generalizing s with
  | nil => rfl
  | cons k l ih => exact (ih _).trans (h s k)

theorem laneWord_trainChannel (free : Nat) (failed : List (Nat × Nat × Nat)) (s : State) (i c : Nat) :
    laneWord (trainChannel free failed s i c) i c = bootLane free failed i c := by
  have hset : laneWord (setLaneWord s i c (bootLane free failed i c)) i c = bootLane free failed i c := by
    simp [laneWord, setLaneWord, State.updIngot]
  unfold trainChannel
  dsimp only
  split
  · exact hset
  · exact hset

theorem laneWord_trainChannel_other (free : Nat) (failed : List (Nat × Nat × Nat)) (s : State) {i c j d : Nat}
    (h : j ≠ i ∨ d ≠ c) : laneWord (trainChannel free failed s i c) j d = laneWord s j d := by
  have hset : laneWord (setLaneWord s i c (bootLane free failed i c)) j d = laneWord s j d := by
    by_cases hj : j = i
    · subst hj
      have hd : d ≠ c := h.resolve_left (not_not_intro rfl)
      simp [laneWord, setLaneWord, State.updIngot, get_set_other hd]
    · simp [laneWord, setLaneWord, State.updIngot, setIngot_ingot_other _ _ _ _ hj]
  unfold trainChannel
  dsimp only
  split
  · exact hset
  · exact hset

/-- Boot training of one ingot. -/
def trainIngot (free : Nat) (failed : List (Nat × Nat × Nat)) (s : State) (i : Nat) : State :=
  (List.range 96).foldl (fun s c => trainChannel free failed s i c) s

theorem trainIngots_eq_foldl (failed : List (Nat × Nat × Nat)) (s : State) :
    trainIngots failed s = (List.range 16).foldl (trainIngot s.free failed) { s with free := s.free + 16 } := rfl

theorem laneWord_trainIngot (free : Nat) (failed : List (Nat × Nat × Nat)) (s : State) (i : Nat) {c : Nat} (hc : c < 96) :
    laneWord (trainIngot free failed s i) i c = bootLane free failed i c :=
  foldl_get_of_mem (get := fun u d => laneWord u i d) (f := fun u d => trainChannel free failed u i d) (v := bootLane free failed i)
    (fun u d => laneWord_trainChannel free failed u i d)
    (fun u _ _ hd => laneWord_trainChannel_other free failed u (.inr hd)) (List.mem_range.mpr hc) s

theorem laneWord_trainIngot_other (free : Nat) (failed : List (Nat × Nat × Nat)) (s : State) {i j : Nat} (c : Nat) (h : j ≠ i) :
    laneWord (trainIngot free failed s i) j c = laneWord s j c :=
  foldl_get_keep (get := fun u => laneWord u j c) (f := fun u d => trainChannel free failed u i d)
    (fun u _ => laneWord_trainChannel_other free failed u (.inl h)) _ s

/-- Boot training leaves each channel's lane word as trained (R478, R481, R483). -/
theorem laneWord_trainIngots (failed : List (Nat × Nat × Nat)) (s : State) {i c : Nat} (hi : i < 16) (hc : c < 96) :
    laneWord (trainIngots failed s) i c = bootLane s.free failed i c := by
  rw [trainIngots_eq_foldl]
  exact foldl_get_of_mem (get := fun u i => laneWord u i c) (f := trainIngot s.free failed)
    (v := fun i => bootLane s.free failed i c) (fun u k => laneWord_trainIngot _ _ u k hc)
    (fun u _ _ hj => laneWord_trainIngot_other _ _ u c hj) (List.mem_range.mpr hi) _

/-- Both fields of a lane word that take one lane hold it. -/
theorem spare_failed_set (w : W64) {l : Nat} (hl : l < 64) :
    LLaneSt.SPARE.get (setAll w [(LLaneSt.SPARE, l), (LLaneSt.FAILED, l)]) = l ∧
      LLaneSt.FAILED.get (setAll w [(LLaneSt.SPARE, l), (LLaneSt.FAILED, l)]) = l := by
  constructor
  · exact (get_setAll_cons w l (by decide) (by simp [FieldsApart, LLaneSt.SPARE, LLaneSt.FAILED])).trans (Nat.mod_eq_of_lt hl)
  · exact (get_setAll_cons (LLaneSt.SPARE.set w l) l (by decide) (by simp)).trans (Nat.mod_eq_of_lt hl)

theorem bootLane_of_failed {free i c l : Nat} {failed : List (Nat × Nat × Nat)} (h : failedLanes failed i c = [l]) (hl : l < 64) :
    LLaneSt.SPARE.get (bootLane free failed i c) = l ∧ LLaneSt.FAILED.get (bootLane free failed i c) = l := by
  rw [bootLane, h]
  exact spare_failed_set _ hl

theorem failedLane_lt {failed : List (Nat × Nat × Nat)} {i c l : Nat} (hall : failed.all (fun e => decide (e.2.2 < 34)) = true)
    (h : failedLanes failed i c = [l]) : l < 34 := by
  have hmem : l ∈ failedLanes failed i c := by simp [h]
  rw [failedLanes, List.mem_eraseDups, List.mem_map] at hmem
  obtain ⟨e, he, rfl⟩ := hmem
  exact of_decide_eq_true (List.all_eq_true.mp hall e (List.mem_filter.mp he).1)

/-- What stage FIRMWARE leaves when every ingot trains. -/
def firmwareUp (failed : List (Nat × Nat × Nat)) (s : State) : State :=
  let t := trainIngots failed (zeroFill s)
  setBoot { t with boot := { t.boot with pcStart := t.clk.ticks } } [(LBootSt.STAGE, 8)]

theorem firmwareUp_mem (failed : List (Nat × Nat × Nat)) (s : State) : (firmwareUp failed s).mem = outside s.mem :=
  (setBoot_mem _ _).trans ((trainIngots_only failed (zeroFill s)).same .mem (by decide))

theorem firmwareUp_laneWord (failed : List (Nat × Nat × Nat)) (s : State) {i c : Nat} (hi : i < 16) (hc : c < 96) :
    laneWord (firmwareUp failed s) i c = bootLane s.free failed i c :=
  (congrArg (fun t : Tab Ingot => Tab.get (Tab.get t Ingot.reset i).lanes laneReset c) (setBoot_ingots _ _)).trans
    (laneWord_trainIngots failed (zeroFill s) hi hc)

theorem bootStageFirmware_runs (ok : Bool) (failed : List (Nat × Nat × Nat)) (hrun : running .power s = true)
    (h : atStage s 7 = true) (hall : failed.all (fun e => decide (e.2.2 < 34)) = true) :
    Runs (.bootStageFirmware ok failed) s (fun t =>
      (ok = false → stage t = 15 ∧ LBootSt.CAUSE.get t.boot.status = 11) ∧
      (ok = true → ingotFails failed = true → stage t = 15 ∧ LBootSt.CAUSE.get t.boot.status = 10) ∧
      (ok = true → ingotFails failed = false → stage t = 8 ∧ t.boot.pcStart = s.clk.ticks ∧ t.wordErr = [] ∧
        (∀ k, k < 2 ^ 52 → memByte t k = 0#8) ∧ (∀ i c l, i < 16 → c < 96 → failedLanes failed i c = [l] →
          LLaneSt.SPARE.get (laneWord t i c) = l ∧ LLaneSt.FAILED.get (laneWord t i c) = l))) := by
  refine runs_of_when (by unfold exec; rfl) hrun (by rw [h, hall]; rfl) ⟨fun hok => ?_, fun hok hf => ?_, fun hok hf => ?_⟩
  · subst hok
    exact ⟨stage_halt 11 s, cause_halt (by decide) s⟩
  · subst hok
    have hstage : firmwareStage true failed s = halt 10 (zeroFill s) := by simp [firmwareStage, hf]
    rw [hstage]
    exact ⟨stage_halt _ _, cause_halt (by decide) _⟩
  · subst hok
    have hstage : firmwareStage true failed s = firmwareUp failed s := by simp [firmwareStage, hf, firmwareUp]
    have hkept := trainIngots_only failed (zeroFill s)
    rw [hstage]
    refine ⟨stage_setBoot _ _ (by decide) (by simp), ?_, ?_, fun k hk => ?_, fun i c l hi hc hl => ?_⟩
    · rw [firmwareUp, setBoot_boot]
      exact congrArg Clock.ticks (hkept.same .clk (by decide))
    · exact (setBoot_wordErr _ _).trans (hkept.same .wordErr (by decide))
    · rw [memByte, firmwareUp_mem, get_outside, if_neg (by omega)]
    · rw [firmwareUp_laneWord failed s hi hc]
      exact bootLane_of_failed hl (Nat.lt_trans (failedLane_lt hall hl) (by decide))

/-- Stage LINKS leaves the registers of boot but for its own mark. -/
theorem linksStage_boot (s : State) : (linksStage true s).boot = { s.boot with links := true } := by
  unfold linksStage
  dsimp only
  rw [if_neg (by decide)]
  refine ((comparePorts_only _ _ _).same .boot (by decide)).trans ?_
  split
  · exact (sendLinkids_only _).same .boot (by decide)
  · rfl

theorem bootStageLinks_runs (ok : Bool) (hrun : running .power s = true) (h : atStage s 8 = true) (hl : s.boot.links = false) :
    Runs (.bootStageLinks ok) s (fun t =>
      if ok then t.boot.links = true ∧ stage t = 8 else stage t = 15 ∧ LBootSt.CAUSE.get t.boot.status = 11) := by
  refine runs_of_when (by unfold exec; rfl) hrun (by rw [h, hl]; rfl) ?_
  cases ok
  · exact ⟨stage_halt 11 s, cause_halt (by decide) s⟩
  · rw [if_pos rfl, stage, linksStage_boot]
    simp only [atStage, Bool.and_eq_true, beq_iff_eq] at h
    exact ⟨rfl, h.1⟩

theorem bootStageReady_runs (hrun : running .power s = true) (h : atStage s 8 = true) (hl : s.boot.links = true) :
    Runs .bootStageReady s (fun t => stage t = 9) := by
  refine runs_of_when (by unfold exec; rfl) hrun (by rw [h, hl]; rfl) ?_
  exact stage_setBoot _ _ (by decide) (by simp)

/-- Settles O51: stage by stage. -/
theorem bootGoesThroughItsStages : Obligations.BootGoesThroughItsStages := by
  intro s ok lanes good failed fails
  refine ⟨rstNAssert_runs, rstNRelease_runs ok, fun hrun => ⟨bootStageFuse_runs ok hrun, bootStageAvkin_runs lanes hrun,
    fun h hs => ?_, bootStageFetch_slotB hrun, bootHeaderPoll_runs hrun, fun h => ?_, bootStageRollback_runs good hrun,
    bootStageFirmware_runs ok failed hrun, bootStageLinks_runs ok hrun, bootStageReady_runs hrun⟩⟩
  · refine bootStageFetch_runs hrun h hs ⟨fun hm => ?_, fun hm hh => ?_, fun hm hh => ?_⟩
    · rw [fetchImage_of_badMagic hm]
      exact imageFails_fails (by decide) s
    · rw [fetchImage_of_badHeader hm hh]
      exact imageFails_fails (by decide) s
    · obtain ⟨hstage, hheader, hsvn, hcopy⟩ := fetchImage_of_good hm hh
      exact ⟨hstage, hheader, hsvn, hcopy⟩
  · simpa only [signatureOk, Bool.and_eq_true, measured] using bootStageVerify_runs hrun h

end Sys2Proof.Boot
end

section
/-! Torus and Avkin links, forwarded packets, lanes, fabric time (R58, R337 to R347, R364 to R368, R476 to R484). -/

namespace Sys2Proof.Links

open Sys2Proof Sys2Proof.Machine Sys2Proof.Laws Sys2Proof.MailboxService Sys2Proof.Pins

variable {s t u : State}

/-! ## Ports -/

@[simp] theorem port_updPort_self (s : State) (p : Nat) (f : Port → Port) : (s.updPort p f).port p = f (s.port p) := setPort_port ..

theorem port_updPort_other (s : State) {p q : Nat} (f : Port → Port) (h : q ≠ p) : (s.updPort p f).port q = s.port q :=
  setPort_port_other _ _ _ _ h

theorem port_of_fab (h : t.fab.ports = s.fab.ports) (p : Nat) : t.port p = s.port p := by rw [State.port, h, State.port]

theorem port_of_only {l : List Part} (h : OnlyChanges l s t) (hl : Part.fab ∉ l) (p : Nat) : t.port p = s.port p :=
  port_of_fab (congrArg Fabric.ports (h.same .fab hl)) p

/-- What training leaves of a port: whether it is trained, the neighbour's record and the link's health. -/
def linkState (x : Port) : Bool × Option (BitVec 256) × W64 := (x.trained, x.seen, x.health)

/-- Every port is as trained as it was. -/
structure KeepsLinks (s t : State) : Prop where
  same : ∀ p, linkState (t.port p) = linkState (s.port p)

theorem keepsLinks_refl (s : State) : KeepsLinks s s := ⟨fun _ => rfl⟩

theorem KeepsLinks.trans (h : KeepsLinks s t) (h' : KeepsLinks t u) : KeepsLinks s u := ⟨fun p => (h'.same p).trans (h.same p)⟩

theorem keepsLinks_of_ports (h : t.fab.ports = s.fab.ports) : KeepsLinks s t := ⟨fun p => congrArg linkState (port_of_fab h p)⟩

theorem keepsLinks_of_only {l : List Part} (h : OnlyChanges l s t) (hl : Part.fab ∉ l) : KeepsLinks s t :=
  ⟨fun p => congrArg linkState (port_of_only h hl p)⟩

theorem keepsLinks_updPort (s : State) (p : Nat) {f : Port → Port} (h : ∀ x, linkState (f x) = linkState x) :
    KeepsLinks s (s.updPort p f) := by
  refine ⟨fun q => ?_⟩
  by_cases hq : q = p
  · subst hq
    rw [port_updPort_self, h]
  · rw [port_updPort_other s f hq]

theorem keepsLinks_foldl {α : Type} {f : State → α → State} (h : ∀ s a, KeepsLinks s (f s a)) (l : List α) (s : State) :
    KeepsLinks s (l.foldl f s) := by
  induction l generalizing s with
  | nil => exact keepsLinks_refl s
  | cons a l ih => exact (h s a).trans (ih _)

theorem keepsLinks_countPort (s : State) (p k n : Nat) : KeepsLinks s (s.countPort p k n) := keepsLinks_updPort s p fun _ => rfl

theorem keepsLinks_setRoutes (s : State) : KeepsLinks s (setRoutes s) := keepsLinks_of_ports rfl

theorem keepsLinks_sendPacket (s : State) (p : Packet) : KeepsLinks s (sendPacket s p) := by
  unfold sendPacket
  split
  · split
    · exact keepsLinks_of_ports rfl
    · exact keepsLinks_updPort s _ fun _ => rfl
  · split
    · exact keepsLinks_refl s
    · exact keepsLinks_countPort ..

theorem keepsLinks_answer (s : State) (q : Packet) (status data : Nat) : KeepsLinks s (answer s q status data) := by
  unfold answer
  split
  · exact keepsLinks_sendPacket ..
  · exact keepsLinks_refl s

/-- The end of fences leaves the ports. -/
theorem settleFences_ports (s : State) : (settleFences s).fab.ports = s.fab.ports := by
  unfold settleFences
  dsimp only
  generalize s.fab.fences.filter (fun f => !s.fab.outstanding.any (fun r => r.unit == f.unit)) = l
  have hkeep : ∀ (l : List FenceX) (u : State), (l.foldl (fun s f => s.emit (.done f.unit 0x10000 f.status [])) u).fab = u.fab :=
    fun l u => Boot.foldl_get_keep (get := State.fab)
      (f := fun (s : State) (f : FenceX) => s.emit (.done f.unit 0x10000 f.status [])) (fun _ _ => rfl) l u
  rw [hkeep]

/-- The end of a request of this device leaves the ports. -/
theorem completeReq_ports (s : State) (r : FabReq) (status : Nat) (data : List Byte) :
    (completeReq s r status data).fab.ports = s.fab.ports := by
  unfold completeReq
  rw [settleFences_ports]
  dsimp only [State.emit]
  split
  · split
    · rfl
    · exact Eq.trans (congrArg Fabric.ports ((lostTiles_only _ r status).same .fab (by decide))) rfl
  · split
    · exact Eq.trans (congrArg Fabric.ports ((jobDone_only _ r _).same .fab (by decide))) rfl
    · exact Eq.trans (congrArg Fabric.ports ((jobFail_only _ _ status).same .fab (by decide))) rfl

theorem keepsLinks_dropPacket (s : State) (port : Nat) (p : Packet) (status : Nat) : KeepsLinks s (dropPacket s port p status) := by
  have hcount : KeepsLinks s (countNoroute s port p) := keepsLinks_countPort ..
  unfold dropPacket
  dsimp only
  split
  · split
    · exact hcount.trans (keepsLinks_of_ports (completeReq_ports ..))
    · exact hcount
  · exact hcount.trans (keepsLinks_answer ..)

/-- The packets queued on a port that has left MATCH are dropped. -/
def dropQueue (s : State) (p status : Nat) : State :=
  (s.port p).queue.foldl (fun s e => dropPacket s p e.2 status) (s.updPort p (fun x => { x with queue := [], busy := 0, above := [] }))

/-- Time loses its parent with the port. -/
def loseParent (p : Nat) (s : State) : State :=
  if LTimeSt.PARENT.get s.clk.status == p then
    { s with clk := { s.clk with status := LTimeSt.LOCKED.set s.clk.status 0, good := 0 } } else s

/-- A mirror pair over the port loses its neighbour. -/
def losePair (p : Nat) (s : State) (n : Nat) : State :=
  if portAxis p == 0 && peerPortTo s (LMirSt.PEER.get (s.mir n).state) == p then mirrorLost s n else s

theorem leaveMatch_eq (s : State) (p status : Nat) : leaveMatch s p status =
    ((loseParent p (dropQueue s p status)).mirrors.map (·.1)).foldl (losePair p) (loseParent p (dropQueue s p status)) := rfl

theorem keepsLinks_dropQueue (s : State) (p status : Nat) : KeepsLinks s (dropQueue s p status) := by
  unfold dropQueue
  refine KeepsLinks.trans (keepsLinks_updPort s p ?_) (keepsLinks_foldl (fun u e => ?_) _ _)
  · exact fun _ => rfl
  · exact keepsLinks_dropPacket u p e.2 status

theorem keepsLinks_loseParent (p : Nat) (s : State) : KeepsLinks s (loseParent p s) := by
  unfold loseParent
  split
  · exact keepsLinks_of_ports rfl
  · exact keepsLinks_refl s

theorem keepsLinks_losePair (p : Nat) (s : State) (n : Nat) : KeepsLinks s (losePair p s n) := by
  unfold losePair
  split
  · exact keepsLinks_of_only (mirrorLost_only s n) (by decide)
  · exact keepsLinks_refl s

theorem keepsLinks_leaveMatch (s : State) (p status : Nat) : KeepsLinks s (leaveMatch s p status) := by
  rw [leaveMatch_eq]
  exact ((keepsLinks_dropQueue s p status).trans (keepsLinks_loseParent p _)).trans (keepsLinks_foldl (keepsLinks_losePair p) _ _)

theorem keepsLinks_comparePorts (s : State) (count : Bool) (status : Nat) : KeepsLinks s (comparePorts s count status) := by
  have hleft : ∀ (news : List (Nat × BitVec 128)) (left : List (Nat × BitVec 128)), KeepsLinks s (setTimeParent
      (left.foldl (fun s e => leaveMatch s e.1 status) (setRoutes (news.foldl (fun s e => s.updPort e.1 (fun x => { x with state := e.2 })) s)))) := by
    intro news left
    refine KeepsLinks.trans ?_ (keepsLinks_of_only (setTimeParent_only _) (by decide))
    refine KeepsLinks.trans ?_ (keepsLinks_foldl (fun (u : State) (e : Nat × BitVec 128) => keepsLinks_leaveMatch u e.1 status) _ _)
    refine KeepsLinks.trans ?_ (keepsLinks_setRoutes _)
    exact keepsLinks_foldl (f := fun (s : State) (e : Nat × BitVec 128) => s.updPort e.1 (fun x => { x with state := e.2 }))
      (fun u e => keepsLinks_updPort u e.1 fun _ => rfl) news s
  unfold comparePorts
  dsimp only
  split
  · refine (hleft _ _).trans (keepsLinks_foldl (fun u e => ?_) _ _)
    exact (keepsLinks_countPort u e.1 0x040 1).trans (keepsLinks_of_only (deviceEvent_only _ _) (by decide))
  · exact hleft _ _

/-! ## Training and packet errors (R343, R346, R347, R476 to R478) -/

theorem KeepsLinks.trained (h : KeepsLinks s t) (p : Nat) : (t.port p).trained = (s.port p).trained := congrArg Prod.fst (h.same p)
theorem KeepsLinks.seen (h : KeepsLinks s t) (p : Nat) : (t.port p).seen = (s.port p).seen := congrArg (·.2.1) (h.same p)
theorem KeepsLinks.health (h : KeepsLinks s t) (p : Nat) : (t.port p).health = (s.port p).health := congrArg (·.2.2) (h.same p)

theorem trainPort_port (s : State) (p : Nat) : ((trainPort s p).port p).trained = true ∧ ((trainPort s p).port p).health =
    setAll (s.port p).health [(LLinkHl.TRAIN_TEMP, linkTemp s p), (LLinkHl.TRAINING, 0), (LLinkHl.DERATED, 0), (LLinkHl.NEXT, 0)] := by
  rw [trainPort, port_updPort_self]
  exact ⟨rfl, rfl⟩

/-- LINKID and the comparison after training leave the port as trained. -/
theorem linkTrained_keeps (s : State) (p : Nat) : KeepsLinks (trainPort s p) (linkTrained p s) := by
  unfold linkTrained
  dsimp only
  split
  · refine KeepsLinks.trans ?_ (keepsLinks_comparePorts _ _ _)
    exact (keepsLinks_countPort _ p 0x010 1).trans (keepsLinks_of_ports rfl)
  · exact keepsLinks_refl _

theorem linkTrained_port (s : State) (p : Nat) : ((linkTrained p s).port p).trained = true ∧
    LLinkHl.TRAIN_TEMP.get ((linkTrained p s).port p).health = linkTemp s p % 256 ∧
    LLinkHl.TRAINING.get ((linkTrained p s).port p).health = 0 := by
  obtain ⟨htrained, hhealth⟩ := trainPort_port s p
  have hkeep := linkTrained_keeps s p
  rw [hkeep.trained, hkeep.health, hhealth]
  refine ⟨htrained, ?_, ?_⟩
  · exact get_setAll_cons _ _ (by decide) (by simp [FieldsApart, LLinkHl.TRAIN_TEMP, LLinkHl.TRAINING, LLinkHl.DERATED, LLinkHl.NEXT])
  · exact get_setAll_cons (LLinkHl.TRAIN_TEMP.set _ _) 0 (by decide) (by simp [FieldsApart, LLinkHl.TRAINING, LLinkHl.DERATED, LLinkHl.NEXT])

theorem trainingLost_port (s : State) (p : Nat) :
    ((trainingLost p s).port p).trained = false ∧ ((trainingLost p s).port p).seen = none := by
  have hkeep := keepsLinks_comparePorts (s.updPort p (fun x => { x with trained := false, seen := none })) (discovered s) St.noroute
  unfold trainingLost
  rw [hkeep.trained, hkeep.seen, port_updPort_self]
  exact ⟨rfl, rfl⟩

theorem linkidArrives_seen (s : State) (p : Nat) (w : BitVec 256) :
    ((linkidArrives p w s).port p).seen = if linkidOk w then some w else (s.port p).seen := by
  unfold linkidArrives
  dsimp only
  split
  · rw [(keepsLinks_comparePorts _ _ _).seen, port_updPort_self]
  · rw [(keepsLinks_countPort _ p 0x038 1).seen, (keepsLinks_countPort s p 0x018 1).seen]

theorem linkFail_port (s : State) (p : Nat) : ((linkFail s p).port p).trained = false ∧
    LLinkHl.TRAINING.get ((linkFail s p).port p).health = 1 := by
  have hset : ∀ w : W64, LLinkHl.TRAINING.get (setAll w [(LLinkHl.TRAINING, 1), (LLinkHl.DERATED, 0), (LLinkHl.NEXT, 0)]) = 1 :=
    fun w => get_setAll_cons w 1 (by decide) (by simp [FieldsApart, LLinkHl.TRAINING, LLinkHl.DERATED, LLinkHl.NEXT])
  unfold linkFail
  dsimp only
  split
  · rw [(keepsLinks_comparePorts _ _ _).trained, (keepsLinks_comparePorts _ _ _).health, port_updPort_self]
    exact ⟨rfl, hset _⟩
  · rw [port_updPort_self]
    exact ⟨rfl, hset _⟩

/-- A counter of a port that is counted once. -/
theorem countPort_ctr_self (s : State) (p k n : Nat) :
    Tab.get ((s.countPort p k n).port p).ctr 0#64 k = Tab.get (s.port p).ctr 0#64 k + BitVec.ofNat 64 n := by
  rw [State.countPort, port_updPort_self, ctrAdd, get_set_self]

theorem countPort_ctr_other (s : State) {p q k j : Nat} (n : Nat) (h : q ≠ p ∨ j ≠ k) :
    Tab.get ((s.countPort p k n).port q).ctr 0#64 j = Tab.get (s.port q).ctr 0#64 j := by
  by_cases hq : q = p
  · subst hq
    rw [State.countPort, port_updPort_self, ctrAdd, get_set_other (h.resolve_left (not_not_intro rfl))]
  · rw [State.countPort, port_updPort_other s _ hq]

/-- The packet in error is a later one than the one that a replay was asked for. -/
abbrev later (x : Port) (seq : Nat) : Prop := x.tries ≠ 0 ∧ seq % 4096 ≠ x.expect

theorem packetError_of_later {p seq : Nat} (h : later (s.port p) seq) : packetError p seq s =
    (s.setPort p { s.port p with tries := (s.port p).tries, replays := (s.port p).replays + 1 }).countPort p 0x050 1 := by
  unfold packetError
  rw [later] at h
  simp [h]

theorem packetError_of_eighth {p seq : Nat} (h : ¬later (s.port p) seq) (ht : (s.port p).tries + 1 ≥ 8) :
    packetError p seq s = linkFail s p := by
  unfold packetError
  rw [later, not_and_or, not_not, not_not] at h
  rcases h with h | h <;> simp_all

theorem packetError_of_try {p seq : Nat} (h : ¬later (s.port p) seq) (ht : ¬(s.port p).tries + 1 ≥ 8) : packetError p seq s =
    ((s.setPort p { s.port p with tries := (s.port p).tries + 1, replays := (s.port p).replays + 1 }).countPort p 0x050 1).emit
      (.replay p (s.port p).expect) := by
  unfold packetError
  rw [later, not_and_or, not_not, not_not] at h
  rcases h with h | h <;> simp_all

theorem packetError_port (s : State) (p seq : Nat) :
    if (s.port p).tries ≠ 0 ∧ seq % 4096 ≠ (s.port p).expect then
      ((packetError p seq s).port p).tries = (s.port p).tries ∧ (packetError p seq s).out = s.out ∧
        Tab.get ((packetError p seq s).port p).ctr 0#64 0x050 = Tab.get (s.port p).ctr 0#64 0x050 + 1
    else if (s.port p).tries + 1 ≥ 8 then
      ((packetError p seq s).port p).trained = false ∧ LLinkHl.TRAINING.get ((packetError p seq s).port p).health = 1
    else ((packetError p seq s).port p).tries = (s.port p).tries + 1 ∧
      (packetError p seq s).out = .replay p (s.port p).expect :: s.out ∧
      Tab.get ((packetError p seq s).port p).ctr 0#64 0x050 = Tab.get (s.port p).ctr 0#64 0x050 + 1 := by
  split
  · next h =>
    rw [packetError_of_later h]
    refine ⟨?_, rfl, ?_⟩
    · rw [State.countPort, port_updPort_self, setPort_port]
    · rw [countPort_ctr_self, setPort_port]
      rfl
  · next h =>
    split
    · next ht =>
      rw [packetError_of_eighth h ht]
      exact linkFail_port s p
    · next ht =>
      rw [packetError_of_try h ht]
      refine ⟨?_, rfl, ?_⟩
      · change ((State.countPort _ p 0x050 1).port p).tries = _
        rw [State.countPort, port_updPort_self, setPort_port]
      · change Tab.get ((State.countPort _ p 0x050 1).port p).ctr 0#64 0x050 = _
        rw [countPort_ctr_self, setPort_port]
        rfl

/-- Settles O23: what the comparison of the ports keeps carries each row's own effect to its end. -/
theorem linksTrainAndFail : Obligations.LinksTrainAndFail := by
  intro s p w seq crcOk ok hrun
  refine ⟨fun hp ht => ?_, fun hp ht => ?_, fun hp ht => ?_, fun hp ht hbad => ?_, fun hp ht hdue => ?_⟩
  · refine runs_of_when (by unfold exec; rfl) hrun (by simp [hp, ht]) ?_
    exact ⟨(linkTrained_port s p).1, (linkTrained_port s p).2.1⟩
  · refine runs_of_when (by unfold exec; rfl) hrun (by simp [hp, ht]) ?_
    exact trainingLost_port s p
  · refine runs_of_when (by unfold exec; rfl) hrun (by simp [hp, ht]) ?_
    exact linkidArrives_seen s p w
  · refine runs_of_when (by unfold exec; rfl) hrun ?_ ?_
    · simp only [hp, ht, hbad]
      rfl
    · exact packetError_port s p seq
  · refine runs_of_when (by unfold exec; rfl) hrun (by simp [hp, ht, hdue]) ?_
    unfold trainingAttempt
    cases ok
    · rw [if_neg (by decide), if_neg (by decide), port_updPort_self]
      exact ⟨rfl, fun k hk => port_updPort_other s _ hk⟩
    · exact ⟨(linkTrained_port s p).1, (linkTrained_port s p).2.2⟩

end Sys2Proof.Links
end

section
/-! Lanes of channels and links, and fabric time (R58, R364 to R368, R478 to R484). -/

namespace Sys2Proof.Lanes

open Sys2Proof Sys2Proof.Machine Sys2Proof.Laws Sys2Proof.MailboxService Sys2Proof.Pins Sys2Proof.Links

variable {s t u : State}

/-! ## Ingots -/

@[simp] theorem ingot_updIngot_self (s : State) (i : Nat) (f : Ingot → Ingot) : (s.updIngot i f).ingot i = f (s.ingot i) :=
  setIngot_ingot ..

theorem ingot_updIngot_other (s : State) {i j : Nat} (f : Ingot → Ingot) (h : j ≠ i) : (s.updIngot i f).ingot j = s.ingot j :=
  setIngot_ingot_other _ _ _ _ h

theorem ingot_of_ingots (h : t.ingots = s.ingots) (i : Nat) : t.ingot i = s.ingot i := by rw [State.ingot, h, State.ingot]

/-- A reading of every ingot is as it was. -/
structure KeepsIngots {β : Type} (read : Ingot → β) (s t : State) : Prop where
  same : ∀ i, read (t.ingot i) = read (s.ingot i)

variable {β : Type} {read : Ingot → β}

theorem keepsIngots_refl (s : State) : KeepsIngots read s s := ⟨fun _ => rfl⟩

theorem KeepsIngots.trans (h : KeepsIngots read s t) (h' : KeepsIngots read t u) : KeepsIngots read s u :=
  ⟨fun i => (h'.same i).trans (h.same i)⟩

theorem keepsIngots_of_only {l : List Part} (h : OnlyChanges l s t) (hl : Part.ingots ∉ l) : KeepsIngots read s t :=
  ⟨fun i => congrArg read (ingot_of_ingots (h.same .ingots hl) i)⟩

theorem keepsIngots_updIngot (s : State) (i : Nat) {f : Ingot → Ingot} (h : ∀ x, read (f x) = read x) :
    KeepsIngots read s (s.updIngot i f) := by
  refine ⟨fun j => ?_⟩
  by_cases hj : j = i
  · subst hj
    rw [ingot_updIngot_self, h]
  · rw [ingot_updIngot_other s f hj]

theorem keepsIngots_foldl {α : Type} {f : State → α → State} (h : ∀ s a, KeepsIngots read s (f s a)) (l : List α) (s : State) :
    KeepsIngots read s (l.foldl f s) := by
  induction l generalizing s with
  | nil => exact keepsIngots_refl s
  | cons a l ih => exact (h s a).trans (ih _)

theorem setBankGroup_eq (s : State) (i bg : Nat) (x : BankGroup) :
    setBankGroup s i bg x = s.updIngot i (fun y => { y with bgs := Tab.set y.bgs BankGroup.reset bg x }) := rfl

theorem keepsIngots_updBankGroup (s : State) (i bg : Nat) (f : BankGroup → BankGroup)
    (h : ∀ (x : Ingot) b, read { x with bgs := b } = read x) : KeepsIngots read s (updBankGroup s i bg f) := by
  rw [updBankGroup, setBankGroup_eq]
  exact keepsIngots_updIngot s i fun x => h x _

/-! ## Bursts of a channel (R58) -/

/-- What bursts count: the tries of each channel and the replays since the last test. -/
def bursts (x : Ingot) : Tab Nat × Tab Nat := (x.tries, x.replays)

theorem startPass_bursts (s : State) (i c : Nat) : KeepsIngots bursts s (startPass s i c) := by
  unfold startPass
  dsimp only
  split
  · exact keepsIngots_refl s
  · split
    · exact keepsIngots_updIngot s i fun _ => rfl
    · refine KeepsIngots.trans (keepsIngots_updIngot s i ?_) (KeepsIngots.trans (keepsIngots_updIngot _ i ?_) (keepsIngots_updIngot _ i ?_))
      all_goals exact fun _ => rfl

theorem testChannel_bursts (s : State) (i c : Nat) : KeepsIngots bursts s (testChannel s i c) := by
  unfold testChannel
  dsimp only
  split
  · exact startPass_bursts s i c
  · exact keepsIngots_refl s

theorem failHead_bursts (s : State) (i c : Nat) : KeepsIngots bursts s (failHead s i c) := by
  unfold failHead
  split
  · exact keepsIngots_refl s
  · split
    · exact keepsIngots_refl s
    · refine KeepsIngots.trans ?_ (keepsIngots_of_only (failEnt_only _ i _ St.link) (by decide))
      exact keepsIngots_updBankGroup s i _ _ fun _ _ => rfl

/-- The end of an access keeps what was delivered before it. -/
theorem mem_failEnt_out {o : Out} (i : Nat) (e : ExtEnt) (st : Nat) (h : o ∈ s.out) : o ∈ (failEnt s i e st).out := by
  unfold failEnt
  split
  · exact List.mem_cons_of_mem _ h
  · exact List.mem_cons_of_mem _ h
  · rw [show (failPacket s _ st).out = s.out from (failPacket_only s _ st).same .out (by decide)]
    exact h
  · exact h

theorem mem_failHead_out {o : Out} (i c : Nat) (h : o ∈ s.out) : o ∈ (failHead s i c).out := by
  unfold failHead
  split
  · exact h
  · split
    · exact h
    · exact mem_failEnt_out _ _ _ h

theorem countIngot_tries (s : State) (i k n : Nat) (f : Ingot → Ingot) :
    (((s.updIngot i f).countIngot i k n).ingot i).tries = (f (s.ingot i)).tries := by
  rw [State.countIngot, ingot_updIngot_self, ingot_updIngot_self]

theorem burstError_of_try {i c : Nat} (h : Tab.get (s.ingot i).tries 0 c + 1 < 8) :
    Tab.get ((burstError i c s).ingot i).tries 0 c = Tab.get (s.ingot i).tries 0 c + 1 ∧
      (burstError i c s).out = .burstReplay i c :: s.out := by
  unfold burstError
  dsimp only
  rw [if_pos h]
  refine ⟨?_, rfl⟩
  change Tab.get ((State.countIngot _ i 0x098 1).ingot i).tries 0 c = _
  rw [countIngot_tries, get_set_self]

theorem burstError_of_eighth {i c : Nat} (h : ¬Tab.get (s.ingot i).tries 0 c + 1 < 8) :
    Tab.get ((burstError i c s).ingot i).tries 0 c = 0 ∧ .done i c St.link [] ∈ (burstError i c s).out := by
  unfold burstError
  dsimp only
  rw [if_neg h]
  generalize hcounted : (s.updIngot i (fun x => { x with tries := Tab.set x.tries 0 c 0 })).countIngot i 0x0A0 1 = v
  have htries : Tab.get (v.ingot i).tries 0 c = 0 := by
    rw [← hcounted, countIngot_tries, get_set_self]
  have hpass := startPass_bursts ((logError v (i * 96 + c) 4 0 0 none false).emit (.done i c St.link [])) i c
  constructor
  · have hsame := congrArg Prod.fst (((hpass.trans (failHead_bursts _ i c))).same i)
    exact (congrArg (fun x : Tab Nat => Tab.get x 0 c) hsame).trans htries
  · refine mem_failHead_out i c ?_
    rw [show (startPass _ i c).out = _ from (startPass_only _ i c).same .out (by decide)]
    exact List.mem_cons_self

/-! ## Lane tests (R479) -/

theorem testLink_ingots (s : State) (p : Nat) : (testLink s p).ingots = s.ingots := (testLink_only s p).same .ingots (by decide)

/-- The test of one ingot's channels. -/
def testIngot (s : State) (i : Nat) : State :=
  ((List.range 96).foldl (fun s c => testChannel s i c) s).updIngot i (fun x => { x with replays := [] })

theorem laneTest_eq (s : State) : laneTest s = (List.range 7).foldl testLink ((List.range 16).foldl testIngot s) := rfl

theorem laneTest_replays (s : State) {k : Nat} (hk : k < 16) : ((laneTest s).ingot k).replays = [] := by
  have hlinks : ((laneTest s).ingot k).replays = (((List.range 16).foldl testIngot s).ingot k).replays := by
    rw [laneTest_eq]
    exact Boot.foldl_get_keep (get := fun u => (u.ingot k).replays) (f := testLink)
      (fun u p => congrArg Ingot.replays (ingot_of_ingots (testLink_ingots u p) k)) _ _
  rw [hlinks]
  refine Boot.foldl_get_of_mem (get := fun u i => (u.ingot i).replays) (f := testIngot) (v := fun _ => []) (fun u i => ?_)
    (fun u j i hj => ?_) (List.mem_range.mpr hk) s
  · rw [testIngot, ingot_updIngot_self]
  · rw [testIngot, ingot_updIngot_other _ _ hj]
    exact congrArg Prod.snd ((keepsIngots_foldl (fun u c => testChannel_bursts u i c) (List.range 96) u).same j)

/-! ## Spares and hand-overs (R481, R483) -/

theorem laneWord_setLaneWord (s : State) (i c : Nat) (w : W64) : laneWord (setLaneWord s i c w) i c = w := by
  rw [laneWord, setLaneWord, ingot_updIngot_self]
  exact get_set_self ..

theorem setLaneWord_retrain (s : State) (i c : Nat) (w : W64) : ((setLaneWord s i c w).ingot i).retrain = (s.ingot i).retrain := by
  rw [setLaneWord, ingot_updIngot_self]

theorem spareDone_ok (s : State) (i c : Nat) : Tab.get ((spareDone i c true s).ingot i).retrain (64, 0) c = (64, 0) ∧
    LLaneSt.RETRAINS.get (laneWord (spareDone i c true s) i c) = LLaneSt.RETRAINS.get (LLaneSt.RETRAINS.bump (laneWord s i c)) := by
  unfold spareDone
  dsimp only
  rw [if_pos rfl]
  have herased : Tab.get ((s.updIngot i (fun x => { x with retrain := Tab.erase x.retrain c })).ingot i).retrain (64, 0) c = (64, 0) := by
    rw [ingot_updIngot_self]
    exact get_erase_self ..
  split
  · refine ⟨?_, ?_⟩
    · rw [setLaneWord_retrain]
      exact herased
    · rw [laneWord_setLaneWord]
      exact get_setAll_apart _ (by simp [FieldsApart, LLaneSt.RETRAINS, LLaneSt.STEPS, LLaneSt.DERATED, LLaneSt.DOWN, LLaneSt.TRAIN_TEMP])
  · refine ⟨?_, ?_⟩
    · rw [setLaneWord_retrain]
      exact herased
    · rw [laneWord_setLaneWord]

theorem spareDone_again {i c : Nat} (h : (Tab.get (s.ingot i).retrain (64, 0) c).2 < 2) :
    (Tab.get ((spareDone i c false s).ingot i).retrain (64, 0) c).2 = (Tab.get (s.ingot i).retrain (64, 0) c).2 + 1 := by
  unfold spareDone
  dsimp only
  rw [if_neg (by decide), if_neg (by omega), ingot_updIngot_self]
  exact congrArg Prod.snd (get_set_self ..)

/-- The lane next to the spare in the walk's direction. -/
def nextSpare (w : W64) : Nat := if LLaneSt.DOWN.on w then LLaneSt.SPARE.get w - 1 else LLaneSt.SPARE.get w + 1

theorem nextSpare_lt {i c : Nat} (h : handoverOk i c s = true) : nextSpare (laneWord s i c) < 64 ∧ LLaneSt.STEPS.get (laneWord s i c) < 33 := by
  simp only [handoverOk, Bool.and_eq_true, decide_eq_true_eq] at h
  obtain ⟨⟨⟨-, hsteps⟩, -⟩, hend⟩ := h
  refine ⟨?_, hsteps⟩
  have hspare : LLaneSt.SPARE.get (laneWord s i c) < 64 := BitVec.isLt _
  unfold nextSpare
  split
  · omega
  · next hdown =>
    rw [if_neg hdown, decide_eq_true_eq] at hend
    omega

theorem handover_lane {i c : Nat} (h : handoverOk i c s = true) :
    LLaneSt.SPARE.get (laneWord (handover i c s) i c) = nextSpare (laneWord s i c) ∧
      LLaneSt.STEPS.get (laneWord (handover i c s) i c) = LLaneSt.STEPS.get (laneWord s i c) + 1 ∧
      Tab.get ((handover i c s).ingot i).retrain (64, 0) c = (nextSpare (laneWord s i c), 0) := by
  obtain ⟨hnext, hsteps⟩ := nextSpare_lt h
  have hword : laneWord (handover i c s) i c =
      setAll (laneWord s i c) [(LLaneSt.SPARE, nextSpare (laneWord s i c)), (LLaneSt.STEPS, LLaneSt.STEPS.get (laneWord s i c) + 1)] := by
    rw [handover, laneWord, State.countIngot, ingot_updIngot_self, ingot_updIngot_self]
    exact laneWord_setLaneWord ..
  rw [hword]
  refine ⟨?_, ?_, ?_⟩
  · exact (get_setAll_cons _ _ (by decide) (by simp [FieldsApart, LLaneSt.SPARE, LLaneSt.STEPS])).trans (Nat.mod_eq_of_lt hnext)
  · refine (get_setAll_cons (LLaneSt.SPARE.set (laneWord s i c) _) (LLaneSt.STEPS.get (laneWord s i c) + 1) (by decide) (by simp)).trans ?_
    exact Nat.mod_eq_of_lt (Nat.lt_trans (Nat.succ_lt_succ hsteps) (by decide))
  · rw [handover, State.countIngot, ingot_updIngot_self, ingot_updIngot_self]
    exact get_set_self ..

/-! ## Link lanes (R482) -/

theorem linkLanes_le (s : State) (p : Nat) : linkLanes s p ≤ 16 := by
  unfold linkLanes
  split
  · decide
  · split <;> decide

/-- The link's health after its pass's next lane has retrained. -/
def laneHealth (h : W64) (lanes temp : Nat) : W64 :=
  if LLinkHl.NEXT.get (LLinkHl.RETRAINS.bump h) + 1 ≥ lanes then
    setAll (LLinkHl.RETRAINS.bump h) [(LLinkHl.NEXT, 0), (LLinkHl.DERATED, 0), (LLinkHl.TRAIN_TEMP, temp)]
  else LLinkHl.NEXT.set (LLinkHl.RETRAINS.bump h) (LLinkHl.NEXT.get (LLinkHl.RETRAINS.bump h) + 1)

theorem next_bump (h : W64) : LLinkHl.NEXT.get (LLinkHl.RETRAINS.bump h) = LLinkHl.NEXT.get h :=
  get_set_apart _ _ (by simp [FieldsApart, LLinkHl.NEXT, LLinkHl.RETRAINS])

theorem derated_bump (h : W64) : LLinkHl.DERATED.get (LLinkHl.RETRAINS.bump h) = LLinkHl.DERATED.get h :=
  get_set_apart _ _ (by simp [FieldsApart, LLinkHl.DERATED, LLinkHl.RETRAINS])

theorem laneHealth_of_last {h : W64} {lanes : Nat} (temp : Nat) (hl : LLinkHl.NEXT.get h + 1 ≥ lanes) :
    LLinkHl.DERATED.get (laneHealth h lanes temp) = 0 ∧ LLinkHl.NEXT.get (laneHealth h lanes temp) = 0 := by
  rw [laneHealth, if_pos (by rwa [next_bump])]
  generalize LLinkHl.RETRAINS.bump h = w
  constructor
  · exact get_setAll_cons (LLinkHl.NEXT.set w 0) 0 (by decide) (by simp [FieldsApart, LLinkHl.DERATED, LLinkHl.TRAIN_TEMP])
  · exact get_setAll_cons w 0 (by decide) (by simp [FieldsApart, LLinkHl.NEXT, LLinkHl.DERATED, LLinkHl.TRAIN_TEMP])

theorem laneHealth_of_next {h : W64} {lanes : Nat} (temp : Nat) (hlanes : lanes ≤ 16) (hl : ¬LLinkHl.NEXT.get h + 1 ≥ lanes)
    (hd : LLinkHl.DERATED.on h = true) : LLinkHl.DERATED.on (laneHealth h lanes temp) = true ∧
      LLinkHl.NEXT.get (laneHealth h lanes temp) = LLinkHl.NEXT.get h + 1 := by
  rw [laneHealth, if_neg (by rwa [next_bump]), next_bump]
  constructor
  · rw [Fld.on, get_set_apart _ _ (by simp [FieldsApart, LLinkHl.DERATED, LLinkHl.NEXT]), derated_bump]
    exact hd
  · exact (get_set_same _ _ _ (by decide)).trans (Nat.mod_eq_of_lt (show _ < 16 by omega))

theorem linkLane_ok_eq (s : State) (p : Nat) : linkLane p true s =
    (s.setPort p { s.port p with health := laneHealth (s.port p).health (linkLanes s p) (linkTemp s p), laneFails := 0,
                                 laneSince := now s }).countPort p 0x060 1 := rfl

theorem linkLane_ok_port (s : State) (p : Nat) :
    ((linkLane p true s).port p).health = laneHealth (s.port p).health (linkLanes s p) (linkTemp s p) ∧
      Tab.get ((linkLane p true s).port p).ctr 0#64 0x060 = Tab.get (s.port p).ctr 0#64 0x060 + 1 ∧
      (∀ k, k ≠ 0x060 → Tab.get ((linkLane p true s).port p).ctr 0#64 k = Tab.get (s.port p).ctr 0#64 k) := by
  rw [linkLane_ok_eq]
  refine ⟨?_, ?_, fun k hk => ?_⟩
  · rw [State.countPort, port_updPort_self, setPort_port]
  · rw [countPort_ctr_self, setPort_port]
    rfl
  · rw [countPort_ctr_other _ _ (.inr hk), setPort_port]

/-- Settles O24: each row acts on one channel or one link. -/
theorem lanesAreReplacedOneByOne : Obligations.LanesAreReplacedOneByOne := by
  intro s i c p data crc
  refine ⟨fun hrun hi hc hcrc => ?_, fun hrun hi hc hcrc => ?_, fun hrun => ?_, fun hrun hi hc hr => ⟨?_, fun htwo => ?_⟩,
    fun hrun hok => ?_, fun hrun hd ht => ?_⟩
  · refine runs_of_when (by unfold exec; rfl) hrun (by simp [hi, hc]) ?_
    rw [if_neg hcrc]
    split
    · next h => exact burstError_of_try h
    · next h => exact burstError_of_eighth h
  · refine runs_of_when (by unfold exec; rfl) hrun (by simp [hi, hc]) ?_
    rw [if_pos hcrc, ingot_updIngot_self]
    exact ⟨get_erase_self .., rfl⟩
  · refine runs_of_running (by unfold exec; rfl) hrun ?_
    exact fun k hk => laneTest_replays s hk
  · refine runs_of_when (by unfold exec; rfl) hrun (by simp [hi, hc, hr]) ?_
    exact spareDone_ok s i c
  · refine runs_of_when (by unfold exec; rfl) hrun (by simp [hi, hc, hr]) ?_
    exact spareDone_again htwo
  · refine runs_of_when (by unfold exec; rfl) hrun hok ?_
    obtain ⟨hspare, hsteps, hretrain⟩ := handover_lane hok
    exact ⟨hspare, hsteps, by rw [hretrain, hspare]⟩
  · intro last
    refine ⟨fun hp hq => ?_, fun hp hdue => ?_⟩
    · refine runs_of_when (by unfold exec; rfl) hrun (by simp [hp, hq, hd, ht]) ?_
      obtain ⟨hhealth, hctr, -⟩ := linkLane_ok_port s p
      rw [hhealth]
      exact ⟨laneHealth_of_last _, fun hlast => laneHealth_of_next _ (linkLanes_le s p) hlast hd, hctr⟩
    · refine runs_of_when (by unfold exec; rfl) hrun (by simp [hp, hd, ht, hdue]) ?_
      obtain ⟨hhealth, -, hctr⟩ := linkLane_ok_port (s.countPort p 0x068 1) p
      rw [hhealth, hctr _ (by decide), countPort_ctr_self]
      refine ⟨fun hlast => (laneHealth_of_last _ ?_).1, rfl⟩
      rw [State.countPort, port_updPort_self]
      exact hlast

/-! ## Fabric time (R364 to R368) -/

/-- The end of a request that serves no job leaves the bindings. -/
theorem completeReq_binds {r : FabReq} (status : Nat) (data : List Byte) (h : r.serves = none) :
    (completeReq s r status data).binds = s.binds := by
  unfold completeReq
  rw [(settleFences_only _).same .binds (by decide), h]
  dsimp only [State.emit]
  split
  · rfl
  · exact (lostTiles_only _ r status).same .binds (by decide)

/-- A request that is to be awaited is noted as it leaves. -/
def noted (s : State) (h : HeldReq) : State :=
  if h.tracked then
    { s with fab := { s.fab with outstanding := s.fab.outstanding ++ [{ h.req with issued := now s, limit := tierTimeout s }] } }
  else s

theorem noted_binds (s : State) (h : HeldReq) : (noted s h).binds = s.binds := by
  unfold noted
  split <;> rfl

theorem launch_eq (s : State) (h : HeldReq) : launch s h =
    match if haveChip (noted s h) then outPort (noted s h) 6 h.req.dest else none with
    | some out => launchPacket (noted s h) out h.pkt
    | none =>
      if h.tracked then
        completeReq (countNoroute (noted s h) 6 h.pkt) { h.req with issued := now s, limit := tierTimeout s } St.noroute []
      else countNoroute (noted s h) 6 h.pkt := rfl

/-- A request outside the bulk class that serves no job leaves the bindings as it leaves its unit. -/
theorem launch_binds {h : HeldReq} (hs : h.req.serves = none) (hc : LPkt.CLASS.get h.pkt.hdr ≠ 3) : (launch s h).binds = s.binds := by
  rw [launch_eq, ← noted_binds s h]
  split
  · rw [launchPacket, if_neg hc]
    rfl
  · split
    · refine (completeReq_binds St.noroute [] ?_).trans ?_
      · exact hs
      · rfl
    · rfl

/-- The header of a request that this device issues (R327). -/
def reqHdr (s : State) (unit dest cls seat : Nat) (mk : List (Fld × Nat)) : BitVec 256 :=
  setAll 0#256 ([(LPkt.CLASS, cls), (LPkt.DEST, dest), (LPkt.SRC, ownChip s), (LPkt.STAG, ownTag s), (LPkt.SEAT, seat),
    (LPkt.UNIT, unit), (LPkt.SEQ, Tab.get s.fab.seqs 0 (seqSlot unit dest cls))] ++ mk)

theorem class_reqHdr (s : State) {unit dest cls seat : Nat} {mk : List (Fld × Nat)} (hmk : ∀ e ∈ mk, FieldsApart LPkt.CLASS e.1) :
    LPkt.CLASS.get (reqHdr s unit dest cls seat mk) = cls % 4 := by
  unfold reqHdr
  generalize ownChip s = own
  generalize ownTag s = tag
  generalize Tab.get s.fab.seqs 0 (seqSlot unit dest cls) = n
  refine get_setAll_cons _ _ (by decide) (List.forall_mem_append.mpr ⟨?_, hmk⟩)
  simp [FieldsApart, LPkt.CLASS, LPkt.DEST, LPkt.SRC, LPkt.STAG, LPkt.SEAT, LPkt.UNIT, LPkt.SEQ]

/-- The next sequence number of a flow is taken. -/
def numbered (s : State) (unit dest cls : Nat) : State :=
  { s with fab := { s.fab with
      seqs := Tab.set s.fab.seqs 0 (seqSlot unit dest cls) ((Tab.get s.fab.seqs 0 (seqSlot unit dest cls) + 1) % 65536) } }

/-- A request of this device with its packet. -/
def reqOf (s : State) (serves : Option Job) (tracked : Bool) (span unit dest cls seat : Nat) (posted : Bool) (dst left : Nat)
    (mk : List (Fld × Nat)) (payload : BitVec 4096) : HeldReq :=
  ⟨⟨unit, dest, cls, Tab.get s.fab.seqs 0 (seqSlot unit dest cls), posted, dst, left, span, St.ok, now s, tierTimeout s, serves⟩,
    ⟨reqHdr s unit dest cls seat mk, payload⟩, tracked⟩

theorem issueAs_eq (s : State) (serves : Option Job) (tracked : Bool) (span unit dest cls seat : Nat) (posted : Bool)
    (dst left : Nat) (mk : List (Fld × Nat)) (payload : BitVec 4096) :
    issueAs s serves tracked span unit dest cls seat posted dst left mk payload =
      if mayIssue (numbered s unit dest cls) unit dest cls posted && !flowHeld (numbered s unit dest cls).fab.held unit dest cls then
        launch (numbered s unit dest cls) (reqOf s serves tracked span unit dest cls seat posted dst left mk payload)
      else { numbered s unit dest cls with fab := { (numbered s unit dest cls).fab with
        held := (numbered s unit dest cls).fab.held ++ [reqOf s serves tracked span unit dest cls seat posted dst left mk payload] } } :=
  rfl

theorem issueAs_binds (s : State) (tracked : Bool) (span unit dest cls seat : Nat) (posted : Bool) (dst left : Nat)
    {mk : List (Fld × Nat)} (payload : BitVec 4096) (hc : cls < 3) (hmk : ∀ e ∈ mk, FieldsApart LPkt.CLASS e.1) :
    (issueAs s none tracked span unit dest cls seat posted dst left mk payload).binds = s.binds := by
  rw [issueAs_eq]
  split
  · refine launch_binds (s := numbered s unit dest cls) rfl ?_
    rw [reqOf, class_reqHdr s hmk]
    omega
  · rfl

theorem message_binds (s : State) (dest seat bytes : Nat) : (message s dest 0 seat bytes).binds = s.binds := by
  refine Boot.foldl_get_keep (get := State.binds) (fun u i => ?_) _ s
  refine issueAs_binds u true 1 bankerUnit dest 0 seat true 0 0 _ (by decide) ?_
  simp [FieldsApart, LPkt.CLASS, LPkt.TYPE, LPkt.PLEN]

theorem askTime_binds (s : State) : (askTime s).binds = s.binds := by
  unfold askTime
  split
  · exact message_binds s _ 0 64
  · rfl

theorem askTime_clk (s : State) : (askTime s).clk = s.clk := by
  unfold askTime
  split
  · exact (message_only s _ 0 0 64).same .clk (by decide)
  · rfl

theorem loadedBinds_of_binds (h : t.binds = s.binds) : loadedBinds t = loadedBinds s := by
  simp only [loadedBinds, State.bind, h]

/-- A signed field holds a value in its range that was written to it. -/
theorem getInt_of_get {f : Fld} {n : Nat} {x : BitVec n} {v : Int} (h : f.get x = (v % (2 ^ f.w : Nat)).toNat)
    (hlo : -(2 ^ (f.w - 1) : Nat) ≤ v) (hhi : v < (2 ^ (f.w - 1) : Nat)) (hw : 0 < f.w) : f.getInt x = v := by
  have hpos : (0 : Int) < (2 ^ f.w : Nat) := by exact_mod_cast Nat.two_pow_pos _
  have hhalf : (2 ^ f.w : Nat) = 2 * 2 ^ (f.w - 1) := by rw [← pow_succ', Nat.sub_add_cancel hw]
  have hget : ((x.extractLsb' f.lo f.w).toNat : Int) = v % (2 ^ f.w : Nat) := by
    rw [← Int.toNat_of_nonneg (Int.emod_nonneg v hpos.ne')]
    exact congrArg Nat.cast h
  rw [Fld.getInt, BitVec.toInt_eq_toNat_bmod, hget, Int.emod_bmod]
  refine Int.bmod_eq_of_le ?_ ?_ <;> omega

theorem satInt_range (w : Nat) (v : Int) : -(2 ^ (w - 1) : Nat) ≤ satInt w v ∧ satInt w v < (2 ^ (w - 1) : Nat) := by
  have hpos : 0 < 2 ^ (w - 1) := Nat.two_pow_pos _
  unfold satInt
  omega

/-- What an exchange leaves of the clock (R365, R366). -/
theorem timeSync_status (s : State) (t1 t2 t3 t4 h : Nat) : (timeSync t1 t2 t3 t4 h s).clk.status = setAll s.clk.status
    [(LTimeSt.LOCKED, if decide (syncOffset t1 t2 t3 t4 < -400) || decide (400 < syncOffset t1 t2 t3 t4) then 0
        else if (if decide (-16 ≤ syncOffset t1 t2 t3 t4) && decide (syncOffset t1 t2 t3 t4 ≤ 16) then s.clk.good + 1 else 0) ≥ 3 then 1
        else LTimeSt.LOCKED.get s.clk.status),
      (LTimeSt.HOPS, h + 1), (LTimeSt.OFFSET, (satInt 16 (syncOffset t1 t2 t3 t4) % 65536).toNat),
      (LTimeSt.RATE, (syncRate (LTimeSt.RATE.getInt s.clk.status) (syncOffset t1 t2 t3 t4) (Config.freeWord s.free).toNat % 65536).toNat)] :=
  rfl

theorem locked_setAll (w : W64) (l h o r : Nat) :
    LTimeSt.LOCKED.get (setAll w [(LTimeSt.LOCKED, l), (LTimeSt.HOPS, h), (LTimeSt.OFFSET, o), (LTimeSt.RATE, r)]) = l % 2 :=
  get_setAll_cons w l (by decide) (by simp [FieldsApart, LTimeSt.LOCKED, LTimeSt.HOPS, LTimeSt.OFFSET, LTimeSt.RATE])

theorem hops_setAll (w : W64) (l h o r : Nat) :
    LTimeSt.HOPS.get (setAll w [(LTimeSt.LOCKED, l), (LTimeSt.HOPS, h), (LTimeSt.OFFSET, o), (LTimeSt.RATE, r)]) = h % 64 :=
  get_setAll_cons (LTimeSt.LOCKED.set w l) h (by decide) (by simp [FieldsApart, LTimeSt.HOPS, LTimeSt.OFFSET, LTimeSt.RATE])

theorem offset_setAll (w : W64) (l h o r : Nat) :
    LTimeSt.OFFSET.get (setAll w [(LTimeSt.LOCKED, l), (LTimeSt.HOPS, h), (LTimeSt.OFFSET, o), (LTimeSt.RATE, r)]) = o % 65536 :=
  get_setAll_cons (LTimeSt.HOPS.set (LTimeSt.LOCKED.set w l) h) o (by decide) (by simp [FieldsApart, LTimeSt.OFFSET, LTimeSt.RATE])

theorem timeSync_hops (s : State) (t1 t2 t3 t4 h : Nat) : LTimeSt.HOPS.get (timeSync t1 t2 t3 t4 h s).clk.status = (h + 1) % 64 := by
  rw [timeSync_status, hops_setAll]

theorem timeSync_offset (s : State) (t1 t2 t3 t4 h : Nat) :
    LTimeSt.OFFSET.getInt (timeSync t1 t2 t3 t4 h s).clk.status = satInt 16 (syncOffset t1 t2 t3 t4) := by
  obtain ⟨hlo, hhi⟩ := satInt_range 16 (syncOffset t1 t2 t3 t4)
  refine getInt_of_get (f := LTimeSt.OFFSET) ?_ hlo hhi (by decide)
  rw [timeSync_status, offset_setAll]
  refine Nat.mod_eq_of_lt ?_
  have hlt : satInt 16 (syncOffset t1 t2 t3 t4) % 65536 < 65536 := Int.emod_lt_of_pos _ (by decide)
  omega

theorem timeSync_locked (s : State) (t1 t2 t3 t4 h : Nat) :
    (syncOffset t1 t2 t3 t4 < -400 ∨ 400 < syncOffset t1 t2 t3 t4 → LTimeSt.LOCKED.get (timeSync t1 t2 t3 t4 h s).clk.status = 0) ∧
    (-16 ≤ syncOffset t1 t2 t3 t4 ∧ syncOffset t1 t2 t3 t4 ≤ 16 → 2 ≤ s.clk.good →
      LTimeSt.LOCKED.get (timeSync t1 t2 t3 t4 h s).clk.status = 1) := by
  rw [timeSync_status, locked_setAll]
  refine ⟨fun hfar => ?_, fun ⟨hlo, hhi⟩ hgood => ?_⟩
  · have hfar' : (decide (syncOffset t1 t2 t3 t4 < -400) || decide (400 < syncOffset t1 t2 t3 t4)) = true := by simpa using hfar
    rw [if_pos hfar']
  · have hnear : ¬(decide (syncOffset t1 t2 t3 t4 < -400) || decide (400 < syncOffset t1 t2 t3 t4)) = true := by
      simp only [Bool.or_eq_true, decide_eq_true_eq]
      omega
    have hsmall : (decide (-16 ≤ syncOffset t1 t2 t3 t4) && decide (syncOffset t1 t2 t3 t4 ≤ 16)) = true := by simp [hlo, hhi]
    rw [if_neg hnear, if_pos hsmall, if_pos (by omega)]

theorem timeSync_time (s : State) (t1 t2 t3 t4 h : Nat) : (timeSync t1 t2 t3 t4 h s).clk.time =
    if !s.clk.synced && (loadedBinds s).isEmpty then BitVec.ofInt 64 ((s.clk.time.toNat : Int) + syncOffset t1 t2 t3 t4 / 4)
    else s.clk.time := rfl

/-- Settles O25: the child's message leaves clocks and bindings, and the exchange then writes the clock alone. -/
theorem timeExchangesCorrectTheClock : Obligations.TimeExchangesCorrectTheClock := by
  intro s t1 t2 t3 t4 h hrun hparent
  have hexec : exec (.timeSyncExchange t1 t2 t3 t4 h) s = .next (timeSync t1 t2 t3 t4 h (askTime s)) := by
    change act .link (when _ _) s = _
    rw [PipCore.act_of_running _ hrun, when, if_pos hparent]
  obtain ⟨hfar, hnear⟩ := timeSync_locked (askTime s) t1 t2 t3 t4 h
  have htime := timeSync_time (askTime s) t1 t2 t3 t4 h
  rw [askTime_clk, loadedBinds_of_binds (askTime_binds s)] at htime
  rw [askTime_clk] at hnear
  refine ⟨_, hexec, timeSync_hops .., timeSync_offset .., hfar, hnear, fun hkept => ?_, fun hs hb => ?_, rfl, Whole.exec_only _ hexec⟩
  · rw [htime, if_neg]
    rcases hkept with hs | hb
    · simp [hs]
    · simp [hb]
  · rw [htime, if_pos (by simp [hs, hb])]

end Sys2Proof.Lanes
end

section
/-! Forwarded packets (R329, R338 to R342, R352). -/

namespace Sys2Proof.Links

open Sys2Proof Sys2Proof.Machine Sys2Proof.Laws Sys2Proof.MailboxService Sys2Proof.Pins

variable {s t u : State}

/-! ## What the routes read -/

/-- Routes read the STATE of ports and nothing else of them. -/
theorem outPort_updPort (s : State) (p : Nat) {f : Port → Port} (h : ∀ x, (f x).state = x.state) (src dest : Nat) :
    outPort (s.updPort p f) src dest = outPort s src dest := by
  have hmatch : isMatch (s.updPort p f) = isMatch s := by
    funext q
    by_cases hq : q = p
    · subst hq
      rw [isMatch, portState, port_updPort_self, h, isMatch, portState]
    · rw [isMatch, portState, port_updPort_other s f hq, isMatch, portState]
  unfold outPort
  rw [hmatch]
  rfl

theorem outPort_countPort (s : State) (p k n src dest : Nat) : outPort (s.countPort p k n) src dest = outPort s src dest :=
  outPort_updPort s p (by intro _; rfl) src dest

theorem outPort_received (s : State) (p src dest : Nat) : outPort (received s p) src dest = outPort s src dest := by
  rw [received, outPort_countPort]
  exact outPort_updPort s p (by intro _; rfl) src dest

theorem queue_updPort (s : State) (p q : Nat) {f : Port → Port} (h : ∀ x, (f x).queue = x.queue) :
    ((s.updPort p f).port q).queue = (s.port q).queue := by
  by_cases hq : q = p
  · subst hq
    rw [port_updPort_self, h]
  · rw [port_updPort_other s f hq]

theorem queue_countPort (s : State) (p k n q : Nat) : ((s.countPort p k n).port q).queue = (s.port q).queue :=
  queue_updPort s p q (by intro _; rfl)

theorem queue_received (s : State) (p q : Nat) : ((received s p).port q).queue = (s.port q).queue := by
  rw [received, queue_countPort]
  exact queue_updPort s p q (by intro _; rfl)

theorem received_ctr (s : State) (p : Nat) {k : Nat} (h : k ≠ 0x018) :
    Tab.get ((received s p).port p).ctr 0#64 k = Tab.get (s.port p).ctr 0#64 k := by
  rw [received, countPort_ctr_other _ _ (.inr h), port_updPort_self]

/-! ## Answers -/

/-- A packet that is sent joins what waits. -/
theorem sends_sendPacket (s : State) (q : Packet) : Sends q s (sendPacket s q) := by
  intro o ho
  rw [sendPacket, ho]
  dsimp only
  split
  · rw [stagePacket, bulkStage, setBulkStage, get_set_self]
  · rw [queuePacket, port_updPort_self]

/-- What a count on the way adds is nothing that a packet's way reads. -/
theorem sends_of_counted {q : Packet} {p k n : Nat} (h : Sends q (s.countPort p k n) t) : Sends q s t := by
  intro o ho
  have hsent := h o (by rw [outPort_countPort, ho])
  rw [queue_countPort] at hsent
  exact hsent

theorem replies_answer (s : State) (p : Packet) (status data : Nat) : Replies p status data s (answer s p status data) := by
  intro q hq
  rw [answer, hq]
  exact sends_sendPacket s q

theorem replies_of_counted {p : Packet} {status data j k n : Nat} (h : Replies p status data (s.countPort j k n) t) :
    Replies p status data s t := fun q hq => sends_of_counted (h q hq)

theorem answerTo_dest {p q : Packet} {status data plen : Nat} {payload : BitVec 4096} (h : answerTo p status data plen payload = some q) :
    LPkt.DEST.get q.hdr = LPkt.SRC.get p.hdr := by
  rw [answerTo, Option.map_eq_some_iff] at h
  obtain ⟨t, -, rfl⟩ := h
  refine (get_setAll_cons (LPkt.CLASS.set (LPkt.TYPE.set 0#256 t) _) (LPkt.SRC.get p.hdr) (by decide) ?_).trans ?_
  · simp [FieldsApart, LPkt.DEST, LPkt.SRC, LPkt.STAG, LPkt.SEAT, LPkt.PLEN, LPkt.UNIT, LPkt.SEQ, LPkt.ADDR, LPkt.STATUS, LPkt.DATA]
  · exact Nat.mod_eq_of_lt (BitVec.isLt _)

/-- No port leads to the device itself. -/
theorem outPort_own (s : State) (src : Nat) : outPort s src (ownChip s) = none := by
  have hnone : firstAxis (ownChip s) (ownChip s) = none := by
    rw [firstAxis, List.find?_eq_none]
    simp
  rw [outPort, hnone]
  rfl

/-- An answer to the device itself needs no link. -/
theorem replies_own {p : Packet} {status data : Nat} (h : LPkt.SRC.get p.hdr = ownChip s) : Replies p status data s t := by
  intro q hq o ho
  rw [answerTo_dest hq, h, outPort_own] at ho
  exact absurd ho (by simp)

/-- An answer that no port leads to counts at the router of the port. -/
def lostAt (s : State) (port : Nat) (q : Packet) : Bool :=
  (outPort s 6 (LPkt.DEST.get q.hdr)).isNone && LPkt.DEST.get q.hdr != ownChip s && lostPort s q 6 == port

theorem sendPacket_noroute (s : State) (q : Packet) (port : Nat) : Tab.get ((sendPacket s q).port port).ctr 0#64 0x028 =
    Tab.get (s.port port).ctr 0#64 0x028 + (if lostAt s port q then 1#64 else 0#64) := by
  unfold sendPacket
  split
  · next o ho =>
    have hway : lostAt s port q = false := by simp [lostAt, ho]
    rw [hway, if_neg Bool.false_ne_true, BitVec.add_zero]
    split
    · rfl
    · rw [queuePacket]
      by_cases hp : port = o
      · subst hp
        rw [port_updPort_self]
      · rw [port_updPort_other s _ hp]
  · next ho =>
    split
    · next hown => rw [if_neg (by simp [lostAt, hown]), BitVec.add_zero]
    · next hown =>
      by_cases hl : lostPort s q 6 = port
      · rw [if_pos (by simp [lostAt, ho, hown, hl]), countNoroute, hl, countPort_ctr_self]
      · rw [if_neg (by simp [lostAt, hl]), BitVec.add_zero, countNoroute, countPort_ctr_other _ _ (.inl (Ne.symm hl))]

theorem sendPacket_ctr (s : State) (q : Packet) (port : Nat) {k : Nat} (h : k ≠ 0x028) :
    Tab.get ((sendPacket s q).port port).ctr 0#64 k = Tab.get (s.port port).ctr 0#64 k := by
  unfold sendPacket
  split
  · next o ho =>
    split
    · rfl
    · rw [queuePacket]
      by_cases hp : port = o
      · subst hp
        rw [port_updPort_self]
      · rw [port_updPort_other s _ hp]
  · split
    · rfl
    · rw [countNoroute, countPort_ctr_other _ _ (.inr h)]

theorem answer_ctr (s : State) (p : Packet) (status data port : Nat) {k : Nat} (h : k ≠ 0x028) :
    Tab.get ((answer s p status data).port port).ctr 0#64 k = Tab.get (s.port port).ctr 0#64 k := by
  unfold answer
  split
  · exact sendPacket_ctr s _ port h
  · rfl

theorem answer_noroute (s : State) (p : Packet) (status data port : Nat) :
    Tab.get ((answer s p status data).port port).ctr 0#64 0x028 = Tab.get (s.port port).ctr 0#64 0x028 +
      (if (answerTo p status data 0 0#4096).any (lostAt s port) then 1#64 else 0#64) := by
  unfold answer
  split
  · next q hq => rw [hq, sendPacket_noroute, Option.any_some]
  · next hq => rw [hq, Option.any_none, if_neg (by decide), BitVec.add_zero]

/-! ## Discarded and dropped packets -/

theorem discard_counts (s : State) (port : Nat) (p : Packet) :
    Tab.get ((discard s port p).port port).ctr 0#64 0x038 = Tab.get (s.port port).ctr 0#64 0x038 + 1 ∧
      Replies p St.packet 0 s (discard s port p) := by
  refine ⟨?_, replies_of_counted (replies_answer _ p St.packet 0)⟩
  rw [Machine.discard, answer_ctr _ _ _ _ _ (by decide), countPort_ctr_self]
  rfl

/-- A packet is dropped at the port: its answer is lost there too. -/
def dropsTwice (s : State) (port : Nat) (p : Packet) : Bool :=
  (answerTo p St.noroute 0 0 0#4096).any (fun q => (outPort s 6 (LPkt.DEST.get q.hdr)).isNone &&
    LPkt.DEST.get q.hdr != ownChip s && lostPort s q 6 == port && LPkt.SRC.get p.hdr != ownChip s)

theorem dropsTwice_of_own {port : Nat} {p : Packet} (h : LPkt.SRC.get p.hdr = ownChip s) : dropsTwice s port p = false := by
  simp [dropsTwice, h]

theorem dropsTwice_of_other {port : Nat} {p : Packet} (h : LPkt.SRC.get p.hdr ≠ ownChip s) :
    dropsTwice s port p = (answerTo p St.noroute 0 0 0#4096).any (lostAt s port) := by
  have hother : (LPkt.SRC.get p.hdr != ownChip s) = true := by simpa using h
  simp only [dropsTwice, hother, Bool.and_true]
  rfl

theorem lostAt_countPort (s : State) (j k n port : Nat) (q : Packet) : lostAt (s.countPort j k n) port q = lostAt s port q := by
  rw [lostAt, outPort_countPort]
  rfl

theorem dropPacket_counts {port : Nat} (p : Packet) (hp : port < 6) :
    Tab.get ((dropPacket s port p St.noroute).port port).ctr 0#64 0x028 =
        Tab.get (s.port port).ctr 0#64 0x028 + (if dropsTwice s port p then 2#64 else 1#64) ∧
      (∀ k, k ≠ 0x028 → Tab.get ((dropPacket s port p St.noroute).port port).ctr 0#64 k = Tab.get (s.port port).ctr 0#64 k) ∧
      Replies p St.noroute 0 s (dropPacket s port p St.noroute) := by
  have hcount : countNoroute s port p = s.countPort port 0x028 1 := by rw [countNoroute, lostPort, if_pos hp]
  unfold dropPacket
  rw [hcount]
  dsimp only
  by_cases hown : LPkt.SRC.get p.hdr = ownChip s
  · rw [if_pos (by exact hown), dropsTwice_of_own hown, if_neg (by decide)]
    have hcounted : ∀ {t : State}, t.port port = (s.countPort port 0x028 1).port port →
        Tab.get (t.port port).ctr 0#64 0x028 = Tab.get (s.port port).ctr 0#64 0x028 + 1#64 ∧
          (∀ k, k ≠ 0x028 → Tab.get (t.port port).ctr 0#64 k = Tab.get (s.port port).ctr 0#64 k) ∧ Replies p St.noroute 0 s t := by
      intro t ht
      rw [ht, countPort_ctr_self]
      exact ⟨rfl, fun k hk => countPort_ctr_other s 1 (.inr hk), replies_own hown⟩
    split
    · exact hcounted (port_of_fab (completeReq_ports ..) port)
    · exact hcounted rfl
  · rw [if_neg (by exact hown), dropsTwice_of_other hown, answer_noroute, countPort_ctr_self]
    refine ⟨?_, fun k hk => ?_, replies_of_counted (replies_answer _ p St.noroute 0)⟩
    · rw [show lostAt (s.countPort port 0x028 1) port = lostAt s port from funext (lostAt_countPort s port 0x028 1 port), BitVec.add_assoc]
      split <;> rfl
    · rw [answer_ctr _ _ _ _ _ hk, countPort_ctr_other s 1 (.inr hk)]

theorem dropsTwice_received (s : State) (port : Nat) (p : Packet) : dropsTwice (received s port) port p = dropsTwice s port p := by
  simp only [dropsTwice, outPort_received]
  rfl

theorem dropsTwice_countPort (s : State) (j k n port : Nat) (p : Packet) :
    dropsTwice (s.countPort j k n) port p = dropsTwice s port p := by
  simp only [dropsTwice, outPort_countPort]
  rfl

/-! ## The row -/

theorem forward_of_bad {port : Nat} {p : Packet} (h : pktBad p = true) : forward port p s = discard s port p := by
  rw [forward, if_pos h]

theorem forward_of_tag {port : Nat} {p : Packet} (h : pktBad p = false) (ht : LPkt.STAG.get p.hdr ≠ ownTag s) :
    forward port p s = dropPacket (s.countPort port 0x030 1) port p St.noroute := by
  rw [forward, if_neg (by simp [h]), if_pos ht]

theorem forward_of_out {port out : Nat} {p : Packet} (h : pktBad p = false) (ht : LPkt.STAG.get p.hdr = ownTag s)
    (ho : outPort s port (LPkt.DEST.get p.hdr) = some out) : forward port p s = queuePacket s port out p := by
  rw [forward, if_neg (by simp [h]), if_neg (not_not_intro ht), ho]

theorem forward_of_none {port : Nat} {p : Packet} (h : pktBad p = false) (ht : LPkt.STAG.get p.hdr = ownTag s)
    (ho : outPort s port (LPkt.DEST.get p.hdr) = none) : forward port p s = dropPacket s port p St.noroute := by
  rw [forward, if_neg (by simp [h]), if_neg (not_not_intro ht), ho]

/-- Settles O22: what a packet's receipt changes is nothing that its way reads. -/
theorem forwardedPacketsKeepTheirWay : Obligations.ForwardedPacketsKeepTheirWay := by
  intro s port p hrun hp hm hdest
  have hruns : ∀ {P : State → Prop}, P (forward port p (received s port)) → Runs (.packetForward port p) s P := by
    intro P hP
    exact runs_of_when (by unfold exec; rfl) hrun (by simp [hp, hm, hdest]) hP
  intro r counted again dropped
  refine ⟨fun hbad => ?_, fun hgood ht => ?_, fun hgood ht => ⟨fun out ho => ?_, fun ho => ?_⟩⟩
  · refine hruns ?_
    rw [forward_of_bad hbad]
    obtain ⟨hcount, hreply⟩ := discard_counts (received s port) port p
    exact ⟨hcount.trans (by rw [received_ctr s port (by decide)]), hreply⟩
  · refine hruns ?_
    rw [forward_of_tag (s := received s port) hgood ht]
    obtain ⟨hcount, hkeep, hreply⟩ := dropPacket_counts (s := (received s port).countPort port 0x030 1) p hp
    refine ⟨?_, ?_, replies_of_counted hreply⟩
    · exact (hkeep 0x030 (by decide)).trans (by rw [countPort_ctr_self, received_ctr s port (by decide)]; rfl)
    · refine hcount.trans ?_
      rw [countPort_ctr_other _ _ (.inr (by decide)), received_ctr s port (by decide), dropsTwice_countPort, dropsTwice_received]
      rfl
  · refine hruns ?_
    rw [forward_of_out (s := received s port) hgood ht (by rw [outPort_received, ho])]
    refine ⟨?_, fun k hk => ?_⟩
    · rw [queuePacket, port_updPort_self, queue_received]
      rfl
    · rw [queuePacket, port_updPort_other _ _ hk, queue_received]
  · refine hruns ?_
    rw [forward_of_none (s := received s port) hgood ht (by rw [outPort_received, ho])]
    obtain ⟨hcount, -, hreply⟩ := dropPacket_counts (s := received s port) p hp
    refine ⟨?_, hreply⟩
    refine hcount.trans ?_
    rw [received_ctr s port (by decide), dropsTwice_received]
    rfl

end Sys2Proof.Links
end

section
/-! Register writes of the Avkin link (R78, R257, R368, R383, R384, R396, R397). -/

namespace Sys2Proof.Registers

open Sys2Proof Sys2Proof.Machine Sys2Proof.Laws Sys2Proof.MailboxService Sys2Proof.Pins Sys2Proof.Links

variable {s t : State}

/-! ## Places of the control space (R383) -/

theorem regions_apart : regions.Pairwise (fun a b => a.base + a.size ≤ b.base) := by decide

/-- An offset in a region is found there, for no other region holds it. -/
theorem regAt_of_mem {r : RegRange} (hr : r ∈ regions) {o : Nat} (hlo : r.base ≤ o) (hhi : o < r.base + r.size) :
    regAt o = some ⟨r.reg, (o - r.base) / r.stride, (o - r.base) % r.stride⟩ := by
  have hfind : ∀ l : List RegRange, l.Pairwise (fun a b => a.base + a.size ≤ b.base) → r ∈ l →
      l.find? (fun r => decide (r.base ≤ o) && decide (o < r.base + r.size)) = some r := by
    intro l hl hmem
    induction l with
    | nil => exact absurd hmem List.not_mem_nil
    | cons a l ih =>
      obtain ⟨ha, hl⟩ := List.pairwise_cons.mp hl
      rcases List.mem_cons.mp hmem with rfl | hmem
      · rw [List.find?_cons_of_pos (by simp [hlo, hhi])]
      · have hbefore := ha r hmem
        rw [List.find?_cons_of_neg (by simp; omega)]
        exact ih hl hmem
  rw [regAt, hfind regions regions_apart hr]
  rfl

theorem regAt_govLimit {i : Nat} (h : i < 16) : regAt (0x120008 + 0x1000 * i) = some ⟨.crucible, i, 8⟩ := by
  rw [regAt_of_mem (r := ⟨.crucible, 0x120000, 0x10000, 0x1000⟩) (by decide) (by simp only; omega) (by simp only; omega)]
  simp only [Option.some.injEq, RegAt.mk.injEq, true_and]
  omega

theorem regAt_irq {i : Nat} (h : i < 64) : regAt (0x100800 + 8 * i) = some ⟨.irq, i, 0⟩ := by
  rw [regAt_of_mem (r := ⟨.irq, 0x100800, 0x200, 8⟩) (by decide) (by simp only; omega) (by simp only; omega)]
  simp only [Option.some.injEq, RegAt.mk.injEq, true_and]
  omega

theorem regAt_request {m i : Nat} (hm : m < 256) (hi : i < 32) : regAt (0x1000 * m + 8 * i) = some ⟨.mbox, m, 8 * i⟩ := by
  rw [regAt_of_mem (r := ⟨.mbox, 0x0, 0x100000, 0x1000⟩) (by decide) (by simp only; omega) (by simp only; omega)]
  simp only [Option.some.injEq, RegAt.mk.injEq, true_and]
  omega

/-! ## A write of one word -/

/-- A write of one aligned word touches that word whole. -/
theorem regWords_word {o : Nat} (h : o % 8 = 0) (data : BitVec 512) :
    regWords o 8 data = [(o, data.extractLsb' 0 64, BitVec.allOnes 64)] := by
  have hcount : (o + 8 - 1) / 8 - o / 8 + 1 = 1 := by omega
  have hfirst : o / 8 * 8 = o := by omega
  simp only [regWords, h, hcount, List.range_one, List.map_cons, List.map_nil]
  rw [hfirst]
  have hdata : BitVec.ofNat 64 (data.toNat % 256 ^ 8 * 256 ^ 0 / 2 ^ (64 * 0)) = data.extractLsb' 0 64 :=
    BitVec.eq_of_toNat_eq (by simp)
  rw [hdata]
  rfl

theorem merge_whole (old v : W64) : merge old v (BitVec.allOnes 64) = v := by
  have hnone : ~~~BitVec.allOnes 64 = 0#64 := by decide
  rw [merge, hnone, BitVec.and_zero, BitVec.zero_or, BitVec.and_allOnes]

theorem ctlWrite_of_refused {n off len : Nat} {data : BitVec 512} (h : ctlStatus s n true off len ≠ St.ok) :
    ctlWrite s n off len data = (s, ctlStatus s n true off len) := by
  rw [ctlWrite, if_pos h]

theorem avkinCtl_of_refused {n off len : Nat} {data : BitVec 512} (h : ctlStatus s n true off len ≠ St.ok) :
    avkinCtl n off len data s = s.emit (.avkin (ctlStatus s n true off len) []) := by
  rw [avkinCtl, ctlWrite_of_refused h]

theorem avkinCtl_of_ok {n off len : Nat} {data : BitVec 512} (h : ctlStatus s n true off len = St.ok) :
    avkinCtl n off len data s = ((regWords off len data).foldl putWord s).emit (.avkin St.ok []) := by
  rw [avkinCtl, ctlWrite, if_neg (not_not_intro h)]

/-- An allowed write of one aligned word puts the word into its register and answers success. -/
theorem avkinCtl_word {n o : Nat} {data : BitVec 512} {r : RegAt} (h : ctlStatus s n true o 8 = St.ok) (ho : o % 8 = 0)
    (hr : regAt o = some r) :
    avkinCtl n o 8 data s = (regPut s r (data.extractLsb' 0 64) (BitVec.allOnes 64)).emit (.avkin St.ok []) := by
  rw [avkinCtl_of_ok h, regWords_word ho, List.foldl_cons, List.foldl_nil, putWord, hr]

theorem putWords_out (l : List (Nat × W64 × W64)) (s : State) : (l.foldl putWord s).out = s.out :=
  Boot.foldl_get_keep (get := State.out) (fun u e => (putWord_only u e).same .out (by decide)) l s

theorem extract_setWidth (v : W64) : (v.setWidth 512).extractLsb' 0 64 = v := by
  refine BitVec.eq_of_getLsbD_eq fun i hi => ?_
  simp [hi]
  omega

/-- A row of the Avkin link answers the state that its effect leaves. -/
theorem runs_of_avkin {i : Instr} {n : Nat} {f : State → State} {P : State → Prop} (hrow : exec i s = avkinRow n f s)
    (hrun : running .power s = true) (hup : avkinUp s = true) (hn : n < 64) (hP : P (f s)) : Runs i s P :=
  runs_of_when hrow hrun (by rw [hup, decide_eq_true hn]; rfl) hP

/-! ## The registers -/

theorem regPut_govLimit (s : State) (i : Nat) (v : W64) :
    regPut s ⟨.crucible, i, 8⟩ v (BitVec.allOnes 64) = s.updIngot i (fun x => { x with limit := govLimitOf v }) := by
  change s.updIngot i (fun x => { x with limit := govLimitOf (merge x.limit v (BitVec.allOnes 64)) }) = _
  simp only [merge_whole]

theorem regPut_tierCfg (s : State) (v : W64) :
    regPut s ⟨.dev, 0, 0x020⟩ v (BitVec.allOnes 64) = { s with bank := { s.bank with tierCfg := tierCfgOf v } } := by
  change { s with bank := { s.bank with tierCfg := tierCfgOf (merge s.bank.tierCfg v (BitVec.allOnes 64)) } } = _
  rw [merge_whole]

theorem regPut_timeCfg (s : State) (v : W64) : regPut s ⟨.dev, 0, 0x028⟩ v (BitVec.allOnes 64) = setTimeCfg s v := by
  change setTimeCfg s (merge s.clk.cfg v (BitVec.allOnes 64)) = _
  rw [merge_whole]

theorem regPut_events (s : State) (v : W64) :
    regPut s ⟨.dev, 0, 0x080⟩ v (BitVec.allOnes 64) = { s with bank := { s.bank with events := s.bank.events &&& ~~~v } } := by
  change { s with bank := { s.bank with events := s.bank.events &&& ~~~(v &&& BitVec.allOnes 64) } } = _
  rw [BitVec.and_allOnes]

theorem regPut_irq (s : State) (i : Nat) (v : W64) :
    regPut s ⟨.irq, i, 0⟩ v (BitVec.allOnes 64) = s.updSeat i (fun x => { x with irq := x.irq &&& ~~~v }) := by
  change s.updSeat i (fun x => { x with irq := x.irq &&& ~~~(v &&& BitVec.allOnes 64) }) = _
  rw [BitVec.and_allOnes]

/-- An answer over the link leaves the ingots and the seats. -/
theorem limit_updIngot_emit (s : State) (i : Nat) (v : W64) (o : Out) :
    (((s.updIngot i (fun x => { x with limit := v })).emit o).ingot i).limit = v := by
  change ((s.updIngot i (fun x => { x with limit := v })).ingot i).limit = v
  rw [Lanes.ingot_updIngot_self]

theorem setTimeCfg_cfg (s : State) (v : W64) : LTimeCfg.ROOT.get (setTimeCfg s v).clk.cfg = LTimeCfg.ROOT.get v ∧
    LTimeCfg.ENABLE.get (setTimeCfg s v).clk.cfg = LTimeCfg.ENABLE.get v := by
  constructor
  · exact (get_setAll_cons 0#64 (LTimeCfg.ROOT.get v) (by decide) (by simp [FieldsApart, LTimeCfg.ROOT, LTimeCfg.ENABLE])).trans
      (Nat.mod_eq_of_lt (BitVec.isLt _))
  · exact (get_setAll_cons (LTimeCfg.ROOT.set 0#64 (LTimeCfg.ROOT.get v)) (LTimeCfg.ENABLE.get v) (by decide) (by simp)).trans
      (Nat.mod_eq_of_lt (BitVec.isLt _))

/-- A word of a mailbox's request area holds what was written. -/
theorem extract_set_word {n : Nat} (x : BitVec n) (v : W64) {i : Nat} (h : 64 * i + 64 ≤ n) :
    ((⟨64 * i, 64⟩ : Fld).set x v.toNat).extractLsb' (64 * i) 64 = v := by
  refine BitVec.eq_of_toNat_eq ?_
  exact (get_set_same ⟨64 * i, 64⟩ x v.toNat h).trans (Nat.mod_eq_of_lt v.isLt)

theorem regPut_request (s : State) (m : Nat) {i : Nat} (hi : i < 32) (v : W64) :
    ((regPut s ⟨.mbox, m, 8 * i⟩ v (BitVec.allOnes 64)).mbox m).req.extractLsb' (64 * i) 64 = v := by
  have hreq : 8 * i < 0x100 := by omega
  have hbit : 8 * (8 * i) = 64 * i := by omega
  simp only [regPut, hreq, if_true, merge_whole, hbit, setMbox_mbox]
  exact extract_set_word _ v (by omega)

/-- Settles O18: one word at a time. -/
theorem registerWritesReachTheirField : Obligations.RegisterWritesReachTheirField := by
  intro s n i off len v data hrun hup hn
  have hword : ∀ {o : Nat} {r : RegAt} {B : State → Prop}, ctlStatus s n true o 8 = St.ok → o % 8 = 0 → regAt o = some r →
      B ((regPut s r (data.extractLsb' 0 64) (BitVec.allOnes 64)).emit (.avkin St.ok [])) → Runs (.controlSpaceWrite n o 8 data) s B := by
    intro o r B h ho hr hB
    refine runs_of_avkin (f := avkinCtl n o 8 data) (by unfold exec; rfl) hrun hup hn ?_
    rwa [avkinCtl_word h ho hr]
  refine ⟨fun hi h => ?_, fun h => ?_, fun h => ?_, fun h => ?_, ⟨fun hi h => ?_, fun h => ?_, fun h => ?_, fun h => ?_, fun hi h => ?_,
    fun hi ho h => ?_⟩, fun h => ?_⟩
  · refine runs_of_avkin (by unfold exec; rfl) hrun hup hn ?_
    rw [when, if_pos (decide_eq_true hi), avkinCtl_word h (by omega) (regAt_govLimit hi), extract_setWidth, regPut_govLimit]
    exact ⟨limit_updIngot_emit s i _ _, rfl, fun k hk => get_set_other hk⟩
  · refine runs_of_avkin (by unfold exec; rfl) hrun hup hn ?_
    rw [avkinCtl_word h (by decide) (r := ⟨.dev, 0, 0x020⟩) rfl, extract_setWidth, regPut_tierCfg]
    exact ⟨rfl, rfl⟩
  · refine runs_of_avkin (by unfold exec; rfl) hrun hup hn ?_
    rw [avkinCtl_word h (by decide) (r := ⟨.dev, 0, 0x028⟩) rfl, extract_setWidth, regPut_timeCfg]
    exact ⟨(setTimeCfg_cfg s v).1, (setTimeCfg_cfg s v).2, rfl⟩
  · have hexec : exec (.controlSpaceWrite n off len data) s = .next (avkinCtl n off len data s) := by
      change act .power (when _ _) s = _
      rw [PipCore.act_of_running _ hrun, when, if_pos (by rw [hup, decide_eq_true hn]; rfl)]
    refine ⟨_, hexec, ?_, Whole.exec_only _ hexec⟩
    rw [avkinCtl_of_ok h]
    exact congrArg (Out.avkin St.ok [] :: ·) (putWords_out _ s)
  · refine hword h (by omega) (regAt_govLimit hi) ?_
    rw [regPut_govLimit]
    exact limit_updIngot_emit s i _ _
  · refine hword h (by decide) (r := ⟨.dev, 0, 0x020⟩) rfl ?_
    rw [regPut_tierCfg]
    rfl
  · refine hword h (by decide) (r := ⟨.dev, 0, 0x028⟩) rfl ?_
    rw [regPut_timeCfg]
    exact setTimeCfg_cfg s _
  · refine hword h (by decide) (r := ⟨.dev, 0, 0x080⟩) rfl ?_
    rw [regPut_events]
    rfl
  · refine hword h (by omega) (regAt_irq hi) ?_
    rw [regPut_irq]
    exact congrArg Seat.irq (setSeat_seat s i _)
  · exact hword h (by omega) (regAt_request ho hi) (regPut_request s off hi _)
  · refine runs_of_avkin (by unfold exec; rfl) hrun hup hn ?_
    rw [avkinCtl_of_refused h]
    exact ⟨rfl, state_emit_only s _⟩

end Sys2Proof.Registers
end

section
/-! The duty governor, refresh and patrol scrub (R24, R59, R60, R73 to R78, R254, R463, R469, R474, R475). -/

namespace Sys2Proof.Banks

open Sys2Proof Sys2Proof.Machine Sys2Proof.Laws Sys2Proof.MailboxService Sys2Proof.Pins Sys2Proof.Lanes

variable {s t : State}

/-! ## Readings (R74, R77) -/

/-- The readings of one sample. -/
def sampled (readings : List (Option Int)) : List (Nat × Nat) := (List.range 12).map (fun d => (d, sensorTemp (readings.getD d none)))

/-- A die of the ingot gives no reading. -/
def sensorMissing (readings : List (Option Int)) : Bool :=
  ((List.range 12).map (fun d => (d, readings.getD d none))).any (fun e => e.2.isNone)

theorem sensorMissing_iff {readings : List (Option Int)} : sensorMissing readings = true ↔ ∃ d, d < 12 ∧ readings.getD d none = none := by
  simp only [sensorMissing, List.any_map, List.any_eq_true, List.mem_range, Function.comp_apply, Option.isNone_iff_eq_none]

theorem govSample_ingot (s : State) (i : Nat) (readings : List (Option Int)) : (govSample i readings s).ingot i =
    { s.ingot i with
      readings := (s.ingot i).readings ++ sampled readings
      gov := if sensorMissing readings then LGovSt.SENSOR_FAULT.set (s.ingot i).gov 1 else (s.ingot i).gov } := by
  rw [govSample, ingot_updIngot_self]
  simp only [List.map_map]
  rfl

theorem govSensorSample_runs {i : Nat} {readings : List (Option Int)} (hrun : running .refresh s = true) (hi : i < 16)
    (hpc : pcNow s % 256 = 0) : Runs (.govSensorSample i readings) s (fun t =>
      (t.ingot i).readings = (s.ingot i).readings ++ sampled readings ∧
      ((∃ d, d < 12 ∧ readings.getD d none = none) → LGovSt.SENSOR_FAULT.get (t.ingot i).gov = 1) ∧
      (∀ k, k ≠ i → t.ingot k = s.ingot k)) := by
  refine runs_of_when (by unfold exec; rfl) hrun (by simp [ingotOk, hi, hpc]) ?_
  rw [govSample_ingot]
  refine ⟨rfl, fun hmissing => ?_, fun k hk => ingot_updIngot_other s _ hk⟩
  rw [if_pos (sensorMissing_iff.mpr hmissing)]
  exact get_set_same _ _ 1 (by decide)

/-! ## The end of an interval (R75, R76, R463) -/

/-- The mode for the next interval is one of four. -/
theorem nextMode_lt (mode temp d : Nat) : nextMode mode temp d < 4 := by
  unfold nextMode
  split
  · decide
  · split
    · decide
    · split <;> decide

/-- GOV_STATUS after an interval. -/
def govWord (x : Ingot) (microwatt : Nat) : W64 :=
  let h := hottest x.readings
  let d := nextDuty x.duty (cdiv microwatt 125000) h.2 (LGovLim.P_LIMIT.get x.limit) (LGovLim.T_LIMIT.get x.limit)
  let m := nextMode (LGovSt.MODE.get x.gov) h.2 d
  setAll x.gov [(LGovSt.DUTY, if m ≥ 2 then 0 else d), (LGovSt.TEMP, h.2), (LGovSt.HOT_DIE, h.1),
    (LGovSt.POWER, min 1023 (cdiv microwatt 125000)), (LGovSt.MODE, m)]

theorem duty_setAll (w : W64) (d t h p m : Nat) : LGovSt.DUTY.get (setAll w
    [(LGovSt.DUTY, d), (LGovSt.TEMP, t), (LGovSt.HOT_DIE, h), (LGovSt.POWER, p), (LGovSt.MODE, m)]) = d % 2048 :=
  get_setAll_cons w d (by decide) (by simp [FieldsApart, LGovSt.DUTY, LGovSt.TEMP, LGovSt.HOT_DIE, LGovSt.POWER, LGovSt.MODE])

theorem mode_setAll (w : W64) (d t h p m : Nat) : LGovSt.MODE.get (setAll w
    [(LGovSt.DUTY, d), (LGovSt.TEMP, t), (LGovSt.HOT_DIE, h), (LGovSt.POWER, p), (LGovSt.MODE, m)]) = m % 4 :=
  get_set_same LGovSt.MODE _ m (by decide)

/-- What the waiting accesses of a tripped ingot leave of it. -/
theorem tripQueues_keeps {β : Type} {read : Ingot → β} (s : State) (i : Nat)
    (h : ∀ (x : Ingot) b g, read { x with bgs := b, stages := g } = read x) : KeepsIngots read s (tripQueues s i) := by
  have hends : ∀ (l : List ExtEnt) (u : State), KeepsIngots read u (l.foldl (fun s e => failEnt s i e St.thermal) u) := fun l u =>
    keepsIngots_foldl (fun v e => keepsIngots_of_only (failEnt_only v i e St.thermal) (by decide)) l u
  unfold tripQueues
  extract_lets x all u
  refine KeepsIngots.trans ⟨fun j => ?_⟩ (hends all u)
  by_cases hj : j = i
  · subst hj
    rw [show u.ingot j = _ from setIngot_ingot ..]
    exact h _ _ _
  · rw [show u.ingot j = s.ingot j from setIngot_ingot_other _ _ _ _ hj]

theorem tripQueues_other (s : State) {i k : Nat} (h : k ≠ i) : (tripQueues s i).ingot k = s.ingot k := by
  have hends : ∀ (l : List ExtEnt) (u : State), KeepsIngots id u (l.foldl (fun s e => failEnt s i e St.thermal) u) := fun l u =>
    keepsIngots_foldl (fun v e => keepsIngots_of_only (failEnt_only v i e St.thermal) (by decide)) l u
  unfold tripQueues
  extract_lets x all u
  exact ((hends all u).same k).trans (setIngot_ingot_other _ _ _ _ h)

/-- The ingot as its interval ends. -/
def govNext (x : Ingot) (microwatt : Nat) : Ingot :=
  { x with
    duty := nextDuty x.duty (cdiv microwatt 125000) (hottest x.readings).2 (LGovLim.P_LIMIT.get x.limit) (LGovLim.T_LIMIT.get x.limit)
    readings := []
    gov := govWord x microwatt }

/-- The state with the ingot's interval ended, before the flags follow. -/
def govStep (i microwatt : Nat) (s : State) : State :=
  if nextMode (LGovSt.MODE.get (s.ingot i).gov) (hottest (s.ingot i).readings).2 (govNext (s.ingot i) microwatt).duty = 3 then
    tripQueues (s.setIngot i (govNext (s.ingot i) microwatt)) i
  else s.setIngot i (govNext (s.ingot i) microwatt)

/-- The flags follow the modes; a hotter mode raises its event. -/
theorem govEnd_eq (i microwatt : Nat) (s : State) : govEnd i microwatt s =
    if decide (nextMode (LGovSt.MODE.get (s.ingot i).gov) (hottest (s.ingot i).readings).2 (govNext (s.ingot i) microwatt).duty ≥ 2) &&
        nextMode (LGovSt.MODE.get (s.ingot i).gov) (hottest (s.ingot i).readings).2 (govNext (s.ingot i) microwatt).duty !=
          LGovSt.MODE.get (s.ingot i).gov then
      deviceEvent (sbIngots (govStep i microwatt s)) LEv.THERMAL
    else sbIngots (govStep i microwatt s) := rfl

/-- What an interval's end reads of an ingot besides what waits. -/
def govOf (x : Ingot) : Nat × List (Nat × Nat) × W64 := (x.duty, x.readings, x.gov)

theorem govStep_self (i microwatt : Nat) (s : State) : govOf ((govStep i microwatt s).ingot i) = govOf (govNext (s.ingot i) microwatt) := by
  have hset : (s.setIngot i (govNext (s.ingot i) microwatt)).ingot i = govNext (s.ingot i) microwatt := setIngot_ingot ..
  unfold govStep
  split
  · rw [(tripQueues_keeps (read := govOf) _ i fun _ _ _ => rfl).same i, hset]
  · rw [hset]

theorem govStep_other (microwatt : Nat) (s : State) {i k : Nat} (h : k ≠ i) : (govStep i microwatt s).ingot k = s.ingot k := by
  have hset : (s.setIngot i (govNext (s.ingot i) microwatt)).ingot k = s.ingot k := setIngot_ingot_other _ _ _ _ h
  unfold govStep
  split
  · rw [tripQueues_other _ h, hset]
  · exact hset

theorem sbIngots_ingots (s : State) : (sbIngots s).ingots = s.ingots := (sbIngots_only s).same .ingots (by decide)

theorem sbIngots_trip (s : State) : LSbFault.ING_TRIP.get (sbIngots s).pins.sbFault = 1 ↔
    ∃ k, k < 16 ∧ LGovSt.MODE.get (s.ingot k).gov = 3 := by
  have hflag : LSbFault.ING_TRIP.get (sbIngots s).pins.sbFault =
      b2n (((List.range 16).map (fun i => LGovSt.MODE.get (s.ingot i).gov)).contains 3) % 2 :=
    get_setAll_cons s.pins.sbFault _ (by decide) (by simp [FieldsApart, LSbFault.ING_TRIP, LSbFault.ING_HOT, LSbFault.ING_TRIP_MASK])
  have htrip : ((List.range 16).map (fun i => LGovSt.MODE.get (s.ingot i).gov)).contains 3 = true ↔
      ∃ k, k < 16 ∧ LGovSt.MODE.get (s.ingot k).gov = 3 := by
    rw [List.contains_iff_mem, List.mem_map]
    simp only [List.mem_range]
  rw [hflag, ← htrip]
  cases ((List.range 16).map (fun i => LGovSt.MODE.get (s.ingot i).gov)).contains 3 <;> decide

/-- The event leaves the ingots and the flags. -/
theorem govEnd_keeps (i microwatt : Nat) (s : State) : (govEnd i microwatt s).ingots = (govStep i microwatt s).ingots ∧
    (govEnd i microwatt s).pins = (sbIngots (govStep i microwatt s)).pins := by
  have hingots := sbIngots_ingots (govStep i microwatt s)
  rw [govEnd_eq]
  split
  · exact ⟨((deviceEvent_only _ _).same .ingots (by decide)).trans hingots, (deviceEvent_only _ _).same .pins (by decide)⟩
  · exact ⟨hingots, rfl⟩

/-- Settles O27: readings are noted, and an interval's end leaves of its ingot what R75 and R76 say. -/
theorem governorSetsDutyAndMode : Obligations.GovernorSetsDutyAndMode := by
  intro s i uw readings hrun hi
  refine ⟨govSensorSample_runs hrun hi, fun hpc => ?_⟩
  refine runs_of_when (by unfold exec; rfl) hrun (by simp [ingotOk, hi, hpc]) ?_
  obtain ⟨hingots, hpins⟩ := govEnd_keeps i uw s
  have hself : govOf ((govEnd i uw s).ingot i) = govOf (govNext (s.ingot i) uw) := by
    rw [ingot_of_ingots hingots, govStep_self]
  have hgov : ((govEnd i uw s).ingot i).gov = govWord (s.ingot i) uw := congrArg (·.2.2) hself
  intro x temp d m
  refine ⟨congrArg (·.1) hself, congrArg (·.2.1) hself, ?_, ?_, ?_, fun k hk => ?_⟩
  · rw [hgov]
    exact (mode_setAll ..).trans (Nat.mod_eq_of_lt (nextMode_lt ..))
  · rw [hgov]
    refine (duty_setAll ..).trans ?_
    split <;> rfl
  · rw [hpins, sbIngots_trip]
    simp only [ingot_of_ingots hingots]
  · rw [ingot_of_ingots hingots, govStep_other uw s hk]

/-! ## Write-backs of correctable words (R73, R254, R469) -/

@[simp] theorem bankGroup_updBankGroup_self (s : State) (i bg : Nat) (f : BankGroup → BankGroup) :
    bankGroup (updBankGroup s i bg f) i bg = f (bankGroup s i bg) := by
  rw [updBankGroup, setBankGroup_eq, bankGroup, ingot_updIngot_self]
  exact get_set_self ..

theorem bankGroup_updBankGroup_other (s : State) {i bg j b : Nat} (f : BankGroup → BankGroup) (h : j ≠ i ∨ b ≠ bg) :
    bankGroup (updBankGroup s i bg f) j b = bankGroup s j b := by
  by_cases hj : j = i
  · subst hj
    have hb : b ≠ bg := h.resolve_left (not_not_intro rfl)
    rw [updBankGroup, setBankGroup_eq, bankGroup, ingot_updIngot_self]
    exact get_set_other hb
  · rw [bankGroup, updBankGroup, setBankGroup_eq, ingot_updIngot_other s _ hj, bankGroup]

theorem bankGroup_of_ingots (h : t.ingots = s.ingots) (i bg : Nat) : bankGroup t i bg = bankGroup s i bg := by
  rw [bankGroup, ingot_of_ingots h, bankGroup]

theorem bankGroup_countIngot (s : State) (j k n i bg : Nat) : bankGroup (s.countIngot j k n) i bg = bankGroup s i bg :=
  congrArg (fun b => Tab.get b BankGroup.reset bg)
    ((keepsIngots_updIngot (read := Ingot.bgs) s j (f := fun x => { x with ctr := ctrAdd x.ctr k n }) fun _ => rfl).same i)

/-- The write-back of a word of an ingot waits in queue 4 of its bank group. -/
def FixWaits (s : State) (w : Nat) : Prop :=
  ∃ e, e ∈ Tab.get (bankGroup s (w / ingotSize) (w % ingotSize / 16384 % 384)).queues [] 4 ∧ e.src = .correct ∧
    e.req.off = w % ingotSize

/-- What a refresh leaves of a bank group beside its queues. -/
def refreshOf (x : BankGroup) : Nat × Nat × Nat × Nat := (x.freeAt, x.refreshTo, x.refreshRow, x.scrub)

theorem queueFix_waits (s : State) (w : Nat) : FixWaits (queueFix s w) w := by
  refine ⟨⟨⟨4, 0, w % ingotSize, 8, true, 0#512⟩, .correct, 1⟩, ?_, rfl, rfl⟩
  rw [queueFix, bankGroup_updBankGroup_self]
  dsimp only
  rw [get_set_self]
  exact List.mem_append_right _ (List.mem_singleton_self _)

theorem queueFix_bankGroup (s : State) (w i bg : Nat) : refreshOf (bankGroup (queueFix s w) i bg) = refreshOf (bankGroup s i bg) ∧
    ∀ e ∈ Tab.get (bankGroup s i bg).queues [] 4, e ∈ Tab.get (bankGroup (queueFix s w) i bg).queues [] 4 := by
  by_cases h : i = w / ingotSize ∧ bg = w % ingotSize / 16384 % 384
  · obtain ⟨rfl, rfl⟩ := h
    rw [queueFix, bankGroup_updBankGroup_self]
    refine ⟨rfl, fun e he => ?_⟩
    dsimp only
    rw [get_set_self]
    exact List.mem_append_left _ he
  · rw [queueFix, bankGroup_updBankGroup_other _ _ (not_and_or.mp h)]
    exact ⟨rfl, fun e he => he⟩

/-- Every write-back of a list waits once all are queued, and the bank groups are otherwise as they were. -/
theorem queueFixes (l : List Nat) (s : State) : (∀ w ∈ l, FixWaits (l.foldl queueFix s) w) ∧
    (∀ i bg, refreshOf (bankGroup (l.foldl queueFix s) i bg) = refreshOf (bankGroup s i bg) ∧
      ∀ e ∈ Tab.get (bankGroup s i bg).queues [] 4, e ∈ Tab.get (bankGroup (l.foldl queueFix s) i bg).queues [] 4) := by
  induction l generalizing s with
  | nil => exact ⟨fun w hw => absurd hw List.not_mem_nil, fun i bg => ⟨rfl, fun e he => he⟩⟩
  | cons v l ih =>
    obtain ⟨hall, hkeep⟩ := ih (queueFix s v)
    refine ⟨fun w hw => ?_, fun i bg => ?_⟩
    · rcases List.mem_cons.mp hw with rfl | hw
      · obtain ⟨e, he, hsrc, hoff⟩ := queueFix_waits s w
        exact ⟨e, (hkeep _ _).2 e he, hsrc, hoff⟩
      · exact hall w hw
    · obtain ⟨hsame, hmem⟩ := queueFix_bankGroup s v i bg
      exact ⟨(hkeep i bg).1.trans hsame, fun e he => (hkeep i bg).2 e (hmem e he)⟩

/-! ## Refresh (R59, R60, R474) -/

/-- The bank group as its refresh begins. -/
def refreshing (x : BankGroup) (pc : Nat) : BankGroup :=
  { x with freeAt := max x.freeAt pc + 54, refreshTo := max x.freeAt pc + 54, refreshRow := (x.refreshRow + 2) % 16384 }

/-- The key of the 256 bytes at a scrub cursor. -/
def scrubKey (i bg c : Nat) : Nat := pageKey i (c / 64 * 384 + bg) + c % 64 * 256

/-- The scrub's read with its write-backs queued and its log written. -/
def scrubRead (i bg : Nat) (s : State) : State :=
  let k := scrubKey i bg (bankGroup s i bg).scrub
  scrubLog ((corrWords s k 256).foldl queueFix
    (((s.countIngot i 0x100 (corrWords s k 256).length).countIngot i 0x108 (badWords s k 256).length).countIngot i 0x090
      (badWords s k 256).length)) 1 (badWords s k 256)

theorem scrub_eq (i bg : Nat) (s : State) : scrub i bg s =
    if decide (bg = 0) && decide ((bankGroup s i bg).scrub + 1 = 524288) then
      (updBankGroup (scrubRead i bg s) i bg (fun x => { x with scrub := ((bankGroup s i bg).scrub + 1) % 524288 })).countIngot i 0x0F8 1
    else updBankGroup (scrubRead i bg s) i bg (fun x => { x with scrub := ((bankGroup s i bg).scrub + 1) % 524288 }) := rfl

theorem scrubRead_bankGroups (i bg : Nat) (s : State) :
    (∀ w ∈ corrWords s (scrubKey i bg (bankGroup s i bg).scrub) 256, FixWaits (scrubRead i bg s) w) ∧
      ∀ j b, refreshOf (bankGroup (scrubRead i bg s) j b) = refreshOf (bankGroup s j b) := by
  have hlog : ∀ (u : State) (l : List Nat) (j b : Nat), bankGroup (scrubLog u 1 l) j b = bankGroup u j b := fun u l j b =>
    bankGroup_of_ingots ((scrubLog_only u 1 l).same .ingots (by decide)) j b
  unfold scrubRead
  extract_lets k
  obtain ⟨hall, hkeep⟩ := queueFixes (corrWords s k 256)
    (((s.countIngot i 0x100 (corrWords s k 256).length).countIngot i 0x108 (badWords s k 256).length).countIngot i 0x090
      (badWords s k 256).length)
  refine ⟨fun w hw => ?_, fun j b => ?_⟩
  · obtain ⟨e, he, hrest⟩ := hall w hw
    exact ⟨e, by rwa [hlog], hrest⟩
  · rw [hlog, (hkeep j b).1, bankGroup_countIngot, bankGroup_countIngot, bankGroup_countIngot]

theorem scrub_bankGroups (i bg : Nat) (s : State) :
    (∀ w ∈ corrWords s (scrubKey i bg (bankGroup s i bg).scrub) 256, FixWaits (scrub i bg s) w) ∧
      refreshOf (bankGroup (scrub i bg s) i bg) = refreshOf { bankGroup s i bg with scrub := ((bankGroup s i bg).scrub + 1) % 524288 } := by
  obtain ⟨hall, hkeep⟩ := scrubRead_bankGroups i bg s
  generalize hnext : ((bankGroup s i bg).scrub + 1) % 524288 = next at *
  have hmoved : (∀ w ∈ corrWords s (scrubKey i bg (bankGroup s i bg).scrub) 256,
      FixWaits (updBankGroup (scrubRead i bg s) i bg (fun x => { x with scrub := next })) w) ∧
      refreshOf (bankGroup (updBankGroup (scrubRead i bg s) i bg (fun x => { x with scrub := next })) i bg) =
        refreshOf { bankGroup s i bg with scrub := next } := by
    refine ⟨fun w hw => ?_, ?_⟩
    · obtain ⟨e, he, hrest⟩ := hall w hw
      refine ⟨e, ?_, hrest⟩
      by_cases h : w / ingotSize = i ∧ w % ingotSize / 16384 % 384 = bg
      · obtain ⟨hi, hb⟩ := h
        rw [hi, hb] at he ⊢
        rw [bankGroup_updBankGroup_self]
        exact he
      · rw [bankGroup_updBankGroup_other _ _ (not_and_or.mp h)]
        exact he
    · have hsame := hkeep i bg
      simp only [refreshOf, Prod.mk.injEq] at hsame
      obtain ⟨hfree, hto, hrow, -⟩ := hsame
      rw [bankGroup_updBankGroup_self]
      simp only [refreshOf, hfree, hto, hrow]
  rw [scrub_eq, hnext]
  split
  · obtain ⟨hm, hr⟩ := hmoved
    refine ⟨fun w hw => ?_, by rw [bankGroup_countIngot, hr]⟩
    obtain ⟨e, he, hrest⟩ := hm w hw
    exact ⟨e, by rwa [bankGroup_countIngot], hrest⟩
  · exact hmoved

/-! ## Patrol scrub of holding memory (R254, R475) -/

/-- The write-back of a word of holding memory waits at its base die's port. -/
def ScrubWaits (s : State) (w : Nat) : Prop :=
  ∃ q, q ∈ (s.hmPort ((w - hmBase) / 0x80000000)).waits ∧ q.cls = 5 ∧ q.key = w ∧ q.ent.src = .correct

theorem scrubFix_port (s : State) (w d : Nat) : ((scrubFix s w).hmPort d).freeAt = (s.hmPort d).freeAt ∧
    ∀ q ∈ (s.hmPort d).waits, q ∈ ((scrubFix s w).hmPort d).waits := by
  by_cases h : d = (w - hmBase) / 0x80000000
  · subst h
    rw [scrubFix, State.updHmPort, setHmPort_hmPort]
    exact ⟨rfl, fun q hq => List.mem_append_left _ hq⟩
  · rw [scrubFix, State.updHmPort, setHmPort_hmPort_other _ _ _ _ h]
    exact ⟨rfl, fun q hq => hq⟩

theorem scrubFix_waits (s : State) (w : Nat) : ScrubWaits (scrubFix s w) w := by
  refine ⟨⟨5, 0, w, ⟨⟨0, 0, 0, 8, true, 0#512⟩, .correct, 1⟩⟩, ?_, rfl, rfl, rfl⟩
  rw [scrubFix, State.updHmPort, setHmPort_hmPort]
  exact List.mem_append_right _ (List.mem_singleton_self _)

theorem scrubFixes (l : List Nat) (s : State) : (∀ w ∈ l, ScrubWaits (l.foldl scrubFix s) w) ∧
    ∀ d, ((l.foldl scrubFix s).hmPort d).freeAt = (s.hmPort d).freeAt ∧
      ∀ q ∈ (s.hmPort d).waits, q ∈ ((l.foldl scrubFix s).hmPort d).waits := by
  induction l generalizing s with
  | nil => exact ⟨fun w hw => absurd hw List.not_mem_nil, fun d => ⟨rfl, fun q hq => hq⟩⟩
  | cons v l ih =>
    obtain ⟨hall, hkeep⟩ := ih (scrubFix s v)
    refine ⟨fun w hw => ?_, fun d => ?_⟩
    · rcases List.mem_cons.mp hw with rfl | hw
      · obtain ⟨q, hq, hrest⟩ := scrubFix_waits s w
        exact ⟨q, (hkeep _).2 q hq, hrest⟩
      · exact hall w hw
    · obtain ⟨hfree, hmem⟩ := scrubFix_port s v d
      exact ⟨(hkeep d).1.trans hfree, fun q hq => (hkeep d).2 q (hmem q hq)⟩

/-- The words that a scrub read meets lie at the port of its base die. -/
theorem hmDie_of_corr {base w : Nat} (ha : base % 256 = 0) (hlo : hmBase ≤ base) (hw : w ∈ corrWords s base 256) :
    (w - hmBase) / 0x80000000 = hmDie base := by
  rw [corrWords, List.mem_map] at hw
  obtain ⟨x, hx, rfl⟩ := hw
  have hover := (List.mem_filter.mp hx).2
  simp only [overlaps, Bool.and_eq_true, decide_eq_true_eq] at hover
  have hbase : hmBase = 0xC000000000 := rfl
  rw [hbase] at hlo
  rw [hmDie, hbase]
  omega

theorem hmScrub_port (base : Nat) (s : State) (d : Nat) : ((hmScrub base s).hmPort d).freeAt = (s.hmPort d).freeAt ∧
    ∀ w ∈ corrWords s base 256, ScrubWaits (hmScrub base s) w := by
  have hhm : ∀ (u : State) (l : List Nat), (scrubLog u 2 l).hm = u.hm := fun u l => (scrubLog_only u 2 l).same .hm (by decide)
  unfold hmScrub
  extract_lets n corr bad counted read
  have hread : ∀ d, read.hmPort d = (corr.foldl scrubFix counted).hmPort d := fun d => by rw [State.hmPort, hhm, State.hmPort]
  obtain ⟨hall, hkeep⟩ := scrubFixes corr counted
  have hport : (read.hmPort d).freeAt = (s.hmPort d).freeAt ∧ ∀ w ∈ corrWords s base 256, ScrubWaits read w := by
    refine ⟨by rw [hread, (hkeep d).1]; rfl, fun w hw => ?_⟩
    obtain ⟨q, hq, hrest⟩ := hall w hw
    exact ⟨q, by rwa [hread], hrest⟩
  split
  · exact hport
  · exact hport

/-- The patrol scrub's request. -/
def scrubReq (base : Nat) : HmReq := ⟨5, 0, base, ⟨⟨0, 0, 0, 256, false, 0#512⟩, .scrub, 1⟩⟩

theorem hmPresent_of_held {d : Nat} (r : HmReq) (h : hcNow s < (s.hmPort d).freeAt) :
    hmPresent s d r = s.updHmPort d (fun x => { x with waits := x.waits ++ [r] }) := by
  rw [hmPresent, hmGrant, if_pos]
  rw [State.updHmPort, setHmPort_hmPort]
  exact h

/-- At an idle port the scrub's read is granted at once. -/
theorem hmPresent_of_idle {d base : Nat} (hw : (s.hmPort d).waits = []) (hf : (s.hmPort d).freeAt ≤ hcNow s) :
    ∃ x : HmPort, x.freeAt = hcNow s + 1 ∧
      hmPresent s d (scrubReq base) = hmScrub base ((s.updHmPort d (fun x => { x with waits := x.waits ++ [scrubReq base] })).setHmPort d x) := by
  have hport : (s.updHmPort d (fun x => { x with waits := x.waits ++ [scrubReq base] })).hmPort d =
      { s.hmPort d with waits := [scrubReq base] } := by
    rw [State.updHmPort, setHmPort_hmPort, hw, List.nil_append]
  have hhc : hcNow (s.updHmPort d (fun x => { x with waits := x.waits ++ [scrubReq base] })) = hcNow s := rfl
  have hheld : ∀ u : State, heldByMove u (scrubReq base).key (scrubReq base).ent = false := fun _ => rfl
  have hcls : (scrubReq base).cls = 5 := rfl
  have hnum : (scrubReq base).num = 0 := rfl
  have hclass : (List.range 6).find? (fun c => [scrubReq base].any (fun r => r.cls == c && !heldByMove
      (s.updHmPort d (fun x => { x with waits := x.waits ++ [scrubReq base] })) r.key r.ent) &&
        hmAllowed { s.hmPort d with waits := [scrubReq base] } (hcNow s) c) = some 5 := by
    rw [List.find?_range_eq_some]
    refine ⟨?_, by decide, fun c hc => ?_⟩
    · simp [hheld, hmAllowed, hcls]
    · have hne : ¬(5 = c) := Nat.ne_of_gt hc
      simp [hcls, hne]
  have hwinner : ∀ p : Nat → Bool, p 0 = true → ∀ ptr, grant p ptr (hmSizes.getD 5 1) = some (0, 0) := by
    intro p hp ptr
    have hsize : hmSizes.getD 5 1 = 1 := rfl
    have hmod : (ptr + 0) % 1 = 0 := Nat.mod_one _
    rw [hsize, grant, pick, List.range_one, List.map_cons, hmod, List.find?_cons_of_pos hp]
    rfl
  unfold hmPresent hmGrant
  dsimp only
  rw [hport, hhc, if_neg (Nat.not_lt.mpr hf)]
  dsimp only
  rw [hclass]
  dsimp only
  rw [hwinner _ (by simp [hheld, hcls, hnum])]
  dsimp only
  rw [List.find?_cons_of_pos (by simp [hheld, hcls, hnum])]
  have hperform : ∀ u, performEnt u (scrubReq base).key (scrubReq base).ent = hmScrub base u := fun _ => rfl
  have hatomic : isAtomic (scrubReq base).ent = false := rfl
  dsimp only
  rw [hperform, hatomic]
  exact ⟨{ s.hmPort d with
    waits := [scrubReq base].erase (scrubReq base), ptrs := Tab.set (s.hmPort d).ptrs 0 5 0,
    past := [(hcNow s, 5)] ++ (s.hmPort d).past.filter (fun g => decide (hcNow s < g.1 + 256)), freeAt := hcNow s + 1 }, rfl, rfl⟩

theorem hmScrubRead_of_idle {base : Nat} (ha : base % 256 = 0) (hlo : hmBase ≤ base) (hw : (s.hmPort (hmDie base)).waits = [])
    (hf : (s.hmPort (hmDie base)).freeAt ≤ hcNow s) : ((hmPresent s (hmDie base) (scrubReq base)).hmPort (hmDie base)).freeAt = hcNow s + 1 ∧
      (hmPresent s (hmDie base) (scrubReq base)).mem = s.mem ∧
      ∀ w, w ∈ corrWords s base 256 → ∃ q, q ∈ ((hmPresent s (hmDie base) (scrubReq base)).hmPort (hmDie base)).waits ∧
        q.cls = 5 ∧ q.key = w ∧ q.ent.src = .correct := by
  obtain ⟨x, hx, hgrant⟩ := hmPresent_of_idle (base := base) hw hf
  rw [hgrant]
  generalize hu : (s.updHmPort (hmDie base) (fun x => { x with waits := x.waits ++ [scrubReq base] })).setHmPort (hmDie base) x = u
  have hmem : u.mem = s.mem := by rw [← hu]; rfl
  have hcorr : corrWords u base 256 = corrWords s base 256 := by rw [← hu]; rfl
  have hfree : (u.hmPort (hmDie base)).freeAt = hcNow s + 1 := by rw [← hu, setHmPort_hmPort, hx]
  obtain ⟨hsame, hfix⟩ := hmScrub_port base u (hmDie base)
  refine ⟨hsame.trans hfree, ((hmScrub_only base u).same .mem (by decide)).trans hmem, fun w hwc => ?_⟩
  obtain ⟨q, hq, hrest⟩ := hfix w (by rwa [hcorr])
  exact ⟨q, by rwa [← hmDie_of_corr ha hlo hwc], hrest⟩

/-- Settles O26: the scrub moves a cursor and queues write-backs; nothing of the memory changes. -/
theorem refreshAndScrubMoveOn : Obligations.RefreshAndScrubMoveOn := by
  intro s i bg base hrun
  refine ⟨fun hbg hdue => ?_, fun hlo hhi ha => ⟨fun hw hf => ?_, fun hheld => ?_⟩⟩
  · have hexec : exec (.refresh i bg) s = .next (scrub i bg (setBankGroup s i bg (refreshing (bankGroup s i bg) (pcNow s)))) := by
      change act .refresh (when _ _) s = _
      rw [PipCore.act_of_running _ hrun, when, if_pos (by rw [hbg, hdue]; rfl)]
      rfl
    have hbank : bankGroup (setBankGroup s i bg (refreshing (bankGroup s i bg) (pcNow s))) i bg =
        refreshing (bankGroup s i bg) (pcNow s) := by
      rw [setBankGroup_eq, bankGroup, ingot_updIngot_self]
      exact get_set_self ..
    obtain ⟨hfix, hsame⟩ := scrub_bankGroups i bg (setBankGroup s i bg (refreshing (bankGroup s i bg) (pcNow s)))
    rw [hbank] at hfix hsame
    simp only [refreshOf, refreshing, Prod.mk.injEq] at hsame
    obtain ⟨hfree, hto, hrow, hscrub⟩ := hsame
    exact ⟨_, hexec, hfree, hto, hrow, hscrub, hfix, (Whole.exec_only _ hexec).same .mem (by simp [frameOf])⟩
  · refine runs_of_when (by unfold exec; rfl) hrun (by simp [hlo, hhi, ha]) ?_
    exact hmScrubRead_of_idle ha hlo hw hf
  · refine runs_of_when (by unfold exec; rfl) hrun (by simp [hlo, hhi, ha]) ?_
    rw [hmPresent_of_held _ hheld, State.updHmPort, setHmPort_hmPort]
    exact ⟨rfl, scrubReq base, rfl, rfl, rfl, rfl⟩

end Sys2Proof.Banks
end

section
/-! What a crucible's intake leaves as it is when it takes packets in: the records on their way, the pips but for their queues, the
counters of other events, the pc count (R65, R156 to R162). -/

namespace Sys2Proof.Intake

open Sys2Proof Sys2Proof.Machine Sys2Proof.Laws Sys2Proof.Lanes

variable {s t u : State}

/-! ## Tables -/

theorem get_eq_or_mem {α : Type} (x : Tab α) (d : α) (k : Nat) : Tab.get x d k = d ∨ (k, Tab.get x d k) ∈ x := by
  induction x with
  | nil => exact .inl rfl
  | cons e x ih =>
    obtain ⟨j, v⟩ := e
    by_cases h : j = k
    · subst h
      exact .inr (by simp [Tab.get])
    · simpa [Tab.get, h, Ne.symm h] using ih

theorem mem_of_mem_insert {α : Type} {x : Tab α} {k : Nat} {v : α} {e : Nat × α} (h : e ∈ Tab.insert x k v) :
    e = (k, v) ∨ e ∈ x := by
  induction x with
  | nil => exact .inl (by simpa [Tab.insert] using h)
  | cons a x ih =>
    obtain ⟨j, w⟩ := a
    rw [Tab.insert] at h
    split at h
    · simpa using h
    · rcases List.mem_cons.mp h with h | h
      · exact .inr (by simp [h])
      · exact (ih h).imp_right (List.mem_cons_of_mem _)

theorem mem_of_mem_set {α : Type} [DecidableEq α] {x : Tab α} {d v : α} {k : Nat} {e : Nat × α} (h : e ∈ Tab.set x d k v) :
    e = (k, v) ∨ e ∈ x := by
  have herase : ∀ {e}, e ∈ Tab.erase x k → e ∈ x := fun h => List.mem_of_mem_filter h
  unfold Tab.set at h
  split at h
  · exact .inr (herase h)
  · exact (mem_of_mem_insert h).imp_right herase

/-! ## The readings -/

/-- The counters of an ingot that taking packets in counts. -/
def intakeCounters : List Nat := [0x090, 0x0B0, 0x0C8, 0x0E0]

/-- The records on their way to the merge tree, and the counters of other events. -/
def recsOf (x : Ingot) : List (Nat × Nat × Nat × Rec) × (Nat → W64) :=
  (x.recs, fun k => if k ∈ intakeCounters then 0 else Tab.get x.ctr 0#64 k)

/-- A pip but for its queue. -/
def pipOf (x : Pip) : Pip := { x with queue := [] }

/-- All locks that the table of an ingot holds for a page. -/
def locksAt (x : Ingot) (page : Nat) : List Lock := (x.locks.filter (fun e => e.1 == page)).flatMap (·.2)

theorem mem_locksAt {x : Ingot} {page : Nat} {l : Lock} : l ∈ locksAt x page ↔ ∃ e ∈ x.locks, e.1 = page ∧ l ∈ e.2 := by
  simp [locksAt, List.mem_flatMap, List.mem_filter, and_assoc]

theorem mem_locksAt_of_pageLocks {x : Ingot} {page : Nat} {l : Lock} (h : l ∈ pageLocks x page) : l ∈ locksAt x page := by
  rw [pageLocks] at h
  rcases get_eq_or_mem x.locks [] page with hget | hget
  · rw [hget] at h
    exact absurd h List.not_mem_nil
  · exact mem_locksAt.mpr ⟨_, hget, rfl, h⟩

theorem recsOf_ctr (x : Ingot) {k : Nat} (n : Nat) (h : k ∈ intakeCounters) : recsOf { x with ctr := ctrAdd x.ctr k n } = recsOf x := by
  refine Prod.ext rfl (funext fun j => ?_)
  by_cases hj : j ∈ intakeCounters
  · simp [recsOf, hj]
  · have hne : j ≠ k := fun e => hj (e ▸ h)
    simp [recsOf, hj, ctrAdd, get_set_other hne]

/-- What taking packets in leaves as it is. -/
structure Intaken (s t : State) : Prop where
  ingots : KeepsIngots recsOf s t
  pips : ∀ p, pipOf (t.pip p) = pipOf (s.pip p)
  pc : pcNow t = pcNow s
  locks : ∀ i page l, l ∈ locksAt (t.ingot i) page → l ∈ locksAt (s.ingot i) page ∨ l.since = pcNow s

theorem Intaken.running (h : Intaken s t) (p : Nat) : (t.pip p).running = (s.pip p).running := by
  have hpip := congrArg Pip.running (h.pips p)
  exact hpip

theorem Intaken.streams (h : Intaken s t) (p : Nat) : (t.pip p).streams = (s.pip p).streams := by
  have hpip := congrArg Pip.streams (h.pips p)
  exact hpip

theorem Intaken.fifo (h : Intaken s t) (p : Nat) : (t.pip p).fifo = (s.pip p).fifo := by
  have hpip := congrArg Pip.fifo (h.pips p)
  exact hpip

theorem Intaken.cur (h : Intaken s t) (p : Nat) : (t.pip p).cur = (s.pip p).cur := by
  have hpip := congrArg Pip.cur (h.pips p)
  exact hpip

theorem Intaken.recs (h : Intaken s t) (i : Nat) : (t.ingot i).recs = (s.ingot i).recs := by
  have hrecs := congrArg Prod.fst (h.ingots.same i)
  exact hrecs

theorem Intaken.ctr (h : Intaken s t) (i : Nat) {k : Nat} (hk : k ∉ intakeCounters) :
    Tab.get (t.ingot i).ctr 0#64 k = Tab.get (s.ingot i).ctr 0#64 k := by
  simpa [recsOf, hk] using congrFun (congrArg Prod.snd (h.ingots.same i)) k

theorem intaken_refl (s : State) : Intaken s s := ⟨keepsIngots_refl s, fun _ => rfl, rfl, fun _ _ _ => .inl⟩

theorem Intaken.trans (h : Intaken s t) (h' : Intaken t u) : Intaken s u := by
  refine ⟨h.ingots.trans h'.ingots, fun p => (h'.pips p).trans (h.pips p), h'.pc.trans h.pc, fun i page l hl => ?_⟩
  rcases h'.locks i page l hl with hl | hl
  · exact h.locks i page l hl
  · exact .inr (hl.trans h.pc)

theorem intaken_of_only {l : List Part} (h : OnlyChanges l s t)
    (hl : ∀ p ∈ [Part.ingots, .pips, .clk, .boot], p ∉ l) : Intaken s t := by
  have hingots : t.ingots = s.ingots := h.same .ingots (hl _ (by decide))
  have hpips : t.pips = s.pips := h.same .pips (hl _ (by decide))
  have hclk : t.clk = s.clk := h.same .clk (hl _ (by decide))
  have hboot : t.boot = s.boot := h.same .boot (hl _ (by decide))
  refine ⟨⟨fun i => congrArg recsOf (ingot_of_ingots hingots i)⟩, fun p => ?_, ?_, fun i page l hl => ?_⟩
  · rw [State.pip, hpips, State.pip]
  · rw [pcNow, hclk, hboot, pcNow]
  · rw [ingot_of_ingots hingots] at hl
    exact .inl hl

theorem intaken_updIngot (s : State) (i : Nat) {f : Ingot → Ingot} (h : recsOf (f (s.ingot i)) = recsOf (s.ingot i))
    (hl : ∀ page l, l ∈ locksAt (f (s.ingot i)) page → l ∈ locksAt (s.ingot i) page ∨ l.since = pcNow s) :
    Intaken s (s.updIngot i f) := by
  refine ⟨⟨fun j => ?_⟩, fun _ => rfl, rfl, fun j page l hj => ?_⟩
  · by_cases hj : j = i
    · subst hj
      rw [ingot_updIngot_self, h]
    · rw [ingot_updIngot_other s f hj]
  · by_cases hji : j = i
    · subst hji
      rw [ingot_updIngot_self] at hj
      exact hl page l hj
    · rw [ingot_updIngot_other s f hji] at hj
      exact .inl hj

/-- A change of an ingot that leaves its locks as they are. -/
theorem intaken_updIngot_of_locks (s : State) (i : Nat) {f : Ingot → Ingot} (h : recsOf (f (s.ingot i)) = recsOf (s.ingot i))
    (hl : (f (s.ingot i)).locks = (s.ingot i).locks) : Intaken s (s.updIngot i f) :=
  intaken_updIngot s i h fun page l hm => .inl (by rwa [locksAt, hl] at hm)

theorem intaken_countIngot (s : State) (i n : Nat) {k : Nat} (h : k ∈ intakeCounters) : Intaken s (s.countIngot i k n) :=
  intaken_updIngot_of_locks s i (recsOf_ctr _ n h) rfl

theorem intaken_foldl {α : Type} {f : State → α → State} (h : ∀ s a, Intaken s (f s a)) (l : List α) (s : State) :
    Intaken s (l.foldl f s) := by
  induction l generalizing s with
  | nil => exact intaken_refl s
  | cons a l ih => exact (h s a).trans (ih _)

/-! ## The end of a request and of a turn -/

theorem countUncorr_intaken (s : State) (k : Nat) : Intaken s (countUncorr s k) := by
  unfold countUncorr
  split
  · exact intaken_countIngot s _ 1 (by decide)
  · exact intaken_of_only (state_countDev_only ..) (by decide)
  · exact intaken_of_only (state_countDev_only ..) (by decide)
  · exact intaken_refl s

theorem noteUncorr_intaken (s : State) (k n path seat : Nat) (b : Option Nat) : Intaken s (noteUncorr s k n path seat b) := by
  unfold noteUncorr
  refine intaken_foldl (fun s w => ?_) _ s
  split
  · exact (countUncorr_intaken s w).trans (intaken_of_only (logError_only ..) (by decide))
  · exact intaken_refl s

theorem readCons_intaken (s : State) (slot : Nat) : Intaken s (readCons s slot) := by
  unfold readCons
  dsimp only
  split
  · exact (intaken_of_only (state_updRx_only ..) (by decide)).trans
      (intaken_of_only (state_countBind_only ..) (by decide))
  · split
    · exact ((noteUncorr_intaken s _ 4 0 _ _).trans
        (intaken_of_only (state_countBind_only ..) (by decide))).trans
        (intaken_of_only (state_noteWindow_only ..) (by decide))
    · exact (intaken_of_only (state_updRx_only ..) (by decide)).trans
        (intaken_of_only (ringCheck_only ..) (by decide))

theorem endNow_intaken (s : State) (slot st detail : Nat) : Intaken s (endNow s slot st detail) := by
  have hread : Intaken s (readCons ((endReq s slot st detail (now s) false).updRx slot (fun x => { x with ringUndo := [] })) slot) :=
    ((intaken_of_only (endReq_only ..) (by decide)).trans
      (intaken_of_only (state_updRx_only ..) (by decide))).trans (readCons_intaken _ slot)
  have hring := hread.trans (intaken_of_only (ringEnd_only _ slot) (by decide))
  unfold endNow
  dsimp only
  split
  · exact hring
  · exact hring.trans (intaken_of_only (ringRaise_only ..) (by decide))

theorem takeWaiting_intaken (s : State) (b : Nat) : Intaken s (takeWaiting s b) := by
  have hpark (s : State) (slot : Nat) : Intaken s (parkSwitch s slot) :=
    intaken_of_only (parkSwitch_only ..) (by decide)
  unfold takeWaiting
  refine intaken_foldl (fun s slot => ?_) _ s
  dsimp only
  split
  · exact intaken_refl s
  · split
    · exact endNow_intaken ..
    · split
      · exact endNow_intaken ..
      · split
        · exact endNow_intaken ..
        · split
          · exact (hpark s slot).trans (intaken_of_only (pauseEffect_only ..) (by decide))
          · exact (hpark s slot).trans (intaken_of_only (resumeSwitch_only ..) (by decide))

/-- What an abandoned turn gives back before the waiting ends take effect. -/
theorem abandonLocal_intaken (s : State) (b : Nat) : Intaken s (abandonLocal s b) := by
  unfold abandonLocal
  extract_lets x ents s1 s2 src s3
  split
  · exact intaken_refl s
  · have h1 : Intaken s s1 := intaken_of_only (state_updBind_only ..) (by decide)
    have h2 : Intaken s1 s2 := intaken_foldl (fun s e =>
      intaken_of_only (dropReserved_only s b e) (by decide)) ents s1
    have h3 : Intaken s2 s3 := by
      unfold s3
      split
      · exact ⟨⟨fun _ => rfl⟩, fun _ => rfl, rfl, fun _ _ _ => .inl⟩
      · exact intaken_refl s2
    refine ((h1.trans h2).trans h3).trans (Intaken.trans ?_ (takeWaiting_intaken _ b))
    refine Intaken.trans ?_ (intaken_of_only (switchObjects_only ..) (by decide))
    exact (intaken_of_only (deviceEvent_only ..) (by decide)).trans
      (intaken_of_only (applyDue_only ..) (by decide))

theorem abandonTurn_intaken (s : State) (b : Nat) : Intaken s (abandonTurn s b) := by
  have hlocal := abandonLocal_intaken s b
  unfold abandonTurn
  dsimp only
  split
  · exact intaken_refl s
  · split
    · exact hlocal
    · split
      · exact (hlocal.trans (intaken_of_only (setBarrier_only ..) (by decide))).trans
          (intaken_of_only (toKids_only ..) (by decide))
      · exact hlocal.trans (intaken_of_only (barrierArrive_only ..) (by decide))

/-! ## Packets -/

theorem failLocal_intaken (s : State) (kind slot : Nat) : Intaken s (failLocal s kind slot) := by
  unfold failLocal
  split
  · exact intaken_refl s
  · split
    · exact intaken_of_only (failSlot_only ..) (by decide)
    · exact abandonTurn_intaken ..

theorem reject_intaken (s : State) (i : Nat) (d : BitVec 256) (chip : Nat) : Intaken s (reject s i d chip) := by
  have hcount : Intaken s (s.countIngot i 0x0B0 1) := intaken_countIngot s i 1 (by decide)
  unfold reject
  dsimp only
  split
  · exact hcount.trans (failLocal_intaken ..)
  · exact hcount

theorem discardDisp_intaken (s : State) (i : Nat) (x : Intake) : Intaken s (discardDisp s i x) := by
  have hemit (o : Out) : Intaken s (s.emit o) := intaken_of_only (state_emit_only ..) (by decide)
  have hslot (s : State) (b slot : Nat) : Intaken s (failSlot s b slot 1) :=
    intaken_of_only (failSlot_only ..) (by decide)
  unfold discardDisp
  dsimp only
  split
  · split
    · exact reject_intaken ..
    · exact intaken_refl s
  · split
    · exact reject_intaken ..
    · exact reject_intaken ..
    · split
      · exact hemit _
      · split
        · exact (hemit _).trans (hslot ..)
        · exact hemit _
    · exact hemit _
    · exact (hemit _).trans (intaken_of_only (failQuery_only ..) (by decide))

theorem intaken_queue (s : State) (p : Nat) (l : List PDesc) : Intaken s (s.setPip p { s.pip p with queue := l }) := by
  refine ⟨⟨fun _ => rfl⟩, fun q => ?_, rfl, fun _ _ _ => .inl⟩
  by_cases h : q = p
  · subst h
    rw [setPip_pip]
    rfl
  · rw [setPip_pip_other _ _ _ _ h]

theorem locksAt_addLock {x : Ingot} {page q : Nat} {l k : Lock} (h : k ∈ locksAt (addLock x page l) q) :
    k ∈ locksAt x q ∨ k = l := by
  obtain ⟨e, he, rfl, hk⟩ := mem_locksAt.mp h
  rcases mem_of_mem_set he with rfl | he
  · rcases List.mem_append.mp hk with hk | hk
    · exact .inl (mem_locksAt_of_pageLocks hk)
    · exact .inr (List.mem_singleton.mp hk)
  · exact .inl (mem_locksAt.mpr ⟨e, he, rfl, hk⟩)

/-- The change that an accepted descriptor makes to its ingot. -/
def takeSlots (s : State) (i : Nat) (d : BitVec 256) (g : Ingot) : Ingot :=
  let chip := LDesc.ISSUER.get d
  let cl := LDesc.CLUSTER.get d
  let k := entOf s i chip (LDesc.QID.get d)
  let g := addLock g (LDesc.PAGE.get d) ⟨chip, cl, pcNow s⟩
  let g := setQEnt g k { qEnt g k with waiting := (qEnt g k).waiting + 1 }
  { g with slotsUsed := g.slotsUsed + dNq d,
           groups := if dKind d = 0 then joinGroup g.groups chip cl (LDesc.TAG.get d)
             ⟨LDesc.PAGE_SEQ.get d, LDesc.QROW0.get d, LDesc.HEAD0.get d, dNq d, LDesc.SLOT.get d, [], [], 0, false⟩ else g.groups }

/-- The state after an accepted descriptor's slots, lock and group, and its place in the queue of its pip. -/
def enqueued (s : State) (i : Nat) (x : Intake) : State :=
  let d := x.desc
  let p := pagePip i (LDesc.PAGE.get d)
  let s' := s.updIngot i (takeSlots s i d)
  s'.setPip p { s'.pip p with queue := (s'.pip p).queue ++
    [⟨d, x.mask, entOf s i (LDesc.ISSUER.get d) (LDesc.QID.get d), false⟩] }

theorem acceptDesc_eq (s : State) (i : Nat) (x : Intake) : acceptDesc s i x =
    if LDesc.ISSUER.get x.desc ≠ ownChip (enqueued s i x) then (enqueued s i x).countIngot i 0x0E0 1
    else if dKind x.desc = 1 then
      match layerHolder (enqueued s i x) with
      | some b => noteLayer (enqueued s i x) b ((enqueued s i x).cluster (LDesc.CLUSTER.get x.desc)).wlayer
      | none => enqueued s i x
    else enqueued s i x := rfl

theorem enqueued_intaken (s : State) (i : Nat) (x : Intake) : Intaken s (enqueued s i x) := by
  refine Intaken.trans (intaken_updIngot s i (by rfl) fun page l hl => ?_) (intaken_queue _ _ _)
  refine (locksAt_addLock (l := ⟨LDesc.ISSUER.get x.desc, LDesc.CLUSTER.get x.desc, pcNow s⟩) hl).imp_right ?_
  rintro rfl
  rfl

theorem acceptDesc_intaken (s : State) (i : Nat) (x : Intake) : Intaken s (acceptDesc s i x) := by
  have h := enqueued_intaken s i x
  rw [acceptDesc_eq]
  split
  · exact h.trans (intaken_countIngot _ i 1 (by decide))
  · split
    · split
      · exact h.trans (intaken_of_only (noteLayer_only ..) (by decide))
      · exact h
    · exact h

theorem takeDesc_intaken {i n : Nat} {x : Intake} (h : takeDesc s i x = some (t, n)) : Intaken s t := by
  simp only [takeDesc] at h
  split at h
  · cases h
    exact reject_intaken ..
  · split at h
    · cases h
    · cases h
      exact acceptDesc_intaken ..

theorem takeQuery_intaken {i : Nat} {x : Intake} (h : takeQuery s i x = some t) : Intaken s t := by
  simp only [takeQuery] at h
  split at h
  · cases h
  · split at h
    · cases h
    · cases h
      exact intaken_updIngot_of_locks s i (by rfl) (by rfl)

theorem sendGroups_intaken (s : State) (i : Nat) : Intaken s (sendGroups s i) := by
  unfold sendGroups
  refine Intaken.trans (intaken_updIngot_of_locks s i (by rfl) (by rfl)) (intaken_foldl (fun s g => ?_) _ _)
  refine Intaken.trans ?_ (intaken_foldl (fun s p =>
    intaken_of_only (sendRow_only i g s p) (by decide)) _ _)
  split
  · exact intaken_countIngot s i 1 (by decide)
  · exact intaken_refl s

theorem locksAt_keepLocks {x : Ingot} {p : Nat → Lock → Bool} {page : Nat} {l : Lock} (h : l ∈ locksAt (keepLocks x p) page) :
    l ∈ locksAt x page ∧ p page l = true := by
  obtain ⟨e, he, rfl, hl⟩ := mem_locksAt.mp h
  simp only [keepLocks, List.mem_filterMap] at he
  obtain ⟨a, ha, hae⟩ := he
  split at hae
  · cases hae
  · cases hae
    obtain ⟨hla, hp⟩ := List.mem_filter.mp hl
    exact ⟨mem_locksAt.mpr ⟨a, ha, rfl, hla⟩, hp⟩

theorem takeRelease_intaken (s : State) (i : Nat) (x : Intake) : Intaken s (takeRelease s i x) := by
  unfold takeRelease
  refine intaken_updIngot s i (by rfl) fun page l hl => .inl ?_
  exact (locksAt_keepLocks (x := s.ingot i)
    (p := fun _ l => !(l.chip == dispChip x.hdr && l.cluster == dispCluster x.hdr)) hl).1

theorem takeClose_intaken (s : State) (i : Nat) (x : Intake) : Intaken s (takeClose s i x) :=
  (intaken_updIngot_of_locks s i (by rfl) (by rfl)).trans (sendGroups_intaken _ i)

theorem takeStatus_intaken {i n : Nat} {x : Intake} (h : takeStatus s i x = some (t, n)) : Intaken s t := by
  unfold takeStatus at h
  split at h
  · cases h
    exact discardDisp_intaken ..
  · split at h
    · cases h
      exact intaken_of_only (noteRefused_only ..) (by decide)
    · split at h
      · exact takeDesc_intaken h
      · exact takeDesc_intaken h
      · simp only [Option.map_eq_some_iff, Prod.mk.injEq] at h
        obtain ⟨u, hu, rfl, -⟩ := h
        exact takeQuery_intaken hu
      · cases h
        exact takeClose_intaken ..
      · cases h
        exact takeRelease_intaken ..

theorem takePacket_intaken {i : Nat} {x : Intake} (h : takePacket s i x = some t) : Intaken s t := by
  simp only [takePacket, Option.map_eq_some_iff] at h
  obtain ⟨⟨v, n⟩, hv, rfl⟩ := h
  have hstatus := takeStatus_intaken hv
  split
  · exact hstatus.trans (intaken_of_only (answer_only ..) (by decide))
  · exact hstatus

theorem intakeGrant_intaken {i cls : Nat} (h : intakeGrant s i cls = some t) : Intaken s t := by
  unfold intakeGrant at h
  split at h
  · cases h
  · simp only [Option.bind_eq_some_iff, Option.map_eq_some_iff] at h
    obtain ⟨x, -, v, hv, rfl⟩ := h
    exact (takePacket_intaken hv).trans (intaken_updIngot_of_locks v i (by rfl) (by rfl))

theorem drainIntake_intaken (i n : Nat) (s : State) : Intaken s (drainIntake i n s) := by
  induction n generalizing s with
  | zero => exact intaken_refl s
  | succ n ih =>
    rw [drainIntake]
    split
    · next v hv =>
      refine Intaken.trans ?_ (ih v)
      rcases Option.or_eq_some_iff.mp hv with hv | ⟨-, hv⟩
      · exact intakeGrant_intaken hv
      · exact intakeGrant_intaken hv
    · exact intaken_refl s

/-- What waits at an intake is taken in: the records on their way and the pips but for their queues are as they were. -/
theorem drained_intaken (s : State) (i : Nat) : Intaken s (drained s i) := drainIntake_intaken i _ s

theorem drained_of_empty {i : Nat} (h : (s.ingot i).intake = []) : drained s i = s := by
  rw [drained, h]
  rfl

end Sys2Proof.Intake
end

section
/-! The pips' rows that start, feed and end a descriptor (R80, R86, R90, R95 to R99). -/

namespace Sys2Proof.PipCore

open Sys2Proof Sys2Proof.Machine Sys2Proof.Laws Sys2Proof.Lanes Sys2Proof.Intake Sys2Proof.Pins

/-! ## Rows -/

/-- A row of a ready pip that leaves its issue's state with another pip. -/
theorem pipSteps_of_ready {i : Instr} {op p : Nat} {s : State} {stall : State → W32 → Bool} {f : State → W32 → State} {y : Pip}
    (hrow : exec i s = pipRow op p stall f s) (h : pipReady op s p = true) (hstall : stall s (pipWord s p) = false)
    (hf : f (pipIssue s p) (pipWord s p) = (pipIssue s p).setPip p y) : PipSteps i s p y := by
  refine ⟨_, hrow.trans (pipRow_of_ready f h hstall), ?_, fun q hq => ?_, ?_, ?_⟩
  · rw [hf, setPip_pip]
  · rw [hf, setPip_pip_other _ _ _ _ hq, pipIssue_pip_other s hq]
  · rw [hf]
    exact pipIssue_ingots s p
  · rw [hf]
    exact only_step (state_setPip_only ..) rfl (only_step (pipIssue_only s p) rfl (only_refl _ _))

theorem recs_countIngot (s : State) (i j k n : Nat) : ((s.countIngot i k n).ingot j).recs = (s.ingot j).recs := by
  rw [State.countIngot]
  by_cases h : j = i
  · subst h
    rw [ingot_updIngot_self]
  · rw [ingot_updIngot_other s _ h]

theorem recs_pipIssue (s : State) (p j : Nat) : ((pipIssue s p).ingot j).recs = (s.ingot j).recs := recs_countIngot ..

/-! ## The end of a descriptor -/

theorem markEnded_intaken (s : State) (p : Nat) : Intaken s (markEnded s p) := by
  unfold markEnded
  dsimp only
  split
  · exact intaken_updIngot_of_locks s _ (by rfl) (by rfl)
  · exact intaken_refl s

theorem markEnded_free (s : State) (p : Nat) : (markEnded s p).free = s.free := (markEnded_only s p).same .free (by decide)

/-- The record that a descriptor of pip p sends when it faults. -/
def faultRec (s : State) (p status : Nat) : Nat × Nat × Nat × Rec :=
  (p % 384, LDesc.ISSUER.get (s.pip p).cur.desc, LDesc.CLUSTER.get (s.pip p).cur.desc, ⟨faultHdr s (s.pip p).cur.desc status, []⟩)

/-- The pip has stopped, and its group knows that it has ended. -/
def stopped (s : State) (p : Nat) : State := (markEnded s p).setPip p (pipStop (s.pip p))

/-- What a fault changes in the ingot: the slots that no record will take, the record. -/
def faultSent (s : State) (p status : Nat) (g : Ingot) : Ingot :=
  { g with slotsUsed := g.slotsUsed - (dNq (s.pip p).cur.desc - emittedCount (s.pip p)),
           recs := g.recs ++ [(p % 384, LDesc.ISSUER.get (s.pip p).cur.desc, LDesc.CLUSTER.get (s.pip p).cur.desc,
             ⟨faultHdr (stopped s p) (s.pip p).cur.desc status, []⟩)] }

/-- A faulting pip has stopped, its record is on its way, and the fault is counted. -/
def faulted (s : State) (p status : Nat) : State :=
  let t := (((stopped s p).updIngot (p / 384) (faultSent s p status)).countIngot (p / 384) 0x0A8 1).countIngot (p / 384) 0x0B0 1
  { t with free := t.free + 1 }

theorem pipFault_eq (s : State) (p : Nat) {status : Nat} (h : status ≠ St.uncorr) :
    pipFault s p status = drained (faulted s p status) (p / 384) := by
  have hif : ¬(decide (status = St.uncorr) && dKind (s.pip p).cur.desc = 1 && !(s.pip p).cur.again) = true := by simp [h]
  unfold pipFault
  exact if_neg hif

theorem faulted_pip (s : State) (p status : Nat) : (faulted s p status).pip p = pipStop (s.pip p) := by
  have hpips : (faulted s p status).pips = (stopped s p).pips := rfl
  rw [State.pip, hpips]
  exact setPip_pip ..

theorem faultHdr_stopped (s : State) (p status : Nat) (d : BitVec 256) : faultHdr (stopped s p) d status = faultHdr s d status := by
  have hfree : (stopped s p).free = s.free := by rw [stopped, setPip_free, markEnded_free]
  rw [faultHdr, hfree, faultHdr]

theorem stopped_recs (s : State) (p i : Nat) : ((stopped s p).ingot i).recs = (s.ingot i).recs :=
  (markEnded_intaken s p).recs i

theorem ingot_free (s : State) (n i : Nat) : ({ s with free := n } : State).ingot i = s.ingot i := rfl

theorem faulted_recs (s : State) (p status : Nat) : ((faulted s p status).ingot (p / 384)).recs =
    (s.ingot (p / 384)).recs ++ [faultRec s p status] := by
  rw [faulted, ingot_free, recs_countIngot, recs_countIngot, ingot_updIngot_self, faultSent, stopped_recs, faultHdr_stopped]
  rfl

/-- The pip has stopped with its record of a fault sent. -/
structure Faulted (s t : State) (p status : Nat) : Prop where
  running : (t.pip p).running = false
  streams : (t.pip p).streams = []
  fifo : (t.pip p).fifo = []
  recs : (t.ingot (p / 384)).recs = (s.ingot (p / 384)).recs ++ [faultRec s p status]

/-- What the intake takes in leaves a stopped pip stopped and the records as they are. -/
theorem pipFault_faulted (s : State) (p : Nat) {status : Nat} (h : status ≠ St.uncorr) : Faulted s (pipFault s p status) p status := by
  rw [pipFault_eq s p h]
  have hkeep := drained_intaken (faulted s p status) (p / 384)
  refine ⟨?_, ?_, ?_, ?_⟩
  · rw [hkeep.running, faulted_pip, pipStop]
  · rw [hkeep.streams, faulted_pip, pipStop]
  · rw [hkeep.fifo, faulted_pip, pipStop]
  · rw [hkeep.recs, faulted_recs]

theorem faultRec_pipIssue (s : State) (p status : Nat) : faultRec (pipIssue s p) p status = faultRec s p status := by
  rw [faultRec, pipIssue_pip]
  rfl

/-- An instruction that its row refuses faults after its issue. -/
theorem faulted_of_ready {i : Instr} {op p status : Nat} {s : State} {stall : State → W32 → Bool} {f : State → W32 → State}
    (hrow : exec i s = pipRow op p stall f s) (h : pipReady op s p = true) (hstall : stall s (pipWord s p) = false)
    (hstatus : status ≠ St.uncorr) (hf : f (pipIssue s p) (pipWord s p) = pipFault (pipIssue s p) p status) :
    Runs i s (fun t => Faulted s t p status) := by
  refine ⟨_, hrow.trans (pipRow_of_ready f h hstall), ?_⟩
  rw [hf]
  obtain ⟨hrun, hstreams, hfifo, hrecs⟩ := pipFault_faulted (pipIssue s p) p hstatus
  rw [recs_pipIssue, faultRec_pipIssue] at hrecs
  exact ⟨hrun, hstreams, hfifo, hrecs⟩

/-! ## Beats, records, the end -/

/-- The beat at the FIFO's head. -/
def headBeat (x : Pip) : List Byte := x.fifo.headD []

/-- The address of a MAC's scalar. -/
def scalarAt (x : Pip) (w : W32) : Nat := (gReg x (pipB w)).toNat + 128 * (pipX w / 1024 % 16)

theorem budget_popBeat (x : Pip) (keep : Bool) : (popBeat x keep).budget = x.budget := by
  unfold popBeat
  split <;> rfl

/-- A pip after the products and sums of a MAC, its beat and its scalar's address moved on as the word says. -/
def macPip (x : Pip) (w : W32) : Pip :=
  let y := popBeat (pipMacs x w (dmWord x (scalarAt x w)) (headBeat x)) (pipX w / 2 % 2 == 1)
  if pipX w % 2 = 1 then setG y (pipB w) (gReg y (pipB w) + 4#32) else y

theorem pipMacs_budget (x : Pip) (n : Nat) (w sc : W32) (bt : List Byte) :
    pipMacs { x with budget := n } w sc bt = { pipMacs x w sc bt with budget := n } := by
  unfold pipMacs
  dsimp only
  split <;> rfl

theorem popBeat_budget (x : Pip) (n : Nat) (keep : Bool) : popBeat { x with budget := n } keep = { popBeat x keep with budget := n } := by
  unfold popBeat
  split <;> rfl

theorem macPip_budget (x : Pip) (n : Nat) (w : W32) : macPip { x with budget := n } w = { macPip x w with budget := n } := by
  have hword : dmWord { x with budget := n } (scalarAt { x with budget := n } w) = dmWord x (scalarAt x w) := rfl
  have hbeat : headBeat { x with budget := n } = headBeat x := rfl
  unfold macPip
  dsimp only
  rw [hword, hbeat, pipMacs_budget, popBeat_budget]
  split <;> rfl

theorem budget_macPip (x : Pip) (w : W32) : (macPip x w).budget = x.budget := by
  have hx := congrArg Pip.budget (macPip_budget x x.budget w)
  exact hx

theorem pipMac_steps {s : State} {p : Nat} (h : pipReady 0x24 s p = true) (hfifo : (s.pip p).fifo ≠ [])
    (hok : dmOk (scalarAt (s.pip p) (pipWord s p)) 4 = true) :
    PipSteps (.pipMac p) s p (pipGoes (macPip (s.pip p) (pipWord s p))) := by
  have hrow : exec (.pipMac p) s = execPipMac p s := rfl
  refine pipSteps_of_ready hrow h (by simpa [noBeat] using hfifo) ?_
  dsimp only
  rw [pipIssue_pip]
  refine (if_pos hok).trans ?_
  change (pipIssue s p).setPip p (pipNext (macPip { s.pip p with budget := (s.pip p).budget - 1 } (pipWord s p))) = _
  rw [macPip_budget, pipGoes, budget_macPip]

theorem pipScx_steps {s : State} {p : Nat} (h : pipReady 0x25 s p = true) (hfifo : (s.pip p).fifo ≠ []) :
    let x := s.pip p
    let w := pipWord s p
    PipSteps (.pipScx p) s p (pipGoes (popBeat (setV x (pipA w) (beatScales (pipX w % 2 == 1) (x.fifo.headD [])))
      (pipX w / 2 % 2 == 1))) := by
  intro x w
  have hrow : exec (.pipScx p) s = execPipScx p s := rfl
  refine pipSteps_of_ready hrow h (by simpa [noBeat] using hfifo) ?_
  dsimp only
  rw [pipIssue_pip]
  change (pipIssue s p).setPip p (pipNext (popBeat { setV x (pipA w) (beatScales (pipX w % 2 == 1) (x.fifo.headD [])) with
    budget := x.budget - 1 } (pipX w / 2 % 2 == 1))) = _
  rw [popBeat_budget, pipGoes, budget_popBeat]
  rfl

/-! ## Records and the end -/

/-- A pip whose record of row `row` leaves. -/
def emitPip (s : State) (x : Pip) (w : W32) : Pip :=
  { x with emitted := x.emitted ||| 1#16 <<< (gReg x (pipC w)).toNat, leaveTo := emitEnd s (pipX w % 32) }

/-- The record that an EMIT sends. -/
def emitRec (p : Nat) (x : Pip) (w : W32) : Nat × Nat × Nat × Rec :=
  (p % 384, LDesc.ISSUER.get x.cur.desc, LDesc.CLUSTER.get x.cur.desc,
    ⟨emitHdr x.cur.desc (gReg x (pipC w)).toNat (pipX w % 32) (gReg x (pipA w)) (gReg x (pipB w)), dmWords x 0x1800 (32 * (pipX w % 32))⟩)

theorem pipEmit_runs {s : State} {p : Nat} (h : pipReady 0x38 s p = true) (hok : emitOk (s.pip p) (pipWord s p) = true)
    (hleft : (s.pip p).leaveTo ≤ pcNow s) : Runs (.pipEmit p) s (fun t =>
      t.pip p = pipGoes (emitPip s (s.pip p) (pipWord s p)) ∧ (∀ q, q ≠ p → t.pip q = s.pip q) ∧
      (t.ingot (p / 384)).recs = (s.ingot (p / 384)).recs ++ [emitRec p (s.pip p) (pipWord s p)] ∧
      OnlyChanges [.pips, .ingots] s t) := by
  have hrow : exec (.pipEmit p) s = execPipEmit p s := rfl
  refine ⟨((pipIssue s p).setPip p (pipGoes (emitPip s (s.pip p) (pipWord s p)))).updIngot (p / 384)
    (fun g => { g with recs := g.recs ++ [emitRec p (s.pip p) (pipWord s p)] }), ?_, ?_, fun q hq => ?_, ?_, ?_⟩
  · refine (hrow.trans (pipRow_of_ready _ h (by simpa [emitWaits] using hleft))).trans (congrArg _ ?_)
    dsimp only
    rw [pipIssue_pip]
    exact if_pos hok
  · exact setPip_pip ..
  · exact (setPip_pip_other _ _ _ _ hq).trans (pipIssue_pip_other s hq)
  · rw [ingot_updIngot_self]
    exact congrArg (· ++ _) (recs_pipIssue s p (p / 384))
  · exact only_step (state_updIngot_only ..) rfl (only_step (state_setPip_only ..) rfl
      (only_step (pipIssue_only s p) rfl (only_refl _ _)))

/-- A pip that has emitted all its rows has stopped, and the end is counted. -/
def completed (s : State) (p : Nat) : State := (stopped s p).countIngot (p / 384) 0x0A8 1

theorem pipDone_intaken {s : State} {p : Nat} (h : emittedCount (s.pip p) = dNq (s.pip p).cur.desc) :
    Intaken (completed s p) (pipDone s p) := by
  have hdrain : Intaken (completed s p) (drained (sendGroups (completed s p) (p / 384)) (p / 384)) :=
    (sendGroups_intaken _ _).trans (drained_intaken _ _)
  unfold pipDone
  dsimp only
  rw [if_neg (not_not_intro h)]
  split
  · exact hdrain.trans (intaken_of_only (releaseWeights_only _ _) (by decide))
  · exact hdrain

theorem pipEnd_runs {s : State} {p : Nat} (h : pipReady 0x02 s p = true)
    (hrows : emittedCount (s.pip p) = dNq (s.pip p).cur.desc) : Runs (.pipEnd p) s (fun t =>
      (t.pip p).running = false ∧ (t.pip p).fifo = [] ∧ (t.ingot (p / 384)).recs = (s.ingot (p / 384)).recs ∧
      Tab.get (t.ingot (p / 384)).ctr 0#64 0x0A8 = Tab.get (s.ingot (p / 384)).ctr 0#64 0x0A8 + 1) := by
  have hrow : exec (.pipEnd p) s = execPipEnd p s := rfl
  refine ⟨_, hrow.trans (pipRow_of_ready _ h rfl), ?_⟩
  have hkeep : Intaken (completed (pipIssue s p) p) (pipDone (pipIssue s p) p) := pipDone_intaken (by rw [pipIssue_pip]; exact hrows)
  have hpip : (completed (pipIssue s p) p).pip p = pipStop ((pipIssue s p).pip p) := setPip_pip ..
  refine ⟨?_, ?_, ?_, ?_⟩
  · rw [hkeep.running, hpip, pipStop]
  · rw [hkeep.fifo, hpip, pipStop]
  · rw [hkeep.recs, completed, recs_countIngot, stopped_recs, recs_pipIssue]
  · have hmark : Tab.get ((stopped (pipIssue s p) p).ingot (p / 384)).ctr 0#64 0x0A8 =
        Tab.get ((pipIssue s p).ingot (p / 384)).ctr 0#64 0x0A8 := (markEnded_intaken _ p).ctr _ (by decide)
    have hissue : Tab.get ((pipIssue s p).ingot (p / 384)).ctr 0#64 0x0A8 = Tab.get (s.ingot (p / 384)).ctr 0#64 0x0A8 := by
      rw [ingot_of_ingots (pipIssue_ingots s p), State.countIngot, ingot_updIngot_self]
      exact get_set_other (by decide)
    rw [hkeep.ctr _ (by decide), completed, State.countIngot, ingot_updIngot_self]
    refine (get_set_self ..).trans ?_
    rw [hmark, hissue]
    rfl

theorem issueBudgetExhausted_runs {s : State} {p : Nat} (hrun : running .arith s = true) (hp : p < 6144)
    (hpip : (s.pip p).running = true) (hbudget : (s.pip p).budget = 0) :
    Runs (.issueBudgetExhausted p) s (fun t => Faulted s t p St.piptime) := by
  have hrow : exec (.issueBudgetExhausted p) s = execIssueBudgetExhausted p s := rfl
  refine ⟨pipFault s p St.piptime, (hrow.trans (act_of_running _ hrun)).trans (congrArg _ ?_), pipFault_faulted s p (by decide)⟩
  exact if_pos (by simp [pipOk, hp, hpip, hbudget])

/-- Settles O36: each row's effect, and what the intake then takes in changes neither the records on their way nor the stopped pip. -/
theorem pipBeatsAndRecords : Obligations.PipBeatsAndRecords := by
  intro s p x w d row
  refine ⟨fun h hfifo hok => pipMac_steps h hfifo hok, pipScx_steps, fun h hok hleft => pipEmit_runs h hok hleft,
    fun h hrows => pipEnd_runs h hrows, fun hrun hp hpip hbudget => ?_⟩
  obtain ⟨t, hexec, ht⟩ := issueBudgetExhausted_runs hrun hp hpip hbudget
  exact ⟨t, hexec, ht.running, ht.fifo, ht.recs⟩

end Sys2Proof.PipCore
end

section
/-! Writes at a memory: what they leave in the memory and in the deferral buffers, byte by byte (R66 to R72, R241, R243, R470). -/

namespace Sys2Proof.Stores

open Sys2Proof Sys2Proof.Machine Sys2Proof.Laws Sys2Proof.Lanes

variable {s t u : State}

/-! ## Bytes -/

theorem length_bytesOf (v n : Nat) : (bytesOf v n).length = n := by
  induction n generalizing v with
  | zero => rfl
  | succ n ih => rw [bytesOf, List.length_cons, ih]

theorem ofBytes_lt (l : List Byte) : ofBytes l < 256 ^ l.length := by
  induction l with
  | nil => exact Nat.one_pos
  | cons b l ih =>
    have hb : b.toNat < 256 := b.isLt
    rw [ofBytes, List.length_cons, pow_succ]
    omega

/-- The bytes that spell a number spell it back. -/
theorem bytesOf_ofBytes (l : List Byte) : bytesOf (ofBytes l) l.length = l := by
  induction l with
  | nil => rfl
  | cons b l ih =>
    have hb : b.toNat < 256 := b.isLt
    have hlow : BitVec.ofNat 8 (b.toNat + 256 * ofBytes l) = b := by
      apply BitVec.eq_of_toNat_eq
      rw [BitVec.toNat_ofNat]
      omega
    rw [ofBytes, List.length_cons, bytesOf, hlow, show (b.toNat + 256 * ofBytes l) / 256 = ofBytes l by omega, ih]

theorem ofBytes_bytesOf (v n : Nat) : ofBytes (bytesOf v n) = v % 256 ^ n := by
  induction n generalizing v with
  | zero => rw [pow_zero, Nat.mod_one, bytesOf, ofBytes]
  | succ n ih =>
    have hmod : v % (256 * 256 ^ n) = v % 256 + 256 * (v / 256 % 256 ^ n) := Nat.mod_mul
    rw [bytesOf, ofBytes, ih, BitVec.toNat_ofNat, pow_succ' 256 n, hmod]

@[simp] theorem length_readBytes (s : State) (k n : Nat) : (readBytes s k n).length = n := by simp [readBytes]

@[simp] theorem length_viewBytes (s : State) (k n : Nat) : (viewBytes s k n).length = n := by simp [viewBytes]

/-- The bytes of a range are a list where each is the list's of its place. -/
theorem map_range_eq_of_getD {f : Nat → Byte} {l : List Byte} {n : Nat} (hn : l.length = n)
    (h : ∀ i, i < n → f i = l.getD i 0#8) : (List.range n).map f = l := by
  refine List.ext_getElem (by simp [hn]) fun i hi hl => ?_
  rw [List.getElem_map, List.getElem_range, h i (by omega), List.getD_eq_getElem _ _ hl]

/-! ## Objects that hold writes back (R241, R243) -/

/-- What of an object a write's wait depends on. -/
def holdOf (s : State) (o : Nat) : BitVec 512 × Nat × Nat := (s.obj o, (s.ox o).op, (s.ox o).pass)

/-- Every object that holds writes in `t` held them in `s`, at the same place. -/
structure HoldsNoMore (s t : State) : Prop where
  keys : ∀ o, o ∈ t.objx.map (·.1) → o ∈ s.objx.map (·.1)
  hold : ∀ o, holdOf t o = holdOf s o
  fab : t.fab = s.fab

theorem holdsNoMore_refl (s : State) : HoldsNoMore s s := ⟨fun _ => id, fun _ => rfl, rfl⟩

theorem HoldsNoMore.trans (h : HoldsNoMore s t) (h' : HoldsNoMore t u) : HoldsNoMore s u :=
  ⟨fun o ho => h.keys o (h'.keys o ho), fun o => (h'.hold o).trans (h.hold o), h'.fab.trans h.fab⟩

theorem holdsNoMore_of_only {l : List Part} (h : OnlyChanges l s t) (hl : ∀ p ∈ [Part.objs, .objx, .fab], p ∉ l) :
    HoldsNoMore s t := by
  have hobjs : t.objs = s.objs := h.same .objs (hl _ (by decide))
  have hobjx : t.objx = s.objx := h.same .objx (hl _ (by decide))
  refine ⟨fun o ho => by rwa [hobjx] at ho, fun o => ?_, h.same .fab (hl _ (by decide))⟩
  rw [holdOf, State.obj, State.ox, hobjs, hobjx, holdOf, State.obj, State.ox]

theorem keyOf_of_fab (h : t.fab = s.fab) (a : Nat) : keyOf t a = keyOf s a := by
  unfold keyOf placeOf ownChip
  rw [h]

theorem holdsWrites_of_hold {o : Nat} (h : holdOf t o = holdOf s o) : holdsWrites t o = holdsWrites s o := by
  obtain ⟨hobj, hop, hpass⟩ : t.obj o = s.obj o ∧ (t.ox o).op = (s.ox o).op ∧ (t.ox o).pass = (s.ox o).pass := by
    simpa [holdOf] using h
  rw [holdsWrites, hobj, hop, hpass, holdsWrites]

theorem overlaps_of_subrange {k n k' n' a b : Nat} (hk : k ≤ k') (hn : k' + n' ≤ k + n) (h : overlaps k' n' a b = true) :
    overlaps k n a b = true := by
  simp only [overlaps, Bool.and_eq_true, decide_eq_true_eq] at h ⊢
  omega

theorem holderOf_eq_none {k n : Nat} : holderOf s k n = none ↔
    ∀ o ∈ s.objx.map (·.1), holdsWrites s o = true → overlaps k n (objWorkKey s o) (objTiles s o * 16384) = false := by
  simp only [holderOf, List.find?_eq_none, Bool.and_eq_true, not_and, Bool.not_eq_true]

/-- A range that no object holds stays free, and so does each part of it. -/
theorem HoldsNoMore.holderOf_none (h : HoldsNoMore s t) {k n k' n' : Nat} (hnone : holderOf s k n = none) (hk : k ≤ k')
    (hn : k' + n' ≤ k + n) : holderOf t k' n' = none := by
  rw [holderOf_eq_none] at hnone ⊢
  intro o ho hw
  have hobj : t.obj o = s.obj o := congrArg Prod.fst (h.hold o)
  have hfree := hnone o (h.keys o ho) (by rwa [← holdsWrites_of_hold (h.hold o)])
  rw [objWorkKey, objTiles, hobj, keyOf_of_fab h.fab, ← Bool.not_eq_true]
  exact fun hover => absurd (overlaps_of_subrange hk hn hover) (by rw [objWorkKey, objTiles] at hfree; simp [hfree])

theorem holdsNoMore_setOx (s : State) {o : Nat} {x : ObjX} (ho : o ∈ s.objx.map (·.1)) (hop : x.op = (s.ox o).op)
    (hpass : x.pass = (s.ox o).pass) : HoldsNoMore s (s.setOx o x) := by
  refine ⟨fun p hp => ?_, fun p => ?_, rfl⟩
  · obtain ⟨e, he, rfl⟩ := List.mem_map.mp hp
    rcases Intake.mem_of_mem_set he with rfl | he
    · exact ho
    · exact List.mem_map_of_mem he
  · by_cases hp : p = o
    · subst hp
      rw [holdOf, setOx_ox, hop, hpass]
      rfl
    · rw [holdOf, setOx_ox_other _ _ _ _ hp]
      rfl

/-! ## One write -/

/-- Bytes stand at a key, and every other byte is as it was. -/
def Holds (t : State) (k : Nat) (bs : List Byte) (s : State) : Prop :=
  ∀ j, memByte t j = if k ≤ j ∧ j < k + bs.length then bs.getD (j - k) 0#8 else memByte s j

theorem holds_memPut (s : State) (k : Nat) (bs : List Byte) (h : t.mem = memPut s.mem k bs) : Holds t k bs s := by
  intro j
  rw [memByte, h]
  split
  · next hj =>
    obtain ⟨i, rfl⟩ := Nat.exists_eq_add_of_le hj.1
    have hi : i < bs.length := by omega
    rw [get_memPut_self k bs hi, Nat.add_sub_cancel_left, List.getD_eq_getElem _ _ hi]
  · next hj =>
    rw [get_memPut_other bs (by omega), memByte]

/-- An object of which something is known beyond the reset values has an entry in the table. -/
theorem mem_objx_of_op {o : Nat} (h : (s.ox o).op = 2) : o ∈ s.objx.map (·.1) := by
  rcases Intake.get_eq_or_mem s.objx ObjX.reset o with hget | hget
  · rw [State.ox, hget] at h
    exact absurd h (by decide)
  · exact List.mem_map_of_mem hget

theorem markMoves_holds (s : State) (k n : Nat) : HoldsNoMore s (markMoves s k n) := by
  have hstep : ∀ (s : State) (o : Nat), HoldsNoMore s
      (if LObj.STATE.get (s.obj o) == 2 && (s.ox o).op == 2 && overlaps k n (objWorkKey s o) (objTiles s o * 16384) then
        s.updOx o (fun x => { x with marks :=
          (List.range (objTiles s o)).filter (fun t => x.marks.contains t ||
            (overlaps k n (objWorkKey s o + t * 16384) 16384 && !hasTile x.todo t)) })
      else s) := by
    intro s o
    split
    · next h =>
      simp only [Bool.and_eq_true, beq_iff_eq] at h
      exact holdsNoMore_setOx s (mem_objx_of_op h.1.2) rfl rfl
    · exact holdsNoMore_refl s
  unfold markMoves
  generalize s.objx.map (·.1) = l
  induction l generalizing s with
  | nil => exact holdsNoMore_refl s
  | cons o l ih => exact (hstep s o).trans (ih _)

/-- A write where no object holds its range. -/
theorem writeMem_of_free {k : Nat} {bs : List Byte} (h : holderOf s k bs.length = none) :
    writeMem s k bs = markMoves (rawWrite s k bs) k bs.length := by
  rw [writeMem, h]

theorem markMoves_mem (s : State) (k n : Nat) : (markMoves s k n).mem = s.mem := (markMoves_only s k n).same .mem (by decide)

theorem markMoves_wordErr (s : State) (k n : Nat) : (markMoves s k n).wordErr = s.wordErr :=
  (markMoves_only s k n).same .wordErr (by decide)

/-- What of an ingot a write performed at its memory leaves: locks, deferral buffer, bank groups. -/
def deferOf (x : Ingot) : Tab (List Lock) × List Deferred × Tab BankGroup := (x.locks, x.defer, x.bgs)

/-- A write has been performed at its memory. -/
structure Wrote (s t : State) (k : Nat) (bs : List Byte) : Prop where
  bytes : Holds t k bs s
  holds : HoldsNoMore s t
  errs : ∀ e, e ∈ t.wordErr → e ∈ s.wordErr
  defers : KeepsIngots deferOf s t

theorem writeMem_wrote {k : Nat} {bs : List Byte} (h : holderOf s k bs.length = none) : Wrote s (writeMem s k bs) k bs := by
  rw [writeMem_of_free h]
  refine ⟨holds_memPut s k bs (markMoves_mem ..), ?_, fun e he => ?_, ?_⟩
  · exact HoldsNoMore.trans (t := rawWrite s k bs) ⟨fun _ => id, fun _ => rfl, rfl⟩ (markMoves_holds (rawWrite s k bs) k bs.length)
  · rw [markMoves_wordErr] at he
    exact List.mem_of_mem_filter he
  · exact KeepsIngots.trans (t := rawWrite s k bs) ⟨fun _ => rfl⟩ (keepsIngots_of_only (markMoves_only ..) (by decide))

theorem wrote_nil (s : State) (k : Nat) : Wrote s s k [] :=
  ⟨fun j => by rw [if_neg (by simp)], holdsNoMore_refl s, fun _ => id, keepsIngots_refl s⟩

/-- A state change that leaves memory, objects, locks and deferral buffers as they are, and adds no errors. -/
structure Quiet (s t : State) : Prop where
  mem : t.mem = s.mem
  holds : HoldsNoMore s t
  errs : ∀ e, e ∈ t.wordErr → e ∈ s.wordErr
  defers : KeepsIngots deferOf s t

theorem quiet_refl (s : State) : Quiet s s := ⟨rfl, holdsNoMore_refl s, fun _ => id, keepsIngots_refl s⟩

theorem Quiet.trans (h : Quiet s t) (h' : Quiet t u) : Quiet s u :=
  ⟨h'.mem.trans h.mem, h.holds.trans h'.holds, fun e he => h.errs e (h'.errs e he), h.defers.trans h'.defers⟩

theorem Quiet.wrote {k : Nat} {bs : List Byte} (h : Quiet s t) (h' : Wrote t u k bs) : Wrote s u k bs := by
  refine ⟨fun j => ?_, h.holds.trans h'.holds, fun e he => h.errs e (h'.errs e he), h.defers.trans h'.defers⟩
  rw [h'.bytes j, memByte, h.mem, memByte]

/-- Writes of two ranges, the second where the first ends, are one. -/
theorem Wrote.append {k : Nat} {bs cs : List Byte} (h : Wrote s t k bs) (h' : Wrote t u (k + bs.length) cs) :
    Wrote s u k (bs ++ cs) := by
  refine ⟨fun j => ?_, h.holds.trans h'.holds, fun e he => h.errs e (h'.errs e he), h.defers.trans h'.defers⟩
  rw [h'.bytes j, h.bytes j, List.length_append]
  by_cases hlow : j < k + bs.length
  · rw [if_neg (by omega)]
    by_cases hk : k ≤ j
    · rw [if_pos ⟨hk, hlow⟩, if_pos (by omega), List.getD_append _ _ _ _ (by omega)]
    · rw [if_neg (by omega), if_neg (by omega)]
  · by_cases hhigh : j < k + bs.length + cs.length
    · rw [if_pos (by omega), if_pos (by omega), List.getD_append_right _ _ _ _ (by omega), Nat.sub_add_eq]
    · rw [if_neg (by omega), if_neg (by omega), if_neg (by omega)]

/-! ## Counting and clearing errors -/

theorem countCorr_quiet (s : State) (k n : Nat) (pip : Bool) : Quiet s (countCorr s k n pip) := by
  have honly := countCorr_only s k n pip
  refine ⟨honly.same .mem (by decide), holdsNoMore_of_only honly (by decide), fun e he => ?_, ?_⟩
  · rwa [honly.same .wordErr (by decide)] at he
  · unfold countCorr
    refine keepsIngots_foldl (fun s w => ?_) _ s
    split
    · exact keepsIngots_updIngot s _ fun _ => rfl
    · exact keepsIngots_of_only (state_countDev_only ..) (by decide)
    · exact keepsIngots_of_only (state_countDev_only ..) (by decide)
    · exact keepsIngots_refl s

theorem clearCorr_quiet (s : State) (k n : Nat) : Quiet s (clearCorr s k n) :=
  ⟨rfl, ⟨fun _ => id, fun _ => rfl, rfl⟩, fun _ he => List.mem_of_mem_filter he, ⟨fun _ => rfl⟩⟩

/-- A write that no object holds and that meets no uncorrectable word in part is performed (R71, R72). -/
theorem memWrite_wrote {k : Nat} {bs : List Byte} (seat : Nat) (hfree : holderOf s k bs.length = none)
    (hgood : partialUncorr s k bs.length = false) : Wrote s (memWrite s k bs seat).1 k bs := by
  unfold memWrite
  dsimp only
  rw [if_neg (by simp [hgood])]
  split
  · exact writeMem_wrote hfree
  · have hquiet := (countCorr_quiet s (k / 8 * 8) (wordSpan k bs.length) false).trans
      (clearCorr_quiet _ (k / 8 * 8) (wordSpan k bs.length))
    exact hquiet.wrote (writeMem_wrote (hquiet.holds.holderOf_none hfree (Nat.le_refl k) (Nat.le_refl _)))

/-! ## Pieces of a write -/

theorem partialUncorr_of_errs {k n : Nat} (h : ∀ e, e ∈ t.wordErr → e ∈ s.wordErr) (hgood : partialUncorr s k n = false) :
    partialUncorr t k n = false := by
  rw [partialUncorr, List.any_eq_false] at hgood ⊢
  exact fun e he => hgood e (h e he)

/-- A piece that ends where its range does, or where a word does, meets in part only words that the range meets in part. -/
theorem partialUncorr_of_piece {k n k' n' : Nat} (hk : k = k' ∨ k ≤ k' ∧ 8 ∣ k') (hn : k' + n' = k + n ∨ k' + n' ≤ k + n ∧ 8 ∣ k' + n')
    (hgood : partialUncorr s k n = false) : partialUncorr s k' n' = false := by
  rw [partialUncorr, List.any_eq_false] at hgood ⊢
  intro e he hpart
  refine hgood e he ?_
  simp only [overlaps, Bool.and_eq_true, Bool.not_eq_true', decide_eq_true_eq, Bool.and_eq_false_iff, decide_eq_false_iff_not] at hpart ⊢
  obtain ⟨⟨hcls, hover⟩, hin⟩ := hpart
  exact ⟨⟨hcls, by omega⟩, by omega⟩

/-- The pieces of a write are those of its first block and those of the rest. -/
theorem pieces_succ (k : Nat) (bs : List Byte) (n : Nat) (h : bs ≠ []) :
    pieces k bs (n + 1) = (k, bs.take (64 - k % 64)) :: pieces (k + (64 - k % 64)) (bs.drop (64 - k % 64)) n := by
  rw [pieces, if_neg (by simpa using h)]

theorem pieces_nil (k n : Nat) : pieces k [] n = [] := by cases n <;> rfl

/-- A property of every block that a range touches. -/
theorem forall_pieces {P : Nat → Prop} {k : Nat} {bs : List Byte} {n : Nat} (h : ∀ p ∈ pieces k bs (n + 1), P p.1) (hne : bs ≠ []) :
    P k ∧ ∀ p ∈ pieces (k + (64 - k % 64)) (bs.drop (64 - k % 64)) n, P p.1 := by
  rw [pieces_succ k bs n hne] at h
  exact ⟨h _ List.mem_cons_self, fun p hp => h p (List.mem_cons_of_mem _ hp)⟩

/-- The pieces' keys lie in their range. -/
theorem pieces_range {k : Nat} {bs : List Byte} {n : Nat} : ∀ p ∈ pieces k bs n, k ≤ p.1 ∧ p.1 < k + bs.length := by
  induction n generalizing k bs with
  | zero => simp [pieces]
  | succ n ih =>
    intro p hp
    by_cases hne : bs = []
    · subst hne
      simp [pieces_nil] at hp
    · have hpos : 0 < bs.length := List.length_pos_iff.mpr hne
      rw [pieces_succ k bs n hne] at hp
      rcases List.mem_cons.mp hp with rfl | hp
      · exact ⟨Nat.le_refl k, by dsimp only; omega⟩
      · have hrest := ih p hp
        rw [List.length_drop] at hrest
        omega

/-- The deferral buffer of a key's ingot holds nothing that is ready for the key's page, and the page is not locked. -/
def unlocked (s : State) (k : Nat) : Bool :=
  !lockedAt s k && !(s.ingot (k / ingotSize)).defer.any (fun d => d.page == offPage (k % ingotSize) && d.ready)

theorem unlocked_of_defers {k : Nat} (h : KeepsIngots deferOf s t) : unlocked t k = unlocked s k := by
  have hsame := h.same (k / ingotSize)
  obtain ⟨hlocks, hdefer, -⟩ : (t.ingot (k / ingotSize)).locks = (s.ingot (k / ingotSize)).locks ∧
      (t.ingot (k / ingotSize)).defer = (s.ingot (k / ingotSize)).defer ∧ _ := by simpa [deferOf] using hsame
  rw [unlocked, lockedAt, pageLocked, pageLocks, hlocks, hdefer, unlocked, lockedAt, pageLocked, pageLocks]

theorem drainPage_quiet {i page : Nat} (h : (s.ingot i).defer.any (fun d => d.page == page && d.ready) = false) :
    Quiet s (drainPage s i page) := by
  have hds : (s.ingot i).defer.filter (fun d => d.page == page && d.ready) = [] := by
    rw [List.filter_eq_nil_iff]
    exact List.any_eq_false.mp h
  have hkeep : (s.ingot i).defer.filter (fun d => !(d.page == page && d.ready)) = (s.ingot i).defer := by
    rw [List.filter_eq_self]
    intro d hd
    rw [Bool.eq_false_iff.mpr (List.any_eq_false.mp h d hd), Bool.not_false]
  unfold drainPage
  dsimp only
  rw [hds, List.foldl_nil]
  refine ⟨rfl, ⟨fun _ => id, fun _ => rfl, rfl⟩, fun _ => id, ⟨fun j => ?_⟩⟩
  by_cases hj : j = i
  · subst hj
    rw [ingot_updIngot_self, deferOf, hkeep, deferOf]
  · rw [ingot_updIngot_other s _ hj]

/-- A piece of a write to a page that is not locked is performed. -/
theorem writePiece_wrote {k : Nat} {bs : List Byte} (seat : Nat) (hopen : unlocked s k = true ∨ isT2 k = false)
    (hfree : holderOf s k bs.length = none) (hgood : partialUncorr s k bs.length = false) :
    Wrote s (writePiece s k bs seat) k bs := by
  unfold writePiece
  split
  · next ht =>
    have hun := hopen.resolve_right (by simp [ht])
    simp only [unlocked, lockedAt, ht, Bool.true_and, Bool.and_eq_true, Bool.not_eq_true'] at hun
    dsimp only
    rw [if_neg (by simp [hun.1])]
    have hquiet := drainPage_quiet hun.2
    exact hquiet.wrote (memWrite_wrote seat (hquiet.holds.holderOf_none hfree (Nat.le_refl k) (Nat.le_refl _))
      (partialUncorr_of_errs hquiet.errs hgood))
  · exact memWrite_wrote seat hfree hgood

/-- A write's pieces, none of a locked page, are performed as one. -/
theorem foldl_writePiece_wrote {k : Nat} {bs : List Byte} (seat n : Nat) (hn : bs.length + k % 64 ≤ 64 * n)
    (hopen : ∀ p ∈ pieces k bs n, unlocked s p.1 = true ∨ isT2 p.1 = false)
    (hfree : holderOf s k bs.length = none) (hgood : partialUncorr s k bs.length = false) :
    Wrote s ((pieces k bs n).foldl (fun s e => writePiece s e.1 e.2 seat) s) k bs := by
  induction n generalizing s k bs with
  | zero =>
    obtain rfl : bs = [] := List.length_eq_zero_iff.mp (by omega)
    exact wrote_nil s k
  | succ n ih =>
    by_cases hne : bs = []
    · subst hne
      rw [pieces_nil]
      exact wrote_nil s k
    · obtain ⟨hfirst, hrest⟩ := forall_pieces (P := fun j => unlocked s j = true ∨ isT2 j = false) hopen hne
      rw [pieces_succ k bs n hne, List.foldl_cons]
      set m := 64 - k % 64 with hm
      have htake : (bs.take m).length = min m bs.length := List.length_take
      have hdrop : (bs.drop m).length = bs.length - m := List.length_drop
      have hwrote : Wrote s (writePiece s k (bs.take m) seat) k (bs.take m) := by
        refine writePiece_wrote seat hfirst ?_ ?_
        · exact (holdsNoMore_refl s).holderOf_none hfree (Nat.le_refl k) (by omega)
        · refine partialUncorr_of_piece (.inl rfl) ?_ hgood
          omega
      by_cases hshort : bs.length ≤ m
      · rw [List.drop_of_length_le hshort, pieces_nil]
        rwa [List.take_of_length_le hshort] at hwrote ⊢
      · have hlen : (bs.take m).length = m := by omega
        have hnext := ih (s := writePiece s k (bs.take m) seat) (k := k + m) (bs := bs.drop m) (by omega)
          (fun p hp => by rw [unlocked_of_defers hwrote.defers]; exact hrest p hp)
          (hwrote.holds.holderOf_none hfree (by omega) (by omega))
          (partialUncorr_of_errs hwrote.errs (partialUncorr_of_piece (.inr (by omega)) (.inl (by omega)) hgood))
        have happend := hwrote.append (cs := bs.drop m) (by rwa [hlen])
        rwa [List.take_append_drop] at happend

/-! ## Deferral -/

theorem ingotSize_eq : ingotSize = 51539607552 := rfl

/-- Two keys of T2 are in one page at their places in it. -/
theorem isT2_iff {k : Nat} : isT2 k = true ↔ k < hmBase := by simp [isT2]

theorem deferWrite_defer (s : State) (i page off : Nat) (bs : List Byte) (j : Nat) :
    ((deferWrite s i page off bs).ingot j).defer = if j = i then (s.ingot i).defer ++ [⟨page, off, bs, false⟩] else (s.ingot j).defer := by
  rw [deferWrite, State.countIngot]
  split
  · next h =>
    subst h
    rw [ingot_updIngot_self, ingot_updIngot_self]
  · next h => rw [ingot_updIngot_other _ _ h, ingot_updIngot_other _ _ h]

/-- Does a deferred write cover the byte at a place of a page? -/
def covers (page off : Nat) (d : Deferred) : Bool :=
  d.page == page && decide (d.off ≤ off) && decide (off < d.off + d.bytes.length)

/-- The byte of the deferred write last placed that covers its place; else the memory's. -/
def deferredByte (s : State) (k : Nat) (l : List Deferred) : Byte :=
  match (l.filter (covers (offPage (k % ingotSize)) (k % ingotSize % 16384))).getLast? with
  | some d => d.bytes.getD (k % ingotSize % 16384 - d.off) 0#8
  | none => memByte s k

theorem viewByte_eq (s : State) (k : Nat) :
    viewByte s k = if isT2 k then deferredByte s k (s.ingot (k / ingotSize)).defer else memByte s k := rfl

theorem deferredByte_append (s : State) (k : Nat) (l : List Deferred) (d : Deferred) : deferredByte s k (l ++ [d]) =
    if covers (offPage (k % ingotSize)) (k % ingotSize % 16384) d then d.bytes.getD (k % ingotSize % 16384 - d.off) 0#8
    else deferredByte s k l := by
  rw [deferredByte, List.filter_append]
  by_cases h : covers (offPage (k % ingotSize)) (k % ingotSize % 16384) d = true
  · rw [if_pos h, List.filter_cons_of_pos h, List.filter_nil, List.getLast?_concat]
  · rw [if_neg h, List.filter_cons_of_neg h, List.filter_nil, List.append_nil, deferredByte]

/-- A write of a part of a page that is put in the deferral buffer is what reads from outside then see (R67). -/
theorem viewByte_deferWrite {k : Nat} (j : Nat) {bs : List Byte} (ht : isT2 k = true) (hblock : k % 16384 + bs.length ≤ 16384) :
    viewByte (deferWrite s (k / ingotSize) (offPage (k % ingotSize)) (k % 16384) bs) j =
      if k ≤ j ∧ j < k + bs.length then bs.getD (j - k) 0#8 else viewByte s j := by
  rw [viewByte_eq, viewByte_eq, deferWrite_defer]
  have hmem : ∀ l, deferredByte (deferWrite s (k / ingotSize) (offPage (k % ingotSize)) (k % 16384) bs) j l = deferredByte s j l :=
    fun _ => rfl
  have hbyte : memByte (deferWrite s (k / ingotSize) (offPage (k % ingotSize)) (k % 16384) bs) j = memByte s j := rfl
  have hbase : hmBase = 16 * ingotSize := rfl
  have hplace (a : Nat) : a % ingotSize % 16384 = a % 16384 := Nat.mod_mod_of_dvd a ⟨3145728, rfl⟩
  rw [hmem, hbyte]
  rw [isT2_iff] at ht
  by_cases hj : isT2 j = true
  · rw [if_pos hj, if_pos hj]
    by_cases hingot : j / ingotSize = k / ingotSize
    · rw [if_pos hingot, deferredByte_append, hingot]
      have hcover : covers (offPage (j % ingotSize)) (j % ingotSize % 16384) ⟨offPage (k % ingotSize), k % 16384, bs, false⟩ =
          decide (k ≤ j ∧ j < k + bs.length) := by
        have hk := Nat.div_add_mod k ingotSize
        have hjk := Nat.div_add_mod j ingotSize
        rw [hingot] at hjk
        rw [Bool.eq_iff_iff]
        simp only [covers, offPage, Bool.and_eq_true, beq_iff_eq, decide_eq_true_eq]
        rw [← hplace k] at hblock ⊢
        omega
      rw [hcover]
      split
      · next h =>
        have h' := of_decide_eq_true h
        rw [if_pos h']
        have hk := Nat.div_add_mod k ingotSize
        have hjk := Nat.div_add_mod j ingotSize
        rw [hingot] at hjk
        rw [← hplace k] at hblock
        congr 1
        dsimp only
        rw [← hplace k]
        omega
      · next h => rw [if_neg (fun hin => h (decide_eq_true hin))]
    · rw [if_neg hingot, if_neg]
      simp only [ingotSize_eq] at hingot
      omega
  · rw [if_neg hj, if_neg hj, if_neg]
    rw [isT2_iff] at hj
    simp only [ingotSize_eq] at hbase
    omega

/-- What of an ingot a deferred write leaves. -/
def locksOf (x : Ingot) : Tab (List Lock) × Tab BankGroup := (x.locks, x.bgs)

theorem deferWrite_locks (s : State) (i page off : Nat) (bs : List Byte) : KeepsIngots locksOf s (deferWrite s i page off bs) :=
  KeepsIngots.trans (t := s.updIngot i (fun x => { x with defer := x.defer ++ [⟨page, off, bs, false⟩] }))
    (keepsIngots_updIngot s i fun _ => rfl)
    (keepsIngots_updIngot _ i (f := fun x => { x with ctr := ctrAdd x.ctr 0x068 1 }) fun _ => rfl)

theorem lockedAt_of_locks {k : Nat} (h : KeepsIngots locksOf s t) : lockedAt t k = lockedAt s k := by
  have hlocks : (t.ingot (k / ingotSize)).locks = (s.ingot (k / ingotSize)).locks := by
    have hsame := congrArg Prod.fst (h.same (k / ingotSize))
    exact hsame
  rw [lockedAt, pageLocked, pageLocks, hlocks, lockedAt, pageLocked, pageLocks]

/-- A write stands in the deferral buffer. -/
structure Deferred (s t : State) (k : Nat) (bs : List Byte) : Prop where
  view : ∀ j, viewByte t j = if k ≤ j ∧ j < k + bs.length then bs.getD (j - k) 0#8 else viewByte s j
  only : OnlyChanges [.ingots] s t
  locks : KeepsIngots locksOf s t
  ready : ∀ i d, d ∈ (t.ingot i).defer → d.ready = true → d ∈ (s.ingot i).defer

theorem writePiece_deferred {k : Nat} {bs : List Byte} (seat : Nat) (hlock : lockedAt s k = true)
    (hblock : k % 16384 + bs.length ≤ 16384) : Deferred s (writePiece s k bs seat) k bs := by
  have ht : isT2 k = true := (Bool.and_eq_true_iff.mp hlock).1
  have hpage : pageLocked (s.ingot (k / ingotSize)) (offPage (k % ingotSize)) = true := (Bool.and_eq_true_iff.mp hlock).2
  have heq : writePiece s k bs seat = deferWrite s (k / ingotSize) (offPage (k % ingotSize)) (k % 16384) bs := by
    unfold writePiece
    rw [if_pos ht]
    exact if_pos hpage
  rw [heq]
  refine ⟨fun j => viewByte_deferWrite j ht hblock, deferWrite_only .., deferWrite_locks .., fun i d hd hready => ?_⟩
  rw [deferWrite_defer] at hd
  split at hd
  · next hi =>
    subst hi
    rcases List.mem_append.mp hd with hd | hd
    · exact hd
    · rw [List.mem_singleton.mp hd] at hready
      exact absurd hready Bool.false_ne_true
  · exact hd

theorem deferred_nil (s : State) (k : Nat) : Deferred s s k [] :=
  ⟨fun j => by rw [if_neg (by simp)], only_refl _ s, keepsIngots_refl s, fun _ _ hd _ => hd⟩

theorem Deferred.append {k : Nat} {bs cs : List Byte} (h : Deferred s t k bs) (h' : Deferred t u (k + bs.length) cs) :
    Deferred s u k (bs ++ cs) := by
  refine ⟨fun j => ?_, only_step h'.only rfl h.only, h.locks.trans h'.locks, fun i d hd hr => h.ready i d (h'.ready i d hd hr) hr⟩
  rw [h'.view j, h.view j, List.length_append]
  by_cases hlow : j < k + bs.length
  · rw [if_neg (by omega)]
    by_cases hk : k ≤ j
    · rw [if_pos ⟨hk, hlow⟩, if_pos (by omega), List.getD_append _ _ _ _ (by omega)]
    · rw [if_neg (by omega), if_neg (by omega)]
  · by_cases hhigh : j < k + bs.length + cs.length
    · rw [if_pos (by omega), if_pos (by omega), List.getD_append_right _ _ _ _ (by omega), Nat.sub_add_eq]
    · rw [if_neg (by omega), if_neg (by omega), if_neg (by omega)]

/-- A write's pieces, all of locked pages, stand in the deferral buffer as one. -/
theorem foldl_writePiece_deferred {k : Nat} {bs : List Byte} (seat n : Nat) (hn : bs.length + k % 64 ≤ 64 * n)
    (hlock : ∀ p ∈ pieces k bs n, lockedAt s p.1 = true) :
    Deferred s ((pieces k bs n).foldl (fun s e => writePiece s e.1 e.2 seat) s) k bs := by
  induction n generalizing s k bs with
  | zero =>
    obtain rfl : bs = [] := List.length_eq_zero_iff.mp (by omega)
    exact deferred_nil s k
  | succ n ih =>
    by_cases hne : bs = []
    · subst hne
      rw [pieces_nil]
      exact deferred_nil s k
    · obtain ⟨hfirst, hrest⟩ := forall_pieces (P := fun j => lockedAt s j = true) hlock hne
      rw [pieces_succ k bs n hne, List.foldl_cons]
      set m := 64 - k % 64 with hm
      have htake : (bs.take m).length = min m bs.length := List.length_take
      have hdrop : (bs.drop m).length = bs.length - m := List.length_drop
      have hdefer := writePiece_deferred (s := s) (bs := bs.take m) seat hfirst (by omega)
      by_cases hshort : bs.length ≤ m
      · rw [List.drop_of_length_le hshort, pieces_nil]
        rwa [List.take_of_length_le hshort] at hdefer ⊢
      · have hlen : (bs.take m).length = m := by omega
        have hnext := ih (s := writePiece s k (bs.take m) seat) (k := k + m) (bs := bs.drop m) (by omega)
          (fun p hp => by rw [lockedAt_of_locks hdefer.locks]; exact hrest p hp)
        have happend := hdefer.append (cs := bs.drop m) (by rwa [hlen])
        rwa [List.take_append_drop] at happend

theorem Deferred.viewBytes {k : Nat} {bs : List Byte} (h : Deferred s t k bs) : viewBytes t k bs.length = bs := by
  refine map_range_eq_of_getD rfl fun i hi => ?_
  rw [h.view, if_pos (by omega), Nat.add_sub_cancel_left]

theorem Deferred.mem {k : Nat} {bs : List Byte} (h : Deferred s t k bs) : t.mem = s.mem := h.only.same .mem (by decide)

theorem Wrote.readBytes {k : Nat} {bs : List Byte} (h : Wrote s t k bs) : readBytes t k bs.length = bs := by
  refine map_range_eq_of_getD rfl fun i hi => ?_
  rw [h.bytes, if_pos (by omega), Nat.add_sub_cancel_left]

theorem Wrote.outside {k : Nat} {bs : List Byte} (h : Wrote s t k bs) (j : Nat) (hj : j < k ∨ k + bs.length ≤ j) :
    memByte t j = memByte s j := by
  rw [h.bytes, if_neg (by omega)]

end Sys2Proof.Stores
end

section
/-! Accesses that a memory serves as they arrive: the grants of a bank group and of a holding-memory port (R24, R59 to R62, R67, R68,
R254, R416). -/

namespace Sys2Proof.Serving

open Sys2Proof Sys2Proof.Machine Sys2Proof.Laws Sys2Proof.Lanes Sys2Proof.Banks Sys2Proof.Stores

variable {s t u : State}

/-! ## Grants among requesters (R24) -/

theorem pick_eq_none {present : Nat → Bool} {ptr n : Nat} (h : ∀ j, j < n → present j = false) : pick present ptr n = none := by
  rw [pick, List.find?_eq_none]
  intro j hj
  obtain ⟨i, hi, rfl⟩ := List.mem_map.mp hj
  have hn : 0 < n := Nat.pos_of_ne_zero fun h0 => by simp [h0] at hi
  simp [h _ (Nat.mod_lt _ hn)]

/-- The only requester wins, wherever the pointer stands. -/
theorem pick_eq_some {present : Nat → Bool} {ptr n q : Nat} (hq : q < n) (h : ∀ j, j < n → present j = decide (j = q)) :
    pick present ptr n = some q := by
  have hn : 0 < n := Nat.zero_lt_of_lt hq
  have hmem : q ∈ (List.range n).map (fun i => (ptr + i) % n) := by
    refine List.mem_map.mpr ⟨(q + n - ptr % n) % n, List.mem_range.mpr (Nat.mod_lt _ hn), ?_⟩
    have hp := Nat.mod_lt ptr hn
    rw [Nat.add_mod, Nat.mod_mod]
    rcases Nat.lt_or_ge q (ptr % n) with hlt | hge
    · rw [Nat.mod_eq_of_lt (show q + n - ptr % n < n by omega), show ptr % n + (q + n - ptr % n) = q + n by omega,
        Nat.add_mod_right, Nat.mod_eq_of_lt hq]
    · rw [show q + n - ptr % n = q - ptr % n + n by omega, Nat.add_mod_right, Nat.mod_eq_of_lt (show q - ptr % n < n by omega),
        show ptr % n + (q - ptr % n) = q by omega, Nat.mod_eq_of_lt hq]
  have hlt : ∀ j ∈ (List.range n).map (fun i => (ptr + i) % n), j < n := by
    intro j hj
    obtain ⟨i, -, rfl⟩ := List.mem_map.mp hj
    exact Nat.mod_lt _ hn
  cases hfind : ((List.range n).map (fun i => (ptr + i) % n)).find? present with
  | none =>
    have hno := List.find?_eq_none.mp hfind q hmem
    simp [h q hq] at hno
  | some j =>
    have hj := List.find?_some hfind
    rw [h j (hlt j (List.mem_of_find?_eq_some hfind))] at hj
    rw [pick, hfind, of_decide_eq_true hj]

theorem grant_eq_none {present : Nat → Bool} {ptr n : Nat} (h : ∀ j, j < n → present j = false) : grant present ptr n = none := by
  rw [grant, pick_eq_none h]
  rfl

theorem grant_eq_some {present : Nat → Bool} {ptr n q : Nat} (hq : q < n) (h : ∀ j, j < n → present j = decide (j = q)) :
    grant present ptr n = some (q, (q + 1) % n) := by
  rw [grant, pick_eq_some hq h]
  rfl

theorem find?_range_alone {f : Nat → Bool} {n q : Nat} (hq : q < n) (h : ∀ j, j < n → f j = decide (j = q)) :
    (List.range n).find? f = some q := by
  rw [List.find?_range_eq_some]
  refine ⟨by simp [h q hq], List.mem_range.mpr hq, fun j hj => ?_⟩
  rw [h j (Nat.lt_trans hj hq), decide_eq_false (Nat.ne_of_lt hj)]
  rfl

theorem find?_range_none {f : Nat → Bool} {n : Nat} (h : ∀ j, j < n → f j = false) : (List.range n).find? f = none := by
  rw [List.find?_eq_none]
  intro j hj
  simp [h j (List.mem_range.mp hj)]

/-! ## What waiting and granting leave -/

/-- An ingot but for its bank groups, admission stages, counters and tries. -/
def slotView (x : Ingot) : Ingot := { x with bgs := [], stages := [], ctr := [], tries := [] }

/-- Accesses have been presented and granted, and none has been performed. -/
structure Slotted (s t : State) : Prop where
  only : OnlyChanges [.ingots, .hm] s t
  view : KeepsIngots slotView s t

theorem slotted_refl (s : State) : Slotted s s := ⟨only_refl _ s, keepsIngots_refl s⟩

theorem Slotted.trans (h : Slotted s t) (h' : Slotted t u) : Slotted s u :=
  ⟨only_step h'.only rfl h.only, h.view.trans h'.view⟩

theorem slotted_updIngot (s : State) (i : Nat) {f : Ingot → Ingot} (h : ∀ x, slotView (f x) = slotView x) :
    Slotted s (s.updIngot i f) := ⟨only_step (state_updIngot_only ..) rfl (only_refl _ s), keepsIngots_updIngot s i h⟩

theorem slotted_countIngot (s : State) (i k n : Nat) : Slotted s (s.countIngot i k n) :=
  slotted_updIngot s i (f := fun x => { x with ctr := ctrAdd x.ctr k n }) fun _ => rfl

theorem slotted_updBankGroup (s : State) (i bg : Nat) (f : BankGroup → BankGroup) : Slotted s (updBankGroup s i bg f) := by
  rw [updBankGroup, setBankGroup_eq]
  exact slotted_updIngot s i fun _ => rfl

theorem slotted_setStage (s : State) (i q : Nat) (x : Stage (Nat × ExtEnt)) : Slotted s (setStage s i q x) :=
  slotted_updIngot s i (f := fun g => { g with stages := Tab.set g.stages Stage.reset q x }) fun _ => rfl

theorem slotted_holdExt (s : State) (i bg n : Nat) : Slotted s (holdExt s i bg n) :=
  (slotted_updBankGroup s i bg _).trans (slotted_countIngot _ i 0x060 1)

theorem slotted_setHmPort (s : State) (d : Nat) (x : HmPort) : Slotted s (s.setHmPort d x) :=
  ⟨only_step (state_setHmPort_only ..) rfl (only_refl _ s), ⟨fun _ => rfl⟩⟩

section
variable (h : Slotted s t)
include h

theorem Slotted.mem : t.mem = s.mem := h.only.same .mem (by decide)
theorem Slotted.wordErr : t.wordErr = s.wordErr := h.only.same .wordErr (by decide)
theorem Slotted.out : t.out = s.out := h.only.same .out (by decide)
theorem Slotted.fab : t.fab = s.fab := h.only.same .fab (by decide)
theorem Slotted.pips : t.pips = s.pips := h.only.same .pips (by decide)
theorem Slotted.bank : t.bank = s.bank := h.only.same .bank (by decide)

theorem Slotted.holds : HoldsNoMore s t := holdsNoMore_of_only h.only (by decide)

theorem Slotted.pcNow_eq : pcNow t = pcNow s := by
  rw [pcNow, h.only.same .clk (by decide), h.only.same .boot (by decide), pcNow]

theorem Slotted.gov (i : Nat) : (t.ingot i).gov = (s.ingot i).gov := by
  have hview := congrArg Ingot.gov (h.view.same i)
  exact hview

theorem Slotted.locks (i : Nat) : (t.ingot i).locks = (s.ingot i).locks := by
  have hview := congrArg Ingot.locks (h.view.same i)
  exact hview

theorem Slotted.defer (i : Nat) : (t.ingot i).defer = (s.ingot i).defer := by
  have hview := congrArg Ingot.defer (h.view.same i)
  exact hview

theorem Slotted.lanes (i : Nat) : (t.ingot i).lanes = (s.ingot i).lanes := by
  have hview := congrArg Ingot.lanes (h.view.same i)
  exact hview

theorem Slotted.govMode_eq : govMode t = govMode s := funext fun i => by rw [govMode, h.gov, govMode]

theorem Slotted.chanLost_eq : chanLost t = chanLost s := funext fun i => funext fun bg => by rw [chanLost, h.lanes, chanLost]

theorem Slotted.lockedAt_eq : lockedAt t = lockedAt s := funext fun k => by
  rw [lockedAt, pageLocked, pageLocks, h.locks, lockedAt, pageLocked, pageLocks]

theorem Slotted.viewByte_eq : viewByte t = viewByte s := funext fun k => by
  rw [viewByte, memByte, h.defer, h.mem, viewByte, memByte]

theorem Slotted.viewBytes_eq : viewBytes t = viewBytes s := funext fun k => funext fun n => by
  rw [viewBytes, h.viewByte_eq, viewBytes]

theorem Slotted.viewDeferred_eq : viewDeferred t = viewDeferred s := funext fun k => funext fun n => by
  rw [viewDeferred, viewDeferred]
  simp only [h.defer]

theorem Slotted.pageStatus_eq : pageStatus t = pageStatus s := funext fun k => funext fun n => by
  rw [pageStatus, h.govMode_eq, h.chanLost_eq, pageStatus]

theorem Slotted.extStatus_eq : extStatus t = extStatus s := funext fun k => funext fun n => funext fun w => by
  rw [extStatus, h.pageStatus_eq, h.lockedAt_eq, partialUncorr, uncorrSeen, badWords, h.wordErr, h.viewDeferred_eq, extStatus,
    partialUncorr, uncorrSeen, badWords]

theorem Slotted.deferRoom_eq : deferRoom t = deferRoom s := funext fun k => funext fun bs => by
  rw [deferRoom, deferRoom]
  simp only [h.defer, h.lockedAt_eq]

theorem Slotted.deferRoomOne_eq : deferRoomOne t = deferRoomOne s := funext fun k => by
  rw [deferRoomOne, h.lockedAt_eq, h.defer, deferRoomOne]

theorem Slotted.holderOf_eq : holderOf t = holderOf s := funext fun k => funext fun n => by
  have hobjs : t.objs = s.objs := h.only.same .objs (by decide)
  have hobjx : t.objx = s.objx := h.only.same .objx (by decide)
  have hworks : holdsWrites t = holdsWrites s := funext fun o => holdsWrites_of_hold (h.holds.hold o)
  have hkey : objWorkKey t = objWorkKey s := funext fun o => by
    rw [objWorkKey, State.obj, hobjs, keyOf_of_fab h.fab, objWorkKey, State.obj]
  have htiles : objTiles t = objTiles s := funext fun o => by rw [objTiles, State.obj, hobjs, objTiles, State.obj]
  rw [holderOf, hobjx, hworks, hkey, htiles, holderOf]

theorem Slotted.roomFor_eq : roomFor t = roomFor s := funext fun i => funext fun e => by
  rw [roomFor, h.deferRoomOne_eq, h.deferRoom_eq, roomFor]

theorem Slotted.heldByBuffer_eq : heldByBuffer t = heldByBuffer s := funext fun i => funext fun e => by
  rw [heldByBuffer, h.roomFor_eq, heldByBuffer]

theorem Slotted.heldByMove_eq : heldByMove t = heldByMove s := funext fun k => funext fun e => by
  rw [heldByMove, h.holderOf_eq, heldByMove]

theorem Slotted.slotless_eq : slotless t = slotless s := funext fun i => funext fun e => by
  rw [slotless, h.heldByMove_eq, h.chanLost_eq, h.lockedAt_eq, allLocked, h.lockedAt_eq, h.roomFor_eq, h.viewDeferred_eq, slotless,
    allLocked]

theorem Slotted.noReady (i bg : Nat) : (t.ingot i).defer.any (fun d => d.ready && pageBg d.page == bg) =
    (s.ingot i).defer.any (fun d => d.ready && pageBg d.page == bg) := by rw [h.defer]

theorem Slotted.pipPresents_eq : pipPresents t = pipPresents s := funext fun p => by
  rw [pipPresents, State.pip, h.pips, pipPresents, State.pip]

theorem Slotted.refreshDue_eq : refreshDue t = refreshDue s := funext fun i => funext fun bg => by
  rw [refreshDue, h.pcNow_eq, h.govMode_eq, refreshDue]

end

/-! ## One bank group (R59 to R62) -/

/-- The queues of a bank group. -/
def queueOf (s : State) (i bg q : Nat) : List ExtEnt := Tab.get (bankGroup s i bg).queues [] q

/-- No queue of the bank group holds an access, and no deferred write is ready for it. -/
structure Calm (s : State) (i bg : Nat) : Prop where
  empty : ∀ q, q < 5 → queueOf s i bg q = []
  noReady : (s.ingot i).defer.any (fun d => d.ready && pageBg d.page == bg) = false

theorem waitingAt_eq (s : State) (i bg : Nat) : waitingAt s i bg = (queueOf s i bg 0).length + (queueOf s i bg 1).length +
    (queueOf s i bg 2).length + (queueOf s i bg 3).length + (queueOf s i bg 4).length := by
  simp [waitingAt, List.range_succ, queueOf]

theorem empty_of_waitingAt {i bg : Nat} (h : waitingAt s i bg = 0) : ∀ q, q < 5 → queueOf s i bg q = [] := by
  rw [waitingAt_eq] at h
  intro q hq
  rw [← List.length_eq_zero_iff]
  interval_cases q <;> omega

theorem calm_of_bankIdle {i bg : Nat} (h : bankIdle s i bg = true) : bankBusy s i bg = false ∧ Calm s i bg := by
  simp only [bankIdle, Bool.and_eq_true, Bool.not_eq_true', beq_iff_eq] at h
  obtain ⟨⟨hbusy, hwait⟩, hready⟩ := h
  exact ⟨hbusy, empty_of_waitingAt hwait, hready⟩

/-- Where nothing waits the external class makes no grant. -/
theorem grantExt_of_calm {i bg : Nat} (h : Calm s i bg) : grantExt s i bg = s := by
  unfold grantExt
  dsimp only
  split
  · rfl
  · rw [if_neg (by rw [h.noReady]; exact Bool.false_ne_true), grant_eq_none]
    intro q hq
    have hempty := h.empty q hq
    rw [queueOf] at hempty
    rw [hempty]

theorem bankServe_of_calm {i bg : Nat} (h : Calm s i bg) : bankServe s i bg = s := by
  have hwait : waitingAt s i bg = 0 := by
    rw [waitingAt_eq, h.empty 0 (by decide), h.empty 1 (by decide), h.empty 2 (by decide), h.empty 3 (by decide), h.empty 4 (by decide)]
    rfl
  rw [bankServe, hwait, performSlotless, grantExt_of_calm h]

/-- One access alone waits for the bank group, in the queue that it names. -/
structure Alone (s : State) (i bg : Nat) (e : ExtEnt) : Prop where
  queue : e.req.queue < 5
  head : ∀ q, q < 5 → queueOf s i bg q = if q = e.req.queue then [e] else []
  noReady : (s.ingot i).defer.any (fun d => d.ready && pageBg d.page == bg) = false

theorem queueOf_pushExt (s : State) (i bg q : Nat) (e : ExtEnt) : queueOf (pushExt s i bg e) i bg q =
    if q = e.req.queue then queueOf s i bg q ++ [e] else queueOf s i bg q := by
  rw [queueOf, pushExt, bankGroup_updBankGroup_self]
  split
  · next h => rw [h, get_set_self, queueOf]
  · next h => rw [get_set_other h, queueOf]

theorem slotted_pushExt (s : State) (i bg : Nat) (e : ExtEnt) : Slotted s (pushExt s i bg e) := slotted_updBankGroup ..

theorem alone_pushExt {i bg : Nat} {e : ExtEnt} (h : Calm s i bg) (hq : e.req.queue < 5) : Alone (pushExt s i bg e) i bg e := by
  refine ⟨hq, fun q hq => ?_, ?_⟩
  · rw [queueOf_pushExt, h.empty q hq, List.nil_append]
  · rw [(slotted_pushExt s i bg e).noReady]
    exact h.noReady

theorem waitingAt_of_alone {i bg : Nat} {e : ExtEnt} (h : Alone s i bg e) : waitingAt s i bg = 1 := by
  have hq := h.queue
  rw [waitingAt_eq, h.head 0 (by decide), h.head 1 (by decide), h.head 2 (by decide), h.head 3 (by decide), h.head 4 (by decide)]
  interval_cases e.req.queue <;> rfl

/-- The bank group with the access taken from its queue. -/
def taken (s : State) (i bg : Nat) (e : ExtEnt) : State :=
  updBankGroup s i bg (fun x => { x with queues := Tab.set x.queues [] e.req.queue [] })

theorem slotted_taken (s : State) (i bg : Nat) (e : ExtEnt) : Slotted s (taken s i bg e) := slotted_updBankGroup ..

theorem calm_taken {i bg : Nat} {e : ExtEnt} (h : Alone s i bg e) : Calm (taken s i bg e) i bg := by
  refine ⟨fun q hq => ?_, ?_⟩
  · have hother := h.head q hq
    rw [queueOf, taken, bankGroup_updBankGroup_self]
    by_cases heq : q = e.req.queue
    · rw [heq, get_set_self]
    · rw [if_neg heq] at hother
      rw [get_set_other heq]
      exact hother
  · rw [taken, (slotted_updBankGroup ..).noReady]
    exact h.noReady

theorem headOf {i bg : Nat} {e : ExtEnt} (h : Alone s i bg e) {q : Nat} (hq : q < 5) :
    Tab.get (bankGroup s i bg).queues [] q = if q = e.req.queue then [e] else [] := h.head q hq

/-- An access that needs no slot is performed first (R67). -/
theorem performSlotless_of_alone {i bg : Nat} {e : ExtEnt} (h : Alone s i bg e) (hs : slotless s i e = true) :
    performSlotless i bg 1 s = performQueued (taken s i bg e) i e := by
  rw [performSlotless, find?_range_alone h.queue]
  · dsimp only
    rw [headOf h h.queue, if_pos rfl]
    rfl
  · intro q hq
    rw [headOf h hq]
    by_cases heq : q = e.req.queue
    · simp [heq, hs]
    · simp [heq]

theorem performSlotless_of_slot {i bg : Nat} {e : ExtEnt} (h : Alone s i bg e) (hs : slotless s i e = false) :
    performSlotless i bg 1 s = s := by
  rw [performSlotless, find?_range_none]
  intro q hq
  rw [headOf h hq]
  by_cases heq : q = e.req.queue
  · simp [heq, hs]
  · simp [heq]

/-- The state in which a granted access is performed: the group held for its pc, the pointer moved on, the access taken. -/
def grantedAt (s : State) (i bg : Nat) (e : ExtEnt) : State :=
  taken (updBankGroup (holdExt s i bg (entPc e)) i bg (fun y => { y with ptr := (e.req.queue + 1) % 5 })) i bg e

theorem slotted_grantedAt (s : State) (i bg : Nat) (e : ExtEnt) : Slotted s (grantedAt s i bg e) :=
  ((slotted_holdExt s i bg (entPc e)).trans (slotted_updBankGroup _ i bg fun y => { y with ptr := (e.req.queue + 1) % 5 })).trans
    (slotted_taken _ i bg e)

theorem grantExt_of_alone {i bg : Nat} {e : ExtEnt} (h : Alone s i bg e) (hbusy : bankBusy s i bg = false)
    (hbuf : heldByBuffer s i e = false) (hmove : heldByMove s (extKey i e.req) e = false) (hlimit : overLimit s i bg (entPc e) = false)
    (hleft : e.left ≤ 1) : grantExt s i bg = performQueued (grantedAt s i bg e) i e := by
  unfold grantExt
  dsimp only
  rw [if_neg (by rw [hbusy]; exact Bool.false_ne_true), if_neg (by rw [h.noReady]; exact Bool.false_ne_true), grant_eq_some h.queue]
  · dsimp only
    rw [headOf h h.queue, if_pos rfl]
    dsimp only
    rw [if_neg (by rw [hlimit]; exact Bool.false_ne_true), if_pos hleft]
    rfl
  · intro q hq
    rw [headOf h hq]
    by_cases heq : q = e.req.queue
    · simp [heq, hbuf, hmove]
    · simp [heq]

/-- An access that the deferral buffer or a MOVE holds stays where it waits. -/
theorem grantExt_of_held {i bg : Nat} {e : ExtEnt} (h : Alone s i bg e)
    (hheld : heldByBuffer s i e = true ∨ heldByMove s (extKey i e.req) e = true) : grantExt s i bg = s := by
  unfold grantExt
  dsimp only
  split
  · rfl
  · rw [if_neg (by rw [h.noReady]; exact Bool.false_ne_true), grant_eq_none]
    intro q hq
    rw [headOf h hq]
    by_cases heq : q = e.req.queue
    · rcases hheld with hheld | hheld <;> simp [heq, hheld]
    · simp [heq]

/-- The state in which the access of a queue is performed: its channel's tries are over (R58). -/
def triesOver (s : State) (i : Nat) (e : ExtEnt) : State :=
  let c := pageBg (offPage e.req.off) % 96
  if Tab.get (s.ingot i).tries 0 c = 0 then s else s.updIngot i (fun x => { x with tries := Tab.erase x.tries c })

theorem performQueued_eq (s : State) (i : Nat) (e : ExtEnt) :
    performQueued s i e = performEnt (triesOver s i e) (extKey i e.req) e := rfl

theorem slotted_triesOver (s : State) (i : Nat) (e : ExtEnt) : Slotted s (triesOver s i e) := by
  unfold triesOver
  dsimp only
  split
  · exact slotted_refl s
  · exact slotted_updIngot s i fun _ => rfl

/-- The bank groups and the ready deferred writes are as they were. -/
structure Still (s t : State) : Prop where
  bgs : KeepsIngots Ingot.bgs s t
  ready : ∀ i d, d ∈ (t.ingot i).defer → d.ready = true → d ∈ (s.ingot i).defer

theorem still_refl (s : State) : Still s s := ⟨keepsIngots_refl s, fun _ _ h _ => h⟩

theorem Still.calm (h : Still s t) {i bg : Nat} (hc : Calm s i bg) : Calm t i bg := by
  refine ⟨fun q hq => ?_, List.any_eq_false.mpr fun d hd => ?_⟩
  · have hbgs := h.bgs.same i
    have hempty := hc.empty q hq
    rw [queueOf, bankGroup] at hempty ⊢
    rwa [hbgs]
  · intro hr
    have hready : d.ready = true := (Bool.and_eq_true_iff.mp hr).1
    exact List.any_eq_false.mp hc.noReady d (h.ready i d hd hready) hr

theorem calm_triesOver {i bg j : Nat} {e : ExtEnt} (h : Calm s i bg) : Calm (triesOver s j e) i bg := by
  refine Still.calm ⟨?_, fun i d hd _ => ?_⟩ h
  · unfold triesOver
    dsimp only
    split
    · exact keepsIngots_refl s
    · exact keepsIngots_updIngot s j fun _ => rfl
  · rwa [(slotted_triesOver s j e).defer] at hd

/-- The bank group serves an access that reaches its empty queues. -/
structure Serves (s : State) (i bg : Nat) (e : ExtEnt) : Prop where
  busy : bankBusy s i bg = false
  calm : Calm s i bg
  queue : e.req.queue < 5
  move : heldByMove s (extKey i e.req) e = false
  buffer : heldByBuffer s i e = false
  left : e.left ≤ 1
  limit : overLimit s i bg (entPc e) = false

theorem bankBusy_of_bankGroup {i bg : Nat} (h : Slotted s t) (hfree : (bankGroup t i bg).freeAt = (bankGroup s i bg).freeAt) :
    bankBusy t i bg = bankBusy s i bg := by
  rw [bankBusy, hfree, h.pcNow_eq, h.refreshDue_eq, h.govMode_eq, bankBusy]

theorem overLimit_of_bankGroup {i bg n : Nat} (h : Slotted s t) (hext : (bankGroup t i bg).ext = (bankGroup s i bg).ext) :
    overLimit t i bg n = overLimit s i bg n := by
  rw [overLimit, nearExt, hext, h.pcNow_eq, h.pipPresents_eq, overLimit, nearExt]

theorem alone_of_queues {i bg : Nat} {e : ExtEnt} (h : Alone s i bg e) (hs : Slotted s t)
    (hqueues : (bankGroup t i bg).queues = (bankGroup s i bg).queues) : Alone t i bg e := by
  refine ⟨h.queue, fun q hq => ?_, ?_⟩
  · rw [queueOf, hqueues]
    exact h.head q hq
  · rw [hs.noReady]
    exact h.noReady

theorem bankGroup_countIngot (s : State) (i j bg k n : Nat) : bankGroup (s.countIngot j k n) i bg = bankGroup s i bg := by
  have hbgs := (keepsIngots_updIngot (read := Ingot.bgs) s j (f := fun x => { x with ctr := ctrAdd x.ctr k n }) fun _ => rfl).same i
  exact congrArg (fun b => Tab.get b BankGroup.reset bg) hbgs

theorem calm_grantedAt {i bg : Nat} {e : ExtEnt} (h : Alone s i bg e) : Calm (grantedAt s i bg e) i bg := by
  refine calm_taken (alone_of_queues h ((slotted_holdExt s i bg (entPc e)).trans (slotted_updBankGroup _ i bg _)) ?_)
  rw [bankGroup_updBankGroup_self]
  dsimp only
  rw [holdExt, bankGroup_countIngot, bankGroup_updBankGroup_self]

/-- An access that needs no slot is performed whether the bank group can make a grant or not (R67). -/
theorem bankServe_of_slotless {i bg : Nat} {e : ExtEnt} (hc : Calm s i bg) (hq : e.req.queue < 5) (hs : slotless s i e = true)
    (hstill : ∀ t, Slotted s t → Still t (performEnt t (extKey i e.req) e)) :
    ∃ t, Slotted s t ∧ Calm t i bg ∧ bankServe (pushExt s i bg e) i bg = performEnt t (extKey i e.req) e := by
  have hpush := slotted_pushExt s i bg e
  have halone := alone_pushExt (e := e) hc hq
  have ht := (hpush.trans (slotted_taken (pushExt s i bg e) i bg e)).trans (slotted_triesOver (taken (pushExt s i bg e) i bg e) i e)
  have hcalm := calm_triesOver (j := i) (e := e) (calm_taken halone)
  refine ⟨_, ht, hcalm, ?_⟩
  rw [bankServe, waitingAt_of_alone halone, performSlotless_of_alone halone (by rw [hpush.slotless_eq]; exact hs), performQueued_eq]
  exact grantExt_of_calm ((hstill _ ht).calm hcalm)

/-- What a bank group serves is performed, in a state that differs in grants alone. -/
theorem bankServe_of_serves {i bg : Nat} {e : ExtEnt} (h : Serves s i bg e)
    (hstill : ∀ t, Slotted s t → slotless s i e = true → Still t (performEnt t (extKey i e.req) e)) :
    ∃ t, Slotted s t ∧ Calm t i bg ∧ bankServe (pushExt s i bg e) i bg = performEnt t (extKey i e.req) e := by
  have hpush := slotted_pushExt s i bg e
  have halone := alone_pushExt (e := e) h.calm h.queue
  by_cases hs : slotless s i e = true
  · exact bankServe_of_slotless h.calm h.queue hs fun t ht => hstill t ht hs
  · have hgroup : bankGroup (pushExt s i bg e) i bg = _ := bankGroup_updBankGroup_self ..
    refine ⟨_, (hpush.trans (slotted_grantedAt (pushExt s i bg e) i bg e)).trans
      (slotted_triesOver (grantedAt (pushExt s i bg e) i bg e) i e), calm_triesOver (calm_grantedAt halone), ?_⟩
    rw [bankServe, waitingAt_of_alone halone, performSlotless_of_slot halone (by rw [hpush.slotless_eq]; simpa using hs),
      grantExt_of_alone halone (by rw [bankBusy_of_bankGroup hpush (by rw [hgroup])]; exact h.busy) (by rw [hpush.heldByBuffer_eq]; exact h.buffer)
        (by rw [hpush.heldByMove_eq]; exact h.move) (by rw [overLimit_of_bankGroup hpush (by rw [hgroup])]; exact h.limit) h.left,
      performQueued_eq]

/-- The only access that waits stays where the deferral buffer or a MOVE holds it. -/
theorem bankServe_of_alone_held {i bg : Nat} {e : ExtEnt} (h : Alone s i bg e) (hs : slotless s i e = false)
    (hheld : heldByBuffer s i e = true ∨ heldByMove s (extKey i e.req) e = true) : bankServe s i bg = s := by
  rw [bankServe, waitingAt_of_alone h, performSlotless_of_slot h hs, grantExt_of_held h hheld]

end Sys2Proof.Serving
end

section
/-! The ways that an access takes to its memory: admission stages, queues, holding-memory ports, and what its performance answers
(R24, R61, R66 to R73, R254, R330 to R332, R416). -/

namespace Sys2Proof.Serving

open Sys2Proof Sys2Proof.Machine Sys2Proof.Laws Sys2Proof.Lanes Sys2Proof.Banks Sys2Proof.Stores

variable {s t u : State}

/-! ## Admission stages (R416) -/

/-- The only access in a stage is admitted, whatever the weight of its seat. -/
theorem admitOneOf_single {α : Type} [DecidableEq α] {seatOf : α → Nat} {w : Nat → Nat} {st : Stage α} {x : α}
    (hw : st.waiting = [x]) (hseat : seatOf x < 64) : ∃ st' : Stage α, st'.waiting = [] ∧ admitOneOf seatOf w st = some (x, st') := by
  have hcls : ∀ hi : List α, hi = st.waiting.filter (fun x => decide (1 ≤ w (seatOf x))) →
      (if hi.isEmpty then st.waiting else hi) = [x] := by
    rintro hi rfl
    rw [hw]
    by_cases h : 1 ≤ w (seatOf x) <;> simp [h]
  have hpresent : ∀ n, n < 64 → [x].any (fun x => seatOf x == n) = decide (n = seatOf x) := by
    intro n _
    rw [List.any_cons, List.any_nil, Bool.or_false, Bool.eq_iff_iff, beq_iff_eq, decide_eq_true_eq]
    exact eq_comm
  have hrest : st.waiting.erase x = [] := by rw [hw, List.erase_cons_head]
  unfold admitOneOf
  dsimp only
  rw [hcls _ rfl, pick_eq_some hseat hpresent]
  dsimp only
  rw [List.find?_cons_of_pos (by simp), Option.map_some, hrest]
  refine ⟨_, ?_, rfl⟩
  split_ifs <;> rfl

theorem setStage_calm {i bg j q : Nat} (x : Stage (Nat × ExtEnt)) (h : Calm s i bg) : Calm (setStage s j q x) i bg := by
  refine Still.calm ⟨?_, fun i d hd _ => ?_⟩ h
  · exact keepsIngots_updIngot s j (f := fun g => { g with stages := Tab.set g.stages Stage.reset q x }) fun _ => rfl
  · rwa [(slotted_setStage s j q x).defer] at hd

theorem setStage_bankGroup (s : State) (i bg j q : Nat) (x : Stage (Nat × ExtEnt)) :
    bankGroup (setStage s j q x) i bg = bankGroup s i bg :=
  congrArg (fun b => Tab.get b BankGroup.reset bg) ((keepsIngots_updIngot (read := Ingot.bgs) s j
    (f := fun g => { g with stages := Tab.set g.stages Stage.reset q x }) fun _ => rfl).same i)

/-- What a bank group serves it serves still in a state with other admission stages. -/
theorem serves_setStage {i bg j q : Nat} {e : ExtEnt} (x : Stage (Nat × ExtEnt)) (h : Serves s i bg e) :
    Serves (setStage s j q x) i bg e := by
  have hs := slotted_setStage s j q x
  refine ⟨?_, setStage_calm x h.calm, h.queue, ?_, ?_, h.left, ?_⟩
  · rw [bankBusy_of_bankGroup hs (by rw [setStage_bankGroup])]
    exact h.busy
  · rw [hs.heldByMove_eq]
    exact h.move
  · rw [hs.heldByBuffer_eq]
    exact h.buffer
  · rw [overLimit_of_bankGroup hs (by rw [setStage_bankGroup])]
    exact h.limit

theorem stageOf_setStage (s : State) (i q : Nat) (x : Stage (Nat × ExtEnt)) : stageOf (setStage s i q x) i q = x := by
  rw [stageOf, setStage, ingot_updIngot_self]
  exact get_set_self ..

theorem stageIdle_iff {i q : Nat} : stageIdle s i q = true ↔ (stageOf s i q).waiting = [] ∧ (stageOf s i q).free ≤ pcNow s := by
  simp [stageIdle]

/-- An access that comes alone through an idle stage reaches its queue in this pc. -/
theorem enqueueExt_of_idleStage {i bg : Nat} {e : ExtEnt} (hmode : govMode s i ≠ 3) (hq : e.req.queue = 2 ∨ e.req.queue = 3)
    (hidle : stageIdle s i e.req.queue = true) (hseat : e.req.seat < 64) : ∃ x y : Stage (Nat × ExtEnt),
      enqueueExt s i bg e = bankServe (pushExt (setStage (setStage s i e.req.queue x) i e.req.queue y) i bg e) i bg := by
  obtain ⟨hwait, hfree⟩ := stageIdle_iff.mp hidle
  obtain ⟨st, -, hadmit⟩ := admitOneOf_single (seatOf := fun x : Nat × ExtEnt => x.2.req.seat) (w := ingotWeight
    (setStage s i e.req.queue { stageOf s i e.req.queue with waiting := (stageOf s i e.req.queue).waiting ++ [(bg, e)] }))
    (st := { stageOf s i e.req.queue with waiting := (stageOf s i e.req.queue).waiting ++ [(bg, e)] }) (x := (bg, e))
    (by rw [hwait, List.nil_append]) hseat
  refine ⟨{ stageOf s i e.req.queue with waiting := (stageOf s i e.req.queue).waiting ++ [(bg, e)] },
    { st with free := pcNow s + 1 }, ?_⟩
  unfold enqueueExt
  rw [if_neg hmode, if_pos (by simpa using hq)]
  dsimp only
  unfold admitStage
  rw [stageOf_setStage, if_neg (by exact Nat.not_lt.mpr hfree), hadmit]
  rfl

/-! ## A holding-memory port (R254) -/

/-- An access of the Avkin link or of a torus port that comes alone to a free port is performed at once. -/
theorem hmPresent_of_free {d k num : Nat} {e : ExtEnt} (hwait : (s.hmPort d).waits = []) (hfree : (s.hmPort d).freeAt ≤ hcNow s)
    (hnum : num < 7) (hmove : heldByMove s k e = false) :
    ∃ t, Slotted s t ∧ hmPresent s d ⟨3, num, k, e⟩ = performEnt t k e := by
  have hput : Slotted s (s.updHmPort d (fun x => { x with waits := x.waits ++ [⟨3, num, k, e⟩] })) := slotted_setHmPort s d _
  have hport : (s.updHmPort d (fun x => { x with waits := x.waits ++ [⟨3, num, k, e⟩] })).hmPort d =
      { s.hmPort d with waits := [⟨3, num, k, e⟩] } := by
    rw [State.updHmPort, setHmPort_hmPort, hwait, List.nil_append]
  have hheld : heldByMove (s.updHmPort d (fun x => { x with waits := x.waits ++ [⟨3, num, k, e⟩] })) k e = false := by
    rw [hput.heldByMove_eq]
    exact hmove
  have hsize : hmSizes.getD 3 1 = 7 := rfl
  unfold hmPresent hmGrant
  dsimp only
  rw [hport, if_neg (by exact Nat.not_lt.mpr hfree), find?_range_alone (q := 3) (by decide)]
  · dsimp only
    rw [grant_eq_some (q := num) (by rw [hsize]; exact hnum)]
    · dsimp only
      rw [List.find?_cons_of_pos (by simp [hheld])]
      exact ⟨_, hput.trans (slotted_setHmPort _ d _), rfl⟩
    · intro j _
      rw [Bool.eq_iff_iff]
      simpa [hheld] using eq_comm
  · intro c _
    by_cases hc : c = 3
    · subst hc
      simp [hheld, hmAllowed]
    · have hne : ¬(3 = c) := Ne.symm hc
      simp [hc, hne]

/-! ## To the memory of a key -/

/-- The part of an access that reaches into a second page has been presented to that page's bank group. -/
def parted (s : State) (k : Nat) (e : ExtEnt) : State :=
  let n := min e.req.len (16384 - k % 16384)
  if n < e.req.len && isT2 (k + n) then pushPart s e.req.queue (k + n) (e.req.len - n) e.req.write else s

theorem slotted_parted (s : State) (k : Nat) (e : ExtEnt) : Slotted s (parted s k e) := by
  unfold parted
  dsimp only
  split
  · exact slotted_pushExt ..
  · exact slotted_refl s

theorem parted_stageOf (s : State) (k i q : Nat) (e : ExtEnt) : stageOf (parted s k e) i q = stageOf s i q := by
  unfold parted
  dsimp only
  split
  · rw [stageOf, pushPart, pushExt]
    exact congrArg (fun x => Tab.get x Stage.reset q)
      ((keepsIngots_updBankGroup (read := Ingot.stages) s _ _ _ fun _ _ => rfl).same i)
  · rfl

/-- The second page of an access is another bank group's. -/
theorem parted_bankGroup (s : State) (k : Nat) (e : ExtEnt) :
    bankGroup (parted s k e) (k / ingotSize) (pageBg (offPage (k % ingotSize))) =
      bankGroup s (k / ingotSize) (pageBg (offPage (k % ingotSize))) := by
  unfold parted
  dsimp only
  split
  · next h =>
    have hlt : min e.req.len (16384 - k % 16384) < e.req.len := of_decide_eq_true (Bool.and_eq_true_iff.mp h).1
    have hn : min e.req.len (16384 - k % 16384) = 16384 - k % 16384 := by omega
    rw [hn, pushPart, pushExt]
    refine bankGroup_updBankGroup_other s _ ?_
    simp only [pageBg, offPage, ingotSize_eq]
    omega
  · rfl

theorem serves_of_bankGroup {i bg : Nat} {e : ExtEnt} (h : Serves s i bg e) (hs : Slotted s t)
    (hgroup : bankGroup t i bg = bankGroup s i bg) : Serves t i bg e := by
  refine ⟨?_, ⟨fun q hq => ?_, ?_⟩, h.queue, ?_, ?_, h.left, ?_⟩
  · rw [bankBusy_of_bankGroup hs (by rw [hgroup])]
    exact h.busy
  · rw [queueOf, hgroup]
    exact h.calm.empty q hq
  · rw [hs.noReady]
    exact h.calm.noReady
  · rw [hs.heldByMove_eq]
    exact h.move
  · rw [hs.heldByBuffer_eq]
    exact h.buffer
  · rw [overLimit_of_bankGroup hs (by rw [hgroup])]
    exact h.limit

theorem bankServes_iff {i bg : Nat} {e : ExtEnt} (hmode : govMode s i ≠ 3) (hq : e.req.queue < 5)
    (h : bankServes s i bg e = true) :
    Serves s i bg e ∧ (e.req.queue = 2 ∨ e.req.queue = 3 → stageIdle s i e.req.queue = true) := by
  simp only [bankServes, Bool.or_eq_true, Bool.and_eq_true, Bool.not_eq_true', decide_eq_true_eq, beq_iff_eq, hmode, false_or] at h
  obtain ⟨⟨⟨⟨⟨hidle, hmove⟩, hstage⟩, hbuf⟩, hleft⟩, hlimit⟩ := h
  obtain ⟨hbusy, hcalm⟩ := calm_of_bankIdle hidle
  refine ⟨⟨hbusy, hcalm, hq, hmove, hbuf, hleft, hlimit⟩, fun hq23 => ?_⟩
  rcases hstage with hstage | hstage
  · rcases hq23 with hq23 | hq23 <;> simp [hq23] at hstage
  · exact hstage

/-- An access that comes through an idle stage to a bank group that serves it is performed. -/
theorem enqueueExt_of_serves {i bg : Nat} {e : ExtEnt} (hmode : govMode s i ≠ 3) (hq : e.req.queue = 2 ∨ e.req.queue = 3)
    (hidle : stageIdle s i e.req.queue = true) (hseat : e.req.seat < 64) (h : Serves s i bg e)
    (hstill : ∀ t, Slotted s t → slotless s i e = true → Still t (performEnt t (extKey i e.req) e)) :
    ∃ t, Slotted s t ∧ Calm t i bg ∧ enqueueExt s i bg e = performEnt t (extKey i e.req) e := by
  obtain ⟨x, y, heq⟩ := enqueueExt_of_idleStage (bg := bg) hmode hq hidle hseat
  have hstages := (slotted_setStage s i e.req.queue x).trans (slotted_setStage _ i e.req.queue y)
  obtain ⟨t, ht, hcalm, hserve⟩ := bankServe_of_serves (serves_setStage y (serves_setStage x h)) fun t ht hs =>
    hstill t (hstages.trans ht) (by rwa [hstages.slotless_eq] at hs)
  exact ⟨t, hstages.trans ht, hcalm, heq.trans hserve⟩

/-- An access of the fabric or the Avkin link: what it brings to its memory. -/
structure Arrives (k num : Nat) (e : ExtEnt) : Prop where
  off : e.req.off = k % ingotSize
  queue : e.req.queue = 2 ∨ e.req.queue = 3
  seat : e.req.seat < 64
  num : num < 7
  left : e.left = cdiv e.req.len 64

theorem extKey_of_arrives {k num : Nat} {e : ExtEnt} (h : Arrives k num e) : extKey (k / ingotSize) e.req = k := by
  rw [extKey, h.off, Nat.mul_comm]
  exact Nat.div_add_mod k ingotSize

/-- The access as its first page's bank group is to grant it. -/
def firstPart (k : Nat) (e : ExtEnt) : ExtEnt :=
  if min e.req.len (16384 - k % 16384) < e.req.len then { e with left := cdiv (min e.req.len (16384 - k % 16384)) 64 } else e

theorem firstPart_eq (k : Nat) (e : ExtEnt) : ∃ n, firstPart k e = { e with left := n } ∧ n ≤ max e.left (cdiv e.req.len 64) := by
  unfold firstPart
  split
  · refine ⟨_, rfl, ?_⟩
    have hmono : cdiv (min e.req.len (16384 - k % 16384)) 64 ≤ cdiv e.req.len 64 := by
      unfold cdiv
      omega
    omega
  · exact ⟨e.left, rfl, Nat.le_max_left ..⟩

theorem serves_left {i bg n : Nat} {e : ExtEnt} (h : Serves s i bg e) (hn : n ≤ 1) : Serves s i bg { e with left := n } :=
  ⟨h.busy, h.calm, h.queue, h.move, h.buffer, hn, h.limit⟩

theorem serveAt_eq_of_T2 {k num : Nat} {e : ExtEnt} (hk : isT2 k = true) : serveAt s k num e =
    enqueueExt (parted s k e) (k / ingotSize) (pageBg (offPage (k % ingotSize))) (firstPart k e) := by
  unfold serveAt
  rw [if_pos hk]
  rfl

/-- The memory of a key performs an access that it serves at once, in a state that differs in grants alone; an ingot that has
tripped ends it (R76). -/
theorem serveAt_of_servedNow {k num : Nat} {e : ExtEnt} (harr : Arrives k num e) (hnow : servedNow s k num e = true)
    (hstill : ∀ t, Slotted s t → isT2 k = true → slotless s (k / ingotSize) e = true → Still t (performEnt t k e)) :
    ∃ t, Slotted s t ∧ (serveAt s k num e = performEnt t k e ∨
      (isT2 k = true ∧ govMode s (k / ingotSize) = 3 ∧ serveAt s k num e = failEnt t (k / ingotSize) e St.thermal)) := by
  unfold servedNow at hnow
  by_cases hk : isT2 k = true
  · obtain ⟨n, hpart, hn⟩ := firstPart_eq k e
    have hparted := slotted_parted s k e
    rw [serveAt_eq_of_T2 hk, hpart]
    by_cases hmode : govMode s (k / ingotSize) = 3
    · refine ⟨parted s k e, hparted, .inr ⟨hk, hmode, ?_⟩⟩
      unfold enqueueExt
      rw [if_pos (by rw [hparted.govMode_eq]; exact hmode)]
      rfl
    · rw [if_pos hk] at hnow
      obtain ⟨hserves, hstage⟩ := bankServes_iff hmode (by rcases harr.queue with h | h <;> omega) hnow
      have hserves' := serves_left (n := n) (serves_of_bankGroup hserves hparted (parted_bankGroup s k e)) (by
        have hone := hserves.left
        rw [harr.left] at hn hone
        omega)
      obtain ⟨t, ht, -, heq⟩ := enqueueExt_of_serves (e := { e with left := n }) (by rw [hparted.govMode_eq]; exact hmode) harr.queue
        (by rw [stageIdle, parted_stageOf, hparted.pcNow_eq]; exact hstage harr.queue) harr.seat hserves' fun t ht hs => by
          have hkey : extKey (k / ingotSize) ({ e with left := n } : ExtEnt).req = k := extKey_of_arrives (e := e) harr
          rw [hkey]
          exact hstill t (hparted.trans ht) hk (by rw [hparted.slotless_eq] at hs; exact hs)
      refine ⟨t, hparted.trans ht, .inl (heq.trans ?_)⟩
      have hkey : extKey (k / ingotSize) ({ e with left := n } : ExtEnt).req = k := extKey_of_arrives (e := e) harr
      rw [hkey]
      rfl
  · rw [if_neg hk] at hnow
    by_cases hk1 : isT1 k = true
    · rw [if_pos hk1] at hnow
      simp only [Bool.and_eq_true, List.isEmpty_iff, decide_eq_true_eq, Bool.not_eq_true'] at hnow
      obtain ⟨⟨⟨hwait, hfree⟩, hnum⟩, hmove⟩ := hnow
      obtain ⟨t, ht, heq⟩ := hmPresent_of_free hwait hfree hnum hmove
      refine ⟨t, ht, .inl ?_⟩
      rw [serveAt, if_neg hk, if_pos hk1, heq]
    · exact ⟨s, slotted_refl s, .inl (by rw [serveAt, if_neg hk, if_neg hk1])⟩

/-! ## Performances that leave the bank groups as they are -/

/-- A write that the deferral buffer takes is not ready yet. -/
theorem still_of_deferred {k : Nat} {bs : List Byte} (h : Stores.Deferred s t k bs) : Still s t := by
  refine ⟨⟨fun i => ?_⟩, h.ready⟩
  have hbgs := congrArg Prod.snd (h.locks.same i)
  exact hbgs

end Sys2Proof.Serving
end

section
/-! The pips' rows that start a descriptor, stream its rows, and read and write their memory (R59, R67, R75, R80, R85, R88, R90 to R92). -/

namespace Sys2Proof.PipCore

open Sys2Proof Sys2Proof.Machine Sys2Proof.Laws Sys2Proof.Lanes Sys2Proof.Banks Sys2Proof.Intake Sys2Proof.Stores Sys2Proof.Serving
open Sys2Proof.MailboxService

variable {s t : State}

/-! ## The start of a descriptor -/

/-- A pip at its descriptor's first instruction. -/
def startedPip (s : State) (p : Nat) (d : PDesc) (rest : List PDesc) : Pip :=
  let slot := Tab.get s.pipSlots ⟨0, 0, 0#256, false, 0, []⟩ (LDesc.PROG.get d.desc)
  { Pip.reset with
    queue := rest, running := true, cur := d, pc := slot.base, base := slot.base, len := slot.len,
    dmem := loadDmem s p d, freeBase := s.free, budget := 65536,
    last := some (LDesc.QID.get d.desc, LDesc.ISSUER.get d.desc, (qEnt (s.ingot (p / 384)) d.qent).version),
    leaveTo := (s.pip p).leaveTo }

/-- The state before the intake takes in what the room in the pip's queue lets in. -/
def begun (s : State) (p : Nat) (d : PDesc) (rest : List PDesc) : State :=
  let load := cdiv (32 + 16 * dNq d.desc) 64 + (if inputKept s p d then 0 else cdiv (4 * dInput d.desc) 64)
  let t := { s.setPip p (startedPip s p d rest) with free := s.free + 8192 }
  (t.updIngot (p / 384) (fun g => setQEnt g d.qent { qEnt g d.qent with waiting := (qEnt g d.qent).waiting - 1 })).countIngot
    (p / 384) 0x0C0 load

theorem startDesc_eq (s : State) (p : Nat) (d : PDesc) (rest : List PDesc) : startDesc s p d rest = drained (begun s p d rest) (p / 384) :=
  rfl

theorem begun_pips (s : State) (p : Nat) (d : PDesc) (rest : List PDesc) :
    (begun s p d rest).pips = (s.setPip p (startedPip s p d rest)).pips := rfl

theorem begun_intake (s : State) (p : Nat) (d : PDesc) (rest : List PDesc) :
    ((begun s p d rest).ingot (p / 384)).intake = (s.ingot (p / 384)).intake := by
  rw [begun, State.countIngot, ingot_updIngot_self, ingot_updIngot_self]
  rfl

theorem eq_of_pipOf {x y : Pip} (h : pipOf x = pipOf y) : x = { y with queue := x.queue } := by
  have hx := congrArg (fun z : Pip => { z with queue := x.queue }) h
  exact hx

theorem descriptorStart_runs {p : Nat} {d : PDesc} {rest : List PDesc} (hrun : running .arith s = true) (hp : p < 6144)
    (hidle : (s.pip p).running = false) (hqueue : (s.pip p).queue = d :: rest) :
    Runs (.descriptorStart p) s (fun t => (∃ l, t.pip p = { startedPip s p d rest with queue := l }) ∧
      ((s.ingot (p / 384)).intake = [] → (t.pip p).queue = rest) ∧ ∀ q, q ≠ p → pipOf (t.pip q) = pipOf (s.pip q)) := by
  have hrow : exec (.descriptorStart p) s = execDescriptorStart p s := rfl
  have hkeep := drained_intaken (begun s p d rest) (p / 384)
  have hself : (begun s p d rest).pip p = startedPip s p d rest := by
    rw [State.pip, begun_pips]
    exact setPip_pip ..
  refine ⟨drained (begun s p d rest) (p / 384), (hrow.trans (act_of_running _ hrun)).trans (congrArg _ ?_),
    ⟨((drained (begun s p d rest) (p / 384)).pip p).queue, ?_⟩, fun hempty => ?_, fun q hq => ?_⟩
  · rw [hqueue]
    dsimp only
    rw [hidle, if_pos (by simp [pipOk, hp]), startDesc_eq]
  · have hpip := hkeep.pips p
    rw [hself] at hpip
    exact eq_of_pipOf hpip
  · rw [drained_of_empty (by rw [begun_intake, hempty]), hself]
    rfl
  · rw [hkeep.pips q, State.pip, begun_pips]
    exact congrArg pipOf (setPip_pip_other _ _ _ _ hq)

/-! ## The row stream -/

/-- What counting and queueing the write-backs of a beat leaves. -/
theorem noteCorr_freeAt (s : State) (k n i bg : Nat) (pip : Bool) :
    (bankGroup (noteCorr s k n pip) i bg).freeAt = (bankGroup s i bg).freeAt := by
  have hcount : KeepsIngots Ingot.bgs s (countCorr s k n pip) := by
    unfold countCorr
    refine keepsIngots_foldl (fun s w => ?_) _ s
    split
    · exact keepsIngots_updIngot s _ fun _ => rfl
    · exact keepsIngots_of_only (state_countDev_only ..) (by decide)
    · exact keepsIngots_of_only (state_countDev_only ..) (by decide)
    · exact keepsIngots_refl s
  have hbgs : bankGroup (countCorr s k n pip) i bg = bankGroup s i bg := by
    rw [bankGroup, hcount.same, bankGroup]
  rw [noteCorr, rewrite, ← hbgs]
  generalize corrWords (countCorr s k n pip) k n = l
  generalize countCorr s k n pip = t
  induction l generalizing t with
  | nil => rfl
  | cons w l ih =>
    rw [List.foldl_cons, ih]
    split
    · unfold queueFix
      dsimp only
      by_cases h : i = w / ingotSize ∧ bg = w % ingotSize / 16384 % 384
      · obtain ⟨rfl, rfl⟩ := h
        rw [bankGroup_updBankGroup_self]
      · rw [bankGroup_updBankGroup_other _ _ (by omega)]
    · rfl
    · rfl

/-- A beat granted: the group held for its pc, the stream moved on. -/
def beatGranted (s : State) (p : Nat) : State :=
  let i := p / 384
  ((updBankGroup s i (p % 384) (fun b => { b with freeAt := pcNow s + 1, duty := (pcNow s / 1024, dutyUsed s b + 1) })).countIngot
    i 0x040 1).setPip p { s.pip p with streams := advance (s.pip p).streams }

theorem beatGranted_pip (s : State) (p : Nat) : (beatGranted s p).pip p = { s.pip p with streams := advance (s.pip p).streams } :=
  setPip_pip ..

theorem beatGranted_freeAt (s : State) (p : Nat) : (bankGroup (beatGranted s p) (p / 384) (p % 384)).freeAt = pcNow s + 1 := by
  have hcount : KeepsIngots Ingot.bgs (updBankGroup s (p / 384) (p % 384)
      (fun b => { b with freeAt := pcNow s + 1, duty := (pcNow s / 1024, dutyUsed s b + 1) })) (beatGranted s p) :=
    KeepsIngots.trans (keepsIngots_updIngot _ (p / 384) (f := fun x => { x with ctr := ctrAdd x.ctr 0x040 1 }) fun _ => rfl)
      ⟨fun _ => rfl⟩
  rw [bankGroup, hcount.same, ← bankGroup, bankGroup_updBankGroup_self]

/-- The place of the beat that a stream requests next. -/
def beatKey (s : State) (p : Nat) (st : Stream) : Nat :=
  pageKey (p / 384) (LDesc.PAGE.get (s.pip p).cur.desc) + st.off + 32 * st.stride * st.next

theorem takeBeat_of_good {p : Nat} {st : Stream} (h : uncorrAt s (beatKey s p st) 32 = false) :
    takeBeat s p st = (noteCorr (beatGranted s p) (beatKey s p st) 32 true).setPip p
      { (noteCorr (beatGranted s p) (beatKey s p st) 32 true).pip p with
        fifo := ((noteCorr (beatGranted s p) (beatKey s p st) 32 true).pip p).fifo ++
          [readBytes (noteCorr (beatGranted s p) (beatKey s p st) 32 true) (beatKey s p st) 32] } := by
  unfold takeBeat
  exact if_neg fun hbad => Bool.false_ne_true (h.symm.trans hbad)

theorem rowStreamBeat_runs {p : Nat} (hrun : running .arith s = true) (hp : p < 6144) (hpres : pipPresents s p = true) :
    exec (.rowStreamBeat p) s = .next (streamBeat p s) := by
  have hrow : exec (.rowStreamBeat p) s = execRowStreamBeat p s := rfl
  refine (hrow.trans (act_of_running _ hrun)).trans (congrArg _ ?_)
  exact if_pos (by simp [pipOk, hp, hpres])

theorem streamBeat_of_busy {p : Nat} (h : bankBusy s (p / 384) (p % 384) = true) : streamBeat p s = s := by
  unfold streamBeat
  dsimp only
  split
  · rfl
  · exact if_pos h

/-- At an idle bank group the governor alone decides on the request. -/
theorem streamBeat_of_idle {p : Nat} {st : Stream} (hnext : nextStream (s.pip p) = some st)
    (h : bankIdle s (p / 384) (p % 384) = true) :
    streamBeat p s = if throttled s (p / 384) (bankGroup s (p / 384) (p % 384)) then s else takeBeat s p st := by
  obtain ⟨hbusy, hcalm⟩ := calm_of_bankIdle h
  unfold streamBeat pipIngot
  dsimp only
  rw [hnext]
  dsimp only
  rw [if_neg (by rw [hbusy]; exact Bool.false_ne_true), grantExt_of_calm hcalm, if_neg (not_not_intro rfl)]

/-- A beat that the decoder passes reaches the FIFO. -/
theorem takeBeat_spec {p : Nat} {st : Stream} (h : uncorrAt s (beatKey s p st) 32 = false) :
    ((takeBeat s p st).pip p).fifo = (s.pip p).fifo ++ [readBytes s (beatKey s p st) 32] ∧
    ((takeBeat s p st).pip p).streams = advance (s.pip p).streams ∧
    (bankGroup (takeBeat s p st) (p / 384) (p % 384)).freeAt = pcNow s + 1 ∧ (takeBeat s p st).mem = s.mem := by
  set u := noteCorr (beatGranted s p) (beatKey s p st) 32 true with hu
  have honly : OnlyChanges [.wordErr, .bank, .ingots, .hm] (beatGranted s p) u := noteCorr_only ..
  have hmem : u.mem = s.mem := honly.same .mem (by decide)
  have hpip : u.pip p = { s.pip p with streams := advance (s.pip p).streams } := by
    rw [State.pip, honly.same .pips (by decide)]
    exact beatGranted_pip s p
  have hread : readBytes u (beatKey s p st) 32 = readBytes s (beatKey s p st) 32 := by
    simp only [readBytes, memByte, hmem]
  rw [takeBeat_of_good h, ← hu, hpip, hread]
  refine ⟨?_, ?_, ?_, hmem⟩
  · rw [setPip_pip]
  · rw [setPip_pip]
  · exact (noteCorr_freeAt ..).trans (beatGranted_freeAt s p)

/-- Settles O30: the start leaves the pip but for what its queue then takes in; an idle bank group grants the beat at once. -/
theorem descriptorsStartAndStream : Obligations.DescriptorsStartAndStream := by
  intro s p d rest st hrun hp i
  refine ⟨fun hidle hqueue => ?_, ?_⟩
  · obtain ⟨t, hexec, ⟨l, hpip⟩, hrest, hothers⟩ := descriptorStart_runs hrun hp hidle hqueue
    refine ⟨t, hexec, ?_⟩
    dsimp only
    rw [hpip] at hrest ⊢
    refine ⟨rfl, rfl, rfl, rfl, rfl, rfl, rfl, rfl, rfl, rfl, hrest, fun q hq => ?_⟩
    rw [eq_of_pipOf (hothers q hq)]
    exact ⟨rfl, rfl, rfl⟩
  intro hpres hnext used k
  refine ⟨fun hbusy => ?_, fun hfree => ⟨fun hduty => ?_, fun hduty hgood => ?_⟩⟩
  · exact ⟨_, rowStreamBeat_runs hrun hp hpres, streamBeat_of_busy hbusy⟩
  · refine ⟨_, rowStreamBeat_runs hrun hp hpres, ?_⟩
    dsimp only
    rw [streamBeat_of_idle hnext hfree, if_pos (by simpa [throttled] using hduty)]
  · refine ⟨_, rowStreamBeat_runs hrun hp hpres, ?_⟩
    rw [streamBeat_of_idle hnext hfree, if_neg (by simpa [throttled] using hduty)]
    exact takeBeat_spec hgood

/-! ## Memory and streams (R88, R90) -/

/-- A memory instruction at an address that its row allows goes on with its effect; at any other it faults. -/
theorem pipMem_steps {i : Instr} {op p : Nat} {ok : Pip → W32 → Bool} {f : Pip → W32 → Pip} (hrow : exec i s = pipMem op p ok f s)
    (h : pipReady op s p = true) (hok : ∀ (x : Pip) w n, ok { x with budget := n } w = ok x w)
    (hf : ∀ (x : Pip) w n, f { x with budget := n } w = { f x w with budget := n })
    (hbudget : (f (s.pip p) (pipWord s p)).budget = (s.pip p).budget) :
    if ok (s.pip p) (pipWord s p) then PipSteps i s p (pipGoes (f (s.pip p) (pipWord s p)))
    else Runs i s (fun t => Faulted s t p St.pipmem) := by
  split
  · next hallowed =>
    refine pipSteps_of_ready hrow h rfl ?_
    rw [pipIssue_pip, hok, if_pos hallowed, hf, pipGoes, hbudget]
  · next hrefused =>
    refine faulted_of_ready hrow h rfl (by decide) ?_
    rw [pipIssue_pip, hok, if_neg hrefused]

theorem dmStoreWords_singleton (x : Pip) (a : Nat) (v : W32) : dmStoreWords x a [v] = dmStore x a (bytesOf v.toNat 4) := by
  rw [dmStoreWords, List.flatMap_singleton]

theorem dmStoreWords_budget (x : Pip) (n a : Nat) (ws : List W32) :
    dmStoreWords { x with budget := n } a ws = { dmStoreWords x a ws with budget := n } := rfl

theorem budget_dmStoreWords (x : Pip) (a : Nat) (ws : List W32) : (dmStoreWords x a ws).budget = x.budget := rfl

/-- The stream that an RSTR adds. -/
def rstrStream (x : Pip) (w : W32) : Stream := ⟨(gReg x (pipA w)).toNat, (gReg x (pipB w)).toNat, pipX w % 1024, 0⟩

theorem pipRstr_steps {p : Nat} (h : pipReady 0x20 s p = true) (hroom : (s.pip p).streams.length < 2) :
    if streamOk (s.pip p) (pipWord s p) then
      PipSteps (.pipRstr p) s p (pipGoes { s.pip p with streams := (s.pip p).streams ++ [rstrStream (s.pip p) (pipWord s p)] })
    else Runs (.pipRstr p) s (fun t => Faulted s t p St.pipmem) := by
  have hrow : exec (.pipRstr p) s = execPipRstr p s := rfl
  have hstall : rstrWaits s p = false := by simpa [rstrWaits] using hroom
  have hok : streamOk { s.pip p with budget := (s.pip p).budget - 1 } (pipWord s p) = streamOk (s.pip p) (pipWord s p) := rfl
  split
  · next hallowed =>
    refine pipSteps_of_ready hrow h hstall ?_
    dsimp only
    rw [pipIssue_pip, hok, if_pos hallowed]
    rfl
  · next hrefused =>
    refine faulted_of_ready hrow h hstall (by decide) ?_
    dsimp only
    rw [pipIssue_pip, hok, if_neg hrefused]

/-! ## STB (R67, R89, R92) -/

/-- The state in which an STB's access enters queue 4. -/
def stbIssued (s : State) (p : Nat) : State := (pipIssue s p).setPip p (pipGoes (s.pip p))

theorem stbKey_eq (x : Pip) (p : Nat) (w : W32) :
    stbKey x p w = p / 384 * ingotSize + (LDesc.PAGE.get x.cur.desc * 16384 + (gReg x (pipA w)).toNat) := by
  rw [stbKey, pageKey, pipIngot, Nat.add_assoc]

/-- The access of an STB within its page is at the STB's key. -/
theorem extKey_stbEnt {x : Pip} {p : Nat} {w : W32} (hpage : LDesc.PAGE.get x.cur.desc < ingotPages)
    (hoff : (gReg x (pipA w)).toNat + 32 ≤ 16384) : extKey (p / 384) (stbEnt x p w).req = stbKey x p w := by
  have hlt : LDesc.PAGE.get x.cur.desc * 16384 + (gReg x (pipA w)).toNat < ingotSize := by
    simp only [ingotPages, ingotSize_eq] at *
    omega
  have hmod : stbKey x p w % ingotSize = LDesc.PAGE.get x.cur.desc * 16384 + (gReg x (pipA w)).toNat := by
    rw [stbKey_eq, Nat.mul_comm, Nat.mul_add_mod, Nat.mod_eq_of_lt hlt]
  rw [extKey, stbEnt]
  dsimp only
  rw [hmod, stbKey_eq]

theorem stbKey_mod {x : Pip} {p : Nat} {w : W32} (hoff : (gReg x (pipA w)).toNat + 32 ≤ 16384) : stbKey x p w % 16384 + 32 ≤ 16384 := by
  rw [stbKey_eq]
  simp only [ingotSize_eq]
  omega

/-- The access of an STB carries its 32 bytes. -/
theorem extBytes_stbEnt (x : Pip) (p : Nat) (w : W32) : extBytes (stbEnt x p w).req = stbBytes x w := by
  have hlen : (stbBytes x w).length = 32 := by simp [stbBytes, dmBytes]
  have hlt : ofBytes (stbBytes x w) < 2 ^ 512 := by
    have hbound := ofBytes_lt (stbBytes x w)
    rw [hlen] at hbound
    rw [show (256 : Nat) = 2 ^ 8 from rfl, ← pow_mul] at hbound
    exact Nat.lt_trans hbound (Nat.pow_lt_pow_right (by decide) (by decide))
  rw [extBytes, stbEnt]
  dsimp only
  rw [BitVec.toNat_ofNat, Nat.mod_eq_of_lt hlt]
  conv_lhs => rw [← hlen]
  exact bytesOf_ofBytes _

/-- A store of a pip to a page that is locked needs no slot (R67). -/
theorem slotless_store {i : Nat} {e : ExtEnt} (hsrc : e.src = .store) (hwrite : e.req.write = true)
    (hfree : holderOf s (extKey i e.req) e.req.len = none) (hlock : lockedAt s (extKey i e.req) = true)
    (hroom : deferRoomOne s (extKey i e.req) = true) : slotless s i e = true := by
  simp [slotless, heldByMove, roomFor, isAtomic, hsrc, hwrite, hfree, hlock, hroom]

theorem pipStb_runs {p : Nat} (h : pipReady 0x21 s p = true) (hok : stbOk s (s.pip p) (pipWord s p) = true)
    (hroom : deferRoomOne s (stbKey (s.pip p) p (pipWord s p)) = true) (hfree : holderOf s (stbKey (s.pip p) p (pipWord s p)) 32 = none)
    (hcalm : Calm s (p / 384) (p % 384)) (hpage : LDesc.PAGE.get (s.pip p).cur.desc < ingotPages)
    (hlock : lockedAt s (stbKey (s.pip p) p (pipWord s p)) = true) :
    Runs (.pipStb p) s (fun t => t.pip p = pipGoes (s.pip p) ∧ (∀ q, q ≠ p → t.pip q = s.pip q) ∧
      viewBytes t (stbKey (s.pip p) p (pipWord s p)) 32 = stbBytes (s.pip p) (pipWord s p) ∧ t.mem = s.mem) := by
  have hrow : exec (.pipStb p) s = execPipStb p s := rfl
  set x := s.pip p with hx
  set w := pipWord s p
  set e := stbEnt x p w with he
  have hoff : (gReg x (pipA w)).toNat + 32 ≤ 16384 := by
    simp only [stbOk, Bool.and_eq_true, decide_eq_true_eq] at hok
    exact hok.1.2
  have hkey : extKey (p / 384) e.req = stbKey x p w := extKey_stbEnt hpage hoff
  have hlen : (stbBytes x w).length = 32 := by simp [stbBytes, dmBytes]
  set v := (s.setPip p { x with budget := x.budget - 1 }).setPip p (pipGoes x) with hv
  have hissue : Slotted v (stbIssued s p) := slotted_countIngot v (p / 384) 0x0B8 1
  have hcalm' : Calm (stbIssued s p) (p / 384) (p % 384) := by
    refine Still.calm (s := v) ⟨?_, fun i d hd _ => ?_⟩ ⟨hcalm.empty, hcalm.noReady⟩
    · exact keepsIngots_updIngot v (p / 384) (f := fun g => { g with ctr := ctrAdd g.ctr 0x0B8 1 }) fun _ => rfl
    · rwa [hissue.defer] at hd
  have hdefer : ∀ t, Slotted v t → Deferred t (performEnt t (stbKey x p w) e) (stbKey x p w) (stbBytes x w) := fun t ht => by
    have hperform : performEnt t (stbKey x p w) e = writePiece t (stbKey x p w) (stbBytes x w) (LDesc.SEAT.get x.cur.desc) := by
      rw [← extBytes_stbEnt x p w]
      rfl
    rw [hperform]
    refine writePiece_deferred _ ?_ (by rw [hlen]; exact stbKey_mod hoff)
    rw [ht.lockedAt_eq]
    exact hlock
  obtain ⟨t, ht, -, hserve⟩ := bankServe_of_slotless (e := e) hcalm' (show (4 : Nat) < 5 by decide) (slotless_store rfl rfl
    (by rw [hissue.holderOf_eq, hkey]; exact hfree) (by rw [hissue.lockedAt_eq, hkey]; exact hlock)
    (by rw [hissue.deferRoomOne_eq, hkey]; exact hroom)) fun t ht => by
      rw [hkey]
      exact still_of_deferred (hdefer t (hissue.trans ht))
  rw [hkey] at hserve
  have hdone := hdefer t (hissue.trans ht)
  have hpips : (performEnt t (stbKey x p w) e).pips = v.pips := (hdone.only.same .pips (by decide)).trans (hissue.trans ht).pips
  refine ⟨performEnt t (stbKey x p w) e, ?_, ?_, fun q hq => ?_, ?_, ?_⟩
  · have hstall : stbWaits s p w = false := by
      rw [stbWaits, ← hx, hroom, Bool.not_true, Bool.and_false]
    refine (hrow.trans (pipRow_of_ready _ h hstall)).trans (congrArg _ ?_)
    dsimp only
    rw [pipIssue_pip]
    exact (if_pos hok).trans hserve
  · rw [State.pip, hpips]
    exact setPip_pip ..
  · rw [State.pip, hpips]
    exact (setPip_pip_other _ _ _ _ hq).trans (setPip_pip_other _ _ _ _ hq)
  · have hview := hdone.viewBytes
    rwa [hlen] at hview
  · exact hdone.mem.trans (hissue.trans ht).mem

theorem pipStb_refused {p : Nat} (h : pipReady 0x21 s p = true) (hok : stbOk s (s.pip p) (pipWord s p) = false) :
    Runs (.pipStb p) s (fun t => Faulted s t p St.pipmem) := by
  have hrow : exec (.pipStb p) s = execPipStb p s := rfl
  refine faulted_of_ready hrow h (by rw [stbWaits, hok, Bool.false_and]) (by decide) ?_
  dsimp only
  rw [pipIssue_pip]
  exact if_neg fun hgood => Bool.false_ne_true (hok.symm.trans hgood)

/-- Settles O34: a memory row's address decides between its effect and the fault; an STB to its own locked page is deferred. -/
theorem pipMemoryAndStreams : Obligations.PipMemoryAndStreams := by
  intro s p x w refused
  have hfault : ∀ i, Runs i s (fun t => Faulted s t p St.pipmem) → refused i := by
    rintro i ⟨t, hexec, ht⟩
    exact ⟨t, hexec, ht.running, ht.streams, ht.recs⟩
  have hcase : ∀ (b : Bool) (P : Prop) (i : Instr), (if b then P else Runs i s (fun t => Faulted s t p St.pipmem)) →
      if b then P else refused i := by
    intro b P i h
    cases b
    · exact hfault i h
    · exact h
  refine ⟨fun h => hcase _ _ _ ?_, fun h => hcase _ _ _ ?_, fun h => hcase _ _ _ ?_, fun h => hcase _ _ _ ?_,
    fun h hroom => hcase _ _ _ (pipRstr_steps h hroom), fun h => ⟨fun hok => hfault _ (pipStb_refused h hok), ?_⟩⟩
  · exact pipMem_steps (ok := fun x w => dmOk (addrImm x w) 4) (f := fun x w => setG x (pipA w) (dmWord x (addrImm x w))) rfl h
      (fun _ _ _ => rfl) (fun _ _ _ => rfl) rfl
  · rw [← dmStoreWords_singleton]
    exact pipMem_steps (ok := fun x w => dmStoreOk (addrImm x w) 4)
      (f := fun x w => dmStoreWords x (addrImm x w) [gReg x (pipA w)]) rfl h (fun _ _ _ => rfl) (fun _ _ _ => rfl) rfl
  · exact pipMem_steps (ok := fun x w => dmOk (addrX x w) 128) (f := fun x w => setV x (pipA w) (dmWords x (addrX x w) 32)) rfl h
      (fun _ _ _ => rfl) (fun _ _ _ => rfl) rfl
  · exact pipMem_steps (ok := fun x w => dmStoreOk (addrX x w) 128)
      (f := fun x w => dmStoreWords x (addrX x w) (vReg x (pipA w))) rfl h (fun _ _ _ => rfl)
      (fun _ _ _ => dmStoreWords_budget ..) (budget_dmStoreWords ..)
  · exact fun hok hroom hfree hwait hready hpage hlock =>
      pipStb_runs h hok hroom hfree ⟨empty_of_waitingAt hwait, hready⟩ hpage hlock

end Sys2Proof.PipCore
end

section
/-! What the performance of an access answers and leaves (R58, R66 to R73, R76, R469, R483). -/

namespace Sys2Proof.Serving

open Sys2Proof Sys2Proof.Machine Sys2Proof.Laws Sys2Proof.Lanes Sys2Proof.Banks Sys2Proof.Stores

variable {s t u : State}

/-! ## Why an access cannot be performed -/

theorem extStatus_eq_ok {k n : Nat} {write : Bool} : extStatus s k n write = St.ok ↔ pageStatus s k n = St.ok ∧
    (if write then partialUncorr s k n && !lockedAt s k else uncorrSeen s k n) = false := by
  rw [extStatus]
  by_cases hpage : pageStatus s k n = St.ok
  · cases hbad : (if write then partialUncorr s k n && !lockedAt s k else uncorrSeen s k n) <;> simp [firstFail, hpage, St.ok, St.uncorr]
  · simp [firstFail, hpage]

theorem ingot_of_page (k : Nat) : k / 16384 * 16384 / ingotSize = k / ingotSize ∧
    offPage (k / 16384 * 16384 % ingotSize) = offPage (k % ingotSize) := by
  simp only [ingotSize_eq, offPage]
  omega

/-- A page that a range touches is among its pages. -/
theorem page_mem_pagesOf {k n j : Nat} (ht : isT2 k = true) (hk : k ≤ j) (hj : j < k + n) : j / 16384 * 16384 ∈ pagesOf k n := by
  rw [pagesOf, if_pos (by simp [ht]; omega)]
  exact List.mem_map.mpr ⟨j / 16384 - k / 16384, List.mem_range.mpr (by omega), by congr 1; omega⟩

theorem pageStatus_of_lost {k n : Nat} (ht : isT2 k = true) (hn : n ≠ 0)
    (hlost : chanLost s (k / ingotSize) (pageBg (offPage (k % ingotSize))) = true) : pageStatus s k n ≠ St.ok := by
  have hany : (pagesOf k n).any (fun p => chanLost s (p / ingotSize) (pageBg (offPage (p % ingotSize)))) = true := by
    refine List.any_eq_true.mpr ⟨_, page_mem_pagesOf ht (Nat.le_refl k) (by omega), ?_⟩
    rw [(ingot_of_page k).1, (ingot_of_page k).2]
    exact hlost
  rw [pageStatus, hany]
  cases (pagesOf k n).any (fun p => govMode s (p / ingotSize) == 3) <;> decide

/-! ## What errors leave -/

theorem countUncorr_quiet (s : State) (k : Nat) : Quiet s (countUncorr s k) := by
  have honly := countUncorr_only s k
  refine ⟨honly.same .mem (by decide), holdsNoMore_of_only honly (by decide), fun e he => ?_, ?_⟩
  · rwa [honly.same .wordErr (by decide)] at he
  · unfold countUncorr
    split
    · exact keepsIngots_updIngot s _ fun _ => rfl
    · exact keepsIngots_of_only (state_countDev_only ..) (by decide)
    · exact keepsIngots_of_only (state_countDev_only ..) (by decide)
    · exact keepsIngots_refl s

theorem quiet_foldl {α : Type} {f : State → α → State} (h : ∀ s a, Quiet s (f s a)) (l : List α) (s : State) :
    Quiet s (l.foldl f s) := by
  induction l generalizing s with
  | nil => exact quiet_refl s
  | cons a l ih => exact (h s a).trans (ih _)

theorem noteUncorr_quiet (s : State) (k n path seat : Nat) (b : Option Nat) : Quiet s (noteUncorr s k n path seat b) := by
  unfold noteUncorr
  refine quiet_foldl (fun s w => ?_) _ s
  split
  · exact (countUncorr_quiet s w).trans ⟨rfl, ⟨fun _ => id, fun _ => rfl, rfl⟩, fun _ => id, ⟨fun _ => rfl⟩⟩
  · exact quiet_refl s

theorem still_of_defers (h : KeepsIngots deferOf s t) : Still s t := by
  refine ⟨⟨fun i => ?_⟩, fun i d hd _ => ?_⟩
  · have hbgs := congrArg (fun x => x.2.2) (h.same i)
    exact hbgs
  · have hdefer : (t.ingot i).defer = (s.ingot i).defer := by
      have hsame := congrArg (fun x => x.2.1) (h.same i)
      exact hsame
    rwa [hdefer] at hd

theorem Still.trans (h : Still s t) (h' : Still t u) : Still s u :=
  ⟨h.bgs.trans h'.bgs, fun i d hd hr => h.ready i d (h'.ready i d hd hr) hr⟩

/-! ## Reads -/

theorem extRead_snd (s : State) (k n seat : Nat) : (extRead s k n seat).2 =
    if extStatus s k n false = St.ok then (St.ok, viewBytes s k n) else (extStatus s k n false, []) := by
  unfold extRead
  dsimp only
  by_cases hok : extStatus s k n false = St.ok
  · rw [if_pos hok, if_neg (by rw [hok]; decide), if_neg (not_not_intro hok), hok]
  · rw [if_neg hok, if_pos hok]
    split <;> rfl

theorem extRead_fst_of_fail {k n : Nat} (seat : Nat) (h : extStatus s k n false ≠ St.ok) : Quiet s (extRead s k n seat).1 := by
  unfold extRead
  dsimp only
  rw [if_pos h]
  split
  · exact noteUncorr_quiet ..
  · exact quiet_refl s

theorem extRead_fst_of_ok {k n : Nat} (seat : Nat) (h : extStatus s k n false = St.ok) : (extRead s k n seat).1 =
    if isT2 k && viewDeferred s k n then s else noteCorr s k n false := by
  unfold extRead
  dsimp only
  rw [if_neg (by rw [h]; decide), if_neg (not_not_intro h)]

/-- A read that meets no decoder changes no bank group. -/
theorem extRead_still {k n : Nat} (seat : Nat) (h : extStatus s k n false = St.ok → isT2 k = true ∧ viewDeferred s k n = true) :
    Still s (extRead s k n seat).1 := by
  by_cases hok : extStatus s k n false = St.ok
  · rw [extRead_fst_of_ok seat hok, if_pos (by simp [h hok])]
    exact still_refl s
  · exact still_of_defers (extRead_fst_of_fail seat hok).defers

/-! ## Writes -/

theorem extWrite_snd (s : State) (k : Nat) (bs : List Byte) (seat : Nat) : (extWrite s k bs seat).2 = extStatus s k bs.length true := by
  unfold extWrite
  dsimp only
  split
  · rfl
  · split <;> rfl

theorem extWrite_fst_of_fail {k : Nat} {bs : List Byte} (seat : Nat) (h : extStatus s k bs.length true ≠ St.ok) :
    Quiet s (extWrite s k bs seat).1 := by
  unfold extWrite
  dsimp only
  rw [if_pos h]
  split
  · exact noteUncorr_quiet ..
  · exact quiet_refl s

theorem extWrite_fst_of_ok {k : Nat} {bs : List Byte} (seat : Nat) (h : extStatus s k bs.length true = St.ok) :
    (extWrite s k bs seat).1 = (piecesOf k bs).foldl (fun s e => writePiece s e.1 e.2 seat) s := by
  unfold extWrite
  dsimp only
  rw [if_neg (by rw [h]; decide), if_neg (not_not_intro h)]

theorem pieces_fuel (k : Nat) (bs : List Byte) : bs.length + k % 64 ≤ 64 * (bs.length / 64 + 2) := by omega

theorem Slotted.noDefer_eq (h : Slotted s t) : noDefer t = noDefer s := funext fun k => funext fun n => by
  rw [noDefer, noDefer]
  simp only [h.lockedAt_eq, h.defer]

theorem noDefer_of_defers (h : KeepsIngots deferOf s t) : noDefer t = noDefer s := by
  have hparts : ∀ i, (t.ingot i).locks = (s.ingot i).locks ∧ (t.ingot i).defer = (s.ingot i).defer := fun i => by
    have hlocks := congrArg Prod.fst (h.same i)
    have hdefer := congrArg (fun x => x.2.1) (h.same i)
    exact ⟨hlocks, hdefer⟩
  have hlocked : lockedAt t = lockedAt s := funext fun k => by
    rw [lockedAt, pageLocked, pageLocks, (hparts _).1, lockedAt, pageLocked, pageLocks]
  exact funext fun k => funext fun n => by
    rw [noDefer, noDefer, hlocked]
    simp only [(hparts _).2]

/-- A page of a range without locks and deferred writes. -/
theorem page_of_noDefer {k n j : Nat} (h : noDefer s k n = true) (ht : isT2 j = true) (hk : k ≤ j) (hj : j < k + n) :
    lockedAt s j = false ∧ (s.ingot (j / ingotSize)).defer.any (fun d => d.page == offPage (j % ingotSize)) = false := by
  have htk : isT2 k = true := by
    rw [isT2_iff] at ht ⊢
    omega
  have hpage := List.all_eq_true.mp h _ (page_mem_pagesOf htk hk hj)
  have hplace := ingot_of_page j
  have htp : isT2 (j / 16384 * 16384) = true := by
    rw [isT2_iff] at ht ⊢
    omega
  simp only [lockedAt, htp, Bool.true_and, hplace.1, hplace.2, Bool.and_eq_true, Bool.not_eq_true'] at hpage
  rw [lockedAt, hpage.1, Bool.and_false]
  exact ⟨rfl, hpage.2⟩

/-- No write to a range without locks and deferred writes is deferred. -/
theorem unlocked_of_noDefer {k n j : Nat} (h : noDefer s k n = true) (hk : k ≤ j) (hj : j < k + n) :
    unlocked s j = true ∨ isT2 j = false := by
  by_cases ht : isT2 j = true
  · obtain ⟨hlocked, hdefer⟩ := page_of_noDefer h ht hk hj
    rw [unlocked, hlocked, Bool.not_false, Bool.true_and, Bool.not_eq_true', List.any_eq_false]
    exact .inl fun d hd hready => List.any_eq_false.mp hdefer d hd (Bool.and_eq_true_iff.mp hready).1
  · exact .inr (by simpa using ht)

theorem lockedAt_of_unlocked {k : Nat} (h : unlocked s k = true ∨ isT2 k = false) : lockedAt s k = false := by
  rcases h with h | h
  · simpa using (Bool.and_eq_true_iff.mp h).1
  · rw [lockedAt, h, Bool.false_and]

theorem extWrite_wrote {k : Nat} {bs : List Byte} (seat : Nat) (h : extStatus s k bs.length true = St.ok)
    (hopen : noDefer s k bs.length = true) (hfree : holderOf s k bs.length = none) : Wrote s (extWrite s k bs seat).1 k bs := by
  rw [extWrite_fst_of_ok seat h, piecesOf]
  refine foldl_writePiece_wrote seat _ (pieces_fuel k bs) (fun p hp => ?_) hfree ?_
  · obtain ⟨hk, hj⟩ := pieces_range p hp
    exact unlocked_of_noDefer hopen hk hj
  · by_cases hne : bs = []
    · subst hne
      rw [partialUncorr, List.any_eq_false]
      intro e _
      simp [overlaps]
    · have hpos : 0 < bs.length := List.length_pos_iff.mpr hne
      have hgood := (extStatus_eq_ok.mp h).2
      rw [if_pos rfl, lockedAt_of_unlocked (unlocked_of_noDefer hopen (Nat.le_refl k) (by omega)), Bool.not_false,
        Bool.and_true] at hgood
      exact hgood

theorem extWrite_deferred {k : Nat} {bs : List Byte} (seat : Nat) (h : extStatus s k bs.length true = St.ok)
    (hlock : allLocked s k bs = true) : Stores.Deferred s (extWrite s k bs seat).1 k bs := by
  rw [extWrite_fst_of_ok seat h, piecesOf]
  exact foldl_writePiece_deferred seat _ (pieces_fuel k bs) fun p hp => List.all_eq_true.mp hlock p hp

theorem extWrite_still {k : Nat} {bs : List Byte} (seat : Nat) (h : extStatus s k bs.length true = St.ok → allLocked s k bs = true) :
    Still s (extWrite s k bs seat).1 := by
  by_cases hok : extStatus s k bs.length true = St.ok
  · exact still_of_deferred (extWrite_deferred seat hok (h hok))
  · exact still_of_defers (extWrite_fst_of_fail seat hok).defers

/-! ## Accesses that need no slot -/

/-- What an access that needs no slot meets: a lost channel, or the deferral buffer (R67). -/
theorem cases_of_slotless {k : Nat} {e : ExtEnt} (hkey : extKey (k / ingotSize) e.req = k) (hoff : e.req.off = k % ingotSize)
    (ht : isT2 k = true) (hlen : e.req.len ≠ 0) (hsrc : e.src ≠ .store) (h : slotless s (k / ingotSize) e = true) :
    pageStatus s k e.req.len ≠ St.ok ∨ (e.req.write = true ∧ allLocked s k (entBytes e) = true ∧ (isAtomic e = true → viewDeferred s k 8 = true)) ∨
      (e.req.write = false ∧ viewDeferred s k e.req.len = true) := by
  simp only [slotless, hkey, if_neg hsrc, Bool.and_eq_true, Bool.or_eq_true] at h
  obtain ⟨-, hlost | hbuf⟩ := h
  · refine .inl (pageStatus_of_lost ht hlen ?_)
    rw [← hoff]
    exact hlost.1
  · refine .inr ?_
    cases hw : e.req.write
    · rw [hw] at hbuf
      exact .inr ⟨rfl, hbuf⟩
    · rw [hw, if_pos rfl] at hbuf
      simp only [Bool.and_eq_true, Bool.or_eq_true, Bool.not_eq_true'] at hbuf
      exact .inl ⟨rfl, hbuf.1.1, fun ha => hbuf.2.resolve_left (by simp [ha])⟩

theorem extBytes_length (r : ExtReq) : (extBytes r).length = r.len := length_bytesOf ..

theorem still_emit (h : Still s t) (o : Out) : Still s (t.emit o) := ⟨⟨h.bgs.same⟩, h.ready⟩

/-- The access of an interface: on behalf of an ingot's requester or of the Avkin link, answered as it is performed. -/
structure Interface (e : ExtEnt) (i : Nat) (answer : Nat → List Byte → Out) : Prop where
  write : e.req.write = true → ∀ s k, i = k / ingotSize → performEnt s k e =
    (extWrite s k (extBytes e.req) e.req.seat).1.emit (answer (extWrite s k (extBytes e.req) e.req.seat).2 [])
  read : e.req.write = false → ∀ s k, i = k / ingotSize → performEnt s k e =
    (extRead s k e.req.len e.req.seat).1.emit (answer (extRead s k e.req.len e.req.seat).2.1 (extRead s k e.req.len e.req.seat).2.2)
  bytes : entBytes e = extBytes e.req
  src : e.src ≠ .store

theorem interface_ext (r : ExtReq) (i n : Nat) : Interface ⟨r, .interface, n⟩ i (.ext i r) := by
  refine ⟨fun hw s k hi => ?_, fun hw s k hi => ?_, rfl, by simp⟩
  · subst hi
    exact if_pos hw
  · subst hi
    exact if_neg (by rw [show r.write = false from hw]; exact Bool.false_ne_true)

theorem interface_avkin (r : ExtReq) (i n : Nat) : Interface ⟨r, .avkin, n⟩ i .avkin := by
  refine ⟨fun hw s k _ => ?_, fun hw s k _ => ?_, rfl, by simp⟩
  · exact if_pos hw
  · exact if_neg (by rw [show r.write = false from hw]; exact Bool.false_ne_true)

theorem Interface.still {e : ExtEnt} {k : Nat} {answer : Nat → List Byte → Out} (h : Interface e (k / ingotSize) answer)
    (hkey : extKey (k / ingotSize) e.req = k) (hoff : e.req.off = k % ingotSize) (ht : isT2 k = true) (hlen : e.req.len ≠ 0)
    (hs : slotless s (k / ingotSize) e = true) : Still s (performEnt s k e) := by
  have hcases := cases_of_slotless hkey hoff ht hlen h.src hs
  cases hw : e.req.write
  · rw [h.read hw s k rfl]
    refine still_emit (extRead_still _ fun hok => ⟨ht, ?_⟩) _
    rcases hcases with hbad | ⟨hw', -⟩ | ⟨-, hview⟩
    · exact absurd (extStatus_eq_ok.mp hok).1 hbad
    · rw [hw] at hw'
      exact absurd hw' Bool.false_ne_true
    · exact hview
  · rw [h.write hw s k rfl]
    refine still_emit (extWrite_still _ fun hok => ?_) _
    rw [extBytes_length] at hok
    rcases hcases with hbad | ⟨-, hlock, -⟩ | ⟨hw', -⟩
    · exact absurd (extStatus_eq_ok.mp hok).1 hbad
    · rwa [h.bytes] at hlock
    · rw [hw] at hw'
      exact absurd hw'.symm Bool.false_ne_true

/-! ## Write-backs of corrected words (R73) -/

/-- Only write-backs of corrected words wait for the bank group, and no deferred write is ready for it. -/
structure Corrects (s : State) (i bg : Nat) : Prop where
  src : ∀ q, q < 5 → ∀ e ∈ queueOf s i bg q, e.src = .correct
  noReady : (s.ingot i).defer.any (fun d => d.ready && pageBg d.page == bg) = false

theorem corrects_of_calm {i bg : Nat} (h : Calm s i bg) : Corrects s i bg :=
  ⟨fun q hq e he => absurd (h.empty q hq ▸ he) List.not_mem_nil, h.noReady⟩

theorem Still.corrects (h : Still s t) {i bg : Nat} (hc : Corrects s i bg) : Corrects t i bg := by
  refine ⟨fun q hq e he => hc.src q hq e ?_, List.any_eq_false.mpr fun d hd => ?_⟩
  · rw [queueOf, bankGroup] at he ⊢
    rwa [h.bgs.same i] at he
  · intro hr
    have hready : d.ready = true := (Bool.and_eq_true_iff.mp hr).1
    exact List.any_eq_false.mp hc.noReady d (h.ready i d hd hready) hr

/-- A change of a bank group that adds only write-backs to its queues. -/
theorem corrects_updBankGroup {i bg j b : Nat} {f : BankGroup → BankGroup} (h : Corrects s i bg)
    (hf : j = i → b = bg → ∀ q, q < 5 → ∀ e ∈ Tab.get (f (bankGroup s i bg)).queues [] q, e.src = .correct) :
    Corrects (updBankGroup s j b f) i bg := by
  refine ⟨fun q hq e he => ?_, ?_⟩
  · by_cases hsame : j = i ∧ b = bg
    · obtain ⟨rfl, rfl⟩ := hsame
      rw [queueOf, bankGroup_updBankGroup_self] at he
      exact hf rfl rfl q hq e he
    · rw [queueOf, bankGroup_updBankGroup_other _ _ (by omega)] at he
      exact h.src q hq e he
  · rw [(slotted_updBankGroup s j b f).noReady]
    exact h.noReady

theorem corrects_queueFix {i bg : Nat} (w : Nat) (h : Corrects s i bg) : Corrects (queueFix s w) i bg := by
  unfold queueFix
  refine corrects_updBankGroup h ?_
  rintro - - q hq e he
  by_cases hq4 : q = 4
  · subst hq4
    rw [get_set_self] at he
    rcases List.mem_append.mp he with he | he
    · exact h.src 4 hq e he
    · rw [List.mem_singleton.mp he]
  · rw [get_set_other hq4] at he
    exact h.src q hq e he

theorem corrects_noteCorr {i bg : Nat} (k n : Nat) (pip : Bool) (h : Corrects s i bg) : Corrects (noteCorr s k n pip) i bg := by
  have hcount : Corrects (countCorr s k n pip) i bg := (still_of_defers (countCorr_quiet s k n pip).defers).corrects h
  rw [noteCorr, rewrite]
  generalize corrWords (countCorr s k n pip) k n = l
  generalize countCorr s k n pip = t at hcount
  induction l generalizing t with
  | nil => exact hcount
  | cons w l ih =>
    rw [List.foldl_cons]
    refine ih _ ?_
    split
    · exact corrects_queueFix w hcount
    · exact ⟨hcount.src, hcount.noReady⟩
    · exact ⟨hcount.src, hcount.noReady⟩

theorem extRead_corrects {i bg : Nat} (k n seat : Nat) (h : Corrects s i bg) : Corrects (extRead s k n seat).1 i bg := by
  by_cases hok : extStatus s k n false = St.ok
  · rw [extRead_fst_of_ok seat hok]
    split
    · exact h
    · exact corrects_noteCorr k n false h
  · exact (still_of_defers (extRead_fst_of_fail seat hok).defers).corrects h

theorem corrects_triesOver {i bg j : Nat} {e : ExtEnt} (h : Corrects s i bg) : Corrects (triesOver s j e) i bg := by
  refine Still.corrects ⟨?_, fun i d hd _ => ?_⟩ h
  · unfold triesOver
    dsimp only
    split
    · exact keepsIngots_refl s
    · exact keepsIngots_updIngot s j fun _ => rfl
  · rwa [(slotted_triesOver s j e).defer] at hd

theorem correctWord_still (s : State) (k : Nat) : Still s (correctWord s k) := by
  unfold correctWord
  split
  · refine ⟨⟨fun i => ?_⟩, fun i d hd hr => ?_⟩
    · have hbgs := congrArg Prod.snd ((deferWrite_locks s (k / ingotSize) (offPage (k % ingotSize)) (k % 16384) (readBytes s k 8)).same i)
      exact hbgs
    · rw [deferWrite_defer] at hd
      split at hd
      · next hi =>
        subst hi
        rcases List.mem_append.mp hd with hd | hd
        · exact hd
        · rw [List.mem_singleton.mp hd] at hr
          exact absurd hr Bool.false_ne_true
      · exact hd
  · exact still_of_defers (clearCorr_quiet s k 8).defers

/-- Memory and answers are as they were, and only write-backs wait for the bank group. -/
structure Rests (s t : State) (i bg : Nat) : Prop where
  mem : t.mem = s.mem
  out : t.out = s.out
  corrects : Corrects t i bg

theorem rests_refl {i bg : Nat} (h : Corrects s i bg) : Rests s s i bg := ⟨rfl, rfl, h⟩

theorem Rests.trans {i bg : Nat} (h : Rests s t i bg) (h' : Rests t u i bg) : Rests s u i bg :=
  ⟨h'.mem.trans h.mem, h'.out.trans h.out, h'.corrects⟩

theorem performQueued_rests {i bg : Nat} {e : ExtEnt} (h : Corrects s i bg) (hsrc : e.src = .correct) :
    Rests s (performQueued s i e) i bg := by
  have ht := slotted_triesOver s i e
  have hperform : performQueued s i e = correctWord (triesOver s i e) (extKey i e.req) := by
    rw [performQueued_eq, performEnt, hsrc]
  have honly := correctWord_only (triesOver s i e) (extKey i e.req)
  rw [hperform]
  exact ⟨(honly.same .mem (by decide)).trans ht.mem, (honly.same .out (by decide)).trans ht.out,
    (correctWord_still _ _).corrects (corrects_triesOver h)⟩

/-- The head of a queue that only write-backs wait in, taken and performed. -/
theorem performHead_rests {i bg q : Nat} {e : ExtEnt} {rest : List ExtEnt} (h : Corrects s i bg) (hq : q < 5)
    (hget : Tab.get (bankGroup s i bg).queues [] q = e :: rest) :
    Rests s (performQueued (updBankGroup s i bg (fun x => { x with queues := Tab.set x.queues [] q rest })) i e) i bg := by
  have hslot : Slotted s (updBankGroup s i bg (fun x => { x with queues := Tab.set x.queues [] q rest })) := slotted_updBankGroup ..
  refine Rests.trans ⟨hslot.mem, hslot.out, ?_⟩ (performQueued_rests ?_ (h.src q hq e (by rw [queueOf, hget]; exact List.mem_cons_self)))
  all_goals
    refine corrects_updBankGroup h fun _ _ r hr x hx => ?_
    by_cases hrq : r = q
    · subst hrq
      rw [get_set_self] at hx
      exact h.src r hr x (by rw [queueOf, hget]; exact List.mem_cons_of_mem _ hx)
    · rw [get_set_other hrq] at hx
      exact h.src r hr x hx

theorem performSlotless_rests {i bg : Nat} (n : Nat) (h : Corrects s i bg) : Rests s (performSlotless i bg n s) i bg := by
  induction n generalizing s with
  | zero => exact rests_refl h
  | succ n ih =>
    unfold performSlotless
    split
    · exact rests_refl h
    · next q hfind =>
      have hq : q < 5 := List.mem_range.mp (List.mem_of_find?_eq_some hfind)
      split
      · next e rest hget =>
        have hhead := performHead_rests h hq hget
        exact hhead.trans (ih hhead.corrects)
      · exact rests_refl h

theorem pick_lt {present : Nat → Bool} {ptr n q : Nat} (h : pick present ptr n = some q) : q < n := by
  obtain ⟨i, hi, rfl⟩ := List.mem_map.mp (List.mem_of_find?_eq_some h)
  exact Nat.mod_lt _ (Nat.zero_lt_of_lt (List.mem_range.mp hi))

theorem grant_lt {present : Nat → Bool} {ptr n q p : Nat} (h : grant present ptr n = some (q, p)) : q < n := by
  rw [grant, Option.map_eq_some_iff] at h
  obtain ⟨w, hw, heq⟩ := h
  cases heq
  exact pick_lt hw

theorem holdExt_rests {i bg : Nat} (n ptr : Nat) (h : Corrects s i bg) :
    Rests s (updBankGroup (holdExt s i bg n) i bg (fun y => { y with ptr := ptr })) i bg ∧
    (bankGroup (updBankGroup (holdExt s i bg n) i bg (fun y => { y with ptr := ptr })) i bg).queues = (bankGroup s i bg).queues := by
  have hqueues : (bankGroup (holdExt s i bg n) i bg).queues = (bankGroup s i bg).queues := by
    rw [holdExt, bankGroup_countIngot, bankGroup_updBankGroup_self]
  have hslot := (slotted_holdExt s i bg n).trans (slotted_updBankGroup _ i bg (fun y => { y with ptr := ptr }))
  have hsame : (bankGroup (updBankGroup (holdExt s i bg n) i bg (fun y => { y with ptr := ptr })) i bg).queues =
      (bankGroup s i bg).queues := by
    rw [bankGroup_updBankGroup_self]
    exact hqueues
  refine ⟨⟨hslot.mem, hslot.out, fun q hq e he => h.src q hq e ?_, ?_⟩, hsame⟩
  · rw [queueOf, hsame] at he
    exact he
  · rw [hslot.noReady]
    exact h.noReady

/-- The head of a queue that only write-backs wait in, with a grant taken. -/
theorem passHead_rests {i bg q n : Nat} {e : ExtEnt} {rest : List ExtEnt} (h : Corrects s i bg) (hq : q < 5)
    (hget : Tab.get (bankGroup s i bg).queues [] q = e :: rest) :
    Rests s (updBankGroup s i bg (fun y => { y with queues := Tab.set y.queues [] q ({ e with left := n } :: rest) })) i bg := by
  have hslot : Slotted s (updBankGroup s i bg (fun y => { y with queues := Tab.set y.queues [] q ({ e with left := n } :: rest) })) :=
    slotted_updBankGroup ..
  have hmem : ∀ x ∈ e :: rest, x.src = .correct := fun x hx => h.src q hq x (by rwa [queueOf, hget])
  refine ⟨hslot.mem, hslot.out, corrects_updBankGroup h fun _ _ r hr x hx => ?_⟩
  by_cases hrq : r = q
  · subst hrq
    rw [get_set_self] at hx
    rcases List.mem_cons.mp hx with rfl | hx
    · exact hmem e List.mem_cons_self
    · exact hmem x (List.mem_cons_of_mem _ hx)
  · rw [get_set_other hrq] at hx
    exact h.src r hr x hx

theorem grantExt_rests {i bg : Nat} (h : Corrects s i bg) : Rests s (grantExt s i bg) i bg := by
  unfold grantExt
  dsimp only
  split
  · exact rests_refl h
  · rw [if_neg (by rw [h.noReady]; exact Bool.false_ne_true)]
    split
    · exact rests_refl h
    · next q ptr hgrant =>
      have hq := grant_lt hgrant
      split
      · exact rests_refl h
      · next e rest hget =>
        split
        · exact rests_refl h
        · obtain ⟨hheld, hqueues⟩ := holdExt_rests (entPc e) ptr h
          have hget' := hget
          rw [← hqueues] at hget'
          split
          · exact hheld.trans (performHead_rests hheld.corrects hq hget')
          · exact hheld.trans (passHead_rests hheld.corrects hq hget')

/-- Where only write-backs wait, serving the bank group changes neither memory nor answers. -/
theorem bankServe_rests {i bg : Nat} (h : Corrects s i bg) : Rests s (bankServe s i bg) i bg := by
  have hfirst := performSlotless_rests (waitingAt s i bg) h
  exact hfirst.trans (grantExt_rests hfirst.corrects)

/-! ## Answers stay -/

theorem out_of_only {l : List Part} (h : OnlyChanges l s t) (hl : Part.out ∉ l) : s.out <:+ t.out := by
  rw [h.same .out hl]

theorem out_emit {o : Out} (h : s.out <:+ t.out) : s.out <:+ (t.emit o).out := h.trans (List.suffix_cons o t.out)

theorem performEnt_out (s : State) (k : Nat) (e : ExtEnt) : s.out <:+ (performEnt s k e).out := by
  have hread := out_of_only (extRead_only s k e.req.len e.req.seat) (by decide)
  have hwrite := out_of_only (extWrite_only s k (extBytes e.req) e.req.seat) (by decide)
  unfold performEnt
  split
  · split
    · exact out_emit hwrite
    · exact out_emit hread
  · split
    · exact out_emit hwrite
    · exact out_emit hread
  · exact out_of_only (performPacket_only ..) (by decide)
  · exact out_of_only (writePiece_only ..) (by decide)
  · exact out_of_only (correctWord_only ..) (by decide)
  · exact out_of_only (hmScrub_only ..) (by decide)
  · exact List.suffix_refl _
  · exact List.suffix_refl _

theorem performQueued_out (s : State) (i : Nat) (e : ExtEnt) : s.out <:+ (performQueued s i e).out := by
  have hperform := performEnt_out (triesOver s i e) (extKey i e.req) e
  rwa [(slotted_triesOver s i e).out] at hperform

theorem performTaken_out (s : State) (i bg : Nat) (f : BankGroup → BankGroup) (e : ExtEnt) :
    s.out <:+ (performQueued (updBankGroup s i bg f) i e).out := by
  have hperform := performQueued_out (updBankGroup s i bg f) i e
  rwa [(slotted_updBankGroup s i bg f).out] at hperform

theorem performSlotless_out (i bg n : Nat) (s : State) : s.out <:+ (performSlotless i bg n s).out := by
  induction n generalizing s with
  | zero => exact List.suffix_refl _
  | succ n ih =>
    unfold performSlotless
    split
    · exact List.suffix_refl _
    · next q _ =>
      split
      · exact (performTaken_out ..).trans (ih _)
      · exact List.suffix_refl _

theorem grantExt_out (s : State) (i bg : Nat) : s.out <:+ (grantExt s i bg).out := by
  unfold grantExt
  dsimp only
  split
  · exact List.suffix_refl _
  · split
    · exact out_of_only (grantDeferred_only ..) (by decide)
    · split
      · exact List.suffix_refl _
      · next q ptr _ =>
        split
        · exact List.suffix_refl _
        · next e rest _ =>
          split
          · exact List.suffix_refl _
          · have hheld : s.out = (updBankGroup (holdExt s i bg (entPc e)) i bg (fun y => { y with ptr := ptr })).out :=
              ((slotted_holdExt s i bg (entPc e)).trans (slotted_updBankGroup _ i bg _)).out.symm
            rw [hheld]
            split
            · exact performTaken_out ..
            · exact out_of_only (updBankGroup_only ..) (by decide)

/-- What a bank group answers comes beside what was answered. -/
theorem bankServe_out (s : State) (i bg : Nat) : s.out <:+ (bankServe s i bg).out :=
  (performSlotless_out i bg (waitingAt s i bg) s).trans (grantExt_out _ i bg)

end Sys2Proof.Serving
end

section
/-! External accesses, the drain of deferred writes, the expiry of locks (R22, R59, R61, R62, R66 to R70, R76, R79). -/

namespace Sys2Proof.Banks

open Sys2Proof Sys2Proof.Machine Sys2Proof.Laws Sys2Proof.Lanes Sys2Proof.Intake Sys2Proof.Stores Sys2Proof.Serving
open Sys2Proof.MailboxService Sys2Proof.Pins

variable {s t u : State}

/-! ## One arrival -/

/-- An access that can be in an ingot: its key's place. -/
structure InIngot (i bg : Nat) (r : ExtReq) : Prop where
  queue : r.queue < 5
  seat : r.seat < 64
  len : r.len ≠ 0
  t2 : isT2 (extKey i r) = true
  ingot : extKey i r / ingotSize = i
  off : r.off = extKey i r % ingotSize
  group : bg = pageBg (offPage r.off)

theorem inIngot_of_extOk {i bg : Nat} {r : ExtReq} (hbg : bgOk i bg = true) (h : extOk bg r = true) : InIngot i bg r := by
  simp only [bgOk, extOk, Bool.and_eq_true, decide_eq_true_eq, beq_iff_eq, ingotSize_eq] at hbg h
  obtain ⟨⟨⟨⟨⟨⟨hqueue, hlen⟩, -⟩, hseat⟩, hend⟩, -⟩, hgroup⟩ := h
  have hlast := of_decide_eq_true hend
  refine ⟨hqueue, hseat, by omega, ?_, ?_, ?_, hgroup.symm⟩
  · rw [isT2_iff, extKey, show hmBase = 824633720832 from rfl, ingotSize_eq]
    omega
  · rw [extKey, ingotSize_eq]
    omega
  · rw [extKey, ingotSize_eq]
    omega

theorem externalAccess_of_ok {i bg : Nat} {r : ExtReq} (h : extOk bg r = true) :
    externalAccess i bg [r] s = bankServe (extArrive i bg s r) i bg := by
  simp [externalAccess, h]

theorem externalAccess_runs {i bg : Nat} {r : ExtReq} {P : State → Prop} (hrun : running .ingot s = true) (hbg : bgOk i bg = true)
    (h : P (externalAccess i bg [r] s)) : Runs (.externalAccess i bg [r]) s P := by
  have hrow : exec (.externalAccess i bg [r]) s = execExternalAccess i bg [r] s := rfl
  exact runs_of_when hrow hrun hbg h

/-- The access of an ingot's own interface. -/
def extEnt (r : ExtReq) : ExtEnt := ⟨r, .interface, 1⟩

theorem corrects_emit {i bg : Nat} (h : Corrects s i bg) (o : Out) : Corrects (s.emit o) i bg := ⟨h.src, h.noReady⟩

theorem readBytes_emit (s : State) (o : Out) (k n : Nat) : readBytes (s.emit o) k n = readBytes s k n := rfl

theorem memByte_emit (s : State) (o : Out) (k : Nat) : memByte (s.emit o) k = memByte s k := rfl

theorem viewBytes_emit (s : State) (o : Out) (k n : Nat) : viewBytes (s.emit o) k n = viewBytes s k n := rfl

/-- Only the Avkin link's and the fabric's accesses pass a stage (R416). -/
theorem enqueueExt_of_other {i bg : Nat} {e : ExtEnt} (hmode : govMode s i ≠ 3) (hq : ¬(e.req.queue = 2 ∨ e.req.queue = 3)) :
    enqueueExt s i bg e = pushExt s i bg e := by
  unfold enqueueExt
  rw [if_neg hmode, if_neg (by simpa using hq)]

/-- An access that its bank group serves at once is performed; what is then served changes neither memory nor answers. -/
theorem externalAccess_of_serves {i bg : Nat} {r : ExtReq} (hin : InIngot i bg r) (hok : extOk bg r = true)
    (haligned : misaligned r.off r.len = false) (hmode : govMode s i ≠ 3) (hserves : bankServes s i bg (extEnt r) = true) :
    ∃ t, Slotted s t ∧ Calm t i bg ∧
      (Corrects (performEnt t (extKey i r) (extEnt r)) i bg →
        (externalAccess i bg [r] s).mem = (performEnt t (extKey i r) (extEnt r)).mem ∧
        (externalAccess i bg [r] s).out = (performEnt t (extKey i r) (extEnt r)).out) ∧
      (Calm (performEnt t (extKey i r) (extEnt r)) i bg → externalAccess i bg [r] s = performEnt t (extKey i r) (extEnt r)) := by
  obtain ⟨hserve, hstage⟩ := bankServes_iff (e := extEnt r) hmode hin.queue hserves
  have hstill : ∀ t, Slotted s t → slotless s i (extEnt r) = true → Still t (performEnt t (extKey i r) (extEnt r)) := fun t ht hs => by
    have hinterface := interface_ext r (extKey i r / ingotSize) 1
    refine hinterface.still (by rw [hin.ingot]) hin.off hin.t2 hin.len ?_
    rw [hin.ingot, ht.slotless_eq]
    exact hs
  have harrive : extArrive i bg s r = enqueueExt s i bg (extEnt r) := by
    rw [extArrive, if_neg (by rw [haligned]; exact Bool.false_ne_true)]
    rfl
  rw [externalAccess_of_ok hok, harrive]
  by_cases hq : r.queue = 2 ∨ r.queue = 3
  · obtain ⟨t, ht, hcalm, heq⟩ := enqueueExt_of_serves (e := extEnt r) hmode hq (hstage hq) hin.seat hserve hstill
    refine ⟨t, ht, hcalm, ?_⟩
    rw [heq]
    exact ⟨fun hc => ⟨(bankServe_rests hc).mem, (bankServe_rests hc).out⟩, bankServe_of_calm⟩
  · obtain ⟨t, ht, hcalm, heq⟩ := bankServe_of_serves hserve hstill
    have hpush := enqueueExt_of_other (bg := bg) (e := extEnt r) hmode hq
    refine ⟨t, ht, hcalm, ?_⟩
    rw [hpush, heq]
    exact ⟨fun _ => ⟨rfl, rfl⟩, fun _ => rfl⟩

/-! ## What the access answers -/

section
variable {i bg : Nat} {r : ExtReq} (hbg : bgOk i bg = true) (hok : extOk bg r = true) (haligned : misaligned r.off r.len = false)
  (hmode : govMode s i ≠ 3) (hserves : bankServes s i bg (extEnt r) = true)
include hbg hok haligned hmode hserves

theorem externalRead_ends (hw : r.write = false) : (externalAccess i bg [r] s).mem = s.mem ∧
    (externalAccess i bg [r] s).out.head? =
      if extStatus s (extKey i r) r.len false = St.ok then some (.ext i r St.ok (viewBytes s (extKey i r) r.len))
      else some (.ext i r (extStatus s (extKey i r) r.len false) []) := by
  have hin := inIngot_of_extOk hbg hok
  obtain ⟨t, ht, hcalm, hrest, -⟩ := externalAccess_of_serves hin hok haligned hmode hserves
  have hperform := (interface_ext r i 1).read hw t (extKey i r) hin.ingot.symm
  have hcorrects : Corrects (performEnt t (extKey i r) (extEnt r)) i bg := by
    have hread := extRead_corrects (extKey i r) r.len r.seat (corrects_of_calm hcalm)
    rw [extEnt, hperform]
    exact corrects_emit hread _
  obtain ⟨hmem, hout⟩ := hrest hcorrects
  have hread := extRead_snd t (extKey i r) r.len r.seat
  rw [ht.extStatus_eq, ht.viewBytes_eq] at hread
  rw [hmem, hout, extEnt, hperform, emit_mem, emit_out, List.head?_cons]
  refine ⟨((extRead_only t (extKey i r) r.len r.seat).same .mem (by decide)).trans ht.mem, ?_⟩
  rw [hread]
  split <;> rfl

/-- The performance of a write in which the bank group keeps still. -/
theorem externalWrite_ends (hw : r.write = true) : ∃ t, Slotted s t ∧
    (Still t (extWrite t (extKey i r) (extBytes r) r.seat).1 → externalAccess i bg [r] s =
      (extWrite t (extKey i r) (extBytes r) r.seat).1.emit (.ext i r (extStatus s (extKey i r) r.len true) [])) := by
  have hin := inIngot_of_extOk hbg hok
  obtain ⟨t, ht, hcalm, -, hsame⟩ := externalAccess_of_serves hin hok haligned hmode hserves
  have hperform := (interface_ext r i 1).write hw t (extKey i r) hin.ingot.symm
  refine ⟨t, ht, fun hstill => ?_⟩
  have hcalm' : Calm (performEnt t (extKey i r) (extEnt r)) i bg := by
    rw [extEnt, hperform]
    exact (still_emit hstill _).calm hcalm
  rw [hsame hcalm', extEnt, hperform, extWrite_snd, extBytes_length, ht.extStatus_eq]

theorem externalWrite_fails (hw : r.write = true) (hbad : extStatus s (extKey i r) r.len true ≠ St.ok) :
    (externalAccess i bg [r] s).mem = s.mem ∧
    (externalAccess i bg [r] s).out.head? = some (.ext i r (extStatus s (extKey i r) r.len true) []) := by
  obtain ⟨t, ht, heq⟩ := externalWrite_ends hbg hok haligned hmode hserves hw
  have hquiet : Quiet t (extWrite t (extKey i r) (extBytes r) r.seat).1 :=
    extWrite_fst_of_fail r.seat (by rw [extBytes_length, ht.extStatus_eq]; exact hbad)
  rw [heq (still_of_defers hquiet.defers), emit_mem, emit_out, List.head?_cons]
  exact ⟨hquiet.mem.trans ht.mem, rfl⟩

theorem externalWrite_stores (hw : r.write = true) (hgood : extStatus s (extKey i r) r.len true = St.ok)
    (hopen : noDefer s (extKey i r) r.len = true) (hfree : holderOf s (extKey i r) r.len = none) :
    (externalAccess i bg [r] s).out.head? = some (.ext i r St.ok []) ∧
    readBytes (externalAccess i bg [r] s) (extKey i r) r.len = extBytes r ∧
    ∀ j, j < extKey i r ∨ extKey i r + r.len ≤ j → memByte (externalAccess i bg [r] s) j = memByte s j := by
  obtain ⟨t, ht, heq⟩ := externalWrite_ends hbg hok haligned hmode hserves hw
  have hlen := extBytes_length r
  have hwrote : Wrote t (extWrite t (extKey i r) (extBytes r) r.seat).1 (extKey i r) (extBytes r) :=
    extWrite_wrote r.seat (by rw [hlen, ht.extStatus_eq]; exact hgood) (by rw [hlen, ht.noDefer_eq]; exact hopen)
      (by rw [hlen, ht.holderOf_eq]; exact hfree)
  have hread := hwrote.readBytes
  have houtside := hwrote.outside
  rw [hlen] at hread houtside
  rw [heq (still_of_defers hwrote.defers), hgood, emit_out, List.head?_cons, readBytes_emit]
  refine ⟨rfl, hread, fun j hj => (memByte_emit ..).trans ((houtside j hj).trans ?_)⟩
  rw [memByte, ht.mem, memByte]

theorem externalWrite_defers (hw : r.write = true) (hgood : extStatus s (extKey i r) r.len true = St.ok)
    (hlock : allLocked s (extKey i r) (extBytes r) = true) :
    (externalAccess i bg [r] s).out.head? = some (.ext i r St.ok []) ∧
    viewBytes (externalAccess i bg [r] s) (extKey i r) r.len = extBytes r ∧ (externalAccess i bg [r] s).mem = s.mem := by
  obtain ⟨t, ht, heq⟩ := externalWrite_ends hbg hok haligned hmode hserves hw
  have hlen := extBytes_length r
  have hdeferred : Stores.Deferred t (extWrite t (extKey i r) (extBytes r) r.seat).1 (extKey i r) (extBytes r) := by
    refine extWrite_deferred r.seat (by rw [hlen, ht.extStatus_eq]; exact hgood) ?_
    rw [allLocked, ht.lockedAt_eq]
    exact hlock
  have hview := hdeferred.viewBytes
  rw [hlen] at hview
  rw [heq (still_of_deferred hdeferred), hgood, emit_out, emit_mem, viewBytes_emit, List.head?_cons]
  exact ⟨rfl, hview, hdeferred.mem.trans ht.mem⟩

end

/-! ## Accesses that wait, or that end before they wait -/

/-- A write that a full deferral buffer holds needs a slot, where its channel is not lost (R67, R68). -/
theorem slotless_of_heldByBuffer {i bg : Nat} {r : ExtReq} (hin : InIngot i bg r) (hlost : chanLost s i bg = false)
    (h : heldByBuffer s i (extEnt r) = true) : slotless s i (extEnt r) = false := by
  simp only [heldByBuffer, Bool.and_eq_true, Bool.not_eq_true'] at h
  obtain ⟨⟨hw, -⟩, hroom⟩ := h
  have hgroup : chanLost s i (pageBg (offPage (extEnt r).req.off)) = false := by rw [← hlost, hin.group, extEnt]
  rw [slotless, hw, if_pos rfl, hroom, hgroup]
  simp

theorem externalAccess_of_full {i bg : Nat} {r : ExtReq} (hbg : bgOk i bg = true) (hok : extOk bg r = true)
    (haligned : misaligned r.off r.len = false) (hmode : govMode s i ≠ 3) (hidle : bankIdle s i bg = true)
    (hstage : (r.queue == 2 || r.queue == 3) = true → stageIdle s i r.queue = true) (hlost : chanLost s i bg = false)
    (hfull : heldByBuffer s i (extEnt r) = true) :
    queueOf (externalAccess i bg [r] s) i bg r.queue = [extEnt r] ∧ (externalAccess i bg [r] s).mem = s.mem ∧
    (externalAccess i bg [r] s).out = s.out := by
  have hin := inIngot_of_extOk hbg hok
  obtain ⟨-, hcalm⟩ := calm_of_bankIdle hidle
  have hslotless := slotless_of_heldByBuffer hin hlost hfull
  have harrive : extArrive i bg s r = enqueueExt s i bg (extEnt r) := by
    rw [extArrive, if_neg (by rw [haligned]; exact Bool.false_ne_true)]
    rfl
  have hwaits : ∀ t, Slotted s t → Calm t i bg → bankServe (pushExt t i bg (extEnt r)) i bg = pushExt t i bg (extEnt r) := by
    intro t ht hc
    have hpush := ht.trans (slotted_pushExt t i bg (extEnt r))
    exact bankServe_of_alone_held (alone_pushExt hc hin.queue) (by rw [hpush.slotless_eq]; exact hslotless)
      (.inl (by rw [hpush.heldByBuffer_eq]; exact hfull))
  have hdone : ∃ t, Slotted s t ∧ Calm t i bg ∧ externalAccess i bg [r] s = pushExt t i bg (extEnt r) := by
    rw [externalAccess_of_ok hok, harrive]
    by_cases hq : r.queue = 2 ∨ r.queue = 3
    · obtain ⟨x, y, heq⟩ := enqueueExt_of_idleStage (bg := bg) (e := extEnt r) hmode hq (hstage (by simpa using hq)) hin.seat
      have hstages := (slotted_setStage s i r.queue x).trans (slotted_setStage _ i r.queue y)
      have hc : Calm (setStage (setStage s i r.queue x) i r.queue y) i bg := setStage_calm y (setStage_calm x hcalm)
      refine ⟨_, hstages, hc, ?_⟩
      exact (congrArg (fun t => bankServe t i bg) (heq.trans (hwaits _ hstages hc))).trans (hwaits _ hstages hc)
    · refine ⟨s, slotted_refl s, hcalm, ?_⟩
      rw [enqueueExt_of_other hmode hq, hwaits s (slotted_refl s) hcalm]
  obtain ⟨t, ht, hc, heq⟩ := hdone
  have hpush := ht.trans (slotted_pushExt t i bg (extEnt r))
  rw [heq]
  refine ⟨?_, hpush.mem, hpush.out⟩
  exact (queueOf_pushExt t i bg r.queue (extEnt r)).trans ((if_pos rfl).trans (by rw [hc.empty _ hin.queue, List.nil_append]))

theorem mem_of_suffix_emit {o : Out} (h : (s.emit o).out <:+ t.out) : o ∈ t.out := h.subset List.mem_cons_self

theorem externalAccess_misaligned {i bg : Nat} {r : ExtReq} (hok : extOk bg r = true) (h : misaligned r.off r.len = true) :
    .ext i r St.addr [] ∈ (externalAccess i bg [r] s).out := by
  rw [externalAccess_of_ok hok, extArrive, if_pos h]
  exact mem_of_suffix_emit (bankServe_out ..)

theorem externalAccess_tripped {i bg : Nat} {r : ExtReq} (hok : extOk bg r = true) (haligned : misaligned r.off r.len = false)
    (hmode : govMode s i = 3) : .ext i r St.thermal [] ∈ (externalAccess i bg [r] s).out := by
  rw [externalAccess_of_ok hok, extArrive, if_neg (by rw [haligned]; exact Bool.false_ne_true), enqueueExt, if_pos hmode]
  exact mem_of_suffix_emit (bankServe_out ..)

/-! ## The drain of deferred writes (R69) -/

theorem deferredDrain_spec {i page : Nat} {d : Machine.Deferred}
    (hfind : (s.ingot i).defer.find? (fun d => d.page == page && d.ready) = some d)
    (hlimit : overLimit s i (pageBg page) (if d.off % 8 = 0 && d.bytes.length % 8 == 0 then 2 else 4) = false)
    (hgood : partialUncorr s (pageKey i page + d.off) d.bytes.length = false)
    (hfree : holderOf s (pageKey i page + d.off) d.bytes.length = none) :
    readBytes (deferredDrain i page s) (pageKey i page + d.off) d.bytes.length = d.bytes ∧
    ((deferredDrain i page s).ingot i).defer = (s.ingot i).defer.erase d ∧
    ∀ k, k < pageKey i page + d.off ∨ pageKey i page + d.off + d.bytes.length ≤ k → memByte (deferredDrain i page s) k = memByte s k := by
  have hpage : d.page = page := by
    have hd := List.find?_some hfind
    simpa using (Bool.and_eq_true_iff.mp hd).1
  subst hpage
  set n := if d.off % 8 = 0 && d.bytes.length % 8 == 0 then 2 else 4 with hn
  have hheld := slotted_holdExt s i (pageBg d.page) n
  have hdrain : deferredDrain i d.page s = (memWrite ((holdExt s i (pageBg d.page) n).updIngot i
      (fun x => { x with defer := x.defer.erase d })) (pageKey i d.page + d.off) d.bytes 0).1 := by
    unfold deferredDrain grantDeferred
    rw [hfind]
    exact if_neg (by rw [hlimit]; exact Bool.false_ne_true)
  have hwrote : Wrote ((holdExt s i (pageBg d.page) n).updIngot i (fun x => { x with defer := x.defer.erase d }))
      (deferredDrain i d.page s) (pageKey i d.page + d.off) d.bytes := by
    rw [hdrain]
    refine memWrite_wrote 0 ?_ ?_
    · exact (hheld.holds.trans (t := holdExt s i (pageBg d.page) n) ⟨fun _ => id, fun _ => rfl, rfl⟩).holderOf_none hfree
        (Nat.le_refl _) (Nat.le_refl _)
    · exact partialUncorr_of_errs (s := s) (fun e he => by rwa [← hheld.wordErr]) hgood
  refine ⟨hwrote.readBytes, ?_, fun k hk => (hwrote.outside k hk).trans ?_⟩
  · have hdefer := congrArg (fun x => x.2.1) (hwrote.defers.same i)
    refine Eq.trans hdefer ?_
    rw [ingot_updIngot_self]
    exact congrArg (fun l : List Machine.Deferred => l.erase d) (hheld.defer i)
  · exact congrArg (fun m => Tab.get m 0#8 k) hheld.mem

/-! ## The expiry of locks (R70) -/

theorem lockExpiry_spec {i page : Nat} : (∀ l, l ∈ pageLocks ((drained (lockExpire i page s) i).ingot i) page → pcNow s < l.since + lockLife) ∧
    Tab.get ((drained (lockExpire i page s) i).ingot i).ctr 0#64 0x078 = Tab.get (s.ingot i).ctr 0#64 0x078 +
      BitVec.ofNat 64 ((pageLocks (s.ingot i) page).filter (fun l => decide (l.since + lockLife ≤ pcNow s))).length := by
  have hkeep := drained_intaken (lockExpire i page s) i
  refine ⟨fun l hl => ?_, ?_⟩
  · rcases hkeep.locks i page l (mem_locksAt_of_pageLocks hl) with hl | hl
    · have hlocks : ((lockExpire i page s).ingot i).locks =
          (keepLocks (s.ingot i) (fun pg l => pg != page || !decide (l.since + lockLife ≤ pcNow s))).locks := by
        unfold lockExpire
        dsimp only
        rw [State.countIngot, ingot_updIngot_self, ingot_updIngot_self]
      rw [locksAt, hlocks, ← locksAt] at hl
      have hyoung := (locksAt_keepLocks hl).2
      simpa using hyoung
    · have hpc : pcNow (lockExpire i page s) = pcNow s := rfl
      rw [hl, hpc]
      exact Nat.lt_add_of_pos_right (by decide)
  · rw [hkeep.ctr i (by decide)]
    unfold lockExpire
    dsimp only
    rw [State.countIngot, ingot_updIngot_self, ingot_updIngot_self]
    exact get_set_self ..

/-- Settles O28: an access alone at a bank group that serves it is performed, one that the buffer holds waits; a drain performs the
page's first ready write; what is locked as the expiry takes packets in is not old. -/
theorem externalAccessesReachTheBank : Obligations.ExternalAccessesReachTheBank := by
  intro s i bg page r d k bs e ends same
  refine ⟨fun hrun hbg hok => ⟨fun hmis => ?_, fun haligned hmode => ?_, fun haligned hmode hserves => ⟨?_, ?_, ?_, ?_⟩, ?_⟩, ?_, ?_⟩
  · exact externalAccess_runs hrun hbg (externalAccess_misaligned hok hmis)
  · exact externalAccess_runs hrun hbg (externalAccess_tripped hok haligned hmode)
  · intro hbad
    refine externalAccess_runs hrun hbg ?_
    cases hw : r.write
    · rw [hw] at hbad
      obtain ⟨hmem, hout⟩ := externalRead_ends hbg hok haligned hmode hserves hw
      rw [if_neg hbad] at hout
      exact ⟨hout, hmem⟩
    · rw [hw] at hbad
      obtain ⟨hmem, hout⟩ := externalWrite_fails hbg hok haligned hmode hserves hw hbad
      exact ⟨hout, hmem⟩
  · intro hw hgood
    obtain ⟨hmem, hout⟩ := externalRead_ends hbg hok haligned hmode hserves hw
    rw [if_pos hgood] at hout
    exact externalAccess_runs hrun hbg ⟨hout, hmem⟩
  · exact fun hw hgood hopen hfree =>
      externalAccess_runs hrun hbg (externalWrite_stores hbg hok haligned hmode hserves hw hgood hopen hfree)
  · exact fun hw hgood hlock => externalAccess_runs hrun hbg (externalWrite_defers hbg hok haligned hmode hserves hw hgood hlock)
  · intro haligned hmode hidle hstage hlost hfull
    obtain ⟨hqueue, hmem, hout⟩ := externalAccess_of_full hbg hok haligned hmode hidle hstage hlost hfull
    rw [queueOf] at hqueue
    exact externalAccess_runs hrun hbg ⟨hqueue, hmem, hout⟩
  · intro hrun hi hbusy hfind hlimit hgood hfree
    have hrow : exec (.deferredWriteDrain i page) s = execDeferredWriteDrain i page s := rfl
    exact runs_of_when hrow hrun (by simp [ingotOk, hi, hbusy]) (deferredDrain_spec hfind hlimit hgood hfree)
  · intro hrun hi
    have hrow : exec (.lockExpiry i page) s = execLockExpiry i page s := rfl
    exact runs_of_when hrow hrun (by simp [ingotOk, hi]) lockExpiry_spec

end Sys2Proof.Banks
end

section
/-! Requests of other chips at this device's memory (R22, R328 to R332, R334, R361). -/

namespace Sys2Proof.Fabric

open Sys2Proof Sys2Proof.Machine Sys2Proof.Laws Sys2Proof.Lanes Sys2Proof.Stores Sys2Proof.Serving Sys2Proof.Links Sys2Proof.Pins
open Sys2Proof.Instants

variable {s t u : State}

/-! ## What readings depend on -/

theorem memByte_of_mem (h : t.mem = s.mem) : memByte t = memByte s := funext fun k => by rw [memByte, h, memByte]

theorem readBytes_of_mem (h : t.mem = s.mem) : readBytes t = readBytes s := funext fun k => funext fun n => by
  rw [readBytes, memByte_of_mem h, readBytes]

theorem readNat_of_mem (h : t.mem = s.mem) : readNat t = readNat s := funext fun k => funext fun n => by
  rw [readNat, readBytes_of_mem h, readNat]

theorem viewBytes_of_parts (hmem : t.mem = s.mem) (hingots : t.ingots = s.ingots) : viewBytes t = viewBytes s := by
  have hbyte : viewByte t = viewByte s := funext fun k => by
    rw [viewByte, memByte_of_mem hmem, ingot_of_ingots hingots, viewByte]
  exact funext fun k => funext fun n => by rw [viewBytes, hbyte, viewBytes]

theorem outPort_of_fab (h : t.fab = s.fab) (src dest : Nat) : outPort t src dest = outPort s src dest := by
  have hmatch : isMatch t = isMatch s := funext fun p => by rw [isMatch, portState, State.port, h, isMatch, portState, State.port]
  rw [outPort, hmatch, ownChip, h, outPort, ownChip]
  simp only [routeAt, h]

/-- What a packet is sent with and where it then waits depends on the fabric's part of the state alone. -/
theorem sends_of_fab {q : Packet} (h : t.fab = s.fab) (hs : Sends q t u) : Sends q s u := by
  intro o ho
  have hsent := hs o (by rw [outPort_of_fab h, ho])
  have hstage : bulkStage t = bulkStage s := funext fun d => by rw [bulkStage, h, bulkStage]
  have hring : ringLen t = ringLen s := funext fun a => by simp only [ringLen, h]
  have hvc : nextVc t q 6 o = nextVc s q 6 o := by
    rw [nextVc, liveCoords, hring, cutMask, ownChip, h, nextVc, liveCoords, cutMask, ownChip]
  have hport : t.port o = s.port o := by rw [State.port, h, State.port]
  rwa [hstage, hport, hvc] at hsent

theorem replies_of_fab {p : Packet} {status data : Nat} (h : t.fab = s.fab) (hr : Replies p status data t u) :
    Replies p status data s u := fun q hq => sends_of_fab h (hr q hq)

theorem answer_mem (s : State) (p : Packet) (status data : Nat) : (answer s p status data).mem = s.mem :=
  (answer_only ..).same .mem (by decide)

theorem answer_still (s : State) (p : Packet) (status data : Nat) : Still s (answer s p status data) := by
  have hingots : (answer s p status data).ingots = s.ingots := (answer_only ..).same .ingots (by decide)
  exact ⟨⟨fun i => by rw [ingot_of_ingots hingots]⟩, fun i d hd _ => by rwa [ingot_of_ingots hingots] at hd⟩

/-! ## Ranges without deferred writes -/

theorem noDefer_of_not_T2 {k n : Nat} (h : isT2 k = false) : noDefer s k n = true := by
  rw [noDefer, pagesOf, if_neg (by simp [h])]
  rfl

/-- External reads of a range without deferred writes see the memory. -/
theorem viewBytes_of_noDefer {k n : Nat} (h : noDefer s k n = true) : viewBytes s k n = readBytes s k n := by
  refine List.map_congr_left fun i hi => ?_
  rw [viewByte]
  split
  · next ht =>
    obtain ⟨-, hdefer⟩ := page_of_noDefer h ht (Nat.le_add_right k i) (Nat.add_lt_add_left (List.mem_range.mp hi) k)
    dsimp only
    rw [List.filter_eq_nil_iff.mpr]
    · rfl
    · intro d hd hcover
      simp only [Bool.and_eq_true] at hcover
      exact List.any_eq_false.mp hdefer d hd hcover.1.1
  · rfl

/-! ## Tripped ingots (R76) -/

theorem extStatus_of_tripped {k n : Nat} (w : Bool) (ht : isT2 k = true) (hn : n ≠ 0) (hmode : govMode s (k / ingotSize) = 3) :
    extStatus s k n w = St.thermal := by
  have hpage : pageStatus s k n = St.thermal := by
    have hany : (pagesOf k n).any (fun p => govMode s (p / ingotSize) == 3) = true := by
      refine List.any_eq_true.mpr ⟨_, page_mem_pagesOf ht (Nat.le_refl k) (by omega), ?_⟩
      rw [(ingot_of_page k).1, hmode]
      rfl
    rw [pageStatus, hany]
    rfl
  rw [extStatus, hpage]
  rfl

/-! ## A request at its memory -/

theorem arrives_packetEnt (p : Packet) {port : Nat} (h : port < 6) : Arrives (pktOff p) (port + 1) (packetEnt p) :=
  ⟨rfl, .inr rfl, get_lt LPkt.SEAT p.hdr, by omega, rfl⟩

/-- A request that its memory serves at once is performed, in a state that differs in grants alone. -/
theorem serveAt_packet {port : Nat} {p : Packet} (hport : port < 6) (hnow : servedNow s (pktOff p) (port + 1) (packetEnt p) = true)
    (hstill : ∀ t, Slotted s t → isT2 (pktOff p) = true → slotless s (pktOff p / ingotSize) (packetEnt p) = true →
      Still t (performPacket t p)) : ∃ t, Slotted s t ∧ (serveAt s (pktOff p) (port + 1) (packetEnt p) = performPacket t p ∨
      (isT2 (pktOff p) = true ∧ govMode s (pktOff p / ingotSize) = 3 ∧
        serveAt s (pktOff p) (port + 1) (packetEnt p) = failPacket t p St.thermal)) :=
  serveAt_of_servedNow (arrives_packetEnt p hport) hnow hstill

theorem failPacket_of_single {p : Packet} (h : LPkt.TYPE.get p.hdr ≠ 5) (s : State) (st : Nat) :
    failPacket s p st = answer s p st 0 := if_neg h

section
variable {p : Packet} (hsingle : LPkt.TYPE.get p.hdr < 4)
include hsingle

theorem takeRequest_misaligned (port : Nat) (s : State) (h : misaligned (pktOff p) (pktSpan p) = true) :
    takeRequest port p s = answer s p St.addr 0 := by
  have h4 : LPkt.TYPE.get p.hdr ≠ 4 := by omega
  have h5 : LPkt.TYPE.get p.hdr ≠ 5 := by omega
  simp [takeRequest, h4, h5, h]

theorem takeRequest_refused (port : Nat) (s : State) (h : misaligned (pktOff p) (pktSpan p) = false)
    (hst : remoteStatus s p (pktWrites p) (pktOff p) (pktSpan p) ≠ St.ok) :
    takeRequest port p s = answer (noteRemote s p (remoteStatus s p (pktWrites p) (pktOff p) (pktSpan p))) p
      (remoteStatus s p (pktWrites p) (pktOff p) (pktSpan p)) 0 := by
  have h4 : LPkt.TYPE.get p.hdr ≠ 4 := by omega
  have h5 : LPkt.TYPE.get p.hdr ≠ 5 := by omega
  simp [takeRequest, h4, h5, h, hst, failPacket]

theorem takeRequest_allowed (port : Nat) (s : State) (h : misaligned (pktOff p) (pktSpan p) = false)
    (hst : remoteStatus s p (pktWrites p) (pktOff p) (pktSpan p) = St.ok) :
    takeRequest port p s = serveAt s (pktOff p) (port + 1) (packetEnt p) := by
  have h4 : LPkt.TYPE.get p.hdr ≠ 4 := by omega
  have h5 : LPkt.TYPE.get p.hdr ≠ 5 := by omega
  simp [takeRequest, h4, h5, h, hst, packetEnt]

end

theorem noteRemote_routing (s : State) (p : Packet) (st : Nat) {status data : Nat} (h : Replies p status data (noteRemote s p st) u) :
    Replies p status data s u := by
  unfold noteRemote noteRefused at h
  split at h
  · have hfab : (s.noteWindow (LPkt.SEAT.get p.hdr) st).fab = s.fab := (state_noteWindow_only ..).same .fab (by decide)
    exact replies_of_fab hfab h
  · exact h

/-- A request that its row refuses is answered with the reason and changes no memory. -/
theorem refused_ends {p : Packet} {w : Bool} (hsingle : LPkt.TYPE.get p.hdr < 4) (hw : pktWrites p = w) (port : Nat) (s : State) :
    (misaligned (pktOff p) (pktSpan p) = true →
      Replies p St.addr 0 s (takeRequest port p s) ∧ (takeRequest port p s).mem = s.mem) ∧
    (misaligned (pktOff p) (pktSpan p) = false → remoteStatus s p w (pktOff p) (pktSpan p) ≠ St.ok →
      Replies p (remoteStatus s p w (pktOff p) (pktSpan p)) 0 s (takeRequest port p s) ∧ (takeRequest port p s).mem = s.mem) := by
  subst hw
  refine ⟨fun h => ?_, fun h hst => ?_⟩
  · rw [takeRequest_misaligned hsingle port s h]
    exact ⟨replies_answer _ _ _ _, answer_mem ..⟩
  · rw [takeRequest_refused hsingle port s h hst]
    exact ⟨noteRemote_routing s p _ (replies_answer _ _ _ _), (answer_mem ..).trans ((noteRemote_only ..).same .mem (by decide))⟩

/-! ## LOAD (R330) -/

theorem performPacket_load {p : Packet} (htype : LPkt.TYPE.get p.hdr = 1) (t : State) : performPacket t p =
    answer (extRead t (pktOff p) (pktSpan p) (pktSeat p)).1 p (extRead t (pktOff p) (pktSpan p) (pktSeat p)).2.1
      (ofBytes (extRead t (pktOff p) (pktSpan p) (pktSeat p)).2.2) := by
  rw [performPacket, htype]
  exact rfl

theorem still_load {p : Packet} (htype : LPkt.TYPE.get p.hdr = 1) (hspan : pktSpan p ≠ 0) (hw : pktWrites p = false) (ht : isT2 (pktOff p) = true)
    (hs : slotless s (pktOff p / ingotSize) (packetEnt p) = true) : Still s (performPacket s p) := by
  rw [performPacket_load htype]
  refine Still.trans (extRead_still _ fun hok => ⟨ht, ?_⟩) (answer_still ..)
  have harr := arrives_packetEnt p (port := 0) (by decide)
  rcases cases_of_slotless (extKey_of_arrives harr) harr.off ht hspan (by simp [packetEnt]) hs with hbad | ⟨hw', -⟩ | ⟨-, hview⟩
  · exact absurd (extStatus_eq_ok.mp hok).1 hbad
  · rw [show (packetEnt p).req.write = pktWrites p from rfl, hw] at hw'
    exact absurd hw' Bool.false_ne_true
  · exact hview

theorem pktSize_pos (p : Packet) : pktSize p ≠ 0 := Nat.pos_iff_ne_zero.mp (Nat.two_pow_pos _)

theorem load_ends {p : Packet} {port : Nat} (hport : port < 6) (htype : LPkt.TYPE.get p.hdr = 1)
    (hnow : servedNow s (pktOff p) (port + 1) (packetEnt p) = true) :
    Replies p (extStatus s (pktOff p) (pktSpan p) false)
      (if extStatus s (pktOff p) (pktSpan p) false = St.ok then ofBytes (viewBytes s (pktOff p) (pktSpan p)) else 0) s
      (serveAt s (pktOff p) (port + 1) (packetEnt p)) ∧ (serveAt s (pktOff p) (port + 1) (packetEnt p)).mem = s.mem := by
  have hspan : pktSpan p ≠ 0 := by
    rw [pktSpan, htype]
    exact pktSize_pos p
  have hw : pktWrites p = false := by rw [pktWrites, htype]; rfl
  obtain ⟨t, ht, heq | ⟨ht2, hmode, heq⟩⟩ := serveAt_packet hport hnow fun t ht h2 hs =>
    still_load htype hspan hw h2 (by rwa [ht.slotless_eq])
  · have hread := extRead_snd t (pktOff p) (pktSpan p) (pktSeat p)
    rw [ht.extStatus_eq, ht.viewBytes_eq] at hread
    have honly := extRead_only t (pktOff p) (pktSpan p) (pktSeat p)
    rw [heq, performPacket_load htype, hread, answer_mem, honly.same .mem (by decide), ht.mem]
    refine ⟨replies_of_fab ((honly.same .fab (by decide)).trans ht.fab) ?_, rfl⟩
    split
    · next hok => rw [hok]; exact replies_answer _ _ _ _
    · exact replies_answer _ _ _ _
  · rw [heq, failPacket_of_single (by omega), extStatus_of_tripped false ht2 hspan hmode, if_neg (by decide), answer_mem, ht.mem]
    exact ⟨replies_of_fab ht.fab (replies_answer _ _ _ _), rfl⟩

/-! ## STORE (R330) -/

theorem length_pktStored {p : Packet} (htype : LPkt.TYPE.get p.hdr = 2) : (pktStored p).length = pktSpan p := by
  rw [pktStored, pktSpan, htype]
  exact length_bytesOf ..

/-- The write of a packet that its memory performs, or the answer of an ingot that has tripped. -/
theorem store_performed {p : Packet} {port : Nat} (hport : port < 6) (htype : LPkt.TYPE.get p.hdr = 2)
    (hnow : servedNow s (pktOff p) (port + 1) (packetEnt p) = true) : ∃ t, Slotted s t ∧
    (serveAt s (pktOff p) (port + 1) (packetEnt p) = answer (extWrite t (pktOff p) (pktStored p) (pktSeat p)).1 p
        (extStatus s (pktOff p) (pktSpan p) true) 0 ∨
      (extStatus s (pktOff p) (pktSpan p) true = St.thermal ∧ serveAt s (pktOff p) (port + 1) (packetEnt p) = answer t p St.thermal 0)) := by
  have hlen := length_pktStored htype
  have hspan : pktSpan p ≠ 0 := by
    rw [pktSpan, htype]
    exact pktSize_pos p
  have hperform : ∀ t, performPacket t p = answer (extWrite t (pktOff p) (pktStored p) (pktSeat p)).1 p
      (extStatus t (pktOff p) (pktSpan p) true) 0 := fun t => by
    rw [performPacket, htype]
    refine (congrArg (fun st => answer _ p st 0) (extWrite_snd ..)).trans ?_
    rw [hlen]
  obtain ⟨t, ht, heq | ⟨ht2, hmode, heq⟩⟩ := serveAt_packet hport hnow fun t ht h2 hs => by
    rw [hperform]
    refine Still.trans (extWrite_still _ fun hok => ?_) (answer_still ..)
    have harr := arrives_packetEnt p (port := 0) (by decide)
    rw [← ht.slotless_eq] at hs
    rw [hlen] at hok
    rcases cases_of_slotless (extKey_of_arrives harr) harr.off h2 hspan (by simp [packetEnt]) hs with hbad | ⟨-, hlock, -⟩ | ⟨hw, -⟩
    · exact absurd (extStatus_eq_ok.mp hok).1 hbad
    · exact hlock
    · rw [show (packetEnt p).req.write = pktWrites p from rfl, pktWrites, htype] at hw
      exact absurd hw (by decide)
  · exact ⟨t, ht, .inl (by rw [heq, hperform, ht.extStatus_eq])⟩
  · exact ⟨t, ht, .inr ⟨extStatus_of_tripped true ht2 hspan hmode, by rw [heq, failPacket_of_single (by omega)]⟩⟩

theorem extWrite_fab (s : State) (k : Nat) (bs : List Byte) (seat : Nat) : (extWrite s k bs seat).1.fab = s.fab :=
  (extWrite_only ..).same .fab (by decide)

section
variable {p : Packet} {port : Nat} (hport : port < 6) (htype : LPkt.TYPE.get p.hdr = 2)
  (hnow : servedNow s (pktOff p) (port + 1) (packetEnt p) = true)
include hport htype hnow

theorem store_fails (hbad : extStatus s (pktOff p) (pktSpan p) true ≠ St.ok) :
    Replies p (extStatus s (pktOff p) (pktSpan p) true) 0 s (serveAt s (pktOff p) (port + 1) (packetEnt p)) ∧
    (serveAt s (pktOff p) (port + 1) (packetEnt p)).mem = s.mem := by
  obtain ⟨t, ht, heq | ⟨hst, heq⟩⟩ := store_performed hport htype hnow
  · have hquiet : Quiet t (extWrite t (pktOff p) (pktStored p) (pktSeat p)).1 :=
      extWrite_fst_of_fail _ (by rw [length_pktStored htype, ht.extStatus_eq]; exact hbad)
    rw [heq, answer_mem, hquiet.mem, ht.mem]
    exact ⟨replies_of_fab ((extWrite_fab ..).trans ht.fab) (replies_answer _ _ _ _), rfl⟩
  · rw [heq, hst, answer_mem, ht.mem]
    exact ⟨replies_of_fab ht.fab (replies_answer _ _ _ _), rfl⟩

theorem store_of_ok (hgood : extStatus s (pktOff p) (pktSpan p) true = St.ok) : ∃ t, Slotted s t ∧
    extStatus t (pktOff p) (pktStored p).length true = St.ok ∧
    serveAt s (pktOff p) (port + 1) (packetEnt p) = answer (extWrite t (pktOff p) (pktStored p) (pktSeat p)).1 p St.ok 0 := by
  obtain ⟨t, ht, heq | ⟨hst, -⟩⟩ := store_performed hport htype hnow
  · rw [hgood] at heq
    exact ⟨t, ht, by rw [length_pktStored htype, ht.extStatus_eq]; exact hgood, heq⟩
  · rw [hgood] at hst
    exact absurd hst (by decide)

theorem store_stores (hgood : extStatus s (pktOff p) (pktSpan p) true = St.ok)
    (hopen : isT2 (pktOff p) = true → noDefer s (pktOff p) (pktSpan p) = true) (hfree : holderOf s (pktOff p) (pktSpan p) = none) :
    Replies p St.ok 0 s (serveAt s (pktOff p) (port + 1) (packetEnt p)) ∧
    readBytes (serveAt s (pktOff p) (port + 1) (packetEnt p)) (pktOff p) (pktSpan p) = pktStored p ∧
    ∀ j, j < pktOff p ∨ pktOff p + pktSpan p ≤ j → memByte (serveAt s (pktOff p) (port + 1) (packetEnt p)) j = memByte s j := by
  have hlen := length_pktStored htype
  have hopen' : noDefer s (pktOff p) (pktSpan p) = true := by
    cases h2 : isT2 (pktOff p)
    · exact noDefer_of_not_T2 h2
    · exact hopen h2
  obtain ⟨t, ht, hok, heq⟩ := store_of_ok hport htype hnow hgood
  have hwrote := extWrite_wrote (pktSeat p) hok (by rw [hlen, ht.noDefer_eq]; exact hopen')
    (by rw [hlen, ht.holderOf_eq]; exact hfree)
  have hread := hwrote.readBytes
  have houtside := hwrote.outside
  rw [hlen] at hread houtside
  rw [heq, readBytes_of_mem (answer_mem ..), memByte_of_mem (answer_mem ..)]
  refine ⟨replies_of_fab ((extWrite_fab ..).trans ht.fab) (replies_answer _ _ _ _), hread, fun j hj => ?_⟩
  rw [houtside j hj, memByte_of_mem ht.mem]

theorem store_defers (hgood : extStatus s (pktOff p) (pktSpan p) true = St.ok) (hlock : allLocked s (pktOff p) (pktStored p) = true) :
    Replies p St.ok 0 s (serveAt s (pktOff p) (port + 1) (packetEnt p)) ∧
    viewBytes (serveAt s (pktOff p) (port + 1) (packetEnt p)) (pktOff p) (pktSpan p) = pktStored p ∧
    (serveAt s (pktOff p) (port + 1) (packetEnt p)).mem = s.mem := by
  obtain ⟨t, ht, hok, heq⟩ := store_of_ok hport htype hnow hgood
  have hdeferred : Stores.Deferred t _ _ _ := extWrite_deferred (pktSeat p) hok (by
    rw [allLocked, ht.lockedAt_eq]
    exact hlock)
  have hview := hdeferred.viewBytes
  rw [length_pktStored htype] at hview
  rw [heq, viewBytes_of_parts (answer_mem ..) ((answer_only ..).same .ingots (by decide)), answer_mem, hdeferred.mem, ht.mem]
  exact ⟨replies_of_fab ((extWrite_fab ..).trans ht.fab) (replies_answer _ _ _ _), hview, rfl⟩

end

/-! ## ATOMIC (R331, R332) -/

theorem replies_noteArrival {p : Packet} {status data k old new' : Nat} (h : Replies p status data (noteArrival s k old new') u) :
    Replies p status data s u := by
  unfold noteArrival at h
  split at h
  · exact h
  · exact h

theorem noteArrival_mem (s : State) (k old new' : Nat) : (noteArrival s k old new').mem = s.mem :=
  (noteArrival_only ..).same .mem (by decide)

/-- The new value of an atomic's word is a word. -/
theorem atomicNew_lt {aop old data swap v : Nat} (hold : old < 2 ^ 64) (hdata : data < 2 ^ 64) (hswap : swap < 2 ^ 64)
    (h : atomicNew aop old data swap = some v) : v < 2 ^ 64 := by
  unfold atomicNew at h
  split at h
  · cases h
    exact Nat.mod_lt _ (Nat.two_pow_pos 64)
  · cases h
    exact hdata
  · split at h
    · cases h
      exact hswap
    · cases h
  · cases h
    exact Nat.or_lt_two_pow hold hdata

theorem ofBytes_lt_of_length {l : List Byte} (h : l.length = 8) : ofBytes l < 2 ^ 64 := by
  have hlt := ofBytes_lt l
  rw [h, show (256 : Nat) = 2 ^ 8 from rfl, ← pow_mul] at hlt
  exact hlt

/-- A write of an aligned word meets no word in part. -/
theorem partialUncorr_word {k : Nat} (h : k % 8 = 0) : partialUncorr s k 8 = false := by
  rw [partialUncorr, List.any_eq_false]
  intro e _
  simp only [overlaps, Bool.and_eq_true, Bool.not_eq_true', decide_eq_true_eq, Bool.and_eq_false_iff, decide_eq_false_iff_not]
  omega

/-- What counting reads leaves of an ingot's mode and channels. -/
theorem countCorr_pageStatus (s : State) (k n : Nat) (pip : Bool) : pageStatus (countCorr s k n pip) = pageStatus s := by
  have hkeep : KeepsIngots (fun x => (x.gov, x.lanes)) s (countCorr s k n pip) := by
    unfold countCorr
    refine keepsIngots_foldl (fun s w => ?_) _ s
    split
    · exact keepsIngots_updIngot s _ fun _ => rfl
    · exact keepsIngots_of_only (state_countDev_only ..) (by decide)
    · exact keepsIngots_of_only (state_countDev_only ..) (by decide)
    · exact keepsIngots_refl s
  have hmode : govMode (countCorr s k n pip) = govMode s := funext fun i => by
    have hgov := congrArg Prod.fst (hkeep.same i)
    exact congrArg LGovSt.MODE.get hgov
  have hlost : chanLost (countCorr s k n pip) = chanLost s := funext fun i => funext fun bg => by
    have hlanes := congrArg Prod.snd (hkeep.same i)
    exact congrArg (fun l => LLaneSt.LOST.on (Tab.get l laneReset (bg % 96))) hlanes
  exact funext fun j => funext fun m => by rw [pageStatus, hmode, hlost, pageStatus]

theorem atomicAt_of_fail {k seat aop data swap : Nat} (h : extStatus s k 8 false ≠ St.ok) : ∃ t, Quiet s t ∧ t.fab = s.fab ∧
    atomicAt s k seat aop data swap = (t, extStatus s k 8 false, 0) := by
  unfold atomicAt
  dsimp only
  rw [if_pos h]
  split
  · exact ⟨_, noteUncorr_quiet .., (noteUncorr_only ..).same .fab (by decide), rfl⟩
  · exact ⟨s, quiet_refl s, rfl, rfl⟩

/-- An atomic whose word has no deferred writes and no locks. -/
theorem atomicAt_of_ok {k seat aop data swap : Nat} (h : extStatus s k 8 false = St.ok) (hopen : noDefer s k 8 = true)
    (hfree : holderOf s k 8 = none) (halign : k % 8 = 0) (hdata : data < 2 ^ 64) (hswap : swap < 2 ^ 64) :
    ∃ t, atomicAt s k seat aop data swap = (t, St.ok, readNat s k 8) ∧
      (∀ p status x u, Replies p status x t u → Replies p status x s u) ∧
      readNat t k 8 = (atomicNew aop (readNat s k 8) data swap).getD (readNat s k 8) ∧
      ∀ j, j < k ∨ k + 8 ≤ j → memByte t j = memByte s j := by
  have hview : ofBytes (viewBytes s k 8) = readNat s k 8 := by rw [viewBytes_of_noDefer hopen, readNat]
  have hlocked : lockedAt s k = false := lockedAt_of_unlocked (unlocked_of_noDefer hopen (Nat.le_refl k) (by omega))
  unfold atomicAt
  dsimp only
  rw [h, if_neg (by decide), if_neg (not_not_intro rfl), hview]
  cases hnew : atomicNew aop (readNat s k 8) data swap with
  | none =>
    have honly := noteCorr_only s k 8 false
    have hmem : (noteCorr s k 8 false).mem = s.mem := honly.same .mem (by decide)
    refine ⟨_, rfl, fun p status x u hr => replies_of_fab (honly.same .fab (by decide)) hr, ?_, fun j _ => by rw [memByte_of_mem hmem]⟩
    rw [readNat, readBytes_of_mem hmem]
    rfl
  | some v =>
    have hquiet := countCorr_quiet s k 8 false
    have honly := countCorr_only s k 8 false
    have hstatus : extStatus (countCorr s k 8 false) k (bytesOf v 8).length true = St.ok := by
      rw [length_bytesOf, extStatus_eq_ok, if_pos rfl, partialUncorr_word halign, Bool.false_and]
      refine ⟨?_, rfl⟩
      rw [countCorr_pageStatus]
      exact (extStatus_eq_ok.mp h).1
    have hwrote := extWrite_wrote seat hstatus (by rw [length_bytesOf, noDefer_of_defers hquiet.defers]; exact hopen)
      (by rw [length_bytesOf]; exact hquiet.holds.holderOf_none hfree (Nat.le_refl _) (Nat.le_refl _))
    have hv : v < 256 ^ 8 := by
      have hlt := atomicNew_lt (ofBytes_lt_of_length (length_readBytes s k 8)) hdata hswap hnew
      rwa [show (256 : Nat) ^ 8 = 2 ^ 64 by norm_num]
    have hread := hwrote.readBytes
    have houtside := hwrote.outside
    rw [length_bytesOf] at hread houtside
    rw [hlocked]
    simp only [Bool.false_eq_true, if_false]
    rw [extWrite_snd, hstatus]
    have hfab : (extWrite (countCorr s k 8 false) k (bytesOf v 8) seat).1.fab = s.fab :=
      (extWrite_fab ..).trans (honly.same .fab (by decide))
    have hfinal : ∀ t, t.mem = (extWrite (countCorr s k 8 false) k (bytesOf v 8) seat).1.mem →
        readNat t k 8 = (some v).getD (readNat s k 8) ∧ ∀ j, j < k ∨ k + 8 ≤ j → memByte t j = memByte s j := by
      intro t hmem
      refine ⟨?_, fun j hj => ?_⟩
      · rw [readNat, readBytes_of_mem hmem, hread, ofBytes_bytesOf, Nat.mod_eq_of_lt hv]
        rfl
      · rw [memByte_of_mem hmem, houtside j hj, memByte_of_mem hquiet.mem]
    split
    · exact ⟨_, rfl, fun p status x u hr => replies_of_fab hfab (replies_noteArrival hr), hfinal _ (noteArrival_mem ..)⟩
    · exact ⟨_, rfl, fun p status x u hr => replies_of_fab hfab hr, hfinal _ rfl⟩

/-- What an ATOMIC of a packet leaves and answers. -/
def atomicOf (s : State) (p : Packet) : State × Nat × Nat :=
  atomicAt s (pktOff p) (pktSeat p) (LPkt.AOP.get p.hdr) (LPkt.DATA.get p.hdr) (ofBytes (pktBytes p 8))

section
variable {p : Packet} {port : Nat} (hport : port < 6) (htype : LPkt.TYPE.get p.hdr = 3)
  (hnow : servedNow s (pktOff p) (port + 1) (packetEnt p) = true)
include htype

theorem performPacket_atomic (t : State) : performPacket t p = answer (atomicOf t p).1 p (atomicOf t p).2.1 (atomicOf t p).2.2 := by
  rw [performPacket, htype]
  exact rfl

theorem pktSpan_atomic : pktSpan p = 8 := by
  rw [pktSpan, htype]
  exact rfl

theorem entBytes_atomic : entBytes (packetEnt p) = bytesOf 0 8 := by
  have hstored : pktStored p = bytesOf 0 8 := by
    rw [pktStored, htype]
    exact rfl
  exact hstored

include hport hnow

/-- Only an ATOMIC that succeeds where the buffer holds its word could leave a bank group changed. -/
theorem atomic_performed (hpage : extStatus s (pktOff p) 8 false = St.ok → noDefer s (pktOff p) 8 = true) : ∃ t, Slotted s t ∧
    (serveAt s (pktOff p) (port + 1) (packetEnt p) = performPacket t p ∨
      (extStatus s (pktOff p) 8 false = St.thermal ∧ serveAt s (pktOff p) (port + 1) (packetEnt p) = answer t p St.thermal 0)) := by
  have hspan : (packetEnt p).req.len = 8 := pktSpan_atomic htype
  obtain ⟨t, ht, heq | ⟨ht2, hmode, heq⟩⟩ := serveAt_packet hport hnow fun t ht h2 hs => by
    rw [performPacket_atomic htype]
    refine Still.trans ?_ (answer_still ..)
    have hbad : extStatus t (pktOff p) 8 false ≠ St.ok := fun hok => by
      have harr := arrives_packetEnt p (port := 0) (by decide)
      rw [ht.extStatus_eq] at hok
      have hopen := hpage hok
      rcases cases_of_slotless (extKey_of_arrives harr) harr.off h2 (by rw [hspan]; decide) (by simp [packetEnt]) hs with
        hbad | ⟨-, hlock, -⟩ | ⟨hw, -⟩
      · exact hbad (by rw [hspan]; exact (extStatus_eq_ok.mp hok).1)
      · have hfirst := List.all_eq_true.mp hlock (pktOff p, (bytesOf 0 8).take (64 - pktOff p % 64)) (by
          rw [entBytes_atomic htype, piecesOf,
            show (bytesOf 0 8).length / 64 + 2 = 1 + 1 from rfl, pieces_succ _ _ _ (by decide)]
          exact List.mem_cons_self)
        rw [(page_of_noDefer hopen h2 (Nat.le_refl _) (by omega)).1] at hfirst
        exact absurd hfirst Bool.false_ne_true
      · rw [show (packetEnt p).req.write = pktWrites p from rfl, pktWrites, htype] at hw
        exact absurd hw (by decide)
    obtain ⟨v, hquiet, -, heq⟩ := atomicAt_of_fail (seat := pktSeat p) (aop := LPkt.AOP.get p.hdr) (data := LPkt.DATA.get p.hdr)
      (swap := ofBytes (pktBytes p 8)) hbad
    rw [atomicOf, heq]
    exact still_of_defers hquiet.defers
  · exact ⟨t, ht, .inl heq⟩
  · exact ⟨t, ht, .inr ⟨extStatus_of_tripped false ht2 (by decide) hmode, by rw [heq, failPacket_of_single (by omega)]⟩⟩

theorem atomic_fails (hbad : extStatus s (pktOff p) 8 false ≠ St.ok) :
    Replies p (extStatus s (pktOff p) 8 false) 0 s (serveAt s (pktOff p) (port + 1) (packetEnt p)) ∧
    (serveAt s (pktOff p) (port + 1) (packetEnt p)).mem = s.mem := by
  obtain ⟨t, ht, heq | ⟨hst, heq⟩⟩ := atomic_performed hport htype hnow fun hok => absurd hok hbad
  · obtain ⟨v, hquiet, hfab, hat⟩ := atomicAt_of_fail (s := t) (seat := pktSeat p) (aop := LPkt.AOP.get p.hdr)
      (data := LPkt.DATA.get p.hdr) (swap := ofBytes (pktBytes p 8)) (by rw [ht.extStatus_eq]; exact hbad)
    rw [heq, performPacket_atomic htype, atomicOf, hat, answer_mem, hquiet.mem, ht.mem, ht.extStatus_eq]
    exact ⟨replies_of_fab (hfab.trans ht.fab) (replies_answer _ _ _ _), rfl⟩
  · rw [heq, hst, answer_mem, ht.mem]
    exact ⟨replies_of_fab ht.fab (replies_answer _ _ _ _), rfl⟩

theorem atomic_stores (halign : misaligned (pktOff p) 8 = false) (hgood : extStatus s (pktOff p) 8 false = St.ok)
    (hopen : isT2 (pktOff p) = true → noDefer s (pktOff p) 8 = true) (hfree : holderOf s (pktOff p) 8 = none) :
    Replies p St.ok (readNat s (pktOff p) 8) s (serveAt s (pktOff p) (port + 1) (packetEnt p)) ∧
    readNat (serveAt s (pktOff p) (port + 1) (packetEnt p)) (pktOff p) 8 =
      (atomicNew (LPkt.AOP.get p.hdr) (readNat s (pktOff p) 8) (LPkt.DATA.get p.hdr) (ofBytes (pktBytes p 8))).getD
        (readNat s (pktOff p) 8) ∧
    ∀ j, j < pktOff p ∨ pktOff p + 8 ≤ j → memByte (serveAt s (pktOff p) (port + 1) (packetEnt p)) j = memByte s j := by
  have hopen' : noDefer s (pktOff p) 8 = true := by
    cases h2 : isT2 (pktOff p)
    · exact noDefer_of_not_T2 h2
    · exact hopen h2
  obtain ⟨t, ht, heq | ⟨hst, -⟩⟩ := atomic_performed hport htype hnow fun _ => hopen'
  · have hread : readNat t (pktOff p) 8 = readNat s (pktOff p) 8 := by rw [readNat, readBytes_of_mem ht.mem, readNat]
    obtain ⟨v, hat, hreply, hnew, houtside⟩ := atomicAt_of_ok (s := t) (seat := pktSeat p) (aop := LPkt.AOP.get p.hdr)
      (data := LPkt.DATA.get p.hdr) (swap := ofBytes (pktBytes p 8)) (by rw [ht.extStatus_eq]; exact hgood)
      (by rw [ht.noDefer_eq]; exact hopen') (by rw [ht.holderOf_eq]; exact hfree) (by simpa [misaligned] using halign)
      (get_lt LPkt.DATA p.hdr) (ofBytes_lt_of_length (by simp [pktBytes]))
    rw [hread] at hat hnew
    rw [heq, performPacket_atomic htype, atomicOf, hat, readNat_of_mem (answer_mem ..), memByte_of_mem (answer_mem ..)]
    refine ⟨replies_of_fab ht.fab (hreply _ _ _ _ (replies_answer _ _ _ _)), hnew, fun j hj => ?_⟩
    rw [houtside j hj, memByte_of_mem ht.mem]
  · rw [hgood] at hst
    exact absurd hst (by decide)

end

/-! ## The rows -/

theorem packetRow_runs {i : Instr} {type port : Nat} {p : Packet} {wait : State → Bool} {f : State → State} {P : State → Prop}
    (hrow : exec i s = packetRow type port p wait f s) (hrun : running .link s = true) (harr : arrives s port p = true)
    (hgood : pktBad p = false) (htype : LPkt.TYPE.get p.hdr = type) (hwait : wait s = false) (h : P (f (received s port))) : Runs i s P := by
  refine runs_of_when hrow hrun (by simp [harr, htype, hwait]) ?_
  rw [if_neg (by rw [hgood]; exact Bool.false_ne_true)]
  exact h

theorem received_only (s : State) (port : Nat) : OnlyChanges [.fab] s (received s port) := only_step (state_countPort_only ..) rfl
  (only_step (state_updPort_only ..) rfl (only_refl _ s))

theorem received_mem (s : State) (port : Nat) : (received s port).mem = s.mem := (received_only ..).same .mem (by decide)

theorem extStatus_received (s : State) (port : Nat) : extStatus (received s port) = extStatus s := rfl

theorem viewBytes_received (s : State) (port : Nat) : viewBytes (received s port) = viewBytes s := rfl

theorem noDefer_received (s : State) (port : Nat) : noDefer (received s port) = noDefer s := rfl

theorem allLocked_received (s : State) (port : Nat) : allLocked (received s port) = allLocked s := rfl

theorem holderOf_received (s : State) (port : Nat) : holderOf (received s port) = holderOf s := rfl

theorem readNat_received (s : State) (port : Nat) : readNat (received s port) = readNat s := rfl

theorem port_of_arrives {port : Nat} {p : Packet} (h : arrives s port p = true) : port < 6 := by
  simp only [arrives, Bool.and_eq_true, decide_eq_true_eq] at h
  exact h.1.1

/-- Settles O20: a request is refused where its form or its windows are, and else performed where its memory serves it. -/
theorem fabricLoadStoreAtomicPerform : Obligations.FabricLoadStoreAtomicPerform := by
  intro s port p hrun harr hgood hwait r k n bs old ends refused now'
  have hport := port_of_arrives harr
  have hrefused : ∀ (i : Instr) (type : Nat) (w : Bool), LPkt.TYPE.get p.hdr = type → type < 4 → pktWrites p = w →
      exec i s = packetRow type port p (flowWaits p none) (takeRequest port p) s → refused i w := by
    rintro i type w htype hlt rfl hrow
    obtain ⟨hmis, hst⟩ := refused_ends (p := p) (w := pktWrites p) (by omega) rfl port r
    have hmem := received_mem s port
    refine ⟨fun h => packetRow_runs hrow hrun harr hgood htype hwait ?_, fun h h' => packetRow_runs hrow hrun harr hgood htype hwait ?_⟩
    · exact ⟨(hmis h).1, (hmis h).2.trans hmem⟩
    · exact ⟨(hst h h').1, (hst h h').2.trans hmem⟩
  have hdone : ∀ (i : Instr) (type : Nat) (w : Bool) (P : State → Prop), LPkt.TYPE.get p.hdr = type → type < 4 → pktWrites p = w →
      exec i s = packetRow type port p (flowWaits p none) (takeRequest port p) s → now' w →
      P (serveAt r (pktOff p) (port + 1) (packetEnt p)) → Runs i s P := by
    rintro i type w P htype hlt rfl hrow hnow h
    refine packetRow_runs hrow hrun harr hgood htype hwait ?_
    rw [takeRequest_allowed (by omega) port _ hnow.1 hnow.2.1]
    exact h
  refine ⟨fun htype => ?_, fun htype => ?_, fun htype => ?_⟩
  · have hw : pktWrites p = false := by rw [pktWrites, htype]; rfl
    have hrow : exec (.fabricLoad port p) s = execFabricLoad port p s := rfl
    refine ⟨hrefused _ 1 false htype (by decide) hw hrow, fun hnow => ?_⟩
    obtain ⟨hreply, hmem⟩ := load_ends hport htype hnow.2.2
    rw [extStatus_received, viewBytes_received] at hreply
    refine ⟨fun hok => hdone _ 1 false _ htype (by decide) hw hrow hnow ⟨?_, hmem.trans (received_mem s port)⟩,
      fun hbad => hdone _ 1 false _ htype (by decide) hw hrow hnow ⟨?_, hmem.trans (received_mem s port)⟩⟩
    · rw [if_pos hok, show extStatus s (pktOff p) (pktSpan p) false = St.ok from hok] at hreply
      exact hreply
    · rw [if_neg hbad] at hreply
      exact hreply
  · have hw : pktWrites p = true := by rw [pktWrites, htype]; rfl
    have hrow : exec (.fabricStore port p) s = execFabricStore port p s := rfl
    refine ⟨hrefused _ 2 true htype (by decide) hw hrow, fun hnow => ⟨fun hbad => ?_, fun hok hopen hfree => ?_, fun hok _ hlock => ?_⟩⟩
    · obtain ⟨hreply, hmem⟩ := store_fails hport htype hnow.2.2 (by rw [extStatus_received]; exact hbad)
      rw [extStatus_received] at hreply
      exact hdone _ 2 true _ htype (by decide) hw hrow hnow ⟨hreply, hmem.trans (received_mem s port)⟩
    · obtain ⟨hreply, hread, houtside⟩ := store_stores hport htype hnow.2.2 (by rw [extStatus_received]; exact hok)
        (by rw [noDefer_received]; exact hopen) (by rw [holderOf_received]; exact hfree)
      rw [memByte_of_mem (received_mem s port)] at houtside
      exact hdone _ 2 true _ htype (by decide) hw hrow hnow ⟨hreply, hread, houtside⟩
    · obtain ⟨hreply, hview, hmem⟩ := store_defers hport htype hnow.2.2 (by rw [extStatus_received]; exact hok)
        (by rw [allLocked_received]; exact hlock)
      exact hdone _ 2 true _ htype (by decide) hw hrow hnow ⟨hreply, hview, hmem.trans (received_mem s port)⟩
  · have hw : pktWrites p = true := by rw [pktWrites, htype]; rfl
    have hspan := pktSpan_atomic htype
    have hrow : exec (.fabricAtomic port p) s = execFabricAtomic port p s := rfl
    refine ⟨hrefused _ 3 true htype (by decide) hw hrow, fun hnow => ⟨fun hbad => ?_, fun hok hopen hfree => ?_⟩⟩
    · obtain ⟨hreply, hmem⟩ := atomic_fails hport htype hnow.2.2 (by rw [extStatus_received]; exact hbad)
      rw [extStatus_received] at hreply
      exact hdone _ 3 true _ htype (by decide) hw hrow hnow ⟨hreply, hmem.trans (received_mem s port)⟩
    · have halign := hnow.1
      rw [show n = 8 from hspan] at halign
      obtain ⟨hreply, hnew, houtside⟩ := atomic_stores hport htype hnow.2.2 halign (by rw [extStatus_received]; exact hok)
        (by rw [noDefer_received]; exact hopen) (by rw [holderOf_received]; exact hfree)
      rw [readNat_received] at hreply hnew
      rw [memByte_of_mem (received_mem s port)] at houtside
      exact hdone _ 3 true _ htype (by decide) hw hrow hnow ⟨hreply, hnew, houtside⟩

end Sys2Proof.Fabric
end

section
/-! Accesses over the Avkin link (R20 to R23, R66 to R72, R330, R384), and what requests that leave do to their unit's numbers. -/

namespace Sys2Proof.Fabric

open Sys2Proof Sys2Proof.Machine Sys2Proof.Laws Sys2Proof.Lanes Sys2Proof.Stores Sys2Proof.Serving Sys2Proof.Links Sys2Proof.Pins
open Sys2Proof.Instants

variable {s t u : State}

/-! ## Requests that end -/

theorem emit_foldl_fab {α : Type} (f : α → Out) (l : List α) (s : State) : (l.foldl (fun s a => s.emit (f a)) s).fab = s.fab := by
  induction l generalizing s with
  | nil => rfl
  | cons a l ih => rw [List.foldl_cons, ih, emit_fab]

theorem settleFences_fab (s : State) : (settleFences s).fab =
    { s.fab with fences := s.fab.fences.filter (fun f => s.fab.outstanding.any (fun r => r.unit == f.unit)) } := by
  unfold settleFences
  exact emit_foldl_fab (fun f : FenceX => .done f.unit 0x10000 f.status []) _ _

/-- The end of a request takes it off the list, and touches fences and collective steps beside. -/
theorem completeReq_fab (s : State) (r : FabReq) (status : Nat) (data : List Byte) : ∃ fences coll,
    (completeReq s r status data).fab = { s.fab with outstanding := s.fab.outstanding.erase r, fences := fences, coll := coll } := by
  unfold completeReq
  extract_lets fences f1 s1 s2
  have hfab : s2.fab = s1.fab := by
    unfold s2
    split
    · split
      · rfl
      · exact (lostTiles_only ..).same .fab (by decide)
    · split
      · exact (jobDone_only ..).same .fab (by decide)
      · exact (jobFail_only ..).same .fab (by decide)
  rw [settleFences_fab, emit_fab, hfab]
  exact ⟨_, _, rfl⟩

/-- What the issue of further requests reads: the flows' next numbers and what waits to be issued. -/
def flowsOf (s : State) : Tab Nat × List HeldReq := (s.fab.seqs, s.fab.held)

theorem completeReq_flows (s : State) (r : FabReq) (status : Nat) (data : List Byte) :
    flowsOf (completeReq s r status data) = flowsOf s := by
  obtain ⟨fences, coll, hfab⟩ := completeReq_fab s r status data
  rw [flowsOf, hfab, flowsOf]

theorem sendPacket_flows (s : State) (q : Packet) : flowsOf (sendPacket s q) = flowsOf s := by
  unfold sendPacket
  split
  · split <;> rfl
  · split <;> rfl

theorem dropPacket_flows (s : State) (port : Nat) (p : Packet) (status : Nat) : flowsOf (dropPacket s port p status) = flowsOf s := by
  unfold dropPacket
  dsimp only
  split
  · split
    · exact completeReq_flows ..
    · rfl
  · unfold answer
    split
    · exact sendPacket_flows ..
    · rfl

theorem admitBulk_flows (s : State) (d : Nat) : flowsOf (admitBulk s d) = flowsOf s := by
  unfold admitBulk
  split
  · rfl
  · split
    · rfl
    · dsimp only
      split
      · rfl
      · exact dropPacket_flows ..

theorem launchPacket_flows (s : State) (out : Nat) (p : Packet) : flowsOf (launchPacket s out p) = flowsOf s := by
  unfold launchPacket
  split
  · exact admitBulk_flows ..
  · rfl

/-- A request that leaves its unit changes no number of a flow, and nothing that waits to be issued. -/
theorem launch_flows (s : State) (h : HeldReq) : flowsOf (launch s h) = flowsOf s := by
  have hnoted : flowsOf (noted s h) = flowsOf s := by
    unfold noted
    split <;> rfl
  rw [launch_eq]
  split
  · exact (launchPacket_flows ..).trans hnoted
  · split
    · exact (completeReq_flows ..).trans hnoted
    · exact hnoted

/-- An issue takes the flow's next number. -/
theorem issueAs_seq (s : State) (serves : Option Job) (tracked : Bool) (span unit dest cls seat : Nat) (posted : Bool)
    (dst left : Nat) (mk : List (Fld × Nat)) (payload : BitVec 4096) :
    Tab.get (issueAs s serves tracked span unit dest cls seat posted dst left mk payload).fab.seqs 0 (seqSlot unit dest cls) =
      (Tab.get s.fab.seqs 0 (seqSlot unit dest cls) + 1) % 65536 := by
  rw [issueAs_eq]
  split
  · have hseqs : (launch (numbered s unit dest cls)
        (reqOf s serves tracked span unit dest cls seat posted dst left mk payload)).fab.seqs =
        (numbered s unit dest cls).fab.seqs :=
      congrArg Prod.fst (launch_flows (numbered s unit dest cls)
        (reqOf s serves tracked span unit dest cls seat posted dst left mk payload))
    rw [hseqs]
    exact get_set_self ..
  · exact get_set_self ..

/-- A unit whose requests may not be issued now adds them to what waits. -/
theorem issueAs_of_held {s : State} {unit dest cls : Nat} {posted : Bool} (h : mayIssue s unit dest cls posted = false)
    (serves : Option Job) (tracked : Bool) (span seat dst left : Nat) (mk : List (Fld × Nat)) (payload : BitVec 4096) :
    (issueAs s serves tracked span unit dest cls seat posted dst left mk payload).fab =
      { (numbered s unit dest cls).fab with
        held := s.fab.held ++ [reqOf s serves tracked span unit dest cls seat posted dst left mk payload] } := by
  have hmay : mayIssue (numbered s unit dest cls) unit dest cls posted = false := h
  rw [issueAs_eq, hmay, Bool.false_and, if_neg Bool.false_ne_true]
  rfl

/-! ## An access that leaves for another chip (R21, R330) -/

/-- One part of an access leaves as a request of the Avkin unit. -/
def forwardPart (n chip off : Nat) (write : Bool) (data : BitVec 512) (s : State) (e : Nat × Nat) : State :=
  issue s avkinUnit chip 3 n write 0 0 [(LPkt.TYPE, if write then 2 else 1), (LPkt.SIZE, e.2), (LPkt.ADDR, off + e.1),
    (LPkt.DATA, if write then (data.extractLsb' (8 * e.1) 64).toNat % 256 ^ (2 ^ e.2) else 0)] 0#4096

theorem foldl_forwardPart_seq {n chip off : Nat} {write : Bool} {data : BitVec 512} (l : List (Nat × Nat)) (hl : l ≠ []) (s : State) :
    Tab.get (l.foldl (forwardPart n chip off write data) s).fab.seqs 0 (seqSlot avkinUnit chip 3) =
      (Tab.get s.fab.seqs 0 (seqSlot avkinUnit chip 3) + l.length) % 65536 := by
  induction l generalizing s with
  | nil => exact absurd rfl hl
  | cons e l ih =>
    have hfirst : Tab.get (forwardPart n chip off write data s e).fab.seqs 0 (seqSlot avkinUnit chip 3) =
        (Tab.get s.fab.seqs 0 (seqSlot avkinUnit chip 3) + 1) % 65536 := issueAs_seq ..
    rw [List.foldl_cons, List.length_cons]
    by_cases hne : l = []
    · subst hne
      exact hfirst
    · rw [ih hne, hfirst]
      omega

theorem foldl_forwardPart_held {n chip off : Nat} {write : Bool} {data : BitVec 512} (l : List (Nat × Nat)) {s : State}
    (h : mayIssue s avkinUnit chip 3 write = false) :
    (l.foldl (forwardPart n chip off write data) s).fab.held.length = s.fab.held.length + l.length ∧
    (l.foldl (forwardPart n chip off write data) s).fab.outstanding = s.fab.outstanding := by
  induction l generalizing s with
  | nil => exact ⟨rfl, rfl⟩
  | cons e l ih =>
    have hfab : (forwardPart n chip off write data s e).fab = _ := issueAs_of_held h none true 1 n 0 0 _ _
    have hmay : mayIssue (forwardPart n chip off write data s e) avkinUnit chip 3 write = false := by
      rw [mayIssue, hfab]
      exact h
    obtain ⟨hheld, hout⟩ := ih hmay
    rw [List.foldl_cons, hheld, hout, hfab, List.length_append, List.length_singleton, List.length_cons]
    exact ⟨by omega, rfl⟩

theorem loadParts_ne_nil {off len : Nat} (h : len ≠ 0) : loadParts off len ≠ [] := by
  unfold loadParts
  split
  · next h8 =>
    simp only [Bool.and_eq_true, decide_eq_true_eq, beq_iff_eq] at h8
    simp only [ne_eq, List.map_eq_nil_iff, List.range_eq_nil]
    omega
  · split
    · simp
    · split
      · simp
      · simpa using h

/-! ## Rows of the Avkin link -/

theorem avkinRead_runs {n len : Nat} {a : W64} {P : State → Prop} (hrun : running .power s = true) (hup : avkinUp s = true) (hn : n < 64)
    (h : P (avkinRead n a.toNat len s)) : Runs (.avkinAccess n (.read a len)) s P := by
  have hrow : exec (.avkinAccess n (.read a len)) s = avkinRow n (avkinRead n a.toNat len) s := rfl
  exact runs_of_when hrow hrun (by simp [hup, hn]) h

theorem avkinWrite_runs {n len : Nat} {a : W64} {data : BitVec 512} {P : State → Prop} (hrun : running .power s = true)
    (hup : avkinUp s = true) (hn : n < 64) (hlen : len ≤ 64) (h : P (avkinWrite n a.toNat len data s)) :
    Runs (.avkinAccess n (.write a len data)) s P := by
  have hrow : exec (.avkinAccess n (.write a len data)) s =
      avkinRow n (when (fun s => decide (len ≤ 64) || (ctlAddr s a.toNat).isSome) (avkinWrite n a.toNat len data)) s := rfl
  refine runs_of_when hrow hrun (by simp [hup, hn]) ?_
  rw [when, if_pos (by simp [hlen])]
  exact h

/-- An access before READY, or of no bytes, reaches nothing (R20, R435). -/
theorem len_of_memStatus {n a len : Nat} {w : Bool} (h : memStatus s n w a len = St.ok) : len ≠ 0 := by
  rintro rfl
  simp [memStatus, St.addr, St.ok] at h

/-- What an access of the Avkin link brings to its memory. -/
def avkinEnt (n k len : Nat) (write : Bool) (data : BitVec 512) : ExtEnt :=
  ⟨⟨2, n, k % ingotSize, len, write, data⟩, .avkin, cdiv len 64⟩

/-- A refused access is answered with the reason. -/
theorem refused_avkin (s : State) (n : Nat) (w : Bool) (a len : Nat) :
    ((noteOutside s n w a len (memStatus s n w a len)).emit (.avkin (memStatus s n w a len) [])).out =
      .avkin (memStatus s n w a len) [] :: s.out ∧
    OnlyChanges [.seats, .out] s ((noteOutside s n w a len (memStatus s n w a len)).emit (.avkin (memStatus s n w a len) [])) := by
  refine ⟨?_, only_step (state_emit_only ..) rfl (only_step (noteOutside_only ..) rfl (only_refl _ s))⟩
  rw [emit_out, (noteOutside_only ..).same .out (by decide)]

theorem avkinRead_of_refused {n a len : Nat} (hctl : ctlAddr s a = none) (h : memStatus s n false a len ≠ St.ok) :
    avkinRead n a len s = (noteOutside s n false a len (memStatus s n false a len)).emit (.avkin (memStatus s n false a len) []) := by
  unfold avkinRead
  rw [hctl]
  exact if_pos h

theorem avkinWrite_of_refused {n a len : Nat} {data : BitVec 512} (hctl : ctlAddr s a = none) (h : memStatus s n true a len ≠ St.ok) :
    avkinWrite n a len data s = (noteOutside s n true a len (memStatus s n true a len)).emit (.avkin (memStatus s n true a len) []) := by
  unfold avkinWrite
  rw [hctl]
  exact if_pos h

theorem tierOf_of_chip {a chip off : Nat} (h : placeOf s a = .chip chip off) : tierOf s a = 3 := by rw [tierOf, h]

theorem avkinRead_of_served {n a len : Nat} (hctl : ctlAddr s a = none) (h : memStatus s n false a len = St.ok) (htier : tierOf s a ≠ 3) :
    avkinRead n a len s = serveAt s (keyOf s a) 0 (avkinEnt n (keyOf s a) len false 0#512) := by
  unfold avkinRead
  rw [hctl]
  dsimp only
  rw [if_neg (not_not_intro h)]
  split
  · next hplace => exact absurd (tierOf_of_chip hplace) htier
  · rfl

theorem avkinWrite_of_served {n a len : Nat} {data : BitVec 512} (hctl : ctlAddr s a = none) (h : memStatus s n true a len = St.ok)
    (htier : tierOf s a ≠ 3) : avkinWrite n a len data s = serveAt s (keyOf s a) 0 (avkinEnt n (keyOf s a) len true data) := by
  unfold avkinWrite
  rw [hctl]
  dsimp only
  rw [if_neg (not_not_intro h)]
  split
  · next hplace => exact absurd (tierOf_of_chip hplace) htier
  · rfl

theorem avkinRead_of_chip {n a len chip off : Nat} (hctl : ctlAddr s a = none) (h : memStatus s n false a len = St.ok)
    (hplace : placeOf s a = .chip chip off) : avkinRead n a len s = avkinForward s n chip off len false 0#512 := by
  unfold avkinRead
  rw [hctl]
  dsimp only
  rw [if_neg (not_not_intro h), hplace]

theorem avkinWrite_of_chip {n a len chip off : Nat} {data : BitVec 512} (hctl : ctlAddr s a = none)
    (h : memStatus s n true a len = St.ok) (hplace : placeOf s a = .chip chip off) :
    avkinWrite n a len data s = avkinForward s n chip off len true data := by
  unfold avkinWrite
  rw [hctl]
  dsimp only
  rw [if_neg (not_not_intro h), hplace]

/-! ## An access that its memory serves at once -/

section
variable {n k len : Nat} {w : Bool} {data : BitVec 512} (hn : n < 64) (hlen : len ≠ 0)
  (hnow : servedNow s k 0 (avkinEnt n k len w data) = true)
include hn hlen hnow

/-- Such an access is performed, or answered by the ingot that has tripped. -/
theorem serveAt_avkin : ∃ t, Slotted s t ∧ (serveAt s k 0 (avkinEnt n k len w data) = performEnt t k (avkinEnt n k len w data) ∨
    (extStatus s k len w = St.thermal ∧ serveAt s k 0 (avkinEnt n k len w data) = t.emit (.avkin St.thermal []))) := by
  have harr : Arrives k 0 (avkinEnt n k len w data) := ⟨rfl, .inl rfl, hn, by decide, rfl⟩
  obtain ⟨t, ht, heq | ⟨h2, hmode, heq⟩⟩ := serveAt_of_servedNow harr hnow fun t ht h2 hs => by
    refine (interface_avkin (avkinEnt n k len w data).req (k / ingotSize) (cdiv len 64)).still (extKey_of_arrives harr) harr.off h2 hlen ?_
    rw [ht.slotless_eq]
    exact hs
  · exact ⟨t, ht, .inl heq⟩
  · exact ⟨t, ht, .inr ⟨extStatus_of_tripped w h2 hlen hmode, heq⟩⟩

end

section
variable {n k len : Nat} {data : BitVec 512} (hn : n < 64) (hlen : len ≠ 0)
include hn hlen

theorem avkinRead_ends (hnow : servedNow s k 0 (avkinEnt n k len false data) = true) :
    (serveAt s k 0 (avkinEnt n k len false data)).mem = s.mem ∧
    (serveAt s k 0 (avkinEnt n k len false data)).out.head? = some (.avkin (extStatus s k len false)
      (if extStatus s k len false = St.ok then viewBytes s k len else [])) := by
  obtain ⟨t, ht, heq | ⟨hst, heq⟩⟩ := serveAt_avkin hn hlen hnow
  · have hperform : performEnt t k (avkinEnt n k len false data) = (extRead t k len n).1.emit
        (.avkin (extRead t k len n).2.1 (extRead t k len n).2.2) :=
      (interface_avkin (avkinEnt n k len false data).req (k / ingotSize) (cdiv len 64)).read rfl t k rfl
    have hread := extRead_snd t k len n
    rw [ht.extStatus_eq, ht.viewBytes_eq] at hread
    rw [heq, hperform, emit_mem, emit_out, List.head?_cons]
    refine ⟨((extRead_only t k len n).same .mem (by decide)).trans ht.mem, ?_⟩
    rw [hread]
    split
    · next hok => rw [hok]
    · rfl
  · rw [heq, hst, emit_mem, emit_out, List.head?_cons, if_neg (by decide)]
    exact ⟨ht.mem, rfl⟩

theorem avkinWrite_performed (hnow : servedNow s k 0 (avkinEnt n k len true data) = true) : ∃ t, Slotted s t ∧
    (serveAt s k 0 (avkinEnt n k len true data) = (extWrite t k (bytesOf data.toNat len) n).1.emit (.avkin (extStatus s k len true) []) ∨
      (extStatus s k len true = St.thermal ∧ serveAt s k 0 (avkinEnt n k len true data) = t.emit (.avkin St.thermal []))) := by
  obtain ⟨t, ht, heq | hend⟩ := serveAt_avkin hn hlen hnow
  · have hperform := (interface_avkin (avkinEnt n k len true data).req (k / ingotSize) (cdiv len 64)).write rfl t k rfl
    have hst := extWrite_snd t k (bytesOf data.toNat len) n
    rw [length_bytesOf, ht.extStatus_eq] at hst
    exact ⟨t, ht, .inl ((heq.trans hperform).trans (congrArg (fun st => State.emit _ (.avkin st [])) hst))⟩
  · exact ⟨t, ht, .inr hend⟩

theorem avkinWrite_fails (hnow : servedNow s k 0 (avkinEnt n k len true data) = true) (hbad : extStatus s k len true ≠ St.ok) :
    (serveAt s k 0 (avkinEnt n k len true data)).out.head? = some (.avkin (extStatus s k len true) []) ∧
    (serveAt s k 0 (avkinEnt n k len true data)).mem = s.mem := by
  obtain ⟨t, ht, heq | ⟨hst, heq⟩⟩ := avkinWrite_performed hn hlen hnow
  · have hquiet : Quiet t (extWrite t k (bytesOf data.toNat len) n).1 :=
      extWrite_fst_of_fail n (by rw [length_bytesOf, ht.extStatus_eq]; exact hbad)
    rw [heq, emit_out, emit_mem, List.head?_cons, hquiet.mem, ht.mem]
    exact ⟨rfl, rfl⟩
  · rw [heq, hst, emit_out, emit_mem, List.head?_cons, ht.mem]
    exact ⟨rfl, rfl⟩

theorem avkinWrite_of_ok (hnow : servedNow s k 0 (avkinEnt n k len true data) = true) (hgood : extStatus s k len true = St.ok) :
    ∃ t, Slotted s t ∧ extStatus t k (bytesOf data.toNat len).length true = St.ok ∧
      serveAt s k 0 (avkinEnt n k len true data) = (extWrite t k (bytesOf data.toNat len) n).1.emit (.avkin St.ok []) := by
  obtain ⟨t, ht, heq | ⟨hst, -⟩⟩ := avkinWrite_performed hn hlen hnow
  · rw [hgood] at heq
    exact ⟨t, ht, by rw [length_bytesOf, ht.extStatus_eq]; exact hgood, heq⟩
  · rw [hgood] at hst
    exact absurd hst (by decide)

theorem avkinWrite_stores (hnow : servedNow s k 0 (avkinEnt n k len true data) = true) (hgood : extStatus s k len true = St.ok)
    (hopen : isT2 k = true → noDefer s k len = true) (hfree : holderOf s k len = none) :
    (serveAt s k 0 (avkinEnt n k len true data)).out.head? = some (.avkin St.ok []) ∧
    readBytes (serveAt s k 0 (avkinEnt n k len true data)) k len = bytesOf data.toNat len ∧
    ∀ j, j < k ∨ k + len ≤ j → memByte (serveAt s k 0 (avkinEnt n k len true data)) j = memByte s j := by
  have hopen' : noDefer s k len = true := by
    cases h2 : isT2 k
    · exact noDefer_of_not_T2 h2
    · exact hopen h2
  have hbytes : (bytesOf data.toNat len).length = len := length_bytesOf ..
  obtain ⟨t, ht, hok, heq⟩ := avkinWrite_of_ok hn hlen hnow hgood
  have hwrote := extWrite_wrote n hok (by rw [hbytes, ht.noDefer_eq]; exact hopen') (by rw [hbytes, ht.holderOf_eq]; exact hfree)
  have hread := hwrote.readBytes
  have houtside := hwrote.outside
  rw [hbytes] at hread houtside
  rw [heq, emit_out, List.head?_cons, readBytes_of_mem (emit_mem ..), memByte_of_mem (emit_mem ..)]
  refine ⟨rfl, hread, fun j hj => ?_⟩
  rw [houtside j hj, memByte_of_mem ht.mem]

theorem avkinWrite_defers (hnow : servedNow s k 0 (avkinEnt n k len true data) = true) (hgood : extStatus s k len true = St.ok)
    (hlock : allLocked s k (bytesOf data.toNat len) = true) :
    (serveAt s k 0 (avkinEnt n k len true data)).out.head? = some (.avkin St.ok []) ∧
    viewBytes (serveAt s k 0 (avkinEnt n k len true data)) k len = bytesOf data.toNat len ∧
    (serveAt s k 0 (avkinEnt n k len true data)).mem = s.mem := by
  obtain ⟨t, ht, hok, heq⟩ := avkinWrite_of_ok hn hlen hnow hgood
  have hdeferred : Stores.Deferred t _ _ _ := extWrite_deferred n hok (by
    rw [allLocked, ht.lockedAt_eq]
    exact hlock)
  have hview := hdeferred.viewBytes
  rw [length_bytesOf] at hview
  rw [heq, emit_out, List.head?_cons, viewBytes_of_parts (emit_mem ..) (emit_ingots ..), emit_mem, hdeferred.mem, ht.mem]
  exact ⟨rfl, hview, rfl⟩

end

/-- Settles O19: an access is refused, answered from the control space, performed where its memory serves it, or sent on. -/
theorem avkinAccessesReadAndWrite : Obligations.AvkinAccessesReadAndWrite := by
  intro s n len a data hrun hup hn k bs e answers
  refine ⟨fun off hctl => ?_, fun hctl => ⟨fun hbad => ?_, fun hbad hlen => ?_, fun htier hst hnow => ⟨fun hok => ?_, fun hbad => ?_⟩,
    fun htier hst hlen hnow => ⟨fun hbad => ?_, fun hok hopen hfree => ?_, fun hok hlock _ => ?_⟩, fun chip off hplace =>
      ⟨fun hst => ?_, fun hst hlen => ?_⟩⟩⟩
  · refine avkinRead_runs hrun hup hn ?_
    rw [avkinRead, hctl]
    exact ⟨rfl, only_step (state_emit_only ..) rfl (only_refl _ s)⟩
  · refine avkinRead_runs hrun hup hn ?_
    rw [avkinRead_of_refused hctl hbad]
    exact refused_avkin ..
  · refine avkinWrite_runs hrun hup hn hlen ?_
    rw [avkinWrite_of_refused hctl hbad]
    exact refused_avkin ..
  · refine avkinRead_runs hrun hup hn ?_
    rw [avkinRead_of_served hctl hst htier]
    obtain ⟨hmem, hout⟩ := avkinRead_ends hn (len_of_memStatus hst) (data := 0#512) hnow
    rw [if_pos hok, show extStatus s (keyOf s a.toNat) len false = St.ok from hok] at hout
    exact ⟨hout, hmem⟩
  · refine avkinRead_runs hrun hup hn ?_
    rw [avkinRead_of_served hctl hst htier]
    obtain ⟨hmem, hout⟩ := avkinRead_ends hn (len_of_memStatus hst) (data := 0#512) hnow
    rw [if_neg hbad] at hout
    exact ⟨hout, hmem⟩
  · refine avkinWrite_runs hrun hup hn hlen ?_
    rw [avkinWrite_of_served hctl hst htier]
    exact avkinWrite_fails hn (len_of_memStatus hst) hnow hbad
  · refine avkinWrite_runs hrun hup hn hlen ?_
    rw [avkinWrite_of_served hctl hst htier]
    exact avkinWrite_stores hn (len_of_memStatus hst) hnow hok hopen hfree
  · refine avkinWrite_runs hrun hup hn hlen ?_
    rw [avkinWrite_of_served hctl hst htier]
    exact avkinWrite_defers hn (len_of_memStatus hst) hnow hok hlock
  · refine avkinRead_runs hrun hup hn ?_
    rw [avkinRead_of_chip hctl hst hplace]
    refine ⟨?_, (avkinForward_only ..).same .mem (by decide), fun hmay => foldl_forwardPart_held _ hmay⟩
    exact foldl_forwardPart_seq _ (loadParts_ne_nil (len_of_memStatus hst)) s
  · refine avkinWrite_runs hrun hup hn hlen ?_
    rw [avkinWrite_of_chip hctl hst hplace]
    refine ⟨?_, (avkinForward_only ..).same .mem (by decide)⟩
    exact foldl_forwardPart_seq _ (loadParts_ne_nil (len_of_memStatus hst)) s

end Sys2Proof.Fabric
end

section
/-! Bulk moves, acknowledgements, responses and fences (R328 to R335). -/

namespace Sys2Proof.Fabric

open Sys2Proof Sys2Proof.Machine Sys2Proof.Laws Sys2Proof.Lanes Sys2Proof.Stores Sys2Proof.Serving Sys2Proof.Links Sys2Proof.Pins
open Sys2Proof.Instants
open Sys2Proof.MailboxService (FieldsApart get_setAll_cons get_set_apart)

variable {s t u : State}

/-! ## The fields of an answer (R328) -/

/-- A field written once among fields apart from each other holds what was written. -/
theorem get_setAll_of_mem {n : Nat} {f : Fld} {v : Nat} (x : BitVec n) {l : List (Fld × Nat)} (h : (f, v) ∈ l)
    (hapart : (l.map (·.1)).Pairwise FieldsApart) (hf : f.lo + f.w ≤ n) : f.get (setAll x l) = v % 2 ^ f.w := by
  induction l generalizing x with
  | nil => exact absurd h List.not_mem_nil
  | cons e l ih =>
    rw [List.map_cons, List.pairwise_cons] at hapart
    rcases List.mem_cons.mp h with rfl | h
    · exact get_setAll_cons x v hf fun e he => hapart.1 _ (List.mem_map_of_mem he)
    · exact ih (e.1.set x e.2) h hapart.2

/-- A packet that carries a part of a bulk get (R333). -/
structure Carries (p : Packet) (bs : List Byte) (e : Packet) : Prop where
  type : LPkt.TYPE.get e.hdr = 7
  status : LPkt.STATUS.get e.hdr = St.ok
  dest : LPkt.DEST.get e.hdr = LPkt.SRC.get p.hdr
  seq : LPkt.SEQ.get e.hdr = LPkt.SEQ.get p.hdr
  plen : LPkt.PLEN.get e.hdr = bs.length / 64
  bytes : pktBytes e bs.length = bs

/-- The answer to a bulk get with so many bytes. -/
def partOf (p : Packet) (bs : List Byte) : Option Packet := answerTo p St.ok 0 (bs.length / 64) (BitVec.ofNat 4096 (ofBytes bs))

theorem bytesOf_eq_map (v n : Nat) : bytesOf v n = (List.range n).map (fun i => BitVec.ofNat 8 (v / 256 ^ i)) := by
  induction n generalizing v with
  | zero => rfl
  | succ n ih =>
    rw [bytesOf, ih, List.range_succ_eq_map, List.map_cons, List.map_map, pow_zero, Nat.div_one]
    refine congrArg _ (List.map_congr_left fun i _ => ?_)
    rw [Function.comp_apply, Nat.div_div_eq_div_mul, pow_succ']

theorem pktBytes_eq (p : Packet) (n : Nat) : pktBytes p n = bytesOf p.payload.toNat n := by
  rw [pktBytes, bytesOf_eq_map]
  refine List.map_congr_left fun i _ => BitVec.eq_of_toNat_eq ?_
  rw [BitVec.extractLsb'_toNat, BitVec.toNat_ofNat, Nat.shiftRight_eq_div_pow, show (256 : Nat) = 2 ^ 8 from rfl, ← pow_mul]

theorem pktBytes_ofNat {e : Packet} {bs : List Byte} (h : e.payload = BitVec.ofNat 4096 (ofBytes bs)) (hlen : bs.length ≤ 512) :
    pktBytes e bs.length = bs := by
  have hpow : 256 ^ bs.length ≤ 2 ^ 4096 := by
    rw [show (256 : Nat) = 2 ^ 8 from rfl, ← pow_mul]
    exact Nat.pow_le_pow_right (by decide) (by omega)
  have hnat : e.payload.toNat = ofBytes bs := by
    rw [h, BitVec.toNat_ofNat]
    exact Nat.mod_eq_of_lt (Nat.lt_of_lt_of_le (ofBytes_lt bs) hpow)
  rw [pktBytes_eq, hnat, bytesOf_ofBytes]

/-- The fields of the answer that carries a part of a bulk get. -/
def partFields (p : Packet) (bs : List Byte) : List (Fld × Nat) :=
  [(LPkt.TYPE, 7), (LPkt.CLASS, LPkt.CLASS.get p.hdr), (LPkt.DEST, LPkt.SRC.get p.hdr), (LPkt.SRC, LPkt.DEST.get p.hdr),
    (LPkt.STAG, LPkt.STAG.get p.hdr), (LPkt.SEAT, LPkt.SEAT.get p.hdr), (LPkt.PLEN, bs.length / 64), (LPkt.UNIT, LPkt.UNIT.get p.hdr),
    (LPkt.SEQ, LPkt.SEQ.get p.hdr), (LPkt.ADDR, LPkt.ADDR.get p.hdr), (LPkt.STATUS, St.ok), (LPkt.DATA, 0)]

theorem get_partFields {p : Packet} {bs : List Byte} {f : Fld} {v : Nat} (h : (f, v) ∈ partFields p bs) (hf : f.lo + f.w ≤ 256)
    (hv : v < 2 ^ f.w) : f.get (setAll 0#256 (partFields p bs)) = v := by
  refine (get_setAll_of_mem 0#256 h ?_ hf).trans (Nat.mod_eq_of_lt hv)
  simp [partFields, FieldsApart, LPkt.TYPE, LPkt.CLASS, LPkt.DEST, LPkt.SRC, LPkt.STAG, LPkt.SEAT, LPkt.PLEN, LPkt.UNIT, LPkt.SEQ,
    LPkt.ADDR, LPkt.STATUS, LPkt.DATA]

theorem partOf_carries {p : Packet} {bs : List Byte} (htype : LPkt.TYPE.get p.hdr = 4) (hlen : bs.length ≤ 512) :
    ∃ e, partOf p bs = some e ∧ Carries p bs e ∧ LPkt.CLASS.get e.hdr = LPkt.CLASS.get p.hdr ∧
      packetDie e = memoryDie (LPkt.ADDR.get p.hdr) := by
  have htype' : LPkt.TYPE.get (setAll 0#256 (partFields p bs)) = 7 := get_partFields (by simp [partFields]) (by decide) (by decide)
  have hplen : bs.length / 64 < 2 ^ LPkt.PLEN.w := by
    have hw : LPkt.PLEN.w = 4 := rfl
    rw [hw]
    omega
  refine ⟨⟨setAll 0#256 (partFields p bs), BitVec.ofNat 4096 (ofBytes bs)⟩, ?_, ⟨htype', ?_, ?_, ?_, ?_, pktBytes_ofNat rfl hlen⟩, ?_, ?_⟩
  · rw [partOf, answerTo, htype]
    exact rfl
  · exact get_partFields (by simp [partFields]) (by decide) (by decide)
  · exact get_partFields (by simp [partFields]) (by decide) (get_lt LPkt.SRC p.hdr)
  · exact get_partFields (by simp [partFields]) (by decide) (get_lt LPkt.SEQ p.hdr)
  · exact get_partFields (by simp [partFields]) (by decide) hplen
  · exact get_partFields (by simp [partFields]) (by decide) (get_lt LPkt.CLASS p.hdr)
  · rw [packetDie, htype', if_pos (by decide)]
    exact congrArg memoryDie (get_partFields (by simp [partFields]) (by decide) (get_lt LPkt.ADDR p.hdr))

/-! ## The parts of a bulk get (R333, R416) -/

/-- What waits to leave for the source of a packet: in the bulk class in a base die's stage, else at a port. -/
def lineOf (p : Packet) (s : State) (o : Nat) : List Packet :=
  if LPkt.CLASS.get p.hdr = 3 then (bulkStage s (memoryDie (LPkt.ADDR.get p.hdr))).waiting else (s.port o).queue.map (·.2)

theorem Carries.vc {p e : Packet} {bs : List Byte} (h : Carries p bs e) (v : Nat) :
    Carries p bs { e with hdr := LPkt.VC.set e.hdr v } := by
  obtain ⟨htype, hstatus, hdest, hseq, hplen, hbytes⟩ := h
  have hkeep : ∀ f, FieldsApart f LPkt.VC → f.get (LPkt.VC.set e.hdr v) = f.get e.hdr := fun f hf => get_set_apart _ _ hf
  exact ⟨(hkeep _ (by simp [FieldsApart, LPkt.VC, LPkt.TYPE])).trans htype, (hkeep _ (by simp [FieldsApart, LPkt.VC, LPkt.STATUS])).trans hstatus,
    (hkeep _ (by simp [FieldsApart, LPkt.VC, LPkt.DEST])).trans hdest, (hkeep _ (by simp [FieldsApart, LPkt.VC, LPkt.SEQ])).trans hseq,
    (hkeep _ (by simp [FieldsApart, LPkt.VC, LPkt.PLEN])).trans hplen, hbytes⟩

/-- The answer with a part joins what waits. -/
theorem lineOf_sendPacket {p e : Packet} {bs : List Byte} {o : Nat} (he : Carries p bs e)
    (hcls : LPkt.CLASS.get e.hdr = LPkt.CLASS.get p.hdr) (hdie : packetDie e = memoryDie (LPkt.ADDR.get p.hdr))
    (ho : outPort s 6 (LPkt.SRC.get p.hdr) = some o) : ∃ e', lineOf p (sendPacket s e) o = lineOf p s o ++ [e'] ∧ Carries p bs e' := by
  have hsent := sends_sendPacket s e o (by rw [he.dest, ho])
  rw [hcls, hdie] at hsent
  unfold lineOf
  split
  · next h3 =>
    rw [if_pos h3] at hsent
    exact ⟨e, hsent, he⟩
  · next h3 =>
    rw [if_neg h3] at hsent
    exact ⟨_, by rw [hsent, List.map_append, List.map_singleton], he.vc _⟩

theorem outPort_sendPacket (s : State) (q : Packet) (src dest : Nat) : outPort (sendPacket s q) src dest = outPort s src dest := by
  unfold sendPacket
  split
  · split
    · rfl
    · exact outPort_updPort s _ (by intro _; rfl) src dest
  · split
    · rfl
    · exact outPort_countPort ..

theorem lineOf_of_fab {p : Packet} (h : t.fab = s.fab) : lineOf p t = lineOf p s := funext fun o => by
  rw [lineOf, bulkStage, State.port, h, lineOf, bulkStage, State.port]

/-- One part of a bulk get is read and its answer leaves. -/
theorem part_sent {p : Packet} {k n : Nat} (htype : LPkt.TYPE.get p.hdr = 4) (hn : n ≤ 512) (hok : extStatus s k n false = St.ok) :
    ∃ e, partOf p (extRead s k n (pktSeat p)).2.2 = some e ∧ ∀ o, outPort s 6 (LPkt.SRC.get p.hdr) = some o →
      ∃ e', lineOf p (sendPacket (extRead s k n (pktSeat p)).1 e) o = lineOf p s o ++ [e'] ∧ Carries p (viewBytes s k n) e' := by
  have hread : (extRead s k n (pktSeat p)).2.2 = viewBytes s k n := by
    have hsnd := extRead_snd s k n (pktSeat p)
    rw [if_pos hok] at hsnd
    rw [hsnd]
  have hfab : (extRead s k n (pktSeat p)).1.fab = s.fab := (extRead_only ..).same .fab (by decide)
  obtain ⟨e, he, hcarries, hcls, hdie⟩ := partOf_carries (p := p) (bs := viewBytes s k n) htype (by rw [length_viewBytes]; exact hn)
  refine ⟨e, by rw [hread]; exact he, fun o ho => ?_⟩
  obtain ⟨e', hline, he'⟩ := lineOf_sendPacket (s := (extRead s k n (pktSeat p)).1) (o := o) hcarries hcls hdie (by rw [outPort_of_fab hfab, ho])
  rw [lineOf_of_fab hfab] at hline
  exact ⟨e', hline, he'⟩

theorem getParts_succ {p : Packet} {m off : Nat} (hok : extStatus s (pktOff p + off) (min 512 (pktSpan p - off)) false = St.ok)
    {e : Packet} (he : partOf p (extRead s (pktOff p + off) (min 512 (pktSpan p - off)) (pktSeat p)).2.2 = some e) :
    getParts s p (m + 1) off =
      getParts (sendPacket (extRead s (pktOff p + off) (min 512 (pktSpan p - off)) (pktSeat p)).1 e) p m (off + 512) := by
  have hsnd := extRead_snd s (pktOff p + off) (min 512 (pktSpan p - off)) (pktSeat p)
  rw [if_pos hok] at hsnd
  rw [partOf] at he
  rw [getParts]
  dsimp only
  rw [if_neg (by rw [hsnd]; exact not_not_intro rfl), he]

/-- What a read counts and writes back adds no error. -/
theorem noteCorr_errs (s : State) (k n : Nat) (pip : Bool) : ∀ e ∈ (noteCorr s k n pip).wordErr, e ∈ s.wordErr := by
  intro e he
  refine (countCorr_quiet s k n pip).errs e ?_
  rw [noteCorr, rewrite] at he
  generalize corrWords (countCorr s k n pip) k n = l at he
  generalize countCorr s k n pip = t at he ⊢
  induction l generalizing t with
  | nil => exact he
  | cons w l ih =>
    rw [List.foldl_cons] at he
    have hone := ih _ he
    split at hone
    · exact hone
    · exact hone
    · exact (clearCorr_quiet t w 8).errs e hone

theorem extRead_errs (s : State) (k n seat : Nat) : ∀ e ∈ (extRead s k n seat).1.wordErr, e ∈ s.wordErr := by
  by_cases hok : extStatus s k n false = St.ok
  · rw [extRead_fst_of_ok seat hok]
    split
    · exact fun _ => id
    · exact noteCorr_errs s k n false
  · exact (extRead_fst_of_fail seat hok).errs

/-- Beyond T2 a range can be read where it meets no uncorrectable word. -/
theorem readable_iff {k n : Nat} (hk : isT2 k = false) : extStatus s k n false = St.ok ↔
    ∀ x ∈ s.wordErr, (x.2 == .uncorr && overlaps (x.1 * 8) 8 k n) = false := by
  have hpages : pageStatus s k n = St.ok := by
    rw [pageStatus, pagesOf, if_neg (by simp [hk])]
    rfl
  have hseen : uncorrSeen s k n = (badWords s k n).any (fun _ => true) := by
    rw [Bool.eq_iff_iff, uncorrSeen, List.any_eq_true, List.any_eq_true]
    refine exists_congr fun w => and_congr_right fun hw => ?_
    obtain ⟨x, hx, rfl⟩ := List.mem_map.mp hw
    have hover := (List.mem_filter.mp hx).2
    have hw2 : isT2 (x.1 * 8) = false := by
      have hbase : hmBase = 824633720832 := rfl
      simp only [isT2, decide_eq_false_iff_not, overlaps, Bool.and_eq_true, decide_eq_true_eq] at hk hover ⊢
      omega
    rw [hw2, Bool.false_and, Bool.not_false]
  rw [extStatus_eq_ok, if_neg Bool.false_ne_true, hseen]
  simp only [hpages, true_and, badWords, List.any_map, List.any_filter, List.any_eq_false]
  simp

/-- What can be read there can be read where errors have gone, and in every part. -/
theorem readable_part {k n k' n' : Nat} (hk : isT2 k = false) (hkk : k ≤ k') (hend : k' + n' ≤ k + n)
    (herrs : ∀ e ∈ t.wordErr, e ∈ s.wordErr) (h : extStatus s k n false = St.ok) : extStatus t k' n' false = St.ok := by
  have hk' : isT2 k' = false := by
    simp only [isT2, decide_eq_false_iff_not] at hk ⊢
    omega
  refine (readable_iff hk').mpr fun x hx => ?_
  have hfar := (readable_iff hk).mp h x (herrs x hx)
  rw [Bool.and_eq_false_iff] at hfar ⊢
  refine hfar.imp_right fun hfar => ?_
  simp only [overlaps, Bool.and_eq_false_iff, decide_eq_false_iff_not] at hfar ⊢
  omega

theorem viewBytes_of_not_T2 {k n : Nat} (h : isT2 k = false) : viewBytes s k n = readBytes s k n :=
  viewBytes_of_noDefer (noDefer_of_not_T2 h)

/-- The parts of a bulk get beyond T2, in order. -/
theorem getParts_sends {p : Packet} {o : Nat} (htype : LPkt.TYPE.get p.hdr = 4) (hk : isT2 (pktOff p) = false) (m off : Nat) {s : State}
    (hok : extStatus s (pktOff p) (pktSpan p) false = St.ok) (hm : off + 512 * m < pktSpan p + 512)
    (ho : outPort s 6 (LPkt.SRC.get p.hdr) = some o) :
    ∃ es, lineOf p (getParts s p m off) o = lineOf p s o ++ es ∧ es.length = m ∧ ∀ i, i < m → ∃ e, es[i]? = some e ∧
      Carries p (readBytes s (pktOff p + (off + 512 * i)) (min 512 (pktSpan p - (off + 512 * i)))) e := by
  induction m generalizing s off with
  | zero => exact ⟨[], (List.append_nil _).symm, rfl, fun i hi => absurd hi (Nat.not_lt_zero i)⟩
  | succ m ih =>
    have hk' : isT2 (pktOff p + off) = false := by
      simp only [isT2, decide_eq_false_iff_not] at hk ⊢
      omega
    have hpart : extStatus s (pktOff p + off) (min 512 (pktSpan p - off)) false = St.ok :=
      readable_part hk (by omega) (by omega) (fun _ => id) hok
    obtain ⟨e, he, hsend⟩ := part_sent (p := p) htype (Nat.min_le_left _ _) hpart
    obtain ⟨e', hline, hcarries⟩ := hsend o ho
    rw [getParts_succ hpart he]
    have hread := extRead_only s (pktOff p + off) (min 512 (pktSpan p - off)) (pktSeat p)
    have herrs := extRead_errs s (pktOff p + off) (min 512 (pktSpan p - off)) (pktSeat p)
    generalize (extRead s (pktOff p + off) (min 512 (pktSpan p - off)) (pktSeat p)).1 = t at hline hread herrs
    have hsent := sendPacket_only t e
    obtain ⟨es, hes, hlen, hall⟩ := ih (off + 512) (s := sendPacket t e)
      (readable_part hk (Nat.le_refl _) (Nat.le_refl _) (by rw [hsent.same .wordErr (by decide)]; exact herrs) hok) (by omega)
      (by rw [outPort_sendPacket, outPort_of_fab (hread.same .fab (by decide)), ho])
    have hmem : (sendPacket t e).mem = s.mem := (hsent.same .mem (by decide)).trans (hread.same .mem (by decide))
    refine ⟨e' :: es, by rw [hes, hline, List.append_assoc]; rfl, by rw [List.length_cons, hlen], fun i hi => ?_⟩
    cases i with
    | zero =>
      rw [viewBytes_of_not_T2 hk'] at hcarries
      exact ⟨e', rfl, hcarries⟩
    | succ i =>
      obtain ⟨e, he, hcarries⟩ := hall i (by omega)
      rw [readBytes_of_mem hmem, show off + 512 + 512 * i = off + 512 * (i + 1) by omega] at hcarries
      exact ⟨e, he, hcarries⟩

/-! ## The rows of bulk packets -/

/-- Within T2 a request that an ingot in service serves at once fills one block at most. -/
theorem span_of_servedNow {port : Nat} {p : Packet} (ht : isT2 (pktOff p) = true) (hmode : govMode s (pktOff p / ingotSize) ≠ 3)
    (hnow : servedNow s (pktOff p) (port + 1) (packetEnt p) = true) : pktSpan p ≤ 64 := by
  unfold servedNow bankServes at hnow
  rw [if_pos ht] at hnow
  simp only [Bool.or_eq_true, beq_iff_eq, Bool.and_eq_true, decide_eq_true_eq] at hnow
  have hleft : cdiv (pktSpan p) 64 ≤ 1 := (hnow.resolve_left hmode).1.2
  unfold cdiv at hleft
  omega

section
variable {p : Packet} (hbulk : LPkt.TYPE.get p.hdr = 4 ∨ LPkt.TYPE.get p.hdr = 5 ∧ LPkt.BLEN.get p.hdr ≠ 0)
include hbulk

theorem takeRequest_unaligned (port : Nat) (s : State) (h : pktOff p % 64 ≠ 0) : takeRequest port p s = failPacket s p St.addr := by
  rcases hbulk with h4 | ⟨h5, hblen⟩
  · simp [takeRequest, h4, h]
  · simp [takeRequest, h5, h, bulkOf, hblen]

theorem takeRequest_bulk (port : Nat) (s : State) (h : pktOff p % 64 = 0) : takeRequest port p s =
    if remoteStatus s p (pktWrites p) (pktOff p) (pktSpan p) ≠ St.ok then
      failPacket (noteRemote s p (remoteStatus s p (pktWrites p) (pktOff p) (pktSpan p))) p
        (remoteStatus s p (pktWrites p) (pktOff p) (pktSpan p))
    else serveAt s (pktOff p) (port + 1) (packetEnt p) := by
  rcases hbulk with h4 | ⟨h5, hblen⟩
  · simp [takeRequest, h4, h, packetEnt]
  · simp [takeRequest, h5, h, bulkOf, hblen, packetEnt]

end

theorem pktSpan_get {p : Packet} (htype : LPkt.TYPE.get p.hdr = 4) : pktSpan p = LPkt.BLEN.get p.hdr * 64 := by
  rw [pktSpan, htype]
  exact rfl

theorem pktSpan_put {p : Packet} (htype : LPkt.TYPE.get p.hdr = 5) : pktSpan p = LPkt.PLEN.get p.hdr * 64 := by
  rw [pktSpan, htype]
  exact rfl

theorem blen_pos {p : Packet} (hgood : pktBad p = false) (htype : LPkt.TYPE.get p.hdr = 4) : LPkt.BLEN.get p.hdr ≠ 0 := by
  simp [pktBad, pktRange, htype] at hgood
  omega

theorem performPacket_get {p : Packet} (htype : LPkt.TYPE.get p.hdr = 4) (t : State) :
    performPacket t p = getParts t p (cdiv (pktSpan p) 512) 0 := by
  rw [performPacket, htype]
  exact rfl

/-- A bulk get of one part. -/
theorem getParts_of_one {p : Packet} (htype : LPkt.TYPE.get p.hdr = 4) (hspan : pktSpan p ≤ 512) {s : State}
    (hok : extStatus s (pktOff p) (pktSpan p) false = St.ok) :
    ∃ e, getParts s p 1 0 = sendPacket (extRead s (pktOff p) (pktSpan p) (pktSeat p)).1 e ∧
      ∀ o, outPort s 6 (LPkt.SRC.get p.hdr) = some o → ∃ e', lineOf p (getParts s p 1 0) o = lineOf p s o ++ [e'] ∧
        Carries p (viewBytes s (pktOff p) (pktSpan p)) e' := by
  have hmin : min 512 (pktSpan p - 0) = pktSpan p := by omega
  obtain ⟨e, he, hsend⟩ := part_sent (p := p) htype hspan hok
  have heq : getParts s p 1 0 = sendPacket (extRead s (pktOff p) (pktSpan p) (pktSeat p)).1 e := by
    have hsucc := getParts_succ (s := s) (p := p) (m := 0) (off := 0) (e := e) (by rw [hmin]; exact hok) (by rw [hmin]; exact he)
    rw [hmin] at hsucc
    exact hsucc
  exact ⟨e, heq, by rw [heq]; exact hsend⟩

/-- The answers of a bulk get join what waits, each with its part of the range. -/
def Answers (p : Packet) (s t : State) : Prop :=
  ∀ o, outPort s 6 (LPkt.SRC.get p.hdr) = some o → (lineOf p t o).length = (lineOf p s o).length + cdiv (pktSpan p) 512 ∧
    ∀ i, i < cdiv (pktSpan p) 512 → ∃ e, (lineOf p t o)[(lineOf p s o).length + i]? = some e ∧
      Carries p (viewBytes s (pktOff p + 512 * i) (min 512 (pktSpan p - 512 * i))) e

theorem answers_of_slotted {p : Packet} (h : Slotted s t) (ha : Answers p t u) : Answers p s u := by
  intro o ho
  have hans := ha o (by rw [outPort_of_fab h.fab, ho])
  rwa [lineOf_of_fab h.fab, h.viewBytes_eq] at hans

theorem sendPacket_still (s : State) (q : Packet) : Still s (sendPacket s q) := by
  have hingots : (sendPacket s q).ingots = s.ingots := (sendPacket_only ..).same .ingots (by decide)
  exact ⟨⟨fun i => by rw [ingot_of_ingots hingots]⟩, fun i d hd _ => by rwa [ingot_of_ingots hingots] at hd⟩

theorem getParts_mem (s : State) (p : Packet) (m off : Nat) : (getParts s p m off).mem = s.mem := (getParts_only ..).same .mem (by decide)

theorem get_ends {p : Packet} {port : Nat} (hport : port < 6) (htype : LPkt.TYPE.get p.hdr = 4) (hpos : pktSpan p ≠ 0)
    (hnow : servedNow s (pktOff p) (port + 1) (packetEnt p) = true) (hok : extStatus s (pktOff p) (pktSpan p) false = St.ok) :
    (serveAt s (pktOff p) (port + 1) (packetEnt p)).mem = s.mem ∧ Answers p s (serveAt s (pktOff p) (port + 1) (packetEnt p)) := by
  have hmode : isT2 (pktOff p) = true → govMode s (pktOff p / ingotSize) ≠ 3 := fun ht hmode => by
    rw [extStatus_of_tripped false ht hpos hmode] at hok
    exact absurd hok (by decide)
  obtain ⟨t, ht, heq | ⟨h2, hmode', -⟩⟩ := serveAt_packet hport hnow fun t ht h2 hs => by
    have hspan := span_of_servedNow h2 (hmode h2) hnow
    have hok' : extStatus t (pktOff p) (pktSpan p) false = St.ok := by rw [ht.extStatus_eq, hok]
    obtain ⟨e, hone, -⟩ := getParts_of_one htype (by omega) hok'
    rw [performPacket_get htype, show cdiv (pktSpan p) 512 = 1 by unfold cdiv; omega, hone]
    refine Still.trans (extRead_still _ fun _ => ⟨h2, ?_⟩) (sendPacket_still ..)
    have harr := arrives_packetEnt p (port := 0) (by decide)
    rw [ht.viewDeferred_eq]
    rcases cases_of_slotless (extKey_of_arrives harr) harr.off h2 hpos (by simp [packetEnt]) hs with hbad | ⟨hw, -⟩ | ⟨-, hview⟩
    · exact absurd (extStatus_eq_ok.mp hok).1 hbad
    · rw [show (packetEnt p).req.write = pktWrites p from rfl, pktWrites, htype] at hw
      exact absurd hw (by decide)
    · exact hview
  · rw [heq, performPacket_get htype]
    refine ⟨(getParts_mem ..).trans ht.mem, answers_of_slotted ht fun o ho => ?_⟩
    have hok' : extStatus t (pktOff p) (pktSpan p) false = St.ok := by rw [ht.extStatus_eq, hok]
    cases h2 : isT2 (pktOff p)
    · obtain ⟨es, hes, hlen, hall⟩ := getParts_sends htype h2 (cdiv (pktSpan p) 512) 0 hok' (by unfold cdiv; omega) ho
      refine ⟨by rw [hes, List.length_append, hlen], fun i hi => ?_⟩
      obtain ⟨e, he, hcarries⟩ := hall i hi
      have hki : isT2 (pktOff p + 512 * i) = false := by
        simp only [isT2, decide_eq_false_iff_not] at h2 ⊢
        omega
      rw [Nat.zero_add] at hcarries
      refine ⟨e, ?_, by rw [viewBytes_of_not_T2 hki]; exact hcarries⟩
      rw [hes, List.getElem?_append_right (Nat.le_add_right ..), Nat.add_sub_cancel_left]
      exact he
    · have hspan := span_of_servedNow h2 (hmode h2) hnow
      obtain ⟨e, -, hsend⟩ := getParts_of_one htype (by omega) hok'
      obtain ⟨e', hline, hcarries⟩ := hsend o ho
      rw [show cdiv (pktSpan p) 512 = 1 by unfold cdiv; omega, hline]
      refine ⟨List.length_append, fun i hi => ⟨e', ?_, ?_⟩⟩
      · obtain rfl : i = 0 := by omega
        rw [Nat.add_zero, List.getElem?_concat_length]
      · obtain rfl : i = 0 := by omega
        rw [Nat.mul_zero, Nat.add_zero, Nat.sub_zero, Nat.min_eq_right (by omega)]
        exact hcarries
  · exact absurd hmode' (hmode h2)

/-! ## Bulk puts (R333) -/

/-- A request to T2 that R361 allows touches bytes: only the leader's riser slots, which lie in T1, let an empty one pass. -/
theorem span_of_remoteStatus {p : Packet} {w : Bool} (ht : isT2 (pktOff p) = true)
    (h : remoteStatus s p w (pktOff p) (pktSpan p) = St.ok) : pktSpan p ≠ 0 := by
  intro hspan
  have hriser : sliceRiser s p w (pktOff p) (pktSpan p) = false := by
    have hbase : ∀ n, ¬bdBase n ≤ pktOff p := fun n => by
      simp only [isT2, decide_eq_true_eq] at ht
      unfold bdBase
      omega
    simp [sliceRiser, hbase]
  have hempty : ∀ a, accessStatus s (LPkt.SEAT.get p.hdr) w a 0 = St.addr := fun a => rfl
  unfold remoteStatus at h
  dsimp only at h
  rw [hriser, if_neg Bool.false_ne_true, hspan, hempty] at h
  simp only [firstFail, bne_iff_ne, ne_eq, ite_not] at h
  split at h
  · split at h
    · exact absurd h (by decide)
    · split at h
      · exact absurd h (by decide)
      · exact absurd h (by decide)
  · next hbad => exact hbad h

/-- The bulk put that a first packet begins. -/
def putOf (p : Packet) : BulkIn := ⟨LPkt.SRC.get p.hdr, LPkt.UNIT.get p.hdr, LPkt.CLASS.get p.hdr, LPkt.BLEN.get p.hdr * 64, St.ok⟩

theorem performPacket_put {p : Packet} (htype : LPkt.TYPE.get p.hdr = 5) (hblen : LPkt.BLEN.get p.hdr ≠ 0) (t : State) :
    performPacket t p = bulkLand p (putOf p) (extWrite t (pktOff p) (pktStored p) (pktSeat p)).1
      (extWrite t (pktOff p) (pktStored p) (pktSeat p)).2 := by
  rw [performPacket, htype]
  dsimp only
  rw [bulkOf, if_pos hblen]
  exact rfl

theorem bulkLand_mem (p : Packet) (x : BulkIn) (s : State) (status : Nat) : (bulkLand p x s status).mem = s.mem :=
  (bulkLand_only ..).same .mem (by decide)

theorem bulkLand_still (p : Packet) (x : BulkIn) (s : State) (status : Nat) : Still s (bulkLand p x s status) := by
  have hingots : (bulkLand p x s status).ingots = s.ingots := (bulkLand_only ..).same .ingots (by decide)
  exact ⟨⟨fun i => by rw [ingot_of_ingots hingots]⟩, fun i d hd _ => by rwa [ingot_of_ingots hingots] at hd⟩

theorem sendPacket_bulkIn (s : State) (q : Packet) : (sendPacket s q).fab.bulkIn = s.fab.bulkIn := by
  unfold sendPacket
  split
  · split <;> rfl
  · split <;> rfl

theorem answer_bulkIn (s : State) (p : Packet) (status data : Nat) : (answer s p status data).fab.bulkIn = s.fab.bulkIn := by
  unfold answer
  split
  · exact sendPacket_bulkIn ..
  · rfl

theorem replies_setBulks {p : Packet} {status data : Nat} {l : List BulkIn} (h : Replies p status data (setBulks s l) u) :
    Replies p status data s u := h

/-- The only unit of a put is acknowledged; one with units to follow is noted with what is left. -/
theorem bulkLand_put {p : Packet} (htype : LPkt.TYPE.get p.hdr = 5) (s : State) :
    (LPkt.BLEN.get p.hdr ≤ LPkt.PLEN.get p.hdr →
      Replies p St.ok 0 s (bulkLand p (putOf p) s St.ok) ∧ (bulkLand p (putOf p) s St.ok).fab.bulkIn.any (sameBulk p) = false) ∧
    (LPkt.PLEN.get p.hdr < LPkt.BLEN.get p.hdr →
      { putOf p with left := LPkt.BLEN.get p.hdr * 64 - pktSpan p } ∈ (bulkLand p (putOf p) s St.ok).fab.bulkIn) := by
  have hspan := pktSpan_put htype
  have hleft : (putOf p).left = LPkt.BLEN.get p.hdr * 64 := rfl
  have hst : (if (putOf p).status ≠ St.ok then (putOf p).status else St.ok) = St.ok := rfl
  unfold bulkLand
  dsimp only
  rw [hst, hleft]
  refine ⟨fun hle => ?_, fun hlt => ?_⟩
  · rw [if_pos (by omega), answer_bulkIn]
    refine ⟨replies_setBulks (replies_answer _ _ _ _), List.any_eq_false.mpr fun y hy => ?_⟩
    have hother := (List.mem_filter.mp hy).2
    simpa using hother
  · rw [if_neg (by omega)]
    exact List.mem_cons_self

theorem length_pktStored_put {p : Packet} (htype : LPkt.TYPE.get p.hdr = 5) : (pktStored p).length = pktSpan p := by
  rw [pktStored, htype]
  simp [pktBytes]

theorem pktStored_put {p : Packet} (htype : LPkt.TYPE.get p.hdr = 5) : pktStored p = pktBytes p (pktSpan p) := by
  rw [pktStored, htype]
  exact rfl

theorem put_ends {p : Packet} {port : Nat} (hport : port < 6) (htype : LPkt.TYPE.get p.hdr = 5) (hblen : LPkt.BLEN.get p.hdr ≠ 0)
    (hremote : remoteStatus s p true (pktOff p) (pktSpan p) = St.ok)
    (hnow : servedNow s (pktOff p) (port + 1) (packetEnt p) = true) (hok : extStatus s (pktOff p) (pktSpan p) true = St.ok)
    (hopen : isT2 (pktOff p) = true → noDefer s (pktOff p) (pktSpan p) = true) (hfree : holderOf s (pktOff p) (pktSpan p) = none) :
    ∃ t, t.fab = s.fab ∧ readBytes t (pktOff p) (pktSpan p) = pktStored p ∧
      (∀ j, j < pktOff p ∨ pktOff p + pktSpan p ≤ j → memByte t j = memByte s j) ∧
      serveAt s (pktOff p) (port + 1) (packetEnt p) = bulkLand p (putOf p) t St.ok := by
  have hlen := length_pktStored_put htype
  have hopen' : noDefer s (pktOff p) (pktSpan p) = true := by
    cases h2 : isT2 (pktOff p)
    · exact noDefer_of_not_T2 h2
    · exact hopen h2
  have hmode : isT2 (pktOff p) = true → govMode s (pktOff p / ingotSize) ≠ 3 := fun ht hmode => by
    rw [extStatus_of_tripped true ht (span_of_remoteStatus ht hremote) hmode] at hok
    exact absurd hok (by decide)
  obtain ⟨t, ht, heq | ⟨h2, hmode', -⟩⟩ := serveAt_packet hport hnow fun t ht h2 hs => by
    rw [performPacket_put htype hblen]
    refine Still.trans (extWrite_still _ fun _ => ?_) (bulkLand_still ..)
    have harr := arrives_packetEnt p (port := 0) (by decide)
    rw [← ht.slotless_eq] at hs
    rcases cases_of_slotless (extKey_of_arrives harr) harr.off h2 (span_of_remoteStatus h2 hremote) (by simp [packetEnt]) hs with
      hbad | ⟨-, hlock, -⟩ | ⟨hw, -⟩
    · rw [ht.pageStatus_eq] at hbad
      exact absurd (extStatus_eq_ok.mp hok).1 hbad
    · exact hlock
    · rw [show (packetEnt p).req.write = pktWrites p from rfl, pktWrites, htype] at hw
      exact absurd hw (by decide)
  · have hst : extStatus t (pktOff p) (pktStored p).length true = St.ok := by rw [hlen, ht.extStatus_eq, hok]
    have hwrote := extWrite_wrote (pktSeat p) hst (by rw [hlen, ht.noDefer_eq]; exact hopen') (by rw [hlen, ht.holderOf_eq]; exact hfree)
    rw [performPacket_put htype hblen, extWrite_snd, hst] at heq
    have hread := hwrote.readBytes
    have houtside := hwrote.outside
    rw [hlen] at hread houtside
    exact ⟨_, (extWrite_fab ..).trans ht.fab, hread, fun j hj => by rw [houtside j hj, memByte_of_mem ht.mem], heq⟩
  · exact absurd hmode' (hmode h2)

/-! ## Requests that complete (R330, R335) -/

theorem emit_foldl_out {α : Type} (f : α → Out) (l : List α) (s : State) : s.out <:+ (l.foldl (fun s a => s.emit (f a)) s).out := by
  induction l generalizing s with
  | nil => exact List.suffix_refl _
  | cons a l ih => exact (List.suffix_cons (f a) s.out).trans (ih (s.emit (f a)))

theorem settleFences_out (s : State) : s.out <:+ (settleFences s).out := by
  unfold settleFences
  extract_lets ended f1 s1
  exact emit_foldl_out (fun f : FenceX => .done f.unit 0x10000 f.status []) ended s1

/-- The end of a request is told, after what was told before. -/
theorem completeReq_out (s : State) (r : FabReq) (status : Nat) (data : List Byte) :
    .done r.unit r.seq status data :: s.out <:+ (completeReq s r status data).out := by
  unfold completeReq
  extract_lets fences f1 s1 s2
  have hout : s2.out = s.out := by
    unfold s2
    split
    · split
      · rfl
      · exact (lostTiles_only ..).same .out (by decide)
    · split
      · exact (jobDone_only ..).same .out (by decide)
      · exact (jobFail_only ..).same .out (by decide)
  have hlast := settleFences_out (s2.emit (.done r.unit r.seq status data))
  rwa [emit_out, hout] at hlast

theorem completeReq_outstanding (s : State) (r : FabReq) (status : Nat) (data : List Byte) :
    (completeReq s r status data).fab.outstanding = s.fab.outstanding.erase r := by
  obtain ⟨fences, coll, hfab⟩ := completeReq_fab s r status data
  rw [hfab]

theorem completeReq_mem (s : State) (r : FabReq) (status : Nat) (data : List Byte) : (completeReq s r status data).mem = s.mem :=
  (completeReq_only ..).same .mem (by decide)

/-- What a list keeps when the elements that a test names are erased one after another. -/
theorem foldl_erase_filter {α : Type} [DecidableEq α] (hit : α → Bool) (l : List α) :
    (l.filter hit).foldl List.erase l = l.filter (fun x => !hit x) := by
  have hcons : ∀ (x : α) (hs l : List α), (∀ h ∈ hs, h ≠ x) → hs.foldl List.erase (x :: l) = x :: hs.foldl List.erase l := by
    intro x hs
    induction hs with
    | nil => exact fun _ _ => rfl
    | cons h hs ih =>
      intro l hne
      obtain ⟨hh, hrest⟩ := List.forall_mem_cons.mp hne
      rw [List.foldl_cons, List.foldl_cons, List.erase_cons_tail (by simpa using hh.symm), ih _ hrest]
  induction l with
  | nil => rfl
  | cons x l ih =>
    cases hx : hit x
    · rw [List.filter_cons_of_neg (by simp [hx]), List.filter_cons_of_pos (by simp [hx]), hcons, ih]
      intro h hh heq
      rw [heq] at hh
      exact absurd (List.mem_filter.mp hh).2 (by simp [hx])
    · rw [List.filter_cons_of_pos hx, List.filter_cons_of_neg (by simp [hx]), List.foldl_cons, List.erase_cons_head, ih]

theorem foldl_completeReq (st : FabReq → Nat) (l : List FabReq) (s : State) :
    (l.foldl (fun s r => completeReq s r (st r) []) s).fab.outstanding = l.foldl List.erase s.fab.outstanding ∧
    s.out <:+ (l.foldl (fun s r => completeReq s r (st r) []) s).out ∧
    ∀ q ∈ l, .done q.unit q.seq (st q) [] ∈ (l.foldl (fun s r => completeReq s r (st r) []) s).out := by
  induction l generalizing s with
  | nil => exact ⟨rfl, List.suffix_refl _, fun q hq => absurd hq List.not_mem_nil⟩
  | cons r l ih =>
    obtain ⟨hrest, hout, hdone⟩ := ih (completeReq s r (st r) [])
    have hone := completeReq_out s r (st r) []
    rw [completeReq_outstanding] at hrest
    refine ⟨hrest, ((List.suffix_cons _ _).trans hone).trans hout, fun q hq => ?_⟩
    rcases List.mem_cons.mp hq with rfl | hq
    · exact (hone.trans hout).subset List.mem_cons_self
    · exact hdone q hq

/-! ## Responses (R328, R333) -/

theorem slotted_pushGrants (s : State) (who : Nat × Nat) (k n : Nat) (write : Bool) : Slotted s (pushGrants s who k n write) := by
  unfold pushGrants
  split
  · exact ⟨only_step (state_updHmPort_only ..) rfl (only_refl _ s), ⟨fun _ => rfl⟩⟩
  · unfold pushPages
    generalize (pageParts k n).filter _ = l
    induction l generalizing s with
    | nil => exact slotted_refl s
    | cons e l ih => exact Slotted.trans (t := pushPart s (b2n write) e.1 e.2 write) (slotted_pushExt ..) (ih _)

/-- A tile mover's write of a range without deferred writes that no object holds. -/
theorem moverWrite_wrote {who : Nat × Nat} {k : Nat} {bs : List Byte} (hpage : pageStatus s k bs.length = St.ok)
    (hopen : noDefer s k bs.length = true) (hfree : holderOf s k bs.length = none) :
    (moverWrite s who k bs).mem = (writeMem (pushGrants s who k bs.length true) k bs).mem ∧
      Wrote (pushGrants s who k bs.length true) (writeMem (pushGrants s who k bs.length true) k bs) k bs := by
  have hslot := slotted_pushGrants s who k bs.length true
  unfold moverWrite
  rw [if_neg (not_not_intro hpage)]
  dsimp only
  rw [hslot.noDefer_eq, if_pos hopen]
  exact ⟨rfl, writeMem_wrote (by rw [hslot.holderOf_eq]; exact hfree)⟩

/-- What a response that brings a part of a bulk get leaves in memory. -/
theorem moverWrite_stores {who : Nat × Nat} {k : Nat} {bs : List Byte} (hpage : pageStatus s k bs.length = St.ok)
    (hopen : noDefer s k bs.length = true) (hfree : holderOf s k bs.length = none) :
    readBytes (moverWrite s who k bs) k bs.length = bs ∧
      ∀ j, j < k ∨ k + bs.length ≤ j → memByte (moverWrite s who k bs) j = memByte s j := by
  obtain ⟨hmem, hwrote⟩ := moverWrite_wrote (who := who) hpage hopen hfree
  rw [readBytes_of_mem hmem, memByte_of_mem hmem]
  refine ⟨hwrote.readBytes, fun j hj => ?_⟩
  rw [hwrote.outside j hj, memByte_of_mem (slotted_pushGrants ..).mem]

theorem fabricResponse_none {p : Packet} (h : responseOf s p = none) : fabricResponse p s = s := by
  rw [fabricResponse, h]

theorem fabricResponse_value {p : Packet} {q : FabReq} (h : responseOf s p = some q) (hleft : q.left = 0) : fabricResponse p s =
    completeReq s q (LPkt.STATUS.get p.hdr) (if LPkt.STATUS.get p.hdr = St.ok then bytesOf (LPkt.DATA.get p.hdr) 8 else []) := by
  rw [fabricResponse, h]
  exact if_pos hleft

theorem fabricResponse_fails {p : Packet} {q : FabReq} (h : responseOf s p = some q) (hst : LPkt.STATUS.get p.hdr ≠ St.ok) :
    fabricResponse p s = completeReq s q (LPkt.STATUS.get p.hdr) [] := by
  by_cases hleft : q.left = 0
  · rw [fabricResponse_value h hleft, if_neg hst]
  · rw [fabricResponse, h]
    dsimp only
    rw [if_neg hleft, if_pos hst]

section
variable {p : Packet} {q : FabReq} (h : responseOf s p = some q) (hleft : q.left ≠ 0) (hst : LPkt.STATUS.get p.hdr = St.ok)
include h hleft hst

theorem fabricResponse_unwritten (hpage : pageStatus s q.dst (min q.left (LPkt.PLEN.get p.hdr * 64)) ≠ St.ok) :
    fabricResponse p s = completeReq s q (pageStatus s q.dst (min q.left (LPkt.PLEN.get p.hdr * 64))) [] := by
  rw [fabricResponse, h]
  dsimp only
  rw [if_neg hleft, if_neg (not_not_intro hst), if_pos hpage]

/-- A part of a bulk get that is written ends its request with the last. -/
theorem fabricResponse_part (hpage : pageStatus s q.dst (min q.left (LPkt.PLEN.get p.hdr * 64)) = St.ok) :
    (fabricResponse p s).mem =
      (moverWrite s (4, 3 * unitDie q.unit) q.dst (pktBytes p (min q.left (LPkt.PLEN.get p.hdr * 64)))).mem ∧
    (q.left ≤ min q.left (LPkt.PLEN.get p.hdr * 64) → .done q.unit q.seq St.ok [] ∈ (fabricResponse p s).out) := by
  rw [fabricResponse, h]
  dsimp only
  rw [if_neg hleft, if_neg (not_not_intro hst), if_neg (not_not_intro hpage)]
  have hon : ∀ x : State, (if (q.serves.isSome && decide (2 ^ 53 ≤ q.dst)) = true then
      putPackets x q.serves q.unit ((q.dst - 2 ^ 53) / 2 ^ 40) 3 (pktSeat p) (q.dst % 2 ^ 40)
        (pktBytes p (min q.left (LPkt.PLEN.get p.hdr * 64))) else x).mem = x.mem := fun x => by
    split
    · exact (putPackets_only ..).same .mem (by decide)
    · rfl
  split
  · exact ⟨(completeReq_mem ..).trans (hon _), fun _ => (completeReq_out ..).subset List.mem_cons_self⟩
  · next hmore => exact ⟨hon _, fun hle => absurd hle hmore⟩

end

/-! ## Fences (R335) -/

theorem any_filter_unit {fences : List FenceX} {reqs : List FabReq} (unit : Nat) :
    ((fences ++ [(⟨unit, St.ok⟩ : FenceX)]).filter (fun f => reqs.any (fun r => r.unit == f.unit))).any (fun f => f.unit == unit) =
      reqs.any (fun r => r.unit == unit) := by
  cases hreqs : reqs.any (fun r => r.unit == unit)
  · rw [List.any_eq_false]
    intro f hf hunit
    rw [beq_iff_eq] at hunit
    have hopen := (List.mem_filter.mp hf).2
    rw [hunit, hreqs] at hopen
    exact absurd hopen Bool.false_ne_true
  · exact List.any_eq_true.mpr ⟨⟨unit, St.ok⟩, List.mem_filter.mpr ⟨by simp, hreqs⟩, by simp⟩

theorem fence_fences (unit : Nat) (s : State) :
    (fence unit s).fab.fences.any (fun f => f.unit == unit) = s.fab.outstanding.any (fun q => q.unit == unit) := by
  rw [fence, settleFences_fab]
  exact any_filter_unit unit

theorem mem_emit_foldl {α : Type} {f : α → Out} {l : List α} {a : α} (h : a ∈ l) (s : State) :
    f a ∈ (l.foldl (fun s a => s.emit (f a)) s).out := by
  induction l generalizing s with
  | nil => exact absurd h List.not_mem_nil
  | cons b l ih =>
    rcases List.mem_cons.mp h with rfl | h
    · exact (emit_foldl_out f l (s.emit (f a))).subset List.mem_cons_self
    · exact ih h (s.emit (f b))

theorem settleFences_done {f : FenceX} (hf : f ∈ s.fab.fences) (h : s.fab.outstanding.any (fun q => q.unit == f.unit) = false) :
    .done f.unit 0x10000 f.status [] ∈ (settleFences s).out := by
  unfold settleFences
  extract_lets ended f1 s1
  have hmem : f ∈ ended := List.mem_filter.mpr ⟨hf, by rw [h, Bool.not_false]⟩
  exact mem_emit_foldl (f := fun f : FenceX => .done f.unit 0x10000 f.status []) hmem s1

/-- A fence of a unit with nothing outstanding completes at once. -/
theorem fence_done {unit : Nat} (h : s.fab.outstanding.any (fun q => q.unit == unit) = false) :
    .done unit 0x10000 St.ok [] ∈ (fence unit s).out :=
  settleFences_done (f := ⟨unit, St.ok⟩) (List.mem_append_right _ List.mem_cons_self) h

/-! ## The rows -/

theorem lineOf_received (s : State) (port : Nat) (p : Packet) (o : Nat) : lineOf p (received s port) o = lineOf p s o := by
  have hstage : bulkStage (received s port) = bulkStage s := rfl
  rw [lineOf, hstage, queue_received, lineOf]

theorem when_of_false {c : State → Bool} {f : State → State} (h : c s = false) : when c f s = s := by
  rw [when, h, if_neg Bool.false_ne_true]

theorem responseRow_runs {port : Nat} {p : Packet} {P : State → Prop} (hrun : running .link s = true) (harr : arrives s port p = true)
    (hgood : pktBad p = false) (htype : LPkt.TYPE.get p.hdr = 7) (hwait : responseWaits p s = none) (h : P (fabricResponse p (received s port))) :
    Runs (.fabricResponse port p) s P := by
  have hrow : exec (.fabricResponse port p) s = execFabricResponse port p s := rfl
  refine runs_of_when hrow hrun (by simp [harr, htype]) ?_
  rw [hwait]
  dsimp only
  rw [if_neg (by rw [hgood]; exact Bool.false_ne_true)]
  exact h

/-- A response whose bytes meet a full deferral buffer waits at its port. -/
theorem responseRow_waits {port : Nat} {p : Packet} {P : State → Prop} (hrun : running .link s = true) (harr : arrives s port p = true)
    (htype : LPkt.TYPE.get p.hdr = 7) {w : Nat × Nat} (hwait : responseWaits p s = some w) (h : P (blockMover s w.1 w.2)) :
    Runs (.fabricResponse port p) s P := by
  have hrow : exec (.fabricResponse port p) s = execFabricResponse port p s := rfl
  refine runs_of_when hrow hrun (by simp [harr, htype]) ?_
  rw [hwait]
  exact h

section
variable {port : Nat} {p : Packet} (hrun : running .link s = true) (harr : arrives s port p = true) (hgood : pktBad p = false)
include hrun harr hgood

theorem getRow_refuses (htype : LPkt.TYPE.get p.hdr = 4) (hwait : flowWaits p none s = false) :
    (pktOff p % 64 ≠ 0 → Runs (.bulkGet port p) s (fun t => Replies p St.addr 0 (received s port) t ∧ t.mem = s.mem)) ∧
    (pktOff p % 64 = 0 → remoteStatus (received s port) p false (pktOff p) (pktSpan p) ≠ St.ok → Runs (.bulkGet port p) s (fun t =>
      Replies p (remoteStatus (received s port) p false (pktOff p) (pktSpan p)) 0 (received s port) t ∧ t.mem = s.mem)) := by
  have hrow : exec (.bulkGet port p) s = execBulkGet port p s := rfl
  have hw : pktWrites p = false := by rw [pktWrites, htype]; rfl
  have hrmem : (received s port).mem = s.mem := received_mem s port
  refine ⟨fun hk => packetRow_runs hrow hrun harr hgood htype hwait ?_, fun hk hst => packetRow_runs hrow hrun harr hgood htype hwait ?_⟩
  · rw [takeRequest_unaligned (.inl htype) port _ hk, failPacket_of_single (by omega), answer_mem]
    exact ⟨replies_answer _ _ _ _, hrmem⟩
  · rw [takeRequest_bulk (.inl htype) port _ hk, hw, if_pos hst, failPacket_of_single (by omega), answer_mem]
    exact ⟨noteRemote_routing _ p _ (replies_answer _ _ _ _), ((noteRemote_only ..).same .mem (by decide)).trans hrmem⟩

theorem getRow_answers (htype : LPkt.TYPE.get p.hdr = 4) (hwait : flowWaits p none s = false) (hk : pktOff p % 64 = 0)
    (hst : remoteStatus (received s port) p false (pktOff p) (pktSpan p) = St.ok)
    (hnow : servedNow (received s port) (pktOff p) (port + 1) (packetEnt p) = true)
    (hok : extStatus s (pktOff p) (pktSpan p) false = St.ok) :
    Runs (.bulkGet port p) s (fun t => t.mem = s.mem ∧ Answers p (received s port) t) := by
  have hrow : exec (.bulkGet port p) s = execBulkGet port p s := rfl
  have hw : pktWrites p = false := by rw [pktWrites, htype]; rfl
  refine packetRow_runs hrow hrun harr hgood htype hwait ?_
  rw [takeRequest_bulk (.inl htype) port _ hk, hw, if_neg (not_not_intro hst)]
  have hpos : pktSpan p ≠ 0 := by
    have hblen := blen_pos hgood htype
    rw [pktSpan_get htype]
    omega
  obtain ⟨hmem, hans⟩ := get_ends (s := received s port) (port_of_arrives harr) htype hpos hnow hok
  exact ⟨hmem.trans (received_mem s port), hans⟩

theorem putRow_refuses (htype : LPkt.TYPE.get p.hdr = 5) (hblen : LPkt.BLEN.get p.hdr ≠ 0) (hwait : flowWaits p none s = false)
    (hbad : pktOff p % 64 ≠ 0 ∨ remoteStatus (received s port) p true (pktOff p) (pktSpan p) ≠ St.ok) :
    Runs (.bulkData port p) s (fun t => t.mem = s.mem) := by
  have hrow : exec (.bulkData port p) s = execBulkData port p s := rfl
  have hw : pktWrites p = true := by rw [pktWrites, htype]; rfl
  have hbulk : LPkt.TYPE.get p.hdr = 4 ∨ LPkt.TYPE.get p.hdr = 5 ∧ LPkt.BLEN.get p.hdr ≠ 0 := .inr ⟨htype, hblen⟩
  have hrmem : (received s port).mem = s.mem := received_mem s port
  refine packetRow_runs hrow hrun harr hgood htype hwait ?_
  by_cases hk : pktOff p % 64 = 0
  · rw [takeRequest_bulk hbulk port _ hk, hw, if_pos (hbad.resolve_left (not_not_intro hk))]
    exact ((failPacket_only ..).same .mem (by decide)).trans (((noteRemote_only ..).same .mem (by decide)).trans hrmem)
  · rw [takeRequest_unaligned hbulk port _ hk]
    exact ((failPacket_only ..).same .mem (by decide)).trans hrmem

theorem putRow_stores (htype : LPkt.TYPE.get p.hdr = 5) (hblen : LPkt.BLEN.get p.hdr ≠ 0) (hwait : flowWaits p none s = false)
    (hk : pktOff p % 64 = 0) (hst : remoteStatus (received s port) p true (pktOff p) (pktSpan p) = St.ok)
    (hnow : servedNow (received s port) (pktOff p) (port + 1) (packetEnt p) = true)
    (hok : extStatus s (pktOff p) (pktSpan p) true = St.ok)
    (hopen : isT2 (pktOff p) = true → noDefer s (pktOff p) (pktSpan p) = true) (hfree : holderOf s (pktOff p) (pktSpan p) = none) :
    Runs (.bulkData port p) s (fun t => readBytes t (pktOff p) (pktSpan p) = pktBytes p (pktSpan p) ∧
      (∀ j, j < pktOff p ∨ pktOff p + pktSpan p ≤ j → memByte t j = memByte s j) ∧
      (LPkt.BLEN.get p.hdr ≤ LPkt.PLEN.get p.hdr → Replies p St.ok 0 (received s port) t ∧ t.fab.bulkIn.any (sameBulk p) = false) ∧
      (LPkt.PLEN.get p.hdr < LPkt.BLEN.get p.hdr →
        { putOf p with left := LPkt.BLEN.get p.hdr * 64 - pktSpan p } ∈ t.fab.bulkIn)) := by
  have hrow : exec (.bulkData port p) s = execBulkData port p s := rfl
  have hw : pktWrites p = true := by rw [pktWrites, htype]; rfl
  refine packetRow_runs hrow hrun harr hgood htype hwait ?_
  rw [takeRequest_bulk (.inr ⟨htype, hblen⟩) port _ hk, hw, if_neg (not_not_intro hst)]
  obtain ⟨t, hfab, hread, houtside, heq⟩ :=
    put_ends (s := received s port) (port_of_arrives harr) htype hblen hst hnow hok hopen hfree
  obtain ⟨hlast, hmore⟩ := bulkLand_put htype t
  rw [memByte_of_mem (received_mem s port)] at houtside
  rw [heq, readBytes_of_mem (bulkLand_mem ..), memByte_of_mem (bulkLand_mem ..)]
  exact ⟨hread.trans (pktStored_put htype), houtside, fun hle => ⟨replies_of_fab hfab (hlast hle).1, (hlast hle).2⟩, hmore⟩

theorem ackRow_ends (htype : LPkt.TYPE.get p.hdr = 6) (hit : FabReq → Bool)
    (hhit : hit = fun q => ackFlow p q && (seqLe q.seq (LPkt.SEQ.get p.hdr) || ackInside p q)) :
    Runs (.fabricAck port p) s (fun t => t.fab.outstanding = s.fab.outstanding.filter (fun q => !hit q) ∧
      (∀ q, q ∈ s.fab.outstanding → hit q = true → .done q.unit q.seq
        (if q.seq = LPkt.SEQ.get p.hdr || ackInside p q then LPkt.STATUS.get p.hdr else St.ok) [] ∈ t.out)) := by
  have hrow : exec (.fabricAck port p) s = execFabricAck port p s := rfl
  subst hhit
  refine packetRow_runs hrow hrun harr hgood htype rfl ?_
  obtain ⟨hrest, -, hdone⟩ := foldl_completeReq
    (fun q => if q.seq = LPkt.SEQ.get p.hdr || ackInside p q then LPkt.STATUS.get p.hdr else St.ok)
    (s.fab.outstanding.filter _) (received s port)
  exact ⟨hrest.trans (foldl_erase_filter _ s.fab.outstanding), fun q hq hhit => hdone q (List.mem_filter.mpr ⟨hq, hhit⟩)⟩

section
variable (htype : LPkt.TYPE.get p.hdr = 7)
include htype

theorem responseRow_idle (hnone : responseOf s p = none ∨ responseWaits p s ≠ none) : Runs (.fabricResponse port p) s (fun t =>
    t.fab.outstanding = s.fab.outstanding ∧ t.mem = s.mem ∧ t.out = s.out) := by
  cases hwait : responseWaits p s with
  | some w =>
    have honly := blockMover_only s w.1 w.2
    have hfab : (blockMover s w.1 w.2).fab = s.fab := honly.same .fab (by decide)
    exact responseRow_waits hrun harr htype hwait
      ⟨by rw [hfab], honly.same .mem (by decide), honly.same .out (by decide)⟩
  | none =>
    refine responseRow_runs hrun harr hgood htype hwait ?_
    rw [fabricResponse_none (s := received s port) (hnone.resolve_right (not_not_intro hwait))]
    exact ⟨rfl, received_mem s port, rfl⟩

variable {q : FabReq} (hq : responseOf s p = some q) (hwait : responseWaits p s = none)
include hq hwait

theorem responseRow_value (hleft : q.left = 0) (hst : LPkt.STATUS.get p.hdr = St.ok) : Runs (.fabricResponse port p) s (fun t =>
    .done q.unit q.seq St.ok (bytesOf (LPkt.DATA.get p.hdr) 8) ∈ t.out ∧ t.fab.outstanding = s.fab.outstanding.erase q) := by
  refine responseRow_runs hrun harr hgood htype hwait ?_
  rw [fabricResponse_value (s := received s port) (q := q) hq hleft, completeReq_outstanding, hst, if_pos rfl]
  exact ⟨(completeReq_out ..).subset List.mem_cons_self, rfl⟩

theorem responseRow_fails (hst : LPkt.STATUS.get p.hdr ≠ St.ok) : Runs (.fabricResponse port p) s (fun t =>
    .done q.unit q.seq (LPkt.STATUS.get p.hdr) [] ∈ t.out ∧ t.mem = s.mem) := by
  refine responseRow_runs hrun harr hgood htype hwait ?_
  rw [fabricResponse_fails (s := received s port) (q := q) hq hst, completeReq_mem]
  exact ⟨(completeReq_out ..).subset List.mem_cons_self, received_mem s port⟩

variable (hleft : q.left ≠ 0) (hst : LPkt.STATUS.get p.hdr = St.ok)
include hleft hst

theorem responseRow_unwritten (hpage : pageStatus s q.dst (min q.left (LPkt.PLEN.get p.hdr * 64)) ≠ St.ok) :
    Runs (.fabricResponse port p) s (fun t =>
      .done q.unit q.seq (pageStatus s q.dst (min q.left (LPkt.PLEN.get p.hdr * 64))) [] ∈ t.out ∧ t.mem = s.mem) := by
  refine responseRow_runs hrun harr hgood htype hwait ?_
  rw [fabricResponse_unwritten (s := received s port) (q := q) hq hleft hst hpage, completeReq_mem]
  exact ⟨(completeReq_out ..).subset List.mem_cons_self, received_mem s port⟩

theorem responseRow_part {m : Nat} (hm : m = min q.left (LPkt.PLEN.get p.hdr * 64)) (hpage : pageStatus s q.dst m = St.ok)
    (hopen : noDefer s q.dst m = true) (hfree : holderOf s q.dst m = none) :
    Runs (.fabricResponse port p) s (fun t => readBytes t q.dst m = pktBytes p m ∧
      (∀ j, j < q.dst ∨ q.dst + m ≤ j → memByte t j = memByte s j) ∧ (q.left ≤ m → .done q.unit q.seq St.ok [] ∈ t.out)) := by
  subst hm
  refine responseRow_runs hrun harr hgood htype hwait ?_
  obtain ⟨hmem, hdone⟩ := fabricResponse_part (s := received s port) (q := q) hq hleft hst hpage
  generalize min q.left (LPkt.PLEN.get p.hdr * 64) = m at *
  have hbytes : (pktBytes p m).length = m := by simp [pktBytes]
  obtain ⟨hread, houtside⟩ := moverWrite_stores (s := received s port) (who := (4, 3 * unitDie q.unit)) (k := q.dst)
    (bs := pktBytes p m) (by rw [hbytes]; exact hpage) (by rw [hbytes]; exact hopen) (by rw [hbytes]; exact hfree)
  rw [hbytes, memByte_of_mem (received_mem s port)] at houtside
  rw [hbytes] at hread
  rw [readBytes_of_mem hmem, memByte_of_mem hmem]
  exact ⟨hread, houtside, hdone⟩

end

end

theorem fenceRow_ends {unit : Nat} (hrun : running .banker s = true) (hunit : unit < 5 * 4096)
    (hnone : s.fab.fences.any (fun f => f.unit == unit) = false) :
    (s.fab.held.any (fun h => h.req.unit == unit) = true → Runs (.fence unit) s (fun t => t = s)) ∧
    (s.fab.held.any (fun h => h.req.unit == unit) = false → Runs (.fence unit) s (fun t => t = fence unit s)) := by
  have hrow : exec (.fence unit) s = execFence unit s := rfl
  refine ⟨fun hheld => runs_of_running hrow hrun (when_of_false ?_), fun hheld => runs_of_when hrow hrun ?_ rfl⟩
  · rw [hheld, Bool.not_true, Bool.and_false]
  · simp only [hunit, hnone, hheld, decide_true, Bool.not_false, Bool.and_self]

/-- Settles O21: bulk packets pass the checks of their row and are then performed; ends of requests are told one by one. -/
theorem bulkMovesAcksAndResponses : Obligations.BulkMovesAcksAndResponses := by
  intro s port p unit r k n may line
  refine ⟨fun hrun harr hgood => ⟨fun htype hwait => ?_, fun htype hblen hwait => ⟨putRow_refuses hrun harr hgood htype hblen hwait,
      fun ⟨hk, hst, hnow⟩ => putRow_stores hrun harr hgood htype hblen hwait hk hst hnow⟩,
    fun htype => ackRow_ends hrun harr hgood htype _ rfl, fun htype => ⟨responseRow_idle hrun harr hgood htype,
      fun q hq hwait => ⟨responseRow_value hrun harr hgood htype hq hwait, responseRow_fails hrun harr hgood htype hq hwait,
        fun hleft hst => ⟨responseRow_unwritten hrun harr hgood htype hq hwait hleft hst,
          responseRow_part hrun harr hgood htype hq hwait hleft hst rfl⟩⟩⟩⟩, fun hrun hunit hnone => ?_⟩
  · obtain ⟨hmis, hbad⟩ := getRow_refuses hrun harr hgood htype hwait
    refine ⟨hmis, hbad, fun ⟨hk, hst, hnow⟩ hok => ?_⟩
    obtain ⟨t, hexec, hmem, hans⟩ := getRow_answers hrun harr hgood htype hwait hk hst hnow hok
    refine ⟨t, hexec, hmem, fun o ho => ?_⟩
    obtain ⟨hlen, hall⟩ := hans o (by rw [outPort_received]; exact ho)
    rw [lineOf_received] at hlen hall
    refine ⟨hlen, fun i hi => ?_⟩
    obtain ⟨e, he, htype', hstatus, hdest, hseq, hplen, hbytes⟩ := hall i hi
    rw [length_viewBytes] at hplen hbytes
    exact ⟨e, he, htype', hstatus, hdest, hseq, hplen, hbytes⟩
  · obtain ⟨hwaits, hends⟩ := fenceRow_ends hrun hunit hnone
    refine ⟨hwaits, fun hheld hout => ?_, fun hheld hout => ?_⟩
    · obtain ⟨t, hexec, rfl⟩ := hends hheld
      exact ⟨_, hexec, fence_done hout, (fence_fences unit s).trans hout⟩
    · obtain ⟨t, hexec, rfl⟩ := hends hheld
      exact ⟨_, hexec, (fence_fences unit s).trans hout⟩

end Sys2Proof.Fabric
end

section
/-! Dispatch packets that reach a crucible with an empty intake (R65, R94, R155 to R162, R168). -/

namespace Sys2Proof.Intake

open Sys2Proof Sys2Proof.Machine Sys2Proof.Laws Sys2Proof.Lanes Sys2Proof.Serving Sys2Proof.Links Sys2Proof.Pins Sys2Proof.Fabric

variable {s t u v : State}

/-! ## A packet alone in its intake (R156) -/

/-- The ingot after a packet that arrived alone has been taken in. -/
def emptied (port ptr cls : Nat) (g : Ingot) : Ingot :=
  { g with intake := dropHead port g.intake, intakePtr := Tab.set g.intakePtr 0 cls ptr }

theorem intakeGrant_of_other {i cls : Nat} {x : Intake} (h : (s.ingot i).intake = [x]) (hcls : firstClass x ≠ (cls == 0)) :
    intakeGrant s i cls = none := by
  have hnone : grant (presents s i (cls == 0)) (Tab.get (s.ingot i).intakePtr 0 cls) 2 = none := grant_eq_none fun port _ => by
    unfold presents portHead
    rw [h, List.find?_singleton]
    split
    · next heq =>
      split at heq
      · obtain rfl := Option.some.inj heq
        simp [hcls]
      · cases heq
    · rfl
  rw [intakeGrant, hnone]

theorem intakeGrant_of_alone {i cls : Nat} {x : Intake} (h : (s.ingot i).intake = [x]) (hcls : firstClass x = (cls == 0))
    (htake : takePacket s i x = some t) : ∃ ptr, intakeGrant s i cls = some (t.updIngot i (emptied (inPort x) ptr cls)) := by
  have hhead : ∀ port, portHead (s.ingot i) port = if inPort x == port then some x else none := fun port => by
    rw [portHead, h, List.find?_singleton]
  have hport : inPort x < 2 := by
    unfold inPort b2n
    split <;> decide
  have hgrant := grant_eq_some (present := presents s i (cls == 0)) (ptr := Tab.get (s.ingot i).intakePtr 0 cls) hport fun j _ => by
    rw [presents, hhead]
    by_cases hj : inPort x = j
    · rw [if_pos (by simp [hj])]
      simp [hcls, htake, hj]
    · rw [if_neg (by simp [hj])]
      simp [Ne.symm hj]
  refine ⟨(inPort x + 1) % 2, ?_⟩
  rw [intakeGrant, hgrant]
  dsimp only
  rw [hhead, if_pos (by simp), Option.bind_some, htake]
  rfl

/-- A packet that arrives at an empty intake and can be taken in is taken in. -/
theorem arrive_of_taken {i : Nat} {x : Intake} (h : (s.ingot i).intake = [])
    (htake : takePacket (s.updIngot i (fun g => { g with intake := [x] })) i x = some t) :
    ∃ ptr cls, arrive i x s = t.updIngot i (emptied (inPort x) ptr cls) := by
  have hstate : s.updIngot i (fun g => { g with intake := g.intake ++ [x] }) = s.updIngot i (fun g => { g with intake := [x] }) := by
    rw [State.updIngot, h, List.nil_append, State.updIngot]
  have hintake : ((s.updIngot i (fun g => { g with intake := [x] })).ingot i).intake = [x] := by rw [ingot_updIngot_self]
  rw [arrive, hstate, drained, hintake, List.length_singleton]
  cases hfirst : firstClass x
  · obtain ⟨ptr, hgrant⟩ := intakeGrant_of_alone hintake (cls := 1) hfirst htake
    refine ⟨ptr, 1, ?_⟩
    rw [drainIntake, intakeGrant_of_other hintake (by rw [hfirst]; decide), hgrant]
    rfl
  · obtain ⟨ptr, hgrant⟩ := intakeGrant_of_alone hintake (cls := 0) hfirst htake
    refine ⟨ptr, 0, ?_⟩
    rw [drainIntake, hgrant]
    rfl

/-! ## The rows -/

/-- The state in which a dispatch packet has been received and stands in the intake alone. -/
def offered (s : State) (i : Nat) (x : Intake) (via : Via) : State :=
  (dispReceived s x via).updIngot i (fun g => { g with intake := [x] })

theorem dispReceived_only (s : State) (x : Intake) (via : Via) : OnlyChanges [.fab] s (dispReceived s x via) := by
  unfold dispReceived
  split
  · exact only_refl _ s
  · exact receivedPackets_only ..

theorem dispReceived_ingots (s : State) (x : Intake) (via : Via) : (dispReceived s x via).ingots = s.ingots :=
  (dispReceived_only ..).same .ingots (by decide)

theorem offered_ingot (s : State) (i : Nat) (x : Intake) (via : Via) :
    (offered s i x via).ingot i = { s.ingot i with intake := [x] } := by
  rw [offered, ingot_updIngot_self, ingot_of_ingots (dispReceived_ingots ..)]

theorem ownChip_dispReceived (s : State) (x : Intake) (via : Via) : ownChip (dispReceived s x via) = ownChip s := by
  unfold dispReceived
  split <;> rfl

/-- An answer's way does not depend on what a port has received. -/
theorem replies_of_dispReceived {x : Intake} {via : Via} {p : Packet} {status data : Nat}
    (h : Replies p status data (dispReceived s x via) t) : Replies p status data s t := by
  unfold dispReceived at h
  split at h
  · exact h
  · next port hp =>
    intro q hq o ho
    have hsent := h q hq o (by
      rw [receivedPackets, outPort_countPort, outPort_updPort s port (by intro _; rfl)]
      exact ho)
    have hqueue : ∀ n, ((receivedPackets s port n).port o).queue = (s.port o).queue := fun n => by
      rw [receivedPackets, queue_countPort, queue_updPort s port o (by intro _; rfl)]
    rw [hqueue] at hsent
    exact hsent

/-- A packet has been taken in with success, `v` standing for what it came to. -/
structure TakenIn (s v t : State) (i : Nat) (x : Intake) (via : Via) : Prop where
  ingot : ∃ ptr cls, t.ingot i = emptied (inPort x) ptr cls (v.ingot i)
  pip : ∀ p, t.pip p = v.pip p
  acked : ∀ port hp, via = some (port, hp) → Replies ⟨hp, 0#4096⟩ St.ok 0 s t

theorem takenIn_of_status {i : Nat} {x : Intake} {via : Via} (hvia : x.via = via.map (·.2)) (hempty : (s.ingot i).intake = [])
    (htake : takeStatus (offered s i x via) i x = some (v, St.ok)) (hfab : v.fab = (offered s i x via).fab) :
    TakenIn s v (arrive i x (dispReceived s x via)) i x via := by
  have hempty' : ((dispReceived s x via).ingot i).intake = [] := by rw [ingot_of_ingots (dispReceived_ingots ..), hempty]
  have hpacket : takePacket (offered s i x via) i x = some (match x.via with
      | some h => answer v ⟨h, 0#4096⟩ St.ok 0
      | none => v) := by
    rw [takePacket, htake]
    rfl
  obtain ⟨ptr, cls, harrive⟩ := arrive_of_taken hempty' hpacket
  rw [harrive, hvia]
  cases via with
  | none => exact ⟨⟨ptr, cls, ingot_updIngot_self ..⟩, fun _ => rfl, fun port hp h => by cases h⟩
  | some w =>
    have honly := answer_only v ⟨w.2, 0#4096⟩ St.ok 0
    have hpips : (answer v ⟨w.2, 0#4096⟩ St.ok 0).pips = v.pips := honly.same .pips (by decide)
    refine ⟨⟨ptr, cls, ?_⟩, fun p => ?_, fun port hp h => ?_⟩
    · rw [ingot_updIngot_self]
      exact congrArg _ (ingot_of_ingots (honly.same .ingots (by decide)) i)
    · exact congrArg (fun l => Tab.get l Pip.reset p) hpips
    · obtain rfl := Option.some.inj h
      exact replies_of_dispReceived (replies_of_fab hfab (replies_answer _ _ _ _))

theorem TakenIn.intake {i : Nat} {x : Intake} {via : Via} (h : TakenIn s v t i x via) (hv : (v.ingot i).intake = [x]) :
    (t.ingot i).intake = [] := by
  obtain ⟨ptr, cls, hingot⟩ := h.ingot
  rw [hingot, emptied, hv, dropHead, if_pos rfl]

/-- A row that takes a packet in with success answers with what that leaves. -/
theorem dispRow_runs {instr : Instr} {type i : Nat} {via : Via} {x : Intake} {P : State → Prop} (hvia : x.via = via.map (·.2))
    (hrow : exec instr s = dispRow type i via x.hdr x.desc x.mask x.words s) (hrun : running .arith s = true) (hi : i < 16)
    (hingot : LDisp.INGOT.get x.hdr = i) (harr : dispArrives s i via = true) (htype : dispType x.hdr = type)
    (hempty : (s.ingot i).intake = []) (htake : takeStatus (offered s i x via) i x = some (v, St.ok))
    (hfab : v.fab = (offered s i x via).fab) (hP : ∀ t, TakenIn s v t i x via → P t) : Runs instr s P := by
  have hx : (⟨via.map (·.2), x.hdr, x.desc, x.mask, x.words⟩ : Intake) = x := by rw [← hvia]
  refine runs_of_when hrow hrun ?_ ?_
  · simp [ingotOk, hi, hingot, harr, htype]
  · rw [hx]
    exact hP _ (takenIn_of_status hvia hempty htake hfab)

theorem inBlock_receivedPackets (s : State) (p n : Nat) : inBlock (receivedPackets s p n) = inBlock s := rfl

theorem dispRemote_offered (s : State) (i : Nat) (x : Intake) (via : Via) : dispRemote (offered s i x via) i x = dispRemote s i x := by
  have hown : ownChip (offered s i x via) = ownChip s := ownChip_dispReceived s x via
  have hblock : inBlock (offered s i x via) = inBlock s := by
    cases via with
    | none => rfl
    | some w => exact inBlock_receivedPackets s w.1 _
  have hseats : (offered s i x via).seats = s.seats := (dispReceived_only s x via).same .seats (by decide)
  have hplace : placeOf (offered s i x via) = placeOf s := funext fun a => by rw [placeOf, hown, placeOf]
  have htier : tierOf (offered s i x via) = tierOf s := funext fun a => by rw [tierOf, hplace, tierOf]
  have hseat : (offered s i x via).seat = s.seat := funext fun n => by rw [State.seat, hseats, State.seat]
  have hwin : inWindows (offered s i x via) = inWindows s := funext fun n => funext fun w => funext fun a => funext fun len => by
    simp only [inWindows, seatEnabled, htier, hseat]
  have haddr : devAddr (offered s i x via) = devAddr s := funext fun k => by rw [devAddr, hown, devAddr]
  simp only [dispRemote, hblock, hseat, hwin, haddr]

theorem takeStatus_of_remote {i : Nat} {x : Intake} (hok : dispOk x.hdr x.words.length = true) (hremote : dispRemote s i x = true) :
    takeStatus s i x = match dispType x.hdr with
      | 1 => takeDesc s i x
      | 2 => takeDesc s i x
      | 3 => (takeQuery s i x).map (fun t => (t, St.ok))
      | 4 => some (takeClose s i x, St.ok)
      | _ => some (takeRelease s i x, St.ok) := by
  rw [takeStatus, hok, hremote]
  rfl

/-! ## Descriptors (R65, R94, R95, R159) -/

/-- A descriptor that is accepted joins its pip's queue, its page's locks and the slots in use. -/
structure Joined (s v : State) (i : Nat) (x : Intake) : Prop where
  queue : (v.pip (pagePip i (LDesc.PAGE.get x.desc))).queue = (s.pip (pagePip i (LDesc.PAGE.get x.desc))).queue ++
    [⟨x.desc, x.mask, entOf s i (LDesc.ISSUER.get x.desc) (LDesc.QID.get x.desc), false⟩]
  slots : (v.ingot i).slotsUsed = (s.ingot i).slotsUsed + dNq x.desc
  locks : pageLocks (v.ingot i) (LDesc.PAGE.get x.desc) = pageLocks (s.ingot i) (LDesc.PAGE.get x.desc) ++
    [⟨LDesc.ISSUER.get x.desc, LDesc.CLUSTER.get x.desc, pcNow s⟩]
  intake : (v.ingot i).intake = (s.ingot i).intake

theorem enqueued_joined (s : State) (i : Nat) (x : Intake) : Joined s (enqueued s i x) i x := by
  have hingot : (enqueued s i x).ingot i = takeSlots s i x.desc (s.ingot i) :=
    (ingot_updIngot_self s i (takeSlots s i x.desc) :)
  refine ⟨?_, by rw [hingot]; rfl, ?_, by rw [hingot]; rfl⟩
  · rw [enqueued, setPip_pip]
    rfl
  · rw [hingot]
    exact get_set_self ..

theorem Joined.of_parts {i : Nat} {x : Intake} (h : Joined s u i x) (hpips : v.pips = u.pips)
    (hingot : (v.ingot i).slotsUsed = (u.ingot i).slotsUsed ∧ (v.ingot i).locks = (u.ingot i).locks ∧
      (v.ingot i).intake = (u.ingot i).intake) : Joined s v i x := by
  obtain ⟨hslots, hlocks, hintake⟩ := hingot
  have hpip : ∀ p, v.pip p = u.pip p := fun p => by rw [State.pip, hpips, State.pip]
  exact ⟨by rw [hpip, h.queue], hslots.trans h.slots, by rw [pageLocks, hlocks]; exact h.locks, hintake.trans h.intake⟩

theorem acceptDesc_joined (s : State) (i : Nat) (x : Intake) : Joined s (acceptDesc s i x) i x := by
  have h := enqueued_joined s i x
  rw [acceptDesc_eq]
  split
  · refine h.of_parts rfl ?_
    rw [State.countIngot, ingot_updIngot_self]
    exact ⟨rfl, rfl, rfl⟩
  · split
    · split
      · next b _ =>
        have honly := noteLayer_only (enqueued s i x) b ((enqueued s i x).cluster (LDesc.CLUSTER.get x.desc)).wlayer
        refine h.of_parts (honly.same .pips (by decide)) ?_
        rw [ingot_of_ingots (honly.same .ingots (by decide))]
        exact ⟨rfl, rfl, rfl⟩
      · exact h
    · exact h

theorem takeDesc_of_accepts {i : Nat} {x : Intake} (hgood : descBad s i x.desc = false)
    (hslots : (s.ingot i).slotsUsed + dNq x.desc ≤ 6144) (hqueue : (s.pip (pagePip i (LDesc.PAGE.get x.desc))).queue.length < 8)
    (hlock : canLock (s.ingot i) (LDesc.PAGE.get x.desc) (LDesc.ISSUER.get x.desc) (LDesc.CLUSTER.get x.desc) = true) :
    takeDesc s i x = some (acceptDesc s i x, St.ok) := by
  rw [takeDesc, if_neg (by rw [hgood]; exact Bool.false_ne_true), if_neg]
  simp only [hlock, Bool.or_eq_true, decide_eq_true_eq, Bool.not_true, Bool.false_eq_true, or_false]
  omega

theorem canLock_of_locks {g g' : Ingot} (h : g'.locks = g.locks) (page chip cluster : Nat) :
    canLock g' page chip cluster = canLock g page chip cluster := by
  rw [canLock, lockHolders, pageLocks, h, canLock, lockHolders, pageLocks]

theorem descBad_offered (s : State) (i j : Nat) (x : Intake) (via : Via) (d : BitVec 256) : descBad (offered s i x via) j d = descBad s j d := by
  cases via <;> rfl

theorem entOf_offered (s : State) (i : Nat) (x : Intake) (via : Via) (chip qid : Nat) :
    entOf (offered s i x via) i chip qid = entOf s i chip qid := by
  have hown : ownChip (offered s i x via) = ownChip s := ownChip_dispReceived s x via
  rw [entOf, hown, offered_ingot, entOf]
  rfl

theorem pip_offered (s : State) (i : Nat) (x : Intake) (via : Via) : (offered s i x via).pip = s.pip := by
  cases via <;> rfl

theorem pcNow_offered (s : State) (i : Nat) (x : Intake) (via : Via) : pcNow (offered s i x via) = pcNow s := by
  cases via <;> rfl

/-- What a descriptor that joins leaves once its packet has left the intake. -/
theorem joined_of_takenIn {i : Nat} {x : Intake} {via : Via} (hv : Joined (offered s i x via) v i x) (h : TakenIn s v t i x via) :
    (t.pip (pagePip i (LDesc.PAGE.get x.desc))).queue = (s.pip (pagePip i (LDesc.PAGE.get x.desc))).queue ++
        [⟨x.desc, x.mask, entOf s i (LDesc.ISSUER.get x.desc) (LDesc.QID.get x.desc), false⟩] ∧
      (t.ingot i).slotsUsed = (s.ingot i).slotsUsed + dNq x.desc ∧
      pageLocks (t.ingot i) (LDesc.PAGE.get x.desc) = pageLocks (s.ingot i) (LDesc.PAGE.get x.desc) ++
        [⟨LDesc.ISSUER.get x.desc, LDesc.CLUSTER.get x.desc, pcNow s⟩] ∧
      (t.ingot i).intake = [] ∧ ∀ port hp, via = some (port, hp) → Replies ⟨hp, 0#4096⟩ St.ok 0 s t := by
  have hintake := hv.intake
  rw [offered_ingot] at hintake
  obtain ⟨ptr, cls, hingot⟩ := h.ingot
  have hqueue := hv.queue
  have hslots := hv.slots
  have hlocks := hv.locks
  rw [pip_offered, entOf_offered] at hqueue
  rw [offered_ingot] at hslots hlocks
  rw [pcNow_offered] at hlocks
  refine ⟨by rw [h.pip, hqueue], by rw [hingot]; exact hslots, by rw [hingot]; exact hlocks, h.intake hintake, h.acked⟩

/-- May the descriptor of a packet be accepted (R65, R94, R95)? -/
def Acceptable (s : State) (i : Nat) (d : BitVec 256) : Prop :=
  descBad s i d = false ∧ (s.ingot i).slotsUsed + dNq d ≤ 6144 ∧ (s.pip (pagePip i (LDesc.PAGE.get d))).queue.length < 8 ∧
    canLock (s.ingot i) (LDesc.PAGE.get d) (LDesc.ISSUER.get d) (LDesc.CLUSTER.get d) = true

theorem acceptable_offered {i : Nat} {d : BitVec 256} (h : Acceptable s i d) (x : Intake) (via : Via) : Acceptable (offered s i x via) i d := by
  obtain ⟨hgood, hslots, hqueue, hlock⟩ := h
  unfold Acceptable
  rw [descBad_offered, offered_ingot, pip_offered]
  exact ⟨hgood, hslots, hqueue, (canLock_of_locks rfl ..).trans hlock⟩

theorem takeStatus_of_accepts {i : Nat} {x : Intake} (hdesc : dispType x.hdr = 1 ∨ dispType x.hdr = 2)
    (hok : dispOk x.hdr x.words.length = true) (hremote : dispRemote s i x = true) (h : Acceptable s i x.desc) :
    takeStatus s i x = some (acceptDesc s i x, St.ok) := by
  obtain ⟨hgood, hslots, hqueue, hlock⟩ := h
  rw [takeStatus_of_remote hok hremote, ← takeDesc_of_accepts hgood hslots hqueue hlock]
  rcases hdesc with h | h
  · rw [h]
    rfl
  · rw [h]
    rfl

/-- A row of a descriptor that is accepted. -/
theorem descRow_runs {instr : Instr} {type i : Nat} {via : Via} {x : Intake} {P : State → Prop} (hvia : x.via = via.map (·.2))
    (hrow : exec instr s = dispRow type i via x.hdr x.desc x.mask x.words s) (hdesc : type = 1 ∨ type = 2) (hrun : running .arith s = true)
    (hi : i < 16) (hingot : LDisp.INGOT.get x.hdr = i) (harr : dispArrives s i via = true) (hempty : (s.ingot i).intake = [])
    (htype : dispType x.hdr = type) (hok : dispOk x.hdr x.words.length = true) (haccept : Acceptable s i x.desc)
    (hremote : dispRemote s i x = true) (hP : ∀ v t, Joined (offered s i x via) v i x → TakenIn s v t i x via → P t) : Runs instr s P :=
  dispRow_runs hvia hrow hrun hi hingot harr htype hempty
    (takeStatus_of_accepts (htype.symm ▸ hdesc) hok (by rw [dispRemote_offered]; exact hremote) (acceptable_offered haccept x via))
    ((acceptDesc_only ..).same .fab (by decide)) fun t ht => hP _ t (acceptDesc_joined ..) ht

/-! ## QUERY, CLOSE and RELEASE (R65, R157, R158, R160, R162, R168) -/

theorem takeQuery_of_free {i k : Nat} {x : Intake}
    (hk : (if dispChip x.hdr = ownChip s then some (LDisp.TAG.get x.hdr % 256)
      else (boundEnt (s.ingot i) (dispChip x.hdr) (LDisp.TAG.get x.hdr % 256)).or (freeEnt (s.ingot i))) = some k)
    (hfree : (qEnt (s.ingot i) k).waiting = 0) :
    takeQuery s i x = some (writeEnt s i k (dispChip x.hdr) (LDisp.TAG.get x.hdr % 256) x.words) := by
  rw [takeQuery, hk]
  dsimp only
  rw [if_neg (not_not_intro hfree)]

theorem writeEnt_qEnt (s : State) (i k chip qid : Nat) (words : List W32) :
    (qEnt ((writeEnt s i k chip qid words).ingot i) k).words = words ++ (qEnt (s.ingot i) k).words.drop words.length ∧
    (qEnt ((writeEnt s i k chip qid words).ingot i) k).version = (qEnt (s.ingot i) k).version + 1 ∧
    ((writeEnt s i k chip qid words).ingot i).intake = (s.ingot i).intake := by
  rw [writeEnt, ingot_updIngot_self]
  dsimp only
  have hent : ∀ e, qEnt (setQEnt (s.ingot i) k e) k = e := fun e => get_set_self ..
  rw [hent]
  exact ⟨rfl, rfl, rfl⟩

/-- The groups of an ingot and its intake. -/
def groupsOf (x : Ingot) : List MGroup × List Intake := (x.groups, x.intake)

theorem groupsOf_foldl {α : Type} {f : State → α → State} (i : Nat)
    (h : ∀ s a, groupsOf ((f s a).ingot i) = groupsOf (s.ingot i)) (l : List α) (s : State) :
    groupsOf ((l.foldl f s).ingot i) = groupsOf (s.ingot i) := by
  induction l generalizing s with
  | nil => rfl
  | cons a l ih => rw [List.foldl_cons, ih, h]

theorem sendRow_groups (i j : Nat) (g : MGroup) (s : State) (p : Nat × Nat) : groupsOf ((sendRow i g s p).ingot j) = groupsOf (s.ingot j) := by
  rw [ingot_of_ingots ((sendRow_only i g s p).same .ingots (by decide))]

theorem sendGroups_groups (s : State) (i : Nat) : groupsOf ((sendGroups s i).ingot i) =
    (((s.ingot i).groups.map sentGroup).filter (fun g => !groupDone g), (s.ingot i).intake) := by
  unfold sendGroups
  dsimp only
  rw [groupsOf_foldl i (fun s g => ?_), ingot_updIngot_self]
  · rfl
  · rw [groupsOf_foldl i (fun s p => sendRow_groups i i g s p)]
    split
    · rw [State.countIngot, ingot_updIngot_self]
      rfl
    · rfl

theorem takeClose_groups (s : State) (i : Nat) (x : Intake) : groupsOf ((takeClose s i x).ingot i) =
    (((closeGroup (s.ingot i).groups (dispChip x.hdr) (dispCluster x.hdr) (LDisp.TAG.get x.hdr) (LDisp.COUNT.get x.hdr)).map
      sentGroup).filter (fun g => !groupDone g), (s.ingot i).intake) := by
  rw [takeClose, sendGroups_groups, ingot_updIngot_self]

/-- What a RELEASE leaves is none of its cluster's. -/
theorem takeRelease_leaves (s : State) (i : Nat) (x : Intake) :
    (∀ page l, l ∈ pageLocks ((takeRelease s i x).ingot i) page → ¬(l.chip = dispChip x.hdr ∧ l.cluster = dispCluster x.hdr)) ∧
    (∀ g, g ∈ ((takeRelease s i x).ingot i).groups → ¬(g.chip = dispChip x.hdr ∧ g.cluster = dispCluster x.hdr)) ∧
    ((takeRelease s i x).ingot i).intake = (s.ingot i).intake := by
  unfold takeRelease
  rw [ingot_updIngot_self]
  refine ⟨fun page l hl => ?_, fun g hg => ?_, rfl⟩
  · have hkept := (locksAt_keepLocks (x := s.ingot i)
      (p := fun _ l => !(l.chip == dispChip x.hdr && l.cluster == dispCluster x.hdr)) (mem_locksAt_of_pageLocks hl)).2
    rw [not_and_or]
    simpa using hkept
  · have hkept := (List.mem_filter.mp hg).2
    rw [not_and_or]
    simpa using hkept

section
variable {i : Nat} {x : Intake} (hok : dispOk x.hdr x.words.length = true) (hremote : dispRemote s i x = true)
include hok hremote

theorem takeStatus_query (htype : dispType x.hdr = 3) (htake : takeQuery s i x = some t) : takeStatus s i x = some (t, St.ok) := by
  rw [takeStatus_of_remote hok hremote, htype]
  exact congrArg (Option.map fun t => (t, St.ok)) htake

theorem takeStatus_close (htype : dispType x.hdr = 4) : takeStatus s i x = some (takeClose s i x, St.ok) := by
  rw [takeStatus_of_remote hok hremote, htype]
  rfl

theorem takeStatus_release (htype : dispType x.hdr = 5) : takeStatus s i x = some (takeRelease s i x, St.ok) := by
  rw [takeStatus_of_remote hok hremote, htype]
  rfl

end

theorem emptied_groups (port ptr cls : Nat) (g : Ingot) : (emptied port ptr cls g).groups = g.groups := rfl

theorem pageLocks_emptied (port ptr cls : Nat) (g : Ingot) : pageLocks (emptied port ptr cls g) = pageLocks g := rfl

theorem qEnt_emptied (port ptr cls : Nat) (g : Ingot) : qEnt (emptied port ptr cls g) = qEnt g := rfl

section
variable {i : Nat} {via : Via} {x : Intake} (hvia : x.via = via.map (·.2)) (hrun : running .arith s = true) (hi : i < 16)
  (hingot : LDisp.INGOT.get x.hdr = i) (harr : dispArrives s i via = true) (hempty : (s.ingot i).intake = [])
  (hok : dispOk x.hdr x.words.length = true) (hremote : dispRemote s i x = true)
include hvia hrun hi hingot harr hempty hok hremote

theorem queryRow_runs {instr : Instr} {P : State → Prop} (hrow : exec instr s = dispRow 3 i via x.hdr x.desc x.mask x.words s)
    (htype : dispType x.hdr = 3) {k : Nat} (hk : (if dispChip x.hdr = ownChip s then some (LDisp.TAG.get x.hdr % 256)
      else (boundEnt (s.ingot i) (dispChip x.hdr) (LDisp.TAG.get x.hdr % 256)).or (freeEnt (s.ingot i))) = some k)
    (hfree : (qEnt (s.ingot i) k).waiting = 0)
    (hP : ∀ t, (qEnt (t.ingot i) k).words = x.words ++ (qEnt (s.ingot i) k).words.drop x.words.length →
      (qEnt (t.ingot i) k).version = (qEnt (s.ingot i) k).version + 1 → (t.ingot i).intake = [] →
      (∀ port hp, via = some (port, hp) → Replies ⟨hp, 0#4096⟩ St.ok 0 s t) → P t) : Runs instr s P := by
  have hown : ownChip (offered s i x via) = ownChip s := ownChip_dispReceived s x via
  have hbuf : ∀ j, qEnt ((offered s i x via).ingot i) j = qEnt (s.ingot i) j := fun j => by rw [offered_ingot]; rfl
  have hk' : (if dispChip x.hdr = ownChip (offered s i x via) then some (LDisp.TAG.get x.hdr % 256)
      else (boundEnt ((offered s i x via).ingot i) (dispChip x.hdr) (LDisp.TAG.get x.hdr % 256)).or
        (freeEnt ((offered s i x via).ingot i))) = some k := by
    rw [hown, offered_ingot]
    exact hk
  have htake : takeStatus (offered s i x via) i x = some (writeEnt (offered s i x via) i k (dispChip x.hdr) (LDisp.TAG.get x.hdr % 256) x.words, St.ok) :=
    takeStatus_query hok (by rw [dispRemote_offered]; exact hremote) htype (takeQuery_of_free hk' (by rw [hbuf]; exact hfree))
  refine dispRow_runs hvia hrow hrun hi hingot harr htype hempty htake ((writeEnt_only ..).same .fab (by decide)) fun t ht => ?_
  obtain ⟨hwords, hversion, hintake⟩ := writeEnt_qEnt (offered s i x via) i k (dispChip x.hdr) (LDisp.TAG.get x.hdr % 256) x.words
  obtain ⟨ptr, cls, hemptied⟩ := ht.ingot
  have hent : qEnt (t.ingot i) k = qEnt ((writeEnt (offered s i x via) i k (dispChip x.hdr) (LDisp.TAG.get x.hdr % 256) x.words).ingot i) k := by
    rw [hemptied, qEnt_emptied]
  rw [hbuf] at hwords hversion
  exact hP t (by rw [hent, hwords]) (by rw [hent, hversion]) (ht.intake (by rw [hintake, offered_ingot])) ht.acked

theorem closeRow_runs {instr : Instr} {P : State → Prop} (hrow : exec instr s = dispRow 4 i via x.hdr x.desc x.mask x.words s)
    (htype : dispType x.hdr = 4)
    (hP : ∀ t, (t.ingot i).groups = ((closeGroup (s.ingot i).groups (dispChip x.hdr) (dispCluster x.hdr) (LDisp.TAG.get x.hdr)
        (LDisp.COUNT.get x.hdr)).map sentGroup).filter (fun g => !groupDone g) → (t.ingot i).intake = [] →
      (∀ port hp, via = some (port, hp) → Replies ⟨hp, 0#4096⟩ St.ok 0 s t) → P t) : Runs instr s P := by
  have htake : takeStatus (offered s i x via) i x = some (takeClose (offered s i x via) i x, St.ok) :=
    takeStatus_close hok (by rw [dispRemote_offered]; exact hremote) htype
  refine dispRow_runs hvia hrow hrun hi hingot harr htype hempty htake ((takeClose_only ..).same .fab (by decide)) fun t ht => ?_
  have hclose := takeClose_groups (offered s i x via) i x
  rw [offered_ingot, groupsOf, Prod.mk.injEq] at hclose
  obtain ⟨hgroups, hintake⟩ := hclose
  obtain ⟨ptr, cls, hemptied⟩ := ht.ingot
  refine hP t ?_ (ht.intake hintake) ht.acked
  rw [hemptied, emptied_groups, hgroups]

theorem releaseRow_runs {instr : Instr} {P : State → Prop} (hrow : exec instr s = dispRow 5 i via x.hdr x.desc x.mask x.words s)
    (htype : dispType x.hdr = 5)
    (hP : ∀ t, (∀ page l, l ∈ pageLocks (t.ingot i) page → ¬(l.chip = dispChip x.hdr ∧ l.cluster = dispCluster x.hdr)) →
      (∀ g, g ∈ (t.ingot i).groups → ¬(g.chip = dispChip x.hdr ∧ g.cluster = dispCluster x.hdr)) → (t.ingot i).intake = [] →
      (∀ port hp, via = some (port, hp) → Replies ⟨hp, 0#4096⟩ St.ok 0 s t) → P t) : Runs instr s P := by
  have htake : takeStatus (offered s i x via) i x = some (takeRelease (offered s i x via) i x, St.ok) :=
    takeStatus_release hok (by rw [dispRemote_offered]; exact hremote) htype
  refine dispRow_runs hvia hrow hrun hi hingot harr htype hempty htake ((takeRelease_only ..).same .fab (by decide)) fun t ht => ?_
  obtain ⟨hlocks, hgroups, hintake⟩ := takeRelease_leaves (offered s i x via) i x
  obtain ⟨ptr, cls, hemptied⟩ := ht.ingot
  rw [offered_ingot] at hintake
  refine hP t (fun page l hl => hlocks page l ?_) (fun g hg => hgroups g ?_) (ht.intake hintake) ht.acked
  · rwa [hemptied, pageLocks_emptied] at hl
  · rwa [hemptied, emptied_groups] at hg

end

/-- Only a descriptor's page counts for the windows (R361). -/
theorem dispRemote_of_hdr {i : Nat} {x y : Intake} (hvia : y.via = x.via) (hhdr : y.hdr = x.hdr) (htype : 3 ≤ dispType x.hdr)
    (h : dispRemote s i x = true) : dispRemote s i y = true := by
  have h1 : (dispType x.hdr == 1) = false := by
    rw [beq_eq_false_iff_ne]
    omega
  have h2 : (dispType x.hdr == 2) = false := by
    rw [beq_eq_false_iff_ne]
    omega
  unfold dispRemote at h ⊢
  rw [hvia, hhdr]
  simpa only [h1, h2, Bool.or_false, Bool.not_false, Bool.true_or, Bool.and_true] using h

/-- Settles O29: a packet that comes alone is granted the intake, and what its type does is done. -/
theorem dispatchPacketsAreTakenIn : Obligations.DispatchPacketsAreTakenIn := by
  intro s i via h d mask words pip accepts acked joined may hrun hi hingot harr hempty
  refine ⟨fun htype hok haccept hmay => ?_, fun htype hok haccept hmay => ?_, fun htype hok hmay k hk hfree => ?_,
    fun htype hok hmay => ?_, fun htype hok hmay => ?_⟩
  · have hrow : exec (.desc i via h d) s = execDesc i via h d s := rfl
    refine descRow_runs (x := ⟨via.map (·.2), h, d, none, []⟩) rfl hrow (.inl rfl) hrun hi hingot harr hempty htype hok haccept hmay ?_
    intro v t hv ht
    obtain ⟨hqueue, hslots, hlocks, hintake, hack⟩ := joined_of_takenIn hv ht
    exact ⟨hqueue, hslots, hlocks, hintake, hack⟩
  · have hrow : exec (.descMasked i via h d mask) s = execDescMasked i via h d mask s := rfl
    refine descRow_runs (x := ⟨via.map (·.2), h, d, some mask, []⟩) rfl hrow (.inr rfl) hrun hi hingot harr hempty htype hok haccept hmay ?_
    intro v t hv ht
    obtain ⟨hqueue, hslots, hlocks, hintake, hack⟩ := joined_of_takenIn hv ht
    exact ⟨hqueue, hslots, hlocks, hintake, hack⟩
  · have hthree : 3 ≤ dispType h := by rw [htype]
    have hrow : exec (.query i via h words) s = execQuery i via h words s := rfl
    have hremote : dispRemote s i ⟨via.map (·.2), h, 0#256, none, words⟩ = true :=
      dispRemote_of_hdr (x := ⟨via.map (·.2), h, d, none, words⟩) rfl rfl hthree hmay
    refine queryRow_runs (x := ⟨via.map (·.2), h, 0#256, none, words⟩) rfl hrun hi hingot harr hempty hok
      hremote hrow htype hk hfree ?_
    intro t hwords hversion hintake hack
    exact ⟨hwords, hversion, hintake, hack⟩
  · have hthree : 3 ≤ dispType h := by rw [htype]; decide
    have hrow : exec (.close i via h) s = execClose i via h s := rfl
    have hremote : dispRemote s i ⟨via.map (·.2), h, 0#256, none, []⟩ = true :=
      dispRemote_of_hdr (x := ⟨via.map (·.2), h, d, none, words⟩) rfl rfl hthree hmay
    refine closeRow_runs (x := ⟨via.map (·.2), h, 0#256, none, []⟩) rfl hrun hi hingot harr hempty hok
      hremote hrow htype ?_
    intro t hgroups hintake hack
    exact ⟨hgroups, hintake, hack⟩
  · have hthree : 3 ≤ dispType h := by rw [htype]; decide
    have hrow : exec (.dispatchRelease i via h) s = execDispatchRelease i via h s := rfl
    have hremote : dispRemote s i ⟨via.map (·.2), h, 0#256, none, []⟩ = true :=
      dispRemote_of_hdr (x := ⟨via.map (·.2), h, d, none, words⟩) rfl rfl hthree hmay
    refine releaseRow_runs (x := ⟨via.map (·.2), h, 0#256, none, []⟩) rfl hrun hi hingot harr hempty hok
      hremote hrow htype ?_
    intro t hlocks hgroups hintake hack
    exact ⟨hlocks, hgroups, hintake, hack⟩

end Sys2Proof.Intake
end

section
/-! The vector engine: what an instruction's rows are read from, where they are stored, and what then stands there (R190,
R212, R219 to R227). -/

namespace Sys2Proof.Vector

open Sys2Proof Sys2Proof.Machine Sys2Proof.Laws Sys2Proof.Pins Sys2Proof.Stores

variable {s t u : State}

/-! ## Reads depend on the memory alone -/

section
variable (h : t.mem = s.mem)
include h

theorem memByte_of_mem : memByte t = memByte s := funext fun k => by rw [memByte, memByte, h]

theorem readBytes_of_mem : readBytes t = readBytes s := by
  funext k n
  rw [readBytes, readBytes, memByte_of_mem h]

theorem readNat_of_mem : readNat t = readNat s := by
  funext k n
  rw [readNat, readNat, readBytes_of_mem h]

theorem readNib_of_mem : readNib t = readNib s := by
  funext k n
  rw [readNib, readNib, memByte_of_mem h]

theorem elemCode_of_mem : elemCode t = elemCode s := by
  funext bits k n
  rw [elemCode, elemCode, readNib_of_mem h, readNat_of_mem h, memByte_of_mem h]

theorem elemVal_of_mem : elemVal t = elemVal s := by
  funext bits k n
  rw [elemVal, elemVal, elemCode_of_mem h]

theorem elemRow_of_mem : elemRow t = elemRow s := by
  funext bits k n
  rw [elemRow, elemRow, elemVal_of_mem h]

theorem packNibs_of_mem (k : Nat) (l : List Nat) : packNibs t k l = packNibs s k l := by
  induction l using List.twoStepInduction generalizing k with
  | nil => rfl
  | singleton a => rw [packNibs, packNibs, memByte_of_mem h]
  | cons_cons a b l ih _ => rw [packNibs, packNibs, ih]

theorem packRow_of_mem : packRow t = packRow s := by
  funext bits k l
  rw [packRow, packRow, packNibs_of_mem h]

theorem readWords_of_mem : readWords t = readWords s := by
  funext k n
  simp only [readWords, readF32, readNat_of_mem h]

theorem vxARow_of_mem (c : Nat) (w : BitVec 256) : vxARow t c w = vxARow s c w := by
  funext m
  rw [vxARow, vxARow, elemRow_of_mem h]

theorem vxBRow_of_mem (c : Nat) (w : BitVec 256) : vxBRow t c w = vxBRow s c w := by
  funext m
  rw [vxBRow, vxBRow, elemRow_of_mem h, elemVal_of_mem h]

theorem vxMask_of_mem (hfree : t.free = s.free) (c : Nat) (w : BitVec 256) : vxMask t c w = vxMask s c w := by
  funext m
  rw [vxMask, vxMask, elemCode_of_mem h, hfree]

theorem rotRow_of_mem : rotRow t = rotRow s := by
  have hfreq : freqAt t = freqAt s := by
    funext k i
    rw [freqAt, freqAt, readNat_of_mem h]
  funext ctl pos table row
  rw [rotRow, rotRow, hfreq]

theorem rowPos_of_mem : rowPos t = rowPos s := by
  funext c m
  rw [rowPos, rowPos, readNat_of_mem h]

theorem recHdr_of_mem : recHdr t = recHdr s := by
  funext k
  rw [recHdr, recHdr, readNat_of_mem h]

theorem recRow_of_mem : recRow t = recRow s := by
  funext k n
  rw [recRow, recRow, recHdr_of_mem h, readWords_of_mem h]

end

/-- What an instruction's rows are read from: the memory and the count of free values. -/
def ReadsMem (row : State → Nat → List (Nat × List Byte)) : Prop :=
  ∀ ⦃s t : State⦄, t.mem = s.mem → t.free = s.free → row t = row s

/-! ## Writes that do not overlap -/

/-- The writes of a list, in order. -/
def putAll (m : Tab Byte) (l : List (Nat × List Byte)) : Tab Byte := l.foldl (fun m p => memPut m p.1 p.2) m

theorem get_putAll_outside {m : Tab Byte} {l : List (Nat × List Byte)} {j : Nat}
    (h : ∀ p ∈ l, j < p.1 ∨ p.1 + p.2.length ≤ j) : Tab.get (putAll m l) 0#8 j = Tab.get m 0#8 j := by
  induction l generalizing m with
  | nil => rfl
  | cons p l ih =>
    rw [List.forall_mem_cons] at h
    exact (ih h.2).trans (get_memPut_other _ h.1)

/-- Bytes that stand at a place still stand there after writes elsewhere and writes of the same bytes. -/
theorem get_putAll_kept {m : Tab Byte} {l : List (Nat × List Byte)} {p : Nat × List Byte} {i : Nat} (hi : i < p.2.length)
    (hm : Tab.get m 0#8 (p.1 + i) = p.2[i])
    (h : ∀ q ∈ l, q = p ∨ q.1 + q.2.length ≤ p.1 ∨ p.1 + p.2.length ≤ q.1) :
    Tab.get (putAll m l) 0#8 (p.1 + i) = p.2[i] := by
  induction l generalizing m with
  | nil => exact hm
  | cons q l ih =>
    rw [List.forall_mem_cons] at h
    refine ih ?_ h.2
    obtain rfl | hq := h.1
    · exact get_memPut_self _ _ hi
    · exact (get_memPut_other _ (by omega)).trans hm

/-- Of writes that do not overlap, each one's bytes stand at its place. -/
theorem get_putAll_self {m : Tab Byte} {l : List (Nat × List Byte)} {p : Nat × List Byte} {i : Nat} (hi : i < p.2.length)
    (hp : p ∈ l) (h : ∀ q ∈ l, q = p ∨ q.1 + q.2.length ≤ p.1 ∨ p.1 + p.2.length ≤ q.1) :
    Tab.get (putAll m l) 0#8 (p.1 + i) = p.2[i] := by
  obtain ⟨l₁, l₂, rfl⟩ := List.append_of_mem hp
  rw [List.forall_mem_append, List.forall_mem_cons] at h
  rw [putAll, List.foldl_append, List.foldl_cons]
  exact get_putAll_kept hi (get_memPut_self _ _ hi) h.2.2

theorem readBytes_putAll {l : List (Nat × List Byte)} {p : Nat × List Byte} (ht : t.mem = putAll s.mem l)
    (hp : p ∈ l) (h : ∀ q ∈ l, q = p ∨ q.1 + q.2.length ≤ p.1 ∨ p.1 + p.2.length ≤ q.1) :
    readBytes t p.1 p.2.length = p.2 := by
  refine List.ext_getElem (by simp [readBytes]) fun i _ hi => ?_
  simp only [readBytes, List.getElem_map, List.getElem_range, memByte, ht]
  exact get_putAll_self hi hp h

theorem memByte_putAll {l : List (Nat × List Byte)} {j : Nat} (ht : t.mem = putAll s.mem l)
    (h : ∀ p ∈ l, j < p.1 ∨ p.1 + p.2.length ≤ j) : memByte t j = memByte s j := by
  rw [memByte, ht, get_putAll_outside h, memByte]

theorem foldl_rawWrite_mem (l : List (Nat × List Byte)) (s : State) :
    (l.foldl (fun s p => rawWrite s p.1 p.2) s).mem = putAll s.mem l := by
  induction l generalizing s with
  | nil => rfl
  | cons p l ih => exact ih _

/-- Rows of one length at a pitch that they fit do not overlap. -/
theorem strided_apart {base pitch n : Nat} (hn : n ≤ pitch) {m k : Nat} (h : m ≠ k) :
    base + k * pitch + n ≤ base + m * pitch ∨ base + m * pitch + n ≤ base + k * pitch := by
  obtain h | h := Nat.lt_or_gt_of_ne h
  · have := Nat.mul_le_mul_right pitch h
    rw [Nat.succ_mul] at this
    omega
  · have := Nat.mul_le_mul_right pitch h
    rw [Nat.succ_mul] at this
    omega

/-! ## Checks depend on some parts of the state alone -/

theorem ownChip_of_fab (h : t.fab = s.fab) : ownChip t = ownChip s := by rw [ownChip, ownChip, h]

theorem placeOf_of_fab (h : t.fab = s.fab) : placeOf t = placeOf s := by
  funext a
  rw [placeOf, placeOf, ownChip_of_fab h]

theorem devAddr_of_fab (h : t.fab = s.fab) : devAddr t = devAddr s := by
  funext a
  rw [devAddr, devAddr, ownChip_of_fab h]

theorem inWindows_of_same (hfab : t.fab = s.fab) (hseats : t.seats = s.seats) : inWindows t = inWindows s := by
  funext n write a len
  simp only [inWindows, seatEnabled, tierOf, Machine.State.seat, placeOf_of_fab hfab, hseats]

theorem ownedArea_of_same (hbank : t.bank = s.bank) (hbinds : t.binds = s.binds) : ownedArea t = ownedArea s := by
  funext off len
  simp only [ownedArea, hmFixed, loadedBinds, Machine.State.bind, hbank, hbinds]

theorem uncorrAt_of_errs (h : t.wordErr = s.wordErr) : uncorrAt t = uncorrAt s := by
  funext k n
  rw [uncorrAt, uncorrAt, h]

theorem partialUncorr_of_same (h : t.wordErr = s.wordErr) : partialUncorr t = partialUncorr s := by
  funext k n
  rw [partialUncorr, partialUncorr, h]

theorem badRange_of_errs (h : t.wordErr = s.wordErr) : badRange t = badRange s := by
  funext l
  rw [badRange, badRange, uncorrAt_of_errs h]

theorem vxRefused_of_only (h : OnlyChanges [.cores] s t) (seat c : Nat) (w : BitVec 256) :
    vxRefused t seat c w = vxRefused s seat c w := by
  have hfab := h.same .fab (by decide)
  have hwin := inWindows_of_same hfab (h.same .seats (by decide))
  have hown := ownedArea_of_same (h.same .bank (by decide)) (h.same .binds (by decide))
  simp only [vxRefused, vxWindows, spanAddr, hwin, hown, ownChip_of_fab hfab]

/-! ## An instruction that need not wait -/

/-- The parts of the state that an instruction of the vector engine may change as it is performed. -/
def vxParts : List Part := [.mem, .wordErr, .dirty, .ingots, .hm, .bank, .cores, .free]

/-- The conditions of a performed instruction: it is well formed, need not wait, is not refused and can read its operands. -/
def goes (s : State) (b c : Nat) (w : BitVec 256) (op : Nat) : Bool :=
  running .arith s && decide (c < 256) && LVx.OP.get w == op && vxForm (c % 8) w &&
    !vxWaits s b c w && !vxRefused s (s.bind b).seat c w && !(vxWrites c w).any (fun d => partialUncorr s d.1 d.2) &&
    (badRange s (vxReads c w)).isNone

theorem noteRanges_mem (s : State) (l : List (Nat × Nat)) : (noteRanges s l).mem = s.mem :=
  (noteRanges_only s l).same .mem (by decide)

theorem noteRanges_free (s : State) (l : List (Nat × Nat)) : (noteRanges s l).free = s.free :=
  (noteRanges_only s l).same .free (by decide)

theorem countCore_mem (s : State) (c k n : Nat) : (s.countCore c k n).mem = s.mem := rfl

theorem vxPerform_mem (c : Nat) (w : BitVec 256) (row : State → Nat → List (Nat × List Byte)) (s : State) :
    (vxPerform c w row s).mem = putAll s.mem ((List.range (vxRows w)).flatMap (row s)) := by
  refine Eq.trans ?_ (foldl_rawWrite_mem _ s)
  simp only [vxPerform, countCore_mem, vxStore]
  split
  · rfl
  · rfl

theorem vxRun_of_begun {b c : Nat} {w : BitVec 256} {row : State → Nat → List (Nat × List Byte)}
    (hu : beginNext s b c 2 = u) (hwait : vxWaits s b c w = false) (hallow : vxRefused s (s.bind b).seat c w = false)
    (hwhole : (vxWrites c w).any (fun d => partialUncorr s d.1 d.2) = false) (hgood : badRange s (vxReads c w) = none) :
    vxRun c b w row s = vxPerform c w row (noteRanges u (vxReads c w)) := by
  have hbegun : OnlyChanges [.cores] s u := hu ▸ beginNext_only s b c 2
  have herrs := hbegun.same .wordErr (by decide)
  have hseat : (u.bind b).seat = (s.bind b).seat := by
    rw [Machine.State.bind, Machine.State.bind, hbegun.same .binds (by decide)]
  have hfind : (vxWrites c w).find? (fun d => partialUncorr u d.1 d.2) = none := by
    rw [partialUncorr_of_same herrs]
    exact List.find?_eq_none.mpr fun d hd => by simpa using List.any_eq_false.mp hwhole d hd
  rw [← badRange_of_errs herrs] at hgood
  rw [← vxRefused_of_only hbegun, ← hseat] at hallow
  simp only [vxRun, hwait, hu, hallow, hfind, withRanges, hgood, Bool.false_eq_true, if_false]

theorem vxRun_performs {b c : Nat} {w : BitVec 256} {row : State → Nat → List (Nat × List Byte)} (hreads : ReadsMem row)
    (hwait : vxWaits s b c w = false) (hallow : vxRefused s (s.bind b).seat c w = false)
    (hwhole : (vxWrites c w).any (fun d => partialUncorr s d.1 d.2) = false) (hgood : badRange s (vxReads c w) = none) :
    (vxRun c b w row s).mem = putAll s.mem ((List.range (vxRows w)).flatMap (row s)) ∧
      OnlyChanges vxParts s (vxRun c b w row s) := by
  have hbegun := beginNext_only s b c 2
  rw [vxRun_of_begun rfl hwait hallow hwhole hgood]
  generalize beginNext s b c 2 = u at hbegun ⊢
  refine ⟨?_, ?_⟩
  · rw [vxPerform_mem, noteRanges_mem, hreads (noteRanges_mem _ _) (noteRanges_free _ _),
      hreads (hbegun.same .mem (by decide)) (hbegun.same .free (by decide)), hbegun.same .mem (by decide)]
  · exact only_step (vxPerform_only ..) (by decide) (only_step (noteRanges_only ..) (by decide)
      (only_step hbegun (by decide) (only_refl _ _)))

/-! ## What a performed instruction leaves -/

section
variable {b c op n : Nat} {w : BitVec 256} {i : Instr} {row : State → Nat → List (Nat × List Byte)} {f : Nat → List Byte}

/-- The result of each row stands at its place, and nothing else of the memory has changed. -/
def Gives (s : State) (c : Nat) (w : BitVec 256) (i : Instr) (n : Nat) (key : Nat → Nat) (row : Nat → List Byte) : Prop :=
  Runs i s fun t =>
    (∀ m, m < vxRows w → readBytes t (key m) n = row m) ∧
    (∀ k, (∀ d, d ∈ vxWrites c w → k < d.1 ∨ d.1 + d.2 ≤ k) → memByte t k = memByte s k) ∧
    OnlyChanges [.mem, .wordErr, .dirty, .ingots, .hm, .bank, .cores, .free] s t

theorem op_of_goes (h : goes s b c w op = true) : LVx.OP.get w = op := by
  simp only [goes, Bool.and_eq_true, beq_iff_eq] at h
  obtain ⟨⟨⟨⟨⟨⟨-, hop⟩, -⟩, -⟩, -⟩, -⟩, -⟩ := h
  exact hop

theorem form_of_goes (h : goes s b c w op = true) : vxForm (c % 8) w = true := by
  simp only [goes, Bool.and_eq_true] at h
  obtain ⟨⟨⟨⟨⟨-, hform⟩, -⟩, -⟩, -⟩, -⟩ := h
  exact hform

/-- An instruction that goes stores its rows, read from the memory as it stood. -/
theorem runs_of_goes {P : State → Prop} (hrow : exec i s = vxRow op c w row s) (hb : layerHolder s = some b)
    (hgoes : goes s b c w op = true) (hreads : ReadsMem row)
    (hP : ∀ t, t.mem = putAll s.mem ((List.range (vxRows w)).flatMap (row s)) → OnlyChanges vxParts s t → P t) : Runs i s P := by
  simp only [goes, Bool.and_eq_true, Bool.not_eq_true', decide_eq_true_eq, Option.isNone_iff_eq_none] at hgoes
  obtain ⟨⟨⟨⟨⟨⟨⟨hrun, hc⟩, hop⟩, hform⟩, hwait⟩, hallow⟩, hwhole⟩, hgood⟩ := hgoes
  refine runs_of_when hrow hrun (by simp [coreOk, hc, hop, hform]) ?_
  obtain ⟨hmem, honly⟩ := vxRun_performs hreads hwait hallow hwhole hgood
  simp only [hb]
  exact hP _ hmem honly

theorem vxDKey_eq (c : Nat) (w : BitVec 256) (m : Nat) : vxDKey c w m = vxDKey c w 0 + m * (LVx.DPITCH.get w * 64) := by
  simp only [vxDKey, Nat.mul_assoc, Nat.zero_mul, Nat.add_zero]

theorem mem_vxWrites {p : Nat × Nat} : p ∈ vxWrites c w ↔
    ∃ r ∈ vxD w, ∃ m < r.count, p = (clusterBase c + (r.start + m * r.pitch), r.len) := by
  simp only [vxWrites, vxKeys, rowRanges, List.mem_flatMap, List.map_map, List.mem_map, List.mem_range, Function.comp_apply]
  exact ⟨fun ⟨r, hr, m, hm, he⟩ => ⟨r, hr, m, hm, he.symm⟩, fun ⟨r, hr, m, hm, he⟩ => ⟨r, hr, m, hm, he.symm⟩⟩

/-- One write a row, of rows of one length at a pitch that they fit. -/
theorem rows_stand {base pitch r : Nat} (hn : n ≤ pitch) (hlen : ∀ m, (f m).length = n)
    (ht : t.mem = putAll s.mem ((List.range r).flatMap fun m => [(base + m * pitch, f m)])) :
    (∀ m, m < r → readBytes t (base + m * pitch) n = f m) ∧
      ∀ j, (∀ m, m < r → j < base + m * pitch ∨ base + m * pitch + n ≤ j) → memByte t j = memByte s j := by
  have hmem : ∀ {p : Nat × List Byte}, p ∈ (List.range r).flatMap (fun m => [(base + m * pitch, f m)]) ↔
      ∃ m, m < r ∧ p = (base + m * pitch, f m) := by simp
  constructor
  · intro m hm
    rw [← hlen m]
    refine readBytes_putAll (p := (base + m * pitch, f m)) ht (hmem.mpr ⟨m, hm, rfl⟩) fun q hq => ?_
    obtain ⟨k, -, rfl⟩ := hmem.mp hq
    obtain rfl | hne := eq_or_ne m k
    · exact .inl rfl
    · right
      rw [hlen, hlen]
      exact strided_apart hn hne
  · intro j hj
    refine memByte_putAll ht fun p hp => ?_
    obtain ⟨m, hm, rfl⟩ := hmem.mp hp
    rw [hlen]
    exact hj m hm

/-- An operation that writes a row of D for each row of A. -/
theorem gives_of_tile (hrow : exec i s = vxRow op c w row s) (hb : layerHolder s = some b) (hgoes : goes s b c w op = true)
    (hreads : ReadsMem row) (hD : vxD w = [⟨LVx.DADDR.get w * 64, LVx.ROWS.get w, LVx.DPITCH.get w * 64, n⟩])
    (hn : n ≤ LVx.DPITCH.get w * 64) (hf : ∀ m, row s m = [(vxDKey c w m, f m)]) (hlen : ∀ m, (f m).length = n) :
    Gives s c w i n (vxDKey c w) f := by
  refine runs_of_goes hrow hb hgoes hreads fun t hmem honly => ?_
  rw [show row s = _ from funext fun m => (hf m).trans (congrArg (fun k => [(k, f m)]) (vxDKey_eq c w m))] at hmem
  obtain ⟨hrows, hout⟩ := rows_stand hn hlen hmem
  refine ⟨fun m hm => vxDKey_eq c w m ▸ hrows m hm, fun k hk => hout k fun m hm => ?_, honly⟩
  refine hk (_, n) (mem_vxWrites.mpr ⟨_, hD ▸ List.mem_singleton_self _, m, hm, ?_⟩)
  rw [vxDKey, Nat.zero_mul, Nat.zero_mul, Nat.add_zero, Nat.add_assoc]

/-- An operation that writes one word for each row of A (R223). -/
theorem gives_of_words (hrow : exec i s = vxRow op c w row s) (hb : layerHolder s = some b) (hgoes : goes s b c w op = true)
    (hreads : ReadsMem row) (hop : vxRowOp op = true) (hf : ∀ m, row s m = [(vxDKey c w 0 + 4 * m, f m)])
    (hlen : ∀ m, (f m).length = 4) : Gives s c w i 4 (fun m => vxDKey c w 0 + 4 * m) f := by
  refine runs_of_goes hrow hb hgoes hreads fun t hmem honly => ?_
  simp only [funext hf, Nat.mul_comm 4] at hmem
  obtain ⟨hrows, hout⟩ := rows_stand (Nat.le_refl 4) hlen hmem
  refine ⟨fun m hm => by rw [← hrows m hm, Nat.mul_comm m], fun k hk => hout k fun m hm => ?_, honly⟩
  have := hk (vxDKey c w 0, 4 * vxRows w) (by
    simp [vxWrites, vxD, op_of_goes hgoes, hop, vxKeys, rowRanges, vxDKey, vxRows])
  simp only at this
  omega

end

/-! ## Lengths of rows -/

theorem length_wordsBytes (l : List W32) : (wordsBytes l).length = 4 * l.length := by
  induction l with
  | nil => rfl
  | cons x l ih =>
    rw [wordsBytes, List.flatMap_cons, List.length_append, length_bytesOf, List.length_cons, ← wordsBytes, ih]
    omega

theorem length_elemRow (s : State) (bits k n : Nat) : (elemRow s bits k n).length = n := by simp [elemRow]

theorem length_vxARow (s : State) (c : Nat) (w : BitVec 256) (m : Nat) : (vxARow s c w m).length = vxCols w := length_elemRow ..

theorem length_vxBRow (s : State) (c : Nat) (w : BitVec 256) (m : Nat) : (vxBRow s c w m).length = vxCols w := by
  unfold vxBRow
  split
  · exact length_elemRow ..
  · exact length_elemRow ..
  · exact List.length_replicate
  · exact List.length_replicate

theorem length_vxMask (s : State) (c : Nat) (w : BitVec 256) (m : Nat) : (vxMask s c w m).length = vxCols w := by
  unfold vxMask
  split
  · simp
  · simp
  · exact List.length_replicate
  · exact List.length_replicate

theorem rowBytes_words (n : Nat) : rowBytes 0 n = 4 * n := by
  show (n * 32 + 8 - 1) / 8 = 4 * n
  omega

/-! ## The element operations (R222) -/

/-- Of a well-formed instruction that writes rows of elements: D's format is the operation's, and a row fits its pitch. -/
theorem form_words {w : BitVec 256} {k : Nat} (h : vxForm k w = true) (hop : LVx.OP.get w ≠ 0x01) (hquant : LVx.OP.get w ≠ 0x16)
    (hmerge : LVx.OP.get w ≠ 0x18) (hrow : vxRowOp (LVx.OP.get w) = false) :
    LVx.FD.get w = 0 ∧ 4 * vxCols w ≤ LVx.DPITCH.get w * 64 := by
  simp only [vxForm, Bool.and_eq_true, hop, hquant, hmerge, hrow, if_false, beq_iff_eq, Bool.false_or, decide_eq_true_eq] at h
  obtain ⟨⟨⟨⟨⟨⟨⟨⟨⟨⟨⟨⟨⟨-, hfd⟩, -⟩, -⟩, -⟩, -⟩, -⟩, -⟩, -⟩, -⟩, -⟩, hpitch⟩, -⟩, -⟩ := h
  rw [hfd, rowBytes_words] at hpitch
  exact ⟨hfd, hpitch⟩

/-- Does an operation write one FP32 word for each element of A? -/
def writesWords (op : Nat) : Bool := op != 0x01 && op != 0x16 && op != 0x18 && !vxRowOp op

section
variable {b c op : Nat} {w : BitVec 256} {i : Instr}

/-- An operation that writes a row of words for each row of A. -/
theorem gives_of_row {f : State → Nat → List W32} (hop : writesWords op = true)
    (hrow : exec i s = vxRow op c w (fun s m => [(vxDKey c w m, wordsBytes (f s m))]) s) (hb : layerHolder s = some b)
    (hgoes : goes s b c w op = true) (hreads : ∀ ⦃s t : State⦄, t.mem = s.mem → t.free = s.free → f t = f s)
    (hlen : ∀ m, (f s m).length = vxCols w) : Gives s c w i (4 * vxCols w) (vxDKey c w) (fun m => wordsBytes (f s m)) := by
  obtain rfl := op_of_goes hgoes
  simp only [writesWords, Bool.and_eq_true, bne_iff_ne, Bool.not_eq_true'] at hop
  obtain ⟨⟨⟨hcvt, hquant⟩, hmerge⟩, hwords⟩ := hop
  obtain ⟨hfd, hpitch⟩ := form_words (form_of_goes hgoes) hcvt hquant hmerge hwords
  refine gives_of_tile hrow hb hgoes (fun s t hmem hfree => by rw [hreads hmem hfree]) ?_ hpitch (fun _ => rfl)
    fun m => by rw [length_wordsBytes, hlen]
  simp only [vxD, hwords, hmerge, hquant, hfd, rowBytes_words, vxCols, Bool.false_eq_true, if_false]

theorem gives_of_zip {f : W32 → W32 → W32} (hop : writesWords op = true) (hrow : exec i s = vxRow op c w (vxZip f c w) s)
    (hb : layerHolder s = some b) (hgoes : goes s b c w op = true) : Gives s c w i (4 * vxCols w) (vxDKey c w)
      (fun m => wordsBytes (List.zipWith f (vxARow s c w m) (vxBRow s c w m))) :=
  gives_of_row hop hrow hb hgoes (fun s t hmem _ => by rw [vxARow_of_mem hmem, vxBRow_of_mem hmem])
    fun m => by rw [List.length_zipWith, length_vxARow, length_vxBRow, Nat.min_self]

theorem gives_of_map {f : W32 → W32} (hop : writesWords op = true) (hrow : exec i s = vxRow op c w (vxMap f c w) s)
    (hb : layerHolder s = some b) (hgoes : goes s b c w op = true) : Gives s c w i (4 * vxCols w) (vxDKey c w)
      (fun m => wordsBytes ((vxARow s c w m).map f)) :=
  gives_of_row hop hrow hb hgoes (fun s t hmem _ => by rw [vxARow_of_mem hmem])
    fun m => by rw [List.length_map, length_vxARow]

theorem gives_of_select (hb : layerHolder s = some b) (hgoes : goes s b c w 0x0F = true) : Gives s c w (.vxSelect c w) (4 * vxCols w)
    (vxDKey c w) (fun m => wordsBytes (List.zipWith (fun a k => if k then a else quiet32 (vxImm w)) (vxARow s c w m) (vxMask s c w m))) :=
  gives_of_row (f := fun s m => List.zipWith (fun a k => if k then a else quiet32 (vxImm w)) (vxARow s c w m) (vxMask s c w m)) rfl rfl
    hb hgoes (fun s t hmem hfree => by rw [vxARow_of_mem hmem, vxMask_of_mem hmem hfree])
    fun m => by rw [List.length_zipWith, length_vxARow, length_vxMask, Nat.min_self]

end

/-- Settles O41: an operation that goes stores, row by row, what it makes of its operands as they stood, and well-formed rows of D do
not overlap. -/
theorem vectorElementwise : Obligations.VectorElementwise := by
  intro s c b w hb
  exact ⟨gives_of_zip rfl rfl hb, gives_of_zip rfl rfl hb, gives_of_zip rfl rfl hb, gives_of_zip rfl rfl hb, gives_of_zip rfl rfl hb,
    gives_of_zip rfl rfl hb, gives_of_map (f := vClamp (vxImm w) (vxImm2 w)) rfl rfl hb, gives_of_map rfl rfl hb, gives_of_map rfl rfl hb,
    gives_of_map rfl rfl hb, gives_of_map rfl rfl hb, gives_of_map rfl rfl hb, gives_of_zip rfl rfl hb, gives_of_select hb⟩

end Sys2Proof.Vector
end

section
/-! The vector engine's conversions, row reductions, whole-row operations and records (R212, R219 to R227). -/

namespace Sys2Proof.Vector

open Sys2Proof Sys2Proof.Machine Sys2Proof.Laws Sys2Proof.Pins Sys2Proof.Stores

variable {s t u : State} {b c op : Nat} {w : BitVec 256} {i : Instr}

/-! ## Lengths of packed rows and records -/

theorem length_packNibs (s : State) (k : Nat) (l : List Nat) : (packNibs s k l).length = (l.length + 1) / 2 := by
  induction l using List.twoStepInduction generalizing k with
  | nil => rfl
  | singleton a => simp [packNibs]
  | cons_cons a b l ih _ =>
    rw [packNibs, List.length_cons, ih, List.length_cons, List.length_cons]
    omega

theorem length_flatMap_bytesOf (l : List Nat) (n : Nat) : (l.flatMap fun c => bytesOf c n).length = n * l.length := by
  induction l with
  | nil => rfl
  | cons x l ih => rw [List.flatMap_cons, List.length_append, length_bytesOf, ih, List.length_cons, Nat.mul_succ, Nat.add_comm]

/-- A packed row is as long as R219 says, for the formats of elements. -/
theorem length_packRow (s : State) (k : Nat) (l : List Nat) {fmt : Nat} (h : fmt ≤ 3 ∨ fmt = 5 ∨ fmt = 6) :
    (packRow s (vxBits fmt) k l).length = rowBytes fmt l.length := by
  unfold rowBytes cdiv
  have hcase : fmt = 0 ∨ fmt = 1 ∨ fmt = 2 ∨ fmt = 3 ∨ fmt = 5 ∨ fmt = 6 := by omega
  obtain rfl | rfl | rfl | rfl | rfl | rfl := hcase
  · exact (length_flatMap_bytesOf l 4).trans (by simp only [vxBits]; omega)
  · exact (length_flatMap_bytesOf l 2).trans (by simp only [vxBits]; omega)
  · exact (length_flatMap_bytesOf l 1).trans (by simp only [vxBits]; omega)
  · exact (length_packNibs s k l).trans (by simp only [vxBits]; omega)
  · exact (length_flatMap_bytesOf l 1).trans (by simp only [vxBits]; omega)
  · exact (length_packNibs s k l).trans (by simp only [vxBits]; omega)

theorem length_kv8Block (l : List W32) : (kv8Block l).2.length = l.length := List.length_map _

theorem length_kv4Block (l : List W32) : (kv4Block l).2.length = l.length := by
  simp only [kv4Block]
  split
  · exact List.length_map _
  · split
    · exact List.length_map _
    · exact List.length_map _

theorem sum_chunks {z : Nat} (hz : 0 < z) (l : List W32) (r : Nat) :
    ((List.range r).map fun i => ((l.drop (z * i)).take z).length).sum = min (z * r) l.length := by
  induction r with
  | zero => simp
  | succ r ih =>
    rw [List.range_succ, List.map_append, List.sum_append, ih]
    simp only [List.map_cons, List.map_nil, List.sum_cons, List.sum_nil, List.length_take, List.length_drop, Nat.mul_succ]
    omega

/-- A row's blocks: one scale a block, one code an element. -/
theorem length_kvRow (kv4 : Bool) (l : List W32) : (kvRow kv4 l).1.length = cdiv l.length (if kv4 then 16 else 32) ∧
    (kvRow kv4 l).2.length = l.length := by
  have hblock : ∀ x, ((if kv4 then kv4Block else kv8Block) x).2.length = x.length := by
    cases kv4
    · exact length_kv8Block
    · exact length_kv4Block
  constructor
  · simp [kvRow, chunks]
  · simp only [kvRow, chunks, List.length_flatMap, List.map_map, Function.comp_def, hblock]
    cases kv4
    · exact (sum_chunks (by decide) l _).trans (by simp only [cdiv, Bool.false_eq_true, if_false]; omega)
    · exact (sum_chunks (by decide) l _).trans (by simp only [cdiv, if_true]; omega)

theorem length_recRow (s : State) (k n : Nat) : (recRow s k n).o.length = n := by simp [recRow, recTrip, readWords]

theorem length_foldTrip {a b : Trip} {n : Nat} (ha : a.o.length = n) (hb : b.o.length = n) : (foldTrip a b).o.length = n := by
  unfold foldTrip
  split
  · exact hb
  · split
    · exact ha
    · rw [List.length_zipWith, ha, hb, Nat.min_self]

/-! ## What a well-formed instruction's D is -/

theorem form_cvt {k : Nat} (h : vxForm k w = true) (hop : LVx.OP.get w = 0x01) :
    LVx.FD.get w ≤ 3 ∧ rowBytes (LVx.FD.get w) (vxCols w) ≤ LVx.DPITCH.get w * 64 := by
  simp only [vxForm, Bool.and_eq_true, hop, if_true, beq_iff_eq, vxRowOp, Bool.or_eq_true, decide_eq_true_eq] at h
  obtain ⟨⟨⟨⟨⟨⟨⟨⟨⟨⟨⟨⟨⟨-, hfd⟩, -⟩, -⟩, -⟩, -⟩, -⟩, -⟩, -⟩, -⟩, -⟩, hpitch⟩, -⟩, -⟩ := h
  exact ⟨hfd, hpitch.resolve_left (by decide)⟩

theorem form_quant {k : Nat} (h : vxForm k w = true) (hop : LVx.OP.get w = 0x16) :
    (LVx.FD.get w = 5 ∨ LVx.FD.get w = 6) ∧ rowBytes (LVx.FD.get w) (vxCols w) ≤ LVx.DPITCH.get w * 64 := by
  simp only [vxForm, Bool.and_eq_true, hop, if_true, beq_iff_eq, vxRowOp, Bool.or_eq_true, decide_eq_true_eq] at h
  obtain ⟨⟨⟨⟨⟨⟨⟨⟨⟨⟨⟨⟨⟨-, hfd⟩, -⟩, -⟩, -⟩, -⟩, -⟩, -⟩, -⟩, -⟩, -⟩, hpitch⟩, -⟩, -⟩ := h
  exact ⟨by simpa using hfd, hpitch.resolve_left (by decide)⟩

theorem form_merge {k : Nat} (h : vxForm k w = true) (hop : LVx.OP.get w = 0x18) :
    recBytes w = 32 + 4 * vxCols w ∧ recBytes w ≤ LVx.DPITCH.get w * 64 := by
  simp only [vxForm, Bool.and_eq_true, hop, if_true, beq_iff_eq, vxRowOp, Bool.or_eq_true, decide_eq_true_eq] at h
  obtain ⟨⟨⟨⟨⟨⟨⟨⟨⟨⟨⟨⟨⟨-, -⟩, -⟩, -⟩, -⟩, -⟩, -⟩, hcols⟩, -⟩, -⟩, -⟩, hpitch⟩, -⟩, -⟩ := h
  refine ⟨?_, hpitch.resolve_left (by decide)⟩
  have hcols : LVx.COLS.get w % 32 = 0 := by simpa using hcols
  unfold recBytes vxCols
  omega

/-! ## The operations -/

theorem vxCvt_gives (hb : layerHolder s = some b) (hgoes : goes s b c w 0x01 = true) :
    Gives s c w (.vxCvt c w) (rowBytes (LVx.FD.get w) (vxCols w)) (vxDKey c w) (fun m =>
      packRow s (vxBits (LVx.FD.get w)) (vxDKey c w m) ((vxARow s c w m).map (cvtCode (vxBits (LVx.FD.get w))))) := by
  obtain ⟨hfd, hpitch⟩ := form_cvt (form_of_goes hgoes) (op_of_goes hgoes)
  refine gives_of_tile (op := 0x01) rfl hb hgoes ?_ ?_ hpitch (fun _ => rfl) fun m => ?_
  · intro s t hmem _
    simp only [packRow_of_mem hmem, vxARow_of_mem hmem]
  · simp [vxD, op_of_goes hgoes, vxRowOp, vxCols]
  · rw [length_packRow _ _ _ (.inl hfd), List.length_map, length_vxARow]

theorem gives_of_reduce {f : List W32 → W32} (hop : vxRowOp op = true) (hrow : exec i s = vxRow op c w (vxReduce f c w) s)
    (hb : layerHolder s = some b) (hgoes : goes s b c w op = true) :
    Gives s c w i 4 (fun m => vxDKey c w 0 + 4 * m) (fun m => wordsBytes [f (vxARow s c w m)]) :=
  gives_of_words hrow hb hgoes (fun s t hmem _ => by funext m; rw [vxReduce, vxReduce, vxARow_of_mem hmem]) hop (fun _ => rfl)
    fun m => length_wordsBytes _

theorem vxRms_gives (hb : layerHolder s = some b) (hgoes : goes s b c w 0x14 = true) :
    Gives s c w (.vxRms c w) (4 * vxCols w) (vxDKey c w) (fun m => wordsBytes ((vxARow s c w m).map (fun x =>
      f32Mul x (rmsFactor (vxARow s c w m) (vxImm w))))) :=
  gives_of_row (op := 0x14) (f := fun s m => rmsRow (vxARow s c w m) (vxImm w)) rfl rfl hb hgoes
    (fun s t hmem _ => by rw [vxARow_of_mem hmem]) fun m => by rw [rmsRow, List.length_map, length_vxARow]

theorem vxRot_gives (hb : layerHolder s = some b) (hgoes : goes s b c w 0x15 = true) :
    Gives s c w (.vxRot c w) (4 * vxCols w) (vxDKey c w) (fun m =>
      wordsBytes (rotRow s (LVx.IMM2.get w) (rowPos s c m) (vxBKey c w 0) (vxARow s c w m))) :=
  gives_of_row (op := 0x15) (f := fun s m => rotRow s (LVx.IMM2.get w) (rowPos s c m) (vxBKey c w 0) (vxARow s c w m)) rfl rfl hb hgoes
    (fun s t hmem _ => by rw [vxARow_of_mem hmem, rotRow_of_mem hmem, rowPos_of_mem hmem])
    fun m => by rw [rotRow, List.length_map, List.length_range, length_vxARow]

theorem vxFinal_gives (hb : layerHolder s = some b) (hgoes : goes s b c w 0x19 = true) :
    Gives s c w (.vxFinal c w) (4 * vxCols w) (vxDKey c w) (fun m => wordsBytes (finalRow (recRow s (vxAKey c w m) (vxCols w)))) :=
  gives_of_row (op := 0x19) (f := fun s m => finalRow (recRow s (vxAKey c w m) (vxCols w))) rfl rfl hb hgoes
    (fun s t hmem _ => by rw [recRow_of_mem hmem]) fun m => by rw [finalRow, List.length_map, length_recRow]

/-- The record that MERGE leaves for a row. -/
def mergedRow (s : State) (c : Nat) (w : BitVec 256) (m : Nat) : List Byte :=
  let x := foldTrip (recRow s (vxAKey c w m) (vxCols w)) (recRow s (vxBKey c w m) (vxCols w))
  bytesOf (mergeHdr (recHdr s (vxAKey c w m)) (recHdr s (vxBKey c w m)) x).toNat 32 ++ wordsBytes x.o

theorem vxMerge_gives (hb : layerHolder s = some b) (hgoes : goes s b c w 0x18 = true) :
    Gives s c w (.vxMerge c w) (32 + 4 * vxCols w) (vxDKey c w) (mergedRow s c w) := by
  obtain ⟨hrec, hpitch⟩ := form_merge (form_of_goes hgoes) (op_of_goes hgoes)
  refine gives_of_tile (op := 0x18) rfl hb hgoes ?_ ?_ (hrec ▸ hpitch) (fun _ => rfl) fun m => ?_
  · intro s t hmem _
    simp only [recRow_of_mem hmem, recHdr_of_mem hmem]
  · simp [vxD, op_of_goes hgoes, vxRowOp, hrec]
  · simp only [mergedRow, List.length_append, length_bytesOf, length_wordsBytes]
    rw [length_foldTrip (length_recRow ..) (length_recRow ..)]

/-! ## QUANT (R212) -/

/-- Two writes a row: one among the rows at a first pitch, one among the rows at a second pitch that follow all of those. -/
theorem paired_rows_stand {base pitch pitch' n n' r : Nat} {f g : Nat → List Byte} (hn : n ≤ pitch) (hn' : n' ≤ pitch')
    (hf : ∀ m, (f m).length = n) (hg : ∀ m, (g m).length = n')
    (ht : t.mem = putAll s.mem ((List.range r).flatMap fun m =>
      [(base + m * pitch, f m), (base + r * pitch + m * pitch', g m)])) :
    (∀ m, m < r → readBytes t (base + m * pitch) n = f m) ∧
      (∀ m, m < r → readBytes t (base + r * pitch + m * pitch') n' = g m) ∧
      ∀ j, (∀ m, m < r → j < base + m * pitch ∨ base + m * pitch + n ≤ j) →
        (∀ m, m < r → j < base + r * pitch + m * pitch' ∨ base + r * pitch + m * pitch' + n' ≤ j) → memByte t j = memByte s j := by
  have hmem : ∀ {p : Nat × List Byte}, p ∈ (List.range r).flatMap (fun m =>
      [(base + m * pitch, f m), (base + r * pitch + m * pitch', g m)]) ↔
      ∃ m, m < r ∧ (p = (base + m * pitch, f m) ∨ p = (base + r * pitch + m * pitch', g m)) := by simp
  have hbelow : ∀ m, m < r → base + m * pitch + n ≤ base + r * pitch := fun m hm => by
    have := Nat.mul_le_mul_right pitch hm
    rw [Nat.succ_mul] at this
    omega
  refine ⟨fun m hm => ?_, fun m hm => ?_, fun j hj hj' => memByte_putAll ht fun p hp => ?_⟩
  · rw [← hf m]
    refine readBytes_putAll (p := (base + m * pitch, f m)) ht (hmem.mpr ⟨m, hm, .inl rfl⟩) fun q hq => ?_
    obtain ⟨k, -, rfl | rfl⟩ := hmem.mp hq
    · obtain rfl | hne := eq_or_ne m k
      · exact .inl rfl
      · right
        rw [hf, hf]
        exact strided_apart hn hne
    · have := hbelow m hm
      rw [hf, hg]
      omega
  · rw [← hg m]
    refine readBytes_putAll (p := (base + r * pitch + m * pitch', g m)) ht (hmem.mpr ⟨m, hm, .inr rfl⟩) fun q hq => ?_
    obtain ⟨k, hk, rfl | rfl⟩ := hmem.mp hq
    · have := hbelow k hk
      rw [hf, hg]
      omega
    · obtain rfl | hne := eq_or_ne m k
      · exact .inl rfl
      · right
        rw [hg, hg]
        exact strided_apart hn' hne
  · obtain ⟨m, hm, rfl | rfl⟩ := hmem.mp hp
    · rw [hf]
      exact hj m hm
    · rw [hg]
      exact hj' m hm

/-- The element bytes, and the scale bytes, that QUANT leaves for a row. -/
def quantElems (s : State) (c : Nat) (w : BitVec 256) (m : Nat) : List Byte :=
  packRow s (if LVx.FD.get w == 6 then 4 else 8) (vxDKey c w m) (kvRow (LVx.FD.get w == 6) (vxARow s c w m)).2
def quantScales (s : State) (c : Nat) (w : BitVec 256) (m : Nat) : List Byte :=
  (kvRow (LVx.FD.get w == 6) (vxARow s c w m)).1.map (BitVec.ofNat 8 ·)

theorem length_quantScales (hfd : LVx.FD.get w = 5 ∨ LVx.FD.get w = 6) (s : State) (c m : Nat) :
    (quantScales s c w m).length = scaleBytes (LVx.FD.get w) (vxCols w) := by
  rw [quantScales, List.length_map, (length_kvRow _ _).1, length_vxARow]
  obtain h | h := hfd <;> rw [h] <;> rfl

theorem length_quantElems (hfd : LVx.FD.get w = 5 ∨ LVx.FD.get w = 6) (s : State) (c m : Nat) :
    (quantElems s c w m).length = rowBytes (LVx.FD.get w) (vxCols w) := by
  have hbits : (if LVx.FD.get w == 6 then 4 else 8) = vxBits (LVx.FD.get w) := by obtain h | h := hfd <;> rw [h] <;> rfl
  rw [quantElems, hbits, length_packRow _ _ _ (.inr hfd), (length_kvRow _ _).2, length_vxARow]

theorem scaleBytes_le_scaleRow (fmt n : Nat) : scaleBytes fmt n ≤ scaleRow fmt n := by
  unfold scaleRow cdiv
  omega

theorem vxQuant_stands (hb : layerHolder s = some b) (hgoes : goes s b c w 0x16 = true) : Runs (.vxQuant c w) s fun t =>
    (∀ m, m < vxRows w → readBytes t (vxDKey c w m) (rowBytes (LVx.FD.get w) (vxCols w)) = quantElems s c w m) ∧
    (∀ m, m < vxRows w → readBytes t (vxDKey c w (vxRows w) + m * scaleRow (LVx.FD.get w) (vxCols w))
      (scaleBytes (LVx.FD.get w) (vxCols w)) = quantScales s c w m) ∧
    (∀ k, (∀ d, d ∈ vxWrites c w → k < d.1 ∨ d.1 + d.2 ≤ k) → memByte t k = memByte s k) ∧ OnlyChanges vxParts s t := by
  obtain ⟨hfd, hpitch⟩ := form_quant (form_of_goes hgoes) (op_of_goes hgoes)
  refine runs_of_goes (op := 0x16) (row := fun s m => [(vxDKey c w m, quantElems s c w m),
    (vxDKey c w (vxRows w) + m * scaleRow (LVx.FD.get w) (vxCols w), quantScales s c w m)]) rfl hb hgoes ?_ fun t hmem honly => ?_
  · intro s t hmem _
    simp only [quantElems, quantScales, packRow_of_mem hmem, vxARow_of_mem hmem]
  · have hD : vxD w = [⟨LVx.DADDR.get w * 64, vxRows w, LVx.DPITCH.get w * 64, rowBytes (LVx.FD.get w) (vxCols w)⟩,
        ⟨LVx.DADDR.get w * 64 + vxRows w * (LVx.DPITCH.get w * 64), vxRows w, scaleRow (LVx.FD.get w) (vxCols w),
          scaleBytes (LVx.FD.get w) (vxCols w)⟩] := by
      simp [vxD, op_of_goes hgoes, vxRowOp, vxRows, vxCols]
    have hbase : vxDKey c w 0 = clusterBase c + LVx.DADDR.get w * 64 := by rw [vxDKey, Nat.zero_mul, Nat.zero_mul, Nat.add_zero]
    rw [vxDKey_eq c w (vxRows w)] at hmem ⊢
    rw [show (fun m => [(vxDKey c w m, quantElems s c w m), _]) = _ from funext fun m => congrArg (fun k => [(k, _), _]) (vxDKey_eq c w m)]
      at hmem
    obtain ⟨helems, hscales, hout⟩ := paired_rows_stand hpitch (scaleBytes_le_scaleRow ..) (length_quantElems hfd s c)
      (length_quantScales hfd s c) hmem
    refine ⟨fun m hm => vxDKey_eq c w m ▸ helems m hm, hscales, fun k hk => hout k (fun m hm => ?_) (fun m hm => ?_), honly⟩
    · refine hk (_, rowBytes _ _) (mem_vxWrites.mpr ⟨_, hD ▸ List.mem_cons_self, m, hm, ?_⟩)
      simp only [hbase, Nat.add_assoc]
    · refine hk (_, scaleBytes _ _) (mem_vxWrites.mpr ⟨_, hD ▸ List.mem_cons_of_mem _ (List.mem_singleton_self _), m, hm, ?_⟩)
      simp only [hbase, Nat.add_assoc]

theorem vxQuant_gives (hb : layerHolder s = some b) (hgoes : goes s b c w 0x16 = true) :
    Gives s c w (.vxQuant c w) (rowBytes (LVx.FD.get w) (vxCols w)) (vxDKey c w) (quantElems s c w) ∧
    Gives s c w (.vxQuant c w) (cdiv (vxCols w) (if LVx.FD.get w == 6 then 16 else 32))
      (fun m => vxDKey c w (vxRows w) + m * scaleRow (LVx.FD.get w) (vxCols w)) (quantScales s c w) := by
  obtain ⟨t, ht, helems, hscales, hout, honly⟩ := vxQuant_stands hb hgoes
  have hcdiv : cdiv (vxCols w) (if LVx.FD.get w == 6 then 16 else 32) = scaleBytes (LVx.FD.get w) (vxCols w) := by
    simp only [scaleBytes, beq_iff_eq]
  exact ⟨⟨t, ht, helems, hout, honly⟩, ⟨t, ht, hcdiv ▸ hscales, hout, honly⟩⟩

/-- Settles O42: every operation stores what it makes of its operands as they stood; each row is as long as its place in D, and
places do not overlap. -/
theorem vectorRowsAndRecords : Obligations.VectorRowsAndRecords := by
  intro s c b w hb
  exact ⟨vxCvt_gives hb, gives_of_reduce rfl rfl hb, gives_of_reduce (f := rowSsq) rfl rfl hb, gives_of_reduce rfl rfl hb,
    gives_of_reduce (f := rowAmax) rfl rfl hb, vxRms_gives hb, vxRot_gives hb, vxQuant_gives hb, vxMerge_gives hb, vxFinal_gives hb⟩

end Sys2Proof.Vector
end

section
/-! What the end of a turn, of a request and of a fabric request leave as it is: the records that own a binding, the engines' work, the
merge trees' pointers, and what has been sent already. -/

namespace Sys2Proof.Lasting

open Sys2Proof Sys2Proof.Machine Sys2Proof.Laws Sys2Proof.Lanes Sys2Proof.MailboxService

set_option linter.tactic.unusedName false

variable {s t u : State}

/-- Of a binding: its load, its seat, the phase and the FAULTED bit of its turn block, its record, and the block's TURN and COMMIT_TIME. -/
def ownOf (x : Bind) : Bool × Nat × Nat × Bool × BitVec 8192 × Nat × Nat :=
  (x.loaded, x.seat, bPhase x, bFaulted x, x.brec, bTurn x, LTurnBlk.COMMIT_TIME.get x.blk)

/-- Of a core: all but the tile moves and ring fills that requests of the fabric serve. -/
def engineOf (x : Core) : Core := { x with fills := [], moves := [], lost := false }

/-- Of an ingot: its merge tree's records and pointer. -/
def treeOf (x : Ingot) : List (Nat × Nat × Nat × Rec) × Nat := (x.recs, x.mergePtr)

/-- Of the fabric: the device's place and slice, its barriers, what its formation and its reset have gathered, and its ports' states. -/
def sliceOf (f : Fabric) : (BitVec 64 × BitVec 128 × Tab Barrier × Tab W64) × (List (Nat × Nat × Nat) × Nat) × (List Nat × Nat × Bool) ×
    (Nat → BitVec 128) :=
  ((f.fabId, f.slice, f.barriers, f.sliceCtr), (f.formGot, f.formSent), (f.resetGot, f.resetMembers, f.resetSent),
    fun p => (Tab.get f.ports Port.reset p).state)

/-- What a step's side effects on requests leave as it is. -/
structure Lasts (s t : State) : Prop where
  out : ∃ l, t.out = l ++ s.out
  own : ∀ b, ownOf (t.bind b) = ownOf (s.bind b)
  engine : ∀ c, engineOf (t.core c) = engineOf (s.core c)
  coll : t.bank.collTimeout = s.bank.collTimeout
  tree : KeepsIngots treeOf s t
  idle : ∀ e, collRun s e = none → collRun t e = none
  slice : sliceOf t.fab = sliceOf s.fab

theorem Lasts.loaded (h : Lasts s t) (b : Nat) : (t.bind b).loaded = (s.bind b).loaded := congrArg Prod.fst (h.own b)
theorem Lasts.seat (h : Lasts s t) (b : Nat) : (t.bind b).seat = (s.bind b).seat := congrArg (fun x => x.2.1) (h.own b)
theorem Lasts.phase (h : Lasts s t) (b : Nat) : bPhase (t.bind b) = bPhase (s.bind b) := congrArg (fun x => x.2.2.1) (h.own b)
theorem Lasts.faulted (h : Lasts s t) (b : Nat) : bFaulted (t.bind b) = bFaulted (s.bind b) := congrArg (fun x => x.2.2.2.1) (h.own b)
theorem Lasts.brec (h : Lasts s t) (b : Nat) : (t.bind b).brec = (s.bind b).brec := congrArg (fun x => x.2.2.2.2.1) (h.own b)
theorem Lasts.turn (h : Lasts s t) (b : Nat) : bTurn (t.bind b) = bTurn (s.bind b) := congrArg (fun x => x.2.2.2.2.2.1) (h.own b)
theorem Lasts.commitTime (h : Lasts s t) (b : Nat) :
    LTurnBlk.COMMIT_TIME.get (t.bind b).blk = LTurnBlk.COMMIT_TIME.get (s.bind b).blk := congrArg (fun x => x.2.2.2.2.2.2) (h.own b)

theorem Lasts.core_ctr (h : Lasts s t) (c : Nat) : (t.core c).ctr = (s.core c).ctr := by
  have hctr := congrArg Core.ctr (h.engine c)
  exact hctr

theorem Lasts.core_split (h : Lasts s t) (c : Nat) : (t.core c).split = (s.core c).split := by
  have hsplit := congrArg Core.split (h.engine c)
  exact hsplit

theorem Lasts.sent (h : Lasts s t) {o : Out} (ho : o ∈ s.out) : o ∈ t.out := by
  obtain ⟨l, hl⟩ := h.out
  rw [hl]
  exact List.mem_append_right l ho

theorem lasts_refl (s : State) : Lasts s s := ⟨⟨[], rfl⟩, fun _ => rfl, fun _ => rfl, rfl, keepsIngots_refl s, fun _ => id, rfl⟩

/-- An operation that lasts, after others that do. -/
theorem lasts_step (h' : Lasts t u) (h : Lasts s t) : Lasts s u := by
  obtain ⟨l, hl⟩ := h.out
  obtain ⟨k, hk⟩ := h'.out
  exact ⟨⟨k ++ l, by rw [hk, hl, List.append_assoc]⟩, fun b => (h'.own b).trans (h.own b), fun c => (h'.engine c).trans (h.engine c),
    h'.coll.trans h.coll, h.tree.trans h'.tree, fun e he => h'.idle e (h.idle e he), h'.slice.trans h.slice⟩

theorem lasts_of_only {l : List Part} (h : OnlyChanges l s t) (hl : ∀ p ∈ [Part.out, .binds, .cores, .bank, .ingots, .fab], p ∉ l) :
    Lasts s t := by
  have hfab : t.fab = s.fab := h.same .fab (hl _ (by decide))
  have hbinds : t.binds = s.binds := h.same .binds (hl _ (by decide))
  have hcores : t.cores = s.cores := h.same .cores (hl _ (by decide))
  refine ⟨⟨[], h.same .out (hl _ (by decide))⟩, fun b => ?_, fun c => ?_, congrArg Banker.collTimeout (h.same .bank (hl _ (by decide))),
    keepsIngots_of_only h (hl _ (by decide)), fun e he => by rw [collRun, hfab]; exact he, by rw [hfab]⟩
  · rw [Machine.State.bind, Machine.State.bind, hbinds]
  · rw [State.core, State.core, hcores]

theorem lasts_fab (s : State) (f : Fabric) (h : ∀ e, Tab.get s.fab.coll none e = none → Tab.get f.coll none e = none)
    (hslice : sliceOf f = sliceOf s.fab) : Lasts s { s with fab := f } :=
  ⟨⟨[], rfl⟩, fun _ => rfl, fun _ => rfl, rfl, ⟨fun _ => rfl⟩, h, hslice⟩

/-- What changes the fabric alone, and none of its engines' steps nor the slice. -/
theorem lasts_of_coll (h : OnlyChanges [.fab] s t) (hkeep : t.fab.coll = s.fab.coll ∧ sliceOf t.fab = sliceOf s.fab) : Lasts s t := by
  obtain ⟨hc, hslice⟩ := hkeep
  have hbinds : t.binds = s.binds := h.same .binds (by decide)
  have hcores : t.cores = s.cores := h.same .cores (by decide)
  refine ⟨⟨[], h.same .out (by decide)⟩, fun b => ?_, fun c => ?_, congrArg Banker.collTimeout (h.same .bank (by decide)),
    keepsIngots_of_only h (by decide), fun e he => by rw [collRun, hc]; exact he, hslice⟩
  · rw [Machine.State.bind, Machine.State.bind, hbinds]
  · rw [State.core, State.core, hcores]

theorem updPort_states (s : State) (k : Nat) {f : Port → Port} (h : ∀ x, (f x).state = x.state) :
    (fun p => ((s.updPort k f).port p).state) = fun p => (s.port p).state := by
  funext p
  by_cases hp : p = k
  · subst hp
    rw [State.updPort, State.setPort, State.port, get_set_self, h]
  · rw [State.updPort, State.setPort, State.port, get_set_other hp]
    rfl

/-- Neither the engines' steps nor the slice have changed. -/
abbrev KeepsSteps (s t : State) : Prop := t.fab.coll = s.fab.coll ∧ sliceOf t.fab = sliceOf s.fab

theorem keepsSteps_updPort (s : State) (k : Nat) {f : Port → Port} (h : ∀ x, (f x).state = x.state) : KeepsSteps s (s.updPort k f) :=
  ⟨rfl, congrArg (fun g => (_, _, _, g)) (updPort_states s k h)⟩

theorem queuePacket_keepsSteps (s : State) (src out : Nat) (p : Packet) : KeepsSteps s (queuePacket s src out p) :=
  keepsSteps_updPort s out fun _ => rfl

theorem stagePacket_keepsSteps (s : State) (d : Nat) (p : Packet) : KeepsSteps s (stagePacket s d p) := ⟨rfl, rfl⟩

theorem countNoroute_keepsSteps (s : State) (src : Nat) (p : Packet) : KeepsSteps s (countNoroute s src p) :=
  keepsSteps_updPort s _ fun _ => rfl

theorem sendPacket_keepsSteps (s : State) (p : Packet) : KeepsSteps s (sendPacket s p) := by
  unfold sendPacket
  split
  · split
    · exact stagePacket_keepsSteps ..
    · exact queuePacket_keepsSteps ..
  · split
    · exact ⟨rfl, rfl⟩
    · exact countNoroute_keepsSteps ..

theorem answer_keepsSteps (s : State) (q : Packet) (status data : Nat) : KeepsSteps s (answer s q status data) := by
  unfold answer
  split
  · exact sendPacket_keepsSteps ..
  · exact ⟨rfl, rfl⟩

/-- A failure is noted at the steps under way alone. -/
theorem noteColl_idle {x : Tab (Option CollRun)} {e : Nat} (r : FabReq) (status : Nat) (h : Tab.get x none e = none) :
    Tab.get (noteColl x r status) none e = none := by
  unfold noteColl
  split
  · exact h
  · induction x with
    | nil => rfl
    | cons a x ih =>
      simp only [List.map_cons, Tab.get] at h ⊢
      split
      · next ha => rw [if_pos ha] at h; simp [h]
      · next ha => rw [if_neg ha] at h; exact ih h

theorem lasts_foldl {α : Type} {f : State → α → State} {l : List α} (h1 : Lasts s t) (h : ∀ y a, Lasts s y → Lasts s (f y a)) :
    Lasts s (l.foldl f t) := by
  induction l generalizing t with
  | nil => exact h1
  | cons x xs ih => exact ih (h t x h1)

theorem lasts_emit (s : State) (o : Out) : Lasts s (s.emit o) := ⟨⟨[o], rfl⟩, fun _ => rfl, fun _ => rfl, rfl, ⟨fun _ => rfl⟩, fun _ => id, rfl⟩

theorem lasts_setBind (s : State) (b : Nat) {x : Bind} (h : ownOf x = ownOf (s.bind b)) : Lasts s (s.setBind b x) := by
  refine ⟨⟨[], rfl⟩, fun k => ?_, fun _ => rfl, rfl, ⟨fun _ => rfl⟩, fun _ => id, rfl⟩
  by_cases hk : k = b
  · subst hk
    rw [setBind_bind, h]
  · rw [setBind_bind_other _ _ _ _ hk]

theorem lasts_updBind (s : State) (b : Nat) {f : Bind → Bind} (h : ∀ x, ownOf (f x) = ownOf x) : Lasts s (s.updBind b f) :=
  lasts_setBind s b (h _)

theorem lasts_countBind (s : State) (b k n : Nat) : Lasts s (s.countBind b k n) := lasts_updBind s b fun _ => rfl

theorem lasts_bank (s : State) (x : Banker) (h : x.collTimeout = s.bank.collTimeout) : Lasts s { s with bank := x } :=
  ⟨⟨[], rfl⟩, fun _ => rfl, fun _ => rfl, h, ⟨fun _ => rfl⟩, fun _ => id, rfl⟩

theorem lasts_updIngot (s : State) (i : Nat) {f : Ingot → Ingot} (h : ∀ x, treeOf (f x) = treeOf x) : Lasts s (s.updIngot i f) :=
  ⟨⟨[], rfl⟩, fun _ => rfl, fun _ => rfl, rfl, keepsIngots_updIngot s i h, fun _ => id, rfl⟩

theorem lasts_updCore (s : State) (c : Nat) {f : Core → Core} (h : ∀ x, engineOf (f x) = engineOf x) : Lasts s (s.updCore c f) := by
  refine ⟨⟨[], rfl⟩, fun _ => rfl, fun k => ?_, rfl, ⟨fun _ => rfl⟩, fun _ => id, rfl⟩
  by_cases hk : k = c
  · subst hk
    rw [State.updCore, setCore_core, h]
  · rw [State.updCore, setCore_core_other _ _ _ _ hk]

theorem lasts_countDev (s : State) (k n : Nat) : Lasts s (s.countDev k n) := lasts_bank s _ rfl

/-- A binding owns what its load, its seat, its block and its record say. -/
theorem own_of_fields {x y : Bind} (hload : x.loaded = y.loaded) (hseat : x.seat = y.seat) (hblk : x.blk = y.blk) (hrec : x.brec = y.brec) :
    ownOf x = ownOf y := by
  rw [ownOf, bPhase, bFaulted, bTurn, hload, hseat, hblk, hrec, ownOf, bPhase, bFaulted, bTurn]

theorem own_addDrop (x : Bind) (p i : Nat) : ownOf (addDrop x p i) = ownOf x := by
  cases h : x.drops.contains (p, i)
  · simp only [addDrop, h, Bool.false_eq_true, if_false, ownOf, bPhase, bFaulted, bTurn]
  · simp only [addDrop, h, if_true]

theorem own_takeHead (x : Bind) (p q i : Nat) (l : List (Fld × Nat)) :
    ownOf (updRunRec (freshRun (takeHead x p) q i) q i l) = ownOf x := by
  change ownOf (takeHead x p) = ownOf x
  simp only [takeHead]
  split
  · rfl
  · rfl

/-! ## What the ends of requests, turns and fabric requests leave -/

theorem tileDone_lasts (s : State) (n : Nat) : Lasts s (tileDone s n) :=
  lasts_step (lasts_of_only (state_updOx_only ..) (by decide))
    (lasts_step (lasts_of_only (state_updObj_only ..) (by decide)) (lasts_countDev ..))

theorem jobDone_lasts (s : State) (r : FabReq) (j : Job) : Lasts s (jobDone s r j) := by
  unfold jobDone
  split
  · split
    · exact lasts_refl s
    · extract_lets u
      refine lasts_step (tileDone_lasts u _) ?_
      unfold u
      split
      · exact lasts_of_only (set_dirty_only ..) (by decide)
      · exact lasts_refl s
  · exact lasts_refl s

theorem countTier_lasts (s : State) (b slot : Nat) : Lasts s (countTier s b slot) := by
  unfold countTier
  repeat' first
    | with_reducible exact lasts_refl _
    | with_reducible apply lasts_step (lasts_of_only (state_updRx_only ..) (by decide))
    | with_reducible apply lasts_step (lasts_countBind ..)
    | split

theorem failServed_lasts (s : State) (b en status : Nat) : Lasts s (failServed s b en status) := by
  unfold failServed
  repeat' first
    | with_reducible exact lasts_refl _
    | extract_lets
    | with_reducible apply lasts_step (countTier_lasts ..)
    | with_reducible refine lasts_step (lasts_updBind _ _ ?_) ?_
    | exact fun _ => rfl
    | split

theorem jobFail_lasts (s : State) (j : Job) (status : Nat) : Lasts s (jobFail s j status) := by
  unfold jobFail
  split
  · exact failServed_lasts ..
  · exact lasts_of_only (failTile_only ..) (by decide)
  · exact lasts_of_only (state_updRx_only s _ _) (by decide)
  · exact lasts_of_only (state_updRx_only s _ _) (by decide)
  · exact lasts_updBind s _ fun _ => rfl
  · exact lasts_bank s _ rfl

theorem lostTiles_lasts (s : State) (r : FabReq) (status : Nat) : Lasts s (lostTiles s r status) := by
  unfold lostTiles
  repeat' first
    | with_reducible exact lasts_refl _
    | extract_lets
    | with_reducible refine lasts_step (lasts_updCore _ _ ?_) ?_
    | exact fun _ => rfl
    | split

theorem settleFences_lasts (s : State) : Lasts s (settleFences s) := by
  unfold settleFences
  extract_lets ended f u
  exact lasts_foldl (lasts_fab s _ (fun _ => id) rfl) fun y f hy => lasts_step (lasts_emit ..) hy

theorem completeReq_lasts (s : State) (r : FabReq) (status : Nat) (data : List Byte) : Lasts s (completeReq s r status data) := by
  unfold completeReq
  extract_lets fences f u v
  have hu : Lasts s u := lasts_fab s _ (fun _ => noteColl_idle r status) rfl
  have hv : Lasts u v := by
    unfold v
    split
    · split
      · exact lasts_refl u
      · exact lostTiles_lasts ..
    · split
      · exact jobDone_lasts ..
      · exact jobFail_lasts ..
  exact lasts_step (settleFences_lasts _) (lasts_step (lasts_emit ..) (lasts_step hv hu))

theorem answer_lasts (s : State) (q : Packet) (status : Nat) (data : Nat) : Lasts s (answer s q status data) := by
  unfold answer
  repeat' first
    | with_reducible exact lasts_refl _
    | with_reducible apply lasts_step (lasts_of_coll (sendPacket_only ..) (sendPacket_keepsSteps ..))
    | split

theorem dropPacket_lasts (s : State) (port : Nat) (p : Packet) (status : Nat) : Lasts s (dropPacket s port p status) := by
  have hcount : Lasts s (countNoroute s port p) := lasts_of_coll (countNoroute_only ..) (countNoroute_keepsSteps ..)
  unfold dropPacket
  extract_lets u
  split
  · split
    · exact lasts_step (completeReq_lasts ..) hcount
    · exact hcount
  · exact lasts_step (lasts_of_coll (answer_only ..) (answer_keepsSteps ..)) hcount

theorem admitBulk_lasts (s : State) (d : Nat) : Lasts s (admitBulk s d) := by
  unfold admitBulk
  split
  · exact lasts_refl s
  · split
    · exact lasts_refl s
    · extract_lets u
      have hu : Lasts s u := lasts_of_coll (setBulkStage_only ..) ⟨rfl, rfl⟩
      split
      · exact lasts_step (lasts_of_coll (queuePacket_only ..) (queuePacket_keepsSteps ..)) hu
      · exact lasts_step (dropPacket_lasts ..) hu

theorem launchPacket_lasts (s : State) (out : Nat) (p : Packet) : Lasts s (launchPacket s out p) := by
  unfold launchPacket
  repeat' first
    | with_reducible exact lasts_refl _
    | with_reducible apply lasts_step (admitBulk_lasts ..)
    | with_reducible apply lasts_step (lasts_of_coll (queuePacket_only ..) (queuePacket_keepsSteps ..))
    | with_reducible apply lasts_step (lasts_of_coll (stagePacket_only ..) (stagePacket_keepsSteps ..))
    | split

theorem launch_lasts (s : State) (h : HeldReq) : Lasts s (launch s h) := by
  unfold launch
  extract_lets q r f u v
  have hu : Lasts s u := by
    unfold u
    split
    · exact lasts_fab s _ (fun _ => id) rfl
    · exact lasts_refl s
  split
  · exact lasts_step (launchPacket_lasts ..) hu
  · have hv := lasts_step (lasts_of_coll (countNoroute_only u 6 h.pkt) (countNoroute_keepsSteps ..)) hu
    split
    · exact lasts_step (completeReq_lasts ..) hv
    · exact hv

theorem issueAs_lasts (s : State) (serves : Option Job) (tracked : Bool) (span unit dest cls seat : Nat) (posted : Bool)
    (dst left : Nat) (mk : List (Fld × Nat)) (payload : BitVec 4096) :
    Lasts s (issueAs s serves tracked span unit dest cls seat posted dst left mk payload) := by
  unfold issueAs
  extract_lets n p h f u
  have hu : Lasts s u := lasts_fab s _ (fun _ => id) rfl
  split
  · exact lasts_step (launch_lasts ..) hu
  · exact lasts_step (lasts_fab u _ (fun _ => id) rfl) hu

theorem tablePacket_lasts (s : State) (seat chip off : Nat) (bs : List Byte) : Lasts s (tablePacket s seat chip off bs) := by
  unfold tablePacket
  extract_lets w
  split
  · exact issueAs_lasts ..
  · exact issueAs_lasts ..

theorem tableWrite_lasts (s : State) (e : BitVec 1024) (off : Nat) (bs : List Byte) : Lasts s (tableWrite s e off bs) := by
  unfold tableWrite
  repeat' first
    | with_reducible exact lasts_refl _
    | extract_lets
    | with_reducible apply lasts_step (lasts_of_only (hostWrite_only ..) (by decide))
    | with_reducible apply lasts_step (lasts_of_only (state_noteWindow_only ..) (by decide))
    | with_reducible apply lasts_step (tablePacket_lasts ..)
    | split

theorem ptHeader_lasts (s : State) (slot : Nat) : Lasts s (ptHeader s slot) := by
  unfold ptHeader
  repeat' first
    | with_reducible exact lasts_refl _
    | extract_lets
    | with_reducible apply lasts_step (tableWrite_lasts ..)

theorem ptWrite_lasts (s : State) (e : BitVec 1024) (j : Nat) (w : W64) : Lasts s (ptWrite s e j w) := by
  unfold ptWrite
  repeat' first
    | with_reducible exact lasts_refl _
    | with_reducible apply lasts_step (tableWrite_lasts ..)

theorem refAdd_lasts (s : State) (b p i n : Nat) : Lasts s (refAdd s b p i n) := by
  unfold refAdd
  repeat' first
    | with_reducible exact lasts_refl _
    | with_reducible refine lasts_step (lasts_updBind _ _ ?_) ?_
    | exact fun _ => rfl

theorem applyDue_lasts (s : State) (b : Nat) : Lasts s (applyDue s b) := by
  unfold applyDue
  refine lasts_foldl (lasts_refl s) fun y n hy => ?_
  extract_lets x u1 u2 u3 u4
  have h1 : Lasts s u1 := lasts_foldl hy fun _ _ h => lasts_step (ptWrite_lasts ..) h
  have h2 : Lasts s u2 := lasts_foldl h1 fun _ _ h => lasts_step (refAdd_lasts ..) h
  have h3 : Lasts u2 u3 := by
    unfold u3
    split
    · exact lasts_of_only (state_updReq_only ..) (by decide)
    · exact lasts_refl u2
  have h4 : Lasts s u4 := lasts_step (lasts_of_only (state_updRx_only ..) (by decide)) (lasts_step h3 h2)
  split
  · exact lasts_step (ptHeader_lasts ..) h4
  · exact h4

theorem raise_lasts (s : State) (n v cause : Nat) : Lasts s (raise s n v cause) := by
  unfold raise
  repeat' first
    | with_reducible exact lasts_refl _
    | with_reducible apply lasts_step (lasts_of_only (state_updSeat_only ..) (by decide))
    | with_reducible apply lasts_step (lasts_emit ..)
    | split

theorem deviceEvent_lasts (s : State) (f : Fld) : Lasts s (deviceEvent s f) := by
  unfold deviceEvent
  repeat' first
    | with_reducible exact lasts_refl _
    | with_reducible apply lasts_step (raise_lasts ..)
    | with_reducible refine lasts_step (lasts_bank _ _ ?_) ?_
    | exact rfl

theorem freeSet_lasts (s : State) (seat f : Nat) : Lasts s (freeSet s seat f) := by
  unfold freeSet
  split
  · exact lasts_refl s
  · exact lasts_step (lasts_of_only (state_updSeat_only ..) (by decide)) (lasts_bank s _ rfl)

theorem releaseRun_lasts (s : State) (b p i : Nat) : Lasts s (releaseRun s b p i) := by
  unfold releaseRun
  extract_lets x w
  split
  · exact lasts_setBind s b (own_of_fields rfl rfl rfl rfl)
  · split
    · exact lasts_setBind s b (own_of_fields rfl rfl rfl rfl)
    · split
      · exact lasts_setBind s b (own_addDrop ..)
      · exact lasts_step (lasts_countBind ..) (lasts_setBind s b (own_addDrop ..))

theorem looseRun_lasts (s : State) (b p i : Nat) : Lasts s (looseRun s b p i) := by
  unfold looseRun
  split
  · exact lasts_updBind s b fun _ => own_addDrop ..
  · exact releaseRun_lasts ..

theorem unreserve_lasts (s : State) (b p i : Nat) : Lasts s (unreserve s b p i) := by
  unfold unreserve
  repeat' first
    | with_reducible exact lasts_refl _
    | with_reducible apply lasts_step (looseRun_lasts ..)
    | with_reducible refine lasts_step (lasts_updBind _ _ ?_) ?_
    | exact fun _ => rfl

theorem dropReserved_lasts (s : State) (b : Nat) (e : TEnt) : Lasts s (dropReserved s b e) := by
  unfold dropReserved
  repeat' first
    | with_reducible exact lasts_refl _
    | with_reducible assumption
    | extract_lets
    | with_reducible apply lasts_step (freeSet_lasts ..)
    | with_reducible apply lasts_step (unreserve_lasts ..)
    | with_reducible apply lasts_step (lasts_of_only (state_updRx_only ..) (by decide))
    | with_reducible refine lasts_foldl ?_ (fun _ _ _ => ?_)

theorem endOp_lasts (s : State) (n st : Nat) : Lasts s (endOp s n st) := by
  unfold endOp
  repeat' first
    | with_reducible exact lasts_refl _
    | with_reducible assumption
    | extract_lets
    | with_reducible apply lasts_step (raise_lasts ..)
    | with_reducible apply lasts_step (lasts_of_only (state_updObj_only ..) (by decide))
    | with_reducible apply lasts_step (lasts_of_only (state_updOx_only ..) (by decide))
    | with_reducible apply lasts_step (lasts_of_only (writeMem_only ..) (by decide))
    | with_reducible refine lasts_foldl ?_ (fun _ _ _ => ?_)
    | split

theorem moveSwitch_lasts (s : State) (n : Nat) (keepOld : Bool) : Lasts s (moveSwitch s n keepOld) := by
  unfold moveSwitch
  extract_lets w x old ot tiles isBack u v
  have hu : Lasts s u := lasts_of_only (state_updObj_only ..) (by decide)
  have hv : Lasts u v := by
    unfold v
    split
    · exact lasts_refl u
    · split
      · exact lasts_of_only (state_updOx_only ..) (by decide)
      · split
        · exact lasts_refl u
        · exact lasts_of_only (unchargeTiles_only ..) (by decide)
  exact lasts_step (endOp_lasts ..) (lasts_step hv hu)

theorem switchObjects_lasts (s : State) (b : Nat) : Lasts s (switchObjects s b) := by
  unfold switchObjects
  repeat' first
    | with_reducible exact lasts_refl _
    | with_reducible assumption
    | with_reducible apply lasts_step (moveSwitch_lasts ..)
    | with_reducible refine lasts_foldl ?_ (fun _ _ _ => ?_)
    | split

theorem dropHeld_lasts (s : State) (slot : Nat) : Lasts s (dropHeld s slot) := by
  unfold dropHeld
  split
  · exact lasts_refl s
  · extract_lets b reads u
    refine lasts_step (lasts_of_only (state_updRx_only u slot _) (by decide)) ?_
    unfold u
    split
    · exact lasts_updBind s _ fun _ => rfl
    · exact freeSet_lasts ..

theorem message_lasts (s : State) (dest cls seat bytes : Nat) : Lasts s (message s dest cls seat bytes) :=
  lasts_foldl (lasts_refl s) fun _ _ hy =>
    lasts_step (lasts_of_only (set_free_only ..) (by decide)) (lasts_step (issueAs_lasts ..) hy)

theorem tellPark_lasts (s : State) (chip code arg1 arg2 seat : Nat) : Lasts s (tellPark s chip code arg1 arg2 seat) := by
  unfold tellPark
  repeat' first
    | with_reducible exact lasts_refl _
    | extract_lets
    | with_reducible apply lasts_step (message_lasts ..)
    | with_reducible apply lasts_step (lasts_emit ..)
    | split

theorem parkRelease_lasts (s : State) (slot : Nat) (r : RunCopy) : Lasts s (parkRelease s slot r) := by
  unfold parkRelease
  split
  · exact lasts_of_only (state_updOx_only ..) (by decide)
  · extract_lets n u f v
    have hu : Lasts s u := lasts_of_only (state_updSeat_only ..) (by decide)
    have hv : Lasts s v := lasts_step (lasts_fab u _ (fun _ => id) rfl) hu
    exact lasts_step (tellPark_lasts ..) (lasts_step (lasts_of_only (state_updRx_only ..) (by decide)) hv)

theorem unindex_lasts (s : State) (b p i : Nat) : Lasts s (unindex s b p i) := by
  unfold unindex
  repeat' first
    | with_reducible exact lasts_refl _
    | extract_lets
    | with_reducible apply lasts_step (lasts_of_only (idxRemove_only ..) (by decide))
    | with_reducible refine lasts_step (lasts_updBind _ _ ?_) ?_
    | exact fun _ => rfl
    | split

theorem refDrop_lasts (s : State) (b p i : Nat) : Lasts s (refDrop s b p i) := by
  unfold refDrop
  repeat' first
    | with_reducible exact lasts_refl _
    | extract_lets
    | with_reducible apply lasts_step (looseRun_lasts ..)
    | with_reducible apply lasts_step (unindex_lasts ..)
    | with_reducible refine lasts_step (lasts_setBind _ _ ?_) ?_
    | exact rfl
    | split

theorem endWith_lasts (s : State) (slot st detail time : Nat) (recorded : Bool) (runs : List (Nat × Nat × Nat × W64)) :
    Lasts s (endWith s slot st detail time recorded runs) := by
  unfold endWith
  extract_lets b x gone u1 u2 u3 u4 u5 u6 u7 u8 u9 u10
  have h1 : Lasts s u1 := lasts_countBind ..
  have h2 : Lasts s u2 := lasts_foldl h1 fun _ _ h => lasts_step (refDrop_lasts ..) h
  have h3 : Lasts u2 u3 := by
    unfold u3
    split
    · split
      · exact lasts_refl u2
      · exact refDrop_lasts ..
    · exact lasts_refl u2
  have h4 : Lasts u3 u4 := by
    unfold u4
    split
    · exact lasts_step (lasts_updBind _ _ fun _ => rfl) (unreserve_lasts ..)
    · exact lasts_refl u3
  have h5 : Lasts s u5 := lasts_foldl (lasts_step h4 (lasts_step h3 h2)) fun _ _ h => lasts_step (unreserve_lasts ..) h
  have h6 : Lasts s u6 := lasts_foldl h5 fun _ _ h => lasts_step (parkRelease_lasts ..) h
  have h7 : Lasts s u7 := lasts_step (lasts_updBind _ _ fun _ => rfl) h6
  have h8 : Lasts s u8 := lasts_step (dropHeld_lasts ..) h7
  have h9 : Lasts s u9 := lasts_step (lasts_of_only (state_updReq_only ..) (by decide)) h8
  exact lasts_step (lasts_of_only (state_updRx_only ..) (by decide)) (lasts_step (ptHeader_lasts ..) h9)

theorem endReq_lasts (s : State) (slot st detail time : Nat) (recorded : Bool) : Lasts s (endReq s slot st detail time recorded) := by
  unfold endReq
  repeat' first
    | with_reducible exact lasts_refl _
    | with_reducible apply lasts_step (endWith_lasts ..)

theorem countUncorr_lasts (s : State) (k : Nat) : Lasts s (countUncorr s k) := by
  unfold countUncorr
  repeat' first
    | with_reducible exact lasts_refl _
    | with_reducible apply lasts_step (lasts_countDev ..)
    | with_reducible refine lasts_step (lasts_updIngot _ _ ?_) ?_
    | exact fun _ => rfl
    | split

theorem logError_lasts (s : State) (addr cls path seat : Nat) (binding : Option Nat) (reread : Bool) : Lasts s (logError s addr cls path seat binding reread) := by
  unfold logError
  repeat' first
    | with_reducible exact lasts_refl _
    | with_reducible refine lasts_step (lasts_bank _ _ ?_) ?_
    | exact rfl

theorem noteUncorr_lasts (s : State) (k n path seat : Nat) (binding : Option Nat) : Lasts s (noteUncorr s k n path seat binding) := by
  unfold noteUncorr
  repeat' first
    | with_reducible exact lasts_refl _
    | with_reducible assumption
    | with_reducible apply lasts_step (countUncorr_lasts ..)
    | with_reducible apply lasts_step (logError_lasts ..)
    | with_reducible refine lasts_foldl ?_ (fun _ _ _ => ?_)
    | split

theorem noteBad_lasts (s : State) (k n path seat : Nat) (binding : Option Nat) : Lasts s (noteBad s k n path seat binding) := by
  unfold noteBad
  repeat' first
    | with_reducible exact lasts_refl _
    | with_reducible apply lasts_step (noteUncorr_lasts ..)

theorem ringCheck_lasts (s : State) (slot : Nat) : Lasts s (ringCheck s slot) := by
  unfold ringCheck
  repeat' first
    | with_reducible exact lasts_refl _
    | with_reducible apply lasts_step (lasts_countBind ..)
    | split

theorem readCons_lasts (s : State) (slot : Nat) : Lasts s (readCons s slot) := by
  unfold readCons
  repeat' first
    | with_reducible exact lasts_refl _
    | extract_lets
    | with_reducible apply lasts_step (noteBad_lasts ..)
    | with_reducible apply lasts_step (lasts_of_only (state_noteWindow_only ..) (by decide))
    | with_reducible apply lasts_step (ringCheck_lasts ..)
    | with_reducible apply lasts_step (lasts_of_only (state_updRx_only ..) (by decide))
    | with_reducible apply lasts_step (lasts_countBind ..)
    | split

theorem ringLost_lasts (s : State) (slot : Nat) : Lasts s (ringLost s slot) := by
  unfold ringLost
  repeat' first
    | with_reducible exact lasts_refl _
    | extract_lets
    | with_reducible apply lasts_step (lasts_of_only (state_updRx_only ..) (by decide))
    | with_reducible apply lasts_step (lasts_countBind ..)
    | split

theorem ringStore_lasts (s : State) (slot k : Nat) (bs : List Byte) : Lasts s (ringStore s slot k bs) := by
  unfold ringStore
  repeat' first
    | with_reducible exact lasts_refl _
    | extract_lets
    | with_reducible apply lasts_step (lasts_of_only (hostWrite_only ..) (by decide))
    | with_reducible apply lasts_step (lasts_of_only (state_noteWindow_only ..) (by decide))
    | with_reducible apply lasts_step (ringLost_lasts ..)
    | with_reducible apply lasts_step (lasts_of_only (state_updRx_only ..) (by decide))
    | split

theorem ringHeader_lasts (s : State) (slot : Nat) (ended : Nat) : Lasts s (ringHeader s slot ended) := by
  unfold ringHeader
  repeat' first
    | with_reducible exact lasts_refl _
    | with_reducible apply lasts_step (ringStore_lasts ..)

theorem ringPut_lasts (s : State) (slot : Nat) (w : BitVec 128) : Lasts s (ringPut s slot w) := by
  unfold ringPut
  repeat' first
    | with_reducible exact lasts_refl _
    | extract_lets
    | with_reducible apply lasts_step (ringStore_lasts ..)
    | with_reducible apply lasts_step (lasts_of_only (state_updRx_only ..) (by decide))

theorem ringEnd_lasts (s : State) (slot : Nat) : Lasts s (ringEnd s slot) := by
  unfold ringEnd
  repeat' first
    | with_reducible exact lasts_refl _
    | extract_lets
    | with_reducible apply lasts_step (ringHeader_lasts ..)
    | with_reducible apply lasts_step (ringPut_lasts ..)
    | with_reducible apply lasts_step (lasts_of_only (state_updRx_only ..) (by decide))
    | split

theorem ringVector_lasts (s : State) (seat v : Nat) : Lasts s (ringVector s seat v) := by
  unfold ringVector
  repeat' first
    | with_reducible exact lasts_refl _
    | with_reducible apply lasts_step (raise_lasts ..)
    | with_reducible apply lasts_step (lasts_of_only (state_setMir_only ..) (by decide))
    | split

theorem ringRaise_lasts (s : State) (slot : Nat) : Lasts s (ringRaise s slot) := by
  unfold ringRaise
  repeat' first
    | with_reducible exact lasts_refl _
    | extract_lets
    | with_reducible apply lasts_step (ringVector_lasts ..)
    | split

theorem endNow_lasts (s : State) (slot st detail : Nat) : Lasts s (endNow s slot st detail) := by
  unfold endNow
  repeat' first
    | with_reducible exact lasts_refl _
    | extract_lets
    | with_reducible apply lasts_step (endReq_lasts ..)
    | with_reducible apply lasts_step (readCons_lasts ..)
    | with_reducible apply lasts_step (ringEnd_lasts ..)
    | with_reducible apply lasts_step (ringRaise_lasts ..)
    | with_reducible apply lasts_step (lasts_of_only (state_updRx_only ..) (by decide))
    | split

theorem parkSwitch_lasts (s : State) (slot : Nat) : Lasts s (parkSwitch s slot) := by
  unfold parkSwitch
  repeat' first
    | with_reducible exact lasts_refl _
    | with_reducible assumption
    | extract_lets
    | with_reducible apply lasts_step (lasts_of_only (pauseCheck_only ..) (by decide))
    | with_reducible apply lasts_step (ptWrite_lasts ..)
    | with_reducible apply lasts_step (refDrop_lasts ..)
    | with_reducible apply lasts_step (unindex_lasts ..)
    | with_reducible apply lasts_step (lasts_of_only (state_updRx_only ..) (by decide))
    | with_reducible refine lasts_foldl ?_ (fun _ _ _ => ?_)

theorem parkTry_lasts (s : State) (slot : Nat) (ask : PauseAsk) (col p i fill kind : Nat) :
    Lasts s (parkTry s slot ask col p i fill kind) := by
  unfold parkTry
  extract_lets b n seat asks told hostOk u
  have hu : Lasts s u := by
    unfold u
    split
    · exact lasts_step (lasts_of_only (set_free_only told _) (by decide)) (tellPark_lasts ..)
    · split
      · exact lasts_of_only (state_countSeat_only ..) (by decide)
      · exact lasts_refl s
  split
  · have hv := lasts_step (lasts_bank { u with free := u.free + 1 } { u.bank with nextParkId := u.bank.nextParkId + 1 } rfl)
      (lasts_step (lasts_of_only (set_free_only u _) (by decide)) hu)
    exact lasts_step (lasts_of_only (state_updRx_only ..) (by decide)) (lasts_step (lasts_of_only (state_updSeat_only ..) (by decide)) hv)
  · split
    · exact lasts_step (lasts_of_only (state_updRx_only ..) (by decide)) (lasts_step (lasts_of_only (state_updOx_only ..) (by decide)) hu)
    · split
      · exact lasts_step (lasts_countBind ..) hu
      · exact hu

--SKIP allocRun : Option (State × Nat × Nat)
theorem allocRun_lasts {b turn p i : Nat} {bd : Option Nat} (h : allocRun s b bd turn = some (t, p, i)) : Lasts s t := by
  unfold allocRun at h
  extract_lets x at h
  split at h
  · cases h
  · split at h
    · cases h
    · obtain ⟨rfl, -⟩ := Prod.mk.inj (Option.some.inj h)
      exact lasts_setBind s b (own_takeHead ..)

theorem tailAlloc_lasts (s : State) (slot : Nat) : Lasts s (tailAlloc s slot) := by
  unfold tailAlloc
  extract_lets b r
  split
  · exact lasts_refl s
  · split
    · next hrun =>
      exact lasts_step (lasts_of_only (state_updRx_only ..) (by decide))
        (lasts_step (lasts_updBind _ _ fun _ => rfl) (allocRun_lasts hrun))
    · split
      · exact lasts_refl s
      · exact lasts_step (lasts_of_only (state_updRx_only ..) (by decide)) (lasts_countBind ..)

theorem pauseEffect_lasts (s : State) (slot : Nat) (ask : PauseAsk) : Lasts s (pauseEffect s slot ask) := by
  unfold pauseEffect
  extract_lets e b st detail k u1 u2 runs u3 u4
  have h1 : Lasts s u1 := lasts_of_only (state_updReq_only ..) (by decide)
  have h2 : Lasts s u2 := lasts_step (lasts_of_only (state_updRx_only ..) (by decide)) h1
  have h3 : Lasts s u3 := lasts_foldl h2 fun _ _ h => lasts_step (parkTry_lasts ..) h
  have h4 : Lasts u3 u4 := by
    unfold u4
    split
    · exact dropHeld_lasts ..
    · exact tailAlloc_lasts ..
  exact lasts_step (lasts_of_only (pauseCheck_only ..) (by decide)) (lasts_step (ptHeader_lasts ..) (lasts_step h4 h3))

theorem resumeSwitch_lasts (s : State) (slot : Nat) : Lasts s (resumeSwitch s slot) := by
  unfold resumeSwitch
  repeat' first
    | with_reducible exact lasts_refl _
    | with_reducible assumption
    | extract_lets
    | with_reducible apply lasts_step (parkRelease_lasts ..)
    | with_reducible apply lasts_step (ptWrite_lasts ..)
    | with_reducible apply lasts_step (lasts_of_only (state_updReq_only ..) (by decide))
    | with_reducible apply lasts_step (lasts_of_only (state_updRx_only ..) (by decide))
    | with_reducible refine lasts_step (lasts_updBind _ _ ?_) ?_
    | exact fun _ => rfl
    | with_reducible refine lasts_foldl ?_ (fun _ _ _ => ?_)
    | split

theorem takeWaiting_lasts (s : State) (b : Nat) : Lasts s (takeWaiting s b) := by
  unfold takeWaiting
  repeat' first
    | with_reducible exact lasts_refl _
    | with_reducible assumption
    | extract_lets
    | with_reducible apply lasts_step (endNow_lasts ..)
    | with_reducible apply lasts_step (parkSwitch_lasts ..)
    | with_reducible apply lasts_step (pauseEffect_lasts ..)
    | with_reducible apply lasts_step (resumeSwitch_lasts ..)
    | with_reducible refine lasts_foldl ?_ (fun _ _ _ => ?_)
    | split

/-- The binding of a turn as it is abandoned, before what waited for the turn takes effect (R54). -/
def abandoned (s : State) (b : Nat) : State :=
  s.updBind b (fun y => { y with
    blk := setAll y.blk [(LTurnBlk.PHASE, 6), (LTurnBlk.FAULTED, 1), (LTurnBlk.LAYER, 0)], turn := [], prov := 0,
    waitBarrier := false, seeds := y.seeds.filter (fun c => !(s.bind b).turn.any (fun e => entSlot e == c.slot)) })

theorem abandonLocal_lasts {b : Nat} (h : inFlight s b = true) : Lasts (abandoned s b) (abandonLocal s b) := by
  unfold abandonLocal
  extract_lets x ents u1 u2 f u3
  rw [h]
  have h2 : Lasts u1 u2 := lasts_foldl (lasts_refl u1) fun _ _ hy => lasts_step (dropReserved_lasts ..) hy
  have h3 : Lasts u2 u3 := by
    unfold u3
    split
    · exact lasts_of_only (set_slot_only u2 _) (by decide)
    · exact lasts_refl u2
  have h4 := lasts_step (applyDue_lasts _ b) (lasts_step (deviceEvent_lasts u3 LEv.FAULTED) (lasts_step h3 h2))
  exact lasts_step (takeWaiting_lasts _ b) (lasts_step (switchObjects_lasts _ b) h4)

theorem sendParts_lasts (s : State) (serves : Option Job) (type unit dest cls seat : Nat) (data : List Byte) :
    Lasts s (sendParts s serves type unit dest cls seat data) :=
  lasts_foldl (lasts_refl s) fun _ _ hy => lasts_step (issueAs_lasts ..) hy

theorem sendSync_lasts (s : State) (port chip : Nat) (w : BitVec 512) (entries : List SliceEnt) : Lasts s (sendSync s port chip w entries) := by
  unfold sendSync
  repeat' first
    | with_reducible exact lasts_refl _
    | with_reducible apply lasts_step (sendParts_lasts ..)
    | with_reducible apply lasts_step (lasts_emit ..)
    | split

theorem toParent_lasts (s : State) (w : BitVec 512) : Lasts s (toParent s w) := by
  unfold toParent
  repeat' first
    | with_reducible exact lasts_refl _
    | with_reducible apply lasts_step (sendSync_lasts ..)
    | split

/-! ## Barriers -/

/-- The state with other barriers. -/
def barred (s : State) (l : Tab Barrier) : State := { s with fab := { s.fab with barriers := l } }

theorem lasts_barred (h : Lasts s t) (l : Tab Barrier) : Lasts (barred s l) (barred t l) :=
  ⟨h.out, h.own, h.engine, h.coll, ⟨h.tree.same⟩, h.idle, congrArg (fun x => ((x.1.1, x.1.2.1, l, x.1.2.2.2), x.2)) h.slice⟩

theorem sendGather_lasts (s : State) (b : Nat) (abandon : Nat) : ∃ l, Lasts (barred s l) (sendGather s b abandon) :=
  ⟨_, toParent_lasts ..⟩

theorem barrierArrive_lasts (s : State) (b : Nat) (abandon : Nat) : ∃ l, Lasts (barred s l) (barrierArrive s b abandon) := by
  unfold barrierArrive
  extract_lets x u
  split
  · exact sendGather_lasts u b 0
  · exact ⟨_, lasts_refl u⟩

theorem toKids_lasts (s : State) (w : BitVec 512) (entries : List SliceEnt) : Lasts s (toKids s w entries) := by
  unfold toKids
  repeat' first
    | with_reducible exact lasts_refl _
    | with_reducible assumption
    | extract_lets
    | with_reducible apply lasts_step (sendSync_lasts ..)
    | with_reducible apply lasts_step (lasts_emit ..)
    | with_reducible refine lasts_foldl ?_ (fun _ _ _ => ?_)
    | split

theorem abandonTurn_lasts {b : Nat} (h : inFlight s b = true) : ∃ l, Lasts (barred (abandoned s b) l) (abandonTurn s b) := by
  have hlocal := abandonLocal_lasts h
  unfold abandonTurn
  extract_lets turn u
  rw [h]
  split
  · next hfalse => cases hfalse
  · split
    · exact ⟨_, hlocal⟩
    · split
      · exact ⟨_, lasts_step (toKids_lasts ..) (lasts_barred hlocal _)⟩
      · obtain ⟨l, hl⟩ := barrierArrive_lasts u b 1
        exact ⟨l, lasts_step hl (lasts_barred hlocal l)⟩

theorem failSlot_lasts (s : State) (b slot detail : Nat) : Lasts s (failSlot s b slot detail) := lasts_updBind s b fun _ => rfl


theorem failQuery_lasts (s : State) (cl qid : Nat) : Lasts s (failQuery s cl qid) := by
  unfold failQuery
  repeat' first
    | with_reducible exact lasts_refl _
    | with_reducible apply lasts_step (failSlot_lasts ..)
    | split


theorem noteLayer_lasts (s : State) (b l : Nat) : Lasts s (noteLayer s b l) := by
  unfold noteLayer
  split
  · refine lasts_updBind s b fun x => ?_
    have hphase := get_setAll_apart x.blk (f := LTurnBlk.PHASE) (l := [(LTurnBlk.LAYER, l)])
      (by simp [FieldsApart, LTurnBlk.PHASE, LTurnBlk.LAYER])
    have hfault := get_setAll_apart x.blk (f := LTurnBlk.FAULTED) (l := [(LTurnBlk.LAYER, l)])
      (by simp [FieldsApart, LTurnBlk.FAULTED, LTurnBlk.LAYER])
    have hturn := get_setAll_apart x.blk (f := LTurnBlk.TURN) (l := [(LTurnBlk.LAYER, l)])
      (by simp [FieldsApart, LTurnBlk.TURN, LTurnBlk.LAYER])
    have htime := get_setAll_apart x.blk (f := LTurnBlk.COMMIT_TIME) (l := [(LTurnBlk.LAYER, l)])
      (by simp [FieldsApart, LTurnBlk.COMMIT_TIME, LTurnBlk.LAYER])
    simp only [ownOf, bFaulted, bPhase, bTurn, Fld.on, hphase, hfault, hturn, htime]
  · exact lasts_refl s

end Sys2Proof.Lasting
end

section
/-! The packets of an intake, and the turn that one of them may end: what has been sent stays sent, and a faulted binding stays so. -/

namespace Sys2Proof.Lasting

open Sys2Proof Sys2Proof.Machine Sys2Proof.Laws Sys2Proof.Lanes Sys2Proof.Intake
open Sys2Proof.MailboxService (FieldsApart)
open Sys2Proof.Fabric (get_setAll_of_mem)

variable {s t u : State}

/-! ## An abandoned turn (R54) -/

theorem inFlight_of_holderIn {n b : Nat} (h : holderIn s n = some b) (h1 : 1 ≤ n) (h5 : n ≤ 5) : inFlight s b = true := by
  obtain ⟨-, hb⟩ := Option.filter_eq_some_iff.mp h
  simp only [Bool.and_eq_true, beq_iff_eq, Bool.not_eq_true'] at hb
  simp [inFlight, hb.1, hb.2, h1, h5]

theorem inFlight_of_layerHolder {b : Nat} (h : layerHolder s = some b) : inFlight s b = true :=
  inFlight_of_holderIn h (by decide) (by decide)

theorem abandoned_block (s : State) (b : Nat) : bPhase ((abandoned s b).bind b) = 6 ∧ bFaulted ((abandoned s b).bind b) = true := by
  have hapart : ([(LTurnBlk.PHASE, 6), (LTurnBlk.FAULTED, 1), (LTurnBlk.LAYER, 0)].map (·.1)).Pairwise FieldsApart := by
    simp [FieldsApart, LTurnBlk.PHASE, LTurnBlk.FAULTED, LTurnBlk.LAYER]
  rw [abandoned, State.updBind, setBind_bind]
  refine ⟨get_setAll_of_mem _ (f := LTurnBlk.PHASE) (v := 6) (by simp) hapart (by decide), ?_⟩
  rw [bFaulted, Fld.on, get_setAll_of_mem _ (f := LTurnBlk.FAULTED) (v := 1) (by simp) hapart (by decide)]
  rfl

theorem abandonTurn_block {b : Nat} (h : inFlight s b = true) :
    bPhase ((abandonTurn s b).bind b) = 6 ∧ bFaulted ((abandonTurn s b).bind b) = true := by
  obtain ⟨l, hlasts⟩ := abandonTurn_lasts h
  rw [hlasts.phase, hlasts.faulted]
  exact abandoned_block s b

theorem abandonTurn_of_other {b : Nat} (h : inFlight s b = false) : abandonTurn s b = s := by
  unfold abandonTurn
  rw [h]
  rfl

/-! ## What even an abandoned turn leaves -/

/-- What has been sent, the FAULTED bits that are set, and the merge trees' records and pointers. -/
structure Persists (s t : State) : Prop where
  out : ∃ l, t.out = l ++ s.out
  faulted : ∀ b, bFaulted (s.bind b) = true → bFaulted (t.bind b) = true
  tree : KeepsIngots treeOf s t

theorem Lasts.persists (h : Lasts s t) : Persists s t := ⟨h.out, fun b hb => (h.faulted b).trans hb, h.tree⟩

theorem persists_refl (s : State) : Persists s s := (lasts_refl s).persists

theorem Persists.trans (h : Persists s t) (h' : Persists t u) : Persists s u := by
  obtain ⟨l, hl⟩ := h.out
  obtain ⟨k, hk⟩ := h'.out
  exact ⟨⟨k ++ l, by rw [hk, hl, List.append_assoc]⟩, fun b hb => h'.faulted b (h.faulted b hb), h.tree.trans h'.tree⟩

theorem Persists.sent (h : Persists s t) {o : Out} (ho : o ∈ s.out) : o ∈ t.out := by
  obtain ⟨l, hl⟩ := h.out
  rw [hl]
  exact List.mem_append_right l ho

theorem Persists.recs (h : Persists s t) (i : Nat) : (t.ingot i).recs = (s.ingot i).recs := congrArg Prod.fst (h.tree.same i)
theorem Persists.mergePtr (h : Persists s t) (i : Nat) : (t.ingot i).mergePtr = (s.ingot i).mergePtr :=
  congrArg Prod.snd (h.tree.same i)

theorem persists_of_only {l : List Part} (h : OnlyChanges l s t) (hl : ∀ p ∈ [Part.out, .binds, .ingots], p ∉ l) :
    Persists s t := by
  have hbinds : t.binds = s.binds := h.same .binds (hl _ (by decide))
  refine ⟨⟨[], h.same .out (hl _ (by decide))⟩, fun b hb => ?_, keepsIngots_of_only h (hl _ (by decide))⟩
  rwa [Machine.State.bind, hbinds]

theorem persists_updIngot (s : State) (i : Nat) {f : Ingot → Ingot} (h : ∀ x, treeOf (f x) = treeOf x) : Persists s (s.updIngot i f) :=
  (lasts_updIngot s i h).persists

theorem abandonTurn_persists (s : State) (b : Nat) : Persists s (abandonTurn s b) := by
  cases h : inFlight s b with
  | false =>
    rw [abandonTurn_of_other h]
    exact persists_refl s
  | true =>
    have hblock : Persists s (abandoned s b) := by
      refine ⟨⟨[], rfl⟩, fun k hk => ?_, ⟨fun _ => rfl⟩⟩
      obtain rfl | hne := eq_or_ne k b
      · exact (abandoned_block s k).2
      · rw [abandoned, State.updBind, setBind_bind_other _ _ _ _ hne]
        exact hk
    obtain ⟨l, hlasts⟩ := abandonTurn_lasts h
    exact hblock.trans ⟨hlasts.out, hlasts.persists.faulted, ⟨hlasts.tree.same⟩⟩

/-! ## Packets at an intake -/

theorem failLocal_persists (s : State) (kind slot : Nat) : Persists s (failLocal s kind slot) := by
  unfold failLocal
  split
  · exact persists_refl s
  · split
    · exact (failSlot_lasts ..).persists
    · exact abandonTurn_persists ..

theorem reject_persists (s : State) (i : Nat) (d : BitVec 256) (chip : Nat) : Persists s (reject s i d chip) := by
  have hcount : Persists s (s.countIngot i 0x0B0 1) := persists_updIngot s i fun _ => rfl
  unfold reject
  extract_lets u
  split
  · exact hcount.trans (failLocal_persists ..)
  · exact hcount

theorem discardDisp_persists (s : State) (i : Nat) (x : Intake) : Persists s (discardDisp s i x) := by
  have hemit (o : Out) : Persists s (s.emit o) := (lasts_emit s o).persists
  unfold discardDisp
  extract_lets chip cl tag
  split
  · split
    · exact reject_persists ..
    · exact persists_refl s
  · split
    · exact reject_persists ..
    · exact reject_persists ..
    · split
      · exact hemit _
      · split
        · exact (hemit _).trans (failSlot_lasts ..).persists
        · exact hemit _
    · exact hemit _
    · exact (hemit _).trans (failQuery_lasts ..).persists

theorem enqueued_persists (s : State) (i : Nat) (x : Intake) : Persists s (enqueued s i x) := by
  have hslots : Persists s (s.updIngot i (takeSlots s i x.desc)) := persists_updIngot s i fun _ => by rfl
  exact hslots.trans (persists_of_only (state_setPip_only ..) (by decide))

theorem acceptDesc_persists (s : State) (i : Nat) (x : Intake) : Persists s (acceptDesc s i x) := by
  have hqueued := enqueued_persists s i x
  rw [acceptDesc_eq]
  split
  · exact hqueued.trans (persists_updIngot _ i fun _ => rfl)
  · split
    · split
      · exact hqueued.trans (noteLayer_lasts ..).persists
      · exact hqueued
    · exact hqueued

theorem sendRow_persists (i : Nat) (g : MGroup) (s : State) (p : Nat × Nat) : Persists s (sendRow i g s p) := by
  unfold sendRow
  extract_lets ds recs first slot
  split
  · exact (lasts_emit ..).persists.trans (persists_of_only (set_free_only _ _) (by decide))
  · exact (lasts_emit ..).persists

theorem persists_foldl {α : Type} {f : State → α → State} (h : ∀ s a, Persists s (f s a)) (l : List α) (s : State) :
    Persists s (l.foldl f s) := by
  induction l generalizing s with
  | nil => exact persists_refl s
  | cons a l ih => exact (h s a).trans (ih _)

theorem sendGroups_persists (s : State) (i : Nat) : Persists s (sendGroups s i) := by
  unfold sendGroups
  extract_lets old u
  have hu : Persists s u := persists_updIngot s i fun _ => rfl
  refine hu.trans (persists_foldl (fun s g => ?_) old u)
  refine Persists.trans ?_ (persists_foldl (fun s p => sendRow_persists i g s p) _ _)
  split
  · exact persists_updIngot s i fun _ => rfl
  · exact persists_refl s

theorem takeRelease_persists (s : State) (i : Nat) (x : Intake) : Persists s (takeRelease s i x) := by
  unfold takeRelease
  exact persists_updIngot s i fun _ => rfl

theorem takeClose_persists (s : State) (i : Nat) (x : Intake) : Persists s (takeClose s i x) := by
  unfold takeClose
  exact (persists_updIngot s i fun _ => by rfl).trans (sendGroups_persists _ i)

theorem takeDesc_persists {i n : Nat} {x : Intake} (h : takeDesc s i x = some (t, n)) : Persists s t := by
  unfold takeDesc at h
  extract_lets d chip g at h
  split at h
  · cases h
    exact reject_persists ..
  · split at h
    · cases h
    · cases h
      exact acceptDesc_persists ..

theorem takeQuery_persists {i : Nat} {x : Intake} (h : takeQuery s i x = some t) : Persists s t := by
  unfold takeQuery at h
  dsimp only at h
  split at h
  · simp at h
  · split at h
    · simp at h
    · obtain rfl := Option.some.inj h
      exact persists_updIngot s i fun _ => rfl

theorem takeStatus_persists {i n : Nat} {x : Intake} (h : takeStatus s i x = some (t, n)) : Persists s t := by
  unfold takeStatus at h
  split at h
  · cases h
    exact discardDisp_persists ..
  · split at h
    · cases h
      exact persists_of_only (noteRefused_only ..) (by decide)
    · split at h
      · exact takeDesc_persists h
      · exact takeDesc_persists h
      · simp only [Option.map_eq_some_iff, Prod.mk.injEq] at h
        obtain ⟨u, hu, rfl, -⟩ := h
        exact takeQuery_persists hu
      · cases h
        exact takeClose_persists ..
      · cases h
        exact takeRelease_persists ..

theorem takePacket_persists {i : Nat} {x : Intake} (h : takePacket s i x = some t) : Persists s t := by
  simp only [takePacket, Option.map_eq_some_iff] at h
  obtain ⟨⟨v, n⟩, hv, rfl⟩ := h
  have hstatus := takeStatus_persists hv
  split
  · exact hstatus.trans (persists_of_only (answer_only ..) (by decide))
  · exact hstatus

theorem intakeGrant_persists {i cls : Nat} (h : intakeGrant s i cls = some t) : Persists s t := by
  unfold intakeGrant at h
  split at h
  · cases h
  · simp only [Option.bind_eq_some_iff, Option.map_eq_some_iff] at h
    obtain ⟨x, -, v, hv, rfl⟩ := h
    exact (takePacket_persists hv).trans (persists_updIngot v i fun _ => rfl)

theorem drainIntake_persists (i n : Nat) (s : State) : Persists s (drainIntake i n s) := by
  induction n generalizing s with
  | zero => exact persists_refl s
  | succ n ih =>
    rw [drainIntake]
    split
    · next v hv =>
      refine Persists.trans ?_ (ih v)
      rcases Option.or_eq_some_iff.mp hv with hv | ⟨-, hv⟩
      · exact intakeGrant_persists hv
      · exact intakeGrant_persists hv
    · exact persists_refl s

theorem drained_persists (s : State) (i : Nat) : Persists s (drained s i) := drainIntake_persists i _ s

end Sys2Proof.Lasting
end

section
/-! Records that the merge trees take, triples that reach a cluster, and what it then releases (R160 to R170). -/

namespace Sys2Proof.Merging

open Sys2Proof Sys2Proof.Machine Sys2Proof.Laws Sys2Proof.Lanes Sys2Proof.Lasting Sys2Proof.Intake Sys2Proof.Pins
open Sys2Proof.MailboxService (FieldsApart get_setAll_cons)

variable {s t u : State}

/-! ## Packets that serve no job (R168, R328) -/

theorem completeReq_quiet {r : FabReq} (hserves : r.serves = none) (s : State) (status : Nat) (data : List Byte) :
    OnlyChanges [.cores, .fab, .out] s (completeReq s r status data) := by
  unfold completeReq
  extract_lets fences f u v
  have hu : OnlyChanges [.cores, .fab, .out] s u := only_step (set_fab_only s _) (by decide) (only_refl _ _)
  have hv : OnlyChanges [.cores, .fab, .out] s v := by
    unfold v
    rw [hserves]
    dsimp only
    split
    · exact hu
    · exact only_step (lostTiles_only ..) (by decide) hu
  exact only_step (settleFences_only ..) (by decide) (only_step (state_emit_only ..) (by decide) hv)

/-- A request outside the bulk class that serves no job leaves its unit. -/
theorem launch_quiet {h : HeldReq} (hserves : h.req.serves = none) (hcls : LPkt.CLASS.get h.pkt.hdr ≠ 3) (s : State) :
    OnlyChanges [.cores, .fab, .out] s (launch s h) := by
  unfold launch
  extract_lets q r f u v
  have hu : OnlyChanges [.cores, .fab, .out] s u := by
    unfold u
    split
    · exact only_step (set_fab_only s _) (by decide) (only_refl _ _)
    · exact only_refl _ _
  split
  · rw [launchPacket, if_neg hcls]
    exact only_step (queuePacket_only ..) (by decide) hu
  · have hv : OnlyChanges [.cores, .fab, .out] s v := only_step (countNoroute_only ..) (by decide) hu
    split
    · obtain ⟨hsame, hmem⟩ := completeReq_quiet (r := r) hserves v St.noroute []
      exact only_step ⟨hsame, hmem⟩ (by decide) hv
    · exact hv

/-- The class of the packet of a request. -/
theorem class_of_issue {dest cls src tag seat unit n : Nat} {mk : List (Fld × Nat)} (hcls : cls < 3)
    (hmk : ∀ e ∈ mk, FieldsApart LPkt.CLASS e.1) : LPkt.CLASS.get (setAll 0#256 ([(LPkt.CLASS, cls), (LPkt.DEST, dest), (LPkt.SRC, src),
      (LPkt.STAG, tag), (LPkt.SEAT, seat), (LPkt.UNIT, unit), (LPkt.SEQ, n)] ++ mk)) ≠ 3 := by
  have hclass : LPkt.CLASS.get (setAll 0#256 ([(LPkt.CLASS, cls), (LPkt.DEST, dest), (LPkt.SRC, src), (LPkt.STAG, tag),
      (LPkt.SEAT, seat), (LPkt.UNIT, unit), (LPkt.SEQ, n)] ++ mk)) = cls % 2 ^ 2 := by
    refine get_setAll_cons _ cls (by decide) fun e he => ?_
    rcases List.mem_append.mp he with hown | hmore
    · clear he
      revert e
      simp [FieldsApart, LPkt.CLASS, LPkt.DEST, LPkt.SRC, LPkt.STAG, LPkt.SEAT, LPkt.UNIT, LPkt.SEQ]
    · exact hmk e hmore
  omega

theorem issueAs_quiet (s : State) (tracked : Bool) (span unit dest cls seat : Nat) (posted : Bool) (dst left : Nat)
    {mk : List (Fld × Nat)} (payload : BitVec 4096) (hcls : cls < 3) (hmk : ∀ e ∈ mk, FieldsApart LPkt.CLASS e.1) :
    OnlyChanges [.cores, .fab, .out] s (issueAs s none tracked span unit dest cls seat posted dst left mk payload) := by
  unfold issueAs
  extract_lets n p h f u
  have hu : OnlyChanges [.cores, .fab, .out] s u := only_step (set_fab_only s _) (by decide) (only_refl _ _)
  have hhdr : h.pkt.hdr = setAll 0#256 ([(LPkt.CLASS, cls), (LPkt.DEST, dest), (LPkt.SRC, ownChip s), (LPkt.STAG, ownTag s),
      (LPkt.SEAT, seat), (LPkt.UNIT, unit), (LPkt.SEQ, n)] ++ mk) := rfl
  have hclass : LPkt.CLASS.get h.pkt.hdr ≠ 3 := by
    rw [hhdr]
    exact class_of_issue hcls hmk
  split
  · exact only_step (launch_quiet rfl hclass u) (by decide) hu
  · exact only_step (set_fab_only u _) (by decide) hu

theorem sendDisp_quiet (s : State) (cl chip ingot seat : Nat) (hdr : BitVec 128) (words : List W32) :
    OnlyChanges [.cores, .fab, .out] s (sendDisp s none cl chip ingot seat hdr words) := by
  have hemit : OnlyChanges [.cores, .fab, .out] s (s.emit (.dispatch chip ingot hdr words)) :=
    only_step (state_emit_only ..) (by decide) (only_refl _ _)
  unfold sendDisp
  extract_lets u
  split
  · exact hemit
  · refine only_foldl hemit fun y i hy => only_step (issueAs_quiet y true 1 _ _ _ _ true 0 0 _ (by decide) ?_) (by decide) hy
    simp [FieldsApart, LPkt.CLASS, LPkt.TYPE, LPkt.PLEN]

theorem releaseTo_quiet (s : State) (b cl chip ingot layer : Nat) :
    OnlyChanges [.cores, .fab, .out] s (releaseTo s b cl chip ingot layer) := sendDisp_quiet ..

/-! ## The RELEASEs that a cluster sends (R65, R168) -/

/-- A cluster's releases change nothing but what it notes as in use, and the fabric. -/
structure Released (cl : Nat) (s t : State) : Prop where
  only : OnlyChanges [.cores, .clusters, .fab, .out] s t
  others : ∀ k, k ≠ cl → t.cluster k = s.cluster k
  own : { t.cluster cl with used := [], weights := [] } = { s.cluster cl with used := [], weights := [] }

theorem released_refl (cl : Nat) (s : State) : Released cl s s := ⟨only_refl _ _, fun _ _ => rfl, rfl⟩

theorem Released.trans {cl : Nat} (h : Released cl s t) (h' : Released cl t u) : Released cl s u :=
  ⟨only_step h'.only (by decide) h.only, fun k hk => (h'.others k hk).trans (h.others k hk), h'.own.trans h.own⟩

theorem Released.awaits {cl : Nat} (h : Released cl s t) : (t.cluster cl).awaits = (s.cluster cl).awaits := by
  have hawaits := congrArg Cluster.awaits h.own
  exact hawaits

theorem Released.inbox {cl : Nat} (h : Released cl s t) : (t.cluster cl).inbox = (s.cluster cl).inbox := by
  have hinbox := congrArg Cluster.inbox h.own
  exact hinbox

theorem released_releaseTo (s : State) (b cl chip ingot layer : Nat) : Released cl s (releaseTo s b cl chip ingot layer) := by
  have h := releaseTo_quiet s b cl chip ingot layer
  have hclusters := h.same .clusters (by decide)
  refine ⟨only_step h (by decide) (only_refl _ _), fun k _ => ?_, ?_⟩
  · rw [State.cluster, State.cluster, hclusters]
  · rw [State.cluster, State.cluster, hclusters]

theorem released_setCluster (s : State) (cl : Nat) {x : Cluster}
    (h : { x with used := [], weights := [] } = { s.cluster cl with used := [], weights := [] }) : Released cl s (s.setCluster cl x) :=
  ⟨only_step (state_setCluster_only ..) (by decide) (only_refl _ _), fun k hk => setCluster_cluster_other _ _ _ _ hk,
    by rw [setCluster_cluster, h]⟩

theorem released_foldl {α : Type} {cl : Nat} {f : State → α → State} (h : ∀ s a, Released cl s (f s a)) (l : List α) (s : State) :
    Released cl s (l.foldl f s) := by
  induction l generalizing s with
  | nil => exact released_refl cl s
  | cons a l ih => exact (h s a).trans (ih _)

theorem sendReleases_released (s : State) (b cl : Nat) : Released cl s (sendReleases s b cl) := by
  unfold sendReleases
  extract_lets c ended
  refine released_foldl (fun s u => Released.trans ?_ (released_releaseTo ..)) _ s
  exact released_setCluster s cl rfl

theorem releaseWeights_released (s : State) (cl : Nat) : Released cl s (releaseWeights s cl) := by
  unfold releaseWeights
  split
  · exact released_refl cl s
  · extract_lets ended
    refine Released.trans ?_ (released_foldl (fun s _ => released_releaseTo ..) ended _)
    split
    · exact released_refl cl s
    · exact released_setCluster s cl rfl

/-! ## Requests that a failed triple marks (R170, R256) -/

/-- What a mark leaves of a reading that its counts do not touch is what marking the slot's entries leaves. -/
theorem markFault_read {β : Type} {b d : Nat} {e : TEnt} (read : State → β)
    (hcount : ∀ u k, k = BC.colMissing ∨ k = BC.tierFault → read (u.countBind b k 1) = read u)
    (hrx : ∀ u slot f, read (State.updRx u slot f) = read u) :
    read (markFault s b e d) = if d = 0 ∨ e.fault ≠ 0 then read s else read (failSlot s b (entSlot e) d) := by
  have htier : ∀ (u : State) (slot : Nat), read (countTier u b slot) = read u := fun u slot => by
    unfold countTier
    split
    · rfl
    · rw [hcount _ _ (.inr rfl), hrx]
  unfold markFault
  by_cases hd : d = 0 ∨ e.fault ≠ 0
  · rw [if_pos (by simpa using hd), if_pos hd]
  · rw [if_neg (by simpa using hd), if_neg hd]
    by_cases h2 : d = 2
    · simp [h2, htier]
    · by_cases h3 : d = 3
      · simp [h3, hcount _ _ (.inl rfl)]
      · simp [h2, h3]

/-- The entry that a fault marks holds its detail. -/
theorem markFault_marks {b en d : Nat} {e : TEnt} (he : turnEnt s b en = some e) (hfault : e.fault = 0) (hd : d ≠ 0) :
    ∃ f, turnEnt (markFault s b e d) b en = some f ∧ f.fault = d := by
  refine ⟨e.fail d, ?_, by rw [TEnt.fail, if_pos hfault]⟩
  rw [markFault_read (fun u => turnEnt u b en) (fun u k _ => by
    rw [turnEnt, State.countBind, State.updBind, setBind_bind, turnEnt]) (fun _ _ _ => rfl), if_neg (by simp [hd, hfault])]
  rw [turnEnt] at he
  rw [turnEnt, failSlot, State.updBind, setBind_bind, List.getElem?_map, he, Option.map_some, if_pos (by simp)]

theorem markFault_ctr {b d k : Nat} {e : TEnt} (hk : k ≠ BC.colMissing) (hk' : k ≠ BC.tierFault) :
    Tab.get ((markFault s b e d).bind b).ctr 0#64 k = Tab.get (s.bind b).ctr 0#64 k := by
  rw [markFault_read (fun u => Tab.get (u.bind b).ctr 0#64 k) (fun u j hj => ?_) (fun _ _ _ => rfl)]
  · split
    · rfl
    · rw [failSlot, State.updBind, setBind_bind]
  · rw [State.countBind, State.updBind, setBind_bind, ctrAdd, get_set_other]
    rcases hj with rfl | rfl
    · exact hk
    · exact hk'

/-! ## Triples at a cluster (R164, R170) -/

/-- What a cluster does with an await it has ended: a mark, and the releases that follow. -/
def afterAwait (s : State) (b cl : Nat) (a : Await) (d : Nat) : State :=
  sendReleases (match turnEnt s b a.entry with
    | some e => if d ≠ 0 then markFault s b e d else s
    | none => s) b cl

theorem afterAwait_cluster (s : State) (b cl : Nat) (a : Await) (d : Nat) :
    ((afterAwait s b cl a d).cluster cl).awaits = (s.cluster cl).awaits ∧
    ((afterAwait s b cl a d).cluster cl).inbox = (s.cluster cl).inbox ∧
    ∀ k, k ≠ cl → (afterAwait s b cl a d).cluster k = s.cluster k := by
  have hmark : ∀ k, (match turnEnt s b a.entry with
      | some e => if d ≠ 0 then markFault s b e d else s
      | none => s).cluster k = s.cluster k := fun k => by
    split
    · split
      · rw [State.cluster, State.cluster, (markFault_only ..).same .clusters (by decide)]
      · rfl
    · rfl
  have hreleased := sendReleases_released (match turnEnt s b a.entry with
      | some e => if d ≠ 0 then markFault s b e d else s
      | none => s) b cl
  exact ⟨hreleased.awaits.trans (congrArg Cluster.awaits (hmark cl)), hreleased.inbox.trans (congrArg Cluster.inbox (hmark cl)),
    fun k hk => (hreleased.others k hk).trans (hmark k)⟩

theorem sendReleases_bind (s : State) (b cl k : Nat) : (sendReleases s b cl).bind k = s.bind k := by
  rw [Machine.State.bind, Machine.State.bind, (sendReleases_released s b cl).only.same .binds (by decide)]

theorem afterAwait_marks {b cl d : Nat} {a : Await} {e : TEnt} (he : turnEnt s b a.entry = some e) (hfault : e.fault = 0) (hd : d ≠ 0) :
    ∃ f, turnEnt (afterAwait s b cl a d) b a.entry = some f ∧ f.fault = d := by
  rw [afterAwait, turnEnt, sendReleases_bind, he]
  dsimp only
  rw [if_pos hd]
  exact markFault_marks he hfault hd

theorem afterAwait_ctr {b cl d k : Nat} {a : Await} (hk : k ≠ BC.colMissing) (hk' : k ≠ BC.tierFault) :
    Tab.get ((afterAwait s b cl a d).bind b).ctr 0#64 k = Tab.get (s.bind b).ctr 0#64 k := by
  rw [afterAwait, sendReleases_bind]
  split
  · split
    · exact markFault_ctr hk hk'
    · rfl
  · rfl

end Sys2Proof.Merging
end

section
/-! RESULT_RECORD, MERGED_TRIPLE and MERGE_TIMEOUT (R97, R160 to R170). -/

namespace Sys2Proof.Merging

open Sys2Proof Sys2Proof.Machine Sys2Proof.Laws Sys2Proof.Lanes Sys2Proof.Lasting Sys2Proof.Intake Sys2Proof.Pins

variable {s t u : State}

/-! ## Rows of the merged triples -/

/-- The awaits of a cluster after one of an await's rows has come. -/
def rowCome (l : List Await) (a : Await) (p : Nat × Nat) : List Await :=
  let left := a.rows.filter (fun q => q != p)
  l.filterMap (fun x => if x == a then (if left.isEmpty then none else some { a with rows := left }) else some x)

theorem takeTriple_eq (b cl : Nat) (a : Await) (h : BitVec 256) (payload : List W32) (s : State) :
    takeTriple b cl a h payload s =
      if LRec.STATUS.get h = 0 then afterAwait (s.setCluster cl { s.cluster cl with
          awaits := rowCome (s.cluster cl).awaits a (LRec.QROW.get h, LRec.HEAD.get h),
          inbox := (s.cluster cl).inbox ++ [⟨a.layer, a.entry, a.group, LRec.QROW.get h, LRec.HEAD.get h, LMrg.FIRST_SEQ.get h,
            LRec.EMPTY.on h, BitVec.ofNat 32 (LRec.M.get h), BitVec.ofNat 32 (LRec.L.get h), payload, a.half⟩] }) b cl a 0
      else afterAwait (s.setCluster cl { s.cluster cl with
        awaits := rowCome (s.cluster cl).awaits a (LRec.QROW.get h, LRec.HEAD.get h) }) b cl a 1 := by
  by_cases hst : LRec.STATUS.get h = 0
  · simp only [takeTriple, afterAwait, hst, if_true, ne_eq, not_true_eq_false, if_false]
    rfl
  · simp only [takeTriple, afterAwait, hst, if_false, ne_eq, not_false_eq_true, if_true, one_ne_zero]
    rfl

theorem mergedTriple_runs {b cl : Nat} {h : BitVec 256} {o : List W32} {a : Await} (hrun : running .arith s = true)
    (hb : layerHolder s = some b) (hmerged : LMrg.MERGED.on h = true) (hkind : LRec.KIND.on h = false)
    (ha : (s.cluster cl).awaits.find? (fun a => a.chip == LMrg.CHIP.get h && a.ingot == LMrg.INGOT.get h && a.tag == LRec.TAG.get h &&
      a.rows.contains (LRec.QROW.get h, LRec.HEAD.get h)) = some a) :
    Runs (.mergedTriple cl h o) s (fun t => t = takeTriple b cl a h o s) := by
  have hrow : exec (.mergedTriple cl h o) s = execMergedTriple cl h o s := rfl
  refine runs_of_running (hrow.trans (by rw [execMergedTriple])) hrun ?_
  simp only [hb, hmerged, hkind, ha, Bool.not_false, Bool.and_self, if_true]

theorem mergedOther_runs {b cl : Nat} {h : BitVec 256} {o : List W32} (hrun : running .arith s = true)
    (hb : layerHolder s = some b) (hmerged : LMrg.MERGED.on h = false) (hkind : LRec.KIND.on h = true) (hst : LRec.STATUS.get h ≠ 0) :
    Runs (.mergedTriple cl h o) s (fun t => bFaulted (t.bind b) = true) := by
  have hrow : exec (.mergedTriple cl h o) s = execMergedTriple cl h o s := rfl
  refine runs_of_running (hrow.trans (by rw [execMergedTriple])) hrun ?_
  simp only [hb, hmerged, hkind, Bool.false_and, Bool.false_eq_true, if_false, takeOther, hst, if_true]
  exact (abandonTurn_block (inFlight_of_layerHolder hb)).2

/-! ## Awaits that are given up (R170) -/

theorem mergeTimeout_runs {b cl i tag : Nat} {a : Await} (hrun : running .arith s = true) (hb : layerHolder s = some b)
    (ha : (s.cluster cl).awaits.find? (fun a => a.ingot == i && a.tag == tag && decide (a.closed + a.limit ≤ now s)) = some a) :
    Runs (.mergeTimeout cl i tag) s (fun t => t = afterAwait ((s.setCluster cl { s.cluster cl with
      awaits := (s.cluster cl).awaits.filter (· != a) }).countBind b BC.mergeTimeout ((a.rows.map (·.1)).eraseDups).length) b cl a 2) := by
  have hrow : exec (.mergeTimeout cl i tag) s = execMergeTimeout cl i tag s := rfl
  refine runs_of_running (hrow.trans (by rw [execMergeTimeout])) hrun ?_
  simp only [hb, ha]
  rfl

/-! ## Records of the merge tree (R160) -/

/-- The ingot after the merge tree has taken the granted pip's oldest record. -/
def recTaken (s : State) (i p ptr : Nat) : State :=
  s.updIngot i (fun g => { g with recs := takeRec p (s.ingot i).recs, mergePtr := ptr })

theorem recTaken_ingot (s : State) (i p ptr : Nat) :
    (recTaken s i p ptr).ingot i = { s.ingot i with recs := takeRec p (s.ingot i).recs, mergePtr := ptr } := ingot_updIngot_self ..

theorem resultRecord_runs {i p ptr chip c : Nat} {r : Rec} {P : State → Prop} (hrun : running .arith s = true) (hi : i < 16)
    (hgrant : grant (fun p => (s.ingot i).recs.any (fun x => x.1 == p)) (s.ingot i).mergePtr 384 = some (p, ptr))
    (hrec : (s.ingot i).recs.find? (fun x => x.1 == p) = some (p, chip, c, r))
    (hP : P (drained (if LRec.KIND.on r.hdr then weightRec (recTaken s i p ptr) i chip c r
      else attnRec (recTaken s i p ptr) i chip c r) i)) : Runs (.resultRecord i) s P := by
  refine runs_of_when (s := s) rfl hrun (by simp [ingotOk, hi]) ?_
  simp only [resultRecord, hgrant, hrec]
  exact hP

/-- What a weight product's record leaves before its issuer's cluster acts on it. -/
def weightSent (s : State) (i chip c : Nat) (r : Rec) : State :=
  (if LRec.STATUS.get r.hdr = 0 then s.updIngot i (fun g => { g with slotsUsed := g.slotsUsed - 1 }) else s).emit
    (.triple chip c r.hdr r.payload)

theorem weightRec_eq (s : State) (i chip c : Nat) (r : Rec) : weightRec s i chip c r =
    if chip ≠ ownChip (weightSent s i chip c r) then weightSent s i chip c r
    else releaseWeights (if LRec.STATUS.get r.hdr ≠ 0 then failLocal (weightSent s i chip c r) 1 0 else weightSent s i chip c r) c := rfl

theorem weightSent_persists (s : State) (i chip c : Nat) (r : Rec) : Persists s (weightSent s i chip c r) := by
  refine Persists.trans ?_ (lasts_emit ..).persists
  split
  · exact persists_updIngot s i fun _ => rfl
  · exact persists_refl s

theorem releaseWeights_persists (s : State) (cl : Nat) : Persists s (releaseWeights s cl) := by
  have hdisp : ∀ (s : State) (b chip ingot layer : Nat), Lasts s (releaseTo s b cl chip ingot layer) := fun s b chip ingot layer => by
    unfold releaseTo sendDisp
    dsimp only
    split
    · exact lasts_emit ..
    · exact lasts_step (sendParts_lasts ..) (lasts_emit ..)
  unfold releaseWeights
  split
  · exact persists_refl s
  · extract_lets ended
    refine Persists.trans ?_ (persists_foldl (fun s _ => (hdisp ..).persists) ended _)
    split
    · exact persists_refl s
    · exact persists_of_only (state_setCluster_only ..) (by decide)

theorem weightRec_persists (s : State) (i chip c : Nat) (r : Rec) : Persists (weightSent s i chip c r) (weightRec s i chip c r) := by
  rw [weightRec_eq]
  split
  · exact persists_refl _
  · refine Persists.trans ?_ (releaseWeights_persists ..)
    split
    · exact failLocal_persists ..
    · exact persists_refl _

/-- Is a descriptor that which an attention record belongs to, and still to be given it? -/
def takesRec (r : Rec) (d : GDesc) : Bool :=
  isDesc (LRec.PAGE_SEQ.get r.hdr) (LRec.QROW.get r.hdr) (LRec.HEAD.get r.hdr) d && d.status == 0 &&
    (LRec.STATUS.get r.hdr != 0 || (descRec d (LRec.HEAD.get r.hdr)).isNone)

/-- Is a group that which an attention record belongs to? -/
def groupTakes (chip c : Nat) (r : Rec) (g : MGroup) : Bool := groupOf chip c (LRec.TAG.get r.hdr) g && g.descs.any (takesRec r)

/-- A descriptor that has been given its record, or its failure. -/
def putRec (r : Rec) (d : GDesc) : GDesc :=
  if LRec.STATUS.get r.hdr = 0 then { d with recs := d.recs ++ [r] } else { d with status := LRec.STATUS.get r.hdr }

/-- A group that has been given a record. -/
def groupPut (r : Rec) (g : MGroup) : MGroup :=
  foldReady { g with descs := updDesc (takesRec r) (putRec r) g.descs }

/-- The ingot of an attention record's group, before what is complete is sent. -/
def recPut (s : State) (i chip c : Nat) (r : Rec) (g : MGroup) : State :=
  s.updIngot i (fun x => { x with
    groups := updFirst (groupTakes chip c r) (fun _ => groupPut r g) x.groups,
    slotsUsed := x.slotsUsed - (foldedCount (groupPut r g) - foldedCount g) })

theorem attnRec_of_none {i chip c : Nat} {r : Rec} (h : (s.ingot i).groups.find? (groupTakes chip c r) = none) :
    attnRec s i chip c r = (if LRec.STATUS.get r.hdr = 0 then s.updIngot i (fun g => { g with slotsUsed := g.slotsUsed - 1 })
      else s).countIngot i 0x0F0 1 := by
  have hfind : (s.ingot i).groups.find? (fun g => groupOf chip c (LRec.TAG.get r.hdr) g && g.descs.any (takesRec r)) = none := h
  unfold takesRec at hfind
  simp only [attnRec, hfind]

theorem attnRec_of_some {i chip c : Nat} {r : Rec} {g : MGroup} (h : (s.ingot i).groups.find? (groupTakes chip c r) = some g) :
    attnRec s i chip c r = sendGroups (if LRec.STATUS.get r.hdr = 0 && decide (heldCount (groupPut r g) > heldCount g)
      then (recPut s i chip c r g).countIngot i 0x0D0 1 else recPut s i chip c r g) i := by
  have hfind : (s.ingot i).groups.find? (fun g => groupOf chip c (LRec.TAG.get r.hdr) g && g.descs.any (takesRec r)) = some g := h
  unfold takesRec at hfind
  simp only [attnRec, hfind]
  rfl

theorem attnRec_persists (s : State) (i chip c : Nat) (r : Rec) : Persists s (attnRec s i chip c r) := by
  cases h : (s.ingot i).groups.find? (groupTakes chip c r) with
  | none =>
    rw [attnRec_of_none h]
    refine Persists.trans ?_ (persists_updIngot _ i fun _ => rfl)
    split
    · exact persists_updIngot s i fun _ => rfl
    · exact persists_refl s
  | some g =>
    have hput : Persists s (recPut s i chip c r g) := persists_updIngot s i fun _ => rfl
    rw [attnRec_of_some h]
    refine Persists.trans ?_ (sendGroups_persists _ i)
    split
    · exact hput.trans (persists_updIngot _ i fun _ => rfl)
    · exact hput

/-! ## The group of an attention record -/

/-- A descriptor but for what it has folded. -/
def unfolded (d : GDesc) : GDesc := { d with folded := [] }

theorem foldReady_descs (g : MGroup) : (foldReady g).descs.map unfolded = g.descs.map unfolded := by
  have hfold : ∀ (l acc : List GDesc) (f : List GDesc → GDesc → List Nat),
      ((l.foldl (fun acc d => acc ++ [{ d with folded := f acc d }]) acc)).map unfolded = acc.map unfolded ++ l.map unfolded := by
    intro l
    induction l with
    | nil => simp
    | cons d l ih =>
      intro acc f
      rw [List.foldl_cons, ih, List.map_append, List.append_assoc]
      rfl
  exact (hfold g.descs [] _).trans (List.nil_append _)

theorem length_updDesc (p : GDesc → Bool) (f : GDesc → GDesc) (l : List GDesc) : (updDesc p f l).length = l.length := by
  induction l with
  | nil => rfl
  | cons d l ih =>
    rw [updDesc]
    split
    · rfl
    · rw [List.length_cons, ih, List.length_cons]

theorem mem_updDesc {p : GDesc → Bool} {f : GDesc → GDesc} {l : List GDesc} (h : l.any p = true) :
    ∃ d ∈ l, p d = true ∧ f d ∈ updDesc p f l := by
  induction l with
  | nil => cases h
  | cons d l ih =>
    by_cases hd : p d = true
    · exact ⟨d, List.mem_cons_self, hd, by rw [updDesc, if_pos hd]; exact List.mem_cons_self⟩
    · rw [List.any_cons, Bool.or_eq_true] at h
      obtain ⟨e, he, hpe, hmem⟩ := ih (h.resolve_left hd)
      exact ⟨e, List.mem_cons_of_mem _ he, hpe, by rw [updDesc, if_neg hd]; exact List.mem_cons_of_mem _ hmem⟩

theorem mem_updFirst {p : MGroup → Bool} {f : MGroup → MGroup} {l : List MGroup} {g : MGroup} (h : l.find? p = some g) :
    f g ∈ updFirst p f l := by
  induction l with
  | nil => cases h
  | cons x l ih =>
    rw [updFirst]
    by_cases hx : p x = true
    · rw [List.find?_cons_of_pos hx] at h
      obtain rfl := Option.some.inj h
      rw [if_pos hx]
      exact List.mem_cons_self
    · rw [List.find?_cons_of_neg hx] at h
      rw [if_neg hx]
      exact List.mem_cons_of_mem _ (ih h)

theorem length_groupPut (r : Rec) (g : MGroup) : (groupPut r g).descs.length = g.descs.length := by
  have hlen := congrArg List.length (foldReady_descs { g with descs := updDesc (takesRec r) (putRec r) g.descs })
  rw [List.length_map, List.length_map] at hlen
  exact hlen.trans (length_updDesc ..)

/-- The descriptor of a record, and the record or the failure that it now has. -/
def Given (r : Rec) (d : GDesc) : Prop :=
  isDesc (LRec.PAGE_SEQ.get r.hdr) (LRec.QROW.get r.hdr) (LRec.HEAD.get r.hdr) d = true ∧
    if LRec.STATUS.get r.hdr = 0 then r ∈ d.recs else d.status = LRec.STATUS.get r.hdr

theorem given_unfolded (r : Rec) (d : GDesc) : Given r (unfolded d) ↔ Given r d := Iff.rfl

theorem given_putRec {r : Rec} {d : GDesc} (h : takesRec r d = true) : Given r (putRec r d) := by
  simp only [takesRec, Bool.and_eq_true] at h
  obtain ⟨⟨hdesc, -⟩, -⟩ := h
  unfold putRec Given
  split
  · exact ⟨hdesc, List.mem_append_right _ (List.mem_singleton_self r)⟩
  · exact ⟨hdesc, rfl⟩

theorem groupPut_given {r : Rec} {g : MGroup} (h : g.descs.any (takesRec r) = true) : ∃ d ∈ (groupPut r g).descs, Given r d := by
  obtain ⟨d, -, hd, hmem⟩ := mem_updDesc (f := putRec r) h
  have hold : unfolded (putRec r d) ∈ (groupPut r g).descs.map unfolded := by
    rw [groupPut, foldReady_descs]
    exact List.mem_map_of_mem hmem
  obtain ⟨e, he, heq⟩ := List.mem_map.mp hold
  refine ⟨e, he, (given_unfolded r e).mp ?_⟩
  rw [heq]
  exact given_putRec hd

/-- A group without its CLOSE has no row to send and is not complete. -/
theorem sentGroup_of_open {g : MGroup} (h : g.close = none) : sentGroup g = g ∧ groupDone g = false := by
  have hclosed : groupClosed g = false := by simp [groupClosed, h]
  simp [sentGroup, readyRows, groupDone, hclosed]

/-- The ingot's groups and intake after an attention record has joined its group. -/
theorem attnRec_groups {i chip c : Nat} {r : Rec} {g : MGroup} (h : (s.ingot i).groups.find? (groupTakes chip c r) = some g) :
    groupsOf ((attnRec s i chip c r).ingot i) = (((updFirst (groupTakes chip c r) (fun _ => groupPut r g) (s.ingot i).groups).map
      sentGroup).filter (fun g => !groupDone g), (s.ingot i).intake) := by
  rw [attnRec_of_some h, sendGroups_groups]
  split
  · rw [State.countIngot, ingot_updIngot_self, recPut, ingot_updIngot_self]
  · rw [recPut, ingot_updIngot_self]

theorem attnRec_joins {i chip c : Nat} {r : Rec} {g : MGroup} (h : (s.ingot i).groups.find? (groupTakes chip c r) = some g)
    (hopen : g.close = none) : ∃ x, x ∈ ((attnRec s i chip c r).ingot i).groups ∧ groupOf chip c (LRec.TAG.get r.hdr) x = true ∧
      x.descs.length = g.descs.length ∧ ∃ d, d ∈ x.descs ∧ Given r d := by
  have htakes : groupTakes chip c r g = true := List.find?_some h
  simp only [groupTakes, Bool.and_eq_true] at htakes
  obtain ⟨hgroup, hany⟩ := htakes
  have hput : (groupPut r g).close = none := hopen
  obtain ⟨hsent, hdone⟩ := sentGroup_of_open hput
  refine ⟨groupPut r g, ?_, hgroup, length_groupPut r g, groupPut_given hany⟩
  rw [show ((attnRec s i chip c r).ingot i).groups = _ from congrArg Prod.fst (attnRec_groups h)]
  refine List.mem_filter.mpr ⟨?_, by rw [hdone]; rfl⟩
  have hmem := List.mem_map_of_mem (f := sentGroup) (mem_updFirst (f := fun _ => groupPut r g) h)
  rwa [hsent] at hmem

/-! ## Slots -/

theorem weightRec_slots {i chip c : Nat} {r : Rec} (hst : LRec.STATUS.get r.hdr = 0) :
    (weightRec s i chip c r).ingot i = { s.ingot i with slotsUsed := (s.ingot i).slotsUsed - 1 } := by
  have hsent : (weightSent s i chip c r).ingot i = { s.ingot i with slotsUsed := (s.ingot i).slotsUsed - 1 } := by
    rw [weightSent, if_pos hst, ingot_of_ingots ((state_emit_only ..).same .ingots (by decide)), ingot_updIngot_self]
  rw [weightRec_eq]
  split
  · exact hsent
  · rw [if_neg (by simp [hst]), ingot_of_ingots ((releaseWeights_released _ c).only.same .ingots (by decide))]
    exact hsent

theorem attnRec_dropped {i chip c : Nat} {r : Rec} (h : (s.ingot i).groups.find? (groupTakes chip c r) = none) :
    groupsOf ((attnRec s i chip c r).ingot i) = groupsOf (s.ingot i) ∧
    ((attnRec s i chip c r).ingot i).slotsUsed = (s.ingot i).slotsUsed - if LRec.STATUS.get r.hdr = 0 then 1 else 0 := by
  rw [attnRec_of_none h, State.countIngot, ingot_updIngot_self]
  split
  · rw [ingot_updIngot_self]
    exact ⟨rfl, rfl⟩
  · exact ⟨rfl, rfl⟩

/-! ## RESULT_RECORD -/

/-- What RESULT_RECORD's obligation says of the record that the merge tree's grant takes. -/
theorem resultRecord_gives {i chip c p ptr : Nat} {r : Rec} {g : MGroup} (hrun : running .arith s = true) (hi : i < 16)
    (hgrant : grant (fun p => (s.ingot i).recs.any (fun x => x.1 == p)) (s.ingot i).mergePtr 384 = some (p, ptr))
    (hrec : (s.ingot i).recs.find? (fun x => x.1 == p) = some (p, chip, c, r)) :
    Runs (.resultRecord i) s (fun t => (t.ingot i).recs = takeRec p (s.ingot i).recs ∧ (t.ingot i).mergePtr = ptr ∧
      (LRec.KIND.on r.hdr = true → .triple chip c r.hdr r.payload ∈ t.out)) ∧
    (LRec.KIND.on r.hdr = true → LRec.STATUS.get r.hdr = 0 → (s.ingot i).intake = [] → Runs (.resultRecord i) s (fun t =>
      (t.ingot i).slotsUsed = (s.ingot i).slotsUsed - 1)) ∧
    (∀ b, LRec.KIND.on r.hdr = true → LRec.STATUS.get r.hdr ≠ 0 → chip = ownChip s → layerHolder s = some b →
      Runs (.resultRecord i) s (fun t => bFaulted (t.bind b) = true)) ∧
    (LRec.KIND.on r.hdr = false → (s.ingot i).intake = [] → (s.ingot i).groups.find? (groupTakes chip c r) = some g →
      g.close = none → Runs (.resultRecord i) s (fun t => ∃ x, x ∈ (t.ingot i).groups ∧ groupOf chip c (LRec.TAG.get r.hdr) x = true ∧
        x.descs.length = g.descs.length ∧ ∃ d, d ∈ x.descs ∧ Given r d)) ∧
    (LRec.KIND.on r.hdr = false → (s.ingot i).intake = [] → (s.ingot i).groups.find? (groupTakes chip c r) = none →
      Runs (.resultRecord i) s (fun t => (t.ingot i).groups = (s.ingot i).groups ∧
        (t.ingot i).slotsUsed = (s.ingot i).slotsUsed - (if LRec.STATUS.get r.hdr = 0 then 1 else 0))) := by
  have htaken := recTaken_ingot s i p ptr
  have hintake : ((recTaken s i p ptr).ingot i).intake = (s.ingot i).intake := by rw [htaken]
  have hgroups : ((recTaken s i p ptr).ingot i).groups = (s.ingot i).groups := by rw [htaken]
  have hslots : ((recTaken s i p ptr).ingot i).slotsUsed = (s.ingot i).slotsUsed := by rw [htaken]
  refine ⟨resultRecord_runs hrun hi hgrant hrec ?_, fun hkind hst hempty => resultRecord_runs hrun hi hgrant hrec ?_,
    fun b hkind hst hchip hb => resultRecord_runs hrun hi hgrant hrec ?_,
    fun hkind hempty hmine hopen => resultRecord_runs hrun hi hgrant hrec ?_,
    fun hkind hempty hmine => resultRecord_runs hrun hi hgrant hrec ?_⟩
  · split
    · have hlasts := (weightRec_persists (recTaken s i p ptr) i chip c r).trans (drained_persists _ i)
      have hall := (weightSent_persists (recTaken s i p ptr) i chip c r).trans hlasts
      refine ⟨by rw [hall.recs, htaken], by rw [hall.mergePtr, htaken], fun _ => hlasts.sent List.mem_cons_self⟩
    · next hkind =>
      have hall := (attnRec_persists (recTaken s i p ptr) i chip c r).trans (drained_persists _ i)
      exact ⟨by rw [hall.recs, htaken], by rw [hall.mergePtr, htaken], fun h => absurd h hkind⟩
  · have hslot := weightRec_slots (s := recTaken s i p ptr) (i := i) (chip := chip) (c := c) hst
    rw [if_pos hkind, drained_of_empty (by rw [hslot]; exact hintake.trans hempty), hslot]
    exact congrArg (· - 1) hslots
  · have hchip' : chip = ownChip (weightSent (recTaken s i p ptr) i chip c r) := by
      rw [hchip, weightSent, if_neg hst]
      rfl
    have hb' : layerHolder (weightSent (recTaken s i p ptr) i chip c r) = some b := by
      rw [weightSent, if_neg hst]
      exact hb
    rw [if_pos hkind, weightRec_eq, if_neg (not_not.mpr hchip'), if_pos hst]
    refine (drained_persists _ i).faulted b ((releaseWeights_persists _ c).faulted b ?_)
    rw [failLocal, hb']
    exact (abandonTurn_block (inFlight_of_layerHolder hb')).2
  · rw [← hgroups] at hmine
    have hleft : ((attnRec (recTaken s i p ptr) i chip c r).ingot i).intake = [] :=
      (congrArg Prod.snd (attnRec_groups hmine)).trans (hintake.trans hempty)
    rw [if_neg (by simp [hkind]), drained_of_empty hleft]
    exact attnRec_joins hmine hopen
  · rw [← hgroups] at hmine
    obtain ⟨hsame, hslot⟩ := attnRec_dropped hmine
    have hleft : ((attnRec (recTaken s i p ptr) i chip c r).ingot i).intake = [] :=
      (congrArg Prod.snd hsame).trans (hintake.trans hempty)
    rw [if_neg (by simp [hkind]), drained_of_empty hleft]
    exact ⟨(congrArg Prod.fst hsame).trans hgroups, hslot.trans (by rw [hslots])⟩

/-! ## MERGED_TRIPLE and MERGE_TIMEOUT -/

theorem mergedTriple_gives {b cl : Nat} {h : BitVec 256} {o : List W32} {a : Await} {e : TEnt} (hrun : running .arith s = true)
    (hb : layerHolder s = some b) (hmerged : LMrg.MERGED.on h = true) (hkind : LRec.KIND.on h = false)
    (ha : (s.cluster cl).awaits.find? (fun a => a.chip == LMrg.CHIP.get h && a.ingot == LMrg.INGOT.get h && a.tag == LRec.TAG.get h &&
      a.rows.contains (LRec.QROW.get h, LRec.HEAD.get h)) = some a) :
    Runs (.mergedTriple cl h o) s (fun t =>
      (t.cluster cl).awaits = rowCome (s.cluster cl).awaits a (LRec.QROW.get h, LRec.HEAD.get h) ∧
      (LRec.STATUS.get h = 0 → (t.cluster cl).inbox = (s.cluster cl).inbox ++ [⟨a.layer, a.entry, a.group, LRec.QROW.get h,
        LRec.HEAD.get h, LMrg.FIRST_SEQ.get h, LRec.EMPTY.on h, BitVec.ofNat 32 (LRec.M.get h), BitVec.ofNat 32 (LRec.L.get h), o,
        a.half⟩]) ∧
      (LRec.STATUS.get h ≠ 0 → (t.cluster cl).inbox = (s.cluster cl).inbox ∧ (turnEnt s b a.entry = some e → e.fault = 0 →
        ∃ f, turnEnt t b a.entry = some f ∧ f.fault = 1)) ∧
      ∀ k, k ≠ cl → t.cluster k = s.cluster k) := by
  obtain ⟨t, ht, rfl⟩ := mergedTriple_runs (o := o) hrun hb hmerged hkind ha
  refine ⟨_, ht, ?_⟩
  rw [takeTriple_eq]
  split
  · next hst =>
    obtain ⟨hawaits, hinbox, hothers⟩ := afterAwait_cluster (s.setCluster cl { s.cluster cl with
      awaits := rowCome (s.cluster cl).awaits a (LRec.QROW.get h, LRec.HEAD.get h),
      inbox := (s.cluster cl).inbox ++ [⟨a.layer, a.entry, a.group, LRec.QROW.get h, LRec.HEAD.get h, LMrg.FIRST_SEQ.get h,
        LRec.EMPTY.on h, BitVec.ofNat 32 (LRec.M.get h), BitVec.ofNat 32 (LRec.L.get h), o, a.half⟩] }) b cl a 0
    rw [setCluster_cluster] at hawaits hinbox
    exact ⟨hawaits, fun _ => hinbox, fun hne => absurd hst hne,
      fun k hk => (hothers k hk).trans (setCluster_cluster_other _ _ _ _ hk)⟩
  · next hst =>
    obtain ⟨hawaits, hinbox, hothers⟩ := afterAwait_cluster (s.setCluster cl { s.cluster cl with
      awaits := rowCome (s.cluster cl).awaits a (LRec.QROW.get h, LRec.HEAD.get h) }) b cl a 1
    rw [setCluster_cluster] at hawaits hinbox
    exact ⟨hawaits, fun heq => absurd heq hst, fun _ => ⟨hinbox, fun he hfault => afterAwait_marks he hfault (by decide)⟩,
      fun k hk => (hothers k hk).trans (setCluster_cluster_other _ _ _ _ hk)⟩

theorem mergeTimeout_gives {b cl i tag : Nat} {a : Await} {e : TEnt} (hrun : running .arith s = true) (hb : layerHolder s = some b)
    (ha : (s.cluster cl).awaits.find? (fun a => a.ingot == i && a.tag == tag && decide (a.closed + a.limit ≤ now s)) = some a) :
    Runs (.mergeTimeout cl i tag) s (fun t => (t.cluster cl).awaits = (s.cluster cl).awaits.filter (· != a) ∧
      Tab.get (t.bind b).ctr 0#64 BC.mergeTimeout = Tab.get (s.bind b).ctr 0#64 BC.mergeTimeout +
        BitVec.ofNat 64 ((a.rows.map (·.1)).eraseDups).length ∧
      (turnEnt s b a.entry = some e → e.fault = 0 → ∃ f, turnEnt t b a.entry = some f ∧ f.fault = 2) ∧
      ∀ k, k ≠ cl → t.cluster k = s.cluster k) := by
  obtain ⟨t, ht, rfl⟩ := mergeTimeout_runs hrun hb ha
  refine ⟨_, ht, ?_⟩
  have hclusters : ∀ (u : State) (k n j : Nat), (u.countBind b k n).cluster j = u.cluster j := fun _ _ _ _ => rfl
  obtain ⟨hawaits, -, hothers⟩ := afterAwait_cluster ((s.setCluster cl { s.cluster cl with
    awaits := (s.cluster cl).awaits.filter (· != a) }).countBind b BC.mergeTimeout ((a.rows.map (·.1)).eraseDups).length) b cl a 2
  rw [hclusters, setCluster_cluster] at hawaits
  refine ⟨hawaits, ?_, fun he hfault => afterAwait_marks ?_ hfault (by decide),
    fun k hk => (hothers k hk).trans ((hclusters ..).trans (setCluster_cluster_other _ _ _ _ hk))⟩
  · rw [afterAwait_ctr (by decide) (by decide), State.countBind, State.updBind, setBind_bind, ctrAdd, get_set_self]
    rfl
  · rw [turnEnt, State.countBind, State.updBind, setBind_bind]
    exact he

/-- Settles O37: a record leaves the merge tree's queue for its issuer or its group, and an await that has ended leaves its cluster's
list; what follows in the cluster and at the intake does not touch them. -/
theorem recordsReachTheMergeTree : Obligations.RecordsReachTheMergeTree := by
  intro s i cl chip c tag b p ptr r g e h o a hrun own fits mine
  constructor
  · intro hi hgrant hrec
    obtain ⟨htaken, hweight, hfailed, hjoins, hdropped⟩ := resultRecord_gives (g := g) hrun hi hgrant hrec
    exact ⟨htaken, hweight, fun hkind hst hchip hb => hfailed b hkind hst hchip hb, hjoins, hdropped⟩
  · intro hb x row head marked others
    exact ⟨fun hmerged hkind ha => mergedTriple_gives hrun hb hmerged hkind ha,
      fun hmerged hkind hst => mergedOther_runs hrun hb hmerged hkind hst, fun ha => mergeTimeout_gives hrun hb ha⟩

end Sys2Proof.Merging
end

section
/-! What three statements leave out: an event that takes effect within the command itself. A commit point applies the page-table
changes that wait for it before it decides on its entries' faults (R113, R138, R471); a page table is written only where the seat's
windows allow it (R23, R409); and a write into a page performs the deferred writes of the page first (R69), wherever they lie. Each
refutation evaluates the model on one small state. -/

namespace Sys2Proof.Overtaken

open Sys2Proof Sys2Proof.Machine Sys2Proof.Laws

/-- A device at READY. -/
def ready : State := { State.reset with
  pins := { Pins.reset with rstLow := false }
  boot := { Boot.reset with status := LBootSt.STAGE.set 0#64 9 } }

/-- The state that a command leaves. -/
def after (i : Instr) (s : State) : State := match exec i s with
  | .next t => t
  | _ => s

theorem of_runs {i : Instr} {s : State} {P : State → Prop} (h : Runs i s P) : P (after i s) := by
  obtain ⟨t, hexec, hp⟩ := h
  rw [after, hexec]
  exact hp

/-! ## A commit point that meets a bad run in a waiting page-table change -/

/-- The entry of request 0 that has drawn token 0. -/
def drawn : TEnt := ⟨0#128, 0#512, [], [], [], [], [some (some 0)], 0, false, 0#512, 0, []⟩

/-- Binding 0 in Commit, its run 0 read with a bad record. -/
def committing : Bind := { Bind.reset with
  brec := setAll 0#8192 [(LBindRec.LAYERS, 1), (LBindRec.G, 1), (⟨576, 32⟩, 4)]
  blk := LTurnBlk.PHASE.set 0#192 5
  turn := [drawn]
  badRuns := [(0, true)] }

/-- Request 0 waits for the commit point to name that run in column 0 of its table. -/
def naming : State := { ready with
  binds := [(0, committing)]
  reqs := [(0, setAll 0#1024 [(LEnt.STATE, 2)])]
  reqx := [(0, { State.reset.rx 0 with tailRun := true, ptDue := [(0, ptMake 0 0 1 0)] })] }

theorem naming_commits : running .arith naming = true ∧ commitReady naming 0 = true ∧ (naming.bind 0).waitBarrier = false ∧
    sliceBinding naming 0 = false :=
  ⟨by decide +kernel, by decide +kernel, by decide +kernel, by decide +kernel⟩

theorem naming_entry : ((naming.bind 0).turn.map entSlot).Nodup ∧ drawn ∈ (naming.bind 0).turn ∧
    (naming.rx (entSlot drawn)).cancelDue = 0 ∧ dueFault naming (entSlot drawn) = 0 :=
  ⟨by decide +kernel, by decide +kernel, by decide +kernel, by decide +kernel⟩

/-- The change that applies makes the entry's request fault, and its row is dropped. -/
theorem naming_drops : LEnt.LEN.get ((after (.commitSection 0) naming).req (entSlot drawn)) = 0 := by decide +kernel

/-- Refutes O45: an entry without a fault, whose request's waiting page-table change names a run with a bad record, is dropped as
the change is applied, and LEN stays. -/
theorem not_sampledRowsAreDrawnAndCommitted : ¬Obligations.SampledRowsAreDrawnAndCommitted := by
  intro h
  obtain ⟨hrun, hready, hwait, hslice⟩ := naming_commits
  obtain ⟨hnodup, hmem, hcancel, hdue⟩ := naming_entry
  obtain ⟨-, hcommit, -⟩ := h naming 0 0 0 0 0 0 0 0 drawn []
  obtain ⟨-, -, -, -, hent⟩ := of_runs ((hcommit hrun hready hwait).1 hslice)
  obtain ⟨hlen, -⟩ := hent hnodup hmem rfl rfl rfl rfl hcancel hdue
  rw [naming_drops] at hlen
  exact absurd hlen (by decide)

/-! ## A page table outside the seat's windows -/

/-- A tail without lanes. -/
def tail : Copy := ⟨0, 0, .set 0, .run 0, 0, [], [], false, 0⟩

/-- Request 0 of seat 1, which has no window, writes its tail; its page table lies in the companion's memory. -/
def windowless : State := { ready with
  reqs := [(0, setAll 0#1024 [(LEnt.STATE, 4), (LEnt.SEAT, 1), (LEnt.PTBASE, 2 ^ 52)])]
  reqx := [(0, { State.reset.rx 0 with tail := .writing 0 0 0 })]
  binds := [(0, { Bind.reset with tails := [tail] })] }

/-- The key of the tail's entry of the page table. -/
def tailEntry : Nat := ptKey windowless (windowless.req 0) + 64 + 8 * (LEnt.LEN.get (windowless.req 0) / gTpp (windowless.bind 0).brec)

theorem windowless_tail : running .banker windowless = true ∧ rBind windowless 0 = 0 ∧ gLanes (windowless.bind 0).brec = 0 ∧
    rActive windowless 0 = true ∧ keyOf windowless 0 ≤ hmBase :=
  ⟨by decide +kernel, by decide +kernel, by decide +kernel, by decide +kernel, by decide +kernel⟩

theorem windowless_table : 2 ^ 52 ≤ ptKey windowless (windowless.req 0) ∧ holderOf windowless tailEntry 8 = none ∧
    (windowless.mir (rSeat windowless 0)).hold = false ∧
    addrStatus windowless (LEnt.PTBASE.get (windowless.req 0) + 64 + 8 * (LEnt.LEN.get (windowless.req 0) /
      gTpp (windowless.bind 0).brec)) 8 = St.ok :=
  ⟨by decide +kernel, by decide +kernel, by decide +kernel, by decide +kernel⟩

/-- The entry is not written. -/
theorem windowless_unwritten : readWord (after (.pauseTailComplete 0) windowless) tailEntry = 0#64 := by decide +kernel

theorem noDefer_nothing (s : State) (k : Nat) : noDefer s k (0 * 16384) = true := by
  rw [Nat.zero_mul, noDefer, pagesOf, if_neg (by simp)]
  rfl

/-- Refutes O46: the last clause of PAUSE_TAIL_COMPLETE asks that the entry's address exist, and not that the seat's windows hold it. -/
theorem not_kvCopiesComplete : ¬Obligations.KvCopiesComplete := by
  intro h
  obtain ⟨hrun, hbind, hlanes, hactive, hkey⟩ := windowless_tail
  obtain ⟨htable, hheld, hhold, haddr⟩ := windowless_table
  obtain ⟨-, -, htail, -⟩ := h windowless 0 0 0 0 0 0 tail hrun
  have hnone : ∀ j, ¬j < gLanes (windowless.bind (rBind windowless 0)).brec := fun j hj => by
    rw [hbind, hlanes] at hj
    exact absurd hj (Nat.not_lt_zero j)
  have hstart := htail 0 0 0 rfl (by rw [hbind]; rfl) rfl rfl rfl rfl (by rw [hbind, hlanes, Nat.zero_mul]; exact hkey)
    (fun j hj => absurd hj (hnone j)) hactive
  have hlist : (List.range (gLanes (windowless.bind (rBind windowless 0)).brec)).filter
      (fun j => copyStatus windowless (rBind windowless 0) j tail != St.ok) = [] := by rw [hbind, hlanes]; rfl
  obtain ⟨-, -, -, -, hmem⟩ := of_runs (hstart.1 hlist)
  have hword := (hmem rfl htable (by rw [hbind, hlanes]; exact noDefer_nothing _ _) (by rw [hbind, hlanes]; rfl)
    (by rw [hbind]; exact hheld) hhold (by rw [hbind]; exact haddr)).2
  rw [hbind] at hword
  exact absurd (windowless_unwritten.symm.trans hword) (by decide +kernel)

/-! ## A deferred write that a move's own arrival bits perform -/

/-- The assembly area of two reductions, of one partial: the first tile of T0. -/
def area : Nat := sramBase
/-- The arrival word of the first. -/
def arrival : Nat := sramBase + 0x8000
def first : Split := ⟨area, arrival, 0, 1, 0⟩
/-- The second one's arrival word is the first of T2. -/
def second : Split := ⟨area, 0, 0, 1, 0⟩

/-- A turn of binding 0 in Layers; a write of zeros to the first arrival word stands ready in the buffer of ingot 0. -/
def reducing : State := { ready with
  binds := [(0, { Bind.reset with blk := LTurnBlk.PHASE.set 0#192 3 })]
  slot := { State.reset.slot with holder := some 0 }
  cores := [(0, { State.reset.core 0 with split := some first }), (1, { State.reset.core 1 with split := some second })]
  ingots := [(0, { State.reset.ingot 0 with defer := [⟨0, arrival, List.replicate 8 0#8, true⟩] })] }

/-- The move of core 2 that brings the tile. -/
def source : W64 := BitVec.ofNat 64 (sramBase + 0x10000)
def target : W64 := BitVec.ofNat 64 area
def move : Instr := .tileMove 2 source target 1 false

theorem reducing_moves : (running .arith reducing = true ∧ layerHolder reducing = some 0) ∧
    (moveWaits reducing 0 2 source target 1 false = false ∧ moverWaits reducing (keyOf reducing target.toNat) 16384 = false) ∧
    tileMoveStatus reducing (reducing.bind 0).seat source target 16384 = St.ok ∧
    uncorrSeen reducing (keyOf reducing source.toNat) 16384 = false ∧
    moverStatus reducing (keyOf reducing source.toNat) (keyOf reducing target.toNat) 16384 = St.ok :=
  ⟨⟨by decide +kernel, by decide +kernel⟩, ⟨by decide +kernel, by decide +kernel⟩, by decide +kernel, by decide +kernel, by decide +kernel⟩

theorem reducing_here : (isRemote reducing source.toNat = false ∧ isRemote reducing target.toNat = false) ∧
    (noDefer reducing (keyOf reducing source.toNat) 16384 = true ∧ noDefer reducing (keyOf reducing target.toNat) 16384 = true) ∧
    holderOf reducing (keyOf reducing target.toNat) 16384 = none ∧ keyOf reducing target.toNat = area :=
  ⟨⟨by decide +kernel, by decide +kernel⟩, ⟨by decide +kernel, by decide +kernel⟩, by decide +kernel, by decide +kernel⟩

theorem reducing_arrival : pageStatus reducing arrival 8 = St.ok ∧ noDefer reducing arrival 8 = true ∧ holderOf reducing arrival 8 = none :=
  ⟨by decide +kernel, by decide +kernel, by decide +kernel⟩

/-- The second arrival bit's page is free, so that its deferred write is performed: the first bit is 0 again. -/
theorem reducing_cleared : arrived (after move reducing) arrival 0 = false := by decide +kernel

/-- Refutes O39: a move that brings the partial of two reductions sets the arrival bit of the first and then, writing that of the
second, performs a deferred write over the first. -/
theorem not_tileMovesAndSpillsArrive : ¬Obligations.TileMovesAndSpillsArrive := by
  intro h
  obtain ⟨⟨hrun, hlayer⟩, ⟨hwaits, hroom⟩, hstatus, huncorr, hmover⟩ := reducing_moves
  obtain ⟨⟨hsrc, hdst⟩, ⟨hfrom, hto⟩, hholder, hkey⟩ := reducing_here
  obtain ⟨hpage, hdefer, hheld⟩ := reducing_arrival
  obtain ⟨hmove, -⟩ := h reducing 2 0 1 source target false 0#256 ⟨0, false, []⟩ [] none [] hrun (by decide) hlayer
  obtain ⟨-, -, hbit⟩ := of_runs ((hmove (by decide) hwaits hroom hstatus huncorr hmover).1 hsrc hdst hfrom hto hholder)
  have harrived := hbit 0 first 0 rfl rfl hpage (by decide) (by rw [hkey]; decide) (by rw [hkey]; decide) (by decide) hdefer hheld
  rw [show first.arrival = arrival from rfl] at harrived
  exact absurd (reducing_cleared.symm.trans harrived) (by decide)

end Sys2Proof.Overtaken
end

section
/-! Mirror pairs: comparison, synchronisation, journals, seals and their timeouts (R375 to R382). -/

namespace Sys2Proof.Mirrors

open Sys2Proof Sys2Proof.Machine Sys2Proof.Laws Sys2Proof.Pins Sys2Proof.Lasting Sys2Proof.Merging Sys2Proof.MailboxService

variable {s t u : State}

/-! ## Copied memory -/

/-- What a key reads after entries, whose keys rise from `src`, were stored at their distance from `dst`. -/
theorem get_shifted {l : Tab Byte} (src dst : Nat) (hwf : Tab.wf l 0#8 = true) (hlow : ∀ e ∈ l, src ≤ e.1) (i : Nat) (m : Tab Byte) :
    Tab.get ((l.map (fun e => (e.1 - src + dst, e.2))).foldl (fun t e => Tab.set t 0#8 e.1 e.2) m) 0#8 (dst + i) =
      if Tab.get l 0#8 (src + i) = 0#8 then Tab.get m 0#8 (dst + i) else Tab.get l 0#8 (src + i) := by
  induction l generalizing m with
  | nil => simp [Tab.get]
  | cons e l ih =>
    obtain ⟨k, v⟩ := e
    obtain ⟨hv, hrise, htail⟩ := wf_cons.mp hwf
    have hk : src ≤ k := hlow (k, v) List.mem_cons_self
    rw [List.map_cons, List.foldl_cons, ih htail fun e he => hlow e (List.mem_cons_of_mem _ he)]
    by_cases hhit : k = src + i
    · have hrest : Tab.get l 0#8 (src + i) = 0#8 := by
        rcases Intake.get_eq_or_mem l 0#8 (src + i) with h | h
        · exact h
        · exact absurd (hrise _ h) (by simp [hhit])
      have hplace : k - src + dst = dst + i := by omega
      rw [hrest, hplace, get_set_self]
      simp [Tab.get, hhit, hv]
    · have hplace : dst + i ≠ k - src + dst := by omega
      rw [get_set_other hplace]
      simp [Tab.get, hhit]

theorem get_shifted_below {l : Tab Byte} (src dst : Nat) {j : Nat} (h : j < dst) (m : Tab Byte) :
    Tab.get ((l.map (fun e => (e.1 - src + dst, e.2))).foldl (fun t e => Tab.set t 0#8 e.1 e.2) m) 0#8 j = Tab.get m 0#8 j := by
  induction l generalizing m with
  | nil => rfl
  | cons e l ih => rw [List.map_cons, List.foldl_cons, ih, get_set_other (by omega)]

/-- A copied range holds what its source held; every other key is as it was. -/
theorem get_memCopy {m : Tab Byte} (hwf : Tab.wf m 0#8 = true) (src dst n j : Nat) :
    Tab.get (memCopy m src dst n) 0#8 j =
      if dst ≤ j ∧ j < dst + n then Tab.get m 0#8 (src + (j - dst)) else Tab.get m 0#8 j := by
  have hkept := Boot.get_filter_fst (fun k => !(decide (dst ≤ k) && decide (k < dst + n))) m 0#8 j
  by_cases hlow : j < dst
  · rw [memCopy, get_shifted_below src dst hlow, hkept, if_pos (by simp; omega), if_neg (by omega)]
  · obtain ⟨i, rfl⟩ : ∃ i, j = dst + i := ⟨j - dst, by omega⟩
    have hsrc := Boot.get_filter_fst (fun k => decide (src ≤ k) && decide (k < src + n)) m 0#8 (src + i)
    rw [memCopy, get_shifted src dst (wf_filter _ hwf) (fun e he => by simp at he; omega), hsrc, hkept]
    by_cases hin : i < n
    · have hhere : dst ≤ dst + i ∧ dst + i < dst + n := by omega
      have hfrom : (decide (src ≤ src + i) && decide (src + i < src + n)) = true := by simp; omega
      simp only [hhere, hfrom, if_true, Nat.add_sub_cancel_left]
      split
      · next h => simp [h]
      · rfl
    · simp [hin]

/-- A copy that nothing holds back is made at once. -/
theorem copyMem_copies {src dst n : Nat} (hwf : MemOk s) (hfree : holderOf s dst n = none) :
    readBytes (copyMem s src dst n) dst n = readBytes s src n ∧ KeepsOutside dst n s (copyMem s src dst n) := by
  have hmem : (copyMem s src dst n).mem = memCopy s.mem src dst n := by
    rw [copyMem, hfree]
    exact Stores.markMoves_mem ..
  have hbyte : ∀ j, memByte (copyMem s src dst n) j = if dst ≤ j ∧ j < dst + n then memByte s (src + (j - dst)) else memByte s j :=
    fun j => by rw [memByte, hmem, get_memCopy hwf]; rfl
  refine ⟨List.map_congr_left fun i hi => ?_, fun j hj => ?_⟩
  · rw [hbyte, if_pos (by have := List.mem_range.mp hi; omega), Nat.add_sub_cancel_left]
  · rw [hbyte, if_neg (by omega)]

/-! ## Messages of a pair (R328) -/

theorem message_quiet (s : State) {cls : Nat} (dest seat bytes : Nat) (hcls : cls < 3) :
    OnlyChanges [.cores, .fab, .out, .free] s (message s dest cls seat bytes) := by
  refine only_foldl (only_refl _ s) fun y i hy => ?_
  refine only_step (set_free_only ..) (by decide) (only_step (issueAs_quiet y true 1 _ _ _ _ true 0 0 _ hcls ?_) (by decide) hy)
  simp [FieldsApart, LPkt.CLASS, LPkt.TYPE, LPkt.PLEN]

theorem mir_of_mirrors (h : t.mirrors = s.mirrors) (n : Nat) : t.mir n = s.mir n := by rw [State.mir, h, State.mir]

/-- A message of a pair counts its bytes and changes nothing else but the fabric and the cores' lost tiles. -/
theorem mirrorMessage_quiet (s : State) (n bytes : Nat) :
    OnlyChanges [.cores, .fab, .mirrors, .out, .free] s (mirrorMessage s n bytes) :=
  only_step (message_quiet _ _ _ _ (by decide)) (by decide) (only_step (state_setMir_only ..) (by decide) (only_refl _ s))

/-- What a pair keeps when bytes are counted. -/
def uncounted (x : Mirror) : Mirror := { x with ctr := [] }

theorem mirrorMessage_mir (s : State) (n bytes k : Nat) : uncounted ((mirrorMessage s n bytes).mir k) = uncounted (s.mir k) ∧
    Tab.get ((mirrorMessage s n bytes).mir k).ctr 0#64 0x010 = Tab.get (s.mir k).ctr 0#64 0x010 := by
  unfold mirrorMessage
  extract_lets u
  rw [mir_of_mirrors ((message_quiet _ _ _ _ (by decide)).same .mirrors (by decide))]
  by_cases h : k = n
  · subst h
    rw [setMir_mir]
    exact ⟨rfl, get_set_other (by decide)⟩
  · rw [setMir_mir_other _ _ _ _ h]
    exact ⟨rfl, rfl⟩

theorem mirrorMessage_out {o : Out} (n bytes : Nat) (h : o ∈ s.out) : o ∈ (mirrorMessage s n bytes).out :=
  (message_lasts _ _ _ _ _).sent h

theorem tellMirror_quiet (s : State) (n code arg : Nat) (w : BitVec 256) :
    OnlyChanges [.cores, .fab, .mirrors, .out, .free] s (tellMirror s n code arg w) :=
  only_step (mirrorMessage_quiet ..) (by decide) (only_step (state_emit_only ..) (by decide) (only_refl _ s))

theorem tellMirror_mir (s : State) (n code arg : Nat) (w : BitVec 256) (k : Nat) :
    uncounted ((tellMirror s n code arg w).mir k) = uncounted (s.mir k) ∧
      Tab.get ((tellMirror s n code arg w).mir k).ctr 0#64 0x010 = Tab.get (s.mir k).ctr 0#64 0x010 := mirrorMessage_mir ..

theorem tellMirror_out (s : State) (n code arg : Nat) (w : BitVec 256) :
    .mirror (LMirSt.PEER.get (s.mir n).state) n code arg w ∈ (tellMirror s n code arg w).out :=
  mirrorMessage_out n 64 List.mem_cons_self

theorem state_of_uncounted {x y : Mirror} (h : uncounted x = uncounted y) : x.state = y.state := congrArg (fun z => z.state) h
theorem journal_of_uncounted {x y : Mirror} (h : uncounted x = uncounted y) : x.journal = y.journal := congrArg (fun z => z.journal) h
theorem sealed_of_uncounted {x y : Mirror} (h : uncounted x = uncounted y) : x.sealed = y.sealed := congrArg (fun z => z.sealed) h
theorem paired_of_uncounted {x y : Mirror} (h : uncounted x = uncounted y) : x.paired = y.paired := congrArg (fun z => z.paired) h

/-! ## A row of a message (R328, R334) -/

/-- A port has received a message's packets. -/
theorem replies_of_received {p : Packet} {status data port n : Nat} (h : Replies p status data (receivedPackets s port n) t) :
    Replies p status data s t := by
  intro q hq o ho
  have hsent := h q hq o (by
    rw [receivedPackets, Links.outPort_countPort, Links.outPort_updPort s port (by intro _; rfl)]
    exact ho)
  have hqueue : ((receivedPackets s port n).port o).queue = (s.port o).queue := by
    rw [receivedPackets, Links.queue_countPort, Links.queue_updPort s port o (by intro _; rfl)]
  rw [hqueue] at hsent
  exact hsent

/-- A message that the guard lets in: what it does, between the receipt and the acknowledgement. -/
theorem messageRow_runs {i : Instr} {port n : Nat} {pkt : BitVec 256} {guard : State → Bool} {f : State → State} {P : State → Prop}
    (hrow : exec i s = messageRow .link port 1 n pkt guard f s) (hrun : running .link s = true)
    (hcome : carried s port 9 1 none pkt = true) (hguard : guard (receivedPackets s port (max 1 (cdiv n 512))) = true)
    (hP : P (answer (f (receivedPackets s port (max 1 (cdiv n 512)))) ⟨pkt, 0#4096⟩ St.ok 0)) : Runs i s P := by
  refine runs_of_when (hrow.trans (by rw [messageRow])) hrun hcome ?_
  simp only [hguard, if_true]
  exact hP

/-! ## Items of a journal (R377) -/

/-- The parts of a state that items of a journal speak of. -/
structure SameItems (seat : Nat) (s t : State) : Prop where
  mem : t.mem = s.mem
  reqs : t.reqs = s.reqs
  binds : t.binds = s.binds
  stakes : t.stakes = s.stakes
  sealed : (t.mir seat).sealed = (s.mir seat).sealed

theorem itemHolds_of_same {seat b : Nat} {alone : Bool} {i : JournalItem} (h : SameItems seat t u) (hi : ItemHolds s seat b alone t i) :
    ItemHolds s seat b alone u i := by
  have hread := Sys2Proof.Fabric.readBytes_of_mem h.mem
  cases i with
  | riser c n k l => exact (congrFun (congrFun hread k) _).trans hi
  | entry k v => rw [ItemHolds, State.req, h.reqs]; exact hi
  | runRecord c p r v => rw [ItemHolds, State.bind, h.binds]; exact hi
  | index k v => exact (congrFun (congrFun hread k) _).trans hi
  | stake k v => rw [ItemHolds, State.stake, h.stakes]; exact hi
  | shadow k l => rw [ItemHolds, h.sealed]; exact hi
  | flush src dst m =>
    intro halone hmem hfree hapart
    obtain ⟨hcopied, hkept⟩ := hi halone hmem hfree hapart
    exact ⟨by rw [hread]; exact hcopied, fun j hj => by rw [Sys2Proof.Fabric.memByte_of_mem h.mem]; exact hkept j hj⟩
  | turnBlock c v => rw [ItemHolds, State.bind, h.binds]; exact hi

theorem readBytes_rawWrite (s : State) (k : Nat) (bs : List Byte) : readBytes (rawWrite s k bs) k bs.length = bs := by
  refine Stores.map_range_eq_of_getD rfl fun i hi => ?_
  rw [Stores.holds_memPut s k bs rfl, if_pos (by omega), Nat.add_sub_cancel_left]

/-- An item that is applied holds afterwards; a flush finds the memory and the objects as they were where no item came before it. -/
theorem applyItem_holds {seat b : Nat} {alone : Bool} (h : alone = true → u.mem = s.mem ∧ holderOf u = holderOf s) (i : JournalItem) :
    ItemHolds s seat b alone (applyItem seat b u i) i := by
  cases i with
  | riser c n k l => exact readBytes_rawWrite ..
  | entry k v => exact get_set_self ..
  | runRecord c p r v =>
    show runRec ((u.updBind c _).bind c) p r = v
    rw [State.updBind, setBind_bind]
    exact get_set_self ..
  | index k v =>
    have hread := readBytes_rawWrite u k (bytesOf v.toNat 32)
    rwa [Stores.length_bytesOf] at hread
  | stake k v => exact get_set_self ..
  | shadow k l =>
    show (Tab.get ((u.setMir seat _).mir seat).sealed [] b).getLast? = some (k, l)
    rw [setMir_mir, Tab.upd, get_set_self, List.getLast?_concat]
  | flush src dst m =>
    intro halone hmem hfree _
    obtain ⟨hsame, hholder⟩ := h halone
    have hok : MemOk u := by rwa [MemOk, hsame]
    obtain ⟨hcopied, hkept⟩ := copyMem_copies (s := u) (src := src) hok (hholder ▸ hfree)
    rw [applyItem]
    exact ⟨by rw [hcopied, Sys2Proof.Fabric.readBytes_of_mem hsame], fun j hj => by rw [hkept j hj, Sys2Proof.Fabric.memByte_of_mem hsame]⟩
  | turnBlock c v =>
    show ((u.updBind c _).bind c).blk = idleBlk v
    rw [State.updBind, setBind_bind]

/-- What a pair keeps when items are applied. -/
def unsealed (x : Mirror) : Mirror := { x with sealed := [] }

theorem applyItem_mir (seat b : Nat) (s : State) (i : JournalItem) (k : Nat) :
    unsealed ((applyItem seat b s i).mir k) = unsealed (s.mir k) := by
  cases i with
  | shadow a l =>
    rw [applyItem]
    by_cases h : k = seat
    · subst h; rw [setMir_mir]; rfl
    · rw [setMir_mir_other _ _ _ _ h]
  | flush src dst m => rw [applyItem, mir_of_mirrors ((copyMem_only ..).same .mirrors (by decide))]
  | _ => rfl

theorem applyItems_mir (seat b : Nat) (l : List JournalItem) (s : State) (k : Nat) :
    unsealed ((l.foldl (applyItem seat b) s).mir k) = unsealed (s.mir k) := by
  induction l generalizing s with
  | nil => rfl
  | cons i l ih => exact (ih _).trans (applyItem_mir ..)

/-- The last of a journal's items holds when all are applied. -/
theorem applyItems_last_holds (seat b : Nat) (l : List JournalItem) (i : JournalItem) {alone : Bool} (hl : alone = true → l = [])
    (h : u.mem = s.mem) (hholder : holderOf u = holderOf s) :
    ItemHolds s seat b alone ((l ++ [i]).foldl (applyItem seat b) u) i := by
  rw [List.foldl_append]
  refine applyItem_holds (fun halone => ?_) i
  rw [hl halone]
  exact ⟨h, hholder⟩

/-! ## Held writes (R282, R378) -/

theorem heldOut_mir (s : State) (seat : Nat) (l : List SealWait) (k : Nat) : (heldOut s seat l).mir k = s.mir k :=
  mir_of_mirrors ((heldOut_only ..).same .mirrors (by decide)) k

theorem unpair_mir (s : State) (n status : Nat) : (unpair s n status).mir n =
    { Mirror.reset with state := LMirSt.LAST_STATUS.set 0#128 status, ctr := (s.mir n).ctr } := setMir_mir ..

/-- One seal's one held write is performed where nothing holds it back. -/
theorem heldOut_wrote (seat : Nat) {w : SealWait} {a : Nat} {bs : List Byte} (hw : w.writes = [(a, bs)])
    (hfree : holderOf s a bs.length = none) :
    readBytes (heldOut s seat [w]) a bs.length = bs ∧ KeepsOutside a bs.length s (heldOut s seat [w]) := by
  have hwrote : Stores.Wrote s (writeMem s a bs) a bs := Stores.writeMem_wrote hfree
  have hmem : (heldOut s seat [w]).mem = (writeMem s a bs).mem := by
    have hraise : OnlyChanges [.seats, .out] (writeMem s a bs) ((w.raises).foldl (fun s v => raise s seat v 16) (writeMem s a bs)) :=
      only_foldl (only_refl _ _) fun y v hy => only_step (raise_only ..) (by decide) hy
    simp only [heldOut, List.flatMap_cons, List.flatMap_nil, List.append_nil, hw, List.foldl_cons, List.foldl_nil]
    exact hraise.same .mem (by decide)
  exact ⟨by rw [Sys2Proof.Fabric.readBytes_of_mem hmem]; exact hwrote.readBytes,
    fun j hj => by rw [Sys2Proof.Fabric.memByte_of_mem hmem]; exact hwrote.outside j hj⟩

/-- One seal's one vector is raised at an enabled seat. -/
theorem heldOut_raised {seat v : Nat} {w : SealWait} {a : Nat} {bs : List Byte} (hw : w.writes = [(a, bs)]) (hv : w.raises = [v])
    (hseat : seatEnabled s seat = true) : Out.irq (irqMsg s seat v 16) ∈ (heldOut s seat [w]).out := by
  have hsame := writeMem_only s a bs
  have henabled : seatEnabled (writeMem s a bs) seat = true := by
    rw [seatEnabled, State.seat, hsame.same .seats (by decide)]
    exact hseat
  have hnow : irqMsg (writeMem s a bs) seat v 16 = irqMsg s seat v 16 := by
    rw [irqMsg, irqMsg, now, now, hsame.same .clk (by decide)]
  simp only [heldOut, List.flatMap_cons, List.flatMap_nil, List.append_nil, hw, hv, List.foldl_cons, List.foldl_nil]
  rw [raise, if_pos henabled, hnow]
  exact List.mem_cons_self

end Sys2Proof.Mirrors
end

section
/-! The rows of the mirror pairs (R376 to R379). -/

namespace Sys2Proof.Mirrors

open Sys2Proof Sys2Proof.Machine Sys2Proof.Laws Sys2Proof.Pins Sys2Proof.Lasting Sys2Proof.MailboxService

variable {s t : State} {n port role b turn : Nat} {pkt : BitVec 256} {d : BitVec 256}

theorem answer_mir (s : State) (p : Packet) (status data k : Nat) : (answer s p status data).mir k = s.mir k :=
  mir_of_mirrors ((answer_only ..).same .mirrors (by decide)) k

theorem answer_out (s : State) (p : Packet) (status data : Nat) : (answer s p status data).out = s.out :=
  (answer_only ..).same .out (by decide)

theorem mirState_answer (s : State) (p : Packet) (status data k : Nat) : mirState (answer s p status data) k = mirState s k := by
  rw [mirState, answer_mir, mirState]

/-- The acknowledgement of a message whose effect does not touch the fabric. -/
theorem acked_of_fab {port m : Nat} (pkt : BitVec 256) (h : t.fab = (receivedPackets s port m).fab) :
    Replies ⟨pkt, 0#4096⟩ St.ok 0 s (answer t ⟨pkt, 0#4096⟩ St.ok 0) :=
  replies_of_received (Sys2Proof.Fabric.replies_of_fab h (Links.replies_answer t _ _ _))

/-! ## Pairing (R376) -/

/-- The other role's configuration agrees, and at a partner nothing stands in the way. -/
def Agrees (s : State) (n role : Nat) (d : BitVec 256) : Prop :=
  d = mirDigest s n ∧ role ≠ mirRole s n ∧ (mirRole s n = 1 → partnerFree s n = true)

/-- The pair after its device has answered with its own configuration. -/
def compared (s : State) (n : Nat) : State :=
  tellMirror (s.setMir n { s.mir n with paired := true }) n 2 (mirRole s n) (mirDigest s n)

theorem compared_mir (s : State) (n : Nat) : uncounted ((compared s n).mir n) = uncounted { s.mir n with paired := true } := by
  have hmir := (tellMirror_mir (s.setMir n { s.mir n with paired := true }) n 2 (mirRole s n) (mirDigest s n) n).1
  rwa [setMir_mir] at hmir

theorem mirRole_compared (s : State) (n : Nat) : mirRole (compared s n) n = mirRole s n := by
  rw [mirRole, state_of_uncounted (compared_mir s n), mirRole]

theorem mirState_compared (s : State) (n : Nat) : mirState (compared s n) n = mirState s n := by
  rw [mirState, state_of_uncounted (compared_mir s n), mirState]

theorem compared_out (s : State) (n : Nat) :
    .mirror (LMirSt.PEER.get (s.mir n).state) n 2 (mirRole s n) (mirDigest s n) ∈ (compared s n).out := by
  have hout := tellMirror_out (s.setMir n { s.mir n with paired := true }) n 2 (mirRole s n) (mirDigest s n)
  rwa [setMir_mir] at hout

theorem comparePeer_of_not_agrees (hnew : (s.mir n).paired = false) (h : ¬Agrees s n role d) :
    comparePeer n role d s = unpair s n St.mirror := by
  rw [comparePeer, if_neg (by simp [hnew]), if_pos]
  simp only [Agrees] at h
  by_cases hd : d = mirDigest s n <;> by_cases hrole : role = mirRole s n <;> simp_all

theorem comparePeer_of_agrees (hnew : (s.mir n).paired = false) (h : Agrees s n role d) : comparePeer n role d s =
    if mirRole s n = 0 then setMirSt (compared s n) n [(LMirSt.STATE, 2)] else compared s n := by
  obtain ⟨hd, hrole, hfree⟩ := h
  rw [comparePeer, if_neg (by simp [hnew]), if_neg (by simp_all)]
  show (if mirRole (compared s n) n = 0 then _ else _) = _
  rw [mirRole_compared]
  rfl

theorem mirState_setMirSt (s : State) (n v : Nat) (hv : v < 8) : mirState (setMirSt s n [(LMirSt.STATE, v)]) n = v := by
  rw [mirState, setMirSt, setMir_mir]
  refine (get_setAll_cons _ _ (by decide) (by simp)).trans (Nat.mod_eq_of_lt ?_)
  simpa [LMirSt.STATE] using hv

theorem comparePeer_agrees (hstate : mirState s n = 1) (hnew : (s.mir n).paired = false) (h : Agrees s n role d) :
    mirState (comparePeer n role d s) n = (if mirRole s n = 0 then 2 else 1) ∧ ((comparePeer n role d s).mir n).paired = true ∧
      .mirror (LMirSt.PEER.get (s.mir n).state) n 2 (mirRole s n) (mirDigest s n) ∈ (comparePeer n role d s).out := by
  rw [comparePeer_of_agrees hnew h]
  have hpaired : ((compared s n).mir n).paired = true := paired_of_uncounted (compared_mir s n)
  split
  · exact ⟨mirState_setMirSt _ n 2 (by decide), by rw [setMirSt, setMir_mir]; exact hpaired, compared_out s n⟩
  · exact ⟨by rw [mirState_compared, hstate], hpaired, compared_out s n⟩

theorem unpair_ends (s : State) (n : Nat) : mirState (unpair s n St.mirror) n = 0 ∧
    LMirSt.LAST_STATUS.get ((unpair s n St.mirror).mir n).state = St.mirror ∧ ((unpair s n St.mirror).mir n).ctr = (s.mir n).ctr := by
  rw [mirState, unpair_mir]
  refine ⟨?_, ?_, rfl⟩
  · show LMirSt.STATE.get (LMirSt.LAST_STATUS.set 0#128 St.mirror) = 0
    decide
  · show LMirSt.LAST_STATUS.get (LMirSt.LAST_STATUS.set 0#128 St.mirror) = St.mirror
    decide

theorem mirrorCompare_runs {P : State → Prop} (hrun : running .link s = true) (hcome : carried s port 9 1 none pkt = true)
    (hpeer : fromPeer s port pkt n = true) (hstate : mirState s n = 1)
    (hP : ∀ m, P (answer (comparePeer n role d (receivedPackets s port m)) ⟨pkt, 0#4096⟩ St.ok 0)) :
    Runs (.mirrorCompare ⟨⟨port, pkt⟩, n⟩ ⟨role, d⟩) s P := by
  have hrow : exec (.mirrorCompare ⟨⟨port, pkt⟩, n⟩ ⟨role, d⟩) s = execMirrorCompare ⟨⟨port, pkt⟩, n⟩ ⟨role, d⟩ s := rfl
  refine messageRow_runs (hrow.trans (by rw [execMirrorCompare])) hrun hcome ?_ (hP _)
  exact Bool.and_eq_true_iff.mpr ⟨hpeer, by rw [beq_iff_eq]; exact hstate⟩

theorem pairTimeout_ends (hrun : running .banker s = true) (hstate : mirState s n = 1) (hnew : (s.mir n).paired = false)
    (hlate : (s.mir n).since + 10000000000 ≤ now s) : Runs (.mirrorPairTimeout n) s (fun t => mirState t n = 0 ∧
      LMirSt.LAST_STATUS.get (t.mir n).state = St.mirror) := by
  have hrow : exec (.mirrorPairTimeout n) s = execMirrorPairTimeout n s := rfl
  refine runs_of_when (hrow.trans (by rw [execMirrorPairTimeout])) hrun (by simp [hstate, hnew, hlate]) ?_
  obtain ⟨hended, hlast, _⟩ := unpair_ends s n
  exact ⟨hended, hlast⟩

theorem mirrorCompare_ends (hrun : running .link s = true) (hcome : carried s port 9 1 none pkt = true)
    (hpeer : fromPeer s port pkt n = true) (hstate : mirState s n = 1) (hnew : (s.mir n).paired = false) (h : ¬Agrees s n role d) :
    Runs (.mirrorCompare ⟨⟨port, pkt⟩, n⟩ ⟨role, d⟩) s (fun t => mirState t n = 0 ∧
      LMirSt.LAST_STATUS.get (t.mir n).state = St.mirror ∧ (t.mir n).ctr = (s.mir n).ctr) := by
  refine mirrorCompare_runs hrun hcome hpeer hstate fun m => ?_
  rw [comparePeer_of_not_agrees (s := receivedPackets s port m) hnew h, mirState_answer, answer_mir]
  exact unpair_ends ..

theorem mirrorCompare_agrees (hrun : running .link s = true) (hcome : carried s port 9 1 none pkt = true)
    (hpeer : fromPeer s port pkt n = true) (hstate : mirState s n = 1) (hnew : (s.mir n).paired = false) (h : Agrees s n role d) :
    Runs (.mirrorCompare ⟨⟨port, pkt⟩, n⟩ ⟨role, d⟩) s (fun t => mirState t n = (if mirRole s n = 0 then 2 else 1) ∧
      (t.mir n).paired = true ∧ .mirror (LMirSt.PEER.get (s.mir n).state) n 2 (mirRole s n) (mirDigest s n) ∈ t.out) := by
  refine mirrorCompare_runs hrun hcome hpeer hstate fun m => ?_
  rw [mirState_answer, answer_mir, answer_out]
  exact comparePeer_agrees (s := receivedPackets s port m) hstate hnew h

/-- A comparison that comes again is acknowledged alone. -/
theorem mirrorCompare_again (hrun : running .link s = true) (hcome : carried s port 9 1 none pkt = true)
    (hpeer : fromPeer s port pkt n = true) (hstate : mirState s n = 1) (hpaired : (s.mir n).paired = true) :
    Runs (.mirrorCompare ⟨⟨port, pkt⟩, n⟩ ⟨role, d⟩) s (fun t => Replies ⟨pkt, 0#4096⟩ St.ok 0 s t ∧ OnlyChanges [.fab] s t) := by
  refine mirrorCompare_runs hrun hcome hpeer hstate fun m => ?_
  have hagain : ((receivedPackets s port m).mir n).paired = true := hpaired
  rw [comparePeer, if_pos hagain]
  exact ⟨acked_of_fab pkt rfl,
    only_step (answer_only ..) (by decide) (receivedPackets_only ..)⟩

/-! ## Synchronisation (R376) -/

theorem sendJournal_out (s : State) (n : Nat) {l : List JournalItem} (hl : l ≠ []) :
    .journal (LMirSt.PEER.get (s.mir n).state) n l ∈ (sendJournal s n l).out := by
  rw [sendJournal, if_neg (by simpa using hl)]
  exact mirrorMessage_out n _ List.mem_cons_self

theorem mirrorSyncComplete_primary (hrun : running .link s = true) (hstate : mirState s n = 2) (hrole : mirRole s n = 0) :
    Runs (.mirrorSyncComplete n) s (fun t => mirState t n = 3 ∧
      (syncItems s n ≠ [] → Out.journal (LMirSt.PEER.get (s.mir n).state) n (syncItems s n) ∈ t.out)) := by
  have hrow : exec (.mirrorSyncComplete n) s = execMirrorSyncComplete n s := rfl
  refine runs_of_when (hrow.trans (by rw [execMirrorSyncComplete])) hrun (by simp [hstate, hrole]) ?_
  rw [if_pos hrole]
  exact ⟨mirState_setMirSt _ n 3 (by decide), sendJournal_out s n⟩

theorem mirrorSyncComplete_partner (hrun : running .link s = true) (hstate : mirState s n = 1) (hrole : mirRole s n = 1)
    (hpaired : (s.mir n).paired = true) :
    Runs (.mirrorSyncComplete n) s (fun t => mirState t n = 4 ∧ OnlyChanges [.mirrors] s t) := by
  have hrow : exec (.mirrorSyncComplete n) s = execMirrorSyncComplete n s := rfl
  refine runs_of_when (hrow.trans (by rw [execMirrorSyncComplete])) hrun (by simp [hstate, hrole, hpaired]) ?_
  rw [if_neg (by rw [hrole]; decide)]
  exact ⟨mirState_setMirSt _ n 4 (by decide), setMirSt_only ..⟩

/-! ## Journals and seals (R377, R378) -/

theorem mirrorJournal_runs {items : List JournalItem} {P : State → Prop} (hrun : running .link s = true)
    (hcome : carried s port 9 1 none pkt = true) (hpeer : fromPeer s port pkt n = true) (htake : takesJournal s n = true)
    (hP : ∀ m, P (answer (takeJournal n items (receivedPackets s port m)) ⟨pkt, 0#4096⟩ St.ok 0)) :
    Runs (.mirrorJournal ⟨⟨port, pkt⟩, n⟩ items) s P := by
  have hrow : exec (.mirrorJournal ⟨⟨port, pkt⟩, n⟩ items) s = execMirrorJournal ⟨⟨port, pkt⟩, n⟩ items s := rfl
  refine messageRow_runs (hrow.trans (by rw [execMirrorJournal])) hrun hcome ?_ (hP _)
  exact Bool.and_eq_true_iff.mpr ⟨hpeer, htake⟩

theorem mirrorJournal_standby {items : List JournalItem} (hrun : running .link s = true) (hcome : carried s port 9 1 none pkt = true)
    (hpeer : fromPeer s port pkt n = true) (hstate : mirState s n = 4) (hrole : mirRole s n = 1)
    (hlost : LMirSt.PEER_LOST.on (s.mir n).state = false) : Runs (.mirrorJournal ⟨⟨port, pkt⟩, n⟩ items) s (fun t =>
      (t.mir n).journal = (s.mir n).journal ++ items ∧ Replies ⟨pkt, 0#4096⟩ St.ok 0 s t ∧ OnlyChanges [.mirrors, .fab] s t) := by
  refine mirrorJournal_runs hrun hcome hpeer (by simp [takesJournal, hstate, hrole, hlost]) fun m => ?_
  have hone : ¬mirState (receivedPackets s port m) n = 1 := by
    show ¬mirState s n = 1
    omega
  rw [takeJournal, if_neg hone]
  refine ⟨by rw [answer_mir, setMir_mir]; rfl, acked_of_fab pkt rfl, ?_⟩
  exact only_step (answer_only ..) (by decide) (only_step (state_setMir_only ..) (by decide)
    (only_step (receivedPackets_only ..) (by decide) (only_refl _ s)))

theorem sameItems_answer (s : State) (p : Packet) (status data seat : Nat) : SameItems seat s (answer s p status data) :=
  have h := answer_only s p status data
  ⟨h.same .mem (by decide), h.same .reqs (by decide), h.same .binds (by decide), h.same .stakes (by decide), by rw [answer_mir]⟩

theorem state_of_unsealed {x y : Mirror} (h : unsealed x = unsealed y) : x.state = y.state := congrArg (fun z => z.state) h

theorem mirrorJournal_sync {items : List JournalItem} {i : JournalItem} (hrun : running .link s = true)
    (hcome : carried s port 9 1 none pkt = true) (hpeer : fromPeer s port pkt n = true) (hstate : mirState s n = 1)
    (hrole : mirRole s n = 1) (hpaired : (s.mir n).paired = true) (hlost : LMirSt.PEER_LOST.on (s.mir n).state = false) :
    Runs (.mirrorJournal ⟨⟨port, pkt⟩, n⟩ (items ++ [i])) s (fun t =>
      ItemHolds s n 0 items.isEmpty t i ∧ mirState t n = 1 ∧ (t.mir n).journal = (s.mir n).journal) := by
  refine mirrorJournal_runs hrun hcome hpeer (by simp [takesJournal, hstate, hrole, hlost, hpaired]) fun m => ?_
  have hone : mirState (receivedPackets s port m) n = 1 := hstate
  rw [takeJournal, if_pos hone]
  have hmir := applyItems_mir n 0 (items ++ [i]) (receivedPackets s port m) n
  refine ⟨itemHolds_of_same (sameItems_answer ..) (applyItems_last_holds n 0 items i (by simp) rfl rfl), ?_, ?_⟩
  · rw [mirState_answer]
    have hkept : mirState ((items ++ [i]).foldl (applyItem n 0) (receivedPackets s port m)) n = mirState (receivedPackets s port m) n :=
      congrArg LMirSt.STATE.get (state_of_unsealed hmir)
    exact hkept.trans hone
  · rw [answer_mir]
    exact congrArg (fun x => x.journal) hmir

/-- A seal's journal leaves the pair, and its binding's shadows are those of the new turn alone. -/
def unpacked (s : State) (n b : Nat) : State := s.setMir n { s.mir n with
  journal := (s.mir n).journal.filter (staysPending b), sealed := Tab.set (s.mir n).sealed [] b [] }

/-- What a seal lets take effect. -/
def sealedItems (s : State) (n b turn : Nat) : List JournalItem := (s.mir n).journal.filter (sealsItem b turn)

/-- The pair notes that a turn is sealed. -/
def noted (s : State) (n : Nat) : State :=
  s.setMir n { s.mir n with state := LMirSt.SEAL_TIME.set (s.mir n).state (now s), ctr := ctrAdd (s.mir n).ctr 0x010 1 }

theorem takeSeal_eq (s : State) (n b turn : Nat) : takeSeal n b turn s =
    tellMirror (noted ((sealedItems s n b turn).foldl (applyItem n b) (unpacked s n b)) n) n 3 b (BitVec.ofNat 256 turn) := rfl

theorem sealedItems_mir (s : State) (n b turn : Nat) :
    unsealed (((sealedItems s n b turn).foldl (applyItem n b) (unpacked s n b)).mir n) =
      unsealed { s.mir n with journal := (s.mir n).journal.filter (staysPending b) } := by
  rw [applyItems_mir, unpacked, setMir_mir]
  rfl

theorem now_applyItems (n b : Nat) (l : List JournalItem) (s : State) : now (l.foldl (applyItem n b) s) = now s := by
  have hsame : OnlyChanges [.mem, .wordErr, .dirty, .reqs, .objx, .stakes, .binds, .mirrors] s (l.foldl (applyItem n b) s) :=
    only_foldl (only_refl _ s) fun y i hy => only_step (applyItem_only ..) (by decide) hy
  rw [now, now, hsame.same .clk (by decide)]

theorem sameItems_tellMirror (s : State) (n code arg : Nat) (w : BitVec 256) : SameItems n s (tellMirror s n code arg w) :=
  have h := tellMirror_quiet s n code arg w
  ⟨h.same .mem (by decide), h.same .reqs (by decide), h.same .binds (by decide), h.same .stakes (by decide),
    sealed_of_uncounted (tellMirror_mir ..).1⟩

theorem sameItems_noted (s : State) (n : Nat) : SameItems n s (noted s n) :=
  ⟨rfl, rfl, rfl, rfl, by rw [noted, setMir_mir]⟩

theorem SameItems.trans {seat : Nat} {u : State} (h : SameItems seat s t) (h' : SameItems seat t u) : SameItems seat s u :=
  ⟨h'.mem.trans h.mem, h'.reqs.trans h.reqs, h'.binds.trans h.binds, h'.stakes.trans h.stakes, h'.sealed.trans h.sealed⟩

/-- What follows the items of a seal leaves what they speak of as it is. -/
theorem takeSeal_same (s : State) (n b turn : Nat) :
    SameItems n ((sealedItems s n b turn).foldl (applyItem n b) (unpacked s n b)) (takeSeal n b turn s) :=
  (sameItems_noted _ n).trans (sameItems_tellMirror ..)

theorem takeSeal_last_holds {items : List JournalItem} {i : JournalItem} (hjournal : (s.mir n).journal = items ++ [i])
    (hseals : sealsItem b turn i = true) : ItemHolds s n b items.isEmpty (takeSeal n b turn s) i := by
  refine itemHolds_of_same (takeSeal_same s n b turn) ?_
  rw [sealedItems, hjournal, List.filter_append, List.filter_singleton, hseals]
  refine applyItems_last_holds n b _ i (fun halone => ?_) rfl rfl
  rw [List.isEmpty_iff.mp halone]
  rfl

theorem takeSeal_of_nothing (h : (s.mir n).journal = []) : Tab.get ((takeSeal n b turn s).mir n).sealed [] b = [] ∧
    (takeSeal n b turn s).mem = s.mem ∧ (takeSeal n b turn s).reqs = s.reqs ∧ (takeSeal n b turn s).binds = s.binds := by
  have hsame := takeSeal_same s n b turn
  rw [sealedItems, h, List.filter_nil, List.foldl_nil] at hsame
  refine ⟨?_, hsame.mem, hsame.reqs, hsame.binds⟩
  rw [hsame.sealed, unpacked, setMir_mir, get_set_self]

theorem takeSeal_mir (s : State) (n b turn : Nat) :
    ((takeSeal n b turn s).mir n).journal = (s.mir n).journal.filter (staysPending b) ∧
      LMirSt.SEAL_TIME.get ((takeSeal n b turn s).mir n).state = now s % 2 ^ 64 ∧
      Tab.get ((takeSeal n b turn s).mir n).ctr 0#64 0x010 = Tab.get (s.mir n).ctr 0#64 0x010 + 1 := by
  have hmir := sealedItems_mir s n b turn
  have hnow : now ((sealedItems s n b turn).foldl (applyItem n b) (unpacked s n b)) = now s := now_applyItems ..
  rw [takeSeal_eq]
  generalize hu : (sealedItems s n b turn).foldl (applyItem n b) (unpacked s n b) = u at hmir hnow
  obtain ⟨hquiet, hctr⟩ := tellMirror_mir (noted u n) n 3 b (BitVec.ofNat 256 turn) n
  rw [noted, setMir_mir] at hquiet hctr
  refine ⟨?_, ?_, ?_⟩
  · rw [noted, journal_of_uncounted hquiet]
    exact congrArg (fun x => x.journal) hmir
  · rw [noted, state_of_uncounted hquiet, hnow]
    exact get_set_same LMirSt.SEAL_TIME (u.mir n).state (now s) (by decide)
  · rw [noted, hctr]
    have hsame : (u.mir n).ctr = (s.mir n).ctr := congrArg (fun x => x.ctr) hmir
    rw [ctrAdd, get_set_self, hsame]
    rfl

theorem takeSeal_out (s : State) (n b turn : Nat) :
    .mirror (LMirSt.PEER.get (s.mir n).state) n 3 b (BitVec.ofNat 256 turn) ∈ (takeSeal n b turn s).out := by
  have hmir := sealedItems_mir s n b turn
  rw [takeSeal_eq]
  generalize hu : (sealedItems s n b turn).foldl (applyItem n b) (unpacked s n b) = u at hmir
  have hout := tellMirror_out (noted u n) n 3 b (BitVec.ofNat 256 turn)
  have hpeer : LMirSt.PEER.get ((noted u n).mir n).state = LMirSt.PEER.get (s.mir n).state := by
    rw [noted, setMir_mir]
    refine (get_set_apart (u.mir n).state (now u) (by simp [FieldsApart, LMirSt.PEER, LMirSt.SEAL_TIME])).trans ?_
    rw [show (u.mir n).state = (s.mir n).state from congrArg (fun x => x.state) hmir]
  rwa [hpeer] at hout

theorem sealRecord_runs {P : State → Prop} (hrun : running .link s = true) (hcome : carried s port 9 1 none pkt = true)
    (hpeer : fromPeer s port pkt n = true) (hstate : mirState s n = 4) (hlost : LMirSt.PEER_LOST.on (s.mir n).state = false)
    (hP : ∀ m, P (answer (takeSeal n b turn (receivedPackets s port m)) ⟨pkt, 0#4096⟩ St.ok 0)) :
    Runs (.sealRecord ⟨⟨port, pkt⟩, n⟩ b turn) s P := by
  have hrow : exec (.sealRecord ⟨⟨port, pkt⟩, n⟩ b turn) s = execSealRecord ⟨⟨port, pkt⟩, n⟩ b turn s := rfl
  refine messageRow_runs (hrow.trans (by rw [execSealRecord])) hrun hcome ?_ (hP _)
  simp only [Bool.and_eq_true, Bool.not_eq_true', beq_iff_eq]
  exact ⟨⟨hpeer, hstate⟩, hlost⟩

theorem sealRecord_seals {items : List JournalItem} {i : JournalItem} (hrun : running .link s = true)
    (hcome : carried s port 9 1 none pkt = true) (hpeer : fromPeer s port pkt n = true) (hstate : mirState s n = 4)
    (hlost : LMirSt.PEER_LOST.on (s.mir n).state = false) : Runs (.sealRecord ⟨⟨port, pkt⟩, n⟩ b turn) s (fun t =>
      (t.mir n).journal = (s.mir n).journal.filter (staysPending b) ∧ LMirSt.SEAL_TIME.get (t.mir n).state = now s % 2 ^ 64 ∧
      .mirror (LMirSt.PEER.get (s.mir n).state) n 3 b (BitVec.ofNat 256 turn) ∈ t.out ∧
      Tab.get (t.mir n).ctr 0#64 0x010 = Tab.get (s.mir n).ctr 0#64 0x010 + 1 ∧
      ((s.mir n).journal = [] → Tab.get (t.mir n).sealed [] b = [] ∧ t.mem = s.mem ∧ t.reqs = s.reqs ∧ t.binds = s.binds) ∧
      ((s.mir n).journal = items ++ [i] → sealsItem b turn i = true → ItemHolds s n b items.isEmpty t i)) := by
  refine sealRecord_runs hrun hcome hpeer hstate hlost fun m => ?_
  obtain ⟨hjournal, htime, hcount⟩ := takeSeal_mir (receivedPackets s port m) n b turn
  have hsame := sameItems_answer (takeSeal n b turn (receivedPackets s port m)) ⟨pkt, 0#4096⟩ St.ok 0 n
  rw [answer_mir, answer_out]
  refine ⟨hjournal, htime, takeSeal_out (receivedPackets s port m) n b turn, hcount, fun hnone => ?_, fun hlast hseals => ?_⟩
  · obtain ⟨hsealed, hmem, hreqs, hbinds⟩ := takeSeal_of_nothing (s := receivedPackets s port m) (b := b) (turn := turn) hnone
    exact ⟨hsealed, hsame.mem.trans hmem, hsame.reqs.trans hreqs, hsame.binds.trans hbinds⟩
  · exact itemHolds_of_same hsame (takeSeal_last_holds (s := receivedPackets s port m) hlast hseals)

/-- Is it the seal of the binding's turn? -/
def isSeal (b turn : Nat) (w : SealWait) : Bool := w.binding == b && w.turn == turn

/-- The pair has its seal acknowledged. -/
def unsealing (s : State) (n b turn : Nat) : State :=
  s.setMir n { s.mir n with sealing := (s.mir n).sealing.filter (fun w => !isSeal b turn w) }

theorem takeSealAck_eq (s : State) (n b turn : Nat) :
    takeSealAck n b turn s = heldOut (unsealing s n b turn) n ((s.mir n).sealing.filter (isSeal b turn)) := rfl

theorem irqMsg_of_clk (h : t.clk = s.clk) (k v c : Nat) : irqMsg t k v c = irqMsg s k v c := by
  rw [irqMsg, irqMsg, now, now, h]

theorem unsealing_only (s : State) (port m n b turn : Nat) :
    OnlyChanges [.mirrors, .fab] s (unsealing (receivedPackets s port m) n b turn) :=
  only_step (state_setMir_only ..) (by decide) (only_step (receivedPackets_only ..) (by decide) (only_refl _ s))

theorem holderOf_setMir (s : State) (n : Nat) (x : Mirror) : holderOf (s.setMir n x) = holderOf s := rfl

theorem holderOf_received (s : State) (port m : Nat) : holderOf (receivedPackets s port m) = holderOf s := rfl

theorem holderOf_unsealing (s : State) (port m n b turn : Nat) :
    holderOf (unsealing (receivedPackets s port m) n b turn) = holderOf s := by
  rw [unsealing, holderOf_setMir, holderOf_received]

theorem sealAck_issues {w : SealWait} {a : Nat} {bs : List Byte} (hrun : running .link s = true)
    (hcome : carried s port 9 1 none pkt = true) (hpeer : fromPeer s port pkt n = true) (hstate : mirState s n = 3)
    (hany : (s.mir n).sealing.any (isSeal b turn) = true) : Runs (.sealAck ⟨⟨port, pkt⟩, n⟩ b turn) s (fun t =>
      (∀ w, w ∈ (t.mir n).sealing ↔ w ∈ (s.mir n).sealing ∧ ¬(w.binding = b ∧ w.turn = turn)) ∧
      (∀ k, k ≠ n → t.mir k = s.mir k) ∧
      ((s.mir n).sealing.filter (isSeal b turn) = [w] → w.writes = [(a, bs)] → holderOf s a bs.length = none →
        readBytes t a bs.length = bs ∧ KeepsOutside a bs.length s t ∧
        (∀ v, w.raises = [v] → seatEnabled s n = true → Out.irq (irqMsg s n v 16) ∈ t.out))) := by
  have hrow : exec (.sealAck ⟨⟨port, pkt⟩, n⟩ b turn) s = execSealAck ⟨⟨port, pkt⟩, n⟩ b turn s := rfl
  refine messageRow_runs (hrow.trans (by rw [execSealAck])) hrun hcome ?_ ?_
  · simp only [Bool.and_eq_true, beq_iff_eq]
    exact ⟨⟨hpeer, hstate⟩, hany⟩
  · generalize max 1 (cdiv 64 512) = m
    rw [takeSealAck_eq, answer_out]
    have hmem := (sameItems_answer (heldOut (unsealing (receivedPackets s port m) n b turn) n
      (((receivedPackets s port m).mir n).sealing.filter (isSeal b turn))) ⟨pkt, 0#4096⟩ St.ok 0 n).mem
    refine ⟨fun w => ?_, fun k hk => ?_, fun hone hw hfree => ?_⟩
    · rw [answer_mir, heldOut_mir, unsealing, setMir_mir]
      show w ∈ (s.mir n).sealing.filter _ ↔ _
      simp only [List.mem_filter, isSeal, Bool.not_eq_true', Bool.and_eq_false_iff, beq_eq_false_iff_ne]
      tauto
    · rw [answer_mir, heldOut_mir, unsealing, setMir_mir_other _ _ _ _ hk]
      rfl
    · have hhit : ((receivedPackets s port m).mir n).sealing.filter (isSeal b turn) = [w] := hone
      rw [hhit] at hmem ⊢
      have hholder := holderOf_unsealing s port m n b turn
      have hbefore := unsealing_only s port m n b turn
      obtain ⟨hread, hkept⟩ := heldOut_wrote (s := unsealing (receivedPackets s port m) n b turn) n hw (by rw [hholder]; exact hfree)
      refine ⟨by rw [Sys2Proof.Fabric.readBytes_of_mem hmem]; exact hread, fun j hj => ?_, fun v hv hseat => ?_⟩
      · rw [Sys2Proof.Fabric.memByte_of_mem hmem, hkept j hj, Sys2Proof.Fabric.memByte_of_mem (hbefore.same .mem (by decide))]
      · rw [← irqMsg_of_clk (hbefore.same .clk (by decide))]
        refine heldOut_raised hw hv ?_
        rw [seatEnabled, State.seat, hbefore.same .seats (by decide)]
        exact hseat

theorem sealTimeout_degrades {w : SealWait} {a : Nat} {bs : List Byte} (hrun : running .banker s = true) (hstate : mirState s n = 3)
    (hrole : mirRole s n = 0) (hlate : (s.mir n).sealing.any (fun w => decide (w.sent + tierTimeout s ≤ now s)) = true) :
    Runs (.sealTimeout n) s (fun t => mirState t n = 5 ∧ (t.mir n).sealing = [] ∧
      ((s.mir n).sealing = [w] → w.writes = [(a, bs)] → holderOf s a bs.length = none →
        readBytes t a bs.length = bs ∧ KeepsOutside a bs.length s t)) := by
  have hrow : exec (.sealTimeout n) s = execSealTimeout n s := rfl
  refine runs_of_when (hrow.trans (by rw [execSealTimeout])) hrun (by simp [hstate, hrole, hlate]) ?_
  have hthree : LMirSt.STATE.get (s.mir n).state = 3 := hstate
  simp only [mirrorLost, hthree]
  have hevent := fun x : State => deviceEvent_only x LEv.MIRROR
  rw [mirState, mir_of_mirrors ((hevent _).same .mirrors (by decide)), setMir_mir]
  refine ⟨?_, rfl, fun hone hw hfree => ?_⟩
  · exact get_set_same LMirSt.STATE (s.mir n).state 5 (by decide)
  · obtain ⟨hread, hkept⟩ := heldOut_wrote (s := s) n hw hfree
    have hmem := (hevent ((heldOut s n (s.mir n).sealing).setMir n { s.mir n with
      state := LMirSt.STATE.set (s.mir n).state 5, ctr := ctrAdd (s.mir n).ctr 0x028 1, sealing := [] })).same .mem (by decide)
    rw [hone] at hmem ⊢
    exact ⟨by rw [Sys2Proof.Fabric.readBytes_of_mem hmem]; exact hread,
      fun j hj => by rw [Sys2Proof.Fabric.memByte_of_mem hmem]; exact hkept j hj⟩

/-- Settles O50, row by row: what a message's receipt and its acknowledgement leave alone is what each row's effect speaks of. -/
theorem mirrorRecordsTakeEffect : Obligations.MirrorRecordsTakeEffect := by
  intro s n b turn a port role pkt d items i w bs here acked peer fits
  refine ⟨fun hrun => ⟨?_, ?_, ?_, ?_, ?_, ?_, ?_, ?_⟩, fun hrun => ⟨?_, ?_⟩⟩
  · rintro hstate ⟨hcome, hpeer⟩ hnew
    exact ⟨mirrorCompare_ends hrun hcome hpeer hstate hnew, mirrorCompare_agrees hrun hcome hpeer hstate hnew⟩
  · rintro hstate ⟨hcome, hpeer⟩ hpaired
    exact mirrorCompare_again hrun hcome hpeer hstate hpaired
  · exact mirrorSyncComplete_primary hrun
  · exact mirrorSyncComplete_partner hrun
  · rintro hstate hrole hlost ⟨hcome, hpeer⟩
    exact mirrorJournal_standby hrun hcome hpeer hstate hrole hlost
  · rintro hstate hrole hpaired hlost ⟨hcome, hpeer⟩
    exact mirrorJournal_sync hrun hcome hpeer hstate hrole hpaired hlost
  · rintro hstate hlost ⟨hcome, hpeer⟩
    exact sealRecord_seals hrun hcome hpeer hstate hlost
  · rintro hstate hany ⟨hcome, hpeer⟩
    exact sealAck_issues hrun hcome hpeer hstate hany
  · exact pairTimeout_ends hrun
  · exact sealTimeout_degrades hrun

end Sys2Proof.Mirrors
end

section
/-! What a tile mover's copy leaves (R15, R24, R61, R69), and what a request to another chip leaves of the bindings. -/

namespace Sys2Proof.Movers

open Sys2Proof Sys2Proof.Machine Sys2Proof.Laws Sys2Proof.Lanes Sys2Proof.Stores Sys2Proof.Serving

variable {s t u : State}

/-! ## Accesses presented and words corrected -/

/-- Accesses have been presented, and correctable words counted and written back; no byte and no page's buffer has changed. -/
structure Presented (s t : State) : Prop where
  only : OnlyChanges [.wordErr, .bank, .ingots, .hm] s t
  view : KeepsIngots slotView s t

theorem presented_refl (s : State) : Presented s s := ⟨only_refl _ s, keepsIngots_refl s⟩

theorem Presented.trans (h : Presented s t) (h' : Presented t u) : Presented s u :=
  ⟨only_step h'.only rfl h.only, h.view.trans h'.view⟩

theorem Slotted.presented (h : Slotted s t) : Presented s t := ⟨only_step h.only (by decide) (only_refl _ s), h.view⟩

theorem presented_of_only {l : List Part} (h : OnlyChanges l s t) (hl : l.all [Part.wordErr, .bank, .hm].contains = true) : Presented s t := by
  have hsub : l.all [Part.wordErr, .bank, .ingots, .hm].contains = true := by
    rw [List.all_eq_true] at hl ⊢
    intro p hp
    have hin := hl p hp
    revert hin
    cases p <;> decide
  refine ⟨only_step h hsub (only_refl _ s), keepsIngots_of_only h fun hin => ?_⟩
  have hno := List.all_eq_true.mp hl _ hin
  revert hno
  decide

theorem presented_foldl {α : Type} {f : State → α → State} (h : ∀ s a, Presented s (f s a)) (l : List α) (s : State) :
    Presented s (l.foldl f s) := by
  induction l generalizing s with
  | nil => exact presented_refl s
  | cons a l ih => exact (h s a).trans (ih _)

theorem countCorr_presented (s : State) (k n : Nat) (pip : Bool) : Presented s (countCorr s k n pip) := by
  refine presented_foldl (fun s w => ?_) _ s
  split
  · exact Slotted.presented (slotted_countIngot ..)
  · exact presented_of_only (state_countDev_only ..) (by decide)
  · exact presented_of_only (state_countDev_only ..) (by decide)
  · exact presented_refl s

theorem rewrite_presented (s : State) (k n : Nat) : Presented s (rewrite s k n) := by
  refine presented_foldl (fun s w => ?_) _ s
  split
  · rw [queueFix]
    exact Slotted.presented (slotted_updBankGroup ..)
  · exact presented_of_only (scrubFix_only ..) (by decide)
  · exact presented_of_only (clearCorr_only ..) (by decide)

theorem noteCorr_presented (s : State) (k n : Nat) (pip : Bool) : Presented s (noteCorr s k n pip) :=
  (countCorr_presented ..).trans (rewrite_presented ..)

theorem pushGrants_presented (s : State) (who : Nat × Nat) (k n : Nat) (write : Bool) : Presented s (pushGrants s who k n write) := by
  unfold pushGrants
  split
  · exact presented_of_only (state_updHmPort_only ..) (by decide)
  · refine presented_foldl (fun s e => ?_) _ s
    rw [pushPart, pushExt]
    exact Slotted.presented (slotted_updBankGroup ..)

theorem noDefer_of_view (h : KeepsIngots slotView s t) : noDefer t = noDefer s := by
  have hlocks : ∀ i, (t.ingot i).locks = (s.ingot i).locks := fun i => congrArg (fun x => x.locks) (h.same i)
  have hdefer : ∀ i, (t.ingot i).defer = (s.ingot i).defer := fun i => congrArg (fun x => x.defer) (h.same i)
  have hlocked : lockedAt t = lockedAt s := funext fun k => by
    rw [lockedAt, pageLocked, pageLocks, hlocks, lockedAt, pageLocked, pageLocks]
  exact funext fun k => funext fun n => by
    rw [noDefer, noDefer, hlocked]
    simp only [hdefer]

theorem pageStatus_of_view (h : KeepsIngots slotView s t) : pageStatus t = pageStatus s := funext fun k => funext fun n => by
  have hgov : govMode t = govMode s := funext fun i => by
    rw [govMode, show (t.ingot i).gov = (s.ingot i).gov from congrArg (fun x => x.gov) (h.same i), govMode]
  have hlost : chanLost t = chanLost s := funext fun i => funext fun bg => by
    rw [chanLost, show (t.ingot i).lanes = (s.ingot i).lanes from congrArg (fun x => x.lanes) (h.same i), chanLost]
  rw [pageStatus, hgov, hlost, pageStatus]

section
variable (h : Presented s t)
include h

theorem Presented.mem : t.mem = s.mem := h.only.same .mem (by decide)
theorem Presented.fab : t.fab = s.fab := h.only.same .fab (by decide)

theorem Presented.holderOf_eq : holderOf t = holderOf s := funext fun k => funext fun n => by
  have hobjs : t.objs = s.objs := h.only.same .objs (by decide)
  have hobjx : t.objx = s.objx := h.only.same .objx (by decide)
  have hworks : holdsWrites t = holdsWrites s := funext fun o => by
    rw [holdsWrites, State.obj, State.ox, hobjs, hobjx, holdsWrites, State.obj, State.ox]
  have hkey : objWorkKey t = objWorkKey s := funext fun o => by
    rw [objWorkKey, State.obj, hobjs, keyOf_of_fab h.fab, objWorkKey, State.obj]
  have htiles : objTiles t = objTiles s := funext fun o => by rw [objTiles, State.obj, hobjs, objTiles, State.obj]
  rw [holderOf, hobjx, hworks, hkey, htiles, holderOf]

theorem Presented.noDefer_eq : noDefer t = noDefer s := noDefer_of_view h.view
theorem Presented.pageStatus_eq : pageStatus t = pageStatus s := pageStatus_of_view h.view

theorem Presented.moverStatus_eq (src dst n : Nat) : moverStatus t src dst n = moverStatus s src dst n := by
  rw [moverStatus, h.pageStatus_eq, moverStatus]

end

/-! ## A copy that nothing holds -/

/-- A range's bytes stand at another place, and every other byte is as it was. -/
def Copied (s t : State) (src dst n : Nat) : Prop := readBytes t dst n = readBytes s src n ∧ KeepsOutside dst n s t

theorem Copied.of_mem {src dst n : Nat} (h : Copied s t src dst n) (hmem : u.mem = t.mem) : Copied s u src dst n :=
  ⟨by rw [Sys2Proof.Fabric.readBytes_of_mem hmem]; exact h.1, fun j hj => by rw [Sys2Proof.Fabric.memByte_of_mem hmem]; exact h.2 j hj⟩

theorem Copied.from {src dst n : Nat} (h : Copied t u src dst n) (hmem : t.mem = s.mem) : Copied s u src dst n :=
  ⟨by rw [h.1, Sys2Proof.Fabric.readBytes_of_mem hmem], fun j hj => by rw [h.2 j hj, Sys2Proof.Fabric.memByte_of_mem hmem]⟩

/-- What a mover's access leaves of pages' buffers and of the objects that hold writes. -/
structure Moved (s t : State) : Prop where
  only : OnlyChanges [.mem, .wordErr, .dirty, .bank, .objx, .ingots, .hm] s t
  view : KeepsIngots slotView s t
  holds : HoldsNoMore s t

theorem Presented.moved (h : Presented s t) : Moved s t :=
  ⟨only_step h.only (by decide) (only_refl _ s), h.view, holdsNoMore_of_only h.only (by decide)⟩

theorem Moved.trans (h : Moved s t) (h' : Moved t u) : Moved s u :=
  ⟨only_step h'.only rfl h.only, h.view.trans h'.view, h.holds.trans h'.holds⟩

theorem Moved.holderOf_none (h : Moved s t) {k n : Nat} (hfree : holderOf s k n = none) : holderOf t k n = none :=
  h.holds.holderOf_none hfree (Nat.le_refl k) (Nat.le_refl _)

theorem copyMem_moved (s : State) (src dst n : Nat) (hfree : holderOf s dst n = none) : Moved s (copyMem s src dst n) := by
  have honly := copyMem_only s src dst n
  refine ⟨only_step honly (by decide) (only_refl _ s), keepsIngots_of_only honly (by decide), ?_⟩
  rw [copyMem, hfree]
  exact HoldsNoMore.trans (t := { s with mem := memCopy s.mem src dst n, wordErr := freshWords s.wordErr dst n, dirty := dirtyMark s.dirty dst n })
    ⟨fun _ => id, fun _ => rfl, rfl⟩ (markMoves_holds _ dst n)

theorem writeMem_moved {k : Nat} {bs : List Byte} (hfree : holderOf s k bs.length = none) : Moved s (writeMem s k bs) := by
  have honly := writeMem_only s k bs
  exact ⟨only_step honly (by decide) (only_refl _ s), keepsIngots_of_only honly (by decide), (writeMem_wrote hfree).holds⟩

/-- A mover copies at once between ranges whose pages are reached, defer nothing, and are held by no MOVE or DROP. -/
theorem moverCopy_copied (who : Nat × Nat) {src dst n : Nat} (hst : moverStatus s src dst n = St.ok) (hsrc : noDefer s src n = true)
    (hdst : noDefer s dst n = true) (hfree : holderOf s dst n = none) (hmem : MemOk s) :
    Copied s (moverCopy s who src dst n) src dst n ∧ Moved s (moverCopy s who src dst n) := by
  have hpush := (pushGrants_presented s who src n false).trans (pushGrants_presented _ who dst n true)
  rw [moverCopy, if_neg (by simp [hst])]
  extract_lets u
  have hu : Presented s u := hpush
  rw [hu.noDefer_eq, hsrc, hdst, Bool.and_self, if_pos rfl]
  have hfree' : holderOf u dst n = none := by rw [hu.holderOf_eq]; exact hfree
  have hcopied : Copied u (copyMem u src dst n) src dst n := Mirrors.copyMem_copies (by rw [MemOk, hu.mem]; exact hmem) hfree'
  exact ⟨hcopied.from hu.mem, hu.moved.trans (copyMem_moved u src dst n hfree')⟩

/-- A mover writes at once to a range whose pages are reached, defer nothing, and are held by no MOVE or DROP. -/
theorem moverWrite_wrote (who : Nat × Nat) {dst : Nat} {bs : List Byte} (hst : pageStatus s dst bs.length = St.ok)
    (hdst : noDefer s dst bs.length = true) (hfree : holderOf s dst bs.length = none) :
    Holds (moverWrite s who dst bs) dst bs s ∧ Moved s (moverWrite s who dst bs) := by
  have hpush := pushGrants_presented s who dst bs.length true
  rw [moverWrite, if_neg (by simp [hst])]
  extract_lets u
  have hu : Presented s u := hpush
  rw [hu.noDefer_eq, hdst, if_pos rfl]
  have hfree' : holderOf u dst bs.length = none := by rw [hu.holderOf_eq]; exact hfree
  refine ⟨fun j => ?_, hu.moved.trans (writeMem_moved hfree')⟩
  rw [(writeMem_wrote hfree').bytes j, Sys2Proof.Fabric.memByte_of_mem hu.mem]

theorem readBytes_of_holds {k : Nat} {bs : List Byte} (h : Holds t k bs s) : readBytes t k bs.length = bs := by
  refine map_range_eq_of_getD rfl fun i hi => ?_
  rw [h, if_pos (by omega), Nat.add_sub_cancel_left]

theorem memByte_of_holds {k : Nat} {bs : List Byte} (h : Holds t k bs s) {j : Nat} (hj : j < k ∨ k + bs.length ≤ j) :
    memByte t j = memByte s j := by
  rw [h, if_neg (by omega)]

/-! ## What a request to another chip leaves of the bindings -/

/-- A binding but for the turn's entries, its copies under way and its counters. -/
def steady (x : Bind) : Bind := { x with turn := [], flushes := [], seeds := [], tails := [], ctr := [] }

/-- Every binding is as it was but for its turn's entries, its copies under way and its counters. -/
structure Steady (s t : State) : Prop where
  same : ∀ k, steady (t.bind k) = steady (s.bind k)

theorem steady_refl (s : State) : Steady s s := ⟨fun _ => rfl⟩

theorem steady_step (h' : Steady t u) (h : Steady s t) : Steady s u := ⟨fun k => (h'.same k).trans (h.same k)⟩

theorem steady_of_only {l : List Part} (h : OnlyChanges l s t) (hl : Part.binds ∉ l) : Steady s t := by
  refine ⟨fun k => ?_⟩
  have hbinds : t.binds = s.binds := h.same .binds hl
  rw [State.bind, hbinds, State.bind]

theorem steady_updBind (s : State) (b : Nat) {f : Bind → Bind} (h : ∀ x, steady (f x) = steady x) : Steady s (s.updBind b f) := by
  refine ⟨fun k => ?_⟩
  by_cases hk : k = b
  · subst hk
    rw [State.updBind, setBind_bind, h]
  · rw [State.updBind, setBind_bind_other _ _ _ _ hk]

theorem steady_foldl {α : Type} {f : State → α → State} {l : List α} (h1 : Steady s t) (h : ∀ y a, Steady s y → Steady s (f y a)) :
    Steady s (l.foldl f t) := by
  induction l generalizing t with
  | nil => exact h1
  | cons a l ih => exact ih (h t a h1)

theorem countTier_steady (s : State) (b slot : Nat) : Steady s (countTier s b slot) := by
  unfold countTier
  split
  · exact steady_refl s
  · exact steady_step (steady_updBind _ b fun _ => rfl) (steady_of_only (state_updRx_only ..) (by decide))

theorem failServed_steady (s : State) (b en status : Nat) : Steady s (failServed s b en status) := by
  unfold failServed
  split
  · exact steady_refl s
  · split
    · exact steady_refl s
    · extract_lets d u
      have hu : Steady s u := steady_updBind s b fun _ => rfl
      split
      · exact steady_step (countTier_steady ..) hu
      · exact hu

theorem jobFail_steady (s : State) (j : Job) (status : Nat) : Steady s (jobFail s j status) := by
  unfold jobFail
  split
  · exact failServed_steady ..
  · exact steady_of_only (failTile_only ..) (by decide)
  · exact steady_of_only (state_updRx_only ..) (by decide)
  · exact steady_of_only (state_updRx_only ..) (by decide)
  · exact steady_updBind _ _ fun _ => rfl
  · exact steady_of_only (set_bank_only ..) (by decide)

theorem completeReq_steady (s : State) (r : FabReq) (status : Nat) (data : List Byte) : Steady s (completeReq s r status data) := by
  unfold completeReq
  extract_lets fences f u v
  have hu : Steady s u := steady_of_only (set_fab_only s _) (by decide)
  have hv : Steady s v := by
    unfold v
    split
    · split
      · exact hu
      · exact steady_step (steady_of_only (lostTiles_only ..) (by decide)) hu
    · split
      · exact steady_step (steady_of_only (jobDone_only ..) (by decide)) hu
      · exact steady_step (jobFail_steady ..) hu
  exact steady_step (steady_of_only (settleFences_only _) (by decide)) (steady_step (steady_of_only (state_emit_only ..) (by decide)) hv)

theorem dropPacket_steady (s : State) (port : Nat) (p : Packet) (status : Nat) : Steady s (dropPacket s port p status) := by
  have hcount : Steady s (countNoroute s port p) := steady_of_only (countNoroute_only ..) (by decide)
  unfold dropPacket
  extract_lets u
  split
  · split
    · exact steady_step (completeReq_steady ..) hcount
    · exact hcount
  · exact steady_step (steady_of_only (answer_only ..) (by decide)) hcount

theorem admitBulk_steady (s : State) (d : Nat) : Steady s (admitBulk s d) := by
  unfold admitBulk
  split
  · exact steady_refl s
  · split
    · exact steady_refl s
    · extract_lets u
      have hu : Steady s u := steady_of_only (setBulkStage_only ..) (by decide)
      split
      · exact steady_step (steady_of_only (queuePacket_only ..) (by decide)) hu
      · exact steady_step (dropPacket_steady ..) hu

theorem launchPacket_steady (s : State) (out : Nat) (p : Packet) : Steady s (launchPacket s out p) := by
  unfold launchPacket
  split
  · exact steady_step (admitBulk_steady ..) (steady_of_only (stagePacket_only ..) (by decide))
  · exact steady_of_only (queuePacket_only ..) (by decide)

theorem launch_steady (s : State) (h : HeldReq) : Steady s (launch s h) := by
  unfold launch
  extract_lets q r f u v
  have hu : Steady s u := by
    unfold u
    split
    · exact steady_of_only (set_fab_only s _) (by decide)
    · exact steady_refl s
  split
  · exact steady_step (launchPacket_steady ..) hu
  · have hv := steady_step (steady_of_only (countNoroute_only u 6 h.pkt) (by decide)) hu
    split
    · exact steady_step (completeReq_steady ..) hv
    · exact hv

theorem issueAs_steady (s : State) (serves : Option Job) (tracked : Bool) (span unit dest cls seat : Nat) (posted : Bool)
    (dst left : Nat) (mk : List (Fld × Nat)) (payload : BitVec 4096) :
    Steady s (issueAs s serves tracked span unit dest cls seat posted dst left mk payload) := by
  unfold issueAs
  extract_lets n p h f u
  have hu : Steady s u := steady_of_only (set_fab_only s _) (by decide)
  split
  · exact steady_step (launch_steady ..) hu
  · exact steady_step (steady_of_only (set_fab_only u _) (by decide)) hu

end Sys2Proof.Movers
end

section
/-! Phases of a turn up to Commit: slot grant, Gather, Layers' end, Sample's end (R33, R35, R36, R39, R41). -/

namespace Sys2Proof.Phases

open Sys2Proof Sys2Proof.Machine Sys2Proof.Laws Sys2Proof.Pins Sys2Proof.Lasting Sys2Proof.MailboxService Sys2Proof.Stores

variable {s t u : State} {b : Nat}

/-! ## A binding's turn block -/

theorem bind_updBind (s : State) (b : Nat) (f : Bind → Bind) : (s.updBind b f).bind b = f (s.bind b) := setBind_bind ..

theorem bind_updBind_other (s : State) (b : Nat) (f : Bind → Bind) {k : Nat} (h : k ≠ b) : (s.updBind b f).bind k = s.bind k :=
  setBind_bind_other _ _ _ _ h

theorem bind_of_binds (h : t.binds = s.binds) (k : Nat) : t.bind k = s.bind k := by rw [State.bind, h, State.bind]

theorem bind_setPhase (s : State) (b : Nat) (l : List (Fld × Nat)) :
    (setPhase s b l).bind b = { s.bind b with blk := setAll (s.bind b).blk l } := bind_updBind ..

theorem bind_setPhase_other (s : State) (b : Nat) (l : List (Fld × Nat)) {k : Nat} (h : k ≠ b) : (setPhase s b l).bind k = s.bind k :=
  bind_updBind_other s b _ h

theorem phase_setPhase (s : State) (b v : Nat) (hv : v < 8) : bPhase ((setPhase s b [(LTurnBlk.PHASE, v)]).bind b) = v := by
  rw [bind_setPhase]
  refine (get_setAll_cons _ _ (by decide) (by simp)).trans (Nat.mod_eq_of_lt ?_)
  simpa [LTurnBlk.PHASE] using hv

theorem idleBlk_phase (w : BitVec 192) : LTurnBlk.PHASE.get (idleBlk w) = 0 := by
  refine (get_setAll_cons w 0 (f := LTurnBlk.PHASE) (by decide) ?_).trans (Nat.zero_mod _)
  simp [FieldsApart, LTurnBlk.PHASE, LTurnBlk.TOKENS, LTurnBlk.REQS, LTurnBlk.LAYER]

theorem idleBlk_faulted (w : BitVec 192) : LTurnBlk.FAULTED.get (idleBlk w) = LTurnBlk.FAULTED.get w := by
  refine get_setAll_apart w (f := LTurnBlk.FAULTED) ?_
  simp [FieldsApart, LTurnBlk.PHASE, LTurnBlk.TOKENS, LTurnBlk.REQS, LTurnBlk.LAYER, LTurnBlk.FAULTED]

/-! ## The slot's grant (R35, R36, R43) -/

/-- What a grant to another turn does to a binding whose lead-in has streamed. -/
def leadinLost (b n : Nat) (x : Bind) : Bind :=
  if n = b && LTurnBlk.PATH.get x.blk = 0 then { x with leadin := false }
  else { x with leadin := false, ctr := ctrAdd x.ctr BC.leadDiscard 1 }

/-- One pass over bindings, each of which is updated for itself. -/
theorem foldl_own_bind {f : State → Nat → State} {g : Nat → Bind → Bind}
    (h : ∀ s n k, (f s n).bind k = if k = n then g n (s.bind n) else s.bind k) {l : List Nat} (hl : l.Nodup) (s : State) (k : Nat) :
    (l.foldl f s).bind k = if k ∈ l then g k (s.bind k) else s.bind k := by
  induction l generalizing s with
  | nil => simp
  | cons n l ih =>
    obtain ⟨hn, htail⟩ := List.nodup_cons.mp hl
    rw [List.foldl_cons, ih htail, h]
    by_cases hk : k = n
    · subst hk
      simp [hn]
    · simp [hk]

theorem discardLeadins_bind (s : State) (b k : Nat) : (discardLeadins s b).bind k =
    if k < 16 ∧ (s.bind k).leadin = true then leadinLost b k (s.bind k) else s.bind k := by
  have hmem : (k ∈ (List.range 16).filter (fun n => (s.bind n).leadin)) ↔ k < 16 ∧ (s.bind k).leadin = true := by simp
  rw [discardLeadins, foldl_own_bind (g := leadinLost b) (fun s n k => ?_) (List.nodup_range.filter _) s k]
  · simp only [hmem]
  · by_cases hk : k = n
    · subst hk
      by_cases hkept : (decide (k = b) && decide (LTurnBlk.PATH.get (s.bind b).blk = 0)) = true
      · have hown := hkept
        simp only [Bool.and_eq_true, decide_eq_true_eq] at hown
        obtain ⟨rfl, hpath⟩ := hown
        simp [leadinLost, hpath, bind_updBind]
      · have hother : (decide (k = b) && decide (LTurnBlk.PATH.get (s.bind k).blk = 0)) = false := by
          by_cases hb : k = b
          · subst hb; simpa using hkept
          · simp [hb]
        rw [if_neg hkept, leadinLost, hother, if_pos rfl, State.countBind, bind_updBind, bind_updBind]
        rfl
    · rw [if_neg hk]
      split
      · exact bind_updBind_other _ _ _ hk
      · rw [State.countBind, bind_updBind_other _ _ _ hk, bind_updBind_other _ _ _ hk]

theorem leadinLost_leadin (b n : Nat) (x : Bind) : (leadinLost b n x).leadin = false := by
  rw [leadinLost]
  split <;> rfl

theorem leadinLost_blk (b n : Nat) (x : Bind) : (leadinLost b n x).blk = x.blk := by
  rw [leadinLost]
  split <;> rfl

theorem leadinLost_ctr {n : Nat} {x : Bind} (h : n ≠ b ∨ LTurnBlk.PATH.get x.blk = 1) :
    Tab.get (leadinLost b n x).ctr 0#64 BC.leadDiscard = Tab.get x.ctr 0#64 BC.leadDiscard + 1 := by
  have hcount : (decide (n = b) && decide (LTurnBlk.PATH.get x.blk = 0)) = false := by
    rcases h with h | h <;> simp [h]
  rw [leadinLost, hcount, if_neg Bool.false_ne_true]
  exact get_set_self ..

theorem discardLeadins_slot (s : State) (b : Nat) : (discardLeadins s b).slot = s.slot :=
  (discardLeadins_only s b).same .slot (by decide)

theorem slotGrant_gives {h l : Nat} (hrun : running .arith s = true) (hfree : s.slot.holder = none) (hdrained : s.slot.draining = none)
    (hgrant : slotGrant s = some (b, h, l)) : Runs .slotGrant s (fun t =>
      t.slot.holder = some b ∧ t.slot.ptrHigh = h ∧ t.slot.ptrLow = l ∧ bPhase (t.bind b) = 2 ∧
      (∀ k, k ≠ b → bPhase (t.bind k) = bPhase (s.bind k)) ∧ (∀ k, k < 16 → (t.bind k).leadin = false) ∧
      (∀ k, k < 16 → (s.bind k).leadin = true → k ≠ b ∨ LTurnBlk.PATH.get (s.bind b).blk = 1 →
        Tab.get (t.bind k).ctr 0#64 BC.leadDiscard = Tab.get (s.bind k).ctr 0#64 BC.leadDiscard + 1)) := by
  have hrow : exec .slotGrant s = execSlotGrant s := rfl
  refine runs_of_when (hrow.trans (by rw [execSlotGrant])) hrun (by simp [hfree, hdrained, hgrant]) ?_
  rw [hgrant]
  show _ ∧ _
  set v : State := { s with slot := { s.slot with holder := some b, ptrHigh := h, ptrLow := l, next := none } }
  have hbind : ∀ k, (discardLeadins v b).bind k = if k < 16 ∧ (s.bind k).leadin = true then leadinLost b k (s.bind k) else s.bind k :=
    discardLeadins_bind v b
  have hslot : (discardLeadins v b).slot = v.slot := discardLeadins_slot v b
  -- Neither the new phase nor the fetch limit of `b` touches a lead-in or a counter.
  have hkept : ∀ k (y : State) due, (((setPhase (y.updBind b (fun x => { x with fetchDue := due })) b [(LTurnBlk.PHASE, 2)]).bind k).leadin,
      ((setPhase (y.updBind b (fun x => { x with fetchDue := due })) b [(LTurnBlk.PHASE, 2)]).bind k).ctr) =
      ((y.bind k).leadin, (y.bind k).ctr) := fun k y due => by
    by_cases hk : k = b
    · subst hk
      rw [bind_setPhase, bind_updBind]
    · rw [bind_setPhase_other _ _ _ hk, bind_updBind_other _ _ _ hk]
  refine ⟨congrArg (·.holder) hslot, congrArg (·.ptrHigh) hslot, congrArg (·.ptrLow) hslot, phase_setPhase _ b 2 (by decide),
    fun k hk => ?_, fun k hk => ?_, fun k hk hlead hwho => ?_⟩
  · rw [bind_setPhase_other _ _ _ hk, bind_updBind_other _ _ _ hk, hbind]
    split
    · rw [bPhase, leadinLost_blk, bPhase]
    · rfl
  · rw [(Prod.mk.inj (hkept k _ _)).1, hbind]
    split
    · exact leadinLost_leadin ..
    · next hno => exact Bool.eq_false_iff.mpr fun hlead => hno ⟨hk, hlead⟩
  · rw [(Prod.mk.inj (hkept k _ _)).2, hbind, if_pos ⟨hk, hlead⟩]
    refine leadinLost_ctr ?_
    rcases hwho with hwho | hpath
    · exact .inl hwho
    · by_cases hb : k = b
      · subst hb; exact .inr hpath
      · exact .inl hb

/-! ## Gather's tables (R46, R207) -/

/-- Where a cluster's length table stands. -/
def tableKey (cl : Nat) : Nat := sramBase + cl * 0x4000000 + 0x1FFF000

/-- A length table's bytes. -/
def tableBytes (ents : List TEnt) : List Byte := ents.flatMap (fun e => bytesOf e.len.toNat 16)

theorem length_flatMap_of_forall {α β : Type} {f : α → List β} {n : Nat} (h : ∀ a, (f a).length = n) (l : List α) :
    (l.flatMap f).length = n * l.length := by
  induction l with
  | nil => simp
  | cons a l ih => rw [List.flatMap_cons, List.length_append, h, ih, List.length_cons]; ring

theorem length_tableBytes (ents : List TEnt) : (tableBytes ents).length = 16 * ents.length := by
  rw [tableBytes, length_flatMap_of_forall (n := 16)]
  exact fun e => length_bytesOf ..

/-- The row positions of a cluster. -/
def rowWords (ents : List TEnt) (f : TEnt → Nat → Nat) : List Byte :=
  (List.range 256).flatMap (fun m => match rowEntry ents m with
    | some e => bytesOf (f e (m - entRow e)) 4
    | none => bytesOf 0 4)

theorem length_rowWords (ents : List TEnt) (f : TEnt → Nat → Nat) : (rowWords ents f).length = 1024 := by
  rw [rowWords, length_flatMap_of_forall (n := 4)]
  · simp
  · intro m
    split <;> exact length_bytesOf ..

theorem writeTables_eq (s : State) (ents : List TEnt) (cl : Nat) : writeTables s ents cl =
    rawWrite (rawWrite s (tableKey cl) (tableBytes ents)) (sramBase + cl * 0x4000000 + 0x1F7E800)
      (rowWords ents logicalPos ++ rowWords ents (fun e i => entK e + i)) := rfl

theorem rawWrite_outside (s : State) {k j : Nat} {bs : List Byte} (h : j < k ∨ k + bs.length ≤ j) :
    memByte (rawWrite s k bs) j = memByte s j := get_memPut_other bs h

/-- A range that a write does not meet reads as before. -/
theorem readBytes_rawWrite_apart (s : State) {k j n : Nat} {bs : List Byte} (h : j + n ≤ k ∨ k + bs.length ≤ j) :
    readBytes (rawWrite s k bs) j n = readBytes s j n :=
  List.map_congr_left fun i hi => rawWrite_outside s (by have := List.mem_range.mp hi; omega)

theorem writeTables_own (s : State) (ents : List TEnt) (cl : Nat) :
    readBytes (writeTables s ents cl) (tableKey cl) (16 * ents.length) = tableBytes ents := by
  rw [writeTables_eq, readBytes_rawWrite_apart, ← length_tableBytes]
  · exact Mirrors.readBytes_rawWrite ..
  · rw [List.length_append, length_rowWords, length_rowWords, tableKey]
    omega

theorem writeTables_other (s : State) {ents : List TEnt} (hents : ents.length ≤ 256) {cl c : Nat} (h : cl ≠ c) :
    readBytes (writeTables s ents c) (tableKey cl) (16 * ents.length) = readBytes s (tableKey cl) (16 * ents.length) := by
  rw [writeTables_eq, readBytes_rawWrite_apart, readBytes_rawWrite_apart]
  · rw [length_tableBytes, tableKey, tableKey]
    omega
  · rw [List.length_append, length_rowWords, length_rowWords, tableKey]
    omega

theorem tables_written {ents : List TEnt} (hents : ents.length ≤ 256) {cl : Nat} {l : List Nat} (hcl : cl ∈ l) (s : State) :
    readBytes (l.foldl (fun s c => writeTables s ents c) s) (tableKey cl) (16 * ents.length) = tableBytes ents := by
  induction l using List.reverseRecOn with
  | nil => exact absurd hcl List.not_mem_nil
  | append_singleton l c ih =>
    rw [List.foldl_append, List.foldl_cons, List.foldl_nil]
    by_cases h : cl = c
    · subst h
      exact writeTables_own ..
    · rw [writeTables_other _ hents h]
      exact ih ((List.mem_append.mp hcl).resolve_right (by simpa using h))

theorem tables_only (ents : List TEnt) (l : List Nat) (s : State) :
    OnlyChanges [.mem, .wordErr, .dirty] s (l.foldl (fun s c => writeTables s ents c) s) :=
  only_foldl (only_refl _ s) fun y c hy => only_step (writeTables_only ..) (by decide) hy

/-- The tables are written from the turn's entries, which the writes leave. -/
theorem tables_of_bind (b : Nat) (l : List Nat) (s : State) : l.foldl (fun s c => writeTables s (s.bind b).turn c) s =
    l.foldl (fun s' c => writeTables s' (s.bind b).turn c) s := by
  induction l generalizing s with
  | nil => rfl
  | cons c l ih =>
    rw [List.foldl_cons, List.foldl_cons, ih, bind_of_binds ((writeTables_only ..).same .binds (by decide))]

/-- An entry as Gather leaves it. -/
def gathered (s : State) (e : TEnt) : TEnt := match queryTokens s e with
  | some l => { e with toks := l }
  | none => e.fail 1

theorem gathered_len (s : State) (e : TEnt) : (gathered s e).len = e.len := by
  rw [gathered]
  split
  · rfl
  · rw [TEnt.fail]
    split <;> rfl

theorem tableBytes_gathered (s : State) (l : List TEnt) : tableBytes (l.map (gathered s)) = tableBytes l := by
  rw [tableBytes, List.flatMap_map]
  simp only [gathered_len]
  rfl

/-- The turn of the binding after its query tokens have been read, where this device has its requests. -/
def gatherTurn (s : State) (b : Nat) : State :=
  if holdsRequests s b then s.updBind b (fun x => { x with turn := x.turn.map (gathered s) }) else s

/-- What Gather counts and brings into T0 before the tables are written. -/
def gatherRows (s : State) (b : Nat) : State :=
  embedRows (if holdsRequests s b then ((s.bind b).turn.filter (fun e => e.fault != 0)).foldl (fun s e => notePrompt s b e) s else s)

/-- What the engines begin a turn with. -/
def gatherFresh (s : State) : State := { s with
  clusters := [], cores := s.cores.map (fun e => (e.1, { e.2 with moved := 0, done := [] })), fab := { s.fab with collDone := [], placed := [] } }

theorem gatherDone_eq (s : State) (b : Nat) : gatherDone s b =
    let u := (List.range 32).foldl (fun s cl => writeTables s (s.bind b).turn cl) (gatherFresh (gatherRows (gatherTurn s b) b))
    setPhase (u.updBind b (fun x => { x with wrote := [] })) b [(LTurnBlk.PHASE, 3)] := rfl

theorem gatherRows_only (s : State) (b : Nat) :
    OnlyChanges [.mem, .wordErr, .dirty, .seats, .bank, .ingots, .free] s (gatherRows s b) := by
  refine only_step (embedRows_only _) (by decide) ?_
  split
  · exact only_foldl (only_refl _ s) fun y e hy => only_step (notePrompt_only ..) (by decide) hy
  · exact only_refl _ s

theorem gatherTurn_turn (s : State) (b : Nat) : ((gatherTurn s b).bind b).turn =
    if holdsRequests s b then (s.bind b).turn.map (gathered s) else (s.bind b).turn := by
  rw [gatherTurn]
  split
  · rw [bind_updBind]
  · rfl

theorem gatherDone_gives (hents : (s.bind b).turn.length ≤ 256) :
    bPhase ((gatherDone s b).bind b) = 3 ∧ (gatherDone s b).slot = s.slot ∧ (gatherDone s b).clusters = [] ∧
      ((gatherDone s b).bind b).wrote = [] ∧
      (∀ cl, cl < 32 → readBytes (gatherDone s b) (tableKey cl) (16 * (s.bind b).turn.length) = tableBytes (s.bind b).turn) ∧
      (holdsRequests s b = true → ((gatherDone s b).bind b).turn = (s.bind b).turn.map (gathered s)) := by
  have hrows := gatherRows_only (gatherTurn s b) b
  have hturn : ((gatherFresh (gatherRows (gatherTurn s b) b)).bind b).turn = ((gatherTurn s b).bind b).turn := by
    rw [bind_of_binds (t := gatherFresh _) (s := gatherTurn s b) (hrows.same .binds (by decide))]
  have hslot : (gatherTurn s b).slot = s.slot := by
    rw [gatherTurn]
    split <;> rfl
  rw [gatherDone_eq, tables_of_bind]
  generalize hv : gatherFresh (gatherRows (gatherTurn s b) b) = v at hturn
  have hvslot : v.slot = s.slot := by rw [← hv]; exact (hrows.same .slot (by decide)).trans hslot
  have hvclusters : v.clusters = [] := by rw [← hv]; rfl
  have htables := tables_only (v.bind b).turn (List.range 32) v
  have hlen : (v.bind b).turn.length = (s.bind b).turn.length := by
    rw [hturn, gatherTurn_turn]
    split
    · exact List.length_map ..
    · rfl
  have hbytes : tableBytes (v.bind b).turn = tableBytes (s.bind b).turn := by
    rw [hturn, gatherTurn_turn]
    split
    · exact tableBytes_gathered ..
    · rfl
  have hread : ∀ cl, cl < 32 → readBytes ((List.range 32).foldl (fun s' c => writeTables s' (v.bind b).turn c) v) (tableKey cl)
      (16 * (s.bind b).turn.length) = tableBytes (s.bind b).turn := fun cl hcl => by
    rw [← hlen, ← hbytes]
    exact tables_written (by rw [hlen]; exact hents) (List.mem_range.mpr hcl) v
  generalize (List.range 32).foldl (fun s' c => writeTables s' (v.bind b).turn c) v = w at htables hread
  have hwslot : w.slot = v.slot := htables.same .slot (by decide)
  have hwclusters : w.clusters = v.clusters := htables.same .clusters (by decide)
  refine ⟨phase_setPhase _ b 3 (by decide), hwslot.trans hvslot, hwclusters.trans hvclusters, by rw [bind_setPhase, bind_updBind],
    hread, fun hholds => ?_⟩
  rw [bind_setPhase, bind_updBind, bind_of_binds (htables.same .binds (by decide)), hturn, gatherTurn_turn, if_pos hholds]

theorem gatherComplete_runs {P : State → Prop} (hrun : running .arith s = true) (hb : holderIn s 2 = some b) (hseals : sealsOpen s b = false)
    (hP : P (if programRead s b = St.ok then gatherDone s b
      else abandonTurn (noteBad (s.noteWindow (s.bind b).seat (programRead s b)) (keyOf s (LBindRec.LPROG.get (s.bind b).brec))
        (128 * LBindRec.LPLEN.get (s.bind b).brec) 0 (s.bind b).seat (some b)) b)) : Runs .gatherComplete s P := by
  have hrow : exec .gatherComplete s = execGatherComplete s := rfl
  refine runs_of_when (hrow.trans (by rw [execGatherComplete])) hrun (by simp [hb, Option.filter, hseals]) ?_
  rw [hb]
  exact hP

theorem noteWindow_only (s : State) (n st : Nat) : OnlyChanges [.seats] s (s.noteWindow n st) := by
  unfold State.noteWindow
  split
  · exact state_countSeat_only ..
  · exact only_refl _ s

theorem inFlight_of_binds (h : t.binds = s.binds) (b : Nat) : inFlight t b = inFlight s b := by
  rw [inFlight, inFlight, bind_of_binds h]

theorem gatherComplete_abandons (hrun : running .arith s = true) (hb : holderIn s 2 = some b) (hseals : sealsOpen s b = false)
    (hread : programRead s b ≠ St.ok) : Runs .gatherComplete s (fun t => bFaulted (t.bind b) = true ∧ bPhase (t.bind b) = 6) := by
  refine gatherComplete_runs hrun hb hseals ?_
  rw [if_neg hread]
  have hsame : OnlyChanges [.seats, .bank, .ingots] s (noteBad (s.noteWindow (s.bind b).seat (programRead s b))
      (keyOf s (LBindRec.LPROG.get (s.bind b).brec)) (128 * LBindRec.LPLEN.get (s.bind b).brec) 0 (s.bind b).seat (some b)) :=
    only_step (noteBad_only ..) (by decide) (only_step (noteWindow_only ..) (by decide) (only_refl _ s))
  obtain ⟨hphase, hfault⟩ := abandonTurn_block ((inFlight_of_binds (hsame.same .binds (by decide)) b).trans
    (inFlight_of_holderIn hb (by decide) (by decide)))
  exact ⟨hfault, hphase⟩

theorem gatherComplete_gives (hrun : running .arith s = true) (hb : holderIn s 2 = some b) (hseals : sealsOpen s b = false)
    (hread : programRead s b = St.ok) (hents : (s.bind b).turn.length ≤ 256) : Runs .gatherComplete s (fun t =>
      bPhase (t.bind b) = 3 ∧ t.slot = s.slot ∧ t.clusters = [] ∧ (t.bind b).wrote = [] ∧
      (∀ cl, cl < 32 → readBytes t (tableKey cl) (16 * (s.bind b).turn.length) = tableBytes (s.bind b).turn) ∧
      (holdsRequests s b = true → (t.bind b).turn = (s.bind b).turn.map (gathered s))) := by
  refine gatherComplete_runs hrun hb hseals ?_
  rw [if_pos hread]
  exact gatherDone_gives hents

end Sys2Proof.Phases
end

section
/-! Phases of a turn: the end of Layers and of Sample, drained engines and re-reads (R33, R35, R39, R40, R54, R472). -/

namespace Sys2Proof.Phases

open Sys2Proof Sys2Proof.Machine Sys2Proof.Laws Sys2Proof.Pins Sys2Proof.Lasting Sys2Proof.MailboxService Sys2Proof.Stores

variable {s t u : State} {b : Nat}

/-! ## Layers and Sample end (R33, R35) -/

theorem sendJournal_quiet (s : State) (n : Nat) (l : List JournalItem) :
    OnlyChanges [.cores, .fab, .mirrors, .out, .free] s (sendJournal s n l) := by
  unfold sendJournal
  split
  · exact only_refl _ s
  · exact only_step (Mirrors.mirrorMessage_quiet ..) (by decide) (only_step (state_emit_only ..) (by decide) (only_refl _ s))

theorem dupRiser_quiet (s : State) (slot k n : Nat) : OnlyChanges [.cores, .fab, .mirrors, .out, .free] s (dupRiser s slot k n) := by
  unfold dupRiser
  split
  · exact sendJournal_quiet ..
  · exact only_refl _ s

theorem writeTokens_quiet (s : State) (b : Nat) (e : TEnt) :
    OnlyChanges [.mem, .wordErr, .dirty, .cores, .fab, .mirrors, .out, .free] s (writeTokens s b e) := by
  refine only_foldl (only_refl _ s) fun y i hy => ?_
  extract_lets p
  split
  · exact only_step (dupRiser_quiet ..) (by decide) (only_step (rawWrite_only ..) (by decide) hy)
  · exact hy

/-- The memory of the turn's tokens and logits. -/
def layersStored (s : State) (b : Nat) : State := storeLogits ((s.bind b).turn.foldl (fun s e => writeTokens s b e) s) b

theorem layersStored_only (s : State) (b : Nat) :
    OnlyChanges [.mem, .wordErr, .dirty, .cores, .fab, .mirrors, .out, .free] s (layersStored s b) :=
  only_step (storeLogits_only ..) (by decide) (only_foldl (only_refl _ s) fun _ _ hy => only_step (writeTokens_quiet ..) (by decide) hy)

/-- Sample begins: no sampled row has its token. -/
def sampling (s : State) (b : Nat) : State :=
  setPhase (s.updBind b (fun x => { x with turn := x.turn.map (fun e => { e with draws := (sampledRows e).map (fun _ => none) }) })) b
    [(LTurnBlk.PHASE, 4), (LTurnBlk.LAYER, 0)]

theorem layersComplete_runs {P : State → Prop} (hrun : running .arith s = true) (hb : holderIn s 3 = some b)
    (hidle : layersBusy s b = false) (hbegun : programBegun s b = true) (hP : P (sampling (layersStored s b) b)) :
    Runs .layersComplete s P := by
  have hrow : exec .layersComplete s = execLayersComplete s := rfl
  refine runs_of_when (hrow.trans (by rw [execLayersComplete])) hrun (by simp [hb, Option.filter, hidle, hbegun]) ?_
  rw [hb]
  exact hP

theorem sampling_block (s : State) (b : Nat) :
    bPhase ((sampling s b).bind b) = 4 ∧ LTurnBlk.LAYER.get ((sampling s b).bind b).blk = 0 ∧
      ((sampling s b).bind b).turn = (s.bind b).turn.map (fun e => { e with draws := (sampledRows e).map (fun _ => none) }) := by
  have hapart : ([(LTurnBlk.PHASE, 4), (LTurnBlk.LAYER, 0)].map (·.1)).Pairwise FieldsApart := by
    simp [FieldsApart, LTurnBlk.PHASE, LTurnBlk.LAYER]
  rw [sampling, bind_setPhase, bind_updBind]
  refine ⟨?_, ?_, rfl⟩
  · exact Sys2Proof.Fabric.get_setAll_of_mem _ (f := LTurnBlk.PHASE) (v := 4) (by simp) hapart (by decide)
  · exact Sys2Proof.Fabric.get_setAll_of_mem _ (f := LTurnBlk.LAYER) (v := 0) (by simp) hapart (by decide)

theorem layersComplete_gives (hrun : running .arith s = true) (hb : holderIn s 3 = some b) (hidle : layersBusy s b = false)
    (hbegun : programBegun s b = true) : Runs .layersComplete s (fun t =>
      bPhase (t.bind b) = 4 ∧ LTurnBlk.LAYER.get (t.bind b).blk = 0 ∧ t.slot = s.slot ∧
      (t.bind b).turn = (s.bind b).turn.map (fun e => { e with draws := (sampledRows e).map (fun _ => none) })) := by
  refine layersComplete_runs hrun hb hidle hbegun ?_
  have hstored := layersStored_only s b
  obtain ⟨hphase, hlayer, hturn⟩ := sampling_block (layersStored s b) b
  refine ⟨hphase, hlayer, hstored.same .slot (by decide), ?_⟩
  rw [hturn, bind_of_binds (hstored.same .binds (by decide))]

theorem settleSlot_kept (s : State) :
    (settleSlot s).slot.holder = s.slot.holder ∧ (settleSlot s).slot.draining = s.slot.draining := by
  unfold settleSlot
  split <;> exact ⟨rfl, rfl⟩

theorem sampleComplete_gives (hrun : running .arith s = true) (hb : holderIn s 4 = some b) (hdrawn : allDrawn (s.bind b) = true) :
    Runs .sampleComplete s (fun t => bPhase (t.bind b) = 5 ∧ t.slot.holder = none ∧ (t.bind b).turn = (s.bind b).turn ∧
      OnlyChanges [.binds, .slot] s t) := by
  have hrow : exec .sampleComplete s = execSampleComplete s := rfl
  refine runs_of_when (hrow.trans (by rw [execSampleComplete])) hrun (by simp [hb, Option.filter, hdrawn]) ?_
  rw [hb]
  show bPhase ((settleSlot (setPhase { s with slot := { s.slot with holder := none } } b _)).bind b) = 5 ∧ _
  set v : State := { s with slot := { s.slot with holder := none } }
  have hbinds : ∀ y : State, (settleSlot y).binds = y.binds := fun y => (settleSlot_only y).same .binds (by decide)
  refine ⟨?_, (settleSlot_kept _).1, ?_, ?_⟩
  · rw [bind_of_binds (hbinds _)]
    exact phase_setPhase v b 5 (by decide)
  · rw [bind_of_binds (hbinds _), bind_setPhase]
    rfl
  · exact only_step (settleSlot_only _) (by decide) (only_step (setPhase_only ..) (by decide)
      (only_step (set_slot_only s _) (by decide) (only_refl _ s)))

/-! ## An idle binding closes its next turn (R39, R40) -/

theorem returnAlloc_lasts (s : State) (slot turn : Nat) : Lasts s (returnAlloc s slot turn) := by
  refine lasts_foldl (lasts_refl s) fun y r hy => ?_
  split
  · exact hy
  · split
    · next v p i halloc =>
      exact lasts_step (lasts_of_only (state_updRx_only ..) (by decide)) (lasts_step (allocRun_lasts halloc) hy)
    · exact hy

theorem allocReturns_lasts (s : State) (b : Nat) : Lasts s (allocReturns s b) := by
  refine lasts_foldl (lasts_refl s) fun y n hy => ?_
  split
  · exact lasts_step (returnAlloc_lasts ..) hy
  · exact hy

theorem endExpired_lasts (s : State) (b : Nat) : Lasts s (endExpired s b) := by
  refine lasts_foldl (lasts_refl s) fun y n hy => ?_
  split
  · exact lasts_step (endNow_lasts ..) hy
  · exact hy

theorem endLimit_lasts (s : State) (b : Nat) : Lasts s (endLimit s b) := by
  refine lasts_foldl (lasts_refl s) fun y n hy => ?_
  split
  · exact lasts_step (endNow_lasts ..) hy
  · exact hy

theorem startSeed_lasts (s : State) (b : Nat) (e : TEnt) : Lasts s (startSeed s b e) := by
  unfold startSeed
  extract_lets slot
  split
  · exact lasts_updBind _ _ fun _ => rfl
  · exact lasts_refl s

theorem scatterTurn_lasts (s : State) (b : Nat) : Lasts s (scatterTurn s b) := by
  unfold scatterTurn
  split
  · exact toKids_lasts ..
  · exact lasts_refl s

/-- The turn block and the entries of a composition that closes. -/
def closedBlock (s : State) (b : Nat) (c : Comp) (ents : List TEnt) (neg : Bool) : State :=
  s.updBind b (fun x => { x with
    blk := setAll x.blk [(LTurnBlk.PHASE, 1), (LTurnBlk.PATH, b2n (pipPath x.brec (formTokens c.forms))),
      (LTurnBlk.TOKENS, formTokens c.forms), (LTurnBlk.REQS, ents.length), (LTurnBlk.LAYER, 0)],
    turn := ents, neg := neg, weightsRead := false, turnMoulds := x.moulds })

theorem closedBlock_phase (s : State) (b : Nat) (c : Comp) (ents : List TEnt) (neg : Bool) :
    bPhase ((closedBlock s b c ents neg).bind b) = 1 := by
  rw [closedBlock, bind_updBind]
  refine get_setAll_cons (s.bind b).blk 1 (f := LTurnBlk.PHASE) (by decide) ?_
  simp [FieldsApart, LTurnBlk.PHASE, LTurnBlk.PATH, LTurnBlk.TOKENS, LTurnBlk.REQS, LTurnBlk.LAYER]

/-- What follows in a close: the seeds' copies, the counters and the slot's next turn. -/
def closeCounted (s : State) (b : Nat) (ents : List TEnt) (neg : Bool) : State :=
  let s := (ents.foldl (fun s e => startSeed s b e) s).countBind b BC.closes 1
  settleSlot (if neg then s.countBind b BC.negSlack 1 else s)

theorem closeCounted_lasts (s : State) (b : Nat) (ents : List TEnt) (neg : Bool) : Lasts s (closeCounted s b ents neg) := by
  unfold closeCounted
  extract_lets u
  have hu : Lasts s u := lasts_step (lasts_countBind ..) (lasts_foldl (lasts_refl s) fun _ _ hy => lasts_step (startSeed_lasts ..) hy)
  refine lasts_step (lasts_of_only (settleSlot_only _) (by decide)) ?_
  split
  · exact lasts_step (lasts_countBind ..) hu
  · exact hu

/-- The composition of a close. -/
def composed (s : State) (b : Nat) : Comp :=
  composePasses (allocReturns ((bindSlots s b).foldl markExpired s) b) b
    (bTurn ((allocReturns ((bindSlots s b).foldl markExpired s) b).bind b) + 1)

/-- The requests of a composition hold their sets. -/
def composedHeld (s : State) (c : Comp) : State :=
  c.forms.foldl (fun s f => s.updRx f.cand.slot (fun x => { x with held := (f.sets.head?).map (·.2) })) s

theorem closeTurn_eq (hcomposes : composes s b = true) (hturn : bTurn (s.bind b) ≠ 2 ^ 64 - 1) : closeTurn s b =
    if (composed s b).forms.isEmpty then
      (endExpired (composed s b).s b).updBind b (fun x => { x with blk := idleBlk x.blk, turn := [] })
    else
      let v := noteBlocks (composed s b).s b
      let ents := lengthTable v 0 (composed s b).forms
      let neg := (composed s b).forms.any (negSlack (now v))
      closeCounted (closedBlock (composedHeld v (composed s b)) b (composed s b) ents neg) b ents neg := by
  rw [closeTurn, if_neg (by simp [hcomposes]), if_neg hturn]
  rfl

/-- The close of a binding's next turn leaves it COMPOSED, or IDLE where no request enters. -/
theorem closeTurn_phase (hidle : bPhase (s.bind b) = 0) : bPhase ((closeTurn s b).bind b) ≤ 1 := by
  cases hcomposes : composes s b with
  | false => rw [closeTurn, if_pos (by simp [hcomposes])]; omega
  | true =>
    by_cases hturn : bTurn (s.bind b) = 2 ^ 64 - 1
    · rw [closeTurn, if_neg (by simp [hcomposes]), if_pos hturn, (endLimit_lasts _ b).phase, bind_updBind, bPhase, idleBlk_phase]
      exact Nat.zero_le 1
    · rw [closeTurn_eq hcomposes hturn]
      split
      · rw [bind_updBind, bPhase, idleBlk_phase]
        exact Nat.zero_le 1
      · extract_lets v ents neg
        rw [(closeCounted_lasts ..).phase, closedBlock_phase]

theorem composed_only (s : State) (b : Nat) :
    OnlyChanges [.seats, .bank, .reqx, .stakes, .binds, .ingots] s (composed s b).s :=
  only_step (composePasses_only ..) (by decide) (only_step (allocReturns_only ..) (by decide)
    (only_foldl (only_refl _ s) fun _ _ hy => only_step (markExpired_only ..) (by decide) hy))

/-- What a close leaves of the engines and of the turn that drains. -/
structure Undrained (s t : State) : Prop where
  draining : t.slot.draining = s.slot.draining
  clusters : t.clusters = s.clusters
  engine : ∀ c, engineOf (t.core c) = engineOf (s.core c)

theorem Undrained.trans (h : Undrained s t) (h' : Undrained t u) : Undrained s u :=
  ⟨h'.draining.trans h.draining, h'.clusters.trans h.clusters, fun c => (h'.engine c).trans (h.engine c)⟩

theorem undrained_of_only {l : List Part} (h : OnlyChanges l s t) (hl : ∀ p ∈ [Part.slot, .clusters, .cores], p ∉ l) : Undrained s t := by
  have hslot : t.slot = s.slot := h.same .slot (hl _ (by decide))
  have hcores : t.cores = s.cores := h.same .cores (hl _ (by decide))
  exact ⟨by rw [hslot], h.same .clusters (hl _ (by decide)), fun c => by rw [State.core, hcores, State.core]⟩

theorem undrained_of_lasts {l : List Part} (h : Lasts s t) (honly : OnlyChanges l s t) (hl : ∀ p ∈ [Part.slot, .clusters], p ∉ l) :
    Undrained s t := by
  have hslot : t.slot = s.slot := honly.same .slot (hl _ (by decide))
  exact ⟨by rw [hslot], honly.same .clusters (hl _ (by decide)), h.engine⟩

theorem undrained_settleSlot (s : State) : Undrained s (settleSlot s) :=
  have hcores : (settleSlot s).cores = s.cores := (settleSlot_only s).same .cores (by decide)
  ⟨(settleSlot_kept s).2, (settleSlot_only s).same .clusters (by decide), fun c => by rw [State.core, hcores, State.core]⟩

theorem closeCounted_undrained (s : State) (b : Nat) (ents : List TEnt) (neg : Bool) : Undrained s (closeCounted s b ents neg) := by
  unfold closeCounted
  extract_lets u
  have hu : OnlyChanges [.binds] s u := only_step (state_countBind_only ..) (by decide)
    (only_foldl (only_refl _ s) fun _ _ hy => only_step (startSeed_only ..) (by decide) hy)
  refine (undrained_of_only (t := if neg then u.countBind b BC.negSlack 1 else u) (l := [.binds]) ?_ (by decide)).trans (undrained_settleSlot _)
  split
  · exact only_step (state_countBind_only ..) (by decide) hu
  · exact hu

theorem composedHeld_only (s : State) (c : Comp) : OnlyChanges [.reqx] s (composedHeld s c) :=
  only_foldl (only_refl _ s) fun _ _ hy => only_step (state_updRx_only ..) (by decide) hy

theorem closeTurn_undrained (s : State) (b : Nat) : Undrained s (closeTurn s b) := by
  have hsame : Undrained s s := undrained_of_only (only_refl [] s) (by decide)
  cases hcomposes : composes s b with
  | false => rw [closeTurn, if_pos (by simp [hcomposes])]; exact hsame
  | true =>
    by_cases hturn : bTurn (s.bind b) = 2 ^ 64 - 1
    · rw [closeTurn, if_neg (by simp [hcomposes]), if_pos hturn]
      exact (undrained_of_only (state_updBind_only ..) (by decide)).trans
        (undrained_of_lasts (endLimit_lasts ..) (endLimit_only ..) (by decide))
    · have hcomposed := undrained_of_only (composed_only s b) (by decide)
      rw [closeTurn_eq hcomposes hturn]
      split
      · exact hcomposed.trans ((undrained_of_lasts (endExpired_lasts ..) (endExpired_only ..) (by decide)).trans
          (undrained_of_only (state_updBind_only ..) (by decide)))
      · extract_lets v ents neg
        have hheld : Undrained v (composedHeld v (composed s b)) := undrained_of_only (composedHeld_only ..) (by decide)
        have hblock : Undrained (composedHeld v (composed s b)) (closedBlock (composedHeld v (composed s b)) b (composed s b) ents neg) :=
          undrained_of_only (state_updBind_only ..) (by decide)
        exact hcomposed.trans ((undrained_of_only (noteBlocks_only ..) (by decide)).trans
          (hheld.trans (hblock.trans (closeCounted_undrained ..))))

/-- At the end of a service an IDLE binding is IDLE or COMPOSED, and the engines are as they were (R39, R40). -/
theorem closeIdle_idle (hidle : bPhase (s.bind b) = 0) : bPhase ((closeIdle s b).bind b) ≤ 1 ∧ Undrained s (closeIdle s b) := by
  have hsame : Undrained s s := undrained_of_only (only_refl [] s) (by decide)
  unfold closeIdle
  extract_lets v
  have hv : Lasts s v ∧ Undrained s v := by
    unfold v
    split
    · exact ⟨allocReturns_lasts .., undrained_of_only (allocReturns_only ..) (by decide)⟩
    · exact ⟨lasts_refl s, hsame⟩
  have hphase : bPhase (v.bind b) = 0 := by rw [hv.1.phase, hidle]
  split
  · exact ⟨by omega, hv.2⟩
  · split
    · rw [(scatterTurn_lasts ..).phase]
      exact ⟨closeTurn_phase hphase, hv.2.trans ((closeTurn_undrained v b).trans
        (undrained_of_lasts (scatterTurn_lasts ..) (scatterTurn_only ..) (by decide)))⟩
    · have hdrop := dropReads_only v b
      rw [bind_of_binds (hdrop.same .binds (by decide))]
      exact ⟨by omega, hv.2.trans (undrained_of_only hdrop (by decide))⟩

/-! ## Drained engines (R54) -/

theorem releaseSlot_binds (s : State) (b : Nat) : (releaseSlot s b).binds = s.binds := (releaseSlot_only s b).same .binds (by decide)

/-- The cores without anything under way. -/
def clearedCores (s : State) : Tab Core := s.cores.map (fun e =>
  (e.1, { e.2 with run := none, split := none, haz := none, moves := [], done := [] }))

/-- The engines of a turn that held the slot have drained. -/
def drainedSlot (s : State) : State := { s with slot := { s.slot with draining := none }, clusters := [], cores := clearedCores s }

theorem releaseSlot_eq (s : State) (b : Nat) : releaseSlot s b = if s.slot.draining == some b then settleSlot (drainedSlot s) else s := rfl

theorem clearedCores_idle (s : State) (c : Nat) :
    (Tab.get (clearedCores s) Core.reset c).run = none ∧ (Tab.get (clearedCores s) Core.reset c).split = none := by
  rcases Intake.get_eq_or_mem (clearedCores s) Core.reset c with h | h
  · rw [h]
    exact ⟨rfl, rfl⟩
  · obtain ⟨e, -, he⟩ := List.mem_map.mp h
    rw [← (Prod.mk.inj he).2]
    exact ⟨rfl, rfl⟩

theorem releaseSlot_released (s : State) (b : Nat) : (releaseSlot s b).slot.draining ≠ some b ∧
    (s.slot.draining = some b → (releaseSlot s b).slot.draining = none ∧ (releaseSlot s b).clusters = [] ∧
      ∀ c, ((releaseSlot s b).core c).run = none ∧ ((releaseSlot s b).core c).split = none) := by
  rw [releaseSlot_eq]
  split
  · have hsettled := settleSlot_only (drainedSlot s)
    have hdrained : (settleSlot (drainedSlot s)).slot.draining = none := (settleSlot_kept _).2
    have hcores : (settleSlot (drainedSlot s)).cores = clearedCores s := hsettled.same .cores (by decide)
    refine ⟨by rw [hdrained]; simp, fun _ => ⟨hdrained, hsettled.same .clusters (by decide), fun c => ?_⟩⟩
    rw [State.core, hcores]
    exact clearedCores_idle s c
  · next h =>
    have hne : s.slot.draining ≠ some b := by simpa using h
    exact ⟨hne, fun h => absurd h hne⟩

/-- An abandoned turn has ended: its binding is idle, and the abandonment is counted. -/
def abandonEnded (s : State) (b : Nat) : State :=
  ((releaseSlot s b).updBind b (fun x => { x with blk := idleBlk x.blk })).countBind b BC.abandons 1

theorem abandonEnded_bind (s : State) (b : Nat) : (abandonEnded s b).bind b =
    { s.bind b with blk := idleBlk (s.bind b).blk, ctr := ctrAdd (s.bind b).ctr BC.abandons 1 } := by
  rw [abandonEnded, State.countBind, bind_updBind, bind_updBind, bind_of_binds (releaseSlot_binds s b)]

theorem abandonEnded_undrained (s : State) (b : Nat) : Undrained (releaseSlot s b) (abandonEnded s b) :=
  undrained_of_only (only_step (state_countBind_only ..) (by decide) (state_updBind_only ..)) (by decide)

/-- What the engines' drain leaves of the slot. -/
def Released (s t : State) (b : Nat) : Prop := t.slot.draining ≠ some b ∧
  (s.slot.draining = some b → t.clusters = [] ∧ ∀ c, (t.core c).run = none ∧ (t.core c).split = none)

theorem released_of_undrained (h : Undrained (releaseSlot s b) t) : Released s t b := by
  obtain ⟨hother, hown⟩ := releaseSlot_released s b
  refine ⟨by rw [h.draining]; exact hother, fun hdraining => ?_⟩
  obtain ⟨-, hclusters, hcores⟩ := hown hdraining
  refine ⟨h.clusters.trans hclusters, fun c => ?_⟩
  have hrun := congrArg Core.run (h.engine c)
  have hsplit := congrArg Core.split (h.engine c)
  exact ⟨hrun.trans (hcores c).1, hsplit.trans (hcores c).2⟩

theorem enginesDrained_runs {P : State → Prop} (hrun : running .arith s = true) (hphase : bPhase (s.bind b) = 6)
    (hP : P (if bFaulted ((abandonEnded s b).bind b) then abandonEnded s b else closeIdle (abandonEnded s b) b)) :
    Runs (.enginesDrained b) s P := by
  have hrow : exec (.enginesDrained b) s = execEnginesDrained b s := rfl
  refine runs_of_when (hrow.trans (by rw [execEnginesDrained])) hrun (by simp [hphase]) ?_
  rw [if_pos hphase]
  exact hP

theorem enginesDrained_abandoned (hrun : running .arith s = true) (hphase : bPhase (s.bind b) = 6) : Runs (.enginesDrained b) s (fun t =>
      t.slot.draining ≠ some b ∧ (s.slot.draining = some b → t.clusters = [] ∧ ∀ c, (t.core c).run = none ∧ (t.core c).split = none) ∧
      (bFaulted (s.bind b) = true → bPhase (t.bind b) = 0 ∧ bFaulted (t.bind b) = true ∧
        Tab.get (t.bind b).ctr 0#64 BC.abandons = Tab.get (s.bind b).ctr 0#64 BC.abandons + 1) ∧
      (bFaulted (s.bind b) = false → bPhase (t.bind b) ≤ 1)) := by
  refine enginesDrained_runs hrun hphase ?_
  have hbind := abandonEnded_bind s b
  have hidle : bPhase ((abandonEnded s b).bind b) = 0 := by rw [hbind, bPhase, idleBlk_phase]
  have hfault : bFaulted ((abandonEnded s b).bind b) = bFaulted (s.bind b) := by
    rw [hbind, bFaulted, Fld.on, idleBlk_faulted, bFaulted, Fld.on]
  have hends := abandonEnded_undrained s b
  obtain ⟨hclosed, hkept⟩ := closeIdle_idle hidle
  cases hf : bFaulted (s.bind b) with
  | true =>
    rw [hfault, hf, if_pos rfl]
    obtain ⟨hother, hown⟩ := released_of_undrained hends
    refine ⟨hother, hown, fun _ => ⟨hidle, by rw [hfault, hf], ?_⟩, fun h => absurd h (by decide)⟩
    rw [hbind]
    exact get_set_self ..
  | false =>
    rw [hfault, hf, if_neg Bool.false_ne_true]
    obtain ⟨hother, hown⟩ := released_of_undrained (hends.trans hkept)
    exact ⟨hother, hown, fun h => absurd h (by decide), fun _ => hclosed⟩

theorem enginesDrained_unbound (hrun : running .arith s = true) (hphase : bPhase (s.bind b) ≠ 6) (hdrains : s.slot.draining = some b) :
    Runs (.enginesDrained b) s (fun t => t.slot.draining = none ∧ t.binds = s.binds ∧ t.clusters = []) := by
  have hrow : exec (.enginesDrained b) s = execEnginesDrained b s := rfl
  refine runs_of_when (hrow.trans (by rw [execEnginesDrained])) hrun (by simp [hdrains]) ?_
  rw [if_neg hphase]
  obtain ⟨hnone, hclusters, -⟩ := (releaseSlot_released s b).2 hdrains
  exact ⟨hnone, releaseSlot_binds s b, hclusters⟩

/-! ## Re-reads (R472) and the provisional composition (R39) -/

/-- What a re-read counts and logs. -/
def rereadNoted (s : State) (b ingot off seat : Nat) (ok : Bool) : State :=
  logError (s.countIngot ingot (if ok then 0x130 else 0x138) 1) (devAddr (s.countIngot ingot (if ok then 0x130 else 0x138) 1)
    (ingot * ingotSize + off)) 1 (if LTurnBlk.PATH.get (s.bind b).blk = 1 then 1 else 4) seat (some b) ok

theorem rereadNoted_only (s : State) (b ingot off seat : Nat) (ok : Bool) :
    OnlyChanges [.ingots, .bank] s (rereadNoted s b ingot off seat ok) :=
  only_step (logError_only ..) (by decide) (only_step (state_countIngot_only ..) (by decide) (only_refl _ s))

theorem weightReread_runs {ingot off seat : Nat} {ok : Bool} {P : State → Prop} (hrun : running .arith s = true)
    (hflight : inFlight s b = true) (hi : ingot < 16) (hoff : off < ingotSize)
    (hP : P (if ok then { rereadNoted s b ingot off seat ok with
        wordErr := (rereadNoted s b ingot off seat ok).wordErr.filter (fun x => !overlaps (x.1 * 8) 8
          ((ingot * ingotSize + off) / 16384 * 16384) 16384) }
      else abandonTurn (rereadNoted s b ingot off seat ok) b)) : Runs (.weightReread b ingot off seat ok) s P := by
  have hrow : exec (.weightReread b ingot off seat ok) s = execWeightReread b ingot off seat ok s := rfl
  exact runs_of_when (hrow.trans (by rw [execWeightReread])) hrun (by simp [hflight, hi, hoff]) hP

theorem weightReread_gives {ingot off seat : Nat} (hrun : running .arith s = true) (hflight : inFlight s b = true) (hi : ingot < 16)
    (hoff : off < ingotSize) :
    Runs (.weightReread b ingot off seat true) s (fun t => t.binds = s.binds ∧ t.mem = s.mem ∧
      t.bank.errLog.length = s.bank.errLog.length + 1 ∧
      Tab.get (t.ingot ingot).ctr 0#64 0x130 = Tab.get (s.ingot ingot).ctr 0#64 0x130 + 1) ∧
    Runs (.weightReread b ingot off seat false) s (fun t => bFaulted (t.bind b) = true ∧ bPhase (t.bind b) = 6) := by
  constructor
  · refine weightReread_runs hrun hflight hi hoff ?_
    rw [if_pos rfl]
    have hnoted := rereadNoted_only s b ingot off seat true
    refine ⟨hnoted.same .binds (by decide), hnoted.same .mem (by decide), List.length_append .., ?_⟩
    show Tab.get ((s.countIngot ingot 0x130 1).ingot ingot).ctr 0#64 0x130 = _
    rw [State.countIngot, Lanes.ingot_updIngot_self, ctrAdd, get_set_self]
    rfl
  · refine weightReread_runs hrun hflight hi hoff ?_
    rw [if_neg Bool.false_ne_true]
    obtain ⟨hphase, hfault⟩ := abandonTurn_block
      ((inFlight_of_binds ((rereadNoted_only s b ingot off seat false).same .binds (by decide)) b).trans hflight)
    exact ⟨hfault, hphase⟩

theorem provisionalCompose_gives (hrun : running .banker s = true) (hcomposes : composes s b = true) (hphase : bPhase (s.bind b) = 3) :
    Runs (.provisionalCompose b) s (fun t =>
      let forms := (composePasses s b (bTurn (s.bind b) + 2)).forms
      (t.bind b).prov = (if forms.isEmpty then 0
        else if formTokens forms ≤ LBindRec.PIP_TOKENS.get (s.bind b).brec then 2 else 1) ∧
      (t.bind b).blk = (s.bind b).blk ∧ (∀ k, k ≠ b → t.bind k = s.bind k) ∧ OnlyChanges [.binds] s t) := by
  have hrow : exec (.provisionalCompose b) s = execProvisionalCompose b s := rfl
  refine runs_of_when (hrow.trans (by rw [execProvisionalCompose])) hrun (by simp [hcomposes, hphase]) ?_
  refine ⟨?_, by rw [bind_updBind], fun k hk => bind_updBind_other _ _ _ hk, state_updBind_only ..⟩
  rw [bind_updBind]
  simp only [pipPath, decide_eq_true_eq]

end Sys2Proof.Phases
end

section
/-! The lead-in of a binding's next turn (R43), and the phases of a turn up to Commit. -/

namespace Sys2Proof.Phases

open Sys2Proof Sys2Proof.Machine Sys2Proof.Laws Sys2Proof.Pins Sys2Proof.Lasting Sys2Proof.Movers

variable {s t u : State} {b : Nat}

/-! ## The binding that a lead-in is for -/

/-- A binding but for what a lead-in notes of it. -/
def leadless (x : Bind) : Bind := { x with weightsRead := false, leadin := false }

/-- Nothing but lead-ins has been noted. -/
structure LeadNoted (s t : State) : Prop where
  only : OnlyChanges [.binds] s t
  same : ∀ k, leadless (t.bind k) = leadless (s.bind k)

theorem leadNoted_updBind (s : State) (b : Nat) {f : Bind → Bind} (h : ∀ x, leadless (f x) = leadless x) : LeadNoted s (s.updBind b f) := by
  refine ⟨state_updBind_only .., fun k => ?_⟩
  by_cases hk : k = b
  · subst hk
    rw [bind_updBind, h]
  · rw [bind_updBind_other _ _ _ hk]

theorem LeadNoted.trans (h : LeadNoted s t) (h' : LeadNoted t u) : LeadNoted s u :=
  ⟨only_step h'.only (by decide) h.only, fun k => (h'.same k).trans (h.same k)⟩

section
variable (h : LeadNoted s t)
include h

theorem LeadNoted.fab : t.fab = s.fab := h.only.same .fab (by decide)
theorem LeadNoted.mem : t.mem = s.mem := h.only.same .mem (by decide)
theorem LeadNoted.slot : t.slot = s.slot := h.only.same .slot (by decide)
theorem LeadNoted.blk (k : Nat) : (t.bind k).blk = (s.bind k).blk := by have hk := congrArg Bind.blk (h.same k); exact hk
theorem LeadNoted.brec (k : Nat) : (t.bind k).brec = (s.bind k).brec := by have hk := congrArg Bind.brec (h.same k); exact hk
theorem LeadNoted.neg (k : Nat) : (t.bind k).neg = (s.bind k).neg := by have hk := congrArg Bind.neg (h.same k); exact hk
theorem LeadNoted.prov (k : Nat) : (t.bind k).prov = (s.bind k).prov := by have hk := congrArg Bind.prov (h.same k); exact hk
theorem LeadNoted.seat (k : Nat) : (t.bind k).seat = (s.bind k).seat := by have hk := congrArg Bind.seat (h.same k); exact hk
theorem LeadNoted.leadArea (k : Nat) : (t.bind k).leadArea = (s.bind k).leadArea := by
  have hk := congrArg Bind.leadArea (h.same k)
  exact hk

theorem LeadNoted.slotGrant_eq : slotGrant t = slotGrant s := by
  have hwaits : waitsSlot t = waitsSlot s := funext fun high => funext fun k => by
    rw [waitsSlot, waitsSlot, bPhase, bPhase, bFaulted, bFaulted, h.blk, h.neg, sliceBinding, sliceBinding, sliceState, sliceState, h.fab]
  have hcands : slotCands t = slotCands s := funext fun high => funext fun k => by rw [slotCands, slotCands, hwaits, h.slot]
  rw [slotGrant, slotGrant, hcands, h.slot]

theorem LeadNoted.leadTarget_eq (b : Nat) : leadTarget t b = leadTarget s b := by
  rw [leadTarget, leadTarget, h.slotGrant_eq]
  simp only [h.blk, h.prov, h.brec]

theorem LeadNoted.leadKey_eq (k cl : Nat) : leadKey t k cl = leadKey s k cl := by
  rw [leadKey, leadKey, h.leadArea, h.brec]

end

/-! ## The tiles of a lead-in -/

section
variable (h : LeadNoted s t)
include h

theorem LeadNoted.loaded (k : Nat) : (t.bind k).loaded = (s.bind k).loaded := by have hk := congrArg Bind.loaded (h.same k); exact hk
theorem LeadNoted.logit (k : Nat) : (t.bind k).logit = (s.bind k).logit := by have hk := congrArg Bind.logit (h.same k); exact hk

theorem LeadNoted.ownedArea_eq : ownedArea t = ownedArea s := funext fun off => funext fun len => by
  have hbank : t.bank = s.bank := h.only.same .bank (by decide)
  simp only [ownedArea, hmFixed, loadedBinds, hbank, h.loaded, h.logit, h.brec]

theorem LeadNoted.moveStatus_eq : moveStatus t = moveStatus s := funext fun n => funext fun w => funext fun a => funext fun len => by
  have hplace : placeOf t = placeOf s := Vector.placeOf_of_fab h.fab
  have hwin : inWindows t = inWindows s := Vector.inWindows_of_same h.fab (h.only.same .seats (by decide))
  have haddr : addrStatus t a len = addrStatus s a len := by rw [addrStatus, addrStatus, hplace, haveChip, haveChip, h.fab]
  simp only [moveStatus, accessStatus, haddr, tierOf, inSeatFor, hplace, hwin, h.ownedArea_eq]

end

/-- A pass of which one step alone does anything. -/
theorem foldl_one {α : Type} {f : State → α → State} {c : α} {l : List α} (hc : c ∈ l) (hl : l.Nodup)
    (hrest : ∀ x ∈ l, x ≠ c → ∀ y, f y x = y) (s : State) : l.foldl f s = f s c := by
  have hnone : ∀ (l : List α) (s : State), (∀ x ∈ l, ∀ y, f y x = y) → l.foldl f s = s := fun l => by
    induction l with
    | nil => exact fun _ _ => rfl
    | cons a l ih =>
      intro s h
      rw [List.foldl_cons, h a List.mem_cons_self, ih s fun x hx => h x (List.mem_cons_of_mem a hx)]
  induction l generalizing s with
  | nil => exact absurd hc List.not_mem_nil
  | cons a l ih =>
    obtain ⟨ha, htail⟩ := List.nodup_cons.mp hl
    rw [List.foldl_cons]
    by_cases hac : a = c
    · subst hac
      exact hnone l _ fun x hx => hrest x (List.mem_cons_of_mem a hx) fun hxa => ha (hxa ▸ hx)
    · rw [hrest a List.mem_cons_self hac, ih ((List.mem_cons.mp hc).resolve_left (Ne.symm hac)) htail
        fun x hx => hrest x (List.mem_cons_of_mem a hx)]

theorem noteWindow_steady (s : State) (n st : Nat) : Steady s (s.noteWindow n st) := steady_of_only (noteWindow_only ..) (by decide)

theorem leadTile_steady (seat cl : Nat) (s : State) (src dst : Nat) : Steady s (leadTile seat cl s src dst) := by
  unfold leadTile
  extract_lets st
  split
  · exact noteWindow_steady ..
  · split
    · exact steady_of_only (countBad_only ..) (by decide)
    · split
      · exact issueAs_steady ..
      · exact steady_step (steady_of_only (moverCopy_only ..) (by decide)) (steady_of_only (noteCorr_only ..) (by decide))

theorem leadStream_steady (s : State) (n : Nat) : Steady s (leadStream s n) :=
  steady_foldl (steady_refl s) fun _ _ hy => steady_foldl hy fun _ _ hz => steady_step (leadTile_steady ..) hz

/-- A lead-in of one tile. -/
theorem leadStream_of_one {n cl a : Nat} (hcl : cl < 32) (htiles : leadTiles s n cl = [a])
    (hrest : ∀ c, c < 32 → c ≠ cl → leadTiles s n c = []) :
    leadStream s n = leadTile (s.bind n).seat cl s a (leadKey s n cl) := by
  rw [leadStream, foldl_one (List.mem_range.mpr hcl) List.nodup_range]
  · rw [htiles]
    simp
  · intro c hc hne y
    rw [hrest c (List.mem_range.mp hc) hne]
    rfl

/-- A tile that can be read, of this device or its companion, is copied at once where nothing holds it. -/
theorem leadTile_copied {seat cl src dst : Nat} (hst : moveStatus s seat false src 16384 = St.ok)
    (hgood : uncorrAt s (keyOf s src) 16384 = false) (hmem : MemOk s) (hsrc : noDefer s (keyOf s src) 16384 = true)
    (hdst : noDefer s dst 16384 = true) (hfree : holderOf s dst 16384 = none) (hnear : farAddr s src = false)
    (hmover : moverStatus s (keyOf s src) dst 16384 = St.ok) :
    Copied s (leadTile seat cl s src dst) (keyOf s src) dst 16384 := by
  have hcorr := noteCorr_presented s (keyOf s src) 16384 false
  have hmoved : Copied s (moverCopy (noteCorr s (keyOf s src) 16384 false) (2, cl) (keyOf s src) dst 16384) (keyOf s src) dst 16384 :=
    (moverCopy_copied (2, cl) (by rw [hcorr.moverStatus_eq]; exact hmover) (by rw [hcorr.noDefer_eq]; exact hsrc)
      (by rw [hcorr.noDefer_eq]; exact hdst) (by rw [hcorr.holderOf_eq]; exact hfree) (by rw [MemOk, hcorr.mem]; exact hmem)).1.from hcorr.mem
  rw [leadTile]
  simp only [hst, hgood, ne_eq, not_true_eq_false, if_false, Bool.false_eq_true]
  split
  · next f off hplace => simp [farAddr, hplace] at hnear
  · exact hmoved

/-! ## The row -/

/-- The holder's Layers has read its last weight tile. -/
def weightsNoted (s : State) (b : Nat) : State := s.updBind b (fun x => { x with weightsRead := true })

/-- The target's lead-in begins. -/
def leadBegun (s : State) (k : Nat) : State := s.updBind k (fun x => { x with leadin := true })

theorem weightsNoted_noted (s : State) (b : Nat) : LeadNoted s (weightsNoted s b) := leadNoted_updBind s b fun _ => rfl

theorem leadBegun_noted (s : State) (b k : Nat) : LeadNoted s (leadBegun (weightsNoted s b) k) :=
  (weightsNoted_noted s b).trans (leadNoted_updBind (weightsNoted s b) k fun _ => rfl)

theorem leadTiles_begun (s : State) (b k cl : Nat) : leadTiles (leadBegun (weightsNoted s b) k) k cl = leadTiles s k cl := by
  have hrecords : lpRecords (leadBegun (weightsNoted s b) k) = lpRecords s := rfl
  rw [leadTiles, leadTiles, (leadBegun_noted s b k).brec, hrecords]

theorem leadInStart_runs {P : State → Prop} (hrun : running .arith s = true) (hb : holderIn s 3 = some b)
    (hfirst : (s.bind b).weightsRead = false) (hread : tilesRead s b = true) (hnone : leadTarget s b = none → P (weightsNoted s b))
    (hsome : ∀ k, leadTarget s b = some k → P (leadStream (leadBegun (weightsNoted s b) k) k)) : Runs .leadInStart s P := by
  have hrow : exec .leadInStart s = execLeadInStart s := rfl
  refine runs_of_when (hrow.trans (by rw [execLeadInStart])) hrun (by simp [hb, Option.filter, hfirst, hread]) ?_
  rw [hb]
  show P (match leadTarget (weightsNoted s b) b with
    | some n => leadStream (leadBegun (weightsNoted s b) n) n
    | none => weightsNoted s b)
  have htarget : leadTarget (weightsNoted s b) b = leadTarget s b := (weightsNoted_noted s b).leadTarget_eq b
  rw [htarget]
  split
  · next k hk => exact hsome k hk
  · next hk => exact hnone hk

theorem weightsRead_of_steady (h : Steady s t) (k : Nat) : (t.bind k).weightsRead = (s.bind k).weightsRead := by
  have hk := congrArg Bind.weightsRead (h.same k)
  exact hk

theorem leadin_of_steady (h : Steady s t) (k : Nat) : (t.bind k).leadin = (s.bind k).leadin := by
  have hk := congrArg Bind.leadin (h.same k)
  exact hk

theorem weightsNoted_bind (s : State) (b k : Nat) : ((weightsNoted s b).bind k).leadin = (s.bind k).leadin := by
  by_cases hk : k = b
  · subst hk
    rw [weightsNoted, bind_updBind]
  · rw [weightsNoted, bind_updBind_other _ _ _ hk]

theorem leadBegun_bind (s : State) (b k : Nat) : ((leadBegun (weightsNoted s b) k).bind b).weightsRead = true ∧
    ((leadBegun (weightsNoted s b) k).bind k).leadin = true ∧
    ∀ j, j ≠ k → ((leadBegun (weightsNoted s b) k).bind j).leadin = (s.bind j).leadin := by
  refine ⟨?_, by rw [leadBegun, bind_updBind], fun j hj => by rw [leadBegun, bind_updBind_other _ _ _ hj, weightsNoted_bind]⟩
  by_cases hb : b = k
  · subst hb
    rw [leadBegun, bind_updBind, weightsNoted, bind_updBind]
  · rw [leadBegun, bind_updBind_other _ _ _ hb, weightsNoted, bind_updBind]

theorem leadStream_copied {k cl a : Nat} (hcl : cl < 32) (htiles : leadTiles s k cl = [a])
    (hrest : ∀ c, c < 32 → c ≠ cl → leadTiles s k c = []) (hst : moveStatus s (s.bind k).seat false a 16384 = St.ok)
    (hgood : uncorrAt s (keyOf s a) 16384 = false) (hmem : MemOk s) (hsrc : noDefer s (keyOf s a) 16384 = true)
    (hdst : noDefer s (leadKey s k cl) 16384 = true) (hfree : holderOf s (leadKey s k cl) 16384 = none) (hnear : farAddr s a = false)
    (hmover : moverStatus s (keyOf s a) (leadKey s k cl) 16384 = St.ok) :
    Copied s (leadStream (leadBegun (weightsNoted s b) k) k) (keyOf s a) (leadKey s k cl) 16384 := by
  have hnoted := leadBegun_noted s b k
  have hparts : noDefer (leadBegun (weightsNoted s b) k) = noDefer s ∧ holderOf (leadBegun (weightsNoted s b) k) = holderOf s ∧
      moverStatus (leadBegun (weightsNoted s b) k) = moverStatus s := ⟨rfl, rfl, rfl⟩
  obtain ⟨hdefer, hholder, hmoverEq⟩ := hparts
  have hkey : keyOf (leadBegun (weightsNoted s b) k) a = keyOf s a := Stores.keyOf_of_fab hnoted.fab a
  have huncorr : uncorrAt (leadBegun (weightsNoted s b) k) = uncorrAt s := Vector.uncorrAt_of_errs (hnoted.only.same .wordErr (by decide))
  have hfar : farAddr (leadBegun (weightsNoted s b) k) a = farAddr s a := by rw [farAddr, farAddr, Vector.placeOf_of_fab hnoted.fab]
  rw [leadStream_of_one hcl (by rw [leadTiles_begun, htiles]) (fun c hc hne => by rw [leadTiles_begun, hrest c hc hne]),
    hnoted.seat, hnoted.leadKey_eq]
  have hcopied := leadTile_copied (s := leadBegun (weightsNoted s b) k) (seat := (s.bind k).seat) (cl := cl) (src := a)
    (dst := leadKey s k cl) (by rw [hnoted.moveStatus_eq]; exact hst) (by rw [huncorr, hkey]; exact hgood)
    (by rw [MemOk, hnoted.mem]; exact hmem) (by rw [hdefer, hkey]; exact hsrc) (by rw [hdefer]; exact hdst)
    (by rw [hholder]; exact hfree) (by rw [hfar]; exact hnear) (by rw [hmoverEq, hkey]; exact hmover)
  rw [hkey] at hcopied
  exact hcopied.from hnoted.mem

theorem leadInStart_gives (hrun : running .arith s = true) (hb : holderIn s 3 = some b)
    (hfirst : (s.bind b).weightsRead = false) (hread : tilesRead s b = true) : Runs .leadInStart s (fun t =>
      (t.bind b).weightsRead = true ∧ (∀ k, leadTarget s b = some k → (t.bind k).leadin = true) ∧
      (∀ k, leadTarget s b ≠ some k → (t.bind k).leadin = (s.bind k).leadin) ∧
      (leadTarget s b = none → OnlyChanges [.binds] s t) ∧
      (∀ k, leadTarget s b = some k → ∀ cl a, cl < 32 → leadTiles s k cl = [a] → (∀ c, c < 32 → c ≠ cl → leadTiles s k c = []) →
        let d := leadKey s k cl
        moveStatus s (s.bind k).seat false a 16384 = St.ok → uncorrAt s (keyOf s a) 16384 = false → MemOk s →
        noDefer s (keyOf s a) 16384 = true → noDefer s d 16384 = true → holderOf s d 16384 = none → farAddr s a = false →
        moverStatus s (keyOf s a) d 16384 = St.ok → readBytes t d 16384 = readBytes s (keyOf s a) 16384 ∧ KeepsOutside d 16384 s t)) := by
  refine leadInStart_runs hrun hb hfirst hread (fun hnone => ?_) fun n hn => ?_
  · rw [hnone]
    exact ⟨by rw [weightsNoted, bind_updBind], fun k hk => absurd hk (by simp), fun k _ => weightsNoted_bind s b k,
      fun _ => state_updBind_only .., fun k hk => absurd hk (by simp)⟩
  · have hsteady := leadStream_steady (leadBegun (weightsNoted s b) n) n
    obtain ⟨hown, hlead, hothers⟩ := leadBegun_bind s b n
    rw [hn]
    refine ⟨(weightsRead_of_steady hsteady b).trans hown, fun k hk => ?_, fun k hk => ?_, fun hk => absurd hk (by simp), fun k hk => ?_⟩
    · obtain rfl := Option.some.inj hk
      exact (leadin_of_steady hsteady n).trans hlead
    · exact (leadin_of_steady hsteady k).trans (hothers k fun h => hk (h ▸ rfl))
    · obtain rfl := Option.some.inj hk
      intro cl a hcl htiles hrest d hst hgood hmem hsrc hdst hfree hnear hmover
      exact leadStream_copied hcl htiles hrest hst hgood hmem hsrc hdst hfree hnear hmover

/-- Settles O44, row by row: what precedes a phase's change in its row leaves the turn block, the entries and the slot as they were. -/
theorem turnPhasesFollowEachOther : Obligations.TurnPhasesFollowEachOther := by
  intro s b h l ingot off seat
  refine ⟨fun hrun => ⟨?_, ?_, ?_, ?_, ?_, ?_, ?_, ?_, ?_⟩, ?_⟩
  · exact slotGrant_gives hrun
  · exact gatherComplete_abandons hrun
  · exact gatherComplete_gives hrun
  · exact leadInStart_gives hrun
  · exact layersComplete_gives hrun
  · exact sampleComplete_gives hrun
  · exact enginesDrained_abandoned hrun
  · exact enginesDrained_unbound hrun
  · exact weightReread_gives hrun
  · exact provisionalCompose_gives

end Sys2Proof.Phases
end

section
/-! Arrival words and split reductions (R196, R197). -/

namespace Sys2Proof.Splits

open Sys2Proof Sys2Proof.Machine Sys2Proof.Laws Sys2Proof.Pins Sys2Proof.Lasting Sys2Proof.Movers Sys2Proof.Stores Sys2Proof.Phases

variable {s t u : State} {b c : Nat}

/-! ## Bits of a word (R331, R332) -/

theorem length_viewBytes (s : State) (k n : Nat) : (viewBytes s k n).length = n := by simp [viewBytes]

theorem noteArrival_only (s : State) (k old new' : Nat) : OnlyChanges [.fab] s (noteArrival s k old new') := by
  unfold noteArrival
  split
  · exact awaitBits_only ..
  · exact only_refl _ s

/-- A word whose page is reached, defers nothing and is held by no MOVE or DROP takes the bits at once. -/
theorem orWord_ors {k bits : Nat} (hbits : bits < 2 ^ 64) (hst : pageStatus s k 8 = St.ok) (hdefer : noDefer s k 8 = true)
    (hfree : holderOf s k 8 = none) :
    readNat (orWord s k bits) k 8 = readNat s k 8 ||| bits ∧ KeepsOutside k 8 s (orWord s k bits) := by
  have hold : ofBytes (viewBytes s k 8) = readNat s k 8 := by rw [Sys2Proof.Fabric.viewBytes_of_noDefer hdefer, readNat]
  have hlen : (bytesOf (readNat s k 8 ||| bits) 8).length = 8 := length_bytesOf ..
  have hsmall : readNat s k 8 ||| bits < 2 ^ 64 := Nat.or_lt_two_pow (Sys2Proof.Fabric.ofBytes_lt_of_length (length_readBytes ..)) hbits
  obtain ⟨hwrote, -⟩ := moverWrite_wrote (s := s) (2, 0) (dst := k) (bs := bytesOf (readNat s k 8 ||| bits) 8)
    (by rw [hlen]; exact hst) (by rw [hlen]; exact hdefer) (by rw [hlen]; exact hfree)
  have hmem : (orWord s k bits).mem = (moverWrite s (2, 0) k (bytesOf (readNat s k 8 ||| bits) 8)).mem := by
    rw [orWord, hold]
    exact (noteArrival_only ..).same .mem (by decide)
  have hread := readBytes_of_holds hwrote
  rw [hlen] at hread
  refine ⟨?_, fun j hj => ?_⟩
  · rw [readNat, Sys2Proof.Fabric.readBytes_of_mem hmem, hread, ofBytes_bytesOf]
    exact Nat.mod_eq_of_lt (hsmall.trans_eq (by norm_num))
  · rw [Sys2Proof.Fabric.memByte_of_mem hmem]
    exact memByte_of_holds hwrote (by rw [hlen]; exact hj)

/-- The bits of a list of places. -/
def bitsOf (l : List Nat) : Nat := l.foldl (fun n i => n ||| 2 ^ i) 0

theorem bitsOf_testBit (l : List Nat) (i : Nat) : (bitsOf l).testBit i = decide (i ∈ l) := by
  have hfrom : ∀ (l : List Nat) (n : Nat), (l.foldl (fun n i => n ||| 2 ^ i) n).testBit i = (n.testBit i || decide (i ∈ l)) := fun l => by
    induction l with
    | nil => simp
    | cons a l ih =>
      intro n
      rw [List.foldl_cons, ih, Nat.testBit_or, Nat.testBit_two_pow]
      by_cases ha : a = i
      · simp [ha]
      · simp [ha, Ne.symm ha]
  rw [bitsOf, hfrom, Nat.zero_testBit, Bool.false_or]

theorem bitsOf_lt {l : List Nat} {n : Nat} (h : ∀ i ∈ l, i < n) : bitsOf l < 2 ^ n := by
  refine Nat.lt_pow_two_of_testBit _ fun i hi => ?_
  rw [bitsOf_testBit, decide_eq_false]
  intro hmem
  have := h i hmem
  omega

theorem setBits_eq (s : State) (x : Split) (l : List Nat) : setBits s x l = if l.isEmpty then s else orWord s x.arrival (bitsOf l) := rfl

/-! ## The area's form -/

theorem splitOf_named {x : Split} {base arrival result parts : Nat} (h : splitOf s c base arrival result parts = some x) :
    x.base = base ∧ x.arrival = arrival ∧ x.result = result ∧ x.parts = parts ∧
      ((s.core c).split = none ∨ (s.core c).split = some x) := by
  rw [splitOf] at h
  split at h
  · next y hy =>
    split at h
    · next hsame =>
      obtain rfl := Option.some.inj h
      obtain ⟨hbase, harrival, hresult, hparts⟩ := hsame
      exact ⟨hbase, harrival, hresult, hparts, .inr hy⟩
    · cases h
  · next hnone =>
    obtain rfl := Option.some.inj h
    exact ⟨rfl, rfl, rfl, rfl, .inl hnone⟩

theorem tier_not_T2 {k : Nat} (h : tierOfOffset k = 0) : isT2 k = false := by
  rw [isT2, decide_eq_false_iff_not]
  intro hlow
  rw [tierOfOffset] at h
  split at h
  · omega
  · omega

theorem pageStatus_of_not_T2 {k : Nat} (h : isT2 k = false) (n : Nat) : pageStatus s k n = St.ok := by
  rw [pageStatus, pagesOf, if_neg (by simp [h])]
  rfl

structure AreaForm (base arrival result parts : Nat) (wide : Bool) : Prop where
  parts : parts ≤ 64
  arrival : isT2 arrival = false

theorem areaForm_of_splitForm {base arrival result parts : Nat} {wide : Bool} (h : splitForm c base arrival result parts wide = true) :
    AreaForm base arrival result parts wide := by
  simp only [splitForm, Bool.and_eq_true, decide_eq_true_eq, beq_iff_eq] at h
  obtain ⟨⟨⟨⟨⟨-, hparts⟩, -⟩, ⟨⟨-, htier⟩, -⟩⟩, -⟩, -⟩ := h
  exact ⟨hparts, tier_not_T2 htier⟩

/-! ## A reduction that is named (R196) -/

/-- The partials that tile moves have placed in an area. -/
def hitsOf (s : State) (x : Split) : List (Nat × Nat) := s.fab.placed.filter (fun p => !(areaHits x p.1 1).isEmpty)

theorem noteFirst_only (s : State) (k : Nat) : OnlyChanges [.fab] s (noteFirst s k) := by
  unfold noteFirst
  split
  · exact only_refl _ s
  · exact awaitBits_only ..

/-- The core has the reduction under way. -/
def named (s : State) (c : Nat) (x : Split) : State := s.updCore c (fun y => { y with split := some x })

theorem openSplit_of_none {x : Split} (h : hitsOf s x = []) : openSplit c x s = noteFirst (named s c x) x.arrival := by
  have hhits : (s.updCore c (fun y => { y with split := some x })).fab.placed.filter (fun p => !(areaHits x p.1 1).isEmpty) = [] := h
  rw [openSplit]
  simp only [hhits]
  rfl

/-- The bits of what has been placed are set in one access. -/
def placedBits (s : State) (c : Nat) (x : Split) : State :=
  setBits { named s c x with fab := { s.fab with placed := s.fab.placed.filter (fun p => !(hitsOf s x).contains p) } } x
    ((hitsOf s x).flatMap (fun p => areaHits x p.1 1))

theorem openSplit_of_some {x : Split} (h : hitsOf s x ≠ []) : ∃ t, openSplit c x s = t ∧ OnlyChanges [.fab] (placedBits s c x) t := by
  refine ⟨_, rfl, ?_⟩
  obtain ⟨p, l, hcons⟩ := List.exists_cons_of_ne_nil h
  have hhits : (s.updCore c (fun y => { y with split := some x })).fab.placed.filter (fun p => !(areaHits x p.1 1).isEmpty) = p :: l := hcons
  rw [placedBits, hcons, openSplit]
  simp only [hhits]
  show OnlyChanges [.fab] _ (if _ then awaitBits _ _ _ else noteFirst _ _)
  split
  · exact awaitBits_only ..
  · exact noteFirst_only ..

theorem named_core (s : State) (c : Nat) (x : Split) : ((named s c x).core c).split = some x := by
  rw [named, State.updCore, setCore_core]

theorem core_of_cores (h : t.cores = s.cores) (k : Nat) : t.core k = s.core k := by rw [State.core, h, State.core]

theorem setBits_cores (s : State) (x : Split) (l : List Nat) : (setBits s x l).cores = s.cores :=
  (setBits_only s x l).same .cores (by decide)

theorem openSplit_core (s : State) (c : Nat) (x : Split) : ((openSplit c x s).core c).split = some x := by
  by_cases h : hitsOf s x = []
  · rw [openSplit_of_none h, core_of_cores ((noteFirst_only ..).same .cores (by decide))]
    exact named_core s c x
  · obtain ⟨t, rfl, ht⟩ := openSplit_of_some (c := c) h
    rw [core_of_cores (ht.same .cores (by decide)), placedBits, core_of_cores (setBits_cores ..)]
    exact named_core s c x

theorem openSplit_mem_of_none {x : Split} (h : s.fab.placed.all (fun p => (areaHits x p.1 1).isEmpty) = true) :
    (openSplit c x s).mem = s.mem := by
  have hnone : hitsOf s x = [] := by
    rw [hitsOf, List.filter_eq_nil_iff]
    intro p hp
    simpa using List.all_eq_true.mp h p hp
  rw [openSplit_of_none hnone]
  exact (noteFirst_only ..).same .mem (by decide)

theorem arrived_iff (s : State) (k i : Nat) : arrived s k i = (decide (i < 64) && (readNat s k 8).testBit i) := by
  rw [arrived, readWord, BitVec.getLsbD_ofNat]

theorem readNat_of_mem (h : t.mem = s.mem) : readNat t = readNat s := funext fun k => funext fun n => by
  rw [readNat, Sys2Proof.Fabric.readBytes_of_mem h, readNat]

/-- The partials that were placed before have arrived. -/
theorem openSplit_arrived {x : Split} (hparts : x.parts ≤ 64) (hT2 : isT2 x.arrival = false) {p : Nat × Nat} {i : Nat}
    (hp : p ∈ s.fab.placed) (hi : i ∈ areaHits x p.1 1) (hfree : holderOf s x.arrival 8 = none) :
    arrived (openSplit c x s) x.arrival i = true := by
  have hhit : p ∈ hitsOf s x := List.mem_filter.mpr ⟨hp, by simpa using List.ne_nil_of_mem hi⟩
  obtain ⟨t, rfl, ht⟩ := openSplit_of_some (c := c) (List.ne_nil_of_mem hhit)
  have hlist : i ∈ (hitsOf s x).flatMap (fun p => areaHits x p.1 1) := List.mem_flatMap.mpr ⟨p, hhit, hi⟩
  have hsmall : ∀ j ∈ (hitsOf s x).flatMap (fun p => areaHits x p.1 1), j < 64 := fun j hj => by
    obtain ⟨q, -, hq⟩ := List.mem_flatMap.mp hj
    have := List.mem_range.mp (List.mem_filter.mp hq).1
    omega
  obtain ⟨hword, -⟩ := orWord_ors (s := { named s c x with fab := { s.fab with placed := s.fab.placed.filter (fun p => !(hitsOf s x).contains p) } })
    (k := x.arrival) (bitsOf_lt hsmall) (pageStatus_of_not_T2 hT2 8) (Sys2Proof.Fabric.noDefer_of_not_T2 hT2) hfree
  rw [arrived_iff, readNat_of_mem (ht.same .mem (by decide)), placedBits, setBits_eq, if_neg (by simpa using List.ne_nil_of_mem hlist),
    hword, Nat.testBit_or, bitsOf_testBit, decide_eq_true hlist, decide_eq_true (hsmall i hlist)]
  simp

/-! ## The next partial (R196) -/

/-- Words that stand at a key are read there. -/
theorem readWords_of_bytes {l : List W32} {k : Nat} (h : readBytes t k (wordsBytes l).length = wordsBytes l) : readWords t k l.length = l := by
  induction l generalizing k with
  | nil => rfl
  | cons w l ih =>
    have hlen : (wordsBytes (w :: l)).length = 4 + (wordsBytes l).length := by
      rw [Vector.length_wordsBytes, Vector.length_wordsBytes, List.length_cons]; omega
    have hsplit : readBytes t k (4 + (wordsBytes l).length) = readBytes t k 4 ++ readBytes t (k + 4) (wordsBytes l).length := by
      rw [readBytes, List.range_add, List.map_append, List.map_map, readBytes, readBytes]
      congr 1
      exact List.map_congr_left fun i _ => by rw [Function.comp, Nat.add_assoc]
    have hcons : wordsBytes (w :: l) = bytesOf w.toNat 4 ++ wordsBytes l := rfl
    rw [hlen, hsplit, hcons] at h
    obtain ⟨hword, hrest⟩ := List.append_inj h (by rw [length_readBytes, length_bytesOf])
    have hone : readF32 t k = w := by
      rw [readF32, readNat, hword, ofBytes_bytesOf, Nat.mod_eq_of_lt (w.isLt.trans_eq (by norm_num)), BitVec.ofNat_toNat, BitVec.setWidth_eq]
    rw [readWords, List.length_cons, List.range_succ_eq_map, List.map_cons, List.map_map, Nat.mul_zero, Nat.add_zero, hone]
    congr 1
    refine Eq.trans (List.map_congr_left fun i _ => ?_) (ih hrest)
    rw [Function.comp, Nat.succ_eq_add_one, Nat.mul_add, Nat.mul_one, Nat.add_comm (4 * i), Nat.add_assoc]

/-- What a step's work depends on, after the time of an area's bits has been noted. -/
theorem noteFirst_same (s : State) (k : Nat) : engineHolds (noteFirst s k) = engineHolds s ∧ arrived (noteFirst s k) = arrived s ∧
    badRange (noteFirst s k) = badRange s := by
  unfold noteFirst
  split
  · exact ⟨rfl, rfl, rfl⟩
  · exact ⟨rfl, rfl, rfl⟩

/-- The result's words after partial `x.next`. -/
def partialWords (s : State) (wide : Bool) (x : Split) : List W32 :=
  (List.range (partialElems wide)).map (fun i =>
    if x.next = 0 then partialVal s wide (x.base + x.next * 16384) i else partialAdd s wide x.result (x.base + x.next * 16384) i)

/-- The partial has been added. -/
def partialDone (s : State) (c : Nat) (wide : Bool) (x : Split) : State :=
  (((rawWrite s x.result (wordsBytes (partialWords s wide x))).countCore c 0x048 1).countCore c 0x050 (partialElems wide)).updCore c
    (fun y => { y with split := if x.next + 1 = x.parts then none else some { x with next := x.next + 1 } })

theorem splitStep_waits {wide : Bool} {x : Split} (h : arrived s x.arrival x.next = false ∨
    engineHolds s c [(x.base + x.next * 16384, 16384), (x.arrival, 8)] [(x.result, 4 * partialElems wide)] = true) :
    splitStep c b wide x s = s := by
  rw [splitStep, if_pos]
  rcases h with h | h <;> simp [h]

theorem splitStep_adds {wide : Bool} {x : Split} (harrived : arrived s x.arrival x.next = true)
    (hfree : engineHolds s c [(x.base + x.next * 16384, 16384), (x.arrival, 8)] [(x.result, 4 * partialElems wide)] = false)
    (hgood : badRange s [(x.base + x.next * 16384, 16384), (x.result, 4 * partialElems wide)] = none) :
    splitStep c b wide x s =
      partialDone (noteRanges s [(x.base + x.next * 16384, 16384), (x.result, 4 * partialElems wide)]) c wide x := by
  rw [splitStep, if_neg (by simp [harrived, hfree]), withRanges]
  simp only [hgood]
  rfl

theorem partialWords_of_mem (h : t.mem = s.mem) (wide : Bool) (x : Split) : partialWords t wide x = partialWords s wide x := by
  have hread : readF32 t = readF32 s := funext fun k => by rw [readF32, readNat_of_mem h, readF32]
  simp only [partialWords, partialVal, partialAdd, hread]

theorem length_partialWords (s : State) (wide : Bool) (x : Split) : (partialWords s wide x).length = partialElems wide := by
  simp [partialWords]

theorem partialDone_gives (s : State) (c : Nat) (wide : Bool) (x : Split) :
    readWords (partialDone s c wide x) x.result (partialElems wide) = partialWords s wide x ∧
    ((partialDone s c wide x).core c).split = (if x.next + 1 = x.parts then none else some { x with next := x.next + 1 }) ∧
    (∀ k, k < x.result ∨ x.result + 4 * partialElems wide ≤ k → memByte (partialDone s c wide x) k = memByte s k) := by
  have hmem : (partialDone s c wide x).mem = (rawWrite s x.result (wordsBytes (partialWords s wide x))).mem := rfl
  have hlen : (wordsBytes (partialWords s wide x)).length = 4 * partialElems wide := by rw [Vector.length_wordsBytes, length_partialWords]
  refine ⟨?_, ?_, fun k hk => ?_⟩
  · rw [← length_partialWords s wide x]
    refine readWords_of_bytes ?_
    rw [Sys2Proof.Fabric.readBytes_of_mem hmem]
    exact Mirrors.readBytes_rawWrite ..
  · rw [partialDone, State.updCore, setCore_core]
  · rw [Sys2Proof.Fabric.memByte_of_mem hmem]
    exact rawWrite_outside _ (by rw [hlen]; exact hk)

/-! ## The rows -/

/-- The core's reduction as its command finds it: named before, or named now. -/
def splitNamed (s : State) (c : Nat) (x : Split) : State := if (s.core c).split.isSome then s else openSplit c x s

theorem splitNamed_core {x : Split} {base arrival result parts : Nat} (h : splitOf s c base arrival result parts = some x) :
    ((splitNamed s c x).core c).split = some x := by
  obtain ⟨-, -, -, -, hnone | hsome⟩ := splitOf_named h
  · rw [splitNamed, hnone]
    exact openSplit_core s c x
  · rw [splitNamed, hsome, if_pos (by rfl), hsome]

theorem splitPartialAdd_runs {x : Split} {base arrival result parts : Nat} {wide : Bool} {P : State → Prop} (hrun : running .arith s = true)
    (hb : layerHolder s = some b) (hc : c < 256) (hlatch : (s.core c).latch = []) (hform : splitForm c base arrival result parts wide = true)
    (hx : splitOf s c base arrival result parts = some x)
    (hP : P (if !splitAllowed s (s.bind b).seat base arrival result parts wide then s.noteWindow (s.bind b).seat St.window
      else splitStep c b wide x (if (s.core c).split.isSome then noteFirst s arrival else openSplit c x s))) :
    Runs (.splitPartialAdd c base arrival result parts wide) s P := by
  have hrow : exec (.splitPartialAdd c base arrival result parts wide) s = execSplitPartialAdd c base arrival result parts wide s := rfl
  refine runs_of_when (hrow.trans (by rw [execSplitPartialAdd])) hrun (by simp [coreOk, hc, hlatch, hform]) ?_
  rw [hb, hx]
  exact hP

/-- The state that the step of an allowed command finds differs from the named one in the fabric alone, and not in what the step asks. -/
theorem splitFound (s : State) (c : Nat) (x : Split) (arrival : Nat) :
    ∃ t, t = (if (s.core c).split.isSome then noteFirst s arrival else openSplit c x s) ∧ OnlyChanges [.fab] (splitNamed s c x) t ∧
      engineHolds t = engineHolds (splitNamed s c x) ∧ arrived t = arrived (splitNamed s c x) ∧ badRange t = badRange (splitNamed s c x) := by
  refine ⟨_, rfl, ?_⟩
  rw [splitNamed]
  split
  · exact ⟨noteFirst_only .., noteFirst_same ..⟩
  · exact ⟨only_refl _ _, rfl, rfl, rfl⟩

theorem splitPartialAdd_refused {x : Split} {base arrival result parts : Nat} {wide : Bool} (hrun : running .arith s = true)
    (hb : layerHolder s = some b) (hc : c < 256) (hlatch : (s.core c).latch = []) (hform : splitForm c base arrival result parts wide = true)
    (hx : splitOf s c base arrival result parts = some x) (hno : splitAllowed s (s.bind b).seat base arrival result parts wide = false) :
    Runs (.splitPartialAdd c base arrival result parts wide) s (fun t => t.cores = s.cores ∧ t.mem = s.mem) := by
  refine splitPartialAdd_runs hrun hb hc hlatch hform hx ?_
  rw [hno, Bool.not_false, if_pos rfl]
  exact ⟨(noteWindow_only ..).same .cores (by decide), (noteWindow_only ..).same .mem (by decide)⟩

theorem splitPartialAdd_waits {x : Split} {base arrival result parts : Nat} {wide : Bool} (hrun : running .arith s = true)
    (hb : layerHolder s = some b) (hc : c < 256) (hlatch : (s.core c).latch = []) (hform : splitForm c base arrival result parts wide = true)
    (hx : splitOf s c base arrival result parts = some x) (hyes : splitAllowed s (s.bind b).seat base arrival result parts wide = true)
    (hwait : arrived (splitNamed s c x) arrival x.next = false ∨ engineHolds (splitNamed s c x) c [(base + x.next * 16384, 16384), (arrival, 8)]
      [(result, 4 * partialElems wide)] = true) :
    Runs (.splitPartialAdd c base arrival result parts wide) s (fun t => (t.core c).split = some x ∧ t.mem = (splitNamed s c x).mem) := by
  have hnamed := splitNamed_core hx
  obtain ⟨rfl, rfl, rfl, rfl, -⟩ := splitOf_named hx
  refine splitPartialAdd_runs hrun hb hc hlatch hform hx ?_
  obtain ⟨t, ht, hfab, hholds, harrived, -⟩ := splitFound s c x x.arrival
  rw [hyes, Bool.not_true, if_neg Bool.false_ne_true, ← ht, splitStep_waits (by rw [hholds, harrived]; exact hwait)]
  refine ⟨?_, hfab.same .mem (by decide)⟩
  rw [core_of_cores (hfab.same .cores (by decide))]
  exact hnamed

theorem splitPartialAdd_adds {x : Split} {base arrival result parts : Nat} {wide : Bool} (hrun : running .arith s = true)
    (hb : layerHolder s = some b) (hc : c < 256) (hlatch : (s.core c).latch = []) (hform : splitForm c base arrival result parts wide = true)
    (hx : splitOf s c base arrival result parts = some x) (hyes : splitAllowed s (s.bind b).seat base arrival result parts wide = true)
    (harr : arrived (splitNamed s c x) arrival x.next = true) (hheld : engineHolds (splitNamed s c x) c
      [(base + x.next * 16384, 16384), (arrival, 8)] [(result, 4 * partialElems wide)] = false)
    (hgood : badRange (splitNamed s c x) [(base + x.next * 16384, 16384), (result, 4 * partialElems wide)] = none) :
    Runs (.splitPartialAdd c base arrival result parts wide) s (fun t =>
      readWords t result (partialElems wide) = partialWords (splitNamed s c x) wide x ∧
      (t.core c).split = (if x.next + 1 = parts then none else some { x with next := x.next + 1 }) ∧
      (∀ k, k < result ∨ result + 4 * partialElems wide ≤ k → memByte t k = memByte (splitNamed s c x) k)) := by
  obtain ⟨rfl, rfl, rfl, rfl, -⟩ := splitOf_named hx
  refine splitPartialAdd_runs hrun hb hc hlatch hform hx ?_
  obtain ⟨t, ht, hfab, hholds, harrived, hbad⟩ := splitFound s c x x.arrival
  rw [hyes, Bool.not_true, if_neg Bool.false_ne_true, ← ht, splitStep_adds (by rw [harrived]; exact harr) (by rw [hholds]; exact hheld)
    (by rw [hbad]; exact hgood)]
  have hmem : (noteRanges t [(x.base + x.next * 16384, 16384), (x.result, 4 * partialElems wide)]).mem = (splitNamed s c x).mem :=
    (Vector.noteRanges_mem ..).trans (hfab.same .mem (by decide))
  obtain ⟨hwords, hsplit, hrest⟩ := partialDone_gives (noteRanges t [(x.base + x.next * 16384, 16384), (x.result, 4 * partialElems wide)]) c wide x
  exact ⟨hwords.trans (partialWords_of_mem hmem ..), hsplit,
    fun k hk => (hrest k hk).trans (congrFun (Sys2Proof.Fabric.memByte_of_mem hmem) k)⟩

theorem splitTimeout_gives {x : Split} (hrun : running .arith s = true) (hb : layerHolder s = some b) (hc : c < 256)
    (hx : (s.core c).split = some x) (hfirst : readWord s x.arrival ≠ 0#64) (hlate : ∃ d, (x.arrival, d) ∈ s.fab.arrivals ∧ d ≤ now s)
    (hmissing : ∃ i, i < x.parts ∧ arrived s x.arrival i = false) : Runs (.splitTimeout c) s (fun t => (t.core c).split = none ∧
      bFaulted (t.bind b) = true ∧ Tab.get (t.core c).ctr 0#64 0x040 = Tab.get (s.core c).ctr 0#64 0x040 + 1) := by
  have hrow : exec (.splitTimeout c) s = execSplitTimeout c s := rfl
  obtain ⟨d, hd, hdue⟩ := hlate
  obtain ⟨i, hi, hno⟩ := hmissing
  have hlost : splitLost s c = true := by
    simp only [splitLost, hx, Bool.and_eq_true, bne_iff_ne, List.any_eq_true, beq_iff_eq, decide_eq_true_eq, Bool.not_eq_true',
      List.mem_range]
    exact ⟨⟨hfirst, _, hd, rfl, hdue⟩, i, hi, hno⟩
  refine runs_of_when (hrow.trans (by rw [execSplitTimeout])) hrun (by simp [coreOk, hc, hlost]) ?_
  rw [splitGiveUp, hb]
  set u : State := (s.countCore c 0x040 1).updCore c (fun x => { x with split := none }) with hu
  have hflight : inFlight u b = true := (inFlight_of_binds (t := u) (s := s) rfl b).trans (inFlight_of_layerHolder hb)
  obtain ⟨l, hlasts⟩ := abandonTurn_lasts hflight
  have hcore : (u.core c).split = none ∧ (u.core c).ctr = ctrAdd (s.core c).ctr 0x040 1 := by
    rw [hu, State.updCore, setCore_core, State.countCore, State.updCore, setCore_core]
    exact ⟨rfl, rfl⟩
  refine ⟨?_, (abandonTurn_block hflight).2, ?_⟩
  · rw [hlasts.core_split]
    exact hcore.1
  · rw [hlasts.core_ctr]
    show Tab.get (u.core c).ctr 0#64 0x040 = _
    rw [hcore.2]
    exact get_set_self ..

end Sys2Proof.Splits
end

section
/-! Collective steps of the fabric engines (R349 to R351). -/

namespace Sys2Proof.Splits

open Sys2Proof Sys2Proof.Machine Sys2Proof.Laws Sys2Proof.Pins Sys2Proof.Lasting Sys2Proof.Movers Sys2Proof.Stores Sys2Proof.Phases
open Sys2Proof.MailboxService (FieldsApart)

variable {s t u : State} {b e : Nat} {w : BitVec 512}

/-! ## A step begins (R349) -/

/-- What packets and collective steps depend on of the fabric. -/
structure SameWays (s t : State) : Prop where
  fabId : t.fab.fabId = s.fab.fabId
  routes : t.fab.routes = s.fab.routes
  slice : t.fab.slice = s.fab.slice
  states : ∀ p, (t.port p).state = (s.port p).state

theorem sameWays_refl (s : State) : SameWays s s := ⟨rfl, rfl, rfl, fun _ => rfl⟩

theorem SameWays.trans (h : SameWays s t) (h' : SameWays t u) : SameWays s u :=
  ⟨h'.fabId.trans h.fabId, h'.routes.trans h.routes, h'.slice.trans h.slice, fun p => (h'.states p).trans (h.states p)⟩

theorem sameWays_of_fab (h : t.fab = s.fab) : SameWays s t := ⟨by rw [h], by rw [h], by rw [h], fun p => by rw [State.port, h, State.port]⟩

section
variable (h : SameWays s t)
include h

theorem SameWays.ownChip_eq : ownChip t = ownChip s := by rw [ownChip, ownChip, h.fabId]
theorem SameWays.haveChip_eq : haveChip t = haveChip s := by rw [haveChip, haveChip, h.fabId]

theorem SameWays.outPort_eq (src dest : Nat) : outPort t src dest = outPort s src dest := by
  have hmatch : isMatch t = isMatch s := funext fun p => by rw [isMatch, portState, h.states, isMatch, portState]
  rw [outPort, hmatch, h.ownChip_eq, outPort]
  simp only [routeAt, h.routes]

theorem SameWays.collCount_eq (w : BitVec 512) : collCount t w = collCount s w := by
  unfold collCount axisMembers
  rw [h.slice]

theorem SameWays.collRank_eq (w : BitVec 512) : collRank t w = collRank s w := by
  have hlive : liveCoords t = liveCoords s := funext fun a => by
    simp only [liveCoords, ringLen, cutMask, h.fabId, h.slice]
  have hblock : blockCoords t = blockCoords s := funext fun v => funext fun a => by
    unfold blockCoords
    rw [hlive]
  rw [collRank, collRank, collMembers, collMembers, sliceState, sliceState, hblock, h.ownChip_eq, h.slice]

end

/-- Nothing but the fabric has changed, and no way in it. -/
structure Stepped (s t : State) : Prop where
  only : OnlyChanges [.fab] s t
  ways : SameWays s t

theorem setColl_stepped (s : State) (e : Nat) (x : Option CollRun) : Stepped s (setColl s e x) :=
  ⟨setColl_only .., ⟨rfl, rfl, rfl, fun _ => rfl⟩⟩

/-- The record of the step has begun. -/
def recordTaken (s : State) (b e : Nat) : State :=
  match nextStep s b e with
  | some r => { s with fab := { s.fab with collDone := s.fab.collDone ++ [r.1] } }
  | none => s

theorem recordTaken_stepped (s : State) (b e : Nat) : Stepped s (recordTaken s b e) := by
  unfold recordTaken
  split
  · exact ⟨set_fab_only s _, ⟨rfl, rfl, rfl, fun _ => rfl⟩⟩
  · exact ⟨only_refl _ s, sameWays_refl s⟩

theorem collBegin_eq (s : State) (b e : Nat) (w : BitVec 512) : collBegin s b e w =
    if (collRun s e).any (fun x => x.step == w) && !collFree s e then s else setColl (recordTaken s b e) e (some ⟨w, now (recordTaken s b e), false⟩) := rfl

theorem collBegin_stepped (s : State) (b e : Nat) (w : BitVec 512) : Stepped s (collBegin s b e w) := by
  rw [collBegin_eq]
  split
  · exact ⟨only_refl _ s, sameWays_refl s⟩
  · have htaken := recordTaken_stepped s b e
    have hset := setColl_stepped (recordTaken s b e) e (some ⟨w, now (recordTaken s b e), false⟩)
    exact ⟨only_step hset.only (by decide) htaken.only, htaken.ways.trans hset.ways⟩

theorem collRun_setColl (s : State) (e : Nat) (x : Option CollRun) : collRun (setColl s e x) e = x := get_set_self ..

section
variable (h : Stepped s t)
include h

theorem Stepped.mem : t.mem = s.mem := h.only.same .mem (by decide)
theorem Stepped.view : Lanes.KeepsIngots Serving.slotView s t := Lanes.keepsIngots_of_only h.only (by decide)
theorem Stepped.uncorrAt_eq : uncorrAt t = uncorrAt s := Vector.uncorrAt_of_errs (h.only.same .wordErr (by decide))
theorem Stepped.noDefer_eq : noDefer t = noDefer s := noDefer_of_view h.view
theorem Stepped.pageStatus_eq : pageStatus t = pageStatus s := pageStatus_of_view h.view

theorem Stepped.holderOf_eq : holderOf t = holderOf s := funext fun k => funext fun n => by
  have hobjs : t.objs = s.objs := h.only.same .objs (by decide)
  have hobjx : t.objx = s.objx := h.only.same .objx (by decide)
  have hworks : holdsWrites t = holdsWrites s := funext fun o => by
    rw [holdsWrites, State.obj, State.ox, hobjs, hobjx, holdsWrites, State.obj, State.ox]
  have hkey : objWorkKey t = objWorkKey s := funext fun o => by
    rw [objWorkKey, objWorkKey, State.obj, State.obj, hobjs, keyOf, keyOf, placeOf, placeOf, h.ways.ownChip_eq]
  have htiles : objTiles t = objTiles s := funext fun o => by rw [objTiles, State.obj, hobjs, objTiles, State.obj]
  rw [holderOf, hobjx, hworks, hkey, htiles, holderOf]

end

/-! ## The row of a step -/

/-- The engine takes the step, and the windows of the turn's seat allow its accesses (R349). -/
structure Goes (s : State) (b e : Nat) (w : BitVec 512) (op : Nat) : Prop where
  engine : e < 4
  op : LColl.OP.get w = op
  ok : collOk s e w = true
  may : collMay s e w = true
  allowed : collStatus s (s.bind b).seat w = St.ok

theorem goes_of {op : Nat} (h : (decide (e < 4) && LColl.OP.get w == op && collOk s e w && collMay s e w &&
    collStatus s (s.bind b).seat w == St.ok) = true) : Goes s b e w op := by
  simp only [Bool.and_eq_true, decide_eq_true_eq, beq_iff_eq] at h
  obtain ⟨⟨⟨⟨hengine, hop⟩, hok⟩, hmay⟩, hallowed⟩ := h
  exact ⟨hengine, hop, hok, hmay, hallowed⟩

theorem collRow_runs {i : Instr} {op : Nat} {f : Nat → State → State} {P : State → Prop} (hrow : exec i s = collRow op e w f s)
    (hrun : running .arith s = true) (hb : layerHolder s = some b) (h : Goes s b e w op) (hP : P (f b (collBegin s b e w))) : Runs i s P := by
  refine runs_of_when (hrow.trans (by rw [collRow])) hrun (by simp [h.engine, h.op, h.ok, h.may]) ?_
  rw [hb]
  simp only [h.allowed, ne_eq, not_true_eq_false, if_false]
  exact hP

/-- A result that its memory takes at once stands at DST, and the step has completed. -/
theorem collDone_writes {bs : List Byte} {dst : Nat} (who : Nat × Nat) (hdefer : noDefer s dst bs.length = true)
    (hfree : holderOf s dst bs.length = none) (hst : pageStatus s dst bs.length = St.ok) :
    readBytes (setColl (moverWrite s who dst bs) e none) dst bs.length = bs ∧
      (∀ k, k < dst ∨ dst + bs.length ≤ k → memByte (setColl (moverWrite s who dst bs) e none) k = memByte s k) ∧
      collRun (setColl (moverWrite s who dst bs) e none) e = none := by
  obtain ⟨hwrote, -⟩ := moverWrite_wrote who hst hdefer hfree
  exact ⟨readBytes_of_holds hwrote, fun k hk => memByte_of_holds hwrote hk, collRun_setColl ..⟩

theorem collResult_writes {len : Nat} {result : List Byte → List Byte} {bs : List Byte} (hbs : result (readBytes s (collSrc w) len) = bs)
    (hgood : uncorrAt s (collSrc w) len = false) (hdefer : noDefer s (collDst w) bs.length = true)
    (hfree : holderOf s (collDst w) bs.length = none) (hst : pageStatus s (collDst w) bs.length = St.ok) :
    readBytes (collResult e b w len result s) (collDst w) bs.length = bs ∧
      (∀ k, k < collDst w ∨ collDst w + bs.length ≤ k → memByte (collResult e b w len result s) k = memByte s k) ∧
      collRun (collResult e b w len result s) e = none := by
  have hcorr := noteCorr_presented s (collSrc w) len false
  rw [collResult, if_neg (by simp [hgood]), hbs]
  obtain ⟨hread, hrest, hrun⟩ := collDone_writes (s := noteCorr s (collSrc w) len false) (e := e) (4, 3 * e + 1)
    (by rw [hcorr.noDefer_eq]; exact hdefer) (by rw [hcorr.holderOf_eq]; exact hfree) (by rw [hcorr.pageStatus_eq]; exact hst)
  exact ⟨hread, fun k hk => (hrest k hk).trans (congrFun (Sys2Proof.Fabric.memByte_of_mem hcorr.mem) k), hrun⟩

/-- The result's place is reached, defers nothing and is held by no MOVE or DROP. -/
structure Open' (s : State) (w : BitVec 512) (m : Nat) : Prop where
  defer : noDefer s (collDst w) m = true
  free : holderOf s (collDst w) m = none
  reached : pageStatus s (collDst w) m = St.ok

/-- The step's result stands at DST alone, and the step has completed. -/
def Completed (s : State) (e : Nat) (w : BitVec 512) (bs : List Byte) (t : State) : Prop :=
  readBytes t (collDst w) bs.length = bs ∧ (∀ k, k < collDst w ∨ collDst w + bs.length ≤ k → memByte t k = memByte s k) ∧ collRun t e = none

theorem collResult_completes {len : Nat} {result : List Byte → List Byte} {bs : List Byte} (ht : Stepped s t)
    (hbs : result (readBytes s (collSrc w) len) = bs) (hgood : uncorrAt s (collSrc w) len = false) (hopen : Open' s w bs.length) :
    Completed s e w bs (collResult e b w len result t) := by
  obtain ⟨hread, hrest, hrun⟩ := collResult_writes (s := t) (b := b) (e := e) (w := w) (len := len) (result := result) (bs := bs)
    (by rw [Sys2Proof.Fabric.readBytes_of_mem ht.mem]; exact hbs) (by rw [ht.uncorrAt_eq]; exact hgood)
    (by rw [ht.noDefer_eq]; exact hopen.defer) (by rw [ht.holderOf_eq]; exact hopen.free) (by rw [ht.pageStatus_eq]; exact hopen.reached)
  exact ⟨hread, fun k hk => (hrest k hk).trans (congrFun (Sys2Proof.Fabric.memByte_of_mem ht.mem) k), hrun⟩

theorem collAllreduce_completes {inputs : List (List Byte)} (hrun : running .arith s = true) (hb : layerHolder s = some b)
    (h : Goes s b e w 3) (hinputs : inputsOk (collCount s w) (collLen w) inputs = true) (hgood : uncorrAt s (collSrc w) (collLen w) = false)
    (hopen : Open' s w (reduceBytes (LColl.FMT.on w) (inputs.set (collRank s w) (readBytes s (collSrc w) (collLen w)))).length) :
    Runs (.collAllreduce e w inputs) s
      (Completed s e w (reduceBytes (LColl.FMT.on w) (inputs.set (collRank s w) (readBytes s (collSrc w) (collLen w))))) := by
  have hrow : exec (.collAllreduce e w inputs) s = execCollAllreduce e w inputs s := rfl
  refine collRow_runs (hrow.trans (by rw [execCollAllreduce])) hrun hb h ?_
  have hbegun := collBegin_stepped s b e w
  rw [hbegun.ways.collCount_eq, if_pos hinputs, hbegun.ways.collRank_eq]
  exact collResult_completes hbegun rfl hgood hopen

theorem collAllgather_completes {inputs : List (List Byte)} (hrun : running .arith s = true) (hb : layerHolder s = some b)
    (h : Goes s b e w 4) (hinputs : inputsOk (collCount s w) (collLen w / collCount s w) inputs = true)
    (hgood : uncorrAt s (collSrc w) (collLen w / collCount s w) = false)
    (hopen : Open' s w (inputs.set (collRank s w) (readBytes s (collSrc w) (collLen w / collCount s w))).flatten.length) :
    Runs (.collAllgather e w inputs) s
      (Completed s e w (inputs.set (collRank s w) (readBytes s (collSrc w) (collLen w / collCount s w))).flatten) := by
  have hrow : exec (.collAllgather e w inputs) s = execCollAllgather e w inputs s := rfl
  refine collRow_runs (hrow.trans (by rw [execCollAllgather])) hrun hb h ?_
  have hbegun := collBegin_stepped s b e w
  simp only [hbegun.ways.collCount_eq, hinputs, if_true, hbegun.ways.collRank_eq]
  exact collResult_completes hbegun rfl hgood hopen

theorem collBcast_root (hrun : running .arith s = true) (hb : layerHolder s = some b) (h : Goes s b e w 5) (data : List Byte)
    (hroot : LColl.PEER.get w = ownChip s) (hgood : uncorrAt s (collSrc w) (collLen w) = false)
    (hopen : Open' s w (readBytes s (collSrc w) (collLen w)).length) :
    Runs (.collBcast e w data) s (Completed s e w (readBytes s (collSrc w) (collLen w))) := by
  have hrow : exec (.collBcast e w data) s = execCollBcast e w data s := rfl
  refine collRow_runs (hrow.trans (by rw [execCollBcast])) hrun hb h ?_
  have hbegun := collBegin_stepped s b e w
  rw [hbegun.ways.ownChip_eq, if_pos hroot]
  exact collResult_completes hbegun rfl hgood hopen

theorem collBcast_member (hrun : running .arith s = true) (hb : layerHolder s = some b) (h : Goes s b e w 5) {data : List Byte}
    (hroot : LColl.PEER.get w ≠ ownChip s) (hlen : data.length = collLen w) (hopen : Open' s w data.length) :
    Runs (.collBcast e w data) s (Completed s e w data) := by
  have hrow : exec (.collBcast e w data) s = execCollBcast e w data s := rfl
  refine collRow_runs (hrow.trans (by rw [execCollBcast])) hrun hb h ?_
  have hbegun := collBegin_stepped s b e w
  rw [hbegun.ways.ownChip_eq, if_neg hroot, if_pos hlen]
  obtain ⟨hread, hrest, hidle⟩ := collDone_writes (s := collBegin s b e w) (e := e) (4, 3 * e + 1) (bs := data) (dst := collDst w)
    (by rw [hbegun.noDefer_eq]; exact hopen.defer) (by rw [hbegun.holderOf_eq]; exact hopen.free) (by rw [hbegun.pageStatus_eq]; exact hopen.reached)
  exact ⟨hread, fun k hk => (hrest k hk).trans (congrFun (Sys2Proof.Fabric.memByte_of_mem hbegun.mem) k), hidle⟩

/-! ## WAIT (R350) -/

theorem collBegin_run (s : State) (b e : Nat) (w : BitVec 512) : ∃ y, collRun (collBegin s b e w) e = some y ∧ y.step = w := by
  rw [collBegin_eq]
  split
  · next h =>
    simp only [Bool.and_eq_true, Option.any_eq_true_iff_get] at h
    obtain ⟨⟨hsome, hstep⟩, -⟩ := h
    exact ⟨_, (Option.some_get hsome).symm, by simpa using hstep⟩
  · exact ⟨_, collRun_setColl .., rfl⟩

theorem collWait_gives (hrun : running .arith s = true) (hb : layerHolder s = some b) (h : Goes s b e w 2)
    (hgood : uncorrAt s (LColl.FLAG.get w) 8 = false) : Runs (.collWait e w) s (fun t => t.mem = s.mem ∧
      if readNat s (LColl.FLAG.get w) 8 &&& LColl.MASK.get w = LColl.MASK.get w then collRun t e = none
      else ∃ y, collRun t e = some y ∧ y.step = w) := by
  have hrow : exec (.collWait e w) s = execCollWait e w s := rfl
  refine collRow_runs (hrow.trans (by rw [execCollWait])) hrun hb h ?_
  have hbegun := collBegin_stepped s b e w
  rw [collWait, hbegun.uncorrAt_eq, if_neg (by simp [hgood]), readNat_of_mem hbegun.mem]
  split
  · exact ⟨hbegun.mem, collRun_setColl ..⟩
  · exact ⟨hbegun.mem, collBegin_run ..⟩

/-! ## Steps that do not complete (R351) -/

theorem collTimeout_gives (hrun : running .arith s = true) (hb : layerHolder s = some b) (hbusy : collFree s e = false)
    (hlate : (collRun s e).any (fun y => y.failed || decide (y.since + tierTimeout s ≤ now s)) = true) :
    Runs (.collTimeout e) s (fun t => collRun t e = none ∧ bFaulted (t.bind b) = true ∧ t.bank.collTimeout = s.bank.collTimeout + 1) := by
  have hrow : exec (.collTimeout e) s = execCollTimeout e s := rfl
  refine runs_of_when (hrow.trans (by rw [execCollTimeout])) hrun (by simp only [hbusy, hlate]; rfl) ?_
  rw [hb]
  show collRun (collFail s b e) e = none ∧ _
  rw [collFail]
  set u : State := setColl { s with bank := { s.bank with collTimeout := s.bank.collTimeout + 1#64 } } e none with hu
  have hflight : inFlight u b = true := (inFlight_of_binds (t := u) (s := s) rfl b).trans (inFlight_of_layerHolder hb)
  obtain ⟨l, hlasts⟩ := abandonTurn_lasts hflight
  have hset : collRun u e = none := collRun_setColl ..
  have hidle : collRun (barred (abandoned u b) l) e = none := hset
  exact ⟨hlasts.idle e hidle, (abandonTurn_block hflight).2, hlasts.coll⟩

end Sys2Proof.Splits
end

section
/-! PUT (R350), and the settling of the collective steps. -/

namespace Sys2Proof.Splits

open Sys2Proof Sys2Proof.Machine Sys2Proof.Laws Sys2Proof.Pins Sys2Proof.Lasting Sys2Proof.Movers Sys2Proof.Stores Sys2Proof.Phases
open Sys2Proof.MailboxService (FieldsApart)
open Sys2Proof.Merging (class_of_issue issueAs_quiet)

variable {s t u : State} {b e : Nat} {w : BitVec 512}

/-! ## To this device itself -/

/-- What a PUT to this device needs of its ranges. -/
structure PutHere (s : State) (w : BitVec 512) : Prop where
  good : uncorrAt s (collSrc w) (collLen w) = false
  mem : MemOk s
  source : noDefer s (collSrc w) (collLen w) = true
  place : Open' s w (collLen w)
  reached : pageStatus s (collSrc w) (collLen w) = St.ok
  flagDefer : noDefer s (LColl.FLAG.get w) 8 = true
  flagFree : holderOf s (LColl.FLAG.get w) 8 = none
  flagReached : pageStatus s (LColl.FLAG.get w) 8 = St.ok
  apart : overlaps (LColl.FLAG.get w) 8 (collDst w) (collLen w) = false

/-- The data stands at DST, the flag word has the mask's bits, and nothing else has changed. -/
structure PutDone (s t : State) (e : Nat) (w : BitVec 512) : Prop where
  idle : collRun t e = none
  data : readBytes t (collDst w) (collLen w) = readBytes s (collSrc w) (collLen w)
  flag : readNat t (LColl.FLAG.get w) 8 = readNat s (LColl.FLAG.get w) 8 ||| LColl.MASK.get w
  rest : ∀ j, (j < collDst w ∨ collDst w + collLen w ≤ j) → (j < LColl.FLAG.get w ∨ LColl.FLAG.get w + 8 ≤ j) → memByte t j = memByte s j

theorem Stepped.putHere (h : Stepped s t) (hp : PutHere s w) : PutHere t w :=
  ⟨by rw [h.uncorrAt_eq]; exact hp.good, by rw [MemOk, h.mem]; exact hp.mem, by rw [h.noDefer_eq]; exact hp.source,
    ⟨by rw [h.noDefer_eq]; exact hp.place.defer, by rw [h.holderOf_eq]; exact hp.place.free, by rw [h.pageStatus_eq]; exact hp.place.reached⟩,
    by rw [h.pageStatus_eq]; exact hp.reached, by rw [h.noDefer_eq]; exact hp.flagDefer, by rw [h.holderOf_eq]; exact hp.flagFree,
    by rw [h.pageStatus_eq]; exact hp.flagReached, hp.apart⟩

theorem readBytes_congr {k n : Nat} (h : ∀ j, k ≤ j → j < k + n → memByte t j = memByte s j) : readBytes t k n = readBytes s k n :=
  List.map_congr_left fun i hi => h _ (by omega) (by have := List.mem_range.mp hi; omega)

/-- The data is copied, and then the flag word, which lies outside it, takes the mask's bits. -/
theorem putHere_done (h : PutHere s w) : PutDone s (setColl (orWord (moverCopy (noteCorr s (collSrc w) (collLen w) false) (4, 3 * e + 1)
    (collSrc w) (collDst w) (collLen w)) (LColl.FLAG.get w) (LColl.MASK.get w)) e none) e w := by
  have hcorr := noteCorr_presented s (collSrc w) (collLen w) false
  have hmover : moverStatus s (collSrc w) (collDst w) (collLen w) = St.ok := by
    rw [moverStatus, h.reached, h.place.reached]
    rfl
  obtain ⟨hcopied, hmoved⟩ := moverCopy_copied (s := noteCorr s (collSrc w) (collLen w) false) (4, 3 * e + 1)
    (by rw [hcorr.moverStatus_eq]; exact hmover) (by rw [hcorr.noDefer_eq]; exact h.source) (by rw [hcorr.noDefer_eq]; exact h.place.defer)
    (by rw [hcorr.holderOf_eq]; exact h.place.free) (by rw [MemOk, hcorr.mem]; exact h.mem)
  have hall := hcorr.moved.trans hmoved
  obtain ⟨hdata, hrest⟩ := hcopied.from hcorr.mem
  generalize moverCopy (noteCorr s (collSrc w) (collLen w) false) (4, 3 * e + 1) (collSrc w) (collDst w) (collLen w) = v at hall hdata hrest
  have hmask : LColl.MASK.get w < 2 ^ 64 := Instants.get_lt LColl.MASK w
  obtain ⟨hflag, hkeep⟩ := orWord_ors (s := v) hmask (by rw [pageStatus_of_view hall.view]; exact h.flagReached)
    (by rw [noDefer_of_view hall.view]; exact h.flagDefer) (hall.holderOf_none h.flagFree)
  have hapart := h.apart
  simp only [overlaps, Bool.and_eq_false_iff, decide_eq_false_iff_not] at hapart
  generalize orWord v (LColl.FLAG.get w) (LColl.MASK.get w) = y at hflag hkeep
  have hset : (setColl y e none).mem = y.mem := rfl
  refine ⟨collRun_setColl .., ?_, ?_, fun j hj hj' => ?_⟩
  · rw [Sys2Proof.Fabric.readBytes_of_mem hset, ← hdata]
    exact readBytes_congr fun j hj hj' => hkeep j (by omega)
  · rw [readNat_of_mem hset, hflag, readNat, readNat, readBytes_congr (k := LColl.FLAG.get w) fun j hj hj' => hrest j (by omega)]
  · rw [Sys2Proof.Fabric.memByte_of_mem hset, hkeep j hj', hrest j hj]

theorem collPut_here (hrun : running .arith s = true) (hb : layerHolder s = some b) (h : Goes s b e w 1)
    (hpeer : LColl.PEER.get w = ownChip s) (hhere : PutHere s w) : Runs (.collPut e w) s (fun t => PutDone s t e w) := by
  have hrow : exec (.collPut e w) s = execCollPut e w s := rfl
  refine collRow_runs (hrow.trans (by rw [execCollPut])) hrun hb h ?_
  have hbegun := collBegin_stepped s b e w
  have hput := hbegun.putHere hhere
  have hchip : LColl.PEER.get w = ownChip (noteCorr (collBegin s b e w) (collSrc w) (collLen w) false) := by
    rw [Vector.ownChip_of_fab (noteCorr_presented ..).fab, hbegun.ways.ownChip_eq, hpeer]
  rw [collPut]
  simp only [hput.good, Bool.false_eq_true, if_false]
  rw [if_pos hchip]
  have hdone := putHere_done (e := e) hput
  exact ⟨hdone.idle, hdone.data.trans (by rw [Sys2Proof.Fabric.readBytes_of_mem hbegun.mem]),
    hdone.flag.trans (by rw [readNat_of_mem hbegun.mem]),
    fun j hj hj' => (hdone.rest j hj hj').trans (congrFun (Sys2Proof.Fabric.memByte_of_mem hbegun.mem) j)⟩

/-! ## To another chip (R327, R330, R333) -/

/-- Requests have left, or wait at their unit: no way of a packet and no collective step has changed. -/
structure Queued (s t : State) : Prop where
  only : OnlyChanges [.cores, .fab, .out] s t
  ways : SameWays s t
  coll : t.fab.coll = s.fab.coll

theorem queued_refl (s : State) : Queued s s := ⟨only_refl _ s, sameWays_refl s, rfl⟩

theorem Queued.trans (h : Queued s t) (h' : Queued t u) : Queued s u :=
  ⟨only_step h'.only (by decide) h.only, h.ways.trans h'.ways, h'.coll.trans h.coll⟩

theorem queuePacket_queued (s : State) (src out : Nat) (p : Packet) : Queued s (queuePacket s src out p) := by
  refine ⟨only_step (queuePacket_only ..) (by decide) (only_refl _ s), ⟨rfl, rfl, rfl, fun k => ?_⟩, rfl⟩
  rw [queuePacket]
  by_cases hk : k = out
  · subst hk
    rw [Links.port_updPort_self]
  · rw [Links.port_updPort_other _ _ hk]

/-- A request awaits its end, or waits at its unit. -/
def awaiting (s : State) : List FabReq := s.fab.outstanding ++ s.fab.held.map (·.req)

theorem launch_queued {h : HeldReq} (hclass : LPkt.CLASS.get h.pkt.hdr ≠ 3) (hchip : haveChip s = true)
    (hroute : (outPort s 6 h.req.dest).isSome = true) :
    Queued s (launch s h) ∧ (h.tracked = true → { h.req with issued := now s, limit := tierTimeout s } ∈ awaiting (launch s h)) := by
  obtain ⟨out, hout⟩ := Option.isSome_iff_exists.mp hroute
  unfold launch
  extract_lets q r f v
  have hv : Queued s v ∧ (h.tracked = true → r ∈ v.fab.outstanding) := by
    unfold v
    split
    · exact ⟨⟨only_step (set_fab_only s _) (by decide) (only_refl _ s), ⟨rfl, rfl, rfl, fun _ => rfl⟩, rfl⟩,
        fun _ => List.mem_append_right _ List.mem_cons_self⟩
    · next hno => exact ⟨queued_refl s, fun h => absurd h hno⟩
  have hport : (if haveChip v then outPort v 6 r.dest else none) = some out := by
    rw [hv.1.ways.haveChip_eq, hchip, if_pos rfl, hv.1.ways.outPort_eq]
    exact hout
  rw [hport]
  show Queued s (launchPacket v out h.pkt) ∧ (h.tracked = true → r ∈ awaiting (launchPacket v out h.pkt))
  rw [launchPacket, if_neg hclass]
  exact ⟨hv.1.trans (queuePacket_queued ..), fun htracked => List.mem_append_left _ (hv.2 htracked)⟩

/-- A request to a chip to which a way leads is sent or waits; where it is tracked it awaits its end. -/
theorem issueAs_queued (tracked : Bool) (span unit dest : Nat) {cls : Nat} (seat : Nat) (posted : Bool) (dst left : Nat)
    {mk : List (Fld × Nat)} (payload : BitVec 4096) (hcls : cls < 3) (hmk : ∀ e ∈ mk, FieldsApart LPkt.CLASS e.1)
    (hchip : haveChip s = true) (hroute : (outPort s 6 dest).isSome = true) :
    Queued s (issueAs s none tracked span unit dest cls seat posted dst left mk payload) ∧
      (tracked = true → ∃ q ∈ awaiting (issueAs s none tracked span unit dest cls seat posted dst left mk payload),
        q.unit = unit ∧ q.dest = dest ∧ q.posted = posted) := by
  unfold issueAs
  extract_lets n p h f v
  have hhdr : h.pkt.hdr = setAll 0#256 ([(LPkt.CLASS, cls), (LPkt.DEST, dest), (LPkt.SRC, ownChip s), (LPkt.STAG, ownTag s),
      (LPkt.SEAT, seat), (LPkt.UNIT, unit), (LPkt.SEQ, n)] ++ mk) := rfl
  have hclass : LPkt.CLASS.get h.pkt.hdr ≠ 3 := by
    rw [hhdr]
    exact class_of_issue hcls hmk
  have hv : Queued s v := ⟨only_step (set_fab_only s _) (by decide) (only_refl _ s), ⟨rfl, rfl, rfl, fun _ => rfl⟩, rfl⟩
  split
  · obtain ⟨hqueued, hawaits⟩ := launch_queued (s := v) hclass (by rw [hv.ways.haveChip_eq]; exact hchip)
      (by rw [hv.ways.outPort_eq]; exact hroute)
    exact ⟨hv.trans hqueued, fun htracked => ⟨_, hawaits htracked, rfl, rfl, rfl⟩⟩
  · refine ⟨⟨only_step (set_fab_only v _) (by decide) hv.only, hv.ways.trans ⟨rfl, rfl, rfl, fun _ => rfl⟩, rfl⟩, fun _ => ⟨h.req, ?_, rfl, rfl, rfl⟩⟩
    exact List.mem_append_right _ (List.mem_map_of_mem (List.mem_append_right _ List.mem_cons_self))

theorem putPackets_queued (unit dest : Nat) {cls : Nat} (seat off : Nat) (data : List Byte) (hcls : cls < 3)
    (hchip : haveChip s = true) (hroute : (outPort s 6 dest).isSome = true) : Queued s (putPackets s none unit dest cls seat off data) := by
  have hfold : ∀ (l : List Nat) (f : State → Nat → State), (∀ y i, Queued s y → Queued y (f y i)) → ∀ t, Queued s t → Queued s (l.foldl f t) :=
    fun l f hf => by
      induction l with
      | nil => exact fun t ht => ht
      | cons a l ih => exact fun t ht => ih _ (ht.trans (hf t a ht))
  refine hfold _ _ (fun y i hy => ?_) s (queued_refl s)
  refine (issueAs_queued _ _ _ _ _ _ _ _ _ hcls ?_ (by rw [hy.ways.haveChip_eq]; exact hchip) (by rw [hy.ways.outPort_eq]; exact hroute)).1
  simp [FieldsApart, LPkt.CLASS, LPkt.TYPE, LPkt.PLEN, LPkt.ADDR, LPkt.BLEN]

theorem collBegin_put (h : Goes s b e w 1) : collRun (collBegin s b e w) e = some ⟨w, now s, false⟩ := by
  have hfree : collFree s e = true := by
    have hmay := h.may
    simp only [collMay, h.op, bne_self_eq_false, Bool.false_and, Bool.or_false, Bool.and_eq_true] at hmay
    exact hmay.1
  have hnow : now (recordTaken s b e) = now s := by rw [now, now, (recordTaken_stepped s b e).only.same .clk (by decide)]
  rw [collBegin_eq, hfree, if_neg (by simp), collRun_setColl, hnow]

theorem collPut_away (hrun : running .arith s = true) (hb : layerHolder s = some b) (h : Goes s b e w 1)
    (hgood : uncorrAt s (collSrc w) (collLen w) = false) (hpeer : LColl.PEER.get w ≠ ownChip s) (hchip : haveChip s = true)
    (hroute : (outPort s 6 (LColl.PEER.get w)).isSome = true) : Runs (.collPut e w) s (fun t =>
      collRun t e = some ⟨w, now s, false⟩ ∧ t.mem = s.mem ∧
      ∃ q, q ∈ t.fab.outstanding ++ t.fab.held.map (·.req) ∧ q.unit = collUnit e ∧ q.dest = LColl.PEER.get w ∧ q.posted = false) := by
  have hrow : exec (.collPut e w) s = execCollPut e w s := rfl
  refine collRow_runs (hrow.trans (by rw [execCollPut])) hrun hb h ?_
  have hbegun := collBegin_stepped s b e w
  have hcorr := noteCorr_presented (collBegin s b e w) (collSrc w) (collLen w) false
  have hways := hbegun.ways.trans (sameWays_of_fab hcorr.fab)
  have hmem := hcorr.mem.trans hbegun.mem
  have hrunning : collRun (noteCorr (collBegin s b e w) (collSrc w) (collLen w) false) e = some ⟨w, now s, false⟩ := by
    rw [collRun, hcorr.fab]
    exact collBegin_put h
  rw [collPut]
  simp only [hbegun.uncorrAt_eq, hgood, Bool.false_eq_true, if_false]
  generalize noteCorr (collBegin s b e w) (collSrc w) (collLen w) false = v at hways hmem hrunning
  rw [if_neg (by rw [hways.ownChip_eq]; exact hpeer)]
  have hputs := putPackets_queued (s := v) (collUnit e) (LColl.PEER.get w) ((collBegin s b e w).bind b).seat (collDst w)
    (readBytes v (collSrc w) (collLen w)) (cls := 2) (by decide) (by rw [hways.haveChip_eq]; exact hchip) (by rw [hways.outPort_eq]; exact hroute)
  have hissued := issueAs_queued (s := putPackets v none (collUnit e) (LColl.PEER.get w) 2 ((collBegin s b e w).bind b).seat (collDst w)
      (readBytes v (collSrc w) (collLen w))) true 1 (collUnit e) (LColl.PEER.get w) (cls := 2) ((collBegin s b e w).bind b).seat false 0 0
    (mk := [(LPkt.TYPE, 3), (LPkt.AOP, 3), (LPkt.SIZE, 0), (LPkt.ADDR, LColl.FLAG.get w), (LPkt.DATA, LColl.MASK.get w)]) 0#4096 (by decide)
    (by simp [FieldsApart, LPkt.CLASS, LPkt.TYPE, LPkt.AOP, LPkt.SIZE, LPkt.ADDR, LPkt.DATA])
    (by rw [hputs.ways.haveChip_eq, hways.haveChip_eq]; exact hchip) (by rw [hputs.ways.outPort_eq, hways.outPort_eq]; exact hroute)
  obtain ⟨hqueued, hawaits⟩ := hissued
  obtain ⟨q, hq, hunit, hdest, hposted⟩ := hawaits rfl
  have hall := hputs.trans hqueued
  refine ⟨?_, (hall.only.same .mem (by decide)).trans hmem, q, hq, hunit, hdest, hposted⟩
  have hcoll : (issue (putPackets v none (collUnit e) (LColl.PEER.get w) 2 ((collBegin s b e w).bind b).seat (collDst w)
      (readBytes v (collSrc w) (collLen w))) (collUnit e) (LColl.PEER.get w) 2 ((collBegin s b e w).bind b).seat false 0 0
      [(LPkt.TYPE, 3), (LPkt.AOP, 3), (LPkt.SIZE, 0), (LPkt.ADDR, LColl.FLAG.get w), (LPkt.DATA, LColl.MASK.get w)] 0#4096).fab.coll = v.fab.coll :=
    hall.coll
  rw [collRun, hcoll]
  exact hrunning

theorem partialWords_named {c base arrival result parts : Nat} {x : Split} (hx : splitOf s c base arrival result parts = some x) (a : State)
    (wide : Bool) : partialWords a wide x = (List.range (partialElems wide)).map (fun i =>
      if x.next = 0 then partialVal a wide (base + x.next * 16384) i
      else (mxAdd ⟨readF32 a (result + 4 * i), false, false⟩ ⟨partialVal a wide (base + x.next * 16384) i, false, false⟩).v) := by
  obtain ⟨rfl, -, rfl, -, -⟩ := splitOf_named hx
  rfl

/-- Settles O43: the area's bits and the windows decide what a split reduction does next, and a collective step's own reads and writes
follow its beginning, which changes nothing but the engine's record. -/
theorem splitAndCollectiveSteps : Obligations.SplitAndCollectiveSteps := by
  intro s b e c base arrival result parts wide w x inputs data hrun hb n k goes open' writes
  refine ⟨?_, ?_, ?_, ?_, ?_, ?_, ?_, ?_⟩
  · intro hc hlatch hform hx a held
    have harea := areaForm_of_splitForm hform
    obtain ⟨-, harrival, -, hparts, hnone⟩ := splitOf_named hx
    refine ⟨splitPartialAdd_refused hrun hb hc hlatch hform hx, fun hyes => ⟨?_, ?_, ?_⟩⟩
    · rcases hnone with hnone | hsome
      · right
        have ha : a = openSplit c x s := by
          show (if (s.core c).split.isSome then s else openSplit c x s) = _
          rw [hnone]
          rfl
        rw [ha]
        refine ⟨fun p i hp hi hfree => ?_, openSplit_mem_of_none⟩
        have harr := openSplit_arrived (c := c) (x := x) (s := s) (by rw [hparts]; exact harea.parts) (by rw [harrival]; exact harea.arrival)
          hp hi (by rw [harrival]; exact hfree)
        rwa [harrival] at harr
      · left
        show (if (s.core c).split.isSome then s else openSplit c x s) = s
        rw [hsome]
        rfl
    · exact splitPartialAdd_waits hrun hb hc hlatch hform hx hyes
    · intro harr hheld hgood
      obtain ⟨t, ht, hwords, hsplit, hrest⟩ := splitPartialAdd_adds hrun hb hc hlatch hform hx hyes harr hheld hgood
      exact ⟨t, ht, hwords.trans (partialWords_named hx _ wide), hsplit, hrest⟩
  · exact splitTimeout_gives hrun hb
  · intro hgoes hgood
    refine ⟨fun hpeer hmem hsrc hopen hflag hfree hapart hreached hflagReached => ?_, collPut_away hrun hb (goes_of hgoes) hgood⟩
    obtain ⟨t, ht, hdone⟩ := collPut_here hrun hb (goes_of hgoes) hpeer
      ⟨hgood, hmem, hsrc, ⟨hopen.1, hopen.2.1, hopen.2.2⟩, hreached, hflag, hfree, hflagReached, hapart⟩
    exact ⟨t, ht, hdone.idle, hdone.data, hdone.flag, hdone.rest⟩
  · exact fun hgoes => collWait_gives hrun hb (goes_of hgoes)
  · exact fun hgoes hinputs hgood hopen => collAllreduce_completes hrun hb (goes_of hgoes) hinputs hgood ⟨hopen.1, hopen.2.1, hopen.2.2⟩
  · exact fun hgoes hinputs hgood hopen => collAllgather_completes hrun hb (goes_of hgoes) hinputs hgood ⟨hopen.1, hopen.2.1, hopen.2.2⟩
  · exact fun hgoes => ⟨fun hroot hgood hopen => collBcast_root hrun hb (goes_of hgoes) data hroot hgood ⟨hopen.1, hopen.2.1, hopen.2.2⟩,
      fun hroot hlen hopen => collBcast_member hrun hb (goes_of hgoes) hroot hlen ⟨hopen.1, hopen.2.1, hopen.2.2⟩⟩
  · exact collTimeout_gives hrun hb

end Sys2Proof.Splits
end

section
/-! What attention reads of the state, and what leaves it as it was (R150 to R154, R165, R170). -/

namespace Sys2Proof.Walks

open Sys2Proof Sys2Proof.Machine Sys2Proof.Laws Sys2Proof.Vector Sys2Proof.Movers Sys2Proof.Phases
open Sys2Proof.Lanes (KeepsIngots keepsIngots_refl)
open Sys2Proof.Serving (slotView)

variable {s t u : State} {b : Nat} {e : TEnt}

/-- A binding but for its runs' records, its entries' marks and its counters. -/
def tables (x : Bind) : Bind := { x with runs := [], turn := [], ctr := [] }

/-- Everything that attention reads is as it was: memory and what is deferred on it, the uncorrectable words, the bindings'
records and copies, the requests, the seats and the ways. -/
structure Seeing (s t : State) : Prop where
  only : OnlyChanges [.wordErr, .bank, .binds, .ingots, .hm, .cores, .clusters] s t
  view : KeepsIngots slotView s t
  slots : t.bank.riserSlots = s.bank.riserSlots
  bad : badWords t = badWords s
  tables : ∀ k, tables (t.bind k) = tables (s.bind k)

theorem seeing_refl (s : State) : Seeing s s := ⟨only_refl _ s, keepsIngots_refl s, rfl, rfl, fun _ => rfl⟩

theorem Seeing.trans (h : Seeing s t) (h' : Seeing t u) : Seeing s u :=
  ⟨only_step h'.only rfl h.only, h.view.trans h'.view, h'.slots.trans h.slots, h'.bad.trans h.bad,
    fun k => (h'.tables k).trans (h.tables k)⟩

theorem seeing_foldl {α : Type} {f : State → α → State} (h : ∀ s a, Seeing s (f s a)) (l : List α) (s : State) : Seeing s (l.foldl f s) := by
  induction l generalizing s with
  | nil => exact seeing_refl s
  | cons a l ih => exact (h s a).trans (ih _)

/-! ## What leaves it -/

theorem seeing_of_clusters (h : OnlyChanges [.cores, .clusters] s t) : Seeing s t := by
  refine ⟨only_step h (by decide) (only_refl _ s), Lanes.keepsIngots_of_only h (by decide), ?_, ?_, fun k => ?_⟩
  · rw [h.same .bank (by decide)]
  · funext k n
    rw [badWords, h.same .wordErr (by decide), badWords]
  · rw [bind_of_binds (h.same .binds (by decide))]

theorem seeing_updBind (s : State) (b : Nat) {f : Bind → Bind} (h : ∀ x, Walks.tables (f x) = Walks.tables x) : Seeing s (s.updBind b f) := by
  have honly : OnlyChanges [.binds] s (s.updBind b f) := state_updBind_only ..
  refine ⟨only_step honly (by decide) (only_refl _ s), Lanes.keepsIngots_of_only honly (by decide), rfl, rfl, fun k => ?_⟩
  by_cases hk : k = b
  · subst hk
    rw [State.updBind, setBind_bind, h]
  · rw [State.updBind, setBind_bind_other _ _ _ _ hk]

theorem seeing_countBind (s : State) (b k n : Nat) : Seeing s (s.countBind b k n) := seeing_updBind s b fun _ => rfl

theorem seeing_setLastRead (s : State) (b : Nat) (e : TEnt) (j : Nat) : Seeing s (setLastRead s b e j) := by
  unfold setLastRead
  split
  · exact seeing_updBind s b fun _ => rfl
  · exact seeing_refl s

/-- What accesses present or count leaves attention's reads as they were. -/
theorem seeing_of_presented (h : Presented s t) (hslots : t.bank.riserSlots = s.bank.riserSlots) (hbad : badWords t = badWords s) :
    Seeing s t :=
  ⟨only_step h.only (by decide) (only_refl _ s), h.view, hslots, hbad,
    fun k => by rw [bind_of_binds (h.only.same .binds (by decide))]⟩

theorem badWords_clearCorr (s : State) (k n : Nat) : badWords (clearCorr s k n) = badWords s := by
  funext j m
  rw [badWords, clearCorr, badWords, List.filter_filter]
  congr 2
  funext x
  cases hx : x.2 <;> simp

theorem seeing_noteCorr (s : State) (k n : Nat) (pip : Bool) : Seeing s (noteCorr s k n pip) := by
  have hcount : Seeing s (countCorr s k n pip) := by
    refine seeing_foldl (fun s w => ?_) _ s
    split
    · exact seeing_of_presented (Slotted.presented (Serving.slotted_countIngot ..)) rfl rfl
    · exact seeing_of_presented (presented_of_only (state_countDev_only ..) (by decide)) rfl rfl
    · exact seeing_of_presented (presented_of_only (state_countDev_only ..) (by decide)) rfl rfl
    · exact seeing_refl s
  refine hcount.trans (seeing_foldl (fun s w => ?_) _ _)
  split
  · rw [queueFix]
    exact seeing_of_presented (Slotted.presented (Serving.slotted_updBankGroup ..)) rfl rfl
  · exact seeing_of_presented (presented_of_only (scrubFix_only ..) (by decide)) rfl rfl
  · exact seeing_of_presented (presented_of_only (clearCorr_only ..) (by decide)) rfl (badWords_clearCorr ..)

theorem seeing_noteRanges (s : State) (l : List (Nat × Nat)) : Seeing s (noteRanges s l) :=
  seeing_foldl (fun s _ => seeing_noteCorr s _ _ _) l s

/-! ## Reads of memory and their admission -/

section
variable (h : Seeing s t)
include h

theorem Seeing.mem : t.mem = s.mem := h.only.same .mem (by decide)
theorem Seeing.fab : t.fab = s.fab := h.only.same .fab (by decide)
theorem Seeing.seats : t.seats = s.seats := h.only.same .seats (by decide)
theorem Seeing.reqs : t.reqs = s.reqs := h.only.same .reqs (by decide)

theorem Seeing.brec (k : Nat) : (t.bind k).brec = (s.bind k).brec := by
  have hbrec := congrArg Bind.brec (h.tables k)
  exact hbrec

theorem Seeing.flushes (k : Nat) : (t.bind k).flushes = (s.bind k).flushes := by
  have hflushes := congrArg Bind.flushes (h.tables k)
  exact hflushes

theorem Seeing.seat (k : Nat) : (t.bind k).seat = (s.bind k).seat := by
  have hseat := congrArg Bind.seat (h.tables k)
  exact hseat

theorem Seeing.ownedArea : Machine.ownedArea t = Machine.ownedArea s := by
  have hloaded : ∀ k, (t.bind k).loaded = (s.bind k).loaded := fun k => by
    have hsame := congrArg Bind.loaded (h.tables k)
    exact hsame
  have hlogit : ∀ k, (t.bind k).logit = (s.bind k).logit := fun k => by
    have hsame := congrArg Bind.logit (h.tables k)
    exact hsame
  funext off len
  simp only [Machine.ownedArea, hmFixed, loadedBinds, h.slots, hloaded, hlogit, h.brec]

theorem Seeing.memByte : Machine.memByte t = Machine.memByte s := by
  exact Fabric.memByte_of_mem h.mem

theorem Seeing.uncorrAt : Machine.uncorrAt t = Machine.uncorrAt s := by
  have hany : ∀ (x : State) k n, Machine.uncorrAt x k n = !(badWords x k n).isEmpty := fun x k n => by
    rw [Machine.uncorrAt, badWords, List.isEmpty_map, Bool.eq_iff_iff]
    simp [List.filter_eq_nil_iff]
  funext k n
  rw [hany, h.bad, hany]

theorem Seeing.defer (i : Nat) : (t.ingot i).defer = (s.ingot i).defer := congrArg (fun x => x.defer) (h.view.same i)

theorem Seeing.viewNat : Machine.viewNat t = Machine.viewNat s := by
  have hbyte : viewByte t = viewByte s := funext fun k => by
    simp only [viewByte, h.defer, h.memByte]
  funext k n
  simp only [Machine.viewNat, viewBytes, hbyte]

theorem Seeing.keyOf : Machine.keyOf t = Machine.keyOf s := funext fun a => Stores.keyOf_of_fab h.fab a

theorem Seeing.haveChip : Machine.haveChip t = Machine.haveChip s := by rw [Machine.haveChip, h.fab, Machine.haveChip]

theorem Seeing.addrStatus : Machine.addrStatus t = Machine.addrStatus s := by
  funext a len
  rw [Machine.addrStatus, placeOf_of_fab h.fab, h.haveChip, Machine.addrStatus]

theorem Seeing.inSeatFor (w : Bool) : Machine.inSeatFor w t = Machine.inSeatFor w s := by
  funext seat a len
  rw [Machine.inSeatFor, inWindows_of_same h.fab h.seats, placeOf_of_fab h.fab, h.ownedArea, Machine.inSeatFor]

theorem Seeing.accessStatus : Machine.accessStatus t = Machine.accessStatus s := by
  funext n write a len
  rw [Machine.accessStatus, h.addrStatus, tierOf, placeOf_of_fab h.fab, h.inSeatFor, Machine.accessStatus, tierOf]

theorem Seeing.rangesStatus : Machine.rangesStatus t = Machine.rangesStatus s := by
  funext seat write align l
  simp only [Machine.rangesStatus, rangesIn, devAddr_of_fab h.fab, h.addrStatus, inWindows_of_same h.fab h.seats, h.ownedArea]

theorem Seeing.extStatus (k n : Nat) : Machine.extStatus t k n false = Machine.extStatus s k n false := by
  have hdeferred : viewDeferred t = viewDeferred s := funext fun k => funext fun n => by simp only [viewDeferred, h.defer]
  simp only [Machine.extStatus, pageStatus_of_view h.view, uncorrSeen, h.bad, hdeferred, Bool.false_eq_true, if_false]

theorem Seeing.canRead : Machine.canRead t = Machine.canRead s := by
  funext seat a len
  rw [Machine.canRead, h.accessStatus, h.keyOf, h.extStatus, Machine.canRead]

/-! ## What attention reads -/

theorem Seeing.holdsRequests : Machine.holdsRequests t = Machine.holdsRequests s := by
  funext k
  rw [Machine.holdsRequests, sliceBinding, isLeader, h.fab, Machine.holdsRequests, sliceBinding, isLeader]

theorem Seeing.entSeat : Machine.entSeat t = Machine.entSeat s := by
  funext k x
  rw [Machine.entSeat, h.holdsRequests, rSeat, State.req, h.reqs, h.seat, Machine.entSeat, rSeat, State.req]

theorem Seeing.colEntry : Machine.colEntry t = Machine.colEntry s := by
  funext x j
  rw [Machine.colEntry, h.viewNat, h.keyOf, Machine.colEntry]

theorem Seeing.sees : Machine.sees t = Machine.sees s := by
  have hmask : smaskSees t = smaskSees s := funext fun x => funext fun i => funext fun q => by
    rw [smaskSees, h.memByte, h.keyOf, smaskSees]
  funext k x i q
  rw [Machine.sees, h.brec, hmask, Machine.sees]

theorem Seeing.fullCols : Machine.fullCols t = Machine.fullCols s := by
  funext k x
  rw [Machine.fullCols, h.brec, Machine.fullCols]

theorem Seeing.pipPlace : Machine.pipPlace t = Machine.pipPlace s := by
  funext k a
  rw [Machine.pipPlace, h.brec, placeOf_of_fab h.fab, ownChip_of_fab h.fab, Machine.pipPlace]

theorem Seeing.colFault : Machine.colFault t = Machine.colFault s := by
  have hlane : laneStatus t = laneStatus s := funext fun k => funext fun x => funext fun lane => funext fun j => by
    rw [laneStatus, h.accessStatus, h.entSeat, lanePage, h.colEntry, laneStatus, lanePage]
  have hentry : entryStatus t = entryStatus s := funext fun k => funext fun x => funext fun j => by
    rw [entryStatus, h.accessStatus, h.entSeat, entryStatus]
  have hreach : reachable t = reachable s := funext fun c => by
    rw [reachable, ownChip_of_fab h.fab, h.haveChip, Fabric.outPort_of_fab h.fab, reachable]
  funext k x lane j
  rw [Machine.colFault, hlane, hentry, h.pipPlace, lanePage, h.colEntry, hreach, Machine.colFault, lanePage]

theorem Seeing.smaskReadable : Machine.smaskReadable t = Machine.smaskReadable s := by
  funext k x i j
  simp only [Machine.smaskReadable, h.brec, h.canRead, h.entSeat]

theorem Seeing.colReadable : Machine.colReadable t = Machine.colReadable s := by
  funext k x lane i j
  rw [Machine.colReadable, h.colFault, h.smaskReadable, Machine.colReadable]

theorem Seeing.scaledQuery : Machine.scaledQuery t = Machine.scaledQuery s := by
  funext k w cl row head
  rw [Machine.scaledQuery, h.brec, readNat_of_mem h.mem, Machine.scaledQuery]

theorem Seeing.riserKey : Machine.riserKey t = Machine.riserKey s := by
  funext k
  rw [Machine.riserKey, dieSlots, h.slots, Machine.riserKey, dieSlots]

theorem Seeing.laneKey : Machine.laneKey t = Machine.laneKey s := by
  funext k a lane
  rw [Machine.laneKey, h.flushes, h.riserKey, h.keyOf, Machine.laneKey]

theorem Seeing.columnEntries : Machine.columnEntries t = Machine.columnEntries s := by
  funext k x lane i j
  rw [Machine.columnEntries, h.brec, h.sees, h.laneKey, h.colEntry, Machine.columnEntries]

theorem Seeing.riserEntries : Machine.riserEntries t = Machine.riserEntries s := by
  have hset : setKey t = setKey s := funext fun k => funext fun n => by
    rw [setKey, h.holdsRequests, h.riserKey, h.keyOf, h.fab, setKey]
  have hsets : riserSets t = riserSets s := funext fun k => funext fun x => by rw [riserSets, h.holdsRequests, riserSets]
  funext k x lane i
  rw [Machine.riserEntries, h.brec, h.sees, hset, hsets, Machine.riserEntries]

theorem Seeing.partialOf : Machine.partialOf t = Machine.partialOf s := by
  have helem : readElem t = readElem s := funext fun r => funext fun k => funext fun i => by
    rw [readElem, readNib, h.memByte, readElem, readNib]
  have hk : kElem t = kElem s := funext fun r => funext fun k => funext fun i => funext fun d => by rw [kElem, helem, kElem]
  have hv : vElem t = vElem s := funext fun r => funext fun k => funext fun i => funext fun d => by rw [vElem, helem, vElem]
  have hscore : scoreOf t = scoreOf s := funext fun r => funext fun q => funext fun k => funext fun i => by
    rw [scoreOf, hk, h.memByte, scoreOf]
  funext r q l
  rw [Machine.partialOf, hscore, hv, h.memByte, Machine.partialOf]

end

end Sys2Proof.Walks
end

section
/-! A walk's batches: their packets, and what their sending leaves (R148, R164, R168). -/

namespace Sys2Proof.Walks

open Sys2Proof Sys2Proof.Machine Sys2Proof.Laws Sys2Proof.Merging

variable {s t u : State} {b cl layer en g n half lane : Nat} {e : TEnt} {w : BitVec 1024} {l : List AUnit}

/-! ## What sending leaves of the cluster -/

/-- A cluster but for what sending a batch notes: the entries served, the triples awaited, the crucibles in use. -/
def unsent (x : Cluster) : Cluster := { x with served := [], awaits := [], used := [], weights := [] }

/-- Packets have left a cluster: it awaits what it awaited, and memory is as it was. -/
structure Sent (cl : Nat) (s t : State) : Prop where
  own : unsent (t.cluster cl) = unsent (s.cluster cl)
  awaits : ∀ a, a ∈ (s.cluster cl).awaits → a ∈ (t.cluster cl).awaits
  mem : t.mem = s.mem

theorem sent_refl (cl : Nat) (s : State) : Sent cl s s := ⟨rfl, fun _ h => h, rfl⟩

theorem Sent.trans (h : Sent cl s t) (h' : Sent cl t u) : Sent cl s u :=
  ⟨h'.own.trans h.own, fun a ha => h'.awaits a (h.awaits a ha), h'.mem.trans h.mem⟩

theorem sent_foldl {α : Type} {f : State → α → State} (h : ∀ s a, Sent cl s (f s a)) (l : List α) (s : State) : Sent cl s (l.foldl f s) := by
  induction l generalizing s with
  | nil => exact sent_refl cl s
  | cons a l ih => exact (h s a).trans (ih _)

theorem sent_of_only {l : List Part} (h : OnlyChanges l s t) (hl : ∀ p ∈ [Part.clusters, .mem], p ∉ l) : Sent cl s t := by
  have hclusters := h.same .clusters (hl _ (by simp))
  have hsame : t.cluster cl = s.cluster cl := by rw [State.cluster, hclusters, State.cluster]
  exact ⟨by rw [hsame], fun a ha => by rwa [hsame], h.same .mem (hl _ (by simp))⟩

theorem sent_setCluster (s : State) (cl : Nat) {x : Cluster} (hown : unsent x = unsent (s.cluster cl))
    (hawaits : ∀ a, a ∈ (s.cluster cl).awaits → a ∈ x.awaits) : Sent cl s (s.setCluster cl x) :=
  ⟨by rw [setCluster_cluster, hown], fun a ha => by rw [setCluster_cluster]; exact hawaits a ha, rfl⟩

theorem Sent.walks (h : Sent cl s t) : (t.cluster cl).walks = (s.cluster cl).walks := by
  have hwalks := congrArg Cluster.walks h.own
  exact hwalks

theorem Sent.wants (h : Sent cl s t) : (t.cluster cl).wants = (s.cluster cl).wants := by
  have hwants := congrArg Cluster.wants h.own
  exact hwants

theorem sent_of_released (h : Released cl s t) : Sent cl s t := by
  have hown := congrArg unsent h.own
  exact ⟨hown, fun a ha => by rwa [h.awaits], h.only.same .mem (by decide)⟩

/-! ## The end of a pair's step -/

/-- What a pair's step ends with: its faults, and the RELEASEs then due. -/
def pairEnded (b cl n lane : Nat) (e : TEnt) (s : State) : State :=
  sendReleases (markFault (if n = 0 then notePair s b cl lane e else s) b e (pairFaults s b e lane)) b cl

theorem pairEnded_sent (s : State) : Sent cl s (pairEnded b cl n lane e s) := by
  unfold pairEnded
  refine Sent.trans (sent_of_only (markFault_only ..) (by decide) |> Sent.trans ?_) (sent_of_released (sendReleases_released ..))
  split
  · exact sent_of_only (notePair_only ..) (by decide)
  · exact sent_refl cl s

/-- The walk has come past batch n of a pair. -/
def pastBatch (cl layer en g n : Nat) (s : State) : State :=
  s.setCluster cl { s.cluster cl with wants := none, copyWait := none, walks :=
    ((s.cluster cl).walks.filter (fun x => !(x.layer == layer && x.entry == en && x.group == g))) ++ [⟨layer, en, g, n + 1⟩] }

theorem nextBatch_of_sent (h : Sent cl (pastBatch cl layer en g n s) t) : nextBatch (t.cluster cl) layer en g = some (n + 1) := by
  have hnone : (((s.cluster cl).walks.filter (fun x => !(x.layer == layer && x.entry == en && x.group == g))).find?
      (fun x => x.layer == layer && x.entry == en && x.group == g)) = none := by
    rw [List.find?_eq_none]
    intro x hx
    simpa only [Bool.not_eq_true'] using Bool.eq_false_iff.mp (by simpa only [Bool.not_eq_true'] using (List.mem_filter.mp hx).2)
  rw [nextBatch, h.walks, pastBatch, setCluster_cluster, List.find?_append, hnone]
  simp

theorem wants_of_sent (h : Sent cl (pastBatch cl layer en g n s) t) : (t.cluster cl).wants = none := by
  rw [h.wants, pastBatch, setCluster_cluster]

/-! ## A batch's packets -/

/-- The descriptors of a batch: per column, rows and splits in order. -/
def batchItems (s : State) (b : Nat) (e : TEnt) (lane : Nat) (l : List AUnit) : List (Nat × AUnit × ACol) :=
  let l := readUnits s b e lane l
  ((List.range (fullCols s b e)).filter (fun j => l.any (fun u => u.cols.any (fun c => c.j == j)))).flatMap (fun j =>
    (List.range l.length).filterMap (fun k =>
      match l[k]? with
      | some u => (u.cols.find? (fun c => c.j == j)).map (fun c => (k, u, c))
      | none => none))

/-- The runs of a batch's columns have taken the turn as their LASTREAD. -/
def batchRead (s : State) (b : Nat) (e : TEnt) (lane : Nat) (l : List AUnit) : State :=
  let l := readUnits s b e lane l
  ((List.range (fullCols s b e)).filter (fun j => l.any (fun u => u.cols.any (fun c => c.j == j)))).foldl (fun s j => setLastRead s b e j) s

/-- The state once a batch's descriptors are sent. -/
def descsSent (s : State) (b : Nat) (e : TEnt) (w : BitVec 1024) (cl layer en g : Nat) (l : List AUnit) : State :=
  ((batchItems s b e (walkLane w g) l).foldl (fun acc x => sendDesc b en e w cl (attnTag layer en g) x.1 x.2.1 acc x.2.2)
    ⟨batchRead s b e (walkLane w g) l, []⟩).s

/-- A CLOSE to one crucible of a batch, whose triples the cluster then awaits. -/
def closeCrucible (b : Nat) (e : TEnt) (cl layer en g half : Nat) (items : List (Nat × AUnit × ACol)) (s : State) (p : Nat × Nat) : State :=
  let tag := attnTag layer en g
  let mine := items.filter (fun x => x.2.2.chip == p.1 && x.2.2.ingot == p.2)
  let rows := (mine.flatMap (fun x => (List.range x.2.1.nq).map (fun h => (x.2.1.row, x.2.1.head0 + h)))).eraseDups
  let s := sendDisp s (some (.entry b en)) cl p.1 p.2 (entSeat s b e) (pktHdr s 4 p.2 cl tag mine.length 0) []
  let c := s.cluster cl
  let used := if c.used.contains (layer, p.1, p.2) then c.used else c.used ++ [(layer, p.1, p.2)]
  s.setCluster cl { c with awaits := c.awaits ++ [⟨layer, en, g, p.1, p.2, tag, half, rows, now s, tierTimeout s⟩], used := used }

theorem sendBatch_eq (s : State) : sendBatch s b e w cl layer en g half l =
    (crucibles ((batchItems s b e (walkLane w g) l).map (fun x => x.2.2))).foldl
      (closeCrucible b e cl layer en g half (batchItems s b e (walkLane w g) l)) (descsSent s b e w cl layer en g l) := rfl

theorem sendQuery_sent (s : State) (seat chip ingot qid : Nat) (vectors : List W32) :
    Sent cl s (sendQuery s b en seat cl chip ingot qid vectors) := by
  have hserved : Sent cl s (s.setCluster cl { s.cluster cl with served := Tab.set (s.cluster cl).served 256 qid en }) :=
    sent_setCluster s cl rfl fun _ ha => ha
  exact hserved.trans (sent_of_only (sendDisp_only ..) (by decide))

theorem sendDesc_sent (tag k : Nat) (u : AUnit) (acc : Sending) (c : ACol) : Sent cl acc.s (sendDesc b en e w cl tag k u acc c).s := by
  unfold sendDesc
  extract_lets s seat qid at' holds vectors s1 d body s2 s3 s4
  have h1 : Sent cl acc.s s1 := by
    unfold s1
    split
    · exact sent_refl cl s
    · exact sendQuery_sent ..
  have h2 : Sent cl s1 s2 := sent_of_only (sendDisp_only ..) (by decide)
  have hcount : ∀ x k, Sent cl x (x.countBind b k 1) := fun x k => sent_of_only (state_countBind_only ..) (by decide)
  have h4 : Sent cl s3 s4 := by
    unfold s4
    split
    · exact sent_refl cl s3
    · exact hcount ..
  exact ((h1.trans h2).trans (hcount s2 _)).trans h4

theorem descsSent_sent (s : State) : Sent cl s (descsSent s b e w cl layer en g l) := by
  have hfold : ∀ (items : List (Nat × AUnit × ACol)) (acc : Sending),
      Sent cl acc.s (items.foldl (fun acc x => sendDesc b en e w cl (attnTag layer en g) x.1 x.2.1 acc x.2.2) acc).s := fun items => by
    induction items with
    | nil => exact fun acc => sent_refl cl acc.s
    | cons x items ih => exact fun acc => (sendDesc_sent ..).trans (ih _)
  have hread : Sent cl s (batchRead s b e (walkLane w g) l) :=
    sent_foldl (fun s j => sent_of_only (setLastRead_only s b e j) (by decide)) _ s
  exact hread.trans (hfold _ ⟨_, []⟩)

theorem closeCrucible_sent (items : List (Nat × AUnit × ACol)) (s : State) (p : Nat × Nat) :
    Sent cl s (closeCrucible b e cl layer en g half items s p) := by
  unfold closeCrucible
  extract_lets tag mine rows u c used
  have hu : Sent cl s u := sent_of_only (sendDisp_only ..) (by decide)
  exact hu.trans (sent_setCluster u cl rfl fun _ ha => List.mem_append_left _ ha)

/-- The cluster awaits a batch's triples from a crucible. -/
def AwaitsFrom (cl layer en g half : Nat) (p : Nat × Nat) (t : State) : Prop :=
  ∃ a, a ∈ (t.cluster cl).awaits ∧ a.layer = layer ∧ a.entry = en ∧ a.group = g ∧ a.chip = p.1 ∧ a.ingot = p.2 ∧ a.half = half

theorem AwaitsFrom.sent {p : Nat × Nat} (h : AwaitsFrom cl layer en g half p s) (hs : Sent cl s t) : AwaitsFrom cl layer en g half p t := by
  obtain ⟨a, ha, hrest⟩ := h
  exact ⟨a, hs.awaits a ha, hrest⟩

theorem closeCrucible_awaits (items : List (Nat × AUnit × ACol)) (s : State) (p : Nat × Nat) :
    AwaitsFrom cl layer en g half p (closeCrucible b e cl layer en g half items s p) := by
  unfold closeCrucible
  extract_lets tag mine rows u c used
  exact ⟨_, by rw [setCluster_cluster]; exact List.mem_append_right _ (List.mem_singleton.mpr rfl), rfl, rfl, rfl, rfl, rfl, rfl⟩

theorem sendBatch_sent (s : State) : Sent cl s (sendBatch s b e w cl layer en g half l) := by
  rw [sendBatch_eq]
  exact (descsSent_sent s).trans (sent_foldl (closeCrucible_sent _) _ _)

theorem foldl_awaits {f : State → Nat × Nat → State} (hsent : ∀ s p, Sent cl s (f s p))
    (hawaits : ∀ s p, AwaitsFrom cl layer en g half p (f s p)) {p : Nat × Nat} {l : List (Nat × Nat)} (hp : p ∈ l) (s : State) :
    AwaitsFrom cl layer en g half p (l.foldl f s) := by
  induction l generalizing s with
  | nil => cases hp
  | cons q l ih =>
    rcases List.mem_cons.mp hp with rfl | hp
    · exact (hawaits s p).sent (sent_foldl hsent l _)
    · exact ih hp _

theorem sendBatch_awaits {x : Nat × AUnit × ACol} (hx : x ∈ batchItems s b e (walkLane w g) l) :
    AwaitsFrom cl layer en g half (x.2.2.chip, x.2.2.ingot) (sendBatch s b e w cl layer en g half l) := by
  rw [sendBatch_eq]
  refine foldl_awaits (closeCrucible_sent _) (closeCrucible_awaits _) ?_ _
  rw [crucibles, List.mem_eraseDups, List.mem_map]
  exact ⟨x.2.2, List.mem_map_of_mem hx, rfl⟩

/-! ## The columns of a batch -/

/-- Columns of one number lie in one crucible. -/
def OnePlace (s : State) (b : Nat) (e : TEnt) (lane : Nat) (l : List ACol) : Prop :=
  ∀ c, c ∈ l → c.j < fullCols s b e ∧ ∃ off, pipPlace s b (lanePage s e lane c.j) = some (c.chip, off) ∧ c.ingot = off / ingotSize

theorem rowCols_onePlace (i : Nat) : OnePlace s b e lane (rowCols s b e lane i) := by
  intro c hc
  obtain ⟨j, hj, heq⟩ := List.mem_filterMap.mp hc
  split at heq
  · cases heq
  · rename_i chip off hplace
    split at heq
    · cases heq
    · cases heq
      exact ⟨List.mem_range.mp hj, off, hplace, rfl⟩

theorem onePlace_pairUnits {v : AUnit} (h : v ∈ pairUnits s b e g lane) : OnePlace s b e lane v.cols := by
  unfold pairUnits at h
  obtain ⟨i, -, hin⟩ := List.mem_flatMap.mp h
  obtain ⟨k, -, rfl⟩ := List.mem_map.mp hin
  exact rowCols_onePlace i

/-- One column more in the runs that lie in at most k crucibles each. -/
def addColumn (k : Nat) (acc : List (List ACol)) (c : ACol) : List (List ACol) :=
  match acc.getLast? with
  | some run => if (crucibles (run ++ [c])).length ≤ k then acc.dropLast ++ [run ++ [c]] else acc ++ [[c]]
  | none => [[c]]

theorem mem_addColumn {k : Nat} {acc : List (List ACol)} {x c : ACol} {run : List ACol} (hrun : run ∈ addColumn k acc x) (hc : c ∈ run) :
    c = x ∨ ∃ r ∈ acc, c ∈ r := by
  have hnew : ∀ run ∈ [[x]], c ∈ run → c = x := fun run hrun hc => by
    rw [List.mem_singleton.mp hrun] at hc
    exact List.mem_singleton.mp hc
  unfold addColumn at hrun
  split at hrun
  · rename_i last hlast
    split at hrun
    · rcases List.mem_append.mp hrun with hrun | hrun
      · exact .inr ⟨run, List.mem_of_mem_dropLast hrun, hc⟩
      · rw [List.mem_singleton.mp hrun] at hc
        rcases List.mem_append.mp hc with hc | hc
        · exact .inr ⟨last, List.mem_of_getLast? hlast, hc⟩
        · exact .inl (List.mem_singleton.mp hc)
    · rcases List.mem_append.mp hrun with hrun | hrun
      · exact .inr ⟨run, hrun, hc⟩
      · exact .inl (hnew run hrun hc)
  · exact .inl (hnew run hrun hc)

theorem mem_foldl_addColumn {k : Nat} {cols : List ACol} {acc : List (List ACol)} {c : ACol} {run : List ACol}
    (hrun : run ∈ cols.foldl (addColumn k) acc) (hc : c ∈ run) : c ∈ cols ∨ ∃ r ∈ acc, c ∈ r := by
  induction cols generalizing acc with
  | nil => exact .inr ⟨run, hrun, hc⟩
  | cons x cols ih =>
    rcases ih hrun with hin | ⟨r, hr, hcr⟩
    · exact .inl (List.mem_cons_of_mem _ hin)
    · rcases mem_addColumn hr hcr with rfl | hold
      · exact .inl List.mem_cons_self
      · exact .inr hold

theorem mem_cutCols {k : Nat} {cols run : List ACol} {c : ACol} (hrun : run ∈ cutCols k cols) (hc : c ∈ run) : c ∈ cols := by
  rcases mem_foldl_addColumn hrun hc with hin | ⟨r, hr, -⟩
  · exact hin
  · cases hr

/-- One unit more in a pair's batches. -/
def addUnit (r : BitVec 8192) (acc : List (List AUnit) × Nat × Bool) (u : AUnit) : List (List AUnit) × Nat × Bool :=
  let z := unitSize r u
  if z > halfBytes then
    (acc.1 ++ (cutCols (halfBytes / unitRow r u) u.cols).map (fun cols => [{ u with cols := cols }]), 0, false)
  else if acc.2.2 && decide (acc.2.1 + z ≤ halfBytes) then
    (acc.1.dropLast ++ [(acc.1.getLast?.getD []) ++ [u]], acc.2.1 + z, true)
  else (acc.1 ++ [[u]], z, true)

/-- A unit reads columns of a unit of the pair. -/
def ColsOf (units : List AUnit) (v : AUnit) : Prop := ∃ x ∈ units, ∀ c ∈ v.cols, c ∈ x.cols

theorem addUnit_cols {r : BitVec 8192} {units : List AUnit} {acc : List (List AUnit) × Nat × Bool} {x : AUnit} (hx : x ∈ units)
    (hacc : ∀ l ∈ acc.1, ∀ v ∈ l, ColsOf units v) : ∀ l ∈ (addUnit r acc x).1, ∀ v ∈ l, ColsOf units v := by
  have hself : ColsOf units x := ⟨x, hx, fun _ hc => hc⟩
  intro l hl v hv
  unfold addUnit at hl
  extract_lets z at hl
  split at hl
  · rcases List.mem_append.mp hl with hl | hl
    · exact hacc l hl v hv
    · obtain ⟨cols, hcols, rfl⟩ := List.mem_map.mp hl
      rw [List.mem_singleton.mp hv]
      exact ⟨x, hx, fun c hc => mem_cutCols hcols hc⟩
  · split at hl
    · rcases List.mem_append.mp hl with hl | hl
      · exact hacc l (List.mem_of_mem_dropLast hl) v hv
      · rw [List.mem_singleton.mp hl] at hv
        rcases List.mem_append.mp hv with hv | hv
        · cases hlast : acc.1.getLast? with
          | none => simp [hlast] at hv
          | some last =>
            rw [hlast] at hv
            exact hacc last (List.mem_of_getLast? hlast) v hv
        · rwa [List.mem_singleton.mp hv]
    · rcases List.mem_append.mp hl with hl | hl
      · exact hacc l hl v hv
      · rw [List.mem_singleton.mp hl] at hv
        rwa [List.mem_singleton.mp hv]

theorem foldl_addUnit_cols {r : BitVec 8192} {units rest : List AUnit} {acc : List (List AUnit) × Nat × Bool} (hrest : ∀ x ∈ rest, x ∈ units)
    (hacc : ∀ l ∈ acc.1, ∀ v ∈ l, ColsOf units v) : ∀ l ∈ (rest.foldl (addUnit r) acc).1, ∀ v ∈ l, ColsOf units v := by
  induction rest generalizing acc with
  | nil => exact hacc
  | cons x rest ih =>
    exact ih (fun y hy => hrest y (List.mem_cons_of_mem _ hy)) (addUnit_cols (hrest x List.mem_cons_self) hacc)

theorem cols_batchesOf {r : BitVec 8192} {units : List AUnit} (hl : l ∈ batchesOf r units) {v : AUnit} (hv : v ∈ l) : ColsOf units v :=
  foldl_addUnit_cols (fun _ hx => (List.mem_filter.mp hx).1) (by simp) l hl v hv

theorem onePlace_of_batch {r : BitVec 8192} (hl : l ∈ batchesOf r (pairUnits s b e g lane)) {v : AUnit} (hv : v ∈ l) :
    OnePlace s b e lane v.cols := by
  obtain ⟨x, hx, hcols⟩ := cols_batchesOf hl hv
  exact fun c hc => onePlace_pairUnits hx c (hcols c hc)

/-- A readable column of a batch's unit has its descriptor. -/
theorem batchItems_mem {v : AUnit} {k : ACol} (hv : v ∈ l) (hone : OnePlace s b e lane v.cols) (hk : k ∈ v.cols)
    (hread : colReadable s b e lane (v.row - entRow e) k.j = true) :
    ∃ x ∈ batchItems s b e lane l, x.2.2.chip = k.chip ∧ x.2.2.ingot = k.ingot := by
  let v' : AUnit := { v with cols := v.cols.filter (fun c => colReadable s b e lane (v.row - entRow e) c.j) }
  have hv' : v' ∈ readUnits s b e lane l := List.mem_map.mpr ⟨v, hv, rfl⟩
  have hk' : k ∈ v'.cols := List.mem_filter.mpr ⟨hk, hread⟩
  obtain ⟨i, hi, hget⟩ := List.mem_iff_getElem.mp hv'
  obtain ⟨c, hc⟩ : ∃ c, v'.cols.find? (fun c => c.j == k.j) = some c :=
    Option.isSome_iff_exists.mp (List.find?_isSome.mpr ⟨k, hk', by simp⟩)
  have hcj : c.j = k.j := by simpa using List.find?_some hc
  have hcv : c ∈ v.cols := (List.mem_filter.mp (List.mem_of_find?_eq_some hc)).1
  obtain ⟨hlt, off, hplace, hingot⟩ := hone k hk
  obtain ⟨-, off', hplace', hingot'⟩ := hone c hcv
  rw [hcj, hplace] at hplace'
  obtain ⟨hchip, rfl⟩ := Prod.mk.inj (Option.some.inj hplace')
  refine ⟨(i, v', c), ?_, hchip.symm, hingot'.trans hingot.symm⟩
  refine List.mem_flatMap.mpr ⟨k.j, List.mem_filter.mpr ⟨List.mem_range.mpr hlt, ?_⟩,
    List.mem_filterMap.mpr ⟨i, List.mem_range.mpr hi, ?_⟩⟩
  · exact List.any_eq_true.mpr ⟨v', hv', List.any_eq_true.mpr ⟨k, hk', by simp⟩⟩
  · simp only [List.getElem?_eq_getElem hi, hget, hc, Option.map_some]

/-- What a batch's items are is what attention reads of the state. -/
theorem batchItems_of_seeing (h : Seeing s t) (b : Nat) (e : TEnt) (lane : Nat) (l : List AUnit) :
    batchItems t b e lane l = batchItems s b e lane l := by
  have hunits : readUnits t b e lane l = readUnits s b e lane l := by rw [readUnits, h.colReadable, readUnits]
  rw [batchItems, hunits, h.fullCols, batchItems]

end Sys2Proof.Walks
end

section
/-! ATTENTION_WALK, CLUSTER_PATH_PARTIAL, HEAD_OUTPUT and PIP_WEIGHT_PRODUCT (R144, R148, R150 to R154, R164 to R168, R401). -/

namespace Sys2Proof.Walks

open Sys2Proof Sys2Proof.Machine Sys2Proof.Laws Sys2Proof.Pins Sys2Proof.Merging

variable {s t u : State} {b cl layer en g n half lane row head : Nat} {e : TEnt} {w : BitVec 1024} {l : List AUnit}

/-! ## Work that reads query vectors -/

theorem withQueries_of_readable {l : List (Nat × Nat)} {f : State → State}
    (h : (rangesStatus s (s.bind b).seat false 4 l == St.ok && (badRange s l).isNone) = true) :
    withQueries s b l f = f (noteRanges s l) := by
  obtain ⟨hst, hgood⟩ := Bool.and_eq_true_iff.mp h
  rw [withQueries]
  simp only [eq_of_beq hst, ne_eq, not_true_eq_false, if_false, withRanges, Option.isNone_iff_eq_none.mp hgood]

theorem cluster_noteRanges (s : State) (l : List (Nat × Nat)) (k : Nat) : (noteRanges s l).cluster k = s.cluster k := by
  rw [State.cluster, (noteRanges_only s l).same .clusters (by decide), State.cluster]

/-! ## The walk -/

/-- The cluster once a cut unit's running fold has taken the triples below the next batch's first column. -/
def cutFolded (cl layer en g : Nat) (cut : Option (AUnit × Nat)) (s : State) : State :=
  match cut with
  | some (u, upto) => (unitHeads u).foldl (foldHead cl layer en g u.row upto) s
  | none => s

/-- The cluster as it begins to send batch n of a pair into a half. -/
def batchBegun (cl layer en g n half : Nat) (cut : Option (AUnit × Nat)) (s : State) : State :=
  (pastBatch cl layer en g n (cutFolded cl layer en g cut s)).setCluster cl
    { (pastBatch cl layer en g n (cutFolded cl layer en g cut s)).cluster cl with layer := layer, half := 1 - half }

theorem cutFolded_only (cut : Option (AUnit × Nat)) (s : State) : OnlyChanges [.cores, .clusters] s (cutFolded cl layer en g cut s) := by
  unfold cutFolded
  split
  · exact only_foldl (only_refl _ s) fun y h hy => only_step (foldHead_only ..) (by decide) hy
  · exact only_refl _ s

theorem batchBegun_only (cut : Option (AUnit × Nat)) (s : State) : OnlyChanges [.cores, .clusters] s (batchBegun cl layer en g n half cut s) :=
  only_step (state_setCluster_only ..) (by decide) (only_step (state_setCluster_only ..) (by decide) (cutFolded_only cut s))

theorem batchBegun_past (cut : Option (AUnit × Nat)) (s : State) :
    Walks.unsent ((batchBegun cl layer en g n half cut s).cluster cl) =
      { Walks.unsent ((pastBatch cl layer en g n (cutFolded cl layer en g cut s)).cluster cl) with layer := layer, half := 1 - half } := by
  rw [batchBegun, setCluster_cluster]
  rfl

theorem walk_runs {P : State → Prop} (hrun : running .arith s = true) (hpair : pairOf s cl layer en g = some (b, e, w))
    (hreached : (earlierSent s b cl layer en g w && clusterReached s b cl (walkNumber s b cl layer)) = true)
    (hflush : pairFlushing s b e (walkLane w g) = false) (hP : P (attentionWalk b cl layer en g e w s)) :
    Runs (.attentionWalk cl layer en g) s P := by
  have hrow : exec (.attentionWalk cl layer en g) s = execAttentionWalk cl layer en g s := rfl
  obtain ⟨hearlier, hcome⟩ := Bool.and_eq_true_iff.mp hreached
  refine runs_of_running (hrow.trans (by rw [execAttentionWalk])) hrun ?_
  simpa only [hpair, hearlier, hcome, hflush, Bool.not_true, Bool.or_self, Bool.false_eq_true, if_false] using hP

theorem walk_waits {P : State → Prop} (hrun : running .arith s = true) (hpair : pairOf s cl layer en g = some (b, e, w))
    (hreached : (earlierSent s b cl layer en g w && clusterReached s b cl (walkNumber s b cl layer)) = true)
    (hflush : pairFlushing s b e (walkLane w g) = true) (hP : P (awaitCopy s cl en (walkLane w g) false)) :
    Runs (.attentionWalk cl layer en g) s P := by
  have hrow : exec (.attentionWalk cl layer en g) s = execAttentionWalk cl layer en g s := rfl
  obtain ⟨hearlier, hcome⟩ := Bool.and_eq_true_iff.mp hreached
  refine runs_of_running (hrow.trans (by rw [execAttentionWalk])) hrun ?_
  simpa only [hpair, hearlier, hcome, hflush, Bool.not_true, Bool.or_self, Bool.false_eq_true, if_false, if_true] using hP

/-- The batches of a pair as the walk cuts them. -/
def pairBatches (s : State) (b : Nat) (e : TEnt) (w : BitVec 1024) (g : Nat) : List (List AUnit) :=
  batchesOf (s.bind b).brec (pairUnits s b e g (walkLane w g))

/-- The half of the inbox that the cluster's next batch takes. -/
def nextHalf (c : Cluster) (layer : Nat) : Nat := if c.layer = layer then c.half else 0

/-- The number of the pair's next batch. -/
def batchNumber (c : Cluster) (layer en g : Nat) : Nat := (nextBatch c layer en g).getD 0

theorem attentionWalk_of_none (hnone : (pairBatches s b e w g)[batchNumber (s.cluster cl) layer en g]? = none) :
    attentionWalk b cl layer en g e w s = pairEnded b cl (batchNumber (s.cluster cl) layer en g) (walkLane w g) e
      (pastBatch cl layer en g (batchNumber (s.cluster cl) layer en g) s) := by
  rw [pairBatches, batchNumber] at hnone
  rw [attentionWalk]
  simp only [hnone]
  rfl

theorem attentionWalk_of_busy (hl : (pairBatches s b e w g)[batchNumber (s.cluster cl) layer en g]? = some l)
    (hbusy : halfBusy (s.cluster cl) (nextHalf (s.cluster cl) layer) = true) :
    attentionWalk b cl layer en g e w s = s.setCluster cl { s.cluster cl with wants := some (nextHalf (s.cluster cl) layer) } := by
  rw [pairBatches, batchNumber] at hl
  rw [nextHalf] at hbusy
  rw [attentionWalk]
  simp only [hl, hbusy, if_true]
  rfl

theorem attentionWalk_of_batch (hl : (pairBatches s b e w g)[batchNumber (s.cluster cl) layer en g]? = some l)
    (hbusy : halfBusy (s.cluster cl) (nextHalf (s.cluster cl) layer) = false)
    (hcut : ∀ x, cutBefore (pairBatches s b e w g) (batchNumber (s.cluster cl) layer en g) = some x →
      cutReady s b cl layer en g (walkLane w g) e x.1 x.2 = true)
    (hread : (rangesStatus s (s.bind b).seat false 4 (queryRanges s b w cl l) == St.ok &&
      (badRange s (queryRanges s b w cl l)).isNone) = true) :
    attentionWalk b cl layer en g e w s = pairEnded b cl (batchNumber (s.cluster cl) layer en g) (walkLane w g) e
      (sendBatch (batchBegun cl layer en g (batchNumber (s.cluster cl) layer en g) (nextHalf (s.cluster cl) layer)
        (cutBefore (pairBatches s b e w g) (batchNumber (s.cluster cl) layer en g)) (noteRanges s (queryRanges s b w cl l)))
        b e w cl layer en g (nextHalf (s.cluster cl) layer) l) := by
  have hready : (cutBefore (pairBatches s b e w g) (batchNumber (s.cluster cl) layer en g)).any
      (fun x => !cutReady s b cl layer en g (walkLane w g) e x.1 x.2) = false := by
    cases hx : cutBefore (pairBatches s b e w g) (batchNumber (s.cluster cl) layer en g) with
    | none => rfl
    | some x => simp [hcut x hx]
  rw [pairBatches, batchNumber] at hl hready
  rw [nextHalf] at hbusy
  rw [attentionWalk]
  simp only [hl, hbusy, hready, withQueries_of_readable hread, Bool.false_eq_true, if_false]
  rfl

/-- A batch whose query vectors can be read leaves: the walk has come past it, and the cluster awaits its triples. -/
theorem batch_leaves (hl : l ∈ pairBatches s b e w g) (hseeing : Seeing s u) (n half : Nat) (cut : Option (AUnit × Nat)) :
    let t := pairEnded b cl n (walkLane w g) e (sendBatch (batchBegun cl layer en g n half cut u) b e w cl layer en g half l)
    nextBatch (t.cluster cl) layer en g = some (n + 1) ∧ (t.cluster cl).layer = layer ∧ (t.cluster cl).half = 1 - half ∧
      t.mem = s.mem ∧ (∀ v, v ∈ l → ∀ k, k ∈ v.cols → colReadable s b e (walkLane w g) (v.row - entRow e) k.j = true →
        ∃ a, a ∈ (t.cluster cl).awaits ∧ a.layer = layer ∧ a.entry = en ∧ a.group = g ∧ a.chip = k.chip ∧
          a.ingot = k.ingot ∧ a.half = half) := by
  intro t
  have hbegun : Seeing s (batchBegun cl layer en g n half cut u) := hseeing.trans (seeing_of_clusters (batchBegun_only cut u))
  have hended : Sent cl (sendBatch (batchBegun cl layer en g n half cut u) b e w cl layer en g half l) t := pairEnded_sent _
  have hsent : Sent cl (batchBegun cl layer en g n half cut u) t := (sendBatch_sent _).trans hended
  have hpast := hsent.own.trans (batchBegun_past cut u)
  have hwalks : (t.cluster cl).walks = ((pastBatch cl layer en g n (cutFolded cl layer en g cut u)).cluster cl).walks := by
    have hsame := congrArg Cluster.walks hpast
    exact hsame
  have hlayer : (t.cluster cl).layer = layer := by
    have hsame := congrArg Cluster.layer hpast
    exact hsame
  have hhalf : (t.cluster cl).half = 1 - half := by
    have hsame := congrArg Cluster.half hpast
    exact hsame
  refine ⟨?_, hlayer, hhalf, hsent.mem.trans hbegun.mem, fun v hv k hk hread => ?_⟩
  · rw [nextBatch, hwalks]
    exact nextBatch_of_sent (sent_refl ..)
  · obtain ⟨x, hx, hchip, hingot⟩ := batchItems_mem hv (onePlace_of_batch hl hv) hk hread
    rw [← batchItems_of_seeing hbegun] at hx
    have hawaits := (sendBatch_awaits (layer := layer) (en := en) (half := half) hx).sent hended
    rwa [hchip, hingot] at hawaits

/-! ## Partials that the cluster computes (R165, R166) -/

/-- The row and head of a pair that the cluster has still to bring a partial of. -/
structure PartAsked (s : State) (b cl layer en g row head first : Nat) (e : TEnt) : Prop where
  mine : rowHead (s.bind b).brec e g row head = true
  undone : partDone (s.cluster cl) layer en g row head first = false
  unfinished : (s.cluster cl).heads.contains (layer, row, head) = false

/-- Where the query vector of a row and head lies. -/
def queryRange (s : State) (b cl row head : Nat) (w : BitVec 1024) : List (Nat × Nat) :=
  [(queryKey (s.bind b).brec w cl row head, gD (s.bind b).brec * 4)]

theorem columnPart_runs {P : State → Prop} {j : Nat} (hrun : running .arith s = true) (hpair : pairOf s cl layer en g = some (b, e, w))
    (hask : PartAsked s b cl layer en g row head j e) (hflush : pairFlushing s b e (walkLane w g) = false)
    (hcol : clusterCol s b e (walkLane w g) (row - entRow e) j = true)
    (hread : (rangesStatus s (s.bind b).seat false 4 (queryRange s b cl row head w) == St.ok &&
      (badRange s (queryRange s b cl row head w)).isNone) = true)
    (hP : P (columnPartial b cl layer en g row head j e w (noteRanges s (queryRange s b cl row head w)))) :
    Runs (.clusterPathPartial cl layer en g row head (some j)) s P := by
  have hrow : exec (.clusterPathPartial cl layer en g row head (some j)) s =
    execClusterPathPartial cl layer en g row head (some j) s := rfl
  obtain ⟨hrowHead, hdone, hhead⟩ := hask
  refine runs_of_running (hrow.trans (by rw [execClusterPathPartial])) hrun ?_
  rw [queryRange] at hread hP
  simpa only [hpair, hrowHead, hdone, hhead, hflush, hcol, withQueries_of_readable hread, Option.getD_some, Bool.not_true, Bool.or_self,
    Bool.false_eq_true, if_false, if_true] using hP

theorem riserPart_runs {P : State → Prop} (hrun : running .arith s = true) (hpair : pairOf s cl layer en g = some (b, e, w))
    (hask : PartAsked s b cl layer en g row head (fullCols s b e) e) (hheld : riserHeld s b e (walkLane w g) = false)
    (hsets : riserSets s b e ≠ []) (hmask : riserReadable s b e (row - entRow e) = true)
    (hread : (rangesStatus s (s.bind b).seat false 4 (queryRange s b cl row head w) == St.ok &&
      (badRange s (queryRange s b cl row head w)).isNone) = true)
    (hP : P (riserPartial b cl layer en g row head e w (noteRanges s (queryRange s b cl row head w)))) :
    Runs (.clusterPathPartial cl layer en g row head none) s P := by
  have hrow : exec (.clusterPathPartial cl layer en g row head none) s = execClusterPathPartial cl layer en g row head none s := rfl
  obtain ⟨hrowHead, hdone, hhead⟩ := hask
  have hseed : seedHeld s b e (walkLane w g) = false := by
    rw [riserHeld, Bool.or_eq_false_iff, Bool.or_eq_false_iff] at hheld
    exact hheld.1.1
  refine runs_of_running (hrow.trans (by rw [execClusterPathPartial])) hrun ?_
  rw [queryRange] at hread hP
  simpa only [hpair, hrowHead, hdone, hhead, hseed, hheld, List.isEmpty_eq_false_iff.mpr hsets, hmask, withQueries_of_readable hread,
    Option.getD_none, Bool.not_true, Bool.or_self, Bool.false_eq_true, if_false] using hP

/-- A partial as the cluster's inbox holds it. -/
def partialAt (layer en g row head first : Nat) (x : Trip) : Partial := ⟨layer, en, g, row, head, first, x.empty, x.m, x.l, x.o, 3⟩

theorem putPartial_inbox (first : Nat) (x : Trip) : ((putPartial s cl layer en g row head first x).cluster cl).inbox =
    (s.cluster cl).inbox ++ [partialAt layer en g row head first x] := by
  rw [putPartial, setCluster_cluster]
  rfl

/-- The page of a column has been fetched, counted at its first partial. -/
def columnFetched (b cl layer en g j : Nat) (s : State) : State :=
  if (s.cluster cl).fetched.contains (layer, en, g, j) then s
  else (s.countBind b BC.colFetched 1).setCluster cl { s.cluster cl with fetched := (s.cluster cl).fetched ++ [(layer, en, g, j)] }

theorem columnFetched_seeing (j : Nat) : Seeing s (columnFetched b cl layer en g j s) := by
  unfold columnFetched
  split
  · exact seeing_refl s
  · exact (seeing_countBind ..).trans (seeing_of_clusters (only_step (state_setCluster_only ..) (by decide) (only_refl _ _)))

theorem columnFetched_inbox (j : Nat) : ((columnFetched b cl layer en g j s).cluster cl).inbox = (s.cluster cl).inbox := by
  unfold columnFetched
  split
  · rfl
  · rw [setCluster_cluster]

theorem columnPartial_eq {j : Nat} (huncorr : uncorrAt s (laneKey s b (ptAddr (colEntry s e j)) (walkLane w g)) 16384 = false) :
    columnPartial b cl layer en g row head j e w s =
      let u := setLastRead (noteCorr (columnFetched b cl layer en g j s)
        (laneKey s b (ptAddr (colEntry s e j)) (walkLane w g)) 16384 false) b e j
      putPartial u cl layer en g row head j (partialOf u (s.bind b).brec (scaledQuery u b w cl row head)
        (columnEntries u b e (walkLane w g) (row - entRow e) j)) := by
  rw [← (columnFetched_seeing (b := b) (cl := cl) (layer := layer) (en := en) (g := g) j).uncorrAt, columnFetched] at huncorr
  rw [columnPartial]
  simp only [huncorr, Bool.false_eq_true, if_false]
  rfl

theorem columnPartial_inbox {j : Nat} (huncorr : uncorrAt s (laneKey s b (ptAddr (colEntry s e j)) (walkLane w g)) 16384 = false) :
    ((columnPartial b cl layer en g row head j e w s).cluster cl).inbox = (s.cluster cl).inbox ++ [partialAt layer en g row head j
      (partialOf s (s.bind b).brec (scaledQuery s b w cl row head) (columnEntries s b e (walkLane w g) (row - entRow e) j))] := by
  rw [columnPartial_eq huncorr]
  extract_lets u
  have hnoted : OnlyChanges [.wordErr, .bank, .ingots, .hm, .binds] (columnFetched b cl layer en g j s) u :=
    only_step (setLastRead_only ..) (by decide) (only_step (noteCorr_only ..) (by decide) (only_refl _ _))
  have hseeing : Seeing s u := (columnFetched_seeing j).trans ((seeing_noteCorr ..).trans (seeing_setLastRead ..))
  have hinbox : (u.cluster cl).inbox = (s.cluster cl).inbox := by
    rw [State.cluster, hnoted.same .clusters (by decide)]
    exact columnFetched_inbox j
  rw [putPartial_inbox, hinbox, hseeing.partialOf, hseeing.scaledQuery, hseeing.columnEntries]

theorem riserPartial_inbox
    (hgood : ∀ k, k ∈ riserEntries s b e (walkLane w g) (row - entRow e) → uncorrAt s k.1 16384 = false) :
    ((riserPartial b cl layer en g row head e w s).cluster cl).inbox = (s.cluster cl).inbox ++ [partialAt layer en g row head (fullCols s b e)
      (partialOf s (s.bind b).brec (scaledQuery s b w cl row head) (riserEntries s b e (walkLane w g) (row - entRow e)))] := by
  have hnone : (((riserEntries s b e (walkLane w g) (row - entRow e)).map (·.1)).eraseDups).find? (fun k => uncorrAt s k 16384) = none := by
    rw [List.find?_eq_none]
    intro k hk
    obtain ⟨x, hx, rfl⟩ := List.mem_map.mp (List.mem_eraseDups.mp hk)
    simp [hgood x hx]
  rw [riserPartial]
  simp only [hnone]
  exact putPartial_inbox ..

end Sys2Proof.Walks
end

section
/-! HEAD_OUTPUT and PIP_WEIGHT_PRODUCT (R167, R401), and the settling of attention's rows. -/

namespace Sys2Proof.Walks

open Sys2Proof Sys2Proof.Machine Sys2Proof.Laws Sys2Proof.Pins Sys2Proof.Merging Sys2Proof.Phases

variable {s t u : State} {b cl layer en g n half lane row head : Nat} {e : TEnt} {w : BitVec 1024} {l : List AUnit}

/-! ## Head outputs -/

/-- The triple that a row and head's partials fold into. -/
def headFold (s : State) (cl layer en g row head : Nat) : Trip :=
  foldParts ((s.cluster cl).inbox.filter (isPart layer en g row head))

/-- The cluster has taken a row and head's partials out of its inbox and noted the head. -/
def headTaken (s : State) (cl layer en g row head : Nat) : State :=
  (countFinal cl (headFold s cl layer en g row head) (countFolds cl (((s.cluster cl).inbox.filter (isPart layer en g row head)).length - 1)
    (headFold s cl layer en g row head) s)).setCluster cl { s.cluster cl with
      inbox := (s.cluster cl).inbox.filter (fun p => !isPart layer en g row head p),
      heads := (s.cluster cl).heads ++ [(layer, row, head)] }

/-- The head's output is written where R23 and R46 allow it, and its refusal counted where they do not. -/
def headStored (s : State) (b cl layer en g row head : Nat) (w : BitVec 1024) : State :=
  let u := headTaken s cl layer en g row head
  let k := outputKey (s.bind b).brec w cl row head
  let st := rangesStatus u (u.bind b).seat true 4 [(k, gD (s.bind b).brec * 4)]
  if st = St.ok then rawWrite u k (headBytesOut (gD (s.bind b).brec) (headFold s cl layer en g row head))
  else u.noteWindow (u.bind b).seat st

theorem headOutput_eq (hgood : partialUncorr s (outputKey (s.bind b).brec w cl row head) (gD (s.bind b).brec * 4) = false) :
    headOutput b cl layer en g row head w s = sendReleases
      (if (headFold s cl layer en g row head).empty then (headStored s b cl layer en g row head w).countBind b BC.emptyRows 1
        else headStored s b cl layer en g row head w) b cl := by
  rw [headOutput]
  simp only [hgood, Bool.false_eq_true, if_false]
  rfl

theorem headTaken_only (s : State) : OnlyChanges [.cores, .clusters] s (headTaken s cl layer en g row head) :=
  only_step (state_setCluster_only ..) (by decide)
    (only_step (countFinal_only ..) (by decide) (only_step (countFolds_only ..) (by decide) (only_refl _ s)))

theorem headStored_cluster (s : State) :
    (headStored s b cl layer en g row head w).cluster cl = (headTaken s cl layer en g row head).cluster cl := by
  unfold headStored
  extract_lets u k st
  split
  · rw [State.cluster, (rawWrite_only ..).same .clusters (by decide), State.cluster]
  · rw [State.cluster, (noteWindow_only ..).same .clusters (by decide), State.cluster]

/-- The counting of an empty row and the releases change neither the cluster's inbox and heads nor memory. -/
theorem headOutput_ends (hgood : partialUncorr s (outputKey (s.bind b).brec w cl row head) (gD (s.bind b).brec * 4) = false) :
    Sent cl (headStored s b cl layer en g row head w) (headOutput b cl layer en g row head w s) := by
  rw [headOutput_eq hgood]
  refine Sent.trans ?_ (sent_of_released (sendReleases_released ..))
  split
  · exact sent_of_only (state_countBind_only ..) (by decide)
  · exact sent_refl ..

theorem inbox_of_sent (h : Sent cl s t) : (t.cluster cl).inbox = (s.cluster cl).inbox := by
  have hinbox := congrArg Cluster.inbox h.own
  exact hinbox

theorem heads_of_sent (h : Sent cl s t) : (t.cluster cl).heads = (s.cluster cl).heads := by
  have hheads := congrArg Cluster.heads h.own
  exact hheads

theorem headOutput_cluster (hgood : partialUncorr s (outputKey (s.bind b).brec w cl row head) (gD (s.bind b).brec * 4) = false) :
    ((headOutput b cl layer en g row head w s).cluster cl).inbox =
      (s.cluster cl).inbox.filter (fun p => !isPart layer en g row head p) ∧
    ((headOutput b cl layer en g row head w s).cluster cl).heads = (s.cluster cl).heads ++ [(layer, row, head)] := by
  have hends := headOutput_ends (layer := layer) (en := en) (g := g) hgood
  rw [inbox_of_sent hends, heads_of_sent hends, headStored_cluster, headTaken, setCluster_cluster]
  exact ⟨rfl, rfl⟩

theorem headOutput_mem (hgood : partialUncorr s (outputKey (s.bind b).brec w cl row head) (gD (s.bind b).brec * 4) = false) :
    let t := headOutput b cl layer en g row head w s
    let k := outputKey (s.bind b).brec w cl row head
    let o := headBytesOut (gD (s.bind b).brec) (headFold s cl layer en g row head)
    if rangesStatus s (s.bind b).seat true 4 [(k, gD (s.bind b).brec * 4)] = St.ok then
      readBytes t k o.length = o ∧ (∀ j, j < k ∨ k + o.length ≤ j → memByte t j = memByte s j)
    else t.mem = s.mem := by
  intro t k o
  have hends : Sent cl (headStored s b cl layer en g row head w) t := headOutput_ends hgood
  have htaken : Seeing s (headTaken s cl layer en g row head) := seeing_of_clusters (headTaken_only s)
  have hstored : headStored s b cl layer en g row head w =
      if rangesStatus s (s.bind b).seat true 4 [(k, gD (s.bind b).brec * 4)] = St.ok then rawWrite (headTaken s cl layer en g row head) k o
      else (headTaken s cl layer en g row head).noteWindow ((headTaken s cl layer en g row head).bind b).seat
        (rangesStatus s (s.bind b).seat true 4 [(k, gD (s.bind b).brec * 4)]) := by
    rw [headStored, htaken.rangesStatus, htaken.seat]
  split
  next hst =>
    rw [if_pos hst] at hstored
    have hmem : t.mem = (rawWrite (headTaken s cl layer en g row head) k o).mem := by rw [hends.mem, hstored]
    refine ⟨by rw [Fabric.readBytes_of_mem hmem]; exact Mirrors.readBytes_rawWrite .., fun j hj => ?_⟩
    rw [Fabric.memByte_of_mem hmem, rawWrite_outside _ hj, htaken.memByte]
  next hst =>
    rw [if_neg hst] at hstored
    rw [hends.mem, hstored, (noteWindow_only ..).same .mem (by decide), htaken.mem]

theorem headOutput_runs {P : State → Prop} (hrun : running .arith s = true) (hpair : pairOf s cl layer en g = some (b, e, w))
    (hmine : rowHead (s.bind b).brec e g row head = true) (hready : headReady s b cl layer en g row head e w = true)
    (hP : P (headOutput b cl layer en g row head w s)) : Runs (.headOutput cl layer en g row head) s P := by
  have hrow : exec (.headOutput cl layer en g row head) s = execHeadOutput cl layer en g row head s := rfl
  refine runs_of_running (hrow.trans (by rw [execHeadOutput])) hrun ?_
  simpa only [hpair, hmine, hready, Bool.and_self, if_true] using hP

/-! ## Pip weight products -/

/-- The packet of a weight page's descriptor. -/
def productPacket (s : State) (cl : Nat) (d : BitVec 256) : Out :=
  .dispatch (ownChip s) (LDesc.INGOT.get d) (pktHdr s 1 (LDesc.INGOT.get d) cl 0 0 0) (wordsOf d.toNat 8)

theorem productPacket_of_fab (h : t.fab = s.fab) (d : BitVec 256) : productPacket t cl d = productPacket s cl d := by
  rw [productPacket, pktHdr, Vector.ownChip_of_fab h, productPacket, pktHdr]

theorem emitProducts (cl : Nat) (ds : List (BitVec 256)) (s : State) :
    ds.foldl (fun s d => s.emit (productPacket s cl d)) s = { s with out := (ds.map (productPacket s cl)).reverse ++ s.out } := by
  induction ds generalizing s with
  | nil => rfl
  | cons d ds ih =>
    have hfab : (s.emit (productPacket s cl d)).fab = s.fab := rfl
    rw [List.foldl_cons, ih, List.map_cons, List.reverse_cons, List.append_assoc,
      List.map_congr_left fun d _ => productPacket_of_fab hfab d]
    rfl

/-- The cluster has begun a weight-product record. -/
def productBegun (s : State) (cl i : Nat) (v : BitVec 1024) (ds : List (BitVec 256)) : State :=
  s.setCluster cl { s.cluster cl with
    wlayer := lpLayer v,
    products := (s.cluster cl).products ++ [i],
    weights := ((s.cluster cl).weights ++ ds.map (fun d => (lpLayer v, LDesc.INGOT.get d))).eraseDups }

theorem sendProducts_eq (i : Nat) (v : BitVec 1024) (ds : List (BitVec 256)) : sendProducts s cl i v ds =
    { productBegun s cl i v ds with out := (ds.map (productPacket s cl)).reverse ++ s.out } := by
  have hfold : sendProducts s cl i v ds = ds.foldl (fun s d => s.emit (productPacket s cl d)) (productBegun s cl i v ds) := rfl
  have hfab : (productBegun s cl i v ds).fab = s.fab := rfl
  rw [hfold, emitProducts, List.map_congr_left fun d _ => productPacket_of_fab hfab d]
  rfl

theorem weightProduct_runs {P : State → Prop} {record : Nat} (hrun : running .arith s = true) (hb : layerHolder s = some b)
    (hnext : productNext s b cl record (lpRecord s (s.bind b).brec record) = true)
    (hpages : ∀ k, k < ((lpRecord s (s.bind b).brec record).extractLsb' 256 32).toNat →
      weightStatus s (weightDesc s b cl (lpRecord s (s.bind b).brec record) k) = St.ok)
    (hP : P (sendProducts s cl record (lpRecord s (s.bind b).brec record)
      ((List.range ((lpRecord s (s.bind b).brec record).extractLsb' 256 32).toNat).map
        (weightDesc s b cl (lpRecord s (s.bind b).brec record))))) : Runs (.pipWeightProduct cl record) s P := by
  have hrow : exec (.pipWeightProduct cl record) s = execPipWeightProduct cl record s := rfl
  have hgood : (((List.range ((lpRecord s (s.bind b).brec record).extractLsb' 256 32).toNat).map
      (weightDesc s b cl (lpRecord s (s.bind b).brec record))).filter (fun d => weightStatus s d != St.ok)).isEmpty = true := by
    rw [List.isEmpty_iff, List.filter_eq_nil_iff]
    intro d hd
    obtain ⟨k, hk, rfl⟩ := List.mem_map.mp hd
    simp [hpages k (List.mem_range.mp hk)]
  refine runs_of_running (hrow.trans (by rw [execPipWeightProduct])) hrun ?_
  simpa only [hb, hnext, hgood, Bool.not_true, Bool.false_eq_true, if_false, if_true] using hP

/-! ## The rows -/

/-- Settles O38: a walk sends one batch and awaits its triples, each partial joins the inbox once, a head's output folds what has come,
and a weight product sends one descriptor a page. -/
theorem attentionWalksAndOutputs : Obligations.AttentionWalksAndOutputs := by
  intro s cl layer en g row head record b e w hrun
  refine ⟨fun hpair => ⟨fun hflush hreached => ?_, fun hflush hreached => ⟨fun hnone => ?_, fun l hl => ⟨fun hbusy => ?_,
    fun hbusy hcut hread => ?_⟩⟩, fun hmine hhead hquery => ⟨fun j hdone hcol hflush huncorr => ?_, fun hdone hheld hsets hmask hgood => ?_⟩,
    fun hmine hready hgood => ?_⟩, fun hb hnext hpages => ?_⟩
  · refine walk_waits hrun hpair hreached hflush ⟨?_, ?_, state_setCluster_only ..⟩ <;> rw [awaitCopy, setCluster_cluster]
  · refine walk_runs hrun hpair hreached hflush ?_
    rw [attentionWalk_of_none hnone]
    exact ⟨nextBatch_of_sent (pairEnded_sent _), wants_of_sent (pairEnded_sent _), (pairEnded_sent (cl := cl) _).mem⟩
  · refine walk_runs hrun hpair hreached hflush ?_
    rw [attentionWalk_of_busy hl hbusy]
    exact ⟨setCluster_cluster .., state_setCluster_only ..⟩
  · refine walk_runs hrun hpair hreached hflush ?_
    rw [attentionWalk_of_batch hl hbusy hcut hread]
    exact batch_leaves (List.mem_of_getElem? hl) (seeing_noteRanges ..) _ _ _
  · refine columnPart_runs hrun hpair ⟨hmine, hdone, hhead⟩ hflush hcol hquery ?_
    have hsee := seeing_noteRanges s (queryRange s b cl row head w)
    rw [← hsee.uncorrAt, ← hsee.colEntry, ← hsee.laneKey] at huncorr
    rw [columnPartial_inbox huncorr, cluster_noteRanges, hsee.partialOf, hsee.scaledQuery, hsee.columnEntries, hsee.brec]
    rfl
  · refine riserPart_runs hrun hpair ⟨hmine, hdone, hhead⟩ hheld hsets hmask hquery ?_
    have hsee := seeing_noteRanges s (queryRange s b cl row head w)
    rw [← hsee.riserEntries, ← hsee.uncorrAt] at hgood
    rw [riserPartial_inbox hgood, cluster_noteRanges, hsee.partialOf, hsee.scaledQuery, hsee.riserEntries, hsee.brec, hsee.fullCols]
    rfl
  · refine headOutput_runs hrun hpair hmine hready ?_
    exact ⟨(headOutput_cluster hgood).1, (headOutput_cluster hgood).2, headOutput_mem hgood⟩
  · refine weightProduct_runs hrun hb hnext hpages ?_
    rw [sendProducts_eq]
    refine ⟨?_, ?_, ?_⟩
    · rw [State.cluster]
      exact congrArg Cluster.wlayer (setCluster_cluster (s := s) (n := cl) _)
    · rw [List.map_map]
      rfl
    · exact only_step (set_out_only ..) (by decide) (only_step (state_setCluster_only ..) (by decide) (only_refl _ s))

end Sys2Proof.Walks
end

section
/-! The ends of an object's operation, and what they leave of its record (R235, R237, R240, R241, R243). -/

namespace Sys2Proof.Places

open Sys2Proof Sys2Proof.Machine Sys2Proof.Laws Sys2Proof.Fabric Sys2Proof.Movers Sys2Proof.Stores Sys2Proof.Pins
open Sys2Proof.MailboxService (FieldsApart get_setAll_cons get_setAll_apart)

variable {s t u : State} {n m st : Nat}

/-! ## What a write leaves of the objects -/

/-- An object's operation but for the writes that wait for it and the tiles that are marked. -/
def unwritten (x : ObjX) : ObjX := { x with waiting := [], marks := [] }

/-- Objects' operations are as they were but for waiting writes and marks, and their records are as they were. -/
structure Unwritten (s t : State) : Prop where
  objs : t.objs = s.objs
  ox : ∀ n, unwritten (t.ox n) = unwritten (s.ox n)

theorem unwritten_refl (s : State) : Unwritten s s := ⟨rfl, fun _ => rfl⟩

theorem Unwritten.trans (h : Unwritten s t) (h' : Unwritten t u) : Unwritten s u :=
  ⟨h'.objs.trans h.objs, fun n => (h'.ox n).trans (h.ox n)⟩

theorem unwritten_of_only {l : List Part} (h : OnlyChanges l s t) (hl : ∀ p ∈ [Part.objs, .objx], p ∉ l) : Unwritten s t := by
  refine ⟨h.same .objs (hl _ (by simp)), fun n => ?_⟩
  rw [State.ox, h.same .objx (hl _ (by simp)), State.ox]

theorem unwritten_foldl {α : Type} {f : State → α → State} (h : ∀ s a, Unwritten s (f s a)) (l : List α) (s : State) :
    Unwritten s (l.foldl f s) := by
  induction l generalizing s with
  | nil => exact unwritten_refl s
  | cons a l ih => exact (h s a).trans (ih _)

theorem ox_updOx (s : State) (n : Nat) (f : ObjX → ObjX) : (s.updOx n f).ox n = f (s.ox n) := setOx_ox ..

theorem ox_updOx_other (s : State) (f : ObjX → ObjX) (h : m ≠ n) : (s.updOx n f).ox m = s.ox m :=
  setOx_ox_other _ _ _ _ h

theorem obj_updObj (s : State) (n : Nat) (l : List (Fld × Nat)) : (s.updObj n l).obj n = setAll (s.obj n) l := setObj_obj ..

theorem unwritten_updOx (s : State) (n : Nat) {f : ObjX → ObjX} (h : ∀ x, unwritten (f x) = unwritten x) : Unwritten s (s.updOx n f) := by
  refine ⟨rfl, fun m => ?_⟩
  by_cases hm : m = n
  · subst hm
    rw [ox_updOx, h]
  · rw [ox_updOx_other _ _ hm]

theorem markMoves_unwritten (s : State) (k n : Nat) : Unwritten s (markMoves s k n) := by
  refine unwritten_foldl (fun s o => ?_) _ s
  split
  · exact unwritten_updOx s o fun _ => rfl
  · exact unwritten_refl s

theorem writeMem_unwritten (s : State) (k : Nat) (bs : List Byte) : Unwritten s (writeMem s k bs) := by
  unfold writeMem
  split
  · exact unwritten_updOx s _ fun _ => rfl
  · exact (unwritten_of_only (rawWrite_only ..) (by decide)).trans (markMoves_unwritten ..)

theorem writes_unwritten (l : List (Nat × List Byte)) (s : State) : Unwritten s (l.foldl (fun s e => writeMem s e.1 e.2) s) := by
  induction l generalizing s with
  | nil => exact unwritten_refl s
  | cons e l ih => exact (writeMem_unwritten s e.1 e.2).trans (ih _)

theorem raise_unwritten (s : State) (n v cause : Nat) : Unwritten s (raise s n v cause) := unwritten_of_only (raise_only ..) (by decide)

/-! ## The end of an operation (R237) -/

/-- An operation as its end leaves it, before the writes that waited are performed. -/
def opOver (x : ObjX) : ObjX :=
  { x with op := 0, target := 0, pass := 0, marks := [], failed := 0, switchWait := false, waiting := [], todo := [] }

/-- The record and the operation of an object at an end, before the writes that waited for it. -/
def opClosed (s : State) (n st : Nat) : State :=
  (s.updObj n [(LObj.STATE, if st = St.ok then 1 else 5), (LObj.STATUS, st)]).updOx n (fun x => opOver x)

theorem endOp_eq (s : State) (n st : Nat) : endOp s n st =
    let u := (s.ox n).waiting.foldl (fun s e => writeMem s e.1 e.2) (opClosed s n st)
    if (s.ox n).notify then raise u (LObj.SEAT.get (s.obj n)) (s.ox n).vector 32 else u := by
  simp only [endOp, opClosed, opOver]

theorem endOp_unwritten (s : State) (n st : Nat) : Unwritten (opClosed s n st) (endOp s n st) := by
  rw [endOp_eq]
  generalize opClosed s n st = v
  have hu := writes_unwritten (s.ox n).waiting v
  dsimp only
  split
  · exact hu.trans (raise_unwritten ..)
  · exact hu

theorem endOp_obj (s : State) (n st : Nat) :
    (endOp s n st).obj n = setAll (s.obj n) [(LObj.STATE, if st = St.ok then 1 else 5), (LObj.STATUS, st)] := by
  rw [State.obj, (endOp_unwritten s n st).objs]
  exact obj_updObj ..

theorem endOp_ox (s : State) (n st : Nat) : unwritten ((endOp s n st).ox n) = unwritten (opOver (s.ox n)) := by
  rw [(endOp_unwritten s n st).ox, opClosed, ox_updOx]
  rfl

theorem endOp_op (s : State) (n st : Nat) : ((endOp s n st).ox n).op = 0 := by
  have hop := congrArg ObjX.op (endOp_ox s n st)
  exact hop

theorem endOp_oldRanges (s : State) (n st : Nat) : ((endOp s n st).ox n).oldRanges = (s.ox n).oldRanges := by
  have hold := congrArg ObjX.oldRanges (endOp_ox s n st)
  exact hold

theorem endOp_state (s : State) (n : Nat) {st : Nat} : LObj.STATE.get ((endOp s n st).obj n) = if st = St.ok then 1 else 5 := by
  rw [endOp_obj, get_setAll_of_mem (v := if st = St.ok then 1 else 5) _ (by simp)
    (by simp [FieldsApart, LObj.STATE, LObj.STATUS]) (by decide)]
  split <;> rfl

theorem endOp_status (s : State) (n : Nat) {st : Nat} (hst : st < 2 ^ 16) : LObj.STATUS.get ((endOp s n st).obj n) = st := by
  rw [endOp_obj, get_setAll_of_mem (v := st) _ (by simp) (by simp [FieldsApart, LObj.STATE, LObj.STATUS]) (by decide)]
  exact Nat.mod_eq_of_lt hst

theorem endOp_work (s : State) (n st : Nat) : LObj.WORK.get ((endOp s n st).obj n) = LObj.WORK.get (s.obj n) := by
  rw [endOp_obj]
  exact get_setAll_apart _ (by simp [FieldsApart, LObj.WORK, LObj.STATE, LObj.STATUS])

/-- An end with no write waiting leaves memory as it was. -/
theorem endOp_mem (h : (s.ox n).waiting = []) : (endOp s n st).mem = s.mem := by
  rw [endOp_eq, h]
  extract_lets u
  have hu : u.mem = s.mem := rfl
  split
  · rw [(raise_only ..).same .mem (by decide), hu]
  · exact hu

/-! ## What freeing tiles leaves -/

theorem unchargeTiles_obj (s : State) (n seat tier tiles m : Nat) : (unchargeTiles s n seat tier tiles).obj m = s.obj m := by
  rw [State.obj, (unchargeTiles_only ..).same .objs (by decide), State.obj]

/-- An object's operation but for the tiles that it draws from the shared pools. -/
def unpooled (x : ObjX) : ObjX := { x with pool1 := 0, pool2 := 0 }

theorem unchargeTiles_ox (s : State) (n seat tier tiles : Nat) : unpooled ((unchargeTiles s n seat tier tiles).ox n) = unpooled (s.ox n) := by
  rw [unchargeTiles, ox_updOx]
  have hset : ∀ (x : ObjX) v, unpooled (setPool x tier v) = unpooled x := fun x v => by
    unfold setPool
    split
    · rfl
    · split
      · rfl
      · rfl
  exact hset ..

theorem unchargeTiles_waiting (s : State) (n seat tier tiles : Nat) :
    ((unchargeTiles s n seat tier tiles).ox n).waiting = (s.ox n).waiting := by
  have hwaiting := congrArg ObjX.waiting (unchargeTiles_ox s n seat tier tiles)
  exact hwaiting

theorem unchargeTiles_mem (s : State) (n seat tier tiles : Nat) : (unchargeTiles s n seat tier tiles).mem = s.mem :=
  (unchargeTiles_only ..).same .mem (by decide)

/-! ## A MOVE's switch and its failure (R235, R240) -/

/-- The object's WORK is the new range. -/
def workSwitched (s : State) (n : Nat) : State :=
  s.updObj n [(LObj.WORK, (s.ox n).target), (LObj.WTIER, tierOf s (s.ox n).target)]

/-- The old range is freed, or kept, or stays charged. -/
def oldLeft (s : State) (n : Nat) (keepOld : Bool) : State :=
  if LObj.BTIER.get (s.obj n) != 0 && LObj.BACK.get (s.obj n) == LObj.WORK.get (s.obj n) then workSwitched s n
  else if keepOld then (workSwitched s n).updOx n (fun y => { y with oldRanges := y.oldRanges ++ [(LObj.WORK.get (s.obj n), LObj.TILES.get (s.obj n))] })
  else if LObj.KIND.get (s.obj n) = 5 then workSwitched s n
  else unchargeTiles (workSwitched s n) n (LObj.SEAT.get (s.obj n)) (LObj.WTIER.get (s.obj n)) (LObj.TILES.get (s.obj n))

theorem moveSwitch_eq (s : State) (n : Nat) (keepOld : Bool) : moveSwitch s n keepOld = endOp (oldLeft s n keepOld) n St.ok := rfl

theorem oldLeft_obj (s : State) (n : Nat) (keepOld : Bool) : (oldLeft s n keepOld).obj n = (workSwitched s n).obj n := by
  unfold oldLeft
  split
  · rfl
  · split
    · rfl
    · split
      · rfl
      · exact unchargeTiles_obj ..

theorem oldLeft_mem (s : State) (n : Nat) (keepOld : Bool) : (oldLeft s n keepOld).mem = s.mem := by
  unfold oldLeft
  split
  · rfl
  · split
    · rfl
    · split
      · rfl
      · exact unchargeTiles_mem ..

theorem oldLeft_waiting (s : State) (n : Nat) (keepOld : Bool) : ((oldLeft s n keepOld).ox n).waiting = (s.ox n).waiting := by
  unfold oldLeft
  split
  · rfl
  · split
    · rw [ox_updOx]
      rfl
    · split
      · rfl
      · exact unchargeTiles_waiting ..

theorem moveSwitch_work (s : State) (n : Nat) (keepOld : Bool) :
    LObj.WORK.get ((moveSwitch s n keepOld).obj n) = (s.ox n).target % 2 ^ 64 := by
  rw [moveSwitch_eq, endOp_work, oldLeft_obj, workSwitched, obj_updObj,
    get_setAll_of_mem (v := (s.ox n).target) _ (by simp) (by simp [FieldsApart, LObj.WORK, LObj.WTIER]) (by decide)]
  rfl

theorem moveSwitch_state (s : State) (n : Nat) (keepOld : Bool) : LObj.STATE.get ((moveSwitch s n keepOld).obj n) = 1 := by
  rw [moveSwitch_eq, endOp_state, if_pos rfl]

theorem moveSwitch_keeps (h : LObj.BTIER.get (s.obj n) = 0 ∨ LObj.BACK.get (s.obj n) ≠ LObj.WORK.get (s.obj n)) :
    ((moveSwitch s n true).ox n).oldRanges = (s.ox n).oldRanges ++ [(LObj.WORK.get (s.obj n), LObj.TILES.get (s.obj n))] := by
  have hback : (LObj.BTIER.get (s.obj n) != 0 && LObj.BACK.get (s.obj n) == LObj.WORK.get (s.obj n)) = false := by
    rcases h with h | h <;> simp [h]
  rw [moveSwitch_eq, endOp_oldRanges, oldLeft, if_neg (by simp [hback]), if_pos rfl, ox_updOx]
  rfl

theorem moveSwitch_mem (n : Nat) (keepOld : Bool) (h : (s.ox n).waiting = []) : (moveSwitch s n keepOld).mem = s.mem := by
  rw [moveSwitch_eq, endOp_mem (by rw [oldLeft_waiting, h]), oldLeft_mem]

/-- The new range of a MOVE that is given up is freed. -/
def newLeft (s : State) (n : Nat) : State :=
  if LObj.KIND.get (s.obj n) = 5 then s
  else unchargeTiles s n (LObj.SEAT.get (s.obj n)) (tierOf s (s.ox n).target) (LObj.TILES.get (s.obj n))

theorem moveFail_eq (s : State) (n st : Nat) : moveFail s n st = endOp (newLeft s n) n st := rfl

theorem newLeft_obj (s : State) (n : Nat) : (newLeft s n).obj n = s.obj n := by
  unfold newLeft
  split
  · rfl
  · exact unchargeTiles_obj ..

theorem newLeft_mem (s : State) (n : Nat) : (newLeft s n).mem = s.mem := by
  unfold newLeft
  split
  · rfl
  · exact unchargeTiles_mem ..

theorem newLeft_waiting (s : State) (n : Nat) : ((newLeft s n).ox n).waiting = (s.ox n).waiting := by
  unfold newLeft
  split
  · rfl
  · exact unchargeTiles_waiting ..

/-- An operation has failed with a status, and WORK is as it was. -/
def Fails (s t : State) (n st : Nat) : Prop :=
  LObj.STATE.get (t.obj n) = 5 ∧ LObj.STATUS.get (t.obj n) = st ∧ LObj.WORK.get (t.obj n) = LObj.WORK.get (s.obj n)

theorem endOp_fails (n : Nat) (hst : st ≠ St.ok) (hlt : st < 2 ^ 16) : Fails s (endOp s n st) n st :=
  ⟨by rw [endOp_state, if_neg hst], endOp_status s n hlt, endOp_work ..⟩

theorem moveFail_fails (n : Nat) (hst : st ≠ St.ok) (hlt : st < 2 ^ 16) : Fails s (moveFail s n st) n st := by
  rw [moveFail_eq]
  obtain ⟨hstate, hstatus, hwork⟩ := endOp_fails (s := newLeft s n) n hst hlt
  exact ⟨hstate, hstatus, by rw [hwork, newLeft_obj]⟩

/-! ## A DROP's end (R243) -/

/-- The working copy of a DROP is freed, and the backing copy is the working one. -/
def backTaken (s : State) (n : Nat) : State :=
  let w := s.obj n
  let s := unchargeTiles s n (LObj.SEAT.get w) (LObj.WTIER.get w) (LObj.TILES.get w)
  let s := s.updObj n [(LObj.WORK, LObj.BACK.get w), (LObj.WTIER, LObj.BTIER.get w)]
  if LObj.BTIER.get w = 1 || LObj.BTIER.get w = 2 then clearDirty s (keyOf s (LObj.BACK.get w)) (LObj.TILES.get w) else s

theorem dropEnd_eq (s : State) (n : Nat) : dropEnd s n = endOp (backTaken s n) n St.ok := rfl

theorem backTaken_obj (s : State) (n : Nat) :
    (backTaken s n).obj n = setAll (s.obj n) [(LObj.WORK, LObj.BACK.get (s.obj n)), (LObj.WTIER, LObj.BTIER.get (s.obj n))] := by
  unfold backTaken
  extract_lets w u v
  have hv : v.obj n = setAll (s.obj n) [(LObj.WORK, LObj.BACK.get (s.obj n)), (LObj.WTIER, LObj.BTIER.get (s.obj n))] := by
    unfold v u
    rw [obj_updObj, unchargeTiles_obj]
  split
  · exact hv
  · exact hv

theorem dropEnd_work (s : State) (n : Nat) : LObj.WORK.get ((dropEnd s n).obj n) = LObj.BACK.get (s.obj n) := by
  rw [dropEnd_eq, endOp_work, backTaken_obj,
    get_setAll_of_mem (v := LObj.BACK.get (s.obj n)) _ (by simp) (by simp [FieldsApart, LObj.WORK, LObj.WTIER]) (by decide)]
  exact Nat.mod_eq_of_lt (Instants.get_lt ..)

theorem dropEnd_mem (h : (s.ox n).waiting = []) : (dropEnd s n).mem = s.mem := by
  have hkeeps : (backTaken s n).mem = s.mem ∧ ((backTaken s n).ox n).waiting = (s.ox n).waiting := by
    unfold backTaken
    extract_lets w u v
    have hu : u.mem = s.mem ∧ (u.ox n).waiting = (s.ox n).waiting := ⟨unchargeTiles_mem .., unchargeTiles_waiting ..⟩
    have hv : v.mem = s.mem ∧ (v.ox n).waiting = (s.ox n).waiting := hu
    split
    · exact hv
    · exact hv
  rw [dropEnd_eq, endOp_mem (by rw [hkeeps.2, h]), hkeeps.1]

end Sys2Proof.Places
end

section
/-! MOVE_PASS_END and PLACE_OPERATION_END (R237, R240, R241, R243). -/

namespace Sys2Proof.Places

open Sys2Proof Sys2Proof.Machine Sys2Proof.Laws Sys2Proof.Fabric Sys2Proof.Movers Sys2Proof.Stores Sys2Proof.Pins Sys2Proof.Vector

variable {s t u : State} {n m st i : Nat}

/-! ## What a tile's status depends on -/

theorem firstFail_lt {N : Nat} (hN : 0 < N) {l : List (Bool × Nat)} (h : (l.map (·.2)).Forall (· < N)) : firstFail l < N := by
  rw [List.forall_iff_forall_mem] at h
  induction l with
  | nil => exact hN
  | cons e l ih =>
    rw [firstFail]
    split
    · exact h _ List.mem_cons_self
    · exact ih fun x hx => h x (List.mem_cons_of_mem _ hx)

theorem addrStatus_lt (s : State) (a len : Nat) : addrStatus s a len < 2 ^ 16 := by
  unfold addrStatus
  repeat' split
  all_goals decide

theorem moveStatus_lt (s : State) (seat : Nat) (write : Bool) (a len : Nat) : moveStatus s seat write a len < 2 ^ 16 := by
  unfold moveStatus
  split
  · decide
  · exact firstFail_lt (by decide) ⟨(by decide : St.addr < 2 ^ 16), (by decide : St.addr < 2 ^ 16), (by decide : St.addr < 2 ^ 16),
      (by decide : St.window < 2 ^ 16), addrStatus_lt ..⟩

theorem moverStatus_lt (s : State) (src dst n : Nat) : moverStatus s src dst n < 2 ^ 16 := by
  have hpage : ∀ k, pageStatus s k n < 2 ^ 16 := fun k => firstFail_lt (by decide) ⟨(by decide : St.thermal < 2 ^ 16), (by decide : St.link < 2 ^ 16)⟩
  exact firstFail_lt (by decide) ⟨hpage _, hpage _⟩

theorem tileStatus_lt (s : State) (seat src dst : Nat) : tileStatus s seat src dst < 2 ^ 16 :=
  firstFail_lt (by decide) ⟨moveStatus_lt .., moveStatus_lt .., moverStatus_lt .., (by decide : St.uncorr < 2 ^ 16)⟩

theorem tileFailure_lt (h : st < 2 ^ 16) : tileFailure st < 2 ^ 16 := by
  unfold tileFailure
  split
  · decide
  · exact h

theorem tileFailure_ne (h : st ≠ St.ok) : tileFailure st ≠ St.ok := by
  unfold tileFailure
  split
  · decide
  · exact h

theorem accessStatus_of_same (hfab : t.fab = s.fab) (hseats : t.seats = s.seats) (hown : ownedArea t = ownedArea s) :
    accessStatus t = accessStatus s := by
  have haddr : addrStatus t = addrStatus s := funext fun a => funext fun len => by
    rw [addrStatus, placeOf_of_fab hfab, haveChip, hfab, addrStatus, haveChip]
  have hseat : ∀ w, inSeatFor w t = inSeatFor w s := fun w => funext fun n => funext fun a => funext fun len => by
    rw [inSeatFor, inWindows_of_same hfab hseats, placeOf_of_fab hfab, hown, inSeatFor]
  funext n write a len
  rw [accessStatus, haddr, tierOf, placeOf_of_fab hfab, hseat, accessStatus, tierOf]

/-- What enters a tile's status. -/
theorem tileStatus_of_only {l : List Part} (h : OnlyChanges l s t)
    (hl : ∀ p ∈ [Part.fab, .seats, .bank, .binds, .ingots, .wordErr], p ∉ l) : tileStatus t = tileStatus s := by
  have hfab : t.fab = s.fab := h.same .fab (hl _ (by decide))
  have haccess := accessStatus_of_same hfab (h.same .seats (hl _ (by decide)))
    (ownedArea_of_same (h.same .bank (hl _ (by decide))) (h.same .binds (hl _ (by decide))))
  have hview : Lanes.KeepsIngots Serving.slotView s t := Lanes.keepsIngots_of_only h (hl _ (by decide))
  funext seat src dst
  rw [tileStatus, moveStatus, moveStatus, haccess, moverStatus, pageStatus_of_view hview, uncorrAt_of_errs (h.same .wordErr (hl _ (by decide))),
    keyOf_of_fab hfab, keyOf_of_fab hfab, tileStatus, moveStatus, moveStatus, moverStatus]

/-! ## Marks alone -/

def unmarked (x : ObjX) : ObjX := { x with marks := [] }

theorem markMoves_unmarked (s : State) (k m n : Nat) : unmarked ((markMoves s k m).ox n) = unmarked (s.ox n) := by
  have hfold : ∀ (l : List Nat) (f : State → Nat → State), (∀ s o, unmarked ((f s o).ox n) = unmarked (s.ox n)) →
      ∀ s, unmarked ((l.foldl f s).ox n) = unmarked (s.ox n) := fun l f hf => by
    induction l with
    | nil => exact fun _ => rfl
    | cons o l ih => exact fun s => (ih _).trans (hf s o)
  refine hfold _ _ (fun s o => ?_) s
  split
  · by_cases ho : n = o
    · subst ho
      rw [ox_updOx]
      rfl
    · rw [ox_updOx_other _ _ ho]
  · rfl

theorem copyMem_waiting {src dst m : Nat} (hfree : holderOf s dst m = none) (n : Nat) :
    ((copyMem s src dst m).ox n).waiting = (s.ox n).waiting := by
  rw [copyMem, hfree]
  dsimp only
  have hwaiting := congrArg ObjX.waiting (markMoves_unmarked
    { s with mem := memCopy s.mem src dst m, wordErr := freshWords s.wordErr dst m, dirty := dirtyMark s.dirty dst m } dst m n)
  exact hwaiting

theorem moverCopy_waiting (who : Nat × Nat) {src dst m : Nat} (hsrc : noDefer s src m = true) (hdst : noDefer s dst m = true)
    (hfree : holderOf s dst m = none) (n : Nat) : ((moverCopy s who src dst m).ox n).waiting = (s.ox n).waiting := by
  have hpush := (pushGrants_presented s who src m false).trans (pushGrants_presented _ who dst m true)
  unfold moverCopy
  split
  · rfl
  · extract_lets u
    have hu : Presented s u := hpush
    rw [hu.noDefer_eq, hsrc, hdst, Bool.and_self, if_pos rfl, copyMem_waiting (by rw [hu.holderOf_eq]; exact hfree), State.ox,
      hu.only.same .objx (by decide), State.ox]

/-! ## One tile of an operation -/

/-- A tile within this device and its companion is copied by the mover. -/
theorem moveTile_of_near {a d : Nat} (ha : farAddr s a = false) (hd : farAddr s d = false) (job : Job) (who : Nat × Nat) (seat : Nat) :
    moveTile s job who seat a d = moverCopy (noteCorr s (keyOf s a) 16384 false) who (keyOf s a) (keyOf s d) 16384 := by
  rw [farAddr] at ha hd
  rw [moveTile]
  extract_lets
  split at ha
  · cases ha
  · split at hd
    · cases hd
    · split
      · simp_all
      · simp_all
      · rfl

/-- The operation's tile is checked and then copied or refused. -/
theorem copyTile_fails {t : Nat} (h : tileStatus s (LObj.SEAT.get (s.obj n)) ((opEnds s n).1 + t * 16384) ((opEnds s n).2.1 + t * 16384) = st)
    (hst : st ≠ St.ok) : ∃ u, copyTile s n t = failTile u n st ∧ OnlyChanges [.seats, .bank, .ingots] s u := by
  rw [copyTile]
  simp only [h]
  by_cases huncorr : st = St.uncorr
  · rw [if_pos huncorr]
    exact ⟨_, rfl, only_step (noteBad_only ..) (by decide) (only_refl _ s)⟩
  · rw [if_neg huncorr, if_pos hst]
    exact ⟨_, rfl, only_step (state_noteWindow_only ..) (by decide) (only_refl _ s)⟩

/-- Where the bytes of an operation's tile come from and go. -/
structure NearTile (s : State) (n t : Nat) : Prop where
  src : farAddr s ((opEnds s n).1 + t * 16384) = false
  dst : farAddr s ((opEnds s n).2.1 + t * 16384) = false
  srcFree : noDefer s (keyOf s ((opEnds s n).1 + t * 16384)) 16384 = true
  dstFree : noDefer s (keyOf s ((opEnds s n).2.1 + t * 16384)) 16384 = true
  free : holderOf s (keyOf s ((opEnds s n).2.1 + t * 16384)) 16384 = none

theorem moverStatus_of_tileStatus {seat src dst : Nat} (h : tileStatus s seat src dst = St.ok) :
    moverStatus s (keyOf s src) (keyOf s dst) 16384 = St.ok := by
  by_contra hne
  rw [tileStatus] at h
  by_cases hread : moveStatus s seat false src 16384 = St.ok
  · by_cases hwrite : moveStatus s seat true dst 16384 = St.ok
    · simp [firstFail, hread, hwrite, hne] at h
    · simp [firstFail, hread, hwrite] at h
  · simp [firstFail, hread] at h

/-- The keys of an operation's tile at both ends. -/
def tileSrc (s : State) (n t : Nat) : Nat := keyOf s ((opEnds s n).1 + t * 16384)
def tileDst (s : State) (n t : Nat) : Nat := keyOf s ((opEnds s n).2.1 + t * 16384)

/-- A write-back's source tile is clean from the issue of its read on. -/
def sourceRead (s : State) (n t : Nat) : State :=
  if decide ((s.ox n).op ≥ 3) && tracked (s.obj n) then { s with dirty := Tab.set s.dirty false (tileSrc s n t / 16384) false } else s

/-- The requester as which an operation's tile is moved. -/
def tileWho (s : State) (n t : Nat) : Nat × Nat := (4, 3 * moveDie (tileSrc s n t) (tileDst s n t) + moveQueue (sourceRead s n t) n)

def tileMoved (s : State) (n t : Nat) : State :=
  moveTile (sourceRead s n t) (.tile n t) (tileWho s n t) (LObj.SEAT.get (s.obj n)) ((opEnds s n).1 + t * 16384) ((opEnds s n).2.1 + t * 16384)

/-- The dirty bit of a copied tile's source, which its destination takes unless the copy is of the backing copy. -/
def sourceDirty (s : State) (n t : Nat) : Bool :=
  !(opEnds s n).2.2 && decide (tileSrc s n t < sramBase) && Tab.get s.dirty false (tileSrc s n t / 16384)

def dirtyTaken (s u : State) (n t : Nat) : State :=
  if !decide ((s.ox n).op ≥ 3) && decide (tileDst s n t < sramBase) then
    { u with dirty := Tab.set u.dirty false (tileDst s n t / 16384) (sourceDirty s n t) }
  else u

theorem copyTile_of_ok {t : Nat}
    (hst : tileStatus s (LObj.SEAT.get (s.obj n)) ((opEnds s n).1 + t * 16384) ((opEnds s n).2.1 + t * 16384) = St.ok) :
    copyTile s n t = if farAddr (tileMoved s n t) ((opEnds s n).1 + t * 16384) || farAddr (tileMoved s n t) ((opEnds s n).2.1 + t * 16384)
      then tileMoved s n t else tileDone (dirtyTaken s (tileMoved s n t) n t) n := by
  rw [copyTile]
  simp only [hst]
  rw [if_neg (by decide), if_neg (by simp)]
  rfl

theorem sourceRead_only (s : State) (n t : Nat) : OnlyChanges [.dirty] s (sourceRead s n t) := by
  unfold sourceRead
  split
  · exact set_dirty_only ..
  · exact only_refl _ s

/-- The state in which the mover reads a near tile's source. -/
def sourceNoted (s : State) (n t : Nat) : State := noteCorr (sourceRead s n t) (tileSrc s n t) 16384 false

theorem sourceNoted_presented (s : State) (n t : Nat) : Presented (sourceRead s n t) (sourceNoted s n t) := noteCorr_presented ..

theorem farAddr_of_fab (h : t.fab = s.fab) (a : Nat) : farAddr t a = farAddr s a := by rw [farAddr, placeOf_of_fab h, farAddr]

theorem tileMoved_of_near {t : Nat} (h : NearTile s n t) :
    tileMoved s n t = moverCopy (sourceNoted s n t) (tileWho s n t) (tileSrc s n t) (tileDst s n t) 16384 := by
  have hfab : (sourceRead s n t).fab = s.fab := (sourceRead_only s n t).same .fab (by decide)
  have htile := moveTile_of_near ((farAddr_of_fab hfab _).trans h.src) ((farAddr_of_fab hfab _).trans h.dst) (.tile n t) (tileWho s n t)
    (LObj.SEAT.get (s.obj n))
  rw [keyOf_of_fab hfab, keyOf_of_fab hfab] at htile
  exact htile

/-- What the mover meets as it copies a near tile. -/
structure TileReady (s u : State) (n t : Nat) : Prop where
  status : moverStatus u (tileSrc s n t) (tileDst s n t) 16384 = St.ok
  srcFree : noDefer u (tileSrc s n t) 16384 = true
  dstFree : noDefer u (tileDst s n t) 16384 = true
  free : holderOf u (tileDst s n t) 16384 = none
  mem : u.mem = s.mem
  objx : u.objx = s.objx

theorem sourceNoted_ready {t : Nat} (hst : moverStatus s (tileSrc s n t) (tileDst s n t) 16384 = St.ok) (h : NearTile s n t) :
    TileReady s (sourceNoted s n t) n t := by
  have hread := sourceRead_only s n t
  have hview : Lanes.KeepsIngots Serving.slotView s (sourceRead s n t) := Lanes.keepsIngots_of_only hread (by decide)
  have hmoved : Moved s (sourceRead s n t) := ⟨only_step hread (by decide) (only_refl _ s), hview, holdsNoMore_of_only hread (by decide)⟩
  have hnoted := sourceNoted_presented s n t
  refine ⟨?_, ?_, ?_, ?_, hnoted.mem.trans (hread.same .mem (by decide)), (hnoted.only.same .objx (by decide)).trans (hread.same .objx (by decide))⟩
  · rw [hnoted.moverStatus_eq, moverStatus, pageStatus_of_view hview]
    exact hst
  · rw [hnoted.noDefer_eq, noDefer_of_view hview]
    exact h.srcFree
  · rw [hnoted.noDefer_eq, noDefer_of_view hview]
    exact h.dstFree
  · rw [hnoted.holderOf_eq]
    exact hmoved.holderOf_none h.free

/-- A near tile whose ranges nothing holds is copied, and no write waits for the object that did not. -/
theorem copyTile_copies {t : Nat} (hmem : MemOk s)
    (hst : tileStatus s (LObj.SEAT.get (s.obj n)) ((opEnds s n).1 + t * 16384) ((opEnds s n).2.1 + t * 16384) = St.ok) (h : NearTile s n t) :
    Copied s (copyTile s n t) (tileSrc s n t) (tileDst s n t) 16384 ∧ ((copyTile s n t).ox n).waiting = (s.ox n).waiting := by
  obtain ⟨hmover, hsrc, hdst, hfree, hmemu, hobjx⟩ := sourceNoted_ready (moverStatus_of_tileStatus hst) h
  have hmoved := tileMoved_of_near h
  have hcopied : Copied s (tileMoved s n t) (tileSrc s n t) (tileDst s n t) 16384 := by
    rw [hmoved]
    exact (moverCopy_copied _ hmover hsrc hdst hfree (by rw [MemOk, hmemu]; exact hmem)).1.from hmemu
  have hwait : ((tileMoved s n t).ox n).waiting = (s.ox n).waiting := by
    rw [hmoved, moverCopy_waiting _ hsrc hdst hfree, State.ox, hobjx, State.ox]
  have hfab : (tileMoved s n t).fab = s.fab := by
    rw [hmoved, (moverCopy_only ..).same .fab (by decide), (sourceNoted_presented s n t).fab, (sourceRead_only s n t).same .fab (by decide)]
  have hdirty : (dirtyTaken s (tileMoved s n t) n t).mem = (tileMoved s n t).mem ∧
      ((dirtyTaken s (tileMoved s n t) n t).ox n).waiting = ((tileMoved s n t).ox n).waiting := by
    unfold dirtyTaken
    split
    · exact ⟨rfl, rfl⟩
    · exact ⟨rfl, rfl⟩
  rw [copyTile_of_ok hst, farAddr_of_fab hfab, farAddr_of_fab hfab, h.src, h.dst, if_neg (by simp)]
  refine ⟨hcopied.of_mem (((tileDone_only ..).same .mem (by decide)).trans hdirty.1), ?_⟩
  rw [tileDone, ox_updOx]
  exact hdirty.2.trans hwait

end Sys2Proof.Places
end

section
/-! The rows of an object's operation. -/

namespace Sys2Proof.Places

open Sys2Proof Sys2Proof.Machine Sys2Proof.Laws Sys2Proof.Fabric Sys2Proof.Movers Sys2Proof.Stores Sys2Proof.Pins Sys2Proof.Vector

variable {s t u : State} {n m st i : Nat}

/-! ## The last tile of a pass -/

theorem get_of_not_mem {α : Type} {l : Tab α} {d : α} {k : Nat} (h : k ∉ l.map (·.1)) : Tab.get l d k = d := by
  induction l with
  | nil => rfl
  | cons e l ih =>
    rw [List.map_cons, List.mem_cons, not_or] at h
    rw [Tab.get, if_neg (Ne.symm h.1)]
    exact ih h.2

/-- One tile of an operation is left, and nothing keeps it from being copied now. -/
structure LastTile (s : State) (n i : Nat) : Prop where
  todo : (s.ox n).todo = [(i, 1)]
  good : (s.ox n).failed = 0
  still : tilesOpen s n = false
  unwaited : (s.ox n).waiting = []
  room : moverWaits s (keyOf s ((opEnds s n).2.1 + i * 16384)) 16384 = false
  turn : queueWaits s n = false

/-- The operation's last tile is taken off its list. -/
def lastTaken (s : State) (n : Nat) : State := s.updOx n (fun x => { x with todo := [] })

theorem copyRest_of_none (h : (s.ox n).todo = []) : copyRest s n = s := by
  rw [copyRest, h]
  rfl

theorem copyRest_of_last (h : LastTile s n i) : copyRest s n = copyTile (lastTaken s n) n i := by
  have hnext : copyRest s n = copyNext s n := by
    rw [copyRest, h.todo]
    rfl
  have hroom := h.room
  rw [hnext, copyNext]
  simp only [h.todo, h.turn, hroom, Bool.false_eq_true, if_false, Nat.le_refl, if_true]
  rfl

theorem lastTaken_only (s : State) (n : Nat) : OnlyChanges [.objx] s (lastTaken s n) := state_updOx_only ..

theorem opEnds_lastTaken (s : State) (n : Nat) : opEnds (lastTaken s n) n = opEnds s n := by
  have hox : (lastTaken s n).ox n = { s.ox n with todo := [] } := ox_updOx ..
  rw [opEnds, hox, opEnds]
  rfl

theorem tileStatus_lastTaken (s : State) (n : Nat) : tileStatus (lastTaken s n) = tileStatus s := tileStatus_of_only (lastTaken_only s n) (by decide)

theorem tilesOpen_of_fab (h : t.fab = s.fab) (n : Nat) : tilesOpen t n = tilesOpen s n := by rw [tilesOpen, jobOpen, h, tilesOpen, jobOpen]

/-- The status of an operation's tile as it is issued. -/
def issueStatus (s : State) (n i : Nat) : Nat :=
  tileStatus s (LObj.SEAT.get (s.obj n)) ((opEnds s n).1 + i * 16384) ((opEnds s n).2.1 + i * 16384)

theorem issueStatus_lastTaken (s : State) (n i : Nat) : issueStatus (lastTaken s n) n i = issueStatus s n i := by
  rw [issueStatus, tileStatus_lastTaken, opEnds_lastTaken]
  rfl

/-- The operation whose last tile was refused. -/
structure TileRefused (s u : State) (n st : Nat) : Prop where
  todo : (u.ox n).todo = []
  failed : (u.ox n).failed = tileFailure st
  obj : u.obj n = s.obj n
  fab : u.fab = s.fab

theorem copyRest_refused (h : LastTile s n i) (hst : issueStatus s n i = st) (hne : st ≠ St.ok) : TileRefused s (copyRest s n) n st := by
  rw [← issueStatus_lastTaken] at hst
  obtain ⟨u, hu, honly⟩ := copyTile_fails hst hne
  have hox : u.ox n = { s.ox n with todo := [] } := by
    rw [State.ox, honly.same .objx (by decide)]
    exact ox_updOx ..
  have hfail : (failTile u n st).ox n =
      { u.ox n with failed := firstStatus (u.ox n).failed (tileFailure st), todo := [] } := ox_updOx ..
  rw [copyRest_of_last h, hu]
  refine ⟨by rw [hfail], ?_, ?_, ?_⟩
  · rw [hfail, hox]
    dsimp only
    rw [h.good]
    exact if_pos rfl
  · rw [State.obj, (failTile_only ..).same .objs (by decide), honly.same .objs (by decide)]
    rfl
  · rw [(failTile_only ..).same .fab (by decide), honly.same .fab (by decide)]
    rfl

/-- The operation's last tile stands at its place. -/
theorem copyRest_copied (h : LastTile s n i) (hst : issueStatus s n i = St.ok) (hmem : MemOk s) (hnear : NearTile s n i) :
    Copied s (copyRest s n) (tileSrc s n i) (tileDst s n i) 16384 ∧ ((copyRest s n).ox n).waiting = [] := by
  have hends := opEnds_lastTaken s n
  have honly := lastTaken_only s n
  have hfab : (lastTaken s n).fab = s.fab := honly.same .fab (by decide)
  have hmem' : (lastTaken s n).mem = s.mem := honly.same .mem (by decide)
  have hview : Lanes.KeepsIngots Serving.slotView s (lastTaken s n) := Lanes.keepsIngots_of_only honly (by decide)
  have hobj : ∀ o, (lastTaken s n).obj o = s.obj o := fun o => rfl
  have hholds : ∀ o, (((lastTaken s n).ox o).op, ((lastTaken s n).ox o).pass) = ((s.ox o).op, (s.ox o).pass) := fun o => by
    by_cases ho : o = n
    · subst ho
      rw [lastTaken, ox_updOx]
    · rw [lastTaken, ox_updOx_other _ _ ho]
  have hin : n ∈ s.objx.map (·.1) := by
    by_contra hout
    have hreset : s.ox n = ObjX.reset := get_of_not_mem hout
    have htodo := h.todo
    rw [hreset] at htodo
    cases htodo
  have hfree : HoldsNoMore s (lastTaken s n) := holdsNoMore_setOx s hin rfl rfl
  have hnear' : NearTile (lastTaken s n) n i := by
    obtain ⟨hsrc, hdst, hsrcFree, hdstFree, hnone⟩ := hnear
    refine ⟨?_, ?_, ?_, ?_, ?_⟩
    · rw [farAddr_of_fab hfab, hends, hsrc]
    · rw [farAddr_of_fab hfab, hends, hdst]
    · rw [noDefer_of_view hview, keyOf_of_fab hfab, hends, hsrcFree]
    · rw [noDefer_of_view hview, keyOf_of_fab hfab, hends, hdstFree]
    · rw [keyOf_of_fab hfab, hends]
      exact hfree.holderOf_none hnone (Nat.le_refl _) (Nat.le_refl _)
  rw [← issueStatus_lastTaken] at hst
  obtain ⟨hcopied, hwait⟩ := copyTile_copies (by rw [MemOk, hmem']; exact hmem) hst hnear'
  have hsrc : tileSrc (lastTaken s n) n i = tileSrc s n i := by rw [tileSrc, keyOf_of_fab hfab, hends, tileSrc]
  have hdst : tileDst (lastTaken s n) n i = tileDst s n i := by rw [tileDst, keyOf_of_fab hfab, hends, tileDst]
  rw [hsrc, hdst] at hcopied
  rw [copyRest_of_last h]
  refine ⟨hcopied.from hmem', ?_⟩
  rw [hwait, lastTaken, ox_updOx]
  exact h.unwaited

/-! ## The end of a pass (R240, R241) -/

/-- What a pass ends with once its tiles are issued. -/
def passOver (s : State) (n : Nat) : State :=
  if !(s.ox n).todo.isEmpty || tilesOpen s n then s
  else if (s.ox n).failed ≠ 0 then moveFail s n (s.ox n).failed
  else if LObj.KIND.get (s.obj n) = 1 && inUse s n then
    (if inFlight s (useBind s n) then s.updOx n (fun y => { y with switchWait := true }) else moveSwitch s n true)
  else if (s.ox n).marks.isEmpty || (s.ox n).pass ≥ 5 then moveSwitch s n false
  else s.updOx n (fun y => { y with pass := (s.ox n).pass + 1, marks := [], todo := (s.ox n).marks.map (fun t => (t, 1)) })

theorem movePassEnd_eq (s : State) (n : Nat) : movePassEnd s n = passOver (copyRest s n) n := by
  rw [movePassEnd, passOver]

theorem passOver_mem (h : (s.ox n).waiting = []) : (passOver s n).mem = s.mem := by
  unfold passOver
  split
  · rfl
  · split
    · rw [moveFail_eq, endOp_mem (by rw [newLeft_waiting, h]), newLeft_mem]
    · split
      · split
        · rfl
        · exact moveSwitch_mem n true h
      · split
        · exact moveSwitch_mem n false h
        · rfl

theorem passOver_refused (h : TileRefused s u n st) (hopen : tilesOpen s n = false) (hne : st ≠ St.ok) (hlt : st < 2 ^ 16) :
    Fails s (passOver u n) n (tileFailure st) := by
  have hfailed : (u.ox n).failed ≠ 0 := by rw [h.failed]; exact tileFailure_ne hne
  rw [passOver, tilesOpen_of_fab h.fab, hopen, h.todo, if_neg (by simp), if_pos hfailed, h.failed]
  obtain ⟨hstate, hstatus, hwork⟩ := moveFail_fails (s := u) n (tileFailure_ne hne) (tileFailure_lt hlt)
  exact ⟨hstate, hstatus, by rw [hwork, h.obj]⟩

/-- Nothing of an operation is left to copy, and no tile of it has failed. -/
structure CopiesOver (s : State) (n : Nat) : Prop where
  todo : (s.ox n).todo = []
  good : (s.ox n).failed = 0
  still : tilesOpen s n = false

theorem passOver_of_over (h : CopiesOver s n) : passOver s n =
    if LObj.KIND.get (s.obj n) = 1 && inUse s n then
      (if inFlight s (useBind s n) then s.updOx n (fun y => { y with switchWait := true }) else moveSwitch s n true)
    else if (s.ox n).marks.isEmpty || (s.ox n).pass ≥ 5 then moveSwitch s n false
    else s.updOx n (fun y => { y with pass := (s.ox n).pass + 1, marks := [], todo := (s.ox n).marks.map (fun t => (t, 1)) }) := by
  rw [passOver, h.todo, h.still, if_neg (by simp), if_neg (by simp [h.good])]

theorem movePassEnd_runs {P : State → Prop} (hrun : running .banker s = true) (hmoving : moving s n = true) (hP : P (movePassEnd s n)) :
    Runs (.movePassEnd n) s P := by
  have hrow : exec (.movePassEnd n) s = execMovePassEnd n s := rfl
  exact runs_of_when (hrow.trans (by rw [execMovePassEnd])) hrun hmoving hP

/-! ## The end of a fill, a FLUSH or a DROP (R243) -/

/-- What a fill, a FLUSH or a DROP ends with once its tiles are issued. -/
def placeOver (s : State) (n : Nat) : State :=
  if !(s.ox n).todo.isEmpty || tilesOpen s n then s
  else if (s.ox n).failed ≠ 0 then endOp s n (s.ox n).failed
  else if LObj.STATE.get (s.obj n) = 4 then dropEnd s n
  else endOp s n St.ok

theorem placeEnd_eq (s : State) (n : Nat) : placeEnd s n = placeOver (copyRest s n) n := by rw [placeEnd, placeOver]

theorem placeOver_mem (h : (s.ox n).waiting = []) : (placeOver s n).mem = s.mem := by
  unfold placeOver
  split
  · rfl
  · split
    · exact endOp_mem h
    · split
      · exact dropEnd_mem h
      · exact endOp_mem h

theorem placeOver_refused (h : TileRefused s u n st) (hopen : tilesOpen s n = false) (hne : st ≠ St.ok) (hlt : st < 2 ^ 16) :
    Fails s (placeOver u n) n (tileFailure st) := by
  have hfailed : (u.ox n).failed ≠ 0 := by rw [h.failed]; exact tileFailure_ne hne
  rw [placeOver, tilesOpen_of_fab h.fab, hopen, h.todo, if_neg (by simp), if_pos hfailed, h.failed]
  obtain ⟨hstate, hstatus, hwork⟩ := endOp_fails (s := u) n (tileFailure_ne hne) (tileFailure_lt hlt)
  exact ⟨hstate, hstatus, by rw [hwork, h.obj]⟩

theorem placeOver_of_over (h : CopiesOver s n) : LObj.STATE.get ((placeOver s n).obj n) = 1 ∧ ((placeOver s n).ox n).op = 0 ∧
    LObj.WORK.get ((placeOver s n).obj n) =
      if LObj.STATE.get (s.obj n) = 4 then LObj.BACK.get (s.obj n) else LObj.WORK.get (s.obj n) := by
  rw [placeOver, h.todo, h.still, if_neg (by simp), if_neg (by simp [h.good])]
  by_cases hdrop : LObj.STATE.get (s.obj n) = 4
  · rw [if_pos hdrop, if_pos hdrop]
    refine ⟨?_, ?_, dropEnd_work ..⟩
    · rw [dropEnd_eq, endOp_state, if_pos rfl]
    · rw [dropEnd_eq, endOp_op]
  · rw [if_neg hdrop, if_neg hdrop]
    exact ⟨by rw [endOp_state, if_pos rfl], endOp_op .., endOp_work ..⟩

theorem placeEnd_runs {P : State → Prop} (hrun : running .banker s = true) (hplacing : placing s n = true) (hP : P (placeEnd s n)) :
    Runs (.placeOperationEnd n) s P := by
  have hrow : exec (.placeOperationEnd n) s = execPlaceOperationEnd n s := rfl
  exact runs_of_when (hrow.trans (by rw [execPlaceOperationEnd])) hrun hplacing hP

end Sys2Proof.Places
end

section
/-! What a request's end does to its entry, and what it leaves of the other requests (R264, R272, R276, R279). -/

namespace Sys2Proof.Ends

open Sys2Proof Sys2Proof.Machine Sys2Proof.Laws Sys2Proof.Lasting Sys2Proof.Pins
open Sys2Proof.Fabric (get_setAll_of_mem)
open Sys2Proof.MailboxService (FieldsApart)

variable {s t u : State} {slot k : Nat}

/-! ## Requests apart from what the fabric ends -/

/-- A run's copy but for its failure. -/
def unfailed (r : RunCopy) : RunCopy := { r with failed := 0 }

/-- A request's state but for the failures of its copies and their being counted. -/
def standing (x : ReqX) : ReqX := { x with parks := x.parks.map unfailed, returns := x.returns.map unfailed, tierHit := false }

/-- Every request is as it was, but for failures of copies. -/
structure Asked (s t : State) : Prop where
  reqs : t.reqs = s.reqs
  rx : ∀ k, standing (t.rx k) = standing (s.rx k)

theorem asked_refl (s : State) : Asked s s := ⟨rfl, fun _ => rfl⟩

theorem asked_step (h' : Asked t u) (h : Asked s t) : Asked s u := ⟨h'.reqs.trans h.reqs, fun k => (h'.rx k).trans (h.rx k)⟩

theorem asked_of_only {l : List Part} (h : OnlyChanges l s t) (hl : ∀ p ∈ [Part.reqs, .reqx], p ∉ l) : Asked s t := by
  refine ⟨h.same .reqs (hl _ (by simp)), fun k => ?_⟩
  rw [State.rx, h.same .reqx (hl _ (by simp)), State.rx]

theorem rx_updRx (s : State) (k : Nat) (f : ReqX → ReqX) : (s.updRx k f).rx k = f (s.rx k) := setRx_rx ..

theorem rx_updRx_other (s : State) (f : ReqX → ReqX) {j : Nat} (h : j ≠ k) : (s.updRx k f).rx j = s.rx j := setRx_rx_other _ _ _ _ h

theorem asked_updRx (s : State) (k : Nat) {f : ReqX → ReqX} (h : ∀ x, standing (f x) = standing x) : Asked s (s.updRx k f) := by
  refine ⟨rfl, fun j => ?_⟩
  by_cases hj : j = k
  · subst hj
    rw [rx_updRx, h]
  · rw [rx_updRx_other _ _ hj]

theorem asked_foldl {α : Type} {f : State → α → State} {l : List α} (h1 : Asked s t) (h : ∀ y a, Asked s y → Asked s (f y a)) :
    Asked s (l.foldl f t) := by
  induction l generalizing t with
  | nil => exact h1
  | cons a l ih => exact ih (h t a h1)

theorem failRun_unfailed (col status : Nat) (l : List RunCopy) : (failRun col status l).map unfailed = l.map unfailed := by
  rw [failRun, List.map_map]
  refine List.map_congr_left fun r _ => ?_
  rw [Function.comp_apply]
  split <;> rfl

theorem countTier_asked (s : State) (b slot : Nat) : Asked s (countTier s b slot) := by
  unfold countTier
  split
  · exact asked_refl s
  · exact asked_step (asked_of_only (state_countBind_only ..) (by decide)) (asked_updRx s slot fun _ => rfl)

theorem failServed_asked (s : State) (b en status : Nat) : Asked s (failServed s b en status) := by
  unfold failServed
  split
  · exact asked_refl s
  · split
    · exact asked_refl s
    · extract_lets d u
      have hu : Asked s u := asked_of_only (state_updBind_only ..) (by decide)
      split
      · exact asked_step (countTier_asked ..) hu
      · exact hu

theorem standing_parks (x : ReqX) (col status : Nat) : standing { x with parks := failRun col status x.parks } = standing x := by
  rw [standing, failRun_unfailed, standing]

theorem standing_returns (x : ReqX) (col status : Nat) : standing { x with returns := failRun col status x.returns } = standing x := by
  rw [standing, failRun_unfailed, standing]

theorem jobFail_asked (s : State) (j : Job) (status : Nat) : Asked s (jobFail s j status) := by
  unfold jobFail
  split
  · exact failServed_asked ..
  · exact asked_of_only (failTile_only ..) (by decide)
  · exact asked_updRx s _ fun _ => standing_parks ..
  · exact asked_updRx s _ fun _ => standing_returns ..
  · exact asked_of_only (state_updBind_only ..) (by decide)
  · exact asked_of_only (set_bank_only ..) (by decide)

theorem completeReq_asked (s : State) (r : FabReq) (status : Nat) (data : List Byte) : Asked s (completeReq s r status data) := by
  unfold completeReq
  extract_lets fences f u v
  have hu : Asked s u := asked_of_only (set_fab_only s _) (by decide)
  have hv : Asked s v := by
    unfold v
    split
    · split
      · exact hu
      · exact asked_step (asked_of_only (lostTiles_only ..) (by decide)) hu
    · split
      · exact asked_step (asked_of_only (jobDone_only ..) (by decide)) hu
      · exact asked_step (jobFail_asked ..) hu
  exact asked_step (asked_of_only (settleFences_only _) (by decide)) (asked_step (asked_of_only (state_emit_only ..) (by decide)) hv)

theorem dropPacket_asked (s : State) (port : Nat) (p : Packet) (status : Nat) : Asked s (dropPacket s port p status) := by
  have hcount : Asked s (countNoroute s port p) := asked_of_only (countNoroute_only ..) (by decide)
  unfold dropPacket
  extract_lets u
  split
  · split
    · exact asked_step (completeReq_asked ..) hcount
    · exact hcount
  · exact asked_step (asked_of_only (answer_only ..) (by decide)) hcount

theorem admitBulk_asked (s : State) (d : Nat) : Asked s (admitBulk s d) := by
  unfold admitBulk
  split
  · exact asked_refl s
  · split
    · exact asked_refl s
    · extract_lets u
      have hu : Asked s u := asked_of_only (setBulkStage_only ..) (by decide)
      split
      · exact asked_step (asked_of_only (queuePacket_only ..) (by decide)) hu
      · exact asked_step (dropPacket_asked ..) hu

theorem launchPacket_asked (s : State) (out : Nat) (p : Packet) : Asked s (launchPacket s out p) := by
  unfold launchPacket
  split
  · exact asked_step (admitBulk_asked ..) (asked_of_only (stagePacket_only ..) (by decide))
  · exact asked_of_only (queuePacket_only ..) (by decide)

theorem launch_asked (s : State) (h : HeldReq) : Asked s (launch s h) := by
  unfold launch
  extract_lets q r f u v
  have hu : Asked s u := by
    unfold u
    split
    · exact asked_of_only (set_fab_only s _) (by decide)
    · exact asked_refl s
  split
  · exact asked_step (launchPacket_asked ..) hu
  · have hv := asked_step (asked_of_only (countNoroute_only u 6 h.pkt) (by decide)) hu
    split
    · exact asked_step (completeReq_asked ..) hv
    · exact hv

theorem issueAs_asked (s : State) (serves : Option Job) (tracked : Bool) (span unit dest cls seat : Nat) (posted : Bool)
    (dst left : Nat) (mk : List (Fld × Nat)) (payload : BitVec 4096) :
    Asked s (issueAs s serves tracked span unit dest cls seat posted dst left mk payload) := by
  unfold issueAs
  extract_lets n p h f u
  have hu : Asked s u := asked_of_only (set_fab_only s _) (by decide)
  split
  · exact asked_step (launch_asked ..) hu
  · exact asked_step (asked_of_only (set_fab_only u _) (by decide)) hu

theorem tableWrite_asked (s : State) (e : BitVec 1024) (off : Nat) (bs : List Byte) : Asked s (tableWrite s e off bs) := by
  unfold tableWrite
  extract_lets seat a st u
  have hu : Asked s u := asked_of_only (hostWrite_only ..) (by decide)
  split
  · exact asked_of_only (state_noteWindow_only ..) (by decide)
  · split
    · unfold tablePacket
      extract_lets w
      split
      · exact asked_step (issueAs_asked ..) hu
      · exact asked_step (issueAs_asked ..) hu
    · exact hu

theorem ptHeader_asked (s : State) (slot : Nat) : Asked s (ptHeader s slot) := tableWrite_asked ..

theorem ptWrite_asked (s : State) (e : BitVec 1024) (j : Nat) (w : W64) : Asked s (ptWrite s e j w) := tableWrite_asked ..

/-! ## What is done to one request -/

/-- Requests but the one of a slot are as they were, but for failures of copies. -/
structure Apart (slot : Nat) (s t : State) : Prop where
  req : ∀ k, k ≠ slot → t.req k = s.req k
  rx : ∀ k, k ≠ slot → standing (t.rx k) = standing (s.rx k)

theorem apart_refl (slot : Nat) (s : State) : Apart slot s s := ⟨fun _ _ => rfl, fun _ _ => rfl⟩

theorem apart_step (h' : Apart slot t u) (h : Apart slot s t) : Apart slot s u :=
  ⟨fun k hk => (h'.req k hk).trans (h.req k hk), fun k hk => (h'.rx k hk).trans (h.rx k hk)⟩

theorem apart_of_asked (h : Asked s t) : Apart slot s t := ⟨fun k _ => by rw [State.req, h.reqs, State.req], fun k _ => h.rx k⟩

theorem apart_of_only {l : List Part} (h : OnlyChanges l s t) (hl : ∀ p ∈ [Part.reqs, .reqx], p ∉ l) : Apart slot s t :=
  apart_of_asked (asked_of_only h hl)

theorem apart_updRx (s : State) (slot : Nat) (f : ReqX → ReqX) : Apart slot s (s.updRx slot f) :=
  ⟨fun _ _ => rfl, fun _ hk => by rw [rx_updRx_other _ _ hk]⟩

theorem req_updReq (s : State) (slot : Nat) (l : List (Fld × Nat)) : (s.updReq slot l).req slot = setAll (s.req slot) l := setReq_req ..

theorem req_updReq_other (s : State) (l : List (Fld × Nat)) (h : k ≠ slot) : (s.updReq slot l).req k = s.req k :=
  setReq_req_other _ _ _ _ h

theorem apart_updReq (s : State) (slot : Nat) (l : List (Fld × Nat)) : Apart slot s (s.updReq slot l) :=
  ⟨fun _ hk => req_updReq_other _ _ hk, fun _ _ => rfl⟩

theorem apart_foldl {α : Type} {f : State → α → State} (h : ∀ y a, Apart slot y (f y a)) (l : List α) (s : State) :
    Apart slot s (l.foldl f s) := by
  induction l generalizing s with
  | nil => exact apart_refl slot s
  | cons a l ih => exact apart_step (ih _) (h s a)

theorem tellPark_quiet (s : State) (chip code arg1 arg2 seat : Nat) :
    OnlyChanges [.cores, .fab, .out, .free] s (tellPark s chip code arg1 arg2 seat) := by
  unfold tellPark
  extract_lets u
  have hu : OnlyChanges [.cores, .fab, .out, .free] s u := only_step (state_emit_only ..) (by decide) (only_refl _ s)
  split
  · exact hu
  · exact only_step (Mirrors.message_quiet _ _ _ _ (by decide)) (by decide) hu

theorem parkRelease_apart (s : State) (slot : Nat) (r : RunCopy) : Apart slot s (parkRelease s slot r) := by
  unfold parkRelease
  split
  · exact apart_of_only (state_updOx_only ..) (by decide)
  · extract_lets n u f v
    have hu : Apart slot s u := apart_of_only (state_updSeat_only ..) (by decide)
    have hv : Apart slot u v := apart_of_only (set_fab_only u _) (by decide)
    exact apart_step (apart_of_only (tellPark_quiet ..) (by decide)) (apart_step (apart_updRx ..) (apart_step hv hu))

theorem dropHeld_apart (s : State) (slot : Nat) : Apart slot s (dropHeld s slot) := by
  unfold dropHeld
  split
  · exact apart_refl slot s
  · extract_lets b reads u
    refine apart_step (apart_updRx ..) ?_
    unfold u
    split
    · exact apart_of_only (state_updBind_only ..) (by decide)
    · exact apart_of_only (freeSet_only ..) (by decide)

/-! ## The end of a request (R272, R279) -/

/-- A request's runs, sets and park space are let go of as it ends. -/
def letGo (s : State) (slot st : Nat) (runs : List (Nat × Nat × Nat × W64)) : State :=
  let b := rBind s slot
  let x := s.rx slot
  let s := s.countBind b (BC.endEos + st - 1) 1
  let s := runs.foldl (fun s r => refDrop s b r.2.1 r.2.2.1) s
  let s := match x.forkHold with
    | some (p, i) => if x.refDue.contains (p, i) then s else refDrop s b p i
    | none => s
  let s := match x.tail with
    | .writing p i _ => (unreserve s b p i).updBind b (fun y => { y with tails := y.tails.filter (fun t => t.slot != slot) })
    | _ => s
  let s := x.returns.foldl (fun s r => unreserve s b r.pool r.idx) s
  let s := (x.parked ++ x.parks).foldl (fun s r => parkRelease s slot r) s
  let s := s.updBind b (fun y => { y with seeds := y.seeds.filter (fun t => t.slot != slot) })
  dropHeld s slot

/-- The runs that a request held at its end. -/
def goneRuns (x : ReqX) (runs : List (Nat × Nat × Nat × W64)) : List (Nat × Nat) :=
  runs.map (fun r => (r.2.1, r.2.2.1)) ++ x.forkHold.toList ++ x.returns.map (fun r => (r.pool, r.idx)) ++
    (match x.tail with
      | .writing p i _ => [(p, i)]
      | _ => [])

/-- A request's state as its end leaves it. -/
def overRx (gone : List (Nat × Nat)) (wait : Option (BitVec 128)) (y : ReqX) : ReqX :=
  { y with
    ptDue := [], lenDue := none, refDue := [], seed := none, forkHold := none, cancelDue := 0, pauseDue := none, faultDue := 0, expireDue := 0,
    tail := .none, tailRun := false, ask := none, parks := [], parked := [], returns := [], ends := y.ends ++ gone, endWait := wait }

theorem endWith_eq (s : State) (slot st detail time : Nat) (recorded : Bool) (runs : List (Nat × Nat × Nat × W64)) :
    endWith s slot st detail time recorded runs =
      (ptHeader ((letGo s slot st runs).updReq slot [(LEnt.STATE, RS.ending), (LEnt.END, st), (LEnt.DETAIL, detail)]) slot).updRx slot
        (fun y => overRx (goneRuns (s.rx slot) runs) (if recorded then none else some (endEntry st time)) y) := by
  simp only [endWith, letGo, overRx, goneRuns] <;> rfl

theorem letGo_apart (s : State) (slot st : Nat) (runs : List (Nat × Nat × Nat × W64)) :
    Apart slot s (letGo s slot st runs) ∧ (letGo s slot st runs).reqs = s.reqs := by
  unfold letGo
  extract_lets b x u1 u2 u3 u4 u5 u6 u7
  have h1 : Asked s u1 := asked_of_only (state_countBind_only ..) (by decide)
  have h2 : Asked s u2 := asked_foldl h1 fun _ _ h => asked_step (asked_of_only (refDrop_only ..) (by decide)) h
  have h3 : Asked u2 u3 := by
    unfold u3
    split
    · split
      · exact asked_refl u2
      · exact asked_of_only (refDrop_only ..) (by decide)
    · exact asked_refl u2
  have h4 : Asked u3 u4 := by
    unfold u4
    split
    · exact asked_step (asked_of_only (state_updBind_only ..) (by decide)) (asked_of_only (unreserve_only ..) (by decide))
    · exact asked_refl u3
  have h5 : Asked s u5 := asked_foldl (asked_step h4 (asked_step h3 h2)) fun _ _ h => asked_step (asked_of_only (unreserve_only ..) (by decide)) h
  have h6 : Apart slot u5 u6 := apart_foldl (fun y r => parkRelease_apart y slot r) _ _
  have h7 : Apart slot s u7 := apart_step (apart_of_only (state_updBind_only ..) (by decide)) (apart_step h6 (apart_of_asked h5))
  have hfold : OnlyChanges [.dirty, .seats, .bank, .reqx, .objs, .objx, .binds, .cores, .fab, .out, .free] u5 u6 :=
    only_foldl (only_refl _ u5) fun y r hy => only_step (parkRelease_only ..) (by decide) hy
  have hreqs : u6.reqs = u5.reqs := hfold.same .reqs (by decide)
  refine ⟨apart_step (dropHeld_apart ..) h7, ?_⟩
  rw [(dropHeld_only ..).same .reqs (by decide), ← h5.reqs, ← hreqs]
  rfl

theorem endWith_apart (s : State) (slot st detail time : Nat) (recorded : Bool) (runs : List (Nat × Nat × Nat × W64)) :
    Apart slot s (endWith s slot st detail time recorded runs) := by
  rw [endWith_eq]
  exact apart_step (apart_updRx ..) (apart_step (apart_of_asked (ptHeader_asked ..)) (apart_step (apart_updReq ..) (letGo_apart ..).1))

/-- The entry of a request as its end leaves it. -/
def endedEntry (w : BitVec 1024) (st detail : Nat) : BitVec 1024 :=
  setAll w [(LEnt.STATE, RS.ending), (LEnt.END, st), (LEnt.DETAIL, detail)]

theorem endWith_req (s : State) (slot st detail time : Nat) (recorded : Bool) (runs : List (Nat × Nat × Nat × W64)) :
    (endWith s slot st detail time recorded runs).req slot = endedEntry (s.req slot) st detail := by
  rw [endWith_eq, State.req, (state_updRx_only ..).same .reqs (by decide), (ptHeader_asked ..).reqs]
  refine (req_updReq ..).trans ?_
  rw [State.req, (letGo_apart ..).2, endedEntry, State.req]

theorem endWith_rx (s : State) (slot st detail time : Nat) (recorded : Bool) (runs : List (Nat × Nat × Nat × W64)) :
    let y := (endWith s slot st detail time recorded runs).rx slot
    y.parks = [] ∧ y.parked = [] ∧ y.returns = [] ∧ y.expireDue = 0 := by
  rw [endWith_eq, rx_updRx]
  exact ⟨rfl, rfl, rfl, rfl⟩

/-! ## An end at an application (R264) -/

/-- The state before the end entry is written. -/
def endBegun (s : State) (slot st detail : Nat) : State :=
  readCons ((endReq s slot st detail (now s) false).updRx slot (fun x => { x with ringUndo := [] })) slot

/-- The end entry is written where there is room, and the ring's vector raised where it was. -/
def endTold (s : State) (slot : Nat) : State :=
  if ((ringEnd s slot).rx slot).prod = (s.rx slot).prod then ringEnd s slot else ringRaise (ringEnd s slot) slot

theorem endNow_eq (s : State) (slot st detail : Nat) : endNow s slot st detail = endTold (endBegun s slot st detail) slot := by
  rw [endNow, endTold, endBegun]

theorem ringCheck_asked (s : State) (slot : Nat) : Asked s (ringCheck s slot) := asked_of_only (ringCheck_only ..) (by decide)

theorem readCons_apart (s : State) (slot : Nat) : Apart slot s (readCons s slot) := by
  unfold readCons
  extract_lets e a
  split
  · exact apart_step (apart_of_only (state_countBind_only ..) (by decide)) (apart_updRx ..)
  · split
    · exact apart_step (apart_of_only (state_noteWindow_only ..) (by decide))
        (apart_step (apart_of_only (state_countBind_only ..) (by decide)) (apart_of_only (noteBad_only ..) (by decide)))
    · exact apart_step (apart_of_asked (ringCheck_asked ..)) (apart_updRx ..)

theorem ringLost_apart (s : State) (slot : Nat) : Apart slot s (ringLost s slot) := by
  unfold ringLost
  extract_lets u
  have hu : Apart slot s u := apart_of_only (state_countBind_only ..) (by decide)
  split
  · exact apart_step (apart_updRx ..) hu
  · exact hu

theorem ringStore_apart (s : State) (slot k : Nat) (bs : List Byte) : Apart slot s (ringStore s slot k bs) := by
  unfold ringStore
  extract_lets e key
  split
  · exact apart_refl slot s
  · split
    · exact apart_step (apart_updRx ..) (apart_of_only (hostWrite_only ..) (by decide))
    · refine apart_step (ringLost_apart ..) ?_
      split
      · exact apart_refl slot s
      · exact apart_of_only (state_noteWindow_only ..) (by decide)

theorem ringPut_apart (s : State) (slot : Nat) (w : BitVec 128) : Apart slot s (ringPut s slot w) := by
  unfold ringPut
  exact apart_step (apart_updRx ..) (ringStore_apart ..)

theorem ringEnd_apart (s : State) (slot : Nat) : Apart slot s (ringEnd s slot) := by
  unfold ringEnd
  split
  · exact apart_refl slot s
  · split
    · exact apart_refl slot s
    · extract_lets u v
      exact apart_step (apart_updRx ..) (apart_step (ringStore_apart ..) (ringPut_apart ..))

theorem endTold_apart (s : State) (slot : Nat) : Apart slot s (endTold s slot) := by
  unfold endTold
  split
  · exact ringEnd_apart ..
  · exact apart_step (apart_of_only (ringRaise_only ..) (by decide)) (ringEnd_apart ..)

theorem endNow_apart (s : State) (slot st detail : Nat) : Apart slot s (endNow s slot st detail) := by
  rw [endNow_eq, endBegun]
  exact apart_step (endTold_apart ..) (apart_step (readCons_apart ..) (apart_step (apart_updRx ..) (endWith_apart ..)))

theorem endTold_reqs (s : State) (slot : Nat) : (endTold s slot).reqs = s.reqs := by
  unfold endTold
  split
  · exact (ringEnd_only ..).same .reqs (by decide)
  · rw [(ringRaise_only ..).same .reqs (by decide), (ringEnd_only ..).same .reqs (by decide)]

theorem endNow_req (s : State) (slot st detail : Nat) : (endNow s slot st detail).req slot = endedEntry (s.req slot) st detail := by
  have hreqs : (endNow s slot st detail).reqs = (endReq s slot st detail (now s) false).reqs := by
    rw [endNow_eq, endTold_reqs, endBegun, (readCons_only ..).same .reqs (by decide)]
    rfl
  rw [State.req, hreqs]
  exact endWith_req ..

/-! ## The copies of a request that has ended -/

/-- A request has no copies under way. -/
def NoCopies (t : State) (slot : Nat) : Prop := (t.rx slot).parks = [] ∧ (t.rx slot).parked = [] ∧ (t.rx slot).returns = []

theorem noCopies_updRx (h : NoCopies s slot) {f : ReqX → ReqX}
    (hf : ∀ x, (f x).parks = x.parks ∧ (f x).parked = x.parked ∧ (f x).returns = x.returns) : NoCopies (s.updRx slot f) slot := by
  obtain ⟨hparks, hparked, hreturns⟩ := h
  obtain ⟨hfp, hfd, hfr⟩ := hf (s.rx slot)
  rw [NoCopies, rx_updRx, hfp, hfd, hfr]
  exact ⟨hparks, hparked, hreturns⟩

theorem noCopies_of_rx (h : NoCopies s slot) (hrx : t.reqx = s.reqx) : NoCopies t slot := by
  rw [NoCopies, State.rx, hrx]
  exact h

theorem readCons_noCopies (h : NoCopies s slot) : NoCopies (readCons s slot) slot := by
  unfold readCons
  extract_lets e a
  split
  · refine noCopies_of_rx ?_ ((state_countBind_only ..).same .reqx (by decide))
    exact noCopies_updRx h fun _ => ⟨rfl, rfl, rfl⟩
  · split
    · refine noCopies_of_rx h ?_
      rw [(state_noteWindow_only ..).same .reqx (by decide), (state_countBind_only ..).same .reqx (by decide),
        (noteBad_only ..).same .reqx (by decide)]
    · refine noCopies_of_rx ?_ ((ringCheck_only ..).same .reqx (by decide))
      exact noCopies_updRx h fun _ => ⟨rfl, rfl, rfl⟩

theorem ringStore_noCopies (h : NoCopies s slot) (k : Nat) (bs : List Byte) : NoCopies (ringStore s slot k bs) slot := by
  unfold ringStore
  extract_lets e key
  split
  · exact h
  · split
    · exact noCopies_updRx (noCopies_of_rx h ((hostWrite_only ..).same .reqx (by decide))) fun _ => ⟨rfl, rfl, rfl⟩
    · have hv : ∀ v : State, v.reqx = s.reqx → NoCopies (ringLost v slot) slot := fun v hv => by
        unfold ringLost
        extract_lets u
        have hu : NoCopies u slot := noCopies_of_rx h (((state_countBind_only ..).same .reqx (by decide)).trans hv)
        split
        · exact noCopies_updRx hu fun _ => ⟨rfl, rfl, rfl⟩
        · exact hu
      split
      · exact hv s rfl
      · exact hv _ ((state_noteWindow_only ..).same .reqx (by decide))

theorem endTold_noCopies (h : NoCopies s slot) : NoCopies (endTold s slot) slot := by
  have hend : NoCopies (ringEnd s slot) slot := by
    unfold ringEnd
    split
    · exact h
    · split
      · exact h
      · extract_lets u v
        have hu : NoCopies u slot := noCopies_updRx (ringStore_noCopies h _ _) fun _ => ⟨rfl, rfl, rfl⟩
        exact noCopies_updRx (ringStore_noCopies hu _ _) fun _ => ⟨rfl, rfl, rfl⟩
  unfold endTold
  split
  · exact hend
  · exact noCopies_of_rx hend ((ringRaise_only ..).same .reqx (by decide))

theorem endNow_noCopies (s : State) (slot st detail : Nat) : NoCopies (endNow s slot st detail) slot := by
  obtain ⟨hparks, hparked, hreturns, -⟩ := endWith_rx s slot st detail (now s) false (heldRuns s slot)
  have hended : NoCopies (endReq s slot st detail (now s) false) slot := ⟨hparks, hparked, hreturns⟩
  rw [endNow_eq, endBegun]
  exact endTold_noCopies (readCons_noCopies (noCopies_updRx hended fun _ => ⟨rfl, rfl, rfl⟩))

/-! ## The fields of an ended entry -/

/-- A request's entry says that it has ended, and how. -/
def EndedAs (t : State) (slot st detail : Nat) : Prop :=
  rState t slot = RS.ending ∧ LEnt.END.get (t.req slot) = st ∧ LEnt.DETAIL.get (t.req slot) = detail

theorem endedAs_of_entry {w : BitVec 1024} {st detail : Nat} (h : t.req slot = endedEntry w st detail) (hst : st < 2 ^ LEnt.END.w)
    (hdetail : detail < 2 ^ LEnt.DETAIL.w) : EndedAs t slot st detail := by
  have hapart : ([(LEnt.STATE, RS.ending), (LEnt.END, st), (LEnt.DETAIL, detail)].map (·.1)).Pairwise FieldsApart := by
    simp [FieldsApart, LEnt.STATE, LEnt.END, LEnt.DETAIL]
  refine ⟨?_, ?_, ?_⟩
  · rw [rState, h, endedEntry, get_setAll_of_mem (v := RS.ending) w (by simp) hapart (by decide)]
    rfl
  · rw [h, endedEntry, get_setAll_of_mem (v := st) w (by simp) hapart (by decide), Nat.mod_eq_of_lt hst]
  · rw [h, endedEntry, get_setAll_of_mem (v := detail) w (by simp) hapart (by decide), Nat.mod_eq_of_lt hdetail]

theorem endNow_ends {st detail : Nat} (s : State) (slot : Nat) (hst : st < 2 ^ LEnt.END.w) (hdetail : detail < 2 ^ LEnt.DETAIL.w) :
    EndedAs (endNow s slot st detail) slot st detail := endedAs_of_entry (endNow_req ..) hst hdetail

end Sys2Proof.Ends
end

section
/-! Expiries, CONS polls and REQUEST_DONE (R268, R276, R279, R284). -/

namespace Sys2Proof.Ends

open Sys2Proof Sys2Proof.Machine Sys2Proof.Laws Sys2Proof.Lasting Sys2Proof.Pins
open Sys2Proof.Fabric (get_setAll_of_mem)
open Sys2Proof.MailboxService (FieldsApart)

variable {s t u : State} {slot k b : Nat}

/-! ## Expiries (R276) -/

/-- DETAIL of the expiry that a request has reached; 0 none. -/
def dueDetail (s : State) (k : Nat) : Nat :=
  if LEnt.DEADLINE.get (s.req k) ≠ 0 && decide (LEnt.DEADLINE.get (s.req k) ≤ now s) then 2
  else if LEnt.T_EXPIRE.get (s.req k) ≠ 0 && decide (LEnt.T_EXPIRE.get (s.req k) ≤ now s) then 1 else 0

theorem markExpired_eq (s : State) (k : Nat) : markExpired s k =
    if rActive s k && dueDetail s k ≠ 0 then s.updRx k (fun x => { x with expireDue := dueDetail s k }) else s := rfl

theorem markExpired_only (s : State) (k : Nat) : OnlyChanges [.reqx] s (markExpired s k) := by
  rw [markExpired_eq]
  split
  · exact state_updRx_only ..
  · exact only_refl _ s

theorem dueDetail_of_same (hreqs : t.reqs = s.reqs) (hclk : t.clk = s.clk) (k : Nat) : dueDetail t k = dueDetail s k := by
  rw [dueDetail, State.req, hreqs, now, hclk, dueDetail, State.req, now]

theorem rActive_of_reqs (h : t.reqs = s.reqs) (k : Nat) : rActive t k = rActive s k := by
  rw [rActive, rState, State.req, h, rActive, rState, State.req]

/-- The expiry of a request is noted once it has been looked at, and stays noted. -/
theorem marked_foldl {d : Nat} (hd : d ≠ 0) (l : List Nat) : ∀ y : State, rActive y k = true → dueDetail y k = d →
    k ∈ l ∨ (y.rx k).expireDue = d → ((l.foldl markExpired y).rx k).expireDue = d := by
  induction l with
  | nil => exact fun y _ _ h => h.resolve_left List.not_mem_nil
  | cons n l ih =>
    intro y hactive hdue h
    have honly := markExpired_only y n
    have hreqs : (markExpired y n).reqs = y.reqs := honly.same .reqs (by decide)
    refine ih _ (by rw [rActive_of_reqs hreqs, hactive]) (by rw [dueDetail_of_same hreqs (honly.same .clk (by decide)), hdue]) ?_
    by_cases hn : n = k
    · subst hn
      refine .inr ?_
      rw [markExpired_eq, hactive, hdue, if_pos (by simpa using hd), rx_updRx]
    · refine h.elim (fun h => .inl ((List.mem_cons.mp h).resolve_left (Ne.symm hn))) fun h => .inr ?_
      rw [markExpired_eq]
      split
      · rw [rx_updRx_other _ _ (Ne.symm hn), h]
      · exact h

/-- A request whose expiry is due, or that it has ended. -/
def DueOrEnded (y : State) (k d : Nat) : Prop := (rActive y k = true ∧ (y.rx k).expireDue = d) ∨ EndedAs y k 5 d

/-- Ends a request whose expiry is due. -/
def endDue (y : State) (n : Nat) : State := if rActive y n && (y.rx n).expireDue != 0 then endNow y n 5 (y.rx n).expireDue else y

theorem endExpired_eq (s : State) (b : Nat) : endExpired s b = (bindSlots s b).foldl endDue s := rfl

theorem rActive_of_req (h : t.req k = s.req k) : rActive t k = rActive s k := by rw [rActive, rState, h, rActive, rState]

theorem endedAs_of_req {st detail : Nat} (h : t.req k = s.req k) (he : EndedAs s k st detail) : EndedAs t k st detail := by
  rw [EndedAs, rState, h]
  exact he

theorem endDue_apart (y : State) (n : Nat) : Apart n y (endDue y n) := by
  unfold endDue
  split
  · exact endNow_apart ..
  · exact apart_refl n y

theorem endDue_other {y : State} {n d : Nat} (hn : k ≠ n) (h : DueOrEnded y k d) : DueOrEnded (endDue y n) k d := by
  have hapart := endDue_apart y n
  have hreq := hapart.req k hn
  rcases h with ⟨hactive, hdue⟩ | hended
  · refine .inl ⟨by rw [rActive_of_req hreq, hactive], ?_⟩
    have hexpire := congrArg ReqX.expireDue (hapart.rx k hn)
    exact hexpire.trans hdue
  · exact .inr (endedAs_of_req hreq hended)

theorem endDue_self {y : State} {d : Nat} (hd : d ≠ 0) (hlt : d < 8) (h : DueOrEnded y k d) : EndedAs (endDue y k) k 5 d := by
  rcases h with ⟨hactive, hdue⟩ | hended
  · rw [endDue, hactive, hdue, if_pos (by simpa using hd)]
    exact endNow_ends y k (by decide) hlt
  · have hactive : rActive y k = false := by rw [rActive, hended.1]; rfl
    rw [endDue, hactive, if_neg (by simp)]
    exact hended

theorem ended_foldl {d : Nat} (hd : d ≠ 0) (hlt : d < 8) (l : List Nat) : ∀ y : State, DueOrEnded y k d → k ∈ l ∨ EndedAs y k 5 d →
    EndedAs (l.foldl endDue y) k 5 d := by
  induction l with
  | nil => exact fun y _ h => h.resolve_left List.not_mem_nil
  | cons n l ih =>
    intro y hy h
    by_cases hn : k = n
    · subst hn
      have hself := endDue_self hd hlt hy
      exact ih _ (.inr hself) (.inr hself)
    · refine ih _ (endDue_other hn hy) (h.imp (fun h => (List.mem_cons.mp h).resolve_left hn) fun h => ?_)
      exact endedAs_of_req ((endDue_apart y n).req k hn) h

theorem mem_bindSlots (hactive : rActive s k = true) (hb : rBind s k = b) : k ∈ bindSlots s b := by
  have hstate : rState s k ≠ 0 := by
    rw [rActive, Bool.and_eq_true, decide_eq_true_eq] at hactive
    omega
  refine List.mem_filter.mpr ⟨?_, by simp [hstate, hb]⟩
  by_contra hout
  refine hstate ?_
  rw [rState, State.req, Places.get_of_not_mem hout]
  simp [Fld.get]

theorem bindSlots_of_reqs (b : Nat) (h : t.reqs = s.reqs) : bindSlots t b = bindSlots s b := by
  simp only [bindSlots, slotsWhere, rState, rBind, State.req, h]

/-- A request that has expired ends with what it has reached. -/
theorem expiry_ends (hactive : rActive s k = true) (hb : rBind s k = b) (hdue : dueDetail s k ≠ 0) :
    EndedAs (endExpired ((bindSlots s b).foldl markExpired s) b) k 5 (dueDetail s k) := by
  have hin := mem_bindSlots hactive hb
  have hmarks : OnlyChanges [.reqx] s ((bindSlots s b).foldl markExpired s) :=
    only_foldl (only_refl _ s) fun y n hy => only_step (markExpired_only y n) (by decide) hy
  have hreqs : ((bindSlots s b).foldl markExpired s).reqs = s.reqs := hmarks.same .reqs (by decide)
  have hslots := bindSlots_of_reqs b hreqs
  have hlt : dueDetail s k < 8 := by
    unfold dueDetail
    split
    · decide
    · split <;> decide
  rw [endExpired_eq, hslots]
  refine ended_foldl hdue hlt _ _ (.inl ⟨by rw [rActive_of_reqs hreqs, hactive], ?_⟩) (.inl hin)
  exact marked_foldl hdue _ s hactive rfl (.inl hin)

theorem expiryCheck_runs {P : State → Prop} (hrun : running .banker s = true) (hloaded : (s.bind b).loaded = true)
    (hflight : inFlight s b = false) (hP : P (endExpired ((bindSlots s b).foldl markExpired s) b)) : Runs (.expiryCheck b) s P := by
  have hrow : exec (.expiryCheck b) s = execExpiryCheck b s := rfl
  exact runs_of_when (hrow.trans (by rw [execExpiryCheck])) hrun (by rw [hloaded, hflight]; rfl) hP

/-! ## CONS polls (R284) -/

/-- A request's state but for what a ring write notes. -/
def unrung (x : ReqX) : ReqX := { x with ringUndo := [], faultDue := 0 }

theorem ringStore_rx (s : State) (slot k : Nat) (bs : List Byte) : unrung ((ringStore s slot k bs).rx slot) = unrung (s.rx slot) := by
  unfold ringStore
  extract_lets e key
  split
  · rfl
  · split
    · rw [rx_updRx, State.rx, (hostWrite_only ..).same .reqx (by decide), State.rx]
      rfl
    · have hlost : ∀ v : State, v.reqx = s.reqx → unrung ((ringLost v slot).rx slot) = unrung (s.rx slot) := fun v hv => by
        have hcount : (v.countBind (rBind v slot) BC.ringBad 1).rx slot = s.rx slot := by
          rw [State.rx, (state_countBind_only ..).same .reqx (by decide), hv, State.rx]
        unfold ringLost
        extract_lets u
        split
        · rw [rx_updRx, hcount]
          rfl
        · rw [hcount]
      split
      · exact hlost s rfl
      · exact hlost _ ((state_noteWindow_only ..).same .reqx (by decide))

theorem ringPut_prod (s : State) (slot : Nat) (w : BitVec 128) :
    ((ringPut s slot w).rx slot).prod = (s.rx slot).prod + 1 := by
  have hprod := congrArg ReqX.prod (ringStore_rx s slot (128 + 16 * ((s.rx slot).prod.toNat % 64))
    (bytesOf (LRingEnt.PHASE.set w (b2n ((s.rx slot).prod.toNat / 64 % 2 == 0))).toNat 16))
  rw [ringPut, rx_updRx]
  exact congrArg (· + 1) hprod

/-- The end entry that waits is written where the ring has room. -/
theorem ringEnd_writes {w : BitVec 128} (hwait : (s.rx slot).endWait = some w) (hroom : ringRoom s slot ≠ 0) :
    ((ringEnd s slot).rx slot).endWait = none ∧ ((ringEnd s slot).rx slot).prod = (s.rx slot).prod + 1 := by
  rw [ringEnd, hwait]
  dsimp only
  rw [if_neg hroom, rx_updRx]
  refine ⟨rfl, ?_⟩
  have hprod := congrArg ReqX.prod (ringStore_rx (ringPut s slot w) slot 0
    (bytesOf (((ringPut s slot w).rx slot).prod.toNat + LEnt.END.get ((ringPut s slot w).req slot) * 2 ^ 32) 64))
  exact hprod.trans (ringPut_prod s slot w)

theorem rx_countBind (s : State) (b c n k : Nat) : (s.countBind b c n).rx k = s.rx k := by
  rw [State.rx, (state_countBind_only ..).same .reqx (by decide), State.rx]

/-- A request's state but for what a read of CONS notes. -/
def unpolled (x : ReqX) : ReqX := { x with cons := 0, consLost := false }

theorem rx_ringCheck (s : State) (slot k : Nat) : (ringCheck s slot).rx k = s.rx k := by
  rw [State.rx, (ringCheck_only ..).same .reqx (by decide), State.rx]

theorem readCons_rx (s : State) (slot : Nat) : unpolled ((readCons s slot).rx slot) = unpolled (s.rx slot) := by
  unfold readCons
  extract_lets e a
  split
  · rw [rx_countBind, rx_updRx]
    rfl
  · split
    · rw [State.rx, (state_noteWindow_only ..).same .reqx (by decide), (state_countBind_only ..).same .reqx (by decide),
        (noteBad_only ..).same .reqx (by decide), State.rx]
    · rw [rx_ringCheck, rx_updRx]
      rfl

/-- CONS is taken where it can be read, and a read that was given up is over. -/
theorem readCons_cons (s : State) (slot : Nat) :
    let a := LEnt.RING.get (s.req slot) + 64
    let ok := !(s.rx slot).consLost && accessStatus s (rSeat s slot) false a 4 == St.ok && !uncorrAt s (keyOf s a) 4
    ((readCons s slot).rx slot).consLost = false ∧
      ((readCons s slot).rx slot).cons = if ok then BitVec.ofNat 32 (readNat s (keyOf s a) 4) else (s.rx slot).cons := by
  intro a ok
  unfold readCons
  extract_lets e a'
  by_cases hlost : (s.rx slot).consLost = true
  · have hok : ok = false := by simp [ok, hlost]
    rw [if_pos hlost, hok, rx_countBind, rx_updRx]
    exact ⟨rfl, rfl⟩
  · rw [if_neg hlost]
    rw [Bool.not_eq_true] at hlost
    by_cases hbad : (accessStatus s (LEnt.SEAT.get e) false a' 4 ≠ St.ok || uncorrAt s (keyOf s a') 4) = true
    · have hok : ok = false := by
        have hbad' : (accessStatus s (rSeat s slot) false a 4 ≠ St.ok || uncorrAt s (keyOf s a) 4) = true := hbad
        simp only [ok, hlost]
        simp only [Bool.or_eq_true, decide_eq_true_eq] at hbad'
        rcases hbad' with hbad' | hbad' <;> simp [hbad']
      rw [if_pos hbad, hok, State.rx, (state_noteWindow_only ..).same .reqx (by decide), (state_countBind_only ..).same .reqx (by decide),
        (noteBad_only ..).same .reqx (by decide)]
      exact ⟨hlost, rfl⟩
    · have hok : ok = true := by
        have hbad' : ¬(accessStatus s (rSeat s slot) false a 4 ≠ St.ok || uncorrAt s (keyOf s a) 4) = true := hbad
        simp only [Bool.or_eq_true, decide_eq_true_eq, not_or, not_not, Bool.not_eq_true] at hbad'
        simp [ok, hlost, hbad'.1, hbad'.2]
      rw [if_neg hbad, hok, rx_ringCheck, rx_updRx]
      exact ⟨hlost, rfl⟩

/-- What a poll does once CONS has been read. -/
def consRead (s : State) (slot : Nat) : State :=
  if (s.rx slot).endWait.isSome then
    if ((ringEnd (s.updRx slot (fun x => { x with ringUndo := [] })) slot).rx slot).prod = (s.rx slot).prod then
      ringEnd (s.updRx slot (fun x => { x with ringUndo := [] })) slot
    else ringRaise (ringEnd (s.updRx slot (fun x => { x with ringUndo := [] })) slot) slot
  else closeIdle s (rBind s slot)

theorem consPoll_runs {P : State → Prop} (hrun : running .banker s = true)
    (hlive : rActive s slot = true ∨ rState s slot = RS.ending) (hP : P (consRead (readCons s slot) slot)) : Runs (.consPoll slot) s P := by
  have hrow : exec (.consPoll slot) s = execConsPoll slot s := rfl
  refine runs_of_when (hrow.trans (by rw [execConsPoll])) hrun ?_ hP
  rcases hlive with h | h
  · rw [h]; rfl
  · rw [h, Bool.or_eq_true]; exact .inr rfl

theorem consRead_writes {w : BitVec 128} (hwait : (s.rx slot).endWait = some w) (hroom : ringRoom s slot ≠ 0) :
    ((consRead s slot).rx slot).endWait = none ∧ ((consRead s slot).rx slot).prod = (s.rx slot).prod + 1 := by
  have hrx := rx_updRx s slot (fun x => { x with ringUndo := [] })
  have hroom' : ringRoom (s.updRx slot (fun x => { x with ringUndo := [] })) slot ≠ 0 := by
    rw [ringRoom, ringUsed, hrx]
    exact hroom
  have hends := ringEnd_writes ((congrArg ReqX.endWait hrx).trans hwait) hroom'
  rw [hrx] at hends
  unfold consRead
  rw [if_pos (by rw [hwait]; rfl)]
  split
  · exact hends
  · rw [State.rx, (ringRaise_only ..).same .reqx (by decide)]
    exact hends

theorem consRead_busy (hwait : (s.rx slot).endWait = none) (hphase : bPhase (s.bind (rBind s slot)) ≠ 0) : consRead s slot = s := by
  have hidle : (composes s (rBind s slot) && bPhase (s.bind (rBind s slot)) == 0) = false := by simp [hphase]
  rw [consRead, hwait, if_neg (by simp), closeIdle]
  simp [hidle]

/-! ## REQUEST_DONE (R279) -/

theorem requestDone_runs {P : State → Prop} (hrun : running .banker s = true) (hdone : requestDone s slot = true)
    (hP : P (s.updReq slot [(LEnt.STATE, RS.done)])) : Runs (.requestDone slot) s P := by
  have hrow : exec (.requestDone slot) s = execRequestDone slot s := rfl
  exact runs_of_when (hrow.trans (by rw [execRequestDone])) hrun hdone hP

end Sys2Proof.Ends
end

section
/-! Late fetches, and fetches and copies that are given up (R255 to R257). -/

namespace Sys2Proof.Ends

open Sys2Proof Sys2Proof.Machine Sys2Proof.Laws Sys2Proof.Lasting Sys2Proof.Pins
open Sys2Proof.Places (ox_updOx)
open Sys2Proof.Phases (bind_updBind)

variable {s t u : State} {slot k b n status : Nat}

/-! ## FETCH_LATE (R255) -/

theorem fetchLate_runs {tier fcs late : Nat} (hrun : running .banker s = true) (hholder : s.slot.holder = some b)
    (hlate : lateTier s = some (tier, late)) : Runs (.fetchLate b tier fcs) s (fun t =>
      Tab.get (t.bind b).ctr 0#64 (BC.stallT1 + tier - 1) = Tab.get (s.bind b).ctr 0#64 (BC.stallT1 + tier - 1) +
        BitVec.ofNat 64 (min fcs ((now s - max (s.bind b).stallTo late) * 27 / 20)) ∧
      (t.bind b).stallTo = now s ∧ OnlyChanges [.binds] s t) := by
  have hrow : exec (.fetchLate b tier fcs) s = execFetchLate b tier fcs s := rfl
  refine runs_of_when (hrow.trans (by rw [execFetchLate])) hrun ?_ ?_
  · rw [hholder, hlate]
    simp
  · rw [hlate]
    dsimp only
    refine ⟨?_, ?_, only_step (state_updBind_only ..) (by decide) (state_countBind_only ..)⟩
    · rw [bind_updBind, State.countBind, bind_updBind]
      exact get_set_self ..
    · rw [bind_updBind]

/-! ## Requests of the fabric that are given up (R256) -/

/-- A request is no longer outstanding. -/
def requestOver (s : State) (r : FabReq) (status : Nat) : State :=
  { s with fab := { s.fab with outstanding := s.fab.outstanding.erase r,
                               fences := s.fab.fences.map (fun f => if f.unit = r.unit && f.status == St.ok then { f with status := status } else f),
                               coll := noteColl s.fab.coll r status } }

theorem requestOver_only (s : State) (r : FabReq) (status : Nat) : OnlyChanges [.fab] s (requestOver s r status) := by
  refine ⟨fun p hp => ?_, id⟩
  cases p <;> first | exact absurd (by decide) hp | rfl

theorem completeReq_failed {r : FabReq} {j : Job} (hj : r.serves = some j) (hst : status ≠ St.ok) : completeReq s r status [] =
    settleFences ((jobFail (requestOver s r status) j status).emit (.done r.unit r.seq status [])) := by
  rw [completeReq, requestOver, hj]
  dsimp only
  rw [if_neg hst]

/-- What is left of a request once its job has failed. -/
theorem completeReq_after {r : FabReq} {j : Job} (hj : r.serves = some j) (hst : status ≠ St.ok) :
    OnlyChanges [.fab, .out] (jobFail (requestOver s r status) j status) (completeReq s r status []) := by
  rw [completeReq_failed hj hst]
  exact only_step (settleFences_only _) (by decide) (only_step (state_emit_only ..) (by decide) (only_refl _ _))

theorem some_of_any {α : Type} {o : Option α} {p : α → Bool} (h : o.any p = true) : ∃ a, o = some a ∧ p a = true := by
  cases o with
  | none => exact absurd h Bool.false_ne_true
  | some a => exact ⟨a, rfl, h⟩

/-- A property of the state that every job's failure keeps holds once they are given up. -/
theorem giveUpJobs_keeps {R : State → Prop} {p : Job → Bool} (h0 : R s)
    (h : ∀ y r j, R y → r.serves = some j → p j = true → R (completeReq y r status [])) : R (giveUpJobs s p status) := by
  have hfold : ∀ (l : List FabReq), (∀ r ∈ l, r.serves.any p = true) → ∀ y, R y →
      R (l.foldl (fun s r => completeReq s r status []) y) := by
    intro l
    induction l with
    | nil => exact fun _ _ hy => hy
    | cons r l ih =>
      intro hl y hy
      obtain ⟨j, hj, hp⟩ := some_of_any (hl r List.mem_cons_self)
      exact ih (fun r hr => hl r (List.mem_cons_of_mem _ hr)) _ (h y r j hy hj hp)
  refine hfold _ (fun r hr => ?_) s h0
  have hkeep := (List.mem_filter.mp hr).2
  rw [Bool.and_eq_true] at hkeep
  exact hkeep.1

theorem giveUpRequests_lasts (s : State) (p : FabReq → Bool) (status : Nat) : Lasts s (giveUpRequests s p status) :=
  lasts_foldl (lasts_refl s) fun _ _ hy => lasts_step (completeReq_lasts ..) hy

theorem giveUpRequests_asked (s : State) (p : FabReq → Bool) (status : Nat) : Asked s (giveUpRequests s p status) :=
  asked_foldl (asked_refl s) fun _ _ hy => asked_step (completeReq_asked ..) hy

theorem inFlight_of_lasts (h : Lasts s t) (b : Nat) : inFlight t b = inFlight s b := by
  rw [inFlight, h.faulted, h.phase, inFlight]

/-! ## A fetch of one request, of a weight tile, of a split reduction's partial -/

/-- An entry of a slot that has failed with DETAIL 2. -/
def failEntry (slot : Nat) (e : TEnt) : TEnt := if entSlot e == slot then e.fail 2 else e

theorem fail_len (e : TEnt) (d : Nat) : (e.fail d).len = e.len := by
  unfold TEnt.fail
  split <;> rfl

theorem failEntry_slot (slot : Nat) (e : TEnt) : entSlot (failEntry slot e) = entSlot e := by
  unfold failEntry
  split
  · rw [entSlot, fail_len, entSlot]
  · rfl

theorem failEntry_again (slot : Nat) (e : TEnt) : failEntry slot (failEntry slot e) = failEntry slot e := by
  by_cases h : (entSlot e == slot) = true
  · have hfail : failEntry slot e = e.fail 2 := if_pos h
    have hslot : (entSlot (e.fail 2) == slot) = true := by rwa [entSlot, fail_len]
    rw [hfail, failEntry, if_pos hslot]
    by_cases hfault : e.fault = 0
    · rw [TEnt.fail, if_neg (by rw [TEnt.fail, if_pos hfault]; exact (by decide : ¬(2 : Nat) = 0))]
    · rw [TEnt.fail, if_neg (by rwa [TEnt.fail, if_neg hfault])]
  · have hsame : failEntry slot e = e := if_neg h
    rw [hsame, hsame]

/-- A binding's TIER_FAULT count with the one that a request's first failure will still add. -/
def tierDue (s : State) (b slot : Nat) : W64 := Tab.get (s.bind b).ctr 0#64 BC.tierFault + (if (s.rx slot).tierHit then 0 else 1)

/-- The entry of a slot is failing, and counts at most once. -/
structure Failing (b slot : Nat) (s t : State) : Prop where
  only : OnlyChanges [.binds, .reqx, .fab, .out] s t
  turn : (t.bind b).turn.map (failEntry slot) = (s.bind b).turn.map (failEntry slot)
  due : tierDue t b slot = tierDue s b slot

theorem failing_refl (b slot : Nat) (s : State) : Failing b slot s s := ⟨only_refl _ s, rfl, rfl⟩

theorem failing_of_only {l : List Part} (h : Failing b slot s t) (honly : OnlyChanges l t u) (hl : l ⊆ [.fab, .out]) : Failing b slot s u := by
  have hsub : l.all [Part.binds, .reqx, .fab, .out].contains = true := by
    rw [List.all_eq_true]
    intro p hp
    rcases List.mem_cons.mp (hl hp) with rfl | hp
    · decide
    · rw [List.mem_singleton.mp hp]
      decide
  have hnot : ∀ p, p ∉ [Part.fab, .out] → p ∉ l := fun p hp hin => hp (hl hin)
  have hbinds : u.binds = t.binds := honly.same .binds (hnot _ (by decide))
  have hreqx : u.reqx = t.reqx := honly.same .reqx (hnot _ (by decide))
  have hbind : u.bind b = t.bind b := by rw [State.bind, hbinds, State.bind]
  refine ⟨only_step honly hsub h.only, by rw [hbind, h.turn], ?_⟩
  rw [tierDue, hbind, State.rx, hreqx]
  exact h.due

theorem failing_failSlot (h : Failing b slot s t) : Failing b slot s (failSlot t b slot 2) := by
  refine ⟨only_step (state_updBind_only ..) (by decide) h.only, ?_, ?_⟩
  · rw [failSlot, bind_updBind]
    dsimp only
    rw [← h.turn, List.map_map]
    exact List.map_congr_left fun e _ => failEntry_again slot e
  · rw [tierDue, failSlot, bind_updBind]
    exact h.due

theorem countTier_due (s : State) (b slot : Nat) : Tab.get ((countTier s b slot).bind b).ctr 0#64 BC.tierFault = tierDue s b slot ∧
    ((countTier s b slot).rx slot).tierHit = true ∧ ((countTier s b slot).bind b).turn = (s.bind b).turn := by
  unfold countTier tierDue
  split
  next hhit => exact ⟨(BitVec.add_zero _).symm, hhit, rfl⟩
  next hhit =>
    rw [State.countBind, bind_updBind]
    refine ⟨get_set_self .., ?_, rfl⟩
    show ((s.updRx slot (fun x => { x with tierHit := true })).rx slot).tierHit = true
    rw [rx_updRx]

theorem failing_countTier (h : Failing b slot s t) : Failing b slot s (countTier t b slot) := by
  obtain ⟨hctr, hhit, hturn⟩ := countTier_due t b slot
  refine ⟨only_step (countTier_only ..) (by decide) h.only, by rw [hturn, h.turn], ?_⟩
  rw [tierDue, hctr, hhit, if_pos rfl, ← h.due]
  exact BitVec.add_zero _

/-- The dispatch packets of the slot's entry that are given up fail that entry alone. -/
theorem failServed_failing {en : Nat} (hst : givenUp status = true) (hslot : ((s.bind b).turn[en]?).any (fun e => entSlot e == slot) = true)
    (h : Failing b slot s t) : Failing b slot s (failServed t b en status) := by
  unfold failServed
  split
  · exact h
  next e he =>
    have hent : entSlot e = slot := by
      have hmap := congrArg (fun l => l[en]?) h.turn
      obtain ⟨e', he', hent⟩ := some_of_any hslot
      simp only [List.getElem?_map, he, he', Option.map_some, Option.some.injEq] at hmap
      rw [← failEntry_slot slot e, hmap, failEntry_slot]
      exact beq_iff_eq.mp hent
    split
    · exact h
    · have hdetail : servedDetail status = 2 := if_pos hst
      simp only [hdetail, hent, if_true]
      exact failing_countTier (failing_failSlot h)

theorem servesSlot_of {j : Job} (h : servesSlot s b slot j = true) :
    ∃ en, j = .entry b en ∧ ((s.bind b).turn[en]?).any (fun e => entSlot e == slot) = true := by
  cases j with
  | entry k en =>
    have hkeep : (k == b && ((s.bind b).turn[en]?).any (fun e => entSlot e == slot)) = true := h
    rw [Bool.and_eq_true, beq_iff_eq] at hkeep
    exact ⟨en, by rw [hkeep.1], hkeep.2⟩
  | _ => exact absurd h Bool.false_ne_true

theorem giveUpJobs_failing (hst : givenUp status = true) (hne : status ≠ St.ok) : Failing b slot s (giveUpJobs s (servesSlot s b slot) status) := by
  refine giveUpJobs_keeps (failing_refl b slot s) fun y r j hy hj hp => ?_
  obtain ⟨en, rfl, hslot⟩ := servesSlot_of hp
  have hover := failing_of_only hy (requestOver_only y r status) (by decide)
  exact failing_of_only (failServed_failing hst hslot hover) (completeReq_after hj hne) (fun _ => id)

theorem oneRequest_given (hst : givenUp status = true) (hne : status ≠ St.ok) :
    let t := countTier (failSlot (giveUpJobs s (servesSlot s b slot) status) b slot 2) b slot
    (t.bind b).turn = (s.bind b).turn.map (failEntry slot) ∧ Tab.get (t.bind b).ctr 0#64 BC.tierFault = tierDue s b slot ∧
      OnlyChanges [.binds, .reqx, .fab, .out] s t := by
  have hfail := giveUpJobs_failing (b := b) (slot := slot) (s := s) hst hne
  have hslot := failing_failSlot hfail
  obtain ⟨hctr, -, hturn⟩ := countTier_due (failSlot (giveUpJobs s (servesSlot s b slot) status) b slot 2) b slot
  refine ⟨?_, hctr.trans hslot.due, (failing_countTier hslot).only⟩
  rw [hturn, failSlot, bind_updBind]
  exact hfail.turn

theorem weightTile_given (h : inFlight s b = true) (p : FabReq → Bool) :
    bFaulted ((abandonTurn (giveUpRequests s p status) b).bind b) = true ∧ bPhase ((abandonTurn (giveUpRequests s p status) b).bind b) = 6 :=
  (abandonTurn_block ((inFlight_of_lasts (giveUpRequests_lasts ..) b).trans h)).symm

theorem splitGiveUp_ends {c : Nat} (hb : layerHolder s = some b) :
    ((splitGiveUp s c).core c).split = none ∧ bFaulted ((splitGiveUp s c).bind b) = true := by
  rw [splitGiveUp, hb]
  have hflight : inFlight ((s.countCore c 0x040 1).updCore c (fun x => { x with split := none })) b = true :=
    (Sys2Proof.Phases.inFlight_of_binds (t := (s.countCore c 0x040 1).updCore c (fun x => { x with split := none })) (s := s) rfl b).trans
      (inFlight_of_layerHolder hb)
  refine ⟨?_, (abandonTurn_block hflight).2⟩
  obtain ⟨l, hlasts⟩ := abandonTurn_lasts hflight
  rw [hlasts.core_split]
  show (((s.countCore c 0x040 1).updCore c (fun x => { x with split := none })).core c).split = none
  rw [State.updCore, setCore_core]

/-! ## Copies of a PLACE operation, of a park and of a return -/

/-- Does a job copy a tile of an object? -/
def copiesOf (n : Nat) (j : Job) : Bool :=
  match j with
  | .tile m _ => m == n
  | _ => false

/-- An operation has failed with E_TIMEOUT at most. -/
structure TimedOut (n : Nat) (s t : State) : Prop where
  only : OnlyChanges [.objx, .fab, .out] s t
  failed : (t.ox n).failed = 0 ∨ (t.ox n).failed = St.timeout

theorem failTile_timeout (h : (s.ox n).failed = 0 ∨ (s.ox n).failed = St.timeout) (hst : tileFailure status = St.timeout) :
    ((failTile s n status).ox n).failed = St.timeout := by
  rw [failTile, ox_updOx, hst]
  rcases h with h | h <;> · rw [h]; rfl

theorem giveUpJobs_timedOut (h : (s.ox n).failed = 0) (hst : tileFailure status = St.timeout) (hne : status ≠ St.ok) :
    TimedOut n s (giveUpJobs s (copiesOf n) status) := by
  refine giveUpJobs_keeps ⟨only_refl _ s, .inl h⟩ fun y r j hy hj hp => ?_
  cases j with
  | tile m i =>
    rw [beq_iff_eq.mp hp] at hj
    have hover : ((requestOver y r status).ox n).failed = 0 ∨ ((requestOver y r status).ox n).failed = St.timeout := hy.failed
    have hjob : OnlyChanges [.objx] (requestOver y r status) (jobFail (requestOver y r status) (.tile n i) status) := by
      rw [jobFail, failTile]
      exact state_updOx_only ..
    refine ⟨only_step (completeReq_after hj hne) (by decide) (only_step hjob (by decide)
      (only_step (requestOver_only ..) (by decide) hy.only)), .inr ?_⟩
    rw [State.ox, (completeReq_after hj hne).same .objx (by decide)]
    exact failTile_timeout hover hst
  | _ => exact absurd hp Bool.false_ne_true

theorem placeCopy_given (h : (s.ox n).failed = 0) (hst : tileFailure status = St.timeout) (hne : status ≠ St.ok) :
    let t := failTile (giveUpJobs s (copiesOf n) status) n St.timeout
    (t.ox n).failed = St.timeout ∧ (t.ox n).todo = [] ∧ OnlyChanges [.objx, .fab, .out] s t := by
  have hout := giveUpJobs_timedOut h hst hne
  refine ⟨failTile_timeout hout.failed rfl, ?_, only_step (state_updOx_only ..) (by decide) hout.only⟩
  rw [failTile, ox_updOx]

theorem faultReq_idle {detail : Nat} (hactive : rActive s slot = true) (hidle : inFlight s (rBind s slot) = false) :
    faultReq s slot detail = endNow s slot 4 detail := by
  rw [faultReq, if_neg (by simp [hactive]), if_neg (by simp [hidle])]

theorem tierFault_ends {detail : Nat} (hactive : rActive s slot = true) (hidle : inFlight s (rBind s slot) = false) (hlt : detail < 8) :
    EndedAs (tierFault s slot detail) slot 4 detail := by
  have hreqs := (countTier_asked s (rBind s slot) slot).reqs
  have hidle' : inFlight (countTier s (rBind s slot) slot) (rBind (countTier s (rBind s slot) slot) slot) = false := by
    rw [inFlight_of_lasts (countTier_lasts ..), rBind, State.req, hreqs]
    exact hidle
  have hactive' : rActive (countTier s (rBind s slot) slot) slot = true := by rw [rActive_of_reqs hreqs, hactive]
  rw [tierFault, if_pos hactive]
  generalize countTier s (rBind s slot) slot = u at hactive' hidle'
  rw [faultReq_idle hactive' hidle']
  exact endNow_ends u slot (by decide) hlt

/-- A request whose run's copy is given up ends with FAULT. -/
theorem runCopy_given (hactive : rActive s slot = true) (hidle : inFlight s (rBind s slot) = false) (p : Job → Bool) :
    EndedAs (tierFault (giveUpJobs s p status) slot 5) slot 4 5 := by
  have hreqs : (giveUpJobs s p status).reqs = s.reqs := (giveUpRequests_asked ..).reqs
  refine tierFault_ends (by rw [rActive_of_reqs hreqs, hactive]) ?_ (by decide)
  have hlasts : Lasts s (giveUpJobs s p status) := giveUpRequests_lasts ..
  rw [inFlight_of_lasts hlasts, rBind, State.req, hreqs]
  exact hidle

end Sys2Proof.Ends
end

section
/-! Timers and the ends of copies take effect (R237 to R243, R255 to R257, R268, R276, R279, R284). -/

namespace Sys2Proof.Ends

open Sys2Proof Sys2Proof.Machine Sys2Proof.Laws Sys2Proof.Lasting Sys2Proof.Pins Sys2Proof.Places Sys2Proof.Movers
open Sys2Proof.Fabric (get_setAll_of_mem)

variable {s t u : State} {slot k b n i st : Nat}

/-! ## Ends of PLACE passes -/

/-- The bytes of a tile stand at its place, and no others have changed. -/
def TileCopied (s t : State) (src dst : Nat) : Prop :=
  readBytes t dst 16384 = readBytes s src 16384 ∧ ∀ k, k < dst ∨ dst + 16384 ≤ k → memByte t k = memByte s k

/-- The tile is copied where its bytes are near and nothing defers them. -/
def TileArrives (s t : State) (n i : Nat) : Prop :=
  MemOk s → farAddr s ((opEnds s n).1 + i * 16384) = false → farAddr s ((opEnds s n).2.1 + i * 16384) = false →
    noDefer s (tileSrc s n i) 16384 = true → noDefer s (tileDst s n i) 16384 = true → holderOf s (tileDst s n i) 16384 = none →
    TileCopied s t (tileSrc s n i) (tileDst s n i)

/-- A last tile arrives whatever its operation then does with memory as it is. -/
theorem copyRest_arrives (h : LastTile s n i) (hst : issueStatus s n i = St.ok) {f : State → State}
    (hf : ∀ y, (y.ox n).waiting = [] → (f y).mem = y.mem) : TileArrives s (f (copyRest s n)) n i := by
  intro hmem hsrc hdst hsrcFree hdstFree hholder
  obtain ⟨hcopied, hwait⟩ := copyRest_copied h hst hmem ⟨hsrc, hdst, hsrcFree, hdstFree, hholder⟩
  have hsame := hf _ hwait
  refine ⟨?_, fun k hk => ?_⟩
  · rw [Sys2Proof.Fabric.readBytes_of_mem hsame]
    exact hcopied.1
  · rw [Sys2Proof.Fabric.memByte_of_mem hsame]
    exact hcopied.2 k hk

theorem movePass_copies (hrun : running .banker s = true) (hmoving : moving s n = true) (h : LastTile s n i) (hst : issueStatus s n i = St.ok) :
    Runs (.movePassEnd n) s (fun t => TileArrives s t n i) := by
  refine movePassEnd_runs hrun hmoving ?_
  rw [movePassEnd_eq]
  exact copyRest_arrives (f := fun y => passOver y n) h hst fun y hy => passOver_mem hy

theorem movePass_fails (hrun : running .banker s = true) (hmoving : moving s n = true) (h : LastTile s n i) (hst : issueStatus s n i ≠ St.ok) :
    Runs (.movePassEnd n) s (fun t => Fails s t n (tileFailure (issueStatus s n i))) := by
  refine movePassEnd_runs hrun hmoving ?_
  have hlt : issueStatus s n i < 2 ^ 16 := tileStatus_lt _ _ _ _
  have hrefused := copyRest_refused (st := issueStatus s n i) h (Eq.refl _) hst
  rw [movePassEnd_eq]
  exact passOver_refused (s := s) (u := copyRest s n) (st := issueStatus s n i) hrefused h.still hst hlt

theorem place_copies (hrun : running .banker s = true) (hplacing : placing s n = true) (h : LastTile s n i) (hst : issueStatus s n i = St.ok) :
    Runs (.placeOperationEnd n) s (fun t => TileArrives s t n i) := by
  refine placeEnd_runs hrun hplacing ?_
  rw [placeEnd_eq]
  exact copyRest_arrives (f := fun y => placeOver y n) h hst fun y hy => placeOver_mem hy

theorem place_fails (hrun : running .banker s = true) (hplacing : placing s n = true) (h : LastTile s n i) (hst : issueStatus s n i ≠ St.ok) :
    Runs (.placeOperationEnd n) s (fun t => Fails s t n (tileFailure (issueStatus s n i))) := by
  refine placeEnd_runs hrun hplacing ?_
  have hlt : issueStatus s n i < 2 ^ 16 := tileStatus_lt _ _ _ _
  have hrefused := copyRest_refused (st := issueStatus s n i) h (Eq.refl _) hst
  rw [placeEnd_eq]
  exact placeOver_refused (s := s) (u := copyRest s n) (st := issueStatus s n i) hrefused h.still hst hlt

theorem place_ends (hrun : running .banker s = true) (hplacing : placing s n = true) (h : CopiesOver s n) :
    Runs (.placeOperationEnd n) s (fun t => LObj.STATE.get (t.obj n) = 1 ∧ (t.ox n).op = 0 ∧
      LObj.WORK.get (t.obj n) = if LObj.STATE.get (s.obj n) = 4 then LObj.BACK.get (s.obj n) else LObj.WORK.get (s.obj n)) := by
  refine placeEnd_runs hrun hplacing ?_
  rw [placeEnd_eq, copyRest_of_none h.todo]
  exact placeOver_of_over h

/-- A pass whose tiles are all copied does what `passOver_of_over` says. -/
theorem movePass_runs {P : State → Prop} (hrun : running .banker s = true) (hmoving : moving s n = true) (h : CopiesOver s n)
    (hP : P (passOver s n)) : Runs (.movePassEnd n) s P := by
  refine movePassEnd_runs hrun hmoving ?_
  rw [movePassEnd_eq, copyRest_of_none h.todo]
  exact hP

theorem weightMove_waits (h : CopiesOver s n) (hkind : LObj.KIND.get (s.obj n) = 1) (huse : inUse s n = true)
    (hflight : inFlight s (useBind s n) = true) : ((passOver s n).ox n).switchWait = true ∧ (passOver s n).objs = s.objs := by
  rw [passOver_of_over h, hkind, huse, hflight, if_pos (by decide), if_pos rfl]
  refine ⟨?_, rfl⟩
  rw [ox_updOx]

theorem weightMove_switches (h : CopiesOver s n) (hkind : LObj.KIND.get (s.obj n) = 1) (huse : inUse s n = true)
    (hflight : inFlight s (useBind s n) = false) : LObj.STATE.get ((passOver s n).obj n) = 1 ∧
      LObj.WORK.get ((passOver s n).obj n) = (s.ox n).target % 2 ^ 64 ∧
      (LObj.BTIER.get (s.obj n) = 0 ∨ LObj.BACK.get (s.obj n) ≠ LObj.WORK.get (s.obj n) →
        ((passOver s n).ox n).oldRanges = (s.ox n).oldRanges ++ [(LObj.WORK.get (s.obj n), LObj.TILES.get (s.obj n))]) := by
  rw [passOver_of_over h, hkind, huse, hflight, if_pos (by decide), if_neg (by decide)]
  exact ⟨moveSwitch_state .., moveSwitch_work .., moveSwitch_keeps⟩

theorem otherMove_eq (h : CopiesOver s n) (hother : ¬(LObj.KIND.get (s.obj n) = 1 ∧ inUse s n = true)) : passOver s n =
    if (s.ox n).marks.isEmpty || (s.ox n).pass ≥ 5 then moveSwitch s n false
    else s.updOx n (fun y => { y with pass := (s.ox n).pass + 1, marks := [], todo := (s.ox n).marks.map (fun t => (t, 1)) }) := by
  rw [passOver_of_over h, if_neg (by simpa using hother)]

theorem otherMove_switches (h : CopiesOver s n) (hother : ¬(LObj.KIND.get (s.obj n) = 1 ∧ inUse s n = true))
    (hlast : (s.ox n).marks = [] ∨ 5 ≤ (s.ox n).pass) : LObj.STATE.get ((passOver s n).obj n) = 1 ∧
      LObj.WORK.get ((passOver s n).obj n) = (s.ox n).target % 2 ^ 64 ∧ ((passOver s n).ox n).op = 0 := by
  have hswitch : ((s.ox n).marks.isEmpty || decide ((s.ox n).pass ≥ 5)) = true := by
    rcases hlast with hnone | hpass
    · rw [hnone]
      rfl
    · rw [decide_eq_true hpass, Bool.or_true]
  rw [otherMove_eq h hother, if_pos hswitch]
  refine ⟨moveSwitch_state .., moveSwitch_work .., ?_⟩
  rw [moveSwitch_eq, endOp_op]

theorem otherMove_repeats (h : CopiesOver s n) (hother : ¬(LObj.KIND.get (s.obj n) = 1 ∧ inUse s n = true))
    (hmarks : (s.ox n).marks ≠ []) (hpass : (s.ox n).pass < 5) : ((passOver s n).ox n).pass = (s.ox n).pass + 1 ∧
      ((passOver s n).ox n).todo = (s.ox n).marks.map (fun k => (k, 1)) ∧ ((passOver s n).ox n).marks = [] ∧ (passOver s n).objs = s.objs := by
  have hmore : ((s.ox n).marks.isEmpty || decide ((s.ox n).pass ≥ 5)) = false := by
    rw [Bool.or_eq_false_iff, decide_eq_false_iff_not, List.isEmpty_eq_false_iff]
    exact ⟨hmarks, by omega⟩
  rw [otherMove_eq h hother, hmore, if_neg Bool.false_ne_true, ox_updOx]
  exact ⟨rfl, rfl, rfl, rfl⟩

/-! ## FETCH_TIMEOUT -/

/-- A status with which R256 gives a fetch up. -/
def Given (st : Nat) : Prop := st = St.timeout ∨ st = St.noroute ∨ st = St.link

theorem fetchTimeout_runs {P : State → Prop} {what : Lost} (hrun : running .banker s = true) (hst : Given st)
    (hP : P (giveUp s what st)) : Runs (.fetchTimeout what st) s P := by
  have hrow : exec (.fetchTimeout what st) s = execFetchTimeout what st s := rfl
  refine runs_of_when (hrow.trans (by rw [execFetchTimeout])) hrun ?_ hP
  rcases hst with rfl | rfl | rfl <;> rfl

theorem given_ok (hst : Given st) : givenUp st = true ∧ st ≠ St.ok ∧ tileFailure st = St.timeout := by
  rcases hst with rfl | rfl | rfl <;> decide

theorem waitOver_of_past {due : Nat} (h : st ≠ St.timeout ∨ due ≤ now s) : waitOver s st due = true := by
  rw [waitOver]
  rcases h with h | h <;> simp [h]

theorem timeout_runCopy {r : RunCopy} (hrun : running .banker s = true) (hst : Given st) (hactive : rActive s slot = true)
    (hidle : inFlight s (rBind s slot) = false) (hdone : r.done = false) (hpast : st ≠ St.timeout ∨ r.due ≤ now s) :
    (r ∈ (s.rx slot).parks → Runs (.fetchTimeout (.parkCopy slot r.col) st) s (fun t => EndedAs t slot 4 5)) ∧
      (r ∈ (s.rx slot).returns → Runs (.fetchTimeout (.returnCopy slot r.col) st) s (fun t => EndedAs t slot 4 5)) := by
  have hopen : ∀ l : List RunCopy, r ∈ l → l.any (fun x => x.col == r.col && !x.done && waitOver s st x.due) = true := fun l hr =>
    List.any_eq_true.mpr ⟨r, hr, by simp [hdone, waitOver_of_past hpast]⟩
  refine ⟨fun hr => fetchTimeout_runs hrun hst ?_, fun hr => fetchTimeout_runs hrun hst ?_⟩
  · rw [giveUp, if_pos (hopen _ hr)]
    exact runCopy_given hactive hidle _
  · rw [giveUp, if_pos (hopen _ hr)]
    exact runCopy_given hactive hidle _

theorem timeout_weightTile (hrun : running .banker s = true) (hst : Given st) (hholder : s.slot.holder = some b) (hflight : inFlight s b = true)
    (hpast : st ≠ St.timeout ∨ (s.bind b).fetchDue ≤ now s) :
    Runs (.fetchTimeout (.weightTile b) st) s (fun t => bFaulted (t.bind b) = true ∧ bPhase (t.bind b) = 6) := by
  refine fetchTimeout_runs hrun hst ?_
  rw [giveUp, if_pos (by rw [hholder, waitOver_of_past hpast]; simp)]
  exact weightTile_given hflight _

theorem timeout_oneRequest (hrun : running .banker s = true) (hst : Given st) (hholder : s.slot.holder = some b)
    (hpast : st ≠ St.timeout ∨ (s.bind b).fetchDue ≤ now s) (hslot : (s.bind b).turn.any (fun e => entSlot e == slot) = true) :
    Runs (.fetchTimeout (.oneRequest b slot) st) s (fun t => (t.bind b).turn = (s.bind b).turn.map (failEntry slot) ∧
      Tab.get (t.bind b).ctr 0#64 BC.tierFault = tierDue s b slot ∧ OnlyChanges [.binds, .reqx, .fab, .out] s t) := by
  refine fetchTimeout_runs hrun hst ?_
  rw [giveUp, if_pos (by rw [hholder, hslot, waitOver_of_past hpast]; simp)]
  exact oneRequest_given (given_ok hst).1 (given_ok hst).2.1

theorem timeout_splitPartial {c : Nat} (hrun : running .banker s = true) (hst : Given st) (hsplit : (s.core c).split.isSome = true)
    (hne : st ≠ St.timeout) (hb : layerHolder s = some b) :
    Runs (.fetchTimeout (.splitPartial c) st) s (fun t => (t.core c).split = none ∧ bFaulted (t.bind b) = true) := by
  refine fetchTimeout_runs hrun hst ?_
  rw [giveUp, if_pos (by simp [hsplit, hne])]
  exact splitGiveUp_ends hb

theorem timeout_placeCopy (hrun : running .banker s = true) (hst : Given st) (htodo : (s.ox n).todo ≠ []) (hgood : (s.ox n).failed = 0)
    (hpast : st ≠ St.timeout ∨ (s.ox n).due ≤ now s) : Runs (.fetchTimeout (.placeCopy n) st) s (fun t =>
      (t.ox n).failed = St.timeout ∧ (t.ox n).todo = [] ∧ OnlyChanges [.objx, .fab, .out] s t) := by
  refine fetchTimeout_runs hrun hst ?_
  rw [giveUp, if_pos (by simp [htodo, hgood, waitOver_of_past hpast])]
  exact placeCopy_given hgood (given_ok hst).2.2 (given_ok hst).2.1

theorem timeout_promptRead (hrun : running .banker s = true) (hst : Given st) (hlive : rState s slot = RS.free ∨ rState s slot = RS.done) :
    Runs (.fetchTimeout (.promptRead slot) st) s (fun t => (t.rx slot).promptLost = st ∧ OnlyChanges [.reqx] s t) := by
  refine fetchTimeout_runs hrun hst ?_
  rw [giveUp, if_pos (by simpa using hlive)]
  exact ⟨by rw [rx_updRx], state_updRx_only ..⟩

theorem timeout_consRead (hrun : running .banker s = true) (hst : Given st) (hlive : rActive s slot = true ∨ rState s slot = RS.ending) :
    Runs (.fetchTimeout (.consRead slot) st) s (fun t => (t.rx slot).consLost = true ∧ OnlyChanges [.reqx] s t) := by
  refine fetchTimeout_runs hrun hst ?_
  rw [giveUp, if_pos (by simpa using hlive)]
  exact ⟨by rw [rx_updRx], state_updRx_only ..⟩

theorem timeout_blockRead {what : BlockRead} (hrun : running .banker s = true) (hst : Given st) (hactive : rActive s slot = true) :
    Runs (.fetchTimeout (.blockRead slot what) st) s (fun t => readLost t slot what = true ∧ OnlyChanges [.reqx] s t) := by
  refine fetchTimeout_runs hrun hst ?_
  rw [giveUp, if_pos hactive]
  refine ⟨?_, state_updRx_only ..⟩
  rw [readLost, rx_updRx]
  exact List.contains_iff_mem.mpr List.mem_cons_self

/-! ## Expiries and CONS polls -/

theorem dueDetail_of_late (h : LEnt.DEADLINE.get (s.req k) ≠ 0 ∧ LEnt.DEADLINE.get (s.req k) ≤ now s) : dueDetail s k = 2 := by
  rw [dueDetail, if_pos (by simpa using h)]

theorem dueDetail_of_due (h : (LEnt.DEADLINE.get (s.req k) ≠ 0 ∧ LEnt.DEADLINE.get (s.req k) ≤ now s) ∨
    (LEnt.T_EXPIRE.get (s.req k) ≠ 0 ∧ LEnt.T_EXPIRE.get (s.req k) ≤ now s)) : dueDetail s k ≠ 0 := by
  rcases h with h | h
  · rw [dueDetail_of_late h]
    decide
  · unfold dueDetail
    split
    · decide
    · rw [if_pos (by simpa using h)]
      decide

theorem consPoll_busy (hwait : (s.rx slot).endWait = none) (hphase : bPhase (s.bind (rBind s slot)) ≠ 0) :
    consRead (readCons s slot) slot = readCons s slot := by
  have hreqs : (readCons s slot).reqs = s.reqs := (readCons_only ..).same .reqs (by decide)
  refine consRead_busy ((congrArg ReqX.endWait (readCons_rx s slot)).trans hwait) ?_
  rw [rBind, State.req, hreqs, (readCons_lasts s slot).phase]
  exact hphase

theorem requestDone_state (s : State) (slot : Nat) : rState (s.updReq slot [(LEnt.STATE, RS.done)]) slot = RS.done := by
  rw [rState, req_updReq, get_setAll_of_mem (v := RS.done) _ (by simp) (by simp) (by decide)]
  decide

/-! ## The obligation -/

/-- Settles O48: each row's effect is that of its part of the banker's work. -/
theorem timersAndPassesTakeEffect : Obligations.TimersAndPassesTakeEffect := by
  unfold Obligations.TimersAndPassesTakeEffect
  intro s b slot n c tier fcs late i r hrun x from' to' idle last status copied fails
  have hlast : last → LastTile s n i := fun ⟨htodo, ⟨hgood, hstill⟩, hwait, hroom, hturn⟩ => ⟨htodo, hgood, hstill, hwait, hroom, hturn⟩
  refine ⟨fun hmoving => ⟨fun hl hst => movePass_copies hrun hmoving (hlast hl) hst,
      fun hl hst => movePass_fails hrun hmoving (hlast hl) hst, fun htodo hidle => ?passes⟩,
    fun hplacing => ⟨fun hl hst => place_copies hrun hplacing (hlast hl) hst,
      fun hl hst => place_fails hrun hplacing (hlast hl) hst, fun htodo hidle => place_ends hrun hplacing ⟨htodo, hidle.1, hidle.2⟩⟩,
    fun hholder hlate => fetchLate_runs hrun hholder hlate, ?timeouts, ?expiries, ?ends, ?polls, ?done⟩
  case passes =>
    have hover : CopiesOver s n := ⟨htodo, hidle.1, hidle.2⟩
    have hrow : ∀ {P : State → Prop}, P (passOver s n) → Runs (.movePassEnd n) s P := movePass_runs hrun hmoving hover
    exact ⟨fun hkind huse => ⟨fun hflight => hrow (weightMove_waits hover hkind huse hflight),
        fun hflight => hrow (weightMove_switches hover hkind huse hflight)⟩,
      fun hother => ⟨fun hfinal => hrow (otherMove_switches hover hother hfinal),
        fun hmarks hpass => hrow (otherMove_repeats hover hother hmarks hpass)⟩⟩
  case timeouts =>
    intro st hst past
    exact ⟨fun hholder hflight hpast => ⟨timeout_weightTile hrun hst hholder hflight hpast,
        fun hslot => timeout_oneRequest hrun hst hholder hpast hslot⟩,
      fun hsplit hne hb => timeout_splitPartial hrun hst hsplit hne hb,
      fun htodo hgood hpast => timeout_placeCopy hrun hst htodo hgood hpast,
      fun hactive hidle hdone hpast => timeout_runCopy hrun hst hactive hidle hdone hpast,
      fun hlive => timeout_promptRead hrun hst hlive, fun hlive => timeout_consRead hrun hst hlive,
      fun hactive what _ => timeout_blockRead hrun hst hactive⟩
  case expiries =>
    intro hloaded hflight
    refine expiryCheck_runs hrun hloaded hflight ?_
    intro k hactive hb hlate hdue
    obtain ⟨hstate, hend, hdetail⟩ := expiry_ends hactive hb (dueDetail_of_due hdue)
    exact ⟨hstate, hend, fun h => hdetail.trans (dueDetail_of_late h)⟩
  case ends =>
    intro hlive w hwait hroom
    have hkeep := readCons_rx s slot
    have hwait' : ((readCons s slot).rx slot).endWait = some w := (congrArg ReqX.endWait hkeep).trans hwait
    have hprod := congrArg ReqX.prod hkeep
    obtain ⟨hnone, hnext⟩ := consRead_writes hwait' hroom
    exact consPoll_runs hrun hlive ⟨hnone, hnext.trans (congrArg (· + 1) hprod)⟩
  case polls =>
    intro hactive hwait hphase a ok
    refine consPoll_runs hrun (.inl hactive) ?_
    rw [consPoll_busy hwait hphase]
    obtain ⟨hlost, hcons⟩ := readCons_cons s slot
    exact ⟨(readCons_only ..).same .reqs (by decide), (readCons_only ..).same .mem (by decide), hlost, hcons⟩
  case done =>
    exact fun hdone => requestDone_runs hrun hdone ⟨requestDone_state .., fun k hk => req_updReq_other _ _ hk, state_updReq_only ..⟩

end Sys2Proof.Ends
end

section
/-! What the copies of a run's tiles leave of the state, and the bytes that they bring (R251, R252, R258). -/

namespace Sys2Proof.Parks

open Sys2Proof Sys2Proof.Machine Sys2Proof.Laws Sys2Proof.Stores Sys2Proof.Movers
open Sys2Proof.Lanes (KeepsIngots keepsIngots_of_only keepsIngots_refl)
open Sys2Proof.Serving (slotView)
open Sys2Proof.Vector (placeOf_of_fab ownedArea_of_same)
open Sys2Proof.Places (accessStatus_of_same farAddr_of_fab moveTile_of_near moverStatus_of_tileStatus)
open Sys2Proof.Fabric (memByte_of_mem readBytes_of_mem)

variable {s t u : State} {slot col : Nat}

/-! ## What copies of tiles leave -/

/-- What moves of tiles within this device leave of all that a further move is admitted by. -/
structure Brought (s t : State) : Prop where
  only : OnlyChanges [.mem, .wordErr, .dirty, .bank, .reqx, .objx, .ingots, .hm] s t
  view : KeepsIngots slotView s t
  holds : HoldsNoMore s t
  slots : t.bank.riserSlots = s.bank.riserSlots
  errs : ∀ x ∈ t.wordErr, x ∈ s.wordErr

theorem brought_refl (s : State) : Brought s s := ⟨only_refl _ s, keepsIngots_refl s, holdsNoMore_refl s, rfl, fun _ => id⟩

theorem Brought.trans (h : Brought s t) (h' : Brought t u) : Brought s u :=
  ⟨only_step h'.only rfl h.only, h.view.trans h'.view, h.holds.trans h'.holds, h'.slots.trans h.slots, fun x hx => h.errs x (h'.errs x hx)⟩

theorem brought_updRx (s : State) (slot : Nat) (f : ReqX → ReqX) : Brought s (s.updRx slot f) := by
  have honly := state_updRx_only s slot f
  exact ⟨only_step honly (by decide) (only_refl _ s), keepsIngots_of_only honly (by decide), holdsNoMore_of_only honly (by decide), rfl,
    fun _ => id⟩

theorem brought_of_presented (h : Presented s t) (hslots : t.bank.riserSlots = s.bank.riserSlots) (herrs : ∀ x ∈ t.wordErr, x ∈ s.wordErr) :
    Brought s t :=
  ⟨only_step h.only (by decide) (only_refl _ s), h.view, holdsNoMore_of_only h.only (by decide), hslots, herrs⟩

theorem errs_foldl {α : Type} {f : State → α → State} (h : ∀ s a, ∀ x ∈ (f s a).wordErr, x ∈ s.wordErr) (l : List α) :
    ∀ s : State, ∀ x ∈ (l.foldl f s).wordErr, x ∈ s.wordErr := by
  induction l with
  | nil => exact fun _ _ => id
  | cons a l ih => exact fun s x hx => h s a x (ih (f s a) x hx)

theorem noteCorr_errs (s : State) (k n : Nat) (pip : Bool) : ∀ x ∈ (noteCorr s k n pip).wordErr, x ∈ s.wordErr := by
  have hcount : (countCorr s k n pip).wordErr = s.wordErr := (countCorr_only ..).same .wordErr (by decide)
  rw [← hcount]
  refine errs_foldl (fun s w x hx => ?_) _ _
  split at hx
  · exact hx
  · exact hx
  · exact List.mem_of_mem_filter hx

theorem brought_noteCorr (s : State) (k n : Nat) (pip : Bool) : Brought s (noteCorr s k n pip) :=
  brought_of_presented (noteCorr_presented ..) (Walks.seeing_noteCorr s k n pip).slots (noteCorr_errs s k n pip)

theorem copyMem_errs {src dst n : Nat} (hfree : holderOf s dst n = none) : ∀ x ∈ (copyMem s src dst n).wordErr, x ∈ s.wordErr := by
  intro x hx
  rw [copyMem, hfree] at hx
  dsimp only at hx
  rw [(markMoves_only ..).same .wordErr (by decide)] at hx
  exact List.mem_of_mem_filter hx

/-- A mover's copy that nothing defers or holds. -/
theorem brought_moverCopy (who : Nat × Nat) {src dst n : Nat} (hst : moverStatus s src dst n = St.ok) (hsrc : noDefer s src n = true)
    (hdst : noDefer s dst n = true) (hfree : holderOf s dst n = none) : Brought s (moverCopy s who src dst n) := by
  have hpush := (pushGrants_presented s who src n false).trans (pushGrants_presented _ who dst n true)
  have hsame : OnlyChanges [.ingots, .hm] s (pushGrants (pushGrants s who src n false) who dst n true) :=
    only_step (pushGrants_only ..) (by decide) (pushGrants_only ..)
  rw [moverCopy, if_neg (by simp [hst])]
  extract_lets u
  have hu : Presented s u := hpush
  have hbank : u.bank = s.bank := hsame.same .bank (by decide)
  have herrs : u.wordErr = s.wordErr := hsame.same .wordErr (by decide)
  have hfree' : holderOf u dst n = none := by rw [hu.holderOf_eq]; exact hfree
  rw [hu.noDefer_eq, hsrc, hdst, Bool.and_self, if_pos rfl]
  have hmoved := copyMem_moved u src dst n hfree'
  refine (brought_of_presented hu (by rw [hbank]) (by rw [herrs]; exact fun _ => id)).trans
    ⟨only_step hmoved.only (by decide) (only_refl _ u), hmoved.view, hmoved.holds, ?_, copyMem_errs hfree'⟩
  rw [(copyMem_only ..).same .bank (by decide)]

/-! ## What admits a further tile -/

section
variable (h : Brought s t)
include h

theorem Brought.fab : t.fab = s.fab := h.only.same .fab (by decide)
theorem Brought.reqs : t.reqs = s.reqs := h.only.same .reqs (by decide)
theorem Brought.binds : t.binds = s.binds := h.only.same .binds (by decide)
theorem Brought.objs : t.objs = s.objs := h.only.same .objs (by decide)
theorem Brought.memOk (hmem : MemOk s) : MemOk t := h.only.mem hmem

theorem Brought.bind (b : Nat) : t.bind b = s.bind b := by rw [State.bind, h.binds, State.bind]
theorem Brought.keyOf (a : Nat) : keyOf t a = keyOf s a := keyOf_of_fab h.fab a
theorem Brought.farAddr (a : Nat) : farAddr t a = farAddr s a := farAddr_of_fab h.fab a
theorem Brought.noDefer : noDefer t = noDefer s := noDefer_of_view h.view

theorem Brought.accessStatus : accessStatus t = accessStatus s := by
  refine accessStatus_of_same h.fab (h.only.same .seats (by decide)) ?_
  funext off len
  simp only [ownedArea, hmFixed, loadedBinds, h.slots, h.bind]

theorem Brought.uncorrAt {k n : Nat} (hclean : uncorrAt s k n = false) : uncorrAt t k n = false := by
  rw [Machine.uncorrAt, List.any_eq_false] at hclean ⊢
  exact fun x hx => hclean x (h.errs x hx)

theorem Brought.tileStatus {seat a d : Nat} (hok : tileStatus s seat a d = St.ok) : tileStatus t seat a d = St.ok := by
  have hclean : Machine.uncorrAt s (Machine.keyOf s a) 16384 = false := by
    by_contra hbad
    rw [Bool.not_eq_false] at hbad
    rw [Machine.tileStatus, hbad] at hok
    revert hok
    simp only [firstFail, bne_iff_ne]
    split
    · exact fun h => absurd h ‹_›
    · split
      · exact fun h => absurd h ‹_›
      · split
        · exact fun h => absurd h ‹_›
        · decide
  have hclean' := h.uncorrAt hclean
  rw [Machine.tileStatus] at hok ⊢
  rw [moveStatus, moveStatus, h.accessStatus, moverStatus, pageStatus_of_view h.view, h.keyOf, h.keyOf, hclean']
  rw [hclean] at hok
  exact hok

end

/-! ## Ranges of several tiles -/

theorem noDefer_part {k n k' n' : Nat} (h : noDefer s k n = true) (hk : k ≤ k') (hn : k' + n' ≤ k + n) : noDefer s k' n' = true := by
  rw [noDefer, List.all_eq_true] at h ⊢
  intro p hp
  refine h p ?_
  rw [pagesOf] at hp
  split at hp
  next hin =>
    rw [Bool.and_eq_true, isT2, decide_eq_true_eq, bne_iff_ne] at hin
    obtain ⟨j, hj, rfl⟩ := List.mem_map.mp hp
    have hj := List.mem_range.mp hj
    rw [pagesOf, if_pos (by rw [Bool.and_eq_true, isT2, decide_eq_true_eq, bne_iff_ne]; omega)]
    exact List.mem_map.mpr ⟨k' / 16384 + j - k / 16384, List.mem_range.mpr (by omega), by congr 1; omega⟩
  next => exact absurd hp List.not_mem_nil

theorem readBytes_congr {k n : Nat} (h : ∀ j, k ≤ j → j < k + n → memByte t j = memByte s j) : readBytes t k n = readBytes s k n :=
  Splits.readBytes_congr h

/-- Tiles of one range, from the first to before the last, stand in the other, and no other byte has changed. -/
structure TilesAt (s t : State) (src dst first last : Nat) : Prop where
  bytes : ∀ k, first ≤ k → k < last → readBytes t (dst + k * 16384) 16384 = readBytes s (src + k * 16384) 16384
  rest : ∀ j, j < dst + first * 16384 ∨ dst + last * 16384 ≤ j → memByte t j = memByte s j

theorem tilesAt_none (s : State) (src dst first last : Nat) (h : last ≤ first) : TilesAt s s src dst first last :=
  ⟨fun k hk hlt => absurd hlt (by omega), fun _ _ => rfl⟩

/-- One tile more. -/
theorem TilesAt.next {src dst first last total : Nat} (h : TilesAt s t src dst first last) (hfirst : first ≤ last) (hlast : last < total)
    (hapart : overlaps src (total * 16384) dst (total * 16384) = false)
    (hcopy : Copied t u (src + last * 16384) (dst + last * 16384) 16384) : TilesAt s u src dst first (last + 1) := by
  have hsep : src + total * 16384 ≤ dst ∨ dst + total * 16384 ≤ src := by
    simp only [overlaps, Bool.and_eq_false_iff, decide_eq_false_iff_not] at hapart
    omega
  obtain ⟨hbytes, houtside⟩ := hcopy
  have hrest : ∀ j, j < dst + last * 16384 ∨ dst + last * 16384 + 16384 ≤ j → memByte u j = memByte t j := houtside
  have hfarther : dst + (last + 1) * 16384 = dst + last * 16384 + 16384 := by rw [Nat.succ_mul, Nat.add_assoc]
  refine ⟨fun k hk hlt => ?_, fun j hj => ?_⟩
  swap
  · rw [hfarther] at hj
    have hmul : first * 16384 ≤ last * 16384 := Nat.mul_le_mul_right 16384 hfirst
    rcases hj with hbefore | hafter
    · exact (hrest j (.inl (Nat.lt_of_lt_of_le hbefore (Nat.add_le_add_left hmul dst)))).trans (h.rest j (.inl hbefore))
    · exact (hrest j (.inr hafter)).trans (h.rest j (.inr (by omega)))
  rcases Nat.lt_succ_iff_lt_or_eq.mp hlt with hold | rfl
  · rw [← h.bytes k hk hold]
    exact readBytes_congr fun j hj hlt => hrest j (by omega)
  · rw [hbytes]
    exact readBytes_congr fun j hj hlt => h.rest j (by omega)

end Sys2Proof.Parks
end

section
/-! The copies of a request's parked and returning runs, tile by tile (R251, R252, R258). -/

namespace Sys2Proof.Parks

open Sys2Proof Sys2Proof.Machine Sys2Proof.Laws Sys2Proof.Stores Sys2Proof.Movers
open Sys2Proof.Places (moveTile_of_near moverStatus_of_tileStatus)
open Sys2Proof.Ends (rx_updRx)

variable {s t u : State} {slot col n i j : Nat} {back : Bool} {r : RunCopy} {l : List RunCopy}

/-! ## The two kinds of copies as one -/

/-- The runs that come back, or those that are being parked. -/
def runsOf (back : Bool) (x : ReqX) : List RunCopy := if back then x.returns else x.parks

def withRuns (back : Bool) (l : List RunCopy) (x : ReqX) : ReqX := if back then { x with returns := l } else { x with parks := l }

/-- Where a run's copy begins and ends. -/
def runEnds (back : Bool) (s : State) (slot : Nat) (r : RunCopy) : Nat × Nat :=
  if back then ((parkEnds s slot r).2, (parkEnds s slot r).1) else parkEnds s slot r

def runJob (back : Bool) (slot col : Nat) : Job := if back then .back slot col else .park slot col

/-- The next tile of a run's copy. -/
def stepTile (back : Bool) (slot col : Nat) (s : State) : State := if back then backTile slot col s else parkTile slot col s

/-- The tiles of a run. -/
def runTiles (s : State) (slot : Nat) : Nat := gLanes (s.bind (rBind s slot)).brec

/-- The column's open copy. -/
def openRun (back : Bool) (s : State) (slot col : Nat) : Option RunCopy :=
  (runsOf back (s.rx slot)).find? (fun r => r.col == col && !r.done)

@[simp] theorem runsOf_withRuns (back : Bool) (l : List RunCopy) (x : ReqX) : runsOf back (withRuns back l x) = l := by
  cases back <;> rfl

@[simp] theorem withRuns_withRuns (back : Bool) (l m : List RunCopy) (x : ReqX) : withRuns back l (withRuns back m x) = withRuns back l x := by
  cases back <;> rfl

theorem withRuns_faultDue (back : Bool) (l : List RunCopy) (x : ReqX) : (withRuns back l x).faultDue = x.faultDue := by
  cases back <;> rfl

/-- The column's open copy notes its next tile as issued. -/
def stepped (back : Bool) (slot col : Nat) (s : State) : State :=
  s.updRx slot (fun x => withRuns back (stepRun col (runsOf back x)) x)

theorem stepTile_of_none (h : openRun back s slot col = none) : stepTile back slot col s = s := by
  cases back with
  | true => rw [stepTile, if_pos rfl, backTile, show (s.rx slot).returns.find? _ = none from h]
  | false => rw [stepTile, if_neg Bool.false_ne_true, parkTile, show (s.rx slot).parks.find? _ = none from h]

theorem stepTile_over (h : openRun back s slot col = some r) (hover : runTiles s slot ≤ r.next) : stepTile back slot col s = s := by
  have hcond : (decide (r.next ≥ gLanes (s.bind (rBind s slot)).brec) || decide ((s.rx slot).faultDue ≠ 0)) = true := by
    have hlast : gLanes (s.bind (rBind s slot)).brec ≤ r.next := hover
    rw [decide_eq_true hlast, Bool.true_or]
  cases back with
  | true =>
    rw [stepTile, if_pos rfl, backTile, show (s.rx slot).returns.find? _ = some r from h]
    dsimp only
    rw [if_pos hcond]
  | false =>
    rw [stepTile, if_neg Bool.false_ne_true, parkTile, show (s.rx slot).parks.find? _ = some r from h]
    dsimp only
    rw [if_pos hcond]

theorem stepTile_issued (h : openRun back s slot col = some r) (hmore : r.next < runTiles s slot) (hfault : (s.rx slot).faultDue = 0)
    (hroom : back = true → moverWaits s (keyOf s ((runEnds back s slot r).2 + r.next * 16384)) 16384 = false) :
    stepTile back slot col s = runTile (stepped back slot col s) slot (runJob back slot col) (runEnds back s slot r).1
      (runEnds back s slot r).2 r.next := by
  have hcond : (decide (r.next ≥ gLanes (s.bind (rBind s slot)).brec) || decide ((s.rx slot).faultDue ≠ 0)) = false := by
    have hleft : ¬gLanes (s.bind (rBind s slot)).brec ≤ r.next := Nat.not_le.mpr hmore
    rw [hfault, decide_eq_false hleft]
    rfl
  cases back with
  | true =>
    rw [stepTile, if_pos rfl, backTile, show (s.rx slot).returns.find? _ = some r from h]
    dsimp only
    have hfree : moverWaits s (keyOf s ((parkEnds s slot r).1 + r.next * 16384)) 16384 = false := hroom rfl
    rw [hcond, if_neg Bool.false_ne_true, hfree, if_neg Bool.false_ne_true]
    rfl
  | false =>
    rw [stepTile, if_neg Bool.false_ne_true, parkTile, show (s.rx slot).parks.find? _ = some r from h]
    dsimp only
    rw [hcond, if_neg Bool.false_ne_true]
    rfl

/-! ## Lists of copies -/

theorem find_stepRun (h : l.find? (fun r => r.col == col && !r.done) = some r) :
    (stepRun col l).find? (fun r => r.col == col && !r.done) = some { r with next := r.next + 1 } := by
  induction l with
  | nil => exact absurd h (by simp)
  | cons q l ih =>
    rw [stepRun, List.map_cons]
    by_cases hq : (q.col == col && !q.done) = true
    · rw [List.find?_cons, hq, Option.some.injEq] at h
      subst h
      rw [if_pos hq, List.find?_cons, hq]
    · have hno : (q.col == col && !q.done) = false := Bool.eq_false_iff.mpr hq
      rw [List.find?_cons, hno] at h
      rw [if_neg hq, List.find?_cons, hno]
      exact ih h

/-- A copy but for how far it has come. -/
def unstepped (r : RunCopy) : RunCopy := { r with next := 0 }

theorem stepRun_unstepped (col : Nat) (l : List RunCopy) : (stepRun col l).map unstepped = l.map unstepped := by
  rw [stepRun, List.map_map]
  refine List.map_congr_left fun r _ => ?_
  rw [Function.comp_apply]
  split <;> rfl

/-- A map that keeps every column and every copy of the others leaves the others' copies as they were. -/
theorem filter_others {f : RunCopy → RunCopy} (hcol : ∀ q, (f q).col = q.col) (hother : ∀ q, q.col ≠ col → f q = q) (l : List RunCopy) :
    (l.map f).filter (fun q => q.col != col) = l.filter (fun q => q.col != col) := by
  induction l with
  | nil => rfl
  | cons q l ih =>
    rw [List.map_cons]
    by_cases hq : q.col = col
    · rw [List.filter_cons_of_neg (by simp [hcol, hq]), List.filter_cons_of_neg (by simp [hq]), ih]
    · rw [hother q hq, List.filter_cons_of_pos (by simp [hq]), List.filter_cons_of_pos (by simp [hq]), ih]

theorem stepRun_others (col : Nat) (l : List RunCopy) :
    (stepRun col l).filter (fun q => q.col != col) = l.filter (fun q => q.col != col) := by
  refine filter_others (fun q => ?_) (fun q hq => ?_) l
  · split <;> rfl
  · rw [if_neg (by simp [hq])]

theorem markRun_others (col : Nat) (l : List RunCopy) :
    (markRun col l).filter (fun q => q.col != col) = l.filter (fun q => q.col != col) := by
  refine filter_others (fun q => ?_) (fun q hq => ?_) l
  · split <;> rfl
  · rw [if_neg (by simp [hq])]

/-! ## One tile -/

/-- Nothing keeps the tiles of a run, from one of them on, from being copied. -/
structure RunReady (s : State) (slot x y first n : Nat) : Prop where
  passes : ∀ k, first ≤ k → k < n → tileStatus s (rSeat s slot) (x + k * 16384) (y + k * 16384) = St.ok ∧
    farAddr s (x + k * 16384) = false ∧ farAddr s (y + k * 16384) = false
  mem : MemOk s
  keys : ∀ k, k < n → keyOf s (x + k * 16384) = keyOf s x + k * 16384 ∧ keyOf s (y + k * 16384) = keyOf s y + k * 16384
  apart : overlaps (keyOf s x) (n * 16384) (keyOf s y) (n * 16384) = false
  srcFree : noDefer s (keyOf s x) (n * 16384) = true
  dstFree : noDefer s (keyOf s y) (n * 16384) = true
  free : holderOf s (keyOf s y) (n * 16384) = none

theorem rSeat_of_reqs (h : t.reqs = s.reqs) (slot : Nat) : rSeat t slot = rSeat s slot := by rw [rSeat, State.req, h, rSeat, State.req]

theorem RunReady.of_brought {x y first : Nat} (h : RunReady s slot x y first n) (hb : Brought s t) : RunReady t slot x y first n := by
  refine ⟨fun k hk hlt => ?_, hb.memOk h.mem, fun k hlt => ?_, ?_, ?_, ?_, ?_⟩
  · obtain ⟨hok, hfar, hfar'⟩ := h.passes k hk hlt
    rw [rSeat_of_reqs hb.reqs, hb.farAddr, hb.farAddr]
    exact ⟨hb.tileStatus hok, hfar, hfar'⟩
  · rw [hb.keyOf, hb.keyOf, hb.keyOf, hb.keyOf]
    exact h.keys k hlt
  · rw [hb.keyOf, hb.keyOf]
    exact h.apart
  · rw [hb.noDefer, hb.keyOf]
    exact h.srcFree
  · rw [hb.noDefer, hb.keyOf]
    exact h.dstFree
  · rw [hb.keyOf]
    exact hb.holds.holderOf_none h.free (Nat.le_refl _) (Nat.le_refl _)

theorem moverWaits_of_noDefer {k m : Nat} (h : noDefer s k m = true) : moverWaits s k m = false := by
  rw [noDefer, List.all_eq_true] at h
  have hunlocked : (pagesOf k m).any (lockedAt s) = false := by
    rw [List.any_eq_false]
    intro p hp
    have hpage := h p hp
    rw [Bool.and_eq_true, Bool.not_eq_true'] at hpage
    rw [hpage.1]
    exact Bool.false_ne_true
  rw [moverWaits, hunlocked, Bool.false_and]

theorem tile_part {k : Nat} (hlt : k < n) : k * 16384 + 16384 ≤ n * 16384 := by
  have hmul := Nat.mul_le_mul_right 16384 (Nat.succ_le_of_lt hlt)
  rw [Nat.succ_mul] at hmul
  exact hmul

section
variable {x y first k : Nat} (h : RunReady s slot x y first n) (hk : first ≤ k) (hlt : k < n)
include h hlt

theorem RunReady.tile_src : noDefer s (keyOf s x + k * 16384) 16384 = true :=
  noDefer_part h.srcFree (Nat.le_add_right ..) (by have := tile_part hlt; omega)

theorem RunReady.tile_dst : noDefer s (keyOf s y + k * 16384) 16384 = true :=
  noDefer_part h.dstFree (Nat.le_add_right ..) (by have := tile_part hlt; omega)

theorem RunReady.tile_free : holderOf s (keyOf s y + k * 16384) 16384 = none :=
  (holdsNoMore_refl s).holderOf_none h.free (Nat.le_add_right ..) (by have := tile_part hlt; omega)

include hk

/-- A tile is copied at once. -/
theorem runTile_copies (job : Job) : Copied s (runTile s slot job x y k) (keyOf s x + k * 16384) (keyOf s y + k * 16384) 16384 ∧
    Brought s (runTile s slot job x y k) ∧ (runTile s slot job x y k).reqx = s.reqx := by
  obtain ⟨hok, hfar, hfar'⟩ := h.passes k hk hlt
  obtain ⟨hsrc, hdst⟩ := h.keys k hlt
  have hmover := moverStatus_of_tileStatus hok
  rw [hsrc, hdst] at hmover
  rw [runTile, if_neg (by simp [hok]), moveTile_of_near hfar hfar', hsrc, hdst]
  have hnote := brought_noteCorr s (keyOf s x + k * 16384) 16384 false
  have hseen := noteCorr_presented s (keyOf s x + k * 16384) 16384 false
  generalize noteCorr s (keyOf s x + k * 16384) 16384 false = v at hnote hseen
  have hstatus : moverStatus v (keyOf s x + k * 16384) (keyOf s y + k * 16384) 16384 = St.ok := by rw [hseen.moverStatus_eq, hmover]
  have hfrom : noDefer v (keyOf s x + k * 16384) 16384 = true := by rw [hnote.noDefer]; exact h.tile_src hlt
  have hto : noDefer v (keyOf s y + k * 16384) 16384 = true := by rw [hnote.noDefer]; exact h.tile_dst hlt
  have hnone : holderOf v (keyOf s y + k * 16384) 16384 = none :=
    hnote.holds.holderOf_none (h.tile_free hlt) (Nat.le_refl _) (Nat.le_refl _)
  refine ⟨(moverCopy_copied _ hstatus hfrom hto hnone (hnote.memOk h.mem)).1.from hseen.mem,
    hnote.trans (brought_moverCopy _ hstatus hfrom hto hnone), ?_⟩
  rw [(moverCopy_only ..).same .reqx (by decide), hseen.only.same .reqx (by decide)]

end

/-! ## All tiles of a run -/

/-- Tiles of an open copy have been copied so far. -/
structure Copying (back : Bool) (slot col : Nat) (r : RunCopy) (s t : State) (x y j : Nat) : Prop where
  brought : Brought s t
  found : openRun back t slot col = some { r with next := r.next + j }
  runs : (runsOf back (t.rx slot)).map unstepped = (runsOf back (s.rx slot)).map unstepped
  others : (runsOf back (t.rx slot)).filter (fun q => q.col != col) = (runsOf back (s.rx slot)).filter (fun q => q.col != col)
  rest : withRuns back [] (t.rx slot) = withRuns back [] (s.rx slot)
  tiles : TilesAt s t (keyOf s x) (keyOf s y) r.next (r.next + j)

theorem copying_refl {x y : Nat} (h : openRun back s slot col = some r) : Copying back slot col r s s x y 0 :=
  ⟨brought_refl s, h, rfl, rfl, rfl, tilesAt_none s _ _ _ _ (Nat.le_refl _)⟩

theorem runEnds_of_brought (h : Brought s t) (r : RunCopy) (m : Nat) : runEnds back t slot { r with next := m } = runEnds back s slot r := by
  have hends : parkEnds t slot { r with next := m } = parkEnds s slot r := by
    have hbind : rBind t slot = rBind s slot := by rw [rBind, State.req, h.reqs, rBind, State.req]
    have hobj : ∀ o, t.obj o = s.obj o := fun o => by rw [State.obj, h.objs, State.obj]
    rw [parkEnds, hbind, h.bind, parkEnds]
    simp only [parkAddr, hobj]
  rw [runEnds, hends, runEnds]

theorem runTiles_of_brought (h : Brought s t) : runTiles t slot = runTiles s slot := by
  rw [runTiles, rBind, State.req, h.reqs, h.bind, runTiles, rBind, State.req]

theorem Copying.faultDue {x y : Nat} (h : Copying back slot col r s t x y j) : (t.rx slot).faultDue = (s.rx slot).faultDue := by
  have hfault := congrArg ReqX.faultDue h.rest
  rwa [withRuns_faultDue, withRuns_faultDue] at hfault

theorem Copying.next (h : Copying back slot col r s t (runEnds back s slot r).1 (runEnds back s slot r).2 j)
    (hready : RunReady s slot (runEnds back s slot r).1 (runEnds back s slot r).2 r.next n) (hn : runTiles s slot = n)
    (hfault : (s.rx slot).faultDue = 0) (hmore : r.next + j < n) :
    Copying back slot col r s (stepTile back slot col t) (runEnds back s slot r).1 (runEnds back s slot r).2 (j + 1) := by
  have hready' := hready.of_brought (h.brought.trans (brought_updRx t slot (fun x => withRuns back (stepRun col (runsOf back x)) x)))
  have hroom : back = true → moverWaits t (keyOf t ((runEnds back s slot r).2 + (r.next + j) * 16384)) 16384 = false := fun _ => by
    have hnow := hready.of_brought h.brought
    rw [(hnow.keys _ hmore).2]
    exact moverWaits_of_noDefer (hnow.tile_dst hmore)
  have hissued := stepTile_issued h.found (by rw [runTiles_of_brought h.brought, hn]; exact hmore) (h.faultDue.trans hfault)
    (by rw [runEnds_of_brought h.brought]; exact hroom)
  rw [runEnds_of_brought h.brought] at hissued
  have hstepped : Brought t (stepped back slot col t) := brought_updRx ..
  have hready' : RunReady (stepped back slot col t) slot (runEnds back s slot r).1 (runEnds back s slot r).2 r.next n :=
    hready.of_brought (h.brought.trans hstepped)
  have hkey : ∀ a, keyOf (stepped back slot col t) a = keyOf s a := (h.brought.trans hstepped).keyOf
  obtain ⟨hcopied, hbrought, hreqx⟩ := runTile_copies hready' (Nat.le_add_right ..) hmore (runJob back slot col)
  rw [hkey, hkey] at hcopied
  have hrx : (stepTile back slot col t).rx slot = withRuns back (stepRun col (runsOf back (t.rx slot))) (t.rx slot) := by
    rw [hissued, State.rx, hreqx]
    exact rx_updRx ..
  refine ⟨by rw [hissued]; exact (h.brought.trans hstepped).trans hbrought, ?_, ?_, ?_, ?_, ?_⟩
  · rw [openRun, hrx, runsOf_withRuns]
    exact find_stepRun h.found
  · rw [hrx, runsOf_withRuns, stepRun_unstepped, h.runs]
  · rw [hrx, runsOf_withRuns, stepRun_others, h.others]
  · rw [hrx, withRuns_withRuns, h.rest]
  · rw [hissued]
    exact h.tiles.next (Nat.le_add_right ..) hmore hready.apart (hcopied.from rfl)

/-- All tiles that are left of a run's copy. -/
def allTiles (back : Bool) (slot col : Nat) (s : State) : State := (stepTile back slot col)^[runTiles s slot] s

theorem allTiles_copied (hopen : openRun back s slot col = some r)
    (hready : RunReady s slot (runEnds back s slot r).1 (runEnds back s slot r).2 r.next (runTiles s slot)) (hfault : (s.rx slot).faultDue = 0) :
    Copying back slot col r s (allTiles back slot col s) (runEnds back s slot r).1 (runEnds back s slot r).2 (runTiles s slot - r.next) := by
  have hsteps : ∀ m, Copying back slot col r s ((stepTile back slot col)^[m] s) (runEnds back s slot r).1 (runEnds back s slot r).2
      (min m (runTiles s slot - r.next)) := by
    intro m
    induction m with
    | zero =>
      rw [Nat.zero_min]
      exact copying_refl hopen
    | succ m ih =>
      rw [Function.iterate_succ_apply']
      by_cases hmore : m < runTiles s slot - r.next
      · rw [Nat.min_eq_left (by omega)] at ih
        rw [Nat.min_eq_left (by omega)]
        exact ih.next hready rfl hfault (by omega)
      · rw [Nat.min_eq_right (by omega)] at ih
        rw [Nat.min_eq_right (by omega), stepTile_over ih.found (by rw [runTiles_of_brought ih.brought]; dsimp only; omega)]
        exact ih
  have hall := hsteps (runTiles s slot)
  rwa [Nat.min_eq_right (Nat.sub_le ..)] at hall

end Sys2Proof.Parks
end

section
/-! PARK_COPY_COMPLETE and RETURN_COPY_COMPLETE up to the switch (R251, R252, R256, R471). -/

namespace Sys2Proof.Parks

open Sys2Proof Sys2Proof.Machine Sys2Proof.Laws Sys2Proof.Lasting Sys2Proof.Pins
open Sys2Proof.Ends

variable {s t u : State} {slot col b st : Nat} {back : Bool} {r : RunCopy}

/-! ## The rows -/

/-- The column's copies are done. -/
def runMarked (back : Bool) (slot col : Nat) (s : State) : State := s.updRx slot (fun x => withRuns back (markRun col (runsOf back x)) x)

/-- What ends a run's copy. -/
def runEnd (back : Bool) (slot col b : Nat) (s : State) : State :=
  match openRun back s slot col with
  | none => s
  | some r =>
    if r.failed ≠ St.ok then copyFault s slot r.failed 5
    else if !runOver s b r (runJob back slot col) || (s.rx slot).faultDue ≠ 0 then s
    else if inFlight (runMarked back slot col s) b then runMarked back slot col s
    else if back then closeIdle (resumeSwitch (runMarked back slot col s) slot) b
    else parkSwitch (runMarked back slot col s) slot

theorem rx_runMarked (back : Bool) (slot col : Nat) (s : State) :
    (runMarked back slot col s).rx slot = withRuns back (markRun col (runsOf back (s.rx slot))) (s.rx slot) := rx_updRx ..

theorem foldl_range_const {α : Type} (f : α → α) (n : Nat) (a : α) : (List.range n).foldl (fun a _ => f a) a = f^[n] a := by
  rw [List.foldl_const, List.length_range]

theorem parkCopy_row (slot col : Nat) (s : State) : exec (.parkCopyComplete slot col) s =
    act .banker (fun s => runEnd false slot col (rBind s slot) (allTiles false slot col s)) s := by
  have hrow : exec (.parkCopyComplete slot col) s = execParkCopyComplete slot col s := rfl
  have htiles : ∀ y, (List.range (runTiles y slot)).foldl (fun s _ => parkTile slot col s) y = allTiles false slot col y :=
    fun y => foldl_range_const _ _ y
  simp only [← htiles]
  exact hrow

theorem returnCopy_row (slot col : Nat) (s : State) : exec (.returnCopyComplete slot col) s =
    act .banker (fun s => runEnd true slot col (rBind s slot) (allTiles true slot col s)) s := by
  have hrow : exec (.returnCopyComplete slot col) s = execReturnCopyComplete slot col s := rfl
  have htiles : ∀ y, (List.range (runTiles y slot)).foldl (fun s _ => backTile slot col s) y = allTiles true slot col y :=
    fun y => foldl_range_const _ _ y
  simp only [← htiles]
  exact hrow

/-! ## A copy that fails -/

/-- DETAIL of the FAULT with which a copy that fails ends its request. -/
def faultDetail (st : Nat) : Nat := if [St.noroute, St.link, St.timeout].contains st then 5 else 1

/-- A request has ended with FAULT, and none of its copies is left. -/
structure Faulted (t : State) (slot detail : Nat) : Prop where
  ended : EndedAs t slot 4 detail
  none : NoCopies t slot

theorem endNow_faulted (s : State) (slot : Nat) {detail : Nat} (hlt : detail < 8) : Faulted (endNow s slot 4 detail) slot detail :=
  ⟨endNow_ends s slot (by decide) hlt, endNow_noCopies ..⟩

theorem faultReq_faulted {detail : Nat} (hasked : Asked s t) (hlasts : Lasts s t) (hactive : rActive s slot = true)
    (hidle : inFlight s (rBind s slot) = false) (hlt : detail < 8) : Faulted (faultReq t slot detail) slot detail := by
  have hactive' : rActive t slot = true := by rw [rActive_of_reqs hasked.reqs, hactive]
  have hidle' : inFlight t (rBind t slot) = false := by
    rw [inFlight_of_lasts hlasts, rBind, State.req, hasked.reqs]
    exact hidle
  rw [faultReq_idle hactive' hidle']
  exact endNow_faulted t slot hlt

theorem copyFault_faulted (st : Nat) (hactive : rActive s slot = true) (hidle : inFlight s (rBind s slot) = false) :
    Faulted (copyFault s slot st 5) slot (faultDetail st) := by
  unfold copyFault faultDetail
  split
  · rw [tierFault, if_pos hactive]
    exact faultReq_faulted (countTier_asked ..) (countTier_lasts ..) hactive hidle (by decide)
  · have hnote := state_noteWindow_only s (rSeat s slot) st
    exact faultReq_faulted (asked_of_only hnote (by decide)) (lasts_of_only hnote (by decide)) hactive hidle (by decide)

theorem openRun_of_noCopies (h : NoCopies s slot) : openRun back s slot col = none := by
  obtain ⟨hparks, -, hreturns⟩ := h
  cases back with
  | true => rw [openRun, runsOf, if_pos rfl, hreturns]; rfl
  | false => rw [openRun, runsOf, if_neg Bool.false_ne_true, hparks]; rfl

theorem runEnd_of_none (h : openRun back s slot col = none) : runEnd back slot col b s = s := by rw [runEnd, h]

theorem runEnd_of_faulted {detail : Nat} (h : Faulted s slot detail) : Faulted (runEnd back slot col b s) slot detail := by
  rw [runEnd_of_none (openRun_of_noCopies h.none)]
  exact h

theorem stepped_only (back : Bool) (slot col : Nat) (s : State) : OnlyChanges [.reqx] s (stepped back slot col s) := state_updRx_only ..

/-- A tile that is refused ends its request. -/
theorem runTile_faulted {job : Job} {x y k : Nat} (hactive : rActive s slot = true) (hidle : inFlight s (rBind s slot) = false)
    (hst : tileStatus s (rSeat s slot) (x + k * 16384) (y + k * 16384) = st) (hne : st ≠ St.ok) :
    Faulted (runTile s slot job x y k) slot (faultDetail st) := by
  rw [runTile, hst, if_pos hne]
  split
  · have hnote := noteUncorr_only s (keyOf s (x + k * 16384)) 16384 4 (rSeat s slot) (some (rBind s slot))
    generalize noteUncorr s (keyOf s (x + k * 16384)) 16384 4 (rSeat s slot) (some (rBind s slot)) = v at hnote
    have hreqs : v.reqs = s.reqs := hnote.same .reqs (by decide)
    refine copyFault_faulted st (by rw [rActive_of_reqs hreqs, hactive]) ?_
    rw [Phases.inFlight_of_binds (hnote.same .binds (by decide)), rBind, State.req, hreqs]
    exact hidle
  · exact copyFault_faulted st hactive hidle

/-- The first tile that is left is refused. -/
theorem allTiles_faulted (hopen : openRun back s slot col = some r) (hmore : r.next < runTiles s slot) (hfault : (s.rx slot).faultDue = 0)
    (hroom : back = true → moverWaits s (keyOf s ((runEnds back s slot r).2 + r.next * 16384)) 16384 = false)
    (hactive : rActive s slot = true) (hidle : inFlight s (rBind s slot) = false)
    (hst : tileStatus s (rSeat s slot) ((runEnds back s slot r).1 + r.next * 16384) ((runEnds back s slot r).2 + r.next * 16384) = st)
    (hne : st ≠ St.ok) : Faulted (allTiles back slot col s) slot (faultDetail st) := by
  have hsame := stepped_only back slot col s
  have hreqs : (stepped back slot col s).reqs = s.reqs := hsame.same .reqs (by decide)
  have hbind : rBind (stepped back slot col s) slot = rBind s slot := by rw [rBind, State.req, hreqs, rBind, State.req]
  have hfirst : Faulted (stepTile back slot col s) slot (faultDetail st) := by
    rw [stepTile_issued hopen hmore hfault hroom]
    refine runTile_faulted (by rw [rActive_of_reqs hreqs, hactive]) ?_ ?_ hne
    · rw [hbind, Phases.inFlight_of_binds (hsame.same .binds (by decide)), hidle]
    · rw [Places.tileStatus_of_only hsame (by decide), rSeat_of_reqs hreqs, hst]
  obtain ⟨m, hm⟩ : ∃ m, runTiles s slot = m + 1 := ⟨runTiles s slot - 1, by omega⟩
  rw [allTiles, hm, Function.iterate_succ_apply,
    Function.iterate_fixed (stepTile_of_none (openRun_of_noCopies (back := back) (col := col) hfirst.none))]
  exact hfirst

theorem allTiles_over (hopen : openRun back s slot col = some r) (hover : runTiles s slot ≤ r.next) : allTiles back slot col s = s := by
  rw [allTiles, Function.iterate_fixed (stepTile_over hopen hover)]

/-- A copy whose request to another chip has failed ends its request. -/
theorem runEnd_faulted (hopen : openRun back s slot col = some r) (hfail : r.failed ≠ St.ok) (hactive : rActive s slot = true)
    (hidle : inFlight s (rBind s slot) = false) : Faulted (runEnd back slot col b s) slot (faultDetail r.failed) := by
  rw [runEnd, hopen]
  dsimp only
  rw [if_pos hfail]
  exact copyFault_faulted _ hactive hidle

/-! ## A copy that completes -/

/-- A run whose tiles have all been copied. -/
structure RunCopied (back : Bool) (slot col : Nat) (r : RunCopy) (s : State) : Prop where
  found : openRun back s slot col = some r
  ready : RunReady s slot (runEnds back s slot r).1 (runEnds back s slot r).2 r.next (runTiles s slot)
  fault : (s.rx slot).faultDue = 0
  good : r.failed = St.ok
  still : jobOpen s (· == runJob back slot col) = false

theorem jobOpen_of_fab (h : t.fab = s.fab) (p : Job → Bool) : jobOpen t p = jobOpen s p := by rw [jobOpen, h, jobOpen]

section
variable (h : RunCopied back slot col r s)
include h

theorem RunCopied.copying : Copying back slot col r s (allTiles back slot col s) (runEnds back s slot r).1 (runEnds back s slot r).2
    (runTiles s slot - r.next) := allTiles_copied h.found h.ready h.fault

/-- The copies of the column are marked, and the request switches where no turn is in flight. -/
theorem RunCopied.ends : runEnd back slot col (rBind s slot) (allTiles back slot col s) =
    if inFlight s (rBind s slot) then runMarked back slot col (allTiles back slot col s)
    else if back then closeIdle (resumeSwitch (runMarked back slot col (allTiles back slot col s)) slot) (rBind s slot)
    else parkSwitch (runMarked back slot col (allTiles back slot col s)) slot := by
  have hcopying := h.copying
  have hbrought := hcopying.brought
  have hover : runOver (allTiles back slot col s) (rBind s slot) { r with next := r.next + (runTiles s slot - r.next) } (runJob back slot col) = true := by
    have hall : gLanes (s.bind (rBind s slot)).brec ≤ r.next + (runTiles s slot - r.next) := by
      rw [runTiles]
      omega
    rw [runOver, hbrought.bind, jobOpen_of_fab hbrought.fab, h.still, decide_eq_true hall]
    rfl
  have hflight : inFlight (runMarked back slot col (allTiles back slot col s)) (rBind s slot) = inFlight s (rBind s slot) :=
    Phases.inFlight_of_binds hbrought.binds _
  rw [runEnd, hcopying.found]
  dsimp only
  rw [if_neg (by simp [h.good]), hover, hcopying.faultDue, h.fault, if_neg (by simp), hflight]

/-- Of the request's copies, those of the column alone are done. -/
theorem RunCopied.marks :
    (∀ q, q ∈ runsOf back ((runMarked back slot col (allTiles back slot col s)).rx slot) → q.col = col → q.done = true) ∧
    (runsOf back ((runMarked back slot col (allTiles back slot col s)).rx slot)).length = (runsOf back (s.rx slot)).length ∧
    (runsOf back ((runMarked back slot col (allTiles back slot col s)).rx slot)).filter (fun q => q.col != col) =
      (runsOf back (s.rx slot)).filter (fun q => q.col != col) := by
  rw [rx_runMarked, runsOf_withRuns]
  refine ⟨fun q hq hcol => ?_, ?_, ?_⟩
  · obtain ⟨p, -, rfl⟩ := List.mem_map.mp hq
    split at hcol
    next hp => rw [if_pos hp]
    next hp => exact absurd (beq_iff_eq.mpr hcol) hp
  · have hlen := congrArg List.length h.copying.runs
    rw [List.length_map, List.length_map] at hlen
    rw [markRun, List.length_map, hlen]
  · rw [markRun_others, h.copying.others]

/-- The bytes of the run's tiles. -/
theorem RunCopied.copied : TilesAt s (runMarked back slot col (allTiles back slot col s)) (keyOf s (runEnds back s slot r).1)
    (keyOf s (runEnds back s slot r).2) r.next (r.next + (runTiles s slot - r.next)) :=
  ⟨h.copying.tiles.bytes, h.copying.tiles.rest⟩

end

/-! ## The switch of parked runs (R251) -/

/-- A parked run's place is in the page table, and the pool's run is given up. -/
def poolLeft (slot : Nat) (s : State) (r : RunCopy) : State :=
  let s := ptWrite s (s.req slot) r.col (ptMake (parkAddr s r.place) 0 r.kind r.fill)
  let s := refDrop s (rBind s slot) r.pool r.idx
  unindex s (rBind s slot) r.pool r.idx

theorem poolLeft_asked (s : State) (slot : Nat) (r : RunCopy) : Asked s (poolLeft slot s r) :=
  asked_step (asked_of_only (unindex_only ..) (by decide)) (asked_step (asked_of_only (refDrop_only ..) (by decide)) (ptWrite_asked ..))

def parkOne (slot : Nat) (s : State) (r : RunCopy) : State := (poolLeft slot s r).updRx slot (fun x => { x with parked := x.parked ++ [r] })

theorem parkOne_parked (s : State) (slot : Nat) (r : RunCopy) : ((parkOne slot s r).rx slot).parked = (s.rx slot).parked ++ [r] := by
  have hparked := congrArg ReqX.parked ((poolLeft_asked s slot r).rx slot)
  rw [parkOne, rx_updRx]
  exact congrArg (· ++ [r]) hparked

theorem parkOnes_parked (l : List RunCopy) : ∀ s : State, ((l.foldl (parkOne slot) s).rx slot).parked = (s.rx slot).parked ++ l := by
  induction l with
  | nil => exact fun s => (List.append_nil _).symm
  | cons r l ih =>
    intro s
    rw [List.foldl_cons, ih, parkOne_parked, List.append_assoc]
    rfl

theorem rx_pauseCheck (s : State) (slot k : Nat) : (pauseCheck s slot).rx k = s.rx k := by
  unfold pauseCheck
  split <;> rfl

theorem parkSwitch_eq (s : State) (slot : Nat) : parkSwitch s slot =
    pauseCheck ((((s.rx slot).parks.filter (·.done)).foldl (parkOne slot) s).updRx slot
      (fun x => { x with parks := x.parks.filter (fun r => !r.done) })) slot := rfl

/-- Every copy that was done is a parked run, and no copy is done. -/
theorem parkSwitch_parks (s : State) (slot : Nat) : (∀ q, q ∈ ((parkSwitch s slot).rx slot).parks → q.done = false) ∧
    ∀ q ∈ (s.rx slot).parks, q.done = true → q ∈ ((parkSwitch s slot).rx slot).parked := by
  rw [parkSwitch_eq, rx_pauseCheck, rx_updRx]
  refine ⟨fun q hq => ?_, fun q hq hdone => ?_⟩
  · have hopen := (List.mem_filter.mp hq).2
    rwa [Bool.not_eq_true'] at hopen
  · show q ∈ ((((s.rx slot).parks.filter (·.done)).foldl (parkOne slot) s).rx slot).parked
    rw [parkOnes_parked]
    exact List.mem_append_right _ (List.mem_filter.mpr ⟨hq, hdone⟩)

end Sys2Proof.Parks
end

section
/-! The last run that comes back: the request leaves RESUMING, and stays so as an IDLE binding closes (R39, R40, R252, R275). -/

namespace Sys2Proof.Parks

open Sys2Proof Sys2Proof.Machine Sys2Proof.Laws Sys2Proof.Movers Sys2Proof.Phases
open Sys2Proof.Ends
open Sys2Proof.Fabric (get_setAll_of_mem)
open Sys2Proof.MailboxService (FieldsApart get_setAll_apart)

variable {s t u : State} {slot b col n : Nat} {r : RunCopy}

/-! ## One request that stays as it is -/

/-- How many runs a request parks elsewhere and brings back, and the expiry that is due. -/
def waysOf (x : ReqX) : Nat × Nat × Nat := (x.returns.length, x.parked.length, x.expireDue)

/-- A request's entry, its parked and returning runs and its expiry are as they were. -/
structure Stays (slot : Nat) (s t : State) : Prop where
  req : t.req slot = s.req slot
  ways : waysOf (t.rx slot) = waysOf (s.rx slot)

theorem stays_refl (slot : Nat) (s : State) : Stays slot s s := ⟨rfl, rfl⟩

theorem stays_step (h' : Stays slot t u) (h : Stays slot s t) : Stays slot s u := ⟨h'.req.trans h.req, h'.ways.trans h.ways⟩

theorem waysOf_of_standing {x y : ReqX} (h : standing x = standing y) : waysOf x = waysOf y := by
  have hreturns := congrArg (fun x => x.returns.length) h
  have hparked := congrArg (fun x => x.parked.length) h
  have hdue := congrArg ReqX.expireDue h
  simp only [standing, List.length_map] at hreturns hparked hdue
  rw [waysOf, hreturns, hparked, hdue, waysOf]

theorem stays_of_asked (h : Asked s t) : Stays slot s t :=
  ⟨by rw [State.req, h.reqs, State.req], waysOf_of_standing (h.rx slot)⟩

theorem stays_of_only {l : List Part} (h : OnlyChanges l s t) (hl : ∀ p ∈ [Part.reqs, .reqx], p ∉ l) : Stays slot s t :=
  stays_of_asked (asked_of_only h hl)

theorem stays_of_apart (h : Apart n s t) (hn : slot ≠ n) : Stays slot s t := ⟨h.req slot hn, waysOf_of_standing (h.rx slot hn)⟩

theorem stays_updRx (s : State) (n : Nat) {f : ReqX → ReqX} (h : ∀ x, waysOf (f x) = waysOf x) : Stays slot s (s.updRx n f) := by
  refine ⟨rfl, ?_⟩
  by_cases hn : slot = n
  · subst hn
    rw [rx_updRx, h]
  · rw [rx_updRx_other _ _ hn]

theorem stays_foldl {α : Type} {f : State → α → State} (h : ∀ y a, Stays slot y (f y a)) (l : List α) (s : State) :
    Stays slot s (l.foldl f s) := by
  induction l generalizing s with
  | nil => exact stays_refl slot s
  | cons a l ih => exact stays_step (ih _) (h s a)

/-- A fold whose steps keep a request as it is where it has a property that they keep. -/
theorem stays_foldl_where {α : Type} {f : State → α → State} {C : State → Prop} (hC : ∀ y a, C y → C (f y a))
    (h : ∀ y a, C y → Stays slot y (f y a)) (l : List α) : ∀ s, C s → Stays slot s (l.foldl f s) := by
  induction l with
  | nil => exact fun s _ => stays_refl slot s
  | cons a l ih => exact fun s hs => stays_step (ih _ (hC s a hs)) (h s a hs)

section
variable (h : Stays slot s t)
include h

theorem Stays.rState : rState t slot = rState s slot := by rw [Machine.rState, h.req, Machine.rState]

theorem Stays.expireDue : (t.rx slot).expireDue = (s.rx slot).expireDue := congrArg (fun x => x.2.2) h.ways

theorem Stays.dueDetail (hclk : t.clk = s.clk) : dueDetail t slot = dueDetail s slot := by
  rw [Ends.dueDetail, h.req, now, hclk, Ends.dueDetail, now]

end

/-! ## The turn counters -/

/-- Every binding's TURN is as it was. -/
def Turns (s t : State) : Prop := ∀ k, bTurn (t.bind k) = bTurn (s.bind k)

theorem turns_step (h' : Turns t u) (h : Turns s t) : Turns s u := fun k => (h' k).trans (h k)

theorem turns_of_binds (h : t.binds = s.binds) : Turns s t := fun k => by rw [bind_of_binds h]

theorem turns_of_steady (h : Steady s t) : Turns s t := fun k => by
  have hblk := congrArg Bind.blk (h.same k)
  exact congrArg LTurnBlk.TURN.get hblk

theorem turns_setBind (s : State) (b : Nat) {x : Bind} (h : x.blk = (s.bind b).blk) : Turns s (s.setBind b x) := by
  intro k
  by_cases hk : k = b
  · subst hk
    rw [setBind_bind, bTurn, h, bTurn]
  · rw [setBind_bind_other _ _ _ _ hk]

theorem turns_updBind (s : State) (b : Nat) {f : Bind → Bind} (h : ∀ x, (f x).blk = x.blk) : Turns s (s.updBind b f) := turns_setBind s b (h _)

theorem turns_foldl {α : Type} {f : State → α → State} (h : ∀ y a, Turns y (f y a)) (l : List α) (s : State) : Turns s (l.foldl f s) := by
  induction l generalizing s with
  | nil => exact fun _ => rfl
  | cons a l ih => exact turns_step (ih _) (h s a)

theorem tableWrite_steady (s : State) (e : BitVec 1024) (off : Nat) (bs : List Byte) : Steady s (tableWrite s e off bs) := by
  unfold tableWrite
  extract_lets seat a st u
  have hu : Steady s u := steady_of_only (hostWrite_only ..) (by decide)
  split
  · exact steady_of_only (state_noteWindow_only ..) (by decide)
  · split
    · unfold tablePacket
      extract_lets w
      split
      · exact steady_step (issueAs_steady ..) hu
      · exact steady_step (issueAs_steady ..) hu
    · exact hu

theorem takeHead_blk (x : Bind) (p : Nat) : (takeHead x p).blk = x.blk := by
  unfold takeHead
  extract_lets f
  split <;> rfl

theorem allocRun_some {bd : Option Nat} {turn p i : Nat} (h : allocRun s b bd turn = some (t, p, i)) :
    OnlyChanges [.binds] s t ∧ Turns s t := by
  unfold allocRun at h
  extract_lets x at h
  split at h
  · cases h
  · split at h
    · cases h
    · cases h
      exact ⟨state_setBind_only .., turns_setBind s b (takeHead_blk ..)⟩

/-! ## Runs for parked runs (R252) -/

theorem returnAlloc_apart (s : State) (n turn : Nat) : Apart n s (returnAlloc s n turn) ∧ Turns s (returnAlloc s n turn) := by
  have hfold : ∀ (l : List RunCopy) (f : State → RunCopy → State), (∀ y r, Apart n y (f y r) ∧ Turns y (f y r)) →
      ∀ s, Apart n s (l.foldl f s) ∧ Turns s (l.foldl f s) := fun l f hf s =>
    ⟨apart_foldl (fun y r => (hf y r).1) l s, turns_foldl (fun y r => (hf y r).2) l s⟩
  refine hfold _ _ (fun y r => ?_) s
  split
  · exact ⟨apart_refl n y, fun _ => rfl⟩
  · split
    next h =>
      obtain ⟨honly, hturns⟩ := allocRun_some h
      exact ⟨apart_step (apart_updRx ..) (apart_of_only honly (by decide)), hturns⟩
    · exact ⟨apart_refl n y, fun _ => rfl⟩

theorem allocReturns_stays (h : rState s slot ≠ RS.resuming) : Stays slot s (allocReturns s b) ∧ Turns s (allocReturns s b) := by
  refine ⟨stays_foldl_where (C := fun y => Machine.rState y slot ≠ RS.resuming) (fun y n hy => ?_) (fun y n hy => ?_) _ s h, turns_foldl (fun y n => ?_) _ s⟩
  · split
    next hn => rw [Machine.rState, (returnAlloc_apart ..).1.req slot (fun heq => hy (heq ▸ hn))]; exact hy
    · exact hy
  · split
    next hn => exact stays_of_apart (returnAlloc_apart ..).1 fun heq => hy (heq ▸ hn)
    · exact stays_refl slot y
  · split
    · exact (returnAlloc_apart ..).2
    · exact fun _ => rfl

/-! ## The close of an IDLE binding -/

theorem markExpired_stays (h : dueDetail s slot = 0) (n : Nat) : Stays slot s (markExpired s n) := by
  rw [markExpired_eq]
  split
  next hdue =>
    refine stays_of_apart (apart_updRx ..) fun heq => ?_
    subst heq
    rw [h] at hdue
    simp at hdue
  · exact stays_refl slot s

theorem marks_stays (h : dueDetail s slot = 0) (l : List Nat) : Stays slot s (l.foldl markExpired s) := by
  refine stays_foldl_where (C := fun y => Ends.dueDetail y slot = 0) (fun y n hy => ?_) (fun y n hy => markExpired_stays hy n) l s h
  have honly := Ends.markExpired_only y n
  rw [dueDetail_of_same (honly.same .reqs (by decide)) (honly.same .clk (by decide)), hy]

theorem readCons_stays (s : State) (n : Nat) : Stays slot s (readCons s n) := by
  refine ⟨by rw [State.req, (readCons_only ..).same .reqs (by decide), State.req], ?_⟩
  by_cases hn : slot = n
  · subst hn
    have hways := congrArg waysOf (readCons_rx s slot)
    exact hways
  · exact waysOf_of_standing ((readCons_apart s n).rx slot hn)

theorem candOf_stays (turn : Nat) (s : State) (n : Nat) : Stays slot s (candOf turn s n).1 := by
  have hcount : ∀ (y : State) (b k m : Nat), Stays slot y (y.countBind b k m) := fun y b k m =>
    stays_of_only (state_countBind_only ..) (by decide)
  unfold candOf
  extract_lets e b r st v w
  have hread : Stays slot s v := readCons_stays s n
  split
  · exact stays_refl slot s
  · split
    · split
      extract_lets v' d'
      have hv' : Stays slot v v' := by
        unfold v'
        split
        · exact hcount ..
        · exact stays_refl slot v
      exact stays_step hv' hread
    · split
      · split
        · split
          · exact hcount ..
          · exact stays_refl slot s
        · exact hread
      · exact stays_refl slot s

theorem dropReads_stays (s : State) (b : Nat) : Stays slot s (dropReads s b) := by
  unfold dropReads
  refine stays_foldl (fun y n => stays_updRx y n ?_) _ s
  exact fun _ => rfl

theorem stays_foldl_comp {α : Type} {f : Comp → α → Comp} (h : ∀ c a, Stays slot c.s (f c a).s) (l : List α) (c : Comp) :
    Stays slot c.s (l.foldl f c).s := by
  induction l generalizing c with
  | nil => exact stays_refl slot c.s
  | cons a l ih => exact stays_step (ih _) (h c a)

theorem stays_foldl_fst {α β : Type} {f : State × β → α → State × β} (h : ∀ y a, Stays slot y.1 (f y a).1) (l : List α) :
    ∀ y : State × β, Stays slot y.1 (l.foldl f y).1 := by
  induction l with
  | nil => exact fun y => stays_refl slot y.1
  | cons a l ih => exact fun y => stays_step (ih _) (h y a)

theorem composePasses_stays (s : State) (b turn : Nat) : Stays slot s (composePasses s b turn).s := by
  have hcount : ∀ (y : State) (b k m : Nat), Stays slot y (y.countBind b k m) := fun y b k m =>
    stays_of_only (state_countBind_only ..) (by decide)
  unfold composePasses
  split
  next s1 cands e =>
  have hcands : Stays slot s s1 := by
    rw [show s1 = (s1, cands).1 from rfl, ← e]
    refine stays_foldl_fst (fun y n => ?_) _ (s, [])
    have hcand := candOf_stays (slot := slot) turn y.1 n
    split
    next h => rw [h] at hcand; exact hcand
    next h => rw [h] at hcand; exact hcand
  extract_lets y1 dec pre c c1 c2 chunks c3 c4 c5 out
  have hrefill : Stays slot s1 y1 := stays_foldl (fun _ _ => stays_of_only (refill_only ..) (by decide)) _ s1
  have h1 : Stays slot y1 c1.s := stays_foldl_comp (fun _ _ => stays_of_only (pass1_only ..) (by decide)) _ c
  have h2 : Stays slot c1.s c2.s := stays_foldl_comp (fun _ _ => stays_of_only (pass2_only ..) (by decide)) _ c1
  have h3 : Stays slot c2.s c3.s := stays_foldl_comp (fun _ _ => stays_of_only (pass3_only ..) (by decide)) _ c2
  have h4 : Stays slot c3.s c4.s := stays_foldl_comp (fun _ _ => stays_of_only (grow_only ..) (by decide)) _ c3
  have h5 : Stays slot c4.s c5.s := stays_foldl_comp (fun _ _ => stays_of_only (pass4_only ..) (by decide)) _ c4
  have hpassed : Stays slot s c5.s := stays_step h5 (stays_step h4 (stays_step h3 (stays_step h2 (stays_step h1 (stays_step hrefill hcands)))))
  exact stays_step (dropReads_stays ..) (stays_step (hcount ..) (stays_step (hcount ..) hpassed))

/-- A request whose expiry is not due is none of those that a close ends. -/
theorem endExpired_stays (h : (s.rx slot).expireDue = 0) (b : Nat) : Stays slot s (endExpired s b) := by
  rw [endExpired_eq]
  refine stays_foldl_where (C := fun y => (y.rx slot).expireDue = 0) (fun y n hy => ?_) (fun y n hy => ?_) _ s h
  · by_cases hn : slot = n
    · subst hn
      rw [endDue, hy, if_neg (by simp), hy]
    · rw [(stays_of_apart (endDue_apart y n) hn).expireDue, hy]
  · by_cases hn : slot = n
    · subst hn
      rw [endDue, hy, if_neg (by simp)]
      exact stays_refl slot y
    · exact stays_of_apart (endDue_apart y n) hn

/-- A request that is neither RESUMING nor expired stays as it is while its binding's next turn is composed. -/
structure Composable (slot : Nat) (s : State) : Prop where
  left : rState s slot ≠ RS.resuming
  due : (s.rx slot).expireDue = 0
  later : dueDetail s slot = 0

theorem Composable.of_stays (h : Composable slot s) (hs : Stays slot s t) (hclk : t.clk = s.clk) : Composable slot t :=
  ⟨by rw [hs.rState]; exact h.left, by rw [hs.expireDue, h.due], by rw [hs.dueDetail hclk, h.later]⟩

theorem composed_stays (h : Composable slot s) (b : Nat) : Stays slot s (composed s b).s := by
  have hmarks := marks_stays h.later (bindSlots s b)
  have hleft : rState ((bindSlots s b).foldl markExpired s) slot ≠ RS.resuming := by rw [hmarks.rState]; exact h.left
  exact stays_step (composePasses_stays ..) (stays_step (allocReturns_stays hleft).1 hmarks)

theorem closeCounted_stays (s : State) (b : Nat) (ents : List TEnt) (neg : Bool) : Stays slot s (closeCounted s b ents neg) := by
  have hcount : ∀ (y : State) (b k m : Nat), Stays slot y (y.countBind b k m) := fun y b k m =>
    stays_of_only (state_countBind_only ..) (by decide)
  unfold closeCounted
  extract_lets u
  have hu : Stays slot s u := stays_step (hcount ..) (stays_foldl (fun _ _ => stays_of_only (startSeed_only ..) (by decide)) _ s)
  refine stays_step (stays_of_only (settleSlot_only _) (by decide)) ?_
  split
  · exact stays_step (hcount ..) hu
  · exact hu

theorem closeTurn_stays (h : Composable slot s) (hturn : bTurn (s.bind b) ≠ 2 ^ 64 - 1) : Stays slot s (closeTurn s b) := by
  cases hcomposes : composes s b with
  | false =>
    rw [closeTurn, if_pos (by simp [hcomposes])]
    exact stays_refl slot s
  | true =>
    have hcomposed := composed_stays h b
    have hbind : ∀ (y : State) (f : Bind → Bind), Stays slot y (y.updBind b f) := fun y f => stays_of_only (state_updBind_only ..) (by decide)
    rw [closeTurn_eq hcomposes hturn]
    split
    · exact stays_step (hbind ..) (stays_step (endExpired_stays (hcomposed.expireDue.trans h.due) b) hcomposed)
    · extract_lets v ents neg
      have hv : Stays slot s v := stays_step (stays_of_only (noteBlocks_only ..) (by decide)) hcomposed
      have hheld : Stays slot v (composedHeld v (composed s b)) := by
        refine stays_foldl (fun y (f : Form) => stays_updRx y f.cand.slot ?_) _ v
        exact fun _ => rfl
      exact stays_step (closeCounted_stays ..) (stays_step (hbind ..) (stays_step hheld hv))

theorem toKids_stays (s : State) (w : BitVec 512) (l : List SliceEnt) : Stays slot s (toKids s w l) := by
  refine stays_foldl (fun y k => ?_) _ s
  have hemit : ∀ (y : State) (o : Out), Asked y (y.emit o) := fun y o => asked_of_only (state_emit_only ..) (by decide)
  have hsend : Asked y (sendSync y k.1 k.2 w l) := by
    unfold sendSync
    split
    · exact asked_refl y
    · exact asked_foldl (hemit ..) fun _ _ hy => asked_step (issueAs_asked ..) hy
  dsimp only
  split
  · exact stays_of_asked hsend
  · exact stays_of_asked (asked_step (hemit ..) hsend)

theorem closeIdle_stays (h : Composable slot s) (hturn : bTurn (s.bind b) ≠ 2 ^ 64 - 1) : Stays slot s (closeIdle s b) := by
  unfold closeIdle
  extract_lets v
  obtain ⟨hv, hturns, hclk⟩ : Stays slot s v ∧ Turns s v ∧ v.clk = s.clk := by
    unfold v
    split
    · exact ⟨(allocReturns_stays h.left).1, (allocReturns_stays h.left).2, (allocReturns_only ..).same .clk (by decide)⟩
    · exact ⟨stays_refl slot s, fun _ => rfl, rfl⟩
  split
  · exact hv
  · split
    · have hclose := closeTurn_stays (h.of_stays hv hclk) (b := b) (by rw [hturns b]; exact hturn)
      refine stays_step ?_ (stays_step hclose hv)
      unfold scatterTurn
      split
      · exact toKids_stays ..
      · exact stays_refl ..
    · exact stays_step (dropReads_stays ..) hv

end Sys2Proof.Parks
end

section
/-! A request leaves RESUMING with the last run that comes back (R252, R275). -/

namespace Sys2Proof.Parks

open Sys2Proof Sys2Proof.Machine Sys2Proof.Laws Sys2Proof.Movers Sys2Proof.Phases
open Sys2Proof.Ends
open Sys2Proof.Fabric (get_setAll_of_mem)
open Sys2Proof.MailboxService (FieldsApart get_setAll_apart)

variable {s t u : State} {slot b col n : Nat} {r : RunCopy}

/-! ## The switch of runs that came back -/

theorem parkRelease_stays (s : State) (slot : Nat) (r : RunCopy) : Stays slot s (parkRelease s slot r) ∧ Turns s (parkRelease s slot r) := by
  unfold parkRelease
  split
  · exact ⟨stays_of_only (state_updOx_only ..) (by decide), fun _ => rfl⟩
  next chip id a _ =>
    extract_lets n u f v
    have hu : Stays slot s u := stays_of_only (state_updSeat_only ..) (by decide)
    have hv : Stays slot u v := stays_of_only (set_fab_only u _) (by decide)
    have hnoted : Stays slot v (v.updRx slot (fun x => { x with releases := id :: x.releases })) := stays_updRx v slot fun _ => rfl
    refine ⟨stays_step (stays_of_only (tellPark_quiet ..) (by decide)) (stays_step hnoted (stays_step hv hu)), ?_⟩
    exact turns_step (turns_of_binds ((tellPark_quiet ..).same .binds (by decide))) fun _ => rfl

/-- One run that came back is in the page table. -/
def runBack (slot b : Nat) (s : State) (r : RunCopy) : State :=
  (ptWrite s (s.req slot) r.col (ptMake (runAddr (s.bind b).brec r.pool r.idx) r.pool r.kind r.fill)).updBind b
    (fun y => updRunRec y r.pool r.idx [(LRunRec.REFCNT, 1), (LRunRec.RESERVED, 0)])

theorem runBack_stays (s : State) (slot b : Nat) (r : RunCopy) : Stays slot s (runBack slot b s r) ∧ Turns s (runBack slot b s r) := by
  unfold runBack
  refine ⟨stays_step (stays_of_only (state_updBind_only ..) (by decide)) (stays_of_asked (ptWrite_asked ..)), ?_⟩
  exact turns_step (turns_updBind _ b fun _ => rfl) (turns_of_steady (tableWrite_steady ..))

/-- The runs that came back are in the page table, and their park space is released. -/
def runsBack (s : State) (slot : Nat) : State :=
  (s.rx slot).parked.foldl (fun s r => parkRelease s slot r) ((s.rx slot).returns.foldl (runBack slot (rBind s slot)) s)

theorem runsBack_stays (s : State) (slot : Nat) : Stays slot s (runsBack s slot) ∧ Turns s (runsBack s slot) :=
  ⟨stays_step (stays_foldl (fun _ _ => (parkRelease_stays ..).1) _ _) (stays_foldl (fun _ _ => (runBack_stays ..).1) _ s),
    turns_step (turns_foldl (fun _ _ => (parkRelease_stays ..).2) _ _) (turns_foldl (fun _ _ => (runBack_stays ..).2) _ s)⟩

/-- The request's entry as it leaves RESUMING. -/
def resumedEntry (e : BitVec 1024) : BitVec 1024 := setAll e [(LEnt.STATE, resumeTo e), (LEnt.DETAIL, 0)]

theorem resumeTo_range (e : BitVec 1024) : 1 ≤ resumeTo e ∧ resumeTo e ≤ 3 := by
  unfold resumeTo
  split
  · split <;> decide
  · split <;> decide

theorem resumedEntry_state (e : BitVec 1024) : LEnt.STATE.get (resumedEntry e) = resumeTo e := by
  have hrange := resumeTo_range e
  rw [resumedEntry, get_setAll_of_mem (v := resumeTo e) _ (by simp) (by simp [FieldsApart, LEnt.STATE, LEnt.DETAIL]) (by decide)]
  exact Nat.mod_eq_of_lt (Nat.lt_of_le_of_lt hrange.2 (by decide))

theorem resumedEntry_dates (e : BitVec 1024) : LEnt.DEADLINE.get (resumedEntry e) = LEnt.DEADLINE.get e ∧
    LEnt.T_EXPIRE.get (resumedEntry e) = LEnt.T_EXPIRE.get e := by
  exact ⟨get_setAll_apart _ (by simp [FieldsApart, LEnt.STATE, LEnt.DETAIL, LEnt.DEADLINE]),
    get_setAll_apart _ (by simp [FieldsApart, LEnt.STATE, LEnt.DETAIL, LEnt.T_EXPIRE])⟩

/-- All runs of a RESUMING request are back. -/
structure AllBack (s : State) (slot : Nat) : Prop where
  state : rState s slot = RS.resuming
  all : (s.rx slot).returns.length = (s.rx slot).parked.length
  done : (s.rx slot).returns.all (·.done) = true

theorem resumeSwitch_eq (h : AllBack s slot) : ∃ seed : ReqX → Option Seed, resumeSwitch s slot =
    ((runsBack s slot).updReq slot [(LEnt.STATE, resumeTo ((runsBack s slot).req slot)), (LEnt.DETAIL, 0)]).updRx slot
      (fun y => { y with returns := [], parked := [], seed := seed y }) := by
  have hcond : (decide (rState s slot = RS.resuming) && (s.rx slot).returns.length == (s.rx slot).parked.length &&
      (s.rx slot).returns.all (·.done)) = true := by
    rw [h.state, h.all, h.done]
    simp
  refine ⟨fun y => (resumeSeed ((runsBack s slot).updReq slot [(LEnt.STATE, resumeTo ((runsBack s slot).req slot)), (LEnt.DETAIL, 0)]) slot).or
    y.seed, ?_⟩
  rw [resumeSwitch, if_pos hcond]
  rfl

/-- The request as it has left RESUMING. -/
structure Resumed (s t : State) (slot : Nat) : Prop where
  req : t.req slot = resumedEntry (s.req slot)
  none : (t.rx slot).returns = [] ∧ (t.rx slot).parked = []
  due : (t.rx slot).expireDue = (s.rx slot).expireDue
  turns : Turns s t
  clk : t.clk = s.clk

theorem resumeSwitch_resumed (h : AllBack s slot) : Resumed s (resumeSwitch s slot) slot := by
  obtain ⟨hstays, hturns⟩ := runsBack_stays s slot
  have hclk : (resumeSwitch s slot).clk = s.clk := (resumeSwitch_only ..).same .clk (by decide)
  obtain ⟨seed, heq⟩ := resumeSwitch_eq h
  rw [heq] at hclk ⊢
  refine ⟨?_, ?_, ?_, hturns, hclk⟩
  · rw [← hstays.req]
    exact req_updReq ..
  · rw [rx_updRx]
    exact ⟨rfl, rfl⟩
  · rw [rx_updRx]
    exact hstays.expireDue

/-! ## The last run comes back -/

/-- No expiry of a request has been reached. -/
def Unexpired (s : State) (slot : Nat) : Prop :=
  (LEnt.DEADLINE.get (s.req slot) = 0 ∨ now s < LEnt.DEADLINE.get (s.req slot)) ∧
    (LEnt.T_EXPIRE.get (s.req slot) = 0 ∨ now s < LEnt.T_EXPIRE.get (s.req slot))

theorem dueDetail_of_unexpired (h : Unexpired s slot) : dueDetail s slot = 0 := by
  obtain ⟨hdead, hexpire⟩ := h
  have hdead' : (LEnt.DEADLINE.get (s.req slot) ≠ 0 && decide (LEnt.DEADLINE.get (s.req slot) ≤ now s)) = false := by
    rcases hdead with h | h <;> simp [h]
  have hexpire' : (LEnt.T_EXPIRE.get (s.req slot) ≠ 0 && decide (LEnt.T_EXPIRE.get (s.req slot) ≤ now s)) = false := by
    rcases hexpire with h | h <;> simp [h]
  rw [dueDetail, hdead', hexpire']
  rfl

theorem Resumed.composable (h : Resumed s t slot) (hdue : (s.rx slot).expireDue = 0) (hlater : Unexpired s slot) : Composable slot t := by
  obtain ⟨hdead, hexpire⟩ := resumedEntry_dates (s.req slot)
  refine ⟨?_, h.due.trans hdue, dueDetail_of_unexpired ?_⟩
  · rw [rState, h.req, resumedEntry_state]
    have hrange := resumeTo_range (s.req slot)
    intro heq
    rw [heq] at hrange
    exact absurd hrange.2 (by decide)
  · rw [Unexpired, h.req, hdead, hexpire, now, h.clk]
    exact hlater

/-- With all its runs back, a request leaves RESUMING and its parked runs are gone. -/
theorem resume_closes (h : AllBack s slot) (hturn : bTurn (s.bind b) ≠ 2 ^ 64 - 1) (hdue : (s.rx slot).expireDue = 0) (hlater : Unexpired s slot) :
    ((closeIdle (resumeSwitch s slot) b).rx slot).returns = [] ∧ ((closeIdle (resumeSwitch s slot) b).rx slot).parked = [] ∧
      1 ≤ rState (closeIdle (resumeSwitch s slot) b) slot ∧ rState (closeIdle (resumeSwitch s slot) b) slot ≤ 3 := by
  have hresumed := resumeSwitch_resumed h
  have hstays := closeIdle_stays (hresumed.composable hdue hlater) (b := b) (by rw [hresumed.turns b]; exact hturn)
  obtain ⟨hreturns, hparked⟩ := hresumed.none
  have hnone : waysOf ((closeIdle (resumeSwitch s slot) b).rx slot) = (0, 0, ((resumeSwitch s slot).rx slot).expireDue) := by
    rw [hstays.ways, waysOf, hreturns, hparked]
    rfl
  simp only [waysOf, Prod.mk.injEq, List.length_eq_zero_iff] at hnone
  refine ⟨hnone.1, hnone.2.1, ?_⟩
  rw [hstays.rState, rState, hresumed.req, resumedEntry_state]
  exact resumeTo_range _

/-- The copy that completes is the last of its request's. -/
structure LastBack (s : State) (slot col : Nat) : Prop where
  state : rState s slot = RS.resuming
  all : (s.rx slot).returns.length = (s.rx slot).parked.length
  done : (s.rx slot).returns.all (fun q => q.done || q.col == col) = true

theorem LastBack.allBack (h : LastBack s slot col) (hc : RunCopied true slot col r s) :
    AllBack (runMarked true slot col (allTiles true slot col s)) slot := by
  have hcopying := hc.copying
  have hparked := congrArg ReqX.parked hcopying.rest
  have hmarked := rx_runMarked true slot col (allTiles true slot col s)
  have hreturns : ((runMarked true slot col (allTiles true slot col s)).rx slot).returns =
      markRun col ((allTiles true slot col s).rx slot).returns := congrArg ReqX.returns hmarked
  refine ⟨?_, ?_, ?_⟩
  · have hreqs : (runMarked true slot col (allTiles true slot col s)).reqs = s.reqs := hcopying.brought.reqs
    rw [rState, State.req, hreqs]
    exact h.state
  · have hlen : ((runMarked true slot col (allTiles true slot col s)).rx slot).returns.length = (s.rx slot).returns.length := hc.marks.2.1
    rw [hlen, h.all]
    exact (congrArg List.length ((congrArg ReqX.parked hmarked).trans hparked)).symm
  · rw [hreturns, List.all_eq_true]
    intro q hq
    obtain ⟨p, hp, rfl⟩ := List.mem_map.mp hq
    have hin : unstepped p ∈ (runsOf true (s.rx slot)).map unstepped := by
      rw [← hcopying.runs]
      exact List.mem_map.mpr ⟨p, hp, rfl⟩
    obtain ⟨q, hq, hsame⟩ := List.mem_map.mp hin
    have hqdone := List.all_eq_true.mp h.done q hq
    have hdone : q.done = p.done := by have h := congrArg RunCopy.done hsame; exact h
    have hcol : q.col = p.col := by have h := congrArg RunCopy.col hsame; exact h
    split
    · rfl
    next hp =>
      rw [hdone, hcol, Bool.or_eq_true] at hqdone
      exact hqdone.resolve_right hp

theorem lastBack_closes (h : LastBack s slot col) (hc : RunCopied true slot col r s) (hidle : inFlight s (rBind s slot) = false)
    (hturn : bTurn (s.bind (rBind s slot)) ≠ 2 ^ 64 - 1) (hdue : (s.rx slot).expireDue = 0) (hlater : Unexpired s slot) :
    let t := runEnd true slot col (rBind s slot) (allTiles true slot col s)
    (t.rx slot).returns = [] ∧ (t.rx slot).parked = [] ∧ 1 ≤ rState t slot ∧ rState t slot ≤ 3 := by
  have hbrought := hc.copying.brought
  intro t
  have ht : t = closeIdle (resumeSwitch (runMarked true slot col (allTiles true slot col s)) slot) (rBind s slot) := by
    have hends := hc.ends
    rw [hidle] at hends
    exact hends
  rw [ht]
  refine resume_closes (h.allBack hc) ?_ ?_ ?_
  · rw [bind_of_binds (t := runMarked true slot col (allTiles true slot col s)) hbrought.binds]
    exact hturn
  · have hrest := congrArg ReqX.expireDue hc.copying.rest
    have hmarked := congrArg ReqX.expireDue (rx_runMarked true slot col (allTiles true slot col s))
    exact (hmarked.trans hrest).trans hdue
  · have hreqs : (runMarked true slot col (allTiles true slot col s)).reqs = s.reqs := hbrought.reqs
    have hclk : (runMarked true slot col (allTiles true slot col s)).clk = s.clk := hbrought.only.same .clk (by decide)
    rw [Unexpired, State.req, hreqs, now, hclk]
    exact hlater

end Sys2Proof.Parks
end

section
/-! Messages about parked runs (R247 to R250, R253, R380, R489). -/

namespace Sys2Proof.Parks

open Sys2Proof Sys2Proof.Machine Sys2Proof.Laws Sys2Proof.Lasting Sys2Proof.Pins
open Sys2Proof.Ends
open Sys2Proof.Places (ox_updOx ox_updOx_other)
open Sys2Proof.Mirrors (acked_of_fab replies_of_received)

variable {s t u : State} {slot port n id owner tiles new seat : Nat} {pkt : BitVec 256}

/-! ## The row of a message of one packet -/

/-- A message about parked runs that the guard lets in. -/
theorem parkMessage_runs {i : Instr} {guard : State → Bool} {f : State → State} {P : State → Prop}
    (hrow : exec i s = messageRow .banker port 0 64 pkt guard f s) (hrun : running .banker s = true)
    (hcome : carried s port 9 0 none pkt = true) (hguard : guard (receivedPackets s port 1) = true)
    (hP : P (answer (f (receivedPackets s port 1)) ⟨pkt, 0#4096⟩ St.ok 0)) : Runs i s P := by
  refine runs_of_when (hrow.trans (by rw [messageRow])) hrun hcome ?_
  have hone : max 1 (cdiv 64 512) = 1 := by decide
  simp only [hone, hguard, if_true]
  exact hP

theorem receivedPackets_quiet (s : State) (port : Nat) : OnlyChanges [.fab] s (receivedPackets s port 1) := receivedPackets_only ..

/-! ## EVICTION_NOTICE (R253) -/

theorem evicted_of_paused (h : rState s slot = RS.paused ∨ rState s slot = RS.pausing) : (evicted slot s).req slot = (endNow s slot 5 3).req slot := by
  have hcond : (decide (rState s slot = RS.paused) || decide (rState s slot = RS.pausing)) = true := by
    rw [Bool.or_eq_true, decide_eq_true_eq, decide_eq_true_eq]
    exact h
  rw [evicted, if_pos hcond]
  generalize endNow s slot 5 3 = v
  rw [State.req, (state_countBind_only ..).same .reqs (by decide), State.req]

theorem evicted_of_other (h : ¬(rState s slot = RS.paused ∨ rState s slot = RS.pausing)) : evicted slot s = s.countDev dcParkStale 1 := by
  have hcond : (decide (rState s slot = RS.paused) || decide (rState s slot = RS.pausing)) = false := by
    rw [Bool.or_eq_false_iff, decide_eq_false_iff_not, decide_eq_false_iff_not]
    exact not_or.mp h
  rw [evicted, hcond, if_neg Bool.false_ne_true]

theorem evictionNotice_runs (hrun : running .banker s = true) (hcome : carried s port 9 0 none pkt = true) :
    Runs (.evictionNotice ⟨⟨port, pkt⟩, slot⟩) s (fun t =>
      if rState s slot = RS.paused ∨ rState s slot = RS.pausing then EndedAs t slot 5 3
      else Tab.get t.bank.ctr 0#64 dcParkStale = Tab.get s.bank.ctr 0#64 dcParkStale + 1 ∧ Replies ⟨pkt, 0#4096⟩ St.ok 0 s t ∧
        OnlyChanges [.bank, .fab] s t) := by
  have hrow : exec (.evictionNotice ⟨⟨port, pkt⟩, slot⟩) s = execEvictionNotice ⟨⟨port, pkt⟩, slot⟩ s := rfl
  have hreceived := receivedPackets_quiet s port
  refine parkMessage_runs (hrow.trans (by rw [execEvictionNotice])) hrun hcome rfl ?_
  generalize hv : receivedPackets s port 1 = v at hreceived
  have hstate : rState v slot = rState s slot := by rw [rState, State.req, hreceived.same .reqs (by decide), rState, State.req]
  have hanswer := answer_only (evicted slot v) ⟨pkt, 0#4096⟩ St.ok 0
  split
  next hpaused =>
    rw [← hstate] at hpaused
    have hreq := (congrFun (congrArg (fun reqs => Tab.get reqs 0#1024) (hanswer.same .reqs (by decide))) slot).trans (evicted_of_paused hpaused)
    exact endedAs_of_req hreq (endNow_ends v slot (by decide) (by decide))
  next hother =>
    rw [← hstate] at hother
    have hstale := evicted_of_other hother
    rw [hstale] at hanswer ⊢
    refine ⟨?_, acked_of_fab pkt (by rw [hv]; rfl), only_step hanswer (by decide) (only_step (state_countDev_only ..) (by decide)
      (only_step hreceived (by decide) (only_refl _ s)))⟩
    have hbank : v.bank = s.bank := hreceived.same .bank (by decide)
    rw [hanswer.same .bank (by decide), ← hbank]
    exact get_set_self ..

/-! ## PARK_SPACE_RELEASE and OWNER_CHANGE -/

/-- A function on an object's extension, applied to every object of a list that qualifies. -/
def eachObj (q : State → Nat → Bool) (f : ObjX → ObjX) (s : State) (n : Nat) : State := if q s n then s.updOx n f else s

theorem eachObj_only (q : State → Nat → Bool) (f : ObjX → ObjX) (s : State) (n : Nat) : OnlyChanges [.objx] s (eachObj q f s n) := by
  unfold eachObj
  split
  · exact state_updOx_only ..
  · exact only_refl _ s

theorem eachObj_foldl_only (q : State → Nat → Bool) (f : ObjX → ObjX) (l : List Nat) (s : State) :
    OnlyChanges [.objx] s (l.foldl (eachObj q f) s) := only_foldl (only_refl _ s) fun y n hy => only_step (eachObj_only q f y n) (by decide) hy

/-- Every object of the list that qualifies, and no other, is changed; a second application changes nothing more. -/
theorem eachObj_foldl {q : State → Nat → Bool} {f : ObjX → ObjX} (hq : ∀ s t m, t.objs = s.objs → q t m = q s m)
    (hf : ∀ x, f (f x) = f x) (l : List Nat) : ∀ (s : State) (m : Nat),
      (l.foldl (eachObj q f) s).ox m = if m ∈ l ∧ q s m = true then f (s.ox m) else s.ox m := by
  induction l with
  | nil => exact fun s m => by simp
  | cons n l ih =>
    intro s m
    have hsame := hq s (eachObj q f s n) m ((eachObj_only q f s n).same .objs (by decide))
    rw [List.foldl_cons, ih, hsame]
    by_cases hm : m = n
    · subst hm
      by_cases hqm : q s m = true
      · rw [eachObj, if_pos hqm, ox_updOx, hf, ite_self, if_pos ⟨List.mem_cons_self, hqm⟩]
      · rw [if_neg (fun h => hqm h.2), if_neg (fun h => hqm h.2), eachObj, if_neg hqm]
    · have hother : (eachObj q f s n).ox m = s.ox m := by
        unfold eachObj
        split
        · exact ox_updOx_other _ _ hm
        · rfl
      rw [hother]
      simp [hm]

/-- A parked run that an owner gives up. -/
def withoutRun (owner id : Nat) (x : ObjX) : ObjX := { x with park := x.park.filter (fun r => !(r.owner == owner && r.id == id)) }

def isParkHost (s : State) (n : Nat) : Bool := decide (LObj.KIND.get (s.obj n) = 5)

theorem isParkHost_of_objs (s t : State) (m : Nat) (h : t.objs = s.objs) : isParkHost t m = isParkHost s m := by
  rw [isParkHost, State.obj, h, isParkHost, State.obj]

theorem freeParked_eq (owner id : Nat) (s : State) : freeParked owner id s =
    tellPark ((objList s).foldl (eachObj isParkHost (withoutRun owner id)) s) owner 4 id 0 0 := by
  have hstep : eachObj isParkHost (withoutRun owner id) = fun s n => if LObj.KIND.get (s.obj n) = 5 then
      s.updOx n (fun x => { x with park := x.park.filter (fun r => !(r.owner == owner && r.id == id)) }) else s := by
    funext y m
    simp only [eachObj, isParkHost, decide_eq_true_eq]
    rfl
  rw [freeParked, hstep]

theorem mem_objList (h : LObj.KIND.get (s.obj n) ≠ 0) : n ∈ objList s := by
  refine List.mem_filter.mpr ⟨?_, by simpa using h⟩
  by_contra hout
  refine h ?_
  rw [State.obj, Places.get_of_not_mem hout]
  simp [Fld.get]

theorem tellPark_sent (s : State) (chip code arg1 arg2 seat : Nat) : .park chip code arg1 arg2 ∈ (tellPark s chip code arg1 arg2 seat).out := by
  unfold tellPark
  extract_lets v
  have hv : Out.park chip code arg1 arg2 ∈ v.out := List.mem_cons_self
  split
  · exact hv
  · exact (message_lasts ..).sent hv

theorem parkSpaceRelease_runs (hrun : running .banker s = true) (hcome : carried s port 9 0 none pkt = true) (hfrom : LPkt.SRC.get pkt = owner) :
    Runs (.parkSpaceRelease ⟨⟨port, pkt⟩, owner⟩ id) s (fun t =>
      (∀ n, LObj.KIND.get (s.obj n) = 5 → (t.ox n).park = (s.ox n).park.filter (fun x => !(x.owner == owner && x.id == id))) ∧
      (∀ n, LObj.KIND.get (s.obj n) ≠ 5 → t.ox n = s.ox n) ∧ .park owner 4 id 0 ∈ t.out ∧ t.objs = s.objs) := by
  have hrow : exec (.parkSpaceRelease ⟨⟨port, pkt⟩, owner⟩ id) s = execParkSpaceRelease ⟨⟨port, pkt⟩, owner⟩ id s := rfl
  have hreceived := receivedPackets_quiet s port
  refine parkMessage_runs (hrow.trans (by rw [execParkSpaceRelease])) hrun hcome (by simpa using hfrom) ?_
  generalize receivedPackets s port 1 = v at hreceived
  have hanswer := answer_only (freeParked owner id v) ⟨pkt, 0#4096⟩ St.ok 0
  have hobjs : v.objs = s.objs := hreceived.same .objs (by decide)
  have hobjx : v.objx = s.objx := hreceived.same .objx (by decide)
  have hox : ∀ m, (answer (freeParked owner id v) ⟨pkt, 0#4096⟩ St.ok 0).ox m =
      if m ∈ objList v ∧ isParkHost v m = true then withoutRun owner id (v.ox m) else v.ox m := by
    intro m
    rw [State.ox, hanswer.same .objx (by decide), freeParked_eq, (tellPark_quiet ..).same .objx (by decide)]
    exact eachObj_foldl isParkHost_of_objs (fun x => by simp [withoutRun, List.filter_filter]) _ v m
  have hkind : ∀ m, LObj.KIND.get (v.obj m) = LObj.KIND.get (s.obj m) := fun m => by rw [State.obj, hobjs, State.obj]
  have hsame : ∀ m, v.ox m = s.ox m := fun m => by rw [State.ox, hobjx, State.ox]
  refine ⟨fun m hm => ?_, fun m hm => ?_, ?_, ?_⟩
  · have hhost : isParkHost v m = true := by rw [isParkHost, hkind, hm]; rfl
    rw [hox, if_pos ⟨mem_objList (by rw [hkind, hm]; decide), hhost⟩, hsame]
    rfl
  · rw [hox, if_neg (fun h => hm (by have hhost := h.2; rwa [isParkHost, decide_eq_true_eq, hkind] at hhost)), hsame]
  · rw [hanswer.same .out (by decide), freeParked_eq]
    exact tellPark_sent ..
  · rw [hanswer.same .objs (by decide), freeParked_eq, (tellPark_quiet ..).same .objs (by decide),
      (eachObj_foldl_only ..).same .objs (by decide), hobjs]

/-- A parked run of a seat of one chip belongs to another from now on. -/
def ownedBy (old new seat : Nat) (r : ParkRun) : ParkRun := if r.owner == old && r.seat == seat then { r with owner := new } else r

def newOwner (old new seat : Nat) (x : ObjX) : ObjX := { x with park := x.park.map (ownedBy old new seat) }

theorem ownedBy_again (old new seat : Nat) (r : ParkRun) : ownedBy old new seat (ownedBy old new seat r) = ownedBy old new seat r := by
  by_cases h : (r.owner == old && r.seat == seat) = true
  · have hnew : ownedBy old new seat r = { r with owner := new } := if_pos h
    rw [hnew, ownedBy]
    split <;> rfl
  · have hsame : ownedBy old new seat r = r := if_neg h
    rw [hsame, hsame]

theorem changeOwner_eq (old new seat : Nat) (s : State) : changeOwner old new seat s =
    (objList s).foldl (eachObj (fun _ _ => true) (newOwner old new seat)) s := rfl

theorem newOwner_again (old new seat : Nat) (x : ObjX) : newOwner old new seat (newOwner old new seat x) = newOwner old new seat x := by
  simp only [newOwner, List.map_map]
  congr 1
  exact List.map_congr_left fun r _ => ownedBy_again old new seat r

theorem ownerChange_runs {old : Nat} (hrun : running .banker s = true) (hcome : carried s port 9 0 none pkt = true) (hfrom : LPkt.SRC.get pkt = new) :
    Runs (.ownerChange ⟨⟨port, pkt⟩, old⟩ new seat) s (fun t =>
      (∀ n, n ∈ objList s → (t.ox n).park = (s.ox n).park.map (fun x =>
        if x.owner == old && x.seat == seat then { x with owner := new } else x)) ∧
      Replies ⟨pkt, 0#4096⟩ St.ok 0 s t ∧ OnlyChanges [.objx, .fab] s t) := by
  have hrow : exec (.ownerChange ⟨⟨port, pkt⟩, old⟩ new seat) s = execOwnerChange ⟨⟨port, pkt⟩, old⟩ new seat s := rfl
  have hreceived := receivedPackets_quiet s port
  refine parkMessage_runs (hrow.trans (by rw [execOwnerChange])) hrun hcome (by simpa using hfrom) ?_
  generalize hv : receivedPackets s port 1 = v at hreceived
  have hanswer := answer_only (changeOwner old new seat v) ⟨pkt, 0#4096⟩ St.ok 0
  have hchange : OnlyChanges [.objx] v (changeOwner old new seat v) := by
    rw [changeOwner_eq]
    exact eachObj_foldl_only ..
  refine ⟨fun m hm => ?_, acked_of_fab pkt (by rw [hv]; exact hchange.same .fab (by decide)), only_step hanswer (by decide)
    (only_step hchange (by decide) (only_step hreceived (by decide) (only_refl _ s)))⟩
  have hobjs : v.objs = s.objs := hreceived.same .objs (by decide)
  have hlist : objList v = objList s := by simp only [objList, State.obj, hobjs]
  have hox : v.ox m = s.ox m := by rw [State.ox, hreceived.same .objx (by decide), State.ox]
  rw [State.ox, hanswer.same .objx (by decide), changeOwner_eq]
  have heach := eachObj_foldl (q := fun _ _ => true) (fun _ _ _ _ => rfl) (newOwner_again old new seat) (objList v) v m
  rw [if_pos ⟨by rw [hlist]; exact hm, rfl⟩, hox] at heach
  exact congrArg ObjX.park heach

end Sys2Proof.Parks
end

section
/-! Park space on this host, its releases, and the obligation about parked runs (R247 to R253, R258, R260, R380, R489). -/

namespace Sys2Proof.Parks

open Sys2Proof Sys2Proof.Machine Sys2Proof.Laws Sys2Proof.Lasting Sys2Proof.Pins
open Sys2Proof.Ends
open Sys2Proof.Places (ox_updOx ox_updOx_other)
open Sys2Proof.Mirrors (acked_of_fab replies_of_received)

variable {s t u : State} {slot port n id owner tiles seat col obj gap : Nat} {pkt : BitVec 256}

/-! ## Room for a run (R247, R248, R250) -/

theorem evictReq_quiet (s : State) (owner slot : Nat) : OnlyChanges [.bank, .objx, .cores, .fab, .out, .free] s (evictReq s owner slot) := by
  unfold evictReq
  extract_lets seat v
  have hv : OnlyChanges [.objx] s v := by
    refine only_foldl (only_refl _ s) fun y m hy => ?_
    split
    · exact only_step (state_updOx_only ..) (by decide) hy
    · exact hy
  exact only_step (tellPark_quiet ..) (by decide) (only_step (state_countDev_only ..) (by decide) (only_step hv (by decide) (only_refl _ s)))

theorem makeRoom_quiet {tier : Nat} {but : Option (Nat × Nat)} (h : makeRoom s tier n but = some t) :
    OnlyChanges [.bank, .objx, .cores, .fab, .out, .free] s t := by
  simp only [makeRoom] at h
  split at h
  · cases h
    exact only_refl _ s
  · split at h
    · cases h
    · cases h
      refine only_foldl (only_refl _ s) fun y q hy => ?_
      split
      · exact hy
      · exact only_step (evictReq_quiet ..) (by decide) hy

theorem hostPlace_quiet (h : hostPlace s owner slot tiles = some (u, obj, gap)) : OnlyChanges [.bank, .objx, .cores, .fab, .out, .free] s u := by
  unfold hostPlace at h
  obtain ⟨tier, -, h⟩ := List.exists_of_findSome?_eq_some h
  obtain ⟨m, -, h⟩ := List.exists_of_findSome?_eq_some h
  split at h
  · cases h
  · obtain ⟨v, hroom, h⟩ := Option.bind_eq_some_iff.mp h
    obtain ⟨g, -, h⟩ := Option.map_eq_some_iff.mp h
    cases h
    exact makeRoom_quiet hroom

/-! ## PARK_HOST_TAKE_RUN -/

/-- The run's new record. -/
def newRun (u : State) (owner seat slot col tiles gap : Nat) : ParkRun :=
  ⟨u.bank.nextParkId, owner, seat, slot, col, gap, tiles, u.bank.ageClock.toNat⟩

/-- The host has taken a run in. -/
def taken (u : State) (owner seat slot col tiles obj gap : Nat) : State :=
  ((({ u with bank := { u.bank with nextParkId := u.bank.nextParkId + 1 } }).updOx obj
    (fun x => { x with park := x.park ++ [newRun u owner seat slot col tiles gap] })).countDev dcParkIn 1).countDev dcSharedDraw tiles

theorem hostTake_of_place (h : (if LTierCfg.PARK_HOST.on s.bank.tierCfg && tiles != 0 then hostPlace s owner slot tiles else none) =
    some (u, obj, gap)) : hostTake owner seat slot col tiles s =
      tellPark (taken u owner seat slot col tiles obj gap) owner 6 u.bank.nextParkId (LObj.WORK.get (u.obj obj) + gap * 16384) seat := by
  rw [hostTake, h]
  rfl

theorem hostTake_of_none (h : (if LTierCfg.PARK_HOST.on s.bank.tierCfg && tiles != 0 then hostPlace s owner slot tiles else none) = none) :
    hostTake owner seat slot col tiles s = tellPark s owner 7 slot col seat := by
  rw [hostTake, h]

/-- What a host that takes a run in leaves. -/
structure Taken (u t : State) (owner seat slot col tiles obj gap : Nat) : Prop where
  park : (t.ox obj).park = (u.ox obj).park ++ [newRun u owner seat slot col tiles gap]
  next : t.bank.nextParkId = u.bank.nextParkId + 1
  drawn : Tab.get t.bank.ctr 0#64 dcSharedDraw = Tab.get u.bank.ctr 0#64 dcSharedDraw + BitVec.ofNat 64 tiles
  objs : t.objs = u.objs

theorem taken_taken (u : State) (owner seat slot col tiles obj gap : Nat) :
    Taken u (taken u owner seat slot col tiles obj gap) owner seat slot col tiles obj gap := by
  refine ⟨?_, rfl, ?_, rfl⟩
  · have hox := ox_updOx { u with bank := { u.bank with nextParkId := u.bank.nextParkId + 1 } } obj
      (fun x => { x with park := x.park ++ [newRun u owner seat slot col tiles gap] })
    exact congrArg ObjX.park hox
  · have hdraw := get_set_self (ctrAdd u.bank.ctr dcParkIn 1) 0#64 dcSharedDraw
      (Tab.get (ctrAdd u.bank.ctr dcParkIn 1) 0#64 dcSharedDraw + BitVec.ofNat 64 tiles)
    have hin : Tab.get (ctrAdd u.bank.ctr dcParkIn 1) 0#64 dcSharedDraw = Tab.get u.bank.ctr 0#64 dcSharedDraw := get_set_other (by decide)
    exact hdraw.trans (congrArg (· + BitVec.ofNat 64 tiles) hin)

theorem Taken.of_quiet {l : List Part} (h : Taken u s owner seat slot col tiles obj gap) (honly : OnlyChanges l s t)
    (hl : ∀ p ∈ [Part.objx, .bank, .objs], p ∉ l) : Taken u t owner seat slot col tiles obj gap := by
  have hbank : t.bank = s.bank := honly.same .bank (hl _ (by decide))
  have hobjx : t.objx = s.objx := honly.same .objx (hl _ (by decide))
  have hobjs : t.objs = s.objs := honly.same .objs (hl _ (by decide))
  refine ⟨?_, by rw [hbank, h.next], by rw [hbank, h.drawn], by rw [hobjs, h.objs]⟩
  rw [State.ox, hobjx]
  exact h.park

section
variable (hrun : running .banker s = true) (hcome : carried s port 9 0 none pkt = true) (hfrom : LPkt.SRC.get pkt = owner)
include hrun hcome hfrom

theorem parkHostTakeRun_runs {P : State → Prop} (hP : P (answer (hostTake owner seat slot col tiles (receivedPackets s port 1)) ⟨pkt, 0#4096⟩ St.ok 0)) :
    Runs (.parkHostTakeRun ⟨⟨port, pkt⟩, owner⟩ seat slot col tiles) s P := by
  have hrow : exec (.parkHostTakeRun ⟨⟨port, pkt⟩, owner⟩ seat slot col tiles) s = execParkHostTakeRun ⟨⟨port, pkt⟩, owner⟩ seat slot col tiles s := rfl
  exact parkMessage_runs (hrow.trans (by rw [execParkHostTakeRun])) hrun hcome (by simpa using hfrom) hP

theorem parkHost_refuses (h : (if LTierCfg.PARK_HOST.on s.bank.tierCfg && tiles != 0 then hostPlace (receivedPackets s port 1) owner slot tiles
    else none) = none) : Runs (.parkHostTakeRun ⟨⟨port, pkt⟩, owner⟩ seat slot col tiles) s (fun t => .park owner 7 slot col ∈ t.out ∧
      t.objx = s.objx ∧ t.bank.ctr = s.bank.ctr) := by
  refine parkHostTakeRun_runs hrun hcome hfrom ?_
  have hreceived := receivedPackets_quiet s port
  have hbank : (receivedPackets s port 1).bank = s.bank := hreceived.same .bank (by decide)
  rw [← hbank] at h
  rw [hostTake_of_none h]
  generalize receivedPackets s port 1 = v at hreceived hbank
  have hanswer := answer_only (tellPark v owner 7 slot col seat) ⟨pkt, 0#4096⟩ St.ok 0
  refine ⟨?_, ?_, ?_⟩
  · rw [hanswer.same .out (by decide)]
    exact tellPark_sent ..
  · rw [hanswer.same .objx (by decide), (tellPark_quiet ..).same .objx (by decide), hreceived.same .objx (by decide)]
  · rw [hanswer.same .bank (by decide), (tellPark_quiet ..).same .bank (by decide), hbank]

theorem parkHost_takes (h : (if LTierCfg.PARK_HOST.on s.bank.tierCfg && tiles != 0 then hostPlace (receivedPackets s port 1) owner slot tiles
    else none) = some (u, obj, gap)) : Runs (.parkHostTakeRun ⟨⟨port, pkt⟩, owner⟩ seat slot col tiles) s (fun t =>
      Taken u t owner seat slot col tiles obj gap ∧
        .park owner 6 u.bank.nextParkId (LObj.WORK.get (u.obj obj) + gap * 16384) ∈ t.out ∧ t.objs = s.objs) := by
  refine parkHostTakeRun_runs hrun hcome hfrom ?_
  have hreceived := receivedPackets_quiet s port
  have hbank : (receivedPackets s port 1).bank = s.bank := hreceived.same .bank (by decide)
  rw [← hbank] at h
  have hplace : hostPlace (receivedPackets s port 1) owner slot tiles = some (u, obj, gap) := by
    split at h
    · exact h
    · cases h
  have hobjs : u.objs = s.objs := by rw [(hostPlace_quiet hplace).same .objs (by decide), hreceived.same .objs (by decide)]
  rw [hostTake_of_place h]
  have htold := tellPark_quiet (taken u owner seat slot col tiles obj gap) owner 6 u.bank.nextParkId (LObj.WORK.get (u.obj obj) + gap * 16384) seat
  have hsent := tellPark_sent (taken u owner seat slot col tiles obj gap) owner 6 u.bank.nextParkId (LObj.WORK.get (u.obj obj) + gap * 16384) seat
  generalize tellPark (taken u owner seat slot col tiles obj gap) owner 6 u.bank.nextParkId (LObj.WORK.get (u.obj obj) + gap * 16384) seat = v
    at htold hsent
  have hanswer := answer_only v ⟨pkt, 0#4096⟩ St.ok 0
  have htaken := ((taken_taken u owner seat slot col tiles obj gap).of_quiet htold (by decide)).of_quiet hanswer (by decide)
  refine ⟨htaken, ?_, htaken.objs.trans hobjs⟩
  rw [hanswer.same .out (by decide)]
  exact hsent

end

/-! ## Releases of park space (R489) -/

/-- A release is complete: nobody waits for it. -/
structure ReleaseOver (s t : State) (id : Nat) : Prop where
  releases : ∀ x, x ∈ t.fab.releases ↔ x ∈ s.fab.releases ∧ x.1 ≠ id
  waits : ∀ x, x ∈ s.fab.releases → x.1 = id → id ∉ (t.rx x.2.1).releases
  only : OnlyChanges [.reqx, .fab] s t

/-- A request no longer waits for a release. -/
def unwait (id : Nat) (s : State) (slot : Nat) : State := s.updRx slot (fun x => { x with releases := x.releases.filter (· != id) })

theorem unwait_self (id : Nat) (s : State) (slot : Nat) : id ∉ ((unwait id s slot).rx slot).releases := by
  rw [unwait, rx_updRx]
  intro h
  have hne := (List.mem_filter.mp h).2
  simp at hne

theorem unwait_keeps {k : Nat} (h : id ∉ (s.rx k).releases) (m : Nat) : id ∉ ((unwait id s m).rx k).releases := by
  by_cases hk : k = m
  · subst hk
    exact unwait_self id s k
  · rw [unwait, rx_updRx_other _ _ hk]
    exact h

theorem unwait_foldl {k : Nat} (l : List Nat) : ∀ s : State, (k ∈ l ∨ id ∉ (s.rx k).releases) → id ∉ ((l.foldl (unwait id) s).rx k).releases := by
  induction l with
  | nil => exact fun s h => h.resolve_left List.not_mem_nil
  | cons m l ih =>
    intro s h
    refine ih _ ?_
    by_cases hm : k = m
    · subst hm
      exact .inr (unwait_self id s k)
    · exact h.imp (fun h => (List.mem_cons.mp h).resolve_left hm) fun h => unwait_keeps h m

theorem unwait_foldl_only (l : List Nat) (s : State) : OnlyChanges [.reqx] s (l.foldl (unwait id) s) :=
  only_foldl (only_refl _ s) fun _ _ hy => only_step (state_updRx_only ..) (by decide) hy

/-- The fabric holds the release no more. -/
def unheld (s : State) (id : Nat) : State := { s with fab := { s.fab with releases := s.fab.releases.filter (fun r => r.1 != id) } }

theorem releaseDone_eq (s : State) (id : Nat) : releaseDone s id =
    ((s.fab.releases.filter (fun r => r.1 == id)).map (fun r => r.2.1)).foldl (unwait id) (unheld s id) := rfl

theorem releaseDone_over (s : State) (id : Nat) : ReleaseOver s (releaseDone s id) id := by
  have hfold := unwait_foldl_only (id := id) ((s.fab.releases.filter (fun r => r.1 == id)).map (fun r => r.2.1)) (unheld s id)
  rw [releaseDone_eq]
  refine ⟨fun x => ?_, fun x hx hid => ?_, only_step hfold (by decide) (only_step (set_fab_only s _) (by decide) (only_refl _ s))⟩
  · rw [hfold.same .fab (by decide), unheld]
    simp
  · exact unwait_foldl _ _ (.inl (List.mem_map.mpr ⟨x, List.mem_filter.mpr ⟨hx, by simpa using hid⟩, rfl⟩))

theorem answer_releases (s : State) (p : Packet) (st d : Nat) : (answer s p st d).fab.releases = s.fab.releases := by
  unfold answer
  split
  · unfold sendPacket
    split
    · split
      · rfl
      · rfl
    · split
      · rfl
      · rfl
  · rfl

theorem ReleaseOver.of_answer (h : ReleaseOver s t id) (p : Packet) (st d : Nat) : ReleaseOver s (answer t p st d) id := by
  have hanswer := answer_only t p st d
  refine ⟨fun x => by rw [answer_releases]; exact h.releases x, fun x hx hid => ?_, only_step hanswer (by decide) h.only⟩
  rw [State.rx, hanswer.same .reqx (by decide)]
  exact h.waits x hx hid

theorem parkReleaseTimeout_runs (hrun : running .banker s = true)
    (hdue : s.fab.releases.any (fun x => x.1 == id && decide (x.2.2 + tierTimeout s ≤ now s)) = true) :
    Runs (.parkReleaseTimeout id) s (fun t => ReleaseOver s t id) := by
  have hrow : exec (.parkReleaseTimeout id) s = execParkReleaseTimeout id s := rfl
  exact runs_of_when (hrow.trans (by rw [execParkReleaseTimeout])) hrun hdue (releaseDone_over s id)

/-- What the fabric's releases are does not enter an answer's way. -/
theorem replies_of_releases {p : Packet} {st d : Nat} {l : List (Nat × Nat × Nat)} (h : Replies p st d { s with fab := { s.fab with releases := l } } t) :
    Replies p st d s t := h

theorem parkReleaseAck_runs (hrun : running .banker s = true) (hcome : carried s port 9 0 none pkt = true) :
    Runs (.parkReleaseAck ⟨⟨port, pkt⟩, id⟩) s (fun t => ReleaseOver s t id ∧ Replies ⟨pkt, 0#4096⟩ St.ok 0 s t) := by
  have hrow : exec (.parkReleaseAck ⟨⟨port, pkt⟩, id⟩) s = execParkReleaseAck ⟨⟨port, pkt⟩, id⟩ s := rfl
  have hreceived := receivedPackets_quiet s port
  refine parkMessage_runs (hrow.trans (by rw [execParkReleaseAck])) hrun hcome rfl ⟨?_, ?_⟩
  · have hover := (releaseDone_over (receivedPackets s port 1) id).of_answer ⟨pkt, 0#4096⟩ St.ok 0
    exact ⟨hover.releases, hover.waits, only_step hover.only (by decide) (only_step hreceived (by decide) (only_refl _ s))⟩
  · have hfab : (releaseDone (receivedPackets s port 1) id).fab = (unheld (receivedPackets s port 1) id).fab := by
      rw [releaseDone_eq, (unwait_foldl_only ..).same .fab (by decide)]
    exact replies_of_received (replies_of_releases (Sys2Proof.Fabric.replies_of_fab hfab (Links.replies_answer _ _ _ _)))

end Sys2Proof.Parks
end

section
/-! Parked runs come and go (R247 to R253, R258, R260, R380, R489). -/

namespace Sys2Proof.Parks

open Sys2Proof Sys2Proof.Machine Sys2Proof.Laws Sys2Proof.Pins
open Sys2Proof.Ends

variable {s t u : State} {slot col st : Nat} {back : Bool} {r : RunCopy}

/-! ## The rows of copies -/

/-- The tiles of a run from one on pass R23 and lie on this device or the companion. -/
def TilesPass (s : State) (slot x y first n : Nat) : Prop :=
  ∀ k, first ≤ k → k < n → tileStatus s (rSeat s slot) (x + k * 16384) (y + k * 16384) = St.ok ∧
    farAddr s (x + k * 16384) = false ∧ farAddr s (y + k * 16384) = false

/-- The run's two ranges are apart and nothing defers or holds them. -/
def PlainRanges (s : State) (x y n : Nat) : Prop :=
  MemOk s ∧ (∀ k, k < n → keyOf s (x + k * 16384) = keyOf s x + k * 16384 ∧ keyOf s (y + k * 16384) = keyOf s y + k * 16384) ∧
    overlaps (keyOf s x) (n * 16384) (keyOf s y) (n * 16384) = false ∧
    noDefer s (keyOf s x) (n * 16384) = true ∧ noDefer s (keyOf s y) (n * 16384) = true ∧ holderOf s (keyOf s y) (n * 16384) = none

theorem runReady_of {x y first n : Nat} (hpass : TilesPass s slot x y first n) (hplain : PlainRanges s x y n) : RunReady s slot x y first n := by
  obtain ⟨hmem, hkeys, hapart, hsrc, hdst, hfree⟩ := hplain
  exact ⟨hpass, hmem, hkeys, hapart, hsrc, hdst, hfree⟩

/-- A copy's tiles stand at their addresses. -/
def TilesCopied (s t : State) (x y first n : Nat) : Prop :=
  (∀ k, first ≤ k → k < n → readBytes t (keyOf s (y + k * 16384)) 16384 = readBytes s (keyOf s (x + k * 16384)) 16384) ∧
    ∀ k, k < keyOf s y + first * 16384 ∨ keyOf s y + n * 16384 ≤ k → memByte t k = memByte s k

theorem tilesCopied_of {x y first n : Nat} (hkeys : ∀ k, k < n → keyOf s (x + k * 16384) = keyOf s x + k * 16384 ∧
    keyOf s (y + k * 16384) = keyOf s y + k * 16384) (h : TilesAt s t (keyOf s x) (keyOf s y) first (first + (n - first))) :
    TilesCopied s t x y first n := by
  refine ⟨fun k hk hlt => ?_, fun k hk => ?_⟩
  · rw [(hkeys k hlt).1, (hkeys k hlt).2]
    exact h.bytes k hk (by omega)
  · rcases Nat.le_total n first with hnone | hsome
    · refine h.rest k ?_
      rw [Nat.sub_eq_zero_of_le hnone, Nat.add_zero]
      exact Nat.lt_or_ge _ _
    · rw [Nat.add_sub_cancel' hsome] at h
      exact h.rest k hk

/-- The copies of a column are marked as done, and no others. -/
def ColumnMarked (col : Nat) (l m : List RunCopy) : Prop :=
  (∀ q, q ∈ m → q.col = col → q.done = true) ∧ m.length = l.length ∧ m.filter (fun q => q.col != col) = l.filter (fun q => q.col != col)

/-- With a turn in flight, a copy that completes is marked alone. -/
theorem RunCopied.waits (h : RunCopied back slot col r s) (hflight : inFlight s (rBind s slot) = true) :
    let t := runEnd back slot col (rBind s slot) (allTiles back slot col s)
    ColumnMarked col (runsOf back (s.rx slot)) (runsOf back (t.rx slot)) ∧ t.binds = s.binds ∧
      TilesCopied s t (runEnds back s slot r).1 (runEnds back s slot r).2 r.next (runTiles s slot) := by
  intro t
  have ht : t = runMarked back slot col (allTiles back slot col s) := by
    have hends := h.ends
    rw [hflight] at hends
    exact hends
  rw [ht]
  exact ⟨h.marks, h.copying.brought.binds, tilesCopied_of h.ready.keys h.copied⟩

/-- With none, a parked run switches at once. -/
theorem RunCopied.parks (h : RunCopied false slot col r s) (hidle : inFlight s (rBind s slot) = false) :
    let t := runEnd false slot col (rBind s slot) (allTiles false slot col s)
    (∀ q, q ∈ (t.rx slot).parks → q.done = false) ∧ { r with done := true, next := max (runTiles s slot) r.next } ∈ (t.rx slot).parked := by
  intro t
  have ht : t = parkSwitch (runMarked false slot col (allTiles false slot col s)) slot := by
    have hends := h.ends
    rw [hidle] at hends
    exact hends
  obtain ⟨hopen, hparked⟩ := parkSwitch_parks (runMarked false slot col (allTiles false slot col s)) slot
  rw [ht]
  refine ⟨hopen, hparked _ ?_ rfl⟩
  have hruns : ((runMarked false slot col (allTiles false slot col s)).rx slot).parks = markRun col ((allTiles false slot col s).rx slot).parks :=
    congrArg ReqX.parks (rx_runMarked false slot col (allTiles false slot col s))
  have hfound : ((allTiles false slot col s).rx slot).parks.find? (fun r => r.col == col && !r.done) =
    some { r with next := r.next + (runTiles s slot - r.next) } := h.copying.found
  have hcol := List.find?_some hfound
  rw [Bool.and_eq_true] at hcol
  rw [hruns]
  refine List.mem_map.mpr ⟨_, List.mem_of_find?_eq_some hfound, ?_⟩
  rw [if_pos hcol.1, show r.next + (runTiles s slot - r.next) = max (runTiles s slot) r.next by omega]

/-- What an open copy that fails does, in either direction. -/
theorem runCopy_fails (hopen : openRun back s slot col = some r) (hactive : rActive s slot = true) (hidle : inFlight s (rBind s slot) = false) :
    let t := runEnd back slot col (rBind s slot) (allTiles back slot col s)
    ((s.rx slot).faultDue = 0 ∧ r.failed = St.ok → r.next < runTiles s slot →
      (back = true → moverWaits s (keyOf s ((runEnds back s slot r).2 + r.next * 16384)) 16384 = false) →
      ∀ st, tileStatus s (rSeat s slot) ((runEnds back s slot r).1 + r.next * 16384) ((runEnds back s slot r).2 + r.next * 16384) = st → st ≠ St.ok →
        Faulted t slot (faultDetail st)) ∧
    (runTiles s slot ≤ r.next → r.failed ≠ St.ok → Faulted t slot (faultDetail r.failed)) := by
  intro t
  refine ⟨fun hstill hmore hroom st hst hne => ?_, fun hover hfail => ?_⟩
  · exact runEnd_of_faulted (allTiles_faulted hopen hmore hstill.1 hroom hactive hidle hst hne)
  · have ht : t = runEnd back slot col (rBind s slot) s := congrArg (runEnd back slot col (rBind s slot)) (allTiles_over hopen hover)
    rw [ht]
    exact runEnd_faulted hopen hfail hactive hidle

/-! ## The obligation -/

/-- Settles O47: copies tile by tile, then the switch; a copy that fails ends its request; messages act on the host's objects. -/
theorem parkedRunsComeAndGo : Obligations.ParkedRunsComeAndGo := by
  unfold Obligations.ParkedRunsComeAndGo
  intro s u slot col owner id seat tiles new obj gap port pkt r hrun b n run parked passes still plain copied detailOf ends marked
  refine ⟨fun hopen => ⟨fun hjobs hstill hpass hplain => ?parks, fun hactive hidle => ?parkFails⟩,
    fun hopen => ⟨fun hjobs hstill hpass hplain => ?returns, fun hactive hidle => ?returnFails⟩,
    fun hcome => ⟨evictionNotice_runs hrun hcome, fun hfrom => parkSpaceRelease_runs hrun hcome hfrom, fun hfrom => ?hosts,
      fun hfrom => ownerChange_runs hrun hcome hfrom⟩, ?releases⟩
  case parks =>
    have hcopied : RunCopied false slot col r s := ⟨hopen, runReady_of hpass hplain, hstill.1, hstill.2, hjobs⟩
    exact ⟨fun hflight => runs_of_running (parkCopy_row ..) hrun (hcopied.waits hflight),
      fun hidle => runs_of_running (parkCopy_row ..) hrun (hcopied.parks hidle)⟩
  case parkFails =>
    obtain ⟨hrefused, hfailed⟩ := runCopy_fails (back := false) hopen hactive hidle
    exact ⟨fun hstill hmore st hst hne => runs_of_running (parkCopy_row ..) hrun (hrefused hstill hmore (fun h => nomatch h) st hst hne).ended,
      fun hover hfail => runs_of_running (parkCopy_row ..) hrun (hfailed hover hfail).ended⟩
  case returns =>
    have hcopied : RunCopied true slot col r s := ⟨hopen, runReady_of hpass hplain, hstill.1, hstill.2, hjobs⟩
    exact ⟨fun hflight => runs_of_running (returnCopy_row ..) hrun (hcopied.waits hflight),
      fun hidle hstate hturn hdue hdead hexpire hall hdone => runs_of_running (returnCopy_row ..) hrun
        (lastBack_closes ⟨hstate, hall, hdone⟩ hcopied hidle hturn hdue ⟨hdead, hexpire⟩)⟩
  case returnFails =>
    obtain ⟨hrefused, hfailed⟩ := runCopy_fails (back := true) hopen hactive hidle
    exact ⟨fun hstill hmore hroom st hst hne => runs_of_running (returnCopy_row ..) hrun (hrefused hstill hmore (fun _ => hroom) st hst hne).ended,
      fun hover hfail => runs_of_running (returnCopy_row ..) hrun (hfailed hover hfail).ended⟩
  case hosts =>
    intro a place
    refine ⟨fun hnone => parkHost_refuses hrun hcome hfrom hnone, fun hsome => ?_⟩
    obtain ⟨t, ht, htaken, hsent, hobjs⟩ := parkHost_takes hrun hcome hfrom hsome
    exact ⟨t, ht, htaken.park, htaken.next, htaken.drawn, hsent, hobjs⟩
  case releases =>
    intro done
    refine ⟨fun hcome => ?_, fun hdue => ?_⟩
    · obtain ⟨t, ht, hover, hreply⟩ := parkReleaseAck_runs hrun hcome (id := id)
      exact ⟨t, ht, ⟨hover.releases, hover.waits, hover.only⟩, hreply⟩
    · obtain ⟨t, ht, hover⟩ := parkReleaseTimeout_runs hrun hdue
      exact ⟨t, ht, hover.releases, hover.waits, hover.only⟩

end Sys2Proof.Parks
end

section
/-! Sync records on the tree of a slice: which devices a record goes to, and what sending it leaves as it is (R355, R369, R370). -/

namespace Sys2Proof.Slices

open Sys2Proof Sys2Proof.Machine Sys2Proof.Laws Sys2Proof.Lasting Sys2Proof.Pins
open Sys2Proof.MailboxService (FieldsApart)

variable {s t u : State} {p up port b : Nat} {w : BitVec 512}

/-! ## The tree -/

/-- The device's place and its slice alone. -/
def placed (s : State) : State := { State.reset with fab := { Fabric.reset with fabId := s.fab.fabId, slice := s.fab.slice } }

/-- The device's place and its slice are as they were. -/
structure SameTree (s t : State) : Prop where
  fabId : t.fab.fabId = s.fab.fabId
  slice : t.fab.slice = s.fab.slice

theorem SameTree.trans (h : SameTree s t) (h' : SameTree t u) : SameTree s u := ⟨h'.fabId.trans h.fabId, h'.slice.trans h.slice⟩

theorem sameTree_of_sliceOf (h : sliceOf t.fab = sliceOf s.fab) : SameTree s t :=
  ⟨congrArg (fun x => x.1.1) h, congrArg (fun x => x.1.2.1) h⟩

section
variable (h : SameTree s t)
include h

theorem SameTree.placed_eq : placed t = placed s := by rw [placed, h.fabId, h.slice, placed]

theorem SameTree.treeKids_eq : treeKids t = treeKids s := by
  change treeKids (placed t) = treeKids (placed s)
  rw [h.placed_eq]

theorem SameTree.treeParent_eq : treeParent t = treeParent s := by
  change treeParent (placed t) = treeParent (placed s)
  rw [h.placed_eq]

theorem SameTree.neighbour_eq (p : Nat) : neighbour t p = neighbour s p := by
  change neighbour (placed t) p = neighbour (placed s) p
  rw [h.placed_eq]

theorem SameTree.treeStep_eq (chip : Nat) : treeStep t chip = treeStep s chip := by
  change treeStep (placed t) chip = treeStep (placed s) chip
  rw [h.placed_eq]

theorem SameTree.treeNext_eq (chip a : Nat) (plus : Bool) : treeNext t chip a plus = treeNext s chip a plus := by
  change treeNext (placed t) chip a plus = treeNext (placed s) chip a plus
  rw [h.placed_eq]

theorem SameTree.passes_eq (target n : Nat) : passes t target n = passes s target n := by
  induction n with
  | zero => rfl
  | succ n ih =>
    funext chip
    rw [passes, passes, h.treeStep_eq, ih]
    simp only [h.treeNext_eq]

theorem SameTree.subtree_eq (chip : Nat) : subtree t chip = subtree s chip := by
  have hblock : blockCoords t t.fab.slice = blockCoords s s.fab.slice := by
    change blockCoords (placed t) (placed t).fab.slice = blockCoords (placed s) (placed s).fab.slice
    rw [h.placed_eq]
  rw [subtree, h.treeStep_eq, h.passes_eq, hblock, h.slice, subtree]

theorem SameTree.syncRec_eq (code b : Nat) (l : List (Fld × Nat)) : syncRec t code b l = syncRec s code b l := by
  rw [syncRec, sliceTag, h.fabId, syncRec, sliceTag]

theorem SameTree.sliceTag_eq : sliceTag t = sliceTag s := by rw [sliceTag, h.fabId, sliceTag]
theorem SameTree.sliceState_eq : sliceState t = sliceState s := by rw [sliceState, h.slice, sliceState]
theorem SameTree.sliceSize_eq : sliceSize t = sliceSize s := by rw [sliceSize, h.slice, sliceSize]
theorem SameTree.isLeader_eq : isLeader t = isLeader s := by rw [isLeader, h.slice, isLeader]
theorem SameTree.sliceBinding_eq (b : Nat) : sliceBinding t b = sliceBinding s b := by rw [sliceBinding, h.slice, sliceBinding]

end

theorem isMatch_of_sliceOf (h : sliceOf t.fab = sliceOf s.fab) (p : Nat) : isMatch t p = isMatch s p := by
  have hstate := congrFun (congrArg (fun x => x.2.2.2) h) p
  change (t.port p).state = (s.port p).state at hstate
  rw [isMatch, portState, hstate, isMatch, portState]

theorem barrierOf_of_sliceOf (h : sliceOf t.fab = sliceOf s.fab) (b : Nat) : barrierOf t b = barrierOf s b := by
  have hbarriers := congrArg (fun x => x.1.2.2.1) h
  exact congrArg (fun l => Tab.get l Barrier.reset b) hbarriers

/-! ## A record is sent -/

theorem sendSync_sent (s : State) (chip : Nat) (w : BitVec 512) (l : List SliceEnt) (h : isMatch s port = true) :
    Out.sync chip w ∈ (sendSync s port chip w l).out := by
  rw [sendSync, h]
  exact (sendParts_lasts ..).sent List.mem_cons_self

theorem toParent_sent (w : BitVec 512) (hp : treeParent s = some p) (hup : neighbour s p = some up) (h : isMatch s p = true) :
    Out.sync up w ∈ (toParent s w).out := by
  rw [toParent, hp]
  simp only [Option.bind_some, hup, Option.map_some]
  exact sendSync_sent s up w [] h

/-- A scatter's record, and the entries behind it, on their way to one child. -/
def toKid (w : BitVec 512) (l : List SliceEnt) (s : State) (k : Nat × Nat) : State :=
  let s := sendSync s k.1 k.2 w l
  if l.isEmpty then s else s.emit (.formEntries k.2 l)

theorem toKids_eq (s : State) (w : BitVec 512) (l : List SliceEnt) : toKids s w l = (treeKids s).foldl (toKid w l) s := rfl

theorem toKid_lasts (s : State) (w : BitVec 512) (l : List SliceEnt) (k : Nat × Nat) : Lasts s (toKid w l s k) := by
  unfold toKid
  split
  · exact sendSync_lasts ..
  · exact lasts_step (lasts_emit ..) (sendSync_lasts ..)

theorem toKid_sent (s : State) (w : BitVec 512) (l : List SliceEnt) {k : Nat × Nat} (h : isMatch s k.1 = true) :
    Out.sync k.2 w ∈ (toKid w l s k).out := by
  have hsent := sendSync_sent s k.2 w l h
  unfold toKid
  split
  · exact hsent
  · exact (lasts_emit ..).sent hsent

theorem toKids_sent (w : BitVec 512) (l : List SliceEnt) {k : Nat × Nat} (hk : k ∈ treeKids s) (h : isMatch s k.1 = true) :
    Out.sync k.2 w ∈ (toKids s w l).out := by
  rw [toKids_eq]
  generalize treeKids s = kids at hk
  induction kids generalizing s with
  | nil => exact absurd hk List.not_mem_nil
  | cons a kids ih =>
    have ha := toKid_lasts s w l a
    obtain rfl | hk := List.mem_cons.mp hk
    · have hrest := lasts_foldl (lasts_refl (toKid w l s k)) (l := kids) fun y k hy => lasts_step (toKid_lasts y w l k) hy
      exact hrest.sent (toKid_sent s w l h)
    · exact ih (by rw [isMatch_of_sliceOf ha.slice]; exact h) hk

/-! ## What sending a record leaves -/

theorem sendSync_quiet (s : State) (port chip : Nat) (w : BitVec 512) (l : List SliceEnt) :
    OnlyChanges [.cores, .fab, .out] s (sendSync s port chip w l) := by
  unfold sendSync
  split
  · exact only_refl _ s
  · refine only_foldl (only_step (state_emit_only ..) (by decide) (only_refl _ s)) fun y i hy => ?_
    refine only_step (Merging.issueAs_quiet y true 1 _ _ _ _ true 0 0 _ (by decide) ?_) (by decide) hy
    simp [FieldsApart, LPkt.CLASS, LPkt.TYPE, LPkt.PLEN]

theorem toParent_quiet (s : State) (w : BitVec 512) : OnlyChanges [.cores, .fab, .out] s (toParent s w) := by
  unfold toParent
  split
  · exact sendSync_quiet ..
  · exact only_refl _ s

theorem toKid_quiet (s : State) (w : BitVec 512) (l : List SliceEnt) (k : Nat × Nat) : OnlyChanges [.cores, .fab, .out] s (toKid w l s k) := by
  unfold toKid
  split
  · exact sendSync_quiet ..
  · exact only_step (state_emit_only ..) (by decide) (sendSync_quiet ..)

theorem toKids_quiet (s : State) (w : BitVec 512) (l : List SliceEnt) : OnlyChanges [.cores, .fab, .out] s (toKids s w l) := by
  rw [toKids_eq]
  exact only_foldl (only_refl _ s) fun y k hy => only_step (toKid_quiet ..) (by decide) hy

theorem toKids_binds (s : State) (w : BitVec 512) (l : List SliceEnt) : (toKids s w l).binds = s.binds := (toKids_quiet ..).same .binds (by decide)

end Sys2Proof.Slices
end

section
/-! A composition leaves what has been sent, the turn blocks and the slice as they were (R40, R288 to R299). -/

namespace Sys2Proof.Slices

open Sys2Proof Sys2Proof.Machine Sys2Proof.Laws Sys2Proof.Lasting Sys2Proof.Phases

set_option linter.tactic.unusedName false

variable {s t u : State} {b slot turn : Nat}

/-! ## Reservations (R120, R121) -/

theorem allocSet_lasts {seat n f : Nat} (h : allocSet s slot seat n = some (t, f)) : Lasts s t := by
  unfold allocSet at h
  split at h
  · cases h
  · split at h
    · cases h
    · obtain ⟨f, -, heq⟩ := Option.map_eq_some_iff.mp h
      cases heq
      exact lasts_step (lasts_of_only (state_updSeat_only ..) (by decide)) (lasts_bank s _ rfl)

theorem reserveSets_lasts {n : Nat} {l : List Nat} {sets l' : List (Nat × Nat)} (h : reserveSets slot n l (s, sets) = .ok (t, l')) :
    Lasts s t := by
  induction l generalizing s sets with
  | nil => cases h; exact lasts_refl _
  | cons col rest ih =>
    rw [reserveSets] at h
    split at h
    · exact ih h
    · split at h
      next hset => exact lasts_step (ih h) (allocSet_lasts hset)
      · cases h

theorem reserveRuns_lasts {bd : Option Nat} {l : List Nat} {runs l' : List (Nat × Nat × Nat)}
    (h : reserveRuns slot b turn bd l (s, runs) = .ok (t, l')) : Lasts s t := by
  induction l generalizing s runs with
  | nil => cases h; exact lasts_refl _
  | cons col rest ih =>
    rw [reserveRuns] at h
    split at h
    · exact ih h
    · split at h
      next hrun => exact lasts_step (ih h) (allocRun_lasts hrun)
      · cases h

theorem reserveFor_lasts {q : Nat} {sets l : List (Nat × Nat)} {runs l' : List (Nat × Nat × Nat)}
    (h : reserveFor s slot turn q sets runs = .ok (t, l, l')) : Lasts s t := by
  unfold reserveFor at h
  extract_lets e bd r tp k cols full at h
  split at h
  · cases h
  next hsets =>
    split at h
    · cases h
    next hruns =>
      cases h
      exact lasts_step (reserveRuns_lasts hruns) (reserveSets_lasts hsets)

theorem reserveDown_lasts (s : State) (slot turn : Nat) (sets : List (Nat × Nat)) (runs : List (Nat × Nat × Nat)) (q : Nat) :
    ∀ a b c : Bool, Lasts s (reserveDown s slot turn sets runs a b c q).s := by
  induction q with
  | zero => exact fun _ _ _ => lasts_refl s
  | succ q ih =>
    intro a b c
    unfold reserveDown
    split
    next h => exact reserveFor_lasts h
    · exact ih ..
    · exact ih ..

/-- A count that a condition asks for. -/
theorem lasts_ite {c : Prop} [Decidable c] (ht : Lasts s t) (hu : Lasts s u) : Lasts s (if c then t else u) := by
  split
  · exact ht
  · exact hu

theorem countWhere_lasts (c : Bool) (s : State) (b k : Nat) : Lasts s (if c then s.countBind b k 1 else s) :=
  lasts_ite (lasts_countBind ..) (lasts_refl s)

theorem reserve_lasts (s : State) (slot turn q : Nat) (sets : List (Nat × Nat)) (runs : List (Nat × Nat × Nat)) :
    Lasts s (reserve s slot turn q sets runs).s := by
  unfold reserve
  extract_lets b l x v0 v1 v2 v3
  have h1 : Lasts s v1 := lasts_step (countWhere_lasts ..) (reserveDown_lasts ..)
  have h2 : Lasts v1 v2 := lasts_ite (lasts_of_only (state_countSeat_only ..) (by decide)) (lasts_refl v1)
  exact lasts_step (countWhere_lasts ..) (lasts_step h2 h1)

/-! ## Entries (R153, R298) -/

theorem lasts_of_fst {β : Type} {p : State × β} {d : β} (e : p = (t, d)) (h : Lasts s p.1) : Lasts s t := by
  subst e
  exact h

theorem formDec_lasts (turn : Nat) (s : State) (c : Cand) (want : Nat) : Lasts s (formDec turn s c want).1 := by
  unfold formDec
  repeat' first
    | with_reducible exact lasts_refl _
    | extract_lets y1 y2 y3 y4
    | with_reducible apply lasts_step (reserve_lasts ..)
    | with_reducible apply lasts_step (lasts_countBind ..)
    | split
    | (with_reducible refine lasts_of_fst (by assumption) ?_)
    | subst y4
    | subst y3
    | subst y2
    | subst y1

theorem leaveOut_lasts (s : State) (b k : Nat) (prev : Option Form) : Lasts s (leaveOut s b k prev) := countWhere_lasts ..

theorem formPre_lasts (turn : Nat) (s : State) (c : Cand) (want : Nat) (prev : Option Form) : Lasts s (formPre turn s c want prev).1 := by
  unfold formPre
  repeat' first
    | with_reducible exact lasts_refl _
    | extract_lets y1 y2 y3 y4 y5 y6 y7 y8 y9 y10 y11 y12 y13
    | with_reducible apply lasts_step (leaveOut_lasts ..)
    | with_reducible apply lasts_step (reserve_lasts ..)
    | with_reducible apply lasts_step (lasts_countBind ..)
    | split
    | subst y13
    | subst y12
    | subst y11
    | subst y10
    | subst y9

/-! ## The passes (R296, R297) -/

theorem budgeted_lasts (b : Nat) (c : Comp) (x : Cand) : Lasts c.s (budgeted b c x).1.s := by
  unfold budgeted
  simp only
  split
  · exact lasts_countBind ..
  · split
    · exact lasts_countBind ..
    · exact lasts_refl c.s

theorem lasts_setStake (s : State) (n : Nat) (w : BitVec 512) : Lasts s (s.setStake n w) := lasts_of_only (state_setStake_only ..) (by decide)

theorem enter_lasts (c : Comp) (x : Cand) (budget : Bool) {res : State × Option Form} (h : Lasts c.s res.1) :
    Lasts c.s (enter c x budget res).s := by
  unfold enter
  split
  · exact h
  · simp only
    split
    · exact h
    · exact lasts_step (lasts_setStake ..) h

theorem pass1_lasts (b turn : Nat) (c : Comp) (x : Cand) : Lasts c.s (pass1 b turn c x).s := by
  have hcount := budgeted_lasts b c x
  unfold pass1
  split
  next e => rw [e] at hcount; exact hcount
  next e => rw [e] at hcount; exact lasts_step (enter_lasts _ _ _ (formDec_lasts ..)) hcount

theorem pass2_lasts (b turn : Nat) (c : Comp) (x : Cand) : Lasts c.s (pass2 b turn c x).s := by
  have hcount := budgeted_lasts b c x
  unfold pass2
  split
  next e => rw [e] at hcount; exact hcount
  next e => rw [e] at hcount; exact lasts_step (enter_lasts _ _ _ (formPre_lasts ..)) hcount

theorem pass3_lasts (turn : Nat) (c : Comp) (x : Cand) : Lasts c.s (pass3 turn c x).s := by
  unfold pass3
  split
  · exact lasts_refl c.s
  · exact enter_lasts _ _ _ (formDec_lasts ..)

theorem pass4_lasts (turn : Nat) (c : Comp) (x : Cand) : Lasts c.s (pass4 turn c x).s := by
  unfold pass4
  split
  · exact lasts_refl c.s
  · exact enter_lasts _ _ _ (formPre_lasts ..)

theorem grow_lasts (turn : Nat) (c : Comp) (f : Form) : Lasts c.s (grow turn c f).s := by
  have hform := formPre_lasts turn c.s f.cand (min f.cand.offer (f.q + c.w)) (some f)
  unfold grow
  split
  · exact lasts_refl c.s
  · split
    next e => rw [e] at hform; exact hform
    next e =>
      rw [e] at hform
      exact lasts_ite hform (lasts_step (lasts_setStake ..) hform)

theorem candOf_lasts (turn : Nat) (s : State) (n : Nat) : Lasts s (candOf turn s n).1 := by
  unfold candOf
  extract_lets e b r st v w
  split
  · exact lasts_refl s
  · split
    · split
      extract_lets v' d'
      have hv' : Lasts v v' := by
        unfold v'
        split
        · exact lasts_countBind ..
        · exact lasts_refl v
      exact lasts_step hv' (readCons_lasts ..)
    · split
      · split
        · exact countWhere_lasts ..
        · exact readCons_lasts ..
      · exact lasts_refl s

theorem lasts_foldl_comp {α : Type} {f : Comp → α → Comp} (h : ∀ c a, Lasts c.s (f c a).s) (l : List α) (c : Comp) :
    Lasts c.s (l.foldl f c).s := by
  induction l generalizing c with
  | nil => exact lasts_refl c.s
  | cons a l ih => exact lasts_step (ih _) (h c a)

theorem lasts_foldl_fst {α β : Type} {f : State × β → α → State × β} (h : ∀ y a, Lasts y.1 (f y a).1) (l : List α) :
    ∀ y : State × β, Lasts y.1 (l.foldl f y).1 := by
  induction l with
  | nil => exact fun y => lasts_refl y.1
  | cons a l ih => exact fun y => lasts_step (ih _) (h y a)

theorem composePasses_lasts (s : State) (b turn : Nat) : Lasts s (composePasses s b turn).s := by
  unfold composePasses
  split
  next s1 cands e =>
  have hcands : Lasts s s1 := by
    rw [show s1 = (s1, cands).1 from rfl, ← e]
    refine lasts_foldl_fst (fun y n => ?_) _ (s, [])
    have hcand := candOf_lasts turn y.1 n
    split
    next h => rw [h] at hcand; exact hcand
    next h => rw [h] at hcand; exact hcand
  extract_lets y1 dec pre c c1 c2 chunks c3 c4 c5 out
  have hrefill : Lasts s1 y1 := lasts_foldl (lasts_refl s1) fun _ _ hy => lasts_step (lasts_of_only (refill_only ..) (by decide)) hy
  have h1 : Lasts y1 c1.s := lasts_foldl_comp (fun _ _ => pass1_lasts ..) _ c
  have h2 : Lasts c1.s c2.s := lasts_foldl_comp (fun _ _ => pass2_lasts ..) _ c1
  have h3 : Lasts c2.s c3.s := lasts_foldl_comp (fun _ _ => pass3_lasts ..) _ c2
  have h4 : Lasts c3.s c4.s := lasts_foldl_comp (fun _ _ => grow_lasts ..) _ c3
  have h5 : Lasts c4.s c5.s := lasts_foldl_comp (fun _ _ => pass4_lasts ..) _ c4
  have hpassed := lasts_step h5 (lasts_step h4 (lasts_step h3 (lasts_step h2 (lasts_step h1 (lasts_step hrefill hcands)))))
  exact lasts_step (lasts_of_only (dropReads_only ..) (by decide)) (lasts_step (lasts_countBind ..) (lasts_step (lasts_countBind ..) hpassed))

theorem composed_lasts (s : State) (b : Nat) : Lasts s (composed s b).s :=
  lasts_step (composePasses_lasts ..) (lasts_step (allocReturns_lasts ..)
    (lasts_foldl (lasts_refl s) fun _ _ hy => lasts_step (lasts_of_only (markExpired_only ..) (by decide)) hy))

/-! ## The close of a turn -/

theorem noteBlocks_lasts (s : State) (b : Nat) : Lasts s (noteBlocks s b) := by
  refine lasts_foldl (lasts_refl s) fun y n hy => ?_
  extract_lets e seat note w
  have hnote : ∀ v on a, Lasts s v → Lasts s (note v on a) := fun v on a hv =>
    lasts_ite (lasts_step (lasts_of_only (state_noteWindow_only ..) (by decide)) (lasts_step (noteBad_lasts ..) hv)) hv
  have hw : Lasts s w := hnote _ _ _ (hnote _ _ _ hy)
  split
  · exact hnote _ _ _ (hnote _ _ _ hw)
  · exact hw

/-- What has been sent stays sent; the slice, the turn counters and the times of the last commits are as they were. -/
structure Keeps (s t : State) : Prop where
  out : ∃ l, t.out = l ++ s.out
  slice : sliceOf t.fab = sliceOf s.fab
  turn : ∀ b, bTurn (t.bind b) = bTurn (s.bind b)
  time : ∀ b, LTurnBlk.COMMIT_TIME.get (t.bind b).blk = LTurnBlk.COMMIT_TIME.get (s.bind b).blk

theorem keeps_of_lasts (h : Lasts s t) : Keeps s t := ⟨h.out, h.slice, h.turn, h.commitTime⟩

theorem keeps_refl (s : State) : Keeps s s := keeps_of_lasts (lasts_refl s)

theorem keeps_step (h' : Keeps t u) (h : Keeps s t) : Keeps s u := by
  obtain ⟨l, hl⟩ := h.out
  obtain ⟨k, hk⟩ := h'.out
  exact ⟨⟨k ++ l, by rw [hk, hl, List.append_assoc]⟩, h'.slice.trans h.slice, fun b => (h'.turn b).trans (h.turn b),
    fun b => (h'.time b).trans (h.time b)⟩

theorem Keeps.sent (h : Keeps s t) {o : Out} (ho : o ∈ s.out) : o ∈ t.out := by
  obtain ⟨l, hl⟩ := h.out
  rw [hl]
  exact List.mem_append_right l ho

theorem keeps_foldl {α : Type} {f : State → α → State} {l : List α} (h1 : Keeps s t) (h : ∀ y a, Keeps y (f y a)) :
    Keeps s (l.foldl f t) := by
  induction l generalizing t with
  | nil => exact h1
  | cons a l ih => exact ih (keeps_step (h t a) h1)

/-- A turn block that keeps its counter and the time of its last commit. -/
theorem keeps_updBind (s : State) (b : Nat) {f : Bind → Bind} (hturn : ∀ x, bTurn (f x) = bTurn x)
    (htime : ∀ x, LTurnBlk.COMMIT_TIME.get (f x).blk = LTurnBlk.COMMIT_TIME.get x.blk) : Keeps s (s.updBind b f) := by
  refine ⟨⟨[], rfl⟩, rfl, fun k => ?_, fun k => ?_⟩
  · by_cases hk : k = b
    · subst hk
      rw [bind_updBind, hturn]
    · rw [State.updBind, setBind_bind_other _ _ _ _ hk]
  · by_cases hk : k = b
    · subst hk
      rw [bind_updBind, htime]
    · rw [State.updBind, setBind_bind_other _ _ _ _ hk]

theorem idleBlk_keeps (w : BitVec 192) : LTurnBlk.TURN.get (idleBlk w) = LTurnBlk.TURN.get w ∧
    LTurnBlk.COMMIT_TIME.get (idleBlk w) = LTurnBlk.COMMIT_TIME.get w ∧ LTurnBlk.FAULTED.get (idleBlk w) = LTurnBlk.FAULTED.get w :=
  ⟨MailboxService.get_setAll_apart w (by simp [MailboxService.FieldsApart, LTurnBlk.TURN, LTurnBlk.PHASE, LTurnBlk.TOKENS, LTurnBlk.REQS, LTurnBlk.LAYER]),
    MailboxService.get_setAll_apart w (by simp [MailboxService.FieldsApart, LTurnBlk.COMMIT_TIME, LTurnBlk.PHASE, LTurnBlk.TOKENS, LTurnBlk.REQS, LTurnBlk.LAYER]),
    MailboxService.get_setAll_apart w (by simp [MailboxService.FieldsApart, LTurnBlk.FAULTED, LTurnBlk.PHASE, LTurnBlk.TOKENS, LTurnBlk.REQS, LTurnBlk.LAYER])⟩

/-- A binding that falls IDLE, its turn's entries gone. -/
theorem idled_keeps (s : State) (b : Nat) : Keeps s (s.updBind b (fun x => { x with blk := idleBlk x.blk, turn := [] })) :=
  keeps_updBind s b (fun x => (idleBlk_keeps x.blk).1) fun x => (idleBlk_keeps x.blk).2.1

theorem closedBlock_keeps (s : State) (b : Nat) (c : Comp) (ents : List TEnt) (neg : Bool) : Keeps s (closedBlock s b c ents neg) := by
  refine keeps_updBind s b (fun x => ?_) fun x => ?_
  · refine MailboxService.get_setAll_apart x.blk ?_
    simp [MailboxService.FieldsApart, LTurnBlk.TURN, LTurnBlk.PHASE, LTurnBlk.PATH, LTurnBlk.TOKENS, LTurnBlk.REQS, LTurnBlk.LAYER]
  · refine MailboxService.get_setAll_apart x.blk ?_
    simp [MailboxService.FieldsApart, LTurnBlk.COMMIT_TIME, LTurnBlk.PHASE, LTurnBlk.PATH, LTurnBlk.TOKENS, LTurnBlk.REQS, LTurnBlk.LAYER]

theorem closeTurn_keeps (s : State) (b : Nat) : Keeps s (closeTurn s b) := by
  cases hcomposes : composes s b with
  | false =>
    rw [closeTurn, if_pos (by simp [hcomposes])]
    exact keeps_refl s
  | true =>
    by_cases hturn : bTurn (s.bind b) = 2 ^ 64 - 1
    · rw [closeTurn, if_neg (by simp [hcomposes]), if_pos hturn]
      exact keeps_step (keeps_of_lasts (endLimit_lasts ..)) (idled_keeps s b)
    · have hcomposed := composed_lasts s b
      rw [closeTurn_eq hcomposes hturn]
      split
      · exact keeps_step (idled_keeps ..) (keeps_of_lasts (lasts_step (endExpired_lasts ..) hcomposed))
      · extract_lets v ents neg
        have hheld : Lasts v (composedHeld v (composed s b)) := lasts_of_only (composedHeld_only ..) (by decide)
        have hv : Lasts s v := lasts_step (noteBlocks_lasts ..) hcomposed
        exact keeps_step (keeps_of_lasts (closeCounted_lasts ..)) (keeps_step (closedBlock_keeps ..) (keeps_of_lasts (lasts_step hheld hv)))

theorem closeIdle_keeps (s : State) (b : Nat) : Keeps s (closeIdle s b) := by
  unfold closeIdle
  extract_lets v
  have hv : Keeps s v := keeps_of_lasts (lasts_ite (allocReturns_lasts ..) (lasts_refl s))
  split
  · exact hv
  · split
    · exact keeps_step (keeps_of_lasts (scatterTurn_lasts ..)) (keeps_step (closeTurn_keeps ..) hv)
    · exact keeps_step (keeps_of_lasts (lasts_of_only (dropReads_only ..) (by decide))) hv

end Sys2Proof.Slices
end

section
/-! The steps of a commit leave what has been sent, the turn blocks and the slice as they were (R48, R123 to R139). -/

namespace Sys2Proof.Slices

open Sys2Proof Sys2Proof.Machine Sys2Proof.Laws Sys2Proof.Lasting Sys2Proof.Phases

set_option linter.tactic.unusedName false

variable {s t u : State} {b slot turn : Nat}

theorem lasts_updRx (s : State) (n : Nat) (f : ReqX → ReqX) : Lasts s (s.updRx n f) := lasts_of_only (state_updRx_only ..) (by decide)
theorem lasts_setRx (s : State) (n : Nat) (x : ReqX) : Lasts s (s.setRx n x) := lasts_of_only (state_setRx_only ..) (by decide)
theorem lasts_updReq (s : State) (n : Nat) (l : List (Fld × Nat)) : Lasts s (s.updReq n l) := lasts_of_only (state_updReq_only ..) (by decide)
theorem lasts_setMir (s : State) (n : Nat) (x : Mirror) : Lasts s (s.setMir n x) := lasts_of_only (state_setMir_only ..) (by decide)
theorem lasts_rawWrite (s : State) (k : Nat) (bs : List Byte) : Lasts s (rawWrite s k bs) := lasts_of_only (rawWrite_only ..) (by decide)

/-- Steps that a list orders, one after the other. -/
theorem lasts_fold {α : Type} {f : State → α → State} (h : ∀ y a, Lasts y (f y a)) (l : List α) (s : State) : Lasts s (l.foldl f s) :=
  lasts_foldl (lasts_refl s) fun y a hy => lasts_step (h y a) hy

/-! ## Mirrored seats (R377) -/

theorem mirrorMessage_lasts (s : State) (n bytes : Nat) : Lasts s (mirrorMessage s n bytes) := lasts_step (message_lasts ..) (lasts_setMir ..)

theorem sendJournal_lasts (s : State) (n : Nat) (items : List JournalItem) : Lasts s (sendJournal s n items) :=
  lasts_ite (lasts_refl s) (lasts_step (mirrorMessage_lasts ..) (lasts_emit ..))

theorem tellMirror_lasts (s : State) (n code arg : Nat) (w : BitVec 256) : Lasts s (tellMirror s n code arg w) :=
  lasts_step (mirrorMessage_lasts ..) (lasts_emit ..)

theorem dupRiser_lasts (s : State) (slot k n : Nat) : Lasts s (dupRiser s slot k n) := lasts_ite (sendJournal_lasts ..) (lasts_refl s)

theorem sealSeat_lasts (old : State) (b : Nat) (s : State) (n : Nat) : Lasts s (sealSeat old b s n) := by
  unfold sealSeat
  split
  · exact lasts_setMir ..
  · exact lasts_step (tellMirror_lasts ..) (lasts_step (lasts_setMir ..) (sendJournal_lasts ..))

/-! ## An entry's rows, sets and runs (R123, R134) -/

theorem countDraft_lasts (s : State) (b turn : Nat) (o : Outcome) : Lasts s (countDraft s b turn o) := by
  unfold countDraft
  extract_lets l v1 v2 x r
  have h2 : Lasts s v2 := lasts_ite (lasts_step (lasts_countBind ..) (lasts_countBind ..)) (lasts_step (lasts_countBind ..) (lasts_countBind ..))
  split
  · exact lasts_refl s
  · split
    · exact lasts_countBind ..
    · split
      · exact h2
      · split
        · exact lasts_step (lasts_setRx ..) h2
        · split
          · exact lasts_step (lasts_countBind ..) (lasts_step (lasts_setRx ..) h2)
          · exact lasts_step (lasts_setRx ..) h2

theorem compactTree_lasts (s : State) (b : Nat) (e : TEnt) (rows : List Nat) : Lasts s (compactTree s b e rows) := by
  refine lasts_fold (fun y i => ?_) _ s
  dsimp only
  split
  · split
    · exact lasts_refl y
    · exact lasts_fold (fun v lane => lasts_step (dupRiser_lasts ..) (lasts_of_only (copyEntry_only ..) (by decide))) _ y
  · exact lasts_refl y

theorem endSeed_lasts (s : State) (b : Nat) (e : TEnt) : Lasts s (endSeed s b e) := by
  unfold endSeed
  extract_lets slot x v1 v2
  have h1 : Lasts s v1 := by
    unfold v1
    split
    · split
      · exact refDrop_lasts ..
      · exact lasts_refl s
    · exact lasts_refl s
  have h2 : Lasts v1 v2 := by
    unfold v2
    split
    · exact refDrop_lasts ..
    · exact lasts_refl v1
  exact lasts_ite (lasts_refl s) (lasts_step (lasts_updRx ..) (lasts_step h2 h1))

theorem idxInsert_lasts (s : State) (b p i : Nat) (w : BitVec 256) (toks : List Nat) : Lasts s (idxInsert s b p i w toks) := by
  unfold idxInsert
  extract_lets h keys same
  split
  · exact lasts_countBind ..
  · split
    · exact lasts_countBind ..
    · exact lasts_step (lasts_updBind _ b fun _ => rfl) (lasts_rawWrite ..)

theorem flushColumn_lasts (s : State) (b : Nat) (e : TEnt) (keep col : Nat) : Lasts s (flushColumn s b e keep col) := by
  unfold flushColumn
  extract_lets slot q r tp j0 first parent
  split
  · extract_lets toks h v1 v2 v3 v4
    have h1 : Lasts s v1 := lasts_updBind s b fun _ => rfl
    have h3 : Lasts s v3 := lasts_step (ptWrite_lasts ..) (lasts_step (lasts_countBind ..) h1)
    have h4 : Lasts v3 v4 := lasts_ite (idxInsert_lasts ..) (lasts_refl v3)
    exact lasts_step (lasts_updRx ..) (lasts_step h4 h3)
  · exact lasts_refl s

theorem commitSets_lasts (s : State) (b : Nat) (e : TEnt) (newLen : Nat) : Lasts s (commitSets s b e newLen) := by
  unfold commitSets
  extract_lets slot tp cols heldCol held v1 v2 v3
  have h1 : Lasts s v1 := lasts_fold (fun y j => flushColumn_lasts ..) _ s
  have h2 : Lasts v1 v2 := lasts_fold (fun y x => unreserve_lasts ..) _ v1
  have h3 : Lasts v2 v3 := lasts_fold (fun y x => freeSet_lasts ..) _ v2
  exact lasts_step (lasts_updRx ..) (lasts_step h3 (lasts_step h2 h1))

theorem commitEntry_lasts (turn b time : Nat) (s : State) (o : Outcome) : Lasts s (commitEntry turn b time s o) := by
  unfold commitEntry
  extract_lets e slot v1 v2 q rows newLen n used v3 v4 runs v5
  have h2 : Lasts s v2 := lasts_step (countWhere_lasts ..) (countDraft_lasts ..)
  have h4 : Lasts v2 v4 := lasts_step (endSeed_lasts ..) (lasts_ite (compactTree_lasts ..) (lasts_refl v2))
  have h5 : Lasts s v5 := lasts_step (lasts_updReq ..) (lasts_step h4 h2)
  split
  · exact lasts_step (endReq_lasts ..) (lasts_step (dropReserved_lasts ..) h2)
  · split
    · exact lasts_step (endWith_lasts ..) (lasts_step (dropReserved_lasts ..) h5)
    · exact lasts_step (ptHeader_lasts ..) (lasts_step (commitSets_lasts ..) h5)

theorem commitOther_lasts (time : Nat) (s : State) (n : Nat) : Lasts s (commitOther time s n) := by
  unfold commitOther
  repeat' first
    | with_reducible exact lasts_refl _
    | extract_lets
    | with_reducible apply lasts_step (endReq_lasts ..)
    | with_reducible apply lasts_step (resumeSwitch_lasts ..)
    | with_reducible apply lasts_step (pauseEffect_lasts ..)
    | with_reducible apply lasts_step (parkSwitch_lasts ..)
    | split

theorem pauseEntry_lasts (b : Nat) (s : State) (o : Outcome) : Lasts s (pauseEntry b s o) := by
  unfold pauseEntry
  extract_lets slot v
  have hv : Lasts s v := countWhere_lasts ..
  split
  · exact lasts_refl s
  · split
    · exact lasts_step (pauseEffect_lasts ..) hv
    · exact lasts_step (lasts_ite (pauseEffect_lasts ..) (lasts_refl v)) hv

theorem commitObjects_lasts (s : State) (b : Nat) : Lasts s (commitObjects s b) :=
  lasts_step (switchObjects_lasts ..) (lasts_fold (fun _ _ => lasts_of_only (freeKept_only ..) (by decide)) _ s)

theorem ringTurn_lasts (time : Nat) (s : State) (slot : Nat) (o : Option Outcome) : Lasts s (ringTurn time s slot o) := by
  unfold ringTurn
  extract_lets n v
  have hv : Lasts s v := by
    unfold v
    split
    · exact lasts_fold (fun _ _ => ringPut_lasts ..) _ s
    · exact lasts_refl s
  split
  · exact lasts_step (ringEnd_lasts ..) (lasts_step (readCons_lasts ..) hv)
  · exact lasts_step (lasts_ite (ringHeader_lasts ..) (lasts_refl v)) hv

theorem settleLost_lasts (s : State) (slot : Nat) : Lasts s (settleLost s slot) := lasts_ite (endNow_lasts ..) (lasts_refl s)

end Sys2Proof.Slices
end

section
/-! The commit point of a slice binding: its turn counter, the time of its commit, and what it leaves (R48, R360, R370, R373). -/

namespace Sys2Proof.Slices

open Sys2Proof Sys2Proof.Machine Sys2Proof.Laws Sys2Proof.Lasting Sys2Proof.Phases
open Sys2Proof.MailboxService (FieldsApart get_setAll_apart)
open Sys2Proof.Fabric (get_setAll_of_mem)

set_option linter.tactic.unusedName false

variable {s t u : State} {b slot turn time : Nat}

/-! ## One commit (R48) -/

/-- The binding's block at its commit point. -/
def timed (s : State) (b turn time : Nat) : State :=
  s.updBind b (fun x => { x with
    blk := setAll x.blk [(LTurnBlk.TURN, turn), (LTurnBlk.COMMIT_TIME, time)], turn := [], prov := 0, relDue := true, waitBarrier := false })

theorem timed_block (s : State) (b turn time : Nat) :
    bTurn ((timed s b turn time).bind b) = turn % 2 ^ 64 ∧ LTurnBlk.COMMIT_TIME.get ((timed s b turn time).bind b).blk = time % 2 ^ 64 ∧
      bFaulted ((timed s b turn time).bind b) = bFaulted (s.bind b) := by
  have hapart : ([(LTurnBlk.TURN, turn), (LTurnBlk.COMMIT_TIME, time)].map (·.1)).Pairwise FieldsApart := by
    simp [FieldsApart, LTurnBlk.TURN, LTurnBlk.COMMIT_TIME]
  rw [timed, bind_updBind]
  refine ⟨get_setAll_of_mem _ (f := LTurnBlk.TURN) (by simp) hapart (by decide),
    get_setAll_of_mem _ (f := LTurnBlk.COMMIT_TIME) (by simp) hapart (by decide), ?_⟩
  rw [bFaulted, Fld.on, get_setAll_apart (s.bind b).blk (by simp [FieldsApart, LTurnBlk.FAULTED, LTurnBlk.TURN, LTurnBlk.COMMIT_TIME])]
  rfl

/-- The end of a commit: the next close, or an IDLE binding. -/
def nextTurn (s : State) (b : Nat) : State := if composes s b then closeTurn s b else s.updBind b (fun x => { x with blk := idleBlk x.blk })

theorem commitTurn_stages (s : State) (b time : Nat) : ∃ v w, Lasts s v ∧ Lasts (timed v b (bTurn (s.bind b) + 1) time) w ∧
    Lasts (nextTurn w b) (commitTurn s b time) := by
  unfold commitTurn
  extract_lets old mirrored v1 ents turn v2 outs charges inTurn others ringers v3 v4 v5 v6 bank v8 v9 v10 v11 v12 v13 v14 v15 rung v16 v17 v18
  have h1 : Lasts s v1 := lasts_fold (fun _ _ => lasts_setMir ..) _ s
  have hturn : turn = bTurn (s.bind b) + 1 := by rw [← h1.turn b]
  have h2 : Lasts v1 v2 := applyDue_lasts ..
  have h3 : Lasts v2 v3 := lasts_fold (fun _ _ => commitEntry_lasts ..) _ v2
  have h4 : Lasts v3 v4 := lasts_fold (fun _ _ => commitOther_lasts ..) _ v3
  have h5 : Lasts v4 v5 := lasts_fold (fun _ _ => pauseEntry_lasts ..) _ v4
  have h8 : Lasts v6 v8 := lasts_bank v6 _ rfl
  have h9 : Lasts v8 v9 := commitObjects_lasts ..
  have h10 : Lasts v9 v10 := lasts_fold (fun _ _ => lasts_of_only (refill_only ..) (by decide)) _ v9
  have h11 : Lasts v10 v11 := lasts_fold (fun _ _ => lasts_of_only (debit_only ..) (by decide)) _ v10
  have h12 : Lasts v11 v12 := lasts_fold (fun _ _ => lasts_of_only (sampleTokens_only ..) (by decide)) _ v11
  have h13 : Lasts v12 v13 := lasts_fold (fun y _ => lasts_ite (lasts_refl y) (lasts_updReq ..)) _ v12
  have h14 : Lasts v13 v14 := lasts_fold (fun _ _ => lasts_updRx ..) _ v13
  have h15 : Lasts v14 v15 := lasts_fold (fun _ _ => ringTurn_lasts ..) _ v14
  have h16 : Lasts v15 v16 := lasts_fold (fun _ _ => ringVector_lasts ..) _ v15
  have h17 : Lasts v16 v17 := lasts_fold (fun _ _ => sealSeat_lasts ..) _ v16
  have hearly := lasts_step h5 (lasts_step h4 (lasts_step h3 (lasts_step h2 h1)))
  have hcommitted := lasts_step h13 (lasts_step h12 (lasts_step h11 (lasts_step h10 (lasts_step h9 h8))))
  have hlate := lasts_step h17 (lasts_step h16 (lasts_step h15 (lasts_step h14 hcommitted)))
  refine ⟨v5, v17, hearly, ?_, lasts_fold (fun _ _ => settleLost_lasts ..) _ v18⟩
  rw [← hturn]
  exact hlate

theorem nextTurn_keeps (s : State) (b : Nat) : Keeps s (nextTurn s b) := by
  unfold nextTurn
  split
  · exact closeTurn_keeps ..
  · exact keeps_updBind s b (fun x => (idleBlk_keeps x.blk).1) fun x => (idleBlk_keeps x.blk).2.1

/-- A commit leaves what has been sent and the slice; the binding's counter has advanced, with the commit's time. -/
theorem commitTurn_gives (s : State) (b : Nat) (htime : time < 2 ^ 64) :
    (∀ o ∈ s.out, o ∈ (commitTurn s b time).out) ∧ sliceOf (commitTurn s b time).fab = sliceOf s.fab ∧
      bTurn ((commitTurn s b time).bind b) = (bTurn (s.bind b) + 1) % 2 ^ 64 ∧
      LTurnBlk.COMMIT_TIME.get ((commitTurn s b time).bind b).blk = time := by
  obtain ⟨v, w, hv, hw, hrest⟩ := commitTurn_stages s b time
  have hlate : Keeps (timed v b (bTurn (s.bind b) + 1) time) (commitTurn s b time) :=
    keeps_step (keeps_of_lasts hrest) (keeps_step (nextTurn_keeps w b) (keeps_of_lasts hw))
  obtain ⟨hturn, hcommit, -⟩ := timed_block v b (bTurn (s.bind b) + 1) time
  refine ⟨fun o ho => hlate.sent (hv.sent ho), hlate.slice.trans hv.slice, (hlate.turn b).trans hturn, ?_⟩
  rw [hlate.time b, hcommit, Nat.mod_eq_of_lt htime]

/-- Where no next turn closes here, the binding is IDLE after the commit, and FAULTED if it was. -/
theorem commitTurn_idle (h : ∀ w, sliceOf w.fab = sliceOf s.fab → composes w b = false) (time : Nat) :
    bPhase ((commitTurn s b time).bind b) = 0 ∧ bFaulted ((commitTurn s b time).bind b) = bFaulted (s.bind b) := by
  obtain ⟨v, w, hv, hw, hrest⟩ := commitTurn_stages s b time
  have hnext : nextTurn w b = w.updBind b (fun x => { x with blk := idleBlk x.blk }) := by
    rw [nextTurn, h w (hw.slice.trans hv.slice), if_neg Bool.false_ne_true]
  rw [hrest.phase, hrest.faulted, hnext, bind_updBind]
  refine ⟨idleBlk_phase .., ?_⟩
  have hsame : bFaulted { w.bind b with blk := idleBlk (w.bind b).blk } = bFaulted (w.bind b) := by
    rw [bFaulted, Fld.on, (idleBlk_keeps (w.bind b).blk).2.2]
    rfl
  exact hsame.trans ((hw.faulted b).trans ((timed_block ..).2.2.trans (hv.faulted b)))

end Sys2Proof.Slices
end

section
/-! A commit scatter at a slice device: the flags that ride on it, the commit, and the turn that the leader has closed (R360, R370, R373). -/

namespace Sys2Proof.Slices

open Sys2Proof Sys2Proof.Machine Sys2Proof.Laws Sys2Proof.Lasting Sys2Proof.Phases
open Sys2Proof.MailboxService (FieldsApart get_setAll_apart get_setAll_cons)
open Sys2Proof.Fabric (get_setAll_of_mem)

set_option linter.tactic.unusedName false

variable {s t u : State} {b slot turn time : Nat}

/-! ## A new state of the slice -/

theorem sliceState_setSlice (s : State) {k : Nat} (h : k < 8) : sliceState (setSlice s [(LSliceSt.STATE, k)]) = k := by
  refine (get_setAll_of_mem s.fab.slice (f := LSliceSt.STATE) (v := k) (by simp) (by simp) (by decide)).trans ?_
  exact Nat.mod_eq_of_lt h

/-- A field of the slice's register other than its STATE. -/
theorem get_setSlice (s : State) (k : Nat) {f : Fld} (h : FieldsApart f LSliceSt.STATE) :
    f.get (setSlice s [(LSliceSt.STATE, k)]).fab.slice = f.get s.fab.slice :=
  get_setAll_apart s.fab.slice (by simpa using h)

theorem isLeader_setSlice (s : State) (k : Nat) : isLeader (setSlice s [(LSliceSt.STATE, k)]) = isLeader s := by
  rw [isLeader, Fld.on, get_setSlice s k (by simp [FieldsApart, LSliceSt.LEADER, LSliceSt.STATE]), isLeader, Fld.on]

theorem sliceBinding_iff (s : State) (b : Nat) :
    sliceBinding s b = true ↔ sliceState s ≠ 0 ∧ (LSliceSt.BINDINGS.get s.fab.slice).testBit b = true := by
  rw [sliceBinding, Bool.and_eq_true, bne_iff_ne, sliceState]

theorem sliceBinding_setSlice {k : Nat} (hk : k < 8) (hk0 : k ≠ 0) (h : sliceBinding s b = true) :
    sliceBinding (setSlice s [(LSliceSt.STATE, k)]) b = true := by
  refine (sliceBinding_iff ..).mpr ⟨by rwa [sliceState_setSlice s hk], ?_⟩
  rw [get_setSlice s k (by simp [FieldsApart, LSliceSt.BINDINGS, LSliceSt.STATE])]
  exact ((sliceBinding_iff ..).mp h).2

theorem sliceEvent_lasts (s : State) : Lasts s (sliceEvent s) := deviceEvent_lasts ..

/-! ## The flags of a scatter (R373) -/

/-- What has been sent stays sent; the bindings keep what they own, and the slice its leader and its bindings. -/
structure Rides (s t : State) : Prop where
  sent : ∀ o ∈ s.out, o ∈ t.out
  own : ∀ b, ownOf (t.bind b) = ownOf (s.bind b)
  leader : isLeader t = isLeader s
  binding : ∀ b, sliceBinding s b = true → sliceBinding t b = true

theorem rides_of_lasts (h : Lasts s t) : Rides s t :=
  have htree := sameTree_of_sliceOf h.slice
  ⟨fun _ ho => h.sent ho, h.own, htree.isLeader_eq, fun b hb => (htree.sliceBinding_eq b).trans hb⟩

theorem rides_refl (s : State) : Rides s s := rides_of_lasts (lasts_refl s)

theorem rides_step (h' : Rides t u) (h : Rides s t) : Rides s u :=
  ⟨fun o ho => h'.sent o (h.sent o ho), fun b => (h'.own b).trans (h.own b), h'.leader.trans h.leader, fun b hb => h'.binding b (h.binding b hb)⟩

theorem rides_setSlice (s : State) {k : Nat} (hk : k < 8) (hk0 : k ≠ 0) : Rides s (setSlice s [(LSliceSt.STATE, k)]) :=
  ⟨fun _ ho => ho, fun _ => rfl, isLeader_setSlice s k, fun _ hb => sliceBinding_setSlice hk hk0 hb⟩

theorem endFold_lasts (l : List Nat) (s : State) : Lasts s (l.foldl (fun s n => endNow s n 3 2) s) :=
  lasts_fold (fun _ _ => endNow_lasts ..) l s

theorem resetAtCommit_lasts (s : State) (b : Nat) : Lasts s (resetAtCommit s b) := by
  unfold resetAtCommit
  extract_lets v
  have hv : Lasts s v := lasts_fold (fun _ _ => lasts_updRx ..) _ s
  refine lasts_step (lasts_fold (fun y k => ?_) _ v) hv
  split
  · exact lasts_refl y
  · split
    · exact lasts_updBind y k fun _ => rfl
    · exact lasts_step (endFold_lasts ..) (lasts_updBind y k fun _ => rfl)

/-- The flags of a scatter that take effect before its commit. -/
def flagged (s : State) (b : Nat) (hold reset : Bool) : State :=
  let s := if hold && sliceState s == 2 then sliceEvent (setSlice s [(LSliceSt.STATE, 3)]) else s
  if reset then resetAtCommit (setSlice s [(LSliceSt.STATE, 4)]) b else s

theorem flagged_rides (s : State) (b : Nat) (hold reset : Bool) : Rides s (flagged s b hold reset) := by
  unfold flagged
  extract_lets v
  have hv : Rides s v := by
    unfold v
    split
    · exact rides_step (rides_of_lasts (sliceEvent_lasts _)) (rides_setSlice s (by decide) (by decide))
    · exact rides_refl s
  split
  · exact rides_step (rides_of_lasts (resetAtCommit_lasts ..)) (rides_step (rides_setSlice v (by decide) (by decide)) hv)
  · exact hv

/-- What ends a commit at a slice device: a barrier that stands anew, the count, and no mark. -/
def closedCommit (s : State) (b : Nat) : State :=
  (countSlice (setBarrier s b Barrier.reset) 0x010).updBind b (fun x => { x with marks := 0 })

theorem closedCommit_own (s : State) (b : Nat) : ownOf ((closedCommit s b).bind b) = ownOf (s.bind b) ∧ (closedCommit s b).out = s.out := by
  rw [closedCommit, bind_updBind]
  exact ⟨rfl, rfl⟩

theorem sliceCommit_eq (s : State) (b time : Nat) (hold reset : Bool) :
    sliceCommit s b time hold reset = closedCommit (commitTurn (flagged s b hold reset) b time) b := by
  unfold sliceCommit closedCommit flagged
  extract_lets
  rfl

theorem turn_of_own {x y : Bind} (h : ownOf x = ownOf y) : bTurn x = bTurn y := congrArg (fun x => x.2.2.2.2.2.1) h
theorem time_of_own {x y : Bind} (h : ownOf x = ownOf y) : LTurnBlk.COMMIT_TIME.get x.blk = LTurnBlk.COMMIT_TIME.get y.blk :=
  congrArg (fun x => x.2.2.2.2.2.2) h
theorem phase_of_own {x y : Bind} (h : ownOf x = ownOf y) : bPhase x = bPhase y := congrArg (fun x => x.2.2.1) h
theorem faulted_of_own {x y : Bind} (h : ownOf x = ownOf y) : bFaulted x = bFaulted y := congrArg (fun x => x.2.2.2.1) h

/-- The commit of a slice binding: what has been sent stays, the counter advances and the block has the commit's time. -/
theorem sliceCommit_gives (s : State) (b : Nat) (hold reset : Bool) (htime : time < 2 ^ 64) :
    (∀ o ∈ s.out, o ∈ (sliceCommit s b time hold reset).out) ∧
      bTurn ((sliceCommit s b time hold reset).bind b) = (bTurn (s.bind b) + 1) % 2 ^ 64 ∧
      LTurnBlk.COMMIT_TIME.get ((sliceCommit s b time hold reset).bind b).blk = time := by
  have hrides := flagged_rides s b hold reset
  obtain ⟨hsent, -, hturn, hcommit⟩ := commitTurn_gives (flagged s b hold reset) b htime
  rw [turn_of_own (hrides.own b)] at hturn
  rw [sliceCommit_eq]
  generalize commitTurn (flagged s b hold reset) b time = w at hsent hturn hcommit
  obtain ⟨hown, hout⟩ := closedCommit_own w b
  refine ⟨fun o ho => ?_, (turn_of_own hown).trans hturn, (time_of_own hown).trans hcommit⟩
  rw [hout]
  exact hsent o (hrides.sent o ho)

theorem composes_of_member (hmember : isLeader s = false) (hb : sliceBinding s b = true) : composes s b = false := by
  rw [isLeader] at hmember
  rw [composes, hb, hmember]
  simp

/-- At a member the binding is IDLE after the commit, and FAULTED if it was: it composes no turn of its own. -/
theorem sliceCommit_idle (hmember : isLeader s = false) (hb : sliceBinding s b = true) (time : Nat) (hold reset : Bool) :
    bPhase ((sliceCommit s b time hold reset).bind b) = 0 ∧ bFaulted ((sliceCommit s b time hold reset).bind b) = bFaulted (s.bind b) := by
  have hrides := flagged_rides s b hold reset
  have hidle := commitTurn_idle (s := flagged s b hold reset) (b := b) (fun w hw => by
    have htree := sameTree_of_sliceOf hw
    exact composes_of_member (by rw [htree.isLeader_eq, hrides.leader, hmember]) (by rw [htree.sliceBinding_eq]; exact hrides.binding b hb)) time
  rw [sliceCommit_eq]
  generalize commitTurn (flagged s b hold reset) b time = w at hidle
  have hown := (closedCommit_own w b).1
  exact ⟨(phase_of_own hown).trans hidle.1, (faulted_of_own hown).trans (hidle.2.trans (faulted_of_own (hrides.own b)))⟩

/-! ## A turn from the leader's scatter (R360) -/

/-- The binding holds the turn that the scatter carries. -/
def Taken (t : State) (b : Nat) (entries : List SliceEnt) : Prop :=
  bPhase (t.bind b) = 1 ∧ (t.bind b).turn.map (fun e => (e.len, e.draft, e.smask, e.maskAt, e.far)) =
    entries.map (fun e => (e.len, e.draft, e.smask, e.maskAt, e.sets))

theorem takeTurn_keeps (s : State) (b : Nat) (entries : List SliceEnt) : Keeps s (takeTurn s b entries) := by
  unfold takeTurn
  split
  · exact keeps_refl s
  · refine keeps_step (keeps_of_lasts (lasts_of_only (settleSlot_only _) (by decide))) (keeps_updBind s b (fun x => ?_) fun x => ?_)
    · refine get_setAll_apart x.blk ?_
      simp [FieldsApart, LTurnBlk.TURN, LTurnBlk.PHASE, LTurnBlk.PATH, LTurnBlk.TOKENS, LTurnBlk.REQS, LTurnBlk.LAYER]
    · refine get_setAll_apart x.blk ?_
      simp [FieldsApart, LTurnBlk.COMMIT_TIME, LTurnBlk.PHASE, LTurnBlk.PATH, LTurnBlk.TOKENS, LTurnBlk.REQS, LTurnBlk.LAYER]

theorem takeTurn_taken {entries : List SliceEnt} (hents : entries ≠ []) (hfault : bFaulted (s.bind b) = false) (hflight : inFlight s b = false) :
    Taken (takeTurn s b entries) b entries := by
  have hempty : entries.isEmpty = false := by rwa [List.isEmpty_eq_false_iff]
  unfold takeTurn
  rw [hempty, hfault, hflight]
  simp only [Bool.or_self, Bool.false_eq_true, if_false]
  rw [Taken, bind_of_binds ((settleSlot_only _).same .binds (by decide)), bind_updBind]
  refine ⟨?_, ?_⟩
  · refine get_setAll_cons (s.bind b).blk 1 (f := LTurnBlk.PHASE) (by decide) ?_
    simp [FieldsApart, LTurnBlk.PHASE, LTurnBlk.PATH, LTurnBlk.TOKENS, LTurnBlk.REQS, LTurnBlk.LAYER]
  · simp

end Sys2Proof.Slices
end

section
/-! Timers of a slice: a formation's records again, its end after 10 s, and a commit barrier that has waited too long (R358, R371, R372). -/

namespace Sys2Proof.Slices

open Sys2Proof Sys2Proof.Machine Sys2Proof.Laws Sys2Proof.Lasting Sys2Proof.Pins Sys2Proof.Phases
open Sys2Proof.MailboxService (FieldsApart get_setAll_apart)
open Sys2Proof.Fabric (get_setAll_of_mem)

set_option linter.tactic.unusedName false

variable {s t u : State} {b p up slot turn time : Nat}

/-- The port to the parent is MATCH. -/
def ToParent (s : State) (p up : Nat) : Prop := treeParent s = some p ∧ neighbour s p = some up ∧ isMatch s p = true

/-- Every child behind a MATCH port has been sent the record. -/
def Told (s : State) (w : BitVec 512) (t : State) : Prop := ∀ k, k ∈ treeKids s → isMatch s k.1 = true → Out.sync k.2 w ∈ t.out

theorem toParent_of_sliceOf (h : sliceOf t.fab = sliceOf s.fab) (hp : ToParent s p up) : ToParent t p up := by
  have htree := sameTree_of_sliceOf h
  obtain ⟨hparent, hup, hmatch⟩ := hp
  exact ⟨htree.treeParent_eq.trans hparent, (htree.neighbour_eq p).trans hup, (isMatch_of_sliceOf h p).trans hmatch⟩

theorem told_of_toKids (s : State) (w : BitVec 512) (l : List SliceEnt) : Told s w (toKids s w l) := fun _ hk hmatch => toKids_sent w l hk hmatch

theorem told_of_sliceOf {w : BitVec 512} (h : sliceOf t.fab = sliceOf s.fab) (ht : Told t w u) : Told s w u := by
  intro k hk hmatch
  rw [← (sameTree_of_sliceOf h).treeKids_eq] at hk
  exact ht k hk ((isMatch_of_sliceOf h k.1).trans hmatch)

theorem told_sent {w : BitVec 512} {v : State} (h : ∀ o ∈ u.out, o ∈ v.out) (ht : Told s w u) : Told s w v := fun k hk hmatch => h _ (ht k hk hmatch)

/-! ## A member's formation records (R358) -/

/-- The record of a member's subtree for one digest. -/
def formRec (s : State) (d : Nat × Nat) : BitVec 512 := syncRec s 0x10 0 [(LSync.FORM, 1), (LSync.DIGEST, d.1), (LSync.MEMBERS, d.2)]

/-- Sends one of the records. -/
def sendForm (s : State) (d : Nat × Nat) : State := toParent s (formRec s d)

theorem formSend_eq (s : State) : formSend s =
    (formSums s).foldl sendForm { s with fab := { s.fab with formSent := now s } } := rfl

theorem sendForm_lasts (s : State) (d : Nat × Nat) : Lasts s (sendForm s d) := toParent_lasts ..

theorem formSend_lasts (s : State) : Lasts { s with fab := { s.fab with formSent := now s } } (formSend s) := by
  rw [formSend_eq]
  exact lasts_fold sendForm_lasts _ _

theorem sendForms_sent (l : List (Nat × Nat)) : ∀ s : State, ToParent s p up → ∀ d ∈ l, Out.sync up (formRec s d) ∈ (l.foldl sendForm s).out := by
  induction l with
  | nil => exact fun _ _ _ h => absurd h List.not_mem_nil
  | cons a l ih =>
    intro s hp d hd
    have ha := sendForm_lasts s a
    obtain rfl | hd := List.mem_cons.mp hd
    · obtain ⟨hparent, hup, hmatch⟩ := hp
      exact (lasts_fold sendForm_lasts l _).sent (toParent_sent _ hparent hup hmatch)
    · have hrest := ih (sendForm s a) (toParent_of_sliceOf ha.slice hp) d hd
      rwa [formRec, (sameTree_of_sliceOf ha.slice).syncRec_eq] at hrest

theorem formSend_sent (hp : ToParent s p up) (d : Nat × Nat) (hd : d ∈ formSums s) : Out.sync up (formRec s d) ∈ (formSend s).out := by
  rw [formSend_eq]
  exact sendForms_sent (formSums s) { s with fab := { s.fab with formSent := now s } } hp d hd

theorem formResend_gives (hrun : running .banker s = true) (hstate : sliceState s = 1) (hmember : isLeader s = false) (hp : ToParent s p up)
    (hkids : formKids s = true) (hdue : s.fab.formSent + 1000000 ≤ now s) : Runs .formResend s (fun t =>
      (∀ d ∈ formSums s, Out.sync up (formRec s d) ∈ t.out) ∧ t.fab.formSent = now s ∧ t.fab.slice = s.fab.slice) := by
  have hrow : exec .formResend s = execFormResend s := rfl
  refine runs_of_when (hrow.trans (by rw [execFormResend])) hrun (by simp [hstate, hmember, hkids, hdue]) ?_
  have hkeep := (formSend_lasts s).slice
  exact ⟨formSend_sent hp, congrArg (fun x => x.2.1.2) hkeep, congrArg (fun x => x.1.2.1) hkeep⟩

/-! ## A formation that ends (R358) -/

theorem formFail_gives (s : State) : sliceState (formFail s) = 0 ∧ LFabId.STAG.get (formFail s).fab.fabId = 0 ∧
    LSliceSt.LAST_STATUS.get (formFail s).fab.slice = St.slice ∧ ∀ o ∈ s.out, o ∈ (formFail s).out := by
  have hevent := sliceEvent_lasts (leaveSlice s St.slice)
  have htree := sameTree_of_sliceOf hevent.slice
  have hleft : (leaveSlice s St.slice).fab.slice = setAll 0#128 [(LSliceSt.CUT, cutMask s), (LSliceSt.LAST_STATUS, St.slice)] := rfl
  have hid : (leaveSlice s St.slice).fab.fabId = LFabId.STAG.set s.fab.fabId 0 := rfl
  have hapart : ([(LSliceSt.CUT, cutMask s), (LSliceSt.LAST_STATUS, St.slice)].map (·.1)).Pairwise FieldsApart := by
    simp [FieldsApart, LSliceSt.CUT, LSliceSt.LAST_STATUS]
  refine ⟨?_, ?_, ?_, fun o ho => hevent.sent ho⟩
  · rw [formFail, htree.sliceState_eq, sliceState, hleft,
      get_setAll_apart 0#128 (by simp [FieldsApart, LSliceSt.STATE, LSliceSt.CUT, LSliceSt.LAST_STATUS])]
    rfl
  · rw [formFail, htree.fabId, hid]
    exact MailboxService.get_set_same LFabId.STAG s.fab.fabId 0 (by decide)
  · rw [formFail, htree.slice, hleft]
    exact get_setAll_of_mem 0#128 (f := LSliceSt.LAST_STATUS) (v := St.slice) (by simp) hapart (by decide)

theorem formTimeout_gives (hrun : running .banker s = true) (hstate : sliceState s = 1) (hdue : s.fab.formAt + 10000000000 ≤ now s) :
    Runs .formTimeout s (fun t => sliceState t = 0 ∧ LFabId.STAG.get t.fab.fabId = 0 ∧ LSliceSt.LAST_STATUS.get t.fab.slice = St.slice) := by
  have hrow : exec .formTimeout s = execFormTimeout s := rfl
  obtain ⟨hleft, htag, hlast, -⟩ := formFail_gives s
  exact runs_of_when (hrow.trans (by rw [execFormTimeout])) hrun (by simp [hstate, hdue]) ⟨hleft, htag, hlast⟩

/-! ## A barrier that is late (R371, R372) -/

theorem sliceBinding_of_late (h : barrierLate s b ≠ 0) : sliceBinding s b = true := by
  by_contra hno
  refine h ?_
  simp [barrierLate, hno]

/-- The record that a member gathers of its barrier. -/
def gatherRec (s : State) (b abandon : Nat) : BitVec 512 :=
  syncRec s 0x10 b [(LSync.ABANDON, max abandon (barrierOf s b).flags), (LSync.TURN, bTurn (s.bind b) + 1), (LSync.MEMBERS, (barrierOf s b).members + 1)]

theorem barrierOf_setBarrier (s : State) (b : Nat) (x : Barrier) : barrierOf (setBarrier s b x) b = x := get_set_self ..

/-- The barrier as a member's GATHER leaves it. -/
def gathered (s : State) (b : Nat) : State := setBarrier s b { barrierOf s b with sent := true, sentAt := now s }

theorem sendGather_eq (s : State) (b abandon : Nat) : sendGather s b abandon = toParent (gathered s b) (gatherRec s b abandon) := rfl

theorem sendGather_gives (s : State) (b abandon : Nat) : (sendGather s b abandon).binds = s.binds ∧
    barrierOf (sendGather s b abandon) b = { barrierOf s b with sent := true, sentAt := now s } ∧
    (sendGather s b abandon).fab.sliceCtr = s.fab.sliceCtr := by
  rw [sendGather_eq]
  have hkeep := (toParent_lasts (gathered s b) (gatherRec s b abandon)).slice
  refine ⟨(toParent_quiet ..).same .binds (by decide), ?_, congrArg (fun x => x.1.2.2.2) hkeep⟩
  rw [barrierOf_of_sliceOf hkeep, gathered, barrierOf_setBarrier]

theorem sendGather_sent (hp : ToParent s p up) (b abandon : Nat) : Out.sync up (gatherRec s b abandon) ∈ (sendGather s b abandon).out := by
  obtain ⟨hparent, hup, hmatch⟩ := hp
  rw [sendGather_eq]
  exact toParent_sent (s := gathered s b) _ hparent hup hmatch

/-- The record that ends a turn at every device of the slice. -/
def abandonRec (s : State) (b : Nat) : BitVec 512 :=
  syncRec s 0x11 b [(LSync.ABANDON, 1), (LSync.TURN, bTurn (s.bind b) + 1), (LSync.MEMBERS, 1)]

theorem abandonLocal_keeps (h : inFlight s b = true) : (∀ o ∈ s.out, o ∈ (abandonLocal s b).out) ∧
    sliceOf (abandonLocal s b).fab = sliceOf s.fab ∧ bFaulted ((abandonLocal s b).bind b) = true := by
  have hlocal := abandonLocal_lasts h
  exact ⟨fun o ho => hlocal.sent ho, hlocal.slice, (hlocal.faulted b).trans (abandoned_block s b).2⟩

theorem abandonTurn_told (h : inFlight s b = true) (hb : sliceBinding s b = true) (hleader : isLeader s = true) :
    Told s (abandonRec s b) (abandonTurn s b) := by
  obtain ⟨-, hkeep, -⟩ := abandonLocal_keeps h
  have htree := sameTree_of_sliceOf hkeep
  unfold abandonTurn
  extract_lets turn v
  have hv : isLeader v = true := htree.isLeader_eq.trans hleader
  rw [h, hb, hv]
  intro k hk hmatch
  have hk' : k ∈ treeKids (setBarrier v b Barrier.reset) := by
    change k ∈ treeKids v
    rwa [htree.treeKids_eq]
  have hmatch' : isMatch (setBarrier v b Barrier.reset) k.1 = true := (isMatch_of_sliceOf hkeep k.1).trans hmatch
  have hsent := toKids_sent (syncRec v 0x11 b [(LSync.ABANDON, 1), (LSync.TURN, turn), (LSync.MEMBERS, 1)]) [] hk' hmatch'
  rw [htree.syncRec_eq] at hsent
  rw [abandonRec, htree.syncRec_eq]
  exact hsent

/-- A binding that is loaded is FAULTED after faultBinding, which leaves what has been sent and the slice. -/
theorem faultBinding_gives (s : State) (b : Nat) : (∀ o ∈ s.out, o ∈ (faultBinding s b).out) ∧
    sliceOf (faultBinding s b).fab = sliceOf s.fab ∧ ((s.bind b).loaded = true → bFaulted ((faultBinding s b).bind b) = true) := by
  unfold faultBinding
  split
  next hflight =>
    obtain ⟨hsent, hkeep, hfault⟩ := abandonLocal_keeps hflight
    exact ⟨hsent, hkeep, fun _ => hfault⟩
  next hflight =>
    split
    next hor =>
      refine ⟨fun _ ho => ho, rfl, fun hload => ?_⟩
      simpa [hload] using hor
    next hor =>
      have hevent := deviceEvent_lasts (setPhase s b [(LTurnBlk.FAULTED, 1)]) LEv.FAULTED
      refine ⟨fun o ho => hevent.sent ho, hevent.slice, fun _ => (hevent.faulted b).trans ?_⟩
      rw [bind_setPhase, bFaulted, Fld.on, get_setAll_of_mem _ (f := LTurnBlk.FAULTED) (v := 1) (by simp) (by simp) (by decide)]
      rfl

theorem memberTimeout_gives (hrun : running .banker s = true) (hlate : barrierLate s b = 1) (hmember : isLeader s = false) :
    Runs (.barrierTimeout b) s (fun t => (barrierOf t b).sent = true ∧ t.binds = s.binds ∧
      (ToParent s p up → Out.sync up (gatherRec s b 1) ∈ t.out)) := by
  have hrow : exec (.barrierTimeout b) s = execBarrierTimeout b s := rfl
  refine runs_of_when (hrow.trans (by rw [execBarrierTimeout])) hrun (by simp [hlate]) ?_
  rw [if_pos hlate, hmember, if_neg Bool.false_ne_true]
  obtain ⟨hbinds, hbarrier, -⟩ := sendGather_gives s b 1
  exact ⟨by rw [hbarrier], hbinds, fun hp => sendGather_sent hp b 1⟩

theorem leaderTimeout_gives (hrun : running .banker s = true) (hlate : barrierLate s b = 1) (hleader : isLeader s = true)
    (hflight : inFlight s b = true) : Runs (.barrierTimeout b) s (fun t => bFaulted (t.bind b) = true ∧ Told s (abandonRec s b) t) := by
  have hrow : exec (.barrierTimeout b) s = execBarrierTimeout b s := rfl
  refine runs_of_when (hrow.trans (by rw [execBarrierTimeout])) hrun (by simp [hlate]) ?_
  rw [if_pos hlate, hleader, if_pos rfl]
  have hb := sliceBinding_of_late (s := s) (b := b) (by simp [hlate])
  exact ⟨(abandonTurn_block (s := countSlice s 0x018) hflight).2, abandonTurn_told (s := countSlice s 0x018) hflight hb hleader⟩

theorem scatterTimeout_gives (hrun : running .banker s = true) (hlate : barrierLate s b = 2) :
    Runs (.barrierTimeout b) s (fun t => sliceState t = 5 ∧ ((s.bind b).loaded = true → bFaulted (t.bind b) = true)) := by
  have hrow : exec (.barrierTimeout b) s = execBarrierTimeout b s := rfl
  refine runs_of_when (hrow.trans (by rw [execBarrierTimeout])) hrun (by simp [hlate]) ?_
  rw [if_neg (by simp [hlate])]
  extract_lets u
  obtain ⟨-, -, hfault⟩ := faultBinding_gives u b
  generalize faultBinding u b = v at hfault
  have hevent := sliceEvent_lasts (setSlice v [(LSliceSt.STATE, 5)])
  refine ⟨(sameTree_of_sliceOf hevent.slice).sliceState_eq.trans (sliceState_setSlice v (by decide)), fun hload => (hevent.faulted b).trans (hfault hload)⟩

end Sys2Proof.Slices
end

section
/-! Formation records and a reset's completion as they reach a device from its children (R358, R370, R373). -/

namespace Sys2Proof.Slices

open Sys2Proof Sys2Proof.Machine Sys2Proof.Laws Sys2Proof.Lasting Sys2Proof.Pins Sys2Proof.Phases
open Sys2Proof.MailboxService (FieldsApart get_setAll_apart)
open Sys2Proof.Fabric (get_setAll_of_mem)

set_option linter.tactic.unusedName false

variable {s t u : State} {b p up port slot turn time : Nat} {pkt : BitVec 256} {w : BitVec 512}

/-! ## The row of a barrier message -/

theorem receivedPackets_lasts (s : State) (port n : Nat) : Lasts s (receivedPackets s port n) := by
  have hcount : ∀ v : State, Lasts v (v.countPort port 0x018 n) := fun v =>
    lasts_of_coll (state_countPort_only ..) (keepsSteps_updPort v port fun _ => rfl)
  have hexpect := keepsSteps_updPort s port (f := fun x => { x with expect := (x.expect + n) % 4096, tries := 0 }) fun _ => rfl
  exact lasts_step (hcount _) (lasts_of_coll (state_updPort_only ..) hexpect)

/-- A barrier message that the guard lets in. -/
theorem barrierMessage_runs {i : Instr} {n : Nat} {guard : State → Bool} {f : State → State} {P : State → Prop}
    (hrow : exec i s = messageRow .link port 0 n pkt guard f s) (hrun : running .link s = true)
    (hcome : carried s port 9 0 none pkt = true) (hguard : guard (receivedPackets s port (max 1 (cdiv n 512))) = true)
    (hP : P (answer (f (receivedPackets s port (max 1 (cdiv n 512)))) ⟨pkt, 0#4096⟩ St.ok 0)) : Runs i s P := by
  refine runs_of_when (hrow.trans (by rw [messageRow])) hrun hcome ?_
  simp only [hguard, if_true]
  exact hP

theorem SameTree.fromChild_eq (h : SameTree s t) (port : Nat) (pkt : BitVec 256) (w : BitVec 512) :
    fromChild t port pkt w = fromChild s port pkt w := by
  rw [fromChild, h.sliceState_eq, h.sliceTag_eq, h.treeKids_eq, fromChild]

/-- A record of this slice from a child, as the row takes it. -/
structure FromChild (s : State) (port : Nat) (pkt : BitVec 256) (w : BitVec 512) : Prop where
  run : running .link s = true
  come : carried s port 9 0 none pkt = true
  child : fromChild s port pkt w = true

/-- The device has received the record's packet. -/
abbrev received (s : State) (port : Nat) : State := receivedPackets s port 1

theorem received_lasts (s : State) (port : Nat) : Lasts s (received s port) := receivedPackets_lasts ..

theorem received_tree (s : State) (port : Nat) : SameTree s (received s port) := sameTree_of_sliceOf (received_lasts s port).slice

/-- The state after the record has taken effect and has been acknowledged. -/
abbrev gatherOut (s : State) (port : Nat) (pkt : BitVec 256) (w : BitVec 512) : State :=
  answer (gatherRecord port w (received s port)) ⟨pkt, 0#4096⟩ St.ok 0

theorem barrierGather_runs {P : State → Prop} (h : FromChild s port pkt w) (hP : P (gatherOut s port pkt w)) :
    Runs (.barrierGather ⟨port, pkt⟩ w) s P := by
  have hrow : exec (.barrierGather ⟨port, pkt⟩ w) s = execBarrierGather ⟨port, pkt⟩ w s := rfl
  have hone : max 1 (cdiv 64 512) = 1 := by decide
  refine barrierMessage_runs (hrow.trans (by rw [execBarrierGather])) h.run h.come ?_ (by rw [hone]; exact hP)
  exact ((sameTree_of_sliceOf (receivedPackets_lasts ..).slice).fromChild_eq port pkt w).trans h.child

/-! ## A formation record (R358) -/

theorem sumNat_singleton (n : Nat) : sumNat [n] = n := by simp [sumNat]

theorem not_mem_filter {l : List (Nat × Nat × Nat)} (r : Nat × Nat × Nat) : r ∉ l.filter (fun g => !(g.1 == r.1 && g.2.1 == r.2.1)) := by
  intro h
  have hno := (List.mem_filter.mp h).2
  simp at hno

/-- The newest record stays unless it alone tells of more members than the child's subtree has. -/
theorem mem_formTrim {r : Nat × Nat × Nat} (hport : r.1 = port) (size n : Nat) : ∀ l : List (Nat × Nat × Nat), r ∉ l →
    r ∈ formTrim port size n (l ++ [r]) ∨ size < r.2.2 := by
  induction n with
  | zero => exact fun l _ => .inl (by rw [formTrim]; simp)
  | succ n ih =>
    intro l hl
    rw [formTrim]
    split
    · exact .inl (by simp)
    next hmore =>
      rw [List.find?_append]
      cases hfind : l.find? (fun r => r.1 == port) with
      | some q =>
        have hq := List.mem_of_find?_eq_some hfind
        simp only [Option.some_or, List.erase_append_left _ hq]
        exact ih (l.erase q) (fun h => hl (List.mem_of_mem_erase h))
      | none =>
        refine .inr ?_
        have hnone : l.filter (fun r => r.1 == port) = [] := by
          rw [List.filter_eq_nil_iff]
          exact fun x hx => List.find?_eq_none.mp hfind x hx
        rw [formFrom, List.filter_append, hnone] at hmore
        simpa [hport, sumNat_singleton] using hmore

theorem neighbour_of_kid {k : Nat × Nat} (h : k ∈ treeKids s) : neighbour s k.1 = some k.2 := by
  obtain ⟨q, -, hq⟩ := List.mem_filterMap.mp h
  split at hq
  · cases hq
  next n hn =>
    split at hq
    · cases hq
      exact hn
    · cases hq

theorem formTake_got (s : State) (port : Nat) (w : BitVec 512) :
    (port, LSync.DIGEST.get w, LSync.MEMBERS.get w) ∈ (formTake s port w).fab.formGot ∨
      ∀ k, k ∈ treeKids s → k.1 = port → subtree s k.2 < LSync.MEMBERS.get w := by
  unfold formTake
  extract_lets r l size
  obtain hmem | hless := mem_formTrim (port := port) (r := r) rfl size l.length _ (not_mem_filter (l := s.fab.formGot) r)
  · exact .inl hmem
  · refine .inr fun k hk hport => ?_
    obtain ⟨q, hq⟩ : ∃ q, (treeKids s).find? (fun k => k.1 == port) = some q :=
      Option.isSome_iff_exists.mp (List.find?_isSome.mpr ⟨k, hk, by simpa using hport⟩)
    have hqport : q.1 = port := by simpa using List.find?_some hq
    have hsame : q.2 = k.2 := by
      have hn := neighbour_of_kid (List.mem_of_find?_eq_some hq)
      rw [hqport, ← hport, neighbour_of_kid hk] at hn
      exact (Option.some.inj hn).symm
    have hsize : size = subtree s k.2 := by
      show ((((treeKids s).find? (fun k => k.1 == port)).map (fun k => subtree s k.2)).getD 0) = _
      rw [hq, Option.map_some, Option.getD_some, hsame]
    rw [← hsize]
    exact hless

/-- The tree and what a formation has gathered are as they were. -/
structure SameForm (s t : State) : Prop where
  tree : SameTree s t
  got : t.fab.formGot = s.fab.formGot
  body : t.fab.formBody = s.fab.formBody

theorem received_form (s : State) (port : Nat) : SameForm s (received s port) :=
  ⟨received_tree s port, congrArg (fun x => x.2.1.1) (received_lasts s port).slice, rfl⟩

theorem SameForm.formTake (h : SameForm s t) (port : Nat) (w : BitVec 512) : SameForm (formTake s port w) (formTake t port w) := by
  refine ⟨⟨h.tree.fabId, h.tree.slice⟩, ?_, h.body⟩
  unfold Machine.formTake
  dsimp only
  rw [h.got, h.tree.treeKids_eq]
  simp only [h.tree.subtree_eq]

theorem SameForm.formKids_eq (h : SameForm s t) : formKids t = formKids s := by
  rw [formKids, h.tree.treeKids_eq, h.got, formKids]
  simp only [h.tree.subtree_eq]

theorem SameForm.formSums_eq (h : SameForm s t) : formSums t = formSums s := by
  have hdigest : formDigest t = formDigest s := by rw [formDigest, h.body, formDigest]
  rw [formSums, hdigest, h.got, formSums]

/-- A member that is FORMED: what it leaves of the slice's record of its reset, and of what has been sent. -/
theorem formDone_gives (s : State) : sliceState (formDone s) = 2 ∧ (∀ o ∈ s.out, o ∈ (formDone s).out) ∧
    (formDone s).fab.resetGot = s.fab.resetGot ∧ (formDone s).fab.resetMembers = s.fab.resetMembers := by
  unfold formDone
  extract_lets v
  have hevent := sliceEvent_lasts (setSlice s [(LSliceSt.STATE, 2)])
  have hclose : Keeps v ((sliceBinds v).foldl closeIdle v) := keeps_foldl (keeps_refl v) closeIdle_keeps
  have hkeep : sliceOf ((sliceBinds v).foldl closeIdle v).fab = sliceOf (setSlice s [(LSliceSt.STATE, 2)]).fab := hclose.slice.trans hevent.slice
  refine ⟨?_, fun o ho => hclose.sent (hevent.sent ho), congrArg (fun x => x.2.2.1.1) hkeep, congrArg (fun x => x.2.2.1.2.1) hkeep⟩
  rw [(sameTree_of_sliceOf hkeep).sliceState_eq, sliceState_setSlice s (by decide)]

theorem gatherRecord_form (hform : LSync.FORM.on w = true) (hstate : sliceState s = 1) : gatherRecord port w s = formCheck (formTake s port w) := by
  rw [gatherRecord, hform, hstate]
  rfl

/-- The scatter that a leader sends at the end of a formation or a reset. -/
def leadRec (s : State) (f : Fld) : BitVec 512 := syncRec s 0x11 0 [(f, 1), (LSync.MEMBERS, 1)]

theorem told_leadRec (h : SameTree s t) (hports : ∀ p, isMatch t p = isMatch s p) (f : Fld) : Told s (leadRec s f) (toKids t (leadRec t f) []) := by
  intro k hk hmatch
  have hrec : leadRec t f = leadRec s f := h.syncRec_eq ..
  rw [← hrec]
  rw [← h.treeKids_eq] at hk
  exact toKids_sent (leadRec t f) [] hk ((hports k.1).trans hmatch)

theorem formCheck_leader (hleader : isLeader s = true) (hkids : formKids s = true) : formCheck s =
    if (formSums s).length = 1 then formDone (toKids s (leadRec s LSync.FORM) []) else formFail (toKids s (leadRec s LSync.FAIL) []) := by
  rw [formCheck, hleader, hkids]
  rfl

theorem formCheck_member (hmember : isLeader s = false) (hkids : formKids s = true) : formCheck s = formSend s := by
  rw [formCheck, hmember, hkids]
  rfl

theorem formCheck_early (hkids : formKids s = false) : formCheck s = s := by
  unfold formCheck
  split
  · rw [hkids]; rfl
  · rw [hkids]; rfl

theorem answer_sent (s : State) (q : Packet) {o : Out} (ho : o ∈ s.out) : o ∈ (answer s q St.ok 0).out := (answer_lasts ..).sent ho

section
variable (h : FromChild s port pkt w) (hform : LSync.FORM.on w = true) (hstate : sliceState s = 1)
include h hform hstate

theorem formGather_runs {P : State → Prop} (hP : P (answer (formCheck (formTake (received s port) port w)) ⟨pkt, 0#4096⟩ St.ok 0)) :
    Runs (.barrierGather ⟨port, pkt⟩ w) s P := by
  refine barrierGather_runs h ?_
  rw [gatherOut, gatherRecord_form hform ((received_tree s port).sliceState_eq.trans hstate)]
  exact hP

theorem formGather_leader (hleader : isLeader s = true) (hkids : formKids (formTake s port w) = true) :
    ((formSums (formTake s port w)).length = 1 → Runs (.barrierGather ⟨port, pkt⟩ w) s (fun t => sliceState t = 2 ∧ Told s (leadRec s LSync.FORM) t)) ∧
    ((formSums (formTake s port w)).length ≠ 1 → Runs (.barrierGather ⟨port, pkt⟩ w) s (fun t => sliceState t = 0 ∧
      LSliceSt.LAST_STATUS.get t.fab.slice = St.slice ∧ Told s (leadRec s LSync.FAIL) t)) := by
  have hsame := (received_form s port).formTake port w
  have htree : SameTree s (formTake (received s port) port w) := ⟨(received_tree s port).fabId, (received_tree s port).slice⟩
  have hports : ∀ p, isMatch (formTake (received s port) port w) p = isMatch s p := fun p => by
    change isMatch (received s port) p = _
    exact isMatch_of_sliceOf (received_lasts s port).slice p
  have hcheck := formCheck_leader (s := formTake (received s port) port w) (htree.isLeader_eq.trans hleader) (hsame.formKids_eq.trans hkids)
  rw [hsame.formSums_eq] at hcheck
  have htold := told_leadRec htree hports
  have hrun := fun P => formGather_runs (P := P) h hform hstate
  generalize formTake (received s port) port w = v at hcheck htold hrun
  refine ⟨fun hone => hrun _ ?_, fun hmany => hrun _ ?_⟩
  · rw [if_pos hone] at hcheck
    rw [hcheck]
    obtain ⟨hdone, hsent, -⟩ := formDone_gives (toKids v (leadRec v LSync.FORM) [])
    have hend := answer_lasts (formDone (toKids v (leadRec v LSync.FORM) [])) ⟨pkt, 0#4096⟩ St.ok 0
    exact ⟨(sameTree_of_sliceOf hend.slice).sliceState_eq.trans hdone, told_sent (fun o ho => hend.sent (hsent o ho)) (htold LSync.FORM)⟩
  · rw [if_neg hmany] at hcheck
    rw [hcheck]
    obtain ⟨hleft, -, hlast, hsent⟩ := formFail_gives (toKids v (leadRec v LSync.FAIL) [])
    have hend := answer_lasts (formFail (toKids v (leadRec v LSync.FAIL) [])) ⟨pkt, 0#4096⟩ St.ok 0
    have hslice := (sameTree_of_sliceOf hend.slice).slice
    exact ⟨(sameTree_of_sliceOf hend.slice).sliceState_eq.trans hleft, by rw [hslice, hlast],
      told_sent (fun o ho => hend.sent (hsent o ho)) (htold LSync.FAIL)⟩

theorem formGather_member (hmember : isLeader s = false) (hkids : formKids (formTake s port w) = true) (hp : ToParent s p up) :
    Runs (.barrierGather ⟨port, pkt⟩ w) s (fun t => t.fab.formGot = (formTake s port w).fab.formGot ∧
      ∀ d ∈ formSums (formTake s port w), Out.sync up (formRec s d) ∈ t.out) := by
  have hsame := (received_form s port).formTake port w
  have htree : SameTree s (formTake (received s port) port w) := ⟨(received_tree s port).fabId, (received_tree s port).slice⟩
  have hparent : ToParent (formTake (received s port) port w) p up := by
    change ToParent (received s port) p up
    exact toParent_of_sliceOf (received_lasts s port).slice hp
  have hcheck := formCheck_member (s := formTake (received s port) port w) (htree.isLeader_eq.trans hmember) (hsame.formKids_eq.trans hkids)
  refine formGather_runs h hform hstate ?_
  rw [hcheck, ← hsame.formSums_eq, ← hsame.got]
  generalize formTake (received s port) port w = v at htree hparent
  have hsend := formSend_lasts v
  have hend := answer_lasts (formSend v) ⟨pkt, 0#4096⟩ St.ok 0
  refine ⟨congrArg (fun x => x.2.1.1) (hend.slice.trans hsend.slice), fun d hd => ?_⟩
  have hsent := hend.sent (formSend_sent hparent d hd)
  rwa [formRec, htree.syncRec_eq] at hsent

theorem formGather_early (hkids : formKids (formTake s port w) = false) : Runs (.barrierGather ⟨port, pkt⟩ w) s (fun t =>
    t.fab.formGot = (formTake s port w).fab.formGot ∧ Replies ⟨pkt, 0#4096⟩ St.ok 0 s t ∧ OnlyChanges [.fab] s t) := by
  have hsame := (received_form s port).formTake port w
  refine formGather_runs h hform hstate ?_
  rw [formCheck_early (hsame.formKids_eq.trans hkids), ← hsame.got]
  have hend := answer_lasts (formTake (received s port) port w) ⟨pkt, 0#4096⟩ St.ok 0
  have hreplies : Replies ⟨pkt, 0#4096⟩ St.ok 0 (received s port) (answer (formTake (received s port) port w) ⟨pkt, 0#4096⟩ St.ok 0) :=
    fun q hq => Links.replies_answer (formTake (received s port) port w) ⟨pkt, 0#4096⟩ St.ok 0 q hq
  refine ⟨congrArg (fun x => x.2.1.1) hend.slice, Mirrors.replies_of_received hreplies, ?_⟩
  exact only_step (answer_only ..) (by decide) (only_step (set_fab_only ..) (by decide) (only_step (receivedPackets_only ..) (by decide) (only_refl _ s)))

end

end Sys2Proof.Slices
end

section
/-! A reset's completion and a commit's GATHER as they reach a device from its children (R370, R371, R373). -/

namespace Sys2Proof.Slices

open Sys2Proof Sys2Proof.Machine Sys2Proof.Laws Sys2Proof.Lasting Sys2Proof.Pins Sys2Proof.Phases

set_option linter.tactic.unusedName false

variable {s t u : State} {b p up port slot turn time : Nat} {pkt : BitVec 256} {w : BitVec 512}

/-! ## A reset's completion (R373) -/

/-- The members whose reset is complete, a child's among them. -/
def resetTake (s : State) (port : Nat) (w : BitVec 512) : State :=
  { s with fab := { s.fab with resetGot := port :: s.fab.resetGot, resetMembers := s.fab.resetMembers + LSync.MEMBERS.get w } }

/-- The member's own record of the reset leaves. -/
def resetSending (s : State) (port : Nat) (w : BitVec 512) : State :=
  { resetTake s port w with fab := { (resetTake s port w).fab with resetSent := true } }

theorem resetSending_fields (s : State) (port : Nat) (w : BitVec 512) : (resetSending s port w).fab.resetGot = port :: s.fab.resetGot ∧
    (resetSending s port w).fab.resetMembers = s.fab.resetMembers + LSync.MEMBERS.get w ∧ (resetSending s port w).fab.resetSent = true :=
  ⟨rfl, rfl, rfl⟩

theorem resetSending_parent (w : BitVec 512) (h : ToParent s p up) : ToParent (resetSending s port w) p up := h

/-- With the child's record the device's whole subtree has been reset. -/
def WholeReset (s : State) (port : Nat) : Prop :=
  s.fab.resetSent = false ∧ resetQuiet s = true ∧ ∀ k, k ∈ treeKids s → k.1 = port ∨ k.1 ∈ s.fab.resetGot

theorem resetQuiet_of_same (h : SameTree s t) (hbinds : t.binds = s.binds) : resetQuiet t = resetQuiet s := by
  have hsame : sliceBinds t = sliceBinds s := List.filter_congr fun b _ => h.sliceBinding_eq b
  rw [resetQuiet, hsame, resetQuiet]
  simp only [bind_of_binds hbinds]

/-- The device gathers its reset's completion, or ends the reset. -/
theorem resetCheck_whole (hstate : sliceState s = 4) (hwhole : WholeReset s port) : resetCheck (resetTake s port w) =
    if isLeader s then
      if s.fab.resetMembers + LSync.MEMBERS.get w + 1 < sliceSize s then resetTake s port w
      else resetEnd (toKids (resetTake s port w) (leadRec s LSync.RESET) [])
    else toParent (resetSending s port w)
      (syncRec s 0x10 0 [(LSync.RESET, 1), (LSync.MEMBERS, s.fab.resetMembers + LSync.MEMBERS.get w + 1)]) := by
  obtain ⟨hunsent, hquiet, hkids⟩ := hwhole
  have hstate' : sliceState (resetTake s port w) = 4 := hstate
  have hunsent' : (resetTake s port w).fab.resetSent = false := hunsent
  have hquiet' : resetQuiet (resetTake s port w) = true := hquiet
  have hall : (treeKids (resetTake s port w)).all (fun k => (resetTake s port w).fab.resetGot.contains k.1) = true := by
    rw [List.all_eq_true]
    intro k hk
    rw [List.contains_iff_mem]
    obtain hport | hgot := hkids k hk
    · rw [hport]; exact List.mem_cons_self
    · exact List.mem_cons_of_mem _ hgot
  rw [resetCheck, hstate', hunsent', hquiet', hall]
  rfl

theorem resetCheck_part (h : ¬WholeReset s port) : resetCheck (resetTake s port w) = resetTake s port w := by
  unfold resetCheck
  rw [if_pos]
  by_contra hno
  simp only [Bool.or_eq_true, bne_iff_ne, Bool.not_eq_true', not_or, Bool.not_eq_true, Bool.not_eq_false] at hno
  obtain ⟨⟨⟨-, hunsent⟩, hquiet⟩, hall⟩ := hno
  refine h ⟨hunsent, hquiet, fun k hk => ?_⟩
  have hgot := List.all_eq_true.mp hall k hk
  rw [List.contains_iff_mem] at hgot
  exact List.mem_cons.mp hgot

theorem resetEnd_gives (s : State) : sliceState (resetEnd s) = 2 ∧ (∀ o ∈ s.out, o ∈ (resetEnd s).out) ∧
    (resetEnd s).fab.resetGot = [] ∧ (resetEnd s).fab.resetMembers = 0 :=
  formDone_gives { s with fab := { s.fab with resetGot := [], resetMembers := 0, resetSent := false } }

/-- A record of a reset that no record of the child came before. -/
structure ResetRecord (s : State) (port : Nat) (pkt : BitVec 256) (w : BitVec 512) : Prop where
  from' : FromChild s port pkt w
  form : LSync.FORM.on w = false
  reset : LSync.RESET.on w = true
  state : sliceState s = 4
  fresh : s.fab.resetGot.contains port = false

theorem received_resets (s : State) (port : Nat) : (received s port).fab.resetGot = s.fab.resetGot ∧
    (received s port).fab.resetMembers = s.fab.resetMembers ∧ (received s port).fab.resetSent = s.fab.resetSent := by
  have hkeep := (received_lasts s port).slice
  exact ⟨congrArg (fun x => x.2.2.1.1) hkeep, congrArg (fun x => x.2.2.1.2.1) hkeep, congrArg (fun x => x.2.2.1.2.2) hkeep⟩

theorem received_only (s : State) (port : Nat) : OnlyChanges [.fab] s (received s port) := receivedPackets_only ..

theorem received_whole (s : State) (port : Nat) : WholeReset (received s port) port ↔ WholeReset s port := by
  obtain ⟨hgot, -, hsent⟩ := received_resets s port
  rw [WholeReset, hgot, hsent, resetQuiet_of_same (received_tree s port) ((received_only s port).same .binds (by decide)),
    (received_tree s port).treeKids_eq, WholeReset]

theorem resetGather_runs {P : State → Prop} (h : ResetRecord s port pkt w)
    (hP : P (answer (resetCheck (resetTake (received s port) port w)) ⟨pkt, 0#4096⟩ St.ok 0)) : Runs (.barrierGather ⟨port, pkt⟩ w) s P := by
  refine barrierGather_runs h.from' ?_
  have hrecord : gatherRecord port w (received s port) = resetCheck (resetTake (received s port) port w) := by
    rw [gatherRecord, h.form, h.reset, (received_tree s port).sliceState_eq, h.state, (received_resets s port).1, h.fresh]
    rfl
  rw [gatherOut, hrecord]
  exact hP

theorem resetGather_leader (h : ResetRecord s port pkt w) (hleader : isLeader s = true) (hwhole : WholeReset s port)
    (hfull : sliceSize s ≤ s.fab.resetMembers + LSync.MEMBERS.get w + 1) :
    Runs (.barrierGather ⟨port, pkt⟩ w) s (fun t => sliceState t = 2 ∧ Told s (leadRec s LSync.RESET) t) := by
  refine resetGather_runs h ?_
  have htree := received_tree s port
  rw [resetCheck_whole (htree.sliceState_eq.trans h.state) ((received_whole s port).mpr hwhole), htree.isLeader_eq, hleader, if_pos rfl,
    (received_resets s port).2.1, htree.sliceSize_eq, if_neg (by omega)]
  have hrec : leadRec (received s port) LSync.RESET = leadRec s LSync.RESET := htree.syncRec_eq ..
  have htold : Told s (leadRec s LSync.RESET) (toKids (resetTake (received s port) port w) (leadRec s LSync.RESET) []) :=
    told_of_sliceOf (received_lasts s port).slice (told_of_toKids (resetTake (received s port) port w) (leadRec s LSync.RESET) [])
  rw [hrec]
  generalize toKids (resetTake (received s port) port w) (leadRec s LSync.RESET) [] = v at htold
  obtain ⟨hdone, hsent, -⟩ := resetEnd_gives v
  have hend := answer_lasts (resetEnd v) ⟨pkt, 0#4096⟩ St.ok 0
  exact ⟨(sameTree_of_sliceOf hend.slice).sliceState_eq.trans hdone, told_sent (fun o ho => hend.sent (hsent o ho)) htold⟩

theorem resetGather_member (h : ResetRecord s port pkt w) (hmember : isLeader s = false) (hwhole : WholeReset s port) (hp : ToParent s p up) :
    Runs (.barrierGather ⟨port, pkt⟩ w) s (fun t => t.fab.resetMembers = s.fab.resetMembers + LSync.MEMBERS.get w ∧
      t.fab.resetGot = port :: s.fab.resetGot ∧ t.fab.resetSent = true ∧
      Out.sync up (syncRec s 0x10 0 [(LSync.RESET, 1), (LSync.MEMBERS, s.fab.resetMembers + LSync.MEMBERS.get w + 1)]) ∈ t.out) := by
  refine resetGather_runs h ?_
  have htree := received_tree s port
  obtain ⟨hgot, hmembers, -⟩ := received_resets s port
  rw [resetCheck_whole (htree.sliceState_eq.trans h.state) ((received_whole s port).mpr hwhole), htree.isLeader_eq, hmember,
    if_neg Bool.false_ne_true, hmembers, htree.syncRec_eq]
  obtain ⟨hparent, hup, hmatch⟩ := resetSending_parent (port := port) w (toParent_of_sliceOf (received_lasts s port).slice hp)
  obtain ⟨hvgot, hvmembers, hvsent⟩ := resetSending_fields (received s port) port w
  rw [hgot] at hvgot
  rw [hmembers] at hvmembers
  generalize resetSending (received s port) port w = v at hparent hup hmatch hvgot hvmembers hvsent
  generalize syncRec s 0x10 0 [(LSync.RESET, 1), (LSync.MEMBERS, s.fab.resetMembers + LSync.MEMBERS.get w + 1)] = r
  have hend := (lasts_step (answer_lasts (toParent v r) ⟨pkt, 0#4096⟩ St.ok 0) (toParent_lasts v r)).slice
  have hsent := answer_sent (toParent v r) ⟨pkt, 0#4096⟩ (toParent_sent r hparent hup hmatch)
  exact ⟨(congrArg (fun x => x.2.2.1.2.1) hend).trans hvmembers, (congrArg (fun x => x.2.2.1.1) hend).trans hvgot,
    (congrArg (fun x => x.2.2.1.2.2) hend).trans hvsent, hsent⟩

theorem resetGather_part (h : ResetRecord s port pkt w)
    (hpart : ¬WholeReset s port ∨ (isLeader s = true ∧ s.fab.resetMembers + LSync.MEMBERS.get w + 1 < sliceSize s)) :
    Runs (.barrierGather ⟨port, pkt⟩ w) s (fun t => t.fab.resetMembers = s.fab.resetMembers + LSync.MEMBERS.get w ∧
      t.fab.resetGot = port :: s.fab.resetGot ∧ Replies ⟨pkt, 0#4096⟩ St.ok 0 s t ∧ OnlyChanges [.fab] s t) := by
  refine resetGather_runs h ?_
  have htree := received_tree s port
  obtain ⟨hgot, hmembers, -⟩ := received_resets s port
  have hstays : resetCheck (resetTake (received s port) port w) = resetTake (received s port) port w := by
    by_cases hwhole : WholeReset s port
    · obtain hno | ⟨hleader, hless⟩ := hpart
      · exact absurd hwhole hno
      · rw [resetCheck_whole (htree.sliceState_eq.trans h.state) ((received_whole s port).mpr hwhole), htree.isLeader_eq, hleader, if_pos rfl,
          hmembers, htree.sliceSize_eq, if_pos hless]
    · exact resetCheck_part (fun hno => hwhole ((received_whole s port).mp hno))
  rw [hstays]
  have hend := answer_lasts (resetTake (received s port) port w) ⟨pkt, 0#4096⟩ St.ok 0
  have hreplies : Replies ⟨pkt, 0#4096⟩ St.ok 0 (received s port) (answer (resetTake (received s port) port w) ⟨pkt, 0#4096⟩ St.ok 0) :=
    fun q hq => Links.replies_answer (resetTake (received s port) port w) ⟨pkt, 0#4096⟩ St.ok 0 q hq
  refine ⟨(congrArg (fun x => x.2.2.1.2.1) hend.slice).trans ?_, (congrArg (fun x => x.2.2.1.1) hend.slice).trans ?_,
    Mirrors.replies_of_received hreplies, ?_⟩
  · rw [← hmembers]; rfl
  · rw [← hgot]; rfl
  · exact only_step (answer_only ..) (by decide) (only_step (set_fab_only ..) (by decide) (only_step (received_only s port) (by decide) (only_refl _ s)))

end Sys2Proof.Slices
end

section
/-! A commit's GATHER as it reaches a device from its children (R370, R371). -/

namespace Sys2Proof.Slices

open Sys2Proof Sys2Proof.Machine Sys2Proof.Laws Sys2Proof.Lasting Sys2Proof.Pins Sys2Proof.Phases

set_option linter.tactic.unusedName false

variable {s t u : State} {b c p up port slot turn time : Nat} {pkt : BitVec 256} {w : BitVec 512}

/-- The flags of a barrier with a child's GATHER. -/
def gatherFlags (s : State) (c : Nat) (w : BitVec 512) : Nat :=
  max (barrierOf s c).flags (max (LSync.ABANDON.get w) (if LSync.TURN.get w ≠ bTurn (s.bind c) + 1 then 1 else 0))

/-- The barrier with a child's GATHER. -/
def gatherBarrier (s : State) (c port : Nat) (w : BitVec 512) : Barrier :=
  { barrierOf s c with got := port :: (barrierOf s c).got, members := (barrierOf s c).members + LSync.MEMBERS.get w, flags := gatherFlags s c w }

/-- The child's GATHER is noted, and counted where it is of another turn. -/
def noteGather (s : State) (c port : Nat) (w : BitVec 512) : State :=
  setBarrier (if LSync.TURN.get w ≠ bTurn (s.bind c) + 1 then countSlice s 0x020 else s) c (gatherBarrier s c port w)

theorem gatherIn_eq (s : State) (c port : Nat) (w : BitVec 512) : gatherIn s c port w =
    if isLeader (noteGather s c port w) then
      if gatherFlags s c w ≠ 0 ∧ inFlight (noteGather s c port w) c = true then abandonTurn (noteGather s c port w) c
      else if barrierFull (noteGather s c port w) c then leaderCommit (noteGather s c port w) c else noteGather s c port w
    else if (barrierOf (noteGather s c port w) c).arrived && kidsIn (noteGather s c port w) c && !(barrierOf (noteGather s c port w) c).sent then
      sendGather (noteGather s c port w) c 0
    else noteGather s c port w := by
  have hmark : gatherFlags s c w =
      max (barrierOf s c).flags (max (LSync.ABANDON.get w) (b2n (LSync.TURN.get w != bTurn (s.bind c) + 1))) := by
    by_cases hbad : LSync.TURN.get w = bTurn (s.bind c) + 1
    · simp [gatherFlags, hbad, b2n]
    · simp [gatherFlags, hbad, b2n]
  have hcount : (if LSync.TURN.get w ≠ bTurn (s.bind c) + 1 then countSlice s 0x020 else s) =
      if LSync.TURN.get w != bTurn (s.bind c) + 1 then countSlice s 0x020 else s := by
    simp only [bne_iff_ne]
  have hflags : (barrierOf (noteGather s c port w) c).flags = gatherFlags s c w := by rw [noteGather, barrierOf_setBarrier, gatherBarrier]
  have hcond : (gatherFlags s c w ≠ 0 ∧ inFlight (noteGather s c port w) c = true) ↔
      ((barrierOf (noteGather s c port w) c).flags ≠ 0 && inFlight (noteGather s c port w) c) = true := by
    rw [hflags]
    simp
  simp only [hcond]
  unfold noteGather gatherBarrier
  rw [hcount, hmark]
  rfl

/-! ## What the note leaves -/

/-- The place, the bindings and the clock are as they were; the barrier holds what the child has gathered. -/
structure Noted (s t : State) (c port : Nat) (w : BitVec 512) : Prop where
  tree : SameTree s t
  binds : t.binds = s.binds
  clk : t.clk = s.clk
  ports : ∀ p, isMatch t p = isMatch s p
  barrier : barrierOf t c = gatherBarrier s c port w
  bad : LSync.TURN.get w ≠ bTurn (s.bind c) + 1 → Tab.get t.fab.sliceCtr 0#64 0x020 = Tab.get s.fab.sliceCtr 0#64 0x020 + 1

theorem noteGather_fields (s : State) (c port : Nat) (w : BitVec 512) : SameTree s (noteGather s c port w) ∧
    (noteGather s c port w).fab.ports = s.fab.ports ∧ OnlyChanges [.fab] s (noteGather s c port w) := by
  unfold noteGather
  split
  · exact ⟨⟨rfl, rfl⟩, rfl, only_step (setBarrier_only ..) (by decide) (only_step (countSlice_only ..) (by decide) (only_refl _ s))⟩
  · exact ⟨⟨rfl, rfl⟩, rfl, only_step (setBarrier_only ..) (by decide) (only_refl _ s)⟩

theorem noteGather_counts (h : LSync.TURN.get w ≠ bTurn (s.bind c) + 1) :
    Tab.get (noteGather s c port w).fab.sliceCtr 0#64 0x020 = Tab.get s.fab.sliceCtr 0#64 0x020 + 1 := by
  rw [noteGather, if_pos h]
  exact get_set_self ..

theorem gatherBarrier_of_received (s : State) (q c port : Nat) (w : BitVec 512) : gatherBarrier (received s q) c port w = gatherBarrier s c port w := by
  have hbind : (received s q).bind c = s.bind c := bind_of_binds ((received_only s q).same .binds (by decide)) c
  rw [gatherBarrier, gatherFlags, barrierOf_of_sliceOf (received_lasts s q).slice, hbind, gatherBarrier, gatherFlags]

theorem gatherFlags_of_received (s : State) (q c : Nat) (w : BitVec 512) : gatherFlags (received s q) c w = gatherFlags s c w :=
  congrArg Barrier.flags (gatherBarrier_of_received s q c q w)

theorem noted_received (s : State) (c port : Nat) (w : BitVec 512) : Noted s (noteGather (received s port) c port w) c port w := by
  obtain ⟨htree, hports, honly⟩ := noteGather_fields (received s port) c port w
  have hreceived := received_only s port
  have hlasts := received_lasts s port
  have hbinds : (received s port).binds = s.binds := hreceived.same .binds (by decide)
  refine ⟨(received_tree s port).trans htree, (honly.same .binds (by decide)).trans hbinds,
    (honly.same .clk (by decide)).trans (hreceived.same .clk (by decide)), fun p => ?_, ?_, fun hbad => ?_⟩
  · have hsame : isMatch (noteGather (received s port) c port w) p = isMatch (received s port) p := by
      rw [isMatch, portState, State.port, hports, isMatch, portState, State.port]
    exact hsame.trans (isMatch_of_sliceOf hlasts.slice p)
  · rw [noteGather, barrierOf_setBarrier, gatherBarrier_of_received]
  · rw [noteGather_counts (by rw [bind_of_binds hbinds]; exact hbad)]
    exact congrArg (fun x => Tab.get x.1.2.2.2 0#64 0x020 + 1) hlasts.slice

/-! ## The record's row -/

/-- A commit's GATHER of a slice binding that no record of the child came before. -/
structure CommitRecord (s : State) (port : Nat) (pkt : BitVec 256) (w : BitVec 512) : Prop where
  from' : FromChild s port pkt w
  form : LSync.FORM.on w = false
  reset : LSync.RESET.on w = false
  binding : sliceBinding s (LSync.BINDING.get w) = true
  fresh : (barrierOf s (LSync.BINDING.get w)).got.contains port = false

theorem commitGather_runs {P : State → Prop} (h : CommitRecord s port pkt w)
    (hP : P (answer (gatherIn (received s port) (LSync.BINDING.get w) port w) ⟨pkt, 0#4096⟩ St.ok 0)) : Runs (.barrierGather ⟨port, pkt⟩ w) s P := by
  refine barrierGather_runs h.from' ?_
  have hrecord : gatherRecord port w (received s port) = gatherIn (received s port) (LSync.BINDING.get w) port w := by
    rw [gatherRecord, h.form, h.reset, (received_tree s port).sliceBinding_eq, h.binding, barrierOf_of_sliceOf (received_lasts s port).slice, h.fresh]
    rfl
  rw [gatherOut, hrecord]
  exact hP

/-- What the statement says of a barrier with the child's GATHER. -/
def IsNoted (s : State) (c port : Nat) (w : BitVec 512) (t : State) : Prop :=
  (barrierOf t c).got = port :: (barrierOf s c).got ∧ (barrierOf t c).members = (barrierOf s c).members + LSync.MEMBERS.get w ∧
    (barrierOf t c).flags = gatherFlags s c w ∧ t.binds = s.binds

theorem isNoted_of_noted {x : Barrier} (hbinds : t.binds = s.binds) (hx : barrierOf t c = x) (hgot : x.got = (gatherBarrier s c port w).got)
    (hmembers : x.members = (gatherBarrier s c port w).members) (hflags : x.flags = (gatherBarrier s c port w).flags) : IsNoted s c port w t := by
  rw [IsNoted, hx]
  exact ⟨hgot, hmembers, hflags, hbinds⟩

theorem isNoted_answer (q : Packet) (h : IsNoted s c port w t) : IsNoted s c port w (answer t q St.ok 0) := by
  have hend := (answer_lasts t q St.ok 0).slice
  rw [IsNoted, barrierOf_of_sliceOf hend, (answer_only ..).same .binds (by decide)]
  exact h

theorem commitGather_member (h : CommitRecord s port pkt w) (hmember : isLeader s = false) : Runs (.barrierGather ⟨port, pkt⟩ w) s (fun t =>
    IsNoted s (LSync.BINDING.get w) port w t ∧ (LSync.TURN.get w ≠ bTurn (s.bind (LSync.BINDING.get w)) + 1 →
      Tab.get t.fab.sliceCtr 0#64 0x020 = Tab.get s.fab.sliceCtr 0#64 0x020 + 1)) := by
  refine commitGather_runs h ?_
  generalize LSync.BINDING.get w = c
  have hnoted := noted_received s c port w
  rw [gatherIn_eq]
  generalize noteGather (received s port) c port w = v at hnoted
  rw [hnoted.tree.isLeader_eq, hmember, if_neg Bool.false_ne_true]
  have hctr : ∀ y : State, y.fab.sliceCtr = v.fab.sliceCtr → LSync.TURN.get w ≠ bTurn (s.bind c) + 1 →
      Tab.get (answer y ⟨pkt, 0#4096⟩ St.ok 0).fab.sliceCtr 0#64 0x020 = Tab.get s.fab.sliceCtr 0#64 0x020 + 1 := fun y hy hbad => by
    rw [← hnoted.bad hbad, ← hy]
    exact congrArg (fun x => Tab.get x.1.2.2.2 0#64 0x020) (answer_lasts y ⟨pkt, 0#4096⟩ St.ok 0).slice
  split
  · obtain ⟨hbinds, hbarrier, hkeep⟩ := sendGather_gives v c 0
    refine ⟨isNoted_answer _ (isNoted_of_noted (hbinds.trans hnoted.binds) hbarrier ?_ ?_ ?_), hctr _ hkeep⟩
    · rw [hnoted.barrier]
    · rw [hnoted.barrier]
    · rw [hnoted.barrier]
  · exact ⟨isNoted_answer _ (isNoted_of_noted hnoted.binds hnoted.barrier rfl rfl rfl), hctr v rfl⟩

theorem inFlight_of_same (hbinds : t.binds = s.binds) (c : Nat) : inFlight t c = inFlight s c := inFlight_of_binds hbinds c

theorem commitGather_abandons (h : CommitRecord s port pkt w) (hleader : isLeader s = true)
    (hflags : gatherFlags s (LSync.BINDING.get w) w ≠ 0) (hflight : inFlight s (LSync.BINDING.get w) = true) :
    Runs (.barrierGather ⟨port, pkt⟩ w) s (fun t => bFaulted (t.bind (LSync.BINDING.get w)) = true ∧
      Told s (abandonRec s (LSync.BINDING.get w)) t) := by
  refine commitGather_runs h ?_
  have hb := h.binding
  generalize LSync.BINDING.get w = c at hflags hflight hb
  have hnoted := noted_received s c port w
  rw [gatherIn_eq, gatherFlags_of_received]
  generalize noteGather (received s port) c port w = v at hnoted
  have hvflight : inFlight v c = true := (inFlight_of_same hnoted.binds c).trans hflight
  rw [hnoted.tree.isLeader_eq, hleader, if_pos rfl, if_pos ⟨hflags, hvflight⟩]
  have htold := abandonTurn_told hvflight ((hnoted.tree.sliceBinding_eq c).trans hb) (hnoted.tree.isLeader_eq.trans hleader)
  have hrec : abandonRec v c = abandonRec s c := by rw [abandonRec, hnoted.tree.syncRec_eq, bind_of_binds hnoted.binds, abandonRec]
  rw [hrec] at htold
  have hend := answer_lasts (abandonTurn v c) ⟨pkt, 0#4096⟩ St.ok 0
  refine ⟨(hend.faulted c).trans (abandonTurn_block hvflight).2, fun k hk hmatch => hend.sent (htold k ?_ ((hnoted.ports k.1).trans hmatch))⟩
  rwa [hnoted.tree.treeKids_eq]

theorem leaderCommit_gives (s : State) (c : Nat) : bTurn ((leaderCommit s c).bind c) = (bTurn (s.bind c) + 1) % 2 ^ 64 ∧
    LTurnBlk.COMMIT_TIME.get ((leaderCommit s c).bind c).blk = now s := by
  unfold leaderCommit
  extract_lets m time v
  obtain ⟨-, hturn, htime⟩ := sliceCommit_gives s c (m % 2 == 1) (m / 2 == 1) (time := now s) (BitVec.isLt s.clk.time)
  have hv : v = sliceCommit s c (now s) (m % 2 == 1) (m / 2 == 1) := rfl
  rw [← hv] at hturn htime
  clear_value v
  rw [bind_of_binds (toKids_binds ..)]
  exact ⟨hturn, htime⟩

theorem commitGather_commits (h : CommitRecord s port pkt w) (hleader : isLeader s = true)
    (hflags : gatherFlags s (LSync.BINDING.get w) w = 0) (harrived : (barrierOf s (LSync.BINDING.get w)).arrived = true)
    (hfull : (barrierOf s (LSync.BINDING.get w)).members + LSync.MEMBERS.get w + 1 = sliceSize s) :
    Runs (.barrierGather ⟨port, pkt⟩ w) s (fun t => bTurn (t.bind (LSync.BINDING.get w)) = (bTurn (s.bind (LSync.BINDING.get w)) + 1) % 2 ^ 64 ∧
      LTurnBlk.COMMIT_TIME.get (t.bind (LSync.BINDING.get w)).blk = now s) := by
  refine commitGather_runs h ?_
  generalize LSync.BINDING.get w = c at hflags harrived hfull
  have hnoted := noted_received s c port w
  rw [gatherIn_eq, gatherFlags_of_received]
  generalize noteGather (received s port) c port w = v at hnoted
  have hbarrier : barrierFull v c = true := by
    rw [barrierFull, hnoted.barrier, gatherBarrier, harrived, hflags, hfull, hnoted.tree.sliceSize_eq]
    simp
  rw [hnoted.tree.isLeader_eq, hleader, if_pos rfl, if_neg (fun hno => hno.1 hflags), hbarrier, if_pos rfl]
  obtain ⟨hturn, htime⟩ := leaderCommit_gives v c
  rw [bind_of_binds hnoted.binds] at hturn
  rw [now, hnoted.clk, ← now] at htime
  have hend := answer_lasts (leaderCommit v c) ⟨pkt, 0#4096⟩ St.ok 0
  exact ⟨(hend.turn c).trans hturn, (hend.commitTime c).trans htime⟩

theorem sends_of_noteGather {q : Packet} (h : Sends q (noteGather s c port w) t) : Sends q s t := by
  unfold noteGather at h
  split at h
  · exact h
  · exact h

theorem commitGather_waits (h : CommitRecord s port pkt w) (hleader : isLeader s = true) (hflags : gatherFlags s (LSync.BINDING.get w) w = 0)
    (hpart : (barrierOf s (LSync.BINDING.get w)).arrived = false ∨ (barrierOf s (LSync.BINDING.get w)).members + LSync.MEMBERS.get w + 1 ≠ sliceSize s) :
    Runs (.barrierGather ⟨port, pkt⟩ w) s (fun t => IsNoted s (LSync.BINDING.get w) port w t ∧ Replies ⟨pkt, 0#4096⟩ St.ok 0 s t) := by
  refine commitGather_runs h ?_
  generalize LSync.BINDING.get w = c at hflags hpart
  have hnoted := noted_received s c port w
  rw [gatherIn_eq, gatherFlags_of_received]
  have hbarrier : barrierFull (noteGather (received s port) c port w) c = false := by
    rw [barrierFull, hnoted.barrier, gatherBarrier, hnoted.tree.sliceSize_eq]
    obtain hno | hno := hpart
    · simp [hno]
    · simp [hno]
  rw [hnoted.tree.isLeader_eq, hleader, if_pos rfl, if_neg (fun hno => hno.1 hflags), hbarrier, if_neg Bool.false_ne_true]
  refine ⟨isNoted_answer _ (isNoted_of_noted hnoted.binds hnoted.barrier rfl rfl rfl), Mirrors.replies_of_received (port := port) (n := 1) fun q hq => ?_⟩
  exact sends_of_noteGather (Links.replies_answer (noteGather (received s port) c port w) ⟨pkt, 0#4096⟩ St.ok 0 q hq)

end Sys2Proof.Slices
end

section
/-! A scatter as it reaches a member from its parent (R358, R360, R370, R371, R373). -/

namespace Sys2Proof.Slices

open Sys2Proof Sys2Proof.Machine Sys2Proof.Laws Sys2Proof.Lasting Sys2Proof.Pins Sys2Proof.Phases

set_option linter.tactic.unusedName false

variable {s t u : State} {b c p up port slot turn time : Nat} {pkt : BitVec 256} {w : BitVec 512} {entries : List SliceEnt}

/-! ## The row -/

/-- A scatter for this member, as the row takes it. -/
structure FromParent (s : State) (port : Nat) (pkt : BitVec 256) (w : BitVec 512) : Prop where
  run : running .link s = true
  come : carried s port 9 0 none pkt = true
  mine : forMember s port w = true

theorem FromParent.member (h : FromParent s port pkt w) : isLeader s = false := by
  have hmine := h.mine
  simp only [forMember, Bool.and_eq_true, Bool.not_eq_true'] at hmine
  obtain ⟨⟨⟨⟨⟨-, hleader⟩, -⟩, -⟩, -⟩, -⟩ := hmine
  exact hleader

theorem SameTree.forMember_eq (h : SameTree s t) (port : Nat) (w : BitVec 512) : forMember t port w = forMember s port w := by
  rw [forMember, h.sliceState_eq, h.isLeader_eq, h.sliceTag_eq, h.treeParent_eq, forMember]

/-- The device has received the scatter's packets. -/
def taken' (s : State) (port : Nat) (entries : List SliceEnt) : State := receivedPackets s port (max 1 (cdiv (64 + 16 * entries.length) 512))

theorem taken'_lasts (s : State) (port : Nat) (entries : List SliceEnt) : Lasts s (taken' s port entries) := receivedPackets_lasts ..

/-- The scatter has gone on to the children. -/
def passedOn (s : State) (port : Nat) (w : BitVec 512) (entries : List SliceEnt) : State := toKids (taken' s port entries) w entries

/-- What stands as the scatter takes effect here: nothing but packets and what has been sent has changed, and the children have it. -/
structure Passed (s t : State) (w : BitVec 512) : Prop where
  lasts : Lasts s t
  only : OnlyChanges [.cores, .fab, .out] s t
  told : Told s w t

theorem passedOn_passed (s : State) (port : Nat) (w : BitVec 512) (entries : List SliceEnt) : Passed s (passedOn s port w entries) w := by
  have htaken := taken'_lasts s port entries
  refine ⟨lasts_step (toKids_lasts ..) htaken, ?_, told_of_sliceOf htaken.slice (told_of_toKids (taken' s port entries) w entries)⟩
  exact only_step (toKids_quiet ..) (by decide) (only_step (receivedPackets_only ..) (by decide) (only_refl _ s))

theorem Passed.binds (h : Passed s t w) : t.binds = s.binds := h.only.same .binds (by decide)
theorem Passed.tree (h : Passed s t w) : SameTree s t := sameTree_of_sliceOf h.lasts.slice

/-- What the scatter's effect leaves is what its row leaves. -/
theorem barrierScatter_runs {P : State → Prop} (h : FromParent s port pkt w)
    (hP : P (answer (scatterRecord w entries (taken' s port entries)) ⟨pkt, 0#4096⟩ St.ok 0)) :
    Runs (.barrierScatter ⟨⟨port, pkt⟩, w⟩ entries) s P := by
  have hrow : exec (.barrierScatter ⟨⟨port, pkt⟩, w⟩ entries) s = execBarrierScatter ⟨⟨port, pkt⟩, w⟩ entries s := rfl
  refine barrierMessage_runs (hrow.trans (by rw [execBarrierScatter])) h.run h.come ?_ hP
  exact ((sameTree_of_sliceOf (receivedPackets_lasts ..).slice).forMember_eq port w).trans h.mine

/-- What a scatter does here, as a function of the state in which the children have it. -/
theorem scatterRuns {P : State → Prop} {f : State → State} (h : FromParent s port pkt w)
    (hf : scatterRecord w entries (taken' s port entries) = f (passedOn s port w entries))
    (hP : ∀ v, Passed s v w → P (answer (f v) ⟨pkt, 0#4096⟩ St.ok 0)) : Runs (.barrierScatter ⟨⟨port, pkt⟩, w⟩ entries) s P := by
  refine barrierScatter_runs h ?_
  rw [hf]
  exact hP _ (passedOn_passed ..)

theorem taken'_state (s : State) (port : Nat) (entries : List SliceEnt) : sliceState (taken' s port entries) = sliceState s :=
  (sameTree_of_sliceOf (taken'_lasts ..).slice).sliceState_eq

theorem taken'_binding (s : State) (port : Nat) (entries : List SliceEnt) (c : Nat) : sliceBinding (taken' s port entries) c = sliceBinding s c :=
  (sameTree_of_sliceOf (taken'_lasts ..).slice).sliceBinding_eq c

theorem taken'_bind (s : State) (port : Nat) (entries : List SliceEnt) (c : Nat) : (taken' s port entries).bind c = s.bind c :=
  bind_of_binds ((receivedPackets_only ..).same .binds (by decide)) c

/-! ## Formation, CONTINUE and the end of a reset (R358, R373) -/

/-- The slice's state, and what has been told, outlast the acknowledgement. -/
theorem goes_answer {k : Nat} (hstate : sliceState t = k) (htold : Told s w t) :
    sliceState (answer t ⟨pkt, 0#4096⟩ St.ok 0) = k ∧ Told s w (answer t ⟨pkt, 0#4096⟩ St.ok 0) := by
  have hend := answer_lasts t ⟨pkt, 0#4096⟩ St.ok 0
  exact ⟨(sameTree_of_sliceOf hend.slice).sliceState_eq.trans hstate, told_sent (fun o ho => hend.sent ho) htold⟩

theorem formScatter_gives (h : FromParent s port pkt w) (hform : LSync.FORM.on w = true) (hstate : sliceState s = 1) :
    Runs (.barrierScatter ⟨⟨port, pkt⟩, w⟩ entries) s (fun t => sliceState t = 2 ∧ Told s w t) := by
  refine scatterRuns (f := formDone) h ?_ fun v hv => ?_
  · rw [scatterRecord, hform, taken'_state, hstate]
    rfl
  · obtain ⟨hdone, hsent, -⟩ := formDone_gives v
    exact goes_answer hdone (told_sent hsent hv.told)

theorem failScatter_gives (h : FromParent s port pkt w) (hform : LSync.FORM.on w = false) (hfail : LSync.FAIL.on w = true)
    (hstate : sliceState s = 1) : Runs (.barrierScatter ⟨⟨port, pkt⟩, w⟩ entries) s (fun t =>
      (sliceState t = 0 ∧ Told s w t) ∧ LSliceSt.LAST_STATUS.get t.fab.slice = St.slice) := by
  refine scatterRuns (f := formFail) h ?_ fun v hv => ?_
  · rw [scatterRecord, hform, hfail, taken'_state, hstate]
    rfl
  · obtain ⟨hleft, -, hlast, hsent⟩ := formFail_gives v
    refine ⟨goes_answer hleft (told_sent hsent hv.told), ?_⟩
    rw [(sameTree_of_sliceOf (answer_lasts (formFail v) ⟨pkt, 0#4096⟩ St.ok 0).slice).slice, hlast]

theorem leaveHeld_gives (s : State) : sliceState (leaveHeld s) = 2 ∧ ∀ o ∈ s.out, o ∈ (leaveHeld s).out := by
  unfold leaveHeld
  extract_lets v y
  have hmarks : Lasts s v := lasts_fold (fun y b => lasts_updBind y b (f := fun x => { x with marks := x.marks &&& 2 }) fun _ => rfl) _ s
  have hevent := sliceEvent_lasts (setSlice v [(LSliceSt.STATE, 2)])
  have hclose : Keeps y ((sliceBinds y).foldl closeIdle y) := keeps_foldl (keeps_refl y) closeIdle_keeps
  have hkeep : sliceOf ((sliceBinds y).foldl closeIdle y).fab = sliceOf (setSlice v [(LSliceSt.STATE, 2)]).fab := hclose.slice.trans hevent.slice
  refine ⟨?_, fun o ho => hclose.sent (hevent.sent (hmarks.sent ho))⟩
  rw [(sameTree_of_sliceOf hkeep).sliceState_eq, sliceState_setSlice v (by decide)]

section
variable (h : FromParent s port pkt w) (hform : LSync.FORM.on w = false) (hfail : LSync.FAIL.on w = false)
include h hform hfail

theorem continueScatter_gives (hcontinue : LSync.CONTINUE.on w = true) (hstate : sliceState s = 3) :
    Runs (.barrierScatter ⟨⟨port, pkt⟩, w⟩ entries) s (fun t => sliceState t = 2 ∧ Told s w t) := by
  refine scatterRuns (f := leaveHeld) h ?_ fun v hv => ?_
  · rw [scatterRecord, hform, hfail, hcontinue, taken'_state, hstate]
    rfl
  · obtain ⟨hstate, hsent⟩ := leaveHeld_gives v
    exact goes_answer hstate (told_sent hsent hv.told)

theorem resetScatter_gives (hcontinue : LSync.CONTINUE.on w = false) (hreset : LSync.RESET.on w = true) (htime : LSync.TIME.get w = 0)
    (hstate : sliceState s = 4) : Runs (.barrierScatter ⟨⟨port, pkt⟩, w⟩ entries) s (fun t =>
      (sliceState t = 2 ∧ Told s w t) ∧ t.fab.resetGot = [] ∧ t.fab.resetMembers = 0) := by
  refine scatterRuns (f := resetEnd) h ?_ fun v hv => ?_
  · rw [scatterRecord, hform, hfail, hcontinue, hreset, htime, taken'_state, hstate]
    rfl
  · obtain ⟨hdone, hsent, hgot, hmembers⟩ := resetEnd_gives v
    have hend := (answer_lasts (resetEnd v) ⟨pkt, 0#4096⟩ St.ok 0).slice
    exact ⟨goes_answer hdone (told_sent hsent hv.told), (congrArg (fun x => x.2.2.1.1) hend).trans hgot,
      (congrArg (fun x => x.2.2.1.2.1) hend).trans hmembers⟩

/-! ## What concerns one binding (R360, R370, R371) -/

variable (hcontinue : LSync.CONTINUE.on w = false) (hplain : ¬(LSync.RESET.on w = true ∧ LSync.TIME.get w = 0))
  (hb : sliceBinding s (LSync.BINDING.get w) = true)
include hcontinue hplain hb

omit h in
/-- The record's effect on its binding. -/
theorem scatterRecord_binding : scatterRecord w entries (taken' s port entries) =
    if LSync.ABANDON.on w then faultBinding (setBarrier (passedOn s port w entries) (LSync.BINDING.get w) Barrier.reset) (LSync.BINDING.get w)
    else if LSync.TIME.get w == 0 && LSync.TURN.get w == bTurn (s.bind (LSync.BINDING.get w)) then
      takeTurn (passedOn s port w entries) (LSync.BINDING.get w) entries
    else if !((s.bind (LSync.BINDING.get w)).waitBarrier && LSync.TURN.get w == bTurn (s.bind (LSync.BINDING.get w)) + 1) then taken' s port entries
    else takeTurn (sliceCommit (passedOn s port w entries) (LSync.BINDING.get w) (LSync.TIME.get w) (LSync.HOLD.on w) (LSync.RESET.on w))
      (LSync.BINDING.get w) entries := by
  have hplain' : (LSync.RESET.on w && LSync.TIME.get w == 0) = false := by
    rw [Bool.and_eq_false_iff]
    by_cases hreset : LSync.RESET.on w = true
    · exact .inr (by simpa using fun htime => hplain ⟨hreset, htime⟩)
    · exact .inl (by simpa using hreset)
  rw [scatterRecord, hform, hfail, hcontinue, hplain', taken'_binding, hb, taken'_bind]
  rfl

theorem abandonScatter_gives (habandon : LSync.ABANDON.on w = true) (hload : (s.bind (LSync.BINDING.get w)).loaded = true) :
    Runs (.barrierScatter ⟨⟨port, pkt⟩, w⟩ entries) s (fun t => bFaulted (t.bind (LSync.BINDING.get w)) = true ∧
      barrierOf t (LSync.BINDING.get w) = Barrier.reset ∧ Told s w t) := by
  refine scatterRuns (f := fun v => faultBinding (setBarrier v (LSync.BINDING.get w) Barrier.reset) (LSync.BINDING.get w)) h
    (by rw [scatterRecord_binding hform hfail hcontinue hplain hb, if_pos habandon]) fun v hv => ?_
  generalize LSync.BINDING.get w = c at hload
  obtain ⟨hsent, hkeep, hfault⟩ := faultBinding_gives (setBarrier v c Barrier.reset) c
  have hloaded : ((setBarrier v c Barrier.reset).bind c).loaded = true := (hv.lasts.loaded c).trans hload
  have hend := answer_lasts (faultBinding (setBarrier v c Barrier.reset) c) ⟨pkt, 0#4096⟩ St.ok 0
  refine ⟨(hend.faulted c).trans (hfault hloaded), ?_, told_sent (fun o ho => hend.sent (hsent o ho)) hv.told⟩
  rw [barrierOf_of_sliceOf hend.slice, barrierOf_of_sliceOf hkeep, barrierOf_setBarrier]

theorem commitScatter_gives (habandon : LSync.ABANDON.on w = false) (hwait : (s.bind (LSync.BINDING.get w)).waitBarrier = true)
    (hturn : LSync.TURN.get w = bTurn (s.bind (LSync.BINDING.get w)) + 1) : Runs (.barrierScatter ⟨⟨port, pkt⟩, w⟩ entries) s (fun t =>
      bTurn (t.bind (LSync.BINDING.get w)) = (bTurn (s.bind (LSync.BINDING.get w)) + 1) % 2 ^ 64 ∧ Told s w t ∧
      LTurnBlk.COMMIT_TIME.get (t.bind (LSync.BINDING.get w)).blk = LSync.TIME.get w ∧
      (entries ≠ [] → bFaulted (s.bind (LSync.BINDING.get w)) = false → Taken t (LSync.BINDING.get w) entries)) := by
  refine scatterRuns (f := fun v => takeTurn (sliceCommit v (LSync.BINDING.get w) (LSync.TIME.get w) (LSync.HOLD.on w) (LSync.RESET.on w))
    (LSync.BINDING.get w) entries) h ?_ fun v hv => ?_
  · rw [scatterRecord_binding hform hfail hcontinue hplain hb, habandon, hturn, hwait]
    simp
  have hmember := hv.tree.isLeader_eq.trans h.member
  have hb' := (hv.tree.sliceBinding_eq _).trans hb
  generalize LSync.BINDING.get w = c at hb'
  obtain ⟨hsent, hcount, hcommit⟩ := sliceCommit_gives v c (LSync.HOLD.on w) (LSync.RESET.on w) (time := LSync.TIME.get w) (BitVec.isLt _)
  obtain ⟨hphase, hfault⟩ := sliceCommit_idle hmember hb' (LSync.TIME.get w) (LSync.HOLD.on w) (LSync.RESET.on w)
  generalize sliceCommit v c (LSync.TIME.get w) (LSync.HOLD.on w) (LSync.RESET.on w) = y at hsent hcount hcommit hphase hfault
  rw [hv.lasts.turn c] at hcount
  rw [hv.lasts.faulted c] at hfault
  have hkeep := takeTurn_keeps y c entries
  have hend := answer_lasts (takeTurn y c entries) ⟨pkt, 0#4096⟩ St.ok 0
  have hbind := bind_of_binds ((answer_only (takeTurn y c entries) ⟨pkt, 0#4096⟩ St.ok 0).same .binds (by decide)) c
  refine ⟨(hend.turn c).trans ((hkeep.turn c).trans hcount), told_sent (fun o ho => hend.sent (hkeep.sent (hsent o ho))) hv.told,
    (hend.commitTime c).trans ((hkeep.time c).trans hcommit), fun hents hok => ?_⟩
  rw [Taken, hbind]
  exact takeTurn_taken hents (hfault.trans hok) (by rw [inFlight, hphase]; simp)

theorem startScatter_gives (habandon : LSync.ABANDON.on w = false) (htime : LSync.TIME.get w = 0)
    (hturn : LSync.TURN.get w = bTurn (s.bind (LSync.BINDING.get w))) (hents : entries ≠ [])
    (hok : bFaulted (s.bind (LSync.BINDING.get w)) = false) (hflight : inFlight s (LSync.BINDING.get w) = false) :
    Runs (.barrierScatter ⟨⟨port, pkt⟩, w⟩ entries) s (fun t => Taken t (LSync.BINDING.get w) entries ∧ Told s w t) := by
  refine scatterRuns (f := fun v => takeTurn v (LSync.BINDING.get w) entries) h ?_ fun v hv => ?_
  · rw [scatterRecord_binding hform hfail hcontinue hplain hb, habandon, hturn, htime]
    simp
  generalize LSync.BINDING.get w = c at hok hflight
  have hbind := bind_of_binds ((answer_only (takeTurn v c entries) ⟨pkt, 0#4096⟩ St.ok 0).same .binds (by decide)) c
  have hend := answer_lasts (takeTurn v c entries) ⟨pkt, 0#4096⟩ St.ok 0
  refine ⟨?_, told_sent (fun o ho => hend.sent ((takeTurn_keeps v c entries).sent ho)) hv.told⟩
  rw [Taken, hbind]
  exact takeTurn_taken hents ((hv.lasts.faulted c).trans hok) ((inFlight_of_binds hv.binds c).trans hflight)

end

/-! ## The statement -/

/-- Settles O49, row by row: a record goes up or down the tree by the device's place and its slice alone, which no command of these rows
moves before it has gone; a member composes no turn of its own, so that its binding is IDLE as the scatter's turn is taken. -/
theorem sliceRecordsTakeEffect : Obligations.SliceRecordsTakeEffect := by
  unfold Obligations.SliceRecordsTakeEffect
  intro s b port p up pkt w entries passes told parent acked member leader
  refine ⟨fun hrun => ⟨?_, ?_, ?_, ?_, ?_⟩, fun hrun hcome hchild => ?_, fun hrun hcome hmine => ?_⟩
  · exact fun hstate hmember hp hkids hdue => formResend_gives hrun hstate hmember hp hkids hdue
  · exact fun hstate hdue => formTimeout_gives hrun hstate hdue
  · exact fun hlate hmember => memberTimeout_gives hrun hlate hmember
  · exact fun hlate hleader hflight => leaderTimeout_gives hrun hlate hleader hflight
  · exact fun hlate => scatterTimeout_gives hrun hlate
  · intro c x n i
    have h : FromChild s port pkt w := ⟨hrun, hcome, hchild⟩
    refine ⟨fun hform hstate => ?_, fun hform hreset hstate hfresh => ?_, fun hform hreset hb hfresh => ?_⟩
    · refine ⟨formTake_got s port w, fun hleader hkids => (formGather_leader h hform hstate hleader hkids).1,
        fun hleader hkids => (formGather_leader h hform hstate hleader hkids).2,
        fun hmember hkids hp => formGather_member h hform hstate hmember hkids hp, fun hkids => formGather_early h hform hstate hkids⟩
    · have hrecord : ResetRecord s port pkt w := ⟨h, hform, hreset, hstate, hfresh⟩
      exact ⟨fun hleader hwhole hfull => resetGather_leader hrecord hleader hwhole hfull,
        fun hmember hwhole hp => resetGather_member hrecord hmember hwhole hp, fun hpart => resetGather_part hrecord hpart⟩
    · have hrecord : CommitRecord s port pkt w := ⟨h, hform, hreset, hb, hfresh⟩
      exact ⟨fun hmember => commitGather_member hrecord hmember,
        fun hleader hflags hflight => commitGather_abandons hrecord hleader hflags hflight,
        fun hleader hflags harrived hfull => commitGather_commits hrecord hleader hflags harrived hfull,
        fun hleader hflags hpart => commitGather_waits hrecord hleader hflags hpart⟩
  · intro c i taken goes
    have h : FromParent s port pkt w := ⟨hrun, hcome, hmine⟩
    refine ⟨fun hform hstate => formScatter_gives h hform hstate, fun hform hfail hstate => failScatter_gives h hform hfail hstate,
      fun hform hfail => ⟨fun hcontinue hstate => continueScatter_gives h hform hfail hcontinue hstate,
        fun hcontinue hreset htime hstate => resetScatter_gives h hform hfail hcontinue hreset htime hstate,
        fun hcontinue hplain hb => ⟨?_, ?_, ?_⟩⟩⟩
    · exact fun habandon hload => abandonScatter_gives h hform hfail hcontinue hplain hb habandon hload
    · exact fun habandon hwait hturn => commitScatter_gives h hform hfail hcontinue hplain hb habandon hwait hturn
    · exact fun habandon htime hturn hents hok hflight =>
        startScatter_gives h hform hfail hcontinue hplain hb habandon htime hturn hents hok hflight

end Sys2Proof.Slices
end

section
/-! Block steps of a matrix instruction: what one leaves of its block, and where a run of them ends (R174 to R184, R187, R193). -/

namespace Sys2Proof.Matrix

open Sys2Proof Sys2Proof.Machine Sys2Proof.Laws Sys2Proof.Lasting Sys2Proof.Pins Sys2Proof.Phases

set_option linter.tactic.unusedName false

variable {s t u : State} {c b n : Nat} {w : BitVec 256} {r : MxRun}

/-! ## Blocks in their slots (R186) -/

theorem readF32_of_mem (h : t.mem = s.mem) : readF32 t = readF32 s := funext fun k => by
  rw [readF32, Splits.readNat_of_mem h, readF32]

theorem readBlock_of_mem (h : t.mem = s.mem) (c : Nat) (wide : Bool) (slot : Nat) : readBlock t c wide slot = readBlock s c wide slot := by
  rw [readBlock, readF32_of_mem h, readBlock]

/-- An element as it stands in its slot: no flags, and no second word in normal mode. -/
def stored (wide : Bool) (x : MxElem) : MxElem := ⟨x.hi, if wide then x.lo else 0#32, false, false⟩

theorem length_blockBytes (wide : Bool) {l : List MxElem} (h : l.length = 256) : (blockBytes wide l).length = slotBytes wide := by
  cases wide with
  | false => simp [blockBytes, slotBytes, Vector.length_wordsBytes, h]
  | true => simp [blockBytes, slotBytes, Vector.length_wordsBytes, h]

/-- Words that a range of bytes holds, one by one. -/
theorem readF32_of_words {k : Nat} {l : List W32} (h : readBytes t k (4 * l.length) = wordsBytes l) {i : Nat} (hi : i < l.length) :
    readF32 t (k + 4 * i) = l.getD i 0#32 := by
  have hwords : readWords t k l.length = l := Splits.readWords_of_bytes (by rw [Vector.length_wordsBytes]; exact h)
  rw [List.getD_eq_getElem _ _ hi]
  have hget := congrArg (fun x => x[i]?) hwords
  simp only [readWords, List.getElem?_map, List.getElem?_range hi, Option.map_some, List.getElem?_eq_getElem hi] at hget
  exact Option.some.inj hget

theorem readBytes_append (t : State) (k n m : Nat) : readBytes t k (n + m) = readBytes t k n ++ readBytes t (k + n) m := by
  rw [readBytes, List.range_add, List.map_append, List.map_map, readBytes, readBytes]
  congr 1
  exact List.map_congr_left fun i _ => by rw [Function.comp, Nat.add_assoc]

/-- A slot that holds a block's bytes is read as the block. -/
theorem readBlock_of_bytes {wide : Bool} {slot : Nat} {l : List MxElem} (hl : l.length = 256)
    (h : readBytes t (slotKey c wide slot) (slotBytes wide) = blockBytes wide l) : readBlock t c wide slot = l.map (stored wide) := by
  have hhi : readBytes t (slotKey c wide slot) (4 * (l.map (·.hi)).length) = wordsBytes (l.map (·.hi)) ∧
      (wide = true → readBytes t (slotKey c wide slot + 1024) (4 * (l.map (·.lo)).length) = wordsBytes (l.map (·.lo))) := by
    have hlen : (readBytes t (slotKey c wide slot) 1024).length = (wordsBytes (l.map (·.hi))).length := by
      rw [Stores.length_readBytes, Vector.length_wordsBytes, List.length_map, hl]
    cases wide with
    | false =>
      rw [List.length_map, hl]
      exact ⟨h.trans (List.append_nil _), fun hno => absurd hno Bool.false_ne_true⟩
    | true =>
      have hsplit : readBytes t (slotKey c true slot) (1024 + 1024) = wordsBytes (l.map (·.hi)) ++ wordsBytes (l.map (·.lo)) := h
      rw [readBytes_append] at hsplit
      obtain ⟨hfirst, hsecond⟩ := List.append_inj hsplit hlen
      rw [List.length_map, List.length_map, hl]
      exact ⟨hfirst, fun _ => hsecond⟩
  refine List.ext_getElem (by simp [readBlock, hl]) fun i h1 h2 => ?_
  have hi : i < l.length := by simpa using h2
  simp only [readBlock, List.getElem_map, List.getElem_range, stored]
  rw [readF32_of_words hhi.1 (by simpa using hi)]
  have hhiget : (l.map (·.hi)).getD i 0#32 = l[i].hi := by rw [List.getD_eq_getElem _ _ (by simpa using hi), List.getElem_map]
  rw [hhiget]
  cases wide with
  | false => rfl
  | true =>
    have hlo := readF32_of_words (hhi.2 rfl) (i := i) (by simpa using hi)
    have hloget : (l.map (·.lo)).getD i 0#32 = l[i].lo := by rw [List.getD_eq_getElem _ _ (by simpa using hi), List.getElem_map]
    rw [hloget] at hlo
    rw [if_pos rfl, hlo, if_pos rfl]

theorem readBlock_lo (s : State) (c slot i : Nat) : ((readBlock s c false slot).getD i ⟨0#32, 0#32, false, false⟩).lo = 0#32 := by
  by_cases hi : i < (readBlock s c false slot).length
  · rw [List.getD_eq_getElem _ _ hi]
    simp [readBlock]
  · rw [List.getD_eq_default _ _ (by omega)]

/-! ## One block step -/

/-- In normal mode a tree leaves the second word. -/
theorem addTree_lo (x : MxElem) (v : MxVal) (m : Nat) : (addTree false x v m).lo = x.lo := rfl

theorem stepElem_lo (s : State) (c : Nat) (pro : List (BitVec 128)) (step m n : Nat) (x : MxElem) (hw : LMx.WIDE.on w = false) :
    (stepElem s c w pro step m n x).lo = x.lo := by
  unfold stepElem
  rw [hw]
  generalize List.range (mxTrees w) = l
  induction l generalizing x with
  | nil => rfl
  | cons h l ih => rw [List.foldl_cons, ih, addTree_lo]

/-- The slot of a block step's block. -/
def stepSlot (r : MxRun) : Nat := blockSlot r.w (visit r.w r.pos).2.2.1 (visit r.w r.pos).2.2.2

/-- The elements that a block step leaves in its block. -/
def stepBlock (s : State) (c : Nat) (r : MxRun) : List MxElem :=
  (List.range 256).map (fun i => stepElem s c r.w (prologue s r.binding r.w).reverse (visit r.w r.pos).2.1
    (16 * (visit r.w r.pos).2.2.1 + i / 16) (16 * (visit r.w r.pos).2.2.2 + i % 16)
    ((readBlock s c (LMx.WIDE.on r.w) (stepSlot r)).getD i ⟨0#32, 0#32, false, false⟩))

theorem length_stepBlock (s : State) (c : Nat) (r : MxRun) : (stepBlock s c r).length = 256 := by simp [stepBlock]

theorem stored_stepBlock (s : State) (c : Nat) (r : MxRun) : (stepBlock s c r).map (stored (LMx.WIDE.on r.w)) =
    (stepBlock s c r).map (fun y => (⟨y.hi, y.lo, false, false⟩ : MxElem)) := by
  refine List.map_congr_left fun y hy => ?_
  obtain ⟨i, -, rfl⟩ := List.mem_map.mp hy
  rw [stored]
  split
  · rfl
  next hw =>
    have hw' : LMx.WIDE.on r.w = false := by simpa using hw
    rw [stepElem_lo _ _ _ _ _ _ _ hw', hw', readBlock_lo]

theorem bused_updCore (s : State) (c : Nat) {f : Core → Core} (h : ∀ x, (f x).bused = x.bused) : ((s.updCore c f).core c).bused = (s.core c).bused := by
  rw [State.updCore, setCore_core, h]

theorem core_of_cores (h : t.cores = s.cores) (c : Nat) : t.core c = s.core c := by rw [State.core, h, State.core]

theorem bused_setFlags (s : State) (c n : Nat) (ovf nanf : Bool) : ((setFlags s c n ovf nanf).core c).bused = (s.core c).bused := by
  unfold setFlags
  extract_lets x x' v
  have hcount : ∀ (y : State) (k m : Nat), ((y.countCore c k m).core c).bused = (y.core c).bused := fun y k m =>
    bused_updCore y c (f := fun x => { x with ctr := ctrAdd x.ctr k m }) fun _ => rfl
  rw [hcount, hcount]
  exact bused_updCore s c fun _ => rfl

/-- A block's elements are written in its slot, and its status word counts the step. -/
def putBlock (s : State) (c : Nat) (wide : Bool) (slot : Nat) (l : List MxElem) : State :=
  let n := statNum wide slot
  let s := writeBlock s c wide slot l
  let s := setFlags s c n (l.any (·.ovf)) (l.any (·.nanf))
  (setSlotStat s c n (LSlotSt.SINCE.set (slotStat s c n) (min 8191 (LSlotSt.SINCE.get (slotStat s c n) + 1)))).countCore c 0 1

/-- The layer of an instruction's first block step is noted. -/
def stepNoted (s : State) (r : MxRun) : State :=
  match r.layer.filter (fun _ => r.pos == 0) with
  | some l => noteLayer s r.binding l
  | none => s

/-- A slot whose sums have reached the binding's interval is spilled. -/
def stepSpilled (s : State) (c : Nat) (r : MxRun) : State :=
  if LMx.SPRUE.on r.w && LSlotSt.SINCE.get (slotStat s c (statNum (LMx.WIDE.on r.w) (stepSlot r))) == sprueInt s r.binding then
    spill s c (LMx.WIDE.on r.w) (stepSlot r) (LMx.SENT0.get r.w + blockIndex r.w (visit r.w r.pos).2.2.1 (visit r.w r.pos).2.2.2)
  else s

theorem blockStep_eq (s : State) (c : Nat) (r : MxRun) : blockStep s c r =
    (stepSpilled (putBlock (stepNoted s r) c (LMx.WIDE.on r.w) (stepSlot r) (stepBlock s c r)) c r).updCore c (fun x => { x with
      bused := x.bused + (if lastOfTile r.w r.pos then 1#32 else 0#32), run := some { r with pos := r.pos + 1 } }) := by
  unfold blockStep
  dsimp -zeta only
  extract_lets w wide slot pro old new' n v0 v1 v2 v3 v4
  have hnew : new' = stepBlock s c r := rfl
  have h3 : v3 = putBlock v0 c wide slot new' := rfl
  have h4 : v4 = stepSpilled v3 c r := rfl
  clear_value v4
  rw [h4, h3, hnew]
  rfl

theorem stepNoted_mem (s : State) (r : MxRun) : (stepNoted s r).mem = s.mem := by
  unfold stepNoted
  split
  · exact (noteLayer_only ..).same .mem (by decide)
  · rfl

theorem putBlock_mem (s : State) (c : Nat) (wide : Bool) (slot : Nat) (l : List MxElem) :
    (putBlock s c wide slot l).mem = memPut s.mem (slotKey c wide slot) (blockBytes wide l) := by
  unfold putBlock
  extract_lets n v0 v1
  have h1 : v1.mem = v0.mem := (setFlags_only ..).same .mem (by decide)
  have h0 : v0.mem = memPut s.mem (slotKey c wide slot) (blockBytes wide l) := rfl
  rw [(state_countCore_only ..).same .mem (by decide), (setSlotStat_only ..).same .mem (by decide), h1, h0]

end Sys2Proof.Matrix
end

section
/-! A matrix instruction's block steps, one after the other: where they stop, and what stops them (R181, R183, R193, R471). -/

namespace Sys2Proof.Matrix

open Sys2Proof Sys2Proof.Machine Sys2Proof.Laws Sys2Proof.Lasting Sys2Proof.Pins Sys2Proof.Phases

set_option linter.tactic.unusedName false

variable {s t u : State} {c b n : Nat} {w : BitVec 256} {r : MxRun}

/-! ## What a block step leaves of the core and of the turn -/

theorem bused_countCore (s : State) (c k m : Nat) : ((s.countCore c k m).core c).bused = (s.core c).bused :=
  bused_updCore s c (f := fun x => { x with ctr := ctrAdd x.ctr k m }) fun _ => rfl

theorem bused_setSlotStat (s : State) (c k : Nat) (v : W32) : ((setSlotStat s c k v).core c).bused = (s.core c).bused :=
  bused_updCore s c fun _ => rfl

theorem bused_putBlock (s : State) (c : Nat) (wide : Bool) (slot : Nat) (l : List MxElem) :
    ((putBlock s c wide slot l).core c).bused = (s.core c).bused := by
  unfold putBlock
  extract_lets k v0 v1
  rw [bused_countCore, bused_setSlotStat]
  exact (bused_setFlags ..).trans (congrArg Core.bused (core_of_cores ((writeBlock_only s c wide slot l).same .cores (by decide)) c))

theorem bused_spill (s : State) (c : Nat) (wide : Bool) (slot entry : Nat) : ((spill s c wide slot entry).core c).bused = (s.core c).bused := by
  unfold spill
  extract_lets l data v0 v1 k
  rw [bused_countCore, bused_setSlotStat]
  have h1 : v1.core c = v0.core c := core_of_cores ((rawWrite_only ..).same .cores (by decide)) c
  rw [h1]
  exact bused_updCore s c fun _ => rfl

theorem bused_stepSpilled (s : State) (c : Nat) (r : MxRun) : ((stepSpilled s c r).core c).bused = (s.core c).bused := by
  unfold stepSpilled
  split
  · exact bused_spill ..
  · rfl

theorem stepNoted_only (s : State) (r : MxRun) : OnlyChanges [.binds] s (stepNoted s r) := by
  unfold stepNoted
  split
  · exact noteLayer_only ..
  · exact only_refl _ s

theorem stepNoted_lasts (s : State) (r : MxRun) : Lasts s (stepNoted s r) := by
  unfold stepNoted
  split
  · exact noteLayer_lasts ..
  · exact lasts_refl s

theorem putBlock_only (s : State) (c : Nat) (wide : Bool) (slot : Nat) (l : List MxElem) :
    OnlyChanges [.mem, .wordErr, .dirty, .cores] s (putBlock s c wide slot l) :=
  only_step (state_countCore_only ..) (by decide) (only_step (setSlotStat_only ..) (by decide) (only_step (setFlags_only ..) (by decide)
    (only_step (writeBlock_only ..) (by decide) (only_refl _ s))))

theorem stepSpilled_only (s : State) (c : Nat) (r : MxRun) : OnlyChanges [.mem, .wordErr, .dirty, .cores] s (stepSpilled s c r) := by
  unfold stepSpilled
  split
  · exact only_step (spill_only ..) (by decide) (only_refl _ s)
  · exact only_refl _ s

theorem blockStep_run (s : State) (c : Nat) (r : MxRun) : ((blockStep s c r).core c).run = some { r with pos := r.pos + 1 } := by
  rw [blockStep_eq, State.updCore, setCore_core]

theorem blockStep_bused (s : State) (c : Nat) (r : MxRun) :
    ((blockStep s c r).core c).bused = (s.core c).bused + (if lastOfTile r.w r.pos then 1#32 else 0#32) := by
  rw [blockStep_eq, State.updCore, setCore_core]
  show ((stepSpilled _ c r).core c).bused + _ = _
  rw [bused_stepSpilled, bused_putBlock, core_of_cores ((stepNoted_only s r).same .cores (by decide))]

/-- A block step keeps what its binding owns: the turn's phase is as it was. -/
theorem blockStep_own (s : State) (c : Nat) (r : MxRun) (b : Nat) : ownOf ((blockStep s c r).bind b) = ownOf (s.bind b) := by
  rw [blockStep_eq, bind_of_binds ((state_updCore_only ..).same .binds (by decide)), bind_of_binds ((stepSpilled_only ..).same .binds (by decide)),
    bind_of_binds ((putBlock_only ..).same .binds (by decide))]
  exact (stepNoted_lasts s r).own b

theorem layerHolder_of_own (hslot : t.slot = s.slot) (hown : ∀ b, ownOf (t.bind b) = ownOf (s.bind b)) : layerHolder t = layerHolder s := by
  have hphase : ∀ b, bPhase (t.bind b) = bPhase (s.bind b) := fun b => Slices.phase_of_own (hown b)
  have hfault : ∀ b, bFaulted (t.bind b) = bFaulted (s.bind b) := fun b => Slices.faulted_of_own (hown b)
  rw [layerHolder, holderIn, hslot, layerHolder, holderIn]
  simp only [hphase, hfault]

theorem blockStep_holder (s : State) (c : Nat) (r : MxRun) : layerHolder (blockStep s c r) = layerHolder s :=
  layerHolder_of_own ((blockStep_only s c r).same .slot (by decide)) (blockStep_own s c r)

theorem layerHolder_of_only {l : List Part} (h : OnlyChanges l s t) (hl : ∀ p ∈ [Part.slot, .binds], p ∉ l) : layerHolder t = layerHolder s :=
  layerHolder_of_own (h.same .slot (hl _ (by decide))) fun b => by rw [bind_of_binds (h.same .binds (hl _ (by decide)))]

/-- Without a spill a block step writes its block alone. -/
theorem blockStep_mem (hsprue : LMx.SPRUE.on r.w = false) : (blockStep s c r).mem =
    memPut s.mem (slotKey c (LMx.WIDE.on r.w) (stepSlot r)) (blockBytes (LMx.WIDE.on r.w) (stepBlock s c r)) := by
  have hstays : ∀ v : State, stepSpilled v c r = v := fun v => by
    unfold stepSpilled
    rw [hsprue]
    rfl
  rw [blockStep_eq, hstays, (state_updCore_only ..).same .mem (by decide), putBlock_mem, stepNoted_mem]

/-! ## A read that fails (R471) -/

theorem not_holder_of_faulted (h : bFaulted (s.bind b) = true) : layerHolder s ≠ some b := by
  intro hb
  obtain ⟨-, hno⟩ := Option.filter_eq_some_iff.mp hb
  simp [h] at hno

theorem engineFault_gives (hb : layerHolder s = some b) (x : Nat × Nat) : bFaulted ((engineFault s b x).bind b) = true ∧
    ∀ c, engineOf ((engineFault s b x).core c) = engineOf (s.core c) := by
  have hnote := noteUncorr_lasts s x.1 x.2 3 (s.bind b).seat (some b)
  have hflight : inFlight (noteUncorr s x.1 x.2 3 (s.bind b).seat (some b)) b = true := by
    rw [Ends.inFlight_of_lasts hnote, inFlight_of_layerHolder hb]
  obtain ⟨l, hlasts⟩ := abandonTurn_lasts hflight
  exact ⟨(abandonTurn_block hflight).2, fun c => (hlasts.engine c).trans (hnote.engine c)⟩

/-! ## Where the steps stop -/

/-- Nothing is left to do at once: no run, all its steps done, its turn gone, or a wait. -/
def Stopped (s : State) (c : Nat) : Prop := ∀ r, (s.core c).run = some r →
  blockSteps r.w ≤ r.pos ∨ layerHolder s ≠ some r.binding ∨ mxWaits s c r = true

theorem mxRun_of_stopped (h : Stopped s c) (n : Nat) : mxRun c n s = s := by
  cases n with
  | zero => rfl
  | succ n =>
    rw [mxRun]
    split
    · rfl
    next r hr =>
      split
      · rfl
      next hgo =>
        simp only [Bool.or_eq_true, decide_eq_true_eq, not_or] at hgo
        obtain ⟨hpos, hholder⟩ := hgo
        obtain hdone | hgone | hwait := h r hr
        · exact absurd hdone hpos
        · exact absurd hgone hholder
        · rw [if_pos hwait]

/-- One step of a run that goes on. -/
theorem mxRun_step (hr : (s.core c).run = some r) (hpos : r.pos < blockSteps r.w) (hb : layerHolder s = some r.binding)
    (hwait : mxWaits s c r = false) (n : Nat) : mxRun c (n + 1) s = mxRun c n
      (if r.pos + 1 = blockSteps r.w ∧ layerHolder (withRanges s r.binding (stepRanges s r.binding c r.w r.pos) (fun s => blockStep s c r)) =
          some r.binding then
        mxEnd (withRanges s r.binding (stepRanges s r.binding c r.w r.pos) (fun s => blockStep s c r)) c { r with pos := r.pos + 1 }
      else withRanges s r.binding (stepRanges s r.binding c r.w r.pos) (fun s => blockStep s c r)) := by
  rw [mxRun, hr]
  dsimp only
  rw [if_neg (by simp only [Bool.or_eq_true, decide_eq_true_eq, not_or]; exact ⟨by omega, fun hno => hno hb⟩), hwait,
    if_neg Bool.false_ne_true]

/-- The run that an instruction's end leaves on its engine. -/
def endedRun (s : State) (r : MxRun) : Option MxRun :=
  if LMx.FIN.on r.w && (LMx.SPRUE.on r.w && !r.finished) then some r
  else if LMx.FIN.on r.w && !(epilogueStages s r.binding r.w).isEmpty then
    some { r with finished := LMx.FIN.on r.w && (r.finished || !LMx.SPRUE.on r.w) }
  else none

theorem mxEnd_run (s : State) (c : Nat) (r : MxRun) : ((mxEnd s c r).core c).run = endedRun s r := by
  rw [mxEnd, State.updCore, setCore_core]
  rfl

theorem mxEnd_bused (s : State) (c : Nat) (r : MxRun) : ((mxEnd s c r).core c).bused = (s.core c).bused := bused_updCore s c fun _ => rfl

theorem endedRun_same {q : MxRun} (h : endedRun s r = some q) : q.w = r.w ∧ q.binding = r.binding ∧ q.pos = r.pos := by
  unfold endedRun at h
  split at h
  · cases h; exact ⟨rfl, rfl, rfl⟩
  · split at h
    · cases h; exact ⟨rfl, rfl, rfl⟩
    · cases h

theorem mxEnd_stopped (h : blockSteps r.w ≤ r.pos) : Stopped (mxEnd s c r) c := fun q hq => by
  rw [mxEnd_run] at hq
  obtain ⟨hw, -, hpos⟩ := endedRun_same hq
  exact .inl (by rw [hw, hpos]; exact h)

/-- What the statement says of an instruction after its row. -/
def Ran (t : State) (c b : Nat) (w : BitVec 256) : Prop := (t.core c).run = none ∨ bFaulted (t.bind b) = true ∨
  ∃ q, (t.core c).run = some q ∧ q.w = w ∧ q.binding = b ∧ (blockSteps w ≤ q.pos ∨ mxWaits t c q = true)

theorem ran_of_stopped (hr : (s.core c).run = some r) (hb : layerHolder s = some r.binding) (h : Stopped s c) : Ran s c r.binding r.w := by
  obtain hdone | hgone | hwait := h r hr
  · exact .inr (.inr ⟨r, hr, rfl, rfl, .inl hdone⟩)
  · exact absurd hb hgone
  · exact .inr (.inr ⟨r, hr, rfl, rfl, .inr hwait⟩)

theorem noteRanges_holder (s : State) (l : List (Nat × Nat)) : layerHolder (noteRanges s l) = layerHolder s :=
  layerHolder_of_only (noteRanges_only s l) (by decide)

/-- As many steps as the instruction has bring it to its end, to a wait, or its turn to an end. -/
theorem mxRun_ran (n : Nat) : ∀ (s : State) (r : MxRun), (s.core c).run = some r → layerHolder s = some r.binding →
    blockSteps r.w ≤ r.pos + n → Ran (mxRun c n s) c r.binding r.w := by
  induction n with
  | zero => exact fun s r hr hb hle => .inr (.inr ⟨r, hr, rfl, rfl, .inl hle⟩)
  | succ n ih =>
    intro s r hr hb hle
    by_cases hstop : Stopped s c
    · rw [mxRun_of_stopped hstop]
      exact ran_of_stopped hr hb hstop
    · obtain ⟨hpos, hwait⟩ : r.pos < blockSteps r.w ∧ mxWaits s c r = false := by
        by_contra hno
        refine hstop fun q hq => ?_
        cases hr.symm.trans hq
        by_cases hpos : r.pos < blockSteps r.w
        · exact .inr (.inr (by simpa using fun h => hno ⟨hpos, h⟩))
        · exact .inl (by omega)
      rw [mxRun_step hr hpos hb hwait]
      cases hbad : badRange s (stepRanges s r.binding c r.w r.pos) with
      | some x =>
        obtain ⟨hfault, hengine⟩ := engineFault_gives hb x
        have hv : withRanges s r.binding (stepRanges s r.binding c r.w r.pos) (fun s => blockStep s c r) = engineFault s r.binding x := by
          rw [withRanges, hbad]
        rw [hv]
        obtain ⟨v, hv⟩ : ∃ v, v = engineFault s r.binding x := ⟨_, rfl⟩
        rw [← hv] at hfault hengine ⊢
        have hgone := not_holder_of_faulted hfault
        have hstopped : Stopped v c := fun q hq => by
          have hrun := congrArg Core.run (hengine c)
          have hrun' : (v.core c).run = (s.core c).run := hrun
          rw [hrun', hr] at hq
          cases hq
          exact .inr (.inl hgone)
        rw [if_neg (fun h => hgone h.2), mxRun_of_stopped hstopped]
        exact .inr (.inl hfault)
      | none =>
        have hv : withRanges s r.binding (stepRanges s r.binding c r.w r.pos) (fun s => blockStep s c r) =
            blockStep (noteRanges s (stepRanges s r.binding c r.w r.pos)) c r := by
          rw [withRanges, hbad]
        rw [hv]
        have hrun := blockStep_run (noteRanges s (stepRanges s r.binding c r.w r.pos)) c r
        have hholder := (blockStep_holder (noteRanges s (stepRanges s r.binding c r.w r.pos)) c r).trans (noteRanges_holder ..)
        generalize blockStep (noteRanges s (stepRanges s r.binding c r.w r.pos)) c r = v at hrun hholder
        rw [hb] at hholder
        by_cases hlast : r.pos + 1 = blockSteps r.w
        · rw [if_pos ⟨hlast, hholder⟩, mxRun_of_stopped (mxEnd_stopped (by show blockSteps r.w ≤ r.pos + 1; omega))]
          cases hend : endedRun v { r with pos := r.pos + 1 } with
          | none => exact .inl ((mxEnd_run ..).trans hend)
          | some q =>
            obtain ⟨hw, hbind, hq⟩ := endedRun_same hend
            exact .inr (.inr ⟨q, (mxEnd_run ..).trans hend, hw, hbind, .inl (by rw [hq]; show blockSteps r.w ≤ r.pos + 1; omega)⟩)
        · rw [if_neg (fun h => hlast h.1)]
          exact ih v { r with pos := r.pos + 1 } hrun hholder (by show blockSteps r.w ≤ r.pos + 1 + n; omega)

end Sys2Proof.Matrix
end

section
/-! A matrix instruction's row: its refusals, its start on an empty ring, its last block step (R41, R42, R181 to R185, R190). -/

namespace Sys2Proof.Matrix

open Sys2Proof Sys2Proof.Machine Sys2Proof.Laws Sys2Proof.Lasting Sys2Proof.Pins Sys2Proof.Phases

set_option linter.tactic.unusedName false

variable {s t u : State} {c b n : Nat} {w : BitVec 256} {r : MxRun}

/-! ## What an instruction reads depends on the memory and on its binding -/

section
variable (h : t.mem = s.mem)
include h

theorem deqScale_of_mem (c : Nat) (st : BitVec 128) (i : Nat) : deqScale t c st i = deqScale s c st i := by
  rw [deqScale, Vector.memByte_of_mem h, deqScale]

theorem freqAt_of_mem (k : Nat) : freqAt t k = freqAt s k := funext fun i => by rw [freqAt, Vector.readNat_of_mem h, freqAt]

theorem aVal_of_mem (c : Nat) (w : BitVec 256) (pro : List (BitVec 128)) : aVal t c w pro = aVal s c w pro := by
  induction pro with
  | nil => funext m k; rw [aVal, aVal, Vector.elemVal_of_mem h]
  | cons st rest ih => funext m k; simp only [aVal, ih, deqScale_of_mem h, Vector.rowPos_of_mem h, freqAt_of_mem h]

theorem bVal_of_mem (c : Nat) (w : BitVec 256) (pro : List (BitVec 128)) : bVal t c w pro = bVal s c w pro := by
  induction pro with
  | nil => funext k n; simp only [bVal, Vector.elemVal_of_mem h]
  | cons st rest ih => funext k n; simp only [bVal, ih, deqScale_of_mem h]

theorem stepElem_of_mem (c : Nat) (w : BitVec 256) (pro : List (BitVec 128)) (step m n : Nat) (x : MxElem) :
    stepElem t c w pro step m n x = stepElem s c w pro step m n x := by
  have htree : treeAt t c w pro = treeAt s c w pro := by
    funext step h' m n
    simp only [treeAt, aVal_of_mem h, bVal_of_mem h]
  rw [stepElem, htree, stepElem]

end

/-- A binding's turn has its moulds, and the binding its record. -/
def SameMoulds (s t : State) (b : Nat) : Prop := (t.bind b).turnMoulds = (s.bind b).turnMoulds ∧ (t.bind b).brec = (s.bind b).brec

theorem sameMoulds_of_bind (h : t.bind b = s.bind b) : SameMoulds s t b := ⟨by rw [h], by rw [h]⟩

theorem mouldStagesOf_of_moulds (h : SameMoulds s t b) (w : BitVec 256) : mouldStagesOf t b w = mouldStagesOf s b w := by
  rw [mouldStagesOf, mxMould, h.1, h.2, mouldStagesOf, mxMould]

theorem prologue_of_moulds (h : SameMoulds s t b) (w : BitVec 256) : prologue t b w = prologue s b w := by
  rw [prologue, mouldStagesOf_of_moulds h, prologue]

theorem epilogueStages_of_moulds (h : SameMoulds s t b) (w : BitVec 256) : epilogueStages t b w = epilogueStages s b w := by
  rw [epilogueStages, mouldStagesOf_of_moulds h, epilogueStages]

theorem setPhase_moulds (s : State) (b c : Nat) (l : List (Fld × Nat)) : SameMoulds s (setPhase s c l) b := by
  rcases eq_or_ne b c with rfl | hne
  · rw [SameMoulds, setPhase, State.updBind, setBind_bind]
    exact ⟨rfl, rfl⟩
  · exact sameMoulds_of_bind (setBind_bind_other _ _ _ _ hne)

theorem stepNoted_moulds (s : State) (r : MxRun) (b : Nat) : SameMoulds s (stepNoted s r) b := by
  unfold stepNoted
  split
  · rw [noteLayer]
    split
    · exact setPhase_moulds ..
    · exact ⟨rfl, rfl⟩
  · exact ⟨rfl, rfl⟩

/-- A block step keeps the moulds: of the bindings it changes the layer of its own alone. -/
theorem blockStep_moulds (s : State) (c : Nat) (r : MxRun) (b : Nat) : SameMoulds s (blockStep s c r) b := by
  have hrest : (blockStep s c r).bind b = (stepNoted s r).bind b := by
    rw [blockStep_eq, bind_of_binds ((state_updCore_only ..).same .binds (by decide)), bind_of_binds ((stepSpilled_only ..).same .binds (by decide)),
      bind_of_binds ((putBlock_only ..).same .binds (by decide))]
  rw [SameMoulds, hrest]
  exact stepNoted_moulds s r b

theorem fin_of_stages (h : (epilogueStages s b w).isEmpty = false) : LMx.FIN.on w = true := by
  by_contra hno
  rw [epilogueStages, if_neg hno] at h
  cases h

/-! ## The row -/

theorem mxMma_runs {P : State → Prop} (hrun : running .arith s = true) (hc : c < 256) (hb : layerHolder s = some b) (hop : LMx.OP.get w = 1)
    (hP : P (mxMma c b w s)) : Runs (.mxMma c w) s P := by
  have hrow : exec (.mxMma c w) s = execMxMma c w s := rfl
  refine runs_of_when (hrow.trans (by rw [execMxMma, mxRow])) hrun (by simp [coreOk, hc, hop]) ?_
  rw [hb]
  exact hP

/-! ## Refused, held by earlier work, outside the windows -/

theorem mxFault_gives (hb : layerHolder s = some b) : bFaulted ((mxFault s b c).bind b) = true ∧ bPhase ((mxFault s b c).bind b) = 6 ∧
    Tab.get ((mxFault s b c).core c).ctr 0#64 0x038 = Tab.get (s.core c).ctr 0#64 0x038 + 1 := by
  have hflight : inFlight (s.countCore c 0x038 1) b = true := (inFlight_of_binds rfl b).trans (inFlight_of_layerHolder hb)
  obtain ⟨l, hlasts⟩ := abandonTurn_lasts hflight
  obtain ⟨hphase, hfault⟩ := abandonTurn_block hflight
  refine ⟨hfault, hphase, ?_⟩
  rw [mxFault, hlasts.core_ctr]
  show Tab.get ((s.countCore c 0x038 1).core c).ctr 0#64 0x038 = _
  rw [State.countCore, State.updCore, setCore_core]
  exact get_set_self ..

section
variable (hnone : (s.core c).run = none) (hheld : mxHeld s c b w = false)
include hnone hheld

theorem mxMma_of_bad (hbad : mxBad s b c w = true) : mxMma c b w s = mxFault s b c := by
  rw [mxMma, hnone]
  simp only [hheld, hbad, Bool.false_eq_true, if_false, if_true]

theorem mxMma_of_haz (hbad : mxBad s b c w = false) (hhaz : mxHaz s c b w = true) :
    mxMma c b w s = s.updCore c (fun x => { x with haz := some (w, b) }) := by
  rw [mxMma, hnone]
  simp only [hheld, hbad, hhaz, Bool.false_eq_true, if_false, if_true]

theorem mxMma_of_windows (hbad : mxBad s b c w = false) (hhaz : mxHaz s c b w = false) (hwin : mxWindows s b c w = false) :
    mxMma c b w s = (beginNext s b c 1).noteWindow (s.bind b).seat St.window := by
  rw [mxMma, hnone]
  simp only [hheld, hbad, hhaz, hwin, Bool.false_eq_true, if_false, if_true, Bool.not_false]

theorem mxMma_of_start (hbad : mxBad s b c w = false) (hhaz : mxHaz s c b w = false) (hwin : mxWindows s b c w = true) :
    mxMma c b w s = mxRun c (blockSteps w) (mxStart s b c w) := by
  rw [mxMma, hnone]
  simp only [hheld, hbad, hhaz, hwin, Bool.false_eq_true, if_false, Bool.not_true]

end

/-! ## The start (R181, R188) -/

/-- The state that an instruction begins on: INIT has emptied its slots. -/
def inited (s : State) (c : Nat) (w : BitVec 256) : State := if LMx.INIT.on w then mxInit s c w else s

/-- The run that an instruction begins as. -/
def firstRun (s : State) (b c : Nat) (w : BitVec 256) : MxRun :=
  ⟨w, b, (s.core c).bused, 0, false, (mxRecord s b c w).map (fun r => lpLayer r.2)⟩

theorem rings_setSlotStat (s : State) (c k : Nat) (v : W32) : ((setSlotStat s c k v).core c).bused = (s.core c).bused ∧
    ((setSlotStat s c k v).core c).bfill = (s.core c).bfill := by
  unfold setSlotStat
  rw [State.updCore, setCore_core]
  exact ⟨rfl, rfl⟩

/-- One slot of INIT, with its status word and its sprue entry. -/
def initSlot (c : Nat) (w : BitVec 256) (s : State) (i : Nat) : State :=
  let wide := LMx.WIDE.on w
  let slot := LMx.SLOT0.get w + i
  let s := rawWrite s (slotKey c wide slot) (List.replicate (slotBytes wide) 0#8)
  let s := setSlotStat s c (statNum wide slot) (setAll 0#32 [(LSlotSt.SPRUE, LMx.SPRUE.get w),
    (LSlotSt.SENT, LMx.SENT0.get w + i), (LSlotSt.WIDE, LMx.WIDE.get w)])
  if LMx.SPRUE.on w then rawWrite s (sprueKey c (LMx.SENT0.get w + i)) (List.replicate 0x800 0#8) else s

theorem mxInit_eq (s : State) (c : Nat) (w : BitVec 256) : mxInit s c w = (List.range (mxBlocks w)).foldl (initSlot c w) s := rfl

theorem rings_initSlot (s : State) (c : Nat) (w : BitVec 256) (i : Nat) : ((initSlot c w s i).core c).bused = (s.core c).bused ∧
    ((initSlot c w s i).core c).bfill = (s.core c).bfill := by
  unfold initSlot
  extract_lets wide slot v0 v1
  have h1 : (v1.core c).bused = (s.core c).bused ∧ (v1.core c).bfill = (s.core c).bfill := rings_setSlotStat v0 c _ _
  split
  · rw [core_of_cores ((rawWrite_only ..).same .cores (by decide))]
    exact h1
  · exact h1

theorem rings_mxInit (s : State) (c : Nat) (w : BitVec 256) : ((mxInit s c w).core c).bused = (s.core c).bused ∧
    ((mxInit s c w).core c).bfill = (s.core c).bfill := by
  rw [mxInit_eq]
  induction List.range (mxBlocks w) generalizing s with
  | nil => exact ⟨rfl, rfl⟩
  | cons i l ih =>
    obtain ⟨hused, hfill⟩ := rings_initSlot s c w i
    exact ⟨(ih _).1.trans hused, (ih _).2.trans hfill⟩

theorem rings_inited (s : State) (c : Nat) (w : BitVec 256) : ((inited s c w).core c).bused = (s.core c).bused ∧
    ((inited s c w).core c).bfill = (s.core c).bfill := by
  unfold inited
  split
  · exact rings_mxInit s c w
  · exact ⟨rfl, rfl⟩

theorem rings_beginNext (s : State) (b c kind : Nat) : ((beginNext s b c kind).core c).bused = (s.core c).bused ∧
    ((beginNext s b c kind).core c).bfill = (s.core c).bfill := by
  unfold beginNext
  split
  · rw [beginRecord, State.updCore, setCore_core]
    exact ⟨rfl, rfl⟩
  · exact ⟨rfl, rfl⟩

theorem mxStart_core (s : State) (b c : Nat) (w : BitVec 256) : ((mxStart s b c w).core c).run = some (firstRun s b c w) ∧
    ((mxStart s b c w).core c).haz = none ∧ ((mxStart s b c w).core c).bfill = (s.core c).bfill := by
  have hbegun := rings_beginNext (inited s c w) b c 1
  have hrings := rings_inited s c w
  have hcore : (mxStart s b c w).core c = { (beginNext (inited s c w) b c 1).core c with run := some ⟨w, b,
      ((beginNext (inited s c w) b c 1).core c).bused, 0, false, (mxRecord s b c w).map (fun r => lpLayer r.2)⟩, haz := none } := setCore_core ..
  rw [hcore]
  refine ⟨?_, rfl, hbegun.2.trans hrings.2⟩
  show some (MxRun.mk w b ((beginNext (inited s c w) b c 1).core c).bused 0 false _) = _
  rw [hbegun.1, hrings.1]
  rfl

theorem mxStart_ran (hb : layerHolder s = some b) : Ran (mxRun c (blockSteps w) (mxStart s b c w)) c b w := by
  have hholder : layerHolder (mxStart s b c w) = some b := (layerHolder_of_only (mxStart_only s b c w) (by decide)).trans hb
  exact mxRun_ran (blockSteps w) _ (firstRun s b c w) (mxStart_core s b c w).1 hholder (by show blockSteps w ≤ 0 + blockSteps w; omega)

/-- With an empty ring the instruction waits for its first tile. -/
theorem mxStart_waits (hempty : (s.core c).bfill = (s.core c).bused) : mxRun c (blockSteps w) (mxStart s b c w) = mxStart s b c w := by
  obtain ⟨hrun, -, hfill⟩ := mxStart_core s b c w
  refine mxRun_of_stopped (fun q hq => ?_) _
  rw [hrun] at hq
  cases hq
  refine .inr (.inr ?_)
  have hnothing : ((mxStart s b c w).core c).bfill - (firstRun s b c w).b0 = 0#32 := by
    rw [hfill, hempty]
    exact BitVec.sub_self _
  simp [mxWaits, hnothing]

/-! ## Slots at zero -/

theorem get_memPut_zero {m : Tab Byte} {j : Nat} (k n : Nat) (h : Tab.get m 0#8 j = 0#8) :
    Tab.get (memPut m k (List.replicate n 0#8)) 0#8 j = 0#8 := by
  by_cases hin : k ≤ j ∧ j < k + n
  · obtain ⟨i, rfl⟩ := Nat.exists_eq_add_of_le hin.1
    have hi : i < (List.replicate n 0#8).length := by rw [List.length_replicate]; omega
    rw [get_memPut_self _ _ hi, List.getElem_replicate]
  · exact (get_memPut_other _ (by rw [List.length_replicate]; omega)).trans h

/-- A byte that is 0 in a state. -/
theorem memByte_zeroWrite {j : Nat} (s : State) (k n : Nat) (h : memByte s j = 0#8) : memByte (rawWrite s k (List.replicate n 0#8)) j = 0#8 :=
  get_memPut_zero k n h

theorem memByte_zeroWritten (s : State) (k n : Nat) {i : Nat} (hi : i < n) : memByte (rawWrite s k (List.replicate n 0#8)) (k + i) = 0#8 := by
  have hi' : i < (List.replicate n 0#8).length := by rwa [List.length_replicate]
  exact (get_memPut_self _ _ hi').trans (List.getElem_replicate ..)

theorem initSlot_keeps {j : Nat} (s : State) (i : Nat) (h : memByte s j = 0#8) : memByte (initSlot c w s i) j = 0#8 := by
  unfold initSlot
  extract_lets wide slot v0 v1
  have h1 : memByte v1 j = 0#8 := memByte_zeroWrite _ _ _ h
  split
  · exact memByte_zeroWrite _ _ _ h1
  · exact h1

theorem initSlot_empties (s : State) (i : Nat) {j : Nat} (hj : j < slotBytes (LMx.WIDE.on w)) :
    memByte (initSlot c w s i) (slotKey c (LMx.WIDE.on w) (LMx.SLOT0.get w + i) + j) = 0#8 := by
  unfold initSlot
  extract_lets wide slot v0 v1
  have h1 : memByte v1 (slotKey c wide slot + j) = 0#8 := memByte_zeroWritten s _ _ hj
  split
  · exact memByte_zeroWrite _ _ _ h1
  · exact h1

theorem mxInit_empties {i j : Nat} (hi : i < mxBlocks w) (hj : j < slotBytes (LMx.WIDE.on w)) :
    memByte (mxInit s c w) (slotKey c (LMx.WIDE.on w) (LMx.SLOT0.get w + i) + j) = 0#8 := by
  have hkeeps : ∀ (l : List Nat) (s : State) {k : Nat}, memByte s k = 0#8 → memByte (l.foldl (initSlot c w) s) k = 0#8 := by
    intro l
    induction l with
    | nil => exact fun s k h => h
    | cons a l ih => exact fun s k h => ih _ (initSlot_keeps s a h)
  have hin : ∀ (l : List Nat) (s : State), i ∈ l →
      memByte (l.foldl (initSlot c w) s) (slotKey c (LMx.WIDE.on w) (LMx.SLOT0.get w + i) + j) = 0#8 := by
    intro l
    induction l with
    | nil => exact fun s h => absurd h List.not_mem_nil
    | cons a l ih =>
      intro s h
      obtain rfl | h := List.mem_cons.mp h
      · exact hkeeps l _ (initSlot_empties s i hj)
      · exact ih _ h
  rw [mxInit_eq]
  exact hin _ s (List.mem_range.mpr hi)

theorem readBytes_of_zero {k n : Nat} (h : ∀ j, j < n → memByte t (k + j) = 0#8) : readBytes t k n = List.replicate n 0#8 :=
  List.eq_replicate_iff.mpr ⟨Stores.length_readBytes .., fun x hx => by
    obtain ⟨j, hj, rfl⟩ := List.mem_map.mp hx
    exact h j (List.mem_range.mp hj)⟩

theorem mxStart_mem (s : State) (b c : Nat) (w : BitVec 256) : (mxStart s b c w).mem = (inited s c w).mem :=
  ((state_updCore_only ..).same .mem (by decide)).trans ((beginNext_only (inited s c w) b c 1).same .mem (by decide))

theorem mxStart_slots (s : State) (b c : Nat) (w : BitVec 256) : if LMx.INIT.on w then ∀ i, i < mxBlocks w →
      readBytes (mxStart s b c w) (slotKey c (LMx.WIDE.on w) (LMx.SLOT0.get w + i)) (slotBytes (LMx.WIDE.on w)) =
        List.replicate (slotBytes (LMx.WIDE.on w)) 0#8
    else (mxStart s b c w).mem = s.mem := by
  split
  next hinit =>
    intro i hi
    have hmem : (mxStart s b c w).mem = (mxInit s c w).mem := by rw [mxStart_mem, inited, if_pos hinit]
    rw [Vector.readBytes_of_mem hmem]
    exact readBytes_of_zero fun j hj => mxInit_empties hi hj
  next hinit => rw [mxStart_mem, inited, if_neg hinit]

/-! ## The last block step (R184, R185) -/

theorem stepBlock_same (hmem : t.mem = s.mem) (hbind : SameMoulds s t r.binding) (c : Nat) : stepBlock t c r = stepBlock s c r := by
  simp only [stepBlock, prologue_of_moulds hbind, readBlock_of_mem hmem, stepElem_of_mem hmem]

/-- The run that is left after the last block step of an instruction without sprue. -/
theorem endedRun_plain (hsprue : LMx.SPRUE.on r.w = false) : endedRun s r =
    if (epilogueStages s r.binding r.w).isEmpty then none else some { r with finished := true } := by
  unfold endedRun
  cases hempty : (epilogueStages s r.binding r.w).isEmpty with
  | true => simp [hsprue]
  | false => simp [hsprue, fin_of_stages hempty]

/-- What the statement says of an instruction's last block step. -/
structure LastStep (s : State) (c b : Nat) (w : BitVec 256) (r : MxRun) (t : State) : Prop where
  block : readBlock t c (LMx.WIDE.on w) (stepSlot r) = (stepBlock s c r).map (fun y => (⟨y.hi, y.lo, false, false⟩ : MxElem))
  outside : ∀ k, k < slotKey c (LMx.WIDE.on w) (stepSlot r) ∨
    slotKey c (LMx.WIDE.on w) (stepSlot r) + slotBytes (LMx.WIDE.on w) ≤ k → memByte t k = memByte s k
  bused : (t.core c).bused = (s.core c).bused + 1#32
  run : (t.core c).run = if (epilogueStages s b w).isEmpty then none else some { r with pos := r.pos + 1, finished := true }

theorem mxRun_lastStep (hb : layerHolder s = some r.binding) (hr : (s.core c).run = some r) (hlast : r.pos + 1 = blockSteps r.w)
    (hwait : mxWaits s c r = false) (hgood : badRange s (stepRanges s r.binding c r.w r.pos) = none) (hsprue : LMx.SPRUE.on r.w = false) :
    LastStep s c r.binding r.w r (mxRun c (blockSteps r.w) s) := by
  set u := noteRanges s (stepRanges s r.binding c r.w r.pos) with hu
  have honly : OnlyChanges [.wordErr, .bank, .ingots, .hm] s u := noteRanges_only ..
  have hmem : u.mem = s.mem := honly.same .mem (by decide)
  have hmoulds : SameMoulds s u r.binding := sameMoulds_of_bind (bind_of_binds (honly.same .binds (by decide)) _)
  have hdone : withRanges s r.binding (stepRanges s r.binding c r.w r.pos) (fun s => blockStep s c r) = blockStep u c r := by
    rw [withRanges, hgood]
  have hholder : layerHolder (blockStep u c r) = some r.binding := (blockStep_holder u c r).trans ((noteRanges_holder ..).trans hb)
  have hfinal : mxRun c (blockSteps r.w) s = mxEnd (blockStep u c r) c { r with pos := r.pos + 1 } := by
    obtain ⟨n, hn⟩ : ∃ n, blockSteps r.w = n + 1 := ⟨r.pos, hlast.symm⟩
    rw [hn, mxRun_step hr (by omega) hb hwait, hdone, if_pos ⟨hlast, hholder⟩,
      mxRun_of_stopped (mxEnd_stopped (by show blockSteps r.w ≤ r.pos + 1; omega))]
  have hholds : Stores.Holds (mxEnd (blockStep u c r) c { r with pos := r.pos + 1 }) (slotKey c (LMx.WIDE.on r.w) (stepSlot r))
      (blockBytes (LMx.WIDE.on r.w) (stepBlock s c r)) s := Stores.holds_memPut _ _ _ (by
    rw [(mxEnd_only ..).same .mem (by decide), blockStep_mem hsprue, hmem, stepBlock_same hmem hmoulds])
  have hlen : (blockBytes (LMx.WIDE.on r.w) (stepBlock s c r)).length = slotBytes (LMx.WIDE.on r.w) := length_blockBytes _ (length_stepBlock ..)
  have hstages : epilogueStages (blockStep u c r) r.binding r.w = epilogueStages s r.binding r.w :=
    (epilogueStages_of_moulds (blockStep_moulds u c r _) _).trans (epilogueStages_of_moulds hmoulds _)
  rw [hfinal]
  refine ⟨?_, fun k hk => Movers.memByte_of_holds hholds (by rw [hlen]; exact hk), ?_, ?_⟩
  · rw [← stored_stepBlock]
    exact readBlock_of_bytes (length_stepBlock ..) (by rw [← hlen]; exact Movers.readBytes_of_holds hholds)
  · have htile : lastOfTile r.w r.pos = true := by simp [lastOfTile, hlast]
    rw [mxEnd_bused, blockStep_bused, htile, core_of_cores (honly.same .cores (by decide))]
    rfl
  · rw [mxEnd_run, endedRun_plain (r := { r with pos := r.pos + 1 }) hsprue]
    show (if (epilogueStages (blockStep u c r) r.binding r.w).isEmpty then none else _) = _
    rw [hstages]

/-! ## The clauses -/

/-- An MX_MMA with no run on its engine. -/
theorem mxMma_begins (hrun : running .arith s = true) (hc : c < 256) (hb : layerHolder s = some b) (hop : LMx.OP.get w = 1)
    (hnone : (s.core c).run = none) (hheld : mxHeld s c b w = false) :
    (mxBad s b c w = true → Runs (.mxMma c w) s (fun t => bFaulted (t.bind b) = true ∧ bPhase (t.bind b) = 6 ∧
      Tab.get (t.core c).ctr 0#64 0x038 = Tab.get (s.core c).ctr 0#64 0x038 + 1)) ∧
    (mxBad s b c w = false → mxHaz s c b w = true → Runs (.mxMma c w) s (fun t =>
      (t.core c).haz = some (w, b) ∧ (t.core c).run = none ∧ OnlyChanges [.cores] s t)) ∧
    (mxBad s b c w = false → mxHaz s c b w = false → mxWindows s b c w = false → Runs (.mxMma c w) s (fun t =>
      t.core c = (beginNext s b c 1).core c ∧ t.mem = s.mem)) ∧
    (mxBad s b c w = false → mxHaz s c b w = false → mxWindows s b c w = true → Runs (.mxMma c w) s (Ran · c b w) ∧
      ((s.core c).bfill = (s.core c).bused → Runs (.mxMma c w) s (fun t => (t.core c).run = some (firstRun s b c w) ∧ (t.core c).haz = none ∧
        if LMx.INIT.on w then ∀ i, i < mxBlocks w →
          readBytes t (slotKey c (LMx.WIDE.on w) (LMx.SLOT0.get w + i)) (slotBytes (LMx.WIDE.on w)) =
            List.replicate (slotBytes (LMx.WIDE.on w)) 0#8
        else t.mem = s.mem))) := by
  refine ⟨fun hbad => ?_, fun hbad hhaz => ?_, fun hbad hhaz hwin => ?_, fun hbad hhaz hwin => ⟨?_, fun hempty => ?_⟩⟩ <;>
    refine mxMma_runs hrun hc hb hop ?_
  · rw [mxMma_of_bad hnone hheld hbad]
    exact mxFault_gives hb
  · rw [mxMma_of_haz hnone hheld hbad hhaz, State.updCore, setCore_core]
    exact ⟨rfl, hnone, state_setCore_only ..⟩
  · rw [mxMma_of_windows hnone hheld hbad hhaz hwin]
    exact ⟨core_of_cores ((state_noteWindow_only ..).same .cores (by decide)) c, ((state_noteWindow_only ..).same .mem (by decide)).trans
      ((beginNext_only ..).same .mem (by decide))⟩
  · rw [mxMma_of_start hnone hheld hbad hhaz hwin]
    exact mxStart_ran hb
  · obtain ⟨hfirst, hhaz', -⟩ := mxStart_core s b c w
    rw [mxMma_of_start hnone hheld hbad hhaz hwin, mxStart_waits hempty]
    exact ⟨hfirst, hhaz', mxStart_slots s b c w⟩

/-- An MX_MMA in progress goes on. -/
theorem mxMma_continues (hrun : running .arith s = true) (hc : c < 256) (hop : LMx.OP.get r.w = 1) (hb : layerHolder s = some r.binding)
    (hr : (s.core c).run = some r) : Runs (.mxMma c r.w) s (Ran · c r.binding r.w) ∧
      (r.pos + 1 = blockSteps r.w → mxWaits s c r = false → badRange s (stepRanges s r.binding c r.w r.pos) = none → LMx.SPRUE.on r.w = false →
        Runs (.mxMma c r.w) s (LastStep s c r.binding r.w r)) := by
  have hgoes : mxMma c r.binding r.w s = mxRun c (blockSteps r.w) s := by
    rw [mxMma, hr]
    exact if_pos ⟨rfl, rfl⟩
  refine ⟨mxMma_runs hrun hc hb hop ?_, fun hlast hwait hgood hsprue => mxMma_runs hrun hc hb hop ?_⟩
  · rw [hgoes]
    exact mxRun_ran _ s r hr hb (by omega)
  · rw [hgoes]
    exact mxRun_lastStep hb hr hlast hwait hgood hsprue

end Sys2Proof.Matrix
end

section
/-! MMA_FINISH: each sprue entry takes its slot, each slot the rounded entry (R185, R194, R195). -/

namespace Sys2Proof.Matrix

open Sys2Proof Sys2Proof.Machine Sys2Proof.Laws Sys2Proof.Lasting Sys2Proof.Pins Sys2Proof.Phases

set_option linter.tactic.unusedName false

variable {s t u : State} {c b n : Nat} {w : BitVec 256} {r : MxRun}

/-! ## Reads of a range that stands as before -/

/-- A range of bytes stands as before. -/
def Agree (s t : State) (k n : Nat) : Prop := ∀ j, j < n → memByte t (k + j) = memByte s (k + j)

theorem agree_refl (s : State) (k n : Nat) : Agree s s k n := fun _ _ => rfl

theorem Agree.trans {k : Nat} (h : Agree s t k n) (h' : Agree t u k n) : Agree s u k n := fun j hj => (h' j hj).trans (h j hj)

theorem Agree.sub {k k' n' : Nat} (h : Agree s t k n) (hlo : k ≤ k') (hhi : k' + n' ≤ k + n) : Agree s t k' n' := fun j hj => by
  have hpart := h (k' - k + j) (by omega)
  rwa [show k + (k' - k + j) = k' + j by omega] at hpart

theorem Agree.bytes {k : Nat} (h : Agree s t k n) : readBytes t k n = readBytes s k n :=
  List.map_congr_left fun j hj => h j (List.mem_range.mp hj)

theorem Agree.nat {k : Nat} (h : Agree s t k n) : readNat t k n = readNat s k n := by rw [readNat, h.bytes, readNat]

theorem agree_of_mem (h : t.mem = s.mem) (k n : Nat) : Agree s t k n := fun _ _ => by rw [Vector.memByte_of_mem h]

theorem readF64s_of_agree {k m : Nat} (h : Agree s t k (8 * m)) : readF64s t k m = readF64s s k m :=
  List.map_congr_left fun i hi => by
    have hpart : Agree s t (k + 8 * i) 8 := h.sub (by omega) (by have := List.mem_range.mp hi; omega)
    rw [readWord, hpart.nat, readWord]

theorem readF32_of_agree {k : Nat} (h : Agree s t k 4) : readF32 t k = readF32 s k := by rw [readF32, h.nat, readF32]

theorem readBlock_of_agree {wide : Bool} {slot : Nat} (h : Agree s t (slotKey c wide slot) (slotBytes wide)) :
    readBlock t c wide slot = readBlock s c wide slot := List.map_congr_left fun i hi => by
  have hi : i < 256 := List.mem_range.mp hi
  cases wide with
  | false => rw [readF32_of_agree (h.sub (k' := slotKey c false slot + 4 * i) (by omega) (by rw [slotBytes]; simp only [Bool.false_eq_true, if_false]; omega))]; rfl
  | true =>
    have hlen : slotBytes true = 2048 := rfl
    rw [readF32_of_agree (h.sub (k' := slotKey c true slot + 4 * i) (by omega) (by omega)),
      readF32_of_agree (h.sub (k' := slotKey c true slot + 1024 + 4 * i) (by omega) (by omega))]

/-! ## Places of slots and of sprue entries (R186, R194) -/

/-- The slots of an instruction lie in its core's accumulator memory. -/
theorem slotKey_bounds {wide : Bool} {slot : Nat} (h : slot < if wide then 512 else 1024) :
    slotKey c wide slot = accKey c 0 + slot * slotBytes wide ∧ slotKey c wide slot + slotBytes wide ≤ accKey c 0 + 0x100000 := by
  cases wide with
  | false =>
    have hslot : slot < 1024 := h
    have hlen : slotBytes false = 1024 := rfl
    have hkey : slotKey c false slot = accKey c 0 + slot * 1024 := by simp [slotKey, accKey]
    rw [hlen, hkey]
    omega
  | true =>
    have hslot : slot < 512 := h
    have hlen : slotBytes true = 2048 := rfl
    have hkey : slotKey c true slot = accKey c 0 + slot * 2048 := by simp [slotKey, accKey]
    rw [hlen, hkey]
    omega

theorem sprueKey_eq (c e : Nat) : sprueKey c e = sprueKey c 0 + e * 0x800 := by simp [sprueKey]

/-- The sprue buffer lies behind the accumulator memory. -/
theorem accKey_le_sprueKey (c : Nat) : accKey c 0 + 0x100000 ≤ sprueKey c 0 := by
  simp only [accKey, sprueKey]
  omega

theorem statNum_inj {wide : Bool} {i j : Nat} (h : statNum wide i = statNum wide j) : i = j := by
  cases wide with
  | false => exact h
  | true =>
    have h' : 2 * i = 2 * j := h
    omega

/-! ## One block is finished (R195) -/

/-- The entry of a block with its slot added. -/
def finishEnt (s : State) (c : Nat) (w : BitVec 256) (i : Nat) : List W64 :=
  let old := readBlock s c (LMx.WIDE.on w) (LMx.SLOT0.get w + i)
  sprueAdd (LMx.WIDE.on w) (readF64s s (sprueKey c (LMx.SENT0.get w + i)) 256) (old.map (·.hi) ++ old.map (·.lo))

theorem length_finishEnt (s : State) (c : Nat) (w : BitVec 256) (i : Nat) : (finishEnt s c w i).length = 256 := by
  simp [finishEnt, sprueAdd]

theorem length_f64Bytes (l : List W64) : (f64Bytes l).length = 8 * l.length := by
  have hmap : f64Bytes l = (l.map (·.toNat)).flatMap (fun x => bytesOf x 8) := by
    rw [List.flatMap_map]
    rfl
  rw [hmap, Vector.length_flatMap_bytesOf, List.length_map]

theorem stored_finishElem (wide : Bool) (l : List W64) : (l.map (finishElem wide)).map (stored wide) =
    l.map (fun x => (⟨(finishElem wide x).hi, (finishElem wide x).lo, false, false⟩ : MxElem)) := by
  rw [List.map_map]
  exact List.map_congr_left fun x _ => by cases wide <;> rfl

/-- The status word of a slot, after operations on it and on others. -/
theorem slotStat_setSlotStat (s : State) (c k : Nat) (v : W32) : slotStat (setSlotStat s c k v) c k = v := by
  rw [slotStat, setSlotStat, State.updCore, setCore_core]
  exact get_set_self ..

theorem slotStat_setSlotStat_other (s : State) (c : Nat) {k m : Nat} (v : W32) (h : m ≠ k) : slotStat (setSlotStat s c k v) c m = slotStat s c m := by
  rw [slotStat, setSlotStat, State.updCore, setCore_core]
  exact get_set_other h

theorem slotStat_countCore (s : State) (c k m j : Nat) : slotStat (s.countCore c k m) c j = slotStat s c j := by
  rw [slotStat, State.countCore, State.updCore, setCore_core, slotStat]

theorem slotStat_setFlags_other (s : State) (c : Nat) {k m : Nat} (ovf nanf : Bool) (h : m ≠ k) :
    slotStat (setFlags s c k ovf nanf) c m = slotStat s c m := by
  unfold setFlags
  extract_lets x x' v
  rw [slotStat_countCore, slotStat_countCore]
  exact slotStat_setSlotStat_other s c x' h

theorem since_set_zero (x : W32) : LSlotSt.SINCE.get (LSlotSt.SINCE.set x 0) = 0 :=
  Fabric.get_setAll_of_mem (v := 0) x (l := [(LSlotSt.SINCE, 0)]) (by simp) (List.pairwise_singleton _ _) (by decide)

theorem rawWrite_mem (s : State) (k : Nat) (bs : List Byte) : (rawWrite s k bs).mem = memPut s.mem k bs := rfl

theorem finishBlock_mem (s : State) (c : Nat) (w : BitVec 256) (i : Nat) : (finishBlock c w s i).mem =
    memPut (memPut s.mem (sprueKey c (LMx.SENT0.get w + i)) (f64Bytes (finishEnt s c w i)))
      (slotKey c (LMx.WIDE.on w) (LMx.SLOT0.get w + i)) (blockBytes (LMx.WIDE.on w) ((finishEnt s c w i).map (finishElem (LMx.WIDE.on w)))) := by
  unfold finishBlock
  extract_lets wide slot k old ent new' m v0 v1
  have h1 : v1.mem = v0.mem := (setFlags_only ..).same .mem (by decide)
  rw [(state_countCore_only ..).same .mem (by decide), (state_countCore_only ..).same .mem (by decide),
    (state_countCore_only ..).same .mem (by decide), (setSlotStat_only ..).same .mem (by decide), h1]
  have h0 : v0 = writeBlock (rawWrite s k (f64Bytes ent)) c wide slot new' := rfl
  rw [h0, writeBlock, rawWrite_mem, rawWrite_mem]
  rfl

theorem finishBlock_since (s : State) (c : Nat) (w : BitVec 256) (i : Nat) :
    LSlotSt.SINCE.get (slotStat (finishBlock c w s i) c (statNum (LMx.WIDE.on w) (LMx.SLOT0.get w + i))) = 0 := by
  unfold finishBlock
  extract_lets wide slot k old ent new' m v0 v1
  rw [slotStat_countCore, slotStat_countCore, slotStat_countCore, slotStat_setSlotStat]
  exact since_set_zero _

theorem finishBlock_stat_other (s : State) (c : Nat) (w : BitVec 256) {i m : Nat} (h : m ≠ statNum (LMx.WIDE.on w) (LMx.SLOT0.get w + i)) :
    slotStat (finishBlock c w s i) c m = slotStat s c m := by
  unfold finishBlock
  extract_lets wide slot k old ent new' m' v0 v1
  rw [slotStat_countCore, slotStat_countCore, slotStat_countCore, slotStat_setSlotStat_other _ _ _ h]
  have h0 : v0.core c = s.core c := core_of_cores (((rawWrite_only ..).same .cores (by decide)).trans ((rawWrite_only ..).same .cores (by decide))) c
  exact (slotStat_setFlags_other v0 c _ _ h).trans (by rw [slotStat, h0, slotStat])

/-! ## All blocks -/

/-- A block's slot and entry as MMA_FINISH leaves them (R195). -/
structure Finished (s : State) (c : Nat) (w : BitVec 256) (i : Nat) (t : State) : Prop where
  entry : readBytes t (sprueKey c (LMx.SENT0.get w + i)) 0x800 = f64Bytes (finishEnt s c w i)
  slot : readBytes t (slotKey c (LMx.WIDE.on w) (LMx.SLOT0.get w + i)) (slotBytes (LMx.WIDE.on w)) =
    blockBytes (LMx.WIDE.on w) ((finishEnt s c w i).map (finishElem (LMx.WIDE.on w)))
  since : LSlotSt.SINCE.get (slotStat t c (statNum (LMx.WIDE.on w) (LMx.SLOT0.get w + i))) = 0

/-- A block's slot and entry stand as before. -/
def Untouched (s : State) (c : Nat) (w : BitVec 256) (i : Nat) (t : State) : Prop :=
  Agree s t (sprueKey c (LMx.SENT0.get w + i)) 0x800 ∧ Agree s t (slotKey c (LMx.WIDE.on w) (LMx.SLOT0.get w + i)) (slotBytes (LMx.WIDE.on w))

theorem finishEnt_of_untouched {i : Nat} (h : Untouched s c w i t) : finishEnt t c w i = finishEnt s c w i := by
  rw [finishEnt, readBlock_of_agree h.2, readF64s_of_agree h.1, finishEnt]

section
variable (hslots : LMx.SLOT0.get w + mxBlocks w ≤ if LMx.WIDE.on w then 512 else 1024)
include hslots

/-- A block's finishing leaves the slots and entries of the others. -/
theorem finishBlock_apart (s : State) {i j : Nat} (hi : i < mxBlocks w) (hj : j < mxBlocks w) (hne : i ≠ j) : Untouched s c w j (finishBlock c w s i) := by
  obtain ⟨hki, hbi⟩ := slotKey_bounds (c := c) (wide := LMx.WIDE.on w) (slot := LMx.SLOT0.get w + i) (by omega)
  obtain ⟨hkj, hbj⟩ := slotKey_bounds (c := c) (wide := LMx.WIDE.on w) (slot := LMx.SLOT0.get w + j) (by omega)
  have hbehind := accKey_le_sprueKey c
  have hei := sprueKey_eq c (LMx.SENT0.get w + i)
  have hej := sprueKey_eq c (LMx.SENT0.get w + j)
  have hlen : (blockBytes (LMx.WIDE.on w) ((finishEnt s c w i).map (finishElem (LMx.WIDE.on w)))).length = slotBytes (LMx.WIDE.on w) :=
    length_blockBytes _ (by rw [List.length_map, length_finishEnt])
  have hlen' : (f64Bytes (finishEnt s c w i)).length = 0x800 := by rw [length_f64Bytes, length_finishEnt]
  have hstep : ∀ {a z : Nat}, a < z → a * slotBytes (LMx.WIDE.on w) + slotBytes (LMx.WIDE.on w) ≤ z * slotBytes (LMx.WIDE.on w) := fun {a z} h => by
    rw [← Nat.succ_mul]
    exact Nat.mul_le_mul_right _ h
  have hslot : ∀ x, x < slotBytes (LMx.WIDE.on w) → slotKey c (LMx.WIDE.on w) (LMx.SLOT0.get w + j) + x <
        slotKey c (LMx.WIDE.on w) (LMx.SLOT0.get w + i) ∨
      slotKey c (LMx.WIDE.on w) (LMx.SLOT0.get w + i) + slotBytes (LMx.WIDE.on w) ≤ slotKey c (LMx.WIDE.on w) (LMx.SLOT0.get w + j) + x := by
    intro x hx
    rcases Nat.lt_or_gt_of_ne hne with hlt | hlt
    · have := hstep (show LMx.SLOT0.get w + i < LMx.SLOT0.get w + j by omega)
      omega
    · have := hstep (show LMx.SLOT0.get w + j < LMx.SLOT0.get w + i by omega)
      omega
  constructor
  · intro x hx
    rw [memByte, finishBlock_mem, get_memPut_other _ (by rw [hlen]; omega), get_memPut_other _ (by rw [hlen']; omega), memByte]
  · intro x hx
    rw [memByte, finishBlock_mem, get_memPut_other _ (by rw [hlen]; exact hslot x hx), get_memPut_other _ (by rw [hlen']; omega), memByte]

theorem finishBlock_finishes (s : State) {i : Nat} (hi : i < mxBlocks w) : Finished s c w i (finishBlock c w s i) := by
  obtain ⟨hki, hbi⟩ := slotKey_bounds (c := c) (wide := LMx.WIDE.on w) (slot := LMx.SLOT0.get w + i) (by omega)
  have hbehind := accKey_le_sprueKey c
  have hei := sprueKey_eq c (LMx.SENT0.get w + i)
  have hlen : (blockBytes (LMx.WIDE.on w) ((finishEnt s c w i).map (finishElem (LMx.WIDE.on w)))).length = slotBytes (LMx.WIDE.on w) :=
    length_blockBytes _ (by rw [List.length_map, length_finishEnt])
  have hlen' : (f64Bytes (finishEnt s c w i)).length = 0x800 := by rw [length_f64Bytes, length_finishEnt]
  set v := rawWrite s (sprueKey c (LMx.SENT0.get w + i)) (f64Bytes (finishEnt s c w i)) with hv
  set data := blockBytes (LMx.WIDE.on w) ((finishEnt s c w i).map (finishElem (LMx.WIDE.on w))) with hdata
  have hmem : (finishBlock c w s i).mem = (rawWrite v (slotKey c (LMx.WIDE.on w) (LMx.SLOT0.get w + i)) data).mem := by
    rw [finishBlock_mem, rawWrite_mem, hv, rawWrite_mem]
  refine ⟨?_, ?_, finishBlock_since s c w i⟩
  · rw [Vector.readBytes_of_mem hmem, readBytes_rawWrite_apart _ (.inr (by rw [hlen]; omega)), hv, ← hlen']
    exact Mirrors.readBytes_rawWrite ..
  · rw [Vector.readBytes_of_mem hmem, ← hlen]
    exact Mirrors.readBytes_rawWrite ..

/-- After n blocks those are finished, and the others stand as before. -/
theorem finishBlocks_gives (s : State) (n : Nat) (hn : n ≤ mxBlocks w) :
    (∀ i, i < n → Finished s c w i ((List.range n).foldl (finishBlock c w) s)) ∧
    (∀ i, n ≤ i → i < mxBlocks w → Untouched s c w i ((List.range n).foldl (finishBlock c w) s)) := by
  induction n with
  | zero => exact ⟨fun i hi => absurd hi (Nat.not_lt_zero i), fun i _ _ => ⟨agree_refl _ _ _, agree_refl _ _ _⟩⟩
  | succ n ih =>
    obtain ⟨hdone, hleft⟩ := ih (by omega)
    rw [List.range_succ, List.foldl_append, List.foldl_cons, List.foldl_nil]
    generalize (List.range n).foldl (finishBlock c w) s = v at hdone hleft ⊢
    refine ⟨fun i hi => ?_, fun i hi hle => ?_⟩
    · rcases Nat.lt_or_eq_of_le (Nat.le_of_lt_succ hi) with hlt | rfl
      · obtain ⟨hentry, hslot, hsince⟩ := hdone i hlt
        obtain ⟨hkeepEntry, hkeepSlot⟩ := finishBlock_apart hslots (c := c) v (i := n) (j := i) (by omega) (by omega) (by omega)
        refine ⟨hkeepEntry.bytes.trans hentry, hkeepSlot.bytes.trans hslot, ?_⟩
        rw [finishBlock_stat_other _ _ _ fun h => by have := statNum_inj h; omega]
        exact hsince
      · obtain ⟨hentry, hslot, hsince⟩ := finishBlock_finishes hslots (c := c) v (i := i) (by omega)
        have hent := finishEnt_of_untouched (hleft i le_rfl (by omega))
        rw [hent] at hentry hslot
        exact ⟨hentry, hslot, hsince⟩
    · obtain ⟨hentry, hslot⟩ := hleft i (by omega) hle
      obtain ⟨hkeepEntry, hkeepSlot⟩ := finishBlock_apart hslots (c := c) v (i := n) (j := i) (by omega) hle (by omega)
      exact ⟨hentry.trans hkeepEntry, hslot.trans hkeepSlot⟩

end

/-! ## The row -/

/-- What the statement says of a finished block. -/
structure FinishGives (s : State) (c : Nat) (w : BitVec 256) (i : Nat) (t : State) : Prop where
  entry : readBytes t (sprueKey c (LMx.SENT0.get w + i)) 0x800 = f64Bytes (finishEnt s c w i)
  slot : readBlock t c (LMx.WIDE.on w) (LMx.SLOT0.get w + i) = (finishEnt s c w i).map (fun x =>
    (⟨(finishElem (LMx.WIDE.on w) x).hi, (finishElem (LMx.WIDE.on w) x).lo, false, false⟩ : MxElem))
  since : LSlotSt.SINCE.get (slotStat t c (statNum (LMx.WIDE.on w) (LMx.SLOT0.get w + i))) = 0

theorem finishGives_of_finished {i : Nat} (h : Finished s c w i t) : FinishGives s c w i t := by
  refine ⟨h.entry, ?_, h.since⟩
  rw [← stored_finishElem]
  exact readBlock_of_bytes (by rw [List.length_map, length_finishEnt]) h.slot

theorem slots_of_ok {mould : Nat → Bool} (h : mxOk mould w = true) : LMx.SLOT0.get w + mxBlocks w ≤ if LMx.WIDE.on w then 512 else 1024 := by
  unfold mxOk at h
  extract_lets slots at h
  rw [Bool.and_eq_true, Bool.and_eq_true, decide_eq_true_eq] at h
  exact h.1.2

theorem finishBlocks_only (c : Nat) (w : BitVec 256) (l : List Nat) (s : State) : OnlyChanges [.mem, .wordErr, .dirty, .cores] s
    (l.foldl (finishBlock c w) s) := by
  exact only_foldl (only_refl _ s) fun y i h => only_step (finishBlock_only c w y i) (by decide) h

theorem slotStat_mxEnd (s : State) (c : Nat) (r : MxRun) (m : Nat) : slotStat (mxEnd s c r) c m = slotStat s c m := by
  rw [slotStat, mxEnd, State.updCore, setCore_core, slotStat]

theorem mmaFinish_gives (hrun : running .arith s = true) (hc : c < 256) (hdue : finishDue s c = some r) (hok : mxOk (fun _ => true) r.w = true)
    (hgood : badRange s [mxSlotRange c r.w, mxSprueRange c r.w] = none) : Runs (.mmaFinish c) s (fun t =>
      (t.core c).run = (if (epilogueStages s r.binding r.w).isEmpty then none else some { r with finished := true }) ∧
      ∀ i, i < mxBlocks r.w → FinishGives s c r.w i t) := by
  have hrow : exec (.mmaFinish c) s = execMmaFinish c s := rfl
  refine runs_of_when (hrow.trans (by rw [execMmaFinish])) hrun (by simp [coreOk, hc]) ?_
  have hfin : LMx.FIN.on r.w = true := by
    obtain ⟨-, hr⟩ := Option.filter_eq_some_iff.mp hdue
    simp only [Bool.and_eq_true] at hr
    exact hr.1.1.1.1.2
  set u := noteRanges s [mxSlotRange c r.w, mxSprueRange c r.w] with hu
  have honly : OnlyChanges [.wordErr, .bank, .ingots, .hm] s u := noteRanges_only ..
  have hmem : u.mem = s.mem := honly.same .mem (by decide)
  have hgoes : mmaFinish c s = mxEnd ((List.range (mxBlocks r.w)).foldl (finishBlock c r.w) u) c { r with finished := true } := by
    rw [mmaFinish, hdue]
    dsimp only
    rw [withRanges, hgood]
  rw [hgoes]
  obtain ⟨hdone, -⟩ := finishBlocks_gives (c := c) (slots_of_ok hok) u (mxBlocks r.w) le_rfl
  have hblocks := finishBlocks_only c r.w (List.range (mxBlocks r.w)) u
  generalize (List.range (mxBlocks r.w)).foldl (finishBlock c r.w) u = v at hdone hblocks ⊢
  have hbind : v.bind r.binding = s.bind r.binding := bind_of_binds ((hblocks.same .binds (by decide)).trans (honly.same .binds (by decide))) _
  refine ⟨?_, fun i hi => ?_⟩
  · rw [mxEnd_run, endedRun]
    dsimp only
    rw [epilogueStages_of_moulds (sameMoulds_of_bind hbind)]
    simp [hfin]
  · have hsame : finishEnt u c r.w i = finishEnt s c r.w i := finishEnt_of_untouched ⟨agree_of_mem hmem _ _, agree_of_mem hmem _ _⟩
    obtain ⟨hentry, hslot, hsince⟩ := finishGives_of_finished (hdone i hi)
    rw [hsame] at hentry hslot
    exact ⟨hentry, hslot, (congrArg LSlotSt.SINCE.get (slotStat_mxEnd v c { r with finished := true } _)).trans hsince⟩

end Sys2Proof.Matrix
end

section
/-! The rows of an epilogue: what its stages read, and where its rows are written (R203, R210 to R212). -/

namespace Sys2Proof.Matrix

open Sys2Proof Sys2Proof.Machine Sys2Proof.Laws Sys2Proof.Lasting Sys2Proof.Pins Sys2Proof.Phases
open Sys2Proof.Vector (putAll memByte_putAll readBytes_putAll get_putAll_outside)

set_option linter.tactic.unusedName false

variable {s t u v : State} {c m : Nat} {w : BitVec 256} {eps : W32} {e : Epi}

/-! ## Stages keep a row's length -/

theorem length_slotRow (s : State) (c : Nat) (w : BitVec 256) (m : Nat) : (slotRow s c w m).length = mxN w := by simp [slotRow]

theorem length_gateRow (s : State) (c : Nat) (w : BitVec 256) (k m : Nat) : (gateRow s c w k m).length = mxN w := by simp [gateRow]

theorem length_stageRow (s : State) (c : Nat) (w : BitVec 256) (eps : W32) (m : Nat) {row : List W32} (x : BitVec 128)
    (h : row.length = mxN w) : (stageRow s c w eps m row x).length = mxN w := by
  unfold stageRow
  extract_lets k bits
  split
  · rw [List.length_zipWith, Vector.length_elemRow, h, Nat.min_self]
  · split
    · rw [List.length_map, h]
    · rw [List.length_zipWith, Vector.length_elemRow, h, Nat.min_self]
    · rw [List.length_map, h]
  · rw [List.length_map, h]
  · rw [List.length_zipWith, length_gateRow, h, Nat.min_self]
  · rw [List.length_zipWith, Vector.length_elemRow, h, Nat.min_self]
  · rw [rotRow, List.length_map, List.length_range, h]
  · rw [rmsRow, List.length_map, h]
  · exact h

/-- The stages before QUANT. -/
def rowStages (e : Epi) : List (BitVec 128) := e.stages.filter (fun x => decide (stKind x < 0x18))

/-- Row m as the stages leave it. -/
def epiOut (e : Epi) (s : State) (m : Nat) : List W32 := (rowStages e).foldl (stageRow s e.core e.w e.eps m) (slotRow s e.core e.w m)

theorem length_foldl_stageRow (s : State) (c : Nat) (w : BitVec 256) (eps : W32) (m : Nat) (l : List (BitVec 128)) {row : List W32}
    (h : row.length = mxN w) : (l.foldl (stageRow s c w eps m) row).length = mxN w := by
  induction l generalizing row with
  | nil => exact h
  | cons x l ih => exact ih (length_stageRow s c w eps m x h)

theorem length_epiOut (e : Epi) (s : State) (m : Nat) : (epiOut e s m).length = mxN e.w := length_foldl_stageRow _ _ _ _ _ _ (length_slotRow ..)

/-! ## What the stages read -/

/-- Bytes outside the accumulator memory stand as before. -/
def SlotsAlone (s t : State) (c : Nat) : Prop := ∀ k, k < accKey c 0 ∨ accKey c 0 + 0x400000 ≤ k → memByte t k = memByte s k

theorem SlotsAlone.agree (h : SlotsAlone s t c) {k n : Nat} (hk : k + n ≤ accKey c 0 ∨ accKey c 0 + 0x400000 ≤ k) : Agree s t k n :=
  fun j hj => h _ (by omega)

/-- A core's scratchpad, and 8 MB from its start, lie before its accumulator memory. -/
theorem scratchKey_le_accKey (c : Nat) {k : Nat} (h : k ≤ 0x900000) : scratchKey c k ≤ accKey c 0 := by
  have hcore : c % 8 < 8 := Nat.mod_lt _ (by decide)
  simp only [scratchKey, accKey]
  omega

theorem elemRow_of_agree {bits k n : Nat} (hbits : bits = 16 ∨ bits = 32) (h : Agree s t k (n * (bits / 8))) : elemRow t bits k n = elemRow s bits k n :=
  List.map_congr_left fun i hi => by
    have hi : i < n := List.mem_range.mp hi
    have hle : i * (bits / 8) + bits / 8 ≤ n * (bits / 8) := by rw [← Nat.succ_mul]; exact Nat.mul_le_mul_right _ hi
    have hpart : Agree s t (k + i * (bits / 8)) (bits / 8) := h.sub (by omega) (by omega)
    have hcode : elemCode t bits k i = elemCode s bits k i := by
      rcases hbits with rfl | rfl
      · exact hpart.nat
      · exact hpart.nat
    rw [elemVal, hcode, elemVal]

theorem rotIndex_lt {ctl d : Nat} (h : d < 512) : (rotIndex ctl d).1 < 512 := by
  unfold rotIndex
  split
  · show d / 2 < 512
    omega
  · exact lt_of_le_of_lt (Nat.mod_le _ _) h

theorem rotRow_of_agree {ctl pos k : Nat} {row : List W32} (h : Agree s t k 4096) : rotRow t ctl pos k row = rotRow s ctl pos k row := by
  rw [rotRow, rotRow]
  refine List.map_congr_left fun n _ => ?_
  have hd : n % rotD ctl < 512 ∨ rotR ctl ≤ n % rotD ctl := by
    have hr : rotR ctl < 512 := Nat.mod_lt _ (by decide)
    omega
  rw [rotAt, rotAt]
  split
  · rfl
  next hlow =>
    have hi := rotIndex_lt (ctl := ctl) (d := n % rotD ctl) (by omega)
    have hfreq : freqAt t k (rotIndex ctl (n % rotD ctl)).1 = freqAt s k (rotIndex ctl (n % rotD ctl)).1 := by
      have hpart : Agree s t (k + 8 * (rotIndex ctl (n % rotD ctl)).1) 6 := h.sub (by omega) (by omega)
      rw [freqAt, hpart.nat, freqAt]
    dsimp only
    rw [hfreq]

theorem rowPos_of_slots (h : SlotsAlone s t c) (m : Nat) : rowPos t c m = rowPos s c m := by
  have hbehind : accKey c 0 + 0x400000 ≤ clusterBase c + 0x1F7E800 + 4 * m := by
    have hcore : c % 8 < 8 := Nat.mod_lt _ (by decide)
    simp only [accKey]
    omega
  have hpart : Agree s t (clusterBase c + 0x1F7E800 + 4 * m) 4 := h.agree (.inr hbehind)
  rw [rowPos, hpart.nat, rowPos]

/-- A stage whose operands lie in the scratchpad: no GATE, and its rows within the scratchpad (R23, R205). -/
def stageCalm (q : Option Nat) (w : BitVec 256) (x : BitVec 128) : Bool :=
  stKind x != 0x0B && (stageRanges q w x).all (fun r => decide (r.1 + r.2 ≤ scratchBytes))

theorem mxN_le (w : BitVec 256) : mxN w ≤ 1024 := by
  have hnb := Instants.get_lt LMx.NB w
  have hnb' : LMx.NB.get w < 64 := hnb
  rw [mxN]
  omega

theorem base_le (x : BitVec 128) : LStg.BASE.get x * 64 ≤ 0x200000 := by
  have hbase : LStg.BASE.get x < 32768 := Instants.get_lt LStg.BASE x
  omega

/-- An ADD of rows reads within the range that it names. -/
theorem rows_of_calm {q : Option Nat} {x : BitVec 128} (hcalm : stageCalm q w x = true) (hk : stKind x = 0x0C) (hm : m < mxM w) :
    LStg.BASE.get x * 64 + (m * LStg.PITCH.get x * 64 + mxN w * (if LStg.FMT.get x = 1 then 2 else 4)) ≤ scratchBytes := by
  rw [stageCalm, stageRanges, hk] at hcalm
  simp only [Bool.and_eq_true, List.all_cons, List.all_nil, and_true, decide_eq_true_eq] at hcalm
  have hle : m * LStg.PITCH.get x * 64 ≤ (mxM w - 1) * LStg.PITCH.get x * 64 :=
    Nat.mul_le_mul_right _ (Nat.mul_le_mul_right _ (by omega))
  omega

theorem stageRow_of_slots (h : SlotsAlone s t c) {q : Option Nat} (m : Nat) (hm : m < mxM w) (row : List W32) (x : BitVec 128)
    (hcalm : stageCalm q w x = true) : stageRow t c w eps m row x = stageRow s c w eps m row x := by
  have hn := mxN_le w
  have hbase := base_le x
  have hmb : LMx.MB.get w < 16 := Instants.get_lt LMx.MB w
  have hrows : mxM w = 16 * (LMx.MB.get w + 1) := rfl
  unfold stageRow
  extract_lets k bits
  have hat : ∀ {j n : Nat}, k ≤ j → j + n ≤ k + 0x500000 → Agree s t j n := fun {j n} hlo hhi => h.agree (.inl (by
    have hle := scratchKey_le_accKey c (k := LStg.BASE.get x * 64 + 0x500000) (by omega)
    have hkey : scratchKey c (LStg.BASE.get x * 64 + 0x500000) = k + 0x500000 := by rw [scratchKey, ← Nat.add_assoc]; rfl
    omega))
  have hbits : (bits = 16 ∧ LStg.FMT.get x = 1) ∨ (bits = 32 ∧ ¬LStg.FMT.get x = 1) := by
    by_cases hf : LStg.FMT.get x = 1
    · exact .inl ⟨if_pos hf, hf⟩
    · exact .inr ⟨if_neg hf, hf⟩
  have hwidth : bits = 16 ∨ bits = 32 := hbits.imp And.left And.left
  have hlen : mxN w * (bits / 8) ≤ 4096 := by rcases hwidth with hb | hb <;> rw [hb] <;> omega
  clear_value k bits
  split
  next hk => rw [elemRow_of_agree hwidth (hat le_rfl (by omega))]
  next hk =>
    split
    · rfl
    · rw [elemRow_of_agree (.inr rfl) (hat le_rfl (by omega))]
    · rw [readF32_of_agree (hat (by omega) (by omega))]
  next hk => rfl
  next hk => simp [stageCalm, hk] at hcalm
  next hk =>
    have hrange := rows_of_calm hcalm hk hm
    have hbytes : scratchBytes = 0x180000 := rfl
    have hpart : Agree s t (k + m * LStg.PITCH.get x * 64) (mxN w * (bits / 8)) := hat (by omega) (by omega)
    rw [elemRow_of_agree hwidth hpart]
  next hk => rw [rowPos_of_slots h, rotRow_of_agree (hat le_rfl (by omega))]
  next hk => rfl
  next => rfl

end Sys2Proof.Matrix
end

section
/-! The writes of an epilogue: its rows into the slots, and through WRITE into the scratchpad (R210 to R212). -/

namespace Sys2Proof.Matrix

open Sys2Proof Sys2Proof.Machine Sys2Proof.Laws Sys2Proof.Lasting Sys2Proof.Pins Sys2Proof.Phases
open Sys2Proof.Vector (putAll memByte_putAll readBytes_putAll get_putAll_outside)

set_option linter.tactic.unusedName false

variable {s t u v : State} {c m : Nat} {w : BitVec 256} {eps : W32} {e : Epi} {x : BitVec 128}

/-! ## A row into its slots -/

/-- Key of row m's words in the block column nb. -/
def wordsKey (c : Nat) (w : BitVec 256) (m nb : Nat) : Nat := slotKey c (LMx.WIDE.on w) (blockSlot w (m / 16) nb) + 64 * (m % 16)

/-- The writes of row m into the block column nb. -/
def blockParts (c : Nat) (w : BitVec 256) (m : Nat) (row : List W32) (nb : Nat) : List (Nat × List Byte) :=
  (wordsKey c w m nb, wordsBytes ((row.drop (16 * nb)).take 16)) ::
    if LMx.WIDE.on w then [(wordsKey c w m nb + 1024, List.replicate 64 0#8)] else []

/-- The writes of row m into the slots. -/
def rowParts (c : Nat) (w : BitVec 256) (m : Nat) (row : List W32) : List (Nat × List Byte) :=
  (List.range (LMx.NB.get w + 1)).flatMap (blockParts c w m row)

theorem putAll_append (m : Tab Byte) (l k : List (Nat × List Byte)) : putAll m (l ++ k) = putAll (putAll m l) k := List.foldl_append ..

theorem foldl_putAll {α : Type} {f : State → α → State} {parts : α → List (Nat × List Byte)} (h : ∀ s a, (f s a).mem = putAll s.mem (parts a))
    (l : List α) (s : State) : (l.foldl f s).mem = putAll s.mem (l.flatMap parts) := by
  induction l generalizing s with
  | nil => rfl
  | cons a l ih => rw [List.foldl_cons, ih, h, List.flatMap_cons, putAll_append]

theorem writeRow_mem (c : Nat) (w : BitVec 256) (m : Nat) (s : State) (row : List W32) :
    (writeRow c w m s row).mem = putAll s.mem (rowParts c w m row) := by
  unfold writeRow
  extract_lets wide
  refine foldl_putAll (fun s nb => ?_) _ s
  show (if wide then rawWrite (rawWrite s (wordsKey c w m nb) (wordsBytes ((row.drop (16 * nb)).take 16))) (wordsKey c w m nb + 1024)
    (List.replicate 64 0#8) else rawWrite s (wordsKey c w m nb) (wordsBytes ((row.drop (16 * nb)).take 16))).mem = _
  rw [blockParts]
  have hwide : wide = LMx.WIDE.on w := rfl
  rw [← hwide, putAll, List.foldl_cons]
  generalize wordsBytes ((row.drop (16 * nb)).take 16) = bs
  cases wide with
  | true => rw [if_pos rfl, if_pos rfl, rawWrite_mem, rawWrite_mem, List.foldl_cons, List.foldl_nil]
  | false => rw [if_neg Bool.false_ne_true, if_neg Bool.false_ne_true, rawWrite_mem, List.foldl_nil]

/-! ## A row through WRITE -/

/-- A write of whole words meets none in part. -/
theorem partialUncorr_of_words {k n : Nat} (hk : k % 8 = 0) (hn : n % 8 = 0) : partialUncorr s k n = false := by
  rw [partialUncorr, List.any_eq_false]
  intro x _
  simp only [overlaps, Bool.and_eq_true, Bool.not_eq_true', decide_eq_true_eq, Bool.and_eq_false_iff, decide_eq_false_iff_not]
  omega

theorem putAllowed_of_allowed {b k : Nat} {bs : List Byte} {bad : Bool} (hwhole : partialUncorr s k bs.length = false)
    (hallow : writeAllowed s (s.bind b).seat k bs.length = true) : putAllowed b (s, bad) [(k, bs)] = (rawWrite s k bs, bad) := by
  rw [putAllowed, List.foldl_cons, List.foldl_nil]
  simp only [hwhole, hallow, Bool.false_eq_true, if_false, if_true]

/-- Without QUANT a row leaves as its words. -/
theorem writeParts_plain (s : State) (dst pitch mRows m : Nat) (row : List W32) :
    writeParts s none dst pitch mRows m row = [(dst + m * pitch * 64, wordsBytes row)] := by
  have hpack : packRow s (quantBits none) (dst + m * pitch * 64) (row.map (·.toNat)) = wordsBytes row := by
    rw [packRow, if_neg (by decide), List.flatMap_map]
    rfl
  rw [← hpack]
  rfl

/-- The writes of row m: into the slots and, with a WRITE, to its place. -/
def outParts (e : Epi) (m : Nat) (row : List W32) : List (Nat × List Byte) :=
  rowParts e.core e.w m row ++
    match e.dest with
    | none => []
    | some x => [(writeDst e.core x + m * LStg.PITCH.get x * 64, wordsBytes row)]

/-- Where an epilogue's rows go: into its slots alone, or unquantised to a place that may be written. -/
def Goes (e : Epi) (s : State) (m : Nat) : Prop := ∀ x, e.dest = some x → LStg.SUB.get x = 0 ∧ e.quant = none ∧
  writeAllowed s (s.bind e.binding).seat (writeDst e.core x + m * LStg.PITCH.get x * 64) (4 * mxN e.w) = true

/-- Only memory changes between, with its errors and dirty bits. -/
theorem writeAllowed_of_writes (h : OnlyChanges [.mem, .wordErr, .dirty] s t) : writeAllowed t = writeAllowed s := by
  have hfab : t.fab = s.fab := h.same .fab (by decide)
  have haddr : addrStatus t = addrStatus s := funext fun a => funext fun len => by
    rw [addrStatus, Vector.placeOf_of_fab hfab, haveChip, hfab, addrStatus, haveChip]
  funext seat k n
  rw [writeAllowed, haddr, Vector.devAddr_of_fab hfab, Vector.inWindows_of_same hfab (h.same .seats (by decide)),
    Vector.ownedArea_of_same (h.same .bank (by decide)) (h.same .binds (by decide)), writeAllowed]

theorem goes_of_writes (h : OnlyChanges [.mem, .wordErr, .dirty] s t) (hgoes : Goes e s m) : Goes e t m := fun x hx => by
  rw [writeAllowed_of_writes h, bind_of_binds (h.same .binds (by decide))]
  exact hgoes x hx

theorem writeDst_words (c : Nat) (h : LStg.SUB.get x = 0) : writeDst c x % 8 = 0 := by
  rw [writeDst, if_pos h]
  have hbase : sramBase % 8 = 0 := by decide
  simp only [scratchKey, clusterBase]
  omega

theorem epiRow_gives (s : State) (bad : Bool) {row : List W32} (hlen : row.length = mxN e.w) (hgoes : Goes e s m) :
    (epiRow e (s, bad) m row).2 = bad ∧ (epiRow e (s, bad) m row).1.mem = putAll s.mem (outParts e m row) ∧
      OnlyChanges [.mem, .wordErr, .dirty] s (epiRow e (s, bad) m row).1 := by
  have hwrote := writeRow_only e.core e.w m s row
  have hmem := writeRow_mem e.core e.w m s row
  unfold epiRow outParts
  extract_lets u
  have hu : u = writeRow e.core e.w m s row := rfl
  clear_value u
  subst hu
  cases hdest : e.dest with
  | none =>
    dsimp only
    rw [List.append_nil]
    exact ⟨rfl, hmem, hwrote⟩
  | some x =>
    obtain ⟨hsub, hquant, hallow⟩ := goes_of_writes hwrote hgoes x hdest
    have hbytes : (wordsBytes row).length = 4 * mxN e.w := by rw [Vector.length_wordsBytes, hlen]
    have hwhole : partialUncorr (writeRow e.core e.w m s row) (writeDst e.core x + m * LStg.PITCH.get x * 64) (wordsBytes row).length = false := by
      have hdst := writeDst_words e.core hsub
      refine partialUncorr_of_words (by omega) ?_
      rw [hbytes, mxN]
      omega
    dsimp only
    rw [if_neg (by omega), hquant, writeParts_plain, putAllowed_of_allowed hwhole (by rw [hbytes]; exact hallow), putAll_append, ← hmem]
    exact ⟨rfl, rfl, only_step (rawWrite_only ..) (by decide) hwrote⟩

/-! ## A row block (R211) -/

theorem zipIdx_map_range {α : Type} (g : Nat → α) (n : Nat) : ((List.range n).map g).zipIdx = (List.range n).map (fun i => (g i, i)) := by
  refine List.ext_getElem (by simp) fun i h1 h2 => ?_
  simp

/-- Stages without a ROWMAX leave the state, and each row as the stages one after the other. -/
theorem foldl_epiStage (e : Epi) (mb : Nat) (s : State) (bad : Bool) (l : List (BitVec 128)) (h : ∀ x ∈ l, stKind x ≠ 0x11) (g : Nat → List W32) :
    l.foldl (epiStage e mb) (s, bad, (List.range 16).map g) =
      (s, bad, (List.range 16).map (fun i => l.foldl (stageRow s e.core e.w e.eps (16 * mb + i)) (g i))) := by
  induction l generalizing g with
  | nil => rfl
  | cons x l ih =>
    rw [List.forall_mem_cons] at h
    have hstage : epiStage e mb (s, bad, (List.range 16).map g) x =
        (s, bad, (List.range 16).map (fun i => stageRow s e.core e.w e.eps (16 * mb + i) (g i) x)) := by
      rw [epiStage, if_neg h.1, zipIdx_map_range, List.map_map]
      rfl
    rw [List.foldl_cons, hstage, ih h.2]
    rfl

/-- The rows of a row block, with the stages' results written. -/
theorem epiBlock_eq (s : State) (bad : Bool) (mb : Nat) (h : ∀ x ∈ rowStages e, stKind x ≠ 0x11) :
    epiBlock e (s, bad) mb = (List.range 16).foldl (fun acc i => epiRow e acc (16 * mb + i) (epiOut e s (16 * mb + i))) (s, bad) := by
  unfold epiBlock
  extract_lets start a
  have ha : a = (s, bad, (List.range 16).map (fun i => epiOut e s (16 * mb + i))) := foldl_epiStage e mb s bad _ h _
  rw [ha]
  dsimp only
  rw [zipIdx_map_range, List.foldl_map]

theorem foldl_epiRow (mb : Nat) {rows : Nat → List W32} (hlen : ∀ m, (rows m).length = mxN e.w) (l : List Nat) (s : State) (bad : Bool)
    (hgoes : ∀ i ∈ l, Goes e s (16 * mb + i)) :
    (l.foldl (fun acc i => epiRow e acc (16 * mb + i) (rows (16 * mb + i))) (s, bad)).2 = bad ∧
    (l.foldl (fun acc i => epiRow e acc (16 * mb + i) (rows (16 * mb + i))) (s, bad)).1.mem =
      putAll s.mem (l.flatMap fun i => outParts e (16 * mb + i) (rows (16 * mb + i))) ∧
    OnlyChanges [.mem, .wordErr, .dirty] s (l.foldl (fun acc i => epiRow e acc (16 * mb + i) (rows (16 * mb + i))) (s, bad)).1 := by
  induction l generalizing s with
  | nil => exact ⟨rfl, rfl, only_refl _ s⟩
  | cons i l ih =>
    rw [List.forall_mem_cons] at hgoes
    obtain ⟨hbad, hmem, honly⟩ := epiRow_gives s bad (hlen (16 * mb + i)) hgoes.1
    rw [List.foldl_cons]
    generalize epiRow e (s, bad) (16 * mb + i) (rows (16 * mb + i)) = r at hbad hmem honly ⊢
    obtain ⟨v, bad'⟩ := r
    obtain rfl : bad' = bad := hbad
    obtain ⟨hbad2, hmem2, honly2⟩ := ih v fun j hj => goes_of_writes honly (hgoes.2 j hj)
    have hstart : v.mem = putAll s.mem (outParts e (16 * mb + i) (rows (16 * mb + i))) := hmem
    refine ⟨hbad2, ?_, only_step honly2 (by decide) honly⟩
    rw [hmem2, hstart, List.flatMap_cons, putAll_append]

/-- What a row block leaves: its rows' writes, and no failure of its own. -/
structure BlockGives (e : Epi) (s : State) (bad : Bool) (mb : Nat) (rows : Nat → List W32) (r : State × Bool) : Prop where
  bad : r.2 = bad
  mem : r.1.mem = putAll s.mem ((List.range 16).flatMap fun i => outParts e (16 * mb + i) (rows (16 * mb + i)))
  only : OnlyChanges [.mem, .wordErr, .dirty] s r.1

theorem epiBlock_gives (s : State) (bad : Bool) (mb : Nat) (h : ∀ x ∈ rowStages e, stKind x ≠ 0x11) {rows : Nat → List W32}
    (hlen : ∀ m, (rows m).length = mxN e.w) (hrows : ∀ i, i < 16 → epiOut e s (16 * mb + i) = rows (16 * mb + i))
    (hgoes : ∀ i, i < 16 → Goes e s (16 * mb + i)) : BlockGives e s bad mb rows (epiBlock e (s, bad) mb) := by
  have hsame : (List.range 16).foldl (fun acc i => epiRow e acc (16 * mb + i) (epiOut e s (16 * mb + i))) (s, bad) =
      (List.range 16).foldl (fun acc i => epiRow e acc (16 * mb + i) (rows (16 * mb + i))) (s, bad) := by
    refine List.foldl_ext _ _ _ fun acc i hi => ?_
    rw [hrows i (List.mem_range.mp hi)]
  rw [epiBlock_eq s bad mb h, hsame]
  obtain ⟨hbad, hmem, honly⟩ := foldl_epiRow mb hlen (List.range 16) s bad fun i hi => hgoes i (List.mem_range.mp hi)
  exact ⟨hbad, hmem, honly⟩

end Sys2Proof.Matrix
end

section
/-! What an epilogue leaves in the slots and at its WRITE's place (R210 to R212). -/

namespace Sys2Proof.Matrix

open Sys2Proof Sys2Proof.Machine Sys2Proof.Laws Sys2Proof.Lasting Sys2Proof.Pins Sys2Proof.Phases
open Sys2Proof.Vector (putAll memByte_putAll readBytes_putAll get_putAll_outside strided_apart)

set_option linter.tactic.unusedName false

variable {s t u v : State} {c m : Nat} {w : BitVec 256} {eps : W32} {e : Epi} {x : BitVec 128} {row : List W32} {rows : Nat → List W32}

/-! ## Where the slots lie (R186) -/

theorem slotKey_eq (c : Nat) (wide : Bool) (i : Nat) : slotKey c wide i = accKey c 0 + i * slotBytes wide := by
  cases wide with
  | false => simp [slotKey, accKey, slotBytes]
  | true => simp [slotKey, accKey, slotBytes]

theorem slotBytes_bounds (wide : Bool) : 1024 ≤ slotBytes wide ∧ slotBytes wide ≤ 2048 := by
  cases wide <;> decide

/-- Two slots are apart. -/
theorem slots_apart (c : Nat) (wide : Bool) {i j : Nat} (h : i ≠ j) :
    slotKey c wide i + slotBytes wide ≤ slotKey c wide j ∨ slotKey c wide j + slotBytes wide ≤ slotKey c wide i := by
  rw [slotKey_eq, slotKey_eq]
  have hapart := strided_apart (base := accKey c 0) (le_refl (slotBytes wide)) h
  omega

theorem blockSlot_inj {a b i j : Nat} (hi : i < LMx.NB.get w + 1) (hj : j < LMx.NB.get w + 1) (h : blockSlot w a i = blockSlot w b j) : a = b ∧ i = j := by
  have hsum : (LMx.NB.get w + 1) * a + i = (LMx.NB.get w + 1) * b + j := by
    simp only [blockSlot, blockIndex, Nat.mul_comm _ (LMx.NB.get w + 1)] at h
    omega
  have hdiv := congrArg (· / (LMx.NB.get w + 1)) hsum
  simp only [Nat.mul_add_div (Nat.succ_pos _), Nat.div_eq_of_lt hi, Nat.div_eq_of_lt hj, Nat.add_zero] at hdiv
  subst hdiv
  exact ⟨rfl, by omega⟩

theorem blockSlot_lt {mb nb : Nat} (hmb : mb ≤ LMx.MB.get w) (hnb : nb < LMx.NB.get w + 1) : blockSlot w mb nb < 2048 := by
  have h0 : LMx.SLOT0.get w < 1024 := Instants.get_lt LMx.SLOT0 w
  have h1 : LMx.MB.get w < 16 := Instants.get_lt LMx.MB w
  have h2 : LMx.NB.get w < 64 := Instants.get_lt LMx.NB w
  have hle : mb * (LMx.NB.get w + 1) ≤ 15 * 64 := Nat.mul_le_mul (by omega) (by omega)
  rw [blockSlot, blockIndex]
  omega

/-- The slots of an instruction lie in 4 MB from the start of its core's accumulator memory. -/
theorem blockSlot_within (c : Nat) {mb nb : Nat} (hmb : mb ≤ LMx.MB.get w) (hnb : nb < LMx.NB.get w + 1) :
    accKey c 0 ≤ slotKey c (LMx.WIDE.on w) (blockSlot w mb nb) ∧
      slotKey c (LMx.WIDE.on w) (blockSlot w mb nb) + slotBytes (LMx.WIDE.on w) ≤ accKey c 0 + 0x400000 := by
  have hlt := blockSlot_lt hmb hnb
  have hle : (blockSlot w mb nb + 1) * slotBytes (LMx.WIDE.on w) ≤ 2048 * 2048 := Nat.mul_le_mul (by omega) (slotBytes_bounds _).2
  rw [Nat.add_mul, Nat.one_mul] at hle
  rw [slotKey_eq]
  omega

/-! ## Where the writes lie -/

/-- A write of row m into a block column: its words, or the zeros of wide mode. -/
theorem mem_blockParts {q : Nat × List Byte} {nb : Nat} (h : q ∈ blockParts c w m row nb) :
    q = (wordsKey c w m nb, wordsBytes ((row.drop (16 * nb)).take 16)) ∨
      q = (wordsKey c w m nb + 1024, List.replicate 64 0#8) ∧ LMx.WIDE.on w = true := by
  rw [blockParts, List.mem_cons] at h
  refine h.imp id fun h => ?_
  split at h
  next hw => exact ⟨List.mem_singleton.mp h, hw⟩
  next => exact absurd h List.not_mem_nil

theorem length_words_le (row : List W32) (nb : Nat) : (wordsBytes ((row.drop (16 * nb)).take 16)).length ≤ 64 := by
  have hle := List.length_take_le 16 (row.drop (16 * nb))
  rw [Vector.length_wordsBytes]
  omega

/-- A write of row m into a block column lies within the column's slot. -/
theorem blockParts_within {q : Nat × List Byte} {nb : Nat} (h : q ∈ blockParts c w m row nb) :
    slotKey c (LMx.WIDE.on w) (blockSlot w (m / 16) nb) ≤ q.1 ∧
      q.1 + q.2.length ≤ slotKey c (LMx.WIDE.on w) (blockSlot w (m / 16) nb) + slotBytes (LMx.WIDE.on w) := by
  have hlen := length_words_le row nb
  have hbytes := slotBytes_bounds (LMx.WIDE.on w)
  rcases mem_blockParts h with rfl | ⟨rfl, hw⟩
  · simp only [wordsKey]
    omega
  · have hwide : slotBytes (LMx.WIDE.on w) = 2048 := by rw [hw]; rfl
    simp only [wordsKey, List.length_replicate]
    omega

theorem mem_outParts {q : Nat × List Byte} (h : q ∈ outParts e m row) :
    (∃ nb, nb < LMx.NB.get e.w + 1 ∧ q ∈ blockParts e.core e.w m row nb) ∨
      ∃ x, e.dest = some x ∧ q = (writeDst e.core x + m * LStg.PITCH.get x * 64, wordsBytes row) := by
  rw [outParts, List.mem_append] at h
  refine h.imp (fun h => ?_) fun h => ?_
  · obtain ⟨nb, hnb, hq⟩ := List.mem_flatMap.mp h
    exact ⟨nb, List.mem_range.mp hnb, hq⟩
  · split at h
    · exact absurd h List.not_mem_nil
    next x hx => exact ⟨x, hx, List.mem_singleton.mp h⟩

/-- All writes of the first n row blocks. -/
def allParts (e : Epi) (rows : Nat → List W32) (n : Nat) : List (Nat × List Byte) :=
  (List.range n).flatMap fun mb => (List.range 16).flatMap fun i => outParts e (16 * mb + i) (rows (16 * mb + i))

theorem mem_allParts {q : Nat × List Byte} {n : Nat} (h : q ∈ allParts e rows n) : ∃ m, m < 16 * n ∧ q ∈ outParts e m (rows m) := by
  obtain ⟨mb, hmb, h⟩ := List.mem_flatMap.mp h
  obtain ⟨i, hi, h⟩ := List.mem_flatMap.mp h
  have hmb := List.mem_range.mp hmb
  have hi := List.mem_range.mp hi
  exact ⟨16 * mb + i, by omega, h⟩

theorem mem_allParts_of {q : Nat × List Byte} {n : Nat} (hm : m < 16 * n) (h : q ∈ outParts e m (rows m)) : q ∈ allParts e rows n := by
  refine List.mem_flatMap.mpr ⟨m / 16, List.mem_range.mpr (by omega), List.mem_flatMap.mpr ⟨m % 16, List.mem_range.mpr (by omega), ?_⟩⟩
  rw [Nat.div_add_mod]
  exact h

theorem allParts_succ (e : Epi) (rows : Nat → List W32) (n : Nat) : allParts e rows (n + 1) =
    allParts e rows n ++ (List.range 16).flatMap fun i => outParts e (16 * n + i) (rows (16 * n + i)) := by
  rw [allParts, List.range_succ (n := n), List.flatMap_append, List.flatMap_singleton, allParts]

/-! ## Row blocks that are not yet written (R211) -/

section
variable {n : Nat} (hdest : e.dest = none) (hmem : v.mem = putAll s.mem (allParts e rows n)) (hn : n ≤ LMx.MB.get e.w + 1)
include hdest hmem hn

theorem slotsAlone_of_parts : SlotsAlone s v e.core := fun k hk => memByte_putAll hmem fun q hq => by
  obtain ⟨m, hm, hq⟩ := mem_allParts hq
  rcases mem_outParts hq with ⟨nb, hnb, hq⟩ | ⟨x, hx, -⟩
  · have hslot := blockParts_within hq
    have hacc := blockSlot_within (w := e.w) e.core (mb := m / 16) (by omega) hnb
    omega
  · rw [hdest] at hx
    cases hx

omit hn in
theorem slot_of_parts {mb nb : Nat} (hmb : n ≤ mb) (hnb : nb < LMx.NB.get e.w + 1) :
    Agree s v (slotKey e.core (LMx.WIDE.on e.w) (blockSlot e.w mb nb)) (slotBytes (LMx.WIDE.on e.w)) := fun j hj => memByte_putAll hmem fun q hq => by
  obtain ⟨m, hm, hq⟩ := mem_allParts hq
  rcases mem_outParts hq with ⟨nb', hnb', hq⟩ | ⟨x, hx, -⟩
  · have hslot := blockParts_within hq
    have hne : blockSlot e.w (m / 16) nb' ≠ blockSlot e.w mb nb := fun h => by
      have := (blockSlot_inj hnb' hnb h).1
      omega
    have hapart := slots_apart e.core (LMx.WIDE.on e.w) hne
    omega
  · rw [hdest] at hx
    cases hx

omit hn in
theorem slotRow_of_parts (hm : n ≤ m / 16) : slotRow v e.core e.w m = slotRow s e.core e.w m := List.map_congr_left fun k hk => by
  have hk : k < mxN e.w := List.mem_range.mp hk
  have hcol : k / 16 < LMx.NB.get e.w + 1 := by rw [mxN] at hk; omega
  have hslot := slot_of_parts hdest hmem hm hcol
  have hbytes := slotBytes_bounds (LMx.WIDE.on e.w)
  dsimp only
  rw [readF32_of_agree (hslot.sub (by omega) (by omega))]
  by_cases hw : LMx.WIDE.on e.w = true
  · have hwide : slotBytes (LMx.WIDE.on e.w) = 2048 := by rw [hw]; rfl
    have hlo : Agree s v (slotKey e.core (LMx.WIDE.on e.w) (blockSlot e.w (m / 16) (k / 16)) + 4 * (m % 16 * 16 + k % 16) + 1024) 4 :=
      hslot.sub (by omega) (by omega)
    rw [readF32_of_agree hlo]
  · simp only [hw, Bool.false_eq_true, if_false]

theorem epiOut_of_parts (hcalm : ∀ x ∈ rowStages e, stageCalm e.quant e.w x = true) (hm : n ≤ m / 16) (hlt : m < mxM e.w) :
    epiOut e v m = epiOut e s m := by
  have halone := slotsAlone_of_parts hdest hmem hn
  rw [epiOut, slotRow_of_parts hdest hmem hm, epiOut]
  refine List.foldl_ext _ _ _ fun row x hx => ?_
  exact stageRow_of_slots halone m hlt row x (hcalm x hx)

end

theorem gateRow_of_mem (h : t.mem = s.mem) (c : Nat) (w : BitVec 256) (k m : Nat) : gateRow t c w k m = gateRow s c w k m := by
  rw [gateRow, readF32_of_mem h, gateRow]

theorem stageRow_of_mem (h : t.mem = s.mem) (c : Nat) (w : BitVec 256) (eps : W32) (m : Nat) : stageRow t c w eps m = stageRow s c w eps m := by
  funext row x
  simp only [stageRow, Vector.elemRow_of_mem h, readF32_of_mem h, gateRow_of_mem h, Vector.rotRow_of_mem h, Vector.rowPos_of_mem h]

theorem epiOut_of_mem (h : t.mem = s.mem) (e : Epi) (m : Nat) : epiOut e t m = epiOut e s m := by
  rw [epiOut, stageRow_of_mem h, slotRow, readF32_of_mem h, epiOut, slotRow]

/-! ## All row blocks -/

/-- An epilogue of one row block, or one whose stages and rows the slots it writes do not meet. -/
def Apart (e : Epi) : Prop := LMx.MB.get e.w = 0 ∨ (e.dest = none ∧ ∀ x ∈ rowStages e, stageCalm e.quant e.w x = true)

theorem epiBlocks_give (hmem : u.mem = s.mem) (hplain : ∀ x ∈ rowStages e, stKind x ≠ 0x11) (hapart : Apart e)
    (hgoes : ∀ m, m < mxM e.w → Goes e u m) (n : Nat) (hn : n ≤ LMx.MB.get e.w + 1) :
    ((List.range n).foldl (epiBlock e) (u, false)).2 = false ∧
    ((List.range n).foldl (epiBlock e) (u, false)).1.mem = putAll s.mem (allParts e (epiOut e s) n) ∧
    OnlyChanges [.mem, .wordErr, .dirty] u ((List.range n).foldl (epiBlock e) (u, false)).1 := by
  induction n with
  | zero => exact ⟨rfl, hmem, only_refl _ u⟩
  | succ n ih =>
    obtain ⟨hbad, hparts, honly⟩ := ih (by omega)
    rw [List.range_succ, List.foldl_append, List.foldl_cons, List.foldl_nil]
    generalize (List.range n).foldl (epiBlock e) (u, false) = r at hbad hparts honly ⊢
    obtain ⟨v, bad⟩ := r
    obtain rfl : bad = false := hbad
    have hrows : ∀ i, i < 16 → epiOut e v (16 * n + i) = epiOut e s (16 * n + i) := fun i hi => by
      rcases hapart with hone | ⟨hdest, hcalm⟩
      · obtain rfl : n = 0 := by omega
        exact epiOut_of_mem hparts e _
      · exact epiOut_of_parts hdest hparts (by omega) hcalm (by omega) (by rw [mxM]; omega)
    have hblock := epiBlock_gives v false n hplain (length_epiOut e s) hrows fun i hi => goes_of_writes honly (hgoes _ (by rw [mxM]; omega))
    refine ⟨hblock.bad, ?_, only_step hblock.only (by decide) honly⟩
    have hv : v.mem = putAll s.mem (allParts e (epiOut e s) n) := hparts
    rw [hblock.mem, hv, allParts_succ, putAll_append]

/-! ## What then stands in the slots and at the WRITE's place -/

/-- A WRITE to the scratchpad whose rows do not meet each other. -/
def WriteApart (e : Epi) : Prop := ∀ x, e.dest = some x → LMx.MB.get e.w = 0 ∧ LStg.SUB.get x = 0 ∧ 4 * mxN e.w ≤ LStg.PITCH.get x * 64 ∧
  LStg.BASE.get x * 64 + writeBytes none 16 (mxN e.w) (LStg.PITCH.get x) ≤ scratchBytes

/-- A WRITE's row lies in the scratchpad. -/
theorem writeRow_within (h : WriteApart e) (hx : e.dest = some x) (hm : m < mxM e.w) :
    writeDst e.core x + m * LStg.PITCH.get x * 64 + 4 * mxN e.w ≤ accKey e.core 0 := by
  obtain ⟨hmb, hsub, hpitch, hend⟩ := h x hx
  have hm : m < 16 := by rw [mxM, hmb] at hm; exact hm
  have hle : m * LStg.PITCH.get x * 64 ≤ (16 - 1) * LStg.PITCH.get x * 64 := Nat.mul_le_mul_right _ (Nat.mul_le_mul_right _ (by omega))
  have hscratch : scratchBytes = 0x180000 := rfl
  have hwrite : writeBytes none 16 (mxN e.w) (LStg.PITCH.get x) = (16 - 1) * LStg.PITCH.get x * 64 + mxN e.w * 32 / 8 := rfl
  have hkey := scratchKey_le_accKey e.core (k := LStg.BASE.get x * 64 + m * LStg.PITCH.get x * 64 + 4 * mxN e.w) (by omega)
  rw [writeDst, if_pos hsub]
  simp only [scratchKey] at hkey ⊢
  omega

section
variable (hmem : t.mem = putAll s.mem (allParts e rows (LMx.MB.get e.w + 1))) (hlen : ∀ m, (rows m).length = mxN e.w) (hwrite : WriteApart e)
include hmem hlen hwrite

theorem words_of_parts (hm : m < mxM e.w) {nb : Nat} (hnb : nb < LMx.NB.get e.w + 1) :
    readBytes t (wordsKey e.core e.w m nb) (wordsBytes (((rows m).drop (16 * nb)).take 16)).length = wordsBytes (((rows m).drop (16 * nb)).take 16) := by
  have hmax : mxM e.w = 16 * (LMx.MB.get e.w + 1) := rfl
  have hself : (wordsKey e.core e.w m nb, wordsBytes (((rows m).drop (16 * nb)).take 16)) ∈ blockParts e.core e.w m (rows m) nb := List.mem_cons_self
  refine readBytes_putAll hmem (mem_allParts_of (by omega) (List.mem_append_left _ (List.mem_flatMap.mpr ⟨nb, List.mem_range.mpr hnb, hself⟩)))
    fun q hq => ?_
  have hmine := blockParts_within hself
  have hacc := blockSlot_within (w := e.w) e.core (mb := m / 16) (by omega) hnb
  obtain ⟨m', hm', hq⟩ := mem_allParts hq
  rcases mem_outParts hq with ⟨nb', hnb', hq⟩ | ⟨x, hx, rfl⟩
  · by_cases hslot : blockSlot e.w (m' / 16) nb' = blockSlot e.w (m / 16) nb
    · obtain ⟨hrow, rfl⟩ := blockSlot_inj hnb' hnb hslot
      have hshort := length_words_le (rows m) nb'
      have hshort' := length_words_le (rows m') nb'
      rcases mem_blockParts hq with rfl | ⟨rfl, -⟩
      · by_cases heq : m' = m
        · subst heq
          exact .inl rfl
        · right
          simp only [wordsKey, hslot]
          omega
      · right
        simp only [wordsKey, hslot, List.length_replicate]
        omega
    · have hother := blockParts_within hq
      have hapart := slots_apart e.core (LMx.WIDE.on e.w) hslot
      dsimp only at hmine
      right
      dsimp only
      omega
  · have hend := writeRow_within hwrite hx (m := m') (by omega)
    have hbytes : (wordsBytes (rows m')).length = 4 * mxN e.w := by rw [Vector.length_wordsBytes, hlen]
    dsimp only at hmine
    right
    left
    dsimp only
    omega

/-- Each element of the slots is that of its row. -/
theorem readF32_of_parts (hm : m < mxM e.w) {n : Nat} (hn : n < mxN e.w) :
    readF32 t (slotKey e.core (LMx.WIDE.on e.w) (blockSlot e.w (m / 16) (n / 16)) + 4 * (m % 16 * 16 + n % 16)) = (rows m).getD n 0#32 := by
  have hcols : mxN e.w = 16 * (LMx.NB.get e.w + 1) := rfl
  have hwords := words_of_parts hmem hlen hwrite hm (nb := n / 16) (by omega)
  have hcount : (((rows m).drop (16 * (n / 16))).take 16).length = 16 := by
    rw [List.length_take, List.length_drop, hlen]
    omega
  rw [Vector.length_wordsBytes] at hwords
  have hread := readF32_of_words hwords (i := n % 16) (by omega)
  have hkey : slotKey e.core (LMx.WIDE.on e.w) (blockSlot e.w (m / 16) (n / 16)) + 4 * (m % 16 * 16 + n % 16) =
      wordsKey e.core e.w m (n / 16) + 4 * (n % 16) := by
    rw [wordsKey]
    omega
  have hget : (((rows m).drop (16 * (n / 16))).take 16).getD (n % 16) 0#32 = (rows m).getD n 0#32 := by
    rw [List.getD_eq_getElem?_getD, List.getElem?_take_of_lt (by omega), List.getElem?_drop, Nat.div_add_mod, List.getD_eq_getElem?_getD]
  rw [hkey, hread, hget]

/-- Each row of a WRITE stands at its place. -/
theorem write_of_parts (hx : e.dest = some x) (hm : m < 16) :
    readBytes t (writeDst e.core x + m * LStg.PITCH.get x * 64) (4 * mxN e.w) = wordsBytes (rows m) := by
  have hbytes : ∀ k, (wordsBytes (rows k)).length = 4 * mxN e.w := fun k => by rw [Vector.length_wordsBytes, hlen]
  obtain ⟨hmb, hsub, hpitch, hend⟩ := hwrite x hx
  have hmax : mxM e.w = 16 := by rw [mxM, hmb]
  have hself : (writeDst e.core x + m * LStg.PITCH.get x * 64, wordsBytes (rows m)) ∈ outParts e m (rows m) := by
    rw [outParts, hx]
    exact List.mem_append_right _ List.mem_cons_self
  have hplace := writeRow_within hwrite hx (m := m) (by omega)
  rw [← hbytes m]
  refine readBytes_putAll hmem (mem_allParts_of (by omega) hself) fun q hq => ?_
  obtain ⟨m', hm', hq⟩ := mem_allParts hq
  rcases mem_outParts hq with ⟨nb', hnb', hq⟩ | ⟨y, hy, rfl⟩
  · have hslot := blockParts_within hq
    have hacc := blockSlot_within (w := e.w) e.core (mb := m' / 16) (by omega) hnb'
    right
    right
    dsimp only
    rw [hbytes]
    omega
  · obtain rfl : x = y := Option.some.inj (hx.symm.trans hy)
    by_cases heq : m' = m
    · subst heq
      exact .inl rfl
    · have hrows := strided_apart (base := writeDst e.core x) hpitch heq
      right
      dsimp only
      rw [hbytes, hbytes, Nat.mul_assoc, Nat.mul_assoc]
      omega

end

end Sys2Proof.Matrix
end

section
/-! An epilogue's end: what it leaves of its core, and of a turn that it abandons (R210, R214, R471); the matrix instructions settled. -/

namespace Sys2Proof.Matrix

open Sys2Proof Sys2Proof.Machine Sys2Proof.Laws Sys2Proof.Lasting Sys2Proof.Pins Sys2Proof.Phases
open Sys2Proof.Vector (putAll)
open Sys2Proof.Slices (lasts_foldl_fst lasts_ite)
open Sys2Proof.Slices (lasts_fold lasts_rawWrite dupRiser_lasts)

set_option linter.tactic.unusedName false

variable {s t u v : State} {c b m : Nat} {w : BitVec 256} {r : MxRun} {e : Epi} {x : BitVec 128}

/-! ## What an epilogue's reads and writes leave -/

theorem noteCorr_lasts (s : State) (k n : Nat) (pip : Bool) : Lasts s (noteCorr s k n pip) := by
  have hcount : Lasts s (countCorr s k n pip) := lasts_fold (fun y w => by
    split
    · exact lasts_updIngot _ _ fun _ => rfl
    · exact lasts_countDev ..
    · exact lasts_countDev ..
    · exact lasts_refl y) _ s
  refine lasts_step (lasts_fold (fun y w => ?_) _ _) hcount
  split
  · rw [queueFix, updBankGroup, setBankGroup]
    exact lasts_updIngot _ _ fun _ => rfl
  · exact lasts_of_only (scrubFix_only ..) (by decide)
  · exact lasts_of_only (clearCorr_only ..) (by decide)

theorem noteRanges_lasts (s : State) (l : List (Nat × Nat)) : Lasts s (noteRanges s l) := lasts_fold (fun _ _ => noteCorr_lasts ..) l s

theorem sendHead_lasts (s : State) (b c k : Nat) (offs : List Nat) : Lasts s (sendHead s b c k offs) :=
  lasts_ite (lasts_refl s) (lasts_fold (fun _ _ => issueAs_lasts ..) offs s)

theorem riserRow_lasts (s : State) (b c : Nat) (x : BitVec 128) (m : Nat) (row : List W32) : Lasts s (riserRow s b c x m row).1 := by
  unfold riserRow
  extract_lets r p t value
  split
  · exact lasts_refl s
  · split
    · exact lasts_refl s
    · refine lasts_foldl_fst (fun y h => ?_) _ (s, false)
      exact lasts_step (dupRiser_lasts ..) (lasts_step (sendHead_lasts ..) (lasts_step (lasts_of_only (putHead_only ..) (by decide))
        (lasts_fold (fun _ _ => noteUncorr_lasts ..) _ _)))

theorem putAllowed_lasts (b : Nat) (acc : State × Bool) (parts : List (Nat × List Byte)) : Lasts acc.1 (putAllowed b acc parts).1 := by
  refine lasts_foldl_fst (fun y p => ?_) parts acc
  dsimp only
  split
  · exact noteUncorr_lasts ..
  · split
    · exact lasts_rawWrite ..
    · exact lasts_of_only (state_noteWindow_only y.1 (y.1.bind b).seat St.window) (by decide)

theorem epiRow_lasts (e : Epi) (acc : State × Bool) (m : Nat) (row : List W32) : Lasts acc.1 (epiRow e acc m row).1 := by
  have hrow : Lasts acc.1 (writeRow e.core e.w m acc.1 row) := lasts_of_only (writeRow_only ..) (by decide)
  unfold epiRow
  extract_lets u
  split
  · exact hrow
  · split
    · split
      · exact hrow
      · exact lasts_step (riserRow_lasts ..) hrow
    · exact lasts_step (putAllowed_lasts ..) hrow

theorem epiStage_lasts (e : Epi) (mb : Nat) (acc : EpiRows) (x : BitVec 128) : Lasts acc.1 (epiStage e mb acc x).1 := by
  unfold epiStage
  split
  · exact putAllowed_lasts e.binding (acc.1, acc.2.1) _
  · exact lasts_refl acc.1

theorem epiBlock_lasts (e : Epi) (acc : State × Bool) (mb : Nat) : Lasts acc.1 (epiBlock e acc mb).1 := by
  unfold epiBlock
  extract_lets start a
  have hstages : ∀ (l : List (BitVec 128)) (y : EpiRows), Lasts y.1 (l.foldl (epiStage e mb) y).1 := by
    intro l
    induction l with
    | nil => exact fun y => lasts_refl y.1
    | cons x l ih => exact fun y => lasts_step (ih _) (epiStage_lasts e mb y x)
  exact lasts_step (lasts_foldl_fst (fun _ _ => epiRow_lasts ..) _ (a.1, a.2.1)) (hstages _ start)

/-! ## A failure stays noted to the end (R214) -/

theorem foldl_snd_true {α β : Type} {f : β × Bool → α → β × Bool} (h : ∀ y a, y.2 = true → (f y a).2 = true) (l : List α) :
    ∀ y : β × Bool, y.2 = true → (l.foldl f y).2 = true := by
  induction l with
  | nil => exact fun _ => id
  | cons a l ih => exact fun y hy => ih _ (h y a hy)

theorem putAllowed_failed (b : Nat) (acc : State × Bool) (parts : List (Nat × List Byte)) (h : acc.2 = true) : (putAllowed b acc parts).2 = true := by
  refine foldl_snd_true (fun y p hy => ?_) parts acc h
  dsimp only
  split
  · rfl
  · split
    · exact hy
    · rfl

theorem epiRow_failed (e : Epi) (acc : State × Bool) (m : Nat) (row : List W32) (h : acc.2 = true) : (epiRow e acc m row).2 = true := by
  unfold epiRow
  extract_lets u
  split
  · exact h
  · split
    · split
      · rfl
      · show (acc.2 || _) = true
        rw [h, Bool.true_or]
    · exact putAllowed_failed _ _ _ h

theorem epiBlock_failed (e : Epi) (acc : State × Bool) (mb : Nat) (h : acc.2 = true) : (epiBlock e acc mb).2 = true := by
  unfold epiBlock
  extract_lets start a
  have hstages : ∀ (l : List (BitVec 128)) (y : EpiRows), y.2.1 = true → (l.foldl (epiStage e mb) y).2.1 = true := by
    intro l
    induction l with
    | nil => exact fun _ => id
    | cons x l ih =>
      refine fun y hy => ih _ ?_
      unfold epiStage
      split
      · exact putAllowed_failed _ _ _ hy
      · exact hy
  exact foldl_snd_true (fun _ _ hy => epiRow_failed _ _ _ _ hy) _ _ (hstages _ start h)

/-! ## The epilogue as a whole -/

/-- What an epilogue's reads count and log. -/
def epiRead (e : Epi) (s : State) : State :=
  match badRange s (epiReads e) with
  | some r => noteUncorr s r.1 r.2 3 (s.bind e.binding).seat (some e.binding)
  | none => noteRanges s (epiReads e)

/-- The epilogue's row blocks. -/
def epiBlocks (e : Epi) (s : State) : State × Bool :=
  (List.range (LMx.MB.get e.w + 1)).foldl (epiBlock e) (epiRead e s, (badRange s (epiReads e)).isSome)

/-- The instruction is off its engine, counted. -/
def epiEnded (e : Epi) (s : State) : State :=
  ((epiBlocks e s).1.countCore e.core 0x068 (mxBlocks e.w)).updCore e.core (fun x => { x with run := none })

theorem epilogue_eq (e : Epi) (s : State) : epilogue e s =
    if (epiBlocks e s).2 then abandonTurn (epiEnded e s) e.binding else riserWrote (epiEnded e s) e := rfl

theorem epiBlocks_lasts (e : Epi) (s : State) : Lasts s (epiBlocks e s).1 := by
  have hread : Lasts s (epiRead e s) := by
    unfold epiRead
    split
    · exact noteUncorr_lasts ..
    · exact noteRanges_lasts ..
  exact lasts_step (lasts_foldl_fst (fun _ _ => epiBlock_lasts ..) _ (epiRead e s, (badRange s (epiReads e)).isSome)) hread

theorem epiEnded_core (e : Epi) (s : State) : ((epiEnded e s).core e.core).run = none ∧
    Tab.get ((epiEnded e s).core e.core).ctr 0#64 0x068 = Tab.get (s.core e.core).ctr 0#64 0x068 + BitVec.ofNat 64 (mxBlocks e.w) := by
  have hctr := (epiBlocks_lasts e s).core_ctr e.core
  rw [epiEnded, State.updCore, setCore_core, State.countCore, State.updCore, setCore_core]
  refine ⟨rfl, ?_⟩
  rw [← hctr]
  exact get_set_self ..

theorem abandonTurn_engine (s : State) (b c : Nat) : engineOf ((abandonTurn s b).core c) = engineOf (s.core c) := by
  cases h : inFlight s b with
  | false => rw [abandonTurn_of_other h]
  | true =>
    obtain ⟨l, hlasts⟩ := abandonTurn_lasts h
    exact hlasts.engine c

theorem epilogue_engine (e : Epi) (s : State) (c : Nat) : engineOf ((epilogue e s).core c) = engineOf ((epiEnded e s).core c) := by
  rw [epilogue_eq]
  split
  · exact abandonTurn_engine ..
  · rw [core_of_cores ((riserWrote_only ..).same .cores (by decide))]

theorem fields_of_engine {x y : Core} (h : engineOf x = engineOf y) : x.run = y.run ∧ x.ctr = y.ctr :=
  ⟨(congrArg Core.run h : (engineOf x).run = (engineOf y).run), (congrArg Core.ctr h : (engineOf x).ctr = (engineOf y).ctr)⟩

theorem epilogue_core (e : Epi) (s : State) : ((epilogue e s).core e.core).run = none ∧
    Tab.get ((epilogue e s).core e.core).ctr 0#64 0x068 = Tab.get (s.core e.core).ctr 0#64 0x068 + BitVec.ofNat 64 (mxBlocks e.w) := by
  obtain ⟨hrun, hctr⟩ := fields_of_engine (epilogue_engine e s e.core)
  rw [hrun, hctr]
  exact epiEnded_core e s

/-- An uncorrectable operand leaves the turn abandoned. -/
theorem epilogue_faults (hb : layerHolder s = some e.binding) (hbad : badRange s (epiReads e) ≠ none) :
    bFaulted ((epilogue e s).bind e.binding) = true := by
  have hsome : (badRange s (epiReads e)).isSome = true := Option.isSome_iff_ne_none.mpr hbad
  have hfailed : (epiBlocks e s).2 = true := foldl_snd_true (fun _ _ h => epiBlock_failed _ _ _ h) _ _ hsome
  have hflight : inFlight (epiEnded e s) e.binding = true := by
    have hsame : inFlight (epiEnded e s) e.binding = inFlight (epiBlocks e s).1 e.binding :=
      inFlight_of_binds (((state_updCore_only ..).same .binds (by decide)).trans ((state_countCore_only ..).same .binds (by decide))) _
    rw [hsame, Ends.inFlight_of_lasts (epiBlocks_lasts e s)]
    exact inFlight_of_layerHolder hb
  rw [epilogue_eq, if_pos hfailed]
  exact (abandonTurn_block hflight).2

/-! ## Its results -/

section
variable (hgood : badRange s (epiReads e) = none) (hplain : ∀ x ∈ rowStages e, stKind x ≠ 0x11) (hapart : Apart e)
include hgood hplain hapart

theorem epilogue_mem (hgoes : ∀ m, m < mxM e.w → Goes e s m) :
    (epilogue e s).mem = putAll s.mem (allParts e (epiOut e s) (LMx.MB.get e.w + 1)) := by
  have hread : epiRead e s = noteRanges s (epiReads e) := by rw [epiRead, hgood]
  have hseen := Walks.seeing_noteRanges s (epiReads e)
  have hallow : writeAllowed (noteRanges s (epiReads e)) = writeAllowed s := by
    funext seat k n
    rw [writeAllowed, hseen.addrStatus, Vector.devAddr_of_fab hseen.fab, Vector.inWindows_of_same hseen.fab hseen.seats, hseen.ownedArea,
      writeAllowed]
  obtain ⟨hfine, hmem, -⟩ := epiBlocks_give (s := s) (u := noteRanges s (epiReads e)) hseen.mem hplain hapart (fun m hm x hx => by
    rw [hallow, hseen.seat]
    exact hgoes m hm x hx) (LMx.MB.get e.w + 1) le_rfl
  have hblocks : epiBlocks e s = (List.range (LMx.MB.get e.w + 1)).foldl (epiBlock e) (noteRanges s (epiReads e), false) := by
    rw [epiBlocks, hread, hgood]
    rfl
  rw [epilogue_eq, if_neg (by rw [hblocks, hfine]; exact Bool.false_ne_true), (riserWrote_only ..).same .mem (by decide), epiEnded,
    (state_updCore_only ..).same .mem (by decide), (state_countCore_only ..).same .mem (by decide), hblocks, hmem]

end

/-! ## The row -/

theorem epiDue_gives (h : epiDue s c = some e) : e.core = c ∧ layerHolder s = some e.binding := by
  unfold epiDue at h
  split at h
  · cases h
  next r hr =>
    split at h
    next hdue =>
      cases h
      rw [Bool.and_eq_true, beq_iff_eq] at hdue
      exact ⟨rfl, hdue.2⟩
    · cases h

theorem epilogue_runs {P : State → Prop} (hrun : running .arith s = true) (hc : c < 256) (hdue : epiDue s c = some e)
    (hmeet : copiesMeet s e = false) (hP : P (epilogue e s)) : Runs (.epilogue c) s P := by
  have hrow : exec (.epilogue c) s = execEpilogue c s := rfl
  refine runs_of_when (hrow.trans (by rw [execEpilogue])) hrun (by simp [coreOk, hc]) ?_
  rw [hdue]
  dsimp only
  rw [hmeet, if_neg Bool.false_ne_true]
  exact hP

/-- The statement's stages: none is a ROWMAX, and with more than one row block none reads what the epilogue writes. -/
def Calm (e : Epi) : Prop := e.stages.all (fun x => stKind x != 0x11 && (LMx.MB.get e.w == 0 ||
  (stKind x != 0x0B && (stageRanges e.quant e.w x).all (fun r => decide (r.1 + r.2 ≤ scratchBytes))))) = true

theorem plain_of_calm (h : Calm e) : ∀ x ∈ rowStages e, stKind x ≠ 0x11 := fun x hx => by
  have hcalm := List.all_eq_true.mp h x (List.mem_of_mem_filter hx)
  simp only [Bool.and_eq_true, bne_iff_ne] at hcalm
  exact hcalm.1

theorem apart_of_calm (h : Calm e) (hdest : e.dest = none) : Apart e := by
  refine or_iff_not_imp_left.mpr fun hmb => ⟨hdest, fun x hx => ?_⟩
  have hcalm := List.all_eq_true.mp h x (List.mem_of_mem_filter hx)
  simp only [Bool.and_eq_true, Bool.or_eq_true, beq_iff_eq, hmb, false_or] at hcalm
  simp only [stageCalm, Bool.and_eq_true]
  exact hcalm.2

/-- Without a WRITE the slots hold the rows as the stages leave them. -/
theorem epilogue_slots (hgood : badRange s (epiReads e) = none) (hcalm : Calm e) (hdest : e.dest = none) {n : Nat} (hm : m < mxM e.w)
    (hn : n < mxN e.w) : readF32 (epilogue e s) (slotKey e.core (LMx.WIDE.on e.w) (blockSlot e.w (m / 16) (n / 16)) + 4 * (m % 16 * 16 + n % 16)) =
      (epiOut e s m).getD n 0#32 := by
  have hno : ∀ x, e.dest ≠ some x := fun x hx => by rw [hdest] at hx; cases hx
  have hmem := epilogue_mem hgood (plain_of_calm hcalm) (apart_of_calm hcalm hdest) fun _ _ x hx => absurd hx (hno x)
  exact readF32_of_parts hmem (length_epiOut e s) (fun x hx => absurd hx (hno x)) hm hn

/-- The rows of a WRITE stand at its place. -/
theorem epilogue_writes (hgood : badRange s (epiReads e) = none) (hcalm : Calm e) (hx : e.dest = some x) (hmb : LMx.MB.get e.w = 0)
    (hsub : LStg.SUB.get x = 0) (hquant : e.quant = none) (hpitch : 4 * mxN e.w ≤ LStg.PITCH.get x * 64)
    (hend : LStg.BASE.get x * 64 + writeBytes none 16 (mxN e.w) (LStg.PITCH.get x) ≤ scratchBytes)
    (hallow : ∀ m, m < 16 → writeAllowed s (s.bind e.binding).seat (writeDst e.core x + m * LStg.PITCH.get x * 64) (4 * mxN e.w) = true)
    (hm : m < 16) : readBytes (epilogue e s) (writeDst e.core x + m * LStg.PITCH.get x * 64) (4 * mxN e.w) = wordsBytes (epiOut e s m) := by
  have hone : ∀ y, e.dest = some y → y = x := fun y hy => Option.some.inj (hy.symm.trans hx)
  have hmax : mxM e.w = 16 := by rw [mxM, hmb]
  have hmem := epilogue_mem hgood (plain_of_calm hcalm) (.inl hmb) fun m hm y hy => by
    obtain rfl := hone y hy
    exact ⟨hsub, hquant, hallow m (by omega)⟩
  refine write_of_parts hmem (length_epiOut e s) (fun y hy => ?_) hx hm
  obtain rfl := hone y hy
  exact ⟨hmb, hsub, hpitch, hend⟩

/-! ## The obligation -/

/-- Settles O40: an MX_MMA by the steps its row performs, MMA_FINISH block by block, EPILOGUE by the list of its writes. -/
theorem matrixInstructionsRun : Obligations.MatrixInstructionsRun := by
  unfold Obligations.MatrixInstructionsRun
  intro s c b w r e hrun hc
  refine ⟨fun hb hop => ⟨fun hnone hheld => mxMma_begins hrun hc hb hop hnone hheld, fun hr hw hbind => ?_⟩, fun hdue hok hgood => ?_,
    fun hdue hmeet => ?_⟩
  · subst hw hbind
    obtain ⟨hran, hlast⟩ := mxMma_continues hrun hc hop hb hr
    refine ⟨hran, fun hend hwait hgood hsprue => ?_⟩
    obtain ⟨t, ht, hblock, houtside, hbused, hstays⟩ := hlast hend hwait hgood hsprue
    refine ⟨t, ht, ?_, houtside, hbused, hstays⟩
    rw [stepBlock, List.map_map] at hblock
    exact hblock
  · obtain ⟨t, ht, hstays, hblocks⟩ := mmaFinish_gives hrun hc hdue hok hgood
    refine ⟨t, ht, hstays, fun i hi => ?_⟩
    obtain ⟨hentry, hslot, hsince⟩ := hblocks i hi
    exact ⟨hentry, hslot, hsince⟩
  · obtain ⟨rfl, hb⟩ := epiDue_gives hdue
    refine ⟨epilogue_runs hrun hc hdue hmeet (epilogue_core e s), fun hbad => epilogue_runs hrun hc hdue hmeet (epilogue_faults hb hbad),
      fun hgood hcalm hdest => epilogue_runs hrun hc hdue hmeet fun m n hm hn => epilogue_slots hgood hcalm hdest hm hn,
      fun x hgood hcalm hx hmb hsub hquant hpitch hend hallow => epilogue_runs hrun hc hdue hmeet fun m hm =>
        epilogue_writes hgood hcalm hx hmb hsub hquant hpitch hend hallow hm⟩

end Sys2Proof.Matrix
end
